-- ==== Sys2Proof/Word.lean ====
section
/-!
DEFINITION. The word types of the DX-7: every register is 32 bits wide (R13), memory is addressed in bytes, and
field words follow the logic engine's bit order (R155 onwards).
-/

namespace Sys2Proof

/-- A 32-bit register, or a logic-engine word. -/
abbrev Word := BitVec 32

/-- One byte of memory, of a frame or of an image. -/
abbrev Byte := BitVec 8

end Sys2Proof
end

