-- ==== Sys2Proof/Syntax.lean ====
section
/-!
DEFINITION. The commands of the module: one constructor for each row of the opcode table, with what the command brings
from outside as its operands. Every command but the instructions of a logic engine carries `t`, the global time in ns of
its instant; commands that happen at Ranger carry Ranger's own `tick` instead.
-/

namespace Sys2Proof

/-- The rising thresholds of R270. -/
inductive Rising where
  | warningCleared | recovery
  deriving DecidableEq, Repr

/-- The falling thresholds of R270. -/
inductive Falling where
  | warning | undervoltage | unpowered
  deriving DecidableEq, Repr

/-- The steps of an off-pulse within its slot (R263): the slot begins and the group chooses its channel; 100 µs later
the switch opens; the judgement sample; the switch closes. -/
inductive PulseStep where
  | begin | opens | judge | closes
  deriving DecidableEq, Repr

/-- How the reload of step 4 ended (R133, R136). -/
inductive Reload where
  | ok
  | checkpointBad
  | laneDiffers (l : Fin 3)
  deriving DecidableEq, Repr

/-- Where a debugger access to a stand goes. -/
inductive DbgTarget where
  /-- An integer or floating-point register or a CSR of lane A, by its debug number. -/
  | reg (n : Nat)
  /-- Memory or a device register at a physical address. -/
  | mem (addr : Nat)
  deriving DecidableEq, Repr

/-- One image area of a vehicle key (R74, R75): the container at offsets 0x0000 to 0x1FFF, and the payload. -/
structure KeyArea where
  container : List Byte
  payload : List Byte
  deriving DecidableEq, Repr

/-- What a vehicle key holds (R74): the descriptor, the slots of both journals that are not past the last one written
(64 bytes each; later slots read 0xFF), both image areas. -/
structure KeyMem where
  desc : List Byte
  comm : List (List Byte)
  hist : List (List Byte)
  areaA : KeyArea
  areaB : KeyArea
  deriving DecidableEq, Repr

/-- What a debugger reads of lane A of an engine (R171, R235); stack entries are numbered from the bottom. -/
inductive LeReg where
  | pc | ba | wa | xr | si | ov | ip
  | branch (i : Fin 16)
  | call (i : Fin 8)
  deriving DecidableEq, Repr

/-- A debugger write to a register of lane A, or to a byte of data memory (R235). -/
inductive LeWrite where
  | pc (v : BitVec 18)
  | ba (v : Bool)
  | wa (v : Word)
  | xr (v : BitVec 20)
  | si (v : Bool)
  | ov (v : Bool)
  | ip (v : BitVec 19)
  | branch (i : Fin 16) (b : Bool) (op : Fin 8)
  | call (i : Fin 8) (pc : BitVec 18) (ip : BitVec 19) (xr : BitVec 20) (depth : Fin 17)
  | data (off : Fin 524288) (v : Byte)
  deriving DecidableEq, Repr

/-- A master that reads or writes coded memory (ECC_UE_INFO.MASTER): a stand, for its data or an instruction fetch; an
engine, likewise; the other masters; an eviction of the L2. -/
inductive MemMaster where
  | stand (k : Fin 4)
  | standFetch (k : Fin 4)
  | engine (e : Fin 4)
  | engineFetch (e : Fin 4)
  | recorder | canopy | rootway | understory | loader | debug | update | eviction
  deriving DecidableEq, Repr

/-- Who reads or writes a device register: a hart of a stand, or the debug transport. -/
inductive RegMaster where
  | hart (h : Fin 12)
  | debugger
  deriving DecidableEq, Repr
/-- The commands. -/
inductive Instr where
  /-- `REGISTER_WRITE` (R16). A write to a register field that has no behaviour of its own sets, clears or ignores the
  field according to its access code, and a write of a width or alignment other than 32 bits faults. -/
  | registerWrite (m : RegMaster) (addr : BitVec 36) (size : Fin 4) (v : BitVec 32) (x : Nat) (t : Nat)
  /-- `POWER_ON` (R53). The module begins its start sequence once at least one feed has been good for 20 ms. -/
  | powerOn (vstore : Nat) (t : Nat)
  /-- `FEED_GOOD` (R49). A feed has stayed above the feed-good threshold for 50 µs and is judged good, which ends a
  power-fail that has not yet reached flush entry. -/
  | feedGood (n : Fin 2) (t : Nat)
  /-- `FEED_LOST` (R49). A feed has stayed below the feed-lost threshold for 20 µs and is judged lost. -/
  | feedLost (n : Fin 2) (t : Nat)
  /-- `FEED_LOW_SET` (R49). A feed has stayed below the low warning for 20 µs, and LOW sets. -/
  | feedLowSet (n : Fin 2) (t : Nat)
  /-- `FEED_LOW_CLEAR` (R49). A feed has stayed above the low warning for 50 µs, and LOW clears. -/
  | feedLowClear (n : Fin 2) (t : Nat)
  /-- `FEED_HIGH_SET` (R49). A feed has stayed above the high warning for 20 µs, and HIGH sets. -/
  | feedHighSet (n : Fin 2) (t : Nat)
  /-- `FEED_HIGH_CLEAR` (R49). A feed has stayed below the high warning for 50 µs, and HIGH clears. -/
  | feedHighClear (n : Fin 2) (t : Nat)
  /-- `REVERSE_CURRENT_EVENT` (R55). Current into a feed's + contact exceeds 1 A; the ideal diode blocks it, REV sets
  and REVCNT counts the event. -/
  | reverseCurrentEvent (n : Fin 2) (t : Nat)
  /-- `FEED_REPORT_REFRESH` (R54). Every 1 ms the power manager publishes the feed health report as one double-
  buffered image and increments PWR_FEED_SEQ. -/
  | feedReportRefresh (va ia vb ib vstore t : Nat)
  /-- `HOLDUP_MEASURED` (R57). At a start the store reaches 50 V under its charging current; the capacitance is
  reported and AGED is set if it is below 1200 µF. -/
  | holdupMeasured (cap t : Nat)
  /-- `READY_SET` (R58). A charge of the store reaches 50 V, and READY sets. -/
  | readySet (t : Nat)
  /-- `READY_CLEAR` (R58). The store falls below 50 V, and READY clears. -/
  | readyClear (t : Nat)
  /-- `FLUSH_ENTRY` (R61). At t0 + 10 ms, or when the store falls to 38 V, the module enters flush mode: engines stop,
  outputs go to fallback, permits are withdrawn, the stands lose power and the recorder writes staging and retain
  areas. -/
  | flushEntry (vstore : Nat) (t : Nat)
  /-- `FLUSH_SEQUENCER_HANDOVER` (R62). A lane difference or lane failure of the flush sequencer hands sequencing to
  the next qualifying engine within 5 µs, and the write in progress is repeated. -/
  | flushSequencerHandover (t : Nat)
  /-- `FLUSH_SEAL` (R61). The flush writes complete; the recorder writes the seal record and the module parks, leaving
  only the always-on island powered. -/
  | flushSeal (t : Nat)
  /-- `STORE_EXHAUSTED` (R64). The store reaches 20 V; the always-on island stops, and a power-fail that has not
  sealed ends without a seal. -/
  | storeExhausted (t : Nat)
  /-- `PLL_LOCK` (R90). The reference and PLLs lock; Coppice applies the repair map and log, the boot ROM starts on
  S0, the PHYs begin negotiation and Ranger begins its key phase. -/
  | pllLock (t : Nat)
  /-- `RANGER_KEY_PHASE_END` (R85). Ranger completes its key phase, chooses an area, computes the parameter CRC, looks
  for a confirmation, enters its next state and releases the key lines. -/
  | rangerKeyPhaseEnd (busErr : Bool) (tick t : Nat)
  /-- `KEY_READ_DONE` (R84). The processor die finishes reading and verifying the key, chooses an image area and
  checks agreement with Ranger, setting the start state. -/
  | keyReadDone (fault : Fin 3) (t : Nat)
  /-- `KEY_APPLY_DONE` (R90). Key apply completes: KL registers are loaded, the scanner starts, the blaze table and
  programs are admitted and retain copies read. -/
  | keyApplyDone (bad : BitVec 4) (t : Nat)
  /-- `FIRMWARE_LOAD_DONE` (R534). The firmware load phase chooses, verifies and loads a slot, and stand firmware
  starts, or Seedling is entered if no slot verifies. -/
  | firmwareLoadDone (t : Nat)
  /-- `ALONE_TIMEOUT` (R93). No Canopy port has link 5.0 s after the start, and the module runs as a train of one node
  on its own time base. -/
  | aloneTimeout (t : Nat)
  /-- `KEY_PRESENT_CHANGE` (R73). Contact X2.9 changes; KEY_STAT is updated, REMOVED may set and a record is written.
  -/
  | keyPresentChange (m : Option KeyMem) (t : Nat)
  /-- `KEY_LATCH_CHANGE` (R73). Contact X2.11 changes; KEY_STAT is updated, UNLATCHED may set and a record is written.
  -/
  | keyLatchChange (closed : Bool) (t : Nat)
  /-- `CONFIRMATION_WRITE` (R97). A write of 0x434F_4E46 to KEY_CONF_CMD starts a commissioning confirmation write if
  every condition holds, otherwise sets FAIL with a reason. -/
  | confirmationWrite (t : Nat)
  /-- `CONFIRMATION_DONE` (R97). The confirmation record has been programmed and read back, and DONE or FAIL is set.
  -/
  | confirmationDone (back : List Byte) (t : Nat)
  /-- `HISTORY_RECORD_WRITE` (R99). After its first join the module compares its serial with the last history record
  and, if it differs, writes a history record and a replacement record. -/
  | historyRecordWrite (back : Option (List Byte)) (t : Nat)
  /-- `VOTER_MISMATCH` (R115). A stand lane's bus request, retired store or signature differs from the others; in
  TRIAD the minority lane is fenced, in a pair the stand fails silent. -/
  | voterMismatch (k : Fin 4) (l : Fin 3) (item : Fin 3) (t : Nat)
  /-- `VOTER_XY_DISAGREE` (R114). Voter X and voter Y of a stand disagree, and the stand fails silent. -/
  | voterXyDisagree (k : Fin 4) (t : Nat)
  /-- `CORE_BIST_DONE` (R118). Background logic BIST of a fenced core or a spare ends; the core returns suspect, is
  retired, or the spare is proven and spare-ready is raised. -/
  | coreBistDone (c : Fin 15) (fail werr : Bool) (t : Nat)
  /-- `AGREEMENT_POINT` (R125). After 64 retired instructions or 256 core clocks the lanes exchange their asynchronous
  inputs, agree them, and take interrupts, wake-ups and halts. -/
  | agreementPoint (k : Fin 4) (da db dc : BitVec 256) (halts : BitVec 3) (ta tb tc lat : Nat) (t : Nat)
  /-- `HANDOVER_REQUEST` (R131). A write to STD_Sk_MODE_REQ with token 0xA5 requests a hand-over or is refused with
  REQERR. -/
  | handoverRequest (hart : Fin 12) (k : Fin 4) (v : BitVec 32) (t : Nat)
  /-- `HANDOVER_ACCEPT` (R133). At an agreement point with the conditions met, the hand-over drains, checkpoints,
  resets, reloads and resumes the stand with its new lane set. -/
  | handoverAccept (k : Fin 4) (t : Nat)
  /-- `STAND_RESET` (R122). A write of the reset token to STD_Sk_RST resets the stand, running BIST first if it was
  FAILED, and forms it again at STARTPC. -/
  | standReset (hart : Fin 12) (k : Fin 4) (t : Nat)
  /-- `DEBUG_ATTACH` (R140). The debug transport attaches to lane A of one stand or engine and sets NOTSAFE. -/
  | debugAttach (engine : Bool) (n : Fin 4) (t : Nat)
  /-- `DEBUG_DETACH` (R140). The debug transport detaches; NOTSAFE stays set. -/
  | debugDetach (t : Nat)
  /-- `DEBUG_HALT_STAND` (R141). A debug halt request halts all running lanes of the attached stand together at an
  agreement point. -/
  | debugHaltStand (k : Fin 4) (t : Nat)
  /-- `DEBUG_STEP_STAND` (R141). A single step executes one instruction on every lane of the stand and halts again at
  an agreement point. -/
  | debugStepStand (k : Fin 4) (t : Nat)
  /-- `DEBUG_RESUME_STAND` (R143). On resume the replay queue is applied to lanes B and C and the lanes resume
  together. -/
  | debugResumeStand (k : Fin 4) (t : Nat)
  /-- `DEBUG_READ_STAND` (R142). A debugger read of a register, CSR or memory is served by lane A alone and clears no
  read-clear field. -/
  | debugReadStand (k : Fin 4) (target : DbgTarget) (n : Nat) (v : BitVec 64) (t : Nat)
  /-- `DEBUG_WRITE_STAND` (R143). A debugger write is applied through lane A and queued for replay, or refused when
  the 256-entry queue is full. -/
  | debugWriteStand (k : Fin 4) (target : DbgTarget) (bs : List Byte) (t : Nat)
  /-- `CLAIM_READ` (R148). A voted read of STD_Sk_CLAIM_M or STD_Sk_CLAIM_S returns the offered source and clears its
  pending bit for that stand. -/
  | claimRead (hart : Fin 12) (k : Fin 4) (sup : Bool) (t : Nat)
  /-- `SOFTWARE_EVENT` (R154). A write to STD_SWEVT asserts software event sources 240 + b for each set bit. -/
  | softwareEvent (hart : Fin 12) (bits : BitVec 16) (t : Nat)
  /-- `LOOKOUT_SERVICE_FIRST` (R151). The first service write 0x0000_A55A to STD_LKO_SVC opens the 64 µs service
  sequence, or causes a reset if early or from another stand. -/
  | lookoutServiceFirst (hart : Fin 12) (t : Nat)
  /-- `LOOKOUT_SERVICE_SECOND` (R151). The second service write completes a service and starts a new window, or causes
  a reset if its value is wrong. -/
  | lookoutServiceSecond (hart : Fin 12) (v : BitVec 32) (t : Nat)
  /-- `LOOKOUT_TIMEOUT` (R151). No service arrives by MAX, and Lookout makes a module reset. -/
  | lookoutTimeout (t : Nat)
  /-- `LOOKOUT_SEQUENCE_TIMEOUT` (R151). The second service write has not come within 64 µs of the first, and Lookout
  makes a module reset. -/
  | lookoutSequenceTimeout (t : Nat)
  /-- `LOOKOUT_START_LIMIT` (R153). No service has come 5 s after the start, or 250 ms after an activation, and
  Lookout makes a module reset. -/
  | lookoutStartLimit (t : Nat)
  /-- `STAND_LE_MEMORY_ACCESS` (R164). A stand reads or writes a logic-engine program bank or data memory, atomically,
  or faults where not permitted. -/
  | standLeMemoryAccess (hart : Fin 12) (addr : BitVec 36) (size : Fin 4) (value : Option (BitVec 64)) (t : Nat)
  /-- `LD` (R174). Loads a bit into BA. -/
  | leLd (e : Fin 4) (mod : Fin 4) (x : Fin 16) (opnd : Fin 1048576)
  /-- `LDN` (R174). Loads the negated bit into BA. -/
  | leLdn (e : Fin 4) (mod : Fin 4) (x : Fin 16) (opnd : Fin 1048576)
  /-- `AND` (R174). ANDs a bit into BA. -/
  | leAnd (e : Fin 4) (mod : Fin 4) (x : Fin 16) (opnd : Fin 1048576)
  /-- `ANDN` (R174). ANDs the negated bit into BA. -/
  | leAndn (e : Fin 4) (mod : Fin 4) (x : Fin 16) (opnd : Fin 1048576)
  /-- `OR` (R174). ORs a bit into BA. -/
  | leOr (e : Fin 4) (mod : Fin 4) (x : Fin 16) (opnd : Fin 1048576)
  /-- `ORN` (R174). ORs the negated bit into BA. -/
  | leOrn (e : Fin 4) (mod : Fin 4) (x : Fin 16) (opnd : Fin 1048576)
  /-- `XOR` (R174). XORs a bit into BA. -/
  | leXor (e : Fin 4) (mod : Fin 4) (x : Fin 16) (opnd : Fin 1048576)
  /-- `XORN` (R174). XORs the negated bit into BA. -/
  | leXorn (e : Fin 4) (mod : Fin 4) (x : Fin 16) (opnd : Fin 1048576)
  /-- `ST` (R174). Stores BA into a bit. -/
  | leSt (e : Fin 4) (mod : Fin 4) (x : Fin 16) (opnd : Fin 1048576)
  /-- `STN` (R174). Stores the negation of BA into a bit. -/
  | leStn (e : Fin 4) (mod : Fin 4) (x : Fin 16) (opnd : Fin 1048576)
  /-- `S` (R174). Sets a bit if BA is 1. -/
  | leS (e : Fin 4) (mod : Fin 4) (x : Fin 16) (opnd : Fin 1048576)
  /-- `R_OP` (R174). The R instruction clears a bit if BA is 1. -/
  | leROp (e : Fin 4) (mod : Fin 4) (x : Fin 16) (opnd : Fin 1048576)
  /-- `LDS` (R174). Loads a bit, or its negation, into SI. -/
  | leLds (e : Fin 4) (mod : Fin 4) (x : Fin 16) (opnd : Fin 1048576)
  /-- `NOT` (R174). Negates BA. -/
  | leNot (e : Fin 4) (mod : Fin 4) (x : Fin 16) (opnd : Fin 1048576)
  /-- `BOPEN` (R177). Pushes BA and a pending operation on the branch stack and loads a bit into BA. -/
  | leBopen (e : Fin 4) (mod : Fin 4) (x : Fin 16) (opnd : Fin 1048576)
  /-- `BCLOSE` (R177). Pops the branch stack and combines the pushed BA with BA by the pending operation. -/
  | leBclose (e : Fin 4) (mod : Fin 4) (x : Fin 16) (opnd : Fin 1048576)
  /-- `LDW` (R179). Loads a word operand into WA. -/
  | leLdw (e : Fin 4) (mod : Fin 4) (x : Fin 16) (opnd : Fin 1048576)
  /-- `STW` (R179). Stores WA, truncated to size, into memory. -/
  | leStw (e : Fin 4) (mod : Fin 4) (x : Fin 16) (opnd : Fin 1048576)
  /-- `ADD` (R180). Adds the operand to WA, setting OV on signed overflow. -/
  | leAdd (e : Fin 4) (mod : Fin 4) (x : Fin 16) (opnd : Fin 1048576)
  /-- `SUB` (R180). Subtracts the operand from WA, setting OV on signed overflow. -/
  | leSub (e : Fin 4) (mod : Fin 4) (x : Fin 16) (opnd : Fin 1048576)
  /-- `MUL` (R180). Multiplies WA by the operand, keeping the low 32 bits and setting OV on signed overflow. -/
  | leMul (e : Fin 4) (mod : Fin 4) (x : Fin 16) (opnd : Fin 1048576)
  /-- `ANDW` (R174). ANDs the operand into WA. -/
  | leAndw (e : Fin 4) (mod : Fin 4) (x : Fin 16) (opnd : Fin 1048576)
  /-- `ORW` (R174). ORs the operand into WA. -/
  | leOrw (e : Fin 4) (mod : Fin 4) (x : Fin 16) (opnd : Fin 1048576)
  /-- `XORW` (R174). XORs the operand into WA. -/
  | leXorw (e : Fin 4) (mod : Fin 4) (x : Fin 16) (opnd : Fin 1048576)
  /-- `SHL` (R180). Shifts WA left by the operand. -/
  | leShl (e : Fin 4) (mod : Fin 4) (x : Fin 16) (opnd : Fin 1048576)
  /-- `SHR` (R180). Shifts WA right by the operand with zero fill. -/
  | leShr (e : Fin 4) (mod : Fin 4) (x : Fin 16) (opnd : Fin 1048576)
  /-- `SAR` (R180). Shifts WA right by the operand with sign fill. -/
  | leSar (e : Fin 4) (mod : Fin 4) (x : Fin 16) (opnd : Fin 1048576)
  /-- `LDHI` (R174). Loads OPND × 0x1000 into WA. -/
  | leLdhi (e : Fin 4) (mod : Fin 4) (x : Fin 16) (opnd : Fin 1048576)
  /-- `LDX` (R174). Loads WA[19:0] into XR. -/
  | leLdx (e : Fin 4) (mod : Fin 4) (x : Fin 16) (opnd : Fin 1048576)
  /-- `CEQ` (R174). Sets BA to WA equal to the operand. -/
  | leCeq (e : Fin 4) (mod : Fin 4) (x : Fin 16) (opnd : Fin 1048576)
  /-- `CNE` (R174). Sets BA to WA not equal to the operand. -/
  | leCne (e : Fin 4) (mod : Fin 4) (x : Fin 16) (opnd : Fin 1048576)
  /-- `CGT` (R180). Sets BA to WA greater than the operand, signed or unsigned. -/
  | leCgt (e : Fin 4) (mod : Fin 4) (x : Fin 16) (opnd : Fin 1048576)
  /-- `CGE` (R180). Sets BA to WA greater than or equal to the operand. -/
  | leCge (e : Fin 4) (mod : Fin 4) (x : Fin 16) (opnd : Fin 1048576)
  /-- `CLT` (R180). Sets BA to WA less than the operand. -/
  | leClt (e : Fin 4) (mod : Fin 4) (x : Fin 16) (opnd : Fin 1048576)
  /-- `CLE` (R180). Sets BA to WA less than or equal to the operand. -/
  | leCle (e : Fin 4) (mod : Fin 4) (x : Fin 16) (opnd : Fin 1048576)
  /-- `BTOW` (R174). Sets WA to BA as 0 or 1. -/
  | leBtow (e : Fin 4) (mod : Fin 4) (x : Fin 16) (opnd : Fin 1048576)
  /-- `WTOB` (R174). Sets BA to WA not zero. -/
  | leWtob (e : Fin 4) (mod : Fin 4) (x : Fin 16) (opnd : Fin 1048576)
  /-- `SIG` (R198). Asserts the engine's program event if BA is 1. -/
  | leSig (e : Fin 4) (mod : Fin 4) (x : Fin 16) (opnd : Fin 1048576)
  /-- `JMP` (R174). Jumps forward by OPND + 1. -/
  | leJmp (e : Fin 4) (mod : Fin 4) (x : Fin 16) (opnd : Fin 1048576)
  /-- `JC` (R174). Jumps forward if BA is 1. -/
  | leJc (e : Fin 4) (mod : Fin 4) (x : Fin 16) (opnd : Fin 1048576)
  /-- `JCN` (R174). Jumps forward if BA is 0. -/
  | leJcn (e : Fin 4) (mod : Fin 4) (x : Fin 16) (opnd : Fin 1048576)
  /-- `RET` (R184). Returns from a user block, restoring PC, IP, XR and checking the branch depth. -/
  | leRet (e : Fin 4) (mod : Fin 4) (x : Fin 16) (opnd : Fin 1048576)
  /-- `RETC` (R184). Returns from a user block if BA is 1. -/
  | leRetc (e : Fin 4) (mod : Fin 4) (x : Fin 16) (opnd : Fin 1048576)
  /-- `END` (R183). Ends the cycle's execution; the engine reports its deadline, publishes, runs any pending swap or
  stop, and begins the next take. -/
  | leEnd (e : Fin 4) (mod : Fin 4) (x : Fin 16) (opnd : Fin 1048576) (gap t : Nat)
  /-- `CALLU` (R184). Calls a user block, checking the instance pointer and pushing the call stack. -/
  | leCallu (e : Fin 4) (mod : Fin 4) (x : Fin 16) (opnd : Fin 1048576)
  /-- `TON` (R187). CALLH of the on-delay timer block. -/
  | leTon (e : Fin 4) (mod : Fin 4) (opnd : Fin 1048576)
  /-- `TOF` (R187). CALLH of the off-delay timer block. -/
  | leTof (e : Fin 4) (mod : Fin 4) (opnd : Fin 1048576)
  /-- `TP` (R187). CALLH of the pulse timer block. -/
  | leTp (e : Fin 4) (mod : Fin 4) (opnd : Fin 1048576)
  /-- `CTU` (R188). CALLH of the up-counter block. -/
  | leCtu (e : Fin 4) (mod : Fin 4) (opnd : Fin 1048576)
  /-- `CTD` (R188). CALLH of the down-counter block. -/
  | leCtd (e : Fin 4) (mod : Fin 4) (opnd : Fin 1048576)
  /-- `R_TRIG` (R189). CALLH of the rising-edge block. -/
  | leRTrig (e : Fin 4) (mod : Fin 4) (opnd : Fin 1048576)
  /-- `F_TRIG` (R189). CALLH of the falling-edge block. -/
  | leFTrig (e : Fin 4) (mod : Fin 4) (opnd : Fin 1048576)
  /-- `SR` (R189). CALLH of the set-dominant bistable. -/
  | leSr (e : Fin 4) (mod : Fin 4) (opnd : Fin 1048576)
  /-- `RS` (R189). CALLH of the reset-dominant bistable. -/
  | leRs (e : Fin 4) (mod : Fin 4) (opnd : Fin 1048576)
  /-- `CMP` (R190). CALLH of the compare block with hysteresis. -/
  | leCmp (e : Fin 4) (mod : Fin 4) (opnd : Fin 1048576)
  /-- `LIMIT` (R190). CALLH of the limit block. -/
  | leLimit (e : Fin 4) (mod : Fin 4) (opnd : Fin 1048576)
  /-- `MOVE` (R190). CALLH of the move block, copying LEN bytes when BA is 1. -/
  | leMove (e : Fin 4) (mod : Fin 4) (opnd : Fin 1048576)
  /-- `EQV2` (R191). CALLH of the two-channel equivalence block with discrepancy time. -/
  | leEqv2 (e : Fin 4) (mod : Fin 4) (opnd : Fin 1048576)
  /-- `ILLEGAL_INSTRUCTION` (R175). An illegal instruction word or a missing hardware block number causes a program
  fault. -/
  | illegalInstruction (e : Fin 4) (word : BitVec 32)
  /-- `LE_LANE_MISMATCH` (R158). An engine lane differs from the other two and is fenced, or a degraded pair differs
  and the engine takes fault 0x0C. -/
  | leLaneMismatch (e l : Fin 4) (t : Nat)
  /-- `LE_VOTER_XY_DISAGREE` (R157). Voter X and voter Y of an engine disagree, which is a lane failure of the engine.
  -/
  | leVoterXyDisagree (e : Fin 4) (t : Nat)
  /-- `LOAD` (R224). LE_Ee_CMD LOAD starts the loader on an image in shared SRAM into the shadow bank, or is refused
  with reason 0x13. -/
  | leLoad (e : Fin 4) (t : Nat)
  /-- `ADMISSION_DONE` (R207). Admission of a loaded image ends and sets ADM_STAT, SHADOW, SH_CLK, SH_BOUND and ADMEV.
  -/
  | admissionDone (e : Fin 4) (t : Nat)
  /-- `DISCARD` (R224). LE_Ee_CMD DISCARD sets SHADOW to EMPTY unless a swap is pending. -/
  | leDiscard (e : Fin 4) (t : Nat)
  /-- `SWAP` (R226). LE_Ee_CMD SWAP sets SHADOW to SWAP_PENDING so the swap runs after the next publish. -/
  | leSwap (e : Fin 4) (t : Nat)
  /-- `WARM` (R216). LE_Ee_CMD WARM starts a warm restart from the retain shadow. -/
  | leWarm (e : Fin 4) (t : Nat)
  /-- `COLD` (R216). LE_Ee_CMD COLD starts a cold restart. -/
  | leCold (e : Fin 4) (t : Nat)
  /-- `STOP` (R222). LE_Ee_CMD STOP makes the engine stop at the end of the cycle in progress. -/
  | leStop (e : Fin 4) (t : Nat)
  /-- `RESTART_COMPLETE` (R217). A warm or cold restart completes, and the engine waits for its first take at the next
  cycle mark. -/
  | restartComplete (e : Fin 4) (t : Nat)
  /-- `ENGINE_FUNCTION_RESET` (R520). A write to SYS_FRST with token 0x46 resets one logic engine, discarding the
  shadow and restarting it cold. -/
  | engineFunctionReset (e : Fin 4) (t : Nat)
  /-- `HOST_WINDOW_WRITE` (R210). A stand write to an engine's host window lands in the host staging copy, or faults
  outside the window. -/
  | hostWindowWrite (hart : Fin 12) (addr : BitVec 36) (size : Fin 4) (value : BitVec 64) (t : Nat)
  /-- `FORCE_COMMIT` (R230). A write to LE_Ee_FRCi_ADDR commits a force entry with its value, or is refused with
  FRCERR for a SAFE_OUTPUT command bit or misalignment. -/
  | forceCommit (e : Fin 4) (i : Fin 256) (v : BitVec 32) (t : Nat)
  /-- `HALT` (R234). LE_Ee_DBG_CTL HALT stops all engine lanes at an instruction boundary. -/
  | leHalt (e : Fin 4) (t : Nat)
  /-- `RESUME` (R235). LE_Ee_DBG_CTL RESUME applies the replay queue and resumes the engine. -/
  | leResume (e : Fin 4) (gap t : Nat)
  /-- `STEP` (R234). LE_Ee_DBG_CTL STEP executes one instruction and halts again. -/
  | leStep (e : Fin 4) (gap t : Nat)
  /-- `STEPCYC` (R234). LE_Ee_DBG_CTL STEPCYC runs to the next cycle boundary and halts after the publish. -/
  | leStepcyc (e : Fin 4) (gap t : Nat)
  /-- `LE_BREAKPOINT` (R197). An enabled breakpoint is reached and the engine halts before the instruction executes.
  -/
  | leBreakpoint (e : Fin 4) (t : Nat)
  /-- `DEBUG_WRITE_ENGINE` (R235). A debugger write to an engine register of lane A is queued for replay, or refused
  when the 32-entry queue is full. -/
  | debugWriteEngine (e : Fin 4) (w : LeWrite) (t : Nat)
  /-- `DEBUG_READ_ENGINE` (R235). A debugger read of an engine register is served by lane A. -/
  | debugReadEngine (e : Fin 4) (r : LeReg) (t : Nat)
  /-- `LE_NAP_ENTRY` (R503). An engine UNLOADED, STOPPED or FAULTED for 1 ms enters Nap when NAPENG is set. -/
  | leNapEntry (e : Fin 4) (t : Nat)
  /-- `SCANNER_SAMPLE` (R247). At each 10 µs instant of global time every channel is sampled, filtered, read back and
  published as group images. -/
  | scannerSample (levels : BitVec 192) (t : Nat)
  /-- `OUTPUT_STALE` (R214). The image applied last by a Free group's output stage exceeds twice the admitted bound,
  and the group goes to fallback within 1 µs. -/
  | outputStale (g : Fin 12) (t : Nat)
  /-- `COUNTER_EDGE` (R253). An edge on a COUNTER or FREQUENCY channel passes the glitch filter and updates the count,
  position, quadrature error or frequency gate. -/
  | counterEdge (n : Fin 192) (level both : Bool) (t : Nat)
  /-- `FREQUENCY_GATE_TIMEOUT` (R254). A frequency gate is still open 100 ms after opening and closes with the value
  from the edges seen. -/
  | frequencyGateTimeout (n : Fin 192) (t : Nat)
  /-- `STATUS_LINK_FRAME` (R240). Every 10 µs a group's status link delivers L+, channel currents, temperature and
  switch faults. -/
  | statusLinkFrame (g : Fin 12) (volt : Nat) (currs : List Nat) (temp : BitVec 8) (limit : BitVec 16) (t : Nat)
  /-- `STATUS_LINK_LOST` (R240). A group's status link delivers no valid frame for 50 µs and the group is treated as
  unpowered. -/
  | statusLinkLost (g : Fin 12) (t : Nat)
  /-- `SUPPLY_FALLING_CROSS` (R270). Twenty consecutive L+ measurements lie below a falling threshold, and the group's
  supply state changes. -/
  | supplyFallingCross (g : Fin 12) (th : Falling) (t : Nat)
  /-- `SUPPLY_RISING_CROSS` (R270). L+ measurements have all lain above a rising threshold for 100 ms, and the group's
  supply state changes. -/
  | supplyRisingCross (g : Fin 12) (th : Rising) (t : Nat)
  /-- `OFF_PULSE_SLOT` (R263). A 2 ms off-pulse slot begins; its group chooses a due channel, opens its switch, judges
  the pulse and closes it again. -/
  | offPulseSlot (step : PulseStep) (t : Nat)
  /-- `OUTPUT_TRIP` (R265). A channel has been in current limit for the trip time; TRIP is set and the channel
  latches. -/
  | outputTrip (n : Fin 192) (t : Nat)
  /-- `THERMAL_SHUTDOWN` (R265). A switch junction of an output channel exceeds the shutdown temperature; THERM is set
  and the channel latches. -/
  | thermalShutdown (n : Fin 192) (t : Nat)
  /-- `AUTO_RETRY` (R267). RDELAY after a TRIP or THERM latch with RETRY set, the channel is released and RETRIES
  increases. -/
  | autoRetry (n : Fin 192) (t : Nat)
  /-- `RETRIES_CLEAR` (R267). A channel has stayed energised for 60 s without a trip and RETRIES returns to 0. -/
  | retriesClear (n : Fin 192) (t : Nat)
  /-- `CHANNEL_ACK` (R268). IOG_Gg_ACK CHMASK acknowledges channels, clearing latching flags and RETRIES and releasing
  their latches. -/
  | channelAck (g : Fin 12) (mask : BitVec 16) (t : Nat)
  /-- `SUPPLY_ACK` (R271). IOG_Gg_ACK SUPPLY acknowledges RECOVERED, releasing the supply latch. -/
  | supplyAck (g : Fin 12) (t : Nat)
  /-- `GROUP_RESET` (R272). A write of the reset token to IOG_Gg_RST resets the group's scanner and output stage. -/
  | groupReset (g : Fin 12) (t : Nat)
  /-- `GROUP_RESET_DONE` (R272). The group function reset completes and RSTDONE sets. -/
  | groupResetDone (g : Fin 12) (t : Nat)
  /-- `RANGER_LEVEL_SAMPLE` (R278). Every 380 Ranger ticks every sense lane is sampled, filtered and checked for
  permit readback. -/
  | rangerLevelSample (levels : BitVec 192) (tick : Nat)
  /-- `RANGER_EVALUATION` (R285). Every 760 ticks Ranger evaluates every instance, compares its two channels, checks
  the oscillator, updates every permit lane and sends a mirror image. -/
  | rangerEvaluation (chanDiff : Bool) (ratio tick t : Nat)
  /-- `RANGER_EDGE` (R278). Ranger captures and time-stamps an edge on channels 0 to 3 of a group for its encoder and
  speed functions. -/
  | rangerEdge (n : Fin 192) (level : Bool) (tick : Nat)
  /-- `RANGER_SAFE_COPY` (R295). A copy of a safe frame reaches Ranger and is judged against its connection table, and
  accepted or rejected. -/
  | rangerSafeCopy (plane : Fin 2) (frame : List Byte) (tick : Nat)
  /-- `RANGER_CONNECTION_TIMEOUT` (R296). A connection's timeout in ticks passes since its last accepted message; it
  stops being fresh and TMO counts. -/
  | rangerConnectionTimeout (c : Fin 8) (tick : Nat)
  /-- `RANGER_QUAD_HOLD_END` (R290). 100 ms after a quadrature error the encoder instances of the pair are released.
  -/
  | rangerQuadHoldEnd (pair : Fin 192) (tick : Nat)
  /-- `RANGER_PARAM_CRC_CHECK` (R279). Once per second Ranger checks the CRC of its parameter memory, and a difference
  is a Ranger fault. -/
  | rangerParamCrcCheck (crc : BitVec 32) (tick t : Nat)
  /-- `RANGER_MIRROR_IMAGE` (R304). A Ranger mirror image arrives and is exchanged into the RNG_ registers, with
  records written for every change. -/
  | rangerMirrorImage (t : Nat)
  /-- `RANGER_MIRROR_LOST` (R304). No mirror image arrives for 100 µs; LINK clears and an alarm record is written. -/
  | rangerMirrorLost (t : Nat)
  /-- `CYCLE_MARK` (R311). Global time reaches a multiple of Tc; a new cycle begins and join states, first takes and
  restarts proceed from it. -/
  | cycleMark (noRes : List Nat) (t : Nat)
  /-- `SYNC_SLOT` (R324). A sync master sends its sync frame in its slot on all ports of both planes. -/
  | syncSlot (t : Nat)
  /-- `SYNC_FRAME` (R324). A sync frame is received, time-stamped, its residence added to CORR and forwarded. -/
  | syncFrame (port : Fin 4) (frame : List Byte) (fcs : Bool) (res t : Nat)
  /-- `SYNC_CORRECTION` (R326). The receiver computes the cycle's deviations and correction and applies it by slew or
  step, advancing its sync state. -/
  | syncCorrection (t : Nat)
  /-- `EVENT_WINDOW_OPEN` (R309). The time-triggered window ends and held event-triggered frames may be sent. -/
  | eventWindowOpen (t : Nat)
  /-- `EVENT_FRAME` (R309). An event-triggered frame is queued or forwarded by destination, or dropped when the queue
  is full or the destination unknown. -/
  | eventFrame (port : Fin 4) (frame : List Byte) (fcs : Bool) (t : Nat)
  /-- `BLAZE_DUE` (R329). 2 µs before its OFFSET a transmit blaze takes its source and sends the frame, a repeat, a
  safe message or nothing. -/
  | blazeDue (b : Fin 1024) (t : Nat)
  /-- `BLAZE_FRAME` (R332). A blaze frame arrives, is forwarded, passed to Ranger if marked, and accepted or discarded
  and its payload delivered. -/
  | blazeFrame (port : Fin 4) (frame : List Byte) (fcs : Bool) (t : Nat)
  /-- `BLAZE_JUDGEMENT` (R368). At its judgement instant a receive blaze is judged empty or delivered, RUN, status
  word and substitutes are updated and safe copies compared. -/
  | blazeJudgement (b : Fin 1024) (t : Nat)
  /-- `HOST_BUFFER_COMMIT` (R331). A write to CNP_HTX_CMT exchanges the halves of a transmit host buffer, stamps it
  and increments SEQ. -/
  | hostBufferCommit (h : Fin 64) (t : Nat)
  /-- `TIME_READ` (R346). A read of CNP_TIME_LO returns global time and latches CNP_TIME_HI. -/
  | timeRead (t : Nat)
  /-- `CLAIM_REQUEST` (R341). CNP_CLAIM_REQ claim sends a claim frame for a spare blaze, or is refused with ERR. -/
  | claimRequest (paylen : Fin 2048) (t : Nat)
  /-- `RELEASE_REQUEST` (R342). CNP_CLAIM_REQ release sends a release frame freeing a held spare blaze or segment. -/
  | releaseRequest (t : Nat)
  /-- `LISTEN_REQUEST` (R341). CNP_CLAIM_REQ listen delivers a held spare blaze into a host buffer of this module. -/
  | listenRequest (paylen : Fin 2048) (t : Nat)
  /-- `CLAIM_FRAME` (R340). A claim or release frame is received and every module records its outcome. -/
  | claimFrame (frame : List Byte) (t : Nat)
  /-- `CLAIM_EFFECT` (R340). The cycle EFFECT of a claim is reached and the claim holds from then. -/
  | claimEffect (t : Nat)
  /-- `PLANE_RESET` (R344). A write of the reset token to CNP_PLRST resets one Canopy plane's switch, queues and
  counters. -/
  | planeReset (plane : Fin 2) (t : Nat)
  /-- `PLANE_RESET_DONE` (R344). The plane reset completes within 100 µs and the plane forwards again. -/
  | planeResetDone (plane : Fin 2) (t : Nat)
  /-- `LINK_UP` (R350). A Canopy port's link comes up and may start an inauguration or a link measurement. -/
  | linkUp (port : Fin 4) (t : Nat)
  /-- `LINK_DOWN` (R350). A Canopy port's link goes down; the other plane carries on. -/
  | linkDown (port : Fin 4) (t : Nat)
  /-- `SIDE_LOSS_TIMEOUT` (R350). A side that had a link in the train has had no link up on either plane for 20 ms and
  starts an inauguration. -/
  | sideLossTimeout (side : Fin 2) (t : Nat)
  /-- `START` (R357). An inauguration START frame is received or sent, starting or joining the inauguration of its
  INA. -/
  | trainStart (port : Fin 4) (frame : List Byte) (t : Nat)
  /-- `HELLO` (R354). A HELLO frame identifies the neighbour on one link. -/
  | trainHello (port : Fin 4) (frame : List Byte) (t : Nat)
  /-- `DREQ` (R360). A delay request is received and answered with a DRESP carrying the time stamps. -/
  | trainDreq (port : Fin 4) (frame : List Byte) (t : Nat)
  /-- `DRESP` (R360). A delay response completes one of the 16 exchanges that measure a link delay. -/
  | trainDresp (port : Fin 4) (frame : List Byte) (t : Nat)
  /-- `RECORD` (R355). A node's RECORD flood is received and collected. -/
  | trainRecord (port : Fin 4) (frame : List Byte) (t : Nat)
  /-- `BLAZES` (R356). A consist's BLAZES flood is received and collected. -/
  | trainBlazes (port : Fin 4) (frame : List Byte) (t : Nat)
  /-- `DIGEST` (R357). A DIGEST flood is received and compared with the node's own TOPOCRC. -/
  | trainDigest (port : Fin 4) (frame : List Byte) (t : Nat)
  /-- `COMMIT` (R363). A COMMIT flood is received; a matching one ends the inauguration phase and sets EFFECT, a
  differing one fails it. -/
  | trainCommit (port : Fin 4) (frame : List Byte) (t : Nat)
  /-- `NEIGHBOUR_TIMEOUT` (R357). At t_s + 30 ms the NEIGHBOUR phase ends and unmeasured ports count as down. -/
  | neighbourTimeout (t : Nat)
  /-- `INAUGURATION_DEADLINE` (R358). The committer has not sent COMMIT by 155 ms, or another node has no matching
  COMMIT by 230 ms, and the inauguration fails and restarts. -/
  | inaugurationDeadline (t : Nat)
  /-- `TABLE_EFFECT` (R363). At the mark of EFFECT the new table takes effect: node IDs, delays, routes, segment
  shifts, bindings and sync slots. -/
  | tableEffect (t : Nat)
  /-- `CONTEXT_LOCK` (R384). Setting CVU_CTXLOCK.LOCK checks every enabled context and locks them, or sets LOCKERR. -/
  | contextLock (t : Nat)
  /-- `CONTEXT_TIMEOUT` (R389). A receive context passes TIMEOUT since its last delivery, loses freshness and acts on
  its blaze as if LOSSN were reached. -/
  | contextTimeout (c : Fin 128) (t : Nat)
  /-- `UNIT_RESTART` (R391). CVU_Uu_CTL RESTART reloads the initial value of a window-mode check-value unit. -/
  | unitRestart (u : Fin 8) (t : Nat)
  /-- `UNIT_FRAME_RESULT` (R392). A check-value unit completes a frame or window result and, with CMP set, compares it
  with EXP. -/
  | unitFrameResult (u : Fin 8) (t : Nat)
  /-- `CVU_RESET` (R394). A write of the reset token to CVU_RST resets every unit and the run state of every context.
  -/
  | cvuReset (t : Nat)
  /-- `CVU_RESET_DONE` (R394). The check-value reset completes within 10 µs and contexts restart. -/
  | cvuResetDone (t : Nat)
  /-- `WINDOW_LOAD` (R406). A stand load through a Rootway window sends READ and blocks until the response or the
  timeout. -/
  | windowLoad (hart : Fin 12) (addr : BitVec 36) (size : Fin 4) (t : Nat)
  /-- `WINDOW_STORE` (R408). A stand store through a Rootway window is posted as a WRITE, or logged with QFULL when
  the queue is full. -/
  | windowStore (hart : Fin 12) (addr : BitVec 36) (size : Fin 4) (data : BitVec 64) (t : Nat)
  /-- `WINDOW_LR` (R412). An LR through a window sends LOCKRD, first sending UNLOCK for another held lock. -/
  | windowLr (hart : Fin 12) (addr : BitVec 36) (size : Fin 4) (t : Nat)
  /-- `WINDOW_SC` (R412). An SC through a window sends WRUNLK. -/
  | windowSc (hart : Fin 12) (addr : BitVec 36) (size : Fin 4) (data : BitVec 64) (t : Nat)
  /-- `WINDOW_AMO` (R412). An AMO through a window sends AMO for atomic execution at the target. -/
  | windowAmo (hart : Fin 12) (addr : BitVec 36) (size : Fin 4) (fn : BitVec 5) (data : BitVec 64) (t : Nat)
  /-- `READ` (R401). An inbound READ is judged against the aperture and executed or answered with a status. -/
  | rwRead (plane : Fin 2) (node : Fin 129) (msg : List Byte) (t : Nat)
  /-- `WRITE` (R401). An inbound posted WRITE is judged and executed at once, and answered with WACK. -/
  | rwWrite (plane : Fin 2) (node : Fin 129) (msg : List Byte) (t : Nat)
  /-- `LOCKRD` (R415). An inbound LOCKRD is granted, stalled, refused with BUSY or answered RETRY under the lock
  conflict rule. -/
  | rwLockrd (plane : Fin 2) (node : Fin 129) (msg : List Byte) (t : Nat)
  /-- `WRUNLK` (R413). An inbound WRUNLK writes and releases the lock, or returns LOCKTMO without a live lock. -/
  | rwWrunlk (plane : Fin 2) (node : Fin 129) (msg : List Byte) (t : Nat)
  /-- `UNLOCK` (R413). An inbound UNLOCK releases the aperture lock and serves the stall queue. -/
  | rwUnlock (plane : Fin 2) (node : Fin 129) (msg : List Byte) (t : Nat)
  /-- `AMO` (R412). An inbound AMO is executed as lock, read, modify, write and unlock in one step. -/
  | rwAmo (plane : Fin 2) (node : Fin 129) (msg : List Byte) (t : Nat)
  /-- `POLL` (R416). An inbound POLL is answered with the aperture's doorbell value. -/
  | rwPoll (plane : Fin 2) (node : Fin 129) (msg : List Byte) (t : Nat)
  /-- `RESP` (R406). A response completes a blocking Rootway operation, faults it, reflects a doorbell, or triggers a
  resend after RETRY. -/
  | rwResp (node : Fin 129) (msg : List Byte) (t : Nat)
  /-- `WACK` (R409). A write acknowledge completes a posted write, logging a failure status. -/
  | rwWack (node : Fin 129) (msg : List Byte) (t : Nat)
  /-- `ROOTWAY_TIMEOUT` (R409). A Rootway operation gets no response within 2 ms and fails with TIMEOUT. -/
  | rootwayTimeout (t : Nat)
  /-- `LOCK_EXPIRY` (R414). A granted lock reaches 100 µs without renewal and expires, releasing the stall queue. -/
  | lockExpiry (a : Fin 4) (t : Nat)
  /-- `FENCE_READ` (R411). A read of RWY_Ww_FENCE waits for earlier posted writes of the window and returns the first
  failure status. -/
  | fenceRead (hart : Fin 12) (w : Fin 16) (t : Nat)
  /-- `DOORBELL_POLL` (R416). Once per cycle each enabled window with DBPOLL sends a POLL to its target. -/
  | doorbellPoll (t : Nat)
  /-- `APERTURE_ENABLE` (R400). A write of EN = 1 to RWY_Aa_CFG enables the aperture or is refused with CFGERR. -/
  | apertureEnable (a : Fin 4) (v : BitVec 32) (t : Nat)
  /-- `ROOTWAY_RESET` (R418). A write of the reset token to RWY_RST fails every outstanding operation with RESET and
  releases every inbound lock. -/
  | rootwayReset (t : Nat)
  /-- `TUNNEL_FRAME` (R420). A tunnel frame is received from a peer and its frame transmitted on the local port in SEQ
  order, or discarded. -/
  | tunnelFrame (frame : List Byte) (t : Nat)
  /-- `PORT_FRAME_RECEIVE` (R420). A frame received at an understory port is taken by a tunnel or written to the
  receive ring. -/
  | portFrameReceive (p : Fin 6) (msg : Bool) (body : List Byte) (fcs : Bool) (t : Nat)
  /-- `TX_RING_WRITE` (R424). Firmware advances a port's transmit tail, and the records are sent in ring order. -/
  | txRingWrite (p : Fin 6) (tail : BitVec 24) (t : Nat)
  /-- `PORT_ENABLE` (R423). A write of EN from 0 to 1 in UST_Pp_CFG starts the port with its new configuration. -/
  | portEnable (p : Fin 6) (v : BitVec 32) (t : Nat)
  /-- `PORT_DISABLE` (R423). A write clearing EN stops the port after the current frame. -/
  | portDisable (p : Fin 6) (t : Nat)
  /-- `PORT_RESET` (R425). A write of the reset token to UST_Pp_RST resets the controller of the port. -/
  | portReset (p : Fin 6) (t : Nat)
  /-- `BUSOFF_RECOVERY` (R428). With BOAUTO set a CAN port recovers from bus-off after 128 × 11 recessive bits. -/
  | busoffRecovery (p : Fin 2) (t : Nat)
  /-- `MEMORY_READ` (R435). A read of a coded row decodes it, delivers corrected data with write-back and table
  update, or reports an uncorrectable result. -/
  | memoryRead (m : MemMaster) (memid : Fin 8) (row : Nat) (off : Fin 32) (n : Fin 33) (upset : BitVec 352) (verify dirty werr : Bool) (t : Nat)
  /-- `MEMORY_WRITE` (R438). A full-row write encodes the row, and a partial write reads, merges and writes it back,
  freeing SOFT entries. -/
  | memoryWrite (m : MemMaster) (addr : BitVec 36) (bs : List Byte) (poison : Bool) (upset : BitVec 352) (verify werr : Bool) (t : Nat)
  /-- `SCRUB_READ` (R449). A scrubber reads and decodes its next row in an idle memory cycle, ending the lap at the
  last row. -/
  | scrubRead (m : Fin 6) (row : Nat) (upset : BitVec 352) (verify dirty last werr : Bool) (t : Nat)
  /-- `SCRUB_LAP_LIMIT` (R450). A lap runs longer than LAPLIM, raising source 36 and an alarm record. -/
  | scrubLapLimit (m : Fin 6) (t : Nat)
  /-- `FILL_START` (R440). ECC_FILL_CMD START begins a fill of whole rows, or is refused with ERR. -/
  | fillStart (t : Nat)
  /-- `FILL_ABORT` (R440). ECC_FILL_CMD ABORT stops a running fill. -/
  | fillAbort (rows t : Nat)
  /-- `FILL_DONE` (R440). The fill engine completes its range and sets DONE. -/
  | fillDone (t : Nat)
  /-- `WRITE_RAW` (R451). Stores the test data and check bytes to the armed row without encoding. -/
  | writeRaw (t : Nat)
  /-- `READ_RAW` (R451). Reads the stored 40 bytes of the armed row without decoding. -/
  | readRaw (upset : BitVec 320) (t : Nat)
  /-- `ENCODE` (R451). Computes the check bytes from the test data and the row's virtual word. -/
  | encodeRow (t : Nat)
  /-- `CHECK` (R451). Decodes the armed row into the test registers with result and corrected positions. -/
  | checkRow (upset : BitVec 320) (t : Nat)
  /-- `BIST_START` (R460). BIST_CMD START begins a command run on the masked targets, or is refused. -/
  | bistStart (t : Nat)
  /-- `BIST_ABORT` (R461). BIST_CMD ABORT ends an armed or running command or depot run with ERR = 0x4. -/
  | bistAbort (t : Nat)
  /-- `BIST_DEPOT` (R461). BIST_CMD DEPOT arms a depot run for the next Slumber entry. -/
  | bistDepot (t : Nat)
  /-- `BIST_RUN_DONE` (R462). A self-test run ends and each failed target is retired, remapped or disabled and logged.
  -/
  | bistRunDone (fail0 fail1 : BitVec 32) (sig : BitVec 64) (len : Nat) (rows : List (Nat × Nat)) (noRes : List Nat) (werr : Bool) (t : Nat)
  /-- `NAND_BLOCK_RETIRE` (R467). A failed program, erase or weak read retires a NAND block after moving its contents
  to a spare. -/
  | nandBlockRetire (block : Nat) (werr : Bool) (t : Nat)
  /-- `RECORD_ACCEPT` (R478). The recorder takes the next descriptor, assigns SEQ, stamps it and copies it into
  staging, or drops it under overload. -/
  | recordAccept (bad : Bool) (t : Nat)
  /-- `RECORD_SUBMIT` (R480). REC_Hh_CMD with token 0x52 submits a firmware record, or is refused with ERR. -/
  | recordSubmit (writer h : Fin 12) (t : Nat)
  /-- `RECORDER_FLUSH_TIMER` (R481). 1 s after the last flush ended with records staged, a flush starts. -/
  | recorderFlushTimer (t : Nat)
  /-- `PAGE_PROGRAMMED` (R481). A NAND page program completes, freeing its staging space, advancing NEWEST and
  possibly ending the flush or OVERLOAD. -/
  | pageProgrammed (lost : Option Nat) (t : Nat)
  /-- `OLDEST_READ` (R490). A read of REC_OLDEST_LO latches OLDEST_HI and NEWEST together. -/
  | oldestRead (t : Nat)
  /-- `NEXT_READ` (R498). A read of REC_NEXT_LO latches REC_NEXT_HI. -/
  | nextRead (t : Nat)
  /-- `RECORD_READ_START` (R489). REC_RD_CMD START copies records from Rings or Heartwood into shared SRAM. -/
  | recordReadStart (heart : Bool) (t : Nat)
  /-- `RECORD_READ_ABORT` (R489). REC_RD_CMD ABORT ends a running read with ERR = 0x6. -/
  | recordReadAbort (n t : Nat)
  /-- `RECORD_READ_DONE` (R489). The read engine stops at its limit, the newest record or an error, setting DONE or
  FAIL. -/
  | recordReadDone (err : Fin 8) (n t : Nat)
  /-- `RECORDER_RESET` (R496). A write of the reset token to REC_RST resets the recorder flush engine, keeping staged
  records and the sequence. -/
  | recorderReset (n t : Nat)
  /-- `RECORDER_START` (R491). At a start the recorder finds its newest record, continues the sequence and writes
  START and any UNSEALED record. -/
  | recorderStart (t : Nat)
  /-- `RATE24_UPDATE` (R486). The 24-hour write rate is updated, and RATEHI sets with an alarm when it exceeds 1.5
  MB/s. `part` says how many bytes of the minute in which the 24 hours begin were written after that. -/
  | rate24Update (part t : Nat)
  /-- `STAND_WFI` (R501). A stand's hart enters WFI and the power manager chooses Run, Doze or Nap from its slack. -/
  | standWfi (k : Fin 4) (t : Nat)
  /-- `UNIT_WAKE` (R502). The exit from Doze or Nap begins at the planned instant before a known event, or when a
  routed event becomes pending. -/
  | unitWake (k : Fin 4) (t : Nat)
  /-- `REST` (R504). PWR_CMD REST makes the manager choose the deepest module state allowed, or is refused. -/
  | pwrRest (k : Fin 4) (t : Nat)
  /-- `SLUMBER` (R505). PWR_CMD SLUMBER parks the engines, empties staging, checkpoints and gates the stands and puts
  DRAM in self-refresh. -/
  | pwrSlumber (k : Fin 4) (t : Nat)
  /-- `HIBERNATE` (R510). PWR_CMD HIBERNATE enters Slumber steps, writes retain shadows and a seal, and powers off all
  but the always-on island and Ranger. -/
  | pwrHibernate (k : Fin 4) (t : Nat)
  /-- `CANCEL` (R524). PWR_CMD CANCEL during entry acts as a wake with no source bit set. -/
  | pwrCancel (k : Fin 4) (t : Nat)
  /-- `WAKE` (R508). An enabled wake source fires in Slumber or Hibernate and the module leaves the state. -/
  | pwrWake (src : Fin 6) (t : Nat)
  /-- `SOFTWARE_RESET` (R518). A permitted write of the reset token to SYS_RST starts a module reset. -/
  | softwareReset (k : Fin 4) (t : Nat)
  /-- `TIME_REALIGN` (R516). Every 1 µs each local copy of global time is realigned to Canopy's count. -/
  | timeRealign (t : Nat)
  /-- `CLOCK_MONITOR_WINDOW` (R517). Each 10 µs window the clock monitor compares every domain with the reference and
  acts on a deviation above 1 %. -/
  | clockMonitorWindow (dev : BitVec 13) (khz : List Nat) (t : Nat)
  /-- `REFERENCE_LOSS` (R517). Loss of the reference holds the processor die in reset until the reference returns. -/
  | referenceLoss (t : Nat)
  /-- `OPEN` (R535). FWU_CMD OPEN verifies a firmware header and resumes or erases and prepares the non-booted slot
  for receiving. -/
  | fwOpen (hart : Fin 12) (t : Nat)
  /-- `PIECE` (R535). FWU_CMD PIECE checks an encrypted piece and programs and reads back its page. -/
  | fwPiece (hart : Fin 12) (t : Nat)
  /-- `ABANDON` (R535). FWU_CMD ABANDON sets the slot EMPTY. -/
  | fwAbandon (hart : Fin 12) (t : Nat)
  /-- `PREPARE` (R536). FWU_CMD PREPARE decrypts the slot into its execution region and verifies it fully, giving
  PREPARED or BAD. -/
  | fwPrepare (hart : Fin 12) (t : Nat)
  /-- `ACTIVATE` (R539). FWU_CMD ACTIVATE from S0 waits up to 4 ms for the activation conditions, then runs the pause
  or is refused. -/
  | fwActivate (hart : Fin 12) (t : Nat)
  /-- `CONFIRM` (R542). FWU_CMD CONFIRM makes the TRIAL slot ACTIVE and raises the fused security version if needed.
  -/
  | fwConfirm (hart : Fin 12) (t : Nat)
  /-- `BITMAP` (R535). FWU_CMD BITMAP writes the bitmap of committed pieces to shared SRAM. -/
  | fwBitmap (hart : Fin 12) (t : Nat)
  /-- `SEEDLING` (R543). FWU_CMD SEEDLING from S0 makes a module reset into Seedling. -/
  | fwSeedling (hart : Fin 12) (t : Nat)
  /-- `UNPREPARE` (R535). FWU_CMD UNPREPARE returns a PREPARED slot to COMPLETE and releases the region guard. -/
  | fwUnprepare (hart : Fin 12) (t : Nat)
  /-- `FWU_COMMAND_DONE` (R535). A firmware update command that took time completes and sets DONEEV or FAILEV. -/
  | fwuCommandDone (nandBad : Bool) (t : Nat)
  /-- `SEEDLING_ANNOUNCE` (R544). Once per second Seedling announces itself with a HELLO frame on X3 and Canopy. -/
  | seedlingAnnounce (t : Nat)
  /-- `FW_HELLO` (R546). A firmware transfer HELLO is received and answered with an OFFER by a serving module, or
  enters Seedling during firmware load. -/
  | fwHello (x3 : Bool) (frame : List Byte) (t : Nat)
  /-- `FW_OFFER` (R544). An OFFER is received by Seedling, which takes the first whose header verifies. -/
  | fwOffer (x3 : Bool) (frame : List Byte) (t : Nat)
  /-- `FW_GET` (R546). A GET is received and a serving module answers with the DATA frames of the pieces or a NACK. -/
  | fwGet (x3 : Bool) (frame : List Byte) (t : Nat)
  /-- `FW_DATA` (R544). A DATA fragment is received by Seedling, which commits complete pieces and prepares the slot
  when complete. -/
  | fwData (x3 : Bool) (frame : List Byte) (nandBad : Bool) (t : Nat)
  /-- `FW_NACK` (R545). A NACK is received by Seedling for a GET it made. -/
  | fwNack (x3 : Bool) (frame : List Byte) (t : Nat)
  /-- `GET_RETRY_TIMEOUT` (R544). No data have arrived 100 ms after a GET, and Seedling repeats it. -/
  | getRetryTimeout (t : Nat)
  /-- `REGISTER_READ` (R16). A 32-bit read of a register returns its value and clears read-clear fields, while a read
  of another width or alignment, or of an unassigned block, faults. -/
  | registerRead (m : RegMaster) (addr : BitVec 36) (size : Fin 4) (t : Nat)
  /-- `REFERENCE_RETURN` (R517). The 25 MHz reference returns after a loss, releasing the processor die from reset
  into a start that reports cause REFLOSS. -/
  | referenceReturn (t : Nat)
  /-- `LOOKOUT_WINDOW_OPEN` (R150). MIN has passed since the last Lookout service, so the window opens, OPEN sets and
  source 13 is raised. -/
  | lookoutWindowOpen (t : Nat)
  /-- `HANDOVER_RESUME` (R133). A hand-over gap, or a Nap exit, ends at the resume agreement point; the lanes resume,
  the hand-over-complete event pends and HO_LAST and HO_MAX are updated. -/
  | handoverResume (k : Fin 4) (how : Reload) (t : Nat)
  /-- `STAND_RESET_DONE` (R122). A stand function reset completes its BIST and forming within 1 ms or 25 ms and raises
  the stand's hand-over-complete event. -/
  | standResetDone (k : Fin 4) (failMask : BitVec 15) (t : Nat)
  /-- `ROOTWAY_RESET_DONE` (R418). The Rootway function reset completes within 20 µs and raises source 165. -/
  | rootwayResetDone (t : Nat)
  /-- `PORT_RESET_DONE` (R425). An understory port reset completes within 50 µs. -/
  | portResetDone (p : Fin 6) (t : Nat)
  /-- `RECORDER_RESET_DONE` (R496). The recorder function reset completes within 1 ms after the page in programming
  has been written again. -/
  | recorderResetDone (t : Nat)
  /-- `PORT_STATE_CHANGE` (R426). An understory port reaches error passive or bus-off, switches MVB line, or its
  service Ethernet link changes, updating UST_Pp_STAT and raising source 188 + p. -/
  | portStateChange (p : Fin 6) (up passive busoff lineb fdx : Bool) (tec rec errors : BitVec 8) (t : Nat)
  /-- `PORT_FRAME_TRANSMITTED` (R424). An understory port finishes sending a transmit ring record, advances TXHEAD and
  raises source 182 + p when the ring drains. -/
  | portFrameTransmitted (p : Fin 6) (t : Nat)
  /-- `ET_FRAME_SENT` (R310). A Canopy port finishes sending an event-triggered frame and starts the next queued frame
  if it fits before the next mark. -/
  | etFrameSent (port : Fin 4) (t : Nat)
  /-- `SLUMBER_EXIT_DONE` (R507). Leaving Slumber completes: DRAM is out of self-refresh, the stands have resumed and
  PWR_STAT returns from leaving Slumber to Run. -/
  | slumberExitDone (t : Nat)
  deriving DecidableEq, Repr

end Sys2Proof
end

