-- ==== Sys2Proof/Machine/Tbl.lean ====
section
/-!
DEFINITION. Sparse tables: lists of (key, value) pairs whose keys rise strictly. A key that is not listed reads as a
default, and storing the default removes the entry, so equal tables are equal data. Registers, channels, contexts and
memories of the machine are held this way.
-/

namespace Sys2Proof.Machine

/-- A sparse table; keys rise strictly (`tblWf`). -/
abbrev Tbl (α : Type) := List (Nat × α)

/-- The value listed at a key. -/
def tblFind {α : Type} (k : Nat) : Tbl α → Option α
  | [] => none
  | (j, v) :: r => if j = k then some v else tblFind k r

/-- List a value at a key, replacing what stood there, and keep the keys rising. -/
def tblPut {α : Type} (k : Nat) (v : α) : Tbl α → Tbl α
  | [] => [(k, v)]
  | (j, w) :: r =>
    if k < j then (k, v) :: (j, w) :: r
    else if j = k then (k, v) :: r
    else (j, w) :: tblPut k v r

/-- Remove the entry of a key. -/
def tblDel {α : Type} (k : Nat) (m : Tbl α) : Tbl α := m.filter fun e => e.1 != k

/-- The value at a key, where `d` is what an unlisted key reads as. -/
def tblGet {α : Type} (d : α) (k : Nat) (m : Tbl α) : α := (tblFind k m).getD d

/-- Store a value at a key; storing the default `d` leaves the key unlisted. -/
def tblSet {α : Type} [DecidableEq α] (d : α) (k : Nat) (v : α) (m : Tbl α) : Tbl α :=
  if v = d then tblDel k m else tblPut k v m

/-- The canonical form: keys rise strictly. -/
def tblWf {α : Type} (m : Tbl α) : Bool := decide ((m.map Prod.fst).Pairwise (· < ·))

/-- Keep the entries whose key meets `p`. -/
def tblKeep {α : Type} (p : Nat → Bool) (m : Tbl α) : Tbl α := m.filter fun e => p e.1

end Sys2Proof.Machine
end

