-- ==== Sys2Proof/Machine/Bytes.lean ====
section
/-!
DEFINITION. Byte order, bit fields and integer helpers that the blocks share. Every multi-byte field of a record, of
the key, of an image and of a register-load entry is little-endian (R74, R473); Canopy frames say where they differ.
-/

namespace Sys2Proof.Machine

/-- The low byte of a number. -/
def byteOf (v : Nat) : Byte := BitVec.ofNat 8 v

/-- `n` bytes of a number, lowest first. -/
def leBytes : Nat → Nat → List Byte
  | 0, _ => []
  | n + 1, v => byteOf v :: leBytes n (v / 256)

/-- The number that bytes spell, lowest first. -/
def leNat : List Byte → Nat
  | [] => 0
  | b :: r => b.toNat + 256 * leNat r

/-- `n` bytes of a number, highest first (network order). -/
def beBytes (n v : Nat) : List Byte := (leBytes n v).reverse

/-- The number that bytes spell, highest first. -/
def beNat (bs : List Byte) : Nat := leNat bs.reverse

/-- The slice of `n` bytes from an offset. -/
def slice (off n : Nat) (bs : List Byte) : List Byte := (bs.drop off).take n

/-- A little-endian number at an offset of a byte list. -/
def leAt (off n : Nat) (bs : List Byte) : Nat := leNat (slice off n bs)

/-- A big-endian number at an offset of a byte list. -/
def beAt (off n : Nat) (bs : List Byte) : Nat := beNat (slice off n bs)

/-- A byte list cut or zero-padded to a length. -/
def padTo (n : Nat) (bs : List Byte) : List Byte := bs.take n ++ List.replicate (n - bs.length) 0

/-- Bits [lo + w - 1 : lo] of a number. -/
def bitsAt (v lo w : Nat) : Nat := v / 2 ^ lo % 2 ^ w

/-- Bit i of a number. -/
def bitAt (v i : Nat) : Bool := v / 2 ^ i % 2 == 1

/-- A number with bit i set to a value. -/
def setBit (v i : Nat) (b : Bool) : Nat :=
  if bitAt v i = b then v else if b then v + 2 ^ i else v - 2 ^ i

/-- 1 for true, 0 for false. -/
def b2n (b : Bool) : Nat := if b then 1 else 0

/-- The number of set bits among the lowest n bits of a number. -/
def popCount : Nat → Nat → Nat
  | 0, _ => 0
  | n + 1, v => v % 2 + popCount n (v / 2)

/-- A number as a signed integer of `w` bits. -/
def toSigned (w v : Nat) : Int := if v % 2 ^ w < 2 ^ (w - 1) then (v % 2 ^ w : Nat) else (v % 2 ^ w : Nat) - (2 ^ w : Nat)

/-- A signed integer wrapped to `w` bits. -/
def ofSigned (w : Nat) (v : Int) : Nat := (v % (2 ^ w : Nat)).toNat

/-- A number held at the largest value of `w` bits when it is above it. -/
def sat (w v : Nat) : Nat := min v (2 ^ w - 1)

/-- Bytes, from an offset on, all equal to a value. -/
def allBytes (v : Byte) (bs : List Byte) : Bool := bs.all (· == v)

end Sys2Proof.Machine
end

