-- ==== Sys2Proof/Machine/Crc.lean ====
section
/-!
DEFINITION. The check values of R382, on byte lists. Where the spec names CRC-32C without a seed, the initial value is
0xFFFF_FFFF.
-/

namespace Sys2Proof.Machine

/-- n steps of a reflected check value that shifts right. -/
def crcRight (poly : Nat) : Nat → Nat → Nat
  | 0, c => c
  | n + 1, c => crcRight poly n (if c % 2 = 1 then (c / 2) ^^^ poly else c / 2)

/-- n steps of a check value of `w` bits that shifts left. -/
def crcLeft (w poly : Nat) : Nat → Nat → Nat
  | 0, c => c
  | n + 1, c => crcLeft w poly n (if 2 ^ (w - 1) ≤ c then (c * 2 % 2 ^ w) ^^^ poly else c * 2 % 2 ^ w)

/-- CRC-32C over bytes with an initial value (reflected polynomial 0x1EDC_6F41). -/
def crc32cSeed (seed : Nat) (bs : List Byte) : Nat :=
  (bs.foldl (fun c b => crcRight 0x82F63B78 8 (c ^^^ b.toNat)) seed) ^^^ 0xFFFFFFFF

/-- CRC-32C with its default initial value. -/
def crc32c (bs : List Byte) : Nat := crc32cSeed 0xFFFFFFFF bs

/-- CRC-32 as in IEEE 802.3. -/
def crc32Seed (seed : Nat) (bs : List Byte) : Nat :=
  (bs.foldl (fun c b => crcRight 0xEDB88320 8 (c ^^^ b.toNat)) seed) ^^^ 0xFFFFFFFF

/-- CRC-16, x^16 + x^12 + x^5 + 1, reflected; the final XOR is the one that gives the check value 0x906E of R382. -/
def crc16Seed (seed : Nat) (bs : List Byte) : Nat :=
  (bs.foldl (fun c b => crcRight 0x8408 8 (c ^^^ b.toNat)) seed) ^^^ 0xFFFF

/-- CRC-64 as ECMA-182, not reflected. -/
def crc64Seed (seed : Nat) (bs : List Byte) : Nat :=
  bs.foldl (fun c b => crcLeft 64 0x42F0E1EBA9EA3693 8 (c ^^^ (b.toNat * 2 ^ 56))) seed

end Sys2Proof.Machine
end

