-- ==== Sys2Proof/Config.lean ====
section
/-!
DEFINITION. What one module fixes and the spec leaves open: fused values, content that no reset initialises, and the
cryptographic checks whose algorithms the spec takes from published standards it does not restate. Every definition
here is opaque: no proof can see a value.
-/

namespace Sys2Proof.Config

/-- FREE VALUE. The content of a memory byte that nothing has written since power-on (R20, "none"). -/
opaque unwritten : Nat → Byte

/-- FREE VALUE. The n-th value the machine needs where the spec leaves a value open and the machine goes on; the
state's counter `fresh` supplies n. -/
opaque freeValue : Nat → BitVec 32

/-- FREE VALUE. Byte i of the n-th checkpoint that a stand writes (R133): the spec gives neither its layout nor the
state of the lanes. -/
opaque checkpointByte : Nat → Nat → Byte

/-- FREE VALUE. Byte i of the n-th MVB slave frame whose content the spec does not give: a device status response, and a
source port to which no record has given a value (R422, R424). -/
opaque mvbByte : Nat → Nat → Byte

/-- FREE VALUE. The content of byte a of a memory that no address reaches, L2 or a retain shadow never written, at the
n-th look (R429): what the stands' caches hold is theirs, and no reset fills a shadow. -/
opaque arrayByte : Nat → Nat → Byte

/-- FREE VALUE. The bits of byte i that the n-th interrupted page program of the key has not programmed yet (R83). -/
opaque tornByte : Nat → Nat → Byte

/-- FREE VALUE. What a STD_COREMAP field reads for a spare that is proven: R154 gives codes for every other state. -/
opaque provenSpareCode : BitVec 4

/-- FREE VALUE. The header of the firmware image that a module is delivered with (R2, R529), and its piece records. -/
opaque deliveredHeader : List Byte
opaque deliveredPieces : List (Nat × List Byte)

/-- The SHA-256 of bytes (R76, R530), a standard function that the spec does not restate. -/
opaque sha256 : List Byte → List Byte

/-- Whether an LMS signature (LMS_SHA256_M32_H20 with LMOTS_SHA256_N32_W8, R76) over a message verifies under a public
key: public key, message, signature. -/
opaque lmsVerify : List Byte → List Byte → List Byte → Bool

/-- The fused SHA-256 hash of the Staldaes root key (R76). -/
opaque rootHash : List Byte

/-- The AES key unwrap of RFC 3394 under the fused firmware key (R529): the content key, or none. -/
opaque unwrapKey : List Byte → Option (List Byte)

/-- AES-256-GCM decryption (R531): key, nonce, additional data, ciphertext, tag; none where the tag does not check. -/
opaque gcmOpen : List Byte → List Byte → List Byte → List Byte → List Byte → Option (List Byte)

end Sys2Proof.Config
end

