-- ==== Sys2Proof/Machine/RegFields.lean ====
section
/-!
DEFINITION. The register fields of the module, one definition a field, written from the field tables and register maps
of the spec (R55, R100, R154, R237, R275, R304, R346, R377, R397, R427, R428, R454, R471, R472, R498, R526, R527, R528,
R549). A field is its register's address, its lowest bit, its width and its value after a power-on reset. Reserved bits
belong to no field: they read 0 and ignore writes (R15).
-/

namespace Sys2Proof.Machine

/-- The groups of registers that a block writes as one: the blocks of R13, less the feed registers, the unit states, the
pending bits, the Lookout, the output channels, the host buffers' status and the recorder's ingress counters, which
other blocks' commands reach too. -/
inductive Area where
  | sys | pwr | feed | unit | std | pend | lko | le | ecc | cpc | iog | chan | rng | cnp | hbuf | rwy | ust | cvu | recd
  | ingress | fwu | key | bist | other
  deriving DecidableEq, Repr

/-- The number of an area in a key. -/
def Area.code : Area → Nat
  | .sys => 0 | .pwr => 1 | .feed => 2 | .unit => 3 | .std => 4 | .pend => 5 | .lko => 6 | .le => 7 | .ecc => 8
  | .cpc => 9 | .iog => 10 | .chan => 11 | .rng => 12 | .cnp => 13 | .hbuf => 14 | .rwy => 15 | .ust => 16 | .cvu => 17
  | .recd => 18 | .ingress => 19 | .fwu => 20 | .key => 21 | .bist => 22 | .other => 23

/-- Whether an address lies in the half-open range [a, b). -/
def inRange (a b addr : Nat) : Bool := decide (a ≤ addr) && decide (addr < b)

/-- The area of a register's address. -/
def areaAt (a : Nat) : Area :=
  if !inRange 0x10000000 0x11000000 a then .other
  else
    match a / 0x100000 % 0x10 with
    | 0 => .sys
    | 1 => if inRange 0x10100100 0x1010014C a then .feed else if a = 0x1010003C then .unit else .pwr
    | 2 =>
      if inRange 0x10201400 0x10201480 a then .pend else if inRange 0x10200020 0x1020002C a then .lko else .std
    | 3 => .le
    | 4 => .ecc
    | 5 => .cpc
    | 6 => if inRange 0x10601000 0x10602800 a then .chan else .iog
    | 7 => .rng
    | 8 => if inRange 0x10860000 0x10860100 a then .hbuf else .cnp
    | 9 => .rwy
    | 10 => .ust
    | 11 => .cvu
    | 12 =>
      if a = 0x10C00000 ∨ a = 0x10C00038 ∨ a = 0x10C00050 ∨ inRange 0x10C00400 0x10C00600 a then .ingress else .recd
    | 13 => .fwu
    | 14 => .key
    | _ => .bist

/-- One field of one register: the register's physical address, the field's lowest bit, its width, what a power-on reset
leaves in it (0 for a field loaded from the key, which reads 0 until the key is LOADED, R100), and its area. -/
structure Fld where
  addr : Nat
  lo : Nat
  w : Nat
  rst : Nat
  area : Area
  deriving DecidableEq, Repr

/-- The field at a place of the register map. -/
def Fld.at (addr lo w rst : Nat) : Fld := ⟨addr, lo, w, rst, areaAt addr⟩

/-- The key of a field in the state's register table. -/
def Fld.key (f : Fld) : Nat := (f.addr * 32 + f.lo) * 32 + f.area.code

/-- The address, the lowest bit and the area number of a key. -/
def keyAddr (k : Nat) : Nat := k / 1024
def keyLo (k : Nat) : Nat := k / 32 % 32
def keyGroup (k : Nat) : Nat := k % 32

/-- Whether an address lies in an area and in the half-open range [lo, hi). -/
def inArea (ar : Area) (lo hi a : Nat) : Bool := areaAt a == ar && inRange lo hi a

/-! ### Registers of R55 (02_connectors_power.md) -/

def PWR_FEEDn_MEAS_VOLT (n : Nat) : Fld := ⟨0x10100100 + 0x20 * n, 0, 16, 0x0, .feed⟩
def PWR_FEEDn_MEAS_CURR (n : Nat) : Fld := ⟨0x10100100 + 0x20 * n, 16, 16, 0x0, .feed⟩
def PWR_FEEDn_STAT_GOOD (n : Nat) : Fld := ⟨0x10100104 + 0x20 * n, 0, 1, 0x0, .feed⟩
def PWR_FEEDn_STAT_LOW (n : Nat) : Fld := ⟨0x10100104 + 0x20 * n, 1, 1, 0x0, .feed⟩
def PWR_FEEDn_STAT_HIGH (n : Nat) : Fld := ⟨0x10100104 + 0x20 * n, 2, 1, 0x0, .feed⟩
def PWR_FEEDn_STAT_CARRY (n : Nat) : Fld := ⟨0x10100104 + 0x20 * n, 3, 1, 0x0, .feed⟩
def PWR_FEEDn_STAT_SHARE (n : Nat) : Fld := ⟨0x10100104 + 0x20 * n, 8, 8, 0x0, .feed⟩
def PWR_FEEDn_STAT_REV (n : Nat) : Fld := ⟨0x10100104 + 0x20 * n, 16, 1, 0x0, .feed⟩
def PWR_FEEDn_STAT_LOSTEV (n : Nat) : Fld := ⟨0x10100104 + 0x20 * n, 17, 1, 0x0, .feed⟩
def PWR_FEEDn_REVCNT_CNT (n : Nat) : Fld := ⟨0x10100108 + 0x20 * n, 0, 16, 0x0, .feed⟩
def PWR_FEEDn_LOST_LO (n : Nat) : Fld := ⟨0x10100110 + 0x20 * n, 0, 32, 0x0, .feed⟩
def PWR_FEEDn_LOST_HI (n : Nat) : Fld := ⟨0x10100114 + 0x20 * n, 0, 32, 0x0, .feed⟩
def PWR_FEEDn_GOOD_LO (n : Nat) : Fld := ⟨0x10100118 + 0x20 * n, 0, 32, 0x0, .feed⟩
def PWR_FEEDn_GOOD_HI (n : Nat) : Fld := ⟨0x1010011C + 0x20 * n, 0, 32, 0x0, .feed⟩
def PWR_FEED_SEQ : Fld := ⟨0x10100140, 0, 32, 0x0, .feed⟩
def PWR_HOLDUP_STAT_VSTORE : Fld := ⟨0x10100144, 0, 16, 0x0, .feed⟩
def PWR_HOLDUP_STAT_READY : Fld := ⟨0x10100144, 16, 1, 0x0, .feed⟩
def PWR_HOLDUP_STAT_PHASE : Fld := ⟨0x10100144, 17, 2, 0x0, .feed⟩
def PWR_HOLDUP_STAT_AGED : Fld := ⟨0x10100144, 19, 1, 0x0, .feed⟩
def PWR_HOLDUP_CAP_CAP : Fld := ⟨0x10100148, 0, 16, 0x0, .feed⟩
/-! ### Registers of R100 (03_start_and_key.md) -/

def KEY_STAT_STATE : Fld := ⟨0x10E00000, 0, 4, 0x0, .key⟩
def KEY_STAT_PRESENT : Fld := ⟨0x10E00000, 4, 1, 0x0, .key⟩
def KEY_STAT_LATCH : Fld := ⟨0x10E00000, 5, 1, 0x0, .key⟩
def KEY_STAT_AREA : Fld := ⟨0x10E00000, 6, 1, 0x0, .key⟩
def KEY_STAT_CJFULL : Fld := ⟨0x10E00000, 8, 1, 0x0, .key⟩
def KEY_STAT_HJFULL : Fld := ⟨0x10E00000, 9, 1, 0x0, .key⟩
def KEY_STAT_REMOVED : Fld := ⟨0x10E00000, 16, 1, 0x0, .key⟩
def KEY_STAT_UNLATCHED : Fld := ⟨0x10E00000, 17, 1, 0x0, .key⟩
def KEY_FAULT_DETAIL : Fld := ⟨0x10E00004, 0, 16, 0x0, .key⟩
def KEY_FAULT_SECTION : Fld := ⟨0x10E00004, 16, 8, 0x0, .key⟩
def KEY_FAULT_FAREA : Fld := ⟨0x10E00004, 24, 1, 0x0, .key⟩
def KEY_GEN : Fld := ⟨0x10E00008, 0, 32, 0x0, .key⟩
def KEY_PAYLEN : Fld := ⟨0x10E0000C, 0, 32, 0x0, .key⟩
def KEY_SERIAL_LO : Fld := ⟨0x10E00010, 0, 32, 0x0, .key⟩
def KEY_SERIAL_HI : Fld := ⟨0x10E00014, 0, 32, 0x0, .key⟩
def KEY_SECT_TYPES : Fld := ⟨0x10E00018, 0, 9, 0x0, .key⟩
def KEY_SECT_PROG : Fld := ⟨0x10E00018, 16, 4, 0x0, .key⟩
def KEY_SECT_RMAP : Fld := ⟨0x10E00018, 20, 4, 0x0, .key⟩
def KEY_VEH_ID0_DOMAIN : Fld := ⟨0x10E00020, 0, 8, 0x0, .key⟩
def KEY_VEH_ID0_CONSIST : Fld := ⟨0x10E00020, 16, 16, 0x0, .key⟩
def KEY_VEH_ID1_CAR : Fld := ⟨0x10E00024, 0, 8, 0x0, .key⟩
def KEY_VEH_ID1_MODULE : Fld := ⟨0x10E00024, 8, 8, 0x0, .key⟩
def KEY_VEH_ID1_CAB : Fld := ⟨0x10E00024, 16, 1, 0x0, .key⟩
def KEY_VEH_ID1_PLATFORM : Fld := ⟨0x10E00024, 17, 1, 0x0, .key⟩
def KEY_CONF_CRC : Fld := ⟨0x10E00040, 0, 32, 0x0, .key⟩
def KEY_CONF_IDi (i : Nat) : Fld := ⟨0x10E00044 + 0x4 * i, 0, 32, 0x0, .key⟩
def KEY_CONF_CMD : Fld := ⟨0x10E00064, 0, 32, 0x0, .key⟩
def KEY_CONF_STAT_BUSY : Fld := ⟨0x10E00068, 0, 1, 0x0, .key⟩
def KEY_CONF_STAT_DONE : Fld := ⟨0x10E00068, 1, 1, 0x0, .key⟩
def KEY_CONF_STAT_FAIL : Fld := ⟨0x10E00068, 2, 1, 0x0, .key⟩
def KEY_CONF_STAT_ERR : Fld := ⟨0x10E00068, 4, 4, 0x0, .key⟩
def KEY_JRN_CNT_CONF : Fld := ⟨0x10E0006C, 0, 15, 0x0, .key⟩
def KEY_JRN_CNT_HIST : Fld := ⟨0x10E0006C, 16, 15, 0x0, .key⟩
/-! ### Registers of R154 (04_stands.md) -/

def STD_CAP_CORES : Fld := ⟨0x10200000, 0, 4, 0x0, .std⟩
def STD_CAP_SPARES : Fld := ⟨0x10200000, 4, 4, 0x0, .std⟩
def STD_CAP_PROVEN : Fld := ⟨0x10200000, 8, 4, 0x0, .std⟩
def STD_OPT_INITMODE1 : Fld := ⟨0x10200004, 0, 2, 0x0, .std⟩
def STD_OPT_INITMODE2 : Fld := ⟨0x10200004, 2, 2, 0x0, .std⟩
def STD_OPT_INITMODE3 : Fld := ⟨0x10200004, 4, 2, 0x0, .std⟩
def STD_OPT_AUTOSUB : Fld := ⟨0x10200004, 8, 1, 0x0, .std⟩
def STD_OPT_LKODBG : Fld := ⟨0x10200004, 9, 1, 0x0, .std⟩
def STD_OPT_SAFEROLE : Fld := ⟨0x10200004, 16, 4, 0x0, .std⟩
def STD_XRST_PERMIT : Fld := ⟨0x10200008, 0, 16, 0x0, .std⟩
def STD_COREMAP_CORE (c : Nat) : Fld := ⟨0x10200010 + 4 * (c / 8), 4 * (c % 8), 4, 0, .std⟩
def STD_LKO_CFG_MAX : Fld := ⟨0x10200020, 0, 7, 0x0, .lko⟩
def STD_LKO_CFG_MIN : Fld := ⟨0x10200020, 8, 2, 0x0, .lko⟩
def STD_LKO_SVC : Fld := ⟨0x10200024, 0, 32, 0x0, .lko⟩
def STD_LKO_STAT_ARMED : Fld := ⟨0x10200028, 0, 1, 0x0, .lko⟩
def STD_LKO_STAT_OPEN : Fld := ⟨0x10200028, 1, 1, 0x0, .lko⟩
def STD_LKO_STAT_SUSP : Fld := ⟨0x10200028, 2, 1, 0x0, .lko⟩
def STD_LKO_STAT_LASTRST : Fld := ⟨0x10200028, 8, 3, 0x0, .lko⟩
def STD_DBG_STAT_ATT : Fld := ⟨0x10200030, 0, 1, 0x0, .std⟩
def STD_DBG_STAT_STAND : Fld := ⟨0x10200030, 1, 2, 0x0, .std⟩
def STD_DBG_STAT_QFILL : Fld := ⟨0x10200030, 8, 9, 0x0, .std⟩
def STD_SWEVT_SET : Fld := ⟨0x10200034, 0, 16, 0x0, .std⟩
def STD_Sk_MODE_REQ_MODE (k : Nat) : Fld := ⟨0x10200100 + 0x100 * k, 0, 2, 0x0, .std⟩
def STD_Sk_MODE_REQ_SUB (k : Nat) : Fld := ⟨0x10200100 + 0x100 * k, 4, 1, 0x0, .std⟩
def STD_Sk_MODE_REQ_REPLACE (k : Nat) : Fld := ⟨0x10200100 + 0x100 * k, 8, 2, 0x3, .std⟩
def STD_Sk_MODE_REQ_TOKEN (k : Nat) : Fld := ⟨0x10200100 + 0x100 * k, 24, 8, 0x0, .std⟩
def STD_Sk_STAT_MODE (k : Nat) : Fld := ⟨0x10200104 + 0x100 * k, 0, 2, 0x0, .std⟩
def STD_Sk_STAT_STATE (k : Nat) : Fld := ⟨0x10200104 + 0x100 * k, 2, 3, 0x0, .std⟩
def STD_Sk_STAT_DEGRADED (k : Nat) : Fld := ⟨0x10200104 + 0x100 * k, 5, 1, 0x0, .std⟩
def STD_Sk_STAT_NOSPARE (k : Nat) : Fld := ⟨0x10200104 + 0x100 * k, 6, 1, 0x0, .std⟩
def STD_Sk_STAT_SAFEOK (k : Nat) : Fld := ⟨0x10200104 + 0x100 * k, 7, 1, 0x0, .std⟩
def STD_Sk_STAT_NOTSAFE (k : Nat) : Fld := ⟨0x10200104 + 0x100 * k, 8, 1, 0x0, .std⟩
def STD_Sk_STAT_PEND (k : Nat) : Fld := ⟨0x10200104 + 0x100 * k, 9, 1, 0x0, .std⟩
def STD_Sk_STAT_HODONE (k : Nat) : Fld := ⟨0x10200104 + 0x100 * k, 16, 1, 0x0, .std⟩
def STD_Sk_STAT_FENCEV (k : Nat) : Fld := ⟨0x10200104 + 0x100 * k, 17, 1, 0x0, .std⟩
def STD_Sk_STAT_REQERR (k : Nat) : Fld := ⟨0x10200104 + 0x100 * k, 18, 3, 0x0, .std⟩
def STD_Sk_LANES_LANEA (k : Nat) : Fld := ⟨0x10200108 + 0x100 * k, 0, 4, 0xf, .std⟩
def STD_Sk_LANES_LANEB (k : Nat) : Fld := ⟨0x10200108 + 0x100 * k, 4, 4, 0xf, .std⟩
def STD_Sk_LANES_LANEC (k : Nat) : Fld := ⟨0x10200108 + 0x100 * k, 8, 4, 0xf, .std⟩
def STD_Sk_LANES_RESV (k : Nat) : Fld := ⟨0x10200108 + 0x100 * k, 12, 4, 0xf, .std⟩
def STD_Sk_LANES_FENCED (k : Nat) : Fld := ⟨0x10200108 + 0x100 * k, 16, 3, 0x0, .std⟩
def STD_Sk_FAULT_CAUSE (k : Nat) : Fld := ⟨0x1020010C + 0x100 * k, 0, 4, 0x0, .std⟩
def STD_Sk_FAULT_LANE (k : Nat) : Fld := ⟨0x1020010C + 0x100 * k, 4, 2, 0x0, .std⟩
def STD_Sk_FAULT_FAILED (k : Nat) : Fld := ⟨0x1020010C + 0x100 * k, 6, 1, 0x0, .std⟩
def STD_Sk_HO_LAST_GAP (k : Nat) : Fld := ⟨0x10200110 + 0x100 * k, 0, 16, 0x0, .std⟩
def STD_Sk_HO_MAX_GAP (k : Nat) : Fld := ⟨0x10200114 + 0x100 * k, 0, 16, 0x0, .std⟩
def STD_Sk_CKPT_OFF (k : Nat) : Fld := ⟨0x10200118 + 0x100 * k, 12, 12, 0x0, .std⟩
def STD_Sk_STARTPC_LO (k : Nat) : Fld := ⟨0x1020011C + 0x100 * k, 0, 32, 0x0, .std⟩
def STD_Sk_STARTPC_HI (k : Nat) : Fld := ⟨0x10200120 + 0x100 * k, 0, 32, 0x0, .std⟩
def STD_Sk_SPLITPC_LO (k : Nat) : Fld := ⟨0x10200124 + 0x100 * k, 0, 32, 0x0, .std⟩
def STD_Sk_SPLITPC_HI (k : Nat) : Fld := ⟨0x10200128 + 0x100 * k, 0, 32, 0x0, .std⟩
def STD_Sk_SPLITWIN_BASE_PAGE (k : Nat) : Fld := ⟨0x1020012C + 0x100 * k, 12, 20, 0x0, .std⟩
def STD_Sk_SPLITWIN_SIZE_PAGES (k : Nat) : Fld := ⟨0x10200130 + 0x100 * k, 12, 20, 0x0, .std⟩
def STD_Sk_SPLITDEV_BLOCKS (k : Nat) : Fld := ⟨0x10200134 + 0x100 * k, 0, 16, 0x0, .std⟩
def STD_Sk_RST (k : Nat) : Fld := ⟨0x10200138 + 0x100 * k, 0, 32, 0x0, .std⟩
def STD_Sk_THRESH_M_TH (k : Nat) : Fld := ⟨0x1020013C + 0x100 * k, 0, 3, 0x0, .std⟩
def STD_Sk_THRESH_S_TH (k : Nat) : Fld := ⟨0x10200140 + 0x100 * k, 0, 3, 0x0, .std⟩
def STD_Sk_CLAIM_M_SRC (k : Nat) : Fld := ⟨0x10200144 + 0x100 * k, 0, 8, 0x0, .std⟩
def STD_Sk_CLAIM_M_VALID (k : Nat) : Fld := ⟨0x10200144 + 0x100 * k, 31, 1, 0x0, .std⟩
def STD_Sk_CLAIM_S_SRC (k : Nat) : Fld := ⟨0x10200148 + 0x100 * k, 0, 8, 0x0, .std⟩
def STD_Sk_CLAIM_S_VALID (k : Nat) : Fld := ⟨0x10200148 + 0x100 * k, 31, 1, 0x0, .std⟩
def STD_Sk_AGR_CNT_CNT (k : Nat) : Fld := ⟨0x1020014C + 0x100 * k, 0, 16, 0x0, .std⟩
def STD_Sk_INTLAT_MAX_NS (k : Nat) : Fld := ⟨0x10200150 + 0x100 * k, 0, 16, 0x0, .std⟩
def STD_Sk_MTIMECMPl_LO (k : Nat) (l : Nat) : Fld := ⟨0x10200160 + 0x100 * k + 0x8 * l, 0, 32, 0xffffffff, .std⟩
def STD_Sk_MTIMECMPl_HI (k : Nat) (l : Nat) : Fld := ⟨0x10200164 + 0x100 * k + 0x8 * l, 0, 32, 0xffffffff, .std⟩
def STD_EVTi_ROUTE_STANDS (i : Nat) : Fld := ⟨0x10201000 + 0x4 * i, 0, 4, 0x0, .std⟩
def STD_EVTi_ROUTE_PRIO (i : Nat) : Fld := ⟨0x10201000 + 0x4 * i, 4, 3, 0x0, .std⟩
def STD_EVTi_ROUTE_CTX (i : Nat) : Fld := ⟨0x10201000 + 0x4 * i, 8, 1, 0x0, .std⟩
def STD_Sk_PENDj (k : Nat) (j : Nat) : Fld := ⟨0x10201400 + 0x20 * k + 0x4 * j, 0, 32, 0x0, .pend⟩
/-! ### Registers of R237 (06_cyclic_programs.md) -/

def LE_CAP_LANES (i : Nat) : Fld := ⟨0x10300000, 4 * i, 4, 0, .le⟩
def LE_Ee_CMD_CMD (e : Nat) : Fld := ⟨0x10301000 + 0x1000 * e, 0, 4, 0x0, .le⟩
def LE_Ee_CMD_TOKEN (e : Nat) : Fld := ⟨0x10301000 + 0x1000 * e, 24, 8, 0x0, .le⟩
def LE_Ee_STAT_STATE (e : Nat) : Fld := ⟨0x10301004 + 0x1000 * e, 0, 3, 0x0, .le⟩
def LE_Ee_STAT_BANK (e : Nat) : Fld := ⟨0x10301004 + 0x1000 * e, 3, 1, 0x0, .le⟩
def LE_Ee_STAT_SHADOW (e : Nat) : Fld := ⟨0x10301004 + 0x1000 * e, 4, 3, 0x0, .le⟩
def LE_Ee_STAT_DEGRADED (e : Nat) : Fld := ⟨0x10301004 + 0x1000 * e, 7, 1, 0x0, .le⟩
def LE_Ee_STAT_NOTSAFE (e : Nat) : Fld := ⟨0x10301004 + 0x1000 * e, 8, 1, 0x0, .le⟩
def LE_Ee_STAT_VALID (e : Nat) : Fld := ⟨0x10301004 + 0x1000 * e, 9, 1, 0x0, .le⟩
def LE_Ee_STAT_ADMEV (e : Nat) : Fld := ⟨0x10301004 + 0x1000 * e, 16, 1, 0x0, .le⟩
def LE_Ee_STAT_SWAPEV (e : Nat) : Fld := ⟨0x10301004 + 0x1000 * e, 17, 1, 0x0, .le⟩
def LE_Ee_STAT_RSTEV (e : Nat) : Fld := ⟨0x10301004 + 0x1000 * e, 18, 1, 0x0, .le⟩
def LE_Ee_STAT_FAULTEV (e : Nat) : Fld := ⟨0x10301004 + 0x1000 * e, 19, 1, 0x0, .le⟩
def LE_Ee_STAT_ORPHEV (e : Nat) : Fld := ⟨0x10301004 + 0x1000 * e, 20, 1, 0x0, .le⟩
def LE_Ee_STAT_FRCERR (e : Nat) : Fld := ⟨0x10301004 + 0x1000 * e, 21, 1, 0x0, .le⟩
def LE_Ee_CYC_BUDGET (e : Nat) : Fld := ⟨0x10301008 + 0x1000 * e, 0, 32, 0x0, .le⟩
def LE_Ee_ADM_BOUND (e : Nat) : Fld := ⟨0x1030100C + 0x1000 * e, 0, 32, 0x0, .le⟩
def LE_Ee_CYC_LAST (e : Nat) : Fld := ⟨0x10301010 + 0x1000 * e, 0, 32, 0x0, .le⟩
def LE_Ee_CYC_MIN (e : Nat) : Fld := ⟨0x10301014 + 0x1000 * e, 0, 32, 0xffffffff, .le⟩
def LE_Ee_CYC_MAX (e : Nat) : Fld := ⟨0x10301018 + 0x1000 * e, 0, 32, 0x0, .le⟩
def LE_Ee_CYC_CNT (e : Nat) : Fld := ⟨0x1030101C + 0x1000 * e, 0, 32, 0x0, .le⟩
def LE_Ee_SWAP_LAST (e : Nat) : Fld := ⟨0x10301020 + 0x1000 * e, 0, 32, 0x0, .le⟩
def LE_Ee_LD_ADDR_OFF (e : Nat) : Fld := ⟨0x10301024 + 0x1000 * e, 3, 21, 0x0, .le⟩
def LE_Ee_LD_LEN_LEN (e : Nat) : Fld := ⟨0x10301028 + 0x1000 * e, 0, 25, 0x0, .le⟩
def LE_Ee_ADM_STAT_REASON (e : Nat) : Fld := ⟨0x1030102C + 0x1000 * e, 0, 8, 0x0, .le⟩
def LE_Ee_ADM_STAT_INDEX (e : Nat) : Fld := ⟨0x1030102C + 0x1000 * e, 8, 18, 0x0, .le⟩
def LE_Ee_SH_CLK (e : Nat) : Fld := ⟨0x10301030 + 0x1000 * e, 0, 32, 0x0, .le⟩
def LE_Ee_SH_BOUND (e : Nat) : Fld := ⟨0x10301034 + 0x1000 * e, 0, 32, 0x0, .le⟩
def LE_Ee_FAULT_CODE (e : Nat) : Fld := ⟨0x10301038 + 0x1000 * e, 0, 8, 0x0, .le⟩
def LE_Ee_FAULT_BANK (e : Nat) : Fld := ⟨0x10301038 + 0x1000 * e, 8, 1, 0x0, .le⟩
def LE_Ee_FAULT_DEPTH (e : Nat) : Fld := ⟨0x10301038 + 0x1000 * e, 9, 4, 0x0, .le⟩
def LE_Ee_FAULT_PC_PC (e : Nat) : Fld := ⟨0x1030103C + 0x1000 * e, 0, 18, 0x0, .le⟩
def LE_Ee_LANES_LANEA (e : Nat) : Fld := ⟨0x10301040 + 0x1000 * e, 0, 2, 0x0, .le⟩
def LE_Ee_LANES_LANEB (e : Nat) : Fld := ⟨0x10301040 + 0x1000 * e, 2, 2, 0x0, .le⟩
def LE_Ee_LANES_LANEC (e : Nat) : Fld := ⟨0x10301040 + 0x1000 * e, 4, 2, 0x0, .le⟩
def LE_Ee_LANES_PAIR (e : Nat) : Fld := ⟨0x10301040 + 0x1000 * e, 6, 1, 0x0, .le⟩
def LE_Ee_LANES_FENCED (e : Nat) : Fld := ⟨0x10301040 + 0x1000 * e, 8, 4, 0x0, .le⟩
def LE_Ee_LANES_RETIRED (e : Nat) : Fld := ⟨0x10301040 + 0x1000 * e, 12, 4, 0x0, .le⟩
def LE_Ee_PROGID (e : Nat) : Fld := ⟨0x10301044 + 0x1000 * e, 0, 32, 0x0, .le⟩
def LE_Ee_PROGVER (e : Nat) : Fld := ⟨0x10301048 + 0x1000 * e, 0, 32, 0x0, .le⟩
def LE_Ee_RESTART_KIND (e : Nat) : Fld := ⟨0x1030104C + 0x1000 * e, 0, 2, 0x0, .le⟩
def LE_Ee_RESTART_CAUSE (e : Nat) : Fld := ⟨0x1030104C + 0x1000 * e, 2, 2, 0x0, .le⟩
def LE_Ee_RESTART_SOURCE (e : Nat) : Fld := ⟨0x1030104C + 0x1000 * e, 4, 2, 0x0, .le⟩
def LE_Ee_RESTART_WHYCOLD (e : Nat) : Fld := ⟨0x1030104C + 0x1000 * e, 8, 4, 0x0, .le⟩
def LE_Ee_HOSTWIN_BASE (e : Nat) : Fld := ⟨0x10301050 + 0x1000 * e, 0, 13, 0x0, .le⟩
def LE_Ee_HOSTWIN_SIZE (e : Nat) : Fld := ⟨0x10301050 + 0x1000 * e, 16, 8, 0x0, .le⟩
def LE_Ee_RMAPCRC (e : Nat) : Fld := ⟨0x10301054 + 0x1000 * e, 0, 32, 0x0, .le⟩
def LE_Ee_FRC_STAT_ACTIVE (e : Nat) : Fld := ⟨0x10301058 + 0x1000 * e, 0, 9, 0x0, .le⟩
def LE_Ee_FRC_STAT_ORPHANS (e : Nat) : Fld := ⟨0x10301058 + 0x1000 * e, 16, 9, 0x0, .le⟩
def LE_Ee_ORPHANj (e : Nat) (j : Nat) : Fld := ⟨0x10301060 + 0x1000 * e + 0x4 * j, 0, 32, 0x0, .le⟩
def LE_Ee_DBG_CTL_ACT (e : Nat) : Fld := ⟨0x10301080 + 0x1000 * e, 0, 4, 0x0, .le⟩
def LE_Ee_DBG_STAT_ATT (e : Nat) : Fld := ⟨0x10301084 + 0x1000 * e, 0, 1, 0x0, .le⟩
def LE_Ee_DBG_STAT_HALTED (e : Nat) : Fld := ⟨0x10301084 + 0x1000 * e, 1, 1, 0x0, .le⟩
def LE_Ee_DBG_STAT_WHY (e : Nat) : Fld := ⟨0x10301084 + 0x1000 * e, 2, 2, 0x0, .le⟩
def LE_Ee_DBG_STAT_QFILL (e : Nat) : Fld := ⟨0x10301084 + 0x1000 * e, 4, 6, 0x0, .le⟩
def LE_Ee_BRKi_INDEX (e : Nat) (i : Nat) : Fld := ⟨0x10301090 + 0x1000 * e + 0x4 * i, 0, 18, 0x0, .le⟩
def LE_Ee_BRKi_CYC (e : Nat) (i : Nat) : Fld := ⟨0x10301090 + 0x1000 * e + 0x4 * i, 29, 1, 0x0, .le⟩
def LE_Ee_BRKi_EN (e : Nat) (i : Nat) : Fld := ⟨0x10301090 + 0x1000 * e + 0x4 * i, 31, 1, 0x0, .le⟩
def LE_Ee_FRCi_ADDR_ADDR (e : Nat) (i : Nat) : Fld := ⟨0x10301800 + 0x1000 * e + 0x8 * i, 0, 14, 0x0, .le⟩
def LE_Ee_FRCi_ADDR_BIT (e : Nat) (i : Nat) : Fld := ⟨0x10301800 + 0x1000 * e + 0x8 * i, 16, 3, 0x0, .le⟩
def LE_Ee_FRCi_ADDR_WORD (e : Nat) (i : Nat) : Fld := ⟨0x10301800 + 0x1000 * e + 0x8 * i, 20, 1, 0x0, .le⟩
def LE_Ee_FRCi_ADDR_EN (e : Nat) (i : Nat) : Fld := ⟨0x10301800 + 0x1000 * e + 0x8 * i, 31, 1, 0x0, .le⟩
def LE_Ee_FRCi_VAL_VALUE (e : Nat) (i : Nat) : Fld := ⟨0x10301804 + 0x1000 * e + 0x8 * i, 0, 32, 0x0, .le⟩
/-! ### Registers of R275 (07_field_channels.md) -/

def IOG_CAP_PRESENT : Fld := ⟨0x10600000, 0, 12, 0x0, .iog⟩
def IOG_CAP_LINK : Fld := ⟨0x10600000, 16, 12, 0x0, .iog⟩
def IOG_PLSSLOT_GROUP : Fld := ⟨0x10600004, 0, 4, 0x0, .iog⟩
def IOG_PLSSLOT_CHAN : Fld := ⟨0x10600004, 4, 8, 0x0, .iog⟩
def IOG_PLSSLOT_SW : Fld := ⟨0x10600004, 12, 1, 0x0, .iog⟩
def IOG_Gg_CFG_OWNER (g : Nat) : Fld := ⟨0x10600100 + 0x40 * g, 0, 2, 0x0, .iog⟩
def IOG_Gg_CFG_OWNEN (g : Nat) : Fld := ⟨0x10600100 + 0x40 * g, 2, 1, 0x0, .iog⟩
def IOG_Gg_CFG_MARKED (g : Nat) : Fld := ⟨0x10600100 + 0x40 * g, 3, 1, 0x0, .iog⟩
def IOG_Gg_CFG_AUTOREC (g : Nat) : Fld := ⟨0x10600100 + 0x40 * g, 4, 1, 0x0, .iog⟩
def IOG_Gg_CFG_RDELAY (g : Nat) : Fld := ⟨0x10600100 + 0x40 * g, 8, 7, 0x0, .iog⟩
def IOG_Gg_CFG_RCOUNT (g : Nat) : Fld := ⟨0x10600100 + 0x40 * g, 16, 4, 0x0, .iog⟩
def IOG_Gg_STAT_SUPPLY (g : Nat) : Fld := ⟨0x10600104 + 0x40 * g, 0, 3, 0x5, .iog⟩
def IOG_Gg_STAT_LINK (g : Nat) : Fld := ⟨0x10600104 + 0x40 * g, 3, 1, 0x0, .iog⟩
def IOG_Gg_STAT_SCANOK (g : Nat) : Fld := ⟨0x10600104 + 0x40 * g, 4, 1, 0x0, .iog⟩
def IOG_Gg_STAT_SUPEV (g : Nat) : Fld := ⟨0x10600104 + 0x40 * g, 16, 1, 0x0, .iog⟩
def IOG_Gg_STAT_FLTEV (g : Nat) : Fld := ⟨0x10600104 + 0x40 * g, 17, 1, 0x0, .iog⟩
def IOG_Gg_STAT_LATEV (g : Nat) : Fld := ⟨0x10600104 + 0x40 * g, 18, 1, 0x0, .iog⟩
def IOG_Gg_STAT_RSTDONE (g : Nat) : Fld := ⟨0x10600104 + 0x40 * g, 19, 1, 0x0, .iog⟩
def IOG_Gg_VSUP_VOLT (g : Nat) : Fld := ⟨0x10600108 + 0x40 * g, 0, 16, 0x0, .iog⟩
def IOG_Gg_AGE_AGE (g : Nat) : Fld := ⟨0x1060010C + 0x40 * g, 0, 32, 0x0, .iog⟩
def IOG_Gg_ISUP_CURR (g : Nat) : Fld := ⟨0x10600110 + 0x40 * g, 0, 16, 0x0, .iog⟩
def IOG_Gg_TEMP_NOW (g : Nat) : Fld := ⟨0x10600114 + 0x40 * g, 0, 8, 0x0, .iog⟩
def IOG_Gg_TEMP_MAX (g : Nat) : Fld := ⟨0x10600114 + 0x40 * g, 8, 8, 0x0, .iog⟩
def IOG_Gg_FLTSUM_FAULT (g : Nat) : Fld := ⟨0x10600118 + 0x40 * g, 0, 16, 0x0, .iog⟩
def IOG_Gg_LATSUM_LATCHED (g : Nat) : Fld := ⟨0x1060011C + 0x40 * g, 0, 16, 0x0, .iog⟩
def IOG_Gg_PLSLAST_CHAN (g : Nat) : Fld := ⟨0x10600120 + 0x40 * g, 0, 4, 0x0, .iog⟩
def IOG_Gg_PLSLAST_SW (g : Nat) : Fld := ⟨0x10600120 + 0x40 * g, 4, 1, 0x0, .iog⟩
def IOG_Gg_PLSLAST_PASS (g : Nat) : Fld := ⟨0x10600120 + 0x40 * g, 5, 1, 0x0, .iog⟩
def IOG_Gg_PLSLAST_JUDGED (g : Nat) : Fld := ⟨0x10600120 + 0x40 * g, 6, 1, 0x0, .iog⟩
def IOG_Gg_SUPCNT_UV (g : Nat) : Fld := ⟨0x10600124 + 0x40 * g, 0, 8, 0x0, .iog⟩
def IOG_Gg_SUPCNT_UP (g : Nat) : Fld := ⟨0x10600124 + 0x40 * g, 8, 8, 0x0, .iog⟩
def IOG_Gg_ACK_CHMASK (g : Nat) : Fld := ⟨0x10600128 + 0x40 * g, 0, 16, 0x0, .iog⟩
def IOG_Gg_ACK_SUPPLY (g : Nat) : Fld := ⟨0x10600128 + 0x40 * g, 16, 1, 0x0, .iog⟩
def IOG_Gg_ACK_TOKEN (g : Nat) : Fld := ⟨0x10600128 + 0x40 * g, 24, 8, 0x0, .iog⟩
def IOG_Gg_RST_TOKEN (g : Nat) : Fld := ⟨0x1060012C + 0x40 * g, 0, 32, 0x0, .iog⟩
def IOG_CHn_CFG_MODE (n : Nat) : Fld := ⟨0x10601000 + 0x20 * n, 0, 3, 0x0, .chan⟩
def IOG_CHn_CFG_QUAD (n : Nat) : Fld := ⟨0x10601000 + 0x20 * n, 3, 1, 0x0, .chan⟩
def IOG_CHn_CFG_EDGE (n : Nat) : Fld := ⟨0x10601000 + 0x20 * n, 4, 2, 0x0, .chan⟩
def IOG_CHn_CFG_FALLBACK (n : Nat) : Fld := ⟨0x10601000 + 0x20 * n, 6, 1, 0x0, .chan⟩
def IOG_CHn_CFG_PULSE (n : Nat) : Fld := ⟨0x10601000 + 0x20 * n, 7, 1, 0x0, .chan⟩
def IOG_CHn_CFG_PPERM (n : Nat) : Fld := ⟨0x10601000 + 0x20 * n, 8, 3, 0x0, .chan⟩
def IOG_CHn_CFG_RETRY (n : Nat) : Fld := ⟨0x10601000 + 0x20 * n, 11, 1, 0x0, .chan⟩
def IOG_CHn_FILT_T (n : Nat) : Fld := ⟨0x10601004 + 0x20 * n, 0, 16, 0x0, .chan⟩
def IOG_CHn_FILT_SETTLE (n : Nat) : Fld := ⟨0x10601004 + 0x20 * n, 16, 10, 0x0, .chan⟩
def IOG_CHn_STAT_IN (n : Nat) : Fld := ⟨0x10601008 + 0x20 * n, 0, 1, 0x0, .chan⟩
def IOG_CHn_STAT_RAW (n : Nat) : Fld := ⟨0x10601008 + 0x20 * n, 1, 1, 0x0, .chan⟩
def IOG_CHn_STAT_CMDLANE (n : Nat) : Fld := ⟨0x10601008 + 0x20 * n, 2, 1, 0x0, .chan⟩
def IOG_CHn_STAT_PERMIT (n : Nat) : Fld := ⟨0x10601008 + 0x20 * n, 3, 1, 0x0, .chan⟩
def IOG_CHn_STAT_SWON (n : Nat) : Fld := ⟨0x10601008 + 0x20 * n, 4, 1, 0x0, .chan⟩
def IOG_CHn_STAT_INVALID (n : Nat) : Fld := ⟨0x10601008 + 0x20 * n, 5, 1, 0x0, .chan⟩
def IOG_CHn_STAT_SUSPECT (n : Nat) : Fld := ⟨0x10601008 + 0x20 * n, 6, 1, 0x0, .chan⟩
def IOG_CHn_STAT_FAULT (n : Nat) : Fld := ⟨0x10601008 + 0x20 * n, 7, 1, 0x0, .chan⟩
def IOG_CHn_STAT_LATCHED (n : Nat) : Fld := ⟨0x10601008 + 0x20 * n, 8, 1, 0x0, .chan⟩
def IOG_CHn_STAT_PULSING (n : Nat) : Fld := ⟨0x10601008 + 0x20 * n, 9, 1, 0x0, .chan⟩
def IOG_CHn_STAT_CURR (n : Nat) : Fld := ⟨0x10601008 + 0x20 * n, 16, 10, 0x0, .chan⟩
def IOG_CHn_CNT_VALUE (n : Nat) : Fld := ⟨0x1060100C + 0x20 * n, 0, 32, 0x0, .chan⟩
def IOG_CHn_PULSE_LEN (n : Nat) : Fld := ⟨0x10601010 + 0x20 * n, 0, 7, 0x0, .chan⟩
def IOG_CHn_PULSE_PERIOD (n : Nat) : Fld := ⟨0x10601010 + 0x20 * n, 8, 13, 0x0, .chan⟩
def IOG_CHn_FAULT_EXTFEED (n : Nat) : Fld := ⟨0x10601014 + 0x20 * n, 0, 1, 0x0, .chan⟩
def IOG_CHn_FAULT_ONLOW (n : Nat) : Fld := ⟨0x10601014 + 0x20 * n, 1, 1, 0x0, .chan⟩
def IOG_CHn_FAULT_STUCK (n : Nat) : Fld := ⟨0x10601014 + 0x20 * n, 2, 1, 0x0, .chan⟩
def IOG_CHn_FAULT_HELD (n : Nat) : Fld := ⟨0x10601014 + 0x20 * n, 3, 1, 0x0, .chan⟩
def IOG_CHn_FAULT_CROSS (n : Nat) : Fld := ⟨0x10601014 + 0x20 * n, 4, 1, 0x0, .chan⟩
def IOG_CHn_FAULT_TRIP (n : Nat) : Fld := ⟨0x10601014 + 0x20 * n, 5, 1, 0x0, .chan⟩
def IOG_CHn_FAULT_THERM (n : Nat) : Fld := ⟨0x10601014 + 0x20 * n, 6, 1, 0x0, .chan⟩
def IOG_CHn_FAULT_QERR (n : Nat) : Fld := ⟨0x10601014 + 0x20 * n, 7, 1, 0x0, .chan⟩
def IOG_CHn_FAULT_SWITCH (n : Nat) : Fld := ⟨0x10601014 + 0x20 * n, 8, 1, 0x0, .chan⟩
def IOG_CHn_FAULT_PARTNER (n : Nat) : Fld := ⟨0x10601014 + 0x20 * n, 16, 8, 0xff, .chan⟩
def IOG_CHn_FAULT_RETRIES (n : Nat) : Fld := ⟨0x10601014 + 0x20 * n, 24, 4, 0x0, .chan⟩
def IOG_CHn_SUBST_BITSUB (n : Nat) : Fld := ⟨0x10601018 + 0x20 * n, 0, 2, 0x0, .chan⟩
def IOG_CHn_SUBST_CNTSUB (n : Nat) : Fld := ⟨0x10601018 + 0x20 * n, 2, 1, 0x0, .chan⟩
/-! ### Registers of R304 (08_ranger.md) -/

def RNG_STAT_STATE : Fld := ⟨0x10700000, 0, 4, 0x0, .rng⟩
def RNG_STAT_AREA : Fld := ⟨0x10700000, 4, 2, 0x0, .rng⟩
def RNG_STAT_CONF : Fld := ⟨0x10700000, 6, 1, 0x0, .rng⟩
def RNG_STAT_LINK : Fld := ⟨0x10700000, 7, 1, 0x0, .rng⟩
def RNG_STAT_NINST : Fld := ⟨0x10700000, 8, 8, 0x0, .rng⟩
def RNG_STAT_NCONN : Fld := ⟨0x10700000, 16, 4, 0x0, .rng⟩
def RNG_REASON_CODE : Fld := ⟨0x10700004, 0, 8, 0x0, .rng⟩
def RNG_REASON_INST : Fld := ⟨0x10700004, 8, 5, 0x0, .rng⟩
def RNG_REASON_INSTV : Fld := ⟨0x10700004, 13, 1, 0x0, .rng⟩
def RNG_PCRC : Fld := ⟨0x10700008, 0, 32, 0x0, .rng⟩
def RNG_GEN : Fld := ⟨0x1070000C, 0, 32, 0x0, .rng⟩
def RNG_EVCNT : Fld := ⟨0x10700010, 0, 32, 0x0, .rng⟩
def RNG_EVPER : Fld := ⟨0x10700014, 0, 32, 0x0, .rng⟩
def RNG_QOUT : Fld := ⟨0x10700018, 0, 32, 0x0, .rng⟩
def RNG_IFLT : Fld := ⟨0x1070001C, 0, 32, 0x0, .rng⟩
def RNG_CONN_FRESH : Fld := ⟨0x10700020, 0, 8, 0x0, .rng⟩
def RNG_CONN_FLT : Fld := ⟨0x10700020, 8, 8, 0x0, .rng⟩
def RNG_CONNc_STAT_SIG (c : Nat) : Fld := ⟨0x10700040 + 0x4 * c, 0, 16, 0x0, .rng⟩
def RNG_CONNc_STAT_FRESH (c : Nat) : Fld := ⟨0x10700040 + 0x4 * c, 16, 1, 0x0, .rng⟩
def RNG_CONNc_STAT_FLT (c : Nat) : Fld := ⟨0x10700040 + 0x4 * c, 17, 1, 0x0, .rng⟩
def RNG_CONNc_STAT_LASTREJ (c : Nat) : Fld := ⟨0x10700040 + 0x4 * c, 18, 3, 0x0, .rng⟩
def RNG_CONNc_CNT_REJ (c : Nat) : Fld := ⟨0x10700060 + 0x4 * c, 0, 16, 0x0, .rng⟩
def RNG_CONNc_CNT_TMO (c : Nat) : Fld := ⟨0x10700060 + 0x4 * c, 16, 16, 0x0, .rng⟩
def RNG_INSTi_STAT_TYPE (i : Nat) : Fld := ⟨0x10700080 + 0x4 * i, 0, 3, 0x0, .rng⟩
def RNG_INSTi_STAT_Q (i : Nat) : Fld := ⟨0x10700080 + 0x4 * i, 3, 1, 0x0, .rng⟩
def RNG_INSTi_STAT_FLT (i : Nat) : Fld := ⟨0x10700080 + 0x4 * i, 4, 4, 0x0, .rng⟩
def RNG_INSTi_VAL_VALUE (i : Nat) : Fld := ⟨0x10700100 + 0x4 * i, 0, 32, 0x0, .rng⟩
def RNG_PERMITj (j : Nat) : Fld := ⟨0x10700180 + 0x4 * j, 0, 32, 0x0, .rng⟩
def RNG_PFAILj (j : Nat) : Fld := ⟨0x107001A0 + 0x4 * j, 0, 32, 0x0, .rng⟩
/-! ### Registers of R346 (09_canopy.md) -/

def CNP_PLAN0_TC : Fld := ⟨0x10800000, 0, 3, 0x0, .cnp⟩
def CNP_PLAN0_TTW : Fld := ⟨0x10800000, 8, 13, 0x0, .cnp⟩
def CNP_PLAN1_PALLOW : Fld := ⟨0x10800004, 0, 11, 0x0, .cnp⟩
def CNP_PLAN1_NSYNC : Fld := ⟨0x10800004, 11, 2, 0x0, .cnp⟩
def CNP_PLAN1_HOMESEG : Fld := ⟨0x10800004, 13, 3, 0x0, .cnp⟩
def CNP_PLAN1_SYNCM : Fld := ⟨0x10800004, 16, 1, 0x0, .cnp⟩
def CNP_PLANCRC : Fld := ⟨0x10800008, 0, 32, 0x0, .cnp⟩
def CNP_NBLAZE_N : Fld := ⟨0x1080000C, 0, 11, 0x0, .cnp⟩
def CNP_SEGSTARTs_TICK (s : Nat) : Fld := ⟨0x10800010 + 0x4 * s, 0, 20, 0x0, .cnp⟩
def CNP_TIME_LO : Fld := ⟨0x10800040, 0, 32, 0x0, .cnp⟩
def CNP_TIME_HI : Fld := ⟨0x10800044, 0, 32, 0x0, .cnp⟩
def CNP_CYCLE : Fld := ⟨0x10800048, 0, 32, 0x0, .cnp⟩
def CNP_SYNC_STAT_STATE : Fld := ⟨0x1080004C, 0, 3, 0x1, .cnp⟩
def CNP_SYNC_STAT_MASTER : Fld := ⟨0x1080004C, 3, 1, 0x0, .cnp⟩
def CNP_SYNC_STAT_SLOT : Fld := ⟨0x1080004C, 4, 2, 0x0, .cnp⟩
def CNP_SYNC_STAT_VALIDN : Fld := ⟨0x1080004C, 8, 3, 0x0, .cnp⟩
def CNP_SYNC_STAT_STEPEV : Fld := ⟨0x1080004C, 16, 1, 0x0, .cnp⟩
def CNP_SYNC_STAT_INCONS : Fld := ⟨0x1080004C, 17, 1, 0x0, .cnp⟩
def CNP_SYNC_CORR : Fld := ⟨0x10800050, 0, 32, 0x0, .cnp⟩
def CNP_SYNC_MAXC_NS : Fld := ⟨0x10800054, 0, 16, 0x0, .cnp⟩
def CNP_JOIN_STAT_STATE : Fld := ⟨0x10800058, 0, 3, 0x0, .cnp⟩
def CNP_JOIN_STAT_PLANERR : Fld := ⟨0x10800058, 3, 1, 0x0, .cnp⟩
def CNP_JOIN_STAT_SEGNONE : Fld := ⟨0x10800058, 4, 1, 0x0, .cnp⟩
def CNP_JOIN_STAT_WHY : Fld := ⟨0x10800058, 8, 4, 0x0, .cnp⟩
def CNP_JOIN_STAT_JOINEV : Fld := ⟨0x10800058, 16, 1, 0x0, .cnp⟩
def CNP_JOIN_STAT_LEAVEEV : Fld := ⟨0x10800058, 17, 1, 0x0, .cnp⟩
def CNP_NODE_ID : Fld := ⟨0x1080005C, 0, 8, 0x0, .cnp⟩
def CNP_NODE_MEMBER : Fld := ⟨0x1080005C, 8, 7, 0x0, .cnp⟩
def CNP_NODE_SEG : Fld := ⟨0x1080005C, 16, 3, 0x0, .cnp⟩
def CNP_NODE_COUNT : Fld := ⟨0x1080005C, 24, 8, 0x0, .cnp⟩
def CNP_PORTSTAT_LINKUP : Fld := ⟨0x10800060, 0, 4, 0x0, .cnp⟩
def CNP_SEGSTAT_SEG (i : Nat) : Fld := ⟨0x10800064, 4 * i, 4, 0, .cnp⟩
def CNP_CLAIM_ARG_FRAMEID : Fld := ⟨0x10800068, 0, 10, 0x0, .cnp⟩
def CNP_CLAIM_ARG_SEG : Fld := ⟨0x10800068, 10, 3, 0x0, .cnp⟩
def CNP_CLAIM_ARG_SRC : Fld := ⟨0x10800068, 13, 1, 0x0, .cnp⟩
def CNP_CLAIM_ARG_ENG : Fld := ⟨0x10800068, 14, 2, 0x0, .cnp⟩
def CNP_CLAIM_ARG_AREA : Fld := ⟨0x10800068, 16, 11, 0x0, .cnp⟩
def CNP_CLAIM_REQ_OP : Fld := ⟨0x1080006C, 0, 3, 0x0, .cnp⟩
def CNP_CLAIM_REQ_PAYLEN : Fld := ⟨0x1080006C, 3, 11, 0x0, .cnp⟩
def CNP_CLAIM_REQ_TOKEN : Fld := ⟨0x1080006C, 24, 8, 0x0, .cnp⟩
def CNP_CLAIM_STAT_BUSY : Fld := ⟨0x10800070, 0, 1, 0x0, .cnp⟩
def CNP_CLAIM_STAT_DONE : Fld := ⟨0x10800070, 1, 1, 0x0, .cnp⟩
def CNP_CLAIM_STAT_FAIL : Fld := ⟨0x10800070, 2, 1, 0x0, .cnp⟩
def CNP_CLAIM_STAT_ERR : Fld := ⟨0x10800070, 4, 4, 0x0, .cnp⟩
def CNP_HTX_CMT_H : Fld := ⟨0x10800074, 0, 6, 0x0, .cnp⟩
def CNP_PLRST : Fld := ⟨0x10800078, 0, 32, 0x0, .cnp⟩
def CNP_PORTp_CNT_FCS (p : Nat) : Fld := ⟨0x10800080 + 0x4 * p, 0, 16, 0x0, .cnp⟩
def CNP_PORTp_CNT_ETDROP (p : Nat) : Fld := ⟨0x10800080 + 0x4 * p, 16, 16, 0x0, .cnp⟩
def CNP_MSTk_STAT_NODE (k : Nat) : Fld := ⟨0x108000A0 + 0x4 * k, 0, 8, 0x0, .cnp⟩
def CNP_MSTk_STAT_VALID (k : Nat) : Fld := ⟨0x108000A0 + 0x4 * k, 8, 1, 0x0, .cnp⟩
def CNP_MSTk_STAT_DEV (k : Nat) : Fld := ⟨0x108000A0 + 0x4 * k, 16, 16, 0x0, .cnp⟩
def CNP_BLZb_Ww (b : Nat) (w : Nat) : Fld := ⟨0x10810000 + 0x10 * b + 0x4 * w, 0, 32, 0x0, .cnp⟩
def CNP_BLZb_STAT_RESOLVED (b : Nat) : Fld := ⟨0x10820000 + 0x8 * b, 0, 1, 0x0, .cnp⟩
def CNP_BLZb_STAT_VALID (b : Nat) : Fld := ⟨0x10820000 + 0x8 * b, 1, 1, 0x0, .cnp⟩
def CNP_BLZb_STAT_HELD (b : Nat) : Fld := ⟨0x10820000 + 0x8 * b, 2, 1, 0x0, .cnp⟩
def CNP_BLZb_STAT_RUN (b : Nat) : Fld := ⟨0x10820000 + 0x8 * b, 4, 8, 0x0, .cnp⟩
def CNP_BLZb_STAT_NODE (b : Nat) : Fld := ⟨0x10820000 + 0x8 * b, 16, 8, 0x0, .cnp⟩
def CNP_BLZb_CNT_EMPTY (b : Nat) : Fld := ⟨0x10820004 + 0x8 * b, 0, 16, 0x0, .cnp⟩
def CNP_BLZb_CNT_LATE (b : Nat) : Fld := ⟨0x10820004 + 0x8 * b, 16, 8, 0x0, .cnp⟩
def CNP_BLZb_CNT_PLMISS (b : Nat) : Fld := ⟨0x10820004 + 0x8 * b, 24, 8, 0x0, .cnp⟩
def CNP_HBUFh_STAT_VALID (h : Nat) : Fld := ⟨0x10860000 + 0x4 * h, 0, 1, 0x0, .hbuf⟩
def CNP_HBUFh_STAT_DIR (h : Nat) : Fld := ⟨0x10860000 + 0x4 * h, 1, 1, 0x0, .hbuf⟩
def CNP_HBUFh_STAT_AGE (h : Nat) : Fld := ⟨0x10860000 + 0x4 * h, 8, 16, 0x0, .hbuf⟩
def CNP_HBUFh_STAT_SEQ (h : Nat) : Fld := ⟨0x10860000 + 0x4 * h, 24, 8, 0x0, .hbuf⟩
/-! ### Registers of R377 (10_train_fabric.md) -/

def CNP_INA_STAT_STATE : Fld := ⟨0x10800200, 0, 3, 0x0, .cnp⟩
def CNP_INA_STAT_RING : Fld := ⟨0x10800200, 3, 1, 0x0, .cnp⟩
def CNP_INA_STAT_FACING : Fld := ⟨0x10800200, 4, 1, 0x0, .cnp⟩
def CNP_INA_STAT_EXCL : Fld := ⟨0x10800200, 5, 1, 0x0, .cnp⟩
def CNP_INA_STAT_XPLANE : Fld := ⟨0x10800200, 6, 1, 0x0, .cnp⟩
def CNP_INA_STAT_LDERR : Fld := ⟨0x10800200, 7, 1, 0x0, .cnp⟩
def CNP_INA_STAT_WHY : Fld := ⟨0x10800200, 8, 4, 0x0, .cnp⟩
def CNP_INA_STAT_STARTEV : Fld := ⟨0x10800200, 16, 1, 0x0, .cnp⟩
def CNP_INA_STAT_DONEEV : Fld := ⟨0x10800200, 17, 1, 0x0, .cnp⟩
def CNP_INA_STAT_FAILEV : Fld := ⟨0x10800200, 18, 1, 0x0, .cnp⟩
def CNP_INA_CNT_DONE : Fld := ⟨0x10800204, 0, 16, 0x0, .cnp⟩
def CNP_INA_CNT_FAIL : Fld := ⟨0x10800204, 16, 16, 0x0, .cnp⟩
def CNP_INA_NUM_INA : Fld := ⟨0x10800208, 0, 16, 0x0, .cnp⟩
def CNP_INA_NUM_DUR : Fld := ⟨0x10800208, 16, 16, 0x0, .cnp⟩
def CNP_ISOL_ISON : Fld := ⟨0x1080020C, 0, 8, 0x0, .cnp⟩
def CNP_ISOL_GROUPS : Fld := ⟨0x1080020C, 8, 12, 0x0, .cnp⟩
def CNP_ISOL_STAT_ISOLATED : Fld := ⟨0x10800210, 0, 1, 0x0, .cnp⟩
def CNP_ISOL_STAT_CYCLES : Fld := ⟨0x10800210, 8, 8, 0x0, .cnp⟩
def CNP_ETUNR_CNT : Fld := ⟨0x10800214, 0, 16, 0x0, .cnp⟩
def CNP_LDp_DELAY (p : Nat) : Fld := ⟨0x10800220 + 0x4 * p, 0, 16, 0x0, .cnp⟩
def CNP_LDp_RES (p : Nat) : Fld := ⟨0x10800220 + 0x4 * p, 16, 16, 0x0, .cnp⟩
def CNP_NODEi_CONSIST (i : Nat) : Fld := ⟨0x10800400 + 0x4 * i, 0, 16, 0x0, .cnp⟩
def CNP_NODEi_CAR (i : Nat) : Fld := ⟨0x10800400 + 0x4 * i, 16, 5, 0x0, .cnp⟩
def CNP_NODEi_MODULE (i : Nat) : Fld := ⟨0x10800400 + 0x4 * i, 21, 3, 0x0, .cnp⟩
def CNP_NODEi_POS (i : Nat) : Fld := ⟨0x10800400 + 0x4 * i, 24, 3, 0x0, .cnp⟩
def CNP_NODEi_CAB (i : Nat) : Fld := ⟨0x10800400 + 0x4 * i, 27, 1, 0x0, .cnp⟩
def CNP_NODEi_FACING (i : Nat) : Fld := ⟨0x10800400 + 0x4 * i, 28, 1, 0x0, .cnp⟩
def CNP_NODEi_KEYLESS (i : Nat) : Fld := ⟨0x10800400 + 0x4 * i, 29, 1, 0x0, .cnp⟩
def CNP_NODEi_PRESENT (i : Nat) : Fld := ⟨0x10800400 + 0x4 * i, 30, 1, 0x0, .cnp⟩
def CNP_PDi_A (i : Nat) : Fld := ⟨0x10800600 + 0x4 * i, 0, 16, 0x0, .cnp⟩
def CNP_PDi_B (i : Nat) : Fld := ⟨0x10800600 + 0x4 * i, 16, 16, 0x0, .cnp⟩
/-! ### Registers of R397 (11_safe_transport.md) -/

def CVU_CAP_UNITS : Fld := ⟨0x10B00000, 0, 4, 0x8, .cvu⟩
def CVU_CAP_CONTEXTS : Fld := ⟨0x10B00000, 16, 8, 0x80, .cvu⟩
def CVU_CTXLOCK_LOCK : Fld := ⟨0x10B00004, 0, 1, 0x0, .cvu⟩
def CVU_CTXLOCK_LOCKERR : Fld := ⟨0x10B00004, 1, 1, 0x0, .cvu⟩
def CVU_CTXLOCK_ERRCTX : Fld := ⟨0x10B00004, 8, 7, 0x0, .cvu⟩
def CVU_RST : Fld := ⟨0x10B00008, 0, 32, 0x0, .cvu⟩
def CVU_FRESHj (j : Nat) : Fld := ⟨0x10B00010 + 0x4 * j, 0, 32, 0x0, .cvu⟩
def CVU_EVSUMj (j : Nat) : Fld := ⟨0x10B00020 + 0x4 * j, 0, 32, 0x0, .cvu⟩
def CVU_Uu_CFG_EN (u : Nat) : Fld := ⟨0x10B00100 + 0x40 * u, 0, 1, 0x0, .cvu⟩
def CVU_Uu_CFG_POLY (u : Nat) : Fld := ⟨0x10B00100 + 0x40 * u, 1, 2, 0x0, .cvu⟩
def CVU_Uu_CFG_SRC (u : Nat) : Fld := ⟨0x10B00100 + 0x40 * u, 4, 3, 0x0, .cvu⟩
def CVU_Uu_CFG_PORT (u : Nat) : Fld := ⟨0x10B00100 + 0x40 * u, 8, 3, 0x0, .cvu⟩
def CVU_Uu_CFG_FILT (u : Nat) : Fld := ⟨0x10B00100 + 0x40 * u, 11, 1, 0x0, .cvu⟩
def CVU_Uu_CFG_FRAMEID (u : Nat) : Fld := ⟨0x10B00100 + 0x40 * u, 12, 10, 0x0, .cvu⟩
def CVU_Uu_CFG_CMP (u : Nat) : Fld := ⟨0x10B00100 + 0x40 * u, 22, 1, 0x0, .cvu⟩
def CVU_Uu_CFG_SAFE (u : Nat) : Fld := ⟨0x10B00100 + 0x40 * u, 23, 1, 0x0, .cvu⟩
def CVU_Uu_SEED_LO (u : Nat) : Fld := ⟨0x10B00104 + 0x40 * u, 0, 32, 0x0, .cvu⟩
def CVU_Uu_SEED_HI (u : Nat) : Fld := ⟨0x10B00108 + 0x40 * u, 0, 32, 0x0, .cvu⟩
def CVU_Uu_RANGE_START (u : Nat) : Fld := ⟨0x10B0010C + 0x40 * u, 0, 16, 0x0, .cvu⟩
def CVU_Uu_RANGE_LEN (u : Nat) : Fld := ⟨0x10B0010C + 0x40 * u, 16, 16, 0x0, .cvu⟩
def CVU_Uu_WBASE_BASE (u : Nat) : Fld := ⟨0x10B00110 + 0x40 * u, 0, 30, 0x0, .cvu⟩
def CVU_Uu_WSIZE_SIZE (u : Nat) : Fld := ⟨0x10B00114 + 0x40 * u, 0, 24, 0x0, .cvu⟩
def CVU_Uu_RES_LO (u : Nat) : Fld := ⟨0x10B00118 + 0x40 * u, 0, 32, 0x0, .cvu⟩
def CVU_Uu_RES_HI (u : Nat) : Fld := ⟨0x10B0011C + 0x40 * u, 0, 32, 0x0, .cvu⟩
def CVU_Uu_EXP_LO (u : Nat) : Fld := ⟨0x10B00120 + 0x40 * u, 0, 32, 0x0, .cvu⟩
def CVU_Uu_EXP_HI (u : Nat) : Fld := ⟨0x10B00124 + 0x40 * u, 0, 32, 0x0, .cvu⟩
def CVU_Uu_STAT_BUSY (u : Nat) : Fld := ⟨0x10B00128 + 0x40 * u, 0, 1, 0x0, .cvu⟩
def CVU_Uu_STAT_DONEEV (u : Nat) : Fld := ⟨0x10B00128 + 0x40 * u, 1, 1, 0x0, .cvu⟩
def CVU_Uu_STAT_MISEV (u : Nat) : Fld := ⟨0x10B00128 + 0x40 * u, 2, 1, 0x0, .cvu⟩
def CVU_Uu_STAT_FRAMES (u : Nat) : Fld := ⟨0x10B00128 + 0x40 * u, 16, 16, 0x0, .cvu⟩
def CVU_Uu_CTL_RESTART (u : Nat) : Fld := ⟨0x10B0012C + 0x40 * u, 0, 1, 0x0, .cvu⟩
def CVU_Uu_MISCNT_CNT (u : Nat) : Fld := ⟨0x10B00130 + 0x40 * u, 0, 16, 0x0, .cvu⟩
def CVU_CTXc_CFG_EN (c : Nat) : Fld := ⟨0x10B01000 + 0x20 * c, 0, 1, 0x0, .cvu⟩
def CVU_CTXc_CFG_DIR (c : Nat) : Fld := ⟨0x10B01000 + 0x20 * c, 1, 1, 0x0, .cvu⟩
def CVU_CTXc_CFG_BLAZE (c : Nat) : Fld := ⟨0x10B01000 + 0x20 * c, 2, 10, 0x0, .cvu⟩
def CVU_CTXc_CFG_MAXSTEP (c : Nat) : Fld := ⟨0x10B01000 + 0x20 * c, 12, 8, 0x0, .cvu⟩
def CVU_CTXc_SRCID (c : Nat) : Fld := ⟨0x10B01004 + 0x20 * c, 0, 32, 0x0, .cvu⟩
def CVU_CTXc_DSTID (c : Nat) : Fld := ⟨0x10B01008 + 0x20 * c, 0, 32, 0x0, .cvu⟩
def CVU_CTXc_SEED (c : Nat) : Fld := ⟨0x10B0100C + 0x20 * c, 0, 32, 0x0, .cvu⟩
def CVU_CTXc_TMO_TIMEOUT (c : Nat) : Fld := ⟨0x10B01010 + 0x20 * c, 0, 14, 0x0, .cvu⟩
def CVU_CTXc_STAT_FRESH (c : Nat) : Fld := ⟨0x10B01014 + 0x20 * c, 0, 1, 0x0, .cvu⟩
def CVU_CTXc_STAT_SEEN (c : Nat) : Fld := ⟨0x10B01014 + 0x20 * c, 1, 1, 0x0, .cvu⟩
def CVU_CTXc_STAT_LASTREJ (c : Nat) : Fld := ⟨0x10B01014 + 0x20 * c, 2, 3, 0x0, .cvu⟩
def CVU_CTXc_STAT_REJEV (c : Nat) : Fld := ⟨0x10B01014 + 0x20 * c, 8, 1, 0x0, .cvu⟩
def CVU_CTXc_STAT_MISSEV (c : Nat) : Fld := ⟨0x10B01014 + 0x20 * c, 9, 1, 0x0, .cvu⟩
def CVU_CTXc_STAT_DIFFEV (c : Nat) : Fld := ⟨0x10B01014 + 0x20 * c, 10, 1, 0x0, .cvu⟩
def CVU_CTXc_STAT_TMOEV (c : Nat) : Fld := ⟨0x10B01014 + 0x20 * c, 11, 1, 0x0, .cvu⟩
def CVU_CTXc_STAT_ALIVE (c : Nat) : Fld := ⟨0x10B01014 + 0x20 * c, 16, 16, 0x0, .cvu⟩
def CVU_CTXc_SEQ (c : Nat) : Fld := ⟨0x10B01018 + 0x20 * c, 0, 32, 0x0, .cvu⟩
def CVU_CTXc_CNT_REJ (c : Nat) : Fld := ⟨0x10B0101C + 0x20 * c, 0, 8, 0x0, .cvu⟩
def CVU_CTXc_CNT_MISS (c : Nat) : Fld := ⟨0x10B0101C + 0x20 * c, 8, 8, 0x0, .cvu⟩
def CVU_CTXc_CNT_DIFF (c : Nat) : Fld := ⟨0x10B0101C + 0x20 * c, 16, 8, 0x0, .cvu⟩
def CVU_CTXc_CNT_TMO (c : Nat) : Fld := ⟨0x10B0101C + 0x20 * c, 24, 8, 0x0, .cvu⟩
/-! ### Registers of R427 (12_rootway_understory.md) -/

def RWY_CAP_WINDOWS : Fld := ⟨0x10900000, 0, 8, 0x10, .rwy⟩
def RWY_CAP_APERTURES : Fld := ⟨0x10900000, 16, 8, 0x4, .rwy⟩
def RWY_STAT_RDEV : Fld := ⟨0x10900004, 0, 1, 0x0, .rwy⟩
def RWY_STAT_PWEEV : Fld := ⟨0x10900004, 1, 1, 0x0, .rwy⟩
def RWY_STAT_LKTMOEV : Fld := ⟨0x10900004, 2, 1, 0x0, .rwy⟩
def RWY_STAT_REFEV : Fld := ⟨0x10900004, 3, 1, 0x0, .rwy⟩
def RWY_STAT_POSTED : Fld := ⟨0x10900004, 8, 8, 0x0, .rwy⟩
def RWY_STAT_STALL : Fld := ⟨0x10900004, 16, 8, 0x0, .rwy⟩
def RWY_RST : Fld := ⟨0x10900008, 0, 32, 0x0, .rwy⟩
def RWY_PWE_CNT_FAIL : Fld := ⟨0x1090000C, 0, 16, 0x0, .rwy⟩
def RWY_PWE_CNT_LOST : Fld := ⟨0x1090000C, 16, 16, 0x0, .rwy⟩
def RWY_RDERR_OFFSET : Fld := ⟨0x10900010, 0, 26, 0x0, .rwy⟩
def RWY_RDERR_WINDOW : Fld := ⟨0x10900010, 26, 4, 0x0, .rwy⟩
def RWY_RDSTAT_STATUS : Fld := ⟨0x10900014, 0, 4, 0x0, .rwy⟩
def RWY_CNT_RETRY : Fld := ⟨0x10900018, 0, 16, 0x0, .rwy⟩
def RWY_CNT_LKEXP : Fld := ⟨0x10900018, 16, 16, 0x0, .rwy⟩
def RWY_PWEi_LOC_OFFSET (i : Nat) : Fld := ⟨0x10900100 + 0x10 * i, 0, 26, 0x0, .rwy⟩
def RWY_PWEi_LOC_WINDOW (i : Nat) : Fld := ⟨0x10900100 + 0x10 * i, 26, 4, 0x0, .rwy⟩
def RWY_PWEi_INFO_VALID (i : Nat) : Fld := ⟨0x10900104 + 0x10 * i, 0, 1, 0x0, .rwy⟩
def RWY_PWEi_INFO_STATUS (i : Nat) : Fld := ⟨0x10900104 + 0x10 * i, 1, 4, 0x0, .rwy⟩
def RWY_PWEi_INFO_SIZE (i : Nat) : Fld := ⟨0x10900104 + 0x10 * i, 5, 2, 0x0, .rwy⟩
def RWY_PWEi_INFO_NODE (i : Nat) : Fld := ⟨0x10900104 + 0x10 * i, 8, 8, 0x0, .rwy⟩
def RWY_PWEi_TIME_LO (i : Nat) : Fld := ⟨0x10900108 + 0x10 * i, 0, 32, 0x0, .rwy⟩
def RWY_PWEi_TIME_HI (i : Nat) : Fld := ⟨0x1090010C + 0x10 * i, 0, 32, 0x0, .rwy⟩
def RWY_Ww_TGT_CONSIST (w : Nat) : Fld := ⟨0x10901000 + 0x20 * w, 0, 16, 0x0, .rwy⟩
def RWY_Ww_TGT_CAR (w : Nat) : Fld := ⟨0x10901000 + 0x20 * w, 16, 5, 0x0, .rwy⟩
def RWY_Ww_TGT_MODULE (w : Nat) : Fld := ⟨0x10901000 + 0x20 * w, 21, 3, 0x0, .rwy⟩
def RWY_Ww_TGT_APER (w : Nat) : Fld := ⟨0x10901000 + 0x20 * w, 24, 2, 0x0, .rwy⟩
def RWY_Ww_CFG_EN (w : Nat) : Fld := ⟨0x10901004 + 0x20 * w, 0, 1, 0x0, .rwy⟩
def RWY_Ww_CFG_ROUTE (w : Nat) : Fld := ⟨0x10901004 + 0x20 * w, 1, 1, 0x0, .rwy⟩
def RWY_Ww_CFG_PLANE (w : Nat) : Fld := ⟨0x10901004 + 0x20 * w, 2, 1, 0x0, .rwy⟩
def RWY_Ww_CFG_DBPOLL (w : Nat) : Fld := ⟨0x10901004 + 0x20 * w, 3, 1, 0x0, .rwy⟩
def RWY_Ww_CFG_BLZ (w : Nat) : Fld := ⟨0x10901004 + 0x20 * w, 4, 10, 0x0, .rwy⟩
def RWY_Ww_FENCE_STATUS (w : Nat) : Fld := ⟨0x10901008 + 0x20 * w, 0, 4, 0x0, .rwy⟩
def RWY_Ww_STAT_RESOLVED (w : Nat) : Fld := ⟨0x1090100C + 0x20 * w, 0, 1, 0x0, .rwy⟩
def RWY_Ww_STAT_NODE (w : Nat) : Fld := ⟨0x1090100C + 0x20 * w, 1, 8, 0x0, .rwy⟩
def RWY_Ww_STAT_DOORAGE (w : Nat) : Fld := ⟨0x1090100C + 0x20 * w, 16, 8, 0x0, .rwy⟩
def RWY_Ww_STAT_POSTED (w : Nat) : Fld := ⟨0x1090100C + 0x20 * w, 24, 8, 0x0, .rwy⟩
def RWY_Ww_DOOR (w : Nat) : Fld := ⟨0x10901010 + 0x20 * w, 0, 32, 0x0, .rwy⟩
def RWY_Ww_DOORCYC (w : Nat) : Fld := ⟨0x10901014 + 0x20 * w, 0, 32, 0x0, .rwy⟩
def RWY_Aa_BASE_BASE (a : Nat) : Fld := ⟨0x10902000 + 0x20 * a, 0, 24, 0x0, .rwy⟩
def RWY_Aa_CFG_EN (a : Nat) : Fld := ⟨0x10902004 + 0x20 * a, 0, 1, 0x0, .rwy⟩
def RWY_Aa_CFG_RD (a : Nat) : Fld := ⟨0x10902004 + 0x20 * a, 1, 1, 0x0, .rwy⟩
def RWY_Aa_CFG_WR (a : Nat) : Fld := ⟨0x10902004 + 0x20 * a, 2, 1, 0x0, .rwy⟩
def RWY_Aa_CFG_LK (a : Nat) : Fld := ⟨0x10902004 + 0x20 * a, 3, 1, 0x0, .rwy⟩
def RWY_Aa_CFG_SCOPE (a : Nat) : Fld := ⟨0x10902004 + 0x20 * a, 4, 2, 0x0, .rwy⟩
def RWY_Aa_CFG_SIZE (a : Nat) : Fld := ⟨0x10902004 + 0x20 * a, 6, 5, 0x0, .rwy⟩
def RWY_Aa_CFG_RSPROUTE (a : Nat) : Fld := ⟨0x10902004 + 0x20 * a, 11, 1, 0x0, .rwy⟩
def RWY_Aa_CFG_RSPBLZ (a : Nat) : Fld := ⟨0x10902004 + 0x20 * a, 12, 10, 0x0, .rwy⟩
def RWY_Aa_CFG_CFGERR (a : Nat) : Fld := ⟨0x10902004 + 0x20 * a, 22, 1, 0x0, .rwy⟩
def RWY_Aa_PEER_CONSIST (a : Nat) : Fld := ⟨0x10902008 + 0x20 * a, 0, 16, 0x0, .rwy⟩
def RWY_Aa_PEER_CAR (a : Nat) : Fld := ⟨0x10902008 + 0x20 * a, 16, 5, 0x0, .rwy⟩
def RWY_Aa_PEER_MODULE (a : Nat) : Fld := ⟨0x10902008 + 0x20 * a, 21, 3, 0x0, .rwy⟩
def RWY_Aa_PEER_APER (a : Nat) : Fld := ⟨0x10902008 + 0x20 * a, 24, 2, 0x0, .rwy⟩
def RWY_Aa_DOOR (a : Nat) : Fld := ⟨0x1090200C + 0x20 * a, 0, 32, 0x0, .rwy⟩
def RWY_Aa_STAT_LOCKED (a : Nat) : Fld := ⟨0x10902010 + 0x20 * a, 0, 1, 0x0, .rwy⟩
def RWY_Aa_STAT_HOLDER (a : Nat) : Fld := ⟨0x10902010 + 0x20 * a, 1, 8, 0x0, .rwy⟩
def RWY_Aa_STAT_STALLED (a : Nat) : Fld := ⟨0x10902010 + 0x20 * a, 9, 7, 0x0, .rwy⟩
def RWY_Aa_CNT_SERVED (a : Nat) : Fld := ⟨0x10902014 + 0x20 * a, 0, 16, 0x0, .rwy⟩
def RWY_Aa_CNT_REFUSED (a : Nat) : Fld := ⟨0x10902014 + 0x20 * a, 16, 16, 0x0, .rwy⟩
/-! ### Registers of R428 (12_rootway_understory.md) -/

def UST_CAP_PORTS : Fld := ⟨0x10A00000, 0, 6, 0x3f, .ust⟩
def UST_CAP_TUNNELS : Fld := ⟨0x10A00000, 16, 8, 0x20, .ust⟩
def UST_STAT_EV : Fld := ⟨0x10A00004, 0, 6, 0x0, .ust⟩
def UST_TUNt_CFG_EN (t : Nat) : Fld := ⟨0x10A00100 + 0x20 * t, 0, 1, 0x0, .ust⟩
def UST_TUNt_CFG_PORT (t : Nat) : Fld := ⟨0x10A00100 + 0x20 * t, 1, 3, 0x0, .ust⟩
def UST_TUNt_CFG_COPY (t : Nat) : Fld := ⟨0x10A00100 + 0x20 * t, 4, 1, 0x0, .ust⟩
def UST_TUNt_CFG_MAXAGE (t : Nat) : Fld := ⟨0x10A00100 + 0x20 * t, 8, 10, 0x0, .ust⟩
def UST_TUNt_PEER_CONSIST (t : Nat) : Fld := ⟨0x10A00104 + 0x20 * t, 0, 16, 0x0, .ust⟩
def UST_TUNt_PEER_CAR (t : Nat) : Fld := ⟨0x10A00104 + 0x20 * t, 16, 5, 0x0, .ust⟩
def UST_TUNt_PEER_MODULE (t : Nat) : Fld := ⟨0x10A00104 + 0x20 * t, 21, 3, 0x0, .ust⟩
def UST_TUNt_PEER_TUNID (t : Nat) : Fld := ⟨0x10A00104 + 0x20 * t, 26, 6, 0x0, .ust⟩
def UST_TUNt_FILT (t : Nat) : Fld := ⟨0x10A00108 + 0x20 * t, 0, 32, 0x0, .ust⟩
def UST_TUNt_MASK (t : Nat) : Fld := ⟨0x10A0010C + 0x20 * t, 0, 32, 0x0, .ust⟩
def UST_TUNt_CNT_QDROP (t : Nat) : Fld := ⟨0x10A00110 + 0x20 * t, 0, 8, 0x0, .ust⟩
def UST_TUNt_CNT_AGEDROP (t : Nat) : Fld := ⟨0x10A00110 + 0x20 * t, 8, 8, 0x0, .ust⟩
def UST_TUNt_CNT_FRAGDROP (t : Nat) : Fld := ⟨0x10A00110 + 0x20 * t, 16, 8, 0x0, .ust⟩
def UST_TUNt_CNT_GAP (t : Nat) : Fld := ⟨0x10A00110 + 0x20 * t, 24, 8, 0x0, .ust⟩
def UST_TUNt_STAT_RESOLVED (t : Nat) : Fld := ⟨0x10A00114 + 0x20 * t, 0, 1, 0x0, .ust⟩
def UST_TUNt_STAT_NODE (t : Nat) : Fld := ⟨0x10A00114 + 0x20 * t, 1, 8, 0x0, .ust⟩
def UST_TUNt_STAT_QUEUED (t : Nat) : Fld := ⟨0x10A00114 + 0x20 * t, 9, 7, 0x0, .ust⟩
def UST_Pp_CFG_EN (p : Nat) : Fld := ⟨0x10A01000 + 0x1000 * p, 0, 1, 0x0, .ust⟩
def UST_Pp_CFG_LISTEN (p : Nat) : Fld := ⟨0x10A01000 + 0x1000 * p, 1, 1, 0x0, .ust⟩
def UST_Pp_CFG_FDEN (p : Nat) : Fld := ⟨0x10A01000 + 0x1000 * p, 2, 1, 0x0, .ust⟩
def UST_Pp_CFG_BOAUTO (p : Nat) : Fld := ⟨0x10A01000 + 0x1000 * p, 3, 1, 0x0, .ust⟩
def UST_Pp_CFG_HDLC (p : Nat) : Fld := ⟨0x10A01000 + 0x1000 * p, 4, 1, 0x0, .ust⟩
def UST_Pp_CFG_PARITY (p : Nat) : Fld := ⟨0x10A01000 + 0x1000 * p, 5, 2, 0x0, .ust⟩
def UST_Pp_CFG_STOP2 (p : Nat) : Fld := ⟨0x10A01000 + 0x1000 * p, 7, 1, 0x0, .ust⟩
def UST_Pp_CFG_BITS7 (p : Nat) : Fld := ⟨0x10A01000 + 0x1000 * p, 8, 1, 0x0, .ust⟩
def UST_Pp_CFG_FCS32 (p : Nat) : Fld := ⟨0x10A01000 + 0x1000 * p, 9, 1, 0x0, .ust⟩
def UST_Pp_CFG_ADDR8 (p : Nat) : Fld := ⟨0x10A01000 + 0x1000 * p, 10, 8, 0x0, .ust⟩
def UST_Pp_CFG_DEVADDR (p : Nat) : Fld := ⟨0x10A01000 + 0x1000 * p, 18, 12, 0x0, .ust⟩
def UST_Pp_RATE_ARB (p : Nat) : Fld := ⟨0x10A01004 + 0x1000 * p, 0, 16, 0x0, .ust⟩
def UST_Pp_RATE_DATA (p : Nat) : Fld := ⟨0x10A01004 + 0x1000 * p, 16, 16, 0x0, .ust⟩
def UST_Pp_STAT_UP (p : Nat) : Fld := ⟨0x10A01008 + 0x1000 * p, 0, 1, 0x0, .ust⟩
def UST_Pp_STAT_PASSIVE (p : Nat) : Fld := ⟨0x10A01008 + 0x1000 * p, 1, 1, 0x0, .ust⟩
def UST_Pp_STAT_BUSOFF (p : Nat) : Fld := ⟨0x10A01008 + 0x1000 * p, 2, 1, 0x0, .ust⟩
def UST_Pp_STAT_LINEB (p : Nat) : Fld := ⟨0x10A01008 + 0x1000 * p, 3, 1, 0x0, .ust⟩
def UST_Pp_STAT_FDX (p : Nat) : Fld := ⟨0x10A01008 + 0x1000 * p, 4, 1, 0x0, .ust⟩
def UST_Pp_STAT_TEC (p : Nat) : Fld := ⟨0x10A01008 + 0x1000 * p, 8, 8, 0x0, .ust⟩
def UST_Pp_STAT_REC (p : Nat) : Fld := ⟨0x10A01008 + 0x1000 * p, 16, 8, 0x0, .ust⟩
def UST_Pp_ERR_RXDROP (p : Nat) : Fld := ⟨0x10A0100C + 0x1000 * p, 0, 8, 0x0, .ust⟩
def UST_Pp_ERR_TXERR (p : Nat) : Fld := ⟨0x10A0100C + 0x1000 * p, 8, 8, 0x0, .ust⟩
def UST_Pp_ERR_LINE (p : Nat) : Fld := ⟨0x10A0100C + 0x1000 * p, 16, 8, 0x0, .ust⟩
def UST_Pp_ERR_FCS (p : Nat) : Fld := ⟨0x10A0100C + 0x1000 * p, 24, 8, 0x0, .ust⟩
def UST_Pp_RST (p : Nat) : Fld := ⟨0x10A01010 + 0x1000 * p, 0, 32, 0x0, .ust⟩
def UST_Pp_MAC_LO (p : Nat) : Fld := ⟨0x10A01014 + 0x1000 * p, 0, 32, 0x0, .ust⟩
def UST_Pp_MAC_HI_MAC (p : Nat) : Fld := ⟨0x10A01018 + 0x1000 * p, 0, 16, 0x0, .ust⟩
def UST_Pp_RXBASE_OFF (p : Nat) : Fld := ⟨0x10A01020 + 0x1000 * p, 3, 21, 0x0, .ust⟩
def UST_Pp_RXSIZE_SIZE (p : Nat) : Fld := ⟨0x10A01024 + 0x1000 * p, 3, 21, 0x0, .ust⟩
def UST_Pp_RXHEAD_OFF (p : Nat) : Fld := ⟨0x10A01028 + 0x1000 * p, 3, 21, 0x0, .ust⟩
def UST_Pp_RXTAIL_OFF (p : Nat) : Fld := ⟨0x10A0102C + 0x1000 * p, 3, 21, 0x0, .ust⟩
def UST_Pp_TXBASE_OFF (p : Nat) : Fld := ⟨0x10A01030 + 0x1000 * p, 3, 21, 0x0, .ust⟩
def UST_Pp_TXSIZE_SIZE (p : Nat) : Fld := ⟨0x10A01034 + 0x1000 * p, 3, 21, 0x0, .ust⟩
def UST_Pp_TXHEAD_OFF (p : Nat) : Fld := ⟨0x10A01038 + 0x1000 * p, 3, 21, 0x0, .ust⟩
def UST_Pp_TXTAIL_OFF (p : Nat) : Fld := ⟨0x10A0103C + 0x1000 * p, 3, 21, 0x0, .ust⟩
def UST_Pp_FLTk_ID_ID (p : Nat) (k : Nat) : Fld := ⟨0x10A01100 + 0x1000 * p + 0x8 * k, 0, 29, 0x0, .ust⟩
def UST_Pp_FLTk_ID_IDE (p : Nat) (k : Nat) : Fld := ⟨0x10A01100 + 0x1000 * p + 0x8 * k, 29, 1, 0x0, .ust⟩
def UST_Pp_FLTk_ID_EN (p : Nat) (k : Nat) : Fld := ⟨0x10A01100 + 0x1000 * p + 0x8 * k, 31, 1, 0x0, .ust⟩
def UST_Pp_FLTk_MASK (p : Nat) (k : Nat) : Fld := ⟨0x10A01104 + 0x1000 * p + 0x8 * k, 0, 32, 0x0, .ust⟩
def UST_Pp_MVBPk_ADDR (k : Nat) : Fld := ⟨0x10A03400 + 0x4 * k, 0, 12, 0x0, .ust⟩
def UST_Pp_MVBPk_SIZE (k : Nat) : Fld := ⟨0x10A03400 + 0x4 * k, 12, 3, 0x0, .ust⟩
def UST_Pp_MVBPk_SRC (k : Nat) : Fld := ⟨0x10A03400 + 0x4 * k, 15, 1, 0x0, .ust⟩
def UST_Pp_MVBPk_EN (k : Nat) : Fld := ⟨0x10A03400 + 0x4 * k, 16, 1, 0x0, .ust⟩
/-! ### Registers of R454 (13_memory_ecc.md) -/

def ECC_STAT_CEEV : Fld := ⟨0x10400000, 0, 1, 0x0, .ecc⟩
def ECC_STAT_UEEV : Fld := ⟨0x10400000, 1, 1, 0x0, .ecc⟩
def ECC_STAT_AFEV : Fld := ⟨0x10400000, 2, 1, 0x0, .ecc⟩
def ECC_STAT_CTEV : Fld := ⟨0x10400000, 3, 1, 0x0, .ecc⟩
def ECC_STAT_PINEV : Fld := ⟨0x10400000, 4, 1, 0x0, .ecc⟩
def ECC_CE_CNT : Fld := ⟨0x10400004, 0, 32, 0x0, .ecc⟩
def ECC_UE_CNT_UE : Fld := ⟨0x10400008, 0, 16, 0x0, .ecc⟩
def ECC_UE_CNT_AF : Fld := ⟨0x10400008, 16, 16, 0x0, .ecc⟩
def ECC_CT_LOST_CNT : Fld := ⟨0x1040000C, 0, 16, 0x0, .ecc⟩
def ECC_UE_LOC_ROW : Fld := ⟨0x10400010, 0, 28, 0x0, .ecc⟩
def ECC_UE_LOC_MEMID : Fld := ⟨0x10400010, 28, 4, 0x0, .ecc⟩
def ECC_UE_INFO_RESULT : Fld := ⟨0x10400014, 0, 3, 0x0, .ecc⟩
def ECC_UE_INFO_MASTER : Fld := ⟨0x10400014, 8, 8, 0x0, .ecc⟩
def ECC_UE_INFO_CAUSE : Fld := ⟨0x10400014, 16, 4, 0x0, .ecc⟩
def ECC_UE_TIME_LO : Fld := ⟨0x10400018, 0, 32, 0x0, .ecc⟩
def ECC_UE_TIME_HI : Fld := ⟨0x1040001C, 0, 32, 0x0, .ecc⟩
def ECC_FILL_ADDR_LO_ROW : Fld := ⟨0x10400020, 5, 27, 0x0, .ecc⟩
def ECC_FILL_ADDR_HI_HI : Fld := ⟨0x10400024, 0, 4, 0x0, .ecc⟩
def ECC_FILL_LEN_LEN : Fld := ⟨0x10400028, 0, 29, 0x0, .ecc⟩
def ECC_FILL_PAT_LO : Fld := ⟨0x1040002C, 0, 32, 0x0, .ecc⟩
def ECC_FILL_PAT_HI : Fld := ⟨0x10400030, 0, 32, 0x0, .ecc⟩
def ECC_FILL_CMD_START : Fld := ⟨0x10400034, 0, 1, 0x0, .ecc⟩
def ECC_FILL_CMD_ABORT : Fld := ⟨0x10400034, 1, 1, 0x0, .ecc⟩
def ECC_FILL_CMD_TOKEN : Fld := ⟨0x10400034, 24, 8, 0x0, .ecc⟩
def ECC_FILL_STAT_BUSY : Fld := ⟨0x10400038, 0, 1, 0x0, .ecc⟩
def ECC_FILL_STAT_DONE : Fld := ⟨0x10400038, 1, 1, 0x0, .ecc⟩
def ECC_FILL_STAT_FAIL : Fld := ⟨0x10400038, 2, 1, 0x0, .ecc⟩
def ECC_FILL_STAT_ERR : Fld := ⟨0x10400038, 4, 4, 0x0, .ecc⟩
def ECC_FILL_PROG : Fld := ⟨0x1040003C, 0, 32, 0x0, .ecc⟩
def ECC_SCRm_BASE_ROW (m : Nat) : Fld := ⟨0x10400100 + 0x20 * m, 0, 28, 0x0, .ecc⟩
def ECC_SCRm_LIMIT_ROW (m : Nat) : Fld := ⟨0x10400104 + 0x20 * m, 0, 29, 0x0, .ecc⟩
def ECC_SCRm_LAPLAST_MS (m : Nat) : Fld := ⟨0x10400108 + 0x20 * m, 0, 24, 0x0, .ecc⟩
def ECC_SCRm_LAPMAX_MS (m : Nat) : Fld := ⟨0x1040010C + 0x20 * m, 0, 24, 0x0, .ecc⟩
def ECC_SCRm_LAPLIM_MS (m : Nat) : Fld := ⟨0x10400110 + 0x20 * m, 0, 24, if m = 0 then 600000 else 10000, .ecc⟩
def ECC_SCRm_STAT_LAPS (m : Nat) : Fld := ⟨0x10400114 + 0x20 * m, 0, 16, 0x0, .ecc⟩
def ECC_SCRm_STAT_LIMEV (m : Nat) : Fld := ⟨0x10400114 + 0x20 * m, 16, 1, 0x0, .ecc⟩
def ECC_SCRm_STAT_RUN (m : Nat) : Fld := ⟨0x10400114 + 0x20 * m, 17, 1, 0x0, .ecc⟩
def ECC_CTi_LOC_ROW (i : Nat) : Fld := ⟨0x10400400 + 0x10 * i, 0, 28, 0x0, .ecc⟩
def ECC_CTi_LOC_MEMID (i : Nat) : Fld := ⟨0x10400400 + 0x10 * i, 28, 4, 0x0, .ecc⟩
def ECC_CTi_INFO_STATE (i : Nat) : Fld := ⟨0x10400404 + 0x10 * i, 0, 3, 0x0, .ecc⟩
def ECC_CTi_INFO_LAPCNT (i : Nat) : Fld := ⟨0x10400404 + 0x10 * i, 4, 4, 0x0, .ecc⟩
def ECC_CTi_INFO_COUNT (i : Nat) : Fld := ⟨0x10400404 + 0x10 * i, 8, 8, 0x0, .ecc⟩
def ECC_CTi_INFO_POS (i : Nat) : Fld := ⟨0x10400404 + 0x10 * i, 16, 6, 0x0, .ecc⟩
def ECC_CTi_INFO_NSYM (i : Nat) : Fld := ⟨0x10400404 + 0x10 * i, 23, 3, 0x0, .ecc⟩
def ECC_CTi_TIME_LO (i : Nat) : Fld := ⟨0x10400408 + 0x10 * i, 0, 32, 0x0, .ecc⟩
def ECC_CTi_TIME_HI (i : Nat) : Fld := ⟨0x1040040C + 0x10 * i, 0, 32, 0x0, .ecc⟩
def ECC_TST_CTL_OP : Fld := ⟨0x10400800, 0, 3, 0x0, .ecc⟩
def ECC_TST_CTL_TOKEN : Fld := ⟨0x10400800, 24, 8, 0x0, .ecc⟩
def ECC_TST_ADDR_LO_ROW : Fld := ⟨0x10400804, 5, 27, 0x0, .ecc⟩
def ECC_TST_ADDR_HI_HI : Fld := ⟨0x10400808, 0, 4, 0x0, .ecc⟩
def ECC_TST_ADDR_HI_ARM : Fld := ⟨0x10400808, 31, 1, 0x0, .ecc⟩
def ECC_TST_DATAk (k : Nat) : Fld := ⟨0x10400810 + 0x4 * k, 0, 32, 0x0, .ecc⟩
def ECC_TST_CHK_LO : Fld := ⟨0x10400830, 0, 32, 0x0, .ecc⟩
def ECC_TST_CHK_HI : Fld := ⟨0x10400834, 0, 32, 0x0, .ecc⟩
def ECC_TST_RES_RESULT : Fld := ⟨0x10400838, 0, 3, 0x0, .ecc⟩
def ECC_TST_RES_ERR : Fld := ⟨0x10400838, 3, 1, 0x0, .ecc⟩
def ECC_TST_RES_NSYM : Fld := ⟨0x10400838, 4, 3, 0x0, .ecc⟩
def ECC_TST_RES_DONE : Fld := ⟨0x10400838, 7, 1, 0x0, .ecc⟩
def ECC_TST_SYM_LO : Fld := ⟨0x1040083C, 0, 32, 0x0, .ecc⟩
def ECC_TST_SYM_HI_POS : Fld := ⟨0x10400840, 0, 12, 0x0, .ecc⟩
/-! ### Registers of R471 (14_selftest_repair.md) -/

def BIST_OPT_SLOGIC : Fld := ⟨0x10F00000, 0, 1, 0x0, .bist⟩
def BIST_OPT_SMEM : Fld := ⟨0x10F00000, 1, 1, 0x0, .bist⟩
def BIST_CMD_OP : Fld := ⟨0x10F00004, 0, 2, 0x0, .bist⟩
def BIST_CMD_TOKEN : Fld := ⟨0x10F00004, 24, 8, 0x0, .bist⟩
def BIST_MASK0 : Fld := ⟨0x10F00008, 0, 32, 0x0, .bist⟩
def BIST_MASK1 : Fld := ⟨0x10F0000C, 0, 32, 0x0, .bist⟩
def BIST_STAT_BUSY : Fld := ⟨0x10F00010, 0, 1, 0x0, .bist⟩
def BIST_STAT_ARMED : Fld := ⟨0x10F00010, 1, 1, 0x0, .bist⟩
def BIST_STAT_PHASE : Fld := ⟨0x10F00010, 2, 2, 0x0, .bist⟩
def BIST_STAT_COPPICE : Fld := ⟨0x10F00010, 4, 1, 0x0, .bist⟩
def BIST_STAT_DONE : Fld := ⟨0x10F00010, 16, 1, 0x0, .bist⟩
def BIST_STAT_FAIL : Fld := ⟨0x10F00010, 17, 1, 0x0, .bist⟩
def BIST_STAT_ERR : Fld := ⟨0x10F00010, 20, 4, 0x0, .bist⟩
def BIST_PASS0 : Fld := ⟨0x10F00014, 0, 32, 0x0, .bist⟩
def BIST_PASS1 : Fld := ⟨0x10F00018, 0, 32, 0x0, .bist⟩
def BIST_FAIL0 : Fld := ⟨0x10F0001C, 0, 32, 0x0, .bist⟩
def BIST_FAIL1 : Fld := ⟨0x10F00020, 0, 32, 0x0, .bist⟩
def BIST_SIG_LO : Fld := ⟨0x10F00024, 0, 32, 0x0, .bist⟩
def BIST_SIG_HI : Fld := ⟨0x10F00028, 0, 32, 0x0, .bist⟩
def BIST_SIGTGT_BIT : Fld := ⟨0x10F0002C, 0, 6, 0x0, .bist⟩
def BIST_SIGTGT_M1 : Fld := ⟨0x10F0002C, 6, 1, 0x0, .bist⟩
def BIST_SIGTGT_VALID : Fld := ⟨0x10F0002C, 7, 1, 0x0, .bist⟩
def BIST_TIME_T : Fld := ⟨0x10F00030, 0, 24, 0x0, .bist⟩
/-! ### Registers of R472 (14_selftest_repair.md) -/

def CPC_STAT_RETEV : Fld := ⟨0x10500000, 0, 1, 0x0, .cpc⟩
def CPC_STAT_ROWEV : Fld := ⟨0x10500000, 1, 1, 0x0, .cpc⟩
def CPC_STAT_NANDEV : Fld := ⟨0x10500000, 2, 1, 0x0, .cpc⟩
def CPC_STAT_LOWEV : Fld := ⟨0x10500000, 3, 1, 0x0, .cpc⟩
def CPC_CORE_SUSPECT : Fld := ⟨0x10500004, 0, 15, 0x0, .cpc⟩
def CPC_CORE_RETIRED : Fld := ⟨0x10500004, 16, 15, 0x0, .cpc⟩
def CPC_LELANE_RETIRED : Fld := ⟨0x10500008, 0, 16, 0x0, .cpc⟩
def CPC_LELANE_SUSPECT : Fld := ⟨0x10500008, 16, 16, 0x0, .cpc⟩
def CPC_SPARE_SRAM_SRAM : Fld := ⟨0x1050000C, 0, 8, 0x0, .cpc⟩
def CPC_SPARE_SRAM_L2 : Fld := ⟨0x1050000C, 8, 7, 0x0, .cpc⟩
def CPC_SPARE_SRAM_LE : Fld := ⟨0x1050000C, 16, 7, 0x0, .cpc⟩
def CPC_SPARE_SRAM_OTHER : Fld := ⟨0x1050000C, 24, 8, 0x0, .cpc⟩
def CPC_SPARE_DRAM_CH0 : Fld := ⟨0x10500010, 0, 6, 0x0, .cpc⟩
def CPC_SPARE_DRAM_CH1 : Fld := ⟨0x10500010, 8, 6, 0x0, .cpc⟩
def CPC_SPARE_DRAM_HARD : Fld := ⟨0x10500010, 16, 7, 0x0, .cpc⟩
def CPC_NAND_SPARE : Fld := ⟨0x10500014, 0, 16, 0x0, .cpc⟩
def CPC_NAND_RETIRED : Fld := ⟨0x10500014, 16, 16, 0x0, .cpc⟩
def CPC_UNREP_ROWS : Fld := ⟨0x10500018, 0, 16, 0x0, .cpc⟩
def CPC_LOG_USED : Fld := ⟨0x1050001C, 0, 13, 0x0, .cpc⟩
def CPC_LOG_FULL : Fld := ⟨0x1050001C, 16, 1, 0x0, .cpc⟩
def CPC_LOG_WERR : Fld := ⟨0x1050001C, 17, 1, 0x0, .cpc⟩
def CPC_LOG_BAD : Fld := ⟨0x1050001C, 24, 8, 0x0, .cpc⟩
def CPC_PEND_ROWS : Fld := ⟨0x10500020, 0, 8, 0x0, .cpc⟩
/-! ### Registers of R498 (15_recorder.md) -/

def REC_STAT_STATE : Fld := ⟨0x10C00000, 0, 2, 0x0, .ingress⟩
def REC_STAT_OVERLOAD : Fld := ⟨0x10C00000, 2, 1, 0x0, .ingress⟩
def REC_STAT_FLUSHING : Fld := ⟨0x10C00000, 3, 1, 0x0, .ingress⟩
def REC_STAT_LAYERR : Fld := ⟨0x10C00000, 4, 1, 0x0, .ingress⟩
def REC_STAT_RATEHI : Fld := ⟨0x10C00000, 5, 1, 0x0, .ingress⟩
def REC_STAT_UNSEALED : Fld := ⟨0x10C00000, 6, 1, 0x0, .ingress⟩
def REC_STAT_FLUSHEV : Fld := ⟨0x10C00000, 16, 1, 0x0, .ingress⟩
def REC_STAT_DROPEV : Fld := ⟨0x10C00000, 17, 1, 0x0, .ingress⟩
def REC_STAT_GAPEV : Fld := ⟨0x10C00000, 18, 1, 0x0, .ingress⟩
def REC_STAT_LOSSEV : Fld := ⟨0x10C00000, 19, 1, 0x0, .ingress⟩
def REC_LAYOUT_HWN : Fld := ⟨0x10C00004, 0, 26, 0x0, .recd⟩
def REC_RST : Fld := ⟨0x10C00008, 0, 32, 0x0, .recd⟩
def REC_OLDEST_LO : Fld := ⟨0x10C00010, 0, 32, 0x0, .recd⟩
def REC_OLDEST_HI : Fld := ⟨0x10C00014, 0, 32, 0x0, .recd⟩
def REC_NEWEST_LO : Fld := ⟨0x10C00018, 0, 32, 0x0, .recd⟩
def REC_NEWEST_HI : Fld := ⟨0x10C0001C, 0, 32, 0x0, .recd⟩
def REC_NEXT_LO : Fld := ⟨0x10C00020, 0, 32, 0x0, .recd⟩
def REC_NEXT_HI : Fld := ⟨0x10C00024, 0, 32, 0x0, .recd⟩
def REC_HW_FIRST_LO : Fld := ⟨0x10C00028, 0, 32, 0x0, .recd⟩
def REC_HW_FIRST_HI : Fld := ⟨0x10C0002C, 0, 32, 0x0, .recd⟩
def REC_HW_CNT_CNT : Fld := ⟨0x10C00030, 0, 26, 0x0, .recd⟩
def REC_HW_CNT_CLOSED : Fld := ⟨0x10C00030, 31, 1, 0x0, .recd⟩
def REC_STG_BYTES : Fld := ⟨0x10C00034, 0, 21, 0x0, .recd⟩
def REC_QFILL_N : Fld := ⟨0x10C00038, 0, 12, 0x0, .ingress⟩
def REC_FLUSH_LAST : Fld := ⟨0x10C0003C, 0, 32, 0x0, .recd⟩
def REC_FLUSH_MAX : Fld := ⟨0x10C00040, 0, 32, 0x0, .recd⟩
def REC_RATE24_KBS : Fld := ⟨0x10C00044, 0, 24, 0x0, .recd⟩
def REC_WEAR_LAPS : Fld := ⟨0x10C00048, 0, 16, 0x0, .recd⟩
def REC_RINGCAP_BLOCKS : Fld := ⟨0x10C0004C, 0, 17, 0x0, .recd⟩
def REC_DROP_TOT : Fld := ⟨0x10C00050, 0, 32, 0x0, .ingress⟩
def REC_Hh_ADDR_OFF (h : Nat) : Fld := ⟨0x10C00100 + 0x10 * h, 3, 21, 0x0, .recd⟩
def REC_Hh_CMD_TOKEN (h : Nat) : Fld := ⟨0x10C00104 + 0x10 * h, 24, 8, 0x0, .recd⟩
def REC_Hh_STAT_BUSY (h : Nat) : Fld := ⟨0x10C00108 + 0x10 * h, 0, 1, 0x0, .recd⟩
def REC_Hh_STAT_DONE (h : Nat) : Fld := ⟨0x10C00108 + 0x10 * h, 1, 1, 0x0, .recd⟩
def REC_Hh_STAT_DROP (h : Nat) : Fld := ⟨0x10C00108 + 0x10 * h, 2, 1, 0x0, .recd⟩
def REC_Hh_STAT_FAIL (h : Nat) : Fld := ⟨0x10C00108 + 0x10 * h, 3, 1, 0x0, .recd⟩
def REC_Hh_STAT_ERR (h : Nat) : Fld := ⟨0x10C00108 + 0x10 * h, 4, 4, 0x0, .recd⟩
def REC_Hh_STAT_SEQ (h : Nat) : Fld := ⟨0x10C00108 + 0x10 * h, 8, 24, 0x0, .recd⟩
def REC_RD_SEQ_LO : Fld := ⟨0x10C00200, 0, 32, 0x0, .recd⟩
def REC_RD_SEQ_HI : Fld := ⟨0x10C00204, 0, 32, 0x0, .recd⟩
def REC_RD_DST_OFF : Fld := ⟨0x10C00208, 5, 19, 0x0, .recd⟩
def REC_RD_LEN_LEN : Fld := ⟨0x10C0020C, 5, 19, 0x0, .recd⟩
def REC_RD_CMD_OP : Fld := ⟨0x10C00210, 0, 2, 0x0, .recd⟩
def REC_RD_CMD_AREA : Fld := ⟨0x10C00210, 2, 1, 0x0, .recd⟩
def REC_RD_CMD_TOKEN : Fld := ⟨0x10C00210, 24, 8, 0x0, .recd⟩
def REC_RD_STAT_BUSY : Fld := ⟨0x10C00214, 0, 1, 0x0, .recd⟩
def REC_RD_STAT_DONE : Fld := ⟨0x10C00214, 1, 1, 0x0, .recd⟩
def REC_RD_STAT_FAIL : Fld := ⟨0x10C00214, 2, 1, 0x0, .recd⟩
def REC_RD_STAT_ERR : Fld := ⟨0x10C00214, 4, 3, 0x0, .recd⟩
def REC_RD_STAT_RECS : Fld := ⟨0x10C00214, 8, 24, 0x0, .recd⟩
def REC_RD_LAST_LO : Fld := ⟨0x10C00218, 0, 32, 0x0, .recd⟩
def REC_RD_LAST_HI : Fld := ⟨0x10C0021C, 0, 32, 0x0, .recd⟩
def REC_DROPSRCi (i : Nat) : Fld := ⟨0x10C00400 + 0x4 * i, 0, 32, 0x0, .ingress⟩
def REC_DROPCLSc (c : Nat) : Fld := ⟨0x10C00500 + 0x4 * c, 0, 32, 0x0, .ingress⟩
/-! ### Registers of R526 (16_power_clocks_resets.md) -/

def PWR_STAT_STATE : Fld := ⟨0x10100000, 0, 3, 0x0, .pwr⟩
def PWR_STAT_POLERR : Fld := ⟨0x10100000, 3, 1, 0x0, .pwr⟩
def PWR_STAT_HIBEXIT : Fld := ⟨0x10100000, 4, 1, 0x0, .pwr⟩
def PWR_STAT_ERR : Fld := ⟨0x10100000, 8, 4, 0x0, .pwr⟩
def PWR_STAT_CMDEV : Fld := ⟨0x10100000, 16, 1, 0x0, .pwr⟩
def PWR_STAT_WAKEEV : Fld := ⟨0x10100000, 17, 1, 0x0, .pwr⟩
def PWR_CMD_OP : Fld := ⟨0x10100004, 0, 3, 0x0, .pwr⟩
def PWR_CMD_TOKEN : Fld := ⟨0x10100004, 24, 8, 0x0, .pwr⟩
def PWR_POL_MAXUNIT : Fld := ⟨0x10100008, 0, 2, 0x0, .pwr⟩
def PWR_POL_MAXMOD : Fld := ⟨0x10100008, 2, 2, 0x0, .pwr⟩
def PWR_POL_NAPENG : Fld := ⟨0x10100008, 4, 1, 0x0, .pwr⟩
def PWR_POL_GUARD : Fld := ⟨0x10100008, 8, 12, 0x0, .pwr⟩
def PWR_WAKE_EN : Fld := ⟨0x1010000C, 0, 6, 0x0, .pwr⟩
def PWR_WAKE_BLZIDX : Fld := ⟨0x1010000C, 8, 10, 0x0, .pwr⟩
def PWR_WAKE_WAKEPRIO : Fld := ⟨0x1010000C, 18, 3, 0x0, .pwr⟩
def PWR_WAKECHj (j : Nat) : Fld := ⟨0x10100010 + 0x4 * j, 0, 32, 0x0, .pwr⟩
def PWR_WTIMER_LO : Fld := ⟨0x10100030, 0, 32, 0xffffffff, .pwr⟩
def PWR_WTIMER_HI : Fld := ⟨0x10100034, 0, 32, 0xffffffff, .pwr⟩
def PWR_WAKESRC_SRC : Fld := ⟨0x10100038, 0, 6, 0x0, .pwr⟩
def PWR_UNIT_UNIT (i : Nat) : Fld := ⟨0x1010003C, 2 * i, 2, 0, .unit⟩
def PWR_NEXT_LO : Fld := ⟨0x10100040, 0, 32, 0x0, .pwr⟩
def PWR_NEXT_HI : Fld := ⟨0x10100044, 0, 32, 0x0, .pwr⟩
def PWR_CNT_NAP : Fld := ⟨0x10100048, 0, 16, 0x0, .pwr⟩
def PWR_CNT_SLUMBER : Fld := ⟨0x10100048, 16, 16, 0x0, .pwr⟩
/-! ### Registers of R527 (16_power_clocks_resets.md) -/

def CLK_STAT_OK : Fld := ⟨0x10100800, 0, 14, 0x0, .pwr⟩
def CLK_MON_DEV : Fld := ⟨0x10100804, 0, 14, 0x0, .pwr⟩
def CLK_GATE_OFF : Fld := ⟨0x10100808, 0, 14, 0x0, .pwr⟩
def CLK_MEASd_KHZ (d : Nat) : Fld := ⟨0x10100840 + 0x4 * d, 0, 24, 0x0, .pwr⟩
/-! ### Registers of R528 (16_power_clocks_resets.md) -/

def SYS_ID : Fld := ⟨0x10000000, 0, 32, 0x70192, .sys⟩
def SYS_HWINFO_ISSUE : Fld := ⟨0x10000004, 0, 8, 0x0, .sys⟩
def SYS_HWINFO_CORES : Fld := ⟨0x10000004, 8, 4, 0x0, .sys⟩
def SYS_HWINFO_SPARES : Fld := ⟨0x10000004, 12, 4, 0x0, .sys⟩
def SYS_HWINFO_FRET : Fld := ⟨0x10000004, 16, 4, 0x0, .sys⟩
def SYS_SERIAL_LO : Fld := ⟨0x10000008, 0, 32, 0x0, .sys⟩
def SYS_SERIAL_HI : Fld := ⟨0x1000000C, 0, 32, 0x0, .sys⟩
def SYS_RSTCAUSE_LETTER : Fld := ⟨0x10000010, 0, 4, 0x0, .sys⟩
def SYS_RSTCAUSE_CAUSE : Fld := ⟨0x10000010, 4, 4, 0x0, .sys⟩
def SYS_RSTCAUSE_STAND : Fld := ⟨0x10000010, 8, 2, 0x0, .sys⟩
def SYS_RSTCNT_LOOKOUT : Fld := ⟨0x10000014, 0, 8, 0x0, .sys⟩
def SYS_RSTCNT_SOFTWARE : Fld := ⟨0x10000014, 8, 8, 0x0, .sys⟩
def SYS_RSTCNT_DOUBLE : Fld := ⟨0x10000014, 16, 8, 0x0, .sys⟩
def SYS_RSTCNT_CLOCK : Fld := ⟨0x10000014, 24, 8, 0x0, .sys⟩
def SYS_RST : Fld := ⟨0x10000018, 0, 32, 0x0, .sys⟩
def SYS_FRST_ENGINE : Fld := ⟨0x1000001C, 0, 2, 0x0, .sys⟩
def SYS_FRST_TOKEN : Fld := ⟨0x1000001C, 24, 8, 0x0, .sys⟩
/-! ### Registers of R549 (17_firmware_update.md) -/

def FWU_STAT_SLOT : Fld := ⟨0x10D00000, 0, 1, 0x0, .fwu⟩
def FWU_STAT_TRIAL : Fld := ⟨0x10D00000, 1, 1, 0x0, .fwu⟩
def FWU_STAT_SEED : Fld := ⟨0x10D00000, 2, 1, 0x0, .fwu⟩
def FWU_STAT_BUSY : Fld := ⟨0x10D00000, 3, 1, 0x0, .fwu⟩
def FWU_STAT_DONEEV : Fld := ⟨0x10D00000, 16, 1, 0x0, .fwu⟩
def FWU_STAT_FAILEV : Fld := ⟨0x10D00000, 17, 1, 0x0, .fwu⟩
def FWU_STAT_PAUSEEV : Fld := ⟨0x10D00000, 18, 1, 0x0, .fwu⟩
def FWU_CMD_OP : Fld := ⟨0x10D00004, 0, 4, 0x0, .fwu⟩
def FWU_CMD_TOKEN : Fld := ⟨0x10D00004, 24, 8, 0x0, .fwu⟩
def FWU_ADDR_OFF : Fld := ⟨0x10D00008, 5, 19, 0x0, .fwu⟩
def FWU_RES_ERR : Fld := ⟨0x10D0000C, 0, 4, 0x0, .fwu⟩
def FWU_RES_OP : Fld := ⟨0x10D0000C, 4, 4, 0x0, .fwu⟩
def FWU_COND_COND : Fld := ⟨0x10D00010, 0, 8, 0x0, .fwu⟩
def FWU_FUSE_SECVER : Fld := ⟨0x10D00014, 0, 7, 0x0, .fwu⟩
def FWU_PAUSE_LAST : Fld := ⟨0x10D00018, 0, 32, 0x0, .fwu⟩
def FWU_PAUSE_MAX : Fld := ⟨0x10D0001C, 0, 32, 0x0, .fwu⟩
def FWU_SERVE_EN : Fld := ⟨0x10D00020, 0, 1, 0x0, .fwu⟩
def FWU_CNT_REFUSED : Fld := ⟨0x10D00024, 0, 16, 0x0, .fwu⟩
def FWU_CNT_SERVED : Fld := ⟨0x10D00024, 16, 16, 0x0, .fwu⟩
def FWU_SLOTs_STAT_STATE (s : Nat) : Fld := ⟨0x10D00100 + 0x20 * s, 0, 4, 0x0, .fwu⟩
def FWU_SLOTs_STAT_TRIALS (s : Nat) : Fld := ⟨0x10D00100 + 0x20 * s, 4, 2, 0x0, .fwu⟩
def FWU_SLOTs_DONE_PIECES (s : Nat) : Fld := ⟨0x10D00104 + 0x20 * s, 0, 16, 0x0, .fwu⟩
def FWU_SLOTs_DONE_COUNT (s : Nat) : Fld := ⟨0x10D00104 + 0x20 * s, 16, 16, 0x0, .fwu⟩
def FWU_SLOTs_ID_LO (s : Nat) : Fld := ⟨0x10D00108 + 0x20 * s, 0, 32, 0x0, .fwu⟩
def FWU_SLOTs_ID_HI (s : Nat) : Fld := ⟨0x10D0010C + 0x20 * s, 0, 32, 0x0, .fwu⟩
def FWU_SLOTs_FWVER (s : Nat) : Fld := ⟨0x10D00110 + 0x20 * s, 0, 32, 0x0, .fwu⟩
def FWU_SLOTs_SECVER_SECVER (s : Nat) : Fld := ⟨0x10D00114 + 0x20 * s, 0, 7, 0x0, .fwu⟩

end Sys2Proof.Machine
end

