-- ==== Sys2Proof/Machine/RegTable.lean ====
section
/-!
DEFINITION. The register table: for every register row of the spec, its address pattern and its fields with their access
codes (R16), reset values and reset letters (R18). Reading and writing by address go through this table; so do the
resets that restore fields by letter.
-/

namespace Sys2Proof.Machine

/-- The access codes of R16. -/
inductive Acc where
  | rw | ro | wo | w1c | w1s | rc | kl
  deriving DecidableEq, Repr

/-- The letters of R18 beside P, which every field carries. -/
structure Letters where
  m : Bool
  f : Bool
  w : Bool
  c : Bool
  a : Bool
  deriving DecidableEq, Repr

/-- One field of a register row: lowest bit, width, access code, value after a power-on, reset letters. -/
structure RowField where
  lo : Nat
  w : Nat
  acc : Acc
  rst : Nat
  on : Letters
  deriving DecidableEq, Repr

/-- One row of a register map: the address of the element whose indices are all 0, the (stride, count) of each index,
outermost first (R568), and the fields. -/
structure RegRow where
  base : Nat
  dims : List (Nat × Nat)
  fields : List RowField
  deriving DecidableEq, Repr

/-- Restored by power-on alone. -/
def lP : Letters := ⟨false, false, false, false, false⟩
/-- "PM". -/
def lPM : Letters := ⟨true, false, false, false, false⟩
/-- "PF". -/
def lPF : Letters := ⟨false, true, false, false, false⟩
/-- "PMF". -/
def lPMF : Letters := ⟨true, true, false, false, false⟩
/-- "PMFC". -/
def lPMFC : Letters := ⟨true, true, false, true, false⟩
/-- "PMFWC". -/
def lPMFWC : Letters := ⟨true, true, true, true, false⟩

/-- Rows of the SYS_ block at 0x10000000: SYS_ID to SYS_FRST. -/
def rowsSys0 : List RegRow := [
  ⟨0x10000000, [], [⟨0, 32, .ro, 0x70192, lP⟩]⟩,
  ⟨0x10000004, [], [⟨0, 8, .ro, 0x0, lPM⟩, ⟨8, 4, .ro, 0x0, lPM⟩, ⟨12, 4, .ro, 0x0, lPM⟩, ⟨16, 4, .ro, 0x0, lPM⟩]⟩,
  ⟨0x10000008, [], [⟨0, 32, .ro, 0x0, lP⟩]⟩,
  ⟨0x1000000C, [], [⟨0, 32, .ro, 0x0, lP⟩]⟩,
  ⟨0x10000010, [], [⟨0, 4, .ro, 0x0, lP⟩, ⟨4, 4, .ro, 0x0, lP⟩, ⟨8, 2, .ro, 0x0, lP⟩]⟩,
  ⟨0x10000014, [], [⟨0, 8, .ro, 0x0, lP⟩, ⟨8, 8, .ro, 0x0, lP⟩, ⟨16, 8, .ro, 0x0, lP⟩, ⟨24, 8, .ro, 0x0, lP⟩]⟩,
  ⟨0x10000018, [], [⟨0, 32, .wo, 0x0, lPM⟩]⟩,
  ⟨0x1000001C, [], [⟨0, 2, .wo, 0x0, lPM⟩, ⟨24, 8, .wo, 0x0, lPM⟩]⟩]

/-- The rows of the SYS_ block. -/
def rowsSys : List RegRow := rowsSys0

/-- Rows of the PWR_ block at 0x10100000: PWR_FEEDn_MEAS to CLK_GATE. -/
def rowsPwr0 : List RegRow := [
  ⟨0x10100100, [(0x20, 2)], [⟨0, 16, .ro, 0x0, lP⟩, ⟨16, 16, .ro, 0x0, lP⟩]⟩,
  ⟨0x10100104, [(0x20, 2)], [⟨0, 1, .ro, 0x0, lP⟩, ⟨1, 1, .ro, 0x0, lP⟩, ⟨2, 1, .ro, 0x0, lP⟩, ⟨3, 1, .ro, 0x0, lP⟩, ⟨8, 8, .ro, 0x0, lP⟩, ⟨16, 1, .w1c, 0x0, lP⟩, ⟨17, 1, .w1c, 0x0, lP⟩]⟩,
  ⟨0x10100108, [(0x20, 2)], [⟨0, 16, .rc, 0x0, lP⟩]⟩,
  ⟨0x10100110, [(0x20, 2)], [⟨0, 32, .ro, 0x0, lP⟩]⟩,
  ⟨0x10100114, [(0x20, 2)], [⟨0, 32, .ro, 0x0, lP⟩]⟩,
  ⟨0x10100118, [(0x20, 2)], [⟨0, 32, .ro, 0x0, lP⟩]⟩,
  ⟨0x1010011C, [(0x20, 2)], [⟨0, 32, .ro, 0x0, lP⟩]⟩,
  ⟨0x10100140, [], [⟨0, 32, .ro, 0x0, lP⟩]⟩,
  ⟨0x10100144, [], [⟨0, 16, .ro, 0x0, lP⟩, ⟨16, 1, .ro, 0x0, lP⟩, ⟨17, 2, .ro, 0x0, lP⟩, ⟨19, 1, .ro, 0x0, lP⟩]⟩,
  ⟨0x10100148, [], [⟨0, 16, .ro, 0x0, lP⟩]⟩,
  ⟨0x10100000, [], [⟨0, 3, .ro, 0x0, lP⟩, ⟨3, 1, .ro, 0x0, lP⟩, ⟨4, 1, .ro, 0x0, lP⟩, ⟨8, 4, .ro, 0x0, lP⟩, ⟨16, 1, .w1c, 0x0, lP⟩, ⟨17, 1, .w1c, 0x0, lP⟩]⟩,
  ⟨0x10100004, [], [⟨0, 3, .wo, 0x0, lP⟩, ⟨24, 8, .wo, 0x0, lP⟩]⟩,
  ⟨0x10100008, [], [⟨0, 2, .kl, 0x0, lP⟩, ⟨2, 2, .kl, 0x0, lP⟩, ⟨4, 1, .kl, 0x0, lP⟩, ⟨8, 12, .kl, 0x0, lP⟩]⟩,
  ⟨0x1010000C, [], [⟨0, 6, .kl, 0x0, lP⟩, ⟨8, 10, .kl, 0x0, lP⟩, ⟨18, 3, .kl, 0x0, lP⟩]⟩,
  ⟨0x10100010, [(0x4, 6)], [⟨0, 32, .kl, 0x0, lP⟩]⟩,
  ⟨0x10100030, [], [⟨0, 32, .rw, 0xffffffff, lP⟩]⟩,
  ⟨0x10100034, [], [⟨0, 32, .rw, 0xffffffff, lP⟩]⟩,
  ⟨0x10100038, [], [⟨0, 6, .w1c, 0x0, lP⟩]⟩,
  ⟨0x1010003C, [], [⟨0, 2, .ro, 0x0, lP⟩, ⟨2, 2, .ro, 0x0, lP⟩, ⟨4, 2, .ro, 0x0, lP⟩, ⟨6, 2, .ro, 0x0, lP⟩, ⟨8, 2, .ro, 0x0, lP⟩, ⟨10, 2, .ro, 0x0, lP⟩, ⟨12, 2, .ro, 0x0, lP⟩, ⟨14, 2, .ro, 0x0, lP⟩]⟩,
  ⟨0x10100040, [], [⟨0, 32, .ro, 0x0, lP⟩]⟩,
  ⟨0x10100044, [], [⟨0, 32, .ro, 0x0, lP⟩]⟩,
  ⟨0x10100048, [], [⟨0, 16, .rc, 0x0, lP⟩, ⟨16, 16, .rc, 0x0, lP⟩]⟩,
  ⟨0x10100800, [], [⟨0, 14, .ro, 0x0, lPM⟩]⟩,
  ⟨0x10100804, [], [⟨0, 14, .w1c, 0x0, lP⟩]⟩,
  ⟨0x10100808, [], [⟨0, 14, .ro, 0x0, lPM⟩]⟩]

/-- Rows of the PWR_ block at 0x10100000: CLK_MEASd to CLK_MEASd. -/
def rowsPwr1 : List RegRow := [
  ⟨0x10100840, [(0x4, 14)], [⟨0, 24, .ro, 0x0, lPM⟩]⟩]

/-- The rows of the PWR_ block. -/
def rowsPwr : List RegRow := rowsPwr0 ++ rowsPwr1

/-- Rows of the STD_ block at 0x10200000: STD_CAP to STD_Sk_RST. -/
def rowsStd0 : List RegRow := [
  ⟨0x10200000, [], [⟨0, 4, .ro, 0x0, lPM⟩, ⟨4, 4, .ro, 0x0, lPM⟩, ⟨8, 4, .ro, 0x0, lPM⟩]⟩,
  ⟨0x10200004, [], [⟨0, 2, .kl, 0x0, lP⟩, ⟨2, 2, .kl, 0x0, lP⟩, ⟨4, 2, .kl, 0x0, lP⟩, ⟨8, 1, .kl, 0x0, lP⟩, ⟨9, 1, .kl, 0x0, lP⟩, ⟨16, 4, .kl, 0x0, lP⟩]⟩,
  ⟨0x10200008, [], [⟨0, 16, .kl, 0x0, lP⟩]⟩,
  ⟨0x10200010, [], [⟨0, 4, .ro, 0x0, lPM⟩, ⟨4, 4, .ro, 0x0, lPM⟩, ⟨8, 4, .ro, 0x0, lPM⟩, ⟨12, 4, .ro, 0x0, lPM⟩, ⟨16, 4, .ro, 0x0, lPM⟩, ⟨20, 4, .ro, 0x0, lPM⟩, ⟨24, 4, .ro, 0x0, lPM⟩, ⟨28, 4, .ro, 0x0, lPM⟩]⟩,
  ⟨0x10200014, [], [⟨0, 4, .ro, 0x0, lPM⟩, ⟨4, 4, .ro, 0x0, lPM⟩, ⟨8, 4, .ro, 0x0, lPM⟩, ⟨12, 4, .ro, 0x0, lPM⟩, ⟨16, 4, .ro, 0x0, lPM⟩, ⟨20, 4, .ro, 0x0, lPM⟩, ⟨24, 4, .ro, 0x0, lPM⟩]⟩,
  ⟨0x10200020, [], [⟨0, 7, .kl, 0x0, lP⟩, ⟨8, 2, .kl, 0x0, lP⟩]⟩,
  ⟨0x10200024, [], [⟨0, 32, .wo, 0x0, lPM⟩]⟩,
  ⟨0x10200028, [], [⟨0, 1, .ro, 0x0, lPM⟩, ⟨1, 1, .ro, 0x0, lPM⟩, ⟨2, 1, .ro, 0x0, lPM⟩, ⟨8, 3, .ro, 0x0, lP⟩]⟩,
  ⟨0x10200030, [], [⟨0, 1, .ro, 0x0, lPM⟩, ⟨1, 2, .ro, 0x0, lPM⟩, ⟨8, 9, .ro, 0x0, lPM⟩]⟩,
  ⟨0x10200034, [], [⟨0, 16, .wo, 0x0, lPM⟩]⟩,
  ⟨0x10200100, [(0x100, 4)], [⟨0, 2, .wo, 0x0, lPMF⟩, ⟨4, 1, .wo, 0x0, lPMF⟩, ⟨8, 2, .wo, 0x3, lPMF⟩, ⟨24, 8, .wo, 0x0, lPMF⟩]⟩,
  ⟨0x10200104, [(0x100, 4)], [⟨0, 2, .ro, 0x0, lPMF⟩, ⟨2, 3, .ro, 0x0, lPMF⟩, ⟨5, 1, .ro, 0x0, lPMF⟩, ⟨6, 1, .ro, 0x0, lPMF⟩, ⟨7, 1, .ro, 0x0, lPMF⟩, ⟨8, 1, .ro, 0x0, lPMF⟩, ⟨9, 1, .ro, 0x0, lPMF⟩, ⟨16, 1, .w1c, 0x0, lPMF⟩, ⟨17, 1, .w1c, 0x0, lPMF⟩, ⟨18, 3, .ro, 0x0, lPMF⟩]⟩,
  ⟨0x10200108, [(0x100, 4)], [⟨0, 4, .ro, 0xf, lPM⟩, ⟨4, 4, .ro, 0xf, lPM⟩, ⟨8, 4, .ro, 0xf, lPM⟩, ⟨12, 4, .ro, 0xf, lPM⟩, ⟨16, 3, .ro, 0x0, lPM⟩]⟩,
  ⟨0x1020010C, [(0x100, 4)], [⟨0, 4, .ro, 0x0, lPM⟩, ⟨4, 2, .ro, 0x0, lPM⟩, ⟨6, 1, .ro, 0x0, lPM⟩]⟩,
  ⟨0x10200110, [(0x100, 4)], [⟨0, 16, .ro, 0x0, lPMF⟩]⟩,
  ⟨0x10200114, [(0x100, 4)], [⟨0, 16, .ro, 0x0, lPM⟩]⟩,
  ⟨0x10200118, [(0x100, 4)], [⟨12, 12, .kl, 0x0, lP⟩]⟩,
  ⟨0x1020011C, [(0x100, 4)], [⟨0, 32, .rw, 0x0, lPM⟩]⟩,
  ⟨0x10200120, [(0x100, 4)], [⟨0, 32, .rw, 0x0, lPM⟩]⟩,
  ⟨0x10200124, [(0x100, 4)], [⟨0, 32, .rw, 0x0, lPM⟩]⟩,
  ⟨0x10200128, [(0x100, 4)], [⟨0, 32, .rw, 0x0, lPM⟩]⟩,
  ⟨0x1020012C, [(0x100, 4)], [⟨12, 20, .kl, 0x0, lP⟩]⟩,
  ⟨0x10200130, [(0x100, 4)], [⟨12, 20, .kl, 0x0, lP⟩]⟩,
  ⟨0x10200134, [(0x100, 4)], [⟨0, 16, .kl, 0x0, lP⟩]⟩,
  ⟨0x10200138, [(0x100, 4)], [⟨0, 32, .wo, 0x0, lPMF⟩]⟩]

/-- Rows of the STD_ block at 0x10200000: STD_Sk_THRESH_M to STD_Sk_PENDj. -/
def rowsStd1 : List RegRow := [
  ⟨0x1020013C, [(0x100, 4)], [⟨0, 3, .rw, 0x0, lPMF⟩]⟩,
  ⟨0x10200140, [(0x100, 4)], [⟨0, 3, .rw, 0x0, lPMF⟩]⟩,
  ⟨0x10200144, [(0x100, 4)], [⟨0, 8, .rc, 0x0, lPMF⟩, ⟨31, 1, .rc, 0x0, lPMF⟩]⟩,
  ⟨0x10200148, [(0x100, 4)], [⟨0, 8, .rc, 0x0, lPMF⟩, ⟨31, 1, .rc, 0x0, lPMF⟩]⟩,
  ⟨0x1020014C, [(0x100, 4)], [⟨0, 16, .rc, 0x0, lPMF⟩]⟩,
  ⟨0x10200150, [(0x100, 4)], [⟨0, 16, .ro, 0x0, lPMF⟩]⟩,
  ⟨0x10200160, [(0x100, 4), (0x8, 3)], [⟨0, 32, .rw, 0xffffffff, lPMF⟩]⟩,
  ⟨0x10200164, [(0x100, 4), (0x8, 3)], [⟨0, 32, .rw, 0xffffffff, lPMF⟩]⟩,
  ⟨0x10201000, [(0x4, 256)], [⟨0, 4, .rw, 0x0, lPM⟩, ⟨4, 3, .rw, 0x0, lPM⟩, ⟨8, 1, .rw, 0x0, lPM⟩]⟩,
  ⟨0x10201400, [(0x20, 4), (0x4, 8)], [⟨0, 32, .ro, 0x0, lPMF⟩]⟩]

/-- The rows of the STD_ block. -/
def rowsStd : List RegRow := rowsStd0 ++ rowsStd1

/-- Rows of the LE_ block at 0x10300000: LE_CAP to LE_Ee_ORPHANj. -/
def rowsLe0 : List RegRow := [
  ⟨0x10300000, [], [⟨0, 4, .ro, 0x0, lPM⟩, ⟨4, 4, .ro, 0x0, lPM⟩, ⟨8, 4, .ro, 0x0, lPM⟩, ⟨12, 4, .ro, 0x0, lPM⟩]⟩,
  ⟨0x10301000, [(0x1000, 4)], [⟨0, 4, .wo, 0x0, lPMF⟩, ⟨24, 8, .wo, 0x0, lPMF⟩]⟩,
  ⟨0x10301004, [(0x1000, 4)], [⟨0, 3, .ro, 0x0, lPM⟩, ⟨3, 1, .ro, 0x0, lPM⟩, ⟨4, 3, .ro, 0x0, lPMF⟩, ⟨7, 1, .ro, 0x0, lPMFC⟩, ⟨8, 1, .ro, 0x0, lPMFC⟩, ⟨9, 1, .ro, 0x0, lPMFWC⟩, ⟨16, 1, .w1c, 0x0, lPMF⟩, ⟨17, 1, .w1c, 0x0, lPMF⟩, ⟨18, 1, .w1c, 0x0, lPMF⟩, ⟨19, 1, .w1c, 0x0, lPMF⟩, ⟨20, 1, .w1c, 0x0, lPMF⟩, ⟨21, 1, .w1c, 0x0, lPMF⟩]⟩,
  ⟨0x10301008, [(0x1000, 4)], [⟨0, 32, .kl, 0x0, lP⟩]⟩,
  ⟨0x1030100C, [(0x1000, 4)], [⟨0, 32, .ro, 0x0, lPM⟩]⟩,
  ⟨0x10301010, [(0x1000, 4)], [⟨0, 32, .ro, 0x0, lPMFWC⟩]⟩,
  ⟨0x10301014, [(0x1000, 4)], [⟨0, 32, .ro, 0xffffffff, lPMFWC⟩]⟩,
  ⟨0x10301018, [(0x1000, 4)], [⟨0, 32, .ro, 0x0, lPMFWC⟩]⟩,
  ⟨0x1030101C, [(0x1000, 4)], [⟨0, 32, .ro, 0x0, lPMFWC⟩]⟩,
  ⟨0x10301020, [(0x1000, 4)], [⟨0, 32, .ro, 0x0, lPM⟩]⟩,
  ⟨0x10301024, [(0x1000, 4)], [⟨3, 21, .rw, 0x0, lPM⟩]⟩,
  ⟨0x10301028, [(0x1000, 4)], [⟨0, 25, .rw, 0x0, lPM⟩]⟩,
  ⟨0x1030102C, [(0x1000, 4)], [⟨0, 8, .ro, 0x0, lPMF⟩, ⟨8, 18, .ro, 0x0, lPMF⟩]⟩,
  ⟨0x10301030, [(0x1000, 4)], [⟨0, 32, .ro, 0x0, lPMF⟩]⟩,
  ⟨0x10301034, [(0x1000, 4)], [⟨0, 32, .ro, 0x0, lPMF⟩]⟩,
  ⟨0x10301038, [(0x1000, 4)], [⟨0, 8, .ro, 0x0, lPM⟩, ⟨8, 1, .ro, 0x0, lPM⟩, ⟨9, 4, .ro, 0x0, lPM⟩]⟩,
  ⟨0x1030103C, [(0x1000, 4)], [⟨0, 18, .ro, 0x0, lPM⟩]⟩,
  ⟨0x10301040, [(0x1000, 4)], [⟨0, 2, .ro, 0x0, lPM⟩, ⟨2, 2, .ro, 0x0, lPM⟩, ⟨4, 2, .ro, 0x0, lPM⟩, ⟨6, 1, .ro, 0x0, lPM⟩, ⟨8, 4, .ro, 0x0, lPM⟩, ⟨12, 4, .ro, 0x0, lPM⟩]⟩,
  ⟨0x10301044, [(0x1000, 4)], [⟨0, 32, .ro, 0x0, lPM⟩]⟩,
  ⟨0x10301048, [(0x1000, 4)], [⟨0, 32, .ro, 0x0, lPM⟩]⟩,
  ⟨0x1030104C, [(0x1000, 4)], [⟨0, 2, .ro, 0x0, lPM⟩, ⟨2, 2, .ro, 0x0, lPM⟩, ⟨4, 2, .ro, 0x0, lPM⟩, ⟨8, 4, .ro, 0x0, lPM⟩]⟩,
  ⟨0x10301050, [(0x1000, 4)], [⟨0, 13, .kl, 0x0, lP⟩, ⟨16, 8, .kl, 0x0, lP⟩]⟩,
  ⟨0x10301054, [(0x1000, 4)], [⟨0, 32, .ro, 0x0, lPM⟩]⟩,
  ⟨0x10301058, [(0x1000, 4)], [⟨0, 9, .ro, 0x0, lPM⟩, ⟨16, 9, .ro, 0x0, lPM⟩]⟩,
  ⟨0x10301060, [(0x1000, 4), (0x4, 8)], [⟨0, 32, .ro, 0x0, lPM⟩]⟩]

/-- Rows of the LE_ block at 0x10300000: LE_Ee_DBG_CTL to LE_Ee_FRCi_VAL. -/
def rowsLe1 : List RegRow := [
  ⟨0x10301080, [(0x1000, 4)], [⟨0, 4, .wo, 0x0, lPM⟩]⟩,
  ⟨0x10301084, [(0x1000, 4)], [⟨0, 1, .ro, 0x0, lPM⟩, ⟨1, 1, .ro, 0x0, lPM⟩, ⟨2, 2, .ro, 0x0, lPM⟩, ⟨4, 6, .ro, 0x0, lPM⟩]⟩,
  ⟨0x10301090, [(0x1000, 4), (0x4, 4)], [⟨0, 18, .rw, 0x0, lPM⟩, ⟨29, 1, .rw, 0x0, lPM⟩, ⟨31, 1, .rw, 0x0, lPM⟩]⟩,
  ⟨0x10301800, [(0x1000, 4), (0x8, 256)], [⟨0, 14, .rw, 0x0, lPM⟩, ⟨16, 3, .rw, 0x0, lPM⟩, ⟨20, 1, .rw, 0x0, lPM⟩, ⟨31, 1, .rw, 0x0, lPM⟩]⟩,
  ⟨0x10301804, [(0x1000, 4), (0x8, 256)], [⟨0, 32, .rw, 0x0, lPM⟩]⟩]

/-- The rows of the LE_ block. -/
def rowsLe : List RegRow := rowsLe0 ++ rowsLe1

/-- Rows of the ECC_ block at 0x10400000: ECC_STAT to ECC_CTi_INFO. -/
def rowsEcc0 : List RegRow := [
  ⟨0x10400000, [], [⟨0, 1, .w1c, 0x0, lPM⟩, ⟨1, 1, .w1c, 0x0, lPM⟩, ⟨2, 1, .w1c, 0x0, lPM⟩, ⟨3, 1, .w1c, 0x0, lPM⟩, ⟨4, 1, .w1c, 0x0, lPM⟩]⟩,
  ⟨0x10400004, [], [⟨0, 32, .rc, 0x0, lP⟩]⟩,
  ⟨0x10400008, [], [⟨0, 16, .rc, 0x0, lP⟩, ⟨16, 16, .rc, 0x0, lP⟩]⟩,
  ⟨0x1040000C, [], [⟨0, 16, .rc, 0x0, lP⟩]⟩,
  ⟨0x10400010, [], [⟨0, 28, .ro, 0x0, lP⟩, ⟨28, 4, .ro, 0x0, lP⟩]⟩,
  ⟨0x10400014, [], [⟨0, 3, .ro, 0x0, lP⟩, ⟨8, 8, .ro, 0x0, lP⟩, ⟨16, 4, .ro, 0x0, lP⟩]⟩,
  ⟨0x10400018, [], [⟨0, 32, .ro, 0x0, lP⟩]⟩,
  ⟨0x1040001C, [], [⟨0, 32, .ro, 0x0, lP⟩]⟩,
  ⟨0x10400020, [], [⟨5, 27, .rw, 0x0, lPM⟩]⟩,
  ⟨0x10400024, [], [⟨0, 4, .rw, 0x0, lPM⟩]⟩,
  ⟨0x10400028, [], [⟨0, 29, .rw, 0x0, lPM⟩]⟩,
  ⟨0x1040002C, [], [⟨0, 32, .rw, 0x0, lPM⟩]⟩,
  ⟨0x10400030, [], [⟨0, 32, .rw, 0x0, lPM⟩]⟩,
  ⟨0x10400034, [], [⟨0, 1, .wo, 0x0, lPM⟩, ⟨1, 1, .wo, 0x0, lPM⟩, ⟨24, 8, .wo, 0x0, lPM⟩]⟩,
  ⟨0x10400038, [], [⟨0, 1, .ro, 0x0, lPM⟩, ⟨1, 1, .w1c, 0x0, lPM⟩, ⟨2, 1, .w1c, 0x0, lPM⟩, ⟨4, 4, .ro, 0x0, lPM⟩]⟩,
  ⟨0x1040003C, [], [⟨0, 32, .ro, 0x0, lPM⟩]⟩,
  ⟨0x10400100, [(0x20, 2)], [⟨0, 28, .rw, 0x0, lPM⟩]⟩,
  ⟨0x10400104, [(0x20, 2)], [⟨0, 29, .rw, 0x0, lPM⟩]⟩,
  ⟨0x10400108, [(0x20, 6)], [⟨0, 24, .ro, 0x0, lPM⟩]⟩,
  ⟨0x1040010C, [(0x20, 6)], [⟨0, 24, .ro, 0x0, lP⟩]⟩,
  ⟨0x10400110, [(0x20, 1)], [⟨0, 24, .rw, 0x927c0, lPM⟩]⟩,
  ⟨0x10400130, [(0x20, 5)], [⟨0, 24, .rw, 0x2710, lPM⟩]⟩,
  ⟨0x10400114, [(0x20, 6)], [⟨0, 16, .ro, 0x0, lPM⟩, ⟨16, 1, .w1c, 0x0, lPM⟩, ⟨17, 1, .ro, 0x0, lPM⟩]⟩,
  ⟨0x10400400, [(0x10, 32)], [⟨0, 28, .ro, 0x0, lP⟩, ⟨28, 4, .ro, 0x0, lP⟩]⟩,
  ⟨0x10400404, [(0x10, 32)], [⟨0, 3, .ro, 0x0, lP⟩, ⟨4, 4, .ro, 0x0, lP⟩, ⟨8, 8, .ro, 0x0, lP⟩, ⟨16, 6, .ro, 0x0, lP⟩, ⟨23, 3, .ro, 0x0, lP⟩]⟩]

/-- Rows of the ECC_ block at 0x10400000: ECC_CTi_TIME_LO to ECC_TST_SYM_HI. -/
def rowsEcc1 : List RegRow := [
  ⟨0x10400408, [(0x10, 32)], [⟨0, 32, .ro, 0x0, lP⟩]⟩,
  ⟨0x1040040C, [(0x10, 32)], [⟨0, 32, .ro, 0x0, lP⟩]⟩,
  ⟨0x10400800, [], [⟨0, 3, .wo, 0x0, lPM⟩, ⟨24, 8, .wo, 0x0, lPM⟩]⟩,
  ⟨0x10400804, [], [⟨5, 27, .rw, 0x0, lPM⟩]⟩,
  ⟨0x10400808, [], [⟨0, 4, .rw, 0x0, lPM⟩, ⟨31, 1, .rw, 0x0, lPM⟩]⟩,
  ⟨0x10400810, [(0x4, 8)], [⟨0, 32, .rw, 0x0, lPM⟩]⟩,
  ⟨0x10400830, [], [⟨0, 32, .rw, 0x0, lPM⟩]⟩,
  ⟨0x10400834, [], [⟨0, 32, .rw, 0x0, lPM⟩]⟩,
  ⟨0x10400838, [], [⟨0, 3, .ro, 0x0, lPM⟩, ⟨3, 1, .ro, 0x0, lPM⟩, ⟨4, 3, .ro, 0x0, lPM⟩, ⟨7, 1, .ro, 0x0, lPM⟩]⟩,
  ⟨0x1040083C, [], [⟨0, 32, .ro, 0x0, lPM⟩]⟩,
  ⟨0x10400840, [], [⟨0, 12, .ro, 0x0, lPM⟩]⟩]

/-- The rows of the ECC_ block. -/
def rowsEcc : List RegRow := rowsEcc0 ++ rowsEcc1

/-- Rows of the CPC_ block at 0x10500000: CPC_STAT to CPC_PEND. -/
def rowsCpc0 : List RegRow := [
  ⟨0x10500000, [], [⟨0, 1, .w1c, 0x0, lPM⟩, ⟨1, 1, .w1c, 0x0, lPM⟩, ⟨2, 1, .w1c, 0x0, lPM⟩, ⟨3, 1, .w1c, 0x0, lPM⟩]⟩,
  ⟨0x10500004, [], [⟨0, 15, .ro, 0x0, lP⟩, ⟨16, 15, .ro, 0x0, lP⟩]⟩,
  ⟨0x10500008, [], [⟨0, 16, .ro, 0x0, lP⟩, ⟨16, 16, .ro, 0x0, lP⟩]⟩,
  ⟨0x1050000C, [], [⟨0, 8, .ro, 0x0, lPM⟩, ⟨8, 7, .ro, 0x0, lPM⟩, ⟨16, 7, .ro, 0x0, lPM⟩, ⟨24, 8, .ro, 0x0, lPM⟩]⟩,
  ⟨0x10500010, [], [⟨0, 6, .ro, 0x0, lPM⟩, ⟨8, 6, .ro, 0x0, lPM⟩, ⟨16, 7, .ro, 0x0, lPM⟩]⟩,
  ⟨0x10500014, [], [⟨0, 16, .ro, 0x0, lPM⟩, ⟨16, 16, .ro, 0x0, lPM⟩]⟩,
  ⟨0x10500018, [], [⟨0, 16, .ro, 0x0, lP⟩]⟩,
  ⟨0x1050001C, [], [⟨0, 13, .ro, 0x0, lPM⟩, ⟨16, 1, .ro, 0x0, lPM⟩, ⟨17, 1, .ro, 0x0, lPM⟩, ⟨24, 8, .ro, 0x0, lPM⟩]⟩,
  ⟨0x10500020, [], [⟨0, 8, .ro, 0x0, lPM⟩]⟩]

/-- The rows of the CPC_ block. -/
def rowsCpc : List RegRow := rowsCpc0

/-- Rows of the IOG_ block at 0x10600000: IOG_CAP to IOG_CHn_SUBST. -/
def rowsIog0 : List RegRow := [
  ⟨0x10600000, [], [⟨0, 12, .ro, 0x0, lPM⟩, ⟨16, 12, .ro, 0x0, lPM⟩]⟩,
  ⟨0x10600004, [], [⟨0, 4, .ro, 0x0, lPM⟩, ⟨4, 8, .ro, 0x0, lPM⟩, ⟨12, 1, .ro, 0x0, lPM⟩]⟩,
  ⟨0x10600100, [(0x40, 12)], [⟨0, 2, .kl, 0x0, lP⟩, ⟨2, 1, .kl, 0x0, lP⟩, ⟨3, 1, .kl, 0x0, lP⟩, ⟨4, 1, .kl, 0x0, lP⟩, ⟨8, 7, .kl, 0x0, lP⟩, ⟨16, 4, .kl, 0x0, lP⟩]⟩,
  ⟨0x10600104, [(0x40, 12)], [⟨0, 3, .ro, 0x5, lPM⟩, ⟨3, 1, .ro, 0x0, lPM⟩, ⟨4, 1, .ro, 0x0, lPMF⟩, ⟨16, 1, .w1c, 0x0, lPM⟩, ⟨17, 1, .w1c, 0x0, lPM⟩, ⟨18, 1, .w1c, 0x0, lPM⟩, ⟨19, 1, .w1c, 0x0, lPM⟩]⟩,
  ⟨0x10600108, [(0x40, 12)], [⟨0, 16, .ro, 0x0, lPM⟩]⟩,
  ⟨0x1060010C, [(0x40, 12)], [⟨0, 32, .ro, 0x0, lPMF⟩]⟩,
  ⟨0x10600110, [(0x40, 12)], [⟨0, 16, .ro, 0x0, lPM⟩]⟩,
  ⟨0x10600114, [(0x40, 12)], [⟨0, 8, .ro, 0x0, lPM⟩, ⟨8, 8, .ro, 0x0, lP⟩]⟩,
  ⟨0x10600118, [(0x40, 12)], [⟨0, 16, .ro, 0x0, lPM⟩]⟩,
  ⟨0x1060011C, [(0x40, 12)], [⟨0, 16, .ro, 0x0, lPM⟩]⟩,
  ⟨0x10600120, [(0x40, 12)], [⟨0, 4, .ro, 0x0, lPMF⟩, ⟨4, 1, .ro, 0x0, lPMF⟩, ⟨5, 1, .ro, 0x0, lPMF⟩, ⟨6, 1, .ro, 0x0, lPMF⟩]⟩,
  ⟨0x10600124, [(0x40, 12)], [⟨0, 8, .rc, 0x0, lPM⟩, ⟨8, 8, .rc, 0x0, lPM⟩]⟩,
  ⟨0x10600128, [(0x40, 12)], [⟨0, 16, .wo, 0x0, lPM⟩, ⟨16, 1, .wo, 0x0, lPM⟩, ⟨24, 8, .wo, 0x0, lPM⟩]⟩,
  ⟨0x1060012C, [(0x40, 12)], [⟨0, 32, .wo, 0x0, lPM⟩]⟩,
  ⟨0x10601000, [(0x20, 192)], [⟨0, 3, .kl, 0x0, lP⟩, ⟨3, 1, .kl, 0x0, lP⟩, ⟨4, 2, .kl, 0x0, lP⟩, ⟨6, 1, .kl, 0x0, lP⟩, ⟨7, 1, .kl, 0x0, lP⟩, ⟨8, 3, .kl, 0x0, lP⟩, ⟨11, 1, .kl, 0x0, lP⟩]⟩,
  ⟨0x10601004, [(0x20, 192)], [⟨0, 16, .kl, 0x0, lP⟩, ⟨16, 10, .kl, 0x0, lP⟩]⟩,
  ⟨0x10601008, [(0x20, 192)], [⟨0, 1, .ro, 0x0, lPMF⟩, ⟨1, 1, .ro, 0x0, lPMF⟩, ⟨2, 1, .ro, 0x0, lPMF⟩, ⟨3, 1, .ro, 0x0, lPMF⟩, ⟨4, 1, .ro, 0x0, lPMF⟩, ⟨5, 1, .ro, 0x0, lPMF⟩, ⟨6, 1, .ro, 0x0, lPMF⟩, ⟨7, 1, .ro, 0x0, lPMF⟩, ⟨8, 1, .ro, 0x0, lPMF⟩, ⟨9, 1, .ro, 0x0, lPMF⟩, ⟨16, 10, .ro, 0x0, lPMF⟩]⟩,
  ⟨0x1060100C, [(0x20, 192)], [⟨0, 32, .ro, 0x0, lPMF⟩]⟩,
  ⟨0x10601010, [(0x20, 192)], [⟨0, 7, .kl, 0x0, lP⟩, ⟨8, 13, .kl, 0x0, lP⟩]⟩,
  ⟨0x10601014, [(0x20, 192)], [⟨0, 1, .w1c, 0x0, lPM⟩, ⟨1, 1, .w1c, 0x0, lPM⟩, ⟨2, 1, .ro, 0x0, lPM⟩, ⟨3, 1, .ro, 0x0, lPM⟩, ⟨4, 1, .ro, 0x0, lPM⟩, ⟨5, 1, .ro, 0x0, lPM⟩, ⟨6, 1, .ro, 0x0, lPM⟩, ⟨7, 1, .w1c, 0x0, lPM⟩, ⟨8, 1, .ro, 0x0, lPM⟩, ⟨16, 8, .ro, 0xff, lPM⟩, ⟨24, 4, .ro, 0x0, lPM⟩]⟩,
  ⟨0x10601018, [(0x20, 192)], [⟨0, 2, .kl, 0x0, lP⟩, ⟨2, 1, .kl, 0x0, lP⟩]⟩]

/-- The rows of the IOG_ block. -/
def rowsIog : List RegRow := rowsIog0

/-- Rows of the RNG_ block at 0x10700000: RNG_STAT to RNG_PFAILj. -/
def rowsRng0 : List RegRow := [
  ⟨0x10700000, [], [⟨0, 4, .ro, 0x0, lP⟩, ⟨4, 2, .ro, 0x0, lP⟩, ⟨6, 1, .ro, 0x0, lP⟩, ⟨7, 1, .ro, 0x0, lP⟩, ⟨8, 8, .ro, 0x0, lP⟩, ⟨16, 4, .ro, 0x0, lP⟩]⟩,
  ⟨0x10700004, [], [⟨0, 8, .ro, 0x0, lP⟩, ⟨8, 5, .ro, 0x0, lP⟩, ⟨13, 1, .ro, 0x0, lP⟩]⟩,
  ⟨0x10700008, [], [⟨0, 32, .ro, 0x0, lP⟩]⟩,
  ⟨0x1070000C, [], [⟨0, 32, .ro, 0x0, lP⟩]⟩,
  ⟨0x10700010, [], [⟨0, 32, .ro, 0x0, lP⟩]⟩,
  ⟨0x10700014, [], [⟨0, 32, .ro, 0x0, lP⟩]⟩,
  ⟨0x10700018, [], [⟨0, 32, .ro, 0x0, lP⟩]⟩,
  ⟨0x1070001C, [], [⟨0, 32, .ro, 0x0, lP⟩]⟩,
  ⟨0x10700020, [], [⟨0, 8, .ro, 0x0, lP⟩, ⟨8, 8, .ro, 0x0, lP⟩]⟩,
  ⟨0x10700040, [(0x4, 8)], [⟨0, 16, .ro, 0x0, lP⟩, ⟨16, 1, .ro, 0x0, lP⟩, ⟨17, 1, .ro, 0x0, lP⟩, ⟨18, 3, .ro, 0x0, lP⟩]⟩,
  ⟨0x10700060, [(0x4, 8)], [⟨0, 16, .ro, 0x0, lP⟩, ⟨16, 16, .ro, 0x0, lP⟩]⟩,
  ⟨0x10700080, [(0x4, 32)], [⟨0, 3, .ro, 0x0, lP⟩, ⟨3, 1, .ro, 0x0, lP⟩, ⟨4, 4, .ro, 0x0, lP⟩]⟩,
  ⟨0x10700100, [(0x4, 32)], [⟨0, 32, .ro, 0x0, lP⟩]⟩,
  ⟨0x10700180, [(0x4, 6)], [⟨0, 32, .ro, 0x0, lP⟩]⟩,
  ⟨0x107001A0, [(0x4, 6)], [⟨0, 32, .ro, 0x0, lP⟩]⟩]

/-- The rows of the RNG_ block. -/
def rowsRng : List RegRow := rowsRng0

/-- Rows of the CNP_ block at 0x10800000: CNP_PLAN0 to CNP_BLZb_CNT. -/
def rowsCnp0 : List RegRow := [
  ⟨0x10800000, [], [⟨0, 3, .kl, 0x0, lP⟩, ⟨8, 13, .kl, 0x0, lP⟩]⟩,
  ⟨0x10800004, [], [⟨0, 11, .kl, 0x0, lP⟩, ⟨11, 2, .kl, 0x0, lP⟩, ⟨13, 3, .kl, 0x0, lP⟩, ⟨16, 1, .kl, 0x0, lP⟩]⟩,
  ⟨0x10800008, [], [⟨0, 32, .ro, 0x0, lPM⟩]⟩,
  ⟨0x1080000C, [], [⟨0, 11, .kl, 0x0, lP⟩]⟩,
  ⟨0x10800010, [(0x4, 8)], [⟨0, 20, .kl, 0x0, lP⟩]⟩,
  ⟨0x10800040, [], [⟨0, 32, .ro, 0x0, lP⟩]⟩,
  ⟨0x10800044, [], [⟨0, 32, .ro, 0x0, lP⟩]⟩,
  ⟨0x10800048, [], [⟨0, 32, .ro, 0x0, lP⟩]⟩,
  ⟨0x1080004C, [], [⟨0, 3, .ro, 0x1, lPM⟩, ⟨3, 1, .ro, 0x0, lPM⟩, ⟨4, 2, .ro, 0x0, lPM⟩, ⟨8, 3, .ro, 0x0, lPM⟩, ⟨16, 1, .w1c, 0x0, lPM⟩, ⟨17, 1, .w1c, 0x0, lPM⟩]⟩,
  ⟨0x10800050, [], [⟨0, 32, .ro, 0x0, lPM⟩]⟩,
  ⟨0x10800054, [], [⟨0, 16, .ro, 0x0, lPM⟩]⟩,
  ⟨0x10800058, [], [⟨0, 3, .ro, 0x0, lPM⟩, ⟨3, 1, .ro, 0x0, lPM⟩, ⟨4, 1, .ro, 0x0, lPM⟩, ⟨8, 4, .ro, 0x0, lPM⟩, ⟨16, 1, .w1c, 0x0, lPM⟩, ⟨17, 1, .w1c, 0x0, lPM⟩]⟩,
  ⟨0x1080005C, [], [⟨0, 8, .ro, 0x0, lPM⟩, ⟨8, 7, .ro, 0x0, lPM⟩, ⟨16, 3, .ro, 0x0, lPM⟩, ⟨24, 8, .ro, 0x0, lPM⟩]⟩,
  ⟨0x10800060, [], [⟨0, 4, .ro, 0x0, lPM⟩]⟩,
  ⟨0x10800064, [], [⟨0, 4, .ro, 0x0, lPM⟩, ⟨4, 4, .ro, 0x0, lPM⟩, ⟨8, 4, .ro, 0x0, lPM⟩, ⟨12, 4, .ro, 0x0, lPM⟩, ⟨16, 4, .ro, 0x0, lPM⟩, ⟨20, 4, .ro, 0x0, lPM⟩, ⟨24, 4, .ro, 0x0, lPM⟩, ⟨28, 4, .ro, 0x0, lPM⟩]⟩,
  ⟨0x10800068, [], [⟨0, 10, .rw, 0x0, lPM⟩, ⟨10, 3, .rw, 0x0, lPM⟩, ⟨13, 1, .rw, 0x0, lPM⟩, ⟨14, 2, .rw, 0x0, lPM⟩, ⟨16, 11, .rw, 0x0, lPM⟩]⟩,
  ⟨0x1080006C, [], [⟨0, 3, .wo, 0x0, lPM⟩, ⟨3, 11, .wo, 0x0, lPM⟩, ⟨24, 8, .wo, 0x0, lPM⟩]⟩,
  ⟨0x10800070, [], [⟨0, 1, .ro, 0x0, lPM⟩, ⟨1, 1, .w1c, 0x0, lPM⟩, ⟨2, 1, .w1c, 0x0, lPM⟩, ⟨4, 4, .ro, 0x0, lPM⟩]⟩,
  ⟨0x10800074, [], [⟨0, 6, .wo, 0x0, lPM⟩]⟩,
  ⟨0x10800078, [], [⟨0, 32, .wo, 0x0, lPM⟩]⟩,
  ⟨0x10800080, [(0x4, 4)], [⟨0, 16, .rc, 0x0, lPMF⟩, ⟨16, 16, .rc, 0x0, lPMF⟩]⟩,
  ⟨0x108000A0, [(0x4, 4)], [⟨0, 8, .ro, 0x0, lPM⟩, ⟨8, 1, .ro, 0x0, lPM⟩, ⟨16, 16, .ro, 0x0, lPM⟩]⟩,
  ⟨0x10810000, [(0x10, 1024), (0x4, 4)], [⟨0, 32, .kl, 0x0, lP⟩]⟩,
  ⟨0x10820000, [(0x8, 1024)], [⟨0, 1, .ro, 0x0, lPM⟩, ⟨1, 1, .ro, 0x0, lPM⟩, ⟨2, 1, .ro, 0x0, lPM⟩, ⟨4, 8, .ro, 0x0, lPM⟩, ⟨16, 8, .ro, 0x0, lPM⟩]⟩,
  ⟨0x10820004, [(0x8, 1024)], [⟨0, 16, .rc, 0x0, lPM⟩, ⟨16, 8, .rc, 0x0, lPM⟩, ⟨24, 8, .rc, 0x0, lPM⟩]⟩]

/-- Rows of the CNP_ block at 0x10800000: CNP_HBUFh_STAT to CNP_PDi. -/
def rowsCnp1 : List RegRow := [
  ⟨0x10860000, [(0x4, 64)], [⟨0, 1, .ro, 0x0, lPM⟩, ⟨1, 1, .ro, 0x0, lPM⟩, ⟨8, 16, .ro, 0x0, lPM⟩, ⟨24, 8, .ro, 0x0, lPM⟩]⟩,
  ⟨0x10800200, [], [⟨0, 3, .ro, 0x0, lPM⟩, ⟨3, 1, .ro, 0x0, lPM⟩, ⟨4, 1, .ro, 0x0, lPM⟩, ⟨5, 1, .ro, 0x0, lPM⟩, ⟨6, 1, .ro, 0x0, lPM⟩, ⟨7, 1, .ro, 0x0, lPM⟩, ⟨8, 4, .ro, 0x0, lPM⟩, ⟨16, 1, .w1c, 0x0, lPM⟩, ⟨17, 1, .w1c, 0x0, lPM⟩, ⟨18, 1, .w1c, 0x0, lPM⟩]⟩,
  ⟨0x10800204, [], [⟨0, 16, .rc, 0x0, lPM⟩, ⟨16, 16, .rc, 0x0, lPM⟩]⟩,
  ⟨0x10800208, [], [⟨0, 16, .ro, 0x0, lPM⟩, ⟨16, 16, .ro, 0x0, lPM⟩]⟩,
  ⟨0x1080020C, [], [⟨0, 8, .kl, 0x0, lP⟩, ⟨8, 12, .kl, 0x0, lP⟩]⟩,
  ⟨0x10800210, [], [⟨0, 1, .ro, 0x0, lPM⟩, ⟨8, 8, .ro, 0x0, lPM⟩]⟩,
  ⟨0x10800214, [], [⟨0, 16, .rc, 0x0, lPM⟩]⟩,
  ⟨0x10800220, [(0x4, 4)], [⟨0, 16, .ro, 0x0, lPM⟩, ⟨16, 16, .ro, 0x0, lPM⟩]⟩,
  ⟨0x10800400, [(0x4, 128)], [⟨0, 16, .ro, 0x0, lPM⟩, ⟨16, 5, .ro, 0x0, lPM⟩, ⟨21, 3, .ro, 0x0, lPM⟩, ⟨24, 3, .ro, 0x0, lPM⟩, ⟨27, 1, .ro, 0x0, lPM⟩, ⟨28, 1, .ro, 0x0, lPM⟩, ⟨29, 1, .ro, 0x0, lPM⟩, ⟨30, 1, .ro, 0x0, lPM⟩]⟩,
  ⟨0x10800600, [(0x4, 128)], [⟨0, 16, .ro, 0x0, lPM⟩, ⟨16, 16, .ro, 0x0, lPM⟩]⟩]

/-- The rows of the CNP_ block. -/
def rowsCnp : List RegRow := rowsCnp0 ++ rowsCnp1

/-- Rows of the RWY_ block at 0x10900000: RWY_CAP to RWY_Aa_CNT. -/
def rowsRwy0 : List RegRow := [
  ⟨0x10900000, [], [⟨0, 8, .ro, 0x10, lPM⟩, ⟨16, 8, .ro, 0x4, lPM⟩]⟩,
  ⟨0x10900004, [], [⟨0, 1, .w1c, 0x0, lPMF⟩, ⟨1, 1, .w1c, 0x0, lPMF⟩, ⟨2, 1, .w1c, 0x0, lPMF⟩, ⟨3, 1, .w1c, 0x0, lPMF⟩, ⟨8, 8, .ro, 0x0, lPMF⟩, ⟨16, 8, .ro, 0x0, lPMF⟩]⟩,
  ⟨0x10900008, [], [⟨0, 32, .wo, 0x0, lPM⟩]⟩,
  ⟨0x1090000C, [], [⟨0, 16, .rc, 0x0, lPMF⟩, ⟨16, 16, .rc, 0x0, lPMF⟩]⟩,
  ⟨0x10900010, [], [⟨0, 26, .ro, 0x0, lPMF⟩, ⟨26, 4, .ro, 0x0, lPMF⟩]⟩,
  ⟨0x10900014, [], [⟨0, 4, .ro, 0x0, lPMF⟩]⟩,
  ⟨0x10900018, [], [⟨0, 16, .rc, 0x0, lPMF⟩, ⟨16, 16, .rc, 0x0, lPMF⟩]⟩,
  ⟨0x10900100, [(0x10, 8)], [⟨0, 26, .ro, 0x0, lPMF⟩, ⟨26, 4, .ro, 0x0, lPMF⟩]⟩,
  ⟨0x10900104, [(0x10, 8)], [⟨0, 1, .w1c, 0x0, lPMF⟩, ⟨1, 4, .ro, 0x0, lPMF⟩, ⟨5, 2, .ro, 0x0, lPMF⟩, ⟨8, 8, .ro, 0x0, lPMF⟩]⟩,
  ⟨0x10900108, [(0x10, 8)], [⟨0, 32, .ro, 0x0, lPMF⟩]⟩,
  ⟨0x1090010C, [(0x10, 8)], [⟨0, 32, .ro, 0x0, lPMF⟩]⟩,
  ⟨0x10901000, [(0x20, 16)], [⟨0, 16, .rw, 0x0, lPM⟩, ⟨16, 5, .rw, 0x0, lPM⟩, ⟨21, 3, .rw, 0x0, lPM⟩, ⟨24, 2, .rw, 0x0, lPM⟩]⟩,
  ⟨0x10901004, [(0x20, 16)], [⟨0, 1, .rw, 0x0, lPM⟩, ⟨1, 1, .rw, 0x0, lPM⟩, ⟨2, 1, .rw, 0x0, lPM⟩, ⟨3, 1, .rw, 0x0, lPM⟩, ⟨4, 10, .rw, 0x0, lPM⟩]⟩,
  ⟨0x10901008, [(0x20, 16)], [⟨0, 4, .rc, 0x0, lPMF⟩]⟩,
  ⟨0x1090100C, [(0x20, 16)], [⟨0, 1, .ro, 0x0, lPMF⟩, ⟨1, 8, .ro, 0x0, lPMF⟩, ⟨16, 8, .ro, 0x0, lPMF⟩, ⟨24, 8, .ro, 0x0, lPMF⟩]⟩,
  ⟨0x10901010, [(0x20, 16)], [⟨0, 32, .ro, 0x0, lPMF⟩]⟩,
  ⟨0x10901014, [(0x20, 16)], [⟨0, 32, .ro, 0x0, lPMF⟩]⟩,
  ⟨0x10902000, [(0x20, 4)], [⟨0, 24, .rw, 0x0, lPM⟩]⟩,
  ⟨0x10902004, [(0x20, 4)], [⟨0, 1, .rw, 0x0, lPM⟩, ⟨1, 1, .rw, 0x0, lPM⟩, ⟨2, 1, .rw, 0x0, lPM⟩, ⟨3, 1, .rw, 0x0, lPM⟩, ⟨4, 2, .rw, 0x0, lPM⟩, ⟨6, 5, .rw, 0x0, lPM⟩, ⟨11, 1, .rw, 0x0, lPM⟩, ⟨12, 10, .rw, 0x0, lPM⟩, ⟨22, 1, .ro, 0x0, lPM⟩]⟩,
  ⟨0x10902008, [(0x20, 4)], [⟨0, 16, .rw, 0x0, lPM⟩, ⟨16, 5, .rw, 0x0, lPM⟩, ⟨21, 3, .rw, 0x0, lPM⟩, ⟨24, 2, .rw, 0x0, lPM⟩]⟩,
  ⟨0x1090200C, [(0x20, 4)], [⟨0, 32, .rw, 0x0, lPMF⟩]⟩,
  ⟨0x10902010, [(0x20, 4)], [⟨0, 1, .ro, 0x0, lPMF⟩, ⟨1, 8, .ro, 0x0, lPMF⟩, ⟨9, 7, .ro, 0x0, lPMF⟩]⟩,
  ⟨0x10902014, [(0x20, 4)], [⟨0, 16, .rc, 0x0, lPMF⟩, ⟨16, 16, .rc, 0x0, lPMF⟩]⟩]

/-- The rows of the RWY_ block. -/
def rowsRwy : List RegRow := rowsRwy0

/-- Rows of the UST_ block at 0x10A00000: UST_CAP to UST_Pp_FLTk_MASK. -/
def rowsUst0 : List RegRow := [
  ⟨0x10A00000, [], [⟨0, 6, .ro, 0x3f, lPM⟩, ⟨16, 8, .ro, 0x20, lPM⟩]⟩,
  ⟨0x10A00004, [], [⟨0, 6, .w1c, 0x0, lPM⟩]⟩,
  ⟨0x10A00100, [(0x20, 32)], [⟨0, 1, .rw, 0x0, lPM⟩, ⟨1, 3, .rw, 0x0, lPM⟩, ⟨4, 1, .rw, 0x0, lPM⟩, ⟨8, 10, .rw, 0x0, lPM⟩]⟩,
  ⟨0x10A00104, [(0x20, 32)], [⟨0, 16, .rw, 0x0, lPM⟩, ⟨16, 5, .rw, 0x0, lPM⟩, ⟨21, 3, .rw, 0x0, lPM⟩, ⟨24, 2, .rw, 0x0, lPM⟩, ⟨26, 6, .rw, 0x0, lPM⟩]⟩,
  ⟨0x10A00108, [(0x20, 32)], [⟨0, 32, .rw, 0x0, lPM⟩]⟩,
  ⟨0x10A0010C, [(0x20, 32)], [⟨0, 32, .rw, 0x0, lPM⟩]⟩,
  ⟨0x10A00110, [(0x20, 32)], [⟨0, 8, .rc, 0x0, lPMF⟩, ⟨8, 8, .rc, 0x0, lPMF⟩, ⟨16, 8, .rc, 0x0, lPMF⟩, ⟨24, 8, .rc, 0x0, lPMF⟩]⟩,
  ⟨0x10A00114, [(0x20, 32)], [⟨0, 1, .ro, 0x0, lPMF⟩, ⟨1, 8, .ro, 0x0, lPMF⟩, ⟨9, 7, .ro, 0x0, lPMF⟩]⟩,
  ⟨0x10A01000, [(0x1000, 6)], [⟨0, 1, .rw, 0x0, lPM⟩, ⟨1, 1, .rw, 0x0, lPM⟩, ⟨2, 1, .rw, 0x0, lPM⟩, ⟨3, 1, .rw, 0x0, lPM⟩, ⟨4, 1, .rw, 0x0, lPM⟩, ⟨5, 2, .rw, 0x0, lPM⟩, ⟨7, 1, .rw, 0x0, lPM⟩, ⟨8, 1, .rw, 0x0, lPM⟩, ⟨9, 1, .rw, 0x0, lPM⟩, ⟨10, 8, .rw, 0x0, lPM⟩, ⟨18, 12, .rw, 0x0, lPM⟩]⟩,
  ⟨0x10A01004, [(0x1000, 6)], [⟨0, 16, .rw, 0x0, lPM⟩, ⟨16, 16, .rw, 0x0, lPM⟩]⟩,
  ⟨0x10A01008, [(0x1000, 6)], [⟨0, 1, .ro, 0x0, lPMF⟩, ⟨1, 1, .ro, 0x0, lPMF⟩, ⟨2, 1, .ro, 0x0, lPMF⟩, ⟨3, 1, .ro, 0x0, lPMF⟩, ⟨4, 1, .ro, 0x0, lPMF⟩, ⟨8, 8, .ro, 0x0, lPMF⟩, ⟨16, 8, .ro, 0x0, lPMF⟩]⟩,
  ⟨0x10A0100C, [(0x1000, 6)], [⟨0, 8, .rc, 0x0, lPMF⟩, ⟨8, 8, .rc, 0x0, lPMF⟩, ⟨16, 8, .rc, 0x0, lPMF⟩, ⟨24, 8, .rc, 0x0, lPMF⟩]⟩,
  ⟨0x10A01010, [(0x1000, 6)], [⟨0, 32, .wo, 0x0, lPM⟩]⟩,
  ⟨0x10A01014, [(0x1000, 6)], [⟨0, 32, .ro, 0x0, lP⟩]⟩,
  ⟨0x10A01018, [(0x1000, 6)], [⟨0, 16, .ro, 0x0, lP⟩]⟩,
  ⟨0x10A01020, [(0x1000, 6)], [⟨3, 21, .rw, 0x0, lPM⟩]⟩,
  ⟨0x10A01024, [(0x1000, 6)], [⟨3, 21, .rw, 0x0, lPM⟩]⟩,
  ⟨0x10A01028, [(0x1000, 6)], [⟨3, 21, .ro, 0x0, lPMF⟩]⟩,
  ⟨0x10A0102C, [(0x1000, 6)], [⟨3, 21, .rw, 0x0, lPMF⟩]⟩,
  ⟨0x10A01030, [(0x1000, 6)], [⟨3, 21, .rw, 0x0, lPM⟩]⟩,
  ⟨0x10A01034, [(0x1000, 6)], [⟨3, 21, .rw, 0x0, lPM⟩]⟩,
  ⟨0x10A01038, [(0x1000, 6)], [⟨3, 21, .ro, 0x0, lPMF⟩]⟩,
  ⟨0x10A0103C, [(0x1000, 6)], [⟨3, 21, .rw, 0x0, lPMF⟩]⟩,
  ⟨0x10A01100, [(0x1000, 2), (0x8, 32)], [⟨0, 29, .rw, 0x0, lPM⟩, ⟨29, 1, .rw, 0x0, lPM⟩, ⟨31, 1, .rw, 0x0, lPM⟩]⟩,
  ⟨0x10A01104, [(0x1000, 2), (0x8, 32)], [⟨0, 32, .rw, 0x0, lPM⟩]⟩]

/-- Rows of the UST_ block at 0x10A00000: UST_Pp_MVBPk to UST_Pp_MVBPk. -/
def rowsUst1 : List RegRow := [
  ⟨0x10A03400, [(0x4, 256)], [⟨0, 12, .rw, 0x0, lPM⟩, ⟨12, 3, .rw, 0x0, lPM⟩, ⟨15, 1, .rw, 0x0, lPM⟩, ⟨16, 1, .rw, 0x0, lPM⟩]⟩]

/-- The rows of the UST_ block. -/
def rowsUst : List RegRow := rowsUst0 ++ rowsUst1

/-- Rows of the CVU_ block at 0x10B00000: CVU_CAP to CVU_CTXc_SEQ. -/
def rowsCvu0 : List RegRow := [
  ⟨0x10B00000, [], [⟨0, 4, .ro, 0x8, lPM⟩, ⟨16, 8, .ro, 0x80, lPM⟩]⟩,
  ⟨0x10B00004, [], [⟨0, 1, .w1s, 0x0, lPM⟩, ⟨1, 1, .ro, 0x0, lPM⟩, ⟨8, 7, .ro, 0x0, lPM⟩]⟩,
  ⟨0x10B00008, [], [⟨0, 32, .wo, 0x0, lPM⟩]⟩,
  ⟨0x10B00010, [(0x4, 4)], [⟨0, 32, .ro, 0x0, lPMF⟩]⟩,
  ⟨0x10B00020, [(0x4, 4)], [⟨0, 32, .ro, 0x0, lPMF⟩]⟩,
  ⟨0x10B00100, [(0x40, 8)], [⟨0, 1, .rw, 0x0, lPMF⟩, ⟨1, 2, .rw, 0x0, lPMF⟩, ⟨4, 3, .rw, 0x0, lPMF⟩, ⟨8, 3, .rw, 0x0, lPMF⟩, ⟨11, 1, .rw, 0x0, lPMF⟩, ⟨12, 10, .rw, 0x0, lPMF⟩, ⟨22, 1, .rw, 0x0, lPMF⟩, ⟨23, 1, .ro, 0x0, lPM⟩]⟩,
  ⟨0x10B00104, [(0x40, 8)], [⟨0, 32, .rw, 0x0, lPMF⟩]⟩,
  ⟨0x10B00108, [(0x40, 8)], [⟨0, 32, .rw, 0x0, lPMF⟩]⟩,
  ⟨0x10B0010C, [(0x40, 8)], [⟨0, 16, .rw, 0x0, lPMF⟩, ⟨16, 16, .rw, 0x0, lPMF⟩]⟩,
  ⟨0x10B00110, [(0x40, 8)], [⟨0, 30, .rw, 0x0, lPMF⟩]⟩,
  ⟨0x10B00114, [(0x40, 8)], [⟨0, 24, .rw, 0x0, lPMF⟩]⟩,
  ⟨0x10B00118, [(0x40, 8)], [⟨0, 32, .ro, 0x0, lPMF⟩]⟩,
  ⟨0x10B0011C, [(0x40, 8)], [⟨0, 32, .ro, 0x0, lPMF⟩]⟩,
  ⟨0x10B00120, [(0x40, 8)], [⟨0, 32, .rw, 0x0, lPMF⟩]⟩,
  ⟨0x10B00124, [(0x40, 8)], [⟨0, 32, .rw, 0x0, lPMF⟩]⟩,
  ⟨0x10B00128, [(0x40, 8)], [⟨0, 1, .ro, 0x0, lPMF⟩, ⟨1, 1, .w1c, 0x0, lPMF⟩, ⟨2, 1, .w1c, 0x0, lPMF⟩, ⟨16, 16, .ro, 0x0, lPMF⟩]⟩,
  ⟨0x10B0012C, [(0x40, 8)], [⟨0, 1, .wo, 0x0, lPMF⟩]⟩,
  ⟨0x10B00130, [(0x40, 8)], [⟨0, 16, .rc, 0x0, lPMF⟩]⟩,
  ⟨0x10B01000, [(0x20, 128)], [⟨0, 1, .rw, 0x0, lPM⟩, ⟨1, 1, .rw, 0x0, lPM⟩, ⟨2, 10, .rw, 0x0, lPM⟩, ⟨12, 8, .rw, 0x0, lPM⟩]⟩,
  ⟨0x10B01004, [(0x20, 128)], [⟨0, 32, .rw, 0x0, lPM⟩]⟩,
  ⟨0x10B01008, [(0x20, 128)], [⟨0, 32, .rw, 0x0, lPM⟩]⟩,
  ⟨0x10B0100C, [(0x20, 128)], [⟨0, 32, .rw, 0x0, lPM⟩]⟩,
  ⟨0x10B01010, [(0x20, 128)], [⟨0, 14, .rw, 0x0, lPM⟩]⟩,
  ⟨0x10B01014, [(0x20, 128)], [⟨0, 1, .ro, 0x0, lPMF⟩, ⟨1, 1, .ro, 0x0, lPMF⟩, ⟨2, 3, .ro, 0x0, lPMF⟩, ⟨8, 1, .w1c, 0x0, lPMF⟩, ⟨9, 1, .w1c, 0x0, lPMF⟩, ⟨10, 1, .w1c, 0x0, lPMF⟩, ⟨11, 1, .w1c, 0x0, lPMF⟩, ⟨16, 16, .ro, 0x0, lPMF⟩]⟩,
  ⟨0x10B01018, [(0x20, 128)], [⟨0, 32, .ro, 0x0, lPMF⟩]⟩]

/-- Rows of the CVU_ block at 0x10B00000: CVU_CTXc_CNT to CVU_CTXc_CNT. -/
def rowsCvu1 : List RegRow := [
  ⟨0x10B0101C, [(0x20, 128)], [⟨0, 8, .rc, 0x0, lPMF⟩, ⟨8, 8, .rc, 0x0, lPMF⟩, ⟨16, 8, .rc, 0x0, lPMF⟩, ⟨24, 8, .rc, 0x0, lPMF⟩]⟩]

/-- The rows of the CVU_ block. -/
def rowsCvu : List RegRow := rowsCvu0 ++ rowsCvu1

/-- Rows of the REC_ block at 0x10C00000: REC_STAT to REC_RD_SEQ_HI. -/
def rowsRec0 : List RegRow := [
  ⟨0x10C00000, [], [⟨0, 2, .ro, 0x0, lP⟩, ⟨2, 1, .ro, 0x0, lP⟩, ⟨3, 1, .ro, 0x0, lP⟩, ⟨4, 1, .ro, 0x0, lP⟩, ⟨5, 1, .ro, 0x0, lP⟩, ⟨6, 1, .ro, 0x0, lP⟩, ⟨16, 1, .w1c, 0x0, lP⟩, ⟨17, 1, .w1c, 0x0, lP⟩, ⟨18, 1, .w1c, 0x0, lP⟩, ⟨19, 1, .w1c, 0x0, lP⟩]⟩,
  ⟨0x10C00004, [], [⟨0, 26, .kl, 0x0, lP⟩]⟩,
  ⟨0x10C00008, [], [⟨0, 32, .wo, 0x0, lPM⟩]⟩,
  ⟨0x10C00010, [], [⟨0, 32, .ro, 0x0, lP⟩]⟩,
  ⟨0x10C00014, [], [⟨0, 32, .ro, 0x0, lP⟩]⟩,
  ⟨0x10C00018, [], [⟨0, 32, .ro, 0x0, lP⟩]⟩,
  ⟨0x10C0001C, [], [⟨0, 32, .ro, 0x0, lP⟩]⟩,
  ⟨0x10C00020, [], [⟨0, 32, .ro, 0x0, lP⟩]⟩,
  ⟨0x10C00024, [], [⟨0, 32, .ro, 0x0, lP⟩]⟩,
  ⟨0x10C00028, [], [⟨0, 32, .ro, 0x0, lP⟩]⟩,
  ⟨0x10C0002C, [], [⟨0, 32, .ro, 0x0, lP⟩]⟩,
  ⟨0x10C00030, [], [⟨0, 26, .ro, 0x0, lP⟩, ⟨31, 1, .ro, 0x0, lP⟩]⟩,
  ⟨0x10C00034, [], [⟨0, 21, .ro, 0x0, lP⟩]⟩,
  ⟨0x10C00038, [], [⟨0, 12, .ro, 0x0, lP⟩]⟩,
  ⟨0x10C0003C, [], [⟨0, 32, .ro, 0x0, lPF⟩]⟩,
  ⟨0x10C00040, [], [⟨0, 32, .ro, 0x0, lP⟩]⟩,
  ⟨0x10C00044, [], [⟨0, 24, .ro, 0x0, lP⟩]⟩,
  ⟨0x10C00048, [], [⟨0, 16, .ro, 0x0, lP⟩]⟩,
  ⟨0x10C0004C, [], [⟨0, 17, .ro, 0x0, lP⟩]⟩,
  ⟨0x10C00050, [], [⟨0, 32, .ro, 0x0, lP⟩]⟩,
  ⟨0x10C00100, [(0x10, 12)], [⟨3, 21, .rw, 0x0, lPMF⟩]⟩,
  ⟨0x10C00104, [(0x10, 12)], [⟨24, 8, .wo, 0x0, lPMF⟩]⟩,
  ⟨0x10C00108, [(0x10, 12)], [⟨0, 1, .ro, 0x0, lPMF⟩, ⟨1, 1, .w1c, 0x0, lPMF⟩, ⟨2, 1, .w1c, 0x0, lPMF⟩, ⟨3, 1, .w1c, 0x0, lPMF⟩, ⟨4, 4, .ro, 0x0, lPMF⟩, ⟨8, 24, .ro, 0x0, lPMF⟩]⟩,
  ⟨0x10C00200, [], [⟨0, 32, .rw, 0x0, lPMF⟩]⟩,
  ⟨0x10C00204, [], [⟨0, 32, .rw, 0x0, lPMF⟩]⟩]

/-- Rows of the REC_ block at 0x10C00000: REC_RD_DST to REC_DROPCLSc. -/
def rowsRec1 : List RegRow := [
  ⟨0x10C00208, [], [⟨5, 19, .rw, 0x0, lPMF⟩]⟩,
  ⟨0x10C0020C, [], [⟨5, 19, .rw, 0x0, lPMF⟩]⟩,
  ⟨0x10C00210, [], [⟨0, 2, .wo, 0x0, lPMF⟩, ⟨2, 1, .wo, 0x0, lPMF⟩, ⟨24, 8, .wo, 0x0, lPMF⟩]⟩,
  ⟨0x10C00214, [], [⟨0, 1, .ro, 0x0, lPMF⟩, ⟨1, 1, .w1c, 0x0, lPMF⟩, ⟨2, 1, .w1c, 0x0, lPMF⟩, ⟨4, 3, .ro, 0x0, lPMF⟩, ⟨8, 24, .ro, 0x0, lPMF⟩]⟩,
  ⟨0x10C00218, [], [⟨0, 32, .ro, 0x0, lPMF⟩]⟩,
  ⟨0x10C0021C, [], [⟨0, 32, .ro, 0x0, lPMF⟩]⟩,
  ⟨0x10C00400, [(0x4, 48)], [⟨0, 32, .ro, 0x0, lP⟩]⟩,
  ⟨0x10C00500, [(0x4, 16)], [⟨0, 32, .ro, 0x0, lP⟩]⟩]

/-- The rows of the REC_ block. -/
def rowsRec : List RegRow := rowsRec0 ++ rowsRec1

/-- Rows of the FWU_ block at 0x10D00000: FWU_STAT to FWU_SLOTs_SECVER. -/
def rowsFwu0 : List RegRow := [
  ⟨0x10D00000, [], [⟨0, 1, .ro, 0x0, lPM⟩, ⟨1, 1, .ro, 0x0, lPM⟩, ⟨2, 1, .ro, 0x0, lPM⟩, ⟨3, 1, .ro, 0x0, lPM⟩, ⟨16, 1, .w1c, 0x0, lPM⟩, ⟨17, 1, .w1c, 0x0, lPM⟩, ⟨18, 1, .w1c, 0x0, lPM⟩]⟩,
  ⟨0x10D00004, [], [⟨0, 4, .wo, 0x0, lPM⟩, ⟨24, 8, .wo, 0x0, lPM⟩]⟩,
  ⟨0x10D00008, [], [⟨5, 19, .rw, 0x0, lPM⟩]⟩,
  ⟨0x10D0000C, [], [⟨0, 4, .ro, 0x0, lPM⟩, ⟨4, 4, .ro, 0x0, lPM⟩]⟩,
  ⟨0x10D00010, [], [⟨0, 8, .ro, 0x0, lPM⟩]⟩,
  ⟨0x10D00014, [], [⟨0, 7, .ro, 0x0, lP⟩]⟩,
  ⟨0x10D00018, [], [⟨0, 32, .ro, 0x0, lPM⟩]⟩,
  ⟨0x10D0001C, [], [⟨0, 32, .ro, 0x0, lP⟩]⟩,
  ⟨0x10D00020, [], [⟨0, 1, .rw, 0x0, lPM⟩]⟩,
  ⟨0x10D00024, [], [⟨0, 16, .rc, 0x0, lPM⟩, ⟨16, 16, .rc, 0x0, lPM⟩]⟩,
  ⟨0x10D00100, [(0x20, 2)], [⟨0, 4, .ro, 0x0, lPM⟩, ⟨4, 2, .ro, 0x0, lPM⟩]⟩,
  ⟨0x10D00104, [(0x20, 2)], [⟨0, 16, .ro, 0x0, lPM⟩, ⟨16, 16, .ro, 0x0, lPM⟩]⟩,
  ⟨0x10D00108, [(0x20, 2)], [⟨0, 32, .ro, 0x0, lPM⟩]⟩,
  ⟨0x10D0010C, [(0x20, 2)], [⟨0, 32, .ro, 0x0, lPM⟩]⟩,
  ⟨0x10D00110, [(0x20, 2)], [⟨0, 32, .ro, 0x0, lPM⟩]⟩,
  ⟨0x10D00114, [(0x20, 2)], [⟨0, 7, .ro, 0x0, lPM⟩]⟩]

/-- The rows of the FWU_ block. -/
def rowsFwu : List RegRow := rowsFwu0

/-- Rows of the KEY_ block at 0x10E00000: KEY_STAT to KEY_JRN_CNT. -/
def rowsKey0 : List RegRow := [
  ⟨0x10E00000, [], [⟨0, 4, .ro, 0x0, lPM⟩, ⟨4, 1, .ro, 0x0, lPM⟩, ⟨5, 1, .ro, 0x0, lPM⟩, ⟨6, 1, .ro, 0x0, lPM⟩, ⟨8, 1, .ro, 0x0, lPM⟩, ⟨9, 1, .ro, 0x0, lPM⟩, ⟨16, 1, .w1c, 0x0, lPM⟩, ⟨17, 1, .w1c, 0x0, lPM⟩]⟩,
  ⟨0x10E00004, [], [⟨0, 16, .ro, 0x0, lPM⟩, ⟨16, 8, .ro, 0x0, lPM⟩, ⟨24, 1, .ro, 0x0, lPM⟩]⟩,
  ⟨0x10E00008, [], [⟨0, 32, .kl, 0x0, lP⟩]⟩,
  ⟨0x10E0000C, [], [⟨0, 32, .kl, 0x0, lP⟩]⟩,
  ⟨0x10E00010, [], [⟨0, 32, .kl, 0x0, lP⟩]⟩,
  ⟨0x10E00014, [], [⟨0, 32, .kl, 0x0, lP⟩]⟩,
  ⟨0x10E00018, [], [⟨0, 9, .kl, 0x0, lP⟩, ⟨16, 4, .kl, 0x0, lP⟩, ⟨20, 4, .kl, 0x0, lP⟩]⟩,
  ⟨0x10E00020, [], [⟨0, 8, .kl, 0x0, lP⟩, ⟨16, 16, .kl, 0x0, lP⟩]⟩,
  ⟨0x10E00024, [], [⟨0, 8, .kl, 0x0, lP⟩, ⟨8, 8, .kl, 0x0, lP⟩, ⟨16, 1, .kl, 0x0, lP⟩, ⟨17, 1, .kl, 0x0, lP⟩]⟩,
  ⟨0x10E00040, [], [⟨0, 32, .rw, 0x0, lPM⟩]⟩,
  ⟨0x10E00044, [(0x4, 8)], [⟨0, 32, .rw, 0x0, lPM⟩]⟩,
  ⟨0x10E00064, [], [⟨0, 32, .wo, 0x0, lPM⟩]⟩,
  ⟨0x10E00068, [], [⟨0, 1, .ro, 0x0, lPM⟩, ⟨1, 1, .w1c, 0x0, lPM⟩, ⟨2, 1, .w1c, 0x0, lPM⟩, ⟨4, 4, .ro, 0x0, lPM⟩]⟩,
  ⟨0x10E0006C, [], [⟨0, 15, .ro, 0x0, lPM⟩, ⟨16, 15, .ro, 0x0, lPM⟩]⟩]

/-- The rows of the KEY_ block. -/
def rowsKey : List RegRow := rowsKey0

/-- Rows of the BIST_ block at 0x10F00000: BIST_OPT to BIST_TIME. -/
def rowsBist0 : List RegRow := [
  ⟨0x10F00000, [], [⟨0, 1, .kl, 0x0, lP⟩, ⟨1, 1, .kl, 0x0, lP⟩]⟩,
  ⟨0x10F00004, [], [⟨0, 2, .wo, 0x0, lPM⟩, ⟨24, 8, .wo, 0x0, lPM⟩]⟩,
  ⟨0x10F00008, [], [⟨0, 32, .rw, 0x0, lPM⟩]⟩,
  ⟨0x10F0000C, [], [⟨0, 32, .rw, 0x0, lPM⟩]⟩,
  ⟨0x10F00010, [], [⟨0, 1, .ro, 0x0, lPM⟩, ⟨1, 1, .ro, 0x0, lPM⟩, ⟨2, 2, .ro, 0x0, lPM⟩, ⟨4, 1, .ro, 0x0, lPM⟩, ⟨16, 1, .w1c, 0x0, lPM⟩, ⟨17, 1, .w1c, 0x0, lPM⟩, ⟨20, 4, .ro, 0x0, lPM⟩]⟩,
  ⟨0x10F00014, [], [⟨0, 32, .ro, 0x0, lPM⟩]⟩,
  ⟨0x10F00018, [], [⟨0, 32, .ro, 0x0, lPM⟩]⟩,
  ⟨0x10F0001C, [], [⟨0, 32, .ro, 0x0, lPM⟩]⟩,
  ⟨0x10F00020, [], [⟨0, 32, .ro, 0x0, lPM⟩]⟩,
  ⟨0x10F00024, [], [⟨0, 32, .ro, 0x0, lPM⟩]⟩,
  ⟨0x10F00028, [], [⟨0, 32, .ro, 0x0, lPM⟩]⟩,
  ⟨0x10F0002C, [], [⟨0, 6, .ro, 0x0, lPM⟩, ⟨6, 1, .ro, 0x0, lPM⟩, ⟨7, 1, .ro, 0x0, lPM⟩]⟩,
  ⟨0x10F00030, [], [⟨0, 24, .ro, 0x0, lPM⟩]⟩]

/-- The rows of the BIST_ block. -/
def rowsBist : List RegRow := rowsBist0

/-- The rows of the 1 MiB register block with number `b` (R567: block 0 at 0x1000_0000). -/
def rowsOfBlock (b : Nat) : List RegRow :=
  match b with
  | 0 => rowsSys
  | 1 => rowsPwr
  | 2 => rowsStd
  | 3 => rowsLe
  | 4 => rowsEcc
  | 5 => rowsCpc
  | 6 => rowsIog
  | 7 => rowsRng
  | 8 => rowsCnp
  | 9 => rowsRwy
  | 10 => rowsUst
  | 11 => rowsCvu
  | 12 => rowsRec
  | 13 => rowsFwu
  | 14 => rowsKey
  | 15 => rowsBist
  | _ => []

/-- Whether the distance `d` from a row's first element is that of one of its elements. -/
def dimsHit (d : Nat) : List (Nat × Nat) → Bool
  | [] => d == 0
  | (st, c) :: r => decide (d / st < c) && dimsHit (d % st) r

/-- Whether a row has an element at an address. -/
def RegRow.hit (r : RegRow) (addr : Nat) : Bool := decide (r.base ≤ addr) && dimsHit (addr - r.base) r.dims

/-- The fields of the register at an address; `none` where the block has no register there (R14). -/
def regFields (addr : Nat) : Option (List RowField) :=
  ((rowsOfBlock (addr / 0x100000 % 0x100)).find? (·.hit addr)).map (·.fields)

/-- The row field whose key in the register table is `key`. -/
def rowFieldOfKey (key : Nat) : Option RowField :=
  if keyGroup key = (areaAt (keyAddr key)).code then
    (regFields (keyAddr key)).bind fun fs => fs.find? fun f => f.lo == keyLo key
  else none

end Sys2Proof.Machine
end

