-- ==== Sys2Proof/Machine/State.lean ====
section
/-!
DEFINITION. The state of the module as plain data: the register fields, and everything the spec gives the machine
beside registers, block by block; the queue of waiting commands; and the state right after a power-on reset.
Values of a set that the spec numbers from 0 are kept as numbers; masks are kept as numbers whose bit i stands for
element i. `Tbl` tables list only what differs from the initial value of an element.
-/

namespace Sys2Proof.Machine

/-! ### Answers and emissions -/

/-- What the commander sees of its access: nothing, a value read, an accepted write, or the access fault or debug error
the spec names. An access fault is a next state: nothing else changes (R13, R14, R566). -/
inductive Resp where
  | none
  | ok (v : Nat)
  | bytes (bs : List Byte)
  | done
  | loadFault
  | storeFault
  | fetchFault
  /-- The transfer of a master other than a stand stops at an uncorrectable row (R448). -/
  | stopped
  | debugError
  deriving DecidableEq, Repr

/-- What one command makes the module send at its connectors or to Ranger; the list is replaced at every command. -/
inductive Emission where
  /-- A frame on Canopy port p (0 A fore, 1 A aft, 2 B fore, 3 B aft), without FCS. -/
  | canopy (port : Nat) (frame : List Byte)
  /-- A received safe frame copied to Ranger, with its plane (R23). -/
  | safeCopy (plane : Nat) (frame : List Byte)
  /-- A frame sent at understory port p (0, 1 CAN, 2 MVB, 3, 4 RS-485, 5 service Ethernet). -/
  | under (port : Nat) (frame : List Byte)
  /-- The answer that ends an access a hart has been waiting on. -/
  | answer (hart : Nat) (r : Resp)
  /-- A permit lane of Ranger driven to a level. -/
  | permit (ch : Nat) (on : Bool)
  /-- A command lane driven to a level. -/
  | command (ch : Nat) (on : Bool)
  deriving DecidableEq, Repr

/-! ### Power -/

/-- The judgements of one feed under R49. -/
structure Feed where
  good : Bool
  low : Bool
  high : Bool
  deriving DecidableEq, Repr

/-- Where the module as a whole stands between power-on and park. -/
inductive RunPhase where
  /-- Only the always-on island is powered (before power-on, after park, or out of energy). -/
  | off
  /-- Powered; reference and PLLs not yet locked. -/
  | locking
  /-- A start or the run after it. -/
  | running
  /-- Flush mode (R61). -/
  | flush
  /-- Hibernate: the always-on island and Ranger only. -/
  | hibernate
  /-- The reference is lost; the processor die is held in reset (R517). -/
  | refLost
  deriving DecidableEq, Repr

/-- The steps of a start that have ended (R90). -/
structure Start where
  /-- The instant the start began. -/
  at_ : Nat
  /-- Ranger's key phase has ended, or does not run at this start. -/
  keyPhase : Bool
  keyRead : Bool
  applied : Bool
  firmware : Bool
  /-- The first START record of the recorder is written. -/
  recStart : Bool
  /-- A store measurement is due at this start (R57). -/
  measure : Bool
  /-- A cyclic program may run and Canopy may send: READY is set, or a cyclic program has run since the start (R58). -/
  ready : Bool
  /-- READY has been set since the start began (R59), and a cyclic program has run since then (R58). -/
  wasReady : Bool
  ran : Bool
  /-- Lookout has been serviced since the start or the activation (R153). -/
  serviced : Bool
  /-- A cycle mark has come at which R92 holds. -/
  joined : Bool
  deriving DecidableEq, Repr

/-- State of the always-on island outside registers (R53, R58, R60, R493). -/
structure Power where
  phase : RunPhase
  feedA : Feed
  feedB : Feed
  /-- The instant of the power-fail in progress, or of the last one (R59). -/
  t0 : Nat
  failing : Bool
  start : Start
  /-- Flush mode: the sequencer of R62 in the code of SEQR, VSTORE at flush entry, REFUSED, STGLOST. -/
  seqr : Nat
  /-- The engines that follow as sequencer, in the order of R62. -/
  seqNext : List Nat
  vFlush : Nat
  refused : Nat
  stgLost : Nat
  /-- The SEAL record of this power period is written. -/
  sealed : Bool
  /-- Fewer than two cores were left at the start (R105). -/
  exhausted : Bool
  deriving DecidableEq, Repr

/-! ### Recorder -/

/-- One descriptor of the ingress queue (R478). -/
inductive Desc where
  /-- A hardware record of R477: class, source, KIND, OBJ, W0, W1, the instant and TSYNC. -/
  | hw (cls src kind obj w0 w1 time : Nat) (tsync : Bool)
  /-- A firmware record of a hart, at a shared SRAM offset with a length and class. -/
  | fw (hart off len cls : Nat)
  deriving DecidableEq, Repr

/-- One accepted record that staging holds (R478, R481): SEQ, class, position in the staging ring, bytes, and whether
Heartwood takes it too. -/
structure Staged where
  seq : Nat
  cls : Nat
  pos : Nat
  bytes : List Byte
  heart : Bool
  deriving DecidableEq, Repr

/-- One record in NAND (R473, R482): SEQ, the page number (counted since manufacture) in which it begins, and its
bytes. -/
structure NandRec where
  seq : Nat
  page : Nat
  bytes : List Byte
  deriving DecidableEq, Repr

/-- The drops since the last gap record (R487, R488). -/
structure Drops where
  firstSeq : Nat
  firstTime : Nat
  lastTime : Nat
  total : Nat
  bySrc : Tbl Nat
  byCls : Tbl Nat
  deriving DecidableEq, Repr

/-- The spare area of a programmed page (R483): whether it is Heartwood's, its number, the SEQ of the first record
that begins in it (none where none does), the Rings lap count and the CRC-32C over these; and the 0xFF bytes that pad
the page (R481). -/
structure PageSpare where
  heart : Bool
  page : Nat
  first : Option Nat
  lap : Nat
  crc : Nat
  pad : Nat
  deriving DecidableEq, Repr

/-- A running flush: whether it runs until staging is empty (R481), when it began, and the bytes of the page in
programming. -/
structure Flush where
  untilEmpty : Bool
  began : Nat
  size : Nat
  deriving DecidableEq, Repr

/-- A running read (R489): SEQ to read first, area, destination and length, and the records of its range that have been
erased since it began (R496). -/
structure ReadRun where
  seq : Nat
  heart : Bool
  dst : Nat
  len : Nat
  gone : List NandRec
  deriving DecidableEq, Repr

/-- The recorder outside its registers (R478, R481, R484, R488). -/
structure Recorder where
  queue : List Desc
  /-- The next SEQ to assign. -/
  next : Nat
  staged : List Staged
  /-- Ring offset of the next byte to stage; bytes of the oldest staged record already programmed, and the page in
  which that record begins. -/
  head : Nat
  cut : Nat
  cutPage : Nat
  /-- Descriptors queued before a module reset that are still to be accepted before its START (R491). -/
  early : Nat
  /-- The recorder's own records of this start that follow its START: KIND, class, payload. -/
  own : List (Nat × Nat × List Byte)
  flush : Option Flush
  lastFlushEnd : Nat
  drops : Option Drops
  read : Option ReadRun
  resetting : Bool
  /-- Bytes written to Rings, by the minute (R486). -/
  wrote : Tbl Nat
  /-- NAND: Rings, Heartwood, spare areas, pages programmed into Rings since manufacture, blocks Rings has, whether
  Heartwood has opened, has met a record its area had no room for, and has closed. -/
  rings : List NandRec
  heart : List NandRec
  spares : List PageSpare
  pages : Nat
  ringCap : Nat
  heartOpen : Bool
  heartFull : Bool
  heartClosed : Bool
  deriving DecidableEq, Repr

/-! ### Stands -/

/-- A hand-over request: the mode asked for, SUB and REPLACE (R131). -/
structure HoReq where
  mode : Nat
  sub : Bool
  replace : Nat
  deriving DecidableEq, Repr

/-- A hand-over in its gap: the request, the mode it leaves, the instant of acceptance, whether it is the exit or entry
of Nap instead (R500), and whether lane C failed its reload. -/
structure HoRun where
  req : HoReq
  fromMode : Nat
  at_ : Nat
  nap : Bool
  deriving DecidableEq, Repr

/-- The asynchronous inputs one lane latched at an agreement point (R125): the pending state of the 256 sources, the
halt request, and global time. -/
structure Latch where
  pend : Nat
  halt : Bool
  time : Nat
  deriving DecidableEq, Repr

/-- One entry of a replay queue (R143, R235): where a debugger write went, and what it wrote. -/
structure Replay where
  target : Nat
  addr : Nat
  value : Nat
  deriving DecidableEq, Repr

/-- One stand outside its registers (R125, R127, R131, R133, R141). -/
structure Stand where
  /-- It has finished forming since the start (R138). -/
  formed : Bool
  /-- Cores held as its reserve, powered down (R134). -/
  reserve : List Nat
  request : Option HoReq
  run : Option HoRun
  wfi : Bool
  /-- The values agreed at the last agreement point, and the items on which each lane was outvoted there: the source
  number for a pending bit, 256 for the halt request, 257 for global time (R126). -/
  agreed : Latch
  outvoted : List (Nat × Nat)
  /-- The external interrupts to the M and S contexts and the timer interrupt, as of the last agreement point; the
  timer interrupts of lanes B and C in SPLIT (R127, R148, R149). -/
  mext : Bool
  sext : Bool
  mtimer : Bool
  mtimerB : Bool
  mtimerC : Bool
  haltReq : Bool
  replay : List Replay
  /-- A function reset in progress; whether it runs BIST (R122). -/
  resetting : Option Bool
  /-- The planned instant of the exit from Doze or Nap (R502). -/
  wakeAt : Option Nat
  /-- Where lane A started with all other state at its reset value, `none` after a reload from the checkpoint; likewise
  for the lanes B and C of SPLIT (R134). -/
  entry : Option Nat
  splitEntry : Option Nat
  /-- The pending sources as they stood when Doze or Nap began (R502). -/
  asleep : Nat
  /-- At how many agreement points to come the code that ran has issued a Rootway load or read a fence (R128, R129). -/
  slow : Nat
  /-- What the debugger has written into registers and CSRs of the lanes since they last executed (R143), by lane ×
  2^16 + debug number. -/
  arch : Tbl Nat
  deriving DecidableEq, Repr

/-- Lookout outside its registers: the start of the window, the instant of a first service write whose second is
awaited, and whether the window has its lower bound (R153). -/
structure Lookout where
  from_ : Nat
  first : Option Nat
  lower : Bool
  deriving DecidableEq, Repr

/-- Where the debug transport is attached (R140, R233). -/
inductive Attach where
  | none
  | stand (k : Nat)
  | engine (e : Nat)
  deriving DecidableEq, Repr

/-! ### Coppice and self-test -/

/-- One entry of the field repair log (R463). -/
structure RepairEntry where
  type : Nat
  what : Nat
  time : Nat
  info : Nat
  deriving DecidableEq, Repr

/-- A self-test run in progress (R456, R458): its targets, whether it is a start-up, command or depot run. -/
inductive RunKind where
  | startup | command | depot
  deriving DecidableEq, Repr

structure BistRun where
  kind : RunKind
  mask0 : Nat
  mask1 : Nat
  /-- The phases to come, the first in progress: 1 for the logic targets, 16 to 20 for the memory group of that bit,
  3 for hard repair. -/
  todo : List Nat
  /-- The targets judged failed so far, the first failing logic target with its signature, the length so far in 10
  µs units. -/
  failed0 : Nat
  failed1 : Nat
  first : Option (Nat × Nat)
  len : Nat
  /-- An ABORT awaits the end of the hard repair in progress (R461). -/
  aborted : Bool
  deriving DecidableEq, Repr

/-- A run of a kind on the targets of two masks, not yet begun. -/
def bistNew (kind : RunKind) (mask0 mask1 : Nat) : BistRun := ⟨kind, mask0, mask1, [], 0, 0, none, 0, false⟩

/-- What the fuses hold beside the fused registers (R463): the cores and lanes the factory repair map retires, and the
SRAM spare rows it uses (bank number to count). -/
structure Fuses where
  cores : Nat
  lanes : Nat
  rows : Tbl Nat
  deriving DecidableEq, Repr

/-- Coppice outside its registers (R118, R455, R464, R465). -/
structure Coppice where
  fuses : Fuses
  /-- Bit n: spare core Cn has passed BIST since it became a spare. -/
  proven : Nat
  /-- Bit n: core Cn is under BIST; bit 4e + l: lane l of LEe is under BIST. -/
  testing : Nat
  laneTest : Nat
  /-- Bit n: core Cn was fenced and its test has not ended (R118). -/
  fenced : Nat
  /-- Bit 4e + l: lane l of LEe was fenced and its test has not ended (R466). -/
  laneFenced : Nat
  /-- Bit 4e + l: lane l of LEe has passed; bit 16 + i: target i of BIST_MASK1 has passed (R462). -/
  provenOther : Nat
  /-- The run the controller carries out, a command run that waits for one of Coppice's, an armed depot run. -/
  run : Option BistRun
  waiting : Option BistRun
  depot : Option BistRun
  /-- The field repair log: the two copies of each entry in NAND (R463). -/
  log : List (List Byte × List Byte)
  /-- The remaps that await the end of the march of their bank, each a memory, a row and the devices corrected
  (R469). -/
  due : List (Nat × Nat × Nat)
  /-- Spare rows used, by bank (MEMID × 64 + bank); DRAM rows held on a controller spare and by a soft repair, each
  with the devices whose symbols were corrected (bit d for device d); hard repair resources used; NAND blocks retired
  in the field and spare blocks left. -/
  rowsUsed : Tbl Nat
  ctlSpare : List (Nat × Nat)
  softRows : List (Nat × Nat)
  hardUsed : Nat
  nandRetired : Nat
  nandSpare : Nat
  /-- Planes held in reset and units held disabled after a failed test; whether U0, U1 or U2 has failed since the start
  (R462). -/
  planeDead : Nat
  unitDead : Nat
  safeDead : Bool
  /-- Spare cores there were when the stands had formed (R468). -/
  sparesAtStart : Nat
  deriving DecidableEq, Repr

/-! ### The memory code -/

/-- A running fill: first address, rows, pattern (R440). -/
structure FillRun where
  addr : Nat
  rows : Nat
  pat : Nat
  deriving DecidableEq, Repr

/-- One scrub lap: its start, the time in ns that does not count (R450), whether its alarm has been given, and the row
from which on it has still to read (R449). -/
structure Lap where
  from_ : Nat
  paused : Nat
  alarmed : Bool
  pos : Nat
  deriving DecidableEq, Repr

/-- The memory code outside its registers (R436, R440, R443): by MEMID × 2^28 + row, the pattern by which the stored
and virtual symbols of a row differ from the codeword of its data (0 for a sound row); the running fill; the lap each
scrubber is in; when DRAM went into self-refresh; and, by 32 times that number and the place in the row, the bytes of
L2 and the retain shadows that a decode has changed. -/
structure Ecc where
  err : Tbl Nat
  fill : Option FillRun
  laps : Tbl Lap
  selfRefresh : Option Nat
  arr : Tbl Byte
  deriving DecidableEq, Repr


/-! ### Field channels -/

/-- An open frequency gate (R254): when it opened, edges since, the last edge; instants in ns. -/
structure Gate where
  open_ : Nat
  k : Nat
  last : Nat
  deriving DecidableEq, Repr

/-- One channel outside its registers (R248, R253, R254, R259, R261). -/
structure Chan where
  /-- The filter: its count c and its value y (R248). -/
  c : Nat
  y : Bool
  /-- The last valid input bit and word (R251). -/
  bit : Bool
  word : Nat
  /-- The level after the glitch filter, the live count, position or frequency, quadrature errors and the direction of
  the last count (R252, R253); the gate, and whether one has closed since the scanner started. -/
  level : Bool
  count : Nat
  qerr : Nat
  down : Bool
  gate : Option Gate
  gated : Bool
  /-- When the switches last changed state, consecutive mismatching samples, and until when filter and readback stand
  still after an own off-pulse (R261). -/
  moved : Nat
  miss : Nat
  frozen : Nat
  /-- Whether command and permit call for current, and since when; the last off-pulse; whether the permit switch is
  next (R262, R264). -/
  want : Bool
  since : Nat
  pulsed : Nat
  permitNext : Bool
  /-- The flags that have latched the channel, by their bit in IOG_CHn_FAULT; when it tripped last. -/
  latch : Nat
  tripAt : Nat
  /-- The current on the status link in mA, and whether it reports the current limit. -/
  curr : Nat
  limit : Bool
  deriving DecidableEq, Repr

/-- A group image (R250): valid flag, stamp, 16 input bits, 16 status bytes, four counter words. -/
structure GroupImage where
  valid : Bool
  stamp : Nat
  bits : Nat
  stat : List Nat
  words : List Nat
  deriving DecidableEq, Repr

/-- One group outside its registers (R250, R258, R266, R271). -/
structure Group where
  image : GroupImage
  mark : GroupImage
  /-- The filters are seeded at the next sample. -/
  seed : Bool
  /-- The output image applied last: its 16 command bits and stamp; whether it was judged invalid or stale. -/
  cmd : Nat
  stamp : Nat
  stale : Bool
  /-- The supply latch; whether L+ has lain above the warning-cleared and the recovery threshold for 100 ms; the last
  valid frame of the status link. -/
  latch : Bool
  aboveWarn : Bool
  aboveRec : Bool
  frame : Nat
  resetting : Bool
  deriving DecidableEq, Repr

/-- The off-pulse in progress (R263): its channel, whether it opens the permit switch, whether the switch is open,
when it opened, whether it is judged; the sense levels and currents of the before sample. -/
structure Pulse where
  ch : Nat
  permit : Bool
  opened : Bool
  openAt : Nat
  judged : Bool
  before : Nat
  currs : List Nat
  deriving DecidableEq, Repr

/-- The field channels outside their registers (R90, R247, R257): scanner and output stages run; the permit lanes as
Ranger drives them; groups whose front end has reported a temperature since power-on. -/
structure FieldIo where
  active : Bool
  chans : Tbl Chan
  groups : Tbl Group
  permits : Nat
  pulse : Option Pulse
  tempSeen : Nat
  deriving DecidableEq, Repr


/-! ### Logic engines -/

/-- An entry of the call stack (R184). -/
structure Frame where
  pc : Nat
  ip : Nat
  xr : Nat
  depth : Nat
  /-- The block the call came from, 255 for the main program. -/
  blk : Nat
  deriving DecidableEq, Repr

/-- An entry of an instance table (R201). -/
structure Inst where
  id : Nat
  off : Nat
  size : Nat
  kind : Nat
  deriving DecidableEq, Repr

/-- An initial-value record (R202). -/
structure InitRec where
  off : Nat
  data : List Byte
  deriving DecidableEq, Repr

/-- A retain map (R218): PROGID, ranges (offset, length), RMAPCRC. -/
structure RetainMap where
  progid : Nat
  ranges : List (Nat × Nat)
  crc : Nat
  deriving DecidableEq, Repr

/-- What the loader keeps with a bank (R184, R199 to R205). -/
structure Prog where
  progid : Nat
  progver : Nat
  cold : Bool
  sizes : List Nat
  insts : List Inst
  inits : List InitRec
  rmap : Option RetainMap
  clk : Nat
  bound : Nat
  deriving DecidableEq, Repr

/-- A retain copy (R219): the tag and the retained data. -/
structure Retain where
  engine : Nat
  progid : Nat
  rmapcrc : Nat
  consist : Nat
  car : Nat
  module : Nat
  cycle : Nat
  stamp : Nat
  data : List Byte
  deriving DecidableEq, Repr

/-- A published output image: valid flag, stamp, and the bytes from data memory offset 0x2000 on (R25, R208). -/
structure OutImage where
  valid : Bool
  stamp : Nat
  data : Tbl Byte
  deriving DecidableEq, Repr

/-- Why a restart runs (R215). -/
structure Restarting where
  /-- Warm as asked for (R216), and as it is carried out. -/
  warm : Bool
  cause : Nat
  deriving DecidableEq, Repr

/-- What the debugger has asked of a running engine (R234). -/
inductive DebugStop where
  | none | cycle | step
  deriving DecidableEq, Repr

/-- One logic engine outside its registers of R237. -/
structure Engine where
  pc : Nat
  ba : Bool
  wa : Word
  xr : Nat
  si : Bool
  ov : Bool
  ip : Nat
  bstack : List (Bool × Nat)
  cstack : List Frame
  /-- The body that executes, 255 for the main program. -/
  blk : Nat
  prog : Option Prog
  shadow : Option Prog
  /-- Between a take and the publish that ends its cycle. -/
  executing : Bool
  first : Bool
  changed : Bool
  /-- CYCLE of the next take, TAKE_US and the instant of the take in progress; whether this cycle is measured. -/
  cycle : Nat
  takeUs : Nat
  takeAt : Nat
  measured : Bool
  /-- The earliest deadline among the blocks executed in this cycle, and the one reported at the last END (R192). -/
  dl : Option Nat
  deadline : Option Nat
  pub : OutImage
  /-- The larger bound by which age is judged until the first publish after a swap, else 0 (R225). -/
  judge : Nat
  /-- The instant at which the gap of the last swap ends, and the program before it (R227, R236). -/
  swapped : Option (Nat × Prog)
  staging : List Byte
  /-- The LOAD in progress: image offset and length in shared SRAM, and the bound of the program that runs (R224,
  R225). -/
  load : Option (Nat × Nat × Option Nat)
  /-- Values committed with the force entries (R230). -/
  fval : Tbl Nat
  retain : Option Retain
  nand : Option Retain
  stop : Bool
  restart : Option Restarting
  /-- The restart is complete, or the start has given leave; the first take falls at the next cycle mark (R217, R92). -/
  await : Bool
  want : DebugStop
  replay : List LeWrite
  /-- The words of the image that each bank holds, bank 0 first (R161, R449). -/
  image0 : Nat
  image1 : Nat
  /-- The signature that the last END took (R156). -/
  signature : Nat
  deriving DecidableEq, Repr


/-! ### Ranger -/

/-- An entry of the connection table (R281). -/
structure RConn where
  src : Nat
  dst : Nat
  seed : Nat
  timeout : Nat
  sigbyte : Nat
  maxstep : Nat
  deriving DecidableEq, Repr

/-- An instance record (R282). -/
structure RInst where
  type : Nat
  flags : Nat
  cha : Nat
  chb : Nat
  p1 : Nat
  p2 : Nat
  p3 : Nat
  p4 : Nat
  ops : List Nat
  form : Nat
  deriving DecidableEq, Repr

/-- The parameter block (R281). -/
structure RParam where
  pmap : List Nat
  inputs : List (Nat × Nat)
  conns : List RConn
  insts : List RInst
  deriving DecidableEq, Repr

/-- A safe connection as Ranger judges it (R296, R297): the last accepted message (sequence, time, user data, plane,
tick), the alive reference, freshness, FLT with the sequence of the message whose copies differed, the signal word,
the last rejection and the counts. -/
structure RLink where
  accepted : Bool
  seq : Nat
  time : Nat
  user : List Byte
  plane : Nat
  tick : Nat
  alive : Option Nat
  fresh : Bool
  flt : Bool
  fltSeq : Nat
  sig : Nat
  lastRej : Nat
  rej : Nat
  tmo : Nat
  deriving DecidableEq, Repr

/-- A quadrature pair (R290): levels, position, and of the last edge its tick, its channel and the position before it;
until when an error holds; position changes, newest first. -/
structure RPair where
  la : Bool
  lb : Bool
  pos : Int
  lastTick : Nat
  lastB : Bool
  before : Int
  hold : Nat
  held : Bool
  hist : List (Nat × Int)
  deriving DecidableEq, Repr

/-- An instance in evaluation (R286, R288): Q, fault, value, and what its type keeps: a discrepancy (START, RUN,
DISC), the ZS times and last period in ticks (0: f_last is 0), the SLP and SDI origin, reference and violation. -/
structure REval where
  q : Bool
  flt : Nat
  val : Nat
  start : Nat
  run : Bool
  disc : Bool
  tFast : Nat
  dStart : Nat
  bStart : Nat
  period : Nat
  origin : Int
  refd : Bool
  viol : Bool
  deriving DecidableEq, Repr

/-- Ranger: its state of R280, what it chose from the key, its filters (count and value per input), edges (the last
three rising edges per channel), pairs, connections, instances, its last level samples, permits and readback. -/
structure Ranger where
  state : Nat
  area : Nat
  conf : Bool
  code : Nat
  inst : Option Nat
  pcrc : Nat
  gen : Nat
  param : Option RParam
  raw : Nat
  filters : List (Nat × Bool)
  edges : Tbl (Nat × Nat × Nat)
  pairs : Tbl RPair
  links : List RLink
  evals : List REval
  evcnt : Nat
  /-- Since which tick each channel's permit is low, and its last low sample; bit n of `pfail` as R299. -/
  lowAt : Tbl Nat
  lastLow : Tbl Nat
  pfail : Nat
  /-- The instants of the last mirror images, newest first (R304). -/
  images : List Nat
  deriving DecidableEq, Repr



/-! ### The vehicle key -/

/-- The vehicle key as the processor die sees it: the key seated in X2 (none where X2.9 is open), the latch contact
X2.11, whether the key has been removed or unlatched since the start (R97), what was read from it at this start (R69):
the serial, both journals with what the module has written into them since, the last valid history record, the area
and the image; the confirmation record being written with the slot it goes into (R97), and whether the history
comparison of R99 has been made at this start. -/
structure KeyBlk where
  mem : Option KeyMem
  latched : Bool
  lost : Bool
  serial : Nat
  comm : List (List Byte)
  hist : List (List Byte)
  last : Option (List Byte)
  area : Nat
  image : Option KeyArea
  conf : Option (Nat × List Byte)
  compared : Bool
  deriving DecidableEq, Repr

/-! ### Canopy -/

/-- A Rootway message on its way out (R403, R404): the ROOTWAY blaze it waits for (none: event-triggered), target node,
plane, bytes, the instant of its issue. -/
structure RwMsg where
  blz : Option Nat
  node : Nat
  plane : Nat
  bytes : List Byte
  at_ : Nat
  deriving DecidableEq, Repr

/-- An event-triggered frame that waits at a port (R309): whether it is of this module; the tunnel it belongs to and
the Rootway messages it carries, for an own frame; whether a copy of it has left, and with it passed the transmit stream
of the check-value units (R391). -/
structure EtFrame where
  own : Bool
  tun : Option Nat
  msgs : List RwMsg
  bytes : List Byte
  passed : Bool
  deriving DecidableEq, Repr

/-- One port's event-triggered queue (R310), oldest first, and whether the port is sending such a frame. -/
structure EtPort where
  queue : List EtFrame
  busy : Bool
  deriving DecidableEq, Repr

/-- One blaze outside its registers. Transmit: the stamp of the image sent last and the payload sent. Receive: the
cycle the next fields belong to; the planes whose copy arrived with a good FCS and passed R332 (bit p); the payloads
of those copies (plane, payload), the planes whose copy its safe context accepted, the check codes of the others
(plane, code); what the first accepted copy carried (REPEAT, NOTSAFE, sender node); whether a PWRFAIL copy came.
Across cycles: the data area and status word of the receive image, the cycle in which its content was first sent,
whether RUN has reached LOSSN since the data were last valid, whether its last delivery had both copies; the number
plus one of the cycle it was judged in last. -/
structure Blz where
  sent : Option Nat
  pay : List Byte
  cycle : Nat
  got : Nat
  copies : List (Nat × List Byte)
  safeOk : Nat
  safeBad : List (Nat × Nat)
  rep : Bool
  notsafe : Bool
  node : Nat
  pwrfail : Bool
  data : List Byte
  status : Nat
  first : Nat
  lost : Bool
  both : Bool
  judged : Nat
  deriving DecidableEq, Repr

/-- One host buffer (R331): for a transmit buffer the content of the front half (the back half is what memory shows),
and the stamp of the front half; whether the halves have been exchanged since the last reset (R346). -/
structure HBuf where
  front : List (Option Byte)
  stamp : Nat
  seen : Bool
  deriving DecidableEq, Repr

/-- One sync frame of the cycle (R326): its receive time, TXTIME and CORR. -/
structure SyncRx where
  rx : Nat
  txtime : Nat
  corr : Nat
  deriving DecidableEq, Repr

/-- A spare blaze that is claimed (R340): segment, FRAMEID, the holder's module serial, the number of the cycle EFFECT;
what this module's firmware asked for when it is the holder or listens. -/
structure Spare where
  seg : Nat
  fid : Nat
  serial : Nat
  effect : Nat
  deriving DecidableEq, Repr

/-- This module's use of a spare blaze (R341): transmit (from its own claim) or listen, SRC, engine, AREA, PAYLEN. -/
structure SpareUse where
  seg : Nat
  fid : Nat
  listen : Bool
  src : Bool
  eng : Nat
  area : Nat
  paylen : Nat
  deriving DecidableEq, Repr

/-- A claim that awaits EFFECT (R340): OP, segment, FRAMEID, the claimer's node ID, serial and CONSIST, the number of
the cycle in which it was made, whether it is this module's, and whether a later claim took it (lost to a lower node).
-/
structure Claim where
  op : Nat
  seg : Nat
  fid : Nat
  node : Nat
  serial : Nat
  consist : Nat
  cycle : Nat
  own : Bool
  deriving DecidableEq, Repr

/-- Canopy outside its registers: whether a blaze table is admitted; port queues; planes in reset; blazes; host
buffers; the sync frames of the cycle (by slot × 2 + plane); whether the last cycle applied a step and how many cycles
in a row had no valid frame; the rate correction in ppb and the deviation still to be slewed in 1/8 ns; the running
cycle for R338: SYNCED at its mark, its sync set was good, the first reason it failed for; R92: a full valid cycle was
seen since the inauguration; whether the module runs as a train of one (R93); whether a blaze count rose and whether
another node's blaze was accepted in the running cycle; claims, spare blazes, own claims and releases whose frame has
not left; whether own blazes may carry PWRFAIL (R337); by plane, the sum in 1/8 ns and the number of the residence
times measured (R324, R360). -/
structure Canopy where
  admitted : Bool
  ports : Tbl EtPort
  planeReset : Nat
  blz : Tbl Blz
  hbufs : Tbl HBuf
  sync : Tbl SyncRx
  stepped : Bool
  missed : Nat
  rate : Int
  slew : Int
  syncedAtMark : Bool
  syncGood : Bool
  why : Nat
  observed : Bool
  alone : Bool
  rose : Bool
  heard : Bool
  claims : List Claim
  spares : List Spare
  uses : List SpareUse
  asked : List Claim
  flushSends : Bool
  resid : Tbl (Nat × Nat)
  deriving DecidableEq, Repr

/-! ### Train fabric -/

/-- What a HELLO told of the neighbour on a port (R354). -/
structure Nbr where
  serial : Nat
  domain : Nat
  side : Nat
  deriving DecidableEq, Repr

/-- One port in the train fabric: its neighbour; the DREQ exchanges made and the sum of their delays in 1/2 ns (R360),
T1 of the exchange in progress, the node's own result; whether the link carries traffic (R352), whether it is measured
outside an inauguration (R350), when it went down. -/
structure PortLink where
  nbr : Option Nbr
  exch : Nat
  sum : Int
  t1 : Option Nat
  delay : Option Nat
  used : Bool
  late : Bool
  downAt : Nat
  deriving DecidableEq, Repr

/-- One node of a built train (R359): its RECORD payload; CONSIST position, FACING; its run of nodes with one serial;
how far along the chain it stands. -/
structure TNode where
  body : List Byte
  pos : Nat
  facing : Bool
  deriving DecidableEq, Repr

/-- A consist of the train (R319, R320, R356): its serial, the segment it holds, the BLAZES entries it announced and
its HOMESEG. -/
structure Consist where
  serial : Nat
  seg : Option Nat
  home : Nat
  entries : List Nat
  deriving DecidableEq, Repr

/-- A train as built from the RECORDs (R359): nodes in node ID order, whether it is a ring, the index of this node
(none where it is excluded), the consists, the sync slots (slot, node ID), TOPOCRC; the serials of every node of the
chain. -/
structure Train where
  nodes : List TNode
  chain : List Nat
  ring : Bool
  own : Option Nat
  consists : List Consist
  slots : List (Nat × Nat)
  crc : Nat
  deriving DecidableEq, Repr

/-- The train fabric outside its registers: the INA of the last inauguration and the highest seen; the instants of the
trigger and of t_s, and whether that is of a START; links by port; RECORD payloads, BLAZES payloads and DIGESTs
(serial, TOPOCRC, NNODES) collected in this inauguration; flood frames already forwarded (serial, INA, OP, PART,
plane); the train built and the committed one; TOPOCRC of the last commit; a the instant of a trigger that is held;
EFFECT once a COMMIT matched; whether this node is of the prevailing part, is stepping to SYNCED after EFFECT; the
ports that had a link in the train at the last commit; whether an inauguration has been started since the start
(R350). -/
structure Fabric where
  ina : Nat
  top : Nat
  trigAt : Nat
  tS : Nat
  tsFirm : Bool
  links : Tbl PortLink
  records : List (List Byte)
  blazes : List (List Byte)
  digests : List (Nat × Nat × Nat)
  seen : List (Nat × Nat × Nat × Nat × Nat)
  built : Option Train
  table : Option Train
  prevCrc : Nat
  heldTrigger : Option Nat
  effect : Option Nat
  doneAt : Nat
  completing : Bool
  inTrain : Nat
  started : Bool
  deriving DecidableEq, Repr

/-! ### Safe connections -/

/-- One safe connection context outside its registers (R381 to R389): the alive reference; the SEQ of the last accepted
message, none since freshness was last lost; the instant of the last delivery; the ALIVE of the next message built. -/
structure Ctx where
  alive : Option Nat
  seq : Option Nat
  at_ : Nat
  nextAlive : Nat
  deriving DecidableEq, Repr

/-- The running value of a unit in window mode: the value, the instant of the last write it ran over, and the value that
the writes of that instant alone give, which stands after a RESTART in the same clock (R391, R395). -/
structure UnitRun where
  v : Nat
  at_ : Nat
  same : Nat
  deriving DecidableEq, Repr

/-- The check-value block outside its registers: contexts; the running value of each unit in window mode, before the
final XOR; results that a unit is about to show (unit, value, whether it is of a frame), oldest first; whether a reset
runs; the cycle number plus one in which each of sources 144 to 148 was raised last (R396). -/
structure Cvu where
  ctxs : Tbl Ctx
  running : Tbl UnitRun
  results : List (Nat × Nat × Bool)
  resetting : Bool
  raised : Tbl Nat
  deriving DecidableEq, Repr

/-! ### Rootway -/

/-- A blocking operation of a hart, or a doorbell poll (hart none): window, OP, log2 of the size, AMO function, offset,
data; aperture, route, target node, tag, plane, instant of issue; whether it waits after a RETRY (R415). -/
structure RwOp where
  hart : Option Nat
  window : Nat
  op : Nat
  size : Nat
  fn : Nat
  off : Nat
  data : Nat
  aper : Nat
  route : Option Nat
  node : Nat
  tag : Nat
  plane : Nat
  at_ : Nat
  retry : Bool
  deriving DecidableEq, Repr

/-- A posted write (R408): what the log needs, its tag, and the instant it was sent. -/
structure RwPost where
  window : Nat
  off : Nat
  size : Nat
  node : Nat
  tag : Nat
  at_ : Nat
  deriving DecidableEq, Repr

/-- A request in the stall queue (R413). -/
structure RwIn where
  node : Nat
  plane : Nat
  msg : List Byte
  deriving DecidableEq, Repr

/-- A lock: at an own aperture, its holder and the instant of its grant or renewal (R414); for a hart, the target it
holds a lock at, and the instant at which its grant or renewal arrived. -/
structure RwLock where
  node : Nat
  at_ : Nat
  deriving DecidableEq, Repr

structure RwHeld where
  hart : Nat
  window : Nat
  node : Nat
  aper : Nat
  plane : Nat
  at_ : Nat
  deriving DecidableEq, Repr

/-- A hart that waits at a fence (R411): its window and the tags of the posted writes it waits for. -/
structure RwFence where
  hart : Nat
  window : Nat
  tags : List Nat
  deriving DecidableEq, Repr

/-- Rootway outside its registers: messages out, operations in progress, posted writes, the next tag, the first
failure of each window since its last fence read, fences, locks at own apertures, the stall queue, the hold of R415,
locks held by own harts, whether a reset runs. -/
structure Rootway where
  out : List RwMsg
  ops : List RwOp
  posted : List RwPost
  tag : Nat
  fails : Tbl Nat
  fences : List RwFence
  locks : Tbl RwLock
  stall : List RwIn
  hold : Bool
  held : List RwHeld
  resetting : Bool
  deriving DecidableEq, Repr

/-! ### Understory -/

/-- A frame that a tunnel queues (R420): PTYPE, SEQ, TSTAMP, frame record. -/
structure TunFrame where
  ptype : Nat
  seq : Nat
  stamp : Nat
  body : List Byte
  deriving DecidableEq, Repr

/-- One tunnel (R419, R420): frames of the local port that wait to be sent to the peer and the next SEQ; frames from
the peer that wait for the local port, in SEQ order; the SEQ sent last; a frame with fragments still to come, and the
index of the next one; the SEQ of the frame counted last as lacking a fragment. -/
structure Tunnel where
  away : List TunFrame
  seq : Nat
  home : List TunFrame
  last : Option Nat
  part : Option (TunFrame × Nat)
  lacking : Option Nat
  deriving DecidableEq, Repr

/-- What a port is sending. -/
inductive Sending where
  | idle
  /-- The record at TXHEAD. -/
  | ring
  | other
  deriving DecidableEq, Repr

/-- One understory port (R422 to R425): SEQ of the next ring record; what it is sending; the values of the MVB source
ports by port address; whether a reset runs. -/
structure UPort where
  seq : Nat
  sending : Sending
  values : Tbl (List Byte)
  resetting : Bool
  deriving DecidableEq, Repr

structure Understory where
  tunnels : Tbl Tunnel
  ports : Tbl UPort
  deriving DecidableEq, Repr

/-! ### Firmware update -/

/-- One slot in NAND (R532): the state of R533 and TRIALS in the slot records, the header, the committed piece records
of R531 by index, and how many of its 1024 blocks have been retired. -/
structure FwSlot where
  state : Nat
  trials : Nat
  header : List Byte
  pieces : Tbl (List Byte)
  retired : Nat
  deriving DecidableEq, Repr

/-- A command of R535 in progress: OP, slot, the bytes it read from shared SRAM, the address, the instant of the write.
-/
structure FwRun where
  op : Nat
  slot : Nat
  data : List Byte
  addr : Nat
  at_ : Nat
  deriving DecidableEq, Repr

/-- Seedling (R544): the source of the image it takes (0 = X3, else a node ID), the fragments of the header and the
header once it verified, the slot it writes, the GET that is outstanding (first index, number, instant), fragments of
pieces by index × 8 + FRAG. -/
structure Seed where
  src : Option Nat
  parts : Tbl (List Byte)
  header : Option (List Byte)
  slot : Nat
  get : Option (Nat × Nat × Nat)
  frags : Tbl (List Byte)
  deriving DecidableEq, Repr

/-- The pause of R540: the instant of acceptance, the step reached, and an attach of the debugger that waits for its
end (R547). -/
structure FwPause where
  at_ : Nat
  step : Nat
  attach : Attach
  deriving DecidableEq, Repr

/-- Firmware update outside its registers: slots; the command in progress; the pause; since when LINK to NOPERM of R539
have held; Seedling, and whether the next start must enter it; the slot booted, none before the firmware load phase or
in Seedling; the cycle number plus one in which source 229 was raised last. -/
structure Firmware where
  slots : Tbl FwSlot
  run : Option FwRun
  pause : Option FwPause
  condSince : Option Nat
  seed : Option Seed
  toSeed : Bool
  booted : Option Nat
  served : Nat
  deriving DecidableEq, Repr

/-! ### Low-power states -/

/-- An entry to Slumber or Hibernate in progress, or Slumber (R505, R510): Hibernate, the instant of acceptance,
whether the mark of step 3 has passed, whether the soft repairs and the depot run of step 5 are begun, whether Slumber
is reached, and whether a wake waits for the depot run to end (R461). -/
structure LowPower where
  hib : Bool
  at_ : Nat
  left : Bool
  repaired : Bool
  reached : Bool
  woken : Bool
  deriving DecidableEq, Repr

/-- The power manager outside its registers: the entry or Slumber; the instant at which an engine last became UNLOADED,
STOPPED or FAULTED; the count that the copies of global time were set to last, and whether a step of global time has
still to reach them (R516); by wake source, one more than the instant at which its feed, channel or blaze met its
condition last since the last entry was accepted (R508). -/
structure PowerMgr where
  low : Option LowPower
  idleAt : Tbl Nat
  copies : Nat
  stepDue : Bool
  edges : Tbl Nat
  deriving DecidableEq, Repr

/-! ### The machine -/

/-- The state of the module. -/
structure State where
  /-- The commands that wait, first in, first out. -/
  pending : List Instr
  /-- Global time in ns at the latest command that carries a time. -/
  now : Nat
  /-- Every register field that differs from its power-on value, keyed by `Fld.key`. -/
  regs : Tbl Nat
  /-- The bits that events have set in register fields in the running fabric clock, by `Fld.key` (R17). -/
  hits : Tbl Nat
  /-- Every byte of shared SRAM, DRAM and host buffers that has been written since power-on, by physical address. -/
  mem : Tbl Byte
  /-- Program banks and data memories of the logic engines, by physical address; unlisted bytes are 0 (R161, R165). -/
  leMem : Tbl Byte
  /-- What the last command answered, and what it made the module send. -/
  resp : Resp
  out : List Emission
  /-- The model's own counter of free values taken (`Config.freeValue`). -/
  fresh : Nat
  pw : Power
  rcd : Recorder
  std : Tbl Stand
  lko : Lookout
  dbg : Attach
  cop : Coppice
  ecc : Ecc
  io : FieldIo
  eng : Tbl Engine
  rng : Ranger
  key : KeyBlk
  cnp : Canopy
  fab : Fabric
  cvu : Cvu
  rwy : Rootway
  ust : Understory
  fwu : Firmware
  pmg : PowerMgr
  deriving DecidableEq, Repr

/-- Why the machine stops: no command of this module stops it, so there is no fault. -/
inductive Fault where
  /-- Raised by nothing; safe. -/
  | unreachable
  deriving DecidableEq, Repr

/-- What has no meaning in this model. -/
inductive Refusal where
  /-- The command has not been given a meaning yet; raised by its arm of `exec`; safe. -/
  | notModelled (mnemonic : String)
  deriving DecidableEq, Repr

/-- A feed not yet judged (R49). -/
def feedInit : Feed := ⟨false, false, false⟩

/-- No start has run. -/
def startInit : Start :=
  { at_ := 0, keyPhase := false, keyRead := false, applied := false, firmware := false, recStart := false, measure := false,
    ready := false, wasReady := false, ran := false, serviced := false, joined := false }

/-- The always-on island at power-on. -/
def powerInit : Power :=
  { phase := .off, feedA := feedInit, feedB := feedInit, t0 := 0, failing := false, start := startInit, seqr := 0xFF, seqNext := [],
    vFlush := 0, refused := 0, stgLost := 0, sealed := false,
    exhausted := false }

/-- The recorder of a module whose NAND holds no record (R491). -/
def recorderInit : Recorder :=
  { queue := [], next := 0, staged := [], head := 0, cut := 0, cutPage := 0, early := 0, own := [], flush := none,
    lastFlushEnd := 0, drops := none, read := none, resetting := false, wrote := [], rings := [], heart := [], spares := [], pages := 0, ringCap := 98304,
    heartOpen := false, heartFull := false, heartClosed := false }

/-- Nothing latched. -/
def latchInit : Latch := ⟨0, false, 0⟩

/-- A stand before it forms. -/
def standInit : Stand :=
  { formed := false, reserve := [], request := none, run := none, wfi := false, agreed := latchInit, outvoted := [],
    mext := false, sext := false, mtimer := false, mtimerB := false, mtimerC := false, haltReq := false, replay := [],
    resetting := none, wakeAt := none, entry := none, splitEntry := none, asleep := 0, slow := 0, arch := [] }

/-- Lookout before its first service. -/
def lookoutInit : Lookout := ⟨0, none, false⟩

/-- Coppice on a module with no retired part (a DESIGN CHOICE: the spec gives no content for fuses and log). -/
def coppiceInit : Coppice :=
  { fuses := ⟨0, 0, []⟩, proven := 0, testing := 0, laneTest := 0, fenced := 0, laneFenced := 0, provenOther := 0,
    run := none, waiting := none, depot := none, log := [], due := [], rowsUsed := [], ctlSpare := [], softRows := [], hardUsed := 0, nandRetired := 0, nandSpare := 2621, planeDead := 0,
    unitDead := 0, safeDead := false, sparesAtStart := 0 }

/-- Every row sound, nothing running. -/
def eccInit : Ecc := ⟨[], none, [], none, []⟩

/-- A channel at a start. -/
def chanInit : Chan :=
  { c := 0, y := false, bit := false, word := 0, level := false, count := 0, qerr := 0, down := false, gate := none,
    gated := false, moved := 0, miss := 0, frozen := 0, want := false, since := 0, pulsed := 0, permitNext := false,
    latch := 0, tripAt := 0, curr := 0, limit := false }

/-- A group image not yet published. -/
def groupImageInit : GroupImage := ⟨false, 0, 0, [], []⟩

/-- A group at a start. -/
def groupInit : Group :=
  { image := groupImageInit, mark := groupImageInit, seed := true, cmd := 0, stamp := 0, stale := true, latch := false,
    aboveWarn := false, aboveRec := false, frame := 0, resetting := false }

/-- No switch closed, no scanner. -/
def fieldInit : FieldIo := ⟨false, [], [], 0, none, 0⟩

/-- An engine without a program. -/
def engineInit : Engine :=
  { pc := 0, ba := false, wa := 0, xr := 0, si := false, ov := false, ip := 0, bstack := [], cstack := [], blk := 255,
    prog := none, shadow := none, executing := false, first := false, changed := false, cycle := 0, takeUs := 0,
    takeAt := 0, measured := true, dl := none, deadline := none, pub := ⟨false, 0, []⟩, judge := 0, swapped := none,
    staging := [], load := none, fval := [], retain := none, nand := none, stop := false, restart := none, await := false,
    want := .none, replay := [], image0 := 0, image1 := 0, signature := 0 }

/-- Ranger at a power-on (R280). -/
def rangerInit : Ranger :=
  { state := 0, area := 0, conf := false, code := 0, inst := none, pcrc := 0, gen := 0, param := none, raw := 0,
    filters := [], edges := [], pairs := [], links := [], evals := [], evcnt := 0, lowAt := [], lastLow := [],
    pfail := 0, images := [] }

/-- No key has been seated. -/
def keyInit : KeyBlk := ⟨none, false, false, 0, [], [], none, 0, none, none, false⟩

/-- An idle port queue; a blaze at a start (R369); a host buffer never committed. -/
def etPortInit : EtPort := ⟨[], false⟩
def blzInit : Blz :=
  { sent := none, pay := [], cycle := 0, got := 0, copies := [], safeOk := 0, safeBad := [], rep := false,
    notsafe := false, node := 0, pwrfail := false, data := [], status := 2, first := 0, lost := false, both := false,
    judged := 0 }
def hbufInit : HBuf := ⟨[], 0, false⟩

/-- Canopy at a start. -/
def canopyInit : Canopy :=
  { admitted := false, ports := [], planeReset := 0, blz := [], hbufs := [], sync := [], stepped := false, missed := 0,
    rate := 0, slew := 0, syncedAtMark := false, syncGood := false, why := 0, observed := false, alone := false,
    rose := false, heard := false, claims := [], spares := [], uses := [], asked := [],
    flushSends := false, resid := [] }

/-- A port without a neighbour; the train fabric before the first inauguration. -/
def portLinkInit : PortLink := ⟨none, 0, 0, none, none, false, false, 0⟩
def fabricInit : Fabric :=
  { ina := 0, top := 0, trigAt := 0, tS := 0, tsFirm := false, links := [], records := [], blazes := [], digests := [], seen := [], built := none,
    table := none, prevCrc := 0, heldTrigger := none, effect := none, doneAt := 0, completing := false,
    inTrain := 0, started := false }

/-- Contexts and units at a start. -/
def ctxInit : Ctx := ⟨none, none, 0, 0⟩
def cvuInit : Cvu := ⟨[], [], [], false, []⟩

/-- Rootway at a start. -/
def rootwayInit : Rootway :=
  { out := [], ops := [], posted := [], tag := 0, fails := [], fences := [], locks := [], stall := [], hold := false,
    held := [], resetting := false }

/-- Tunnels and ports with nothing queued. -/
def tunnelInit : Tunnel := ⟨[], 0, [], none, none, none⟩
def uportInit : UPort := ⟨0, .idle, [], false⟩
def understoryInit : Understory := ⟨[], []⟩

/-- An EMPTY slot (R533); a slot with the firmware that a module is delivered with (R2). -/
def slotInit : FwSlot := ⟨0, 0, [], [], 0⟩
def slotDelivered (state : Nat) : FwSlot := ⟨state, 0, Config.deliveredHeader, Config.deliveredPieces, 0⟩

/-- The delivered firmware in both slots (R2): slot 0 ACTIVE, slot 1 FALLBACK (DESIGN CHOICE, log entry 12). Nothing is
booted. -/
def firmwareInit : Firmware :=
  { slots := [(0, slotDelivered 5), (1, slotDelivered 6)], run := none, pause := none, condSince := none, seed := none, toSeed := false,
    booted := none, served := 0 }

/-- Every unit and the module in Run. -/
def powerMgrInit : PowerMgr := ⟨none, [], 0, false, []⟩

/-- The module right after a power-on reset: every register field at its Reset column's P value (R18), memory not yet
written, nothing running; no command waits. -/
def State.reset : State :=
  { pending := [], now := 0, regs := [], hits := [], mem := [], leMem := [], resp := .none, out := [], fresh := 0, pw := powerInit,
    rcd := recorderInit, std := [], lko := lookoutInit, dbg := .none, cop := coppiceInit,
    ecc := eccInit, io := fieldInit, eng := [], rng := rangerInit, key := keyInit,
    cnp := canopyInit, fab := fabricInit, cvu := cvuInit, rwy := rootwayInit, ust := understoryInit,
    fwu := firmwareInit, pmg := powerMgrInit }

end Sys2Proof.Machine
end

