-- ==== Sys2Proof/Machine/Ops.lean ====
section
/-!
DEFINITION. The named operations that every block uses: reading and writing register fields (R16), counters that
saturate, stamps of global time, the resets that restore fields by letter (R18), raising an event (R147), offering a
record to the recorder (R476 to R478, R487), and reading and writing bytes of memory.
-/

namespace Sys2Proof.Machine

/-! ### Register fields -/

/-- The value of a field. -/
def State.rd (s : State) (f : Fld) : Nat := tblGet f.rst f.key s.regs

/-- The bits of a field that an event has set in the running fabric clock: they win over a write or a read that clears
them in that clock (R17). -/
def State.hit (s : State) (f : Fld) : Nat := tblGet 0 f.key s.hits

/-- The bits that storing v over `old` in a field of width w sets: those that rise, and a one-bit field stored as 1. -/
def risen (w old v : Nat) : Nat := if w = 1 then v else v - (v &&& old)

/-- Store a value in a field, cut to the field's width; the bits that rise are noted for R17. -/
def State.wr (s : State) (f : Fld) (v : Nat) : State :=
  { s with
    regs := tblSet f.rst f.key (v % 2 ^ f.w) s.regs
    hits := tblSet 0 f.key (s.hit f ||| risen f.w (s.rd f) (v % 2 ^ f.w)) s.hits }

/-- Whether a one-bit field is 1. -/
def State.flag (s : State) (f : Fld) : Bool := s.rd f == 1

/-- Store a truth value in a one-bit field. -/
def State.wrB (s : State) (f : Fld) (b : Bool) : State := s.wr f (b2n b)

/-- Bit i of a field that is a mask. -/
def State.bit (s : State) (f : Fld) (i : Nat) : Bool := bitAt (s.rd f) i

/-- Bits of a field that an event sets count for R17 also where they were set before. -/
def State.note (s : State) (f : Fld) (m : Nat) : State := { s with hits := tblSet 0 f.key (s.hit f ||| m) s.hits }

/-- Store bit i of a field that is a mask. -/
def State.wrBit (s : State) (f : Fld) (i : Nat) (b : Bool) : State :=
  (s.wr f (setBit (s.rd f) i b)).note f (if b then 2 ^ i else 0)

/-- Add to a counter that stops at all ones. -/
def State.bump (s : State) (f : Fld) (n : Nat := 1) : State := s.wr f (sat f.w (s.rd f + n))

/-- Add one to a counter that wraps. -/
def State.tick (s : State) (f : Fld) : State := s.wr f (s.rd f + 1)

/-- Keep the larger of a field and a value, the value cut at all ones. -/
def State.maxWr (s : State) (f : Fld) (v : Nat) : State := s.wr f (max (s.rd f) (sat f.w v))

/-- A 64-bit value held in a LO and a HI field. -/
def State.rd64 (s : State) (lo hi : Fld) : Nat := s.rd lo + 2 ^ 32 * s.rd hi

/-- Store a 64-bit value in a LO and a HI field. -/
def State.wr64 (s : State) (lo hi : Fld) (v : Nat) : State := (s.wr lo v).wr hi (v / 2 ^ 32)

/-- The stored word of the register at an address, read or not: its fields at their places, reserved bits 0 (R15). -/
def State.word (s : State) (addr : Nat) : Nat :=
  match regFields addr with
  | none => 0
  | some fs => fs.foldl (fun w f => w + 2 ^ f.lo * tblGet f.rst (Fld.at addr f.lo f.w f.rst).key s.regs) 0

/-- Store a whole word in the fields of a register, as key apply does (R80). -/
def State.putWord (s : State) (addr v : Nat) : State :=
  match regFields addr with
  | none => s
  | some fs => fs.foldl (fun s f => s.wr (Fld.at addr f.lo f.w f.rst) (bitsAt v f.lo f.w)) s

/-- The command's instant: global time moves to it, and what the last command answered and sent is gone. Instants are in
ns and a fabric clock lasts 1.25 ns (R513): commands of one instant fall into one fabric clock. -/
def State.begin (s : State) (t : Nat) : State :=
  { s with now := t, resp := .none, out := [], hits := if t = s.now then s.hits else [] }

/-- Whether the processor die is powered and the mirror link runs: also in flush mode, until the park (R61, R280). -/
def State.dieRuns (s : State) : Bool := s.pw.phase == .running || s.pw.phase == .locking || s.pw.phase == .flush

/-- As `begin`, for a command that carries no time. -/
def State.fresh0 (s : State) : State := { s with resp := .none, out := [] }

/-- Answer the commander. -/
def State.answer (s : State) (r : Resp) : State := { s with resp := r }

/-- Send something. -/
def State.emit (s : State) (e : Emission) : State := { s with out := s.out ++ [e] }

/-- The condition of wake source i is met at this instant: a feed, a channel or the wake blaze (R508). -/
def State.wakeEdge (s : State) (i : Nat) : State :=
  { s with pmg := { s.pmg with edges := tblSet 0 i (s.now + 1) s.pmg.edges } }

/-- Take a free value: one that the spec leaves open while the machine goes on. -/
def State.free (s : State) : Nat × State :=
  ((Config.freeValue s.fresh).toNat, { s with fresh := s.fresh + 1 })

/-! ### Resets by letter (R18) -/

/-- Restore the fields that carry a letter and whose address the reset reaches: their entries leave the table, so they
read their reset value. -/
def State.restore (s : State) (letter : Letters → Bool) (reach : Nat → Bool) : State :=
  { s with regs := tblKeep (fun k => !(reach (keyAddr k) && ((rowFieldOfKey k).any fun f => letter f.on))) s.regs }

/-- As `restore` for a function reset, for the fields alone that report the state of a block: settings and counters keep
their values (R507, R522). -/
def State.restoreShown (s : State) (reach : Nat → Bool) : State :=
  { s with regs := tblKeep (fun k =>
      !(reach (keyAddr k) && ((rowFieldOfKey k).any fun f => f.on.f && f.acc == .ro))) s.regs }

/-! ### Events (R147) -/

/-- Set the pending bit of a source for one stand. -/
def State.pendFor (s : State) (n k : Nat) : State := s.wrBit (STD_Sk_PENDj k (n / 32)) (n % 32) true

/-- Whether the pending bit of a source is set for a stand. -/
def State.pends (s : State) (n k : Nat) : Bool := s.bit (STD_Sk_PENDj k (n / 32)) (n % 32)

/-- An event source asserts: a pending bit is set for every stand in its STANDS mask; a source of priority 0 sets
nothing (R147). -/
def State.raise (s : State) (n : Nat) : State :=
  if s.rd (STD_EVTi_ROUTE_PRIO n) = 0 then s
  else [0, 1, 2, 3].foldl (fun s' k => if s.bit (STD_EVTi_ROUTE_STANDS n) k then s'.pendFor n k else s') s

/-! ### Records (R473 to R478, R487) -/

/-- The classes the reserve of R487 is kept for. -/
def reservedClass (cls : Nat) : Bool := cls == 1 || cls == 2 || cls == 6 || cls == 8

/-- The index of REC_DROPSRC of a source (R476): sources 0x20 + h count at 32 + h. -/
def dropIndex (src : Nat) : Nat := src

/-- A record is dropped and counted; the first drop enters OVERLOAD and raises source 209 (R487). -/
def State.dropRecord (s : State) (cls src time : Nat) : State :=
  let d := s.rcd.drops.getD
    { firstSeq := s.rcd.next - 1, firstTime := time, lastTime := time, total := 0, bySrc := [], byCls := [] }
  let d := { d with
    lastTime := time
    total := d.total + 1
    bySrc := tblSet 0 src (tblGet 0 src d.bySrc + 1) d.bySrc
    byCls := tblSet 0 cls (tblGet 0 cls d.byCls + 1) d.byCls }
  let was := s.flag REC_STAT_OVERLOAD
  let s := { s with rcd := { s.rcd with drops := some d } }
  let s := ((s.bump REC_DROP_TOT).bump (REC_DROPSRCi (dropIndex src))).bump (REC_DROPCLSc cls)
  let s := (s.wr REC_STAT_DROPEV 1).wr REC_STAT_OVERLOAD 1
  if was then s else s.raise 209

/-- Replace the ingress queue; REC_QFILL counts it. -/
def State.setQueue (s : State) (q : List Desc) : State :=
  { s with rcd := { s.rcd with queue := q } }.wr REC_QFILL_N q.length

/-- Offer a descriptor to the ingress queue of 2048 (R478): refused and counted after the seal point (R492), dropped
in OVERLOAD or where no descriptor is left for its class (R487), queued otherwise. The answer says whether it was
queued. -/
def State.offer (s : State) (d : Desc) (cls src time : Nat) : Bool × State :=
  if s.pw.phase = .flush then
    (false, if s.pw.sealed then s else { s with pw := { s.pw with refused := s.pw.refused + 1 } })
  else if s.pw.phase = .hibernate ∨ s.pw.phase = .off then (false, s)
  else if s.flag REC_STAT_OVERLOAD && !reservedClass cls then (false, s.dropRecord cls src time)
  else if (if reservedClass cls then 2048 else 1984) ≤ s.rcd.queue.length then (false, s.dropRecord cls src time)
  else (true, s.setQueue (s.rcd.queue ++ [d]))

/-- Whether TIME is taken in SYNCED, HOLDOVER or ALONE (R474). -/
def State.tsync (s : State) : Bool :=
  let st := s.rd CNP_SYNC_STAT_STATE
  st == 0 || st == 2 || st == 3

/-- A block writes a hardware record (R477): class, source, KIND (the event source raised with it, 0xFF if none), OBJ,
and the addresses of the registers that W0 and W1 show as they read after the event. -/
def State.record (s : State) (cls src kind obj : Nat) (w0 w1 : Option Nat := none) : State :=
  (s.offer (.hw cls src kind obj ((w0.map s.word).getD 0) ((w1.map s.word).getD 0) s.now s.tsync) cls src s.now).2

/-! ### Engines -/

def State.engine (s : State) (e : Nat) : Engine := tblGet engineInit e s.eng
def State.setEngine (s : State) (e : Nat) (x : Engine) : State := { s with eng := tblSet engineInit e x s.eng }

/-! ### Memory -/

/-- The byte at a physical address of shared SRAM, DRAM or a host buffer: what was written, or content that no reset
initialises (R20, a free value). -/
def State.byte (s : State) (a : Nat) : Byte := (tblFind a s.mem).getD (Config.unwritten a)

/-- Bytes from an address on. -/
def State.bytes (s : State) (a n : Nat) : List Byte := (List.range n).map fun i => s.byte (a + i)

/-- Write one byte. -/
def State.putByte (s : State) (a : Nat) (b : Byte) : State := { s with mem := tblPut a b s.mem }

/-- Write bytes from an address on. -/
def State.putBytes (s : State) (a : Nat) : List Byte → State
  | [] => s
  | b :: r => (s.putByte a b).putBytes (a + 1) r

/-- Start of shared SRAM and of the recorder's staging buffer in it (R479, R565). -/
def sramBase : Nat := 0x01000000
def stagingOff : Nat := 0xF00000

end Sys2Proof.Machine
end

