-- ==== Sys2Proof/Machine/Coppice.lean ====
section
/-!
DEFINITION. Cores, spares and lanes as Coppice keeps them: the core map, retiring, the field repair log, the spare
pools, and the runs Coppice starts itself (R103 to R105, R118, R455 to R468).
-/

namespace Sys2Proof.Machine

/-! ### The field repair log and the pools -/

/-- The 32 bytes of a log entry (R463). -/
def repairBytes (x : RepairEntry) : List Byte :=
  let b := leBytes 2 x.type ++ leBytes 2 0 ++ leBytes 4 x.what ++ leBytes 8 x.time ++ leBytes 4 x.info ++ leBytes 8 0
  b ++ leBytes 4 (crc32c b)

/-- The entry in one copy, where its CRC is valid. -/
def repairOf (b : List Byte) : Option RepairEntry :=
  if b.length = 32 ∧ leAt 28 4 b = crc32c (b.take 28) then some ⟨leAt 0 2 b, leAt 4 4 b, leAt 8 8 b, leAt 16 4 b⟩ else none

/-- An entry is used when it is valid in either copy. -/
def repairRead (x : List Byte × List Byte) : Option RepairEntry := (repairOf x.1).or (repairOf x.2)

/-- What a write of an entry leaves in the two copies, written one after the other: one that fails leaves the second
erased (DESIGN CHOICE, log entry 122). -/
def repairCopies (x : RepairEntry) (werr : Bool) : List Byte × List Byte :=
  (repairBytes x, if werr then List.replicate 32 0xFF else repairBytes x)

/-- Write an entry to the field repair log (R463): the last free one sets FULL and raises source 46 (R470). A full log
leaves the repair to this run only, and an alarm record is written (R468); `werr` says that a write to one copy
failed. -/
def State.logRepair (s : State) (type what info : Nat) (werr : Bool := false) : State :=
  if 4096 ≤ s.cop.log.length then
    ((s.wr CPC_LOG_FULL 1).raise 46).record 2 6 46 0xFFFF (some 0x10500000) (some 0x1050001C)
  else
    let s : State := { s with cop := { s.cop with log := s.cop.log ++ [repairCopies ⟨type, what, s.now, info⟩ werr] } }
    let s := s.wr CPC_LOG_USED s.cop.log.length
    let s := if 4096 ≤ s.cop.log.length then (s.wr CPC_LOG_FULL 1).raise 46 else s
    if werr then (s.wr CPC_LOG_WERR 1).raise 46 else s

/-- A pool falls from `b` to `a` of its initial size: at a quarter, and again when empty, LOWEV sets and source 44 is
raised (R468). -/
def State.poolFall (s : State) (b a initial : Nat) : State :=
  if (4 * a ≤ initial && decide (initial < 4 * b)) || (a == 0 && decide (0 < b)) then (s.wr CPC_STAT_LOWEV 1).raise 44
  else s

/-- A spare was needed and none is left: an alarm record is written (R468). -/
def State.poolEmpty (s : State) : State := s.record 2 6 44 0xFFFF (some 0x10500000) none

/-! ### Cores -/

/-- The lane fields of STD_Sk_LANES. -/
def laneFld (k l : Nat) : Fld :=
  if l = 0 then STD_Sk_LANES_LANEA k else if l = 1 then STD_Sk_LANES_LANEB k else STD_Sk_LANES_LANEC k

/-- The core of lane l of stand k; 15 = none. -/
def State.laneCore (s : State) (k l : Nat) : Nat := s.rd (laneFld k l)

/-- Whether lane l of stand k is fenced. -/
def State.laneFenced (s : State) (k l : Nat) : Bool := s.bit (STD_Sk_LANES_FENCED k) l

/-- Stand k outside its registers. -/
def State.stand (s : State) (k : Nat) : Stand := tblGet standInit k s.std

/-- Replace stand k outside its registers. -/
def State.setStand (s : State) (k : Nat) (x : Stand) : State := { s with std := tblSet standInit k x s.std }

def State.coreRetired (s : State) (c : Nat) : Bool := s.bit CPC_CORE_RETIRED c
def State.coreSuspect (s : State) (c : Nat) : Bool := s.bit CPC_CORE_SUSPECT c
def State.coreTesting (s : State) (c : Nat) : Bool := bitAt s.cop.testing c
def State.coreProven (s : State) (c : Nat) : Bool := bitAt s.cop.proven c

/-- The stand and lane that a core serves, fenced or not. -/
def State.laneOf (s : State) (c : Nat) : Option (Nat × Nat) :=
  [(0, 0), (0, 1), (0, 2), (1, 0), (1, 1), (1, 2), (2, 0), (2, 1), (2, 2), (3, 0), (3, 1), (3, 2)].find? fun kl =>
    s.laneCore kl.1 kl.2 == c

/-- Whether a core is held as a stand's reserve. -/
def State.isReserve (s : State) (c : Nat) : Bool := [0, 1, 2, 3].any fun k => (s.stand k).reserve.contains c

/-- Whether a core is in the spare pool, proven or not. -/
def State.isSpare (s : State) (c : Nat) : Bool :=
  !s.coreRetired c && (s.laneOf c).isNone && !s.isReserve c

/-- The fifteen cores. -/
def cores : List Nat := List.range 15

/-- The spares that a hand-over may take: proven and not under test (R460), lowest first. -/
def State.provenSpares (s : State) : List Nat :=
  cores.filter fun c => s.isSpare c && s.coreProven c && !s.coreTesting c

/-- The spares, proven ones first, none under test. -/
def State.anySpares (s : State) : List Nat :=
  s.provenSpares ++ cores.filter fun c => s.isSpare c && !s.coreProven c && !s.coreTesting c

/-- The STD_COREMAP code of a core (R154): a core under test shows that whatever else it is, and then a retired one that
(DESIGN CHOICE, log entry 101). -/
def State.coreCode (s : State) (c : Nat) : Nat :=
  if s.coreTesting c then 2
  else if s.coreRetired c then 1
  else match s.laneOf c with
    | some (k, l) => if s.laneFenced k l then 3 else 4 + 3 * k + l
    | none =>
      if s.isReserve c then 3 else if s.coreProven c then Config.provenSpareCode.toNat else 0

/-- STD_COREMAP and STD_CAP show the assignment as it stands; the spare pool may have fallen (R468). -/
def State.syncCores (s : State) : State :=
  let s := cores.foldl (fun s' c => s'.wr (STD_COREMAP_CORE c) (s.coreCode c)) s
  let s := s.wr STD_CAP_CORES (15 - popCount 15 (s.rd CPC_CORE_RETIRED))
  let n := (cores.filter s.isSpare).length
  let s := (s.poolFall (s.rd STD_CAP_SPARES) n s.cop.sparesAtStart).wr STD_CAP_SPARES n
  s.wr STD_CAP_PROVEN (cores.filter fun c => s.isSpare c && s.coreProven c).length

/-- Put a core under BIST, or end its test. -/
def State.testCore (s : State) (c : Nat) (on : Bool) : State :=
  { s with cop := { s.cop with testing := setBit s.cop.testing c on } }

/-- A core has been fenced and awaits the end of its test, or not any more (R118). -/
def State.fenceCore (s : State) (c : Nat) (on : Bool) : State :=
  { s with cop := { s.cop with fenced := setBit s.cop.fenced c on } }

/-- A core is proven, or not any more. -/
def State.proveCore (s : State) (c : Nat) (on : Bool) : State :=
  { s with cop := { s.cop with proven := setBit s.cop.proven c on } }

/-- A degraded stand for which no spare is left: NOSPARE and an alarm record (R119). -/
def State.checkNoSpare (s : State) (k : Nat) : State :=
  if s.flag (STD_Sk_STAT_DEGRADED k) && !s.flag (STD_Sk_STAT_NOSPARE k) && !(cores.any s.isSpare) then
    (s.wr (STD_Sk_STAT_NOSPARE k) 1).record 2 3 0xFF k (some (0x10200104 + 0x100 * k)) (some (0x1020010C + 0x100 * k))
  else s

/-- The last spare may have gone: every degraded stand is looked at (R119). -/
def State.checkSpares (s : State) : State := [0, 1, 2, 3].foldl State.checkNoSpare s

/-- A core is retired into the field repair log: RETEV, source 41 (R462, R470). -/
def State.retireCore (s : State) (c : Nat) (werr : Bool := false) : State :=
  let s := (((s.testCore c false).proveCore c false).fenceCore c false).wrBit CPC_CORE_RETIRED c true
  let s := match s.laneOf c with | some (k, l) => s.wr (laneFld k l) 15 | none => s
  let s := [0, 1, 2, 3].foldl (fun s k =>
    let x := s.stand k
    if x.reserve.contains c then
      (s.setStand k { x with reserve := x.reserve.filter (· != c) }).wr (STD_Sk_LANES_RESV k)
        (((x.reserve.filter (· != c)).head?).getD 15)
    else s) s
  (((s.wr CPC_STAT_RETEV 1).raise 41).logRepair 1 c 0 werr).syncCores.checkSpares

/-- A fenced core that passes its test returns to the pool as suspect and proven; a suspect one is retired (R118, R462,
R466). -/
def State.fencedCorePassed (s : State) (c : Nat) (werr : Bool) : State :=
  let s := s.fenceCore c false
  if s.coreSuspect c then s.retireCore c werr
  else
    let s := (s.wrBit CPC_CORE_SUSPECT c true).proveCore c true
    match s.laneOf c with
    | some (k, l) => (s.wr (laneFld k l) 15).syncCores
    | none => s.syncCores

/-- A core that passes a run is proven (R462); one that was fenced returns as suspect, also where a hand-over has
replaced it meanwhile. -/
def State.corePassed (s : State) (c : Nat) (werr : Bool) : State :=
  if bitAt s.cop.fenced c then s.fencedCorePassed c werr else s.proveCore c true

/-! ### Logic-engine lanes -/

def State.leLaneRetired (s : State) (e l : Nat) : Bool := s.bit CPC_LELANE_RETIRED (4 * e + l)
def State.leLaneSuspect (s : State) (e l : Nat) : Bool := s.bit CPC_LELANE_SUSPECT (4 * e + l)

/-- The spare lanes that an engine has beside the three it forms (R159). -/
def State.spareLanes (s : State) (e : Nat) : Nat := 4 - popCount 4 (s.rd (LE_Ee_LANES_RETIRED e)) - 3

/-- A logic-engine lane is retired: RETEV, source 42; LE_CAP and LE_Ee_LANES show it (R462, R470), and the engine's
pool of one spare lane may be empty (R468). -/
def State.retireLane (s : State) (e l : Nat) (werr : Bool := false) : State :=
  let b := s.spareLanes e
  let s := s.wrBit CPC_LELANE_RETIRED (4 * e + l) true
  let s := s.wrBit (LE_Ee_LANES_RETIRED e) l true
  let s := s.wr (LE_CAP_LANES e) (4 - popCount 4 (s.rd (LE_Ee_LANES_RETIRED e)))
  let s : State := { s with cop := { s.cop with
    laneTest := setBit s.cop.laneTest (4 * e + l) false
    laneFenced := setBit s.cop.laneFenced (4 * e + l) false
    provenOther := setBit s.cop.provenOther (4 * e + l) false } }
  (((s.wr CPC_STAT_RETEV 1).raise 42).logRepair 2 (4 * e + l) 0 werr).poolFall b (s.spareLanes e) 1

/-- A lane fails its test: source 40, and it is retired (R462, R470). -/
def State.laneFailed (s : State) (e l : Nat) (werr : Bool) : State := (s.retireLane e l werr).raise 40

/-! ### The runs of the controller (R456, R458) -/

/-- The phases of a run in order: its logic targets in parallel, its memory groups in ascending bit order, and for a
depot run the hard repairs. -/
def bistTodo (r : BistRun) : List Nat :=
  (if r.mask0 ≠ 0 ∨ r.mask1 % 2 ^ 16 ≠ 0 then [1] else []) ++ [16, 17, 18, 19, 20].filter (bitAt r.mask1) ++
    (if r.kind = RunKind.depot then [3] else [])

/-- The phases that are left: no hard repair where no DRAM row awaits one. -/
def State.phases (s : State) (l : List Nat) : List Nat :=
  if l = [3] && (s.cop.softRows ++ s.cop.ctlSpare).isEmpty then [] else l

/-- BIST_STAT.PHASE in front of phases to come. -/
def phaseCode : List Nat → Nat
  | [] => 0
  | 1 :: _ => 1
  | 3 :: _ => 3
  | _ => 2

/-- Whether the logic targets of a run are under test. -/
def BistRun.logic (r : BistRun) : Bool := r.todo.head? == some 1

/-- The run goes on with the phases given. -/
def State.enterPhases (s : State) (r : BistRun) (l : List Nat) : State :=
  { s with cop := { s.cop with run := some { r with todo := l } } }.wr BIST_STAT_PHASE (phaseCode l)

/-- A run begins: its targets are under test, and the planes whose switches are among them carry nothing (R461). -/
def State.bistBegin (s : State) (r : BistRun) : State :=
  let l := s.phases (bistTodo r)
  let s : State := { s with
    cop := { s.cop with
      testing := s.cop.testing ||| (r.mask0 % 2 ^ 15)
      laneTest := s.cop.laneTest ||| (r.mask0 / 2 ^ 16) }
    cnp := { s.cnp with planeReset := s.cnp.planeReset ||| (r.mask1 % 4) } }
  (s.enterPhases r l).syncCores

/-- The logic targets of a run are under test no more. -/
def State.bistUnmark (s : State) (r : BistRun) : State :=
  if r.logic then
    { s with cop := { s.cop with
      testing := s.cop.testing - (s.cop.testing &&& (r.mask0 % 2 ^ 15))
      laneTest := s.cop.laneTest - (s.cop.laneTest &&& (r.mask0 / 2 ^ 16)) } }
  else s

/-- A command run ends without judging its targets: FAIL, ERR 0x4, source 39 (R458, R461). -/
def State.abortRun (s : State) : State :=
  match s.cop.run with
  | none => s
  | some r =>
    let s : State := { s.bistUnmark r with cop := { (s.bistUnmark r).cop with run := none } }
    (((((s.wr BIST_STAT_BUSY 0).wr BIST_STAT_PHASE 0).wr BIST_STAT_FAIL 1).wr BIST_STAT_ERR 4).raise 39).syncCores

/-- Coppice takes the controller for a run of its own (R458): it aborts a command run in progress, and waits for a
start-up or a depot run (DESIGN CHOICE, log entry 120). -/
def State.coppiceTakes (s : State) : State :=
  match s.cop.run with
  | some r => if r.kind = RunKind.command then s.abortRun.wr BIST_STAT_COPPICE 1 else s
  | none => s.wr BIST_STAT_COPPICE 1

/-- A run that waited begins once the controller is free (R458). -/
def State.nextRun (s : State) : State :=
  match s.cop.waiting with
  | none => s
  | some r => ({ s with cop := { s.cop with waiting := none } } : State).bistBegin r

/-- Coppice's own run ends when nothing is under its test any more. -/
def State.coppiceEnds (s : State) : State :=
  if s.cop.testing = 0 ∧ s.cop.laneTest = 0 then (s.wr BIST_STAT_COPPICE 0).nextRun else s

/-- A start-up, command or depot run has ended: Coppice's tests that waited begin, or the run that waits. -/
def State.runOver (s : State) : State :=
  if s.cop.testing = 0 ∧ s.cop.laneTest = 0 then s.nextRun else s.wr BIST_STAT_COPPICE 1

/-- Begin a run, or let it wait for the one in progress. -/
def State.runAsked (s : State) (r : BistRun) : State :=
  if s.flag BIST_STAT_COPPICE || s.cop.run.isSome then { s with cop := { s.cop with waiting := some r } } else s.bistBegin r

/-- Whether a start-up run is in progress or waits; in progress, S0 does not run (R459). -/
def State.startupRuns (s : State) : Bool := s.cop.run.any fun (r : BistRun) => decide (r.kind = RunKind.startup)
def State.startupAwaited (s : State) : Bool :=
  s.startupRuns || s.cop.waiting.any fun (r : BistRun) => decide (r.kind = RunKind.startup)

/-- Coppice runs logic BIST on a core. -/
def State.coppiceTest (s : State) (c : Nat) : State := ((s.coppiceTakes).testCore c true).syncCores

/-- Coppice tests a fenced logic-engine lane in the background (R466). -/
def State.coppiceTestLane (s : State) (e l : Nat) : State :=
  let s := s.coppiceTakes
  { s with cop := { s.cop with
    laneTest := setBit s.cop.laneTest (4 * e + l) true
    laneFenced := setBit s.cop.laneFenced (4 * e + l) true
    provenOther := setBit s.cop.provenOther (4 * e + l) false } }

end Sys2Proof.Machine
end

