-- ==== Sys2Proof/Machine/Stands.lean ====
section
/-!
DEFINITION. Stands as operations (R101 to R153): forming, fencing and failing silent, the agreement exchange,
hand-over, debug access, the event router's claims and Lookout. What can end in a module reset is finished in
Machine/StandCommands.lean.
-/

namespace Sys2Proof.Machine

/-! ### Modes and permission -/

/-- The harts of a stand (R106). -/
def standHarts (k : Nat) : List Nat := [k, 4 + 2 * k, 5 + 2 * k]

/-- The codes of R107 and of STD_Sk_STAT.STATE (R154). -/
abbrev modeOff : Nat := 0
abbrev modePair : Nat := 1
abbrev modeTriad : Nat := 2
abbrev modeSplit : Nat := 3
abbrev stOff : Nat := 0
abbrev stRunning : Nat := 1
abbrev stHandover : Nat := 2
abbrev stFailed : Nat := 3
abbrev stForming : Nat := 4
abbrev stHalted : Nat := 5

def State.mode (s : State) (k : Nat) : Nat := s.rd (STD_Sk_STAT_MODE k)
def State.standState (s : State) (k : Nat) : Nat := s.rd (STD_Sk_STAT_STATE k)

/-- The stand of a hart (R106), and whether the hart runs as a lane of a SPLIT stand. -/
def hartStand (h : Nat) : Nat := if h < 4 then h else (h - 4) / 2
def State.hartSplit (s : State) (h : Nat) : Bool := decide (4 ≤ h) || s.mode (hartStand h) == modeSplit

/-- Whether a hart may write n bytes of memory, or to a register block (R110): a SPLIT lane only inside the split
window of its stand, or where SPLITDEV has the block's bit. -/
def State.splitOpen (s : State) (h a n : Nat) : Bool :=
  let k := hartStand h
  let b := s.rd (STD_Sk_SPLITWIN_BASE_PAGE k) * 4096
  !s.hartSplit h || (decide (b ≤ a) && decide (a + n ≤ b + s.rd (STD_Sk_SPLITWIN_SIZE_PAGES k) * 4096))
def State.deviceOpen (s : State) (h addr : Nat) : Bool :=
  !s.hartSplit h || s.bit (STD_Sk_SPLITDEV_BLOCKS (hartStand h)) (addr / 0x100000 % 0x100)

/-- The processor permission of a stand (R138, R139): SAFEROLE, voted or paired or in a hand-over gap towards such a
mode, formed since the start, not FAILED, no debugger attached since the last reset. -/
def State.safeOk (s : State) (k : Nat) : Bool :=
  let x := s.stand k
  let st := s.standState k
  let voted (m : Nat) : Bool := m == modePair || m == modeTriad
  s.bit STD_OPT_SAFEROLE k && x.formed && !s.flag (STD_Sk_STAT_NOTSAFE k) &&
    (st == stRunning || st == stHandover || st == stHalted) && voted (s.mode k) &&
    (match x.run with | none => true | some r => voted r.req.mode)

/-- SAFEOK shows the permission as it stands. -/
def State.syncSafe (s : State) (k : Nat) : State := s.wrB (STD_Sk_STAT_SAFEOK k) (s.safeOk k)

/-- The lanes of a stand that run: a core, and not fenced. -/
def State.liveLanes (s : State) (k : Nat) : List Nat :=
  [0, 1, 2].filter fun l => decide (s.laneCore k l < 15) && !s.laneFenced k l

/-- Whether stand k runs a voted triad of three lanes. -/
def State.wholeTriad (s : State) (k : Nat) : Bool := s.mode k == modeTriad && (s.liveLanes k).length == 3

/-! ### Forming (R103, R104) -/

/-- Show a stand's reserve. -/
def State.showReserve (s : State) (k : Nat) : State :=
  s.wr (STD_Sk_LANES_RESV k) (((s.stand k).reserve.head?).getD 15)

/-- Give a stand a lane set and a reserve; no lane is fenced and none is a spare's proof any more. -/
def State.assign (s : State) (k a b c : Nat) (reserve : List Nat) : State :=
  let s := ((s.wr (laneFld k 0) a).wr (laneFld k 1) b).wr (laneFld k 2) c
  let s := s.wr (STD_Sk_LANES_FENCED k) 0
  let s := [a, b, c].foldl (fun s c => if c < 15 then s.proveCore c false else s) s
  (s.setStand k { s.stand k with reserve := reserve }).showReserve k

/-- Form a stand from the cores it gets, in a mode: a third core is held in reserve in PAIR, all of them in OFF; two
cores form a PAIR where more is asked for, and fewer leave the stand OFF, a single core staying a spare (R103, R104,
R108, R134). -/
def State.form (s : State) (k mode : Nat) (cs : List Nat) (entry : Nat) : State :=
  let go (s : State) (m a b c : Nat) (res : List Nat) : State :=
    let s := s.assign k a b c res
    let s := s.setStand k { s.stand k with formed := true, entry := some entry, splitEntry := none, run := none,
                                           request := none, outvoted := [], wfi := false, resetting := none }
    let s := (s.wr (STD_Sk_STAT_MODE k) m).wr (STD_Sk_STAT_STATE k) (if m = modeOff then stOff else stRunning)
    ((s.wr (STD_Sk_STAT_DEGRADED k) 0).wr (STD_Sk_STAT_NOSPARE k) 0).wr (STD_Sk_STAT_PEND k) 0
  match cs with
  | a :: b :: c :: _ =>
    if mode = modeOff then go s modeOff 15 15 15 [a, b, c]
    else if mode = modePair then go s modePair a b 15 [c]
    else
      let s := go s mode a b c []
      if mode = modeSplit then
        s.setStand k { s.stand k with splitEntry := some (s.rd64 (STD_Sk_SPLITPC_LO k) (STD_Sk_SPLITPC_HI k)) }
      else s
  | [a, b] => if mode = modeOff then go s modeOff 15 15 15 [a, b] else go s modePair a b 15 []
  | _ => go s modeOff 15 15 15 []

/-- The mode a stand forms in: S0 in TRIAD, S1 to S3 in their INITMODE; in the keyless service state and in Seedling
only S0 runs (R88, R109, R122, R543). -/
def State.initMode (s : State) (k : Nat) : Nat :=
  if k ≠ 0 ∧ (s.rd KEY_STAT_STATE ≠ 1 ∨ s.fwu.seed.isSome) then modeOff
  else if k = 1 then s.rd STD_OPT_INITMODE1 else if k = 2 then s.rd STD_OPT_INITMODE2
  else if k = 3 then s.rd STD_OPT_INITMODE3 else modeTriad

/-- STARTPC of a stand. -/
def State.startPc (s : State) (k : Nat) : Nat := s.rd64 (STD_Sk_STARTPC_LO k) (STD_Sk_STARTPC_HI k)

/-! ### Fencing and failing (R115 to R121) -/

/-- Whether stand r may request hand-overs of stand k and write its reset (R131, R123). -/
def State.permits (s : State) (r k : Nat) : Bool := r == k || s.bit STD_XRST_PERMIT (4 * r + k)

/-- The REQERR of a request, 0 when it is accepted (R132). Where several conditions hold, the first in the order of
STD_Sk_STAT.REQERR is shown, and an exit from Nap counts as a hand-over in progress (DESIGN CHOICE, log entry 90). -/
def State.requestErr (s : State) (r k mode : Nat) (sub : Bool) : Nat :=
  let x := s.stand k
  if x.request.isSome || x.run.isSome then 1
  else if k = 0 ∧ (mode = modeSplit ∨ mode = modeOff) then 2
  else if mode = modeTriad ∧ (x.reserve.all s.coreTesting) ∧ s.provenSpares.isEmpty ∧ (s.mode k ≠ modeTriad ∨ sub = true) then 3
  else if !s.permits r k then 4
  else if s.standState k = stFailed then 5
  else 0

/-- A hand-over request is accepted into the register block: it waits for its agreement point. -/
def State.request (s : State) (k : Nat) (r : HoReq) : State :=
  (s.setStand k { s.stand k with request := some r }).wr (STD_Sk_STAT_PEND k) 1

/-- A request by stand r, or by Coppice on a stand's own behalf, is filed or refused (R131, R132). -/
def State.fileRequest (s : State) (r k : Nat) (q : HoReq) : State :=
  let e := s.requestErr r k q.mode q.sub
  if e ≠ 0 then s.wr (STD_Sk_STAT_REQERR k) e else s.request k q

/-- A degraded stand and a proven spare: spare-ready is raised, and with AUTOSUB Coppice requests the substitution
(R118, R119, R132). -/
def State.spareReady (s : State) : State :=
  let deg := [0, 1, 2, 3].filter fun k => s.flag (STD_Sk_STAT_DEGRADED k)
  if deg.isEmpty || s.provenSpares.isEmpty then s
  else
    let s := s.raise 12
    if s.flag STD_OPT_AUTOSUB then deg.foldl (fun s k => s.fileRequest k k ⟨modeTriad, true, 3⟩) s else s

/-- The lowest-numbered spare that Coppice tests when a lane is fenced, unless it is proven already (R118). -/
def State.spareToTest (s : State) : Option Nat :=
  match cores.filter s.isSpare with
  | [] => none
  | c :: _ => if s.coreProven c || s.coreTesting c then none else some c

/-- A lane is fenced (R115): its clock stops, the stand goes on as a degraded pair, FENCEV and the lane-fenced event;
Coppice tests the core and a spare (R118). -/
def State.fence (s : State) (k l cause : Nat) : State :=
  let c := s.laneCore k l
  let s := s.wrBit (STD_Sk_LANES_FENCED k) l true
  let s := ((s.wr (STD_Sk_STAT_DEGRADED k) 1).wr (STD_Sk_STAT_FENCEV k) 1)
  let s := ((s.wr (STD_Sk_FAULT_CAUSE k) cause).wr (STD_Sk_FAULT_LANE k) l).wr (STD_Sk_FAULT_FAILED k) 0
  let s := s.setStand k { s.stand k with outvoted := (s.stand k).outvoted.filter fun x => x.1 != l }
  let s := s.raise (4 + k)
  let s := (s.fenceCore c true).coppiceTest c
  let s := match s.spareToTest with | some d => s.coppiceTest d | none => s
  (s.spareReady).checkSpares

/-- A window of Lookout restarts in full: after a debug halt with its lower bound (R145), after a low-power state
without (R153). Without a lower bound the window is open at once, OPEN is set where Lookout is armed, and source 13 is
not raised (DESIGN CHOICE, log entry 92). -/
def State.lookoutRestart (s : State) (lower : Bool) : State :=
  if s.flag STD_LKO_STAT_SUSP then
    let s : State := { s with lko := ⟨s.now, none, lower⟩ }
    (s.wr STD_LKO_STAT_SUSP 0).wrB STD_LKO_STAT_OPEN (!lower && s.flag STD_LKO_STAT_ARMED)
  else s

/-- Lookout is suspended. -/
def State.lookoutSuspend (s : State) : State := (s.wr STD_LKO_STAT_SUSP 1).wr STD_LKO_STAT_OPEN 0

/-- A stand fails silent (R120): nothing more leaves it, its hand-over is abandoned, its permission falls, and the
stand-failed event is raised. Where a debug halt had paused Lookout, S0 is halted no more (R145). -/
def State.failSilent (s : State) (k cause : Nat) : State :=
  let s := s.setStand k { s.stand k with request := none, run := none, outvoted := [] }
  let s := (s.wr (STD_Sk_STAT_STATE k) stFailed).wr (STD_Sk_STAT_PEND k) 0
  let s := ((s.wr (STD_Sk_FAULT_CAUSE k) cause).wr (STD_Sk_FAULT_LANE k) 3).wr (STD_Sk_FAULT_FAILED k) 1
  let s := if k = 0 then s.lookoutRestart true else s
  (s.syncSafe k).raise (8 + k)

/-- Two stands FAILED at the same time cause a module reset (R121). -/
def State.doubleFailed (s : State) : Bool :=
  decide (2 ≤ ([0, 1, 2, 3].filter fun k => s.standState k == stFailed).length)

/-- Whether the lanes of a stand execute: running, or in the first steps of a hand-over gap. -/
def State.executing (s : State) (k : Nat) : Bool :=
  s.standState k == stRunning || s.standState k == stHandover

/-- Whether stand k is powered: the die runs, two cores were found at the start (R105), no start-up run has its cores
under test (R459), and the stand is not gated by Slumber or flush mode. -/
def State.standUp (s : State) (k : Nat) : Bool :=
  s.pw.phase == .running && !s.pw.exhausted && !s.startupRuns && s.rd (PWR_UNIT_UNIT k) != 3

/-- Whether stand k is powered and clocked. -/
def State.standClocked (s : State) (k : Nat) : Bool := s.standUp k && s.rd (PWR_UNIT_UNIT k) == 0

/-- Whether hart h executes and its requests leave its stand (R106, R107, R120, R141): a stand's own hart while the
stand runs; a lane B or C of a stand in SPLIT, also through a halt of lane A (R145). -/
def State.hartRuns (s : State) (h : Nat) : Bool :=
  let k := hartStand h
  s.standClocked k &&
    (if h < 4 then s.mode k != modeOff && s.standState k == stRunning
     else s.mode k == modeSplit && decide (s.laneCore k (1 + h % 2) < 15) &&
       (s.standState k == stRunning || s.standState k == stHalted))

/-- A mismatch on a voted item (R112, R115, R116): the minority lane of a whole triad is fenced; a pair fails silent; a
split stand is not compared. -/
def State.mismatch (s : State) (k l cause : Nat) : State :=
  if !s.executing k || s.mode k == modeSplit || s.mode k == modeOff then s
  else if s.wholeTriad k then s.fence k l cause
  else s.failSilent k cause

/-! ### The agreement exchange (R124 to R127) -/

/-- The bitwise majority of three vectors. -/
def majority (a b c : Nat) : Nat := (a &&& b) ||| (a &&& c) ||| (b &&& c)

/-- The median of three numbers. -/
def median (a b c : Nat) : Nat := max (min a b) (min (max a b) c)

/-- The items on which a lane differs from an agreed latch: source numbers, 256 for the halt request, 257 for time. -/
def diffItems (x y : Latch) : List Nat :=
  ((List.range 256).filter fun i => bitAt x.pend i != bitAt y.pend i) ++
    (if x.halt == y.halt then [] else [256]) ++ (if x.time == y.time then [] else [257])

/-- TRIAD: the majority and the median of three latches (R125). -/
def agree3 (a b c : Latch) : Latch :=
  ⟨majority a.pend b.pend c.pend, (a.halt && b.halt) || (a.halt && c.halt) || (b.halt && c.halt), median a.time b.time c.time⟩

/-- PAIR: where two latches agree, that value; where they differ, the previous one (R125). -/
def agree2 (a b prev : Latch) : Latch :=
  let d := a.pend ^^^ b.pend
  ⟨(a.pend - (a.pend &&& d)) + (prev.pend &&& d), if a.halt == b.halt then a.halt else prev.halt,
    if a.time = b.time then a.time else prev.time⟩

/-- The source that the router offers a stand's context (R148): the highest priority above the threshold, the lowest
number on a tie. `pend` is a 256-bit vector. -/
def State.offered (s : State) (k : Nat) (ctx : Bool) (pend : Nat) : Option Nat :=
  let th := s.rd (if ctx then STD_Sk_THRESH_S_TH k else STD_Sk_THRESH_M_TH k)
  let cand := (List.range 256).filter fun i =>
    bitAt pend i && (s.flag (STD_EVTi_ROUTE_CTX i) == ctx) && decide (th < s.rd (STD_EVTi_ROUTE_PRIO i))
  let top := cand.foldl (fun m i => max m (s.rd (STD_EVTi_ROUTE_PRIO i))) 0
  cand.find? fun i => s.rd (STD_EVTi_ROUTE_PRIO i) == top

/-- The 256 pending bits of a stand. -/
def State.pendVec (s : State) (k : Nat) : Nat :=
  (List.range 8).foldl (fun v j => v + 2 ^ (32 * j) * s.rd (STD_Sk_PENDj k j)) 0

/-- Timer compare of lane l (R127). -/
def State.timecmp (s : State) (k l : Nat) : Nat := s.rd64 (STD_Sk_MTIMECMPl_LO k l) (STD_Sk_MTIMECMPl_HI k l)

/-- The agreed values take effect (R125, R127, R148, R149): interrupts and WFI wake-up. -/
def State.agreeValues (s : State) (k : Nat) (g : Latch) (tb tc : Nat) : State :=
  let m := (s.offered k false g.pend).isSome
  let v := (s.offered k true g.pend).isSome
  let tm := decide (s.timecmp k 0 ≤ g.time)
  let split := s.mode k == modeSplit
  let x := s.stand k
  s.setStand k { x with
    agreed := g, mext := m, sext := v, mtimer := tm
    mtimerB := split && decide (s.timecmp k 1 ≤ tb)
    mtimerC := split && decide (s.timecmp k 2 ≤ tc)
    wfi := x.wfi && !(m || v || tm) }

/-- The agreed values take effect, with a debug halt (R141) among them, which pauses Lookout where the key says so
(R145). -/
def State.takeAgreed (s : State) (k : Nat) (g : Latch) (tb tc : Nat) : State :=
  let x := s.stand k
  let s := s.agreeValues k g tb tc
  let s := s.setStand k { s.stand k with haltReq := false, slow := (s.stand k).slow - 1 }
  if g.halt || x.haltReq then
    let s := s.wr (STD_Sk_STAT_STATE k) stHalted
    if k = 0 ∧ s.flag STD_OPT_LKODBG then s.lookoutSuspend else s
  else s

/-- An agreement point at which all lanes have latched the same: a debug halt, the end of a single step and a resume
(R141, R143), the resume of a hand-over or from Nap (R133 step 5, R500). No lane is outvoted. -/
def State.agreeNow (s : State) (k : Nat) (halt : Bool) : State :=
  (s.setStand k { s.stand k with outvoted := [] }).takeAgreed k ⟨s.pendVec k, halt, s.now⟩ s.now s.now

/-- In SPLIT lanes B and C run on through a halt of lane A (R145): their timer interrupts follow the time. -/
def State.agreeHalted (s : State) (k tb tc : Nat) : State :=
  s.setStand k { s.stand k with
    mtimerB := decide (s.timecmp k 1 ≤ tb)
    mtimerC := decide (s.timecmp k 2 ≤ tc) }

/-- The bound of R129 in ns, to which R37 holds the latency reported: t_instr is 1 µs, or 2 ms for code that has
issued a Rootway load or read a fence (R128, R404, R411). -/
def State.latBound (s : State) (k : Nat) : Nat :=
  20 + 2 * (160 + (if (s.stand k).slow = 0 then 1000 else 2000000)) + (if s.wholeTriad k then 10 else 5) + 5

/-- Hart h waits for Rootway: the latency that its stand then measures is not that of code without Rootway loads. -/
def State.slowCode (s : State) (h : Nat) : State :=
  s.setStand (hartStand h) { s.stand (hartStand h) with slow := 2 }

/-- One agreement point of a running stand: the three latches, of which a pair uses those of its live lanes and a
split stand lane A's events alone; `lat` is the largest interrupt latency measured, in ns, within its bound. A
difference on one item at two points in a row fences the lane outvoted, or ends a pair, also where the stand became a
pair between them; of two lanes outvoted twice at one point the first is fenced, and the pair that is left fails on
the second (R116, R126). -/
def State.agreement (s : State) (k : Nat) (a b c : Latch) (lat : Nat) : State :=
  let x := s.stand k
  let ls := [a, b, c]
  let lane (l : Nat) : Latch := ls.getD l latchInit
  let s := s.maxWr (STD_Sk_INTLAT_MAX_NS k) (min lat (s.latBound k))
  if s.mode k == modeSplit then s.takeAgreed k a b.time c.time
  else if s.wholeTriad k then
    let g := agree3 a b c
    let out := ([0, 1, 2].map fun l => (diffItems (lane l) g).map fun i => (l, i)).flatten
    let s := if out.isEmpty then s else s.bump (STD_Sk_AGR_CNT_CNT k)
    let bad := [0, 1, 2].filter fun l => out.any fun o => o.1 == l && x.outvoted.contains o
    let s := s.setStand k { s.stand k with outvoted := out }
    let s := s.takeAgreed k g g.time g.time
    match bad with
    | [] => s
    | [l] => s.fence k l 4
    | l :: _ => (s.fence k l 4).failSilent k 4
  else
    match s.liveLanes k with
    | p :: q :: _ =>
      let g := agree2 (lane p) (lane q) x.agreed
      let out := (diffItems (lane p) (lane q)).map fun i => (p, i)
      let s := if out.isEmpty then s else s.bump (STD_Sk_AGR_CNT_CNT k)
      let bad := out.any fun o => x.outvoted.any fun w => w.2 == o.2
      let s := s.setStand k { s.stand k with outvoted := out }
      if bad then s.failSilent k 4 else s.takeAgreed k g g.time g.time
    | _ => s

/-! ### Hand-over (R131 to R136) -/

/-- A write of STD_Sk_MODE_REQ by stand r (R131, R132): a token other than 0xA5 is ignored. -/
def State.handoverRequest (s : State) (r k v : Nat) : State :=
  if bitsAt v 24 8 ≠ 0xA5 then s else s.fileRequest r k ⟨bitsAt v 0 2, bitAt v 4, bitsAt v 8 2⟩

/-- The lane set after a hand-over (R134), and the mode it can form. -/
structure LaneSet where
  mode : Nat
  lanes : List Nat
  fenced : Nat
  reserve : List Nat
  degraded : Bool
  replaced : Option Nat
  deriving DecidableEq, Repr

/-- Three lane letters from a list of cores, 15 = none. -/
def lettered (cs : List Nat) : List Nat := [cs.getD 0 15, cs.getD 1 15, cs.getD 2 15]

/-- The mode that n cores form where `m` is asked for: with two, PAIR in place of TRIAD, SPLIT running on two lanes;
with fewer the stand is OFF (R104; R134 gives no row for it: DESIGN CHOICE, log entry 91). -/
def modeOf (m n : Nat) : Nat := if n < 2 then modeOff else if m = modeTriad ∧ n = 2 then modePair else m

/-- The lane set of a request (R134), from the lanes as they stand at the reset step: healthy lanes in their letter
order, then reserve cores, then proven spares; a core under test is not offered (R460). -/
def State.laneSet (s : State) (k from_ : Nat) (q : HoReq) : LaneSet :=
  let cur := [s.laneCore k 0, s.laneCore k 1, s.laneCore k 2]
  let live := s.liveLanes k
  let healthy := live.map fun l => s.laneCore k l
  let res := (s.stand k).reserve
  let sp := s.provenSpares
  if q.mode = modeOff then ⟨modeOff, [15, 15, 15], 0, healthy ++ res, false, none⟩
  else if q.mode = modeTriad ∧ from_ = modeTriad then
    if live.length = 3 then
      match q.sub, sp with
      | true, p :: _ =>
        if q.replace < 3 then ⟨modeTriad, cur.set q.replace p, 0, res, false, some (cur.getD q.replace 15)⟩
        else ⟨modeTriad, cur, 0, res, false, none⟩
      | _, _ => ⟨modeTriad, cur, 0, res, false, none⟩
    else
      match q.sub, sp with
      | true, p :: _ =>
        ⟨modeTriad, [0, 1, 2].map fun l => if live.contains l then cur.getD l 15 else p, 0, res, false, none⟩
      | _, _ => ⟨modeTriad, cur, s.rd (STD_Sk_LANES_FENCED k), res, true, none⟩
  else
    let want := if q.mode = modePair then 2 else 3
    let cs := (if healthy.length < want then healthy ++ res.filter (fun c => !s.coreTesting c) ++ sp else healthy).take want
    let mode := modeOf q.mode cs.length
    let used := if mode = modeOff then [] else cs
    ⟨mode, lettered used, 0, (healthy ++ res).filter fun c => !used.contains c, false, none⟩

/-- The stand takes its lanes and mode: a stand formed from OFF starts at STARTPC, split lanes B and C at SPLITPC. -/
def State.takeLanes (s : State) (k : Nat) (ls : LaneSet) (fromStart : Bool) : State :=
  let lane (l : Nat) : Nat := ls.lanes.getD l 15
  let s := ([0, 1, 2].map (s.laneCore k)).foldl (fun s c => if c < 15 then s.proveCore c false else s) s
  let s := ((s.wr (laneFld k 0) (lane 0)).wr (laneFld k 1) (lane 1)).wr (laneFld k 2) (lane 2)
  let s := s.wr (STD_Sk_LANES_FENCED k) ls.fenced
  let s := ls.lanes.foldl (fun s c => if c < 15 then s.proveCore c false else s) s
  let x := s.stand k
  let s := (s.setStand k { x with
    reserve := ls.reserve, run := none, outvoted := [], formed := true
    entry := if fromStart then some (s.startPc k) else none
    splitEntry := if ls.mode = modeSplit then some (s.rd64 (STD_Sk_SPLITPC_LO k) (STD_Sk_SPLITPC_HI k)) else none
    wakeAt := none, arch := [] }).showReserve k
  let s := (s.wr (STD_Sk_STAT_MODE k) ls.mode).wr (STD_Sk_STAT_STATE k) (if ls.mode = modeOff then stOff else stRunning)
  let s := (s.wrB (STD_Sk_STAT_DEGRADED k) ls.degraded).wr (STD_Sk_STAT_PEND k) 0
  if ls.degraded then s else s.wr (STD_Sk_STAT_NOSPARE k) 0

/-- The longest gap of R133 in ns, which the reported maximum never passes (R37). -/
def handoverGapMax : Nat := 40000

/-- The lanes resume at the agreement point that ends the gap (R133 step 5, R134, R136): the new lane set, HODONE, the
gap in HO_LAST and HO_MAX, the hand-over-complete event, and the agreement point at which what became pending in the
gap is delivered. -/
def State.resumeWith (s : State) (k : Nat) (r : HoRun) : State :=
  let ls := s.laneSet k r.fromMode r.req
  let s := (s.takeLanes k ls (r.fromMode == modeOff && ls.mode != modeOff)).wr (STD_Sk_STAT_HODONE k) 1
  let gap := min handoverGapMax (s.now - r.at_)
  let s := (s.wr (STD_Sk_HO_LAST_GAP k) gap).maxWr (STD_Sk_HO_MAX_GAP k) gap
  let s := match ls.replaced with
    | some c => if c < 15 then s.coppiceTest c else s
    | none => s
  let s := ((s.syncCores).syncSafe k).raise k
  (if ls.mode = modeOff then s else s.agreeNow k false).checkSpares

/-- The exit from Nap ends (R500, R522 to R524): the same lanes go on from what they saved, and no register but the
state fields changes; a hand-over request that waits goes on waiting. -/
def State.napResume (s : State) (k : Nat) : State :=
  let s := s.setStand k { s.stand k with run := none, entry := none, splitEntry := none, wakeAt := none, arch := [] }
  let s := (s.wr (STD_Sk_STAT_STATE k) stRunning).wr (PWR_UNIT_UNIT k) 0
  (s.syncSafe k).agreeNow k false

/-- A hand-over gap or a Nap exit ends (R133, R136). -/
def State.handoverResume (s : State) (k : Nat) (how : Reload) : State :=
  match (s.stand k).run with
  | none => s
  | some r =>
    let up := if r.nap then s.napResume k else s.resumeWith k r
    match how with
    | .ok => up
    | .checkpointBad => (if r.nap then s.wr (PWR_UNIT_UNIT k) 0 else s).failSilent k 6
    | .laneDiffers l => if up.wholeTriad k then up.fence k l.val 7 else up.failSilent k 7

/-! ### Function reset of a stand (R122) -/

/-- The register addresses that the function reset of stand k reaches. -/
def standAddr (k a : Nat) : Bool :=
  inArea .std (0x10200100 + 0x100 * k) (0x10200200 + 0x100 * k) a || inArea .pend (0x10201400 + 0x20 * k) (0x10201420 + 0x20 * k) a

/-- The cores that a stand holds: its lanes, and its reserve. -/
def State.ownCores (s : State) (k : Nat) : List Nat :=
  (([0, 1, 2].map (s.laneCore k)).filter (· < 15)) ++ (s.stand k).reserve

/-- A function reset of a stand begins: its hand-over is abandoned and its F fields restored; from FAILED all of its
cores run BIST in parallel. -/
def State.standReset (s : State) (k : Nat) : State :=
  let failed := s.standState k == stFailed
  let s := s.restore (·.f) (standAddr k)
  let s := s.setStand k { standInit with reserve := (s.stand k).reserve, resetting := some failed }
  let s := s.wr (STD_Sk_STAT_STATE k) stForming
  let s := s.wr (PWR_UNIT_UNIT k) 0
  let s := if s.dbg = .stand k then s.wr STD_DBG_STAT_QFILL 0 else s
  if failed then (s.ownCores k).foldl (fun s c => s.coppiceTest c) s else s

/-- The cores a stand can form from: its own that are not retired or under test, its reserve, then spares. -/
def State.formCores (s : State) (k : Nat) : List Nat :=
  ((s.ownCores k).filter fun c => !s.coreRetired c && !s.coreTesting c) ++ s.anySpares

/-- The cores a mode asks for. -/
def coresFor (mode : Nat) : Nat := if mode = modeOff then 0 else if mode = modePair then 2 else 3

/-- A core that has failed raises source 40 and is retired (R462, R470). -/
def State.coreLost (s : State) (c : Nat) (werr : Bool) : State := (s.retireCore c werr).raise 40

/-- The reset completes (R122): cores that failed BIST are retired, a fenced one that passed is a suspect spare
(R118), and the stand forms at STARTPC in M mode; an alarm record says that a spare was needed and none was left
(R468). The answer says that two cores could not be found for S0. -/
def State.standResetDone (s : State) (k failMask : Nat) : Bool × State :=
  match (s.stand k).resetting with
  | none => (false, s)
  | some bist =>
    let own := s.ownCores k
    let s := if bist then
        (own.foldl (fun s c => if bitAt failMask c then s.coreLost c false else (s.testCore c false).corePassed c false) s).coppiceEnds
      else s
    let cs := (s.formCores k).take 3
    let s := if bist && decide (cs.length < coresFor (s.initMode k)) then s.poolEmpty else s
    if k = 0 ∧ cs.length < 2 then (true, s)
    else
      let s := (s.form k (s.initMode k) cs (s.startPc k)).syncCores
      (false, ((s.syncSafe k).raise k).checkSpares)

/-! ### Debug (R140 to R145) -/

/-- Attach to a stand: NOTSAFE sets; refused while lane A is fenced or the module is core-exhausted (R140, R105). -/
def State.attachStand (s : State) (k : Nat) : State :=
  if s.laneFenced k 0 || s.pw.exhausted then s.answer .debugError
  else
    let s : State := { s with dbg := .stand k }
    let s := (s.wr STD_DBG_STAT_ATT 1).wr STD_DBG_STAT_STAND k
    ((s.wr (STD_Sk_STAT_NOTSAFE k) 1).syncSafe k).raise 14

/-- The halt of the attached stand at an agreement point (R141, R145); in a hand-over gap it waits for the resume
(R136). -/
def State.haltStand (s : State) (k : Nat) : State :=
  if s.standState k = stRunning then s.agreeNow k true
  else if s.standState k = stHandover then s.setStand k { s.stand k with haltReq := true }
  else s.answer .debugError

/-- One entry of the replay queue is applied to lanes B and C: a register or CSR is written there; memory was written
once in the L2, and an L1 holds nothing that the L2 does not (R102, R143). -/
def replayOne (arch : Tbl Nat) (r : Replay) : Tbl Nat :=
  if r.target = 0 then tblPut (0x20000 + r.addr) r.value (tblPut (0x10000 + r.addr) r.value arch) else arch

/-- The replay queue is applied to lanes B and C in order and empties (R143, R144). -/
def State.replayed (s : State) (k : Nat) : State :=
  let x := s.stand k
  (s.setStand k { x with arch := x.replay.foldl replayOne x.arch, replay := [] }).wr STD_DBG_STAT_QFILL 0

/-- The lanes execute: what the debugger wrote into their registers is theirs to change. -/
def State.executes (s : State) (k : Nat) : State := s.setStand k { s.stand k with arch := [] }

/-- Resume of a halted stand (R143, R145): its lanes go on together at an agreement point. -/
def State.resumeStand (s : State) (k : Nat) : State :=
  if s.standState k = stHalted then
    let s := (((s.replayed k).executes k).wr (STD_Sk_STAT_STATE k) stRunning).agreeNow k false
    if k = 0 ∧ s.flag STD_OPT_LKODBG then s.lookoutRestart true else s
  else s.answer .debugError

/-! ### Claims and software events (R148, R154) -/

/-- A voted read of a claim register: the offered source with VALID, and its pending bit clears for this stand, but
for a source that asserts in the same fabric clock, whose event wins (R17). -/
def State.claim (s : State) (k : Nat) (sup : Bool) : State :=
  match s.offered k sup (s.pendVec k) with
  | none => s.answer (.ok 0)
  | some i =>
    let f := STD_Sk_PENDj k (i / 32)
    (if bitAt (s.hit f) (i % 32) then s else s.wrBit f (i % 32) false).answer (.ok (2 ^ 31 + i))

/-- The sources 240 + b of the bits set are asserted. -/
def State.softEvents (s : State) (m : Nat) : State :=
  (List.range 16).foldl (fun s b => if bitAt m b then s.raise (240 + b) else s) s

/-! ### Lookout (R150 to R153) -/

/-- MAX and MIN of the window in ns. -/
def State.lkoMax (s : State) : Nat := s.rd STD_LKO_CFG_MAX * 1000000
def State.lkoMin (s : State) : Nat := s.lkoMax * s.rd STD_LKO_CFG_MIN / 4

/-- Whether a window edge due at `d` after the window began may have come: ±1 % plus 61 µs (R150). -/
def State.edgeCame (s : State) (d : Nat) : Bool := decide (s.lko.from_ + d ≤ s.now + d / 100 + 61000)

/-- A completed service starts a new window (R151). -/
def State.lookoutServed (s : State) : State :=
  let s : State := { s with lko := ⟨s.now, none, true⟩, pw := { s.pw with start := { s.pw.start with serviced := true } } }
  (s.wr STD_LKO_STAT_ARMED 1).wr STD_LKO_STAT_OPEN 0

/-- LOOKOUT_WINDOW_OPEN (R150): OPEN sets and source 13 is raised. -/
def State.lookoutOpen (s : State) : State :=
  if s.flag STD_LKO_STAT_ARMED && !s.flag STD_LKO_STAT_SUSP && !s.flag STD_LKO_STAT_OPEN && s.edgeCame s.lkoMin then
    (s.wr STD_LKO_STAT_OPEN 1).raise 13
  else s

end Sys2Proof.Machine
end

