-- ==== Sys2Proof/Machine/Channels.lean ====
section
/-!
DEFINITION. Field channels (R238 to R275): the scanner and its filters, counters and frequency gates, the command lanes
and output images, readback and off-pulses, fault flags and latches, and the field supply.
-/

namespace Sys2Proof.Machine

/-! ### Access to the hidden state -/

def State.chan (s : State) (n : Nat) : Chan := tblGet chanInit n s.io.chans
def State.setChan (s : State) (n : Nat) (c : Chan) : State := { s with io := { s.io with chans := tblSet chanInit n c s.io.chans } }
def State.group (s : State) (g : Nat) : Group := tblGet groupInit g s.io.groups
def State.setGroup (s : State) (g : Nat) (x : Group) : State :=
  { s with io := { s.io with groups := tblSet groupInit g x s.io.groups } }

/-- The channels of a group. -/
def groupChans (g : Nat) : List Nat := (List.range 16).map fun k => 16 * g + k

/-! ### Codes -/

abbrev modeInput : Nat := 0
abbrev modeOutput : Nat := 1
abbrev modeSafe : Nat := 2
abbrev modeCounter : Nat := 3
abbrev modeFrequency : Nat := 4

abbrev supNormal : Nat := 0
abbrev supWarning : Nat := 1
abbrev supUnder : Nat := 2
abbrev supUnpowered : Nat := 3
abbrev supRecovered : Nat := 4
abbrev supStarting : Nat := 5

abbrev leUnloaded : Nat := 0
abbrev leRestarting : Nat := 1
abbrev leRunning : Nat := 2
abbrev leStopped : Nat := 3
abbrev leFaulted : Nat := 4
abbrev leHalted : Nat := 5
abbrev leParked : Nat := 6

def State.chMode (s : State) (n : Nat) : Nat := s.rd (IOG_CHn_CFG_MODE n)
def State.isOutput (s : State) (n : Nat) : Bool := s.chMode n == modeOutput || s.chMode n == modeSafe
def State.supply (s : State) (g : Nat) : Nat := s.rd (IOG_Gg_STAT_SUPPLY g)
def State.leState (s : State) (e : Nat) : Nat := s.rd (LE_Ee_STAT_STATE e)

/-- Tc in ns (R312). -/
def State.tcNs (s : State) : Nat := 250000 * 2 ^ min 5 (s.rd CNP_PLAN0_TC)

/-- The age of a stamp in whole µs, never negative (R28). -/
def State.ageUs (s : State) (stamp : Nat) : Nat := min (2 ^ 32 - 1) ((s.now - stamp) / 1000)

/-- Whether an image is beyond a limit in ns. -/
def State.beyond (s : State) (stamp limit : Nat) : Bool := decide (limit < s.ageUs stamp * 1000)

/-- The limit by which an engine's images are judged: twice the admitted bound, or twice the larger bound after a swap
(R30, R214, R225). -/
def State.outLimit (s : State) (e : Nat) : Nat := 2 * max (s.rd (LE_Ee_ADM_BOUND e)) (s.engine e).judge

/-! ### Status bits (R251) -/

def State.chLatched (s : State) (n : Nat) : Bool :=
  (s.chan n).latch != 0 || (s.isOutput n && (s.group (n / 16)).latch)

/-- FAULT: any of bits [7:0] of IOG_CHn_FAULT. -/
def State.chFault (s : State) (n : Nat) : Bool :=
  s.flag (IOG_CHn_FAULT_EXTFEED n) || s.flag (IOG_CHn_FAULT_ONLOW n) || s.flag (IOG_CHn_FAULT_STUCK n) ||
    s.flag (IOG_CHn_FAULT_HELD n) || s.flag (IOG_CHn_FAULT_CROSS n) || s.flag (IOG_CHn_FAULT_TRIP n) ||
    s.flag (IOG_CHn_FAULT_THERM n) || s.flag (IOG_CHn_FAULT_QERR n)

def State.chInvalid (s : State) (n : Nat) : Bool :=
  let st := s.supply (n / 16)
  st == supStarting || st == supUnpowered || (s.group (n / 16)).resetting ||
    (s.chMode n == modeFrequency && !(s.chan n).gated)

def State.chSuspect (s : State) (n : Nat) : Bool :=
  let st := s.supply (n / 16)
  st == supUnder || st == supUnpowered || st == supRecovered

/-- The status byte of R168; `inv` adds INVALID for an image that is not used at the take. -/
def State.chStatus (s : State) (n : Nat) (inv : Bool := false) : Nat :=
  b2n (s.chInvalid n || inv) + 2 * b2n (s.chSuspect n) + 4 * b2n (s.chFault n) + 8 * b2n (s.chLatched n)

/-- The substitute of a channel's input bit (R251). -/
def State.bitSub (s : State) (n : Nat) : Bool :=
  match s.rd (IOG_CHn_SUBST_BITSUB n) with
  | 0 => (s.chan n).bit
  | 1 => false
  | _ => true

/-- The substitute of a counter or frequency word. -/
def State.wordSub (s : State) (n : Nat) : Nat := if s.flag (IOG_CHn_SUBST_CNTSUB n) then 0 else (s.chan n).word

/-- Whether channel n is the partner B of a quadrature pair. -/
def State.quadB (s : State) (n : Nat) : Bool :=
  n % 2 == 1 && s.chMode n == modeCounter && s.chMode (n - 1) == modeCounter && s.flag (IOG_CHn_CFG_QUAD (n - 1))

/-- The live counter word of a channel (R253). -/
def State.liveWord (s : State) (n : Nat) : Nat :=
  let c := s.chan n
  if s.chMode n = modeCounter ∨ s.chMode n = modeFrequency then
    (if s.quadB n then c.qerr + 65536 * b2n c.down else c.count % 2 ^ 32)
  else 0

/-- IOG_CHn_STAT, FLTSUM and LATSUM show a channel as it stands. -/
def State.syncChan (s : State) (n : Nat) : State :=
  let s := ((s.wrB (IOG_CHn_STAT_INVALID n) (s.chInvalid n)).wrB (IOG_CHn_STAT_SUSPECT n) (s.chSuspect n))
  let s := (s.wrB (IOG_CHn_STAT_FAULT n) (s.chFault n)).wrB (IOG_CHn_STAT_LATCHED n) (s.chLatched n)
  let s := s.wrB (IOG_CHn_STAT_PERMIT n) (bitAt s.io.permits n)
  (s.wrBit (IOG_Gg_FLTSUM_FAULT (n / 16)) (n % 16) (s.chFault n)).wrBit (IOG_Gg_LATSUM_LATCHED (n / 16)) (n % 16)
    (s.chLatched n)

/-! ### Off-pulses end (R263, R273) -/

/-- No channel pulses; PLSLAST of the group shows a pulse that ended unjudged. -/
def State.pulseEnd (s : State) : State :=
  match s.io.pulse with
  | none => s
  | some p =>
    let g := p.ch / 16
    let s : State := { s with io := { s.io with pulse := none } }
    let s := (s.wr IOG_PLSSLOT_CHAN 0xFF).wr (IOG_CHn_STAT_PULSING p.ch) 0
    let s := if p.judged then s
      else
        let s := (s.wr (IOG_Gg_PLSLAST_CHAN g) (p.ch % 16)).wrB (IOG_Gg_PLSLAST_SW g) p.permit
        (s.wr (IOG_Gg_PLSLAST_PASS g) 0).wr (IOG_Gg_PLSLAST_JUDGED g) 0
    let c := s.chan p.ch
    if p.opened then s.setChan p.ch { c with frozen := s.now + s.rd (IOG_CHn_FILT_SETTLE p.ch) * 10000 } else s

/-- End the pulse of a channel of group g, if one runs. -/
def State.pulseEndIn (s : State) (g : Nat) : State :=
  match s.io.pulse with
  | some p => if p.ch / 16 = g then s.pulseEnd else s
  | none => s

/-! ### Command lanes and switches (R257, R258) -/

/-- Whether the owning engine counts as running for the output stages (R258). -/
def leCounts (st : Nat) : Bool := st == leRunning || st == leRestarting || st == leHalted

/-- The command lane of a channel as R257 decides it. -/
def State.decideLane (s : State) (n : Nat) : Bool :=
  let g := n / 16
  let x := s.group g
  let e := s.rd (IOG_Gg_CFG_OWNER g)
  let m := s.chMode n
  let fallback := m == modeOutput && s.flag (IOG_CHn_CFG_FALLBACK n)
  let cmd :=
    if x.stale || !s.flag (IOG_Gg_CFG_OWNEN g) || !leCounts (s.leState e) || x.resetting || s.pw.phase == .flush then fallback
    else bitAt x.cmd (n % 16)
  let pperm := s.rd (IOG_CHn_CFG_PPERM n)
  let held := m == modeSafe &&
    ((decide (4 ≤ pperm) && !s.flag (STD_Sk_STAT_SAFEOK (pperm - 4))) || s.flag (LE_Ee_STAT_NOTSAFE e))
  s.io.active && s.isOutput n && cmd && !held && !s.chLatched n && s.supply g != supStarting

/-- The command lane, the switches and the channel's status follow their terms; a change of the lane leaves the
module. -/
def State.settleChan (s : State) (n : Nat) : State :=
  let lane := s.decideLane n
  let was := s.flag (IOG_CHn_STAT_CMDLANE n)
  let s := if lane = was then s else (s.wrB (IOG_CHn_STAT_CMDLANE n) lane).emit (.command n lane)
  let want := lane && (s.chMode n == modeOutput || bitAt s.io.permits n)
  let s := match s.io.pulse with
    | some p => if p.ch = n ∧ want = false then s.pulseEnd else s
    | none => s
  let opened : Bool := match s.io.pulse with
    | some p => p.ch == n && p.opened
    | none => false
  let on := want && !opened
  let c := s.chan n
  let c : Chan := if want && !c.want then { c with want := true, since := s.now } else { c with want := want }
  let s := if on = s.flag (IOG_CHn_STAT_SWON n) then s.setChan n c
    else (s.setChan n { c with moved := s.now, miss := 0 }).wrB (IOG_CHn_STAT_SWON n) on
  s.syncChan n

/-- Every channel of a group follows its terms. -/
def State.settleGroup (s : State) (g : Nat) : State := (groupChans g).foldl State.settleChan s

/-- Every channel follows its terms. -/
def State.settleAll (s : State) : State := (List.range 12).foldl State.settleGroup s

/-- The groups that engine e owns follow a change of its state. -/
def State.settleOwner (s : State) (e : Nat) : State :=
  (List.range 12).foldl (fun s g =>
    if s.flag (IOG_Gg_CFG_OWNEN g) && s.rd (IOG_Gg_CFG_OWNER g) == e then s.settleGroup g else s) s

/-- The channels bound to the processor permission of stand k follow it (R259). -/
def State.settleStand (s : State) (k : Nat) : State :=
  (List.range 192).foldl (fun s n => if s.rd (IOG_CHn_CFG_PPERM n) = 4 + k then s.settleChan n else s) s

/-- Whether a group is isolated (R374). -/
def State.groupIsolated (s : State) (g : Nat) : Bool := s.flag CNP_ISOL_STAT_ISOLATED && s.bit CNP_ISOL_GROUPS g

/-- The output stage of a group applies the newest image of its owning engine and judges it (R212 to R214). -/
def State.applyImage (s : State) (g : Nat) : State :=
  let e := s.rd (IOG_Gg_CFG_OWNER g)
  let im := (s.engine e).pub
  let bits := (tblGet 0 (2 * g) im.data).toNat + 256 * (tblGet 0 (2 * g + 1) im.data).toNat
  let bad := !im.valid || s.beyond im.stamp (s.outLimit e) || s.groupIsolated g
  (s.setGroup g { s.group g with cmd := bits, stamp := im.stamp, stale := bad }).settleGroup g

/-- At a publish of engine e, its Free groups apply the image. -/
def State.applyFree (s : State) (e : Nat) : State :=
  (List.range 12).foldl (fun s g =>
    if s.flag (IOG_Gg_CFG_OWNEN g) && s.rd (IOG_Gg_CFG_OWNER g) == e && !s.flag (IOG_Gg_CFG_MARKED g) then s.applyImage g
    else s) s

/-- At a cycle mark, the Marked groups capture and apply. -/
def State.applyMarked (s : State) : State :=
  (List.range 12).foldl (fun s g =>
    if s.flag (IOG_Gg_CFG_OWNEN g) && s.flag (IOG_Gg_CFG_MARKED g) then s.applyImage g else s) s

/-- Between application instants a Free group judges the age of the image it applied last (R214). -/
def State.judgeFree (s : State) (g : Nat) : State :=
  let x := s.group g
  if s.flag (IOG_Gg_CFG_OWNEN g) && !s.flag (IOG_Gg_CFG_MARKED g) && !x.stale &&
      s.beyond x.stamp (s.outLimit (s.rd (IOG_Gg_CFG_OWNER g))) then
    (s.setGroup g { x with stale := true }).settleGroup g
  else s

/-- OUTPUT_STALE (R214). -/
def execOutputStale (g : Fin 12) (t : Nat) (s : State) : Host.Outcome State Fault Refusal := .next ((s.begin t).judgeFree g)

/-! ### Flags and latches (R265 to R269) -/

/-- The fault flags, numbered by their bits in IOG_CHn_FAULT. -/
abbrev flExtfeed : Nat := 0
abbrev flOnlow : Nat := 1
abbrev flStuck : Nat := 2
abbrev flHeld : Nat := 3
abbrev flCross : Nat := 4
abbrev flTrip : Nat := 5
abbrev flTherm : Nat := 6
abbrev flQerr : Nat := 7

/-- The field of a flag. -/
def flagFld (n i : Nat) : Fld := ⟨0x10601014 + 0x20 * n, i, 1, 0, .chan⟩

/-- Whether a flag latches a channel of a mode (R266). -/
def flagLatches (mode i : Nat) : Bool :=
  i == flCross || i == flTrip || i == flTherm ||
    (mode == modeSafe && (i == flExtfeed || i == flStuck || i == flHeld))

/-- The fault record of a channel. -/
def State.chRecord (s : State) (n kind : Nat) : State :=
  s.record 1 7 kind n (some (0x10601008 + 0x20 * n)) (some (0x10601014 + 0x20 * n))

/-- A flag is set: FLTEV, source 48 + g, a fault record, and the latch R266 gives with LATEV, source 72 + g and its
record; the records show the channel with both (R477). A flag that is set already raises nothing. -/
def State.setFlag (s : State) (n i : Nat) : State :=
  let g := n / 16
  let new := !s.flag (flagFld n i)
  let latches := flagLatches (s.chMode n) i
  let was := (s.chan n).latch
  let s := if new then (s.wr (flagFld n i) 1).wr (IOG_Gg_STAT_FLTEV g) 1 else s
  let s := if latches then (s.setChan n { s.chan n with latch := setBit was i true }).settleChan n else s.syncChan n
  let s := if new then (s.raise (48 + g)).chRecord n (48 + g) else s
  if latches && was == 0 then ((s.wr (IOG_Gg_STAT_LATEV g) 1).raise (72 + g)).chRecord n (72 + g) else s

/-- A CROSS of two channels: each names the other as PARTNER, both latch (R266). -/
def State.setCross (s : State) (a b : Nat) : State :=
  let s := (s.wr (IOG_CHn_FAULT_PARTNER a) b).wr (IOG_CHn_FAULT_PARTNER b) a
  (s.setFlag a flCross).setFlag b flCross

/-- OUTPUT_TRIP (R265): the current limit for the trip time. -/
def execOutputTrip (n : Fin 192) (t : Nat) (s : State) : Host.Outcome State Fault Refusal :=
  let s := s.begin t
  .next <| if s.isOutput n then (s.setChan n { s.chan n with tripAt := t }).setFlag n flTrip else s

/-- THERMAL_SHUTDOWN (R265): only a channel in OUTPUT or SAFE_OUTPUT mode is flagged. -/
def execThermalShutdown (n : Fin 192) (t : Nat) (s : State) : Host.Outcome State Fault Refusal :=
  let s := s.begin t
  .next <| if s.isOutput n then (s.setChan n { s.chan n with tripAt := t }).setFlag n flTherm else s

/-- AUTO_RETRY (R267): a channel latched by TRIP or THERM alone is released RDELAY after the trip. -/
def State.autoRetry (s : State) (n : Nat) : State :=
  let g := n / 16
  let c := s.chan n
  let other := c.latch - (c.latch &&& 0x60)
  if s.flag (IOG_CHn_CFG_RETRY n) && c.latch != 0 && other == 0 &&
      decide (s.rd (IOG_CHn_FAULT_RETRIES n) < s.rd (IOG_Gg_CFG_RCOUNT g)) &&
      decide (c.tripAt + s.rd (IOG_Gg_CFG_RDELAY g) * 100000000 ≤ s.now) then
    let s := ((s.setChan n { c with latch := 0 }).wr (IOG_CHn_FAULT_TRIP n) 0).wr (IOG_CHn_FAULT_THERM n) 0
    (s.bump (IOG_CHn_FAULT_RETRIES n)).settleChan n
  else s

def execAutoRetry (n : Fin 192) (t : Nat) (s : State) : Host.Outcome State Fault Refusal := .next ((s.begin t).autoRetry n)

/-- RETRIES_CLEAR (R267): the channel has stayed energised for 60 s without a trip. -/
def execRetriesClear (n : Fin 192) (t : Nat) (s : State) : Host.Outcome State Fault Refusal :=
  let s := s.begin t
  let c := s.chan n
  .next <| if c.want && decide (c.since + 60000000000 ≤ t) && decide (c.tripAt ≤ c.since) then
    s.wr (IOG_CHn_FAULT_RETRIES n) 0 else s

/-- The latches of a channel whose flag is new in the running fabric clock: an acknowledge leaves them (R273). -/
def State.newLatch (s : State) (n : Nat) : Nat :=
  (List.range 8).foldl (fun m i => setBit m i (bitAt (s.chan n).latch i && s.hit (flagFld n i) != 0)) 0

/-- An acknowledge of channel n (R268); a flag set in the same fabric clock wins (R273). -/
def State.ackChan (s : State) (n : Nat) : State :=
  let keep := s.newLatch n
  let s := [flStuck, flHeld, flCross, flTrip, flTherm].foldl (fun s i =>
    if s.hit (flagFld n i) != 0 then s else s.wr (flagFld n i) 0) s
  let s := s.wr (IOG_CHn_FAULT_RETRIES n) 0
  (s.setChan n { s.chan n with latch := keep }).settleChan n

/-- CHANNEL_ACK (R268): the channels of CHMASK. -/
def State.channelAck (s : State) (g mask : Nat) : State :=
  (List.range 16).foldl (fun s k => if bitAt mask k then s.ackChan (16 * g + k) else s) s

def execChannelAck (g : Fin 12) (mask : BitVec 16) (t : Nat) (s : State) : Host.Outcome State Fault Refusal :=
  let s := s.begin t
  .next (if s.pw.phase == .running then s.channelAck g mask.toNat else s)

/-! ### Field supply (R270, R271, R570) -/

/-- The supply state changes: SUPEV, source 60 + g, a supply record; a pulse of the group ends unjudged (R273); entries
of UNDERVOLTAGE and UNPOWERED are counted; UNPOWERED sets the supply latch. -/
def State.supplyMove (s : State) (g st : Nat) : State :=
  if s.supply g = st then s
  else
    let s := s.pulseEndIn g
    let s := (s.wr (IOG_Gg_STAT_SUPPLY g) st).wr (IOG_Gg_STAT_SUPEV g) 1
    let s := if st = supUnder then s.bump (IOG_Gg_SUPCNT_UV g) else if st = supUnpowered then s.bump (IOG_Gg_SUPCNT_UP g) else s
    let s := if st = supUnpowered then s.setGroup g { s.group g with latch := true } else s
    let s := (s.raise (60 + g)).record 5 7 (60 + g) g (some (0x10600104 + 0x40 * g)) none
    let s := (groupChans g).foldl (fun s n => s.setChan n { s.chan n with miss := 0 }) s
    s.settleGroup g

/-- "The state its level gives" (R570). -/
def State.levelState (s : State) (g : Nat) : Nat := if (s.group g).aboveWarn then supNormal else supWarning

/-- The group recovers: filters are seeded at the next sample (R248). -/
def State.recover (s : State) (g st : Nat) (release : Bool) : State :=
  let x := s.group g
  (s.setGroup g { x with seed := true, latch := x.latch && !release }).supplyMove g st

/-- L+ has lain above the recovery threshold for 100 ms. -/
def State.aboveRecovery (s : State) (g : Nat) : State :=
  if !s.flag (IOG_Gg_STAT_LINK g) then s
  else
    let s := s.setGroup g { s.group g with aboveRec := true }
    match s.supply g with
    | 5 => s.recover g (s.levelState g) false
    | 2 => s.supplyMove g supWarning
    | 3 => if s.flag (IOG_Gg_CFG_AUTOREC g) then s.recover g (s.levelState g) true else s.recover g supRecovered false
    | _ => s

/-- SUPPLY_RISING_CROSS (R270): every measurement lay above the threshold for 100 ms; above the warning-cleared
threshold it lies above the recovery threshold too. In the core-exhausted state every group stays STARTING (R105). -/
def State.risingCross (s : State) (g : Nat) (th : Rising) : State :=
  match th, s.pw.exhausted with
  | _, true => s
  | .recovery, _ => s.aboveRecovery g
  | .warningCleared, _ =>
    if !s.flag (IOG_Gg_STAT_LINK g) then s
    else
      let s := (s.setGroup g { s.group g with aboveWarn := true }).aboveRecovery g
      if s.supply g = supWarning then s.supplyMove g supNormal else s

def execSupplyRisingCross (g : Fin 12) (th : Rising) (t : Nat) (s : State) : Host.Outcome State Fault Refusal :=
  .next ((s.begin t).risingCross g th)

/-- SUPPLY_FALLING_CROSS (R270, R271): 20 consecutive measurements lay below the threshold. -/
def State.fallingCross (s : State) (g : Nat) (th : Falling) : State :=
  let x := s.group g
  let s := s.setGroup g { x with aboveWarn := false, aboveRec := x.aboveRec && decide (th = .warning) }
  let st := s.supply g
  match th with
  | .warning => if st = supNormal then s.supplyMove g supWarning else s
  | .undervoltage => if st = supNormal ∨ st = supWarning then s.supplyMove g supUnder else s
  | .unpowered => if st = supStarting then s else s.supplyMove g supUnpowered

def execSupplyFallingCross (g : Fin 12) (th : Falling) (t : Nat) (s : State) : Host.Outcome State Fault Refusal :=
  .next ((s.begin t).fallingCross g th)

/-- SUPPLY_ACK (R271): leaves RECOVERED; ignored in other states. -/
def State.supplyAck (s : State) (g : Nat) : State :=
  if s.supply g = supRecovered then (s.setGroup g { s.group g with latch := false }).supplyMove g (s.levelState g) else s

def execSupplyAck (g : Fin 12) (t : Nat) (s : State) : Host.Outcome State Fault Refusal := .next ((s.begin t).supplyAck g)

/-- STATUS_LINK_FRAME (R240): L+ in 10 mV, the current of each channel in mA, the temperature, and the channels in
current limit. A measurement at or below a rising threshold ends its 100 ms. A frame before the end of key apply is an
answer at start (IOG_CAP.PRESENT; DEDUCED, log entry 97). -/
def State.linkFrame (s : State) (g volt : Nat) (currs : List Nat) (temp : BitVec 8) (limit : Nat) : State :=
  let x := s.group g
  let s := s.setGroup g { x with
    frame := s.now, aboveWarn := x.aboveWarn && decide (1960 < volt), aboveRec := x.aboveRec && decide (1800 < volt) }
  let s := (s.wr (IOG_Gg_STAT_LINK g) 1).wrBit IOG_CAP_LINK g true
  let s := if s.io.active then s else s.wrBit IOG_CAP_PRESENT g true
  let s := (s.wr (IOG_Gg_VSUP_VOLT g) (sat 16 volt)).wr (IOG_Gg_ISUP_CURR g) (sat 16 (currs.take 16).sum)
  let hot := !bitAt s.io.tempSeen g || decide (toSigned 8 (s.rd (IOG_Gg_TEMP_MAX g)) < temp.toInt)
  let s := s.wr (IOG_Gg_TEMP_NOW g) temp.toNat
  let s := if hot then s.wr (IOG_Gg_TEMP_MAX g) temp.toNat else s
  let s : State := { s with io := { s.io with tempSeen := setBit s.io.tempSeen g true } }
  (List.range 16).foldl (fun s k =>
    let n := 16 * g + k
    let i := currs.getD k 0
    (s.setChan n { s.chan n with curr := i, limit := bitAt limit k }).wr (IOG_CHn_STAT_CURR n) (sat 10 (i / 4))) s

def execStatusLinkFrame (g : Fin 12) (volt : Nat) (currs : List Nat) (temp : BitVec 8) (limit : BitVec 16) (t : Nat)
    (s : State) : Host.Outcome State Fault Refusal :=
  let s := s.begin t
  .next (if s.dieRuns then s.linkFrame g volt currs temp limit.toNat else s)

/-- STATUS_LINK_LOST (R240): no valid frame for 50 µs; the group is treated as unpowered until the link returns, unless
it is STARTING (R570). -/
def State.linkLost (s : State) (g : Nat) : State :=
  if s.flag (IOG_Gg_STAT_LINK g) && decide ((s.group g).frame + 50000 ≤ s.now) then
    let s := (s.wr (IOG_Gg_STAT_LINK g) 0).wrBit IOG_CAP_LINK g false
    let s := s.setGroup g { s.group g with aboveWarn := false, aboveRec := false }
    if s.supply g = supStarting then s else s.supplyMove g supUnpowered
  else s

def execStatusLinkLost (g : Fin 12) (t : Nat) (s : State) : Host.Outcome State Fault Refusal := .next ((s.begin t).linkLost g)

/-! ### Counting and frequency (R252 to R254) -/

/-- COUNTER_EDGE on a quadrature pair: `a` is channel A, `onB` that the edge is B's, `both` that A and B changed within
one I/O clock. -/
def State.quadEdge (s : State) (a : Nat) (onB level both : Bool) : State :=
  let ca := s.chan a
  let cb := s.chan (a + 1)
  if both then
    let s := s.setChan a { ca with level := !ca.level }
    (s.setChan (a + 1) { cb with level := !cb.level, qerr := min 0xFFFF (cb.qerr + 1) }).setFlag (a + 1) flQerr
  else
    let up := if onB then ca.level == level else level != cb.level
    let s := s.setChan a { ca with
      level := if onB then ca.level else level, count := (ca.count + (if up then 1 else 2 ^ 32 - 1)) % 2 ^ 32 }
    s.setChan (a + 1) { cb with level := if onB then level else cb.level, down := !up }

/-- A rising edge of a FREQUENCY channel at time e. -/
def State.gateEdge (s : State) (n e : Nat) : State :=
  let c := s.chan n
  match c.gate with
  | none => s.setChan n { c with gate := some ⟨e, 0, e⟩ }
  | some g =>
    if g.k + 1 = 2 then s.setChan n { c with count := 2000000000000 / (e - g.open_), gate := some ⟨e, 0, e⟩, gated := true }
    else s.setChan n { c with gate := some ⟨g.open_, g.k + 1, e⟩ }

/-- An edge while the counters hold: only the levels follow. -/
def State.edgeHeld (s : State) (n : Nat) (level both : Bool) : State :=
  let flip (s : State) (m : Nat) : State := s.setChan m { s.chan m with level := !(s.chan m).level }
  if both && s.chMode n == modeCounter && s.quadB n then flip (flip s (n - 1)) n
  else if both && s.chMode n == modeCounter && s.flag (IOG_CHn_CFG_QUAD n) then flip (flip s n) (n + 1)
  else s.setChan n { s.chan n with level := level }

/-- COUNTER_EDGE (R253, R254): an edge after the glitch filter, to `level`; time stamps resolve 10 ns. Counters hold in
a group that is UNPOWERED (R271) or in its reset. -/
def State.counterEdge (s : State) (n : Nat) (level both : Bool) : State :=
  let g := n / 16
  let c := s.chan n
  if !s.io.active then s
  else if (s.group g).resetting || s.supply g == supUnpowered then s.edgeHeld n level both
  else if s.chMode n = modeCounter then
    if s.quadB n then s.quadEdge (n - 1) true level both
    else if s.flag (IOG_CHn_CFG_QUAD n) then s.quadEdge n false level both
    else
      let sel := match s.rd (IOG_CHn_CFG_EDGE n) with
        | 0 => level
        | 1 => !level
        | _ => true
      s.setChan n { c with level := level, count := if sel then (c.count + 1) % 2 ^ 32 else c.count }
  else if s.chMode n = modeFrequency then
    let s := s.setChan n { c with level := level }
    if level then s.gateEdge n (s.now / 10 * 10) else s
  else s

def execCounterEdge (n : Fin 192) (level both : Bool) (t : Nat) (s : State) : Host.Outcome State Fault Refusal :=
  .next ((s.begin t).counterEdge n level both)

/-- FREQUENCY_GATE_TIMEOUT (R254): 100 ms after it opened, the gate closes. -/
def State.gateTimeout (s : State) (n : Nat) : State :=
  let c := s.chan n
  match c.gate with
  | none => s
  | some g =>
    if g.open_ + 100000000 ≤ s.now then
      s.setChan n { c with
        count := if g.k = 0 then 0 else g.k * 1000000000000 / (g.last - g.open_), gate := none, gated := true }
    else s

def execFrequencyGateTimeout (n : Fin 192) (t : Nat) (s : State) : Host.Outcome State Fault Refusal :=
  .next ((s.begin t).gateTimeout n)

/-! ### The scanner (R247 to R250, R261) -/

/-- Whether readback and cross checks run in a supply state: R271 suspends them in two. -/
def supChecks (st : Nat) : Bool := st != supUnder && st != supUnpowered

/-- The filter of one channel takes a sample (R248). -/
def filterStep (t : Nat) (c : Chan) (v : Bool) : Chan :=
  let k := if v then (if c.c < t then c.c + 1 else c.c) else c.c - 1
  { c with c := k, y := if k = t then true else if k = 0 then false else c.y }

/-- Readback of one output channel at a sample (R261): five consecutive mismatches after SETTLE are a fault. -/
def State.readback (s : State) (n : Nat) (v : Bool) : State :=
  let c := s.chan n
  let on := s.flag (IOG_CHn_STAT_SWON n)
  let settled := decide (c.moved + s.rd (IOG_CHn_FILT_SETTLE n) * 10000 ≤ s.now) && decide (c.frozen ≤ s.now) &&
    !(match s.io.pulse with | some p => p.ch == n && p.opened | none => false)
  if s.isOutput n && supChecks (s.supply (n / 16)) && settled then
    if on = v then s.setChan n { c with miss := 0 }
    else if c.miss + 1 < 5 then s.setChan n { c with miss := c.miss + 1 }
    else
      let s := s.setChan n { c with miss := 0 }
      if v then s.setFlag n flExtfeed else if c.limit then s else s.setFlag n flOnlow
  else s.setChan n { c with miss := 0 }

/-- One channel at a sample: filter, readback, last valid values, status. Where filters are seeded, the sample is also
the level from which edges are told apart (R253). A change of a filtered input that PWR_WAKECHj names wakes (R508). -/
def State.sampleChan (s : State) (n : Nat) (v : Bool) : State :=
  let g := n / 16
  let x := s.group g
  let c := s.chan n
  let pulsing : Bool := match s.io.pulse with | some p => p.ch == n && p.opened | none => false
  let t := s.rd (IOG_CHn_FILT_T n)
  let c := if x.seed then { c with c := if v then t else 0, y := v, level := v }
    else if pulsing || decide (s.now < c.frozen) then c
    else filterStep t c v
  let wakes := !x.seed && c.y != (s.chan n).y && s.bit (PWR_WAKECHj (n / 32)) (n % 32)
  let s := if wakes then s.wakeEdge 2 else s
  let s := (s.setChan n c).readback n v
  let c := s.chan n
  let s := if s.chInvalid n then s else s.setChan n { c with bit := c.y, word := s.liveWord n }
  let s := (s.wrB (IOG_CHn_STAT_IN n) c.y).wrB (IOG_CHn_STAT_RAW n) v
  let m := s.chMode n
  let s := s.wr (IOG_CHn_CNT_VALUE n) (if m = modeCounter ∨ m = modeFrequency then s.liveWord n else c.c)
  s.syncChan n

/-- The image that a group publishes after a sample (R250, R251). -/
def State.groupImage (s : State) (g : Nat) : GroupImage :=
  { valid := true
    stamp := s.now
    bits := (List.range 16).foldl (fun v k =>
      let n := 16 * g + k
      v + 2 ^ k * b2n (if s.chInvalid n then s.bitSub n else (s.chan n).y)) 0
    stat := (groupChans g).map fun n => s.chStatus n
    words := (List.range 4).map fun k =>
      let n := 16 * g + k
      if s.chInvalid n then (if s.chMode n = modeCounter ∨ s.chMode n = modeFrequency then s.wordSub n else 0)
      else s.liveWord n }

/-- The substitute image of a group (R250): substitutes throughout, INVALID in every status byte. -/
def State.substImage (s : State) (g : Nat) : GroupImage :=
  { valid := false
    stamp := s.now
    bits := (List.range 16).foldl (fun v k => v + 2 ^ k * b2n (s.bitSub (16 * g + k))) 0
    stat := (groupChans g).map fun n => s.chStatus n true
    words := (List.range 4).map fun k =>
      let n := 16 * g + k
      if s.chMode n = modeCounter ∨ s.chMode n = modeFrequency then s.wordSub n else 0 }

/-- One group at a sample: its channels, its image and, at a cycle mark, its mark copy; then the Free group judges its
output image. A group in its function reset is not scanned. -/
def State.sampleGroup (s : State) (levels : Nat) (atMark : Bool) (g : Nat) : State :=
  if (s.group g).resetting then s
  else
    let s := (groupChans g).foldl (fun s n => s.sampleChan n (bitAt levels n)) s
    let im := s.groupImage g
    let x := s.group g
    let s := s.setGroup g { x with image := im, mark := if atMark then im else x.mark, seed := false }
    ((s.wr (IOG_Gg_STAT_SCANOK g) 1).wr (IOG_Gg_AGE_AGE g) 0).judgeFree g

/-- SCANNER_SAMPLE (R247): the sense lanes of all 192 channels at an instant when global time is a multiple of 10 µs;
the sample taken at a cycle mark is the mark sample. -/
def execScannerSample (levels : BitVec 192) (t : Nat) (s : State) : Host.Outcome State Fault Refusal :=
  let s := s.begin t
  .next <| if s.io.active && t % 10000 == 0 then
    (List.range 12).foldl (fun s g => s.sampleGroup levels.toNat (t % s.tcNs == 0) g) s else s

/-! ### Off-pulse slots (R262 to R264) -/

/-- When a channel comes due. -/
def State.pulseDue (s : State) (n : Nat) : Nat :=
  max (s.chan n).pulsed (s.chan n).since + s.rd (IOG_CHn_PULSE_PERIOD n) * 10000000

/-- The channels of a group that are due. -/
def State.dueChans (s : State) (g : Nat) : List Nat :=
  (groupChans g).filter fun n =>
    s.isOutput n && s.flag (IOG_CHn_CFG_PULSE n) && (s.chan n).want && decide (s.pulseDue n ≤ s.now)

/-- Slot s begins: it belongs to group s mod 12, which chooses the channel due longest if it is NORMAL or WARNING. -/
def State.slotBegin (s : State) : State :=
  let g := s.now / 2000000 % 12
  let s := (s.pulseEnd.wr IOG_PLSSLOT_GROUP g).wr IOG_PLSSLOT_CHAN 0xFF
  let due := s.dueChans g
  if (s.supply g == supNormal || s.supply g == supWarning) && !(s.group g).resetting && s.pw.phase != .flush then
    match due.find? fun n => due.all fun m => decide (s.pulseDue n ≤ s.pulseDue m) with
    | none => s
    | some n =>
      let c := s.chan n
      let sw := s.chMode n == modeSafe && c.permitNext
      let s := s.setChan n { c with permitNext := if s.chMode n = modeSafe then !c.permitNext else c.permitNext }
      ({ s with io := { s.io with pulse := some ⟨n, sw, false, s.now, false, 0, []⟩ } }.wr IOG_PLSSLOT_CHAN n).wrB IOG_PLSSLOT_SW sw
  else s

/-- The last samples of all channels. -/
def State.rawLevels (s : State) : Nat :=
  (List.range 192).foldl (fun v n => v + 2 ^ n * s.rd (IOG_CHn_STAT_RAW n)) 0

/-- The chosen switch opens 100 µs into the slot; levels and currents of the before sample are kept. -/
def State.pulseOpen (s : State) : State :=
  match s.io.pulse with
  | none => s
  | some p =>
    if p.opened || decide (s.now < p.openAt + 100000) then s
    else
      let n := p.ch
      let q : Pulse := ⟨n, p.permit, true, s.now, false, s.rawLevels, (List.range 192).map fun m => (s.chan m).curr⟩
      let s : State := { s with io := { s.io with pulse := some q } }
      let s := s.setChan n { s.chan n with pulsed := s.now }
      (s.wr (IOG_CHn_STAT_PULSING n) 1).settleChan n

/-- Channels left out of the cross judgement (R273): the pulsed one, one whose switches moved within SETTLE before the
pulse or during it, one whose group's checks are suspended. -/
def State.crossOut (s : State) (p : Pulse) (m : Nat) : Bool :=
  m == p.ch || decide (p.openAt ≤ (s.chan m).moved + s.rd (IOG_CHn_FILT_SETTLE m) * 10000) ||
    !supChecks (s.supply (m / 16))

/-- The rise of a channel's current between the before and the judgement sample. -/
def State.currRise (s : State) (p : Pulse) (m : Nat) : Nat := (s.chan m).curr - p.currs.getD m 0

/-- The instant at which the opened switch closes again, and that of the judgement sample: the last sample at least 6 µs
before it (R263). -/
def State.pulseClosesAt (s : State) (p : Pulse) : Nat := p.openAt + s.rd (IOG_CHn_PULSE_LEN p.ch) * 10000
def State.pulseJudgeAt (s : State) (p : Pulse) : Nat := (s.pulseClosesAt p - 6000) / 10000 * 10000

/-- The judgement of an off-pulse (R263, R265), on the judgement sample. -/
def State.pulseJudge (s : State) : State :=
  match s.io.pulse with
  | none => s
  | some p =>
    if !p.opened || p.judged || !inRange (s.pulseJudgeAt p) (s.pulseJudgeAt p + 10000) s.now then s
    else
      let n := p.ch
      let g := n / 16
      let held := s.flag (IOG_CHn_STAT_RAW n)
      let s : State := { s with io := { s.io with pulse := some { p with judged := true } } }
      let s := (s.wr (IOG_Gg_PLSLAST_CHAN g) (n % 16)).wrB (IOG_Gg_PLSLAST_SW g) p.permit
      let s := (s.wrB (IOG_Gg_PLSLAST_PASS g) (!held)).wr (IOG_Gg_PLSLAST_JUDGED g) 1
      let fell := (List.range 192).filter fun m =>
        s.isOutput m && !s.crossOut p m && !s.flag (IOG_CHn_STAT_SWON m) && bitAt p.before m && !s.flag (IOG_CHn_STAT_RAW m)
      let rose := (List.range 192).filter fun m =>
        !s.crossOut p m && (s.chan m).want && decide (50 ≤ s.currRise p m)
      let s :=
        if !held then s
        else if 10 ≤ (s.chan n).curr then (s.wrB (IOG_CHn_FAULT_SWITCH n) p.permit).setFlag n flStuck
        else
          match rose.find? fun m => rose.all fun q => decide (s.currRise p q ≤ s.currRise p m) with
          | some m => s.setCross n m
          | none => s.setFlag n flHeld
      fell.foldl (fun s m => s.setCross m n) s

/-- LEN after it opened, the switch closes again if command and permit still call for it. -/
def State.pulseClose (s : State) : State :=
  match s.io.pulse with
  | none => s
  | some p => if p.opened && decide (s.pulseClosesAt p ≤ s.now) then (s.pulseEnd).settleChan p.ch else s

/-- OFF_PULSE_SLOT (R262 to R264): one step of the slot. -/
def execOffPulseSlot (step : PulseStep) (t : Nat) (s : State) : Host.Outcome State Fault Refusal :=
  let s := s.begin t
  .next <| if !s.io.active then s else
    match step with
    | .begin => if t % 2000000 = 0 then s.slotBegin else s
    | .opens => s.pulseOpen
    | .judge => s.pulseJudge
    | .closes => s.pulseClose

/-! ### Group function reset (R272) -/

/-- The register addresses the function reset of group g reaches. -/
def groupAddr (g a : Nat) : Bool :=
  inArea .iog (0x10600100 + 0x40 * g) (0x10600140 + 0x40 * g) a || inArea .chan (0x10601000 + 0x200 * g) (0x10601200 + 0x200 * g) a

/-- GROUP_RESET (R272): the group image is invalid, lanes are at fallback, counters are zero, gates close, a pulse is
abandoned; flags, latches and the supply state are kept. The lanes and the switches are live. -/
def State.groupReset (s : State) (g : Nat) : State :=
  let s := s.pulseEndIn g
  let lanes := (groupChans g).map fun n => (s.flag (IOG_CHn_STAT_CMDLANE n), s.flag (IOG_CHn_STAT_SWON n))
  let s := s.restore (·.f) (groupAddr g)
  let s := (List.range 16).foldl (fun s k =>
    let n := 16 * g + k
    let l := lanes.getD k (false, false)
    let s := (s.wrB (IOG_CHn_STAT_CMDLANE n) l.1).wrB (IOG_CHn_STAT_SWON n) l.2
    s.setChan n { s.chan n with count := 0, qerr := 0, down := false, gate := none, gated := false, miss := 0 }) s
  let x := s.group g
  (s.setGroup g { x with
    resetting := true, seed := true, image := { x.image with valid := false, stamp := s.now }
    mark := { x.mark with valid := false } }).settleGroup g

def execGroupReset (g : Fin 12) (t : Nat) (s : State) : Host.Outcome State Fault Refusal :=
  let s := s.begin t
  .next (if s.pw.phase == .running then s.groupReset g else s)

/-- GROUP_RESET_DONE (R272): RSTDONE, and no event. -/
def State.groupResetDone (s : State) (g : Nat) : State :=
  let x := s.group g
  if x.resetting then
    ((s.setGroup g { x with resetting := false }).wr (IOG_Gg_STAT_RSTDONE g) 1).settleGroup g
  else s

def execGroupResetDone (g : Fin 12) (t : Nat) (s : State) : Host.Outcome State Fault Refusal :=
  .next ((s.begin t).groupResetDone g)

/-! ### Start and stop of the field channels (R91, R260) -/

/-- The scanner starts at the end of key apply: filters are seeded at the first sample, every group is STARTING. -/
def State.fieldStart (s : State) : State :=
  let s : State := { s with io := { s.io with active := true, chans := [] } }
  ((List.range 12).foldl (fun (s : State) g =>
    let x := s.group g
    s.setGroup g { groupInit with frame := x.frame, aboveWarn := x.aboveWarn, aboveRec := x.aboveRec }) s).settleAll

/-- Every switch opens and the scanner stops. -/
def State.fieldStop (s : State) : State :=
  ({ s.pulseEnd with io := { s.pulseEnd.io with active := false } } : State).settleAll

end Sys2Proof.Machine
end

