-- ==== Sys2Proof/Machine/RsCode.lean ====
section
/-!
DEFINITION. The row code of R431 to R436: bytes over GF(2^8), 44 symbols a row (8 check, 32 data, 4 virtual), with an
encoder and a decoder that locates up to four bad symbols. Symbols and polynomials are lists of bytes held as numbers;
the entry at index k of a row is the symbol at position k.
-/

namespace Sys2Proof.Machine

/-- x^8 + x^4 + x^3 + x^2 + 1 (R431). -/
def gfPoly : Nat := 0x11D

/-- Multiplication by x, that is by α. -/
def gfTwice (a : Nat) : Nat := if 2 * a < 256 then 2 * a else (2 * a) ^^^ gfPoly

/-- The product in GF(2^8), by the lowest n bits of b. -/
def gfMulAux : Nat → Nat → Nat → Nat
  | 0, _, _ => 0
  | n + 1, a, b => (if b % 2 = 1 then a else 0) ^^^ gfMulAux n (gfTwice a) (b / 2)

/-- The product in GF(2^8). -/
def gfMul (a b : Nat) : Nat := gfMulAux 8 a b

/-- α to a power. -/
def gfExp : Nat → Nat
  | 0 => 1
  | n + 1 => gfTwice (gfExp n)

/-- A power of an element. -/
def gfPow (a : Nat) : Nat → Nat
  | 0 => 1
  | n + 1 => gfMul a (gfPow a n)

/-- The inverse: a to the power 254. -/
def gfInv (a : Nat) : Nat := gfPow a 254

/-- The value of a polynomial at a point; the lowest coefficient comes first. -/
def gfEval (x : Nat) : List Nat → Nat
  | [] => 0
  | c :: r => c ^^^ gfMul x (gfEval x r)

/-- Sum of two polynomials. -/
def gfAdd : List Nat → List Nat → List Nat
  | [], q => q
  | p, [] => p
  | a :: p, b :: q => (a ^^^ b) :: gfAdd p q

/-- A polynomial times a scalar. -/
def gfScale (c : Nat) (p : List Nat) : List Nat := p.map (gfMul c)

/-- Product of two polynomials. -/
def gfConv : List Nat → List Nat → List Nat
  | [], _ => []
  | a :: p, q => gfAdd (gfScale a q) (0 :: gfConv p q)

/-- g(x), the product of x + α^i for i from 0 to 7 (R431). -/
def rsGen : List Nat := (List.range 8).foldl (fun g i => gfConv g [gfExp i, 1]) [1]

/-- One step of the division by g: the remainder r(x) times x plus a symbol, modulo g. -/
def rsShift (r : List Nat) (d : Nat) : List Nat :=
  let top := r.getD 7 0
  (gfAdd (d :: r.take 7) (gfScale top rsGen)).take 8

/-- Symbols, highest position first, modulo g(x). -/
def rsRemainder (hi : List Nat) : List Nat := hi.foldl rsShift (List.replicate 8 0)

/-- The four virtual bytes of a row: the little-endian bytes of MEMID × 2^28 + row index (R432). -/
def virtualBytes (memid row : Nat) : List Nat := (leBytes 4 (memid * 2 ^ 28 + row)).map BitVec.toNat

/-- The check bytes C0 to C7 of 32 data bytes and 4 virtual bytes (R431). -/
def rsCheck (data virt : List Nat) : List Nat :=
  rsRemainder ((data ++ virt).reverse ++ List.replicate 8 0)

/-- The eight syndromes of an error pattern of 44 symbols. -/
def rsSyndromes (e : List Nat) : List Nat := (List.range 8).map fun i => gfEval (gfExp i) e

/-- The state of the shift-register search: the locator, the previous locator, its length, the gap and the last
discrepancy. -/
structure RsSearch where
  loc : List Nat
  prev : List Nat
  len : Nat
  gap : Nat
  disc : Nat
  deriving DecidableEq, Repr

/-- One step of the search for the shortest locator that explains the syndromes up to index n. -/
def rsSearchStep (syn : List Nat) (b : RsSearch) (n : Nat) : RsSearch :=
  let d := ((List.range (b.len + 1)).map fun i => gfMul (b.loc.getD i 0) (if i ≤ n then syn.getD (n - i) 0 else 0)).foldl
    (· ^^^ ·) 0
  if d = 0 then { b with gap := b.gap + 1 }
  else
    let loc := gfAdd b.loc (List.replicate b.gap 0 ++ gfScale (gfMul d (gfInv b.disc)) b.prev)
    if 2 * b.len ≤ n then ⟨loc, b.loc, n + 1 - b.len, 1, d⟩ else { b with loc := loc, gap := b.gap + 1 }

/-- The error locator of eight syndromes and the number of errors it stands for. -/
def rsLocator (syn : List Nat) : List Nat × Nat :=
  let b := (List.range 8).foldl (rsSearchStep syn) ⟨[1], [1], 0, 1, 1⟩
  (b.loc, b.len)

/-- The formal derivative of a polynomial. -/
def gfDeriv (p : List Nat) : List Nat := (List.range (p.length - 1)).map fun i => if i % 2 = 0 then p.getD (i + 1) 0 else 0

/-- The errors that a locator and the syndromes give: position and magnitude. -/
def rsErrors (syn loc : List Nat) : List (Nat × Nat) :=
  let om := (gfConv syn loc).take 8
  let dv := gfDeriv loc
  (List.range 44).filterMap fun k =>
    let xi := gfInv (gfExp k)
    if gfEval xi loc = 0 then
      some (k, gfMul (gfExp k) (gfMul (gfEval xi om) (gfInv (gfEval xi dv))))
    else none

/-- What the decoder finds in a row whose stored and virtual symbols differ from a codeword by `e`: up to four errors
(position, magnitude), or no solution (R434). -/
def rsDecode (e : List Nat) : Option (List (Nat × Nat)) :=
  let syn := rsSyndromes e
  if syn.all (· == 0) then some []
  else
    let (loc, len) := rsLocator syn
    let es := rsErrors syn loc
    if decide (len ≤ 4) && es.length == len && es.all (fun x => x.2 != 0) then some es else none

/-- The results of R435. -/
inductive EccResult where
  | clean | corrected | addrFault | poison | uncorr
  deriving DecidableEq, Repr

/-- The codes of R435. -/
def EccResult.code : EccResult → Nat
  | .clean => 0 | .corrected => 1 | .addrFault => 2 | .poison => 3 | .uncorr => 4

/-- Whether a result is treated as uncorrectable (R435). -/
def EccResult.bad : EccResult → Bool
  | .clean => false | .corrected => false | _ => true

/-- The result of R435 for what the decoder found: stored positions are 0 to 39, virtual ones 40 to 43. -/
def eccResult : Option (List (Nat × Nat)) → EccResult
  | none => .uncorr
  | some [] => .clean
  | some es =>
    if es.all fun x => decide (x.1 < 40) then .corrected
    else if es.contains (43, 0xF0) && es.all (fun x => decide (x.1 < 40) || x == (43, 0xF0)) then .poison
    else .addrFault

/-- The 44 symbols of an error pattern held as a number: bit i of the symbol at position k is bit 8k + i (R431). -/
def patSyms (v : Nat) : List Nat := (List.range 44).map fun k => bitsAt v (8 * k) 8

/-- The number that holds a list of errors. -/
def patOf (es : List (Nat × Nat)) : Nat := es.foldl (fun v x => v ^^^ (x.2 * 2 ^ (8 * x.1))) 0

end Sys2Proof.Machine
end

