-- ==== Sys2Proof/Machine/Units.lean ====
section
/-!
DEFINITION. The check-value units (R391, R392).
-/

namespace Sys2Proof.Machine

/-- The value of a code over bytes from an initial value, final XOR applied, and that XOR. -/
def unitValue (poly init : Nat) (bs : List Byte) : Nat :=
  match poly with
  | 0 => crc32cSeed (init % 2 ^ 32) bs
  | 1 => crc32Seed (init % 2 ^ 32) bs
  | 2 => crc16Seed (init % 2 ^ 16) bs
  | _ => crc64Seed init bs
def unitXor (poly : Nat) : Nat := match poly with | 0 => 0xFFFFFFFF | 1 => 0xFFFFFFFF | 2 => 0xFFFF | _ => 0

/-- The initial value of a unit: SEED, or the default of R382 where it is 0. -/
def State.unitInit (s : State) (u : Nat) : Nat :=
  let poly := s.rd (CVU_Uu_CFG_POLY u)
  let seed := if poly = 3 then s.rd64 (CVU_Uu_SEED_LO u) (CVU_Uu_SEED_HI u) else s.rd (CVU_Uu_SEED_LO u)
  if seed = 0 then unitXor poly else seed

/-- A result is on its way to RES; BUSY shows that of a frame. -/
def State.unitPend (s : State) (u v : Nat) (frame : Bool) : State :=
  let s := if frame then s.wr (CVU_Uu_STAT_BUSY u) 1 else s
  { s with cvu := { s.cvu with results := s.cvu.results ++ [(u, v, frame)] } }

/-- A frame passes a stream: every enabled unit of that source computes over it; a safe transport unit computes a SAFE
message's CRC with the SEED of its context, and over any other frame's payload with the default initial value. -/
def State.unitFrame (s : State) (src port : Nat) (fid : Option Nat) (seed : Option Nat) (payload : List Byte) : State :=
  (List.range 8).foldl (fun s u =>
    if s.flag (CVU_Uu_CFG_EN u) && s.rd (CVU_Uu_CFG_SRC u) == src && (src != 4 || s.rd (CVU_Uu_CFG_PORT u) == port) &&
        !s.cvu.resetting then
      if s.flag (CVU_Uu_CFG_SAFE u) then
        match seed with
        | some sd => s.unitPend u (crc32cSeed sd (payload.take (payload.length - 4))) true
        | none => s.unitPend u (crc32c payload) true
      else if s.flag (CVU_Uu_CFG_FILT u) && src != 4 && fid != some (s.rd (CVU_Uu_CFG_FRAMEID u)) then s
      else
        let n := s.rd (CVU_Uu_RANGE_LEN u)
        let d := payload.drop (s.rd (CVU_Uu_RANGE_START u))
        let d := if n = 0 ∨ src = 4 then d else d.take n
        s.unitPend u (unitValue (s.rd (CVU_Uu_CFG_POLY u)) (s.unitInit u) d) true
    else s) s

/-- The running value of a unit in window mode, at this instant. -/
def State.unitRunning (s : State) (u : Nat) : UnitRun :=
  match tblFind u s.cvu.running with
  | some r => if r.at_ = s.now then r else ⟨r.v, s.now, s.unitInit u⟩
  | none => ⟨s.unitInit u, s.now, s.unitInit u⟩

/-- A write of bytes (address, value) passes the fabric: units in window mode run over those inside their window. -/
def State.unitWrite (s : State) (bytes : List (Nat × Byte)) : State :=
  (List.range 8).foldl (fun s u =>
    if s.flag (CVU_Uu_CFG_EN u) && s.rd (CVU_Uu_CFG_SRC u) == 3 && !s.cvu.resetting then
      let base := s.rd (CVU_Uu_WBASE_BASE u) * 64
      let size := s.rd (CVU_Uu_WSIZE_SIZE u) * 64
      let d := (bytes.filter fun e => decide (base ≤ e.1) && decide (e.1 < base + size)).map (·.2)
      if d = [] then s
      else
        let poly := s.rd (CVU_Uu_CFG_POLY u)
        let r := s.unitRunning u
        let v := unitValue poly r.v d
        let same := unitValue poly r.same d
        ({ s with cvu := { s.cvu with
          running := tblPut u ⟨v ^^^ unitXor poly, s.now, same ^^^ unitXor poly⟩ s.cvu.running } } : State).unitPend u v false
    else s) s

/-- UNIT_FRAME_RESULT (R391, R392): the oldest result of a unit reaches RES, and is compared with EXP if CMP is set. -/
def State.unitResult (s : State) (u : Nat) : State :=
  match s.cvu.results.find? fun r => r.1 == u with
  | none => s
  | some r =>
    let rest := s.cvu.results.erase r
    let s : State := { s with cvu := { s.cvu with results := rest } }
    let s := (s.wr64 (CVU_Uu_RES_LO u) (CVU_Uu_RES_HI u) r.2.1).wr (CVU_Uu_STAT_DONEEV u) 1
    let s := if r.2.2 then
        (s.tick (CVU_Uu_STAT_FRAMES u)).wrB (CVU_Uu_STAT_BUSY u) (rest.any fun q => q.1 == u && q.2.2)
      else s
    if s.flag (CVU_Uu_CFG_CMP u) && r.2.1 != s.rd64 (CVU_Uu_EXP_LO u) (CVU_Uu_EXP_HI u) then
      ((s.wr (CVU_Uu_STAT_MISEV u) 1).bump (CVU_Uu_MISCNT_CNT u)).raise (150 + u)
    else s

def execUnitFrameResult (u : Fin 8) (t : Nat) (s : State) : Host.Outcome State Fault Refusal :=
  .next ((s.begin t).unitResult u)

/-- UNIT_RESTART (R391): the running value of a unit in window mode is its initial value again, and the writes of the
same clock are counted after it (R395). -/
def State.unitRestart (s : State) (u : Nat) : State :=
  match tblFind u s.cvu.running with
  | none => s
  | some r =>
    if r.at_ = s.now then
      ({ s with cvu := { s.cvu with running := tblPut u ⟨r.same, s.now, r.same⟩ s.cvu.running } } : State).unitPend u
        (r.same ^^^ unitXor (s.rd (CVU_Uu_CFG_POLY u))) false
    else { s with cvu := { s.cvu with running := tblDel u s.cvu.running } }

def execUnitRestart (u : Fin 8) (t : Nat) (s : State) : Host.Outcome State Fault Refusal :=
  .next ((s.begin t).unitRestart u)

end Sys2Proof.Machine
end

