-- ==== Sys2Proof/Machine/Ecc.lean ====
section
/-!
DEFINITION. Memory and error correction (R429 to R454): rows and their errors, corrections and the correction table,
remapping to spares (R446, R464, R465), uncorrectable rows, the scrubbers, the fill engine and the checker test mode.
-/

namespace Sys2Proof.Machine

/-! ### Rows -/

/-- The number by which a row is known: MEMID × 2^28 + row index (R432). -/
def rowKey (memid row : Nat) : Nat := memid * 2 ^ 28 + row

/-- Rows a memory has (R429); 0 for a MEMID that names none. -/
def rowCount (memid : Nat) : Nat :=
  match memid with
  | 1 => 2 ^ 28 | 2 => 2 ^ 19 | 3 => 2 ^ 18 | 4 => 2 ^ 18 | 5 => 2 ^ 16 | 6 => 2 ^ 13 | 7 => 2 ^ 12 | _ => 0

/-- The physical address of a row's first byte, for a memory that has addresses (R163, R346, R565). -/
def rowAddr (memid row : Nat) : Option Nat :=
  match memid with
  | 1 => some (0x800000000 + 32 * row)
  | 2 => some (sramBase + 32 * row)
  | 4 => some (0x20000000 + row / 2 ^ 16 * 0x400000 + row / 2 ^ 15 % 2 * 0x100000 + row % 2 ^ 15 * 32)
  | 5 => some (0x20000000 + row / 2 ^ 14 * 0x400000 + 0x200000 + row % 2 ^ 14 * 32)
  | 7 => some (0x10840000 + 32 * row)
  | _ => none

/-- The memory and row of an address of DRAM, shared SRAM or a host buffer. -/
def rowOf (a : Nat) : Option (Nat × Nat) :=
  if inRange 0x800000000 0xA00000000 a then some (1, a % 0x200000000 / 32)
  else if inRange 0x1000000 0x2000000 a then some (2, a % 0x1000000 / 32)
  else if inRange 0x10840000 0x10860000 a then some (7, a % 0x20000 / 32)
  else none

/-- A byte of a logic-engine memory. -/
def State.leByte (s : State) (a : Nat) : Byte := tblGet 0 a s.leMem

/-- Write a byte of a logic-engine memory. -/
def State.putLeByte (s : State) (a : Nat) (b : Byte) : State := { s with leMem := tblSet 0 a b s.leMem }

/-- Write bytes of a logic-engine memory. -/
def State.putLeBytes (s : State) (a : Nat) : List Byte → State
  | [] => s
  | b :: r => (s.putLeByte a b).putLeBytes (a + 1) r

/-- Bytes of a logic-engine memory. -/
def State.leBytesAt (s : State) (a n : Nat) : List Byte := (List.range n).map fun i => s.leByte (a + i)

/-- The retain data of an engine as its shadow and the NAND copy hold them (R219): the tag, then the data. -/
def retainImage (r : Retain) : List Byte :=
  let tag := [0x4C, 0x45, 0x52, 0x43, byteOf r.engine, 0, 0, 0] ++ leBytes 4 r.progid ++ leBytes 4 r.rmapcrc ++
    leBytes 2 r.consist ++ [byteOf r.car, byteOf r.module] ++ leBytes 4 r.cycle ++ leBytes 8 r.stamp ++
    leBytes 4 r.data.length ++ List.replicate 24 0
  tag ++ leBytes 4 (crc32c (tag ++ r.data)) ++ r.data

/-- What the last write left in a row of L2 or of a retain shadow (R219, R429); no command says what L2 holds. -/
def State.arrayRow (s : State) (memid row : Nat) : List Byte :=
  let open_ (n : Nat) := (List.range 32).map fun i => Config.arrayByte n (32 * rowKey memid row + i)
  if memid = 6 then
    match (s.engine (row / 2 ^ 11)).retain with
    | some r =>
      let bs := (retainImage r).drop (32 * (row % 2 ^ 11)) |>.take 32
      bs ++ (open_ 0).drop bs.length
    | none => open_ 0
  else open_ s.now

/-- The 32 data bytes of a row. -/
def State.rowData (s : State) (memid row : Nat) : List Byte :=
  match rowAddr memid row with
  | none => (List.range 32).zipWith (fun i b => (tblFind (32 * rowKey memid row + i) s.ecc.arr).getD b) (s.arrayRow memid row)
  | some a => if memid = 4 ∨ memid = 5 then s.leBytesAt a 32 else s.bytes a 32

/-- Keep bytes in a table, from a key on. -/
def tblPuts (k : Nat) : List Byte → Tbl Byte → Tbl Byte
  | [], m => m
  | b :: r, m => tblPuts (k + 1) r (tblPut k b m)

/-- Replace data bytes of a row from an offset on. -/
def State.putRow (s : State) (memid row off : Nat) (bs : List Byte) : State :=
  match rowAddr memid row with
  | none => { s with ecc := { s.ecc with arr := tblPuts (32 * rowKey memid row + off) bs s.ecc.arr } }
  | some a => if memid = 4 ∨ memid = 5 then s.putLeBytes (a + off) bs else s.putBytes (a + off) bs

/-- The error pattern of a row: 0 for a sound one. -/
def State.rowErr (s : State) (memid row : Nat) : Nat := tblGet 0 (rowKey memid row) s.ecc.err

/-- Replace the error pattern of a row. -/
def State.setErr (s : State) (memid row e : Nat) : State :=
  { s with ecc := { s.ecc with err := tblSet 0 (rowKey memid row) e s.ecc.err } }

/-- The data symbols of a pattern. -/
def dataSyms (e : Nat) : List Byte := ((patSyms e).map byteOf).drop 8 |>.take 32

/-- The bitwise difference of two byte lists. -/
def xorBytes (a b : List Byte) : List Byte := a.zipWith (· ^^^ ·) b

/-- Change the data of a row by the data symbols of a pattern: what a decode that finds another codeword does. -/
def State.absorb (s : State) (memid row e : Nat) : State :=
  if bitsAt e 64 256 = 0 then s else s.putRow memid row 0 (xorBytes (s.rowData memid row) (dataSyms e))

/-- The pattern that is left of a row's once the symbols that a decode finds are taken out of it. -/
def State.missed (s : State) (memid row : Nat) : Nat :=
  let e := s.rowErr memid row
  e ^^^ patOf ((rsDecode (patSyms e)).getD [])

/-- The data of a correctable row as a reader gets them (R441): corrected. -/
def State.delivered (s : State) (memid row : Nat) : List Byte :=
  if s.rowErr memid row = 0 then s.rowData memid row
  else xorBytes (s.rowData memid row) (dataSyms (s.missed memid row))

/-- The pattern of a row written as poison (R436): V3 XOR 0xF0, position 43. -/
def poisonPat : Nat := 0xF0 * 2 ^ (8 * 43)

/-- Whether a stored row decodes to an uncorrectable result. -/
def State.rowBad (s : State) (memid row : Nat) : Bool :=
  let e := s.rowErr memid row
  e != 0 && (eccResult (rsDecode (patSyms e))).bad

/-- The rows with an error pattern that meet a test, memory by memory and row by row. -/
def State.errRows (s : State) (p : Nat → Nat → Bool) : List (Nat × Nat) :=
  (s.ecc.err.map fun x => (x.1 / 2 ^ 28, x.1 % 2 ^ 28)).filter fun r => p r.1 r.2

/-- The rows with an error pattern among those of n bytes from address a. -/
def State.rangeRows (s : State) (a n : Nat) : List (Nat × Nat) :=
  s.errRows fun memid row => match rowAddr memid row with | none => false | some r => decide (r < a + n) && decide (a < r + 32)

/-! ### The correction table (R443 to R447) -/

abbrev ctFree : Nat := 0
abbrev ctSoft : Nat := 1
abbrev ctHard : Nat := 2
abbrev ctRemapped : Nat := 3
abbrev ctPinned : Nat := 4

def State.ctState (s : State) (i : Nat) : Nat := s.rd (ECC_CTi_INFO_STATE i)
def State.ctKey (s : State) (i : Nat) : Nat := rowKey (s.rd (ECC_CTi_LOC_MEMID i)) (s.rd (ECC_CTi_LOC_ROW i))
def State.ctTime (s : State) (i : Nat) : Nat := s.rd64 (ECC_CTi_TIME_LO i) (ECC_CTi_TIME_HI i)

/-- The entry that names a row. -/
def State.ctEntry (s : State) (memid row : Nat) : Option Nat :=
  (List.range 32).find? fun i => s.ctState i != ctFree && s.ctKey i == rowKey memid row

/-- An entry changes state: CTEV, source 32 and a record (R444). -/
def State.ctMove (s : State) (i st : Nat) : State :=
  if s.ctState i = st then s
  else
    (((s.wr (ECC_CTi_INFO_STATE i) st).wr ECC_STAT_CTEV 1).raise 32).record 3 5 32 0xFFFF
      (some (0x10400404 + 0x10 * i)) (some (0x10400400 + 0x10 * i))

/-- Free an entry: it names no row. -/
def State.ctRelease (s : State) (i : Nat) : State :=
  let s := s.ctMove i ctFree
  let s := ((s.wr (ECC_CTi_LOC_ROW i) 0).wr (ECC_CTi_LOC_MEMID i) 0).wr (ECC_CTi_INFO_LAPCNT i) 0
  let s := ((s.wr (ECC_CTi_INFO_COUNT i) 0).wr (ECC_CTi_INFO_POS i) 0).wr (ECC_CTi_INFO_NSYM i) 0
  s.wr64 (ECC_CTi_TIME_LO i) (ECC_CTi_TIME_HI i) 0

/-- The SOFT entry with the oldest last correction. -/
def State.ctOldestSoft (s : State) : Option Nat :=
  let soft := (List.range 32).filter fun i => s.ctState i == ctSoft
  soft.find? fun i => soft.all fun j => decide (s.ctTime i ≤ s.ctTime j)

/-- The entry that a correction of a row takes (R444). -/
def State.ctTake (s : State) (memid row : Nat) : Option Nat :=
  match s.ctEntry memid row with
  | some i => some i
  | none =>
    match (List.range 32).find? fun i => s.ctState i == ctFree with
    | some i => some i
    | none => s.ctOldestSoft

/-! ### Spares (R464, R465, R468) -/

/-- The bank a row belongs to, among the banks of its memory that have spare rows. -/
def spareBank (memid row : Nat) : Nat :=
  memid * 64 +
    (if memid = 2 ∨ memid = 3 ∨ memid = 4 then row / 2 ^ 15
     else if memid = 5 then row / 2 ^ 14
     else if memid = 6 then row / 2 ^ 11
     else 0)

/-- Spare rows left in the banks of a memory. -/
def State.sparesLeft (s : State) (memid banks : Nat) : Nat :=
  (List.range banks).foldl (fun n b => n + (8 - tblGet 0 (memid * 64 + b) s.cop.rowsUsed)) 0

/-- The DRAM channel of a row: bit 1 of the row index (R433). -/
def dramChannel (row : Nat) : Nat := row / 2 % 2

/-- Controller spares in use on a channel. -/
def State.ctlUsed (s : State) (ch : Nat) : Nat := (s.cop.ctlSpare.filter fun x => dramChannel x.1 == ch).length

/-- Hard repair resources: one per bank group of each x8 device (R465); JEDEC DDR4 gives an x8 device four bank groups,
and R433 gives the module twenty devices. -/
def hardResources : Nat := 80

/-- CPC_SPARE_SRAM, CPC_SPARE_DRAM and CPC_PEND show the spares as they stand. -/
def State.syncSpares (s : State) : State :=
  let s := (s.wr CPC_SPARE_SRAM_SRAM (s.sparesLeft 2 16)).wr CPC_SPARE_SRAM_L2 (s.sparesLeft 3 8)
  let s := (s.wr CPC_SPARE_SRAM_LE (s.sparesLeft 4 8 + s.sparesLeft 5 4)).wr CPC_SPARE_SRAM_OTHER
    (s.sparesLeft 6 4 + s.sparesLeft 7 1)
  let s := (s.wr CPC_SPARE_DRAM_CH0 (32 - s.ctlUsed 0)).wr CPC_SPARE_DRAM_CH1 (32 - s.ctlUsed 1)
  (s.wr CPC_SPARE_DRAM_HARD (hardResources - s.cop.hardUsed)).wr CPC_PEND_ROWS
    (sat 8 (s.cop.ctlSpare.length + s.cop.softRows.length))

/-- The devices whose symbols a correction changed (R433): D_p lies on device p mod 8, C_j on device 8 + (j mod 2). -/
def devicesOf (es : List (Nat × Nat)) : Nat :=
  es.foldl (fun m x => m ||| 2 ^ (if x.1 < 8 then 8 + x.1 % 2 else (x.1 - 8) % 8)) 0

/-- The BIST_MASK1 bit of the memory group of a MEMID (R455); 8 and 9 stand for the L1 caches and for the queues and
tables, whose rows have no MEMID and no spares (log entry 120). -/
def groupBit (memid : Nat) : Nat :=
  match memid with
  | 2 => 16 | 3 => 17 | 4 => 18 | 5 => 18 | 6 => 19 | 7 => 19 | 8 => 17 | 9 => 20 | _ => 21

/-- Whether rows of a memory have spares. -/
def spared (memid : Nat) : Bool := decide (1 ≤ memid) && decide (memid < 8)

/-- Whether memory BIST marches a memory. -/
def State.marched (s : State) (memid : Nat) : Bool := s.cop.run.any fun (r : BistRun) => r.todo.head? == some (groupBit memid)

/-- Move a row to a spare of its memory (R464, R465): a DRAM row to a controller spare, without a log entry; any other
row to a spare row of its bank, logged. The answer says whether a spare was left. -/
def State.takeSpare (s : State) (memid row devs : Nat) (werr : Bool) : Bool × State :=
  if memid = 1 then
    let u := s.ctlUsed (dramChannel row)
    if 32 ≤ u then (false, s)
    else
      let s : State := { s with cop := { s.cop with ctlSpare := s.cop.ctlSpare ++ [(row, devs)] } }
      let s := ((s.wr CPC_STAT_ROWEV 1).raise 43).setErr memid row 0
      (true, (s.poolFall (32 - u) (31 - u) 32).syncSpares)
  else
    let b := spareBank memid row
    let u := tblGet 0 b s.cop.rowsUsed
    if 8 ≤ u || !spared memid then (false, s)
    else
      let s : State := { s with cop := { s.cop with rowsUsed := tblSet 0 b (u + 1) s.cop.rowsUsed } }
      let s := ((s.wr CPC_STAT_ROWEV 1).raise 43).setErr memid row 0
      let s := s.logRepair 3 (rowKey memid row) u werr
      (true, (s.poolFall (8 - u) (7 - u) 8).syncSpares)

/-- The remap of entry i (R446): REMAPPED on a spare; PINNED, source 35 and an alarm record where none is left. -/
def State.remapNow (s : State) (i memid row devs : Nat) (werr : Bool) : State :=
  match s.takeSpare memid row devs werr with
  | (true, s) => s.ctMove i ctRemapped
  | (false, s) =>
    (((s.ctMove i ctPinned).wr ECC_STAT_PINEV 1).raise 35).record 2 5 35 0xFFFF
      (some (0x10400404 + 0x10 * i)) (some (0x10400400 + 0x10 * i))

/-- A remap waits for the march of its row to end (R469). -/
def State.remap (s : State) (i memid row devs : Nat) (werr : Bool) : State :=
  if s.marched memid then { s with cop := { s.cop with due := s.cop.due ++ [(memid, row, devs)] } }
  else s.remapNow i memid row devs werr

/-- The remaps that waited for a march. -/
def State.remapsDue (s : State) (werr : Bool) : State :=
  let l := s.cop.due
  l.foldl (fun s x =>
    match s.ctEntry x.1 x.2.1 with
    | some i => if s.ctState i = ctPinned then s else s.remapNow i x.1 x.2.1 x.2.2 werr
    | none => s) ({ s with cop := { s.cop with due := [] } } : State)

/-- The state of an entry after a correction (R444, R447): the write-back decides between SOFT and HARD; HARD never
returns to SOFT, and a row that is REMAPPED or PINNED stays so. -/
def ctAfter (old : Nat) (hard : Bool) : Nat :=
  if old = ctRemapped ∨ old = ctPinned ∨ old = ctHard then old else if hard then ctHard else ctSoft

/-- A correction is counted and updates the table; the fourth of a lap is a remap (R441, R444 to R446). -/
def State.corrected (s : State) (memid row : Nat) (es : List (Nat × Nat)) (hard werr : Bool) : State :=
  let s := (s.bump ECC_CE_CNT).wr ECC_STAT_CEEV 1
  match s.ctTake memid row with
  | none => s.bump ECC_CT_LOST_CNT
  | some i =>
    let own := s.ctEntry memid row == some i
    let s := if own then s else
      (s.wr (ECC_CTi_INFO_LAPCNT i) 0).wr (ECC_CTi_INFO_COUNT i) 0
    let old := if own then s.ctState i else ctFree
    let s := (s.wr (ECC_CTi_LOC_ROW i) row).wr (ECC_CTi_LOC_MEMID i) memid
    let s := (s.bump (ECC_CTi_INFO_LAPCNT i)).bump (ECC_CTi_INFO_COUNT i)
    let s := (s.wr (ECC_CTi_INFO_POS i) ((es.head?.getD (0, 0)).1)).wr (ECC_CTi_INFO_NSYM i) es.length
    let s := s.wr64 (ECC_CTi_TIME_LO i) (ECC_CTi_TIME_HI i) s.now
    let s := if own then s else s.wr (ECC_CTi_INFO_STATE i) ctFree
    let s := s.ctMove i (ctAfter old hard)
    if s.rd (ECC_CTi_INFO_LAPCNT i) = 4 ∧ s.ctState i ≠ ctPinned then s.remap i memid row (devicesOf es) werr else s

/-- A write of a row by a master, other than a correction write-back, frees a SOFT entry (R445). -/
def State.rowWritten (s : State) (memid row : Nat) : State :=
  match s.ctEntry memid row with
  | some i => if s.ctState i = ctSoft then s.ctRelease i else s
  | none => s

/-! ### Reading a row (R435, R441, R448) -/

/-- The armed test row of R451: its memory and row. -/
def State.testRow (s : State) : Option (Nat × Nat) :=
  match rowOf (s.rd ECC_TST_ADDR_LO_ROW * 32 + s.rd ECC_TST_ADDR_HI_HI * 2 ^ 32) with
  | some (7, _) => none
  | r => r

/-- Whether a row is the test row, armed. -/
def State.isTestRow (s : State) (memid row : Nat) : Bool := s.flag ECC_TST_ADDR_HI_ARM && s.testRow == some (memid, row)

/-- Report a decode in the test window: result, symbols and positions corrected. -/
def State.tstReport (s : State) (r : EccResult) (es : List (Nat × Nat)) : State :=
  let pos := es.foldl (fun m x => m ||| 2 ^ x.1) 0
  let s := (s.wr ECC_TST_RES_RESULT r.code).wr ECC_TST_RES_NSYM es.length
  (s.wr ECC_TST_SYM_LO pos).wr ECC_TST_SYM_HI_POS (pos / 2 ^ 32)

/-- An uncorrectable result is counted, kept and reported (R448). -/
def State.uncorrectable (s : State) (memid row : Nat) (r : EccResult) (master cause : Nat) : State :=
  let s := (s.bump ECC_UE_CNT_UE).wr ECC_STAT_UEEV 1
  let s := (s.wr ECC_UE_LOC_ROW row).wr ECC_UE_LOC_MEMID memid
  let s := ((s.wr ECC_UE_INFO_RESULT r.code).wr ECC_UE_INFO_MASTER master).wr ECC_UE_INFO_CAUSE cause
  let s := (s.wr64 ECC_UE_TIME_LO ECC_UE_TIME_HI s.now).raise 33
  let s := if r = .addrFault then ((s.bump ECC_UE_CNT_AF).wr ECC_STAT_AFEV 1).raise 34 else s
  s.record 1 5 (if r = .addrFault then 34 else 33) 0xFFFF (some 0x10400000) (some 0x10400014)

/-- What a decode has changed in rows of L2 or of a retain shadow is written over. -/
def State.arrDrop (s : State) (lo hi : Nat) : State :=
  { s with ecc := { s.ecc with arr := tblKeep (fun k => !inRange (32 * lo) (32 * hi) k) s.ecc.arr } }

/-- Read and decode a row (R435). `upset` is what has changed in its symbols since it was last written; `verify` says
that a write-back reads back CLEAN; `dirty` that the L2 row belongs to a dirty line, as that of a poisoned one does. A
correctable row is written back, but in flush mode and on the test row (R442). -/
def State.readRow (s : State) (memid row upset : Nat) (verify dirty : Bool) (master cause : Nat) (werr : Bool) :
    EccResult × State :=
  let e := s.rowErr memid row ^^^ upset
  let found := rsDecode (patSyms e)
  let r := eccResult found
  let es := found.getD []
  if s.isTestRow memid row then (r, (s.setErr memid row e).tstReport r (if r.bad then [] else es))
  else
    match r with
    | .clean => (r, (s.absorb memid row e).setErr memid row 0)
    | .corrected =>
      let s := s.absorb memid row (e ^^^ patOf es)
      let wb := s.pw.phase != .flush
      let s := s.setErr memid row (if wb && verify then 0 else patOf es)
      (r, s.corrected memid row es (!(wb && verify)) werr)
    | _ =>
      if memid = 3 then
        if dirty || s.rowErr memid row == poisonPat then (r, (s.setErr memid row poisonPat).uncorrectable memid row r master cause)
        else (.clean, (s.setErr memid row 0).arrDrop (rowKey 3 row) (rowKey 3 row + 1))
      else (r, (s.setErr memid row e).uncorrectable memid row r master cause)

/-- Whether a write-back of a row clears its error, where no command says so: a row whose entry is HARD or PINNED has
errors that stay (DESIGN CHOICE, log entry 112). -/
def State.clears (s : State) (memid row : Nat) : Bool :=
  match s.ctEntry memid row with
  | some i => s.ctState i != ctHard && s.ctState i != ctPinned
  | none => true

/-- A block of the module reads rows, in order, up to the first uncorrectable one (R441, R448); the answer says
whether one was met. A sound row is delivered and nothing else happens. -/
def State.seeRows (s : State) (master cause : Nat) : List (Nat × Nat) → Bool × State
  | [] => (false, s)
  | x :: rs =>
    if s.rowErr x.1 x.2 = 0 then s.seeRows master cause rs
    else
      let q := s.readRow x.1 x.2 0 (s.clears x.1 x.2) false master cause false
      if q.1.bad then (true, q.2) else q.2.seeRows master cause rs

/-- A block of the module reads n bytes from address a. -/
def State.seeRange (s : State) (master cause a n : Nat) : Bool × State := s.seeRows master cause (s.rangeRows a n)

/-- Bytes of memory as a reader gets them (R441, R451). -/
def State.seen (s : State) (a n : Nat) : List Byte :=
  (List.range n).map fun i =>
    match rowOf (a + i) with
    | some r => if s.rowErr r.1 r.2 = 0 then s.byte (a + i) else (s.delivered r.1 r.2).getD ((a + i) % 32) 0
    | none => s.byte (a + i)

/-! ### Writing a row (R437, R438, R479) -/

/-- Rows of a memory are written whole: they are sound, and SOFT entries that name them are freed (R437, R445). -/
def State.rowsWritten (s : State) (memid lo n : Nat) : State :=
  let hit (k : Nat) : Bool := inRange (rowKey memid lo) (rowKey memid (lo + n)) k
  let s : State := { s with ecc := { s.ecc with err := s.ecc.err.filter fun x => !hit x.1 } }
  let s := s.arrDrop (rowKey memid lo) (rowKey memid (lo + n))
  (List.range 32).foldl (fun s i => if s.ctState i == ctSoft && hit (s.ctKey i) then s.ctRelease i else s) s

/-- A full-row write replaces the row and any poison; it never reads the row. -/
def State.writeRow (s : State) (memid row : Nat) (bs : List Byte) (poison : Bool) : State :=
  ((s.putRow memid row 0 bs).setErr memid row (if poison then poisonPat else 0)).rowWritten memid row

/-! ### The scrubbers (R449, R450) -/

/-- The memory scrubber m reads. -/
def scrubMem (m : Nat) : Nat := m + 1

/-- The lap scrubber m is in. -/
def State.lap (s : State) (m : Nat) : Option Lap := tblFind m s.ecc.laps

def State.setLap (s : State) (m : Nat) (l : Option Lap) : State :=
  { s with ecc := { s.ecc with laps := match l with | none => tblDel m s.ecc.laps | some x => tblPut m x s.ecc.laps } }

/-- Rows of an image of so many words, and whether a program stands in a bank of engine e: in the active one in any
state but UNLOADED, in the shadow where SHADOW is not EMPTY. -/
def State.bankRows (s : State) (e b : Nat) : Nat :=
  let x := s.engine e
  let held := if s.rd (LE_Ee_STAT_BANK e) = b then s.rd (LE_Ee_STAT_STATE e) != 0 else s.rd (LE_Ee_STAT_SHADOW e) != 0
  if held then ((if b = 0 then x.image0 else x.image1) + 7) / 8 else 0

/-- The ranges of rows that scrubber m reads in a lap, in order (R449): DRAM and SRAM from BASE up to LIMIT, L2, each
loaded bank image, the data memories of started engines, the retain shadows of loaded ones. -/
def State.scrubRanges (s : State) (m : Nat) : List (Nat × Nat) :=
  match m with
  | 0 => [(s.rd (ECC_SCRm_BASE_ROW 0), min (s.rd (ECC_SCRm_LIMIT_ROW 0)) (2 ^ 28))]
  | 1 => [(s.rd (ECC_SCRm_BASE_ROW 1), min (s.rd (ECC_SCRm_LIMIT_ROW 1)) (2 ^ 19))]
  | 2 => [(0, 2 ^ 18)]
  | 3 => (List.range 8).map fun i => (2 ^ 15 * i, 2 ^ 15 * i + s.bankRows (i / 2) (i % 2))
  | 4 => ([0, 1, 2, 3].filter fun e => s.rd (LE_Ee_STAT_STATE e) != 0 && s.rd (LE_Ee_STAT_STATE e) != 1).map fun e =>
      (2 ^ 14 * e, 2 ^ 14 * e + 2 ^ 14)
  | _ => ([0, 1, 2, 3].filter fun e => s.rd (LE_Ee_STAT_STATE e) != 0).map fun e => (2 ^ 11 * e, 2 ^ 11 * e + 2 ^ 11)

/-- The first row from `pos` on that scrubber m reads in a lap. -/
def State.scrubNext (s : State) (m pos : Nat) : Option Nat :=
  (s.scrubRanges m).findSome? fun r => if max r.1 pos < r.2 then some (max r.1 pos) else none

/-- Whether a row is the next one of a lap that has come to `pos`. Which L2 lines are valid is the stands', so of L2
it may be any row further on (log entry 113). -/
def State.scrubTurn (s : State) (m pos row : Nat) : Bool :=
  if m = 2 then decide (pos ≤ row) && decide (row < 2 ^ 18) else s.scrubNext m pos == some row

/-- A lap of scrubber m starts: every LAPCNT of that memory returns to 0 (R445). -/
def State.lapStart (s : State) (m : Nat) : State :=
  let s := (List.range 32).foldl (fun s i =>
    if s.rd (ECC_CTi_LOC_MEMID i) = scrubMem m then s.wr (ECC_CTi_INFO_LAPCNT i) 0 else s) s
  (s.setLap m (some ⟨s.now, 0, false, 0⟩)).wr (ECC_SCRm_STAT_RUN m) 1

/-- The counted length of a lap in ns, without its pauses. -/
def Lap.length (l : Lap) (now : Nat) : Nat := now - l.from_ - l.paused

/-- How long DRAM has been in self-refresh, for the lap of scrubber m (R450, R452). -/
def State.lapPause (s : State) (m : Nat) : Nat :=
  match s.ecc.selfRefresh with | some z => if m = 0 then s.now - z else 0 | none => 0

/-- A lap that runs longer than LAPLIM ms gives its alarm, once (R450): LIMEV, source 36 and an alarm record. -/
def State.lapAlarm (s : State) (m : Nat) : State :=
  match s.lap m with
  | none => s
  | some l =>
    let lim := s.rd (ECC_SCRm_LAPLIM_MS m)
    if lim != 0 && !l.alarmed && decide (lim * 1000000 + s.lapPause m < l.length s.now) then
      (((s.setLap m (some { l with alarmed := true })).wr (ECC_SCRm_STAT_LIMEV m) 1).raise 36).record 2 5 36 0xFFFF
        (some (0x10400114 + 0x20 * m)) none
    else s

/-- A lap of scrubber m ends: SOFT and REMAPPED entries whose row needed no correction in it are freed (R447), the
reports take its length (R450), and the next lap starts. -/
def State.lapEnd (s : State) (m : Nat) : State :=
  let s := s.lapAlarm m
  match s.lap m with
  | none => s
  | some l =>
    let ms := l.length s.now / 1000000
    let s := (s.wr (ECC_SCRm_LAPLAST_MS m) (sat 24 ms)).maxWr (ECC_SCRm_LAPMAX_MS m) ms
    let s := s.tick (ECC_SCRm_STAT_LAPS m)
    let s := (List.range 32).foldl (fun s i =>
      if (s.ctState i == ctSoft || s.ctState i == ctRemapped) && s.rd (ECC_CTi_LOC_MEMID i) == scrubMem m &&
        s.rd (ECC_CTi_INFO_LAPCNT i) == 0 then s.ctRelease i else s) s
    s.lapStart m

/-- The row from which on the lap of scrubber m has still to read. -/
def State.lapPos (s : State) (m : Nat) : Nat := match s.lap m with | none => 0 | some l => l.pos

/-- Scrubber m reads a row, and its lap has come past it; it skips the armed test row (R451). -/
def State.scrubRow (s : State) (m row upset : Nat) (verify dirty werr : Bool) : State :=
  let s := if (s.lap m).isNone then s.lapStart m else s
  let s := match s.lap m with
    | none => s
    | some l => s.setLap m (some { l with pos := row + 1 })
  if s.isTestRow (scrubMem m) row then s
  else (s.readRow (scrubMem m) row upset verify dirty 0x26 4 werr).2

/-- SCRUB_READ (R449): scrubber m reads the next row of its lap (DESIGN CHOICE, log entry 113: laps rise). The lap
begins with the first row read and ends with the last of its ranges; of L2, of which the model does not know the valid
lines, with the row that the command marks `last`. Nothing is read in flush mode, nor from DRAM in self-refresh
(R452). -/
def execScrubRead (m : Fin 6) (row : Nat) (upset : BitVec 352) (verify dirty last werr : Bool) (t : Nat) (s : State) :
    Host.Outcome State Fault Refusal :=
  let s := s.begin t
  .next <|
    if s.pw.phase != .running || !s.scrubTurn m (s.lapPos m) row || (m.val == 0 && s.ecc.selfRefresh.isSome) then s
    else
      let s := s.scrubRow m row upset.toNat verify dirty werr
      if (if m.val = 2 then last else (s.scrubNext m (row + 1)).isNone) then s.lapEnd m else s

/-- SCRUB_LAP_LIMIT (R450). -/
def execScrubLapLimit (m : Fin 6) (t : Nat) (s : State) : Host.Outcome State Fault Refusal := .next ((s.begin t).lapAlarm m)

/-! ### Guarded execution regions (R537) -/

/-- Start of the execution region of a firmware slot (R537), 256 MiB long. -/
def regionBase (slot : Nat) : Nat := 0x800000000 + 0x10000000 * slot

/-- A firmware slot. -/
def State.fwSlot (s : State) (k : Nat) : FwSlot := tblGet slotInit k s.fwu.slots

/-- Whether the execution region of a slot is guarded: its slot is booted or PREPARED (R537). -/
def State.regionHeld (s : State) (slot : Nat) : Bool := s.fwu.booted == some slot || (s.fwSlot slot).state == 3

/-- Whether n bytes from a touch a guarded execution region. -/
def State.inRegion (s : State) (a n : Nat) : Bool :=
  [0, 1].any fun k => s.regionHeld k && decide (regionBase k < a + n) && decide (a < regionBase k + 0x10000000)

/-- Whether n bytes from a touch the recorder's staging buffer (R479). -/
def inStaging (a n : Nat) : Bool := decide (sramBase + stagingOff < a + n) && decide (a < sramBase + 0x1000000)

/-! ### The fill engine (R440) -/

/-- Whether n rows from an address lie wholly within one DRAM, shared SRAM or host buffer range and outside the
recorder's staging buffer (R440, R479). -/
def fillable (a n : Nat) : Bool :=
  let e := a + 32 * n
  (decide (0x800000000 ≤ a) && decide (e ≤ 0xA00000000)) ||
    (decide (sramBase ≤ a) && decide (e ≤ sramBase + stagingOff)) ||
    (decide (0x10840000 ≤ a) && decide (e ≤ 0x10860000))

/-- A fill command ends without a run or before its end: FAIL, ERR and source 37. -/
def State.fillFail (s : State) (err : Nat) : State :=
  ((s.wr ECC_FILL_STAT_FAIL 1).wr ECC_FILL_STAT_ERR err).raise 37

/-- FILL_START (R440, R537): refused for a zero length, a range that is not fillable or is guarded, or a fill already
running. -/
def State.fillStart (s : State) : State :=
  let a := s.rd ECC_FILL_ADDR_LO_ROW * 32 + s.rd ECC_FILL_ADDR_HI_HI * 2 ^ 32
  let n := s.rd ECC_FILL_LEN_LEN
  if n = 0 then s.fillFail 2
  else if !fillable a n || decide (0x10000000 < n) || s.inRegion a (32 * n) then s.fillFail 1
  else if s.ecc.fill.isSome then s.fillFail 3
  else
    let s : State := { s with ecc := { s.ecc with
      fill := some ⟨a, n, s.rd64 ECC_FILL_PAT_LO ECC_FILL_PAT_HI⟩ } }
    ((s.wr ECC_FILL_STAT_BUSY 1).wr ECC_FILL_STAT_ERR 0).wr ECC_FILL_PROG 0

def execFillStart (t : Nat) (s : State) : Host.Outcome State Fault Refusal :=
  let s := s.begin t
  .next (if s.pw.phase == .running then s.fillStart else s)

/-- The first n rows of a fill are written, each a full-row write of the repeated pattern. -/
def State.fillRows (s : State) (f : FillRun) : Nat → State
  | 0 => s
  | n + 1 =>
    let s := s.fillRows f n
    let bs := leBytes 8 f.pat
    match rowOf (f.addr + 32 * n) with
    | none => s
    | some (memid, row) =>
      let d := bs ++ bs ++ bs ++ bs
      (s.writeRow memid row d false).unitWrite (((List.range 32).map (f.addr + 32 * n + ·)).zip d)

/-- FILL_ABORT (R440): a running fill ends after `rows` rows with ERR = 0x4. -/
def State.fillAbort (s : State) (rows : Nat) : State :=
  match s.ecc.fill with
  | none => s
  | some f =>
    let n := min rows f.rows
    let s := s.fillRows f n
    let s : State := { s with ecc := { s.ecc with fill := none } }
    ((s.wr ECC_FILL_STAT_BUSY 0).wr ECC_FILL_PROG n).fillFail 4

def execFillAbort (rows t : Nat) (s : State) : Host.Outcome State Fault Refusal := .next ((s.begin t).fillAbort rows)

/-- FILL_DONE (R440): every row is written; DONE and source 37. -/
def State.fillDone (s : State) : State :=
  match s.ecc.fill with
  | none => s
  | some f =>
    let s := s.fillRows f f.rows
    let s : State := { s with ecc := { s.ecc with fill := none } }
    (((s.wr ECC_FILL_STAT_BUSY 0).wr ECC_FILL_PROG f.rows).wr ECC_FILL_STAT_DONE 1).raise 37

def execFillDone (t : Nat) (s : State) : Host.Outcome State Fault Refusal := .next (s.begin t).fillDone

/-! ### Checker test mode (R451) -/

/-- The 32 bytes of ECC_TST_DATA0 to DATA7. -/
def State.tstData (s : State) : List Byte := ((List.range 8).map fun k => leBytes 4 (s.rd (ECC_TST_DATAk k))).flatten

/-- Show 32 bytes in ECC_TST_DATA. -/
def State.setTstData (s : State) (bs : List Byte) : State :=
  (List.range 8).foldl (fun s k => s.wr (ECC_TST_DATAk k) (leAt (4 * k) 4 bs)) s

/-- The eight check bytes of ECC_TST_CHK. -/
def State.tstChk (s : State) : List Byte := leBytes 4 (s.rd ECC_TST_CHK_LO) ++ leBytes 4 (s.rd ECC_TST_CHK_HI)

/-- Show eight check bytes. -/
def State.setTstChk (s : State) (bs : List Byte) : State :=
  (s.wr ECC_TST_CHK_LO (leAt 0 4 bs)).wr ECC_TST_CHK_HI (leAt 4 4 bs)

/-- The check bytes of data in a row. -/
def checkBytes (memid row : Nat) (data : List Byte) : List Byte :=
  (rsCheck (data.map BitVec.toNat) (virtualBytes memid row)).map byteOf

/-- Whether the test row lies where only one master writes: the recorder in staging, the firmware update engine in a
guarded region (R479, R537). -/
def State.tstGuarded (s : State) (memid row : Nat) : Bool :=
  match rowAddr memid row with | some a => inStaging a 32 || s.inRegion a 32 | none => false

/-- The operations of the test window: with ARM = 0, or off DRAM and shared SRAM, ERR is set and nothing else is done;
the completion raises source 38. `upset` is what has changed in the stored row since it was written. A WRITE_RAW into
a row that another master alone writes stores nothing (R479, R537). -/
def State.tstOp (s : State) (op : Nat) (upset : Nat) : State :=
  match s.flag ECC_TST_ADDR_HI_ARM, s.testRow with
  | true, some (memid, row) =>
    let s := (s.wr ECC_TST_RES_ERR 0).wr ECC_TST_RES_DONE 1
    let data := s.rowData memid row
    let e := s.rowErr memid row ^^^ upset
    let eb := (patSyms e).map byteOf
    let s :=
      match op with
      | 1 =>
        let d := s.tstData
        let chk := xorBytes s.tstChk (checkBytes memid row d)
        if s.tstGuarded memid row then s else (s.putRow memid row 0 d).setErr memid row (leNat chk)
      | 2 =>
        let s := s.setTstData (xorBytes data ((eb.drop 8).take 32))
        let virt := (rsCheck (List.replicate 32 0) ((patSyms e).drop 40)).map byteOf
        (s.setTstChk (xorBytes (xorBytes (checkBytes memid row data) (eb.take 8)) virt)).setErr memid row e
      | 3 => s.setTstChk (checkBytes memid row s.tstData)
      | _ =>
        let found := rsDecode (patSyms e)
        let r := eccResult found
        let es := if r.bad then [] else found.getD []
        let cb := ((patSyms (patOf es)).map byteOf).drop 8 |>.take 32
        ((s.setErr memid row e).tstReport r es).setTstData (xorBytes (xorBytes data ((eb.drop 8).take 32)) cb)
    s.raise 38
  | _, _ => s.wr ECC_TST_RES_ERR 1

def execWriteRaw (t : Nat) (s : State) : Host.Outcome State Fault Refusal :=
  let s := s.begin t
  .next (if s.pw.phase == .running then s.tstOp 1 0 else s)
def execReadRaw (upset : BitVec 320) (t : Nat) (s : State) : Host.Outcome State Fault Refusal :=
  let s := s.begin t
  .next (if s.pw.phase == .running then s.tstOp 2 upset.toNat else s)
def execEncodeRow (t : Nat) (s : State) : Host.Outcome State Fault Refusal :=
  let s := s.begin t
  .next (if s.pw.phase == .running then s.tstOp 3 0 else s)
def execCheckRow (upset : BitVec 320) (t : Nat) (s : State) : Host.Outcome State Fault Refusal :=
  let s := s.begin t
  .next (if s.pw.phase == .running then s.tstOp 4 upset.toNat else s)

/-! ### Resets -/

/-- A running fill is cut off, after a number of rows that the spec leaves open: a free value, read from FILL_PROG. -/
def State.fillCut (s : State) : State :=
  match s.ecc.fill with
  | none => s
  | some f =>
    let (v, s) := s.free
    let n := min v f.rows
    (s.fillRows f n).wr ECC_FILL_PROG n

/-- The module reset restores the registers of the memory code; a fill that it has cut off shows FAIL with ERR = 0x4
(R452). -/
def State.fillAborted (s : State) (was : Bool) : State :=
  if was then (s.wr ECC_FILL_STAT_FAIL 1).wr ECC_FILL_STAT_ERR 4 else s

/-- What a module reset does to the memory code (R452): a running fill is aborted, laps restart, ARM clears with its
register, the table is kept. -/
def State.eccReset (s : State) : State :=
  let s := s.fillCut
  { s with ecc := { s.ecc with fill := none, laps := [], selfRefresh := none } }

/-- Scrubbers and the fill engine stop at flush entry (R452). -/
def State.eccStop (s : State) : State :=
  let s := s.fillCut
  let s : State := { s with ecc := { s.ecc with fill := none, laps := [] } }
  [0, 1, 2, 3, 4, 5].foldl (fun s m => s.wr (ECC_SCRm_STAT_RUN m) 0) (s.wr ECC_FILL_STAT_BUSY 0)

/-- DRAM enters self-refresh: its scrubber pauses (R452). -/
def State.dramSleep (s : State) : State := { s with ecc := { s.ecc with selfRefresh := some s.now } }

/-- DRAM leaves self-refresh: the pause does not count in its lap (R450). -/
def State.dramWake (s : State) : State :=
  match s.ecc.selfRefresh with
  | none => s
  | some z =>
    let s := match s.lap 0 with
      | some l => s.setLap 0 (some { l with paused := l.paused + (s.now - z) })
      | none => s
    { s with ecc := { s.ecc with selfRefresh := none } }

end Sys2Proof.Machine
end

