-- ==== Sys2Proof/Machine/LogicEngine.lean ====
section
/-!
DEFINITION. What the logic engines' instructions work on (R155 to R198): memories, operands and their faults, the body
and block table, faults, lanes, and the one operation through which every instruction runs. The instructions themselves
are in Machine/LeBit.lean, LeWord.lean, LeControl.lean and LeBlocks.lean.
-/

namespace Sys2Proof.Machine

/-! ### Memories (R161 to R166) -/

/-- The physical address of the first byte of an engine's data memory, and of a bank. -/
def leDataBase (e : Nat) : Nat := 0x20200000 + 0x400000 * e
def leBankBase (e b : Nat) : Nat := 0x20000000 + 0x400000 * e + 0x100000 * b

/-- The size of data memory. -/
abbrev leDataSize : Nat := 0x80000

/-- Bytes of data memory. -/
def State.leData (s : State) (e off n : Nat) : List Byte := s.leBytesAt (leDataBase e + off) n

/-- A little-endian number in data memory. -/
def State.leNum (s : State) (e off n : Nat) : Nat := leNat (s.leData e off n)

/-- The rows of data memory that n bytes from an offset touch. -/
def rowsOfRange (off n : Nat) : List Nat := (List.range ((off % 32 + n + 31) / 32)).map fun i => off / 32 + i

/-- Write bytes of data memory: each row is encoded afresh (R438), and a SOFT entry of the correction table that names
it is freed (R445). -/
def State.putLeData (s : State) (e off : Nat) (bs : List Byte) : State :=
  (rowsOfRange off bs.length).foldl (fun s r =>
    let row := e * 2 ^ 14 + r
    (s.setErr 5 row 0).rowWritten 5 row) (s.putLeBytes (leDataBase e + off) bs)

/-- The rows of which n bytes from an offset cover only a part. -/
def edgeRows (off n : Nat) : List Nat :=
  if n = 0 then [] else (rowsOfRange off n).filter fun r => decide (32 * r < off) || decide (off + n < 32 * r + 32)

/-- Whether a range of data memory holds an uncorrectable row. -/
def State.leDataBad (s : State) (e off n : Nat) : Bool := (rowsOfRange off n).any fun r => s.rowBad 5 (e * 2 ^ 14 + r)

/-- The active bank of an engine. -/
def State.leBank (s : State) (e : Nat) : Nat := s.rd (LE_Ee_STAT_BANK e)

/-- The instruction word at an index of a bank. -/
def State.leWordAt (s : State) (e b i : Nat) : Nat := leNat (s.leBytesAt (leBankBase e b + 4 * i) 4)

/-- Whether the fetch at an index of the active bank meets an uncorrectable row. -/
def State.leFetchBad (s : State) (e i : Nat) : Bool := s.rowBad 4 (e * 2 ^ 16 + s.leBank e * 2 ^ 15 + i / 8)

/-- START of a block of the active bank, and its LENGTH (R181); 255 is the main program. -/
def State.leStart (s : State) (e b : Nat) : Nat := s.leWordAt e (s.leBank e) (2 * b) % 2 ^ 18
def State.leLength (s : State) (e b : Nat) : Nat := s.leWordAt e (s.leBank e) (2 * b + 1) % 2 ^ 18

/-- Whether an index lies inside the body that executes. -/
def State.leInBody (s : State) (e i : Nat) : Bool :=
  let b := (s.engine e).blk
  decide (s.leStart e b ≤ i) && decide (i < s.leStart e b + s.leLength e b)

/-! ### Faults (R193 to R195) -/

abbrev flIllegal : Nat := 0x01
abbrev flRange : Nat := 0x02
abbrev flAlign : Nat := 0x03
abbrev flBranchOver : Nat := 0x04
abbrev flBranchUnder : Nat := 0x05
abbrev flCallOver : Nat := 0x06
abbrev flMissing : Nat := 0x07
abbrev flStructure : Nat := 0x08
abbrev flStore : Nat := 0x09
abbrev flFetch : Nat := 0x0A
abbrev flData : Nat := 0x0B
abbrev flLane : Nat := 0x0C
abbrev flBlock : Nat := 0x0D

/-- The order of R195. -/
def faultOrder : List Nat := [0x0C, 0x0A, 0x01, 0x09, 0x0B, 0x02, 0x03, 0x0D, 0x07, 0x04, 0x05, 0x06, 0x08]

/-- The fault that is reported of those that apply (R195). -/
def firstFault (fs : List (Bool × Nat)) : Option Nat := faultOrder.find? fun c => fs.any fun f => f.1 && f.2 == c

/-- The engine publishes its output image with the valid flag clear (R27). -/
def State.publishInvalid (s : State) (e : Nat) : State :=
  let x := s.engine e
  ((s.setEngine e { x with pub := { x.pub with valid := false, stamp := s.now } }).wr (LE_Ee_STAT_VALID e) 0).applyFree e

/-- Engine e is UNLOADED, STOPPED or FAULTED from now on (R503). -/
def State.leIdle (s : State) (e : Nat) : State := { s with pmg := { s.pmg with idleAt := tblSet 0 e s.now s.pmg.idleAt } }

/-- A program fault (R194): the instruction has no effect, the engine is FAULTED, the image is invalid, source 16 + e
and a fault record; a pending swap stays ADMITTED (R236). -/
def State.leFault (s : State) (e code : Nat) : State :=
  let x := s.engine e
  let s := s.leIdle e
  let s := (s.wr (LE_Ee_FAULT_CODE e) code).wr (LE_Ee_FAULT_BANK e) (s.leBank e)
  let s := (s.wr (LE_Ee_FAULT_DEPTH e) x.cstack.length).wr (LE_Ee_FAULT_PC_PC e) x.pc
  let s := (s.wr (LE_Ee_STAT_FAULTEV e) 1).wr (LE_Ee_STAT_STATE e) leFaulted
  let s := if s.rd (LE_Ee_STAT_SHADOW e) = 4 then s.wr (LE_Ee_STAT_SHADOW e) 2 else s
  let s := s.setEngine e { x with executing := false, stop := false, want := .none, deadline := none, dl := none }
  let s := ((s.publishInvalid e).settleOwner e).raise (16 + e)
  s.record 1 4 (16 + e) e (some (0x10301004 + 0x1000 * e)) (some (0x10301038 + 0x1000 * e))

/-! ### Encodings (R172 to R175) -/

/-- The size of a word operand in bytes (R179). -/
def sizeBytes (x : Nat) : Nat := if x % 4 = 0 then 4 else if x % 4 = 3 then 1 else 2

/-- A word operand's encoding: any MOD, X[3:2] as the mask allows, and size 0b00 with an immediate. -/
def legalWord (mod x allow : Nat) : Bool :=
  decide (mod < 4) && x / 4 - (x / 4 &&& allow) == 0 && (mod != 2 || x % 4 == 0)

/-- Whether a word's fields are legal for its opcode (R174, R175). -/
def leLegal (op mod x opnd : Nat) : Bool :=
  let plain := mod == 0 && x == 0 && opnd == 0
  if 0x01 ≤ op ∧ op ≤ 0x0C then x == 0
  else if op = 0x0D then decide (x ≤ 1)
  else if op = 0x0E ∨ op = 0x10 then plain
  else if op = 0x0F then decide (x ≤ 5)
  else if op = 0x12 then mod != 2 && legalWord mod x 0
  else if 0x11 ≤ op ∧ op ≤ 0x1B then legalWord mod x 0
  else if op = 0x1C then mod == 2 && x == 0
  else if op = 0x1D then plain
  else if op = 0x1E ∨ op = 0x1F then legalWord mod x 0
  else if 0x20 ≤ op ∧ op ≤ 0x23 then legalWord mod x 2
  else if op = 0x24 ∨ op = 0x25 ∨ op = 0x26 then plain
  else if 0x28 ≤ op ∧ op ≤ 0x2A then mod == 0 && x == 0
  else if 0x2B ≤ op ∧ op ≤ 0x2D then plain
  else if op = 0x30 then mod != 2 && decide (opnd < 65536)
  else if op = 0x31 then mod != 2
  else false

/-! ### Operands (R173, R176, R179) -/

/-- The effective bit address of a bit instruction whose MOD is not 0b10. -/
def bitAddr (x : Engine) (mod opnd : Nat) : Nat :=
  if mod = 1 then opnd + x.xr else if mod = 3 then 8 * x.ip + opnd else opnd

/-- The effective byte address of a word instruction whose MOD is not 0b10. -/
def byteAddr (x : Engine) (mod opnd : Nat) : Nat :=
  if mod = 1 then opnd + x.xr else if mod = 3 then x.ip + opnd else opnd

/-- The pointer P of CALLH and CALLU. -/
def ptrAddr (x : Engine) (mod opnd : Nat) : Nat :=
  let o := 8 * (opnd % 65536)
  if mod = 1 then x.xr + o else if mod = 3 then x.ip + o else o

/-- A system bit (R176). -/
def sysBit (x : Engine) (n : Nat) : Bool :=
  match n with
  | 1 => true
  | 2 => x.ov
  | 3 => x.first
  | 4 => x.changed
  | _ => false

/-- A bit of data memory. -/
def State.leBit (s : State) (e a : Nat) : Bool := (s.leByte (leDataBase e + a / 8)).getLsbD (a % 8)

/-- Write a bit of data memory. -/
def State.putLeBit (s : State) (e a : Nat) (b : Bool) : State :=
  s.putLeData e (a / 8) [BitVec.ofNat 8 (setBit (s.leByte (leDataBase e + a / 8)).toNat (a % 8) b)]

/-- The faults of reading a bit operand. -/
def State.bitFaults (s : State) (e mod opnd : Nat) : List (Bool × Nat) :=
  if mod = 2 then [(decide (4 < opnd), flIllegal)]
  else
    let a := bitAddr (s.engine e) mod opnd
    [(decide (0x80000 ≤ a), flRange), (decide (a < 0x80000) && s.leDataBad e (a / 8) 1, flData)]

/-- The faults of storing to a bit operand: a system bit but OV is no store target. -/
def State.bitStoreFaults (s : State) (e mod opnd : Nat) : List (Bool × Nat) :=
  (mod == 2 && decide (opnd ≤ 4) && opnd != 2, flStore) :: s.bitFaults e mod opnd

/-- The row of a bit operand in data memory. -/
def State.bitRow (s : State) (e mod opnd : Nat) : List Nat := if mod = 2 then [] else [bitAddr (s.engine e) mod opnd / 256]

/-- The value of a bit operand. -/
def State.bitVal (s : State) (e mod opnd : Nat) : Bool :=
  if mod = 2 then sysBit (s.engine e) opnd else s.leBit e (bitAddr (s.engine e) mod opnd)

/-- Store to a bit operand. -/
def State.storeBit (s : State) (e mod opnd : Nat) (b : Bool) : State :=
  if mod = 2 then s.setEngine e { s.engine e with ov := b } else s.putLeBit e (bitAddr (s.engine e) mod opnd) b

/-- The faults of a word operand in memory. -/
def State.wordFaults (s : State) (e mod x opnd : Nat) : List (Bool × Nat) :=
  if mod = 2 then []
  else
    let n := sizeBytes x
    let a := byteAddr (s.engine e) mod opnd
    [(decide (leDataSize < a + n), flRange), (a % n != 0, flAlign),
      (decide (a + n ≤ leDataSize) && s.leDataBad e a n, flData)]

/-- The rows of a word operand in data memory. -/
def State.wordRows (s : State) (e mod x opnd : Nat) : List Nat :=
  if mod = 2 then [] else rowsOfRange (byteAddr (s.engine e) mod opnd) (sizeBytes x)

/-- An immediate, sign-extended. -/
def immSigned (opnd : Nat) : Word := (BitVec.ofNat 20 opnd).signExtend 32

/-- The value of a word operand: memory extended as the size says, or an immediate, sign-extended where `sx`. -/
def State.wordVal (s : State) (e mod x opnd : Nat) (sx : Bool) : Word :=
  if mod = 2 then (if sx then immSigned opnd else BitVec.ofNat 32 opnd)
  else
    let v := s.leNum e (byteAddr (s.engine e) mod opnd) (sizeBytes x)
    if x % 4 = 1 then (BitVec.ofNat 16 v).signExtend 32 else BitVec.ofNat 32 v

/-! ### Running an instruction -/

/-- Whether engine e executes: RUNNING, between a take and its END. -/
def State.leCan (s : State) (e : Nat) : Bool := s.leState e == leRunning && (s.engine e).executing

/-- The rows of data memory that an instruction reads, and those that it writes in part (R438), by their row in data
memory. -/
structure LeRows where
  reads : List Nat
  writes : List Nat
  deriving DecidableEq, Repr

/-- The rows that an instruction meets are read (R441, R448): the one it is fetched from and, where no fault comes
before its operands (R195), those of its operands. -/
def State.leSeen (s : State) (e : Nat) (c : Option Nat) (rs : LeRows) : State :=
  let m := 0x10 + e
  let row := fun (r : Nat) => (5, e * 2 ^ 14 + r)
  let q := s.seeRows m 1 [(4, e * 2 ^ 16 + s.leBank e * 2 ^ 15 + (s.engine e).pc / 8)]
  if c = none ∨ c = some flData then
    let q := q.2.seeRows m 0 (rs.reads.map row)
    if q.1 then q.2 else (q.2.seeRows m 2 (rs.writes.map row)).2
  else q.2

/-- One instruction of a running engine: its faults in the order of R195, or its effect, once its rows have been read.
An instruction outside the body that executes is a structure fault. -/
def State.leRun (s : State) (e : Nat) (legal : Bool) (fs : List (Bool × Nat)) (rs : LeRows) (go : State → State) : State :=
  if s.leCan e then
    let pc := (s.engine e).pc
    let c := firstFault ((s.leFetchBad e pc, flFetch) :: (!legal, flIllegal) :: (!s.leInBody e pc, flStructure) :: fs)
    let s := s.leSeen e c rs
    match c with
    | some c => s.leFault e c
    | none => go s
  else s

/-- Change the registers of an engine and go on to the next instruction. -/
def State.leNext (s : State) (e : Nat) (f : Engine → Engine) : State :=
  let x := s.engine e
  s.setEngine e { f x with pc := x.pc + 1 }

/-! ### Lanes (R156 to R158) -/

/-- The running lanes of an engine. -/
def State.leLive (s : State) (e : Nat) : List Nat :=
  (([s.rd (LE_Ee_LANES_LANEA e), s.rd (LE_Ee_LANES_LANEB e)] ++
    (if s.flag (LE_Ee_LANES_PAIR e) then [] else [s.rd (LE_Ee_LANES_LANEC e)])).filter fun l => !s.bit (LE_Ee_LANES_FENCED e) l)

/-- Whether an engine's lanes execute, in a cycle or between two. -/
def State.leLanesRun (s : State) (e : Nat) : Bool := s.leState e == leRunning

/-- Whether the lanes of engine e are formed and no lane failure has stopped it. -/
def State.lanesStand (s : State) (e : Nat) : Bool :=
  s.rd (LE_Ee_LANES_LANEA e) != s.rd (LE_Ee_LANES_LANEB e) &&
    !(s.leState e == leFaulted && s.rd (LE_Ee_FAULT_CODE e) == flLane)

/-- Whether the lanes of engine e sequence the writes of flush mode (R62). -/
def State.sequences (s : State) (e : Nat) : Bool := s.pw.phase == .flush && (s.pw.seqr == e || s.pw.seqr == 16 + e)

/-- The next engine in the order of R62 takes the sequencing over, and the one before it parks; after the last one the
recorder's flush engine sequences the writes itself. -/
def State.sequencerNext (s : State) : State :=
  if s.pw.phase = .flush ∧ s.pw.seqr ≠ 0xFF then
    let s := s.wr (LE_Ee_STAT_STATE (s.pw.seqr % 16)) leParked
    match s.pw.seqNext with
    | [] => { s with pw := { s.pw with seqr := 0xFF } }
    | q :: r =>
      let s : State := { s with pw := { s.pw with seqr := q, seqNext := r } }
      (s.wr (PWR_UNIT_UNIT (4 + q % 16)) 0).wr (LE_Ee_STAT_STATE (q % 16)) leStopped
  else s

/-- A lane of the flush sequencer differs (R62): three lanes go on as a pair; a pair hands the sequencing over. -/
def State.sequencerMismatch (s : State) (e l : Nat) : State :=
  if (s.leLive e).length = 3 then
    let s : State := { s with pw := { s.pw with seqr := 16 + e } }
    (s.wrBit (LE_Ee_LANES_FENCED e) l true).wr (LE_Ee_STAT_DEGRADED e) 1
  else s.sequencerNext

/-- LE_LANE_MISMATCH (R158): the lane that differs from the other two is fenced, the engine goes on as a degraded
pair, source 20 + e, and Coppice tests the lane (R466); any difference in a pair is a lane failure. The lanes of an
engine that does not execute have nothing to differ in, but for the flush sequencer's (R62). -/
def State.leMismatch (s : State) (e l : Nat) : State :=
  if !(s.leLive e).contains l then s
  else if s.sequences e then s.sequencerMismatch e l
  else if !s.leLanesRun e then s
  else if (s.leLive e).length = 3 then
    let s := (s.wrBit (LE_Ee_LANES_FENCED e) l true).wr (LE_Ee_STAT_DEGRADED e) 1
    (s.raise (20 + e)).coppiceTestLane e l
  else s.leFault e flLane

def execLeLaneMismatch (e l : Fin 4) (t : Nat) (s : State) : Host.Outcome State Fault Refusal := .next ((s.begin t).leMismatch e l)

/-- Whether the voters of engine e compare: its clock runs and its lanes are formed (R157). -/
def State.leVotes (s : State) (e : Nat) : Bool :=
  s.pw.phase == .running && s.rd (PWR_UNIT_UNIT (4 + e)) == 0 && s.leState e != leParked && s.lanesStand e

/-- LE_VOTER_XY_DISAGREE (R157): a lane failure, whatever the lanes show and whether the program runs. A sequencer of
flush mode hands over (R62). -/
def State.leVoterXy (s : State) (e : Nat) : State :=
  if s.sequences e then s.sequencerNext else if s.leVotes e then s.leFault e flLane else s

def execLeVoterXyDisagree (e : Fin 4) (t : Nat) (s : State) : Host.Outcome State Fault Refusal :=
  .next ((s.begin t).leVoterXy e)

end Sys2Proof.Machine
end

