-- ==== Sys2Proof/Machine/LeBit.lean ====
section
/-!
DEFINITION. Bit instructions of the logic engines (R174 to R178).
-/

namespace Sys2Proof.Machine

/-- A bit instruction that combines BA with its operand. -/
def State.leBitOp (s : State) (e op mod x opnd : Nat) (f : Bool → Bool → Bool) : State :=
  s.leRun e (leLegal op mod x opnd) (s.bitFaults e mod opnd) ⟨s.bitRow e mod opnd, []⟩ fun s =>
    s.leNext e fun r => { r with ba := f r.ba (s.bitVal e mod opnd) }

/-- A bit instruction that stores; `v` answers what is stored, nothing for no store. -/
def State.leBitStore (s : State) (e op mod x opnd : Nat) (v : Bool → Option Bool) : State :=
  s.leRun e (leLegal op mod x opnd) (s.bitStoreFaults e mod opnd) ⟨[], s.bitRow e mod opnd⟩ fun s =>
    let s := match v (s.engine e).ba with
      | some b => s.storeBit e mod opnd b
      | none => s
    s.leNext e id

/-- LD (R174): BA <- bit. -/
def execLeLd (e : Fin 4) (mod : Fin 4) (x : Fin 16) (opnd : Fin 1048576) (s : State) : Host.Outcome State Fault Refusal :=
  .next (s.fresh0.leBitOp e 0x01 mod x opnd (fun _ v => v))

/-- LDN (R174): BA <- not bit. -/
def execLeLdn (e : Fin 4) (mod : Fin 4) (x : Fin 16) (opnd : Fin 1048576) (s : State) : Host.Outcome State Fault Refusal :=
  .next (s.fresh0.leBitOp e 0x02 mod x opnd (fun _ v => !v))

/-- AND (R174): BA <- BA and bit. -/
def execLeAnd (e : Fin 4) (mod : Fin 4) (x : Fin 16) (opnd : Fin 1048576) (s : State) : Host.Outcome State Fault Refusal :=
  .next (s.fresh0.leBitOp e 0x03 mod x opnd (fun a v => a && v))

/-- ANDN (R174): BA <- BA and not bit. -/
def execLeAndn (e : Fin 4) (mod : Fin 4) (x : Fin 16) (opnd : Fin 1048576) (s : State) : Host.Outcome State Fault Refusal :=
  .next (s.fresh0.leBitOp e 0x04 mod x opnd (fun a v => a && !v))

/-- OR (R174): BA <- BA or bit. -/
def execLeOr (e : Fin 4) (mod : Fin 4) (x : Fin 16) (opnd : Fin 1048576) (s : State) : Host.Outcome State Fault Refusal :=
  .next (s.fresh0.leBitOp e 0x05 mod x opnd (fun a v => a || v))

/-- ORN (R174): BA <- BA or not bit. -/
def execLeOrn (e : Fin 4) (mod : Fin 4) (x : Fin 16) (opnd : Fin 1048576) (s : State) : Host.Outcome State Fault Refusal :=
  .next (s.fresh0.leBitOp e 0x06 mod x opnd (fun a v => a || !v))

/-- XOR (R174): BA <- BA xor bit. -/
def execLeXor (e : Fin 4) (mod : Fin 4) (x : Fin 16) (opnd : Fin 1048576) (s : State) : Host.Outcome State Fault Refusal :=
  .next (s.fresh0.leBitOp e 0x07 mod x opnd (fun a v => a != v))

/-- XORN (R174): BA <- BA xor not bit. -/
def execLeXorn (e : Fin 4) (mod : Fin 4) (x : Fin 16) (opnd : Fin 1048576) (s : State) : Host.Outcome State Fault Refusal :=
  .next (s.fresh0.leBitOp e 0x08 mod x opnd (fun a v => a == v))

/-- ST (R174): bit <- BA. -/
def execLeSt (e : Fin 4) (mod : Fin 4) (x : Fin 16) (opnd : Fin 1048576) (s : State) : Host.Outcome State Fault Refusal :=
  .next (s.fresh0.leBitStore e 0x09 mod x opnd (fun b => some b))

/-- STN (R174): bit <- not BA. -/
def execLeStn (e : Fin 4) (mod : Fin 4) (x : Fin 16) (opnd : Fin 1048576) (s : State) : Host.Outcome State Fault Refusal :=
  .next (s.fresh0.leBitStore e 0x0A mod x opnd (fun b => some !b))

/-- S (R174): if BA = 1, bit <- 1. -/
def execLeS (e : Fin 4) (mod : Fin 4) (x : Fin 16) (opnd : Fin 1048576) (s : State) : Host.Outcome State Fault Refusal :=
  .next (s.fresh0.leBitStore e 0x0B mod x opnd (fun b => if b then some true else none))

/-- R (R174): if BA = 1, bit <- 0. -/
def execLeROp (e : Fin 4) (mod : Fin 4) (x : Fin 16) (opnd : Fin 1048576) (s : State) : Host.Outcome State Fault Refusal :=
  .next (s.fresh0.leBitStore e 0x0C mod x opnd (fun b => if b then some false else none))

/-- LDS (R174): SI <- bit, or not bit where X[0] = 1. -/
def execLeLds (e : Fin 4) (mod : Fin 4) (x : Fin 16) (opnd : Fin 1048576) (s : State) : Host.Outcome State Fault Refusal :=
  .next (s.fresh0.leRun e (leLegal 0x0D mod x opnd) (s.bitFaults e mod opnd) ⟨s.bitRow e mod opnd, []⟩ fun s =>
    s.leNext e fun r => { r with si := s.bitVal e mod opnd != (x.val % 2 == 1) })

/-- NOT (R174): BA <- not BA. -/
def execLeNot (e : Fin 4) (mod : Fin 4) (x : Fin 16) (opnd : Fin 1048576) (s : State) : Host.Outcome State Fault Refusal :=
  .next (s.fresh0.leRun e (leLegal 0x0E mod x opnd) [] ⟨[], []⟩ fun s => s.leNext e fun r => { r with ba := !r.ba })

/-- BOPEN (R177): push BA and the pending operation; BA <- bit. -/
def execLeBopen (e : Fin 4) (mod : Fin 4) (x : Fin 16) (opnd : Fin 1048576) (s : State) : Host.Outcome State Fault Refusal :=
  .next (s.fresh0.leRun e (leLegal 0x0F mod x opnd)
    ((decide (16 ≤ (s.engine e).bstack.length), flBranchOver) :: s.bitFaults e mod opnd) ⟨s.bitRow e mod opnd, []⟩ fun s =>
      s.leNext e fun r => { r with bstack := (r.ba, x.val) :: r.bstack, ba := s.bitVal e mod opnd })

/-- The frame base (R178): the branch depth at the CALLU that entered the block, 0 in the main program. -/
def frameBase (r : Engine) : Nat := match r.cstack with | [] => 0 | f :: _ => f.depth

/-- Combine a pushed BA with the nested result by the pending operation (R177). -/
def pendingOp (op : Nat) (b v : Bool) : Bool :=
  match op with
  | 0 => b && v
  | 1 => b && !v
  | 2 => b || v
  | 3 => b || !v
  | 4 => b != v
  | _ => b == v

/-- BCLOSE (R177): pop and combine. -/
def execLeBclose (e : Fin 4) (mod : Fin 4) (x : Fin 16) (opnd : Fin 1048576) (s : State) : Host.Outcome State Fault Refusal :=
  .next (s.fresh0.leRun e (leLegal 0x10 mod x opnd)
    [(decide ((s.engine e).bstack.length ≤ frameBase (s.engine e)), flBranchUnder)] ⟨[], []⟩ fun s =>
      s.leNext e fun r => match r.bstack with
        | [] => r
        | (b, op) :: rest => { r with bstack := rest, ba := pendingOp op b r.ba })

end Sys2Proof.Machine
end

