-- ==== Sys2Proof/Machine/LeControl.lean ====
section
/-!
DEFINITION. Jumps and calls of the logic engines (R181 to R184).
-/

namespace Sys2Proof.Machine

/-- The target of a jump: PC + 1 + OPND. -/
def jumpTarget (r : Engine) (opnd : Nat) : Nat := r.pc + 1 + opnd

/-- A jump: where it is taken, its target must lie strictly inside the body (R182). -/
def State.leJump (s : State) (e op mod x opnd : Nat) (takes : Bool → Bool) : State :=
  let r := s.engine e
  s.leRun e (leLegal op mod x opnd) [(takes r.ba && !s.leInBody e (jumpTarget r opnd), flStructure)] ⟨[], []⟩ fun s =>
    if takes r.ba then s.setEngine e { r with pc := jumpTarget r opnd } else s.leNext e id

/-- JMP (R174). -/
def execLeJmp (e : Fin 4) (mod : Fin 4) (x : Fin 16) (opnd : Fin 1048576) (s : State) : Host.Outcome State Fault Refusal :=
  .next (s.fresh0.leJump e 0x28 mod x opnd fun _ => true)

/-- JC (R174): taken if BA = 1. -/
def execLeJc (e : Fin 4) (mod : Fin 4) (x : Fin 16) (opnd : Fin 1048576) (s : State) : Host.Outcome State Fault Refusal :=
  .next (s.fresh0.leJump e 0x29 mod x opnd fun b => b)

/-- JCN (R174): taken if BA = 0. -/
def execLeJcn (e : Fin 4) (mod : Fin 4) (x : Fin 16) (opnd : Fin 1048576) (s : State) : Host.Outcome State Fault Refusal :=
  .next (s.fresh0.leJump e 0x2A mod x opnd fun b => !b)

/-- A return from a user block (R178, R184): in the main program, or with the branch depth off the frame base, a
structure fault; otherwise PC, IP and XR are popped. -/
def State.leReturn (s : State) (e op mod x opnd : Nat) (takes : Bool → Bool) : State :=
  let r := s.engine e
  s.leRun e (leLegal op mod x opnd)
    [(r.cstack.isEmpty, flStructure), (takes r.ba && r.bstack.length != frameBase r, flStructure)] ⟨[], []⟩ fun s =>
      if takes r.ba then
        match r.cstack with
        | [] => s
        | f :: rest => s.setEngine e { r with pc := f.pc, ip := f.ip, xr := f.xr, blk := f.blk, cstack := rest }
      else s.leNext e id

/-- RET (R184). -/
def execLeRet (e : Fin 4) (mod : Fin 4) (x : Fin 16) (opnd : Fin 1048576) (s : State) : Host.Outcome State Fault Refusal :=
  .next (s.fresh0.leReturn e 0x2B mod x opnd fun _ => true)

/-- RETC (R184): returns if BA = 1. -/
def execLeRetc (e : Fin 4) (mod : Fin 4) (x : Fin 16) (opnd : Fin 1048576) (s : State) : Host.Outcome State Fault Refusal :=
  .next (s.fresh0.leReturn e 0x2C mod x opnd fun b => b)

/-- The user block a CALLU names: 16 × OPND[19:16] + X. -/
def callBlock (x opnd : Nat) : Nat := 16 * (opnd / 65536) + x

/-- Word b of the block size table that the loader keeps with the active bank (R184). -/
def State.blockSize (s : State) (e b : Nat) : Nat :=
  match (s.engine e).prog with
  | none => 0
  | some p => p.sizes.getD b 0

/-- CALLU (R184): a missing block, the pointer's alignment and range, the call depth; then the frame is pushed and the
body entered at START. IP is an address in data memory (R171), so P itself lies in it also where the block's size is 0
(log entry 102). -/
def execLeCallu (e : Fin 4) (mod : Fin 4) (x : Fin 16) (opnd : Fin 1048576) (s : State) : Host.Outcome State Fault Refusal :=
  let r := s.engine e
  let b := callBlock x opnd
  let missing := b == 255 || s.leLength e b == 0
  let p := ptrAddr r mod opnd
  .next (s.fresh0.leRun e (leLegal 0x31 mod x opnd)
    [(missing, flMissing), (!missing && p % 8 != 0, flAlign),
      (!missing && (decide (leDataSize < p + s.blockSize e b) || decide (leDataSize ≤ p)), flRange), (decide (8 ≤ r.cstack.length), flCallOver)] ⟨[], []⟩ fun s =>
    s.setEngine e { r with
      cstack := ⟨r.pc + 1, r.ip, r.xr, r.bstack.length, r.blk⟩ :: r.cstack, ip := p, pc := s.leStart e b, blk := b })

end Sys2Proof.Machine
end

