-- ==== Sys2Proof/Machine/Admission.lean ====
section
/-!
DEFINITION. The program image (R199 to R202), the retain map (R218), the text of a program, the admission checker (R204),
the bound (R205) and what a program can reach (R232). The checker judges the reasons in the order of R204; a later one
is judged only where every earlier one passes.
-/

namespace Sys2Proof.Machine

/-! ### The text of a program (R172, R181) -/

/-- One instruction of a body: its index, its fields, and the block it belongs to (255: the main program). -/
structure Ins where
  idx : Nat
  op : Nat
  mod : Nat
  x : Nat
  opnd : Nat
  blk : Nat
  deriving DecidableEq, Repr

/-- The fields of an instruction word (R172). -/
def insOf (blk idx w : Nat) : Ins := ⟨idx, bitsAt w 26 6, bitsAt w 24 2, bitsAt w 20 4, bitsAt w 0 20, blk⟩

/-- A body: block, START, LENGTH, its instructions. -/
structure Body where
  blk : Nat
  start : Nat
  len : Nat
  code : List Ins
  deriving DecidableEq, Repr

/-- The bodies that a block table names; `seg start len` gives the words of the bank. -/
def bodiesOf (seg : Nat → Nat → List Nat) : List Body :=
  (List.range 256).filterMap fun b =>
    match seg (2 * b) 2 with
    | [s, l] =>
      let start := s % 2 ^ 18
      let len := l % 2 ^ 18
      if len = 0 then none
      else some ⟨b, start, len, (seg start len).zipIdx.map fun w => insOf b (start + w.2) w.1⟩
    | _ => none

/-- A program's text: its bodies and the block size table. -/
structure Text where
  bodies : List Body
  sizes : List Nat
  deriving DecidableEq, Repr

def Text.code (p : Text) : List Ins := (p.bodies.map (·.code)).flatten
def Text.size (p : Text) (b : Nat) : Nat := p.sizes.getD b 0
def Text.has (p : Text) (b : Nat) : Bool := p.bodies.any fun x => x.blk == b

/-- The bit instructions that take an operand, those that store, the word instructions with a sized operand. -/
def opBit (op : Nat) : Bool := (decide (1 ≤ op) && decide (op ≤ 0x0D)) || op == 0x0F
def opBitStore (op : Nat) : Bool := decide (9 ≤ op) && decide (op ≤ 0x0C)
def opWord (op : Nat) : Bool := (decide (0x11 ≤ op) && decide (op ≤ 0x1B)) || (decide (0x1E ≤ op) && decide (op ≤ 0x23))
def opCall (op : Nat) : Bool := op == 0x30 || op == 0x31

/-- Instance sizes of the hardware blocks 0x0 to 0xC (R185). -/
def blockSizes : List Nat := [24, 24, 24, 16, 16, 8, 8, 8, 8, 16, 16, 16, 24]

/-- The block that a CALLU names. -/
def Ins.callee (i : Ins) : Nat := callBlock i.x i.opnd

/-- The KIND of the instance that a CALLH or CALLU works on (R201). -/
def Ins.kind (i : Ins) : Nat := if i.op = 0x30 then i.x else 0x100 + i.callee

/-- The size of that instance. -/
def Text.instSize (p : Text) (i : Ins) : Nat := if i.op = 0x30 then blockSizes.getD i.x 0 else p.size i.callee

/-- Repeat a step until nothing changes, at most n times. -/
def fixpoint {α : Type} [DecidableEq α] (f : α → α) : Nat → α → α
  | 0, x => x
  | n + 1, x => if f x = x then x else fixpoint f n (f x)

/-! ### Where operands lie (R173) -/

/-- The instance pointers by which each user block is called, as far as they do not depend on XR, and the blocks that
some call enters with a pointer that does. -/
structure Ptrs where
  ips : Tbl (List Nat)
  byXr : List Nat
  deriving DecidableEq, Repr

/-- The effective addresses of an operand that do not depend on XR, with `scale` × IP in an instance-relative one; and
whether some address depends on XR. IP is 0 in the main program. -/
def Ptrs.places (q : Ptrs) (i : Ins) (scale off : Nat) : List Nat × Bool :=
  if i.mod = 0 then ([off], false)
  else if i.mod = 1 then ([], true)
  else if i.mod = 2 then ([], false)
  else if i.blk = 255 then ([off], false)
  else ((tblGet [] i.blk q.ips).map fun ip => scale * ip + off, q.byXr.contains i.blk)

/-- The pointers of a call. -/
def Ptrs.pointers (q : Ptrs) (i : Ins) : List Nat × Bool := q.places i 1 (8 * (i.opnd % 65536))

/-- One round over the user block calls. -/
def ptrStep (code : List Ins) (q : Ptrs) : Ptrs :=
  code.foldl (fun q i =>
    if i.op = 0x31 then
      let (ps, xr) := q.pointers i
      let old := tblGet [] i.callee q.ips
      let new := ps.foldl (fun l p => if l.contains p then l else l ++ [p]) old
      ⟨tblSet [] i.callee new q.ips, if xr && !q.byXr.contains i.callee then q.byXr ++ [i.callee] else q.byXr⟩
    else q) q

/-- The pointers of every user block; an acyclic call graph is settled within 256 rounds. -/
def ptrsOf (code : List Ins) : Ptrs := fixpoint (ptrStep code) 256 ⟨[], []⟩

/-! ### The image (R199, R200) -/

/-- Offsets of the parts of an image. -/
def imgNwords (d : List Byte) : Nat := leAt 0x18 4 d
def imgNinst (d : List Byte) : Nat := leAt 0x1C 4 d
def imgInitlen (d : List Byte) : Nat := leAt 0x20 4 d
def imgInsts (d : List Byte) : Nat := 0x440 + 4 * imgNwords d
def imgInits (d : List Byte) : Nat := imgInsts d + 16 * imgNinst d
def imgRmap (d : List Byte) : Nat := imgInits d + imgInitlen d
def imgHasRmap (d : List Byte) : Bool := bitAt (leAt 6 2 d) 1

/-- A host window lies within 0x4000 to 0xFFFF and is at most 128 units (R237). -/
def hostwinOk (h : Nat) : Bool :=
  bitsAt h 13 3 == 0 && bitsAt h 24 8 == 0 && decide (bitsAt h 16 8 ≤ 128) &&
    decide (0x4000 + 8 * (bitsAt h 0 13 + bitsAt h 16 8) ≤ 0x10000)

/-- Reason 0x01: MAGIC, VERSION, HCRC, BCRC, the ranges of the header fields. -/
def imgHeaderOk (d : List Byte) : Bool :=
  decide (64 ≤ d.length) && leAt 0 4 d == 0x4750454C && leAt 5 1 d == 1 && leAt 0x3C 4 d == crc32c (d.take 0x3C) &&
    leAt 0x24 4 d == crc32c (d.drop 64) && decide (leAt 6 2 d < 4) && leAt 8 4 d != 0 &&
    decide (10000 ≤ leAt 0x10 4 d) && decide (leAt 0x10 4 d ≤ 50000000) && decide (513 ≤ imgNwords d) &&
    decide (imgNwords d ≤ 262144) && decide (imgNinst d ≤ 16384) && imgInitlen d % 8 == 0 &&
    hostwinOk (leAt 0x28 4 d) && allBytes 0 (slice 0x2C 16 d)

/-- Reason 0x02: the length is what the header says. -/
def imgLengthOk (d : List Byte) : Bool :=
  if imgHasRmap d then decide (imgRmap d + 16 ≤ d.length) && d.length == imgRmap d + 16 + 8 * leAt (imgRmap d + 4) 4 d
  else d.length == imgRmap d

/-- Split a list into pieces of n > 0 elements. -/
def chunks {α : Type} (n : Nat) : Nat → List α → List (List α)
  | 0, _ => []
  | k + 1, l => l.take n :: chunks n k (l.drop n)

/-- The words of the bank image. -/
def imgWords (d : List Byte) : List Nat := (chunks 4 (imgNwords d) (d.drop 0x440)).map leNat

/-- The block size table. -/
def imgSizes (d : List Byte) : List Nat := (chunks 4 256 (d.drop 0x40)).map leNat

/-- The instance table. -/
def imgInstances (d : List Byte) : List Inst :=
  (chunks 16 (imgNinst d) (d.drop (imgInsts d))).map fun b => ⟨leAt 0 4 b, leAt 4 4 b, leAt 8 4 b, leAt 12 2 b⟩

/-- The initial-value records, none where one is malformed (R202). -/
def parseInits : Nat → List Byte → Option (List InitRec)
  | _, [] => some []
  | 0, _ => none
  | n + 1, d =>
    let len := leAt 4 4 d
    let pad := (8 - len % 8) % 8
    if d.length < 8 + len + pad || len < 1 || 65536 < len || !allBytes 0 (slice (8 + len) pad d) then none
    else (parseInits n (d.drop (8 + len + pad))).map fun r => ⟨leAt 0 4 d, slice 8 len d⟩ :: r

def imgRecords (d : List Byte) : Option (List InitRec) := parseInits (imgInitlen d / 8) (slice (imgInits d) (imgInitlen d) d)

/-! ### Retain maps (R218) -/

/-- Whether ranges rise, are multiples of 8, do not overlap, and lie from `lo` to the end of data memory. -/
def rangesOk : Nat → List (Nat × Nat) → Bool
  | _, [] => true
  | lo, (o, n) :: r => o % 8 == 0 && n % 8 == 0 && decide (lo ≤ o) && decide (o + n ≤ leDataSize) && rangesOk (o + n) r

/-- A retain map, none where R218 refuses it for a program. -/
def parseRmap (progid : Nat) (d : List Byte) : Option RetainMap :=
  let n := leAt 4 4 d
  if leAt 0 4 d != 0x4D52454C || n < 1 || 64 < n || d.length != 16 + 8 * n || leAt 8 4 d != progid || leAt 12 4 d != 0 then none
  else
    let rs := (chunks 8 n (d.drop 16)).map fun b => (leAt 0 4 b, leAt 4 4 b)
    if rangesOk 0x4000 rs && decide ((rs.map Prod.snd).sum ≤ 65536) then some ⟨progid, rs, crc32c d⟩ else none

/-! ### Structure (reason 0x04) -/

/-- Where the block table, the terminators or the jump targets break R181 or R182. -/
def structureBad (words : List Nat) (p : Text) : List Nat :=
  let table := ((words.take 512).zipIdx.filter fun w => 2 ^ 18 ≤ w.1).map Prod.snd
  let noMain := if p.has 255 then [] else [511]
  let place := (p.bodies.filter fun b => b.start < 512 || 2 ^ 18 < b.start + b.len || p.bodies.any fun c =>
    c.blk != b.blk && decide (c.start ≤ b.start) && decide (b.start < c.start + c.len)).map fun b => 2 * b.blk
  let ends := (p.bodies.filter fun b =>
    match b.code.getLast? with
    | some i => i.idx + 1 != b.start + b.len || i.op != (if b.blk = 255 then 0x2D else 0x2B)
    | none => true).map fun b => b.start + b.len - 1
  let inner := (p.bodies.map fun b => (b.code.filter fun i =>
    (i.op == 0x2D && b.blk != 255) || ((i.op == 0x2B || i.op == 0x2C) && b.blk == 255) ||
      (decide (0x28 ≤ i.op) && decide (i.op ≤ 0x2A) && decide (b.start + b.len ≤ i.idx + 1 + i.opnd))).map (·.idx)).flatten
  table ++ noMain ++ place ++ ends ++ inner

/-! ### Branch depth and call depth (reasons 0x05 to 0x07) -/

/-- Where control goes on within a body after an instruction. -/
def Ins.next (i : Ins) : List Nat :=
  if i.op = 0x28 then [i.idx + 1 + i.opnd]
  else if i.op = 0x29 ∨ i.op = 0x2A then [i.idx + 1, i.idx + 1 + i.opnd]
  else if i.op = 0x2B ∨ i.op = 0x2D then []
  else [i.idx + 1]

/-- Branch depths above the frame base, and the indices at which they break R178 or differ between paths. -/
structure Depths where
  at_ : Tbl Nat
  bad : List Nat
  deriving DecidableEq, Repr

/-- One instruction in the walk over a body; an index that no path reaches has no depth. -/
def depthStep (q : Depths) (i : Ins) : Depths :=
  match tblFind i.idx q.at_ with
  | none => q
  | some d =>
    let q := if (i.op == 0x10 && d == 0) || ((i.op == 0x2B || i.op == 0x2C || i.op == 0x2D) && d != 0) then
        { q with bad := i.idx :: q.bad } else q
    let d' := if i.op = 0x0F then d + 1 else if i.op = 0x10 then d - 1 else d
    i.next.foldl (fun q t =>
      match tblFind t q.at_ with
      | none => { q with at_ := tblPut t d' q.at_ }
      | some k => if k = d' then q else { q with bad := t :: q.bad }) q

/-- The depths of every body. -/
def depthsOf (p : Text) : Depths :=
  p.bodies.foldl (fun q b => b.code.foldl depthStep { q with at_ := tblPut b.start 0 q.at_ }) ⟨[], []⟩

/-- The largest value with which each block is entered, where a call adds `f` of it. A chain may begin in any body,
with 0. Values are cut at `cap`. -/
def entryMax (p : Text) (cap : Nat) (f : Ins → Option Nat) : Tbl Nat :=
  fixpoint (fun m => p.code.foldl (fun m i =>
    if i.op = 0x31 then
      match tblFind i.blk m, f i with
      | some v, some k => tblPut i.callee (max ((tblFind i.callee m).getD 0) (min cap (v + k))) m
      | _, _ => m
    else m) m) 8192 (p.bodies.foldl (fun m b => tblPut b.blk 0 m) [])

/-- Where a BOPEN would find 16 entries on the branch stack, callers' entries counted. -/
def depthOver (p : Text) (q : Depths) : List Nat :=
  let base := entryMax p 17 fun i => tblFind i.idx q.at_
  (p.code.filter fun i => i.op == 0x0F &&
    (match tblFind i.idx q.at_ with
      | some d => decide (16 ≤ (tblFind i.blk base).getD 0 + d)
      | none => false)).map (·.idx)

/-- Where a CALLU would be the ninth of a nested chain, in whichever body the chain begins. -/
def chainOver (p : Text) : List Nat :=
  let level := entryMax p 9 fun _ => some 1
  (p.code.filter fun i => i.op == 0x31 && (match tblFind i.blk level with | some l => decide (8 ≤ l) | none => false)).map (·.idx)

/-- The blocks that a block calls, directly or not. -/
def calledFrom (code : List Ins) (b : Nat) : List Nat :=
  fixpoint (fun l => code.foldl (fun l i =>
    if i.op = 0x31 && (i.blk == b || l.contains i.blk) && !l.contains i.callee then l ++ [i.callee] else l) l) 256 []

/-- Where a CALLU lies on a cycle of calls. -/
def cycleBad (p : Text) : List Nat :=
  (p.code.filter fun i => i.op == 0x31 && (i.callee == i.blk || (calledFrom p.code i.callee).contains i.blk)).map (·.idx)

/-! ### Operands (reasons 0x08 to 0x0C) -/

/-- Calls of missing blocks. -/
def missingBad (p : Text) : List Nat :=
  (p.code.filter fun i => (i.op == 0x31 && (i.callee == 255 || !p.has i.callee)) || (i.op == 0x30 && decide (0xD ≤ i.x))).map (·.idx)

/-- The size of what an operand relative to the instance may reach: the calling block's instance, or data memory in the
main program. -/
def Text.limit (p : Text) (i : Ins) : Nat := if i.mod = 3 ∧ i.blk ≠ 255 then p.size i.blk else leDataSize

/-- Operands that do not depend on XR and lie out of range. -/
def rangeBadAt (p : Text) (i : Ins) : Bool :=
  if i.mod = 1 then false
  else if opBit i.op then
    if i.mod = 2 then decide (4 < i.opnd)
    else decide (0x80000 ≤ i.opnd) || decide (8 * p.limit i ≤ i.opnd)
  else if opWord i.op then i.mod != 2 && decide (p.limit i < i.opnd + sizeBytes i.x)
  else if opCall i.op then decide (p.limit i < 8 * (i.opnd % 65536) + p.instSize i)
  else false

/-- An instance-relative bit address is formed without truncation and must stay below 0x8_0000 for every pointer. -/
def relBitBad (q : Ptrs) (i : Ins) : Bool :=
  opBit i.op && i.mod == 3 && (q.places i 8 i.opnd).1.any fun a => decide (0x80000 ≤ a)

/-- Operands that are not aligned; an instance pointer is a multiple of 8 wherever R201 holds. -/
def alignBadAt (i : Ins) : Bool := opWord i.op && (i.mod == 0 || i.mod == 3) && i.opnd % sizeBytes i.x != 0

/-- Stores to read-only system bits. -/
def storeBadAt (i : Ins) : Bool := opBitStore i.op && i.mod == 2 && i.opnd != 2

/-- The initial byte of data memory at an offset: zero, or what a record gives. -/
def initByte (rs : List InitRec) (a : Nat) : Byte :=
  match rs.find? fun r => decide (r.off ≤ a) && decide (a < r.off + r.data.length) with
  | none => 0
  | some r => r.data.getD (a - r.off) 0

/-- An initial 32-bit word. -/
def initWord (rs : List InitRec) (a : Nat) : Nat := leNat ((List.range 4).map fun k => initByte rs (a + k))

/-- Whether SRC, DST and LEN pass R190. -/
def moveOk (src dst len : Nat) : Bool :=
  decide (4 ≤ len) && decide (len ≤ 32) && len % 4 == 0 && src % 4 == 0 && dst % 4 == 0 &&
    decide (src + len ≤ leDataSize) && decide (dst + len ≤ leDataSize)

/-- The byte ranges (offset, length) that an instruction stores to without XR; a MOVE copies to its initial DST. -/
def storesOf (q : Ptrs) (rs : List InitRec) (i : Ins) : List (Nat × Nat) :=
  if opBitStore i.op then (q.places i 8 i.opnd).1.map fun a => (a / 8, 1)
  else if i.op = 0x12 then (q.places i 1 i.opnd).1.map fun a => (a, sizeBytes i.x)
  else if i.op = 0x30 ∧ i.x = 0xB then (q.pointers i).1.map fun p => (initWord rs (p + 4), min 32 (initWord rs (p + 8)))
  else []

/-- Calls whose pointer names no instance of their KIND, or a MOVE instance whose parameters fail R190 or are written.
-/
def instanceBad (p : Text) (q : Ptrs) (is : List Inst) (rs : List InitRec) : List Nat :=
  let stores := (p.code.map (storesOf q rs)).flatten
  (p.code.filter fun i => opCall i.op && (q.pointers i).1.any fun a =>
    !(is.any fun x => x.off == a && x.kind == i.kind) ||
      (i.kind == 0xB && (!moveOk (initWord rs a) (initWord rs (a + 4)) (initWord rs (a + 8)) ||
        stores.any fun w => decide (w.1 < a + 12) && decide (a < w.1 + w.2)))).map (·.idx)

/-! ### Worst path and bound (R205) -/

/-- Clocks of an instruction (R174). -/
def clocksOf (op : Nat) : Nat := if op ≤ 0x10 then 1 else if op ≤ 0x2D then 2 else if op = 0x30 then 4 else 6

/-- The worst paths from each index of a body on, in index order, given those of the blocks it calls. -/
def worstFrom (wb : Tbl Nat) : List Ins → List Nat
  | [] => []
  | i :: r =>
    let w := worstFrom wb r
    let c := clocksOf i.op
    let nxt := w.getD 0 0
    let far := w.getD i.opnd 0
    (if i.op = 0x2D ∨ i.op = 0x2B then c
      else if i.op = 0x28 then c + far
      else if i.op = 0x29 ∨ i.op = 0x2A then c + max nxt far
      else if i.op = 0x31 then 6 + tblGet 0 i.callee wb + nxt
      else c + nxt) :: w

/-- The worst path of the main program in clocks. -/
def worstPath (p : Text) : Nat :=
  let wb := fixpoint (fun wb => p.bodies.foldl (fun m b => tblSet 0 b.blk ((worstFrom wb b.code).getD 0 0) m) wb) 256 []
  tblGet 0 255 wb

/-- The bound in ns (R205). -/
def boundOf (clk : Nat) : Nat := (clk * 5 + 3) / 4 + 5000

/-! ### Tables (reason 0x10) -/

/-- Whether two ranges overlap. -/
def spansMeet (o1 n1 o2 n2 : Nat) : Bool := decide (o1 < o2 + n2) && decide (o2 < o1 + n1)

/-- Whether no two elements of a list meet a relation. -/
def noneMeet {α : Type} (f : α → α → Bool) : List α → Bool
  | [] => true
  | a :: r => !r.any (f a) && noneMeet f r

/-- The instance table meets R201. -/
def instancesOk (d : List Byte) (sizes : List Nat) (is : List Inst) : Bool :=
  (chunks 16 (imgNinst d) (d.drop (imgInsts d))).all (fun b => leAt 14 2 b == 0) &&
    is.all (fun x => x.id != 0 && x.off % 8 == 0 && decide (0x4000 ≤ x.off) && decide (x.off < leDataSize) &&
      decide (x.off + x.size ≤ leDataSize) &&
      (if x.kind ≤ 0xC then x.size == blockSizes.getD x.kind 0
        else if 0x100 ≤ x.kind ∧ x.kind ≤ 0x1FE then x.size == sizes.getD (x.kind - 0x100) 0 else x.kind == 0x200)) &&
    noneMeet (fun x y => x.id == y.id || spansMeet x.off x.size y.off y.size) is

/-- The initial-value records meet R202. -/
def recordsOk (rs : List InitRec) : Bool :=
  rs.all (fun r => decide (0x2000 ≤ r.off) && decide (r.off + r.data.length ≤ leDataSize)) &&
    noneMeet (fun x y => spansMeet x.off x.data.length y.off y.data.length) rs

/-! ### Admission (R204, R207) -/

/-- The outcome: REASON (0: admitted), INDEX, the worst path and the bound (0 where one of 0x01 to 0x0C fails), the bank
image and what the loader keeps with it. -/
structure Admission where
  reason : Nat
  index : Nat
  clk : Nat
  bound : Nat
  words : List Nat
  prog : Option Prog
  deriving DecidableEq, Repr

/-- The lowest of a list of indices. -/
def lowest : List Nat → Option Nat
  | [] => none
  | a :: r => some (r.foldl min a)

/-- The first of a list of reasons that fails, with its INDEX. -/
def firstReason : List (Nat × List Nat) → Option (Nat × Nat)
  | [] => none
  | (r, l) :: rest => match lowest l with | some i => some (r, i) | none => firstReason rest

/-- Reasons 0x03 to 0x07. -/
def shapeFail (words : List Nat) (p : Text) : Option (Nat × Nat) :=
  match lowest (((words.drop 512).zipIdx.filter fun w =>
      let i := insOf 0 (512 + w.2) w.1
      !leLegal i.op i.mod i.x i.opnd).map fun w => 512 + w.2) with
  | some i => some (0x03, i)
  | none =>
    match lowest (structureBad words p) with
    | some i => some (0x04, i)
    | none =>
      let q := depthsOf p
      firstReason [(0x05, q.bad ++ depthOver p q), (0x06, chainOver p), (0x07, cycleBad p)]

/-- Reasons 0x08 to 0x0C. -/
def operandFail (p : Text) (is : List Inst) (rs : List InitRec) : Option (Nat × Nat) :=
  let q := ptrsOf p.code
  let pick (f : Ins → Bool) : List Nat := (p.code.filter f).map (·.idx)
  firstReason [(0x08, missingBad p), (0x09, pick fun i => rangeBadAt p i || relBitBad q i), (0x0A, pick alignBadAt),
    (0x0B, pick storeBadAt), (0x0C, instanceBad p q is rs)]

/-- The admission checker on an image: the engine's CYC_BUDGET and HOSTWIN, the bound of the running program for a
load in RUNNING (R225), the key's retain map section for the key program (R218). An image that could not be read whole
is `none` and fails reason 0x01. -/
def admitImage (d : Option (List Byte)) (budget hostwin : Nat) (old : Option Nat) (section_ : Option (List Byte)) : Admission :=
  match d with
  | none => ⟨0x01, 0, 0, 0, [], none⟩
  | some d =>
    if !imgHeaderOk d then ⟨0x01, 0, 0, 0, [], none⟩
    else if !imgLengthOk d then ⟨0x02, 0, 0, 0, [], none⟩
    else
      let words := imgWords d
      let sizes := imgSizes d
      let p : Text := ⟨bodiesOf fun s n => (words.drop s).take n, sizes⟩
      let is := imgInstances d
      let recs := imgRecords d
      let rs := recs.getD []
      let fail := match shapeFail words p with
        | some f => some f
        | none => operandFail p is rs
      match fail with
      | some (r, i) => ⟨r, i, 0, 0, words, none⟩
      | none =>
        let clk := worstPath p
        let bound := boundOf clk
        let map := match section_ with
          | some m => some m
          | none => if imgHasRmap d then some (d.drop (imgRmap d)) else none
        let rmap := map.bind (parseRmap (leAt 8 4 d))
        let reason :=
          if budget < bound then 0x0D
          else if clk ≠ leAt 0x14 4 d then 0x0E
          else if leAt 0x10 4 d ≠ budget ∨ leAt 0x28 4 d ≠ hostwin then 0x0F
          else if recs.isNone || !instancesOk d sizes is || !recordsOk rs then 0x10
          else if (match old with | some b => decide (2 * max b bound < 25000 + bound) | none => false) then 0x11
          else if map.isSome && rmap.isNone then 0x12
          else 0
        let prog : Prog :=
          { progid := leAt 8 4 d, progver := leAt 0xC 4 d, cold := bitAt (leAt 6 2 d) 0, sizes := sizes, insts := is,
            inits := rs, rmap := rmap, clk := clk, bound := bound }
        ⟨reason, 0, clk, bound, words, if reason = 0 then some prog else none⟩

/-! ### What a program can reach (R232) -/

/-- Byte ranges that a program reads and writes without XR; from which byte on an access that depends on XR may read and
write (512 KiB where none does); the pointers of its MOVE instances. -/
structure Reach where
  reads : List (Nat × Nat)
  writes : List (Nat × Nat)
  readXr : Nat
  writeXr : Nat
  moves : List Nat
  deriving DecidableEq, Repr

/-- Note one access. -/
def Reach.note (r : Reach) (wr : Bool) (ps : List Nat × Bool) (n low : Nat) : Reach :=
  let rs := ps.1.map fun a => (a, n)
  if wr then { r with writes := r.writes ++ rs, writeXr := if ps.2 then min r.writeXr low else r.writeXr }
  else { r with reads := r.reads ++ rs, readXr := if ps.2 then min r.readXr low else r.readXr }

/-- What one instruction adds. -/
def reachIns (q : Ptrs) (rs : List InitRec) (r : Reach) (i : Ins) : Reach :=
  if opBit i.op then
    let (ps, xr) := q.places i 8 i.opnd
    r.note (opBitStore i.op) (ps.map (· / 8), xr) 1 (i.opnd / 8)
  else if opWord i.op then r.note (i.op == 0x12) (q.places i 1 i.opnd) (sizeBytes i.x) i.opnd
  else if i.op = 0x30 then
    let ps := q.pointers i
    let n := blockSizes.getD i.x 0
    let low := 8 * (i.opnd % 65536)
    let r := (r.note false ps n low).note true ps n low
    if i.x = 0xB then
      let mv := ps.1.map fun a => (initWord rs a, initWord rs (a + 4), min 32 (initWord rs (a + 8)))
      let r := { r with
        reads := r.reads ++ mv.map fun m => (m.1, m.2.2), writes := r.writes ++ mv.map fun m => (m.2.1, m.2.2)
        moves := r.moves ++ ps.1 }
      if ps.2 then { r with readXr := 0, writeXr := 0 } else r
    else r
  else r

/-- The reach of a program; a MOVE whose parameters an access that depends on XR can reach reaches every byte. -/
def reachOf (p : Text) (rs : List InitRec) : Reach :=
  let q := ptrsOf p.code
  let r := p.code.foldl (reachIns q rs) ⟨[], [], leDataSize, leDataSize, []⟩
  if r.moves.any fun a => decide (min r.readXr r.writeXr < a + 12) then { r with readXr := 0, writeXr := 0 } else r

/-- Whether a program can read a byte of the input image, or write one of the output image. -/
def Reach.hits (r : Reach) (a : Nat) : Bool :=
  let within (l : List (Nat × Nat)) : Bool := l.any fun x => decide (x.1 ≤ a) && decide (a < x.1 + x.2)
  if a < 0x2000 then within r.reads || decide (r.readXr ≤ a) else within r.writes || decide (r.writeXr ≤ a)

end Sys2Proof.Machine
end

