-- ==== Sys2Proof/Machine/MemBase.lean ====
section
/-!
DEFINITION. How the masters of the module write DRAM, shared SRAM and host buffers (R437, R438), and the ranges that
only one master may write (R479, R537).
-/

namespace Sys2Proof.Machine

/-- The rows that n bytes from an address touch. -/
def rowsAt (a n : Nat) : List (Nat × Nat) := (List.range ((a % 32 + n + 31) / 32)).filterMap fun i => rowOf (a + 32 * i)

/-- Whether a write of n bytes from a is of whole rows only. -/
def wholeRows (a n : Nat) : Bool := a % 32 == 0 && n % 32 == 0

/-- Bytes are written: rows are encoded afresh, SOFT entries that name them are freed (R445), check-value units in
window mode see the bytes (R391). -/
def State.store (s : State) (a : Nat) (bs : List Byte) : State :=
  let s := (rowsAt a bs.length).foldl (fun s r => (s.setErr r.1 r.2 0).rowWritten r.1 r.2) (s.putBytes a bs)
  s.unitWrite ((List.range bs.length).zip bs |>.map fun e => (a + e.1, e.2))

/-- A write by a master other than a stand and the recorder: a write into staging changes nothing (R479). -/
def State.masterStore (s : State) (a : Nat) (bs : List Byte) : State :=
  if inStaging a bs.length then s else s.store a bs

/-- The 4 KiB checkpoint region of a stand in shared SRAM. -/
def State.ckptBase (s : State) (k : Nat) : Nat := sramBase + 4096 * s.rd (STD_Sk_CKPT_OFF k)

/-- The architectural state is written to the checkpoint region (R133 step 2). The spec gives neither the layout nor the
state of the lanes, so what the region then holds is a free value of its own each time. -/
def State.checkpoint (s : State) (k : Nat) : State :=
  let n := s.fresh
  ({ s with fresh := n + 1 } : State).masterStore (s.ckptBase k) ((List.range 4096).map (Config.checkpointByte n))

/-- The rows of which a write of n bytes from a covers only a part: it reads them first (R438). -/
def partRows (a n : Nat) : List (Nat × Nat) :=
  (rowsAt a n).filter fun r => match rowAddr r.1 r.2 with | some b => decide (b < a) || decide (a + n < b + 32) | none => false

/-- Rows that a partial write has read take the corrected data, into which it merges (R438, R451). -/
def State.settleRows (s : State) (rs : List (Nat × Nat)) : State :=
  rs.foldl (fun s r =>
    if s.rowErr r.1 r.2 = 0 then s
    else
      let m := s.missed r.1 r.2
      (s.absorb r.1 r.2 m).setErr r.1 r.2 (s.rowErr r.1 r.2 ^^^ m)) s

/-- A block of the module writes bytes, reading first the rows it covers in part (R438): where one is uncorrectable,
nothing is written. The answer says whether the write was performed; one into staging changes nothing (R479). -/
def State.mergeStore (s : State) (master a : Nat) (bs : List Byte) : Bool × State :=
  if inStaging a bs.length then (true, s)
  else
    let rs := partRows a bs.length
    let q := s.seeRows master 2 rs
    if q.1 then (false, q.2) else (true, (q.2.settleRows rs).store a bs)

end Sys2Proof.Machine
end

