-- ==== Sys2Proof/Machine/KeyImage.lean ====
section
/-!
DEFINITION. What lies on the vehicle key and how it is judged: the Uldex container (R529, R530), the key header and
directory (R77 to R79), the journals (R82, R83), the processor's choice of an area (R84) and Ranger's (R85).
-/

namespace Sys2Proof.Machine

/-! ### The container (R529, R530) -/

/-- The code of the first check that fails, 0 where all pass. -/
def firstFail : List (Bool × Nat) → Nat
  | [] => 0
  | (ok, code) :: r => if ok then firstFail r else code

/-- Fields of a container header. -/
def conPaylen (h : List Byte) : Nat := leAt 0x14 4 h
def conSecver (h : List Byte) : Nat := leAt 0x10 4 h
def conImageid (h : List Byte) : Nat := leAt 0x18 8 h
def conFwver (h : List Byte) : Nat := leAt 0x20 4 h
def conEntry (h : List Byte) : Nat := leAt 0x24 4 h

/-- The first failing check among steps 1 to 7 of R530, in the codes of KEY_FAULT.DETAIL, 0x18 for step 7: `kind` is the
KIND expected, `issue` the module's hardware issue, `fuse` the fused security version. -/
def containerFail (kind issue fuse : Nat) (h : List Byte) : Nat :=
  let rootPub := slice 0xF20 56 h
  let endPub := slice 0x100 56 h
  firstFail
    [ (leAt 0 4 h == 0x58444C55 && leAt 4 2 h / 256 == 1, 0x12),
      (Config.sha256 rootPub == Config.rootHash, 0x13),
      (Config.lmsVerify rootPub (slice 0x100 64 h) (slice 0x140 1772 h), 0x04),
      (leAt 0x138 2 h == leAt 6 2 h && leAt 6 2 h == kind, 0x14),
      (Config.lmsVerify endPub (slice 0 256 h) (slice 0x830 1772 h), 0x05),
      (leAt 8 4 h == 0x00070192, 0x06),
      (decide (leAt 0xC 1 h ≤ issue), 0x07),
      (kind == 1 || decide (fuse ≤ conSecver h), 0x18) ]

/-- Step 8 of R530 over the payload. -/
def payhashOk (h payload : List Byte) : Bool := Config.sha256 payload == slice 0x40 32 h

/-! ### The payload (R77 to R79) -/

/-- A directory entry (R78). -/
structure Section where
  type : Nat
  flags : Nat
  off : Nat
  len : Nat
  crc : Nat
  deriving DecidableEq, Repr

def dirEntry (p : List Byte) (i : Nat) : Section :=
  let o := 0x40 + 16 * i
  ⟨leAt o 2 p, leAt (o + 2) 2 p, leAt (o + 4) 4 p, leAt (o + 8) 4 p, leAt (o + 12) 4 p⟩

def directory (p : List Byte) : List Section := (List.range (leAt 0x15 1 p)).map (dirEntry p)

/-- The bytes of a section. -/
def Section.data (x : Section) (p : List Byte) : List Byte := slice x.off x.len p

/-- The SCRC of a section checks; a section that runs past the payload has none. -/
def Section.sound (x : Section) (p : List Byte) : Bool := decide (x.off + x.len ≤ p.length) && crc32c (x.data p) == x.crc

/-- Whether the section is REQUIRED; the logic engine it names. -/
def Section.required (x : Section) : Bool := bitAt x.flags 0
def Section.engine (x : Section) : Nat := bitsAt x.flags 8 2

def keyMagic (p : List Byte) : Bool := leAt 0 4 p == 0x59454B44
def keyHcrc (p : List Byte) : Bool := decide (64 ≤ p.length) && leAt 0x3C 4 p == crc32c (slice 0 0x3C p)
def keyGen (p : List Byte) : Nat := leAt 8 4 p
def keyPaylen (p : List Byte) : Nat := leAt 0xC 4 p

/-- The fields of the key header that R84 judges at step 3. -/
def keyHeaderOk (p : List Byte) : Bool :=
  leAt 6 2 p == 64 && decide (1 ≤ keyGen p) && decide (keyGen p ≤ 0xFFFFFFFE) && keyPaylen p % 8 == 0 &&
    decide (keyPaylen p ≤ 0x01DFE000) && decide (1 ≤ leAt 0x15 1 p) && decide (leAt 0x15 1 p ≤ 16) &&
    leAt 0x16 2 p == 0 && allBytes 0 (slice 0x30 12 p)

/-- Whether two sections share a byte. -/
def Section.overlaps (a b : Section) : Bool :=
  decide (a.off < b.off + b.len) && decide (b.off < a.off + a.len) && a.len != 0 && b.len != 0

/-- Whether two entries may not stand together: of one type, or of one type for one engine. -/
def Section.clash (a b : Section) : Bool :=
  a.type == b.type && ([1, 2, 3, 6, 7, 8, 9].contains a.type || ([4, 5].contains a.type && a.engine == b.engine))

/-- The directory is well formed (R78). -/
def directoryOk (p : List Byte) : Bool :=
  let d := directory p
  d.all (fun x => x.off % 8 == 0 && decide (x.off + x.len ≤ keyPaylen p)) &&
    decide (d.Pairwise fun a b => a.overlaps b = false ∧ a.clash b = false)

/-- Why an area does not qualify (R84): the rank of the check in the order of R84, DETAIL and SECTION. -/
structure AreaFail where
  rank : Nat
  detail : Nat
  sect : Nat
  deriving DecidableEq, Repr

/-- The rank of a container check in R84: that of its step in R530. PRODUCT and MINISSUE are one step. -/
def conRank (d : Nat) : Nat := ([0x12, 0x13, 0x04, 0x14, 0x05, 0x06].findIdx? (· == if d = 0x07 then 0x06 else d)).getD 0

/-- The payload an area's container declares. -/
def areaBody (a : KeyArea) : List Byte := slice 0 (conPaylen a.container) a.payload

/-- The first failing check of an area in the order of R84. -/
def areaFail (issue : Nat) (a : KeyArea) : Option AreaFail :=
  let p := a.payload
  let c := containerFail 1 issue 0 a.container
  if c ≠ 0 then some ⟨conRank c, c, 0⟩
  else if !payhashOk a.container (areaBody a) then some ⟨7, 0x15, 0⟩
  else if !keyMagic p then some ⟨8, 0x16, 0⟩
  else if !keyHcrc p then some ⟨8, 0x02, 0⟩
  else if !keyHeaderOk p then some ⟨10, 0x16, 0⟩
  else if !directoryOk p then some ⟨11, 0x17, 0⟩
  else ((directory p).find? fun x => !x.sound p).map fun x => ⟨12, 0x03, x.type % 256⟩

/-- The processor's choice (R84): the area of the higher GEN among those that qualify, A if equal. -/
def keyChoice (issue : Nat) (m : KeyMem) : Option Nat :=
  match areaFail issue m.areaA, areaFail issue m.areaB with
  | none, none => some (if keyGen m.areaA.payload < keyGen m.areaB.payload then 1 else 0)
  | none, some _ => some 0
  | some _, none => some 1
  | some _, some _ => none

/-- The failing check that KEY_FAULT reports where no area qualifies, with its area: the later in the order, area A
where both fail at the same check. -/
def keyWorst (issue : Nat) (m : KeyMem) : AreaFail × Nat :=
  let a := (areaFail issue m.areaA).getD ⟨0, 0, 0⟩
  let b := (areaFail issue m.areaB).getD ⟨0, 0, 0⟩
  if a.rank < b.rank then (b, 1) else (a, 0)

def keyArea (m : KeyMem) (i : Nat) : KeyArea := if i = 0 then m.areaA else m.areaB

/-- The first section of a type. -/
def findSection (p : List Byte) (t : Nat) : Option Section := (directory p).find? (·.type == t)

/-! ### The descriptor and the journals -/

def keyMagicOk (m : KeyMem) : Bool := leAt 0 4 m.desc == 0x444B5844
def keyDescOk (m : KeyMem) : Bool := leAt 12 4 m.desc == crc32c (slice 0 12 m.desc)
def keySerial (m : KeyMem) : Nat := leAt 4 8 m.desc

/-- Whether a journal slot is blank, and whether it holds a valid record of a type (R83). -/
def slotBlank (r : List Byte) : Bool := allBytes 0xFF r
def slotValid (type : Nat) (r : List Byte) : Bool :=
  decide (64 ≤ r.length) && leAt 0 2 r == type && leAt 0x3C 4 r == crc32c (slice 0 0x3C r)

/-- What a slot reads where the n-th interrupted page program was to put a record: bits of it, neither valid nor blank
(R83). -/
def tornRecord (type n : Nat) (r : List Byte) : List Byte :=
  let c := r.zipIdx.map fun x => x.1 ||| Config.tornByte n x.2
  if slotBlank c || slotValid type c then List.replicate 64 0 else c

/-- Slot i of a journal reads `r` after a page program; the slots before it are written. -/
def journalPut (j : List (List Byte)) (i : Nat) (r : List Byte) : List (List Byte) := j.take i ++ [r] ++ j.drop (i + 1)

/-- The slots in use: written ones, valid or skipped. -/
def slotsUsed (j : List (List Byte)) : Nat := (j.filter fun r => !slotBlank r).length

/-- The first blank slot, none where the journal is full. -/
def firstBlank (j : List (List Byte)) : Option Nat :=
  let i := (j.findIdx? slotBlank).getD j.length
  if i < 16384 then some i else none

/-- The last valid record of a journal. -/
def lastValid (type : Nat) (j : List (List Byte)) : Option (List Byte) := (j.filter (slotValid type)).getLast?

/-- A record of 64 bytes (R82) from its first 60. -/
def sealRecord (bs : List Byte) : List Byte :=
  let b := padTo 0x3C bs
  b ++ leBytes 4 (crc32c b)

/-! ### Ranger's choice (R85) -/

/-- The parameter block of an area that is eligible for Ranger. -/
def areaRangerBlock (a : KeyArea) : Option (List Byte) :=
  let p := a.payload
  if keyMagic p && keyHcrc p then
    match (directory p).filter (·.type == 6) with
    | [x] => if x.sound p then some (x.data p) else none
    | _ => none
  else none

/-- Ranger's area (0 or 1), its block and its GEN; none where no area is eligible. -/
def keyRangerChoice (m : KeyMem) : Option (Nat × List Byte × Nat) :=
  let ga := keyGen m.areaA.payload
  let gb := keyGen m.areaB.payload
  match areaRangerBlock m.areaA, areaRangerBlock m.areaB with
  | some a, some b => if ga < gb then some (1, b, gb) else some (0, a, ga)
  | some a, none => some (0, a, ga)
  | none, some b => some (1, b, gb)
  | none, none => none

/-- Whether the commissioning journal confirms a parameter CRC, looking until the first blank slot. -/
def keyConfirms (m : KeyMem) (crc : Nat) : Bool :=
  (m.comm.takeWhile fun r => !slotBlank r).any fun r => slotValid 1 r && leAt 0x10 4 r == crc

end Sys2Proof.Machine
end

