-- ==== Sys2Proof/Machine/RangerParam.lean ====
section
/-!
DEFINITION. Ranger's parameter block: its layout and the checks of R281 to R284.
-/

namespace Sys2Proof.Machine

def rngInputAt (b : List Byte) (k : Nat) : Nat × Nat := (leAt (0xE0 + 4 * k) 1 b, leAt (0xE0 + 4 * k + 2) 2 b)

def rngConnAt (b : List Byte) (o : Nat) : RConn :=
  ⟨leAt o 4 b, leAt (o + 4) 4 b, leAt (o + 8) 4 b, leAt (o + 12) 2 b, leAt (o + 14) 1 b, leAt (o + 15) 1 b⟩

def rngInstAt (b : List Byte) (o : Nat) : RInst :=
  { type := leAt o 1 b, flags := leAt (o + 1) 1 b, cha := leAt (o + 2) 1 b, chb := leAt (o + 3) 1 b
    p1 := leAt (o + 4) 4 b, p2 := leAt (o + 8) 4 b, p3 := leAt (o + 12) 4 b, p4 := leAt (o + 16) 4 b
    ops := (List.range 4).map fun j => leAt (o + 20 + 2 * j) 2 b
    form := leAt (o + 28) 1 b }

/-- NINST, NCONN, NINPUT; where the connection and the instance table begin. -/
def rngNinst (b : List Byte) : Nat := leAt 6 1 b
def rngNconn (b : List Byte) : Nat := leAt 7 1 b
def rngNinput (b : List Byte) : Nat := leAt 8 1 b
def rngConnOff (b : List Byte) : Nat := 0xE0 + 4 * rngNinput b
def rngInstOff (b : List Byte) : Nat := rngConnOff b + 16 * rngNconn b

/-- The block's content (R281). -/
def rngParse (b : List Byte) : RParam :=
  { pmap := (slice 0x20 192 b).map (·.toNat)
    inputs := (List.range (rngNinput b)).map (rngInputAt b)
    conns := (List.range (rngNconn b)).map fun c => rngConnAt b (rngConnOff b + 16 * c)
    insts := (List.range (rngNinst b)).map fun i => rngInstAt b (rngInstOff b + 32 * i) }

/-- Whether a value lies in a range. -/
def within (lo hi v : Nat) : Bool := decide (lo ≤ v) && decide (v ≤ hi)

/-- The operands that FORM combines (R294). -/
def formOps (form : Nat) : Nat :=
  match form with
  | 1 => 1 | 2 => 2 | 3 => 3 | 4 => 4 | 5 => 3 | 6 => 4 | 7 => 4 | 8 => 2 | _ => 0

/-- An operand of instance i (R283). -/
def operandOk (nconn i code : Nat) : Bool :=
  if code < 0x2000 then decide (code < i)
  else if code < 0x4000 then decide (code - 0x2000 < i)
  else if code < 0x8000 then decide ((code - 0x4000) / 256 < nconn) && decide (code % 256 < 16)
  else code == 0x8000 || code == 0x8001

/-- The channels of an instance (R282). -/
def instChansOk (inputs : List Nat) (r : RInst) : Bool :=
  match r.type with
  | 1 => inputs.contains r.cha && inputs.contains r.chb && r.cha != r.chb
  | 2 => decide (r.cha < 192) && decide (r.chb < 192) && decide (r.cha % 16 < 4) && decide (r.chb % 16 < 4) && r.cha != r.chb
  | 6 => r.cha == 0xFF && r.chb == 0xFF
  | _ => decide (r.cha < 192) && (r.cha % 16 == 0 || r.cha % 16 == 2) && r.chb == r.cha + 1

/-- The parameters of an instance, its FLAGS, and its zero bytes (R282). -/
def instParamsOk (r : RInst) (zero : Bool) : Bool :=
  zero && decide (r.flags < 4) &&
    match r.type with
    | 1 => within 0 10000000 r.p1 && r.p2 == 0 && r.p3 == 0 && r.p4 == 0
    | 2 => within 50 1000 r.p1 && within 300 4000 r.p2 && within 1 1000 r.p3 && within 100 10000 r.p4 &&
        (r.ops.getD 0 0 == 0 || within 10 500 (r.ops.getD 0 0))
    | 3 => within 1000 1000000 r.p1 && within 1 2000 r.p2 && within 1 50 r.p3 && r.p4 == 0
    | 4 => within 1000 1000000 r.p1 && decide (toSigned 32 r.p2 ≤ toSigned 32 r.p3) && r.p4 == 0
    | 5 => within 1000 1000000 r.p1 && within 0 100 r.p2 && r.p3 == 0 && r.p4 == 0
    | _ => r.p1 == 0 && r.p2 == 0 && r.p3 == 0 && r.p4 == 0

/-- The operands of instance i (R282, R283): unused ones hold 0x8000. -/
def instOpsOk (nconn i : Nat) (r : RInst) : Bool :=
  let used := match r.type with
    | 4 => 1
    | 5 => 1
    | 6 => formOps r.form
    | _ => 0
  (List.range 4).all fun j =>
    (r.type == 2 && j == 0) ||
      (if j < used then operandOk nconn i (r.ops.getD j 0) else r.ops.getD j 0 == 0x8000)

/-- The ZS threshold frequency is N / D Hz (R287). -/
def zsNum (r : RInst) : Nat := r.p1 * r.p3 * 1000
def zsDen (r : RInst) : Nat := 360 * r.p2

/-- The lowest-numbered instance that fails a check. -/
def firstInst (l : List RInst) (ok : Nat → RInst → Bool) : Option Nat :=
  (List.range l.length).find? fun i => match l[i]? with | some r => !ok i r | none => false

/-- The check of R284 that a block fails first, in ascending order of its RNG_REASON codes, with the instance it fails
on; none for a block that is accepted. -/
def rngCheck (b : List Byte) : Option (Nat × Option Nat) :=
  let q := rngParse b
  let chans := q.inputs.map Prod.fst
  if !(leAt 0 4 b == 0x50474E52 && leAt 4 2 b / 256 == 1) then some (0x02, none)
  else if b.length ≠ 0xE0 + 4 * rngNinput b + 16 * rngNconn b + 32 * rngNinst b then some (0x03, none)
  else if !(within 1 32 (rngNinst b) && within 0 8 (rngNconn b) && within 0 64 (rngNinput b)) then some (0x04, none)
  else if !(q.inputs.all (fun e => decide (e.1 < 192) && within 1 65535 e.2) && decide chans.Nodup) then some (0x05, none)
  else if !(q.conns.all fun c => within 10 10000 c.timeout && c.sigbyte % 2 == 0 && decide (c.sigbyte ≤ 62) &&
      decide (1 ≤ c.maxstep) && within 1 0xFFFFFFFE c.src && within 1 0xFFFFFFFE c.dst) then some (0x06, none)
  else
    match firstInst q.insts fun _ r => within 1 6 r.type && (if r.type = 6 then within 1 8 r.form else r.form == 0) with
    | some i => some (0x07, some i)
    | none =>
    match firstInst q.insts fun _ r => instChansOk chans r with
    | some i => some (0x08, some i)
    | none =>
    match firstInst q.insts fun i r => instParamsOk r (allBytes 0 (slice (rngInstOff b + 32 * i + 29) 3 b)) with
    | some i => some (0x09, some i)
    | none =>
    if !(allBytes 0 (slice 9 7 b) && (List.range (rngNinput b)).all fun k => leAt (0xE0 + 4 * k + 1) 1 b == 0) then
      some (0x09, none)
    else
    match firstInst q.insts fun i r => instOpsOk (rngNconn b) i r with
    | some i => some (0x0A, some i)
    | none =>
    if !(q.pmap.all fun x => decide (x < rngNinst b) || x == 0xFF) then some (0x0B, none)
    else
    match firstInst q.insts fun _ r =>
        r.type != 2 || (decide (10 * zsDen r ≤ zsNum r) && decide (zsNum r ≤ 5000 * zsDen r)) with
    | some i => some (0x0C, some i)
    | none => none

end Sys2Proof.Machine
end

