-- ==== Sys2Proof/Machine/Ranger.lean ====
section
/-!
DEFINITION. Ranger (R276 to R304): its key phase and states, its functions, the safe-frame copy, the permit lanes and
their readback, and the mirror in the RNG_ registers. Every time is a count of Ranger's own ticks.
-/

namespace Sys2Proof.Machine

/-! ### Initial values at RUN or UNCONFIRMED entry -/

def rlinkInit : RLink := ⟨false, 0, 0, [], 0, 0, none, false, false, 0, 0, 0, 0, 0⟩

def rpairInit (la lb : Bool) : RPair := ⟨la, lb, 0, 0, false, 0, 0, false, []⟩

def revalInit (tick : Nat) : REval := ⟨false, 0, 0, tick, false, false, tick, tick, tick, 0, 0, false, false⟩

abbrev rngKey : Nat := 0
abbrev rngNoparam : Nat := 1
abbrev rngParamerr : Nat := 2
abbrev rngUnconfirmed : Nat := 3
abbrev rngRun : Nat := 4
abbrev rngFault : Nat := 5
abbrev rngPowerfail : Nat := 6

/-- Whether functions are evaluated. -/
def rngEvaluates (st : Nat) : Bool := st == rngUnconfirmed || st == rngRun

/-- Replace Ranger. -/
def State.setRng (s : State) (r : Ranger) : State := { s with rng := r }

/-- The channels that PMAP binds to an instance. -/
def pmapChans (q : RParam) : List Nat := (List.range 192).filter fun n => q.pmap.getD n 0xFF != 0xFF

/-! ### Permit lanes (R298) -/

/-- Drive one permit lane: a change leaves the module and the channel's switches follow; a lane that falls starts the
1 ms of R299, one that rises clears PFAIL. -/
def State.drivePermit (s : State) (tick n : Nat) (on : Bool) : State :=
  if bitAt s.io.permits n = on then s
  else
    let r := s.rng
    let r : Ranger := if on then { r with pfail := setBit r.pfail n false }
      else { r with lowAt := tblSet 0 n tick r.lowAt, lastLow := tblSet 0 n tick r.lastLow }
    (({ s with rng := r, io := { s.io with permits := setBit s.io.permits n on } } : State).emit (.permit n on)).settleChan n

/-- Every permit lane goes low. -/
def State.permitsLow (s : State) (tick : Nat) : State :=
  (List.range 192).foldl (fun s n => s.drivePermit tick n false) s

/-- A Ranger fault (R302): FAULT, every permit low. -/
def State.rangerFault (s : State) (tick code : Nat) : State :=
  if rngEvaluates s.rng.state then
    (s.setRng { s.rng with state := rngFault, code := code, inst := none }).permitsLow tick
  else s

/-- Flush entry as Ranger's supply link signals it (R61, R280): POWERFAIL, the fault code is kept (R303). -/
def State.rangerPowerfail (s : State) : State :=
  (s.setRng { s.rng with state := rngPowerfail }).permitsLow 0

/-! ### Key phase (R85, R280, R284) -/

/-- RUN or UNCONFIRMED entry: filters are seeded (R571), time stamps set, encoders at 0, connections not fresh. -/
def rangerEnter (r : Ranger) (q : RParam) (tick : Nat) : Ranger :=
  let zs := q.insts.filter fun i => i.type == 2
  let enc := q.insts.filter fun i => within 3 5 i.type
  { r with
    param := some q
    filters := q.inputs.map fun e => (if bitAt r.raw e.1 then e.2 else 0, bitAt r.raw e.1)
    edges := zs.foldl (fun m i => tblPut i.chb (tick, tick, tick) (tblPut i.cha (tick, tick, tick) m)) []
    pairs := enc.foldl (fun m i => tblPut i.cha (rpairInit (bitAt r.raw i.cha) (bitAt r.raw i.chb)) m) []
    links := q.conns.map fun _ => rlinkInit
    evals := q.insts.map fun _ => revalInit tick
    lastLow := (pmapChans q).foldl (fun m n => tblSet 0 n tick m) r.lastLow }

/-- The end of Ranger's key phase: no eligible area or a key bus error, a content check that fails, or a block accepted
with or without its confirmation. -/
def rangerKeyEnd (r : Ranger) (key : Option KeyMem) (busErr : Bool) (tick : Nat) : Ranger :=
  if busErr then { r with state := rngNoparam, area := 3, code := 0x0E }
  else
    match key.bind keyRangerChoice with
    | none => { r with state := rngNoparam, area := 3, code := 0x01 }
    | some (a, b, gen) =>
      let crc := crc32c b
      let conf := (key.map fun m => keyConfirms m crc).getD false
      let r : Ranger := { r with area := a, pcrc := crc, gen := gen, conf := conf }
      match rngCheck b with
      | some (code, inst) => { r with state := rngParamerr, code := code, inst := inst }
      | none =>
        rangerEnter
          (if conf then { r with state := rngRun, code := 0 } else { r with state := rngUnconfirmed, code := 0x0D })
          (rngParse b) tick

/-- RANGER_KEY_PHASE_END (R85): Ranger enters its next state and releases the key lines. -/
def execRangerKeyPhaseEnd (busErr : Bool) (tick t : Nat) (s : State) : Host.Outcome State Fault Refusal :=
  let s := s.begin t
  .next <| if s.rng.state = rngKey ∧ s.pw.phase = .running then
    { s with
      rng := rangerKeyEnd s.rng s.key.mem busErr tick
      pw := { s.pw with start := { s.pw.start with keyPhase := true } } }
  else s

/-! ### Levels and edges (R278, R290) -/

/-- A filter of the input table takes a sample (R248, R281). -/
def rngFilter (tr : Nat) (f : Nat × Bool) (v : Bool) : Nat × Bool :=
  let k := if v then (if f.1 < tr then f.1 + 1 else f.1) else f.1 - 1
  (k, if k = tr then true else if k = 0 then false else f.2)

/-- The permit readback of one channel at a sample (R299). -/
def rngReadback (permits tick : Nat) (r : Ranger) (n : Nat) : Ranger :=
  let from_ := tblGet 0 n r.lowAt + 38000
  if bitAt permits n || decide (tick < from_) then r
  else if bitAt r.raw n then
    if max from_ (tblGet 0 n r.lastLow) + 38000 ≤ tick then { r with pfail := setBit r.pfail n true } else r
  else { r with lastLow := tblSet 0 n tick r.lastLow, pfail := setBit r.pfail n false }

/-- Ranger takes a level sample of every sense lane. -/
def rangerSample (r : Ranger) (permits levels tick : Nat) : Ranger :=
  let r : Ranger := { r with raw := levels }
  match r.param with
  | none => r
  | some q =>
    let r : Ranger := if rngEvaluates r.state then
        { r with filters := (q.inputs.zip r.filters).map fun e => rngFilter e.1.2 e.2 (bitAt levels e.1.1) }
      else r
    (pmapChans q).foldl (rngReadback permits tick) r

/-- RANGER_LEVEL_SAMPLE (R278): every 380 ticks. -/
def execRangerLevelSample (levels : BitVec 192) (tick : Nat) (s : State) : Host.Outcome State Fault Refusal :=
  let s := s.fresh0
  .next (if s.pw.phase != .off then s.setRng (rangerSample s.rng s.io.permits levels.toNat tick) else s)

/-- A quadrature error on the pair of CHA (R290): its Q holds at 0 for 100 ms, SLP instances lose their reference. -/
def rngUnreference (q : RParam) (cha : Nat) (evals : List REval) : List REval :=
  (q.insts.zip evals).map fun e => if e.1.type = 4 ∧ e.1.cha = cha then { e.2 with refd := false } else e.2

/-- An edge of a quadrature pair (R253, R290): counted by the levels; a second edge of the other channel in the same
tick is an error, and the pair did not move. -/
def rngPairEdge (p : RPair) (onB level : Bool) (tick : Nat) : RPair × Bool :=
  let la := if onB then p.la else level
  let lb := if onB then level else p.lb
  if p.lastTick = tick ∧ p.lastB ≠ onB ∧ p.hist.any (fun h => h.1 == tick) then
    ({ p with
      la := la, lb := lb, pos := p.before, hist := (tick, p.before) :: p.hist, hold := tick + 4200000, held := true,
      lastTick := tick, lastB := onB }, true)
  else
    let up := if onB then p.la == level else level != p.lb
    let pos := p.pos + (if up then 1 else -1)
    ({ p with la := la, lb := lb, before := p.pos, pos := pos, lastTick := tick, lastB := onB, hist := (tick, pos) :: p.hist },
      false)

/-- An edge past Ranger's glitch filter on channel n. -/
def rangerEdge (r : Ranger) (n : Nat) (level : Bool) (tick : Nat) : Ranger :=
  match r.param with
  | none => r
  | some q =>
    if !rngEvaluates r.state then r
    else
      let r : Ranger := match tblFind n r.edges with
        | some (e1, e2, _) => if level then { r with edges := tblPut n (tick, e1, e2) r.edges } else r
        | none => r
      let a := if n % 2 = 0 then n else n - 1
      match tblFind a r.pairs with
      | none => r
      | some p =>
        let (p', err) := rngPairEdge p (n != a) level tick
        { r with
          pairs := tblPut a p' r.pairs
          evals := if err then rngUnreference q a r.evals else r.evals }

/-- RANGER_EDGE (R278): an edge on a channel with n mod 16 = 0 to 3, stamped in ticks. -/
def execRangerEdge (n : Fin 192) (level : Bool) (tick : Nat) (s : State) : Host.Outcome State Fault Refusal :=
  let s := s.fresh0
  .next (if n.val % 16 < 4 then s.setRng (rangerEdge s.rng n level tick) else s)

/-- RANGER_QUAD_HOLD_END (R290): 100 ms have passed since the error. -/
def execRangerQuadHoldEnd (pair : Fin 192) (tick : Nat) (s : State) : Host.Outcome State Fault Refusal :=
  let s := s.fresh0
  .next <| match tblFind pair s.rng.pairs with
    | none => s
    | some p =>
      if p.hold ≤ tick then s.setRng { s.rng with pairs := tblPut pair { p with held := false } s.rng.pairs } else s

/-! ### Safe data (R295 to R297, R571 to R573) -/

/-- The signal word of a message's user data (R572). -/
def sigWord (o : Nat) (user : List Byte) : Nat := (user.getD o 0).toNat + 256 * (user.getD (o + 1) 0).toNat

/-- A rejection. -/
def rngReject (l : RLink) (why : Nat) : RLink := { l with lastRej := why, rej := sat 16 (l.rej + 1) }

/-- A loss of freshness is counted. -/
def rngStale (l : RLink) : RLink := if l.fresh then { l with fresh := false, tmo := sat 16 (l.tmo + 1) } else l

/-- One sequence number is above another (R380). -/
def seqAbove (a b : Nat) : Bool := within 1 (2 ^ 31 - 1) ((a + 2 ^ 32 - b) % 2 ^ 32)

/-- Whether fewer ticks than the timeout have passed since the last accepted message (R296). -/
def rngInTime (k : RConn) (l : RLink) (tick : Nat) : Bool := decide (tick < l.tick + k.timeout * 3800)

/-- The second copy of the accepted message (R297): where the user data agree, a message later than the one whose copies
differed ends FLT, and freshness returns with it. -/
def rngSecond (k : RConn) (l : RLink) (plane tick : Nat) (user : List Byte) : RLink :=
  if user = l.user then
    (if l.flt && plane != l.plane && l.seq != l.fltSeq then { l with flt := false, fresh := rngInTime k l tick } else l)
  else { rngStale (rngReject l 6) with flt := true, fltSeq := l.seq }

/-- A copy of a message is judged against the connection it is attributed to: identity, CRC, sequence (where a second
copy of the accepted message is compared, R297), alive counter, time stamp; then it is accepted. -/
def rngJudge (k : RConn) (l : RLink) (plane tick : Nat) (m : List Byte) : RLink :=
  let ulen := leAt 14 2 m
  let seq := leAt 8 4 m
  let alive := leAt 12 2 m
  let time := leAt 16 8 m
  let user := slice 24 ulen m
  if leAt 4 4 m ≠ k.dst then rngReject l 2
  else if leAt (24 + ulen) 4 m ≠ crc32cSeed k.seed (slice 0 (24 + ulen) m) then rngReject l 1
  else
    let prev := l.alive
    let l : RLink := { l with alive := some alive }
    if l.accepted && seq == l.seq then rngSecond k l plane tick user
    else if l.accepted && !seqAbove seq l.seq then rngReject l 3
    else if (match prev with | some a => !within 1 k.maxstep ((alive + 65536 - a) % 65536) | none => false) then rngReject l 4
    else if l.accepted && decide (time ≤ l.time) then rngReject l 5
    else
      { l with
        accepted := true, seq := seq, time := time, user := user, plane := plane, tick := tick, fresh := !l.flt,
        sig := sigWord k.sigbyte user }

/-- A copy of a received Canopy frame, without FCS: attributed by its identities, or discarded (R573). -/
def rangerCopy (r : Ranger) (plane tick : Nat) (frame : List Byte) : Ranger :=
  match r.param with
  | none => r
  | some q =>
    if !rngEvaluates r.state then r
    else
      let len := beAt 22 2 frame
      let m := slice 30 len frame
      let ulen := leAt 14 2 m
      if m.length < 28 ∨ m.length ≠ len ∨ len ≠ ulen + 28 then r
      else
        let exact := q.conns.findIdx? fun k => k.src == leAt 0 4 m && k.dst == leAt 4 4 m
        let bySrc := q.conns.findIdx? fun k => k.src == leAt 0 4 m
        match exact.or bySrc with
        | none => r
        | some c =>
          match q.conns[c]?, r.links[c]? with
          | some k, some l => { r with links := r.links.set c (rngJudge k l plane tick m) }
          | _, _ => r

/-- RANGER_SAFE_COPY (R295). -/
def execRangerSafeCopy (plane : Fin 2) (frame : List Byte) (tick : Nat) (s : State) : Host.Outcome State Fault Refusal :=
  let s := s.fresh0
  .next (s.setRng (rangerCopy s.rng plane tick frame))

/-- Freshness of a connection at an instant (R296). -/
def rngLinkNow (k : RConn) (l : RLink) (tick : Nat) : RLink :=
  if l.accepted && !l.flt && rngInTime k l tick then { l with fresh := true } else rngStale l

/-- RANGER_CONNECTION_TIMEOUT (R296). -/
def execRangerConnectionTimeout (c : Fin 8) (tick : Nat) (s : State) : Host.Outcome State Fault Refusal :=
  let s := s.fresh0
  .next <| match s.rng.param with
    | none => s
    | some q =>
      match q.conns[c.val]?, s.rng.links[c.val]? with
      | some k, some l =>
        if rngEvaluates s.rng.state then s.setRng { s.rng with links := s.rng.links.set c.val (rngLinkNow k l tick) } else s
      | _, _ => s

/-! ### The functions (R285 to R294) -/

/-- Whether a code reads a connection signal that is held at 0 (R294). -/
def opHeld (links : List RLink) (code : Nat) : Bool :=
  within 0x4000 0x7FFF code &&
    match links[(code - 0x4000) / 256]? with
    | some l => !l.fresh || l.flt
    | none => true

/-- The value of an operand (R283). -/
def opValue (links : List RLink) (qs : List Bool) (code : Nat) : Bool :=
  if code < 0x2000 then qs.getD code false
  else if code < 0x4000 then !(qs.getD (code - 0x2000) false)
  else if code < 0x8000 then
    match links[(code - 0x4000) / 256]? with
    | some l => l.fresh && !l.flt && bitAt l.sig (code % 256)
    | none => false
  else code == 0x8001

/-- The filtered level of a channel of the input table. -/
def rngLevel (q : RParam) (filters : List (Nat × Bool)) (ch : Nat) : Bool :=
  match q.inputs.findIdx? fun e => e.1 == ch with
  | some k => (filters.getD k (0, false)).2
  | none => false

/-- TCI (R286): EQV2 of R191 in ticks. -/
def evalTci (r : RInst) (a b0 : Bool) (now : Nat) (e : REval) : REval :=
  let b := b0 != bitAt r.flags 0
  let late := decide (38 * r.p1 < now - e.start)
  let e : REval :=
    if !a && !b then { e with q := false, run := false, disc := false }
    else if a && b then
      let disc := e.disc || (e.run && late)
      { e with disc := disc, run := false, q := !disc }
    else if e.disc then { e with q := false }
    else if !e.run then { e with q := false, run := true, start := now }
    else if late then { e with q := false, disc := true, run := false }
    else { e with q := false }
  { e with flt := b2n e.disc, val := 0 }

/-- Division that rounds up. -/
def ceilDiv (a b : Nat) : Nat := (a + b - 1) / b

/-- The threshold period of R287 in ticks. -/
def zsPt (r : RInst) : Nat := ceilDiv (42000000 * zsDen r) (zsNum r)

/-- Whether a ZS channel is fast (R288). -/
def zsFast (r : RInst) (now : Nat) (e : Nat × Nat × Nat) : Bool :=
  let pt := zsPt r
  decide (now - e.1 < pt) && decide (e.1 - e.2.1 < pt) &&
    (decide (zsNum r < 20 * zsDen r) || decide (e.2.1 - e.2.2 < pt))

/-- The deceleration hold in ticks (R288); `d` is the period of f_last in ticks, 0 for f_last = 0. -/
def zsStop (r : RInst) (d : Nat) : Nat :=
  let op := r.ops.getD 0 0
  if op = 0 ∨ d = 0 then 0
  else ceilDiv (42000000 * (40000000 * zsDen r - zsNum r * d) * r.p2) (d * zsDen r * op * r.p3 * 10)

/-- ZS (R288). -/
def evalZs (r : RInst) (ea eb : Nat × Nat × Nat) (now : Nat) (e : REval) : REval :=
  let fa := zsFast r now ea
  let fb := zsFast r now eb
  let pa := if fa then ea.1 - ea.2.1 else 0
  let pb := if fb then eb.1 - eb.2.1 else 0
  let best := if pa = 0 then pb else if pb = 0 then pa else min pa pb
  let e : REval := if fa || fb then { e with tFast := now, period := if best = 0 then e.period else best } else e
  let e : REval := if fa == fb then { e with dStart := now }
    else if r.p4 * 38000 ≤ now - e.dStart then { e with disc := true } else e
  let e : REval := if fa && fb then (if 42000000 ≤ now - e.bStart then { e with disc := false } else e)
    else { e with bStart := now }
  let hold := decide (now - e.tFast < zsStop r e.period)
  { e with
    q := !fa && !fb && !e.disc && !hold
    flt := if e.disc then 1 else if hold && !fa && !fb then 4 else 0
    val := if e.period = 0 then 0 else 40000000000 / e.period }

/-- The position of a pair at a tick. -/
def pairAt (p : RPair) (t : Nat) : Int :=
  match p.hist.find? fun h => decide (h.1 ≤ t) with
  | some h => h.2
  | none => 0

/-- SLS (R291). -/
def evalSls (r : RInst) (p : RPair) (now : Nat) (e : REval) : REval :=
  let w := 38000 * r.p3
  let l := r.p2 * r.p1 * w / (1000 * 42000000)
  let d := (p.pos - pairAt p (now - w)).natAbs
  let q := decide (d ≤ l)
  { e with q := q, flt := if q then 0 else 6, val := d * 1000 * 40000000 / (r.p1 * w) }

/-- A position counted positive in the opening direction. -/
def opening (r : RInst) (x : Int) : Int := if bitAt r.flags 1 then -x else x

/-- SLP (R292). -/
def evalSlp (r : RInst) (p : RPair) (ref : Bool) (e : REval) : REval :=
  let e : REval := if ref then { e with origin := p.pos, refd := true } else e
  let c := opening r (p.pos - e.origin) * 1000
  let inWin := decide (toSigned 32 r.p2 * r.p1 ≤ c) && decide (c ≤ toSigned 32 r.p3 * r.p1)
  { e with
    q := e.refd && inWin
    flt := if !e.refd then 2 else if inWin then 0 else 7
    val := if e.refd then ofSigned 32 (c / r.p1) else 0 }

/-- SDI (R293); `origin` holds the anchor. -/
def evalSdi (r : RInst) (p : RPair) (release : Bool) (e : REval) : REval :=
  let x := opening r p.pos
  let e : REval := if release || decide (x < e.origin) then { e with origin := x } else e
  let e : REval := if release then { e with viol := false }
    else if (r.p2 * r.p1 : Nat) < (x - e.origin) * 1000 then { e with viol := true } else e
  { e with q := !e.viol, flt := if e.viol then 5 else 0, val := ofSigned 32 ((x - e.origin) * 1000 / r.p1) }

/-- What FORM makes of A to D (R294). -/
def formValue (form : Nat) (a b c d : Bool) : Bool :=
  match form with
  | 1 => a
  | 2 => a && b
  | 3 => a && b && c
  | 4 => a && b && c && d
  | 5 => a && (b || c)
  | 6 => a && b && (c || d)
  | 7 => (a || b) && (c || d)
  | _ => a || b

/-- REL (R294). -/
def evalRel (r : RInst) (links : List RLink) (qs : List Bool) (e : REval) : REval :=
  let v := fun j => opValue links qs (r.ops.getD j 0x8000)
  let q := formValue r.form (v 0) (v 1) (v 2) (v 3)
  let held := (r.ops.take (formOps r.form)).any (opHeld links)
  { e with q := q, flt := if !q && held then 8 else 0, val := 0 }

/-- An encoder instance of a pair in its hold (R290): Q 0, fault 3. -/
def evalHeld (p : RPair) (now : Nat) (e : REval) : REval :=
  if p.held && decide (now < p.hold) then { e with q := false, flt := 3 } else e

/-- One instance at an evaluation. -/
def evalInst (g : Ranger) (q : RParam) (now : Nat) (qs : List Bool) (r : RInst) (e : REval) : REval :=
  let p := (tblFind r.cha g.pairs).getD (rpairInit false false)
  let op := opValue g.links qs (r.ops.getD 0 0x8000)
  match r.type with
  | 1 => evalTci r (rngLevel q g.filters r.cha) (rngLevel q g.filters r.chb) now e
  | 2 => evalZs r (tblGet (0, 0, 0) r.cha g.edges) (tblGet (0, 0, 0) r.chb g.edges) now e
  | 3 => evalHeld p now (evalSls r p now e)
  | 4 => evalHeld p now (evalSlp r p op e)
  | 5 => evalHeld p now (evalSdi r p op e)
  | _ => evalRel r g.links qs e

/-- Every instance in ascending order, each reading the Q of those below it. -/
def evalAll (g : Ranger) (q : RParam) (now : Nat) : List RInst → List REval → List Bool → List REval
  | r :: rs, e :: es, qs =>
    let e' := evalInst g q now qs r e
    e' :: evalAll g q now rs es (qs ++ [e'.q])
  | _, _, _ => []

/-- Drop what no SLS window can reach any more: everything older than the newest entry that is 50 ms old. -/
def pruneHist (now : Nat) : List (Nat × Int) → List (Nat × Int)
  | [] => []
  | h :: t => if h.1 + 1900000 ≤ now then [h] else h :: pruneHist now t

/-- An evaluation: connections are judged, then every instance. -/
def rangerEvaluate (g : Ranger) (q : RParam) (now : Nat) : Ranger :=
  let g : Ranger := { g with links := (q.conns.zip g.links).map fun e => rngLinkNow e.1 e.2 now }
  { g with
    evals := evalAll g q now q.insts g.evals []
    pairs := g.pairs.map fun e => (e.1, { e.2 with hist := pruneHist now e.2.hist }) }

/-- Permits at an evaluation (R298). -/
def permitWanted (g : Ranger) (q : RParam) (n : Nat) : Bool :=
  g.state == rngRun && ((g.evals[q.pmap.getD n 0xFF]?).map (·.q)).getD false

/-- RANGER_EVALUATION (R285, R279): the channels are compared and the second oscillator's ratio (per 10,000) is checked;
then the functions and the permit lanes. Every evaluation is counted. -/
def State.rangerEvaluation (s : State) (chanDiff : Bool) (ratio tick : Nat) : State :=
  let s := s.setRng { s.rng with evcnt := (s.rng.evcnt + 1) % 2 ^ 32 }
  match s.rng.param with
  | none => s
  | some q =>
    if !rngEvaluates s.rng.state then s
    else if chanDiff then s.rangerFault tick 0x10
    else if !within 9200 10800 ratio then s.rangerFault tick 0x11
    else
      let s := s.setRng (rangerEvaluate s.rng q tick)
      let g := s.rng
      (pmapChans q).foldl (fun s n => s.drivePermit tick n (permitWanted g q n)) s

def execRangerEvaluation (chanDiff : Bool) (ratio tick t : Nat) (s : State) : Host.Outcome State Fault Refusal :=
  let s := s.begin t
  .next (if s.pw.phase != .off then s.rangerEvaluation chanDiff ratio tick else s)

/-- RANGER_PARAM_CRC_CHECK (R279): the CRC of the parameter memory as Ranger computes it now. -/
def execRangerParamCrcCheck (crc : BitVec 32) (tick t : Nat) (s : State) : Host.Outcome State Fault Refusal :=
  let s := s.begin t
  .next (if crc.toNat = s.rng.pcrc then s else s.rangerFault tick 0x12)

/-! ### The mirror (R304) -/

/-- A record of the mirror: class SAFETY, source 8, no event. -/
def State.rngRecord (s : State) (obj w0 : Nat) (w1 : Option Nat) : State := s.record 6 8 0xFF obj (some w0) w1

/-- RNG_STAT, RNG_REASON and the CRC, GEN and count. -/
def State.mirrorHead (s : State) : State :=
  let g := s.rng
  let s := ((s.wr RNG_STAT_STATE g.state).wr RNG_STAT_AREA g.area).wrB RNG_STAT_CONF g.conf
  let s := match g.param with
    | some q => (s.wr RNG_STAT_NINST q.insts.length).wr RNG_STAT_NCONN q.conns.length
    | none => s
  let s := (s.wr RNG_REASON_CODE g.code).wr RNG_REASON_INST (g.inst.getD 0)
  let s := s.wrB RNG_REASON_INSTV g.inst.isSome
  ((s.wr RNG_PCRC g.pcrc).wr RNG_GEN g.gen).wr RNG_EVCNT g.evcnt

/-- One connection, with a record at a change of freshness or FLT. -/
def State.mirrorLink (s : State) (c : Nat) (l : RLink) : State :=
  let live := l.fresh && !l.flt
  let changed := s.flag (RNG_CONNc_STAT_FRESH c) != live || s.flag (RNG_CONNc_STAT_FLT c) != l.flt
  let s := (s.wrBit RNG_CONN_FRESH c live).wrBit RNG_CONN_FLT c l.flt
  let s := (s.wr (RNG_CONNc_STAT_SIG c) (if live then l.sig else 0)).wrB (RNG_CONNc_STAT_FRESH c) live
  let s := (s.wrB (RNG_CONNc_STAT_FLT c) l.flt).wr (RNG_CONNc_STAT_LASTREJ c) l.lastRej
  let s := (s.wr (RNG_CONNc_CNT_REJ c) l.rej).wr (RNG_CONNc_CNT_TMO c) l.tmo
  if changed then s.rngRecord c (0x10700040 + 4 * c) (some (0x10700060 + 4 * c)) else s

/-- One instance, with a record at a change of Q or fault code. -/
def State.mirrorInst (s : State) (i : Nat) (r : RInst) (e : REval) : State :=
  let changed := s.flag (RNG_INSTi_STAT_Q i) != e.q || s.rd (RNG_INSTi_STAT_FLT i) != e.flt
  let s := (s.wrBit RNG_QOUT i e.q).wrBit RNG_IFLT i (e.flt != 0)
  let s := ((s.wr (RNG_INSTi_STAT_TYPE i) r.type).wrB (RNG_INSTi_STAT_Q i) e.q).wr (RNG_INSTi_STAT_FLT i) e.flt
  let s := s.wr (RNG_INSTi_VAL_VALUE i) e.val
  if changed then s.rngRecord i (0x10700080 + 4 * i) (some (0x10700100 + 4 * i)) else s

/-- The readback bit of one channel, with a record at its change. -/
def State.mirrorPfail (s : State) (n : Nat) : State :=
  let b := bitAt s.rng.pfail n
  if s.bit (RNG_PFAILj (n / 32)) (n % 32) = b then s
  else (s.wrBit (RNG_PFAILj (n / 32)) (n % 32) b).rngRecord n (0x107001A0 + 4 * (n / 32)) none

/-- The mean period of the last 256 images: the span between the newest and the oldest kept, over their number. -/
def meanPeriod (images : List Nat) : Nat :=
  match images, images.getLast? with
  | a :: _ :: _, some b => (a - b) / (images.length - 1)
  | _, _ => 0

/-- RANGER_MIRROR_IMAGE (R304): Ranger's image is exchanged into the RNG_ registers. -/
def State.mirrorImage (s : State) : State :=
  let was := s.rd RNG_STAT_STATE
  let s := s.setRng { s.rng with images := (s.now :: s.rng.images).take 257 }
  let s := (s.mirrorHead.wr RNG_STAT_LINK 1).wr RNG_EVPER (meanPeriod s.rng.images)
  let s := if s.rng.state = was then s else s.rngRecord 0xFFFF 0x10700000 (some 0x10700004)
  let g := s.rng
  let s := (List.range g.links.length).foldl (fun s c => match g.links[c]? with
    | some l => s.mirrorLink c l
    | none => s) s
  let insts := (g.param.map (·.insts)).getD []
  let s := (List.range insts.length).foldl (fun s i => match insts[i]?, g.evals[i]? with
    | some r, some e => s.mirrorInst i r e
    | _, _ => s) s
  let s := (List.range 6).foldl (fun s j => s.wr (RNG_PERMITj j) (s.io.permits / 2 ^ (32 * j))) s
  (List.range 192).foldl State.mirrorPfail s

/-! ### What the mirror tells the firmware update engine (R539) -/

/-- Whether every instance of a type has Q = 1; true in a state in which Ranger evaluates nothing. -/
def State.instancesHold (s : State) (type : Nat) : Bool :=
  !rngEvaluates (s.rd RNG_STAT_STATE) ||
    (List.range (s.rd RNG_STAT_NINST)).all fun i => s.rd (RNG_INSTi_STAT_TYPE i) != type || s.flag (RNG_INSTi_STAT_Q i)

/-- LINK, ZERO, LOCK and NOPERM of FWU_COND. -/
def State.mirrorConds (s : State) : List Bool :=
  [s.flag RNG_STAT_LINK && s.rd RNG_STAT_STATE != rngKey, s.instancesHold 2, s.instancesHold 1,
    (List.range 6).all fun j => s.rd (RNG_PERMITj j) == 0]

/-- Since when LINK to NOPERM have all held. -/
def State.condStep (s : State) : State :=
  { s with fwu := { s.fwu with
    condSince := if s.mirrorConds.all id then some (s.fwu.condSince.getD s.now) else none } }

def execRangerMirrorImage (t : Nat) (s : State) : Host.Outcome State Fault Refusal :=
  let s := s.begin t
  .next (if s.dieRuns then s.mirrorImage.condStep else s)

/-- RANGER_MIRROR_LOST (R304): no image for 100 µs; LINK clears and an alarm record is written. -/
def execRangerMirrorLost (t : Nat) (s : State) : Host.Outcome State Fault Refusal :=
  let s := s.begin t
  .next (if s.flag RNG_STAT_LINK && s.dieRuns && decide ((s.rng.images.head?.getD 0) + 100000 ≤ t) then
    ((s.wr RNG_STAT_LINK 0).record 2 8 0xFF 0xFFFF (some 0x10700000) (some 0x10700004)).condStep else s)

end Sys2Proof.Machine
end

