-- ==== Sys2Proof/Machine/CanopyBase.lean ====
section
/-!
DEFINITION. What every part of Canopy rests on: blaze table entries (R315), the committed train (R359, R365), frames
(R322, R323), ports and the event-triggered queues (R308 to R310), host buffers (R331) and the receive image of a blaze
(R334, R369 to R372).
-/

namespace Sys2Proof.Machine

/-! ### Entries of the blaze table (R315) -/

/-- The fields of one entry. -/
structure Entry where
  offset : Nat
  segment : Nat
  ranger : Bool
  planes : Nat
  kind : Nat
  foreign : Bool
  consel : Nat
  length : Nat
  sender : Nat
  fid : Nat
  z1 : Nat
  role : Nat
  host : Bool
  z2 : Nat
  eng : Nat
  area : Nat
  statw : Nat
  z3 : Nat
  paylen : Nat
  z4 : Nat
  lossn : Nat
  rsub : Nat
  deriving DecidableEq, Repr

/-- An entry from its four words. -/
def entryOf (w0 w1 w2 w3 : Nat) : Entry :=
  { offset := bitsAt w0 0 20, segment := bitsAt w0 20 3, ranger := bitAt w0 23, planes := bitsAt w0 24 2
    kind := bitsAt w0 26 3, foreign := bitAt w0 29, consel := bitsAt w0 30 2
    length := bitsAt w1 0 11, sender := bitsAt w1 11 7, fid := bitsAt w1 18 10, z1 := bitsAt w1 28 4
    role := bitsAt w2 0 2, host := bitAt w2 2, z2 := bitsAt w2 3 1, eng := bitsAt w2 4 4, area := bitsAt w2 8 11
    statw := bitsAt w2 19 11, z3 := bitsAt w2 30 2
    paylen := bitsAt w3 0 11, z4 := bitsAt w3 11 1, lossn := bitsAt w3 12 8, rsub := bitsAt w3 20 12 }

/-- Entry b of the table. -/
def State.entry (s : State) (b : Nat) : Entry :=
  entryOf (s.rd (CNP_BLZb_Ww b 0)) (s.rd (CNP_BLZb_Ww b 1)) (s.rd (CNP_BLZb_Ww b 2)) (s.rd (CNP_BLZb_Ww b 3))

/-- The kinds and roles. -/
abbrev kindSafe : Nat := 1
abbrev kindRootway : Nat := 2
abbrev kindSpare : Nat := 3
abbrev roleTx : Nat := 1
abbrev roleRx : Nat := 2

/-- The number of entries of an admitted table; 0 without one. -/
def State.blazeCount (s : State) : Nat := if s.cnp.admitted then s.rd CNP_NBLAZE_N else 0

/-- The wire time W of a blaze in ns (R316). -/
def wireNs (length : Nat) : Nat := (length + 20) * 8

/-- PALLOW in ns; the spacing of sync slots (R313). -/
def State.pallowNs (s : State) : Nat := s.rd CNP_PLAN1_PALLOW * 100
def State.syncSp (s : State) : Nat := s.pallowNs + 1000

/-- Code of a host buffer h. -/
def Entry.hbuf (e : Entry) : Nat := e.area % 64

/-! ### The committed train (R359, R365) -/

/-- Fields of a RECORD payload (R354, R355). -/
def recConsist (r : List Byte) : Nat := beAt 4 2 r
def recCar (r : List Byte) : Nat := beAt 6 1 r
def recModule (r : List Byte) : Nat := beAt 7 1 r
def recSerial (r : List Byte) : Nat := beAt 8 4 r
def recFlag (r : List Byte) (i : Nat) : Bool := bitAt (beAt 12 1 r) i
def recSlot (r : List Byte) : Nat := beAt 13 1 r
def recSegheld (r : List Byte) : Nat := beAt 14 1 r
def recHome (r : List Byte) : Nat := beAt 15 1 r
def recSpan (r : List Byte) : Nat := beAt 16 4 r
def recPlancrc (r : List Byte) : Nat := beAt 20 4 r
def recPrevcrc (r : List Byte) : Nat := beAt 24 4 r
/-- The neighbour and the link delay at side (0 fore, 1 aft) and plane. -/
def recNbr (r : List Byte) (side plane : Nat) : Nat := beAt (28 + 8 * side + 4 * plane) 4 r
def recDelay (r : List Byte) (side plane : Nat) : Nat := beAt (44 + 4 * side + 2 * plane) 2 r
def recRes (r : List Byte) (plane : Nat) : Nat := beAt (52 + 2 * plane) 2 r
def recOldid (r : List Byte) : Nat := beAt 56 1 r
def recMember (r : List Byte) : Nat := 4 * (recCar r - 1) + recModule r - 1
def recKeyless (r : List Byte) : Bool := recFlag r 5

/-- The side of a node that faces node 1, and the other. -/
def leadSide (n : TNode) : Nat := if n.facing then 0 else 1
def farSide (n : TNode) : Nat := if n.facing then 1 else 0

/-- Whether a side carries anything on a plane: on plane B only where plane A names no other neighbour (R359 step 1). -/
def sideCarries (r : List Byte) (side plane : Nat) : Bool :=
  plane == 0 || recNbr r side 0 == 0 || recNbr r side 0 == recNbr r side plane

/-- The delay of the link between two nodes that follow each other, on a plane: the mean of the results of its two ends
(R360); none where it does not belong to the train. -/
def linkNs (a b : TNode) (plane : Nat) : Option Nat :=
  let da := recDelay a.body (farSide a) plane
  let db := recDelay b.body (leadSide b) plane
  if recNbr a.body (farSide a) plane = recSerial b.body ∧ recNbr b.body (leadSide b) plane = recSerial a.body ∧
      sideCarries a.body (farSide a) plane ∧ sideCarries b.body (leadSide b) plane ∧
      da ≠ 0xFFFF ∧ db ≠ 0xFFFF ∧ da + db ≤ 2000 then some ((da + db) / 2)
  else none

/-- The path along nodes that follow each other: the sum of link delays, and of the residence times of those between. -/
def pathNs (plane : Nat) : List TNode → Option (Nat × Nat)
  | a :: b :: rest => do
    let d ← linkNs a b plane
    let (l, r) ← pathNs plane (b :: rest)
    some (l + d, r + if rest = [] then 0 else recRes b.body plane)
  | _ => some (0, 0)

/-- The stretch of nodes from index i to index j. -/
def stretch (t : Train) (i j : Nat) : List TNode :=
  let lo := min i j
  (t.nodes.drop lo).take (max i j - lo + 1)

/-- The path link delay and the residence sum from a node (index) to this node (R359 step 8). -/
def State.pathTo (s : State) (i plane : Nat) : Option (Nat × Nat) := do
  let t ← s.fab.table
  let own ← t.own
  if i < t.nodes.length then pathNs plane (stretch t i own) else none

/-- The path delay in ns. -/
def State.pathDelay (s : State) (i plane : Nat) : Option Nat := (s.pathTo i plane).map fun p => p.1 + p.2

/-- The index of the node that is member m of a consist. -/
def State.nodeOf (s : State) (consist member : Nat) : Option Nat :=
  match s.fab.table with
  | none => none
  | some t => t.nodes.findIdx? fun n =>
      recConsist n.body == consist && recMember n.body == member && !recKeyless n.body

/-- The node ID of the lead node: the keyed node nearest the lead end (R359). -/
def State.leadNode (s : State) : Option Nat :=
  match s.fab.table with
  | none => none
  | some t => (t.nodes.findIdx? fun n => !recKeyless n.body).map (· + 1)

/-- This module's node ID, 0 for none. -/
def State.nodeId (s : State) : Nat := s.rd CNP_NODE_ID

/-- The number of nodes in the committed train. -/
def State.nodeCount (s : State) : Nat := (s.fab.table.map (·.nodes.length)).getD 0

/-- The consists, and this module's CONSIST. -/
def State.consist (s : State) : Nat := s.rd KEY_VEH_ID0_CONSIST
def State.consistOf (s : State) (c : Nat) : Option Consist :=
  s.fab.table.bind fun t => t.consists.find? fun x => x.serial == c

/-- The segment this module's consist holds. -/
def State.ownSeg (s : State) : Option Nat := (List.range 8).find? fun i => s.rd (CNP_SEGSTAT_SEG i) == 1

/-- The shift of a consist's offsets in ticks (R319). -/
def State.segShift (s : State) (held home : Nat) : Int :=
  (s.rd (CNP_SEGSTARTs_TICK held) : Int) - (s.rd (CNP_SEGSTARTs_TICK home) : Int)

/-- What a FOREIGN entry is bound to (R321): the other consist and its announced entry (R356). -/
structure Bound where
  consist : Nat
  seg : Option Nat
  home : Nat
  word : Nat
  deriving DecidableEq, Repr

/-- Fields of a BLAZES entry (R356). -/
def annFid (w : Nat) : Nat := bitsAt w 0 10
def annSender (w : Nat) : Nat := bitsAt w 10 7
def annPlanes (w : Nat) : Nat := bitsAt w 17 2
def annKind (w : Nat) : Nat := bitsAt w 19 3
def annOffset (w : Nat) : Nat := bitsAt w 22 20
def annLength (w : Nat) : Nat := bitsAt w 42 11

/-- The consists that CONSEL may select, in the order in which they are tried: the lead consist, the next towards the
lead end, the next away from it, or every other one from the lead end. -/
def State.candidates (s : State) (consel : Nat) : List Consist :=
  match s.fab.table with
  | none => []
  | some t =>
    let k := (t.consists.findIdx? fun c => c.serial == s.consist).getD 0
    match consel with
    | 0 => t.consists.take 1
    | 1 => if k = 0 then [] else (t.consists.drop (k - 1)).take 1
    | 2 => (t.consists.drop (k + 1)).take 1
    | _ => t.consists.filter fun c => c.serial != s.consist

/-- The blaze a FOREIGN entry selects. -/
def State.bound (s : State) (e : Entry) : Option Bound :=
  (s.candidates e.consel).findSome? fun c =>
    (c.entries.find? fun w => annFid w == e.fid).map fun w => ⟨c.serial, c.seg, c.home, w⟩

/-- The consist that sends a blaze, its sender's member index, its frame length, and the start of the blaze in ns after
the mark with its segment shift; none for an unresolved FOREIGN entry. -/
structure Slot where
  consist : Nat
  sender : Nat
  length : Nat
  at_ : Nat
  deriving DecidableEq, Repr

def State.slot (s : State) (e : Entry) : Option Slot :=
  if e.foreign then
    (s.bound e).map fun b =>
      let shift := match b.seg with | some g => s.segShift g b.home | none => 0
      ⟨b.consist, annSender b.word, annLength b.word, (((annOffset b.word : Int) + shift) * 8).toNat⟩
  else
    let home := s.rd CNP_PLAN1_HOMESEG
    let shift := match s.ownSeg with | some g => s.segShift g home | none => 0
    some ⟨s.consist, e.sender, e.length, (((e.offset : Int) + shift) * 8).toNat⟩

/-- The start of an entry's blaze in ns after the mark; 0 while unresolved. -/
def State.slotAt (s : State) (e : Entry) : Nat :=
  match s.slot e with
  | some k => k.at_
  | none => 0

/-- The segment of the train in which an entry's blaze lies. -/
def State.entrySeg (s : State) (e : Entry) : Option Nat := if e.foreign then (s.bound e).bind (·.seg) else s.ownSeg

/-- The cycle number of an instant, and its mark. -/
def State.cycleNo (s : State) : Nat := s.now / s.tcNs
def State.markNs (s : State) : Nat := s.now / s.tcNs * s.tcNs

/-! ### States -/

abbrev syncAlone : Nat := 0
abbrev syncListen : Nat := 1
abbrev syncSynced : Nat := 2
abbrev syncHoldover : Nat := 3
abbrev syncLost : Nat := 4
abbrev joinSilent : Nat := 0
abbrev joinObserving : Nat := 1
abbrev joinActive : Nat := 2
abbrev joinFlush : Nat := 3

def State.syncState (s : State) : Nat := s.rd CNP_SYNC_STAT_STATE
def State.joinState (s : State) : Nat := s.rd CNP_JOIN_STAT_STATE

/-- Whether the key state is LOADED (R87). -/
def State.loaded (s : State) : Bool := s.rd KEY_STAT_STATE == 1

/-- From START until its commit takes effect (R353). -/
def State.inaBusy (s : State) : Bool := s.rd CNP_INA_STAT_STATE != 0 && !s.fab.completing

/-! ### Frames (R322, R323) -/

/-- The MAC address of a node; all ones for every node. -/
def nodeMac (n : Nat) : List Byte := if n = 0xFF then List.replicate 6 0xFF else [0x02, 0x44, 0x58, 0, 0, byteOf n]

/-- The kinds of R323. -/
abbrev frBlaze : Nat := 0
abbrev frSync : Nat := 1
abbrev frClaim : Nat := 2
abbrev frIna : Nat := 3
abbrev frRootway : Nat := 4
abbrev frTunnel : Nat := 5
abbrev frFirmware : Nat := 6

/-- A frame of this module to a node, addressed on the wire to `via`, without FCS: padded so that it is at least 64
bytes with it. -/
def State.frameVia (s : State) (via kind dest blaze flags : Nat) (payload : List Byte) : List Byte :=
  let h := nodeMac via ++ nodeMac s.nodeId ++ [0x88, 0xB5, byteOf (1 + 16 * kind), byteOf s.nodeId] ++ beBytes 2 blaze ++
    beBytes 2 s.cycleNo ++ beBytes 2 flags ++ beBytes 2 payload.length ++ beBytes 2 s.consist ++ [byteOf dest, 0, 0, 0]
  let f := h ++ payload
  f ++ List.replicate (60 - f.length) 0

/-- A frame whose address on the wire is that of its destination. -/
def State.frame (s : State) (kind dest blaze flags : Nat) (payload : List Byte) : List Byte :=
  s.frameVia dest kind dest blaze flags payload

def frKind (f : List Byte) : Nat := beAt 14 1 f / 16
def frSender (f : List Byte) : Nat := beAt 15 1 f
def frFid (f : List Byte) : Nat := bitsAt (beAt 16 2 f) 0 10
def frSeg (f : List Byte) : Nat := bitsAt (beAt 16 2 f) 10 3
def frCycle (f : List Byte) : Nat := beAt 18 2 f
def frRepeat (f : List Byte) : Bool := bitAt (beAt 20 2 f) 0
def frPwrfail (f : List Byte) : Bool := bitAt (beAt 20 2 f) 1
def frNotsafe (f : List Byte) : Bool := bitAt (beAt 20 2 f) 2
def frLen (f : List Byte) : Nat := beAt 22 2 f
def frConsist (f : List Byte) : Nat := beAt 24 2 f
def frDest (f : List Byte) : Nat := beAt 26 1 f
def frPayload (f : List Byte) : List Byte := slice 30 (frLen f) f

/-! ### Ports -/

/-- The plane of a port (0 A fore, 1 A aft, 2 B fore, 3 B aft), its side, the other port of its plane. -/
def portPlane (p : Nat) : Nat := p / 2
def portSide (p : Nat) : Nat := p % 2
def otherPort (p : Nat) : Nat := if p % 2 = 0 then p + 1 else p - 1

def State.portLink (s : State) (p : Nat) : PortLink := tblGet portLinkInit p s.fab.links
def State.setPortLink (s : State) (p : Nat) (l : PortLink) : State :=
  { s with fab := { s.fab with links := tblSet portLinkInit p l s.fab.links } }
def State.linkUp (s : State) (p : Nat) : Bool := s.bit CNP_PORTSTAT_LINKUP p

/-- A value of the identity, zero in the keyless service state (R349). -/
def State.ident (s : State) (f : Fld) : Nat := if s.loaded then s.rd f else 0

/-- Whether a port's neighbour is of another DOMAIN. -/
def State.portForeign (s : State) (p : Nat) : Bool :=
  match (s.portLink p).nbr with
  | some n => n.domain != s.ident KEY_VEH_ID0_DOMAIN
  | none => false

/-- Whether Canopy is powered and clocked at all. -/
def State.canopyRuns (s : State) : Bool := s.pw.phase == .running || s.pw.phase == .flush

/-- The side of this node that faces node 1, and the other. -/
def State.ownLeadSide (s : State) : Nat := if s.flag CNP_INA_STAT_FACING then 0 else 1

/-- Whether a port's link is the blocked one of a ring (R308, R359): between the last node and node 1. -/
def State.blocked (s : State) (p : Nat) : Bool :=
  s.flag CNP_INA_STAT_RING &&
    ((s.nodeId == 1 && portSide p == s.ownLeadSide) ||
      (s.nodeId != 0 && s.nodeId == s.nodeCount && portSide p != s.ownLeadSide))

/-- Whether a port can send anything: its link is up and its plane is not in reset; in flush mode only the plane A port
towards the lead end is (R61). -/
def State.portSends (s : State) (p : Nat) : Bool :=
  s.linkUp p && !bitAt s.cnp.planeReset (portPlane p) && s.canopyRuns &&
    (s.pw.phase != .flush || p == (if s.nodeId = 1 then 1 else s.ownLeadSide))

/-- Whether a port carries traffic other than inauguration frames (R352). -/
def State.portUsed (s : State) (p : Nat) : Bool := s.portSends p && (s.portLink p).used && !s.portForeign p

/-- Send a time-triggered frame of this module on the ports of a set of planes. Nothing leaves before READY (R58). -/
def State.sendOn (s : State) (planes : Nat) (f : List Byte) : State :=
  [0, 1, 2, 3].foldl (fun s p =>
    if bitAt planes (portPlane p) && s.portUsed p && s.pw.start.ready && !s.blocked p then s.emit (.canopy p f) else s) s

/-- Forward a time-triggered frame that arrived at a port out of the other port of its plane (R308). Nothing leaves
before READY (R58). -/
def State.forwardTt (s : State) (p : Nat) (f : List Byte) : State :=
  let q := otherPort p
  if (frSender f != s.nodeId || s.nodeId == 0) && s.portUsed p && s.portUsed q && !s.blocked p && !s.blocked q &&
      s.pw.start.ready && s.pw.phase != .flush then s.emit (.canopy q f)
  else s

/-! ### Event-triggered queues (R309, R310) -/

def State.etPort (s : State) (p : Nat) : EtPort := tblGet etPortInit p s.cnp.ports
def State.setEtPort (s : State) (p : Nat) (x : EtPort) : State :=
  { s with cnp := { s.cnp with ports := tblSet etPortInit p x s.cnp.ports } }

/-- A frame on its way through; a frame of this module. -/
def relayFrame (f : List Byte) : EtFrame := ⟨false, none, [], f, false⟩
def ownFrame (f : List Byte) : EtFrame := ⟨true, none, [], f, false⟩

/-- Change what waits at every port; the frames for which a change gives none are gone. -/
def State.mapQueues (s : State) (f : EtFrame → Option EtFrame) : State :=
  [0, 1, 2, 3].foldl (fun s p => s.setEtPort p { s.etPort p with queue := (s.etPort p).queue.filterMap f }) s

/-- The frames that wait at any port. -/
def State.queued (s : State) : List EtFrame := [0, 1, 2, 3].flatMap fun p => (s.etPort p).queue

/-! ### Claims (R340 to R342) -/

/-- The span of this module's consist in ticks (R319): to the end of its last occupancy. -/
def State.ownSpan (s : State) : Nat :=
  let home := s.rd CNP_PLAN1_HOMESEG
  let last := (List.range s.blazeCount).foldl (fun m b =>
    let e := s.entry b
    if e.foreign then m else max m (8 * e.offset + wireNs e.length + s.pallowNs)) 0
  ceilDiv (last - 8 * s.rd (CNP_SEGSTARTs_TICK home)) 8

/-- The length of a segment in ticks (R313). -/
def State.segLength (s : State) (g : Nat) : Nat :=
  let e := if g < 7 then s.rd (CNP_SEGSTARTs_TICK (g + 1)) else s.rd CNP_PLAN0_TTW * 125
  e - s.rd (CNP_SEGSTARTs_TICK g)

/-- The lowest free segment that is long enough for a span. -/
def State.freeSeg (s : State) (span : Nat) : Option Nat :=
  (List.range 8).find? fun g => s.rd (CNP_SEGSTAT_SEG g) == 0 && decide (span ≤ s.segLength g)

/-- The entry of a spare blaze in a train segment. -/
def State.spareEntry (s : State) (seg fid : Nat) : Option Nat :=
  (List.range s.blazeCount).find? fun b =>
    let e := s.entry b
    e.kind == kindSpare && e.fid == fid && s.entrySeg e == some seg

/-- Whether a FRAMEID names a spare blaze of the train in a segment: in the own table, or as its consist announced. -/
def State.spareNamed (s : State) (seg fid : Nat) : Bool :=
  (s.spareEntry seg fid).isSome ||
    (match s.fab.table with
     | some t => t.consists.any fun c => c.seg == some seg && c.entries.any fun w =>
         annFid w == fid && annKind w == kindSpare
     | none => false)

/-- The serial of a node ID of the committed table, and the span of its consist; 0 for none. -/
def State.tableNode (s : State) (node : Nat) : Option TNode :=
  if node = 0 then none else s.fab.table.bind fun t => t.nodes[node - 1]?
def State.serialOf (s : State) (node : Nat) : Nat := ((s.tableNode node).map fun n => recSerial n.body).getD 0
def State.spanOf (s : State) (node : Nat) : Nat := ((s.tableNode node).map fun n => recSpan n.body).getD 0

/-- A claim or release frame's payload (R340); EFFECT is that of the cycle in which it leaves. -/
def State.claimPay (s : State) (op seg fid : Nat) : List Byte :=
  [byteOf op, byteOf seg] ++ beBytes 2 fid ++ beBytes 2 (s.cycleNo + 8) ++ beBytes 2 s.consist

/-- A refused claim is reported and recorded (R35, R345). -/
def State.claimReport (s : State) : State := (s.raise 117).record 2 9 117 0xFFFF (some 0x10800070)

/-- A request of CNP_CLAIM_REQ is refused: FAIL, ERR. -/
def State.claimRefused (s : State) (err : Nat) : State :=
  ((s.wr CNP_CLAIM_STAT_FAIL 1).wr CNP_CLAIM_STAT_ERR err).claimReport

/-- A claim of this module that waited for EFFECT fails. -/
def State.claimFail (s : State) (err : Nat) : State := (s.wr CNP_CLAIM_STAT_BUSY 0).claimRefused err

/-- Whether two claims are on one object. -/
def Claim.same (a b : Claim) : Bool := a.op == b.op && a.seg == b.seg && (a.op != 1 || a.fid == b.fid)

/-- Whether a claim's object is held. -/
def State.claimHeld (s : State) (c : Claim) : Bool :=
  if c.op = 1 then s.cnp.spares.any fun x => x.seg == c.seg && x.fid == c.fid
  else s.rd (CNP_SEGSTAT_SEG c.seg) == 1 || s.rd (CNP_SEGSTAT_SEG c.seg) == 2

/-- Whether a claim names an object that it may claim: a spare blaze, or a segment long enough for the claimer's span.
-/
def State.claimNames (s : State) (c : Claim) : Bool :=
  if c.op = 1 then s.spareNamed c.seg c.fid
  else decide ((if c.own then s.ownSpan else s.spanOf c.node) ≤ s.segLength c.seg)

def State.setClaims (s : State) (l : List Claim) : State := { s with cnp := { s.cnp with claims := l } }

/-- A losing claim of this module: a blaze claim fails; a segment claim is made again in the next cycle. -/
def State.claimLost (s : State) (c : Claim) (err : Nat) : State :=
  if !c.own then s else if c.op = 1 then s.claimFail err else s.claimReport

/-- Record a claim's outcome as every module computes it (R340): void on a held object or one it may not claim; the
earlier cycle, and in one cycle the lower node ID, holds. -/
def State.claimAdd (s : State) (c : Claim) : State :=
  if !s.claimNames c then s.claimLost c 5
  else if s.claimHeld c then s.claimLost c 1
  else
    match s.cnp.claims.find? (Claim.same c) with
    | none =>
      let s := s.setClaims (s.cnp.claims ++ [c])
      if c.op = 2 then s.wr (CNP_SEGSTAT_SEG c.seg) 3 else s
    | some d =>
      if c.cycle < d.cycle ∨ (c.cycle = d.cycle ∧ c.node < d.node) then
        (s.setClaims (s.cnp.claims.erase d ++ [c])).claimLost d 2
      else s.claimLost c (if c.cycle = d.cycle then 2 else 1)

/-- A spare blaze is free again (R342). -/
def State.freeSpare (s : State) (seg fid : Nat) : State :=
  let s : State := { s with cnp := { s.cnp with
    spares := s.cnp.spares.filter fun x => !(x.seg == seg && x.fid == fid)
    uses := s.cnp.uses.filter fun u => !(u.seg == seg && u.fid == fid) } }
  match s.spareEntry seg fid with
  | some b => s.wr (CNP_BLZb_STAT_HELD b) 0
  | none => s

/-- An own claim whose frame leaves in this cycle, and a release, with whose frame the blaze is free (R342). -/
def State.claimMade (s : State) (c : Claim) : State :=
  let s : State := { s with cnp := { s.cnp with asked := s.cnp.asked.erase c } }
  if c.op = 3 then s.freeSpare c.seg c.fid else s.claimAdd { c with node := s.nodeId, cycle := s.cycleNo }

/-- Whether a frame is that of an own claim or release. -/
def Claim.frameOf (c : Claim) (x : EtFrame) : Bool :=
  x.own && frKind x.bytes == frClaim && beAt 30 1 x.bytes == c.op && beAt 31 1 x.bytes == c.seg && beAt 32 2 x.bytes == c.fid

/-- EFFECT of a claim frame. -/
def withEffect (cycle : Nat) (f : List Byte) : List Byte := f.take 34 ++ beBytes 2 (cycle + 8) ++ f.drop 36

/-- The first copy of a claim's frame leaves: its cycle fixes EFFECT in every copy, and the claim stands (R340). -/
def State.claimLeaves (s : State) (x : EtFrame) : List Byte × State :=
  match s.cnp.asked.find? fun c => c.frameOf x with
  | none => (x.bytes, s)
  | some c =>
    let s := s.mapQueues fun y => some (if c.frameOf y then { y with bytes := withEffect s.cycleNo y.bytes } else y)
    (withEffect s.cycleNo x.bytes, s.claimMade c)

/-! ### Frames leave -/

/-- Whether the event-triggered window is open and a frame's last bit leaves 1 µs before the next mark. -/
def State.etFits (s : State) (f : List Byte) : Bool :=
  let in_ := s.now % s.tcNs
  decide (s.rd CNP_PLAN0_TTW * 1000 ≤ in_) && decide (in_ + (f.length + 12) * 8 + 1000 ≤ s.tcNs)

/-- A time stamp, to the resolution of R307. -/
def State.stamp8 (s : State) : Nat := s.now / 8 * 8

/-- A delay request and a delay response carry the instant at which they leave, T1 and T3 (R360). -/
def State.stampDelay (s : State) (p : Nat) (f : List Byte) : List Byte × State :=
  let op := beAt 30 1 f
  if frDest f = 0 ∧ op = 3 then
    (f.take 42 ++ beBytes 8 s.stamp8 ++ f.drop 50, s.setPortLink p { s.portLink p with t1 := some s.stamp8 })
  else if frDest f = 0 ∧ op = 4 then (f.take 58 ++ beBytes 8 s.stamp8 ++ f.drop 66, s)
  else (f, s)

/-- Posted writes leave in a frame: their time-out counts from now (R409). -/
def State.rwSent (s : State) (ms : List RwMsg) : State :=
  let tags := (ms.filter fun m => leAt 0 1 m.bytes == 2).map fun m => leAt 8 2 m.bytes
  { s with rwy := { s.rwy with
      posted := s.rwy.posted.map fun p => if tags.contains p.tag then { p with at_ := s.now } else p } }

/-- An own frame carries the node ID and the cycle number of the instant at which it leaves (R323, R363). -/
def State.restamp (s : State) (f : List Byte) : List Byte :=
  f.take 11 ++ [byteOf s.nodeId] ++ slice 12 3 f ++ [byteOf s.nodeId] ++ slice 16 2 f ++ beBytes 2 s.cycleNo ++ f.drop 20

/-- What of a frame leaves at a port, and what its leaving means to this module. -/
def State.etLeaves (s : State) (p : Nat) (x : EtFrame) : List Byte × State :=
  if !x.own then (x.bytes, s)
  else
    let x := { x with bytes := s.restamp x.bytes }
    if frKind x.bytes = frIna then s.stampDelay p x.bytes
    else if frKind x.bytes = frClaim then s.claimLeaves x
    else (x.bytes, s.rwSent x.msgs)

/-- Whether a frame may leave at a port: a link outside the committed table carries inauguration frames alone (R352);
from START until its commit takes effect a node sends none of its own but those (R353), and while it is not ACTIVE no
Rootway frame (R404) and no tunnel frame (R421). -/
def State.etMay (s : State) (p : Nat) (x : EtFrame) : Bool :=
  let k := frKind x.bytes
  if k != frIna && !s.portUsed p then false
  else !x.own || k == frIna || (!s.inaBusy && ((k != frRootway && k != frTunnel) || s.joinState == joinActive))

/-- An own frame passes the transmit stream of the check-value units as its first copy leaves (R391). -/
def State.etPass (s : State) (f : EtFrame) (bytes : List Byte) : State :=
  if f.own && !f.passed then s.unitFrame 2 0 (some (frFid bytes)) none (frPayload bytes) else s

/-- The copies of an own frame that wait elsewhere, once one of them leaves. -/
def State.etPassed (s : State) (f : EtFrame) : State :=
  s.mapQueues fun y => some (if y.own && y.bytes == f.bytes then { y with passed := true } else y)

/-- An idle port starts the oldest frame that may leave, if it fits. -/
def State.etKick (s : State) (p : Nat) : State :=
  let x := s.etPort p
  if x.busy || !s.portSends p || s.pw.phase == .flush || !s.pw.start.ready then s
  else
    match x.queue.find? (s.etMay p) with
    | none => s
    | some f =>
      if s.etFits f.bytes then
        let r := ((s.setEtPort p ⟨x.queue.erase f, true⟩).etPassed f).etLeaves p f
        (r.2.etPass f r.1).emit (.canopy p r.1)
      else s

/-- A frame joins a port's queue, or is dropped and counted. -/
def State.etPut (s : State) (p : Nat) (f : EtFrame) : State :=
  let x := s.etPort p
  if 32 ≤ x.queue.length then s.bump (CNP_PORTp_CNT_ETDROP p)
  else (s.setEtPort p { x with queue := x.queue ++ [f] }).etKick p

/-- The side towards a node ID. -/
def State.sideTowards (s : State) (dest : Nat) : Nat :=
  if dest < s.nodeId then s.ownLeadSide else 1 - s.ownLeadSide

/-- Whether the port that a frame to a node leaves by on a plane has room for it, if there is one. -/
def State.etRoom (s : State) (plane dest : Nat) : Bool :=
  let p := 2 * plane + s.sideTowards dest
  !s.portUsed p || s.blocked p || decide ((s.etPort p).queue.length < 32)

/-- Route a frame of a plane by destination (R365): `from_` is the port it came in by, none for an own frame. A frame to
the node itself goes to the internal port only. Nothing crosses the blocked link of a ring, in either direction. -/
def State.etRoute (s : State) (from_ : Option Nat) (plane : Nat) (x : EtFrame) : State :=
  let dest := frDest x.bytes
  let put := fun (s : State) (p : Nat) =>
    if s.portUsed p && !s.blocked p && from_ != some p then s.etPut p x else s
  if from_.any s.blocked then s
  else if dest = 0xFF then
    if from_.isSome && frSender x.bytes == s.nodeId && s.nodeId != 0 then s
    else put (put s (2 * plane)) (2 * plane + 1)
  else if dest = 0 ∨ s.nodeCount < dest then s.bump CNP_ETUNR_CNT
  else if dest = s.nodeId then s
  else put s (2 * plane + s.sideTowards dest)

/-- Send an own event-triggered frame on one plane; from START until its commit takes effect a node sends none but
inauguration frames (R353). -/
def State.sendEt (s : State) (plane : Nat) (x : EtFrame) : State :=
  if s.inaBusy && frKind x.bytes != frIna then s
  else if s.pw.phase != .running then s
  else s.etRoute none plane x

/-- On both planes. -/
def State.sendEtBoth (s : State) (f : List Byte) : State := (s.sendEt 0 (ownFrame f)).sendEt 1 (ownFrame f)

/-- Unicast frames of this module that wait follow their target to its new node ID, given by a map of old ones (0 for a
node that left, whose frames are dropped and counted), and its new side (R363, R365). -/
def State.etRenumber (s : State) (id : Nat → Nat) : State :=
  let moved := fun (x : EtFrame) => x.own && frDest x.bytes != 0xFF && frDest x.bytes != 0
  let old := [0, 1, 2, 3].flatMap fun p => ((s.etPort p).queue.filter moved).map fun x => (portPlane p, x)
  let s := s.mapQueues fun x => if moved x then none else some x
  old.foldl (fun s e =>
    let n := byteOf (id (frDest e.2.bytes))
    let f := e.2.bytes
    s.etRoute none e.1 { e.2 with
      msgs := e.2.msgs.map fun m => { m with node := id m.node }
      bytes := f.take 5 ++ [n] ++ slice 6 20 f ++ [n] ++ f.drop 27 }) s

/-! ### Tunnels stop (R373, R421) -/

/-- What waits on this side of a tunnel is dropped and counted in QDROP: frames not yet sent on, and those of which a
part waits at a port. -/
def State.tunPurge (s : State) (t : Nat) : State :=
  let x := tblGet tunnelInit t s.ust.tunnels
  let seqs := ((s.queued.filter fun f => f.tun == some t).map fun f => leAt 36 2 f.bytes).eraseDups
  let n := x.away.length + seqs.length
  if n = 0 then s
  else
    let s := s.mapQueues fun f => if f.tun == some t then none else some f
    let s : State := { s with ust := { s.ust with tunnels := tblSet tunnelInit t { x with away := [] } s.ust.tunnels } }
    let s := s.wr (UST_TUNt_STAT_QUEUED t) x.home.length
    ((List.range n).foldl (fun s _ => s.bump (UST_TUNt_CNT_QDROP t)) s).raise 194

/-! ### Join and sync states -/

/-- The join state changes (R337): JOINEV, LEAVEEV, source 114, a STATE record; tunnels hold frames only while ACTIVE.
-/
def State.setJoin (s : State) (j : Nat) : State :=
  let old := s.joinState
  if j = old then s
  else
    let s := s.wr CNP_JOIN_STAT_STATE j
    let s := if j = joinActive then s.wr CNP_JOIN_STAT_JOINEV 1 else s
    let s := if old = joinActive then (List.range 32).foldl State.tunPurge (s.wr CNP_JOIN_STAT_LEAVEEV 1) else s
    (s.raise 114).record 3 9 114 0xFFFF (some 0x10800058) (some 0x1080004C)

/-- ACTIVE is left for SILENT; a module that observes goes on observing (R337). -/
def State.leaveActive (s : State) : State := if s.joinState = joinActive then s.setJoin joinSilent else s

/-- A module that may send nothing is SILENT: PLANERR, SEGNONE, no place in the train. FLUSH is left only by the park.
-/
def State.goSilent (s : State) : State :=
  if s.joinState = joinActive ∨ s.joinState = joinObserving then s.setJoin joinSilent else s

/-- The inauguration is complete (R364): STATE is idle, DUR counts ms from the trigger. -/
def State.inaComplete (s : State) : State :=
  let s := (s.wr CNP_INA_STAT_STATE 0).wr CNP_INA_NUM_DUR (sat 16 ((s.now - s.fab.trigAt) / 1000000))
  { s with fab := { s.fab with completing := false } }

/-- The sync state changes: source 113, a STATE record; LOST leaves ACTIVE (R337); SYNCED completes an inauguration that
awaited it (R364). -/
def State.setSync (s : State) (st : Nat) : State :=
  if s.syncState = st then s
  else
    let s := ((s.wr CNP_SYNC_STAT_STATE st).raise 113).record 3 9 113 0xFFFF (some 0x1080004C) (some 0x10800050)
    if st = syncLost then s.leaveActive
    else if st = syncSynced ∧ s.fab.completing then s.inaComplete
    else s

/-! ### Host buffers (R331) -/

def hbufAddr (h : Nat) : Nat := 0x10840000 + 0x800 * h
def State.hbuf (s : State) (h : Nat) : HBuf := tblGet hbufInit h s.cnp.hbufs
def State.setHbuf (s : State) (h : Nat) (x : HBuf) : State :=
  { s with cnp := { s.cnp with hbufs := tblSet hbufInit h x s.cnp.hbufs } }

/-- Bytes of the front half of a transmit buffer. -/
def State.hbufFront (s : State) (h n : Nat) : List Byte :=
  let x := s.hbuf h
  (List.range n).map fun i => ((x.front[i]?).join).getD (Config.unwritten (hbufAddr h + i))

/-- Memory with `n` bytes from an address on replaced by others, where an absent byte was never written. -/
def swapBytes (a n : Nat) (bs : List (Option Byte)) (m : Tbl Byte) : Tbl Byte :=
  (List.range n).foldl (fun m i => match (bs[i]?).join with
    | some b => tblPut (a + i) b m
    | none => tblDel (a + i) m) m

/-- HOST_BUFFER_COMMIT (R331): the halves of a transmit buffer are exchanged, the front half is stamped, SEQ counts. -/
def State.hbufCommit (s : State) (h : Nat) : State :=
  let a := hbufAddr h
  let front := (List.range 0x800).map fun i => tblFind (a + i) s.mem
  let s : State := { s with mem := swapBytes a 0x800 (s.hbuf h).front s.mem }
  ((s.setHbuf h ⟨front, s.now, true⟩).wr (CNP_HBUFh_STAT_VALID h) 1).tick (CNP_HBUFh_STAT_SEQ h)

def execHostBufferCommit (h : Fin 64) (t : Nat) (s : State) : Host.Outcome State Fault Refusal :=
  let s := s.begin t
  .next (if s.flag (CNP_HBUFh_STAT_DIR h) then s.hbufCommit h else s)

/-! ### The receive image of a blaze (R334, R367 to R372) -/

def State.blz (s : State) (b : Nat) : Blz := tblGet blzInit b s.cnp.blz
def State.setBlz (s : State) (b : Nat) (x : Blz) : State :=
  { s with cnp := { s.cnp with blz := tblSet blzInit b x s.cnp.blz } }

/-- Where a receive blaze's payload goes: engines by mask and the data area, or a host buffer; PAYLEN; for a spare blaze
that is listened to, the host buffer asked for (R341). -/
structure Sink where
  host : Option Nat
  paylen : Nat
  lossn : Nat
  subst : Nat
  deriving DecidableEq, Repr

/-- The firmware's use of the spare blaze of an entry: what it listens to, or what it claimed to send. -/
def State.spareUse (s : State) (e : Entry) (listen : Bool) : Option SpareUse :=
  if e.kind = kindSpare then
    s.cnp.uses.find? fun u => u.fid == e.fid && some u.seg == s.entrySeg e && u.listen == listen
  else none

/-- A listened spare blaze has no LOSSN and no substitute of its own: they are the model's choice (log entry 98). -/
def State.sink (s : State) (e : Entry) : Option Sink :=
  if e.role = roleRx then
    some ⟨if e.host then some e.hbuf else none, e.paylen, max 1 e.lossn, e.rsub % 4⟩
  else (s.spareUse e true).map fun u => ⟨some (u.area % 64), u.paylen, 255, 0⟩

/-- The spare blaze of an entry as it is held, and the index of its holder's node. -/
def State.spareOf (s : State) (e : Entry) : Option Spare :=
  s.cnp.spares.find? fun x => x.fid == e.fid && some x.seg == s.entrySeg e
def State.holderOf (s : State) (e : Entry) : Option Nat :=
  match s.spareOf e, s.fab.table with
  | some x, some t => t.nodes.findIdx? fun n => recSerial n.body == x.serial
  | _, _ => none

/-- The instant at which a blaze is judged in the running cycle (R368, R387): the last bit of an on-time copy on the
later plane, and 1 µs. A path delay that does not exist is 0; an unresolved entry has no instant to wait for. -/
def State.judgeAt (s : State) (e : Entry) : Nat :=
  match s.slot e with
  | none => s.markNs
  | some k =>
    let from_ := if e.kind = kindSpare then s.holderOf e else s.nodeOf k.consist k.sender
    let pd := fun plane => (from_.bind fun i => s.pathDelay i plane).getD 0
    s.markNs + k.at_ + max (pd 0) (pd 1) + wireNs k.length + 1000

/-- Write a payload into a receive host buffer (R334): one exchange, stamped with the instant of its first sending;
source 118. A last row that cannot be merged into leaves the buffer as it was (DESIGN CHOICE, log entry 117). -/
def State.hbufReceive (s : State) (h stamp : Nat) (data : List Byte) : State :=
  let q := s.mergeStore 0x21 (hbufAddr h) data
  if !q.1 then q.2
  else
    let s := q.2.setHbuf h { q.2.hbuf h with stamp := stamp, seen := true }
    ((s.wr (CNP_HBUFh_STAT_VALID h) 1).tick (CNP_HBUFh_STAT_SEQ h)).raise 118

/-- The status word of R369. -/
def statusWord (valid subst rep notsafe pwrfail unres : Bool) (run node agec : Nat) : Nat :=
  b2n valid + 2 * b2n subst + 4 * b2n rep + 8 * b2n notsafe + 16 * b2n pwrfail + 32 * b2n unres +
    256 * min 255 run + 65536 * (node % 256) + 16777216 * min 255 agec

/-- RUN reaches LOSSN, or acts as if (R370, R371, R389): the data become invalid and take their substitute; source 131
where they were valid. -/
def State.blazeLost (s : State) (b : Nat) (k : Sink) (pwrfail unres : Bool) : State :=
  let x := s.blz b
  let data := if k.subst = 1 then List.replicate k.paylen (0 : Byte)
    else if k.subst = 2 then List.replicate k.paylen (0xFF : Byte) else x.data
  let run := s.rd (CNP_BLZb_STAT_RUN b)
  let st := statusWord false true (bitAt x.status 2) (bitAt x.status 3) (bitAt x.status 4 || pwrfail) unres run
    (x.status / 65536 % 256) (s.cycleNo - x.first)
  let s := (s.setBlz b { x with data := data, status := st, lost := true }).wr (CNP_BLZb_STAT_VALID b) 0
  let s := match k.host with
    | some h => s.wr (CNP_HBUFh_STAT_VALID h) 0
    | none => s
  if x.lost then s else s.raise 131

/-- What an accepted copy shows in the status word and in NODE, whatever becomes of its content (R369). -/
def State.copyShown (s : State) (b : Nat) (rep notsafe : Bool) (node : Nat) : State :=
  let x := s.blz b
  let live := s.flag (CNP_BLZb_STAT_VALID b)
  let st := statusWord live (!live) rep notsafe (bitAt x.status 4) false (s.rd (CNP_BLZb_STAT_RUN b)) node
    (s.cycleNo - x.first)
  (s.setBlz b { x with status := st }).wr (CNP_BLZb_STAT_NODE b) node

/-- An accepted copy is delivered (R334, R368, R372): a copy that is not a repeat brings its content in whole; a repeat
renews nothing. -/
def State.blazeDeliver (s : State) (b : Nat) (k : Sink) (payload : List Byte) (rep notsafe : Bool) (node : Nat) : State :=
  let x := s.blz b
  if rep then s.copyShown b true notsafe node
  else
    let data := padTo k.paylen payload
    let st := statusWord true false false notsafe false false 0 node 0
    let s := s.setBlz b { x with data := data, status := st, first := s.cycleNo, lost := false }
    let s := ((s.wr (CNP_BLZb_STAT_RUN b) 0).wr (CNP_BLZb_STAT_VALID b) 1).wr (CNP_BLZb_STAT_NODE b) node
    let s := match k.host with
      | some h => s.hbufReceive h (s.markNs + s.slotAt (s.entry b)) data
      | none => s
    if x.lost then s.raise 132 else s

/-- A count of a blaze: where it rises, source 116 follows at the next mark. -/
def State.blazeCounted (s : State) (f : Fld) : State :=
  let u := s.bump f
  { u with cnp := { u.cnp with rose := u.cnp.rose || u.rd f != s.rd f } }

/-- The fields of the running cycle start afresh with the first event of a cycle. -/
def State.blzNow (s : State) (b : Nat) : Blz :=
  let x := s.blz b
  if x.cycle = s.cycleNo + 1 then x
  else { x with
    cycle := s.cycleNo + 1, got := 0, copies := [], safeOk := 0, safeBad := [], rep := false, notsafe := false, node := 0,
    pwrfail := false }

end Sys2Proof.Machine
end

