-- ==== Sys2Proof/Machine/Cvu.lean ====
section
/-!
DEFINITION. Safe connection contexts (R383 to R390), the lock (R384, R393) and the function reset (R394).
-/

namespace Sys2Proof.Machine

def State.ctx (s : State) (c : Nat) : Ctx := tblGet ctxInit c s.cvu.ctxs
def State.setCtx (s : State) (c : Nat) (x : Ctx) : State :=
  { s with cvu := { s.cvu with ctxs := tblSet ctxInit c x s.cvu.ctxs } }

/-- Raise one of sources 144 to 148, at most once per cycle (R396). -/
def State.raiseOnce (s : State) (n : Nat) : State :=
  let k := s.cycleNo + 1
  if tblGet 0 n s.cvu.raised = k then s
  else ({ s with cvu := { s.cvu with raised := tblSet 0 n k s.cvu.raised } } : State).raise n

/-- CVU_FRESHj and CVU_EVSUMj show a context as it stands. -/
def State.syncCtx (s : State) (c : Nat) : State :=
  let ev := s.flag (CVU_CTXc_STAT_REJEV c) || s.flag (CVU_CTXc_STAT_MISSEV c) || s.flag (CVU_CTXc_STAT_DIFFEV c) ||
    s.flag (CVU_CTXc_STAT_TMOEV c)
  (s.wrBit (CVU_FRESHj (c / 32)) (c % 32) (s.flag (CVU_CTXc_STAT_FRESH c))).wrBit (CVU_EVSUMj (c / 32)) (c % 32) ev

/-- The running context of a direction that names blaze b. -/
def State.ctxFor (s : State) (b : Nat) (tx : Bool) : Option Nat :=
  if s.flag CVU_CTXLOCK_LOCK then
    (List.range 128).find? fun c =>
      s.flag (CVU_CTXc_CFG_EN c) && s.flag (CVU_CTXc_CFG_DIR c) == tx && s.rd (CVU_CTXc_CFG_BLAZE c) == b
  else none

/-! ### Freshness (R389) -/

/-- A receive context loses freshness and acts on its blaze as if RUN had reached LOSSN. -/
def State.ctxLost (s : State) (c : Nat) (count pwrfail : Bool) : State :=
  if s.flag (CVU_CTXc_STAT_FRESH c) then
    let s := (s.wr (CVU_CTXc_STAT_FRESH c) 0).setCtx c { s.ctx c with seq := none }
    let s := if count then s.bump (CVU_CTXc_CNT_TMO c) else s
    let s := ((s.wr (CVU_CTXc_STAT_TMOEV c) 1).syncCtx c).raiseOnce 144
    let b := s.rd (CVU_CTXc_CFG_BLAZE c)
    match s.sink (s.entry b) with
    | some k => s.blazeLost b k pwrfail false
    | none => s
  else s

/-- Freshness ends where TIMEOUT has passed since the last delivery. -/
def State.ctxExpire (s : State) (c : Nat) : State :=
  if (s.ctx c).at_ + s.rd (CVU_CTXc_TMO_TIMEOUT c) * 100000 ≤ s.now then s.ctxLost c true false else s

/-- CONTEXT_TIMEOUT (R389). Where the blaze is still to be judged at this very instant, that judgement decides: a
delivery then keeps the context fresh (R395). -/
def State.ctxTimeout (s : State) (c : Nat) : State :=
  let b := s.rd (CVU_CTXc_CFG_BLAZE c)
  if s.judgeAt (s.entry b) = s.now ∧ (s.blz b).judged ≠ s.cycleNo + 1 ∧ (s.blzNow b).copies ≠ [] then s
  else s.ctxExpire c

def execContextTimeout (c : Fin 128) (t : Nat) (s : State) : Host.Outcome State Fault Refusal :=
  .next ((s.begin t).ctxTimeout c)

/-- A message is delivered: the context is fresh. -/
def State.ctxDelivered (s : State) (c seq : Nat) : State :=
  let was := s.flag (CVU_CTXc_STAT_FRESH c)
  let s := (s.wr (CVU_CTXc_STAT_FRESH c) 1).wr (CVU_CTXc_STAT_SEEN c) 1
  let s := ((s.wr (CVU_CTXc_SEQ c) seq).setCtx c { s.ctx c with seq := some seq, at_ := s.now }).syncCtx c
  if was then s else s.raiseOnce 145

/-! ### The checks of R387 -/

/-- The code of the first check that a copy fails, 0 for one that passes; `alive` is the alive reference of R381 and
`time` the receiver's own instant of the blaze. -/
def State.ctxCheck (s : State) (c paylen time : Nat) (alive : Option Nat) (m : List Byte) : Nat :=
  let step := fun (a : Nat) => (leAt 12 2 m + 65536 - a) % 65536
  firstFail
    [ (m.length == paylen && leAt 14 2 m + 28 == paylen, 7),
      (leAt (paylen - 4) 4 m == crc32cSeed (s.rd (CVU_CTXc_SEED c)) (m.take (paylen - 4)), 1),
      (leAt 0 4 m == s.rd (CVU_CTXc_SRCID c) && leAt 4 4 m == s.rd (CVU_CTXc_DSTID c), 2),
      ((match (s.ctx c).seq with | some q => seqAbove (leAt 8 4 m) q | none => true), 3),
      (leAt 16 8 m == time, 5),
      (!s.flag (CVU_CTXc_STAT_FRESH c) ||
        (match alive with | some a => within 1 (s.rd (CVU_CTXc_CFG_MAXSTEP c)) (step a) | none => true), 4) ]

/-- A rejection is counted, with its code. -/
def State.ctxReject (s : State) (c code : Nat) : State :=
  let s := (s.bump (CVU_CTXc_CNT_REJ c)).wr (CVU_CTXc_STAT_LASTREJ c) code
  ((s.wr (CVU_CTXc_STAT_REJEV c) 1).syncCtx c).raiseOnce 148

/-- Two copies whose payloads differ (R388). -/
def State.ctxDiff (s : State) (c : Nat) : State :=
  let s := (s.bump (CVU_CTXc_CNT_DIFF c)).wr (CVU_CTXc_STAT_LASTREJ c) 6
  ((s.wr (CVU_CTXc_STAT_DIFFEV c) 1).syncCtx c).raiseOnce 146

/-- A delivery from one copy; `was` says that the delivery before had both. -/
def State.ctxMiss (s : State) (c : Nat) (was : Bool) : State :=
  let s := ((s.bump (CVU_CTXc_CNT_MISS c)).wr (CVU_CTXc_STAT_MISSEV c) 1).syncCtx c
  if was then s.raiseOnce 147 else s

/-- The alive reference moves to the last copy that passes the length, CRC and identity checks (R381). -/
def State.ctxAlive (s : State) (c code : Nat) (m : List Byte) : State :=
  if code = 7 ∨ code = 1 ∨ code = 2 then s
  else (s.setCtx c { s.ctx c with alive := some (leAt 12 2 m) }).wr (CVU_CTXc_STAT_ALIVE c) (leAt 12 2 m)

/-! ### Building a message (R378 to R381, R385) -/

/-- A transmit context builds a new message of PAYLEN bytes around user data, for the instant `time`. -/
def State.ctxBuild (s : State) (c paylen time : Nat) (user : List Byte) : List Byte × State :=
  let ulen := paylen - 28
  let seq := time / 250000 % 2 ^ 32
  let alive := (s.ctx c).nextAlive
  let m := leBytes 4 (s.rd (CVU_CTXc_SRCID c)) ++ leBytes 4 (s.rd (CVU_CTXc_DSTID c)) ++ leBytes 4 seq ++ leBytes 2 alive ++
    leBytes 2 ulen ++ leBytes 8 time ++ padTo ulen user
  let s := s.setCtx c { s.ctx c with nextAlive := (alive + 1) % 65536 }
  let s := ((s.wr (CVU_CTXc_STAT_ALIVE c) alive).wr (CVU_CTXc_STAT_SEEN c) 1).wr (CVU_CTXc_SEQ c) seq
  (m ++ leBytes 4 (crc32cSeed (s.rd (CVU_CTXc_SEED c)) m), s)

/-! ### The lock (R383, R384, R393) -/

/-- Whether context c passes the lock check. -/
def State.ctxLockOk (s : State) (c : Nat) : Bool :=
  let b := s.rd (CVU_CTXc_CFG_BLAZE c)
  let e := s.entry b
  let tx := s.flag (CVU_CTXc_CFG_DIR c)
  !s.flag (CVU_CTXc_CFG_EN c) ||
    (decide (b < s.blazeCount) && e.kind == kindSafe && (if tx then e.role == roleTx else e.role == roleRx) &&
      ((List.range 128).all fun d => d == c || !s.flag (CVU_CTXc_CFG_EN d) || s.rd (CVU_CTXc_CFG_BLAZE d) != b) &&
      within 1 0xFFFFFFFE (s.rd (CVU_CTXc_SRCID c)) && within 1 0xFFFFFFFE (s.rd (CVU_CTXc_DSTID c)) &&
      within 10 10000 (s.rd (CVU_CTXc_TMO_TIMEOUT c)) && within 1 255 (s.rd (CVU_CTXc_CFG_MAXSTEP c)))

/-- Unit u shows the fixed configuration of a safe transport unit (R393). -/
def State.unitSafe (s : State) (u : Nat) : State :=
  let src := if u = 0 then 2 else u - 1
  let s := ((s.wr (CVU_Uu_CFG_EN u) 1).wr (CVU_Uu_CFG_POLY u) 0).wr (CVU_Uu_CFG_SRC u) src
  let s := (((s.wr (CVU_Uu_CFG_PORT u) 0).wr (CVU_Uu_CFG_FILT u) 0).wr (CVU_Uu_CFG_FRAMEID u) 0).wr (CVU_Uu_CFG_CMP u) 0
  let s := ((s.wr (CVU_Uu_CFG_SAFE u) 1).wr64 (CVU_Uu_SEED_LO u) (CVU_Uu_SEED_HI u) 0).wr (CVU_Uu_RANGE_START u) 0
  let s := ((s.wr (CVU_Uu_RANGE_LEN u) 0).wr (CVU_Uu_WBASE_BASE u) 0).wr (CVU_Uu_WSIZE_SIZE u) 0
  s.wr64 (CVU_Uu_EXP_LO u) (CVU_Uu_EXP_HI u) 0

/-- CONTEXT_LOCK (R384): LOCK is written while no lock holds. -/
def State.ctxLock (s : State) : State :=
  if s.flag CVU_CTXLOCK_LOCK then s
  else
    match (List.range 128).find? fun c => !s.ctxLockOk c with
    | some c => ((s.wr CVU_CTXLOCK_LOCKERR 1).wr CVU_CTXLOCK_ERRCTX c).raise 149
    | none =>
      let s := ((s.wr CVU_CTXLOCK_LOCK 1).wr CVU_CTXLOCK_LOCKERR 0).raise 149
      if (List.range 128).any fun c => s.flag (CVU_CTXc_CFG_EN c) then ((s.unitSafe 0).unitSafe 1).unitSafe 2 else s

/-! ### Function reset (R394) -/

/-- Copies of SAFE blazes that a reset meets are not accepted (R394, R395). -/
def State.dropCopies (s : State) : State :=
  (List.range s.blazeCount).foldl (fun s b =>
    if (s.entry b).kind = kindSafe ∧ (s.blz b).copies ≠ [] then s.setBlz b { s.blz b with copies := [] } else s) s

/-- Every receive context loses freshness. -/
def State.ctxsLost (s : State) : State := (List.range 128).foldl (fun s c => s.ctxLost c false false) s

/-- The run state of units and contexts goes. -/
def State.cvuStop (s : State) : State :=
  { s.dropCopies with cvu := { s.cvu with ctxs := [], running := [], results := [], resetting := true } }

/-- CVU_RESET (R394): every unit and the run state of every context; configuration of contexts and the lock are kept. -/
def State.cvuReset (s : State) : State :=
  let s := s.ctxsLost
  let safe := [0, 1, 2].filter fun u => s.flag (CVU_Uu_CFG_SAFE u)
  (safe.foldl State.unitSafe (s.restore (·.f) (inArea .cvu 0x10B00000 0x10C00000))).cvuStop

def execCvuReset (t : Nat) (s : State) : Host.Outcome State Fault Refusal :=
  let s := s.begin t
  .next (if s.pw.phase == .running then s.cvuReset else s)

/-- CVU_RESET_DONE (R394). -/
def execCvuResetDone (t : Nat) (s : State) : Host.Outcome State Fault Refusal :=
  let s := s.begin t
  .next { s with cvu := { s.cvu with resetting := false } }

end Sys2Proof.Machine
end

