-- ==== Sys2Proof/Machine/RootwayBase.lean ====
section
/-!
DEFINITION. What ends a Rootway operation and how messages leave (R402 to R411).
-/

namespace Sys2Proof.Machine

/-! ### Messages (R403, R404) -/

abbrev opRead : Nat := 1
abbrev opWrite : Nat := 2
abbrev opLockrd : Nat := 3
abbrev opWrunlk : Nat := 4
abbrev opUnlock : Nat := 5
abbrev opAmo : Nat := 6
abbrev opPoll : Nat := 7
abbrev opResp : Nat := 8
abbrev opWack : Nat := 9

/-- A message: OP, log2 of the size, AMO function, aperture, STATUS, OFFSET, TAG, and the data field where it has one.
-/
def rwMessage (op size fn aper status off tag : Nat) (data : Option Nat) : List Byte :=
  [byteOf op, byteOf (size + 4 * fn), byteOf aper, byteOf status] ++ leBytes 4 off ++ leBytes 2 tag ++
    List.replicate 6 0 ++ (match data with | some d => leBytes 8 d | none => [])

def State.setRwy (s : State) (r : Rootway) : State := { s with rwy := r }

/-- Whether the module may send Rootway frames now (R404, R353). -/
def State.rwMaySend (s : State) : Bool :=
  s.joinState == joinActive && !s.inaBusy && s.pw.phase == .running && !s.rwy.resetting

/-- The messages of a list that share the first one's frame: same node and plane, up to a number of bytes, none of them
past one that does not fit (R411); and the rest. -/
def rwShare (limit : Nat) (node plane : Nat) : List RwMsg → List RwMsg × List RwMsg
  | [] => ([], [])
  | m :: r =>
    if m.node = node ∧ m.plane = plane then
      if m.bytes.length ≤ limit then
        let (bs, rest) := rwShare (limit - m.bytes.length) node plane r
        (m :: bs, rest)
      else ([], m :: r)
    else
      let (bs, rest) := rwShare limit node plane r
      (bs, m :: rest)

/-- The payload of a frame of messages. -/
def rwPayload (ms : List RwMsg) : List Byte := ms.flatMap (·.bytes)

/-- Send event-triggered messages, those to one node on one plane in shared frames; what finds no room at its port
waits on (R408). -/
def State.rwDrain (s : State) : Nat → List RwMsg → State
  | 0, _ => s
  | _, [] => s
  | n + 1, m :: r =>
    let (ms, rest) := rwShare 1400 m.node m.plane (m :: r)
    (if !s.etRoom m.plane m.node then s.setRwy { s.rwy with out := s.rwy.out ++ ms }
      else s.sendEt m.plane ⟨true, none, ms, s.frame frRootway m.node 0 0 (rwPayload ms), false⟩).rwDrain n rest

/-- Messages that are not to be sent any more leave the queues, those in frames that wait at a port too (R404). -/
def State.rwUnsend (s : State) (drop : RwMsg → Bool) : State :=
  let s := s.mapQueues fun x =>
    if x.msgs.any drop then
      let ms := x.msgs.filter fun m => !drop m
      if ms = [] then none else some { x with msgs := ms, bytes := s.frame frRootway (frDest x.bytes) 0 0 (rwPayload ms) }
    else some x
  s.setRwy { s.rwy with out := s.rwy.out.filter fun m => !drop m }

/-- Messages that wait for the event-triggered window leave when they may. -/
def State.rwFlush (s : State) : State :=
  if s.rwMaySend then
    let et := s.rwy.out.filter fun m => m.blz.isNone
    (s.setRwy { s.rwy with out := s.rwy.out.filter fun m => m.blz.isSome }).rwDrain et.length et
  else s

/-- A message takes its route. -/
def State.rwPush (s : State) (m : RwMsg) : State := (s.setRwy { s.rwy with out := s.rwy.out ++ [m] }).rwFlush

/-! ### Operations end (R406, R409 to R412, R416) -/

/-- Answer a hart that has been waiting. -/
def State.answerHart (s : State) (h : Nat) (r : Resp) : State := s.emit (.answer h r)

/-- Take an operation out; the hold of R415 ends with the last locked request that waits for its answer. -/
def State.rwTake (s : State) (o : RwOp) : State :=
  let ops := s.rwy.ops.erase o
  let locked := ops.any fun p => (p.op == opLockrd || p.op == opAmo) && !p.retry
  s.setRwy { s.rwy with ops := ops, hold := s.rwy.hold && locked }

/-- What a stand's harts have outstanding at Rootway is abandoned, requests that have not left among them; locks at
their targets are left to expire (R120, R122, R414). -/
def State.dropTransactions (s : State) (k : Nat) : State :=
  let mine (h : Nat) : Bool := (standHarts k).contains h
  let gone := s.rwy.ops.filter fun o => o.hart.any mine
  let s := s.rwUnsend fun m => gone.any fun o => o.tag == leAt 8 2 m.bytes && o.op == leAt 0 1 m.bytes
  let s := gone.foldl State.rwTake s
  s.setRwy { s.rwy with
    fences := s.rwy.fences.filter fun f => !mine f.hart
    held := s.rwy.held.filter fun h => !mine h.hart }

/-- A blocking operation or a poll ends with a status and, for OK, its data. -/
def State.rwOpDone (s : State) (o : RwOp) (status data : Nat) : State :=
  let s := s.rwTake o
  match o.hart with
  | none =>
    if status = 0 then
      let old := s.rd (RWY_Ww_DOOR o.window)
      let s := (s.wr (RWY_Ww_DOOR o.window) data).wr (RWY_Ww_DOORCYC o.window) s.cycleNo
      let s := s.wr (RWY_Ww_STAT_DOORAGE o.window) 0
      if old = data % 2 ^ 32 then s else s.raise 162
    else s.bump (RWY_Ww_STAT_DOORAGE o.window)
  | some h =>
    -- A WRUNLK that the target has served has ended the lock; one it refused, or a LOCKRD that fails, has not.
    let s := if o.op = opWrunlk ∧ (status = 0 ∨ status = 5 ∨ status = 9) then
      s.setRwy { s.rwy with held := s.rwy.held.filter fun x => x.hart != h } else s
    if status = 0 then s.answerHart h (.ok (if o.op = opWrunlk then 0 else data))
    else if o.op = opWrunlk ∧ status = 9 then s.answerHart h (.ok 1)
    else
      let s := (s.wr RWY_RDERR_OFFSET o.off).wr RWY_RDERR_WINDOW o.window
      let s := ((s.wr RWY_RDSTAT_STATUS status).wr RWY_STAT_RDEV 1).raise 160
      s.answerHart h (if o.op = opRead then .loadFault else .storeFault)

/-- The counts of posted writes show the queue as it stands. -/
def State.rwShowPosted (s : State) : State :=
  let s := s.wr RWY_STAT_POSTED s.rwy.posted.length
  (List.range 16).foldl (fun s w => s.wr (RWY_Ww_STAT_POSTED w) ((s.rwy.posted.filter fun p => p.window == w).length)) s

/-- A posted-write failure is logged, or counted as lost (R410). -/
def State.rwLog (s : State) (p : RwPost) (status : Nat) : State :=
  let s := s.bump RWY_PWE_CNT_FAIL
  let s := s.setRwy { s.rwy with fails := if (tblFind p.window s.rwy.fails).isSome then s.rwy.fails
                                           else tblPut p.window status s.rwy.fails }
  let s := s.note (RWY_Ww_FENCE_STATUS p.window) 1
  match (List.range 8).find? fun i => !s.flag (RWY_PWEi_INFO_VALID i) with
  | none => s.bump RWY_PWE_CNT_LOST
  | some i =>
    let s := (s.wr (RWY_PWEi_LOC_OFFSET i) p.off).wr (RWY_PWEi_LOC_WINDOW i) p.window
    let s := ((s.wr (RWY_PWEi_INFO_VALID i) 1).wr (RWY_PWEi_INFO_STATUS i) status).wr (RWY_PWEi_INFO_SIZE i) p.size
    let s := (s.wr (RWY_PWEi_INFO_NODE i) p.node).wr64 (RWY_PWEi_TIME_LO i) (RWY_PWEi_TIME_HI i) s.now
    (s.wr RWY_STAT_PWEEV 1).raise 161

/-- The first failure of a window since its last fence read, and its record cleared (R411), but for one recorded in the
same fabric clock (R17). -/
def State.rwFenceAnswer (s : State) (h w : Nat) : State :=
  let st := (tblFind w s.rwy.fails).getD 0
  (if s.hit (RWY_Ww_FENCE_STATUS w) = 0 then s.setRwy { s.rwy with fails := tblDel w s.rwy.fails } else s).answerHart h (.ok st)

/-- Fences whose posted writes have all ended are answered. -/
def State.rwFences (s : State) : State :=
  let ready := s.rwy.fences.filter fun f => f.tags.isEmpty
  let s := s.setRwy { s.rwy with fences := s.rwy.fences.filter fun f => !f.tags.isEmpty }
  ready.foldl (fun s f => s.rwFenceAnswer f.hart f.window) s

/-- A posted write ends with a status. -/
def State.rwPostDone (s : State) (p : RwPost) (status : Nat) : State :=
  let s := s.setRwy { s.rwy with
    posted := s.rwy.posted.erase p
    fences := s.rwy.fences.map fun f => { f with tags := f.tags.erase p.tag } }
  let s := if status = 0 then s else s.rwLog p status
  s.rwShowPosted.rwFences

/-- Every operation and posted write that meets a condition fails with a status; what of it still waits is not sent. -/
def State.rwFail (s : State) (node : Nat → Bool) (status : Nat) : State :=
  let s := s.rwUnsend fun m => node m.node
  let s := (s.rwy.ops.filter fun o => node o.node).foldl (fun s o => s.rwOpDone o status 0) s
  (s.rwy.posted.filter fun p => node p.node).foldl (fun s p => s.rwPostDone p status) s

/-! ### Targets (R399, R417, R419) -/

/-- The node ID that carries an identity in the committed table. -/
def State.identNode (s : State) (consist car module : Nat) : Option Nat :=
  match s.fab.table with
  | none => none
  | some t => (t.nodes.findIdx? fun n => !recKeyless n.body && recConsist n.body == consist && recCar n.body == car &&
      recModule n.body == module).map (· + 1)

/-- RESOLVED and the node ID of window w. -/
def State.rwResolve (s : State) (w : Nat) : State :=
  let n := if s.flag (RWY_Ww_CFG_EN w) then
    (s.identNode (s.rd (RWY_Ww_TGT_CONSIST w)) (s.rd (RWY_Ww_TGT_CAR w)) (s.rd (RWY_Ww_TGT_MODULE w))).getD 0 else 0
  (s.wrB (RWY_Ww_STAT_RESOLVED w) (n != 0)).wr (RWY_Ww_STAT_NODE w) n

/-- RESOLVED and the peer's node ID of tunnel t; nothing stays queued for a peer that is gone (R373, R421). -/
def State.tunResolve (s : State) (t : Nat) : State :=
  let n := if s.flag (UST_TUNt_CFG_EN t) then
    (s.identNode (s.rd (UST_TUNt_PEER_CONSIST t)) (s.rd (UST_TUNt_PEER_CAR t)) (s.rd (UST_TUNt_PEER_MODULE t))).getD 0
    else 0
  let s := if n = 0 then s.tunPurge t else s
  (s.wrB (UST_TUNt_STAT_RESOLVED t) (n != 0)).wr (UST_TUNt_STAT_NODE t) n

/-- Every window and tunnel is resolved afresh. -/
def State.resolveAll (s : State) : State :=
  (List.range 32).foldl State.tunResolve ((List.range 16).foldl State.rwResolve s)

/-- A new table is in force (R417): what is outstanding towards a node that left fails with NOROUTE; the rest goes on
under the new node IDs, given by a map of old ones (0 for a node that left). -/
def State.rwRenumber (s : State) (id : Nat → Nat) : State :=
  let s := s.rwFail (fun n => n != 0 && id n == 0) 7
  let s := s.setRwy { s.rwy with
    out := s.rwy.out.map fun m => { m with node := id m.node }
    ops := s.rwy.ops.map fun o => { o with node := id o.node }
    posted := s.rwy.posted.map fun p => { p with node := id p.node }
    locks := s.rwy.locks.map fun l => (l.1, { l.2 with node := id l.2.node })
    stall := s.rwy.stall.map fun r => { r with node := id r.node }
    held := s.rwy.held.map fun x => { x with node := id x.node } }
  let s := s.rwy.locks.foldl (fun s l => s.wr (RWY_Aa_STAT_HOLDER l.1) l.2.node) s
  s.resolveAll

end Sys2Proof.Machine
end

