-- ==== Sys2Proof/Machine/Canopy.lean ====
section
/-!
DEFINITION. Canopy (R305 to R346, R368 to R374, R385 to R390): blazes sent and heard, clock synchronisation, join
states, claims and plane resets.
-/

namespace Sys2Proof.Machine

/-! ### Sending a blaze (R329 to R331, R385, R386) -/

/-- What a transmit blaze takes: host buffer or engine, its number, area and PAYLEN, and the stale limit in ns. -/
structure TxSource where
  host : Bool
  num : Nat
  area : Nat
  paylen : Nat
  limit : Nat
  deriving DecidableEq, Repr

/-- The source of entry b, where this module sends it: its own transmit entry, or a spare blaze it holds. The stale
limit of a claimed host-source blaze is a value the spec leaves open. -/
def State.txSource (s : State) (e : Entry) : Option TxSource × State :=
  if e.role = roleTx ∧ e.kind ≠ kindSpare then
    if e.host then (some ⟨true, e.hbuf, 0, e.paylen, e.rsub * 10000⟩, s)
    else
      let n := ([0, 1, 2, 3].find? fun i => bitAt e.eng i).getD 0
      (some ⟨false, n, 8 * e.area, e.paylen, s.outLimit n⟩, s)
  else
    match s.spareUse e false with
    | some u =>
      let mine := s.cnp.spares.any fun x => x.fid == u.fid && x.seg == u.seg && x.serial == s.rd SYS_SERIAL_LO &&
        decide (x.effect ≤ s.cycleNo)
      if !mine then (none, s)
      else if u.src then
        let (v, s) := s.free
        (some ⟨true, u.area % 64, 0, u.paylen, v * 10000⟩, s)
      else (some ⟨false, u.eng, 8 * u.area, u.paylen, s.outLimit u.eng⟩, s)
    | none => (none, s)

/-- The stamp of the source's image where it is valid and within its limit. -/
def State.txImage (s : State) (k : TxSource) : Option Nat :=
  let (valid, stamp) := if k.host then (s.flag (CNP_HBUFh_STAT_VALID k.num), (s.hbuf k.num).stamp)
    else ((s.engine k.num).pub.valid, (s.engine k.num).pub.stamp)
  if valid && !s.beyond stamp k.limit then some stamp else none

/-- Bytes of the source from an offset of its area. -/
def State.txBytes (s : State) (k : TxSource) (off n : Nat) : List Byte :=
  if k.host then (s.hbufFront k.num (off + n)).drop off
  else (List.range n).map fun i => tblGet 0 (k.area + off + i - 0x2000) (s.engine k.num).pub.data

/-- The producer's NOTSAFE: the engine's, or any stand's. -/
def State.txNotsafe (s : State) (k : TxSource) : Bool :=
  if k.host then [0, 1, 2, 3].any fun i => s.flag (STD_Sk_STAT_NOTSAFE i) else s.flag (LE_Ee_STAT_NOTSAFE k.num)

/-- A transmit blaze is left empty; VALID shows its source as it was at the take, which need not be the reason (R346).
-/
def State.txEmpty (s : State) (b : Nat) (valid : Bool) : State :=
  (s.blazeCounted (CNP_BLZb_CNT_EMPTY b)).wrB (CNP_BLZb_STAT_VALID b) valid

/-- The frame of a blaze leaves; the transmit stream passes the check-value units. -/
def State.txSend (s : State) (e : Entry) (flags : Nat) (payload : List Byte) (seed : Option Nat) : State :=
  let seg := (s.entrySeg e).getD 0
  let s := s.sendOn e.planes (s.frame frBlaze 0xFF (e.fid + 1024 * seg) flags payload)
  s.unitFrame 2 0 (some e.fid) seed payload

/-- A transmit context shows the message it sends (R397). -/
def State.ctxSends (s : State) (c : Option Nat) (pay : List Byte) : State :=
  match c with
  | some c => (s.wr (CVU_CTXc_STAT_SEEN c) 1).wr (CVU_CTXc_SEQ c) (leAt 8 4 pay)
  | none => s

/-- A blaze with an image at hand: an image already sent goes again with REPEAT; a SAFE blaze needs its context and the
conditions of R386, and its context builds a new message around the user data. -/
def State.txData (s : State) (b : Nat) (e : Entry) (k : TxSource) (stamp : Nat) : State :=
  let x := s.blz b
  let flags := 4 * b2n (s.txNotsafe k)
  let safe := e.kind == kindSafe
  let c := s.ctxFor b true
  let sync := s.syncState == syncSynced || s.syncState == syncHoldover
  if safe && (c.isNone || s.txNotsafe k || !sync || s.cvu.resetting || s.cop.safeDead) then s.txEmpty b true
  else
    let seed := if safe then c.map fun c => s.rd (CVU_CTXc_SEED c) else none
    let s := s.wr (CNP_BLZb_STAT_VALID b) 1
    if x.sent = some stamp then (s.ctxSends (if safe then c else none) x.pay).txSend e (flags + 1) x.pay seed
    else
      let (pay, s) :=
        match safe, c with
        | true, some c =>
          let time := s.markNs + s.slotAt e
          s.ctxBuild c k.paylen time (s.txBytes k 0x18 (k.paylen - 28))
        | _, _ => (s.txBytes k 0 k.paylen, s)
      (s.setBlz b { x with sent := some stamp, pay := pay }).txSend e flags pay seed

/-- The messages that wait for a ROOTWAY blaze on one plane: those to the first one's node, up to PAYLEN. -/
def State.txRootway (s : State) (b : Nat) (e : Entry) (plane : Nat) : State :=
  let q := s.rwy.out.filter fun m => m.blz == some b && m.plane == plane
  match q with
  | [] => s
  | m :: _ =>
    let (ms, rest) := rwShare e.paylen m.node plane q
    if ms = [] then s
    else
      let s := s.setRwy { s.rwy with
        out := (s.rwy.out.filter fun m => !(m.blz == some b && m.plane == plane)) ++ rest }
      let seg := (s.entrySeg e).getD 0
      let s := (s.rwSent ms).sendOn (2 ^ plane)
        (s.frameVia 0xFF frRootway m.node (e.fid + 1024 * seg) 0 (rwPayload ms))
      s.unitFrame 2 0 (some e.fid) none (rwPayload ms)

/-- BLAZE_DUE (R329, R330): entry b comes due. -/
def State.blazeDue (s : State) (b : Nat) : State :=
  if s.blazeCount ≤ b then s
  else
    let e := s.entry b
    let own := e.sender == s.rd CNP_NODE_MEMBER && !e.foreign
    if e.kind = kindRootway then
      if !own then s
      else if s.joinState = joinFlush then (if s.cnp.flushSends then s.txSend e 2 [] none else s)
      else if !s.rwMaySend || !(s.rwy.out.any fun m => m.blz == some b) then
        s.txEmpty b (s.rwy.out.any fun m => m.blz == some b)
      else
        let s := s.wr (CNP_BLZb_STAT_VALID b) 1
        let s := if bitAt e.planes 0 then s.txRootway b e 0 else s
        if bitAt e.planes 1 then s.txRootway b e 1 else s
    else
      let (src, s) := s.txSource e
      match src with
      | none => s
      | some k =>
        if s.joinState = joinFlush then
          (if s.cnp.flushSends then s.txSend e (2 + 4 * b2n (s.txNotsafe k)) [] none else s)
        else if s.joinState ≠ joinActive then s.txEmpty b (s.txImage k).isSome
        else
          match s.txImage k with
          | none => s.txEmpty b false
          | some stamp => s.txData b e k stamp

def execBlazeDue (b : Fin 1024) (t : Nat) (s : State) : Host.Outcome State Fault Refusal := .next ((s.begin t).blazeDue b)

/-! ### Hearing a blaze (R332 to R336) -/

/-- A failure of the running cycle for R338; the first reason stands. -/
def State.cycleBad (s : State) (why : Nat) : State :=
  if s.cnp.why = 0 then { s with cnp := { s.cnp with why := why } } else s

/-- The node index of a spare blaze's frame: of the sender that its header names, who must be the holder where one is
known (R341). -/
def State.spareSender (s : State) (seg fid node : Nat) : Option Nat :=
  match s.tableNode node, s.cnp.spares.find? fun x => x.seg == seg && x.fid == fid with
  | none, _ => none
  | some n, some x => if recSerial n.body = x.serial then some (node - 1) else none
  | some _, none => some (node - 1)

/-- A blaze of the train as R332 judges a copy of it: consist (any, for a spare blaze), segment, the node index of its
sender, its start after the mark in ns, the longest payload. -/
structure Expected where
  consist : Option Nat
  seg : Option Nat
  sender : Option Nat
  at_ : Nat
  limit : Nat
  deriving DecidableEq, Repr

/-- What entry e expects of a frame. -/
def State.expected (s : State) (e : Entry) (frame : List Byte) : Option Expected :=
  (s.slot e).map fun k =>
    if e.kind = kindSpare then
      ⟨none, s.entrySeg e, s.spareSender (frSeg frame) e.fid (frSender frame), k.at_, e.paylen⟩
    else ⟨some k.consist, s.entrySeg e, s.nodeOf k.consist k.sender, k.at_, e.paylen⟩

/-- What a blaze that consist c announced (R356) expects of a frame. -/
def State.announced (s : State) (c : Consist) (w : Nat) (frame : List Byte) : Expected :=
  let shift := match c.seg with | some g => s.segShift g c.home | none => 0
  let at_ := (((annOffset w : Int) + shift) * 8).toNat
  if annKind w = kindSpare then
    ⟨none, c.seg, s.spareSender (frSeg frame) (annFid w) (frSender frame), at_, annLength w - 34⟩
  else ⟨some c.serial, c.seg, s.nodeOf c.serial (annSender w), at_, annLength w - 34⟩

/-- The acceptance of R332 for a copy with a good FCS. -/
def State.meets (s : State) (x : Expected) (plane : Nat) (frame : List Byte) : Bool :=
  match x.sender with
  | some i =>
    let due := s.markNs + x.at_ + (s.pathDelay i plane).getD 0
    decide (due ≤ s.now + 1000) && decide (s.now ≤ due + 1000) && x.consist.all (· == frConsist frame) &&
      some (frSeg frame) == x.seg && frCycle frame == s.cycleNo % 65536 && decide (frLen frame ≤ x.limit)
  | none => false

def State.accepts (s : State) (e : Entry) (plane : Nat) (frame : List Byte) : Bool :=
  (s.expected e frame).any fun x => s.meets x plane frame

/-- The blaze of the train's table that a frame claims to be (R338): by consist and FRAMEID, a spare one by segment and
FRAMEID. -/
def State.knownBlaze (s : State) (frame : List Byte) : Option Expected :=
  match s.fab.table with
  | none => none
  | some t => t.consists.findSome? fun c =>
      (c.entries.find? fun w => annFid w == frFid frame &&
        (if annKind w = kindSpare then c.seg == some (frSeg frame) else c.serial == frConsist frame)).map
          fun w => s.announced c w frame

/-- The entries that a frame belongs to: more than one where FOREIGN entries select one blaze. -/
def State.entriesFor (s : State) (frame : List Byte) : List Nat :=
  (List.range s.blazeCount).filter fun b =>
    let e := s.entry b
    e.fid == frFid frame && (s.slot e).any fun k =>
      if e.kind = kindSpare then s.entrySeg e == some (frSeg frame) else k.consist == frConsist frame

/-- A copy with PWRFAIL (R335, R389): the data act as if LOSSN were reached, and freshness ends; an accepted copy that
is no repeat, it ends a run of empty blazes (R368). -/
def State.heardPwrfail (s : State) (b : Nat) (e : Entry) (frame : List Byte) : State :=
  let s := s.setBlz b { s.blzNow b with pwrfail := true }
  let s := if frRepeat frame then s else s.wr (CNP_BLZb_STAT_RUN b) 0
  let s := s.copyShown b (frRepeat frame) (frNotsafe frame) (frSender frame)
  let s := match s.ctxFor b false with
    | some c => s.ctxLost c false true
    | none => s
  match s.sink e with
  | some k => s.blazeLost b k true false
  | none => s

/-- The first copy of a blaze in a cycle: a SAFE one waits for its judgement; a ROOTWAY one, whose messages are
Rootway's, ends a run of empty blazes (R368); any other is delivered at once. -/
def State.firstCopy (s : State) (b : Nat) (e : Entry) (frame : List Byte) : State :=
  if e.kind = kindSafe then s
  else if e.kind = kindRootway then
    let s := s.copyShown b (frRepeat frame) (frNotsafe frame) (frSender frame)
    if frRepeat frame then s else s.wr (CNP_BLZb_STAT_RUN b) 0
  else
    match s.sink e with
    | some k => s.blazeDeliver b k (frPayload frame) (frRepeat frame) (frNotsafe frame) (frSender frame)
    | none => s.wr (CNP_BLZb_STAT_NODE b) (frSender frame)

/-- A blaze of another node has been accepted in the running cycle (R374). -/
def State.heardOther (s : State) (frame : List Byte) : State :=
  if frSender frame = s.nodeId then s else { s with cnp := { s.cnp with heard := true } }

/-- An accepted copy of the wake blaze that is no repeat, with a payload byte 0 that is not zero (R508). -/
def State.blazeWakes (s : State) (b : Nat) (frame : List Byte) : State :=
  if s.rd PWR_WAKE_BLZIDX = b ∧ !frRepeat frame ∧ !frPwrfail frame ∧ beAt 0 1 (frPayload frame) ≠ 0 then s.wakeEdge 3 else s

/-- An accepted copy of entry b. While the check-value block is reset no copy of a SAFE blaze is accepted (R394). -/
def State.heardCopy (s : State) (b : Nat) (e : Entry) (plane : Nat) (frame : List Byte) : State :=
  let s := (s.heardOther frame).blazeWakes b frame
  if frPwrfail frame then s.heardPwrfail b e frame
  else if e.kind = kindSafe ∧ s.cvu.resetting then s
  else
    let x := s.blzNow b
    let first := x.got == 0
    let pay := frPayload frame
    let x : Blz := { x with
      got := setBit x.got plane true
      copies := x.copies ++ [(plane, pay)]
      rep := if first then frRepeat frame else x.rep
      notsafe := if first then frNotsafe frame else x.notsafe
      node := if first then frSender frame else x.node }
    let s := s.setBlz b x
    if first then s.firstCopy b e frame else s

/-- A copy is judged for entry b: accepted, or discarded and counted. -/
def State.heardFor (s : State) (plane : Nat) (frame : List Byte) (b : Nat) : State :=
  if s.accepts (s.entry b) plane frame then s.heardCopy b (s.entry b) plane frame
  else (s.blazeCounted (CNP_BLZb_CNT_LATE b)).cycleBad 3

/-- Whether a frame is one of the train's, on time, whoever receives it. -/
def State.onTime (s : State) (plane : Nat) (frame : List Byte) : Bool :=
  ((s.entriesFor frame).any fun b => s.accepts (s.entry b) plane frame) ||
    (s.knownBlaze frame).any fun x => s.meets x plane frame

/-- The SEED of the receive context of a SAFE blaze. -/
def State.seedFor (s : State) (b : Nat) : Option Nat :=
  if (s.entry b).kind = kindSafe then (s.ctxFor b false).map fun c => s.rd (CVU_CTXc_SEED c) else none

/-- A blaze frame with a good FCS reaches the internal port: copied to Ranger where the table marks it (R336),
accepted or discarded. A blaze of another consist without an entry here is judged by what that consist announced
(R338). With PWRFAIL, what Rootway has outstanding towards its sender fails (R409). -/
def State.heard (s : State) (plane : Nat) (frame : List Byte) : State :=
  let bs := s.entriesFor frame
  let good := s.onTime plane frame
  let copy := if s.cnp.admitted then bs.any fun b => (s.entry b).ranger else frKind frame == frBlaze
  let s := if copy then s.emit (.safeCopy plane frame) else s
  let s := s.unitFrame plane 0 (some (frFid frame)) (bs.findSome? s.seedFor) (frPayload frame)
  let s :=
    if bs ≠ [] then bs.foldl (fun s b => s.heardFor plane frame b) s
    else
      match s.knownBlaze frame with
      | none => s.cycleBad 4
      | some x => if s.meets x plane frame then s.heardOther frame else s.cycleBad 3
  if good && frPwrfail frame then s.rwFail (· == frSender frame) 0xA else s

/-- BLAZE_FRAME (R308, R332, R352): a frame arrives at a port in the time-triggered window; `t` is the instant of its
first bit, `fcs` whether its FCS is good. -/
def State.blazeFrame (s : State) (port : Nat) (frame : List Byte) (fcs : Bool) : State :=
  if !s.portSends port || s.pw.phase == .flush then s
  else
    let s := s.forwardTt port frame
    if !fcs then (s.bump (CNP_PORTp_CNT_FCS port)).cycleBad 3
    else if !s.portForeign port && ((s.portLink port).used || !s.cnp.admitted) then s.heard (portPlane port) frame
    else s

def execBlazeFrame (port : Fin 4) (frame : List Byte) (fcs : Bool) (t : Nat) (s : State) : Host.Outcome State Fault Refusal :=
  .next ((s.begin t).blazeFrame port frame fcs)

/-! ### Judgement (R368, R370, R371, R388) -/

/-- The status word shows RUN and the age in cycles as they stand. -/
def State.refreshStatus (s : State) (b : Nat) (unres : Bool) : State :=
  let x := s.blz b
  let live := s.flag (CNP_BLZb_STAT_VALID b)
  let w := statusWord live (!live) (bitAt x.status 2) (bitAt x.status 3) (bitAt x.status 4) unres
    (s.rd (CNP_BLZb_STAT_RUN b)) (x.status / 65536 % 256) (s.cycleNo - x.first)
  s.setBlz b { x with status := w }

/-- The blaze is empty: RUN rises; at LOSSN the data become invalid. -/
def State.blazeEmpty (s : State) (b : Nat) (k : Sink) (unres : Bool) : State :=
  let s := (s.blazeCounted (CNP_BLZb_CNT_EMPTY b)).bump (CNP_BLZb_STAT_RUN b)
  let reached := unres || decide (k.lossn ≤ s.rd (CNP_BLZb_STAT_RUN b))
  if reached && (!(s.blz b).lost || s.flag (CNP_BLZb_STAT_VALID b)) then s.blazeLost b k false unres
  else s.refreshStatus b unres

/-- A cycle whose copies are not delivered: the blaze is empty, but that a repeat neither advances nor resets RUN
(R32, R368, R387). -/
def State.blazeUnused (s : State) (b : Nat) (k : Sink) : State :=
  let x := s.blzNow b
  if x.rep then s.copyShown b true x.notsafe x.node else s.blazeEmpty b k false

/-- The copies of a SAFE blaze are judged in the order of their arrival against the alive reference as it stood before
the first; the reference moves on. -/
def State.judgeCopies (s : State) (c paylen time : Nat) (alive : Option Nat) :
    List (Nat × List Byte) → State × List (Nat × List Byte × Nat)
  | [] => (s, [])
  | (p, m) :: r =>
    let code := s.ctxCheck c paylen time alive m
    let (s, rest) := (s.ctxAlive c code m).judgeCopies c paylen time alive r
    (s, (p, m, code) :: rest)

/-- The decision of R388 at the comparison instant. The alive reference moves whether or not the context may accept
(R381, R390). -/
def State.judgeSafe (s : State) (b : Nat) (e : Entry) (k : Sink) (c : Nat) : State :=
  let x := s.blzNow b
  let time := s.markNs + s.slotAt e
  let sync := s.syncState == syncSynced || s.syncState == syncHoldover
  if s.cvu.resetting ∨ s.cop.safeDead then s.blazeUnused b k
  else
    let (s, js) := s.judgeCopies c e.paylen time (s.ctx c).alive x.copies
    let empty := fun (s : State) => s.blazeUnused b k
    if s.joinState ≠ joinActive ∨ !sync then empty s
    else
    match js with
    | [] => s.blazeEmpty b k false
    | (_, m, code) :: rest =>
      let differ := rest.any fun j => j.2.1 != m
      let bad := ((code :: rest.map fun j => j.2.2).filter (· != 0))
      if differ then (s.ctxDiff c).blazeEmpty b k false
      else if bad ≠ [] then empty (bad.foldl (fun s code => s.ctxReject c code) s)
      else
        let both := !rest.isEmpty
        let s := (s.ctxDelivered c (leAt 8 4 m)).blazeDeliver b k m false x.notsafe x.node
        let s := if both then s else s.ctxMiss c x.both
        s.setBlz b { s.blz b with both := both }

/-- BLAZE_JUDGEMENT (R368): the judgement instant of receive entry b, which for a SAFE blaze with a receive context is
its comparison instant (R387); once per cycle. -/
def State.blazeJudge (s : State) (b : Nat) : State :=
  let e := s.entry b
  if s.blazeCount ≤ b ∨ s.now < s.judgeAt e ∨ (s.blz b).judged = s.cycleNo + 1 then s
  else
    match s.sink e with
    | none => s
    | some k =>
      let x := { s.blzNow b with judged := s.cycleNo + 1 }
      let s := s.setBlz b x
      if (s.slot e).isNone then s.blazeEmpty b k true
      else
        let s := if e.planes = 3 ∧ (x.got = 1 ∨ x.got = 2) then s.blazeCounted (CNP_BLZb_CNT_PLMISS b) else s
        if x.pwrfail then s
        else if e.kind = kindSafe then
          match s.ctxFor b false with
          | some c => (s.judgeSafe b e k c).ctxExpire c
          | none => s.blazeUnused b k
        else if x.got = 0 then s.blazeEmpty b k false
        else s

def execBlazeJudgement (b : Fin 1024) (t : Nat) (s : State) : Host.Outcome State Fault Refusal :=
  .next ((s.begin t).blazeJudge b)

/-! ### Clock synchronisation (R324 to R328) -/

/-- Whether this module holds a sync slot, and which. -/
def State.isMaster (s : State) : Bool := s.flag CNP_SYNC_STAT_MASTER
def State.slotHeld (s : State) : Nat := s.rd CNP_SYNC_STAT_SLOT

/-- SYNC_SLOT (R324, R325): the slot-0 master sends in every sync state, any other only while SYNCED; a module with
PLANERR or SEGNONE sends nothing in the window (R314, R320). -/
def State.syncSlot (s : State) : State :=
  if s.isMaster && s.loaded && (s.slotHeld == 0 || s.syncState == syncSynced) && s.pw.phase != .flush &&
      !s.flag CNP_JOIN_STAT_PLANERR && !s.flag CNP_JOIN_STAT_SEGNONE then
    let pay := beBytes 8 (s.markNs + s.slotHeld * s.syncSp) ++ beBytes 4 0 ++
      [byteOf s.slotHeld, byteOf s.syncState, byteOf (s.rd CNP_PLAN0_TC), 0] ++ beBytes 4 (s.rd CNP_PLAN0_TTW) ++
      beBytes 4 (s.rd CNP_PLANCRC)
    (s.sendOn 3 (s.frame frSync 0xFF 0 0 pay)).unitFrame 2 0 (some 0) none pay
  else s

def execSyncSlot (t : Nat) (s : State) : Host.Outcome State Fault Refusal := .next ((s.begin t).syncSlot)

/-- A sync frame with a residence time (in 1/8 ns) added to its CORR. -/
def addResidence (frame : List Byte) (res : Nat) : List Byte :=
  frame.take 38 ++ beBytes 4 ((beAt 38 4 frame + res) % 2 ^ 32) ++ frame.drop 42

/-- A residence time is measured on a plane: CNP_LDp shows the mean (R360, R377). -/
def State.measureResidence (s : State) (plane res : Nat) : State :=
  let (sum, n) := tblGet (0, 0) plane s.cnp.resid
  let s : State := { s with cnp := { s.cnp with resid := tblPut plane (sum + res, n + 1) s.cnp.resid } }
  let mean := (sum + res) / (8 * (n + 1))
  (s.wr (CNP_LDp_RES (2 * plane)) mean).wr (CNP_LDp_RES (2 * plane + 1)) mean

/-- The plan of the lead node is the train's (R314). -/
def State.setPlanErr (s : State) (differs : Bool) : State :=
  let s := s.wrB CNP_JOIN_STAT_PLANERR differs
  if differs then s.goSilent else s

/-- SYNC_FRAME (R324, R326): a sync frame arrives at a port at `t`; `res` is the residence time the switch measures for
it, in 1/8 ns. It is forwarded with its CORR raised, and kept where its FCS is good and its sender holds its slot. -/
def State.syncFrame (s : State) (port : Nat) (frame : List Byte) (fcs : Bool) (res : Nat) : State :=
  if !s.portUsed port || s.pw.phase == .flush then s
  else
    let s := (s.forwardTt port (addResidence frame res)).measureResidence (portPlane port) res
    if !fcs then s.bump (CNP_PORTp_CNT_FCS port)
    else
      let pay := frPayload frame
      let s := s.unitFrame (portPlane port) 0 (some 0) none pay
      let k := beAt 12 1 pay
      let n := frSender frame
      if n = s.nodeId ∨ 4 ≤ k ∨ n = 0 ∨ s.rd (CNP_MSTk_STAT_NODE k) ≠ n then s
      else
        let s := if s.leadNode = some n ∧ s.loaded then s.setPlanErr (beAt 20 4 pay != s.rd CNP_PLANCRC) else s
        { s with cnp := { s.cnp with
            sync := tblPut (2 * k + portPlane port) ⟨s.now, beAt 0 8 pay, beAt 8 4 pay⟩ s.cnp.sync } }

def execSyncFrame (port : Fin 4) (frame : List Byte) (fcs : Bool) (res t : Nat) (s : State) :
    Host.Outcome State Fault Refusal :=
  .next ((s.begin t).syncFrame port frame fcs res)

/-- The deviation of slot k's frame in 1/8 ns: the plane A copy if there is one, else plane B's. -/
def State.slotDev (s : State) (k : Nat) : Option Int := do
  let (p, f) ← match tblFind (2 * k) s.cnp.sync with
    | some f => some (0, f)
    | none => (tblFind (2 * k + 1) s.cnp.sync).map fun f => (1, f)
  let n := s.rd (CNP_MSTk_STAT_NODE k)
  let (link, _) ← s.pathTo (n - 1) p
  some (8 * ((f.rx : Int) - f.txtime - link) - f.corr)

/-- Insert into a rising list of deviations. -/
def insertDev (d : Int) : List Int → List Int
  | [] => [d]
  | e :: r => if d ≤ e then d :: e :: r else e :: insertDev d r

/-- The correction of R326 from the rising deviations, in 1/8 ns. -/
def correctionOf (l : List Int) : Option Int :=
  match l with
  | [] => none
  | [a] => some a
  | [a, b] => some ((a + b) / 2)
  | _ :: r =>
    let mid := r.dropLast
    some (mid.foldl (· + ·) 0 / mid.length)

/-- Whether the deviations of a cycle agree within 500 ns. -/
def devsConsistent (l : List Int) : Bool :=
  match l, l.getLast? with
  | a :: _, some b => decide (b - a ≤ 4000)
  | _, _ => false

/-- A signed value held at the ends of a range. -/
def clampInt (lo hi v : Int) : Int := if v < lo then lo else if hi < v then hi else v

/-- A correction is applied by slewing (R327): the rate keeps what removes c / Tc of drift, within 200 ppm. -/
def State.slewBy (s : State) (c : Int) : State :=
  { s with cnp := { s.cnp with
      slew := -c
      rate := clampInt (-200000) 200000 (s.cnp.rate - c * 125000000 / (s.tcNs : Int)) } }

/-- A correction is applied as a step (R327, R328): above 1 µs STEPEV and a record. -/
def State.stepBy (s : State) (c : Int) : State :=
  let s := s.leaveActive
  let s : State := { s with pmg := { s.pmg with stepDue := true } }
  if 8000 < c.natAbs then (s.wr CNP_SYNC_STAT_STEPEV 1).record 3 9 0xFF 0xFFFF (some 0x1080004C) (some 0x10800050) else s

/-- The deviations of the slots show in MST, VALIDN counts those used, and a discarded or inconsistent set shows in
INCONS (R321, R322). -/
def State.syncShow (s : State) (good : List (Nat × Int)) (own dropped cons : Bool) (n : Nat) : State :=
  let s := [0, 1, 2, 3].foldl (fun s k =>
    match good.find? fun e => e.1 == k with
    | some e => (s.wr (CNP_MSTk_STAT_VALID k) 1).wr (CNP_MSTk_STAT_DEV k) (ofSigned 16 (clampInt (-32768) 32767 (e.2 / 64)))
    | none => s.wrB (CNP_MSTk_STAT_VALID k) (own && s.slotHeld == k)) s
  let s := (s.wr CNP_SYNC_STAT_VALIDN n)
  let s := if dropped || (n != 0 && !cons) then s.wr CNP_SYNC_STAT_INCONS 1 else s
  { s with cnp := { s.cnp with sync := [], syncGood := cons } }

/-- The correction in LISTEN, which is a step in every cycle (R327): after one, the next consistent cycle is SYNCED;
the lead of slot 0 needs nobody. A cycle without another's frame breaks the row. -/
def State.syncFirst (s : State) (lead none_ cons : Bool) (c : Option Int) : State :=
  if lead && none_ then ({ s with cnp := { s.cnp with stepped := false } } : State).setSync syncSynced
  else
    match c with
    | some v =>
      if none_ then { s with cnp := { s.cnp with stepped := false } }
      else if s.cnp.stepped && cons then
        (({ s with cnp := { s.cnp with stepped := false, missed := 0 } } : State).stepBy v).setSync syncSynced
      else ({ s with cnp := { s.cnp with stepped := true } } : State).stepBy v
    | none => { s with cnp := { s.cnp with stepped := false } }

/-- The correction in SYNCED and HOLDOVER: the clock is slewed, or a cycle without frames is counted. -/
def State.syncGoes (s : State) (st : Nat) (c : Option Int) : State :=
  match c with
  | some v =>
    let s := ({ s with cnp := { s.cnp with missed := 0 } } : State).slewBy v
    let s := if st = syncSynced then s.maxWr CNP_SYNC_MAXC_NS (v.natAbs / 8) else s
    s.setSync syncSynced
  | none =>
    let s : State := { s with cnp := { s.cnp with missed := s.cnp.missed + 1 } }
    if 4 ≤ s.cnp.missed then s.setSync syncLost else s.setSync syncHoldover

/-- SYNC_CORRECTION (R326 to R328): the cycle's deviations and correction, and the sync state. A frame that deviates
by more than 2 µs is discarded in HOLDOVER as well as in SYNCED, or a part that couples could not pass through LOST
and step (R328; DEDUCED, log entry 99). -/
def State.syncCorrect (s : State) : State :=
  let st := s.syncState
  let all := [0, 1, 2, 3].filterMap fun k => (s.slotDev k).map fun d => (k, d)
  let good := if st = syncSynced ∨ st = syncHoldover then all.filter fun e => decide (e.2.natAbs ≤ 16000) else all
  let own := s.isMaster && s.loaded
  let devs := good.foldl (fun l e => insertDev e.2 l) (if own then [0] else [])
  -- A master other than slot 0's whose every frame of another is discarded has lost its masters (R328; log entry 99).
  let lost := own && s.slotHeld != 0 && good.isEmpty && !all.isEmpty
  let c := if lost then none else correctionOf devs
  let u := s.syncShow good own (good.length != all.length) (devsConsistent devs) devs.length
  let w := match c with
    | some v => u.wr CNP_SYNC_CORR (ofSigned 32 (v / 8))
    | none => u
  if st = syncListen then w.syncFirst (own && w.slotHeld == 0) good.isEmpty (devsConsistent devs) c
  else if st = syncSynced ∨ st = syncHoldover then w.syncGoes st c
  else w

def execSyncCorrection (t : Nat) (s : State) : Host.Outcome State Fault Refusal := .next ((s.begin t).syncCorrect)

/-! ### Claims (R340 to R342) -/

/-- This module's own claim or release. -/
def State.ownClaim (s : State) (op seg fid : Nat) : Claim :=
  ⟨op, seg, fid, s.nodeId, s.rd SYS_SERIAL_LO, s.consist, s.cycleNo, true⟩

/-- The frame of an own claim or release joins the queues of both planes, or waits for an inauguration to end (R353)
or for room in a queue. Where no port leads to another module, none hears it, and it stands at once. -/
def State.claimPut (s : State) (c : Claim) : State :=
  if s.inaBusy then s
  else
    let s := s.sendEtBoth (s.frame frClaim 0xFF 0 0 (s.claimPay c.op c.seg c.fid))
    let leads := [0, 1, 2, 3].any fun p => s.portUsed p && !s.blocked p
    if s.cnp.asked.contains c && !leads then s.claimMade c else s

/-- An own claim or release is made. -/
def State.claimSend (s : State) (c : Claim) : State :=
  ({ s with cnp := { s.cnp with asked := s.cnp.asked ++ [c] } } : State).claimPut c

/-- Claims whose frames could not be queued, or were lost with their queue, are sent at a mark. -/
def State.claimsAgain (s : State) : State :=
  (s.cnp.asked.filter fun c => !s.queued.any c.frameOf).foldl State.claimPut s

/-- Keep at most one use of a spare blaze of each direction. -/
def State.setUse (s : State) (u : SpareUse) : State :=
  { s with cnp := { s.cnp with
      uses := (s.cnp.uses.filter fun x => !(x.seg == u.seg && x.fid == u.fid && x.listen == u.listen)) ++ [u] } }

/-- The use that CNP_CLAIM_ARG asks for. -/
def State.claimUse (s : State) (listen : Bool) (paylen : Nat) : SpareUse :=
  ⟨s.rd CNP_CLAIM_ARG_SEG, s.rd CNP_CLAIM_ARG_FRAMEID, listen, s.flag CNP_CLAIM_ARG_SRC, s.rd CNP_CLAIM_ARG_ENG,
    s.rd CNP_CLAIM_ARG_AREA, paylen⟩

/-- CLAIM_REQUEST (R341): refused where the module is not ACTIVE, the blaze is no such spare, the payload is too long or
the blaze is held; otherwise a claim frame leaves on both planes. A request while one awaits EFFECT changes nothing. -/
def State.claimRequest (s : State) (paylen : Nat) : State :=
  let seg := s.rd CNP_CLAIM_ARG_SEG
  let fid := s.rd CNP_CLAIM_ARG_FRAMEID
  if s.flag CNP_CLAIM_STAT_BUSY then s
  else if s.joinState ≠ joinActive then s.claimRefused 4
  else
    match s.spareEntry seg fid with
    | none => s.claimRefused 5
    | some b =>
      let c := s.ownClaim 1 seg fid
      if (s.entry b).length < paylen + 34 then s.claimRefused 3
      else if s.claimHeld c then s.claimRefused 1
      else
        let s := (s.wr CNP_CLAIM_STAT_BUSY 1).setUse (s.claimUse false paylen)
        let s := if s.flag CNP_CLAIM_ARG_SRC then s.wr (CNP_HBUFh_STAT_DIR (s.rd CNP_CLAIM_ARG_AREA % 64)) 1 else s
        s.claimSend c

def execClaimRequest (paylen : Fin 2048) (t : Nat) (s : State) : Host.Outcome State Fault Refusal :=
  let s := s.begin t
  .next (if s.pw.phase == .running then s.claimRequest paylen else s)

/-- RELEASE_REQUEST (R342): a release frame for a spare blaze that this module holds joins the queues; the blaze is free
when it leaves. -/
def State.releaseRequest (s : State) : State :=
  let seg := s.rd CNP_CLAIM_ARG_SEG
  let fid := s.rd CNP_CLAIM_ARG_FRAMEID
  match s.cnp.spares.find? fun x => x.seg == seg && x.fid == fid with
  | none => s.claimRefused 5
  | some x =>
    if x.serial = s.rd SYS_SERIAL_LO then
      (if s.cnp.asked.any fun c => c.op == 3 && c.seg == seg && c.fid == fid then s else s.claimSend (s.ownClaim 3 seg fid))
    else s.claimRefused 1

def execReleaseRequest (t : Nat) (s : State) : Host.Outcome State Fault Refusal :=
  let s := s.begin t
  .next (if s.pw.phase == .running then s.releaseRequest else s)

/-- LISTEN_REQUEST (R341): a held spare blaze is delivered into a host buffer of this module. -/
def State.listenRequest (s : State) (paylen : Nat) : State :=
  let seg := s.rd CNP_CLAIM_ARG_SEG
  let fid := s.rd CNP_CLAIM_ARG_FRAMEID
  match s.spareEntry seg fid with
  | none => s.claimRefused 5
  | some b =>
    if (s.entry b).length < paylen + 34 then s.claimRefused 3
    else if s.cnp.spares.any fun x => x.seg == seg && x.fid == fid then
      let u := s.claimUse true paylen
      (s.setUse u).wr (CNP_HBUFh_STAT_DIR (u.area % 64)) 0
    else s.claimRefused 5

def execListenRequest (paylen : Fin 2048) (t : Nat) (s : State) : Host.Outcome State Fault Refusal :=
  let s := s.begin t
  .next (if s.pw.phase == .running then s.listenRequest paylen else s)

/-- A segment is free again (R342): no other blaze moves, and a consist that loses its own leaves ACTIVE. -/
def State.freeSegment (s : State) (seg : Nat) : State :=
  if !(s.fab.table.any fun t => t.consists.any fun c => c.seg == some seg) then s
  else
    let own := s.ownSeg == some seg
    let s := s.wr (CNP_SEGSTAT_SEG seg) 0
    let s := if own then s.wr CNP_NODE_SEG 0 else s
    let s : State := { s with fab := { s.fab with table := s.fab.table.map fun t =>
      { t with consists := t.consists.map fun c => if c.seg = some seg then { c with seg := none } else c } } }
    if own then s.leaveActive else s

/-- CLAIM_FRAME (R340): a claim or release of another node. A release whose FRAMEID names a spare blaze of the segment
frees that; any other frees the segment, where it is its sender's consist that holds it (R342). -/
def State.claimFrame (s : State) (frame : List Byte) : State :=
  let p := frPayload frame
  let op := beAt 0 1 p
  let seg := beAt 1 1 p % 8
  let fid := beAt 2 2 p % 1024
  let n := frSender frame
  let cyc := s.cycleNo - (s.cycleNo + 8 + 65536 - beAt 4 2 p) % 65536
  if frKind frame ≠ frClaim ∨ n = 0 ∨ n = s.nodeId then s
  else if op = 1 ∨ op = 2 then s.claimAdd ⟨op, seg, fid, n, s.serialOf n, beAt 6 2 p, cyc, false⟩
  else if op = 3 then
    if s.spareNamed seg fid then
      (if s.cnp.spares.any fun x => x.seg == seg && x.fid == fid && x.serial == s.serialOf n then s.freeSpare seg fid else s)
    else if (s.consistOf (beAt 6 2 p)).any fun c => c.seg == some seg then s.freeSegment seg
    else s
  else s

def execClaimFrame (frame : List Byte) (t : Nat) (s : State) : Host.Outcome State Fault Refusal :=
  .next ((s.begin t).claimFrame frame)

/-- A claim takes hold at its EFFECT. -/
def State.claimHolds (s : State) (c : Claim) : State :=
  if c.op = 1 then
    let s : State := { s with cnp := { s.cnp with spares := s.cnp.spares ++ [⟨c.seg, c.fid, c.serial, c.cycle + 8⟩] } }
    let s := match s.spareEntry c.seg c.fid with
      | some b => s.wr (CNP_BLZb_STAT_HELD b) 1
      | none => s
    if c.own then ((s.wr CNP_CLAIM_STAT_BUSY 0).wr CNP_CLAIM_STAT_DONE 1).raise 117 else s
  else
    let s : State := { s with fab := { s.fab with table := s.fab.table.map fun t =>
      { t with consists := t.consists.map fun x => if x.serial = c.consist then { x with seg := some c.seg } else x } } }
    let s := if c.own then s.raise 117 else s
    if c.consist = s.consist then ((s.wr (CNP_SEGSTAT_SEG c.seg) 1).wr CNP_NODE_SEG c.seg).wr CNP_JOIN_STAT_SEGNONE 0
    else s.wr (CNP_SEGSTAT_SEG c.seg) 2

/-- CLAIM_EFFECT (R340): the cycle EFFECT of claims is reached. -/
def State.claimEffect (s : State) : State :=
  let due := s.cnp.claims.filter fun c => decide (c.cycle + 8 ≤ s.cycleNo)
  due.foldl State.claimHolds (s.setClaims (s.cnp.claims.filter fun c => decide (s.cycleNo < c.cycle + 8)))

def execClaimEffect (t : Nat) (s : State) : Host.Outcome State Fault Refusal := .next ((s.begin t).claimEffect)

/-- R320, R341: a consist of the train without a segment claims the lowest free one that is long enough, through its
member of lowest index; where there is none, SEGNONE, which a segment held ends (R337). -/
def State.autoClaim (s : State) : State :=
  match s.fab.table with
  | none => s
  | some t =>
    let pending := (s.cnp.claims ++ s.cnp.asked).any fun c => c.op == 2 && c.consist == s.consist
    if s.ownSeg.isSome then s.wr CNP_JOIN_STAT_SEGNONE 0
    else if t.own.isNone || !s.cnp.admitted || s.flag CNP_JOIN_STAT_PLANERR || pending || s.inaBusy then s
    else
      match s.freeSeg s.ownSpan with
      | none => (s.wr CNP_JOIN_STAT_SEGNONE 1).goSilent
      | some g =>
        let s := s.wr CNP_JOIN_STAT_SEGNONE 0
        let lowest := t.nodes.all fun n =>
          recConsist n.body != s.consist || recKeyless n.body || decide (s.rd CNP_NODE_MEMBER ≤ recMember n.body)
        if lowest then s.claimSend (s.ownClaim 2 g 0) else s

/-! ### Join states and the cycle mark (R311, R337 to R339, R374) -/

/-- Whether a SILENT module may begin to observe. -/
def State.mayObserve (s : State) : Bool :=
  s.loaded && s.cnp.admitted && s.syncState == syncSynced && !s.flag CNP_JOIN_STAT_PLANERR && s.ownSeg.isSome &&
    ((s.fab.table.bind (·.own)).isSome) && s.cnp.planeReset != 3 && s.pw.phase != .flush && s.pmg.low.isNone

/-- The join state at a mark. -/
def State.joinMark (s : State) : State :=
  let synced := s.syncState == syncSynced
  let s :=
    if s.joinState = joinObserving then
      let why := if !(s.cnp.syncedAtMark && synced) then 1 else if !s.cnp.syncGood then 2
        else if s.cnp.why ≠ 0 then s.cnp.why else if s.ownSeg.isNone then 6 else 0
      if why = 0 then (({ s with cnp := { s.cnp with observed := true } } : State).wr CNP_JOIN_STAT_WHY 0).setJoin joinActive
      else s.wr CNP_JOIN_STAT_WHY why
    else if s.joinState = joinSilent then
      if s.flag CNP_JOIN_STAT_PLANERR then s.wr CNP_JOIN_STAT_WHY 5
      else if s.flag CNP_JOIN_STAT_SEGNONE then s.wr CNP_JOIN_STAT_WHY 6
      else if s.mayObserve then s.setJoin joinObserving
      else s
    else s
  { s with cnp := { s.cnp with syncedAtMark := synced, syncGood := false, why := 0 } }

/-- Isolation (R374) at the end of a cycle. -/
def State.isolationMark (s : State) : State :=
  let s := if s.cnp.heard then s.wr CNP_ISOL_STAT_CYCLES 0 else s.bump CNP_ISOL_STAT_CYCLES
  let ison := s.rd CNP_ISOL_ISON
  let now := ison != 0 && decide (1 < s.nodeCount) && decide (ison ≤ s.rd CNP_ISOL_STAT_CYCLES)
  let was := s.flag CNP_ISOL_STAT_ISOLATED
  let s : State := { s with cnp := { s.cnp with heard := false } }
  if now = was then s else (s.wrB CNP_ISOL_STAT_ISOLATED now).raise 133

/-- What a mark means to Canopy (R311): a new cycle begins. -/
def State.canopyMark (s : State) : State :=
  let s := (if s.ownSeg.isSome then s.wr CNP_JOIN_STAT_SEGNONE 0 else s).joinMark.isolationMark
  let s := if s.cnp.rose then s.raise 116 else s
  let s : State := { s with cnp := { s.cnp with rose := false } }
  let s := if s.syncState = syncLost then s.setSync syncListen else s
  ((s.wr CNP_CYCLE s.cycleNo).raise 112).claimsAgain.autoClaim.rwFlush

/-! ### Event-triggered frames, planes, time (R309, R310, R344, R346) -/

/-- EVENT_FRAME (R309, R365): an event-triggered frame of another node arrives at a port and is queued by destination,
or dropped; inauguration frames have commands of their own, and nothing crosses a ring's blocked link. A frame with a
bad FCS is counted and goes no further. -/
def State.eventFrame (s : State) (port : Nat) (frame : List Byte) (fcs : Bool) : State :=
  if !s.portUsed port || s.pw.phase == .flush then s
  else if !fcs then s.bump (CNP_PORTp_CNT_FCS port)
  else if frKind frame = frIna ∨ s.blocked port then s
  else (s.unitFrame (portPlane port) 0 (some (frFid frame)) none (frPayload frame)).etRoute (some port) (portPlane port)
    (relayFrame frame)

def execEventFrame (port : Fin 4) (frame : List Byte) (fcs : Bool) (t : Nat) (s : State) :
    Host.Outcome State Fault Refusal :=
  .next ((s.begin t).eventFrame port frame fcs)

/-- TIME_READ (R346): global time; CNP_TIME_HI is latched. -/
def execTimeRead (t : Nat) (s : State) : Host.Outcome State Fault Refusal :=
  let s := s.begin t
  .next (if s.pw.phase == .running then ((s.wr CNP_TIME_LO t).wr CNP_TIME_HI (t / 2 ^ 32)).answer (.ok (t % 2 ^ 32)) else s)

/-- PLANE_RESET (R344): the switch, queues and counters of a plane; both planes together leave ACTIVE. -/
def State.planeResetStart (s : State) (plane : Nat) : State :=
  let s : State := { s with cnp := { s.cnp with
    planeReset := setBit s.cnp.planeReset plane true
    ports := tblDel (2 * plane) (tblDel (2 * plane + 1) s.cnp.ports)
    sync := tblKeep (fun k => k % 2 != plane) s.cnp.sync } }
  let s := s.restore (·.f) (inArea .cnp (0x10800080 + 8 * plane) (0x10800088 + 8 * plane))
  if s.cnp.planeReset = 3 then s.leaveActive else s

def execPlaneReset (plane : Fin 2) (t : Nat) (s : State) : Host.Outcome State Fault Refusal :=
  let s := s.begin t
  .next (if s.pw.phase == .running then s.planeResetStart plane else s)

/-- Whether the switch of a plane is under test. -/
def State.planeTesting (s : State) (plane : Nat) : Bool :=
  s.cop.run.any fun (r : BistRun) => r.logic && bitAt r.mask1 plane

/-- PLANE_RESET_DONE (R344); a plane whose switch is under test, or failed it, stays in reset (R461, R462). -/
def execPlaneResetDone (plane : Fin 2) (t : Nat) (s : State) : Host.Outcome State Fault Refusal :=
  let s := s.begin t
  .next { s with cnp := { s.cnp with planeReset := setBit s.cnp.planeReset plane (bitAt s.cop.planeDead plane || s.planeTesting plane) } }

/-! ### Admission of the blaze table (R317, R318) -/

/-- Whether one entry meets R315 and R318 by itself; `own` is the own member index, `loaded` the engines with a
program. -/
def entryOk (home own loaded : Nat) (e : Entry) : Bool :=
  let oneEng := popCount 4 e.eng == 1
  let engs := (List.range 4).all fun i => !bitAt e.eng i || bitAt loaded i
  e.z1 == 0 && e.z2 == 0 && e.z3 == 0 && e.z4 == 0 && decide (e.kind ≤ 3) && decide (e.role ≤ 2) &&
    (e.foreign || (e.segment == home && e.consel == 0)) && (!e.ranger || e.kind == kindSafe) && e.planes != 0 &&
    (e.kind == kindRootway || e.planes == 3) && within 64 1518 e.length && decide (e.paylen ≤ 1400) &&
    decide (max 64 (34 + e.paylen) ≤ e.length) && (if e.kind = kindSpare then e.sender == 0x7F else decide (e.sender ≤ 63)) &&
    (e.role != roleTx || (e.sender == own && !e.foreign)) &&
    (e.kind != kindSafe || (e.paylen % 4 == 0 && within 32 1400 e.paylen)) &&
    (if e.role = roleTx then
      (if e.host then within 1 4095 e.rsub
       else e.rsub == 0 && (e.kind == kindRootway || (oneEng && engs && decide (0x2400 ≤ 8 * e.area) &&
         decide (8 * e.area + e.paylen ≤ 0x4000)))) && e.lossn == 0
     else if e.role = roleRx then
      within 1 255 e.lossn && decide (e.rsub ≤ 2) &&
        (e.host || (engs && decide (0x400 ≤ 8 * e.area) && decide (8 * e.area + e.paylen ≤ 0x2000) &&
          decide (0x400 ≤ 4 * e.statw) && decide (4 * e.statw + 4 ≤ 0x2000)))
     else e.rsub == 0 && e.lossn == 0)

/-- The occupancy of an entry inside its segment, in ns (R316, R318). -/
def entryFits (segs : List Nat) (endNs pallow : Nat) (e : Entry) : Bool :=
  let hi := if e.segment < 7 then 8 * segs.getD (e.segment + 1) 0 else endNs
  e.foreign || (decide (8 * segs.getD e.segment 0 ≤ 8 * e.offset) &&
    decide (8 * e.offset + wireNs e.length + pallow ≤ hi))

/-- Whether two entries of the consist overlap on a common plane (R316). -/
def entriesOverlap (pallow : Nat) (a b : Entry) : Bool :=
  let gap := if a.sender = b.sender ∧ a.sender ≠ 0x7F then 0 else pallow
  !a.foreign && !b.foreign && (a.planes &&& b.planes) != 0 &&
    decide (a.offset * 8 < b.offset * 8 + wireNs b.length + gap) &&
    decide (b.offset * 8 < a.offset * 8 + wireNs a.length + gap)

/-- The ranges of data memory an entry maps (R170). -/
def entryRanges (e : Entry) : List (Nat × Nat) :=
  if e.host || e.role == 0 || e.kind == kindRootway then []
  else if e.role = roleTx then [(8 * e.area, e.paylen)]
  else [(8 * e.area, e.paylen), (4 * e.statw, 4)]

def rangesMeet (a b : Nat × Nat) : Bool :=
  decide (a.1 < b.1 + b.2) && decide (b.1 < a.1 + a.2) && a.2 != 0 && b.2 != 0

/-- Whether an entry's own status word lies in its own data area (R170). -/
def selfClash (e : Entry) : Bool :=
  match entryRanges e with
  | [a, w] => rangesMeet a w
  | _ => false

/-- Whether two entries may not stand together: one FRAMEID of the consist, overlapping blazes, overlapping areas of one
engine, one host buffer. -/
def entriesClash (pallow : Nat) (a b : Entry) : Bool :=
  (!a.foreign && !b.foreign && a.fid == b.fid) || entriesOverlap pallow a b ||
    ((a.eng &&& b.eng) != 0 && (entryRanges a).any fun x => (entryRanges b).any (rangesMeet x)) ||
    (a.host && b.host && a.role != 0 && b.role != 0 && a.hbuf == b.hbuf)

/-- The entries of a blaze table section. -/
def tableEntries (d : List Byte) : List Entry :=
  (List.range (leAt 6 2 d)).map fun b =>
    let o := 48 + 16 * b
    entryOf (leAt o 4 d) (leAt (o + 4) 4 d) (leAt (o + 8) 4 d) (leAt (o + 12) 4 d)

/-- R318 over the whole section. -/
def tableOk (own loaded : Nat) (d : List Byte) : Bool :=
  let p0 := leAt 8 4 d
  let p1 := leAt 12 4 d
  let tc := bitsAt p0 0 3
  let tcUs := 250 * 2 ^ tc
  let ttw := bitsAt p0 8 13
  let pal := bitsAt p1 0 11
  let nsync := bitsAt p1 11 2 + 1
  let segs := (List.range 8).map fun i => leAt (16 + 4 * i) 4 d % 2 ^ 20
  let es := tableEntries d
  leAt 0 4 d == 0x54504E43 && leAt 4 2 d / 256 == 1 && decide (leAt 6 2 d ≤ 1024) &&
    d.length == 48 + 16 * leAt 6 2 d && decide (tc ≤ 5) && decide (2 * tcUs ≤ 10 * ttw) && decide (10 * ttw ≤ 9 * tcUs) &&
    within 10 2000 pal && decide (segs.Pairwise (· ≤ ·)) &&
    decide (nsync * (pal * 100 + 1000) ≤ 8 * segs.getD 0 0) && decide (8 * segs.getD 7 0 ≤ ttw * 1000) &&
    es.all (entryOk (bitsAt p1 13 3) own loaded) && es.all (entryFits segs (ttw * 1000) (pal * 100)) &&
    es.all (fun e => !selfClash e) &&
    decide (es.Pairwise fun a b => entriesClash (pal * 100) a b = false)

/-- PLANCRC (R314). -/
def planCrc (p0 p1 : Nat) (segs : List Nat) : Nat :=
  let p1 := p1 - bitsAt p1 13 3 * 2 ^ 13 - bitsAt p1 16 1 * 2 ^ 16
  crc32c (leBytes 4 p0 ++ leBytes 4 p1 ++ segs.flatMap (leBytes 4))

/-- Load an admitted table (R317): the plan, the entries, what each entry's registers and receive image start as. -/
def State.loadTable (s : State) (d : List Byte) : State :=
  let n := leAt 6 2 d
  let s := (s.putWord 0x10800000 (leAt 8 4 d)).putWord 0x10800004 (leAt 12 4 d)
  let s := (List.range 8).foldl (fun s i => s.wr (CNP_SEGSTARTs_TICK i) (leAt (16 + 4 * i) 4 d)) s
  let s := s.wr CNP_NBLAZE_N n
  let s := (List.range n).foldl (fun s b =>
    (List.range 4).foldl (fun s w => s.wr (CNP_BLZb_Ww b w) (leAt (48 + 16 * b + 4 * w) 4 d)) s) s
  let s := s.wr CNP_PLANCRC (planCrc (s.word 0x10800000) (s.word 0x10800004)
    ((List.range 8).map fun i => s.rd (CNP_SEGSTARTs_TICK i)))
  let s : State := { s with cnp := { s.cnp with admitted := true } }
  (List.range n).foldl (fun s b =>
    let e := s.entry b
    let s := s.wrB (CNP_BLZb_STAT_RESOLVED b) (!e.foreign)
    let s := if e.host && e.role != 0 then s.wrB (CNP_HBUFh_STAT_DIR e.hbuf) (e.role == roleTx) else s
    if e.role = roleRx ∧ e.rsub % 4 = 2 then s.setBlz b { blzInit with data := List.replicate e.paylen 0xFF } else s) s

end Sys2Proof.Machine
end

