-- ==== Sys2Proof/Machine/LeBlocks.lean ====
section
/-!
DEFINITION. Hardware blocks of the logic engines (R185 to R192): each is one CALLH on the instance at P.
-/

namespace Sys2Proof.Machine

/-- Elapsed time (R186). -/
def elapsed (s n : Nat) : Nat := if s ≤ n then min (n - s) 0xFFFFFFFF else 0

/-- The faults of a CALLH of n instance bytes (R185). -/
def State.callhFaults (s : State) (e mod opnd n : Nat) : List (Bool × Nat) :=
  let p := ptrAddr (s.engine e) mod opnd
  [(decide (leDataSize < p + n), flRange), (p % 8 != 0, flAlign), (decide (p + n ≤ leDataSize) && s.leDataBad e p n, flData)]

/-- Run hardware block X on an instance of n bytes: `f` is given the registers, the instance and "now", and answers the
bytes the block writes (offset and bytes), the registers and the deadline it reports (R186, R192). -/
def State.leBlockOp (s : State) (e x mod opnd n : Nat)
    (f : Engine → List Byte → Nat → List (Nat × List Byte) × Engine × Option Nat) : State :=
  s.leRun e (leLegal 0x30 mod x opnd) (s.callhFaults e mod opnd n) ⟨rowsOfRange (ptrAddr (s.engine e) mod opnd) n, []⟩ fun s =>
    let r := s.engine e
    let p := ptrAddr r mod opnd
    let (ws, r', dl) := f r (s.leData e p n) r.takeUs
    let dl := match r.dl, dl with
      | some a, some b => some (min a b)
      | none, d => d
      | d, none => d
    (ws.foldl (fun s w => s.putLeData e (p + w.1) w.2) s).leNext e fun r0 => { r0 with ba := r'.ba, wa := r'.wa, dl := dl }

/-- What a timer holds: ET, START, Q, INPREV, RUN. -/
structure Timer where
  et : Nat
  start : Nat
  q : Bool
  prev : Bool
  run : Bool
  deriving DecidableEq, Repr

/-- TON (R187). -/
def tonStep (pt now : Nat) (inp : Bool) (m : Timer) : Timer :=
  if !inp then { m with q := false, et := 0, run := false, prev := inp }
  else
    let m := if !m.prev then { m with start := now, run := true } else m
    let et := min (elapsed m.start now) pt
    let q := decide (pt ≤ et)
    { m with et := et, q := q, run := m.run && !q, prev := inp }

/-- TOF (R187). -/
def tofStep (pt now : Nat) (inp : Bool) (m : Timer) : Timer :=
  if inp then { m with q := true, et := 0, run := false, prev := inp }
  else
    let m := if m.prev then { m with start := now, run := true } else m
    let et := if m.run then min (elapsed m.start now) pt else m.et
    let run := m.run && !decide (pt ≤ et)
    { m with et := et, run := run, q := run, prev := inp }

/-- TP (R187). -/
def tpStep (pt now : Nat) (inp : Bool) (m : Timer) : Timer :=
  let m := if !m.run && inp && !m.prev then { m with start := now, run := true } else m
  if m.run then
    let et := min (elapsed m.start now) pt
    let run := !decide (pt ≤ et)
    { m with et := et, run := run, q := run, prev := inp }
  else { m with et := if inp then m.et else 0, q := false, prev := inp }

/-- A timer block on its instance. -/
def timerBlock (step : Nat → Nat → Bool → Timer → Timer) (r : Engine) (i : List Byte) (now : Nat) :
    List (Nat × List Byte) × Engine × Option Nat :=
  let fl := leAt 16 1 i
  let pt := leAt 0 4 i
  let m := step pt now r.ba ⟨leAt 4 4 i, leAt 8 8 i, bitAt fl 0, bitAt fl 1, bitAt fl 2⟩
  let fl := b2n m.q + 2 * b2n m.prev + 4 * b2n m.run
  ([(4, leBytes 4 m.et), (8, leBytes 8 m.start), (16, leBytes 8 fl)], { r with ba := m.q },
    if m.run then some (m.start + pt) else none)

/-- A counter block on its instance (R188): `f` is given SI, the edge, CV and PV. -/
def counterBlock (f : Bool → Bool → Int → Int → Int) (q : Int → Int → Bool) (r : Engine) (i : List Byte) (_now : Nat) :
    List (Nat × List Byte) × Engine × Option Nat :=
  let pv := toSigned 32 (leAt 0 4 i)
  let edge := r.ba && !bitAt (leAt 8 1 i) 1
  let cv := f r.si edge (toSigned 32 (leAt 4 4 i)) pv
  let o := q cv pv
  ([(4, leBytes 4 (ofSigned 32 cv)), (8, leBytes 8 (b2n o + 2 * b2n r.ba))], { r with ba := o }, none)

/-- A block whose 8-byte instance holds Q and INPREV (R189): `f` is given BA, SI, Q and INPREV and answers both. -/
def flagBlock (f : Bool → Bool → Bool → Bool → Bool × Bool) (r : Engine) (i : List Byte) (_now : Nat) :
    List (Nat × List Byte) × Engine × Option Nat :=
  let fl := leAt 0 1 i
  let (q, p) := f r.ba r.si (bitAt fl 0) (bitAt fl 1)
  ([(0, leBytes 8 (b2n q + 2 * b2n p))], { r with ba := q }, none)

/-- CMP (R190). -/
def cmpBlock (r : Engine) (i : List Byte) (_now : Nat) : List (Nat × List Byte) × Engine × Option Nat :=
  let thr := toSigned 32 (leAt 0 4 i)
  let w := r.wa.toInt
  let q := if thr ≤ w then true else if w < thr - (leAt 4 4 i : Nat) then false else bitAt (leAt 8 1 i) 0
  ([(8, leBytes 8 (b2n q))], { r with ba := q }, none)

/-- LIMIT (R190). -/
def limitBlock (r : Engine) (i : List Byte) (_now : Nat) : List (Nat × List Byte) × Engine × Option Nat :=
  let mn := toSigned 32 (leAt 0 4 i)
  let mx := toSigned 32 (leAt 4 4 i)
  let w := r.wa.toInt
  let v := if mx < mn then mn else min (max w mn) mx
  let q := decide (mx < mn) || v != w
  ([(8, leBytes 8 (b2n q))], { r with wa := BitVec.ofInt 32 v, ba := q }, none)

/-- What EQV2 holds: START, Q, RUN, DISC. -/
structure Eqv where
  start : Nat
  q : Bool
  run : Bool
  disc : Bool
  deriving DecidableEq, Repr

/-- EQV2 (R191) on its two channels, b already xored with ANTI. -/
def eqvStep (dt now : Nat) (a b : Bool) (m : Eqv) : Eqv :=
  if !a && !b then { m with q := false, run := false, disc := false }
  else if a && b then
    let disc := m.disc || (m.run && decide (dt < elapsed m.start now))
    { m with disc := disc, run := false, q := !disc }
  else if m.disc then { m with q := false }
  else if !m.run then { m with q := false, run := true, start := now }
  else if dt < elapsed m.start now then { m with q := false, disc := true, run := false }
  else { m with q := false }

/-- EQV2 on its instance. -/
def eqvBlock (r : Engine) (i : List Byte) (now : Nat) : List (Nat × List Byte) × Engine × Option Nat :=
  let fl := leAt 16 1 i
  let anti := bitAt fl 3
  let dt := leAt 0 4 i
  let m := eqvStep dt now r.ba (r.si != anti) ⟨leAt 8 8 i, bitAt fl 0, bitAt fl 1, bitAt fl 2⟩
  ([(4, leBytes 4 0), (8, leBytes 8 m.start), (16, leBytes 8 (b2n m.q + 2 * b2n m.run + 4 * b2n m.disc + 8 * b2n anti))],
    { r with ba := m.q }, if m.run then some (m.start + dt) else none)

/-- Ton (R187). -/
def execLeTon (e : Fin 4) (mod : Fin 4) (opnd : Fin 1048576) (s : State) : Host.Outcome State Fault Refusal :=
  .next (s.fresh0.leBlockOp e 0x0 mod opnd 24 (timerBlock tonStep))

/-- Tof (R187). -/
def execLeTof (e : Fin 4) (mod : Fin 4) (opnd : Fin 1048576) (s : State) : Host.Outcome State Fault Refusal :=
  .next (s.fresh0.leBlockOp e 0x1 mod opnd 24 (timerBlock tofStep))

/-- Tp (R187). -/
def execLeTp (e : Fin 4) (mod : Fin 4) (opnd : Fin 1048576) (s : State) : Host.Outcome State Fault Refusal :=
  .next (s.fresh0.leBlockOp e 0x2 mod opnd 24 (timerBlock tpStep))

/-- Ctu (R188). -/
def execLeCtu (e : Fin 4) (mod : Fin 4) (opnd : Fin 1048576) (s : State) : Host.Outcome State Fault Refusal :=
  .next (s.fresh0.leBlockOp e 0x3 mod opnd 16 (counterBlock (fun si up cv _ => if si then 0 else if up && decide (cv < 2147483647) then cv + 1 else cv)
      (fun cv pv => decide (pv ≤ cv))))

/-- Ctd (R188). -/
def execLeCtd (e : Fin 4) (mod : Fin 4) (opnd : Fin 1048576) (s : State) : Host.Outcome State Fault Refusal :=
  .next (s.fresh0.leBlockOp e 0x4 mod opnd 16 (counterBlock (fun si dn cv pv => if si then pv else if dn && decide (-2147483648 < cv) then cv - 1 else cv)
      (fun cv _ => decide (cv ≤ 0))))

/-- RTrig (R189). -/
def execLeRTrig (e : Fin 4) (mod : Fin 4) (opnd : Fin 1048576) (s : State) : Host.Outcome State Fault Refusal :=
  .next (s.fresh0.leBlockOp e 0x5 mod opnd 8 (flagBlock fun clk _ _ p => (clk && !p, clk)))

/-- FTrig (R189). -/
def execLeFTrig (e : Fin 4) (mod : Fin 4) (opnd : Fin 1048576) (s : State) : Host.Outcome State Fault Refusal :=
  .next (s.fresh0.leBlockOp e 0x6 mod opnd 8 (flagBlock fun clk _ _ p => (p && !clk, clk)))

/-- Sr (R189). -/
def execLeSr (e : Fin 4) (mod : Fin 4) (opnd : Fin 1048576) (s : State) : Host.Outcome State Fault Refusal :=
  .next (s.fresh0.leBlockOp e 0x7 mod opnd 8 (flagBlock fun b si q _ => (b || (!si && q), false)))

/-- Rs (R189). -/
def execLeRs (e : Fin 4) (mod : Fin 4) (opnd : Fin 1048576) (s : State) : Host.Outcome State Fault Refusal :=
  .next (s.fresh0.leBlockOp e 0x8 mod opnd 8 (flagBlock fun b si q _ => (!si && (b || q), false)))

/-- Cmp (R190). -/
def execLeCmp (e : Fin 4) (mod : Fin 4) (opnd : Fin 1048576) (s : State) : Host.Outcome State Fault Refusal :=
  .next (s.fresh0.leBlockOp e 0x9 mod opnd 16 (cmpBlock))

/-- Limit (R190). -/
def execLeLimit (e : Fin 4) (mod : Fin 4) (opnd : Fin 1048576) (s : State) : Host.Outcome State Fault Refusal :=
  .next (s.fresh0.leBlockOp e 0xA mod opnd 16 (limitBlock))

/-- Eqv2 (R191). -/
def execLeEqv2 (e : Fin 4) (mod : Fin 4) (opnd : Fin 1048576) (s : State) : Host.Outcome State Fault Refusal :=
  .next (s.fresh0.leBlockOp e 0xC mod opnd 24 (eqvBlock))

/-- The part of a MOVE range that lies in data memory, as offset and bytes, of at most the 32 bytes that LEN may name.
-/
def moveClip (off n : Nat) : Nat × Nat := (off, min (min n 32) (leDataSize - off))

/-- The faults of a MOVE instance (R190): LEN, alignment and both ranges, whatever BA; with BA = 1 also the rows of
SRC and DST, which it reads: DST is merged (R438), also where LEN is 32 and DST a row (DESIGN CHOICE, log entry 115).
They are judged wherever the instance lies in data memory, also at a pointer that is not aligned (DESIGN CHOICE, log
entry 116). -/
def State.moveFaults (s : State) (e mod opnd : Nat) : List (Bool × Nat) :=
  let p := ptrAddr (s.engine e) mod opnd
  if leDataSize < p + 16 then []
  else
    let src := s.leNum e p 4
    let dst := s.leNum e (p + 4) 4
    let n := s.leNum e (p + 8) 4
    [(n % 4 != 0 || decide (n < 4) || decide (32 < n), flBlock), (src % 4 != 0 || dst % 4 != 0, flAlign),
      (decide (leDataSize < src + n) || decide (leDataSize < dst + n), flRange),
      ((s.engine e).ba && (s.leDataBad e (moveClip src n).1 (moveClip src n).2 ||
        s.leDataBad e (moveClip dst n).1 (moveClip dst n).2), flData)]

/-- The rows that a MOVE reads, and those it merges into. -/
def State.moveRows (s : State) (e mod opnd : Nat) : LeRows :=
  let p := ptrAddr (s.engine e) mod opnd
  let rows (off n : Nat) := rowsOfRange (moveClip off n).1 (moveClip off n).2
  let n := s.leNum e (p + 8) 4
  if leDataSize < p + 16 then ⟨[], []⟩
  else if (s.engine e).ba then ⟨rowsOfRange p 16 ++ rows (s.leNum e p 4) n, rows (s.leNum e (p + 4) 4) n⟩
  else ⟨rowsOfRange p 16, []⟩

/-- MOVE (R190): if BA = 1, copies LEN bytes from SRC to DST, as if all were read before any was written. It writes the
reserved word of its instance as zero (R186). -/
def execLeMove (e : Fin 4) (mod : Fin 4) (opnd : Fin 1048576) (s : State) : Host.Outcome State Fault Refusal :=
  .next (s.fresh0.leRun e (leLegal 0x30 mod 0xB opnd) (s.callhFaults e mod opnd 16 ++ s.moveFaults e mod opnd)
    (s.moveRows e mod opnd) fun s =>
      let p := ptrAddr (s.engine e) mod opnd
      let bs := s.leData e (s.leNum e p 4) (s.leNum e (p + 8) 4)
      let dst := s.leNum e (p + 4) 4
      let s := s.putLeData e (p + 12) (leBytes 4 0)
      (if (s.engine e).ba then s.putLeData e dst bs else s).leNext e id)

end Sys2Proof.Machine
end

