-- ==== Sys2Proof/Machine/CyclicBase.lean ====
section
/-!
DEFINITION. The parts of a cycle (R206 to R235): data memory as a table of offsets, forces, the input image, take,
publish, swap, stop, restart, and what a stand reaches of an engine's memories. The commands are in Machine/Cyclic.lean.
-/

namespace Sys2Proof.Machine

/-! ### Data memory and banks as regions -/

/-- A region of n bytes of logic-engine memory is replaced; `d` lists its bytes by offset. -/
def State.setLeRegion (s : State) (base n : Nat) (d : Tbl Byte) : State :=
  let outside := tblKeep (fun k => !inRange base (base + n) k) s.leMem
  { s with leMem := d.foldl (fun m x => tblSet 0 (base + x.1) x.2 m) outside }

/-- Data memory of engine e by offset. -/
def State.leTable (s : State) (e : Nat) : Tbl Byte :=
  (s.leMem.filter fun x => inRange (leDataBase e) (leDataBase e + leDataSize) x.1).map fun x => (x.1 - leDataBase e, x.2)

/-- Replace data memory of engine e. -/
def State.setLeTable (s : State) (e : Nat) (d : Tbl Byte) : State := s.setLeRegion (leDataBase e) leDataSize d

/-- Bytes with their offsets. -/
def withOffsets (off : Nat) (bs : List Byte) : Tbl Byte := ((List.range bs.length).map (off + ·)).zip bs

/-- Replace n bytes of a table by listed ones. -/
def tblRegion (off n : Nat) (es d : Tbl Byte) : Tbl Byte :=
  (d.filter fun x => decide (x.1 < off)) ++ (es.filter fun x => x.2 != 0) ++ (d.filter fun x => decide (off + n ≤ x.1))

/-- Write bytes into a table. -/
def tblBytes (off : Nat) (bs : List Byte) (d : Tbl Byte) : Tbl Byte := tblRegion off bs.length (withOffsets off bs) d

/-- Bytes of a table. -/
def tblRead (off n : Nat) (d : Tbl Byte) : List Byte := (List.range n).map fun i => tblGet 0 (off + i) d

/-- The initial values of the bytes that meet a test, over a table (R202). -/
def putInits (rs : List InitRec) (want : Nat → Bool) (d : Tbl Byte) : Tbl Byte :=
  rs.foldl (fun d r => (withOffsets r.off r.data).foldl (fun d x => if want x.1 then tblSet 0 x.1 x.2 d else d) d) d

/-- The words of a bank: the image, and 0 in every word beyond it (R161); check-value units in window mode see the write
(R391). -/
def State.putBank (s : State) (e b : Nat) (words : List Nat) : State :=
  let bs := (words.map (leBytes 4)).flatten
  let s := (s.setLeRegion (leBankBase e b) 0x100000 (withOffsets 0 bs)).rowsWritten 4 (e * 2 ^ 16 + b * 2 ^ 15) (2 ^ 15)
  let x := s.engine e
  let s := s.setEngine e (if b = 0 then { x with image0 := words.length } else { x with image1 := words.length })
  s.unitWrite ((List.range 0x100000).zip (padTo 0x100000 bs) |>.map fun i => (leBankBase e b + i.1, i.2))

/-- Engine e reads rows of its data memory through its fabric port (R160): those of `rows` that hold errors. The
answer says whether one is uncorrectable. -/
def State.leReads (s : State) (e cause : Nat) (rows : Nat → Bool) : Bool × State :=
  s.seeRows (0x10 + e) cause (s.errRows fun memid row => memid == 5 && row / 2 ^ 14 == e && rows (row % 2 ^ 14))

/-- The rows of data memory that n bytes from an offset touch are written (R445). -/
def State.leRowsWritten (s : State) (e off n : Nat) : State :=
  if n = 0 then s else s.rowsWritten 5 (e * 2 ^ 14 + off / 32) (rowsOfRange off n).length

/-! ### Forces (R229 to R232) -/

/-- An enabled force entry: the first byte it covers, how many, the bit of a bit force, its committed value. -/
structure Force where
  addr : Nat
  len : Nat
  bit : Nat
  val : Nat
  deriving DecidableEq, Repr

/-- Entry i as it is committed, none where it is not enabled. -/
def State.force (s : State) (e i : Nat) : Option Force :=
  if s.flag (LE_Ee_FRCi_ADDR_EN e i) then
    some ⟨s.rd (LE_Ee_FRCi_ADDR_ADDR e i), if s.flag (LE_Ee_FRCi_ADDR_WORD e i) then 4 else 1,
      s.rd (LE_Ee_FRCi_ADDR_BIT e i), tblGet 0 i (s.engine e).fval⟩
  else none

/-- Apply the entries that lie in [lo, hi), in the order of their index. -/
def State.applyForces (s : State) (e lo hi : Nat) (d : Tbl Byte) : Tbl Byte :=
  (List.range 256).foldl (fun d i =>
    match s.force e i with
    | none => d
    | some f =>
      if !inRange lo hi f.addr then d
      else if f.len = 4 then tblBytes f.addr (leBytes 4 f.val) d
      else tblSet 0 f.addr (BitVec.ofNat 8 (setBit (tblGet 0 f.addr d).toNat f.bit (bitAt f.val 0))) d) d

/-- The reach of the active program (R232); without one nothing is reached. -/
def State.leReach (s : State) (e : Nat) : Reach :=
  match (s.engine e).prog with
  | none => ⟨[], [], leDataSize, leDataSize, []⟩
  | some p =>
    reachOf ⟨bodiesOf fun a n => (List.range n).map fun k => s.leWordAt e (s.leBank e) (a + k), p.sizes⟩ p.inits

/-- Whether an entry is an orphan. -/
def isOrphan (r : Reach) (f : Force) : Bool := !((List.range f.len).any fun k => r.hits (f.addr + k))

/-- The orphans among the enabled entries are found afresh: a count that rises sets ORPHEV and raises 28 + e (R223). -/
def State.syncForces (s : State) (e : Nat) : State :=
  let r := s.leReach e
  let old := s.rd (LE_Ee_FRC_STAT_ORPHANS e)
  let on := (List.range 256).filterMap fun i => (s.force e i).map fun f => (i, isOrphan r f)
  let orphans := on.filter (·.2)
  let s := (List.range 8).foldl (fun s j =>
    s.wr (LE_Ee_ORPHANj e j) ((List.range 32).foldl (fun v k => v + 2 ^ k * b2n (orphans.any fun o => o.1 == 32 * j + k)) 0)) s
  let s := (s.wr (LE_Ee_FRC_STAT_ACTIVE e) on.length).wr (LE_Ee_FRC_STAT_ORPHANS e) orphans.length
  if old < orphans.length then (s.wr (LE_Ee_STAT_ORPHEV e) 1).raise (28 + e) else s

/-! ### The host window (R210) -/

/-- Where the window begins, and its size in bytes; 0: no window. -/
def State.winBase (s : State) (e : Nat) : Nat := 0x4000 + 8 * s.rd (LE_Ee_HOSTWIN_BASE e)
def State.winSize (s : State) (e : Nat) : Nat := 8 * s.rd (LE_Ee_HOSTWIN_SIZE e)

/-! ### Take (R167, R208, R209, R250) -/

/-- The image that the take uses of a group: a Free group's newest one, a Marked group's mark copy, its substitute where
the group image is invalid or older than 50 µs. -/
def State.takeImage (s : State) (g : Nat) : GroupImage :=
  let x := s.group g
  let im := if s.flag (IOG_Gg_CFG_MARKED g) then x.mark else x.image
  if !x.image.valid || !im.valid || s.beyond x.image.stamp 50000 then s.substImage g else im

/-- The first 1024 bytes of the input image. -/
def State.localImage (s : State) (e : Nat) : List Byte :=
  let ims := (List.range 12).map s.takeImage
  let age := (List.range 12).foldl (fun m g => max m (s.ageUs (s.group g).image.stamp)) 0
  (ims.map fun i => leBytes 2 i.bits).flatten ++ List.replicate 8 0 ++
    (ims.map fun i => (List.range 16).map fun k => byteOf (i.stat.getD k 0)).flatten ++
    leBytes 4 (s.engine e).cycle ++ leBytes 8 (s.now / 1000) ++ leBytes 4 age ++ List.replicate 16 0 ++
    (ims.map fun i => ((List.range 16).map fun k => leBytes 4 (i.words.getD k 0)).flatten).flatten

/-- The remote images that engine e takes: each receive blaze's data and its status word (R170, R334). -/
def State.remoteImages (s : State) (e : Nat) (d : Tbl Byte) : Tbl Byte :=
  (List.range s.blazeCount).foldl (fun d b =>
    let n := s.entry b
    if n.role = roleRx && !n.host && bitAt n.eng e then
      let x := s.blz b
      tblBytes (4 * n.statw) (leBytes 4 x.status) (tblBytes (8 * n.area) (padTo n.paylen x.data) d)
    else d) d

/-- The take of images and host window into data memory, and the registers at a cycle's start (R171, R208, R209). -/
def State.leTaken (s : State) (e : Nat) (first changed : Bool) : State :=
  let x := s.engine e
  let d := tblRegion 0 0x2000 (withOffsets 0 (s.localImage e)) (s.leTable e)
  let d := s.applyForces e 0 0x2000 (s.remoteImages e d)
  let d := tblBytes (s.winBase e) (padTo (s.winSize e) x.staging) d
  let s := ((s.setLeTable e d).rowsWritten 5 (e * 2 ^ 14) 256).leRowsWritten e (s.winBase e) (s.winSize e)
  let x := { x with
    pc := s.leStart e 255, ba := false, wa := 0, xr := 0, si := false, ov := false, ip := 0, bstack := [], cstack := [],
    blk := 255, executing := true, first := first, changed := changed, cycle := (x.cycle + 1) % 2 ^ 32,
    takeUs := s.now / 1000, takeAt := s.now, measured := true, dl := none, await := false, restart := none }
  let s := s.wr (LE_Ee_CYC_CNT e) (s.engine e).cycle
  let s : State := { s with pw := { s.pw with start := { s.pw.start with ran := true } } }
  ((s.setEngine e x).wr (LE_Ee_STAT_STATE e) leRunning).settleOwner e

/-- A take (R171, R208 to R210): the input image with its forces, the host window, the registers at a cycle's start.
From the first one of a start on, a clearing of READY stops nothing (R58). The rows that the window covers in part are
read, and an uncorrectable one is fault 0x0B (R438, R448). -/
def State.leTake (s : State) (e : Nat) (first changed : Bool) : State :=
  let q := s.leReads e 2 fun r => (edgeRows (s.winBase e) (s.winSize e)).contains r
  if q.1 then q.2.leFault e flData else q.2.leTaken e first changed

/-! ### Publish (R208, R211, R219) -/

/-- The retained bytes, range by range. -/
def State.retained (s : State) (e : Nat) (p : Prog) : List Byte :=
  match p.rmap with
  | none => []
  | some m => (m.ranges.map fun r => tblRead r.1 r.2 (s.leTable e)).flatten

/-- RMAPCRC of the map in use, 0 if none. -/
def progRmapcrc (p : Prog) : Nat := match p.rmap with | none => 0 | some m => m.crc

/-- The publish that ends a cycle: forced output image, stamp, Free groups, retain shadow; the NAND retain copy is
invalid from the first one after a start (R221); the cycle is measured unless it was interrupted, and no measurement
is above the admitted bound (R37, R211). -/
def State.lePublish (s : State) (e : Nat) : State :=
  let x := s.engine e
  let out := s.applyForces e 0x2000 0x4000 ((s.leTable e).filter fun b => inRange 0x2000 0x4000 b.1)
  let keep : Option Retain := x.prog.map fun p =>
    { engine := e, progid := p.progid, rmapcrc := progRmapcrc p, consist := s.rd KEY_VEH_ID0_CONSIST
      car := s.rd KEY_VEH_ID1_CAR, module := s.rd KEY_VEH_ID1_MODULE, cycle := s.rd (LE_Ee_CYC_CNT e), stamp := s.now
      data := s.retained e p }
  let n := min (s.now - x.takeAt) (s.rd (LE_Ee_ADM_BOUND e))
  let s := s.setEngine e { x with
    executing := false, judge := 0, retain := keep, nand := none, deadline := x.dl
    pub := ⟨true, s.now, out.map fun b => (b.1 - 0x2000, b.2)⟩ }
  let s := s.rowsWritten 6 (e * 2 ^ 11) (2 ^ 11)
  let s := s.wr (LE_Ee_STAT_VALID e) 1
  let s := if x.measured then
      ((s.wr (LE_Ee_CYC_LAST e) (sat 32 n)).wr (LE_Ee_CYC_MIN e) (min (s.rd (LE_Ee_CYC_MIN e)) (sat 32 n))).maxWr
        (LE_Ee_CYC_MAX e) n
    else s
  s.applyFree e

/-! ### Swap and stop (R222, R226, R227) -/

/-- The program of the shadow bank becomes the active one. -/
def State.install (s : State) (e : Nat) (p : Prog) : State :=
  let x := s.engine e
  let s := s.setEngine e { x with prog := some p, shadow := none }
  let s := (s.wr (LE_Ee_STAT_BANK e) (1 - s.leBank e)).wr (LE_Ee_STAT_SHADOW e) 0
  let s := (s.wr (LE_Ee_ADM_BOUND e) p.bound).wr (LE_Ee_RMAPCRC e) (progRmapcrc p)
  (s.wr (LE_Ee_PROGID e) p.progid).wr (LE_Ee_PROGVER e) p.progver

/-- The longest swap gap in ns: 2 µs + 2 × S / 51.2, at most 25 µs (R227). -/
def gapMax (p : Prog) : Nat := min 25000 (2000 + ((p.insts.map (·.size)).sum * 5 + 127) / 128)

/-- The old instance whose data a new one takes over (R226). -/
def carriedFrom (old : Prog) (n : Inst) : Option Inst :=
  old.insts.find? fun o => o.id == n.id && o.kind == n.kind && o.size == n.size

/-- The rows of data memory that a swap reads: those of the old instances that are carried over, and those that new
instances below 0x1_0000 cover in part (R438). -/
def swapReads (old new : Prog) (r : Nat) : Bool :=
  new.insts.any fun n =>
    (edgeRows n.off n.size).contains r && decide (r < 2048) ||
      (carriedFrom old n).any fun o => decide (o.off < 32 * r + 32) && decide (32 * r < o.off + o.size)

/-- The data memory after a swap (R226): instances that match by ID, KIND and SIZE are carried over, the others and all
instance data in no new instance are initialised; markers outside new instances and the images are kept. -/
def swapData (old new : Prog) (d : Tbl Byte) : Tbl Byte :=
  let inside (l : List Inst) (a : Nat) : Bool := l.any fun i => decide (i.off ≤ a) && decide (a < i.off + i.size)
  let carried := new.insts.filter fun n => (carriedFrom old n).isSome
  let fresh (a : Nat) : Bool := !inside carried a && (decide (0x10000 ≤ a) || inside new.insts a)
  let kept := d.filter fun x => !fresh x.1 && !inside carried x.1
  let d' := putInits new.inits fresh kept
  carried.foldl (fun m n =>
    match carriedFrom old n with
    | some o => tblBytes n.off (tblRead o.off o.size d) m
    | none => m) d'

/-- The data memory and the program of a swap (R226); every row written is encoded afresh (R445). -/
def State.leSwapIn (s : State) (e : Nat) (old new : Prog) : State :=
  let s := (s.setLeTable e (swapData old new (s.leTable e))).rowsWritten 5 (e * 2 ^ 14 + 2048) 14336
  let s := new.insts.foldl (fun s n => if n.off < 0x10000 then s.leRowsWritten e n.off n.size else s) s
  s.install e new

/-- The swap of R226, with a gap in ns: the next take falls at its end. An uncorrectable row that it reads is fault
0x0B, and there is no swap (R448, R236). -/
def State.leSwapNow (s : State) (e gap : Nat) : State :=
  let x := s.engine e
  match x.prog, x.shadow with
  | some old, some new =>
    let q := s.leReads e 0 (swapReads old new)
    if q.1 then q.2.leFault e flData
    else
    let s := q.2
    let g := min gap (gapMax new)
    let s := s.leSwapIn e old new
    let s := s.setEngine e { s.engine e with judge := max old.bound new.bound, swapped := some (s.now + g, old) }
    let s := ((s.wr (LE_Ee_SWAP_LAST e) g).wr (LE_Ee_CYC_MIN e) 0xFFFFFFFF).wr (LE_Ee_CYC_MAX e) 0
    let s := (s.wr (LE_Ee_STAT_SWAPEV e) 1).raise (28 + e)
    let s := s.syncForces e
    { s with now := s.now + g }
  | _, _ => s

/-- What falls into the swap gap abandons the swap (R236): the program before it is active again, and the forces are
judged by it. The report of the swap (SWAP_LAST, SWAPEV, its event) has been given by then and stands (log entry 118).
-/
def State.swapUndone (s : State) (e : Nat) : State :=
  match (s.engine e).swapped with
  | some (ends, old) =>
    if s.now < ends then
      let s := s.install e old
      (s.setEngine e { s.engine e with judge := 0, swapped := none }).syncForces e
    else s
  | none => s

/-- The engine stops: invalid publish, STOPPED (R222). -/
def State.leStopNow (s : State) (e : Nat) : State :=
  let s := s.setEngine e { s.engine e with stop := false, deadline := none }
  let s := (s.wr (LE_Ee_STAT_STATE e) leStopped).leIdle e
  (s.publishInvalid e).settleOwner e

/-- The engine parks in an entry to Slumber or Hibernate (R505 step 2). -/
def State.leParkNow (s : State) (e : Nat) : State :=
  let s := s.wr (LE_Ee_STAT_STATE e) leParked
  (s.publishInvalid e).settleOwner e

/-- A debug halt (R234). -/
def State.leHaltNow (s : State) (e why : Nat) : State :=
  let s := s.setEngine e { s.engine e with want := .none, measured := false }
  let s := (s.wr (LE_Ee_STAT_STATE e) leHalted).wr (LE_Ee_DBG_STAT_HALTED e) 1
  ((s.wr (LE_Ee_DBG_STAT_WHY e) why).settleOwner e).raise (28 + e)

/-- From a publish on: a pending swap runs, then a stop (R236), or else the next take begins at once. -/
def State.leGoOn (s : State) (e gap : Nat) : State :=
  let swap := s.rd (LE_Ee_STAT_SHADOW e) == 4
  let s := if swap then s.leSwapNow e gap else s
  if s.leState e = leFaulted then s
  else if (s.engine e).stop then s.leStopNow e else s.leTake e false swap

/-- Whether a breakpoint at the cycle boundary is enabled. -/
def State.cycBreak (s : State) (e : Nat) : Bool :=
  [0, 1, 2, 3].any fun i => s.flag (LE_Ee_BRKi_EN e i) && s.flag (LE_Ee_BRKi_CYC e i)

/-- The end of a cycle: publish; then park, halt or go on. -/
def State.leCycleEnd (s : State) (e gap : Nat) : State :=
  let s := s.lePublish e
  let want := (s.engine e).want
  if s.pmg.low.isSome then s.leParkNow e
  else if want = .step then s.leHaltNow e 3
  else if want = .cycle || s.cycBreak e then s.leHaltNow e 2
  else s.leGoOn e gap

/-! ### Restarts (R159, R215 to R221) -/

/-- The lanes that Coppice may form, not retired and not under test: the spare (lane 3) after the others, and suspect
lanes last (R159, R466). -/
def State.usableLanes (s : State) (e : Nat) : List Nat :=
  let ls := [0, 1, 2, 3].filter fun l => !s.leLaneRetired e l && !bitAt s.cop.laneTest (4 * e + l)
  (ls.filter fun l => !s.leLaneSuspect e l) ++ ls.filter (s.leLaneSuspect e)

/-- Coppice forms the voted lanes, as a pair with an alarm record where no third one is left (R159, R468); none where
fewer than two are left. -/
def State.formLanes (s : State) (e : Nat) : Option State :=
  match s.usableLanes e with
  | a :: b :: r =>
    let s := ((s.wr (LE_Ee_LANES_LANEA e) a).wr (LE_Ee_LANES_LANEB e) b).wr (LE_Ee_LANES_LANEC e) (r.head?.getD 0)
    let s := (s.wrB (LE_Ee_LANES_PAIR e) r.isEmpty).wr (LE_Ee_LANES_FENCED e) 0
    let s := s.wrB (LE_Ee_STAT_DEGRADED e) r.isEmpty
    some (if r.isEmpty then s.poolEmpty else s)
  | _ => none

/-- WHYCOLD of a retain source (R220, R94): 0 where it can be used. -/
def State.retainWhy (s : State) (e : Nat) (p : Prog) (src : Option Retain) (bad : Bool) : Nat :=
  match src with
  | none => 1
  | some r =>
    if bad then 2
    else if r.engine ≠ e then 7
    else if r.progid ≠ p.progid ∨ r.rmapcrc ≠ progRmapcrc p then 4
    else if r.consist ≠ s.rd KEY_VEH_ID0_CONSIST ∨ r.car ≠ s.rd KEY_VEH_ID1_CAR ∨ r.module ≠ s.rd KEY_VEH_ID1_MODULE then 3
    else 0

/-- Copy retained data into its ranges. -/
def putRetained : List (Nat × Nat) → List Byte → Tbl Byte → Tbl Byte
  | [], _, d => d
  | (o, n) :: r, bs, d => putRetained r (bs.drop n) (tblBytes o (bs.take n) d)

/-- The register addresses of engine e. -/
def engineAddr (e a : Nat) : Bool := inArea .le (0x10301000 + 0x1000 * e) (0x10302000 + 0x1000 * e) a

/-- A block reads the retain shadow of engine e: whether it holds an uncorrectable row. -/
def State.seeShadow (s : State) (e master cause : Nat) : Bool × State :=
  s.seeRows master cause (s.errRows fun memid row => memid == 6 && row / 2 ^ 11 == e)

/-- What an accepted start does with data memory, the engine and its registers (R216 to R221): `warm` where the retained
data are used, from NAND where `nand`, and WHYCOLD otherwise. -/
def State.restartFrom (s : State) (e : Nat) (p : Prog) (warm nand : Bool) (cause why : Nat) : State :=
  let x := s.engine e
  let d := putInits p.inits (fun _ => true) []
  let d := match warm, p.rmap, (if nand then x.nand else x.retain) with
    | true, some m, some r => putRetained m.ranges r.data d
    | _, _, _ => d
  let deg := s.rd (LE_Ee_STAT_DEGRADED e)
  let s := (s.setLeTable e d).rowsWritten 5 (e * 2 ^ 14) (2 ^ 14)
  let s := s.restore (if warm then (·.w) else (·.c)) (engineAddr e)
  let s := if cause = 0 || !warm then s.wr (LE_Ee_STAT_DEGRADED e) deg else s
  let s := s.setEngine e { s.engine e with
    pc := s.leStart e 255, ba := false, wa := 0, xr := 0, si := false, ov := false, ip := 0, bstack := [], cstack := [],
    blk := 255, executing := false, first := false, changed := false, cycle := 0, measured := false, dl := none, deadline := none,
    judge := 0, staging := tblRead (s.winBase e) (s.winSize e) d, retain := if warm then x.retain else none,
    stop := false, want := .none, replay := [], restart := some ⟨warm, cause⟩, await := false }
  let s := (s.wr (LE_Ee_RESTART_KIND e) (if warm then 2 else 1)).wr (LE_Ee_RESTART_CAUSE e) cause
  let s := (s.wr (LE_Ee_RESTART_SOURCE e) (if !warm then 0 else if nand then 2 else 1)).wr (LE_Ee_RESTART_WHYCOLD e) why
  let s := (s.wr (LE_Ee_DBG_STAT_HALTED e) 0).wr (LE_Ee_DBG_STAT_QFILL e) 0
  ((s.wr (LE_Ee_STAT_STATE e) leRestarting).publishInvalid e).settleOwner e

/-- The shadow that a start by command loads is the engine's program from then on. -/
def State.restartLoad (s : State) (e cause : Nat) : State :=
  match cause, (s.engine e).shadow with
  | 1, some p =>
    if s.rd (LE_Ee_STAT_SHADOW e) = 2 ∨ s.rd (LE_Ee_STAT_SHADOW e) = 4 then (s.install e p).syncForces e else s
  | _, _ => s

/-- A restart of engine e, warm or cold as asked, with the code of LE_Ee_RESTART.CAUSE; `bad` says that the NAND retain
copy fails its CRC. After a power-on the source is the NAND copy, otherwise the retain shadow. -/
def State.leRestart (s : State) (e : Nat) (warm : Bool) (cause : Nat) (bad : Bool) : State :=
  let laneFail := s.leState e == leFaulted && s.rd (LE_Ee_FAULT_CODE e) == flLane
  let u := (s.restartLoad e cause).wr (PWR_UNIT_UNIT (4 + e)) 0
  match (u.engine e).prog with
  | none => u
  | some p =>
    let x := u.engine e
    let nand := cause == 0 && !u.flag SYS_RSTCAUSE_LETTER
    let first := if cause = 0 ∧ p.cold then 5 else if cause = 1 ∧ laneFail then 6 else 0
    let q := if warm && first == 0 && !nand then u.seeShadow e (0x10 + e) 0 else (false, u)
    let u := q.2
    let why :=
      if !warm then 0
      else if first ≠ 0 then first
      else u.retainWhy e p (if nand then x.nand else x.retain) (if nand then bad else q.1)
    match (if warm && why == 0 && cause != 0 then some u else u.formLanes e) with
    | none =>
      ((((u.wr (LE_Ee_STAT_STATE e) (if cause = 0 then leUnloaded else leStopped)).leIdle e).publishInvalid e).settleOwner e).poolEmpty
    | some v => v.restartFrom e p (warm && why == 0) nand cause why

/-! ### What a stand reaches (R163, R164, R210) -/

/-- The engine and the offset in its 4 MiB range, where an aligned access of n bytes lies in a bank or in data memory.
-/
def leWhere (a n : Nat) : Option (Nat × Nat) :=
  let e := a / 0x400000 % 4
  let off := a % 0x400000
  if !inRange 0x20000000 0x21000000 a ∨ a % n ≠ 0 ∨ 0x280000 < off + n then none else some (e, off)

/-- The row of an offset in an engine's range: of a bank or of data memory. -/
def leRowOf (e off : Nat) : Nat × Nat :=
  if off < 0x200000 then (4, e * 2 ^ 16 + off / 0x100000 * 2 ^ 15 + off % 0x100000 / 32)
  else (5, e * 2 ^ 14 + off % 0x80000 / 32)

/-- A load of n bytes by a stand or the debug transport. -/
def State.leLoadAt (s : State) (master cause a n : Nat) : State :=
  match leWhere a n with
  | none => s.answer .loadFault
  | some (e, off) =>
    let q := s.seeRows master cause [leRowOf e off]
    if q.1 then q.2.answer .loadFault else q.2.answer (.ok (leNat (q.2.leBytesAt a n)))

/-- A stand store: only a range inside the host window of an engine is accepted, into the host staging copy. -/
def State.leStoreAt (s : State) (a : Nat) (bs : List Byte) : State :=
  match leWhere a bs.length with
  | none => s.answer .storeFault
  | some (e, off) =>
    let w := 0x200000 + s.winBase e
    if w ≤ off ∧ off + bs.length ≤ w + s.winSize e then
      let st := padTo (s.winSize e) (s.engine e).staging
      let k := off - w
      let s := s.setEngine e { s.engine e with staging := st.take k ++ bs ++ st.drop (k + bs.length) }
      (s.unitWrite (((List.range bs.length).map (a + ·)).zip bs)).answer .done
    else s.answer .storeFault

end Sys2Proof.Machine
end

