-- ==== Sys2Proof/Machine/Recorder.lean ====
section
/-!
DEFINITION. The event recorder (R473 to R498): acceptance into staging, flushing to NAND, overload and gap records,
reading, starts and resets.
-/

namespace Sys2Proof.Machine

/-! ### Building and staging records -/

/-- The 24-byte header of a record (R473, R474). -/
def recHeader (len cls src flags kind seq time : Nat) : List Byte :=
  leBytes 2 len ++ [byteOf cls, byteOf src, byteOf flags, byteOf kind, 0, 0] ++ leBytes 8 seq ++ leBytes 8 time

/-- FLAGS bits [2:0] of R474. -/
def recFlags (hw heart tsync : Bool) : Nat := b2n hw + 2 * b2n heart + 4 * b2n tsync

/-- The HWN in use (R484, R495): what key apply has set. Before it, the default. -/
def State.hwn (s : State) : Nat := if s.pw.start.applied then s.rd REC_LAYOUT_HWN else 0x100000

/-- Records that Heartwood holds or that staging holds for it, and their bytes. -/
def State.heartCount (s : State) : Nat := s.rcd.heart.length + (s.rcd.staged.filter (·.heart)).length
def State.heartBytes (s : State) : Nat :=
  (s.rcd.heart.map (·.bytes.length)).sum + ((s.rcd.staged.filter (·.heart)).map (·.bytes.length)).sum

/-- Whether accepted records also go to Heartwood (R484): it has opened, it has not closed, its area is not full, the
start is LOADED, and it holds fewer than HWN. -/
def State.heartLive (s : State) : Bool :=
  s.rcd.heartOpen && !s.rcd.heartFull && !s.rcd.heartClosed && s.rd KEY_STAT_STATE == 1 && decide (s.heartCount < s.hwn)

/-- Whether an accepted record of a length also goes to Heartwood: there is room in its area as well. -/
def State.heartTakes (s : State) (len : Nat) : Bool := s.heartLive && decide (s.heartBytes + len ≤ 2 ^ 30)

/-- Bytes staged. -/
def State.fill (s : State) : Nat := s.rd REC_STG_BYTES

/-- Whether staging has room for a record of a class (R487: the last 16 KiB are reserved). -/
def State.stagingRoom (s : State) (cls len : Nat) : Bool :=
  decide (s.fill + len ≤ if reservedClass cls then 0x100000 else 0x100000 - 0x4000)

/-- Start a flush, or join the running one (R481). Its first page takes what is staged now. -/
def State.startFlush (s : State) (untilEmpty : Bool) : State :=
  match s.rcd.flush with
  | some f => { s with rcd := { s.rcd with flush := some { f with untilEmpty := f.untilEmpty || untilEmpty } } }
  | none => { s with rcd := { s.rcd with flush := some ⟨untilEmpty, s.now, min 4096 s.fill⟩ } }.wr REC_STAT_FLUSHING 1

/-- Whether n bytes from a cover a whole row of shared SRAM. -/
def coversRow (a n row : Nat) : Bool := decide (a ≤ sramBase + 32 * row) && decide (sramBase + 32 * row + 32 ≤ a + n)

/-- Bytes that the recorder writes into staging: rows are encoded afresh, but one that is uncorrectable stays so
unless it is written whole (R437, R438). -/
def State.stagingStore (s : State) (a : Nat) (bs : List Byte) : State :=
  let s := (rowsAt a bs.length).foldl (fun s r =>
    if s.rowBad r.1 r.2 && !coversRow a bs.length r.2 then s else (s.setErr r.1 r.2 0).rowWritten r.1 r.2) (s.putBytes a bs)
  s.unitWrite ((List.range bs.length).zip bs |>.map fun e => (a + e.1, e.2))

/-- The bytes of a record laid into the staging ring from an offset on (R479). -/
def State.putRing (s : State) (off : Nat) (bs : List Byte) : State :=
  let o := off % 0x100000
  let n := 0x100000 - o
  let s := s.stagingStore (sramBase + stagingOff + o) (bs.take n)
  if bs.length ≤ n then s else s.stagingStore (sramBase + stagingOff) (bs.drop n)

/-- A record enters staging and is accepted (R478): it takes the next SEQ, and a fill of 512 KiB or a class marked so
starts a flush (R481). `bytes` builds the record from its SEQ and its HEART flag. -/
def State.stage (s : State) (cls : Nat) (flushes : Bool) (bytes : Nat → Bool → List Byte) : State :=
  let seq := s.rcd.next
  let heart := s.heartTakes (bytes seq true).length
  let full := s.rcd.heartFull || (s.heartLive && !heart)
  let bs := bytes seq heart
  let s := s.putRing s.rcd.head bs
  let s := { s with rcd := { s.rcd with
    next := seq + 1
    heartFull := full
    staged := s.rcd.staged ++ [(⟨seq, cls, s.rcd.head, bs, heart⟩ : Staged)]
    head := (s.rcd.head + bs.length) % 0x100000 } }
  let s := s.wr REC_STG_BYTES (s.fill + bs.length)
  let s := if 0x80000 ≤ s.fill then s.startFlush false else s
  if flushes then s.startFlush true else s

/-- A record offered between flush entry and the building of the SEAL record is refused and counted (R492). -/
def State.refuseOne (s : State) : State :=
  if s.pw.sealed then s else { s with pw := { s.pw with refused := s.pw.refused + 1 } }

/-- The recorder writes a SYSTEM record of its own (R478, R493), padded to a multiple of 8 bytes; nothing is accepted
after the seal point (R492). -/
def State.sysRecord (s : State) (kind cls : Nat) (flushes : Bool) (payload : List Byte) : State :=
  let body := payload ++ List.replicate ((8 - payload.length % 8) % 8) 0
  if s.pw.phase = .flush then s.refuseOne
  else if s.stagingRoom cls (24 + body.length) then
    s.stage cls flushes fun seq heart =>
      recHeader (24 + body.length) cls 0 (recFlags true heart s.tsync) kind seq s.now ++ body
  else s.dropRecord cls 0 s.now

/-- The payload of the gap record (R488). -/
def gapPayload (d : Drops) (lastSeq : Nat) : List Byte :=
  leBytes 8 d.firstSeq ++ leBytes 8 lastSeq ++ leBytes 8 d.firstTime ++ leBytes 8 d.lastTime ++
  leBytes 4 (sat 32 d.total) ++ [byteOf d.bySrc.length, byteOf d.byCls.length, 0, 0] ++
  (d.bySrc.map fun e => [byteOf e.1, 0] ++ leBytes 2 (sat 16 e.2)).flatten ++
  (d.byCls.map fun e => [byteOf e.1, 0] ++ leBytes 2 (sat 16 e.2)).flatten

/-- OVERLOAD ends when fill is below 512 KiB and fewer than 1024 descriptors are queued: the gap record is accepted and
source 210 raised (R488). -/
def State.leaveOverload (s : State) : State :=
  match s.rcd.drops with
  | none => s
  | some d =>
    if s.flag REC_STAT_OVERLOAD && s.pw.phase != .flush && decide (s.fill < 0x80000) && decide (s.rcd.queue.length < 1024) then
      let s := s.sysRecord 0x04 8 true (gapPayload d (s.rcd.next - 1))
      let s := { s with rcd := { s.rcd with drops := none } }
      ((s.wr REC_STAT_OVERLOAD 0).wr REC_STAT_GAPEV 1).raise 210
    else s

/-! ### Acceptance -/

/-- The 40 bytes of a hardware record (R477). -/
def hwBytes (cls src kind obj w0 w1 time : Nat) (tsync : Bool) (seq : Nat) (heart : Bool) : List Byte :=
  recHeader 40 cls src (recFlags true heart tsync) kind seq time ++
  leBytes 2 obj ++ [0, 0] ++ leBytes 4 w0 ++ leBytes 4 w1 ++ leBytes 4 0

/-- Whether a class starts a flush until staging is empty (R475). -/
def flushClass (cls : Nat) : Bool := cls == 1 || cls == 2

/-- A submission ends: BUSY clears with DONE, DROP or FAIL (R480). -/
def State.endSubmit (s : State) (h : Nat) (f : Fld) : State := (s.wr (REC_Hh_STAT_BUSY h) 0).wr f 1

/-- The recorder takes one descriptor (R478): it is accepted into staging or dropped (R487). `bad` says that a source
row of a firmware record was uncorrectable (ERR 0x6). -/
def State.acceptDesc (s : State) (d : Desc) (bad : Bool) : State :=
  match d with
  | .hw cls src kind obj w0 w1 time ts =>
    if (s.flag REC_STAT_OVERLOAD && !reservedClass cls) || !s.stagingRoom cls 40 then s.dropRecord cls src s.now
    else s.stage cls (flushClass cls) (hwBytes cls src kind obj w0 w1 time ts)
  | .fw h off len cls =>
    let q := s.seeRange 0x20 3 (sramBase + off) len
    let s := q.2
    if bad || q.1 then (s.endSubmit h (REC_Hh_STAT_FAIL h)).wr (REC_Hh_STAT_ERR h) 6
    else if (s.flag REC_STAT_OVERLOAD && !reservedClass cls) || !s.stagingRoom cls len then
      (s.dropRecord cls (0x20 + h) s.now).endSubmit h (REC_Hh_STAT_DROP h)
    else
      let src := s.seen (sramBase + off) len
      let ts := s.tsync
      let time := s.now
      let seq := s.rcd.next
      let s := s.stage cls (flushClass cls) fun seq heart =>
        recHeader len cls (0x20 + h) (recFlags false heart ts) ((src.getD 5 0).toNat) seq time ++ src.drop 24
      (s.endSubmit h (REC_Hh_STAT_DONE h)).wr (REC_Hh_STAT_SEQ h) seq

/-- Whether the recorder may take a descriptor now: it is not SEALED, and this start's START record is written or the
descriptor was queued before the module reset (R491); in Slumber records wait (R506). -/
def State.mayAccept (s : State) : Bool :=
  s.rd REC_STAT_STATE != 2 && (s.pw.start.recStart || decide (0 < s.rcd.early)) && s.pw.phase == .running &&
    !(s.pmg.low.any fun (l : LowPower) => l.reached)

/-- RECORD_ACCEPT (R478). -/
def State.recordAccept (s : State) (bad : Bool) : State :=
  match s.rcd.queue with
  | [] => s
  | d :: q =>
    if s.mayAccept then
      let s := s.setQueue q
      let s := { s with rcd := { s.rcd with early := s.rcd.early - 1 } }
      (s.acceptDesc d bad).leaveOverload
    else s

def execRecordAccept (bad : Bool) (t : Nat) (s : State) : Host.Outcome State Fault Refusal :=
  .next ((s.begin t).recordAccept bad)

/-- Whether firmware may submit a class: SAFETY, SYSTEM and undefined classes are refused (R480). -/
def fwClass (cls : Nat) : Bool := (1 ≤ cls && cls ≤ 5) || cls == 7

/-- The ERR of a submission, 0 when it is taken (R480): length, class, range, busy, sealed, the first that holds. -/
def State.submitErr (s : State) (h off : Nat) : Nat :=
  let len := leNat (s.bytes (sramBase + off) 2)
  let cls := (s.byte (sramBase + off + 2)).toNat
  if len < 24 || 4096 < len || len % 8 != 0 then 1
  else if !fwClass cls then 2
  else if stagingOff < off + len then 3
  else if s.flag (REC_Hh_STAT_BUSY h) then 4
  else if s.rd REC_STAT_STATE == 2 then 5
  else 0

/-- A firmware record is submitted by hart h (R480). -/
def State.submit (s : State) (h : Nat) : State :=
  let off := 8 * s.rd (REC_Hh_ADDR_OFF h)
  let e := s.submitErr h off
  if e ≠ 0 then (s.wr (REC_Hh_STAT_FAIL h) 1).wr (REC_Hh_STAT_ERR h) e
  else
    let len := leNat (s.bytes (sramBase + off) 2)
    let cls := (s.byte (sramBase + off + 2)).toNat
    let s := s.wr (REC_Hh_STAT_BUSY h) 1
    let r := s.offer (.fw h off len cls) cls (0x20 + h) s.now
    if r.1 then r.2 else r.2.endSubmit h (REC_Hh_STAT_DROP h)

/-- RECORD_SUBMIT (R480): a write from any hart other than h, or from a SPLIT lane without leave (R110), raises a store
access fault. Nothing leaves a hart that does not run (R107, R120). -/
def execRecordSubmit (writer h : Fin 12) (t : Nat) (s : State) : Host.Outcome State Fault Refusal :=
  let s := s.begin t
  .next (if !s.hartRuns writer then s
    else if writer = h && s.deviceOpen writer 0x10C00000 then (s.submit h).answer .done else s.answer .storeFault)

/-! ### Flushing to NAND -/

/-- RECORDER_FLUSH_TIMER (R481): 1 s after the last flush ended, with anything staged. -/
def State.flushTimer (s : State) : State :=
  if s.rcd.flush.isNone && decide (0 < s.fill) && decide (s.rcd.lastFlushEnd + 1000000000 ≤ s.now) then s.startFlush true
  else s

def execRecorderFlushTimer (t : Nat) (s : State) : Host.Outcome State Fault Refusal :=
  .next (s.begin t).flushTimer

/-- What one page takes of the staged records: the records completed with the page each begins in, the records left,
and the bytes of the first of them that the page took with its first page. -/
def takePage (page : Nat) : Nat → Nat → Nat → List Staged → List (Staged × Nat) × List Staged × Nat × Nat
  | _, cut, cutPage, [] => ([], [], cut, cutPage)
  | room, cut, cutPage, r :: rs =>
    let first := if cut = 0 then page else cutPage
    if r.bytes.length ≤ cut + room then
      let q := takePage page (room - (r.bytes.length - cut)) 0 page rs
      ((r, first) :: q.1, q.2)
    else ([], r :: rs, cut + room, first)

/-- Pages of Rings go: the records that begin in them, and their spare areas. A read that runs keeps those of its range,
which it may have copied before (R496). -/
def State.ringsDrop (s : State) (drop : Nat → Bool) : State :=
  let lost := s.rcd.rings.filter fun x => drop x.page
  { s with rcd := { s.rcd with
    rings := s.rcd.rings.filter fun x => !drop x.page
    spares := s.rcd.spares.filter fun x => x.heart || !drop x.page
    read := s.rcd.read.map fun (r : ReadRun) =>
      if r.heart then r else { r with gone := r.gone ++ lost.filter fun x => decide (r.seq ≤ x.seq) } } }

/-- The erase before the first page of a Rings block is programmed: the records that begin in that block go (R485). -/
def State.eraseFor (s : State) (page : Nat) : State :=
  let cap := s.rcd.ringCap * 64
  if page % 64 = 0 ∧ cap ≤ page then s.ringsDrop fun p => decide (p + cap < page + 64) else s

/-- The CRC-32C of a spare area (R483), over the SEQ in eight bytes, all ones where no record begins, the area in one
byte and the lap count in four (DESIGN CHOICE, log entry 109). -/
def spareCrc (heart : Bool) (first : Option Nat) (lap : Nat) : Nat :=
  crc32c (leBytes 8 (first.getD (2 ^ 64 - 1)) ++ [byteOf (b2n heart)] ++ leBytes 4 lap)

/-- The Rings lap that a page belongs to. -/
def State.lapOf (s : State) (page : Nat) : Nat := page / (s.rcd.ringCap * 64)

/-- A page of Rings is programmed with n bytes of records: its spare area, its pad, and the bytes that count for R486.
-/
def State.ringsPage (s : State) (n : Nat) (first : Option Nat) : State :=
  let page := s.rcd.pages
  let lap := s.lapOf page
  let min_ := s.now / 60000000000
  { s with rcd := { s.rcd with
    spares := s.rcd.spares ++ [(⟨false, page, first, lap, spareCrc false first lap, 4096 - n⟩ : PageSpare)]
    wrote := tblSet 0 min_ (tblGet 0 min_ s.rcd.wrote + 4096) (tblKeep (fun k => decide (min_ ≤ k + 1440)) s.rcd.wrote)
    pages := page + 1 } }

/-- A record goes to Heartwood, whose pages its records fill one after another (DESIGN CHOICE, log entry 109). -/
def State.heartAdd (s : State) (seq : Nat) (bs : List Byte) : State :=
  let page := (s.rcd.heart.map (·.bytes.length)).sum / 4096
  let known := s.rcd.spares.any fun x => x.heart && x.page == page
  { s with rcd := { s.rcd with
    heart := s.rcd.heart ++ [(⟨seq, page, bs⟩ : NandRec)]
    spares := if known then s.rcd.spares
      else s.rcd.spares ++ [(⟨true, page, some seq, 0, spareCrc true (some seq) 0, 0⟩ : PageSpare)] } }

/-- Heartwood closes (R484): REC_HW_CNT shows it, source 211 and a HWCLOSED record report it. -/
def State.closeHeart (s : State) : State :=
  let s := { s with rcd := { s.rcd with heartClosed := true } }
  let s := s.wr REC_HW_CNT_CLOSED 1
  (s.sysRecord 0x08 8 false (leBytes 4 s.rcd.heart.length ++ leBytes 4 0)).raise 211

/-- Completed records are readable in Rings, and in Heartwood where HEART is set; Heartwood closes when it holds HWN
records, which key apply must have named (R495), or when the first record for which its area has no room has come and
those before it are written (R484). -/
def State.land (s : State) (recs : List (Staged × Nat)) : State :=
  let hs := recs.filter (·.1.heart)
  let s := { s with rcd := { s.rcd with
    rings := s.rcd.rings ++ recs.map fun (r : Staged × Nat) => (⟨r.1.seq, r.2, r.1.bytes⟩ : NandRec) } }
  let s := hs.foldl (fun s r => s.heartAdd r.1.seq r.1.bytes) s
  match s.rcd.heart with
  | [] => s
  | r :: _ =>
    let s := (s.wr64 REC_HW_FIRST_LO REC_HW_FIRST_HI r.seq).wr REC_HW_CNT_CNT s.rcd.heart.length
    let full := s.rcd.heartFull && !(s.rcd.staged.any (·.heart))
    let more := !s.pw.start.applied || decide (s.rcd.heart.length < s.hwn)
    if s.rcd.heartClosed || (more && !full) then s else s.closeHeart

/-- A flush ends: FLUSHING clears, FLUSHEV sets, its length is reported, source 208 is raised (R481, R497). -/
def State.endFlush (s : State) (began : Nat) : State :=
  let us := (s.now - began) / 1000
  let s := { s with rcd := { s.rcd with flush := none, lastFlushEnd := s.now } }
  let s := (s.wr REC_STAT_FLUSHING 0).wr REC_STAT_FLUSHEV 1
  ((s.wr REC_FLUSH_LAST (sat 32 us)).maxWr REC_FLUSH_MAX us).raise 208

/-- Whether a record has a byte in a 32-byte row of the staging ring. -/
def inRow (row : Nat) (r : Staged) : Bool :=
  (List.range r.bytes.length).any fun i => (r.pos + i) % 0x100000 / 32 == row

/-- An uncorrectable staging row (R494): every record with a byte in it is not written. Outside flush mode an STGLOSS
record follows and source 215 is raised; in flush mode the SEAL counts the loss. -/
def State.loseRow (s : State) (row : Nat) : State :=
  let lost := s.rcd.staged.filter (inRow row)
  match lost with
  | [] => s
  | f :: _ =>
    let last := (lost.getLast?.getD f).seq
    let cutLost := match s.rcd.staged with | [] => false | r :: _ => inRow row r
    let n := (lost.map (·.bytes.length)).sum - (if cutLost then s.rcd.cut else 0)
    let s : State := { s with rcd := { s.rcd with
      staged := s.rcd.staged.filter (fun r => !inRow row r)
      cut := if cutLost then 0 else s.rcd.cut } }
    let s := s.wr REC_STG_BYTES (s.fill - n)
    if s.pw.phase = .flush then { s with pw := { s.pw with stgLost := s.pw.stgLost + lost.length } }
    else
      let s := s.wr REC_STAT_LOSSEV 1
      (s.sysRecord 0x05 1 true (leBytes 8 f.seq ++ leBytes 8 last ++ leBytes 4 lost.length ++ leBytes 4 0)).raise 215

/-- One page is programmed from staging (R481, R482): what was staged when its program began. Its staging space is
freed, the records whose last byte it holds become readable, OVERLOAD may end, and the flush ends at its limit. -/
def State.programPage (s : State) : State :=
  match s.rcd.flush with
  | none => s
  | some f =>
    let page := s.rcd.pages
    let s := s.eraseFor page
    let n := min (if f.size = 0 then 4096 else f.size) s.fill
    let q := takePage page n s.rcd.cut s.rcd.cutPage s.rcd.staged
    let begun := if q.2.2.1 ≠ 0 ∧ q.2.2.2 = page then q.2.1.head?.map (·.seq) else none
    let first := ((q.1.find? fun x => x.2 == page).map (·.1.seq)).or begun
    let s : State := { s with rcd := { s.rcd with staged := q.2.1, cut := q.2.2.1, cutPage := q.2.2.2 } }
    let s := if n = 0 then s else s.ringsPage n first
    let s := (s.wr REC_STG_BYTES (s.fill - n)).land q.1
    let s := s.leaveOverload
    let s : State := { s with rcd := { s.rcd with flush := s.rcd.flush.map fun (g : Flush) =>
      { g with began := f.began, size := min 4096 s.fill } } }
    let unt := match s.rcd.flush with | some g => g.untilEmpty | none => f.untilEmpty
    if (unt && s.fill == 0) || (!unt && decide (s.fill < 4096)) then s.endFlush f.began else s

/-- The records that the next page takes bytes of. -/
def State.pageRecords (s : State) : List Staged :=
  let n := match s.rcd.flush with | some f => if f.size = 0 then 4096 else f.size | none => 4096
  let q := takePage s.rcd.pages (min n s.fill) s.rcd.cut s.rcd.cutPage s.rcd.staged
  q.1.map (·.1) ++ q.2.1.take 1

/-- The staging rows with an error pattern, by their row in the buffer. -/
def State.stagingErr (s : State) : List Nat :=
  (s.errRows fun memid row => memid == 2 && inRange (stagingOff / 32) 0x80000 row).map fun r => r.2 - stagingOff / 32

/-- A flush reads a staging row: the records with a byte in it are lost where it is uncorrectable (R494). -/
def State.flushReads (s : State) (r : Nat) : State :=
  if s.pageRecords.any (inRow r) then
    let q := s.seeRows 0x20 3 [(2, stagingOff / 32 + r)]
    if q.1 then q.2.loseRow r else q.2
  else s

/-- A flush reads the records of a page: first come the rows that cost records, whose place others take. -/
def State.loseBad (s : State) : Nat → State
  | 0 => s.stagingErr.foldl State.flushReads s
  | n + 1 =>
    match s.stagingErr.find? fun r => s.rowBad 2 (stagingOff / 32 + r) && s.pageRecords.any (inRow r) with
    | some r => (s.flushReads r).loseBad n
    | none => s.loseBad 0

/-- PAGE_PROGRAMMED (R481): `lost` names a staging row that the flush found uncorrectable (R494). -/
def execPageProgrammed (lost : Option Nat) (t : Nat) (s : State) : Host.Outcome State Fault Refusal :=
  let s := s.begin t
  .next (if s.rcd.resetting || s.rcd.flush.isNone then s
    else
      let s := match lost with | none => s | some row => s.loseRow row
      (s.loseBad s.ecc.err.length).programPage)

/-! ### Reading -/

/-- Oldest and newest readable SEQ of Rings; 0 where it holds none. -/
def State.oldest (s : State) : Nat := match s.rcd.rings with | [] => 0 | r :: _ => r.seq
def State.newest (s : State) : Nat := match s.rcd.rings.getLast? with | none => 0 | some r => r.seq

/-- OLDEST_READ (R490): the value of REC_OLDEST_LO, which latches the next three registers. -/
def State.oldestRead (s : State) : State :=
  let s := (s.wr64 REC_OLDEST_LO REC_OLDEST_HI s.oldest).wr64 REC_NEWEST_LO REC_NEWEST_HI s.newest
  s.answer (.ok (s.rd REC_OLDEST_LO))

def execOldestRead (t : Nat) (s : State) : Host.Outcome State Fault Refusal := .next (s.begin t).oldestRead

/-- NEXT_READ (R498): the value of REC_NEXT_LO, which latches REC_NEXT_HI. -/
def State.nextRead (s : State) : State :=
  let s := s.wr64 REC_NEXT_LO REC_NEXT_HI s.rcd.next
  s.answer (.ok (s.rd REC_NEXT_LO))

def execNextRead (t : Nat) (s : State) : Host.Outcome State Fault Refusal := .next (s.begin t).nextRead

/-- The records of an area. -/
def State.area (s : State) (heart : Bool) : List NandRec := if heart then s.rcd.heart else s.rcd.rings

/-- The ERR of a read start, 0 when it runs (R489). -/
def State.readErr (s : State) (heart : Bool) (seq dst len : Nat) : Nat :=
  let recs := s.area heart
  if s.rcd.read.isSome then 7
  else match recs, recs.getLast? with
    | first :: _, some last =>
      if seq < first.seq then 1
      else if last.seq < seq then (if heart then 1 else 2)
      else if stagingOff < dst + len then 5
      else 0
    | _, _ => if heart then 1 else 2

/-- A read fails or is refused: FAIL and ERR, source 213 (R489). -/
def State.readFail (s : State) (e : Nat) : State :=
  ((s.wr REC_RD_STAT_FAIL 1).wr REC_RD_STAT_ERR e).raise 213

/-- RECORD_READ_START (R489). -/
def State.readStart (s : State) (heart : Bool) : State :=
  let seq := s.rd64 REC_RD_SEQ_LO REC_RD_SEQ_HI
  let dst := 32 * s.rd REC_RD_DST_OFF
  let len := 32 * s.rd REC_RD_LEN_LEN
  let e := s.readErr heart seq dst len
  if e ≠ 0 then s.readFail e
  else
    let s := { s with rcd := { s.rcd with read := some ⟨seq, heart, dst, len, []⟩ } }
    ((s.wr REC_RD_STAT_BUSY 1).wr REC_RD_STAT_RECS 0).wr REC_RD_STAT_ERR 0

def execRecordReadStart (heart : Bool) (t : Nat) (s : State) : Host.Outcome State Fault Refusal :=
  let s := s.begin t
  .next (if s.pw.phase == .running then (s.readStart heart).answer .done else s)

/-- The records a read copies: from its SEQ on, at most `n`, while they fit. -/
def fitRecs : Nat → Nat → List NandRec → List NandRec
  | 0, _, _ => []
  | _, _, [] => []
  | n + 1, room, r :: rs => if r.bytes.length ≤ room then r :: fitRecs n (room - r.bytes.length) rs else []

/-- The records of the range of a read, in order: those erased since it began, and those still there. -/
def State.readRange (s : State) (r : ReadRun) : List NandRec :=
  r.gone ++ (s.area r.heart).filter fun x => decide (r.seq ≤ x.seq)

/-- Copy the records of a running read into shared SRAM, whole rows, the last padded with zero (R489). -/
def State.copyRead (s : State) (r : ReadRun) (n : Nat) : State :=
  let recs := fitRecs n r.len (s.readRange r)
  let bs := (recs.map (·.bytes)).flatten
  let bs := bs ++ List.replicate ((32 - bs.length % 32) % 32) 0
  let s := s.store (sramBase + r.dst) bs
  let s := s.wr REC_RD_STAT_RECS (sat 24 recs.length)
  let s := match recs.getLast? with | none => s | some x => s.wr64 REC_RD_LAST_LO REC_RD_LAST_HI x.seq
  { s with rcd := { s.rcd with read := none } }.wr REC_RD_STAT_BUSY 0

/-- RECORD_READ_DONE (R489): `err` is 0 for a read that ended at its limit or at the newest record, 3 for an erased
block, 4 for an uncorrectable page; `n` bounds the records copied before an error. A read that an erase has passed stops
at the erased block with ERR 0x3 (R496), unless it had copied all that went. -/
def State.readDone (s : State) (err n : Nat) : State :=
  match s.rcd.read with
  | none => s
  | some r =>
    let err := if err = 0 ∧ n < r.gone.length then 3 else err
    if err = 0 then (((s.copyRead r (s.readRange r).length).wr REC_RD_STAT_DONE 1).raise 213)
    else (s.copyRead r (if err = 3 ∧ r.gone ≠ [] then min n r.gone.length else n)).readFail err

def execRecordReadDone (err : Fin 8) (n t : Nat) (s : State) : Host.Outcome State Fault Refusal :=
  .next ((s.begin t).readDone (if err.val = 3 ∨ err.val = 4 then err.val else 0) n)

/-- A running read ends with ERR 0x6 after `n` records. -/
def State.readAbort (s : State) (n : Nat) : State :=
  match s.rcd.read with
  | none => s
  | some r => (s.copyRead r n).readFail 6

/-- RECORD_READ_ABORT (R489). -/
def execRecordReadAbort (n t : Nat) (s : State) : Host.Outcome State Fault Refusal :=
  .next (((s.begin t).readAbort n).answer .done)

/-! ### Resets and starts -/

/-- Whether an address lies in the REC_ block. -/
def recBlock (a : Nat) : Bool := areaAt a == .recd || areaAt a == .ingress

/-- RECORDER_RESET (R496): the flush engine is reset; staged records, the sequence and OVERLOAD are kept; a read ends
with ERR 0x6. -/
def State.recorderReset (s : State) (n : Nat) : State :=
  let r := s.rcd.read
  let s := s.restore (·.f) recBlock
  let s := { s with rcd := { s.rcd with resetting := true } }
  match r with
  | none => s
  | some _ => s.readAbort n

def execRecorderReset (n t : Nat) (s : State) : Host.Outcome State Fault Refusal :=
  let s := s.begin t
  .next (if s.pw.phase == .running then (s.recorderReset n).answer .done else s)

/-- RECORDER_RESET_DONE (R496). -/
def execRecorderResetDone (t : Nat) (s : State) : Host.Outcome State Fault Refusal :=
  .next { s.begin t with rcd := { s.rcd with resetting := false } }

/-- Whether the newest record that NAND holds is a SEAL: `none` where it holds no record (R493). -/
def State.foundSeal (s : State) : Option Bool :=
  s.rcd.rings.getLast?.map fun r => r.bytes.getD 2 0 == 8 && r.bytes.getD 3 0 == 0 && r.bytes.getD 5 0 == 2

/-- What Heartwood holds is shown at each start, and it closes where the key sets an HWN no greater than that (R484). -/
def State.heartAtStart (s : State) : State :=
  let s := match s.rcd.heart with
    | [] => s
    | r :: _ => (s.wr64 REC_HW_FIRST_LO REC_HW_FIRST_HI r.seq).wr REC_HW_CNT_CNT s.rcd.heart.length
  let s := s.wrB REC_HW_CNT_CLOSED s.rcd.heartClosed
  if s.rcd.heartOpen && !s.rcd.heartClosed && s.rd KEY_STAT_STATE == 1 && decide (s.hwn ≤ s.rcd.heart.length) then s.closeHeart
  else s

/-- The recorder writes a record of its own that arises during a start or at a join: directly into staging (R478), but
after START, which it waits for (R491). -/
def State.selfRecord (s : State) (kind cls : Nat) (payload : List Byte) : State :=
  if s.pw.start.recStart then s.sysRecord kind cls (flushClass cls) payload
  else { s with rcd := { s.rcd with own := s.rcd.own ++ [(kind, cls, payload)] } }

/-- The staging buffer is written in whole rows before it is first used after a power-on (R479): its rows are sound,
with content that the spec leaves open. -/
def State.stagingFill (s : State) : State :=
  ({ s with mem := s.mem.filter fun x => !inRange (sramBase + stagingOff) (sramBase + 0x1000000) x.1 } : State).rowsWritten 2
    (stagingOff / 32) 0x8000

/-- The records that waited for START follow it. -/
def State.ownFollow (s : State) : State :=
  let q := s.rcd.own
  q.foldl (fun s x => s.sysRecord x.1 x.2.1 (flushClass x.2.1) x.2.2) { s with rcd := { s.rcd with own := [] } }

/-- START, and after a power-on without a SEAL the UNSEALED record that names the newest record of Rings. -/
def State.startRecords (s : State) (power : Bool) (found : Option Bool) (newest : Option NandRec) : State :=
  let s := s.sysRecord 0x01 8 false
    ([byteOf (s.rd SYS_RSTCAUSE_LETTER + 16 * s.rd SYS_RSTCAUSE_CAUSE), byteOf (s.rd KEY_STAT_STATE),
      match found with | none => 0xFF | some true => 1 | some false => 0] ++ leBytes 5 0)
  match power, found, newest with
  | true, some false, some r => (s.wr REC_STAT_UNSEALED 1).sysRecord 0x03 8 false (leBytes 8 r.seq ++ slice 16 8 r.bytes)
  | true, _, _ => s.wr REC_STAT_UNSEALED 0
  | false, _, _ => s

/-- RECORDER_START (R491): once the key state is known and the descriptors from before a module reset are accepted, the
recorder writes START, after a power-on without a SEAL an UNSEALED record, opens Heartwood at the first LOADED start
(R484), and is RUNNING. -/
def State.recorderStart (s : State) : State :=
  if s.pw.start.recStart || s.rd KEY_STAT_STATE == 0 || decide (0 < s.rcd.early) || s.pw.phase != .running
    || s.pw.exhausted then s
  else
    let found := s.foundSeal
    let newest := s.rcd.rings.getLast?
    let power := s.rd SYS_RSTCAUSE_LETTER == 0
    let s := if power then s.stagingFill else s
    let s := if s.rd KEY_STAT_STATE == 1 then ({ s with rcd := { s.rcd with heartOpen := true } } : State) else s
    let s := s.startRecords power found newest
    let s := { s with pw := { s.pw with start := { s.pw.start with recStart := true } } }
    let s := s.ownFollow.heartAtStart
    let s := (s.wr REC_RINGCAP_BLOCKS s.rcd.ringCap).wr REC_WEAR_LAPS (s.lapOf s.rcd.pages)
    s.wr REC_STAT_STATE 1

def execRecorderStart (t : Nat) (s : State) : Host.Outcome State Fault Refusal := .next (s.begin t).recorderStart

/-- The bytes written to Rings in the last 24 hours, records and padding, as an average in kB/s (R486). They are held by
the minute; of the minute in which the 24 hours begin, `part` bytes count (log entry 110). -/
def State.wroteKbs (s : State) (part : Nat) : Nat :=
  let min_ := s.now / 60000000000
  let whole := ((s.rcd.wrote.filter fun x => decide (min_ < x.1 + 1440)).map (·.2)).sum
  (whole + if min_ < 1440 then 0 else min part (tblGet 0 (min_ - 1440) s.rcd.wrote)) / 86400000

/-- RATE24_UPDATE (R486): a rise of the 24-hour average above 1.5 MB/s sets RATEHI, raises source 212 and writes an
alarm record. -/
def State.rate24 (s : State) (kbs : Nat) : State :=
  let was := s.flag REC_STAT_RATEHI
  let s := s.wr REC_RATE24_KBS (sat 24 kbs)
  if 1500 < kbs then
    let s := s.wr REC_STAT_RATEHI 1
    if was then s else (s.raise 212).record 2 0 212 0xFFFF (some 0x10C00000) (some 0x10C00044)
  else s.wr REC_STAT_RATEHI 0

def execRate24Update (part t : Nat) (s : State) : Host.Outcome State Fault Refusal :=
  let s := s.begin t
  .next (if s.pw.phase == .running then s.rate24 (s.wroteKbs part) else s)

end Sys2Proof.Machine
end

