-- ==== Sys2Proof/Machine/Selftest.lean ====
section
/-!
DEFINITION. Self-test runs and Coppice repair (R455 to R472): the command and depot runs, what a result does to each
target, the repair map and log at a start, post-package repair and NAND block retirement.
-/

namespace Sys2Proof.Machine

/-! ### Targets (R455) -/

/-- The lanes formed in engine e: A and B, and C unless it runs as a pair (R159). -/
def State.leFormed (s : State) (e : Nat) : List Nat :=
  [s.rd (LE_Ee_LANES_LANEA e), s.rd (LE_Ee_LANES_LANEB e)] ++
    (if s.flag (LE_Ee_LANES_PAIR e) then [] else [s.rd (LE_Ee_LANES_LANEC e)])

/-- Whether core c may be tested on command: a spare, a reserve core or a fenced core. -/
def State.coreTestable (s : State) (c : Nat) : Bool :=
  decide (c < 15) && !s.coreRetired c &&
    (s.isSpare c || s.isReserve c || (match s.laneOf c with | some (k, l) => s.laneFenced k l | none => false))

/-- Whether lane l of engine e may be tested on command: the spare lane, a fenced lane, or any lane of an UNLOADED
engine. -/
def State.laneTestable (s : State) (e l : Nat) : Bool :=
  !s.leLaneRetired e l &&
    (s.rd (LE_Ee_STAT_STATE e) == 0 || !(s.leFormed e).contains l || s.bit (LE_Ee_LANES_FENCED e) l)

/-- Whether the target of a bit of BIST_MASK0 may be tested on command. -/
def State.testable0 (s : State) (i : Nat) : Bool :=
  if i < 15 then s.coreTestable i else if i < 16 then false else s.laneTestable ((i - 16) / 4) ((i - 16) % 4)

/-- Whether the target of a bit of BIST_MASK1 may be tested on command: only a check-value unit with EN = 0 and
SAFE = 0. -/
def State.testable1 (s : State) (i : Nat) : Bool :=
  decide (2 ≤ i) && decide (i < 10) && !s.flag (CVU_Uu_CFG_EN (i - 2)) && !s.flag (CVU_Uu_CFG_SAFE (i - 2))

/-- Whether every bit of a mask meets a test. -/
def maskAll (v : Nat) (p : Nat → Bool) : Bool := (List.range 32).all fun i => !bitAt v i || p i

/-- The targets there are in BIST_MASK1: switches, units and memory groups. -/
def mask1Targets : Nat := 0x1F03FF

/-! ### Commands (R460, R461) -/

/-- A command is refused, or a run ends without judging its targets. -/
def State.bistFail (s : State) (err : Nat) : State := (s.wr BIST_STAT_FAIL 1).wr BIST_STAT_ERR err

/-- OP = START: refused for a target that is not testable (0x1) or while a command run is pending or running (0x2);
waits for another run in progress. -/
def State.bistStart (s : State) : State :=
  let r := bistNew .command (s.rd BIST_MASK0) (s.rd BIST_MASK1)
  if !(maskAll r.mask0 s.testable0 && maskAll r.mask1 s.testable1) then s.bistFail 1
  else if s.cop.waiting.isSome || s.cop.run.any (fun (r : BistRun) => decide (r.kind = RunKind.command)) then s.bistFail 2
  else ((s.wr BIST_STAT_BUSY 1).wr BIST_STAT_ERR 0).runAsked r

def execBistStart (t : Nat) (s : State) : Host.Outcome State Fault Refusal :=
  let s := s.begin t
  .next (if s.pw.phase == .running then s.bistStart else s)

/-- OP = DEPOT: arms a depot run with the masks as they stand; a mask bit without a target is refused (0x1). -/
def State.bistDepot (s : State) : State :=
  let r := bistNew .depot (s.rd BIST_MASK0) (s.rd BIST_MASK1)
  if bitAt r.mask0 15 || r.mask1 - (r.mask1 &&& mask1Targets) != 0 then s.bistFail 1
  else { s with cop := { s.cop with depot := some r } }.wr BIST_STAT_ARMED 1

def execBistDepot (t : Nat) (s : State) : Host.Outcome State Fault Refusal :=
  let s := s.begin t
  .next (if s.pw.phase == .running then s.bistDepot else s)

/-- The switches that a run has tested are reset as under R344 and forward again, but for one that failed (R461,
R462). -/
def State.planesAfter (s : State) (r : BistRun) : State :=
  let s := [0, 1].foldl (fun s p => if bitAt r.mask1 p then s.planeResetStart p else s) s
  [0, 1].foldl (fun s p =>
    if bitAt r.mask1 p then
      { s with cnp := { s.cnp with planeReset := setBit s.cnp.planeReset p (bitAt s.cop.planeDead p) } }
    else s) s

/-- Logic BIST destroys the working value and the result of a check-value unit (R457). -/
def State.unitsDestroyed (s : State) (r : BistRun) : State :=
  (List.range 8).foldl (fun s u =>
    if bitAt r.mask1 (2 + u) then
      let (v, s) := s.free
      let (w, s) := s.free
      let s := (s.wr (CVU_Uu_RES_LO u) (v % 2 ^ 32)).wr (CVU_Uu_RES_HI u) (w % 2 ^ 32)
      { s with cvu := { s.cvu with running := tblDel u s.cvu.running } }
    else s) s

/-- The logic targets of a run leave the controller. -/
def State.logicLeft (s : State) (r : BistRun) : State :=
  if r.logic then ((s.bistUnmark r).planesAfter r).unitsDestroyed r else s

/-- The run in progress ends without judging what it has under test; remaps that waited for it are made. -/
def State.bistRelease (s : State) : State :=
  match s.cop.run with
  | none => s
  | some r =>
    let s := s.logicLeft r
    ((({ s with cop := { s.cop with run := none } } : State).wr BIST_STAT_PHASE 0).remapsDue false).syncCores

/-- What an ABORT ends besides the run in progress: a command run that waits, an armed depot run. -/
def State.bistDisarm (s : State) : State :=
  let s := if s.startupAwaited then s else { s with cop := { s.cop with waiting := none } }
  (({ s with cop := { s.cop with depot := none } } : State).wr BIST_STAT_BUSY 0).wr BIST_STAT_ARMED 0

/-- OP = ABORT: an armed or running command or depot run ends with ERR = 0x4; a hard repair in progress completes
first. -/
def State.bistAbort (s : State) : State :=
  let live : Bool := s.cop.run.any fun (r : BistRun) => r.kind != RunKind.startup
  let queued : Bool := s.cop.waiting.any fun (r : BistRun) => r.kind != RunKind.startup
  if live || queued || s.cop.depot.isSome then
    let s := s.bistDisarm
    match s.cop.run with
    | some r =>
      if live && r.todo.head? == some 3 then { s with cop := { s.cop with run := some { r with aborted := true } } }
      else ((if live then s.bistRelease.runOver else s).bistFail 4).raise 39
    | none => (s.bistFail 4).raise 39
  else s

def execBistAbort (t : Nat) (s : State) : Host.Outcome State Fault Refusal := .next (s.begin t).bistAbort

/-! ### Results (R462) -/

/-- A core that has failed; a lane of S0 that it leaves at a start goes to the lowest proven spare. -/
def State.coreFailed (s : State) (c : Nat) (startup werr : Bool) : State :=
  let lane := s.laneOf c
  let s := s.coreLost c werr
  match lane, s.provenSpares with
  | some (0, l), p :: _ => if startup then ((s.wr (laneFld 0 l) p).proveCore p false).syncCores else s
  | _, _ => s

/-- A lane or a target of BIST_MASK1 that passes is marked proven. -/
def State.proveOther (s : State) (i : Nat) : State :=
  { s with cop := { s.cop with provenOther := setBit s.cop.provenOther i true } }

/-- A lane that passes is proven; one that was fenced becomes suspect, and a suspect one is retired (R466). -/
def State.lanePassed (s : State) (e l : Nat) (werr : Bool) : State :=
  let i := 4 * e + l
  let fenced := bitAt s.cop.laneFenced i
  let s : State := (s.proveOther i)
  let s : State := { s with cop := { s.cop with laneFenced := setBit s.cop.laneFenced i false } }
  if fenced then if s.leLaneSuspect e l then s.retireLane e l werr else s.wrBit CPC_LELANE_SUSPECT i true else s

/-- A switch that fails holds its plane in reset until the next start; a unit that fails is held disabled until
power-on. -/
def State.blockFailed (s : State) (i : Nat) : State :=
  if i < 2 then { s with cop := { s.cop with planeDead := setBit s.cop.planeDead i true } }
  else if i < 10 then
    { s with cop := { s.cop with
      unitDead := setBit s.cop.unitDead (i - 2) true
      safeDead := s.cop.safeDead || decide (i < 5) } }.wr (CVU_Uu_CFG_EN (i - 2)) 0
  else s

/-- A row that fails the march is remapped with its content; one that cannot be is counted, and its group fails (R457,
R468). The answer says that it could not. -/
def State.rowFailed (s : State) (werr : Bool) (x : Nat × Nat) : Bool × State :=
  let e := s.rowErr x.1 x.2
  let bad := s.rowBad x.1 x.2
  match s.takeSpare x.1 x.2 0 werr with
  | (true, s) => (false, if bad then s.setErr x.1 x.2 e else s)
  | (false, s) => (true, let s := s.bump CPC_UNREP_ROWS; if spared x.1 then s.poolEmpty else s)

/-- The march of memory group g (R457): the content of each row, decoded, is written back, into a spare row where the
row fails; an uncorrectable row stays so. -/
def State.groupMarched (s : State) (g : Nat) (lost : Bool) (rows : List (Nat × Nat)) (werr : Bool) : Bool × State :=
  let failing := rows.filter fun x => groupBit x.1 == g
  let soft := s.errRows fun memid row => groupBit memid == g && !s.rowBad memid row
  let s := s.settleRows soft
  let s := (soft.filter fun x => !failing.contains x).foldl (fun s x => s.setErr x.1 x.2 0) s
  let (n, s) := failing.foldl (fun (a : Bool × State) x => let q := a.2.rowFailed werr x; (a.1 || q.1, q.2)) (lost, s)
  (n, if n then s else s.proveOther (16 + g))

/-- A depot run repairs every DRAM row on a controller spare or a soft repair for good, and logs it (R465); a row whose
bank group has no free resource stays as it is. `one` says that only the first repair is made. -/
def State.hardRepair (s : State) (noRes : List Nat) (one werr : Bool) : State :=
  let all := s.cop.softRows ++ s.cop.ctlSpare
  let free := all.filter fun x => !noRes.contains x.1
  let done := if one then free.take 1 else free
  let b := hardResources - s.cop.hardUsed
  let s : State := { s with cop := { s.cop with
    softRows := s.cop.softRows.filter fun x => !done.contains x
    ctlSpare := s.cop.ctlSpare.filter fun x => !done.contains x
    hardUsed := min hardResources (s.cop.hardUsed + (done.map fun x => popCount 10 x.2).sum) } }
  let s := done.foldl (fun s x => (((s.wr CPC_STAT_ROWEV 1).raise 43).logRepair 4 x.1 x.2 werr)) s
  let s := if decide (free.length < all.length) then s.poolEmpty else s
  (s.poolFall b (hardResources - s.cop.hardUsed) hardResources).syncSpares

/-- The logic targets of a run are judged (R462): `fail0` and `fail1` are those that failed, `sig` the signature of
the first. -/
def State.logicJudged (s : State) (r : BistRun) (fail0 fail1 sig : Nat) (werr : Bool) : BistRun × State :=
  let startup := decide (r.kind = RunKind.startup)
  let f0 := fail0 &&& r.mask0
  let f1 := fail1 &&& r.mask1 &&& 0x3FF
  let s := s.bistUnmark r
  let s := cores.foldl (fun s c => if bitAt r.mask0 c && !bitAt f0 c then s.corePassed c werr else s) s
  let s := cores.foldl (fun s c => if bitAt f0 c then s.coreFailed c startup werr else s) s
  let s := (List.range 16).foldl (fun s i =>
    if bitAt f0 (16 + i) then s.laneFailed (i / 4) (i % 4) werr
    else if bitAt r.mask0 (16 + i) then s.lanePassed (i / 4) (i % 4) werr else s) s
  let s := (List.range 10).foldl (fun s i =>
    if bitAt f1 i then s.blockFailed i else if bitAt r.mask1 i then s.proveOther (16 + i) else s) s
  let first := ((List.range 32).find? (bitAt f0)).orElse fun _ => (List.range 10).find? (bitAt f1) |>.map (· + 64)
  ({ r with failed0 := f0, failed1 := f1, first := first.map fun i => (i, sig) }, (s.planesAfter r).unitsDestroyed r)

/-- The phase of a run that is in progress ends (R456, R457, R462, R465). -/
def State.phaseJudged (s : State) (r : BistRun) (fail0 fail1 sig : Nat) (rows : List (Nat × Nat)) (noRes : List Nat)
    (werr : Bool) : BistRun × State :=
  match r.todo with
  | [] => (r, s)
  | 1 :: _ => s.logicJudged r fail0 fail1 sig werr
  | 3 :: _ => (r, s.hardRepair noRes r.aborted werr)
  | g :: _ =>
    let q := s.groupMarched g (bitAt fail1 g) rows werr
    ({ r with failed1 := setBit r.failed1 g q.1 }, q.2)

/-- A run ends with every target judged (R462, R470, R471), or with ERR 0x4 where an ABORT awaited its end. -/
def State.bistEnds (s : State) (r : BistRun) : State :=
  let s := ({ s with cop := { s.cop with run := none } } : State).wr BIST_STAT_PHASE 0
  let s := if r.kind = RunKind.command then s.wr BIST_STAT_BUSY 0 else s
  if r.aborted then ((s.bistFail 4).raise 39).runOver.syncCores
  else
    let any := r.failed0 != 0 || r.failed1 != 0
    let s := ((s.wr BIST_PASS0 (r.mask0 - r.failed0)).wr BIST_PASS1 (r.mask1 - r.failed1)).wr BIST_FAIL0 r.failed0
    let s := (s.wr BIST_FAIL1 r.failed1).wr BIST_TIME_T (sat 24 r.len)
    let s := match r.first with
      | some (i, sig) => (((s.wr64 BIST_SIG_LO BIST_SIG_HI sig).wr BIST_SIGTGT_BIT (i % 64)).wr BIST_SIGTGT_M1 (i / 64)).wr
          BIST_SIGTGT_VALID 1
      | none => s.wr BIST_SIGTGT_VALID 0
    let s := (s.wr BIST_STAT_DONE 1).wr BIST_STAT_ERR (if any then 3 else 0)
    let s := if any then (s.wr BIST_STAT_FAIL 1).raise 40 else s
    let s := if r.kind = RunKind.startup then s else s.raise 39
    (s.runOver.syncCores).spareReady

/-- BIST_RUN_DONE (R456 to R462): the phase in progress ends, and with the last one the run. `fail0` and `fail1` are
the targets that fail in it, `rows` the rows that failed the march, `sig` the signature of the first failing logic
target, `len` the length of the phase in 10 µs units, `noRes` the DRAM rows without a free hard repair resource,
`werr` a failed write of the log. -/
def State.bistDone (s : State) (fail0 fail1 sig len : Nat) (rows : List (Nat × Nat)) (noRes : List Nat) (werr : Bool) :
    State :=
  match s.cop.run with
  | none => s
  | some r =>
    let q := s.phaseJudged r fail0 fail1 sig rows noRes werr
    let x : BistRun := { q.1 with len := r.len + len }
    let rest := q.2.phases r.todo.tail
    let s := (q.2.enterPhases x rest).remapsDue werr
    if rest = [] then s.bistEnds x else s.syncCores

/-! ### Repair map and log at a start (R463) -/

/-- Whether an entry of the log names a spare row that the factory map has used already. -/
def State.repairTaken (s : State) (x : RepairEntry) : Bool :=
  x.type == 3 && decide (x.info < tblGet 0 (spareBank (x.what / 2 ^ 28) (x.what % 2 ^ 28)) s.cop.fuses.rows)

/-- The entries of the log that are valid in a copy and name no spare row that the factory map uses; the others are
skipped and counted. -/
def State.repairsUsed (s : State) : List RepairEntry := (s.cop.log.filterMap repairRead).filter fun x => !s.repairTaken x

/-- Coppice applies the factory map and the field log before any core is assigned: cores, lanes and spare rows. -/
def State.applyRepairs (s : State) : State :=
  let used := s.repairsUsed
  let of (ty : Nat) : List Nat := (used.filter fun x => x.type == ty).map fun x => x.what
  let lanes := (of 2).foldl (fun m i => setBit m i true) s.cop.fuses.lanes
  let rows := (of 3).foldl (fun m w =>
    let b := spareBank (w / 2 ^ 28) (w % 2 ^ 28)
    tblSet 0 b (tblGet 0 b m + 1) m) s.cop.fuses.rows
  let s : State := { s with cop := { s.cop with rowsUsed := rows } }
  let s := s.wr CPC_CORE_RETIRED ((of 1).foldl (fun m c => setBit m c true) s.cop.fuses.cores)
  let s := s.wr CPC_LELANE_RETIRED lanes
  let s := [0, 1, 2, 3].foldl (fun s e =>
    (s.wr (LE_Ee_LANES_RETIRED e) (bitsAt lanes (4 * e) 4)).wr (LE_CAP_LANES e) (4 - popCount 4 (bitsAt lanes (4 * e) 4))) s
  let s := (s.wr CPC_LOG_USED s.cop.log.length).wrB CPC_LOG_FULL (decide (4096 ≤ s.cop.log.length))
  let s := s.wr CPC_LOG_BAD (sat 8 (s.cop.log.length - used.length))
  let s := (s.wr CPC_NAND_SPARE s.cop.nandSpare).wr CPC_NAND_RETIRED s.cop.nandRetired
  s.syncSpares

/-- Soft post-package repair at a Slumber entry (R465): rows on controller spares are repaired in their devices, which
frees the spares; a row whose bank group has no free resource stays. -/
def State.softRepair (s : State) (noRes : List Nat) : State :=
  let (keep, done) := s.cop.ctlSpare.partition fun x => noRes.contains x.1
  let s : State := { s with cop := { s.cop with ctlSpare := keep, softRows := s.cop.softRows ++ done } }
  let s := done.foldl (fun s _ => (s.wr CPC_STAT_ROWEV 1).raise 43) s
  s.syncSpares

/-- The blocks of Heartwood, which come first in NAND; those of Rings follow (DESIGN CHOICE, log entry 109). -/
def heartBlocks : Nat := 4096

/-- Rings loses a block (R485): a retired block of its own with the records in it, or one that Heartwood takes. -/
def State.ringsShrink (s : State) (block : Nat) : State :=
  let cap := s.rcd.ringCap
  let s := if heartBlocks ≤ block ∧ block < heartBlocks + cap then
      s.ringsDrop fun p => p / 64 % cap == block - heartBlocks
    else s
  ({ s with rcd := { s.rcd with ringCap := cap - 1 } }.wr REC_RINGCAP_BLOCKS (cap - 1)).raise 214

/-- The firmware slot that a block belongs to: the slots' 1024 blocks each follow Rings (R532; log entry 109). -/
def slotBlock (block : Nat) : Option Nat :=
  let b := block - (heartBlocks + 98304)
  if heartBlocks + 98304 ≤ block ∧ b < 2048 then some (b / 1024) else none

/-- A slot loses a block (R532). -/
def State.slotShrinks (s : State) (block : Nat) : State :=
  match slotBlock block with
  | some k =>
    let x := s.fwSlot k
    { s with fwu := { s.fwu with slots := tblSet slotInit k { x with retired := x.retired + 1 } s.fwu.slots } }
  | none => s

/-- NAND_BLOCK_RETIRE (R467, R468): a block moves to a spare block and the retirement is logged; with no spare left the
Rings area loses a block and an alarm record is written. -/
def State.nandRetire (s : State) (block : Nat) (werr : Bool) : State :=
  let n := s.cop.nandSpare
  let s : State := { s with cop := { s.cop with nandRetired := s.cop.nandRetired + 1, nandSpare := n - 1 } }
  let s := (((s.wr CPC_STAT_NANDEV 1).raise 45).logRepair 5 block 0 werr).slotShrinks block
  let s := (s.wr CPC_NAND_SPARE (n - 1)).wr CPC_NAND_RETIRED (sat 16 s.cop.nandRetired)
  if n = 0 then (s.ringsShrink block).poolEmpty else s.poolFall n (n - 1) 2621

def execNandBlockRetire (block : Nat) (werr : Bool) (t : Nat) (s : State) : Host.Outcome State Fault Refusal :=
  let s := s.begin t
  .next (if s.dieRuns then s.nandRetire block werr else s)

end Sys2Proof.Machine
end

