-- ==== Sys2Proof/Machine/MemoryCommands.lean ====
section
/-!
DEFINITION. Reads and writes of coded rows by a master (R435 to R438, R441, R448), and the judgement of engine lanes that
Coppice tests in the background (R466).
-/

namespace Sys2Proof.Machine

/-! ### Masters -/

/-- The code of a master in ECC_UE_INFO. -/
def masterCode : MemMaster → Nat
  | .stand k => k
  | .standFetch k => k
  | .engine e => 0x10 + e
  | .engineFetch e => 0x10 + e
  | .recorder => 0x20
  | .canopy => 0x21
  | .rootway => 0x22
  | .understory => 0x23
  | .loader => 0x24
  | .debug => 0x27
  | .update => 0x28
  | .eviction => 0x29

/-- The code of what a read was for in ECC_UE_INFO. -/
def readCause : MemMaster → Nat
  | .stand _ => 0
  | .standFetch _ => 1
  | .engine _ => 0
  | .engineFetch _ => 1
  | _ => 3

/-- What an uncorrectable read does to its reader (R448). -/
def State.readStopped (s : State) (m : MemMaster) : State :=
  match m with
  | .stand _ => s.answer .loadFault
  | .standFetch _ => s.answer .fetchFault
  | .engine e => if s.leCan e then s.leFault e flData else s
  | .engineFetch e => if s.leCan e then s.leFault e flFetch else s
  | _ => s.answer .stopped

/-- What a write that is not performed does to its writer (R448, R479, R537). -/
def State.writeStopped (s : State) (m : MemMaster) : State :=
  match m with
  | .stand _ => s.answer .storeFault
  | .engine e => if s.leCan e then s.leFault e flData else s
  | _ => s.answer .stopped

/-! ### MEMORY_READ and MEMORY_WRITE -/

/-- Whether a master is powered and clocked. A stand reads and writes only while one of its harts runs (R107, R120),
an engine while it is not parked, Rootway and the understory outside Slumber (R499); in flush mode the recorder and
Canopy go on (R61). -/
def State.masterUp (s : State) (m : MemMaster) : Bool :=
  match s.pw.phase with
  | .running =>
    match m with
    | .stand k | .standFetch k => (standHarts k).any s.hartRuns
    | .engine e | .engineFetch e => s.rd (PWR_UNIT_UNIT (4 + e)) == 0 && s.leState e != leParked
    | .rootway | .understory => !(s.pmg.low.any fun (l : LowPower) => l.reached)
    | _ => true
  | .flush => m == .recorder || m == .canopy
  | _ => false

/-- Whether a memory is powered and out of self-refresh: DRAM loses power at flush entry (R61) and is in self-refresh in
Slumber (R499); a channel in which rows are under hard repair is out of service (R465). -/
def State.memUp (s : State) (memid row : Nat) : Bool :=
  memid != 1 || (s.pw.phase == .running && s.ecc.selfRefresh.isNone &&
    !(s.cop.run.any (fun (r : BistRun) => r.todo.head? == some 3) &&
      (s.cop.softRows ++ s.cop.ctlSpare).any fun x => dramChannel x.1 == dramChannel row))

/-- Whether a stand has no such access: a fetch from logic-engine memories or host buffers, which are not fetched from
(R565), and any access to the retain shadows, which it cannot address (R219). -/
def standBarred (m : MemMaster) (memid : Nat) : Bool :=
  match m with
  | .standFetch _ => 4 ≤ memid
  | .stand _ => memid == 6
  | _ => false

/-- MEMORY_READ: `n` bytes from offset `off` of a row; `upset`, `verify`, `dirty` and `werr` as in `readRow`. -/
def State.memoryRead (s : State) (m : MemMaster) (memid row off n upset : Nat) (verify dirty werr : Bool) : State :=
  if !s.masterUp m || !s.memUp memid row then s
  else if rowCount memid ≤ row || standBarred m memid then s.readStopped m
  else if memid = 7 ∧ (masterCode m < 4) ∧ (n ≠ 4 ∨ off % 4 ≠ 0) then s.readStopped m
  else
    let (r, s) := s.readRow memid row upset verify dirty (masterCode m) (readCause m) werr
    if r.bad then s.readStopped m else s.answer (.bytes (slice off n (s.delivered memid row)))

def execMemoryRead (m : MemMaster) (memid : Fin 8) (row : Nat) (off : Fin 32) (n : Fin 33) (upset : BitVec 352)
    (verify dirty werr : Bool) (t : Nat) (s : State) : Host.Outcome State Fault Refusal :=
  .next ((s.begin t).memoryRead m memid row off n upset.toNat verify dirty werr)

/-- Whether a writer may write n bytes from an address (R110, R479, R537): the recorder alone into staging, the
firmware update engine alone into a guarded execution region, a stand in SPLIT inside its split window; a stand
reaches a host buffer as it reaches a register (R13). -/
def State.mayWrite (s : State) (m : MemMaster) (a n : Nat) : Bool :=
  (!inStaging a n || m == .recorder) && (!s.inRegion a n || m == .update) &&
    (match m with
      | .stand k => if inRange 0x10840000 0x10860000 a then s.deviceOpen k a && a % 4 == 0 && n == 4 else s.splitOpen k a n
      | _ => true)

/-- The other row of the 64-byte line that a stand store allocates in L2 (R438): every stand store is taken as a miss
(DESIGN CHOICE, log entry 114). Host buffers are device memory and not cached. -/
def lineMate (m : MemMaster) (memid row : Nat) : List (Nat × Nat) :=
  match m with
  | .stand _ => if memid = 1 ∨ memid = 2 then [(memid, row / 2 * 2 + (1 - row % 2))] else []
  | _ => []

/-- The eviction of a poisoned L2 line writes the row as poison, and the line's mark goes with it (R436, R448);
without a poisoned line there is none to evict. Which line holds which address is the stands', so it is the first one
marked. -/
def State.evictPoison (s : State) (memid row : Nat) : State :=
  match (s.errRows fun m _ => m == 3).find? fun r => s.rowErr r.1 r.2 == poisonPat with
  | some r => (s.setErr memid row poisonPat).setErr r.1 r.2 0
  | none => s

/-- MEMORY_WRITE: bytes within one row. A whole row is encoded and never read, and an eviction may write it as poison
(R436, R437); any other write reads the row first (R438). A write into staging by a master that is no stand changes
nothing. -/
def State.memoryWrite (s : State) (m : MemMaster) (a : Nat) (bs : List Byte) (poison : Bool) (upset : Nat)
    (verify werr : Bool) : State :=
  if !s.masterUp m then s
  else
    match rowOf a with
    | none => s.writeStopped m
    | some (memid, row) =>
      if !s.memUp memid row then s
      else if bs = [] || 32 < a % 32 + bs.length then s.writeStopped m
      else if !s.mayWrite m a bs.length then
        (match m with
          | .stand _ => s.writeStopped m
          | _ => if s.inRegion a bs.length then s.writeStopped m else s)
      else if bs.length = 32 then
        let s := s.store a bs
        (if poison && m == .eviction then s.evictPoison memid row else s).answer .done
      else
        let (r, s) := s.readRow memid row upset verify false (masterCode m) 2 werr
        let q := s.seeRows (masterCode m) 2 (if r.bad then [] else lineMate m memid row)
        if r.bad || q.1 then q.2.writeStopped m else ((q.2.settleRows [(memid, row)]).store a bs).answer .done

def execMemoryWrite (m : MemMaster) (addr : BitVec 36) (bs : List Byte) (poison : Bool) (upset : BitVec 352)
    (verify werr : Bool) (t : Nat) (s : State) : Host.Outcome State Fault Refusal :=
  .next ((s.begin t).memoryWrite m addr.toNat bs poison upset.toNat verify werr)

/-! ### Lanes tested in the background (R466) -/

/-- A lane that Coppice tested beside a running engine is judged (R466): retired, or passed. -/
def State.laneJudged (s : State) (fail0 : Nat) (werr : Bool) : State :=
  let s := (List.range 16).foldl (fun s i =>
    if bitAt s.cop.laneTest i then
      (if bitAt fail0 (16 + i) then s.laneFailed (i / 4) (i % 4) werr else s.lanePassed (i / 4) (i % 4) werr)
    else s) s
  ({ s with cop := { s.cop with laneTest := 0 } } : State).coppiceEnds

end Sys2Proof.Machine
end

