-- ==== Sys2Proof/Machine/LeWord.lean ====
section
/-!
DEFINITION. Word instructions of the logic engines (R174, R179, R180).
-/

namespace Sys2Proof.Machine

/-- A word instruction that changes registers by WA and its operand. -/
def State.leWordOp (s : State) (e op mod x opnd : Nat) (sx : Bool) (f : Engine → Word → Engine) : State :=
  s.leRun e (leLegal op mod x opnd) (s.wordFaults e mod x opnd) ⟨s.wordRows e mod x opnd, []⟩ fun s =>
    s.leNext e fun r => f r (s.wordVal e mod x opnd sx)

/-- An instruction without an operand that changes registers. -/
def State.leRegOp (s : State) (e op mod x opnd : Nat) (f : Engine → Engine) : State :=
  s.leRun e (leLegal op mod x opnd) [] ⟨[], []⟩ fun s => s.leNext e f

/-- Arithmetic on WA: wraps, and sets OV when the signed result does not fit in 32 bits (R180). -/
def arith (r : Engine) (v : Int) : Engine :=
  { r with wa := BitVec.ofInt 32 v, ov := r.ov || decide (v < -2147483648) || decide (2147483647 < v) }

/-- LDW (R174, R180): WA <- value. -/
def execLeLdw (e : Fin 4) (mod : Fin 4) (x : Fin 16) (opnd : Fin 1048576) (s : State) : Host.Outcome State Fault Refusal :=
  .next (s.fresh0.leWordOp e 0x11 mod x opnd true (fun r v => { r with wa := v }))

/-- ADD (R174, R180): WA <- WA + value. -/
def execLeAdd (e : Fin 4) (mod : Fin 4) (x : Fin 16) (opnd : Fin 1048576) (s : State) : Host.Outcome State Fault Refusal :=
  .next (s.fresh0.leWordOp e 0x13 mod x opnd true (fun r v => arith r (r.wa.toInt + v.toInt)))

/-- SUB (R174, R180): WA <- WA - value. -/
def execLeSub (e : Fin 4) (mod : Fin 4) (x : Fin 16) (opnd : Fin 1048576) (s : State) : Host.Outcome State Fault Refusal :=
  .next (s.fresh0.leWordOp e 0x14 mod x opnd true (fun r v => arith r (r.wa.toInt - v.toInt)))

/-- MUL (R174, R180): WA <- low 32 bits of WA × value. -/
def execLeMul (e : Fin 4) (mod : Fin 4) (x : Fin 16) (opnd : Fin 1048576) (s : State) : Host.Outcome State Fault Refusal :=
  .next (s.fresh0.leWordOp e 0x15 mod x opnd true (fun r v => arith r (r.wa.toInt * v.toInt)))

/-- ANDW (R174, R180): WA <- WA and value. -/
def execLeAndw (e : Fin 4) (mod : Fin 4) (x : Fin 16) (opnd : Fin 1048576) (s : State) : Host.Outcome State Fault Refusal :=
  .next (s.fresh0.leWordOp e 0x16 mod x opnd false (fun r v => { r with wa := r.wa &&& v }))

/-- ORW (R174, R180): WA <- WA or value. -/
def execLeOrw (e : Fin 4) (mod : Fin 4) (x : Fin 16) (opnd : Fin 1048576) (s : State) : Host.Outcome State Fault Refusal :=
  .next (s.fresh0.leWordOp e 0x17 mod x opnd false (fun r v => { r with wa := r.wa ||| v }))

/-- XORW (R174, R180): WA <- WA xor value. -/
def execLeXorw (e : Fin 4) (mod : Fin 4) (x : Fin 16) (opnd : Fin 1048576) (s : State) : Host.Outcome State Fault Refusal :=
  .next (s.fresh0.leWordOp e 0x18 mod x opnd false (fun r v => { r with wa := r.wa ^^^ v }))

/-- SHL (R174, R180): WA shifted left by value; 32 or more gives 0. -/
def execLeShl (e : Fin 4) (mod : Fin 4) (x : Fin 16) (opnd : Fin 1048576) (s : State) : Host.Outcome State Fault Refusal :=
  .next (s.fresh0.leWordOp e 0x19 mod x opnd false (fun r v => { r with wa := if 32 ≤ v.toNat then 0 else r.wa <<< v.toNat }))

/-- SHR (R174, R180): WA shifted right by value, zero fill; 32 or more gives 0. -/
def execLeShr (e : Fin 4) (mod : Fin 4) (x : Fin 16) (opnd : Fin 1048576) (s : State) : Host.Outcome State Fault Refusal :=
  .next (s.fresh0.leWordOp e 0x1A mod x opnd false (fun r v => { r with wa := r.wa >>> v.toNat }))

/-- SAR (R174, R180): WA shifted right by value, sign fill; 32 or more gives the sign. -/
def execLeSar (e : Fin 4) (mod : Fin 4) (x : Fin 16) (opnd : Fin 1048576) (s : State) : Host.Outcome State Fault Refusal :=
  .next (s.fresh0.leWordOp e 0x1B mod x opnd false (fun r v => { r with wa := r.wa.sshiftRight v.toNat }))

/-- CEQ (R174, R180): BA <- (WA = value). -/
def execLeCeq (e : Fin 4) (mod : Fin 4) (x : Fin 16) (opnd : Fin 1048576) (s : State) : Host.Outcome State Fault Refusal :=
  .next (s.fresh0.leWordOp e 0x1E mod x opnd true (fun r v => { r with ba := r.wa == v }))

/-- CNE (R174, R180): BA <- (WA ≠ value). -/
def execLeCne (e : Fin 4) (mod : Fin 4) (x : Fin 16) (opnd : Fin 1048576) (s : State) : Host.Outcome State Fault Refusal :=
  .next (s.fresh0.leWordOp e 0x1F mod x opnd true (fun r v => { r with ba := r.wa != v }))

/-- An ordered compare (R180): signed unless X[3] = 1; `f` is given whether WA is below the value and whether they are
equal. -/
def State.leCompare (s : State) (e op mod x opnd : Nat) (f : Bool → Bool → Bool) : State :=
  s.leWordOp e op mod x opnd true fun r v =>
    { r with ba := f (if 8 ≤ x then r.wa.ult v else r.wa.slt v) (r.wa == v) }

/-- CGT (R174, R180): BA <- (WA > value). -/
def execLeCgt (e : Fin 4) (mod : Fin 4) (x : Fin 16) (opnd : Fin 1048576) (s : State) : Host.Outcome State Fault Refusal :=
  .next (s.fresh0.leCompare e 0x20 mod x opnd (fun lt eq => !lt && !eq))

/-- CGE (R174, R180): BA <- (WA ≥ value). -/
def execLeCge (e : Fin 4) (mod : Fin 4) (x : Fin 16) (opnd : Fin 1048576) (s : State) : Host.Outcome State Fault Refusal :=
  .next (s.fresh0.leCompare e 0x21 mod x opnd (fun lt _ => !lt))

/-- CLT (R174, R180): BA <- (WA < value). -/
def execLeClt (e : Fin 4) (mod : Fin 4) (x : Fin 16) (opnd : Fin 1048576) (s : State) : Host.Outcome State Fault Refusal :=
  .next (s.fresh0.leCompare e 0x22 mod x opnd (fun lt _ => lt))

/-- CLE (R174, R180): BA <- (WA ≤ value). -/
def execLeCle (e : Fin 4) (mod : Fin 4) (x : Fin 16) (opnd : Fin 1048576) (s : State) : Host.Outcome State Fault Refusal :=
  .next (s.fresh0.leCompare e 0x23 mod x opnd (fun lt eq => lt || eq))

/-- STW (R174, R179): memory <- WA, truncated to size. An immediate operand is no legal MOD of STW (R174), which R195
puts before the invalid store target. -/
def execLeStw (e : Fin 4) (mod : Fin 4) (x : Fin 16) (opnd : Fin 1048576) (s : State) : Host.Outcome State Fault Refusal :=
  .next (s.fresh0.leRun e (leLegal 0x12 mod x opnd) (s.wordFaults e mod x opnd) ⟨[], s.wordRows e mod x opnd⟩ fun s =>
    let r := s.engine e
    (s.putLeData e (byteAddr r mod opnd) (leBytes (sizeBytes x) r.wa.toNat)).leNext e id)

/-- LDHI (R174): WA <- OPND × 0x1000. -/
def execLeLdhi (e : Fin 4) (mod : Fin 4) (x : Fin 16) (opnd : Fin 1048576) (s : State) : Host.Outcome State Fault Refusal :=
  .next (s.fresh0.leRegOp e 0x1C mod x opnd fun r => { r with wa := BitVec.ofNat 32 (opnd.val * 0x1000) })

/-- LDX (R174): XR <- WA[19:0]. -/
def execLeLdx (e : Fin 4) (mod : Fin 4) (x : Fin 16) (opnd : Fin 1048576) (s : State) : Host.Outcome State Fault Refusal :=
  .next (s.fresh0.leRegOp e 0x1D mod x opnd fun r => { r with xr := r.wa.toNat % 1048576 })

/-- BTOW (R174): WA <- BA as 0 or 1. -/
def execLeBtow (e : Fin 4) (mod : Fin 4) (x : Fin 16) (opnd : Fin 1048576) (s : State) : Host.Outcome State Fault Refusal :=
  .next (s.fresh0.leRegOp e 0x24 mod x opnd fun r => { r with wa := BitVec.ofNat 32 (b2n r.ba) })

/-- WTOB (R174): BA <- (WA ≠ 0). -/
def execLeWtob (e : Fin 4) (mod : Fin 4) (x : Fin 16) (opnd : Fin 1048576) (s : State) : Host.Outcome State Fault Refusal :=
  .next (s.fresh0.leRegOp e 0x25 mod x opnd fun r => { r with ba := r.wa != 0 })

/-- SIG (R174, R198): if BA = 1, the program event of the engine, source 24 + e. -/
def execLeSig (e : Fin 4) (mod : Fin 4) (x : Fin 16) (opnd : Fin 1048576) (s : State) : Host.Outcome State Fault Refusal :=
  .next (s.fresh0.leRun e (leLegal 0x26 mod x opnd) [] ⟨[], []⟩ fun s =>
    (if (s.engine e).ba then s.raise (24 + e) else s).leNext e id)

end Sys2Proof.Machine
end

