-- ==== Sys2Proof/Machine/Cyclic.lean ====
section
/-!
DEFINITION. Running cyclic programs as commands (R183, R199 to R237): END, illegal words, LE_Ee_CMD, admission, restarts,
the host window and a stand's access to an engine's memories, forces, and debugging an engine.
-/

namespace Sys2Proof.Machine

/-! ### END and illegal words -/

/-- The signature that the lanes take at END (R156): CRC-64 of BA, WA, XR, SI, OV and both stack pointers; in which
bytes they enter is the model's choice (DESIGN CHOICE, log entry 119). -/
def signatureOf (x : Engine) : Nat :=
  crc64Seed 0 ([byteOf (b2n x.ba)] ++ leBytes 4 x.wa.toNat ++ leBytes 4 x.xr ++
    [byteOf (b2n x.si), byteOf (b2n x.ov), byteOf x.bstack.length, byteOf x.cstack.length])

/-- END (R183): in a user block, or with entries on the branch stack, a structure fault; otherwise the cycle ends, at
the instant its publish ends. `gap` is the swap gap, should a swap follow. -/
def State.leEnd (s : State) (e mod x opnd gap : Nat) : State :=
  let r := s.engine e
  s.leRun e (leLegal 0x2D mod x opnd) [(!r.cstack.isEmpty || !r.bstack.isEmpty, flStructure)] ⟨[], []⟩ fun s =>
    (s.setEngine e { s.engine e with signature := signatureOf (s.engine e) }).leCycleEnd e gap

def execLeEnd (e : Fin 4) (mod : Fin 4) (x : Fin 16) (opnd : Fin 1048576) (gap t : Nat) (s : State) :
    Host.Outcome State Fault Refusal :=
  .next ((s.begin t).leEnd e mod x opnd gap)

/-- An illegal word is fault 0x01; a CALLH of a block from 0xD on is fault 0x07, after the faults of its pointer
(R175, R185, R195), of which range is judged for P alone, as no size is given (DESIGN CHOICE, log entry 103); a word
that is neither is no command of this row and changes nothing. -/
def State.leIllegal (s : State) (e w : Nat) : State :=
  let i := insOf 255 0 w
  let p := ptrAddr (s.engine e) i.mod i.opnd
  if !leLegal i.op i.mod i.x i.opnd then s.leRun e false [] ⟨[], []⟩ id
  else if i.op = 0x30 ∧ 0xD ≤ i.x then
    s.leRun e true [(true, flMissing), (p % 8 != 0, flAlign), (decide (leDataSize ≤ p), flRange)] ⟨[], []⟩ id
  else s

def execIllegalInstruction (e : Fin 4) (word : BitVec 32) (s : State) : Host.Outcome State Fault Refusal :=
  .next (s.fresh0.leIllegal e word.toNat)

/-! ### Loading and admission (R204, R207, R224) -/

/-- An admission outcome: ADM_STAT, ADMEV, the status event; a refusal is recorded (R35). -/
def State.admReport (s : State) (e reason index : Nat) : State :=
  let s := (s.wr (LE_Ee_ADM_STAT_REASON e) reason).wr (LE_Ee_ADM_STAT_INDEX e) index
  let s := (s.wr (LE_Ee_STAT_ADMEV e) 1).raise (28 + e)
  if reason = 0 then s
  else s.record 2 4 (28 + e) e (some (0x10301004 + 0x1000 * e)) (some (0x1030102C + 0x1000 * e))

/-- Whether a state accepts a restart command, and with the shadow's state a load. -/
def State.leTakesCmd (s : State) (e : Nat) : Bool :=
  let st := s.leState e
  st == leRunning || st == leStopped || st == leFaulted

/-- LE_Ee_CMD LOAD. -/
def State.leLoadCmd (s : State) (e : Nat) : State :=
  let sh := s.rd (LE_Ee_STAT_SHADOW e)
  if s.leTakesCmd e && (sh == 0 || sh == 2 || sh == 3) then
    let old := if s.leState e = leRunning then some (s.rd (LE_Ee_ADM_BOUND e)) else none
    let s := s.setEngine e { s.engine e with
      shadow := none, load := some (8 * s.rd (LE_Ee_LD_ADDR_OFF e), s.rd (LE_Ee_LD_LEN_LEN e), old) }
    (s.wr (LE_Ee_STAT_SHADOW e) 1).wr (PWR_UNIT_UNIT (4 + e)) 0
  else s.admReport e 0x13 0

def execLeLoad (e : Fin 4) (t : Nat) (s : State) : Host.Outcome State Fault Refusal :=
  let s := s.begin t
  .next (if s.pw.phase == .running then s.leLoadCmd e else s)

/-- The image as the loader reads it: none where it does not lie in shared SRAM, or meets an uncorrectable row (R448).
-/
def State.loaderImage (s : State) (off len : Nat) : Option (List Byte) × State :=
  if off + len ≤ 0x1000000 then
    let q := s.seeRange 0x24 3 (sramBase + off) len
    (if q.1 then none else some (q.2.seen (sramBase + off) len), q.2)
  else (none, s)

/-- ADMISSION_DONE (R207). -/
def State.admissionDone (s : State) (e : Nat) : State :=
  match (s.engine e).load with
  | none => s
  | some (off, len, old) =>
    let (image, s) := s.loaderImage off len
    let a := admitImage image (s.rd (LE_Ee_CYC_BUDGET e)) (s.word (0x10301050 + 0x1000 * e)) old none
    let s := if a.words = [] then s else s.putBank e (1 - s.leBank e) a.words
    let s := s.setEngine e { s.engine e with load := none, shadow := a.prog }
    let s := (s.wr (LE_Ee_SH_CLK e) a.clk).wr (LE_Ee_SH_BOUND e) a.bound
    (s.wr (LE_Ee_STAT_SHADOW e) (if a.reason = 0 then 2 else 3)).admReport e a.reason a.index

def execAdmissionDone (e : Fin 4) (t : Nat) (s : State) : Host.Outcome State Fault Refusal := .next ((s.begin t).admissionDone e)

/-- LE_Ee_CMD DISCARD. -/
def State.leDiscard (s : State) (e : Nat) : State :=
  if s.rd (LE_Ee_STAT_SHADOW e) = 4 then s
  else ((s.setEngine e { s.engine e with shadow := none, load := none }).wr (LE_Ee_STAT_SHADOW e) 0).wr
    (PWR_UNIT_UNIT (4 + e)) 0

def execLeDiscard (e : Fin 4) (t : Nat) (s : State) : Host.Outcome State Fault Refusal := .next ((s.begin t).leDiscard e)

/-- LE_Ee_CMD SWAP (R226). -/
def State.leSwapCmd (s : State) (e : Nat) : State :=
  if s.leState e = leRunning ∧ s.rd (LE_Ee_STAT_SHADOW e) = 2 then s.wr (LE_Ee_STAT_SHADOW e) 4 else s

def execLeSwap (e : Fin 4) (t : Nat) (s : State) : Host.Outcome State Fault Refusal := .next ((s.begin t).leSwapCmd e)

/-! ### Restarts and stop (R216, R217, R222, R520) -/

/-- LE_Ee_CMD WARM and COLD. -/
def State.leRestartCmd (s : State) (e : Nat) (warm : Bool) : State :=
  if s.leTakesCmd e then s.leRestart e warm 1 false else s

def execLeWarm (e : Fin 4) (t : Nat) (s : State) : Host.Outcome State Fault Refusal := .next ((s.begin t).leRestartCmd e true)
def execLeCold (e : Fin 4) (t : Nat) (s : State) : Host.Outcome State Fault Refusal := .next ((s.begin t).leRestartCmd e false)

/-- LE_Ee_CMD STOP: at the end of the cycle in progress. -/
def State.leStopCmd (s : State) (e : Nat) : State :=
  if s.leState e = leRunning ∨ s.leState e = leHalted then s.setEngine e { s.engine e with stop := true } else s

def execLeStop (e : Fin 4) (t : Nat) (s : State) : Host.Outcome State Fault Refusal := .next ((s.begin t).leStopCmd e)

/-- RESTART_COMPLETE (R217, R223): the engine waits for the cycle mark of its first take. -/
def State.restartComplete (s : State) (e : Nat) : State :=
  let x := s.engine e
  if s.leState e = leRestarting ∧ x.restart.isSome ∧ x.await = false then
    ((s.setEngine e { x with await := true }).wr (LE_Ee_STAT_RSTEV e) 1).raise (28 + e)
  else s

def execRestartComplete (e : Fin 4) (t : Nat) (s : State) : Host.Outcome State Fault Refusal :=
  .next ((s.begin t).restartComplete e)

/-- ENGINE_FUNCTION_RESET (R236, R520): the F fields are restored, the shadow is discarded, and the engine restarts cold
with its active program, which in a swap gap is still the old one. -/
def State.engineReset (s : State) (e : Nat) : State :=
  let s := (s.swapUndone e).restore (·.f) (engineAddr e)
  let s := s.setEngine e { s.engine e with shadow := none, load := none }
  s.leRestart e false 2 false

def execEngineFunctionReset (e : Fin 4) (t : Nat) (s : State) : Host.Outcome State Fault Refusal :=
  .next ((s.begin t).engineReset e)

/-! ### Stands at an engine's memories (R163, R164, R210) -/

/-- A store of 2^size bytes by a hart; a SPLIT lane stays inside its split window (R110). -/
def State.hartLeStore (s : State) (h a size v : Nat) : State :=
  if s.splitOpen h a (2 ^ size) then s.leStoreAt a (leBytes (2 ^ size) v) else s.answer .storeFault

/-- STAND_LE_MEMORY_ACCESS: a load (no value), or a store of 2^size bytes. -/
def execStandLeMemoryAccess (hart : Fin 12) (addr : BitVec 36) (size : Fin 4) (value : Option (BitVec 64)) (t : Nat)
    (s : State) : Host.Outcome State Fault Refusal :=
  let s := s.begin t
  .next (if !s.hartRuns hart then s else match value with
    | none => s.leLoadAt (hartStand hart) 0 addr.toNat (2 ^ size.val)
    | some v => s.hartLeStore hart addr.toNat size v.toNat)

/-- HOST_WINDOW_WRITE. -/
def execHostWindowWrite (hart : Fin 12) (addr : BitVec 36) (size : Fin 4) (value : BitVec 64) (t : Nat) (s : State) :
    Host.Outcome State Fault Refusal :=
  let s := s.begin t
  .next (if s.hartRuns hart then s.hartLeStore hart addr.toNat size value.toNat else s)

/-! ### Forces (R229 to R231) -/

/-- Whether a force covers the command bit of a channel in SAFE_OUTPUT mode. -/
def State.coversSafe (s : State) (addr len bit : Nat) : Bool :=
  (List.range 192).any fun n => s.chMode n == modeSafe &&
    (if len = 4 then inRange addr (addr + 4) (0x2000 + n / 8) else addr == 0x2000 + n / 8 && bit == n % 8)

/-- FORCE_COMMIT: a write of `v` to LE_Ee_FRCi_ADDR. -/
def State.forceCommit (s : State) (e i v : Nat) : State :=
  let addr := bitsAt v 0 14
  let bit := bitsAt v 16 3
  let word := bitAt v 20
  let en := bitAt v 31
  if en && ((word && addr % 4 != 0) || s.coversSafe addr (if word then 4 else 1) bit) then s.wr (LE_Ee_STAT_FRCERR e) 1
  else
    let s := (s.wr (LE_Ee_FRCi_ADDR_ADDR e i) addr).wr (LE_Ee_FRCi_ADDR_BIT e i) bit
    let s := (s.wrB (LE_Ee_FRCi_ADDR_WORD e i) word).wrB (LE_Ee_FRCi_ADDR_EN e i) en
    let x := s.engine e
    (s.setEngine e { x with fval := tblSet 0 i (s.rd (LE_Ee_FRCi_VAL_VALUE e i)) x.fval }).syncForces e

def execForceCommit (e : Fin 4) (i : Fin 256) (v : BitVec 32) (t : Nat) (s : State) : Host.Outcome State Fault Refusal :=
  let s := s.begin t
  .next (if s.pw.phase == .running then s.forceCommit e i v.toNat else s)

/-! ### Debugging an engine (R233 to R235) -/

/-- Whether the debug transport is attached to engine e. -/
def State.attachedLe (s : State) (e : Nat) : Bool := s.dbg == .engine e

/-- HALT: at an instruction boundary. -/
def State.leHaltCmd (s : State) (e : Nat) : State :=
  if s.attachedLe e && s.leState e == leRunning then s.leHaltNow e 0 else s.answer .debugError

def execLeHalt (e : Fin 4) (t : Nat) (s : State) : Host.Outcome State Fault Refusal := .next ((s.begin t).leHaltCmd e)

/-- A halted engine runs again: the replay queue is applied to lanes B and C; from a cycle boundary, what waits there
goes on. -/
def State.leRunOn (s : State) (e gap : Nat) : State :=
  let s := s.setEngine e { s.engine e with replay := [] }
  let s := (s.wr (LE_Ee_DBG_STAT_QFILL e) 0).wr (LE_Ee_DBG_STAT_HALTED e) 0
  let s := (s.wr (LE_Ee_STAT_STATE e) leRunning).settleOwner e
  if (s.engine e).executing then s
  else if s.pmg.low.isSome then s.leParkNow e
  else s.leGoOn e gap

/-- RESUME. -/
def State.leResumeCmd (s : State) (e gap : Nat) : State :=
  if s.attachedLe e && s.leState e == leHalted then s.leRunOn e gap else s.answer .debugError

def execLeResume (e : Fin 4) (gap t : Nat) (s : State) : Host.Outcome State Fault Refusal :=
  .next ((s.begin t).leResumeCmd e gap)

/-- STEPCYC: to the next cycle boundary. -/
def State.leStepcycCmd (s : State) (e gap : Nat) : State :=
  if s.attachedLe e && (s.leState e == leHalted || s.leState e == leRunning) then
    let s := if s.leState e = leHalted then s.leRunOn e gap else s
    if s.leState e = leRunning then s.setEngine e { s.engine e with want := .cycle } else s
  else s.answer .debugError

def execLeStepcyc (e : Fin 4) (gap t : Nat) (s : State) : Host.Outcome State Fault Refusal :=
  .next ((s.begin t).leStepcycCmd e gap)

/-- The state of an outcome; every command of this machine answers one. -/
def stateOf (s : State) : Host.Outcome State Fault Refusal → State
  | .next s' => s'
  | .fault _ => s
  | .refused _ => s

/-- The meaning of an instruction word by its opcode, where it is no block and not END. -/
def leMain (s : State) (e : Fin 4) (op : Nat) (m : Fin 4) (x : Fin 16) (o : Fin 1048576) :
    Option (Host.Outcome State Fault Refusal) :=
  match op with
  | 0x01 => some (execLeLd e m x o s)
  | 0x02 => some (execLeLdn e m x o s)
  | 0x03 => some (execLeAnd e m x o s)
  | 0x04 => some (execLeAndn e m x o s)
  | 0x05 => some (execLeOr e m x o s)
  | 0x06 => some (execLeOrn e m x o s)
  | 0x07 => some (execLeXor e m x o s)
  | 0x08 => some (execLeXorn e m x o s)
  | 0x09 => some (execLeSt e m x o s)
  | 0x0A => some (execLeStn e m x o s)
  | 0x0B => some (execLeS e m x o s)
  | 0x0C => some (execLeROp e m x o s)
  | 0x0D => some (execLeLds e m x o s)
  | 0x0E => some (execLeNot e m x o s)
  | 0x0F => some (execLeBopen e m x o s)
  | 0x10 => some (execLeBclose e m x o s)
  | 0x11 => some (execLeLdw e m x o s)
  | 0x12 => some (execLeStw e m x o s)
  | 0x13 => some (execLeAdd e m x o s)
  | 0x14 => some (execLeSub e m x o s)
  | 0x15 => some (execLeMul e m x o s)
  | 0x16 => some (execLeAndw e m x o s)
  | 0x17 => some (execLeOrw e m x o s)
  | 0x18 => some (execLeXorw e m x o s)
  | 0x19 => some (execLeShl e m x o s)
  | 0x1A => some (execLeShr e m x o s)
  | 0x1B => some (execLeSar e m x o s)
  | 0x1C => some (execLeLdhi e m x o s)
  | 0x1D => some (execLeLdx e m x o s)
  | 0x1E => some (execLeCeq e m x o s)
  | 0x1F => some (execLeCne e m x o s)
  | 0x20 => some (execLeCgt e m x o s)
  | 0x21 => some (execLeCge e m x o s)
  | 0x22 => some (execLeClt e m x o s)
  | 0x23 => some (execLeCle e m x o s)
  | 0x24 => some (execLeBtow e m x o s)
  | 0x25 => some (execLeWtob e m x o s)
  | 0x26 => some (execLeSig e m x o s)
  | 0x28 => some (execLeJmp e m x o s)
  | 0x29 => some (execLeJc e m x o s)
  | 0x2A => some (execLeJcn e m x o s)
  | 0x2B => some (execLeRet e m x o s)
  | 0x2C => some (execLeRetc e m x o s)
  | 0x31 => some (execLeCallu e m x o s)
  | _ => none

/-- The meaning of a call of a block of R201 by its number. -/
def leBlocks (s : State) (e : Fin 4) (x : Nat) (m : Fin 4) (o : Fin 1048576) : Option (Host.Outcome State Fault Refusal) :=
  match x with
  | 0x0 => some (execLeTon e m o s)
  | 0x1 => some (execLeTof e m o s)
  | 0x2 => some (execLeTp e m o s)
  | 0x3 => some (execLeCtu e m o s)
  | 0x4 => some (execLeCtd e m o s)
  | 0x5 => some (execLeRTrig e m o s)
  | 0x6 => some (execLeFTrig e m o s)
  | 0x7 => some (execLeSr e m o s)
  | 0x8 => some (execLeRs e m o s)
  | 0x9 => some (execLeCmp e m o s)
  | 0xA => some (execLeLimit e m o s)
  | 0xB => some (execLeMove e m o s)
  | 0xC => some (execLeEqv2 e m o s)
  | _ => none

/-- The meaning of an instruction word that is not END and that the model gives one. -/
def leWordOut (s : State) (e : Fin 4) (w : Nat) : Option (Host.Outcome State Fault Refusal) :=
  let i := insOf 255 0 w
  let m : Fin 4 := ⟨i.mod % 4, Nat.mod_lt _ (by decide)⟩
  let x : Fin 16 := ⟨i.x % 16, Nat.mod_lt _ (by decide)⟩
  let o : Fin 1048576 := ⟨i.opnd % 1048576, Nat.mod_lt _ (by decide)⟩
  if i.op = 0x30 then (if leLegal i.op i.mod i.x i.opnd then leBlocks s e i.x m o else none)
  else leMain s e i.op m x o

/-- The effect of the instruction that a word spells, on a running engine. -/
def State.leExecWord (s : State) (e : Fin 4) (w gap : Nat) : State :=
  match leWordOut s e w with
  | some r => stateOf s r
  | none =>
    let i := insOf 255 0 w
    if i.op = 0x2D then s.leEnd e i.mod i.x i.opnd gap else s.leIllegal e w

/-- STEP: one instruction, then halted again; from a cycle boundary, what waits there and the take come first. -/
def State.leStepCmd (s : State) (e : Fin 4) (gap : Nat) : State :=
  if s.attachedLe e && s.leState e == leHalted then
    let s := s.leRunOn e gap
    if s.leState e = leRunning then
      let s := s.setEngine e { s.engine e with want := .step }
      let s := s.leExecWord e (s.leWordAt e (s.leBank e) (s.engine e).pc) gap
      if s.leState e = leRunning then s.leHaltNow e 3 else s
    else s
  else s.answer .debugError

def execLeStep (e : Fin 4) (gap t : Nat) (s : State) : Host.Outcome State Fault Refusal := .next ((s.begin t).leStepCmd e gap)

/-- LE_BREAKPOINT (R197, R234): the engine halts before the instruction at an enabled breakpoint executes. -/
def State.leBreak (s : State) (e : Nat) : State :=
  if s.leCan e && [0, 1, 2, 3].any fun i =>
      s.flag (LE_Ee_BRKi_EN e i) && !s.flag (LE_Ee_BRKi_CYC e i) && s.rd (LE_Ee_BRKi_INDEX e i) == (s.engine e).pc then
    s.leHaltNow e 1
  else s

def execLeBreakpoint (e : Fin 4) (t : Nat) (s : State) : Host.Outcome State Fault Refusal := .next ((s.begin t).leBreak e)

/-- Replace an entry of a stack, numbered from its bottom. -/
def setEntry {α : Type} (i : Nat) (v : α) (l : List α) : List α := if i < l.length then l.set (l.length - 1 - i) v else l

/-- What a debugger write does to the registers of lane A. -/
def debugSet (x : Engine) (w : LeWrite) : Engine :=
  match w with
  | .pc v => { x with pc := v.toNat }
  | .ba v => { x with ba := v }
  | .wa v => { x with wa := v }
  | .xr v => { x with xr := v.toNat }
  | .si v => { x with si := v }
  | .ov v => { x with ov := v }
  | .ip v => { x with ip := v.toNat }
  | .branch i b op => { x with bstack := setEntry i (b, op.val) x.bstack }
  | .call i pc ip xr depth =>
    let old := x.cstack.getD (x.cstack.length - 1 - i) ⟨0, 0, 0, 0, 255⟩
    { x with cstack := setEntry i { old with pc := pc.toNat, ip := ip.toNat, xr := xr.toNat, depth := depth.val } x.cstack }
  | .data _ _ => x

/-- DEBUG_WRITE_ENGINE (R235): a register write of the halted engine is queued for replay, 32 at most; a write to data
memory goes through the fabric port and needs none: a partial write of its row (R438), which check-value units see
(R391). -/
def State.leDebugWrite (s : State) (e : Nat) (w : LeWrite) : State :=
  let x := s.engine e
  if !s.attachedLe e then s.answer .debugError
  else
    match w with
    | .data off v =>
      let q := s.seeRows 0x27 2 [(5, e * 2 ^ 14 + off.val / 32)]
      if q.1 then q.2.answer .debugError
      else ((q.2.putLeData e off [v]).unitWrite [(leDataBase e + off.val, v)]).answer .done
    | _ =>
      if s.leState e ≠ leHalted ∨ 32 ≤ x.replay.length then s.answer .debugError
      else
        let q := x.replay ++ [w]
        ((s.setEngine e { debugSet x w with replay := q }).wr (LE_Ee_DBG_STAT_QFILL e) q.length).answer .done

def execDebugWriteEngine (e : Fin 4) (w : LeWrite) (t : Nat) (s : State) : Host.Outcome State Fault Refusal :=
  .next ((s.begin t).leDebugWrite e w)

/-- An entry of a stack, numbered from its bottom. -/
def getEntry {α : Type} (i : Nat) (l : List α) : Option α := if i < l.length then l[l.length - 1 - i]? else none

/-- What a debugger reads of a register; a stack entry that is not in use has no value the spec gives. -/
def debugGet (x : Engine) (r : LeReg) : Option Nat :=
  match r with
  | .pc => some x.pc
  | .ba => some (b2n x.ba)
  | .wa => some x.wa.toNat
  | .xr => some x.xr
  | .si => some (b2n x.si)
  | .ov => some (b2n x.ov)
  | .ip => some x.ip
  | .branch i => (getEntry i x.bstack).map fun v => v.2 + 8 * b2n v.1
  | .call i => (getEntry i x.cstack).map fun f => f.pc + 2 ^ 18 * (f.ip + 2 ^ 19 * (f.xr + 2 ^ 20 * f.depth))

/-- DEBUG_READ_ENGINE (R235). -/
def State.leDebugRead (s : State) (e : Nat) (r : LeReg) : State :=
  if !s.attachedLe e then s.answer .debugError
  else
    match debugGet (s.engine e) r with
    | some v => s.answer (.ok v)
    | none =>
      let (v, s) := s.free
      s.answer (.ok v)

def execDebugReadEngine (e : Fin 4) (r : LeReg) (t : Nat) (s : State) : Host.Outcome State Fault Refusal :=
  .next ((s.begin t).leDebugRead e r)

/-! ### Nap (R503) -/

/-- LE_NAP_ENTRY: UNLOADED, STOPPED or FAULTED for 1 ms, with NAPENG set. -/
def State.leNap (s : State) (e : Nat) : State :=
  let st := s.leState e
  let since := max (tblGet 0 e s.pmg.idleAt) s.pw.start.at_
  if s.flag PWR_POL_NAPENG && (st == leUnloaded || st == leStopped || st == leFaulted) &&
      decide (since + 1000000 ≤ s.now) && s.rd (PWR_UNIT_UNIT (4 + e)) == 0 then
    (s.wr (PWR_UNIT_UNIT (4 + e)) 2).bump PWR_CNT_NAP
  else s

def execLeNapEntry (e : Fin 4) (t : Nat) (s : State) : Host.Outcome State Fault Refusal := .next ((s.begin t).leNap e)

end Sys2Proof.Machine
end

