-- ==== Sys2Proof/Machine/FirmwareBase.lean ====
section
/-!
DEFINITION. Firmware slots (R531 to R534): what a slot holds, how the FWU_ registers show it, the full check of R530 and
the execution regions.
-/

namespace Sys2Proof.Machine

/-! ### Slot states (R533) -/

abbrev slEmpty : Nat := 0
abbrev slReceiving : Nat := 1
abbrev slComplete : Nat := 2
abbrev slPrepared : Nat := 3
abbrev slTrial : Nat := 4
abbrev slActive : Nat := 5
abbrev slFallback : Nat := 6
abbrev slBad : Nat := 7
abbrev slFailed : Nat := 8

/-- The number of pieces of the image whose header a slot holds (R531). -/
def pieceCount (h : List Byte) : Nat := (conPaylen h + 4095) / 4096

/-- The LEN of piece i. -/
def pieceLen (h : List Byte) (i : Nat) : Nat := min 4096 (conPaylen h - 4096 * i)

/-- Whether every piece of a slot is committed. -/
def FwSlot.whole (x : FwSlot) : Bool := x.pieces.length == pieceCount x.header

/-- A slot erased, and one into which an image is to come. -/
def FwSlot.erased (x : FwSlot) : FwSlot := { slotInit with retired := x.retired }
def FwSlot.opened (x : FwSlot) (h : List Byte) : FwSlot := { x.erased with state := slReceiving, header := h }

/-- Whether too few of a slot's 1024 blocks of 64 pages are left for the image of a header: its two pages and one for
each piece (R532). -/
def FwSlot.cramped (x : FwSlot) (h : List Byte) : Bool := decide (1024 - x.retired < (pieceCount h + 65) / 64)

/-- The bitmap of committed pieces in whole rows of 32 bytes, bit i for piece i. -/
def FwSlot.bitmap (x : FwSlot) : List Byte :=
  (List.range ((pieceCount x.header + 255) / 256 * 32)).map fun b =>
    byteOf ((List.range 8).foldl (fun (m : Nat) j => setBit m j (tblFind (8 * b + j) x.pieces).isSome) 0)

/-- The registers of a slot. -/
def State.showSlot (s : State) (k : Nat) : State :=
  let x := s.fwSlot k
  let n := if x.header = [] then 0 else pieceCount x.header
  let s := (s.wr (FWU_SLOTs_STAT_STATE k) x.state).wr (FWU_SLOTs_STAT_TRIALS k) x.trials
  let s := (s.wr (FWU_SLOTs_DONE_PIECES k) x.pieces.length).wr (FWU_SLOTs_DONE_COUNT k) n
  let s := s.wr64 (FWU_SLOTs_ID_LO k) (FWU_SLOTs_ID_HI k) (conImageid x.header)
  (s.wr (FWU_SLOTs_FWVER k) (conFwver x.header)).wr (FWU_SLOTs_SECVER_SECVER k) (conSecver x.header)

/-- Change a slot; its registers show it. -/
def State.setSlot (s : State) (k : Nat) (x : FwSlot) : State :=
  ({ s with fwu := { s.fwu with slots := tblSet slotInit k x s.fwu.slots } } : State).showSlot k

/-- Move a slot to a state. -/
def State.slotTo (s : State) (k st : Nat) : State := s.setSlot k { s.fwSlot k with state := st }

/-- PREPARED lasts only until a start (R533); the registers show both slots. -/
def State.slotsAtStart (s : State) : State :=
  [0, 1].foldl (fun s k => if (s.fwSlot k).state = slPrepared then s.slotTo k slComplete else s.showSlot k) s

/-! ### Verification (R530, R531, R536) -/

/-- The content key of a header (R529). -/
def contentKey (h : List Byte) : Option (List Byte) := Config.unwrapKey (slice 0x60 40 h)

/-- A piece record opened: its plaintext where its TAG checks. -/
def pieceText (key : List Byte) (r : List Byte) : Option (List Byte) :=
  Config.gcmOpen key (slice 0 12 r) (slice 0 16 r) (slice 0x10 (leAt 0xC 4 r) r) (slice 0x1010 16 r)

/-- The plaintext of every piece in order; none where a piece is missing or a TAG fails. -/
def piecesText (key : List Byte) (ps : Tbl (List Byte)) : List Nat → Option (List Byte)
  | [] => some []
  | i :: r =>
    match (tblFind i ps).bind (pieceText key), piecesText key ps r with
    | some a, some b => some (a ++ b)
    | _, _ => none

/-- The plaintext of the pieces in order up to the first that is missing or fails its TAG. -/
def prefixText (key : List Byte) (ps : Tbl (List Byte)) : List Nat → List Byte
  | [] => []
  | i :: r =>
    match (tblFind i ps).bind (pieceText key) with
    | some a => a ++ prefixText key ps r
    | none => []

/-- What PREPARE has decrypted into the region of a slot whose check fails: every piece up to one that fails its TAG
(R536); nothing where the slot has no content key. -/
def FwSlot.started (x : FwSlot) : List Byte :=
  match contentKey x.header with
  | some key => prefixText key x.pieces (List.range (pieceCount x.header))
  | none => []

/-- The plaintext payload of a slot. -/
def FwSlot.text (x : FwSlot) : Option (List Byte) :=
  match contentKey x.header with
  | some key => piecesText key x.pieces (List.range (pieceCount x.header))
  | none => none

/-- The module's hardware issue (R1), C. -/
def hwIssue : Nat := 0x43

/-- The fused security version (R542). -/
def State.fuse (s : State) : Nat := s.rd FWU_FUSE_SECVER

/-- FWU_RES.ERR of a failing container check (R530, R549). -/
def conErr (code : Nat) : Nat :=
  match code with
  | 0 => 0 | 0x13 => 2 | 0x04 => 2 | 0x05 => 2 | 0x18 => 4 | _ => 3

/-- The check of a slot (R536): every TAG, then the full check of R530. ERR, and the plaintext where it passes. -/
def State.slotCheck (s : State) (k : Nat) : Nat × List Byte :=
  let x := s.fwSlot k
  match x.text with
  | none => (8, [])
  | some p =>
    let e := conErr (containerFail 2 hwIssue s.fuse x.header)
    if e ≠ 0 then (e, []) else if payhashOk x.header p then (0, p) else (0xB, [])

/-- The plaintext in the execution region of a slot (R537). -/
def State.loadRegion (s : State) (k : Nat) (p : List Byte) : State :=
  ((s.putBytes (regionBase k) p).rowsWritten 1 (2 ^ 23 * k) ((p.length + 31) / 32)).unitWrite
    ((List.range p.length).zip p |>.map fun e => (regionBase k + e.1, e.2))

/-- The address at which a slot's image starts. -/
def State.entryOf (s : State) (k : Nat) : Nat := regionBase k + conEntry (s.fwSlot k).header

end Sys2Proof.Machine
end

