-- ==== Sys2Proof/Machine/Power.lean ====
section
/-!
DEFINITION. Battery feeds, the feed health report, and the hold-up store (R48 to R64).
-/

namespace Sys2Proof.Machine

/-- Whether an address is one of a fused register (R20): SYS_SERIAL, UST_Pp_MAC, FWU_FUSE. -/
def fusedAddr (a : Nat) : Bool :=
  a == 0x10000008 || a == 0x1000000C || a == 0x10D00014 || a == 0x10A06014 || a == 0x10A06018

/-- Whether an address is one of the feed health and hold-up registers (R55), in the always-on island. -/
def feedAddr (a : Nat) : Bool := inRange 0x10100100 0x1010014C a

/-- Feed n: its judgements of R49. -/
def State.feed (s : State) (n : Nat) : Feed := if n = 0 then s.pw.feedA else s.pw.feedB

/-- Replace the judgements of feed n. -/
def State.setFeed (s : State) (n : Nat) (f : Feed) : State :=
  if n = 0 then { s with pw := { s.pw with feedA := f } } else { s with pw := { s.pw with feedB := f } }

/-- The newest SEQ in NAND plus one, or 0: what the sequence continues from at a start (R491). -/
def nextSeq (rings : List NandRec) : Nat := match rings.getLast? with | none => 0 | some r => r.seq + 1

/-- Whether an address is a register of the always-on island (R526, R527), or of the RNG_ mirror (R511). -/
def islandAddr (a : Nat) : Bool := inRange 0x10100000 0x10110000 a
def mirrorAddr (a : Nat) : Bool := inRange 0x10700000 0x10800000 a

/-- An engine as a loss of its supply leaves it: the NAND retain copy. -/
def engineDark (x : Engine) : Engine := { engineInit with nand := x.nand }

/-- What a loss of every rail leaves: the register fields that `keep` names, the feed judgements, and what lies in
NAND, fuses and the key (R67, R523); everything else is at its power-on value, global time with it. -/
def State.dark (s : State) (keep : Nat → Bool) : State :=
  { State.reset with
    pending := s.pending
    resp := s.resp
    out := s.out
    fresh := s.fresh
    regs := tblKeep (fun k => keep (keyAddr k)) s.regs
    pw := { powerInit with feedA := s.pw.feedA, feedB := s.pw.feedB, t0 := s.pw.t0 }
    eng := [0, 1, 2, 3].foldl (fun m e => tblSet engineInit e (engineDark (tblGet engineInit e s.eng)) m) []
    key := { keyInit with mem := s.key.mem, latched := s.key.latched }
    fwu := { firmwareInit with slots := s.fwu.slots }
    rcd := { recorderInit with
      next := nextSeq s.rcd.rings
      rings := s.rcd.rings
      heart := s.rcd.heart
      spares := s.rcd.spares
      pages := s.rcd.pages
      ringCap := s.rcd.ringCap
      heartOpen := s.rcd.heartOpen
      heartFull := s.rcd.heartFull
      heartClosed := s.rcd.heartClosed }
    cop := { coppiceInit with
      fuses := s.cop.fuses
      log := s.cop.log
      hardUsed := s.cop.hardUsed
      nandRetired := s.cop.nandRetired
      nandSpare := s.cop.nandSpare } }

/-- A confirmation record whose page program a loss of power or a reset interrupts (R83). -/
def State.confTorn (s : State) : State :=
  match s.key.conf, s.key.mem with
  | some (i, r), some m =>
    let n := s.fresh
    { s with
      fresh := n + 1
      key := { s.key with conf := none, mem := some { m with comm := journalPut m.comm i (tornRecord 1 n r) } } }
  | _, _ => s

/-- The command lanes that were on fall when the output stages lose power. -/
def State.lanesFall (s : State) : State :=
  (List.range 192).foldl (fun s n => if s.flag (IOG_CHn_STAT_CMDLANE n) then s.emit (.command n false) else s) s

/-- The permit lanes that were on fall when Ranger loses power. -/
def State.permitsFall (s : State) : State :=
  (List.range 192).foldl (fun s n => if bitAt s.io.permits n then s.emit (.permit n false) else s) s

/-- Whether an address is one of the stamps of return of a feed that is good: the return that a power-on follows from.
-/
def State.goodStampAddr (s : State) (a : Nat) : Bool :=
  (s.pw.feedA.good && inRange 0x10100118 0x10100120 a) || (s.pw.feedB.good && inRange 0x10100138 0x10100140 a)

/-- Every rail but the always-on island loses power, and no power-fail is in progress. Where a feed is good by then, the
power-on that R63 lays down comes with the park, and resets the feed registers but the stamp of the return (R55, R523);
otherwise they stand until a feed returns. -/
def State.parked (s : State) : State :=
  let on := s.pw.feedA.good || s.pw.feedB.good
  (s.confTorn.lanesFall.permitsFall.dark fun a => fusedAddr a || (if on then s.goodStampAddr a else feedAddr a)).wr
    PWR_HOLDUP_STAT_PHASE 0

/-- The always-on island loses power too. -/
def State.islandOff (s : State) : State := s.confTorn.lanesFall.permitsFall.dark fusedAddr

/-- Hibernate: every rail except the always-on island and Ranger loses power (R510, R511). -/
def State.hibernated (s : State) : State :=
  let z := s.confTorn.lanesFall.dark fun a => fusedAddr a || islandAddr a || mirrorAddr a
  { z with
    rng := s.rng
    pmg := { z.pmg with edges := s.pmg.edges }
    io := { z.io with permits := s.io.permits }
    pw := { z.pw with phase := .hibernate } }

/-- The instant of a feed's GOOD stamp. -/
def State.goodStamp (s : State) (n : Nat) : Nat := s.rd64 (PWR_FEEDn_GOOD_LO n) (PWR_FEEDn_GOOD_HI n)

/-- A feed record (R51): class SUPPLY, with the feed's status register. -/
def State.feedRecord (s : State) (n kind : Nat) : State :=
  s.record 5 1 kind n (some (0x10100104 + 0x20 * n)) none

/-- FEED_GOOD (R49): the stamp of return is set; a power-fail that has not reached flush entry ends (R60); a feed record
is written (R51). With the module off and no feed good, this is the power-on of the always-on island: only power-on
resets its registers. -/
def State.feedGood (s : State) (n : Nat) : State :=
  if (s.feed n).good then s
  else
    let s := if s.pw.phase == .off && !s.pw.feedA.good && !s.pw.feedB.good then { s.islandOff with now := s.now } else s
    let s := (s.wakeEdge 1).setFeed n { s.feed n with good := true }
    let s := s.wr64 (PWR_FEEDn_GOOD_LO n) (PWR_FEEDn_GOOD_HI n) s.now
    let s := s.feedRecord n 0xFF
    if s.pw.failing && s.pw.phase != .flush then
      { s with pw := { s.pw with failing := false } }.wr PWR_HOLDUP_STAT_PHASE 0
    else s

def execFeedGood (n : Fin 2) (t : Nat) (s : State) : Host.Outcome State Fault Refusal := .next ((s.begin t).feedGood n)

/-- POWER_FAIL (R59): both feeds are lost; t0 is declared and stamped, and the store carries the whole load. In
Hibernate the always-on island and Ranger lose power instead (R524). -/
def State.powerFail (s : State) : State :=
  match s.pw.phase with
  | .off => s
  | .hibernate => s.islandOff
  | .flush => s
  | _ => { s with pw := { s.pw with failing := true, t0 := s.now } }.wr PWR_HOLDUP_STAT_PHASE 1

/-- FEED_LOST (R49): LOSTEV and the stamp of loss are set, source 236 is raised, a feed record is written, LOW clears;
with no feed left this is a power-fail. -/
def State.feedLost (s : State) (n : Nat) : State :=
  if (s.feed n).good then
    let s := (s.wakeEdge 1).setFeed n { s.feed n with good := false, low := false }
    let s := s.wr64 (PWR_FEEDn_LOST_LO n) (PWR_FEEDn_LOST_HI n) s.now
    let s := (s.wr (PWR_FEEDn_STAT_LOSTEV n) 1).raise 236
    let s := s.feedRecord n 236
    if !s.pw.feedA.good && !s.pw.feedB.good then s.powerFail else s
  else s

def execFeedLost (n : Fin 2) (t : Nat) (s : State) : Host.Outcome State Fault Refusal := .next ((s.begin t).feedLost n)

/-- FEED_LOW_SET (R49): below the low warning for 20 µs and not lost. -/
def execFeedLowSet (n : Fin 2) (t : Nat) (s : State) : Host.Outcome State Fault Refusal :=
  let s := s.begin t
  .next (if (s.feed n).good then s.setFeed n { s.feed n with low := true } else s)

/-- FEED_LOW_CLEAR (R49). -/
def execFeedLowClear (n : Fin 2) (t : Nat) (s : State) : Host.Outcome State Fault Refusal :=
  let s := s.begin t
  .next (s.setFeed n { s.feed n with low := false })

/-- FEED_HIGH_SET (R49). -/
def execFeedHighSet (n : Fin 2) (t : Nat) (s : State) : Host.Outcome State Fault Refusal :=
  let s := s.begin t
  .next (s.setFeed n { s.feed n with high := true })

/-- FEED_HIGH_CLEAR (R49). -/
def execFeedHighClear (n : Fin 2) (t : Nat) (s : State) : Host.Outcome State Fault Refusal :=
  let s := s.begin t
  .next (s.setFeed n { s.feed n with high := false })

/-- REVERSE_CURRENT_EVENT (R55): REV sets, REVCNT counts, source 236 is raised. -/
def execReverseCurrentEvent (n : Fin 2) (t : Nat) (s : State) : Host.Outcome State Fault Refusal :=
  .next ((((s.begin t).wr (PWR_FEEDn_STAT_REV n) 1).bump (PWR_FEEDn_REVCNT_CNT n)).raise 236)

/-- Whether feed n's ideal diode conducts (R50): feeds within 0.5 V of each other share, otherwise the higher carries;
voltages are in 10 mV. -/
def feedCarries (good otherGood : Bool) (v other : Nat) : Bool :=
  good && (!otherGood || decide (other ≤ v + 50))

/-- The share of a current in a total, in percent, rounded down; 0 where nothing flows. -/
def sharePct (i total : Nat) : Nat := if total = 0 then 0 else i * 100 / total

/-- One feed's part of the report: its measurements and the judgements as they stand. -/
def State.reportFeed (s : State) (n v i : Nat) (carry : Bool) (share : Nat) : State :=
  let f := s.feed n
  let s := (s.wr (PWR_FEEDn_MEAS_VOLT n) (sat 16 v)).wr (PWR_FEEDn_MEAS_CURR n) (sat 16 i)
  let s := ((s.wrB (PWR_FEEDn_STAT_GOOD n) f.good).wrB (PWR_FEEDn_STAT_LOW n) f.low).wrB (PWR_FEEDn_STAT_HIGH n) f.high
  (s.wrB (PWR_FEEDn_STAT_CARRY n) carry).wr (PWR_FEEDn_STAT_SHARE n) share

/-- FEED_REPORT_REFRESH (R54): one image of both feeds and the store voltage is published, and PWR_FEED_SEQ increments.
Voltages are in 10 mV, currents in mA. -/
def State.feedReport (s : State) (va ia vb ib vstore : Nat) : State :=
  let ga := s.pw.feedA.good
  let gb := s.pw.feedB.good
  let s := s.reportFeed 0 va ia (feedCarries ga gb va vb) (sharePct ia (ia + ib))
  let s := s.reportFeed 1 vb ib (feedCarries gb ga vb va) (sharePct ib (ia + ib))
  (s.wr PWR_HOLDUP_STAT_VSTORE (sat 16 vstore)).tick PWR_FEED_SEQ

def execFeedReportRefresh (va ia vb ib vstore t : Nat) (s : State) : Host.Outcome State Fault Refusal :=
  .next ((s.begin t).feedReport va ia vb ib vstore)

/-- At every start CAP reads 0 until measured and AGED is clear; a store above 40 V (4000 × 10 mV) is not measured, and
a STATE record notes it (R57). -/
def State.measureDue (s : State) (vstore : Nat) : State :=
  let s := (s.wr PWR_HOLDUP_CAP_CAP 0).wr PWR_HOLDUP_STAT_AGED 0
  if 4000 < vstore then
    ({ s with pw := { s.pw with start := { s.pw.start with measure := false } } } : State).record 3 1 0xFF 0xFFFF
      (some 0x10100144) (some 0x10100148)
  else { s with pw := { s.pw with start := { s.pw.start with measure := true } } }

/-- HOLDUP_MEASURED (R57): the capacitance in µF; below 1200 µF AGED sets, source 235 is raised and an alarm record is
written. -/
def State.holdupMeasured (s : State) (cap : Nat) : State :=
  if s.pw.start.measure then
    let s : State := { s with pw := { s.pw with start := { s.pw.start with measure := false } } }
    let s := s.wr PWR_HOLDUP_CAP_CAP (sat 16 cap)
    if cap < 1200 then
      ((s.wr PWR_HOLDUP_STAT_AGED 1).raise 235).record 2 1 235 0xFFFF (some 0x10100144) (some 0x10100148)
    else s
  else s

def execHoldupMeasured (cap t : Nat) (s : State) : Host.Outcome State Fault Refusal :=
  .next ((s.begin t).holdupMeasured cap)

/-- READY_SET (R58): a charge of the store reaches 50 V. -/
def execReadySet (t : Nat) (s : State) : Host.Outcome State Fault Refusal :=
  let s := s.begin t
  .next ({ s with pw := { s.pw with start := { s.pw.start with ready := true, wasReady := true } } }.wr PWR_HOLDUP_STAT_READY 1)

/-- READY_CLEAR (R58): the store falls below 50 V; this holds back the cyclic programs and Canopy until the first cyclic
program of the start has run, and stops nothing after that. -/
def execReadyClear (t : Nat) (s : State) : Host.Outcome State Fault Refusal :=
  let s := s.begin t
  .next ({ s with pw := { s.pw with start := { s.pw.start with ready := s.pw.start.ran } } }.wr PWR_HOLDUP_STAT_READY 0)

/-- STORE_EXHAUSTED (R61, R64): the store passes 20 V; the always-on island stops, and a power-fail that has not sealed
ends without a seal. The store can only fall that far without a feed that carries the load. -/
def execStoreExhausted (t : Nat) (s : State) : Host.Outcome State Fault Refusal :=
  let s := s.begin t
  .next (if s.pw.failing || s.pw.phase == .flush || (!s.pw.feedA.good && !s.pw.feedB.good) then s.islandOff else s)

end Sys2Proof.Machine
end

