-- ==== Sys2Proof/Machine/Train.lean ====
section
/-!
DEFINITION. The train fabric (R347 to R366): links and triggers, inauguration frames, the sequence of an inauguration,
how a node builds the train from the RECORDs, and the table taking effect.
-/

namespace Sys2Proof.Machine

/-! ### The chain of RECORDs (R359 steps 1 to 4) -/

/-- One node of the chain: its RECORD and which of its sides faces the chain's left end (0 fore, 1 aft). -/
structure ChainNode where
  body : List Byte
  left : Nat
  deriving DecidableEq, Repr

/-- What a side leads to on one plane: `none` while the neighbour's RECORD is missing, `some none` where no link belongs
to the train, else the neighbour's RECORD and the side of it that the link joins. -/
def sideOnPlane (rs : List (List Byte)) (r : List Byte) (side plane : Nat) : Option (Option (List Byte × Nat)) :=
  let d := recDelay r side plane
  if recNbr r side plane = 0 ∨ d = 0xFFFF then some none
  else
    match rs.find? fun q => recSerial q == recNbr r side plane with
    | none => none
    | some q =>
      some (([1 - side, side].find? fun y => recNbr q y plane == recSerial r && sideCarries q y plane &&
        recDelay q y plane != 0xFFFF && decide (d + recDelay q y plane ≤ 2000)).map fun y => (q, y))

/-- What a side leads to: plane A's neighbour, or plane B's where plane A names no other and has no link (R359 step
1). -/
def sideLink (rs : List (List Byte)) (r : List Byte) (side : Nat) : Option (Option (List Byte × Nat)) :=
  match sideOnPlane rs r side 0 with
  | none => none
  | some (some x) => some (some x)
  | some none => if sideCarries r side 1 then sideOnPlane rs r side 1 else some none

/-- Walk the chain out of a side: the nodes met with the side by which each was entered, and whether the walk came back
to its origin; none while a RECORD is missing. -/
def walkChain (rs : List (List Byte)) (origin : Nat) : Nat → List Byte → Nat → Option (List (List Byte × Nat) × Bool)
  | 0, _, _ => none
  | n + 1, r, side =>
    match sideLink rs r side with
    | none => none
    | some none => some ([], false)
    | some (some (q, y)) =>
      if recSerial q = origin then some ([], true)
      else
        match walkChain rs origin n q (1 - y) with
        | none => none
        | some (l, ring) => some ((q, y) :: l, ring)

/-- The chain that contains a node, from the end its fore side looks to; or the ring. -/
def chainOf (rs : List (List Byte)) (own : List Byte) : Option (List ChainNode × Bool) :=
  let fuel := rs.length + 1
  match walkChain rs (recSerial own) fuel own 1 with
  | none => none
  | some (aft, true) => some (⟨own, 0⟩ :: aft.map fun x => ⟨x.1, x.2⟩, true)
  | some (aft, false) =>
    match walkChain rs (recSerial own) fuel own 0 with
    | none => none
    | some (fore, _) =>
      some ((fore.reverse.map fun x => ⟨x.1, 1 - x.2⟩) ++ [⟨own, 0⟩] ++ aft.map fun x => ⟨x.1, x.2⟩, false)

/-- A keyed node; its identity in the order of R349. -/
def ChainNode.keyed (n : ChainNode) : Bool := !recKeyless n.body
def ChainNode.ident (n : ChainNode) : Nat := recConsist n.body * 65536 + recCar n.body * 256 + recModule n.body
def ChainNode.rank (n : ChainNode) : Nat := n.ident * 2 ^ 32 + recSerial n.body
def ChainNode.flip (n : ChainNode) : ChainNode := { n with left := 1 - n.left }

/-- The node of lowest identity. -/
def lowestNode : List ChainNode → Option ChainNode
  | [] => none
  | n :: r =>
    match lowestNode r with
    | none => some n
    | some m => if n.rank ≤ m.rank then some n else some m

/-- The nodes from the lead end on, left facing it (R359 steps 3 and 4); none where no node is keyed. -/
def orientChain (l : List ChainNode) (ring : Bool) : Option (List ChainNode) :=
  let keyed := l.filter ChainNode.keyed
  if ring then
    let cabs := keyed.filter fun n => recFlag n.body 0
    match lowestNode (if cabs = [] then keyed else cabs) with
    | none => none
    | some lead =>
      let i := (l.findIdx? fun n => n == lead).getD 0
      let c := l.drop i ++ l.take i
      if lead.left = 1 then some c else some (lead.flip :: (c.drop 1).reverse.map ChainNode.flip)
  else
    match keyed, keyed.getLast? with
    | a :: _, some b =>
      let cabA := recFlag a.body 0
      let cabB := recFlag b.body 0
      let leadLeft :=
        if recSerial a.body = recSerial b.body then a.left == 0
        else if cabA != cabB then cabA
        else decide (a.rank ≤ b.rank)
      some (if leadLeft then l else l.reverse.map ChainNode.flip)
    | _, _ => none

/-! ### Exclusions and consists (R359 steps 5 and 6) -/

/-- What the walk from the lead end keeps: the run it is in and whether that run is excluded, the serials of the
consists so far, identities met, nodes kept. -/
structure Keep where
  cur : Option Nat
  out : Bool
  met : List Nat
  ids : List Nat
  nodes : List TNode
  deriving DecidableEq, Repr

def keepNode (k : Keep) (n : ChainNode) : Keep :=
  if !n.keyed then
    if 128 ≤ k.nodes.length then k else { k with nodes := k.nodes ++ [⟨n.body, 0, n.left == 0⟩] }
  else
    let c := recConsist n.body
    let fresh := k.cur != some c
    let out := if fresh then k.met.contains c || decide (8 ≤ k.met.length) else k.out
    let met := if fresh && !out then k.met ++ [c] else k.met
    let k := { k with cur := some c, out := out, met := met }
    if out || k.ids.contains n.ident || decide (128 ≤ k.nodes.length) then k
    else
      { k with
        ids := k.ids ++ [n.ident]
        nodes := k.nodes ++ [⟨n.body, (met.findIdx? (· == c)).getD 0, n.left == 0⟩] }

/-- The nodes of the train, in node ID order, and the consists from the lead end. -/
def keepNodes (l : List ChainNode) : List TNode × List Nat :=
  let k := l.foldl keepNode ⟨none, false, [], [], []⟩
  (k.nodes, k.met)

/-- The RECORD of the member of lowest index of a consist. -/
def lowestMember (c : Nat) : List (List Byte) → Option (List Byte)
  | [] => none
  | r :: rest =>
    let other := lowestMember c rest
    if recKeyless r ∨ recConsist r ≠ c then other
    else
      match other with
      | none => some r
      | some q => if recMember r * 2 ^ 32 + recSerial r ≤ recMember q * 2 ^ 32 + recSerial q then some r else some q

/-! ### BLAZES (R356) -/

/-- Fields of a BLAZES payload. -/
def blzSerial (p : List Byte) : Nat := beAt 8 4 p
def blzPart (p : List Byte) : Nat := beAt 12 1 p
def blzNpart (p : List Byte) : Nat := beAt 13 1 p
def blzCount (p : List Byte) : Nat := beAt 14 2 p
def blzHome (p : List Byte) : Nat := beAt 16 1 p
def blzEntries (p : List Byte) : List Nat := (List.range (blzCount p)).map fun i => beAt (20 + 8 * i) 8 p

/-- The BLAZES payloads of a node in order of PART; none until every part is in. -/
def blazesOf (ps : List (List Byte)) (serial : Nat) : Option (List (List Byte)) :=
  match ps.find? fun p => blzSerial p == serial with
  | none => none
  | some q => (List.range (max 1 (blzNpart q))).mapM fun i => ps.find? fun p => blzSerial p == serial && blzPart p == i

/-! ### Slots, segments and the train (R319, R325, R359 steps 7 and 8, R361) -/

/-- Sync slots before the inauguration: of two nodes with one slot the lower node ID keeps it. -/
def keptSlots (nodes : List (Nat × TNode)) : List (Nat × Nat) :=
  [0, 1, 2, 3].filterMap fun k =>
    (nodes.find? fun n => !recKeyless n.2.body && recSlot n.2.body == k).map fun n => (k, n.1)

/-- Free slots go to nodes with SYNCM in node ID order. -/
def giveSlots : List Nat → List (Nat × TNode) → List (Nat × Nat)
  | _, [] => []
  | [], _ => []
  | k :: ks, n :: ns => (k, n.1) :: giveSlots ks ns

/-- The sync slots after an inauguration, as (slot, node ID). -/
def slotsFor (count : Nat) (nodes : List TNode) : List (Nat × Nat) :=
  let ns := (List.range nodes.length).zip nodes |>.map fun n => (n.1 + 1, n.2)
  let kept := keptSlots ns
  let free := (List.range count).filter fun k => !(kept.any fun x => x.1 == k)
  let want := ns.filter fun n => !recKeyless n.2.body && recFlag n.2.body 2 && !(kept.any fun x => x.2 == n.1)
  let all := kept ++ giveSlots free want
  if all.any fun x => x.1 == 0 then all
  else
    match ns.find? fun n => !recKeyless n.2.body with
    | none => all
    | some n => (0, n.1) :: all.filter fun x => x.2 != n.1

/-- The segment each consist takes where no RECORD has ACTIVE (R319), the lead consist first. -/
def State.takeSegments (s : State) : List Nat → List (List Byte) → List (Option Nat)
  | _, [] => []
  | taken, r :: rest =>
    let ok := fun g => !taken.contains g && decide (recSpan r ≤ s.segLength g)
    let g := if ok (recHome r) then some (recHome r) else (List.range 8).find? ok
    g :: s.takeSegments (match g with | some k => k :: taken | none => taken) rest

/-- What an inauguration comes to. -/
inductive Built where
  /-- A RECORD or a BLAZES part is missing. -/
  | missing
  /-- No node of the chain is keyed (R362). -/
  | keyless
  | train (t : Train)
  deriving DecidableEq, Repr

/-- The consists of a train, with their segments. -/
def State.buildConsists (s : State) (all : List (List Byte)) (prev : Nat) (serials : List Nat) : List Consist :=
  let recs := serials.map fun c => (lowestMember c all).getD []
  let active := all.any fun r => recFlag r 3
  let kept := serials.map fun c =>
    match all.find? fun r => !recKeyless r && recConsist r == c && prev != 0 && recPrevcrc r == prev with
    | some r => if recSegheld r < 8 then some (recSegheld r) else none
    | none => none
  let segs := if active then kept else s.takeSegments [] recs
  (serials.zip (recs.zip segs)).map fun x =>
    ⟨x.1, x.2.2, recHome x.2.1, ((blazesOf s.fab.blazes (recSerial x.2.1)).getD []).flatMap blzEntries⟩

/-- Build the train from what was collected (R359). -/
def State.buildTrain (s : State) (own : List Byte) : Built :=
  match chainOf s.fab.records own with
  | none => .missing
  | some (l, ring) =>
    match orientChain l ring with
    | none => .keyless
    | some c =>
      let all := c.map (·.body)
      let serials := ((all.filter fun r => !recKeyless r).map recConsist).eraseDups
      let parts := serials.all fun k =>
        match lowestMember k all with
        | some r => (blazesOf s.fab.blazes (recSerial r)).isSome
        | none => true
      if !parts then .missing
      else
        let (nodes, cs) := keepNodes c
        let slots := slotsFor (s.rd CNP_PLAN1_NSYNC + 1) nodes
        let committer := (slots.find? fun x => x.1 == 0).bind fun x => nodes[x.2 - 1]?
        let prev := match committer with | some n => recPrevcrc n.body | none => 0
        let consists := s.buildConsists all prev cs
        let crc := crc32c (all.flatten ++ consists.flatMap fun k => k.entries.flatMap (beBytes 8))
        .train
          { nodes := nodes
            chain := all.map recSerial
            ring := ring
            own := nodes.findIdx? fun n => recSerial n.body == recSerial own
            consists := consists
            slots := slots
            crc := crc }

/-! ### Frames (R354 to R356) -/

/-- This module's serial (R349). -/
def State.serial (s : State) : Nat := s.rd SYS_SERIAL_LO

/-- The head of an inauguration payload. -/
def State.inaHead (s : State) (op : Nat) : List Byte :=
  [byteOf op, byteOf (s.ident KEY_VEH_ID0_DOMAIN)] ++ beBytes 2 s.fab.ina ++ beBytes 2 (s.ident KEY_VEH_ID0_CONSIST) ++
    [byteOf (s.ident KEY_VEH_ID1_CAR), byteOf (s.ident KEY_VEH_ID1_MODULE)] ++ beBytes 4 s.serial

/-- FLAGS of a RECORD. -/
def State.inaFlags (s : State) : Nat :=
  s.ident KEY_VEH_ID1_CAB + 2 * s.ident KEY_VEH_ID1_PLATFORM + 4 * s.ident CNP_PLAN1_SYNCM +
    8 * b2n (s.joinState == joinActive) + 16 * b2n (s.syncState == syncSynced) + 32 * b2n (!s.loaded)

/-- A port's neighbour and result, where it is up, of the own domain and measured. -/
def State.measured (s : State) (p : Nat) : Option (Nat × Nat) :=
  match s.linkUp p && !s.portForeign p, (s.portLink p).nbr, (s.portLink p).delay with
  | true, some n, some d => some (n.serial, d)
  | _, _, _ => none

/-- The residence time a RECORD carries (R360): the mean of those measured. -/
def State.residence (s : State) (plane : Nat) : Nat :=
  match tblFind plane s.cnp.resid with
  | some (sum, n) => sum / (8 * n)
  | none => 1100

/-- The RECORD payload of this node (R355). -/
def State.ownRecord (s : State) : List Byte :=
  let order := [0, 2, 1, 3]
  let nbr := fun p => match s.measured p with | some x => x.1 | none => 0
  let del := fun p => match s.measured p with | some x => x.2 | none => 0xFFFF
  s.inaHead 5 ++ [byteOf s.inaFlags, if s.isMaster then byteOf s.slotHeld else 0xFF,
      match s.ownSeg with | some g => byteOf g | none => 0xFF, byteOf (s.rd CNP_PLAN1_HOMESEG)] ++
    beBytes 4 s.ownSpan ++ beBytes 4 (s.rd CNP_PLANCRC) ++ beBytes 4 s.fab.prevCrc ++
    order.flatMap (fun p => beBytes 4 (nbr p)) ++ order.flatMap (fun p => beBytes 2 (del p)) ++
    beBytes 2 (s.residence 0) ++ beBytes 2 (s.residence 1) ++ [byteOf s.nodeId, 0, 0, 0]

/-- A BLAZES entry of a table entry. -/
def announce (e : Entry) : Nat :=
  e.fid + 2 ^ 10 * e.sender + 2 ^ 17 * e.planes + 2 ^ 19 * e.kind + 2 ^ 22 * e.offset + 2 ^ 42 * e.length

/-- The BLAZES payloads of this node's consist. -/
def State.ownBlazes (s : State) : List (List Byte) :=
  let es := ((List.range s.blazeCount).map s.entry).filter fun e => !e.foreign
  let n := max 1 (ceilDiv es.length 170)
  (List.range n).map fun i =>
    let part := slice0 (170 * i) 170 es
    s.inaHead 6 ++ [byteOf i, byteOf n] ++ beBytes 2 part.length ++ [byteOf (s.rd CNP_PLAN1_HOMESEG), 0, 0, 0] ++
      part.flatMap fun e => beBytes 8 (announce e)
where
  /-- The part of a list from an index on. -/
  slice0 (off n : Nat) (l : List Entry) : List Entry := (l.drop off).take n

/-- Put an inauguration frame out of one port. -/
def State.inaPut (s : State) (p : Nat) (x : EtFrame) : State := if s.linkUp p then s.etPut p x else s

/-- A frame for the neighbour on one port. -/
def State.inaNear (s : State) (p : Nat) (payload : List Byte) : State := s.inaPut p (ownFrame (s.frame frIna 0 0 0 payload))

/-- A flood of this node: on both planes out of both sides, but not towards another domain. -/
def State.inaFlood (s : State) (payload : List Byte) : State :=
  [0, 1, 2, 3].foldl (fun s p => if s.portForeign p then s else s.inaPut p (ownFrame (s.frame frIna 0xFF 0 0 payload))) s

/-- HELLO on a port; a delay request on a port whose neighbour is known and not measured. -/
def State.sendHello (s : State) (p : Nat) : State :=
  s.inaNear p (s.inaHead 2 ++ [byteOf s.inaFlags, byteOf (portSide p), 0, 0] ++ beBytes 4 (s.rd CNP_PLANCRC))
def State.sendDreq (s : State) (p : Nat) : State := s.inaNear p (s.inaHead 3 ++ beBytes 8 0)

/-- Begin to measure a port's link where that is due. -/
def State.measure (s : State) (p : Nat) : State :=
  let l := s.portLink p
  if l.nbr.isSome && l.delay.isNone && l.exch == 0 && !s.portForeign p && s.linkUp p &&
      (s.rd CNP_INA_STAT_STATE == 1 || l.late) then s.sendDreq p
  else s

/-! ### The sequence of an inauguration (R357, R358) -/

abbrev inaIdle : Nat := 0
abbrev inaNeighbour : Nat := 1
abbrev inaRecords : Nat := 2
abbrev inaDigest : Nat := 3
abbrev inaCommit : Nat := 4
abbrev inaEffect : Nat := 5

def State.inaState (s : State) : Nat := s.rd CNP_INA_STAT_STATE
def State.setFab (s : State) (f : Fabric) : State := { s with fab := f }

/-- Whether the start has come far enough for an inauguration (R58, R91); a core-exhausted module applies no key
(R105). -/
def State.mayInaugurate (s : State) : Bool :=
  s.pw.phase == .running && s.pw.start.ready && (s.pw.exhausted || (s.pw.start.applied && s.pw.start.firmware))

/-- Whether every port with link up is measured, or looks to another domain. -/
def State.allMeasured (s : State) : Bool :=
  [0, 1, 2, 3].all fun p => !s.linkUp p || s.portForeign p || (s.measured p).isSome

/-- Whether this node is the committer of the train it has built (R361). -/
def State.committer (s : State) : Bool :=
  match s.fab.built with
  | some t => (match t.own with | some i => t.slots.contains (0, i + 1) | none => false)
  | none => false

/-- An exchange of a link not yet measured is broken off, and starts afresh. -/
def PortLink.afresh (l : PortLink) : PortLink :=
  if l.delay.isSome then l else { l with exch := 0, sum := 0, t1 := none }

/-- Enter NEIGHBOUR of an inauguration with a number (R357); `start` says that its START is at hand, which is t_s. Its
trigger is that of the inauguration it takes over, the one held, or its own entry (R364). -/
def State.inaEnter (s : State) (ina : Nat) (start : Bool) : State :=
  let trig := if s.inaBusy then s.fab.trigAt else s.fab.heldTrigger.getD s.now
  let s := s.setFab { s.fab with
    ina := ina % 65536, top := ina % 65536, trigAt := trig, tS := s.now, tsFirm := start, records := [], blazes := [],
    digests := [], seen := [], built := none, heldTrigger := none, effect := none, completing := false, started := true }
  let s := ((s.wr CNP_INA_STAT_STATE inaNeighbour).wr CNP_INA_STAT_STARTEV 1).wr CNP_INA_NUM_INA ina
  let s := s.raise 128
  [0, 1, 2, 3].foldl (fun s p => ((s.setPortLink p (s.portLink p).afresh).sendHello p).measure p) s

/-- Start an inauguration: START, with INA one above the highest seen. -/
def State.inaBegin (s : State) : State :=
  let s := s.inaEnter (s.fab.top + 1) true
  s.inaFlood (s.inaHead 1)

/-- The inauguration fails (R358): counted, reported in WHY, and tried again. -/
def State.inaFail (s : State) (why : Nat) : State :=
  let s := ((s.bump CNP_INA_CNT_FAIL).wr CNP_INA_STAT_FAILEV 1).wr CNP_INA_STAT_WHY why
  (s.raise 130).inaBegin

/-- A COMMIT that matches (R363): a node of the prevailing part that is SYNCED waits for EFFECT, every other leaves
ACTIVE and applies the table at its next own mark. -/
def State.inaMatched (s : State) (effect : Nat) : State :=
  let prev := match s.fab.built with
    | some t => (match (t.slots.find? fun x => x.1 == 0).bind fun x => t.nodes[x.2 - 1]? with
      | some n => recPrevcrc n.body
      | none => 0)
    | none => 0
  let mine := prev != 0 && prev == s.fab.prevCrc && s.syncState == syncSynced
  let s := s.wr CNP_INA_STAT_STATE inaEffect
  let s := s.setFab { s.fab with effect := some (if mine then effect else s.markNs + s.tcNs), doneAt := effect }
  if mine then s else s.leaveActive

/-- The committer commits once it holds an equal DIGEST of every node of the chain (R357). -/
def State.inaTryCommit (s : State) : State :=
  match s.fab.built with
  | none => s
  | some t =>
    if s.inaState = inaCommit ∧ s.committer ∧ t.chain.all (fun n => s.fab.digests.any fun d => d.1 == n && d.2.1 == t.crc)
    then
      let effect := ceilDiv (s.now + 30000000) s.tcNs * s.tcNs
      let s := s.inaFlood (s.inaHead 8 ++ beBytes 4 t.crc ++ [byteOf t.nodes.length, 0, 0, 0] ++ beBytes 8 effect)
      s.inaMatched effect
    else s

/-- Whether the link of a port is measured and no longer than 1.0 µs: the mean of its two ends' results, or this end's
where the other's is not at hand (R360). -/
def State.linkNear (s : State) (p : Nat) : Bool :=
  match s.measured p with
  | none => false
  | some (n, d) =>
    let far := (s.fab.records.find? fun q => recSerial q == n).bind fun q =>
      (([0, 1].find? fun y => recNbr q y (portPlane p) == s.serial).map fun y => recDelay q y (portPlane p)).filter (· != 0xFFFF)
    decide (d + far.getD d ≤ 2000)

/-- The inauguration of a keyless chain ends (R362): no table, ALONE, both planes forward over the links that may be
used. -/
def State.inaKeyless (s : State) : State :=
  let s := (s.wr CNP_INA_STAT_STATE inaIdle).goSilent.setSync syncAlone
  let near := [0, 1, 2, 3].filter s.linkNear
  let far := [0, 1, 2, 3].any fun p => (s.measured p).isSome && !s.linkNear p
  let s := [0, 1, 2, 3].foldl (fun s p => s.setPortLink p { s.portLink p with used := near.contains p }) s
  let s := s.wrB CNP_INA_STAT_LDERR far
  if s.fab.heldTrigger.isSome then s.inaBegin else s

/-- The train is built (R357 DIGEST): the own DIGEST leaves, and those already in are compared. -/
def State.inaBuilt (s : State) (t : Train) (own : List Byte) : State :=
  let s := s.setFab { s.fab with
    built := some t, digests := s.fab.digests ++ [(s.serial, t.crc, t.nodes.length)] }
  let differ := [0, 1].any fun side =>
    recNbr own side 0 != 0 && recNbr own side 1 != 0 && recNbr own side 0 != recNbr own side 1
  let far := [0, 1].any fun side => [0, 1].any fun plane =>
    let n := recNbr own side plane
    n != 0 && (match s.fab.records.find? fun q => recSerial q == n with
      | some q => [0, 1].any fun y => recNbr q y plane == recSerial own && recDelay q y plane != 0xFFFF &&
          decide (2000 < recDelay own side plane + recDelay q y plane)
      | none => false)
  let s := (s.wrB CNP_INA_STAT_XPLANE differ).wrB CNP_INA_STAT_LDERR far
  let s := (s.wr CNP_INA_STAT_STATE inaCommit).inaFlood
    (s.inaHead 7 ++ beBytes 4 t.crc ++ [byteOf t.nodes.length, 0, 0, 0])
  if s.fab.digests.any fun d => d.2.1 != t.crc then s.inaFail 1 else s.inaTryCommit

/-- RECORDS: the member of lowest index floods the BLAZES of its consist once the chain is known; the train is built
once everything is in. -/
def State.inaCollect (s : State) : State :=
  if s.inaState ≠ inaRecords then s
  else
    match s.fab.records.find? fun r => recSerial r == s.serial with
    | none => s
    | some own =>
      match chainOf s.fab.records own with
      | none => s
      | some (l, _) =>
        let lowest := match lowestMember (recConsist own) (l.map (·.body)) with
          | some r => recSerial r == s.serial
          | none => false
        let s := if lowest && !(s.fab.blazes.any fun p => blzSerial p == s.serial) then
            let ps := s.ownBlazes
            ps.foldl State.inaFlood (s.setFab { s.fab with blazes := s.fab.blazes ++ ps })
          else s
        match s.buildTrain own with
        | .missing => s
        | .keyless => s.inaKeyless
        | .train t => s.inaBuilt t own

/-- NEIGHBOUR ends: the RECORD leaves, and RECORDS begins. -/
def State.inaToRecords (s : State) : State :=
  let r := s.ownRecord
  let s := (s.wr CNP_INA_STAT_STATE inaRecords).setFab { s.fab with records := s.fab.records ++ [r] }
  (s.inaFlood r).inaCollect

/-- NEIGHBOUR ends when every port with link is measured, and so does that of an inauguration which follows at once. -/
def State.inaAdvance (s : State) : State :=
  let go := fun (s : State) => if s.inaState = inaNeighbour ∧ s.allMeasured then s.inaToRecords else s
  go (go s)

/-- A trigger is held, with the instant of the first one. -/
def State.holdTrigger (s : State) : State :=
  s.setFab { s.fab with heldTrigger := some (s.fab.heldTrigger.getD s.now) }

/-- A trigger (R350, R351): it starts an inauguration, is absorbed in NEIGHBOUR, or is held. -/
def State.inaTrigger (s : State) : State :=
  if !s.mayInaugurate then s.holdTrigger
  else if !s.inaBusy then s.inaBegin.inaAdvance
  else if s.inaState = inaNeighbour then s
  else s.holdTrigger

/-! ### Receiving (R354) -/

/-- An accepted inauguration frame: check-value units see its payload, a newer inauguration is entered, and a frame for
all not seen before goes on through the other port of its plane (R353, R356). -/
def State.inaAccept (s : State) (port : Nat) (frame : List Byte) : State :=
  let p := frPayload frame
  let ina := beAt 2 2 p
  let op := beAt 0 1 p
  let newer := ina != s.fab.ina
  let s := s.unitFrame (portPlane port) 0 (some (frFid frame)) none p
  let s := if newer && !s.mayInaugurate then (s.setFab { s.fab with ina := ina, top := ina }).holdTrigger
    else if newer then s.inaEnter ina (op == 1)
    else if op = 1 ∧ !s.fab.tsFirm then s.setFab { s.fab with tS := s.now, tsFirm := true }
    else s
  let id := (beAt 8 4 p, ina, op, if op = 6 then beAt 12 1 p else 0, portPlane port)
  if frDest frame = 0xFF && !s.fab.seen.contains id then
    let s := s.setFab { s.fab with seen := s.fab.seen ++ [id] }
    if s.portForeign (otherPort port) then s else s.inaPut (otherPort port) (relayFrame frame)
  else s

/-- A frame's payload, with the node entering a newer inauguration, and the flood forwarded; none where it is dropped:
its INA is lower than the highest seen, or its origin is this node, or it is of another DOMAIN, of which only HELLO
passes and counts as seen (R352, R354). -/
def State.inaTake (s : State) (port op : Nat) (frame : List Byte) : State × Option (List Byte) :=
  let p := frPayload frame
  let ina := beAt 2 2 p
  let origin := beAt 8 4 p
  let other := s.loaded && beAt 7 1 p != 0 && beAt 1 1 p != s.rd KEY_VEH_ID0_DOMAIN
  let lower := decide (32768 ≤ (ina + 65536 - s.fab.top) % 65536)
  if !s.portSends port || frKind frame != frIna || beAt 0 1 p != op || p.length < 12 then (s, none)
  else if lower || origin == s.serial then (s, none)
  else if other then (if op = 2 then (s.setFab { s.fab with top := ina }, some p) else (s, none))
  else
    (s.inaAccept port frame, some p)

/-- START received (R357). -/
def State.trainStart (s : State) (port : Nat) (frame : List Byte) : State := (s.inaTake port 1 frame).1.inaAdvance

def execTrainStart (port : Fin 4) (frame : List Byte) (t : Nat) (s : State) : Host.Outcome State Fault Refusal :=
  .next ((s.begin t).trainStart port frame)

/-- The serial of the neighbour that this node's side reaches in the committed table; 0 for an end side. -/
def State.sideNbr (s : State) (side : Nat) : Nat :=
  match s.fab.table with
  | some t =>
    (match t.own.bind fun i => t.nodes[i]? with
     | some n => if recNbr n.body side 0 != 0 then recNbr n.body side 0 else recNbr n.body side 1
     | none => 0)
  | none => 0

/-- Whether a side had a link in the train at the last commit. -/
def State.sideInTrain (s : State) (side : Nat) : Bool := bitAt s.fab.inTrain side || bitAt s.fab.inTrain (2 + side)

/-- HELLO received: the neighbour on a link is known. The first one after a link came up tells whether it leads to the
side's existing neighbour, and is measured outside an inauguration, or to another, which is a trigger (R350); a link
to another neighbour than before is measured afresh. -/
def State.trainHello (s : State) (port : Nat) (frame : List Byte) : State :=
  match s.inaTake port 2 frame with
  | (s, none) => s
  | (s, some p) =>
    let keyless := bitAt (beAt 12 1 p) 5 || !s.loaded
    let dom := if keyless then s.ident KEY_VEH_ID0_DOMAIN else beAt 1 1 p
    let n : Nbr := ⟨beAt 8 4 p, dom, beAt 13 1 p⟩
    let l := s.portLink port
    let late := s.sideInTrain (portSide port) && !l.used && s.sideNbr (portSide port) == n.serial
    let news := !(l.nbr.any fun m => m.serial == n.serial)
    let other := news && s.sideInTrain (portSide port) && s.sideNbr (portSide port) != n.serial &&
      dom == s.ident KEY_VEH_ID0_DOMAIN
    let l : PortLink := if news && l.nbr.isSome then { l with delay := none, exch := 0, sum := 0, t1 := none } else l
    let s := s.setPortLink port { l with nbr := some n, late := l.late || late }
    (if other && s.inaState != inaNeighbour then s.inaTrigger else s.measure port).inaAdvance

def execTrainHello (port : Fin 4) (frame : List Byte) (t : Nat) (s : State) : Host.Outcome State Fault Refusal :=
  .next ((s.begin t).trainHello port frame)

/-- DREQ received (R360): answered with T1, the instant of reception T2, and T3 as the answer leaves. -/
def State.trainDreq (s : State) (port : Nat) (frame : List Byte) : State :=
  match s.inaTake port 3 frame with
  | (s, none) => s
  | (s, some p) =>
    (s.inaNear port (s.inaHead 4 ++ padTo 8 (slice 12 8 p) ++ beBytes 8 s.stamp8 ++ beBytes 8 0)).inaAdvance

def execTrainDreq (port : Fin 4) (frame : List Byte) (t : Nat) (s : State) : Host.Outcome State Fault Refusal :=
  .next ((s.begin t).trainDreq port frame)

/-- DRESP received (R360): one of 16 exchanges; the node's result is their mean. -/
def State.trainDresp (s : State) (port : Nat) (frame : List Byte) : State :=
  match s.inaTake port 4 frame with
  | (s, none) => s
  | (s, some p) =>
    let l := s.portLink port
    if l.t1 = some (beAt 12 8 p) ∧ l.delay.isNone then
      let twice := ((s.stamp8 : Int) - beAt 12 8 p) - ((beAt 28 8 p : Int) - beAt 20 8 p)
      let l : PortLink := { l with t1 := none, exch := l.exch + 1, sum := l.sum + twice }
      if l.exch < 16 then (s.setPortLink port l).sendDreq port
      else
        (s.setPortLink port { l with delay := some (min 0xFFFE (l.sum / 32).toNat) }).inaAdvance
    else s.inaAdvance

def execTrainDresp (port : Fin 4) (frame : List Byte) (t : Nat) (s : State) : Host.Outcome State Fault Refusal :=
  .next ((s.begin t).trainDresp port frame)

/-- RECORD received (R355). -/
def State.trainRecord (s : State) (port : Nat) (frame : List Byte) : State :=
  match s.inaTake port 5 frame with
  | (s, none) => s
  | (s, some p) =>
    let r := padTo 60 p
    let s := if s.fab.records.any fun q => recSerial q == recSerial r then s
      else s.setFab { s.fab with records := s.fab.records ++ [r] }
    s.inaAdvance.inaCollect.inaAdvance

def execTrainRecord (port : Fin 4) (frame : List Byte) (t : Nat) (s : State) : Host.Outcome State Fault Refusal :=
  .next ((s.begin t).trainRecord port frame)

/-- BLAZES received (R356). -/
def State.trainBlazes (s : State) (port : Nat) (frame : List Byte) : State :=
  match s.inaTake port 6 frame with
  | (s, none) => s
  | (s, some p) =>
    let s := if s.fab.blazes.any fun q => blzSerial q == blzSerial p && blzPart q == blzPart p then s
      else s.setFab { s.fab with blazes := s.fab.blazes ++ [p] }
    s.inaAdvance.inaCollect.inaAdvance

def execTrainBlazes (port : Fin 4) (frame : List Byte) (t : Nat) (s : State) : Host.Outcome State Fault Refusal :=
  .next ((s.begin t).trainBlazes port frame)

/-- DIGEST received (R357, R358). -/
def State.trainDigest (s : State) (port : Nat) (frame : List Byte) : State :=
  match s.inaTake port 7 frame with
  | (s, none) => s
  | (s, some p) =>
    let d := (beAt 8 4 p, beAt 12 4 p, beAt 16 1 p)
    let s := if s.fab.digests.contains d then s else s.setFab { s.fab with digests := s.fab.digests ++ [d] }
    match s.fab.built with
    | none => s.inaAdvance
    | some t => (if d.2.1 ≠ t.crc then s.inaFail 1 else s.inaTryCommit).inaAdvance

def execTrainDigest (port : Fin 4) (frame : List Byte) (t : Nat) (s : State) : Host.Outcome State Fault Refusal :=
  .next ((s.begin t).trainDigest port frame)

/-- COMMIT received (R357, R358, R363). -/
def State.trainCommit (s : State) (port : Nat) (frame : List Byte) : State :=
  match s.inaTake port 8 frame with
  | (s, none) => s
  | (s, some p) =>
    match s.fab.built with
    | none => s.inaAdvance
    | some t =>
      if beAt 12 4 p ≠ t.crc then (s.inaFail 2).inaAdvance
      else if s.inaState = inaCommit then s.inaMatched (beAt 20 8 p)
      else s

def execTrainCommit (port : Fin 4) (frame : List Byte) (t : Nat) (s : State) : Host.Outcome State Fault Refusal :=
  .next ((s.begin t).trainCommit port frame)

/-! ### Deadlines (R357, R358) -/

/-- NEIGHBOUR_TIMEOUT: at t_s + 30 ms what is not measured counts as down. -/
def State.neighbourTimeout (s : State) : State :=
  if s.inaState = inaNeighbour ∧ s.fab.tS + 30000000 ≤ s.now then s.inaToRecords.inaAdvance else s

def execNeighbourTimeout (t : Nat) (s : State) : Host.Outcome State Fault Refusal := .next (s.begin t).neighbourTimeout

/-- INAUGURATION_DEADLINE: t_s + 155 ms for the committer, t_s + 230 ms for any other node. -/
def State.inaDeadline (s : State) : State :=
  if s.inaState = inaIdle ∨ s.inaState = inaEffect then s
  else if s.committer ∧ s.fab.tS + 155000000 ≤ s.now then (s.inaFail 3).inaAdvance
  else if !s.committer ∧ s.fab.tS + 230000000 ≤ s.now then (s.inaFail 4).inaAdvance
  else s

def execInaugurationDeadline (t : Nat) (s : State) : Host.Outcome State Fault Refusal := .next (s.begin t).inaDeadline

/-! ### Links (R350, R352) -/

/-- LINK_UP: an end side that gains a link, and the first link after a start, are triggers; another link is identified
and measured. -/
def State.linkCameUp (s : State) (p : Nat) : State :=
  if s.linkUp p || !s.canopyRuns then s
  else
    let first := !s.fab.started
    let end_ := !s.sideInTrain (portSide p)
    let s := (s.wrBit CNP_PORTSTAT_LINKUP p true).raise 115
    let s := s.setPortLink p { portLinkInit with downAt := (s.portLink p).downAt }
    if first || end_ then
      let s := if s.inaBusy then s.sendHello p else s
      s.inaTrigger
    else s.sendHello p

def execLinkUp (port : Fin 4) (t : Nat) (s : State) : Host.Outcome State Fault Refusal :=
  .next ((s.begin t).linkCameUp port)

/-- A link is down: its delay is no longer kept. -/
def State.linkWentDown (s : State) (p : Nat) : State :=
  if !s.linkUp p then s
  else
    let s := (s.wrBit CNP_PORTSTAT_LINKUP p false).raise 115
    let s := (s.setPortLink p { portLinkInit with downAt := s.now }).wr (CNP_LDp_DELAY p) 0xFFFF
    (s.setEtPort p { s.etPort p with busy := false }).inaAdvance

def execLinkDown (port : Fin 4) (t : Nat) (s : State) : Host.Outcome State Fault Refusal :=
  .next ((s.begin t).linkWentDown port)

/-- SIDE_LOSS_TIMEOUT: a side of the train without link on either plane for 20 ms. -/
def State.sideLost (s : State) (side : Nat) : State :=
  let gone := fun p => !s.linkUp p && decide ((s.portLink p).downAt + 20000000 ≤ s.now)
  if s.sideInTrain side && gone side && gone (2 + side) then s.inaTrigger else s

def execSideLossTimeout (side : Fin 2) (t : Nat) (s : State) : Host.Outcome State Fault Refusal :=
  .next ((s.begin t).sideLost side)

/-! ### The table takes effect (R363, R364) -/

/-- The registers of node i (from 0) of a table, and the path delays to it. -/
def State.showNode (s : State) (t : Train) (i : Nat) : State :=
  match t.nodes[i]? with
  | none => s
  | some n =>
    let s := ((s.wr (CNP_NODEi_CONSIST i) (recConsist n.body)).wr (CNP_NODEi_CAR i) (recCar n.body)).wr
      (CNP_NODEi_MODULE i) (recModule n.body)
    let s := ((s.wr (CNP_NODEi_POS i) n.pos).wrB (CNP_NODEi_CAB i) (recFlag n.body 0)).wrB (CNP_NODEi_FACING i) n.facing
    let s := (s.wrB (CNP_NODEi_KEYLESS i) (recKeyless n.body)).wr (CNP_NODEi_PRESENT i) 1
    let pd := fun plane => match s.pathDelay i plane with | some d => min 0xFFFE (d / 8) | none => 0xFFFF
    (s.wr (CNP_PDi_A i) (pd 0)).wr (CNP_PDi_B i) (pd 1)

/-- Every node register as a table has it. -/
def State.showNodes (s : State) (t : Train) : State :=
  let s := { s with regs := tblKeep (fun k => !(keyGroup k == Area.cnp.code && inRange 0x10800400 0x10800600 (keyAddr k))) s.regs }
  let s := (List.range 128).foldl (fun s i => (s.wr (CNP_PDi_A i) 0xFFFF).wr (CNP_PDi_B i) 0xFFFF) s
  (List.range t.nodes.length).foldl (fun s i => s.showNode t i) s

/-- The neighbour of the own node in a table, on a side, and the link delay on a plane. -/
def ownLink (t : Train) (p : Nat) : Option Nat :=
  match t.own with
  | none => none
  | some i =>
    match t.nodes[i]? with
    | none => none
    | some n =>
      let lead := portSide p == leadSide n
      let last := t.nodes.length - 1
      let j := if lead then (if i = 0 then (if t.ring then some last else none) else some (i - 1))
        else (if i = last then (if t.ring then some 0 else none) else some (i + 1))
      match j.bind fun j => t.nodes[j]? with
      | none => none
      | some m => if lead then linkNs m n (portPlane p) else linkNs n m (portPlane p)

/-- What ports carry under a table: the links of the train carry traffic, and one measured late to a neighbour that
stays (R350) is kept. CNP_LDp shows the delay of a link of the train, none for another port, and the residence time
(R377). -/
def State.showLinks (s : State) (t : Train) : State :=
  let s := s.setFab { s.fab with inTrain := 0 }
  let stays := fun (s : State) p => s.linkUp p && (s.portLink p).nbr.any fun m => m.serial == s.sideNbr (portSide p)
  let s := [0, 1, 2, 3].foldl (fun s p =>
    match ownLink t p with
    | some d =>
      let s := s.setPortLink p { s.portLink p with used := true, late := false }
      (s.setFab { s.fab with inTrain := setBit s.fab.inTrain p true }).wr (CNP_LDp_DELAY p) d
    | none =>
      if (s.portLink p).late && stays s p then
        (if (s.portLink p).used then s.setFab { s.fab with inTrain := setBit s.fab.inTrain p true } else s)
      else (s.setPortLink p { s.portLink p with used := false, late := false }).wr (CNP_LDp_DELAY p) 0xFFFF) s
  [0, 1, 2, 3].foldl (fun s p => s.wr (CNP_LDp_RES p) (s.residence (portPlane p))) s

/-- Segments and sync slots of a table. -/
def State.showSchedule (s : State) (t : Train) : State :=
  let own := match t.own with | some i => i + 1 | none => 0
  let s := (List.range 8).foldl (fun s g =>
    let c := t.consists.find? fun c => c.seg == some g
    s.wr (CNP_SEGSTAT_SEG g) (match c with
      | some c => if c.serial = s.consist ∧ s.loaded ∧ own ≠ 0 then 1 else 2
      | none => if s.cnp.claims.any fun c => c.op == 2 && c.seg == g then 3 else 0)) s
  let s := [0, 1, 2, 3].foldl (fun s k =>
    s.wr (CNP_MSTk_STAT_NODE k) (match t.slots.find? fun x => x.1 == k with | some x => x.2 | none => 0)) s
  match t.slots.find? fun x => x.2 == own && own != 0 with
  | some x => (s.wr CNP_SYNC_STAT_MASTER 1).wr CNP_SYNC_STAT_SLOT x.1
  | none => (s.wr CNP_SYNC_STAT_MASTER 0).wr CNP_SYNC_STAT_SLOT 0

/-- Spare blazes and claims whose holder is no longer in the train are free (R342, R343); a claim of this module that
it was excluded with fails (R359). -/
def State.dropLeft (s : State) (t : Train) : State :=
  let here := fun n => t.nodes.any fun x => recSerial x.body == n
  let gone := s.cnp.spares.filter fun x => !here x.serial
  let lost := (s.cnp.claims ++ s.cnp.asked).any fun c => c.own && c.op == 1 && !here c.serial
  let s := gone.foldl (fun s x => s.freeSpare x.seg x.fid) s
  let s := s.setClaims (s.cnp.claims.filter fun c => here c.serial)
  let s : State := { s with cnp := { s.cnp with asked := s.cnp.asked.filter fun c => here c.serial } }
  if lost then s.claimFail 4 else s

/-- Bindings of FOREIGN entries (R321), and whether spare blazes are held. -/
def State.showBindings (s : State) : State :=
  (List.range s.blazeCount).foldl (fun s b =>
    let e := s.entry b
    let s := if e.foreign then s.wrB (CNP_BLZb_STAT_RESOLVED b) (s.bound e).isSome else s
    if e.kind = kindSpare then
      s.wrB (CNP_BLZb_STAT_HELD b) (s.cnp.spares.any fun x => x.fid == e.fid && some x.seg == s.entrySeg e)
    else s) s

/-- Apply a table, all at once (R363). -/
def State.applyTable (s : State) (t : Train) : State :=
  let old := s.fab.table
  let oldSeg := s.ownSeg
  let newId := fun n =>
    match (old.bind fun o => o.nodes[n - 1]?) with
    | some x => (match t.nodes.findIdx? fun y => recSerial y.body == recSerial x.body with | some j => j + 1 | none => 0)
    | none => 0
  let own := t.own.bind fun i => t.nodes[i]?
  let s := s.setFab { s.fab with table := some t, prevCrc := t.crc, effect := none, built := none }
  let s := (s.wr CNP_NODE_ID (match t.own with | some i => i + 1 | none => 0)).wr CNP_NODE_COUNT t.nodes.length
  let s := ((s.wrB CNP_INA_STAT_RING t.ring).wrB CNP_INA_STAT_EXCL own.isNone).wrB CNP_INA_STAT_FACING
    (match own with | some n => n.facing | none => false)
  let s := (((s.showNodes t).showLinks t).dropLeft t).showSchedule t
  let s := s.showBindings
  let s := s.wr CNP_NODE_SEG (s.ownSeg.getD 0)
  let s := (s.rwRenumber newId).etRenumber newId
  let s : State := match t.nodes.find? fun n => !recKeyless n.body with
    | some n => if s.loaded then s.setPlanErr (recPlancrc n.body != s.rd CNP_PLANCRC) else s
    | none => s
  let s := if own.isNone || s.ownSeg.isNone then s.goSilent else if s.ownSeg != oldSeg then s.leaveActive else s
  let s : State := if s.joinState = joinActive then s else { s with cnp := { s.cnp with observed := false } }
  { s with cnp := { s.cnp with alone := false } }

/-- TABLE_EFFECT (R363, R364): at the first mark at or after EFFECT the table is applied; the inauguration is
complete, or completes at EFFECT or when the node is SYNCED. -/
def State.tableEffect (s : State) : State :=
  match s.fab.effect, s.fab.built with
  | some e, some t =>
    if s.inaState ≠ inaEffect ∨ s.now < e ∨ s.now ≠ s.markNs then s
    else
      let s := s.applyTable t
      let s := ((s.bump CNP_INA_CNT_DONE).wr CNP_INA_STAT_DONEEV 1).raise 129
      let s := if s.syncState = syncAlone then s.setSync syncListen else s
      let s := if s.syncState = syncSynced ∧ s.fab.doneAt ≤ s.now then s.inaComplete else s.setFab { s.fab with completing := true }
      if s.fab.heldTrigger.isSome then s.inaBegin.inaAdvance else s
  | _, _ => s

def execTableEffect (t : Nat) (s : State) : Host.Outcome State Fault Refusal := .next (s.begin t).tableEffect

/-- What a mark means to the train fabric: a link measured late comes into use (R350), and shows this node's own
result, the only one at hand; a node outside the prevailing part that is SYNCED still at EFFECT has completed (R364);
a trigger held for the start begins its inauguration. -/
def State.inaMark (s : State) : State :=
  let s := [0, 1, 2, 3].foldl (fun s p =>
    let l := s.portLink p
    match l.late && !l.used, l.delay with
    | true, some d =>
      if d ≤ 1000 then
        let s := s.setPortLink p { l with used := true }
        let s := (s.setFab { s.fab with inTrain := setBit s.fab.inTrain p true }).wr (CNP_LDp_DELAY p) d
        s.raise 134
      else (s.setPortLink p { l with late := false }).wr CNP_INA_STAT_LDERR 1
    | _, _ => s) s
  let s := if s.fab.completing && s.syncState == syncSynced && decide (s.fab.doneAt ≤ s.now) then s.inaComplete else s
  if s.fab.heldTrigger.isSome && !s.inaBusy && s.mayInaugurate then s.inaBegin.inaAdvance else s

end Sys2Proof.Machine
end

