-- ==== Sys2Proof/Machine/Rootway.lean ====
section
/-!
DEFINITION. Rootway (R398 to R418): loads, stores and locked sequences through windows, requests that arrive at the
apertures, responses, time-outs, fences, doorbells and the function reset.
-/

namespace Sys2Proof.Machine

/-! ### The initiator's side (R398, R399, R404, R406, R408, R412) -/

/-- The window of an address in the Rootway range, and the offset in it. -/
def windowOf (addr : Nat) : Option (Nat × Nat) :=
  if inRange 0x40000000 0x80000000 addr then some (addr / 0x4000000 % 16, addr % 0x4000000) else none

/-- The window and offset of an aligned access to an enabled window. -/
def State.windowAccess (s : State) (addr size : Nat) : Option (Nat × Nat) :=
  match windowOf addr with
  | none => none
  | some (w, off) => if addr % 2 ^ size = 0 ∧ s.flag (RWY_Ww_CFG_EN w) then some (w, off) else none

/-- The plane a request to a node takes: the window's if it has a committed path, otherwise the other. -/
def State.windowPlane (s : State) (w node : Nat) : Nat :=
  let p := s.rd (RWY_Ww_CFG_PLANE w)
  if (s.pathDelay (node - 1) p).isSome then p else 1 - p

/-- The blaze of a window's requests; none for the event-triggered window. -/
def State.windowRoute (s : State) (w : Nat) : Option Nat :=
  if s.flag (RWY_Ww_CFG_ROUTE w) then some (s.rd (RWY_Ww_CFG_BLZ w)) else none

/-- The message of an operation goes out, on the route and to the aperture it was issued for. -/
def State.rwSendOp (s : State) (o : RwOp) : State :=
  let data := if o.op = opWrunlk ∨ o.op = opAmo then some o.data else none
  s.rwPush ⟨o.route, o.node, o.plane, rwMessage o.op o.size o.fn o.aper 0 o.off o.tag data, o.at_⟩

/-- Whether a hart waits for Rootway. -/
def State.rwWaits (s : State) (h : Nat) : Bool :=
  (s.rwy.ops.any fun o => o.hart == some h) || s.rwy.fences.any fun f => f.hart == h

/-- A new operation through window w: sent, or failed at once with NOROUTE. -/
def State.rwIssue (s : State) (hart : Option Nat) (w op size fn off data : Nat) (route : Option Nat) : State :=
  let node := s.rd (RWY_Ww_STAT_NODE w)
  let o : RwOp := ⟨hart, w, op, size, fn, off, data, s.rd (RWY_Ww_TGT_APER w), route, node, s.rwy.tag, s.windowPlane w node,
    s.now, false⟩
  let locked := op == opLockrd || op == opAmo
  let s := s.setRwy { s.rwy with
    tag := (s.rwy.tag + 1) % 65536, ops := s.rwy.ops ++ [o], hold := s.rwy.hold || locked }
  if s.flag (RWY_Ww_STAT_RESOLVED w) then s.rwSendOp o else s.rwOpDone o 7 0

/-- WINDOW_LOAD (R406). Nothing leaves a hart that does not run (R107, R120). -/
def State.windowLoad (s : State) (h addr size : Nat) : State :=
  match s.windowAccess addr size with
  | none => s.answer .loadFault
  | some (w, off) => if s.rwWaits h then s else (s.slowCode h).rwIssue (some h) w opRead size 0 off 0 (s.windowRoute w)

def execWindowLoad (hart : Fin 12) (addr : BitVec 36) (size : Fin 4) (t : Nat) (s : State) :
    Host.Outcome State Fault Refusal :=
  let s := s.begin t
  .next (if s.hartRuns hart then s.windowLoad hart addr.toNat size else s)

/-- WINDOW_STORE (R408): posted, or logged at once with QFULL or NOROUTE. -/
def State.windowStore (s : State) (addr size data : Nat) : State :=
  match s.windowAccess addr size with
  | none => s.answer .storeFault
  | some (w, off) =>
    let node := s.rd (RWY_Ww_STAT_NODE w)
    let p : RwPost := ⟨w, off, size, node, s.rwy.tag, s.now⟩
    let s := s.answer .done
    if !s.flag (RWY_Ww_STAT_RESOLVED w) then s.rwLog p 7
    else if 128 ≤ s.rwy.posted.length then s.rwLog p 8
    else
      let s := (s.setRwy { s.rwy with tag := (s.rwy.tag + 1) % 65536, posted := s.rwy.posted ++ [p] }).rwShowPosted
      s.rwPush ⟨s.windowRoute w, node, s.windowPlane w node,
        rwMessage opWrite size 0 (s.rd (RWY_Ww_TGT_APER w)) 0 off p.tag (some (data % 2 ^ (8 * 2 ^ size))), s.now⟩

def execWindowStore (hart : Fin 12) (addr : BitVec 36) (size : Fin 4) (data : BitVec 64) (t : Nat) (s : State) :
    Host.Outcome State Fault Refusal :=
  let s := s.begin t
  .next (if !s.hartRuns hart || s.rwWaits hart then s
    else if !s.splitOpen hart addr.toNat (2 ^ size.val) then s.answer .storeFault
    else s.windowStore addr.toNat size data.toNat)

/-- UNLOCK for the lock a hart holds. -/
def State.rwUnlockHeld (s : State) (x : RwHeld) : State :=
  let tag := s.rwy.tag
  let s := s.setRwy { s.rwy with tag := (tag + 1) % 65536, held := s.rwy.held.filter fun y => y.hart != x.hart }
  s.rwPush ⟨s.windowRoute x.window, x.node, x.plane, rwMessage opUnlock 0 0 x.aper 0 0 tag none, s.now⟩

/-- WINDOW_LR (R412): LOCKRD, after UNLOCK for a lock still held at another aperture (R414). -/
def State.windowLr (s : State) (h addr size : Nat) : State :=
  match s.windowAccess addr size with
  | none => s.answer .storeFault
  | some (w, off) =>
    if size < 2 then s.answer .storeFault
    else if s.rwWaits h then s
    else
      let s := match s.rwy.held.find? fun x => x.hart == h with
        | some x =>
          if (x.node = s.rd (RWY_Ww_STAT_NODE w) ∧ x.aper = s.rd (RWY_Ww_TGT_APER w)) ∨ x.at_ + 100000 ≤ s.now then s
          else s.rwUnlockHeld x
        | none => s
      (s.slowCode h).rwIssue (some h) w opLockrd size 0 off 0 (s.windowRoute w)

def execWindowLr (hart : Fin 12) (addr : BitVec 36) (size : Fin 4) (t : Nat) (s : State) :
    Host.Outcome State Fault Refusal :=
  let s := s.begin t
  .next (if s.hartRuns hart then s.windowLr hart addr.toNat size else s)

/-- WINDOW_SC and WINDOW_AMO (R412): WRUNLK, AMO. -/
def State.windowAtomic (s : State) (h op addr size fn data : Nat) : State :=
  match s.windowAccess addr size with
  | none => s.answer .storeFault
  | some (w, off) =>
    if size < 2 then s.answer .storeFault
    else if s.rwWaits h then s
    else (s.slowCode h).rwIssue (some h) w op size fn off (data % 2 ^ (8 * 2 ^ size)) (s.windowRoute w)

def execWindowSc (hart : Fin 12) (addr : BitVec 36) (size : Fin 4) (data : BitVec 64) (t : Nat) (s : State) :
    Host.Outcome State Fault Refusal :=
  let s := s.begin t
  .next (if !s.hartRuns hart then s
    else if !s.splitOpen hart addr.toNat (2 ^ size.val) then s.answer .storeFault
    else s.windowAtomic hart opWrunlk addr.toNat size 0 data.toNat)

def execWindowAmo (hart : Fin 12) (addr : BitVec 36) (size : Fin 4) (fn : BitVec 5) (data : BitVec 64) (t : Nat)
    (s : State) : Host.Outcome State Fault Refusal :=
  let s := s.begin t
  .next (if !s.hartRuns hart then s
    else if !s.splitOpen hart addr.toNat (2 ^ size.val) then s.answer .storeFault
    else s.windowAtomic hart opAmo addr.toNat size fn.toNat data.toNat)

/-! ### The target's side (R400, R401, R413 to R416) -/

/-- Fields of a message (R403). -/
def rmOp (m : List Byte) : Nat := leAt 0 1 m
def rmSize (m : List Byte) : Nat := leAt 1 1 m % 4
def rmFn (m : List Byte) : Nat := leAt 1 1 m / 4 % 32
def rmAper (m : List Byte) : Nat := leAt 2 1 m % 4
def rmStatus (m : List Byte) : Nat := leAt 3 1 m
def rmOff (m : List Byte) : Nat := leAt 4 4 m % 2 ^ 26
def rmTag (m : List Byte) : Nat := leAt 8 2 m
def rmData (m : List Byte) : Nat := leAt 16 8 m % 2 ^ (8 * 2 ^ rmSize m)

/-- The start of an aperture, and its size. -/
def State.aperBase (s : State) (a : Nat) : Nat := s.rd (RWY_Aa_BASE_BASE a) * 4096
def State.aperSize (s : State) (a : Nat) : Nat := 2 ^ s.rd (RWY_Aa_CFG_SIZE a)

/-- Whether a node lies within an aperture's SCOPE. -/
def State.inScope (s : State) (a node : Nat) : Bool :=
  match s.fab.table.bind fun t => t.nodes[node - 1]? with
  | none => false
  | some n =>
    match s.rd (RWY_Aa_CFG_SCOPE a) with
    | 0 => true
    | 1 => !recKeyless n.body && recConsist n.body == s.consist
    | 2 => !recKeyless n.body && recConsist n.body == s.rd (RWY_Aa_PEER_CONSIST a) &&
        recCar n.body == s.rd (RWY_Aa_PEER_CAR a) && recModule n.body == s.rd (RWY_Aa_PEER_MODULE a)
    | _ => false

/-- Whether an aperture permits an operation. -/
def State.aperPermits (s : State) (a op : Nat) : Bool :=
  if op = opRead ∨ op = opPoll then s.flag (RWY_Aa_CFG_RD a)
  else if op = opWrite then s.flag (RWY_Aa_CFG_WR a)
  else s.flag (RWY_Aa_CFG_LK a)

/-- Whether an aperture's configuration meets R400. -/
def aperOk (base size : Nat) : Bool :=
  let n := 2 ^ size
  decide (12 ≤ size) && decide (size ≤ 26) && base % n == 0 &&
    ((decide (sramBase ≤ base) && decide (base + n ≤ sramBase + 0x1000000)) ||
      (decide (0x800000000 ≤ base) && decide (base + n ≤ 0xA00000000)))

/-- Whether a write that clears EN of an aperture comes in the same fabric clock, behind this command (R417). -/
def State.enClears (s : State) (a : Nat) : Bool :=
  s.pending.any fun c => match c with
    | .apertureEnable b v t => t == s.now && b.val == a && !bitAt v.toNat 0
    | .registerWrite _ addr size v _ t => t == s.now && size.val == 2 && addr.toNat == 0x10902004 + 0x20 * a && !bitAt v.toNat 0
    | _ => false

/-- The judgement of R401: the status of the first check that fails. An aperture whose base was moved while it is
enabled reaches nothing outside shared SRAM and DRAM (R400). -/
def State.aperJudge (s : State) (node : Nat) (m : List Byte) : Nat :=
  let a := rmAper m
  if !s.flag (RWY_Aa_CFG_EN a) || (rmOp m == opWrite && s.enClears a) then 1
  else if !s.inScope a node || !s.aperPermits a (rmOp m) then 3
  else if s.aperSize a < rmOff m + 2 ^ rmSize m then 2
  else if rmOp m ≠ opPoll && !aperOk (s.aperBase a) (s.rd (RWY_Aa_CFG_SIZE a)) then 2
  else 0

/-- Answer a request on its aperture's route and its plane. -/
def State.rwAnswer (s : State) (r : RwIn) (status : Nat) (data : Option Nat) : State :=
  let a := rmAper r.msg
  let route := if s.flag (RWY_Aa_CFG_RSPROUTE a) then some (s.rd (RWY_Aa_CFG_RSPBLZ a)) else none
  s.rwPush ⟨route, r.node, r.plane,
    rwMessage (if rmOp r.msg = opWrite then opWack else opResp) (rmSize r.msg) 0 a status (rmOff r.msg) (rmTag r.msg) data, s.now⟩

/-- A request is refused; BUSY and PERM raise source 164. -/
def State.rwRefuse (s : State) (r : RwIn) (status : Nat) : State :=
  let s := s.bump (RWY_Aa_CNT_REFUSED (rmAper r.msg))
  let s := if status = 3 ∨ status = 6 then (s.wr RWY_STAT_REFEV 1).raise 164 else s
  s.rwAnswer r status none

/-- A request is served, but for one that its write finds refused with PERM (R426). -/
def State.rwServed (s : State) (r : RwIn) (status : Nat) (data : Option Nat) : State :=
  if status = 3 then s.rwRefuse r 3
  else (s.bump (RWY_Aa_CNT_SERVED (rmAper r.msg))).rwAnswer r status (if status = 0 then data else none)

/-- The address a request names. -/
def State.rmAddr (s : State) (m : List Byte) : Nat := s.aperBase (rmAper m) + rmOff m

/-- Rootway reads the value at the target of a request; none for an uncorrectable row. -/
def State.rwFetch (s : State) (m : List Byte) : Option Nat × State :=
  let n := 2 ^ rmSize m
  let q := s.seeRange 0x22 3 (s.rmAddr m) n
  (if q.1 then none else some (leNat (q.2.seen (s.rmAddr m) n)), q.2)

/-- Write at the target: status and state. A guarded execution region refuses the write with PERM. -/
def State.rwPut (s : State) (m : List Byte) (v : Nat) : Nat × State :=
  let n := 2 ^ rmSize m
  let a := s.rmAddr m
  if s.inRegion a n then (3, s)
  else
    let q := s.mergeStore 0x22 a (leBytes n v)
    (if q.1 then 0 else 5, q.2)

/-- The lock of an aperture; the registers that show locks and the stall queue. -/
def State.lockOf (s : State) (a : Nat) : Option RwLock := tblFind a s.rwy.locks
def State.rwShow (s : State) : State :=
  let s := s.wr RWY_STAT_STALL s.rwy.stall.length
  [0, 1, 2, 3].foldl (fun s a =>
    let s := match s.lockOf a with
      | some l => (s.wr (RWY_Aa_STAT_LOCKED a) 1).wr (RWY_Aa_STAT_HOLDER a) l.node
      | none => (s.wr (RWY_Aa_STAT_LOCKED a) 0).wr (RWY_Aa_STAT_HOLDER a) 0
    s.wr (RWY_Aa_STAT_STALLED a) ((s.rwy.stall.filter fun r => rmAper r.msg == a).length)) s

def State.setLock (s : State) (a : Nat) (l : Option RwLock) : State :=
  s.setRwy { s.rwy with locks := match l with | some l => tblPut a l s.rwy.locks | none => tblDel a s.rwy.locks }

/-- The result of an AMO function on values of w bits (funct5 of the RISC-V A extension); a free value for a function
that it does not assign. -/
def State.amoResult (s : State) (fn w old v : Nat) : Nat × State :=
  match fn with
  | 0x00 => ((old + v) % 2 ^ w, s)
  | 0x01 => (v, s)
  | 0x04 => (old ^^^ v, s)
  | 0x0C => (old &&& v, s)
  | 0x08 => (old ||| v, s)
  | 0x10 => (if toSigned w old ≤ toSigned w v then old else v, s)
  | 0x14 => (if toSigned w old ≤ toSigned w v then v else old, s)
  | 0x18 => (min old v, s)
  | 0x1C => (max old v, s)
  | _ => let (x, s) := s.free; (x % 2 ^ w, s)

/-- Whether a LOCKRD from a lower node for the same aperture arrives in the same clock, behind this one (R417). -/
def State.lowerComes (s : State) (a node : Nat) : Bool :=
  s.pending.any fun c => match c with
    | .rwLockrd _ n m t => t == s.now && rmOp m == opLockrd && rmAper m == a && decide (n.val < node) &&
        s.aperJudge n.val m == 0
    | _ => false

/-- A request that has waited in the stall queue: an aperture moved meanwhile reaches nothing outside shared SRAM and
DRAM (R400). -/
def State.aperReach (s : State) (m : List Byte) : Bool :=
  decide (rmOff m + 2 ^ rmSize m ≤ s.aperSize (rmAper m)) && aperOk (s.aperBase (rmAper m)) (s.rd (RWY_Aa_CFG_SIZE (rmAper m)))

/-- READ, LOCKRD and AMO (R412, R413, R415): held in the stall queue while another initiator's lock is live, and a
LOCKRD where one from a lower node arrives in the same clock (R417); a locked request to a free aperture is refused
with RETRY while the own side is held against a higher node. -/
def State.rwLocked (s : State) (r : RwIn) : State :=
  let m := r.msg
  let a := rmAper m
  let other := match s.lockOf a with | some l => l.node != r.node | none => false
  if other || ((s.lockOf a).isNone && rmOp m == opLockrd && s.lowerComes a r.node) then
    if 16 ≤ s.rwy.stall.length then s.rwRefuse r 6 else s.setRwy { s.rwy with stall := s.rwy.stall ++ [r] }
  else if rmOp m = opRead then
    match s.rwFetch m with
    | (some v, s) => s.rwServed r 0 (some v)
    | (none, s) => s.rwServed r 5 none
  else if (s.lockOf a).isNone && s.rwy.hold && decide (s.nodeId < r.node) then s.rwAnswer r 0xC none
  else
    let s := if (s.lockOf a).isNone then s.setRwy { s.rwy with hold := false } else s
    match s.rwFetch m with
    | (none, s) => s.rwServed r 5 none
    | (some v, s) =>
      if rmOp m = opLockrd then (s.setLock a (some ⟨r.node, s.now⟩)).rwServed r 0 (some v)
      else
        let (x, s) := s.amoResult (rmFn m) (8 * 2 ^ rmSize m) v (rmData m)
        let (st, s) := s.rwPut m x
        s.rwServed r st (some v)

/-- A lock ends: the stall queue is served in order, and own locked requests refused with RETRY go again once no inbound
lock is live (R413, R415). -/
def State.rwReleased (s : State) (a : Nat) : State :=
  let s := s.setLock a none
  let q := s.rwy.stall
  let s := q.foldl (fun s r => if s.aperReach r.msg then s.rwLocked r else s.rwRefuse r 2) (s.setRwy { s.rwy with stall := [] })
  s.rwShow

/-- Own requests that were refused with RETRY are sent again, with the same tag and deadline. -/
def State.rwAgain (s : State) : State :=
  if s.rwy.locks ≠ [] then s
  else
    let q := s.rwy.ops.filter (·.retry)
    if q = [] then s
    else
      let s := s.setRwy { s.rwy with hold := true, ops := s.rwy.ops.map fun o => { o with retry := false } }
      q.foldl (fun s o => s.rwSendOp { o with retry := false }) s

/-- An inbound request. -/
def State.rwInbound (s : State) (r : RwIn) : State :=
  let m := r.msg
  let a := rmAper m
  let mine := match s.lockOf a with | some l => l.node == r.node | none => false
  let st := s.aperJudge r.node m
  let s :=
    if rmOp m = opUnlock then (if mine then s.rwReleased a else s)
    else if st ≠ 0 then s.rwRefuse r st
    else if rmOp m = opPoll then s.rwServed r 0 (some (s.rd (RWY_Aa_DOOR a)))
    else if rmOp m = opWrite then
      let (st, s) := s.rwPut m (rmData m)
      s.rwServed r st none
    else if rmOp m = opWrunlk then
      if !mine then s.rwServed r 9 none
      else
        let (st, s) := s.rwPut m (rmData m)
        (s.rwServed r st (some 0)).rwReleased a
    else s.rwLocked r
  let s := if (s.lockOf a).isNone && s.rwy.stall.any (fun x => rmAper x.msg == a) then s.rwReleased a else s
  s.rwShow.rwAgain

/-- An inbound message of the kind a command names; Rootway has power only while the module runs. -/
def State.rwArrives (s : State) (op plane node : Nat) (m : List Byte) : State :=
  if rmOp m ≠ op ∨ s.rwy.resetting ∨ s.pw.phase ≠ .running ∨ s.rd PWR_STAT_STATE = 2 then s else s.rwInbound ⟨node, plane, m⟩

def execRwRead (plane : Fin 2) (node : Fin 129) (msg : List Byte) (t : Nat) (s : State) : Host.Outcome State Fault Refusal :=
  .next ((s.begin t).rwArrives opRead plane node msg)
def execRwWrite (plane : Fin 2) (node : Fin 129) (msg : List Byte) (t : Nat) (s : State) : Host.Outcome State Fault Refusal :=
  .next ((s.begin t).rwArrives opWrite plane node msg)
def execRwLockrd (plane : Fin 2) (node : Fin 129) (msg : List Byte) (t : Nat) (s : State) : Host.Outcome State Fault Refusal :=
  .next ((s.begin t).rwArrives opLockrd plane node msg)
def execRwWrunlk (plane : Fin 2) (node : Fin 129) (msg : List Byte) (t : Nat) (s : State) : Host.Outcome State Fault Refusal :=
  .next ((s.begin t).rwArrives opWrunlk plane node msg)
def execRwUnlock (plane : Fin 2) (node : Fin 129) (msg : List Byte) (t : Nat) (s : State) : Host.Outcome State Fault Refusal :=
  .next ((s.begin t).rwArrives opUnlock plane node msg)
def execRwAmo (plane : Fin 2) (node : Fin 129) (msg : List Byte) (t : Nat) (s : State) : Host.Outcome State Fault Refusal :=
  .next ((s.begin t).rwArrives opAmo plane node msg)
def execRwPoll (plane : Fin 2) (node : Fin 129) (msg : List Byte) (t : Nat) (s : State) : Host.Outcome State Fault Refusal :=
  .next ((s.begin t).rwArrives opPoll plane node msg)

/-! ### Answers (R406, R409, R415) -/

/-- Whether a hart of those named holds a lock that has not timed out (R414). -/
def State.rwHolds (s : State) (mine : Nat → Bool) : Bool :=
  s.rwy.held.any fun h => mine h.hart && decide (s.now < h.at_ + 100000)

/-- RESP: a blocking operation or a poll ends; RETRY waits for inbound locks to end; a grant is a lock held. -/
def State.rwResp (s : State) (node : Nat) (m : List Byte) : State :=
  match s.rwy.ops.find? fun o => o.tag == rmTag m && o.node == node with
  | none => s
  | some o =>
    if rmOp m ≠ opResp then s
    else if rmStatus m = 0xC ∧ (o.op = opLockrd ∨ o.op = opAmo) then
      let s := (s.bump RWY_CNT_RETRY).setRwy { s.rwy with
        ops := s.rwy.ops.map (fun x => if x = o then { x with retry := true } else x)
        hold := s.rwy.hold && s.rwy.ops.any fun p => p != o && (p.op == opLockrd || p.op == opAmo) && !p.retry }
      s.rwAgain
    else
      let v := leAt 16 8 m % 2 ^ (8 * 2 ^ o.size)
      let s : State := match o.hart with
        | some h =>
          if o.op = opLockrd ∧ rmStatus m = 0 then
            let x : RwHeld := ⟨h, o.window, o.node, o.aper, o.plane, s.now⟩
            let rest : List RwHeld := s.rwy.held.filter fun y => y.hart != h
            s.setRwy { s.rwy with held := rest ++ [x] }
          else s
        | none => s
      s.rwOpDone o (rmStatus m) (if o.hart.isNone then leAt 16 4 m else v)

def execRwResp (node : Fin 129) (msg : List Byte) (t : Nat) (s : State) : Host.Outcome State Fault Refusal :=
  .next ((s.begin t).rwResp node msg)

/-- WACK: a posted write ends. -/
def State.rwWack (s : State) (node : Nat) (m : List Byte) : State :=
  match s.rwy.posted.find? fun p => p.tag == rmTag m && p.node == node with
  | none => s
  | some p => if rmOp m = opWack then s.rwPostDone p (rmStatus m) else s

def execRwWack (node : Fin 129) (msg : List Byte) (t : Nat) (s : State) : Host.Outcome State Fault Refusal :=
  .next ((s.begin t).rwWack node msg)

/-- ROOTWAY_TIMEOUT: what has had no answer for 2 ms fails; an UNLOCK, which has none, is not sent after that (R404). -/
def State.rwTimeout (s : State) : State :=
  let ops := s.rwy.ops.filter fun o => decide (o.at_ + 2000000 ≤ s.now)
  let ps := s.rwy.posted.filter fun p => decide (p.at_ + 2000000 ≤ s.now)
  let tags := ops.map (·.tag) ++ ps.map (·.tag)
  let s := s.rwUnsend fun m => (decide (rmOp m.bytes < opResp) && tags.contains (rmTag m.bytes)) ||
    (rmOp m.bytes == opUnlock && decide (m.at_ + 2000000 ≤ s.now))
  let s := ops.foldl (fun s o => s.rwOpDone o 4 0) s
  ps.foldl (fun s p => s.rwPostDone p 4) s

def execRootwayTimeout (t : Nat) (s : State) : Host.Outcome State Fault Refusal := .next (s.begin t).rwTimeout

/-- LOCK_EXPIRY (R414). -/
def State.lockExpiry (s : State) (a : Nat) : State :=
  match s.lockOf a with
  | none => s
  | some l =>
    if s.now < l.at_ + 100000 then s
    else ((((s.bump RWY_CNT_LKEXP).wr RWY_STAT_LKTMOEV 1).raise 163).rwReleased a).rwAgain

def execLockExpiry (a : Fin 4) (t : Nat) (s : State) : Host.Outcome State Fault Refusal := .next ((s.begin t).lockExpiry a)

/-- FENCE_READ (R411): answered once the window's earlier posted writes have ended. -/
def State.fenceRead (s : State) (h w : Nat) : State :=
  let tags := (s.rwy.posted.filter fun p => p.window == w).map (·.tag)
  let s := s.slowCode h
  if tags = [] then s.rwFenceAnswer h w
  else s.setRwy { s.rwy with fences := s.rwy.fences ++ [⟨h, w, tags⟩] }

def execFenceRead (hart : Fin 12) (w : Fin 16) (t : Nat) (s : State) : Host.Outcome State Fault Refusal :=
  let s := s.begin t
  .next (if !s.hartRuns hart || s.rwWaits hart then s else s.fenceRead hart w)

/-- DOORBELL_POLL (R416): each enabled window with DBPOLL polls its target in the event-triggered window. -/
def State.doorbellPoll (s : State) : State :=
  (List.range 16).foldl (fun s w =>
    if s.flag (RWY_Ww_CFG_EN w) && s.flag (RWY_Ww_CFG_DBPOLL w) then s.rwIssue none w opPoll 2 0 0 0 none else s) s

def execDoorbellPoll (t : Nat) (s : State) : Host.Outcome State Fault Refusal := .next (s.begin t).doorbellPoll

/-- APERTURE_ENABLE (R400): a write of RWY_Aa_CFG; with EN = 1 it is refused where the rules are violated. -/
def State.aperEnable (s : State) (a v : Nat) : State :=
  let en := bitAt v 0
  let s := (s.putWord (0x10902004 + 0x20 * a) (v % 2 ^ 22)).wr (RWY_Aa_CFG_EN a) 0
  if !en then s.wr (RWY_Aa_CFG_CFGERR a) 0
  else if aperOk (s.aperBase a) (bitsAt v 6 5) then (s.wr (RWY_Aa_CFG_EN a) 1).wr (RWY_Aa_CFG_CFGERR a) 0
  else s.wr (RWY_Aa_CFG_CFGERR a) 1

def execApertureEnable (a : Fin 4) (v : BitVec 32) (t : Nat) (s : State) : Host.Outcome State Fault Refusal :=
  let s := s.begin t
  .next (if s.pw.phase == .running then s.aperEnable a v.toNat else s)

/-- Rootway stops (R418): every outstanding outbound operation fails with RESET, inbound locks are released, stalled
requests are answered with RESET. -/
def State.rootwayStop (s : State) : State :=
  let s := (s.rwUnsend fun _ => true).setRwy { s.rwy with fails := [], locks := [], held := [] }
  let s := s.rwy.ops.foldl (fun s o => s.rwOpDone o 0xB 0) s
  let s := s.rwy.posted.foldl (fun s p => s.rwPostDone p 0xB) s
  let q := s.rwy.stall
  let s := q.foldl (fun s r => s.rwAnswer r 0xB none) (s.setRwy { s.rwy with stall := [], hold := false })
  s.rwShow.setRwy { s.rwy with resetting := true }

/-- ROOTWAY_RESET (R418); configuration is kept. -/
def State.rootwayReset (s : State) : State := (s.restore (·.f) (inArea .rwy 0x10900000 0x10A00000)).rootwayStop

def execRootwayReset (t : Nat) (s : State) : Host.Outcome State Fault Refusal :=
  let s := s.begin t
  .next (if s.pw.phase == .running then s.rootwayReset else s)

/-- ROOTWAY_RESET_DONE (R418): source 165. -/
def State.rootwayResetDone (s : State) : State :=
  if s.rwy.resetting then
    (((List.range 16).foldl State.rwResolve (s.setRwy { s.rwy with resetting := false })).raise 165).rwFlush
  else s

def execRootwayResetDone (t : Nat) (s : State) : Host.Outcome State Fault Refusal := .next (s.begin t).rootwayResetDone

end Sys2Proof.Machine
end

