-- ==== Sys2Proof/Machine/Understory.lean ====
section
/-!
DEFINITION. Tunnels (R419 to R421), understory ports (R422 to R426), and the event-triggered window of Canopy as it opens
and as frames leave (R309, R310).
-/

namespace Sys2Proof.Machine

def State.uport (s : State) (p : Nat) : UPort := tblGet uportInit p s.ust.ports
def State.setUport (s : State) (p : Nat) (x : UPort) : State :=
  { s with ust := { s.ust with ports := tblSet uportInit p x s.ust.ports } }
def State.tunnel (s : State) (t : Nat) : Tunnel := tblGet tunnelInit t s.ust.tunnels

/-- Replace a tunnel; its STAT counts the frames queued. -/
def State.setTunnel (s : State) (t : Nat) (x : Tunnel) : State :=
  ({ s with ust := { s.ust with tunnels := tblSet tunnelInit t x s.ust.tunnels } } : State).wr (UST_TUNt_STAT_QUEUED t)
    (x.away.length + x.home.length)

/-- An event of port p: its source, and its bit of UST_STAT. -/
def State.ustEvent (s : State) (p src : Nat) : State := (s.wrBit UST_STAT_EV p true).raise src

/-- Whether the understory ports have power. -/
def State.ustPowered (s : State) : Bool := s.pw.phase == .running && s.rd PWR_STAT_STATE != 2

/-- Whether port p runs. -/
def State.portRuns (s : State) (p : Nat) : Bool := s.ustPowered && s.flag (UST_Pp_CFG_EN p) && !(s.uport p).resetting

/-- A tunnel drop of a kind is counted; every drop raises source 194. -/
def State.tunDrop (s : State) (f : Fld) : State := (s.bump f).raise 194

/-! ### Frame records (R424) -/

/-- PTYPE of a frame of port p; `msg` marks MVB message data. -/
def State.ptype (s : State) (p : Nat) (msg : Bool) : Nat :=
  if p < 2 then 1
  else if p = 2 then (if msg then 3 else 2)
  else if p < 5 then (if s.flag (UST_Pp_CFG_HDLC p) then 5 else 4)
  else 6

/-- What a tunnel's FILT is compared with. -/
def tunnelKey (ptype : Nat) (body : List Byte) : Nat :=
  match ptype with
  | 1 => leAt 0 4 body % 2 ^ 29
  | 2 => leAt 0 2 body
  | 3 => leAt 0 2 body
  | 5 => leAt 0 1 body
  | 6 => beAt 12 2 body
  | _ => 0

/-- The tunnel header of R419. -/
def tunnelHeader (tunid ptype flags flen seq stamp : Nat) : List Byte :=
  [byteOf tunid, byteOf ptype, byteOf flags, 0] ++ leBytes 2 flen ++ leBytes 2 seq ++ leBytes 8 stamp

/-- The data bytes of a CAN frame by DLC and FDF. -/
def canLength (dlc : Nat) (fdf : Bool) : Option Nat :=
  if dlc ≤ 8 then some dlc
  else if !fdf then none
  else [12, 16, 20, 24, 32, 48, 64][dlc - 9]?

/-- Whether a CAN record forms a valid frame for port p: FD frames only with FDEN, remote frames only in classical
format. -/
def State.canValid (s : State) (p : Nat) (body : List Byte) : Bool :=
  let fdf := bitAt (leAt 4 1 body) 0
  let rtr := bitAt (leAt 0 4 body) 30
  match canLength (leAt 5 1 body) fdf with
  | none => false
  | some n => (!fdf || s.flag (UST_Pp_CFG_FDEN p)) && !(fdf && rtr) && body.length == 8 + (if rtr then 0 else n)

/-- The MAC address of the service Ethernet port. -/
def State.ustMac (s : State) : List Byte := beBytes 2 (s.rd (UST_Pp_MAC_HI_MAC 5)) ++ beBytes 4 (s.rd (UST_Pp_MAC_LO 5))

/-- Whether a port's own filters take a frame (R422, R428). -/
def State.portTakes (s : State) (p : Nat) (msg : Bool) (body : List Byte) : Bool :=
  if p < 2 then
    let key := leAt 0 4 body % 2 ^ 30
    let on := (List.range 32).filter fun k => s.flag (UST_Pp_FLTk_ID_EN p k)
    s.canValid p body && (on.isEmpty || on.any fun k =>
      let want := s.rd (UST_Pp_FLTk_ID_ID p k) + 2 ^ 29 * s.rd (UST_Pp_FLTk_ID_IDE p k)
      (key ^^^ want) &&& s.rd (UST_Pp_FLTk_MASK p k) == 0)
  else if p = 2 then
    if msg then leAt 0 2 body == s.rd (UST_Pp_CFG_DEVADDR 2)
    else (List.range 256).any fun k =>
      s.flag (UST_Pp_MVBPk_EN k) && !s.flag (UST_Pp_MVBPk_SRC k) && s.rd (UST_Pp_MVBPk_ADDR k) == leAt 0 2 body % 4096 &&
        body.length == 4 + 2 ^ (1 + s.rd (UST_Pp_MVBPk_SIZE k))
  else if p < 5 then
    if s.flag (UST_Pp_CFG_HDLC p) then s.rd (UST_Pp_CFG_ADDR8 p) == 0xFF || leAt 0 1 body == s.rd (UST_Pp_CFG_ADDR8 p)
    else decide (body.length ≤ 1024)
  else decide (body.length ≤ 1514) && (body.take 6 == s.ustMac || body.take 6 == List.replicate 6 0xFF)

/-! ### Tunnels away from this module (R419 to R421) -/

/-- The frames of one record: fragments of 1384 bytes that share SEQ. -/
def tunnelFrames (peer : Nat) (f : TunFrame) : List (List Byte) :=
  let n := max 1 (ceilDiv f.body.length 1384)
  (List.range n).map fun i =>
    tunnelHeader peer f.ptype (b2n (decide (i + 1 < n)) + 2 * i) f.body.length f.seq f.stamp ++ slice (1384 * i) 1384 f.body

/-- A tunnel's frames move on to Canopy while the port's queue has room. -/
def State.tunSend (s : State) (t : Nat) : Nat → State
  | 0 => s
  | n + 1 =>
    let x := s.tunnel t
    let node := s.rd (UST_TUNt_STAT_NODE t)
    let plane := if (s.pathDelay (node - 1) 0).isSome then 0 else 1
    match x.away with
    | [] => s
    | f :: rest =>
      let fs := tunnelFrames (s.rd (UST_TUNt_PEER_TUNID t)) f
      if s.joinState ≠ joinActive ∨ s.inaBusy ∨ !s.flag (UST_TUNt_STAT_RESOLVED t) ∨
          32 < (s.etPort (2 * plane + s.sideTowards node)).queue.length + fs.length then s
      else
        let s := s.setTunnel t { x with away := rest }
        let s := fs.foldl (fun s b => s.sendEt plane ⟨true, some t, [], s.frame frTunnel node 0 0 b, false⟩) s
        s.tunSend t n

/-- Every tunnel sends what it can. -/
def State.tunSendAll (s : State) : State := (List.range 32).foldl (fun s t => s.tunSend t 32) s

/-- A frame of the local port is captured by tunnel t. -/
def State.tunTake (s : State) (t ptype : Nat) (body : List Byte) : State :=
  let x := s.tunnel t
  if s.joinState ≠ joinActive ∨ !s.flag (UST_TUNt_STAT_RESOLVED t) ∨ 32 ≤ x.away.length then
    s.tunDrop (UST_TUNt_CNT_QDROP t)
  else
    (s.setTunnel t { x with
      away := x.away ++ [⟨ptype, x.seq, s.now, body⟩], seq := (x.seq + 1) % 65536 }).tunSend t 32

/-! ### Receive ring (R424) -/

/-- Write bytes into a ring from an offset, wrapping at its end; the answer says whether no uncorrectable row stopped
it (R438). -/
def State.ringPut (s : State) (base size off : Nat) (bs : List Byte) : Bool × State :=
  let n := size - off % size
  let q := s.mergeStore 0x23 (sramBase + base + off % size) (bs.take n)
  if q.1 && decide (n < bs.length) then q.2.mergeStore 0x23 (sramBase + base) (bs.drop n) else q

/-- A frame enters the receive ring of port p, where a check-value unit meets it (R391), or is dropped and counted in
RXDROP, as where the ring's row cannot be merged into (DESIGN CHOICE, log entry 117). -/
def State.ringReceive (s : State) (p ptype : Nat) (body : List Byte) : State :=
  let base := 8 * s.rd (UST_Pp_RXBASE_OFF p)
  let size := 8 * s.rd (UST_Pp_RXSIZE_SIZE p)
  let head := 8 * s.rd (UST_Pp_RXHEAD_OFF p)
  let tail := 8 * s.rd (UST_Pp_RXTAIL_OFF p)
  let x := s.uport p
  let r := tunnelHeader 0xFF ptype 0 body.length x.seq s.now ++ body
  let r := padTo ((r.length + 7) / 8 * 8) r
  if size < 4096 then s.bump (UST_Pp_ERR_RXDROP p)
  else
    let used := (head + size - tail % size) % size
    if size ≤ used + r.length then s.bump (UST_Pp_ERR_RXDROP p)
    else
      let q := (s.unitFrame 4 p none none body).ringPut base size head r
      if !q.1 then q.2.bump (UST_Pp_ERR_RXDROP p)
      else
        let s := q.2.setUport p { x with seq := (x.seq + 1) % 65536 }
        let s := s.wr (UST_Pp_RXHEAD_OFF p) ((head + r.length) % size / 8)
        if used = 0 then s.ustEvent p (176 + p) else s

/-- A master frame on the MVB (R422, R424): a record of a port or device address, an F_code and a zero byte, without
data. A source port of that address answers it with its value, of 2 bytes for F_code 0 up to 32 for F_code 4; the
device answers for its own address with its device status, F_code 15. The F_codes are PRESUMED from IEC 61375-3-1 (log
entry 108). -/
def State.mvbMaster (s : State) (body : List Byte) : State :=
  let a := leAt 0 2 body % 4096
  let fc := leAt 2 1 body % 16
  let blank (s : State) (n : Nat) : State :=
    ({ s with fresh := s.fresh + 1 } : State).emit (.under 2 (body ++ (List.range n).map (Config.mvbByte s.fresh)))
  if (List.range 256).any fun k => s.flag (UST_Pp_MVBPk_EN k) && s.flag (UST_Pp_MVBPk_SRC k) &&
      s.rd (UST_Pp_MVBPk_ADDR k) == a && s.rd (UST_Pp_MVBPk_SIZE k) == fc && decide (fc ≤ 4) then
    match tblFind a (s.uport 2).values with
    | some v => s.emit (.under 2 (body ++ padTo (2 ^ (1 + fc)) v))
    | none => blank s (2 ^ (1 + fc))
  else if fc = 15 ∧ a = s.rd (UST_Pp_CFG_DEVADDR 2) then blank s 2
  else s

/-- PORT_FRAME_RECEIVE (R420, R424): an MVB master frame is answered; any other frame is offered to the tunnels of the
port in order, else written to the receive ring. -/
def State.portReceive (s : State) (p : Nat) (msg : Bool) (body : List Byte) (fcs : Bool) : State :=
  if !s.portRuns p then s
  else if !fcs then s.bump (UST_Pp_ERR_FCS p)
  else if p = 2 ∧ !msg ∧ body.length = 4 then s.mvbMaster body
  else if !s.portTakes p msg body then s
  else
    let pt := s.ptype p msg
    match (List.range 32).find? fun t =>
      s.flag (UST_TUNt_CFG_EN t) && s.rd (UST_TUNt_CFG_PORT t) == p &&
        (tunnelKey pt body ^^^ s.rd (UST_TUNt_FILT t)) &&& s.rd (UST_TUNt_MASK t) == 0 with
    | none => s.ringReceive p pt body
    | some t =>
      let s := s.tunTake t pt body
      if s.flag (UST_TUNt_CFG_COPY t) then s.ringReceive p pt body else s

def execPortFrameReceive (p : Fin 6) (msg : Bool) (body : List Byte) (fcs : Bool) (t : Nat) (s : State) :
    Host.Outcome State Fault Refusal :=
  .next ((s.begin t).portReceive p msg body fcs)

/-! ### Sending at a port (R420, R424) -/

/-- The transmit ring of port p: base, size, head, tail in bytes. -/
def State.txRing (s : State) (p : Nat) : Nat × Nat × Nat × Nat :=
  (8 * s.rd (UST_Pp_TXBASE_OFF p), 8 * s.rd (UST_Pp_TXSIZE_SIZE p), 8 * s.rd (UST_Pp_TXHEAD_OFF p),
    8 * s.rd (UST_Pp_TXTAIL_OFF p))

/-- Bytes of a ring from an offset. -/
def State.ringBytes (s : State) (base size off n : Nat) : List Byte :=
  (List.range n).map fun i => ((s.seen (sramBase + base + (off + i) % size) 1).head?).getD 0

/-- Bytes of the transmit ring that wait. -/
def State.txUsed (s : State) (p : Nat) : Nat :=
  let (_, size, head, tail) := s.txRing p
  if size = 0 then 0 else (tail % size + size - head % size) % size

/-- The frame record at TXHEAD with its PTYPE, and the bytes its ring record takes; none where it does not lie within
what firmware has written. -/
def State.txRecord (s : State) (p : Nat) : Option (Nat × List Byte × Nat) :=
  let (base, size, head, _) := s.txRing p
  let h := s.ringBytes base size head 16
  let flen := leAt 4 2 h
  let n := (16 + flen + 7) / 8 * 8
  if n ≤ s.txUsed p then some (leAt 1 1 h, s.ringBytes base size (head + 16) flen, n) else none

/-- TXHEAD moves on; the ring that drains raises source 182 + p. -/
def State.txAdvance (s : State) (p n : Nat) : State :=
  let (_, size, head, _) := s.txRing p
  let s := s.wr (UST_Pp_TXHEAD_OFF p) ((head + n) % (max size 8) / 8)
  if s.txUsed p = 0 then s.ustEvent p (182 + p) else s

/-- Whether a port may put a frame on its line. -/
def State.portSendsNow (s : State) (p : Nat) : Bool :=
  s.portRuns p && (s.uport p).sending == .idle &&
    (decide (2 ≤ p) || (!s.flag (UST_Pp_CFG_LISTEN p) && !s.flag (UST_Pp_STAT_BUSOFF p)))

/-- The tunnels with a frame for port p. -/
def State.tunnelsFor (s : State) (p : Nat) : List Nat :=
  (List.range 32).filter fun t =>
    s.flag (UST_TUNt_CFG_EN t) && s.rd (UST_TUNt_CFG_PORT t) == p && !(s.tunnel t).home.isEmpty

/-- SEQ b comes after SEQ a. -/
def seqAfter (a b : Nat) : Bool := let d := (b + 65536 - a) % 65536; decide (0 < d) && decide (d < 32768)

/-- The first frame of tunnel t goes out at the port, or is discarded for its age or its SEQ; a gap in SEQ is counted.
-/
def State.tunOut (s : State) (p t : Nat) : State :=
  let x := s.tunnel t
  match x.home with
  | [] => s
  | f :: rest =>
    let s := s.setTunnel t { x with home := rest }
    let maxage := s.rd (UST_TUNt_CFG_MAXAGE t)
    if maxage ≠ 0 ∧ f.stamp + maxage * 1000000 < s.now then s.tunDrop (UST_TUNt_CNT_AGEDROP t)
    else
      let late := match x.last with | some l => !seqAfter l f.seq | none => false
      if late then s
      else
        let gap := match x.last with | some l => f.seq != (l + 1) % 65536 | none => false
        let s := if gap then s.bump (UST_TUNt_CNT_GAP t) else s
        let s := s.setTunnel t { x with home := rest, last := some f.seq }
        (s.setUport p { s.uport p with sending := .other }).emit (.under p f.body)

/-- The controllers read n bytes of a ring from an offset: whether a row is uncorrectable. -/
def State.ringReads (s : State) (base size off n : Nat) : Bool × State :=
  s.seeRows 0x23 3 (s.errRows fun memid row =>
    memid == 2 && (List.range n).any fun i => (base + (off + i) % size) / 32 == row)

/-- The record at TXHEAD goes out, becomes the value of an MVB source port, or is skipped: a record that is no frame
of the port's kind, and one of which a row is uncorrectable (DESIGN CHOICE, log entry 117). -/
def State.ringOut (s : State) (p : Nat) : State :=
  let (base, size, head, _) := s.txRing p
  let q := s.ringReads base size head (match s.txRecord p with | some x => x.2.2 | none => s.txUsed p)
  let s := q.2
  match s.txRecord p with
  | none => (s.bump (UST_Pp_ERR_TXERR p)).txAdvance p (s.txUsed p)
  | some (pt, body, n) =>
    if q.1 || (decide (p < 2) && !s.canValid p body) then (s.bump (UST_Pp_ERR_TXERR p)).txAdvance p n
    else if p = 2 ∧ pt = 2 then
      let x := s.uport 2
      (s.setUport 2 { x with values := tblPut (leAt 0 2 body % 4096) (body.drop 4) x.values }).txAdvance 2 n
    else (s.setUport p { s.uport p with sending := .ring }).emit (.under p body)

/-- An idle port starts what waits for it: the transmit ring in ring order, tunnels in SEQ order; where both wait, which
goes first is left open. -/
def State.portKick (s : State) (p : Nat) : Nat → State
  | 0 => s
  | n + 1 =>
    if !s.portSendsNow p then s
    else
      match decide (0 < s.txUsed p), s.tunnelsFor p with
      | false, [] => s
      | true, [] => (s.ringOut p).portKick p n
      | false, t :: _ => (s.tunOut p t).portKick p n
      | true, t :: _ =>
        let (v, s) := s.free
        (if v % 2 = 0 then s.ringOut p else s.tunOut p t).portKick p n

/-- Start what waits at port p. -/
def State.portStart (s : State) (p : Nat) : State :=
  s.portKick p (s.txUsed p / 8 + 32 * (s.tunnelsFor p).length + 1)

/-- TX_RING_WRITE (R424): firmware writes TXTAIL, a byte offset in the ring. -/
def execTxRingWrite (p : Fin 6) (tail : BitVec 24) (t : Nat) (s : State) : Host.Outcome State Fault Refusal :=
  let s := (s.begin t).wr (UST_Pp_TXTAIL_OFF p) (tail.toNat / 8)
  .next (s.portStart p)

/-- PORT_FRAME_TRANSMITTED (R424). -/
def State.portSent (s : State) (p : Nat) : State :=
  let x := s.uport p
  match x.sending with
  | .idle => s
  | .other => (s.setUport p { x with sending := .idle }).portStart p
  | .ring =>
    let s := s.setUport p { x with sending := .idle }
    let s := match s.txRecord p with
      | some (_, _, n) => s.txAdvance p n
      | none => s.txAdvance p (s.txUsed p)
    s.portStart p

def execPortFrameTransmitted (p : Fin 6) (t : Nat) (s : State) : Host.Outcome State Fault Refusal :=
  .next ((s.begin t).portSent p)

/-! ### Tunnel frames from the peer (R419, R420) -/

/-- Insert by SEQ. -/
def insertSeq (f : TunFrame) : List TunFrame → List TunFrame
  | [] => [f]
  | g :: r => if seqAfter f.seq g.seq then f :: g :: r else g :: insertSeq f r

/-- A whole frame joins the queue to the local port. -/
def State.tunQueue (s : State) (t : Nat) (f : TunFrame) : State :=
  let x := { s.tunnel t with part := none }
  if 32 ≤ x.home.length then (s.setTunnel t x).tunDrop (UST_TUNt_CNT_QDROP t)
  else (s.setTunnel t { x with home := insertSeq f x.home }).portStart (s.rd (UST_TUNt_CFG_PORT t))

/-- The frame of a SEQ lacks a fragment: it is discarded and counted, once. -/
def State.tunLacks (s : State) (t seq : Nat) : State :=
  let x := s.tunnel t
  if x.lacking = some seq then s.setTunnel t { x with part := none }
  else (s.setTunnel t { x with part := none, lacking := some seq }).tunDrop (UST_TUNt_CNT_FRAGDROP t)

/-- TUNNEL_FRAME (R419): a frame or fragment of the peer. A frame that lacks a fragment is discarded and counted. -/
def State.tunnelFrame (s : State) (frame : List Byte) : State :=
  let p := frPayload frame
  let t := leAt 0 1 p
  if frKind frame ≠ frTunnel ∨ 32 ≤ t ∨ !s.ustPowered then s
  else if !s.flag (UST_TUNt_CFG_EN t) || !s.flag (UST_TUNt_STAT_RESOLVED t) ||
      s.rd (UST_TUNt_STAT_NODE t) != frSender frame then s
  else
    let more := bitAt (leAt 2 1 p) 0
    let i := bitsAt (leAt 2 1 p) 1 3
    let f : TunFrame := ⟨leAt 1 1 p, leAt 6 2 p, leAt 8 8 p, p.drop 16⟩
    let x := s.tunnel t
    let cont := match x.part with | some (g, j) => g.seq == f.seq && j == i | none => false
    let s := match x.part, cont with | some (g, _), false => s.tunLacks t g.seq | _, _ => s
    let body := match x.part, cont with | some (g, _), true => g.body ++ f.body | _, _ => f.body
    let f := { f with body := body }
    if !cont && i != 0 then s.tunLacks t f.seq
    else if more then s.setTunnel t { s.tunnel t with part := some (f, i + 1) }
    else if body.length ≠ leAt 4 2 p then s.tunLacks t f.seq
    else s.tunQueue t f

def execTunnelFrame (frame : List Byte) (t : Nat) (s : State) : Host.Outcome State Fault Refusal :=
  .next ((s.begin t).tunnelFrame frame)

/-! ### Ports start, stop, reset and change state (R422 to R426) -/

/-- What STAT shows of a port that has just begun to run. -/
def State.portUp (s : State) (p : Nat) : State :=
  if p < 2 then
    let s := ((s.wr (UST_Pp_STAT_UP p) 1).wr (UST_Pp_STAT_PASSIVE p) 0).wr (UST_Pp_STAT_BUSOFF p) 0
    (s.wr (UST_Pp_STAT_TEC p) 0).wr (UST_Pp_STAT_REC p) 0
  else if p = 3 ∨ p = 4 then s.wr (UST_Pp_STAT_UP p) 1
  else s

/-- The bits of UST_Pp_CFG that the type of port p has (R428); the others are reserved. -/
def cfgMask (p : Nat) : Nat := if p < 2 then 0xF else if p = 2 then 0x3FFC0001 else if p < 5 then 0x3FFFFF1 else 1

/-- PORT_ENABLE (R423): a write of UST_Pp_CFG with EN = 1 while EN is 0 takes the whole configuration. -/
def State.portEnable (s : State) (p v : Nat) : State :=
  if s.flag (UST_Pp_CFG_EN p) then s
  else (((s.putWord (0x10A01000 + 0x1000 * p) (v &&& cfgMask p)).wr (UST_Pp_CFG_EN p) 1).portUp p).portStart p

def execPortEnable (p : Fin 6) (v : BitVec 32) (t : Nat) (s : State) : Host.Outcome State Fault Refusal :=
  let s := s.begin t
  .next (if s.pw.phase == .running then s.portEnable p v.toNat else s)

/-- PORT_DISABLE (R423): rings, tunnel queues and counts are kept. -/
def State.portDisable (s : State) (p : Nat) : State :=
  let s := s.wr (UST_Pp_CFG_EN p) 0
  if p < 2 ∨ p = 3 ∨ p = 4 then s.wr (UST_Pp_STAT_UP p) 0 else s

def execPortDisable (p : Fin 6) (t : Nat) (s : State) : Host.Outcome State Fault Refusal :=
  .next ((s.begin t).portDisable p)

/-- The fields of a port and of its tunnels that carry F return to their reset values. -/
def State.portRestore (s : State) (p : Nat) : State :=
  let s := s.restore (·.f) (inArea .ust (0x10A01000 + 0x1000 * p) (0x10A02000 + 0x1000 * p))
  (List.range 32).foldl (fun s t =>
    if s.rd (UST_TUNt_CFG_PORT t) = p then s.restore (·.f) (inArea .ust (0x10A00110 + 0x20 * t) (0x10A00118 + 0x20 * t))
    else s) s

/-- A port stops and its tunnel queues empty; a frame on the line ends by itself. -/
def State.portStop (s : State) (p : Nat) : State :=
  let s := (List.range 32).foldl (fun s t =>
    if s.rd (UST_TUNt_CFG_PORT t) = p then
      let x := s.tunnel t
      (s.setTunnel t { x with away := [], home := [], part := none }).tunResolve t
    else s) s
  let x := s.uport p
  s.setUport p { x with seq := 0, resetting := true, sending := if x.sending = .idle then .idle else .other }

/-- PORT_RESET (R425): ring pointers return to zero, the tunnel queues of the port empty, configuration is kept. -/
def State.portReset (s : State) (p : Nat) : State := (s.portRestore p).portStop p

def execPortReset (p : Fin 6) (t : Nat) (s : State) : Host.Outcome State Fault Refusal :=
  let s := s.begin t
  .next (if s.pw.phase == .running then s.portReset p else s)

/-- PORT_RESET_DONE (R425): the port runs again where EN is still 1. -/
def State.portResetDone (s : State) (p : Nat) : State :=
  let x := s.uport p
  if !x.resetting then s
  else
    let s := s.setUport p { x with resetting := false }
    if s.flag (UST_Pp_CFG_EN p) then (s.portUp p).portStart p else s

def execPortResetDone (p : Fin 6) (t : Nat) (s : State) : Host.Outcome State Fault Refusal :=
  .next ((s.begin t).portResetDone p)

/-- BUSOFF_RECOVERY (R428): with BOAUTO set, after 128 × 11 recessive bits. -/
def State.busoffRecovery (s : State) (p : Nat) : State :=
  if s.portRuns p && s.flag (UST_Pp_STAT_BUSOFF p) && s.flag (UST_Pp_CFG_BOAUTO p) then
    ((s.portUp p).ustEvent p (188 + p)).portStart p
  else s

def execBusoffRecovery (p : Fin 2) (t : Nat) (s : State) : Host.Outcome State Fault Refusal :=
  .next ((s.begin t).busoffRecovery p)

/-- What a port reports of its line: the bits of UST_Pp_STAT that its type has, and the bus or line errors since the
last report. A CAN port in bus-off leaves it by BUSOFF_RECOVERY or a new start alone (R428). -/
def State.portState (s : State) (p : Nat) (up passive busoff lineb fdx : Bool) (tec rec errors : Nat) : State :=
  if !s.portRuns p then s
  else
    let f := fun (s : State) =>
      if p < 2 then
        let busoff := busoff || s.flag (UST_Pp_STAT_BUSOFF p)
        let s := ((s.wrB (UST_Pp_STAT_UP p) (!busoff)).wrB (UST_Pp_STAT_PASSIVE p) passive).wrB (UST_Pp_STAT_BUSOFF p) busoff
        (s.wr (UST_Pp_STAT_TEC p) tec).wr (UST_Pp_STAT_REC p) rec
      else if p = 2 then (s.wrB (UST_Pp_STAT_UP p) up).wrB (UST_Pp_STAT_LINEB p) lineb
      else if p = 5 then (s.wrB (UST_Pp_STAT_UP p) up).wrB (UST_Pp_STAT_FDX p) fdx
      else s
    let old := s.word (0x10A01008 + 0x1000 * p) % 256
    let s := (f s).bump (UST_Pp_ERR_LINE p) errors
    let s := if s.word (0x10A01008 + 0x1000 * p) % 256 ≠ old ∨ errors ≠ 0 then s.ustEvent p (188 + p) else s
    s.portStart p

def execPortStateChange (p : Fin 6) (up passive busoff lineb fdx : Bool) (tec rec errors : BitVec 8) (t : Nat) (s : State) :
    Host.Outcome State Fault Refusal :=
  .next ((s.begin t).portState p up passive busoff lineb fdx tec.toNat rec.toNat errors.toNat)

/-! ### The event-triggered window (R309, R310) -/

/-- EVENT_WINDOW_OPEN: held frames may leave. -/
def State.eventWindowOpen (s : State) : State := ([0, 1, 2, 3].foldl State.etKick s.rwFlush.tunSendAll).rwFlush

def execEventWindowOpen (t : Nat) (s : State) : Host.Outcome State Fault Refusal := .next (s.begin t).eventWindowOpen

/-- ET_FRAME_SENT: the port starts the next frame if it fits before the next mark. -/
def State.etFrameSent (s : State) (p : Nat) : State :=
  ((s.setEtPort p { s.etPort p with busy := false }).etKick p).rwFlush.tunSendAll

def execEtFrameSent (port : Fin 4) (t : Nat) (s : State) : Host.Outcome State Fault Refusal :=
  .next ((s.begin t).etFrameSent port)

end Sys2Proof.Machine
end

