-- ==== Sys2Proof/Machine/Flush.lean ====
section
/-!
DEFINITION. Flush mode and the park (R60 to R64, R491 to R493): flush entry, the flush sequencer, the retain copies,
the SEAL record.
-/

namespace Sys2Proof.Machine

/-! ### The flush sequencer (R62) -/

/-- The lanes of engine e that are formed and not fenced; none where a lane failure has stopped the engine, or where no
lanes have been formed since the start. -/
def State.flushLanes (s : State) (e : Nat) : Nat := if s.lanesStand e then (s.leLive e).length else 0

/-- The engines that may sequence, in the order of R62, by their code in SEQR: three lanes first, then pairs. -/
def State.sequencers (s : State) : List Nat :=
  ([0, 1, 2, 3].filter fun e => s.flushLanes e == 3) ++ (([0, 1, 2, 3].filter fun e => s.flushLanes e == 2).map (16 + ·))

/-- FLUSH_SEQUENCER_HANDOVER (R62). -/
def execFlushSequencerHandover (t : Nat) (s : State) : Host.Outcome State Fault Refusal := .next (s.begin t).sequencerNext

/-! ### Flush entry (R60, R61) -/

/-- The engine stops without finishing its cycle, and a swap whose gap it is in is abandoned (R236): the flush sequencer
stays clocked, unparked where it was in Nap, with its program stopped; any other engine is parked (R61, R62). -/
def State.flushEngine (s : State) (e : Nat) : State :=
  let s := s.swapUndone e
  let x := s.engine e
  let s := s.setEngine e { x with
    executing := false, stop := false, want := .none, load := none, shadow := none, restart := none, await := false }
  let s := s.wr (LE_Ee_STAT_SHADOW e) 0
  if s.sequences e then
    let s := s.wr (PWR_UNIT_UNIT (4 + e)) 0
    if leCounts (s.leState e) ∨ s.leState e = leParked then s.wr (LE_Ee_STAT_STATE e) leStopped else s
  else s.wr (LE_Ee_STAT_STATE e) leParked

/-- The recorder at the seal point (R492, R496): what waits in the ingress queue is refused, a read ends with ERR 0x6
after records whose number the spec leaves open (a free value), and a flush runs until staging is empty. -/
def State.sealPoint (s : State) : State :=
  let n := s.rcd.queue.length
  let s : State := { s with pw := { s.pw with refused := n } }
  let s := s.setQueue []
  let s := match s.rcd.read with
    | some _ => let (v, s) := s.free; s.readAbort v
    | none => s
  s.startFlush true

/-- The stands, DRAM, Rootway, the understory controllers and the check-value units lose power (R61 step 2); stand state
and hand-overs are abandoned (R64). -/
def State.flushPowersDown (s : State) : State :=
  let s := [0, 1, 2, 3].foldl (fun s k =>
    (s.setStand k { s.stand k with request := none, run := none, wfi := false, haltReq := false, wakeAt := none }).wr
      (PWR_UNIT_UNIT k) 3) s
  let s := s.restore (·.m) (inArea .cvu 0x10B00000 0x10C00000)
  { s with rwy := rootwayInit, ust := understoryInit, cvu := cvuInit, dbg := .none, pmg := { s.pmg with low := none } }

/-- Flush mode is entered (R61): from then on it runs to the park (R63). `vstore` is VSTORE at flush entry in 10 mV. -/
def State.flushEnter (s : State) (vstore : Nat) : State :=
  let active := s.joinState == joinActive
  let s : State := { s with pw := { s.pw with
    phase := .flush, failing := false, seqr := s.sequencers.head?.getD 0xFF, seqNext := s.sequencers.drop 1
    vFlush := sat 16 vstore, refused := 0, stgLost := 0, sealed := false } }
  let s := (s.wr PWR_HOLDUP_STAT_PHASE 2).sealPoint
  let s := [0, 1, 2, 3].foldl State.flushEngine s
  let s := (s.pulseEnd.settleAll).rangerPowerfail
  let s := s.flushPowersDown
  let s : State := { s with cnp := { s.cnp with flushSends := active } }
  let s : State := { s with cop := { s.cop with
    run := none, waiting := none, due := [], testing := 0, laneTest := 0, fenced := 0, laneFenced := 0 } }
  (s.setJoin joinFlush).eccStop

/-- FLUSH_ENTRY (R59, R60): at t0 + 10 ms, or when the store has fallen to 38 V, of a power-fail that began after the
first READY of the start. -/
def execFlushEntry (vstore t : Nat) (s : State) : Host.Outcome State Fault Refusal :=
  let s := s.begin t
  .next <|
    if s.pw.failing && s.pw.phase == .running && s.pw.start.wasReady &&
        (decide (s.pw.t0 + 10000000 ≤ t) || decide (vstore ≤ 3800)) then s.flushEnter vstore
    else s

/-! ### The seal (R61 steps 5 to 7, R493) -/

/-- The retain shadow of each loaded engine is written to NAND (R219); one with an uncorrectable row gives no copy
(R448). -/
def State.writeRetain (s : State) : State :=
  [0, 1, 2, 3].foldl (fun s e =>
    let x := s.engine e
    if x.prog.isSome && x.retain.isSome then
      let q := s.seeShadow e 0x20 3
      if q.1 then q.2 else q.2.setEngine e { x with nand := x.retain }
    else s) s

/-- RETAIN of the SEAL record: the engines whose retain copy is written. -/
def State.retainMask (s : State) : Nat :=
  [0, 1, 2, 3].foldl (fun m e => setBit m e ((s.engine e).prog.isSome && (s.engine e).retain.isSome)) 0

/-- The stamps of loss and return of feed n. -/
def State.feedStamps (s : State) (n : Nat) : List Byte :=
  leBytes 8 (s.rd64 (PWR_FEEDn_LOST_LO n) (PWR_FEEDn_LOST_HI n)) ++ leBytes 8 (s.goodStamp n)

/-- The payload of the SEAL record (R493). -/
def State.sealPayload (s : State) (t0 vstore seqr : Nat) : List Byte :=
  leBytes 8 t0 ++ s.feedStamps 0 ++ s.feedStamps 1 ++ leBytes 4 vstore ++ leBytes 4 (sat 32 s.pw.refused) ++
    leBytes 4 ((s.rcd.drops.map fun (d : Drops) => sat 32 d.total).getD 0) ++
    [byteOf s.retainMask, byteOf seqr] ++ leBytes 2 0 ++ leBytes 4 s.pw.stgLost ++ leBytes 4 0

/-- The retain copies, then the SEAL record, which ends the last page, are in NAND; the recorder is SEALED. Heartwood
closes where the SEAL is its last record (R484). -/
def State.sealNow (s : State) (t0 vstore seqr : Nat) : State :=
  let body := s.sealPayload t0 vstore seqr
  let len := 24 + body.length
  let heart := s.heartTakes len
  let seq := s.rcd.next
  let bs := recHeader len 8 0 (recFlags true heart s.tsync) 0x02 seq s.now ++ body
  let s := s.writeRetain.eraseFor s.rcd.pages
  let s : State := { s with
    rcd := { s.rcd with next := seq + 1, rings := s.rcd.rings ++ [(⟨seq, s.rcd.pages, bs⟩ : NandRec)] }
    pw := { s.pw with sealed := true } }
  let s := s.ringsPage len (some seq)
  let s := if heart then s.heartAdd seq bs else s
  let s : State := { s with rcd := { s.rcd with
    heartClosed := s.rcd.heartClosed || (heart && decide (s.hwn ≤ s.rcd.heart.length)) } }
  s.wr REC_STAT_STATE 2

/-- FLUSH_SEAL (R61): staging is in NAND; the retain copies and the SEAL record follow, and the module parks. -/
def execFlushSeal (t : Nat) (s : State) : Host.Outcome State Fault Refusal :=
  let s := s.begin t
  .next (if s.pw.phase = .flush ∧ s.fill = 0 then (s.sealNow s.pw.t0 s.pw.vFlush s.pw.seqr).parked else s)

end Sys2Proof.Machine
end

