-- ==== Sys2Proof/Machine/LowPower.lean ====
section
/-!
DEFINITION. Power states (R499 to R512, R524): Doze and Nap of a stand, PWR_CMD, the entry to Slumber and Hibernate, wakes,
and the copies of global time.
-/

namespace Sys2Proof.Machine

/-! ### Known events (R501, R504) -/

/-- The earlier of two instants that may be absent. -/
def earlier : Option Nat → Option Nat → Option Nat
  | some a, some b => some (min a b)
  | some a, none => some a
  | none, b => b

/-- PWR_WTIMER in ns; all ones = none. -/
def State.wakeTimer (s : State) : Option Nat :=
  let v := s.rd64 PWR_WTIMER_LO PWR_WTIMER_HI
  if v = 2 ^ 64 - 1 then none else some v

/-- The deadline that engine e reported at its last END, in ns. -/
def State.deadlineOf (s : State) (e : Nat) : Option Nat := (s.engine e).deadline.map fun (d : Nat) => d * 1000

/-- The earliest deadline among the engines. -/
def State.engineDeadline (s : State) : Option Nat := [0, 1, 2, 3].foldl (fun m e => earlier m (s.deadlineOf e)) none

/-- The earliest known event of the module (R504, PWR_NEXT). -/
def State.moduleNext (s : State) : Option Nat := earlier s.wakeTimer s.engineDeadline

/-- Whether source n is routed to stand k. -/
def State.routed (s : State) (n k : Nat) : Bool :=
  s.rd (STD_EVTi_ROUTE_PRIO n) != 0 && s.bit (STD_EVTi_ROUTE_STANDS n) k

/-- The earliest known event of stand k (R501). -/
def State.standNext (s : State) (k : Nat) : Option Nat :=
  let mark := if s.routed 112 k then some (s.markNs + s.tcNs) else none
  let timer := earlier (some (s.timecmp k 0))
    (if s.mode k = modeSplit then some (min (s.timecmp k 1) (s.timecmp k 2)) else none)
  let eng := [0, 1, 2, 3].foldl (fun m e =>
    if s.routed (24 + e) k || s.routed (28 + e) k then earlier m (s.deadlineOf e) else m) none
  earlier (earlier mark timer) (earlier eng (if k = 0 then s.wakeTimer else none))

/-- The guard time, and the entry costs and longest exits of R499, in ns. -/
def State.guardNs (s : State) : Nat := s.rd PWR_POL_GUARD * 1000
def dozeEntry : Nat := 100
def dozeExit : Nat := 2000
def napEntry : Nat := 8000
def napExit : Nat := 200000
def slumberEntry : Nat := 60000000
def slumberExit : Nat := 30000000
def hibEntry : Nat := 120000000

/-- Whether a state with an entry cost and an exit latency fits before an event (R501). -/
def State.fits (s : State) (next : Option Nat) (cost : Nat) : Bool :=
  match next with
  | none => true
  | some t => decide (s.now + s.guardNs + cost ≤ t)

/-! ### Doze and Nap of a stand (R500 to R502) -/

/-- Whether an event is pending that ends the WFI of stand k. -/
def State.standCalled (s : State) (k : Nat) : Bool :=
  let p := s.pendVec k
  (s.offered k false p).isSome || (s.offered k true p).isSome || decide (s.timecmp k 0 ≤ s.now) ||
    (s.mode k == modeSplit && decide (min (s.timecmp k 1) (s.timecmp k 2) ≤ s.now))

/-- Whether an event became pending for stand k in the running fabric clock: it wins over a decision to rest (R524). -/
def State.justPended (s : State) (k : Nat) : Bool := (List.range 8).any fun j => s.hit (STD_Sk_PENDj k j) != 0

/-- Whether an event routed to stand k has become pending since it came to rest, whatever its priority (R502). -/
def State.newlyPended (s : State) (k : Nat) : Bool := let p := s.pendVec k; p - (p &&& (s.stand k).asleep) != 0

/-- The unit goes to a state, with the instant at which its exit is to begin; Lookout is suspended with S0 (R153). -/
def State.standRests (s : State) (k code exit : Nat) : State :=
  let at_ := (s.standNext k).map fun (t : Nat) => t - s.guardNs - exit
  let s := (s.setStand k { s.stand k with wakeAt := at_, asleep := s.pendVec k }).wr (PWR_UNIT_UNIT k) code
  let s := if code = 2 then (s.checkpoint k).bump PWR_CNT_NAP else s
  if k = 0 then s.lookoutSuspend else s

/-- STAND_WFI (R501): the hart enters WFI, and the power manager chooses the deepest of Doze and Nap that the policy,
the stand and the slack allow. An event that is already pending wins (R524). -/
def State.standWfi (s : State) (k : Nat) : State :=
  if !s.standUp k || s.standState k != stRunning || s.rd (PWR_UNIT_UNIT k) != 0 then s
  else
    let s := s.setStand k { s.stand k with wfi := true }
    let x := s.stand k
    let next := s.standNext k
    let pol := s.rd PWR_POL_MAXUNIT
    if x.request.isSome || x.run.isSome || s.standCalled k || s.justPended k then s
    else if pol = 2 ∧ !s.bit STD_OPT_SAFEROLE k ∧ s.fits next (napEntry + napExit) then s.standRests k 2 napExit
    else if 1 ≤ pol ∧ pol ≤ 2 ∧ s.fits next (dozeEntry + dozeExit) then s.standRests k 1 dozeExit
    else s

def execStandWfi (k : Fin 4) (t : Nat) (s : State) : Host.Outcome State Fault Refusal := .next ((s.begin t).standWfi k)

/-- The exit from Doze or Nap begins. Doze ends at once; the exit from Nap is steps 3 to 5 of a hand-over (R500). -/
def State.standWakes (s : State) (k : Nat) : State :=
  let x := s.stand k
  match s.rd (PWR_UNIT_UNIT k) with
  | 1 =>
    let s := (s.setStand k { x with wakeAt := none }).wr (PWR_UNIT_UNIT k) 0
    if k = 0 then s.lookoutRestart false else s
  | 2 =>
    if s.standState k = stFailed then
      let s := (s.setStand k { x with wakeAt := none }).wr (PWR_UNIT_UNIT k) 0
      if k = 0 then s.lookoutRestart false else s
    else if x.run.isSome then s
    else
      let r : HoRun := ⟨⟨s.mode k, false, 3⟩, s.mode k, s.now, true⟩
      (s.setStand k { x with wakeAt := none, run := some r }).wr (STD_Sk_STAT_STATE k) stHandover
  | _ => s

/-- UNIT_WAKE (R502): at the planned instant, or when a routed event or a hand-over request waits. -/
def State.unitWake (s : State) (k : Nat) : State :=
  let x := s.stand k
  let due := match x.wakeAt with | some w => decide (w ≤ s.now) | none => false
  if s.standUp k && (due || s.standCalled k || s.newlyPended k || x.request.isSome) then s.standWakes k else s

def execUnitWake (k : Fin 4) (t : Nat) (s : State) : Host.Outcome State Fault Refusal := .next ((s.begin t).unitWake k)

/-! ### PWR_CMD (R504) -/

/-- The longest exit from Hibernate (R511): the phases of R90 from reference lock on, without Ranger's key phase. -/
def State.hibExitMax (s : State) : Nat :=
  let key := s.rd KEY_PAYLEN + 64 * (s.rd KEY_JRN_CNT_CONF + s.rd KEY_JRN_CNT_HIST)
  let fw := match s.fwu.booted with | some k => conPaylen (s.fwSlot k).header | none => 0
  let test := (if s.flag BIST_OPT_SLOGIC then 20000000 else 0) + (if s.flag BIST_OPT_SMEM then 135500000 else 0)
  2000000 + key * 1000 / 45 + 15000000 + 60000000 + test + fw * 1000 / 160

/-- Whether a source from 48 to 143 that EVT names is pending for S0. -/
def State.evtWakes (s : State) : Bool :=
  (List.range 96).any fun i => s.pends (48 + i) 0 && s.routed (48 + i) 0 &&
    decide (s.rd PWR_WAKE_WAKEPRIO ≤ s.rd (STD_EVTi_ROUTE_PRIO (48 + i)))

/-- The instant at which the feed, channel or blaze of wake source i met its condition last, plus one; 0 where it has
not since the last entry was accepted. -/
def State.edgeAt (s : State) (i : Nat) : Nat := tblGet 0 i s.pmg.edges

/-- Whether wake source i is enabled, and its condition holds (R508): FEED, CHAN and BLZ are events. -/
def State.wakeFires (s : State) (i : Nat) : Bool :=
  s.bit PWR_WAKE_EN i &&
    match i with
    | 0 => (match s.wakeTimer with | some t => decide (t ≤ s.now) | none => false)
    | 4 => (match s.engineDeadline with | some d => decide (d ≤ s.now + slumberExit + s.guardNs) | none => false)
    | 5 => s.evtWakes
    | _ => s.edgeAt i != 0

/-- Whether the event of wake source i falls into the running fabric clock. -/
def State.edgeNow (s : State) (i : Nat) : Bool := s.wakeFires i && s.edgeAt i == s.now + 1

/-- Whether a wake source is pending already when a command is judged. -/
def State.wakePending (s : State) (hib : Bool) : Bool :=
  s.wakeFires 0 || s.edgeNow 1 || (!hib && (s.edgeNow 2 || s.edgeNow 3 || s.wakeFires 4 || s.wakeFires 5))

/-- The longest time an armed depot run takes, in ns (R455, R456, R461, R465): its longest logic target, its memory
groups one after another, and a hard repair of every row that is held. -/
def State.depotNs (s : State) : Nat :=
  match s.cop.depot with
  | none => 0
  | some r =>
    let logic := if r.mask0 % 2 ^ 15 ≠ 0 then 20000000 else if r.mask0 ≠ 0 then 7000000
      else if bitAt r.mask1 1 then 5000000 else if bitsAt r.mask1 2 8 ≠ 0 then 2500000 else 0
    let group (i ns : Nat) : Nat := if bitAt r.mask1 i then ns else 0
    logic + group 16 54000000 + group 17 34000000 + group 18 34000000 + group 19 4500000 + group 20 9000000 +
      2000000000 * (s.cop.softRows.length + s.cop.ctlSpare.length)

/-- Whether something is in progress that blocks the entry. -/
def State.lowBlocked (s : State) : Bool :=
  s.fwu.pause.isSome || s.flag BIST_STAT_BUSY || s.pw.failing ||
    ([0, 1, 2, 3].any fun e => s.rd (LE_Ee_STAT_SHADOW e) == 4) ||
    ([0, 1, 2, 3].any fun k => (s.stand k).request.isSome || (match (s.stand k).run with | some r => !r.nap | none => false))

/-- The outcome of a command: ERR, CMDEV, source 232. -/
def State.pwrOutcome (s : State) (err : Nat) : State := ((s.wr PWR_STAT_ERR err).wr PWR_STAT_CMDEV 1).raise 232

/-- The ERR of an entry, 0 when it is accepted. -/
def State.lowErr (s : State) (hib : Bool) : Nat :=
  if !s.loaded || s.flag PWR_STAT_POLERR then 5
  else if s.rd PWR_POL_MAXMOD < (if hib then 2 else 1) then 1
  else if s.lowBlocked || s.pmg.low.isSome then 2
  else if s.wakePending hib then 4
  else 0

/-- An entry abandons a running PREPARE (R547): its slot stays COMPLETE. -/
def State.dropPrepare (s : State) : State :=
  match s.fwu.run with
  | some r =>
    if r.op = 4 then
      let (v, s) := s.free
      let s : State := { s with fwu := { s.fwu with run := none } }
      (((s.wr FWU_STAT_BUSY 0).wr FWU_STAT_FAILEV 1).wr FWU_RES_ERR v).raise 225
    else s
  | none => s

/-- Whether a piece is being committed, which the entry lets end before step 4 (R547). -/
def State.committing (s : State) : Bool := s.fwu.run.any fun (r : FwRun) => r.op == 2

/-- PREPARED lasts until a Hibernate entry (R533). -/
def State.prepareEnds (s : State) : State :=
  [0, 1].foldl (fun s k => if (s.fwSlot k).state = slPrepared then s.slotTo k slComplete else s) s

/-- SLUMBER or HIBERNATE (R504, R505, R510). -/
def State.lowEnter (s : State) (hib : Bool) : State :=
  let e := s.lowErr hib
  if e ≠ 0 then s.pwrOutcome e
  else
    let s : State := { s with pmg := { s.pmg with low := some ⟨hib, s.now, false, false, false, false⟩, edges := [] } }
    let s := ((s.wr PWR_STAT_ERR 0).wr PWR_STAT_STATE (if hib then 4 else 1)).dropPrepare
    if hib then s.prepareEnds else s

/-- REST (R504): the deepest state that the policy allows and that fits before the module's known events. -/
def State.rest (s : State) : State :=
  let e := s.lowErr false
  let next := s.moduleNext
  if e = 5 then s.pwrOutcome 5
  else if 2 ≤ s.rd PWR_POL_MAXMOD ∧ s.fits next (hibEntry + s.hibExitMax) then s.lowEnter true
  else if 1 ≤ s.rd PWR_POL_MAXMOD ∧ s.fits next (slumberEntry + s.depotNs + slumberExit) then s.lowEnter false
  else s.pwrOutcome (if e = 2 ∨ e = 4 then e else 3)

/-- Whether no step of the entry is in progress: the engines have parked and no piece is being committed, staging is
empty, no depot run runs. -/
def State.lowStepDone (s : State) (l : LowPower) : Bool :=
  if !l.left then !([0, 1, 2, 3].any fun e => s.leState e == leRunning) && !s.committing
  else if !l.repaired then s.fill == 0
  else s.cop.run.isNone

/-- The entry ends where it stands, and the exit runs from there (R524). -/
def State.lowEnd (s : State) : State := ({ s with pmg := { s.pmg with low := none } }.wr PWR_STAT_STATE 0).pwrOutcome 6

/-- A wake or CANCEL during an entry (R524): the entry stops at the end of its current step, which the cycle mark that
follows finds; a depot run ends first (R461). -/
def State.lowStop (s : State) (l : LowPower) : State :=
  let s : State := { s with pmg := { s.pmg with low := some { l with woken := true } } }
  if s.lowStepDone l then s.lowEnd else s

/-- The source of a wake is reported. -/
def State.wakeSource (s : State) (i : Nat) : State := (s.wr PWR_WAKESRC_SRC (2 ^ i)).note PWR_WAKESRC_SRC (2 ^ i)

/-- CANCEL (R524) during an entry is a wake with no source bit set; otherwise it does nothing. -/
def State.lowCancel (s : State) : State :=
  match s.pmg.low with
  | some l => if l.reached || l.woken then s else (s.wr PWR_WAKESRC_SRC 0).lowStop l
  | none => s

/-- A write of PWR_CMD: by any stand but S0, or by its lane A in SPLIT without leave (R110), a store access fault. -/
def State.pwrCommand (s : State) (k : Nat) (f : State → State) : State :=
  if k = 0 && s.deviceOpen 0 0x10100000 then (if s.pw.phase == .running then f s else s).answer .done
  else s.answer .storeFault

def execPwrRest (k : Fin 4) (t : Nat) (s : State) : Host.Outcome State Fault Refusal :=
  let s := s.begin t
  .next (if s.hartRuns k then s.pwrCommand k State.rest else s)
def execPwrSlumber (k : Fin 4) (t : Nat) (s : State) : Host.Outcome State Fault Refusal :=
  let s := s.begin t
  .next (if s.hartRuns k then s.pwrCommand k (State.lowEnter · false) else s)
def execPwrHibernate (k : Fin 4) (t : Nat) (s : State) : Host.Outcome State Fault Refusal :=
  let s := s.begin t
  .next (if s.hartRuns k then s.pwrCommand k (State.lowEnter · true) else s)
def execPwrCancel (k : Fin 4) (t : Nat) (s : State) : Host.Outcome State Fault Refusal :=
  let s := s.begin t
  .next (if s.hartRuns k then s.pwrCommand k State.lowCancel else s)

/-! ### Steps 3 to 6 of the entry (R505, R510) -/

/-- A stand that runs or is halted writes its checkpoint before it is power-gated (R505 step 6); one in Nap has done
so. -/
def State.standParks (s : State) (k : Nat) : State :=
  if (s.standState k == stRunning || s.standState k == stHalted) && s.rd (PWR_UNIT_UNIT k) != 2 then s.checkpoint k else s

/-- A port loses power in Slumber: it stops, and its ring pointers return to zero (R425, R507). -/
def State.portParks (s : State) (p : Nat) : State :=
  ((s.wr (UST_Pp_RXTAIL_OFF p) 0).wr (UST_Pp_TXTAIL_OFF p) 0).portStop p

/-- Slumber is reached: stands and engines are gated, DRAM is in self-refresh, Rootway, the understory ports and the
check-value units are unpowered and will restart as after their function resets, with their configuration kept (R507).
-/
def State.slumberReach (s : State) (l : LowPower) : State :=
  let s : State := { s with pmg := { s.pmg with low := some { l with reached := true } } }
  let s := [0, 1, 2, 3].foldl State.standParks s
  let s := (List.range 8).foldl (fun s u => s.wr (PWR_UNIT_UNIT u) 3) s
  let s := (s.restoreShown (inArea .rwy 0x10900000 0x10A00000)).rootwayStop
  let s := (s.ctxsLost.restoreShown (inArea .cvu 0x10B00000 0x10C00000)).cvuStop
  let s := (List.range 6).foldl State.portParks (s.restoreShown (inArea .ust 0x10A01000 0x10A07000))
  let s := s.dramSleep.lookoutSuspend
  ((s.wr PWR_STAT_STATE 2).bump PWR_CNT_SLUMBER).pwrOutcome 0

/-- An armed depot run runs (R461): the plane that Slumber keeps listening is left out, the other carries nothing while
its switch is tested. -/
def State.depotRun (s : State) : State :=
  match s.cop.depot with
  | none => s
  | some r =>
    let r : BistRun := { r with mask1 := setBit r.mask1 0 false }
    (({ s with cop := { s.cop with depot := none } } : State).wr BIST_STAT_ARMED 0).bistBegin r

/-- The entry after the repairs: an armed depot run takes the controller once it is free (R458), and Slumber is
reached when no run is in progress. -/
def State.lowTests (s : State) (l : LowPower) : State :=
  if s.cop.run.isSome then s
  else if s.cop.depot.isNone then s.slumberReach l
  else if s.flag BIST_STAT_COPPICE then s
  else s.depotRun

/-- The entry at a cycle mark. The first mark at which no engine runs is that of step 3; from then on the staging buffer
is emptied; then follow the repairs and the depot run and Slumber, or the seal and Hibernate. `noRes` names the DRAM
rows whose bank group has no free repair resource. -/
def State.lowMark (s : State) (noRes : List Nat) : State :=
  match s.pmg.low with
  | none => s
  | some l =>
    if l.reached then s
    else if l.woken && s.lowStepDone l then s.lowEnd
    else if !l.left then
      if !s.lowStepDone l then s
      else
        let s : State := { s with pmg := { s.pmg with low := some { l with left := true } } }
        s.goSilent.startFlush true
    else if s.fill ≠ 0 then s.startFlush true
    else if l.hib then (s.sealPoint.sealNow l.at_ (s.rd PWR_HOLDUP_STAT_VSTORE) (s.sequencers.head?.getD 0xFF)).pwrOutcome 0 |>.hibernated
    else if !l.repaired then
      let l : LowPower := { l with repaired := true }
      let s := s.softRepair noRes
      ({ s with pmg := { s.pmg with low := some l } } : State).lowTests l
    else s.lowTests l

/-! ### Wakes (R506 to R511) -/

/-- Every register written from the key is empty until key apply (R95). -/
def State.clearKey (s : State) : State :=
  { s with regs := tblKeep (fun k => !((rowFieldOfKey k).any fun f => f.acc == .kl)) s.regs }

/-- The start that begins now: READY may be set already (R58). -/
def State.newStart (s : State) (keyPhase : Bool) : Start :=
  let up := s.flag PWR_HOLDUP_STAT_READY
  { startInit with at_ := s.now, keyPhase := keyPhase, ready := up, wasReady := up }

/-- KEY_STAT sets REMOVED or UNLATCHED: source 231 and an alarm record; from then on no confirmation is written at this
start (R73, R97, R548). -/
def State.contactOpen (s : State) (f : Fld) : State :=
  let s : State := { s with key := { s.key with lost := true } }
  ((s.wr f 1).raise 231).record 2 2 231 0xFFFF (some 0x10E00000) (some 0x10E00004)

/-- At a start KEY_STAT shows the contacts, and warns of those that read open (R73). -/
def State.showContacts (s : State) : State :=
  let s := (s.wrB KEY_STAT_PRESENT s.key.mem.isSome).wrB KEY_STAT_LATCH s.key.latched
  let s := if s.key.mem.isSome then s else s.contactOpen KEY_STAT_REMOVED
  if s.key.latched then s else s.contactOpen KEY_STAT_UNLATCHED

/-- Leaving Hibernate is a start from reference lock on, without Ranger's key phase (R511). -/
def State.hibernateExit (s : State) : State :=
  let s := (List.range 8).foldl (fun s u => s.wr (PWR_UNIT_UNIT u) 0) s
  let s := (s.clearKey.wr PWR_STAT_STATE 0).wr PWR_STAT_HIBEXIT 1
  let s := ((s.wr SYS_RSTCAUSE_LETTER 0).wr SYS_RSTCAUSE_CAUSE 5).wr SYS_RSTCAUSE_STAND 0
  let z := s.newStart true
  (({ s with pw := { s.pw with phase := .locking, start := z } } : State).measureDue (s.rd PWR_HOLDUP_STAT_VSTORE)).showContacts

/-- WAKE (R508): an enabled wake source fires in Slumber, in Hibernate or during an entry. -/
def State.wake (s : State) (i : Nat) : State :=
  if !s.wakeFires i then s
  else if s.pw.phase = .hibernate then (if i ≤ 1 then (s.wakeSource i).hibernateExit else s)
  else
    match s.pmg.low with
    | none => s
    | some l =>
      if (l.hib && decide (2 ≤ i)) || l.woken then s
      else if l.reached then
        if s.rd PWR_STAT_STATE = 2 then (s.wakeSource i).wr PWR_STAT_STATE 3 else s
      else (s.wakeSource i).lowStop l

def execPwrWake (src : Fin 6) (t : Nat) (s : State) : Host.Outcome State Fault Refusal := .next ((s.begin t).wake src)

/-- SLUMBER_EXIT_DONE (R507): DRAM, the stands, the check-value units, the ports and Rootway run again; STATE is Run. -/
def State.slumberExit (s : State) : State :=
  if s.rd PWR_STAT_STATE = 3 then
    let s : State := { s with
      pmg := { s.pmg with low := none }
      cvu := { s.cvu with resetting := false } }
    let s := (s.wr PWR_STAT_STATE 0).dramWake
    let s := if s.standState 0 = stHalted ∧ s.flag STD_OPT_LKODBG then s else s.lookoutRestart false
    let s := (List.range 8).foldl (fun s u => s.wr (PWR_UNIT_UNIT u) 0) s
    let s := (List.range 6).foldl State.portResetDone s.rootwayResetDone
    (s.wr PWR_STAT_WAKEEV 1).raise 233
  else s

def execSlumberExitDone (t : Nat) (s : State) : Host.Outcome State Fault Refusal := .next (s.begin t).slumberExit

/-! ### Clock domains (R513, R527) -/

/-- CLK_GATE: the domains that the state of the module gates. The domain of the stands or of the engines counts as gated
where each of its units is. -/
def State.clocksOff (s : State) : Nat :=
  let low := s.pmg.low.any fun (l : LowPower) => l.reached
  let nvm := s.pmg.low.any fun (l : LowPower) => l.reached || l.repaired
  let off (d : Nat) (b : Bool) : Nat := if b then 2 ^ d else 0
  off 0 ([0, 1, 2, 3].all fun k => s.rd (PWR_UNIT_UNIT k) != 0) + off 1 ([4, 5, 6, 7].all fun u => s.rd (PWR_UNIT_UNIT u) != 0) +
    off 3 low + ([5, 6, 7, 8].map fun d => off d (!s.linkUp (d - 5))).sum + off 10 nvm + off 11 low + off 12 low

/-! ### Copies of global time (R516) -/

/-- TIME_REALIGN (R516): every copy of global time is set to Canopy's count, unless that would make it run backwards
while the count is only being slewed. -/
def execTimeRealign (t : Nat) (s : State) : Host.Outcome State Fault Refusal :=
  let s := s.begin t
  .next (if s.pw.phase == .running then
    { s with pmg := { s.pmg with copies := if s.pmg.stepDue then t else max t s.pmg.copies, stepDue := false } } else s)

end Sys2Proof.Machine
end

