-- ==== Sys2Proof/Machine/Reset.lean ====
section
/-!
DEFINITION. Power-on and module resets (R53, R68, R103 to R105, R517 to R523): the start sequence begins, Coppice forms
S0 for the boot ROM, the clock monitor, a loss of the reference.
-/

namespace Sys2Proof.Machine

/-! ### Coppice's part of a start (R103 to R105) -/

/-- The cores not retired, lowest first. -/
def State.goodCores (s : State) : List Nat := cores.filter fun c => !s.coreRetired c

/-- The spares left once every stand has its cores. -/
def State.countSpares (s : State) : State :=
  let n := (cores.filter s.isSpare).length
  ({ s with cop := { s.cop with sparesAtStart := n } } : State).wr SYS_HWINFO_SPARES n

/-- At a start Coppice applies the repair map and log, gives each stand its cores and forms S0, on which the boot ROM
runs; with fewer than two cores the module is core-exhausted. No spare has passed BIST since it became one. -/
def State.startCores (s : State) : State :=
  let s := s.applyRepairs
  let s : State := { s with cop := { s.cop with
    proven := 0, testing := 0, laneTest := 0, fenced := 0, laneFenced := 0, provenOther := 0 } }
  let cs := s.goodCores
  let s := (s.wr SYS_HWINFO_ISSUE hwIssue).wr SYS_HWINFO_CORES cs.length
  let s := s.wr SYS_HWINFO_FRET (popCount 15 s.cop.fuses.cores)
  if cs.length < 2 then
    ({ s with pw := { s.pw with exhausted := true } }.wr SYS_HWINFO_SPARES cs.length).syncCores
  else
    let s := [1, 2, 3].foldl (fun s k => s.form k modeOff ((cs.drop (3 * k)).take 3) 0) (s.form 0 modeTriad (cs.take 3) 0)
    (s.setStand 0 { s.stand 0 with formed := false }).syncCores.countSpares

/-! ### Power-on (R53, R90) -/

/-- Whether feed n has been good for 20 ms. -/
def State.feedReady (s : State) (n : Nat) : Bool := (s.feed n).good && decide (s.goodStamp n + 20000000 ≤ s.now)

/-- A start begins at the reference lock. -/
def State.beginLock (s : State) (keyPhase : Bool) (vstore : Nat) : State :=
  let z := s.newStart keyPhase
  ((({ s with pw := { s.pw with phase := .locking, start := z } } : State).wr PWR_STAT_HIBEXIT 0).measureDue
    vstore).showContacts

/-- POWER_ON (R53): the start sequence begins with the reference and PLL lock; `vstore` is the store voltage in 10 mV.
-/
def State.powerOn (s : State) (vstore : Nat) : State :=
  if s.pw.phase == .off && (s.feedReady 0 || s.feedReady 1) then
    (((s.wr SYS_RSTCAUSE_LETTER 0).wr SYS_RSTCAUSE_CAUSE 0).wr SYS_RSTCAUSE_STAND 0).beginLock false vstore
  else s

def execPowerOn (vstore t : Nat) (s : State) : Host.Outcome State Fault Refusal := .next ((s.begin t).powerOn vstore)

/-- PLL_LOCK (R90): Coppice forms S0, the boot ROM starts, Ranger's key phase begins. -/
def State.pllLock (s : State) : State :=
  if s.pw.phase == .locking then ({ s with pw := { s.pw with phase := .running } } : State).startCores.slotsAtStart else s

def execPllLock (t : Nat) (s : State) : Host.Outcome State Fault Refusal := .next (s.begin t).pllLock

/-! ### Module resets (R518 to R523) -/

/-- A group as a module reset leaves it: its status link and supply are as they are. -/
def groupKept (x : Group) : Group := { groupInit with aboveWarn := x.aboveWarn, aboveRec := x.aboveRec, frame := x.frame }

/-- An engine as a module reset leaves it: both retain copies. -/
def engineKept (x : Engine) : Engine := { engineInit with retain := x.retain, nand := x.nand }

/-- A host buffer as a module reset leaves it: memory contents and stamp stay, AGE counts from the reset (R18, R346). -/
def hbufKept (x : HBuf) : HBuf := { x with seen := false }

/-- The links stay up through a module reset, unidentified; they count as links that came up (R350, R91). -/
def linkKept (l : PortLink) : PortLink := { portLinkInit with used := l.used, downAt := l.downAt }

/-- Everything of the processor die that a module reset reaches, outside registers (R519, R523). -/
def State.dieReset (s : State) : State :=
  let q := s.rcd.queue.length
  { s with
    rcd := { s.rcd with read := none, resetting := false, early := q, own := [] }
    std := []
    lko := lookoutInit
    dbg := .none
    cop := { s.cop with
      proven := 0, testing := 0, laneTest := 0, fenced := 0, laneFenced := 0, provenOther := 0
      run := none, waiting := none, depot := none, due := []
      planeDead := 0, safeDead := false, sparesAtStart := 0 }
    io := { fieldInit with
      permits := s.io.permits
      tempSeen := s.io.tempSeen
      groups := (List.range 12).foldl (fun m g => tblSet groupInit g (groupKept (s.group g)) m) [] }
    eng := [0, 1, 2, 3].foldl (fun m e => tblSet engineInit e (engineKept (s.engine e)) m) []
    key := { keyInit with mem := s.key.mem, latched := s.key.latched }
    cnp := { canopyInit with
      ports := s.cnp.ports
      resid := s.cnp.resid
      hbufs := (List.range 64).foldl (fun m h => tblSet hbufInit h (hbufKept (s.hbuf h)) m) [] }
    fab := { fabricInit with
      heldTrigger := if s.rd CNP_PORTSTAT_LINKUP != 0 then some s.now else none
      links := [0, 1, 2, 3].foldl (fun m p => tblSet portLinkInit p (linkKept (s.portLink p)) m) [] }
    cvu := cvuInit
    rwy := rootwayInit
    ust := understoryInit
    fwu := { s.fwu with run := none, pause := none, seed := none, booted := none, served := 0 }
    pmg := { s.pmg with low := none, idleAt := [] } }

/-- The processor die is reset: command lanes fall, every field with the letter M takes its reset value, what the key
gave is gone, links stay up. -/
def State.resetDie (s : State) : State :=
  let up := s.rd CNP_PORTSTAT_LINKUP
  let fills := s.ecc.fill.isSome
  let s := s.confTorn.lanesFall.eccReset.dieReset
  let s := (s.restore (·.m) fun _ => true).clearKey.fillAborted fills
  let s := ((s.wr CNP_PORTSTAT_LINKUP up).wr REC_STAT_STATE 0).wr PWR_STAT_STATE 0
  let s := s.wr CNP_SYNC_STAT_STATE syncListen
  let s := (List.range 8).foldl (fun s u => s.wr (PWR_UNIT_UNIT u) 0) s
  s.wr REC_QFILL_N s.rcd.queue.length

/-- The counter of module resets of a cause. -/
def rstCounter (cause : Nat) : Option Fld :=
  match cause with
  | 1 => some SYS_RSTCNT_LOOKOUT
  | 2 => some SYS_RSTCNT_SOFTWARE
  | 3 => some SYS_RSTCNT_DOUBLE
  | 4 => some SYS_RSTCNT_CLOCK
  | _ => none

/-- A start after a module reset: Ranger's key phase does not run, and no link is new. -/
def State.moduleStart (s : State) : State :=
  let z := s.newStart true
  let s := (({ s with pw := { s.pw with start := z } } : State).wr PWR_STAT_HIBEXIT 0).measureDue (s.rd PWR_HOLDUP_STAT_VSTORE)
  s.showContacts.startCores.slotsAtStart

/-- A module reset (R518, R519) with a cause of SYS_RSTCAUSE and, for a software reset, its writer. In flush mode
there is none: flush runs to the park (R63). -/
def State.moduleReset (s : State) (cause stand : Nat) : State :=
  if s.pw.phase == .running then
    let s := s.resetDie
    let s := ((s.wr SYS_RSTCAUSE_LETTER 1).wr SYS_RSTCAUSE_CAUSE cause).wr SYS_RSTCAUSE_STAND stand
    let s := match rstCounter cause with | some f => s.bump f | none => s
    s.moduleStart
  else s

/-- Two stands FAILED at the same time (R121). -/
def State.afterFailure (s : State) : State := if s.doubleFailed then s.moduleReset 3 0 else s

/-- SOFTWARE_RESET (R518): stand k writes the token to SYS_RST, lane A where it is in SPLIT (R110). -/
def State.softwareReset (s : State) (k : Nat) : State :=
  if s.deviceOpen k 0x10000000 && s.permits k 0 then (s.moduleReset 2 k).answer .done else s.answer .storeFault

def execSoftwareReset (k : Fin 4) (t : Nat) (s : State) : Host.Outcome State Fault Refusal :=
  let s := s.begin t
  .next (if s.hartRuns k then s.softwareReset k else s)

/-! ### The clock monitor and the reference (R513, R517, R527) -/

/-- What a deviation of a domain does: its bit of CLK_MON and source 234; a receive clock takes its port's link down. -/
def State.deviates (s : State) (d : Nat) : State :=
  let s := (s.wrBit CLK_MON_DEV d true).raise 234
  if 5 ≤ d ∧ d ≤ 8 then s.linkWentDown (d - 5) else s

/-- CLOCK_MONITOR_WINDOW (R517): the domains found beyond 1 %, and the frequencies measured (d = 13 in Hz). -/
def State.monitorWindow (s : State) (dev : Nat) (khz : List Nat) : State :=
  if s.pw.phase == .running then
    let off := s.clocksOff
    let bad := (List.range 13).filter fun d => bitAt dev d && !bitAt off d
    let s := bad.foldl State.deviates s
    let ok := (List.range 14).foldl (fun m d => setBit m d (!bitAt off d && !bad.contains d)) 0
    let s := (s.wr CLK_STAT_OK ok).wr CLK_GATE_OFF off
    let s := (List.range 14).foldl (fun s d => s.wr (CLK_MEASd_KHZ d) (sat 24 (khz.getD d 0))) s
    if bad.any fun d => d < 5 || 8 < d then s.moduleReset 4 0 else s
  else s

def execClockMonitorWindow (dev : BitVec 13) (khz : List Nat) (t : Nat) (s : State) : Host.Outcome State Fault Refusal :=
  .next ((s.begin t).monitorWindow dev.toNat khz)

/-- REFERENCE_LOSS (R517): the processor die is held in reset. -/
def State.referenceLoss (s : State) : State :=
  if s.pw.phase == .running || s.pw.phase == .locking then
    let s := s.resetDie
    { s with pw := { s.pw with phase := .refLost } }
  else s

def execReferenceLoss (t : Nat) (s : State) : Host.Outcome State Fault Refusal := .next (s.begin t).referenceLoss

/-- REFERENCE_RETURN (R517): the start that follows reports REFLOSS. -/
def State.referenceReturn (s : State) : State :=
  if s.pw.phase == .refLost then
    (((s.wr SYS_RSTCAUSE_LETTER 1).wr SYS_RSTCAUSE_CAUSE 6).wr SYS_RSTCAUSE_STAND 0).beginLock true (s.rd PWR_HOLDUP_STAT_VSTORE)
  else s

def execReferenceReturn (t : Nat) (s : State) : Host.Outcome State Fault Refusal := .next (s.begin t).referenceReturn

end Sys2Proof.Machine
end

