-- ==== Sys2Proof/Machine/Start.lean ====
section
/-!
DEFINITION. The start and the vehicle key (R68 to R100): reading and judging the key, key apply, the load of stand
firmware, contacts, the confirmation and the history record.
-/

namespace Sys2Proof.Machine

/-! ### Register loads (R79, R80) -/

/-- The blocks a register-load section reaches, as numbers of 1 MiB blocks: IOG_, REC_, PWR_, or SYS_, STD_ and BIST_.
-/
def destBlocks (type : Nat) : List Nat :=
  match type with
  | 2 => [6]
  | 7 => [12]
  | 8 => [1]
  | 9 => [0, 2, 15]
  | _ => []

/-- Whether the register at an address is written from the key. -/
def klAddr (a : Nat) : Bool :=
  match regFields a with
  | some fs => !fs.isEmpty && fs.all fun f => f.acc == .kl
  | none => false

/-- Whether an address lies in a section's blocks. -/
def destOk (type a : Nat) : Bool := inRange 0x10000000 0x20000000 a && (destBlocks type).contains (a / 0x100000 % 0x100)

/-- The entries of a register-load section. -/
def loadEntries (d : List Byte) : List (Nat × Nat) :=
  (List.range (d.length / 8)).map fun i => (leAt (8 * i) 4 d, leAt (8 * i + 4) 4 d)

/-- Whether a register-load section keeps R80. -/
def loadOk (type : Nat) (d : List Byte) : Bool :=
  d.length % 8 == 0 && (loadEntries d).all fun x => destOk type x.1 && klAddr x.1

/-- Apply a register-load section, entries in order. -/
def State.applyLoad (s : State) (d : List Byte) : State := (loadEntries d).foldl (fun s x => s.putWord x.1 x.2) s

/-- The register-load sections of a payload. -/
def loadSections (p : List Byte) : List Section := (directory p).filter fun x => [2, 7, 8, 9].contains x.type

/-- KL fields whose default is not 0 take their default. -/
def State.klDefaults (s : State) : State :=
  let s := ((s.wr STD_OPT_INITMODE1 2).wr STD_OPT_INITMODE2 2).wr STD_OPT_INITMODE3 2
  let s := ((s.wr STD_LKO_CFG_MAX 100).wr REC_LAYOUT_HWN 0x100000).wr PWR_POL_GUARD 20
  let s := s.wr PWR_WAKE_WAKEPRIO 7
  let s := (List.range 12).foldl (fun s g => (s.wr (IOG_Gg_CFG_RDELAY g) 10).wr (IOG_Gg_CFG_RCOUNT g) 3) s
  (List.range 192).foldl (fun s n =>
    let s := (s.wr (IOG_CHn_FILT_T n) 100).wr (IOG_CHn_FILT_SETTLE n) 10
    let s := (s.wr (IOG_CHn_PULSE_LEN n) 40).wr (IOG_CHn_PULSE_PERIOD n) 100
    s.wr (IOG_CHn_SUBST_BITSUB n) 1) s

/-! ### The check of the channel configuration (R244) -/

/-- Whether channel n keeps R244. -/
def State.chanConfigOk (s : State) (n : Nat) : Bool :=
  let mode := s.chMode n
  let quad := s.flag (IOG_CHn_CFG_QUAD n)
  let perm := s.rd (IOG_CHn_CFG_PPERM n)
  decide (mode ≤ 4) && decide (s.rd (IOG_CHn_CFG_EDGE n) ≤ 2) && (perm == 0 || decide (4 ≤ perm)) &&
    decide (s.rd (IOG_CHn_SUBST_BITSUB n) ≤ 2) &&
    (!(mode == modeCounter || mode == modeFrequency) || decide (n % 16 ≤ 3)) &&
    (!quad || (mode == modeCounter && (n % 16 == 0 || n % 16 == 2) && s.chMode (n + 1) == modeCounter)) &&
    (!(mode == modeSafe) || (s.rd (IOG_CHn_CFG_FALLBACK n) == 0 && s.flag (IOG_CHn_CFG_PULSE n))) &&
    (perm == 0 || (mode == modeSafe && s.bit STD_OPT_SAFEROLE (perm - 4))) &&
    within 1 65535 (s.rd (IOG_CHn_FILT_T n)) && within 5 1000 (s.rd (IOG_CHn_FILT_SETTLE n)) &&
    within 20 100 (s.rd (IOG_CHn_PULSE_LEN n)) && within 50 6000 (s.rd (IOG_CHn_PULSE_PERIOD n))

/-- Whether group g keeps R244. -/
def State.groupConfigOk (s : State) (g : Nat) : Bool :=
  within 1 100 (s.rd (IOG_Gg_CFG_RDELAY g)) && within 1 15 (s.rd (IOG_Gg_CFG_RCOUNT g)) &&
    (!((groupChans g).any s.isOutput) || s.flag (IOG_Gg_CFG_OWNEN g))

def State.configOk (s : State) : Bool := (List.range 192).all s.chanConfigOk && (List.range 12).all s.groupConfigOk

/-! ### The vehicle identity (R81) -/

/-- NAME is ASCII, zero-padded. -/
def nameOk (d : List Byte) : Bool :=
  let n := d.takeWhile (· != 0)
  n.all (fun b => b.toNat < 128) && allBytes 0 (d.drop n.length)

def identityOk (d : List Byte) : Bool :=
  d.length == 32 && decide (1 ≤ leAt 0 1 d) && leAt 1 1 d == 0 && decide (1 ≤ leAt 2 2 d) && within 1 16 (leAt 4 1 d) &&
    within 1 4 (leAt 5 1 d) && decide (leAt 6 1 d < 4) && leAt 7 1 d == 0 && nameOk (slice 8 24 d)

def State.applyIdentity (s : State) (d : List Byte) : State :=
  let s := (s.wr KEY_VEH_ID0_DOMAIN (leAt 0 1 d)).wr KEY_VEH_ID0_CONSIST (leAt 2 2 d)
  let s := (s.wr KEY_VEH_ID1_CAR (leAt 4 1 d)).wr KEY_VEH_ID1_MODULE (leAt 5 1 d)
  (s.wrB KEY_VEH_ID1_CAB (bitAt (leAt 6 1 d) 0)).wrB KEY_VEH_ID1_PLATFORM (bitAt (leAt 6 1 d) 1)

/-! ### The processor's judgement of the key (R84 to R87) -/

/-- How the reading of a key ends: STATE with DETAIL, SECTION and FAREA of KEY_FAULT. STATE 0 is an area chosen that
agrees with Ranger, its sections still to be applied. -/
structure KeyEnd where
  state : Nat
  detail : Nat
  sect : Nat
  area : Nat
  deriving DecidableEq, Repr

/-- The sections of a payload of which the module needs one and which are missing, lowest type first. -/
def missingSection (p : List Byte) : Option Nat := [1, 2, 3, 6].find? fun t => (findSection p t).isNone

/-- The checks made on the chosen area alone (R86, R87) before its sections are applied. Where several fail, FOREIGN
comes before a missing section, and that before DISAGREE (DESIGN CHOICE, log entry 95). -/
def State.judgeArea (s : State) (a : Nat) (p : List Byte) : KeyEnd :=
  if leAt 0x10 4 p ≠ 0x00070192 then ⟨5, 6, 0, a⟩
  else if hwIssue < leAt 0x14 1 p then ⟨5, 7, 0, a⟩
  else if leAt 5 1 p ≠ 1 then ⟨5, 8, 0, a⟩
  else
    match (directory p).find? fun x => x.required && !within 1 9 x.type with
    | some x => ⟨5, 9, x.type % 256, a⟩
    | none =>
      match missingSection p with
      | some t => ⟨6, 0xA, t, a⟩
      | none =>
        if s.rng.area ≠ a then ⟨7, 0xE, 6, a⟩
        else if (findSection p 6).any fun x => x.crc != s.rng.pcrc then ⟨7, 0xF, 6, a⟩
        else ⟨0, 0, 0, a⟩

/-- The judgement of a key whose descriptor was read. -/
def State.judgeKey (s : State) (m : KeyMem) : KeyEnd :=
  if !keyMagicOk m then ⟨3, 0, 0, 0⟩
  else if !keyDescOk m then ⟨4, 1, 0, 0⟩
  else
    match keyChoice hwIssue m with
    | none => let w := keyWorst hwIssue m; ⟨4, w.1.detail, w.1.sect, w.2⟩
    | some a => s.judgeArea a (keyArea m a).payload

/-- The start ends in a state of R87, with KEY_FAULT. -/
def State.keyEnds (s : State) (e : KeyEnd) : State :=
  let s := (s.wr KEY_STAT_STATE e.state).wr KEY_FAULT_DETAIL e.detail
  let s := (s.wr KEY_FAULT_SECTION e.sect).wr KEY_FAULT_FAREA (if e.detail = 0 then 0 else e.area)
  if e.state = 1 then s.wr KEY_STAT_AREA e.area else s

/-- The journals as KEY_STAT and KEY_JRN_CNT show them: as read at this start, with what the module has written (R69).
-/
def State.showJournals (s : State) (comm hist : List (List Byte)) : State :=
  let s : State := { s with key := { s.key with comm := comm, hist := hist } }
  let s := (s.wrB KEY_STAT_CJFULL (firstBlank comm).isNone).wrB KEY_STAT_HJFULL (firstBlank hist).isNone
  (s.wr KEY_JRN_CNT_CONF (slotsUsed comm)).wr KEY_JRN_CNT_HIST (slotsUsed hist)

/-- KEY_READ_DONE (R84): the key read and judged. `fault` is 1 where the SFDP read fails or the readback of the
descriptor differs, 2 where the key supply current limit trips. -/
def State.keyReadDone (s : State) (fault : Nat) : State :=
  let z := s.pw.start
  if s.pw.phase != .running || s.pw.exhausted || !z.keyPhase || z.keyRead then s
  else
    let s : State := { s with pw := { s.pw with start := { z with keyRead := true } } }
    match s.key.mem with
    | none => s.keyEnds ⟨2, 0, 0, 0⟩
    | some m =>
      if fault = 1 then s.keyEnds ⟨8, 0x10, 0, 0⟩
      else if fault = 2 then s.keyEnds ⟨8, 0x11, 0, 0⟩
      else
        let s := s.showJournals m.comm m.hist
        let e := s.judgeKey m
        let s : State := { s with key := { s.key with
          serial := keySerial m, last := lastValid 2 m.hist, area := e.area
          image := if e.state = 0 then some (keyArea m e.area) else none } }
        if e.state = 0 then s else s.keyEnds e

def execKeyReadDone (fault : Fin 3) (t : Nat) (s : State) : Host.Outcome State Fault Refusal :=
  .next ((s.begin t).keyReadDone fault)

/-! ### Key apply (R79, R88, R89) -/

/-- Both banks of an engine are written in whole rows (R439), bank 0 with the key's program image (R161); its key
program, where there is one, passes the admission checker or is refused (R89, R207), and an engine that loads starts,
warm where it can. -/
def State.applyProgram (s : State) (e : Nat) (prog map : Option (List Byte)) (bad : Bool) : State :=
  let s := (s.putBank e 0 []).putBank e 1 []
  match prog with
  | none => s
  | some d =>
    let s := (s.wr (LE_Ee_CYC_BUDGET e) (leAt 0x10 4 d)).putWord (0x10301050 + 0x1000 * e) (leAt 0x28 4 d)
    let a := admitImage (some d) (s.rd (LE_Ee_CYC_BUDGET e)) (s.word (0x10301050 + 0x1000 * e)) none map
    let s := ((s.putBank e 0 a.words).wr (LE_Ee_SH_CLK e) a.clk).wr (LE_Ee_SH_BOUND e) a.bound
    let s := s.admReport e a.reason a.index
    match a.prog with
    | none => s
    | some p =>
      let s := s.setEngine e { s.engine e with prog := some p, shadow := none }
      let s := (s.wr (LE_Ee_STAT_BANK e) 0).wr (LE_Ee_ADM_BOUND e) p.bound
      let s := ((s.wr (LE_Ee_RMAPCRC e) (progRmapcrc p)).wr (LE_Ee_PROGID e) p.progid).wr (LE_Ee_PROGVER e) p.progver
      s.leRestart e true 0 bad

/-- The section of a type that names engine e. -/
def engineSection (p : List Byte) (type e : Nat) : Option (List Byte) :=
  ((directory p).find? fun x => x.type == type && x.engine == e).map fun x => x.data p

/-- The engines that a section of a type names, as a mask. -/
def engineMask (p : List Byte) (type : Nat) : Nat :=
  [0, 1, 2, 3].foldl (fun m e => setBit m e (engineSection p type e).isSome) 0

/-- The data of the first section of a type. -/
def sectionData (p : List Byte) (type : Nat) : List Byte := ((findSection p type).map fun x => x.data p).getD []

/-- KEY_SECT.TYPES: every section present in an image that is applied, also one whose program, policy or layout is
refused in its turn (DESIGN CHOICE, log entry 96). -/
def typesMask (p : List Byte) : Nat :=
  (List.range 9).foldl (fun m t => setBit m t (findSection p (t + 1)).isSome) 0

/-- The KEY_ registers, the register loads, the programs. -/
def State.applySections (s : State) (serial : Nat) (p : List Byte) (bad : Nat) : State :=
  let s := ((s.wr KEY_GEN (keyGen p)).wr KEY_PAYLEN (keyPaylen p)).wr64 KEY_SERIAL_LO KEY_SERIAL_HI serial
  let s := (s.wr KEY_SECT_TYPES (typesMask p)).wr KEY_SECT_PROG (engineMask p 4)
  let s := (s.wr KEY_SECT_RMAP (engineMask p 5)).applyIdentity (sectionData p 1)
  let s := (loadSections p).foldl (fun s x => s.applyLoad (x.data p)) s
  [0, 1, 2, 3].foldl (fun s e => s.applyProgram e (engineSection p 4 e) (engineSection p 5 e) (bitAt bad e)) s

/-- The engines that are loaded. -/
def State.loadedEngines (s : State) : Nat := [0, 1, 2, 3].foldl (fun m e => setBit m e (s.engine e).prog.isSome) 0

/-- The checks that are made when the sections are applied (R80, R81, R244, R318), on the state with them applied. -/
def State.applyFail (s : State) (p : List Byte) : Option (Nat × Nat) :=
  match (loadSections p).find? fun x => !loadOk x.type (x.data p) with
  | some x => some (0xB, x.type)
  | none =>
    if !s.configOk then some (0xB, 2)
    else if !identityOk (sectionData p 1) then some (0xC, 1)
    else if !tableOk (leAt 5 1 (sectionData p 1) - 1 + 4 * (leAt 4 1 (sectionData p 1) - 1)) s.loadedEngines (sectionData p 3)
      then some (0xD, 3)
    else none

/-- R509: whether a policy is refused; the codes 0b11 are not defined and refused too. -/
def State.policyBad (s : State) : Bool :=
  let en := s.rd PWR_WAKE_EN
  let mm := s.rd PWR_POL_MAXMOD
  let e := s.entry (s.rd PWR_WAKE_BLZIDX)
  (mm == 2 && (bitAt en 2 || bitAt en 3 || bitAt en 4 || bitAt en 5)) ||
    (bitAt en 3 && !(decide (s.rd PWR_WAKE_BLZIDX < s.blazeCount) && e.role == roleRx)) ||
    (mm != 0 && en == 0) || mm == 3 || s.rd PWR_POL_MAXUNIT == 3

/-- The policy is judged: a refused one gives way to Run only (R509, R35). -/
def State.judgePolicy (s : State) : State :=
  if s.policyBad then
    let s := ((s.wr PWR_POL_MAXUNIT 0).wr PWR_POL_MAXMOD 0).wr PWR_POL_NAPENG 0
    ((s.wr PWR_WAKE_EN 0).wr PWR_STAT_POLERR 1).record 2 1 0xFF 0xFFFF (some 0x10100000) none
  else s.wr PWR_STAT_POLERR 0

/-- The layout is judged (R495), and Heartwood closes where it already holds HWN records (R484). -/
def State.judgeLayout (s : State) : State :=
  let n := s.rd REC_LAYOUT_HWN
  let s := if 0x2000000 < n then
      ((s.wr REC_LAYOUT_HWN 0x100000).wr REC_STAT_LAYERR 1).selfRecord 0x06 2 (leBytes 4 n ++ leBytes 4 0)
    else s.wr REC_STAT_LAYERR 0
  if s.loaded && s.rcd.heartOpen && !s.rcd.heartClosed && decide (s.rd REC_LAYOUT_HWN ≤ s.rcd.heart.length) then
    let s : State := { s with rcd := { s.rcd with heartClosed := true } }
    ((s.wr REC_HW_CNT_CLOSED 1).selfRecord 0x08 8 (leBytes 4 s.rcd.heart.length ++ leBytes 4 0)).raise 211
  else s

/-- A start-up run begins where the module options ask for it (R459). -/
def State.startupRun (s : State) : State :=
  let l := s.flag BIST_OPT_SLOGIC
  let m := s.flag BIST_OPT_SMEM
  let cs := cores.foldl (fun (m : Nat) c => setBit m c (!s.coreRetired c)) 0
  let ls := (List.range 16).foldl (fun (m : Nat) i => setBit m (16 + i) (!s.leLaneRetired (i / 4) (i % 4))) 0
  if l || m then
    s.runAsked (bistNew .startup (if l then cs + ls else 0) ((if l then 0x3FF else 0) + (if m then 0x1F0000 else 0)))
  else s

/-- What key apply does in every state: the scanner starts, the start moves on. -/
def State.applyEnd (s : State) : State :=
  let s : State := { s with pw := { s.pw with start := { s.pw.start with applied := true } } }
  s.judgePolicy.judgeLayout.fieldStart.startupRun

/-- The keyless service state (R88): defaults, no program, no blaze table. -/
def State.applyKeyless (s : State) : State :=
  ([0, 1, 2, 3].foldl (fun s e => s.applyProgram e none none false) s.klDefaults).applyEnd

/-- KEY_APPLY_DONE (R90): bit e of `bad` says that the retain copy of engine e could not be read. -/
def State.keyApplyDone (s : State) (bad : Nat) : State :=
  let z := s.pw.start
  if s.pw.phase != .running || s.pw.exhausted || !z.keyRead || z.applied then s
  else
    match s.key.image, s.rd KEY_STAT_STATE with
    | some a, 0 =>
      let p := a.payload
      let k := s.klDefaults.applySections s.key.serial p bad
      match k.applyFail p with
      | some (detail, sect) =>
        let s := s.keyEnds ⟨6, detail, sect, s.key.area⟩
        let s := if detail = 0xD then s.record 2 2 0xFF 0xFFFF (some 0x10E00000) (some 0x10E00004) else s
        ({ s with key := { s.key with image := none } } : State).applyKeyless
      | none => ((k.loadTable (sectionData p 3)).keyEnds ⟨1, 0, 0, k.key.area⟩).applyEnd
    | _, _ => s.applyKeyless

def execKeyApplyDone (bad : BitVec 4) (t : Nat) (s : State) : Host.Outcome State Fault Refusal :=
  .next ((s.begin t).keyApplyDone bad.toNat)

/-! ### The load of stand firmware (R90, R439, R534, R543) -/

/-- Whether the start's cause lets a trial boot (R534). -/
def State.trialMay (s : State) : Bool := !([1, 3, 4].contains (s.rd SYS_RSTCAUSE_CAUSE) && s.flag SYS_RSTCAUSE_LETTER)

/-- The slot in a state, lowest first. -/
def State.slotIn (s : State) (st : Nat) : Option Nat := [0, 1].find? fun k => (s.fwSlot k).state == st

/-- The slot that the rule of R534 takes. -/
def State.slotChoice (s : State) : Option Nat :=
  match s.slotIn slTrial with
  | some k => if s.trialMay && decide ((s.fwSlot k).trials < 3) then some k else (s.slotIn slActive).or (s.slotIn slFallback)
  | none => (s.slotIn slActive).or (s.slotIn slFallback)

/-- A trial that is passed over becomes FAILED. -/
def State.trialFails (s : State) : State :=
  match s.slotIn slTrial with
  | some k => (s.slotTo k slFailed).raise 228
  | none => s

/-- The slots tried in turn: the slot booted with its plaintext, or none. -/
def State.bootSlot (s : State) : Nat → State × Option (Nat × List Byte)
  | 0 => (s, none)
  | n + 1 =>
    match s.slotChoice with
    | none => (s.trialFails, none)
    | some k =>
      let x := s.fwSlot k
      let s := if x.state = slTrial then s.setSlot k { x with trials := x.trials + 1 } else s.trialFails
      match s.slotCheck k with
      | (0, p) => (if x.state = slTrial then s else s.slotTo k slActive, some (k, p))
      | _ => ((s.slotTo k slBad).raise 228).bootSlot n

/-- The boot ROM's fill of shared SRAM offsets 0 to 0x3FFFF (R439): the rows are written, with content that the spec
leaves open; and the L2 tags are invalid, so what its rows held is gone. -/
def State.bootFill (s : State) : State :=
  let s : State := { s with mem := s.mem.filter fun x => !inRange sramBase (sramBase + 0x40000) x.1 }
  let s := s.rowsWritten 2 0 8192
  ({ s with ecc := { s.ecc with err := tblKeep (fun k => !inRange (rowKey 3 0) (rowKey 4 0) k) s.ecc.err } } : State).arrDrop
    (rowKey 3 0) (rowKey 4 0)

/-- The stands form: S0 goes on from the boot ROM, as a pair where the self-test has left it two cores, the others
take their initial modes (R103, R104, R109). Where there are not three cores for each, an alarm record says so (R468).
-/
def State.formStands (s : State) (entry : Nat) : State :=
  let x := s.stand 0
  let l0 := (List.range 3).map (s.laneCore 0) |>.filter (· < 15)
  let s := if l0.length = 3 then s.setStand 0 { x with formed := true, entry := some entry } else s.form 0 modeTriad l0 entry
  let s := [1, 2, 3].foldl (fun s k => s.form k (s.initMode k) ((s.formCores k).take 3) entry) s
  let s := if s.goodCores.length < 12 then s.poolEmpty else s
  let s := [0, 1, 2, 3].foldl State.syncSafe s.syncCores.countSpares
  [0, 1, 2, 3].foldl State.settleStand s

/-- Seedling begins (R543): nothing is booted. -/
def State.enterSeedling (s : State) : State :=
  let z : Seed := { src := none, parts := [], header := none, slot := 0, get := none, frags := [] }
  let s : State := { s with fwu := { s.fwu with seed := some z, toSeed := false, booted := none } }
  (s.wr FWU_STAT_SEED 1).formStands 0

/-- Stand firmware starts from a slot. -/
def State.firmwareStarts (s : State) (k : Nat) (p : List Byte) : State :=
  let s := (s.loadRegion k p).bootFill
  let s : State := { s with fwu := { s.fwu with booted := some k } }
  let s := (s.wr FWU_STAT_SLOT k).wrB FWU_STAT_TRIAL ((s.fwSlot k).state == slTrial)
  let a := s.entryOf k
  ([0, 1, 2, 3].foldl (fun s i => s.wr64 (STD_Sk_STARTPC_LO i) (STD_Sk_STARTPC_HI i) a) s).formStands a

/-- FIRMWARE_LOAD_DONE (R534). -/
def State.firmwareLoad (s : State) : State :=
  let z := s.pw.start
  if s.pw.phase != .running || !z.applied || z.firmware || s.startupAwaited then s
  else
    let s : State := { s with pw := { s.pw with start := { z with firmware := true } } }
    if s.fwu.toSeed then s.enterSeedling
    else
      match s.bootSlot 2 with
      | (s, some (k, p)) => s.firmwareStarts k p
      | (s, none) => s.enterSeedling

def execFirmwareLoadDone (t : Nat) (s : State) : Host.Outcome State Fault Refusal := .next (s.begin t).firmwareLoad

/-! ### A train of one node (R93) -/

/-- ALONE_TIMEOUT: no Canopy port has link 5.0 s after the start. -/
def State.aloneTimeout (s : State) : State :=
  if s.pw.phase == .running && s.rd CNP_PORTSTAT_LINKUP == 0 && decide (s.pw.start.at_ + 5000000000 ≤ s.now) &&
      !s.fab.started then
    ({ s with cnp := { s.cnp with alone := true } } : State).setSync syncAlone
  else s

def execAloneTimeout (t : Nat) (s : State) : Host.Outcome State Fault Refusal := .next (s.begin t).aloneTimeout

/-! ### Contacts after the start (R73) -/

/-- Whether the processor die shows the contacts: from the start on, but for the reset of a lost reference. -/
def State.keyShown (s : State) : Bool := s.pw.phase == .locking || s.pw.phase == .running || s.pw.phase == .flush

/-- A contact that closes is reflected and recorded. -/
def State.contactClosed (s : State) : State := s.record 4 2 0xFF 0xFFFF (some 0x10E00000) (some 0x10E00004)

/-- KEY_CONF_STAT sets FAIL with a reason. -/
def State.confFail (s : State) (err : Nat) : State := ((s.wr KEY_CONF_STAT_FAIL 1).wr KEY_CONF_STAT_ERR err).raise 230

/-- A confirmation that is being written fails as the key is removed (R83, R100). -/
def State.confBroken (s : State) : State :=
  if s.key.conf.isSome then (({ s with key := { s.key with conf := none } } : State).wr KEY_CONF_STAT_BUSY 0).confFail 5 else s

/-- KEY_PRESENT_CHANGE: the key now seated, none where X2.9 reads open. What was read from the last one stays (R69). -/
def State.keyPresent (s : State) (m : Option KeyMem) : State :=
  let was := s.key.mem.isSome
  let s : State := { s with key := { s.key with mem := m } }
  if s.keyShown && was != m.isSome then
    let s := s.wrB KEY_STAT_PRESENT m.isSome
    if m.isSome then s.contactClosed else s.confBroken.contactOpen KEY_STAT_REMOVED
  else s

def execKeyPresentChange (m : Option KeyMem) (t : Nat) (s : State) : Host.Outcome State Fault Refusal :=
  .next ((s.begin t).keyPresent m)

/-- KEY_LATCH_CHANGE. -/
def State.keyLatch (s : State) (closed : Bool) : State :=
  let was := s.key.latched
  let s : State := { s with key := { s.key with latched := closed } }
  if s.keyShown && was != closed then
    let s := s.wrB KEY_STAT_LATCH closed
    if closed then s.contactClosed else s.contactOpen KEY_STAT_UNLATCHED
  else s

def execKeyLatchChange (closed : Bool) (t : Nat) (s : State) : Host.Outcome State Fault Refusal :=
  .next ((s.begin t).keyLatch closed)

/-! ### The commissioning confirmation (R82, R83, R97) -/

/-- The confirmation record for a slot. -/
def State.confRecord (s : State) (slot : Nat) : List Byte :=
  sealRecord (leBytes 2 1 ++ leBytes 2 0 ++ leBytes 4 slot ++ leBytes 8 s.now ++ leBytes 4 (s.rd KEY_CONF_CRC) ++
    leBytes 4 (s.rd KEY_GEN) ++ (List.range 8).flatMap fun i => leBytes 4 (s.rd (KEY_CONF_IDi i)))

/-- CONFIRMATION_WRITE: the token is written to KEY_CONF_CMD. -/
def State.confWrite (s : State) : State :=
  if s.pw.phase != .running then s
  else if s.flag KEY_CONF_STAT_BUSY then s.confFail 7
  else if !s.loaded then s.confFail 6
  else if s.key.lost then s.confFail 2
  else if s.rd KEY_CONF_CRC ≠ s.rng.pcrc then s.confFail 1
  else if !s.tsync then s.confFail 4
  else
    match firstBlank s.key.comm with
    | none => s.confFail 3
    | some i => (({ s with key := { s.key with conf := some (i, s.confRecord i) } } : State).wr KEY_CONF_STAT_BUSY 1).wr
        KEY_CONF_STAT_ERR 0

def execConfirmationWrite (t : Nat) (s : State) : Host.Outcome State Fault Refusal := .next (s.begin t).confWrite

/-- Whether the history comparison of R99 is due: the module has joined, and this start has not made it. -/
def State.historyDue (s : State) : Bool :=
  s.pw.phase == .running && s.pw.start.joined && !s.key.compared

/-- CONFIRMATION_DONE: the slot now reads `back`. A history write that is due goes first (R100). -/
def State.confDone (s : State) (back : List Byte) : State :=
  match s.key.conf with
  | none => s
  | some (i, r) =>
    if s.historyDue then s
    else
      let s := ({ s with key := { s.key with conf := none } } : State).wr KEY_CONF_STAT_BUSY 0
      match s.key.mem with
      | none => s.confFail 5
      | some m =>
        let m := { m with comm := journalPut m.comm i back }
        let s := ({ s with key := { s.key with mem := some m } } : State).showJournals (journalPut s.key.comm i back) s.key.hist
        if back = r then
          (((s.wr KEY_CONF_STAT_DONE 1).wr KEY_CONF_STAT_ERR 0).raise 230).record 4 2 230 0xFFFF (some 0x10E00068) none
        else s.confFail 5

def execConfirmationDone (back : List Byte) (t : Nat) (s : State) : Host.Outcome State Fault Refusal :=
  .next ((s.begin t).confDone back)

/-! ### The module history (R99) -/

/-- The module history record for a slot. -/
def State.histRecord (s : State) (slot : Nat) : List Byte :=
  sealRecord (leBytes 2 2 ++ leBytes 2 0 ++ leBytes 4 slot ++ leBytes 8 s.now ++
    leBytes 8 (s.rd64 SYS_SERIAL_LO SYS_SERIAL_HI) ++ leBytes 4 hwIssue ++ leBytes 4 (s.rd KEY_GEN))

/-- HISTORY_RECORD_WRITE: after the first join the module compares its serial with the last history record that it
read at this start and, where they differ, writes a history record and a replacement record; the slot then reads
`back`, none where it reads the record itself. With the key removed the history record fails, and a later start writes
it. The replacement record names 0 as the previous serial where there is no record (DESIGN CHOICE, log entry 111). -/
def State.historyWrite (s : State) (back : Option (List Byte)) : State :=
  if !s.historyDue then s
  else
    let s : State := { s with key := { s.key with compared := true } }
    let last := s.key.last
    if (last.map (leAt 0x10 8)) = some (s.rd64 SYS_SERIAL_LO SYS_SERIAL_HI) then s
    else
      let s := s.selfRecord 0x07 8 (leBytes 8 ((last.map (leAt 0x10 8)).getD 0))
      match s.key.mem, firstBlank s.key.hist with
      | some m, some i =>
        let r := back.getD (s.histRecord i)
        let m := { m with hist := journalPut m.hist i r }
        ({ s with key := { s.key with mem := some m } } : State).showJournals s.key.comm (journalPut s.key.hist i r)
      | _, _ => s

def execHistoryRecordWrite (back : Option (List Byte)) (t : Nat) (s : State) : Host.Outcome State Fault Refusal :=
  .next ((s.begin t).historyWrite back)

end Sys2Proof.Machine
end

