-- ==== Sys2Proof/Machine/Bist.lean ====
section
/-!
DEFINITION. The end of a self-test run (R458 to R462, R466), and what follows for the engines.
-/

namespace Sys2Proof.Machine

/-- After the logic tests of a run at start the engines that key apply has loaded form their lanes from those that are
left (R159, R462). -/
def State.lanesAfter (s : State) (e : Nat) : State :=
  if s.leState e = leRestarting then
    match s.formLanes e with
    | some s => s
    | none => ((((s.wr (LE_Ee_STAT_STATE e) leUnloaded).leIdle e).publishInvalid e).settleOwner e).poolEmpty
  else s

/-- BIST_RUN_DONE: a run of a lane beside a running engine is judged where no other run is in progress. -/
def State.bistRunDone (s : State) (fail0 fail1 sig len : Nat) (rows : List (Nat × Nat)) (noRes : List Nat) (werr : Bool) :
    State :=
  match s.cop.run with
  | none => if s.cop.laneTest = 0 then s else s.laneJudged fail0 werr
  | some r =>
    let s := s.bistDone fail0 fail1 sig len rows noRes werr
    if r.logic && decide (r.kind = RunKind.startup) then [0, 1, 2, 3].foldl State.lanesAfter s else s

/-- `fail0` and `fail1` are the targets that failed, `rows` the failing rows (memory and row), `noRes` the rows no hard
repair resource was left for, `werr` a write to the repair log that failed. -/
def execBistRunDone (fail0 fail1 : BitVec 32) (sig : BitVec 64) (len : Nat) (rows : List (Nat × Nat)) (noRes : List Nat)
    (werr : Bool) (t : Nat) (s : State) : Host.Outcome State Fault Refusal :=
  .next ((s.begin t).bistRunDone fail0.toNat fail1.toNat sig.toNat len rows noRes werr)

end Sys2Proof.Machine
end

