-- ==== Sys2Proof/Machine/Firmware.lean ====
section
/-!
DEFINITION. Firmware update (R535 to R549): the commands of FWU_CMD, the activation pause, Seedling and the transfer of
firmware between modules.
-/

namespace Sys2Proof.Machine

/-! ### Commands -/

/-- The slot that is not booted. -/
def State.updateSlot (s : State) : Nat := 1 - s.fwu.booted.getD 1

/-- A command is refused or fails: FAILEV with its reason and source 225; a refused piece is counted. -/
def State.fwuFail (s : State) (err : Nat) : State :=
  let s := if s.rd FWU_RES_OP = 2 then s.bump FWU_CNT_REFUSED else s
  ((s.wr FWU_STAT_FAILEV 1).wr FWU_RES_ERR err).raise 225

/-- A command completes: DONEEV and source 224. -/
def State.fwuDone (s : State) : State := ((s.wr FWU_STAT_DONEEV 1).wr FWU_RES_ERR 0).raise 224

/-- A command begins. -/
def State.fwuBegin (s : State) (op : Nat) (data : List Byte) : State :=
  let r : FwRun := ⟨op, s.updateSlot, data, sramBase + 32 * s.rd FWU_ADDR_OFF, s.now⟩
  ({ s with fwu := { s.fwu with run := some r } } : State).wr FWU_STAT_BUSY 1

/-- Whether the debugger acts through hart h: lane A of the stand it has halted (R140, R143). -/
def State.debugHart (s : State) (h : Nat) : Bool :=
  s.pw.phase == .running && decide (h < 4) && s.dbg == .stand h && s.standState h == stHalted

/-- A write of a command with its token by a hart (R535): a SPLIT lane gets a store access fault, a second command is
refused as busy; otherwise `act` goes on. Without stand firmware nothing can write. -/
def State.fwuCommand (s : State) (hart op : Nat) (act : State → State) : State :=
  if !(s.hartRuns hart || s.debugHart hart) || !s.pw.start.firmware || s.fwu.seed.isSome then s
  else if s.hartSplit hart then s.answer .storeFault
  else
    let s := (s.answer .done).wr FWU_RES_OP op
    if s.fwu.run.isSome then s.fwuFail 9 else act s

/-- The state of the slot that is not booted is one of `sts`, else the command is refused. -/
def State.fwuIn (s : State) (sts : List Nat) (act : State → State) : State :=
  if sts.contains (s.fwSlot s.updateSlot).state then act s else s.fwuFail 1

/-- The n bytes at FWU_ADDR lie in shared SRAM outside the staging buffer, or the command is refused; with which code
the spec leaves open (R535). -/
def State.fwuRange (s : State) (n : Nat) (act : State → State) : State :=
  if stagingOff < 32 * s.rd FWU_ADDR_OFF + n then
    let (v, s) := s.free
    s.fwuFail v
  else act s

/-- The bytes a command reads at FWU_ADDR; an uncorrectable row fails it. -/
def State.fwuSource (s : State) (n : Nat) (act : State → List Byte → State) : State :=
  s.fwuRange n fun s =>
    let a := sramBase + 32 * s.rd FWU_ADDR_OFF
    let q := s.seeRange 0x28 3 a n
    if q.1 then q.2.fwuFail 0xD else act q.2 (q.2.seen a n)

/-- The check of a header by steps 1 to 7 of R530 and of its PAYLEN. -/
def State.headerErr (s : State) (h : List Byte) : Nat :=
  let e := conErr (containerFail 2 hwIssue s.fuse h)
  if e ≠ 0 then e else if 0x0BFFE000 < conPaylen h then 5 else 0

/-- An OPEN of this header resumes what the slot holds. -/
def State.resumes (s : State) (k : Nat) (h : List Byte) : Bool :=
  let x := s.fwSlot k
  x.state == slReceiving && conImageid x.header == conImageid h

/-- OPEN begins: where it goes on to erase the slot, the slot is EMPTY from here until its header is written. -/
def State.fwOpenBegin (s : State) (h : List Byte) : State :=
  let k := s.updateSlot
  let s := s.fwuBegin 1 h
  if s.headerErr h = 0 && !s.resumes k h then s.setSlot k (s.fwSlot k).erased else s

def execFwOpen (hart : Fin 12) (t : Nat) (s : State) : Host.Outcome State Fault Refusal :=
  .next ((s.begin t).fwuCommand hart 1 fun s =>
    if (s.fwSlot s.updateSlot).state = slTrial then s.fwuFail 1 else s.fwuSource 8192 State.fwOpenBegin)

def execFwPiece (hart : Fin 12) (t : Nat) (s : State) : Host.Outcome State Fault Refusal :=
  .next ((s.begin t).fwuCommand hart 2 fun s => s.fwuIn [slReceiving] fun s => s.fwuSource 4128 fun s => s.fwuBegin 2)

def execFwAbandon (hart : Fin 12) (t : Nat) (s : State) : Host.Outcome State Fault Refusal :=
  .next ((s.begin t).fwuCommand hart 3 fun s => s.fwuIn [slReceiving, slComplete, slPrepared] fun s => s.fwuBegin 3 [])

def execFwPrepare (hart : Fin 12) (t : Nat) (s : State) : Host.Outcome State Fault Refusal :=
  .next ((s.begin t).fwuCommand hart 4 fun s => s.fwuIn [slComplete] fun s => s.fwuBegin 4 [])

def execFwConfirm (hart : Fin 12) (t : Nat) (s : State) : Host.Outcome State Fault Refusal :=
  .next ((s.begin t).fwuCommand hart 6 fun s =>
    if s.fwu.booted.any fun k => (s.fwSlot k).state == slTrial then s.fwuBegin 6 [] else s.fwuFail 1)

def execFwBitmap (hart : Fin 12) (t : Nat) (s : State) : Host.Outcome State Fault Refusal :=
  .next ((s.begin t).fwuCommand hart 7 fun s => s.fwuIn [slReceiving, slComplete] fun s =>
    s.fwuRange (s.fwSlot s.updateSlot).bitmap.length fun s => s.fwuBegin 7 [])

/-- SEEDLING (R543): a module reset into Seedling, from S0 alone. -/
def execFwSeedling (hart : Fin 12) (t : Nat) (s : State) : Host.Outcome State Fault Refusal :=
  .next ((s.begin t).fwuCommand hart 8 fun s =>
    if hart.val = 0 then ({ s with fwu := { s.fwu with toSeed := true } } : State).moduleReset 2 0 else s.fwuFail 0xE)

def execFwUnprepare (hart : Fin 12) (t : Nat) (s : State) : Host.Outcome State Fault Refusal :=
  .next ((s.begin t).fwuCommand hart 9 fun s => s.fwuIn [slPrepared] fun s => s.fwuBegin 9 [])

/-! ### Activation (R539 to R541) -/

/-- Whether the conditions FREE of R539 holds. -/
def State.condFree (s : State) : Bool :=
  !([0, 1, 2, 3].any fun k => (s.stand k).run.any fun (r : HoRun) => !r.nap) && !s.flag BIST_STAT_BUSY &&
    s.pmg.low.isNone && s.key.conf.isNone && !s.rwHolds (fun _ => true) && !(s.rwy.ops.any fun (o : RwOp) => o.hart.isSome)

/-- LINK to NOPERM have held for the last 1 s. -/
def State.condHeld (s : State) : Bool := s.fwu.condSince.any fun (a : Nat) => decide (a + 1000000000 ≤ s.now)

/-- The conditions of R539, bit 0 first. -/
def State.conds (s : State) : List Bool :=
  s.mirrorConds ++
    [s.condHeld, s.fwu.booted.isSome && (s.fwSlot s.updateSlot).state == slPrepared,
      s.flag PWR_HOLDUP_STAT_READY && s.rd PWR_HOLDUP_STAT_PHASE == 0, s.condFree]

/-- FWU_COND, live. -/
def State.condMask (s : State) : Nat := (s.conds.zipIdx.foldl (fun (m : Nat) x => setBit m x.2 x.1)) 0

/-- Every stand is held in reset, its permission falls, and Lookout is unarmed (step 1 of R540). -/
def State.pauseBegins (s : State) : State :=
  let s := [0, 1, 2, 3].foldl (fun (s : State) k =>
    let s := (s.setStand k { s.stand k with formed := false, request := none, run := none }).wr (STD_Sk_STAT_STATE k) stForming
    (s.syncSafe k).settleStand k) s
  let s : State := { s with
    lko := ⟨s.now, none, false⟩
    pw := { s.pw with start := { s.pw.start with serviced := false } }
    fwu := { s.fwu with pause := some ⟨s.now, 1, .none⟩ } }
  ((s.wr STD_LKO_STAT_ARMED 0).wr STD_LKO_STAT_OPEN 0).wr STD_LKO_STAT_SUSP 0

/-- A stand forms anew with the new image: its F fields are restored but for the pending events, and S0 keeps its
mode. -/
def State.reform (s : State) (k : Nat) : State :=
  let mode := if k = 0 then s.mode 0 else s.initMode k
  let pend := s.pendVec k
  let cs := (s.formCores k).take 3
  let s := s.restore (·.f) (standAddr k)
  let s := (List.range 8).foldl (fun s j => s.wr (STD_Sk_PENDj k j) (bitsAt pend (32 * j) 32)) s
  let s := s.setStand k standInit
  let s := if s.dbg = .stand k then s.wr STD_DBG_STAT_QFILL 0 else s
  let a := s.entryOf (s.fwu.booted.getD 0)
  let s := s.wr64 (STD_Sk_STARTPC_LO k) (STD_Sk_STARTPC_HI k) a
  let s := (s.form k mode cs a).wr (PWR_UNIT_UNIT k) 0
  ((s.syncSafe k).settleStand k).raise k

/-- Steps 2 and 3 of R540: the slot records, an activation record, the stands. -/
def State.activates (s : State) (z : FwPause) : State :=
  let k := s.updateSlot
  let s := s.slotTo (1 - k) slFallback
  let s := s.setSlot k { s.fwSlot k with state := slTrial, trials := 0 }
  let s : State := { s with fwu := { s.fwu with run := none, booted := some k, pause := some ⟨z.at_, 3, z.attach⟩ } }
  let s := ((s.wr FWU_STAT_SLOT k).wr FWU_STAT_TRIAL 1).wr FWU_STAT_BUSY 0
  let s := s.record 4 0xE 0xFF k (some 0x10D00000) none
  ([0, 1, 2, 3].foldl State.reform s).syncCores.fwuDone

/-- ACTIVATE: the pause begins at once, or the command waits up to 4 ms for the conditions. -/
def execFwActivate (hart : Fin 12) (t : Nat) (s : State) : Host.Outcome State Fault Refusal :=
  .next ((s.begin t).fwuCommand hart 5 fun s =>
    if hart.val ≠ 0 then s.fwuFail 0xE
    else
      let ok := s.conds.all id
      let s := s.fwuBegin 5 []
      if ok then s.pauseBegins else s)

/-- An ACTIVATE in progress goes on: accepted once the conditions hold, refused 4 ms after the write, or carried out. -/
def State.activateGoes (s : State) (r : FwRun) : State :=
  match s.fwu.pause with
  | some z => s.activates z
  | none =>
    if s.now ≤ r.at_ + 4000000 ∧ s.conds.all id then s.pauseBegins
    else if r.at_ + 4000000 ≤ s.now then
      (({ s with fwu := { s.fwu with run := none } } : State).wr FWU_STAT_BUSY 0).fwuFail 0xA
    else s

/-! ### Commands complete -/

/-- Every piece of a slot is committed: it is COMPLETE, with source 226. -/
def State.slotWhole (s : State) (k : Nat) : State :=
  if (s.fwSlot k).whole then (s.slotTo k slComplete).raise 226 else s

/-- What a piece record fails, 0 where nothing (R535). -/
def State.pieceErr (s : State) (k : Nat) (r : List Byte) : Nat :=
  let h := (s.fwSlot k).header
  let i := leAt 8 4 r
  if leAt 0 8 r ≠ conImageid h then 6
  else if pieceCount h ≤ i ∨ leAt 0xC 4 r ≠ pieceLen h i then 7
  else
    match contentKey h with
    | none => 8
    | some key => if (pieceText key r).isSome then 0 else 8

/-- A piece is programmed and read back; with no block left the slot becomes EMPTY (R547). -/
def State.commitPiece (s : State) (k : Nat) (r : List Byte) (nandBad : Bool) : Nat × State :=
  let x := s.fwSlot k
  let i := leAt 8 4 r
  let e := s.pieceErr k r
  if e = 6 ∨ e = 7 then (e, s)
  else if (tblFind i x.pieces).isSome then (0, s)
  else if e ≠ 0 then (e, s)
  else if nandBad || x.cramped x.header then (0xC, s.setSlot k x.erased)
  else (0, (s.setSlot k { x with pieces := tblPut i r x.pieces }).slotWhole k)

/-- PREPARE ends (R536): every piece is decrypted into the region, then the whole is checked; a slot that fails is
BAD, and its region, which is released, holds what was decrypted. -/
def State.prepared (s : State) (k : Nat) : Nat × State :=
  match s.slotCheck k with
  | (0, p) => (0, (s.loadRegion k p).slotTo k slPrepared)
  | (e, _) => (e, (s.loadRegion k (s.fwSlot k).started).slotTo k slBad)

/-- CONFIRM (R542): the trial is ACTIVE; where its SECVER is above the fuses, they are blown and FALLBACK is BAD. -/
def State.confirmed (s : State) : State :=
  let k := s.fwu.booted.getD 0
  let v := conSecver (s.fwSlot k).header
  let s := (s.slotTo k slActive).wr FWU_STAT_TRIAL 0
  if s.fuse < v then
    let s := s.wr FWU_FUSE_SECVER v
    if (s.fwSlot (1 - k)).state = slFallback then s.slotTo (1 - k) slBad else s
  else s

/-- What a command does at its end, with its error. -/
def State.fwuEnds (s : State) (r : FwRun) (nandBad : Bool) : Nat × State :=
  match r.op with
  | 1 =>
    let e := s.headerErr r.data
    if e ≠ 0 then (e, s)
    else if s.resumes r.slot r.data then (0, s)
    else if nandBad || (s.fwSlot r.slot).cramped r.data then (0xC, s)
    else (0, s.setSlot r.slot ((s.fwSlot r.slot).opened r.data))
  | 2 => s.commitPiece r.slot r.data nandBad
  | 3 => (0, s.setSlot r.slot (s.fwSlot r.slot).erased)
  | 4 => s.prepared r.slot
  | 6 => (0, s.confirmed)
  | 7 =>
    let q := s.mergeStore 0x28 r.addr (s.fwSlot r.slot).bitmap
    (if q.1 then 0 else 0xD, q.2)
  | _ => (0, (s.slotTo r.slot slComplete).raise 226)

/-- FWU_COMMAND_DONE: the command in progress ends; `nandBad` says that no NAND block was left for what it programs. -/
def State.fwuCommandDone (s : State) (nandBad : Bool) : State :=
  match s.fwu.run with
  | none => s
  | some r =>
    if s.pw.phase != .running then s
    else if r.op = 5 then s.activateGoes r
    else
      let s := ({ s with fwu := { s.fwu with run := none } } : State).wr FWU_STAT_BUSY 0
      match s.fwuEnds r nandBad with
      | (0, s) => s.fwuDone
      | (e, s) => s.fwuFail e

def execFwuCommandDone (nandBad : Bool) (t : Nat) (s : State) : Host.Outcome State Fault Refusal :=
  .next ((s.begin t).fwuCommandDone nandBad)

/-- The new firmware's first Lookout service ends the pause (step 4 of R540); no measurement is above the bound of 250
ms (R37). -/
def State.pauseEnds (s : State) : State :=
  match s.fwu.pause with
  | none => s
  | some z =>
    let us := min 250000 ((s.now - z.at_) / 1000)
    let s : State := { s with fwu := { s.fwu with pause := none } }
    (((s.wr FWU_PAUSE_LAST us).maxWr FWU_PAUSE_MAX us).wr FWU_STAT_PAUSEEV 1).raise 227

/-! ### Firmware transfer frames (R545) -/

/-- The module serial. -/
def State.serial64 (s : State) : Nat := s.rd64 SYS_SERIAL_LO SYS_SERIAL_HI

/-- A transfer payload. -/
def fwPayload (op frag nreq serial index : Nat) (body : List Byte) : List Byte :=
  leBytes 1 op ++ leBytes 1 frag ++ leBytes 2 nreq ++ leBytes 8 serial ++ leBytes 4 index ++ body

/-- Send a transfer frame to a node, on X3 or in the event-triggered window of both planes. -/
def State.fwSend (s : State) (x3 : Bool) (dest : Nat) (payload : List Byte) : State :=
  let f := s.frame frFirmware dest 0 0 payload
  if x3 then s.emit (.under 5 f) else s.sendEtBoth f

/-- Fields of a transfer payload. -/
def fwOp (p : List Byte) : Nat := leAt 0 1 p
def fwFrag (p : List Byte) : Nat := leAt 1 1 p
def fwNreq (p : List Byte) : Nat := leAt 2 2 p
def fwSerial (p : List Byte) : Nat := leAt 4 8 p
def fwIndex (p : List Byte) : Nat := leAt 0xC 4 p

/-- A transfer frame that reaches this module: its payload where it is one of the given OP. -/
def State.fwHeard (s : State) (x3 : Bool) (op : Nat) (f : List Byte) : Option (List Byte) :=
  let p := frPayload f
  if s.pw.phase == .running && frKind f == frFirmware && fwOp p == op && (x3 || frDest f == 0xFF || frDest f == s.nodeId)
  then some p else none

/-! ### Serving (R546) -/

/-- The slot that is served: the ACTIVE one, where serving is enabled. -/
def State.servedSlot (s : State) : Option Nat := s.slotIn slActive

/-- A GET is served: counted, with source 229 at most once per cycle. -/
def State.serveCount (s : State) : State :=
  let s := s.bump FWU_CNT_SERVED
  if s.fwu.served = s.cycleNo + 1 then s
  else ({ s with fwu := { s.fwu with served := s.cycleNo + 1 } } : State).raise 229

/-- The DATA frames of a header or of a piece record. -/
def State.fwSendData (s : State) (x3 : Bool) (dest serial index : Nat) (bytes : List Byte) : State :=
  (List.range ((bytes.length + 1023) / 1024)).foldl (fun s i =>
    s.fwSend x3 dest (fwPayload 4 i 0 serial index (slice (1024 * i) 1024 bytes))) s

/-- FW_HELLO: answered with an OFFER by a serving module; on X3 during the firmware load phase, for this module's own
serial, it leads into Seedling (R543). -/
def State.fwHello (s : State) (x3 : Bool) (f : List Byte) : State :=
  match s.fwHeard x3 1 f with
  | none => s
  | some p =>
    let z := s.pw.start
    if x3 && frDest f == 0xFF && fwSerial p == s.serial64 && z.applied && !z.firmware && !s.startupAwaited then
      { s with fwu := { s.fwu with toSeed := true } }
    else if s.flag FWU_SERVE_EN then
      match s.servedSlot with
      | none => s
      | some k =>
        let h := (s.fwSlot k).header
        s.fwSend x3 (frSender f) (fwPayload 2 0 0 (fwSerial p) 0
          (leBytes 8 (conImageid h) ++ leBytes 4 (pieceCount h) ++ leBytes 4 (conFwver h) ++ leBytes 4 (conSecver h)))
    else s

def execFwHello (x3 : Bool) (frame : List Byte) (t : Nat) (s : State) : Host.Outcome State Fault Refusal :=
  .next ((s.begin t).fwHello x3 frame)

/-- FW_GET: the DATA frames of the pieces named, or a NACK where there is nothing to send. -/
def State.fwGet (s : State) (x3 : Bool) (f : List Byte) : State :=
  match s.fwHeard x3 3 f with
  | none => s
  | some p =>
    if !s.flag FWU_SERVE_EN then s
    else
      let dest := frSender f
      match s.servedSlot with
      | none => s.fwSend x3 dest (fwPayload 5 0 1 (fwSerial p) (fwIndex p) [])
      | some k =>
        let x := s.fwSlot k
        if fwIndex p = 0xFFFFFFFF then s.serveCount.fwSendData x3 dest (fwSerial p) 0xFFFFFFFF x.header
        else
          let is := ((List.range (min 16 (fwNreq p))).map (fwIndex p + ·)).filter (· < pieceCount x.header)
          if is = [] then s.fwSend x3 dest (fwPayload 5 0 2 (fwSerial p) (fwIndex p) [])
          else is.foldl (fun s i => match tblFind i x.pieces with
            | some r => s.fwSendData x3 dest (fwSerial p) i r
            | none => s) s.serveCount

def execFwGet (x3 : Bool) (frame : List Byte) (t : Nat) (s : State) : Host.Outcome State Fault Refusal :=
  .next ((s.begin t).fwGet x3 frame)

/-! ### Seedling (R543, R544) -/

def State.setSeed (s : State) (z : Seed) : State := { s with fwu := { s.fwu with seed := some z } }

/-- A transfer frame to Seedling, with this module's serial. -/
def State.seedHeard (s : State) (x3 : Bool) (op : Nat) (f : List Byte) : Option (Seed × List Byte) :=
  match s.fwu.seed, s.fwHeard x3 op f with
  | some z, some p => if fwSerial p = s.serial64 then some (z, p) else none
  | _, _ => none

/-- SEEDLING_ANNOUNCE: a HELLO on X3 and in the event-triggered window. -/
def State.seedAnnounce (s : State) : State :=
  if s.fwu.seed.isSome && s.pw.phase == .running then
    let p := fwPayload 1 0 0 s.serial64 0 []
    (s.fwSend true 0xFF p).fwSend false 0xFF p
  else s

def execSeedlingAnnounce (t : Nat) (s : State) : Host.Outcome State Fault Refusal := .next (s.begin t).seedAnnounce

/-- A GET to the source of the image. -/
def State.seedGet (s : State) (z : Seed) (first n : Nat) : State :=
  match z.src with
  | none => s
  | some a =>
    (s.setSeed { z with get := some (first, n, s.now) }).fwSend (a == 0) (if a = 0 then 0xFF else a)
      (fwPayload 3 0 n s.serial64 first [])

/-- The slots that Seedling may write: neither ACTIVE, TRIAL nor FALLBACK. -/
def State.seedSlots (s : State) : List Nat :=
  [0, 1].filter fun k => !([slActive, slTrial, slFallback].contains (s.fwSlot k).state)

/-- FW_OFFER: the first offer is taken; one on X3 takes precedence until a header has verified. -/
def State.fwOffer (s : State) (x3 : Bool) (f : List Byte) : State :=
  match s.seedHeard x3 2 f with
  | none => s
  | some (z, _) =>
    if z.header.isNone && !s.seedSlots.isEmpty && (z.src.isNone || (x3 && z.src != some 0)) then
      s.seedGet { z with src := some (if x3 then 0 else frSender f), parts := [] } 0xFFFFFFFF 1
    else s

def execFwOffer (x3 : Bool) (frame : List Byte) (t : Nat) (s : State) : Host.Outcome State Fault Refusal :=
  .next ((s.begin t).fwOffer x3 frame)

/-- Seedling takes offers again. -/
def State.seedAgain (s : State) (z : Seed) : State :=
  s.setSeed { z with src := none, parts := [], header := none, get := none, frags := [] }

/-- Whether the other slot holds an image that would boot. -/
def State.wouldBoot (s : State) (k : Nat) : Bool :=
  let x := s.fwSlot k
  (x.state == slActive || x.state == slFallback || (x.state == slTrial && decide (x.trials < 3))) && (s.slotCheck k).1 == 0

/-- Seedling prepares a slot that is whole, marks it TRIAL, or ACTIVE, and makes a module reset. -/
def State.seedWhole (s : State) (z : Seed) : State :=
  match s.prepared z.slot with
  | (0, s) =>
    let st := if s.wouldBoot (1 - z.slot) then slTrial else slActive
    (s.setSlot z.slot { s.fwSlot z.slot with state := st, trials := 0 }).moduleReset 2 0
  | (_, s) => s.seedAgain z

/-- The next GET: up to 16 pieces from the first one missing; none is missing where the slot is whole. -/
def State.seedNext (s : State) (z : Seed) : State :=
  let x := s.fwSlot z.slot
  let n := pieceCount x.header
  match (List.range n).find? fun i => (tblFind i x.pieces).isNone with
  | none => s.seedWhole z
  | some i => s.seedGet z i (min 16 (n - i))

/-- The header is complete: it verifies and a slot is opened for it, or Seedling takes the next offer. -/
def State.seedHeader (s : State) (z : Seed) (h : List Byte) : State :=
  if s.headerErr h ≠ 0 then s.seedAgain z
  else
    match (s.seedSlots.find? fun k => s.resumes k h).or s.seedSlots.head? with
    | none => s.seedAgain z
    | some k =>
      let s := if s.resumes k h then s else s.setSlot k ((s.fwSlot k).opened h)
      s.seedNext { z with header := some h, slot := k, parts := [], frags := [] }

/-- The fragments 0 to n − 1 under a base key, joined where all are there. -/
def joinFrags (m : Tbl (List Byte)) (base n : Nat) : Option (List Byte) :=
  if (List.range n).all fun i => (tblFind (base + i) m).isSome then
    some ((List.range n).flatMap fun i => (tblFind (base + i) m).getD [])
  else none

/-- A piece record is complete: it is committed where it passes the checks of PIECE. -/
def State.seedPiece (s : State) (z : Seed) (i : Nat) (r : List Byte) (nandBad : Bool) : State :=
  let z := { z with frags := (List.range 5).foldl (fun m j => tblDel (8 * i + j) m) z.frags }
  let (e, s) := s.commitPiece z.slot r nandBad
  let s := s.setSeed z
  if e = 0xC then s.seedAgain z
  else match z.get with
  | some (first, n, _) =>
    if (List.range n).all fun j => (tblFind (first + j) (s.fwSlot z.slot).pieces).isSome then s.seedNext z else s
  | none => s

/-- FW_DATA: a fragment of the header or of a piece, from the source of the image. -/
def State.fwData (s : State) (x3 : Bool) (f : List Byte) (nandBad : Bool) : State :=
  match s.seedHeard x3 4 f with
  | none => s
  | some (z, p) =>
    if z.src ≠ some (if x3 then 0 else frSender f) then s
    else
      let z := { z with get := z.get.map fun g => (g.1, g.2.1, s.now) }
      let i := fwIndex p
      if i = 0xFFFFFFFF then
        if z.header.isSome ∨ 8 ≤ fwFrag p then s.setSeed z
        else
          let z := { z with parts := tblPut (fwFrag p) (slice 0x10 1024 p) z.parts }
          match joinFrags z.parts 0 8 with
          | some h => s.seedHeader z h
          | none => s.setSeed z
      else if z.header.isNone ∨ 5 ≤ fwFrag p then s.setSeed z
      else
        let z := { z with frags := tblPut (8 * i + fwFrag p) (slice 0x10 (if fwFrag p = 4 then 32 else 1024) p) z.frags }
        match joinFrags z.frags (8 * i) 5 with
        | some r => s.seedPiece z i r nandBad
        | none => s.setSeed z

def execFwData (x3 : Bool) (frame : List Byte) (nandBad : Bool) (t : Nat) (s : State) : Host.Outcome State Fault Refusal :=
  .next ((s.begin t).fwData x3 frame nandBad)

/-- FW_NACK: it brings no data, so the GET it answers is repeated when its time is up. -/
def execFwNack (_x3 : Bool) (_frame : List Byte) (t : Nat) (s : State) : Host.Outcome State Fault Refusal :=
  .next (s.begin t)

/-- GET_RETRY_TIMEOUT: no data for 100 ms; the GET is repeated. -/
def State.getRetry (s : State) : State :=
  match s.fwu.seed with
  | none => s
  | some z =>
    match z.get with
    | some (first, n, at_) => if at_ + 100000000 ≤ s.now ∧ s.pw.phase = .running then s.seedGet z first n else s
    | none => s

def execGetRetryTimeout (t : Nat) (s : State) : Host.Outcome State Fault Refusal := .next (s.begin t).getRetry

end Sys2Proof.Machine
end

