-- ==== Sys2Proof/Machine/StandCommands.lean ====
section
/-!
DEFINITION. The commands of the stands, the event router, the debug transport at stands, and Lookout (R106 to R154), with
what follows from a stand's permission and from two failures at once.
-/

namespace Sys2Proof.Machine

/-- What follows when a stand's permission may have moved: the channels bound to it, what a stand that failed silent has
outstanding at Rootway (R120), and two stands FAILED (R121). -/
def State.standSettled (s : State) (k : Nat) : State :=
  ((if s.standState k = stFailed then s.dropTransactions k else s).settleStand k).afterFailure

/-! ### Voters and the agreement exchange (R112 to R127) -/

/-- VOTER_MISMATCH: lane l differs on a bus request, a retired store or a signature (item 0 to 2). -/
def execVoterMismatch (k : Fin 4) (l : Fin 3) (item : Fin 3) (t : Nat) (s : State) : Host.Outcome State Fault Refusal :=
  let s := s.begin t
  .next (if s.standClocked k && (s.liveLanes k).contains l.val then (s.mismatch k l (item.val + 1)).standSettled k else s)

/-- VOTER_XY_DISAGREE (R114): a stand whose two voters differ in any core clock, a debug-halted one among them, fails
silent, whatever its lanes show. -/
def State.voterXy (s : State) (k : Nat) : State :=
  if s.standClocked k && (s.executing k || s.standState k == stHalted) && (s.mode k == modeTriad || s.mode k == modePair) then
    (s.failSilent k 5).standSettled k
  else s

def execVoterXyDisagree (k : Fin 4) (t : Nat) (s : State) : Host.Outcome State Fault Refusal :=
  .next ((s.begin t).voterXy k)

/-- AGREEMENT_POINT: each lane latches the pending vector, which `da` to `dc` may differ from, the debugger's halt
request and global time. A halted stand retires nothing and has none, but for the running lanes B and C of a SPLIT
stand. -/
def State.agreementPoint (s : State) (k : Nat) (da db dc halts ta tb tc lat : Nat) : State :=
  if s.standClocked k && s.standState k == stHalted && s.mode k == modeSplit then s.agreeHalted k tb tc
  else if s.standClocked k && s.standState k == stRunning then
    let p := s.pendVec k
    let s := s.agreement k ⟨p ^^^ da, bitAt halts 0, ta⟩ ⟨p ^^^ db, bitAt halts 1, tb⟩ ⟨p ^^^ dc, bitAt halts 2, tc⟩ lat
    s.standSettled k
  else s

def execAgreementPoint (k : Fin 4) (da db dc : BitVec 256) (halts : BitVec 3) (ta tb tc lat : Nat) (t : Nat) (s : State) :
    Host.Outcome State Fault Refusal :=
  .next ((s.begin t).agreementPoint k da.toNat db.toNat dc.toNat halts.toNat ta tb tc lat)

/-! ### Coppice's background test of a core (R118) -/

/-- CORE_BIST_DONE: a fenced core returns as suspect or is retired; a spare is proven or retired. Cores of a run or of a
stand's reset are judged with it, and during a start-up or depot run the test waits. -/
def State.coreBistDone (s : State) (c : Nat) (fail werr : Bool) : State :=
  let inReset := [0, 1, 2, 3].any fun k => (s.stand k).resetting == some true && (s.ownCores k).contains c
  if s.pw.phase == .running && s.coreTesting c && s.cop.run.isNone && !inReset then
    let was := s.coreProven c
    let s := s.testCore c false
    let s := if fail then s.coreFailed c false werr else s.corePassed c werr
    let s := s.coppiceEnds.syncCores
    (if !was && s.coreProven c then s.spareReady else s).checkSpares
  else s

def execCoreBistDone (c : Fin 15) (fail werr : Bool) (t : Nat) (s : State) : Host.Outcome State Fault Refusal :=
  .next ((s.begin t).coreBistDone c fail werr)

/-! ### Hand-over (R131 to R137) -/

/-- HANDOVER_REQUEST: a hart writes STD_Sk_MODE_REQ; during an activation pause every request is refused as busy
(R547). -/
def State.modeReq (s : State) (h k v : Nat) : State :=
  if !s.deviceOpen h 0x10200000 then s.answer .storeFault
  else if bitsAt v 24 8 = 0xA5 ∧ s.fwu.pause.isSome then (s.wr (STD_Sk_STAT_REQERR k) 1).answer .done
  else (s.handoverRequest (hartStand h) k v).answer .done

def execHandoverRequest (hart : Fin 12) (k : Fin 4) (v : BitVec 32) (t : Nat) (s : State) :
    Host.Outcome State Fault Refusal :=
  let s := s.begin t
  .next (if s.hartRuns hart then s.modeReq hart k v.toNat else s)

/-- Acceptance of a hand-over at an agreement point: the gap begins, and the permission towards SPLIT or OFF falls
(R131, R133, R139). It waits while a Rootway load of the stand is outstanding or the stand holds a Rootway lock that has
not timed out (R414); lanes that run write their checkpoint. -/
def State.handoverAccept (s : State) (k : Nat) : State :=
  match (s.stand k).request with
  | none => s
  | some q =>
    let st := s.standState k
    let mine (h : Nat) : Bool := (standHarts k).contains h
    let free := !(s.rwy.ops.any fun o => o.hart.any mine) && !s.rwHolds mine
    if free && (st == stRunning || st == stOff) && (s.stand k).run.isNone && (s.stand k).resetting.isNone then
      let s := s.setStand k { s.stand k with request := none, run := some ⟨q, s.mode k, s.now, false⟩, wfi := false }
      let s := if s.mode k = modeOff then s else s.checkpoint k
      (s.wr (STD_Sk_STAT_STATE k) stHandover).syncSafe k
    else s

/-- HANDOVER_ACCEPT: the agreement point at which a waiting request is accepted. A stand in Doze or Nap leaves it first
(R502). -/
def execHandoverAccept (k : Fin 4) (t : Nat) (s : State) : Host.Outcome State Fault Refusal :=
  let s := s.begin t
  .next (if s.standClocked k then (s.handoverAccept k).standSettled k else s)

/-- HANDOVER_RESUME: the gap ends; the end of S0's exit from Nap starts a Lookout window, however it ends (R153). -/
def State.handoverEnds (s : State) (k : Nat) (how : Reload) : State :=
  match (s.stand k).run with
  | none => s
  | some r =>
    if s.standUp k then
      let s := if r.nap && k == 0 then s.lookoutRestart false else s
      (s.handoverResume k how).standSettled k
    else s

def execHandoverResume (k : Fin 4) (how : Reload) (t : Nat) (s : State) : Host.Outcome State Fault Refusal :=
  .next ((s.begin t).handoverEnds k how)

/-! ### Function reset of a stand (R122, R123) -/

/-- STAND_RESET: a hart writes the token to STD_Sk_RST. -/
def State.standRst (s : State) (h k : Nat) : State :=
  if !s.deviceOpen h 0x10200000 || !s.permits (hartStand h) k then s.answer .storeFault
  else if s.fwu.pause.isSome then (s.wr (STD_Sk_STAT_REQERR k) 1).answer .done
  else if (s.stand k).resetting.isSome then s.answer .done
  else
    let awake := s.rd (PWR_UNIT_UNIT k) == 0
    let s := ((s.dropTransactions k).standReset k).syncSafe k
    let s := if k = 0 then s.lookoutRestart awake else s
    (s.standSettled k).answer .done

def execStandReset (hart : Fin 12) (k : Fin 4) (t : Nat) (s : State) : Host.Outcome State Fault Refusal :=
  let s := s.begin t
  .next (if s.hartRuns hart then s.standRst hart k else s)

/-- STAND_RESET_DONE: `failMask` has the cores that failed their BIST, which waits for a start-up or depot run. Where
two cores cannot be found for S0 the module is reset, with a cause that the spec does not give. -/
def State.standRstDone (s : State) (k failMask : Nat) : State :=
  if s.pw.phase != .running || (s.stand k).resetting.isNone || ((s.stand k).resetting == some true && s.cop.run.isSome) then s
  else
    match s.standResetDone k failMask with
    | (true, s) => let (v, s) := s.free; s.moduleReset (v % 16) 0
    | (false, s) => s.standSettled k

def execStandResetDone (k : Fin 4) (failMask : BitVec 15) (t : Nat) (s : State) : Host.Outcome State Fault Refusal :=
  .next ((s.begin t).standRstDone k failMask.toNat)

/-! ### The debug transport (R140 to R145, R233) -/

/-- Detach: NOTSAFE stays set. A halted stand stays halted until a later attachment resumes it, and entries of the
replay queue reach lanes B and C at the detach (DESIGN CHOICE, log entry 93). -/
def State.debugDetach (s : State) : State :=
  match s.dbg with
  | .none => s
  | .stand k => ((({ s with dbg := .none } : State).replayed k).wr STD_DBG_STAT_ATT 0).raise 14
  | .engine e => (({ s with dbg := .none } : State).wr (LE_Ee_DBG_STAT_ATT e) 0).raise 14

/-- Attach to an engine: it leaves Nap first, and NOTSAFE sets; refused while lane A is fenced. -/
def State.attachEngine (s : State) (e : Nat) : State :=
  if s.bit (LE_Ee_LANES_FENCED e) (s.rd (LE_Ee_LANES_LANEA e)) then s.answer .debugError
  else
    let s := ({ s with dbg := .engine e } : State).wr (PWR_UNIT_UNIT (4 + e)) 0
    (((s.wr (LE_Ee_DBG_STAT_ATT e) 1).wr (LE_Ee_STAT_NOTSAFE e) 1).raise 14).settleOwner e

/-- Attach to a stand or engine: one at a time. A stand leaves Nap first. -/
def State.attach (s : State) (a : Attach) : State :=
  match a with
  | .none => s
  | .stand k =>
    if s.laneFenced k 0 || s.pw.exhausted then s.answer .debugError
    else ((s.standWakes k).debugDetach.attachStand k).settleStand k
  | .engine e =>
    if s.bit (LE_Ee_LANES_FENCED e) (s.rd (LE_Ee_LANES_LANEA e)) then s.answer .debugError
    else s.debugDetach.attachEngine e

/-- DEBUG_ATTACH: during an activation pause the attach waits for its end (R547). -/
def State.debugAttach (s : State) (a : Attach) : State :=
  if s.pw.phase != .running then s.answer .debugError
  else
    match s.fwu.pause with
    | some z => { s with fwu := { s.fwu with pause := some { z with attach := a } } }
    | none => s.attach a

def execDebugAttach (engine : Bool) (n : Fin 4) (t : Nat) (s : State) : Host.Outcome State Fault Refusal :=
  .next ((s.begin t).debugAttach (if engine then .engine n else .stand n))

def execDebugDetach (t : Nat) (s : State) : Host.Outcome State Fault Refusal := .next (s.begin t).debugDetach

/-- A debugger's command to stand k needs its attachment. -/
def State.attached (s : State) (k : Nat) (act : State → State) : State :=
  if s.pw.phase == .running && s.dbg == .stand k then act s else s.answer .debugError

/-- A halt takes a stand out of Doze or Nap first. -/
def execDebugHaltStand (k : Fin 4) (t : Nat) (s : State) : Host.Outcome State Fault Refusal :=
  .next ((s.begin t).attached k fun s => (s.standWakes k).haltStand k)

/-- DEBUG_STEP_STAND (R141): the replay queue reaches lanes B and C before they execute; the stand executes one
instruction and halts again at an agreement point. -/
def State.stepStand (s : State) (k : Nat) : State :=
  if s.standState k = stHalted then ((s.replayed k).executes k).agreeNow k true else s.answer .debugError

def execDebugStepStand (k : Fin 4) (t : Nat) (s : State) : Host.Outcome State Fault Refusal :=
  .next ((s.begin t).attached k fun s => s.stepStand k)

def execDebugResumeStand (k : Fin 4) (t : Nat) (s : State) : Host.Outcome State Fault Refusal :=
  .next ((s.begin t).attached k fun s => s.resumeStand k)

/-! ### The event router (R146 to R149, R154) -/

/-- CLAIM_READ: a hart reads STD_Sk_CLAIM_M or STD_Sk_CLAIM_S. -/
def execClaimRead (hart : Fin 12) (k : Fin 4) (sup : Bool) (t : Nat) (s : State) : Host.Outcome State Fault Refusal :=
  let s := s.begin t
  .next (if s.hartRuns hart then s.claim k sup else s)

/-- SOFTWARE_EVENT: a hart writes STD_SWEVT. -/
def execSoftwareEvent (hart : Fin 12) (bits : BitVec 16) (t : Nat) (s : State) : Host.Outcome State Fault Refusal :=
  let s := s.begin t
  .next (if !s.hartRuns hart then s
    else if !s.deviceOpen hart 0x10200000 then s.answer .storeFault
    else (s.softEvents bits.toNat).answer .done)

/-! ### Lookout (R150 to R153) -/

/-- Lookout resets the module, with its reason. -/
def State.lookoutReset (s : State) (why : Nat) : State :=
  if s.pw.phase == .running && !s.pw.exhausted then (s.moduleReset 1 0).wr STD_LKO_STAT_LASTRST why else s

/-- Whether a service now comes before MIN: the lower bound applies, the window has not opened, and its latest edge is
still to come. -/
def State.lookoutEarly (s : State) : Bool :=
  s.flag STD_LKO_STAT_ARMED && s.lko.lower && !s.flag STD_LKO_STAT_OPEN && s.lkoMin != 0 &&
    decide (s.now < s.lko.from_ + s.lkoMin + s.lkoMin / 100 + 61000)

/-- A service write by a hart: one of another stand resets the module and faults, and one that R110 keeps from the block
faults and changes nothing; Seedling services Lookout itself (R543). -/
def State.lookoutWrite (s : State) (h : Nat) (act : State → State) : State :=
  if !s.deviceOpen h 0x10200000 then s.answer .storeFault
  else if h ≠ 0 then (s.lookoutReset 5).answer .storeFault
  else if s.fwu.seed.isSome then s
  else (act s).answer .done

/-- The first service write: nothing counts before the second. -/
def State.serviceFirst (s : State) : State := { s with lko := { s.lko with first := some s.now } }

/-- A service is complete; the first one after an activation ends its pause, and an attach that waited takes place. -/
def State.serviced (s : State) : State :=
  let a := match s.fwu.pause with | some z => z.attach | none => .none
  s.lookoutServed.pauseEnds.attach a

/-- The second service write, at which the service counts: a wrong or late one, one before MIN, or a service. -/
def State.serviceSecond (s : State) (v : Nat) : State :=
  match s.lko.first with
  | none => s
  | some f =>
    if v ≠ 0x5AA5 ∨ f + 64000 < s.now then s.lookoutReset 3
    else if s.lookoutEarly then s.lookoutReset 1
    else s.serviced

/-- A write to STD_LKO_SVC (R151): the second of a service where a first is awaited, the first value again being a wrong
second one; else a first one where it has the first value. -/
def State.lkoSvc (s : State) (v : Nat) : State :=
  if s.lko.first.isSome then s.serviceSecond v else if v = 0xA55A then s.serviceFirst else s

def execLookoutServiceFirst (hart : Fin 12) (t : Nat) (s : State) : Host.Outcome State Fault Refusal :=
  let s := s.begin t
  .next (if s.hartRuns hart then s.lookoutWrite hart fun s => s.lkoSvc 0xA55A else s)

def execLookoutServiceSecond (hart : Fin 12) (v : BitVec 32) (t : Nat) (s : State) : Host.Outcome State Fault Refusal :=
  let s := s.begin t
  .next (if s.hartRuns hart then s.lookoutWrite hart fun s => s.lkoSvc v.toNat else s)

/-- LOOKOUT_TIMEOUT: no service by MAX. -/
def State.lookoutTimeout (s : State) : State :=
  if s.flag STD_LKO_STAT_ARMED && !s.flag STD_LKO_STAT_SUSP && s.fwu.seed.isNone && s.edgeCame s.lkoMax then s.lookoutReset 2
  else s

def execLookoutTimeout (t : Nat) (s : State) : Host.Outcome State Fault Refusal := .next (s.begin t).lookoutTimeout

/-- LOOKOUT_SEQUENCE_TIMEOUT: the second write has not come within 64 µs; while Lookout is suspended nothing is judged
(R145, R153). -/
def State.lookoutSequence (s : State) : State :=
  match s.lko.first with
  | none => s
  | some f => if f + 64000 < s.now ∧ s.rd STD_LKO_STAT_SUSP = 0 then s.lookoutReset 3 else s

def execLookoutSequenceTimeout (t : Nat) (s : State) : Host.Outcome State Fault Refusal := .next (s.begin t).lookoutSequence

/-- The limit of R153 and R540: 5 s after the start, or 250 ms after an activation. -/
def State.startLimit (s : State) : Nat :=
  match s.fwu.pause with
  | some z => z.at_ + 250000000
  | none => s.pw.start.at_ + 5000000000

/-- LOOKOUT_START_LIMIT: no service has come by the limit, Lookout not being suspended then (R145, R153). -/
def State.lookoutStartLimit (s : State) : State :=
  if !s.pw.start.serviced && !s.flag STD_LKO_STAT_SUSP && s.fwu.seed.isNone && decide (s.startLimit ≤ s.now) then s.lookoutReset 4 else s

def execLookoutStartLimit (t : Nat) (s : State) : Host.Outcome State Fault Refusal := .next (s.begin t).lookoutStartLimit

def execLookoutWindowOpen (t : Nat) (s : State) : Host.Outcome State Fault Refusal := .next (s.begin t).lookoutOpen

end Sys2Proof.Machine
end

