-- ==== Sys2Proof/Machine/Registers.lean ====
section
/-!
DEFINITION. Reads and writes of device registers by address (R13 to R17, R100, R142, R154, R237, R275, R304, R346, R377,
R397, R427, R428, R454, R471, R472, R498, R526 to R528, R549, R566, R567). A write to a register that is a command of its
own takes that command's step; every other field is set, cleared or ignored by its access code.
-/

namespace Sys2Proof.Machine

/-! ### The access codes (R16) -/

/-- What a write of v leaves in a field that holds `old`. -/
def written (acc : Acc) (old v : Nat) : Nat :=
  match acc with
  | .rw => v
  | .w1c => old ^^^ (old &&& v)
  | .w1s => old ||| v
  | _ => old

/-- A field of the register at an address. -/
def RowField.at_ (f : RowField) (addr : Nat) : Fld := Fld.at addr f.lo f.w f.rst

/-- What a write carries to a field: ones that would clear bits which an event set in the same fabric clock do not count
(R17). -/
def State.carried (s : State) (addr v : Nat) (f : RowField) : Nat :=
  let x := bitsAt v f.lo f.w
  if f.acc = .w1c then x - (x &&& s.hit (f.at_ addr)) else x

/-- A write to one field. -/
def State.writeField (s : State) (addr v : Nat) (f : RowField) : State :=
  s.wr (f.at_ addr) (written f.acc (s.rd (f.at_ addr)) (s.carried addr v f))

/-- A write to the fields of a register by their access codes; an offset without a register ignores it (R14). -/
def State.plainWrite (s : State) (addr v : Nat) : State :=
  match regFields addr with
  | none => s
  | some fs => fs.foldl (fun s f => s.writeField addr v f) s

/-- The stored value of a register as a read shows it: a WO field reads 0, and so does an offset without a register. -/
def State.plainRead (s : State) (addr : Nat) : Nat :=
  match regFields addr with
  | none => 0
  | some fs => fs.foldl (fun w f => w + 2 ^ f.lo * (if f.acc = .wo then 0 else s.rd (f.at_ addr))) 0

/-- The read-clear fields of a register are cleared, but one that an event counted in the same fabric clock keeps the
event's value (R17). -/
def State.readClear (s : State) (addr : Nat) : State :=
  match regFields addr with
  | none => s
  | some fs => fs.foldl (fun s f => if f.acc = .rc ∧ s.hit (f.at_ addr) = 0 then s.wr (f.at_ addr) 0 else s) s

/-! ### Masters -/

/-- The hart as which a master acts where a register asks who writes it: the debug transport acts through lane A of the
stand it is attached to (R142, R143). -/
def State.actor (s : State) (m : RegMaster) : Option (Fin 12) :=
  match m with
  | .hart h => some h
  | .debugger => match s.dbg with | .stand k => some (Fin.ofNat 12 (k % 4)) | _ => none

/-- An action that needs such a hart. -/
def State.viaHart (s : State) (m : RegMaster) (f : Fin 12 → State) : State :=
  match s.actor m with
  | some h => f h
  | none => s.answer .debugError

/-- An action that counts only as a store of a running stand: a debugger's write does nothing. -/
def State.byStand (s : State) (m : RegMaster) (f : Fin 12 → State) : State :=
  match m with
  | .hart h => f h
  | .debugger => s

/-- The token of a command register. -/
def token (v : Nat) : Nat := bitsAt v 24 8

/-! ### Writes, block by block -/

/-- SYS_: SYS_RST by S0 or a stand that may reset it, SYS_FRST. -/
def State.sysWrite (s : State) (m : RegMaster) (o v : Nat) : State :=
  match o with
  | 0x18 => s.viaHart m fun h =>
    if !s.permits (hartStand h) 0 then s.answer .storeFault
    else if v = 0x5254 then s.softwareReset (hartStand h) else s
  | 0x1C => if token v = 0x46 then s.engineReset (v % 4) else s
  | _ => s

/-- PWR_ and CLK_: PWR_CMD by S0. -/
def State.pwrWrite (s : State) (m : RegMaster) (o v : Nat) : State :=
  if o = 4 then
    s.viaHart m fun h => s.pwrCommand (hartStand h) fun s =>
      if token v ≠ 0x50 then s
      else
        match v % 8 with
        | 1 => s.rest
        | 2 => s.lowEnter false
        | 3 => s.lowEnter true
        | 4 => s.lowCancel
        | _ => s
  else s.plainWrite (0x10100000 + o) v

/-- STD_. -/
def State.stdWrite (s : State) (m : RegMaster) (o v : Nat) : State :=
  let k := (o - 0x100) / 0x100
  if o = 0x24 then s.byStand m fun h => s.lookoutWrite h fun s => s.lkoSvc v
  else if o = 0x34 then s.softEvents v
  else if 0x100 ≤ o ∧ o < 0x500 ∧ o % 0x100 = 0x00 then s.viaHart m fun h => s.modeReq h k v
  else if 0x100 ≤ o ∧ o < 0x500 ∧ o % 0x100 = 0x38 then
    s.viaHart m fun h =>
      if v = 0x5254 || !s.permits (hartStand h) k then s.standRst h k else s
  else s.plainWrite (0x10200000 + o) v

/-- LE_Ee_CMD: the command of its low bits. -/
def State.leCommand (s : State) (e v : Nat) : State :=
  match v % 16 with
  | 1 => s.leLoadCmd e
  | 2 => s.leDiscard e
  | 3 => s.leSwapCmd e
  | 4 => s.leRestartCmd e true
  | 5 => s.leRestartCmd e false
  | 6 => s.leStopCmd e
  | _ => s

/-- LE_Ee_DBG_CTL, from the debug transport alone; x is the gap of a swap that waits at the boundary. -/
def State.leDebugCtl (s : State) (e v x : Nat) : State :=
  match v % 16 with
  | 1 => s.leHaltCmd e
  | 2 => s.leResumeCmd e x
  | 3 => s.leStepCmd (Fin.ofNat 4 e) x
  | 4 => s.leStepcycCmd e x
  | _ => s

/-- LE_: commands with token 0x4C, force entries, and what only the debug transport may write. -/
def State.leWrite (s : State) (m : RegMaster) (o v x : Nat) : State :=
  let e := (o - 0x1000) / 0x1000
  let r := o % 0x1000
  if 0x1000 ≤ o ∧ o < 0x5000 then
    if r = 0 then (if token v = 0x4C then s.leCommand e v else s)
    else if r = 0x80 then (if m = .debugger then s.leDebugCtl e v x else s)
    else if 0x90 ≤ r ∧ r < 0xA0 then (if m = .debugger then s.plainWrite (0x10300000 + o) v else s)
    else if 0x800 ≤ r ∧ r % 8 = 0 then s.forceCommit e ((r - 0x800) / 8) v
    else s.plainWrite (0x10300000 + o) v
  else s

/-- ECC_: the fill engine, the test window, and scrubbing switched off with LIMIT = 0; x is the row count of an aborted
fill, or what has changed in the test row since it was written. -/
def State.eccWrite (s : State) (o v x : Nat) : State :=
  if o = 0x34 then
    if token v ≠ 0x46 then s
    else
      let s := if bitAt v 0 then s.fillStart else s
      if bitAt v 1 then s.fillAbort x else s
  else if o = 0x800 then (if token v = 0x54 ∧ 1 ≤ v % 8 ∧ v % 8 ≤ 4 then s.tstOp (v % 8) x else s)
  else
    let s := s.plainWrite (0x10400000 + o) v
    if (o = 0x104 ∨ o = 0x124) ∧ s.rd (ECC_SCRm_LIMIT_ROW ((o - 0x104) / 0x20)) = 0 then
      (s.setLap ((o - 0x104) / 0x20) none).wr (ECC_SCRm_STAT_RUN ((o - 0x104) / 0x20)) 0
    else s

/-- IOG_: acknowledges, function resets, and flags that a write clears. -/
def State.iogWrite (s : State) (o v : Nat) : State :=
  if 0x100 ≤ o ∧ o < 0x400 ∧ o % 0x40 = 0x28 then
    if token v ≠ 0x41 then s
    else
      let g := (o - 0x100) / 0x40
      let s := s.channelAck g (v % 0x10000)
      if bitAt v 16 then s.supplyAck g else s
  else if 0x100 ≤ o ∧ o < 0x400 ∧ o % 0x40 = 0x2C then (if v = 0x5254 then s.groupReset ((o - 0x100) / 0x40) else s)
  else
    let s := s.plainWrite (0x10600000 + o) v
    if 0x1000 ≤ o ∧ o < 0x2800 ∧ o % 0x20 = 0x14 then s.syncChan ((o - 0x1000) / 0x20) else s

/-- Whether a blaze that this module receives goes to host buffer h. -/
def State.hbufReceives (s : State) (h : Nat) : Bool :=
  (List.range s.blazeCount).any fun b => (s.sink (s.entry b)).any fun (k : Sink) => k.host == some h

/-- The code in ECC_UE_INFO of who makes a register access. -/
def masterOf (m : RegMaster) : Nat := match m with | .hart h => hartStand h | .debugger => 0x27

/-- A word written to host buffer h (R331): to the back half, which reads of a transmit buffer show; of a receive
buffer no read shows it, and the next reception replaces it. -/
def State.hbufWrite (s : State) (master o v : Nat) : State :=
  let h := o % 0x40000 / 0x800
  if !s.flag (CNP_HBUFh_STAT_DIR h) && s.hbufReceives h then s
  else
    let q := s.mergeStore master (0x10800000 + o) (leBytes 4 v)
    if q.1 then q.2 else q.2.answer .storeFault

/-- CNP_: spare blazes, commits, plane resets, host buffers. -/
def State.cnpWrite (s : State) (m : RegMaster) (o v : Nat) : State :=
  if o = 0x6C then
    if token v ≠ 0x43 then s
    else
      match v % 8 with
      | 1 => s.claimRequest (bitsAt v 3 11)
      | 3 => s.releaseRequest
      | 4 => s.listenRequest (bitsAt v 3 11)
      | _ => s
  else if o = 0x74 then (if s.flag (CNP_HBUFh_STAT_DIR (v % 64)) then s.hbufCommit (v % 64) else s)
  else if o = 0x78 then (if v % 0x10000 = 0x5254 ∧ v < 0x20000 then s.planeResetStart (v / 0x10000) else s)
  else if 0x40000 ≤ o ∧ o < 0x60000 then s.hbufWrite (masterOf m) o v
  else s.plainWrite (0x10800000 + o) v

/-- RWY_: the reset, windows, apertures. -/
def State.rwyWrite (s : State) (o v : Nat) : State :=
  if o = 8 then (if v = 0x5254 then s.rootwayReset else s)
  else if 0x2000 ≤ o ∧ o < 0x2080 ∧ o % 0x20 = 4 then s.aperEnable ((o - 0x2000) / 0x20) v
  else
    let s := s.plainWrite (0x10900000 + o) v
    if 0x1000 ≤ o ∧ o < 0x1200 ∧ o % 0x20 < 8 then s.rwResolve ((o - 0x1000) / 0x20) else s

/-- UST_Pp: configuration is open to writes while EN is 0 (R423); a port has the bits of its type (R428). -/
def State.portWrite (s : State) (p r v : Nat) : State :=
  let a := 0x10A01000 + 0x1000 * p + r
  let en := s.flag (UST_Pp_CFG_EN p)
  if r = 0 then
    if !en && bitAt v 0 then s.portEnable p v
    else if en && !bitAt v 0 then s.portDisable p
    else if en then s
    else s.plainWrite a (v &&& cfgMask p)
  else if r = 0x10 then (if v = 0x5254 then s.portReset p else s)
  else if r = 0x2C then s.plainWrite a v
  else if r = 0x3C then (s.plainWrite a v).portStart p
  else if en then s
  else if r = 4 then
    if p < 2 then s.plainWrite a v else if p = 3 ∨ p = 4 then s.plainWrite a (v % 2 ^ 24) else s
  else s.plainWrite a v

/-- UST_. -/
def State.ustWrite (s : State) (o v : Nat) : State :=
  if 0x1000 ≤ o ∧ o < 0x7000 then s.portWrite ((o - 0x1000) / 0x1000) (o % 0x1000) v
  else
    let s := s.plainWrite (0x10A00000 + o) v
    if 0x100 ≤ o ∧ o < 0x500 ∧ o % 0x20 < 8 then s.tunResolve ((o - 0x100) / 0x20) else s

/-- Whether the registers of unit u ignore writes: U0 to U2 bound to safe transport under the lock. -/
def State.unitLocked (s : State) (u : Nat) : Bool := u < 3 && s.flag CVU_CTXLOCK_LOCK && s.flag (CVU_Uu_CFG_SAFE u)

/-- CVU_Uu; the EN of a unit that failed its test stays 0 (R462). -/
def State.cvuUnitWrite (s : State) (u r v : Nat) : State :=
  let a := 0x10B00100 + 0x40 * u + r
  if s.unitLocked u then s
  else if r = 0x2C then (if bitAt v 0 then s.unitRestart u else s)
  else
    let s := s.plainWrite a v
    if r = 0 && bitAt s.cop.unitDead u then s.wr (CVU_Uu_CFG_EN u) 0 else s

/-- Whether a master can make an access at all: a hart that runs, the debug transport while it is attached. -/
def State.mayAccess (s : State) (m : RegMaster) : Bool :=
  match m with
  | .hart h => s.hartRuns h
  | .debugger => s.pw.phase == .running && s.dbg != .none

/-- Whether a master's write reaches the block of an address: a SPLIT lane may be kept from it (R110). -/
def State.mayReach (s : State) (m : RegMaster) (addr : Nat) : Bool :=
  match s.actor m with
  | some h => s.deviceOpen h addr
  | none => true

/-- Whether a write of a word at an address is one of a context's configuration words. -/
def ctxWord (addr : Nat) : Bool := inRange 0x10B01000 0x10B02000 addr && decide (addr % 0x20 ≤ 0x10)

/-- The writes to configuration words of contexts that fall into this fabric clock, of the commands that wait: they
land before the lock check sees them (R395). -/
def State.ctxWritesLand (s : State) : State :=
  s.pending.foldl (fun s c => match c with
    | .registerWrite m addr size v _ t =>
      if t == s.now && s.mayAccess m && s.mayReach m addr.toNat && size.val == 2 && addr.toNat % 4 == 0 && ctxWord addr.toNat then
        s.plainWrite addr.toNat v.toNat
      else s
    | _ => s) s

/-- A write of LOCK (R384); while the lock holds it is ignored (R395). -/
def State.contextLock (s : State) : State := if s.flag CVU_CTXLOCK_LOCK then s else s.ctxWritesLand.ctxLock

def execContextLock (t : Nat) (s : State) : Host.Outcome State Fault Refusal :=
  let s := s.begin t
  .next (if s.pw.phase == .running then s.contextLock else s)

/-- CVU_: the lock, the reset, units, contexts. -/
def State.cvuWrite (s : State) (o v : Nat) : State :=
  if o = 4 then (if bitAt v 0 then s.contextLock else s)
  else if o = 8 then (if v = 0x5254 then s.cvuReset else s)
  else if 0x100 ≤ o ∧ o < 0x300 then s.cvuUnitWrite ((o - 0x100) / 0x40) (o % 0x40) v
  else if 0x1000 ≤ o ∧ o < 0x2000 then
    if o % 0x20 ≤ 0x10 then (if s.flag CVU_CTXLOCK_LOCK then s else s.plainWrite (0x10B00000 + o) v)
    else (s.plainWrite (0x10B00000 + o) v).syncCtx ((o - 0x1000) / 0x20)
  else s.plainWrite (0x10B00000 + o) v

/-- REC_: the reset, submissions in the registers REC_Hh of the writing hart alone (R480; beside them lies no register,
R14), reads; x is the records copied before an abort. -/
def State.recWrite (s : State) (m : RegMaster) (o v x : Nat) : State :=
  let a := 0x10C00000 + o
  if o = 8 then (if v = 0x5254 then s.recorderReset x else s)
  else if 0x100 ≤ o ∧ o < 0x1C0 ∧ o % 0x10 < 12 then
    s.viaHart m fun h =>
      if h.val ≠ (o - 0x100) / 0x10 then s.answer .storeFault
      else if o % 0x10 = 4 then (if token v = 0x52 then s.submit h else s)
      else s.plainWrite a v
  else if o = 0x210 then
    if token v ≠ 0x52 then s
    else
      match v % 4 with
      | 1 => s.readStart (bitAt v 2)
      | 2 => s.readAbort x
      | _ => s
  else s.plainWrite a v

/-- FWU_CMD: the command of its OP, from a stand. -/
def State.fwuWriteCmd (s : State) (h : Fin 12) (v : Nat) : State :=
  match v % 16 with
  | 1 => stateOf s (execFwOpen h s.now s)
  | 2 => stateOf s (execFwPiece h s.now s)
  | 3 => stateOf s (execFwAbandon h s.now s)
  | 4 => stateOf s (execFwPrepare h s.now s)
  | 5 => stateOf s (execFwActivate h s.now s)
  | 6 => stateOf s (execFwConfirm h s.now s)
  | 7 => stateOf s (execFwBitmap h s.now s)
  | 8 => stateOf s (execFwSeedling h s.now s)
  | 9 => stateOf s (execFwUnprepare h s.now s)
  | _ => s

/-- FWU_: a write of FWU_CMD by a SPLIT lane is a store access fault whatever it holds (R535). -/
def State.fwuWrite (s : State) (m : RegMaster) (o v : Nat) : State :=
  if o = 4 then
    s.viaHart m fun h =>
      if s.hartSplit h then s.answer .storeFault else if token v = 0x55 then s.fwuWriteCmd h v else s
  else s.plainWrite (0x10D00000 + o) v

/-- KEY_. -/
def State.keyWrite (s : State) (o v : Nat) : State :=
  if o = 0x64 then (if v = 0x434F4E46 then s.confWrite else s) else s.plainWrite (0x10E00000 + o) v

/-- BIST_. -/
def State.bistWrite (s : State) (o v : Nat) : State :=
  if o = 4 then
    if token v ≠ 0x42 then s
    else
      match v % 4 with
      | 1 => s.bistStart
      | 2 => s.bistAbort
      | 3 => s.bistDepot
      | _ => s
  else s.plainWrite (0x10F00000 + o) v

/-- A write of v at an offset of a populated block. RNG_ is a mirror that no write reaches (R304). -/
def State.blockWrite (s : State) (m : RegMaster) (b o v x : Nat) : State :=
  match b with
  | 0 => s.sysWrite m o v
  | 1 => s.pwrWrite m o v
  | 2 => s.stdWrite m o v
  | 3 => s.leWrite m o v x
  | 4 => s.eccWrite o v x
  | 5 => s.plainWrite (0x10500000 + o) v
  | 6 => s.iogWrite o v
  | 7 => s
  | 8 => s.cnpWrite m o v
  | 9 => s.rwyWrite o v
  | 10 => s.ustWrite o v
  | 11 => s.cvuWrite o v
  | 12 => s.recWrite m o v x
  | 13 => s.fwuWrite m o v
  | 14 => s.keyWrite o v
  | _ => s.bistWrite o v

/-! ### Accesses (R13, R14, R110, R566) -/

/-- Whether an address lies in the device register range. -/
def isDevice (addr : Nat) : Bool := inRange 0x10000000 0x20000000 addr

/-- Whether an address lies in no range of R565. -/
def isHole (addr : Nat) : Bool :=
  !(inRange 0 0x10000 addr || inRange 0x1000000 0x2000000 addr || inRange 0x10000000 0x80000000 addr ||
    inRange 0x800000000 0xA00000000 addr)

/-- Whether an access of 2^size bytes is one that a register accepts: aligned, 32 bits wide, in a block with a prefix.
-/
def regOk (addr size : Nat) : Bool := size == 2 && addr % 4 == 0 && inRange 0x10000000 0x11000000 addr

/-- An access that faults changes nothing; the debug transport reports a debug error. -/
def State.accessFault (s : State) (m : RegMaster) (r : Resp) : State :=
  s.answer (match m with | .hart _ => r | .debugger => .debugError)

/-- A write that has been carried out is acknowledged; where it ended in a fault, the debug transport reports an
error. -/
def State.acknowledged (s : State) (m : RegMaster) : State :=
  match s.resp, m with
  | .none, _ => s.answer .done
  | .storeFault, .debugger => s.answer .debugError
  | _, _ => s

/-- A register write. -/
def State.regWrite (s : State) (m : RegMaster) (addr size v x : Nat) : State :=
  if !regOk addr size then s.accessFault m .storeFault
  else
    if !s.mayReach m addr then s.accessFault m .storeFault
    else (s.blockWrite m (addr / 0x100000 % 0x100) (addr % 0x100000) v x).acknowledged m

/-- REGISTER_WRITE: a master stores v with 2^size bytes. x is what the command that a register stands for takes from
outside: the rows a fill had written, the records a read had copied, the gap of a swap, the disturbance of a test row.
-/
def State.registerWrite (s : State) (m : RegMaster) (addr size v x : Nat) : State :=
  if !s.mayAccess m then (match m with | .hart _ => s | .debugger => s.answer .debugError)
  else if isDevice addr then s.regWrite m addr size v x
  else if isHole addr then s.accessFault m .storeFault
  else s

def execRegisterWrite (m : RegMaster) (addr : BitVec 36) (size : Fin 4) (v : BitVec 32) (x : Nat) (t : Nat) (s : State) :
    Host.Outcome State Fault Refusal :=
  .next ((s.begin t).registerWrite m addr.toNat size v.toNat x)

/-! ### Reads -/

/-- The age of the front half of a host buffer in 10 µs, 0 before its first exchange since the last reset (R18, R346).
-/
def State.hbufAge (s : State) (h : Nat) : Nat :=
  if (s.hbuf h).seen then sat 16 ((s.now - (s.hbuf h).stamp) / 10000) else 0

/-- The registers whose value is not stored: what they show now; none for every other register. -/
def State.liveView (s : State) (addr : Nat) : Option Nat :=
  if addr = 0x10800040 then some (s.now % 2 ^ 32)
  else if addr = 0x10800048 then some (s.cycleNo % 2 ^ 32)
  else if addr = 0x10100040 then some (((s.moduleNext).getD (2 ^ 64 - 1)) % 2 ^ 32)
  else if addr = 0x10100044 then some (((s.moduleNext).getD (2 ^ 64 - 1)) / 2 ^ 32 % 2 ^ 32)
  else if addr = 0x10D00010 then some s.condMask
  else if addr = 0x10100800 then some ((List.range 14).foldl (fun m d => if bitAt s.clocksOff d then setBit m d false else m)
    (s.rd CLK_STAT_OK))
  else if addr = 0x10100808 then some s.clocksOff
  else if addr = 0x10A03004 then some 1500000
  else if 0x10860000 ≤ addr ∧ addr < 0x10860100 then
    some (s.plainRead addr % 256 + 256 * s.hbufAge (addr % 0x10000 / 4) + 2 ^ 24 * (s.plainRead addr / 2 ^ 24))
  else if 0x10600100 ≤ addr ∧ addr < 0x10600400 ∧ addr % 0x40 = 0x0C then
    let g := addr / 0x40 % 0x10 - 4
    if s.flag (IOG_Gg_STAT_SCANOK g) then some (s.ageUs (s.group g).image.stamp) else none
  else none

/-- The claim register at an address: its stand and context. -/
def claimReg (addr : Nat) : Option (Nat × Bool) :=
  if 0x10200100 ≤ addr ∧ addr < 0x10200500 then
    if addr % 0x100 = 0x44 then some (addr / 0x100 % 0x10 - 1, false)
    else if addr % 0x100 = 0x48 then some (addr / 0x100 % 0x10 - 1, true)
    else none
  else none

/-- The window whose fence register lies at an address. -/
def fenceReg (addr : Nat) : Option Nat :=
  if 0x10901000 ≤ addr ∧ addr < 0x10901200 ∧ addr % 0x20 = 8 then some (addr % 0x200 / 0x20) else none

/-- The value of a register as a read that clears nothing shows it. -/
def State.regValue (s : State) (addr : Nat) : Nat :=
  match claimReg addr, fenceReg addr with
  | some (k, sup), _ => match s.offered k sup (s.pendVec k) with | none => 0 | some i => 2 ^ 31 + i
  | none, some w => (tblFind w s.rwy.fails).getD 0
  | none, none => (s.liveView addr).getD (s.plainRead addr)

/-- The registers of which a read latches others (R346, R490, R498). -/
def State.readLatches (s : State) (addr : Nat) : State :=
  if addr = 0x10800040 then (s.wr CNP_TIME_LO s.now).wr CNP_TIME_HI (s.now / 2 ^ 32)
  else if addr = 0x10C00010 then s.oldestRead
  else if addr = 0x10C00020 then s.nextRead
  else s

/-- A register read that the module completes. The RATE of the service Ethernet reads the line rate, which its 24 bits
cannot hold: a free value. -/
def State.regReadAt (s : State) (m : RegMaster) (addr : Nat) : State :=
  if inRange 0x10840000 0x10860000 addr then
    let q := s.seeRange (masterOf m) (match m with | .hart _ => 0 | .debugger => 3) addr 4
    if q.1 then q.2.accessFault m .loadFault else q.2.answer (.ok (leNat (q.2.bytes addr 4)))
  else if addr = 0x10A06004 then
    let (v, s) := s.free
    s.answer (.ok (v % 2 ^ 24))
  else
    let s := s.readLatches addr
    let v := s.regValue addr
    match m with
    | .debugger => s.answer (.ok v)
    | .hart h =>
      match claimReg addr, fenceReg addr with
      | some (k, sup), _ => s.claim k sup
      | none, some w => s.fenceRead h w
      | none, none => (s.readClear addr).answer (.ok v)

/-- A register read with 2^size bytes. -/
def State.regRead (s : State) (m : RegMaster) (addr size : Nat) : State :=
  if regOk addr size then s.regReadAt m addr else s.accessFault m .loadFault

/-- REGISTER_READ: a master loads 2^size bytes. -/
def State.registerRead (s : State) (m : RegMaster) (addr size : Nat) : State :=
  if !s.mayAccess m then (match m with | .hart _ => s | .debugger => s.answer .debugError)
  else if isDevice addr then s.regRead m addr size
  else if isHole addr then s.accessFault m .loadFault
  else s

def execRegisterRead (m : RegMaster) (addr : BitVec 36) (size : Fin 4) (t : Nat) (s : State) :
    Host.Outcome State Fault Refusal :=
  .next ((s.begin t).registerRead m addr.toNat size)

end Sys2Proof.Machine
end

