-- ==== Sys2Proof/Machine/DebugAccess.lean ====
section
/-!
DEFINITION. The debugger's reads and writes at a stand (R142 to R144): through lane A of the attached stand, with the replay
queue for lanes B and C. What lane A's own registers and the boot ROM hold comes with the command.
-/

namespace Sys2Proof.Machine

/-- log2 of an access of 1, 2, 4 or 8 bytes; 3 for any other length. -/
def sizeCode (n : Nat) : Nat := if n = 1 then 0 else if n = 2 then 1 else if n = 4 then 2 else 3

/-- Whether n bytes from an address lie in logic-engine memories, or in Rootway windows. -/
def inLeRange (a : Nat) : Bool := inRange 0x20000000 0x40000000 a
def inWindows (a : Nat) : Bool := inRange 0x40000000 0x80000000 a

/-- A debug access that ended in a fault is reported as a debug error (R13, R566). -/
def State.debugChecked (s : State) : State :=
  match s.resp with
  | .loadFault => s.answer .debugError
  | .storeFault => s.answer .debugError
  | _ => s

/-- The numbers by which the debugger names registers: those of the RISC-V debug specification, CSRs from 0 and x0 to
x31 from 0x1000 (PRESUMED, log entry 94). A CSR from 0xC00 on is read-only. -/
abbrev regX0 : Nat := 0x1000
abbrev csrTime : Nat := 0xC01
abbrev csrMhartid : Nat := 0xF14
def regReadOnly (n : Nat) : Bool := inRange 0xC00 0x1000 n

/-- What a register of lane A reads: mhartid (R106), the agreed time (R127), on a halted stand a value that the
debugger has written since it last executed (R143), and otherwise `v`, which the spec leaves to the program. -/
def State.laneReg (s : State) (k n v : Nat) : Nat :=
  if n = regX0 then 0
  else if n = csrMhartid then k
  else if n = csrTime then (s.stand k).agreed.time
  else if s.standState k = stHalted then (tblFind n (s.stand k).arch).getD v
  else v

/-- DEBUG_READ_STAND (R142): `v` is what a register of lane A that the program has written, or the boot ROM, holds. No
read-clear field is cleared. -/
def State.debugRead (s : State) (k : Nat) (target : DbgTarget) (n v : Nat) : State :=
  match target with
  | .reg r => s.answer (.ok (s.laneReg k r v))
  | .mem a =>
    if a < 0x10000 then s.answer (.ok v)
    else if isHole a || isHole (a + n - 1) then s.answer .debugError
    else if isDevice a then
      if inRange 0x10840000 0x10860000 a || n == 4 then s.regRead .debugger a (sizeCode n) else s.answer .debugError
    else if inLeRange a then (s.leLoadAt 0x27 3 a n).debugChecked
    else if inWindows a then (s.windowLoad k a (sizeCode n)).debugChecked
    else
      let q := s.seeRange 0x27 3 a n
      if q.1 then q.2.answer .debugError else q.2.answer (.bytes (q.2.seen a n))

/-- In a core-exhausted module the debug transport reads registers of the module, attached to nothing (R105). -/
def State.exhaustedRead (s : State) (target : DbgTarget) (n : Nat) : State :=
  match target with
  | .mem a => if isDevice a && n == 4 then s.regRead .debugger a 2 else s.answer .debugError
  | .reg _ => s.answer .debugError

def execDebugReadStand (k : Fin 4) (target : DbgTarget) (n : Nat) (v : BitVec 64) (t : Nat) (s : State) :
    Host.Outcome State Fault Refusal :=
  let s := s.begin t
  .next (if s.pw.phase == .running && s.pw.exhausted then s.exhaustedRead target n
    else s.attached k fun s => s.debugRead k target n v.toNat)

/-- The entries a write takes in the replay queue: one per 8 bytes. -/
def replayEntries (target : DbgTarget) (bs : List Byte) : List Replay :=
  match target with
  | .reg n => [⟨0, n, leNat (bs.take 8)⟩]
  | .mem a => (List.range ((bs.length + 7) / 8)).map fun i => ⟨1, a + 8 * i, leNat (slice (8 * i) 8 bs)⟩

/-- What a debugger write does through lane A, in SPLIT within what R110 leaves it: a register of a halted lane A
holds the value from then on, that of a running one is the program's to change at once, and x0 holds nothing. -/
def State.debugApply (s : State) (k : Nat) (target : DbgTarget) (bs : List Byte) : State :=
  let n := bs.length
  match target with
  | .reg r =>
    if regReadOnly r then s.answer .debugError
    else if r = regX0 ∨ s.standState k ≠ stHalted then s.answer .done
    else (s.setStand k { s.stand k with arch := tblPut r (leNat (bs.take 8)) (s.stand k).arch }).answer .done
  | .mem a =>
    if n = 0 || isHole a || isHole (a + n - 1) || a < 0x10000 then s.answer .debugError
    else if isDevice a then (if n = 4 then s.regWrite .debugger a 2 (leNat bs) 0 else s.answer .debugError)
    else if !s.splitOpen k a n then s.answer .debugError
    else if inLeRange a then (s.leStoreAt a bs).debugChecked
    else if inWindows a then
      (if n = 2 ^ sizeCode n then (s.windowStore a (sizeCode n) (leNat bs)).debugChecked else s.answer .debugError)
    else if s.inRegion a n then s.answer .debugError
    else
      let q := s.mergeStore 0x27 a bs
      q.2.answer (if q.1 then .done else .debugError)

/-- The entries join the queue; STD_DBG_STAT shows its fill (R144). -/
def State.queueReplay (s : State) (k : Nat) (es : List Replay) : State :=
  let q := (s.stand k).replay ++ es
  (s.setStand k { s.stand k with replay := q }).wr STD_DBG_STAT_QFILL q.length

/-- DEBUG_WRITE_STAND (R143, R144): applied through lane A and queued for lanes B and C; a write that would need a 257th
entry, or that lane A cannot make, changes nothing. In SPLIT there is no replay. -/
def State.debugWrite (s : State) (k : Nat) (target : DbgTarget) (bs : List Byte) : State :=
  let es := if s.mode k = modeSplit then [] else replayEntries target bs
  if 256 < (s.stand k).replay.length + es.length then s.answer .debugError
  else
    let s' := s.debugApply k target bs
    if s'.resp = .debugError || es.isEmpty || s'.dbg != .stand k then s' else s'.queueReplay k es

def execDebugWriteStand (k : Fin 4) (target : DbgTarget) (bs : List Byte) (t : Nat) (s : State) :
    Host.Outcome State Fault Refusal :=
  .next ((s.begin t).attached k fun s => s.debugWrite k target bs)

end Sys2Proof.Machine
end

