-- ==== Sys2Proof/Machine/Marks.lean ====
section
/-!
DEFINITION. The cycle mark (R311): what begins with a cycle, in the order Canopy, outputs of Marked groups, takes, and the
steps of an entry to Slumber or Hibernate.
-/

namespace Sys2Proof.Machine

/-- The conditions of R92. -/
def State.mayTake (s : State) : Bool :=
  s.loaded && s.pw.start.ready && s.pw.start.applied && (s.cnp.observed || s.cnp.alone)

/-- The takes that fall at a mark: the first take after a restart (R92, R217), but during an entry to a low-power state,
and that of an engine that Slumber had parked (R505, R507). -/
def State.markTake (s : State) (e : Nat) : State :=
  let x := s.engine e
  if s.leState e = leRestarting ∧ x.await ∧ s.pmg.low.isNone then s.leTake e true false
  else if s.leState e = leParked ∧ s.pmg.low.isNone ∧ (s.joinState = joinActive ∨ s.cnp.alone) then s.leTake e false false
  else s

/-- CYCLE_MARK: no cyclic program starts while READY holds it back (R58); `noRes` has the rows for which no repair
resource is left, should the soft repairs of a Slumber entry fall here. -/
def State.cycleMark (s : State) (noRes : List Nat) : State :=
  if s.pw.phase != .running || s.now % s.tcNs != 0 then s
  else
    let s := s.canopyMark.inaMark.applyMarked
    let s : State := if s.mayTake then { s with pw := { s.pw with start := { s.pw.start with joined := true } } } else s
    let s := if s.pw.start.joined && s.pw.start.ready then [0, 1, 2, 3].foldl State.markTake s else s
    s.lowMark noRes

def execCycleMark (noRes : List Nat) (t : Nat) (s : State) : Host.Outcome State Fault Refusal :=
  .next ((s.begin t).cycleMark noRes)

end Sys2Proof.Machine
end

