-- ==== Sys2Proof/Machine/Dispatch.lean ====
section
/-!
DEFINITION. The one table from commands to their meanings.
-/

namespace Sys2Proof.Machine

/-- The effect of a command on everything but the queue. -/
def exec (i : Instr) (s : State) : Host.Outcome State Fault Refusal :=
  match i with
  | .registerWrite m addr size v x t => Sys2Proof.Machine.execRegisterWrite m addr size v x t s
  | .powerOn vstore t => Sys2Proof.Machine.execPowerOn vstore t s
  | .feedGood n t => Sys2Proof.Machine.execFeedGood n t s
  | .feedLost n t => Sys2Proof.Machine.execFeedLost n t s
  | .feedLowSet n t => Sys2Proof.Machine.execFeedLowSet n t s
  | .feedLowClear n t => Sys2Proof.Machine.execFeedLowClear n t s
  | .feedHighSet n t => Sys2Proof.Machine.execFeedHighSet n t s
  | .feedHighClear n t => Sys2Proof.Machine.execFeedHighClear n t s
  | .reverseCurrentEvent n t => Sys2Proof.Machine.execReverseCurrentEvent n t s
  | .feedReportRefresh va ia vb ib vstore t => Sys2Proof.Machine.execFeedReportRefresh va ia vb ib vstore t s
  | .holdupMeasured cap t => Sys2Proof.Machine.execHoldupMeasured cap t s
  | .readySet t => Sys2Proof.Machine.execReadySet t s
  | .readyClear t => Sys2Proof.Machine.execReadyClear t s
  | .flushEntry vstore t => Sys2Proof.Machine.execFlushEntry vstore t s
  | .flushSequencerHandover t => Sys2Proof.Machine.execFlushSequencerHandover t s
  | .flushSeal t => Sys2Proof.Machine.execFlushSeal t s
  | .storeExhausted t => Sys2Proof.Machine.execStoreExhausted t s
  | .pllLock t => Sys2Proof.Machine.execPllLock t s
  | .rangerKeyPhaseEnd busErr tick t => Sys2Proof.Machine.execRangerKeyPhaseEnd busErr tick t s
  | .keyReadDone fault t => Sys2Proof.Machine.execKeyReadDone fault t s
  | .keyApplyDone bad t => Sys2Proof.Machine.execKeyApplyDone bad t s
  | .firmwareLoadDone t => Sys2Proof.Machine.execFirmwareLoadDone t s
  | .aloneTimeout t => Sys2Proof.Machine.execAloneTimeout t s
  | .keyPresentChange m t => Sys2Proof.Machine.execKeyPresentChange m t s
  | .keyLatchChange closed t => Sys2Proof.Machine.execKeyLatchChange closed t s
  | .confirmationWrite t => Sys2Proof.Machine.execConfirmationWrite t s
  | .confirmationDone back t => Sys2Proof.Machine.execConfirmationDone back t s
  | .historyRecordWrite back t => Sys2Proof.Machine.execHistoryRecordWrite back t s
  | .voterMismatch k l item t => Sys2Proof.Machine.execVoterMismatch k l item t s
  | .voterXyDisagree k t => Sys2Proof.Machine.execVoterXyDisagree k t s
  | .coreBistDone c fail werr t => Sys2Proof.Machine.execCoreBistDone c fail werr t s
  | .agreementPoint k da db dc halts ta tb tc lat t => Sys2Proof.Machine.execAgreementPoint k da db dc halts ta tb tc lat t s
  | .handoverRequest hart k v t => Sys2Proof.Machine.execHandoverRequest hart k v t s
  | .handoverAccept k t => Sys2Proof.Machine.execHandoverAccept k t s
  | .standReset hart k t => Sys2Proof.Machine.execStandReset hart k t s
  | .debugAttach engine n t => Sys2Proof.Machine.execDebugAttach engine n t s
  | .debugDetach t => Sys2Proof.Machine.execDebugDetach t s
  | .debugHaltStand k t => Sys2Proof.Machine.execDebugHaltStand k t s
  | .debugStepStand k t => Sys2Proof.Machine.execDebugStepStand k t s
  | .debugResumeStand k t => Sys2Proof.Machine.execDebugResumeStand k t s
  | .debugReadStand k target n v t => Sys2Proof.Machine.execDebugReadStand k target n v t s
  | .debugWriteStand k target bs t => Sys2Proof.Machine.execDebugWriteStand k target bs t s
  | .claimRead hart k sup t => Sys2Proof.Machine.execClaimRead hart k sup t s
  | .softwareEvent hart bits t => Sys2Proof.Machine.execSoftwareEvent hart bits t s
  | .lookoutServiceFirst hart t => Sys2Proof.Machine.execLookoutServiceFirst hart t s
  | .lookoutServiceSecond hart v t => Sys2Proof.Machine.execLookoutServiceSecond hart v t s
  | .lookoutTimeout t => Sys2Proof.Machine.execLookoutTimeout t s
  | .lookoutSequenceTimeout t => Sys2Proof.Machine.execLookoutSequenceTimeout t s
  | .lookoutStartLimit t => Sys2Proof.Machine.execLookoutStartLimit t s
  | .standLeMemoryAccess hart addr size value t => Sys2Proof.Machine.execStandLeMemoryAccess hart addr size value t s
  | .leLd e mod x opnd => Sys2Proof.Machine.execLeLd e mod x opnd s
  | .leLdn e mod x opnd => Sys2Proof.Machine.execLeLdn e mod x opnd s
  | .leAnd e mod x opnd => Sys2Proof.Machine.execLeAnd e mod x opnd s
  | .leAndn e mod x opnd => Sys2Proof.Machine.execLeAndn e mod x opnd s
  | .leOr e mod x opnd => Sys2Proof.Machine.execLeOr e mod x opnd s
  | .leOrn e mod x opnd => Sys2Proof.Machine.execLeOrn e mod x opnd s
  | .leXor e mod x opnd => Sys2Proof.Machine.execLeXor e mod x opnd s
  | .leXorn e mod x opnd => Sys2Proof.Machine.execLeXorn e mod x opnd s
  | .leSt e mod x opnd => Sys2Proof.Machine.execLeSt e mod x opnd s
  | .leStn e mod x opnd => Sys2Proof.Machine.execLeStn e mod x opnd s
  | .leS e mod x opnd => Sys2Proof.Machine.execLeS e mod x opnd s
  | .leROp e mod x opnd => Sys2Proof.Machine.execLeROp e mod x opnd s
  | .leLds e mod x opnd => Sys2Proof.Machine.execLeLds e mod x opnd s
  | .leNot e mod x opnd => Sys2Proof.Machine.execLeNot e mod x opnd s
  | .leBopen e mod x opnd => Sys2Proof.Machine.execLeBopen e mod x opnd s
  | .leBclose e mod x opnd => Sys2Proof.Machine.execLeBclose e mod x opnd s
  | .leLdw e mod x opnd => Sys2Proof.Machine.execLeLdw e mod x opnd s
  | .leStw e mod x opnd => Sys2Proof.Machine.execLeStw e mod x opnd s
  | .leAdd e mod x opnd => Sys2Proof.Machine.execLeAdd e mod x opnd s
  | .leSub e mod x opnd => Sys2Proof.Machine.execLeSub e mod x opnd s
  | .leMul e mod x opnd => Sys2Proof.Machine.execLeMul e mod x opnd s
  | .leAndw e mod x opnd => Sys2Proof.Machine.execLeAndw e mod x opnd s
  | .leOrw e mod x opnd => Sys2Proof.Machine.execLeOrw e mod x opnd s
  | .leXorw e mod x opnd => Sys2Proof.Machine.execLeXorw e mod x opnd s
  | .leShl e mod x opnd => Sys2Proof.Machine.execLeShl e mod x opnd s
  | .leShr e mod x opnd => Sys2Proof.Machine.execLeShr e mod x opnd s
  | .leSar e mod x opnd => Sys2Proof.Machine.execLeSar e mod x opnd s
  | .leLdhi e mod x opnd => Sys2Proof.Machine.execLeLdhi e mod x opnd s
  | .leLdx e mod x opnd => Sys2Proof.Machine.execLeLdx e mod x opnd s
  | .leCeq e mod x opnd => Sys2Proof.Machine.execLeCeq e mod x opnd s
  | .leCne e mod x opnd => Sys2Proof.Machine.execLeCne e mod x opnd s
  | .leCgt e mod x opnd => Sys2Proof.Machine.execLeCgt e mod x opnd s
  | .leCge e mod x opnd => Sys2Proof.Machine.execLeCge e mod x opnd s
  | .leClt e mod x opnd => Sys2Proof.Machine.execLeClt e mod x opnd s
  | .leCle e mod x opnd => Sys2Proof.Machine.execLeCle e mod x opnd s
  | .leBtow e mod x opnd => Sys2Proof.Machine.execLeBtow e mod x opnd s
  | .leWtob e mod x opnd => Sys2Proof.Machine.execLeWtob e mod x opnd s
  | .leSig e mod x opnd => Sys2Proof.Machine.execLeSig e mod x opnd s
  | .leJmp e mod x opnd => Sys2Proof.Machine.execLeJmp e mod x opnd s
  | .leJc e mod x opnd => Sys2Proof.Machine.execLeJc e mod x opnd s
  | .leJcn e mod x opnd => Sys2Proof.Machine.execLeJcn e mod x opnd s
  | .leRet e mod x opnd => Sys2Proof.Machine.execLeRet e mod x opnd s
  | .leRetc e mod x opnd => Sys2Proof.Machine.execLeRetc e mod x opnd s
  | .leEnd e mod x opnd gap t => Sys2Proof.Machine.execLeEnd e mod x opnd gap t s
  | .leCallu e mod x opnd => Sys2Proof.Machine.execLeCallu e mod x opnd s
  | .leTon e mod opnd => Sys2Proof.Machine.execLeTon e mod opnd s
  | .leTof e mod opnd => Sys2Proof.Machine.execLeTof e mod opnd s
  | .leTp e mod opnd => Sys2Proof.Machine.execLeTp e mod opnd s
  | .leCtu e mod opnd => Sys2Proof.Machine.execLeCtu e mod opnd s
  | .leCtd e mod opnd => Sys2Proof.Machine.execLeCtd e mod opnd s
  | .leRTrig e mod opnd => Sys2Proof.Machine.execLeRTrig e mod opnd s
  | .leFTrig e mod opnd => Sys2Proof.Machine.execLeFTrig e mod opnd s
  | .leSr e mod opnd => Sys2Proof.Machine.execLeSr e mod opnd s
  | .leRs e mod opnd => Sys2Proof.Machine.execLeRs e mod opnd s
  | .leCmp e mod opnd => Sys2Proof.Machine.execLeCmp e mod opnd s
  | .leLimit e mod opnd => Sys2Proof.Machine.execLeLimit e mod opnd s
  | .leMove e mod opnd => Sys2Proof.Machine.execLeMove e mod opnd s
  | .leEqv2 e mod opnd => Sys2Proof.Machine.execLeEqv2 e mod opnd s
  | .illegalInstruction e word => Sys2Proof.Machine.execIllegalInstruction e word s
  | .leLaneMismatch e l t => Sys2Proof.Machine.execLeLaneMismatch e l t s
  | .leVoterXyDisagree e t => Sys2Proof.Machine.execLeVoterXyDisagree e t s
  | .leLoad e t => Sys2Proof.Machine.execLeLoad e t s
  | .admissionDone e t => Sys2Proof.Machine.execAdmissionDone e t s
  | .leDiscard e t => Sys2Proof.Machine.execLeDiscard e t s
  | .leSwap e t => Sys2Proof.Machine.execLeSwap e t s
  | .leWarm e t => Sys2Proof.Machine.execLeWarm e t s
  | .leCold e t => Sys2Proof.Machine.execLeCold e t s
  | .leStop e t => Sys2Proof.Machine.execLeStop e t s
  | .restartComplete e t => Sys2Proof.Machine.execRestartComplete e t s
  | .engineFunctionReset e t => Sys2Proof.Machine.execEngineFunctionReset e t s
  | .hostWindowWrite hart addr size value t => Sys2Proof.Machine.execHostWindowWrite hart addr size value t s
  | .forceCommit e n v t => Sys2Proof.Machine.execForceCommit e n v t s
  | .leHalt e t => Sys2Proof.Machine.execLeHalt e t s
  | .leResume e gap t => Sys2Proof.Machine.execLeResume e gap t s
  | .leStep e gap t => Sys2Proof.Machine.execLeStep e gap t s
  | .leStepcyc e gap t => Sys2Proof.Machine.execLeStepcyc e gap t s
  | .leBreakpoint e t => Sys2Proof.Machine.execLeBreakpoint e t s
  | .debugWriteEngine e w t => Sys2Proof.Machine.execDebugWriteEngine e w t s
  | .debugReadEngine e r t => Sys2Proof.Machine.execDebugReadEngine e r t s
  | .leNapEntry e t => Sys2Proof.Machine.execLeNapEntry e t s
  | .scannerSample levels t => Sys2Proof.Machine.execScannerSample levels t s
  | .outputStale g t => Sys2Proof.Machine.execOutputStale g t s
  | .counterEdge n level both t => Sys2Proof.Machine.execCounterEdge n level both t s
  | .frequencyGateTimeout n t => Sys2Proof.Machine.execFrequencyGateTimeout n t s
  | .statusLinkFrame g volt currs temp limit t => Sys2Proof.Machine.execStatusLinkFrame g volt currs temp limit t s
  | .statusLinkLost g t => Sys2Proof.Machine.execStatusLinkLost g t s
  | .supplyFallingCross g th t => Sys2Proof.Machine.execSupplyFallingCross g th t s
  | .supplyRisingCross g th t => Sys2Proof.Machine.execSupplyRisingCross g th t s
  | .offPulseSlot step t => Sys2Proof.Machine.execOffPulseSlot step t s
  | .outputTrip n t => Sys2Proof.Machine.execOutputTrip n t s
  | .thermalShutdown n t => Sys2Proof.Machine.execThermalShutdown n t s
  | .autoRetry n t => Sys2Proof.Machine.execAutoRetry n t s
  | .retriesClear n t => Sys2Proof.Machine.execRetriesClear n t s
  | .channelAck g mask t => Sys2Proof.Machine.execChannelAck g mask t s
  | .supplyAck g t => Sys2Proof.Machine.execSupplyAck g t s
  | .groupReset g t => Sys2Proof.Machine.execGroupReset g t s
  | .groupResetDone g t => Sys2Proof.Machine.execGroupResetDone g t s
  | .rangerLevelSample levels tick => Sys2Proof.Machine.execRangerLevelSample levels tick s
  | .rangerEvaluation chanDiff ratio tick t => Sys2Proof.Machine.execRangerEvaluation chanDiff ratio tick t s
  | .rangerEdge n level tick => Sys2Proof.Machine.execRangerEdge n level tick s
  | .rangerSafeCopy plane frame tick => Sys2Proof.Machine.execRangerSafeCopy plane frame tick s
  | .rangerConnectionTimeout c tick => Sys2Proof.Machine.execRangerConnectionTimeout c tick s
  | .rangerQuadHoldEnd pair tick => Sys2Proof.Machine.execRangerQuadHoldEnd pair tick s
  | .rangerParamCrcCheck crc tick t => Sys2Proof.Machine.execRangerParamCrcCheck crc tick t s
  | .rangerMirrorImage t => Sys2Proof.Machine.execRangerMirrorImage t s
  | .rangerMirrorLost t => Sys2Proof.Machine.execRangerMirrorLost t s
  | .cycleMark noRes t => Sys2Proof.Machine.execCycleMark noRes t s
  | .syncSlot t => Sys2Proof.Machine.execSyncSlot t s
  | .syncFrame port frame fcs res t => Sys2Proof.Machine.execSyncFrame port frame fcs res t s
  | .syncCorrection t => Sys2Proof.Machine.execSyncCorrection t s
  | .eventWindowOpen t => Sys2Proof.Machine.execEventWindowOpen t s
  | .eventFrame port frame fcs t => Sys2Proof.Machine.execEventFrame port frame fcs t s
  | .blazeDue b t => Sys2Proof.Machine.execBlazeDue b t s
  | .blazeFrame port frame fcs t => Sys2Proof.Machine.execBlazeFrame port frame fcs t s
  | .blazeJudgement b t => Sys2Proof.Machine.execBlazeJudgement b t s
  | .hostBufferCommit h t => Sys2Proof.Machine.execHostBufferCommit h t s
  | .timeRead t => Sys2Proof.Machine.execTimeRead t s
  | .claimRequest paylen t => Sys2Proof.Machine.execClaimRequest paylen t s
  | .releaseRequest t => Sys2Proof.Machine.execReleaseRequest t s
  | .listenRequest paylen t => Sys2Proof.Machine.execListenRequest paylen t s
  | .claimFrame frame t => Sys2Proof.Machine.execClaimFrame frame t s
  | .claimEffect t => Sys2Proof.Machine.execClaimEffect t s
  | .planeReset plane t => Sys2Proof.Machine.execPlaneReset plane t s
  | .planeResetDone plane t => Sys2Proof.Machine.execPlaneResetDone plane t s
  | .linkUp port t => Sys2Proof.Machine.execLinkUp port t s
  | .linkDown port t => Sys2Proof.Machine.execLinkDown port t s
  | .sideLossTimeout side t => Sys2Proof.Machine.execSideLossTimeout side t s
  | .trainStart port frame t => Sys2Proof.Machine.execTrainStart port frame t s
  | .trainHello port frame t => Sys2Proof.Machine.execTrainHello port frame t s
  | .trainDreq port frame t => Sys2Proof.Machine.execTrainDreq port frame t s
  | .trainDresp port frame t => Sys2Proof.Machine.execTrainDresp port frame t s
  | .trainRecord port frame t => Sys2Proof.Machine.execTrainRecord port frame t s
  | .trainBlazes port frame t => Sys2Proof.Machine.execTrainBlazes port frame t s
  | .trainDigest port frame t => Sys2Proof.Machine.execTrainDigest port frame t s
  | .trainCommit port frame t => Sys2Proof.Machine.execTrainCommit port frame t s
  | .neighbourTimeout t => Sys2Proof.Machine.execNeighbourTimeout t s
  | .inaugurationDeadline t => Sys2Proof.Machine.execInaugurationDeadline t s
  | .tableEffect t => Sys2Proof.Machine.execTableEffect t s
  | .contextLock t => Sys2Proof.Machine.execContextLock t s
  | .contextTimeout c t => Sys2Proof.Machine.execContextTimeout c t s
  | .unitRestart u t => Sys2Proof.Machine.execUnitRestart u t s
  | .unitFrameResult u t => Sys2Proof.Machine.execUnitFrameResult u t s
  | .cvuReset t => Sys2Proof.Machine.execCvuReset t s
  | .cvuResetDone t => Sys2Proof.Machine.execCvuResetDone t s
  | .windowLoad hart addr size t => Sys2Proof.Machine.execWindowLoad hart addr size t s
  | .windowStore hart addr size data t => Sys2Proof.Machine.execWindowStore hart addr size data t s
  | .windowLr hart addr size t => Sys2Proof.Machine.execWindowLr hart addr size t s
  | .windowSc hart addr size data t => Sys2Proof.Machine.execWindowSc hart addr size data t s
  | .windowAmo hart addr size fn data t => Sys2Proof.Machine.execWindowAmo hart addr size fn data t s
  | .rwRead plane node msg t => Sys2Proof.Machine.execRwRead plane node msg t s
  | .rwWrite plane node msg t => Sys2Proof.Machine.execRwWrite plane node msg t s
  | .rwLockrd plane node msg t => Sys2Proof.Machine.execRwLockrd plane node msg t s
  | .rwWrunlk plane node msg t => Sys2Proof.Machine.execRwWrunlk plane node msg t s
  | .rwUnlock plane node msg t => Sys2Proof.Machine.execRwUnlock plane node msg t s
  | .rwAmo plane node msg t => Sys2Proof.Machine.execRwAmo plane node msg t s
  | .rwPoll plane node msg t => Sys2Proof.Machine.execRwPoll plane node msg t s
  | .rwResp node msg t => Sys2Proof.Machine.execRwResp node msg t s
  | .rwWack node msg t => Sys2Proof.Machine.execRwWack node msg t s
  | .rootwayTimeout t => Sys2Proof.Machine.execRootwayTimeout t s
  | .lockExpiry a t => Sys2Proof.Machine.execLockExpiry a t s
  | .fenceRead hart w t => Sys2Proof.Machine.execFenceRead hart w t s
  | .doorbellPoll t => Sys2Proof.Machine.execDoorbellPoll t s
  | .apertureEnable a v t => Sys2Proof.Machine.execApertureEnable a v t s
  | .rootwayReset t => Sys2Proof.Machine.execRootwayReset t s
  | .tunnelFrame frame t => Sys2Proof.Machine.execTunnelFrame frame t s
  | .portFrameReceive p msg body fcs t => Sys2Proof.Machine.execPortFrameReceive p msg body fcs t s
  | .txRingWrite p tail t => Sys2Proof.Machine.execTxRingWrite p tail t s
  | .portEnable p v t => Sys2Proof.Machine.execPortEnable p v t s
  | .portDisable p t => Sys2Proof.Machine.execPortDisable p t s
  | .portReset p t => Sys2Proof.Machine.execPortReset p t s
  | .busoffRecovery p t => Sys2Proof.Machine.execBusoffRecovery p t s
  | .memoryRead m memid row off n upset verify dirty werr t => Sys2Proof.Machine.execMemoryRead m memid row off n upset verify dirty werr t s
  | .memoryWrite m addr bs poison upset verify werr t => Sys2Proof.Machine.execMemoryWrite m addr bs poison upset verify werr t s
  | .scrubRead m row upset verify dirty last werr t => Sys2Proof.Machine.execScrubRead m row upset verify dirty last werr t s
  | .scrubLapLimit m t => Sys2Proof.Machine.execScrubLapLimit m t s
  | .fillStart t => Sys2Proof.Machine.execFillStart t s
  | .fillAbort rows t => Sys2Proof.Machine.execFillAbort rows t s
  | .fillDone t => Sys2Proof.Machine.execFillDone t s
  | .writeRaw t => Sys2Proof.Machine.execWriteRaw t s
  | .readRaw upset t => Sys2Proof.Machine.execReadRaw upset t s
  | .encodeRow t => Sys2Proof.Machine.execEncodeRow t s
  | .checkRow upset t => Sys2Proof.Machine.execCheckRow upset t s
  | .bistStart t => Sys2Proof.Machine.execBistStart t s
  | .bistAbort t => Sys2Proof.Machine.execBistAbort t s
  | .bistDepot t => Sys2Proof.Machine.execBistDepot t s
  | .bistRunDone fail0 fail1 sig len rows noRes werr t => Sys2Proof.Machine.execBistRunDone fail0 fail1 sig len rows noRes werr t s
  | .nandBlockRetire block werr t => Sys2Proof.Machine.execNandBlockRetire block werr t s
  | .recordAccept bad t => Sys2Proof.Machine.execRecordAccept bad t s
  | .recordSubmit writer h t => Sys2Proof.Machine.execRecordSubmit writer h t s
  | .recorderFlushTimer t => Sys2Proof.Machine.execRecorderFlushTimer t s
  | .pageProgrammed lost t => Sys2Proof.Machine.execPageProgrammed lost t s
  | .oldestRead t => Sys2Proof.Machine.execOldestRead t s
  | .nextRead t => Sys2Proof.Machine.execNextRead t s
  | .recordReadStart heart t => Sys2Proof.Machine.execRecordReadStart heart t s
  | .recordReadAbort n t => Sys2Proof.Machine.execRecordReadAbort n t s
  | .recordReadDone err n t => Sys2Proof.Machine.execRecordReadDone err n t s
  | .recorderReset n t => Sys2Proof.Machine.execRecorderReset n t s
  | .recorderStart t => Sys2Proof.Machine.execRecorderStart t s
  | .rate24Update part t => Sys2Proof.Machine.execRate24Update part t s
  | .standWfi k t => Sys2Proof.Machine.execStandWfi k t s
  | .unitWake k t => Sys2Proof.Machine.execUnitWake k t s
  | .pwrRest k t => Sys2Proof.Machine.execPwrRest k t s
  | .pwrSlumber k t => Sys2Proof.Machine.execPwrSlumber k t s
  | .pwrHibernate k t => Sys2Proof.Machine.execPwrHibernate k t s
  | .pwrCancel k t => Sys2Proof.Machine.execPwrCancel k t s
  | .pwrWake src t => Sys2Proof.Machine.execPwrWake src t s
  | .softwareReset k t => Sys2Proof.Machine.execSoftwareReset k t s
  | .timeRealign t => Sys2Proof.Machine.execTimeRealign t s
  | .clockMonitorWindow dev khz t => Sys2Proof.Machine.execClockMonitorWindow dev khz t s
  | .referenceLoss t => Sys2Proof.Machine.execReferenceLoss t s
  | .fwOpen hart t => Sys2Proof.Machine.execFwOpen hart t s
  | .fwPiece hart t => Sys2Proof.Machine.execFwPiece hart t s
  | .fwAbandon hart t => Sys2Proof.Machine.execFwAbandon hart t s
  | .fwPrepare hart t => Sys2Proof.Machine.execFwPrepare hart t s
  | .fwActivate hart t => Sys2Proof.Machine.execFwActivate hart t s
  | .fwConfirm hart t => Sys2Proof.Machine.execFwConfirm hart t s
  | .fwBitmap hart t => Sys2Proof.Machine.execFwBitmap hart t s
  | .fwSeedling hart t => Sys2Proof.Machine.execFwSeedling hart t s
  | .fwUnprepare hart t => Sys2Proof.Machine.execFwUnprepare hart t s
  | .fwuCommandDone nandBad t => Sys2Proof.Machine.execFwuCommandDone nandBad t s
  | .seedlingAnnounce t => Sys2Proof.Machine.execSeedlingAnnounce t s
  | .fwHello x3 frame t => Sys2Proof.Machine.execFwHello x3 frame t s
  | .fwOffer x3 frame t => Sys2Proof.Machine.execFwOffer x3 frame t s
  | .fwGet x3 frame t => Sys2Proof.Machine.execFwGet x3 frame t s
  | .fwData x3 frame nandBad t => Sys2Proof.Machine.execFwData x3 frame nandBad t s
  | .fwNack x3 frame t => Sys2Proof.Machine.execFwNack x3 frame t s
  | .getRetryTimeout t => Sys2Proof.Machine.execGetRetryTimeout t s
  | .registerRead m addr size t => Sys2Proof.Machine.execRegisterRead m addr size t s
  | .referenceReturn t => Sys2Proof.Machine.execReferenceReturn t s
  | .lookoutWindowOpen t => Sys2Proof.Machine.execLookoutWindowOpen t s
  | .handoverResume k how t => Sys2Proof.Machine.execHandoverResume k how t s
  | .standResetDone k failMask t => Sys2Proof.Machine.execStandResetDone k failMask t s
  | .rootwayResetDone t => Sys2Proof.Machine.execRootwayResetDone t s
  | .portResetDone p t => Sys2Proof.Machine.execPortResetDone p t s
  | .recorderResetDone t => Sys2Proof.Machine.execRecorderResetDone t s
  | .portStateChange p up passive busoff lineb fdx tec rec errors t => Sys2Proof.Machine.execPortStateChange p up passive busoff lineb fdx tec rec errors t s
  | .portFrameTransmitted p t => Sys2Proof.Machine.execPortFrameTransmitted p t s
  | .etFrameSent port t => Sys2Proof.Machine.execEtFrameSent port t s
  | .slumberExitDone t => Sys2Proof.Machine.execSlumberExitDone t s

end Sys2Proof.Machine
end

