-- ==== Sys2Proof/Safety.lean ====
section
/-!
DEFINITION. What a safe step keeps: the canonical form of the state's tables, and the frame of a command.
-/

namespace Sys2Proof.Machine

/-! ### The canonical form -/

/-- The canonical form of a memory whose unlisted bytes were never written: addresses rise strictly. -/
abbrev Memory.wf (m : Tbl Byte) : Prop := tblWf m = true

/-- The canonical form of a memory whose unlisted bytes read 0: addresses rise strictly, and no listed byte is 0. -/
abbrev Memory.wfZero (m : Tbl Byte) : Prop := tblWf m = true ∧ ∀ e ∈ m, e.2 ≠ 0

/-- The tables of a state are canonical: register fields, memory, logic-engine memory, and the bits noted for R17. -/
structure State.Canon (s : State) : Prop where
  regs : tblWf s.regs = true
  mem : Memory.wf s.mem
  leMem : tblWf s.leMem = true
  leZero : ∀ e ∈ s.leMem, e.2 ≠ 0
  hits : tblWf s.hits = true

/-! ### What is left as it was -/

/-- Every register field outside some areas reads as before. -/
def RegsIn (A : List Area) (s u : State) : Prop := ∀ f : Fld, f.area ∉ A → u.rd f = s.rd f

/-- The parts of a state beside the queue and the register fields. -/
inductive Part where
  | now | mem | leMem | resp | out | fresh | pw | rcd | std | lko | dbg | cop | ecc | io | eng | rng | key | cnp | fab
  | cvu | rwy | ust | fwu | pmg
  deriving DecidableEq, Repr

/-- Every area of registers. -/
def allAreas : List Area :=
  [.sys, .pwr, .feed, .unit, .std, .pend, .lko, .le, .ecc, .cpc, .iog, .chan, .rng, .cnp, .hbuf, .rwy, .ust, .cvu, .recd,
    .ingress, .fwu, .key, .bist, .other]

/-- Every part of the state beside the queue and the register fields. -/
def allParts : List Part :=
  [.now, .mem, .leMem, .resp, .out, .fresh, .pw, .rcd, .std, .lko, .dbg, .cop, .ecc, .io, .eng, .rng, .key, .cnp, .fab,
    .cvu, .rwy, .ust, .fwu, .pmg]

/-- A part is as before. -/
def Same (s u : State) : Part → Prop
  | .now => u.now = s.now
  | .mem => u.mem = s.mem
  | .leMem => u.leMem = s.leMem
  | .resp => u.resp = s.resp
  | .out => u.out = s.out
  | .fresh => u.fresh = s.fresh
  | .pw => u.pw = s.pw
  | .rcd => u.rcd = s.rcd
  | .std => u.std = s.std
  | .lko => u.lko = s.lko
  | .dbg => u.dbg = s.dbg
  | .cop => u.cop = s.cop
  | .ecc => u.ecc = s.ecc
  | .io => u.io = s.io
  | .eng => u.eng = s.eng
  | .rng => u.rng = s.rng
  | .key => u.key = s.key
  | .cnp => u.cnp = s.cnp
  | .fab => u.fab = s.fab
  | .cvu => u.cvu = s.cvu
  | .rwy => u.rwy = s.rwy
  | .ust => u.ust = s.ust
  | .fwu => u.fwu = s.fwu
  | .pmg => u.pmg = s.pmg

/-- A command's frame: register fields outside the areas `A` read as before, and parts outside `P` are as before. The
bits noted for R17 follow the register fields. -/
structure Framed (A : List Area) (P : List Part) (s u : State) : Prop where
  regs : RegsIn A s u
  parts : ∀ p, p ∉ P → Same s u p

end Sys2Proof.Machine
end

