-- ==== Sys2Proof/Safety/Claims.lean ====
section
/-!
DEFINITION. The words that claims about the module use: what a run of one command is, what it leaves as it was, which
events it raises and which records it hands to the recorder, and what a logic engine's instruction does.
-/

namespace Sys2Proof.Machine

/-! ### One command -/

/-- The command answers a next state, and that state is as `P` says. -/
def Does (c : Instr) (s : State) (P : State → Prop) : Prop := ∃ u, exec c s = .next u ∧ P u

/-! ### Frames -/

/-- Every register field reads as before but those listed. -/
def RegsBut (fs : List Fld) (s u : State) : Prop := ∀ f : Fld, f.key ∉ fs.map Fld.key → u.rd f = s.rd f

/-- A frame drawn more finely: register fields that are neither listed nor of the areas `A` read as before, and parts
outside `P` are as before. -/
structure Touches (fs : List Fld) (A : List Area) (P : List Part) (s u : State) : Prop where
  regs : ∀ f : Fld, f.key ∉ fs.map Fld.key → f.area ∉ A → u.rd f = s.rd f
  parts : ∀ p, p ∉ P → Same s u p

/-- Every register field at an address other than `a` reads as before. -/
def RegsElse (a : Nat) (s u : State) : Prop := ∀ f : Fld, keyAddr f.key ≠ a → u.rd f = s.rd f

/-- Register fields at the addresses that `keep` names read as before, and all others at their reset value. -/
def RegsReset (keep : Nat → Bool) (s u : State) : Prop :=
  ∀ f : Fld, u.rd f = if keep (keyAddr f.key) then s.rd f else f.rst

/-! ### Events and records -/

/-- The pending bits of the stands after the sources `ns` have been raised: a source sets its bit for the stands of its
STANDS mask, unless its priority is 0; every other pending bit stands as it did (R147). -/
def Raised (ns : List Nat) (s u : State) : Prop :=
  ∀ n k, n < 256 → k < 4 → u.pends n k =
    (s.pends n k || (decide (n ∈ ns) && s.rd (STD_EVTi_ROUTE_PRIO n) != 0 && s.bit (STD_EVTi_ROUTE_STANDS n) k))

/-- No pending bit differs. -/
abbrev Quiet (s u : State) : Prop := Raised [] s u

/-- The recorder takes descriptors: neither flush mode nor loss of power, no OVERLOAD, and the ingress queue has room
for n more beyond the reserve (R478, R487, R492). -/
def Recording (s : State) (n : Nat) : Prop :=
  s.pw.phase ≠ .flush ∧ s.pw.phase ≠ .hibernate ∧ s.pw.phase ≠ .off ∧ s.rd REC_STAT_OVERLOAD = 0 ∧
    s.rcd.queue.length + n ≤ 1984

/-- Where the recorder takes them, the descriptors `ds` have joined its ingress queue, nothing else of the recorder
differs, and the sources `ns` and no others have been raised. -/
def Reports (ns : List Nat) (ds : List Desc) (s u : State) : Prop :=
  Recording s ds.length → Raised ns s u ∧ u.rcd = { s.rcd with queue := s.rcd.queue ++ ds }

/-- A hardware record (R477) of class, source, KIND and OBJ, with the words of two registers as they read now. -/
def State.hwRecord (u : State) (cls src kind obj : Nat) (w0 w1 : Option Nat) : Desc :=
  .hw cls src kind obj ((w0.map u.word).getD 0) ((w1.map u.word).getD 0) u.now u.tsync

/-- What a descriptor of a hardware record says beside its words and stamp: class, source, KIND and OBJ; none for other
descriptors. -/
def Desc.what : Desc → Option (Nat × Nat × Nat × Nat)
  | .hw cls src kind obj _ _ _ _ => some (cls, src, kind, obj)
  | _ => none

/-- As `Reports`, for hardware records given by class, source, KIND and OBJ alone. -/
def Notes (ns : List Nat) (ks : List (Nat × Nat × Nat × Nat)) (s u : State) : Prop :=
  Recording s ks.length →
    Raised ns s u ∧ u.rcd.queue.map Desc.what = s.rcd.queue.map Desc.what ++ ks.map some

/-- The state with the alarm of R468 where the spare cores fall from what STD_CAP shows to what it shows in u. -/
def State.sparesTo (s u : State) : State := s.poolFall (s.rd STD_CAP_SPARES) (u.rd STD_CAP_SPARES) s.cop.sparesAtStart

/-- Every byte of memory and of logic-engine memory reads as before. -/
def SameMemory (s u : State) : Prop := (∀ a, u.byte a = s.byte a) ∧ ∀ a, u.leByte a = s.leByte a

/-- Memory takes the bytes `bs` from address `a` on, and every other byte reads as before. -/
def Stored (a : Nat) (bs : List Byte) (s u : State) : Prop :=
  (∀ i, i < bs.length → u.byte (a + i) = bs.getD i 0) ∧ ∀ b, b < a ∨ a + bs.length ≤ b → u.byte b = s.byte b

/-- No entry of the correction table is SOFT: a write frees none, and so neither raises source 32 nor writes a record
(R445). -/
def NoSoft (s : State) : Prop := ∀ i, i < 32 → s.ctState i ≠ ctSoft

/-- Nothing but registers and what is noted of them (R17), the instant, the answer and what is sent differs. -/
def OnlyRegs (s u : State) : Prop :=
  u = { s with now := u.now, resp := u.resp, out := u.out, regs := u.regs, hits := u.hits }

/-- Nothing but the registers of engine e differs, which are `x` now. -/
def EngineTo (e : Nat) (x : Engine) (s u : State) : Prop :=
  u = { s with resp := .none, out := [], eng := u.eng } ∧ u.engine e = x ∧ ∀ i, i ≠ e → u.engine i = s.engine i

/-- The registers of engine e are `x` now, every byte of logic-engine memory but `n` bytes of its data memory from an
offset on reads as before, and nothing else differs but the error patterns of rows written and, where a SOFT entry is
freed, the correction table and what reports that. -/
def EngineWrites (e : Nat) (x : Engine) (off n : Nat) (s u : State) : Prop :=
  u = { s with resp := .none, out := [], eng := u.eng, leMem := u.leMem, regs := u.regs, hits := u.hits, ecc := u.ecc
               pw := u.pw, rcd := u.rcd } ∧
  RegsIn [.pend, .ecc, .ingress] s u ∧ (NoSoft s → RegsIn [] s u ∧ u.pw = s.pw ∧ u.rcd = s.rcd) ∧ u.engine e = x ∧
  (∀ i, i ≠ e → u.engine i = s.engine i) ∧
  ∀ a, a < leDataBase e + off ∨ leDataBase e + off + n ≤ a → u.leByte a = s.leByte a

/-- Engine e stopped on program fault `code` (R194): the code, the instruction index, the bank and the call depth are
reported, its image is invalid, and data memory is as it was. -/
def EngineFaults (e code : Nat) (s u : State) : Prop :=
  u.leState e = leFaulted ∧ u.rd (LE_Ee_FAULT_CODE e) = code ∧ u.rd (LE_Ee_STAT_FAULTEV e) = 1 ∧
  u.rd (LE_Ee_FAULT_PC_PC e) = (s.engine e).pc % 2 ^ 18 ∧ u.rd (LE_Ee_FAULT_BANK e) = s.leBank e % 2 ∧
  u.rd (LE_Ee_FAULT_DEPTH e) = (s.engine e).cstack.length % 16 ∧ u.rd (LE_Ee_STAT_VALID e) = 0 ∧
  (∀ a, u.leByte a = s.leByte a) ∧ (∀ a, u.byte a = s.byte a) ∧ ∀ i, i ≠ e → u.engine i = s.engine i

/-! ### When an instruction of a logic engine runs to its end -/

/-- The row of the instruction at PC is without error. -/
def FetchSound (s : State) (e : Nat) : Prop := s.rowErr 4 (e * 2 ^ 16 + s.leBank e * 2 ^ 15 + (s.engine e).pc / 8) = 0

/-- Engine e is RUNNING between a take and its END, and the instruction at PC lies in the body that executes, in a row
without error. -/
def LeGoes (s : State) (e : Nat) : Prop :=
  s.leCan e = true ∧ FetchSound s e ∧ s.leInBody e (s.engine e).pc = true

/-- The rows of n bytes of data memory from an offset on are without error. -/
def DataSound (s : State) (e off n : Nat) : Prop := ∀ r ∈ rowsOfRange off n, s.rowErr 5 (e * 2 ^ 14 + r) = 0

/-- No row of the data memory of engine e holds an error. -/
def EngineSound (s : State) (e : Nat) : Prop := s.errRows (fun memid row => memid == 5 && row / 2 ^ 14 == e) = []

/-- No row of the range of n bytes from address a holds an error. -/
def RangeSound (s : State) (a n : Nat) : Prop := s.rangeRows a n = []

/-- A bit operand that can be read (R173, R176). -/
def BitOk (s : State) (e mod opnd : Nat) : Prop :=
  if mod = 2 then opnd ≤ 4
  else bitAddr (s.engine e) mod opnd < 0x80000 ∧ DataSound s e (bitAddr (s.engine e) mod opnd / 8) 1

/-- A word operand that can be read (R173, R179): an immediate, or memory in range and aligned. -/
def WordOk (s : State) (e mod size opnd : Nat) : Prop :=
  if mod = 2 then size = 0
  else byteAddr (s.engine e) mod opnd + sizeBytes size ≤ leDataSize ∧
    byteAddr (s.engine e) mod opnd % sizeBytes size = 0 ∧
    DataSound s e (byteAddr (s.engine e) mod opnd) (sizeBytes size)

/-- An instance of n bytes that a CALLH can run on (R185). -/
def InstOk (s : State) (e mod opnd n : Nat) : Prop :=
  mod ≠ 2 ∧ opnd < 65536 ∧ ptrAddr (s.engine e) mod opnd + n ≤ leDataSize ∧ ptrAddr (s.engine e) mod opnd % 8 = 0 ∧
    DataSound s e (ptrAddr (s.engine e) mod opnd) n

end Sys2Proof.Machine
end

