-- ==== Sys2Proof/Safety/Frames.lean ====
section
/-!
DEFINITION. The frame of every command: the areas of registers and the parts of the state that it may change. All that a
command's row does not list, it leaves as it was.
-/

namespace Sys2Proof.Machine

/-- The areas of registers that a command may change. -/
def frameAreas : Instr → List Area
  | .registerWrite .. | .feedGood .. | .feedLost .. | .flushSeal .. | .storeExhausted .. | .keyApplyDone ..
  | .voterMismatch .. | .voterXyDisagree .. | .agreementPoint .. | .handoverAccept .. | .standReset ..
  | .debugReadStand .. | .debugWriteStand .. | .lookoutServiceFirst .. | .lookoutServiceSecond ..
  | .lookoutTimeout .. | .lookoutSequenceTimeout .. | .lookoutStartLimit .. | .leWarm .. | .leCold ..
  | .engineFunctionReset .. | .cycleMark .. | .tableEffect .. | .contextLock .. | .apertureEnable ..
  | .portEnable .. | .pwrWake .. | .softwareReset .. | .clockMonitorWindow .. | .referenceLoss ..
  | .fwSeedling .. | .fwData .. | .registerRead .. | .handoverResume .. | .standResetDone .. => allAreas
  | .powerOn .. | .referenceReturn .. => [.sys, .pwr, .feed, .pend, .cnp, .cvu, .ingress, .key]
  | .feedLowSet .. | .feedLowClear .. | .feedHighSet .. | .feedHighClear .. | .rangerKeyPhaseEnd ..
  | .leStop .. | .debugReadEngine .. | .frequencyGateTimeout .. | .rangerLevelSample .. | .rangerEdge ..
  | .rangerSafeCopy .. | .rangerConnectionTimeout .. | .rangerQuadHoldEnd .. | .planeResetDone ..
  | .cvuResetDone .. | .fenceRead .. | .timeRealign .. | .fwNack .. | .recorderResetDone .. => []
  | .reverseCurrentEvent .. => [.feed, .pend]
  | .feedReportRefresh .. | .readySet .. | .readyClear .. => [.feed]
  | .holdupMeasured .. => [.feed, .pend, .cnp, .cvu, .ingress]
  | .flushEntry .. => [.feed, .unit, .std, .pend, .le, .ecc, .iog, .chan, .cnp, .ust, .cvu, .recd, .ingress]
  | .flushSequencerHandover .. | .leDiscard .. => [.unit, .le]
  | .pllLock .. => [.sys, .std, .pend, .le, .cpc, .fwu]
  | .keyReadDone .. => [.key]
  | .firmwareLoadDone .. => [.sys, .std, .pend, .ecc, .cpc, .iog, .chan, .cvu, .ingress, .fwu]
  | .aloneTimeout .. | .syncCorrection .. | .claimFrame .. | .planeReset .. => [.pend, .cnp, .ust, .ingress]
  | .keyPresentChange .. | .keyLatchChange .. | .confirmationDone .. => [.pend, .ingress, .key]
  | .confirmationWrite .. => [.pend, .key]
  | .historyRecordWrite .. => [.pend, .ecc, .cvu, .recd, .ingress, .key]
  | .coreBistDone .. => [.std, .pend, .cpc, .ingress, .bist]
  | .handoverRequest .. => [.std]
  | .debugAttach .. => [.unit, .std, .pend, .lko, .le, .iog, .chan]
  | .debugDetach .. => [.std, .pend, .le]
  | .debugHaltStand .. | .unitWake .. => [.unit, .std, .lko]
  | .debugStepStand .. | .debugResumeStand .. => [.std, .lko]
  | .claimRead .. | .softwareEvent .. => [.pend]
  | .standLeMemoryAccess .. => [.pend, .ecc, .cpc, .cvu, .ingress]
  | .leLd .. | .leLdn .. | .leAnd .. | .leAndn .. | .leOr .. | .leOrn .. | .leXor .. | .leXorn .. | .leSt ..
  | .leStn .. | .leS .. | .leROp .. | .leLds .. | .leNot .. | .leBopen .. | .leBclose .. | .leLdw ..
  | .leStw .. | .leAdd .. | .leSub .. | .leMul .. | .leAndw .. | .leOrw .. | .leXorw .. | .leShl .. | .leShr ..
  | .leSar .. | .leLdhi .. | .leLdx .. | .leCeq .. | .leCne .. | .leCgt .. | .leCge .. | .leClt .. | .leCle ..
  | .leBtow .. | .leWtob .. | .leSig .. | .leJmp .. | .leJc .. | .leJcn .. | .leRet .. | .leRetc .. | .leEnd ..
  | .leCallu .. | .leTon .. | .leTof .. | .leTp .. | .leCtu .. | .leCtd .. | .leRTrig .. | .leFTrig ..
  | .leSr .. | .leRs .. | .leCmp .. | .leLimit .. | .leMove .. | .leEqv2 .. | .illegalInstruction ..
  | .leResume .. | .leStep .. | .leStepcyc .. | .memoryRead .. => [.pend, .le, .ecc, .cpc, .iog, .chan, .ingress]
  | .leLaneMismatch .. => [.unit, .std, .pend, .le, .cpc, .iog, .chan, .ingress, .bist]
  | .leVoterXyDisagree .. => [.unit, .pend, .le, .iog, .chan, .ingress]
  | .leLoad .. => [.unit, .pend, .le, .ingress]
  | .admissionDone .. | .debugWriteEngine .. => [.pend, .le, .ecc, .cpc, .cvu, .ingress]
  | .leSwap .. => [.le]
  | .restartComplete .. | .forceCommit .. => [.pend, .le]
  | .hostWindowWrite .. | .syncSlot .. | .unitRestart .. => [.cvu]
  | .leHalt .. | .leBreakpoint .. => [.pend, .le, .iog, .chan]
  | .leNapEntry .. => [.pwr, .unit]
  | .scannerSample .. | .counterEdge .. | .statusLinkLost .. | .supplyFallingCross .. | .supplyRisingCross ..
  | .offPulseSlot .. | .outputTrip .. | .thermalShutdown .. | .supplyAck .. => [.pend, .iog, .chan, .ingress]
  | .outputStale .. | .statusLinkFrame .. | .autoRetry .. | .channelAck .. | .groupReset ..
  | .groupResetDone .. | .rangerEvaluation .. | .rangerParamCrcCheck .. => [.iog, .chan]
  | .retriesClear .. => [.chan]
  | .rangerMirrorImage .. | .rangerMirrorLost .. => [.pend, .rng, .ingress]
  | .syncFrame .. | .eventWindowOpen .. | .linkUp .. | .linkDown .. | .sideLossTimeout .. | .trainStart ..
  | .trainHello .. | .trainDreq .. | .trainDresp .. | .trainRecord .. | .trainBlazes .. | .trainDigest ..
  | .trainCommit .. | .neighbourTimeout .. | .inaugurationDeadline .. | .etFrameSent ..
    => [.pend, .cnp, .ust, .cvu, .ingress]
  | .eventFrame .. | .releaseRequest .. | .seedlingAnnounce .. | .fwHello .. | .fwOffer ..
  | .getRetryTimeout .. => [.pend, .cnp, .cvu, .ingress]
  | .blazeDue .. => [.cnp, .cvu]
  | .blazeFrame .. => [.pend, .ecc, .cpc, .cnp, .hbuf, .rwy, .cvu, .ingress]
  | .blazeJudgement .. => [.pend, .ecc, .cpc, .cnp, .hbuf, .cvu, .ingress]
  | .hostBufferCommit .. => [.hbuf]
  | .timeRead .. => [.cnp]
  | .claimRequest .. => [.pend, .cnp, .hbuf, .cvu, .ingress]
  | .listenRequest .. => [.pend, .cnp, .hbuf, .ingress]
  | .claimEffect .. => [.pend, .cnp]
  | .contextTimeout .. | .cvuReset .. => [.pend, .cnp, .hbuf, .cvu]
  | .unitFrameResult .. => [.pend, .cvu]
  | .windowLoad .. | .windowStore .. | .windowLr .. | .windowSc .. | .windowAmo .. | .rwResp ..
  | .doorbellPoll .. | .rootwayReset .. | .rootwayResetDone .. => [.pend, .cnp, .rwy, .cvu, .ingress]
  | .rwRead .. | .rwWrite .. | .rwLockrd .. | .rwWrunlk .. | .rwUnlock .. | .rwAmo .. | .rwPoll ..
  | .lockExpiry .. => [.pend, .ecc, .cpc, .cnp, .rwy, .cvu, .ingress]
  | .rwWack .. | .rootwayTimeout .. => [.pend, .rwy]
  | .tunnelFrame .. | .txRingWrite .. | .busoffRecovery .. | .portResetDone .. | .portStateChange ..
  | .portFrameTransmitted .. => [.pend, .ecc, .cpc, .ust, .ingress]
  | .portFrameReceive .. => [.pend, .ecc, .cpc, .cnp, .ust, .cvu, .ingress]
  | .portDisable .. => [.ust]
  | .portReset .. => [.pend, .ust]
  | .memoryWrite .. => [.pend, .le, .ecc, .cpc, .iog, .chan, .cvu, .ingress]
  | .scrubRead .. => [.pend, .ecc, .cpc, .ingress]
  | .scrubLapLimit .. => [.pend, .ecc, .ingress]
  | .fillStart .. | .writeRaw .. | .readRaw .. | .encodeRow .. | .checkRow .. => [.pend, .ecc]
  | .fillAbort .. | .fillDone .. => [.pend, .ecc, .cvu, .ingress]
  | .bistStart .. => [.std, .pend, .cpc, .bist]
  | .bistAbort .. => [.std, .pend, .ecc, .cpc, .cnp, .ust, .cvu, .ingress, .bist]
  | .bistDepot .. => [.bist]
  | .bistRunDone .. => [.std, .pend, .le, .ecc, .cpc, .iog, .chan, .cnp, .ust, .cvu, .ingress, .bist]
  | .nandBlockRetire .. => [.pend, .cpc, .recd, .ingress]
  | .recordAccept .. | .pageProgrammed .. => [.pend, .ecc, .cpc, .cvu, .recd, .ingress]
  | .recordSubmit .. | .rate24Update .. => [.pend, .recd, .ingress]
  | .recorderFlushTimer .. => [.ingress]
  | .oldestRead .. | .nextRead .. => [.recd]
  | .recordReadStart .. => [.pend, .recd]
  | .recordReadAbort .. | .recordReadDone .. | .recorderReset .. | .recorderStart ..
    => [.pend, .ecc, .cvu, .recd, .ingress]
  | .standWfi .. => [.pwr, .unit, .std, .pend, .lko, .ecc, .cvu, .ingress]
  | .pwrRest .. | .pwrSlumber .. | .pwrHibernate .. => [.pwr, .pend, .fwu]
  | .pwrCancel .. => [.pwr, .pend]
  | .fwOpen .. | .fwPiece .. => [.pend, .ecc, .cpc, .ingress, .fwu]
  | .fwAbandon .. | .fwPrepare .. | .fwConfirm .. | .fwBitmap .. | .fwUnprepare .. => [.pend, .fwu]
  | .fwActivate .. => [.std, .pend, .lko, .iog, .chan, .fwu]
  | .fwuCommandDone .. => [.unit, .std, .pend, .lko, .ecc, .cpc, .iog, .chan, .cvu, .ingress, .fwu]
  | .fwGet .. => [.pend, .cnp, .cvu, .ingress, .fwu]
  | .lookoutWindowOpen .. => [.pend, .lko]
  | .slumberExitDone .. => [.pwr, .unit, .pend, .lko, .ecc, .cpc, .cnp, .rwy, .ust, .cvu, .ingress]

/-- The parts of the state, beside registers and the queue, that a command may change. -/
def frameParts : Instr → List Part
  | .registerWrite .. | .voterMismatch .. | .voterXyDisagree .. | .agreementPoint .. | .handoverAccept ..
  | .standReset .. | .debugWriteStand .. | .lookoutServiceFirst .. | .lookoutServiceSecond ..
  | .lookoutTimeout .. | .lookoutSequenceTimeout .. | .lookoutStartLimit .. | .softwareReset ..
  | .clockMonitorWindow .. | .referenceLoss .. | .fwSeedling .. | .fwData .. | .handoverResume ..
  | .standResetDone ..
    => [.now, .mem, .leMem, .resp, .out, .fresh, .pw, .rcd, .std, .lko, .dbg, .cop, .ecc, .io, .eng, .key, .cnp, .fab, .cvu, .rwy, .ust, .fwu, .pmg]
  | .powerOn .. | .referenceReturn .. => [.now, .resp, .out, .pw, .rcd, .key, .cnp, .fab, .cvu, .rwy]
  | .feedGood .. | .feedLost .. | .flushSeal .. | .storeExhausted .. | .cycleMark .. => allParts
  | .feedLowSet .. | .feedLowClear .. | .feedHighSet .. | .feedHighClear .. | .readySet .. | .readyClear ..
  | .flushSequencerHandover .. => [.now, .resp, .out, .pw]
  | .reverseCurrentEvent .. | .feedReportRefresh .. | .claimRead .. | .softwareEvent .. | .leSwap ..
  | .leNapEntry .. | .retriesClear .. | .timeRead .. | .contextLock .. | .apertureEnable .. | .portDisable ..
  | .oldestRead .. | .nextRead .. | .fwNack .. | .lookoutWindowOpen .. => [.now, .resp, .out]
  | .holdupMeasured .. | .eventFrame .. | .claimRequest .. | .releaseRequest .. | .windowStore .. | .rwResp ..
  | .doorbellPoll .. | .rootwayReset .. | .seedlingAnnounce .. | .rootwayResetDone ..
    => [.now, .resp, .out, .pw, .rcd, .cnp, .fab, .cvu, .rwy]
  | .flushEntry ..
    => [.now, .mem, .leMem, .resp, .out, .fresh, .pw, .rcd, .std, .dbg, .cop, .ecc, .io, .eng, .rng, .cnp, .cvu, .rwy, .ust, .pmg]
  | .pllLock .. => [.now, .resp, .out, .pw, .std, .cop, .fwu]
  | .rangerKeyPhaseEnd .. => [.now, .resp, .out, .pw, .rng]
  | .keyReadDone .. => [.now, .resp, .out, .pw, .key]
  | .keyApplyDone .. => [.now, .mem, .leMem, .resp, .out, .pw, .rcd, .cop, .ecc, .io, .eng, .key, .cnp, .cvu, .pmg]
  | .firmwareLoadDone .. => [.now, .mem, .resp, .out, .pw, .rcd, .std, .cop, .ecc, .io, .cvu, .fwu]
  | .aloneTimeout .. | .claimFrame .. => [.now, .resp, .out, .pw, .rcd, .cnp, .fab, .ust]
  | .keyPresentChange .. | .confirmationDone .. => [.now, .mem, .resp, .out, .pw, .rcd, .key]
  | .keyLatchChange .. => [.now, .resp, .out, .pw, .rcd, .key]
  | .confirmationWrite .. => [.now, .resp, .out, .key]
  | .historyRecordWrite .. => [.now, .mem, .resp, .out, .pw, .rcd, .ecc, .key, .cvu]
  | .coreBistDone .. => [.now, .resp, .out, .pw, .rcd, .std, .cop, .cnp]
  | .handoverRequest .. | .debugStepStand .. => [.now, .resp, .out, .std]
  | .debugAttach .. => [.now, .resp, .out, .std, .lko, .dbg, .io, .fwu]
  | .debugDetach .. => [.now, .resp, .out, .std, .dbg]
  | .debugHaltStand .. | .debugResumeStand .. | .unitWake .. => [.now, .resp, .out, .std, .lko]
  | .debugReadStand .. => [.now, .mem, .leMem, .resp, .out, .fresh, .pw, .rcd, .std, .cop, .ecc, .cnp, .fab, .cvu, .rwy]
  | .standLeMemoryAccess .. | .admissionDone .. | .debugWriteEngine ..
    => [.now, .mem, .leMem, .resp, .out, .pw, .rcd, .cop, .ecc, .eng, .cvu]
  | .leLd .. | .leLdn .. | .leAnd .. | .leAndn .. | .leOr .. | .leOrn .. | .leXor .. | .leXorn .. | .leSt ..
  | .leStn .. | .leS .. | .leROp .. | .leLds .. | .leNot .. | .leBopen .. | .leBclose .. | .leLdw ..
  | .leStw .. | .leAdd .. | .leSub .. | .leMul .. | .leAndw .. | .leOrw .. | .leXorw .. | .leShl .. | .leShr ..
  | .leSar .. | .leLdhi .. | .leLdx .. | .leCeq .. | .leCne .. | .leCgt .. | .leCge .. | .leClt .. | .leCle ..
  | .leBtow .. | .leWtob .. | .leSig .. | .leJmp .. | .leJc .. | .leJcn .. | .leRet .. | .leRetc ..
  | .leCallu .. | .leTon .. | .leTof .. | .leTp .. | .leCtu .. | .leCtd .. | .leRTrig .. | .leFTrig ..
  | .leSr .. | .leRs .. | .leCmp .. | .leLimit .. | .leMove .. | .leEqv2 .. | .illegalInstruction ..
    => [.mem, .leMem, .resp, .out, .pw, .rcd, .cop, .ecc, .io, .eng, .pmg]
  | .leEnd .. | .leWarm .. | .leCold .. | .engineFunctionReset .. | .leResume .. | .leStep .. | .leStepcyc ..
  | .memoryRead .. => [.now, .mem, .leMem, .resp, .out, .pw, .rcd, .cop, .ecc, .io, .eng, .pmg]
  | .leLaneMismatch .. => [.now, .resp, .out, .pw, .rcd, .cop, .io, .eng, .pmg]
  | .leVoterXyDisagree .. => [.now, .resp, .out, .pw, .rcd, .io, .eng, .pmg]
  | .leLoad .. => [.now, .resp, .out, .pw, .rcd, .eng]
  | .leDiscard .. | .leStop .. | .restartComplete .. | .forceCommit .. => [.now, .resp, .out, .eng]
  | .hostWindowWrite .. => [.now, .resp, .out, .eng, .cvu]
  | .leHalt .. | .leBreakpoint .. => [.now, .resp, .out, .io, .eng]
  | .debugReadEngine .. => [.now, .resp, .out, .fresh]
  | .scannerSample .. => [.now, .resp, .out, .pw, .rcd, .io, .pmg]
  | .outputStale .. | .frequencyGateTimeout .. | .statusLinkFrame .. | .autoRetry .. | .channelAck ..
  | .groupReset .. | .groupResetDone .. => [.now, .resp, .out, .io]
  | .counterEdge .. | .statusLinkLost .. | .supplyFallingCross .. | .supplyRisingCross .. | .offPulseSlot ..
  | .outputTrip .. | .thermalShutdown .. | .supplyAck .. => [.now, .resp, .out, .pw, .rcd, .io]
  | .rangerLevelSample .. | .rangerEdge .. | .rangerSafeCopy .. | .rangerConnectionTimeout ..
  | .rangerQuadHoldEnd .. => [.resp, .out, .rng]
  | .rangerEvaluation .. | .rangerParamCrcCheck .. => [.now, .resp, .out, .io, .rng]
  | .rangerMirrorImage .. => [.now, .resp, .out, .pw, .rcd, .rng, .fwu]
  | .rangerMirrorLost .. => [.now, .resp, .out, .pw, .rcd, .fwu]
  | .syncSlot .. | .unitRestart .. | .unitFrameResult .. | .cvuResetDone .. => [.now, .resp, .out, .cvu]
  | .syncFrame .. => [.now, .resp, .out, .pw, .rcd, .cnp, .cvu, .ust]
  | .syncCorrection .. => [.now, .resp, .out, .pw, .rcd, .cnp, .fab, .ust, .pmg]
  | .eventWindowOpen .. | .linkUp .. | .linkDown .. | .sideLossTimeout .. | .trainStart .. | .trainHello ..
  | .trainDreq .. | .trainDresp .. | .trainRecord .. | .trainBlazes .. | .trainDigest .. | .trainCommit ..
  | .neighbourTimeout .. | .inaugurationDeadline .. | .tableEffect .. | .etFrameSent ..
    => [.now, .resp, .out, .pw, .rcd, .cnp, .fab, .cvu, .rwy, .ust]
  | .blazeDue .. => [.now, .resp, .out, .fresh, .cnp, .cvu, .rwy]
  | .blazeFrame .. => [.now, .mem, .leMem, .resp, .out, .pw, .rcd, .cop, .ecc, .cnp, .cvu, .rwy, .pmg]
  | .blazeJudgement .. => [.now, .mem, .leMem, .resp, .out, .pw, .rcd, .cop, .ecc, .cnp, .cvu]
  | .hostBufferCommit .. => [.now, .mem, .resp, .out, .cnp]
  | .listenRequest .. => [.now, .resp, .out, .pw, .rcd, .cnp]
  | .claimEffect .. => [.now, .resp, .out, .cnp, .fab]
  | .planeReset .. => [.now, .resp, .out, .pw, .rcd, .cnp, .ust]
  | .planeResetDone .. => [.now, .resp, .out, .cnp]
  | .contextTimeout .. | .cvuReset .. => [.now, .resp, .out, .cnp, .cvu]
  | .windowLoad .. | .windowLr .. | .windowSc .. | .windowAmo ..
    => [.now, .resp, .out, .pw, .rcd, .std, .cnp, .fab, .cvu, .rwy]
  | .rwRead .. | .rwWrite .. | .rwLockrd .. | .rwWrunlk .. | .rwUnlock .. | .rwAmo .. | .rwPoll ..
  | .lockExpiry .. => [.now, .mem, .leMem, .resp, .out, .fresh, .pw, .rcd, .cop, .ecc, .cnp, .fab, .cvu, .rwy]
  | .rwWack .. => [.now, .resp, .out, .rwy]
  | .rootwayTimeout .. => [.now, .resp, .out, .cnp, .rwy]
  | .fenceRead .. => [.now, .resp, .out, .std, .rwy]
  | .tunnelFrame .. | .txRingWrite .. | .portEnable .. | .busoffRecovery .. | .portResetDone ..
  | .portStateChange .. | .portFrameTransmitted ..
    => [.now, .mem, .leMem, .resp, .out, .fresh, .pw, .rcd, .cop, .ecc, .ust]
  | .portFrameReceive ..
    => [.now, .mem, .leMem, .resp, .out, .fresh, .pw, .rcd, .cop, .ecc, .cnp, .fab, .cvu, .rwy, .ust]
  | .portReset .. => [.now, .resp, .out, .cnp, .ust]
  | .memoryWrite .. => [.now, .mem, .leMem, .resp, .out, .pw, .rcd, .cop, .ecc, .io, .eng, .cvu, .pmg]
  | .scrubRead .. => [.now, .mem, .leMem, .resp, .out, .pw, .rcd, .cop, .ecc]
  | .scrubLapLimit .. => [.now, .resp, .out, .pw, .rcd, .ecc]
  | .fillStart .. => [.now, .resp, .out, .ecc]
  | .fillAbort .. | .fillDone .. => [.now, .mem, .leMem, .resp, .out, .pw, .rcd, .ecc, .cvu]
  | .writeRaw .. | .readRaw .. | .encodeRow .. | .checkRow .. => [.now, .mem, .leMem, .resp, .out, .ecc]
  | .bistStart .. => [.now, .resp, .out, .cop, .cnp]
  | .bistAbort .. => [.now, .resp, .out, .fresh, .pw, .rcd, .cop, .ecc, .cnp, .cvu, .ust]
  | .bistDepot .. => [.now, .resp, .out, .cop]
  | .bistRunDone ..
    => [.now, .mem, .leMem, .resp, .out, .fresh, .pw, .rcd, .std, .cop, .ecc, .io, .eng, .cnp, .cvu, .ust, .pmg]
  | .nandBlockRetire .. => [.now, .resp, .out, .pw, .rcd, .cop, .fwu]
  | .recordAccept .. | .pageProgrammed .. => [.now, .mem, .leMem, .resp, .out, .pw, .rcd, .cop, .ecc, .cvu]
  | .recordSubmit .. | .rate24Update .. => [.now, .resp, .out, .pw, .rcd]
  | .recorderFlushTimer .. | .recordReadStart .. | .recorderResetDone .. => [.now, .resp, .out, .rcd]
  | .recordReadAbort .. | .recordReadDone .. | .recorderReset .. | .recorderStart ..
    => [.now, .mem, .resp, .out, .pw, .rcd, .ecc, .cvu]
  | .standWfi .. => [.now, .mem, .resp, .out, .fresh, .pw, .rcd, .std, .ecc, .cvu]
  | .pwrRest .. | .pwrSlumber .. | .pwrHibernate .. => [.now, .resp, .out, .fresh, .fwu, .pmg]
  | .pwrCancel .. | .timeRealign .. => [.now, .resp, .out, .pmg]
  | .pwrWake .. => [.now, .resp, .out, .pw, .rcd, .key, .cnp, .fab, .cvu, .rwy, .pmg]
  | .fwOpen .. | .fwPiece .. => [.now, .mem, .leMem, .resp, .out, .fresh, .pw, .rcd, .cop, .ecc, .fwu]
  | .fwAbandon .. | .fwPrepare .. | .fwConfirm .. | .fwUnprepare .. => [.now, .resp, .out, .fwu]
  | .fwActivate .. => [.now, .resp, .out, .pw, .std, .lko, .io, .fwu]
  | .fwBitmap .. => [.now, .resp, .out, .fresh, .fwu]
  | .fwuCommandDone .. => [.now, .mem, .leMem, .resp, .out, .pw, .rcd, .std, .lko, .cop, .ecc, .io, .cvu, .fwu]
  | .fwHello .. | .fwOffer .. | .fwGet .. | .getRetryTimeout ..
    => [.now, .resp, .out, .pw, .rcd, .cnp, .fab, .cvu, .rwy, .fwu]
  | .registerRead .. => [.now, .mem, .leMem, .resp, .out, .fresh, .pw, .rcd, .std, .cop, .ecc, .rwy]
  | .slumberExitDone ..
    => [.now, .mem, .leMem, .resp, .out, .fresh, .pw, .rcd, .lko, .cop, .ecc, .cnp, .fab, .cvu, .rwy, .ust, .pmg]

end Sys2Proof.Machine
end

