-- ==== Sys2Proof/Certificates/Slice0/Obligations.lean ====
section
/-!
DEFINITION. The statements for the provers. Each says of some commands, for every state that meets its hypotheses, that the
command answers a next state and what that state is: the new values, the events raised, the records written, and the frame,
all that stays as it was. `Does c s P` says that command c in state s answers a next state of which P holds.
-/

open Sys2Proof Sys2Proof.Machine

/-! ### The module as a whole -/

/-- A step takes the command at the front of the queue and is that command's effect on the state with the queue's rest;
with an empty queue the module idles (log entry 1). -/
def Obligations.StepRunsFront : Prop :=
  ∀ (s : State) (c : Instr) (rest : List Instr),
    (s.pending = c :: rest → step s = exec c { s with pending := rest }) ∧ (s.pending = [] → step s = .next s)

/-- R18: right after a power-on reset every register field has its Reset value, by address and by name alike; no
command waits; the tables are canonical; no row of memory holds an error; the engines' memories read 0; and the module
is off until a feed is good. That the fields without a stated value read 0 is the model's choice (log entry 2). -/
def Obligations.ResetState : Prop :=
  (∀ f : Fld, State.reset.rd f = f.rst) ∧
  (∀ (a : Nat) (fs : List RowField), regFields a = some fs → ∀ f ∈ fs, State.reset.rd (Fld.at a f.lo f.w f.rst) = f.rst) ∧
  State.reset.pending = [] ∧ State.reset.Canon ∧ State.reset.pw.phase = .off ∧ State.reset.dbg = .none ∧
  (∀ a, State.reset.leByte a = 0) ∧ (∀ (m : Fin 8) (row : Nat), State.reset.rowErr m row = 0) ∧
  ∀ e : Fin 4, State.reset.leState e = leUnloaded ∧ (State.reset.engine e).prog = none

/-- From every state whose tables are canonical (register fields, memory, logic-engine memory: addresses strictly
rising, nothing listed that reads as an unlisted entry does), a step answers a next state whose tables are canonical,
and takes one command off the queue and adds none. -/
def Obligations.EveryStepKeepsCanon : Prop :=
  ∀ s : State, s.Canon → ∃ u, step s = .next u ∧ u.Canon ∧ u.pending = s.pending.tail

/-- Every command answers a next state, and changes no register field outside the areas and no part of the state
outside the parts that its row of the frame table names; in every state, the waiting commands among what it leaves as
it was. -/
def Obligations.CommandFrames : Prop :=
  ∀ (c : Instr) (s : State), Does c s fun u => u.pending = s.pending ∧ Framed (frameAreas c) (frameParts c) s u

/-! ### Power -/

/-- R49, R51, R55, R59, R60: The judgements of a feed, and an event of reverse current. A feed lost and its return. A
power-fail begins with the loss of the last feed and ends with a feed's return before flush entry. Where the spec
leaves a point open, the model's reading stands (log entries 69, 5, 100, 127). -/
def Obligations.FeedJudgementsAndLosses : Prop :=
  (∀ (s : State) (n : Fin 2) (t : Nat),
     let other := 1 - n.val
     ((s.feed n).good = true → Does (.feedLowSet n t) s fun u =>
       u.feed n = { s.feed n with low := true } ∧ u.feed other = s.feed other ∧
         Touches [] [] [.now, .resp, .out, .pw] s u) ∧
     Does (.feedLowClear n t) s (fun u =>
       u.feed n = { s.feed n with low := false } ∧ u.feed other = s.feed other ∧
         Touches [] [] [.now, .resp, .out, .pw] s u) ∧
     Does (.feedHighSet n t) s (fun u =>
       u.feed n = { s.feed n with high := true } ∧ u.feed other = s.feed other ∧
         Touches [] [] [.now, .resp, .out, .pw] s u) ∧
     Does (.feedHighClear n t) s (fun u =>
       u.feed n = { s.feed n with high := false } ∧ u.feed other = s.feed other ∧
         Touches [] [] [.now, .resp, .out, .pw] s u) ∧
     Does (.reverseCurrentEvent n t) s fun u =>
       u.rd (PWR_FEEDn_STAT_REV n) = 1 ∧
       u.rd (PWR_FEEDn_REVCNT_CNT n) = min (s.rd (PWR_FEEDn_REVCNT_CNT n) + 1) 0xFFFF ∧ Raised [236] s u ∧
       Touches [PWR_FEEDn_STAT_REV n, PWR_FEEDn_REVCNT_CNT n] [.pend] [.now, .resp, .out] s u) ∧
  (∀ (s : State) (n : Fin 2) (t : Nat),
     let other := 1 - n.val
     let supply := 0x10100104 + 0x20 * n.val
     ((s.feed n).good = true → (s.feed other).good = true → Does (.feedLost n t) s fun u =>
       u.feed n = { s.feed n with good := false, low := false } ∧ u.feed other = s.feed other ∧
       u.rd64 (PWR_FEEDn_LOST_LO n) (PWR_FEEDn_LOST_HI n) = t % 2 ^ 64 ∧ u.rd (PWR_FEEDn_STAT_LOSTEV n) = 1 ∧
       Reports [236] [u.hwRecord 5 1 236 n (some supply) none] s u ∧ u.pmg.low = s.pmg.low ∧
       Touches [PWR_FEEDn_LOST_LO n, PWR_FEEDn_LOST_HI n, PWR_FEEDn_STAT_LOSTEV n] [.pend, .ingress]
         [.now, .resp, .out, .pw, .rcd, .pmg] s u) ∧
     ((s.feed n).good = true → (s.feed other).good = false → s.pw.phase = .running → Does (.feedLost n t) s fun u =>
       (u.feed n).good = false ∧ u.rd (PWR_FEEDn_STAT_LOSTEV n) = 1 ∧ u.pw.failing = true ∧ u.pw.t0 = t ∧
       u.rd PWR_HOLDUP_STAT_PHASE = 1 ∧ u.pw.phase = .running ∧
       Reports [236] [u.hwRecord 5 1 236 n (some supply) none] s u ∧
       Touches [PWR_FEEDn_LOST_LO n, PWR_FEEDn_LOST_HI n, PWR_FEEDn_STAT_LOSTEV n, PWR_HOLDUP_STAT_PHASE]
         [.pend, .ingress] [.now, .resp, .out, .pw, .rcd, .pmg] s u) ∧
     ((s.feed n).good = false → s.pw.phase = .running → Does (.feedGood n t) s fun u =>
       u.feed n = { s.feed n with good := true } ∧ u.feed other = s.feed other ∧
       u.rd64 (PWR_FEEDn_GOOD_LO n) (PWR_FEEDn_GOOD_HI n) = t % 2 ^ 64 ∧ u.pw.failing = false ∧
       u.rd PWR_HOLDUP_STAT_PHASE = (if s.pw.failing then 0 else s.rd PWR_HOLDUP_STAT_PHASE) ∧
       Reports [] [u.hwRecord 5 1 0xFF n (some supply) none] s u ∧
       Touches [PWR_FEEDn_GOOD_LO n, PWR_FEEDn_GOOD_HI n, PWR_HOLDUP_STAT_PHASE] [.pend, .ingress]
         [.now, .resp, .out, .pw, .rcd, .pmg] s u))

/-- R50, R54, R57, R58, R61, R64: The feed report publishes both feeds at once: measurements, the judgements as they
stand, which feed carries and its share, and the store's voltage. The hold-up store is measured once at a start, READY
follows its voltage, and where it runs out while nothing feeds it, everything but what lies in fuses, NAND and the key
is at its power-on value. Where the spec leaves a point open, the model's reading stands (log entries 69, 5, 100, 127). -/
def Obligations.FeedReportAndStore : Prop :=
  (∀ (s : State) (va ia vb ib vstore t : Nat),
     Does (.feedReportRefresh va ia vb ib vstore t) s fun u =>
       (∀ n < 2, let f := s.feed n
         u.rd (PWR_FEEDn_MEAS_VOLT n) = min (if n = 0 then va else vb) 0xFFFF ∧
         u.rd (PWR_FEEDn_MEAS_CURR n) = min (if n = 0 then ia else ib) 0xFFFF ∧
         u.rd (PWR_FEEDn_STAT_GOOD n) = b2n f.good ∧ u.rd (PWR_FEEDn_STAT_LOW n) = b2n f.low ∧
         u.rd (PWR_FEEDn_STAT_HIGH n) = b2n f.high) ∧
       u.rd (PWR_FEEDn_STAT_CARRY 0) = b2n (s.pw.feedA.good && (!s.pw.feedB.good || decide (vb ≤ va + 50))) ∧
       u.rd (PWR_FEEDn_STAT_CARRY 1) = b2n (s.pw.feedB.good && (!s.pw.feedA.good || decide (va ≤ vb + 50))) ∧
       u.rd (PWR_FEEDn_STAT_SHARE 0) = ia * 100 / (ia + ib) ∧ u.rd (PWR_FEEDn_STAT_SHARE 1) = ib * 100 / (ia + ib) ∧
       u.rd PWR_HOLDUP_STAT_VSTORE = min vstore 0xFFFF ∧ u.rd PWR_FEED_SEQ = (s.rd PWR_FEED_SEQ + 1) % 2 ^ 32 ∧
       Touches ([0, 1].flatMap (fun n => [PWR_FEEDn_MEAS_VOLT n, PWR_FEEDn_MEAS_CURR n, PWR_FEEDn_STAT_GOOD n,
         PWR_FEEDn_STAT_LOW n, PWR_FEEDn_STAT_HIGH n, PWR_FEEDn_STAT_CARRY n, PWR_FEEDn_STAT_SHARE n]) ++
         [PWR_HOLDUP_STAT_VSTORE, PWR_FEED_SEQ]) [] [.now, .resp, .out] s u) ∧
  (∀ (s : State) (cap t : Nat),
     (s.pw.start.measure = true → 1200 ≤ cap → Does (.holdupMeasured cap t) s fun u =>
       u.rd PWR_HOLDUP_CAP_CAP = min cap 0xFFFF ∧ u.pw.start.measure = false ∧ u.rcd = s.rcd ∧
       Touches [PWR_HOLDUP_CAP_CAP] [] [.now, .resp, .out, .pw] s u) ∧
     (s.pw.start.measure = true → cap < 1200 → Does (.holdupMeasured cap t) s fun u =>
       u.rd PWR_HOLDUP_CAP_CAP = cap ∧ u.pw.start.measure = false ∧ u.rd PWR_HOLDUP_STAT_AGED = 1 ∧
       Reports [235] [u.hwRecord 2 1 235 0xFFFF (some 0x10100144) (some 0x10100148)] s u ∧
       Touches [PWR_HOLDUP_CAP_CAP, PWR_HOLDUP_STAT_AGED] [.pend, .ingress] [.now, .resp, .out, .pw, .rcd] s u) ∧
     Does (.readySet t) s (fun u => u.rd PWR_HOLDUP_STAT_READY = 1 ∧ u.pw.start.ready = true ∧
       Touches [PWR_HOLDUP_STAT_READY] [] [.now, .resp, .out, .pw] s u) ∧
     Does (.readyClear t) s (fun u => u.rd PWR_HOLDUP_STAT_READY = 0 ∧
       Touches [PWR_HOLDUP_STAT_READY] [] [.now, .resp, .out] s u) ∧
     (s.pw.failing = true → Does (.storeExhausted t) s fun u =>
       u.pw.phase = .off ∧ u.pw.failing = false ∧ u.mem = [] ∧ u.leMem = [] ∧
       RegsReset fusedAddr s u ∧
       u.rcd.rings = s.rcd.rings ∧ u.rcd.heart = s.rcd.heart ∧ u.key.mem = s.key.mem ∧ u.fwu.slots = s.fwu.slots ∧
       u.cop.fuses = s.cop.fuses ∧ u.cop.log = s.cop.log ∧
       ∀ e, e < 4 → (u.engine e).nand = (s.engine e).nand ∧ (u.engine e).prog = none))

/-! ### Starts and resets -/

/-- R53, R57, R68, R73, R90: power-on begins a start at the reference lock, once a feed has been good for 20 ms, and
shows the contacts of the key, with a warning of those that read open; the start goes on with the lock of the PLLs, at
which Coppice counts the cores that are not retired. Where the spec leaves a point open, the model's reading stands
(log entries 70, 71, 13, 121). -/
def Obligations.PowerOnAndLock : Prop :=
  ∀ (s : State) (vstore t n : Nat),
    (s.pw.phase = .off → n < 2 → (s.feed n).good = true → s.goodStamp n + 20000000 ≤ t → Does (.powerOn vstore t) s fun u =>
      u.pw.phase = .locking ∧ u.rd SYS_RSTCAUSE_LETTER = 0 ∧ u.rd SYS_RSTCAUSE_CAUSE = 0 ∧ u.rd SYS_RSTCAUSE_STAND = 0 ∧
      u.pw.start.at_ = t ∧ u.pw.start.keyPhase = false ∧ u.pw.start.keyRead = false ∧ u.pw.start.applied = false ∧
      u.pw.start.firmware = false ∧ u.pw.start.ready = s.flag PWR_HOLDUP_STAT_READY ∧
      u.pw.start.measure = decide (vstore ≤ 4000) ∧ u.rd PWR_HOLDUP_CAP_CAP = 0 ∧ u.rd PWR_HOLDUP_STAT_AGED = 0 ∧
      u.rd KEY_STAT_PRESENT = b2n s.key.mem.isSome ∧ u.rd KEY_STAT_LATCH = b2n s.key.latched ∧
      (s.key.mem = none → u.rd KEY_STAT_REMOVED = 1 ∧ u.key = { s.key with lost := true }) ∧
      (s.key.latched = false → u.rd KEY_STAT_UNLATCHED = 1 ∧ u.key = { s.key with lost := true }) ∧
      (s.key.mem.isSome = true → s.key.latched = true → u.key = s.key ∧ u.rd KEY_STAT_REMOVED = s.rd KEY_STAT_REMOVED ∧
        u.rd KEY_STAT_UNLATCHED = s.rd KEY_STAT_UNLATCHED) ∧
      Touches [SYS_RSTCAUSE_LETTER, SYS_RSTCAUSE_CAUSE, SYS_RSTCAUSE_STAND, PWR_HOLDUP_CAP_CAP, PWR_HOLDUP_STAT_AGED,
        KEY_STAT_PRESENT, KEY_STAT_LATCH, KEY_STAT_REMOVED, KEY_STAT_UNLATCHED] [.pend, .ingress]
        [.now, .resp, .out, .pw, .rcd, .key] s u) ∧
    (s.pw.phase = .locking → Does (.pllLock t) s fun u =>
      u.pw.phase = .running ∧ u.rd SYS_HWINFO_ISSUE = hwIssue ∧
      u.rd SYS_HWINFO_CORES = (cores.filter fun c => !u.coreRetired c).length ∧ u.cop.proven = 0 ∧
      (2 ≤ (cores.filter fun c => !u.coreRetired c).length → (u.stand 0).formed = false ∧ u.pw.exhausted = s.pw.exhausted) ∧
      ((cores.filter fun c => !u.coreRetired c).length < 2 → u.pw.exhausted = true) ∧ SameMemory s u)

/-- R97, R99, R110, R517, R518, R519, R523: a module reset, a loss of the reference and its return. A module reset
leaves memory, the feed and power-fail registers, Ranger and the journals as they are, takes fields with the letter M
to their reset value, and reports its cause. Where the spec leaves a point open, the model's reading stands (log
entries 70, 71, 13, 121). -/
def Obligations.ModuleResets : Prop :=
  ∀ (s : State) (k : Fin 4) (dev : BitVec 13) (khz : List Nat) (t : Nat),
    (s.hartRuns k = true → s.deviceOpen k 0x10000000 = true → s.permits k 0 = true → Does (.softwareReset k t) s fun u =>
      u.resp = .done ∧ u.rd SYS_RSTCAUSE_LETTER = 1 ∧ u.rd SYS_RSTCAUSE_CAUSE = 2 ∧ u.rd SYS_RSTCAUSE_STAND = k.val ∧
      u.rd SYS_RSTCNT_SOFTWARE = min (s.rd SYS_RSTCNT_SOFTWARE + 1) 0xFF ∧ u.pw.phase = .running ∧
      u.pw.start.at_ = t ∧ u.pw.start.applied = false ∧ u.mem = s.mem ∧ u.rng = s.rng ∧ u.key.mem = s.key.mem ∧
      u.lko = lookoutInit ∧ u.cvu = cvuInit ∧ u.rwy = rootwayInit ∧ u.ust = understoryInit ∧ u.dbg = .none ∧
      u.key.image = none ∧ (∀ e, e < 4 → (u.engine e).prog = none ∧ (u.engine e).retain = (s.engine e).retain)) ∧
    (s.hartRuns k = true → (s.deviceOpen k 0x10000000 && s.permits k 0) = false → Does (.softwareReset k t) s fun u =>
      u.resp = .storeFault ∧ Touches [] [] [.now, .resp, .out] s u) ∧
    (s.pw.phase = .running → Does (.referenceLoss t) s fun u =>
      u.pw.phase = .refLost ∧ u.mem = s.mem ∧ u.rng = s.rng ∧ u.std = [] ∧ u.cvu = cvuInit ∧
      u.rd SYS_RSTCNT_SOFTWARE = s.rd SYS_RSTCNT_SOFTWARE) ∧
    (s.pw.phase = .refLost → Does (.referenceReturn t) s fun u =>
      u.pw.phase = .locking ∧ u.rd SYS_RSTCAUSE_LETTER = 1 ∧ u.rd SYS_RSTCAUSE_CAUSE = 6 ∧
      u.rd SYS_RSTCAUSE_STAND = 0 ∧ u.pw.start.at_ = t ∧ u.pw.start.keyPhase = true ∧ u.pw.start.applied = false ∧
      SameMemory s u) ∧
    (s.pw.phase = .running → dev.toNat = 0 → Does (.clockMonitorWindow dev khz t) s fun u =>
      u.rd CLK_GATE_OFF = s.clocksOff ∧ (∀ d, d < 14 →
        u.bit CLK_STAT_OK d = !bitAt s.clocksOff d ∧ u.rd (CLK_MEASd_KHZ d) = min (khz.getD d 0) 0xFFFFFF) ∧
      u.rd CLK_MON_DEV = s.rd CLK_MON_DEV ∧ u.pw.phase = .running ∧ Raised [] s u ∧
      Touches (CLK_STAT_OK :: CLK_GATE_OFF :: (List.range 14).map CLK_MEASd_KHZ) [] [.now, .resp, .out] s u) ∧
    (s.pw.phase = .running → dev.toNat = 2 ^ 9 → Does (.clockMonitorWindow dev khz t) s fun u =>
      u.rd SYS_RSTCAUSE_LETTER = 1 ∧ u.rd SYS_RSTCAUSE_CAUSE = 4 ∧
      u.rd SYS_RSTCNT_CLOCK = min (s.rd SYS_RSTCNT_CLOCK + 1) 0xFF ∧ u.pw.start.at_ = t)

/-! ### The vehicle key -/

/-- R73, R84, R86, R87: how the reading of a key ends. Where the spec leaves a point open, the model's reading stands
(log entries 43, 44, 45, 46, 48, 95, 96, 111, 123, 124). -/
def Obligations.KeyReading : Prop :=
  ∀ (s : State) (m : KeyMem) (fault : Fin 3) (t : Nat),
    s.pw.phase = .running → s.pw.exhausted = false → s.pw.start.keyPhase = true → s.pw.start.keyRead = false →
    (s.key.mem = none → Does (.keyReadDone fault t) s fun u =>
      u.pw.start.keyRead = true ∧ u.rd KEY_STAT_STATE = 2 ∧ u.rd KEY_FAULT_DETAIL = 0 ∧ u.rd KEY_FAULT_SECTION = 0 ∧
      u.rd KEY_FAULT_FAREA = 0 ∧
      Touches [KEY_STAT_STATE, KEY_FAULT_DETAIL, KEY_FAULT_SECTION, KEY_FAULT_FAREA] [] [.now, .resp, .out, .pw] s u) ∧
    (s.key.mem = some m → fault ≠ 0 → Does (.keyReadDone fault t) s fun u =>
      u.pw.start.keyRead = true ∧ u.rd KEY_STAT_STATE = 8 ∧
      u.rd KEY_FAULT_DETAIL = (if fault = 1 then 0x10 else 0x11) ∧ u.key = s.key ∧ u.rcd = s.rcd ∧
      Touches [KEY_STAT_STATE, KEY_FAULT_DETAIL, KEY_FAULT_SECTION, KEY_FAULT_FAREA] []
        [.now, .resp, .out, .pw] s u) ∧
    (s.key.mem = some m → fault = 0 → Does (.keyReadDone fault t) s fun u =>
      u.pw.start.keyRead = true ∧ u.key.mem = s.key.mem ∧ u.key.serial = keySerial m ∧ u.key.last = lastValid 2 m.hist ∧
      u.rd KEY_JRN_CNT_CONF = slotsUsed m.comm % 2 ^ 15 ∧ u.rd KEY_JRN_CNT_HIST = slotsUsed m.hist % 2 ^ 15 ∧
      u.rd KEY_STAT_CJFULL = b2n (firstBlank m.comm).isNone ∧
      (leAt 0 4 m.desc ≠ 0x444B5844 → u.rd KEY_STAT_STATE = 3 ∧ u.key.image = none) ∧
      (leAt 0 4 m.desc = 0x444B5844 → leAt 12 4 m.desc ≠ crc32c (slice 0 12 m.desc) →
        u.rd KEY_STAT_STATE = 4 ∧ u.rd KEY_FAULT_DETAIL = 1 ∧ u.key.image = none) ∧
      (leAt 0 4 m.desc = 0x444B5844 → leAt 12 4 m.desc = crc32c (slice 0 12 m.desc) →
        (keyChoice hwIssue m = none → u.rd KEY_STAT_STATE = 4 ∧
          u.rd KEY_FAULT_DETAIL = (keyWorst hwIssue m).1.detail % 2 ^ 16 ∧ u.key.image = none) ∧
        ∀ a, keyChoice hwIssue m = some a → u.key.area = a ∧
          let e := s.judgeArea a (keyArea m a).payload
          (e.state = 0 → u.key.image = some (keyArea m a) ∧ u.rd KEY_STAT_STATE = s.rd KEY_STAT_STATE) ∧
          (e.state ≠ 0 → u.key.image = none ∧ u.rd KEY_STAT_STATE = e.state % 2 ^ 4 ∧
            u.rd KEY_FAULT_DETAIL = e.detail % 2 ^ 16 ∧ u.rd KEY_FAULT_SECTION = e.sect % 2 ^ 8)) ∧
      Touches [KEY_STAT_STATE, KEY_FAULT_DETAIL, KEY_FAULT_SECTION, KEY_FAULT_FAREA, KEY_STAT_CJFULL, KEY_STAT_HJFULL,
        KEY_JRN_CNT_CONF, KEY_JRN_CNT_HIST] [] [.now, .resp, .out, .pw, .key] s u)

/-- R79, R80, R88, R89: key apply. Without a key that agrees the module runs keyless, on the defaults; with one its
identity, generation and length show, and the state is LOADED. Where the spec leaves a point open, the model's reading
stands (log entries 43, 44, 45, 46, 48, 95, 96, 111, 123, 124). -/
def Obligations.KeyApply : Prop :=
  ∀ (s : State) (a : KeyArea) (bad : BitVec 4) (t : Nat),
    s.pw.phase = .running → s.pw.exhausted = false → s.pw.start.keyRead = true → s.pw.start.applied = false →
    (s.rd KEY_STAT_STATE ≠ 0 → Does (.keyApplyDone bad t) s fun u =>
      u.pw.start.applied = true ∧ u.io.active = true ∧ u.rd STD_OPT_INITMODE1 = 2 ∧ u.rd STD_LKO_CFG_MAX = 100 ∧
      u.rd REC_LAYOUT_HWN = 0x100000 ∧ u.rd PWR_POL_GUARD = 20 ∧ u.rd KEY_STAT_STATE = s.rd KEY_STAT_STATE ∧
      ∀ e, e < 4 → (u.engine e).prog = (s.engine e).prog) ∧
    (s.key.image = some a → s.rd KEY_STAT_STATE = 0 →
      ((s.begin t).klDefaults.applySections s.key.serial a.payload bad.toNat).applyFail a.payload =
        none → Does (.keyApplyDone bad t) s fun u =>
      u.pw.start.applied = true ∧ u.io.active = true ∧ u.rd KEY_STAT_STATE = 1 ∧ u.rd KEY_STAT_AREA = s.key.area % 2 ∧
      u.rd KEY_GEN = keyGen a.payload % 2 ^ 32 ∧ u.rd KEY_PAYLEN = keyPaylen a.payload % 2 ^ 32 ∧
      u.rd KEY_VEH_ID0_DOMAIN = leAt 0 1 (sectionData a.payload 1) % 2 ^ 8 ∧ u.cnp.admitted = true)

/-- R69, R73, R82, R83, R97, R99, R100, R548: The key's contacts after the start, from the lock of the PLLs to the
park. What was read from the key stays; a confirmation that is being written fails as the key is removed. The
commissioning confirmation, accepted only where nothing speaks against it and then written to the first blank slot of
the journal, and the module history record of the first join. Where the spec leaves a point open, the model's reading
stands (log entries 43, 44, 45, 46, 48, 95, 96, 111, 123, 124). -/
def Obligations.KeyContactsAndJournals : Prop :=
  (∀ (s : State) (m : KeyMem) (t : Nat), s.keyShown = true →
     (s.key.mem.isSome = true → s.key.conf = none → Does (.keyPresentChange none t) s fun u =>
       u.rd KEY_STAT_PRESENT = 0 ∧ u.rd KEY_STAT_REMOVED = 1 ∧ u.key = { s.key with mem := none, lost := true } ∧
       Notes [231] [(2, 2, 231, 0xFFFF)] s u ∧
       Touches [KEY_STAT_PRESENT, KEY_STAT_REMOVED] [.pend, .ingress] [.now, .resp, .out, .pw, .rcd, .key] s u) ∧
     (s.key.mem.isSome = true → s.key.conf.isSome = true → Does (.keyPresentChange none t) s fun u =>
       u.rd KEY_STAT_PRESENT = 0 ∧ u.rd KEY_STAT_REMOVED = 1 ∧
       u.key = { s.key with mem := none, lost := true, conf := none } ∧
       u.rd KEY_CONF_STAT_BUSY = 0 ∧ u.rd KEY_CONF_STAT_FAIL = 1 ∧ u.rd KEY_CONF_STAT_ERR = 5 ∧
       Notes [230, 231] [(2, 2, 231, 0xFFFF)] s u ∧
       Touches [KEY_STAT_PRESENT, KEY_STAT_REMOVED, KEY_CONF_STAT_BUSY, KEY_CONF_STAT_FAIL, KEY_CONF_STAT_ERR]
         [.pend, .ingress] [.now, .resp, .out, .pw, .rcd, .key] s u) ∧
     (s.key.mem = none → Does (.keyPresentChange (some m) t) s fun u =>
       u.rd KEY_STAT_PRESENT = 1 ∧ u.key = { s.key with mem := some m } ∧ Notes [] [(4, 2, 0xFF, 0xFFFF)] s u ∧
       Touches [KEY_STAT_PRESENT] [.pend, .ingress] [.now, .resp, .out, .pw, .rcd, .key] s u) ∧
     (s.key.latched = true → Does (.keyLatchChange false t) s fun u =>
       u.rd KEY_STAT_LATCH = 0 ∧ u.rd KEY_STAT_UNLATCHED = 1 ∧ u.key = { s.key with latched := false, lost := true } ∧
       Notes [231] [(2, 2, 231, 0xFFFF)] s u ∧
       Touches [KEY_STAT_LATCH, KEY_STAT_UNLATCHED] [.pend, .ingress] [.now, .resp, .out, .pw, .rcd, .key] s u) ∧
     (s.key.latched = false → Does (.keyLatchChange true t) s fun u =>
       u.rd KEY_STAT_LATCH = 1 ∧ u.key = { s.key with latched := true } ∧ Notes [] [(4, 2, 0xFF, 0xFFFF)] s u ∧
       Touches [KEY_STAT_LATCH] [.pend, .ingress] [.now, .resp, .out, .pw, .rcd, .key] s u)) ∧
  (∀ (s : State) (m : KeyMem) (i : Nat) (r back : List Byte) (t : Nat), s.pw.phase = .running → s.key.mem = some m →
     (s.rd KEY_CONF_STAT_BUSY = 0 → s.loaded = true → s.key.lost = false → s.rd KEY_CONF_CRC = s.rng.pcrc →
       s.tsync = true → firstBlank s.key.comm = some i → Does (.confirmationWrite t) s fun u =>
       u.rd KEY_CONF_STAT_BUSY = 1 ∧ u.rd KEY_CONF_STAT_ERR = 0 ∧ u.key = { s.key with conf := some (i, u.confRecord i) } ∧
       Touches [KEY_CONF_STAT_BUSY, KEY_CONF_STAT_ERR] [] [.now, .resp, .out, .key] s u) ∧
     (s.rd KEY_CONF_STAT_BUSY = 1 → Does (.confirmationWrite t) s fun u =>
       u.rd KEY_CONF_STAT_FAIL = 1 ∧ u.rd KEY_CONF_STAT_ERR = 7 ∧ Raised [230] s u ∧
       Touches [KEY_CONF_STAT_FAIL, KEY_CONF_STAT_ERR] [.pend] [.now, .resp, .out] s u) ∧
     (s.rd KEY_CONF_STAT_BUSY = 0 → s.loaded = false → Does (.confirmationWrite t) s fun u =>
       u.rd KEY_CONF_STAT_FAIL = 1 ∧ u.rd KEY_CONF_STAT_ERR = 6 ∧ Raised [230] s u ∧
       Touches [KEY_CONF_STAT_FAIL, KEY_CONF_STAT_ERR] [.pend] [.now, .resp, .out] s u) ∧
     (s.key.conf = some (i, r) → s.historyDue = false → Does (.confirmationDone r t) s fun u =>
       u.rd KEY_CONF_STAT_BUSY = 0 ∧ u.rd KEY_CONF_STAT_DONE = 1 ∧ u.rd KEY_CONF_STAT_ERR = 0 ∧
       u.key = { s.key with
         conf := none, mem := some { m with comm := journalPut m.comm i r }, comm := journalPut s.key.comm i r } ∧
       Notes [230] [(4, 2, 230, 0xFFFF)] s u ∧
       Touches [KEY_CONF_STAT_BUSY, KEY_CONF_STAT_DONE, KEY_CONF_STAT_ERR, KEY_STAT_CJFULL, KEY_STAT_HJFULL, KEY_JRN_CNT_CONF,
         KEY_JRN_CNT_HIST] [.pend, .ingress] [.now, .resp, .out, .pw, .rcd, .key] s u) ∧
     (s.key.conf = some (i, r) → s.historyDue = false → back ≠ r → Does (.confirmationDone back t) s fun u =>
       u.rd KEY_CONF_STAT_BUSY = 0 ∧ u.rd KEY_CONF_STAT_FAIL = 1 ∧ u.rd KEY_CONF_STAT_ERR = 5 ∧ Raised [230] s u ∧
       u.key = { s.key with
         conf := none, mem := some { m with comm := journalPut m.comm i back }, comm := journalPut s.key.comm i back } ∧
       Touches [KEY_CONF_STAT_BUSY, KEY_CONF_STAT_FAIL, KEY_CONF_STAT_ERR, KEY_STAT_CJFULL, KEY_STAT_HJFULL, KEY_JRN_CNT_CONF,
         KEY_JRN_CNT_HIST] [.pend] [.now, .resp, .out, .key] s u) ∧
     (s.historyDue = true → s.key.last.map (leAt 0x10 8) = some (s.rd64 SYS_SERIAL_LO SYS_SERIAL_HI) →
       Does (.historyRecordWrite none t) s fun u =>
       u.key = { s.key with compared := true } ∧ Touches [] [] [.now, .resp, .out, .key] s u) ∧
     (s.historyDue = true → s.key.last.map (leAt 0x10 8) ≠ some (s.rd64 SYS_SERIAL_LO SYS_SERIAL_HI) →
       firstBlank s.key.hist = some i → Does (.historyRecordWrite none t) s fun u =>
       let r := (s.begin t).histRecord i
       u.key = { s.key with
         compared := true, mem := some { m with hist := journalPut m.hist i r }, hist := journalPut s.key.hist i r } ∧
       u.rd KEY_JRN_CNT_HIST = slotsUsed (journalPut s.key.hist i r) % 2 ^ 16 ∧
       (s.pw.start.recStart = true → s.stagingRoom 8 32 = true → u.rcd.next = s.rcd.next + 1 ∧
         u.rcd.staged.map (·.seq) = s.rcd.staged.map (·.seq) ++ [s.rcd.next]) ∧
       (s.pw.start.recStart = false →
         u.rcd = { s.rcd with own := s.rcd.own ++ [(7, 8, leBytes 8 ((s.key.last.map (leAt 0x10 8)).getD 0))] } ∧
         Touches [KEY_STAT_CJFULL, KEY_STAT_HJFULL, KEY_JRN_CNT_CONF, KEY_JRN_CNT_HIST] []
           [.now, .resp, .out, .rcd, .key] s u)))

/-- R90, R93, R534, R543: the load of stand firmware takes the active slot where it checks, and Seedling begins where
no slot qualifies; a module without links 5.0 s after the start is a train of one. Where the spec leaves a point open,
the model's reading stands (log entries 43, 44, 45, 46, 48, 95, 96, 111, 123, 124). -/
def Obligations.FirmwareLoad : Prop :=
  ∀ (s : State) (k t : Nat), s.pw.phase = .running →
    (s.pw.start.applied = true → s.pw.start.firmware = false → s.cop.run = none → s.slotIn slTrial = none →
      s.slotIn slActive = none → s.slotIn slFallback = none → Does (.firmwareLoadDone t) s fun u =>
      u.pw.start.firmware = true ∧ u.rd FWU_STAT_SEED = 1 ∧ u.fwu.seed.isSome = true ∧ u.fwu.booted = none ∧
      (u.stand 0).formed = true ∧ SameMemory s u) ∧
    (s.pw.start.applied = true → s.pw.start.firmware = false → s.cop.run = none → s.slotIn slTrial = none →
      s.fwu.toSeed = false → s.slotIn slActive = some k → Does (.firmwareLoadDone t) s fun u =>
      u.pw.start.firmware = true ∧ (u.stand 0).formed = true ∧
      if (s.slotCheck k).1 = 0 then
        u.fwu.booted = some k ∧ u.rd FWU_STAT_SLOT = k % 2 ∧ u.rd FWU_STAT_TRIAL = 0 ∧
          ∀ i, i < 4 → u.rd (STD_Sk_STARTPC_LO i) = s.entryOf k % 2 ^ 32
      else (u.fwSlot k).state = slBad) ∧
    (s.rd CNP_PORTSTAT_LINKUP = 0 → s.pw.start.at_ + 5000000000 ≤ t → s.fab.started = false →
      s.syncState = syncListen → Does (.aloneTimeout t) s fun u =>
      u.cnp = { s.cnp with alone := true } ∧ u.rd CNP_SYNC_STAT_STATE = syncAlone ∧ Notes [113] [(3, 9, 113, 0xFFFF)] s u ∧
      Touches [CNP_SYNC_STAT_STATE] [.pend, .ingress] [.now, .resp, .out, .pw, .rcd, .cnp] s u)

/-! ### Ranger -/

/-- R85, R280, R284, R302: the end of Ranger's key phase. A bus error or no eligible block leaves Ranger without
parameters, a block that fails a check in a parameter error, and one that passes runs, or waits to be confirmed. Where
the spec leaves a point open, the model's reading stands (log entries 39, 40, 41, 42). -/
def Obligations.RangerKeyPhase : Prop :=
  ∀ (s : State) (m : KeyMem) (a gen : Nat) (b : List Byte) (tick t : Nat), s.rng.state = rngKey → s.pw.phase = .running →
    Does (.rangerKeyPhaseEnd true tick t) s (fun u =>
      u.rng = { s.rng with state := rngNoparam, area := 3, code := 0x0E } ∧ u.pw.start.keyPhase = true ∧
      Touches [] [] [.now, .resp, .out, .pw, .rng] s u) ∧
    (s.key.mem = none → Does (.rangerKeyPhaseEnd false tick t) s fun u =>
      u.rng = { s.rng with state := rngNoparam, area := 3, code := 0x01 } ∧ u.pw.start.keyPhase = true ∧
      Touches [] [] [.now, .resp, .out, .pw, .rng] s u) ∧
    (s.key.mem = some m → keyRangerChoice m = some (a, b, gen) → Does (.rangerKeyPhaseEnd false tick t) s fun u =>
      u.rng.area = a ∧ u.rng.gen = gen ∧ u.rng.pcrc = crc32c b ∧ u.pw.start.keyPhase = true ∧
      (∀ code, (rngCheck b).map Prod.fst = some code → u.rng.state = rngParamerr ∧ u.rng.code = code) ∧
      (rngCheck b = none → keyConfirms m (crc32c b) = true → u.rng.state = rngRun ∧ u.rng.code = 0) ∧
      (rngCheck b = none → keyConfirms m (crc32c b) = false → u.rng.state = rngUnconfirmed ∧ u.rng.code = 0x0D) ∧
      (rngCheck b = none → u.rng.param = some (rngParse b)) ∧
      Touches [] [] [.now, .resp, .out, .pw, .rng] s u)

/-- R248, R253, R278, R281, R290, R295, R296, R571, R572, R573: Ranger's filters take a level sample, an edge moves a
quadrature pair by one and stamps a zero-speed channel, and a held pair is free again after 100 ms. A copy of a safe
message is attributed by its identities and judged; the first good one is accepted, one with a wrong check value is
rejected with code 1; a connection that has waited for its time-out loses freshness, which counts. Where the spec
leaves a point open, the model's reading stands (log entries 39, 40, 41, 42). -/
def Obligations.RangerInputsAndMessages : Prop :=
  (∀ (s : State) (q : RParam) (levels : BitVec 192) (n : Fin 192) (level : Bool) (k ch tr c : Nat) (y : Bool)
     (p : RPair) (x1 x2 x3 tick : Nat),
     (s.rng.param = some q → rngEvaluates s.rng.state = true → q.inputs[k]? = some (ch, tr) →
       s.rng.filters[k]? = some (c, y) → 1 ≤ tr → s.pw.phase ≠ .off →
         Does (.rangerLevelSample levels tick) s fun u =>
       u.rng.raw = levels.toNat ∧ u.rng.state = s.rng.state ∧ u.rng.links = s.rng.links ∧
       (let up := bitAt levels.toNat ch
        let c' := if up then (if c < tr then c + 1 else c) else c - 1
        u.rng.filters[k]? = some (c', if c' = tr then true else if c' = 0 then false else y)) ∧
       Touches [] [] [.resp, .out, .rng] s u) ∧
     (s.rng.param = some q → rngEvaluates s.rng.state = true → n.val % 16 < 4 →
       tblFind n s.rng.edges = some (x1, x2, x3) → Does (.rangerEdge n true tick) s fun u =>
       tblFind n u.rng.edges = some (tick, x1, x2) ∧ Touches [] [] [.resp, .out, .rng] s u) ∧
     (s.rng.param = some q → rngEvaluates s.rng.state = true → n.val % 16 < 4 →
       tblFind (n.val / 2 * 2) s.rng.pairs = some p → p.lastTick ≠ tick → Does (.rangerEdge n level tick) s fun u =>
       (let up := if n.val % 2 = 1 then p.la == level else level != p.lb
        ∃ p', tblFind (n.val / 2 * 2) u.rng.pairs = some p' ∧ p'.pos = p.pos + (if up then 1 else -1) ∧
          p'.la = (if n.val % 2 = 1 then p.la else level) ∧ p'.lb = (if n.val % 2 = 1 then level else p.lb) ∧
          p'.held = p.held) ∧ u.rng.evals = s.rng.evals ∧ Touches [] [] [.resp, .out, .rng] s u) ∧
     (tblFind n s.rng.pairs = some p → p.hold ≤ tick → Does (.rangerQuadHoldEnd n tick) s fun u =>
       tblFind n u.rng.pairs = some { p with held := false } ∧ u.rng = { s.rng with pairs := u.rng.pairs } ∧
       Touches [] [] [.resp, .out, .rng] s u)) ∧
  (∀ (s : State) (q : RParam) (plane : Fin 2) (frame : List Byte) (c : Nat) (cc : Fin 8) (k : RConn) (l : RLink)
     (tick : Nat), s.rng.param = some q → rngEvaluates s.rng.state = true →
     let m := slice 30 (beAt 22 2 frame) frame
     let ulen := leAt 14 2 m
     (m.length = beAt 22 2 frame → beAt 22 2 frame = ulen + 28 →
       q.conns.findIdx? (fun k => k.src == leAt 0 4 m && k.dst == leAt 4 4 m) = some c → q.conns[c]? = some k →
       s.rng.links[c]? = some l → leAt (24 + ulen) 4 m = crc32cSeed k.seed (slice 0 (24 + ulen) m) →
       l.accepted = false → l.alive = none → Does (.rangerSafeCopy plane frame tick) s fun u =>
       u.rng = { s.rng with links := s.rng.links.set c { l with
         accepted := true, seq := leAt 8 4 m, time := leAt 16 8 m, user := slice 24 ulen m, plane := plane.val, tick := tick,
         alive := some (leAt 12 2 m), fresh := !l.flt, sig := sigWord k.sigbyte (slice 24 ulen m) } } ∧
       Touches [] [] [.resp, .out, .rng] s u) ∧
     (m.length = beAt 22 2 frame → beAt 22 2 frame = ulen + 28 →
       q.conns.findIdx? (fun k => k.src == leAt 0 4 m && k.dst == leAt 4 4 m) = some c → q.conns[c]? = some k →
       s.rng.links[c]? = some l → leAt (24 + ulen) 4 m ≠ crc32cSeed k.seed (slice 0 (24 + ulen) m) →
       Does (.rangerSafeCopy plane frame tick) s fun u =>
       u.rng = { s.rng with links := s.rng.links.set c { l with lastRej := 1, rej := min (l.rej + 1) 0xFFFF } } ∧
       Touches [] [] [.resp, .out, .rng] s u) ∧
     (q.conns[cc.val]? = some k → s.rng.links[cc.val]? = some l → l.fresh = true → l.accepted = true → l.flt = false →
       l.tick + k.timeout * 3800 ≤ tick → Does (.rangerConnectionTimeout cc tick) s fun u =>
       u.rng = { s.rng with links := s.rng.links.set cc.val { l with fresh := false, tmo := min (l.tmo + 1) 0xFFFF } } ∧
       Touches [] [] [.resp, .out, .rng] s u))

/-- R279, R285, R294, R298, R302: an evaluation counts, drives each permit lane from the Q of the instance that PMAP
binds it to, in RUN alone, and gives a REL instance the value that FORM makes of its operands; channels that differ, an
oscillator out of its range and a wrong parameter check value each end in FAULT with every permit low. Where the spec
leaves a point open, the model's reading stands (log entries 39, 40, 41, 42). -/
def Obligations.RangerEvaluations : Prop :=
  ∀ (s : State) (q : RParam) (ratio : Nat) (crc : BitVec 32) (tick t : Nat), s.rng.param = some q →
    rngEvaluates s.rng.state = true →
    (9200 ≤ ratio → ratio ≤ 10800 → s.pw.phase ≠ .off → Does (.rangerEvaluation false ratio tick t) s fun u =>
      u.rng.evcnt = (s.rng.evcnt + 1) % 2 ^ 32 ∧ u.rng.state = s.rng.state ∧
      (∀ n, n < 192 → bitAt u.io.permits n =
        if q.pmap.getD n 0xFF = 0xFF then bitAt s.io.permits n
        else s.rng.state == rngRun && ((u.rng.evals[q.pmap.getD n 0xFF]?).map REval.q).getD false) ∧
      (s.rng.evals.length = q.insts.length → ∀ i, i < q.insts.length → ∀ r, q.insts[i]? = some r → r.type = 6 →
        r.ops.length = 4 → (r.ops.all (operandOk q.conns.length i)) = true →
        let v := fun j => opValue u.rng.links (u.rng.evals.map REval.q) (r.ops.getD j 0x8000)
        (u.rng.evals[i]?).map REval.q = some (formValue r.form (v 0) (v 1) (v 2) (v 3))) ∧
      Touches [] [.iog, .chan] [.now, .resp, .out, .io, .rng] s u) ∧
    (s.pw.phase ≠ .off → Does (.rangerEvaluation true ratio tick t) s (fun u =>
      u.rng.state = rngFault ∧ u.rng.code = 0x10 ∧ (∀ n, n < 192 → bitAt u.io.permits n = false) ∧
      Touches [] [.iog, .chan] [.now, .resp, .out, .io, .rng] s u)) ∧
    (ratio < 9200 ∨ 10800 < ratio → s.pw.phase ≠ .off → Does (.rangerEvaluation false ratio tick t) s fun u =>
      u.rng.state = rngFault ∧ u.rng.code = 0x11 ∧ (∀ n, n < 192 → bitAt u.io.permits n = false) ∧
      Touches [] [.iog, .chan] [.now, .resp, .out, .io, .rng] s u) ∧
    (crc.toNat ≠ s.rng.pcrc → Does (.rangerParamCrcCheck crc tick t) s fun u =>
      u.rng.state = rngFault ∧ u.rng.code = 0x12 ∧ (∀ n, n < 192 → bitAt u.io.permits n = false) ∧
      Touches [] [.iog, .chan] [.now, .resp, .out, .io, .rng] s u) ∧
    (crc.toNat = s.rng.pcrc → Does (.rangerParamCrcCheck crc tick t) s fun u =>
      Touches [] [] [.now, .resp, .out] s u)

/-- R304: the mirror shows Ranger's image, in flush mode too, and the loss of the mirror, with no image for 100 µs,
clears LINK with an alarm record. Where the spec leaves a point open, the model's reading stands (log entries 39, 40,
41, 42). -/
def Obligations.RangerMirror : Prop :=
  ∀ (s : State) (t : Nat), s.dieRuns = true →
    Does (.rangerMirrorImage t) s (fun u =>
      u.rd RNG_STAT_LINK = 1 ∧ u.rd RNG_STAT_STATE = s.rng.state % 2 ^ 4 ∧ u.rd RNG_STAT_AREA = s.rng.area % 2 ^ 2 ∧
      u.rd RNG_REASON_CODE = s.rng.code % 2 ^ 8 ∧ u.rd RNG_PCRC = s.rng.pcrc % 2 ^ 32 ∧
      u.rd RNG_EVCNT = s.rng.evcnt % 2 ^ 32 ∧
      (∀ j, j < 6 → u.rd (RNG_PERMITj j) = s.io.permits / 2 ^ (32 * j) % 2 ^ 32) ∧
      u.rng = { s.rng with images := (t :: s.rng.images).take 257 } ∧
      Touches [] [.pend, .rng, .ingress] [.now, .resp, .out, .pw, .rcd, .rng, .fwu] s u) ∧
    (s.rd RNG_STAT_LINK = 1 → s.rng.images.head?.getD 0 + 100000 ≤ t → Does (.rangerMirrorLost t) s fun u =>
      u.rd RNG_STAT_LINK = 0 ∧ Notes [] [(2, 8, 0xFF, 0xFFFF)] s u ∧ u.fwu = { s.fwu with condSince := none } ∧
      Touches [RNG_STAT_LINK] [.pend, .ingress] [.now, .resp, .out, .pw, .rcd, .fwu] s u)

/-! ### Field channels -/

/-- R265, R266, R267, R268, R273: An overload trip or a thermal shutdown of an output channel sets its flag, latches
the channel, opens its switches, and is reported for the flag and for the latch. A channel that only tripped is tried
again after its delay as long as retries are left; its retries are forgotten after 60 s without a trip; an acknowledge
clears the flags that stay set, the latches and the retries of the channels of its mask alone; a flag that was set in
the same clock wins over it (R273). Where the spec leaves a point open, the model's reading stands (log entries 34, 35,
36, 97, 100). -/
def Obligations.ChannelTripsAndRecovery : Prop :=
  (∀ (s : State) (n : Fin 192) (t : Nat), s.isOutput n = true → (s.chan n).latch = 0 →
     let g := n.val / 16
     let one (i : Nat) (u : State) : Prop :=
       u.rd (flagFld n i) = 1 ∧ (u.chan n).latch = 2 ^ i ∧ (u.chan n).tripAt = t ∧ u.rd (IOG_CHn_STAT_LATCHED n) = 1 ∧
       u.rd (IOG_CHn_STAT_FAULT n) = 1 ∧ u.flag (IOG_CHn_STAT_CMDLANE n) = false ∧ u.flag (IOG_CHn_STAT_SWON n) = false ∧
       u.rd (IOG_Gg_STAT_FLTEV g) = 1 ∧ u.rd (IOG_Gg_STAT_LATEV g) = 1 ∧
       Notes [48 + g, 72 + g] [(1, 7, 48 + g, n.val), (1, 7, 72 + g, n.val)] s u ∧
       (∀ m, m ≠ n.val → u.chan m = s.chan m) ∧
       Touches [] [.pend, .iog, .chan, .ingress] [.now, .resp, .out, .pw, .rcd, .io] s u
     (s.rd (flagFld n flTrip) = 0 → Does (.outputTrip n t) s (one flTrip)) ∧
     (s.rd (flagFld n flTherm) = 0 → Does (.thermalShutdown n t) s (one flTherm))) ∧
  (∀ (s : State) (n : Fin 192) (g : Fin 12) (mask : BitVec 16) (t : Nat),
     (s.rd (IOG_CHn_CFG_RETRY n) = 1 → (s.chan n).latch = 2 ^ flTrip →
       s.rd (IOG_CHn_FAULT_RETRIES n) < s.rd (IOG_Gg_CFG_RCOUNT (n.val / 16)) → s.rd (IOG_CHn_FAULT_RETRIES n) < 15 →
       (s.chan n).tripAt + s.rd (IOG_Gg_CFG_RDELAY (n.val / 16)) * 100000000 ≤ t → Does (.autoRetry n t) s fun u =>
       (u.chan n).latch = 0 ∧ u.rd (IOG_CHn_FAULT_TRIP n) = 0 ∧ u.rd (IOG_CHn_FAULT_THERM n) = 0 ∧
       u.rd (IOG_CHn_FAULT_RETRIES n) = s.rd (IOG_CHn_FAULT_RETRIES n) + 1 ∧ (∀ m, m ≠ n.val → u.chan m = s.chan m) ∧
       Touches [] [.iog, .chan] [.now, .resp, .out, .io] s u) ∧
     ((s.chan n).want = true → (s.chan n).since + 60000000000 ≤ t → (s.chan n).tripAt ≤ (s.chan n).since →
       Does (.retriesClear n t) s fun u =>
       u.rd (IOG_CHn_FAULT_RETRIES n) = 0 ∧ Touches [IOG_CHn_FAULT_RETRIES n] [] [.now, .resp, .out] s u) ∧
     (s.pw.phase = .running → Does (.channelAck g mask t) s (fun u =>
       (∀ k, k < 16 → bitAt mask.toNat k = true → let m := 16 * g.val + k
         u.rd (IOG_CHn_FAULT_RETRIES m) = 0 ∧
         (t ≠ s.now → (u.chan m).latch = 0) ∧
         ∀ i ∈ [flStuck, flHeld, flCross, flTrip, flTherm],
           (t ≠ s.now ∨ s.hit (flagFld m i) = 0 → u.rd (flagFld m i) = 0) ∧
           (t = s.now → s.hit (flagFld m i) ≠ 0 → u.rd (flagFld m i) = s.rd (flagFld m i) ∧
             bitAt (u.chan m).latch i = bitAt (s.chan m).latch i)) ∧
       (∀ k, k < 16 → bitAt mask.toNat k = false → let m := 16 * g.val + k
         (u.chan m).latch = (s.chan m).latch ∧ u.rd (IOG_CHn_FAULT_RETRIES m) = s.rd (IOG_CHn_FAULT_RETRIES m) ∧
         ∀ i, i < 8 → u.rd (flagFld m i) = s.rd (flagFld m i)) ∧
       (∀ m, m < 192 → m / 16 ≠ g.val → u.chan m = s.chan m) ∧
       Touches [] [.iog, .chan] [.now, .resp, .out, .io] s u)))

/-- R240, R270, R271, R570: The supply of a group moves with the crossings of its thresholds and with an acknowledge;
each move is reported, and a group without supply latches. A frame of a group's status link updates what it measures,
and a link lost leaves the group unpowered. Where the spec leaves a point open, the model's reading stands (log entries
34, 35, 36, 97, 100). -/
def Obligations.SupplyStatesAndLinks : Prop :=
  (∀ (s : State) (g : Fin 12) (t : Nat),
     let moved (st : Nat) (u : State) : Prop :=
       u.rd (IOG_Gg_STAT_SUPPLY g) = st ∧ u.rd (IOG_Gg_STAT_SUPEV g) = 1 ∧
       Notes [60 + g.val] [(5, 7, 60 + g.val, g.val)] s u ∧
       Touches [] [.pend, .iog, .chan, .ingress] [.now, .resp, .out, .pw, .rcd, .io] s u
     (s.supply g = supNormal → Does (.supplyFallingCross g .warning t) s (moved supWarning)) ∧
     (s.supply g = supNormal ∨ s.supply g = supWarning → Does (.supplyFallingCross g .undervoltage t) s fun u =>
       moved supUnder u ∧ u.rd (IOG_Gg_SUPCNT_UV g) = min (s.rd (IOG_Gg_SUPCNT_UV g) + 1) 0xFFFF) ∧
     (s.supply g ≠ supStarting → s.supply g ≠ supUnpowered → Does (.supplyFallingCross g .unpowered t) s fun u =>
       moved supUnpowered u ∧ u.rd (IOG_Gg_SUPCNT_UP g) = min (s.rd (IOG_Gg_SUPCNT_UP g) + 1) 0xFFFF ∧
       (u.group g).latch = true ∧ ∀ k, k < 16 → u.flag (IOG_CHn_STAT_CMDLANE (16 * g.val + k)) = false) ∧
     (s.rd (IOG_Gg_STAT_LINK g) = 1 → s.supply g = supUnder →
       Does (.supplyRisingCross g .recovery t) s (moved supWarning)) ∧
     (s.rd (IOG_Gg_STAT_LINK g) = 1 → s.supply g = supWarning →
       Does (.supplyRisingCross g .warningCleared t) s (moved supNormal)) ∧
     (s.rd (IOG_Gg_STAT_LINK g) = 1 → s.supply g = supUnpowered → s.rd (IOG_Gg_CFG_AUTOREC g) = 0 →
       Does (.supplyRisingCross g .recovery t) s fun u =>
       moved supRecovered u ∧ (u.group g).latch = (s.group g).latch) ∧
     (s.supply g = supRecovered → Does (.supplyAck g t) s fun u =>
       moved (if (s.group g).aboveWarn then supNormal else supWarning) u ∧ (u.group g).latch = false)) ∧
  (∀ (s : State) (g : Fin 12) (volt : Nat) (currs : List Nat) (temp : BitVec 8) (limit : BitVec 16) (t : Nat),
     (s.dieRuns = true → Does (.statusLinkFrame g volt currs temp limit t) s (fun u =>
       u.rd (IOG_Gg_STAT_LINK g) = 1 ∧ u.bit IOG_CAP_LINK g = true ∧ u.rd (IOG_Gg_VSUP_VOLT g) = min volt 0xFFFF ∧
       u.rd (IOG_Gg_ISUP_CURR g) = min (currs.take 16).sum 0xFFFF ∧ u.rd (IOG_Gg_TEMP_NOW g) = temp.toNat ∧
       (u.group g).frame = t ∧ (∀ k, k < 16 → let n := 16 * g.val + k
         (u.chan n).curr = currs.getD k 0 ∧ (u.chan n).limit = bitAt limit.toNat k ∧
         u.rd (IOG_CHn_STAT_CURR n) = min (currs.getD k 0 / 4) 0x3FF) ∧
       (∀ m, m < 192 → m / 16 ≠ g.val → u.chan m = s.chan m) ∧
       Touches [] [.iog, .chan] [.now, .resp, .out, .io] s u)) ∧
     (s.rd (IOG_Gg_STAT_LINK g) = 1 → (s.group g).frame + 50000 ≤ t → s.supply g ≠ supStarting →
       s.supply g ≠ supUnpowered → Does (.statusLinkLost g t) s fun u =>
       u.rd (IOG_Gg_STAT_LINK g) = 0 ∧ u.bit IOG_CAP_LINK g = false ∧ u.rd (IOG_Gg_STAT_SUPPLY g) = supUnpowered ∧
       (u.group g).latch = true ∧ Notes [60 + g.val] [(5, 7, 60 + g.val, g.val)] s u ∧
       Touches [] [.pend, .iog, .chan, .ingress] [.now, .resp, .out, .pw, .rcd, .io] s u))

/-- R252, R253, R254, R272: Counter edges and frequency gates. The function reset of a group stops its scanner image
and counters and keeps its faults, its latches and its supply state; its end sets RSTDONE. Where the spec leaves a
point open, the model's reading stands (log entries 34, 35, 36, 97, 100). -/
def Obligations.CountersAndGroupResets : Prop :=
  (∀ (s : State) (n : Fin 192) (level : Bool) (op k last t : Nat), s.io.active = true →
     (s.group (n.val / 16)).resetting = false → s.supply (n.val / 16) ≠ supUnpowered →
     (s.chMode n = modeCounter → s.quadB n = false → s.rd (IOG_CHn_CFG_QUAD n) = 0 → Does (.counterEdge n level false t) s fun u =>
       let counts := if s.rd (IOG_CHn_CFG_EDGE n) = 0 then level else if s.rd (IOG_CHn_CFG_EDGE n) = 1 then !level else true
       u.chan n = { s.chan n with
         level := level, count := if counts then ((s.chan n).count + 1) % 2 ^ 32 else (s.chan n).count } ∧
       (∀ m, m ≠ n.val → u.chan m = s.chan m) ∧ Touches [] [] [.now, .resp, .out, .io] s u) ∧
     (s.chMode n = modeCounter → s.quadB n = false → s.rd (IOG_CHn_CFG_QUAD n) = 1 → Does (.counterEdge n level false t) s fun u =>
       let up := level != (s.chan (n.val + 1)).level
       u.chan n = { s.chan n with level := level, count := ((s.chan n).count + (if up then 1 else 2 ^ 32 - 1)) % 2 ^ 32 } ∧
       u.chan (n.val + 1) = { s.chan (n.val + 1) with down := !up } ∧
       (∀ m, m ≠ n.val → m ≠ n.val + 1 → u.chan m = s.chan m) ∧ Touches [] [] [.now, .resp, .out, .io] s u) ∧
     (s.chMode n = modeFrequency → (s.chan n).gate = none → Does (.counterEdge n true false t) s fun u =>
       u.chan n = { s.chan n with level := true, gate := some ⟨t / 10 * 10, 0, t / 10 * 10⟩ } ∧
       (∀ m, m ≠ n.val → u.chan m = s.chan m) ∧ Touches [] [] [.now, .resp, .out, .io] s u) ∧
     ((s.chan n).gate = some ⟨op, k, last⟩ → op + 100000000 ≤ t → Does (.frequencyGateTimeout n t) s fun u =>
       u.chan n = { s.chan n with
         count := if k = 0 then 0 else k * 1000000000000 / (last - op), gate := none, gated := true } ∧
       (∀ m, m ≠ n.val → u.chan m = s.chan m) ∧ Touches [] [] [.now, .resp, .out, .io] s u)) ∧
  (∀ (s : State) (g : Fin 12) (t : Nat),
     (s.pw.phase = .running → Does (.groupReset g t) s (fun u =>
       (u.group g).resetting = true ∧ (u.group g).image.valid = false ∧ (u.group g).mark.valid = false ∧
       (u.group g).latch = (s.group g).latch ∧ u.supply g = s.supply g ∧
       (∀ k, k < 16 → let n := 16 * g.val + k
         (u.chan n).count = 0 ∧ (u.chan n).qerr = 0 ∧ (u.chan n).gate = none ∧ (u.chan n).latch = (s.chan n).latch ∧
         ∀ i, i < 8 → u.rd (flagFld n i) = s.rd (flagFld n i)) ∧
       Touches [] [.iog, .chan] [.now, .resp, .out, .io] s u)) ∧
     ((s.group g).resetting = true → Does (.groupResetDone g t) s fun u =>
       u.group g = { s.group g with resetting := false } ∧ u.rd (IOG_Gg_STAT_RSTDONE g) = 1 ∧
       Touches [] [.iog, .chan] [.now, .resp, .out, .io] s u))

/-- R247, R248, R250: the scanner samples every channel at multiples of 10 µs: its filter takes one step, and its group
publishes an image, which at a cycle mark is the mark copy too. At any other instant there is no sample. Where the spec
leaves a point open, the model's reading stands (log entries 34, 35, 36, 97, 100). -/
def Obligations.ScannerSamples : Prop :=
  ∀ (s : State) (levels : BitVec 192) (g : Fin 12) (k : Fin 16) (t : Nat),
    let n := 16 * g.val + k.val
    (s.io.active = true → t % 10000 = 0 → s.io.pulse = none → (s.group g).resetting = false → (s.group g).seed = false →
      (s.chan n).frozen ≤ t → Does (.scannerSample levels t) s fun u =>
      let v := bitAt levels.toNat n
      let c := s.chan n
      let c' := if v then (if c.c < s.rd (IOG_CHn_FILT_T n) then c.c + 1 else c.c) else c.c - 1
      (u.chan n).c = c' ∧
      (u.chan n).y = (if c' = s.rd (IOG_CHn_FILT_T n) then true else if c' = 0 then false else c.y) ∧
      u.rd (IOG_CHn_STAT_RAW n) = b2n v ∧ u.rd (IOG_Gg_STAT_SCANOK g) = 1 ∧ u.rd (IOG_Gg_AGE_AGE g) = 0 ∧
      (u.group g).image.valid = true ∧ (u.group g).image.stamp = t ∧
      (u.group g).mark = (if t % s.tcNs = 0 then (u.group g).image else (s.group g).mark) ∧
      Touches [] [.pend, .iog, .chan, .ingress] [.now, .resp, .out, .pw, .rcd, .io] s u) ∧
    (t % 10000 ≠ 0 → Does (.scannerSample levels t) s fun u => Touches [] [] [.now, .resp, .out] s u)

/-- R214, R257, R262, R263, R264: Where the image that a Free group applied last grows too old, its command lanes take
their fallback. A slot of 2 ms belongs to the group of its number; the chosen switch opens, the channel that stays high
while its current has fallen is found HELD, and the switch closes again. Where the spec leaves a point open, the
model's reading stands (log entries 34, 35, 36, 97, 100). -/
def Obligations.StaleOutputsAndPulses : Prop :=
  (∀ (s : State) (g : Fin 12) (t : Nat), s.rd (IOG_Gg_CFG_OWNEN g) = 1 → s.rd (IOG_Gg_CFG_MARKED g) = 0 →
     (s.group g).stale = false →
     s.outLimit (s.rd (IOG_Gg_CFG_OWNER g)) < min (2 ^ 32 - 1) ((t - (s.group g).stamp) / 1000) * 1000 →
     Does (.outputStale g t) s fun u =>
       u.group g = { s.group g with stale := true } ∧
       (∀ k, k < 16 → let n := 16 * g.val + k
         s.chMode n ≠ modeOutput ∨ s.rd (IOG_CHn_CFG_FALLBACK n) = 0 → u.flag (IOG_CHn_STAT_CMDLANE n) = false) ∧
       (∀ m, m < 192 → m / 16 ≠ g.val → u.chan m = s.chan m) ∧
       Touches [] [.iog, .chan] [.now, .resp, .out, .io] s u) ∧
  (∀ (s : State) (p : Pulse) (t : Nat), s.io.active = true → p.ch < 192 →
     (t % 2000000 = 0 → s.io.pulse = none → s.dueChans (t / 2000000 % 12) = [] → (s.begin t).dueChans (t / 2000000 % 12) = [] →
       Does (.offPulseSlot .begin t) s fun u =>
       u.rd IOG_PLSSLOT_GROUP = t / 2000000 % 12 ∧ u.rd IOG_PLSSLOT_CHAN = 0xFF ∧ u.io.pulse = none ∧
       Touches [IOG_PLSSLOT_GROUP, IOG_PLSSLOT_CHAN] [] [.now, .resp, .out] s u) ∧
     (s.io.pulse = some p → p.opened = false → p.openAt + 100000 ≤ t → s.decideLane p.ch = true → s.chMode p.ch = modeOutput →
       Does (.offPulseSlot .opens t) s fun u =>
       u.rd (IOG_CHn_STAT_PULSING p.ch) = 1 ∧ u.flag (IOG_CHn_STAT_SWON p.ch) = false ∧
       (u.io.pulse.map fun q => (q.ch, q.permit, q.opened, q.openAt)) = some (p.ch, p.permit, true, t) ∧
       (u.chan p.ch).pulsed = t ∧ Touches [] [.iog, .chan] [.now, .resp, .out, .io] s u) ∧
     (s.io.pulse = some p → p.opened = true → p.judged = false → s.pulseJudgeAt p ≤ t → t < s.pulseJudgeAt p + 10000 → s.rd (IOG_CHn_STAT_RAW p.ch) = 0 → p.before = 0 →
       Does (.offPulseSlot .judge t) s fun u =>
       u.io.pulse = some { p with judged := true } ∧ u.rd (IOG_Gg_PLSLAST_CHAN (p.ch / 16)) = p.ch % 16 ∧
       u.rd (IOG_Gg_PLSLAST_PASS (p.ch / 16)) = 1 ∧ u.rd (IOG_Gg_PLSLAST_JUDGED (p.ch / 16)) = 1 ∧
       Touches [] [.iog] [.now, .resp, .out, .io] s u) ∧
     (s.io.pulse = some p → p.opened = true → s.pulseClosesAt p ≤ t → Does (.offPulseSlot .closes t) s fun u =>
       u.io.pulse = none ∧ u.rd IOG_PLSSLOT_CHAN = 0xFF ∧ u.rd (IOG_CHn_STAT_PULSING p.ch) = 0 ∧
       u.flag (IOG_CHn_STAT_SWON p.ch) = (u.chan p.ch).want ∧
       Touches [] [.iog, .chan] [.now, .resp, .out, .io] s u))

/-! ### Logic engines: instructions -/

/-- R174, R176, R177: bit logic. Loads and combinations with a bit of data memory or a system bit, of which there are
five and only OV can be stored to; stores, which leave every other bit as it was, and of which S and R do nothing while
BA is 0; the branch stack, on which BOPEN pushes BA with its pending operation and from which BCLOSE pops and combines,
with the faults of a full stack, of one at the frame base, of an undefined operation and of a system bit that is none. -/
def Obligations.LeBitLogic : Prop :=
  ∀ (s : State) (e mod : Fin 4) (x : Fin 16) (opnd : Fin 1048576) (b : Bool) (rest : List (Bool × Nat)), LeGoes s e →
    let r := s.engine e
    let v := s.bitVal e mod opnd
    let a := bitAddr r mod opnd
    let on := { r with pc := r.pc + 1 }
    let after (b : Bool) := EngineTo e { on with ba := b } s
    let base := match r.cstack with | [] => 0 | f :: _ => f.depth
    let stored (b : Bool) (u : State) : Prop :=
      EngineWrites e on (a / 8) 1 s u ∧
      ∀ j, j < 8 → (u.leByte (leDataBase e + a / 8)).getLsbD j =
        if j = a % 8 then b else (s.leByte (leDataBase e + a / 8)).getLsbD j
    (BitOk s e mod opnd →
      Does (.leLd e mod 0 opnd) s (after v) ∧ Does (.leLdn e mod 0 opnd) s (after !v) ∧
      Does (.leAnd e mod 0 opnd) s (after (r.ba && v)) ∧ Does (.leAndn e mod 0 opnd) s (after (r.ba && !v)) ∧
      Does (.leOr e mod 0 opnd) s (after (r.ba || v)) ∧ Does (.leOrn e mod 0 opnd) s (after (r.ba || !v)) ∧
      Does (.leXor e mod 0 opnd) s (after (r.ba ^^ v)) ∧ Does (.leXorn e mod 0 opnd) s (after (r.ba ^^ !v)) ∧
      Does (.leLds e mod 0 opnd) s (EngineTo e { on with si := v } s) ∧
      Does (.leLds e mod 1 opnd) s (EngineTo e { on with si := !v } s)) ∧
    Does (.leNot e 0 0 0) s (after !r.ba) ∧
    Does (.leLd e 2 0 0) s (after false) ∧ Does (.leLd e 2 0 1) s (after true) ∧ Does (.leLd e 2 0 2) s (after r.ov) ∧
    Does (.leLd e 2 0 3) s (after r.first) ∧ Does (.leLd e 2 0 4) s (after r.changed) ∧
    (4 < opnd.val → Does (.leLd e 2 0 opnd) s (EngineFaults e 0x01 s) ∧
      Does (.leSt e 2 0 opnd) s (EngineFaults e 0x01 s)) ∧
    (opnd.val ≤ 4 → opnd.val ≠ 2 → Does (.leSt e 2 0 opnd) s (EngineFaults e 0x09 s) ∧
      Does (.leStn e 2 0 opnd) s (EngineFaults e 0x09 s) ∧ Does (.leS e 2 0 opnd) s (EngineFaults e 0x09 s) ∧
      Does (.leROp e 2 0 opnd) s (EngineFaults e 0x09 s)) ∧
    (mod ≠ 2 → BitOk s e mod opnd →
      Does (.leSt e mod 0 opnd) s (stored r.ba) ∧ Does (.leStn e mod 0 opnd) s (stored !r.ba) ∧
      (r.ba = true → Does (.leS e mod 0 opnd) s (stored true)) ∧
      (r.ba = true → Does (.leROp e mod 0 opnd) s (stored false)) ∧
      (r.ba = false → Does (.leS e mod 0 opnd) s (EngineTo e on s)) ∧
      (r.ba = false → Does (.leROp e mod 0 opnd) s (EngineTo e on s))) ∧
    Does (.leSt e 2 0 2) s (EngineTo e { on with ov := r.ba } s) ∧
    Does (.leStn e 2 0 2) s (EngineTo e { on with ov := !r.ba } s) ∧
    Does (.leS e 2 0 2) s (EngineTo e { on with ov := r.ov || r.ba } s) ∧
    Does (.leROp e 2 0 2) s (EngineTo e { on with ov := r.ov && !r.ba } s) ∧
    (BitOk s e mod opnd → x.val ≤ 5 → r.bstack.length < 16 → Does (.leBopen e mod x opnd) s
      (EngineTo e { on with ba := v, bstack := (r.ba, x.val) :: r.bstack } s)) ∧
    (BitOk s e mod opnd → x.val ≤ 5 → 16 ≤ r.bstack.length → Does (.leBopen e mod x opnd) s (EngineFaults e 0x04 s)) ∧
    (5 < x.val → Does (.leBopen e mod x opnd) s (EngineFaults e 0x01 s)) ∧
    (r.bstack = (b, x.val) :: rest → base ≤ rest.length → x.val ≤ 5 → Does (.leBclose e 0 0 0) s (EngineTo e { on with
        ba := [b && r.ba, b && !r.ba, b || r.ba, b || !r.ba, b ^^ r.ba, b ^^ !r.ba].getD x.val false
        bstack := rest } s)) ∧
    (r.bstack.length ≤ base → Does (.leBclose e 0 0 0) s (EngineFaults e 0x05 s))

/-- R174, R179, R180: loads and arithmetic on WA. Sums, differences and products wrap, and OV is set and stays set
where the signed result does not fit; logic and shifts zero-extend an immediate; a shift by 32 or more leaves nothing.
Where the spec leaves a point open, the model's reading stands (log entries 15, 18, 102, 103, 115, 116). -/
def Obligations.LeWordArithmetic : Prop :=
  ∀ (s : State) (e mod size : Fin 4) (opnd : Fin 1048576), LeGoes s e → WordOk s e mod size opnd →
    let r := s.engine e
    let x : Fin 16 := ⟨size.val, by omega⟩
    let v := s.wordVal e mod size opnd true
    let w := s.wordVal e mod size opnd false
    let after (a : Word) (o : Bool) := EngineTo e { r with wa := a, ov := o, pc := r.pc + 1 } s
    Does (.leLdw e mod x opnd) s (after v r.ov) ∧
    Does (.leAdd e mod x opnd) s (after (r.wa + v) (r.ov || r.wa.saddOverflow v)) ∧
    Does (.leSub e mod x opnd) s (after (r.wa - v) (r.ov || r.wa.ssubOverflow v)) ∧
    Does (.leMul e mod x opnd) s (after (r.wa * v) (r.ov || r.wa.smulOverflow v)) ∧
    Does (.leAndw e mod x opnd) s (after (r.wa &&& w) r.ov) ∧
    Does (.leOrw e mod x opnd) s (after (r.wa ||| w) r.ov) ∧
    Does (.leXorw e mod x opnd) s (after (r.wa ^^^ w) r.ov) ∧
    Does (.leShl e mod x opnd) s (after (r.wa <<< w.toNat) r.ov) ∧
    Does (.leShr e mod x opnd) s (after (r.wa >>> w.toNat) r.ov) ∧
    Does (.leSar e mod x opnd) s (after (r.wa.sshiftRight w.toNat) r.ov)

/-- R174, R180: compares set BA and nothing else; X[3] makes an ordered compare unsigned. Where the spec leaves a point
open, the model's reading stands (log entries 15, 18, 102, 103, 115, 116). -/
def Obligations.LeCompares : Prop :=
  ∀ (s : State) (e mod size : Fin 4) (un : Bool) (opnd : Fin 1048576), LeGoes s e → WordOk s e mod size opnd →
    let r := s.engine e
    let x : Fin 16 := ⟨size.val, by omega⟩
    let xu : Fin 16 := ⟨size.val + 8 * un.toNat, by have := un.toNat_le; omega⟩
    let v := s.wordVal e mod size opnd true
    let lt (a b : Word) : Bool := if un then a.ult b else a.slt b
    let after (b : Bool) := EngineTo e { r with ba := b, pc := r.pc + 1 } s
    Does (.leCeq e mod x opnd) s (after (decide (r.wa = v))) ∧
    Does (.leCne e mod x opnd) s (after (decide (r.wa ≠ v))) ∧
    Does (.leCgt e mod xu opnd) s (after (lt v r.wa)) ∧ Does (.leCge e mod xu opnd) s (after !(lt r.wa v)) ∧
    Does (.leClt e mod xu opnd) s (after (lt r.wa v)) ∧ Does (.leCle e mod xu opnd) s (after !(lt v r.wa))

/-- R174, R179, R198: The instructions between registers, and SIG, whose event is raised where BA is 1. STW stores the
low bytes of WA, low byte first, and every other byte of data memory is as it was. Where the spec leaves a point open,
the model's reading stands (log entries 15, 18, 102, 103, 115, 116). -/
def Obligations.LeRegistersAndStore : Prop :=
  (∀ (s : State) (e : Fin 4) (opnd : Fin 1048576), LeGoes s e →
     let r := s.engine e
     let on := { r with pc := r.pc + 1 }
     Does (.leLdhi e 2 0 opnd) s (EngineTo e { on with wa := BitVec.ofNat 32 opnd.val <<< 12 } s) ∧
     Does (.leLdx e 0 0 0) s (EngineTo e { on with xr := r.wa.toNat % 2 ^ 20 } s) ∧
     Does (.leBtow e 0 0 0) s (EngineTo e { on with wa := if r.ba then 1 else 0 } s) ∧
     Does (.leWtob e 0 0 0) s (EngineTo e { on with ba := decide (r.wa ≠ 0) } s) ∧
     Does (.leSig e 0 0 0) s fun u =>
       u.engine e = on ∧ (∀ i, i ≠ e.val → u.engine i = s.engine i) ∧ Raised (if r.ba then [24 + e.val] else []) s u ∧
         Touches [] [.pend] [.resp, .out, .eng] s u) ∧
  (∀ (s : State) (e mod size : Fin 4) (opnd : Fin 1048576), LeGoes s e → WordOk s e mod size opnd → mod ≠ 2 →
     let r := s.engine e
     let a := byteAddr r mod opnd
     Does (.leStw e mod ⟨size.val, by omega⟩ opnd) s fun u =>
       EngineWrites e { r with pc := r.pc + 1 } a (sizeBytes size) s u ∧
       ∀ i, i < sizeBytes size → u.leByte (leDataBase e + a + i) = (r.wa >>> (8 * i)).setWidth 8)

/-- R174, R178, R181, R182, R184: Jumps go forward to PC + 1 + OPND inside the body that executes; one that is not
taken goes on. CALLU enters a user block with its instance pointer and pushes where to go on; RET and RETC pop it.
Where the spec leaves a point open, the model's reading stands (log entries 15, 18, 102, 103, 115, 116). -/
def Obligations.LeJumpsAndCalls : Prop :=
  (∀ (s : State) (e : Fin 4) (opnd : Fin 1048576), LeGoes s e →
     let r := s.engine e
     let jump := EngineTo e { r with pc := r.pc + 1 + opnd.val } s
     let on := EngineTo e { r with pc := r.pc + 1 } s
     (s.leInBody e (r.pc + 1 + opnd.val) = true →
       Does (.leJmp e 0 0 opnd) s jump ∧ (r.ba = true → Does (.leJc e 0 0 opnd) s jump) ∧
       (r.ba = false → Does (.leJcn e 0 0 opnd) s jump)) ∧
     (r.ba = false → Does (.leJc e 0 0 opnd) s on) ∧ (r.ba = true → Does (.leJcn e 0 0 opnd) s on) ∧
     (s.leInBody e (r.pc + 1 + opnd.val) = false → Does (.leJmp e 0 0 opnd) s (EngineFaults e 0x08 s))) ∧
  (∀ (s : State) (e mod : Fin 4) (x : Fin 16) (opnd : Fin 1048576) (f : Frame) (rest : List Frame), LeGoes s e →
     let r := s.engine e
     let b := 16 * (opnd.val / 65536) + x.val
     let p := ptrAddr r mod opnd
     let back := EngineTo e { r with pc := f.pc, ip := f.ip, xr := f.xr, blk := f.blk, cstack := rest } s
     (mod ≠ 2 → b ≠ 255 → s.leLength e b ≠ 0 → p % 8 = 0 → p + s.blockSize e b ≤ leDataSize → p < leDataSize →
       r.cstack.length < 8 →
       Does (.leCallu e mod x opnd) s (EngineTo e { r with
         cstack := ⟨r.pc + 1, r.ip, r.xr, r.bstack.length, r.blk⟩ :: r.cstack, ip := p, pc := s.leStart e b, blk := b } s)) ∧
     (r.cstack = f :: rest → r.bstack.length = f.depth →
       Does (.leRet e 0 0 0) s back ∧ (r.ba = true → Does (.leRetc e 0 0 0) s back)) ∧
     (r.cstack = f :: rest → r.ba = false →
       Does (.leRetc e 0 0 0) s (EngineTo e { r with pc := r.pc + 1 } s)) ∧
     (r.cstack = [] → Does (.leRet e 0 0 0) s (EngineFaults e 0x08 s)))

/-- R186, R187, R192: timers. The time counts from the edge that started it, in the µs of the take, up to PT; a running
timer reports its deadline. -/
def Obligations.LeTimers : Prop :=
  ∀ (s : State) (e mod : Fin 4) (opnd : Fin 1048576), LeGoes s e → InstOk s e mod opnd 24 →
    let r := s.engine e
    let p := ptrAddr r mod opnd
    let now := r.takeUs
    let pt := s.leNum e p 4
    let et := s.leNum e (p + 4) 4
    let st := s.leNum e (p + 8) 8
    let prev := bitAt (s.leNum e (p + 16) 1) 1
    let run := bitAt (s.leNum e (p + 16) 1) 2
    let since (t : Nat) : Nat := if t ≤ now then min (min (now - t) 0xFFFFFFFF) pt else 0
    let holds (et' st' : Nat) (q run' : Bool) (u : State) : Prop :=
      u.leNum e (p + 4) 4 = et' ∧ u.leNum e (p + 8) 8 = st' % 2 ^ 64 ∧
      u.leNum e (p + 16) 8 = b2n q + 2 * b2n r.ba + 4 * b2n run' ∧
      EngineWrites e { r with
        ba := q, pc := r.pc + 1
        dl := earlier r.dl (if run' then some (st' + pt) else none) } (p + 4) 20 s u
    Does (.leTon e mod opnd) s (
      let st' := if r.ba && !prev then now else st
      let et' := if r.ba then since st' else 0
      let q := r.ba && decide (pt ≤ et')
      holds et' st' q (r.ba && (run || !prev) && !q)) ∧
    Does (.leTof e mod opnd) s (
      let st' := if !r.ba && prev then now else st
      let et' := if r.ba then 0 else if run || prev then since st' else et
      let run' := !r.ba && (run || prev) && decide (et' < pt)
      holds et' st' (r.ba || run') run') ∧
    Does (.leTp e mod opnd) s (
      let starts := !run && r.ba && !prev
      let st' := if starts then now else st
      let et' := if run || starts then since st' else if r.ba then et else 0
      let run' := (run || starts) && decide (et' < pt)
      holds et' st' run' run')

/-- R188: counters count the rising edges of BA, up to the largest and down to the least 32-bit value, and SI resets or
loads them. -/
def Obligations.LeCounters : Prop :=
  ∀ (s : State) (e mod : Fin 4) (opnd : Fin 1048576), LeGoes s e → InstOk s e mod opnd 16 →
    let r := s.engine e
    let p := ptrAddr r mod opnd
    let pv := toSigned 32 (s.leNum e p 4)
    let cv := toSigned 32 (s.leNum e (p + 4) 4)
    let edge := r.ba && !bitAt (s.leNum e (p + 8) 1) 1
    let holds (cv' : Int) (q : Bool) (u : State) : Prop :=
      toSigned 32 (u.leNum e (p + 4) 4) = cv' ∧ u.leNum e (p + 8) 8 = b2n q + 2 * b2n r.ba ∧
      EngineWrites e { r with ba := q, pc := r.pc + 1 } (p + 4) 12 s u
    Does (.leCtu e mod opnd) s (
      let cv' := if r.si then 0 else if edge && decide (cv < 2147483647) then cv + 1 else cv
      holds cv' (decide (pv ≤ cv'))) ∧
    Does (.leCtd e mod opnd) s (
      let cv' := if r.si then pv else if edge && decide (-2147483648 < cv) then cv - 1 else cv
      holds cv' (decide (cv' ≤ 0)))

/-- R189: edge triggers and latches: each answers Q in BA and in bit 0 of its instance. Where the spec leaves a point
open, the model's reading stands (log entries 15, 18, 102, 103, 115, 116). -/
def Obligations.LeTriggersAndLatches : Prop :=
  ∀ (s : State) (e mod : Fin 4) (opnd : Fin 1048576), LeGoes s e → InstOk s e mod opnd 8 →
    let r := s.engine e
    let p := ptrAddr r mod opnd
    let q := bitAt (s.leNum e p 1) 0
    let prev := bitAt (s.leNum e p 1) 1
    let holds (q' prev' : Bool) (u : State) : Prop :=
      u.leNum e p 8 = b2n q' + 2 * b2n prev' ∧ EngineWrites e { r with ba := q', pc := r.pc + 1 } p 8 s u
    Does (.leRTrig e mod opnd) s (holds (r.ba && !prev) r.ba) ∧
    Does (.leFTrig e mod opnd) s (holds (!r.ba && prev) r.ba) ∧
    Does (.leSr e mod opnd) s (holds (r.ba || (!r.si && q)) false) ∧
    Does (.leRs e mod opnd) s (holds (!r.si && (r.ba || q)) false)

/-- R190, R191: CMP compares WA with a threshold and its hysteresis, LIMIT holds WA between its bounds. MOVE copies LEN
bytes where BA is 1, as if all were read before any was written, and writes the reserved word of its instance as 0; a
LEN that is none, operands out of range or off their alignment are faults, whatever BA is. EQV2 holds two channels to
agree; once they have differed for longer than DT the discrepancy stands until both are 0. -/
def Obligations.LeFunctionBlocks : Prop :=
  (∀ (s : State) (e mod : Fin 4) (opnd : Fin 1048576), LeGoes s e → InstOk s e mod opnd 16 →
     let r := s.engine e
     let p := ptrAddr r mod opnd
     let w := r.wa.toInt
     let a := toSigned 32 (s.leNum e p 4)
     let b := toSigned 32 (s.leNum e (p + 4) 4)
     let holds (wa : Word) (q : Bool) (u : State) : Prop :=
       u.leNum e (p + 8) 8 = b2n q ∧ EngineWrites e { r with wa := wa, ba := q, pc := r.pc + 1 } (p + 8) 8 s u
     (a ≤ w → Does (.leCmp e mod opnd) s (holds r.wa true)) ∧
     (w < a - (s.leNum e (p + 4) 4 : Nat) → Does (.leCmp e mod opnd) s (holds r.wa false)) ∧
     (w < a → a - (s.leNum e (p + 4) 4 : Nat) ≤ w →
       Does (.leCmp e mod opnd) s (holds r.wa (bitAt (s.leNum e (p + 8) 1) 0))) ∧
     (b < a → Does (.leLimit e mod opnd) s (holds (BitVec.ofInt 32 a) true)) ∧
     (a ≤ b → w < a → Does (.leLimit e mod opnd) s (holds (BitVec.ofInt 32 a) true)) ∧
     (a ≤ b → b < w → Does (.leLimit e mod opnd) s (holds (BitVec.ofInt 32 b) true)) ∧
     (a ≤ w → w ≤ b → Does (.leLimit e mod opnd) s (holds r.wa false))) ∧
  (∀ (s : State) (e mod : Fin 4) (opnd : Fin 1048576), LeGoes s e → InstOk s e mod opnd 16 →
     let r := s.engine e
     let p := ptrAddr r mod opnd
     let src := s.leNum e p 4
     let dst := s.leNum e (p + 4) 4
     let n := s.leNum e (p + 8) 4
     let lenOk := n % 4 = 0 ∧ 4 ≤ n ∧ n ≤ 32
     let aligned := src % 4 = 0 ∧ dst % 4 = 0
     let within := src + n ≤ leDataSize ∧ dst + n ≤ leDataSize
     let sound := DataSound s e (moveClip src n).1 (moveClip src n).2 ∧ DataSound s e (moveClip dst n).1 (moveClip dst n).2
     (lenOk → aligned → within → sound → r.ba = true → Does (.leMove e mod opnd) s fun u =>
       u.engine e = { r with pc := r.pc + 1 } ∧ (∀ i, i ≠ e.val → u.engine i = s.engine i) ∧
       (∀ i, i < n → u.leByte (leDataBase e + dst + i) = s.leByte (leDataBase e + src + i)) ∧
       (∀ a, a < leDataBase e + dst ∨ leDataBase e + dst + n ≤ a →
         u.leByte a = if leDataBase e + p + 12 ≤ a ∧ a < leDataBase e + p + 16 then 0 else s.leByte a) ∧
       Touches [] [.ecc] [.leMem, .resp, .out, .ecc, .eng] s u) ∧
     (lenOk → aligned → within → r.ba = false → Does (.leMove e mod opnd) s
       (EngineWrites e { r with pc := r.pc + 1 } (p + 12) 4 s)) ∧
     (¬ within → r.ba = false ∨ sound → Does (.leMove e mod opnd) s (EngineFaults e 0x02 s)) ∧
     (within → ¬ aligned → r.ba = false ∨ sound → Does (.leMove e mod opnd) s (EngineFaults e 0x03 s)) ∧
     (within → aligned → ¬ lenOk → r.ba = false ∨ sound → Does (.leMove e mod opnd) s (EngineFaults e 0x0D s))) ∧
  (∀ (s : State) (e mod : Fin 4) (opnd : Fin 1048576), LeGoes s e → InstOk s e mod opnd 24 →
     let r := s.engine e
     let p := ptrAddr r mod opnd
     let dt := s.leNum e p 4
     let st := s.leNum e (p + 8) 8
     let fl := s.leNum e (p + 16) 1
     let run := bitAt fl 1
     let disc := bitAt fl 2
     let anti := bitAt fl 3
     let b := r.si ^^ anti
     let late := decide (st ≤ r.takeUs) && decide (dt < min (r.takeUs - st) 0xFFFFFFFF)
     let holds (q run' disc' : Bool) (st' : Nat) (u : State) : Prop :=
       u.leNum e (p + 4) 4 = 0 ∧ u.leNum e (p + 8) 8 = st' % 2 ^ 64 ∧
       u.leNum e (p + 16) 8 = b2n q + 2 * b2n run' + 4 * b2n disc' + 8 * b2n anti ∧
       EngineWrites e { r with
         ba := q, pc := r.pc + 1
         dl := earlier r.dl (if run' then some (st' + dt) else none) } (p + 4) 20 s u
     (r.ba = false → b = false → Does (.leEqv2 e mod opnd) s (holds false false false st)) ∧
     (r.ba = true → b = true → Does (.leEqv2 e mod opnd) s
       (holds (!(disc || (run && late))) false (disc || (run && late)) st)) ∧
     (r.ba ≠ b → disc = true → Does (.leEqv2 e mod opnd) s (holds false run true st)) ∧
     (r.ba ≠ b → disc = false → run = false → Does (.leEqv2 e mod opnd) s (holds false true false r.takeUs)) ∧
     (r.ba ≠ b → disc = false → run = true → Does (.leEqv2 e mod opnd) s (holds false (!late) late st)))

/-- R193, R194: program faults: an encoding that is not defined, an operand out of range or off its alignment, a full
branch stack and an empty one, a ninth call, a missing block, a return from the main program, and a store to a system
bit. Where the spec leaves a point open, the model's reading stands (log entries 15, 18, 102, 103, 115, 116). -/
def Obligations.LeFaults : Prop :=
  ∀ (s : State) (e mod : Fin 4) (x : Fin 16) (opnd : Fin 1048576), LeGoes s e →
    let r := s.engine e
    let row := e * 2 ^ 14 + bitAddr r mod opnd / 256
    let fault (code : Nat) := EngineFaults e code s
    (x ≠ 0 → Does (.leLd e mod x opnd) s (fault 0x01)) ∧
    Does (.leStw e 2 0 opnd) s (fault 0x01) ∧
    (mod ≠ 2 → 0x80000 ≤ bitAddr r mod opnd → Does (.leLd e mod 0 opnd) s (fault 0x02)) ∧
    (mod ≠ 2 → leDataSize < byteAddr r mod opnd + 4 → Does (.leLdw e mod 0 opnd) s (fault 0x02)) ∧
    (mod ≠ 2 → byteAddr r mod opnd + 4 ≤ leDataSize → byteAddr r mod opnd % 4 ≠ 0 →
      DataSound s e (byteAddr r mod opnd) 4 → Does (.leLdw e mod 0 opnd) s (fault 0x03)) ∧
    (BitOk s e mod opnd → 16 ≤ r.bstack.length → Does (.leBopen e mod 0 opnd) s (fault 0x04)) ∧
    (r.bstack = [] → Does (.leBclose e 0 0 0) s (fault 0x05)) ∧
    (mod ≠ 2 → s.leLength e 0 ≠ 0 → opnd.val < 65536 → ptrAddr r mod opnd % 8 = 0 →
      ptrAddr r mod opnd + s.blockSize e 0 ≤ leDataSize → ptrAddr r mod opnd < leDataSize → 8 ≤ r.cstack.length →
      Does (.leCallu e mod 0 opnd) s (fault 0x06)) ∧
    (mod ≠ 2 → s.leLength e 0 = 0 → opnd.val < 65536 → Does (.leCallu e mod 0 opnd) s (fault 0x07)) ∧
    Does (.leSt e 2 0 1) s (fault 0x09) ∧
    (mod ≠ 2 → bitAddr r mod opnd < 0x80000 → s.isTestRow 5 row = false → s.rowBad 5 row = true →
      Does (.leLd e mod 0 opnd) s fun u =>
        u.leState e = leFaulted ∧ u.rd (LE_Ee_FAULT_CODE e) = 0x0B ∧ u.rd ECC_UE_LOC_MEMID = 5 ∧ u.rd ECC_UE_LOC_ROW = row ∧
        u.rd ECC_STAT_UEEV = 1) ∧
    (mod ≠ 2 → bitAddr r mod opnd < 0x80000 → s.isTestRow 5 row = false → s.rowErr 5 row ≠ 0 → s.rowBad 5 row = false →
      Does (.leLd e mod 0 opnd) s fun u =>
        u.engine e = { r with ba := s.bitVal e mod opnd, pc := r.pc + 1 } ∧ u.leState e = leRunning)

/-! ### Logic engines: programs and cycles -/

/-- R207, R224 to R226: LOAD starts an admission of the image that LE_Ee_LD_ADDR and LE_Ee_LD_LEN name, for an engine
that is RUNNING, STOPPED or FAULTED and whose shadow is not ADMITTING or a pending swap; it is refused otherwise. The
admission ends ADMITTED or REJECTED with the reason and index it found, and the other bank alone takes the image.
DISCARD drops the shadow unless a swap is pending, and SWAP makes the swap of an admitted shadow pending. Where the
spec leaves a point open, the model's reading stands (log entries 17, 20, 22, 23, 24, 25, 26, 124, 118, 119, 127). -/
def Obligations.LeLoading : Prop :=
  ∀ (s : State) (e : Fin 4) (off len : Nat) (old : Option Nat) (t : Nat),
    let r := s.engine e
    let live := s.leState e = leRunning ∨ s.leState e = leStopped ∨ s.leState e = leFaulted
    let others (u : State) := ∀ i, i ≠ e.val → u.engine i = s.engine i
    let report := [LE_Ee_STAT_ADMEV e, LE_Ee_ADM_STAT_REASON e, LE_Ee_ADM_STAT_INDEX e]
    (live → s.rd (LE_Ee_STAT_SHADOW e) ∈ [0, 2, 3] → s.pw.phase = .running →
      Does (.leLoad e t) s fun u =>
      u.rd (LE_Ee_STAT_SHADOW e) = 1 ∧
      u.engine e = { r with shadow := none, load := some (8 * s.rd (LE_Ee_LD_ADDR_OFF e), s.rd (LE_Ee_LD_LEN_LEN e),
        if s.leState e = leRunning then some (s.rd (LE_Ee_ADM_BOUND e)) else none) } ∧ others u ∧
      Touches [LE_Ee_STAT_SHADOW e, PWR_UNIT_UNIT (4 + e)] [] [.now, .resp, .out, .eng] s u) ∧
    (¬ live ∨ s.rd (LE_Ee_STAT_SHADOW e) = 1 ∨ s.rd (LE_Ee_STAT_SHADOW e) = 4 → s.pw.phase = .running →
      Does (.leLoad e t) s fun u =>
      u.rd (LE_Ee_ADM_STAT_REASON e) = 0x13 ∧ u.rd (LE_Ee_STAT_ADMEV e) = 1 ∧
      Notes [28 + e] [(2, 4, 28 + e, e)] s u ∧ Touches report [.pend, .ingress] [.now, .resp, .out, .pw, .rcd] s u) ∧
    (r.load = some (off, len, old) →
      let image := ((s.begin t).loaderImage off len).1
      let a := admitImage image (s.rd (LE_Ee_CYC_BUDGET e)) (s.word (0x10301050 + 0x1000 * e)) old none
      Does (.admissionDone e t) s fun u =>
      u.rd (LE_Ee_ADM_STAT_REASON e) = a.reason % 256 ∧ u.rd (LE_Ee_ADM_STAT_INDEX e) = a.index % 2 ^ 18 ∧
      u.rd (LE_Ee_STAT_ADMEV e) = 1 ∧ u.rd (LE_Ee_STAT_SHADOW e) = (if a.reason = 0 then 2 else 3) ∧
      u.rd (LE_Ee_SH_BOUND e) = a.bound % 2 ^ 32 ∧ (u.engine e).load = none ∧ (u.engine e).shadow = a.prog ∧
      (u.engine e).prog = r.prog ∧ others u ∧
      (RangeSound s (sramBase + off) len → off + len ≤ 0x1000000 → image = some (s.seen (sramBase + off) len)) ∧
      (RangeSound s (sramBase + off) len → NoSoft s →
        (∀ p, p < leBankBase e (1 - s.leBank e) ∨ leBankBase e (1 - s.leBank e) + 0x100000 ≤ p →
          a.words.length ≤ 0x40000 → u.leByte p = s.leByte p) ∧
        (a.reason = 0 → Raised [28 + e] s u) ∧ (a.reason ≠ 0 → Notes [28 + e] [(2, 4, 28 + e, e)] s u) ∧
        Touches (report ++ [LE_Ee_STAT_SHADOW e, LE_Ee_SH_CLK e, LE_Ee_SH_BOUND e]) [.pend, .ecc, .ingress, .cvu]
          [.now, .leMem, .resp, .out, .pw, .rcd, .ecc, .cvu, .eng] s u)) ∧
    (s.rd (LE_Ee_STAT_SHADOW e) ≠ 4 → Does (.leDiscard e t) s fun u =>
      u.rd (LE_Ee_STAT_SHADOW e) = 0 ∧ u.engine e = { r with shadow := none, load := none } ∧ others u ∧
      u.rd (PWR_UNIT_UNIT (4 + e)) = 0 ∧ Touches [LE_Ee_STAT_SHADOW e, PWR_UNIT_UNIT (4 + e)] [] [.now, .resp, .out, .eng] s u) ∧
    (s.leState e = leRunning → s.rd (LE_Ee_STAT_SHADOW e) = 2 → Does (.leSwap e t) s fun u =>
      u.rd (LE_Ee_STAT_SHADOW e) = 4 ∧ Touches [LE_Ee_STAT_SHADOW e] [] [.now, .resp, .out] s u)

/-- R159, R216 to R222, R468, R503, R520: starts and stops. Lanes formed as a pair are reported by an alarm record. A
cold start initialises all of data memory from the program's initial values; a warm one copies the retained ranges over
them, where the retain shadow belongs to the program and the vehicle, and otherwise it is a cold one that says why.
Both leave the published image invalid, and lane failure asks for cold. STOP waits for the end of the cycle; a complete
restart waits for its cycle mark; a function reset starts cold with another cause; an idle engine enters Nap. Where the
spec leaves a point open, the model's reading stands (log entries 17, 20, 22, 23, 24, 25, 26, 124, 118, 119, 127). -/
def Obligations.LeStarts : Prop :=
  ∀ (s : State) (e : Fin 4) (p : Prog) (a b : Nat) (rest : List Nat) (m : RetainMap) (k : Retain)
    (row : Fin 8192) (t : Nat),
    let r := s.engine e
    let live := s.leState e = leRunning ∨ s.leState e = leStopped ∨ s.leState e = leFaulted
    let inits := putInits p.inits (fun _ => true) []
    let others (u : State) := ∀ i, i ≠ e.val → u.engine i = s.engine i
    let began (kind cause source why : Nat) (d : Tbl Byte) (u : State) : Prop :=
      u.leState e = leRestarting ∧ u.rd (LE_Ee_RESTART_KIND e) = kind ∧ u.rd (LE_Ee_RESTART_CAUSE e) = cause ∧
      u.rd (LE_Ee_RESTART_SOURCE e) = source ∧ u.rd (LE_Ee_RESTART_WHYCOLD e) = why ∧ u.rd (LE_Ee_STAT_VALID e) = 0 ∧
      (u.engine e).pub.valid = false ∧ (u.engine e).prog = some p ∧ (u.engine e).cycle = 0 ∧
      (u.engine e).bstack = [] ∧ (u.engine e).cstack = [] ∧ (u.engine e).executing = false ∧
      (u.engine e).restart = some ⟨kind == 2, cause⟩ ∧ others u ∧ u.mem = s.mem ∧
      (∀ k, k < leDataSize → u.leByte (leDataBase e + k) = tblGet 0 k d) ∧
      (∀ q, q < leDataBase e ∨ leDataBase e + leDataSize ≤ q → u.leByte q = s.leByte q) ∧
      (if kind = 1 ∧ rest = [] then
        RegsIn [.pend, .unit, .le, .ecc, .iog, .chan, .ingress] s u ∧ Notes [] [(2, 6, 44, 0xFFFF)] s u
      else RegsIn [.unit, .le, .ecc, .iog, .chan] s u ∧ u.rcd = s.rcd)
    let lanes (u : State) : Prop := u.rd (LE_Ee_LANES_LANEA e) = a ∧ u.rd (LE_Ee_LANES_LANEB e) = b ∧
      u.rd (LE_Ee_LANES_PAIR e) = b2n rest.isEmpty ∧ u.rd (LE_Ee_STAT_DEGRADED e) = b2n rest.isEmpty
    (s.Canon → NoSoft s → r.prog = some p → s.rd (LE_Ee_STAT_SHADOW e) ≠ 2 → s.rd (LE_Ee_STAT_SHADOW e) ≠ 4 →
      s.usableLanes e = a :: b :: rest → (∀ i ∈ p.inits, i.off + i.data.length ≤ leDataSize) →
      (live → Does (.leCold e t) s fun u => began 1 1 0 0 inits u ∧ lanes u) ∧
      (Does (.engineFunctionReset e t) s fun u => began 1 2 0 0 inits u ∧ lanes u ∧ (u.engine e).shadow = none) ∧
      (live → ¬ (s.leState e = leFaulted ∧ s.rd (LE_Ee_FAULT_CODE e) = 0x0C) →
        let shadow := s.errRows (fun memid row => memid == 6 && row / 2 ^ 11 == e.val)
        let why := s.retainWhy e p r.retain false
        (shadow = [(6, row.val)] → s.rowBad 6 row = true → s.isTestRow 6 row = false → r.retain = some k →
          Does (.leWarm e t) s fun u => u.leState e = leRestarting ∧ u.rd (LE_Ee_RESTART_KIND e) = 1 ∧
            u.rd (LE_Ee_RESTART_WHYCOLD e) = 2 ∧ u.rd ECC_UE_LOC_MEMID = 6 ∧ u.rd ECC_UE_LOC_ROW = row) ∧
        (shadow = [] → why ≠ 0 → Does (.leWarm e t) s fun u => began 1 1 0 why inits u ∧ lanes u) ∧
        (shadow = [] → why = 0 → p.rmap = some m → r.retain = some k → (∀ x ∈ m.ranges, x.1 + x.2 ≤ leDataSize) →
          Does (.leWarm e t) s (began 2 1 1 0 (putRetained m.ranges k.data inits)))) ∧
      (s.leState e = leFaulted → s.rd (LE_Ee_FAULT_CODE e) = 0x0C →
        Does (.leWarm e t) s fun u => began 1 1 0 6 inits u ∧ lanes u)) ∧
    (s.leState e = leRunning ∨ s.leState e = leHalted → Does (.leStop e t) s fun u =>
      u.engine e = { r with stop := true } ∧ others u ∧ Touches [] [] [.now, .resp, .out, .eng] s u) ∧
    (s.leState e = leRestarting → r.restart.isSome = true → r.await = false → Does (.restartComplete e t) s fun u =>
      u.engine e = { r with await := true } ∧ others u ∧ u.rd (LE_Ee_STAT_RSTEV e) = 1 ∧ Raised [28 + e] s u ∧
      Touches [LE_Ee_STAT_RSTEV e] [.pend] [.now, .resp, .out, .eng] s u) ∧
    (s.flag PWR_POL_NAPENG = true → s.leState e = leUnloaded ∨ s.leState e = leStopped ∨ s.leState e = leFaulted →
      max (tblGet 0 e s.pmg.idleAt) s.pw.start.at_ + 1000000 ≤ t →
      s.rd (PWR_UNIT_UNIT (4 + e)) = 0 → Does (.leNapEntry e t) s fun u =>
      u.rd (PWR_UNIT_UNIT (4 + e)) = 2 ∧ Touches [PWR_UNIT_UNIT (4 + e), PWR_CNT_NAP] [] [.now, .resp, .out] s u)

/-- R158, R183, R208 to R211, R219, R222, R226, R227: END publishes the output image with its forces and its stamp, and
goes on with the next take, after the swap that is pending, or stops; no measured cycle is above the bound. A lane that
differs is fenced, and any difference of a pair, or between the voters, is a lane failure. An illegal word is fault
0x01, a call of a block that is not there 0x07, END with an open call or branch 0x08. At a cycle mark the engine that
waits for its first take takes. Where the spec leaves a point open, the model's reading stands (log entries 17, 20, 22,
23, 24, 25, 26, 124, 118, 119, 127). -/
def Obligations.LeCycles : Prop :=
  ∀ (s : State) (e l : Fin 4) (w : BitVec 32) (old new : Prog) (gap t : Nat),
    let r := s.engine e
    let others (u : State) := ∀ i, i ≠ e.val → u.engine i = s.engine i
    let image : Tbl Byte := (s.applyForces e 0x2000 0x4000 ((s.leTable e).filter fun x => inRange 0x2000 0x4000 x.1)).map
      fun x => (x.1 - 0x2000, x.2)
    let took (u : State) (first changed : Bool) (at_ : Nat) : Prop :=
      u.leState e = leRunning ∧ (u.engine e).executing = true ∧ (u.engine e).takeAt = at_ ∧
      (u.engine e).cycle = (r.cycle + 1) % 2 ^ 32 ∧ u.rd (LE_Ee_CYC_CNT e) = r.cycle % 2 ^ 32 ∧ (u.engine e).ba = false ∧
      (u.engine e).wa = 0 ∧ (u.engine e).xr = 0 ∧ (u.engine e).si = false ∧ (u.engine e).ov = false ∧
      (u.engine e).ip = 0 ∧ (u.engine e).bstack = [] ∧ (u.engine e).cstack = [] ∧ (u.engine e).blk = 255 ∧
      (u.engine e).first = first ∧ (u.engine e).changed = changed ∧ u.now = at_
    let i := insOf 255 0 w.toNat
    let p := ptrAddr r i.mod i.opnd
    (LeGoes s e → NoSoft s → EngineSound s e → r.cstack = [] → r.bstack = [] → s.pmg.low = none → r.want = .none → s.cycBreak e = false →
      (s.rd (LE_Ee_STAT_SHADOW e) ≠ 4 → r.stop = false → Does (.leEnd e 0 0 0 gap t) s fun u =>
        took u false false t ∧ (u.engine e).pc = s.leStart e 255 ∧ (u.engine e).pub = ⟨true, t, image⟩ ∧
        u.rd (LE_Ee_STAT_VALID e) = 1 ∧ (u.engine e).deadline = r.dl ∧
        (r.measured = true →
          u.rd (LE_Ee_CYC_LAST e) = sat 32 (min (t - r.takeAt) (s.rd (LE_Ee_ADM_BOUND e)))) ∧ others u ∧
        u.pw = { s.pw with start := { s.pw.start with ran := true } } ∧
        Touches [LE_Ee_STAT_VALID e, LE_Ee_CYC_CNT e, LE_Ee_CYC_LAST e, LE_Ee_CYC_MIN e, LE_Ee_CYC_MAX e]
          [.ecc, .iog, .chan] [.now, .leMem, .resp, .out, .pw, .ecc, .io, .eng] s u) ∧
      (s.rd (LE_Ee_STAT_SHADOW e) ≠ 4 → r.stop = true → Does (.leEnd e 0 0 0 gap t) s fun u =>
        u.leState e = leStopped ∧ u.rd (LE_Ee_STAT_VALID e) = 0 ∧ (u.engine e).pub = ⟨false, t, image⟩ ∧
        (u.engine e).executing = false ∧ others u ∧ u.leMem = s.leMem ∧
        RegsIn [.le, .ecc, .iog, .chan] s u) ∧
      (s.rd (LE_Ee_STAT_SHADOW e) = 4 → r.stop = false → r.prog = some old → r.shadow = some new →
        Does (.leEnd e 0 0 0 gap t) s fun u =>
        took u false true (t + min gap (gapMax new)) ∧ (u.engine e).prog = some new ∧ (u.engine e).shadow = none ∧
        u.rd (LE_Ee_STAT_BANK e) = 1 - s.leBank e ∧ u.rd (LE_Ee_STAT_SHADOW e) = 0 ∧ u.rd (LE_Ee_STAT_SWAPEV e) = 1 ∧
        u.rd (LE_Ee_SWAP_LAST e) = min gap (gapMax new) ∧ u.rd (LE_Ee_CYC_MIN e) = 0xFFFFFFFF ∧
        u.rd (LE_Ee_ADM_BOUND e) = new.bound % 2 ^ 32 ∧ (u.engine e).judge = max old.bound new.bound ∧ others u ∧
        (∀ n, n < 256 → n ≠ 28 + e → ∀ k, k < 4 → u.pends n k = s.pends n k) ∧
        RegsIn [.pend, .le, .ecc, .iog, .chan] s u)) ∧
    (LeGoes s e → r.cstack ≠ [] ∨ r.bstack ≠ [] → Does (.leEnd e 0 0 0 gap t) { s with now := t } (EngineFaults e 0x08 s)) ∧
    (s.leCan e = true → FetchSound s e → leLegal i.op i.mod i.x i.opnd = false →
      Does (.illegalInstruction e w) s (EngineFaults e 0x01 s)) ∧
    (LeGoes s e → leLegal i.op i.mod i.x i.opnd = true → i.op = 0x30 → 0xD ≤ i.x → p % 8 = 0 → p < leDataSize →
      Does (.illegalInstruction e w) s (EngineFaults e 0x07 s)) ∧
    (s.leState e = leRunning → s.sequences e = false → l.val ∈ s.leLive e →
      ((s.leLive e).length = 3 → Does (.leLaneMismatch e l t) s fun u =>
        u.bit (LE_Ee_LANES_FENCED e) l = true ∧ u.rd (LE_Ee_STAT_DEGRADED e) = 1 ∧
        bitAt u.cop.laneTest (4 * e + l) = true ∧ bitAt u.cop.laneFenced (4 * e + l) = true ∧
        (s.cop.run = none → u.rd BIST_STAT_COPPICE = 1 ∧ Raised [20 + e] s u ∧
          Touches [LE_Ee_LANES_FENCED e, LE_Ee_STAT_DEGRADED e, BIST_STAT_COPPICE] [.pend] [.now, .resp, .out, .cop] s u)) ∧
      ((s.leLive e).length ≠ 3 → Does (.leLaneMismatch e l t) s (EngineFaults e 0x0C s))) ∧
    (s.leVotes e = true → Does (.leVoterXyDisagree e t) s (EngineFaults e 0x0C s)) ∧
    (s.pw.phase = .running → t % s.tcNs = 0 → s.pw.start.joined = true → s.pw.start.ready = true → s.pmg.low = none → s.leState e = leRestarting →
      EngineSound s e → r.await = true → Does (.cycleMark [] t) s fun u => took u true false t) ∧
    (t % s.tcNs ≠ 0 → Does (.cycleMark [] t) s fun u => Touches [] [] [.now, .resp, .out] s u)

/-- R163, R164, R210, R229 to R235: what stands and the debug transport do to an engine. A load reads any of its
memories; a store lands in the staging copy of the host window and nowhere else, or faults; a force is committed with
its value, or turned away. The attached engine halts, runs on and is stepped; its registers are read and, halted,
written. Where the spec leaves a point open, the model's reading stands (log entries 17, 20, 22, 23, 24, 25, 26, 124,
118, 119, 127). -/
def Obligations.LeAccess : Prop :=
  ∀ (s : State) (e : Fin 4) (hart : Fin 12) (addr : BitVec 36) (size : Fin 4) (v : BitVec 64) (i : Fin 256)
    (w : BitVec 32) (x : LeReg) (y : LeWrite) (off : Fin 524288) (val : Byte) (gap t : Nat),
    let r := s.engine e
    let a := addr.toNat
    let n := 2 ^ size.val
    let others (u : State) := ∀ i, i ≠ e.val → u.engine i = s.engine i
    let win := 0x20200000 + 0x400000 * e.val + s.winBase e
    let fa := bitsAt w.toNat 0 14
    let row := leRowOf e (a % 0x400000)
    let halted (why : Nat) (y : Engine) (u : State) : Prop :=
      u.leState e = leHalted ∧ u.rd (LE_Ee_DBG_STAT_HALTED e) = 1 ∧ u.rd (LE_Ee_DBG_STAT_WHY e) = why ∧
      u.engine e = { y with want := .none, measured := false } ∧ others u ∧ Raised [28 + e] s u ∧
      u.leMem = s.leMem ∧ u.mem = s.mem ∧ RegsIn [.pend, .le, .iog, .chan] s u
    let staged (u : State) : Prop :=
      u.resp = .done ∧ (∀ k, k < s.winSize e → (u.engine e).staging.getD k 0 =
        if inRange (a - win) (a - win + n) k then BitVec.ofNat 8 (v.toNat / 256 ^ (k - (a - win)))
        else (padTo (s.winSize e) r.staging).getD k 0) ∧
      u.engine e = { r with staging := (u.engine e).staging } ∧ others u ∧
      Touches [] [.cvu] [.now, .resp, .out, .eng, .cvu] s u
    (0x20000000 + 0x400000 * e.val ≤ a → a + n ≤ 0x20280000 + 0x400000 * e.val → a % n = 0 →
      s.hartRuns hart = true →
      (s.rowErr row.1 row.2 = 0 → Does (.standLeMemoryAccess hart addr size none t) s fun u =>
        u.resp = .ok (leNat (s.leBytesAt a n)) ∧ Touches [] [] [.now, .resp, .out] s u) ∧
      (s.isTestRow row.1 row.2 = false → s.rowBad row.1 row.2 = true →
        Does (.standLeMemoryAccess hart addr size none t) s fun u =>
        u.resp = .loadFault ∧ u.rd ECC_UE_LOC_MEMID = row.1 ∧ u.rd ECC_UE_LOC_ROW = row.2 ∧ u.rd ECC_STAT_UEEV = 1) ∧
      (s.hartSplit hart = false → win ≤ a → a + n ≤ win + s.winSize e →
        Does (.standLeMemoryAccess hart addr size (some v) t) s staged ∧ Does (.hostWindowWrite hart addr size v t) s staged) ∧
      (a < win ∨ win + s.winSize e < a + n → Does (.hostWindowWrite hart addr size v t) s fun u =>
        u.resp = .storeFault ∧ Touches [] [] [.now, .resp, .out] s u)) ∧
    (bitAt w.toNat 31 = true → (bitAt w.toNat 20 = true → fa % 4 = 0) →
      s.coversSafe fa (if bitAt w.toNat 20 then 4 else 1) (bitsAt w.toNat 16 3) = false →
      s.pw.phase = .running → Does (.forceCommit e i w t) s fun u =>
      u.force e i = some ⟨fa, if bitAt w.toNat 20 then 4 else 1, bitsAt w.toNat 16 3, s.rd (LE_Ee_FRCi_VAL_VALUE e i)⟩ ∧
      (∀ j, j ≠ i.val → j < 256 → u.force e j = s.force e j) ∧ others u ∧
      u.engine e = { r with fval := (u.engine e).fval } ∧ RegsIn [.pend, .le] s u) ∧
    (bitAt w.toNat 31 = true → s.coversSafe fa (if bitAt w.toNat 20 then 4 else 1) (bitsAt w.toNat 16 3) = true →
      s.pw.phase = .running → Does (.forceCommit e i w t) s fun u =>
      u.rd (LE_Ee_STAT_FRCERR e) = 1 ∧ Touches [LE_Ee_STAT_FRCERR e] [] [.now, .resp, .out] s u) ∧
    (s.dbg = .engine e →
      (s.leState e = leRunning → Does (.leHalt e t) s (halted 0 r)) ∧
      (s.leState e = leRunning → Does (.leStepcyc e gap t) s fun u =>
        u.engine e = { r with want := .cycle } ∧ others u ∧ Touches [] [] [.now, .resp, .out, .eng] s u) ∧
      (s.leState e = leHalted → r.executing = true → Does (.leResume e gap t) s fun u =>
        u.leState e = leRunning ∧ u.rd (LE_Ee_DBG_STAT_HALTED e) = 0 ∧ u.rd (LE_Ee_DBG_STAT_QFILL e) = 0 ∧
        u.engine e = { r with replay := [] } ∧ others u ∧ RegsIn [.le, .iog, .chan] s u ∧ u.leMem = s.leMem) ∧
      (s.leState e = leHalted → r.executing = true → FetchSound s e → s.leInBody e r.pc = true →
        s.leWordAt e (s.leBank e) r.pc = 0x38000000 → Does (.leStep e gap t) s
        (halted 3 { r with ba := !r.ba, pc := r.pc + 1, replay := [] })) ∧
      (s.leState e = leHalted → r.replay.length < 32 → (∀ o v, y ≠ .data o v) → Does (.debugWriteEngine e y t) s fun u =>
        u.resp = .done ∧ u.engine e = { debugSet r y with replay := r.replay ++ [y] } ∧ others u ∧
        u.rd (LE_Ee_DBG_STAT_QFILL e) = r.replay.length + 1 ∧
        Touches [LE_Ee_DBG_STAT_QFILL e] [] [.now, .resp, .out, .eng] s u) ∧
      (s.rowErr 5 (e * 2 ^ 14 + off / 32) = 0 → Does (.debugWriteEngine e (.data off val) t) s fun u =>
        u.resp = .done ∧ u.leByte (leDataBase e + off) = val ∧ (∀ q, q ≠ leDataBase e + off → u.leByte q = s.leByte q) ∧
        (NoSoft s → Touches [] [.cvu] [.now, .leMem, .resp, .out, .ecc, .cvu] s u)) ∧
      (∀ k, debugGet r x = some k → Does (.debugReadEngine e x t) s fun u =>
        u.resp = .ok k ∧ Touches [] [] [.now, .resp, .out] s u)) ∧
    (s.dbg ≠ .engine e → Does (.debugReadEngine e x t) s fun u =>
      u.resp = .debugError ∧ Touches [] [] [.now, .resp, .out] s u) ∧
    (s.leCan e = true → s.flag (LE_Ee_BRKi_EN e 0) = true → s.flag (LE_Ee_BRKi_CYC e 0) = false →
      s.rd (LE_Ee_BRKi_INDEX e 0) = r.pc → Does (.leBreakpoint e t) s (halted 1 r))

/-! ### Canopy -/

/-- R314, R320, R324 to R328, R337, R338, R346: global time is read; a master sends its sync frame in its slot, unless
it has no plan or segment that it may use; a sync frame is kept with its receive time, forwarded with its residence
time, or counted for its FCS; the correction slews a SYNCED clock, and cycles without a frame lead to HOLDOVER and
LOST; a module observes a whole good cycle and is ACTIVE. Where the spec leaves a point open, the model's reading
stands (log entries 49, 50, 51, 52, 55, 98, 99, 104, 117). -/
def Obligations.CanopyTime : Prop :=
  ∀ (s : State) (port : Fin 4) (frame : List Byte) (k : Fin 4) (d : Int) (res t : Nat),
    let v := s.begin t
    let slot := s.rd CNP_SYNC_STAT_SLOT
    let f := v.frame frSync 0xFF 0 0 (beBytes 8 (v.markNs + slot * s.syncSp) ++ beBytes 4 0 ++
      [byteOf slot, byteOf s.syncState, byteOf (s.rd CNP_PLAN0_TC), 0] ++ beBytes 4 (s.rd CNP_PLAN0_TTW) ++
      beBytes 4 (s.rd CNP_PLANCRC))
    let pay := frPayload frame
    let j := beAt 12 1 pay
    let n := frSender frame
    let corr (st : Nat) (u : State) : Prop := u.syncState = st ∧ u.cnp.sync = [] ∧
      Touches [] [.pend, .cnp, .ust, .ingress] [.now, .resp, .out, .pw, .rcd, .cnp, .fab, .ust] s u
    let mark (st ev : Nat) (u : State) : Prop := u.joinState = st ∧ u.rd CNP_JOIN_STAT_JOINEV = ev ∧
      u.rd CNP_CYCLE = t / s.tcNs % 2 ^ 32 ∧ u.cnp.syncedAtMark = (s.syncState == syncSynced) ∧ u.cnp.why = 0
    (s.pw.phase = .running → Does (.timeRead t) s (fun u => u.resp = .ok (t % 2 ^ 32) ∧ u.rd CNP_TIME_LO = t % 2 ^ 32 ∧
      u.rd CNP_TIME_HI = t / 2 ^ 32 % 2 ^ 32 ∧ Touches [CNP_TIME_LO, CNP_TIME_HI] [] [.now, .resp, .out] s u)) ∧
    (s.rd CNP_SYNC_STAT_MASTER = 1 → s.rd KEY_STAT_STATE = 1 → s.pw.phase = .running → slot = 0 ∨ s.syncState = syncSynced →
      s.rd CNP_JOIN_STAT_PLANERR = 0 → s.rd CNP_JOIN_STAT_SEGNONE = 0 →
      Does (.syncSlot t) s fun u =>
      (∀ p, p < 4 → (Emission.canopy p f ∈ u.out ↔
        s.portUsed p = true ∧ s.pw.start.ready = true ∧ s.blocked p = false)) ∧
      Touches [] [.cvu] [.now, .resp, .out, .cvu] s u) ∧
    (s.rd CNP_SYNC_STAT_MASTER = 0 ∨ s.rd CNP_JOIN_STAT_PLANERR = 1 ∨ s.rd CNP_JOIN_STAT_SEGNONE = 1 →
      Does (.syncSlot t) s fun u => Touches [] [] [.now, .resp, .out] s u ∧ u.out = []) ∧
    (s.portUsed port = true → s.pw.phase = .running →
      (n ≠ s.nodeId → n ≠ 0 → j < 4 → s.rd (CNP_MSTk_STAT_NODE j) = n → s.leadNode ≠ some n →
        Does (.syncFrame port frame true res t) s fun u =>
        tblFind (2 * j + port.val / 2) u.cnp.sync = some ⟨t, beAt 0 8 pay, beAt 8 4 pay⟩ ∧
        (∀ i, i ≠ 2 * j + port.val / 2 → tblFind i u.cnp.sync = tblFind i s.cnp.sync) ∧
        (Emission.canopy (otherPort port) (addResidence frame res) ∈ u.out ↔
          s.portUsed (otherPort port) = true ∧ s.blocked port = false ∧ s.blocked (otherPort port) = false) ∧
        Touches [CNP_LDp_RES (2 * (port.val / 2)), CNP_LDp_RES (2 * (port.val / 2) + 1)] [.cvu] [.now, .resp, .out, .cnp, .cvu] s u) ∧
      Does (.syncFrame port frame false res t) s fun u =>
        u.rd (CNP_PORTp_CNT_FCS port) = sat 16 (s.rd (CNP_PORTp_CNT_FCS port) + 1) ∧ u.cnp.sync = s.cnp.sync ∧
        Touches [CNP_PORTp_CNT_FCS port, CNP_LDp_RES (2 * (port.val / 2)), CNP_LDp_RES (2 * (port.val / 2) + 1)] []
          [.now, .resp, .out, .cnp] s u) ∧
    (s.syncState = syncSynced → s.rd CNP_SYNC_STAT_MASTER = 0 →
      ((∀ i, i < 4 → s.slotDev i = if i = k.val then some d else none) → d.natAbs ≤ 16000 → Does (.syncCorrection t) s fun u =>
        corr syncSynced u ∧ u.rd CNP_SYNC_CORR = ofSigned 32 (d / 8) % 2 ^ 32 ∧ u.cnp.slew = -d ∧ u.cnp.missed = 0 ∧
        u.rd CNP_SYNC_STAT_VALIDN = 1 ∧ u.rd (CNP_MSTk_STAT_VALID k) = 1 ∧ u.cnp.syncGood = true ∧ Quiet s u) ∧
      ((∀ i, i < 4 → s.slotDev i = none) → Does (.syncCorrection t) s fun u =>
        corr (if 4 ≤ s.cnp.missed + 1 then syncLost else syncHoldover) u ∧ u.cnp.missed = s.cnp.missed + 1 ∧
        u.rd CNP_SYNC_STAT_VALIDN = 0 ∧ u.cnp.syncGood = false ∧ (4 ≤ s.cnp.missed + 1 → u.joinState ≠ joinActive))) ∧
    (s.pw.phase = .running → t % s.tcNs = 0 → s.pmg.low = none → s.fab.heldTrigger = none → s.ownSeg.isSome = true →
      (s.joinState = joinObserving → s.syncState = syncSynced → s.cnp.syncedAtMark = true → s.cnp.syncGood = true →
        s.cnp.why = 0 → Does (.cycleMark [] t) s fun u => mark joinActive 1 u ∧ u.cnp.observed = true) ∧
      (s.joinState = joinSilent → s.rd CNP_JOIN_STAT_PLANERR = 0 → s.rd CNP_JOIN_STAT_SEGNONE = 0 → s.mayObserve = true →
        Does (.cycleMark [] t) s (mark joinObserving (s.rd CNP_JOIN_STAT_JOINEV))))

/-- R329 to R336, R368 to R371: a blaze whose source has a fresh image is sent, once more with REPEAT where it has gone
already, and is left empty otherwise; the first accepted copy of a blaze is delivered whole; a late or broken copy is
counted; a blaze is judged once a cycle, when the later copy is due, and an empty one is counted, and with LOSSN of
them in a row its data become invalid and take their substitute; committing a transmit host buffer exchanges its
halves. Where the spec leaves a point open, the model's reading stands (log entries 49, 50, 51, 52, 55, 98, 99, 104,
117). -/
def Obligations.CanopyBlazes : Prop :=
  ∀ (s : State) (b : Fin 1024) (h : Fin 64) (port : Fin 4) (frame : List Byte) (k : Sink) (stamp t : Nat),
    let v := s.begin t
    let e := s.entry b
    let x := v.blzNow b
    let src : TxSource := ⟨true, e.hbuf, 0, e.paylen, e.rsub * 10000⟩
    let fl := 4 * b2n ([0, 1, 2, 3].any fun i => s.flag (STD_Sk_STAT_NOTSAFE i))
    let sends (flags : Nat) (pay : List Byte) (u : State) : Prop :=
      (∀ p, p < 4 → (Emission.canopy p (v.frame frBlaze 0xFF (e.fid + 1024 * (s.entrySeg e).getD 0) flags pay) ∈ u.out ↔
        bitAt e.planes (portPlane p) = true ∧ s.portUsed p = true ∧ s.pw.start.ready = true ∧ s.blocked p = false)) ∧
      u.rd (CNP_BLZb_STAT_VALID b) = 1 ∧ (∀ i, i ≠ b.val → u.blz i = s.blz i) ∧
      Touches [CNP_BLZb_STAT_VALID b] [.cvu] [.now, .resp, .out, .cnp, .cvu] s u
    (b.val < s.blazeCount → e.kind = 0 →
      (e.role = roleTx → e.host = true → s.joinState = joinActive →
        (v.txImage src = some stamp → (s.blz b).sent ≠ some stamp → Does (.blazeDue b t) s fun u =>
          sends fl (s.hbufFront e.hbuf e.paylen) u ∧
          u.blz b = { s.blz b with sent := some stamp, pay := s.hbufFront e.hbuf e.paylen }) ∧
        (v.txImage src = some stamp → (s.blz b).sent = some stamp → Does (.blazeDue b t) s fun u =>
          sends (fl + 1) (s.blz b).pay u ∧ u.blz b = s.blz b) ∧
        (v.txImage src = none → Does (.blazeDue b t) s fun u =>
          u.rd (CNP_BLZb_CNT_EMPTY b) = sat 16 (s.rd (CNP_BLZb_CNT_EMPTY b) + 1) ∧ u.rd (CNP_BLZb_STAT_VALID b) = 0 ∧
          u.out = [] ∧ u.cnp = { s.cnp with rose := u.cnp.rose } ∧
          (s.rd (CNP_BLZb_CNT_EMPTY b) < 0xFFFF → u.cnp.rose = true) ∧
          Touches [CNP_BLZb_CNT_EMPTY b, CNP_BLZb_STAT_VALID b] [] [.now, .resp, .out, .cnp] s u)) ∧
      (s.sink e = some k → k.host = none → (s.slot e).isSome = true →
        (s.portUsed port = true → s.pw.phase = .running → v.entriesFor frame = [b.val] → frPwrfail frame = false →
          (v.accepts e (portPlane port) frame = true → x.got = 0 → frRepeat frame = false →
            Does (.blazeFrame port frame true t) s fun u =>
            (u.blz b).data = padTo k.paylen (frPayload frame) ∧ (u.blz b).first = t / s.tcNs ∧ (u.blz b).lost = false ∧
            u.rd (CNP_BLZb_STAT_VALID b) = 1 ∧ u.rd (CNP_BLZb_STAT_RUN b) = 0 ∧
            u.rd (CNP_BLZb_STAT_NODE b) = frSender frame % 256 ∧ (∀ i, i ≠ b.val → u.blz i = s.blz i) ∧
            Raised (if (s.blz b).lost then [132] else []) s u ∧
            Touches [CNP_BLZb_STAT_VALID b, CNP_BLZb_STAT_RUN b, CNP_BLZb_STAT_NODE b] [.pend, .cvu]
              [.now, .resp, .out, .cnp, .cvu, .pmg] s u) ∧
          (v.accepts e (portPlane port) frame = false → Does (.blazeFrame port frame true t) s fun u =>
            u.rd (CNP_BLZb_CNT_LATE b) = sat 8 (s.rd (CNP_BLZb_CNT_LATE b) + 1) ∧ (∀ i, u.blz i = s.blz i) ∧
            u.cnp.why ≠ 0 ∧ Touches [CNP_BLZb_CNT_LATE b] [.cvu] [.now, .resp, .out, .cnp, .cvu] s u)) ∧
        (t < v.judgeAt e → Does (.blazeJudgement b t) s fun u => Touches [] [] [.now, .resp, .out] s u) ∧
        (x.got = 0 → x.pwrfail = false → v.judgeAt e ≤ t → (s.blz b).judged ≠ t / s.tcNs + 1 →
          Does (.blazeJudgement b t) s fun u =>
          u.rd (CNP_BLZb_CNT_EMPTY b) = sat 16 (s.rd (CNP_BLZb_CNT_EMPTY b) + 1) ∧
          u.rd (CNP_BLZb_STAT_RUN b) = sat 8 (s.rd (CNP_BLZb_STAT_RUN b) + 1) ∧
          (∀ i, i ≠ b.val → u.blz i = s.blz i) ∧
          (k.lossn ≤ sat 8 (s.rd (CNP_BLZb_STAT_RUN b) + 1) → (s.blz b).lost = false →
            u.rd (CNP_BLZb_STAT_VALID b) = 0 ∧ (u.blz b).lost = true ∧ Raised [131] s u ∧
            (u.blz b).data = if k.subst = 1 then List.replicate k.paylen 0 else if k.subst = 2 then
              List.replicate k.paylen 0xFF else (s.blz b).data) ∧
          (sat 8 (s.rd (CNP_BLZb_STAT_RUN b) + 1) < k.lossn → u.rd (CNP_BLZb_STAT_VALID b) = s.rd (CNP_BLZb_STAT_VALID b) ∧
            (u.blz b).data = (s.blz b).data ∧ Quiet s u) ∧
          Touches [CNP_BLZb_CNT_EMPTY b, CNP_BLZb_STAT_RUN b, CNP_BLZb_STAT_VALID b] [.pend] [.now, .resp, .out, .cnp] s u))) ∧
    (s.rd (CNP_HBUFh_STAT_DIR h) = 1 → Does (.hostBufferCommit h t) s fun u =>
      u.rd (CNP_HBUFh_STAT_VALID h) = 1 ∧ u.rd (CNP_HBUFh_STAT_SEQ h) = (s.rd (CNP_HBUFh_STAT_SEQ h) + 1) % 256 ∧
      (u.hbuf h).stamp = t ∧ u.hbufFront h 0x800 = s.bytes (hbufAddr h) 0x800 ∧
      u.bytes (hbufAddr h) 0x800 = s.hbufFront h 0x800 ∧
      (∀ a, a < hbufAddr h ∨ hbufAddr h + 0x800 ≤ a → u.byte a = s.byte a) ∧
      Touches [CNP_HBUFh_STAT_VALID h, CNP_HBUFh_STAT_SEQ h] [] [.now, .mem, .resp, .out, .cnp] s u)

/-- R309, R310, R340 to R345, R353, R365: a claim, a release and a listening to a spare blaze, and what turns them
away; an own claim stands when its frame leaves, and waits while an inauguration runs; a claim heard is kept and takes
hold at its EFFECT; a routed frame joins the queue of the port towards its destination; a port sends its oldest frame
where the window holds it, and the next after it; a plane is reset. Where the spec leaves a point open, the model's
reading stands (log entries 49, 50, 51, 52, 55, 98, 99, 104, 117). -/
def Obligations.CanopyEvents : Prop :=
  ∀ (s : State) (paylen : Fin 2048) (port : Fin 4) (plane : Fin 2) (frame : List Byte) (f : EtFrame)
    (rest : List EtFrame) (b : Nat) (c : Claim) (t : Nat),
    let v := s.begin t
    let seg := s.rd CNP_CLAIM_ARG_SEG
    let fid := s.rd CNP_CLAIM_ARG_FRAMEID
    let own : Claim := ⟨1, seg, fid, s.nodeId, s.rd SYS_SERIAL_LO, s.consist, t / s.tcNs, true⟩
    let refused (err : Nat) (u : State) : Prop :=
      u.rd CNP_CLAIM_STAT_FAIL = 1 ∧ u.rd CNP_CLAIM_STAT_ERR = err ∧ Notes [117] [(2, 9, 117, 0xFFFF)] s u ∧
      Touches [CNP_CLAIM_STAT_FAIL, CNP_CLAIM_STAT_ERR] [.pend, .ingress] [.now, .resp, .out, .pw, .rcd] s u
    let use (listen : Bool) : SpareUse :=
      ⟨seg, fid, listen, s.flag CNP_CLAIM_ARG_SRC, s.rd CNP_CLAIM_ARG_ENG, s.rd CNP_CLAIM_ARG_AREA, paylen⟩
    let q := 2 * portPlane port + s.sideTowards (frDest frame)
    let p := frPayload frame
    let sent := if f.own then v.restamp f.bytes else f.bytes
    (s.rd CNP_CLAIM_STAT_BUSY = 0 →
      (s.joinState ≠ joinActive → s.pw.phase = .running → Does (.claimRequest paylen t) s (refused 4)) ∧
      (s.joinState = joinActive → s.spareEntry seg fid = none → s.pw.phase = .running →
        Does (.claimRequest paylen t) s (refused 5)) ∧
      (s.joinState = joinActive → s.spareEntry seg fid = some b → paylen.val + 34 ≤ (s.entry b).length →
        s.claimHeld own = true → s.pw.phase = .running → Does (.claimRequest paylen t) s (refused 1)) ∧
      (s.joinState = joinActive → s.spareEntry seg fid = some b → paylen.val + 34 ≤ (s.entry b).length →
        s.claimHeld own = false → s.cnp.claims.find? (Claim.same own) = none → s.cnp.asked = [] →
        s.pw.phase = .running → Does (.claimRequest paylen t) s fun u =>
        u.rd CNP_CLAIM_STAT_BUSY = 1 ∧ use false ∈ u.cnp.uses ∧ Quiet s u ∧
        (u.cnp.claims = s.cnp.claims ++ [own] ∧ u.cnp.asked = [] ∨ u.cnp.claims = s.cnp.claims ∧ u.cnp.asked = [own]) ∧
        (s.inaBusy = true → u.cnp.asked = [own] ∧ u.out = []) ∧
        (s.rd CNP_CLAIM_ARG_SRC = 1 → u.rd (CNP_HBUFh_STAT_DIR (s.rd CNP_CLAIM_ARG_AREA % 64)) = 1) ∧
        Touches [] [.cnp, .hbuf, .cvu] [.now, .resp, .out, .cnp, .fab, .rwy, .cvu] s u)) ∧
    (s.spareEntry seg fid = none → s.pw.phase = .running →
      Does (.listenRequest paylen t) s (refused 5)) ∧
    (s.spareEntry seg fid = some b → paylen.val + 34 ≤ (s.entry b).length →
      (s.cnp.spares.any fun x => x.seg == seg && x.fid == fid) = true → s.pw.phase = .running →
        Does (.listenRequest paylen t) s fun u =>
      use true ∈ u.cnp.uses ∧ (∀ x ∈ s.cnp.uses, x.listen = false → x ∈ u.cnp.uses) ∧
      u.rd (CNP_HBUFh_STAT_DIR (s.rd CNP_CLAIM_ARG_AREA % 64)) = 0 ∧
      Touches [CNP_HBUFh_STAT_DIR (s.rd CNP_CLAIM_ARG_AREA % 64)] [] [.now, .resp, .out, .cnp] s u) ∧
    ((s.cnp.spares.find? fun x => x.seg == seg && x.fid == fid) = none → s.pw.phase = .running →
      Does (.releaseRequest t) s (refused 5)) ∧
    (((s.cnp.spares.find? fun x => x.seg == seg && x.fid == fid).map (·.serial)) = some (s.rd SYS_SERIAL_LO) →
      s.cnp.asked = [] → s.pw.phase = .running → Does (.releaseRequest t) s fun u =>
      let waits := u.cnp.asked = [{ own with op := 3 }] ∧ u.cnp.spares = s.cnp.spares ∧ u.cnp.uses = s.cnp.uses
      let freed := u.cnp.asked = [] ∧ u.cnp.spares = (s.cnp.spares.filter fun x => !(x.seg == seg && x.fid == fid)) ∧
        (∀ x ∈ u.cnp.uses, ¬ (x.seg = seg ∧ x.fid = fid))
      (waits ∨ freed) ∧ (s.inaBusy = true → waits) ∧
      (s.inaBusy = false → (∀ q < 4, s.portUsed q = false ∨ s.blocked q = true) → freed) ∧
      Touches [] [.pend, .cnp, .cvu, .ingress] [.now, .resp, .out, .pw, .rcd, .cnp, .fab, .rwy, .cvu] s u) ∧
    (frKind frame = frClaim → frSender frame ≠ 0 → frSender frame ≠ s.nodeId → beAt 0 1 p = 1 →
      let d : Claim := ⟨1, beAt 1 1 p % 8, beAt 2 2 p % 1024, frSender frame, s.serialOf (frSender frame), beAt 6 2 p,
        t / s.tcNs - (t / s.tcNs + 8 + 65536 - beAt 4 2 p) % 65536, false⟩
      (s.claimNames d = true → s.claimHeld d = false → s.cnp.claims.find? (Claim.same d) = none →
        Does (.claimFrame frame t) s fun u =>
        u.cnp.claims = s.cnp.claims ++ [d] ∧ Touches [] [] [.now, .resp, .out, .cnp] s u) ∧
      (s.claimNames d = false ∨ s.claimHeld d = true → Does (.claimFrame frame t) s fun u =>
        Touches [] [] [.now, .resp, .out] s u)) ∧
    (s.cnp.claims = [c] → c.op = 1 → c.own = true → c.cycle + 8 ≤ t / s.tcNs → Does (.claimEffect t) s fun u =>
      u.cnp.claims = [] ∧ u.cnp.spares = s.cnp.spares ++ [⟨c.seg, c.fid, c.serial, c.cycle + 8⟩] ∧
      u.rd CNP_CLAIM_STAT_BUSY = 0 ∧ u.rd CNP_CLAIM_STAT_DONE = 1 ∧ Raised [117] s u ∧
      (s.spareEntry c.seg c.fid = some b → u.rd (CNP_BLZb_STAT_HELD b) = 1) ∧
      Touches [] [.pend, .cnp] [.now, .resp, .out, .cnp] s u) ∧
    (s.portUsed port = true → s.pw.phase = .running → frKind frame ≠ frIna →
      (frDest frame = 0 ∨ s.nodeCount < frDest frame → frDest frame ≠ 0xFF →
        Does (.eventFrame port frame true t) s fun u =>
        u.rd CNP_ETUNR_CNT = sat 16 (s.rd CNP_ETUNR_CNT + 1) ∧ Touches [CNP_ETUNR_CNT] [.cvu] [.now, .resp, .out, .cvu] s u) ∧
      (0 < frDest frame → frDest frame ≤ s.nodeCount → frDest frame ≠ s.nodeId → frDest frame ≠ 0xFF → q ≠ port.val →
        s.portUsed q = true → s.blocked q = false → (s.etPort q).queue.length < 32 → (s.etPort q).busy = true →
        Does (.eventFrame port frame true t) s fun u =>
        u.etPort q = ⟨(s.etPort q).queue ++ [relayFrame frame], true⟩ ∧ (∀ i, i ≠ q → u.etPort i = s.etPort i) ∧
        Touches [] [.cvu] [.now, .resp, .out, .cnp, .cvu] s u) ∧
      Does (.eventFrame port frame false t) s fun u =>
        u.rd (CNP_PORTp_CNT_FCS port) = sat 16 (s.rd (CNP_PORTp_CNT_FCS port) + 1) ∧
        Touches [CNP_PORTp_CNT_FCS port] [] [.now, .resp, .out] s u) ∧
    (s.portSends port = true → s.pw.phase = .running → s.pw.start.ready = true → s.ust.tunnels = [] →
      (s.etPort port).queue = f :: rest → s.etMay port f = true → v.etFits f.bytes = true →
      (f.own = true → frKind sent ≠ frIna ∧ frKind sent ≠ frClaim) →
      Does (.etFrameSent port t) s (fun u =>
        (u.etPort port).queue.map (·.bytes) = rest.map (·.bytes) ∧ (u.etPort port).busy = true ∧
        Emission.canopy port sent ∈ u.out ∧
        (f.own = false → u.etPort port = ⟨rest, true⟩ ∧ (∀ i, i ≠ port.val → u.etPort i = s.etPort i)) ∧
        Touches [] [.cvu] [.now, .resp, .out, .cnp, .rwy, .cvu] s u) ∧
      (s.rwy.out = [] → s.cnp.asked = [] → (s.etPort port).busy = false → Does (.eventWindowOpen t) s fun u =>
        (u.etPort port).queue.map (·.bytes) = rest.map (·.bytes) ∧ (u.etPort port).busy = true ∧
        Emission.canopy port sent ∈ u.out)) ∧
    (s.ust.tunnels = [] → (s.etPort port).queue = [] → Does (.etFrameSent port t) s fun u =>
      u.etPort port = ⟨[], false⟩ ∧ (∀ i, i ≠ port.val → u.etPort i = s.etPort i) ∧
      Touches [] [] [.now, .resp, .out, .cnp] s u) ∧
    (s.pw.phase = .running → Does (.planeReset plane t) s (fun u =>
      bitAt u.cnp.planeReset plane = true ∧ u.etPort (2 * plane) = etPortInit ∧ u.etPort (2 * plane + 1) = etPortInit ∧
      u.rd (CNP_PORTp_CNT_FCS (2 * plane)) = 0 ∧ u.rd (CNP_PORTp_CNT_ETDROP (2 * plane + 1)) = 0 ∧
      (bitAt s.cnp.planeReset (1 - plane.val) = false →
        ∀ i, i ≠ 2 * plane.val → i ≠ 2 * plane.val + 1 → u.etPort i = s.etPort i) ∧
      RegsIn [.pend, .cnp, .ust, .ingress] s u)) ∧
    Does (.planeResetDone plane t) s (fun u =>
      bitAt u.cnp.planeReset plane = bitAt s.cop.planeDead plane ∧
      u.cnp = { s.cnp with planeReset := u.cnp.planeReset } ∧ Touches [] [] [.now, .resp, .out, .cnp] s u)

/-- R384, R389, R391 to R394: contexts are locked if all of them pass, and the first that does not is named; a context
whose time runs out loses freshness; a result of a unit is shown, counted and compared; a unit is restarted; the
function reset clears the contexts' run state and keeps the lock. Where the spec leaves a point open, the model's
reading stands (log entries 49, 50, 51, 52, 55, 98, 99, 104, 117). -/
def Obligations.CheckValues : Prop :=
  ∀ (s : State) (c : Fin 128) (n : Fin 8) (r : Nat × Nat × Bool) (v same t : Nat),
    let b := s.rd (CVU_CTXc_CFG_BLAZE c)
    (s.rd CVU_CTXLOCK_LOCK = 0 →
      ((List.range 128).all (fun i => s.ctxLockOk i) = true → s.pw.phase = .running →
        Does (.contextLock t) s fun u =>
        u.rd CVU_CTXLOCK_LOCK = 1 ∧ u.rd CVU_CTXLOCK_LOCKERR = 0 ∧ Raised [149] s u ∧
        (∀ i, i < 128 → s.rd (CVU_CTXc_CFG_EN i) = 1 → ∀ m, m < 3 → u.rd (CVU_Uu_CFG_SAFE m) = 1 ∧ u.rd (CVU_Uu_CFG_EN m) = 1) ∧
        Touches [] [.pend, .cvu] [.now, .resp, .out] s u) ∧
      ((List.range 128).find? (fun i => !s.ctxLockOk i) = some c.val → s.pw.phase = .running →
        Does (.contextLock t) s fun u =>
        u.rd CVU_CTXLOCK_LOCK = 0 ∧ u.rd CVU_CTXLOCK_LOCKERR = 1 ∧ u.rd CVU_CTXLOCK_ERRCTX = c ∧ Raised [149] s u ∧
        Touches [CVU_CTXLOCK_LOCKERR, CVU_CTXLOCK_ERRCTX] [.pend] [.now, .resp, .out] s u)) ∧
    (s.rd (CVU_CTXc_STAT_FRESH c) = 1 → (s.ctx c).at_ + s.rd (CVU_CTXc_TMO_TIMEOUT c) * 100000 ≤ t →
      (s.begin t).judgeAt (s.entry b) ≠ t ∨ (s.blz b).judged = t / s.tcNs + 1 ∨ ((s.begin t).blzNow b).copies = [] →
      Does (.contextTimeout c t) s fun u =>
      u.rd (CVU_CTXc_STAT_FRESH c) = 0 ∧ u.rd (CVU_CTXc_CNT_TMO c) = sat 8 (s.rd (CVU_CTXc_CNT_TMO c) + 1) ∧
      u.rd (CVU_CTXc_STAT_TMOEV c) = 1 ∧ u.ctx c = { s.ctx c with seq := none } ∧
      (∀ i, i ≠ c.val → u.ctx i = s.ctx i) ∧
      Touches [] [.pend, .cnp, .hbuf, .cvu] [.now, .resp, .out, .cnp, .cvu] s u) ∧
    (t < (s.ctx c).at_ + s.rd (CVU_CTXc_TMO_TIMEOUT c) * 100000 → Does (.contextTimeout c t) s fun u =>
      Touches [] [] [.now, .resp, .out] s u) ∧
    ((s.cvu.results.find? fun x => x.1 == n.val) = some r → Does (.unitFrameResult n t) s fun u =>
      u.rd (CVU_Uu_RES_LO n) = r.2.1 % 2 ^ 32 ∧ u.rd (CVU_Uu_RES_HI n) = r.2.1 / 2 ^ 32 % 2 ^ 32 ∧
      u.rd (CVU_Uu_STAT_DONEEV n) = 1 ∧
      u.rd (CVU_Uu_STAT_FRAMES n) = (s.rd (CVU_Uu_STAT_FRAMES n) + b2n r.2.2) % 65536 ∧
      u.cvu = { s.cvu with results := s.cvu.results.erase r } ∧
      (s.rd (CVU_Uu_CFG_CMP n) = 1 → r.2.1 ≠ s.rd64 (CVU_Uu_EXP_LO n) (CVU_Uu_EXP_HI n) →
        u.rd (CVU_Uu_STAT_MISEV n) = 1 ∧ u.rd (CVU_Uu_MISCNT_CNT n) = sat 16 (s.rd (CVU_Uu_MISCNT_CNT n) + 1) ∧
        Raised [150 + n] s u) ∧
      (s.rd (CVU_Uu_CFG_CMP n) = 0 → u.rd (CVU_Uu_MISCNT_CNT n) = s.rd (CVU_Uu_MISCNT_CNT n) ∧ Quiet s u) ∧
      Touches [CVU_Uu_RES_LO n, CVU_Uu_RES_HI n, CVU_Uu_STAT_DONEEV n, CVU_Uu_STAT_FRAMES n, CVU_Uu_STAT_BUSY n,
        CVU_Uu_STAT_MISEV n, CVU_Uu_MISCNT_CNT n] [.pend] [.now, .resp, .out, .cvu] s u) ∧
    ((∀ x, tblFind n s.cvu.running = some x → x.at_ ≠ t) → Does (.unitRestart n t) s fun u =>
      tblFind n u.cvu.running = none ∧ u.cvu = { s.cvu with running := u.cvu.running } ∧
      (∀ i, i ≠ n.val → tblFind i u.cvu.running = tblFind i s.cvu.running) ∧ Touches [] [] [.now, .resp, .out, .cvu] s u) ∧
    (tblFind n s.cvu.running = some ⟨v, t, same⟩ → Does (.unitRestart n t) s fun u =>
      tblFind n u.cvu.running = some ⟨same, t, same⟩ ∧ u.cvu = { s.cvu with running := u.cvu.running, results := u.cvu.results } ∧
      (∀ i, i ≠ n.val → tblFind i u.cvu.running = tblFind i s.cvu.running)) ∧
    (s.pw.phase = .running → Does (.cvuReset t) s (fun u =>
      u.cvu.resetting = true ∧ u.cvu.ctxs = [] ∧ u.cvu.results = [] ∧ u.cvu.running = [] ∧
      u.rd (CVU_CTXc_STAT_FRESH c) = 0 ∧ u.rd CVU_CTXLOCK_LOCK = s.rd CVU_CTXLOCK_LOCK ∧
      u.rd (CVU_CTXc_CFG_BLAZE c) = s.rd (CVU_CTXc_CFG_BLAZE c) ∧ u.rd (CVU_CTXc_SRCID c) = s.rd (CVU_CTXc_SRCID c) ∧
      (3 ≤ n.val → u.rd (CVU_Uu_CFG_EN n) = 0) ∧
      Touches [] [.pend, .cnp, .hbuf, .cvu] [.now, .resp, .out, .cnp, .cvu] s u)) ∧
    Does (.cvuResetDone t) s (fun u =>
      u.cvu = { s.cvu with resetting := false } ∧ Touches [] [] [.now, .resp, .out, .cvu] s u)

/-! ### Stands -/

/-- R112 to R121, R124 to R127: a lane that differs from the two others of a voted triad is fenced and its core tested,
and the stand goes on degraded; a difference in a pair, or of the two voters, makes the stand fail silent, and a second
failed stand resets the module. A tested core is proven as a spare or retired. At an agreement point the lanes take the
majority of what they latched and the median of their times. Where the spec leaves a point open, the model's reading
stands (log entries 78, 79, 80, 81, 82, 86, 90, 91, 92, 93, 94, 101, 125, 126, 127). -/
def Obligations.StandFailures : Prop :=
  ∀ (s : State) (k : Fin 4) (l item : Fin 3) (c : Fin 15) (da db dc : BitVec 256) (halts : BitVec 3) (ta tb tc lat t : Nat),
    let alone := ∀ i, i < 4 → i ≠ k.val → s.standState i ≠ stFailed
    let failed (cause : Nat) (u : State) : Prop :=
      u.standState k = stFailed ∧ u.rd (STD_Sk_FAULT_CAUSE k) = cause ∧ u.rd (STD_Sk_FAULT_LANE k) = 3 ∧
      u.rd (STD_Sk_FAULT_FAILED k) = 1 ∧ u.flag (STD_Sk_STAT_SAFEOK k) = false ∧ (u.stand k).request = none ∧
      (u.stand k).run = none ∧ Raised [8 + k] s u ∧ (∀ i, i ≠ k.val → u.stand i = s.stand i) ∧
      Touches [STD_Sk_STAT_STATE k, STD_Sk_STAT_PEND k, STD_Sk_STAT_SAFEOK k, STD_Sk_FAULT_CAUSE k, STD_Sk_FAULT_LANE k,
        STD_Sk_FAULT_FAILED k] [.pend, .iog, .chan] [.now, .resp, .out, .std, .io] s u
    let latch (d : BitVec 256) (i at_ : Nat) : Latch := ⟨s.pendVec k ^^^ d.toNat, bitAt halts.toNat i, at_⟩
    let g := agree3 (latch da 0 ta) (latch db 1 tb) (latch dc 2 tc)
    (s.standClocked k = true → s.standState k = stRunning →
      (l.val ∈ s.liveLanes k → s.wholeTriad k = true → alone → Does (.voterMismatch k l item t) s fun u =>
        u.bit (STD_Sk_LANES_FENCED k) l = true ∧ u.rd (STD_Sk_STAT_DEGRADED k) = 1 ∧ u.rd (STD_Sk_STAT_FENCEV k) = 1 ∧
        u.rd (STD_Sk_FAULT_CAUSE k) = item.val + 1 ∧ u.rd (STD_Sk_FAULT_LANE k) = l ∧ u.rd (STD_Sk_FAULT_FAILED k) = 0 ∧
        u.standState k = stRunning ∧ u.mode k = modeTriad ∧ (∀ i, i < 3 → u.laneCore k i = s.laneCore k i) ∧
        (s.laneCore k l < 15 → bitAt u.cop.testing (s.laneCore k l) = true) ∧
        (∀ i, i < 4 → s.rd (STD_EVTi_ROUTE_PRIO (4 + k)) ≠ 0 → s.bit (STD_EVTi_ROUTE_STANDS (4 + k)) i = true →
          u.pends (4 + k) i = true) ∧
        Touches [] [.std, .pend, .cpc, .iog, .chan, .ingress, .bist] [.now, .resp, .out, .pw, .rcd, .std, .cop, .io] s u) ∧
      (s.mode k = modePair → l.val ∈ s.liveLanes k → alone → Does (.voterMismatch k l item t) s (failed (item.val + 1))) ∧
      (s.mode k = modePair ∨ s.mode k = modeTriad → alone → Does (.voterXyDisagree k t) s (failed 5)) ∧
      (s.mode k = modePair ∨ s.mode k = modeTriad → (∃ i, i < 4 ∧ i ≠ k.val ∧ s.standState i = stFailed) →
        Does (.voterXyDisagree k t) s fun u => u.rd SYS_RSTCAUSE_LETTER = 1 ∧ u.rd SYS_RSTCAUSE_CAUSE = 3 ∧
        u.rd SYS_RSTCNT_DOUBLE = min (s.rd SYS_RSTCNT_DOUBLE + 1) 0xFF ∧ u.pw.start.at_ = t) ∧
      (s.mode k = modeSplit → Does (.voterMismatch k l item t) s fun u =>
        s.doubleFailed = false → ∀ i, i < 4 → u.standState i = s.standState i) ∧
      (s.wholeTriad k = true → (s.stand k).outvoted = [] → s.doubleFailed = false →
        Does (.agreementPoint k da db dc halts ta tb tc lat t) s fun u =>
        (u.stand k).agreed = g ∧ (u.stand k).mext = (s.offered k false g.pend).isSome ∧
        (u.stand k).sext = (s.offered k true g.pend).isSome ∧ (u.stand k).mtimer = decide (s.timecmp k 0 ≤ g.time) ∧
        u.standState k = (if g.halt || (s.stand k).haltReq then stHalted else stRunning) ∧
        u.rd (STD_Sk_INTLAT_MAX_NS k) = max (s.rd (STD_Sk_INTLAT_MAX_NS k)) (sat 16 (min lat (s.latBound k))) % 65536 ∧
        (da = 0 → db = 0 → dc = 0 → ta = tb → tb = tc → halts = 0 →
          u.rd (STD_Sk_AGR_CNT_CNT k) = s.rd (STD_Sk_AGR_CNT_CNT k) ∧ (u.stand k).outvoted = []) ∧
        (∀ i, i ≠ k.val → u.stand i = s.stand i) ∧ Quiet s u ∧
        Touches [] [.std, .lko, .iog, .chan] [.now, .resp, .out, .std, .io] s u)) ∧
    (s.pw.phase = .running → s.coreTesting c = true → s.cop.run = none → s.cop.waiting = none → (∀ i, i < 4 → (s.stand i).resetting = none) →
      s.isSpare c = true →
      (bitAt s.cop.fenced c = false → Does (.coreBistDone c false false t) s fun u => u.coreProven c = true ∧ u.coreTesting c = false ∧
        u.rd CPC_CORE_RETIRED = s.rd CPC_CORE_RETIRED ∧ u.cop.log = s.cop.log) ∧
      (s.cop.log.length < 4096 → Does (.coreBistDone c true false t) s fun u =>
        u.coreRetired c = true ∧ u.coreProven c = false ∧ u.coreTesting c = false ∧ u.rd CPC_STAT_RETEV = 1 ∧
        u.cop.log = s.cop.log ++ [(repairBytes ⟨1, c, t, 0⟩, repairBytes ⟨1, c, t, 0⟩)]))

/-- R122, R123, R131 to R139: a hand-over is requested, or refused with its code, accepted at an agreement point, and
resumed with the lanes it leads to, or fails; a stand is reset, and forms again. Where the spec leaves a point open,
the model's reading stands (log entries 78, 79, 80, 81, 82, 86, 90, 91, 92, 93, 94, 101, 125, 126, 127). -/
def Obligations.StandModes : Prop :=
  ∀ (s : State) (hart : Fin 12) (k : Fin 4) (v : BitVec 32) (q : HoReq) (r : HoRun) (a b c : Nat) (t : Nat),
    let j := hartStand hart
    let mode := bitsAt v.toNat 0 2
    let x := s.stand k
    let others (u : State) := ∀ i, i ≠ k.val → u.stand i = s.stand i
    let err (e : Nat) (u : State) : Prop := u.resp = .done ∧ u.rd (STD_Sk_STAT_REQERR k) = e ∧
      Touches [STD_Sk_STAT_REQERR k] [] [.now, .resp, .out] s u
    let ls := s.laneSet k r.fromMode r.req
    let mine (h : Nat) : Bool := (standHarts k).contains h
    (s.hartRuns hart = true → s.deviceOpen hart 0x10200000 = true → s.fwu.pause = none →
      (bitsAt v.toNat 24 8 ≠ 0xA5 → Does (.handoverRequest hart k v t) s fun u =>
        u.resp = .done ∧ Touches [] [] [.now, .resp, .out] s u) ∧
      (bitsAt v.toNat 24 8 = 0xA5 →
        (x.request.isSome = true ∨ x.run.isSome = true → Does (.handoverRequest hart k v t) s (err 1)) ∧
        (x.request = none → x.run = none →
          (k.val = 0 → mode = modeSplit ∨ mode = modeOff → Does (.handoverRequest hart k v t) s (err 2)) ∧
          (mode = modePair → s.permits j k = false → Does (.handoverRequest hart k v t) s (err 4)) ∧
          (mode = modePair → s.permits j k = true → s.standState k = stFailed →
            Does (.handoverRequest hart k v t) s (err 5)) ∧
          (mode = modeTriad → s.mode k ≠ modeTriad → x.reserve = [] → s.provenSpares = [] →
            Does (.handoverRequest hart k v t) s (err 3)) ∧
          (mode = modePair ∨ k.val ≠ 0 ∧ mode ≠ modeTriad → s.permits j k = true → s.standState k ≠ stFailed →
            Does (.handoverRequest hart k v t) s fun u =>
            u.resp = .done ∧ u.stand k = { x with request := some ⟨mode, bitAt v.toNat 4, bitsAt v.toNat 8 2⟩ } ∧ others u ∧
            u.rd (STD_Sk_STAT_PEND k) = 1 ∧ Touches [STD_Sk_STAT_PEND k] [] [.now, .resp, .out, .std] s u)))) ∧
    (s.standClocked k = true → s.doubleFailed = false → x.request = some q → x.run = none →
      x.resetting = none → s.standState k = stRunning ∨ s.standState k = stOff →
      (s.rwy.ops.any fun o => o.hart.any mine) = false → (s.rwy.held.any fun h => mine h.hart && decide (t < h.at_ + 100000)) = false →
      Does (.handoverAccept k t) s fun u =>
      u.standState k = stHandover ∧ u.stand k = { x with request := none, run := some ⟨q, s.mode k, t, false⟩, wfi := false } ∧
      others u ∧ (q.mode = modeSplit ∨ q.mode = modeOff → u.flag (STD_Sk_STAT_SAFEOK k) = false) ∧
      (∀ d, s.mode k = modeOff ∨ d < s.ckptBase k ∨ s.ckptBase k + 4096 ≤ d → u.byte d = s.byte d) ∧
      (NoSoft s → Quiet s u) ∧ Touches [STD_Sk_STAT_STATE k, STD_Sk_STAT_SAFEOK k] [.pend, .ecc, .iog, .chan, .cvu, .ingress]
        [.now, .mem, .resp, .out, .fresh, .pw, .rcd, .ecc, .std, .io, .cvu] s u) ∧
    (s.standUp k = true → s.doubleFailed = false → x.run = some r → r.nap = false →
      (r.req.mode < 4 → r.req.sub = false → Does (.handoverResume k .ok t) s fun u =>
        u.mode k = ls.mode ∧ u.standState k = (if ls.mode = modeOff then stOff else stRunning) ∧
        (r.req.mode = modeOff → ls.mode = modeOff) ∧ (ls.mode ≠ modeOff → (u.stand k).agreed.time = t ∧
          (u.stand k).mext = (u.offered k false (u.pendVec k)).isSome) ∧
        (∀ i, i < 3 → u.laneCore k i = ls.lanes.getD i 15 % 16) ∧ (u.stand k).reserve = ls.reserve ∧
        (u.stand k).run = none ∧ (u.stand k).formed = true ∧ u.rd (STD_Sk_STAT_HODONE k) = 1 ∧
        u.rd (STD_Sk_STAT_PEND k) = 0 ∧ u.rd (STD_Sk_HO_LAST_GAP k) = min 40000 (t - r.at_) ∧
        (u.stand k).entry = (if r.fromMode = modeOff ∧ ls.mode ≠ modeOff then some (s.startPc k) else none) ∧
        others u ∧ Raised [k] (s.sparesTo u) u ∧
        Touches [] [.std, .pend, .cpc, .iog, .chan, .ingress] [.now, .resp, .out, .pw, .rcd, .std, .cop, .io] s u) ∧
      ((∀ i, i < 4 → s.standState i ≠ stFailed) → Does (.handoverResume k .checkpointBad t) s fun u =>
        u.standState k = stFailed ∧ u.rd (STD_Sk_FAULT_CAUSE k) = 6 ∧ u.rd (STD_Sk_FAULT_FAILED k) = 1 ∧
        Raised [8 + k] s u ∧ others u)) ∧
    (s.hartRuns hart = true →
      (s.permits j k = false → Does (.standReset hart k t) s fun u =>
        u.resp = .storeFault ∧ Touches [] [] [.now, .resp, .out] s u) ∧
      (s.deviceOpen hart 0x10200000 = true → s.permits j k = true → s.fwu.pause = none → x.resetting = none →
        s.doubleFailed = false → s.pw.phase = .running → Does (.standReset hart k t) s fun u =>
        u.resp = .done ∧ u.standState k = stForming ∧
        u.stand k = { standInit with reserve := x.reserve, resetting := some (s.standState k == stFailed) } ∧ others u ∧
        u.flag (STD_Sk_STAT_SAFEOK k) = false ∧ (∀ o ∈ u.rwy.ops, o.hart.any mine = false) ∧
        (s.standState k = stFailed → ∀ d, d ∈ s.ownCores k → d < 15 → bitAt u.cop.testing d = true) ∧
        SameMemory s u)) ∧
    (s.pw.phase = .running → x.resetting = some false → s.formCores k = a :: b :: [c] → s.initMode k = modeTriad →
      a < 15 → b < 15 → c < 15 → s.doubleFailed = false → Does (.standResetDone k 0 t) s fun u =>
      u.mode k = modeTriad ∧ u.standState k = stRunning ∧ u.laneCore k 0 = a ∧ u.laneCore k 1 = b ∧ u.laneCore k 2 = c ∧
      (u.stand k).formed = true ∧ (u.stand k).entry = some (s.startPc k) ∧ (u.stand k).resetting = none ∧
      u.rd (STD_Sk_STAT_DEGRADED k) = 0 ∧ Raised [k] (s.sparesTo u) u ∧
      Touches [] [.std, .pend, .cpc, .iog, .chan, .ingress] [.now, .resp, .out, .pw, .rcd, .std, .cop, .io] s u)

/-- R140 to R149: the debug transport attaches to one stand or engine and makes it not safe, detaches, halts, steps and
resumes the stand, reads through lane A, and writes through lane A with an entry in the replay queue, which reaches
lanes B and C before they execute; a claim takes the offered source of its stand, and a software event raises its
sources. What becomes of the replay queue at a detach, and the numbers by which registers are named, are the model's
choice (log entries 93 and 94). Where the spec leaves a point open, the model's reading stands (log entries 78, 79, 80,
81, 82, 86, 90, 91, 92, 93, 94, 101, 125, 126, 127). -/
def Obligations.DebugAndEvents : Prop :=
  ∀ (s : State) (hart : Fin 12) (k : Fin 4) (n len : Nat) (sup : Bool) (v : BitVec 64) (bits : BitVec 16) (bs : List Byte)
    (t : Nat),
    let x := s.stand k
    let others (u : State) := ∀ i, i ≠ k.val → u.stand i = s.stand i
    let agreedNow (x : Stand) (halt : Bool) (y : Stand) : Stand := { x with
      agreed := ⟨s.pendVec k, halt, t⟩, outvoted := [], haltReq := false, slow := x.slow - 1
      mext := (s.offered k false (s.pendVec k)).isSome, sext := (s.offered k true (s.pendVec k)).isSome
      mtimer := decide (s.timecmp k 0 ≤ t), mtimerB := y.mtimerB, mtimerC := y.mtimerC, wfi := y.wfi }
    let refused (u : State) : Prop := u.resp = .debugError ∧ Touches [] [] [.now, .resp, .out] s u
    (s.pw.phase = .running → s.fwu.pause = none → s.dbg = .none →
      (s.laneFenced k 0 = true → Does (.debugAttach false k t) s refused) ∧
      (s.laneFenced k 0 = false → s.pw.exhausted = false → s.rd (PWR_UNIT_UNIT k) = 0 → Does (.debugAttach false k t) s fun u =>
        u.dbg = .stand k ∧ u.rd STD_DBG_STAT_ATT = 1 ∧ u.rd STD_DBG_STAT_STAND = k ∧ u.rd (STD_Sk_STAT_NOTSAFE k) = 1 ∧
        u.flag (STD_Sk_STAT_SAFEOK k) = false ∧ Raised [14] s u ∧
        Touches [STD_DBG_STAT_ATT, STD_DBG_STAT_STAND, STD_Sk_STAT_NOTSAFE k, STD_Sk_STAT_SAFEOK k] [.pend, .iog, .chan]
          [.now, .resp, .out, .dbg, .io] s u) ∧
      (s.bit (LE_Ee_LANES_FENCED k) (s.rd (LE_Ee_LANES_LANEA k)) = false → Does (.debugAttach true k t) s fun u =>
        u.dbg = .engine k ∧ u.rd (LE_Ee_DBG_STAT_ATT k) = 1 ∧ u.rd (LE_Ee_STAT_NOTSAFE k) = 1 ∧
        u.rd (PWR_UNIT_UNIT (4 + k)) = 0 ∧ Raised [14] s u ∧
        Touches [LE_Ee_DBG_STAT_ATT k, LE_Ee_STAT_NOTSAFE k, PWR_UNIT_UNIT (4 + k)] [.pend, .iog, .chan]
          [.now, .resp, .out, .dbg, .io] s u)) ∧
    (s.dbg = .stand k →
      (Does (.debugDetach t) s fun u =>
        u.dbg = .none ∧ u.rd STD_DBG_STAT_ATT = 0 ∧ u.rd STD_DBG_STAT_QFILL = 0 ∧
        u.stand k = { x with arch := x.replay.foldl replayOne x.arch, replay := [] } ∧
        others u ∧ Raised [14] s u ∧
        Touches [STD_DBG_STAT_ATT, STD_DBG_STAT_QFILL] [.pend] [.now, .resp, .out, .std, .dbg] s u) ∧
      (s.pw.phase = .running →
        (s.standState k = stRunning → s.rd (PWR_UNIT_UNIT k) = 0 → Does (.debugHaltStand k t) s fun u =>
          u.standState k = stHalted ∧ u.resp = .none ∧ others u ∧ u.stand k = agreedNow x true (u.stand k) ∧
          (k.val = 0 → s.rd STD_OPT_LKODBG = 1 → u.rd STD_LKO_STAT_SUSP = 1 ∧ u.rd STD_LKO_STAT_OPEN = 0) ∧
          Touches [STD_Sk_STAT_STATE k, STD_LKO_STAT_SUSP, STD_LKO_STAT_OPEN] [] [.now, .resp, .out, .std] s u) ∧
        (s.standState k = stHalted → Does (.debugStepStand k t) s fun u =>
          u.standState k = stHalted ∧ others u ∧ u.rd STD_DBG_STAT_QFILL = 0 ∧
          u.stand k = agreedNow { x with arch := [], replay := [] } true (u.stand k) ∧
          (k.val = 0 → s.rd STD_OPT_LKODBG = 1 → u.rd STD_LKO_STAT_SUSP = 1) ∧
          Touches [STD_DBG_STAT_QFILL, STD_LKO_STAT_SUSP, STD_LKO_STAT_OPEN] [] [.now, .resp, .out, .std] s u) ∧
        (s.standState k = stHalted → x.haltReq = false → Does (.debugResumeStand k t) s fun u =>
          u.standState k = stRunning ∧ u.stand k = agreedNow { x with arch := [], replay := [] } false (u.stand k) ∧ others u ∧
          u.rd STD_DBG_STAT_QFILL = 0 ∧
          Touches [STD_Sk_STAT_STATE k, STD_DBG_STAT_QFILL] [.lko] [.now, .resp, .out, .std, .lko] s u) ∧
        (s.pw.exhausted = false → Does (.debugReadStand k (.reg n) len v t) s fun u =>
          u.resp = .ok (if n = 0x1000 then 0 else if n = 0xF14 then k.val else if n = 0xC01 then x.agreed.time
            else if s.standState k = stHalted then (tblFind n x.arch).getD v.toNat else v.toNat) ∧ Touches [] [] [.now, .resp, .out] s u) ∧
        (s.pw.exhausted = false → 0x01000000 ≤ n → n + len ≤ 0x02000000 → 0 < len → RangeSound s n len →
          Does (.debugReadStand k (.mem n) len v t) s fun u =>
          u.resp = .bytes (s.bytes n len) ∧ Touches [] [] [.now, .resp, .out] s u) ∧
        (0xC00 ≤ n → n < 0x1000 → Does (.debugWriteStand k (.reg n) bs t) s refused) ∧
        (n < 0xC00 ∨ 0x1000 < n → s.mode k ≠ modeSplit → x.replay.length < 256 → s.standState k = stHalted →
          Does (.debugWriteStand k (.reg n) bs t) s fun u =>
          u.resp = .done ∧ u.stand k = { x with arch := tblPut n (leNat (bs.take 8)) x.arch, replay := x.replay ++ [⟨0, n, leNat (bs.take 8)⟩] } ∧ others u ∧
          u.rd STD_DBG_STAT_QFILL = x.replay.length + 1 ∧
          Touches [STD_DBG_STAT_QFILL] [] [.now, .resp, .out, .std] s u) ∧
        (n < 0xC00 ∨ 0x1000 < n → s.mode k ≠ modeSplit → x.replay.length < 256 → s.standState k ≠ stHalted →
          Does (.debugWriteStand k (.reg n) bs t) s fun u =>
          u.resp = .done ∧ u.stand k = { x with replay := x.replay ++ [⟨0, n, leNat (bs.take 8)⟩] } ∧ others u ∧
          u.rd STD_DBG_STAT_QFILL = x.replay.length + 1 ∧
          Touches [STD_DBG_STAT_QFILL] [] [.now, .resp, .out, .std] s u) ∧
        (s.mode k ≠ modeSplit → x.replay.length < 256 → 0x01000000 ≤ n → n + bs.length ≤ 0x01F00000 → 0 < bs.length →
          bs.length ≤ 8 → RangeSound s (n / 64 * 64) 128 → Does (.debugWriteStand k (.mem n) bs t) s fun u =>
          u.resp = .done ∧ Stored n bs s u ∧ (u.stand k).replay = x.replay ++ [⟨1, n, leNat bs⟩] ∧ others u ∧
          (NoSoft s → Quiet s u) ∧ Touches [STD_DBG_STAT_QFILL] [.pend, .ecc, .cvu, .ingress]
            [.now, .mem, .resp, .out, .pw, .rcd, .std, .ecc, .cvu] s u))) ∧
    (s.dbg ≠ .stand k → Does (.debugStepStand k t) s refused) ∧
    (s.hartRuns hart = true →
      (∀ i, s.offered k sup (s.pendVec k) = some i → Does (.claimRead hart k sup t) s fun u =>
        u.resp = .ok (2 ^ 31 + i) ∧
        (∀ m j, m < 256 → j < 4 → u.pends m j = if m = i ∧ j = k.val then false else s.pends m j) ∧
        Touches [] [.pend] [.now, .resp, .out] s u) ∧
      (s.offered k sup (s.pendVec k) = none → Does (.claimRead hart k sup t) s fun u =>
        u.resp = .ok 0 ∧ Touches [] [] [.now, .resp, .out] s u) ∧
      (s.deviceOpen hart 0x10200000 = true → Does (.softwareEvent hart bits t) s fun u =>
        u.resp = .done ∧ Raised (((List.range 16).filter (bitAt bits.toNat)).map (240 + ·)) s u ∧
        Touches [] [.pend] [.now, .resp, .out] s u))

/-- R110, R150 to R153: Lookout is serviced by two writes of S0 and starts a window; a service too early, a wrong or
late second write, no service by the end of the window or by the start limit, and a write by another stand reset the
module, each with its reason; the window opens at its lower bound; while Lookout is suspended nothing of it ends. Where
the spec leaves a point open, the model's reading stands (log entries 78, 79, 80, 81, 82, 86, 90, 91, 92, 93, 94, 101,
125, 126, 127). -/
def Obligations.LookoutServices : Prop :=
  ∀ (s : State) (hart : Fin 12) (v : BitVec 32) (f t : Nat), s.pw.phase = .running → s.pw.exhausted = false →
    let reset (why : Nat) (u : State) : Prop :=
      u.rd STD_LKO_STAT_LASTRST = why ∧ u.rd SYS_RSTCAUSE_LETTER = 1 ∧ u.rd SYS_RSTCAUSE_CAUSE = 1 ∧
      u.rd SYS_RSTCNT_LOOKOUT = min (s.rd SYS_RSTCNT_LOOKOUT + 1) 0xFF ∧ u.pw.start.at_ = t ∧ u.lko = lookoutInit
    let max_ := s.rd STD_LKO_CFG_MAX * 1000000
    let min_ := max_ * s.rd STD_LKO_CFG_MIN / 4
    let early := s.rd STD_LKO_STAT_ARMED = 1 ∧ s.lko.lower = true ∧ s.rd STD_LKO_STAT_OPEN = 0 ∧ min_ ≠ 0 ∧
      t < s.lko.from_ + min_ + min_ / 100 + 61000
    (s.hartRuns 0 = true → s.deviceOpen 0 0x10200000 = true → s.fwu.seed = none →
      (s.lko.first = none → Does (.lookoutServiceFirst 0 t) s fun u =>
        u.resp = .done ∧ u.lko = { s.lko with first := some t } ∧ Touches [] [] [.now, .resp, .out, .lko] s u) ∧
      (s.lko.first = some f →
        (Does (.lookoutServiceFirst 0 t) s fun u => u.resp = .done ∧ reset 3 u) ∧
        (v = 0x5AA5 → t ≤ f + 64000 → ¬ early → s.fwu.pause = none → Does (.lookoutServiceSecond 0 v t) s fun u =>
          u.resp = .done ∧ u.lko = ⟨t, none, true⟩ ∧ u.rd STD_LKO_STAT_ARMED = 1 ∧ u.rd STD_LKO_STAT_OPEN = 0 ∧
          u.pw.start.serviced = true ∧
          Touches [STD_LKO_STAT_ARMED, STD_LKO_STAT_OPEN] [] [.now, .resp, .out, .pw, .lko] s u) ∧
        (v = 0x5AA5 → t ≤ f + 64000 → early → Does (.lookoutServiceSecond 0 v t) s fun u => u.resp = .done ∧ reset 1 u) ∧
        (v ≠ 0x5AA5 ∨ f + 64000 < t → Does (.lookoutServiceSecond 0 v t) s fun u => u.resp = .done ∧ reset 3 u))) ∧
    (s.hartRuns hart = true → s.deviceOpen hart 0x10200000 = true → hart ≠ 0 →
      (Does (.lookoutServiceFirst hart t) s fun u => u.resp = .storeFault ∧ reset 5 u) ∧
      Does (.lookoutServiceSecond hart v t) s fun u => u.resp = .storeFault ∧ reset 5 u) ∧
    (s.hartRuns hart = true → s.deviceOpen hart 0x10200000 = false → Does (.lookoutServiceSecond hart v t) s fun u =>
      u.resp = .storeFault ∧ Touches [] [] [.now, .resp, .out] s u) ∧
    (s.rd STD_LKO_STAT_ARMED = 1 → s.rd STD_LKO_STAT_SUSP = 0 →
      (s.fwu.seed = none → s.lko.from_ + max_ ≤ t → Does (.lookoutTimeout t) s (reset 2)) ∧
      (s.rd STD_LKO_STAT_OPEN = 0 → s.lko.from_ + min_ ≤ t → Does (.lookoutWindowOpen t) s fun u =>
        u.rd STD_LKO_STAT_OPEN = 1 ∧ Raised [13] s u ∧ Touches [STD_LKO_STAT_OPEN] [.pend] [.now, .resp, .out] s u)) ∧
    (s.lko.first = some f → s.rd STD_LKO_STAT_SUSP = 0 → f + 64000 < t → Does (.lookoutSequenceTimeout t) s (reset 3)) ∧
    (s.pw.start.serviced = false → s.rd STD_LKO_STAT_SUSP = 0 → s.fwu.seed = none → s.fwu.pause = none → s.pw.start.at_ + 5000000000 ≤ t →
      Does (.lookoutStartLimit t) s (reset 4)) ∧
    (s.pw.start.serviced = true ∨ s.rd STD_LKO_STAT_SUSP = 1 → Does (.lookoutStartLimit t) s fun u =>
      Touches [] [] [.now, .resp, .out] s u)

/-! ### Train fabric -/

/-- R350 to R358, R360, R361, R363, R364: what starts an inauguration, and what each of its frames brings: a neighbour,
a delay exchange, a RECORD, BLAZES, a DIGEST that is compared, a COMMIT that sets EFFECT; its deadlines; and the table
taking effect. A frame that finds another train makes the inauguration fail, with its reason, and begins the next.
Where the spec leaves a point open, the model's reading stands (log entries 61, 62, 63). -/
def Obligations.TrainFabric : Prop :=
  ∀ (s : State) (port : Fin 4) (side : Fin 2) (frame : List Byte) (tr : Train) (e : Nat) (t : Nat),
    let v := s.begin t
    let p := frPayload frame
    let l := s.portLink port
    let fresh := if l.nbr.isSome && !(l.nbr.any fun m => m.serial == beAt 8 4 p) then
      { l with delay := none, exch := 0, sum := 0, t1 := none } else l
    let prevailing := match (tr.slots.find? fun x => x.1 == 0).bind fun x => tr.nodes[x.2 - 1]? with
      | some n => recPrevcrc n.body
      | none => 0
    let notLower := (beAt 2 2 p + 65536 - s.fab.top) % 65536 < 32768
    let heard (op : Nat) : Prop := s.portSends port = true ∧ frKind frame = frIna ∧ beAt 0 1 p = op ∧ 12 ≤ p.length ∧
      beAt 2 2 p = s.fab.ina ∧ notLower ∧ beAt 8 4 p ≠ s.rd SYS_SERIAL_LO ∧
      (s.loaded = false ∨ beAt 7 1 p = 0 ∨ beAt 1 1 p = s.rd KEY_VEH_ID0_DOMAIN) ∧ s.linkUp (otherPort port) = false ∧
      (op = 2 ∨ op = 3 ∨ op = 4 → frDest frame = 0)
    let begun (n : Nat) (events : List Nat) (u : State) : Prop :=
      u.inaState = inaNeighbour ∧ u.rd CNP_INA_STAT_STARTEV = 1 ∧ u.fab.ina = n % 65536 ∧
      u.rd CNP_INA_NUM_INA = n % 65536 ∧ u.fab.tS = t ∧
      u.fab.trigAt = (if s.inaBusy then s.fab.trigAt else s.fab.heldTrigger.getD t) ∧ u.fab.heldTrigger = none ∧ u.fab.records = [] ∧ u.fab.digests = [] ∧
      u.fab.built = none ∧ u.fab.table = s.fab.table ∧ Raised events s u ∧
      RegsIn [.pend, .cnp, .ingress, .cvu] s u
    let fails (why : Nat) (u : State) : Prop := u.rd CNP_INA_STAT_FAILEV = 1 ∧ u.rd CNP_INA_STAT_STARTEV = 1 ∧
      (s.allMeasured = false → begun (s.fab.top + 1) [128, 130] u ∧
        u.rd CNP_INA_CNT_FAIL = sat 16 (s.rd CNP_INA_CNT_FAIL + 1) ∧ u.rd CNP_INA_STAT_WHY = why)
    let mine := prevailing ≠ 0 ∧ prevailing = s.fab.prevCrc ∧ s.syncState = syncSynced
    let collecting := s.inaState = inaNeighbour ∧ s.allMeasured = false
    (s.linkUp port = false → s.pw.phase = .running → s.fab.started = false → s.inaState = inaIdle →
      (s.mayInaugurate = true → Does (.linkUp port t) s fun u => u.linkUp port = true ∧ begun (s.fab.top + 1) [115, 128] u) ∧
      (s.mayInaugurate = false → Does (.linkUp port t) s fun u => u.linkUp port = true ∧ u.fab.heldTrigger = some (s.fab.heldTrigger.getD t) ∧
        Raised [115] s u ∧ Touches [CNP_PORTSTAT_LINKUP] [.pend] [.now, .resp, .out, .fab] s u)) ∧
    (s.linkUp port = true → s.inaState = inaIdle → Does (.linkDown port t) s fun u =>
      u.linkUp port = false ∧ u.portLink port = { portLinkInit with downAt := t } ∧ u.rd (CNP_LDp_DELAY port) = 0xFFFF ∧
      (∀ i, i ≠ port.val → u.portLink i = s.portLink i) ∧ Raised [115] s u ∧
      Touches [CNP_PORTSTAT_LINKUP, CNP_LDp_DELAY port] [.pend] [.now, .resp, .out, .cnp, .fab] s u) ∧
    (s.sideInTrain side = true → s.linkUp side = false → s.linkUp (2 + side) = false →
      (s.portLink side).downAt + 20000000 ≤ t → (s.portLink (2 + side)).downAt + 20000000 ≤ t → s.mayInaugurate = true →
      s.inaState = inaIdle → s.allMeasured = false → Does (.sideLossTimeout side t) s (begun (s.fab.top + 1) [128])) ∧
    (heard 1 → s.inaState = inaIdle → Does (.trainStart port frame t) s fun u =>
      u.inaState = inaIdle ∧
      u.fab = { s.fab with seen := u.fab.seen, tS := if s.fab.tsFirm then s.fab.tS else t, tsFirm := true } ∧ Touches [] [.cvu] [.now, .resp, .out, .fab, .cvu] s u) ∧
    (s.portSends port = true → frKind frame = frIna → beAt 0 1 p = 1 → 12 ≤ p.length →
      beAt 2 2 p ≠ s.fab.ina → notLower → beAt 8 4 p ≠ s.rd SYS_SERIAL_LO →
      s.loaded = false ∨ beAt 7 1 p = 0 ∨ beAt 1 1 p = s.rd KEY_VEH_ID0_DOMAIN → s.mayInaugurate = true →
      s.allMeasured = false → s.linkUp (otherPort port) = false → frDest frame = 0xFF →
      Does (.trainStart port frame t) s (begun (beAt 2 2 p) [128])) ∧
    (s.portSends port = true → frKind frame = frIna → beAt 0 1 p = 1 → ¬ notLower ∨ beAt 8 4 p = s.rd SYS_SERIAL_LO →
      s.inaState = inaIdle → Does (.trainStart port frame t) s fun u => Touches [] [] [.now, .resp, .out] s u) ∧
    (heard 2 → s.inaState = inaIdle → s.sideInTrain (portSide port) = false → l.late = false →
      Does (.trainHello port frame t) s fun u =>
      u.portLink port = { fresh with nbr := some ⟨beAt 8 4 p, if bitAt (beAt 12 1 p) 5 || !s.loaded then
        s.ident KEY_VEH_ID0_DOMAIN else beAt 1 1 p, beAt 13 1 p⟩ } ∧ (∀ i, i ≠ port.val → u.portLink i = s.portLink i) ∧
      Touches [] [.cvu] [.now, .resp, .out, .fab, .cvu] s u) ∧
    (heard 3 → s.inaState = inaIdle → s.linkUp port = true → (s.etPort port).queue.length < 32 → (s.etPort port).busy = true →
      Does (.trainDreq port frame t) s fun u =>
      u.etPort port = ⟨(s.etPort port).queue ++
        [ownFrame (v.frame frIna 0 0 0 (s.inaHead 4 ++ padTo 8 (slice 12 8 p) ++ beBytes 8 (t / 8 * 8) ++ beBytes 8 0))], true⟩ ∧
      (∀ i, i ≠ port.val → u.etPort i = s.etPort i) ∧ Touches [] [.cvu] [.now, .resp, .out, .cnp, .cvu] s u) ∧
    (heard 4 → s.inaState = inaIdle → l.t1 = some (beAt 12 8 p) → l.delay = none → l.exch = 15 →
      Does (.trainDresp port frame t) s fun u =>
      let turn : Int := (t / 8 * 8 : Nat)
      let d := min 0xFFFE ((l.sum + (turn - beAt 12 8 p - ((beAt 28 8 p : Int) - beAt 20 8 p))) / 32).toNat
      (u.portLink port).delay = some d ∧ (∀ i, i ≠ port.val → u.portLink i = s.portLink i) ∧
      Touches [] [.cvu] [.now, .resp, .out, .fab, .cvu] s u) ∧
    (heard 5 → collecting → (s.fab.records.any fun q => recSerial q == recSerial (padTo 60 p)) = false →
      Does (.trainRecord port frame t) s fun u => u.fab = { s.fab with records := s.fab.records ++ [padTo 60 p], seen := u.fab.seen } ∧
      Touches [] [.cvu] [.now, .resp, .out, .fab, .cvu] s u) ∧
    (heard 6 → collecting → (s.fab.blazes.any fun q => blzSerial q == blzSerial p && blzPart q == blzPart p) = false →
      Does (.trainBlazes port frame t) s fun u => u.fab = { s.fab with blazes := s.fab.blazes ++ [p], seen := u.fab.seen } ∧
      Touches [] [.cvu] [.now, .resp, .out, .fab, .cvu] s u) ∧
    (heard 7 →
      (collecting → s.fab.built = none → (beAt 8 4 p, beAt 12 4 p, beAt 16 1 p) ∉ s.fab.digests →
        Does (.trainDigest port frame t) s fun u =>
        u.fab = { s.fab with digests := s.fab.digests ++ [(beAt 8 4 p, beAt 12 4 p, beAt 16 1 p)], seen := u.fab.seen } ∧
        Touches [] [.cvu] [.now, .resp, .out, .fab, .cvu] s u) ∧
      (s.fab.built = some tr → beAt 12 4 p ≠ tr.crc → Does (.trainDigest port frame t) s (fails 1))) ∧
    (heard 8 → s.fab.built = some tr →
      (beAt 12 4 p ≠ tr.crc → Does (.trainCommit port frame t) s (fails 2)) ∧
      (beAt 12 4 p = tr.crc → s.inaState = inaCommit → Does (.trainCommit port frame t) s fun u => u.inaState = inaEffect ∧
        u.fab.doneAt = beAt 20 8 p ∧
        u.fab.effect = some (if mine then beAt 20 8 p else t / s.tcNs * s.tcNs + s.tcNs) ∧
        (¬ mine → u.joinState ≠ joinActive) ∧ u.fab.built = some tr ∧ u.fab.table = s.fab.table)) ∧
    (s.inaState = inaNeighbour → s.fab.completing = false → s.fab.tS + 30000000 ≤ t → s.fab.records.find? (fun q => recSerial q == s.serial) = none →
      chainOf (s.fab.records ++ [v.ownRecord]) v.ownRecord = none → Does (.neighbourTimeout t) s fun u =>
      u.inaState = inaRecords ∧ u.fab.records = s.fab.records ++ [v.ownRecord] ∧ u.fab.built = s.fab.built ∧
      Quiet s u ∧ RegsIn [.pend, .cnp, .ingress] s u) ∧
    (s.inaState ∈ [inaNeighbour, inaRecords, inaDigest, inaCommit] →
      (s.committer = true → s.fab.tS + 155000000 ≤ t → Does (.inaugurationDeadline t) s (fails 3)) ∧
      (s.committer = false → s.fab.tS + 230000000 ≤ t → Does (.inaugurationDeadline t) s (fails 4))) ∧
    (s.inaState = inaEffect → s.fab.effect = some e → s.fab.built = some tr → e ≤ t → t % s.tcNs = 0 →
      s.fab.heldTrigger = none →
      tr.nodes.length < 256 → Does (.tableEffect t) s fun u =>
      u.fab.table = some tr ∧ u.fab.prevCrc = tr.crc ∧ u.fab.effect = none ∧ u.fab.built = none ∧
      u.rd CNP_NODE_COUNT = tr.nodes.length ∧ u.rd CNP_NODE_ID = (match tr.own with | some i => i + 1 | none => 0) % 256 ∧
      u.rd CNP_INA_STAT_RING = b2n tr.ring ∧ u.rd CNP_INA_STAT_DONEEV = 1 ∧
      u.rd CNP_INA_CNT_DONE = sat 16 (s.rd CNP_INA_CNT_DONE + 1) ∧ u.cnp.alone = false ∧
      (s.syncState = syncSynced → s.fab.doneAt ≤ t → u.inaState = inaIdle ∧ u.fab.completing = false) ∧
      (s.syncState ≠ syncSynced ∨ t < s.fab.doneAt → u.fab.completing = true) ∧
      (∀ i, i < 4 → s.rd (STD_EVTi_ROUTE_PRIO 129) ≠ 0 → s.bit (STD_EVTi_ROUTE_STANDS 129) i = true → u.pends 129 i = true))

/-! ### Rootway -/

/-- R398, R399, R403, R406, R408 to R412, R415, R416, R418: an access that no enabled window carries is refused and
nothing is sent; loads, LR, SC and AMO wait for their answer, stores are posted; an unresolved window fails them with
NOROUTE; what a RESP and a WACK bring; the time-out of 2 ms; the fence; the doorbell poll; the function reset. Messages
wait while the module may not send (R404), and nothing leaves a hart that does not run (R107, R120). Where the spec
leaves a point open, the model's reading stands (log entries 56, 57, 58, 59). -/
def Obligations.RootwayRequests : Prop :=
  ∀ (s : State) (hart : Fin 12) (addr : BitVec 36) (size : Fin 4) (fn : BitVec 5) (data : BitVec 64) (node : Fin 129)
    (m : List Byte) (o : RwOp) (p : RwPost) (wn : Fin 16) (i : Fin 8) (t : Nat),
    let w := addr.toNat / 0x4000000 % 16
    let off := addr.toNat % 0x4000000
    let runs := s.hartRuns hart = true
    let able := 0x40000000 ≤ addr.toNat ∧ addr.toNat < 0x80000000 ∧ addr.toNat % 2 ^ size.val = 0 ∧
      s.rd (RWY_Ww_CFG_EN w) = 1
    let idle := s.rwWaits hart = false
    let free := s.splitOpen hart addr.toNat (2 ^ size.val) = true
    let dst (w : Nat) := s.rd (RWY_Ww_STAT_NODE w)
    let v := data.toNat % 2 ^ (8 * 2 ^ size.val)
    let refused (r : Resp) (u : State) : Prop := u = { s with now := t, resp := r, out := [], hits := u.hits }
    let slowed (hart : Option Nat) (u : State) : State := match hart with | some h => u.slowCode h | none => u
    let issued (hart : Option Nat) (w op size fn off data : Nat) (d : Option Nat) (route : Option Nat) (u : State) : Prop :=
      u = slowed hart { s with now := t, resp := .none, out := [], hits := u.hits, rwy := { s.rwy with
        tag := (s.rwy.tag + 1) % 65536
        ops := s.rwy.ops ++ [⟨hart, w, op, size, fn, off, data, s.rd (RWY_Ww_TGT_APER w), route, dst w, s.rwy.tag,
          s.windowPlane w (dst w), t, false⟩]
        hold := s.rwy.hold || (op == 3 || op == 6)
        out := s.rwy.out ++ [⟨route, dst w, s.windowPlane w (dst w),
          rwMessage op size fn (s.rd (RWY_Ww_TGT_APER w)) 0 off s.rwy.tag d, t⟩] } }
    let rdLog (P : List Part) (w off status : Nat) (u : State) : Prop := u.rd RWY_RDERR_WINDOW = w ∧ u.rd RWY_RDERR_OFFSET = off ∧
      u.rd RWY_RDSTAT_STATUS = status ∧ u.rd RWY_STAT_RDEV = 1 ∧ Raised [160] s u ∧
      Touches [RWY_RDERR_WINDOW, RWY_RDERR_OFFSET, RWY_RDSTAT_STATUS, RWY_STAT_RDEV] [.pend] ([.now, .resp, .out, .rwy] ++ P) s u
    let counts : List Fld := RWY_STAT_POSTED :: (List.range 16).map RWY_Ww_STAT_POSTED
    let pwLog (P : List Part) (w off size node status : Nat) (u : State) : Prop := u.rd (RWY_PWEi_INFO_VALID i) = 1 ∧
      u.rd (RWY_PWEi_LOC_WINDOW i) = w ∧ u.rd (RWY_PWEi_LOC_OFFSET i) = off ∧ u.rd (RWY_PWEi_INFO_SIZE i) = size ∧
      u.rd (RWY_PWEi_INFO_STATUS i) = status ∧ u.rd (RWY_PWEi_INFO_NODE i) = node ∧
      u.rd64 (RWY_PWEi_TIME_LO i) (RWY_PWEi_TIME_HI i) = t % 2 ^ 64 ∧ u.rd RWY_STAT_PWEEV = 1 ∧
      u.rd RWY_PWE_CNT_FAIL = sat 16 (s.rd RWY_PWE_CNT_FAIL + 1) ∧ Raised [161] s u ∧
      Touches ([RWY_PWEi_INFO_VALID i, RWY_PWEi_LOC_WINDOW i, RWY_PWEi_LOC_OFFSET i, RWY_PWEi_INFO_SIZE i,
        RWY_PWEi_INFO_STATUS i, RWY_PWEi_INFO_NODE i, RWY_PWEi_TIME_LO i, RWY_PWEi_TIME_HI i, RWY_STAT_PWEEV,
        RWY_PWE_CNT_FAIL] ++ counts) [.pend] ([.now, .resp, .out, .rwy] ++ P) s u
    let room := s.rd (RWY_PWEi_INFO_VALID i) = 0 ∧ ∀ j, j < i.val → s.rd (RWY_PWEi_INFO_VALID j) = 1
    let unsent := s.rwMaySend = false
    let resp := s.rwy.ops.find? (fun o => o.tag == rmTag m && o.node == node.val) = some o ∧ rmOp m = 8 ∧ o.window < 16
    let taken (r : Rootway) : Rootway := { r with ops := r.ops.erase o, hold := r.hold && (r.ops.erase o).any fun q =>
      (q.op == 3 || q.op == 6) && !q.retry }
    let got := leAt 16 8 m % 2 ^ (8 * 2 ^ o.size)
    let answered (r : Resp) (f : Rootway → Rootway) (u : State) : Prop :=
      u = { s with now := t, resp := .none, out := [.answer hart r], hits := u.hits, rwy := f (taken s.rwy) }
    let wack := s.rwy.posted.find? (fun p => p.tag == rmTag m && p.node == node.val) = some p ∧ rmOp m = 9
    (s.hartRuns hart = false → Does (.windowLoad hart addr size t) s (refused .none) ∧
      Does (.windowStore hart addr size data t) s (refused .none) ∧ Does (.windowLr hart addr size t) s (refused .none) ∧
      Does (.windowSc hart addr size data t) s (refused .none) ∧
      Does (.windowAmo hart addr size fn data t) s (refused .none) ∧ Does (.fenceRead hart wn t) s (refused .none)) ∧
    (runs → ¬ able → Does (.windowLoad hart addr size t) s (refused .loadFault) ∧
      Does (.windowLr hart addr size t) s (refused .storeFault) ∧
      (idle → Does (.windowStore hart addr size data t) s (refused .storeFault)) ∧
      Does (.windowSc hart addr size data t) s (refused .storeFault) ∧
      Does (.windowAmo hart addr size fn data t) s (refused .storeFault)) ∧
    (runs → able → size.val < 2 → Does (.windowLr hart addr size t) s (refused .storeFault)) ∧
    (runs → able → idle → unsent → s.rd (RWY_Ww_STAT_RESOLVED w) = 1 →
      Does (.windowLoad hart addr size t) s (issued (some hart.val) w 1 size 0 off 0 none (s.windowRoute w)) ∧
      (free → s.rwy.posted.length < 128 → Does (.windowStore hart addr size data t) s fun u =>
        u.resp = .done ∧ u.out = [] ∧ u.rwy = { s.rwy with
          tag := (s.rwy.tag + 1) % 65536
          posted := s.rwy.posted ++ [⟨w, off, size, dst w, s.rwy.tag, t⟩]
          out := s.rwy.out ++ [⟨s.windowRoute w, dst w, s.windowPlane w (dst w),
            rwMessage 2 size 0 (s.rd (RWY_Ww_TGT_APER w)) 0 off s.rwy.tag (some v), t⟩] } ∧
        u.rd RWY_STAT_POSTED = s.rwy.posted.length + 1 ∧ Touches counts [] [.now, .resp, .out, .rwy] s u) ∧
      (2 ≤ size.val → s.rwy.held.find? (fun x => x.hart == hart.val) = none → Does (.windowLr hart addr size t) s
        (issued (some hart.val) w 3 size 0 off 0 none (s.windowRoute w))) ∧
      (2 ≤ size.val → free →
        Does (.windowSc hart addr size data t) s (issued (some hart.val) w 4 size 0 off v (some v) (s.windowRoute w)) ∧
        Does (.windowAmo hart addr size fn data t) s
          (issued (some hart.val) w 6 size fn.toNat off v (some v) (s.windowRoute w)))) ∧
    (runs → able → idle → s.rd (RWY_Ww_STAT_RESOLVED w) = 0 → Does (.windowLoad hart addr size t) s fun u =>
        u.out = [.answer hart .loadFault] ∧ rdLog [.std] w off 7 u) ∧
    (runs → able → idle → free → room → s.rd (RWY_Ww_STAT_RESOLVED w) = 0 → Does (.windowStore hart addr size data t) s fun u =>
      u.resp = .done ∧ u.rwy.posted = s.rwy.posted ∧ u.rwy.out = s.rwy.out ∧ pwLog [] w off size (dst w) 7 u) ∧
    (runs → able → idle → free → room → s.rd (RWY_Ww_STAT_RESOLVED w) = 1 → 128 ≤ s.rwy.posted.length →
      Does (.windowStore hart addr size data t) s fun u =>
      u.resp = .done ∧ u.rwy.posted = s.rwy.posted ∧ u.rwy.out = s.rwy.out ∧ pwLog [] w off size (dst w) 8 u) ∧
    (resp → o.hart = some hart.val →
      (o.op = 1 ∨ o.op = 6 → rmStatus m = 0 → Does (.rwResp node m t) s (answered (.ok got) id)) ∧
      (o.op = 3 → rmStatus m = 0 → Does (.rwResp node m t) s (answered (.ok got) fun r => { r with
        held := (r.held.filter fun y => y.hart != hart.val) ++ [⟨hart, o.window, o.node, o.aper, o.plane, t⟩] })) ∧
      (o.op = 4 → rmStatus m = 0 ∨ rmStatus m = 9 → Does (.rwResp node m t) s (answered (.ok (b2n (rmStatus m == 9))) fun r =>
        { r with held := r.held.filter fun y => y.hart != hart })) ∧
      (o.op = 1 → o.off < 2 ^ 26 → rmStatus m ≠ 0 → rmStatus m < 16 → Does (.rwResp node m t) s fun u =>
        u.out = [.answer hart .loadFault] ∧ u.rwy = taken s.rwy ∧ rdLog [] o.window o.off (rmStatus m) u) ∧
      (o.op = 3 ∨ o.op = 6 → rmStatus m = 0xC → s.rwy.locks ≠ [] → Does (.rwResp node m t) s fun u =>
        u.rwy.ops = s.rwy.ops.map (fun x => if x = o then { x with retry := true } else x) ∧
        u.rd RWY_CNT_RETRY = sat 16 (s.rd RWY_CNT_RETRY + 1) ∧ u.out = [] ∧
        Touches [RWY_CNT_RETRY] [] [.now, .resp, .out, .rwy] s u)) ∧
    (resp → o.hart = none → (rmStatus m = 0 → Does (.rwResp node m t) s fun u =>
        u.rd (RWY_Ww_DOOR o.window) = leAt 16 4 m % 2 ^ 32 ∧ u.rd (RWY_Ww_DOORCYC o.window) = s.cycleNo % 2 ^ 32 ∧
        u.rd (RWY_Ww_STAT_DOORAGE o.window) = 0 ∧
        Raised (if s.rd (RWY_Ww_DOOR o.window) = leAt 16 4 m % 2 ^ 32 then [] else [162]) s u ∧
        Touches [RWY_Ww_DOOR o.window, RWY_Ww_DOORCYC o.window, RWY_Ww_STAT_DOORAGE o.window] [.pend]
          [.now, .resp, .out, .rwy] s u) ∧
      (rmStatus m ≠ 0 → o.op = 7 → Does (.rwResp node m t) s fun u => u.rd (RWY_Ww_STAT_DOORAGE o.window) =
        sat 8 (s.rd (RWY_Ww_STAT_DOORAGE o.window) + 1) ∧ u.rwy = taken s.rwy ∧
        Touches [RWY_Ww_STAT_DOORAGE o.window] [] [.now, .resp, .out, .rwy] s u)) ∧
    (wack → s.rwy.fences = [] →
      (rmStatus m = 0 → Does (.rwWack node m t) s fun u => u.rwy = { s.rwy with posted := s.rwy.posted.erase p } ∧
        Touches counts [] [.now, .resp, .out, .rwy] s u) ∧
      (rmStatus m ≠ 0 → rmStatus m < 16 → p.window < 16 → p.off < 2 ^ 26 → p.size < 4 → room → Does (.rwWack node m t) s fun u =>
        u.rwy.posted = s.rwy.posted.erase p ∧ (tblFind p.window s.rwy.fails = none →
          tblFind p.window u.rwy.fails = some (rmStatus m)) ∧ pwLog [] p.window p.off p.size (p.node % 256) (rmStatus m) u)) ∧
    (wack → rmStatus m = 0 → (s.begin t).hit (RWY_Ww_FENCE_STATUS wn) = 0 → s.rwy.fences = [⟨hart, wn, [p.tag]⟩] → Does (.rwWack node m t) s fun u =>
      u.out = [.answer hart (.ok ((tblFind wn.val s.rwy.fails).getD 0))] ∧ u.rwy.fences = [] ∧ u.rwy.fails = tblDel wn.val s.rwy.fails) ∧
    (s.rwy.ops = [o] → s.rwy.posted = [] → o.hart = some hart.val → o.op = 1 → o.window < 16 → o.off < 2 ^ 26 →
      o.at_ + 2000000 ≤ t → Does (.rootwayTimeout t) s fun u =>
      u.rwy.ops = [] ∧ u.out = [.answer hart .loadFault] ∧ rdLog [.cnp] o.window o.off 4 u) ∧
    (s.rwy.ops = [] → s.rwy.posted = [p] → s.rwy.fences = [] → p.window < 16 → p.off < 2 ^ 26 → p.size < 4 → room →
      p.at_ + 2000000 ≤ t → Does (.rootwayTimeout t) s fun u =>
      u.rwy.posted = [] ∧ pwLog [.cnp] p.window p.off p.size (p.node % 256) 4 u) ∧
    (runs → idle → ((s.begin t).hit (RWY_Ww_FENCE_STATUS wn) = 0 → (∀ q ∈ s.rwy.posted, q.window ≠ wn.val) →
        Does (.fenceRead hart wn t) s fun u => u = slowed (some hart.val)
          { s with now := t, resp := .none, out := [.answer hart (.ok ((tblFind wn.val s.rwy.fails).getD 0))],
                   hits := u.hits, rwy := { s.rwy with fails := tblDel wn.val s.rwy.fails } }) ∧
      (p ∈ s.rwy.posted → p.window = wn.val → Does (.fenceRead hart wn t) s fun u =>
        u = slowed (some hart.val) { s with now := t, resp := .none, out := [], hits := u.hits, rwy := { s.rwy with
          fences := s.rwy.fences ++ [⟨hart, wn, (s.rwy.posted.filter fun p => p.window == wn.val).map (·.tag)⟩] } })) ∧
    (unsent → s.rd (RWY_Ww_CFG_EN wn) = 1 → s.rd (RWY_Ww_CFG_DBPOLL wn) = 1 → s.rd (RWY_Ww_STAT_RESOLVED wn) = 1 →
      (∀ j : Fin 16, j ≠ wn → s.rd (RWY_Ww_CFG_EN j) = 0 ∨ s.rd (RWY_Ww_CFG_DBPOLL j) = 0) →
      Does (.doorbellPoll t) s (issued none wn 7 2 0 0 0 none none)) ∧
    (s.rwy.ops = [o] → o.hart = some hart.val → o.op = 1 → s.rwy.posted = [] → s.rwy.stall = [] →
      s.pw.phase = .running → Does (.rootwayReset t) s fun u => u.out = [.answer hart .loadFault] ∧ u.rd RWY_RDSTAT_STATUS = 0xB ∧
      u.rwy = { s.rwy with out := [], ops := [], fails := [], locks := [], held := [], hold := false, resetting := true } ∧
      Raised [160] s u ∧ Framed [.pend, .rwy] [.now, .resp, .out, .cnp, .rwy] s u ∧
      ∀ j : Fin 16, u.rd (RWY_Ww_CFG_EN j) = s.rd (RWY_Ww_CFG_EN j) ∧ u.rd (RWY_Ww_TGT_CAR j) = s.rd (RWY_Ww_TGT_CAR j)) ∧
    (s.rwy.resetting = true → s.rwy.out = [] → Does (.rootwayResetDone t) s fun u =>
      u.rwy = { s.rwy with resetting := false } ∧ Raised [165] s u ∧
      Touches ((List.range 16).map RWY_Ww_STAT_RESOLVED ++ (List.range 16).map RWY_Ww_STAT_NODE) [.pend]
        [.now, .resp, .out, .rwy] s u)

/-- R400, R401, R412 to R415: enabling an aperture that breaks the rules leaves it off with CFGERR; a request is
judged, and refused with its status or served: reads and polls answer with data, writes land, a LOCKRD locks the
aperture, others wait in the stall queue, as does a LOCKRD beside which one of a lower node arrives (R417), WRUNLK
needs the lock and ends it, UNLOCK and 100 µs end it, an AMO writes its result and answers the old value. Where the
spec leaves a point open, the model's reading stands (log entries 56, 57, 58, 59). -/
def Obligations.RootwayApertures : Prop :=
  ∀ (s : State) (a : Fin 4) (cfg : BitVec 32) (plane : Fin 2) (node : Fin 129) (m : List Byte) (l : RwLock) (old t : Nat),
    let b := rmAper m
    let n := 2 ^ rmSize m
    let addr := s.aperBase b + rmOff m
    let w := 8 * n
    let judged := (s.begin t).aperJudge node m
    let arrives (op : Nat) := rmOp m = op ∧ s.rwy.resetting = false ∧ s.pw.phase = .running ∧ s.rd PWR_STAT_STATE ≠ 2 ∧
      s.rwMaySend = false
    let route := if s.rd (RWY_Aa_CFG_RSPROUTE b) = 1 then some (s.rd (RWY_Aa_CFG_RSPBLZ b)) else none
    let answers (op status : Nat) (d : Option Nat) (u : State) : Prop :=
      u.rwy.out = s.rwy.out ++ [⟨route, node, plane, rwMessage op (rmSize m) 0 b status (rmOff m) (rmTag m) d, t⟩]
    let served (u : State) : Prop := u.rd (RWY_Aa_CNT_SERVED b) = sat 16 (s.rd (RWY_Aa_CNT_SERVED b) + 1) ∧ Quiet s u
    let ok := judged = 0
    let keeps (u : State) : Prop := Framed [.rwy] [.now, .resp, .out, .rwy] s u ∧ u.rwy.ops = s.rwy.ops ∧
      u.rwy.posted = s.rwy.posted
    let stores (u : State) : Prop := Framed [.rwy, .ecc, .cvu] [.now, .mem, .resp, .out, .ecc, .cvu, .rwy] s u ∧
      u.rwy.ops = s.rwy.ops ∧ u.rwy.posted = s.rwy.posted
    let clean := NoSoft s ∧ s.inRegion addr n = false ∧ RangeSound s (addr / 64 * 64) 128 ∧ inStaging addr n = false
    let data := leAt 16 8 m % 2 ^ w
    let f := rmFn m
    let noRetry := ∀ q ∈ s.rwy.ops, q.retry = false
    let calm := noRetry ∧ (s.lockOf b = none → ∀ r ∈ s.rwy.stall, rmAper r.msg ≠ b)
    let behind := (s.begin t).lowerComes b node
    let unlocked (u : State) : Prop := u.lockOf b = none ∧ u.rd (RWY_Aa_STAT_LOCKED b) = 0 ∧ u.rd (RWY_Aa_STAT_HOLDER b) = 0
    let sm := toSigned w old ≤ toSigned w data
    ((bitAt cfg.toNat 0 = true → aperOk (s.aperBase a) (bitsAt cfg.toNat 6 5) = false →
        s.pw.phase = .running → Does (.apertureEnable a cfg t) s fun u => u.rd (RWY_Aa_CFG_EN a) = 0 ∧ u.rd (RWY_Aa_CFG_CFGERR a) = 1) ∧
      (bitAt cfg.toNat 0 = true → aperOk (s.aperBase a) (bitsAt cfg.toNat 6 5) = true →
        s.pw.phase = .running → Does (.apertureEnable a cfg t) s fun u => u.rd (RWY_Aa_CFG_EN a) = 1 ∧ u.rd (RWY_Aa_CFG_CFGERR a) = 0 ∧
        (∀ f : Fld, f ∈ [RWY_Aa_CFG_RD a, RWY_Aa_CFG_WR a, RWY_Aa_CFG_LK a, RWY_Aa_CFG_SCOPE a, RWY_Aa_CFG_SIZE a,
          RWY_Aa_CFG_RSPROUTE a, RWY_Aa_CFG_RSPBLZ a] → u.rd f = bitsAt cfg.toNat f.lo f.w) ∧
        Touches [RWY_Aa_CFG_EN a, RWY_Aa_CFG_RD a, RWY_Aa_CFG_WR a, RWY_Aa_CFG_LK a, RWY_Aa_CFG_SCOPE a, RWY_Aa_CFG_SIZE a,
          RWY_Aa_CFG_RSPROUTE a, RWY_Aa_CFG_RSPBLZ a, RWY_Aa_CFG_CFGERR a] [] [.now, .resp, .out] s u)) ∧
    (s.rwMaySend = false → judged ≠ 0 →
      let refused (u : State) : Prop := answers (if rmOp m = 2 then 9 else 8) (judged) none u ∧
        u.rd (RWY_Aa_CNT_REFUSED b) = sat 16 (s.rd (RWY_Aa_CNT_REFUSED b) + 1) ∧
        (judged = 3 → u.rd RWY_STAT_REFEV = 1 ∧ Raised [164] s u) ∧ (judged ≠ 3 → Quiet s u) ∧
        Framed [.rwy, .pend] [.now, .resp, .out, .rwy] s u
      calm →
      (arrives 1 → Does (.rwRead plane node m t) s refused) ∧ (arrives 2 → Does (.rwWrite plane node m t) s refused) ∧
      (arrives 3 → Does (.rwLockrd plane node m t) s refused) ∧ (arrives 4 → Does (.rwWrunlk plane node m t) s refused) ∧
      (arrives 6 → Does (.rwAmo plane node m t) s refused) ∧ (arrives 7 → Does (.rwPoll plane node m t) s refused)) ∧
    (ok → calm →
      (arrives 7 → Does (.rwPoll plane node m t) s fun u =>
        answers 8 0 (some (s.rd (RWY_Aa_DOOR b))) u ∧ served u ∧ keeps u ∧ u.rwy.locks = s.rwy.locks) ∧
      (arrives 2 → clean → Does (.rwWrite plane node m t) s fun u =>
        Stored addr (leBytes n data) s u ∧ answers 9 0 none u ∧ served u ∧ stores u ∧ u.rwy.locks = s.rwy.locks) ∧
      (s.lockOf b = none ∨ s.lockOf b = some ⟨node, l.at_⟩ → RangeSound s addr n →
        (arrives 1 → Does (.rwRead plane node m t) s fun u =>
          answers 8 0 (some (leNat (s.bytes addr n))) u ∧ served u ∧ keeps u ∧ u.rwy.locks = s.rwy.locks) ∧
        (s.rwy.hold = false ∨ node.val ≤ s.nodeId →
          (arrives 3 → s.lockOf b ≠ none ∨ behind = false → Does (.rwLockrd plane node m t) s fun u =>
            answers 8 0 (some (leNat (s.bytes addr n))) u ∧ served u ∧ keeps u ∧ u.lockOf b = some ⟨node, t⟩ ∧
            u.rd (RWY_Aa_STAT_LOCKED b) = 1 ∧ u.rd (RWY_Aa_STAT_HOLDER b) = node) ∧
          (arrives 6 → leNat (s.bytes addr n) = old → clean → f ∈ [0x00, 0x01, 0x04, 0x08, 0x0C, 0x10, 0x14, 0x18, 0x1C] →
            Does (.rwAmo plane node m t) s fun u =>
            Stored addr (leBytes n
              (if f = 0x00 then (old + data) % 2 ^ w else if f = 0x01 then data else if f = 0x04 then old ^^^ data
               else if f = 0x08 then old ||| data else if f = 0x0C then old &&& data
               else if f = 0x10 then (if sm then old else data) else if f = 0x14 then (if sm then data else old)
               else if f = 0x18 then min old data else max old data)) s u ∧
            answers 8 0 (some old) u ∧ served u ∧ stores u ∧ u.rwy.locks = s.rwy.locks))) ∧
      (s.lockOf b = some l → l.node ≠ node.val → arrives 1 → s.rwy.stall.length < 16 → Does (.rwRead plane node m t) s fun u =>
        u.rwy.stall = s.rwy.stall ++ [⟨node, plane, m⟩] ∧ u.rwy.out = s.rwy.out ∧ Quiet s u ∧ keeps u ∧
        u.rd RWY_STAT_STALL = s.rwy.stall.length + 1) ∧
      (s.lockOf b = none → behind = true → arrives 3 → s.rwy.stall = [] → Does (.rwLockrd plane node m t) s fun u =>
        u.rwy.stall = [⟨node, plane, m⟩] ∧ u.rwy.out = s.rwy.out ∧ Quiet s u ∧ keeps u ∧ u.lockOf b = none) ∧
      (s.lockOf b = some l → l.node ≠ node.val → arrives 3 → 16 ≤ s.rwy.stall.length → Does (.rwLockrd plane node m t) s fun u =>
        answers 8 6 none u ∧ u.rd RWY_STAT_REFEV = 1 ∧ Raised [164] s u ∧ u.rwy.stall = s.rwy.stall) ∧
      (s.lockOf b = none → s.rwy.hold = true → s.nodeId < node.val → arrives 6 → Does (.rwAmo plane node m t) s fun u =>
        answers 8 0xC none u ∧ keeps u ∧ u.rwy.locks = s.rwy.locks ∧ Quiet s u) ∧
      (arrives 4 → s.lockOf b = some ⟨node, l.at_⟩ → s.rwy.stall = [] → clean → Does (.rwWrunlk plane node m t) s fun u =>
        Stored addr (leBytes n data) s u ∧ answers 8 0 (some 0) u ∧ served u ∧ stores u ∧ unlocked u) ∧
      (arrives 4 → (s.lockOf b = none ∨ s.lockOf b = some l) → l.node ≠ node.val → Does (.rwWrunlk plane node m t) s fun u =>
        answers 8 9 none u ∧ served u ∧ keeps u ∧ u.rwy.locks = s.rwy.locks)) ∧
    (noRetry → arrives 5 → s.lockOf b = some ⟨node, l.at_⟩ → s.rwy.stall = [] → Does (.rwUnlock plane node m t) s fun u =>
      unlocked u ∧ u.rwy.out = s.rwy.out ∧ Quiet s u ∧ keeps u) ∧
    (noRetry → s.lockOf a = some l → l.at_ + 100000 ≤ t → s.rwy.stall = [] → Does (.lockExpiry a t) s fun u =>
      u.lockOf a = none ∧ u.rd (RWY_Aa_STAT_LOCKED a) = 0 ∧ u.rd RWY_CNT_LKEXP = sat 16 (s.rd RWY_CNT_LKEXP + 1) ∧
      u.rd RWY_STAT_LKTMOEV = 1 ∧ Raised [163] s u ∧ Framed [.rwy, .pend] [.now, .resp, .out, .rwy] s u)

/-! ### Understory -/

/-- R419 to R426: a received frame goes to the first tunnel of its port that matches, or into the receive ring, whose
first record raises 176 + p; a frame with a bad FCS is counted; the transmit ring sends its records and its drain
raises 182 + p; frames of the peer wait in order of SEQ for the port; drops are counted and raise 194; ports are
enabled, disabled, reset, recover from bus-off and report their state with source 188 + p. Where the spec leaves a
point open, the model's reading stands (log entries 64, 65, 108, 117). -/
def Obligations.UnderstoryPorts : Prop :=
  ∀ (s : State) (p : Fin 6) (c : Fin 2) (k : Fin 32) (msg : Bool) (body frame : List Byte) (pt n : Nat) (x : UPort)
    (up passive busoff lineb fdx : Bool) (tec rec errors : BitVec 8) (tail : BitVec 24) (cfg : BitVec 32) (t : Nat),
    let v := s.begin t
    let w := v.wr (UST_Pp_TXTAIL_OFF p) (tail.toNat / 8)
    let base := 8 * s.rd (UST_Pp_RXBASE_OFF p)
    let size := 8 * s.rd (UST_Pp_RXSIZE_SIZE p)
    let head := 8 * s.rd (UST_Pp_RXHEAD_OFF p)
    let tl := 8 * s.rd (UST_Pp_RXTAIL_OFF p)
    let used := (head + size - tl) % size
    let ptype := s.ptype p msg
    let r := tunnelHeader 0xFF ptype 0 body.length (s.uport p).seq t ++ body
    let r := padTo ((r.length + 7) / 8 * 8) r
    let taken (j : Nat) : Bool := decide (s.rd (UST_TUNt_CFG_EN j) = 1) && decide (s.rd (UST_TUNt_CFG_PORT j) = p) &&
      (tunnelKey ptype body ^^^ s.rd (UST_TUNt_FILT j)) &&& s.rd (UST_TUNt_MASK j) == 0
    let arrives := s.portRuns p = true ∧ s.portTakes p msg body = true
    let marked (src : Nat) (u : State) : Prop := ∀ i, i < 4 → s.rd (STD_EVTi_ROUTE_PRIO src) ≠ 0 →
      s.bit (STD_EVTi_ROUTE_STANDS src) i = true → u.pends src i = true
    let nothing (s : State) (p : Nat) : Prop := s.txUsed p = 0 ∧ s.tunnelsFor p = []
    let event (src : Nat) (u : State) : Prop := u.bit UST_STAT_EV p = true ∧ Raised [src] s u
    let tun := s.tunnel k
    let lp := s.rd (UST_TUNt_CFG_PORT k)
    let pay := frPayload frame
    let seq := leAt 6 2 pay
    let fr : TunFrame := ⟨leAt 1 1 pay, seq, leAt 8 8 pay, pay.drop 16⟩
    let comes := frKind frame = frTunnel ∧ leAt 0 1 pay = k ∧ s.ustPowered = true ∧ s.rd (UST_TUNt_CFG_EN k) = 1 ∧
      s.rd (UST_TUNt_STAT_RESOLVED k) = 1 ∧ s.rd (UST_TUNt_STAT_NODE k) = frSender frame ∧ bitsAt (leAt 2 1 pay) 0 4 = 0
    let drops (f : Fld) (x : Tunnel) (u : State) : Prop := u.rd f = sat 8 (s.rd f + 1) ∧ Raised [194] s u ∧
      Touches [f, UST_TUNt_STAT_QUEUED k] [.pend] [.now, .resp, .out, .ust] s u ∧ u.tunnel k = x
    let only (fs : List Fld) (P : List Part) (u : State) : Prop := Touches fs [] P s u
    (s.portRuns p = true → Does (.portFrameReceive p msg body false t) s fun u =>
      u.rd (UST_Pp_ERR_FCS p) = sat 8 (s.rd (UST_Pp_ERR_FCS p) + 1) ∧ only [UST_Pp_ERR_FCS p] [.now, .resp, .out] u) ∧
    (arrives → (∀ j : Fin 32, taken j = false) →
      (4096 ≤ size → tl < size → head + r.length ≤ size → used + r.length < size → base + size ≤ stagingOff →
        RangeSound s (sramBase + base + head) r.length → Does (.portFrameReceive p msg body true t) s fun u =>
        Stored (sramBase + base + head) r s u ∧ u.rd (UST_Pp_RXHEAD_OFF p) = (head + r.length) % size / 8 ∧
        u.uport p = { s.uport p with seq := ((s.uport p).seq + 1) % 65536 } ∧ u.rd (UST_Pp_ERR_RXDROP p) = s.rd (UST_Pp_ERR_RXDROP p) ∧
        (used = 0 → u.bit UST_STAT_EV p = true ∧ marked (176 + p) u) ∧
        Framed [.pend, .ecc, .cnp, .ust, .cvu, .ingress] [.now, .mem, .resp, .out, .pw, .rcd, .ecc, .cnp, .fab, .cvu, .ust] s u) ∧
      (size < 4096 ∨ size ≤ used + r.length → tl < size ∨ size < 4096 → Does (.portFrameReceive p msg body true t) s fun u =>
        u.rd (UST_Pp_ERR_RXDROP p) = sat 8 (s.rd (UST_Pp_ERR_RXDROP p) + 1) ∧ Quiet s u ∧
        only [UST_Pp_ERR_RXDROP p] [.now, .resp, .out] u)) ∧
    (s.portRuns 2 = true → body.length = 4 → s.rd (UST_Pp_MVBPk_EN k) = 1 → s.rd (UST_Pp_MVBPk_SRC k) = 1 →
      s.rd (UST_Pp_MVBPk_ADDR k) = leAt 0 2 body % 4096 → s.rd (UST_Pp_MVBPk_SIZE k) = leAt 2 1 body % 16 →
      leAt 2 1 body % 16 ≤ 4 → tblFind (leAt 0 2 body % 4096) (s.uport 2).values = some frame →
      Does (.portFrameReceive 2 false body true t) s fun u =>
      u.out = [.under 2 (body ++ padTo (2 ^ (1 + leAt 2 1 body % 16)) frame)] ∧ only [] [.now, .resp, .out] u) ∧
    (arrives → taken k = true → (∀ j, j < k.val → taken j = false) → s.rd (UST_TUNt_CFG_COPY k) = 0 →
      (s.joinState = joinActive → s.inaBusy = true → s.rd (UST_TUNt_STAT_RESOLVED k) = 1 → tun.away.length < 32 →
        tun.home.length ≤ 32 → Does (.portFrameReceive p msg body true t) s fun u =>
        u.tunnel k = { tun with away := tun.away ++ [⟨ptype, tun.seq, t, body⟩], seq := (tun.seq + 1) % 65536 } ∧
        u.rd (UST_TUNt_STAT_QUEUED k) = tun.away.length + 1 + tun.home.length ∧ Quiet s u ∧
        only [UST_TUNt_STAT_QUEUED k] [.now, .resp, .out, .ust] u) ∧
      (s.joinState ≠ joinActive ∨ s.rd (UST_TUNt_STAT_RESOLVED k) = 0 ∨ 32 ≤ tun.away.length →
        Does (.portFrameReceive p msg body true t) s fun u =>
        u.rd (UST_TUNt_CNT_QDROP k) = sat 8 (s.rd (UST_TUNt_CNT_QDROP k) + 1) ∧ Raised [194] s u ∧
        Touches [UST_TUNt_CNT_QDROP k] [.pend] [.now, .resp, .out] s u)) ∧
    (w.portSendsNow p = true → w.txRecord p = some (pt, body, n) → 0 < w.txUsed p → w.tunnelsFor p = [] →
      (p.val < 2 → w.canValid p body = true) →
      (p.val ≠ 2 ∨ pt ≠ 2 → Does (.txRingWrite p tail t) s fun u =>
        u.out = [.under p body] ∧ u.uport p = { s.uport p with sending := .ring } ∧
        u.rd (UST_Pp_TXTAIL_OFF p) = tail.toNat / 8 ∧ only [UST_Pp_TXTAIL_OFF p] [.now, .resp, .out, .ust] u) ∧
      (p.val = 2 → pt = 2 → n = w.txUsed p → w.rd (UST_Pp_TXTAIL_OFF p) < w.rd (UST_Pp_TXSIZE_SIZE p) →
        w.rd (UST_Pp_TXHEAD_OFF p) < w.rd (UST_Pp_TXSIZE_SIZE p) → Does (.txRingWrite p tail t) s fun u =>
        tblFind (leAt 0 2 body % 4096) (u.uport p).values = some (body.drop 4) ∧ u.out = [] ∧
        u.rd (UST_Pp_TXHEAD_OFF p) = tail.toNat / 8 ∧ event (182 + p) u ∧
        Touches [UST_Pp_TXTAIL_OFF p, UST_Pp_TXHEAD_OFF p, UST_STAT_EV] [.pend] [.now, .resp, .out, .ust] s u)) ∧
    (s.portSendsNow p = false → Does (.txRingWrite p tail t) s fun u =>
      u.rd (UST_Pp_TXTAIL_OFF p) = tail.toNat / 8 ∧ only [UST_Pp_TXTAIL_OFF p] [.now, .resp, .out] u) ∧
    (s.uport p = x →
      (x.sending = .ring → s.txRecord p = some (pt, body, n) → n = s.txUsed p → s.tunnelsFor p = [] →
        s.rd (UST_Pp_TXTAIL_OFF p) < s.rd (UST_Pp_TXSIZE_SIZE p) → s.rd (UST_Pp_TXHEAD_OFF p) < s.rd (UST_Pp_TXSIZE_SIZE p) →
        Does (.portFrameTransmitted p t) s fun u =>
        u.uport p = { x with sending := .idle } ∧ u.rd (UST_Pp_TXHEAD_OFF p) = s.rd (UST_Pp_TXTAIL_OFF p) ∧ u.out = [] ∧
        event (182 + p) u ∧ Touches [UST_Pp_TXHEAD_OFF p, UST_STAT_EV] [.pend] [.now, .resp, .out, .ust] s u) ∧
      (x.sending = .other → nothing s p → Does (.portFrameTransmitted p t) s fun u =>
        u.uport p = { x with sending := .idle } ∧ only [] [.now, .resp, .out, .ust] u)) ∧
    (comes → tun.part = none →
      (leAt 4 2 pay = (pay.drop 16).length → tun.home.length < 32 → tun.away.length ≤ 32 → s.portSendsNow lp = false →
        Does (.tunnelFrame frame t) s fun u => u.tunnel k = { tun with home := insertSeq fr tun.home } ∧
        u.rd (UST_TUNt_STAT_QUEUED k) = tun.away.length + tun.home.length + 1 ∧
        only [UST_TUNt_STAT_QUEUED k] [.now, .resp, .out, .ust] u) ∧
      (leAt 4 2 pay = (pay.drop 16).length → tun.home = [] → s.portSendsNow lp = true → nothing s lp →
        (s.rd (UST_TUNt_CFG_MAXAGE k) = 0 ∨ t ≤ fr.stamp + s.rd (UST_TUNt_CFG_MAXAGE k) * 1000000) → tun.last = none →
        Does (.tunnelFrame frame t) s fun u => u.out = [.under lp (pay.drop 16)] ∧
        u.tunnel k = { tun with last := some seq } ∧ (u.uport lp).sending = .other ∧
        only [UST_TUNt_STAT_QUEUED k] [.now, .resp, .out, .ust] u) ∧
      (leAt 4 2 pay = (pay.drop 16).length → 32 ≤ tun.home.length → Does (.tunnelFrame frame t) s (drops (UST_TUNt_CNT_QDROP k) tun)) ∧
      (leAt 4 2 pay ≠ (pay.drop 16).length → tun.lacking ≠ some seq → Does (.tunnelFrame frame t) s
        (drops (UST_TUNt_CNT_FRAGDROP k) { tun with lacking := some seq })) ∧
      (leAt 4 2 pay ≠ (pay.drop 16).length → tun.lacking = some seq → Does (.tunnelFrame frame t) s fun u =>
        u.tunnel k = tun ∧ Quiet s u ∧ only [] [.now, .resp, .out, .ust] u)) ∧
    (s.rd (UST_Pp_CFG_EN p) = 1 → s.pw.phase = .running → Does (.portEnable p cfg t) s (only [] [.now, .resp, .out])) ∧
    (s.rd (UST_Pp_CFG_EN p) = 0 → nothing s p → s.pw.phase = .running →
      Does (.portEnable p cfg t) s fun u => u.rd (UST_Pp_CFG_EN p) = 1 ∧
      (p.val < 2 → u.rd (UST_Pp_CFG_LISTEN p) = bitsAt cfg.toNat 1 1 ∧ u.rd (UST_Pp_CFG_FDEN p) = bitsAt cfg.toNat 2 1 ∧
        u.rd (UST_Pp_CFG_BOAUTO p) = bitsAt cfg.toNat 3 1 ∧ u.rd (UST_Pp_STAT_UP p) = 1) ∧
      (p.val = 3 ∨ p.val = 4 → u.rd (UST_Pp_CFG_HDLC p) = bitsAt cfg.toNat 4 1 ∧
        u.rd (UST_Pp_CFG_ADDR8 p) = bitsAt cfg.toNat 10 8 ∧ u.rd (UST_Pp_STAT_UP p) = 1) ∧
      only [UST_Pp_CFG_EN p, UST_Pp_CFG_LISTEN p, UST_Pp_CFG_FDEN p, UST_Pp_CFG_BOAUTO p, UST_Pp_CFG_HDLC p,
        UST_Pp_CFG_PARITY p, UST_Pp_CFG_STOP2 p, UST_Pp_CFG_BITS7 p, UST_Pp_CFG_FCS32 p, UST_Pp_CFG_ADDR8 p,
        UST_Pp_CFG_DEVADDR p, UST_Pp_STAT_UP p, UST_Pp_STAT_PASSIVE p, UST_Pp_STAT_BUSOFF p, UST_Pp_STAT_TEC p,
        UST_Pp_STAT_REC p] [.now, .resp, .out] u) ∧
    Does (.portDisable p t) s (fun u => u.rd (UST_Pp_CFG_EN p) = 0 ∧
      only [UST_Pp_CFG_EN p, UST_Pp_STAT_UP p] [.now, .resp, .out] u) ∧
    (s.pw.phase = .running → Does (.portReset p t) s (fun u => (u.uport p).resetting = true ∧ (u.uport p).seq = 0 ∧
      (∀ f : Fld, f ∈ [UST_Pp_RXHEAD_OFF p, UST_Pp_RXTAIL_OFF p, UST_Pp_TXHEAD_OFF p, UST_Pp_TXTAIL_OFF p, UST_Pp_STAT_UP p,
        UST_Pp_ERR_FCS p] → u.rd f = 0) ∧
      (∀ f : Fld, f ∈ [UST_Pp_CFG_EN p, UST_Pp_RXBASE_OFF p, UST_Pp_RXSIZE_SIZE p, UST_Pp_TXBASE_OFF p, UST_Pp_TXSIZE_SIZE p] →
        u.rd f = s.rd f) ∧
      (lp = p.val → (u.tunnel k).away = [] ∧ (u.tunnel k).home = [] ∧ u.rd (UST_TUNt_STAT_QUEUED k) = 0) ∧
      (lp ≠ p.val → u.tunnel k = tun) ∧ Framed [.ust] [.now, .resp, .out, .ust] s u)) ∧
    ((s.uport p).resetting = true → nothing s p → Does (.portResetDone p t) s fun u =>
      u.uport p = { s.uport p with resetting := false } ∧ (s.rd (UST_Pp_CFG_EN p) = 1 → p.val ≠ 2 → p.val ≠ 5 →
        u.rd (UST_Pp_STAT_UP p) = 1) ∧
      only [UST_Pp_STAT_UP p, UST_Pp_STAT_PASSIVE p, UST_Pp_STAT_BUSOFF p, UST_Pp_STAT_TEC p, UST_Pp_STAT_REC p]
        [.now, .resp, .out, .ust] u) ∧
    (p.val = c.val → s.portRuns p = true → s.rd (UST_Pp_STAT_BUSOFF p) = 1 → s.rd (UST_Pp_CFG_BOAUTO p) = 1 → nothing s p →
      Does (.busoffRecovery c t) s fun u => u.rd (UST_Pp_STAT_UP p) = 1 ∧ u.rd (UST_Pp_STAT_BUSOFF p) = 0 ∧
      u.rd (UST_Pp_STAT_TEC p) = 0 ∧ u.rd (UST_Pp_STAT_REC p) = 0 ∧ event (188 + p) u ∧
      Touches [UST_Pp_STAT_UP p, UST_Pp_STAT_PASSIVE p, UST_Pp_STAT_BUSOFF p, UST_Pp_STAT_TEC p, UST_Pp_STAT_REC p,
        UST_STAT_EV] [.pend] [.now, .resp, .out] s u) ∧
    (s.portRuns p = true → nothing s p → Does (.portStateChange p up passive busoff lineb fdx tec rec errors t) s fun u =>
      (p.val < 2 → u.rd (UST_Pp_STAT_UP p) = b2n (!busoff) ∧ u.rd (UST_Pp_STAT_PASSIVE p) = b2n passive ∧
        u.rd (UST_Pp_STAT_BUSOFF p) = b2n busoff ∧ u.rd (UST_Pp_STAT_TEC p) = tec.toNat ∧ u.rd (UST_Pp_STAT_REC p) = rec.toNat) ∧
      (p.val = 2 → u.rd (UST_Pp_STAT_UP p) = b2n up ∧ u.rd (UST_Pp_STAT_LINEB p) = b2n lineb) ∧
      (p.val = 5 → u.rd (UST_Pp_STAT_UP p) = b2n up ∧ u.rd (UST_Pp_STAT_FDX p) = b2n fdx) ∧
      u.rd (UST_Pp_ERR_LINE p) = sat 8 (s.rd (UST_Pp_ERR_LINE p) + errors.toNat) ∧ (errors.toNat ≠ 0 → event (188 + p) u) ∧
      Touches [UST_Pp_STAT_UP p, UST_Pp_STAT_PASSIVE p, UST_Pp_STAT_BUSOFF p, UST_Pp_STAT_LINEB p, UST_Pp_STAT_FDX p,
        UST_Pp_STAT_TEC p, UST_Pp_STAT_REC p, UST_Pp_ERR_LINE p, UST_STAT_EV] [.pend] [.now, .resp, .out] s u)

/-! ### Memory code, self-test and repair -/

/-- R435 to R438, R441, R444, R448, R449, R450: a sound row is read as it is; a correctable row is delivered corrected,
written back, counted and entered in the correction table; an uncorrectable row stops its reader and is reported; a
write of a whole row replaces it, any other write needs a readable row; a stand cannot fetch from logic-engine memories
or read the retain shadows; the scrubbers read rows of their range and close laps. Where the spec leaves a point open,
the model's reading stands (log entries 27, 28, 29, 31, 33, 37, 38, 112, 113, 114, 120, 122, 109). -/
def Obligations.MemoryRows : Prop :=
  ∀ (s : State) (m : MemMaster) (k : Fin 4) (memid : Fin 8) (row a : Nat) (off : Fin 32) (n : Fin 33) (upset : BitVec 352)
    (verify dirty last werr poison : Bool) (es : List (Nat × Nat)) (i : Fin 32) (c : Fin 6) (l : Lap) (addr : BitVec 36)
    (bs : List Byte) (t : Nat),
    let e := s.rowErr memid row ^^^ upset.toNat
    let found := rsDecode (patSyms e)
    let there (x : MemMaster) := s.masterUp x = true ∧ s.memUp memid row = true ∧ row < rowCount memid ∧ rowAddr memid row = some a ∧
      memid.val ≠ 7 ∧ standBarred x memid = false
    let plain := s.isTestRow memid row = false
    let correctable := found = some es ∧ es ≠ [] ∧ (∀ x ∈ es, x.1 < 40) ∧ e = patOf es
    let newEntry := s.ctEntry memid row = none ∧ s.ctState i = 0 ∧ ∀ j : Fin 32, j < i → s.ctState j ≠ 0
    let kept := verify && s.pw.phase != .flush
    let entered (u : State) : Prop := SameMemory s u ∧ u.rowErr memid row = (if kept then 0 else patOf es) ∧
      u.rd ECC_CE_CNT = sat 32 (s.rd ECC_CE_CNT + 1) ∧ u.rd ECC_STAT_CEEV = 1 ∧ u.rd (ECC_CTi_LOC_ROW i) = row ∧
      u.rd (ECC_CTi_LOC_MEMID i) = memid ∧ u.ctState i = (if kept then 1 else 2) ∧ u.rd (ECC_CTi_INFO_COUNT i) = 1 ∧
      u.rd (ECC_CTi_INFO_LAPCNT i) = 1 ∧ u.rd (ECC_CTi_INFO_POS i) = (es.head?.getD (0, 0)).1 % 64 ∧
      u.rd (ECC_CTi_INFO_NSYM i) = es.length % 8 ∧ u.ctTime i = t % 2 ^ 64 ∧ Notes [32] [(3, 5, 32, 0xFFFF)] s u
    let again := s.marched memid = false ∧ s.ctEntry memid row = some i.val ∧ s.ctState i = 1 ∧ s.rd (ECC_CTi_INFO_LAPCNT i) = 3
    let failed (kind : Nat) (master cause : Nat) (u : State) : Prop := SameMemory s u ∧
      u.rd ECC_UE_CNT_UE = sat 16 (s.rd ECC_UE_CNT_UE + 1) ∧ u.rd ECC_STAT_UEEV = 1 ∧ u.rd ECC_UE_LOC_ROW = row ∧
      u.rd ECC_UE_LOC_MEMID = memid ∧ u.rd ECC_UE_INFO_MASTER = master ∧ u.rd ECC_UE_INFO_CAUSE = cause ∧
      Notes (if kind = 34 then [33, 34] else [33]) [(1, 5, kind, 0xFFFF)] s u
    let wrow := (addr.toNat % 2 ^ 24) / 32
    let inSram := 0x1000000 ≤ addr.toNat ∧ addr.toNat < 0x2000000 ∧ s.mayWrite m addr.toNat bs.length = true
    let wbad := eccResult (rsDecode (patSyms (s.rowErr 2 wrow ^^^ upset.toNat)))
    let logged (type what at_ info : Nat) := (repairBytes ⟨type, what, at_, info⟩, repairBytes ⟨type, what, at_, info⟩)
    let poisoned := s.errRows fun b x => b == 3 && s.rowErr b x == poisonPat
    let mate := lineMate m 2 wrow
    let P : List Part := [.now, .mem, .leMem, .resp, .out, .pw, .rcd, .cop, .ecc]
    (there m → plain → e = 0 → Does (.memoryRead m memid row off n upset verify dirty werr t) s fun u =>
      u.resp = .bytes (slice off n (s.rowData memid row)) ∧ SameMemory s u ∧ u.rowErr memid row = 0 ∧ u.out = [] ∧
      Touches [] [] [.now, .resp, .out, .ecc] s u) ∧
    (there m → plain → correctable →
      (newEntry → Does (.memoryRead m memid row off n upset verify dirty werr t) s fun u =>
        u.resp = .bytes (slice off n (s.rowData memid row)) ∧ entered u ∧ Framed [.pend, .ecc, .ingress] P s u) ∧
      (again → memid.val = 2 → tblGet 0 (spareBank 2 row) s.cop.rowsUsed < 8 → s.cop.log.length < 4096 → werr = false →
        Does (.memoryRead m memid row off n upset verify dirty werr t) s fun u =>
        u.ctState i = 3 ∧ u.rowErr memid row = 0 ∧ SameMemory s u ∧ u.rd CPC_STAT_ROWEV = 1 ∧
        tblGet 0 (spareBank 2 row) u.cop.rowsUsed = tblGet 0 (spareBank 2 row) s.cop.rowsUsed + 1 ∧
        u.cop.log = s.cop.log ++ [logged 3 (rowKey 2 row) t (tblGet 0 (spareBank 2 row) s.cop.rowsUsed)] ∧
        Framed [.pend, .ecc, .cpc, .ingress] P s u)) ∧
    (plain → found = none →
      (there (.stand k) → Does (.memoryRead (.stand k) memid row off n upset verify dirty werr t) s (fun u => u.resp = .loadFault ∧
        failed 33 k 0 u ∧ u.rd ECC_UE_INFO_RESULT = 4 ∧ Framed [.pend, .ecc, .ingress] P s u)) ∧
      (there (.standFetch k) → Does (.memoryRead (.standFetch k) memid row off n upset verify dirty werr t) s (fun u => u.resp = .fetchFault ∧
        failed 33 k 1 u)) ∧
      (there .recorder → Does (.memoryRead .recorder memid row off n upset verify dirty werr t) s (fun u => u.resp = .stopped ∧
        failed 33 0x20 3 u)) ∧
      (there .rootway → Does (.memoryRead .rootway memid row off n upset verify dirty werr t) s (fun u => u.resp = .stopped ∧
        failed 33 0x22 3 u))) ∧
    (s.masterUp (.stand k) = true → memid.val = 6 → Does (.memoryRead (.stand k) memid row off n upset verify dirty werr t) s
      fun u => u.resp = .loadFault ∧ Touches [] [] [.now, .resp, .out] s u) ∧
    (s.masterUp (.standFetch k) = true → 4 ≤ memid.val →
      Does (.memoryRead (.standFetch k) memid row off n upset verify dirty werr t) s fun u =>
      u.resp = .fetchFault ∧ Touches [] [] [.now, .resp, .out] s u) ∧
    (there .debug → plain → eccResult found = .addrFault → Does (.memoryRead .debug memid row off n upset verify dirty werr t) s fun u =>
      u.resp = .stopped ∧ failed 34 0x27 3 u ∧ u.rd ECC_UE_INFO_RESULT = 2 ∧
      u.rd ECC_UE_CNT_AF = sat 16 (s.rd ECC_UE_CNT_AF + 1) ∧ u.rd ECC_STAT_AFEV = 1) ∧
    (s.masterUp m = true → inSram → bs.length = 32 → addr.toNat % 32 = 0 → s.ctEntry 2 wrow = none →
      Does (.memoryWrite m addr bs poison upset verify werr t) s fun u =>
      Stored addr.toNat bs s u ∧ u.resp = .done ∧ Quiet s u ∧
      u.rowErr 2 wrow = (if poison = true ∧ m = .eviction ∧ poisoned ≠ [] then poisonPat else 0) ∧
      Framed [.cvu] [.now, .mem, .resp, .out, .ecc, .cvu] s u) ∧
    (s.masterUp m = true → inSram → bs ≠ [] → addr.toNat % 32 + bs.length < 32 → s.isTestRow 2 wrow = false →
      (s.rowErr 2 wrow = upset.toNat → s.ctEntry 2 wrow = none → (∀ x ∈ mate, s.rowErr x.1 x.2 = 0) → Does (.memoryWrite m addr bs poison upset verify werr t) s fun u =>
        Stored addr.toNat bs s u ∧ u.resp = .done ∧ u.rowErr 2 wrow = 0 ∧ Quiet s u) ∧
      (wbad = .uncorr → m = .stand k → Does (.memoryWrite m addr bs poison upset verify werr t) s fun u =>
        u.resp = .storeFault ∧ SameMemory s u ∧ u.rd ECC_UE_INFO_CAUSE = 2 ∧ Notes [33] [(1, 5, 33, 0xFFFF)] s u)) ∧
    (s.pw.phase = .running → s.scrubTurn c (s.lapPos c) row = true → c ≠ 0 ∨ s.ecc.selfRefresh = none →
      s.lap c = some l → s.isTestRow (c + 1) row = false →
      let end_ := if c.val = 2 then last = true else s.scrubNext c (row + 1) = none
      let long := s.rd (ECC_SCRm_LAPLIM_MS c) ≠ 0 ∧ l.alarmed = false ∧
        s.rd (ECC_SCRm_LAPLIM_MS c) * 1000000 < t - l.from_ - l.paused
      s.rowErr (c + 1) row = upset.toNat →
      (¬ end_ → Does (.scrubRead c row upset verify dirty last werr t) s fun u =>
        SameMemory s u ∧ u.rowErr (c + 1) row = 0 ∧ Touches [] [] [.now, .resp, .out, .ecc] s u) ∧
      (end_ → (∀ j, j < 32 → s.ctState j = 0) → Does (.scrubRead c row upset verify dirty last werr t) s fun u =>
        u.lap c = some ⟨t, 0, false, 0⟩ ∧ u.rd (ECC_SCRm_STAT_LAPS c) = (s.rd (ECC_SCRm_STAT_LAPS c) + 1) % 2 ^ 16 ∧
        u.rd (ECC_SCRm_LAPLAST_MS c) = sat 24 ((t - l.from_ - l.paused) / 1000000) ∧
        u.rd (ECC_SCRm_LAPMAX_MS c) = max (s.rd (ECC_SCRm_LAPMAX_MS c)) (sat 24 ((t - l.from_ - l.paused) / 1000000)) ∧
        SameMemory s u ∧ (¬ long → Quiet s u ∧ Framed [.ecc] [.now, .resp, .out, .ecc] s u) ∧
        (long → u.rd (ECC_SCRm_STAT_LIMEV c) = 1 ∧ Notes [36] [(2, 5, 36, 0xFFFF)] s u))) ∧
    (s.pw.phase ≠ .running ∨ s.scrubTurn c (s.lapPos c) row = false ∨ (c = 0 ∧ s.ecc.selfRefresh.isSome = true) →
      Does (.scrubRead c row upset verify dirty last werr t) s (Touches [] [] [.now, .resp, .out] s)) ∧
    (s.lap c = some l → l.alarmed = false → s.rd (ECC_SCRm_LAPLIM_MS c) ≠ 0 →
      s.rd (ECC_SCRm_LAPLIM_MS c) * 1000000 + (s.begin t).lapPause c < t - l.from_ - l.paused → Does (.scrubLapLimit c t) s fun u =>
      u.lap c = some { l with alarmed := true } ∧ u.rd (ECC_SCRm_STAT_LIMEV c) = 1 ∧ Notes [36] [(2, 5, 36, 0xFFFF)] s u ∧
      Touches [ECC_SCRm_STAT_LIMEV c] [.pend, .ingress] [.now, .resp, .out, .pw, .rcd, .ecc] s u)

/-- R440, R451: the fill engine refuses what it cannot fill, and a fill that ends has written the pattern to every row
and nothing else; one that is aborted, to the rows it reached. The test window writes and reads symbols as they are
stored, encodes and checks a row, with source 38, and does nothing without ARM; it stores nothing where another master
alone writes. Where the spec leaves a point open, the model's reading stands (log entries 27, 28, 29, 31, 33, 37, 38,
112, 113, 114, 120, 122, 109). -/
def Obligations.FillAndTestWindow : Prop :=
  ∀ (s : State) (f : FillRun) (rows memid row a : Nat) (up : BitVec 320) (t : Nat),
    let start := s.rd ECC_FILL_ADDR_LO_ROW * 32 + s.rd ECC_FILL_ADDR_HI_HI * 2 ^ 32
    let len := s.rd ECC_FILL_LEN_LEN
    let refused (err : Nat) (u : State) : Prop := u.rd ECC_FILL_STAT_ERR = err ∧ u.rd ECC_FILL_STAT_FAIL = 1 ∧
      Raised [37] s u ∧ Touches [ECC_FILL_STAT_FAIL, ECC_FILL_STAT_ERR] [.pend] [.now, .resp, .out] s u
    let bytes (n : Nat) : List Byte := (List.range (32 * n)).map fun i => (leBytes 8 f.pat).getD (i % 8) 0
    let filled (n : Nat) (u : State) : Prop := Stored f.addr (bytes n) s u ∧ u.ecc.fill = none ∧ u.rd ECC_FILL_STAT_BUSY = 0 ∧
      u.rd ECC_FILL_PROG = n ∧ Raised [37] s u ∧
      Framed [.pend, .ecc, .cvu] [.now, .mem, .resp, .out, .ecc, .cvu] s u
    let runs := s.ecc.fill = some f ∧ fillable f.addr f.rows = true ∧ f.addr % 32 = 0 ∧ f.rows ≤ 0x10000000 ∧
      NoSoft s
    let armed := s.rd ECC_TST_ADDR_HI_ARM = 1 ∧ s.testRow = some (memid, row) ∧ rowAddr memid row = some a
    let done (u : State) : Prop := u.rd ECC_TST_RES_DONE = 1 ∧ u.rd ECC_TST_RES_ERR = 0 ∧ Raised [38] s u ∧
      Framed [.pend, .ecc] [.now, .mem, .resp, .out, .ecc] s u
    let idle (u : State) : Prop := u.rd ECC_TST_RES_ERR = 1 ∧ Touches [ECC_TST_RES_ERR] [] [.now, .resp, .out] s u
    let e := s.rowErr memid row ^^^ up.toNat
    (len = 0 → s.pw.phase = .running → Does (.fillStart t) s (refused 2)) ∧
    (len ≠ 0 → fillable start len = false ∨ 0x10000000 < len ∨ s.inRegion start (32 * len) = true →
      s.pw.phase = .running → Does (.fillStart t) s (refused 1)) ∧
    (len ≠ 0 → fillable start len = true → len ≤ 0x10000000 → s.inRegion start (32 * len) = false →
      (s.ecc.fill.isSome = true → s.pw.phase = .running → Does (.fillStart t) s (refused 3)) ∧
      (s.ecc.fill = none → s.pw.phase = .running → Does (.fillStart t) s fun u =>
        u.ecc = { s.ecc with fill := some ⟨start, len, s.rd64 ECC_FILL_PAT_LO ECC_FILL_PAT_HI⟩ } ∧
        u.rd ECC_FILL_STAT_BUSY = 1 ∧ u.rd ECC_FILL_STAT_ERR = 0 ∧ u.rd ECC_FILL_PROG = 0 ∧
        Touches [ECC_FILL_STAT_BUSY, ECC_FILL_STAT_ERR, ECC_FILL_PROG] [] [.now, .resp, .out, .ecc] s u)) ∧
    (runs → Does (.fillDone t) s (fun u => filled f.rows u ∧ u.rd ECC_FILL_STAT_DONE = 1) ∧
      Does (.fillAbort rows t) s fun u => filled (min rows f.rows) u ∧ u.rd ECC_FILL_STAT_FAIL = 1 ∧
        u.rd ECC_FILL_STAT_ERR = 4) ∧
    (s.rd ECC_TST_ADDR_HI_ARM = 0 ∨ s.testRow = none → s.pw.phase = .running →
      Does (.writeRaw t) s idle ∧ Does (.readRaw up t) s idle ∧
      Does (.encodeRow t) s idle ∧ Does (.checkRow up t) s idle) ∧
    (armed → s.pw.phase = .running →
      (s.tstGuarded memid row = false → Does (.writeRaw t) s fun u => Stored a s.tstData s u ∧
        u.rowErr memid row = leNat (xorBytes s.tstChk (checkBytes memid row s.tstData)) ∧ done u) ∧
      (s.tstGuarded memid row = true → Does (.writeRaw t) s fun u => SameMemory s u ∧ u.rowErr memid row = s.rowErr memid row ∧
        done u) ∧
      Does (.encodeRow t) s (fun u => u.tstChk = checkBytes memid row s.tstData ∧ SameMemory s u ∧
        Touches [ECC_TST_CHK_LO, ECC_TST_CHK_HI, ECC_TST_RES_DONE, ECC_TST_RES_ERR] [.pend] [.now, .resp, .out] s u ∧ done u) ∧
      (e = 0 →
        Does (.readRaw up t) s (fun u => u.tstData = s.rowData memid row ∧
          u.tstChk = checkBytes memid row (s.rowData memid row) ∧ SameMemory s u ∧ done u) ∧
        Does (.checkRow up t) s (fun u => u.tstData = s.rowData memid row ∧ u.rd ECC_TST_RES_RESULT = 0 ∧
          u.rd ECC_TST_RES_NSYM = 0 ∧ SameMemory s u ∧ done u)) ∧
      Does (.checkRow up t) s (fun u => u.rd ECC_TST_RES_RESULT = (eccResult (rsDecode (patSyms e))).code ∧
        u.rowErr memid row = e ∧ done u))

/-- R455 to R462, R466 to R468: a self-test command is refused for a target that cannot be tested or while a command
run is pending, and waits for another run; a depot run is armed; an abort ends it with ERR 4 and source 39, or awaits
the hard repair in progress; a phase that ends gives way to the next; what a run's result does to a unit, a core and a
lane; a NAND block that is retired moves to a spare, and with no spare left the Rings area shrinks. Where the spec
leaves a point open, the model's reading stands (log entries 27, 28, 29, 31, 33, 37, 38, 112, 113, 114, 120, 122, 109). -/
def Obligations.SelfTestAndRepair : Prop :=
  ∀ (s : State) (r : BistRun) (todo : List Nat) (g : Fin 4) (n : Fin 8) (c : Fin 15) (e : Fin 4) (l : Fin 4) (fail0 fail1 : BitVec 32) (sig : BitVec 64)
    (len block t : Nat),
    let m0 := s.rd BIST_MASK0
    let m1 := s.rd BIST_MASK1
    let refused (err : Nat) (u : State) : Prop := u.rd BIST_STAT_FAIL = 1 ∧ u.rd BIST_STAT_ERR = err ∧
      Touches [BIST_STAT_FAIL, BIST_STAT_ERR] [] [.now, .resp, .out] s u
    let able := maskAll m0 s.testable0 = true ∧ maskAll m1 s.testable1 = true
    let pending := s.cop.waiting.isSome = true ∨ ∃ x, s.cop.run = some x ∧ x.kind = .command
    let held := s.rd BIST_STAT_COPPICE = 1 ∨ s.cop.run.isSome = true
    let asked := { bistNew .command m0 m1 with todo := bistTodo (bistNew .command m0 m1) }
    let judged (pass0 fail0 pass1 fail1 : Nat) (u : State) : Prop := u.rd BIST_PASS0 = pass0 ∧ u.rd BIST_FAIL0 = fail0 ∧
      u.rd BIST_PASS1 = pass1 ∧ u.rd BIST_FAIL1 = fail1 ∧ u.rd BIST_STAT_BUSY = 0 ∧ u.rd BIST_STAT_DONE = 1 ∧
      u.rd BIST_STAT_ERR = (if fail0 = 0 ∧ fail1 = 0 then 0 else 3) ∧ u.rd BIST_TIME_T = sat 24 len ∧ u.cop.run = none ∧ u.rd BIST_STAT_PHASE = 0 ∧
      u.rd BIST_SIGTGT_VALID = (if fail0 = 0 ∧ fail1 = 0 then 0 else 1) ∧
      Framed [.std, .pend, .le, .cpc, .iog, .chan, .cvu, .ingress, .bist]
        [.now, .resp, .out, .pw, .rcd, .std, .cop, .ecc, .io, .eng, .cnp, .pmg, .cvu, .fresh] s u
    let marked (src : Nat) (u : State) : Prop := ∀ i, i < 4 → s.rd (STD_EVTi_ROUTE_PRIO src) ≠ 0 →
      s.bit (STD_EVTi_ROUTE_STANDS src) i = true → u.pends src i = true
    let free := s.cop.waiting = none ∧ s.cop.due = []
    let cmd (a b : Nat) := s.cop.run = some { bistNew .command a b with todo := [1] } ∧ free
    let logged (x : RepairEntry) := s.cop.log ++ [(repairBytes x, repairBytes x)]
    let core := 2 ^ c.val
    let lane := 2 ^ (16 + 4 * e.val + l.val)
    let nand (u : State) : Prop := u.cop.nandRetired = s.cop.nandRetired + 1 ∧ u.cop.nandSpare = s.cop.nandSpare - 1 ∧
      u.rd CPC_NAND_RETIRED = sat 16 (s.cop.nandRetired + 1) ∧ u.rd CPC_STAT_NANDEV = 1 ∧ marked 45 u ∧
      (s.cop.log.length < 4096 → u.cop.log = logged ⟨5, block, t, 0⟩ ∧ u.rd CPC_LOG_USED = s.cop.log.length + 1)
    (¬ able → s.pw.phase = .running → Does (.bistStart t) s (refused 1)) ∧ (able → pending → s.pw.phase = .running →
      Does (.bistStart t) s (refused 2)) ∧
    (able → ¬ pending → ¬ held → s.pw.phase = .running → Does (.bistStart t) s fun u =>
      u.cop = { s.cop with run := some asked, testing := s.cop.testing ||| (m0 % 2 ^ 15)
                           laneTest := s.cop.laneTest ||| (m0 / 2 ^ 16) } ∧
      u.rd BIST_STAT_BUSY = 1 ∧ u.rd BIST_STAT_ERR = 0 ∧
      u.rd BIST_STAT_PHASE = (if m0 = 0 ∧ m1 = 0 then 0 else 1) ∧ Quiet (s.sparesTo u) u ∧
      Framed [.std, .pend, .cpc, .bist] [.now, .resp, .out, .cop] s u) ∧
    (able → ¬ pending → held → s.pw.phase = .running → Does (.bistStart t) s fun u =>
      u.cop = { s.cop with waiting := some (bistNew .command m0 m1) } ∧ u.rd BIST_STAT_BUSY = 1 ∧
      Touches [BIST_STAT_BUSY, BIST_STAT_ERR] [] [.now, .resp, .out, .cop] s u) ∧
    (bitAt m0 15 = true ∨ m1 &&& mask1Targets ≠ m1 → s.pw.phase = .running →
      Does (.bistDepot t) s (refused 1)) ∧
    (bitAt m0 15 = false → m1 &&& mask1Targets = m1 → s.pw.phase = .running →
      Does (.bistDepot t) s fun u =>
      u.cop = { s.cop with depot := some (bistNew .depot m0 m1) } ∧ u.rd BIST_STAT_ARMED = 1 ∧
      Touches [BIST_STAT_ARMED] [] [.now, .resp, .out, .cop] s u) ∧
    (s.cop.run = none → s.startupAwaited = false → s.cop.waiting.isSome = true ∨ s.cop.depot.isSome = true →
      Does (.bistAbort t) s fun u => u.cop = { s.cop with waiting := none, depot := none } ∧ u.rd BIST_STAT_ERR = 4 ∧
      u.rd BIST_STAT_FAIL = 1 ∧ u.rd BIST_STAT_ARMED = 0 ∧ u.rd BIST_STAT_BUSY = 0 ∧ Raised [39] s u ∧
      Touches [BIST_STAT_BUSY, BIST_STAT_ARMED, BIST_STAT_FAIL, BIST_STAT_ERR] [.pend] [.now, .resp, .out, .cop] s u) ∧
    (s.cop.run = some r → r.kind ≠ .startup → free →
      (r.todo.head? = some 1 → r.mask1 % 4 = 0 → Does (.bistAbort t) s fun u => u.cop.run = none ∧
        u.rd BIST_STAT_ERR = 4 ∧ u.rd BIST_STAT_FAIL = 1 ∧ u.rd BIST_STAT_PHASE = 0 ∧ Raised [39] (s.sparesTo u) u ∧
        Framed [.std, .pend, .cpc, .bist, .cvu] [.now, .resp, .out, .cop, .cvu, .fresh] s u) ∧
      (r.todo.head? = some 3 → Does (.bistAbort t) s fun u =>
        u.cop = { s.cop with run := some { r with aborted := true }, depot := none } ∧ Quiet s u ∧
        Touches [BIST_STAT_BUSY, BIST_STAT_ARMED] [] [.now, .resp, .out, .cop] s u)) ∧
    (s.cop.run = some r → free → r.todo = (16 + g.val) :: (17 + g.val) :: todo → s.ecc.err = [] →
      Does (.bistRunDone fail0 fail1 sig len [] [] false t) s fun u =>
        (∃ x, u.cop.run = some x ∧ x.todo = (17 + g.val) :: todo ∧ x.len = r.len + len ∧ x.failed0 = r.failed0) ∧
        u.rd BIST_STAT_PHASE = 2 ∧ u.rd BIST_STAT_DONE = s.rd BIST_STAT_DONE ∧ u.rd BIST_FAIL1 = s.rd BIST_FAIL1) ∧
    (s.cop.run = none → s.cop.laneTest = 0 →
      Does (.bistRunDone fail0 fail1 sig len [] [] false t) s (Touches [] [] [.now, .resp, .out] s)) ∧
    (cmd 0 (4 * 2 ^ n.val) →
      (bitAt fail1.toNat (2 + n) = false → Does (.bistRunDone fail0 fail1 sig len [] [] false t) s fun u =>
        judged 0 0 (4 * 2 ^ n.val) 0 u ∧ marked 39 u ∧ bitAt u.cop.provenOther (18 + n) = true) ∧
      (bitAt fail1.toNat (2 + n) = true → Does (.bistRunDone fail0 fail1 sig len [] [] false t) s fun u =>
        judged 0 0 0 (4 * 2 ^ n.val) u ∧ marked 39 u ∧ marked 40 u ∧ u.rd (CVU_Uu_CFG_EN n) = 0 ∧
        bitAt u.cop.unitDead n = true ∧ u.rd64 BIST_SIG_LO BIST_SIG_HI = sig.toNat ∧ u.rd BIST_SIGTGT_BIT = 2 + n ∧
        u.rd BIST_SIGTGT_M1 = 1)) ∧
    (cmd core 0 → s.isSpare c = true →
      (bitAt fail0.toNat c = false → bitAt s.cop.fenced c = false → Does (.bistRunDone fail0 fail1 sig len [] [] false t) s fun u =>
        judged core 0 0 0 u ∧ bitAt u.cop.proven c = true) ∧
      (bitAt fail0.toNat c = true → Does (.bistRunDone fail0 fail1 sig len [] [] false t) s fun u =>
        judged 0 core 0 0 u ∧ u.bit CPC_CORE_RETIRED c = true ∧ bitAt u.cop.proven c = false ∧ marked 41 u ∧ marked 40 u)) ∧
    (cmd lane 0 → s.leCan e = false →
      (bitAt fail0.toNat (16 + 4 * e + l) = true → Does (.bistRunDone fail0 fail1 sig len [] [] false t) s fun u =>
        judged 0 lane 0 0 u ∧ u.bit CPC_LELANE_RETIRED (4 * e + l) = true ∧ marked 40 u) ∧
      (bitAt fail0.toNat (16 + 4 * e + l) = false → bitAt s.cop.laneFenced (4 * e + l) = true →
        s.bit CPC_LELANE_SUSPECT (4 * e + l) = false → Does (.bistRunDone fail0 fail1 sig len [] [] false t) s fun u =>
        judged lane 0 0 0 u ∧ u.bit CPC_LELANE_SUSPECT (4 * e + l) = true)) ∧
    (s.cop.run = none → s.cop.testing = 0 → s.cop.waiting = none → s.cop.laneTest = 2 ^ (4 * e.val + l.val) →
      bitAt fail0.toNat (16 + 4 * e + l) = false → bitAt s.cop.laneFenced (4 * e + l) = true →
      Does (.bistRunDone fail0 fail1 sig len [] [] false t) s fun u => u.cop.laneTest = 0 ∧ u.rd BIST_STAT_COPPICE = 0 ∧
        (s.bit CPC_LELANE_SUSPECT (4 * e + l) = false → u.bit CPC_LELANE_SUSPECT (4 * e + l) = true ∧ Quiet s u ∧
          u.bit CPC_LELANE_RETIRED (4 * e + l) = s.bit CPC_LELANE_RETIRED (4 * e + l)) ∧
        (s.bit CPC_LELANE_SUSPECT (4 * e + l) = true → u.bit CPC_LELANE_RETIRED (4 * e + l) = true ∧ marked 42 u ∧
          (s.cop.log.length < 4096 → u.cop.log = logged ⟨2, 4 * e + l, t, 0⟩))) ∧
    (0 < s.cop.nandSpare → s.dieRuns = true → Does (.nandBlockRetire block false t) s fun u => nand u ∧ u.rcd.ringCap = s.rcd.ringCap ∧
      Framed [.pend, .cpc, .ingress] [.now, .resp, .out, .pw, .rcd, .cop, .fwu] s u ∧
      (slotBlock block = none → u.fwu = s.fwu) ∧
      ∀ i, slotBlock block = some i → (u.fwSlot i).retired = (s.fwSlot i).retired + 1) ∧
    (s.cop.nandSpare = 0 → s.dieRuns = true → Does (.nandBlockRetire block false t) s fun u => nand u ∧ u.rcd.ringCap = s.rcd.ringCap - 1 ∧
      u.rd REC_RINGCAP_BLOCKS = (s.rcd.ringCap - 1) % 2 ^ 17 ∧ marked 214 u ∧
      (block < 4096 → u.rcd.rings = s.rcd.rings) ∧
      (4096 ≤ block → block < 4096 + s.rcd.ringCap → ∀ x ∈ u.rcd.rings, x ∈ s.rcd.rings ∧ x.page / 64 % s.rcd.ringCap ≠ block - 4096) ∧
      Framed [.pend, .cpc, .recd, .ingress] [.now, .resp, .out, .pw, .rcd, .cop, .fwu] s u)

/-! ### Event recorder -/

/-- R473 to R482, R486 to R491, R494, R496, R498: a descriptor that is accepted takes the next SEQ and enters staging
as its record, one that finds no room is dropped and counted and begins OVERLOAD; a firmware record is taken from
shared SRAM; a submission is judged; pages are programmed from staging until a flush ends; an uncorrectable staging row
loses its records; registers latch; reads copy records; the function reset; the start; the 24-hour average. Where the
spec leaves a point open, the model's reading stands (log entries 66, 104, 67, 68, 109, 110). -/
def Obligations.RecorderWork : Prop :=
  ∀ (s : State) (q : List Desc) (cls src kind obj w0 w1 time : Nat) (ts bad heart : Bool) (writer h : Fin 12)
    (off len : Nat) (f : Flush) (x : Staged) (r : ReadRun) (err : Fin 8) (row n t : Nat),
    let P : List Part := [.now, .mem, .resp, .out, .pw, .rcd, .ecc, .cvu]
    let fill := s.rd REC_STG_BYTES
    let taken := s.heartTakes
    let hdr (len cls src kind : Nat) (hw heart ts : Bool) (time : Nat) : List Byte := leBytes 2 len ++
      [byteOf cls, byteOf src, byteOf (b2n hw + 2 * b2n heart + 4 * b2n ts), byteOf kind, 0, 0] ++ leBytes 8 s.rcd.next ++
      leBytes 8 time
    let staged (cls : Nat) (bs : List Byte) (heart : Bool) (u : State) : Prop :=
      u.rcd.staged = s.rcd.staged ++ [⟨s.rcd.next, cls, s.rcd.head, bs, heart⟩] ∧ u.rcd.next = s.rcd.next + 1 ∧
      u.rcd.head = (s.rcd.head + bs.length) % 0x100000 ∧ u.rd REC_STG_BYTES = fill + bs.length ∧
      (s.rcd.head + bs.length ≤ 0x100000 → Stored (sramBase + stagingOff + s.rcd.head) bs s u)
    let plain := fill + len < 0x80000 ∧ cls ≠ 1 ∧ cls ≠ 2
    let accepting := s.mayAccept = true
    let calm := s.rd REC_STAT_OVERLOAD = 0 ∧ s.rcd.drops = none
    let hw : Desc := .hw cls src kind obj w0 w1 time ts
    let bs40 := hdr 40 cls src kind true (taken 40) ts time ++ leBytes 2 obj ++ [0, 0] ++ leBytes 4 w0 ++ leBytes 4 w1 ++
      leBytes 4 0
    let source := s.bytes (sramBase + off) len
    let failed6 (u : State) : Prop := u.rd (REC_Hh_STAT_BUSY h) = 0 ∧ u.rd (REC_Hh_STAT_FAIL h) = 1 ∧ u.rd (REC_Hh_STAT_ERR h) = 6
    let foff := 8 * s.rd (REC_Hh_ADDR_OFF h)
    let flen := leNat (s.bytes (sramBase + foff) 2)
    let fcls := (s.byte (sramBase + foff + 2)).toNat
    let e := s.submitErr h foff
    let seq := s.rd64 REC_RD_SEQ_LO REC_RD_SEQ_HI
    let re := s.readErr heart seq (32 * s.rd REC_RD_DST_OFF) (32 * s.rd REC_RD_LEN_LEN)
    let copied (n : Nat) (u : State) : Prop :=
      let recs := fitRecs n r.len (r.gone ++ (s.area r.heart).filter fun y => decide (r.seq ≤ y.seq))
      let bs := (recs.map (·.bytes)).flatten
      Stored (sramBase + r.dst) (bs ++ List.replicate ((32 - bs.length % 32) % 32) 0) s u ∧
      u.rd REC_RD_STAT_RECS = sat 24 recs.length ∧ u.rcd = { s.rcd with read := none } ∧ u.rd REC_RD_STAT_BUSY = 0 ∧
      Raised [213] s u ∧ Touches [REC_RD_STAT_BUSY, REC_RD_STAT_DONE, REC_RD_STAT_FAIL, REC_RD_STAT_ERR, REC_RD_STAT_RECS,
        REC_RD_LAST_LO, REC_RD_LAST_HI] [.pend] [.now, .mem, .resp, .out, .rcd, .ecc, .cvu] s u
    let flushing := s.rcd.flush = some f ∧ s.rcd.resetting = false ∧ s.rcd.staged = [x] ∧ s.rcd.cut = 0 ∧
      x.bytes.length = fill ∧ 0 < fill ∧ fill ≤ 4096 ∧ s.rcd.drops = none ∧ f.size ≤ fill ∧ 0 < f.size
    let lap := s.rcd.pages / (s.rcd.ringCap * 64)
    let spare (k : Nat) : PageSpare := ⟨false, s.rcd.pages, some x.seq, lap, spareCrc false (some x.seq) lap, 4096 - k⟩
    let wrote (u : State) : Prop := tblGet 0 (t / 60000000000) u.rcd.wrote = tblGet 0 (t / 60000000000) s.rcd.wrote + 4096
    let min_ := t / 60000000000
    let kbs := (((s.rcd.wrote.filter fun y => decide (min_ < y.1 + 1440)).map (·.2)).sum +
      if min_ < 1440 then 0 else min len (tblGet 0 (min_ - 1440) s.rcd.wrote)) / 86400000
    let start := hdr 32 8 0 1 true false s.tsync t ++ [byteOf (s.rd SYS_RSTCAUSE_LETTER + 16 * s.rd SYS_RSTCAUSE_CAUSE),
      byteOf (s.rd KEY_STAT_STATE), 0xFF, 0, 0, 0, 0, 0]
    let lost (u : State) : Prop := s.rcd.next < u.rcd.next ∧ x ∉ u.rcd.staged ∧ u.rd REC_STAT_LOSSEV = 1 ∧
      (∀ i, i < 4 → s.rd (STD_EVTi_ROUTE_PRIO 215) ≠ 0 → s.bit (STD_EVTi_ROUTE_STANDS 215) i = true → u.pends 215 i = true) ∧
      Framed [.pend, .ecc, .recd, .ingress] P s u
    (s.rcd.queue = hw :: q → accepting → calm → NoSoft s → fill + 40 ≤ 0x100000 - 0x4000 →
      (fill + 40 < 0x80000 → cls ≠ 1 → cls ≠ 2 → Does (.recordAccept bad t) s fun u => staged cls bs40 (taken 40) u ∧
        u.rcd.queue = q ∧ u.rcd.flush = s.rcd.flush ∧ u.rd REC_QFILL_N = q.length % 2 ^ 12 ∧ Quiet s u ∧
        Touches [REC_STG_BYTES, REC_QFILL_N] [] P s u) ∧
      (cls = 1 ∨ cls = 2 → s.rcd.flush = none → Does (.recordAccept bad t) s fun u => staged cls bs40 (taken 40) u ∧
        u.rcd.queue = q ∧ u.rcd.flush = some ⟨true, t, min 4096 (fill + 40)⟩ ∧ u.rd REC_STAT_FLUSHING = 1 ∧ Quiet s u)) ∧
    (s.rcd.queue = hw :: q → accepting → calm → reservedClass cls = false → 0x100000 - 0x4000 < fill + 40 →
      0x80000 ≤ fill → src < 64 → cls < 16 → Does (.recordAccept bad t) s fun u => u.rcd.queue = q ∧ u.rcd.staged = s.rcd.staged ∧
      u.rcd.next = s.rcd.next ∧ u.rd REC_STAT_OVERLOAD = 1 ∧ u.rd REC_STAT_DROPEV = 1 ∧
      u.rd REC_DROP_TOT = sat 32 (s.rd REC_DROP_TOT + 1) ∧
      u.rd (REC_DROPSRCi src) = sat 32 (s.rd (REC_DROPSRCi src) + 1) ∧
      u.rd (REC_DROPCLSc cls) = sat 32 (s.rd (REC_DROPCLSc cls) + 1) ∧
      u.rcd.drops = some ⟨s.rcd.next - 1, t, t, 1, [(src, 1)], [(cls, 1)]⟩ ∧ Raised [209] s u ∧ SameMemory s u) ∧
    (s.rcd.queue = .fw h off len cls :: q → accepting → calm → NoSoft s → 24 ≤ len → len ≤ 4096 →
      (bad = true → RangeSound s (sramBase + off) len → Does (.recordAccept bad t) s fun u =>
        u.rcd.queue = q ∧ u.rcd.next = s.rcd.next ∧ failed6 u ∧
        Touches [REC_Hh_STAT_BUSY h, REC_Hh_STAT_FAIL h, REC_Hh_STAT_ERR h, REC_QFILL_N] [] [.now, .resp, .out, .rcd] s u) ∧
      (s.rangeRows (sramBase + off) len = [(2, row)] → s.rowBad 2 row = true → s.isTestRow 2 row = false →
        Does (.recordAccept bad t) s fun u => u.rcd.next = s.rcd.next ∧ failed6 u ∧ u.rd ECC_UE_LOC_ROW = row % 2 ^ 28 ∧
        u.rd ECC_UE_INFO_MASTER = 0x20) ∧
      (bad = false → RangeSound s (sramBase + off) len → plain → Does (.recordAccept bad t) s fun u =>
        staged cls (hdr len cls (0x20 + h) ((source.getD 5 0).toNat) false (taken len) s.tsync t ++ source.drop 24) (taken len) u ∧
        u.rcd.queue = q ∧ u.rd (REC_Hh_STAT_BUSY h) = 0 ∧ u.rd (REC_Hh_STAT_DONE h) = 1 ∧
        u.rd (REC_Hh_STAT_SEQ h) = s.rcd.next % 2 ^ 24 ∧ Quiet s u)) ∧
    (s.hartRuns writer = false → Does (.recordSubmit writer h t) s (Touches [] [] [.now, .resp, .out] s)) ∧
    (s.hartRuns writer = true → writer ≠ h → Does (.recordSubmit writer h t) s fun u => u = { s with now := t, hits := u.hits, resp := .storeFault, out := [] }) ∧
    (s.hartRuns h = true → s.deviceOpen h 0x10C00000 = true →
      (e ≠ 0 → Does (.recordSubmit h h t) s fun u => u.rd (REC_Hh_STAT_FAIL h) = 1 ∧ u.rd (REC_Hh_STAT_ERR h) = e ∧
        u.resp = .done ∧ Touches [REC_Hh_STAT_FAIL h, REC_Hh_STAT_ERR h] [] [.now, .resp, .out] s u) ∧
      (e = 0 → Recording s 1 → Does (.recordSubmit h h t) s fun u =>
        u.rcd = { s.rcd with queue := s.rcd.queue ++ [.fw h foff flen fcls] } ∧ u.rd (REC_Hh_STAT_BUSY h) = 1 ∧
        u.resp = .done ∧ Touches [REC_Hh_STAT_BUSY h, REC_QFILL_N] [] [.now, .resp, .out, .rcd] s u)) ∧
    (s.rcd.flush = none → 0 < fill → s.rcd.lastFlushEnd + 1000000000 ≤ t → Does (.recorderFlushTimer t) s fun u =>
      u.rcd = { s.rcd with flush := some ⟨true, t, min 4096 fill⟩ } ∧ u.rd REC_STAT_FLUSHING = 1 ∧
      Touches [REC_STAT_FLUSHING] [] [.now, .resp, .out, .rcd] s u) ∧
    (s.rcd.flush.isSome = true ∨ fill = 0 ∨ t < s.rcd.lastFlushEnd + 1000000000 →
      Does (.recorderFlushTimer t) s (Touches [] [] [.now, .resp, .out] s)) ∧
    (flushing → s.stagingErr = [] → x.heart = false → s.rcd.heart = [] → s.rcd.pages % 64 ≠ 0 →
      (f.size = fill → Does (.pageProgrammed none t) s fun u =>
        u.rcd = { s.rcd with staged := [], cut := 0, cutPage := s.rcd.pages, pages := s.rcd.pages + 1, flush := none
                             rings := s.rcd.rings ++ [⟨x.seq, s.rcd.pages, x.bytes⟩], lastFlushEnd := t
                             spares := s.rcd.spares ++ [spare fill], wrote := u.rcd.wrote } ∧ wrote u ∧
        u.rd REC_STG_BYTES = 0 ∧ u.rd REC_STAT_FLUSHING = 0 ∧ u.rd REC_STAT_FLUSHEV = 1 ∧
        u.rd REC_FLUSH_LAST = sat 32 ((t - f.began) / 1000) ∧ Raised [208] s u ∧
        Touches [REC_STG_BYTES, REC_STAT_FLUSHING, REC_STAT_FLUSHEV, REC_FLUSH_LAST, REC_FLUSH_MAX] [.pend]
          [.now, .resp, .out, .rcd] s u) ∧
      (f.size < fill → f.untilEmpty = true → Does (.pageProgrammed none t) s fun u =>
        u.rcd = { s.rcd with cut := f.size, cutPage := s.rcd.pages, pages := s.rcd.pages + 1
                             flush := some { f with size := fill - f.size }
                             spares := s.rcd.spares ++ [spare f.size], wrote := u.rcd.wrote } ∧ wrote u ∧
        u.rd REC_STG_BYTES = fill - f.size ∧ Quiet s u ∧ Touches [REC_STG_BYTES] [] [.now, .resp, .out, .rcd] s u)) ∧
    (flushing → inRow row x = true → s.pw.phase ≠ .flush → x.seq < s.rcd.next →
      Does (.pageProgrammed (some row) t) s lost ∧
      (row ∈ s.stagingErr → s.rowBad 2 (stagingOff / 32 + row) = true → Does (.pageProgrammed none t) s lost)) ∧
    Does (.oldestRead t) s (fun u => u.rd64 REC_OLDEST_LO REC_OLDEST_HI = s.oldest % 2 ^ 64 ∧
      u.rd64 REC_NEWEST_LO REC_NEWEST_HI = s.newest % 2 ^ 64 ∧ u.resp = .ok (s.oldest % 2 ^ 32) ∧
      Touches [REC_OLDEST_LO, REC_OLDEST_HI, REC_NEWEST_LO, REC_NEWEST_HI] [] [.now, .resp, .out] s u) ∧
    Does (.nextRead t) s (fun u => u.rd64 REC_NEXT_LO REC_NEXT_HI = s.rcd.next % 2 ^ 64 ∧ u.resp = .ok (s.rcd.next % 2 ^ 32) ∧
      Touches [REC_NEXT_LO, REC_NEXT_HI] [] [.now, .resp, .out] s u) ∧
    (re ≠ 0 → s.pw.phase = .running → Does (.recordReadStart heart t) s fun u => u.rd REC_RD_STAT_FAIL = 1 ∧ u.rd REC_RD_STAT_ERR = re ∧
      Raised [213] s u ∧ Touches [REC_RD_STAT_FAIL, REC_RD_STAT_ERR] [.pend] [.now, .resp, .out] s u) ∧
    (re = 0 → s.pw.phase = .running → Does (.recordReadStart heart t) s fun u =>
      u.rcd = { s.rcd with read := some ⟨seq, heart, 32 * s.rd REC_RD_DST_OFF, 32 * s.rd REC_RD_LEN_LEN, []⟩ } ∧
      u.rd REC_RD_STAT_BUSY = 1 ∧ u.rd REC_RD_STAT_RECS = 0 ∧ u.rd REC_RD_STAT_ERR = 0 ∧ u.resp = .done ∧
      Touches [REC_RD_STAT_BUSY, REC_RD_STAT_RECS, REC_RD_STAT_ERR] [] [.now, .resp, .out, .rcd] s u) ∧
    (s.rcd.read = some r → NoSoft s →
      (err.val ≠ 3 → err.val ≠ 4 → r.gone.length ≤ n → Does (.recordReadDone err n t) s fun u =>
        copied (r.gone.length + (s.area r.heart).length) u ∧ u.rd REC_RD_STAT_DONE = 1) ∧
      (err.val ≠ 4 → n < r.gone.length → Does (.recordReadDone err n t) s fun u =>
        copied n u ∧ u.rd REC_RD_STAT_FAIL = 1 ∧ u.rd REC_RD_STAT_ERR = 3) ∧
      (err.val = 4 ∨ (err.val = 3 ∧ r.gone = []) → Does (.recordReadDone err n t) s fun u =>
        copied n u ∧ u.rd REC_RD_STAT_FAIL = 1 ∧ u.rd REC_RD_STAT_ERR = err) ∧
      Does (.recordReadAbort n t) s (fun u => copied n u ∧ u.rd REC_RD_STAT_FAIL = 1 ∧ u.rd REC_RD_STAT_ERR = 6 ∧
        u.resp = .done)) ∧
    (s.rcd.read = none → s.pw.phase = .running → Does (.recorderReset n t) s fun u => u.rcd = { s.rcd with resetting := true } ∧ u.resp = .done ∧
      u.rd REC_STAT_OVERLOAD = s.rd REC_STAT_OVERLOAD ∧ u.rd REC_STG_BYTES = fill ∧ u.rd REC_LAYOUT_HWN = s.rd REC_LAYOUT_HWN ∧
      SameMemory s u ∧ Quiet s u ∧ Framed [.recd, .ingress] [.now, .resp, .out, .rcd] s u) ∧
    Does (.recorderResetDone t) s (fun u =>
      u = { s with now := t, hits := u.hits, resp := .none, out := [], rcd := { s.rcd with resetting := false } }) ∧
    (s.pw.start.recStart = false → s.rd KEY_STAT_STATE ≠ 0 → s.rcd.early = 0 → s.pw.phase = .running →
      s.pw.exhausted = false → s.rcd.rings = [] → s.rcd.own = [] → NoSoft s →
      (fill + 32 < 0x80000 → s.rd KEY_STAT_STATE ≠ 1 ∨ s.rcd.heartClosed = true ∨ s.rcd.heart.length < s.hwn →
        Does (.recorderStart t) s fun u =>
        u.rcd.next = s.rcd.next + 1 ∧ u.rd REC_STAT_STATE = 1 ∧ u.pw.start.recStart = true ∧
        u.rd REC_STG_BYTES = fill + 32 ∧ (s.rd KEY_STAT_STATE = 1 → u.rcd.heartOpen = true) ∧
        u.rd REC_HW_CNT_CLOSED = b2n s.rcd.heartClosed ∧
        (s.rd KEY_STAT_STATE ≠ 1 → s.rcd.head + 32 ≤ 0x100000 →
          (∀ i, i < 32 → u.byte (sramBase + stagingOff + s.rcd.head + i) = start.getD i 0) ∧
          (s.rd SYS_RSTCAUSE_LETTER ≠ 0 → Stored (sramBase + stagingOff + s.rcd.head) start s u)) ∧
        Quiet s u ∧ Framed [.pend, .recd, .ingress] P s u) ∧
      (fill + 64 < 0x80000 → s.rd KEY_STAT_STATE = 1 → s.rcd.heartClosed = false → s.hwn ≤ s.rcd.heart.length →
        Does (.recorderStart t) s fun u =>
        u.rcd.next = s.rcd.next + 2 ∧ u.rd REC_STAT_STATE = 1 ∧ u.rd REC_STG_BYTES = fill + 64 ∧ u.rcd.heartClosed = true ∧
        u.rd REC_HW_CNT_CLOSED = 1 ∧ (s.rcd.heart ≠ [] → u.rd REC_HW_CNT_CNT = s.rcd.heart.length % 2 ^ 26) ∧ Raised [211] s u)) ∧
    (kbs ≤ 1500 → s.pw.phase = .running → Does (.rate24Update len t) s fun u => u.rd REC_RATE24_KBS = kbs ∧ u.rd REC_STAT_RATEHI = 0 ∧
      Touches [REC_RATE24_KBS, REC_STAT_RATEHI] [] [.now, .resp, .out] s u) ∧
    (1500 < kbs → s.rd REC_STAT_RATEHI = 0 → s.pw.phase = .running →
      Does (.rate24Update len t) s fun u => u.rd REC_RATE24_KBS = sat 24 kbs ∧
      u.rd REC_STAT_RATEHI = 1 ∧ Notes [212] [(2, 0, 212, 0xFFFF)] s u ∧
      Touches [REC_RATE24_KBS, REC_STAT_RATEHI] [.pend, .ingress] [.now, .resp, .out, .pw, .rcd] s u)

/-! ### Flush mode and power states -/

/-- R60 to R63, R491 to R493: ten milliseconds after a power-fail, or at 38 V, the module enters flush mode: stands,
Rootway, ports and check-value units lose power, engines stop, the ingress queue is refused and counted and staging is
flushed; sequencing passes to the next engine in order and at last to the recorder; the SEAL record closes the flush
and the module parks. Where the spec leaves a point open, the model's reading stands (log entries 72, 73, 74, 126). -/
def Obligations.FlushMode : Prop :=
  ∀ (s : State) (post : List Nat) (y : Nat) (e : Fin 4) (k : Fin 4) (vstore t : Nat),
    let due := s.pw.failing = true ∧ s.pw.phase = .running ∧ s.pw.start.wasReady = true ∧
      (s.pw.t0 + 10000000 ≤ t ∨ vstore ≤ 3800)
    let same (u : State) : Prop := u = { s with now := t, hits := u.hits, resp := .none, out := [] }
    let body := s.sealPayload s.pw.t0 s.pw.vFlush s.pw.seqr
    let heart := s.heartTakes (24 + body.length)
    let sealed : NandRec := ⟨s.rcd.next, s.rcd.pages, leBytes 2 (24 + body.length) ++
      [8, 0, byteOf (1 + 2 * b2n heart + 4 * b2n s.tsync), 2, 0, 0] ++ leBytes 8 s.rcd.next ++ leBytes 8 t ++ body⟩
    (due → Does (.flushEntry vstore t) s fun u =>
      u.pw.phase = .flush ∧ u.rd PWR_HOLDUP_STAT_PHASE = 2 ∧ u.pw.vFlush = sat 16 vstore ∧ u.pw.sealed = false ∧
      u.pw.seqr = s.sequencers.head?.getD 0xFF ∧ u.pw.seqNext = s.sequencers.drop 1 ∧ s.rcd.queue.length ≤ u.pw.refused ∧ u.rcd.queue = [] ∧
      u.rcd.staged = s.rcd.staged ∧ u.rcd.next = s.rcd.next ∧ (u.rcd.flush.map (·.untilEmpty)) = some true ∧
      u.rd (PWR_UNIT_UNIT k) = 3 ∧ (u.engine e).executing = false ∧
      (s.leState e = leRunning → u.leState e = (if u.pw.seqr = e ∨ u.pw.seqr = 16 + e.val then leStopped else leParked)) ∧
      u.rwy = rootwayInit ∧ u.ust = understoryInit ∧ u.joinState = joinFlush ∧ u.pmg.low = none ∧
      Framed [.feed, .unit, .std, .pend, .le, .ecc, .iog, .chan, .cnp, .recd, .ingress, .cvu]
        [.now, .mem, .fresh, .resp, .out, .pw, .rcd, .std, .dbg, .cop, .ecc, .io, .eng, .rng, .cnp, .cvu, .rwy, .ust, .pmg] s u) ∧
    (¬ due → Does (.flushEntry vstore t) s same) ∧
    (s.pw.phase = .flush → s.pw.seqr ≠ 0xFF → s.pw.seqr % 16 < 4 →
      (s.pw.seqNext = y :: post → y % 16 < 4 → Does (.flushSequencerHandover t) s fun u =>
        u.pw = { s.pw with seqr := y, seqNext := post } ∧ u.leState (y % 16) = leStopped ∧
        u.rd (PWR_UNIT_UNIT (4 + y % 16)) = 0 ∧ (s.pw.seqr % 16 ≠ y % 16 → u.leState (s.pw.seqr % 16) = leParked) ∧
        Touches [LE_Ee_STAT_STATE (s.pw.seqr % 16), LE_Ee_STAT_STATE (y % 16), PWR_UNIT_UNIT (4 + y % 16)] []
          [.now, .resp, .out, .pw] s u) ∧
      (s.pw.seqNext = [] → Does (.flushSequencerHandover t) s fun u =>
        u.pw = { s.pw with seqr := 0xFF } ∧ u.leState (s.pw.seqr % 16) = leParked ∧
        Touches [LE_Ee_STAT_STATE (s.pw.seqr % 16)] [] [.now, .resp, .out, .pw] s u)) ∧
    (s.pw.phase ≠ .flush ∨ s.pw.seqr = 0xFF → Does (.flushSequencerHandover t) s same) ∧
    (s.pw.phase = .flush → s.rd REC_STG_BYTES = 0 → s.rcd.pages % 64 ≠ 0 → Does (.flushSeal t) s fun u =>
      u.rcd.rings = s.rcd.rings ++ [sealed] ∧ u.rcd.next = s.rcd.next + 1 ∧ u.rcd.pages = s.rcd.pages + 1 ∧
      u.pw.phase = .off ∧ ((s.engine e).prog.isSome = true → (s.engine e).retain.isSome = true →
        (s.errRows fun m _ => m == 6) = [] → (u.engine e).nand = (s.engine e).retain)) ∧
    (s.pw.phase ≠ .flush ∨ s.rd REC_STG_BYTES ≠ 0 → Does (.flushSeal t) s same)

/-- R499 to R511, R516, R524: a stand in WFI goes to the deepest of Doze and Nap that policy, role and slack allow, and
wakes when its instant has come; SLUMBER, HIBERNATE and REST are judged, refused with their ERR or entered; CANCEL and
a wake during an entry end it with ERR 6 at the end of its current step; a wake ends Slumber or Hibernate; an exit that
is done reports source 233; the copies of global time never run backwards but at a step. Where the spec leaves a point
open, the model's reading stands (log entries 72, 73, 74, 126). -/
def Obligations.PowerStates : Prop :=
  ∀ (s : State) (k : Fin 4) (i : Fin 6) (l : LowPower) (w t : Nat),
    let v := s.begin t
    let x := s.stand k
    let calm := s.standUp k = true ∧ s.standState k = stRunning ∧ s.rd (PWR_UNIT_UNIT k) = 0 ∧ x.request = none ∧ x.run = none
    let next := (v.setStand k { x with wfi := true }).standNext k
    let guard := s.rd PWR_POL_GUARD * 1000
    let fits (n : Option Nat) (cost : Nat) : Prop := n.all (fun d => decide (t + guard + cost ≤ d)) = true
    let rests (code exit : Nat) (u : State) : Prop := u.rd (PWR_UNIT_UNIT k) = code ∧
      u.stand k = { x with wfi := true, wakeAt := next.map (fun d => d - guard - exit), asleep := s.pendVec k } ∧
      (∀ j : Fin 4, j ≠ k → u.stand j = s.stand j)
    let err (hib : Bool) : Nat := if s.loaded = false ∨ s.rd PWR_STAT_POLERR = 1 then 5
      else if s.rd PWR_POL_MAXMOD < (if hib then 2 else 1) then 1
      else if s.lowBlocked = true ∨ s.pmg.low.isSome = true then 2 else if v.wakePending hib = true then 4 else 0
    let hibFits := 2 ≤ s.rd PWR_POL_MAXMOD ∧ fits s.moduleNext (120000000 + s.hibExitMax)
    let slumberFits := 1 ≤ s.rd PWR_POL_MAXMOD ∧ fits s.moduleNext (90000000 + s.depotNs)
    let judged (e : Nat) (u : State) : Prop := u.rd PWR_STAT_ERR = e ∧ u.rd PWR_STAT_CMDEV = 1 ∧ u.resp = .done ∧
      Raised [232] s u ∧ Touches [PWR_STAT_ERR, PWR_STAT_CMDEV] [.pend] [.now, .resp, .out] s u
    let enters (hib : Bool) (u : State) : Prop := u.pmg = { s.pmg with low := some ⟨hib, t, false, false, false, false⟩, edges := [] } ∧
      u.rd PWR_STAT_STATE = (if hib then 4 else 1) ∧ u.rd PWR_STAT_ERR = 0 ∧ u.resp = .done ∧
      Touches [PWR_STAT_STATE, PWR_STAT_ERR] [] [.now, .resp, .out, .pmg] s u
    let stopped (u : State) : Prop := u.pmg = { s.pmg with low := none } ∧ u.rd PWR_STAT_STATE = 0 ∧ u.rd PWR_STAT_ERR = 6 ∧
      u.rd PWR_STAT_CMDEV = 1 ∧ Raised [232] s u ∧
      Touches [PWR_STAT_STATE, PWR_STAT_ERR, PWR_STAT_CMDEV, PWR_WAKESRC_SRC] [.pend] [.now, .resp, .out, .pmg] s u
    let zero := k.val = 0 ∧ s.hartRuns 0 = true
    let same (u : State) : Prop := u = { s with now := t, hits := u.hits, resp := .none, out := [] }
    let fault (u : State) : Prop := u = { s with now := t, hits := u.hits, resp := .storeFault, out := [] }
    (calm → k.val ≠ 0 →
      ((v.setStand k { x with wfi := true }).standCalled k = true ∨ v.justPended k = true → Does (.standWfi k t) s fun u =>
        u.stand k = { x with wfi := true } ∧ Touches [] [] [.now, .resp, .out, .std] s u) ∧
      ((v.setStand k { x with wfi := true }).standCalled k = false → v.justPended k = false →
        (s.rd PWR_POL_MAXUNIT = 2 → s.bit STD_OPT_SAFEROLE k = false → fits next 208000 → Does (.standWfi k t) s fun u =>
          rests 2 200000 u ∧ u.rd PWR_CNT_NAP = sat 16 (s.rd PWR_CNT_NAP + 1) ∧
          (NoSoft s → Quiet s u) ∧ Touches [PWR_UNIT_UNIT k, PWR_CNT_NAP] [.pend, .ecc, .ingress]
            [.now, .mem, .fresh, .resp, .out, .pw, .rcd, .std, .ecc, .cvu] s u) ∧
        (s.rd PWR_POL_MAXUNIT = 1 ∨ (s.rd PWR_POL_MAXUNIT = 2 ∧ s.bit STD_OPT_SAFEROLE k = true) → fits next 2100 →
          Does (.standWfi k t) s fun u => rests 1 2000 u ∧ Touches [PWR_UNIT_UNIT k] [] [.now, .resp, .out, .std] s u))) ∧
    (s.standUp k = false ∨ s.standState k ≠ stRunning ∨ s.rd (PWR_UNIT_UNIT k) ≠ 0 →
      Does (.standWfi k t) s (Touches [] [] [.now, .resp, .out] s)) ∧
    (s.standUp k = true → (x.wakeAt = some w ∧ w ≤ t) ∨ s.newlyPended k = true → k.val ≠ 0 →
      (s.rd (PWR_UNIT_UNIT k) = 1 → Does (.unitWake k t) s fun u => u.rd (PWR_UNIT_UNIT k) = 0 ∧
        u.stand k = { x with wakeAt := none } ∧ Touches [PWR_UNIT_UNIT k] [] [.now, .resp, .out, .std] s u) ∧
      (s.rd (PWR_UNIT_UNIT k) = 2 → s.standState k ≠ stFailed → x.run = none → Does (.unitWake k t) s fun u => u.standState k = stHandover ∧
        u.stand k = { x with wakeAt := none, run := some ⟨⟨s.mode k, false, 3⟩, s.mode k, t, true⟩ } ∧
        Touches [STD_Sk_STAT_STATE k] [] [.now, .resp, .out, .std] s u)) ∧
    (x.wakeAt = none → x.request = none → v.standCalled k = false → s.newlyPended k = false →
      Does (.unitWake k t) s (Touches [] [] [.now, .resp, .out] s)) ∧
    (s.hartRuns k = false → Does (.pwrRest k t) s same ∧ Does (.pwrSlumber k t) s same ∧ Does (.pwrHibernate k t) s same ∧
      Does (.pwrCancel k t) s same) ∧
    (s.hartRuns k = true → k.val ≠ 0 → Does (.pwrRest k t) s fault ∧ Does (.pwrSlumber k t) s fault ∧ Does (.pwrHibernate k t) s fault ∧
      Does (.pwrCancel k t) s fault) ∧
    (zero → s.fwu.run = none →
      (err false ≠ 0 → Does (.pwrSlumber k t) s (judged (err false))) ∧ (err false = 0 → Does (.pwrSlumber k t) s (enters false)) ∧
      (err true ≠ 0 → Does (.pwrHibernate k t) s (judged (err true))) ∧
      (err true = 0 → (s.fwSlot 0).state ≠ 3 → (s.fwSlot 1).state ≠ 3 → Does (.pwrHibernate k t) s (enters true)) ∧
      (err true = 0 → Does (.pwrHibernate k t) s fun u => (u.fwSlot 0).state ≠ 3 ∧ (u.fwSlot 1).state ≠ 3) ∧
      (err false = 5 → Does (.pwrRest k t) s (judged 5)) ∧
      (err true = 0 → hibFits → (s.fwSlot 0).state ≠ 3 → (s.fwSlot 1).state ≠ 3 → Does (.pwrRest k t) s (enters true)) ∧
      (err false = 0 → ¬ hibFits → slumberFits → Does (.pwrRest k t) s (enters false)) ∧
      (err false ≠ 5 → hibFits → err true ≠ 0 → Does (.pwrRest k t) s (judged (err true))) ∧
      (err false ≠ 5 → ¬ hibFits → slumberFits → err false ≠ 0 → Does (.pwrRest k t) s (judged (err false))) ∧
      (err false ≠ 5 → ¬ hibFits → ¬ slumberFits → Does (.pwrRest k t) s
        (judged (if err false = 2 ∨ err false = 4 then err false else 3)))) ∧
    (zero → s.pmg.low = none ∨ (s.pmg.low = some l ∧ (l.reached = true ∨ l.woken = true)) → Does (.pwrCancel k t) s fun u =>
      u.resp = .done ∧ Touches [] [] [.now, .resp, .out] s u) ∧
    (s.pmg.low = some l → l.reached = false → l.woken = false → s.pw.phase = .running →
      (v.lowStepDone l = true →
        (zero → Does (.pwrCancel k t) s fun u => stopped u ∧ u.resp = .done) ∧
        (v.wakeFires i = true → l.hib = false ∨ i.val < 2 → Does (.pwrWake i t) s fun u =>
          stopped u ∧ u.rd PWR_WAKESRC_SRC = 2 ^ i.val)) ∧
      (v.lowStepDone l = false → v.wakeFires i = true → l.hib = false ∨ i.val < 2 → Does (.pwrWake i t) s fun u =>
        u.pmg = { s.pmg with low := some { l with woken := true } } ∧ u.rd PWR_WAKESRC_SRC = 2 ^ i.val ∧
        Touches [PWR_WAKESRC_SRC] [] [.now, .resp, .out, .pmg] s u)) ∧
    (v.wakeFires i = false → Does (.pwrWake i t) s (Touches [] [] [.now, .resp, .out] s)) ∧
    (v.wakeFires i = true → s.pw.phase = .running → s.pmg.low = some l → l.reached = true → l.hib = false → l.woken = false →
      s.rd PWR_STAT_STATE = 2 → Does (.pwrWake i t) s fun u => u.rd PWR_STAT_STATE = 3 ∧ u.rd PWR_WAKESRC_SRC = 2 ^ i.val ∧
      Touches [PWR_STAT_STATE, PWR_WAKESRC_SRC] [] [.now, .resp, .out] s u) ∧
    (v.wakeFires i = true → s.pw.phase = .hibernate → i.val < 2 → Does (.pwrWake i t) s fun u =>
      u.pw.phase = .locking ∧ u.rd PWR_WAKESRC_SRC = 2 ^ i.val ∧ u.rd PWR_STAT_STATE = 0 ∧ u.rd PWR_STAT_HIBEXIT = 1 ∧
      u.rd SYS_RSTCAUSE_CAUSE = 5 ∧ u.pw.start.keyPhase = true ∧ u.pw.start.at_ = t) ∧
    (s.rd PWR_STAT_STATE = 3 → Does (.slumberExitDone t) s fun u => u.rd PWR_STAT_STATE = 0 ∧ u.pmg.low = none ∧
      u.rd PWR_STAT_WAKEEV = 1 ∧ u.rd (PWR_UNIT_UNIT k) = 0 ∧ u.cvu.resetting = false ∧
      (∀ j, j < 4 → s.rd (STD_EVTi_ROUTE_PRIO 233) ≠ 0 → s.bit (STD_EVTi_ROUTE_STANDS 233) j = true → u.pends 233 j = true)) ∧
    (s.rd PWR_STAT_STATE ≠ 3 → Does (.slumberExitDone t) s (Touches [] [] [.now, .resp, .out] s)) ∧
    (s.pw.phase = .running → Does (.timeRealign t) s (fun u => u = { s with now := t, hits := u.hits, resp := .none, out := [], pmg := { s.pmg with
      copies := if s.pmg.stepDue then t else max t s.pmg.copies, stepDue := false } }))

/-! ### Firmware update -/

/-- R535 to R546: a command is judged and begins, ACTIVATE with a pause; at its end the slot moves as the command and
its checks say; a serving module answers HELLO with an OFFER and GET with DATA or NACK; Seedling announces itself,
takes an offer, gathers the fragments of its own source, and repeats a GET without data. Where the spec leaves a point
open, the model's reading stands (log entries 75, 104, 76, 77). -/
def Obligations.FirmwareUpdate : Prop :=
  ∀ (s : State) (hart : Fin 12) (x3 nandBad : Bool) (r : FwRun) (z : FwPause) (sd : Seed) (slot first n at_ : Nat)
    (frame : List Byte) (t : Nat),
    let v := s.begin t
    let k := s.updateSlot
    let x := s.fwSlot k
    let st := x.state
    let addr := sramBase + 32 * s.rd FWU_ADDR_OFF
    let erased (y : FwSlot) : FwSlot := { slotInit with retired := y.retired }
    let open_ := (s.hartRuns hart = true ∨ s.debugHart hart = true) ∧ s.pw.start.firmware = true ∧ s.fwu.seed = none ∧ hart.val < 4 ∧
      s.mode (hartStand hart) ≠ modeSplit
    let idle := s.fwu.run = none
    let fits (m : Nat) := 32 * s.rd FWU_ADDR_OFF + m ≤ stagingOff
    let events : List Fld := [FWU_STAT_FAILEV, FWU_STAT_DONEEV, FWU_RES_ERR, FWU_RES_OP, FWU_STAT_BUSY, FWU_CNT_REFUSED]
    let refused (op err : Nat) (u : State) : Prop := u.resp = .done ∧ u.rd FWU_STAT_FAILEV = 1 ∧ u.rd FWU_RES_ERR = err ∧
      u.rd FWU_RES_OP = op ∧ u.rd FWU_CNT_REFUSED = (if op = 2 then sat 16 (s.rd FWU_CNT_REFUSED + 1) else s.rd FWU_CNT_REFUSED) ∧
      Raised [225] s u ∧ u.fwu = s.fwu ∧ Touches events [.pend] [.now, .resp, .out] s u
    let outside (op : Nat) (u : State) : Prop := u.resp = .done ∧ u.rd FWU_STAT_FAILEV = 1 ∧ u.rd FWU_RES_OP = op ∧
      Raised [225] s u ∧ u.fwu = s.fwu ∧ Touches events [.pend] [.now, .resp, .out, .fresh] s u
    let begins (op : Nat) (data : List Byte) (u : State) : Prop := u.resp = .done ∧ u.rd FWU_RES_OP = op ∧
      u.rd FWU_STAT_BUSY = 1 ∧ u.fwu = { s.fwu with run := some ⟨op, k, data, addr, t⟩ } ∧
      Touches [FWU_RES_OP, FWU_STAT_BUSY] [] [.now, .resp, .out, .fwu] s u
    let split (u : State) : Prop := u = { s with now := t, hits := u.hits, resp := .storeFault, out := [] }
    let done (u : State) : Prop := u.rd FWU_STAT_DONEEV = 1 ∧ u.rd FWU_RES_ERR = 0 ∧ u.rd FWU_STAT_BUSY = 0 ∧ u.fwu.run = none ∧
      Raised [224] s u
    let failed (err : Nat) (u : State) : Prop := u.rd FWU_STAT_FAILEV = 1 ∧ u.rd FWU_RES_ERR = err ∧
      u.rd FWU_STAT_BUSY = 0 ∧ u.fwu.run = none ∧ Raised [225] s u
    let runs (op : Nat) := s.fwu.run = some r ∧ r.op = op ∧ s.pw.phase = .running ∧ s.rd FWU_RES_OP = op ∧ r.slot < 2
    let was := s.fwSlot r.slot
    let he := s.headerErr r.data
    let cramped (h : List Byte) := decide (1024 - was.retired < (pieceCount h + 65) / 64)
    let resumes := was.state = 1 ∧ conImageid was.header = conImageid r.data
    let idx := leAt 8 4 r.data
    let p := frPayload frame
    let heard (op dest : Nat) := s.pw.phase = .running ∧ frKind frame = 6 ∧ leAt 0 1 p = op ∧ frDest frame = dest
    let ser := leAt 4 8 p
    let sends (dest : Nat) (body : List Byte) : Emission := .under 5 (v.frame 6 dest 0 0 body)
    let head (op frag nreq serial index : Nat) : List Byte :=
      [byteOf op, byteOf frag] ++ leBytes 2 nreq ++ leBytes 8 serial ++ leBytes 4 index
    (s.hartRuns hart = true ∨ s.debugHart hart = true → s.pw.start.firmware = true → s.fwu.seed = none →
      4 ≤ hart.val ∨ s.mode (hartStand hart) = modeSplit →
      Does (.fwOpen hart t) s split ∧ Does (.fwPiece hart t) s split ∧ Does (.fwAbandon hart t) s split ∧
      Does (.fwPrepare hart t) s split ∧ Does (.fwActivate hart t) s split ∧ Does (.fwConfirm hart t) s split ∧
      Does (.fwBitmap hart t) s split ∧ Does (.fwSeedling hart t) s split ∧ Does (.fwUnprepare hart t) s split) ∧
    (open_ → s.fwu.run.isSome = true → Does (.fwOpen hart t) s (refused 1 9) ∧ Does (.fwPiece hart t) s (refused 2 9) ∧
      Does (.fwAbandon hart t) s (refused 3 9) ∧ Does (.fwPrepare hart t) s (refused 4 9) ∧
      Does (.fwActivate hart t) s (refused 5 9) ∧ Does (.fwConfirm hart t) s (refused 6 9) ∧
      Does (.fwBitmap hart t) s (refused 7 9) ∧ Does (.fwSeedling hart t) s (refused 8 9) ∧
      Does (.fwUnprepare hart t) s (refused 9 9)) ∧
    (open_ → idle →
      (st = 4 → Does (.fwOpen hart t) s (refused 1 1)) ∧
      (st ≠ 4 → fits 8192 → RangeSound s addr 8192 → Does (.fwOpen hart t) s fun u => u.resp = .done ∧ u.rd FWU_STAT_BUSY = 1 ∧
        u.fwu.run = some ⟨1, k, s.bytes addr 8192, addr, t⟩ ∧ Framed [.fwu] [.now, .resp, .out, .fwu] s u ∧
        (s.headerErr (s.bytes addr 8192) = 0 → s.resumes k (s.bytes addr 8192) = false → u.fwSlot k = erased x)) ∧
      (st ≠ 4 → ¬ fits 8192 → Does (.fwOpen hart t) s (outside 1)) ∧
      (st = 1 → ¬ fits 4128 → Does (.fwPiece hart t) s (outside 2)) ∧
      (st ∈ [1, 2] → ¬ fits x.bitmap.length → Does (.fwBitmap hart t) s (outside 7)) ∧
      (st = 1 → fits 4128 → RangeSound s addr 4128 → Does (.fwPiece hart t) s (begins 2 (s.bytes addr 4128))) ∧
      (st ∈ [1, 2, 3] → Does (.fwAbandon hart t) s (begins 3 [])) ∧ (st = 2 → Does (.fwPrepare hart t) s (begins 4 [])) ∧
      (s.fwu.booted = some slot → (s.fwSlot slot).state = 4 → Does (.fwConfirm hart t) s (begins 6 [])) ∧
      (st ∈ [1, 2] → fits x.bitmap.length → Does (.fwBitmap hart t) s (begins 7 [])) ∧ (st = 3 → Does (.fwUnprepare hart t) s (begins 9 [])) ∧
      (st ∉ [1, 2, 3] → Does (.fwPiece hart t) s (refused 2 1) ∧ Does (.fwAbandon hart t) s (refused 3 1) ∧
        Does (.fwPrepare hart t) s (refused 4 1) ∧ Does (.fwBitmap hart t) s (refused 7 1) ∧
        Does (.fwUnprepare hart t) s (refused 9 1)) ∧
      (hart.val ≠ 0 → Does (.fwSeedling hart t) s (refused 8 0xE) ∧ Does (.fwActivate hart t) s (refused 5 0xE)) ∧
      (hart.val = 0 → s.pw.phase = .running → Does (.fwSeedling hart t) s fun u => u.rd SYS_RSTCAUSE_LETTER = 1 ∧
        u.rd SYS_RSTCAUSE_CAUSE = 2 ∧ u.fwu.toSeed = true ∧ u.pw.start.at_ = t ∧ u.pw.start.applied = false) ∧
      (hart.val = 0 → v.conds.all id = false → Does (.fwActivate hart t) s (begins 5 [])) ∧
      (hart.val = 0 → v.conds.all id = true → Does (.fwActivate hart t) s fun u => u.fwu.pause = some ⟨t, 1, .none⟩ ∧
        u.fwu.run = some ⟨5, k, [], addr, t⟩ ∧ (∀ j : Fin 4, u.standState j = stForming ∧ (u.stand j).formed = false) ∧
        u.rd STD_LKO_STAT_ARMED = 0 ∧ u.rd FWU_STAT_BUSY = 1 ∧
        Framed [.std, .pend, .lko, .iog, .chan, .fwu] [.now, .resp, .out, .pw, .std, .lko, .io, .fwu] s u)) ∧
    (runs 1 → Does (.fwuCommandDone nandBad t) s fun u =>
      (he ≠ 0 → failed he u ∧ u.fwSlot r.slot = was) ∧ (he = 0 → resumes → done u ∧ u.fwSlot r.slot = was) ∧
      (he = 0 → ¬ resumes → nandBad = false → cramped r.data = false → done u ∧
        u.fwSlot r.slot = { erased was with state := 1, header := r.data }) ∧
      (he = 0 → ¬ resumes → nandBad = true ∨ cramped r.data = true → failed 0xC u)) ∧
    (runs 2 → leAt 0 8 r.data ≠ conImageid was.header → Does (.fwuCommandDone nandBad t) s fun u => failed 6 u ∧
      u.fwSlot r.slot = was ∧ u.rd FWU_CNT_REFUSED = sat 16 (s.rd FWU_CNT_REFUSED + 1)) ∧
    (runs 2 → leAt 0 8 r.data = conImageid was.header →
      (pieceCount was.header ≤ idx ∨ leAt 0xC 4 r.data ≠ pieceLen was.header idx → Does (.fwuCommandDone nandBad t) s fun u =>
        failed 7 u ∧ u.fwSlot r.slot = was) ∧
      (tblFind idx was.pieces = none → nandBad = true ∨ cramped was.header = true → Does (.fwuCommandDone nandBad t) s fun u =>
        u.fwu.run = none ∧ (s.pieceErr r.slot r.data = 0 → failed 0xC u ∧ u.fwSlot r.slot = erased was)) ∧
      (tblFind idx was.pieces = none → nandBad = false → cramped was.header = false → Does (.fwuCommandDone nandBad t) s fun u => u.fwu.run = none ∧
        (s.pieceErr r.slot r.data = 0 → tblFind idx (u.fwSlot r.slot).pieces = some r.data ∧ u.rd FWU_STAT_DONEEV = 1 ∧
          (u.fwSlot r.slot).state = if (u.fwSlot r.slot).whole then 2 else was.state))) ∧
    (runs 3 → Does (.fwuCommandDone nandBad t) s fun u => done u ∧ u.fwSlot r.slot = erased was ∧
      u.rd (FWU_SLOTs_STAT_STATE r.slot) = 0 ∧ Framed [.pend, .fwu] [.now, .resp, .out, .fwu] s u) ∧
    (runs 4 → NoSoft s → Does (.fwuCommandDone nandBad t) s fun u =>
      ((s.slotCheck r.slot).1 = 0 → (u.fwSlot r.slot).state = 3 ∧ u.rd FWU_STAT_DONEEV = 1 ∧
        Stored (regionBase r.slot) (s.slotCheck r.slot).2 s u) ∧
      ((s.slotCheck r.slot).1 ≠ 0 → (u.fwSlot r.slot).state = 7 ∧ failed (s.slotCheck r.slot).1 u ∧
        Stored (regionBase r.slot) was.started s u)) ∧
    (runs 6 → s.fwu.booted = some slot → slot < 2 → Does (.fwuCommandDone nandBad t) s fun u => done u ∧
      (u.fwSlot slot).state = 5 ∧ u.rd FWU_STAT_TRIAL = 0 ∧ (conSecver (s.fwSlot slot).header < 128 →
        u.rd FWU_FUSE_SECVER = max (s.rd FWU_FUSE_SECVER) (conSecver (s.fwSlot slot).header)) ∧
      (s.rd FWU_FUSE_SECVER < conSecver (s.fwSlot slot).header → (s.fwSlot (1 - slot)).state = 6 →
        (u.fwSlot (1 - slot)).state = 7) ∧ Framed [.pend, .fwu] [.now, .resp, .out, .fwu] s u) ∧
    (runs 7 → inStaging r.addr was.bitmap.length = false → RangeSound s r.addr was.bitmap.length → NoSoft s →
      Does (.fwuCommandDone nandBad t) s fun u => Stored r.addr was.bitmap s u ∧ done u) ∧
    (runs 9 → Does (.fwuCommandDone nandBad t) s fun u => u.rd FWU_STAT_DONEEV = 1 ∧ u.rd FWU_RES_ERR = 0 ∧
      u.rd FWU_STAT_BUSY = 0 ∧ u.fwu.run = none ∧ Raised [224, 226] s u ∧ u.fwSlot r.slot = { was with state := 2 }) ∧
    (runs 5 → s.fwu.pause = none →
      (r.at_ + 4000000 < t ∨ (r.at_ + 4000000 = t ∧ v.conds.all id = false) → Does (.fwuCommandDone nandBad t) s (failed 0xA)) ∧
      (t < r.at_ + 4000000 → v.conds.all id = false →
        Does (.fwuCommandDone nandBad t) s (Touches [] [] [.now, .resp, .out] s)) ∧
      (t ≤ r.at_ + 4000000 → v.conds.all id = true → Does (.fwuCommandDone nandBad t) s fun u =>
        u.fwu.pause = some ⟨t, 1, .none⟩)) ∧
    (runs 5 → s.fwu.pause = some z → k < 2 → Does (.fwuCommandDone nandBad t) s fun u => u.fwu.booted = some k ∧
      u.fwSlot k = { x with state := 4, trials := 0 } ∧ (u.fwSlot (1 - k)).state = 6 ∧ u.rd FWU_STAT_SLOT = k ∧
      u.rd FWU_STAT_TRIAL = 1 ∧ u.fwu.pause = some ⟨z.at_, 3, z.attach⟩ ∧ u.fwu.run = none ∧ u.rd FWU_STAT_DONEEV = 1) ∧
    (heard 1 0xFF → s.rd FWU_SERVE_EN = 1 → s.servedSlot = some slot → s.pw.start.firmware = true →
      Does (.fwHello true frame t) s fun u => let h := (s.fwSlot slot).header
        u.out = [sends (frSender frame) (head 2 0 0 ser 0 ++ (leBytes 8 (conImageid h) ++ leBytes 4 (pieceCount h) ++
          leBytes 4 (conFwver h) ++ leBytes 4 (conSecver h)))] ∧ Touches [] [] [.now, .resp, .out] s u) ∧
    (heard 1 0xFF → ser = s.serial64 → s.pw.start.applied = true → s.pw.start.firmware = false → s.startupAwaited = false →
      Does (.fwHello true frame t) s fun u => u = { s with now := t, hits := u.hits, resp := .none, out := [],
                                                           fwu := { s.fwu with toSeed := true } }) ∧
    (heard 3 0xFF → s.rd FWU_SERVE_EN = 1 →
      (s.servedSlot = none → Does (.fwGet true frame t) s fun u =>
        u.out = [sends (frSender frame) (head 5 0 1 ser (leAt 0xC 4 p))] ∧ Touches [] [] [.now, .resp, .out] s u) ∧
      (s.servedSlot = some slot → leAt 0xC 4 p = 0xFFFFFFFF → (s.fwSlot slot).header.length = 8192 →
        Does (.fwGet true frame t) s fun u => u.out = (List.range 8).map (fun i => sends (frSender frame)
          (head 4 i 0 ser 0xFFFFFFFF ++ slice (1024 * i) 1024 (s.fwSlot slot).header)) ∧
        u.rd FWU_CNT_SERVED = sat 16 (s.rd FWU_CNT_SERVED + 1) ∧
        Raised (if s.fwu.served = s.cycleNo + 1 then [] else [229]) s u ∧
        Touches [FWU_CNT_SERVED] [.pend] [.now, .resp, .out, .fwu] s u)) ∧
    (s.fwu.seed = some sd → s.pw.phase = .running → Does (.seedlingAnnounce t) s fun u =>
      sends 0xFF (head 1 0 0 s.serial64 0) ∈ u.out ∧ u.fwu = s.fwu ∧
      Framed [.cnp, .cvu] [.now, .resp, .out, .cnp, .fab, .cvu] s u) ∧
    (s.fwu.seed = none → Does (.seedlingAnnounce t) s (Touches [] [] [.now, .resp, .out] s) ∧
      Does (.getRetryTimeout t) s (Touches [] [] [.now, .resp, .out] s)) ∧
    (heard 2 0xFF → s.fwu.seed = some sd → ser = s.serial64 → sd.header = none → sd.src = none → s.seedSlots ≠ [] →
      Does (.fwOffer true frame t) s fun u => u.out = [sends 0xFF (head 3 0 1 ser 0xFFFFFFFF)] ∧
      u.fwu = { s.fwu with seed := some { sd with src := some 0, parts := [], get := some (0xFFFFFFFF, 1, t) } } ∧
      Touches [] [] [.now, .resp, .out, .fwu] s u) ∧
    (heard 4 0xFF → s.fwu.seed = some sd → ser = s.serial64 → sd.header = none →
      (sd.src ≠ some 0 → Does (.fwData true frame nandBad t) s (Touches [] [] [.now, .resp, .out] s)) ∧
      (sd.src = some 0 → sd.get = some (first, n, at_) → sd.parts = [] → leAt 0xC 4 p = 0xFFFFFFFF → leAt 1 1 p < 8 →
        Does (.fwData true frame nandBad t) s fun u => u.fwu = { s.fwu with seed := some { sd with
          get := some (first, n, t), parts := [(leAt 1 1 p, slice 0x10 1024 p)] } } ∧
        Touches [] [] [.now, .resp, .out, .fwu] s u)) ∧
    Does (.fwNack x3 frame t) s (Touches [] [] [.now, .resp, .out] s) ∧
    (s.fwu.seed = some sd → sd.src = some 0 → sd.get = some (first, n, at_) → at_ + 100000000 ≤ t → s.pw.phase = .running →
      Does (.getRetryTimeout t) s fun u => u.out = [sends 0xFF (head 3 0 n s.serial64 first)] ∧
      u.fwu = { s.fwu with seed := some { sd with get := some (first, n, t) } } ∧ Touches [] [] [.now, .resp, .out, .fwu] s u)

/-! ### Device registers -/

/-- R13: every register is an aligned word of 32 bits, and an access of a hart to the device register range with any
other width or alignment raises a load or store access fault and changes nothing. -/
def Obligations.RegisterWidths : Prop :=
  ∀ (s : State) (h : Fin 12) (addr : BitVec 36) (size : Fin 4) (v : BitVec 32) (fs : List RowField) (f : RowField)
    (x t : Nat),
    let a := addr.toNat
    let device := 0x10000000 ≤ a ∧ a < 0x20000000
    let stops (r : Resp) (u : State) : Prop := u = { s with now := t, hits := u.hits, resp := r, out := [] }
    (device → regFields a = some fs → f ∈ fs → a % 4 = 0 ∧ f.lo + f.w ≤ 32) ∧
    (s.mayAccess (.hart h) = true → device → size.val ≠ 2 ∨ a % 4 ≠ 0 →
      Does (.registerWrite (.hart h) addr size v x t) s (stops .storeFault) ∧
      Does (.registerRead (.hart h) addr size t) s (stops .loadFault))

/-- R14, R16, R17, R110, R143, R304, R418, R425, R440, R451, R458, R535: a write leaves in each field of a register
what its access code says, a read shows the fields that are not write-only and clears those that a read clears, and no
register but the one addressed changes; a bit that an event has set in the same fabric clock is not cleared (R17); an
offset without a register reads 0 and ignores writes; the mirror of Ranger ignores writes; a write of a command with
its token to a command register is that command's step. An access to a block without a prefix or to a hole of the
memory map (R566), and a write of a SPLIT lane, or of the debug transport through one, to a block that is not open to
it faults, as does one to FWU_CMD by a SPLIT lane, whatever it holds. That the debug transport needs an attachment, and
that a hart without power makes no access, is the model's reading (log entry 84). Where the spec leaves a point open,
the model's reading stands (log entries 83, 85, 100). -/
def Obligations.RegisterAccess : Prop :=
  ∀ (s : State) (m : RegMaster) (h : Fin 12) (e : Fin 4) (addr : BitVec 36) (size : Fin 4) (v : BitVec 32)
    (fs : List RowField) (f : RowField) (x t : Nat),
    let a := addr.toNat
    let block := a / 0x100000
    let o := a % 0x100000
    let accepted := size.val = 2 ∧ a % 4 = 0 ∧ a < 0x11000000
    let plain := block = 0x105 ∨ (block = 0x101 ∧ o ≠ 4 ∧ o ≠ 0x40 ∧ o ≠ 0x44) ∨ (block = 0x10E ∧ o ≠ 0x64) ∨
      (block = 0x10F ∧ o ≠ 4)
    let device := 0x10000000 ≤ a ∧ a < 0x20000000
    let hole := (0x10000 ≤ a ∧ a < 0x1000000) ∨ (0x2000000 ≤ a ∧ a < 0x10000000) ∨ (0x80000000 ≤ a ∧ a < 0x800000000) ∨
      0xA00000000 ≤ a
    let answers (r : Resp) (u : State) : Prop := u = { s with now := t, hits := u.hits, resp := r, out := [] }
    let g : Fld := Fld.at a f.lo f.w f.rst
    let old := s.rd g
    let bits := bitsAt v.toNat f.lo f.w
    let write (addr v : Nat) : Instr := .registerWrite (.hart h) (BitVec.ofNat 36 addr) 2 (BitVec.ofNat 32 v) x t
    let is (addr v : Nat) (c : Instr) : Prop := Does (write addr v) s fun u => Does c s fun w => u = { w with resp := .done }
    let hit := (s.begin t).hit g
    let only (u : State) : Prop := u = { s with now := t, hits := u.hits, resp := u.resp, out := [], regs := u.regs }
    (s.mayAccess m = true → (device ∧ ¬ accepted) ∨ hole →
      (m = .hart h → Does (.registerWrite m addr size v x t) s (answers .storeFault) ∧
        Does (.registerRead m addr size t) s (answers .loadFault)) ∧
      (m = .debugger → Does (.registerWrite m addr size v x t) s (answers .debugError) ∧
        Does (.registerRead m addr size t) s (answers .debugError))) ∧
    (s.mayAccess m = false → (m = .hart h → Does (.registerWrite m addr size v x t) s (answers .none) ∧
        Does (.registerRead m addr size t) s (answers .none)) ∧
      (m = .debugger → Does (.registerWrite m addr size v x t) s (answers .debugError) ∧
        Does (.registerRead m addr size t) s (answers .debugError))) ∧
    (s.mayAccess m = true → s.mayReach m a = false → device → accepted →
      Does (.registerWrite m addr size v x t) s (answers (if m = .debugger then .debugError else .storeFault))) ∧
    (s.mayAccess m = true → s.mayReach m a = true → accepted → plain →
      (regFields a = some fs → f ∈ fs → (∀ i ∈ fs, s.rd (Fld.at a i.lo i.w i.rst) < 2 ^ i.w) →
        Does (.registerWrite m addr size v x t) s (fun u => u.resp = .done ∧ only u ∧ RegsElse a s u ∧
          u.rd g = (if f.acc = .rw then bits else if f.acc = .w1c then old ^^^ (old &&& (bits - (bits &&& hit)))
            else if f.acc = .w1s then old ||| bits else old)) ∧
        Does (.registerRead m addr size t) s fun u => only u ∧ RegsElse a s u ∧ u.resp = .ok (s.plainRead a) ∧
          bitsAt (s.plainRead a) f.lo f.w = (if f.acc = .wo then 0 else old) ∧
          u.rd g = (if f.acc = .rc ∧ m ≠ .debugger ∧ hit = 0 then 0 else old)) ∧
      (regFields a = none → Does (.registerWrite m addr size v x t) s (answers .done) ∧
        Does (.registerRead m addr size t) s (answers (.ok 0)))) ∧
    (s.mayAccess m = true → s.mayReach m a = true → accepted → block = 0x107 →
      Does (.registerWrite m addr size v x t) s (answers .done)) ∧
    (s.mayAccess (.hart h) = true → 4 ≤ h.val ∨ s.mode (hartStand h) = modeSplit →
      Does (write 0x10D00004 x) s (answers .storeFault)) ∧
    (s.mayAccess (.hart h) = true → h.val < 4 → s.mode (hartStand h) ≠ modeSplit →
      is 0x10F00004 0x42000001 (.bistStart t) ∧ is 0x10F00004 0x42000002 (.bistAbort t) ∧
      is 0x10F00004 0x42000003 (.bistDepot t) ∧ is 0x10400034 0x46000001 (.fillStart t) ∧
      is 0x10400034 0x46000002 (.fillAbort x t) ∧ is 0x10400800 0x54000001 (.writeRaw t) ∧
      is 0x10400800 0x54000003 (.encodeRow t) ∧ is 0x10900008 0x5254 (.rootwayReset t) ∧
      is (0x10A01010 + 0x1000 * e.val) 0x5254 (.portReset ⟨e.val, Nat.lt_of_lt_of_le e.isLt (by decide)⟩ t) ∧
      is 0x10C00210 0x52000001 (.recordReadStart false t) ∧ is 0x10C00210 0x52000005 (.recordReadStart true t) ∧
      is (0x10301000 + 0x1000 * e.val) 0x4C000001 (.leLoad e t) ∧
      Does (write 0x10F00004 0x43000001) s (fun u => u = { s with now := t, hits := u.hits, resp := .done, out := [] }))

/-! ### Where commands complete -/

/-- R13, R14, R16, R110: a word that a running hart writes to a register of a block open to it lands in each writable
field, and a word that it reads shows the fields as they stand. Where the spec leaves a point open, the model's reading
stands (log entries 83, 25, 26, 59, 65, 73, 74). -/
def Obligations.RegisterAccessesComplete : Prop :=
  ∀ (s : State) (h : Fin 12) (addr : BitVec 36) (v : BitVec 32) (fs : List RowField) (f : RowField) (x t : Nat),
    let a := addr.toNat
    let g : Fld := Fld.at a f.lo f.w f.rst
    let plain := a / 0x100000 = 0x105 ∨ (a / 0x100000 = 0x101 ∧ a % 0x100000 ≠ 4 ∧ a % 0x100000 ≠ 0x40 ∧ a % 0x100000 ≠ 0x44)
    (s.hartRuns h = true → s.deviceOpen h a = true → a % 4 = 0 → plain → regFields a = some fs → f ∈ fs → f.acc = .rw →
      Does (.registerWrite (.hart h) addr 2 v x t) s fun u => u.rd g = bitsAt v.toNat f.lo f.w ∧ u.resp = .done) ∧
    (s.hartRuns h = true → s.deviceOpen h a = true → a % 4 = 0 → plain → regFields a = some fs →
      Does (.registerRead (.hart h) addr 2 t) s fun u => u.resp = .ok (s.plainRead a))

/-- R163, R164, R210, R216 to R218, R222, R229 to R235, R503: the commands of stands and of the debug transport to a
logic engine, each where it has its own effect: a restart, warm or cold, by a command or by the function reset, that
begins; a stop that is asked; the end of a restart; Nap; a load that reads and a store that reaches the host window; a
force that is taken; the halt, the breakpoint, the steps, the resume, and the reads and writes of an engine's
registers. Where the spec leaves a point open, the model's reading stands (log entries 83, 25, 26, 59, 65, 73, 74). -/
def Obligations.EngineCommandsComplete : Prop :=
  ∀ (s : State) (e : Fin 4) (hart : Fin 12) (addr : BitVec 36) (size : Fin 4) (v : BitVec 64) (i : Fin 256)
    (w : BitVec 32) (x : LeReg) (y : LeWrite) (k : Nat) (p : Prog) (a b : Nat) (rest : List Nat) (gap t : Nat),
    let r := s.engine e
    let restarts (cause : Nat) (u : State) : Prop := u.leState e = leRestarting ∧ u.rd (LE_Ee_RESTART_CAUSE e) = cause ∧
      (u.engine e).prog = some p ∧ (u.engine e).executing = false
    let at_ := addr.toNat
    let n := 2 ^ size.val
    let window := 0x20200000 + 0x400000 * e.val + s.winBase e
    let staged (u : State) : Prop := u.resp = .done ∧ ∀ j, j < n → (u.engine e).staging.getD (at_ - window + j) 0 =
      BitVec.ofNat 8 (v.toNat / 256 ^ j)
    let width := if bitAt w.toNat 20 then 4 else 1
    let live := s.leState e = leRunning ∨ s.leState e = leStopped ∨ s.leState e = leFaulted
    let halts (why : Nat) (u : State) : Prop := u.leState e = leHalted ∧ u.rd (LE_Ee_DBG_STAT_WHY e) = why
    (live → r.prog = some p → s.rd (LE_Ee_STAT_SHADOW e) = 0 → s.usableLanes e = a :: b :: rest →
      Does (.leWarm e t) s (restarts 1)) ∧
    (live → r.prog = some p → s.rd (LE_Ee_STAT_SHADOW e) = 0 → s.usableLanes e = a :: b :: rest →
      Does (.leCold e t) s fun u => restarts 1 u ∧ u.rd (LE_Ee_RESTART_KIND e) = 1) ∧
    (r.prog = some p → s.rd (LE_Ee_STAT_SHADOW e) = 0 → s.usableLanes e = a :: b :: rest →
      Does (.engineFunctionReset e t) s (restarts 2)) ∧
    (s.leState e = leRunning → Does (.leStop e t) s fun u => (u.engine e).stop = true) ∧
    (s.leState e = leRestarting → r.restart.isSome = true → r.await = false → Does (.restartComplete e t) s fun u =>
      (u.engine e).await = true ∧ u.rd (LE_Ee_STAT_RSTEV e) = 1) ∧
    (s.flag PWR_POL_NAPENG = true → s.leState e = leStopped → max (tblGet 0 e s.pmg.idleAt) s.pw.start.at_ + 1000000 ≤ t →
      s.rd (PWR_UNIT_UNIT (4 + e)) = 0 → Does (.leNapEntry e t) s fun u => u.rd (PWR_UNIT_UNIT (4 + e)) = 2) ∧
    (s.hartRuns hart = true → 0x20000000 + 0x400000 * e.val ≤ at_ → at_ + n ≤ 0x20280000 + 0x400000 * e.val → at_ % n = 0 →
      s.rowErr (leRowOf e (at_ % 0x400000)).1 (leRowOf e (at_ % 0x400000)).2 = 0 →
      Does (.standLeMemoryAccess hart addr size none t) s fun u => u.resp = .ok (leNat (s.leBytesAt at_ n))) ∧
    (s.hartRuns hart = true → s.hartSplit hart = false → at_ % n = 0 → window ≤ at_ → at_ + n ≤ window + s.winSize e →
      at_ + n ≤ 0x20280000 + 0x400000 * e.val → Does (.standLeMemoryAccess hart addr size (some v) t) s staged) ∧
    (s.hartRuns hart = true → s.hartSplit hart = false → at_ % n = 0 → window ≤ at_ → at_ + n ≤ window + s.winSize e →
      at_ + n ≤ 0x20280000 + 0x400000 * e.val → Does (.hostWindowWrite hart addr size v t) s staged) ∧
    (s.pw.phase = .running → bitAt w.toNat 31 = true → bitsAt w.toNat 0 14 % 4 = 0 →
      s.coversSafe (bitsAt w.toNat 0 14) width (bitsAt w.toNat 16 3) = false → Does (.forceCommit e i w t) s fun u =>
      u.force e i = some ⟨bitsAt w.toNat 0 14, width, bitsAt w.toNat 16 3, s.rd (LE_Ee_FRCi_VAL_VALUE e i)⟩) ∧
    (s.dbg = .engine e → s.leState e = leRunning → Does (.leHalt e t) s (halts 0)) ∧
    (s.leCan e = true → s.flag (LE_Ee_BRKi_EN e 0) = true → s.flag (LE_Ee_BRKi_CYC e 0) = false →
      s.rd (LE_Ee_BRKi_INDEX e 0) = r.pc → Does (.leBreakpoint e t) s (halts 1)) ∧
    (s.dbg = .engine e → s.leState e = leHalted → r.executing = true → FetchSound s e → s.leInBody e r.pc = true →
      s.leWordAt e (s.leBank e) r.pc = 0x38000000 → Does (.leStep e gap t) s fun u => halts 3 u ∧
      (u.engine e).ba = !r.ba ∧ (u.engine e).pc = r.pc + 1) ∧
    (s.dbg = .engine e → s.leState e = leRunning → Does (.leStepcyc e gap t) s fun u => (u.engine e).want = .cycle) ∧
    (s.dbg = .engine e → s.leState e = leHalted → r.executing = true → Does (.leResume e gap t) s fun u =>
      u.leState e = leRunning ∧ u.rd (LE_Ee_DBG_STAT_HALTED e) = 0) ∧
    (s.dbg = .engine e → s.leState e = leHalted → r.replay.length < 32 → (∀ o q, y ≠ .data o q) →
      Does (.debugWriteEngine e y t) s fun u => u.resp = .done ∧ (u.engine e).replay = r.replay ++ [y]) ∧
    (s.dbg = .engine e → debugGet r x = some k → Does (.debugReadEngine e x t) s fun u => u.resp = .ok k)

/-- R400, R404, R410 to R413, R416, R417, R419 to R425: the commands of Rootway's target and of the understory ports,
each where it has its own effect: a message of another node that an aperture serves, a lock that expires, an aperture
that is enabled; a frame that comes through a tunnel or from a line, one that is sent or has been sent, a port that is
enabled, disabled, reset, or recovers, and a change of its line. Where the spec leaves a point open, the model's
reading stands (log entries 83, 25, 26, 59, 65, 73, 74). -/
def Obligations.UnitCommandsComplete : Prop :=
  ∀ (s : State) (p : Fin 6) (c : Fin 2) (b : Fin 4) (k : Fin 32) (msg : Bool) (body frame m : List Byte) (pt n : Nat)
    (busoff passive : Bool) (tec rec : BitVec 8) (tail : BitVec 24) (cfg : BitVec 32) (plane : Fin 2) (node : Fin 129)
    (l : RwLock) (t : Nat),
    let w := 2 ^ rmSize m
    let addr := s.aperBase (rmAper m) + rmOff m
    let data := leAt 16 8 m % 2 ^ (8 * w)
    let serves (op : Nat) := rmOp m = op ∧ (s.begin t).aperJudge node m = 0 ∧ s.rwy.resetting = false ∧
      s.pw.phase = .running ∧ s.rd PWR_STAT_STATE ≠ 2 ∧ s.rwMaySend = false ∧ s.rwy.ops = [] ∧ s.rwy.stall = []
    let sound := NoSoft s ∧ s.inRegion addr w = false ∧ RangeSound s (addr / 64 * 64) 128 ∧ inStaging addr w = false
    let read := leNat (s.bytes addr w)
    let answer (op : Nat) (d : Option Nat) (u : State) : Prop :=
      u.rwy.out.map (·.bytes) = s.rwy.out.map (·.bytes) ++ [rwMessage op (rmSize m) 0 (rmAper m) 0 (rmOff m) (rmTag m) d]
    let held := s.lockOf (rmAper m) = some ⟨node, l.at_⟩
    let runs := s.ustPowered = true ∧ (s.uport p).resetting = false ∧ s.rd (UST_Pp_CFG_EN p) = 1
    let quiet := s.txUsed p = 0 ∧ s.tunnelsFor p = []
    let base := 8 * s.rd (UST_Pp_RXBASE_OFF p)
    let size := 8 * s.rd (UST_Pp_RXSIZE_SIZE p)
    let head := 8 * s.rd (UST_Pp_RXHEAD_OFF p)
    let tl := 8 * s.rd (UST_Pp_RXTAIL_OFF p)
    let r := tunnelHeader 0xFF (s.ptype p msg) 0 body.length (s.uport p).seq t ++ body
    let r := padTo ((r.length + 7) / 8 * 8) r
    let pay := frPayload frame
    let v := s.begin t
    let z := v.wr (UST_Pp_TXTAIL_OFF p) (tail.toNat / 8)
    (serves 7 → Does (.rwPoll plane node m t) s (answer 8 (some (s.rd (RWY_Aa_DOOR (rmAper m)))))) ∧
    (serves 1 → s.lockOf (rmAper m) = none → RangeSound s addr w → Does (.rwRead plane node m t) s (answer 8 (some read))) ∧
    (serves 2 → sound → Does (.rwWrite plane node m t) s fun u => Stored addr (leBytes w data) s u ∧ answer 9 none u) ∧
    (serves 3 → held → s.rwy.hold = false → RangeSound s addr w → Does (.rwLockrd plane node m t) s fun u =>
      u.lockOf (rmAper m) = some ⟨node, t⟩ ∧ answer 8 (some read) u) ∧
    (serves 4 → held → sound → Does (.rwWrunlk plane node m t) s fun u =>
      Stored addr (leBytes w data) s u ∧ u.lockOf (rmAper m) = none ∧ answer 8 (some 0) u) ∧
    (serves 6 → rmFn m = 1 → held → s.rwy.hold = false → sound → Does (.rwAmo plane node m t) s fun u =>
      Stored addr (leBytes w data) s u ∧ answer 8 (some read) u) ∧
    (serves 5 → held → Does (.rwUnlock plane node m t) s fun u => u.lockOf (rmAper m) = none) ∧
    (s.rwy.ops = [] → s.rwy.stall = [] → s.lockOf b = some l → l.at_ + 100000 ≤ t → Does (.lockExpiry b t) s fun u =>
      u.lockOf b = none ∧ u.rd RWY_STAT_LKTMOEV = 1) ∧
    (s.pw.phase = .running → bitAt cfg.toNat 0 = true → aperOk (s.aperBase b) (bitsAt cfg.toNat 6 5) = true →
      Does (.apertureEnable b cfg t) s fun u => u.rd (RWY_Aa_CFG_EN b) = 1 ∧ u.rd (RWY_Aa_CFG_CFGERR b) = 0) ∧
    (frKind frame = frTunnel → leAt 0 1 pay = k → s.ustPowered = true → s.rd (UST_TUNt_CFG_EN k) = 1 →
      s.rd (UST_TUNt_STAT_RESOLVED k) = 1 → s.rd (UST_TUNt_STAT_NODE k) = frSender frame → bitsAt (leAt 2 1 pay) 0 4 = 0 →
      leAt 4 2 pay = (pay.drop 16).length → (s.tunnel k).part = none → (s.tunnel k).home = [] →
      s.portSendsNow (s.rd (UST_TUNt_CFG_PORT k)) = false → Does (.tunnelFrame frame t) s fun u =>
      (u.tunnel k).home = [⟨leAt 1 1 pay, leAt 6 2 pay, leAt 8 8 pay, pay.drop 16⟩]) ∧
    (runs → s.portTakes p msg body = true → (∀ j : Fin 32, s.rd (UST_TUNt_CFG_EN j) = 0) → 4096 ≤ size → tl < size →
      head + r.length ≤ size → (head + size - tl) % size + r.length < size → base + size ≤ stagingOff →
      RangeSound s (sramBase + base + head) r.length → Does (.portFrameReceive p msg body true t) s fun u => Stored (sramBase + base + head) r s u ∧
        u.rd (UST_Pp_RXHEAD_OFF p) = (head + r.length) % size / 8) ∧
    (z.portSendsNow p = true → z.txRecord p = some (pt, body, n) → 0 < z.txUsed p → z.tunnelsFor p = [] → 3 ≤ p.val →
      Does (.txRingWrite p tail t) s fun u => u.out = [.under p body] ∧ u.rd (UST_Pp_TXTAIL_OFF p) = tail.toNat / 8) ∧
    ((s.uport p).sending = .other → quiet → Does (.portFrameTransmitted p t) s fun u => (u.uport p).sending = .idle) ∧
    (s.pw.phase = .running → s.rd (UST_Pp_CFG_EN p) = 0 → quiet → Does (.portEnable p cfg t) s fun u =>
      u.rd (UST_Pp_CFG_EN p) = 1) ∧
    (s.rd (UST_Pp_CFG_EN p) = 1 → Does (.portDisable p t) s fun u => u.rd (UST_Pp_CFG_EN p) = 0) ∧
    (s.pw.phase = .running → Does (.portReset p t) s fun u => (u.uport p).resetting = true) ∧
    ((s.uport p).resetting = true → quiet → Does (.portResetDone p t) s fun u => (u.uport p).resetting = false) ∧
    (p.val = c.val → runs → quiet → s.rd (UST_Pp_STAT_BUSOFF p) = 1 → s.rd (UST_Pp_CFG_BOAUTO p) = 1 →
      Does (.busoffRecovery c t) s fun u => u.rd (UST_Pp_STAT_UP p) = 1 ∧ u.rd (UST_Pp_STAT_BUSOFF p) = 0) ∧
    (p.val < 2 → runs → quiet → Does (.portStateChange p true passive busoff false false tec rec 0 t) s fun u =>
      u.rd (UST_Pp_STAT_UP p) = b2n (!busoff) ∧ u.rd (UST_Pp_STAT_TEC p) = tec.toNat ∧
      u.rd (UST_Pp_STAT_REC p) = rec.toNat)

/-- R500 to R508, R511, R516, R524: the power commands, each where it has its own effect: a stand goes to Doze and
wakes; REST, SLUMBER and HIBERNATE begin an entry, CANCEL ends one; a wake ends Slumber, and its exit is done; the
copies of global time are set. Where the spec leaves a point open, the model's reading stands (log entries 83, 25, 26,
59, 65, 73, 74). -/
def Obligations.PowerCommandsComplete : Prop :=
  ∀ (s : State) (k : Fin 4) (l : LowPower) (w t : Nat),
    let v := s.begin t
    let fits (n : Option Nat) (cost : Nat) : Prop := n.all (fun d => decide (t + s.rd PWR_POL_GUARD * 1000 + cost ≤ d)) = true
    let zero := s.hartRuns 0 = true ∧ s.deviceOpen 0 0x10100000 = true ∧ s.pw.phase = .running
    let free (hib : Bool) := s.loaded = true ∧ s.rd PWR_STAT_POLERR = 0 ∧ s.rd PWR_POL_MAXMOD = (if hib then 2 else 1) ∧
      s.lowBlocked = false ∧ s.pmg.low = none ∧ v.wakePending hib = false
    let enters (hib : Bool) (u : State) : Prop := u.pmg.low = some ⟨hib, t, false, false, false, false⟩ ∧
      u.rd PWR_STAT_STATE = (if hib then 4 else 1) ∧ u.resp = .done
    (s.standUp k = true → s.standState k = stRunning → s.rd (PWR_UNIT_UNIT k) = 0 → (s.stand k).request = none →
      (s.stand k).run = none → (v.setStand k { s.stand k with wfi := true }).standCalled k = false → v.justPended k = false →
      s.rd PWR_POL_MAXUNIT = 1 → fits ((v.setStand k { s.stand k with wfi := true }).standNext k) 2100 →
      Does (.standWfi k t) s fun u => (u.stand k).wfi = true ∧ u.rd (PWR_UNIT_UNIT k) = 1) ∧
    (s.standUp k = true → s.rd (PWR_UNIT_UNIT k) = 1 → (s.stand k).wakeAt = some w → w ≤ t →
      Does (.unitWake k t) s fun u => u.rd (PWR_UNIT_UNIT k) = 0 ∧ (u.stand k).wakeAt = none) ∧
    (zero → free false → Does (.pwrSlumber 0 t) s (enters false)) ∧
    (zero → free true → Does (.pwrHibernate 0 t) s (enters true)) ∧
    (zero → free false → fits s.moduleNext (90000000 + s.depotNs) →
      Does (.pwrRest 0 t) s (enters false)) ∧
    (zero → s.pmg.low = some l → l.reached = false → l.woken = false → v.lowStepDone l = true → Does (.pwrCancel 0 t) s fun u =>
      u.pmg.low = none ∧ u.rd PWR_STAT_STATE = 0 ∧ u.rd PWR_STAT_ERR = 6) ∧
    (s.rd PWR_WAKE_EN % 2 = 1 → s.wakeTimer = some w → w ≤ t → s.pw.phase = .running → s.pmg.low = some l → l.reached = true →
      l.hib = false → l.woken = false → s.rd PWR_STAT_STATE = 2 → Does (.pwrWake 0 t) s fun u =>
      u.rd PWR_STAT_STATE = 3 ∧ u.rd PWR_WAKESRC_SRC = 1) ∧
    (s.rd PWR_STAT_STATE = 3 → Does (.slumberExitDone t) s fun u => u.rd PWR_STAT_STATE = 0 ∧ u.pmg.low = none ∧
      u.rd (PWR_UNIT_UNIT k) = 0) ∧
    (s.pw.phase = .running → Does (.timeRealign t) s fun u =>
      u.pmg.copies = (if s.pmg.stepDue = true then t else max t s.pmg.copies))
end

