-- ==== Sys2Proof/Laws/Tbl.lean ====
section
/-!
SUPPORT. Sparse tables: what a key reads as after each operation, and that every operation keeps the canonical form.
The reading laws hold of every list; only equality of tables as data needs the canonical form.
-/

namespace Sys2Proof.Machine

@[simp] theorem tblFind_nil {α : Type} (k : Nat) : tblFind k ([] : Tbl α) = none := rfl

theorem tblFind_cons {α : Type} (k j : Nat) (v : α) (r : Tbl α) :
    tblFind k ((j, v) :: r) = if j = k then some v else tblFind k r := rfl

@[simp] theorem tblFind_put_same {α : Type} (k : Nat) (v : α) (m : Tbl α) : tblFind k (tblPut k v m) = some v := by
  induction m with
  | nil => simp [tblPut, tblFind]
  | cons e r ih =>
    obtain ⟨j, w⟩ := e
    simp only [tblPut]
    split_ifs with h1 h2
    · simp [tblFind]
    · simp [tblFind]
    · simp [tblFind, h2, ih]

theorem tblFind_put_ne {α : Type} {k i : Nat} (h : i ≠ k) (v : α) (m : Tbl α) :
    tblFind i (tblPut k v m) = tblFind i m := by
  induction m with
  | nil => simp [tblPut, tblFind, Ne.symm h]
  | cons e r ih =>
    obtain ⟨j, w⟩ := e
    simp only [tblPut]
    split_ifs with h1 h2
    · simp [tblFind, Ne.symm h]
    · subst h2; simp [tblFind, Ne.symm h]
    · simp [tblFind, ih]

theorem tblFind_keep {α : Type} (p : Nat → Bool) (k : Nat) (m : Tbl α) :
    tblFind k (tblKeep p m) = if p k then tblFind k m else none := by
  induction m with
  | nil => simp [tblKeep]
  | cons e r ih =>
    obtain ⟨j, w⟩ := e
    have ih' : tblFind k (List.filter (fun e => p e.1) r) = if p k then tblFind k r else none := ih
    simp only [tblKeep, List.filter_cons]
    split_ifs with h1 h2 h2
    · by_cases hj : j = k <;> simp_all [tblFind]
    · have : j ≠ k := by rintro rfl; exact h2 h1
      simp_all [tblFind]
    · have : j ≠ k := by rintro rfl; exact h1 h2
      simp_all [tblFind]
    · simpa [h2] using ih'

theorem tblDel_eq_keep {α : Type} (k : Nat) (m : Tbl α) : tblDel k m = tblKeep (fun j => j != k) m := rfl

@[simp] theorem tblFind_del_same {α : Type} (k : Nat) (m : Tbl α) : tblFind k (tblDel k m) = none := by
  simp [tblDel_eq_keep, tblFind_keep]

theorem tblFind_del_ne {α : Type} {k i : Nat} (h : i ≠ k) (m : Tbl α) : tblFind i (tblDel k m) = tblFind i m := by
  simp [tblDel_eq_keep, tblFind_keep, h]

@[simp] theorem tblGet_set_same {α : Type} [DecidableEq α] (d : α) (k : Nat) (v : α) (m : Tbl α) :
    tblGet d k (tblSet d k v m) = v := by
  unfold tblGet tblSet
  split_ifs with h
  · simp [h]
  · simp

theorem tblFind_set_ne {α : Type} [DecidableEq α] {k i : Nat} (h : i ≠ k) (d v : α) (m : Tbl α) :
    tblFind i (tblSet d k v m) = tblFind i m := by
  unfold tblSet
  split_ifs
  · exact tblFind_del_ne h m
  · exact tblFind_put_ne h v m

theorem tblGet_set_ne {α : Type} [DecidableEq α] {k i : Nat} (h : i ≠ k) (c d v : α) (m : Tbl α) :
    tblGet c i (tblSet d k v m) = tblGet c i m := by
  simp [tblGet, tblFind_set_ne h]

/-! ### The canonical form -/

theorem tblWf_iff {α : Type} (m : Tbl α) : tblWf m = true ↔ m.Pairwise (fun a b => a.1 < b.1) := by
  simp [tblWf, List.pairwise_map]

@[simp] theorem tblWf_nil {α : Type} : tblWf ([] : Tbl α) = true := rfl

theorem tblWf_filter {α : Type} {m : Tbl α} (p : Nat × α → Bool) (h : tblWf m = true) :
    tblWf (m.filter p) = true := by
  rw [tblWf_iff] at *
  exact h.filter p

theorem tblWf_keep {α : Type} {m : Tbl α} (p : Nat → Bool) (h : tblWf m = true) : tblWf (tblKeep p m) = true :=
  tblWf_filter _ h

theorem tblWf_del {α : Type} {m : Tbl α} (k : Nat) (h : tblWf m = true) : tblWf (tblDel k m) = true :=
  tblWf_filter _ h

theorem mem_tblPut {α : Type} {k : Nat} {v : α} {m : Tbl α} {e : Nat × α} (h : e ∈ tblPut k v m) :
    e = (k, v) ∨ e ∈ m := by
  induction m with
  | nil => simpa [tblPut] using h
  | cons x r ih =>
    obtain ⟨j, w⟩ := x
    simp only [tblPut] at h
    split_ifs at h
    · simpa using h
    · simp only [List.mem_cons] at h ⊢; tauto
    · simp only [List.mem_cons] at h ⊢
      rcases h with h | h
      · tauto
      · rcases ih h with h | h <;> tauto

theorem tblWf_put {α : Type} {m : Tbl α} (k : Nat) (v : α) (h : tblWf m = true) : tblWf (tblPut k v m) = true := by
  rw [tblWf_iff] at *
  induction m with
  | nil => simp [tblPut]
  | cons x r ih =>
    obtain ⟨j, w⟩ := x
    rw [List.pairwise_cons] at h
    simp only [tblPut]
    split_ifs with h1 h2
    · rw [List.pairwise_cons, List.pairwise_cons]
      refine ⟨fun e he => ?_, h.1, h.2⟩
      rcases List.mem_cons.1 he with rfl | he
      · exact h1
      · exact lt_trans h1 (h.1 e he)
    · subst h2
      rw [List.pairwise_cons]
      exact h
    · rw [List.pairwise_cons]
      refine ⟨fun e he => ?_, ih h.2⟩
      rcases mem_tblPut he with rfl | he
      · show j < k
        omega
      · exact h.1 e he

theorem tblWf_set {α : Type} [DecidableEq α] {m : Tbl α} (d : α) (k : Nat) (v : α) (h : tblWf m = true) :
    tblWf (tblSet d k v m) = true := by
  unfold tblSet
  split_ifs
  · exact tblWf_del k h
  · exact tblWf_put k v h

/-- Storing the default never lists it. -/
theorem tblSet_free {α : Type} [DecidableEq α] {m : Tbl α} {d : α} (k : Nat) (v : α) (h : ∀ e ∈ m, e.2 ≠ d) :
    ∀ e ∈ tblSet d k v m, e.2 ≠ d := by
  intro e he
  unfold tblSet at he
  split_ifs at he with hv
  · exact h e (List.mem_of_mem_filter he)
  · rcases mem_tblPut he with rfl | he
    · exact hv
    · exact h e he

/-- Canonical tables that read alike are equal. -/
theorem tbl_ext {α : Type} {m n : Tbl α} (hm : tblWf m = true) (hn : tblWf n = true)
    (h : ∀ k, tblFind k m = tblFind k n) : m = n := by
  rw [tblWf_iff] at hm hn
  have key : ∀ {r : Tbl α} {j : Nat}, (∀ e ∈ r, j < e.1) → tblFind j r = none := by
    intro r j hr
    induction r with
    | nil => rfl
    | cons x r ih =>
      obtain ⟨i, w⟩ := x
      have := hr (i, w) (by simp)
      rw [tblFind_cons, if_neg (by simp at this; omega)]
      exact ih fun e he => hr e (by simp [he])
  induction m generalizing n with
  | nil =>
    cases n with
    | nil => rfl
    | cons x r => obtain ⟨i, w⟩ := x; have := h i; simp [tblFind_cons] at this
  | cons x r ih =>
    obtain ⟨j, v⟩ := x
    cases n with
    | nil => have h1 := h j; simp [tblFind_cons] at h1
    | cons y r' =>
      obtain ⟨i, w⟩ := y
      rw [List.pairwise_cons] at hm hn
      have hj : j = i := by
        rcases lt_trichotomy j i with hlt | heq | hgt
        · have h1 := h j
          rw [tblFind_cons, if_pos rfl, tblFind_cons, if_neg (by omega),
            key fun e he => lt_trans hlt (hn.1 e he)] at h1
          cases h1
        · exact heq
        · have h1 := h i
          rw [tblFind_cons, if_neg (by omega), tblFind_cons, if_pos rfl,
            key fun e he => lt_trans hgt (hm.1 e he)] at h1
          cases h1
      subst hj
      have hv : v = w := by have := h j; simpa [tblFind_cons] using this
      subst hv
      rw [ih hm.2 hn.2 fun k => ?_]
      by_cases hk : j = k
      · subst hk
        rw [key fun e he => hm.1 e he, key fun e he => hn.1 e he]
      · simpa [tblFind_cons, hk] using h k

end Sys2Proof.Machine
end

