-- ==== Sys2Proof/Laws/State.lean ====
section
/-!
SUPPORT. What the named updates of the state leave as it was, one lemma a field of the state, and what a register field
and an entry of a sub-table read as after an update. The lemmas are simp lemmas: a proof about a command never unfolds a
record update.
-/

namespace Sys2Proof.Machine

/-! ### Fields of the state under each update -/

@[simp] theorem State.begin_pending (s : State) (t : Nat) : (s.begin t).pending = s.pending := rfl
@[simp] theorem State.begin_regs (s : State) (t : Nat) : (s.begin t).regs = s.regs := rfl
@[simp] theorem State.begin_mem (s : State) (t : Nat) : (s.begin t).mem = s.mem := rfl
@[simp] theorem State.begin_leMem (s : State) (t : Nat) : (s.begin t).leMem = s.leMem := rfl
@[simp] theorem State.begin_fresh (s : State) (t : Nat) : (s.begin t).fresh = s.fresh := rfl
@[simp] theorem State.begin_pw (s : State) (t : Nat) : (s.begin t).pw = s.pw := rfl
@[simp] theorem State.begin_rcd (s : State) (t : Nat) : (s.begin t).rcd = s.rcd := rfl
@[simp] theorem State.begin_std (s : State) (t : Nat) : (s.begin t).std = s.std := rfl
@[simp] theorem State.begin_lko (s : State) (t : Nat) : (s.begin t).lko = s.lko := rfl
@[simp] theorem State.begin_dbg (s : State) (t : Nat) : (s.begin t).dbg = s.dbg := rfl
@[simp] theorem State.begin_cop (s : State) (t : Nat) : (s.begin t).cop = s.cop := rfl
@[simp] theorem State.begin_ecc (s : State) (t : Nat) : (s.begin t).ecc = s.ecc := rfl
@[simp] theorem State.begin_io (s : State) (t : Nat) : (s.begin t).io = s.io := rfl
@[simp] theorem State.begin_eng (s : State) (t : Nat) : (s.begin t).eng = s.eng := rfl
@[simp] theorem State.begin_rng (s : State) (t : Nat) : (s.begin t).rng = s.rng := rfl
@[simp] theorem State.begin_key (s : State) (t : Nat) : (s.begin t).key = s.key := rfl
@[simp] theorem State.begin_cnp (s : State) (t : Nat) : (s.begin t).cnp = s.cnp := rfl
@[simp] theorem State.begin_fab (s : State) (t : Nat) : (s.begin t).fab = s.fab := rfl
@[simp] theorem State.begin_cvu (s : State) (t : Nat) : (s.begin t).cvu = s.cvu := rfl
@[simp] theorem State.begin_rwy (s : State) (t : Nat) : (s.begin t).rwy = s.rwy := rfl
@[simp] theorem State.begin_ust (s : State) (t : Nat) : (s.begin t).ust = s.ust := rfl
@[simp] theorem State.begin_fwu (s : State) (t : Nat) : (s.begin t).fwu = s.fwu := rfl
@[simp] theorem State.begin_pmg (s : State) (t : Nat) : (s.begin t).pmg = s.pmg := rfl

@[simp] theorem State.fresh0_pending (s : State) : (s.fresh0).pending = s.pending := rfl
@[simp] theorem State.fresh0_now (s : State) : (s.fresh0).now = s.now := rfl
@[simp] theorem State.fresh0_regs (s : State) : (s.fresh0).regs = s.regs := rfl
@[simp] theorem State.fresh0_hits (s : State) : (s.fresh0).hits = s.hits := rfl
@[simp] theorem State.fresh0_mem (s : State) : (s.fresh0).mem = s.mem := rfl
@[simp] theorem State.fresh0_leMem (s : State) : (s.fresh0).leMem = s.leMem := rfl
@[simp] theorem State.fresh0_fresh (s : State) : (s.fresh0).fresh = s.fresh := rfl
@[simp] theorem State.fresh0_pw (s : State) : (s.fresh0).pw = s.pw := rfl
@[simp] theorem State.fresh0_rcd (s : State) : (s.fresh0).rcd = s.rcd := rfl
@[simp] theorem State.fresh0_std (s : State) : (s.fresh0).std = s.std := rfl
@[simp] theorem State.fresh0_lko (s : State) : (s.fresh0).lko = s.lko := rfl
@[simp] theorem State.fresh0_dbg (s : State) : (s.fresh0).dbg = s.dbg := rfl
@[simp] theorem State.fresh0_cop (s : State) : (s.fresh0).cop = s.cop := rfl
@[simp] theorem State.fresh0_ecc (s : State) : (s.fresh0).ecc = s.ecc := rfl
@[simp] theorem State.fresh0_io (s : State) : (s.fresh0).io = s.io := rfl
@[simp] theorem State.fresh0_eng (s : State) : (s.fresh0).eng = s.eng := rfl
@[simp] theorem State.fresh0_rng (s : State) : (s.fresh0).rng = s.rng := rfl
@[simp] theorem State.fresh0_key (s : State) : (s.fresh0).key = s.key := rfl
@[simp] theorem State.fresh0_cnp (s : State) : (s.fresh0).cnp = s.cnp := rfl
@[simp] theorem State.fresh0_fab (s : State) : (s.fresh0).fab = s.fab := rfl
@[simp] theorem State.fresh0_cvu (s : State) : (s.fresh0).cvu = s.cvu := rfl
@[simp] theorem State.fresh0_rwy (s : State) : (s.fresh0).rwy = s.rwy := rfl
@[simp] theorem State.fresh0_ust (s : State) : (s.fresh0).ust = s.ust := rfl
@[simp] theorem State.fresh0_fwu (s : State) : (s.fresh0).fwu = s.fwu := rfl
@[simp] theorem State.fresh0_pmg (s : State) : (s.fresh0).pmg = s.pmg := rfl

@[simp] theorem State.answer_pending (s : State) (r : Resp) : (s.answer r).pending = s.pending := rfl
@[simp] theorem State.answer_now (s : State) (r : Resp) : (s.answer r).now = s.now := rfl
@[simp] theorem State.answer_regs (s : State) (r : Resp) : (s.answer r).regs = s.regs := rfl
@[simp] theorem State.answer_hits (s : State) (r : Resp) : (s.answer r).hits = s.hits := rfl
@[simp] theorem State.answer_mem (s : State) (r : Resp) : (s.answer r).mem = s.mem := rfl
@[simp] theorem State.answer_leMem (s : State) (r : Resp) : (s.answer r).leMem = s.leMem := rfl
@[simp] theorem State.answer_out (s : State) (r : Resp) : (s.answer r).out = s.out := rfl
@[simp] theorem State.answer_fresh (s : State) (r : Resp) : (s.answer r).fresh = s.fresh := rfl
@[simp] theorem State.answer_pw (s : State) (r : Resp) : (s.answer r).pw = s.pw := rfl
@[simp] theorem State.answer_rcd (s : State) (r : Resp) : (s.answer r).rcd = s.rcd := rfl
@[simp] theorem State.answer_std (s : State) (r : Resp) : (s.answer r).std = s.std := rfl
@[simp] theorem State.answer_lko (s : State) (r : Resp) : (s.answer r).lko = s.lko := rfl
@[simp] theorem State.answer_dbg (s : State) (r : Resp) : (s.answer r).dbg = s.dbg := rfl
@[simp] theorem State.answer_cop (s : State) (r : Resp) : (s.answer r).cop = s.cop := rfl
@[simp] theorem State.answer_ecc (s : State) (r : Resp) : (s.answer r).ecc = s.ecc := rfl
@[simp] theorem State.answer_io (s : State) (r : Resp) : (s.answer r).io = s.io := rfl
@[simp] theorem State.answer_eng (s : State) (r : Resp) : (s.answer r).eng = s.eng := rfl
@[simp] theorem State.answer_rng (s : State) (r : Resp) : (s.answer r).rng = s.rng := rfl
@[simp] theorem State.answer_key (s : State) (r : Resp) : (s.answer r).key = s.key := rfl
@[simp] theorem State.answer_cnp (s : State) (r : Resp) : (s.answer r).cnp = s.cnp := rfl
@[simp] theorem State.answer_fab (s : State) (r : Resp) : (s.answer r).fab = s.fab := rfl
@[simp] theorem State.answer_cvu (s : State) (r : Resp) : (s.answer r).cvu = s.cvu := rfl
@[simp] theorem State.answer_rwy (s : State) (r : Resp) : (s.answer r).rwy = s.rwy := rfl
@[simp] theorem State.answer_ust (s : State) (r : Resp) : (s.answer r).ust = s.ust := rfl
@[simp] theorem State.answer_fwu (s : State) (r : Resp) : (s.answer r).fwu = s.fwu := rfl
@[simp] theorem State.answer_pmg (s : State) (r : Resp) : (s.answer r).pmg = s.pmg := rfl

@[simp] theorem State.emit_pending (s : State) (m : Emission) : (s.emit m).pending = s.pending := rfl
@[simp] theorem State.emit_now (s : State) (m : Emission) : (s.emit m).now = s.now := rfl
@[simp] theorem State.emit_regs (s : State) (m : Emission) : (s.emit m).regs = s.regs := rfl
@[simp] theorem State.emit_hits (s : State) (m : Emission) : (s.emit m).hits = s.hits := rfl
@[simp] theorem State.emit_mem (s : State) (m : Emission) : (s.emit m).mem = s.mem := rfl
@[simp] theorem State.emit_leMem (s : State) (m : Emission) : (s.emit m).leMem = s.leMem := rfl
@[simp] theorem State.emit_resp (s : State) (m : Emission) : (s.emit m).resp = s.resp := rfl
@[simp] theorem State.emit_fresh (s : State) (m : Emission) : (s.emit m).fresh = s.fresh := rfl
@[simp] theorem State.emit_pw (s : State) (m : Emission) : (s.emit m).pw = s.pw := rfl
@[simp] theorem State.emit_rcd (s : State) (m : Emission) : (s.emit m).rcd = s.rcd := rfl
@[simp] theorem State.emit_std (s : State) (m : Emission) : (s.emit m).std = s.std := rfl
@[simp] theorem State.emit_lko (s : State) (m : Emission) : (s.emit m).lko = s.lko := rfl
@[simp] theorem State.emit_dbg (s : State) (m : Emission) : (s.emit m).dbg = s.dbg := rfl
@[simp] theorem State.emit_cop (s : State) (m : Emission) : (s.emit m).cop = s.cop := rfl
@[simp] theorem State.emit_ecc (s : State) (m : Emission) : (s.emit m).ecc = s.ecc := rfl
@[simp] theorem State.emit_io (s : State) (m : Emission) : (s.emit m).io = s.io := rfl
@[simp] theorem State.emit_eng (s : State) (m : Emission) : (s.emit m).eng = s.eng := rfl
@[simp] theorem State.emit_rng (s : State) (m : Emission) : (s.emit m).rng = s.rng := rfl
@[simp] theorem State.emit_key (s : State) (m : Emission) : (s.emit m).key = s.key := rfl
@[simp] theorem State.emit_cnp (s : State) (m : Emission) : (s.emit m).cnp = s.cnp := rfl
@[simp] theorem State.emit_fab (s : State) (m : Emission) : (s.emit m).fab = s.fab := rfl
@[simp] theorem State.emit_cvu (s : State) (m : Emission) : (s.emit m).cvu = s.cvu := rfl
@[simp] theorem State.emit_rwy (s : State) (m : Emission) : (s.emit m).rwy = s.rwy := rfl
@[simp] theorem State.emit_ust (s : State) (m : Emission) : (s.emit m).ust = s.ust := rfl
@[simp] theorem State.emit_fwu (s : State) (m : Emission) : (s.emit m).fwu = s.fwu := rfl
@[simp] theorem State.emit_pmg (s : State) (m : Emission) : (s.emit m).pmg = s.pmg := rfl

@[simp] theorem State.wr_pending (s : State) (f : Fld) (v : Nat) : (s.wr f v).pending = s.pending := rfl
@[simp] theorem State.wr_now (s : State) (f : Fld) (v : Nat) : (s.wr f v).now = s.now := rfl
@[simp] theorem State.wr_mem (s : State) (f : Fld) (v : Nat) : (s.wr f v).mem = s.mem := rfl
@[simp] theorem State.wr_leMem (s : State) (f : Fld) (v : Nat) : (s.wr f v).leMem = s.leMem := rfl
@[simp] theorem State.wr_resp (s : State) (f : Fld) (v : Nat) : (s.wr f v).resp = s.resp := rfl
@[simp] theorem State.wr_out (s : State) (f : Fld) (v : Nat) : (s.wr f v).out = s.out := rfl
@[simp] theorem State.wr_fresh (s : State) (f : Fld) (v : Nat) : (s.wr f v).fresh = s.fresh := rfl
@[simp] theorem State.wr_pw (s : State) (f : Fld) (v : Nat) : (s.wr f v).pw = s.pw := rfl
@[simp] theorem State.wr_rcd (s : State) (f : Fld) (v : Nat) : (s.wr f v).rcd = s.rcd := rfl
@[simp] theorem State.wr_std (s : State) (f : Fld) (v : Nat) : (s.wr f v).std = s.std := rfl
@[simp] theorem State.wr_lko (s : State) (f : Fld) (v : Nat) : (s.wr f v).lko = s.lko := rfl
@[simp] theorem State.wr_dbg (s : State) (f : Fld) (v : Nat) : (s.wr f v).dbg = s.dbg := rfl
@[simp] theorem State.wr_cop (s : State) (f : Fld) (v : Nat) : (s.wr f v).cop = s.cop := rfl
@[simp] theorem State.wr_ecc (s : State) (f : Fld) (v : Nat) : (s.wr f v).ecc = s.ecc := rfl
@[simp] theorem State.wr_io (s : State) (f : Fld) (v : Nat) : (s.wr f v).io = s.io := rfl
@[simp] theorem State.wr_eng (s : State) (f : Fld) (v : Nat) : (s.wr f v).eng = s.eng := rfl
@[simp] theorem State.wr_rng (s : State) (f : Fld) (v : Nat) : (s.wr f v).rng = s.rng := rfl
@[simp] theorem State.wr_key (s : State) (f : Fld) (v : Nat) : (s.wr f v).key = s.key := rfl
@[simp] theorem State.wr_cnp (s : State) (f : Fld) (v : Nat) : (s.wr f v).cnp = s.cnp := rfl
@[simp] theorem State.wr_fab (s : State) (f : Fld) (v : Nat) : (s.wr f v).fab = s.fab := rfl
@[simp] theorem State.wr_cvu (s : State) (f : Fld) (v : Nat) : (s.wr f v).cvu = s.cvu := rfl
@[simp] theorem State.wr_rwy (s : State) (f : Fld) (v : Nat) : (s.wr f v).rwy = s.rwy := rfl
@[simp] theorem State.wr_ust (s : State) (f : Fld) (v : Nat) : (s.wr f v).ust = s.ust := rfl
@[simp] theorem State.wr_fwu (s : State) (f : Fld) (v : Nat) : (s.wr f v).fwu = s.fwu := rfl
@[simp] theorem State.wr_pmg (s : State) (f : Fld) (v : Nat) : (s.wr f v).pmg = s.pmg := rfl

@[simp] theorem State.wrB_pending (s : State) (f : Fld) (b : Bool) : (s.wrB f b).pending = s.pending := rfl
@[simp] theorem State.wrB_now (s : State) (f : Fld) (b : Bool) : (s.wrB f b).now = s.now := rfl
@[simp] theorem State.wrB_mem (s : State) (f : Fld) (b : Bool) : (s.wrB f b).mem = s.mem := rfl
@[simp] theorem State.wrB_leMem (s : State) (f : Fld) (b : Bool) : (s.wrB f b).leMem = s.leMem := rfl
@[simp] theorem State.wrB_resp (s : State) (f : Fld) (b : Bool) : (s.wrB f b).resp = s.resp := rfl
@[simp] theorem State.wrB_out (s : State) (f : Fld) (b : Bool) : (s.wrB f b).out = s.out := rfl
@[simp] theorem State.wrB_fresh (s : State) (f : Fld) (b : Bool) : (s.wrB f b).fresh = s.fresh := rfl
@[simp] theorem State.wrB_pw (s : State) (f : Fld) (b : Bool) : (s.wrB f b).pw = s.pw := rfl
@[simp] theorem State.wrB_rcd (s : State) (f : Fld) (b : Bool) : (s.wrB f b).rcd = s.rcd := rfl
@[simp] theorem State.wrB_std (s : State) (f : Fld) (b : Bool) : (s.wrB f b).std = s.std := rfl
@[simp] theorem State.wrB_lko (s : State) (f : Fld) (b : Bool) : (s.wrB f b).lko = s.lko := rfl
@[simp] theorem State.wrB_dbg (s : State) (f : Fld) (b : Bool) : (s.wrB f b).dbg = s.dbg := rfl
@[simp] theorem State.wrB_cop (s : State) (f : Fld) (b : Bool) : (s.wrB f b).cop = s.cop := rfl
@[simp] theorem State.wrB_ecc (s : State) (f : Fld) (b : Bool) : (s.wrB f b).ecc = s.ecc := rfl
@[simp] theorem State.wrB_io (s : State) (f : Fld) (b : Bool) : (s.wrB f b).io = s.io := rfl
@[simp] theorem State.wrB_eng (s : State) (f : Fld) (b : Bool) : (s.wrB f b).eng = s.eng := rfl
@[simp] theorem State.wrB_rng (s : State) (f : Fld) (b : Bool) : (s.wrB f b).rng = s.rng := rfl
@[simp] theorem State.wrB_key (s : State) (f : Fld) (b : Bool) : (s.wrB f b).key = s.key := rfl
@[simp] theorem State.wrB_cnp (s : State) (f : Fld) (b : Bool) : (s.wrB f b).cnp = s.cnp := rfl
@[simp] theorem State.wrB_fab (s : State) (f : Fld) (b : Bool) : (s.wrB f b).fab = s.fab := rfl
@[simp] theorem State.wrB_cvu (s : State) (f : Fld) (b : Bool) : (s.wrB f b).cvu = s.cvu := rfl
@[simp] theorem State.wrB_rwy (s : State) (f : Fld) (b : Bool) : (s.wrB f b).rwy = s.rwy := rfl
@[simp] theorem State.wrB_ust (s : State) (f : Fld) (b : Bool) : (s.wrB f b).ust = s.ust := rfl
@[simp] theorem State.wrB_fwu (s : State) (f : Fld) (b : Bool) : (s.wrB f b).fwu = s.fwu := rfl
@[simp] theorem State.wrB_pmg (s : State) (f : Fld) (b : Bool) : (s.wrB f b).pmg = s.pmg := rfl

@[simp] theorem State.wrBit_pending (s : State) (f : Fld) (i : Nat) (b : Bool) : (s.wrBit f i b).pending = s.pending := rfl
@[simp] theorem State.wrBit_now (s : State) (f : Fld) (i : Nat) (b : Bool) : (s.wrBit f i b).now = s.now := rfl
@[simp] theorem State.wrBit_mem (s : State) (f : Fld) (i : Nat) (b : Bool) : (s.wrBit f i b).mem = s.mem := rfl
@[simp] theorem State.wrBit_leMem (s : State) (f : Fld) (i : Nat) (b : Bool) : (s.wrBit f i b).leMem = s.leMem := rfl
@[simp] theorem State.wrBit_resp (s : State) (f : Fld) (i : Nat) (b : Bool) : (s.wrBit f i b).resp = s.resp := rfl
@[simp] theorem State.wrBit_out (s : State) (f : Fld) (i : Nat) (b : Bool) : (s.wrBit f i b).out = s.out := rfl
@[simp] theorem State.wrBit_fresh (s : State) (f : Fld) (i : Nat) (b : Bool) : (s.wrBit f i b).fresh = s.fresh := rfl
@[simp] theorem State.wrBit_pw (s : State) (f : Fld) (i : Nat) (b : Bool) : (s.wrBit f i b).pw = s.pw := rfl
@[simp] theorem State.wrBit_rcd (s : State) (f : Fld) (i : Nat) (b : Bool) : (s.wrBit f i b).rcd = s.rcd := rfl
@[simp] theorem State.wrBit_std (s : State) (f : Fld) (i : Nat) (b : Bool) : (s.wrBit f i b).std = s.std := rfl
@[simp] theorem State.wrBit_lko (s : State) (f : Fld) (i : Nat) (b : Bool) : (s.wrBit f i b).lko = s.lko := rfl
@[simp] theorem State.wrBit_dbg (s : State) (f : Fld) (i : Nat) (b : Bool) : (s.wrBit f i b).dbg = s.dbg := rfl
@[simp] theorem State.wrBit_cop (s : State) (f : Fld) (i : Nat) (b : Bool) : (s.wrBit f i b).cop = s.cop := rfl
@[simp] theorem State.wrBit_ecc (s : State) (f : Fld) (i : Nat) (b : Bool) : (s.wrBit f i b).ecc = s.ecc := rfl
@[simp] theorem State.wrBit_io (s : State) (f : Fld) (i : Nat) (b : Bool) : (s.wrBit f i b).io = s.io := rfl
@[simp] theorem State.wrBit_eng (s : State) (f : Fld) (i : Nat) (b : Bool) : (s.wrBit f i b).eng = s.eng := rfl
@[simp] theorem State.wrBit_rng (s : State) (f : Fld) (i : Nat) (b : Bool) : (s.wrBit f i b).rng = s.rng := rfl
@[simp] theorem State.wrBit_key (s : State) (f : Fld) (i : Nat) (b : Bool) : (s.wrBit f i b).key = s.key := rfl
@[simp] theorem State.wrBit_cnp (s : State) (f : Fld) (i : Nat) (b : Bool) : (s.wrBit f i b).cnp = s.cnp := rfl
@[simp] theorem State.wrBit_fab (s : State) (f : Fld) (i : Nat) (b : Bool) : (s.wrBit f i b).fab = s.fab := rfl
@[simp] theorem State.wrBit_cvu (s : State) (f : Fld) (i : Nat) (b : Bool) : (s.wrBit f i b).cvu = s.cvu := rfl
@[simp] theorem State.wrBit_rwy (s : State) (f : Fld) (i : Nat) (b : Bool) : (s.wrBit f i b).rwy = s.rwy := rfl
@[simp] theorem State.wrBit_ust (s : State) (f : Fld) (i : Nat) (b : Bool) : (s.wrBit f i b).ust = s.ust := rfl
@[simp] theorem State.wrBit_fwu (s : State) (f : Fld) (i : Nat) (b : Bool) : (s.wrBit f i b).fwu = s.fwu := rfl
@[simp] theorem State.wrBit_pmg (s : State) (f : Fld) (i : Nat) (b : Bool) : (s.wrBit f i b).pmg = s.pmg := rfl

@[simp] theorem State.note_pending (s : State) (f : Fld) (m : Nat) : (s.note f m).pending = s.pending := rfl
@[simp] theorem State.note_now (s : State) (f : Fld) (m : Nat) : (s.note f m).now = s.now := rfl
@[simp] theorem State.note_regs (s : State) (f : Fld) (m : Nat) : (s.note f m).regs = s.regs := rfl
@[simp] theorem State.note_mem (s : State) (f : Fld) (m : Nat) : (s.note f m).mem = s.mem := rfl
@[simp] theorem State.note_leMem (s : State) (f : Fld) (m : Nat) : (s.note f m).leMem = s.leMem := rfl
@[simp] theorem State.note_resp (s : State) (f : Fld) (m : Nat) : (s.note f m).resp = s.resp := rfl
@[simp] theorem State.note_out (s : State) (f : Fld) (m : Nat) : (s.note f m).out = s.out := rfl
@[simp] theorem State.note_fresh (s : State) (f : Fld) (m : Nat) : (s.note f m).fresh = s.fresh := rfl
@[simp] theorem State.note_pw (s : State) (f : Fld) (m : Nat) : (s.note f m).pw = s.pw := rfl
@[simp] theorem State.note_rcd (s : State) (f : Fld) (m : Nat) : (s.note f m).rcd = s.rcd := rfl
@[simp] theorem State.note_std (s : State) (f : Fld) (m : Nat) : (s.note f m).std = s.std := rfl
@[simp] theorem State.note_lko (s : State) (f : Fld) (m : Nat) : (s.note f m).lko = s.lko := rfl
@[simp] theorem State.note_dbg (s : State) (f : Fld) (m : Nat) : (s.note f m).dbg = s.dbg := rfl
@[simp] theorem State.note_cop (s : State) (f : Fld) (m : Nat) : (s.note f m).cop = s.cop := rfl
@[simp] theorem State.note_ecc (s : State) (f : Fld) (m : Nat) : (s.note f m).ecc = s.ecc := rfl
@[simp] theorem State.note_io (s : State) (f : Fld) (m : Nat) : (s.note f m).io = s.io := rfl
@[simp] theorem State.note_eng (s : State) (f : Fld) (m : Nat) : (s.note f m).eng = s.eng := rfl
@[simp] theorem State.note_rng (s : State) (f : Fld) (m : Nat) : (s.note f m).rng = s.rng := rfl
@[simp] theorem State.note_key (s : State) (f : Fld) (m : Nat) : (s.note f m).key = s.key := rfl
@[simp] theorem State.note_cnp (s : State) (f : Fld) (m : Nat) : (s.note f m).cnp = s.cnp := rfl
@[simp] theorem State.note_fab (s : State) (f : Fld) (m : Nat) : (s.note f m).fab = s.fab := rfl
@[simp] theorem State.note_cvu (s : State) (f : Fld) (m : Nat) : (s.note f m).cvu = s.cvu := rfl
@[simp] theorem State.note_rwy (s : State) (f : Fld) (m : Nat) : (s.note f m).rwy = s.rwy := rfl
@[simp] theorem State.note_ust (s : State) (f : Fld) (m : Nat) : (s.note f m).ust = s.ust := rfl
@[simp] theorem State.note_fwu (s : State) (f : Fld) (m : Nat) : (s.note f m).fwu = s.fwu := rfl
@[simp] theorem State.note_pmg (s : State) (f : Fld) (m : Nat) : (s.note f m).pmg = s.pmg := rfl

@[simp] theorem State.wakeEdge_pending (s : State) (i : Nat) : (s.wakeEdge i).pending = s.pending := rfl
@[simp] theorem State.wakeEdge_now (s : State) (i : Nat) : (s.wakeEdge i).now = s.now := rfl
@[simp] theorem State.wakeEdge_regs (s : State) (i : Nat) : (s.wakeEdge i).regs = s.regs := rfl
@[simp] theorem State.wakeEdge_hits (s : State) (i : Nat) : (s.wakeEdge i).hits = s.hits := rfl
@[simp] theorem State.wakeEdge_mem (s : State) (i : Nat) : (s.wakeEdge i).mem = s.mem := rfl
@[simp] theorem State.wakeEdge_leMem (s : State) (i : Nat) : (s.wakeEdge i).leMem = s.leMem := rfl
@[simp] theorem State.wakeEdge_resp (s : State) (i : Nat) : (s.wakeEdge i).resp = s.resp := rfl
@[simp] theorem State.wakeEdge_out (s : State) (i : Nat) : (s.wakeEdge i).out = s.out := rfl
@[simp] theorem State.wakeEdge_fresh (s : State) (i : Nat) : (s.wakeEdge i).fresh = s.fresh := rfl
@[simp] theorem State.wakeEdge_pw (s : State) (i : Nat) : (s.wakeEdge i).pw = s.pw := rfl
@[simp] theorem State.wakeEdge_rcd (s : State) (i : Nat) : (s.wakeEdge i).rcd = s.rcd := rfl
@[simp] theorem State.wakeEdge_std (s : State) (i : Nat) : (s.wakeEdge i).std = s.std := rfl
@[simp] theorem State.wakeEdge_lko (s : State) (i : Nat) : (s.wakeEdge i).lko = s.lko := rfl
@[simp] theorem State.wakeEdge_dbg (s : State) (i : Nat) : (s.wakeEdge i).dbg = s.dbg := rfl
@[simp] theorem State.wakeEdge_cop (s : State) (i : Nat) : (s.wakeEdge i).cop = s.cop := rfl
@[simp] theorem State.wakeEdge_ecc (s : State) (i : Nat) : (s.wakeEdge i).ecc = s.ecc := rfl
@[simp] theorem State.wakeEdge_io (s : State) (i : Nat) : (s.wakeEdge i).io = s.io := rfl
@[simp] theorem State.wakeEdge_eng (s : State) (i : Nat) : (s.wakeEdge i).eng = s.eng := rfl
@[simp] theorem State.wakeEdge_rng (s : State) (i : Nat) : (s.wakeEdge i).rng = s.rng := rfl
@[simp] theorem State.wakeEdge_key (s : State) (i : Nat) : (s.wakeEdge i).key = s.key := rfl
@[simp] theorem State.wakeEdge_cnp (s : State) (i : Nat) : (s.wakeEdge i).cnp = s.cnp := rfl
@[simp] theorem State.wakeEdge_fab (s : State) (i : Nat) : (s.wakeEdge i).fab = s.fab := rfl
@[simp] theorem State.wakeEdge_cvu (s : State) (i : Nat) : (s.wakeEdge i).cvu = s.cvu := rfl
@[simp] theorem State.wakeEdge_rwy (s : State) (i : Nat) : (s.wakeEdge i).rwy = s.rwy := rfl
@[simp] theorem State.wakeEdge_ust (s : State) (i : Nat) : (s.wakeEdge i).ust = s.ust := rfl
@[simp] theorem State.wakeEdge_fwu (s : State) (i : Nat) : (s.wakeEdge i).fwu = s.fwu := rfl

@[simp] theorem State.bump_pending (s : State) (f : Fld) (n : Nat) : (s.bump f n).pending = s.pending := rfl
@[simp] theorem State.bump_now (s : State) (f : Fld) (n : Nat) : (s.bump f n).now = s.now := rfl
@[simp] theorem State.bump_mem (s : State) (f : Fld) (n : Nat) : (s.bump f n).mem = s.mem := rfl
@[simp] theorem State.bump_leMem (s : State) (f : Fld) (n : Nat) : (s.bump f n).leMem = s.leMem := rfl
@[simp] theorem State.bump_resp (s : State) (f : Fld) (n : Nat) : (s.bump f n).resp = s.resp := rfl
@[simp] theorem State.bump_out (s : State) (f : Fld) (n : Nat) : (s.bump f n).out = s.out := rfl
@[simp] theorem State.bump_fresh (s : State) (f : Fld) (n : Nat) : (s.bump f n).fresh = s.fresh := rfl
@[simp] theorem State.bump_pw (s : State) (f : Fld) (n : Nat) : (s.bump f n).pw = s.pw := rfl
@[simp] theorem State.bump_rcd (s : State) (f : Fld) (n : Nat) : (s.bump f n).rcd = s.rcd := rfl
@[simp] theorem State.bump_std (s : State) (f : Fld) (n : Nat) : (s.bump f n).std = s.std := rfl
@[simp] theorem State.bump_lko (s : State) (f : Fld) (n : Nat) : (s.bump f n).lko = s.lko := rfl
@[simp] theorem State.bump_dbg (s : State) (f : Fld) (n : Nat) : (s.bump f n).dbg = s.dbg := rfl
@[simp] theorem State.bump_cop (s : State) (f : Fld) (n : Nat) : (s.bump f n).cop = s.cop := rfl
@[simp] theorem State.bump_ecc (s : State) (f : Fld) (n : Nat) : (s.bump f n).ecc = s.ecc := rfl
@[simp] theorem State.bump_io (s : State) (f : Fld) (n : Nat) : (s.bump f n).io = s.io := rfl
@[simp] theorem State.bump_eng (s : State) (f : Fld) (n : Nat) : (s.bump f n).eng = s.eng := rfl
@[simp] theorem State.bump_rng (s : State) (f : Fld) (n : Nat) : (s.bump f n).rng = s.rng := rfl
@[simp] theorem State.bump_key (s : State) (f : Fld) (n : Nat) : (s.bump f n).key = s.key := rfl
@[simp] theorem State.bump_cnp (s : State) (f : Fld) (n : Nat) : (s.bump f n).cnp = s.cnp := rfl
@[simp] theorem State.bump_fab (s : State) (f : Fld) (n : Nat) : (s.bump f n).fab = s.fab := rfl
@[simp] theorem State.bump_cvu (s : State) (f : Fld) (n : Nat) : (s.bump f n).cvu = s.cvu := rfl
@[simp] theorem State.bump_rwy (s : State) (f : Fld) (n : Nat) : (s.bump f n).rwy = s.rwy := rfl
@[simp] theorem State.bump_ust (s : State) (f : Fld) (n : Nat) : (s.bump f n).ust = s.ust := rfl
@[simp] theorem State.bump_fwu (s : State) (f : Fld) (n : Nat) : (s.bump f n).fwu = s.fwu := rfl
@[simp] theorem State.bump_pmg (s : State) (f : Fld) (n : Nat) : (s.bump f n).pmg = s.pmg := rfl

@[simp] theorem State.tick_pending (s : State) (f : Fld) : (s.tick f).pending = s.pending := rfl
@[simp] theorem State.tick_now (s : State) (f : Fld) : (s.tick f).now = s.now := rfl
@[simp] theorem State.tick_mem (s : State) (f : Fld) : (s.tick f).mem = s.mem := rfl
@[simp] theorem State.tick_leMem (s : State) (f : Fld) : (s.tick f).leMem = s.leMem := rfl
@[simp] theorem State.tick_resp (s : State) (f : Fld) : (s.tick f).resp = s.resp := rfl
@[simp] theorem State.tick_out (s : State) (f : Fld) : (s.tick f).out = s.out := rfl
@[simp] theorem State.tick_fresh (s : State) (f : Fld) : (s.tick f).fresh = s.fresh := rfl
@[simp] theorem State.tick_pw (s : State) (f : Fld) : (s.tick f).pw = s.pw := rfl
@[simp] theorem State.tick_rcd (s : State) (f : Fld) : (s.tick f).rcd = s.rcd := rfl
@[simp] theorem State.tick_std (s : State) (f : Fld) : (s.tick f).std = s.std := rfl
@[simp] theorem State.tick_lko (s : State) (f : Fld) : (s.tick f).lko = s.lko := rfl
@[simp] theorem State.tick_dbg (s : State) (f : Fld) : (s.tick f).dbg = s.dbg := rfl
@[simp] theorem State.tick_cop (s : State) (f : Fld) : (s.tick f).cop = s.cop := rfl
@[simp] theorem State.tick_ecc (s : State) (f : Fld) : (s.tick f).ecc = s.ecc := rfl
@[simp] theorem State.tick_io (s : State) (f : Fld) : (s.tick f).io = s.io := rfl
@[simp] theorem State.tick_eng (s : State) (f : Fld) : (s.tick f).eng = s.eng := rfl
@[simp] theorem State.tick_rng (s : State) (f : Fld) : (s.tick f).rng = s.rng := rfl
@[simp] theorem State.tick_key (s : State) (f : Fld) : (s.tick f).key = s.key := rfl
@[simp] theorem State.tick_cnp (s : State) (f : Fld) : (s.tick f).cnp = s.cnp := rfl
@[simp] theorem State.tick_fab (s : State) (f : Fld) : (s.tick f).fab = s.fab := rfl
@[simp] theorem State.tick_cvu (s : State) (f : Fld) : (s.tick f).cvu = s.cvu := rfl
@[simp] theorem State.tick_rwy (s : State) (f : Fld) : (s.tick f).rwy = s.rwy := rfl
@[simp] theorem State.tick_ust (s : State) (f : Fld) : (s.tick f).ust = s.ust := rfl
@[simp] theorem State.tick_fwu (s : State) (f : Fld) : (s.tick f).fwu = s.fwu := rfl
@[simp] theorem State.tick_pmg (s : State) (f : Fld) : (s.tick f).pmg = s.pmg := rfl

@[simp] theorem State.maxWr_pending (s : State) (f : Fld) (v : Nat) : (s.maxWr f v).pending = s.pending := rfl
@[simp] theorem State.maxWr_now (s : State) (f : Fld) (v : Nat) : (s.maxWr f v).now = s.now := rfl
@[simp] theorem State.maxWr_mem (s : State) (f : Fld) (v : Nat) : (s.maxWr f v).mem = s.mem := rfl
@[simp] theorem State.maxWr_leMem (s : State) (f : Fld) (v : Nat) : (s.maxWr f v).leMem = s.leMem := rfl
@[simp] theorem State.maxWr_resp (s : State) (f : Fld) (v : Nat) : (s.maxWr f v).resp = s.resp := rfl
@[simp] theorem State.maxWr_out (s : State) (f : Fld) (v : Nat) : (s.maxWr f v).out = s.out := rfl
@[simp] theorem State.maxWr_fresh (s : State) (f : Fld) (v : Nat) : (s.maxWr f v).fresh = s.fresh := rfl
@[simp] theorem State.maxWr_pw (s : State) (f : Fld) (v : Nat) : (s.maxWr f v).pw = s.pw := rfl
@[simp] theorem State.maxWr_rcd (s : State) (f : Fld) (v : Nat) : (s.maxWr f v).rcd = s.rcd := rfl
@[simp] theorem State.maxWr_std (s : State) (f : Fld) (v : Nat) : (s.maxWr f v).std = s.std := rfl
@[simp] theorem State.maxWr_lko (s : State) (f : Fld) (v : Nat) : (s.maxWr f v).lko = s.lko := rfl
@[simp] theorem State.maxWr_dbg (s : State) (f : Fld) (v : Nat) : (s.maxWr f v).dbg = s.dbg := rfl
@[simp] theorem State.maxWr_cop (s : State) (f : Fld) (v : Nat) : (s.maxWr f v).cop = s.cop := rfl
@[simp] theorem State.maxWr_ecc (s : State) (f : Fld) (v : Nat) : (s.maxWr f v).ecc = s.ecc := rfl
@[simp] theorem State.maxWr_io (s : State) (f : Fld) (v : Nat) : (s.maxWr f v).io = s.io := rfl
@[simp] theorem State.maxWr_eng (s : State) (f : Fld) (v : Nat) : (s.maxWr f v).eng = s.eng := rfl
@[simp] theorem State.maxWr_rng (s : State) (f : Fld) (v : Nat) : (s.maxWr f v).rng = s.rng := rfl
@[simp] theorem State.maxWr_key (s : State) (f : Fld) (v : Nat) : (s.maxWr f v).key = s.key := rfl
@[simp] theorem State.maxWr_cnp (s : State) (f : Fld) (v : Nat) : (s.maxWr f v).cnp = s.cnp := rfl
@[simp] theorem State.maxWr_fab (s : State) (f : Fld) (v : Nat) : (s.maxWr f v).fab = s.fab := rfl
@[simp] theorem State.maxWr_cvu (s : State) (f : Fld) (v : Nat) : (s.maxWr f v).cvu = s.cvu := rfl
@[simp] theorem State.maxWr_rwy (s : State) (f : Fld) (v : Nat) : (s.maxWr f v).rwy = s.rwy := rfl
@[simp] theorem State.maxWr_ust (s : State) (f : Fld) (v : Nat) : (s.maxWr f v).ust = s.ust := rfl
@[simp] theorem State.maxWr_fwu (s : State) (f : Fld) (v : Nat) : (s.maxWr f v).fwu = s.fwu := rfl
@[simp] theorem State.maxWr_pmg (s : State) (f : Fld) (v : Nat) : (s.maxWr f v).pmg = s.pmg := rfl

@[simp] theorem State.wr64_pending (s : State) (lo hi : Fld) (v : Nat) : (s.wr64 lo hi v).pending = s.pending := rfl
@[simp] theorem State.wr64_now (s : State) (lo hi : Fld) (v : Nat) : (s.wr64 lo hi v).now = s.now := rfl
@[simp] theorem State.wr64_mem (s : State) (lo hi : Fld) (v : Nat) : (s.wr64 lo hi v).mem = s.mem := rfl
@[simp] theorem State.wr64_leMem (s : State) (lo hi : Fld) (v : Nat) : (s.wr64 lo hi v).leMem = s.leMem := rfl
@[simp] theorem State.wr64_resp (s : State) (lo hi : Fld) (v : Nat) : (s.wr64 lo hi v).resp = s.resp := rfl
@[simp] theorem State.wr64_out (s : State) (lo hi : Fld) (v : Nat) : (s.wr64 lo hi v).out = s.out := rfl
@[simp] theorem State.wr64_fresh (s : State) (lo hi : Fld) (v : Nat) : (s.wr64 lo hi v).fresh = s.fresh := rfl
@[simp] theorem State.wr64_pw (s : State) (lo hi : Fld) (v : Nat) : (s.wr64 lo hi v).pw = s.pw := rfl
@[simp] theorem State.wr64_rcd (s : State) (lo hi : Fld) (v : Nat) : (s.wr64 lo hi v).rcd = s.rcd := rfl
@[simp] theorem State.wr64_std (s : State) (lo hi : Fld) (v : Nat) : (s.wr64 lo hi v).std = s.std := rfl
@[simp] theorem State.wr64_lko (s : State) (lo hi : Fld) (v : Nat) : (s.wr64 lo hi v).lko = s.lko := rfl
@[simp] theorem State.wr64_dbg (s : State) (lo hi : Fld) (v : Nat) : (s.wr64 lo hi v).dbg = s.dbg := rfl
@[simp] theorem State.wr64_cop (s : State) (lo hi : Fld) (v : Nat) : (s.wr64 lo hi v).cop = s.cop := rfl
@[simp] theorem State.wr64_ecc (s : State) (lo hi : Fld) (v : Nat) : (s.wr64 lo hi v).ecc = s.ecc := rfl
@[simp] theorem State.wr64_io (s : State) (lo hi : Fld) (v : Nat) : (s.wr64 lo hi v).io = s.io := rfl
@[simp] theorem State.wr64_eng (s : State) (lo hi : Fld) (v : Nat) : (s.wr64 lo hi v).eng = s.eng := rfl
@[simp] theorem State.wr64_rng (s : State) (lo hi : Fld) (v : Nat) : (s.wr64 lo hi v).rng = s.rng := rfl
@[simp] theorem State.wr64_key (s : State) (lo hi : Fld) (v : Nat) : (s.wr64 lo hi v).key = s.key := rfl
@[simp] theorem State.wr64_cnp (s : State) (lo hi : Fld) (v : Nat) : (s.wr64 lo hi v).cnp = s.cnp := rfl
@[simp] theorem State.wr64_fab (s : State) (lo hi : Fld) (v : Nat) : (s.wr64 lo hi v).fab = s.fab := rfl
@[simp] theorem State.wr64_cvu (s : State) (lo hi : Fld) (v : Nat) : (s.wr64 lo hi v).cvu = s.cvu := rfl
@[simp] theorem State.wr64_rwy (s : State) (lo hi : Fld) (v : Nat) : (s.wr64 lo hi v).rwy = s.rwy := rfl
@[simp] theorem State.wr64_ust (s : State) (lo hi : Fld) (v : Nat) : (s.wr64 lo hi v).ust = s.ust := rfl
@[simp] theorem State.wr64_fwu (s : State) (lo hi : Fld) (v : Nat) : (s.wr64 lo hi v).fwu = s.fwu := rfl
@[simp] theorem State.wr64_pmg (s : State) (lo hi : Fld) (v : Nat) : (s.wr64 lo hi v).pmg = s.pmg := rfl

@[simp] theorem State.restore_pending (s : State) (l : Letters → Bool) (p : Nat → Bool) : (s.restore l p).pending = s.pending := rfl
@[simp] theorem State.restore_now (s : State) (l : Letters → Bool) (p : Nat → Bool) : (s.restore l p).now = s.now := rfl
@[simp] theorem State.restore_hits (s : State) (l : Letters → Bool) (p : Nat → Bool) : (s.restore l p).hits = s.hits := rfl
@[simp] theorem State.restore_mem (s : State) (l : Letters → Bool) (p : Nat → Bool) : (s.restore l p).mem = s.mem := rfl
@[simp] theorem State.restore_leMem (s : State) (l : Letters → Bool) (p : Nat → Bool) : (s.restore l p).leMem = s.leMem := rfl
@[simp] theorem State.restore_resp (s : State) (l : Letters → Bool) (p : Nat → Bool) : (s.restore l p).resp = s.resp := rfl
@[simp] theorem State.restore_out (s : State) (l : Letters → Bool) (p : Nat → Bool) : (s.restore l p).out = s.out := rfl
@[simp] theorem State.restore_fresh (s : State) (l : Letters → Bool) (p : Nat → Bool) : (s.restore l p).fresh = s.fresh := rfl
@[simp] theorem State.restore_pw (s : State) (l : Letters → Bool) (p : Nat → Bool) : (s.restore l p).pw = s.pw := rfl
@[simp] theorem State.restore_rcd (s : State) (l : Letters → Bool) (p : Nat → Bool) : (s.restore l p).rcd = s.rcd := rfl
@[simp] theorem State.restore_std (s : State) (l : Letters → Bool) (p : Nat → Bool) : (s.restore l p).std = s.std := rfl
@[simp] theorem State.restore_lko (s : State) (l : Letters → Bool) (p : Nat → Bool) : (s.restore l p).lko = s.lko := rfl
@[simp] theorem State.restore_dbg (s : State) (l : Letters → Bool) (p : Nat → Bool) : (s.restore l p).dbg = s.dbg := rfl
@[simp] theorem State.restore_cop (s : State) (l : Letters → Bool) (p : Nat → Bool) : (s.restore l p).cop = s.cop := rfl
@[simp] theorem State.restore_ecc (s : State) (l : Letters → Bool) (p : Nat → Bool) : (s.restore l p).ecc = s.ecc := rfl
@[simp] theorem State.restore_io (s : State) (l : Letters → Bool) (p : Nat → Bool) : (s.restore l p).io = s.io := rfl
@[simp] theorem State.restore_eng (s : State) (l : Letters → Bool) (p : Nat → Bool) : (s.restore l p).eng = s.eng := rfl
@[simp] theorem State.restore_rng (s : State) (l : Letters → Bool) (p : Nat → Bool) : (s.restore l p).rng = s.rng := rfl
@[simp] theorem State.restore_key (s : State) (l : Letters → Bool) (p : Nat → Bool) : (s.restore l p).key = s.key := rfl
@[simp] theorem State.restore_cnp (s : State) (l : Letters → Bool) (p : Nat → Bool) : (s.restore l p).cnp = s.cnp := rfl
@[simp] theorem State.restore_fab (s : State) (l : Letters → Bool) (p : Nat → Bool) : (s.restore l p).fab = s.fab := rfl
@[simp] theorem State.restore_cvu (s : State) (l : Letters → Bool) (p : Nat → Bool) : (s.restore l p).cvu = s.cvu := rfl
@[simp] theorem State.restore_rwy (s : State) (l : Letters → Bool) (p : Nat → Bool) : (s.restore l p).rwy = s.rwy := rfl
@[simp] theorem State.restore_ust (s : State) (l : Letters → Bool) (p : Nat → Bool) : (s.restore l p).ust = s.ust := rfl
@[simp] theorem State.restore_fwu (s : State) (l : Letters → Bool) (p : Nat → Bool) : (s.restore l p).fwu = s.fwu := rfl
@[simp] theorem State.restore_pmg (s : State) (l : Letters → Bool) (p : Nat → Bool) : (s.restore l p).pmg = s.pmg := rfl

@[simp] theorem State.putByte_pending (s : State) (a : Nat) (b : Byte) : (s.putByte a b).pending = s.pending := rfl
@[simp] theorem State.putByte_now (s : State) (a : Nat) (b : Byte) : (s.putByte a b).now = s.now := rfl
@[simp] theorem State.putByte_regs (s : State) (a : Nat) (b : Byte) : (s.putByte a b).regs = s.regs := rfl
@[simp] theorem State.putByte_hits (s : State) (a : Nat) (b : Byte) : (s.putByte a b).hits = s.hits := rfl
@[simp] theorem State.putByte_leMem (s : State) (a : Nat) (b : Byte) : (s.putByte a b).leMem = s.leMem := rfl
@[simp] theorem State.putByte_resp (s : State) (a : Nat) (b : Byte) : (s.putByte a b).resp = s.resp := rfl
@[simp] theorem State.putByte_out (s : State) (a : Nat) (b : Byte) : (s.putByte a b).out = s.out := rfl
@[simp] theorem State.putByte_fresh (s : State) (a : Nat) (b : Byte) : (s.putByte a b).fresh = s.fresh := rfl
@[simp] theorem State.putByte_pw (s : State) (a : Nat) (b : Byte) : (s.putByte a b).pw = s.pw := rfl
@[simp] theorem State.putByte_rcd (s : State) (a : Nat) (b : Byte) : (s.putByte a b).rcd = s.rcd := rfl
@[simp] theorem State.putByte_std (s : State) (a : Nat) (b : Byte) : (s.putByte a b).std = s.std := rfl
@[simp] theorem State.putByte_lko (s : State) (a : Nat) (b : Byte) : (s.putByte a b).lko = s.lko := rfl
@[simp] theorem State.putByte_dbg (s : State) (a : Nat) (b : Byte) : (s.putByte a b).dbg = s.dbg := rfl
@[simp] theorem State.putByte_cop (s : State) (a : Nat) (b : Byte) : (s.putByte a b).cop = s.cop := rfl
@[simp] theorem State.putByte_ecc (s : State) (a : Nat) (b : Byte) : (s.putByte a b).ecc = s.ecc := rfl
@[simp] theorem State.putByte_io (s : State) (a : Nat) (b : Byte) : (s.putByte a b).io = s.io := rfl
@[simp] theorem State.putByte_eng (s : State) (a : Nat) (b : Byte) : (s.putByte a b).eng = s.eng := rfl
@[simp] theorem State.putByte_rng (s : State) (a : Nat) (b : Byte) : (s.putByte a b).rng = s.rng := rfl
@[simp] theorem State.putByte_key (s : State) (a : Nat) (b : Byte) : (s.putByte a b).key = s.key := rfl
@[simp] theorem State.putByte_cnp (s : State) (a : Nat) (b : Byte) : (s.putByte a b).cnp = s.cnp := rfl
@[simp] theorem State.putByte_fab (s : State) (a : Nat) (b : Byte) : (s.putByte a b).fab = s.fab := rfl
@[simp] theorem State.putByte_cvu (s : State) (a : Nat) (b : Byte) : (s.putByte a b).cvu = s.cvu := rfl
@[simp] theorem State.putByte_rwy (s : State) (a : Nat) (b : Byte) : (s.putByte a b).rwy = s.rwy := rfl
@[simp] theorem State.putByte_ust (s : State) (a : Nat) (b : Byte) : (s.putByte a b).ust = s.ust := rfl
@[simp] theorem State.putByte_fwu (s : State) (a : Nat) (b : Byte) : (s.putByte a b).fwu = s.fwu := rfl
@[simp] theorem State.putByte_pmg (s : State) (a : Nat) (b : Byte) : (s.putByte a b).pmg = s.pmg := rfl

@[simp] theorem State.putLeByte_pending (s : State) (a : Nat) (b : Byte) : (s.putLeByte a b).pending = s.pending := rfl
@[simp] theorem State.putLeByte_now (s : State) (a : Nat) (b : Byte) : (s.putLeByte a b).now = s.now := rfl
@[simp] theorem State.putLeByte_regs (s : State) (a : Nat) (b : Byte) : (s.putLeByte a b).regs = s.regs := rfl
@[simp] theorem State.putLeByte_hits (s : State) (a : Nat) (b : Byte) : (s.putLeByte a b).hits = s.hits := rfl
@[simp] theorem State.putLeByte_mem (s : State) (a : Nat) (b : Byte) : (s.putLeByte a b).mem = s.mem := rfl
@[simp] theorem State.putLeByte_resp (s : State) (a : Nat) (b : Byte) : (s.putLeByte a b).resp = s.resp := rfl
@[simp] theorem State.putLeByte_out (s : State) (a : Nat) (b : Byte) : (s.putLeByte a b).out = s.out := rfl
@[simp] theorem State.putLeByte_fresh (s : State) (a : Nat) (b : Byte) : (s.putLeByte a b).fresh = s.fresh := rfl
@[simp] theorem State.putLeByte_pw (s : State) (a : Nat) (b : Byte) : (s.putLeByte a b).pw = s.pw := rfl
@[simp] theorem State.putLeByte_rcd (s : State) (a : Nat) (b : Byte) : (s.putLeByte a b).rcd = s.rcd := rfl
@[simp] theorem State.putLeByte_std (s : State) (a : Nat) (b : Byte) : (s.putLeByte a b).std = s.std := rfl
@[simp] theorem State.putLeByte_lko (s : State) (a : Nat) (b : Byte) : (s.putLeByte a b).lko = s.lko := rfl
@[simp] theorem State.putLeByte_dbg (s : State) (a : Nat) (b : Byte) : (s.putLeByte a b).dbg = s.dbg := rfl
@[simp] theorem State.putLeByte_cop (s : State) (a : Nat) (b : Byte) : (s.putLeByte a b).cop = s.cop := rfl
@[simp] theorem State.putLeByte_ecc (s : State) (a : Nat) (b : Byte) : (s.putLeByte a b).ecc = s.ecc := rfl
@[simp] theorem State.putLeByte_io (s : State) (a : Nat) (b : Byte) : (s.putLeByte a b).io = s.io := rfl
@[simp] theorem State.putLeByte_eng (s : State) (a : Nat) (b : Byte) : (s.putLeByte a b).eng = s.eng := rfl
@[simp] theorem State.putLeByte_rng (s : State) (a : Nat) (b : Byte) : (s.putLeByte a b).rng = s.rng := rfl
@[simp] theorem State.putLeByte_key (s : State) (a : Nat) (b : Byte) : (s.putLeByte a b).key = s.key := rfl
@[simp] theorem State.putLeByte_cnp (s : State) (a : Nat) (b : Byte) : (s.putLeByte a b).cnp = s.cnp := rfl
@[simp] theorem State.putLeByte_fab (s : State) (a : Nat) (b : Byte) : (s.putLeByte a b).fab = s.fab := rfl
@[simp] theorem State.putLeByte_cvu (s : State) (a : Nat) (b : Byte) : (s.putLeByte a b).cvu = s.cvu := rfl
@[simp] theorem State.putLeByte_rwy (s : State) (a : Nat) (b : Byte) : (s.putLeByte a b).rwy = s.rwy := rfl
@[simp] theorem State.putLeByte_ust (s : State) (a : Nat) (b : Byte) : (s.putLeByte a b).ust = s.ust := rfl
@[simp] theorem State.putLeByte_fwu (s : State) (a : Nat) (b : Byte) : (s.putLeByte a b).fwu = s.fwu := rfl
@[simp] theorem State.putLeByte_pmg (s : State) (a : Nat) (b : Byte) : (s.putLeByte a b).pmg = s.pmg := rfl

@[simp] theorem State.setChan_pending (s : State) (n : Nat) (x : Chan) : (s.setChan n x).pending = s.pending := rfl
@[simp] theorem State.setChan_now (s : State) (n : Nat) (x : Chan) : (s.setChan n x).now = s.now := rfl
@[simp] theorem State.setChan_regs (s : State) (n : Nat) (x : Chan) : (s.setChan n x).regs = s.regs := rfl
@[simp] theorem State.setChan_hits (s : State) (n : Nat) (x : Chan) : (s.setChan n x).hits = s.hits := rfl
@[simp] theorem State.setChan_mem (s : State) (n : Nat) (x : Chan) : (s.setChan n x).mem = s.mem := rfl
@[simp] theorem State.setChan_leMem (s : State) (n : Nat) (x : Chan) : (s.setChan n x).leMem = s.leMem := rfl
@[simp] theorem State.setChan_resp (s : State) (n : Nat) (x : Chan) : (s.setChan n x).resp = s.resp := rfl
@[simp] theorem State.setChan_out (s : State) (n : Nat) (x : Chan) : (s.setChan n x).out = s.out := rfl
@[simp] theorem State.setChan_fresh (s : State) (n : Nat) (x : Chan) : (s.setChan n x).fresh = s.fresh := rfl
@[simp] theorem State.setChan_pw (s : State) (n : Nat) (x : Chan) : (s.setChan n x).pw = s.pw := rfl
@[simp] theorem State.setChan_rcd (s : State) (n : Nat) (x : Chan) : (s.setChan n x).rcd = s.rcd := rfl
@[simp] theorem State.setChan_std (s : State) (n : Nat) (x : Chan) : (s.setChan n x).std = s.std := rfl
@[simp] theorem State.setChan_lko (s : State) (n : Nat) (x : Chan) : (s.setChan n x).lko = s.lko := rfl
@[simp] theorem State.setChan_dbg (s : State) (n : Nat) (x : Chan) : (s.setChan n x).dbg = s.dbg := rfl
@[simp] theorem State.setChan_cop (s : State) (n : Nat) (x : Chan) : (s.setChan n x).cop = s.cop := rfl
@[simp] theorem State.setChan_ecc (s : State) (n : Nat) (x : Chan) : (s.setChan n x).ecc = s.ecc := rfl
@[simp] theorem State.setChan_eng (s : State) (n : Nat) (x : Chan) : (s.setChan n x).eng = s.eng := rfl
@[simp] theorem State.setChan_rng (s : State) (n : Nat) (x : Chan) : (s.setChan n x).rng = s.rng := rfl
@[simp] theorem State.setChan_key (s : State) (n : Nat) (x : Chan) : (s.setChan n x).key = s.key := rfl
@[simp] theorem State.setChan_cnp (s : State) (n : Nat) (x : Chan) : (s.setChan n x).cnp = s.cnp := rfl
@[simp] theorem State.setChan_fab (s : State) (n : Nat) (x : Chan) : (s.setChan n x).fab = s.fab := rfl
@[simp] theorem State.setChan_cvu (s : State) (n : Nat) (x : Chan) : (s.setChan n x).cvu = s.cvu := rfl
@[simp] theorem State.setChan_rwy (s : State) (n : Nat) (x : Chan) : (s.setChan n x).rwy = s.rwy := rfl
@[simp] theorem State.setChan_ust (s : State) (n : Nat) (x : Chan) : (s.setChan n x).ust = s.ust := rfl
@[simp] theorem State.setChan_fwu (s : State) (n : Nat) (x : Chan) : (s.setChan n x).fwu = s.fwu := rfl
@[simp] theorem State.setChan_pmg (s : State) (n : Nat) (x : Chan) : (s.setChan n x).pmg = s.pmg := rfl

@[simp] theorem State.setGroup_pending (s : State) (n : Nat) (x : Group) : (s.setGroup n x).pending = s.pending := rfl
@[simp] theorem State.setGroup_now (s : State) (n : Nat) (x : Group) : (s.setGroup n x).now = s.now := rfl
@[simp] theorem State.setGroup_regs (s : State) (n : Nat) (x : Group) : (s.setGroup n x).regs = s.regs := rfl
@[simp] theorem State.setGroup_hits (s : State) (n : Nat) (x : Group) : (s.setGroup n x).hits = s.hits := rfl
@[simp] theorem State.setGroup_mem (s : State) (n : Nat) (x : Group) : (s.setGroup n x).mem = s.mem := rfl
@[simp] theorem State.setGroup_leMem (s : State) (n : Nat) (x : Group) : (s.setGroup n x).leMem = s.leMem := rfl
@[simp] theorem State.setGroup_resp (s : State) (n : Nat) (x : Group) : (s.setGroup n x).resp = s.resp := rfl
@[simp] theorem State.setGroup_out (s : State) (n : Nat) (x : Group) : (s.setGroup n x).out = s.out := rfl
@[simp] theorem State.setGroup_fresh (s : State) (n : Nat) (x : Group) : (s.setGroup n x).fresh = s.fresh := rfl
@[simp] theorem State.setGroup_pw (s : State) (n : Nat) (x : Group) : (s.setGroup n x).pw = s.pw := rfl
@[simp] theorem State.setGroup_rcd (s : State) (n : Nat) (x : Group) : (s.setGroup n x).rcd = s.rcd := rfl
@[simp] theorem State.setGroup_std (s : State) (n : Nat) (x : Group) : (s.setGroup n x).std = s.std := rfl
@[simp] theorem State.setGroup_lko (s : State) (n : Nat) (x : Group) : (s.setGroup n x).lko = s.lko := rfl
@[simp] theorem State.setGroup_dbg (s : State) (n : Nat) (x : Group) : (s.setGroup n x).dbg = s.dbg := rfl
@[simp] theorem State.setGroup_cop (s : State) (n : Nat) (x : Group) : (s.setGroup n x).cop = s.cop := rfl
@[simp] theorem State.setGroup_ecc (s : State) (n : Nat) (x : Group) : (s.setGroup n x).ecc = s.ecc := rfl
@[simp] theorem State.setGroup_eng (s : State) (n : Nat) (x : Group) : (s.setGroup n x).eng = s.eng := rfl
@[simp] theorem State.setGroup_rng (s : State) (n : Nat) (x : Group) : (s.setGroup n x).rng = s.rng := rfl
@[simp] theorem State.setGroup_key (s : State) (n : Nat) (x : Group) : (s.setGroup n x).key = s.key := rfl
@[simp] theorem State.setGroup_cnp (s : State) (n : Nat) (x : Group) : (s.setGroup n x).cnp = s.cnp := rfl
@[simp] theorem State.setGroup_fab (s : State) (n : Nat) (x : Group) : (s.setGroup n x).fab = s.fab := rfl
@[simp] theorem State.setGroup_cvu (s : State) (n : Nat) (x : Group) : (s.setGroup n x).cvu = s.cvu := rfl
@[simp] theorem State.setGroup_rwy (s : State) (n : Nat) (x : Group) : (s.setGroup n x).rwy = s.rwy := rfl
@[simp] theorem State.setGroup_ust (s : State) (n : Nat) (x : Group) : (s.setGroup n x).ust = s.ust := rfl
@[simp] theorem State.setGroup_fwu (s : State) (n : Nat) (x : Group) : (s.setGroup n x).fwu = s.fwu := rfl
@[simp] theorem State.setGroup_pmg (s : State) (n : Nat) (x : Group) : (s.setGroup n x).pmg = s.pmg := rfl

@[simp] theorem State.setEngine_pending (s : State) (n : Nat) (x : Engine) : (s.setEngine n x).pending = s.pending := rfl
@[simp] theorem State.setEngine_now (s : State) (n : Nat) (x : Engine) : (s.setEngine n x).now = s.now := rfl
@[simp] theorem State.setEngine_regs (s : State) (n : Nat) (x : Engine) : (s.setEngine n x).regs = s.regs := rfl
@[simp] theorem State.setEngine_hits (s : State) (n : Nat) (x : Engine) : (s.setEngine n x).hits = s.hits := rfl
@[simp] theorem State.setEngine_mem (s : State) (n : Nat) (x : Engine) : (s.setEngine n x).mem = s.mem := rfl
@[simp] theorem State.setEngine_leMem (s : State) (n : Nat) (x : Engine) : (s.setEngine n x).leMem = s.leMem := rfl
@[simp] theorem State.setEngine_resp (s : State) (n : Nat) (x : Engine) : (s.setEngine n x).resp = s.resp := rfl
@[simp] theorem State.setEngine_out (s : State) (n : Nat) (x : Engine) : (s.setEngine n x).out = s.out := rfl
@[simp] theorem State.setEngine_fresh (s : State) (n : Nat) (x : Engine) : (s.setEngine n x).fresh = s.fresh := rfl
@[simp] theorem State.setEngine_pw (s : State) (n : Nat) (x : Engine) : (s.setEngine n x).pw = s.pw := rfl
@[simp] theorem State.setEngine_rcd (s : State) (n : Nat) (x : Engine) : (s.setEngine n x).rcd = s.rcd := rfl
@[simp] theorem State.setEngine_std (s : State) (n : Nat) (x : Engine) : (s.setEngine n x).std = s.std := rfl
@[simp] theorem State.setEngine_lko (s : State) (n : Nat) (x : Engine) : (s.setEngine n x).lko = s.lko := rfl
@[simp] theorem State.setEngine_dbg (s : State) (n : Nat) (x : Engine) : (s.setEngine n x).dbg = s.dbg := rfl
@[simp] theorem State.setEngine_cop (s : State) (n : Nat) (x : Engine) : (s.setEngine n x).cop = s.cop := rfl
@[simp] theorem State.setEngine_ecc (s : State) (n : Nat) (x : Engine) : (s.setEngine n x).ecc = s.ecc := rfl
@[simp] theorem State.setEngine_io (s : State) (n : Nat) (x : Engine) : (s.setEngine n x).io = s.io := rfl
@[simp] theorem State.setEngine_rng (s : State) (n : Nat) (x : Engine) : (s.setEngine n x).rng = s.rng := rfl
@[simp] theorem State.setEngine_key (s : State) (n : Nat) (x : Engine) : (s.setEngine n x).key = s.key := rfl
@[simp] theorem State.setEngine_cnp (s : State) (n : Nat) (x : Engine) : (s.setEngine n x).cnp = s.cnp := rfl
@[simp] theorem State.setEngine_fab (s : State) (n : Nat) (x : Engine) : (s.setEngine n x).fab = s.fab := rfl
@[simp] theorem State.setEngine_cvu (s : State) (n : Nat) (x : Engine) : (s.setEngine n x).cvu = s.cvu := rfl
@[simp] theorem State.setEngine_rwy (s : State) (n : Nat) (x : Engine) : (s.setEngine n x).rwy = s.rwy := rfl
@[simp] theorem State.setEngine_ust (s : State) (n : Nat) (x : Engine) : (s.setEngine n x).ust = s.ust := rfl
@[simp] theorem State.setEngine_fwu (s : State) (n : Nat) (x : Engine) : (s.setEngine n x).fwu = s.fwu := rfl
@[simp] theorem State.setEngine_pmg (s : State) (n : Nat) (x : Engine) : (s.setEngine n x).pmg = s.pmg := rfl

@[simp] theorem State.setStand_pending (s : State) (n : Nat) (x : Stand) : (s.setStand n x).pending = s.pending := rfl
@[simp] theorem State.setStand_now (s : State) (n : Nat) (x : Stand) : (s.setStand n x).now = s.now := rfl
@[simp] theorem State.setStand_regs (s : State) (n : Nat) (x : Stand) : (s.setStand n x).regs = s.regs := rfl
@[simp] theorem State.setStand_hits (s : State) (n : Nat) (x : Stand) : (s.setStand n x).hits = s.hits := rfl
@[simp] theorem State.setStand_mem (s : State) (n : Nat) (x : Stand) : (s.setStand n x).mem = s.mem := rfl
@[simp] theorem State.setStand_leMem (s : State) (n : Nat) (x : Stand) : (s.setStand n x).leMem = s.leMem := rfl
@[simp] theorem State.setStand_resp (s : State) (n : Nat) (x : Stand) : (s.setStand n x).resp = s.resp := rfl
@[simp] theorem State.setStand_out (s : State) (n : Nat) (x : Stand) : (s.setStand n x).out = s.out := rfl
@[simp] theorem State.setStand_fresh (s : State) (n : Nat) (x : Stand) : (s.setStand n x).fresh = s.fresh := rfl
@[simp] theorem State.setStand_pw (s : State) (n : Nat) (x : Stand) : (s.setStand n x).pw = s.pw := rfl
@[simp] theorem State.setStand_rcd (s : State) (n : Nat) (x : Stand) : (s.setStand n x).rcd = s.rcd := rfl
@[simp] theorem State.setStand_lko (s : State) (n : Nat) (x : Stand) : (s.setStand n x).lko = s.lko := rfl
@[simp] theorem State.setStand_dbg (s : State) (n : Nat) (x : Stand) : (s.setStand n x).dbg = s.dbg := rfl
@[simp] theorem State.setStand_cop (s : State) (n : Nat) (x : Stand) : (s.setStand n x).cop = s.cop := rfl
@[simp] theorem State.setStand_ecc (s : State) (n : Nat) (x : Stand) : (s.setStand n x).ecc = s.ecc := rfl
@[simp] theorem State.setStand_io (s : State) (n : Nat) (x : Stand) : (s.setStand n x).io = s.io := rfl
@[simp] theorem State.setStand_eng (s : State) (n : Nat) (x : Stand) : (s.setStand n x).eng = s.eng := rfl
@[simp] theorem State.setStand_rng (s : State) (n : Nat) (x : Stand) : (s.setStand n x).rng = s.rng := rfl
@[simp] theorem State.setStand_key (s : State) (n : Nat) (x : Stand) : (s.setStand n x).key = s.key := rfl
@[simp] theorem State.setStand_cnp (s : State) (n : Nat) (x : Stand) : (s.setStand n x).cnp = s.cnp := rfl
@[simp] theorem State.setStand_fab (s : State) (n : Nat) (x : Stand) : (s.setStand n x).fab = s.fab := rfl
@[simp] theorem State.setStand_cvu (s : State) (n : Nat) (x : Stand) : (s.setStand n x).cvu = s.cvu := rfl
@[simp] theorem State.setStand_rwy (s : State) (n : Nat) (x : Stand) : (s.setStand n x).rwy = s.rwy := rfl
@[simp] theorem State.setStand_ust (s : State) (n : Nat) (x : Stand) : (s.setStand n x).ust = s.ust := rfl
@[simp] theorem State.setStand_fwu (s : State) (n : Nat) (x : Stand) : (s.setStand n x).fwu = s.fwu := rfl
@[simp] theorem State.setStand_pmg (s : State) (n : Nat) (x : Stand) : (s.setStand n x).pmg = s.pmg := rfl

@[simp] theorem State.setPortLink_pending (s : State) (n : Nat) (x : PortLink) : (s.setPortLink n x).pending = s.pending := rfl
@[simp] theorem State.setPortLink_now (s : State) (n : Nat) (x : PortLink) : (s.setPortLink n x).now = s.now := rfl
@[simp] theorem State.setPortLink_regs (s : State) (n : Nat) (x : PortLink) : (s.setPortLink n x).regs = s.regs := rfl
@[simp] theorem State.setPortLink_hits (s : State) (n : Nat) (x : PortLink) : (s.setPortLink n x).hits = s.hits := rfl
@[simp] theorem State.setPortLink_mem (s : State) (n : Nat) (x : PortLink) : (s.setPortLink n x).mem = s.mem := rfl
@[simp] theorem State.setPortLink_leMem (s : State) (n : Nat) (x : PortLink) : (s.setPortLink n x).leMem = s.leMem := rfl
@[simp] theorem State.setPortLink_resp (s : State) (n : Nat) (x : PortLink) : (s.setPortLink n x).resp = s.resp := rfl
@[simp] theorem State.setPortLink_out (s : State) (n : Nat) (x : PortLink) : (s.setPortLink n x).out = s.out := rfl
@[simp] theorem State.setPortLink_fresh (s : State) (n : Nat) (x : PortLink) : (s.setPortLink n x).fresh = s.fresh := rfl
@[simp] theorem State.setPortLink_pw (s : State) (n : Nat) (x : PortLink) : (s.setPortLink n x).pw = s.pw := rfl
@[simp] theorem State.setPortLink_rcd (s : State) (n : Nat) (x : PortLink) : (s.setPortLink n x).rcd = s.rcd := rfl
@[simp] theorem State.setPortLink_std (s : State) (n : Nat) (x : PortLink) : (s.setPortLink n x).std = s.std := rfl
@[simp] theorem State.setPortLink_lko (s : State) (n : Nat) (x : PortLink) : (s.setPortLink n x).lko = s.lko := rfl
@[simp] theorem State.setPortLink_dbg (s : State) (n : Nat) (x : PortLink) : (s.setPortLink n x).dbg = s.dbg := rfl
@[simp] theorem State.setPortLink_cop (s : State) (n : Nat) (x : PortLink) : (s.setPortLink n x).cop = s.cop := rfl
@[simp] theorem State.setPortLink_ecc (s : State) (n : Nat) (x : PortLink) : (s.setPortLink n x).ecc = s.ecc := rfl
@[simp] theorem State.setPortLink_io (s : State) (n : Nat) (x : PortLink) : (s.setPortLink n x).io = s.io := rfl
@[simp] theorem State.setPortLink_eng (s : State) (n : Nat) (x : PortLink) : (s.setPortLink n x).eng = s.eng := rfl
@[simp] theorem State.setPortLink_rng (s : State) (n : Nat) (x : PortLink) : (s.setPortLink n x).rng = s.rng := rfl
@[simp] theorem State.setPortLink_key (s : State) (n : Nat) (x : PortLink) : (s.setPortLink n x).key = s.key := rfl
@[simp] theorem State.setPortLink_cnp (s : State) (n : Nat) (x : PortLink) : (s.setPortLink n x).cnp = s.cnp := rfl
@[simp] theorem State.setPortLink_cvu (s : State) (n : Nat) (x : PortLink) : (s.setPortLink n x).cvu = s.cvu := rfl
@[simp] theorem State.setPortLink_rwy (s : State) (n : Nat) (x : PortLink) : (s.setPortLink n x).rwy = s.rwy := rfl
@[simp] theorem State.setPortLink_ust (s : State) (n : Nat) (x : PortLink) : (s.setPortLink n x).ust = s.ust := rfl
@[simp] theorem State.setPortLink_fwu (s : State) (n : Nat) (x : PortLink) : (s.setPortLink n x).fwu = s.fwu := rfl
@[simp] theorem State.setPortLink_pmg (s : State) (n : Nat) (x : PortLink) : (s.setPortLink n x).pmg = s.pmg := rfl

@[simp] theorem State.setEtPort_pending (s : State) (n : Nat) (x : EtPort) : (s.setEtPort n x).pending = s.pending := rfl
@[simp] theorem State.setEtPort_now (s : State) (n : Nat) (x : EtPort) : (s.setEtPort n x).now = s.now := rfl
@[simp] theorem State.setEtPort_regs (s : State) (n : Nat) (x : EtPort) : (s.setEtPort n x).regs = s.regs := rfl
@[simp] theorem State.setEtPort_hits (s : State) (n : Nat) (x : EtPort) : (s.setEtPort n x).hits = s.hits := rfl
@[simp] theorem State.setEtPort_mem (s : State) (n : Nat) (x : EtPort) : (s.setEtPort n x).mem = s.mem := rfl
@[simp] theorem State.setEtPort_leMem (s : State) (n : Nat) (x : EtPort) : (s.setEtPort n x).leMem = s.leMem := rfl
@[simp] theorem State.setEtPort_resp (s : State) (n : Nat) (x : EtPort) : (s.setEtPort n x).resp = s.resp := rfl
@[simp] theorem State.setEtPort_out (s : State) (n : Nat) (x : EtPort) : (s.setEtPort n x).out = s.out := rfl
@[simp] theorem State.setEtPort_fresh (s : State) (n : Nat) (x : EtPort) : (s.setEtPort n x).fresh = s.fresh := rfl
@[simp] theorem State.setEtPort_pw (s : State) (n : Nat) (x : EtPort) : (s.setEtPort n x).pw = s.pw := rfl
@[simp] theorem State.setEtPort_rcd (s : State) (n : Nat) (x : EtPort) : (s.setEtPort n x).rcd = s.rcd := rfl
@[simp] theorem State.setEtPort_std (s : State) (n : Nat) (x : EtPort) : (s.setEtPort n x).std = s.std := rfl
@[simp] theorem State.setEtPort_lko (s : State) (n : Nat) (x : EtPort) : (s.setEtPort n x).lko = s.lko := rfl
@[simp] theorem State.setEtPort_dbg (s : State) (n : Nat) (x : EtPort) : (s.setEtPort n x).dbg = s.dbg := rfl
@[simp] theorem State.setEtPort_cop (s : State) (n : Nat) (x : EtPort) : (s.setEtPort n x).cop = s.cop := rfl
@[simp] theorem State.setEtPort_ecc (s : State) (n : Nat) (x : EtPort) : (s.setEtPort n x).ecc = s.ecc := rfl
@[simp] theorem State.setEtPort_io (s : State) (n : Nat) (x : EtPort) : (s.setEtPort n x).io = s.io := rfl
@[simp] theorem State.setEtPort_eng (s : State) (n : Nat) (x : EtPort) : (s.setEtPort n x).eng = s.eng := rfl
@[simp] theorem State.setEtPort_rng (s : State) (n : Nat) (x : EtPort) : (s.setEtPort n x).rng = s.rng := rfl
@[simp] theorem State.setEtPort_key (s : State) (n : Nat) (x : EtPort) : (s.setEtPort n x).key = s.key := rfl
@[simp] theorem State.setEtPort_fab (s : State) (n : Nat) (x : EtPort) : (s.setEtPort n x).fab = s.fab := rfl
@[simp] theorem State.setEtPort_cvu (s : State) (n : Nat) (x : EtPort) : (s.setEtPort n x).cvu = s.cvu := rfl
@[simp] theorem State.setEtPort_rwy (s : State) (n : Nat) (x : EtPort) : (s.setEtPort n x).rwy = s.rwy := rfl
@[simp] theorem State.setEtPort_ust (s : State) (n : Nat) (x : EtPort) : (s.setEtPort n x).ust = s.ust := rfl
@[simp] theorem State.setEtPort_fwu (s : State) (n : Nat) (x : EtPort) : (s.setEtPort n x).fwu = s.fwu := rfl
@[simp] theorem State.setEtPort_pmg (s : State) (n : Nat) (x : EtPort) : (s.setEtPort n x).pmg = s.pmg := rfl

@[simp] theorem State.setHbuf_pending (s : State) (n : Nat) (x : HBuf) : (s.setHbuf n x).pending = s.pending := rfl
@[simp] theorem State.setHbuf_now (s : State) (n : Nat) (x : HBuf) : (s.setHbuf n x).now = s.now := rfl
@[simp] theorem State.setHbuf_regs (s : State) (n : Nat) (x : HBuf) : (s.setHbuf n x).regs = s.regs := rfl
@[simp] theorem State.setHbuf_hits (s : State) (n : Nat) (x : HBuf) : (s.setHbuf n x).hits = s.hits := rfl
@[simp] theorem State.setHbuf_mem (s : State) (n : Nat) (x : HBuf) : (s.setHbuf n x).mem = s.mem := rfl
@[simp] theorem State.setHbuf_leMem (s : State) (n : Nat) (x : HBuf) : (s.setHbuf n x).leMem = s.leMem := rfl
@[simp] theorem State.setHbuf_resp (s : State) (n : Nat) (x : HBuf) : (s.setHbuf n x).resp = s.resp := rfl
@[simp] theorem State.setHbuf_out (s : State) (n : Nat) (x : HBuf) : (s.setHbuf n x).out = s.out := rfl
@[simp] theorem State.setHbuf_fresh (s : State) (n : Nat) (x : HBuf) : (s.setHbuf n x).fresh = s.fresh := rfl
@[simp] theorem State.setHbuf_pw (s : State) (n : Nat) (x : HBuf) : (s.setHbuf n x).pw = s.pw := rfl
@[simp] theorem State.setHbuf_rcd (s : State) (n : Nat) (x : HBuf) : (s.setHbuf n x).rcd = s.rcd := rfl
@[simp] theorem State.setHbuf_std (s : State) (n : Nat) (x : HBuf) : (s.setHbuf n x).std = s.std := rfl
@[simp] theorem State.setHbuf_lko (s : State) (n : Nat) (x : HBuf) : (s.setHbuf n x).lko = s.lko := rfl
@[simp] theorem State.setHbuf_dbg (s : State) (n : Nat) (x : HBuf) : (s.setHbuf n x).dbg = s.dbg := rfl
@[simp] theorem State.setHbuf_cop (s : State) (n : Nat) (x : HBuf) : (s.setHbuf n x).cop = s.cop := rfl
@[simp] theorem State.setHbuf_ecc (s : State) (n : Nat) (x : HBuf) : (s.setHbuf n x).ecc = s.ecc := rfl
@[simp] theorem State.setHbuf_io (s : State) (n : Nat) (x : HBuf) : (s.setHbuf n x).io = s.io := rfl
@[simp] theorem State.setHbuf_eng (s : State) (n : Nat) (x : HBuf) : (s.setHbuf n x).eng = s.eng := rfl
@[simp] theorem State.setHbuf_rng (s : State) (n : Nat) (x : HBuf) : (s.setHbuf n x).rng = s.rng := rfl
@[simp] theorem State.setHbuf_key (s : State) (n : Nat) (x : HBuf) : (s.setHbuf n x).key = s.key := rfl
@[simp] theorem State.setHbuf_fab (s : State) (n : Nat) (x : HBuf) : (s.setHbuf n x).fab = s.fab := rfl
@[simp] theorem State.setHbuf_cvu (s : State) (n : Nat) (x : HBuf) : (s.setHbuf n x).cvu = s.cvu := rfl
@[simp] theorem State.setHbuf_rwy (s : State) (n : Nat) (x : HBuf) : (s.setHbuf n x).rwy = s.rwy := rfl
@[simp] theorem State.setHbuf_ust (s : State) (n : Nat) (x : HBuf) : (s.setHbuf n x).ust = s.ust := rfl
@[simp] theorem State.setHbuf_fwu (s : State) (n : Nat) (x : HBuf) : (s.setHbuf n x).fwu = s.fwu := rfl
@[simp] theorem State.setHbuf_pmg (s : State) (n : Nat) (x : HBuf) : (s.setHbuf n x).pmg = s.pmg := rfl

@[simp] theorem State.setBlz_pending (s : State) (n : Nat) (x : Blz) : (s.setBlz n x).pending = s.pending := rfl
@[simp] theorem State.setBlz_now (s : State) (n : Nat) (x : Blz) : (s.setBlz n x).now = s.now := rfl
@[simp] theorem State.setBlz_regs (s : State) (n : Nat) (x : Blz) : (s.setBlz n x).regs = s.regs := rfl
@[simp] theorem State.setBlz_hits (s : State) (n : Nat) (x : Blz) : (s.setBlz n x).hits = s.hits := rfl
@[simp] theorem State.setBlz_mem (s : State) (n : Nat) (x : Blz) : (s.setBlz n x).mem = s.mem := rfl
@[simp] theorem State.setBlz_leMem (s : State) (n : Nat) (x : Blz) : (s.setBlz n x).leMem = s.leMem := rfl
@[simp] theorem State.setBlz_resp (s : State) (n : Nat) (x : Blz) : (s.setBlz n x).resp = s.resp := rfl
@[simp] theorem State.setBlz_out (s : State) (n : Nat) (x : Blz) : (s.setBlz n x).out = s.out := rfl
@[simp] theorem State.setBlz_fresh (s : State) (n : Nat) (x : Blz) : (s.setBlz n x).fresh = s.fresh := rfl
@[simp] theorem State.setBlz_pw (s : State) (n : Nat) (x : Blz) : (s.setBlz n x).pw = s.pw := rfl
@[simp] theorem State.setBlz_rcd (s : State) (n : Nat) (x : Blz) : (s.setBlz n x).rcd = s.rcd := rfl
@[simp] theorem State.setBlz_std (s : State) (n : Nat) (x : Blz) : (s.setBlz n x).std = s.std := rfl
@[simp] theorem State.setBlz_lko (s : State) (n : Nat) (x : Blz) : (s.setBlz n x).lko = s.lko := rfl
@[simp] theorem State.setBlz_dbg (s : State) (n : Nat) (x : Blz) : (s.setBlz n x).dbg = s.dbg := rfl
@[simp] theorem State.setBlz_cop (s : State) (n : Nat) (x : Blz) : (s.setBlz n x).cop = s.cop := rfl
@[simp] theorem State.setBlz_ecc (s : State) (n : Nat) (x : Blz) : (s.setBlz n x).ecc = s.ecc := rfl
@[simp] theorem State.setBlz_io (s : State) (n : Nat) (x : Blz) : (s.setBlz n x).io = s.io := rfl
@[simp] theorem State.setBlz_eng (s : State) (n : Nat) (x : Blz) : (s.setBlz n x).eng = s.eng := rfl
@[simp] theorem State.setBlz_rng (s : State) (n : Nat) (x : Blz) : (s.setBlz n x).rng = s.rng := rfl
@[simp] theorem State.setBlz_key (s : State) (n : Nat) (x : Blz) : (s.setBlz n x).key = s.key := rfl
@[simp] theorem State.setBlz_fab (s : State) (n : Nat) (x : Blz) : (s.setBlz n x).fab = s.fab := rfl
@[simp] theorem State.setBlz_cvu (s : State) (n : Nat) (x : Blz) : (s.setBlz n x).cvu = s.cvu := rfl
@[simp] theorem State.setBlz_rwy (s : State) (n : Nat) (x : Blz) : (s.setBlz n x).rwy = s.rwy := rfl
@[simp] theorem State.setBlz_ust (s : State) (n : Nat) (x : Blz) : (s.setBlz n x).ust = s.ust := rfl
@[simp] theorem State.setBlz_fwu (s : State) (n : Nat) (x : Blz) : (s.setBlz n x).fwu = s.fwu := rfl
@[simp] theorem State.setBlz_pmg (s : State) (n : Nat) (x : Blz) : (s.setBlz n x).pmg = s.pmg := rfl

@[simp] theorem State.setClaims_pending (s : State) (l : List Claim) : (s.setClaims l).pending = s.pending := rfl
@[simp] theorem State.setClaims_now (s : State) (l : List Claim) : (s.setClaims l).now = s.now := rfl
@[simp] theorem State.setClaims_regs (s : State) (l : List Claim) : (s.setClaims l).regs = s.regs := rfl
@[simp] theorem State.setClaims_hits (s : State) (l : List Claim) : (s.setClaims l).hits = s.hits := rfl
@[simp] theorem State.setClaims_mem (s : State) (l : List Claim) : (s.setClaims l).mem = s.mem := rfl
@[simp] theorem State.setClaims_leMem (s : State) (l : List Claim) : (s.setClaims l).leMem = s.leMem := rfl
@[simp] theorem State.setClaims_resp (s : State) (l : List Claim) : (s.setClaims l).resp = s.resp := rfl
@[simp] theorem State.setClaims_out (s : State) (l : List Claim) : (s.setClaims l).out = s.out := rfl
@[simp] theorem State.setClaims_fresh (s : State) (l : List Claim) : (s.setClaims l).fresh = s.fresh := rfl
@[simp] theorem State.setClaims_pw (s : State) (l : List Claim) : (s.setClaims l).pw = s.pw := rfl
@[simp] theorem State.setClaims_rcd (s : State) (l : List Claim) : (s.setClaims l).rcd = s.rcd := rfl
@[simp] theorem State.setClaims_std (s : State) (l : List Claim) : (s.setClaims l).std = s.std := rfl
@[simp] theorem State.setClaims_lko (s : State) (l : List Claim) : (s.setClaims l).lko = s.lko := rfl
@[simp] theorem State.setClaims_dbg (s : State) (l : List Claim) : (s.setClaims l).dbg = s.dbg := rfl
@[simp] theorem State.setClaims_cop (s : State) (l : List Claim) : (s.setClaims l).cop = s.cop := rfl
@[simp] theorem State.setClaims_ecc (s : State) (l : List Claim) : (s.setClaims l).ecc = s.ecc := rfl
@[simp] theorem State.setClaims_io (s : State) (l : List Claim) : (s.setClaims l).io = s.io := rfl
@[simp] theorem State.setClaims_eng (s : State) (l : List Claim) : (s.setClaims l).eng = s.eng := rfl
@[simp] theorem State.setClaims_rng (s : State) (l : List Claim) : (s.setClaims l).rng = s.rng := rfl
@[simp] theorem State.setClaims_key (s : State) (l : List Claim) : (s.setClaims l).key = s.key := rfl
@[simp] theorem State.setClaims_fab (s : State) (l : List Claim) : (s.setClaims l).fab = s.fab := rfl
@[simp] theorem State.setClaims_cvu (s : State) (l : List Claim) : (s.setClaims l).cvu = s.cvu := rfl
@[simp] theorem State.setClaims_rwy (s : State) (l : List Claim) : (s.setClaims l).rwy = s.rwy := rfl
@[simp] theorem State.setClaims_ust (s : State) (l : List Claim) : (s.setClaims l).ust = s.ust := rfl
@[simp] theorem State.setClaims_fwu (s : State) (l : List Claim) : (s.setClaims l).fwu = s.fwu := rfl
@[simp] theorem State.setClaims_pmg (s : State) (l : List Claim) : (s.setClaims l).pmg = s.pmg := rfl

@[simp] theorem State.setCtx_pending (s : State) (n : Nat) (x : Ctx) : (s.setCtx n x).pending = s.pending := rfl
@[simp] theorem State.setCtx_now (s : State) (n : Nat) (x : Ctx) : (s.setCtx n x).now = s.now := rfl
@[simp] theorem State.setCtx_regs (s : State) (n : Nat) (x : Ctx) : (s.setCtx n x).regs = s.regs := rfl
@[simp] theorem State.setCtx_hits (s : State) (n : Nat) (x : Ctx) : (s.setCtx n x).hits = s.hits := rfl
@[simp] theorem State.setCtx_mem (s : State) (n : Nat) (x : Ctx) : (s.setCtx n x).mem = s.mem := rfl
@[simp] theorem State.setCtx_leMem (s : State) (n : Nat) (x : Ctx) : (s.setCtx n x).leMem = s.leMem := rfl
@[simp] theorem State.setCtx_resp (s : State) (n : Nat) (x : Ctx) : (s.setCtx n x).resp = s.resp := rfl
@[simp] theorem State.setCtx_out (s : State) (n : Nat) (x : Ctx) : (s.setCtx n x).out = s.out := rfl
@[simp] theorem State.setCtx_fresh (s : State) (n : Nat) (x : Ctx) : (s.setCtx n x).fresh = s.fresh := rfl
@[simp] theorem State.setCtx_pw (s : State) (n : Nat) (x : Ctx) : (s.setCtx n x).pw = s.pw := rfl
@[simp] theorem State.setCtx_rcd (s : State) (n : Nat) (x : Ctx) : (s.setCtx n x).rcd = s.rcd := rfl
@[simp] theorem State.setCtx_std (s : State) (n : Nat) (x : Ctx) : (s.setCtx n x).std = s.std := rfl
@[simp] theorem State.setCtx_lko (s : State) (n : Nat) (x : Ctx) : (s.setCtx n x).lko = s.lko := rfl
@[simp] theorem State.setCtx_dbg (s : State) (n : Nat) (x : Ctx) : (s.setCtx n x).dbg = s.dbg := rfl
@[simp] theorem State.setCtx_cop (s : State) (n : Nat) (x : Ctx) : (s.setCtx n x).cop = s.cop := rfl
@[simp] theorem State.setCtx_ecc (s : State) (n : Nat) (x : Ctx) : (s.setCtx n x).ecc = s.ecc := rfl
@[simp] theorem State.setCtx_io (s : State) (n : Nat) (x : Ctx) : (s.setCtx n x).io = s.io := rfl
@[simp] theorem State.setCtx_eng (s : State) (n : Nat) (x : Ctx) : (s.setCtx n x).eng = s.eng := rfl
@[simp] theorem State.setCtx_rng (s : State) (n : Nat) (x : Ctx) : (s.setCtx n x).rng = s.rng := rfl
@[simp] theorem State.setCtx_key (s : State) (n : Nat) (x : Ctx) : (s.setCtx n x).key = s.key := rfl
@[simp] theorem State.setCtx_cnp (s : State) (n : Nat) (x : Ctx) : (s.setCtx n x).cnp = s.cnp := rfl
@[simp] theorem State.setCtx_fab (s : State) (n : Nat) (x : Ctx) : (s.setCtx n x).fab = s.fab := rfl
@[simp] theorem State.setCtx_rwy (s : State) (n : Nat) (x : Ctx) : (s.setCtx n x).rwy = s.rwy := rfl
@[simp] theorem State.setCtx_ust (s : State) (n : Nat) (x : Ctx) : (s.setCtx n x).ust = s.ust := rfl
@[simp] theorem State.setCtx_fwu (s : State) (n : Nat) (x : Ctx) : (s.setCtx n x).fwu = s.fwu := rfl
@[simp] theorem State.setCtx_pmg (s : State) (n : Nat) (x : Ctx) : (s.setCtx n x).pmg = s.pmg := rfl

@[simp] theorem State.setUport_pending (s : State) (n : Nat) (x : UPort) : (s.setUport n x).pending = s.pending := rfl
@[simp] theorem State.setUport_now (s : State) (n : Nat) (x : UPort) : (s.setUport n x).now = s.now := rfl
@[simp] theorem State.setUport_regs (s : State) (n : Nat) (x : UPort) : (s.setUport n x).regs = s.regs := rfl
@[simp] theorem State.setUport_hits (s : State) (n : Nat) (x : UPort) : (s.setUport n x).hits = s.hits := rfl
@[simp] theorem State.setUport_mem (s : State) (n : Nat) (x : UPort) : (s.setUport n x).mem = s.mem := rfl
@[simp] theorem State.setUport_leMem (s : State) (n : Nat) (x : UPort) : (s.setUport n x).leMem = s.leMem := rfl
@[simp] theorem State.setUport_resp (s : State) (n : Nat) (x : UPort) : (s.setUport n x).resp = s.resp := rfl
@[simp] theorem State.setUport_out (s : State) (n : Nat) (x : UPort) : (s.setUport n x).out = s.out := rfl
@[simp] theorem State.setUport_fresh (s : State) (n : Nat) (x : UPort) : (s.setUport n x).fresh = s.fresh := rfl
@[simp] theorem State.setUport_pw (s : State) (n : Nat) (x : UPort) : (s.setUport n x).pw = s.pw := rfl
@[simp] theorem State.setUport_rcd (s : State) (n : Nat) (x : UPort) : (s.setUport n x).rcd = s.rcd := rfl
@[simp] theorem State.setUport_std (s : State) (n : Nat) (x : UPort) : (s.setUport n x).std = s.std := rfl
@[simp] theorem State.setUport_lko (s : State) (n : Nat) (x : UPort) : (s.setUport n x).lko = s.lko := rfl
@[simp] theorem State.setUport_dbg (s : State) (n : Nat) (x : UPort) : (s.setUport n x).dbg = s.dbg := rfl
@[simp] theorem State.setUport_cop (s : State) (n : Nat) (x : UPort) : (s.setUport n x).cop = s.cop := rfl
@[simp] theorem State.setUport_ecc (s : State) (n : Nat) (x : UPort) : (s.setUport n x).ecc = s.ecc := rfl
@[simp] theorem State.setUport_io (s : State) (n : Nat) (x : UPort) : (s.setUport n x).io = s.io := rfl
@[simp] theorem State.setUport_eng (s : State) (n : Nat) (x : UPort) : (s.setUport n x).eng = s.eng := rfl
@[simp] theorem State.setUport_rng (s : State) (n : Nat) (x : UPort) : (s.setUport n x).rng = s.rng := rfl
@[simp] theorem State.setUport_key (s : State) (n : Nat) (x : UPort) : (s.setUport n x).key = s.key := rfl
@[simp] theorem State.setUport_cnp (s : State) (n : Nat) (x : UPort) : (s.setUport n x).cnp = s.cnp := rfl
@[simp] theorem State.setUport_fab (s : State) (n : Nat) (x : UPort) : (s.setUport n x).fab = s.fab := rfl
@[simp] theorem State.setUport_cvu (s : State) (n : Nat) (x : UPort) : (s.setUport n x).cvu = s.cvu := rfl
@[simp] theorem State.setUport_rwy (s : State) (n : Nat) (x : UPort) : (s.setUport n x).rwy = s.rwy := rfl
@[simp] theorem State.setUport_fwu (s : State) (n : Nat) (x : UPort) : (s.setUport n x).fwu = s.fwu := rfl
@[simp] theorem State.setUport_pmg (s : State) (n : Nat) (x : UPort) : (s.setUport n x).pmg = s.pmg := rfl

@[simp] theorem State.setFab_pending (s : State) (x : Fabric) : (s.setFab x).pending = s.pending := rfl
@[simp] theorem State.setFab_now (s : State) (x : Fabric) : (s.setFab x).now = s.now := rfl
@[simp] theorem State.setFab_regs (s : State) (x : Fabric) : (s.setFab x).regs = s.regs := rfl
@[simp] theorem State.setFab_hits (s : State) (x : Fabric) : (s.setFab x).hits = s.hits := rfl
@[simp] theorem State.setFab_mem (s : State) (x : Fabric) : (s.setFab x).mem = s.mem := rfl
@[simp] theorem State.setFab_leMem (s : State) (x : Fabric) : (s.setFab x).leMem = s.leMem := rfl
@[simp] theorem State.setFab_resp (s : State) (x : Fabric) : (s.setFab x).resp = s.resp := rfl
@[simp] theorem State.setFab_out (s : State) (x : Fabric) : (s.setFab x).out = s.out := rfl
@[simp] theorem State.setFab_fresh (s : State) (x : Fabric) : (s.setFab x).fresh = s.fresh := rfl
@[simp] theorem State.setFab_pw (s : State) (x : Fabric) : (s.setFab x).pw = s.pw := rfl
@[simp] theorem State.setFab_rcd (s : State) (x : Fabric) : (s.setFab x).rcd = s.rcd := rfl
@[simp] theorem State.setFab_std (s : State) (x : Fabric) : (s.setFab x).std = s.std := rfl
@[simp] theorem State.setFab_lko (s : State) (x : Fabric) : (s.setFab x).lko = s.lko := rfl
@[simp] theorem State.setFab_dbg (s : State) (x : Fabric) : (s.setFab x).dbg = s.dbg := rfl
@[simp] theorem State.setFab_cop (s : State) (x : Fabric) : (s.setFab x).cop = s.cop := rfl
@[simp] theorem State.setFab_ecc (s : State) (x : Fabric) : (s.setFab x).ecc = s.ecc := rfl
@[simp] theorem State.setFab_io (s : State) (x : Fabric) : (s.setFab x).io = s.io := rfl
@[simp] theorem State.setFab_eng (s : State) (x : Fabric) : (s.setFab x).eng = s.eng := rfl
@[simp] theorem State.setFab_rng (s : State) (x : Fabric) : (s.setFab x).rng = s.rng := rfl
@[simp] theorem State.setFab_key (s : State) (x : Fabric) : (s.setFab x).key = s.key := rfl
@[simp] theorem State.setFab_cnp (s : State) (x : Fabric) : (s.setFab x).cnp = s.cnp := rfl
@[simp] theorem State.setFab_cvu (s : State) (x : Fabric) : (s.setFab x).cvu = s.cvu := rfl
@[simp] theorem State.setFab_rwy (s : State) (x : Fabric) : (s.setFab x).rwy = s.rwy := rfl
@[simp] theorem State.setFab_ust (s : State) (x : Fabric) : (s.setFab x).ust = s.ust := rfl
@[simp] theorem State.setFab_fwu (s : State) (x : Fabric) : (s.setFab x).fwu = s.fwu := rfl
@[simp] theorem State.setFab_pmg (s : State) (x : Fabric) : (s.setFab x).pmg = s.pmg := rfl

@[simp] theorem State.setRwy_pending (s : State) (x : Rootway) : (s.setRwy x).pending = s.pending := rfl
@[simp] theorem State.setRwy_now (s : State) (x : Rootway) : (s.setRwy x).now = s.now := rfl
@[simp] theorem State.setRwy_regs (s : State) (x : Rootway) : (s.setRwy x).regs = s.regs := rfl
@[simp] theorem State.setRwy_hits (s : State) (x : Rootway) : (s.setRwy x).hits = s.hits := rfl
@[simp] theorem State.setRwy_mem (s : State) (x : Rootway) : (s.setRwy x).mem = s.mem := rfl
@[simp] theorem State.setRwy_leMem (s : State) (x : Rootway) : (s.setRwy x).leMem = s.leMem := rfl
@[simp] theorem State.setRwy_resp (s : State) (x : Rootway) : (s.setRwy x).resp = s.resp := rfl
@[simp] theorem State.setRwy_out (s : State) (x : Rootway) : (s.setRwy x).out = s.out := rfl
@[simp] theorem State.setRwy_fresh (s : State) (x : Rootway) : (s.setRwy x).fresh = s.fresh := rfl
@[simp] theorem State.setRwy_pw (s : State) (x : Rootway) : (s.setRwy x).pw = s.pw := rfl
@[simp] theorem State.setRwy_rcd (s : State) (x : Rootway) : (s.setRwy x).rcd = s.rcd := rfl
@[simp] theorem State.setRwy_std (s : State) (x : Rootway) : (s.setRwy x).std = s.std := rfl
@[simp] theorem State.setRwy_lko (s : State) (x : Rootway) : (s.setRwy x).lko = s.lko := rfl
@[simp] theorem State.setRwy_dbg (s : State) (x : Rootway) : (s.setRwy x).dbg = s.dbg := rfl
@[simp] theorem State.setRwy_cop (s : State) (x : Rootway) : (s.setRwy x).cop = s.cop := rfl
@[simp] theorem State.setRwy_ecc (s : State) (x : Rootway) : (s.setRwy x).ecc = s.ecc := rfl
@[simp] theorem State.setRwy_io (s : State) (x : Rootway) : (s.setRwy x).io = s.io := rfl
@[simp] theorem State.setRwy_eng (s : State) (x : Rootway) : (s.setRwy x).eng = s.eng := rfl
@[simp] theorem State.setRwy_rng (s : State) (x : Rootway) : (s.setRwy x).rng = s.rng := rfl
@[simp] theorem State.setRwy_key (s : State) (x : Rootway) : (s.setRwy x).key = s.key := rfl
@[simp] theorem State.setRwy_cnp (s : State) (x : Rootway) : (s.setRwy x).cnp = s.cnp := rfl
@[simp] theorem State.setRwy_fab (s : State) (x : Rootway) : (s.setRwy x).fab = s.fab := rfl
@[simp] theorem State.setRwy_cvu (s : State) (x : Rootway) : (s.setRwy x).cvu = s.cvu := rfl
@[simp] theorem State.setRwy_ust (s : State) (x : Rootway) : (s.setRwy x).ust = s.ust := rfl
@[simp] theorem State.setRwy_fwu (s : State) (x : Rootway) : (s.setRwy x).fwu = s.fwu := rfl
@[simp] theorem State.setRwy_pmg (s : State) (x : Rootway) : (s.setRwy x).pmg = s.pmg := rfl

@[simp] theorem State.setRng_pending (s : State) (x : Ranger) : (s.setRng x).pending = s.pending := rfl
@[simp] theorem State.setRng_now (s : State) (x : Ranger) : (s.setRng x).now = s.now := rfl
@[simp] theorem State.setRng_regs (s : State) (x : Ranger) : (s.setRng x).regs = s.regs := rfl
@[simp] theorem State.setRng_hits (s : State) (x : Ranger) : (s.setRng x).hits = s.hits := rfl
@[simp] theorem State.setRng_mem (s : State) (x : Ranger) : (s.setRng x).mem = s.mem := rfl
@[simp] theorem State.setRng_leMem (s : State) (x : Ranger) : (s.setRng x).leMem = s.leMem := rfl
@[simp] theorem State.setRng_resp (s : State) (x : Ranger) : (s.setRng x).resp = s.resp := rfl
@[simp] theorem State.setRng_out (s : State) (x : Ranger) : (s.setRng x).out = s.out := rfl
@[simp] theorem State.setRng_fresh (s : State) (x : Ranger) : (s.setRng x).fresh = s.fresh := rfl
@[simp] theorem State.setRng_pw (s : State) (x : Ranger) : (s.setRng x).pw = s.pw := rfl
@[simp] theorem State.setRng_rcd (s : State) (x : Ranger) : (s.setRng x).rcd = s.rcd := rfl
@[simp] theorem State.setRng_std (s : State) (x : Ranger) : (s.setRng x).std = s.std := rfl
@[simp] theorem State.setRng_lko (s : State) (x : Ranger) : (s.setRng x).lko = s.lko := rfl
@[simp] theorem State.setRng_dbg (s : State) (x : Ranger) : (s.setRng x).dbg = s.dbg := rfl
@[simp] theorem State.setRng_cop (s : State) (x : Ranger) : (s.setRng x).cop = s.cop := rfl
@[simp] theorem State.setRng_ecc (s : State) (x : Ranger) : (s.setRng x).ecc = s.ecc := rfl
@[simp] theorem State.setRng_io (s : State) (x : Ranger) : (s.setRng x).io = s.io := rfl
@[simp] theorem State.setRng_eng (s : State) (x : Ranger) : (s.setRng x).eng = s.eng := rfl
@[simp] theorem State.setRng_key (s : State) (x : Ranger) : (s.setRng x).key = s.key := rfl
@[simp] theorem State.setRng_cnp (s : State) (x : Ranger) : (s.setRng x).cnp = s.cnp := rfl
@[simp] theorem State.setRng_fab (s : State) (x : Ranger) : (s.setRng x).fab = s.fab := rfl
@[simp] theorem State.setRng_cvu (s : State) (x : Ranger) : (s.setRng x).cvu = s.cvu := rfl
@[simp] theorem State.setRng_rwy (s : State) (x : Ranger) : (s.setRng x).rwy = s.rwy := rfl
@[simp] theorem State.setRng_ust (s : State) (x : Ranger) : (s.setRng x).ust = s.ust := rfl
@[simp] theorem State.setRng_fwu (s : State) (x : Ranger) : (s.setRng x).fwu = s.fwu := rfl
@[simp] theorem State.setRng_pmg (s : State) (x : Ranger) : (s.setRng x).pmg = s.pmg := rfl

@[simp] theorem State.begin_now (s : State) (t : Nat) : (s.begin t).now = t := rfl
@[simp] theorem State.begin_resp (s : State) (t : Nat) : (s.begin t).resp = .none := rfl
@[simp] theorem State.begin_out (s : State) (t : Nat) : (s.begin t).out = [] := rfl
@[simp] theorem State.answer_resp (s : State) (r : Resp) : (s.answer r).resp = r := rfl
@[simp] theorem State.emit_out (s : State) (m : Emission) : (s.emit m).out = s.out ++ [m] := rfl

/-! ### Register fields -/

@[simp] theorem State.begin_rd (s : State) (t : Nat) (g : Fld) : (s.begin t).rd g = s.rd g := rfl
@[simp] theorem State.begin_flag (s : State) (t : Nat) (g : Fld) : (s.begin t).flag g = s.flag g := rfl
@[simp] theorem State.begin_bit (s : State) (t : Nat) (g : Fld) (j : Nat) : (s.begin t).bit g j = s.bit g j := rfl
@[simp] theorem State.fresh0_rd (s : State) (g : Fld) : (s.fresh0).rd g = s.rd g := rfl
@[simp] theorem State.fresh0_flag (s : State) (g : Fld) : (s.fresh0).flag g = s.flag g := rfl
@[simp] theorem State.fresh0_bit (s : State) (g : Fld) (j : Nat) : (s.fresh0).bit g j = s.bit g j := rfl
@[simp] theorem State.answer_rd (s : State) (r : Resp) (g : Fld) : (s.answer r).rd g = s.rd g := rfl
@[simp] theorem State.answer_flag (s : State) (r : Resp) (g : Fld) : (s.answer r).flag g = s.flag g := rfl
@[simp] theorem State.answer_bit (s : State) (r : Resp) (g : Fld) (j : Nat) : (s.answer r).bit g j = s.bit g j := rfl
@[simp] theorem State.emit_rd (s : State) (m : Emission) (g : Fld) : (s.emit m).rd g = s.rd g := rfl
@[simp] theorem State.emit_flag (s : State) (m : Emission) (g : Fld) : (s.emit m).flag g = s.flag g := rfl
@[simp] theorem State.emit_bit (s : State) (m : Emission) (g : Fld) (j : Nat) : (s.emit m).bit g j = s.bit g j := rfl
@[simp] theorem State.note_rd (s : State) (f : Fld) (m : Nat) (g : Fld) : (s.note f m).rd g = s.rd g := rfl
@[simp] theorem State.note_flag (s : State) (f : Fld) (m : Nat) (g : Fld) : (s.note f m).flag g = s.flag g := rfl
@[simp] theorem State.note_bit (s : State) (f : Fld) (m : Nat) (g : Fld) (j : Nat) : (s.note f m).bit g j = s.bit g j := rfl
@[simp] theorem State.wakeEdge_rd (s : State) (i : Nat) (g : Fld) : (s.wakeEdge i).rd g = s.rd g := rfl
@[simp] theorem State.wakeEdge_flag (s : State) (i : Nat) (g : Fld) : (s.wakeEdge i).flag g = s.flag g := rfl
@[simp] theorem State.wakeEdge_bit (s : State) (i : Nat) (g : Fld) (j : Nat) : (s.wakeEdge i).bit g j = s.bit g j := rfl
@[simp] theorem State.putByte_rd (s : State) (a : Nat) (b : Byte) (g : Fld) : (s.putByte a b).rd g = s.rd g := rfl
@[simp] theorem State.putByte_flag (s : State) (a : Nat) (b : Byte) (g : Fld) : (s.putByte a b).flag g = s.flag g := rfl
@[simp] theorem State.putByte_bit (s : State) (a : Nat) (b : Byte) (g : Fld) (j : Nat) : (s.putByte a b).bit g j = s.bit g j := rfl
@[simp] theorem State.putLeByte_rd (s : State) (a : Nat) (b : Byte) (g : Fld) : (s.putLeByte a b).rd g = s.rd g := rfl
@[simp] theorem State.putLeByte_flag (s : State) (a : Nat) (b : Byte) (g : Fld) : (s.putLeByte a b).flag g = s.flag g := rfl
@[simp] theorem State.putLeByte_bit (s : State) (a : Nat) (b : Byte) (g : Fld) (j : Nat) : (s.putLeByte a b).bit g j = s.bit g j := rfl
@[simp] theorem State.setChan_rd (s : State) (n : Nat) (x : Chan) (g : Fld) : (s.setChan n x).rd g = s.rd g := rfl
@[simp] theorem State.setChan_flag (s : State) (n : Nat) (x : Chan) (g : Fld) : (s.setChan n x).flag g = s.flag g := rfl
@[simp] theorem State.setChan_bit (s : State) (n : Nat) (x : Chan) (g : Fld) (j : Nat) : (s.setChan n x).bit g j = s.bit g j := rfl
@[simp] theorem State.setGroup_rd (s : State) (n : Nat) (x : Group) (g : Fld) : (s.setGroup n x).rd g = s.rd g := rfl
@[simp] theorem State.setGroup_flag (s : State) (n : Nat) (x : Group) (g : Fld) : (s.setGroup n x).flag g = s.flag g := rfl
@[simp] theorem State.setGroup_bit (s : State) (n : Nat) (x : Group) (g : Fld) (j : Nat) : (s.setGroup n x).bit g j = s.bit g j := rfl
@[simp] theorem State.setEngine_rd (s : State) (n : Nat) (x : Engine) (g : Fld) : (s.setEngine n x).rd g = s.rd g := rfl
@[simp] theorem State.setEngine_flag (s : State) (n : Nat) (x : Engine) (g : Fld) : (s.setEngine n x).flag g = s.flag g := rfl
@[simp] theorem State.setEngine_bit (s : State) (n : Nat) (x : Engine) (g : Fld) (j : Nat) : (s.setEngine n x).bit g j = s.bit g j := rfl
@[simp] theorem State.setStand_rd (s : State) (n : Nat) (x : Stand) (g : Fld) : (s.setStand n x).rd g = s.rd g := rfl
@[simp] theorem State.setStand_flag (s : State) (n : Nat) (x : Stand) (g : Fld) : (s.setStand n x).flag g = s.flag g := rfl
@[simp] theorem State.setStand_bit (s : State) (n : Nat) (x : Stand) (g : Fld) (j : Nat) : (s.setStand n x).bit g j = s.bit g j := rfl
@[simp] theorem State.setPortLink_rd (s : State) (n : Nat) (x : PortLink) (g : Fld) : (s.setPortLink n x).rd g = s.rd g := rfl
@[simp] theorem State.setPortLink_flag (s : State) (n : Nat) (x : PortLink) (g : Fld) : (s.setPortLink n x).flag g = s.flag g := rfl
@[simp] theorem State.setPortLink_bit (s : State) (n : Nat) (x : PortLink) (g : Fld) (j : Nat) : (s.setPortLink n x).bit g j = s.bit g j := rfl
@[simp] theorem State.setEtPort_rd (s : State) (n : Nat) (x : EtPort) (g : Fld) : (s.setEtPort n x).rd g = s.rd g := rfl
@[simp] theorem State.setEtPort_flag (s : State) (n : Nat) (x : EtPort) (g : Fld) : (s.setEtPort n x).flag g = s.flag g := rfl
@[simp] theorem State.setEtPort_bit (s : State) (n : Nat) (x : EtPort) (g : Fld) (j : Nat) : (s.setEtPort n x).bit g j = s.bit g j := rfl
@[simp] theorem State.setHbuf_rd (s : State) (n : Nat) (x : HBuf) (g : Fld) : (s.setHbuf n x).rd g = s.rd g := rfl
@[simp] theorem State.setHbuf_flag (s : State) (n : Nat) (x : HBuf) (g : Fld) : (s.setHbuf n x).flag g = s.flag g := rfl
@[simp] theorem State.setHbuf_bit (s : State) (n : Nat) (x : HBuf) (g : Fld) (j : Nat) : (s.setHbuf n x).bit g j = s.bit g j := rfl
@[simp] theorem State.setBlz_rd (s : State) (n : Nat) (x : Blz) (g : Fld) : (s.setBlz n x).rd g = s.rd g := rfl
@[simp] theorem State.setBlz_flag (s : State) (n : Nat) (x : Blz) (g : Fld) : (s.setBlz n x).flag g = s.flag g := rfl
@[simp] theorem State.setBlz_bit (s : State) (n : Nat) (x : Blz) (g : Fld) (j : Nat) : (s.setBlz n x).bit g j = s.bit g j := rfl
@[simp] theorem State.setClaims_rd (s : State) (l : List Claim) (g : Fld) : (s.setClaims l).rd g = s.rd g := rfl
@[simp] theorem State.setClaims_flag (s : State) (l : List Claim) (g : Fld) : (s.setClaims l).flag g = s.flag g := rfl
@[simp] theorem State.setClaims_bit (s : State) (l : List Claim) (g : Fld) (j : Nat) : (s.setClaims l).bit g j = s.bit g j := rfl
@[simp] theorem State.setCtx_rd (s : State) (n : Nat) (x : Ctx) (g : Fld) : (s.setCtx n x).rd g = s.rd g := rfl
@[simp] theorem State.setCtx_flag (s : State) (n : Nat) (x : Ctx) (g : Fld) : (s.setCtx n x).flag g = s.flag g := rfl
@[simp] theorem State.setCtx_bit (s : State) (n : Nat) (x : Ctx) (g : Fld) (j : Nat) : (s.setCtx n x).bit g j = s.bit g j := rfl
@[simp] theorem State.setUport_rd (s : State) (n : Nat) (x : UPort) (g : Fld) : (s.setUport n x).rd g = s.rd g := rfl
@[simp] theorem State.setUport_flag (s : State) (n : Nat) (x : UPort) (g : Fld) : (s.setUport n x).flag g = s.flag g := rfl
@[simp] theorem State.setUport_bit (s : State) (n : Nat) (x : UPort) (g : Fld) (j : Nat) : (s.setUport n x).bit g j = s.bit g j := rfl
@[simp] theorem State.setFab_rd (s : State) (x : Fabric) (g : Fld) : (s.setFab x).rd g = s.rd g := rfl
@[simp] theorem State.setFab_flag (s : State) (x : Fabric) (g : Fld) : (s.setFab x).flag g = s.flag g := rfl
@[simp] theorem State.setFab_bit (s : State) (x : Fabric) (g : Fld) (j : Nat) : (s.setFab x).bit g j = s.bit g j := rfl
@[simp] theorem State.setRwy_rd (s : State) (x : Rootway) (g : Fld) : (s.setRwy x).rd g = s.rd g := rfl
@[simp] theorem State.setRwy_flag (s : State) (x : Rootway) (g : Fld) : (s.setRwy x).flag g = s.flag g := rfl
@[simp] theorem State.setRwy_bit (s : State) (x : Rootway) (g : Fld) (j : Nat) : (s.setRwy x).bit g j = s.bit g j := rfl
@[simp] theorem State.setRng_rd (s : State) (x : Ranger) (g : Fld) : (s.setRng x).rd g = s.rd g := rfl
@[simp] theorem State.setRng_flag (s : State) (x : Ranger) (g : Fld) : (s.setRng x).flag g = s.flag g := rfl
@[simp] theorem State.setRng_bit (s : State) (x : Ranger) (g : Fld) (j : Nat) : (s.setRng x).bit g j = s.bit g j := rfl
@[simp] theorem State.begin_byte (s : State) (t : Nat) (i : Nat) : (s.begin t).byte i = s.byte i := rfl
@[simp] theorem State.begin_leByte (s : State) (t : Nat) (i : Nat) : (s.begin t).leByte i = s.leByte i := rfl
@[simp] theorem State.fresh0_byte (s : State) (i : Nat) : (s.fresh0).byte i = s.byte i := rfl
@[simp] theorem State.fresh0_leByte (s : State) (i : Nat) : (s.fresh0).leByte i = s.leByte i := rfl
@[simp] theorem State.answer_byte (s : State) (r : Resp) (i : Nat) : (s.answer r).byte i = s.byte i := rfl
@[simp] theorem State.answer_leByte (s : State) (r : Resp) (i : Nat) : (s.answer r).leByte i = s.leByte i := rfl
@[simp] theorem State.emit_byte (s : State) (m : Emission) (i : Nat) : (s.emit m).byte i = s.byte i := rfl
@[simp] theorem State.emit_leByte (s : State) (m : Emission) (i : Nat) : (s.emit m).leByte i = s.leByte i := rfl
@[simp] theorem State.wr_byte (s : State) (f : Fld) (v : Nat) (i : Nat) : (s.wr f v).byte i = s.byte i := rfl
@[simp] theorem State.wr_leByte (s : State) (f : Fld) (v : Nat) (i : Nat) : (s.wr f v).leByte i = s.leByte i := rfl
@[simp] theorem State.wrB_byte (s : State) (f : Fld) (b : Bool) (i : Nat) : (s.wrB f b).byte i = s.byte i := rfl
@[simp] theorem State.wrB_leByte (s : State) (f : Fld) (b : Bool) (i : Nat) : (s.wrB f b).leByte i = s.leByte i := rfl
@[simp] theorem State.wrBit_byte (s : State) (f : Fld) (i : Nat) (b : Bool) (i : Nat) : (s.wrBit f i b).byte i = s.byte i := rfl
@[simp] theorem State.wrBit_leByte (s : State) (f : Fld) (i : Nat) (b : Bool) (i : Nat) : (s.wrBit f i b).leByte i = s.leByte i := rfl
@[simp] theorem State.note_byte (s : State) (f : Fld) (m : Nat) (i : Nat) : (s.note f m).byte i = s.byte i := rfl
@[simp] theorem State.note_leByte (s : State) (f : Fld) (m : Nat) (i : Nat) : (s.note f m).leByte i = s.leByte i := rfl
@[simp] theorem State.wakeEdge_byte (s : State) (i : Nat) (i : Nat) : (s.wakeEdge i).byte i = s.byte i := rfl
@[simp] theorem State.wakeEdge_leByte (s : State) (i : Nat) (i : Nat) : (s.wakeEdge i).leByte i = s.leByte i := rfl
@[simp] theorem State.bump_byte (s : State) (f : Fld) (n : Nat) (i : Nat) : (s.bump f n).byte i = s.byte i := rfl
@[simp] theorem State.bump_leByte (s : State) (f : Fld) (n : Nat) (i : Nat) : (s.bump f n).leByte i = s.leByte i := rfl
@[simp] theorem State.tick_byte (s : State) (f : Fld) (i : Nat) : (s.tick f).byte i = s.byte i := rfl
@[simp] theorem State.tick_leByte (s : State) (f : Fld) (i : Nat) : (s.tick f).leByte i = s.leByte i := rfl
@[simp] theorem State.maxWr_byte (s : State) (f : Fld) (v : Nat) (i : Nat) : (s.maxWr f v).byte i = s.byte i := rfl
@[simp] theorem State.maxWr_leByte (s : State) (f : Fld) (v : Nat) (i : Nat) : (s.maxWr f v).leByte i = s.leByte i := rfl
@[simp] theorem State.wr64_byte (s : State) (lo hi : Fld) (v : Nat) (i : Nat) : (s.wr64 lo hi v).byte i = s.byte i := rfl
@[simp] theorem State.wr64_leByte (s : State) (lo hi : Fld) (v : Nat) (i : Nat) : (s.wr64 lo hi v).leByte i = s.leByte i := rfl
@[simp] theorem State.restore_byte (s : State) (l : Letters → Bool) (p : Nat → Bool) (i : Nat) : (s.restore l p).byte i = s.byte i := rfl
@[simp] theorem State.restore_leByte (s : State) (l : Letters → Bool) (p : Nat → Bool) (i : Nat) : (s.restore l p).leByte i = s.leByte i := rfl
@[simp] theorem State.putByte_leByte (s : State) (a : Nat) (b : Byte) (i : Nat) : (s.putByte a b).leByte i = s.leByte i := rfl
@[simp] theorem State.putLeByte_byte (s : State) (a : Nat) (b : Byte) (i : Nat) : (s.putLeByte a b).byte i = s.byte i := rfl
@[simp] theorem State.setChan_byte (s : State) (n : Nat) (x : Chan) (i : Nat) : (s.setChan n x).byte i = s.byte i := rfl
@[simp] theorem State.setChan_leByte (s : State) (n : Nat) (x : Chan) (i : Nat) : (s.setChan n x).leByte i = s.leByte i := rfl
@[simp] theorem State.setGroup_byte (s : State) (n : Nat) (x : Group) (i : Nat) : (s.setGroup n x).byte i = s.byte i := rfl
@[simp] theorem State.setGroup_leByte (s : State) (n : Nat) (x : Group) (i : Nat) : (s.setGroup n x).leByte i = s.leByte i := rfl
@[simp] theorem State.setEngine_byte (s : State) (n : Nat) (x : Engine) (i : Nat) : (s.setEngine n x).byte i = s.byte i := rfl
@[simp] theorem State.setEngine_leByte (s : State) (n : Nat) (x : Engine) (i : Nat) : (s.setEngine n x).leByte i = s.leByte i := rfl
@[simp] theorem State.setStand_byte (s : State) (n : Nat) (x : Stand) (i : Nat) : (s.setStand n x).byte i = s.byte i := rfl
@[simp] theorem State.setStand_leByte (s : State) (n : Nat) (x : Stand) (i : Nat) : (s.setStand n x).leByte i = s.leByte i := rfl
@[simp] theorem State.setPortLink_byte (s : State) (n : Nat) (x : PortLink) (i : Nat) : (s.setPortLink n x).byte i = s.byte i := rfl
@[simp] theorem State.setPortLink_leByte (s : State) (n : Nat) (x : PortLink) (i : Nat) : (s.setPortLink n x).leByte i = s.leByte i := rfl
@[simp] theorem State.setEtPort_byte (s : State) (n : Nat) (x : EtPort) (i : Nat) : (s.setEtPort n x).byte i = s.byte i := rfl
@[simp] theorem State.setEtPort_leByte (s : State) (n : Nat) (x : EtPort) (i : Nat) : (s.setEtPort n x).leByte i = s.leByte i := rfl
@[simp] theorem State.setHbuf_byte (s : State) (n : Nat) (x : HBuf) (i : Nat) : (s.setHbuf n x).byte i = s.byte i := rfl
@[simp] theorem State.setHbuf_leByte (s : State) (n : Nat) (x : HBuf) (i : Nat) : (s.setHbuf n x).leByte i = s.leByte i := rfl
@[simp] theorem State.setBlz_byte (s : State) (n : Nat) (x : Blz) (i : Nat) : (s.setBlz n x).byte i = s.byte i := rfl
@[simp] theorem State.setBlz_leByte (s : State) (n : Nat) (x : Blz) (i : Nat) : (s.setBlz n x).leByte i = s.leByte i := rfl
@[simp] theorem State.setClaims_byte (s : State) (l : List Claim) (i : Nat) : (s.setClaims l).byte i = s.byte i := rfl
@[simp] theorem State.setClaims_leByte (s : State) (l : List Claim) (i : Nat) : (s.setClaims l).leByte i = s.leByte i := rfl
@[simp] theorem State.setCtx_byte (s : State) (n : Nat) (x : Ctx) (i : Nat) : (s.setCtx n x).byte i = s.byte i := rfl
@[simp] theorem State.setCtx_leByte (s : State) (n : Nat) (x : Ctx) (i : Nat) : (s.setCtx n x).leByte i = s.leByte i := rfl
@[simp] theorem State.setUport_byte (s : State) (n : Nat) (x : UPort) (i : Nat) : (s.setUport n x).byte i = s.byte i := rfl
@[simp] theorem State.setUport_leByte (s : State) (n : Nat) (x : UPort) (i : Nat) : (s.setUport n x).leByte i = s.leByte i := rfl
@[simp] theorem State.setFab_byte (s : State) (x : Fabric) (i : Nat) : (s.setFab x).byte i = s.byte i := rfl
@[simp] theorem State.setFab_leByte (s : State) (x : Fabric) (i : Nat) : (s.setFab x).leByte i = s.leByte i := rfl
@[simp] theorem State.setRwy_byte (s : State) (x : Rootway) (i : Nat) : (s.setRwy x).byte i = s.byte i := rfl
@[simp] theorem State.setRwy_leByte (s : State) (x : Rootway) (i : Nat) : (s.setRwy x).leByte i = s.leByte i := rfl
@[simp] theorem State.setRng_byte (s : State) (x : Ranger) (i : Nat) : (s.setRng x).byte i = s.byte i := rfl
@[simp] theorem State.setRng_leByte (s : State) (x : Ranger) (i : Nat) : (s.setRng x).leByte i = s.leByte i := rfl

/-- A field reads what was stored in it, cut to its width. -/
@[simp] theorem State.rd_wr_same (s : State) (f : Fld) (v : Nat) : (s.wr f v).rd f = v % 2 ^ f.w :=
  tblGet_set_same _ _ _ _

/-- Two fields at different places do not touch each other. -/
theorem State.rd_wr_ne (s : State) {f g : Fld} (h : g.key ≠ f.key) (v : Nat) : (s.wr f v).rd g = s.rd g :=
  tblGet_set_ne h _ _ _ _

theorem State.rd_wrB_same (s : State) (f : Fld) (b : Bool) (h : 0 < f.w) : (s.wrB f b).rd f = b2n b := by
  have h2 : b2n b < 2 ^ f.w := by
    have : 2 ^ 1 ≤ 2 ^ f.w := Nat.pow_le_pow_right (by decide) h
    cases b <;> simp [b2n] <;> omega
  rw [State.wrB, State.rd_wr_same, Nat.mod_eq_of_lt h2]

/-- A byte reads what was stored in it. -/
@[simp] theorem State.byte_putByte_same (s : State) (a : Nat) (b : Byte) : (s.putByte a b).byte a = b := by
  simp [State.byte, State.putByte]

/-- Two bytes at different addresses do not touch each other. -/
theorem State.byte_putByte_ne (s : State) {a i : Nat} (h : i ≠ a) (b : Byte) : (s.putByte a b).byte i = s.byte i := by
  simp [State.byte, State.putByte, tblFind_put_ne h]

@[simp] theorem State.leByte_putLeByte_same (s : State) (a : Nat) (b : Byte) : (s.putLeByte a b).leByte a = b :=
  tblGet_set_same _ _ _ _

theorem State.leByte_putLeByte_ne (s : State) {a i : Nat} (h : i ≠ a) (b : Byte) :
    (s.putLeByte a b).leByte i = s.leByte i :=
  tblGet_set_ne h _ _ _ _

/-- A reset by letter leaves a field at its reset value or as it was. -/
theorem State.rd_restore (s : State) (l : Letters → Bool) (p : Nat → Bool) (f : Fld) :
    (s.restore l p).rd f =
      if p (keyAddr f.key) && ((rowFieldOfKey f.key).any fun r => l r.on) then f.rst else s.rd f := by
  unfold State.rd State.restore tblGet
  rw [tblFind_keep]
  by_cases h : (p (keyAddr f.key) && ((rowFieldOfKey f.key).any fun r => l r.on)) = true
  · simp [h]
  · simp [Bool.eq_false_iff.2 h]

/-- A function reset of what reports the state of a block. -/
theorem State.rd_restoreShown (s : State) (p : Nat → Bool) (f : Fld) :
    (s.restoreShown p).rd f =
      if p (keyAddr f.key) && ((rowFieldOfKey f.key).any fun r => r.on.f && r.acc == .ro) then f.rst else s.rd f := by
  unfold State.rd State.restoreShown tblGet
  rw [tblFind_keep]
  by_cases h : (p (keyAddr f.key) && ((rowFieldOfKey f.key).any fun r => r.on.f && r.acc == .ro)) = true
  · simp [h]
  · simp [Bool.eq_false_iff.2 h]

/-! ### Entries of sub-tables -/

@[simp] theorem State.chan_setChan_same (s : State) (n : Nat) (x : Chan) : (s.setChan n x).chan n = x := tblGet_set_same _ _ _ _
theorem State.chan_setChan_ne (s : State) {n i : Nat} (h : i ≠ n) (x : Chan) : (s.setChan n x).chan i = s.chan i :=
  tblGet_set_ne h _ _ _ _
@[simp] theorem State.begin_chan (s : State) (t : Nat) (k : Nat) : (s.begin t).chan k = s.chan k := rfl
@[simp] theorem State.fresh0_chan (s : State) (k : Nat) : (s.fresh0).chan k = s.chan k := rfl
@[simp] theorem State.answer_chan (s : State) (r : Resp) (k : Nat) : (s.answer r).chan k = s.chan k := rfl
@[simp] theorem State.emit_chan (s : State) (m : Emission) (k : Nat) : (s.emit m).chan k = s.chan k := rfl
@[simp] theorem State.wr_chan (s : State) (f : Fld) (v : Nat) (k : Nat) : (s.wr f v).chan k = s.chan k := rfl
@[simp] theorem State.wrB_chan (s : State) (f : Fld) (b : Bool) (k : Nat) : (s.wrB f b).chan k = s.chan k := rfl
@[simp] theorem State.wrBit_chan (s : State) (f : Fld) (i : Nat) (b : Bool) (k : Nat) : (s.wrBit f i b).chan k = s.chan k := rfl
@[simp] theorem State.bump_chan (s : State) (f : Fld) (n : Nat) (k : Nat) : (s.bump f n).chan k = s.chan k := rfl
@[simp] theorem State.tick_chan (s : State) (f : Fld) (k : Nat) : (s.tick f).chan k = s.chan k := rfl
@[simp] theorem State.group_setGroup_same (s : State) (n : Nat) (x : Group) : (s.setGroup n x).group n = x := tblGet_set_same _ _ _ _
theorem State.group_setGroup_ne (s : State) {n i : Nat} (h : i ≠ n) (x : Group) : (s.setGroup n x).group i = s.group i :=
  tblGet_set_ne h _ _ _ _
@[simp] theorem State.begin_group (s : State) (t : Nat) (k : Nat) : (s.begin t).group k = s.group k := rfl
@[simp] theorem State.fresh0_group (s : State) (k : Nat) : (s.fresh0).group k = s.group k := rfl
@[simp] theorem State.answer_group (s : State) (r : Resp) (k : Nat) : (s.answer r).group k = s.group k := rfl
@[simp] theorem State.emit_group (s : State) (m : Emission) (k : Nat) : (s.emit m).group k = s.group k := rfl
@[simp] theorem State.wr_group (s : State) (f : Fld) (v : Nat) (k : Nat) : (s.wr f v).group k = s.group k := rfl
@[simp] theorem State.wrB_group (s : State) (f : Fld) (b : Bool) (k : Nat) : (s.wrB f b).group k = s.group k := rfl
@[simp] theorem State.wrBit_group (s : State) (f : Fld) (i : Nat) (b : Bool) (k : Nat) : (s.wrBit f i b).group k = s.group k := rfl
@[simp] theorem State.bump_group (s : State) (f : Fld) (n : Nat) (k : Nat) : (s.bump f n).group k = s.group k := rfl
@[simp] theorem State.tick_group (s : State) (f : Fld) (k : Nat) : (s.tick f).group k = s.group k := rfl
@[simp] theorem State.engine_setEngine_same (s : State) (n : Nat) (x : Engine) : (s.setEngine n x).engine n = x := tblGet_set_same _ _ _ _
theorem State.engine_setEngine_ne (s : State) {n i : Nat} (h : i ≠ n) (x : Engine) : (s.setEngine n x).engine i = s.engine i :=
  tblGet_set_ne h _ _ _ _
@[simp] theorem State.begin_engine (s : State) (t : Nat) (k : Nat) : (s.begin t).engine k = s.engine k := rfl
@[simp] theorem State.fresh0_engine (s : State) (k : Nat) : (s.fresh0).engine k = s.engine k := rfl
@[simp] theorem State.answer_engine (s : State) (r : Resp) (k : Nat) : (s.answer r).engine k = s.engine k := rfl
@[simp] theorem State.emit_engine (s : State) (m : Emission) (k : Nat) : (s.emit m).engine k = s.engine k := rfl
@[simp] theorem State.wr_engine (s : State) (f : Fld) (v : Nat) (k : Nat) : (s.wr f v).engine k = s.engine k := rfl
@[simp] theorem State.wrB_engine (s : State) (f : Fld) (b : Bool) (k : Nat) : (s.wrB f b).engine k = s.engine k := rfl
@[simp] theorem State.wrBit_engine (s : State) (f : Fld) (i : Nat) (b : Bool) (k : Nat) : (s.wrBit f i b).engine k = s.engine k := rfl
@[simp] theorem State.bump_engine (s : State) (f : Fld) (n : Nat) (k : Nat) : (s.bump f n).engine k = s.engine k := rfl
@[simp] theorem State.tick_engine (s : State) (f : Fld) (k : Nat) : (s.tick f).engine k = s.engine k := rfl
@[simp] theorem State.stand_setStand_same (s : State) (n : Nat) (x : Stand) : (s.setStand n x).stand n = x := tblGet_set_same _ _ _ _
theorem State.stand_setStand_ne (s : State) {n i : Nat} (h : i ≠ n) (x : Stand) : (s.setStand n x).stand i = s.stand i :=
  tblGet_set_ne h _ _ _ _
@[simp] theorem State.begin_stand (s : State) (t : Nat) (k : Nat) : (s.begin t).stand k = s.stand k := rfl
@[simp] theorem State.fresh0_stand (s : State) (k : Nat) : (s.fresh0).stand k = s.stand k := rfl
@[simp] theorem State.answer_stand (s : State) (r : Resp) (k : Nat) : (s.answer r).stand k = s.stand k := rfl
@[simp] theorem State.emit_stand (s : State) (m : Emission) (k : Nat) : (s.emit m).stand k = s.stand k := rfl
@[simp] theorem State.wr_stand (s : State) (f : Fld) (v : Nat) (k : Nat) : (s.wr f v).stand k = s.stand k := rfl
@[simp] theorem State.wrB_stand (s : State) (f : Fld) (b : Bool) (k : Nat) : (s.wrB f b).stand k = s.stand k := rfl
@[simp] theorem State.wrBit_stand (s : State) (f : Fld) (i : Nat) (b : Bool) (k : Nat) : (s.wrBit f i b).stand k = s.stand k := rfl
@[simp] theorem State.bump_stand (s : State) (f : Fld) (n : Nat) (k : Nat) : (s.bump f n).stand k = s.stand k := rfl
@[simp] theorem State.tick_stand (s : State) (f : Fld) (k : Nat) : (s.tick f).stand k = s.stand k := rfl
@[simp] theorem State.portLink_setPortLink_same (s : State) (n : Nat) (x : PortLink) : (s.setPortLink n x).portLink n = x := tblGet_set_same _ _ _ _
theorem State.portLink_setPortLink_ne (s : State) {n i : Nat} (h : i ≠ n) (x : PortLink) : (s.setPortLink n x).portLink i = s.portLink i :=
  tblGet_set_ne h _ _ _ _
@[simp] theorem State.begin_portLink (s : State) (t : Nat) (k : Nat) : (s.begin t).portLink k = s.portLink k := rfl
@[simp] theorem State.fresh0_portLink (s : State) (k : Nat) : (s.fresh0).portLink k = s.portLink k := rfl
@[simp] theorem State.answer_portLink (s : State) (r : Resp) (k : Nat) : (s.answer r).portLink k = s.portLink k := rfl
@[simp] theorem State.emit_portLink (s : State) (m : Emission) (k : Nat) : (s.emit m).portLink k = s.portLink k := rfl
@[simp] theorem State.wr_portLink (s : State) (f : Fld) (v : Nat) (k : Nat) : (s.wr f v).portLink k = s.portLink k := rfl
@[simp] theorem State.wrB_portLink (s : State) (f : Fld) (b : Bool) (k : Nat) : (s.wrB f b).portLink k = s.portLink k := rfl
@[simp] theorem State.wrBit_portLink (s : State) (f : Fld) (i : Nat) (b : Bool) (k : Nat) : (s.wrBit f i b).portLink k = s.portLink k := rfl
@[simp] theorem State.bump_portLink (s : State) (f : Fld) (n : Nat) (k : Nat) : (s.bump f n).portLink k = s.portLink k := rfl
@[simp] theorem State.tick_portLink (s : State) (f : Fld) (k : Nat) : (s.tick f).portLink k = s.portLink k := rfl
@[simp] theorem State.etPort_setEtPort_same (s : State) (n : Nat) (x : EtPort) : (s.setEtPort n x).etPort n = x := tblGet_set_same _ _ _ _
theorem State.etPort_setEtPort_ne (s : State) {n i : Nat} (h : i ≠ n) (x : EtPort) : (s.setEtPort n x).etPort i = s.etPort i :=
  tblGet_set_ne h _ _ _ _
@[simp] theorem State.begin_etPort (s : State) (t : Nat) (k : Nat) : (s.begin t).etPort k = s.etPort k := rfl
@[simp] theorem State.fresh0_etPort (s : State) (k : Nat) : (s.fresh0).etPort k = s.etPort k := rfl
@[simp] theorem State.answer_etPort (s : State) (r : Resp) (k : Nat) : (s.answer r).etPort k = s.etPort k := rfl
@[simp] theorem State.emit_etPort (s : State) (m : Emission) (k : Nat) : (s.emit m).etPort k = s.etPort k := rfl
@[simp] theorem State.wr_etPort (s : State) (f : Fld) (v : Nat) (k : Nat) : (s.wr f v).etPort k = s.etPort k := rfl
@[simp] theorem State.wrB_etPort (s : State) (f : Fld) (b : Bool) (k : Nat) : (s.wrB f b).etPort k = s.etPort k := rfl
@[simp] theorem State.wrBit_etPort (s : State) (f : Fld) (i : Nat) (b : Bool) (k : Nat) : (s.wrBit f i b).etPort k = s.etPort k := rfl
@[simp] theorem State.bump_etPort (s : State) (f : Fld) (n : Nat) (k : Nat) : (s.bump f n).etPort k = s.etPort k := rfl
@[simp] theorem State.tick_etPort (s : State) (f : Fld) (k : Nat) : (s.tick f).etPort k = s.etPort k := rfl
@[simp] theorem State.hbuf_setHbuf_same (s : State) (n : Nat) (x : HBuf) : (s.setHbuf n x).hbuf n = x := tblGet_set_same _ _ _ _
theorem State.hbuf_setHbuf_ne (s : State) {n i : Nat} (h : i ≠ n) (x : HBuf) : (s.setHbuf n x).hbuf i = s.hbuf i :=
  tblGet_set_ne h _ _ _ _
@[simp] theorem State.begin_hbuf (s : State) (t : Nat) (k : Nat) : (s.begin t).hbuf k = s.hbuf k := rfl
@[simp] theorem State.fresh0_hbuf (s : State) (k : Nat) : (s.fresh0).hbuf k = s.hbuf k := rfl
@[simp] theorem State.answer_hbuf (s : State) (r : Resp) (k : Nat) : (s.answer r).hbuf k = s.hbuf k := rfl
@[simp] theorem State.emit_hbuf (s : State) (m : Emission) (k : Nat) : (s.emit m).hbuf k = s.hbuf k := rfl
@[simp] theorem State.wr_hbuf (s : State) (f : Fld) (v : Nat) (k : Nat) : (s.wr f v).hbuf k = s.hbuf k := rfl
@[simp] theorem State.wrB_hbuf (s : State) (f : Fld) (b : Bool) (k : Nat) : (s.wrB f b).hbuf k = s.hbuf k := rfl
@[simp] theorem State.wrBit_hbuf (s : State) (f : Fld) (i : Nat) (b : Bool) (k : Nat) : (s.wrBit f i b).hbuf k = s.hbuf k := rfl
@[simp] theorem State.bump_hbuf (s : State) (f : Fld) (n : Nat) (k : Nat) : (s.bump f n).hbuf k = s.hbuf k := rfl
@[simp] theorem State.tick_hbuf (s : State) (f : Fld) (k : Nat) : (s.tick f).hbuf k = s.hbuf k := rfl
@[simp] theorem State.blz_setBlz_same (s : State) (n : Nat) (x : Blz) : (s.setBlz n x).blz n = x := tblGet_set_same _ _ _ _
theorem State.blz_setBlz_ne (s : State) {n i : Nat} (h : i ≠ n) (x : Blz) : (s.setBlz n x).blz i = s.blz i :=
  tblGet_set_ne h _ _ _ _
@[simp] theorem State.begin_blz (s : State) (t : Nat) (k : Nat) : (s.begin t).blz k = s.blz k := rfl
@[simp] theorem State.fresh0_blz (s : State) (k : Nat) : (s.fresh0).blz k = s.blz k := rfl
@[simp] theorem State.answer_blz (s : State) (r : Resp) (k : Nat) : (s.answer r).blz k = s.blz k := rfl
@[simp] theorem State.emit_blz (s : State) (m : Emission) (k : Nat) : (s.emit m).blz k = s.blz k := rfl
@[simp] theorem State.wr_blz (s : State) (f : Fld) (v : Nat) (k : Nat) : (s.wr f v).blz k = s.blz k := rfl
@[simp] theorem State.wrB_blz (s : State) (f : Fld) (b : Bool) (k : Nat) : (s.wrB f b).blz k = s.blz k := rfl
@[simp] theorem State.wrBit_blz (s : State) (f : Fld) (i : Nat) (b : Bool) (k : Nat) : (s.wrBit f i b).blz k = s.blz k := rfl
@[simp] theorem State.bump_blz (s : State) (f : Fld) (n : Nat) (k : Nat) : (s.bump f n).blz k = s.blz k := rfl
@[simp] theorem State.tick_blz (s : State) (f : Fld) (k : Nat) : (s.tick f).blz k = s.blz k := rfl
@[simp] theorem State.uport_setUport_same (s : State) (n : Nat) (x : UPort) : (s.setUport n x).uport n = x := tblGet_set_same _ _ _ _
theorem State.uport_setUport_ne (s : State) {n i : Nat} (h : i ≠ n) (x : UPort) : (s.setUport n x).uport i = s.uport i :=
  tblGet_set_ne h _ _ _ _
@[simp] theorem State.begin_uport (s : State) (t : Nat) (k : Nat) : (s.begin t).uport k = s.uport k := rfl
@[simp] theorem State.fresh0_uport (s : State) (k : Nat) : (s.fresh0).uport k = s.uport k := rfl
@[simp] theorem State.answer_uport (s : State) (r : Resp) (k : Nat) : (s.answer r).uport k = s.uport k := rfl
@[simp] theorem State.emit_uport (s : State) (m : Emission) (k : Nat) : (s.emit m).uport k = s.uport k := rfl
@[simp] theorem State.wr_uport (s : State) (f : Fld) (v : Nat) (k : Nat) : (s.wr f v).uport k = s.uport k := rfl
@[simp] theorem State.wrB_uport (s : State) (f : Fld) (b : Bool) (k : Nat) : (s.wrB f b).uport k = s.uport k := rfl
@[simp] theorem State.wrBit_uport (s : State) (f : Fld) (i : Nat) (b : Bool) (k : Nat) : (s.wrBit f i b).uport k = s.uport k := rfl
@[simp] theorem State.bump_uport (s : State) (f : Fld) (n : Nat) (k : Nat) : (s.bump f n).uport k = s.uport k := rfl
@[simp] theorem State.tick_uport (s : State) (f : Fld) (k : Nat) : (s.tick f).uport k = s.uport k := rfl

/-! ### Events and records -/

/-- Raising an event changes register fields, and notes the bits that rise, only. -/
theorem State.raise_only (s : State) (n : Nat) : s.raise n = { s with regs := (s.raise n).regs, hits := (s.raise n).hits } := by
  have key : ∀ (l : List Nat) (u : State), (∃ r h, u = { s with regs := r, hits := h }) → ∃ r h, l.foldl
      (fun s' k => if s.bit (STD_EVTi_ROUTE_STANDS n) k then s'.pendFor n k else s') u = { s with regs := r, hits := h } := by
    intro l
    induction l with
    | nil => exact fun u h => h
    | cons k l ih =>
      rintro u ⟨r, h, rfl⟩
      apply ih
      dsimp only
      split
      · exact ⟨_, _, rfl⟩
      · exact ⟨_, _, rfl⟩
  have h : ∃ r h, s.raise n = { s with regs := r, hits := h } := by
    unfold State.raise
    split
    · exact ⟨s.regs, s.hits, rfl⟩
    · exact key _ s ⟨s.regs, s.hits, rfl⟩
  obtain ⟨r, h, hr⟩ := h
  rw [hr]

@[simp] theorem State.raise_pending (s : State) (n : Nat) : (s.raise n).pending = s.pending := by rw [State.raise_only]
@[simp] theorem State.raise_now (s : State) (n : Nat) : (s.raise n).now = s.now := by rw [State.raise_only]
@[simp] theorem State.raise_mem (s : State) (n : Nat) : (s.raise n).mem = s.mem := by rw [State.raise_only]
@[simp] theorem State.raise_leMem (s : State) (n : Nat) : (s.raise n).leMem = s.leMem := by rw [State.raise_only]
@[simp] theorem State.raise_resp (s : State) (n : Nat) : (s.raise n).resp = s.resp := by rw [State.raise_only]
@[simp] theorem State.raise_out (s : State) (n : Nat) : (s.raise n).out = s.out := by rw [State.raise_only]
@[simp] theorem State.raise_fresh (s : State) (n : Nat) : (s.raise n).fresh = s.fresh := by rw [State.raise_only]
@[simp] theorem State.raise_pw (s : State) (n : Nat) : (s.raise n).pw = s.pw := by rw [State.raise_only]
@[simp] theorem State.raise_rcd (s : State) (n : Nat) : (s.raise n).rcd = s.rcd := by rw [State.raise_only]
@[simp] theorem State.raise_std (s : State) (n : Nat) : (s.raise n).std = s.std := by rw [State.raise_only]
@[simp] theorem State.raise_lko (s : State) (n : Nat) : (s.raise n).lko = s.lko := by rw [State.raise_only]
@[simp] theorem State.raise_dbg (s : State) (n : Nat) : (s.raise n).dbg = s.dbg := by rw [State.raise_only]
@[simp] theorem State.raise_cop (s : State) (n : Nat) : (s.raise n).cop = s.cop := by rw [State.raise_only]
@[simp] theorem State.raise_ecc (s : State) (n : Nat) : (s.raise n).ecc = s.ecc := by rw [State.raise_only]
@[simp] theorem State.raise_io (s : State) (n : Nat) : (s.raise n).io = s.io := by rw [State.raise_only]
@[simp] theorem State.raise_eng (s : State) (n : Nat) : (s.raise n).eng = s.eng := by rw [State.raise_only]
@[simp] theorem State.raise_rng (s : State) (n : Nat) : (s.raise n).rng = s.rng := by rw [State.raise_only]
@[simp] theorem State.raise_key (s : State) (n : Nat) : (s.raise n).key = s.key := by rw [State.raise_only]
@[simp] theorem State.raise_cnp (s : State) (n : Nat) : (s.raise n).cnp = s.cnp := by rw [State.raise_only]
@[simp] theorem State.raise_fab (s : State) (n : Nat) : (s.raise n).fab = s.fab := by rw [State.raise_only]
@[simp] theorem State.raise_cvu (s : State) (n : Nat) : (s.raise n).cvu = s.cvu := by rw [State.raise_only]
@[simp] theorem State.raise_rwy (s : State) (n : Nat) : (s.raise n).rwy = s.rwy := by rw [State.raise_only]
@[simp] theorem State.raise_ust (s : State) (n : Nat) : (s.raise n).ust = s.ust := by rw [State.raise_only]
@[simp] theorem State.raise_fwu (s : State) (n : Nat) : (s.raise n).fwu = s.fwu := by rw [State.raise_only]
@[simp] theorem State.raise_pmg (s : State) (n : Nat) : (s.raise n).pmg = s.pmg := by rw [State.raise_only]
@[simp] theorem State.raise_chan (s : State) (n i : Nat) : (s.raise n).chan i = s.chan i := by rw [State.raise_only]; rfl
@[simp] theorem State.raise_group (s : State) (n i : Nat) : (s.raise n).group i = s.group i := by rw [State.raise_only]; rfl
@[simp] theorem State.raise_engine (s : State) (n i : Nat) : (s.raise n).engine i = s.engine i := by rw [State.raise_only]; rfl
@[simp] theorem State.raise_stand (s : State) (n i : Nat) : (s.raise n).stand i = s.stand i := by rw [State.raise_only]; rfl
@[simp] theorem State.raise_portLink (s : State) (n i : Nat) : (s.raise n).portLink i = s.portLink i := by rw [State.raise_only]; rfl
@[simp] theorem State.raise_etPort (s : State) (n i : Nat) : (s.raise n).etPort i = s.etPort i := by rw [State.raise_only]; rfl
@[simp] theorem State.raise_hbuf (s : State) (n i : Nat) : (s.raise n).hbuf i = s.hbuf i := by rw [State.raise_only]; rfl
@[simp] theorem State.raise_blz (s : State) (n i : Nat) : (s.raise n).blz i = s.blz i := by rw [State.raise_only]; rfl
@[simp] theorem State.raise_uport (s : State) (n i : Nat) : (s.raise n).uport i = s.uport i := by rw [State.raise_only]; rfl
@[simp] theorem State.raise_byte (s : State) (n i : Nat) : (s.raise n).byte i = s.byte i := by rw [State.raise_only]; rfl
@[simp] theorem State.raise_leByte (s : State) (n i : Nat) : (s.raise n).leByte i = s.leByte i := by rw [State.raise_only]; rfl

/-- Raising an event touches no field but pending bits of the stands. -/
theorem State.rd_raise (s : State) (n : Nat) (f : Fld) (h : ∀ k, k < 4 → f.key ≠ (STD_Sk_PENDj k (n / 32)).key) :
    (s.raise n).rd f = s.rd f := by
  unfold State.raise
  split
  · rfl
  · have key : ∀ (l : List Nat) (u : State), (∀ k ∈ l, k < 4) → (l.foldl
        (fun s' k => if s.bit (STD_EVTi_ROUTE_STANDS n) k then s'.pendFor n k else s') u).rd f = u.rd f := by
      intro l
      induction l with
      | nil => exact fun u _ => rfl
      | cons k l ih =>
        intro u hl
        rw [List.foldl_cons, ih _ fun k hk => hl k (List.mem_cons_of_mem _ hk)]
        split
        · exact State.rd_wr_ne _ (h k (hl k List.mem_cons_self)) _
        · rfl
    exact key _ s (by decide)

/-- Areas with one number are one area. -/
theorem Area.code_inj {a b : Area} (h : a.code = b.code) : a = b := by
  cases a <;> cases b <;> first | rfl | exact absurd h (by decide)

theorem Area.code_lt (a : Area) : a.code < 32 := by cases a <;> decide

@[simp] theorem Fld.keyGroup_key (f : Fld) : keyGroup f.key = f.area.code := by
  have := f.area.code_lt
  unfold keyGroup Fld.key
  omega

/-- Fields of different areas have different keys. -/
theorem Fld.key_ne_of_area {f g : Fld} (h : f.area ≠ g.area) : f.key ≠ g.key := fun e =>
  h (Area.code_inj (by rw [← Fld.keyGroup_key, ← Fld.keyGroup_key, e]))

/-- A field of another area reads as before. -/
theorem State.rd_wr_area (s : State) {f g : Fld} (h : g.area ≠ f.area) (v : Nat) : (s.wr f v).rd g = s.rd g :=
  State.rd_wr_ne s (Fld.key_ne_of_area h) v

end Sys2Proof.Machine
end

