-- ==== Sys2Proof/Laws/Kept.lean ====
section
/-!
SUPPORT. What every operation of the module keeps: a frame (register fields outside its areas and parts outside its parts
are as before), the queue of waiting commands, and the canonical form of the tables. The files Laws/Kept*.lean hold one
lemma an operation; a proof about a command cites the lemma of its meaning and unfolds nothing.
-/

set_option linter.all false
-- one proof at a time: the package is compiled as one file, in bounded memory
set_option Elab.async false

namespace Sys2Proof.Machine

/-- Every area, and every part. -/
theorem mem_allAreas (a : Area) : a ∈ allAreas := by cases a <;> decide
theorem mem_allParts (p : Part) : p ∈ allParts := by cases p <;> decide


theorem Same.refl (s : State) (p : Part) : Same s s p := by cases p <;> rfl

theorem Same.trans {s u w : State} {p : Part} (h : Same s u p) (k : Same u w p) : Same s w p := by
  cases p <;> exact Eq.trans k h

/-- What an operation keeps: its frame, the queue of waiting commands, and the canonical form of the tables. -/
structure Kept (A : List Area) (P : List Part) (s u : State) : Prop where
  framed : Framed A P s u
  queue : u.pending = s.pending
  canon : s.Canon → u.Canon

theorem Kept.refl (A : List Area) (P : List Part) (s : State) : Kept A P s s :=
  ⟨⟨fun _ _ => rfl, fun p _ => Same.refl s p⟩, rfl, id⟩

variable {A : List Area} {P : List Part} {s0 : State}

theorem inA {l : List Area} (hA : ∀ a ∈ l, a ∈ A) {a : Area} (h : l.elem a = true) : a ∈ A := hA a (List.elem_iff.1 h)
theorem inP {l : List Part} (hP : ∀ p ∈ l, p ∈ P) {p : Part} (h : l.elem p = true) : p ∈ P := hP p (List.elem_iff.1 h)
theorem subA {l m : List Area} (hA : ∀ a ∈ l, a ∈ A) (h : m.all l.elem = true) : ∀ a ∈ m, a ∈ A :=
  fun a ha => inA hA (List.all_eq_true.1 h a ha)
theorem subP {l m : List Part} (hP : ∀ p ∈ l, p ∈ P) (h : m.all l.elem = true) : ∀ p ∈ m, p ∈ P :=
  fun p hp => inP hP (List.all_eq_true.1 h p hp)

/-- An update of parts. -/
theorem Kept.parts {s u : State} (hk : Kept A P s0 s) (hr : u.regs = s.regs) (hq : u.pending = s.pending)
    (hp : ∀ p, p ∉ P → Same s u p) (hc : s.Canon → u.Canon) : Kept A P s0 u :=
  ⟨⟨fun f hf => by
      have := hk.1.1 f hf
      rwa [State.rd, ← hr] at this,
    fun p h => Same.trans (hk.1.2 p h) (hp p h)⟩, hq.trans hk.2, fun c => hc (hk.3 c)⟩


theorem Kept.upd {s : State} (hk : Kept A P s0 s)
    {n hi m l r o f pw rcd std lko dbg cop ecc io eng rng key cnp fab cvu rwy ust fwu pmg}
    (h1 : .now ∈ P ∨ n = s.now)
(h2 : m = s.mem)
(h3 : l = s.leMem)
(h4 : .resp ∈ P ∨ r = s.resp)
(h5 : .out ∈ P ∨ o = s.out)
(h6 : .fresh ∈ P ∨ f = s.fresh)
(h7 : .pw ∈ P ∨ pw = s.pw)
(h8 : .rcd ∈ P ∨ rcd = s.rcd)
(h9 : .std ∈ P ∨ std = s.std)
(h10 : .lko ∈ P ∨ lko = s.lko)
(h11 : .dbg ∈ P ∨ dbg = s.dbg)
(h12 : .cop ∈ P ∨ cop = s.cop)
(h13 : .ecc ∈ P ∨ ecc = s.ecc)
(h14 : .io ∈ P ∨ io = s.io)
(h15 : .eng ∈ P ∨ eng = s.eng)
(h16 : .rng ∈ P ∨ rng = s.rng)
(h17 : .key ∈ P ∨ key = s.key)
(h18 : .cnp ∈ P ∨ cnp = s.cnp)
(h19 : .fab ∈ P ∨ fab = s.fab)
(h20 : .cvu ∈ P ∨ cvu = s.cvu)
(h21 : .rwy ∈ P ∨ rwy = s.rwy)
(h22 : .ust ∈ P ∨ ust = s.ust)
(h23 : .fwu ∈ P ∨ fwu = s.fwu)
(h24 : .pmg ∈ P ∨ pmg = s.pmg)
(h25 : hi = s.hits) :
    Kept A P s0 ⟨s.pending, n, s.regs, hi, m, l, r, o, f, pw, rcd, std, lko, dbg, cop, ecc, io, eng, rng, key, cnp, fab, cvu, rwy, ust, fwu, pmg⟩ := by
  subst h2 h3 h25
  refine Kept.parts hk rfl rfl (fun p hp => ?_) fun c => ⟨c.1, c.2, c.3, c.4, c.5⟩
  cases p
  · exact h1.resolve_left hp
  · rfl
  · rfl
  · exact h4.resolve_left hp
  · exact h5.resolve_left hp
  · exact h6.resolve_left hp
  · exact h7.resolve_left hp
  · exact h8.resolve_left hp
  · exact h9.resolve_left hp
  · exact h10.resolve_left hp
  · exact h11.resolve_left hp
  · exact h12.resolve_left hp
  · exact h13.resolve_left hp
  · exact h14.resolve_left hp
  · exact h15.resolve_left hp
  · exact h16.resolve_left hp
  · exact h17.resolve_left hp
  · exact h18.resolve_left hp
  · exact h19.resolve_left hp
  · exact h20.resolve_left hp
  · exact h21.resolve_left hp
  · exact h22.resolve_left hp
  · exact h23.resolve_left hp
  · exact h24.resolve_left hp

theorem Kept.ite {a b : State} {c : Prop} [Decidable c] (ha : Kept A P s0 a) (hb : Kept A P s0 b) :
    Kept A P s0 (if c then a else b) := by
  split <;> assumption

theorem Kept.snd {α : Type} {u : State} {p : α × State} {a : α} (hk : Kept A P s0 p.2) (e : p = (a, u)) :
    Kept A P s0 u := by
  subst e; exact hk

theorem Kept.fst {α : Type} {u : State} {p : State × α} {a : α} (hk : Kept A P s0 p.1) (e : p = (u, a)) :
    Kept A P s0 u := by
  subst e; exact hk

theorem Kept.foldl {α : Type} {f : State → α → State} (hf : ∀ s x, Kept A P s0 s → Kept A P s0 (f s x)) {s : State}
    (h : Kept A P s0 s) (l : List α) : Kept A P s0 (l.foldl f s) := by
  induction l generalizing s with
  | nil => exact h
  | cons x r ih => exact ih (hf _ _ h)

theorem Kept.foldl2 {α β : Type} {f : β × State → α → β × State}
    (hf : ∀ p x, Kept A P s0 p.2 → Kept A P s0 (f p x).2) {p : β × State} (h : Kept A P s0 p.2) (l : List α) :
    Kept A P s0 (l.foldl f p).2 := by
  induction l generalizing p with
  | nil => exact h
  | cons x r ih => exact ih (hf _ _ h)

/-- The command answers a next state within a frame. -/
def KeptOut (A : List Area) (P : List Part) (s0 : State) : Host.Outcome State Fault Refusal → Prop
  | .next u => Kept A P s0 u
  | _ => False

theorem KeptOut.next {u : State} (hk : Kept A P s0 u) : KeptOut A P s0 (.next u) := hk

theorem KeptOut.ite {a b : Host.Outcome State Fault Refusal} {c : Prop} [Decidable c] (ha : KeptOut A P s0 a)
    (hb : KeptOut A P s0 b) : KeptOut A P s0 (if c then a else b) := by
  split <;> assumption

theorem State.wr_kept {s : State} (hk : Kept A P s0 s) {f : Fld} {v : Nat} (ha : f.area ∈ A) :
    Kept A P s0 (s.wr f v) :=
  ⟨⟨fun g hg => (State.rd_wr_area s (f := f) (g := g) (fun e => hg (by rw [e]; exact ha)) v).trans (hk.1.1 g hg),
    fun p hp => Same.trans (hk.1.2 p hp) (by cases p <;> rfl)⟩, hk.2,
    fun c => ⟨tblWf_set _ _ _ (hk.3 c).1, (hk.3 c).2, (hk.3 c).3, (hk.3 c).4, tblWf_set _ _ _ (hk.3 c).5⟩⟩

theorem inArea_area {ar : Area} {lo hi a : Nat} (h : inArea ar lo hi a = true) : areaAt a = ar := by
  simpa using (Bool.and_eq_true_iff.1 h).1

theorem mem_of_inArea {L : List Area} (hA : ∀ a ∈ L, a ∈ A) {ar : Area} {lo hi a : Nat} (h : inArea ar lo hi a = true)
    (hm : L.elem ar = true) : areaAt a ∈ A := by
  rw [inArea_area h]; exact inA hA hm

theorem mem_of_or {L : List Area} (hA : ∀ a ∈ L, a ∈ A) {x y z : Area} (h : z = x ∨ z = y) (hx : L.elem x = true)
    (hy : L.elem y = true) :
    z ∈ A := by
  rcases h with rfl | rfl
  · exact inA hA hx
  · exact inA hA hy

theorem groupAddr_area {g a : Nat} (h : groupAddr g a = true) : areaAt a = .iog ∨ areaAt a = .chan :=
  (Bool.or_eq_true_iff.1 h).imp inArea_area inArea_area

theorem standAddr_area {k a : Nat} (h : standAddr k a = true) : areaAt a = .std ∨ areaAt a = .pend :=
  (Bool.or_eq_true_iff.1 h).imp inArea_area inArea_area

theorem engineAddr_area {e a : Nat} (h : engineAddr e a = true) : areaAt a = .le ∨ areaAt a = .le :=
  .inl (inArea_area h)

theorem recBlock_area {a : Nat} (h : recBlock a = true) : areaAt a = .recd ∨ areaAt a = .ingress := by
  simpa [recBlock] using h

theorem laneFld_area {k l : Nat} : (laneFld k l).area = .std := by
  unfold laneFld
  split
  · rfl
  · split <;> rfl

theorem rstCounter_area {c : Nat} {f : Fld} (h : rstCounter c = some f) : f.area = .sys := by
  unfold rstCounter at h
  split at h <;> first
    | exact (Option.some.inj h) ▸ rfl
    | cases h

theorem State.restore_kept {s : State} (hk : Kept A P s0 s) {l : Letters → Bool} {p : Nat → Bool}
    (hp : ∀ a, p a = true → areaAt a ∈ A) : Kept A P s0 (s.restore l p) := by
  refine ⟨⟨fun g hg => ?_, fun q hq => Same.trans (hk.1.2 q hq) (by cases q <;> rfl)⟩, hk.2,
    fun c => ⟨tblWf_filter _ (hk.3 c).1, (hk.3 c).2, (hk.3 c).3, (hk.3 c).4, (hk.3 c).5⟩⟩
  rw [State.rd_restore]
  split
  · rename_i h
    exfalso
    rw [Bool.and_eq_true] at h
    have h2 := h.2
    unfold rowFieldOfKey at h2
    split at h2
    · rename_i e
      rw [Fld.keyGroup_key] at e
      exact hg (Area.code_inj e ▸ hp _ h.1)
    · cases h2
  · exact hk.1.1 g hg

theorem State.restoreShown_kept {s : State} (hk : Kept A P s0 s) {p : Nat → Bool}
    (hp : ∀ a, p a = true → areaAt a ∈ A) : Kept A P s0 (s.restoreShown p) := by
  refine ⟨⟨fun g hg => ?_, fun q hq => Same.trans (hk.1.2 q hq) (by cases q <;> rfl)⟩, hk.2,
    fun c => ⟨tblWf_filter _ (hk.3 c).1, (hk.3 c).2, (hk.3 c).3, (hk.3 c).4, (hk.3 c).5⟩⟩
  rw [State.rd_restoreShown]
  split
  · rename_i h
    exfalso
    rw [Bool.and_eq_true] at h
    have h2 := h.2
    unfold rowFieldOfKey at h2
    split at h2
    · rename_i e
      rw [Fld.keyGroup_key] at e
      exact hg (Area.code_inj e ▸ hp _ h.1)
    · cases h2
  · exact hk.1.1 g hg

end Sys2Proof.Machine
end

