-- ==== Sys2Proof/Laws/KeptOps.lean ====
section
/-!
SUPPORT. What each operation keeps (`Kept`), one lemma an operation: the common operations, self-test records, stands.
-/

namespace Sys2Proof.Machine

set_option linter.all false
-- one proof at a time: the package is compiled as one file, in bounded memory
set_option Elab.async false

variable {A : List Area} {P : List Part} {s0 : State}

/-! ### Machine/Ops.lean -/

-- in the base file

theorem State.wrB_kept {s : State} (hk : Kept A P s0 s) {f : Fld} {b : Bool} (hf : f.area ∈ A) :
    Kept A P s0 (State.wrB s f b) := by
  unfold State.wrB
  repeat' first
    | with_reducible assumption
    | with_reducible first
      | intro _ | apply State.wr_kept | dsimp only

theorem State.note_kept {s : State} (hk : Kept A P s0 s) {f : Fld} {m : Nat} :
    Kept A P s0 (State.note s f m) :=
  Kept.parts hk rfl rfl (fun p _ => by cases p <;> rfl) fun c => ⟨c.1, c.2, c.3, c.4, tblWf_set _ _ _ c.5⟩

theorem State.wrBit_kept {s : State} (hk : Kept A P s0 s) {f : Fld} {i : Nat} {b : Bool} (hf : f.area ∈ A) :
    Kept A P s0 (State.wrBit s f i b) := by
  unfold State.wrBit
  repeat' first
    | with_reducible assumption
    | with_reducible first
      | intro _ | apply State.note_kept | apply State.wr_kept | apply Kept.ite | dsimp only

theorem State.bump_kept {s : State} (hk : Kept A P s0 s) {f : Fld} {n : Nat} (hf : f.area ∈ A) :
    Kept A P s0 (State.bump s f n) := by
  unfold State.bump
  repeat' first
    | with_reducible assumption
    | with_reducible first
      | intro _ | apply State.wr_kept | dsimp only

theorem State.tick_kept {s : State} (hk : Kept A P s0 s) {f : Fld} (hf : f.area ∈ A) :
    Kept A P s0 (State.tick s f) := by
  unfold State.tick
  repeat' first
    | with_reducible assumption
    | with_reducible first
      | intro _ | apply State.wr_kept | dsimp only

theorem State.maxWr_kept {s : State} (hk : Kept A P s0 s) {f : Fld} {v : Nat} (hf : f.area ∈ A) :
    Kept A P s0 (State.maxWr s f v) := by
  unfold State.maxWr
  repeat' first
    | with_reducible assumption
    | with_reducible first
      | intro _ | apply State.wr_kept | dsimp only

theorem State.wr64_kept {s : State} (hk : Kept A P s0 s) {lo hi : Fld} {v : Nat} (hlo : lo.area ∈ A)
    (hhi : hi.area ∈ A) :
    Kept A P s0 (State.wr64 s lo hi v) := by
  unfold State.wr64
  repeat' first
    | with_reducible assumption
    | with_reducible first
      | intro _ | apply State.wr_kept | dsimp only

theorem State.putWord_kept {s : State} (hk : Kept A P s0 s) {addr v : Nat} (hA : ∀ a ∈ allAreas, a ∈ A) :
    Kept A P s0 (State.putWord s addr v) := by
  unfold State.putWord
  generalize regFields addr = o
  cases o with
  | none => exact hk
  | some fs => exact Kept.foldl (fun u f hu => State.wr_kept hu (hA _ (mem_allAreas _))) hk fs

theorem State.begin_kept {s : State} (hk : Kept A P s0 s) {t : Nat}
    (hP : ∀ p ∈ ([.now, .resp, .out] : List Part), p ∈ P) :
    Kept A P s0 (State.begin s t) := by
  refine Kept.parts hk rfl rfl (fun p hp => ?_) fun c => ⟨c.1, c.2, c.3, c.4, ?_⟩
  · cases p <;> first | rfl | exact absurd (inP hP rfl) hp
  · unfold State.begin
    dsimp only
    split
    · exact c.5
    · exact tblWf_nil

theorem State.fresh0_kept {s : State} (hk : Kept A P s0 s) (hP : ∀ p ∈ ([.resp, .out] : List Part), p ∈ P) :
    Kept A P s0 (State.fresh0 s) := by
  unfold State.fresh0
  repeat' first
    | with_reducible assumption | exact .inl (inP hP rfl) | exact subP hP rfl | with_reducible exact rfl
    | exact .inr rfl
    | with_reducible first
      | intro _ | dsimp only
    | fail_if_no_progress with_reducible apply Kept.upd

theorem State.answer_kept {s : State} (hk : Kept A P s0 s) {r : Resp} (hP : ∀ p ∈ ([.resp] : List Part), p ∈ P) :
    Kept A P s0 (State.answer s r) := by
  unfold State.answer
  repeat' first
    | with_reducible assumption | exact .inl (inP hP rfl) | exact subP hP rfl | with_reducible exact rfl
    | exact .inr rfl
    | with_reducible first
      | intro _ | dsimp only
    | fail_if_no_progress with_reducible apply Kept.upd

theorem State.emit_kept {s : State} (hk : Kept A P s0 s) {e : Emission} (hP : ∀ p ∈ ([.out] : List Part), p ∈ P) :
    Kept A P s0 (State.emit s e) := by
  unfold State.emit
  repeat' first
    | with_reducible assumption | exact .inl (inP hP rfl) | exact subP hP rfl | with_reducible exact rfl
    | exact .inr rfl
    | with_reducible first
      | intro _ | dsimp only
    | fail_if_no_progress with_reducible apply Kept.upd

theorem State.wakeEdge_kept {s : State} (hk : Kept A P s0 s) {i : Nat} (hP : ∀ p ∈ ([.pmg] : List Part), p ∈ P) :
    Kept A P s0 (State.wakeEdge s i) := by
  unfold State.wakeEdge
  repeat' first
    | with_reducible assumption | exact .inl (inP hP rfl) | exact subP hP rfl | with_reducible exact rfl
    | exact .inr rfl
    | with_reducible first
      | intro _ | dsimp only
    | fail_if_no_progress with_reducible apply Kept.upd

theorem State.free_kept {s : State} (hk : Kept A P s0 s) (hP : ∀ p ∈ ([.fresh] : List Part), p ∈ P) :
    Kept A P s0 (State.free s).2 :=
  Kept.parts hk rfl rfl (fun q hq => by cases q <;> first | rfl | exact absurd (inP hP rfl) hq)
    fun c => ⟨c.1, c.2, c.3, c.4, c.5⟩

-- in the base file

-- in the base file

theorem State.pendFor_kept {s : State} (hk : Kept A P s0 s) {n k : Nat} (hA : ∀ a ∈ ([.pend] : List Area), a ∈ A) :
    Kept A P s0 (State.pendFor s n k) := by
  unfold State.pendFor
  repeat' first
    | with_reducible assumption | exact inA hA rfl | exact subA hA rfl
    | with_reducible first
      | intro _ | apply State.wrBit_kept | dsimp only

theorem State.raise_kept {s : State} (hk : Kept A P s0 s) {n : Nat} (hA : ∀ a ∈ ([.pend] : List Area), a ∈ A) :
    Kept A P s0 (State.raise s n) := by
  unfold State.raise
  repeat' first
    | with_reducible assumption | exact inA hA rfl | exact subA hA rfl
    | with_reducible first
      | intro _ | apply State.pendFor_kept | apply Kept.ite | apply Kept.foldl | dsimp only

theorem State.dropRecord_kept {s : State} (hk : Kept A P s0 s) {cls src time : Nat}
    (hA : ∀ a ∈ ([.pend, .ingress] : List Area), a ∈ A) (hP : ∀ p ∈ ([.rcd] : List Part), p ∈ P) :
    Kept A P s0 (State.dropRecord s cls src time) := by
  unfold State.dropRecord
  repeat' first
    | with_reducible assumption | exact inA hA rfl | exact subA hA rfl | exact .inl (inP hP rfl) | exact subP hP rfl
    | with_reducible exact rfl | exact .inr rfl
    | with_reducible first
      | intro _ | apply State.bump_kept | apply State.raise_kept | apply State.wr_kept | apply Kept.ite | dsimp only
    | fail_if_no_progress with_reducible apply Kept.upd

theorem State.setQueue_kept {s : State} (hk : Kept A P s0 s) {q : List Desc}
    (hA : ∀ a ∈ ([.ingress] : List Area), a ∈ A) (hP : ∀ p ∈ ([.rcd] : List Part), p ∈ P) :
    Kept A P s0 (State.setQueue s q) := by
  unfold State.setQueue
  repeat' first
    | with_reducible assumption | exact inA hA rfl | exact subA hA rfl | exact .inl (inP hP rfl) | exact subP hP rfl
    | with_reducible exact rfl | exact .inr rfl
    | with_reducible first
      | intro _ | apply State.wr_kept | dsimp only
    | fail_if_no_progress with_reducible apply Kept.upd

theorem State.offer_kept {s : State} (hk : Kept A P s0 s) {d : Desc} {cls src time : Nat}
    (hA : ∀ a ∈ ([.pend, .ingress] : List Area), a ∈ A) (hP : ∀ p ∈ ([.pw, .rcd] : List Part), p ∈ P) :
    Kept A P s0 (State.offer s d cls src time).2 := by
  unfold State.offer
  repeat' first
    | with_reducible assumption | exact inA hA rfl | exact subA hA rfl | exact .inl (inP hP rfl) | exact subP hP rfl
    | with_reducible exact rfl | exact .inr rfl
    | with_reducible first
      | intro _ | apply State.dropRecord_kept | apply State.setQueue_kept | apply Kept.ite | split | dsimp only
    | fail_if_no_progress with_reducible apply Kept.upd

theorem State.record_kept {s : State} (hk : Kept A P s0 s) {cls src kind obj : Nat} {w0 w1 : Option Nat}
    (hA : ∀ a ∈ ([.pend, .ingress] : List Area), a ∈ A) (hP : ∀ p ∈ ([.pw, .rcd] : List Part), p ∈ P) :
    Kept A P s0 (State.record s cls src kind obj w0 w1) := by
  unfold State.record
  repeat' first
    | with_reducible assumption | exact inA hA rfl | exact subA hA rfl | exact .inl (inP hP rfl) | exact subP hP rfl
    | with_reducible first
      | intro _ | apply State.offer_kept | refine Kept.snd ?_ (by assumption) | refine Kept.fst ?_ (by assumption)
      | split | dsimp only

theorem State.setEngine_kept {s : State} (hk : Kept A P s0 s) {e : Nat} {x : Engine}
    (hP : ∀ p ∈ ([.eng] : List Part), p ∈ P) :
    Kept A P s0 (State.setEngine s e x) := by
  unfold State.setEngine
  repeat' first
    | with_reducible assumption | exact .inl (inP hP rfl) | exact subP hP rfl | with_reducible exact rfl
    | exact .inr rfl
    | with_reducible first
      | intro _ | dsimp only
    | fail_if_no_progress with_reducible apply Kept.upd

theorem State.putByte_kept {s : State} (hk : Kept A P s0 s) {a : Nat} {b : Byte}
    (hP : ∀ p ∈ ([.mem] : List Part), p ∈ P) :
    Kept A P s0 (State.putByte s a b) :=
  Kept.parts hk rfl rfl (fun q hq => by cases q <;> first | rfl | exact absurd (inP hP rfl) hq)
    fun c => ⟨c.1, tblWf_put _ _ c.2, c.3, c.4, c.5⟩

theorem State.putBytes_kept {s : State} (hk : Kept A P s0 s) {a : Nat} {bs : List Byte}
    (hP : ∀ p ∈ ([.mem] : List Part), p ∈ P) :
    Kept A P s0 (State.putBytes s a bs) := by
  induction bs generalizing s a with
  | nil => exact hk
  | cons b r ih => exact ih (State.putByte_kept hk hP)

/-! ### Machine/Coppice.lean -/

theorem State.logRepair_kept {s : State} (hk : Kept A P s0 s) {type what info : Nat} {werr : Bool}
    (hA : ∀ a ∈ ([.pend, .cpc, .ingress] : List Area), a ∈ A) (hP : ∀ p ∈ ([.pw, .rcd, .cop] : List Part), p ∈ P) :
    Kept A P s0 (State.logRepair s type what info werr) := by
  unfold State.logRepair
  repeat' first
    | with_reducible assumption | exact inA hA rfl | exact subA hA rfl | exact .inl (inP hP rfl) | exact subP hP rfl
    | with_reducible exact rfl | exact .inr rfl
    | with_reducible first
      | intro _ | apply State.raise_kept | apply State.record_kept | apply State.wr_kept | apply Kept.ite | dsimp only
    | fail_if_no_progress with_reducible apply Kept.upd

theorem State.poolFall_kept {s : State} (hk : Kept A P s0 s) {b a initial : Nat}
    (hA : ∀ a ∈ ([.pend, .cpc] : List Area), a ∈ A) :
    Kept A P s0 (State.poolFall s b a initial) := by
  unfold State.poolFall
  repeat' first
    | with_reducible assumption | exact inA hA rfl | exact subA hA rfl
    | with_reducible first
      | intro _ | apply State.raise_kept | apply State.wr_kept | apply Kept.ite | dsimp only

theorem State.poolEmpty_kept {s : State} (hk : Kept A P s0 s) (hA : ∀ a ∈ ([.pend, .ingress] : List Area), a ∈ A)
    (hP : ∀ p ∈ ([.pw, .rcd] : List Part), p ∈ P) :
    Kept A P s0 (State.poolEmpty s) := by
  unfold State.poolEmpty
  repeat' first
    | with_reducible assumption | exact inA hA rfl | exact subA hA rfl | exact .inl (inP hP rfl) | exact subP hP rfl
    | with_reducible exact rfl | exact .inr rfl
    | with_reducible first
      | intro _ | apply State.record_kept | dsimp only
    | fail_if_no_progress with_reducible apply Kept.upd

theorem State.setStand_kept {s : State} (hk : Kept A P s0 s) {k : Nat} {x : Stand}
    (hP : ∀ p ∈ ([.std] : List Part), p ∈ P) :
    Kept A P s0 (State.setStand s k x) := by
  unfold State.setStand
  repeat' first
    | with_reducible assumption | exact .inl (inP hP rfl) | exact subP hP rfl | with_reducible exact rfl
    | exact .inr rfl
    | with_reducible first
      | intro _ | dsimp only
    | fail_if_no_progress with_reducible apply Kept.upd

theorem State.syncCores_kept {s : State} (hk : Kept A P s0 s) (hA : ∀ a ∈ ([.std, .pend, .cpc] : List Area), a ∈ A) :
    Kept A P s0 (State.syncCores s) := by
  unfold State.syncCores
  repeat' first
    | with_reducible assumption | exact inA hA rfl | exact subA hA rfl
    | with_reducible first
      | intro _ | apply State.poolFall_kept | apply State.wr_kept | apply Kept.foldl | dsimp only

theorem State.testCore_kept {s : State} (hk : Kept A P s0 s) {c : Nat} {on : Bool}
    (hP : ∀ p ∈ ([.cop] : List Part), p ∈ P) :
    Kept A P s0 (State.testCore s c on) := by
  unfold State.testCore
  repeat' first
    | with_reducible assumption | exact .inl (inP hP rfl) | exact subP hP rfl | with_reducible exact rfl
    | exact .inr rfl
    | with_reducible first
      | intro _ | dsimp only
    | fail_if_no_progress with_reducible apply Kept.upd

theorem State.fenceCore_kept {s : State} (hk : Kept A P s0 s) {c : Nat} {on : Bool}
    (hP : ∀ p ∈ ([.cop] : List Part), p ∈ P) :
    Kept A P s0 (State.fenceCore s c on) := by
  unfold State.fenceCore
  repeat' first
    | with_reducible assumption | exact .inl (inP hP rfl) | exact subP hP rfl | with_reducible exact rfl
    | exact .inr rfl
    | with_reducible first
      | intro _ | dsimp only
    | fail_if_no_progress with_reducible apply Kept.upd

theorem State.proveCore_kept {s : State} (hk : Kept A P s0 s) {c : Nat} {on : Bool}
    (hP : ∀ p ∈ ([.cop] : List Part), p ∈ P) :
    Kept A P s0 (State.proveCore s c on) := by
  unfold State.proveCore
  repeat' first
    | with_reducible assumption | exact .inl (inP hP rfl) | exact subP hP rfl | with_reducible exact rfl
    | exact .inr rfl
    | with_reducible first
      | intro _ | dsimp only
    | fail_if_no_progress with_reducible apply Kept.upd

theorem State.checkNoSpare_kept {s : State} (hk : Kept A P s0 s) {k : Nat}
    (hA : ∀ a ∈ ([.std, .pend, .ingress] : List Area), a ∈ A) (hP : ∀ p ∈ ([.pw, .rcd] : List Part), p ∈ P) :
    Kept A P s0 (State.checkNoSpare s k) := by
  unfold State.checkNoSpare
  repeat' first
    | with_reducible assumption | exact inA hA rfl | exact subA hA rfl | exact .inl (inP hP rfl) | exact subP hP rfl
    | with_reducible exact rfl | exact .inr rfl
    | with_reducible first
      | intro _ | apply State.record_kept | apply State.wr_kept | apply Kept.ite | dsimp only
    | fail_if_no_progress with_reducible apply Kept.upd

theorem State.checkSpares_kept {s : State} (hk : Kept A P s0 s)
    (hA : ∀ a ∈ ([.std, .pend, .ingress] : List Area), a ∈ A) (hP : ∀ p ∈ ([.pw, .rcd] : List Part), p ∈ P) :
    Kept A P s0 (State.checkSpares s) := by
  unfold State.checkSpares
  repeat' first
    | with_reducible assumption | exact inA hA rfl | exact subA hA rfl | exact .inl (inP hP rfl) | exact subP hP rfl
    | with_reducible first
      | intro _ | apply State.checkNoSpare_kept | apply Kept.foldl | dsimp only

theorem State.retireCore_kept {s : State} (hk : Kept A P s0 s) {c : Nat} {werr : Bool}
    (hA : ∀ a ∈ ([.std, .pend, .cpc, .ingress] : List Area), a ∈ A)
    (hP : ∀ p ∈ ([.pw, .rcd, .std, .cop] : List Part), p ∈ P) :
    Kept A P s0 (State.retireCore s c werr) := by
  unfold State.retireCore
  repeat' first
    | with_reducible assumption | exact inA hA rfl | exact subA hA rfl | exact .inl (inP hP rfl) | exact subP hP rfl
    | with_reducible exact rfl | exact .inr rfl | exact laneFld_area ▸ inA hA rfl
    | with_reducible first
      | intro _ | apply State.checkSpares_kept | apply State.fenceCore_kept | apply State.logRepair_kept
      | apply State.proveCore_kept | apply State.raise_kept | apply State.setStand_kept | apply State.syncCores_kept
      | apply State.testCore_kept | apply State.wr_kept | apply State.wrBit_kept | apply Kept.ite | apply Kept.foldl
      | split | dsimp only
    | fail_if_no_progress with_reducible apply Kept.upd

theorem State.fencedCorePassed_kept {s : State} (hk : Kept A P s0 s) {c : Nat} {werr : Bool}
    (hA : ∀ a ∈ ([.std, .pend, .cpc, .ingress] : List Area), a ∈ A)
    (hP : ∀ p ∈ ([.pw, .rcd, .std, .cop] : List Part), p ∈ P) :
    Kept A P s0 (State.fencedCorePassed s c werr) := by
  unfold State.fencedCorePassed
  repeat' first
    | with_reducible assumption | exact inA hA rfl | exact subA hA rfl | exact .inl (inP hP rfl) | exact subP hP rfl
    | with_reducible exact rfl | exact .inr rfl | exact laneFld_area ▸ inA hA rfl
    | with_reducible first
      | intro _ | apply State.fenceCore_kept | apply State.proveCore_kept | apply State.retireCore_kept
      | apply State.syncCores_kept | apply State.wr_kept | apply State.wrBit_kept | apply Kept.ite | split
      | dsimp only
    | fail_if_no_progress with_reducible apply Kept.upd

theorem State.corePassed_kept {s : State} (hk : Kept A P s0 s) {c : Nat} {werr : Bool}
    (hA : ∀ a ∈ ([.std, .pend, .cpc, .ingress] : List Area), a ∈ A)
    (hP : ∀ p ∈ ([.pw, .rcd, .std, .cop] : List Part), p ∈ P) :
    Kept A P s0 (State.corePassed s c werr) := by
  unfold State.corePassed
  repeat' first
    | with_reducible assumption | exact inA hA rfl | exact subA hA rfl | exact .inl (inP hP rfl) | exact subP hP rfl
    | with_reducible first
      | intro _ | apply State.fencedCorePassed_kept | apply State.proveCore_kept | apply Kept.ite | dsimp only

theorem State.retireLane_kept {s : State} (hk : Kept A P s0 s) {e l : Nat} {werr : Bool}
    (hA : ∀ a ∈ ([.pend, .le, .cpc, .ingress] : List Area), a ∈ A)
    (hP : ∀ p ∈ ([.pw, .rcd, .cop] : List Part), p ∈ P) :
    Kept A P s0 (State.retireLane s e l werr) := by
  unfold State.retireLane
  repeat' first
    | with_reducible assumption | exact inA hA rfl | exact subA hA rfl | exact .inl (inP hP rfl) | exact subP hP rfl
    | with_reducible exact rfl | exact .inr rfl
    | with_reducible first
      | intro _ | apply State.logRepair_kept | apply State.poolFall_kept | apply State.raise_kept
      | apply State.wr_kept | apply State.wrBit_kept | dsimp only
    | fail_if_no_progress with_reducible apply Kept.upd

theorem State.laneFailed_kept {s : State} (hk : Kept A P s0 s) {e l : Nat} {werr : Bool}
    (hA : ∀ a ∈ ([.pend, .le, .cpc, .ingress] : List Area), a ∈ A)
    (hP : ∀ p ∈ ([.pw, .rcd, .cop] : List Part), p ∈ P) :
    Kept A P s0 (State.laneFailed s e l werr) := by
  unfold State.laneFailed
  repeat' first
    | with_reducible assumption | exact inA hA rfl | exact subA hA rfl | exact .inl (inP hP rfl) | exact subP hP rfl
    | with_reducible first
      | intro _ | apply State.raise_kept | apply State.retireLane_kept | dsimp only

theorem State.enterPhases_kept {s : State} (hk : Kept A P s0 s) {r : BistRun} {l : List Nat}
    (hA : ∀ a ∈ ([.bist] : List Area), a ∈ A) (hP : ∀ p ∈ ([.cop] : List Part), p ∈ P) :
    Kept A P s0 (State.enterPhases s r l) := by
  unfold State.enterPhases
  repeat' first
    | with_reducible assumption | exact inA hA rfl | exact subA hA rfl | exact .inl (inP hP rfl) | exact subP hP rfl
    | with_reducible exact rfl | exact .inr rfl
    | with_reducible first
      | intro _ | apply State.wr_kept | dsimp only
    | fail_if_no_progress with_reducible apply Kept.upd

theorem State.bistBegin_kept {s : State} (hk : Kept A P s0 s) {r : BistRun}
    (hA : ∀ a ∈ ([.std, .pend, .cpc, .bist] : List Area), a ∈ A) (hP : ∀ p ∈ ([.cop, .cnp] : List Part), p ∈ P) :
    Kept A P s0 (State.bistBegin s r) := by
  unfold State.bistBegin
  repeat' first
    | with_reducible assumption | exact inA hA rfl | exact subA hA rfl | exact .inl (inP hP rfl) | exact subP hP rfl
    | with_reducible exact rfl | exact .inr rfl
    | with_reducible first
      | intro _ | apply State.enterPhases_kept | apply State.syncCores_kept | dsimp only
    | fail_if_no_progress with_reducible apply Kept.upd

theorem State.bistUnmark_kept {s : State} (hk : Kept A P s0 s) {r : BistRun} (hP : ∀ p ∈ ([.cop] : List Part), p ∈ P) :
    Kept A P s0 (State.bistUnmark s r) := by
  unfold State.bistUnmark
  repeat' first
    | with_reducible assumption | exact .inl (inP hP rfl) | exact subP hP rfl | with_reducible exact rfl
    | exact .inr rfl
    | with_reducible first
      | intro _ | apply Kept.ite | dsimp only
    | fail_if_no_progress with_reducible apply Kept.upd

theorem State.abortRun_kept {s : State} (hk : Kept A P s0 s)
    (hA : ∀ a ∈ ([.std, .pend, .cpc, .bist] : List Area), a ∈ A) (hP : ∀ p ∈ ([.cop] : List Part), p ∈ P) :
    Kept A P s0 (State.abortRun s) := by
  unfold State.abortRun
  repeat' first
    | with_reducible assumption | exact inA hA rfl | exact subA hA rfl | exact .inl (inP hP rfl) | exact subP hP rfl
    | with_reducible exact rfl | exact .inr rfl
    | with_reducible first
      | intro _ | apply State.bistUnmark_kept | apply State.raise_kept | apply State.syncCores_kept
      | apply State.wr_kept | split | dsimp only
    | fail_if_no_progress with_reducible apply Kept.upd

theorem State.coppiceTakes_kept {s : State} (hk : Kept A P s0 s)
    (hA : ∀ a ∈ ([.std, .pend, .cpc, .bist] : List Area), a ∈ A) (hP : ∀ p ∈ ([.cop] : List Part), p ∈ P) :
    Kept A P s0 (State.coppiceTakes s) := by
  unfold State.coppiceTakes
  repeat' first
    | with_reducible assumption | exact inA hA rfl | exact subA hA rfl | exact .inl (inP hP rfl) | exact subP hP rfl
    | with_reducible exact rfl | exact .inr rfl
    | with_reducible first
      | intro _ | apply State.abortRun_kept | apply State.wr_kept | apply Kept.ite | split | dsimp only
    | fail_if_no_progress with_reducible apply Kept.upd

theorem State.nextRun_kept {s : State} (hk : Kept A P s0 s)
    (hA : ∀ a ∈ ([.std, .pend, .cpc, .bist] : List Area), a ∈ A) (hP : ∀ p ∈ ([.cop, .cnp] : List Part), p ∈ P) :
    Kept A P s0 (State.nextRun s) := by
  unfold State.nextRun
  repeat' first
    | with_reducible assumption | exact inA hA rfl | exact subA hA rfl | exact .inl (inP hP rfl) | exact subP hP rfl
    | with_reducible exact rfl | exact .inr rfl
    | with_reducible first
      | intro _ | apply State.bistBegin_kept | split | dsimp only
    | fail_if_no_progress with_reducible apply Kept.upd

theorem State.coppiceEnds_kept {s : State} (hk : Kept A P s0 s)
    (hA : ∀ a ∈ ([.std, .pend, .cpc, .bist] : List Area), a ∈ A) (hP : ∀ p ∈ ([.cop, .cnp] : List Part), p ∈ P) :
    Kept A P s0 (State.coppiceEnds s) := by
  unfold State.coppiceEnds
  repeat' first
    | with_reducible assumption | exact inA hA rfl | exact subA hA rfl | exact .inl (inP hP rfl) | exact subP hP rfl
    | with_reducible first
      | intro _ | apply State.nextRun_kept | apply State.wr_kept | apply Kept.ite | dsimp only

theorem State.runOver_kept {s : State} (hk : Kept A P s0 s)
    (hA : ∀ a ∈ ([.std, .pend, .cpc, .bist] : List Area), a ∈ A) (hP : ∀ p ∈ ([.cop, .cnp] : List Part), p ∈ P) :
    Kept A P s0 (State.runOver s) := by
  unfold State.runOver
  repeat' first
    | with_reducible assumption | exact inA hA rfl | exact subA hA rfl | exact .inl (inP hP rfl) | exact subP hP rfl
    | with_reducible first
      | intro _ | apply State.nextRun_kept | apply State.wr_kept | apply Kept.ite | dsimp only

theorem State.runAsked_kept {s : State} (hk : Kept A P s0 s) {r : BistRun}
    (hA : ∀ a ∈ ([.std, .pend, .cpc, .bist] : List Area), a ∈ A) (hP : ∀ p ∈ ([.cop, .cnp] : List Part), p ∈ P) :
    Kept A P s0 (State.runAsked s r) := by
  unfold State.runAsked
  repeat' first
    | with_reducible assumption | exact inA hA rfl | exact subA hA rfl | exact .inl (inP hP rfl) | exact subP hP rfl
    | with_reducible exact rfl | exact .inr rfl
    | with_reducible first
      | intro _ | apply State.bistBegin_kept | apply Kept.ite | dsimp only
    | fail_if_no_progress with_reducible apply Kept.upd

theorem State.coppiceTest_kept {s : State} (hk : Kept A P s0 s) {c : Nat}
    (hA : ∀ a ∈ ([.std, .pend, .cpc, .bist] : List Area), a ∈ A) (hP : ∀ p ∈ ([.cop] : List Part), p ∈ P) :
    Kept A P s0 (State.coppiceTest s c) := by
  unfold State.coppiceTest
  repeat' first
    | with_reducible assumption | exact inA hA rfl | exact subA hA rfl | exact .inl (inP hP rfl) | exact subP hP rfl
    | with_reducible first
      | intro _ | apply State.coppiceTakes_kept | apply State.syncCores_kept | apply State.testCore_kept | dsimp only

theorem State.coppiceTestLane_kept {s : State} (hk : Kept A P s0 s) {e l : Nat}
    (hA : ∀ a ∈ ([.std, .pend, .cpc, .bist] : List Area), a ∈ A) (hP : ∀ p ∈ ([.cop] : List Part), p ∈ P) :
    Kept A P s0 (State.coppiceTestLane s e l) := by
  unfold State.coppiceTestLane
  repeat' first
    | with_reducible assumption | exact inA hA rfl | exact subA hA rfl | exact .inl (inP hP rfl) | exact subP hP rfl
    | with_reducible exact rfl | exact .inr rfl
    | with_reducible first
      | intro _ | apply State.coppiceTakes_kept | dsimp only
    | fail_if_no_progress with_reducible apply Kept.upd

/-! ### Machine/Stands.lean -/

theorem State.syncSafe_kept {s : State} (hk : Kept A P s0 s) {k : Nat} (hA : ∀ a ∈ ([.std] : List Area), a ∈ A) :
    Kept A P s0 (State.syncSafe s k) := by
  unfold State.syncSafe
  repeat' first
    | with_reducible assumption | exact inA hA rfl | exact subA hA rfl
    | with_reducible first
      | intro _ | apply State.wrB_kept | dsimp only

theorem State.showReserve_kept {s : State} (hk : Kept A P s0 s) {k : Nat} (hA : ∀ a ∈ ([.std] : List Area), a ∈ A) :
    Kept A P s0 (State.showReserve s k) := by
  unfold State.showReserve
  repeat' first
    | with_reducible assumption | exact inA hA rfl | exact subA hA rfl
    | with_reducible first
      | intro _ | apply State.wr_kept | dsimp only

theorem State.assign_kept {s : State} (hk : Kept A P s0 s) {k a b c : Nat} {reserve : List Nat}
    (hA : ∀ a ∈ ([.std] : List Area), a ∈ A) (hP : ∀ p ∈ ([.std, .cop] : List Part), p ∈ P) :
    Kept A P s0 (State.assign s k a b c reserve) := by
  unfold State.assign
  repeat' first
    | with_reducible assumption | exact inA hA rfl | exact subA hA rfl | exact .inl (inP hP rfl) | exact subP hP rfl
    | with_reducible exact rfl | exact .inr rfl | exact laneFld_area ▸ inA hA rfl
    | with_reducible first
      | intro _ | apply State.proveCore_kept | apply State.setStand_kept | apply State.showReserve_kept
      | apply State.wr_kept | apply Kept.ite | apply Kept.foldl | dsimp only
    | fail_if_no_progress with_reducible apply Kept.upd

theorem State.form_kept {s : State} (hk : Kept A P s0 s) {k mode : Nat} {cs : List Nat} {entry : Nat}
    (hA : ∀ a ∈ ([.std] : List Area), a ∈ A) (hP : ∀ p ∈ ([.std, .cop] : List Part), p ∈ P) :
    Kept A P s0 (State.form s k mode cs entry) := by
  unfold State.form
  repeat' first
    | with_reducible assumption | exact inA hA rfl | exact subA hA rfl | exact .inl (inP hP rfl) | exact subP hP rfl
    | with_reducible exact rfl | exact .inr rfl
    | with_reducible first
      | intro _ | apply State.assign_kept | apply State.setStand_kept | apply State.wr_kept | apply Kept.ite | split
      | dsimp only
    | fail_if_no_progress with_reducible apply Kept.upd

theorem State.request_kept {s : State} (hk : Kept A P s0 s) {k : Nat} {r : HoReq}
    (hA : ∀ a ∈ ([.std] : List Area), a ∈ A) (hP : ∀ p ∈ ([.std] : List Part), p ∈ P) :
    Kept A P s0 (State.request s k r) := by
  unfold State.request
  repeat' first
    | with_reducible assumption | exact inA hA rfl | exact subA hA rfl | exact .inl (inP hP rfl) | exact subP hP rfl
    | with_reducible exact rfl | exact .inr rfl
    | with_reducible first
      | intro _ | apply State.setStand_kept | apply State.wr_kept | dsimp only
    | fail_if_no_progress with_reducible apply Kept.upd

theorem State.fileRequest_kept {s : State} (hk : Kept A P s0 s) {r k : Nat} {q : HoReq}
    (hA : ∀ a ∈ ([.std] : List Area), a ∈ A) (hP : ∀ p ∈ ([.std] : List Part), p ∈ P) :
    Kept A P s0 (State.fileRequest s r k q) := by
  unfold State.fileRequest
  repeat' first
    | with_reducible assumption | exact inA hA rfl | exact subA hA rfl | exact .inl (inP hP rfl) | exact subP hP rfl
    | with_reducible first
      | intro _ | apply State.request_kept | apply State.wr_kept | apply Kept.ite | dsimp only

theorem State.spareReady_kept {s : State} (hk : Kept A P s0 s) (hA : ∀ a ∈ ([.std, .pend] : List Area), a ∈ A)
    (hP : ∀ p ∈ ([.std] : List Part), p ∈ P) :
    Kept A P s0 (State.spareReady s) := by
  unfold State.spareReady
  repeat' first
    | with_reducible assumption | exact inA hA rfl | exact subA hA rfl | exact .inl (inP hP rfl) | exact subP hP rfl
    | with_reducible exact rfl | exact .inr rfl
    | with_reducible first
      | intro _ | apply State.fileRequest_kept | apply State.raise_kept | apply Kept.ite | apply Kept.foldl
      | dsimp only
    | fail_if_no_progress with_reducible apply Kept.upd

theorem State.fence_kept {s : State} (hk : Kept A P s0 s) {k l cause : Nat}
    (hA : ∀ a ∈ ([.std, .pend, .cpc, .ingress, .bist] : List Area), a ∈ A)
    (hP : ∀ p ∈ ([.pw, .rcd, .std, .cop] : List Part), p ∈ P) :
    Kept A P s0 (State.fence s k l cause) := by
  unfold State.fence
  repeat' first
    | with_reducible assumption | exact inA hA rfl | exact subA hA rfl | exact .inl (inP hP rfl) | exact subP hP rfl
    | with_reducible exact rfl | exact .inr rfl
    | with_reducible first
      | intro _ | apply State.checkSpares_kept | apply State.coppiceTest_kept | apply State.fenceCore_kept
      | apply State.raise_kept | apply State.setStand_kept | apply State.spareReady_kept | apply State.wr_kept
      | apply State.wrBit_kept | split | dsimp only
    | fail_if_no_progress with_reducible apply Kept.upd

theorem State.lookoutRestart_kept {s : State} (hk : Kept A P s0 s) {lower : Bool}
    (hA : ∀ a ∈ ([.lko] : List Area), a ∈ A) (hP : ∀ p ∈ ([.lko] : List Part), p ∈ P) :
    Kept A P s0 (State.lookoutRestart s lower) := by
  unfold State.lookoutRestart
  repeat' first
    | with_reducible assumption | exact inA hA rfl | exact subA hA rfl | exact .inl (inP hP rfl) | exact subP hP rfl
    | with_reducible exact rfl | exact .inr rfl
    | with_reducible first
      | intro _ | apply State.wr_kept | apply State.wrB_kept | apply Kept.ite | dsimp only
    | fail_if_no_progress with_reducible apply Kept.upd

theorem State.lookoutSuspend_kept {s : State} (hk : Kept A P s0 s) (hA : ∀ a ∈ ([.lko] : List Area), a ∈ A) :
    Kept A P s0 (State.lookoutSuspend s) := by
  unfold State.lookoutSuspend
  repeat' first
    | with_reducible assumption | exact inA hA rfl | exact subA hA rfl
    | with_reducible first
      | intro _ | apply State.wr_kept | dsimp only

theorem State.failSilent_kept {s : State} (hk : Kept A P s0 s) {k cause : Nat}
    (hA : ∀ a ∈ ([.std, .pend, .lko] : List Area), a ∈ A) (hP : ∀ p ∈ ([.std, .lko] : List Part), p ∈ P) :
    Kept A P s0 (State.failSilent s k cause) := by
  unfold State.failSilent
  repeat' first
    | with_reducible assumption | exact inA hA rfl | exact subA hA rfl | exact .inl (inP hP rfl) | exact subP hP rfl
    | with_reducible exact rfl | exact .inr rfl
    | with_reducible first
      | intro _ | apply State.lookoutRestart_kept | apply State.raise_kept | apply State.request_kept
      | apply State.setStand_kept | apply State.syncSafe_kept | apply State.wr_kept | apply Kept.ite | dsimp only
    | fail_if_no_progress with_reducible apply Kept.upd

theorem State.mismatch_kept {s : State} (hk : Kept A P s0 s) {k l cause : Nat}
    (hA : ∀ a ∈ ([.std, .pend, .lko, .cpc, .ingress, .bist] : List Area), a ∈ A)
    (hP : ∀ p ∈ ([.pw, .rcd, .std, .lko, .cop] : List Part), p ∈ P) :
    Kept A P s0 (State.mismatch s k l cause) := by
  unfold State.mismatch
  repeat' first
    | with_reducible assumption | exact inA hA rfl | exact subA hA rfl | exact .inl (inP hP rfl) | exact subP hP rfl
    | with_reducible first
      | intro _ | apply State.failSilent_kept | apply State.fence_kept | apply Kept.ite | dsimp only

theorem State.agreeValues_kept {s : State} (hk : Kept A P s0 s) {k : Nat} {g : Latch} {tb tc : Nat}
    (hP : ∀ p ∈ ([.std] : List Part), p ∈ P) :
    Kept A P s0 (State.agreeValues s k g tb tc) := by
  unfold State.agreeValues
  repeat' first
    | with_reducible assumption | exact .inl (inP hP rfl) | exact subP hP rfl | with_reducible exact rfl
    | exact .inr rfl
    | with_reducible first
      | intro _ | apply State.setStand_kept | dsimp only
    | fail_if_no_progress with_reducible apply Kept.upd

theorem State.takeAgreed_kept {s : State} (hk : Kept A P s0 s) {k : Nat} {g : Latch} {tb tc : Nat}
    (hA : ∀ a ∈ ([.std, .lko] : List Area), a ∈ A) (hP : ∀ p ∈ ([.std] : List Part), p ∈ P) :
    Kept A P s0 (State.takeAgreed s k g tb tc) := by
  unfold State.takeAgreed
  repeat' first
    | with_reducible assumption | exact inA hA rfl | exact subA hA rfl | exact .inl (inP hP rfl) | exact subP hP rfl
    | with_reducible exact rfl | exact .inr rfl
    | with_reducible first
      | intro _ | apply State.agreeValues_kept | apply State.lookoutSuspend_kept | apply State.setStand_kept
      | apply State.wr_kept | apply Kept.ite | dsimp only
    | fail_if_no_progress with_reducible apply Kept.upd

theorem State.agreeNow_kept {s : State} (hk : Kept A P s0 s) {k : Nat} {halt : Bool}
    (hA : ∀ a ∈ ([.std, .lko] : List Area), a ∈ A) (hP : ∀ p ∈ ([.std] : List Part), p ∈ P) :
    Kept A P s0 (State.agreeNow s k halt) := by
  unfold State.agreeNow
  repeat' first
    | with_reducible assumption | exact inA hA rfl | exact subA hA rfl | exact .inl (inP hP rfl) | exact subP hP rfl
    | with_reducible exact rfl | exact .inr rfl
    | with_reducible first
      | intro _ | apply State.setStand_kept | apply State.takeAgreed_kept | dsimp only
    | fail_if_no_progress with_reducible apply Kept.upd

theorem State.agreeHalted_kept {s : State} (hk : Kept A P s0 s) {k tb tc : Nat}
    (hP : ∀ p ∈ ([.std] : List Part), p ∈ P) :
    Kept A P s0 (State.agreeHalted s k tb tc) := by
  unfold State.agreeHalted
  repeat' first
    | with_reducible assumption | exact .inl (inP hP rfl) | exact subP hP rfl | with_reducible exact rfl
    | exact .inr rfl
    | with_reducible first
      | intro _ | apply State.setStand_kept | dsimp only
    | fail_if_no_progress with_reducible apply Kept.upd

theorem State.slowCode_kept {s : State} (hk : Kept A P s0 s) {h : Nat} (hP : ∀ p ∈ ([.std] : List Part), p ∈ P) :
    Kept A P s0 (State.slowCode s h) := by
  unfold State.slowCode
  repeat' first
    | with_reducible assumption | exact .inl (inP hP rfl) | exact subP hP rfl | with_reducible exact rfl
    | exact .inr rfl
    | with_reducible first
      | intro _ | apply State.setStand_kept | dsimp only
    | fail_if_no_progress with_reducible apply Kept.upd

theorem State.agreement_kept {s : State} (hk : Kept A P s0 s) {k : Nat} {a b c : Latch} {lat : Nat}
    (hA : ∀ a ∈ ([.std, .pend, .lko, .cpc, .ingress, .bist] : List Area), a ∈ A)
    (hP : ∀ p ∈ ([.out, .pw, .rcd, .std, .lko, .cop] : List Part), p ∈ P) :
    Kept A P s0 (State.agreement s k a b c lat) := by
  unfold State.agreement
  repeat' first
    | with_reducible assumption | exact inA hA rfl | exact subA hA rfl | exact .inl (inP hP rfl) | exact subP hP rfl
    | with_reducible exact rfl | exact .inr rfl
    | with_reducible first
      | intro _ | apply State.bump_kept | apply State.failSilent_kept | apply State.fence_kept
      | apply State.maxWr_kept | apply State.setStand_kept | apply State.takeAgreed_kept | apply Kept.ite | split
      | dsimp only
    | fail_if_no_progress with_reducible apply Kept.upd

theorem State.handoverRequest_kept {s : State} (hk : Kept A P s0 s) {r k v : Nat}
    (hA : ∀ a ∈ ([.std] : List Area), a ∈ A) (hP : ∀ p ∈ ([.std] : List Part), p ∈ P) :
    Kept A P s0 (State.handoverRequest s r k v) := by
  unfold State.handoverRequest
  repeat' first
    | with_reducible assumption | exact inA hA rfl | exact subA hA rfl | exact .inl (inP hP rfl) | exact subP hP rfl
    | with_reducible exact rfl | exact .inr rfl
    | with_reducible first
      | intro _ | apply State.fileRequest_kept | apply Kept.ite | dsimp only
    | fail_if_no_progress with_reducible apply Kept.upd

theorem State.takeLanes_kept {s : State} (hk : Kept A P s0 s) {k : Nat} {ls : LaneSet} {fromStart : Bool}
    (hA : ∀ a ∈ ([.std] : List Area), a ∈ A) (hP : ∀ p ∈ ([.std, .cop] : List Part), p ∈ P) :
    Kept A P s0 (State.takeLanes s k ls fromStart) := by
  unfold State.takeLanes
  repeat' first
    | with_reducible assumption | exact inA hA rfl | exact subA hA rfl | exact .inl (inP hP rfl) | exact subP hP rfl
    | with_reducible exact rfl | exact .inr rfl | exact laneFld_area ▸ inA hA rfl
    | with_reducible first
      | intro _ | apply State.proveCore_kept | apply State.setStand_kept | apply State.showReserve_kept
      | apply State.wr_kept | apply State.wrB_kept | apply Kept.ite | apply Kept.foldl | dsimp only
    | fail_if_no_progress with_reducible apply Kept.upd

theorem State.resumeWith_kept {s : State} (hk : Kept A P s0 s) {k : Nat} {r : HoRun}
    (hA : ∀ a ∈ ([.std, .pend, .lko, .cpc, .ingress, .bist] : List Area), a ∈ A)
    (hP : ∀ p ∈ ([.pw, .rcd, .std, .cop] : List Part), p ∈ P) :
    Kept A P s0 (State.resumeWith s k r) := by
  unfold State.resumeWith
  repeat' first
    | with_reducible assumption | exact inA hA rfl | exact subA hA rfl | exact .inl (inP hP rfl) | exact subP hP rfl
    | with_reducible exact rfl | exact .inr rfl
    | with_reducible first
      | intro _ | apply State.agreeNow_kept | apply State.checkSpares_kept | apply State.coppiceTest_kept
      | apply State.maxWr_kept | apply State.raise_kept | apply State.syncCores_kept | apply State.syncSafe_kept
      | apply State.takeLanes_kept | apply State.wr_kept | apply Kept.ite | split | dsimp only
    | fail_if_no_progress with_reducible apply Kept.upd

theorem State.napResume_kept {s : State} (hk : Kept A P s0 s) {k : Nat}
    (hA : ∀ a ∈ ([.unit, .std, .lko] : List Area), a ∈ A) (hP : ∀ p ∈ ([.std] : List Part), p ∈ P) :
    Kept A P s0 (State.napResume s k) := by
  unfold State.napResume
  repeat' first
    | with_reducible assumption | exact inA hA rfl | exact subA hA rfl | exact .inl (inP hP rfl) | exact subP hP rfl
    | with_reducible exact rfl | exact .inr rfl
    | with_reducible first
      | intro _ | apply State.agreeNow_kept | apply State.setStand_kept | apply State.syncSafe_kept
      | apply State.wr_kept | dsimp only
    | fail_if_no_progress with_reducible apply Kept.upd

theorem State.handoverResume_kept {s : State} (hk : Kept A P s0 s) {k : Nat} {how : Reload}
    (hA : ∀ a ∈ ([.unit, .std, .pend, .lko, .cpc, .ingress, .bist] : List Area), a ∈ A)
    (hP : ∀ p ∈ ([.pw, .rcd, .std, .lko, .cop] : List Part), p ∈ P) :
    Kept A P s0 (State.handoverResume s k how) := by
  unfold State.handoverResume
  repeat' first
    | with_reducible assumption | exact inA hA rfl | exact subA hA rfl | exact .inl (inP hP rfl) | exact subP hP rfl
    | with_reducible exact rfl | exact .inr rfl
    | with_reducible first
      | intro _ | apply State.failSilent_kept | apply State.fence_kept | apply State.napResume_kept
      | apply State.resumeWith_kept | apply State.wr_kept | apply Kept.ite | split | dsimp only
    | fail_if_no_progress with_reducible apply Kept.upd

theorem State.standReset_kept {s : State} (hk : Kept A P s0 s) {k : Nat}
    (hA : ∀ a ∈ ([.unit, .std, .pend, .cpc, .bist] : List Area), a ∈ A)
    (hP : ∀ p ∈ ([.std, .cop] : List Part), p ∈ P) :
    Kept A P s0 (State.standReset s k) := by
  unfold State.standReset
  repeat' first
    | with_reducible assumption | exact inA hA rfl | exact subA hA rfl | exact .inl (inP hP rfl) | exact subP hP rfl
    | with_reducible exact rfl | exact .inr rfl | exact fun a h => mem_of_inArea hA h (hm := rfl)
    | exact fun a _ => hA _ (mem_allAreas _)
    | exact fun a h => mem_of_or hA (standAddr_area h) (hx := rfl) (hy := rfl)
    | with_reducible first
      | intro _ | apply State.coppiceTest_kept | apply State.restore_kept | apply State.setStand_kept
      | apply State.wr_kept | apply Kept.ite | apply Kept.foldl | dsimp only
    | fail_if_no_progress with_reducible apply Kept.upd

theorem State.coreLost_kept {s : State} (hk : Kept A P s0 s) {c : Nat} {werr : Bool}
    (hA : ∀ a ∈ ([.std, .pend, .cpc, .ingress] : List Area), a ∈ A)
    (hP : ∀ p ∈ ([.pw, .rcd, .std, .cop] : List Part), p ∈ P) :
    Kept A P s0 (State.coreLost s c werr) := by
  unfold State.coreLost
  repeat' first
    | with_reducible assumption | exact inA hA rfl | exact subA hA rfl | exact .inl (inP hP rfl) | exact subP hP rfl
    | with_reducible first
      | intro _ | apply State.raise_kept | apply State.retireCore_kept | dsimp only

theorem State.standResetDone_kept {s : State} (hk : Kept A P s0 s) {k failMask : Nat}
    (hA : ∀ a ∈ ([.std, .pend, .cpc, .ingress, .bist] : List Area), a ∈ A)
    (hP : ∀ p ∈ ([.pw, .rcd, .std, .cop, .cnp] : List Part), p ∈ P) :
    Kept A P s0 (State.standResetDone s k failMask).2 := by
  unfold State.standResetDone
  repeat' first
    | with_reducible assumption | exact inA hA rfl | exact subA hA rfl | exact .inl (inP hP rfl) | exact subP hP rfl
    | with_reducible exact rfl | exact .inr rfl
    | with_reducible first
      | intro _ | apply State.checkSpares_kept | apply State.coppiceEnds_kept | apply State.coreLost_kept
      | apply State.corePassed_kept | apply State.form_kept | apply State.poolEmpty_kept | apply State.raise_kept
      | apply State.syncCores_kept | apply State.syncSafe_kept | apply State.testCore_kept | apply Kept.ite
      | apply Kept.foldl | split | split | dsimp only
    | fail_if_no_progress with_reducible apply Kept.upd

theorem State.attachStand_kept {s : State} (hk : Kept A P s0 s) {k : Nat}
    (hA : ∀ a ∈ ([.std, .pend] : List Area), a ∈ A) (hP : ∀ p ∈ ([.resp, .dbg] : List Part), p ∈ P) :
    Kept A P s0 (State.attachStand s k) := by
  unfold State.attachStand
  repeat' first
    | with_reducible assumption | exact inA hA rfl | exact subA hA rfl | exact .inl (inP hP rfl) | exact subP hP rfl
    | with_reducible exact rfl | exact .inr rfl
    | with_reducible first
      | intro _ | apply State.answer_kept | apply State.raise_kept | apply State.syncSafe_kept | apply State.wr_kept
      | apply Kept.ite | dsimp only
    | fail_if_no_progress with_reducible apply Kept.upd

theorem State.haltStand_kept {s : State} (hk : Kept A P s0 s) {k : Nat}
    (hA : ∀ a ∈ ([.std, .lko] : List Area), a ∈ A) (hP : ∀ p ∈ ([.resp, .std] : List Part), p ∈ P) :
    Kept A P s0 (State.haltStand s k) := by
  unfold State.haltStand
  repeat' first
    | with_reducible assumption | exact inA hA rfl | exact subA hA rfl | exact .inl (inP hP rfl) | exact subP hP rfl
    | with_reducible exact rfl | exact .inr rfl
    | with_reducible first
      | intro _ | apply State.agreeNow_kept | apply State.answer_kept | apply State.setStand_kept | apply Kept.ite
      | dsimp only
    | fail_if_no_progress with_reducible apply Kept.upd

theorem State.replayed_kept {s : State} (hk : Kept A P s0 s) {k : Nat} (hA : ∀ a ∈ ([.std] : List Area), a ∈ A)
    (hP : ∀ p ∈ ([.std] : List Part), p ∈ P) :
    Kept A P s0 (State.replayed s k) := by
  unfold State.replayed
  repeat' first
    | with_reducible assumption | exact inA hA rfl | exact subA hA rfl | exact .inl (inP hP rfl) | exact subP hP rfl
    | with_reducible exact rfl | exact .inr rfl
    | with_reducible first
      | intro _ | apply State.setStand_kept | apply State.wr_kept | apply Kept.foldl | dsimp only
    | fail_if_no_progress with_reducible apply Kept.upd

theorem State.executes_kept {s : State} (hk : Kept A P s0 s) {k : Nat} (hP : ∀ p ∈ ([.std] : List Part), p ∈ P) :
    Kept A P s0 (State.executes s k) := by
  unfold State.executes
  repeat' first
    | with_reducible assumption | exact .inl (inP hP rfl) | exact subP hP rfl | with_reducible exact rfl
    | exact .inr rfl
    | with_reducible first
      | intro _ | apply State.setStand_kept | dsimp only
    | fail_if_no_progress with_reducible apply Kept.upd

theorem State.resumeStand_kept {s : State} (hk : Kept A P s0 s) {k : Nat}
    (hA : ∀ a ∈ ([.std, .lko] : List Area), a ∈ A) (hP : ∀ p ∈ ([.resp, .std, .lko] : List Part), p ∈ P) :
    Kept A P s0 (State.resumeStand s k) := by
  unfold State.resumeStand
  repeat' first
    | with_reducible assumption | exact inA hA rfl | exact subA hA rfl | exact .inl (inP hP rfl) | exact subP hP rfl
    | with_reducible first
      | intro _ | apply State.agreeNow_kept | apply State.answer_kept | apply State.executes_kept
      | apply State.lookoutRestart_kept | apply State.replayed_kept | apply State.wr_kept | apply Kept.ite
      | dsimp only

theorem State.claim_kept {s : State} (hk : Kept A P s0 s) {k : Nat} {sup : Bool}
    (hA : ∀ a ∈ ([.pend] : List Area), a ∈ A) (hP : ∀ p ∈ ([.resp] : List Part), p ∈ P) :
    Kept A P s0 (State.claim s k sup) := by
  unfold State.claim
  repeat' first
    | with_reducible assumption | exact inA hA rfl | exact subA hA rfl | exact .inl (inP hP rfl) | exact subP hP rfl
    | with_reducible exact rfl | exact .inr rfl
    | with_reducible first
      | intro _ | apply State.answer_kept | apply State.wrBit_kept | apply Kept.ite | split | dsimp only
    | fail_if_no_progress with_reducible apply Kept.upd

theorem State.softEvents_kept {s : State} (hk : Kept A P s0 s) {m : Nat} (hA : ∀ a ∈ ([.pend] : List Area), a ∈ A) :
    Kept A P s0 (State.softEvents s m) := by
  unfold State.softEvents
  repeat' first
    | with_reducible assumption | exact inA hA rfl | exact subA hA rfl
    | with_reducible first
      | intro _ | apply State.raise_kept | apply Kept.ite | apply Kept.foldl | dsimp only

theorem State.lookoutServed_kept {s : State} (hk : Kept A P s0 s) (hA : ∀ a ∈ ([.lko] : List Area), a ∈ A)
    (hP : ∀ p ∈ ([.pw, .lko] : List Part), p ∈ P) :
    Kept A P s0 (State.lookoutServed s) := by
  unfold State.lookoutServed
  repeat' first
    | with_reducible assumption | exact inA hA rfl | exact subA hA rfl | exact .inl (inP hP rfl) | exact subP hP rfl
    | with_reducible exact rfl | exact .inr rfl
    | with_reducible first
      | intro _ | apply State.wr_kept | dsimp only
    | fail_if_no_progress with_reducible apply Kept.upd

theorem State.lookoutOpen_kept {s : State} (hk : Kept A P s0 s) (hA : ∀ a ∈ ([.pend, .lko] : List Area), a ∈ A) :
    Kept A P s0 (State.lookoutOpen s) := by
  unfold State.lookoutOpen
  repeat' first
    | with_reducible assumption | exact inA hA rfl | exact subA hA rfl
    | with_reducible first
      | intro _ | apply State.raise_kept | apply State.wr_kept | apply Kept.ite | dsimp only

end Sys2Proof.Machine
end

