-- ==== Sys2Proof/Laws/Events.lean ====
section
/-!
SUPPORT. What raising an event and writing a record do, said once: which pending bits stand afterwards, which descriptor
joins the ingress queue; and how a frame grows along a chain of operations.
-/

set_option linter.all false
-- one proof at a time: the package is compiled as one file, in bounded memory
set_option Elab.async false

namespace Sys2Proof.Machine

/-! ### Frames -/

theorem Touches.refl (fs : List Fld) (A : List Area) (P : List Part) (s : State) : Touches fs A P s s :=
  ⟨fun _ _ _ => rfl, fun p _ => Same.refl s p⟩

theorem Framed.touches {A : List Area} {P : List Part} {s u : State} (h : Framed A P s u) : Touches [] A P s u :=
  ⟨fun f _ ha => h.1 f ha, h.2⟩

theorem Kept.touches {A : List Area} {P : List Part} {s u : State} (h : Kept A P s u) : Touches [] A P s u :=
  h.1.touches

/-- A frame grows by an operation that keeps to its areas and parts. -/
theorem Touches.kept {fs : List Fld} {A : List Area} {P : List Part} {s u w : State} (h : Touches fs A P s u)
    (k : Kept A P u w) : Touches fs A P s w :=
  ⟨fun f hf ha => (k.1.1 f ha).trans (h.1 f hf ha), fun p hp => Same.trans (h.2 p hp) (k.1.2 p hp)⟩

/-- A frame stands over a write of a listed field. -/
theorem Touches.wr {fs : List Fld} {A : List Area} {P : List Part} {s u : State} (h : Touches fs A P s u) {f : Fld}
    (hf : f.key ∈ fs.map Fld.key) (v : Nat) : Touches fs A P s (u.wr f v) :=
  ⟨fun g hg ha => (State.rd_wr_ne u (fun e : g.key = f.key => hg (by rw [e]; exact hf)) v).trans (h.1 g hg ha),
    fun p hp => Same.trans (h.2 p hp) (by cases p <;> rfl)⟩

/-! ### Reading through events and records -/

/-- Raising an event touches no field outside the pending bits' area. -/
theorem State.rd_raise_area (s : State) (n : Nat) {f : Fld} (h : f.area ≠ .pend) : (s.raise n).rd f = s.rd f :=
  State.rd_raise s n f fun _ _ => Fld.key_ne_of_area h

/-- Writing a record touches no field outside the ingress area. -/
theorem State.rd_record_area (s : State) {f : Fld} (h : f.area ≠ .ingress) (h2 : f.area ≠ .pend) (cls src kind obj : Nat)
    (w0 w1 : Option Nat) : (s.record cls src kind obj w0 w1).rd f = s.rd f :=
  (State.record_kept (A := [.pend, .ingress]) (P := [.pw, .rcd]) (Kept.refl _ _ s) (fun _ h => h)
    fun _ h => h).1.1 f (by simp [h, h2])

/-- Writing a record touches the recorder, its registers and the count of refused descriptors, and raises source 209. -/
theorem State.record_parts (s : State) (cls src kind obj : Nat) (w0 w1 : Option Nat) {p : Part} (h : p ≠ .pw)
    (h2 : p ≠ .rcd) : Same s (s.record cls src kind obj w0 w1) p :=
  (State.record_kept (A := [.pend, .ingress]) (P := [.pw, .rcd]) (Kept.refl _ _ s) (fun _ h => h)
    fun _ h => h).1.2 p (by simp [h, h2])

@[simp] theorem State.record_pending (s : State) (cls src kind obj : Nat) (w0 w1 : Option Nat) :
    (s.record cls src kind obj w0 w1).pending = s.pending :=
  (State.record_kept (A := [.pend, .ingress]) (P := [.pw, .rcd]) (Kept.refl _ _ s) (fun _ h => h) fun _ h => h).2

@[simp] theorem State.record_now (s : State) (cls src kind obj : Nat) (w0 w1 : Option Nat) :
    (s.record cls src kind obj w0 w1).now = s.now :=
  State.record_parts s cls src kind obj w0 w1 (p := .now) (by decide) (by decide)

@[simp] theorem State.record_mem (s : State) (cls src kind obj : Nat) (w0 w1 : Option Nat) :
    (s.record cls src kind obj w0 w1).mem = s.mem :=
  State.record_parts s cls src kind obj w0 w1 (p := .mem) (by decide) (by decide)

@[simp] theorem State.record_leMem (s : State) (cls src kind obj : Nat) (w0 w1 : Option Nat) :
    (s.record cls src kind obj w0 w1).leMem = s.leMem :=
  State.record_parts s cls src kind obj w0 w1 (p := .leMem) (by decide) (by decide)

@[simp] theorem State.record_resp (s : State) (cls src kind obj : Nat) (w0 w1 : Option Nat) :
    (s.record cls src kind obj w0 w1).resp = s.resp :=
  State.record_parts s cls src kind obj w0 w1 (p := .resp) (by decide) (by decide)

@[simp] theorem State.record_out (s : State) (cls src kind obj : Nat) (w0 w1 : Option Nat) :
    (s.record cls src kind obj w0 w1).out = s.out :=
  State.record_parts s cls src kind obj w0 w1 (p := .out) (by decide) (by decide)

@[simp] theorem State.record_fresh (s : State) (cls src kind obj : Nat) (w0 w1 : Option Nat) :
    (s.record cls src kind obj w0 w1).fresh = s.fresh :=
  State.record_parts s cls src kind obj w0 w1 (p := .fresh) (by decide) (by decide)

@[simp] theorem State.record_std (s : State) (cls src kind obj : Nat) (w0 w1 : Option Nat) :
    (s.record cls src kind obj w0 w1).std = s.std :=
  State.record_parts s cls src kind obj w0 w1 (p := .std) (by decide) (by decide)

@[simp] theorem State.record_lko (s : State) (cls src kind obj : Nat) (w0 w1 : Option Nat) :
    (s.record cls src kind obj w0 w1).lko = s.lko :=
  State.record_parts s cls src kind obj w0 w1 (p := .lko) (by decide) (by decide)

@[simp] theorem State.record_dbg (s : State) (cls src kind obj : Nat) (w0 w1 : Option Nat) :
    (s.record cls src kind obj w0 w1).dbg = s.dbg :=
  State.record_parts s cls src kind obj w0 w1 (p := .dbg) (by decide) (by decide)

@[simp] theorem State.record_cop (s : State) (cls src kind obj : Nat) (w0 w1 : Option Nat) :
    (s.record cls src kind obj w0 w1).cop = s.cop :=
  State.record_parts s cls src kind obj w0 w1 (p := .cop) (by decide) (by decide)

@[simp] theorem State.record_ecc (s : State) (cls src kind obj : Nat) (w0 w1 : Option Nat) :
    (s.record cls src kind obj w0 w1).ecc = s.ecc :=
  State.record_parts s cls src kind obj w0 w1 (p := .ecc) (by decide) (by decide)

@[simp] theorem State.record_io (s : State) (cls src kind obj : Nat) (w0 w1 : Option Nat) :
    (s.record cls src kind obj w0 w1).io = s.io :=
  State.record_parts s cls src kind obj w0 w1 (p := .io) (by decide) (by decide)

@[simp] theorem State.record_eng (s : State) (cls src kind obj : Nat) (w0 w1 : Option Nat) :
    (s.record cls src kind obj w0 w1).eng = s.eng :=
  State.record_parts s cls src kind obj w0 w1 (p := .eng) (by decide) (by decide)

@[simp] theorem State.record_rng (s : State) (cls src kind obj : Nat) (w0 w1 : Option Nat) :
    (s.record cls src kind obj w0 w1).rng = s.rng :=
  State.record_parts s cls src kind obj w0 w1 (p := .rng) (by decide) (by decide)

@[simp] theorem State.record_key (s : State) (cls src kind obj : Nat) (w0 w1 : Option Nat) :
    (s.record cls src kind obj w0 w1).key = s.key :=
  State.record_parts s cls src kind obj w0 w1 (p := .key) (by decide) (by decide)

@[simp] theorem State.record_cnp (s : State) (cls src kind obj : Nat) (w0 w1 : Option Nat) :
    (s.record cls src kind obj w0 w1).cnp = s.cnp :=
  State.record_parts s cls src kind obj w0 w1 (p := .cnp) (by decide) (by decide)

@[simp] theorem State.record_fab (s : State) (cls src kind obj : Nat) (w0 w1 : Option Nat) :
    (s.record cls src kind obj w0 w1).fab = s.fab :=
  State.record_parts s cls src kind obj w0 w1 (p := .fab) (by decide) (by decide)

@[simp] theorem State.record_cvu (s : State) (cls src kind obj : Nat) (w0 w1 : Option Nat) :
    (s.record cls src kind obj w0 w1).cvu = s.cvu :=
  State.record_parts s cls src kind obj w0 w1 (p := .cvu) (by decide) (by decide)

@[simp] theorem State.record_rwy (s : State) (cls src kind obj : Nat) (w0 w1 : Option Nat) :
    (s.record cls src kind obj w0 w1).rwy = s.rwy :=
  State.record_parts s cls src kind obj w0 w1 (p := .rwy) (by decide) (by decide)

@[simp] theorem State.record_ust (s : State) (cls src kind obj : Nat) (w0 w1 : Option Nat) :
    (s.record cls src kind obj w0 w1).ust = s.ust :=
  State.record_parts s cls src kind obj w0 w1 (p := .ust) (by decide) (by decide)

@[simp] theorem State.record_fwu (s : State) (cls src kind obj : Nat) (w0 w1 : Option Nat) :
    (s.record cls src kind obj w0 w1).fwu = s.fwu :=
  State.record_parts s cls src kind obj w0 w1 (p := .fwu) (by decide) (by decide)

@[simp] theorem State.record_pmg (s : State) (cls src kind obj : Nat) (w0 w1 : Option Nat) :
    (s.record cls src kind obj w0 w1).pmg = s.pmg :=
  State.record_parts s cls src kind obj w0 w1 (p := .pmg) (by decide) (by decide)

theorem State.record_pw (s : State) (cls src kind obj : Nat) (w0 w1 : Option Nat) :
    ∃ n, (s.record cls src kind obj w0 w1).pw = { s.pw with refused := n } := by
  unfold State.record State.offer
  dsimp only
  split
  · split
    · exact ⟨_, rfl⟩
    · exact ⟨_, rfl⟩
  · split
    · exact ⟨_, rfl⟩
    · have h : ∀ c r x, (s.dropRecord c r x).pw = s.pw := fun c r x => by
        unfold State.dropRecord
        dsimp only
        split <;> simp
      repeat' split
      all_goals first
        | exact ⟨s.pw.refused, h _ _ _⟩
        | exact ⟨s.pw.refused, rfl⟩

@[simp] theorem State.record_pw_phase (s : State) (cls src kind obj : Nat) (w0 w1 : Option Nat) :
    (s.record cls src kind obj w0 w1).pw.phase = s.pw.phase := by
  obtain ⟨n, e⟩ := State.record_pw s cls src kind obj w0 w1
  rw [e]

@[simp] theorem State.record_pw_feedA (s : State) (cls src kind obj : Nat) (w0 w1 : Option Nat) :
    (s.record cls src kind obj w0 w1).pw.feedA = s.pw.feedA := by
  obtain ⟨n, e⟩ := State.record_pw s cls src kind obj w0 w1
  rw [e]

@[simp] theorem State.record_pw_feedB (s : State) (cls src kind obj : Nat) (w0 w1 : Option Nat) :
    (s.record cls src kind obj w0 w1).pw.feedB = s.pw.feedB := by
  obtain ⟨n, e⟩ := State.record_pw s cls src kind obj w0 w1
  rw [e]

@[simp] theorem State.record_pw_t0 (s : State) (cls src kind obj : Nat) (w0 w1 : Option Nat) :
    (s.record cls src kind obj w0 w1).pw.t0 = s.pw.t0 := by
  obtain ⟨n, e⟩ := State.record_pw s cls src kind obj w0 w1
  rw [e]

@[simp] theorem State.record_pw_failing (s : State) (cls src kind obj : Nat) (w0 w1 : Option Nat) :
    (s.record cls src kind obj w0 w1).pw.failing = s.pw.failing := by
  obtain ⟨n, e⟩ := State.record_pw s cls src kind obj w0 w1
  rw [e]

@[simp] theorem State.record_pw_start (s : State) (cls src kind obj : Nat) (w0 w1 : Option Nat) :
    (s.record cls src kind obj w0 w1).pw.start = s.pw.start := by
  obtain ⟨n, e⟩ := State.record_pw s cls src kind obj w0 w1
  rw [e]

@[simp] theorem State.record_pw_seqr (s : State) (cls src kind obj : Nat) (w0 w1 : Option Nat) :
    (s.record cls src kind obj w0 w1).pw.seqr = s.pw.seqr := by
  obtain ⟨n, e⟩ := State.record_pw s cls src kind obj w0 w1
  rw [e]

@[simp] theorem State.record_pw_vFlush (s : State) (cls src kind obj : Nat) (w0 w1 : Option Nat) :
    (s.record cls src kind obj w0 w1).pw.vFlush = s.pw.vFlush := by
  obtain ⟨n, e⟩ := State.record_pw s cls src kind obj w0 w1
  rw [e]

@[simp] theorem State.record_pw_stgLost (s : State) (cls src kind obj : Nat) (w0 w1 : Option Nat) :
    (s.record cls src kind obj w0 w1).pw.stgLost = s.pw.stgLost := by
  obtain ⟨n, e⟩ := State.record_pw s cls src kind obj w0 w1
  rw [e]

@[simp] theorem State.record_pw_sealed (s : State) (cls src kind obj : Nat) (w0 w1 : Option Nat) :
    (s.record cls src kind obj w0 w1).pw.sealed = s.pw.sealed := by
  obtain ⟨n, e⟩ := State.record_pw s cls src kind obj w0 w1
  rw [e]

@[simp] theorem State.record_pw_exhausted (s : State) (cls src kind obj : Nat) (w0 w1 : Option Nat) :
    (s.record cls src kind obj w0 w1).pw.exhausted = s.pw.exhausted := by
  obtain ⟨n, e⟩ := State.record_pw s cls src kind obj w0 w1
  rw [e]

theorem bitAt_eq_testBit (v i : Nat) : bitAt v i = v.testBit i := by
  rw [bitAt, Nat.testBit_eq_decide_div_mod_eq]
  rfl

theorem testBit_setBit_true (v i j : Nat) : (setBit v i true).testBit j = (v.testBit j || decide (i = j)) := by
  unfold setBit
  rw [bitAt_eq_testBit]
  split
  · rename_i h
    by_cases e : i = j
    · subst e; simp [h]
    · simp [e]
  · rename_i h
    have h : v.testBit i = false := by simpa using h
    rw [if_pos rfl]
    rcases Nat.lt_trichotomy j i with hj | rfl | hj
    · rw [Nat.add_comm, Nat.testBit_two_pow_add_gt hj]
      simp [Nat.ne_of_gt hj]
    · rw [Nat.add_comm, Nat.testBit_two_pow_add_eq]
      simp [h]
    · have hm : v / 2 ^ i % 2 = 0 := by
        rw [Nat.testBit_eq_decide_div_mod_eq] at h
        simpa using h
      have e1 : v = 2 ^ (i + 1) * (v / 2 ^ (i + 1)) + v % 2 ^ i := by
        rw [Nat.pow_succ, ← Nat.div_div_eq_div_mul]
        have a := Nat.div_add_mod v (2 ^ i)
        have b := Nat.div_add_mod (v / 2 ^ i) 2
        rw [hm] at b
        rw [Nat.mul_assoc, show 2 * (v / 2 ^ i / 2) = v / 2 ^ i by omega]
        omega
      have r := Nat.mod_lt v (Nat.two_pow_pos i)
      have e2 : v + 2 ^ i = 2 ^ (i + 1) * (v / 2 ^ (i + 1)) + (v % 2 ^ i + 2 ^ i) := by omega
      rw [e2, Nat.testBit_two_pow_mul_add _ (by rw [Nat.pow_succ]; omega)]
      conv => rhs; rw [e1]
      rw [Nat.testBit_two_pow_mul_add _ (by rw [Nat.pow_succ]; omega)]
      simp [show ¬ j < i + 1 by omega, Nat.ne_of_lt hj]

theorem pend_key {k j k' j' : Nat} (hj : j < 8) (hj' : j' < 8)
    (h : (STD_Sk_PENDj k j).key = (STD_Sk_PENDj k' j').key) : k = k' ∧ j = j' := by
  simp only [STD_Sk_PENDj, Fld.key] at h
  omega

theorem State.pends_pendFor (s : State) {m n k l : Nat} (hm : m < 256) (hn : n < 256) (hk : k < 4) (hl : l < 4) :
    (s.pendFor m l).pends n k = (s.pends n k || decide (n = m ∧ l = k)) := by
  unfold State.pends State.pendFor State.bit State.wrBit
  rw [State.note_rd]
  by_cases h : (STD_Sk_PENDj k (n / 32)).key = (STD_Sk_PENDj l (m / 32)).key
  · obtain ⟨rfl, e⟩ := pend_key (by omega) (by omega) h
    have e2 : STD_Sk_PENDj k (n / 32) = STD_Sk_PENDj k (m / 32) := by rw [e]
    rw [e2, State.rd_wr_same, bitAt_eq_testBit, bitAt_eq_testBit]
    have : (STD_Sk_PENDj k (m / 32)).w = 32 := rfl
    rw [this, Nat.testBit_mod_two_pow, testBit_setBit_true, decide_eq_true (Nat.mod_lt _ (by decide)), Bool.true_and]
    congr 1
    apply decide_eq_decide.2
    constructor
    · intro x; exact ⟨by omega, rfl⟩
    · rintro ⟨rfl, _⟩; rfl
  · rw [State.rd_wr_ne _ h]
    rw [decide_eq_false, Bool.or_false]
    rintro ⟨rfl, rfl⟩
    exact h rfl

theorem State.pends_raise (s : State) {m n k : Nat} (hm : m < 256) (hn : n < 256) (hk : k < 4) :
    (s.raise m).pends n k = (s.pends n k ||
      (decide (n = m) && s.rd (STD_EVTi_ROUTE_PRIO n) != 0 && s.bit (STD_EVTi_ROUTE_STANDS n) k)) := by
  unfold State.raise
  split
  · rename_i h
    by_cases e : n = m
    · subst e; simp [h]
    · simp [e]
  · rename_i h
    have key : ∀ (l : List Nat) (u : State), (∀ i ∈ l, i < 4) → (l.foldl
        (fun s' i => if s.bit (STD_EVTi_ROUTE_STANDS m) i then s'.pendFor m i else s') u).pends n k =
          (u.pends n k || (decide (n = m) && decide (k ∈ l) && s.bit (STD_EVTi_ROUTE_STANDS m) k)) := by
      intro l
      induction l with
      | nil => simp
      | cons i l ih =>
        intro u hl
        rw [List.foldl_cons, ih _ fun x hx => hl x (List.mem_cons_of_mem _ hx)]
        have hi := hl i List.mem_cons_self
        split
        · rename_i hb
          rw [State.pends_pendFor u hm hn hk hi]
          by_cases e : n = m
          · by_cases e2 : i = k
            · subst e2; simp [e, hb]
            · have : ¬ k = i := fun x => e2 x.symm
              simp [e, e2, this]
          · simp [e]
        · rename_i hb
          by_cases e : n = m
          · by_cases e2 : k = i
            · subst e2; simp [e, hb]
            · simp [e, e2]
          · simp [e]
    rw [key _ _ (by decide)]
    have hm4 : k ∈ [0, 1, 2, 3] := by simp; omega
    by_cases e : n = m
    · subst e
      have : (s.rd (STD_EVTi_ROUTE_PRIO n) != 0) = true := by simpa using h
      simp [hm4, this]
    · simp [e]
/-- A write of a field outside the pending bits' area leaves them. -/
theorem State.pends_wr (s : State) {f : Fld} (h : f.area ≠ .pend) (v n k : Nat) : (s.wr f v).pends n k = s.pends n k := by
  unfold State.pends State.bit
  rw [State.rd_wr_area s (show (STD_Sk_PENDj k (n / 32)).area ≠ f.area from h.symm)]

/-- Where the recorder takes descriptors, a record joins its queue, and nothing else differs but the queue's fill. -/
theorem State.record_eq {s : State} (h : Recording s 1) (cls src kind obj : Nat) (w0 w1 : Option Nat) :
    s.record cls src kind obj w0 w1 = s.setQueue (s.rcd.queue ++ [s.hwRecord cls src kind obj w0 w1]) := by
  obtain ⟨h1, h2, h3, h4, h5⟩ := h
  unfold State.record State.offer
  rw [if_neg h1, if_neg (by simp [h2, h3])]
  have hf : s.flag REC_STAT_OVERLOAD = false := by simp [State.flag, h4]
  rw [hf, Bool.false_and]
  rw [if_neg (by decide), if_neg (by split <;> omega)]
  rfl

/-! ### Reports -/

theorem Raised.refl (s : State) : Raised [] s s := fun n k _ _ => by simp

/-- What has been raised stands over a write outside the pending bits' area and the routes. -/
theorem Raised.wr {ns : List Nat} {s u : State} (h : Raised ns s u) {f : Fld} (hf : f.area ≠ .pend) (v : Nat) :
    Raised ns s (u.wr f v) := fun n k hn hk => (State.pends_wr u hf v n k).trans (h n k hn hk)

/-- Raising one source more. -/
theorem Raised.raise {ns : List Nat} {s u : State} (h : Raised ns s u) {m : Nat} (hm : m < 256)
    (hr : ∀ n, u.rd (STD_EVTi_ROUTE_PRIO n) = s.rd (STD_EVTi_ROUTE_PRIO n))
    (hb : ∀ n, u.rd (STD_EVTi_ROUTE_STANDS n) = s.rd (STD_EVTi_ROUTE_STANDS n)) : Raised (ns ++ [m]) s (u.raise m) := by
  intro n k hn hk
  have e0 : u.bit (STD_EVTi_ROUTE_STANDS n) k = s.bit (STD_EVTi_ROUTE_STANDS n) k := by
    unfold State.bit
    rw [hb]
  rw [State.pends_raise u hm hn hk, h n k hn hk, hr, e0]
  by_cases e : n = m
  · subst e
    by_cases e2 : n ∈ ns <;> simp [e2, Bool.or_assoc]
  · simp [e]

end Sys2Proof.Machine
end

