-- ==== Sys2Proof/Laws/KeptChannels.lean ====
section
/-!
SUPPORT. What each operation keeps (`Kept`), one lemma an operation: field channels, check-value units, row errors, stores.
-/

namespace Sys2Proof.Machine

set_option linter.all false
-- one proof at a time: the package is compiled as one file, in bounded memory
set_option Elab.async false

variable {A : List Area} {P : List Part} {s0 : State}

/-! ### Machine/Channels.lean -/

theorem State.setChan_kept {s : State} (hk : Kept A P s0 s) {n : Nat} {c : Chan}
    (hP : ∀ p ∈ ([.io] : List Part), p ∈ P) :
    Kept A P s0 (State.setChan s n c) := by
  unfold State.setChan
  repeat' first
    | with_reducible assumption | exact .inl (inP hP rfl) | exact subP hP rfl | with_reducible exact rfl
    | exact .inr rfl
    | with_reducible first
      | intro _ | dsimp only
    | fail_if_no_progress with_reducible apply Kept.upd

theorem State.setGroup_kept {s : State} (hk : Kept A P s0 s) {g : Nat} {x : Group}
    (hP : ∀ p ∈ ([.io] : List Part), p ∈ P) :
    Kept A P s0 (State.setGroup s g x) := by
  unfold State.setGroup
  repeat' first
    | with_reducible assumption | exact .inl (inP hP rfl) | exact subP hP rfl | with_reducible exact rfl
    | exact .inr rfl
    | with_reducible first
      | intro _ | dsimp only
    | fail_if_no_progress with_reducible apply Kept.upd

theorem State.syncChan_kept {s : State} (hk : Kept A P s0 s) {n : Nat} (hA : ∀ a ∈ ([.iog, .chan] : List Area), a ∈ A) :
    Kept A P s0 (State.syncChan s n) := by
  unfold State.syncChan
  repeat' first
    | with_reducible assumption | exact inA hA rfl | exact subA hA rfl
    | with_reducible first
      | intro _ | apply State.wrB_kept | apply State.wrBit_kept | dsimp only

theorem State.pulseEnd_kept {s : State} (hk : Kept A P s0 s) (hA : ∀ a ∈ ([.iog, .chan] : List Area), a ∈ A)
    (hP : ∀ p ∈ ([.io] : List Part), p ∈ P) :
    Kept A P s0 (State.pulseEnd s) := by
  unfold State.pulseEnd
  repeat' first
    | with_reducible assumption | exact inA hA rfl | exact subA hA rfl | exact .inl (inP hP rfl) | exact subP hP rfl
    | with_reducible exact rfl | exact .inr rfl
    | with_reducible first
      | intro _ | apply State.setChan_kept | apply State.wr_kept | apply State.wrB_kept | apply Kept.ite | split
      | dsimp only
    | fail_if_no_progress with_reducible apply Kept.upd

theorem State.pulseEndIn_kept {s : State} (hk : Kept A P s0 s) {g : Nat}
    (hA : ∀ a ∈ ([.iog, .chan] : List Area), a ∈ A) (hP : ∀ p ∈ ([.io] : List Part), p ∈ P) :
    Kept A P s0 (State.pulseEndIn s g) := by
  unfold State.pulseEndIn
  repeat' first
    | with_reducible assumption | exact inA hA rfl | exact subA hA rfl | exact .inl (inP hP rfl) | exact subP hP rfl
    | with_reducible exact rfl | exact .inr rfl
    | with_reducible first
      | intro _ | apply State.pulseEnd_kept | apply Kept.ite | split | dsimp only
    | fail_if_no_progress with_reducible apply Kept.upd

theorem State.settleChan_kept {s : State} (hk : Kept A P s0 s) {n : Nat}
    (hA : ∀ a ∈ ([.iog, .chan] : List Area), a ∈ A) (hP : ∀ p ∈ ([.out, .io] : List Part), p ∈ P) :
    Kept A P s0 (State.settleChan s n) := by
  unfold State.settleChan
  repeat' first
    | with_reducible assumption | exact inA hA rfl | exact subA hA rfl | exact .inl (inP hP rfl) | exact subP hP rfl
    | with_reducible exact rfl | exact .inr rfl
    | with_reducible first
      | intro _ | apply State.emit_kept | apply State.pulseEnd_kept | apply State.setChan_kept
      | apply State.syncChan_kept | apply State.wrB_kept | apply Kept.ite | split | dsimp only
    | fail_if_no_progress with_reducible apply Kept.upd

theorem State.settleGroup_kept {s : State} (hk : Kept A P s0 s) {g : Nat}
    (hA : ∀ a ∈ ([.iog, .chan] : List Area), a ∈ A) (hP : ∀ p ∈ ([.out, .io] : List Part), p ∈ P) :
    Kept A P s0 (State.settleGroup s g) := by
  unfold State.settleGroup
  repeat' first
    | with_reducible assumption | exact inA hA rfl | exact subA hA rfl | exact .inl (inP hP rfl) | exact subP hP rfl
    | with_reducible first
      | intro _ | apply State.settleChan_kept | apply Kept.foldl | dsimp only

theorem State.settleAll_kept {s : State} (hk : Kept A P s0 s) (hA : ∀ a ∈ ([.iog, .chan] : List Area), a ∈ A)
    (hP : ∀ p ∈ ([.out, .io] : List Part), p ∈ P) :
    Kept A P s0 (State.settleAll s) := by
  unfold State.settleAll
  repeat' first
    | with_reducible assumption | exact inA hA rfl | exact subA hA rfl | exact .inl (inP hP rfl) | exact subP hP rfl
    | with_reducible first
      | intro _ | apply State.settleGroup_kept | apply Kept.foldl | dsimp only

theorem State.settleOwner_kept {s : State} (hk : Kept A P s0 s) {e : Nat}
    (hA : ∀ a ∈ ([.iog, .chan] : List Area), a ∈ A) (hP : ∀ p ∈ ([.out, .io] : List Part), p ∈ P) :
    Kept A P s0 (State.settleOwner s e) := by
  unfold State.settleOwner
  repeat' first
    | with_reducible assumption | exact inA hA rfl | exact subA hA rfl | exact .inl (inP hP rfl) | exact subP hP rfl
    | with_reducible first
      | intro _ | apply State.settleGroup_kept | apply Kept.ite | apply Kept.foldl | dsimp only

theorem State.settleStand_kept {s : State} (hk : Kept A P s0 s) {k : Nat}
    (hA : ∀ a ∈ ([.iog, .chan] : List Area), a ∈ A) (hP : ∀ p ∈ ([.out, .io] : List Part), p ∈ P) :
    Kept A P s0 (State.settleStand s k) := by
  unfold State.settleStand
  repeat' first
    | with_reducible assumption | exact inA hA rfl | exact subA hA rfl | exact .inl (inP hP rfl) | exact subP hP rfl
    | with_reducible first
      | intro _ | apply State.settleChan_kept | apply Kept.ite | apply Kept.foldl | dsimp only

theorem State.applyImage_kept {s : State} (hk : Kept A P s0 s) {g : Nat}
    (hA : ∀ a ∈ ([.iog, .chan] : List Area), a ∈ A) (hP : ∀ p ∈ ([.out, .io] : List Part), p ∈ P) :
    Kept A P s0 (State.applyImage s g) := by
  unfold State.applyImage
  repeat' first
    | with_reducible assumption | exact inA hA rfl | exact subA hA rfl | exact .inl (inP hP rfl) | exact subP hP rfl
    | with_reducible exact rfl | exact .inr rfl
    | with_reducible first
      | intro _ | apply State.setGroup_kept | apply State.settleGroup_kept | dsimp only
    | fail_if_no_progress with_reducible apply Kept.upd

theorem State.applyFree_kept {s : State} (hk : Kept A P s0 s) {e : Nat}
    (hA : ∀ a ∈ ([.iog, .chan] : List Area), a ∈ A) (hP : ∀ p ∈ ([.out, .io] : List Part), p ∈ P) :
    Kept A P s0 (State.applyFree s e) := by
  unfold State.applyFree
  repeat' first
    | with_reducible assumption | exact inA hA rfl | exact subA hA rfl | exact .inl (inP hP rfl) | exact subP hP rfl
    | with_reducible first
      | intro _ | apply State.applyImage_kept | apply Kept.ite | apply Kept.foldl | dsimp only

theorem State.applyMarked_kept {s : State} (hk : Kept A P s0 s) (hA : ∀ a ∈ ([.iog, .chan] : List Area), a ∈ A)
    (hP : ∀ p ∈ ([.out, .io] : List Part), p ∈ P) :
    Kept A P s0 (State.applyMarked s) := by
  unfold State.applyMarked
  repeat' first
    | with_reducible assumption | exact inA hA rfl | exact subA hA rfl | exact .inl (inP hP rfl) | exact subP hP rfl
    | with_reducible first
      | intro _ | apply State.applyImage_kept | apply Kept.ite | apply Kept.foldl | dsimp only

theorem State.judgeFree_kept {s : State} (hk : Kept A P s0 s) {g : Nat}
    (hA : ∀ a ∈ ([.iog, .chan] : List Area), a ∈ A) (hP : ∀ p ∈ ([.out, .io] : List Part), p ∈ P) :
    Kept A P s0 (State.judgeFree s g) := by
  unfold State.judgeFree
  repeat' first
    | with_reducible assumption | exact inA hA rfl | exact subA hA rfl | exact .inl (inP hP rfl) | exact subP hP rfl
    | with_reducible exact rfl | exact .inr rfl
    | with_reducible first
      | intro _ | apply State.setGroup_kept | apply State.settleGroup_kept | apply Kept.ite | dsimp only
    | fail_if_no_progress with_reducible apply Kept.upd

theorem execOutputStale_kept {s : State} (hk : Kept A P s0 s) {g : Fin 12} {t : Nat}
    (hA : ∀ a ∈ ([.iog, .chan] : List Area), a ∈ A) (hP : ∀ p ∈ ([.now, .resp, .out, .io] : List Part), p ∈ P) :
    KeptOut A P s0 (execOutputStale g t s) := by
  unfold execOutputStale
  repeat' first
    | with_reducible assumption | exact inA hA rfl | exact subA hA rfl | exact .inl (inP hP rfl) | exact subP hP rfl
    | with_reducible first
      | intro _ | apply KeptOut.next | apply State.begin_kept | apply State.judgeFree_kept | dsimp only

theorem State.chRecord_kept {s : State} (hk : Kept A P s0 s) {n kind : Nat}
    (hA : ∀ a ∈ ([.pend, .ingress] : List Area), a ∈ A) (hP : ∀ p ∈ ([.pw, .rcd] : List Part), p ∈ P) :
    Kept A P s0 (State.chRecord s n kind) := by
  unfold State.chRecord
  repeat' first
    | with_reducible assumption | exact inA hA rfl | exact subA hA rfl | exact .inl (inP hP rfl) | exact subP hP rfl
    | with_reducible exact rfl | exact .inr rfl
    | with_reducible first
      | intro _ | apply State.record_kept | dsimp only
    | fail_if_no_progress with_reducible apply Kept.upd

theorem State.setFlag_kept {s : State} (hk : Kept A P s0 s) {n i : Nat}
    (hA : ∀ a ∈ ([.pend, .iog, .chan, .ingress] : List Area), a ∈ A)
    (hP : ∀ p ∈ ([.out, .pw, .rcd, .io] : List Part), p ∈ P) :
    Kept A P s0 (State.setFlag s n i) := by
  unfold State.setFlag
  repeat' first
    | with_reducible assumption | exact inA hA rfl | exact subA hA rfl | exact .inl (inP hP rfl) | exact subP hP rfl
    | with_reducible exact rfl | exact .inr rfl
    | with_reducible first
      | intro _ | apply State.chRecord_kept | apply State.raise_kept | apply State.setChan_kept
      | apply State.settleChan_kept | apply State.syncChan_kept | apply State.wr_kept | apply Kept.ite | dsimp only
    | fail_if_no_progress with_reducible apply Kept.upd

theorem State.setCross_kept {s : State} (hk : Kept A P s0 s) {a b : Nat}
    (hA : ∀ a ∈ ([.pend, .iog, .chan, .ingress] : List Area), a ∈ A)
    (hP : ∀ p ∈ ([.out, .pw, .rcd, .io] : List Part), p ∈ P) :
    Kept A P s0 (State.setCross s a b) := by
  unfold State.setCross
  repeat' first
    | with_reducible assumption | exact inA hA rfl | exact subA hA rfl | exact .inl (inP hP rfl) | exact subP hP rfl
    | with_reducible first
      | intro _ | apply State.setFlag_kept | apply State.wr_kept | dsimp only

theorem execOutputTrip_kept {s : State} (hk : Kept A P s0 s) {n : Fin 192} {t : Nat}
    (hA : ∀ a ∈ ([.pend, .iog, .chan, .ingress] : List Area), a ∈ A)
    (hP : ∀ p ∈ ([.now, .resp, .out, .pw, .rcd, .io] : List Part), p ∈ P) :
    KeptOut A P s0 (execOutputTrip n t s) := by
  unfold execOutputTrip
  repeat' first
    | with_reducible assumption | exact inA hA rfl | exact subA hA rfl | exact .inl (inP hP rfl) | exact subP hP rfl
    | with_reducible exact rfl | exact .inr rfl
    | with_reducible first
      | intro _ | apply KeptOut.next | apply State.begin_kept | apply State.setChan_kept | apply State.setFlag_kept
      | apply Kept.ite | apply KeptOut.ite | dsimp only
    | fail_if_no_progress with_reducible apply Kept.upd

theorem execThermalShutdown_kept {s : State} (hk : Kept A P s0 s) {n : Fin 192} {t : Nat}
    (hA : ∀ a ∈ ([.pend, .iog, .chan, .ingress] : List Area), a ∈ A)
    (hP : ∀ p ∈ ([.now, .resp, .out, .pw, .rcd, .io] : List Part), p ∈ P) :
    KeptOut A P s0 (execThermalShutdown n t s) := by
  unfold execThermalShutdown
  repeat' first
    | with_reducible assumption | exact inA hA rfl | exact subA hA rfl | exact .inl (inP hP rfl) | exact subP hP rfl
    | with_reducible exact rfl | exact .inr rfl
    | with_reducible first
      | intro _ | apply KeptOut.next | apply State.begin_kept | apply State.setChan_kept | apply State.setFlag_kept
      | apply Kept.ite | apply KeptOut.ite | dsimp only
    | fail_if_no_progress with_reducible apply Kept.upd

theorem State.autoRetry_kept {s : State} (hk : Kept A P s0 s) {n : Nat}
    (hA : ∀ a ∈ ([.iog, .chan] : List Area), a ∈ A) (hP : ∀ p ∈ ([.out, .io] : List Part), p ∈ P) :
    Kept A P s0 (State.autoRetry s n) := by
  unfold State.autoRetry
  repeat' first
    | with_reducible assumption | exact inA hA rfl | exact subA hA rfl | exact .inl (inP hP rfl) | exact subP hP rfl
    | with_reducible exact rfl | exact .inr rfl
    | with_reducible first
      | intro _ | apply State.bump_kept | apply State.setChan_kept | apply State.settleChan_kept | apply State.wr_kept
      | apply Kept.ite | dsimp only
    | fail_if_no_progress with_reducible apply Kept.upd

theorem execAutoRetry_kept {s : State} (hk : Kept A P s0 s) {n : Fin 192} {t : Nat}
    (hA : ∀ a ∈ ([.iog, .chan] : List Area), a ∈ A) (hP : ∀ p ∈ ([.now, .resp, .out, .io] : List Part), p ∈ P) :
    KeptOut A P s0 (execAutoRetry n t s) := by
  unfold execAutoRetry
  repeat' first
    | with_reducible assumption | exact inA hA rfl | exact subA hA rfl | exact .inl (inP hP rfl) | exact subP hP rfl
    | with_reducible first
      | intro _ | apply KeptOut.next | apply State.autoRetry_kept | apply State.begin_kept | dsimp only

theorem execRetriesClear_kept {s : State} (hk : Kept A P s0 s) {n : Fin 192} {t : Nat}
    (hA : ∀ a ∈ ([.chan] : List Area), a ∈ A) (hP : ∀ p ∈ ([.now, .resp, .out] : List Part), p ∈ P) :
    KeptOut A P s0 (execRetriesClear n t s) := by
  unfold execRetriesClear
  repeat' first
    | with_reducible assumption | exact inA hA rfl | exact subA hA rfl | exact .inl (inP hP rfl) | exact subP hP rfl
    | with_reducible first
      | intro _ | apply KeptOut.next | apply State.begin_kept | apply State.wr_kept | apply Kept.ite
      | apply KeptOut.ite | dsimp only

theorem State.ackChan_kept {s : State} (hk : Kept A P s0 s) {n : Nat}
    (hA : ∀ a ∈ ([.iog, .chan] : List Area), a ∈ A) (hP : ∀ p ∈ ([.out, .io] : List Part), p ∈ P) :
    Kept A P s0 (State.ackChan s n) := by
  unfold State.ackChan
  repeat' first
    | with_reducible assumption | exact inA hA rfl | exact subA hA rfl | exact .inl (inP hP rfl) | exact subP hP rfl
    | with_reducible exact rfl | exact .inr rfl
    | with_reducible first
      | intro _ | apply State.setChan_kept | apply State.settleChan_kept | apply State.wr_kept | apply Kept.ite
      | apply Kept.foldl | dsimp only
    | fail_if_no_progress with_reducible apply Kept.upd

theorem State.channelAck_kept {s : State} (hk : Kept A P s0 s) {g mask : Nat}
    (hA : ∀ a ∈ ([.iog, .chan] : List Area), a ∈ A) (hP : ∀ p ∈ ([.out, .io] : List Part), p ∈ P) :
    Kept A P s0 (State.channelAck s g mask) := by
  unfold State.channelAck
  repeat' first
    | with_reducible assumption | exact inA hA rfl | exact subA hA rfl | exact .inl (inP hP rfl) | exact subP hP rfl
    | with_reducible first
      | intro _ | apply State.ackChan_kept | apply Kept.ite | apply Kept.foldl | dsimp only

theorem execChannelAck_kept {s : State} (hk : Kept A P s0 s) {g : Fin 12} {mask : BitVec 16} {t : Nat}
    (hA : ∀ a ∈ ([.iog, .chan] : List Area), a ∈ A) (hP : ∀ p ∈ ([.now, .resp, .out, .io] : List Part), p ∈ P) :
    KeptOut A P s0 (execChannelAck g mask t s) := by
  unfold execChannelAck
  repeat' first
    | with_reducible assumption | exact inA hA rfl | exact subA hA rfl | exact .inl (inP hP rfl) | exact subP hP rfl
    | with_reducible first
      | intro _ | apply KeptOut.next | apply State.begin_kept | apply State.channelAck_kept | apply Kept.ite
      | apply KeptOut.ite | dsimp only

theorem State.supplyMove_kept {s : State} (hk : Kept A P s0 s) {g st : Nat}
    (hA : ∀ a ∈ ([.pend, .iog, .chan, .ingress] : List Area), a ∈ A)
    (hP : ∀ p ∈ ([.out, .pw, .rcd, .io] : List Part), p ∈ P) :
    Kept A P s0 (State.supplyMove s g st) := by
  unfold State.supplyMove
  repeat' first
    | with_reducible assumption | exact inA hA rfl | exact subA hA rfl | exact .inl (inP hP rfl) | exact subP hP rfl
    | with_reducible exact rfl | exact .inr rfl
    | with_reducible first
      | intro _ | apply State.bump_kept | apply State.pulseEndIn_kept | apply State.raise_kept
      | apply State.record_kept | apply State.setChan_kept | apply State.setGroup_kept | apply State.settleGroup_kept
      | apply State.wr_kept | apply Kept.ite | apply Kept.foldl | dsimp only
    | fail_if_no_progress with_reducible apply Kept.upd

theorem State.recover_kept {s : State} (hk : Kept A P s0 s) {g st : Nat} {release : Bool}
    (hA : ∀ a ∈ ([.pend, .iog, .chan, .ingress] : List Area), a ∈ A)
    (hP : ∀ p ∈ ([.out, .pw, .rcd, .io] : List Part), p ∈ P) :
    Kept A P s0 (State.recover s g st release) := by
  unfold State.recover
  repeat' first
    | with_reducible assumption | exact inA hA rfl | exact subA hA rfl | exact .inl (inP hP rfl) | exact subP hP rfl
    | with_reducible exact rfl | exact .inr rfl
    | with_reducible first
      | intro _ | apply State.setGroup_kept | apply State.supplyMove_kept | dsimp only
    | fail_if_no_progress with_reducible apply Kept.upd

theorem State.aboveRecovery_kept {s : State} (hk : Kept A P s0 s) {g : Nat}
    (hA : ∀ a ∈ ([.pend, .iog, .chan, .ingress] : List Area), a ∈ A)
    (hP : ∀ p ∈ ([.out, .pw, .rcd, .io] : List Part), p ∈ P) :
    Kept A P s0 (State.aboveRecovery s g) := by
  unfold State.aboveRecovery
  repeat' first
    | with_reducible assumption | exact inA hA rfl | exact subA hA rfl | exact .inl (inP hP rfl) | exact subP hP rfl
    | with_reducible exact rfl | exact .inr rfl
    | with_reducible first
      | intro _ | apply State.recover_kept | apply State.setGroup_kept | apply State.supplyMove_kept | apply Kept.ite
      | split | dsimp only
    | fail_if_no_progress with_reducible apply Kept.upd

theorem State.risingCross_kept {s : State} (hk : Kept A P s0 s) {g : Nat} {th : Rising}
    (hA : ∀ a ∈ ([.pend, .iog, .chan, .ingress] : List Area), a ∈ A)
    (hP : ∀ p ∈ ([.out, .pw, .rcd, .io] : List Part), p ∈ P) :
    Kept A P s0 (State.risingCross s g th) := by
  unfold State.risingCross
  repeat' first
    | with_reducible assumption | exact inA hA rfl | exact subA hA rfl | exact .inl (inP hP rfl) | exact subP hP rfl
    | with_reducible exact rfl | exact .inr rfl
    | with_reducible first
      | intro _ | apply State.aboveRecovery_kept | apply State.setGroup_kept | apply State.supplyMove_kept
      | apply Kept.ite | split | dsimp only
    | fail_if_no_progress with_reducible apply Kept.upd

theorem execSupplyRisingCross_kept {s : State} (hk : Kept A P s0 s) {g : Fin 12} {th : Rising} {t : Nat}
    (hA : ∀ a ∈ ([.pend, .iog, .chan, .ingress] : List Area), a ∈ A)
    (hP : ∀ p ∈ ([.now, .resp, .out, .pw, .rcd, .io] : List Part), p ∈ P) :
    KeptOut A P s0 (execSupplyRisingCross g th t s) := by
  unfold execSupplyRisingCross
  repeat' first
    | with_reducible assumption | exact inA hA rfl | exact subA hA rfl | exact .inl (inP hP rfl) | exact subP hP rfl
    | with_reducible first
      | intro _ | apply KeptOut.next | apply State.begin_kept | apply State.risingCross_kept | dsimp only

theorem State.fallingCross_kept {s : State} (hk : Kept A P s0 s) {g : Nat} {th : Falling}
    (hA : ∀ a ∈ ([.pend, .iog, .chan, .ingress] : List Area), a ∈ A)
    (hP : ∀ p ∈ ([.out, .pw, .rcd, .io] : List Part), p ∈ P) :
    Kept A P s0 (State.fallingCross s g th) := by
  unfold State.fallingCross
  repeat' first
    | with_reducible assumption | exact inA hA rfl | exact subA hA rfl | exact .inl (inP hP rfl) | exact subP hP rfl
    | with_reducible exact rfl | exact .inr rfl
    | with_reducible first
      | intro _ | apply State.setGroup_kept | apply State.supplyMove_kept | apply Kept.ite | split | dsimp only
    | fail_if_no_progress with_reducible apply Kept.upd

theorem execSupplyFallingCross_kept {s : State} (hk : Kept A P s0 s) {g : Fin 12} {th : Falling} {t : Nat}
    (hA : ∀ a ∈ ([.pend, .iog, .chan, .ingress] : List Area), a ∈ A)
    (hP : ∀ p ∈ ([.now, .resp, .out, .pw, .rcd, .io] : List Part), p ∈ P) :
    KeptOut A P s0 (execSupplyFallingCross g th t s) := by
  unfold execSupplyFallingCross
  repeat' first
    | with_reducible assumption | exact inA hA rfl | exact subA hA rfl | exact .inl (inP hP rfl) | exact subP hP rfl
    | with_reducible first
      | intro _ | apply KeptOut.next | apply State.begin_kept | apply State.fallingCross_kept | dsimp only

theorem State.supplyAck_kept {s : State} (hk : Kept A P s0 s) {g : Nat}
    (hA : ∀ a ∈ ([.pend, .iog, .chan, .ingress] : List Area), a ∈ A)
    (hP : ∀ p ∈ ([.out, .pw, .rcd, .io] : List Part), p ∈ P) :
    Kept A P s0 (State.supplyAck s g) := by
  unfold State.supplyAck
  repeat' first
    | with_reducible assumption | exact inA hA rfl | exact subA hA rfl | exact .inl (inP hP rfl) | exact subP hP rfl
    | with_reducible exact rfl | exact .inr rfl
    | with_reducible first
      | intro _ | apply State.setGroup_kept | apply State.supplyMove_kept | apply Kept.ite | dsimp only
    | fail_if_no_progress with_reducible apply Kept.upd

theorem execSupplyAck_kept {s : State} (hk : Kept A P s0 s) {g : Fin 12} {t : Nat}
    (hA : ∀ a ∈ ([.pend, .iog, .chan, .ingress] : List Area), a ∈ A)
    (hP : ∀ p ∈ ([.now, .resp, .out, .pw, .rcd, .io] : List Part), p ∈ P) :
    KeptOut A P s0 (execSupplyAck g t s) := by
  unfold execSupplyAck
  repeat' first
    | with_reducible assumption | exact inA hA rfl | exact subA hA rfl | exact .inl (inP hP rfl) | exact subP hP rfl
    | with_reducible first
      | intro _ | apply KeptOut.next | apply State.begin_kept | apply State.supplyAck_kept | dsimp only

theorem State.linkFrame_kept {s : State}
    (hk : Kept A P s0 s) {g volt : Nat} {currs : List Nat} {temp : BitVec 8} {limit : Nat}
    (hA : ∀ a ∈ ([.iog, .chan] : List Area), a ∈ A) (hP : ∀ p ∈ ([.io] : List Part), p ∈ P) :
    Kept A P s0 (State.linkFrame s g volt currs temp limit) := by
  unfold State.linkFrame
  repeat' first
    | with_reducible assumption | exact inA hA rfl | exact subA hA rfl | exact .inl (inP hP rfl) | exact subP hP rfl
    | with_reducible exact rfl | exact .inr rfl
    | with_reducible first
      | intro _ | apply State.setChan_kept | apply State.setGroup_kept | apply State.wr_kept | apply State.wrBit_kept
      | apply Kept.ite | apply Kept.foldl | dsimp only
    | fail_if_no_progress with_reducible apply Kept.upd

theorem execStatusLinkFrame_kept {s : State}
    (hk : Kept A P s0 s) {g : Fin 12} {volt : Nat} {currs : List Nat} {temp : BitVec 8} {limit : BitVec 16} {t : Nat} (hA : ∀ a ∈ ([.iog, .chan] : List Area), a ∈ A) (hP : ∀ p ∈ ([.now, .resp, .out, .io] : List Part), p ∈ P) :
    KeptOut A P s0 (execStatusLinkFrame g volt currs temp limit t s) := by
  unfold execStatusLinkFrame
  repeat' first
    | with_reducible assumption | exact inA hA rfl | exact subA hA rfl | exact .inl (inP hP rfl) | exact subP hP rfl
    | with_reducible first
      | intro _ | apply KeptOut.next | apply State.begin_kept | apply State.linkFrame_kept | apply Kept.ite
      | apply KeptOut.ite | dsimp only

theorem State.linkLost_kept {s : State} (hk : Kept A P s0 s) {g : Nat}
    (hA : ∀ a ∈ ([.pend, .iog, .chan, .ingress] : List Area), a ∈ A)
    (hP : ∀ p ∈ ([.out, .pw, .rcd, .io] : List Part), p ∈ P) :
    Kept A P s0 (State.linkLost s g) := by
  unfold State.linkLost
  repeat' first
    | with_reducible assumption | exact inA hA rfl | exact subA hA rfl | exact .inl (inP hP rfl) | exact subP hP rfl
    | with_reducible exact rfl | exact .inr rfl
    | with_reducible first
      | intro _ | apply State.setGroup_kept | apply State.supplyMove_kept | apply State.wr_kept
      | apply State.wrBit_kept | apply Kept.ite | dsimp only
    | fail_if_no_progress with_reducible apply Kept.upd

theorem execStatusLinkLost_kept {s : State} (hk : Kept A P s0 s) {g : Fin 12} {t : Nat}
    (hA : ∀ a ∈ ([.pend, .iog, .chan, .ingress] : List Area), a ∈ A)
    (hP : ∀ p ∈ ([.now, .resp, .out, .pw, .rcd, .io] : List Part), p ∈ P) :
    KeptOut A P s0 (execStatusLinkLost g t s) := by
  unfold execStatusLinkLost
  repeat' first
    | with_reducible assumption | exact inA hA rfl | exact subA hA rfl | exact .inl (inP hP rfl) | exact subP hP rfl
    | with_reducible first
      | intro _ | apply KeptOut.next | apply State.begin_kept | apply State.linkLost_kept | dsimp only

theorem State.quadEdge_kept {s : State} (hk : Kept A P s0 s) {a : Nat} {onB level both : Bool}
    (hA : ∀ a ∈ ([.pend, .iog, .chan, .ingress] : List Area), a ∈ A)
    (hP : ∀ p ∈ ([.out, .pw, .rcd, .io] : List Part), p ∈ P) :
    Kept A P s0 (State.quadEdge s a onB level both) := by
  unfold State.quadEdge
  repeat' first
    | with_reducible assumption | exact inA hA rfl | exact subA hA rfl | exact .inl (inP hP rfl) | exact subP hP rfl
    | with_reducible exact rfl | exact .inr rfl
    | with_reducible first
      | intro _ | apply State.setChan_kept | apply State.setFlag_kept | apply Kept.ite | dsimp only
    | fail_if_no_progress with_reducible apply Kept.upd

theorem State.gateEdge_kept {s : State} (hk : Kept A P s0 s) {n e : Nat} (hP : ∀ p ∈ ([.io] : List Part), p ∈ P) :
    Kept A P s0 (State.gateEdge s n e) := by
  unfold State.gateEdge
  repeat' first
    | with_reducible assumption | exact .inl (inP hP rfl) | exact subP hP rfl | with_reducible exact rfl
    | exact .inr rfl
    | with_reducible first
      | intro _ | apply State.setChan_kept | apply Kept.ite | split | dsimp only
    | fail_if_no_progress with_reducible apply Kept.upd

theorem State.edgeHeld_kept {s : State} (hk : Kept A P s0 s) {n : Nat} {level both : Bool}
    (hP : ∀ p ∈ ([.io] : List Part), p ∈ P) :
    Kept A P s0 (State.edgeHeld s n level both) := by
  unfold State.edgeHeld
  repeat' first
    | with_reducible assumption | exact .inl (inP hP rfl) | exact subP hP rfl | with_reducible exact rfl
    | exact .inr rfl
    | with_reducible first
      | intro _ | apply State.setChan_kept | apply Kept.ite | dsimp only
    | fail_if_no_progress with_reducible apply Kept.upd

theorem State.counterEdge_kept {s : State} (hk : Kept A P s0 s) {n : Nat} {level both : Bool}
    (hA : ∀ a ∈ ([.pend, .iog, .chan, .ingress] : List Area), a ∈ A)
    (hP : ∀ p ∈ ([.out, .pw, .rcd, .io] : List Part), p ∈ P) :
    Kept A P s0 (State.counterEdge s n level both) := by
  unfold State.counterEdge
  repeat' first
    | with_reducible assumption | exact inA hA rfl | exact subA hA rfl | exact .inl (inP hP rfl) | exact subP hP rfl
    | with_reducible exact rfl | exact .inr rfl
    | with_reducible first
      | intro _ | apply State.edgeHeld_kept | apply State.gateEdge_kept | apply State.quadEdge_kept
      | apply State.setChan_kept | apply Kept.ite | split | dsimp only
    | fail_if_no_progress with_reducible apply Kept.upd

theorem execCounterEdge_kept {s : State} (hk : Kept A P s0 s) {n : Fin 192} {level both : Bool} {t : Nat}
    (hA : ∀ a ∈ ([.pend, .iog, .chan, .ingress] : List Area), a ∈ A)
    (hP : ∀ p ∈ ([.now, .resp, .out, .pw, .rcd, .io] : List Part), p ∈ P) :
    KeptOut A P s0 (execCounterEdge n level both t s) := by
  unfold execCounterEdge
  repeat' first
    | with_reducible assumption | exact inA hA rfl | exact subA hA rfl | exact .inl (inP hP rfl) | exact subP hP rfl
    | with_reducible first
      | intro _ | apply KeptOut.next | apply State.begin_kept | apply State.counterEdge_kept | dsimp only

theorem State.gateTimeout_kept {s : State} (hk : Kept A P s0 s) {n : Nat} (hP : ∀ p ∈ ([.io] : List Part), p ∈ P) :
    Kept A P s0 (State.gateTimeout s n) := by
  unfold State.gateTimeout
  repeat' first
    | with_reducible assumption | exact .inl (inP hP rfl) | exact subP hP rfl | with_reducible exact rfl
    | exact .inr rfl
    | with_reducible first
      | intro _ | apply State.setChan_kept | apply Kept.ite | split | dsimp only
    | fail_if_no_progress with_reducible apply Kept.upd

theorem execFrequencyGateTimeout_kept {s : State} (hk : Kept A P s0 s) {n : Fin 192} {t : Nat}
    (hP : ∀ p ∈ ([.now, .resp, .out, .io] : List Part), p ∈ P) :
    KeptOut A P s0 (execFrequencyGateTimeout n t s) := by
  unfold execFrequencyGateTimeout
  repeat' first
    | with_reducible assumption | exact .inl (inP hP rfl) | exact subP hP rfl
    | with_reducible first
      | intro _ | apply KeptOut.next | apply State.begin_kept | apply State.gateTimeout_kept | dsimp only

theorem State.readback_kept {s : State} (hk : Kept A P s0 s) {n : Nat} {v : Bool}
    (hA : ∀ a ∈ ([.pend, .iog, .chan, .ingress] : List Area), a ∈ A)
    (hP : ∀ p ∈ ([.out, .pw, .rcd, .io] : List Part), p ∈ P) :
    Kept A P s0 (State.readback s n v) := by
  unfold State.readback
  repeat' first
    | with_reducible assumption | exact inA hA rfl | exact subA hA rfl | exact .inl (inP hP rfl) | exact subP hP rfl
    | with_reducible exact rfl | exact .inr rfl
    | with_reducible first
      | intro _ | apply State.setChan_kept | apply State.setFlag_kept | apply Kept.ite | split | dsimp only
    | fail_if_no_progress with_reducible apply Kept.upd

theorem State.sampleChan_kept {s : State} (hk : Kept A P s0 s) {n : Nat} {v : Bool}
    (hA : ∀ a ∈ ([.pend, .iog, .chan, .ingress] : List Area), a ∈ A)
    (hP : ∀ p ∈ ([.out, .pw, .rcd, .io, .pmg] : List Part), p ∈ P) :
    Kept A P s0 (State.sampleChan s n v) := by
  unfold State.sampleChan
  repeat' first
    | with_reducible assumption | exact inA hA rfl | exact subA hA rfl | exact .inl (inP hP rfl) | exact subP hP rfl
    | with_reducible exact rfl | exact .inr rfl
    | with_reducible first
      | intro _ | apply State.readback_kept | apply State.setChan_kept | apply State.syncChan_kept
      | apply State.wakeEdge_kept | apply State.wr_kept | apply State.wrB_kept | apply Kept.ite | split | dsimp only
    | fail_if_no_progress with_reducible apply Kept.upd

theorem State.sampleGroup_kept {s : State} (hk : Kept A P s0 s) {levels : Nat} {atMark : Bool} {g : Nat}
    (hA : ∀ a ∈ ([.pend, .iog, .chan, .ingress] : List Area), a ∈ A)
    (hP : ∀ p ∈ ([.out, .pw, .rcd, .io, .pmg] : List Part), p ∈ P) :
    Kept A P s0 (State.sampleGroup s levels atMark g) := by
  unfold State.sampleGroup
  repeat' first
    | with_reducible assumption | exact inA hA rfl | exact subA hA rfl | exact .inl (inP hP rfl) | exact subP hP rfl
    | with_reducible exact rfl | exact .inr rfl
    | with_reducible first
      | intro _ | apply State.judgeFree_kept | apply State.sampleChan_kept | apply State.setGroup_kept
      | apply State.wr_kept | apply Kept.ite | apply Kept.foldl | dsimp only
    | fail_if_no_progress with_reducible apply Kept.upd

theorem execScannerSample_kept {s : State} (hk : Kept A P s0 s) {levels : BitVec 192} {t : Nat}
    (hA : ∀ a ∈ ([.pend, .iog, .chan, .ingress] : List Area), a ∈ A)
    (hP : ∀ p ∈ ([.now, .resp, .out, .pw, .rcd, .io, .pmg] : List Part), p ∈ P) :
    KeptOut A P s0 (execScannerSample levels t s) := by
  unfold execScannerSample
  repeat' first
    | with_reducible assumption | exact inA hA rfl | exact subA hA rfl | exact .inl (inP hP rfl) | exact subP hP rfl
    | with_reducible first
      | intro _ | apply KeptOut.next | apply State.begin_kept | apply State.sampleGroup_kept | apply Kept.ite
      | apply KeptOut.ite | apply Kept.foldl | dsimp only

theorem State.slotBegin_kept {s : State} (hk : Kept A P s0 s) (hA : ∀ a ∈ ([.iog, .chan] : List Area), a ∈ A)
    (hP : ∀ p ∈ ([.io] : List Part), p ∈ P) :
    Kept A P s0 (State.slotBegin s) := by
  unfold State.slotBegin
  repeat' first
    | with_reducible assumption | exact inA hA rfl | exact subA hA rfl | exact .inl (inP hP rfl) | exact subP hP rfl
    | with_reducible exact rfl | exact .inr rfl
    | with_reducible first
      | intro _ | apply State.pulseEnd_kept | apply State.setChan_kept | apply State.wr_kept | apply State.wrB_kept
      | apply Kept.ite | split | dsimp only
    | fail_if_no_progress with_reducible apply Kept.upd

theorem State.pulseOpen_kept {s : State} (hk : Kept A P s0 s) (hA : ∀ a ∈ ([.iog, .chan] : List Area), a ∈ A)
    (hP : ∀ p ∈ ([.out, .io] : List Part), p ∈ P) :
    Kept A P s0 (State.pulseOpen s) := by
  unfold State.pulseOpen
  repeat' first
    | with_reducible assumption | exact inA hA rfl | exact subA hA rfl | exact .inl (inP hP rfl) | exact subP hP rfl
    | with_reducible exact rfl | exact .inr rfl
    | with_reducible first
      | intro _ | apply State.setChan_kept | apply State.settleChan_kept | apply State.wr_kept | apply Kept.ite
      | split | dsimp only
    | fail_if_no_progress with_reducible apply Kept.upd

theorem State.pulseJudge_kept {s : State} (hk : Kept A P s0 s)
    (hA : ∀ a ∈ ([.pend, .iog, .chan, .ingress] : List Area), a ∈ A)
    (hP : ∀ p ∈ ([.out, .pw, .rcd, .io] : List Part), p ∈ P) :
    Kept A P s0 (State.pulseJudge s) := by
  unfold State.pulseJudge
  repeat' first
    | with_reducible assumption | exact inA hA rfl | exact subA hA rfl | exact .inl (inP hP rfl) | exact subP hP rfl
    | with_reducible exact rfl | exact .inr rfl
    | with_reducible first
      | intro _ | apply State.setCross_kept | apply State.setFlag_kept | apply State.wr_kept | apply State.wrB_kept
      | apply Kept.ite | apply Kept.foldl | split | dsimp only
    | fail_if_no_progress with_reducible apply Kept.upd

theorem State.pulseClose_kept {s : State} (hk : Kept A P s0 s) (hA : ∀ a ∈ ([.iog, .chan] : List Area), a ∈ A)
    (hP : ∀ p ∈ ([.out, .io] : List Part), p ∈ P) :
    Kept A P s0 (State.pulseClose s) := by
  unfold State.pulseClose
  repeat' first
    | with_reducible assumption | exact inA hA rfl | exact subA hA rfl | exact .inl (inP hP rfl) | exact subP hP rfl
    | with_reducible exact rfl | exact .inr rfl
    | with_reducible first
      | intro _ | apply State.pulseEnd_kept | apply State.settleChan_kept | apply Kept.ite | split | dsimp only
    | fail_if_no_progress with_reducible apply Kept.upd

theorem execOffPulseSlot_kept {s : State} (hk : Kept A P s0 s) {step : PulseStep} {t : Nat}
    (hA : ∀ a ∈ ([.pend, .iog, .chan, .ingress] : List Area), a ∈ A)
    (hP : ∀ p ∈ ([.now, .resp, .out, .pw, .rcd, .io] : List Part), p ∈ P) :
    KeptOut A P s0 (execOffPulseSlot step t s) := by
  unfold execOffPulseSlot
  repeat' first
    | with_reducible assumption | exact inA hA rfl | exact subA hA rfl | exact .inl (inP hP rfl) | exact subP hP rfl
    | with_reducible exact rfl | exact .inr rfl
    | with_reducible first
      | intro _ | apply KeptOut.next | apply State.begin_kept | apply State.pulseClose_kept
      | apply State.pulseJudge_kept | apply State.pulseOpen_kept | apply State.slotBegin_kept | apply Kept.ite
      | apply KeptOut.ite | split | dsimp only
    | fail_if_no_progress with_reducible apply Kept.upd

theorem State.groupReset_kept {s : State} (hk : Kept A P s0 s) {g : Nat}
    (hA : ∀ a ∈ ([.iog, .chan] : List Area), a ∈ A) (hP : ∀ p ∈ ([.out, .io] : List Part), p ∈ P) :
    Kept A P s0 (State.groupReset s g) := by
  unfold State.groupReset
  repeat' first
    | with_reducible assumption | exact inA hA rfl | exact subA hA rfl | exact .inl (inP hP rfl) | exact subP hP rfl
    | with_reducible exact rfl | exact .inr rfl | exact fun a h => mem_of_inArea hA h (hm := rfl)
    | exact fun a _ => hA _ (mem_allAreas _)
    | exact fun a h => mem_of_or hA (groupAddr_area h) (hx := rfl) (hy := rfl)
    | with_reducible first
      | intro _ | apply State.pulseEndIn_kept | apply State.restore_kept | apply State.setChan_kept
      | apply State.setGroup_kept | apply State.settleGroup_kept | apply State.wrB_kept | apply Kept.foldl
      | dsimp only
    | fail_if_no_progress with_reducible apply Kept.upd

theorem execGroupReset_kept {s : State} (hk : Kept A P s0 s) {g : Fin 12} {t : Nat}
    (hA : ∀ a ∈ ([.iog, .chan] : List Area), a ∈ A) (hP : ∀ p ∈ ([.now, .resp, .out, .io] : List Part), p ∈ P) :
    KeptOut A P s0 (execGroupReset g t s) := by
  unfold execGroupReset
  repeat' first
    | with_reducible assumption | exact inA hA rfl | exact subA hA rfl | exact .inl (inP hP rfl) | exact subP hP rfl
    | with_reducible first
      | intro _ | apply KeptOut.next | apply State.begin_kept | apply State.groupReset_kept | apply Kept.ite
      | apply KeptOut.ite | dsimp only

theorem State.groupResetDone_kept {s : State} (hk : Kept A P s0 s) {g : Nat}
    (hA : ∀ a ∈ ([.iog, .chan] : List Area), a ∈ A) (hP : ∀ p ∈ ([.out, .io] : List Part), p ∈ P) :
    Kept A P s0 (State.groupResetDone s g) := by
  unfold State.groupResetDone
  repeat' first
    | with_reducible assumption | exact inA hA rfl | exact subA hA rfl | exact .inl (inP hP rfl) | exact subP hP rfl
    | with_reducible exact rfl | exact .inr rfl
    | with_reducible first
      | intro _ | apply State.setGroup_kept | apply State.settleGroup_kept | apply State.wr_kept | apply Kept.ite
      | dsimp only
    | fail_if_no_progress with_reducible apply Kept.upd

theorem execGroupResetDone_kept {s : State} (hk : Kept A P s0 s) {g : Fin 12} {t : Nat}
    (hA : ∀ a ∈ ([.iog, .chan] : List Area), a ∈ A) (hP : ∀ p ∈ ([.now, .resp, .out, .io] : List Part), p ∈ P) :
    KeptOut A P s0 (execGroupResetDone g t s) := by
  unfold execGroupResetDone
  repeat' first
    | with_reducible assumption | exact inA hA rfl | exact subA hA rfl | exact .inl (inP hP rfl) | exact subP hP rfl
    | with_reducible first
      | intro _ | apply KeptOut.next | apply State.begin_kept | apply State.groupResetDone_kept | dsimp only

theorem State.fieldStart_kept {s : State} (hk : Kept A P s0 s) (hA : ∀ a ∈ ([.iog, .chan] : List Area), a ∈ A)
    (hP : ∀ p ∈ ([.out, .io] : List Part), p ∈ P) :
    Kept A P s0 (State.fieldStart s) := by
  unfold State.fieldStart
  repeat' first
    | with_reducible assumption | exact inA hA rfl | exact subA hA rfl | exact .inl (inP hP rfl) | exact subP hP rfl
    | with_reducible exact rfl | exact .inr rfl
    | with_reducible first
      | intro _ | apply State.setGroup_kept | apply State.settleAll_kept | apply Kept.foldl | dsimp only
    | fail_if_no_progress with_reducible apply Kept.upd

theorem State.fieldStop_kept {s : State} (hk : Kept A P s0 s) (hA : ∀ a ∈ ([.iog, .chan] : List Area), a ∈ A)
    (hP : ∀ p ∈ ([.out, .io] : List Part), p ∈ P) :
    Kept A P s0 (State.fieldStop s) := by
  unfold State.fieldStop
  repeat' first
    | with_reducible assumption | exact inA hA rfl | exact subA hA rfl | exact .inl (inP hP rfl) | exact subP hP rfl
    | with_reducible exact rfl | exact .inr rfl
    | with_reducible first
      | intro _ | apply State.pulseEnd_kept | apply State.settleAll_kept | dsimp only
    | fail_if_no_progress with_reducible apply Kept.upd

/-! ### Machine/Units.lean -/

theorem State.unitPend_kept {s : State} (hk : Kept A P s0 s) {u v : Nat} {frame : Bool}
    (hA : ∀ a ∈ ([.cvu] : List Area), a ∈ A) (hP : ∀ p ∈ ([.cvu] : List Part), p ∈ P) :
    Kept A P s0 (State.unitPend s u v frame) := by
  unfold State.unitPend
  repeat' first
    | with_reducible assumption | exact inA hA rfl | exact subA hA rfl | exact .inl (inP hP rfl) | exact subP hP rfl
    | with_reducible exact rfl | exact .inr rfl
    | with_reducible first
      | intro _ | apply State.wr_kept | apply Kept.ite | dsimp only
    | fail_if_no_progress with_reducible apply Kept.upd

theorem State.unitFrame_kept {s : State}
    (hk : Kept A P s0 s) {src port : Nat} {fid : Option Nat} {seed : Option Nat} {payload : List Byte}
    (hA : ∀ a ∈ ([.cvu] : List Area), a ∈ A) (hP : ∀ p ∈ ([.cvu] : List Part), p ∈ P) :
    Kept A P s0 (State.unitFrame s src port fid seed payload) := by
  unfold State.unitFrame
  repeat' first
    | with_reducible assumption | exact inA hA rfl | exact subA hA rfl | exact .inl (inP hP rfl) | exact subP hP rfl
    | with_reducible exact rfl | exact .inr rfl
    | with_reducible first
      | intro _ | apply State.unitPend_kept | apply Kept.ite | apply Kept.foldl | split | dsimp only
    | fail_if_no_progress with_reducible apply Kept.upd

theorem State.unitWrite_kept {s : State} (hk : Kept A P s0 s) {bytes : List (Nat × Byte)}
    (hA : ∀ a ∈ ([.cvu] : List Area), a ∈ A) (hP : ∀ p ∈ ([.cvu] : List Part), p ∈ P) :
    Kept A P s0 (State.unitWrite s bytes) := by
  unfold State.unitWrite
  repeat' first
    | with_reducible assumption | exact inA hA rfl | exact subA hA rfl | exact .inl (inP hP rfl) | exact subP hP rfl
    | with_reducible exact rfl | exact .inr rfl
    | with_reducible first
      | intro _ | apply State.unitPend_kept | apply Kept.ite | apply Kept.foldl | dsimp only
    | fail_if_no_progress with_reducible apply Kept.upd

theorem State.unitResult_kept {s : State} (hk : Kept A P s0 s) {u : Nat}
    (hA : ∀ a ∈ ([.pend, .cvu] : List Area), a ∈ A) (hP : ∀ p ∈ ([.cvu] : List Part), p ∈ P) :
    Kept A P s0 (State.unitResult s u) := by
  unfold State.unitResult
  repeat' first
    | with_reducible assumption | exact inA hA rfl | exact subA hA rfl | exact .inl (inP hP rfl) | exact subP hP rfl
    | with_reducible exact rfl | exact .inr rfl
    | with_reducible first
      | intro _ | apply State.bump_kept | apply State.raise_kept | apply State.tick_kept | apply State.wr_kept
      | apply State.wr64_kept | apply State.wrB_kept | apply Kept.ite | split | dsimp only
    | fail_if_no_progress with_reducible apply Kept.upd

theorem execUnitFrameResult_kept {s : State} (hk : Kept A P s0 s) {u : Fin 8} {t : Nat}
    (hA : ∀ a ∈ ([.pend, .cvu] : List Area), a ∈ A) (hP : ∀ p ∈ ([.now, .resp, .out, .cvu] : List Part), p ∈ P) :
    KeptOut A P s0 (execUnitFrameResult u t s) := by
  unfold execUnitFrameResult
  repeat' first
    | with_reducible assumption | exact inA hA rfl | exact subA hA rfl | exact .inl (inP hP rfl) | exact subP hP rfl
    | with_reducible first
      | intro _ | apply KeptOut.next | apply State.begin_kept | apply State.unitResult_kept | dsimp only

theorem State.unitRestart_kept {s : State} (hk : Kept A P s0 s) {u : Nat} (hA : ∀ a ∈ ([.cvu] : List Area), a ∈ A)
    (hP : ∀ p ∈ ([.cvu] : List Part), p ∈ P) :
    Kept A P s0 (State.unitRestart s u) := by
  unfold State.unitRestart
  repeat' first
    | with_reducible assumption | exact inA hA rfl | exact subA hA rfl | exact .inl (inP hP rfl) | exact subP hP rfl
    | with_reducible exact rfl | exact .inr rfl
    | with_reducible first
      | intro _ | apply State.unitPend_kept | apply Kept.ite | split | dsimp only
    | fail_if_no_progress with_reducible apply Kept.upd

theorem execUnitRestart_kept {s : State} (hk : Kept A P s0 s) {u : Fin 8} {t : Nat}
    (hA : ∀ a ∈ ([.cvu] : List Area), a ∈ A) (hP : ∀ p ∈ ([.now, .resp, .out, .cvu] : List Part), p ∈ P) :
    KeptOut A P s0 (execUnitRestart u t s) := by
  unfold execUnitRestart
  repeat' first
    | with_reducible assumption | exact inA hA rfl | exact subA hA rfl | exact .inl (inP hP rfl) | exact subP hP rfl
    | with_reducible first
      | intro _ | apply KeptOut.next | apply State.begin_kept | apply State.unitRestart_kept | dsimp only

/-! ### Machine/Ecc.lean -/

theorem State.putLeByte_kept {s : State} (hk : Kept A P s0 s) {a : Nat} {b : Byte}
    (hP : ∀ p ∈ ([.leMem] : List Part), p ∈ P) : Kept A P s0 (State.putLeByte s a b) :=
  Kept.parts hk rfl rfl (fun q hq => by cases q <;> first | rfl | exact absurd (inP hP rfl) hq)
    fun c => ⟨c.1, c.2, tblWf_set _ _ _ c.3, tblSet_free _ _ c.4, c.5⟩

theorem State.putLeBytes_kept {s : State} (hk : Kept A P s0 s) {a : Nat} {bs : List Byte}
    (hP : ∀ p ∈ ([.leMem] : List Part), p ∈ P) :
    Kept A P s0 (State.putLeBytes s a bs) := by
  induction bs generalizing s a with
  | nil => exact hk
  | cons b r ih => exact ih (State.putLeByte_kept hk hP)

theorem State.putRow_kept {s : State} (hk : Kept A P s0 s) {memid row off : Nat} {bs : List Byte}
    (hP : ∀ p ∈ ([.mem, .leMem, .ecc] : List Part), p ∈ P) :
    Kept A P s0 (State.putRow s memid row off bs) := by
  unfold State.putRow
  repeat' first
    | with_reducible assumption | exact .inl (inP hP rfl) | exact subP hP rfl | with_reducible exact rfl
    | exact .inr rfl
    | with_reducible first
      | intro _ | apply State.putBytes_kept | apply State.putLeBytes_kept | apply Kept.ite | split | dsimp only
    | fail_if_no_progress with_reducible apply Kept.upd

theorem State.setErr_kept {s : State} (hk : Kept A P s0 s) {memid row e : Nat}
    (hP : ∀ p ∈ ([.ecc] : List Part), p ∈ P) :
    Kept A P s0 (State.setErr s memid row e) := by
  unfold State.setErr
  repeat' first
    | with_reducible assumption | exact .inl (inP hP rfl) | exact subP hP rfl | with_reducible exact rfl
    | exact .inr rfl
    | with_reducible first
      | intro _ | dsimp only
    | fail_if_no_progress with_reducible apply Kept.upd

theorem State.absorb_kept {s : State} (hk : Kept A P s0 s) {memid row e : Nat}
    (hP : ∀ p ∈ ([.mem, .leMem, .ecc] : List Part), p ∈ P) :
    Kept A P s0 (State.absorb s memid row e) := by
  unfold State.absorb
  repeat' first
    | with_reducible assumption | exact .inl (inP hP rfl) | exact subP hP rfl
    | with_reducible first
      | intro _ | apply State.putRow_kept | apply Kept.ite | dsimp only

theorem State.ctMove_kept {s : State} (hk : Kept A P s0 s) {i st : Nat}
    (hA : ∀ a ∈ ([.pend, .ecc, .ingress] : List Area), a ∈ A) (hP : ∀ p ∈ ([.pw, .rcd] : List Part), p ∈ P) :
    Kept A P s0 (State.ctMove s i st) := by
  unfold State.ctMove
  repeat' first
    | with_reducible assumption | exact inA hA rfl | exact subA hA rfl | exact .inl (inP hP rfl) | exact subP hP rfl
    | with_reducible exact rfl | exact .inr rfl
    | with_reducible first
      | intro _ | apply State.raise_kept | apply State.record_kept | apply State.wr_kept | apply Kept.ite | dsimp only
    | fail_if_no_progress with_reducible apply Kept.upd

theorem State.ctRelease_kept {s : State} (hk : Kept A P s0 s) {i : Nat}
    (hA : ∀ a ∈ ([.pend, .ecc, .ingress] : List Area), a ∈ A) (hP : ∀ p ∈ ([.pw, .rcd] : List Part), p ∈ P) :
    Kept A P s0 (State.ctRelease s i) := by
  unfold State.ctRelease
  repeat' first
    | with_reducible assumption | exact inA hA rfl | exact subA hA rfl | exact .inl (inP hP rfl) | exact subP hP rfl
    | with_reducible first
      | intro _ | apply State.ctMove_kept | apply State.wr_kept | apply State.wr64_kept | dsimp only

theorem State.syncSpares_kept {s : State} (hk : Kept A P s0 s) (hA : ∀ a ∈ ([.cpc] : List Area), a ∈ A) :
    Kept A P s0 (State.syncSpares s) := by
  unfold State.syncSpares
  repeat' first
    | with_reducible assumption | exact inA hA rfl | exact subA hA rfl
    | with_reducible first
      | intro _ | apply State.wr_kept | dsimp only

theorem State.takeSpare_kept {s : State} (hk : Kept A P s0 s) {memid row devs : Nat} {werr : Bool}
    (hA : ∀ a ∈ ([.pend, .cpc, .ingress] : List Area), a ∈ A)
    (hP : ∀ p ∈ ([.pw, .rcd, .cop, .ecc] : List Part), p ∈ P) :
    Kept A P s0 (State.takeSpare s memid row devs werr).2 := by
  unfold State.takeSpare
  repeat' first
    | with_reducible assumption | exact inA hA rfl | exact subA hA rfl | exact .inl (inP hP rfl) | exact subP hP rfl
    | with_reducible exact rfl | exact .inr rfl
    | with_reducible first
      | intro _ | apply State.logRepair_kept | apply State.poolFall_kept | apply State.raise_kept
      | apply State.setErr_kept | apply State.syncSpares_kept | apply State.wr_kept | apply Kept.ite | split
      | dsimp only
    | fail_if_no_progress with_reducible apply Kept.upd

theorem State.remapNow_kept {s : State} (hk : Kept A P s0 s) {i memid row devs : Nat} {werr : Bool}
    (hA : ∀ a ∈ ([.pend, .ecc, .cpc, .ingress] : List Area), a ∈ A)
    (hP : ∀ p ∈ ([.pw, .rcd, .cop, .ecc] : List Part), p ∈ P) :
    Kept A P s0 (State.remapNow s i memid row devs werr) := by
  unfold State.remapNow
  repeat' first
    | with_reducible assumption | exact inA hA rfl | exact subA hA rfl | exact .inl (inP hP rfl) | exact subP hP rfl
    | with_reducible exact rfl | exact .inr rfl
    | with_reducible first
      | intro _ | apply State.ctMove_kept | apply State.raise_kept | apply State.record_kept
      | apply State.takeSpare_kept | apply State.wr_kept | refine Kept.snd ?_ (by assumption)
      | refine Kept.fst ?_ (by assumption) | split | split | dsimp only
    | fail_if_no_progress with_reducible apply Kept.upd

theorem State.remap_kept {s : State} (hk : Kept A P s0 s) {i memid row devs : Nat} {werr : Bool}
    (hA : ∀ a ∈ ([.pend, .ecc, .cpc, .ingress] : List Area), a ∈ A)
    (hP : ∀ p ∈ ([.pw, .rcd, .cop, .ecc] : List Part), p ∈ P) :
    Kept A P s0 (State.remap s i memid row devs werr) := by
  unfold State.remap
  repeat' first
    | with_reducible assumption | exact inA hA rfl | exact subA hA rfl | exact .inl (inP hP rfl) | exact subP hP rfl
    | with_reducible exact rfl | exact .inr rfl
    | with_reducible first
      | intro _ | apply State.remapNow_kept | apply Kept.ite | dsimp only
    | fail_if_no_progress with_reducible apply Kept.upd

theorem State.remapsDue_kept {s : State} (hk : Kept A P s0 s) {werr : Bool}
    (hA : ∀ a ∈ ([.pend, .ecc, .cpc, .ingress] : List Area), a ∈ A)
    (hP : ∀ p ∈ ([.pw, .rcd, .cop, .ecc] : List Part), p ∈ P) :
    Kept A P s0 (State.remapsDue s werr) := by
  unfold State.remapsDue
  repeat' first
    | with_reducible assumption | exact inA hA rfl | exact subA hA rfl | exact .inl (inP hP rfl) | exact subP hP rfl
    | with_reducible exact rfl | exact .inr rfl
    | with_reducible first
      | intro _ | apply State.remapNow_kept | apply Kept.ite | apply Kept.foldl | split | dsimp only
    | fail_if_no_progress with_reducible apply Kept.upd

theorem State.corrected_kept {s : State}
    (hk : Kept A P s0 s) {memid row : Nat} {es : List (Nat × Nat)} {hard werr : Bool}
    (hA : ∀ a ∈ ([.pend, .ecc, .cpc, .ingress] : List Area), a ∈ A)
    (hP : ∀ p ∈ ([.pw, .rcd, .cop, .ecc] : List Part), p ∈ P) :
    Kept A P s0 (State.corrected s memid row es hard werr) := by
  unfold State.corrected
  repeat' first
    | with_reducible assumption | exact inA hA rfl | exact subA hA rfl | exact .inl (inP hP rfl) | exact subP hP rfl
    | with_reducible exact rfl | exact .inr rfl
    | with_reducible first
      | intro _ | apply State.bump_kept | apply State.ctMove_kept | apply State.remap_kept | apply State.wr_kept
      | apply State.wr64_kept | apply Kept.ite | split | dsimp only
    | fail_if_no_progress with_reducible apply Kept.upd

theorem State.rowWritten_kept {s : State} (hk : Kept A P s0 s) {memid row : Nat}
    (hA : ∀ a ∈ ([.pend, .ecc, .ingress] : List Area), a ∈ A) (hP : ∀ p ∈ ([.pw, .rcd] : List Part), p ∈ P) :
    Kept A P s0 (State.rowWritten s memid row) := by
  unfold State.rowWritten
  repeat' first
    | with_reducible assumption | exact inA hA rfl | exact subA hA rfl | exact .inl (inP hP rfl) | exact subP hP rfl
    | with_reducible exact rfl | exact .inr rfl
    | with_reducible first
      | intro _ | apply State.ctRelease_kept | apply Kept.ite | split | dsimp only
    | fail_if_no_progress with_reducible apply Kept.upd

theorem State.tstReport_kept {s : State} (hk : Kept A P s0 s) {r : EccResult} {es : List (Nat × Nat)}
    (hA : ∀ a ∈ ([.ecc] : List Area), a ∈ A) :
    Kept A P s0 (State.tstReport s r es) := by
  unfold State.tstReport
  repeat' first
    | with_reducible assumption | exact inA hA rfl | exact subA hA rfl
    | with_reducible first
      | intro _ | apply State.wr_kept | apply Kept.foldl | dsimp only

theorem State.uncorrectable_kept {s : State}
    (hk : Kept A P s0 s) {memid row : Nat} {r : EccResult} {master cause : Nat}
    (hA : ∀ a ∈ ([.pend, .ecc, .ingress] : List Area), a ∈ A) (hP : ∀ p ∈ ([.pw, .rcd] : List Part), p ∈ P) :
    Kept A P s0 (State.uncorrectable s memid row r master cause) := by
  unfold State.uncorrectable
  repeat' first
    | with_reducible assumption | exact inA hA rfl | exact subA hA rfl | exact .inl (inP hP rfl) | exact subP hP rfl
    | with_reducible exact rfl | exact .inr rfl
    | with_reducible first
      | intro _ | apply State.bump_kept | apply State.raise_kept | apply State.record_kept | apply State.wr_kept
      | apply State.wr64_kept | apply Kept.ite | dsimp only
    | fail_if_no_progress with_reducible apply Kept.upd

theorem State.arrDrop_kept {s : State} (hk : Kept A P s0 s) {lo hi : Nat} (hP : ∀ p ∈ ([.ecc] : List Part), p ∈ P) :
    Kept A P s0 (State.arrDrop s lo hi) := by
  unfold State.arrDrop
  repeat' first
    | with_reducible assumption | exact .inl (inP hP rfl) | exact subP hP rfl | with_reducible exact rfl
    | exact .inr rfl
    | with_reducible first
      | intro _ | dsimp only
    | fail_if_no_progress with_reducible apply Kept.upd

theorem State.readRow_kept {s : State}
    (hk : Kept A P s0 s) {memid row upset : Nat} {verify dirty : Bool} {master cause : Nat} {werr : Bool}
    (hA : ∀ a ∈ ([.pend, .ecc, .cpc, .ingress] : List Area), a ∈ A)
    (hP : ∀ p ∈ ([.mem, .leMem, .pw, .rcd, .cop, .ecc] : List Part), p ∈ P) :
    Kept A P s0 (State.readRow s memid row upset verify dirty master cause werr).2 := by
  unfold State.readRow
  repeat' first
    | with_reducible assumption | exact inA hA rfl | exact subA hA rfl | exact .inl (inP hP rfl) | exact subP hP rfl
    | with_reducible exact rfl | exact .inr rfl
    | with_reducible first
      | intro _ | apply State.absorb_kept | apply State.arrDrop_kept | apply State.corrected_kept
      | apply State.setErr_kept | apply State.tstReport_kept | apply State.uncorrectable_kept | apply Kept.ite | split
      | split | dsimp only
    | fail_if_no_progress with_reducible apply Kept.upd

theorem State.seeRows_kept {s : State} (hk : Kept A P s0 s) {master cause : Nat} {l : List (Nat × Nat)}
    (hA : ∀ a ∈ ([.pend, .ecc, .cpc, .ingress] : List Area), a ∈ A)
    (hP : ∀ p ∈ ([.mem, .leMem, .pw, .rcd, .cop, .ecc] : List Part), p ∈ P) :
    Kept A P s0 (State.seeRows s master cause l).2 := by
  induction l generalizing s with
  | nil => exact hk
  | cons x rs ih =>
    unfold State.seeRows
    split
    · exact ih hk
    · dsimp only
      split
      · exact State.readRow_kept hk (subA hA rfl) (subP hP rfl)
      · exact ih (State.readRow_kept hk (subA hA rfl) (subP hP rfl))

theorem State.seeRange_kept {s : State} (hk : Kept A P s0 s) {master cause a n : Nat}
    (hA : ∀ a ∈ ([.pend, .ecc, .cpc, .ingress] : List Area), a ∈ A)
    (hP : ∀ p ∈ ([.mem, .leMem, .pw, .rcd, .cop, .ecc] : List Part), p ∈ P) :
    Kept A P s0 (State.seeRange s master cause a n).2 := by
  unfold State.seeRange
  repeat' first
    | with_reducible assumption | exact inA hA rfl | exact subA hA rfl | exact .inl (inP hP rfl) | exact subP hP rfl
    | with_reducible first
      | intro _ | apply State.seeRows_kept | refine Kept.snd ?_ (by assumption) | refine Kept.fst ?_ (by assumption)
      | split | dsimp only

theorem State.rowsWritten_kept {s : State} (hk : Kept A P s0 s) {memid lo n : Nat}
    (hA : ∀ a ∈ ([.pend, .ecc, .ingress] : List Area), a ∈ A) (hP : ∀ p ∈ ([.pw, .rcd, .ecc] : List Part), p ∈ P) :
    Kept A P s0 (State.rowsWritten s memid lo n) := by
  unfold State.rowsWritten
  repeat' first
    | with_reducible assumption | exact inA hA rfl | exact subA hA rfl | exact .inl (inP hP rfl) | exact subP hP rfl
    | with_reducible exact rfl | exact .inr rfl
    | with_reducible first
      | intro _ | apply State.arrDrop_kept | apply State.ctRelease_kept | apply Kept.ite | apply Kept.foldl
      | dsimp only
    | fail_if_no_progress with_reducible apply Kept.upd

theorem State.writeRow_kept {s : State} (hk : Kept A P s0 s) {memid row : Nat} {bs : List Byte} {poison : Bool}
    (hA : ∀ a ∈ ([.pend, .ecc, .ingress] : List Area), a ∈ A)
    (hP : ∀ p ∈ ([.mem, .leMem, .pw, .rcd, .ecc] : List Part), p ∈ P) :
    Kept A P s0 (State.writeRow s memid row bs poison) := by
  unfold State.writeRow
  repeat' first
    | with_reducible assumption | exact inA hA rfl | exact subA hA rfl | exact .inl (inP hP rfl) | exact subP hP rfl
    | with_reducible first
      | intro _ | apply State.putRow_kept | apply State.rowWritten_kept | apply State.setErr_kept | apply Kept.ite
      | dsimp only

theorem State.setLap_kept {s : State} (hk : Kept A P s0 s) {m : Nat} {l : Option Lap}
    (hP : ∀ p ∈ ([.ecc] : List Part), p ∈ P) :
    Kept A P s0 (State.setLap s m l) := by
  unfold State.setLap
  repeat' first
    | with_reducible assumption | exact .inl (inP hP rfl) | exact subP hP rfl | with_reducible exact rfl
    | exact .inr rfl
    | with_reducible first
      | intro _ | split | dsimp only
    | fail_if_no_progress with_reducible apply Kept.upd

theorem State.lapStart_kept {s : State} (hk : Kept A P s0 s) {m : Nat} (hA : ∀ a ∈ ([.ecc] : List Area), a ∈ A)
    (hP : ∀ p ∈ ([.ecc] : List Part), p ∈ P) :
    Kept A P s0 (State.lapStart s m) := by
  unfold State.lapStart
  repeat' first
    | with_reducible assumption | exact inA hA rfl | exact subA hA rfl | exact .inl (inP hP rfl) | exact subP hP rfl
    | with_reducible exact rfl | exact .inr rfl
    | with_reducible first
      | intro _ | apply State.setLap_kept | apply State.wr_kept | apply Kept.ite | apply Kept.foldl | dsimp only
    | fail_if_no_progress with_reducible apply Kept.upd

theorem State.lapAlarm_kept {s : State} (hk : Kept A P s0 s) {m : Nat}
    (hA : ∀ a ∈ ([.pend, .ecc, .ingress] : List Area), a ∈ A) (hP : ∀ p ∈ ([.pw, .rcd, .ecc] : List Part), p ∈ P) :
    Kept A P s0 (State.lapAlarm s m) := by
  unfold State.lapAlarm
  repeat' first
    | with_reducible assumption | exact inA hA rfl | exact subA hA rfl | exact .inl (inP hP rfl) | exact subP hP rfl
    | with_reducible exact rfl | exact .inr rfl
    | with_reducible first
      | intro _ | apply State.raise_kept | apply State.record_kept | apply State.setLap_kept | apply State.wr_kept
      | apply Kept.ite | split | dsimp only
    | fail_if_no_progress with_reducible apply Kept.upd

theorem State.lapEnd_kept {s : State} (hk : Kept A P s0 s) {m : Nat}
    (hA : ∀ a ∈ ([.pend, .ecc, .ingress] : List Area), a ∈ A) (hP : ∀ p ∈ ([.pw, .rcd, .ecc] : List Part), p ∈ P) :
    Kept A P s0 (State.lapEnd s m) := by
  unfold State.lapEnd
  repeat' first
    | with_reducible assumption | exact inA hA rfl | exact subA hA rfl | exact .inl (inP hP rfl) | exact subP hP rfl
    | with_reducible exact rfl | exact .inr rfl
    | with_reducible first
      | intro _ | apply State.ctRelease_kept | apply State.lapAlarm_kept | apply State.lapStart_kept
      | apply State.maxWr_kept | apply State.tick_kept | apply State.wr_kept | apply Kept.ite | apply Kept.foldl
      | split | dsimp only
    | fail_if_no_progress with_reducible apply Kept.upd

theorem State.scrubRow_kept {s : State} (hk : Kept A P s0 s) {m row upset : Nat} {verify dirty werr : Bool}
    (hA : ∀ a ∈ ([.pend, .ecc, .cpc, .ingress] : List Area), a ∈ A)
    (hP : ∀ p ∈ ([.mem, .leMem, .pw, .rcd, .cop, .ecc] : List Part), p ∈ P) :
    Kept A P s0 (State.scrubRow s m row upset verify dirty werr) := by
  unfold State.scrubRow
  repeat' first
    | with_reducible assumption | exact inA hA rfl | exact subA hA rfl | exact .inl (inP hP rfl) | exact subP hP rfl
    | with_reducible exact rfl | exact .inr rfl
    | with_reducible first
      | intro _ | apply State.lapStart_kept | apply State.readRow_kept | apply State.setLap_kept | apply Kept.ite
      | refine Kept.snd ?_ (by assumption) | refine Kept.fst ?_ (by assumption) | split | split | dsimp only
    | fail_if_no_progress with_reducible apply Kept.upd

theorem execScrubRead_kept {s : State}
    (hk : Kept A P s0 s) {m : Fin 6} {row : Nat} {upset : BitVec 352} {verify dirty last werr : Bool} {t : Nat}
    (hA : ∀ a ∈ ([.pend, .ecc, .cpc, .ingress] : List Area), a ∈ A)
    (hP : ∀ p ∈ ([.now, .mem, .leMem, .resp, .out, .pw, .rcd, .cop, .ecc] : List Part), p ∈ P) :
    KeptOut A P s0 (execScrubRead m row upset verify dirty last werr t s) := by
  unfold execScrubRead
  repeat' first
    | with_reducible assumption | exact inA hA rfl | exact subA hA rfl | exact .inl (inP hP rfl) | exact subP hP rfl
    | with_reducible first
      | intro _ | apply KeptOut.next | apply State.begin_kept | apply State.lapEnd_kept | apply State.scrubRow_kept
      | apply Kept.ite | apply KeptOut.ite | dsimp only

theorem execScrubLapLimit_kept {s : State} (hk : Kept A P s0 s) {m : Fin 6} {t : Nat}
    (hA : ∀ a ∈ ([.pend, .ecc, .ingress] : List Area), a ∈ A)
    (hP : ∀ p ∈ ([.now, .resp, .out, .pw, .rcd, .ecc] : List Part), p ∈ P) :
    KeptOut A P s0 (execScrubLapLimit m t s) := by
  unfold execScrubLapLimit
  repeat' first
    | with_reducible assumption | exact inA hA rfl | exact subA hA rfl | exact .inl (inP hP rfl) | exact subP hP rfl
    | with_reducible first
      | intro _ | apply KeptOut.next | apply State.begin_kept | apply State.lapAlarm_kept | dsimp only

theorem State.fillFail_kept {s : State} (hk : Kept A P s0 s) {err : Nat}
    (hA : ∀ a ∈ ([.pend, .ecc] : List Area), a ∈ A) :
    Kept A P s0 (State.fillFail s err) := by
  unfold State.fillFail
  repeat' first
    | with_reducible assumption | exact inA hA rfl | exact subA hA rfl
    | with_reducible first
      | intro _ | apply State.raise_kept | apply State.wr_kept | dsimp only

theorem State.fillStart_kept {s : State} (hk : Kept A P s0 s) (hA : ∀ a ∈ ([.pend, .ecc] : List Area), a ∈ A)
    (hP : ∀ p ∈ ([.ecc] : List Part), p ∈ P) :
    Kept A P s0 (State.fillStart s) := by
  unfold State.fillStart
  repeat' first
    | with_reducible assumption | exact inA hA rfl | exact subA hA rfl | exact .inl (inP hP rfl) | exact subP hP rfl
    | with_reducible exact rfl | exact .inr rfl
    | with_reducible first
      | intro _ | apply State.fillFail_kept | apply State.wr_kept | apply Kept.ite | dsimp only
    | fail_if_no_progress with_reducible apply Kept.upd

theorem execFillStart_kept {s : State} (hk : Kept A P s0 s) {t : Nat}
    (hA : ∀ a ∈ ([.pend, .ecc] : List Area), a ∈ A) (hP : ∀ p ∈ ([.now, .resp, .out, .ecc] : List Part), p ∈ P) :
    KeptOut A P s0 (execFillStart t s) := by
  unfold execFillStart
  repeat' first
    | with_reducible assumption | exact inA hA rfl | exact subA hA rfl | exact .inl (inP hP rfl) | exact subP hP rfl
    | with_reducible first
      | intro _ | apply KeptOut.next | apply State.begin_kept | apply State.fillStart_kept | apply Kept.ite
      | apply KeptOut.ite | dsimp only

theorem State.fillRows_kept {s : State} (hk : Kept A P s0 s) {f : FillRun} {n : Nat}
    (hA : ∀ a ∈ ([.pend, .ecc, .cvu, .ingress] : List Area), a ∈ A)
    (hP : ∀ p ∈ ([.mem, .leMem, .pw, .rcd, .ecc, .cvu] : List Part), p ∈ P) :
    Kept A P s0 (State.fillRows s f n) := by
  induction n generalizing s with
  | zero => exact hk
  | succ n ih =>
    unfold State.fillRows
    repeat' first
    | with_reducible assumption
    | exact inA hA rfl | exact subA hA rfl | exact .inl (inP hP rfl) | exact subP hP rfl | with_reducible exact rfl
    | exact .inr rfl
    | with_reducible intro _
    | with_reducible apply State.writeRow_kept
    | with_reducible apply State.unitWrite_kept
    | with_reducible apply ih
    | with_reducible split

theorem State.fillAbort_kept {s : State} (hk : Kept A P s0 s) {rows : Nat}
    (hA : ∀ a ∈ ([.pend, .ecc, .cvu, .ingress] : List Area), a ∈ A)
    (hP : ∀ p ∈ ([.mem, .leMem, .pw, .rcd, .ecc, .cvu] : List Part), p ∈ P) :
    Kept A P s0 (State.fillAbort s rows) := by
  unfold State.fillAbort
  repeat' first
    | with_reducible assumption | exact inA hA rfl | exact subA hA rfl | exact .inl (inP hP rfl) | exact subP hP rfl
    | with_reducible exact rfl | exact .inr rfl
    | with_reducible first
      | intro _ | apply State.fillFail_kept | apply State.fillRows_kept | apply State.wr_kept | split | dsimp only
    | fail_if_no_progress with_reducible apply Kept.upd

theorem execFillAbort_kept {s : State} (hk : Kept A P s0 s) {rows t : Nat}
    (hA : ∀ a ∈ ([.pend, .ecc, .cvu, .ingress] : List Area), a ∈ A)
    (hP : ∀ p ∈ ([.now, .mem, .leMem, .resp, .out, .pw, .rcd, .ecc, .cvu] : List Part), p ∈ P) :
    KeptOut A P s0 (execFillAbort rows t s) := by
  unfold execFillAbort
  repeat' first
    | with_reducible assumption | exact inA hA rfl | exact subA hA rfl | exact .inl (inP hP rfl) | exact subP hP rfl
    | with_reducible first
      | intro _ | apply KeptOut.next | apply State.begin_kept | apply State.fillAbort_kept | dsimp only

theorem State.fillDone_kept {s : State} (hk : Kept A P s0 s)
    (hA : ∀ a ∈ ([.pend, .ecc, .cvu, .ingress] : List Area), a ∈ A)
    (hP : ∀ p ∈ ([.mem, .leMem, .pw, .rcd, .ecc, .cvu] : List Part), p ∈ P) :
    Kept A P s0 (State.fillDone s) := by
  unfold State.fillDone
  repeat' first
    | with_reducible assumption | exact inA hA rfl | exact subA hA rfl | exact .inl (inP hP rfl) | exact subP hP rfl
    | with_reducible exact rfl | exact .inr rfl
    | with_reducible first
      | intro _ | apply State.fillRows_kept | apply State.raise_kept | apply State.wr_kept | split | dsimp only
    | fail_if_no_progress with_reducible apply Kept.upd

theorem execFillDone_kept {s : State} (hk : Kept A P s0 s) {t : Nat}
    (hA : ∀ a ∈ ([.pend, .ecc, .cvu, .ingress] : List Area), a ∈ A)
    (hP : ∀ p ∈ ([.now, .mem, .leMem, .resp, .out, .pw, .rcd, .ecc, .cvu] : List Part), p ∈ P) :
    KeptOut A P s0 (execFillDone t s) := by
  unfold execFillDone
  repeat' first
    | with_reducible assumption | exact inA hA rfl | exact subA hA rfl | exact .inl (inP hP rfl) | exact subP hP rfl
    | with_reducible first
      | intro _ | apply KeptOut.next | apply State.begin_kept | apply State.fillDone_kept | dsimp only

theorem State.setTstData_kept {s : State} (hk : Kept A P s0 s) {bs : List Byte}
    (hA : ∀ a ∈ ([.ecc] : List Area), a ∈ A) :
    Kept A P s0 (State.setTstData s bs) := by
  unfold State.setTstData
  repeat' first
    | with_reducible assumption | exact inA hA rfl | exact subA hA rfl
    | with_reducible first
      | intro _ | apply State.wr_kept | apply Kept.foldl | dsimp only

theorem State.setTstChk_kept {s : State} (hk : Kept A P s0 s) {bs : List Byte}
    (hA : ∀ a ∈ ([.ecc] : List Area), a ∈ A) :
    Kept A P s0 (State.setTstChk s bs) := by
  unfold State.setTstChk
  repeat' first
    | with_reducible assumption | exact inA hA rfl | exact subA hA rfl
    | with_reducible first
      | intro _ | apply State.wr_kept | dsimp only

theorem State.tstOp_kept {s : State} (hk : Kept A P s0 s) {op : Nat} {upset : Nat}
    (hA : ∀ a ∈ ([.pend, .ecc] : List Area), a ∈ A) (hP : ∀ p ∈ ([.mem, .leMem, .ecc] : List Part), p ∈ P) :
    Kept A P s0 (State.tstOp s op upset) := by
  unfold State.tstOp
  repeat' first
    | with_reducible assumption | exact inA hA rfl | exact subA hA rfl | exact .inl (inP hP rfl) | exact subP hP rfl
    | with_reducible exact rfl | exact .inr rfl
    | with_reducible first
      | intro _ | apply State.putRow_kept | apply State.raise_kept | apply State.setErr_kept
      | apply State.setTstChk_kept | apply State.setTstData_kept | apply State.tstReport_kept | apply State.wr_kept
      | apply Kept.ite | split | dsimp only
    | fail_if_no_progress with_reducible apply Kept.upd

theorem execWriteRaw_kept {s : State} (hk : Kept A P s0 s) {t : Nat}
    (hA : ∀ a ∈ ([.pend, .ecc] : List Area), a ∈ A)
    (hP : ∀ p ∈ ([.now, .mem, .leMem, .resp, .out, .ecc] : List Part), p ∈ P) :
    KeptOut A P s0 (execWriteRaw t s) := by
  unfold execWriteRaw
  repeat' first
    | with_reducible assumption | exact inA hA rfl | exact subA hA rfl | exact .inl (inP hP rfl) | exact subP hP rfl
    | with_reducible first
      | intro _ | apply KeptOut.next | apply State.begin_kept | apply State.tstOp_kept | apply Kept.ite
      | apply KeptOut.ite | dsimp only

theorem execReadRaw_kept {s : State} (hk : Kept A P s0 s) {upset : BitVec 320} {t : Nat}
    (hA : ∀ a ∈ ([.pend, .ecc] : List Area), a ∈ A)
    (hP : ∀ p ∈ ([.now, .mem, .leMem, .resp, .out, .ecc] : List Part), p ∈ P) :
    KeptOut A P s0 (execReadRaw upset t s) := by
  unfold execReadRaw
  repeat' first
    | with_reducible assumption | exact inA hA rfl | exact subA hA rfl | exact .inl (inP hP rfl) | exact subP hP rfl
    | with_reducible first
      | intro _ | apply KeptOut.next | apply State.begin_kept | apply State.tstOp_kept | apply Kept.ite
      | apply KeptOut.ite | dsimp only

theorem execEncodeRow_kept {s : State} (hk : Kept A P s0 s) {t : Nat}
    (hA : ∀ a ∈ ([.pend, .ecc] : List Area), a ∈ A)
    (hP : ∀ p ∈ ([.now, .mem, .leMem, .resp, .out, .ecc] : List Part), p ∈ P) :
    KeptOut A P s0 (execEncodeRow t s) := by
  unfold execEncodeRow
  repeat' first
    | with_reducible assumption | exact inA hA rfl | exact subA hA rfl | exact .inl (inP hP rfl) | exact subP hP rfl
    | with_reducible first
      | intro _ | apply KeptOut.next | apply State.begin_kept | apply State.tstOp_kept | apply Kept.ite
      | apply KeptOut.ite | dsimp only

theorem execCheckRow_kept {s : State} (hk : Kept A P s0 s) {upset : BitVec 320} {t : Nat}
    (hA : ∀ a ∈ ([.pend, .ecc] : List Area), a ∈ A)
    (hP : ∀ p ∈ ([.now, .mem, .leMem, .resp, .out, .ecc] : List Part), p ∈ P) :
    KeptOut A P s0 (execCheckRow upset t s) := by
  unfold execCheckRow
  repeat' first
    | with_reducible assumption | exact inA hA rfl | exact subA hA rfl | exact .inl (inP hP rfl) | exact subP hP rfl
    | with_reducible first
      | intro _ | apply KeptOut.next | apply State.begin_kept | apply State.tstOp_kept | apply Kept.ite
      | apply KeptOut.ite | dsimp only

theorem State.fillCut_kept {s : State} (hk : Kept A P s0 s)
    (hA : ∀ a ∈ ([.pend, .ecc, .cvu, .ingress] : List Area), a ∈ A)
    (hP : ∀ p ∈ ([.mem, .leMem, .fresh, .pw, .rcd, .ecc, .cvu] : List Part), p ∈ P) :
    Kept A P s0 (State.fillCut s) := by
  unfold State.fillCut
  repeat' first
    | with_reducible assumption | exact inA hA rfl | exact subA hA rfl | exact .inl (inP hP rfl) | exact subP hP rfl
    | with_reducible exact rfl | exact .inr rfl
    | with_reducible first
      | intro _ | apply State.fillRows_kept | apply State.free_kept | apply State.wr_kept
      | refine Kept.snd ?_ (by assumption) | refine Kept.fst ?_ (by assumption) | split | split | dsimp only
    | fail_if_no_progress with_reducible apply Kept.upd

theorem State.fillAborted_kept {s : State} (hk : Kept A P s0 s) {was : Bool} (hA : ∀ a ∈ ([.ecc] : List Area), a ∈ A) :
    Kept A P s0 (State.fillAborted s was) := by
  unfold State.fillAborted
  repeat' first
    | with_reducible assumption | exact inA hA rfl | exact subA hA rfl
    | with_reducible first
      | intro _ | apply State.wr_kept | apply Kept.ite | dsimp only

theorem State.eccReset_kept {s : State} (hk : Kept A P s0 s)
    (hA : ∀ a ∈ ([.pend, .ecc, .cvu, .ingress] : List Area), a ∈ A)
    (hP : ∀ p ∈ ([.mem, .leMem, .fresh, .pw, .rcd, .ecc, .cvu] : List Part), p ∈ P) :
    Kept A P s0 (State.eccReset s) := by
  unfold State.eccReset
  repeat' first
    | with_reducible assumption | exact inA hA rfl | exact subA hA rfl | exact .inl (inP hP rfl) | exact subP hP rfl
    | with_reducible exact rfl | exact .inr rfl
    | with_reducible first
      | intro _ | apply State.fillCut_kept | dsimp only
    | fail_if_no_progress with_reducible apply Kept.upd

theorem State.eccStop_kept {s : State} (hk : Kept A P s0 s)
    (hA : ∀ a ∈ ([.pend, .ecc, .cvu, .ingress] : List Area), a ∈ A)
    (hP : ∀ p ∈ ([.mem, .leMem, .fresh, .pw, .rcd, .ecc, .cvu] : List Part), p ∈ P) :
    Kept A P s0 (State.eccStop s) := by
  unfold State.eccStop
  repeat' first
    | with_reducible assumption | exact inA hA rfl | exact subA hA rfl | exact .inl (inP hP rfl) | exact subP hP rfl
    | with_reducible exact rfl | exact .inr rfl
    | with_reducible first
      | intro _ | apply State.fillCut_kept | apply State.wr_kept | apply Kept.foldl | dsimp only
    | fail_if_no_progress with_reducible apply Kept.upd

theorem State.dramSleep_kept {s : State} (hk : Kept A P s0 s) (hP : ∀ p ∈ ([.ecc] : List Part), p ∈ P) :
    Kept A P s0 (State.dramSleep s) := by
  unfold State.dramSleep
  repeat' first
    | with_reducible assumption | exact .inl (inP hP rfl) | exact subP hP rfl | with_reducible exact rfl
    | exact .inr rfl
    | with_reducible first
      | intro _ | dsimp only
    | fail_if_no_progress with_reducible apply Kept.upd

theorem State.dramWake_kept {s : State} (hk : Kept A P s0 s) (hP : ∀ p ∈ ([.ecc] : List Part), p ∈ P) :
    Kept A P s0 (State.dramWake s) := by
  unfold State.dramWake
  repeat' first
    | with_reducible assumption | exact .inl (inP hP rfl) | exact subP hP rfl | with_reducible exact rfl
    | exact .inr rfl
    | with_reducible first
      | intro _ | apply State.setLap_kept | split | dsimp only
    | fail_if_no_progress with_reducible apply Kept.upd

/-! ### Machine/MemBase.lean -/

theorem State.store_kept {s : State} (hk : Kept A P s0 s) {a : Nat} {bs : List Byte}
    (hA : ∀ a ∈ ([.pend, .ecc, .cvu, .ingress] : List Area), a ∈ A)
    (hP : ∀ p ∈ ([.mem, .pw, .rcd, .ecc, .cvu] : List Part), p ∈ P) :
    Kept A P s0 (State.store s a bs) := by
  unfold State.store
  repeat' first
    | with_reducible assumption | exact inA hA rfl | exact subA hA rfl | exact .inl (inP hP rfl) | exact subP hP rfl
    | with_reducible first
      | intro _ | apply State.putBytes_kept | apply State.rowWritten_kept | apply State.setErr_kept
      | apply State.unitWrite_kept | apply Kept.foldl | dsimp only

theorem State.masterStore_kept {s : State} (hk : Kept A P s0 s) {a : Nat} {bs : List Byte}
    (hA : ∀ a ∈ ([.pend, .ecc, .cvu, .ingress] : List Area), a ∈ A)
    (hP : ∀ p ∈ ([.mem, .pw, .rcd, .ecc, .cvu] : List Part), p ∈ P) :
    Kept A P s0 (State.masterStore s a bs) := by
  unfold State.masterStore
  repeat' first
    | with_reducible assumption | exact inA hA rfl | exact subA hA rfl | exact .inl (inP hP rfl) | exact subP hP rfl
    | with_reducible first
      | intro _ | apply State.store_kept | apply Kept.ite | dsimp only

theorem State.checkpoint_kept {s : State} (hk : Kept A P s0 s) {k : Nat}
    (hA : ∀ a ∈ ([.pend, .ecc, .cvu, .ingress] : List Area), a ∈ A)
    (hP : ∀ p ∈ ([.mem, .fresh, .pw, .rcd, .ecc, .cvu] : List Part), p ∈ P) :
    Kept A P s0 (State.checkpoint s k) := by
  unfold State.checkpoint
  repeat' first
    | with_reducible assumption | exact inA hA rfl | exact subA hA rfl | exact .inl (inP hP rfl) | exact subP hP rfl
    | with_reducible exact rfl | exact .inr rfl
    | with_reducible first
      | intro _ | apply State.masterStore_kept | dsimp only
    | fail_if_no_progress with_reducible apply Kept.upd

theorem State.settleRows_kept {s : State} (hk : Kept A P s0 s) {rs : List (Nat × Nat)}
    (hP : ∀ p ∈ ([.mem, .leMem, .ecc] : List Part), p ∈ P) :
    Kept A P s0 (State.settleRows s rs) := by
  unfold State.settleRows
  repeat' first
    | with_reducible assumption | exact .inl (inP hP rfl) | exact subP hP rfl
    | with_reducible first
      | intro _ | apply State.absorb_kept | apply State.setErr_kept | apply Kept.ite | apply Kept.foldl | dsimp only

theorem State.mergeStore_kept {s : State} (hk : Kept A P s0 s) {master a : Nat} {bs : List Byte}
    (hA : ∀ a ∈ ([.pend, .ecc, .cpc, .cvu, .ingress] : List Area), a ∈ A)
    (hP : ∀ p ∈ ([.mem, .leMem, .pw, .rcd, .cop, .ecc, .cvu] : List Part), p ∈ P) :
    Kept A P s0 (State.mergeStore s master a bs).2 := by
  unfold State.mergeStore
  repeat' first
    | with_reducible assumption | exact inA hA rfl | exact subA hA rfl | exact .inl (inP hP rfl) | exact subP hP rfl
    | with_reducible first
      | intro _ | apply State.seeRows_kept | apply State.settleRows_kept | apply State.store_kept | apply Kept.ite
      | refine Kept.snd ?_ (by assumption) | refine Kept.fst ?_ (by assumption) | split | dsimp only

end Sys2Proof.Machine
end

