-- ==== Sys2Proof/Laws/KeptEngine.lean ====
section
/-!
SUPPORT. What each operation keeps (`Kept`), one lemma an operation: the instructions of the logic engines.
-/

namespace Sys2Proof.Machine

set_option linter.all false
-- one proof at a time: the package is compiled as one file, in bounded memory
set_option Elab.async false

variable {A : List Area} {P : List Part} {s0 : State}

/-! ### Machine/LogicEngine.lean -/

theorem State.putLeData_kept {s : State} (hk : Kept A P s0 s) {e off : Nat} {bs : List Byte}
    (hA : ∀ a ∈ ([.pend, .ecc, .ingress] : List Area), a ∈ A)
    (hP : ∀ p ∈ ([.leMem, .pw, .rcd, .ecc] : List Part), p ∈ P) :
    Kept A P s0 (State.putLeData s e off bs) := by
  unfold State.putLeData
  repeat' first
    | with_reducible assumption | exact inA hA rfl | exact subA hA rfl | exact .inl (inP hP rfl) | exact subP hP rfl
    | with_reducible first
      | intro _ | apply State.putLeBytes_kept | apply State.rowWritten_kept | apply State.setErr_kept
      | apply Kept.foldl | dsimp only

theorem State.publishInvalid_kept {s : State} (hk : Kept A P s0 s) {e : Nat}
    (hA : ∀ a ∈ ([.le, .iog, .chan] : List Area), a ∈ A) (hP : ∀ p ∈ ([.out, .io, .eng] : List Part), p ∈ P) :
    Kept A P s0 (State.publishInvalid s e) := by
  unfold State.publishInvalid
  repeat' first
    | with_reducible assumption | exact inA hA rfl | exact subA hA rfl | exact .inl (inP hP rfl) | exact subP hP rfl
    | with_reducible exact rfl | exact .inr rfl
    | with_reducible first
      | intro _ | apply State.applyFree_kept | apply State.setEngine_kept | apply State.wr_kept | dsimp only
    | fail_if_no_progress with_reducible apply Kept.upd

theorem State.leIdle_kept {s : State} (hk : Kept A P s0 s) {e : Nat} (hP : ∀ p ∈ ([.pmg] : List Part), p ∈ P) :
    Kept A P s0 (State.leIdle s e) := by
  unfold State.leIdle
  repeat' first
    | with_reducible assumption | exact .inl (inP hP rfl) | exact subP hP rfl | with_reducible exact rfl
    | exact .inr rfl
    | with_reducible first
      | intro _ | dsimp only
    | fail_if_no_progress with_reducible apply Kept.upd

theorem State.leFault_kept {s : State} (hk : Kept A P s0 s) {e code : Nat}
    (hA : ∀ a ∈ ([.pend, .le, .iog, .chan, .ingress] : List Area), a ∈ A)
    (hP : ∀ p ∈ ([.out, .pw, .rcd, .io, .eng, .pmg] : List Part), p ∈ P) :
    Kept A P s0 (State.leFault s e code) := by
  unfold State.leFault
  repeat' first
    | with_reducible assumption | exact inA hA rfl | exact subA hA rfl | exact .inl (inP hP rfl) | exact subP hP rfl
    | with_reducible exact rfl | exact .inr rfl
    | with_reducible first
      | intro _ | apply State.leIdle_kept | apply State.publishInvalid_kept | apply State.raise_kept
      | apply State.record_kept | apply State.setEngine_kept | apply State.settleOwner_kept | apply State.wr_kept
      | apply Kept.ite | dsimp only
    | fail_if_no_progress with_reducible apply Kept.upd

theorem State.putLeBit_kept {s : State} (hk : Kept A P s0 s) {e a : Nat} {b : Bool}
    (hA : ∀ a ∈ ([.pend, .ecc, .ingress] : List Area), a ∈ A)
    (hP : ∀ p ∈ ([.leMem, .pw, .rcd, .ecc] : List Part), p ∈ P) :
    Kept A P s0 (State.putLeBit s e a b) := by
  unfold State.putLeBit
  repeat' first
    | with_reducible assumption | exact inA hA rfl | exact subA hA rfl | exact .inl (inP hP rfl) | exact subP hP rfl
    | with_reducible first
      | intro _ | apply State.putLeData_kept | dsimp only

theorem State.storeBit_kept {s : State} (hk : Kept A P s0 s) {e mod opnd : Nat} {b : Bool}
    (hA : ∀ a ∈ ([.pend, .ecc, .ingress] : List Area), a ∈ A)
    (hP : ∀ p ∈ ([.leMem, .pw, .rcd, .ecc, .eng] : List Part), p ∈ P) :
    Kept A P s0 (State.storeBit s e mod opnd b) := by
  unfold State.storeBit
  repeat' first
    | with_reducible assumption | exact inA hA rfl | exact subA hA rfl | exact .inl (inP hP rfl) | exact subP hP rfl
    | with_reducible exact rfl | exact .inr rfl
    | with_reducible first
      | intro _ | apply State.putLeBit_kept | apply State.setEngine_kept | apply Kept.ite | dsimp only
    | fail_if_no_progress with_reducible apply Kept.upd

theorem State.leSeen_kept {s : State} (hk : Kept A P s0 s) {e : Nat} {c : Option Nat} {rs : LeRows}
    (hA : ∀ a ∈ ([.pend, .ecc, .cpc, .ingress] : List Area), a ∈ A)
    (hP : ∀ p ∈ ([.mem, .leMem, .pw, .rcd, .cop, .ecc] : List Part), p ∈ P) :
    Kept A P s0 (State.leSeen s e c rs) := by
  unfold State.leSeen
  repeat' first
    | with_reducible assumption | exact inA hA rfl | exact subA hA rfl | exact .inl (inP hP rfl) | exact subP hP rfl
    | with_reducible exact rfl | exact .inr rfl
    | with_reducible first
      | intro _ | apply State.seeRows_kept | apply Kept.ite | refine Kept.snd ?_ (by assumption)
      | refine Kept.fst ?_ (by assumption) | split | split | dsimp only
    | fail_if_no_progress with_reducible apply Kept.upd

theorem State.leRun_kept {s : State}
    (hk : Kept A P s0 s) {e : Nat} {legal : Bool} {fs : List (Bool × Nat)} {rs : LeRows}
    {go : State → State} (hg : ∀ u, Kept A P s0 u → Kept A P s0 (go u)) (hA : ∀ a ∈ ([.pend, .le, .ecc, .cpc, .iog, .chan, .ingress] : List Area), a ∈ A)
    (hP : ∀ p ∈ ([.mem, .leMem, .out, .pw, .rcd, .cop, .ecc, .io, .eng, .pmg] : List Part), p ∈ P) :
    Kept A P s0 (State.leRun s e legal fs rs go) := by
  unfold State.leRun
  repeat' first
    | with_reducible assumption
    | exact inA hA rfl | exact subA hA rfl | exact .inl (inP hP rfl) | exact subP hP rfl | with_reducible exact rfl
    | exact .inr rfl
    | with_reducible intro _
    | with_reducible apply State.leFault_kept
    | with_reducible apply State.leSeen_kept
    | with_reducible apply Kept.ite
    | with_reducible apply hg
    | with_reducible split
    | with_reducible dsimp only

theorem State.leNext_kept {s : State} (hk : Kept A P s0 s) {e : Nat} {f : Engine → Engine}
    (hP : ∀ p ∈ ([.eng] : List Part), p ∈ P) :
    Kept A P s0 (State.leNext s e f) := by
  unfold State.leNext
  repeat' first
    | with_reducible assumption | exact .inl (inP hP rfl) | exact subP hP rfl | with_reducible exact rfl
    | exact .inr rfl
    | with_reducible first
      | intro _ | apply State.setEngine_kept | dsimp only
    | fail_if_no_progress with_reducible apply Kept.upd

theorem State.sequencerNext_kept {s : State} (hk : Kept A P s0 s) (hA : ∀ a ∈ ([.unit, .le] : List Area), a ∈ A)
    (hP : ∀ p ∈ ([.pw] : List Part), p ∈ P) :
    Kept A P s0 (State.sequencerNext s) := by
  unfold State.sequencerNext
  repeat' first
    | with_reducible assumption | exact inA hA rfl | exact subA hA rfl | exact .inl (inP hP rfl) | exact subP hP rfl
    | with_reducible exact rfl | exact .inr rfl
    | with_reducible first
      | intro _ | apply State.wr_kept | apply Kept.ite | split | dsimp only
    | fail_if_no_progress with_reducible apply Kept.upd

theorem State.sequencerMismatch_kept {s : State} (hk : Kept A P s0 s) {e l : Nat}
    (hA : ∀ a ∈ ([.unit, .le] : List Area), a ∈ A) (hP : ∀ p ∈ ([.pw] : List Part), p ∈ P) :
    Kept A P s0 (State.sequencerMismatch s e l) := by
  unfold State.sequencerMismatch
  repeat' first
    | with_reducible assumption | exact inA hA rfl | exact subA hA rfl | exact .inl (inP hP rfl) | exact subP hP rfl
    | with_reducible exact rfl | exact .inr rfl
    | with_reducible first
      | intro _ | apply State.sequencerNext_kept | apply State.wr_kept | apply State.wrBit_kept | apply Kept.ite
      | dsimp only
    | fail_if_no_progress with_reducible apply Kept.upd

theorem State.leMismatch_kept {s : State} (hk : Kept A P s0 s) {e l : Nat}
    (hA : ∀ a ∈ ([.unit, .std, .pend, .le, .cpc, .iog, .chan, .ingress, .bist] : List Area), a ∈ A)
    (hP : ∀ p ∈ ([.out, .pw, .rcd, .cop, .io, .eng, .pmg] : List Part), p ∈ P) :
    Kept A P s0 (State.leMismatch s e l) := by
  unfold State.leMismatch
  repeat' first
    | with_reducible assumption | exact inA hA rfl | exact subA hA rfl | exact .inl (inP hP rfl) | exact subP hP rfl
    | with_reducible first
      | intro _ | apply State.coppiceTestLane_kept | apply State.leFault_kept | apply State.raise_kept
      | apply State.sequencerMismatch_kept | apply State.wr_kept | apply State.wrBit_kept | apply Kept.ite | split
      | dsimp only

theorem execLeLaneMismatch_kept {s : State} (hk : Kept A P s0 s) {e l : Fin 4} {t : Nat}
    (hA : ∀ a ∈ ([.unit, .std, .pend, .le, .cpc, .iog, .chan, .ingress, .bist] : List Area), a ∈ A)
    (hP : ∀ p ∈ ([.now, .resp, .out, .pw, .rcd, .cop, .io, .eng, .pmg] : List Part), p ∈ P) :
    KeptOut A P s0 (execLeLaneMismatch e l t s) := by
  unfold execLeLaneMismatch
  repeat' first
    | with_reducible assumption | exact inA hA rfl | exact subA hA rfl | exact .inl (inP hP rfl) | exact subP hP rfl
    | with_reducible first
      | intro _ | apply KeptOut.next | apply State.begin_kept | apply State.leMismatch_kept | split | dsimp only

theorem State.leVoterXy_kept {s : State} (hk : Kept A P s0 s) {e : Nat}
    (hA : ∀ a ∈ ([.unit, .pend, .le, .iog, .chan, .ingress] : List Area), a ∈ A)
    (hP : ∀ p ∈ ([.out, .pw, .rcd, .io, .eng, .pmg] : List Part), p ∈ P) :
    Kept A P s0 (State.leVoterXy s e) := by
  unfold State.leVoterXy
  repeat' first
    | with_reducible assumption | exact inA hA rfl | exact subA hA rfl | exact .inl (inP hP rfl) | exact subP hP rfl
    | with_reducible first
      | intro _ | apply State.leFault_kept | apply State.sequencerNext_kept | apply Kept.ite | dsimp only

theorem execLeVoterXyDisagree_kept {s : State} (hk : Kept A P s0 s) {e : Fin 4} {t : Nat}
    (hA : ∀ a ∈ ([.unit, .pend, .le, .iog, .chan, .ingress] : List Area), a ∈ A)
    (hP : ∀ p ∈ ([.now, .resp, .out, .pw, .rcd, .io, .eng, .pmg] : List Part), p ∈ P) :
    KeptOut A P s0 (execLeVoterXyDisagree e t s) := by
  unfold execLeVoterXyDisagree
  repeat' first
    | with_reducible assumption | exact inA hA rfl | exact subA hA rfl | exact .inl (inP hP rfl) | exact subP hP rfl
    | with_reducible first
      | intro _ | apply KeptOut.next | apply State.begin_kept | apply State.leVoterXy_kept | dsimp only

/-! ### Machine/LeBit.lean -/

theorem State.leBitOp_kept {s : State} (hk : Kept A P s0 s) {e op mod x opnd : Nat} {f : Bool → Bool → Bool}
    (hA : ∀ a ∈ ([.pend, .le, .ecc, .cpc, .iog, .chan, .ingress] : List Area), a ∈ A)
    (hP : ∀ p ∈ ([.mem, .leMem, .out, .pw, .rcd, .cop, .ecc, .io, .eng, .pmg] : List Part), p ∈ P) :
    Kept A P s0 (State.leBitOp s e op mod x opnd f) := by
  unfold State.leBitOp
  repeat' first
    | with_reducible assumption | exact inA hA rfl | exact subA hA rfl | exact .inl (inP hP rfl) | exact subP hP rfl
    | with_reducible exact rfl | exact .inr rfl
    | with_reducible first
      | intro _ | apply State.leNext_kept | apply State.leRun_kept | dsimp only
    | fail_if_no_progress with_reducible apply Kept.upd

theorem State.leBitStore_kept {s : State} (hk : Kept A P s0 s) {e op mod x opnd : Nat} {v : Bool → Option Bool}
    (hA : ∀ a ∈ ([.pend, .le, .ecc, .cpc, .iog, .chan, .ingress] : List Area), a ∈ A)
    (hP : ∀ p ∈ ([.mem, .leMem, .out, .pw, .rcd, .cop, .ecc, .io, .eng, .pmg] : List Part), p ∈ P) :
    Kept A P s0 (State.leBitStore s e op mod x opnd v) := by
  unfold State.leBitStore
  repeat' first
    | with_reducible assumption | exact inA hA rfl | exact subA hA rfl | exact .inl (inP hP rfl) | exact subP hP rfl
    | with_reducible exact rfl | exact .inr rfl
    | with_reducible first
      | intro _ | apply State.leNext_kept | apply State.leRun_kept | apply State.storeBit_kept | split | dsimp only
    | fail_if_no_progress with_reducible apply Kept.upd

theorem execLeLd_kept {s : State} (hk : Kept A P s0 s) {e : Fin 4} {mod : Fin 4} {x : Fin 16} {opnd : Fin 1048576}
    (hA : ∀ a ∈ ([.pend, .le, .ecc, .cpc, .iog, .chan, .ingress] : List Area), a ∈ A)
    (hP : ∀ p ∈ ([.mem, .leMem, .resp, .out, .pw, .rcd, .cop, .ecc, .io, .eng, .pmg] : List Part), p ∈ P) :
    KeptOut A P s0 (execLeLd e mod x opnd s) := by
  unfold execLeLd
  repeat' first
    | with_reducible assumption | exact inA hA rfl | exact subA hA rfl | exact .inl (inP hP rfl) | exact subP hP rfl
    | with_reducible first
      | intro _ | apply KeptOut.next | apply State.fresh0_kept | apply State.leBitOp_kept | dsimp only

theorem execLeLdn_kept {s : State} (hk : Kept A P s0 s) {e : Fin 4} {mod : Fin 4} {x : Fin 16} {opnd : Fin 1048576}
    (hA : ∀ a ∈ ([.pend, .le, .ecc, .cpc, .iog, .chan, .ingress] : List Area), a ∈ A)
    (hP : ∀ p ∈ ([.mem, .leMem, .resp, .out, .pw, .rcd, .cop, .ecc, .io, .eng, .pmg] : List Part), p ∈ P) :
    KeptOut A P s0 (execLeLdn e mod x opnd s) := by
  unfold execLeLdn
  repeat' first
    | with_reducible assumption | exact inA hA rfl | exact subA hA rfl | exact .inl (inP hP rfl) | exact subP hP rfl
    | with_reducible first
      | intro _ | apply KeptOut.next | apply State.fresh0_kept | apply State.leBitOp_kept | dsimp only

theorem execLeAnd_kept {s : State} (hk : Kept A P s0 s) {e : Fin 4} {mod : Fin 4} {x : Fin 16} {opnd : Fin 1048576}
    (hA : ∀ a ∈ ([.pend, .le, .ecc, .cpc, .iog, .chan, .ingress] : List Area), a ∈ A)
    (hP : ∀ p ∈ ([.mem, .leMem, .resp, .out, .pw, .rcd, .cop, .ecc, .io, .eng, .pmg] : List Part), p ∈ P) :
    KeptOut A P s0 (execLeAnd e mod x opnd s) := by
  unfold execLeAnd
  repeat' first
    | with_reducible assumption | exact inA hA rfl | exact subA hA rfl | exact .inl (inP hP rfl) | exact subP hP rfl
    | with_reducible first
      | intro _ | apply KeptOut.next | apply State.fresh0_kept | apply State.leBitOp_kept | dsimp only

theorem execLeAndn_kept {s : State}
    (hk : Kept A P s0 s) {e : Fin 4} {mod : Fin 4} {x : Fin 16} {opnd : Fin 1048576}
    (hA : ∀ a ∈ ([.pend, .le, .ecc, .cpc, .iog, .chan, .ingress] : List Area), a ∈ A)
    (hP : ∀ p ∈ ([.mem, .leMem, .resp, .out, .pw, .rcd, .cop, .ecc, .io, .eng, .pmg] : List Part), p ∈ P) :
    KeptOut A P s0 (execLeAndn e mod x opnd s) := by
  unfold execLeAndn
  repeat' first
    | with_reducible assumption | exact inA hA rfl | exact subA hA rfl | exact .inl (inP hP rfl) | exact subP hP rfl
    | with_reducible first
      | intro _ | apply KeptOut.next | apply State.fresh0_kept | apply State.leBitOp_kept | dsimp only

theorem execLeOr_kept {s : State} (hk : Kept A P s0 s) {e : Fin 4} {mod : Fin 4} {x : Fin 16} {opnd : Fin 1048576}
    (hA : ∀ a ∈ ([.pend, .le, .ecc, .cpc, .iog, .chan, .ingress] : List Area), a ∈ A)
    (hP : ∀ p ∈ ([.mem, .leMem, .resp, .out, .pw, .rcd, .cop, .ecc, .io, .eng, .pmg] : List Part), p ∈ P) :
    KeptOut A P s0 (execLeOr e mod x opnd s) := by
  unfold execLeOr
  repeat' first
    | with_reducible assumption | exact inA hA rfl | exact subA hA rfl | exact .inl (inP hP rfl) | exact subP hP rfl
    | with_reducible first
      | intro _ | apply KeptOut.next | apply State.fresh0_kept | apply State.leBitOp_kept | dsimp only

theorem execLeOrn_kept {s : State} (hk : Kept A P s0 s) {e : Fin 4} {mod : Fin 4} {x : Fin 16} {opnd : Fin 1048576}
    (hA : ∀ a ∈ ([.pend, .le, .ecc, .cpc, .iog, .chan, .ingress] : List Area), a ∈ A)
    (hP : ∀ p ∈ ([.mem, .leMem, .resp, .out, .pw, .rcd, .cop, .ecc, .io, .eng, .pmg] : List Part), p ∈ P) :
    KeptOut A P s0 (execLeOrn e mod x opnd s) := by
  unfold execLeOrn
  repeat' first
    | with_reducible assumption | exact inA hA rfl | exact subA hA rfl | exact .inl (inP hP rfl) | exact subP hP rfl
    | with_reducible first
      | intro _ | apply KeptOut.next | apply State.fresh0_kept | apply State.leBitOp_kept | dsimp only

theorem execLeXor_kept {s : State} (hk : Kept A P s0 s) {e : Fin 4} {mod : Fin 4} {x : Fin 16} {opnd : Fin 1048576}
    (hA : ∀ a ∈ ([.pend, .le, .ecc, .cpc, .iog, .chan, .ingress] : List Area), a ∈ A)
    (hP : ∀ p ∈ ([.mem, .leMem, .resp, .out, .pw, .rcd, .cop, .ecc, .io, .eng, .pmg] : List Part), p ∈ P) :
    KeptOut A P s0 (execLeXor e mod x opnd s) := by
  unfold execLeXor
  repeat' first
    | with_reducible assumption | exact inA hA rfl | exact subA hA rfl | exact .inl (inP hP rfl) | exact subP hP rfl
    | with_reducible first
      | intro _ | apply KeptOut.next | apply State.fresh0_kept | apply State.leBitOp_kept | dsimp only

theorem execLeXorn_kept {s : State}
    (hk : Kept A P s0 s) {e : Fin 4} {mod : Fin 4} {x : Fin 16} {opnd : Fin 1048576}
    (hA : ∀ a ∈ ([.pend, .le, .ecc, .cpc, .iog, .chan, .ingress] : List Area), a ∈ A)
    (hP : ∀ p ∈ ([.mem, .leMem, .resp, .out, .pw, .rcd, .cop, .ecc, .io, .eng, .pmg] : List Part), p ∈ P) :
    KeptOut A P s0 (execLeXorn e mod x opnd s) := by
  unfold execLeXorn
  repeat' first
    | with_reducible assumption | exact inA hA rfl | exact subA hA rfl | exact .inl (inP hP rfl) | exact subP hP rfl
    | with_reducible first
      | intro _ | apply KeptOut.next | apply State.fresh0_kept | apply State.leBitOp_kept | dsimp only

theorem execLeSt_kept {s : State} (hk : Kept A P s0 s) {e : Fin 4} {mod : Fin 4} {x : Fin 16} {opnd : Fin 1048576}
    (hA : ∀ a ∈ ([.pend, .le, .ecc, .cpc, .iog, .chan, .ingress] : List Area), a ∈ A)
    (hP : ∀ p ∈ ([.mem, .leMem, .resp, .out, .pw, .rcd, .cop, .ecc, .io, .eng, .pmg] : List Part), p ∈ P) :
    KeptOut A P s0 (execLeSt e mod x opnd s) := by
  unfold execLeSt
  repeat' first
    | with_reducible assumption | exact inA hA rfl | exact subA hA rfl | exact .inl (inP hP rfl) | exact subP hP rfl
    | with_reducible exact rfl | exact .inr rfl
    | with_reducible first
      | intro _ | apply KeptOut.next | apply State.fresh0_kept | apply State.leBitStore_kept | dsimp only
    | fail_if_no_progress with_reducible apply Kept.upd

theorem execLeStn_kept {s : State} (hk : Kept A P s0 s) {e : Fin 4} {mod : Fin 4} {x : Fin 16} {opnd : Fin 1048576}
    (hA : ∀ a ∈ ([.pend, .le, .ecc, .cpc, .iog, .chan, .ingress] : List Area), a ∈ A)
    (hP : ∀ p ∈ ([.mem, .leMem, .resp, .out, .pw, .rcd, .cop, .ecc, .io, .eng, .pmg] : List Part), p ∈ P) :
    KeptOut A P s0 (execLeStn e mod x opnd s) := by
  unfold execLeStn
  repeat' first
    | with_reducible assumption | exact inA hA rfl | exact subA hA rfl | exact .inl (inP hP rfl) | exact subP hP rfl
    | with_reducible exact rfl | exact .inr rfl
    | with_reducible first
      | intro _ | apply KeptOut.next | apply State.fresh0_kept | apply State.leBitStore_kept | dsimp only
    | fail_if_no_progress with_reducible apply Kept.upd

theorem execLeS_kept {s : State} (hk : Kept A P s0 s) {e : Fin 4} {mod : Fin 4} {x : Fin 16} {opnd : Fin 1048576}
    (hA : ∀ a ∈ ([.pend, .le, .ecc, .cpc, .iog, .chan, .ingress] : List Area), a ∈ A)
    (hP : ∀ p ∈ ([.mem, .leMem, .resp, .out, .pw, .rcd, .cop, .ecc, .io, .eng, .pmg] : List Part), p ∈ P) :
    KeptOut A P s0 (execLeS e mod x opnd s) := by
  unfold execLeS
  repeat' first
    | with_reducible assumption | exact inA hA rfl | exact subA hA rfl | exact .inl (inP hP rfl) | exact subP hP rfl
    | with_reducible exact rfl | exact .inr rfl
    | with_reducible first
      | intro _ | apply KeptOut.next | apply State.fresh0_kept | apply State.leBitStore_kept | apply Kept.ite
      | apply KeptOut.ite | dsimp only
    | fail_if_no_progress with_reducible apply Kept.upd

theorem execLeROp_kept {s : State} (hk : Kept A P s0 s) {e : Fin 4} {mod : Fin 4} {x : Fin 16} {opnd : Fin 1048576}
    (hA : ∀ a ∈ ([.pend, .le, .ecc, .cpc, .iog, .chan, .ingress] : List Area), a ∈ A)
    (hP : ∀ p ∈ ([.mem, .leMem, .resp, .out, .pw, .rcd, .cop, .ecc, .io, .eng, .pmg] : List Part), p ∈ P) :
    KeptOut A P s0 (execLeROp e mod x opnd s) := by
  unfold execLeROp
  repeat' first
    | with_reducible assumption | exact inA hA rfl | exact subA hA rfl | exact .inl (inP hP rfl) | exact subP hP rfl
    | with_reducible exact rfl | exact .inr rfl
    | with_reducible first
      | intro _ | apply KeptOut.next | apply State.fresh0_kept | apply State.leBitStore_kept | apply Kept.ite
      | apply KeptOut.ite | dsimp only
    | fail_if_no_progress with_reducible apply Kept.upd

theorem execLeLds_kept {s : State} (hk : Kept A P s0 s) {e : Fin 4} {mod : Fin 4} {x : Fin 16} {opnd : Fin 1048576}
    (hA : ∀ a ∈ ([.pend, .le, .ecc, .cpc, .iog, .chan, .ingress] : List Area), a ∈ A)
    (hP : ∀ p ∈ ([.mem, .leMem, .resp, .out, .pw, .rcd, .cop, .ecc, .io, .eng, .pmg] : List Part), p ∈ P) :
    KeptOut A P s0 (execLeLds e mod x opnd s) := by
  unfold execLeLds
  repeat' first
    | with_reducible assumption | exact inA hA rfl | exact subA hA rfl | exact .inl (inP hP rfl) | exact subP hP rfl
    | with_reducible exact rfl | exact .inr rfl
    | with_reducible first
      | intro _ | apply KeptOut.next | apply State.fresh0_kept | apply State.leNext_kept | apply State.leRun_kept
      | dsimp only
    | fail_if_no_progress with_reducible apply Kept.upd

theorem execLeNot_kept {s : State} (hk : Kept A P s0 s) {e : Fin 4} {mod : Fin 4} {x : Fin 16} {opnd : Fin 1048576}
    (hA : ∀ a ∈ ([.pend, .le, .ecc, .cpc, .iog, .chan, .ingress] : List Area), a ∈ A)
    (hP : ∀ p ∈ ([.mem, .leMem, .resp, .out, .pw, .rcd, .cop, .ecc, .io, .eng, .pmg] : List Part), p ∈ P) :
    KeptOut A P s0 (execLeNot e mod x opnd s) := by
  unfold execLeNot
  repeat' first
    | with_reducible assumption | exact inA hA rfl | exact subA hA rfl | exact .inl (inP hP rfl) | exact subP hP rfl
    | with_reducible exact rfl | exact .inr rfl
    | with_reducible first
      | intro _ | apply KeptOut.next | apply State.fresh0_kept | apply State.leNext_kept | apply State.leRun_kept
      | dsimp only
    | fail_if_no_progress with_reducible apply Kept.upd

theorem execLeBopen_kept {s : State}
    (hk : Kept A P s0 s) {e : Fin 4} {mod : Fin 4} {x : Fin 16} {opnd : Fin 1048576}
    (hA : ∀ a ∈ ([.pend, .le, .ecc, .cpc, .iog, .chan, .ingress] : List Area), a ∈ A)
    (hP : ∀ p ∈ ([.mem, .leMem, .resp, .out, .pw, .rcd, .cop, .ecc, .io, .eng, .pmg] : List Part), p ∈ P) :
    KeptOut A P s0 (execLeBopen e mod x opnd s) := by
  unfold execLeBopen
  repeat' first
    | with_reducible assumption | exact inA hA rfl | exact subA hA rfl | exact .inl (inP hP rfl) | exact subP hP rfl
    | with_reducible exact rfl | exact .inr rfl
    | with_reducible first
      | intro _ | apply KeptOut.next | apply State.fresh0_kept | apply State.leNext_kept | apply State.leRun_kept
      | dsimp only
    | fail_if_no_progress with_reducible apply Kept.upd

theorem execLeBclose_kept {s : State}
    (hk : Kept A P s0 s) {e : Fin 4} {mod : Fin 4} {x : Fin 16} {opnd : Fin 1048576}
    (hA : ∀ a ∈ ([.pend, .le, .ecc, .cpc, .iog, .chan, .ingress] : List Area), a ∈ A)
    (hP : ∀ p ∈ ([.mem, .leMem, .resp, .out, .pw, .rcd, .cop, .ecc, .io, .eng, .pmg] : List Part), p ∈ P) :
    KeptOut A P s0 (execLeBclose e mod x opnd s) := by
  unfold execLeBclose
  repeat' first
    | with_reducible assumption | exact inA hA rfl | exact subA hA rfl | exact .inl (inP hP rfl) | exact subP hP rfl
    | with_reducible exact rfl | exact .inr rfl
    | with_reducible first
      | intro _ | apply KeptOut.next | apply State.fresh0_kept | apply State.leNext_kept | apply State.leRun_kept
      | split | dsimp only
    | fail_if_no_progress with_reducible apply Kept.upd

/-! ### Machine/LeControl.lean -/

theorem State.leJump_kept {s : State} (hk : Kept A P s0 s) {e op mod x opnd : Nat} {takes : Bool → Bool}
    (hA : ∀ a ∈ ([.pend, .le, .ecc, .cpc, .iog, .chan, .ingress] : List Area), a ∈ A)
    (hP : ∀ p ∈ ([.mem, .leMem, .out, .pw, .rcd, .cop, .ecc, .io, .eng, .pmg] : List Part), p ∈ P) :
    Kept A P s0 (State.leJump s e op mod x opnd takes) := by
  unfold State.leJump
  repeat' first
    | with_reducible assumption | exact inA hA rfl | exact subA hA rfl | exact .inl (inP hP rfl) | exact subP hP rfl
    | with_reducible exact rfl | exact .inr rfl
    | with_reducible first
      | intro _ | apply State.leNext_kept | apply State.leRun_kept | apply State.setEngine_kept | apply Kept.ite
      | dsimp only
    | fail_if_no_progress with_reducible apply Kept.upd

theorem execLeJmp_kept {s : State} (hk : Kept A P s0 s) {e : Fin 4} {mod : Fin 4} {x : Fin 16} {opnd : Fin 1048576}
    (hA : ∀ a ∈ ([.pend, .le, .ecc, .cpc, .iog, .chan, .ingress] : List Area), a ∈ A)
    (hP : ∀ p ∈ ([.mem, .leMem, .resp, .out, .pw, .rcd, .cop, .ecc, .io, .eng, .pmg] : List Part), p ∈ P) :
    KeptOut A P s0 (execLeJmp e mod x opnd s) := by
  unfold execLeJmp
  repeat' first
    | with_reducible assumption | exact inA hA rfl | exact subA hA rfl | exact .inl (inP hP rfl) | exact subP hP rfl
    | with_reducible first
      | intro _ | apply KeptOut.next | apply State.fresh0_kept | apply State.leJump_kept | dsimp only

theorem execLeJc_kept {s : State} (hk : Kept A P s0 s) {e : Fin 4} {mod : Fin 4} {x : Fin 16} {opnd : Fin 1048576}
    (hA : ∀ a ∈ ([.pend, .le, .ecc, .cpc, .iog, .chan, .ingress] : List Area), a ∈ A)
    (hP : ∀ p ∈ ([.mem, .leMem, .resp, .out, .pw, .rcd, .cop, .ecc, .io, .eng, .pmg] : List Part), p ∈ P) :
    KeptOut A P s0 (execLeJc e mod x opnd s) := by
  unfold execLeJc
  repeat' first
    | with_reducible assumption | exact inA hA rfl | exact subA hA rfl | exact .inl (inP hP rfl) | exact subP hP rfl
    | with_reducible first
      | intro _ | apply KeptOut.next | apply State.fresh0_kept | apply State.leJump_kept | dsimp only

theorem execLeJcn_kept {s : State} (hk : Kept A P s0 s) {e : Fin 4} {mod : Fin 4} {x : Fin 16} {opnd : Fin 1048576}
    (hA : ∀ a ∈ ([.pend, .le, .ecc, .cpc, .iog, .chan, .ingress] : List Area), a ∈ A)
    (hP : ∀ p ∈ ([.mem, .leMem, .resp, .out, .pw, .rcd, .cop, .ecc, .io, .eng, .pmg] : List Part), p ∈ P) :
    KeptOut A P s0 (execLeJcn e mod x opnd s) := by
  unfold execLeJcn
  repeat' first
    | with_reducible assumption | exact inA hA rfl | exact subA hA rfl | exact .inl (inP hP rfl) | exact subP hP rfl
    | with_reducible first
      | intro _ | apply KeptOut.next | apply State.fresh0_kept | apply State.leJump_kept | dsimp only

theorem State.leReturn_kept {s : State} (hk : Kept A P s0 s) {e op mod x opnd : Nat} {takes : Bool → Bool}
    (hA : ∀ a ∈ ([.pend, .le, .ecc, .cpc, .iog, .chan, .ingress] : List Area), a ∈ A)
    (hP : ∀ p ∈ ([.mem, .leMem, .out, .pw, .rcd, .cop, .ecc, .io, .eng, .pmg] : List Part), p ∈ P) :
    Kept A P s0 (State.leReturn s e op mod x opnd takes) := by
  unfold State.leReturn
  repeat' first
    | with_reducible assumption | exact inA hA rfl | exact subA hA rfl | exact .inl (inP hP rfl) | exact subP hP rfl
    | with_reducible exact rfl | exact .inr rfl
    | with_reducible first
      | intro _ | apply State.leNext_kept | apply State.leRun_kept | apply State.setEngine_kept | apply Kept.ite
      | split | dsimp only
    | fail_if_no_progress with_reducible apply Kept.upd

theorem execLeRet_kept {s : State} (hk : Kept A P s0 s) {e : Fin 4} {mod : Fin 4} {x : Fin 16} {opnd : Fin 1048576}
    (hA : ∀ a ∈ ([.pend, .le, .ecc, .cpc, .iog, .chan, .ingress] : List Area), a ∈ A)
    (hP : ∀ p ∈ ([.mem, .leMem, .resp, .out, .pw, .rcd, .cop, .ecc, .io, .eng, .pmg] : List Part), p ∈ P) :
    KeptOut A P s0 (execLeRet e mod x opnd s) := by
  unfold execLeRet
  repeat' first
    | with_reducible assumption | exact inA hA rfl | exact subA hA rfl | exact .inl (inP hP rfl) | exact subP hP rfl
    | with_reducible first
      | intro _ | apply KeptOut.next | apply State.fresh0_kept | apply State.leReturn_kept | dsimp only

theorem execLeRetc_kept {s : State}
    (hk : Kept A P s0 s) {e : Fin 4} {mod : Fin 4} {x : Fin 16} {opnd : Fin 1048576}
    (hA : ∀ a ∈ ([.pend, .le, .ecc, .cpc, .iog, .chan, .ingress] : List Area), a ∈ A)
    (hP : ∀ p ∈ ([.mem, .leMem, .resp, .out, .pw, .rcd, .cop, .ecc, .io, .eng, .pmg] : List Part), p ∈ P) :
    KeptOut A P s0 (execLeRetc e mod x opnd s) := by
  unfold execLeRetc
  repeat' first
    | with_reducible assumption | exact inA hA rfl | exact subA hA rfl | exact .inl (inP hP rfl) | exact subP hP rfl
    | with_reducible first
      | intro _ | apply KeptOut.next | apply State.fresh0_kept | apply State.leReturn_kept | dsimp only

theorem execLeCallu_kept {s : State}
    (hk : Kept A P s0 s) {e : Fin 4} {mod : Fin 4} {x : Fin 16} {opnd : Fin 1048576}
    (hA : ∀ a ∈ ([.pend, .le, .ecc, .cpc, .iog, .chan, .ingress] : List Area), a ∈ A)
    (hP : ∀ p ∈ ([.mem, .leMem, .resp, .out, .pw, .rcd, .cop, .ecc, .io, .eng, .pmg] : List Part), p ∈ P) :
    KeptOut A P s0 (execLeCallu e mod x opnd s) := by
  unfold execLeCallu
  repeat' first
    | with_reducible assumption | exact inA hA rfl | exact subA hA rfl | exact .inl (inP hP rfl) | exact subP hP rfl
    | with_reducible exact rfl | exact .inr rfl
    | with_reducible first
      | intro _ | apply KeptOut.next | apply State.fresh0_kept | apply State.leRun_kept | apply State.setEngine_kept
      | dsimp only
    | fail_if_no_progress with_reducible apply Kept.upd

/-! ### Machine/LeBlocks.lean -/

theorem State.leBlockOp_kept {s : State}
    (hk : Kept A P s0 s) {e x mod opnd n : Nat} {f : Engine → List Byte → Nat → List (Nat × List Byte) × Engine × Option Nat} (hA : ∀ a ∈ ([.pend, .le, .ecc, .cpc, .iog, .chan, .ingress] : List Area), a ∈ A) (hP : ∀ p ∈ ([.mem, .leMem, .out, .pw, .rcd, .cop, .ecc, .io, .eng, .pmg] : List Part), p ∈ P) :
    Kept A P s0 (State.leBlockOp s e x mod opnd n f) := by
  unfold State.leBlockOp
  repeat' first
    | with_reducible assumption | exact inA hA rfl | exact subA hA rfl | exact .inl (inP hP rfl) | exact subP hP rfl
    | with_reducible exact rfl | exact .inr rfl
    | with_reducible first
      | intro _ | apply State.leNext_kept | apply State.leRun_kept | apply State.putLeData_kept | apply Kept.foldl
      | split | dsimp only
    | fail_if_no_progress with_reducible apply Kept.upd

theorem execLeTon_kept {s : State} (hk : Kept A P s0 s) {e : Fin 4} {mod : Fin 4} {opnd : Fin 1048576}
    (hA : ∀ a ∈ ([.pend, .le, .ecc, .cpc, .iog, .chan, .ingress] : List Area), a ∈ A)
    (hP : ∀ p ∈ ([.mem, .leMem, .resp, .out, .pw, .rcd, .cop, .ecc, .io, .eng, .pmg] : List Part), p ∈ P) :
    KeptOut A P s0 (execLeTon e mod opnd s) := by
  unfold execLeTon
  repeat' first
    | with_reducible assumption | exact inA hA rfl | exact subA hA rfl | exact .inl (inP hP rfl) | exact subP hP rfl
    | with_reducible first
      | intro _ | apply KeptOut.next | apply State.fresh0_kept | apply State.leBlockOp_kept | dsimp only

theorem execLeTof_kept {s : State} (hk : Kept A P s0 s) {e : Fin 4} {mod : Fin 4} {opnd : Fin 1048576}
    (hA : ∀ a ∈ ([.pend, .le, .ecc, .cpc, .iog, .chan, .ingress] : List Area), a ∈ A)
    (hP : ∀ p ∈ ([.mem, .leMem, .resp, .out, .pw, .rcd, .cop, .ecc, .io, .eng, .pmg] : List Part), p ∈ P) :
    KeptOut A P s0 (execLeTof e mod opnd s) := by
  unfold execLeTof
  repeat' first
    | with_reducible assumption | exact inA hA rfl | exact subA hA rfl | exact .inl (inP hP rfl) | exact subP hP rfl
    | with_reducible first
      | intro _ | apply KeptOut.next | apply State.fresh0_kept | apply State.leBlockOp_kept | dsimp only

theorem execLeTp_kept {s : State} (hk : Kept A P s0 s) {e : Fin 4} {mod : Fin 4} {opnd : Fin 1048576}
    (hA : ∀ a ∈ ([.pend, .le, .ecc, .cpc, .iog, .chan, .ingress] : List Area), a ∈ A)
    (hP : ∀ p ∈ ([.mem, .leMem, .resp, .out, .pw, .rcd, .cop, .ecc, .io, .eng, .pmg] : List Part), p ∈ P) :
    KeptOut A P s0 (execLeTp e mod opnd s) := by
  unfold execLeTp
  repeat' first
    | with_reducible assumption | exact inA hA rfl | exact subA hA rfl | exact .inl (inP hP rfl) | exact subP hP rfl
    | with_reducible first
      | intro _ | apply KeptOut.next | apply State.fresh0_kept | apply State.leBlockOp_kept | dsimp only

theorem execLeCtu_kept {s : State} (hk : Kept A P s0 s) {e : Fin 4} {mod : Fin 4} {opnd : Fin 1048576}
    (hA : ∀ a ∈ ([.pend, .le, .ecc, .cpc, .iog, .chan, .ingress] : List Area), a ∈ A)
    (hP : ∀ p ∈ ([.mem, .leMem, .resp, .out, .pw, .rcd, .cop, .ecc, .io, .eng, .pmg] : List Part), p ∈ P) :
    KeptOut A P s0 (execLeCtu e mod opnd s) := by
  unfold execLeCtu
  repeat' first
    | with_reducible assumption | exact inA hA rfl | exact subA hA rfl | exact .inl (inP hP rfl) | exact subP hP rfl
    | with_reducible first
      | intro _ | apply KeptOut.next | apply State.fresh0_kept | apply State.leBlockOp_kept | apply Kept.ite
      | apply KeptOut.ite | dsimp only

theorem execLeCtd_kept {s : State} (hk : Kept A P s0 s) {e : Fin 4} {mod : Fin 4} {opnd : Fin 1048576}
    (hA : ∀ a ∈ ([.pend, .le, .ecc, .cpc, .iog, .chan, .ingress] : List Area), a ∈ A)
    (hP : ∀ p ∈ ([.mem, .leMem, .resp, .out, .pw, .rcd, .cop, .ecc, .io, .eng, .pmg] : List Part), p ∈ P) :
    KeptOut A P s0 (execLeCtd e mod opnd s) := by
  unfold execLeCtd
  repeat' first
    | with_reducible assumption | exact inA hA rfl | exact subA hA rfl | exact .inl (inP hP rfl) | exact subP hP rfl
    | with_reducible first
      | intro _ | apply KeptOut.next | apply State.fresh0_kept | apply State.leBlockOp_kept | apply Kept.ite
      | apply KeptOut.ite | dsimp only

theorem execLeRTrig_kept {s : State} (hk : Kept A P s0 s) {e : Fin 4} {mod : Fin 4} {opnd : Fin 1048576}
    (hA : ∀ a ∈ ([.pend, .le, .ecc, .cpc, .iog, .chan, .ingress] : List Area), a ∈ A)
    (hP : ∀ p ∈ ([.mem, .leMem, .resp, .out, .pw, .rcd, .cop, .ecc, .io, .eng, .pmg] : List Part), p ∈ P) :
    KeptOut A P s0 (execLeRTrig e mod opnd s) := by
  unfold execLeRTrig
  repeat' first
    | with_reducible assumption | exact inA hA rfl | exact subA hA rfl | exact .inl (inP hP rfl) | exact subP hP rfl
    | with_reducible first
      | intro _ | apply KeptOut.next | apply State.fresh0_kept | apply State.leBlockOp_kept | dsimp only

theorem execLeFTrig_kept {s : State} (hk : Kept A P s0 s) {e : Fin 4} {mod : Fin 4} {opnd : Fin 1048576}
    (hA : ∀ a ∈ ([.pend, .le, .ecc, .cpc, .iog, .chan, .ingress] : List Area), a ∈ A)
    (hP : ∀ p ∈ ([.mem, .leMem, .resp, .out, .pw, .rcd, .cop, .ecc, .io, .eng, .pmg] : List Part), p ∈ P) :
    KeptOut A P s0 (execLeFTrig e mod opnd s) := by
  unfold execLeFTrig
  repeat' first
    | with_reducible assumption | exact inA hA rfl | exact subA hA rfl | exact .inl (inP hP rfl) | exact subP hP rfl
    | with_reducible first
      | intro _ | apply KeptOut.next | apply State.fresh0_kept | apply State.leBlockOp_kept | dsimp only

theorem execLeSr_kept {s : State} (hk : Kept A P s0 s) {e : Fin 4} {mod : Fin 4} {opnd : Fin 1048576}
    (hA : ∀ a ∈ ([.pend, .le, .ecc, .cpc, .iog, .chan, .ingress] : List Area), a ∈ A)
    (hP : ∀ p ∈ ([.mem, .leMem, .resp, .out, .pw, .rcd, .cop, .ecc, .io, .eng, .pmg] : List Part), p ∈ P) :
    KeptOut A P s0 (execLeSr e mod opnd s) := by
  unfold execLeSr
  repeat' first
    | with_reducible assumption | exact inA hA rfl | exact subA hA rfl | exact .inl (inP hP rfl) | exact subP hP rfl
    | with_reducible first
      | intro _ | apply KeptOut.next | apply State.fresh0_kept | apply State.leBlockOp_kept | dsimp only

theorem execLeRs_kept {s : State} (hk : Kept A P s0 s) {e : Fin 4} {mod : Fin 4} {opnd : Fin 1048576}
    (hA : ∀ a ∈ ([.pend, .le, .ecc, .cpc, .iog, .chan, .ingress] : List Area), a ∈ A)
    (hP : ∀ p ∈ ([.mem, .leMem, .resp, .out, .pw, .rcd, .cop, .ecc, .io, .eng, .pmg] : List Part), p ∈ P) :
    KeptOut A P s0 (execLeRs e mod opnd s) := by
  unfold execLeRs
  repeat' first
    | with_reducible assumption | exact inA hA rfl | exact subA hA rfl | exact .inl (inP hP rfl) | exact subP hP rfl
    | with_reducible first
      | intro _ | apply KeptOut.next | apply State.fresh0_kept | apply State.leBlockOp_kept | dsimp only

theorem execLeCmp_kept {s : State} (hk : Kept A P s0 s) {e : Fin 4} {mod : Fin 4} {opnd : Fin 1048576}
    (hA : ∀ a ∈ ([.pend, .le, .ecc, .cpc, .iog, .chan, .ingress] : List Area), a ∈ A)
    (hP : ∀ p ∈ ([.mem, .leMem, .resp, .out, .pw, .rcd, .cop, .ecc, .io, .eng, .pmg] : List Part), p ∈ P) :
    KeptOut A P s0 (execLeCmp e mod opnd s) := by
  unfold execLeCmp
  repeat' first
    | with_reducible assumption | exact inA hA rfl | exact subA hA rfl | exact .inl (inP hP rfl) | exact subP hP rfl
    | with_reducible first
      | intro _ | apply KeptOut.next | apply State.fresh0_kept | apply State.leBlockOp_kept | dsimp only

theorem execLeLimit_kept {s : State} (hk : Kept A P s0 s) {e : Fin 4} {mod : Fin 4} {opnd : Fin 1048576}
    (hA : ∀ a ∈ ([.pend, .le, .ecc, .cpc, .iog, .chan, .ingress] : List Area), a ∈ A)
    (hP : ∀ p ∈ ([.mem, .leMem, .resp, .out, .pw, .rcd, .cop, .ecc, .io, .eng, .pmg] : List Part), p ∈ P) :
    KeptOut A P s0 (execLeLimit e mod opnd s) := by
  unfold execLeLimit
  repeat' first
    | with_reducible assumption | exact inA hA rfl | exact subA hA rfl | exact .inl (inP hP rfl) | exact subP hP rfl
    | with_reducible first
      | intro _ | apply KeptOut.next | apply State.fresh0_kept | apply State.leBlockOp_kept | dsimp only

theorem execLeEqv2_kept {s : State} (hk : Kept A P s0 s) {e : Fin 4} {mod : Fin 4} {opnd : Fin 1048576}
    (hA : ∀ a ∈ ([.pend, .le, .ecc, .cpc, .iog, .chan, .ingress] : List Area), a ∈ A)
    (hP : ∀ p ∈ ([.mem, .leMem, .resp, .out, .pw, .rcd, .cop, .ecc, .io, .eng, .pmg] : List Part), p ∈ P) :
    KeptOut A P s0 (execLeEqv2 e mod opnd s) := by
  unfold execLeEqv2
  repeat' first
    | with_reducible assumption | exact inA hA rfl | exact subA hA rfl | exact .inl (inP hP rfl) | exact subP hP rfl
    | with_reducible first
      | intro _ | apply KeptOut.next | apply State.fresh0_kept | apply State.leBlockOp_kept | dsimp only

theorem execLeMove_kept {s : State} (hk : Kept A P s0 s) {e : Fin 4} {mod : Fin 4} {opnd : Fin 1048576}
    (hA : ∀ a ∈ ([.pend, .le, .ecc, .cpc, .iog, .chan, .ingress] : List Area), a ∈ A)
    (hP : ∀ p ∈ ([.mem, .leMem, .resp, .out, .pw, .rcd, .cop, .ecc, .io, .eng, .pmg] : List Part), p ∈ P) :
    KeptOut A P s0 (execLeMove e mod opnd s) := by
  unfold execLeMove
  repeat' first
    | with_reducible assumption | exact inA hA rfl | exact subA hA rfl | exact .inl (inP hP rfl) | exact subP hP rfl
    | with_reducible first
      | intro _ | apply KeptOut.next | apply State.fresh0_kept | apply State.leNext_kept | apply State.leRun_kept
      | apply State.putLeData_kept | apply Kept.ite | apply KeptOut.ite | dsimp only

end Sys2Proof.Machine
end

