-- ==== Sys2Proof/Laws/KeptCanopy.lean ====
section
/-!
SUPPORT. What each operation keeps (`Kept`), one lemma an operation: Ranger, the cyclic plane, safe transport.
-/

namespace Sys2Proof.Machine

set_option linter.all false
-- one proof at a time: the package is compiled as one file, in bounded memory
set_option Elab.async false

variable {A : List Area} {P : List Part} {s0 : State}

/-! ### Machine/Ranger.lean -/

theorem State.setRng_kept {s : State} (hk : Kept A P s0 s) {r : Ranger} (hP : ∀ p ∈ ([.rng] : List Part), p ∈ P) :
    Kept A P s0 (State.setRng s r) := by
  unfold State.setRng
  repeat' first
    | with_reducible assumption | exact .inl (inP hP rfl) | exact subP hP rfl | with_reducible exact rfl
    | exact .inr rfl
    | with_reducible first
      | intro _ | dsimp only
    | fail_if_no_progress with_reducible apply Kept.upd

theorem State.drivePermit_kept {s : State} (hk : Kept A P s0 s) {tick n : Nat} {on : Bool}
    (hA : ∀ a ∈ ([.iog, .chan] : List Area), a ∈ A) (hP : ∀ p ∈ ([.out, .io, .rng] : List Part), p ∈ P) :
    Kept A P s0 (State.drivePermit s tick n on) := by
  unfold State.drivePermit
  repeat' first
    | with_reducible assumption | exact inA hA rfl | exact subA hA rfl | exact .inl (inP hP rfl) | exact subP hP rfl
    | with_reducible exact rfl | exact .inr rfl
    | with_reducible first
      | intro _ | apply State.emit_kept | apply State.settleChan_kept | apply State.tick_kept | apply Kept.ite
      | dsimp only
    | fail_if_no_progress with_reducible apply Kept.upd

theorem State.permitsLow_kept {s : State} (hk : Kept A P s0 s) {tick : Nat}
    (hA : ∀ a ∈ ([.iog, .chan] : List Area), a ∈ A) (hP : ∀ p ∈ ([.out, .io, .rng] : List Part), p ∈ P) :
    Kept A P s0 (State.permitsLow s tick) := by
  unfold State.permitsLow
  repeat' first
    | with_reducible assumption | exact inA hA rfl | exact subA hA rfl | exact .inl (inP hP rfl) | exact subP hP rfl
    | with_reducible first
      | intro _ | apply State.drivePermit_kept | apply State.tick_kept | apply Kept.foldl | dsimp only

theorem State.rangerFault_kept {s : State} (hk : Kept A P s0 s) {tick code : Nat}
    (hA : ∀ a ∈ ([.iog, .chan] : List Area), a ∈ A) (hP : ∀ p ∈ ([.out, .io, .rng] : List Part), p ∈ P) :
    Kept A P s0 (State.rangerFault s tick code) := by
  unfold State.rangerFault
  repeat' first
    | with_reducible assumption | exact inA hA rfl | exact subA hA rfl | exact .inl (inP hP rfl) | exact subP hP rfl
    | with_reducible exact rfl | exact .inr rfl
    | with_reducible first
      | intro _ | apply State.permitsLow_kept | apply State.setRng_kept | apply State.tick_kept | apply Kept.ite
      | dsimp only
    | fail_if_no_progress with_reducible apply Kept.upd

theorem State.rangerPowerfail_kept {s : State} (hk : Kept A P s0 s) (hA : ∀ a ∈ ([.iog, .chan] : List Area), a ∈ A)
    (hP : ∀ p ∈ ([.out, .io, .rng] : List Part), p ∈ P) :
    Kept A P s0 (State.rangerPowerfail s) := by
  unfold State.rangerPowerfail
  repeat' first
    | with_reducible assumption | exact inA hA rfl | exact subA hA rfl | exact .inl (inP hP rfl) | exact subP hP rfl
    | with_reducible exact rfl | exact .inr rfl
    | with_reducible first
      | intro _ | apply State.permitsLow_kept | apply State.setRng_kept | dsimp only
    | fail_if_no_progress with_reducible apply Kept.upd

theorem execRangerKeyPhaseEnd_kept {s : State} (hk : Kept A P s0 s) {busErr : Bool} {tick t : Nat}
    (hP : ∀ p ∈ ([.now, .resp, .out, .pw, .rng] : List Part), p ∈ P) :
    KeptOut A P s0 (execRangerKeyPhaseEnd busErr tick t s) := by
  unfold execRangerKeyPhaseEnd
  repeat' first
    | with_reducible assumption | exact .inl (inP hP rfl) | exact subP hP rfl | with_reducible exact rfl
    | exact .inr rfl
    | with_reducible first
      | intro _ | apply KeptOut.next | apply State.begin_kept | apply State.tick_kept | apply Kept.ite
      | apply KeptOut.ite | dsimp only
    | fail_if_no_progress with_reducible apply Kept.upd

theorem execRangerLevelSample_kept {s : State} (hk : Kept A P s0 s) {levels : BitVec 192} {tick : Nat}
    (hP : ∀ p ∈ ([.resp, .out, .rng] : List Part), p ∈ P) :
    KeptOut A P s0 (execRangerLevelSample levels tick s) := by
  unfold execRangerLevelSample
  repeat' first
    | with_reducible assumption | exact .inl (inP hP rfl) | exact subP hP rfl
    | with_reducible first
      | intro _ | apply KeptOut.next | apply State.fresh0_kept | apply State.setRng_kept | apply State.tick_kept
      | apply Kept.ite | apply KeptOut.ite | dsimp only

theorem execRangerEdge_kept {s : State} (hk : Kept A P s0 s) {n : Fin 192} {level : Bool} {tick : Nat}
    (hP : ∀ p ∈ ([.resp, .out, .rng] : List Part), p ∈ P) :
    KeptOut A P s0 (execRangerEdge n level tick s) := by
  unfold execRangerEdge
  repeat' first
    | with_reducible assumption | exact .inl (inP hP rfl) | exact subP hP rfl
    | with_reducible first
      | intro _ | apply KeptOut.next | apply State.fresh0_kept | apply State.setRng_kept | apply State.tick_kept
      | apply Kept.ite | apply KeptOut.ite | dsimp only

theorem execRangerQuadHoldEnd_kept {s : State} (hk : Kept A P s0 s) {pair : Fin 192} {tick : Nat}
    (hP : ∀ p ∈ ([.resp, .out, .rng] : List Part), p ∈ P) :
    KeptOut A P s0 (execRangerQuadHoldEnd pair tick s) := by
  unfold execRangerQuadHoldEnd
  repeat' first
    | with_reducible assumption | exact .inl (inP hP rfl) | exact subP hP rfl | with_reducible exact rfl
    | exact .inr rfl
    | with_reducible first
      | intro _ | apply KeptOut.next | apply State.fresh0_kept | apply State.setRng_kept | apply State.tick_kept
      | apply Kept.ite | apply KeptOut.ite | split | dsimp only
    | fail_if_no_progress with_reducible apply Kept.upd

theorem execRangerSafeCopy_kept {s : State} (hk : Kept A P s0 s) {plane : Fin 2} {frame : List Byte} {tick : Nat}
    (hP : ∀ p ∈ ([.resp, .out, .rng] : List Part), p ∈ P) :
    KeptOut A P s0 (execRangerSafeCopy plane frame tick s) := by
  unfold execRangerSafeCopy
  repeat' first
    | with_reducible assumption | exact .inl (inP hP rfl) | exact subP hP rfl
    | with_reducible first
      | intro _ | apply KeptOut.next | apply State.fresh0_kept | apply State.setRng_kept | apply State.tick_kept
      | dsimp only

theorem execRangerConnectionTimeout_kept {s : State} (hk : Kept A P s0 s) {c : Fin 8} {tick : Nat}
    (hP : ∀ p ∈ ([.resp, .out, .rng] : List Part), p ∈ P) :
    KeptOut A P s0 (execRangerConnectionTimeout c tick s) := by
  unfold execRangerConnectionTimeout
  repeat' first
    | with_reducible assumption | exact .inl (inP hP rfl) | exact subP hP rfl | with_reducible exact rfl
    | exact .inr rfl
    | with_reducible first
      | intro _ | apply KeptOut.next | apply State.fresh0_kept | apply State.setRng_kept | apply State.tick_kept
      | apply Kept.ite | apply KeptOut.ite | split | dsimp only
    | fail_if_no_progress with_reducible apply Kept.upd

theorem State.rangerEvaluation_kept {s : State} (hk : Kept A P s0 s) {chanDiff : Bool} {ratio tick : Nat}
    (hA : ∀ a ∈ ([.iog, .chan] : List Area), a ∈ A) (hP : ∀ p ∈ ([.out, .io, .rng] : List Part), p ∈ P) :
    Kept A P s0 (State.rangerEvaluation s chanDiff ratio tick) := by
  unfold State.rangerEvaluation
  repeat' first
    | with_reducible assumption | exact inA hA rfl | exact subA hA rfl | exact .inl (inP hP rfl) | exact subP hP rfl
    | with_reducible exact rfl | exact .inr rfl
    | with_reducible first
      | intro _ | apply State.drivePermit_kept | apply State.rangerFault_kept | apply State.setRng_kept
      | apply State.tick_kept | apply Kept.ite | apply Kept.foldl | split | dsimp only
    | fail_if_no_progress with_reducible apply Kept.upd

theorem execRangerEvaluation_kept {s : State} (hk : Kept A P s0 s) {chanDiff : Bool} {ratio tick t : Nat}
    (hA : ∀ a ∈ ([.iog, .chan] : List Area), a ∈ A) (hP : ∀ p ∈ ([.now, .resp, .out, .io, .rng] : List Part), p ∈ P) :
    KeptOut A P s0 (execRangerEvaluation chanDiff ratio tick t s) := by
  unfold execRangerEvaluation
  repeat' first
    | with_reducible assumption | exact inA hA rfl | exact subA hA rfl | exact .inl (inP hP rfl) | exact subP hP rfl
    | with_reducible first
      | intro _ | apply KeptOut.next | apply State.begin_kept | apply State.rangerEvaluation_kept
      | apply State.tick_kept | apply Kept.ite | apply KeptOut.ite | dsimp only

theorem execRangerParamCrcCheck_kept {s : State} (hk : Kept A P s0 s) {crc : BitVec 32} {tick t : Nat}
    (hA : ∀ a ∈ ([.iog, .chan] : List Area), a ∈ A) (hP : ∀ p ∈ ([.now, .resp, .out, .io, .rng] : List Part), p ∈ P) :
    KeptOut A P s0 (execRangerParamCrcCheck crc tick t s) := by
  unfold execRangerParamCrcCheck
  repeat' first
    | with_reducible assumption | exact inA hA rfl | exact subA hA rfl | exact .inl (inP hP rfl) | exact subP hP rfl
    | with_reducible first
      | intro _ | apply KeptOut.next | apply State.begin_kept | apply State.rangerFault_kept | apply State.tick_kept
      | apply Kept.ite | apply KeptOut.ite | dsimp only

theorem State.rngRecord_kept {s : State} (hk : Kept A P s0 s) {obj w0 : Nat} {w1 : Option Nat}
    (hA : ∀ a ∈ ([.pend, .ingress] : List Area), a ∈ A) (hP : ∀ p ∈ ([.pw, .rcd] : List Part), p ∈ P) :
    Kept A P s0 (State.rngRecord s obj w0 w1) := by
  unfold State.rngRecord
  repeat' first
    | with_reducible assumption | exact inA hA rfl | exact subA hA rfl | exact .inl (inP hP rfl) | exact subP hP rfl
    | with_reducible exact rfl | exact .inr rfl
    | with_reducible first
      | intro _ | apply State.record_kept | dsimp only
    | fail_if_no_progress with_reducible apply Kept.upd

theorem State.mirrorHead_kept {s : State} (hk : Kept A P s0 s) (hA : ∀ a ∈ ([.rng] : List Area), a ∈ A) :
    Kept A P s0 (State.mirrorHead s) := by
  unfold State.mirrorHead
  repeat' first
    | with_reducible assumption | exact inA hA rfl | exact subA hA rfl | with_reducible exact rfl | exact .inr rfl
    | with_reducible first
      | intro _ | apply State.wr_kept | apply State.wrB_kept | split | dsimp only
    | fail_if_no_progress with_reducible apply Kept.upd

theorem State.mirrorLink_kept {s : State} (hk : Kept A P s0 s) {c : Nat} {l : RLink}
    (hA : ∀ a ∈ ([.pend, .rng, .ingress] : List Area), a ∈ A) (hP : ∀ p ∈ ([.pw, .rcd] : List Part), p ∈ P) :
    Kept A P s0 (State.mirrorLink s c l) := by
  unfold State.mirrorLink
  repeat' first
    | with_reducible assumption | exact inA hA rfl | exact subA hA rfl | exact .inl (inP hP rfl) | exact subP hP rfl
    | with_reducible exact rfl | exact .inr rfl
    | with_reducible first
      | intro _ | apply State.rngRecord_kept | apply State.wr_kept | apply State.wrB_kept | apply State.wrBit_kept
      | apply Kept.ite | dsimp only
    | fail_if_no_progress with_reducible apply Kept.upd

theorem State.mirrorInst_kept {s : State} (hk : Kept A P s0 s) {i : Nat} {r : RInst} {e : REval}
    (hA : ∀ a ∈ ([.pend, .rng, .ingress] : List Area), a ∈ A) (hP : ∀ p ∈ ([.pw, .rcd] : List Part), p ∈ P) :
    Kept A P s0 (State.mirrorInst s i r e) := by
  unfold State.mirrorInst
  repeat' first
    | with_reducible assumption | exact inA hA rfl | exact subA hA rfl | exact .inl (inP hP rfl) | exact subP hP rfl
    | with_reducible exact rfl | exact .inr rfl
    | with_reducible first
      | intro _ | apply State.rngRecord_kept | apply State.wr_kept | apply State.wrB_kept | apply State.wrBit_kept
      | apply Kept.ite | dsimp only
    | fail_if_no_progress with_reducible apply Kept.upd

theorem State.mirrorPfail_kept {s : State} (hk : Kept A P s0 s) {n : Nat}
    (hA : ∀ a ∈ ([.pend, .rng, .ingress] : List Area), a ∈ A) (hP : ∀ p ∈ ([.pw, .rcd] : List Part), p ∈ P) :
    Kept A P s0 (State.mirrorPfail s n) := by
  unfold State.mirrorPfail
  repeat' first
    | with_reducible assumption | exact inA hA rfl | exact subA hA rfl | exact .inl (inP hP rfl) | exact subP hP rfl
    | with_reducible first
      | intro _ | apply State.rngRecord_kept | apply State.wrBit_kept | apply Kept.ite | dsimp only

theorem State.mirrorImage_kept {s : State} (hk : Kept A P s0 s)
    (hA : ∀ a ∈ ([.pend, .rng, .ingress] : List Area), a ∈ A) (hP : ∀ p ∈ ([.pw, .rcd, .rng] : List Part), p ∈ P) :
    Kept A P s0 (State.mirrorImage s) := by
  unfold State.mirrorImage
  repeat' first
    | with_reducible assumption | exact inA hA rfl | exact subA hA rfl | exact .inl (inP hP rfl) | exact subP hP rfl
    | with_reducible exact rfl | exact .inr rfl
    | with_reducible first
      | intro _ | apply State.mirrorHead_kept | apply State.mirrorInst_kept | apply State.mirrorLink_kept
      | apply State.mirrorPfail_kept | apply State.rngRecord_kept | apply State.setRng_kept | apply State.wr_kept
      | apply Kept.ite | apply Kept.foldl | split | dsimp only
    | fail_if_no_progress with_reducible apply Kept.upd

theorem State.condStep_kept {s : State} (hk : Kept A P s0 s) (hP : ∀ p ∈ ([.fwu] : List Part), p ∈ P) :
    Kept A P s0 (State.condStep s) := by
  unfold State.condStep
  repeat' first
    | with_reducible assumption | exact .inl (inP hP rfl) | exact subP hP rfl | with_reducible exact rfl
    | exact .inr rfl
    | with_reducible first
      | intro _ | apply Kept.ite | dsimp only
    | fail_if_no_progress with_reducible apply Kept.upd

theorem execRangerMirrorImage_kept {s : State} (hk : Kept A P s0 s) {t : Nat}
    (hA : ∀ a ∈ ([.pend, .rng, .ingress] : List Area), a ∈ A)
    (hP : ∀ p ∈ ([.now, .resp, .out, .pw, .rcd, .rng, .fwu] : List Part), p ∈ P) :
    KeptOut A P s0 (execRangerMirrorImage t s) := by
  unfold execRangerMirrorImage
  repeat' first
    | with_reducible assumption | exact inA hA rfl | exact subA hA rfl | exact .inl (inP hP rfl) | exact subP hP rfl
    | with_reducible first
      | intro _ | apply KeptOut.next | apply State.begin_kept | apply State.condStep_kept
      | apply State.mirrorImage_kept | apply Kept.ite | apply KeptOut.ite | dsimp only

theorem execRangerMirrorLost_kept {s : State} (hk : Kept A P s0 s) {t : Nat}
    (hA : ∀ a ∈ ([.pend, .rng, .ingress] : List Area), a ∈ A)
    (hP : ∀ p ∈ ([.now, .resp, .out, .pw, .rcd, .fwu] : List Part), p ∈ P) :
    KeptOut A P s0 (execRangerMirrorLost t s) := by
  unfold execRangerMirrorLost
  repeat' first
    | with_reducible assumption | exact inA hA rfl | exact subA hA rfl | exact .inl (inP hP rfl) | exact subP hP rfl
    | with_reducible exact rfl | exact .inr rfl
    | with_reducible first
      | intro _ | apply KeptOut.next | apply State.begin_kept | apply State.condStep_kept | apply State.record_kept
      | apply State.wr_kept | apply Kept.ite | apply KeptOut.ite | dsimp only
    | fail_if_no_progress with_reducible apply Kept.upd

/-! ### Machine/CanopyBase.lean -/

theorem State.setPortLink_kept {s : State} (hk : Kept A P s0 s) {p : Nat} {l : PortLink}
    (hP : ∀ p ∈ ([.fab] : List Part), p ∈ P) :
    Kept A P s0 (State.setPortLink s p l) := by
  unfold State.setPortLink
  repeat' first
    | with_reducible assumption | exact .inl (inP hP rfl) | exact subP hP rfl | with_reducible exact rfl
    | exact .inr rfl
    | with_reducible first
      | intro _ | dsimp only
    | fail_if_no_progress with_reducible apply Kept.upd

theorem State.sendOn_kept {s : State} (hk : Kept A P s0 s) {planes : Nat} {f : List Byte}
    (hP : ∀ p ∈ ([.out] : List Part), p ∈ P) :
    Kept A P s0 (State.sendOn s planes f) := by
  unfold State.sendOn
  repeat' first
    | with_reducible assumption | exact .inl (inP hP rfl) | exact subP hP rfl
    | with_reducible first
      | intro _ | apply State.emit_kept | apply Kept.ite | apply Kept.foldl | dsimp only

theorem State.forwardTt_kept {s : State} (hk : Kept A P s0 s) {p : Nat} {f : List Byte}
    (hP : ∀ p ∈ ([.out] : List Part), p ∈ P) :
    Kept A P s0 (State.forwardTt s p f) := by
  unfold State.forwardTt
  repeat' first
    | with_reducible assumption | exact .inl (inP hP rfl) | exact subP hP rfl
    | with_reducible first
      | intro _ | apply State.emit_kept | apply Kept.ite | dsimp only

theorem State.setEtPort_kept {s : State} (hk : Kept A P s0 s) {p : Nat} {x : EtPort}
    (hP : ∀ p ∈ ([.cnp] : List Part), p ∈ P) :
    Kept A P s0 (State.setEtPort s p x) := by
  unfold State.setEtPort
  repeat' first
    | with_reducible assumption | exact .inl (inP hP rfl) | exact subP hP rfl | with_reducible exact rfl
    | exact .inr rfl
    | with_reducible first
      | intro _ | dsimp only
    | fail_if_no_progress with_reducible apply Kept.upd

theorem State.mapQueues_kept {s : State} (hk : Kept A P s0 s) {f : EtFrame → Option EtFrame}
    (hP : ∀ p ∈ ([.cnp] : List Part), p ∈ P) :
    Kept A P s0 (State.mapQueues s f) := by
  unfold State.mapQueues
  repeat' first
    | with_reducible assumption | exact .inl (inP hP rfl) | exact subP hP rfl | with_reducible exact rfl
    | exact .inr rfl
    | with_reducible first
      | intro _ | apply State.setEtPort_kept | apply Kept.foldl | dsimp only
    | fail_if_no_progress with_reducible apply Kept.upd

theorem State.claimReport_kept {s : State} (hk : Kept A P s0 s) (hA : ∀ a ∈ ([.pend, .ingress] : List Area), a ∈ A)
    (hP : ∀ p ∈ ([.pw, .rcd] : List Part), p ∈ P) :
    Kept A P s0 (State.claimReport s) := by
  unfold State.claimReport
  repeat' first
    | with_reducible assumption | exact inA hA rfl | exact subA hA rfl | exact .inl (inP hP rfl) | exact subP hP rfl
    | with_reducible exact rfl | exact .inr rfl
    | with_reducible first
      | intro _ | apply State.raise_kept | apply State.record_kept | dsimp only
    | fail_if_no_progress with_reducible apply Kept.upd

theorem State.claimRefused_kept {s : State} (hk : Kept A P s0 s) {err : Nat}
    (hA : ∀ a ∈ ([.pend, .cnp, .ingress] : List Area), a ∈ A) (hP : ∀ p ∈ ([.pw, .rcd] : List Part), p ∈ P) :
    Kept A P s0 (State.claimRefused s err) := by
  unfold State.claimRefused
  repeat' first
    | with_reducible assumption | exact inA hA rfl | exact subA hA rfl | exact .inl (inP hP rfl) | exact subP hP rfl
    | with_reducible first
      | intro _ | apply State.claimReport_kept | apply State.wr_kept | dsimp only

theorem State.claimFail_kept {s : State} (hk : Kept A P s0 s) {err : Nat}
    (hA : ∀ a ∈ ([.pend, .cnp, .ingress] : List Area), a ∈ A) (hP : ∀ p ∈ ([.pw, .rcd] : List Part), p ∈ P) :
    Kept A P s0 (State.claimFail s err) := by
  unfold State.claimFail
  repeat' first
    | with_reducible assumption | exact inA hA rfl | exact subA hA rfl | exact .inl (inP hP rfl) | exact subP hP rfl
    | with_reducible first
      | intro _ | apply State.claimRefused_kept | apply State.wr_kept | dsimp only

theorem State.setClaims_kept {s : State} (hk : Kept A P s0 s) {l : List Claim}
    (hP : ∀ p ∈ ([.cnp] : List Part), p ∈ P) :
    Kept A P s0 (State.setClaims s l) := by
  unfold State.setClaims
  repeat' first
    | with_reducible assumption | exact .inl (inP hP rfl) | exact subP hP rfl | with_reducible exact rfl
    | exact .inr rfl
    | with_reducible first
      | intro _ | dsimp only
    | fail_if_no_progress with_reducible apply Kept.upd

theorem State.claimLost_kept {s : State} (hk : Kept A P s0 s) {c : Claim} {err : Nat}
    (hA : ∀ a ∈ ([.pend, .cnp, .ingress] : List Area), a ∈ A) (hP : ∀ p ∈ ([.pw, .rcd] : List Part), p ∈ P) :
    Kept A P s0 (State.claimLost s c err) := by
  unfold State.claimLost
  repeat' first
    | with_reducible assumption | exact inA hA rfl | exact subA hA rfl | exact .inl (inP hP rfl) | exact subP hP rfl
    | with_reducible first
      | intro _ | apply State.claimFail_kept | apply State.claimReport_kept | apply Kept.ite | dsimp only

theorem State.claimAdd_kept {s : State} (hk : Kept A P s0 s) {c : Claim}
    (hA : ∀ a ∈ ([.pend, .cnp, .ingress] : List Area), a ∈ A) (hP : ∀ p ∈ ([.pw, .rcd, .cnp] : List Part), p ∈ P) :
    Kept A P s0 (State.claimAdd s c) := by
  unfold State.claimAdd
  repeat' first
    | with_reducible assumption | exact inA hA rfl | exact subA hA rfl | exact .inl (inP hP rfl) | exact subP hP rfl
    | with_reducible exact rfl | exact .inr rfl
    | with_reducible first
      | intro _ | apply State.claimLost_kept | apply State.setClaims_kept | apply State.wr_kept | apply Kept.ite
      | split | dsimp only
    | fail_if_no_progress with_reducible apply Kept.upd

theorem State.freeSpare_kept {s : State} (hk : Kept A P s0 s) {seg fid : Nat}
    (hA : ∀ a ∈ ([.cnp] : List Area), a ∈ A) (hP : ∀ p ∈ ([.cnp] : List Part), p ∈ P) :
    Kept A P s0 (State.freeSpare s seg fid) := by
  unfold State.freeSpare
  repeat' first
    | with_reducible assumption | exact inA hA rfl | exact subA hA rfl | exact .inl (inP hP rfl) | exact subP hP rfl
    | with_reducible exact rfl | exact .inr rfl
    | with_reducible first
      | intro _ | apply State.wr_kept | split | dsimp only
    | fail_if_no_progress with_reducible apply Kept.upd

theorem State.claimMade_kept {s : State} (hk : Kept A P s0 s) {c : Claim}
    (hA : ∀ a ∈ ([.pend, .cnp, .ingress] : List Area), a ∈ A) (hP : ∀ p ∈ ([.pw, .rcd, .cnp] : List Part), p ∈ P) :
    Kept A P s0 (State.claimMade s c) := by
  unfold State.claimMade
  repeat' first
    | with_reducible assumption | exact inA hA rfl | exact subA hA rfl | exact .inl (inP hP rfl) | exact subP hP rfl
    | with_reducible exact rfl | exact .inr rfl
    | with_reducible first
      | intro _ | apply State.claimAdd_kept | apply State.freeSpare_kept | apply Kept.ite | dsimp only
    | fail_if_no_progress with_reducible apply Kept.upd

theorem State.claimLeaves_kept {s : State} (hk : Kept A P s0 s) {x : EtFrame}
    (hA : ∀ a ∈ ([.pend, .cnp, .ingress] : List Area), a ∈ A) (hP : ∀ p ∈ ([.pw, .rcd, .cnp] : List Part), p ∈ P) :
    Kept A P s0 (State.claimLeaves s x).2 := by
  unfold State.claimLeaves
  repeat' first
    | with_reducible assumption | exact inA hA rfl | exact subA hA rfl | exact .inl (inP hP rfl) | exact subP hP rfl
    | with_reducible exact rfl | exact .inr rfl
    | with_reducible first
      | intro _ | apply State.claimMade_kept | apply State.mapQueues_kept | apply Kept.ite | split | split
      | dsimp only
    | fail_if_no_progress with_reducible apply Kept.upd

theorem State.stampDelay_kept {s : State} (hk : Kept A P s0 s) {p : Nat} {f : List Byte}
    (hP : ∀ p ∈ ([.fab] : List Part), p ∈ P) :
    Kept A P s0 (State.stampDelay s p f).2 := by
  unfold State.stampDelay
  repeat' first
    | with_reducible assumption | exact .inl (inP hP rfl) | exact subP hP rfl | with_reducible exact rfl
    | exact .inr rfl
    | with_reducible first
      | intro _ | apply State.setPortLink_kept | apply Kept.ite | split | dsimp only
    | fail_if_no_progress with_reducible apply Kept.upd

theorem State.rwSent_kept {s : State} (hk : Kept A P s0 s) {ms : List RwMsg} (hP : ∀ p ∈ ([.rwy] : List Part), p ∈ P) :
    Kept A P s0 (State.rwSent s ms) := by
  unfold State.rwSent
  repeat' first
    | with_reducible assumption | exact .inl (inP hP rfl) | exact subP hP rfl | with_reducible exact rfl
    | exact .inr rfl
    | with_reducible first
      | intro _ | apply Kept.ite | dsimp only
    | fail_if_no_progress with_reducible apply Kept.upd

theorem State.etLeaves_kept {s : State} (hk : Kept A P s0 s) {p : Nat} {x : EtFrame}
    (hA : ∀ a ∈ ([.pend, .cnp, .ingress] : List Area), a ∈ A)
    (hP : ∀ p ∈ ([.pw, .rcd, .cnp, .fab, .rwy] : List Part), p ∈ P) :
    Kept A P s0 (State.etLeaves s p x).2 := by
  unfold State.etLeaves
  repeat' first
    | with_reducible assumption | exact inA hA rfl | exact subA hA rfl | exact .inl (inP hP rfl) | exact subP hP rfl
    | with_reducible exact rfl | exact .inr rfl
    | with_reducible first
      | intro _ | apply State.claimLeaves_kept | apply State.rwSent_kept | apply State.stampDelay_kept
      | apply Kept.ite | refine Kept.snd ?_ (by assumption) | refine Kept.fst ?_ (by assumption) | split | dsimp only
    | fail_if_no_progress with_reducible apply Kept.upd

theorem State.etPass_kept {s : State} (hk : Kept A P s0 s) {f : EtFrame} {bytes : List Byte}
    (hA : ∀ a ∈ ([.cvu] : List Area), a ∈ A) (hP : ∀ p ∈ ([.cvu] : List Part), p ∈ P) :
    Kept A P s0 (State.etPass s f bytes) := by
  unfold State.etPass
  repeat' first
    | with_reducible assumption | exact inA hA rfl | exact subA hA rfl | exact .inl (inP hP rfl) | exact subP hP rfl
    | with_reducible exact rfl | exact .inr rfl
    | with_reducible first
      | intro _ | apply State.unitFrame_kept | apply Kept.ite | dsimp only
    | fail_if_no_progress with_reducible apply Kept.upd

theorem State.etPassed_kept {s : State} (hk : Kept A P s0 s) {f : EtFrame} (hP : ∀ p ∈ ([.cnp] : List Part), p ∈ P) :
    Kept A P s0 (State.etPassed s f) := by
  unfold State.etPassed
  repeat' first
    | with_reducible assumption | exact .inl (inP hP rfl) | exact subP hP rfl | with_reducible exact rfl
    | exact .inr rfl
    | with_reducible first
      | intro _ | apply State.mapQueues_kept | apply Kept.ite | dsimp only
    | fail_if_no_progress with_reducible apply Kept.upd

theorem State.etKick_kept {s : State} (hk : Kept A P s0 s) {p : Nat}
    (hA : ∀ a ∈ ([.pend, .cnp, .cvu, .ingress] : List Area), a ∈ A)
    (hP : ∀ p ∈ ([.out, .pw, .rcd, .cnp, .fab, .cvu, .rwy] : List Part), p ∈ P) :
    Kept A P s0 (State.etKick s p) := by
  unfold State.etKick
  repeat' first
    | with_reducible assumption | exact inA hA rfl | exact subA hA rfl | exact .inl (inP hP rfl) | exact subP hP rfl
    | with_reducible exact rfl | exact .inr rfl
    | with_reducible first
      | intro _ | apply State.emit_kept | apply State.etLeaves_kept | apply State.etPass_kept
      | apply State.etPassed_kept | apply State.setEtPort_kept | apply Kept.ite | refine Kept.snd ?_ (by assumption)
      | refine Kept.fst ?_ (by assumption) | split | split | dsimp only
    | fail_if_no_progress with_reducible apply Kept.upd

theorem State.etPut_kept {s : State} (hk : Kept A P s0 s) {p : Nat} {f : EtFrame}
    (hA : ∀ a ∈ ([.pend, .cnp, .cvu, .ingress] : List Area), a ∈ A)
    (hP : ∀ p ∈ ([.out, .pw, .rcd, .cnp, .fab, .cvu, .rwy] : List Part), p ∈ P) :
    Kept A P s0 (State.etPut s p f) := by
  unfold State.etPut
  repeat' first
    | with_reducible assumption | exact inA hA rfl | exact subA hA rfl | exact .inl (inP hP rfl) | exact subP hP rfl
    | with_reducible exact rfl | exact .inr rfl
    | with_reducible first
      | intro _ | apply State.bump_kept | apply State.etKick_kept | apply State.setEtPort_kept | apply Kept.ite
      | dsimp only
    | fail_if_no_progress with_reducible apply Kept.upd

theorem State.etRoute_kept {s : State} (hk : Kept A P s0 s) {from_ : Option Nat} {plane : Nat} {x : EtFrame}
    (hA : ∀ a ∈ ([.pend, .cnp, .cvu, .ingress] : List Area), a ∈ A)
    (hP : ∀ p ∈ ([.out, .pw, .rcd, .cnp, .fab, .cvu, .rwy] : List Part), p ∈ P) :
    Kept A P s0 (State.etRoute s from_ plane x) := by
  unfold State.etRoute
  repeat' first
    | with_reducible assumption | exact inA hA rfl | exact subA hA rfl | exact .inl (inP hP rfl) | exact subP hP rfl
    | with_reducible exact rfl | exact .inr rfl
    | with_reducible first
      | intro _ | apply State.bump_kept | apply State.etPut_kept | apply Kept.ite | dsimp only
    | fail_if_no_progress with_reducible apply Kept.upd

theorem State.sendEt_kept {s : State} (hk : Kept A P s0 s) {plane : Nat} {x : EtFrame}
    (hA : ∀ a ∈ ([.pend, .cnp, .cvu, .ingress] : List Area), a ∈ A)
    (hP : ∀ p ∈ ([.out, .pw, .rcd, .cnp, .fab, .cvu, .rwy] : List Part), p ∈ P) :
    Kept A P s0 (State.sendEt s plane x) := by
  unfold State.sendEt
  repeat' first
    | with_reducible assumption | exact inA hA rfl | exact subA hA rfl | exact .inl (inP hP rfl) | exact subP hP rfl
    | with_reducible first
      | intro _ | apply State.etRoute_kept | apply Kept.ite | dsimp only

theorem State.sendEtBoth_kept {s : State} (hk : Kept A P s0 s) {f : List Byte}
    (hA : ∀ a ∈ ([.pend, .cnp, .cvu, .ingress] : List Area), a ∈ A)
    (hP : ∀ p ∈ ([.out, .pw, .rcd, .cnp, .fab, .cvu, .rwy] : List Part), p ∈ P) :
    Kept A P s0 (State.sendEtBoth s f) := by
  unfold State.sendEtBoth
  repeat' first
    | with_reducible assumption | exact inA hA rfl | exact subA hA rfl | exact .inl (inP hP rfl) | exact subP hP rfl
    | with_reducible first
      | intro _ | apply State.sendEt_kept | dsimp only

theorem State.etRenumber_kept {s : State} (hk : Kept A P s0 s) {id : Nat → Nat}
    (hA : ∀ a ∈ ([.pend, .cnp, .cvu, .ingress] : List Area), a ∈ A)
    (hP : ∀ p ∈ ([.out, .pw, .rcd, .cnp, .fab, .cvu, .rwy] : List Part), p ∈ P) :
    Kept A P s0 (State.etRenumber s id) := by
  unfold State.etRenumber
  repeat' first
    | with_reducible assumption | exact inA hA rfl | exact subA hA rfl | exact .inl (inP hP rfl) | exact subP hP rfl
    | with_reducible exact rfl | exact .inr rfl
    | with_reducible first
      | intro _ | apply State.etRoute_kept | apply State.mapQueues_kept | apply Kept.ite | apply Kept.foldl
      | dsimp only
    | fail_if_no_progress with_reducible apply Kept.upd

theorem State.tunPurge_kept {s : State} (hk : Kept A P s0 s) {t : Nat}
    (hA : ∀ a ∈ ([.pend, .ust] : List Area), a ∈ A) (hP : ∀ p ∈ ([.cnp, .ust] : List Part), p ∈ P) :
    Kept A P s0 (State.tunPurge s t) := by
  unfold State.tunPurge
  repeat' first
    | with_reducible assumption | exact inA hA rfl | exact subA hA rfl | exact .inl (inP hP rfl) | exact subP hP rfl
    | with_reducible exact rfl | exact .inr rfl
    | with_reducible first
      | intro _ | apply State.bump_kept | apply State.mapQueues_kept | apply State.raise_kept | apply State.wr_kept
      | apply Kept.ite | apply Kept.foldl | dsimp only
    | fail_if_no_progress with_reducible apply Kept.upd

theorem State.setJoin_kept {s : State} (hk : Kept A P s0 s) {j : Nat}
    (hA : ∀ a ∈ ([.pend, .cnp, .ust, .ingress] : List Area), a ∈ A)
    (hP : ∀ p ∈ ([.pw, .rcd, .cnp, .ust] : List Part), p ∈ P) :
    Kept A P s0 (State.setJoin s j) := by
  unfold State.setJoin
  repeat' first
    | with_reducible assumption | exact inA hA rfl | exact subA hA rfl | exact .inl (inP hP rfl) | exact subP hP rfl
    | with_reducible exact rfl | exact .inr rfl
    | with_reducible first
      | intro _ | apply State.raise_kept | apply State.record_kept | apply State.tunPurge_kept | apply State.wr_kept
      | apply Kept.ite | apply Kept.foldl | dsimp only
    | fail_if_no_progress with_reducible apply Kept.upd

theorem State.leaveActive_kept {s : State} (hk : Kept A P s0 s)
    (hA : ∀ a ∈ ([.pend, .cnp, .ust, .ingress] : List Area), a ∈ A)
    (hP : ∀ p ∈ ([.pw, .rcd, .cnp, .ust] : List Part), p ∈ P) :
    Kept A P s0 (State.leaveActive s) := by
  unfold State.leaveActive
  repeat' first
    | with_reducible assumption | exact inA hA rfl | exact subA hA rfl | exact .inl (inP hP rfl) | exact subP hP rfl
    | with_reducible first
      | intro _ | apply State.setJoin_kept | apply Kept.ite | dsimp only

theorem State.goSilent_kept {s : State} (hk : Kept A P s0 s)
    (hA : ∀ a ∈ ([.pend, .cnp, .ust, .ingress] : List Area), a ∈ A)
    (hP : ∀ p ∈ ([.pw, .rcd, .cnp, .ust] : List Part), p ∈ P) :
    Kept A P s0 (State.goSilent s) := by
  unfold State.goSilent
  repeat' first
    | with_reducible assumption | exact inA hA rfl | exact subA hA rfl | exact .inl (inP hP rfl) | exact subP hP rfl
    | with_reducible first
      | intro _ | apply State.setJoin_kept | apply Kept.ite | dsimp only

theorem State.inaComplete_kept {s : State} (hk : Kept A P s0 s) (hA : ∀ a ∈ ([.cnp] : List Area), a ∈ A)
    (hP : ∀ p ∈ ([.fab] : List Part), p ∈ P) :
    Kept A P s0 (State.inaComplete s) := by
  unfold State.inaComplete
  repeat' first
    | with_reducible assumption | exact inA hA rfl | exact subA hA rfl | exact .inl (inP hP rfl) | exact subP hP rfl
    | with_reducible exact rfl | exact .inr rfl
    | with_reducible first
      | intro _ | apply State.wr_kept | dsimp only
    | fail_if_no_progress with_reducible apply Kept.upd

theorem State.setSync_kept {s : State} (hk : Kept A P s0 s) {st : Nat}
    (hA : ∀ a ∈ ([.pend, .cnp, .ust, .ingress] : List Area), a ∈ A)
    (hP : ∀ p ∈ ([.pw, .rcd, .cnp, .fab, .ust] : List Part), p ∈ P) :
    Kept A P s0 (State.setSync s st) := by
  unfold State.setSync
  repeat' first
    | with_reducible assumption | exact inA hA rfl | exact subA hA rfl | exact .inl (inP hP rfl) | exact subP hP rfl
    | with_reducible exact rfl | exact .inr rfl
    | with_reducible first
      | intro _ | apply State.inaComplete_kept | apply State.leaveActive_kept | apply State.raise_kept
      | apply State.record_kept | apply State.wr_kept | apply Kept.ite | dsimp only
    | fail_if_no_progress with_reducible apply Kept.upd

theorem State.setHbuf_kept {s : State} (hk : Kept A P s0 s) {h : Nat} {x : HBuf}
    (hP : ∀ p ∈ ([.cnp] : List Part), p ∈ P) :
    Kept A P s0 (State.setHbuf s h x) := by
  unfold State.setHbuf
  repeat' first
    | with_reducible assumption | exact .inl (inP hP rfl) | exact subP hP rfl | with_reducible exact rfl
    | exact .inr rfl
    | with_reducible first
      | intro _ | dsimp only
    | fail_if_no_progress with_reducible apply Kept.upd

theorem swapBytes_wf (a n : Nat) (bs : List (Option Byte)) {m : Tbl Byte} (h : tblWf m = true) :
    tblWf (swapBytes a n bs m) = true := by
  unfold swapBytes
  generalize List.range n = l
  induction l generalizing m with
  | nil => exact h
  | cons x r ih =>
    apply ih
    show tblWf (match (bs[x]?).join with | some b => tblPut (a + x) b m | none => tblDel (a + x) m) = true
    split
    · exact tblWf_put _ _ h
    · exact tblWf_del _ h

theorem State.hbufCommit_kept {s : State} (hk : Kept A P s0 s) {h : Nat} (hA : ∀ a ∈ ([.hbuf] : List Area), a ∈ A)
    (hP : ∀ p ∈ ([.mem, .cnp] : List Part), p ∈ P) : Kept A P s0 (State.hbufCommit s h) := by
  unfold State.hbufCommit
  have hm : s.Canon → tblWf (swapBytes (hbufAddr h) 0x800 (s.hbuf h).front s.mem) = true :=
    fun c => swapBytes_wf (hbufAddr h) 0x800 (s.hbuf h).front c.2
  dsimp only
  revert hm
  generalize swapBytes (hbufAddr h) 0x800 (s.hbuf h).front s.mem = m
  intro hm
  have hu : Kept A P s0 { s with mem := m } :=
    Kept.parts hk rfl rfl (fun q hq => by cases q <;> first | rfl | exact absurd (inP hP rfl) hq)
      fun c => ⟨c.1, hm c, c.3, c.4, c.5⟩
  exact State.tick_kept (State.wr_kept (State.setHbuf_kept hu (subP hP rfl)) (inA hA rfl)) (inA hA rfl)

theorem execHostBufferCommit_kept {s : State} (hk : Kept A P s0 s) {h : Fin 64} {t : Nat}
    (hA : ∀ a ∈ ([.hbuf] : List Area), a ∈ A) (hP : ∀ p ∈ ([.now, .mem, .resp, .out, .cnp] : List Part), p ∈ P) :
    KeptOut A P s0 (execHostBufferCommit h t s) := by
  unfold execHostBufferCommit
  repeat' first
    | with_reducible assumption | exact inA hA rfl | exact subA hA rfl | exact .inl (inP hP rfl) | exact subP hP rfl
    | with_reducible first
      | intro _ | apply KeptOut.next | apply State.begin_kept | apply State.hbufCommit_kept | apply Kept.ite
      | apply KeptOut.ite | dsimp only

theorem State.setBlz_kept {s : State} (hk : Kept A P s0 s) {b : Nat} {x : Blz}
    (hP : ∀ p ∈ ([.cnp] : List Part), p ∈ P) :
    Kept A P s0 (State.setBlz s b x) := by
  unfold State.setBlz
  repeat' first
    | with_reducible assumption | exact .inl (inP hP rfl) | exact subP hP rfl | with_reducible exact rfl
    | exact .inr rfl
    | with_reducible first
      | intro _ | dsimp only
    | fail_if_no_progress with_reducible apply Kept.upd

theorem State.hbufReceive_kept {s : State} (hk : Kept A P s0 s) {h stamp : Nat} {data : List Byte}
    (hA : ∀ a ∈ ([.pend, .ecc, .cpc, .hbuf, .cvu, .ingress] : List Area), a ∈ A)
    (hP : ∀ p ∈ ([.mem, .leMem, .pw, .rcd, .cop, .ecc, .cnp, .cvu] : List Part), p ∈ P) :
    Kept A P s0 (State.hbufReceive s h stamp data) := by
  unfold State.hbufReceive
  repeat' first
    | with_reducible assumption | exact inA hA rfl | exact subA hA rfl | exact .inl (inP hP rfl) | exact subP hP rfl
    | with_reducible exact rfl | exact .inr rfl
    | with_reducible first
      | intro _ | apply State.mergeStore_kept | apply State.raise_kept | apply State.setHbuf_kept
      | apply State.tick_kept | apply State.wr_kept | apply Kept.ite | refine Kept.snd ?_ (by assumption)
      | refine Kept.fst ?_ (by assumption) | split | dsimp only
    | fail_if_no_progress with_reducible apply Kept.upd

theorem State.blazeLost_kept {s : State} (hk : Kept A P s0 s) {b : Nat} {k : Sink} {pwrfail unres : Bool}
    (hA : ∀ a ∈ ([.pend, .cnp, .hbuf] : List Area), a ∈ A) (hP : ∀ p ∈ ([.cnp] : List Part), p ∈ P) :
    Kept A P s0 (State.blazeLost s b k pwrfail unres) := by
  unfold State.blazeLost
  repeat' first
    | with_reducible assumption | exact inA hA rfl | exact subA hA rfl | exact .inl (inP hP rfl) | exact subP hP rfl
    | with_reducible exact rfl | exact .inr rfl
    | with_reducible first
      | intro _ | apply State.raise_kept | apply State.setBlz_kept | apply State.wr_kept | apply Kept.ite | split
      | dsimp only
    | fail_if_no_progress with_reducible apply Kept.upd

theorem State.copyShown_kept {s : State} (hk : Kept A P s0 s) {b : Nat} {rep notsafe : Bool} {node : Nat}
    (hA : ∀ a ∈ ([.cnp] : List Area), a ∈ A) (hP : ∀ p ∈ ([.cnp] : List Part), p ∈ P) :
    Kept A P s0 (State.copyShown s b rep notsafe node) := by
  unfold State.copyShown
  repeat' first
    | with_reducible assumption | exact inA hA rfl | exact subA hA rfl | exact .inl (inP hP rfl) | exact subP hP rfl
    | with_reducible exact rfl | exact .inr rfl
    | with_reducible first
      | intro _ | apply State.setBlz_kept | apply State.wr_kept | dsimp only
    | fail_if_no_progress with_reducible apply Kept.upd

theorem State.blazeDeliver_kept {s : State}
    (hk : Kept A P s0 s) {b : Nat} {k : Sink} {payload : List Byte} {rep notsafe : Bool} {node : Nat}
    (hA : ∀ a ∈ ([.pend, .ecc, .cpc, .cnp, .hbuf, .cvu, .ingress] : List Area), a ∈ A)
    (hP : ∀ p ∈ ([.mem, .leMem, .pw, .rcd, .cop, .ecc, .cnp, .cvu] : List Part), p ∈ P) :
    Kept A P s0 (State.blazeDeliver s b k payload rep notsafe node) := by
  unfold State.blazeDeliver
  repeat' first
    | with_reducible assumption | exact inA hA rfl | exact subA hA rfl | exact .inl (inP hP rfl) | exact subP hP rfl
    | with_reducible exact rfl | exact .inr rfl
    | with_reducible first
      | intro _ | apply State.copyShown_kept | apply State.hbufReceive_kept | apply State.raise_kept
      | apply State.setBlz_kept | apply State.wr_kept | apply Kept.ite | split | dsimp only
    | fail_if_no_progress with_reducible apply Kept.upd

theorem State.blazeCounted_kept {s : State} (hk : Kept A P s0 s) {f : Fld} (hf : f.area ∈ A)
    (hP : ∀ p ∈ ([.cnp] : List Part), p ∈ P) :
    Kept A P s0 (State.blazeCounted s f) := by
  unfold State.blazeCounted
  repeat' first
    | with_reducible assumption | exact .inl (inP hP rfl) | exact subP hP rfl | with_reducible exact rfl
    | exact .inr rfl
    | with_reducible first
      | intro _ | apply State.bump_kept | dsimp only
    | fail_if_no_progress with_reducible apply Kept.upd

/-! ### Machine/Cvu.lean -/

theorem State.setCtx_kept {s : State} (hk : Kept A P s0 s) {c : Nat} {x : Ctx}
    (hP : ∀ p ∈ ([.cvu] : List Part), p ∈ P) :
    Kept A P s0 (State.setCtx s c x) := by
  unfold State.setCtx
  repeat' first
    | with_reducible assumption | exact .inl (inP hP rfl) | exact subP hP rfl | with_reducible exact rfl
    | exact .inr rfl
    | with_reducible first
      | intro _ | dsimp only
    | fail_if_no_progress with_reducible apply Kept.upd

theorem State.raiseOnce_kept {s : State} (hk : Kept A P s0 s) {n : Nat} (hA : ∀ a ∈ ([.pend] : List Area), a ∈ A)
    (hP : ∀ p ∈ ([.cvu] : List Part), p ∈ P) :
    Kept A P s0 (State.raiseOnce s n) := by
  unfold State.raiseOnce
  repeat' first
    | with_reducible assumption | exact inA hA rfl | exact subA hA rfl | exact .inl (inP hP rfl) | exact subP hP rfl
    | with_reducible exact rfl | exact .inr rfl
    | with_reducible first
      | intro _ | apply State.raise_kept | apply Kept.ite | dsimp only
    | fail_if_no_progress with_reducible apply Kept.upd

theorem State.syncCtx_kept {s : State} (hk : Kept A P s0 s) {c : Nat} (hA : ∀ a ∈ ([.cvu] : List Area), a ∈ A) :
    Kept A P s0 (State.syncCtx s c) := by
  unfold State.syncCtx
  repeat' first
    | with_reducible assumption | exact inA hA rfl | exact subA hA rfl
    | with_reducible first
      | intro _ | apply State.wrBit_kept | dsimp only

theorem State.ctxLost_kept {s : State} (hk : Kept A P s0 s) {c : Nat} {count pwrfail : Bool}
    (hA : ∀ a ∈ ([.pend, .cnp, .hbuf, .cvu] : List Area), a ∈ A) (hP : ∀ p ∈ ([.cnp, .cvu] : List Part), p ∈ P) :
    Kept A P s0 (State.ctxLost s c count pwrfail) := by
  unfold State.ctxLost
  repeat' first
    | with_reducible assumption | exact inA hA rfl | exact subA hA rfl | exact .inl (inP hP rfl) | exact subP hP rfl
    | with_reducible exact rfl | exact .inr rfl
    | with_reducible first
      | intro _ | apply State.blazeLost_kept | apply State.bump_kept | apply State.raiseOnce_kept
      | apply State.setCtx_kept | apply State.syncCtx_kept | apply State.wr_kept | apply Kept.ite | split | dsimp only
    | fail_if_no_progress with_reducible apply Kept.upd

theorem State.ctxExpire_kept {s : State} (hk : Kept A P s0 s) {c : Nat}
    (hA : ∀ a ∈ ([.pend, .cnp, .hbuf, .cvu] : List Area), a ∈ A) (hP : ∀ p ∈ ([.cnp, .cvu] : List Part), p ∈ P) :
    Kept A P s0 (State.ctxExpire s c) := by
  unfold State.ctxExpire
  repeat' first
    | with_reducible assumption | exact inA hA rfl | exact subA hA rfl | exact .inl (inP hP rfl) | exact subP hP rfl
    | with_reducible first
      | intro _ | apply State.ctxLost_kept | apply Kept.ite | dsimp only

theorem State.ctxTimeout_kept {s : State} (hk : Kept A P s0 s) {c : Nat}
    (hA : ∀ a ∈ ([.pend, .cnp, .hbuf, .cvu] : List Area), a ∈ A) (hP : ∀ p ∈ ([.cnp, .cvu] : List Part), p ∈ P) :
    Kept A P s0 (State.ctxTimeout s c) := by
  unfold State.ctxTimeout
  repeat' first
    | with_reducible assumption | exact inA hA rfl | exact subA hA rfl | exact .inl (inP hP rfl) | exact subP hP rfl
    | with_reducible first
      | intro _ | apply State.ctxExpire_kept | apply Kept.ite | dsimp only

theorem execContextTimeout_kept {s : State} (hk : Kept A P s0 s) {c : Fin 128} {t : Nat}
    (hA : ∀ a ∈ ([.pend, .cnp, .hbuf, .cvu] : List Area), a ∈ A)
    (hP : ∀ p ∈ ([.now, .resp, .out, .cnp, .cvu] : List Part), p ∈ P) :
    KeptOut A P s0 (execContextTimeout c t s) := by
  unfold execContextTimeout
  repeat' first
    | with_reducible assumption | exact inA hA rfl | exact subA hA rfl | exact .inl (inP hP rfl) | exact subP hP rfl
    | with_reducible first
      | intro _ | apply KeptOut.next | apply State.begin_kept | apply State.ctxTimeout_kept | dsimp only

theorem State.ctxDelivered_kept {s : State} (hk : Kept A P s0 s) {c seq : Nat}
    (hA : ∀ a ∈ ([.pend, .cvu] : List Area), a ∈ A) (hP : ∀ p ∈ ([.cvu] : List Part), p ∈ P) :
    Kept A P s0 (State.ctxDelivered s c seq) := by
  unfold State.ctxDelivered
  repeat' first
    | with_reducible assumption | exact inA hA rfl | exact subA hA rfl | exact .inl (inP hP rfl) | exact subP hP rfl
    | with_reducible exact rfl | exact .inr rfl
    | with_reducible first
      | intro _ | apply State.raiseOnce_kept | apply State.setCtx_kept | apply State.syncCtx_kept
      | apply State.wr_kept | apply Kept.ite | dsimp only
    | fail_if_no_progress with_reducible apply Kept.upd

theorem State.ctxReject_kept {s : State} (hk : Kept A P s0 s) {c code : Nat}
    (hA : ∀ a ∈ ([.pend, .cvu] : List Area), a ∈ A) (hP : ∀ p ∈ ([.cvu] : List Part), p ∈ P) :
    Kept A P s0 (State.ctxReject s c code) := by
  unfold State.ctxReject
  repeat' first
    | with_reducible assumption | exact inA hA rfl | exact subA hA rfl | exact .inl (inP hP rfl) | exact subP hP rfl
    | with_reducible first
      | intro _ | apply State.bump_kept | apply State.raiseOnce_kept | apply State.syncCtx_kept | apply State.wr_kept
      | dsimp only

theorem State.ctxDiff_kept {s : State} (hk : Kept A P s0 s) {c : Nat}
    (hA : ∀ a ∈ ([.pend, .cvu] : List Area), a ∈ A) (hP : ∀ p ∈ ([.cvu] : List Part), p ∈ P) :
    Kept A P s0 (State.ctxDiff s c) := by
  unfold State.ctxDiff
  repeat' first
    | with_reducible assumption | exact inA hA rfl | exact subA hA rfl | exact .inl (inP hP rfl) | exact subP hP rfl
    | with_reducible first
      | intro _ | apply State.bump_kept | apply State.raiseOnce_kept | apply State.syncCtx_kept | apply State.wr_kept
      | dsimp only

theorem State.ctxMiss_kept {s : State} (hk : Kept A P s0 s) {c : Nat} {was : Bool}
    (hA : ∀ a ∈ ([.pend, .cvu] : List Area), a ∈ A) (hP : ∀ p ∈ ([.cvu] : List Part), p ∈ P) :
    Kept A P s0 (State.ctxMiss s c was) := by
  unfold State.ctxMiss
  repeat' first
    | with_reducible assumption | exact inA hA rfl | exact subA hA rfl | exact .inl (inP hP rfl) | exact subP hP rfl
    | with_reducible first
      | intro _ | apply State.bump_kept | apply State.raiseOnce_kept | apply State.syncCtx_kept | apply State.wr_kept
      | apply Kept.ite | dsimp only

theorem State.ctxAlive_kept {s : State} (hk : Kept A P s0 s) {c code : Nat} {m : List Byte}
    (hA : ∀ a ∈ ([.cvu] : List Area), a ∈ A) (hP : ∀ p ∈ ([.cvu] : List Part), p ∈ P) :
    Kept A P s0 (State.ctxAlive s c code m) := by
  unfold State.ctxAlive
  repeat' first
    | with_reducible assumption | exact inA hA rfl | exact subA hA rfl | exact .inl (inP hP rfl) | exact subP hP rfl
    | with_reducible exact rfl | exact .inr rfl
    | with_reducible first
      | intro _ | apply State.setCtx_kept | apply State.wr_kept | apply Kept.ite | dsimp only
    | fail_if_no_progress with_reducible apply Kept.upd

theorem State.ctxBuild_kept {s : State} (hk : Kept A P s0 s) {c paylen time : Nat} {user : List Byte}
    (hA : ∀ a ∈ ([.cvu] : List Area), a ∈ A) (hP : ∀ p ∈ ([.cvu] : List Part), p ∈ P) :
    Kept A P s0 (State.ctxBuild s c paylen time user).2 := by
  unfold State.ctxBuild
  repeat' first
    | with_reducible assumption | exact inA hA rfl | exact subA hA rfl | exact .inl (inP hP rfl) | exact subP hP rfl
    | with_reducible exact rfl | exact .inr rfl
    | with_reducible first
      | intro _ | apply State.setCtx_kept | apply State.wr_kept | split | dsimp only
    | fail_if_no_progress with_reducible apply Kept.upd

theorem State.unitSafe_kept {s : State} (hk : Kept A P s0 s) {u : Nat} (hA : ∀ a ∈ ([.cvu] : List Area), a ∈ A) :
    Kept A P s0 (State.unitSafe s u) := by
  unfold State.unitSafe
  repeat' first
    | with_reducible assumption | exact inA hA rfl | exact subA hA rfl
    | with_reducible first
      | intro _ | apply State.wr_kept | apply State.wr64_kept | apply Kept.ite | dsimp only

theorem State.ctxLock_kept {s : State} (hk : Kept A P s0 s) (hA : ∀ a ∈ ([.pend, .cvu] : List Area), a ∈ A) :
    Kept A P s0 (State.ctxLock s) := by
  unfold State.ctxLock
  repeat' first
    | with_reducible assumption | exact inA hA rfl | exact subA hA rfl | with_reducible exact rfl | exact .inr rfl
    | with_reducible first
      | intro _ | apply State.raise_kept | apply State.unitSafe_kept | apply State.wr_kept | apply Kept.ite | split
      | dsimp only
    | fail_if_no_progress with_reducible apply Kept.upd

theorem State.dropCopies_kept {s : State} (hk : Kept A P s0 s) (hP : ∀ p ∈ ([.cnp] : List Part), p ∈ P) :
    Kept A P s0 (State.dropCopies s) := by
  unfold State.dropCopies
  repeat' first
    | with_reducible assumption | exact .inl (inP hP rfl) | exact subP hP rfl | with_reducible exact rfl
    | exact .inr rfl
    | with_reducible first
      | intro _ | apply State.setBlz_kept | apply Kept.ite | apply Kept.foldl | dsimp only
    | fail_if_no_progress with_reducible apply Kept.upd

theorem State.ctxsLost_kept {s : State} (hk : Kept A P s0 s)
    (hA : ∀ a ∈ ([.pend, .cnp, .hbuf, .cvu] : List Area), a ∈ A) (hP : ∀ p ∈ ([.cnp, .cvu] : List Part), p ∈ P) :
    Kept A P s0 (State.ctxsLost s) := by
  unfold State.ctxsLost
  repeat' first
    | with_reducible assumption | exact inA hA rfl | exact subA hA rfl | exact .inl (inP hP rfl) | exact subP hP rfl
    | with_reducible first
      | intro _ | apply State.ctxLost_kept | apply Kept.foldl | dsimp only

theorem State.cvuStop_kept {s : State} (hk : Kept A P s0 s) (hP : ∀ p ∈ ([.cnp, .cvu] : List Part), p ∈ P) :
    Kept A P s0 (State.cvuStop s) := by
  unfold State.cvuStop
  repeat' first
    | with_reducible assumption | exact .inl (inP hP rfl) | exact subP hP rfl | with_reducible exact rfl
    | exact .inr rfl
    | with_reducible first
      | intro _ | apply State.dropCopies_kept | dsimp only
    | fail_if_no_progress with_reducible apply Kept.upd

theorem State.cvuReset_kept {s : State} (hk : Kept A P s0 s)
    (hA : ∀ a ∈ ([.pend, .cnp, .hbuf, .cvu] : List Area), a ∈ A) (hP : ∀ p ∈ ([.cnp, .cvu] : List Part), p ∈ P) :
    Kept A P s0 (State.cvuReset s) := by
  unfold State.cvuReset
  repeat' first
    | with_reducible assumption | exact inA hA rfl | exact subA hA rfl | exact .inl (inP hP rfl) | exact subP hP rfl
    | exact fun a h => mem_of_inArea hA h (hm := rfl) | exact fun a _ => hA _ (mem_allAreas _)
    | with_reducible first
      | intro _ | apply State.ctxsLost_kept | apply State.cvuStop_kept | apply State.restore_kept
      | apply State.unitSafe_kept | apply Kept.foldl | dsimp only

theorem execCvuReset_kept {s : State} (hk : Kept A P s0 s) {t : Nat}
    (hA : ∀ a ∈ ([.pend, .cnp, .hbuf, .cvu] : List Area), a ∈ A)
    (hP : ∀ p ∈ ([.now, .resp, .out, .cnp, .cvu] : List Part), p ∈ P) :
    KeptOut A P s0 (execCvuReset t s) := by
  unfold execCvuReset
  repeat' first
    | with_reducible assumption | exact inA hA rfl | exact subA hA rfl | exact .inl (inP hP rfl) | exact subP hP rfl
    | with_reducible first
      | intro _ | apply KeptOut.next | apply State.begin_kept | apply State.cvuReset_kept | apply Kept.ite
      | apply KeptOut.ite | dsimp only

theorem execCvuResetDone_kept {s : State} (hk : Kept A P s0 s) {t : Nat}
    (hP : ∀ p ∈ ([.now, .resp, .out, .cvu] : List Part), p ∈ P) :
    KeptOut A P s0 (execCvuResetDone t s) := by
  unfold execCvuResetDone
  repeat' first
    | with_reducible assumption | exact .inl (inP hP rfl) | exact subP hP rfl | with_reducible exact rfl
    | exact .inr rfl
    | with_reducible first
      | intro _ | apply KeptOut.next | apply State.begin_kept | dsimp only
    | fail_if_no_progress with_reducible apply Kept.upd

/-! ### Machine/RootwayBase.lean -/

theorem State.setRwy_kept {s : State} (hk : Kept A P s0 s) {r : Rootway} (hP : ∀ p ∈ ([.rwy] : List Part), p ∈ P) :
    Kept A P s0 (State.setRwy s r) := by
  unfold State.setRwy
  repeat' first
    | with_reducible assumption | exact .inl (inP hP rfl) | exact subP hP rfl | with_reducible exact rfl
    | exact .inr rfl
    | with_reducible first
      | intro _ | dsimp only
    | fail_if_no_progress with_reducible apply Kept.upd

theorem State.rwDrain_kept {s : State} (hk : Kept A P s0 s) {n : Nat} {ms : List RwMsg}
    (hA : ∀ a ∈ ([.pend, .cnp, .cvu, .ingress] : List Area), a ∈ A)
    (hP : ∀ p ∈ ([.out, .pw, .rcd, .cnp, .fab, .cvu, .rwy] : List Part), p ∈ P) :
    Kept A P s0 (State.rwDrain s n ms) := by
  induction n generalizing s ms with
  | zero => unfold State.rwDrain; exact hk
  | succ n ih =>
    cases ms with
    | nil => exact hk
    | cons m r =>
      unfold State.rwDrain
      repeat' first
        | with_reducible assumption
        | exact inA hA rfl | exact subA hA rfl | exact .inl (inP hP rfl) | exact subP hP rfl
        | with_reducible exact rfl | exact .inr rfl
        | with_reducible intro _
        | with_reducible apply ih
        | with_reducible apply State.sendEt_kept
        | with_reducible apply Kept.ite
        | with_reducible apply State.setRwy_kept
        | with_reducible apply State.rwSent_kept
        | with_reducible dsimp only

theorem State.rwUnsend_kept {s : State} (hk : Kept A P s0 s) {drop : RwMsg → Bool}
    (hP : ∀ p ∈ ([.out, .cnp, .rwy] : List Part), p ∈ P) :
    Kept A P s0 (State.rwUnsend s drop) := by
  unfold State.rwUnsend
  repeat' first
    | with_reducible assumption | exact .inl (inP hP rfl) | exact subP hP rfl | with_reducible exact rfl
    | exact .inr rfl
    | with_reducible first
      | intro _ | apply State.mapQueues_kept | apply State.setRwy_kept | apply Kept.ite | dsimp only
    | fail_if_no_progress with_reducible apply Kept.upd

theorem State.rwFlush_kept {s : State} (hk : Kept A P s0 s)
    (hA : ∀ a ∈ ([.pend, .cnp, .cvu, .ingress] : List Area), a ∈ A)
    (hP : ∀ p ∈ ([.out, .pw, .rcd, .cnp, .fab, .cvu, .rwy] : List Part), p ∈ P) :
    Kept A P s0 (State.rwFlush s) := by
  unfold State.rwFlush
  repeat' first
    | with_reducible assumption | exact inA hA rfl | exact subA hA rfl | exact .inl (inP hP rfl) | exact subP hP rfl
    | with_reducible exact rfl | exact .inr rfl
    | with_reducible first
      | intro _ | apply State.rwDrain_kept | apply State.setRwy_kept | apply Kept.ite | dsimp only
    | fail_if_no_progress with_reducible apply Kept.upd

theorem State.rwPush_kept {s : State} (hk : Kept A P s0 s) {m : RwMsg}
    (hA : ∀ a ∈ ([.pend, .cnp, .cvu, .ingress] : List Area), a ∈ A)
    (hP : ∀ p ∈ ([.out, .pw, .rcd, .cnp, .fab, .cvu, .rwy] : List Part), p ∈ P) :
    Kept A P s0 (State.rwPush s m) := by
  unfold State.rwPush
  repeat' first
    | with_reducible assumption | exact inA hA rfl | exact subA hA rfl | exact .inl (inP hP rfl) | exact subP hP rfl
    | with_reducible exact rfl | exact .inr rfl
    | with_reducible first
      | intro _ | apply State.rwFlush_kept | apply State.setRwy_kept | dsimp only
    | fail_if_no_progress with_reducible apply Kept.upd

theorem State.answerHart_kept {s : State} (hk : Kept A P s0 s) {h : Nat} {r : Resp}
    (hP : ∀ p ∈ ([.resp, .out] : List Part), p ∈ P) :
    Kept A P s0 (State.answerHart s h r) := by
  unfold State.answerHart
  repeat' first
    | with_reducible assumption | exact .inl (inP hP rfl) | exact subP hP rfl
    | with_reducible first
      | intro _ | apply State.answer_kept | apply State.emit_kept | dsimp only

theorem State.rwTake_kept {s : State} (hk : Kept A P s0 s) {o : RwOp} (hP : ∀ p ∈ ([.rwy] : List Part), p ∈ P) :
    Kept A P s0 (State.rwTake s o) := by
  unfold State.rwTake
  repeat' first
    | with_reducible assumption | exact .inl (inP hP rfl) | exact subP hP rfl | with_reducible exact rfl
    | exact .inr rfl
    | with_reducible first
      | intro _ | apply State.setRwy_kept | dsimp only
    | fail_if_no_progress with_reducible apply Kept.upd

theorem State.dropTransactions_kept {s : State} (hk : Kept A P s0 s) {k : Nat}
    (hP : ∀ p ∈ ([.out, .cnp, .rwy] : List Part), p ∈ P) :
    Kept A P s0 (State.dropTransactions s k) := by
  unfold State.dropTransactions
  repeat' first
    | with_reducible assumption | exact .inl (inP hP rfl) | exact subP hP rfl | with_reducible exact rfl
    | exact .inr rfl
    | with_reducible first
      | intro _ | apply State.rwTake_kept | apply State.rwUnsend_kept | apply State.setRwy_kept | apply Kept.foldl
      | dsimp only
    | fail_if_no_progress with_reducible apply Kept.upd

theorem State.rwOpDone_kept {s : State} (hk : Kept A P s0 s) {o : RwOp} {status data : Nat}
    (hA : ∀ a ∈ ([.pend, .rwy] : List Area), a ∈ A) (hP : ∀ p ∈ ([.resp, .out, .rwy] : List Part), p ∈ P) :
    Kept A P s0 (State.rwOpDone s o status data) := by
  unfold State.rwOpDone
  repeat' first
    | with_reducible assumption | exact inA hA rfl | exact subA hA rfl | exact .inl (inP hP rfl) | exact subP hP rfl
    | with_reducible exact rfl | exact .inr rfl
    | with_reducible first
      | intro _ | apply State.answerHart_kept | apply State.bump_kept | apply State.raise_kept
      | apply State.rwTake_kept | apply State.setRwy_kept | apply State.wr_kept | apply Kept.ite | split | dsimp only
    | fail_if_no_progress with_reducible apply Kept.upd

theorem State.rwShowPosted_kept {s : State} (hk : Kept A P s0 s) (hA : ∀ a ∈ ([.rwy] : List Area), a ∈ A) :
    Kept A P s0 (State.rwShowPosted s) := by
  unfold State.rwShowPosted
  repeat' first
    | with_reducible assumption | exact inA hA rfl | exact subA hA rfl
    | with_reducible first
      | intro _ | apply State.wr_kept | apply Kept.foldl | dsimp only

theorem State.rwLog_kept {s : State} (hk : Kept A P s0 s) {p : RwPost} {status : Nat}
    (hA : ∀ a ∈ ([.pend, .rwy] : List Area), a ∈ A) (hP : ∀ p ∈ ([.rwy] : List Part), p ∈ P) :
    Kept A P s0 (State.rwLog s p status) := by
  unfold State.rwLog
  repeat' first
    | with_reducible assumption | exact inA hA rfl | exact subA hA rfl | exact .inl (inP hP rfl) | exact subP hP rfl
    | with_reducible exact rfl | exact .inr rfl
    | with_reducible first
      | intro _ | apply State.bump_kept | apply State.note_kept | apply State.raise_kept | apply State.setRwy_kept
      | apply State.wr_kept | apply State.wr64_kept | apply Kept.ite | split | dsimp only
    | fail_if_no_progress with_reducible apply Kept.upd

theorem State.rwFenceAnswer_kept {s : State} (hk : Kept A P s0 s) {h w : Nat}
    (hP : ∀ p ∈ ([.resp, .out, .rwy] : List Part), p ∈ P) :
    Kept A P s0 (State.rwFenceAnswer s h w) := by
  unfold State.rwFenceAnswer
  repeat' first
    | with_reducible assumption | exact .inl (inP hP rfl) | exact subP hP rfl | with_reducible exact rfl
    | exact .inr rfl
    | with_reducible first
      | intro _ | apply State.answerHart_kept | apply State.setRwy_kept | apply Kept.ite | dsimp only
    | fail_if_no_progress with_reducible apply Kept.upd

theorem State.rwFences_kept {s : State} (hk : Kept A P s0 s) (hP : ∀ p ∈ ([.resp, .out, .rwy] : List Part), p ∈ P) :
    Kept A P s0 (State.rwFences s) := by
  unfold State.rwFences
  repeat' first
    | with_reducible assumption | exact .inl (inP hP rfl) | exact subP hP rfl | with_reducible exact rfl
    | exact .inr rfl
    | with_reducible first
      | intro _ | apply State.rwFenceAnswer_kept | apply State.setRwy_kept | apply Kept.foldl | dsimp only
    | fail_if_no_progress with_reducible apply Kept.upd

theorem State.rwPostDone_kept {s : State} (hk : Kept A P s0 s) {p : RwPost} {status : Nat}
    (hA : ∀ a ∈ ([.pend, .rwy] : List Area), a ∈ A) (hP : ∀ p ∈ ([.resp, .out, .rwy] : List Part), p ∈ P) :
    Kept A P s0 (State.rwPostDone s p status) := by
  unfold State.rwPostDone
  repeat' first
    | with_reducible assumption | exact inA hA rfl | exact subA hA rfl | exact .inl (inP hP rfl) | exact subP hP rfl
    | with_reducible exact rfl | exact .inr rfl
    | with_reducible first
      | intro _ | apply State.rwFences_kept | apply State.rwLog_kept | apply State.rwShowPosted_kept
      | apply State.setRwy_kept | apply Kept.ite | dsimp only
    | fail_if_no_progress with_reducible apply Kept.upd

theorem State.rwFail_kept {s : State} (hk : Kept A P s0 s) {node : Nat → Bool} {status : Nat}
    (hA : ∀ a ∈ ([.pend, .rwy] : List Area), a ∈ A) (hP : ∀ p ∈ ([.resp, .out, .cnp, .rwy] : List Part), p ∈ P) :
    Kept A P s0 (State.rwFail s node status) := by
  unfold State.rwFail
  repeat' first
    | with_reducible assumption | exact inA hA rfl | exact subA hA rfl | exact .inl (inP hP rfl) | exact subP hP rfl
    | with_reducible first
      | intro _ | apply State.rwOpDone_kept | apply State.rwPostDone_kept | apply State.rwUnsend_kept
      | apply Kept.foldl | dsimp only

theorem State.rwResolve_kept {s : State} (hk : Kept A P s0 s) {w : Nat} (hA : ∀ a ∈ ([.rwy] : List Area), a ∈ A) :
    Kept A P s0 (State.rwResolve s w) := by
  unfold State.rwResolve
  repeat' first
    | with_reducible assumption | exact inA hA rfl | exact subA hA rfl
    | with_reducible first
      | intro _ | apply State.wr_kept | apply State.wrB_kept | apply Kept.ite | dsimp only

theorem State.tunResolve_kept {s : State} (hk : Kept A P s0 s) {t : Nat}
    (hA : ∀ a ∈ ([.pend, .ust] : List Area), a ∈ A) (hP : ∀ p ∈ ([.cnp, .ust] : List Part), p ∈ P) :
    Kept A P s0 (State.tunResolve s t) := by
  unfold State.tunResolve
  repeat' first
    | with_reducible assumption | exact inA hA rfl | exact subA hA rfl | exact .inl (inP hP rfl) | exact subP hP rfl
    | with_reducible first
      | intro _ | apply State.tunPurge_kept | apply State.wr_kept | apply State.wrB_kept | apply Kept.ite | dsimp only

theorem State.resolveAll_kept {s : State} (hk : Kept A P s0 s)
    (hA : ∀ a ∈ ([.pend, .rwy, .ust] : List Area), a ∈ A) (hP : ∀ p ∈ ([.cnp, .ust] : List Part), p ∈ P) :
    Kept A P s0 (State.resolveAll s) := by
  unfold State.resolveAll
  repeat' first
    | with_reducible assumption | exact inA hA rfl | exact subA hA rfl | exact .inl (inP hP rfl) | exact subP hP rfl
    | with_reducible first
      | intro _ | apply State.rwResolve_kept | apply State.tunResolve_kept | apply Kept.foldl | dsimp only

theorem State.rwRenumber_kept {s : State} (hk : Kept A P s0 s) {id : Nat → Nat}
    (hA : ∀ a ∈ ([.pend, .rwy, .ust] : List Area), a ∈ A)
    (hP : ∀ p ∈ ([.resp, .out, .cnp, .rwy, .ust] : List Part), p ∈ P) :
    Kept A P s0 (State.rwRenumber s id) := by
  unfold State.rwRenumber
  repeat' first
    | with_reducible assumption | exact inA hA rfl | exact subA hA rfl | exact .inl (inP hP rfl) | exact subP hP rfl
    | with_reducible exact rfl | exact .inr rfl
    | with_reducible first
      | intro _ | apply State.resolveAll_kept | apply State.rwFail_kept | apply State.setRwy_kept
      | apply State.wr_kept | apply Kept.foldl | dsimp only
    | fail_if_no_progress with_reducible apply Kept.upd

/-! ### Machine/Canopy.lean -/

theorem State.txSource_kept {s : State} (hk : Kept A P s0 s) {e : Entry} (hP : ∀ p ∈ ([.fresh] : List Part), p ∈ P) :
    Kept A P s0 (State.txSource s e).2 := by
  unfold State.txSource
  repeat' first
    | with_reducible assumption | exact .inl (inP hP rfl) | exact subP hP rfl | with_reducible exact rfl
    | exact .inr rfl
    | with_reducible first
      | intro _ | apply State.free_kept | apply Kept.ite | refine Kept.snd ?_ (by assumption)
      | refine Kept.fst ?_ (by assumption) | split | split | dsimp only
    | fail_if_no_progress with_reducible apply Kept.upd

theorem State.txEmpty_kept {s : State} (hk : Kept A P s0 s) {b : Nat} {valid : Bool}
    (hA : ∀ a ∈ ([.cnp] : List Area), a ∈ A) (hP : ∀ p ∈ ([.cnp] : List Part), p ∈ P) :
    Kept A P s0 (State.txEmpty s b valid) := by
  unfold State.txEmpty
  repeat' first
    | with_reducible assumption | exact inA hA rfl | exact subA hA rfl | exact .inl (inP hP rfl) | exact subP hP rfl
    | with_reducible first
      | intro _ | apply State.blazeCounted_kept | apply State.wrB_kept | dsimp only

theorem State.txSend_kept {s : State}
    (hk : Kept A P s0 s) {e : Entry} {flags : Nat} {payload : List Byte} {seed : Option Nat}
    (hA : ∀ a ∈ ([.cvu] : List Area), a ∈ A) (hP : ∀ p ∈ ([.out, .cvu] : List Part), p ∈ P) :
    Kept A P s0 (State.txSend s e flags payload seed) := by
  unfold State.txSend
  repeat' first
    | with_reducible assumption | exact inA hA rfl | exact subA hA rfl | exact .inl (inP hP rfl) | exact subP hP rfl
    | with_reducible exact rfl | exact .inr rfl
    | with_reducible first
      | intro _ | apply State.sendOn_kept | apply State.unitFrame_kept | dsimp only
    | fail_if_no_progress with_reducible apply Kept.upd

theorem State.ctxSends_kept {s : State} (hk : Kept A P s0 s) {c : Option Nat} {pay : List Byte}
    (hA : ∀ a ∈ ([.cvu] : List Area), a ∈ A) :
    Kept A P s0 (State.ctxSends s c pay) := by
  unfold State.ctxSends
  repeat' first
    | with_reducible assumption | exact inA hA rfl | exact subA hA rfl | with_reducible exact rfl | exact .inr rfl
    | with_reducible first
      | intro _ | apply State.wr_kept | split | dsimp only
    | fail_if_no_progress with_reducible apply Kept.upd

theorem State.txData_kept {s : State} (hk : Kept A P s0 s) {b : Nat} {e : Entry} {k : TxSource} {stamp : Nat}
    (hA : ∀ a ∈ ([.cnp, .cvu] : List Area), a ∈ A) (hP : ∀ p ∈ ([.out, .cnp, .cvu] : List Part), p ∈ P) :
    Kept A P s0 (State.txData s b e k stamp) := by
  unfold State.txData
  repeat' first
    | with_reducible assumption | exact inA hA rfl | exact subA hA rfl | exact .inl (inP hP rfl) | exact subP hP rfl
    | with_reducible exact rfl | exact .inr rfl
    | with_reducible first
      | intro _ | apply State.ctxBuild_kept | apply State.ctxSends_kept | apply State.setBlz_kept
      | apply State.txEmpty_kept | apply State.txSend_kept | apply State.wr_kept | apply Kept.ite
      | refine Kept.snd ?_ (by assumption) | refine Kept.fst ?_ (by assumption) | split | split | dsimp only
    | fail_if_no_progress with_reducible apply Kept.upd

theorem State.txRootway_kept {s : State} (hk : Kept A P s0 s) {b : Nat} {e : Entry} {plane : Nat}
    (hA : ∀ a ∈ ([.cvu] : List Area), a ∈ A) (hP : ∀ p ∈ ([.out, .cvu, .rwy] : List Part), p ∈ P) :
    Kept A P s0 (State.txRootway s b e plane) := by
  unfold State.txRootway
  repeat' first
    | with_reducible assumption | exact inA hA rfl | exact subA hA rfl | exact .inl (inP hP rfl) | exact subP hP rfl
    | with_reducible exact rfl | exact .inr rfl
    | with_reducible first
      | intro _ | apply State.rwSent_kept | apply State.sendOn_kept | apply State.setRwy_kept
      | apply State.unitFrame_kept | apply Kept.ite | split | dsimp only
    | fail_if_no_progress with_reducible apply Kept.upd

theorem State.blazeDue_kept {s : State} (hk : Kept A P s0 s) {b : Nat}
    (hA : ∀ a ∈ ([.cnp, .cvu] : List Area), a ∈ A)
    (hP : ∀ p ∈ ([.out, .fresh, .cnp, .cvu, .rwy] : List Part), p ∈ P) :
    Kept A P s0 (State.blazeDue s b) := by
  unfold State.blazeDue
  repeat' first
    | with_reducible assumption | exact inA hA rfl | exact subA hA rfl | exact .inl (inP hP rfl) | exact subP hP rfl
    | with_reducible exact rfl | exact .inr rfl
    | with_reducible first
      | intro _ | apply State.txData_kept | apply State.txEmpty_kept | apply State.txRootway_kept
      | apply State.txSend_kept | apply State.txSource_kept | apply State.wr_kept | apply Kept.ite
      | refine Kept.snd ?_ (by assumption) | refine Kept.fst ?_ (by assumption) | split | split | dsimp only
    | fail_if_no_progress with_reducible apply Kept.upd

theorem execBlazeDue_kept {s : State} (hk : Kept A P s0 s) {b : Fin 1024} {t : Nat}
    (hA : ∀ a ∈ ([.cnp, .cvu] : List Area), a ∈ A)
    (hP : ∀ p ∈ ([.now, .resp, .out, .fresh, .cnp, .cvu, .rwy] : List Part), p ∈ P) :
    KeptOut A P s0 (execBlazeDue b t s) := by
  unfold execBlazeDue
  repeat' first
    | with_reducible assumption | exact inA hA rfl | exact subA hA rfl | exact .inl (inP hP rfl) | exact subP hP rfl
    | with_reducible first
      | intro _ | apply KeptOut.next | apply State.begin_kept | apply State.blazeDue_kept | dsimp only

theorem State.cycleBad_kept {s : State} (hk : Kept A P s0 s) {why : Nat} (hP : ∀ p ∈ ([.cnp] : List Part), p ∈ P) :
    Kept A P s0 (State.cycleBad s why) := by
  unfold State.cycleBad
  repeat' first
    | with_reducible assumption | exact .inl (inP hP rfl) | exact subP hP rfl | with_reducible exact rfl
    | exact .inr rfl
    | with_reducible first
      | intro _ | apply Kept.ite | dsimp only
    | fail_if_no_progress with_reducible apply Kept.upd

theorem State.heardPwrfail_kept {s : State} (hk : Kept A P s0 s) {b : Nat} {e : Entry} {frame : List Byte}
    (hA : ∀ a ∈ ([.pend, .cnp, .hbuf, .cvu] : List Area), a ∈ A) (hP : ∀ p ∈ ([.cnp, .cvu] : List Part), p ∈ P) :
    Kept A P s0 (State.heardPwrfail s b e frame) := by
  unfold State.heardPwrfail
  repeat' first
    | with_reducible assumption | exact inA hA rfl | exact subA hA rfl | exact .inl (inP hP rfl) | exact subP hP rfl
    | with_reducible exact rfl | exact .inr rfl
    | with_reducible first
      | intro _ | apply State.blazeLost_kept | apply State.copyShown_kept | apply State.ctxLost_kept
      | apply State.setBlz_kept | apply State.wr_kept | apply Kept.ite | split | dsimp only
    | fail_if_no_progress with_reducible apply Kept.upd

theorem State.firstCopy_kept {s : State} (hk : Kept A P s0 s) {b : Nat} {e : Entry} {frame : List Byte}
    (hA : ∀ a ∈ ([.pend, .ecc, .cpc, .cnp, .hbuf, .cvu, .ingress] : List Area), a ∈ A)
    (hP : ∀ p ∈ ([.mem, .leMem, .pw, .rcd, .cop, .ecc, .cnp, .cvu] : List Part), p ∈ P) :
    Kept A P s0 (State.firstCopy s b e frame) := by
  unfold State.firstCopy
  repeat' first
    | with_reducible assumption | exact inA hA rfl | exact subA hA rfl | exact .inl (inP hP rfl) | exact subP hP rfl
    | with_reducible exact rfl | exact .inr rfl
    | with_reducible first
      | intro _ | apply State.blazeDeliver_kept | apply State.copyShown_kept | apply State.wr_kept | apply Kept.ite
      | split | dsimp only
    | fail_if_no_progress with_reducible apply Kept.upd

theorem State.heardOther_kept {s : State} (hk : Kept A P s0 s) {frame : List Byte}
    (hP : ∀ p ∈ ([.cnp] : List Part), p ∈ P) :
    Kept A P s0 (State.heardOther s frame) := by
  unfold State.heardOther
  repeat' first
    | with_reducible assumption | exact .inl (inP hP rfl) | exact subP hP rfl | with_reducible exact rfl
    | exact .inr rfl
    | with_reducible first
      | intro _ | apply Kept.ite | dsimp only
    | fail_if_no_progress with_reducible apply Kept.upd

theorem State.blazeWakes_kept {s : State} (hk : Kept A P s0 s) {b : Nat} {frame : List Byte}
    (hP : ∀ p ∈ ([.pmg] : List Part), p ∈ P) :
    Kept A P s0 (State.blazeWakes s b frame) := by
  unfold State.blazeWakes
  repeat' first
    | with_reducible assumption | exact .inl (inP hP rfl) | exact subP hP rfl
    | with_reducible first
      | intro _ | apply State.wakeEdge_kept | apply Kept.ite | dsimp only

theorem State.heardCopy_kept {s : State}
    (hk : Kept A P s0 s) {b : Nat} {e : Entry} {plane : Nat} {frame : List Byte}
    (hA : ∀ a ∈ ([.pend, .ecc, .cpc, .cnp, .hbuf, .cvu, .ingress] : List Area), a ∈ A)
    (hP : ∀ p ∈ ([.mem, .leMem, .pw, .rcd, .cop, .ecc, .cnp, .cvu, .pmg] : List Part), p ∈ P) :
    Kept A P s0 (State.heardCopy s b e plane frame) := by
  unfold State.heardCopy
  repeat' first
    | with_reducible assumption | exact inA hA rfl | exact subA hA rfl | exact .inl (inP hP rfl) | exact subP hP rfl
    | with_reducible exact rfl | exact .inr rfl
    | with_reducible first
      | intro _ | apply State.blazeWakes_kept | apply State.firstCopy_kept | apply State.heardOther_kept
      | apply State.heardPwrfail_kept | apply State.setBlz_kept | apply Kept.ite | dsimp only
    | fail_if_no_progress with_reducible apply Kept.upd

theorem State.heardFor_kept {s : State} (hk : Kept A P s0 s) {plane : Nat} {frame : List Byte} {b : Nat}
    (hA : ∀ a ∈ ([.pend, .ecc, .cpc, .cnp, .hbuf, .cvu, .ingress] : List Area), a ∈ A)
    (hP : ∀ p ∈ ([.mem, .leMem, .pw, .rcd, .cop, .ecc, .cnp, .cvu, .pmg] : List Part), p ∈ P) :
    Kept A P s0 (State.heardFor s plane frame b) := by
  unfold State.heardFor
  repeat' first
    | with_reducible assumption | exact inA hA rfl | exact subA hA rfl | exact .inl (inP hP rfl) | exact subP hP rfl
    | with_reducible first
      | intro _ | apply State.blazeCounted_kept | apply State.cycleBad_kept | apply State.heardCopy_kept
      | apply Kept.ite | dsimp only

theorem State.heard_kept {s : State} (hk : Kept A P s0 s) {plane : Nat} {frame : List Byte}
    (hA : ∀ a ∈ ([.pend, .ecc, .cpc, .cnp, .hbuf, .rwy, .cvu, .ingress] : List Area), a ∈ A)
    (hP : ∀ p ∈ ([.mem, .leMem, .resp, .out, .pw, .rcd, .cop, .ecc, .cnp, .cvu, .rwy, .pmg] : List Part), p ∈ P) :
    Kept A P s0 (State.heard s plane frame) := by
  unfold State.heard
  repeat' first
    | with_reducible assumption | exact inA hA rfl | exact subA hA rfl | exact .inl (inP hP rfl) | exact subP hP rfl
    | with_reducible exact rfl | exact .inr rfl
    | with_reducible first
      | intro _ | apply State.cycleBad_kept | apply State.emit_kept | apply State.heardFor_kept
      | apply State.heardOther_kept | apply State.rwFail_kept | apply State.unitFrame_kept | apply Kept.ite
      | apply Kept.foldl | split | dsimp only
    | fail_if_no_progress with_reducible apply Kept.upd

theorem State.blazeFrame_kept {s : State} (hk : Kept A P s0 s) {port : Nat} {frame : List Byte} {fcs : Bool}
    (hA : ∀ a ∈ ([.pend, .ecc, .cpc, .cnp, .hbuf, .rwy, .cvu, .ingress] : List Area), a ∈ A)
    (hP : ∀ p ∈ ([.mem, .leMem, .resp, .out, .pw, .rcd, .cop, .ecc, .cnp, .cvu, .rwy, .pmg] : List Part), p ∈ P) :
    Kept A P s0 (State.blazeFrame s port frame fcs) := by
  unfold State.blazeFrame
  repeat' first
    | with_reducible assumption | exact inA hA rfl | exact subA hA rfl | exact .inl (inP hP rfl) | exact subP hP rfl
    | with_reducible first
      | intro _ | apply State.bump_kept | apply State.cycleBad_kept | apply State.forwardTt_kept
      | apply State.heard_kept | apply Kept.ite | dsimp only

theorem execBlazeFrame_kept {s : State}
    (hk : Kept A P s0 s) {port : Fin 4} {frame : List Byte} {fcs : Bool} {t : Nat}
    (hA : ∀ a ∈ ([.pend, .ecc, .cpc, .cnp, .hbuf, .rwy, .cvu, .ingress] : List Area), a ∈ A)
    (hP : ∀ p ∈ ([.now, .mem, .leMem, .resp, .out, .pw, .rcd, .cop, .ecc, .cnp, .cvu, .rwy, .pmg] : List Part), p ∈ P) :
    KeptOut A P s0 (execBlazeFrame port frame fcs t s) := by
  unfold execBlazeFrame
  repeat' first
    | with_reducible assumption | exact inA hA rfl | exact subA hA rfl | exact .inl (inP hP rfl) | exact subP hP rfl
    | with_reducible first
      | intro _ | apply KeptOut.next | apply State.begin_kept | apply State.blazeFrame_kept | dsimp only

theorem State.refreshStatus_kept {s : State} (hk : Kept A P s0 s) {b : Nat} {unres : Bool}
    (hP : ∀ p ∈ ([.cnp] : List Part), p ∈ P) :
    Kept A P s0 (State.refreshStatus s b unres) := by
  unfold State.refreshStatus
  repeat' first
    | with_reducible assumption | exact .inl (inP hP rfl) | exact subP hP rfl | with_reducible exact rfl
    | exact .inr rfl
    | with_reducible first
      | intro _ | apply State.setBlz_kept | dsimp only
    | fail_if_no_progress with_reducible apply Kept.upd

theorem State.blazeEmpty_kept {s : State} (hk : Kept A P s0 s) {b : Nat} {k : Sink} {unres : Bool}
    (hA : ∀ a ∈ ([.pend, .cnp, .hbuf] : List Area), a ∈ A) (hP : ∀ p ∈ ([.cnp] : List Part), p ∈ P) :
    Kept A P s0 (State.blazeEmpty s b k unres) := by
  unfold State.blazeEmpty
  repeat' first
    | with_reducible assumption | exact inA hA rfl | exact subA hA rfl | exact .inl (inP hP rfl) | exact subP hP rfl
    | with_reducible first
      | intro _ | apply State.blazeCounted_kept | apply State.blazeLost_kept | apply State.bump_kept
      | apply State.refreshStatus_kept | apply Kept.ite | dsimp only

theorem State.blazeUnused_kept {s : State} (hk : Kept A P s0 s) {b : Nat} {k : Sink}
    (hA : ∀ a ∈ ([.pend, .cnp, .hbuf] : List Area), a ∈ A) (hP : ∀ p ∈ ([.cnp] : List Part), p ∈ P) :
    Kept A P s0 (State.blazeUnused s b k) := by
  unfold State.blazeUnused
  repeat' first
    | with_reducible assumption | exact inA hA rfl | exact subA hA rfl | exact .inl (inP hP rfl) | exact subP hP rfl
    | with_reducible first
      | intro _ | apply State.blazeEmpty_kept | apply State.copyShown_kept | apply Kept.ite | dsimp only

theorem State.judgeCopies_kept {s : State} (hk : Kept A P s0 s) {c paylen time : Nat} {alive : Option Nat}
    {l : List (Nat × List Byte)} (hA : ∀ a ∈ ([.cvu] : List Area), a ∈ A)
    (hP : ∀ p ∈ ([.cvu] : List Part), p ∈ P) : Kept A P s0 (State.judgeCopies s c paylen time alive l).1 := by
  induction l generalizing s with
  | nil => exact hk
  | cons x r ih =>
    exact ih (State.ctxAlive_kept hk (subA hA rfl) (subP hP rfl))

theorem State.judgeSafe_kept {s : State} (hk : Kept A P s0 s) {b : Nat} {e : Entry} {k : Sink} {c : Nat}
    (hA : ∀ a ∈ ([.pend, .ecc, .cpc, .cnp, .hbuf, .cvu, .ingress] : List Area), a ∈ A)
    (hP : ∀ p ∈ ([.mem, .leMem, .pw, .rcd, .cop, .ecc, .cnp, .cvu] : List Part), p ∈ P) :
    Kept A P s0 (State.judgeSafe s b e k c) := by
  unfold State.judgeSafe
  repeat' first
    | with_reducible assumption | exact inA hA rfl | exact subA hA rfl | exact .inl (inP hP rfl) | exact subP hP rfl
    | with_reducible exact rfl | exact .inr rfl
    | with_reducible first
      | intro _ | apply State.blazeDeliver_kept | apply State.blazeEmpty_kept | apply State.blazeUnused_kept
      | apply State.ctxDelivered_kept | apply State.ctxDiff_kept | apply State.ctxMiss_kept
      | apply State.ctxReject_kept | apply State.judgeCopies_kept | apply State.setBlz_kept | apply Kept.ite
      | apply Kept.foldl | apply Kept.foldl2 | refine Kept.snd ?_ (by assumption) | refine Kept.fst ?_ (by assumption)
      | split | split | dsimp only
    | fail_if_no_progress with_reducible apply Kept.upd

theorem State.blazeJudge_kept {s : State} (hk : Kept A P s0 s) {b : Nat}
    (hA : ∀ a ∈ ([.pend, .ecc, .cpc, .cnp, .hbuf, .cvu, .ingress] : List Area), a ∈ A)
    (hP : ∀ p ∈ ([.mem, .leMem, .pw, .rcd, .cop, .ecc, .cnp, .cvu] : List Part), p ∈ P) :
    Kept A P s0 (State.blazeJudge s b) := by
  unfold State.blazeJudge
  repeat' first
    | with_reducible assumption | exact inA hA rfl | exact subA hA rfl | exact .inl (inP hP rfl) | exact subP hP rfl
    | with_reducible exact rfl | exact .inr rfl
    | with_reducible first
      | intro _ | apply State.blazeCounted_kept | apply State.blazeEmpty_kept | apply State.blazeUnused_kept
      | apply State.ctxExpire_kept | apply State.judgeSafe_kept | apply State.setBlz_kept | apply Kept.ite | split
      | dsimp only
    | fail_if_no_progress with_reducible apply Kept.upd

theorem execBlazeJudgement_kept {s : State} (hk : Kept A P s0 s) {b : Fin 1024} {t : Nat}
    (hA : ∀ a ∈ ([.pend, .ecc, .cpc, .cnp, .hbuf, .cvu, .ingress] : List Area), a ∈ A)
    (hP : ∀ p ∈ ([.now, .mem, .leMem, .resp, .out, .pw, .rcd, .cop, .ecc, .cnp, .cvu] : List Part), p ∈ P) :
    KeptOut A P s0 (execBlazeJudgement b t s) := by
  unfold execBlazeJudgement
  repeat' first
    | with_reducible assumption | exact inA hA rfl | exact subA hA rfl | exact .inl (inP hP rfl) | exact subP hP rfl
    | with_reducible first
      | intro _ | apply KeptOut.next | apply State.begin_kept | apply State.blazeJudge_kept | dsimp only

theorem State.syncSlot_kept {s : State} (hk : Kept A P s0 s) (hA : ∀ a ∈ ([.cvu] : List Area), a ∈ A)
    (hP : ∀ p ∈ ([.out, .cvu] : List Part), p ∈ P) :
    Kept A P s0 (State.syncSlot s) := by
  unfold State.syncSlot
  repeat' first
    | with_reducible assumption | exact inA hA rfl | exact subA hA rfl | exact .inl (inP hP rfl) | exact subP hP rfl
    | with_reducible exact rfl | exact .inr rfl
    | with_reducible first
      | intro _ | apply State.sendOn_kept | apply State.unitFrame_kept | apply Kept.ite | dsimp only
    | fail_if_no_progress with_reducible apply Kept.upd

theorem execSyncSlot_kept {s : State} (hk : Kept A P s0 s) {t : Nat} (hA : ∀ a ∈ ([.cvu] : List Area), a ∈ A)
    (hP : ∀ p ∈ ([.now, .resp, .out, .cvu] : List Part), p ∈ P) :
    KeptOut A P s0 (execSyncSlot t s) := by
  unfold execSyncSlot
  repeat' first
    | with_reducible assumption | exact inA hA rfl | exact subA hA rfl | exact .inl (inP hP rfl) | exact subP hP rfl
    | with_reducible first
      | intro _ | apply KeptOut.next | apply State.begin_kept | apply State.syncSlot_kept | dsimp only

theorem State.measureResidence_kept {s : State} (hk : Kept A P s0 s) {plane res : Nat}
    (hA : ∀ a ∈ ([.cnp] : List Area), a ∈ A) (hP : ∀ p ∈ ([.cnp] : List Part), p ∈ P) :
    Kept A P s0 (State.measureResidence s plane res) := by
  unfold State.measureResidence
  repeat' first
    | with_reducible assumption | exact inA hA rfl | exact subA hA rfl | exact .inl (inP hP rfl) | exact subP hP rfl
    | with_reducible exact rfl | exact .inr rfl
    | with_reducible first
      | intro _ | apply State.wr_kept | split | dsimp only
    | fail_if_no_progress with_reducible apply Kept.upd

theorem State.setPlanErr_kept {s : State} (hk : Kept A P s0 s) {differs : Bool}
    (hA : ∀ a ∈ ([.pend, .cnp, .ust, .ingress] : List Area), a ∈ A)
    (hP : ∀ p ∈ ([.pw, .rcd, .cnp, .ust] : List Part), p ∈ P) :
    Kept A P s0 (State.setPlanErr s differs) := by
  unfold State.setPlanErr
  repeat' first
    | with_reducible assumption | exact inA hA rfl | exact subA hA rfl | exact .inl (inP hP rfl) | exact subP hP rfl
    | with_reducible first
      | intro _ | apply State.goSilent_kept | apply State.wrB_kept | apply Kept.ite | dsimp only

theorem State.syncFrame_kept {s : State}
    (hk : Kept A P s0 s) {port : Nat} {frame : List Byte} {fcs : Bool} {res : Nat}
    (hA : ∀ a ∈ ([.pend, .cnp, .ust, .cvu, .ingress] : List Area), a ∈ A)
    (hP : ∀ p ∈ ([.out, .pw, .rcd, .cnp, .cvu, .ust] : List Part), p ∈ P) :
    Kept A P s0 (State.syncFrame s port frame fcs res) := by
  unfold State.syncFrame
  repeat' first
    | with_reducible assumption | exact inA hA rfl | exact subA hA rfl | exact .inl (inP hP rfl) | exact subP hP rfl
    | with_reducible exact rfl | exact .inr rfl
    | with_reducible first
      | intro _ | apply State.bump_kept | apply State.forwardTt_kept | apply State.measureResidence_kept
      | apply State.setPlanErr_kept | apply State.unitFrame_kept | apply Kept.ite | dsimp only
    | fail_if_no_progress with_reducible apply Kept.upd

theorem execSyncFrame_kept {s : State}
    (hk : Kept A P s0 s) {port : Fin 4} {frame : List Byte} {fcs : Bool} {res t : Nat}
    (hA : ∀ a ∈ ([.pend, .cnp, .ust, .cvu, .ingress] : List Area), a ∈ A)
    (hP : ∀ p ∈ ([.now, .resp, .out, .pw, .rcd, .cnp, .cvu, .ust] : List Part), p ∈ P) :
    KeptOut A P s0 (execSyncFrame port frame fcs res t s) := by
  unfold execSyncFrame
  repeat' first
    | with_reducible assumption | exact inA hA rfl | exact subA hA rfl | exact .inl (inP hP rfl) | exact subP hP rfl
    | with_reducible first
      | intro _ | apply KeptOut.next | apply State.begin_kept | apply State.syncFrame_kept | dsimp only

theorem State.slewBy_kept {s : State} (hk : Kept A P s0 s) {c : Int} (hP : ∀ p ∈ ([.cnp] : List Part), p ∈ P) :
    Kept A P s0 (State.slewBy s c) := by
  unfold State.slewBy
  repeat' first
    | with_reducible assumption | exact .inl (inP hP rfl) | exact subP hP rfl | with_reducible exact rfl
    | exact .inr rfl
    | with_reducible first
      | intro _ | dsimp only
    | fail_if_no_progress with_reducible apply Kept.upd

theorem State.stepBy_kept {s : State} (hk : Kept A P s0 s) {c : Int}
    (hA : ∀ a ∈ ([.pend, .cnp, .ust, .ingress] : List Area), a ∈ A)
    (hP : ∀ p ∈ ([.pw, .rcd, .cnp, .ust, .pmg] : List Part), p ∈ P) :
    Kept A P s0 (State.stepBy s c) := by
  unfold State.stepBy
  repeat' first
    | with_reducible assumption | exact inA hA rfl | exact subA hA rfl | exact .inl (inP hP rfl) | exact subP hP rfl
    | with_reducible exact rfl | exact .inr rfl
    | with_reducible first
      | intro _ | apply State.leaveActive_kept | apply State.record_kept | apply State.wr_kept | apply Kept.ite
      | dsimp only
    | fail_if_no_progress with_reducible apply Kept.upd

theorem State.syncShow_kept {s : State}
    (hk : Kept A P s0 s) {good : List (Nat × Int)} {own dropped cons : Bool} {n : Nat}
    (hA : ∀ a ∈ ([.cnp] : List Area), a ∈ A) (hP : ∀ p ∈ ([.cnp] : List Part), p ∈ P) :
    Kept A P s0 (State.syncShow s good own dropped cons n) := by
  unfold State.syncShow
  repeat' first
    | with_reducible assumption | exact inA hA rfl | exact subA hA rfl | exact .inl (inP hP rfl) | exact subP hP rfl
    | with_reducible exact rfl | exact .inr rfl
    | with_reducible first
      | intro _ | apply State.wr_kept | apply State.wrB_kept | apply Kept.ite | apply Kept.foldl | split | dsimp only
    | fail_if_no_progress with_reducible apply Kept.upd

theorem State.syncFirst_kept {s : State} (hk : Kept A P s0 s) {lead none_ cons : Bool} {c : Option Int}
    (hA : ∀ a ∈ ([.pend, .cnp, .ust, .ingress] : List Area), a ∈ A)
    (hP : ∀ p ∈ ([.pw, .rcd, .cnp, .fab, .ust, .pmg] : List Part), p ∈ P) :
    Kept A P s0 (State.syncFirst s lead none_ cons c) := by
  unfold State.syncFirst
  repeat' first
    | with_reducible assumption | exact inA hA rfl | exact subA hA rfl | exact .inl (inP hP rfl) | exact subP hP rfl
    | with_reducible exact rfl | exact .inr rfl
    | with_reducible first
      | intro _ | apply State.setSync_kept | apply State.stepBy_kept | apply Kept.ite | split | dsimp only
    | fail_if_no_progress with_reducible apply Kept.upd

theorem State.syncGoes_kept {s : State} (hk : Kept A P s0 s) {st : Nat} {c : Option Int}
    (hA : ∀ a ∈ ([.pend, .cnp, .ust, .ingress] : List Area), a ∈ A)
    (hP : ∀ p ∈ ([.pw, .rcd, .cnp, .fab, .ust] : List Part), p ∈ P) :
    Kept A P s0 (State.syncGoes s st c) := by
  unfold State.syncGoes
  repeat' first
    | with_reducible assumption | exact inA hA rfl | exact subA hA rfl | exact .inl (inP hP rfl) | exact subP hP rfl
    | with_reducible exact rfl | exact .inr rfl
    | with_reducible first
      | intro _ | apply State.maxWr_kept | apply State.setSync_kept | apply State.slewBy_kept | apply Kept.ite | split
      | dsimp only
    | fail_if_no_progress with_reducible apply Kept.upd

theorem State.syncCorrect_kept {s : State} (hk : Kept A P s0 s)
    (hA : ∀ a ∈ ([.pend, .cnp, .ust, .ingress] : List Area), a ∈ A)
    (hP : ∀ p ∈ ([.pw, .rcd, .cnp, .fab, .ust, .pmg] : List Part), p ∈ P) :
    Kept A P s0 (State.syncCorrect s) := by
  unfold State.syncCorrect
  repeat' first
    | with_reducible assumption | exact inA hA rfl | exact subA hA rfl | exact .inl (inP hP rfl) | exact subP hP rfl
    | with_reducible exact rfl | exact .inr rfl
    | with_reducible first
      | intro _ | apply State.syncFirst_kept | apply State.syncGoes_kept | apply State.syncShow_kept
      | apply State.wr_kept | apply Kept.ite | apply Kept.foldl | split | dsimp only
    | fail_if_no_progress with_reducible apply Kept.upd

theorem execSyncCorrection_kept {s : State} (hk : Kept A P s0 s) {t : Nat}
    (hA : ∀ a ∈ ([.pend, .cnp, .ust, .ingress] : List Area), a ∈ A)
    (hP : ∀ p ∈ ([.now, .resp, .out, .pw, .rcd, .cnp, .fab, .ust, .pmg] : List Part), p ∈ P) :
    KeptOut A P s0 (execSyncCorrection t s) := by
  unfold execSyncCorrection
  repeat' first
    | with_reducible assumption | exact inA hA rfl | exact subA hA rfl | exact .inl (inP hP rfl) | exact subP hP rfl
    | with_reducible first
      | intro _ | apply KeptOut.next | apply State.begin_kept | apply State.syncCorrect_kept | dsimp only

theorem State.claimPut_kept {s : State} (hk : Kept A P s0 s) {c : Claim}
    (hA : ∀ a ∈ ([.pend, .cnp, .cvu, .ingress] : List Area), a ∈ A)
    (hP : ∀ p ∈ ([.out, .pw, .rcd, .cnp, .fab, .cvu, .rwy] : List Part), p ∈ P) :
    Kept A P s0 (State.claimPut s c) := by
  unfold State.claimPut
  repeat' first
    | with_reducible assumption | exact inA hA rfl | exact subA hA rfl | exact .inl (inP hP rfl) | exact subP hP rfl
    | with_reducible first
      | intro _ | apply State.claimMade_kept | apply State.sendEtBoth_kept | apply Kept.ite | dsimp only

theorem State.claimSend_kept {s : State} (hk : Kept A P s0 s) {c : Claim}
    (hA : ∀ a ∈ ([.pend, .cnp, .cvu, .ingress] : List Area), a ∈ A)
    (hP : ∀ p ∈ ([.out, .pw, .rcd, .cnp, .fab, .cvu, .rwy] : List Part), p ∈ P) :
    Kept A P s0 (State.claimSend s c) := by
  unfold State.claimSend
  repeat' first
    | with_reducible assumption | exact inA hA rfl | exact subA hA rfl | exact .inl (inP hP rfl) | exact subP hP rfl
    | with_reducible exact rfl | exact .inr rfl
    | with_reducible first
      | intro _ | apply State.claimPut_kept | dsimp only
    | fail_if_no_progress with_reducible apply Kept.upd

theorem State.claimsAgain_kept {s : State} (hk : Kept A P s0 s)
    (hA : ∀ a ∈ ([.pend, .cnp, .cvu, .ingress] : List Area), a ∈ A)
    (hP : ∀ p ∈ ([.out, .pw, .rcd, .cnp, .fab, .cvu, .rwy] : List Part), p ∈ P) :
    Kept A P s0 (State.claimsAgain s) := by
  unfold State.claimsAgain
  repeat' first
    | with_reducible assumption | exact inA hA rfl | exact subA hA rfl | exact .inl (inP hP rfl) | exact subP hP rfl
    | with_reducible first
      | intro _ | apply State.claimPut_kept | apply Kept.foldl | dsimp only

theorem State.setUse_kept {s : State} (hk : Kept A P s0 s) {u : SpareUse} (hP : ∀ p ∈ ([.cnp] : List Part), p ∈ P) :
    Kept A P s0 (State.setUse s u) := by
  unfold State.setUse
  repeat' first
    | with_reducible assumption | exact .inl (inP hP rfl) | exact subP hP rfl | with_reducible exact rfl
    | exact .inr rfl
    | with_reducible first
      | intro _ | dsimp only
    | fail_if_no_progress with_reducible apply Kept.upd

theorem State.claimRequest_kept {s : State} (hk : Kept A P s0 s) {paylen : Nat}
    (hA : ∀ a ∈ ([.pend, .cnp, .hbuf, .cvu, .ingress] : List Area), a ∈ A)
    (hP : ∀ p ∈ ([.out, .pw, .rcd, .cnp, .fab, .cvu, .rwy] : List Part), p ∈ P) :
    Kept A P s0 (State.claimRequest s paylen) := by
  unfold State.claimRequest
  repeat' first
    | with_reducible assumption | exact inA hA rfl | exact subA hA rfl | exact .inl (inP hP rfl) | exact subP hP rfl
    | with_reducible exact rfl | exact .inr rfl
    | with_reducible first
      | intro _ | apply State.claimRefused_kept | apply State.claimSend_kept | apply State.setUse_kept
      | apply State.wr_kept | apply Kept.ite | split | dsimp only
    | fail_if_no_progress with_reducible apply Kept.upd

theorem execClaimRequest_kept {s : State} (hk : Kept A P s0 s) {paylen : Fin 2048} {t : Nat}
    (hA : ∀ a ∈ ([.pend, .cnp, .hbuf, .cvu, .ingress] : List Area), a ∈ A)
    (hP : ∀ p ∈ ([.now, .resp, .out, .pw, .rcd, .cnp, .fab, .cvu, .rwy] : List Part), p ∈ P) :
    KeptOut A P s0 (execClaimRequest paylen t s) := by
  unfold execClaimRequest
  repeat' first
    | with_reducible assumption | exact inA hA rfl | exact subA hA rfl | exact .inl (inP hP rfl) | exact subP hP rfl
    | with_reducible first
      | intro _ | apply KeptOut.next | apply State.begin_kept | apply State.claimRequest_kept | apply Kept.ite
      | apply KeptOut.ite | dsimp only

theorem State.releaseRequest_kept {s : State} (hk : Kept A P s0 s)
    (hA : ∀ a ∈ ([.pend, .cnp, .cvu, .ingress] : List Area), a ∈ A)
    (hP : ∀ p ∈ ([.out, .pw, .rcd, .cnp, .fab, .cvu, .rwy] : List Part), p ∈ P) :
    Kept A P s0 (State.releaseRequest s) := by
  unfold State.releaseRequest
  repeat' first
    | with_reducible assumption | exact inA hA rfl | exact subA hA rfl | exact .inl (inP hP rfl) | exact subP hP rfl
    | with_reducible exact rfl | exact .inr rfl
    | with_reducible first
      | intro _ | apply State.claimRefused_kept | apply State.claimSend_kept | apply Kept.ite | split | dsimp only
    | fail_if_no_progress with_reducible apply Kept.upd

theorem execReleaseRequest_kept {s : State} (hk : Kept A P s0 s) {t : Nat}
    (hA : ∀ a ∈ ([.pend, .cnp, .cvu, .ingress] : List Area), a ∈ A)
    (hP : ∀ p ∈ ([.now, .resp, .out, .pw, .rcd, .cnp, .fab, .cvu, .rwy] : List Part), p ∈ P) :
    KeptOut A P s0 (execReleaseRequest t s) := by
  unfold execReleaseRequest
  repeat' first
    | with_reducible assumption | exact inA hA rfl | exact subA hA rfl | exact .inl (inP hP rfl) | exact subP hP rfl
    | with_reducible first
      | intro _ | apply KeptOut.next | apply State.begin_kept | apply State.releaseRequest_kept | apply Kept.ite
      | apply KeptOut.ite | dsimp only

theorem State.listenRequest_kept {s : State} (hk : Kept A P s0 s) {paylen : Nat}
    (hA : ∀ a ∈ ([.pend, .cnp, .hbuf, .ingress] : List Area), a ∈ A)
    (hP : ∀ p ∈ ([.pw, .rcd, .cnp] : List Part), p ∈ P) :
    Kept A P s0 (State.listenRequest s paylen) := by
  unfold State.listenRequest
  repeat' first
    | with_reducible assumption | exact inA hA rfl | exact subA hA rfl | exact .inl (inP hP rfl) | exact subP hP rfl
    | with_reducible exact rfl | exact .inr rfl
    | with_reducible first
      | intro _ | apply State.claimRefused_kept | apply State.setUse_kept | apply State.wr_kept | apply Kept.ite
      | split | dsimp only
    | fail_if_no_progress with_reducible apply Kept.upd

theorem execListenRequest_kept {s : State} (hk : Kept A P s0 s) {paylen : Fin 2048} {t : Nat}
    (hA : ∀ a ∈ ([.pend, .cnp, .hbuf, .ingress] : List Area), a ∈ A)
    (hP : ∀ p ∈ ([.now, .resp, .out, .pw, .rcd, .cnp] : List Part), p ∈ P) :
    KeptOut A P s0 (execListenRequest paylen t s) := by
  unfold execListenRequest
  repeat' first
    | with_reducible assumption | exact inA hA rfl | exact subA hA rfl | exact .inl (inP hP rfl) | exact subP hP rfl
    | with_reducible first
      | intro _ | apply KeptOut.next | apply State.begin_kept | apply State.listenRequest_kept | apply Kept.ite
      | apply KeptOut.ite | dsimp only

theorem State.freeSegment_kept {s : State} (hk : Kept A P s0 s) {seg : Nat}
    (hA : ∀ a ∈ ([.pend, .cnp, .ust, .ingress] : List Area), a ∈ A)
    (hP : ∀ p ∈ ([.pw, .rcd, .cnp, .fab, .ust] : List Part), p ∈ P) :
    Kept A P s0 (State.freeSegment s seg) := by
  unfold State.freeSegment
  repeat' first
    | with_reducible assumption | exact inA hA rfl | exact subA hA rfl | exact .inl (inP hP rfl) | exact subP hP rfl
    | with_reducible exact rfl | exact .inr rfl
    | with_reducible first
      | intro _ | apply State.leaveActive_kept | apply State.wr_kept | apply Kept.ite | dsimp only
    | fail_if_no_progress with_reducible apply Kept.upd

theorem State.claimFrame_kept {s : State} (hk : Kept A P s0 s) {frame : List Byte}
    (hA : ∀ a ∈ ([.pend, .cnp, .ust, .ingress] : List Area), a ∈ A)
    (hP : ∀ p ∈ ([.pw, .rcd, .cnp, .fab, .ust] : List Part), p ∈ P) :
    Kept A P s0 (State.claimFrame s frame) := by
  unfold State.claimFrame
  repeat' first
    | with_reducible assumption | exact inA hA rfl | exact subA hA rfl | exact .inl (inP hP rfl) | exact subP hP rfl
    | with_reducible exact rfl | exact .inr rfl
    | with_reducible first
      | intro _ | apply State.claimAdd_kept | apply State.freeSegment_kept | apply State.freeSpare_kept
      | apply Kept.ite | dsimp only
    | fail_if_no_progress with_reducible apply Kept.upd

theorem execClaimFrame_kept {s : State} (hk : Kept A P s0 s) {frame : List Byte} {t : Nat}
    (hA : ∀ a ∈ ([.pend, .cnp, .ust, .ingress] : List Area), a ∈ A)
    (hP : ∀ p ∈ ([.now, .resp, .out, .pw, .rcd, .cnp, .fab, .ust] : List Part), p ∈ P) :
    KeptOut A P s0 (execClaimFrame frame t s) := by
  unfold execClaimFrame
  repeat' first
    | with_reducible assumption | exact inA hA rfl | exact subA hA rfl | exact .inl (inP hP rfl) | exact subP hP rfl
    | with_reducible first
      | intro _ | apply KeptOut.next | apply State.begin_kept | apply State.claimFrame_kept | dsimp only

theorem State.claimHolds_kept {s : State} (hk : Kept A P s0 s) {c : Claim}
    (hA : ∀ a ∈ ([.pend, .cnp] : List Area), a ∈ A) (hP : ∀ p ∈ ([.cnp, .fab] : List Part), p ∈ P) :
    Kept A P s0 (State.claimHolds s c) := by
  unfold State.claimHolds
  repeat' first
    | with_reducible assumption | exact inA hA rfl | exact subA hA rfl | exact .inl (inP hP rfl) | exact subP hP rfl
    | with_reducible exact rfl | exact .inr rfl
    | with_reducible first
      | intro _ | apply State.raise_kept | apply State.wr_kept | apply Kept.ite | split | dsimp only
    | fail_if_no_progress with_reducible apply Kept.upd

theorem State.claimEffect_kept {s : State} (hk : Kept A P s0 s) (hA : ∀ a ∈ ([.pend, .cnp] : List Area), a ∈ A)
    (hP : ∀ p ∈ ([.cnp, .fab] : List Part), p ∈ P) :
    Kept A P s0 (State.claimEffect s) := by
  unfold State.claimEffect
  repeat' first
    | with_reducible assumption | exact inA hA rfl | exact subA hA rfl | exact .inl (inP hP rfl) | exact subP hP rfl
    | with_reducible first
      | intro _ | apply State.claimHolds_kept | apply State.setClaims_kept | apply Kept.foldl | dsimp only

theorem execClaimEffect_kept {s : State} (hk : Kept A P s0 s) {t : Nat}
    (hA : ∀ a ∈ ([.pend, .cnp] : List Area), a ∈ A)
    (hP : ∀ p ∈ ([.now, .resp, .out, .cnp, .fab] : List Part), p ∈ P) :
    KeptOut A P s0 (execClaimEffect t s) := by
  unfold execClaimEffect
  repeat' first
    | with_reducible assumption | exact inA hA rfl | exact subA hA rfl | exact .inl (inP hP rfl) | exact subP hP rfl
    | with_reducible first
      | intro _ | apply KeptOut.next | apply State.begin_kept | apply State.claimEffect_kept | dsimp only

theorem State.autoClaim_kept {s : State} (hk : Kept A P s0 s)
    (hA : ∀ a ∈ ([.pend, .cnp, .ust, .cvu, .ingress] : List Area), a ∈ A)
    (hP : ∀ p ∈ ([.out, .pw, .rcd, .cnp, .fab, .cvu, .rwy, .ust] : List Part), p ∈ P) :
    Kept A P s0 (State.autoClaim s) := by
  unfold State.autoClaim
  repeat' first
    | with_reducible assumption | exact inA hA rfl | exact subA hA rfl | exact .inl (inP hP rfl) | exact subP hP rfl
    | with_reducible exact rfl | exact .inr rfl
    | with_reducible first
      | intro _ | apply State.claimSend_kept | apply State.goSilent_kept | apply State.wr_kept | apply Kept.ite
      | split | dsimp only
    | fail_if_no_progress with_reducible apply Kept.upd

theorem State.joinMark_kept {s : State} (hk : Kept A P s0 s)
    (hA : ∀ a ∈ ([.pend, .cnp, .ust, .ingress] : List Area), a ∈ A)
    (hP : ∀ p ∈ ([.pw, .rcd, .cnp, .ust] : List Part), p ∈ P) :
    Kept A P s0 (State.joinMark s) := by
  unfold State.joinMark
  repeat' first
    | with_reducible assumption | exact inA hA rfl | exact subA hA rfl | exact .inl (inP hP rfl) | exact subP hP rfl
    | with_reducible exact rfl | exact .inr rfl
    | with_reducible first
      | intro _ | apply State.setJoin_kept | apply State.wr_kept | apply Kept.ite | dsimp only
    | fail_if_no_progress with_reducible apply Kept.upd

theorem State.isolationMark_kept {s : State} (hk : Kept A P s0 s)
    (hA : ∀ a ∈ ([.pend, .ecc, .cpc, .cnp, .hbuf, .rwy, .cvu, .ingress] : List Area), a ∈ A)
    (hP : ∀ p ∈ ([.now, .mem, .leMem, .resp, .out, .pw, .rcd, .cop, .ecc, .cnp, .cvu, .rwy, .pmg] : List Part), p ∈ P) :
    Kept A P s0 (State.isolationMark s) := by
  unfold State.isolationMark
  repeat' first
    | with_reducible assumption | exact inA hA rfl | exact subA hA rfl | exact .inl (inP hP rfl) | exact subP hP rfl
    | with_reducible exact rfl | exact .inr rfl
    | with_reducible first
      | intro _ | apply State.bump_kept | apply State.heard_kept | apply State.raise_kept | apply State.wr_kept
      | apply State.wrB_kept | apply Kept.ite | dsimp only
    | fail_if_no_progress with_reducible apply Kept.upd

theorem State.canopyMark_kept {s : State} (hk : Kept A P s0 s)
    (hA : ∀ a ∈ ([.pend, .ecc, .cpc, .cnp, .hbuf, .rwy, .ust, .cvu, .ingress] : List Area), a ∈ A)
    (hP : ∀ p ∈ ([.now, .mem, .leMem, .resp, .out, .pw, .rcd, .cop, .ecc, .cnp, .fab, .cvu, .rwy, .ust, .pmg] : List Part), p ∈ P) :
    Kept A P s0 (State.canopyMark s) := by
  unfold State.canopyMark
  repeat' first
    | with_reducible assumption | exact inA hA rfl | exact subA hA rfl | exact .inl (inP hP rfl) | exact subP hP rfl
    | with_reducible exact rfl | exact .inr rfl
    | with_reducible first
      | intro _ | apply State.autoClaim_kept | apply State.claimsAgain_kept | apply State.isolationMark_kept
      | apply State.joinMark_kept | apply State.raise_kept | apply State.rwFlush_kept | apply State.setSync_kept
      | apply State.wr_kept | apply Kept.ite | dsimp only
    | fail_if_no_progress with_reducible apply Kept.upd

theorem State.eventFrame_kept {s : State} (hk : Kept A P s0 s) {port : Nat} {frame : List Byte} {fcs : Bool}
    (hA : ∀ a ∈ ([.pend, .cnp, .cvu, .ingress] : List Area), a ∈ A)
    (hP : ∀ p ∈ ([.out, .pw, .rcd, .cnp, .fab, .cvu, .rwy] : List Part), p ∈ P) :
    Kept A P s0 (State.eventFrame s port frame fcs) := by
  unfold State.eventFrame
  repeat' first
    | with_reducible assumption | exact inA hA rfl | exact subA hA rfl | exact .inl (inP hP rfl) | exact subP hP rfl
    | with_reducible exact rfl | exact .inr rfl
    | with_reducible first
      | intro _ | apply State.bump_kept | apply State.etRoute_kept | apply State.unitFrame_kept | apply Kept.ite
      | dsimp only
    | fail_if_no_progress with_reducible apply Kept.upd

theorem execEventFrame_kept {s : State}
    (hk : Kept A P s0 s) {port : Fin 4} {frame : List Byte} {fcs : Bool} {t : Nat}
    (hA : ∀ a ∈ ([.pend, .cnp, .cvu, .ingress] : List Area), a ∈ A)
    (hP : ∀ p ∈ ([.now, .resp, .out, .pw, .rcd, .cnp, .fab, .cvu, .rwy] : List Part), p ∈ P) :
    KeptOut A P s0 (execEventFrame port frame fcs t s) := by
  unfold execEventFrame
  repeat' first
    | with_reducible assumption | exact inA hA rfl | exact subA hA rfl | exact .inl (inP hP rfl) | exact subP hP rfl
    | with_reducible first
      | intro _ | apply KeptOut.next | apply State.begin_kept | apply State.eventFrame_kept | dsimp only

theorem execTimeRead_kept {s : State} (hk : Kept A P s0 s) {t : Nat} (hA : ∀ a ∈ ([.cnp] : List Area), a ∈ A)
    (hP : ∀ p ∈ ([.now, .resp, .out] : List Part), p ∈ P) :
    KeptOut A P s0 (execTimeRead t s) := by
  unfold execTimeRead
  repeat' first
    | with_reducible assumption | exact inA hA rfl | exact subA hA rfl | exact .inl (inP hP rfl) | exact subP hP rfl
    | with_reducible first
      | intro _ | apply KeptOut.next | apply State.answer_kept | apply State.begin_kept | apply State.wr_kept
      | apply Kept.ite | apply KeptOut.ite | dsimp only

theorem State.planeResetStart_kept {s : State} (hk : Kept A P s0 s) {plane : Nat}
    (hA : ∀ a ∈ ([.pend, .cnp, .ust, .ingress] : List Area), a ∈ A)
    (hP : ∀ p ∈ ([.pw, .rcd, .cnp, .ust] : List Part), p ∈ P) :
    Kept A P s0 (State.planeResetStart s plane) := by
  unfold State.planeResetStart
  repeat' first
    | with_reducible assumption | exact inA hA rfl | exact subA hA rfl | exact .inl (inP hP rfl) | exact subP hP rfl
    | with_reducible exact rfl | exact .inr rfl | exact fun a h => mem_of_inArea hA h (hm := rfl)
    | exact fun a _ => hA _ (mem_allAreas _)
    | with_reducible first
      | intro _ | apply State.leaveActive_kept | apply State.restore_kept | apply Kept.ite | dsimp only
    | fail_if_no_progress with_reducible apply Kept.upd

theorem execPlaneReset_kept {s : State} (hk : Kept A P s0 s) {plane : Fin 2} {t : Nat}
    (hA : ∀ a ∈ ([.pend, .cnp, .ust, .ingress] : List Area), a ∈ A)
    (hP : ∀ p ∈ ([.now, .resp, .out, .pw, .rcd, .cnp, .ust] : List Part), p ∈ P) :
    KeptOut A P s0 (execPlaneReset plane t s) := by
  unfold execPlaneReset
  repeat' first
    | with_reducible assumption | exact inA hA rfl | exact subA hA rfl | exact .inl (inP hP rfl) | exact subP hP rfl
    | with_reducible first
      | intro _ | apply KeptOut.next | apply State.begin_kept | apply State.planeResetStart_kept | apply Kept.ite
      | apply KeptOut.ite | dsimp only

theorem execPlaneResetDone_kept {s : State} (hk : Kept A P s0 s) {plane : Fin 2} {t : Nat}
    (hP : ∀ p ∈ ([.now, .resp, .out, .cnp] : List Part), p ∈ P) :
    KeptOut A P s0 (execPlaneResetDone plane t s) := by
  unfold execPlaneResetDone
  repeat' first
    | with_reducible assumption | exact .inl (inP hP rfl) | exact subP hP rfl | with_reducible exact rfl
    | exact .inr rfl
    | with_reducible first
      | intro _ | apply KeptOut.next | apply State.begin_kept | dsimp only
    | fail_if_no_progress with_reducible apply Kept.upd

theorem State.loadTable_kept {s : State} (hk : Kept A P s0 s) {d : List Byte} (hA : ∀ a ∈ allAreas, a ∈ A)
    (hP : ∀ p ∈ ([.cnp] : List Part), p ∈ P) :
    Kept A P s0 (State.loadTable s d) := by
  unfold State.loadTable
  repeat' first
    | with_reducible assumption | exact inA hA rfl | exact subA hA rfl | exact .inl (inP hP rfl) | exact subP hP rfl
    | with_reducible exact rfl | exact .inr rfl
    | with_reducible first
      | intro _ | apply State.putWord_kept | apply State.setBlz_kept | apply State.wr_kept | apply State.wrB_kept
      | apply Kept.ite | apply Kept.foldl | dsimp only
    | fail_if_no_progress with_reducible apply Kept.upd

end Sys2Proof.Machine
end

