-- ==== Sys2Proof/Laws/KeptCyclic.lean ====
section
/-!
SUPPORT. What each operation keeps (`Kept`), one lemma an operation: cycles of the logic engines.
-/

namespace Sys2Proof.Machine

set_option linter.all false
-- one proof at a time: the package is compiled as one file, in bounded memory
set_option Elab.async false

variable {A : List Area} {P : List Part} {s0 : State}

/-! ### Machine/CyclicBase.lean -/

theorem State.setLeRegion_kept {s : State} (hk : Kept A P s0 s) {base n : Nat} {d : Tbl Byte}
    (hP : ∀ p ∈ ([.leMem] : List Part), p ∈ P) : Kept A P s0 (State.setLeRegion s base n d) := by
  have key : ∀ (l : Tbl Byte) (m : Tbl Byte), tblWf m = true → (∀ e ∈ m, e.2 ≠ 0) →
      tblWf (l.foldl (fun m x => tblSet 0 (base + x.1) x.2 m) m) = true ∧
      ∀ e ∈ l.foldl (fun m x => tblSet 0 (base + x.1) x.2 m) m, e.2 ≠ 0 := by
    intro l
    induction l with
    | nil => exact fun m h z => ⟨h, z⟩
    | cons x r ih => exact fun m h z => ih _ (tblWf_set _ _ _ h) (tblSet_free _ _ z)
  refine Kept.parts hk rfl rfl (fun q hq => by cases q <;> first | rfl | exact absurd (inP hP rfl) hq) fun c => ?_
  have := key d (tblKeep (fun k => !inRange base (base + n) k) s.leMem) (tblWf_keep _ c.3)
    fun e he => c.4 e (List.mem_of_mem_filter he)
  exact ⟨c.1, c.2, this.1, this.2, c.5⟩

theorem State.setLeTable_kept {s : State} (hk : Kept A P s0 s) {e : Nat} {d : Tbl Byte}
    (hP : ∀ p ∈ ([.leMem] : List Part), p ∈ P) :
    Kept A P s0 (State.setLeTable s e d) := by
  unfold State.setLeTable
  repeat' first
    | with_reducible assumption | exact .inl (inP hP rfl) | exact subP hP rfl
    | with_reducible first
      | intro _ | apply State.setLeRegion_kept | dsimp only

theorem State.putBank_kept {s : State} (hk : Kept A P s0 s) {e b : Nat} {words : List Nat}
    (hA : ∀ a ∈ ([.pend, .ecc, .cvu, .ingress] : List Area), a ∈ A)
    (hP : ∀ p ∈ ([.leMem, .pw, .rcd, .ecc, .eng, .cvu] : List Part), p ∈ P) :
    Kept A P s0 (State.putBank s e b words) := by
  unfold State.putBank
  repeat' first
    | with_reducible assumption | exact inA hA rfl | exact subA hA rfl | exact .inl (inP hP rfl) | exact subP hP rfl
    | with_reducible exact rfl | exact .inr rfl
    | with_reducible first
      | intro _ | apply State.rowsWritten_kept | apply State.setEngine_kept | apply State.setLeRegion_kept
      | apply State.unitWrite_kept | apply Kept.ite | dsimp only
    | fail_if_no_progress with_reducible apply Kept.upd

theorem State.leReads_kept {s : State} (hk : Kept A P s0 s) {e cause : Nat} {rows : Nat → Bool}
    (hA : ∀ a ∈ ([.pend, .ecc, .cpc, .ingress] : List Area), a ∈ A)
    (hP : ∀ p ∈ ([.mem, .leMem, .pw, .rcd, .cop, .ecc] : List Part), p ∈ P) :
    Kept A P s0 (State.leReads s e cause rows).2 := by
  unfold State.leReads
  repeat' first
    | with_reducible assumption | exact inA hA rfl | exact subA hA rfl | exact .inl (inP hP rfl) | exact subP hP rfl
    | with_reducible first
      | intro _ | apply State.seeRows_kept | refine Kept.snd ?_ (by assumption) | refine Kept.fst ?_ (by assumption)
      | split | dsimp only

theorem State.leRowsWritten_kept {s : State} (hk : Kept A P s0 s) {e off n : Nat}
    (hA : ∀ a ∈ ([.pend, .ecc, .ingress] : List Area), a ∈ A) (hP : ∀ p ∈ ([.pw, .rcd, .ecc] : List Part), p ∈ P) :
    Kept A P s0 (State.leRowsWritten s e off n) := by
  unfold State.leRowsWritten
  repeat' first
    | with_reducible assumption | exact inA hA rfl | exact subA hA rfl | exact .inl (inP hP rfl) | exact subP hP rfl
    | with_reducible first
      | intro _ | apply State.rowsWritten_kept | apply Kept.ite | dsimp only

theorem State.syncForces_kept {s : State} (hk : Kept A P s0 s) {e : Nat}
    (hA : ∀ a ∈ ([.pend, .le] : List Area), a ∈ A) :
    Kept A P s0 (State.syncForces s e) := by
  unfold State.syncForces
  repeat' first
    | with_reducible assumption | exact inA hA rfl | exact subA hA rfl
    | with_reducible first
      | intro _ | apply State.raise_kept | apply State.wr_kept | apply Kept.ite | apply Kept.foldl | dsimp only

theorem State.leTaken_kept {s : State} (hk : Kept A P s0 s) {e : Nat} {first changed : Bool}
    (hA : ∀ a ∈ ([.pend, .le, .ecc, .iog, .chan, .ingress] : List Area), a ∈ A)
    (hP : ∀ p ∈ ([.leMem, .out, .pw, .rcd, .ecc, .io, .eng] : List Part), p ∈ P) :
    Kept A P s0 (State.leTaken s e first changed) := by
  unfold State.leTaken
  repeat' first
    | with_reducible assumption | exact inA hA rfl | exact subA hA rfl | exact .inl (inP hP rfl) | exact subP hP rfl
    | with_reducible exact rfl | exact .inr rfl
    | with_reducible first
      | intro _ | apply State.leRowsWritten_kept | apply State.rowsWritten_kept | apply State.setEngine_kept
      | apply State.setLeTable_kept | apply State.settleOwner_kept | apply State.wr_kept | dsimp only
    | fail_if_no_progress with_reducible apply Kept.upd

theorem State.leTake_kept {s : State} (hk : Kept A P s0 s) {e : Nat} {first changed : Bool}
    (hA : ∀ a ∈ ([.pend, .le, .ecc, .cpc, .iog, .chan, .ingress] : List Area), a ∈ A)
    (hP : ∀ p ∈ ([.mem, .leMem, .out, .pw, .rcd, .cop, .ecc, .io, .eng, .pmg] : List Part), p ∈ P) :
    Kept A P s0 (State.leTake s e first changed) := by
  unfold State.leTake
  repeat' first
    | with_reducible assumption | exact inA hA rfl | exact subA hA rfl | exact .inl (inP hP rfl) | exact subP hP rfl
    | with_reducible first
      | intro _ | apply State.leFault_kept | apply State.leReads_kept | apply State.leTaken_kept | apply Kept.ite
      | refine Kept.snd ?_ (by assumption) | refine Kept.fst ?_ (by assumption) | split | dsimp only

theorem State.lePublish_kept {s : State} (hk : Kept A P s0 s) {e : Nat}
    (hA : ∀ a ∈ ([.pend, .le, .ecc, .iog, .chan, .ingress] : List Area), a ∈ A)
    (hP : ∀ p ∈ ([.out, .pw, .rcd, .ecc, .io, .eng] : List Part), p ∈ P) :
    Kept A P s0 (State.lePublish s e) := by
  unfold State.lePublish
  repeat' first
    | with_reducible assumption | exact inA hA rfl | exact subA hA rfl | exact .inl (inP hP rfl) | exact subP hP rfl
    | with_reducible exact rfl | exact .inr rfl
    | with_reducible first
      | intro _ | apply State.applyFree_kept | apply State.maxWr_kept | apply State.rowsWritten_kept
      | apply State.setEngine_kept | apply State.wr_kept | apply Kept.ite | dsimp only
    | fail_if_no_progress with_reducible apply Kept.upd

theorem State.install_kept {s : State} (hk : Kept A P s0 s) {e : Nat} {p : Prog}
    (hA : ∀ a ∈ ([.le] : List Area), a ∈ A) (hP : ∀ p ∈ ([.eng] : List Part), p ∈ P) :
    Kept A P s0 (State.install s e p) := by
  unfold State.install
  repeat' first
    | with_reducible assumption | exact inA hA rfl | exact subA hA rfl | exact .inl (inP hP rfl) | exact subP hP rfl
    | with_reducible exact rfl | exact .inr rfl
    | with_reducible first
      | intro _ | apply State.setEngine_kept | apply State.wr_kept | dsimp only
    | fail_if_no_progress with_reducible apply Kept.upd

theorem State.leSwapIn_kept {s : State} (hk : Kept A P s0 s) {e : Nat} {old new : Prog}
    (hA : ∀ a ∈ ([.pend, .le, .ecc, .ingress] : List Area), a ∈ A)
    (hP : ∀ p ∈ ([.leMem, .pw, .rcd, .ecc, .eng] : List Part), p ∈ P) :
    Kept A P s0 (State.leSwapIn s e old new) := by
  unfold State.leSwapIn
  repeat' first
    | with_reducible assumption | exact inA hA rfl | exact subA hA rfl | exact .inl (inP hP rfl) | exact subP hP rfl
    | with_reducible first
      | intro _ | apply State.install_kept | apply State.leRowsWritten_kept | apply State.rowsWritten_kept
      | apply State.setLeTable_kept | apply Kept.ite | apply Kept.foldl | dsimp only

theorem State.leSwapNow_kept {s : State} (hk : Kept A P s0 s) {e gap : Nat}
    (hA : ∀ a ∈ ([.pend, .le, .ecc, .cpc, .iog, .chan, .ingress] : List Area), a ∈ A)
    (hP : ∀ p ∈ ([.now, .mem, .leMem, .out, .pw, .rcd, .cop, .ecc, .io, .eng, .pmg] : List Part), p ∈ P) :
    Kept A P s0 (State.leSwapNow s e gap) := by
  unfold State.leSwapNow
  repeat' first
    | with_reducible assumption | exact inA hA rfl | exact subA hA rfl | exact .inl (inP hP rfl) | exact subP hP rfl
    | with_reducible exact rfl | exact .inr rfl
    | with_reducible first
      | intro _ | apply State.leFault_kept | apply State.leReads_kept | apply State.leSwapIn_kept
      | apply State.raise_kept | apply State.setEngine_kept | apply State.syncForces_kept | apply State.wr_kept
      | apply Kept.ite | refine Kept.snd ?_ (by assumption) | refine Kept.fst ?_ (by assumption) | split | split
      | dsimp only
    | fail_if_no_progress with_reducible apply Kept.upd

theorem State.swapUndone_kept {s : State} (hk : Kept A P s0 s) {e : Nat}
    (hA : ∀ a ∈ ([.pend, .le] : List Area), a ∈ A) (hP : ∀ p ∈ ([.eng] : List Part), p ∈ P) :
    Kept A P s0 (State.swapUndone s e) := by
  unfold State.swapUndone
  repeat' first
    | with_reducible assumption | exact inA hA rfl | exact subA hA rfl | exact .inl (inP hP rfl) | exact subP hP rfl
    | with_reducible exact rfl | exact .inr rfl
    | with_reducible first
      | intro _ | apply State.install_kept | apply State.setEngine_kept | apply State.syncForces_kept | apply Kept.ite
      | split | dsimp only
    | fail_if_no_progress with_reducible apply Kept.upd

theorem State.leStopNow_kept {s : State} (hk : Kept A P s0 s) {e : Nat}
    (hA : ∀ a ∈ ([.le, .iog, .chan] : List Area), a ∈ A) (hP : ∀ p ∈ ([.out, .io, .eng, .pmg] : List Part), p ∈ P) :
    Kept A P s0 (State.leStopNow s e) := by
  unfold State.leStopNow
  repeat' first
    | with_reducible assumption | exact inA hA rfl | exact subA hA rfl | exact .inl (inP hP rfl) | exact subP hP rfl
    | with_reducible exact rfl | exact .inr rfl
    | with_reducible first
      | intro _ | apply State.leIdle_kept | apply State.publishInvalid_kept | apply State.setEngine_kept
      | apply State.settleOwner_kept | apply State.wr_kept | dsimp only
    | fail_if_no_progress with_reducible apply Kept.upd

theorem State.leParkNow_kept {s : State} (hk : Kept A P s0 s) {e : Nat}
    (hA : ∀ a ∈ ([.le, .iog, .chan] : List Area), a ∈ A) (hP : ∀ p ∈ ([.out, .io, .eng] : List Part), p ∈ P) :
    Kept A P s0 (State.leParkNow s e) := by
  unfold State.leParkNow
  repeat' first
    | with_reducible assumption | exact inA hA rfl | exact subA hA rfl | exact .inl (inP hP rfl) | exact subP hP rfl
    | with_reducible first
      | intro _ | apply State.publishInvalid_kept | apply State.settleOwner_kept | apply State.wr_kept | dsimp only

theorem State.leHaltNow_kept {s : State} (hk : Kept A P s0 s) {e why : Nat}
    (hA : ∀ a ∈ ([.pend, .le, .iog, .chan] : List Area), a ∈ A) (hP : ∀ p ∈ ([.out, .io, .eng] : List Part), p ∈ P) :
    Kept A P s0 (State.leHaltNow s e why) := by
  unfold State.leHaltNow
  repeat' first
    | with_reducible assumption | exact inA hA rfl | exact subA hA rfl | exact .inl (inP hP rfl) | exact subP hP rfl
    | with_reducible exact rfl | exact .inr rfl
    | with_reducible first
      | intro _ | apply State.raise_kept | apply State.setEngine_kept | apply State.settleOwner_kept
      | apply State.wr_kept | dsimp only
    | fail_if_no_progress with_reducible apply Kept.upd

theorem State.leGoOn_kept {s : State} (hk : Kept A P s0 s) {e gap : Nat}
    (hA : ∀ a ∈ ([.pend, .le, .ecc, .cpc, .iog, .chan, .ingress] : List Area), a ∈ A)
    (hP : ∀ p ∈ ([.now, .mem, .leMem, .out, .pw, .rcd, .cop, .ecc, .io, .eng, .pmg] : List Part), p ∈ P) :
    Kept A P s0 (State.leGoOn s e gap) := by
  unfold State.leGoOn
  repeat' first
    | with_reducible assumption | exact inA hA rfl | exact subA hA rfl | exact .inl (inP hP rfl) | exact subP hP rfl
    | with_reducible first
      | intro _ | apply State.leStopNow_kept | apply State.leSwapNow_kept | apply State.leTake_kept | apply Kept.ite
      | dsimp only

theorem State.leCycleEnd_kept {s : State} (hk : Kept A P s0 s) {e gap : Nat}
    (hA : ∀ a ∈ ([.pend, .le, .ecc, .cpc, .iog, .chan, .ingress] : List Area), a ∈ A)
    (hP : ∀ p ∈ ([.now, .mem, .leMem, .out, .pw, .rcd, .cop, .ecc, .io, .eng, .pmg] : List Part), p ∈ P) :
    Kept A P s0 (State.leCycleEnd s e gap) := by
  unfold State.leCycleEnd
  repeat' first
    | with_reducible assumption | exact inA hA rfl | exact subA hA rfl | exact .inl (inP hP rfl) | exact subP hP rfl
    | with_reducible first
      | intro _ | apply State.leGoOn_kept | apply State.leHaltNow_kept | apply State.leParkNow_kept
      | apply State.lePublish_kept | apply Kept.ite | dsimp only

theorem State.formLanes_kept {s u : State} (hk : Kept A P s0 s) {e : Nat} (eq : State.formLanes s e = some u)
    (hA : ∀ a ∈ ([.pend, .le, .ingress] : List Area), a ∈ A)
    (hP : ∀ p ∈ ([.pw, .rcd] : List Part), p ∈ P) :
    Kept A P s0 u := by
  unfold State.formLanes at eq
  split at eq
  · obtain rfl := Option.some.inj eq
    repeat' first
      | with_reducible assumption
      | exact inA hA rfl | exact subA hA rfl | exact .inl (inP hP rfl) | exact subP hP rfl | with_reducible exact rfl
      | exact .inr rfl
      | with_reducible apply State.wr_kept
      | with_reducible apply State.wrB_kept
      | with_reducible apply State.poolEmpty_kept
      | with_reducible apply Kept.ite
      | with_reducible dsimp only
  · cases eq

theorem State.seeShadow_kept {s : State} (hk : Kept A P s0 s) {e master cause : Nat}
    (hA : ∀ a ∈ ([.pend, .ecc, .cpc, .ingress] : List Area), a ∈ A)
    (hP : ∀ p ∈ ([.mem, .leMem, .pw, .rcd, .cop, .ecc] : List Part), p ∈ P) :
    Kept A P s0 (State.seeShadow s e master cause).2 := by
  unfold State.seeShadow
  repeat' first
    | with_reducible assumption | exact inA hA rfl | exact subA hA rfl | exact .inl (inP hP rfl) | exact subP hP rfl
    | with_reducible first
      | intro _ | apply State.seeRows_kept | refine Kept.snd ?_ (by assumption) | refine Kept.fst ?_ (by assumption)
      | split | dsimp only

theorem State.restartFrom_kept {s : State}
    (hk : Kept A P s0 s) {e : Nat} {p : Prog} {warm nand : Bool} {cause why : Nat} (hA : ∀ a ∈ allAreas, a ∈ A)
    (hP : ∀ p ∈ ([.leMem, .out, .pw, .rcd, .ecc, .io, .eng] : List Part), p ∈ P) :
    Kept A P s0 (State.restartFrom s e p warm nand cause why) := by
  unfold State.restartFrom
  repeat' first
    | with_reducible assumption | exact inA hA rfl | exact subA hA rfl | exact .inl (inP hP rfl) | exact subP hP rfl
    | with_reducible exact rfl | exact .inr rfl | exact fun a h => mem_of_inArea hA h (hm := rfl)
    | exact fun a _ => hA _ (mem_allAreas _)
    | exact fun a h => mem_of_or hA (engineAddr_area h) (hx := rfl) (hy := rfl)
    | with_reducible first
      | intro _ | apply State.publishInvalid_kept | apply State.restore_kept | apply State.rowsWritten_kept
      | apply State.setEngine_kept | apply State.setLeTable_kept | apply State.settleOwner_kept | apply State.wr_kept
      | apply Kept.ite | split | dsimp only
    | fail_if_no_progress with_reducible apply Kept.upd

theorem State.restartLoad_kept {s : State} (hk : Kept A P s0 s) {e cause : Nat}
    (hA : ∀ a ∈ ([.pend, .le] : List Area), a ∈ A) (hP : ∀ p ∈ ([.eng] : List Part), p ∈ P) :
    Kept A P s0 (State.restartLoad s e cause) := by
  unfold State.restartLoad
  repeat' first
    | with_reducible assumption | exact inA hA rfl | exact subA hA rfl | exact .inl (inP hP rfl) | exact subP hP rfl
    | with_reducible exact rfl | exact .inr rfl
    | with_reducible first
      | intro _ | apply State.install_kept | apply State.syncForces_kept | apply Kept.ite | split | dsimp only
    | fail_if_no_progress with_reducible apply Kept.upd

theorem formed_kept {u v : State} (hk : Kept A P s0 u) {b : Bool} {e : Nat}
    (eq : (if b then some u else u.formLanes e) = some v)
    (hA : ∀ a ∈ ([.pend, .le, .ingress] : List Area), a ∈ A) (hP : ∀ p ∈ ([.pw, .rcd] : List Part), p ∈ P) : Kept A P s0 v := by
  cases b with
  | true => exact Option.some.inj eq ▸ hk
  | false => exact State.formLanes_kept hk eq hA hP

theorem State.leRestart_kept {s : State} (hk : Kept A P s0 s) {e : Nat} {warm : Bool} {cause : Nat} {bad : Bool}
    (hA : ∀ a ∈ allAreas, a ∈ A)
    (hP : ∀ p ∈ ([.mem, .leMem, .out, .pw, .rcd, .cop, .ecc, .io, .eng, .pmg] : List Part), p ∈ P) :
    Kept A P s0 (State.leRestart s e warm cause bad) := by
  unfold State.leRestart
  have hu : Kept A P s0 ((s.restartLoad e cause).wr (PWR_UNIT_UNIT (4 + e)) 0) := by
    repeat' first
      | with_reducible assumption
      | exact inA hA rfl | exact subA hA rfl | exact .inl (inP hP rfl) | exact subP hP rfl | with_reducible exact rfl
      | exact .inr rfl
      | with_reducible apply State.wr_kept
      | with_reducible apply State.restartLoad_kept
  dsimp only
  revert hu
  generalize (s.restartLoad e cause).wr (PWR_UNIT_UNIT (4 + e)) 0 = u
  intro hu
  split
  · exact hu
  · rename_i p hp
    have hq : ∀ (c : Prop) [Decidable c], Kept A P s0 (if c then u.seeShadow e (0x10 + e) 0 else (false, u)).2 := by
      intro c _
      split
      · exact State.seeShadow_kept hu (subA hA rfl) (subP hP rfl)
      · exact hu
    split
    · repeat' first
        | with_reducible exact hq _
        | exact inA hA rfl | exact subA hA rfl | exact .inl (inP hP rfl) | exact subP hP rfl
        | with_reducible exact rfl | exact .inr rfl
        | with_reducible apply State.settleOwner_kept
        | with_reducible apply State.publishInvalid_kept
        | with_reducible apply State.leIdle_kept
        | with_reducible apply State.poolEmpty_kept
        | with_reducible apply State.wr_kept
    · rename_i h
      have hv := formed_kept (hq _) h (subA hA rfl) (subP hP rfl)
      repeat' first
        | with_reducible assumption
        | exact inA hA rfl | exact subA hA rfl | exact .inl (inP hP rfl) | exact subP hP rfl
        | with_reducible exact rfl | exact .inr rfl
        | with_reducible apply State.restartFrom_kept

theorem State.leLoadAt_kept {s : State} (hk : Kept A P s0 s) {master cause a n : Nat}
    (hA : ∀ a ∈ ([.pend, .ecc, .cpc, .ingress] : List Area), a ∈ A)
    (hP : ∀ p ∈ ([.mem, .leMem, .resp, .pw, .rcd, .cop, .ecc] : List Part), p ∈ P) :
    Kept A P s0 (State.leLoadAt s master cause a n) := by
  unfold State.leLoadAt
  repeat' first
    | with_reducible assumption | exact inA hA rfl | exact subA hA rfl | exact .inl (inP hP rfl) | exact subP hP rfl
    | with_reducible exact rfl | exact .inr rfl
    | with_reducible first
      | intro _ | apply State.answer_kept | apply State.seeRows_kept | apply Kept.ite
      | refine Kept.snd ?_ (by assumption) | refine Kept.fst ?_ (by assumption) | split | split | dsimp only
    | fail_if_no_progress with_reducible apply Kept.upd

theorem State.leStoreAt_kept {s : State} (hk : Kept A P s0 s) {a : Nat} {bs : List Byte}
    (hA : ∀ a ∈ ([.cvu] : List Area), a ∈ A) (hP : ∀ p ∈ ([.resp, .eng, .cvu] : List Part), p ∈ P) :
    Kept A P s0 (State.leStoreAt s a bs) := by
  unfold State.leStoreAt
  repeat' first
    | with_reducible assumption | exact inA hA rfl | exact subA hA rfl | exact .inl (inP hP rfl) | exact subP hP rfl
    | with_reducible exact rfl | exact .inr rfl
    | with_reducible first
      | intro _ | apply State.answer_kept | apply State.setEngine_kept | apply State.unitWrite_kept | apply Kept.ite
      | split | dsimp only
    | fail_if_no_progress with_reducible apply Kept.upd

/-! ### Machine/LeWord.lean -/

theorem State.leWordOp_kept {s : State}
    (hk : Kept A P s0 s) {e op mod x opnd : Nat} {sx : Bool} {f : Engine → Word → Engine}
    (hA : ∀ a ∈ ([.pend, .le, .ecc, .cpc, .iog, .chan, .ingress] : List Area), a ∈ A)
    (hP : ∀ p ∈ ([.mem, .leMem, .out, .pw, .rcd, .cop, .ecc, .io, .eng, .pmg] : List Part), p ∈ P) :
    Kept A P s0 (State.leWordOp s e op mod x opnd sx f) := by
  unfold State.leWordOp
  repeat' first
    | with_reducible assumption | exact inA hA rfl | exact subA hA rfl | exact .inl (inP hP rfl) | exact subP hP rfl
    | with_reducible exact rfl | exact .inr rfl
    | with_reducible first
      | intro _ | apply State.leNext_kept | apply State.leRun_kept | dsimp only
    | fail_if_no_progress with_reducible apply Kept.upd

theorem State.leRegOp_kept {s : State} (hk : Kept A P s0 s) {e op mod x opnd : Nat} {f : Engine → Engine}
    (hA : ∀ a ∈ ([.pend, .le, .ecc, .cpc, .iog, .chan, .ingress] : List Area), a ∈ A)
    (hP : ∀ p ∈ ([.mem, .leMem, .out, .pw, .rcd, .cop, .ecc, .io, .eng, .pmg] : List Part), p ∈ P) :
    Kept A P s0 (State.leRegOp s e op mod x opnd f) := by
  unfold State.leRegOp
  repeat' first
    | with_reducible assumption | exact inA hA rfl | exact subA hA rfl | exact .inl (inP hP rfl) | exact subP hP rfl
    | with_reducible exact rfl | exact .inr rfl
    | with_reducible first
      | intro _ | apply State.leNext_kept | apply State.leRun_kept | dsimp only
    | fail_if_no_progress with_reducible apply Kept.upd

theorem execLeLdw_kept {s : State} (hk : Kept A P s0 s) {e : Fin 4} {mod : Fin 4} {x : Fin 16} {opnd : Fin 1048576}
    (hA : ∀ a ∈ ([.pend, .le, .ecc, .cpc, .iog, .chan, .ingress] : List Area), a ∈ A)
    (hP : ∀ p ∈ ([.mem, .leMem, .resp, .out, .pw, .rcd, .cop, .ecc, .io, .eng, .pmg] : List Part), p ∈ P) :
    KeptOut A P s0 (execLeLdw e mod x opnd s) := by
  unfold execLeLdw
  repeat' first
    | with_reducible assumption | exact inA hA rfl | exact subA hA rfl | exact .inl (inP hP rfl) | exact subP hP rfl
    | with_reducible exact rfl | exact .inr rfl
    | with_reducible first
      | intro _ | apply KeptOut.next | apply State.fresh0_kept | apply State.leWordOp_kept | dsimp only
    | fail_if_no_progress with_reducible apply Kept.upd

theorem execLeAdd_kept {s : State} (hk : Kept A P s0 s) {e : Fin 4} {mod : Fin 4} {x : Fin 16} {opnd : Fin 1048576}
    (hA : ∀ a ∈ ([.pend, .le, .ecc, .cpc, .iog, .chan, .ingress] : List Area), a ∈ A)
    (hP : ∀ p ∈ ([.mem, .leMem, .resp, .out, .pw, .rcd, .cop, .ecc, .io, .eng, .pmg] : List Part), p ∈ P) :
    KeptOut A P s0 (execLeAdd e mod x opnd s) := by
  unfold execLeAdd
  repeat' first
    | with_reducible assumption | exact inA hA rfl | exact subA hA rfl | exact .inl (inP hP rfl) | exact subP hP rfl
    | with_reducible first
      | intro _ | apply KeptOut.next | apply State.fresh0_kept | apply State.leWordOp_kept | dsimp only

theorem execLeSub_kept {s : State} (hk : Kept A P s0 s) {e : Fin 4} {mod : Fin 4} {x : Fin 16} {opnd : Fin 1048576}
    (hA : ∀ a ∈ ([.pend, .le, .ecc, .cpc, .iog, .chan, .ingress] : List Area), a ∈ A)
    (hP : ∀ p ∈ ([.mem, .leMem, .resp, .out, .pw, .rcd, .cop, .ecc, .io, .eng, .pmg] : List Part), p ∈ P) :
    KeptOut A P s0 (execLeSub e mod x opnd s) := by
  unfold execLeSub
  repeat' first
    | with_reducible assumption | exact inA hA rfl | exact subA hA rfl | exact .inl (inP hP rfl) | exact subP hP rfl
    | with_reducible first
      | intro _ | apply KeptOut.next | apply State.fresh0_kept | apply State.leWordOp_kept | dsimp only

theorem execLeMul_kept {s : State} (hk : Kept A P s0 s) {e : Fin 4} {mod : Fin 4} {x : Fin 16} {opnd : Fin 1048576}
    (hA : ∀ a ∈ ([.pend, .le, .ecc, .cpc, .iog, .chan, .ingress] : List Area), a ∈ A)
    (hP : ∀ p ∈ ([.mem, .leMem, .resp, .out, .pw, .rcd, .cop, .ecc, .io, .eng, .pmg] : List Part), p ∈ P) :
    KeptOut A P s0 (execLeMul e mod x opnd s) := by
  unfold execLeMul
  repeat' first
    | with_reducible assumption | exact inA hA rfl | exact subA hA rfl | exact .inl (inP hP rfl) | exact subP hP rfl
    | with_reducible first
      | intro _ | apply KeptOut.next | apply State.fresh0_kept | apply State.leWordOp_kept | dsimp only

theorem execLeAndw_kept {s : State}
    (hk : Kept A P s0 s) {e : Fin 4} {mod : Fin 4} {x : Fin 16} {opnd : Fin 1048576}
    (hA : ∀ a ∈ ([.pend, .le, .ecc, .cpc, .iog, .chan, .ingress] : List Area), a ∈ A)
    (hP : ∀ p ∈ ([.mem, .leMem, .resp, .out, .pw, .rcd, .cop, .ecc, .io, .eng, .pmg] : List Part), p ∈ P) :
    KeptOut A P s0 (execLeAndw e mod x opnd s) := by
  unfold execLeAndw
  repeat' first
    | with_reducible assumption | exact inA hA rfl | exact subA hA rfl | exact .inl (inP hP rfl) | exact subP hP rfl
    | with_reducible exact rfl | exact .inr rfl
    | with_reducible first
      | intro _ | apply KeptOut.next | apply State.fresh0_kept | apply State.leWordOp_kept | dsimp only
    | fail_if_no_progress with_reducible apply Kept.upd

theorem execLeOrw_kept {s : State} (hk : Kept A P s0 s) {e : Fin 4} {mod : Fin 4} {x : Fin 16} {opnd : Fin 1048576}
    (hA : ∀ a ∈ ([.pend, .le, .ecc, .cpc, .iog, .chan, .ingress] : List Area), a ∈ A)
    (hP : ∀ p ∈ ([.mem, .leMem, .resp, .out, .pw, .rcd, .cop, .ecc, .io, .eng, .pmg] : List Part), p ∈ P) :
    KeptOut A P s0 (execLeOrw e mod x opnd s) := by
  unfold execLeOrw
  repeat' first
    | with_reducible assumption | exact inA hA rfl | exact subA hA rfl | exact .inl (inP hP rfl) | exact subP hP rfl
    | with_reducible exact rfl | exact .inr rfl
    | with_reducible first
      | intro _ | apply KeptOut.next | apply State.fresh0_kept | apply State.leWordOp_kept | dsimp only
    | fail_if_no_progress with_reducible apply Kept.upd

theorem execLeXorw_kept {s : State}
    (hk : Kept A P s0 s) {e : Fin 4} {mod : Fin 4} {x : Fin 16} {opnd : Fin 1048576}
    (hA : ∀ a ∈ ([.pend, .le, .ecc, .cpc, .iog, .chan, .ingress] : List Area), a ∈ A)
    (hP : ∀ p ∈ ([.mem, .leMem, .resp, .out, .pw, .rcd, .cop, .ecc, .io, .eng, .pmg] : List Part), p ∈ P) :
    KeptOut A P s0 (execLeXorw e mod x opnd s) := by
  unfold execLeXorw
  repeat' first
    | with_reducible assumption | exact inA hA rfl | exact subA hA rfl | exact .inl (inP hP rfl) | exact subP hP rfl
    | with_reducible exact rfl | exact .inr rfl
    | with_reducible first
      | intro _ | apply KeptOut.next | apply State.fresh0_kept | apply State.leWordOp_kept | dsimp only
    | fail_if_no_progress with_reducible apply Kept.upd

theorem execLeShl_kept {s : State} (hk : Kept A P s0 s) {e : Fin 4} {mod : Fin 4} {x : Fin 16} {opnd : Fin 1048576}
    (hA : ∀ a ∈ ([.pend, .le, .ecc, .cpc, .iog, .chan, .ingress] : List Area), a ∈ A)
    (hP : ∀ p ∈ ([.mem, .leMem, .resp, .out, .pw, .rcd, .cop, .ecc, .io, .eng, .pmg] : List Part), p ∈ P) :
    KeptOut A P s0 (execLeShl e mod x opnd s) := by
  unfold execLeShl
  repeat' first
    | with_reducible assumption | exact inA hA rfl | exact subA hA rfl | exact .inl (inP hP rfl) | exact subP hP rfl
    | with_reducible exact rfl | exact .inr rfl
    | with_reducible first
      | intro _ | apply KeptOut.next | apply State.fresh0_kept | apply State.leWordOp_kept | apply Kept.ite
      | apply KeptOut.ite | dsimp only
    | fail_if_no_progress with_reducible apply Kept.upd

theorem execLeShr_kept {s : State} (hk : Kept A P s0 s) {e : Fin 4} {mod : Fin 4} {x : Fin 16} {opnd : Fin 1048576}
    (hA : ∀ a ∈ ([.pend, .le, .ecc, .cpc, .iog, .chan, .ingress] : List Area), a ∈ A)
    (hP : ∀ p ∈ ([.mem, .leMem, .resp, .out, .pw, .rcd, .cop, .ecc, .io, .eng, .pmg] : List Part), p ∈ P) :
    KeptOut A P s0 (execLeShr e mod x opnd s) := by
  unfold execLeShr
  repeat' first
    | with_reducible assumption | exact inA hA rfl | exact subA hA rfl | exact .inl (inP hP rfl) | exact subP hP rfl
    | with_reducible exact rfl | exact .inr rfl
    | with_reducible first
      | intro _ | apply KeptOut.next | apply State.fresh0_kept | apply State.leWordOp_kept | dsimp only
    | fail_if_no_progress with_reducible apply Kept.upd

theorem execLeSar_kept {s : State} (hk : Kept A P s0 s) {e : Fin 4} {mod : Fin 4} {x : Fin 16} {opnd : Fin 1048576}
    (hA : ∀ a ∈ ([.pend, .le, .ecc, .cpc, .iog, .chan, .ingress] : List Area), a ∈ A)
    (hP : ∀ p ∈ ([.mem, .leMem, .resp, .out, .pw, .rcd, .cop, .ecc, .io, .eng, .pmg] : List Part), p ∈ P) :
    KeptOut A P s0 (execLeSar e mod x opnd s) := by
  unfold execLeSar
  repeat' first
    | with_reducible assumption | exact inA hA rfl | exact subA hA rfl | exact .inl (inP hP rfl) | exact subP hP rfl
    | with_reducible exact rfl | exact .inr rfl
    | with_reducible first
      | intro _ | apply KeptOut.next | apply State.fresh0_kept | apply State.leWordOp_kept | dsimp only
    | fail_if_no_progress with_reducible apply Kept.upd

theorem execLeCeq_kept {s : State} (hk : Kept A P s0 s) {e : Fin 4} {mod : Fin 4} {x : Fin 16} {opnd : Fin 1048576}
    (hA : ∀ a ∈ ([.pend, .le, .ecc, .cpc, .iog, .chan, .ingress] : List Area), a ∈ A)
    (hP : ∀ p ∈ ([.mem, .leMem, .resp, .out, .pw, .rcd, .cop, .ecc, .io, .eng, .pmg] : List Part), p ∈ P) :
    KeptOut A P s0 (execLeCeq e mod x opnd s) := by
  unfold execLeCeq
  repeat' first
    | with_reducible assumption | exact inA hA rfl | exact subA hA rfl | exact .inl (inP hP rfl) | exact subP hP rfl
    | with_reducible exact rfl | exact .inr rfl
    | with_reducible first
      | intro _ | apply KeptOut.next | apply State.fresh0_kept | apply State.leWordOp_kept | dsimp only
    | fail_if_no_progress with_reducible apply Kept.upd

theorem execLeCne_kept {s : State} (hk : Kept A P s0 s) {e : Fin 4} {mod : Fin 4} {x : Fin 16} {opnd : Fin 1048576}
    (hA : ∀ a ∈ ([.pend, .le, .ecc, .cpc, .iog, .chan, .ingress] : List Area), a ∈ A)
    (hP : ∀ p ∈ ([.mem, .leMem, .resp, .out, .pw, .rcd, .cop, .ecc, .io, .eng, .pmg] : List Part), p ∈ P) :
    KeptOut A P s0 (execLeCne e mod x opnd s) := by
  unfold execLeCne
  repeat' first
    | with_reducible assumption | exact inA hA rfl | exact subA hA rfl | exact .inl (inP hP rfl) | exact subP hP rfl
    | with_reducible exact rfl | exact .inr rfl
    | with_reducible first
      | intro _ | apply KeptOut.next | apply State.fresh0_kept | apply State.leWordOp_kept | dsimp only
    | fail_if_no_progress with_reducible apply Kept.upd

theorem State.leCompare_kept {s : State} (hk : Kept A P s0 s) {e op mod x opnd : Nat} {f : Bool → Bool → Bool}
    (hA : ∀ a ∈ ([.pend, .le, .ecc, .cpc, .iog, .chan, .ingress] : List Area), a ∈ A)
    (hP : ∀ p ∈ ([.mem, .leMem, .out, .pw, .rcd, .cop, .ecc, .io, .eng, .pmg] : List Part), p ∈ P) :
    Kept A P s0 (State.leCompare s e op mod x opnd f) := by
  unfold State.leCompare
  repeat' first
    | with_reducible assumption | exact inA hA rfl | exact subA hA rfl | exact .inl (inP hP rfl) | exact subP hP rfl
    | with_reducible exact rfl | exact .inr rfl
    | with_reducible first
      | intro _ | apply State.leWordOp_kept | apply Kept.ite | dsimp only
    | fail_if_no_progress with_reducible apply Kept.upd

theorem execLeCgt_kept {s : State} (hk : Kept A P s0 s) {e : Fin 4} {mod : Fin 4} {x : Fin 16} {opnd : Fin 1048576}
    (hA : ∀ a ∈ ([.pend, .le, .ecc, .cpc, .iog, .chan, .ingress] : List Area), a ∈ A)
    (hP : ∀ p ∈ ([.mem, .leMem, .resp, .out, .pw, .rcd, .cop, .ecc, .io, .eng, .pmg] : List Part), p ∈ P) :
    KeptOut A P s0 (execLeCgt e mod x opnd s) := by
  unfold execLeCgt
  repeat' first
    | with_reducible assumption | exact inA hA rfl | exact subA hA rfl | exact .inl (inP hP rfl) | exact subP hP rfl
    | with_reducible first
      | intro _ | apply KeptOut.next | apply State.fresh0_kept | apply State.leCompare_kept | dsimp only

theorem execLeCge_kept {s : State} (hk : Kept A P s0 s) {e : Fin 4} {mod : Fin 4} {x : Fin 16} {opnd : Fin 1048576}
    (hA : ∀ a ∈ ([.pend, .le, .ecc, .cpc, .iog, .chan, .ingress] : List Area), a ∈ A)
    (hP : ∀ p ∈ ([.mem, .leMem, .resp, .out, .pw, .rcd, .cop, .ecc, .io, .eng, .pmg] : List Part), p ∈ P) :
    KeptOut A P s0 (execLeCge e mod x opnd s) := by
  unfold execLeCge
  repeat' first
    | with_reducible assumption | exact inA hA rfl | exact subA hA rfl | exact .inl (inP hP rfl) | exact subP hP rfl
    | with_reducible first
      | intro _ | apply KeptOut.next | apply State.fresh0_kept | apply State.leCompare_kept | dsimp only

theorem execLeClt_kept {s : State} (hk : Kept A P s0 s) {e : Fin 4} {mod : Fin 4} {x : Fin 16} {opnd : Fin 1048576}
    (hA : ∀ a ∈ ([.pend, .le, .ecc, .cpc, .iog, .chan, .ingress] : List Area), a ∈ A)
    (hP : ∀ p ∈ ([.mem, .leMem, .resp, .out, .pw, .rcd, .cop, .ecc, .io, .eng, .pmg] : List Part), p ∈ P) :
    KeptOut A P s0 (execLeClt e mod x opnd s) := by
  unfold execLeClt
  repeat' first
    | with_reducible assumption | exact inA hA rfl | exact subA hA rfl | exact .inl (inP hP rfl) | exact subP hP rfl
    | with_reducible first
      | intro _ | apply KeptOut.next | apply State.fresh0_kept | apply State.leCompare_kept | dsimp only

theorem execLeCle_kept {s : State} (hk : Kept A P s0 s) {e : Fin 4} {mod : Fin 4} {x : Fin 16} {opnd : Fin 1048576}
    (hA : ∀ a ∈ ([.pend, .le, .ecc, .cpc, .iog, .chan, .ingress] : List Area), a ∈ A)
    (hP : ∀ p ∈ ([.mem, .leMem, .resp, .out, .pw, .rcd, .cop, .ecc, .io, .eng, .pmg] : List Part), p ∈ P) :
    KeptOut A P s0 (execLeCle e mod x opnd s) := by
  unfold execLeCle
  repeat' first
    | with_reducible assumption | exact inA hA rfl | exact subA hA rfl | exact .inl (inP hP rfl) | exact subP hP rfl
    | with_reducible first
      | intro _ | apply KeptOut.next | apply State.fresh0_kept | apply State.leCompare_kept | dsimp only

theorem execLeStw_kept {s : State} (hk : Kept A P s0 s) {e : Fin 4} {mod : Fin 4} {x : Fin 16} {opnd : Fin 1048576}
    (hA : ∀ a ∈ ([.pend, .le, .ecc, .cpc, .iog, .chan, .ingress] : List Area), a ∈ A)
    (hP : ∀ p ∈ ([.mem, .leMem, .resp, .out, .pw, .rcd, .cop, .ecc, .io, .eng, .pmg] : List Part), p ∈ P) :
    KeptOut A P s0 (execLeStw e mod x opnd s) := by
  unfold execLeStw
  repeat' first
    | with_reducible assumption | exact inA hA rfl | exact subA hA rfl | exact .inl (inP hP rfl) | exact subP hP rfl
    | with_reducible exact rfl | exact .inr rfl
    | with_reducible first
      | intro _ | apply KeptOut.next | apply State.fresh0_kept | apply State.leNext_kept | apply State.leRun_kept
      | apply State.putLeData_kept | dsimp only
    | fail_if_no_progress with_reducible apply Kept.upd

theorem execLeLdhi_kept {s : State}
    (hk : Kept A P s0 s) {e : Fin 4} {mod : Fin 4} {x : Fin 16} {opnd : Fin 1048576}
    (hA : ∀ a ∈ ([.pend, .le, .ecc, .cpc, .iog, .chan, .ingress] : List Area), a ∈ A)
    (hP : ∀ p ∈ ([.mem, .leMem, .resp, .out, .pw, .rcd, .cop, .ecc, .io, .eng, .pmg] : List Part), p ∈ P) :
    KeptOut A P s0 (execLeLdhi e mod x opnd s) := by
  unfold execLeLdhi
  repeat' first
    | with_reducible assumption | exact inA hA rfl | exact subA hA rfl | exact .inl (inP hP rfl) | exact subP hP rfl
    | with_reducible exact rfl | exact .inr rfl
    | with_reducible first
      | intro _ | apply KeptOut.next | apply State.fresh0_kept | apply State.leRegOp_kept | dsimp only
    | fail_if_no_progress with_reducible apply Kept.upd

theorem execLeLdx_kept {s : State} (hk : Kept A P s0 s) {e : Fin 4} {mod : Fin 4} {x : Fin 16} {opnd : Fin 1048576}
    (hA : ∀ a ∈ ([.pend, .le, .ecc, .cpc, .iog, .chan, .ingress] : List Area), a ∈ A)
    (hP : ∀ p ∈ ([.mem, .leMem, .resp, .out, .pw, .rcd, .cop, .ecc, .io, .eng, .pmg] : List Part), p ∈ P) :
    KeptOut A P s0 (execLeLdx e mod x opnd s) := by
  unfold execLeLdx
  repeat' first
    | with_reducible assumption | exact inA hA rfl | exact subA hA rfl | exact .inl (inP hP rfl) | exact subP hP rfl
    | with_reducible exact rfl | exact .inr rfl
    | with_reducible first
      | intro _ | apply KeptOut.next | apply State.fresh0_kept | apply State.leRegOp_kept | dsimp only
    | fail_if_no_progress with_reducible apply Kept.upd

theorem execLeBtow_kept {s : State}
    (hk : Kept A P s0 s) {e : Fin 4} {mod : Fin 4} {x : Fin 16} {opnd : Fin 1048576}
    (hA : ∀ a ∈ ([.pend, .le, .ecc, .cpc, .iog, .chan, .ingress] : List Area), a ∈ A)
    (hP : ∀ p ∈ ([.mem, .leMem, .resp, .out, .pw, .rcd, .cop, .ecc, .io, .eng, .pmg] : List Part), p ∈ P) :
    KeptOut A P s0 (execLeBtow e mod x opnd s) := by
  unfold execLeBtow
  repeat' first
    | with_reducible assumption | exact inA hA rfl | exact subA hA rfl | exact .inl (inP hP rfl) | exact subP hP rfl
    | with_reducible exact rfl | exact .inr rfl
    | with_reducible first
      | intro _ | apply KeptOut.next | apply State.fresh0_kept | apply State.leRegOp_kept | dsimp only
    | fail_if_no_progress with_reducible apply Kept.upd

theorem execLeWtob_kept {s : State}
    (hk : Kept A P s0 s) {e : Fin 4} {mod : Fin 4} {x : Fin 16} {opnd : Fin 1048576}
    (hA : ∀ a ∈ ([.pend, .le, .ecc, .cpc, .iog, .chan, .ingress] : List Area), a ∈ A)
    (hP : ∀ p ∈ ([.mem, .leMem, .resp, .out, .pw, .rcd, .cop, .ecc, .io, .eng, .pmg] : List Part), p ∈ P) :
    KeptOut A P s0 (execLeWtob e mod x opnd s) := by
  unfold execLeWtob
  repeat' first
    | with_reducible assumption | exact inA hA rfl | exact subA hA rfl | exact .inl (inP hP rfl) | exact subP hP rfl
    | with_reducible exact rfl | exact .inr rfl
    | with_reducible first
      | intro _ | apply KeptOut.next | apply State.fresh0_kept | apply State.leRegOp_kept | dsimp only
    | fail_if_no_progress with_reducible apply Kept.upd

theorem execLeSig_kept {s : State} (hk : Kept A P s0 s) {e : Fin 4} {mod : Fin 4} {x : Fin 16} {opnd : Fin 1048576}
    (hA : ∀ a ∈ ([.pend, .le, .ecc, .cpc, .iog, .chan, .ingress] : List Area), a ∈ A)
    (hP : ∀ p ∈ ([.mem, .leMem, .resp, .out, .pw, .rcd, .cop, .ecc, .io, .eng, .pmg] : List Part), p ∈ P) :
    KeptOut A P s0 (execLeSig e mod x opnd s) := by
  unfold execLeSig
  repeat' first
    | with_reducible assumption | exact inA hA rfl | exact subA hA rfl | exact .inl (inP hP rfl) | exact subP hP rfl
    | with_reducible exact rfl | exact .inr rfl
    | with_reducible first
      | intro _ | apply KeptOut.next | apply State.fresh0_kept | apply State.leNext_kept | apply State.leRun_kept
      | apply State.raise_kept | apply Kept.ite | apply KeptOut.ite | dsimp only
    | fail_if_no_progress with_reducible apply Kept.upd

/-! ### Machine/Cyclic.lean -/

theorem State.leEnd_kept {s : State} (hk : Kept A P s0 s) {e mod x opnd gap : Nat}
    (hA : ∀ a ∈ ([.pend, .le, .ecc, .cpc, .iog, .chan, .ingress] : List Area), a ∈ A)
    (hP : ∀ p ∈ ([.now, .mem, .leMem, .out, .pw, .rcd, .cop, .ecc, .io, .eng, .pmg] : List Part), p ∈ P) :
    Kept A P s0 (State.leEnd s e mod x opnd gap) := by
  unfold State.leEnd
  repeat' first
    | with_reducible assumption | exact inA hA rfl | exact subA hA rfl | exact .inl (inP hP rfl) | exact subP hP rfl
    | with_reducible exact rfl | exact .inr rfl
    | with_reducible first
      | intro _ | apply State.leCycleEnd_kept | apply State.leRun_kept | apply State.setEngine_kept | dsimp only
    | fail_if_no_progress with_reducible apply Kept.upd

theorem execLeEnd_kept {s : State}
    (hk : Kept A P s0 s) {e : Fin 4} {mod : Fin 4} {x : Fin 16} {opnd : Fin 1048576} {gap t : Nat}
    (hA : ∀ a ∈ ([.pend, .le, .ecc, .cpc, .iog, .chan, .ingress] : List Area), a ∈ A)
    (hP : ∀ p ∈ ([.now, .mem, .leMem, .resp, .out, .pw, .rcd, .cop, .ecc, .io, .eng, .pmg] : List Part), p ∈ P) :
    KeptOut A P s0 (execLeEnd e mod x opnd gap t s) := by
  unfold execLeEnd
  repeat' first
    | with_reducible assumption | exact inA hA rfl | exact subA hA rfl | exact .inl (inP hP rfl) | exact subP hP rfl
    | with_reducible first
      | intro _ | apply KeptOut.next | apply State.begin_kept | apply State.leEnd_kept | dsimp only

theorem State.leIllegal_kept {s : State} (hk : Kept A P s0 s) {e w : Nat}
    (hA : ∀ a ∈ ([.pend, .le, .ecc, .cpc, .iog, .chan, .ingress] : List Area), a ∈ A)
    (hP : ∀ p ∈ ([.mem, .leMem, .out, .pw, .rcd, .cop, .ecc, .io, .eng, .pmg] : List Part), p ∈ P) : Kept A P s0 (State.leIllegal s e w) :=
  Kept.ite (State.leRun_kept hk (fun _ hu => hu) (subA hA rfl) (subP hP rfl))
    (Kept.ite (State.leRun_kept hk (fun _ hu => hu) (subA hA rfl) (subP hP rfl)) hk)

theorem execIllegalInstruction_kept {s : State} (hk : Kept A P s0 s) {e : Fin 4} {word : BitVec 32}
    (hA : ∀ a ∈ ([.pend, .le, .ecc, .cpc, .iog, .chan, .ingress] : List Area), a ∈ A)
    (hP : ∀ p ∈ ([.mem, .leMem, .resp, .out, .pw, .rcd, .cop, .ecc, .io, .eng, .pmg] : List Part), p ∈ P) :
    KeptOut A P s0 (execIllegalInstruction e word s) := by
  unfold execIllegalInstruction
  repeat' first
    | with_reducible assumption | exact inA hA rfl | exact subA hA rfl | exact .inl (inP hP rfl) | exact subP hP rfl
    | with_reducible first
      | intro _ | apply KeptOut.next | apply State.fresh0_kept | apply State.leIllegal_kept | dsimp only

theorem State.admReport_kept {s : State} (hk : Kept A P s0 s) {e reason index : Nat}
    (hA : ∀ a ∈ ([.pend, .le, .ingress] : List Area), a ∈ A) (hP : ∀ p ∈ ([.pw, .rcd] : List Part), p ∈ P) :
    Kept A P s0 (State.admReport s e reason index) := by
  unfold State.admReport
  repeat' first
    | with_reducible assumption | exact inA hA rfl | exact subA hA rfl | exact .inl (inP hP rfl) | exact subP hP rfl
    | with_reducible exact rfl | exact .inr rfl
    | with_reducible first
      | intro _ | apply State.raise_kept | apply State.record_kept | apply State.wr_kept | apply Kept.ite | dsimp only
    | fail_if_no_progress with_reducible apply Kept.upd

theorem State.leLoadCmd_kept {s : State} (hk : Kept A P s0 s) {e : Nat}
    (hA : ∀ a ∈ ([.unit, .pend, .le, .ingress] : List Area), a ∈ A)
    (hP : ∀ p ∈ ([.pw, .rcd, .eng] : List Part), p ∈ P) :
    Kept A P s0 (State.leLoadCmd s e) := by
  unfold State.leLoadCmd
  repeat' first
    | with_reducible assumption | exact inA hA rfl | exact subA hA rfl | exact .inl (inP hP rfl) | exact subP hP rfl
    | with_reducible exact rfl | exact .inr rfl
    | with_reducible first
      | intro _ | apply State.admReport_kept | apply State.setEngine_kept | apply State.wr_kept | apply Kept.ite
      | dsimp only
    | fail_if_no_progress with_reducible apply Kept.upd

theorem execLeLoad_kept {s : State} (hk : Kept A P s0 s) {e : Fin 4} {t : Nat}
    (hA : ∀ a ∈ ([.unit, .pend, .le, .ingress] : List Area), a ∈ A)
    (hP : ∀ p ∈ ([.now, .resp, .out, .pw, .rcd, .eng] : List Part), p ∈ P) :
    KeptOut A P s0 (execLeLoad e t s) := by
  unfold execLeLoad
  repeat' first
    | with_reducible assumption | exact inA hA rfl | exact subA hA rfl | exact .inl (inP hP rfl) | exact subP hP rfl
    | with_reducible first
      | intro _ | apply KeptOut.next | apply State.begin_kept | apply State.leLoadCmd_kept | apply Kept.ite
      | apply KeptOut.ite | dsimp only

theorem State.loaderImage_kept {s : State} (hk : Kept A P s0 s) {off len : Nat}
    (hA : ∀ a ∈ ([.pend, .ecc, .cpc, .ingress] : List Area), a ∈ A)
    (hP : ∀ p ∈ ([.mem, .leMem, .pw, .rcd, .cop, .ecc] : List Part), p ∈ P) :
    Kept A P s0 (State.loaderImage s off len).2 := by
  unfold State.loaderImage
  repeat' first
    | with_reducible assumption | exact inA hA rfl | exact subA hA rfl | exact .inl (inP hP rfl) | exact subP hP rfl
    | with_reducible exact rfl | exact .inr rfl
    | with_reducible first
      | intro _ | apply State.seeRange_kept | apply Kept.ite | refine Kept.snd ?_ (by assumption)
      | refine Kept.fst ?_ (by assumption) | split | dsimp only
    | fail_if_no_progress with_reducible apply Kept.upd

theorem State.admissionDone_kept {s : State} (hk : Kept A P s0 s) {e : Nat}
    (hA : ∀ a ∈ ([.pend, .le, .ecc, .cpc, .cvu, .ingress] : List Area), a ∈ A)
    (hP : ∀ p ∈ ([.mem, .leMem, .pw, .rcd, .cop, .ecc, .eng, .cvu] : List Part), p ∈ P) :
    Kept A P s0 (State.admissionDone s e) := by
  unfold State.admissionDone
  repeat' first
    | with_reducible assumption | exact inA hA rfl | exact subA hA rfl | exact .inl (inP hP rfl) | exact subP hP rfl
    | with_reducible exact rfl | exact .inr rfl
    | with_reducible first
      | intro _ | apply State.admReport_kept | apply State.loaderImage_kept | apply State.putBank_kept
      | apply State.setEngine_kept | apply State.wr_kept | apply Kept.ite | refine Kept.snd ?_ (by assumption)
      | refine Kept.fst ?_ (by assumption) | split | split | dsimp only
    | fail_if_no_progress with_reducible apply Kept.upd

theorem execAdmissionDone_kept {s : State} (hk : Kept A P s0 s) {e : Fin 4} {t : Nat}
    (hA : ∀ a ∈ ([.pend, .le, .ecc, .cpc, .cvu, .ingress] : List Area), a ∈ A)
    (hP : ∀ p ∈ ([.now, .mem, .leMem, .resp, .out, .pw, .rcd, .cop, .ecc, .eng, .cvu] : List Part), p ∈ P) :
    KeptOut A P s0 (execAdmissionDone e t s) := by
  unfold execAdmissionDone
  repeat' first
    | with_reducible assumption | exact inA hA rfl | exact subA hA rfl | exact .inl (inP hP rfl) | exact subP hP rfl
    | with_reducible first
      | intro _ | apply KeptOut.next | apply State.admissionDone_kept | apply State.begin_kept | dsimp only

theorem State.leDiscard_kept {s : State} (hk : Kept A P s0 s) {e : Nat}
    (hA : ∀ a ∈ ([.unit, .le] : List Area), a ∈ A) (hP : ∀ p ∈ ([.eng] : List Part), p ∈ P) :
    Kept A P s0 (State.leDiscard s e) := by
  unfold State.leDiscard
  repeat' first
    | with_reducible assumption | exact inA hA rfl | exact subA hA rfl | exact .inl (inP hP rfl) | exact subP hP rfl
    | with_reducible exact rfl | exact .inr rfl
    | with_reducible first
      | intro _ | apply State.setEngine_kept | apply State.wr_kept | apply Kept.ite | dsimp only
    | fail_if_no_progress with_reducible apply Kept.upd

theorem execLeDiscard_kept {s : State} (hk : Kept A P s0 s) {e : Fin 4} {t : Nat}
    (hA : ∀ a ∈ ([.unit, .le] : List Area), a ∈ A) (hP : ∀ p ∈ ([.now, .resp, .out, .eng] : List Part), p ∈ P) :
    KeptOut A P s0 (execLeDiscard e t s) := by
  unfold execLeDiscard
  repeat' first
    | with_reducible assumption | exact inA hA rfl | exact subA hA rfl | exact .inl (inP hP rfl) | exact subP hP rfl
    | with_reducible first
      | intro _ | apply KeptOut.next | apply State.begin_kept | apply State.leDiscard_kept | dsimp only

theorem State.leSwapCmd_kept {s : State} (hk : Kept A P s0 s) {e : Nat} (hA : ∀ a ∈ ([.le] : List Area), a ∈ A) :
    Kept A P s0 (State.leSwapCmd s e) := by
  unfold State.leSwapCmd
  repeat' first
    | with_reducible assumption | exact inA hA rfl | exact subA hA rfl
    | with_reducible first
      | intro _ | apply State.wr_kept | apply Kept.ite | dsimp only

theorem execLeSwap_kept {s : State} (hk : Kept A P s0 s) {e : Fin 4} {t : Nat}
    (hA : ∀ a ∈ ([.le] : List Area), a ∈ A) (hP : ∀ p ∈ ([.now, .resp, .out] : List Part), p ∈ P) :
    KeptOut A P s0 (execLeSwap e t s) := by
  unfold execLeSwap
  repeat' first
    | with_reducible assumption | exact inA hA rfl | exact subA hA rfl | exact .inl (inP hP rfl) | exact subP hP rfl
    | with_reducible first
      | intro _ | apply KeptOut.next | apply State.begin_kept | apply State.leSwapCmd_kept | dsimp only

theorem State.leRestartCmd_kept {s : State} (hk : Kept A P s0 s) {e : Nat} {warm : Bool}
    (hA : ∀ a ∈ allAreas, a ∈ A)
    (hP : ∀ p ∈ ([.mem, .leMem, .out, .pw, .rcd, .cop, .ecc, .io, .eng, .pmg] : List Part), p ∈ P) :
    Kept A P s0 (State.leRestartCmd s e warm) := by
  unfold State.leRestartCmd
  repeat' first
    | with_reducible assumption | exact inA hA rfl | exact subA hA rfl | exact .inl (inP hP rfl) | exact subP hP rfl
    | with_reducible first
      | intro _ | apply State.leRestart_kept | apply Kept.ite | dsimp only

theorem execLeWarm_kept {s : State} (hk : Kept A P s0 s) {e : Fin 4} {t : Nat} (hA : ∀ a ∈ allAreas, a ∈ A)
    (hP : ∀ p ∈ ([.now, .mem, .leMem, .resp, .out, .pw, .rcd, .cop, .ecc, .io, .eng, .pmg] : List Part), p ∈ P) :
    KeptOut A P s0 (execLeWarm e t s) := by
  unfold execLeWarm
  repeat' first
    | with_reducible assumption | exact inA hA rfl | exact subA hA rfl | exact .inl (inP hP rfl) | exact subP hP rfl
    | with_reducible first
      | intro _ | apply KeptOut.next | apply State.begin_kept | apply State.leRestartCmd_kept | dsimp only

theorem execLeCold_kept {s : State} (hk : Kept A P s0 s) {e : Fin 4} {t : Nat} (hA : ∀ a ∈ allAreas, a ∈ A)
    (hP : ∀ p ∈ ([.now, .mem, .leMem, .resp, .out, .pw, .rcd, .cop, .ecc, .io, .eng, .pmg] : List Part), p ∈ P) :
    KeptOut A P s0 (execLeCold e t s) := by
  unfold execLeCold
  repeat' first
    | with_reducible assumption | exact inA hA rfl | exact subA hA rfl | exact .inl (inP hP rfl) | exact subP hP rfl
    | with_reducible first
      | intro _ | apply KeptOut.next | apply State.begin_kept | apply State.leRestartCmd_kept | dsimp only

theorem State.leStopCmd_kept {s : State} (hk : Kept A P s0 s) {e : Nat} (hP : ∀ p ∈ ([.eng] : List Part), p ∈ P) :
    Kept A P s0 (State.leStopCmd s e) := by
  unfold State.leStopCmd
  repeat' first
    | with_reducible assumption | exact .inl (inP hP rfl) | exact subP hP rfl | with_reducible exact rfl
    | exact .inr rfl
    | with_reducible first
      | intro _ | apply State.setEngine_kept | apply Kept.ite | dsimp only
    | fail_if_no_progress with_reducible apply Kept.upd

theorem execLeStop_kept {s : State} (hk : Kept A P s0 s) {e : Fin 4} {t : Nat}
    (hP : ∀ p ∈ ([.now, .resp, .out, .eng] : List Part), p ∈ P) :
    KeptOut A P s0 (execLeStop e t s) := by
  unfold execLeStop
  repeat' first
    | with_reducible assumption | exact .inl (inP hP rfl) | exact subP hP rfl
    | with_reducible first
      | intro _ | apply KeptOut.next | apply State.begin_kept | apply State.leStopCmd_kept | dsimp only

theorem State.restartComplete_kept {s : State} (hk : Kept A P s0 s) {e : Nat}
    (hA : ∀ a ∈ ([.pend, .le] : List Area), a ∈ A) (hP : ∀ p ∈ ([.eng] : List Part), p ∈ P) :
    Kept A P s0 (State.restartComplete s e) := by
  unfold State.restartComplete
  repeat' first
    | with_reducible assumption | exact inA hA rfl | exact subA hA rfl | exact .inl (inP hP rfl) | exact subP hP rfl
    | with_reducible exact rfl | exact .inr rfl
    | with_reducible first
      | intro _ | apply State.raise_kept | apply State.setEngine_kept | apply State.wr_kept | apply Kept.ite
      | dsimp only
    | fail_if_no_progress with_reducible apply Kept.upd

theorem execRestartComplete_kept {s : State} (hk : Kept A P s0 s) {e : Fin 4} {t : Nat}
    (hA : ∀ a ∈ ([.pend, .le] : List Area), a ∈ A) (hP : ∀ p ∈ ([.now, .resp, .out, .eng] : List Part), p ∈ P) :
    KeptOut A P s0 (execRestartComplete e t s) := by
  unfold execRestartComplete
  repeat' first
    | with_reducible assumption | exact inA hA rfl | exact subA hA rfl | exact .inl (inP hP rfl) | exact subP hP rfl
    | with_reducible first
      | intro _ | apply KeptOut.next | apply State.begin_kept | apply State.restartComplete_kept | dsimp only

theorem State.engineReset_kept {s : State} (hk : Kept A P s0 s) {e : Nat} (hA : ∀ a ∈ allAreas, a ∈ A)
    (hP : ∀ p ∈ ([.mem, .leMem, .out, .pw, .rcd, .cop, .ecc, .io, .eng, .pmg] : List Part), p ∈ P) :
    Kept A P s0 (State.engineReset s e) := by
  unfold State.engineReset
  repeat' first
    | with_reducible assumption | exact inA hA rfl | exact subA hA rfl | exact .inl (inP hP rfl) | exact subP hP rfl
    | with_reducible exact rfl | exact .inr rfl | exact fun a h => mem_of_inArea hA h (hm := rfl)
    | exact fun a _ => hA _ (mem_allAreas _)
    | exact fun a h => mem_of_or hA (engineAddr_area h) (hx := rfl) (hy := rfl)
    | with_reducible first
      | intro _ | apply State.leRestart_kept | apply State.restore_kept | apply State.setEngine_kept
      | apply State.swapUndone_kept | dsimp only
    | fail_if_no_progress with_reducible apply Kept.upd

theorem execEngineFunctionReset_kept {s : State} (hk : Kept A P s0 s) {e : Fin 4} {t : Nat}
    (hA : ∀ a ∈ allAreas, a ∈ A)
    (hP : ∀ p ∈ ([.now, .mem, .leMem, .resp, .out, .pw, .rcd, .cop, .ecc, .io, .eng, .pmg] : List Part), p ∈ P) :
    KeptOut A P s0 (execEngineFunctionReset e t s) := by
  unfold execEngineFunctionReset
  repeat' first
    | with_reducible assumption | exact inA hA rfl | exact subA hA rfl | exact .inl (inP hP rfl) | exact subP hP rfl
    | with_reducible first
      | intro _ | apply KeptOut.next | apply State.begin_kept | apply State.engineReset_kept | dsimp only

theorem State.hartLeStore_kept {s : State} (hk : Kept A P s0 s) {h a size v : Nat}
    (hA : ∀ a ∈ ([.cvu] : List Area), a ∈ A) (hP : ∀ p ∈ ([.resp, .eng, .cvu] : List Part), p ∈ P) :
    Kept A P s0 (State.hartLeStore s h a size v) := by
  unfold State.hartLeStore
  repeat' first
    | with_reducible assumption | exact inA hA rfl | exact subA hA rfl | exact .inl (inP hP rfl) | exact subP hP rfl
    | with_reducible first
      | intro _ | apply State.answer_kept | apply State.leStoreAt_kept | apply Kept.ite | dsimp only

theorem execStandLeMemoryAccess_kept {s : State}
    (hk : Kept A P s0 s) {hart : Fin 12} {addr : BitVec 36} {size : Fin 4} {value : Option (BitVec 64)} {t : Nat}
    (hA : ∀ a ∈ ([.pend, .ecc, .cpc, .cvu, .ingress] : List Area), a ∈ A)
    (hP : ∀ p ∈ ([.now, .mem, .leMem, .resp, .out, .pw, .rcd, .cop, .ecc, .eng, .cvu] : List Part), p ∈ P) :
    KeptOut A P s0 (execStandLeMemoryAccess hart addr size value t s) := by
  unfold execStandLeMemoryAccess
  repeat' first
    | with_reducible assumption | exact inA hA rfl | exact subA hA rfl | exact .inl (inP hP rfl) | exact subP hP rfl
    | with_reducible exact rfl | exact .inr rfl
    | with_reducible first
      | intro _ | apply KeptOut.next | apply State.begin_kept | apply State.hartLeStore_kept
      | apply State.leLoadAt_kept | apply Kept.ite | apply KeptOut.ite | split | dsimp only
    | fail_if_no_progress with_reducible apply Kept.upd

theorem execHostWindowWrite_kept {s : State}
    (hk : Kept A P s0 s) {hart : Fin 12} {addr : BitVec 36} {size : Fin 4} {value : BitVec 64} {t : Nat}
    (hA : ∀ a ∈ ([.cvu] : List Area), a ∈ A) (hP : ∀ p ∈ ([.now, .resp, .out, .eng, .cvu] : List Part), p ∈ P) :
    KeptOut A P s0 (execHostWindowWrite hart addr size value t s) := by
  unfold execHostWindowWrite
  repeat' first
    | with_reducible assumption | exact inA hA rfl | exact subA hA rfl | exact .inl (inP hP rfl) | exact subP hP rfl
    | with_reducible first
      | intro _ | apply KeptOut.next | apply State.begin_kept | apply State.hartLeStore_kept | apply Kept.ite
      | apply KeptOut.ite | dsimp only

theorem State.forceCommit_kept {s : State} (hk : Kept A P s0 s) {e i v : Nat}
    (hA : ∀ a ∈ ([.pend, .le] : List Area), a ∈ A) (hP : ∀ p ∈ ([.eng] : List Part), p ∈ P) :
    Kept A P s0 (State.forceCommit s e i v) := by
  unfold State.forceCommit
  repeat' first
    | with_reducible assumption | exact inA hA rfl | exact subA hA rfl | exact .inl (inP hP rfl) | exact subP hP rfl
    | with_reducible exact rfl | exact .inr rfl
    | with_reducible first
      | intro _ | apply State.setEngine_kept | apply State.syncForces_kept | apply State.wr_kept
      | apply State.wrB_kept | apply Kept.ite | dsimp only
    | fail_if_no_progress with_reducible apply Kept.upd

theorem execForceCommit_kept {s : State} (hk : Kept A P s0 s) {e : Fin 4} {i : Fin 256} {v : BitVec 32} {t : Nat}
    (hA : ∀ a ∈ ([.pend, .le] : List Area), a ∈ A) (hP : ∀ p ∈ ([.now, .resp, .out, .eng] : List Part), p ∈ P) :
    KeptOut A P s0 (execForceCommit e i v t s) := by
  unfold execForceCommit
  repeat' first
    | with_reducible assumption | exact inA hA rfl | exact subA hA rfl | exact .inl (inP hP rfl) | exact subP hP rfl
    | with_reducible first
      | intro _ | apply KeptOut.next | apply State.begin_kept | apply State.forceCommit_kept | apply Kept.ite
      | apply KeptOut.ite | dsimp only

theorem State.leHaltCmd_kept {s : State} (hk : Kept A P s0 s) {e : Nat}
    (hA : ∀ a ∈ ([.pend, .le, .iog, .chan] : List Area), a ∈ A)
    (hP : ∀ p ∈ ([.resp, .out, .io, .eng] : List Part), p ∈ P) :
    Kept A P s0 (State.leHaltCmd s e) := by
  unfold State.leHaltCmd
  repeat' first
    | with_reducible assumption | exact inA hA rfl | exact subA hA rfl | exact .inl (inP hP rfl) | exact subP hP rfl
    | with_reducible first
      | intro _ | apply State.answer_kept | apply State.leHaltNow_kept | apply Kept.ite | dsimp only

theorem execLeHalt_kept {s : State} (hk : Kept A P s0 s) {e : Fin 4} {t : Nat}
    (hA : ∀ a ∈ ([.pend, .le, .iog, .chan] : List Area), a ∈ A)
    (hP : ∀ p ∈ ([.now, .resp, .out, .io, .eng] : List Part), p ∈ P) :
    KeptOut A P s0 (execLeHalt e t s) := by
  unfold execLeHalt
  repeat' first
    | with_reducible assumption | exact inA hA rfl | exact subA hA rfl | exact .inl (inP hP rfl) | exact subP hP rfl
    | with_reducible first
      | intro _ | apply KeptOut.next | apply State.begin_kept | apply State.leHaltCmd_kept | dsimp only

theorem State.leRunOn_kept {s : State} (hk : Kept A P s0 s) {e gap : Nat}
    (hA : ∀ a ∈ ([.pend, .le, .ecc, .cpc, .iog, .chan, .ingress] : List Area), a ∈ A)
    (hP : ∀ p ∈ ([.now, .mem, .leMem, .out, .pw, .rcd, .cop, .ecc, .io, .eng, .pmg] : List Part), p ∈ P) :
    Kept A P s0 (State.leRunOn s e gap) := by
  unfold State.leRunOn
  repeat' first
    | with_reducible assumption | exact inA hA rfl | exact subA hA rfl | exact .inl (inP hP rfl) | exact subP hP rfl
    | with_reducible exact rfl | exact .inr rfl
    | with_reducible first
      | intro _ | apply State.leGoOn_kept | apply State.leParkNow_kept | apply State.setEngine_kept
      | apply State.settleOwner_kept | apply State.wr_kept | apply Kept.ite | dsimp only
    | fail_if_no_progress with_reducible apply Kept.upd

theorem State.leResumeCmd_kept {s : State} (hk : Kept A P s0 s) {e gap : Nat}
    (hA : ∀ a ∈ ([.pend, .le, .ecc, .cpc, .iog, .chan, .ingress] : List Area), a ∈ A)
    (hP : ∀ p ∈ ([.now, .mem, .leMem, .resp, .out, .pw, .rcd, .cop, .ecc, .io, .eng, .pmg] : List Part), p ∈ P) :
    Kept A P s0 (State.leResumeCmd s e gap) := by
  unfold State.leResumeCmd
  repeat' first
    | with_reducible assumption | exact inA hA rfl | exact subA hA rfl | exact .inl (inP hP rfl) | exact subP hP rfl
    | with_reducible first
      | intro _ | apply State.answer_kept | apply State.leRunOn_kept | apply Kept.ite | dsimp only

theorem execLeResume_kept {s : State} (hk : Kept A P s0 s) {e : Fin 4} {gap t : Nat}
    (hA : ∀ a ∈ ([.pend, .le, .ecc, .cpc, .iog, .chan, .ingress] : List Area), a ∈ A)
    (hP : ∀ p ∈ ([.now, .mem, .leMem, .resp, .out, .pw, .rcd, .cop, .ecc, .io, .eng, .pmg] : List Part), p ∈ P) :
    KeptOut A P s0 (execLeResume e gap t s) := by
  unfold execLeResume
  repeat' first
    | with_reducible assumption | exact inA hA rfl | exact subA hA rfl | exact .inl (inP hP rfl) | exact subP hP rfl
    | with_reducible first
      | intro _ | apply KeptOut.next | apply State.begin_kept | apply State.leResumeCmd_kept | dsimp only

theorem State.leStepcycCmd_kept {s : State} (hk : Kept A P s0 s) {e gap : Nat}
    (hA : ∀ a ∈ ([.pend, .le, .ecc, .cpc, .iog, .chan, .ingress] : List Area), a ∈ A)
    (hP : ∀ p ∈ ([.now, .mem, .leMem, .resp, .out, .pw, .rcd, .cop, .ecc, .io, .eng, .pmg] : List Part), p ∈ P) :
    Kept A P s0 (State.leStepcycCmd s e gap) := by
  unfold State.leStepcycCmd
  repeat' first
    | with_reducible assumption | exact inA hA rfl | exact subA hA rfl | exact .inl (inP hP rfl) | exact subP hP rfl
    | with_reducible exact rfl | exact .inr rfl
    | with_reducible first
      | intro _ | apply State.answer_kept | apply State.leRunOn_kept | apply State.setEngine_kept | apply Kept.ite
      | dsimp only
    | fail_if_no_progress with_reducible apply Kept.upd

theorem execLeStepcyc_kept {s : State} (hk : Kept A P s0 s) {e : Fin 4} {gap t : Nat}
    (hA : ∀ a ∈ ([.pend, .le, .ecc, .cpc, .iog, .chan, .ingress] : List Area), a ∈ A)
    (hP : ∀ p ∈ ([.now, .mem, .leMem, .resp, .out, .pw, .rcd, .cop, .ecc, .io, .eng, .pmg] : List Part), p ∈ P) :
    KeptOut A P s0 (execLeStepcyc e gap t s) := by
  unfold execLeStepcyc
  repeat' first
    | with_reducible assumption | exact inA hA rfl | exact subA hA rfl | exact .inl (inP hP rfl) | exact subP hP rfl
    | with_reducible first
      | intro _ | apply KeptOut.next | apply State.begin_kept | apply State.leStepcycCmd_kept | dsimp only

theorem stateOf_kept {s : State} (hk : Kept A P s0 s) {o : Host.Outcome State Fault Refusal}
    (ho : KeptOut A P s0 o) : Kept A P s0 (stateOf s o) := by
  cases o with
  | next u => exact ho
  | fault r => exact ho.elim
  | refused r => exact ho.elim

theorem leMain_kept {s : State}
    (hk : Kept A P s0 s) {e : Fin 4} {op : Nat} {m : Fin 4} {x : Fin 16} {a : Fin 1048576} {o : Host.Outcome State Fault Refusal}
    (eq : leMain s e op m x a = some o) (hA : ∀ a ∈ ([.pend, .le, .ecc, .cpc, .iog, .chan, .ingress] : List Area), a ∈ A)
    (hP : ∀ p ∈ ([.mem, .leMem, .resp, .out, .pw, .rcd, .cop, .ecc, .io, .eng, .pmg] : List Part), p ∈ P) : KeptOut A P s0 o := by
  unfold leMain at eq
  split at eq <;> first
    | (cases eq; done)
    | (obtain rfl := Option.some.inj eq
       (with_reducible first
         | apply execLeLd_kept
         | apply execLeLdn_kept
         | apply execLeAnd_kept
         | apply execLeAndn_kept
         | apply execLeOr_kept
         | apply execLeOrn_kept
         | apply execLeXor_kept
         | apply execLeXorn_kept
         | apply execLeSt_kept
         | apply execLeStn_kept
         | apply execLeS_kept
         | apply execLeROp_kept
         | apply execLeLds_kept
         | apply execLeNot_kept
         | apply execLeBopen_kept
         | apply execLeBclose_kept
         | apply execLeLdw_kept
         | apply execLeStw_kept
         | apply execLeAdd_kept
         | apply execLeSub_kept
         | apply execLeMul_kept
         | apply execLeAndw_kept
         | apply execLeOrw_kept
         | apply execLeXorw_kept
         | apply execLeShl_kept
         | apply execLeShr_kept
         | apply execLeSar_kept
         | apply execLeLdhi_kept
         | apply execLeLdx_kept
         | apply execLeCeq_kept
         | apply execLeCne_kept
         | apply execLeCgt_kept
         | apply execLeCge_kept
         | apply execLeClt_kept
         | apply execLeCle_kept
         | apply execLeBtow_kept
         | apply execLeWtob_kept
         | apply execLeSig_kept
         | apply execLeJmp_kept
         | apply execLeJc_kept
         | apply execLeJcn_kept
         | apply execLeRet_kept
         | apply execLeRetc_kept
         | apply execLeCallu_kept) <;> first
    | assumption
    | exact inA hA rfl | exact subA hA rfl | exact .inl (inP hP rfl) | exact subP hP rfl | with_reducible exact rfl
    | exact .inr rfl
)

theorem leBlocks_kept {s : State}
    (hk : Kept A P s0 s) {e : Fin 4} {x : Nat} {m : Fin 4} {a : Fin 1048576} {o : Host.Outcome State Fault Refusal}
    (eq : leBlocks s e x m a = some o) (hA : ∀ a ∈ ([.pend, .le, .ecc, .cpc, .iog, .chan, .ingress] : List Area), a ∈ A)
    (hP : ∀ p ∈ ([.mem, .leMem, .resp, .out, .pw, .rcd, .cop, .ecc, .io, .eng, .pmg] : List Part), p ∈ P) : KeptOut A P s0 o := by
  unfold leBlocks at eq
  split at eq <;> first
    | (cases eq; done)
    | (obtain rfl := Option.some.inj eq
       (with_reducible first
         | apply execLeTon_kept
         | apply execLeTof_kept
         | apply execLeTp_kept
         | apply execLeCtu_kept
         | apply execLeCtd_kept
         | apply execLeRTrig_kept
         | apply execLeFTrig_kept
         | apply execLeSr_kept
         | apply execLeRs_kept
         | apply execLeCmp_kept
         | apply execLeLimit_kept
         | apply execLeMove_kept
         | apply execLeEqv2_kept) <;> first
    | assumption
    | exact inA hA rfl | exact subA hA rfl | exact .inl (inP hP rfl) | exact subP hP rfl | with_reducible exact rfl
    | exact .inr rfl
)

theorem leWordOut_kept {s : State} (hk : Kept A P s0 s) {e : Fin 4} {w : Nat} {o : Host.Outcome State Fault Refusal}
    (eq : leWordOut s e w = some o) (hA : ∀ a ∈ ([.pend, .le, .ecc, .cpc, .iog, .chan, .ingress] : List Area), a ∈ A)
    (hP : ∀ p ∈ ([.mem, .leMem, .resp, .out, .pw, .rcd, .cop, .ecc, .io, .eng, .pmg] : List Part), p ∈ P) : KeptOut A P s0 o := by
  unfold leWordOut at eq
  dsimp only at eq
  split at eq
  · split at eq
    · exact leBlocks_kept hk eq (subA hA rfl) (subP hP rfl)
    · cases eq
  · exact leMain_kept hk eq (subA hA rfl) (subP hP rfl)

theorem State.leExecWord_kept {s : State} (hk : Kept A P s0 s) {e : Fin 4} {w gap : Nat}
    (hA : ∀ a ∈ ([.pend, .le, .ecc, .cpc, .iog, .chan, .ingress] : List Area), a ∈ A)
    (hP : ∀ p ∈ ([.now, .mem, .leMem, .resp, .out, .pw, .rcd, .cop, .ecc, .io, .eng, .pmg] : List Part), p ∈ P) :
    Kept A P s0 (State.leExecWord s e w gap) := by
  unfold State.leExecWord
  repeat' first
    | with_reducible assumption
    | exact inA hA rfl | exact subA hA rfl | exact .inl (inP hP rfl) | exact subP hP rfl | with_reducible exact rfl
    | exact .inr rfl
    | with_reducible apply stateOf_kept
    | with_reducible refine leWordOut_kept ?_ (by assumption) ?_ ?_
    | with_reducible apply State.leEnd_kept
    | with_reducible apply State.leIllegal_kept
    | with_reducible apply Kept.ite
    | with_reducible split
    | with_reducible dsimp only

theorem State.leStepCmd_kept {s : State} (hk : Kept A P s0 s) {e : Fin 4} {gap : Nat}
    (hA : ∀ a ∈ ([.pend, .le, .ecc, .cpc, .iog, .chan, .ingress] : List Area), a ∈ A)
    (hP : ∀ p ∈ ([.now, .mem, .leMem, .resp, .out, .pw, .rcd, .cop, .ecc, .io, .eng, .pmg] : List Part), p ∈ P) :
    Kept A P s0 (State.leStepCmd s e gap) := by
  unfold State.leStepCmd
  repeat' first
    | with_reducible assumption | exact inA hA rfl | exact subA hA rfl | exact .inl (inP hP rfl) | exact subP hP rfl
    | with_reducible exact rfl | exact .inr rfl
    | with_reducible first
      | intro _ | apply State.answer_kept | apply State.leExecWord_kept | apply State.leHaltNow_kept
      | apply State.leRunOn_kept | apply State.setEngine_kept | apply Kept.ite | dsimp only
    | fail_if_no_progress with_reducible apply Kept.upd

theorem execLeStep_kept {s : State} (hk : Kept A P s0 s) {e : Fin 4} {gap t : Nat}
    (hA : ∀ a ∈ ([.pend, .le, .ecc, .cpc, .iog, .chan, .ingress] : List Area), a ∈ A)
    (hP : ∀ p ∈ ([.now, .mem, .leMem, .resp, .out, .pw, .rcd, .cop, .ecc, .io, .eng, .pmg] : List Part), p ∈ P) :
    KeptOut A P s0 (execLeStep e gap t s) := by
  unfold execLeStep
  repeat' first
    | with_reducible assumption | exact inA hA rfl | exact subA hA rfl | exact .inl (inP hP rfl) | exact subP hP rfl
    | with_reducible first
      | intro _ | apply KeptOut.next | apply State.begin_kept | apply State.leStepCmd_kept | dsimp only

theorem State.leBreak_kept {s : State} (hk : Kept A P s0 s) {e : Nat}
    (hA : ∀ a ∈ ([.pend, .le, .iog, .chan] : List Area), a ∈ A) (hP : ∀ p ∈ ([.out, .io, .eng] : List Part), p ∈ P) :
    Kept A P s0 (State.leBreak s e) := by
  unfold State.leBreak
  repeat' first
    | with_reducible assumption | exact inA hA rfl | exact subA hA rfl | exact .inl (inP hP rfl) | exact subP hP rfl
    | with_reducible first
      | intro _ | apply State.leHaltNow_kept | apply Kept.ite | dsimp only

theorem execLeBreakpoint_kept {s : State} (hk : Kept A P s0 s) {e : Fin 4} {t : Nat}
    (hA : ∀ a ∈ ([.pend, .le, .iog, .chan] : List Area), a ∈ A)
    (hP : ∀ p ∈ ([.now, .resp, .out, .io, .eng] : List Part), p ∈ P) :
    KeptOut A P s0 (execLeBreakpoint e t s) := by
  unfold execLeBreakpoint
  repeat' first
    | with_reducible assumption | exact inA hA rfl | exact subA hA rfl | exact .inl (inP hP rfl) | exact subP hP rfl
    | with_reducible first
      | intro _ | apply KeptOut.next | apply State.begin_kept | apply State.leBreak_kept | dsimp only

theorem State.leDebugWrite_kept {s : State} (hk : Kept A P s0 s) {e : Nat} {w : LeWrite}
    (hA : ∀ a ∈ ([.pend, .le, .ecc, .cpc, .cvu, .ingress] : List Area), a ∈ A)
    (hP : ∀ p ∈ ([.mem, .leMem, .resp, .pw, .rcd, .cop, .ecc, .eng, .cvu] : List Part), p ∈ P) :
    Kept A P s0 (State.leDebugWrite s e w) := by
  unfold State.leDebugWrite
  repeat' first
    | with_reducible assumption | exact inA hA rfl | exact subA hA rfl | exact .inl (inP hP rfl) | exact subP hP rfl
    | with_reducible exact rfl | exact .inr rfl
    | with_reducible first
      | intro _ | apply State.answer_kept | apply State.putLeData_kept | apply State.seeRows_kept
      | apply State.setEngine_kept | apply State.unitWrite_kept | apply State.wr_kept | apply Kept.ite
      | refine Kept.snd ?_ (by assumption) | refine Kept.fst ?_ (by assumption) | split | split | dsimp only
    | fail_if_no_progress with_reducible apply Kept.upd

theorem execDebugWriteEngine_kept {s : State} (hk : Kept A P s0 s) {e : Fin 4} {w : LeWrite} {t : Nat}
    (hA : ∀ a ∈ ([.pend, .le, .ecc, .cpc, .cvu, .ingress] : List Area), a ∈ A)
    (hP : ∀ p ∈ ([.now, .mem, .leMem, .resp, .out, .pw, .rcd, .cop, .ecc, .eng, .cvu] : List Part), p ∈ P) :
    KeptOut A P s0 (execDebugWriteEngine e w t s) := by
  unfold execDebugWriteEngine
  repeat' first
    | with_reducible assumption | exact inA hA rfl | exact subA hA rfl | exact .inl (inP hP rfl) | exact subP hP rfl
    | with_reducible first
      | intro _ | apply KeptOut.next | apply State.begin_kept | apply State.leDebugWrite_kept | dsimp only

theorem State.leDebugRead_kept {s : State} (hk : Kept A P s0 s) {e : Nat} {r : LeReg}
    (hP : ∀ p ∈ ([.resp, .fresh] : List Part), p ∈ P) :
    Kept A P s0 (State.leDebugRead s e r) := by
  unfold State.leDebugRead
  repeat' first
    | with_reducible assumption | exact .inl (inP hP rfl) | exact subP hP rfl | with_reducible exact rfl
    | exact .inr rfl
    | with_reducible first
      | intro _ | apply State.answer_kept | apply State.free_kept | apply Kept.ite
      | refine Kept.snd ?_ (by assumption) | refine Kept.fst ?_ (by assumption) | split | split | dsimp only
    | fail_if_no_progress with_reducible apply Kept.upd

theorem execDebugReadEngine_kept {s : State} (hk : Kept A P s0 s) {e : Fin 4} {r : LeReg} {t : Nat}
    (hP : ∀ p ∈ ([.now, .resp, .out, .fresh] : List Part), p ∈ P) :
    KeptOut A P s0 (execDebugReadEngine e r t s) := by
  unfold execDebugReadEngine
  repeat' first
    | with_reducible assumption | exact .inl (inP hP rfl) | exact subP hP rfl
    | with_reducible first
      | intro _ | apply KeptOut.next | apply State.begin_kept | apply State.leDebugRead_kept | dsimp only

theorem State.leNap_kept {s : State} (hk : Kept A P s0 s) {e : Nat} (hA : ∀ a ∈ ([.pwr, .unit] : List Area), a ∈ A) :
    Kept A P s0 (State.leNap s e) := by
  unfold State.leNap
  repeat' first
    | with_reducible assumption | exact inA hA rfl | exact subA hA rfl
    | with_reducible first
      | intro _ | apply State.bump_kept | apply State.wr_kept | apply Kept.ite | dsimp only

theorem execLeNapEntry_kept {s : State} (hk : Kept A P s0 s) {e : Fin 4} {t : Nat}
    (hA : ∀ a ∈ ([.pwr, .unit] : List Area), a ∈ A) (hP : ∀ p ∈ ([.now, .resp, .out] : List Part), p ∈ P) :
    KeptOut A P s0 (execLeNapEntry e t s) := by
  unfold execLeNapEntry
  repeat' first
    | with_reducible assumption | exact inA hA rfl | exact subA hA rfl | exact .inl (inP hP rfl) | exact subP hP rfl
    | with_reducible first
      | intro _ | apply KeptOut.next | apply State.begin_kept | apply State.leNap_kept | dsimp only

end Sys2Proof.Machine
end

