-- ==== Sys2Proof/Laws/KeptTrain.lean ====
section
/-!
SUPPORT. What each operation keeps (`Kept`), one lemma an operation: inauguration, Rootway, ports and tunnels.
-/

namespace Sys2Proof.Machine

set_option linter.all false
-- one proof at a time: the package is compiled as one file, in bounded memory
set_option Elab.async false

variable {A : List Area} {P : List Part} {s0 : State}

/-! ### Machine/Train.lean -/

theorem State.inaPut_kept {s : State} (hk : Kept A P s0 s) {p : Nat} {x : EtFrame}
    (hA : ∀ a ∈ ([.pend, .cnp, .cvu, .ingress] : List Area), a ∈ A)
    (hP : ∀ p ∈ ([.out, .pw, .rcd, .cnp, .fab, .cvu, .rwy] : List Part), p ∈ P) :
    Kept A P s0 (State.inaPut s p x) := by
  unfold State.inaPut
  repeat' first
    | with_reducible assumption | exact inA hA rfl | exact subA hA rfl | exact .inl (inP hP rfl) | exact subP hP rfl
    | with_reducible first
      | intro _ | apply State.etPut_kept | apply Kept.ite | dsimp only

theorem State.inaNear_kept {s : State} (hk : Kept A P s0 s) {p : Nat} {payload : List Byte}
    (hA : ∀ a ∈ ([.pend, .cnp, .cvu, .ingress] : List Area), a ∈ A)
    (hP : ∀ p ∈ ([.out, .pw, .rcd, .cnp, .fab, .cvu, .rwy] : List Part), p ∈ P) :
    Kept A P s0 (State.inaNear s p payload) := by
  unfold State.inaNear
  repeat' first
    | with_reducible assumption | exact inA hA rfl | exact subA hA rfl | exact .inl (inP hP rfl) | exact subP hP rfl
    | with_reducible first
      | intro _ | apply State.inaPut_kept | dsimp only

theorem State.inaFlood_kept {s : State} (hk : Kept A P s0 s) {payload : List Byte}
    (hA : ∀ a ∈ ([.pend, .cnp, .cvu, .ingress] : List Area), a ∈ A)
    (hP : ∀ p ∈ ([.out, .pw, .rcd, .cnp, .fab, .cvu, .rwy] : List Part), p ∈ P) :
    Kept A P s0 (State.inaFlood s payload) := by
  unfold State.inaFlood
  repeat' first
    | with_reducible assumption | exact inA hA rfl | exact subA hA rfl | exact .inl (inP hP rfl) | exact subP hP rfl
    | with_reducible first
      | intro _ | apply State.inaPut_kept | apply Kept.ite | apply Kept.foldl | dsimp only

theorem State.sendHello_kept {s : State} (hk : Kept A P s0 s) {p : Nat}
    (hA : ∀ a ∈ ([.pend, .cnp, .cvu, .ingress] : List Area), a ∈ A)
    (hP : ∀ p ∈ ([.out, .pw, .rcd, .cnp, .fab, .cvu, .rwy] : List Part), p ∈ P) :
    Kept A P s0 (State.sendHello s p) := by
  unfold State.sendHello
  repeat' first
    | with_reducible assumption | exact inA hA rfl | exact subA hA rfl | exact .inl (inP hP rfl) | exact subP hP rfl
    | with_reducible first
      | intro _ | apply State.inaNear_kept | dsimp only

theorem State.sendDreq_kept {s : State} (hk : Kept A P s0 s) {p : Nat}
    (hA : ∀ a ∈ ([.pend, .cnp, .cvu, .ingress] : List Area), a ∈ A)
    (hP : ∀ p ∈ ([.out, .pw, .rcd, .cnp, .fab, .cvu, .rwy] : List Part), p ∈ P) :
    Kept A P s0 (State.sendDreq s p) := by
  unfold State.sendDreq
  repeat' first
    | with_reducible assumption | exact inA hA rfl | exact subA hA rfl | exact .inl (inP hP rfl) | exact subP hP rfl
    | with_reducible first
      | intro _ | apply State.inaNear_kept | dsimp only

theorem State.measure_kept {s : State} (hk : Kept A P s0 s) {p : Nat}
    (hA : ∀ a ∈ ([.pend, .cnp, .cvu, .ingress] : List Area), a ∈ A)
    (hP : ∀ p ∈ ([.out, .pw, .rcd, .cnp, .fab, .cvu, .rwy] : List Part), p ∈ P) :
    Kept A P s0 (State.measure s p) := by
  unfold State.measure
  repeat' first
    | with_reducible assumption | exact inA hA rfl | exact subA hA rfl | exact .inl (inP hP rfl) | exact subP hP rfl
    | with_reducible first
      | intro _ | apply State.sendDreq_kept | apply Kept.ite | dsimp only

theorem State.setFab_kept {s : State} (hk : Kept A P s0 s) {f : Fabric} (hP : ∀ p ∈ ([.fab] : List Part), p ∈ P) :
    Kept A P s0 (State.setFab s f) := by
  unfold State.setFab
  repeat' first
    | with_reducible assumption | exact .inl (inP hP rfl) | exact subP hP rfl | with_reducible exact rfl
    | exact .inr rfl
    | with_reducible first
      | intro _ | dsimp only
    | fail_if_no_progress with_reducible apply Kept.upd

theorem State.inaEnter_kept {s : State} (hk : Kept A P s0 s) {ina : Nat} {start : Bool}
    (hA : ∀ a ∈ ([.pend, .cnp, .cvu, .ingress] : List Area), a ∈ A)
    (hP : ∀ p ∈ ([.out, .pw, .rcd, .cnp, .fab, .cvu, .rwy] : List Part), p ∈ P) :
    Kept A P s0 (State.inaEnter s ina start) := by
  unfold State.inaEnter
  repeat' first
    | with_reducible assumption | exact inA hA rfl | exact subA hA rfl | exact .inl (inP hP rfl) | exact subP hP rfl
    | with_reducible exact rfl | exact .inr rfl
    | with_reducible first
      | intro _ | apply State.measure_kept | apply State.raise_kept | apply State.sendHello_kept
      | apply State.setFab_kept | apply State.setPortLink_kept | apply State.wr_kept | apply Kept.ite
      | apply Kept.foldl | dsimp only
    | fail_if_no_progress with_reducible apply Kept.upd

theorem State.inaBegin_kept {s : State} (hk : Kept A P s0 s)
    (hA : ∀ a ∈ ([.pend, .cnp, .cvu, .ingress] : List Area), a ∈ A)
    (hP : ∀ p ∈ ([.out, .pw, .rcd, .cnp, .fab, .cvu, .rwy] : List Part), p ∈ P) :
    Kept A P s0 (State.inaBegin s) := by
  unfold State.inaBegin
  repeat' first
    | with_reducible assumption | exact inA hA rfl | exact subA hA rfl | exact .inl (inP hP rfl) | exact subP hP rfl
    | with_reducible first
      | intro _ | apply State.inaEnter_kept | apply State.inaFlood_kept | dsimp only

theorem State.inaFail_kept {s : State} (hk : Kept A P s0 s) {why : Nat}
    (hA : ∀ a ∈ ([.pend, .cnp, .cvu, .ingress] : List Area), a ∈ A)
    (hP : ∀ p ∈ ([.out, .pw, .rcd, .cnp, .fab, .cvu, .rwy] : List Part), p ∈ P) :
    Kept A P s0 (State.inaFail s why) := by
  unfold State.inaFail
  repeat' first
    | with_reducible assumption | exact inA hA rfl | exact subA hA rfl | exact .inl (inP hP rfl) | exact subP hP rfl
    | with_reducible first
      | intro _ | apply State.bump_kept | apply State.inaBegin_kept | apply State.raise_kept | apply State.wr_kept
      | dsimp only

theorem State.inaMatched_kept {s : State} (hk : Kept A P s0 s) {effect : Nat}
    (hA : ∀ a ∈ ([.pend, .cnp, .ust, .ingress] : List Area), a ∈ A)
    (hP : ∀ p ∈ ([.pw, .rcd, .cnp, .fab, .ust] : List Part), p ∈ P) :
    Kept A P s0 (State.inaMatched s effect) := by
  unfold State.inaMatched
  repeat' first
    | with_reducible assumption | exact inA hA rfl | exact subA hA rfl | exact .inl (inP hP rfl) | exact subP hP rfl
    | with_reducible exact rfl | exact .inr rfl
    | with_reducible first
      | intro _ | apply State.leaveActive_kept | apply State.setFab_kept | apply State.wr_kept | apply Kept.ite
      | split | dsimp only
    | fail_if_no_progress with_reducible apply Kept.upd

theorem State.inaTryCommit_kept {s : State} (hk : Kept A P s0 s)
    (hA : ∀ a ∈ ([.pend, .cnp, .ust, .cvu, .ingress] : List Area), a ∈ A)
    (hP : ∀ p ∈ ([.out, .pw, .rcd, .cnp, .fab, .cvu, .rwy, .ust] : List Part), p ∈ P) :
    Kept A P s0 (State.inaTryCommit s) := by
  unfold State.inaTryCommit
  repeat' first
    | with_reducible assumption | exact inA hA rfl | exact subA hA rfl | exact .inl (inP hP rfl) | exact subP hP rfl
    | with_reducible exact rfl | exact .inr rfl
    | with_reducible first
      | intro _ | apply State.inaFlood_kept | apply State.inaMatched_kept | apply Kept.ite | split | dsimp only
    | fail_if_no_progress with_reducible apply Kept.upd

theorem State.inaKeyless_kept {s : State} (hk : Kept A P s0 s)
    (hA : ∀ a ∈ ([.pend, .cnp, .ust, .cvu, .ingress] : List Area), a ∈ A)
    (hP : ∀ p ∈ ([.out, .pw, .rcd, .cnp, .fab, .cvu, .rwy, .ust] : List Part), p ∈ P) :
    Kept A P s0 (State.inaKeyless s) := by
  unfold State.inaKeyless
  repeat' first
    | with_reducible assumption | exact inA hA rfl | exact subA hA rfl | exact .inl (inP hP rfl) | exact subP hP rfl
    | with_reducible exact rfl | exact .inr rfl
    | with_reducible first
      | intro _ | apply State.goSilent_kept | apply State.inaBegin_kept | apply State.setPortLink_kept
      | apply State.setSync_kept | apply State.wr_kept | apply State.wrB_kept | apply Kept.ite | apply Kept.foldl
      | dsimp only
    | fail_if_no_progress with_reducible apply Kept.upd

theorem State.inaBuilt_kept {s : State} (hk : Kept A P s0 s) {t : Train} {own : List Byte}
    (hA : ∀ a ∈ ([.pend, .cnp, .ust, .cvu, .ingress] : List Area), a ∈ A)
    (hP : ∀ p ∈ ([.out, .pw, .rcd, .cnp, .fab, .cvu, .rwy, .ust] : List Part), p ∈ P) :
    Kept A P s0 (State.inaBuilt s t own) := by
  unfold State.inaBuilt
  repeat' first
    | with_reducible assumption | exact inA hA rfl | exact subA hA rfl | exact .inl (inP hP rfl) | exact subP hP rfl
    | with_reducible exact rfl | exact .inr rfl
    | with_reducible first
      | intro _ | apply State.inaFail_kept | apply State.inaFlood_kept | apply State.inaTryCommit_kept
      | apply State.setFab_kept | apply State.wr_kept | apply State.wrB_kept | apply Kept.ite | split | dsimp only
    | fail_if_no_progress with_reducible apply Kept.upd

theorem State.inaCollect_kept {s : State} (hk : Kept A P s0 s)
    (hA : ∀ a ∈ ([.pend, .cnp, .ust, .cvu, .ingress] : List Area), a ∈ A)
    (hP : ∀ p ∈ ([.out, .pw, .rcd, .cnp, .fab, .cvu, .rwy, .ust] : List Part), p ∈ P) :
    Kept A P s0 (State.inaCollect s) := by
  unfold State.inaCollect
  repeat' first
    | with_reducible assumption | exact inA hA rfl | exact subA hA rfl | exact .inl (inP hP rfl) | exact subP hP rfl
    | with_reducible exact rfl | exact .inr rfl
    | with_reducible first
      | intro _ | apply State.inaBuilt_kept | apply State.inaFlood_kept | apply State.inaKeyless_kept
      | apply State.setFab_kept | apply Kept.ite | apply Kept.foldl | split | dsimp only
    | fail_if_no_progress with_reducible apply Kept.upd

theorem State.inaToRecords_kept {s : State} (hk : Kept A P s0 s)
    (hA : ∀ a ∈ ([.pend, .cnp, .ust, .cvu, .ingress] : List Area), a ∈ A)
    (hP : ∀ p ∈ ([.out, .pw, .rcd, .cnp, .fab, .cvu, .rwy, .ust] : List Part), p ∈ P) :
    Kept A P s0 (State.inaToRecords s) := by
  unfold State.inaToRecords
  repeat' first
    | with_reducible assumption | exact inA hA rfl | exact subA hA rfl | exact .inl (inP hP rfl) | exact subP hP rfl
    | with_reducible exact rfl | exact .inr rfl
    | with_reducible first
      | intro _ | apply State.inaCollect_kept | apply State.inaFlood_kept | apply State.setFab_kept
      | apply State.wr_kept | dsimp only
    | fail_if_no_progress with_reducible apply Kept.upd

theorem State.inaAdvance_kept {s : State} (hk : Kept A P s0 s)
    (hA : ∀ a ∈ ([.pend, .cnp, .ust, .cvu, .ingress] : List Area), a ∈ A)
    (hP : ∀ p ∈ ([.out, .pw, .rcd, .cnp, .fab, .cvu, .rwy, .ust] : List Part), p ∈ P) :
    Kept A P s0 (State.inaAdvance s) := by
  unfold State.inaAdvance
  repeat' first
    | with_reducible assumption | exact inA hA rfl | exact subA hA rfl | exact .inl (inP hP rfl) | exact subP hP rfl
    | with_reducible first
      | intro _ | apply State.inaToRecords_kept | apply Kept.ite | dsimp only

theorem State.holdTrigger_kept {s : State} (hk : Kept A P s0 s) (hP : ∀ p ∈ ([.fab] : List Part), p ∈ P) :
    Kept A P s0 (State.holdTrigger s) := by
  unfold State.holdTrigger
  repeat' first
    | with_reducible assumption | exact .inl (inP hP rfl) | exact subP hP rfl | with_reducible exact rfl
    | exact .inr rfl
    | with_reducible first
      | intro _ | apply State.setFab_kept | dsimp only
    | fail_if_no_progress with_reducible apply Kept.upd

theorem State.inaTrigger_kept {s : State} (hk : Kept A P s0 s)
    (hA : ∀ a ∈ ([.pend, .cnp, .ust, .cvu, .ingress] : List Area), a ∈ A)
    (hP : ∀ p ∈ ([.out, .pw, .rcd, .cnp, .fab, .cvu, .rwy, .ust] : List Part), p ∈ P) :
    Kept A P s0 (State.inaTrigger s) := by
  unfold State.inaTrigger
  repeat' first
    | with_reducible assumption | exact inA hA rfl | exact subA hA rfl | exact .inl (inP hP rfl) | exact subP hP rfl
    | with_reducible first
      | intro _ | apply State.holdTrigger_kept | apply State.inaAdvance_kept | apply State.inaBegin_kept
      | apply Kept.ite | dsimp only

theorem State.inaAccept_kept {s : State} (hk : Kept A P s0 s) {port : Nat} {frame : List Byte}
    (hA : ∀ a ∈ ([.pend, .cnp, .cvu, .ingress] : List Area), a ∈ A)
    (hP : ∀ p ∈ ([.out, .pw, .rcd, .cnp, .fab, .cvu, .rwy] : List Part), p ∈ P) :
    Kept A P s0 (State.inaAccept s port frame) := by
  unfold State.inaAccept
  repeat' first
    | with_reducible assumption | exact inA hA rfl | exact subA hA rfl | exact .inl (inP hP rfl) | exact subP hP rfl
    | with_reducible exact rfl | exact .inr rfl
    | with_reducible first
      | intro _ | apply State.holdTrigger_kept | apply State.inaEnter_kept | apply State.inaPut_kept
      | apply State.setFab_kept | apply State.unitFrame_kept | apply Kept.ite | dsimp only
    | fail_if_no_progress with_reducible apply Kept.upd

theorem State.inaTake_kept {s : State} (hk : Kept A P s0 s) {port op : Nat} {frame : List Byte}
    (hA : ∀ a ∈ ([.pend, .cnp, .cvu, .ingress] : List Area), a ∈ A)
    (hP : ∀ p ∈ ([.out, .pw, .rcd, .cnp, .fab, .cvu, .rwy] : List Part), p ∈ P) :
    Kept A P s0 (State.inaTake s port op frame).1 := by
  unfold State.inaTake
  repeat' first
    | with_reducible assumption | exact inA hA rfl | exact subA hA rfl | exact .inl (inP hP rfl) | exact subP hP rfl
    | with_reducible exact rfl | exact .inr rfl
    | with_reducible first
      | intro _ | apply State.inaAccept_kept | apply State.setFab_kept | apply Kept.ite | split | dsimp only
    | fail_if_no_progress with_reducible apply Kept.upd

theorem State.trainStart_kept {s : State} (hk : Kept A P s0 s) {port : Nat} {frame : List Byte}
    (hA : ∀ a ∈ ([.pend, .cnp, .ust, .cvu, .ingress] : List Area), a ∈ A)
    (hP : ∀ p ∈ ([.out, .pw, .rcd, .cnp, .fab, .cvu, .rwy, .ust] : List Part), p ∈ P) :
    Kept A P s0 (State.trainStart s port frame) := by
  unfold State.trainStart
  repeat' first
    | with_reducible assumption | exact inA hA rfl | exact subA hA rfl | exact .inl (inP hP rfl) | exact subP hP rfl
    | with_reducible first
      | intro _ | apply State.inaAdvance_kept | apply State.inaTake_kept | refine Kept.snd ?_ (by assumption)
      | refine Kept.fst ?_ (by assumption) | split | dsimp only

theorem execTrainStart_kept {s : State} (hk : Kept A P s0 s) {port : Fin 4} {frame : List Byte} {t : Nat}
    (hA : ∀ a ∈ ([.pend, .cnp, .ust, .cvu, .ingress] : List Area), a ∈ A)
    (hP : ∀ p ∈ ([.now, .resp, .out, .pw, .rcd, .cnp, .fab, .cvu, .rwy, .ust] : List Part), p ∈ P) :
    KeptOut A P s0 (execTrainStart port frame t s) := by
  unfold execTrainStart
  repeat' first
    | with_reducible assumption | exact inA hA rfl | exact subA hA rfl | exact .inl (inP hP rfl) | exact subP hP rfl
    | with_reducible first
      | intro _ | apply KeptOut.next | apply State.begin_kept | apply State.trainStart_kept | dsimp only

theorem State.trainHello_kept {s : State} (hk : Kept A P s0 s) {port : Nat} {frame : List Byte}
    (hA : ∀ a ∈ ([.pend, .cnp, .ust, .cvu, .ingress] : List Area), a ∈ A)
    (hP : ∀ p ∈ ([.out, .pw, .rcd, .cnp, .fab, .cvu, .rwy, .ust] : List Part), p ∈ P) :
    Kept A P s0 (State.trainHello s port frame) := by
  unfold State.trainHello
  repeat' first
    | with_reducible assumption | exact inA hA rfl | exact subA hA rfl | exact .inl (inP hP rfl) | exact subP hP rfl
    | with_reducible exact rfl | exact .inr rfl
    | with_reducible first
      | intro _ | apply State.inaAdvance_kept | apply State.inaTake_kept | apply State.inaTrigger_kept
      | apply State.measure_kept | apply State.setPortLink_kept | apply Kept.ite | refine Kept.snd ?_ (by assumption)
      | refine Kept.fst ?_ (by assumption) | split | split | dsimp only
    | fail_if_no_progress with_reducible apply Kept.upd

theorem execTrainHello_kept {s : State} (hk : Kept A P s0 s) {port : Fin 4} {frame : List Byte} {t : Nat}
    (hA : ∀ a ∈ ([.pend, .cnp, .ust, .cvu, .ingress] : List Area), a ∈ A)
    (hP : ∀ p ∈ ([.now, .resp, .out, .pw, .rcd, .cnp, .fab, .cvu, .rwy, .ust] : List Part), p ∈ P) :
    KeptOut A P s0 (execTrainHello port frame t s) := by
  unfold execTrainHello
  repeat' first
    | with_reducible assumption | exact inA hA rfl | exact subA hA rfl | exact .inl (inP hP rfl) | exact subP hP rfl
    | with_reducible first
      | intro _ | apply KeptOut.next | apply State.begin_kept | apply State.trainHello_kept | dsimp only

theorem State.trainDreq_kept {s : State} (hk : Kept A P s0 s) {port : Nat} {frame : List Byte}
    (hA : ∀ a ∈ ([.pend, .cnp, .ust, .cvu, .ingress] : List Area), a ∈ A)
    (hP : ∀ p ∈ ([.out, .pw, .rcd, .cnp, .fab, .cvu, .rwy, .ust] : List Part), p ∈ P) :
    Kept A P s0 (State.trainDreq s port frame) := by
  unfold State.trainDreq
  repeat' first
    | with_reducible assumption | exact inA hA rfl | exact subA hA rfl | exact .inl (inP hP rfl) | exact subP hP rfl
    | with_reducible exact rfl | exact .inr rfl
    | with_reducible first
      | intro _ | apply State.inaAdvance_kept | apply State.inaNear_kept | apply State.inaTake_kept
      | refine Kept.snd ?_ (by assumption) | refine Kept.fst ?_ (by assumption) | split | split | dsimp only
    | fail_if_no_progress with_reducible apply Kept.upd

theorem execTrainDreq_kept {s : State} (hk : Kept A P s0 s) {port : Fin 4} {frame : List Byte} {t : Nat}
    (hA : ∀ a ∈ ([.pend, .cnp, .ust, .cvu, .ingress] : List Area), a ∈ A)
    (hP : ∀ p ∈ ([.now, .resp, .out, .pw, .rcd, .cnp, .fab, .cvu, .rwy, .ust] : List Part), p ∈ P) :
    KeptOut A P s0 (execTrainDreq port frame t s) := by
  unfold execTrainDreq
  repeat' first
    | with_reducible assumption | exact inA hA rfl | exact subA hA rfl | exact .inl (inP hP rfl) | exact subP hP rfl
    | with_reducible first
      | intro _ | apply KeptOut.next | apply State.begin_kept | apply State.trainDreq_kept | dsimp only

theorem State.trainDresp_kept {s : State} (hk : Kept A P s0 s) {port : Nat} {frame : List Byte}
    (hA : ∀ a ∈ ([.pend, .cnp, .ust, .cvu, .ingress] : List Area), a ∈ A)
    (hP : ∀ p ∈ ([.out, .pw, .rcd, .cnp, .fab, .cvu, .rwy, .ust] : List Part), p ∈ P) :
    Kept A P s0 (State.trainDresp s port frame) := by
  unfold State.trainDresp
  repeat' first
    | with_reducible assumption | exact inA hA rfl | exact subA hA rfl | exact .inl (inP hP rfl) | exact subP hP rfl
    | with_reducible exact rfl | exact .inr rfl
    | with_reducible first
      | intro _ | apply State.inaAdvance_kept | apply State.inaTake_kept | apply State.sendDreq_kept
      | apply State.setPortLink_kept | apply Kept.ite | refine Kept.snd ?_ (by assumption)
      | refine Kept.fst ?_ (by assumption) | split | split | dsimp only
    | fail_if_no_progress with_reducible apply Kept.upd

theorem execTrainDresp_kept {s : State} (hk : Kept A P s0 s) {port : Fin 4} {frame : List Byte} {t : Nat}
    (hA : ∀ a ∈ ([.pend, .cnp, .ust, .cvu, .ingress] : List Area), a ∈ A)
    (hP : ∀ p ∈ ([.now, .resp, .out, .pw, .rcd, .cnp, .fab, .cvu, .rwy, .ust] : List Part), p ∈ P) :
    KeptOut A P s0 (execTrainDresp port frame t s) := by
  unfold execTrainDresp
  repeat' first
    | with_reducible assumption | exact inA hA rfl | exact subA hA rfl | exact .inl (inP hP rfl) | exact subP hP rfl
    | with_reducible first
      | intro _ | apply KeptOut.next | apply State.begin_kept | apply State.trainDresp_kept | dsimp only

theorem State.trainRecord_kept {s : State} (hk : Kept A P s0 s) {port : Nat} {frame : List Byte}
    (hA : ∀ a ∈ ([.pend, .cnp, .ust, .cvu, .ingress] : List Area), a ∈ A)
    (hP : ∀ p ∈ ([.out, .pw, .rcd, .cnp, .fab, .cvu, .rwy, .ust] : List Part), p ∈ P) :
    Kept A P s0 (State.trainRecord s port frame) := by
  unfold State.trainRecord
  repeat' first
    | with_reducible assumption | exact inA hA rfl | exact subA hA rfl | exact .inl (inP hP rfl) | exact subP hP rfl
    | with_reducible exact rfl | exact .inr rfl
    | with_reducible first
      | intro _ | apply State.inaAdvance_kept | apply State.inaCollect_kept | apply State.inaTake_kept
      | apply State.setFab_kept | apply Kept.ite | refine Kept.snd ?_ (by assumption)
      | refine Kept.fst ?_ (by assumption) | split | split | dsimp only
    | fail_if_no_progress with_reducible apply Kept.upd

theorem execTrainRecord_kept {s : State} (hk : Kept A P s0 s) {port : Fin 4} {frame : List Byte} {t : Nat}
    (hA : ∀ a ∈ ([.pend, .cnp, .ust, .cvu, .ingress] : List Area), a ∈ A)
    (hP : ∀ p ∈ ([.now, .resp, .out, .pw, .rcd, .cnp, .fab, .cvu, .rwy, .ust] : List Part), p ∈ P) :
    KeptOut A P s0 (execTrainRecord port frame t s) := by
  unfold execTrainRecord
  repeat' first
    | with_reducible assumption | exact inA hA rfl | exact subA hA rfl | exact .inl (inP hP rfl) | exact subP hP rfl
    | with_reducible first
      | intro _ | apply KeptOut.next | apply State.begin_kept | apply State.trainRecord_kept | dsimp only

theorem State.trainBlazes_kept {s : State} (hk : Kept A P s0 s) {port : Nat} {frame : List Byte}
    (hA : ∀ a ∈ ([.pend, .cnp, .ust, .cvu, .ingress] : List Area), a ∈ A)
    (hP : ∀ p ∈ ([.out, .pw, .rcd, .cnp, .fab, .cvu, .rwy, .ust] : List Part), p ∈ P) :
    Kept A P s0 (State.trainBlazes s port frame) := by
  unfold State.trainBlazes
  repeat' first
    | with_reducible assumption | exact inA hA rfl | exact subA hA rfl | exact .inl (inP hP rfl) | exact subP hP rfl
    | with_reducible exact rfl | exact .inr rfl
    | with_reducible first
      | intro _ | apply State.inaAdvance_kept | apply State.inaCollect_kept | apply State.inaTake_kept
      | apply State.setFab_kept | apply Kept.ite | refine Kept.snd ?_ (by assumption)
      | refine Kept.fst ?_ (by assumption) | split | split | dsimp only
    | fail_if_no_progress with_reducible apply Kept.upd

theorem execTrainBlazes_kept {s : State} (hk : Kept A P s0 s) {port : Fin 4} {frame : List Byte} {t : Nat}
    (hA : ∀ a ∈ ([.pend, .cnp, .ust, .cvu, .ingress] : List Area), a ∈ A)
    (hP : ∀ p ∈ ([.now, .resp, .out, .pw, .rcd, .cnp, .fab, .cvu, .rwy, .ust] : List Part), p ∈ P) :
    KeptOut A P s0 (execTrainBlazes port frame t s) := by
  unfold execTrainBlazes
  repeat' first
    | with_reducible assumption | exact inA hA rfl | exact subA hA rfl | exact .inl (inP hP rfl) | exact subP hP rfl
    | with_reducible first
      | intro _ | apply KeptOut.next | apply State.begin_kept | apply State.trainBlazes_kept | dsimp only

theorem State.trainDigest_kept {s : State} (hk : Kept A P s0 s) {port : Nat} {frame : List Byte}
    (hA : ∀ a ∈ ([.pend, .cnp, .ust, .cvu, .ingress] : List Area), a ∈ A)
    (hP : ∀ p ∈ ([.out, .pw, .rcd, .cnp, .fab, .cvu, .rwy, .ust] : List Part), p ∈ P) :
    Kept A P s0 (State.trainDigest s port frame) := by
  unfold State.trainDigest
  repeat' first
    | with_reducible assumption | exact inA hA rfl | exact subA hA rfl | exact .inl (inP hP rfl) | exact subP hP rfl
    | with_reducible exact rfl | exact .inr rfl
    | with_reducible first
      | intro _ | apply State.inaAdvance_kept | apply State.inaFail_kept | apply State.inaTake_kept
      | apply State.inaTryCommit_kept | apply State.setFab_kept | apply Kept.ite | refine Kept.snd ?_ (by assumption)
      | refine Kept.fst ?_ (by assumption) | split | split | dsimp only
    | fail_if_no_progress with_reducible apply Kept.upd

theorem execTrainDigest_kept {s : State} (hk : Kept A P s0 s) {port : Fin 4} {frame : List Byte} {t : Nat}
    (hA : ∀ a ∈ ([.pend, .cnp, .ust, .cvu, .ingress] : List Area), a ∈ A)
    (hP : ∀ p ∈ ([.now, .resp, .out, .pw, .rcd, .cnp, .fab, .cvu, .rwy, .ust] : List Part), p ∈ P) :
    KeptOut A P s0 (execTrainDigest port frame t s) := by
  unfold execTrainDigest
  repeat' first
    | with_reducible assumption | exact inA hA rfl | exact subA hA rfl | exact .inl (inP hP rfl) | exact subP hP rfl
    | with_reducible first
      | intro _ | apply KeptOut.next | apply State.begin_kept | apply State.trainDigest_kept | dsimp only

theorem State.trainCommit_kept {s : State} (hk : Kept A P s0 s) {port : Nat} {frame : List Byte}
    (hA : ∀ a ∈ ([.pend, .cnp, .ust, .cvu, .ingress] : List Area), a ∈ A)
    (hP : ∀ p ∈ ([.out, .pw, .rcd, .cnp, .fab, .cvu, .rwy, .ust] : List Part), p ∈ P) :
    Kept A P s0 (State.trainCommit s port frame) := by
  unfold State.trainCommit
  repeat' first
    | with_reducible assumption | exact inA hA rfl | exact subA hA rfl | exact .inl (inP hP rfl) | exact subP hP rfl
    | with_reducible exact rfl | exact .inr rfl
    | with_reducible first
      | intro _ | apply State.inaAdvance_kept | apply State.inaFail_kept | apply State.inaMatched_kept
      | apply State.inaTake_kept | apply Kept.ite | refine Kept.snd ?_ (by assumption)
      | refine Kept.fst ?_ (by assumption) | split | split | dsimp only
    | fail_if_no_progress with_reducible apply Kept.upd

theorem execTrainCommit_kept {s : State} (hk : Kept A P s0 s) {port : Fin 4} {frame : List Byte} {t : Nat}
    (hA : ∀ a ∈ ([.pend, .cnp, .ust, .cvu, .ingress] : List Area), a ∈ A)
    (hP : ∀ p ∈ ([.now, .resp, .out, .pw, .rcd, .cnp, .fab, .cvu, .rwy, .ust] : List Part), p ∈ P) :
    KeptOut A P s0 (execTrainCommit port frame t s) := by
  unfold execTrainCommit
  repeat' first
    | with_reducible assumption | exact inA hA rfl | exact subA hA rfl | exact .inl (inP hP rfl) | exact subP hP rfl
    | with_reducible first
      | intro _ | apply KeptOut.next | apply State.begin_kept | apply State.trainCommit_kept | dsimp only

theorem State.neighbourTimeout_kept {s : State} (hk : Kept A P s0 s)
    (hA : ∀ a ∈ ([.pend, .cnp, .ust, .cvu, .ingress] : List Area), a ∈ A)
    (hP : ∀ p ∈ ([.out, .pw, .rcd, .cnp, .fab, .cvu, .rwy, .ust] : List Part), p ∈ P) :
    Kept A P s0 (State.neighbourTimeout s) := by
  unfold State.neighbourTimeout
  repeat' first
    | with_reducible assumption | exact inA hA rfl | exact subA hA rfl | exact .inl (inP hP rfl) | exact subP hP rfl
    | with_reducible first
      | intro _ | apply State.inaAdvance_kept | apply State.inaToRecords_kept | apply Kept.ite | dsimp only

theorem execNeighbourTimeout_kept {s : State} (hk : Kept A P s0 s) {t : Nat}
    (hA : ∀ a ∈ ([.pend, .cnp, .ust, .cvu, .ingress] : List Area), a ∈ A)
    (hP : ∀ p ∈ ([.now, .resp, .out, .pw, .rcd, .cnp, .fab, .cvu, .rwy, .ust] : List Part), p ∈ P) :
    KeptOut A P s0 (execNeighbourTimeout t s) := by
  unfold execNeighbourTimeout
  repeat' first
    | with_reducible assumption | exact inA hA rfl | exact subA hA rfl | exact .inl (inP hP rfl) | exact subP hP rfl
    | with_reducible first
      | intro _ | apply KeptOut.next | apply State.begin_kept | apply State.neighbourTimeout_kept | dsimp only

theorem State.inaDeadline_kept {s : State} (hk : Kept A P s0 s)
    (hA : ∀ a ∈ ([.pend, .cnp, .ust, .cvu, .ingress] : List Area), a ∈ A)
    (hP : ∀ p ∈ ([.out, .pw, .rcd, .cnp, .fab, .cvu, .rwy, .ust] : List Part), p ∈ P) :
    Kept A P s0 (State.inaDeadline s) := by
  unfold State.inaDeadline
  repeat' first
    | with_reducible assumption | exact inA hA rfl | exact subA hA rfl | exact .inl (inP hP rfl) | exact subP hP rfl
    | with_reducible first
      | intro _ | apply State.inaAdvance_kept | apply State.inaFail_kept | apply Kept.ite | dsimp only

theorem execInaugurationDeadline_kept {s : State} (hk : Kept A P s0 s) {t : Nat}
    (hA : ∀ a ∈ ([.pend, .cnp, .ust, .cvu, .ingress] : List Area), a ∈ A)
    (hP : ∀ p ∈ ([.now, .resp, .out, .pw, .rcd, .cnp, .fab, .cvu, .rwy, .ust] : List Part), p ∈ P) :
    KeptOut A P s0 (execInaugurationDeadline t s) := by
  unfold execInaugurationDeadline
  repeat' first
    | with_reducible assumption | exact inA hA rfl | exact subA hA rfl | exact .inl (inP hP rfl) | exact subP hP rfl
    | with_reducible first
      | intro _ | apply KeptOut.next | apply State.begin_kept | apply State.inaDeadline_kept | dsimp only

theorem State.linkCameUp_kept {s : State} (hk : Kept A P s0 s) {p : Nat}
    (hA : ∀ a ∈ ([.pend, .cnp, .ust, .cvu, .ingress] : List Area), a ∈ A)
    (hP : ∀ p ∈ ([.out, .pw, .rcd, .cnp, .fab, .cvu, .rwy, .ust] : List Part), p ∈ P) :
    Kept A P s0 (State.linkCameUp s p) := by
  unfold State.linkCameUp
  repeat' first
    | with_reducible assumption | exact inA hA rfl | exact subA hA rfl | exact .inl (inP hP rfl) | exact subP hP rfl
    | with_reducible exact rfl | exact .inr rfl
    | with_reducible first
      | intro _ | apply State.inaTrigger_kept | apply State.raise_kept | apply State.sendHello_kept
      | apply State.setPortLink_kept | apply State.wrBit_kept | apply Kept.ite | dsimp only
    | fail_if_no_progress with_reducible apply Kept.upd

theorem execLinkUp_kept {s : State} (hk : Kept A P s0 s) {port : Fin 4} {t : Nat}
    (hA : ∀ a ∈ ([.pend, .cnp, .ust, .cvu, .ingress] : List Area), a ∈ A)
    (hP : ∀ p ∈ ([.now, .resp, .out, .pw, .rcd, .cnp, .fab, .cvu, .rwy, .ust] : List Part), p ∈ P) :
    KeptOut A P s0 (execLinkUp port t s) := by
  unfold execLinkUp
  repeat' first
    | with_reducible assumption | exact inA hA rfl | exact subA hA rfl | exact .inl (inP hP rfl) | exact subP hP rfl
    | with_reducible first
      | intro _ | apply KeptOut.next | apply State.begin_kept | apply State.linkCameUp_kept | dsimp only

theorem State.linkWentDown_kept {s : State} (hk : Kept A P s0 s) {p : Nat}
    (hA : ∀ a ∈ ([.pend, .cnp, .ust, .cvu, .ingress] : List Area), a ∈ A)
    (hP : ∀ p ∈ ([.out, .pw, .rcd, .cnp, .fab, .cvu, .rwy, .ust] : List Part), p ∈ P) :
    Kept A P s0 (State.linkWentDown s p) := by
  unfold State.linkWentDown
  repeat' first
    | with_reducible assumption | exact inA hA rfl | exact subA hA rfl | exact .inl (inP hP rfl) | exact subP hP rfl
    | with_reducible exact rfl | exact .inr rfl
    | with_reducible first
      | intro _ | apply State.inaAdvance_kept | apply State.raise_kept | apply State.setEtPort_kept
      | apply State.setPortLink_kept | apply State.wr_kept | apply State.wrBit_kept | apply Kept.ite | dsimp only
    | fail_if_no_progress with_reducible apply Kept.upd

theorem execLinkDown_kept {s : State} (hk : Kept A P s0 s) {port : Fin 4} {t : Nat}
    (hA : ∀ a ∈ ([.pend, .cnp, .ust, .cvu, .ingress] : List Area), a ∈ A)
    (hP : ∀ p ∈ ([.now, .resp, .out, .pw, .rcd, .cnp, .fab, .cvu, .rwy, .ust] : List Part), p ∈ P) :
    KeptOut A P s0 (execLinkDown port t s) := by
  unfold execLinkDown
  repeat' first
    | with_reducible assumption | exact inA hA rfl | exact subA hA rfl | exact .inl (inP hP rfl) | exact subP hP rfl
    | with_reducible first
      | intro _ | apply KeptOut.next | apply State.begin_kept | apply State.linkWentDown_kept | dsimp only

theorem State.sideLost_kept {s : State} (hk : Kept A P s0 s) {side : Nat}
    (hA : ∀ a ∈ ([.pend, .cnp, .ust, .cvu, .ingress] : List Area), a ∈ A)
    (hP : ∀ p ∈ ([.out, .pw, .rcd, .cnp, .fab, .cvu, .rwy, .ust] : List Part), p ∈ P) :
    Kept A P s0 (State.sideLost s side) := by
  unfold State.sideLost
  repeat' first
    | with_reducible assumption | exact inA hA rfl | exact subA hA rfl | exact .inl (inP hP rfl) | exact subP hP rfl
    | with_reducible first
      | intro _ | apply State.inaTrigger_kept | apply Kept.ite | dsimp only

theorem execSideLossTimeout_kept {s : State} (hk : Kept A P s0 s) {side : Fin 2} {t : Nat}
    (hA : ∀ a ∈ ([.pend, .cnp, .ust, .cvu, .ingress] : List Area), a ∈ A)
    (hP : ∀ p ∈ ([.now, .resp, .out, .pw, .rcd, .cnp, .fab, .cvu, .rwy, .ust] : List Part), p ∈ P) :
    KeptOut A P s0 (execSideLossTimeout side t s) := by
  unfold execSideLossTimeout
  repeat' first
    | with_reducible assumption | exact inA hA rfl | exact subA hA rfl | exact .inl (inP hP rfl) | exact subP hP rfl
    | with_reducible first
      | intro _ | apply KeptOut.next | apply State.begin_kept | apply State.sideLost_kept | dsimp only

theorem State.showNode_kept {s : State} (hk : Kept A P s0 s) {t : Train} {i : Nat}
    (hA : ∀ a ∈ ([.cnp] : List Area), a ∈ A) :
    Kept A P s0 (State.showNode s t i) := by
  unfold State.showNode
  repeat' first
    | with_reducible assumption | exact inA hA rfl | exact subA hA rfl | with_reducible exact rfl | exact .inr rfl
    | with_reducible first
      | intro _ | apply State.wr_kept | apply State.wrB_kept | split | dsimp only
    | fail_if_no_progress with_reducible apply Kept.upd

theorem State.showNodes_kept {s : State} (hk : Kept A P s0 s) {t : Train} (hA : ∀ a ∈ ([.cnp] : List Area), a ∈ A) :
    Kept A P s0 (State.showNodes s t) := by
  unfold State.showNodes
  refine Kept.foldl (fun u i hu => State.showNode_kept hu hA) ?_ _
  refine Kept.foldl (fun u i hu => State.wr_kept (State.wr_kept hu (inA hA rfl)) (inA hA rfl)) ?_ _
  refine ⟨⟨fun g hg => ?_, fun q hq => Same.trans (hk.1.2 q hq) (by cases q <;> rfl)⟩, hk.2,
    fun c => ⟨tblWf_filter _ (hk.3 c).1, (hk.3 c).2, (hk.3 c).3, (hk.3 c).4, (hk.3 c).5⟩⟩
  rw [← hk.1.1 g hg]
  have hne : (keyGroup g.key == Area.cnp.code) = false := by
    rw [Fld.keyGroup_key]
    exact beq_false_of_ne fun e => hg (Area.code_inj e ▸ inA hA rfl)
  unfold State.rd tblGet
  rw [tblFind_keep, hne]
  rfl

theorem State.showLinks_kept {s : State} (hk : Kept A P s0 s) {t : Train} (hA : ∀ a ∈ ([.cnp] : List Area), a ∈ A)
    (hP : ∀ p ∈ ([.fab] : List Part), p ∈ P) :
    Kept A P s0 (State.showLinks s t) := by
  unfold State.showLinks
  repeat' first
    | with_reducible assumption | exact inA hA rfl | exact subA hA rfl | exact .inl (inP hP rfl) | exact subP hP rfl
    | with_reducible exact rfl | exact .inr rfl
    | with_reducible first
      | intro _ | apply State.setFab_kept | apply State.setPortLink_kept | apply State.wr_kept | apply Kept.ite
      | apply Kept.foldl | split | dsimp only
    | fail_if_no_progress with_reducible apply Kept.upd

theorem State.showSchedule_kept {s : State} (hk : Kept A P s0 s) {t : Train} (hA : ∀ a ∈ ([.cnp] : List Area), a ∈ A) :
    Kept A P s0 (State.showSchedule s t) := by
  unfold State.showSchedule
  repeat' first
    | with_reducible assumption | exact inA hA rfl | exact subA hA rfl | with_reducible exact rfl | exact .inr rfl
    | with_reducible first
      | intro _ | apply State.wr_kept | apply Kept.ite | apply Kept.foldl | split | dsimp only
    | fail_if_no_progress with_reducible apply Kept.upd

theorem State.dropLeft_kept {s : State} (hk : Kept A P s0 s) {t : Train}
    (hA : ∀ a ∈ ([.pend, .cnp, .ingress] : List Area), a ∈ A) (hP : ∀ p ∈ ([.pw, .rcd, .cnp] : List Part), p ∈ P) :
    Kept A P s0 (State.dropLeft s t) := by
  unfold State.dropLeft
  repeat' first
    | with_reducible assumption | exact inA hA rfl | exact subA hA rfl | exact .inl (inP hP rfl) | exact subP hP rfl
    | with_reducible exact rfl | exact .inr rfl
    | with_reducible first
      | intro _ | apply State.claimFail_kept | apply State.freeSpare_kept | apply State.setClaims_kept
      | apply Kept.ite | apply Kept.foldl | dsimp only
    | fail_if_no_progress with_reducible apply Kept.upd

theorem State.showBindings_kept {s : State} (hk : Kept A P s0 s) (hA : ∀ a ∈ ([.cnp] : List Area), a ∈ A) :
    Kept A P s0 (State.showBindings s) := by
  unfold State.showBindings
  repeat' first
    | with_reducible assumption | exact inA hA rfl | exact subA hA rfl | with_reducible exact rfl | exact .inr rfl
    | with_reducible first
      | intro _ | apply State.wrB_kept | apply Kept.ite | apply Kept.foldl | dsimp only
    | fail_if_no_progress with_reducible apply Kept.upd

set_option maxHeartbeats 1000000 in
theorem State.applyTable_kept {s : State} (hk : Kept A P s0 s) {t : Train} (hA : ∀ a ∈ allAreas, a ∈ A)
    (hP : ∀ p ∈ ([.resp, .out, .pw, .rcd, .cnp, .fab, .cvu, .rwy, .ust] : List Part), p ∈ P) :
    Kept A P s0 (State.applyTable s t) := by
  unfold State.applyTable
  repeat' first
    | with_reducible assumption | exact inA hA rfl | exact subA hA rfl | exact .inl (inP hP rfl) | exact subP hP rfl
    | with_reducible exact rfl | exact .inr rfl
    | with_reducible first
      | intro _ | apply State.dropLeft_kept | apply State.etRenumber_kept | apply State.goSilent_kept
      | apply State.leaveActive_kept | apply State.rwRenumber_kept | apply State.setFab_kept
      | apply State.setPlanErr_kept | apply State.showBindings_kept | apply State.showLinks_kept
      | apply State.showNodes_kept | apply State.showSchedule_kept | apply State.wr_kept | apply State.wrB_kept
      | apply Kept.ite | split | dsimp only
    | fail_if_no_progress with_reducible apply Kept.upd

theorem State.tableEffect_kept {s : State} (hk : Kept A P s0 s) (hA : ∀ a ∈ allAreas, a ∈ A)
    (hP : ∀ p ∈ ([.resp, .out, .pw, .rcd, .cnp, .fab, .cvu, .rwy, .ust] : List Part), p ∈ P) :
    Kept A P s0 (State.tableEffect s) := by
  unfold State.tableEffect
  repeat' first
    | with_reducible assumption | exact inA hA rfl | exact subA hA rfl | exact .inl (inP hP rfl) | exact subP hP rfl
    | with_reducible exact rfl | exact .inr rfl
    | with_reducible first
      | intro _ | apply State.applyTable_kept | apply State.bump_kept | apply State.inaAdvance_kept
      | apply State.inaBegin_kept | apply State.inaComplete_kept | apply State.raise_kept | apply State.setFab_kept
      | apply State.setSync_kept | apply State.wr_kept | apply Kept.ite | split | dsimp only
    | fail_if_no_progress with_reducible apply Kept.upd

theorem execTableEffect_kept {s : State} (hk : Kept A P s0 s) {t : Nat} (hA : ∀ a ∈ allAreas, a ∈ A)
    (hP : ∀ p ∈ ([.now, .resp, .out, .pw, .rcd, .cnp, .fab, .cvu, .rwy, .ust] : List Part), p ∈ P) :
    KeptOut A P s0 (execTableEffect t s) := by
  unfold execTableEffect
  repeat' first
    | with_reducible assumption | exact inA hA rfl | exact subA hA rfl | exact .inl (inP hP rfl) | exact subP hP rfl
    | with_reducible first
      | intro _ | apply KeptOut.next | apply State.begin_kept | apply State.tableEffect_kept | dsimp only

theorem State.inaMark_kept {s : State} (hk : Kept A P s0 s)
    (hA : ∀ a ∈ ([.pend, .cnp, .ust, .cvu, .ingress] : List Area), a ∈ A)
    (hP : ∀ p ∈ ([.out, .pw, .rcd, .cnp, .fab, .cvu, .rwy, .ust] : List Part), p ∈ P) :
    Kept A P s0 (State.inaMark s) := by
  unfold State.inaMark
  repeat' first
    | with_reducible assumption | exact inA hA rfl | exact subA hA rfl | exact .inl (inP hP rfl) | exact subP hP rfl
    | with_reducible exact rfl | exact .inr rfl
    | with_reducible first
      | intro _ | apply State.inaAdvance_kept | apply State.inaBegin_kept | apply State.inaComplete_kept
      | apply State.raise_kept | apply State.setFab_kept | apply State.setPortLink_kept | apply State.wr_kept
      | apply Kept.ite | apply Kept.foldl | split | dsimp only
    | fail_if_no_progress with_reducible apply Kept.upd

/-! ### Machine/Rootway.lean -/

theorem State.rwSendOp_kept {s : State} (hk : Kept A P s0 s) {o : RwOp}
    (hA : ∀ a ∈ ([.pend, .cnp, .cvu, .ingress] : List Area), a ∈ A)
    (hP : ∀ p ∈ ([.out, .pw, .rcd, .cnp, .fab, .cvu, .rwy] : List Part), p ∈ P) :
    Kept A P s0 (State.rwSendOp s o) := by
  unfold State.rwSendOp
  repeat' first
    | with_reducible assumption | exact inA hA rfl | exact subA hA rfl | exact .inl (inP hP rfl) | exact subP hP rfl
    | with_reducible exact rfl | exact .inr rfl
    | with_reducible first
      | intro _ | apply State.rwPush_kept | apply Kept.ite | dsimp only
    | fail_if_no_progress with_reducible apply Kept.upd

theorem State.rwIssue_kept {s : State}
    (hk : Kept A P s0 s) {hart : Option Nat} {w op size fn off data : Nat} {route : Option Nat}
    (hA : ∀ a ∈ ([.pend, .cnp, .rwy, .cvu, .ingress] : List Area), a ∈ A)
    (hP : ∀ p ∈ ([.resp, .out, .pw, .rcd, .cnp, .fab, .cvu, .rwy] : List Part), p ∈ P) :
    Kept A P s0 (State.rwIssue s hart w op size fn off data route) := by
  unfold State.rwIssue
  repeat' first
    | with_reducible assumption | exact inA hA rfl | exact subA hA rfl | exact .inl (inP hP rfl) | exact subP hP rfl
    | with_reducible exact rfl | exact .inr rfl
    | with_reducible first
      | intro _ | apply State.rwOpDone_kept | apply State.rwSendOp_kept | apply State.setRwy_kept | apply Kept.ite
      | dsimp only
    | fail_if_no_progress with_reducible apply Kept.upd

theorem State.windowLoad_kept {s : State} (hk : Kept A P s0 s) {h addr size : Nat}
    (hA : ∀ a ∈ ([.pend, .cnp, .rwy, .cvu, .ingress] : List Area), a ∈ A)
    (hP : ∀ p ∈ ([.resp, .out, .pw, .rcd, .std, .cnp, .fab, .cvu, .rwy] : List Part), p ∈ P) :
    Kept A P s0 (State.windowLoad s h addr size) := by
  unfold State.windowLoad
  repeat' first
    | with_reducible assumption | exact inA hA rfl | exact subA hA rfl | exact .inl (inP hP rfl) | exact subP hP rfl
    | with_reducible exact rfl | exact .inr rfl
    | with_reducible first
      | intro _ | apply State.answer_kept | apply State.rwIssue_kept | apply State.slowCode_kept | apply Kept.ite
      | split | dsimp only
    | fail_if_no_progress with_reducible apply Kept.upd

theorem execWindowLoad_kept {s : State}
    (hk : Kept A P s0 s) {hart : Fin 12} {addr : BitVec 36} {size : Fin 4} {t : Nat}
    (hA : ∀ a ∈ ([.pend, .cnp, .rwy, .cvu, .ingress] : List Area), a ∈ A)
    (hP : ∀ p ∈ ([.now, .resp, .out, .pw, .rcd, .std, .cnp, .fab, .cvu, .rwy] : List Part), p ∈ P) :
    KeptOut A P s0 (execWindowLoad hart addr size t s) := by
  unfold execWindowLoad
  repeat' first
    | with_reducible assumption | exact inA hA rfl | exact subA hA rfl | exact .inl (inP hP rfl) | exact subP hP rfl
    | with_reducible first
      | intro _ | apply KeptOut.next | apply State.begin_kept | apply State.windowLoad_kept | apply Kept.ite
      | apply KeptOut.ite | dsimp only

theorem State.windowStore_kept {s : State} (hk : Kept A P s0 s) {addr size data : Nat}
    (hA : ∀ a ∈ ([.pend, .cnp, .rwy, .cvu, .ingress] : List Area), a ∈ A)
    (hP : ∀ p ∈ ([.resp, .out, .pw, .rcd, .cnp, .fab, .cvu, .rwy] : List Part), p ∈ P) :
    Kept A P s0 (State.windowStore s addr size data) := by
  unfold State.windowStore
  repeat' first
    | with_reducible assumption | exact inA hA rfl | exact subA hA rfl | exact .inl (inP hP rfl) | exact subP hP rfl
    | with_reducible exact rfl | exact .inr rfl
    | with_reducible first
      | intro _ | apply State.answer_kept | apply State.rwLog_kept | apply State.rwPush_kept
      | apply State.rwShowPosted_kept | apply State.setRwy_kept | apply Kept.ite | split | dsimp only
    | fail_if_no_progress with_reducible apply Kept.upd

theorem execWindowStore_kept {s : State}
    (hk : Kept A P s0 s) {hart : Fin 12} {addr : BitVec 36} {size : Fin 4} {data : BitVec 64} {t : Nat}
    (hA : ∀ a ∈ ([.pend, .cnp, .rwy, .cvu, .ingress] : List Area), a ∈ A)
    (hP : ∀ p ∈ ([.now, .resp, .out, .pw, .rcd, .cnp, .fab, .cvu, .rwy] : List Part), p ∈ P) :
    KeptOut A P s0 (execWindowStore hart addr size data t s) := by
  unfold execWindowStore
  repeat' first
    | with_reducible assumption | exact inA hA rfl | exact subA hA rfl | exact .inl (inP hP rfl) | exact subP hP rfl
    | with_reducible first
      | intro _ | apply KeptOut.next | apply State.answer_kept | apply State.begin_kept | apply State.windowStore_kept
      | apply Kept.ite | apply KeptOut.ite | dsimp only

theorem State.rwUnlockHeld_kept {s : State} (hk : Kept A P s0 s) {x : RwHeld}
    (hA : ∀ a ∈ ([.pend, .cnp, .cvu, .ingress] : List Area), a ∈ A)
    (hP : ∀ p ∈ ([.out, .pw, .rcd, .cnp, .fab, .cvu, .rwy] : List Part), p ∈ P) :
    Kept A P s0 (State.rwUnlockHeld s x) := by
  unfold State.rwUnlockHeld
  repeat' first
    | with_reducible assumption | exact inA hA rfl | exact subA hA rfl | exact .inl (inP hP rfl) | exact subP hP rfl
    | with_reducible exact rfl | exact .inr rfl
    | with_reducible first
      | intro _ | apply State.rwPush_kept | apply State.setRwy_kept | dsimp only
    | fail_if_no_progress with_reducible apply Kept.upd

theorem State.windowLr_kept {s : State} (hk : Kept A P s0 s) {h addr size : Nat}
    (hA : ∀ a ∈ ([.pend, .cnp, .rwy, .cvu, .ingress] : List Area), a ∈ A)
    (hP : ∀ p ∈ ([.resp, .out, .pw, .rcd, .std, .cnp, .fab, .cvu, .rwy] : List Part), p ∈ P) :
    Kept A P s0 (State.windowLr s h addr size) := by
  unfold State.windowLr
  repeat' first
    | with_reducible assumption | exact inA hA rfl | exact subA hA rfl | exact .inl (inP hP rfl) | exact subP hP rfl
    | with_reducible exact rfl | exact .inr rfl
    | with_reducible first
      | intro _ | apply State.answer_kept | apply State.rwIssue_kept | apply State.rwUnlockHeld_kept
      | apply State.slowCode_kept | apply Kept.ite | split | dsimp only
    | fail_if_no_progress with_reducible apply Kept.upd

theorem execWindowLr_kept {s : State}
    (hk : Kept A P s0 s) {hart : Fin 12} {addr : BitVec 36} {size : Fin 4} {t : Nat}
    (hA : ∀ a ∈ ([.pend, .cnp, .rwy, .cvu, .ingress] : List Area), a ∈ A)
    (hP : ∀ p ∈ ([.now, .resp, .out, .pw, .rcd, .std, .cnp, .fab, .cvu, .rwy] : List Part), p ∈ P) :
    KeptOut A P s0 (execWindowLr hart addr size t s) := by
  unfold execWindowLr
  repeat' first
    | with_reducible assumption | exact inA hA rfl | exact subA hA rfl | exact .inl (inP hP rfl) | exact subP hP rfl
    | with_reducible first
      | intro _ | apply KeptOut.next | apply State.begin_kept | apply State.windowLr_kept | apply Kept.ite
      | apply KeptOut.ite | dsimp only

theorem State.windowAtomic_kept {s : State} (hk : Kept A P s0 s) {h op addr size fn data : Nat}
    (hA : ∀ a ∈ ([.pend, .cnp, .rwy, .cvu, .ingress] : List Area), a ∈ A)
    (hP : ∀ p ∈ ([.resp, .out, .pw, .rcd, .std, .cnp, .fab, .cvu, .rwy] : List Part), p ∈ P) :
    Kept A P s0 (State.windowAtomic s h op addr size fn data) := by
  unfold State.windowAtomic
  repeat' first
    | with_reducible assumption | exact inA hA rfl | exact subA hA rfl | exact .inl (inP hP rfl) | exact subP hP rfl
    | with_reducible exact rfl | exact .inr rfl
    | with_reducible first
      | intro _ | apply State.answer_kept | apply State.rwIssue_kept | apply State.slowCode_kept | apply Kept.ite
      | split | dsimp only
    | fail_if_no_progress with_reducible apply Kept.upd

theorem execWindowSc_kept {s : State}
    (hk : Kept A P s0 s) {hart : Fin 12} {addr : BitVec 36} {size : Fin 4} {data : BitVec 64} {t : Nat}
    (hA : ∀ a ∈ ([.pend, .cnp, .rwy, .cvu, .ingress] : List Area), a ∈ A)
    (hP : ∀ p ∈ ([.now, .resp, .out, .pw, .rcd, .std, .cnp, .fab, .cvu, .rwy] : List Part), p ∈ P) :
    KeptOut A P s0 (execWindowSc hart addr size data t s) := by
  unfold execWindowSc
  repeat' first
    | with_reducible assumption | exact inA hA rfl | exact subA hA rfl | exact .inl (inP hP rfl) | exact subP hP rfl
    | with_reducible first
      | intro _ | apply KeptOut.next | apply State.answer_kept | apply State.begin_kept
      | apply State.windowAtomic_kept | apply Kept.ite | apply KeptOut.ite | dsimp only

theorem execWindowAmo_kept {s : State}
    (hk : Kept A P s0 s) {hart : Fin 12} {addr : BitVec 36} {size : Fin 4} {fn : BitVec 5} {data : BitVec 64} {t : Nat} (hA : ∀ a ∈ ([.pend, .cnp, .rwy, .cvu, .ingress] : List Area), a ∈ A) (hP : ∀ p ∈ ([.now, .resp, .out, .pw, .rcd, .std, .cnp, .fab, .cvu, .rwy] : List Part), p ∈ P) :
    KeptOut A P s0 (execWindowAmo hart addr size fn data t s) := by
  unfold execWindowAmo
  repeat' first
    | with_reducible assumption | exact inA hA rfl | exact subA hA rfl | exact .inl (inP hP rfl) | exact subP hP rfl
    | with_reducible first
      | intro _ | apply KeptOut.next | apply State.answer_kept | apply State.begin_kept
      | apply State.windowAtomic_kept | apply Kept.ite | apply KeptOut.ite | dsimp only

theorem State.rwAnswer_kept {s : State} (hk : Kept A P s0 s) {r : RwIn} {status : Nat} {data : Option Nat}
    (hA : ∀ a ∈ ([.pend, .cnp, .cvu, .ingress] : List Area), a ∈ A)
    (hP : ∀ p ∈ ([.out, .pw, .rcd, .cnp, .fab, .cvu, .rwy] : List Part), p ∈ P) :
    Kept A P s0 (State.rwAnswer s r status data) := by
  unfold State.rwAnswer
  repeat' first
    | with_reducible assumption | exact inA hA rfl | exact subA hA rfl | exact .inl (inP hP rfl) | exact subP hP rfl
    | with_reducible exact rfl | exact .inr rfl
    | with_reducible first
      | intro _ | apply State.rwPush_kept | apply Kept.ite | dsimp only
    | fail_if_no_progress with_reducible apply Kept.upd

theorem State.rwRefuse_kept {s : State} (hk : Kept A P s0 s) {r : RwIn} {status : Nat}
    (hA : ∀ a ∈ ([.pend, .cnp, .rwy, .cvu, .ingress] : List Area), a ∈ A)
    (hP : ∀ p ∈ ([.out, .pw, .rcd, .cnp, .fab, .cvu, .rwy] : List Part), p ∈ P) :
    Kept A P s0 (State.rwRefuse s r status) := by
  unfold State.rwRefuse
  repeat' first
    | with_reducible assumption | exact inA hA rfl | exact subA hA rfl | exact .inl (inP hP rfl) | exact subP hP rfl
    | with_reducible first
      | intro _ | apply State.bump_kept | apply State.raise_kept | apply State.rwAnswer_kept | apply State.wr_kept
      | apply Kept.ite | dsimp only

theorem State.rwServed_kept {s : State} (hk : Kept A P s0 s) {r : RwIn} {status : Nat} {data : Option Nat}
    (hA : ∀ a ∈ ([.pend, .cnp, .rwy, .cvu, .ingress] : List Area), a ∈ A)
    (hP : ∀ p ∈ ([.out, .pw, .rcd, .cnp, .fab, .cvu, .rwy] : List Part), p ∈ P) :
    Kept A P s0 (State.rwServed s r status data) := by
  unfold State.rwServed
  repeat' first
    | with_reducible assumption | exact inA hA rfl | exact subA hA rfl | exact .inl (inP hP rfl) | exact subP hP rfl
    | with_reducible first
      | intro _ | apply State.bump_kept | apply State.rwAnswer_kept | apply State.rwRefuse_kept | apply Kept.ite
      | dsimp only

theorem State.rwFetch_kept {s : State} (hk : Kept A P s0 s) {m : List Byte}
    (hA : ∀ a ∈ ([.pend, .ecc, .cpc, .ingress] : List Area), a ∈ A)
    (hP : ∀ p ∈ ([.mem, .leMem, .pw, .rcd, .cop, .ecc] : List Part), p ∈ P) :
    Kept A P s0 (State.rwFetch s m).2 := by
  unfold State.rwFetch
  repeat' first
    | with_reducible assumption | exact inA hA rfl | exact subA hA rfl | exact .inl (inP hP rfl) | exact subP hP rfl
    | with_reducible exact rfl | exact .inr rfl
    | with_reducible first
      | intro _ | apply State.seeRange_kept | apply Kept.ite | refine Kept.snd ?_ (by assumption)
      | refine Kept.fst ?_ (by assumption) | split | dsimp only
    | fail_if_no_progress with_reducible apply Kept.upd

theorem State.rwPut_kept {s : State} (hk : Kept A P s0 s) {m : List Byte} {v : Nat}
    (hA : ∀ a ∈ ([.pend, .ecc, .cpc, .cvu, .ingress] : List Area), a ∈ A)
    (hP : ∀ p ∈ ([.mem, .leMem, .pw, .rcd, .cop, .ecc, .cvu] : List Part), p ∈ P) :
    Kept A P s0 (State.rwPut s m v).2 := by
  unfold State.rwPut
  repeat' first
    | with_reducible assumption | exact inA hA rfl | exact subA hA rfl | exact .inl (inP hP rfl) | exact subP hP rfl
    | with_reducible first
      | intro _ | apply State.mergeStore_kept | apply Kept.ite | refine Kept.snd ?_ (by assumption)
      | refine Kept.fst ?_ (by assumption) | split | dsimp only

theorem State.rwShow_kept {s : State} (hk : Kept A P s0 s) (hA : ∀ a ∈ ([.rwy] : List Area), a ∈ A) :
    Kept A P s0 (State.rwShow s) := by
  unfold State.rwShow
  repeat' first
    | with_reducible assumption | exact inA hA rfl | exact subA hA rfl | with_reducible exact rfl | exact .inr rfl
    | with_reducible first
      | intro _ | apply State.wr_kept | apply Kept.foldl | split | dsimp only
    | fail_if_no_progress with_reducible apply Kept.upd

theorem State.setLock_kept {s : State} (hk : Kept A P s0 s) {a : Nat} {l : Option RwLock}
    (hP : ∀ p ∈ ([.rwy] : List Part), p ∈ P) :
    Kept A P s0 (State.setLock s a l) := by
  unfold State.setLock
  repeat' first
    | with_reducible assumption | exact .inl (inP hP rfl) | exact subP hP rfl | with_reducible exact rfl
    | exact .inr rfl
    | with_reducible first
      | intro _ | apply State.setRwy_kept | split | dsimp only
    | fail_if_no_progress with_reducible apply Kept.upd

theorem State.amoResult_kept {s : State} (hk : Kept A P s0 s) {fn w old v : Nat}
    (hP : ∀ p ∈ ([.fresh] : List Part), p ∈ P) :
    Kept A P s0 (State.amoResult s fn w old v).2 := by
  unfold State.amoResult
  repeat' first
    | with_reducible assumption | exact .inl (inP hP rfl) | exact subP hP rfl | with_reducible exact rfl
    | exact .inr rfl
    | with_reducible first
      | intro _ | apply State.free_kept | apply Kept.ite | refine Kept.snd ?_ (by assumption)
      | refine Kept.fst ?_ (by assumption) | split | split | dsimp only
    | fail_if_no_progress with_reducible apply Kept.upd

theorem State.rwLocked_kept {s : State} (hk : Kept A P s0 s) {r : RwIn}
    (hA : ∀ a ∈ ([.pend, .ecc, .cpc, .cnp, .rwy, .cvu, .ingress] : List Area), a ∈ A)
    (hP : ∀ p ∈ ([.mem, .leMem, .out, .fresh, .pw, .rcd, .cop, .ecc, .cnp, .fab, .cvu, .rwy] : List Part), p ∈ P) :
    Kept A P s0 (State.rwLocked s r) := by
  unfold State.rwLocked
  repeat' first
    | with_reducible assumption | exact inA hA rfl | exact subA hA rfl | exact .inl (inP hP rfl) | exact subP hP rfl
    | with_reducible exact rfl | exact .inr rfl
    | with_reducible first
      | intro _ | apply State.amoResult_kept | apply State.rwAnswer_kept | apply State.rwFetch_kept
      | apply State.rwPut_kept | apply State.rwRefuse_kept | apply State.rwServed_kept | apply State.setLock_kept
      | apply State.setRwy_kept | apply Kept.ite | refine Kept.snd ?_ (by assumption)
      | refine Kept.fst ?_ (by assumption) | split | split | dsimp only
    | fail_if_no_progress with_reducible apply Kept.upd

theorem State.rwReleased_kept {s : State} (hk : Kept A P s0 s) {a : Nat}
    (hA : ∀ a ∈ ([.pend, .ecc, .cpc, .cnp, .rwy, .cvu, .ingress] : List Area), a ∈ A)
    (hP : ∀ p ∈ ([.mem, .leMem, .out, .fresh, .pw, .rcd, .cop, .ecc, .cnp, .fab, .cvu, .rwy] : List Part), p ∈ P) :
    Kept A P s0 (State.rwReleased s a) := by
  unfold State.rwReleased
  repeat' first
    | with_reducible assumption | exact inA hA rfl | exact subA hA rfl | exact .inl (inP hP rfl) | exact subP hP rfl
    | with_reducible exact rfl | exact .inr rfl
    | with_reducible first
      | intro _ | apply State.rwLocked_kept | apply State.rwRefuse_kept | apply State.rwShow_kept
      | apply State.setLock_kept | apply State.setRwy_kept | apply Kept.ite | apply Kept.foldl | dsimp only
    | fail_if_no_progress with_reducible apply Kept.upd

theorem State.rwAgain_kept {s : State} (hk : Kept A P s0 s)
    (hA : ∀ a ∈ ([.pend, .cnp, .cvu, .ingress] : List Area), a ∈ A)
    (hP : ∀ p ∈ ([.out, .pw, .rcd, .cnp, .fab, .cvu, .rwy] : List Part), p ∈ P) :
    Kept A P s0 (State.rwAgain s) := by
  unfold State.rwAgain
  repeat' first
    | with_reducible assumption | exact inA hA rfl | exact subA hA rfl | exact .inl (inP hP rfl) | exact subP hP rfl
    | with_reducible exact rfl | exact .inr rfl
    | with_reducible first
      | intro _ | apply State.rwSendOp_kept | apply State.setRwy_kept | apply Kept.ite | apply Kept.foldl | dsimp only
    | fail_if_no_progress with_reducible apply Kept.upd

theorem State.rwInbound_kept {s : State} (hk : Kept A P s0 s) {r : RwIn}
    (hA : ∀ a ∈ ([.pend, .ecc, .cpc, .cnp, .rwy, .cvu, .ingress] : List Area), a ∈ A)
    (hP : ∀ p ∈ ([.mem, .leMem, .out, .fresh, .pw, .rcd, .cop, .ecc, .cnp, .fab, .cvu, .rwy] : List Part), p ∈ P) :
    Kept A P s0 (State.rwInbound s r) := by
  unfold State.rwInbound
  repeat' first
    | with_reducible assumption | exact inA hA rfl | exact subA hA rfl | exact .inl (inP hP rfl) | exact subP hP rfl
    | with_reducible exact rfl | exact .inr rfl
    | with_reducible first
      | intro _ | apply State.rwAgain_kept | apply State.rwLocked_kept | apply State.rwPut_kept
      | apply State.rwRefuse_kept | apply State.rwReleased_kept | apply State.rwServed_kept | apply State.rwShow_kept
      | apply Kept.ite | refine Kept.snd ?_ (by assumption) | refine Kept.fst ?_ (by assumption) | split | split
      | dsimp only
    | fail_if_no_progress with_reducible apply Kept.upd

theorem State.rwArrives_kept {s : State} (hk : Kept A P s0 s) {op plane node : Nat} {m : List Byte}
    (hA : ∀ a ∈ ([.pend, .ecc, .cpc, .cnp, .rwy, .cvu, .ingress] : List Area), a ∈ A)
    (hP : ∀ p ∈ ([.mem, .leMem, .out, .fresh, .pw, .rcd, .cop, .ecc, .cnp, .fab, .cvu, .rwy] : List Part), p ∈ P) :
    Kept A P s0 (State.rwArrives s op plane node m) := by
  unfold State.rwArrives
  repeat' first
    | with_reducible assumption | exact inA hA rfl | exact subA hA rfl | exact .inl (inP hP rfl) | exact subP hP rfl
    | with_reducible exact rfl | exact .inr rfl
    | with_reducible first
      | intro _ | apply State.rwInbound_kept | apply Kept.ite | dsimp only
    | fail_if_no_progress with_reducible apply Kept.upd

theorem execRwRead_kept {s : State}
    (hk : Kept A P s0 s) {plane : Fin 2} {node : Fin 129} {msg : List Byte} {t : Nat}
    (hA : ∀ a ∈ ([.pend, .ecc, .cpc, .cnp, .rwy, .cvu, .ingress] : List Area), a ∈ A)
    (hP : ∀ p ∈ ([.now, .mem, .leMem, .resp, .out, .fresh, .pw, .rcd, .cop, .ecc, .cnp, .fab, .cvu, .rwy] : List Part), p ∈ P) :
    KeptOut A P s0 (execRwRead plane node msg t s) := by
  unfold execRwRead
  repeat' first
    | with_reducible assumption | exact inA hA rfl | exact subA hA rfl | exact .inl (inP hP rfl) | exact subP hP rfl
    | with_reducible first
      | intro _ | apply KeptOut.next | apply State.begin_kept | apply State.rwArrives_kept | dsimp only

theorem execRwWrite_kept {s : State}
    (hk : Kept A P s0 s) {plane : Fin 2} {node : Fin 129} {msg : List Byte} {t : Nat}
    (hA : ∀ a ∈ ([.pend, .ecc, .cpc, .cnp, .rwy, .cvu, .ingress] : List Area), a ∈ A)
    (hP : ∀ p ∈ ([.now, .mem, .leMem, .resp, .out, .fresh, .pw, .rcd, .cop, .ecc, .cnp, .fab, .cvu, .rwy] : List Part), p ∈ P) :
    KeptOut A P s0 (execRwWrite plane node msg t s) := by
  unfold execRwWrite
  repeat' first
    | with_reducible assumption | exact inA hA rfl | exact subA hA rfl | exact .inl (inP hP rfl) | exact subP hP rfl
    | with_reducible first
      | intro _ | apply KeptOut.next | apply State.begin_kept | apply State.rwArrives_kept | dsimp only

theorem execRwLockrd_kept {s : State}
    (hk : Kept A P s0 s) {plane : Fin 2} {node : Fin 129} {msg : List Byte} {t : Nat}
    (hA : ∀ a ∈ ([.pend, .ecc, .cpc, .cnp, .rwy, .cvu, .ingress] : List Area), a ∈ A)
    (hP : ∀ p ∈ ([.now, .mem, .leMem, .resp, .out, .fresh, .pw, .rcd, .cop, .ecc, .cnp, .fab, .cvu, .rwy] : List Part), p ∈ P) :
    KeptOut A P s0 (execRwLockrd plane node msg t s) := by
  unfold execRwLockrd
  repeat' first
    | with_reducible assumption | exact inA hA rfl | exact subA hA rfl | exact .inl (inP hP rfl) | exact subP hP rfl
    | with_reducible first
      | intro _ | apply KeptOut.next | apply State.begin_kept | apply State.rwArrives_kept | dsimp only

theorem execRwWrunlk_kept {s : State}
    (hk : Kept A P s0 s) {plane : Fin 2} {node : Fin 129} {msg : List Byte} {t : Nat}
    (hA : ∀ a ∈ ([.pend, .ecc, .cpc, .cnp, .rwy, .cvu, .ingress] : List Area), a ∈ A)
    (hP : ∀ p ∈ ([.now, .mem, .leMem, .resp, .out, .fresh, .pw, .rcd, .cop, .ecc, .cnp, .fab, .cvu, .rwy] : List Part), p ∈ P) :
    KeptOut A P s0 (execRwWrunlk plane node msg t s) := by
  unfold execRwWrunlk
  repeat' first
    | with_reducible assumption | exact inA hA rfl | exact subA hA rfl | exact .inl (inP hP rfl) | exact subP hP rfl
    | with_reducible first
      | intro _ | apply KeptOut.next | apply State.begin_kept | apply State.rwArrives_kept | dsimp only

theorem execRwUnlock_kept {s : State}
    (hk : Kept A P s0 s) {plane : Fin 2} {node : Fin 129} {msg : List Byte} {t : Nat}
    (hA : ∀ a ∈ ([.pend, .ecc, .cpc, .cnp, .rwy, .cvu, .ingress] : List Area), a ∈ A)
    (hP : ∀ p ∈ ([.now, .mem, .leMem, .resp, .out, .fresh, .pw, .rcd, .cop, .ecc, .cnp, .fab, .cvu, .rwy] : List Part), p ∈ P) :
    KeptOut A P s0 (execRwUnlock plane node msg t s) := by
  unfold execRwUnlock
  repeat' first
    | with_reducible assumption | exact inA hA rfl | exact subA hA rfl | exact .inl (inP hP rfl) | exact subP hP rfl
    | with_reducible first
      | intro _ | apply KeptOut.next | apply State.begin_kept | apply State.rwArrives_kept | dsimp only

theorem execRwAmo_kept {s : State}
    (hk : Kept A P s0 s) {plane : Fin 2} {node : Fin 129} {msg : List Byte} {t : Nat}
    (hA : ∀ a ∈ ([.pend, .ecc, .cpc, .cnp, .rwy, .cvu, .ingress] : List Area), a ∈ A)
    (hP : ∀ p ∈ ([.now, .mem, .leMem, .resp, .out, .fresh, .pw, .rcd, .cop, .ecc, .cnp, .fab, .cvu, .rwy] : List Part), p ∈ P) :
    KeptOut A P s0 (execRwAmo plane node msg t s) := by
  unfold execRwAmo
  repeat' first
    | with_reducible assumption | exact inA hA rfl | exact subA hA rfl | exact .inl (inP hP rfl) | exact subP hP rfl
    | with_reducible first
      | intro _ | apply KeptOut.next | apply State.begin_kept | apply State.rwArrives_kept | dsimp only

theorem execRwPoll_kept {s : State}
    (hk : Kept A P s0 s) {plane : Fin 2} {node : Fin 129} {msg : List Byte} {t : Nat}
    (hA : ∀ a ∈ ([.pend, .ecc, .cpc, .cnp, .rwy, .cvu, .ingress] : List Area), a ∈ A)
    (hP : ∀ p ∈ ([.now, .mem, .leMem, .resp, .out, .fresh, .pw, .rcd, .cop, .ecc, .cnp, .fab, .cvu, .rwy] : List Part), p ∈ P) :
    KeptOut A P s0 (execRwPoll plane node msg t s) := by
  unfold execRwPoll
  repeat' first
    | with_reducible assumption | exact inA hA rfl | exact subA hA rfl | exact .inl (inP hP rfl) | exact subP hP rfl
    | with_reducible first
      | intro _ | apply KeptOut.next | apply State.begin_kept | apply State.rwArrives_kept | dsimp only

theorem State.rwResp_kept {s : State} (hk : Kept A P s0 s) {node : Nat} {m : List Byte}
    (hA : ∀ a ∈ ([.pend, .cnp, .rwy, .cvu, .ingress] : List Area), a ∈ A)
    (hP : ∀ p ∈ ([.resp, .out, .pw, .rcd, .cnp, .fab, .cvu, .rwy] : List Part), p ∈ P) :
    Kept A P s0 (State.rwResp s node m) := by
  unfold State.rwResp
  repeat' first
    | with_reducible assumption | exact inA hA rfl | exact subA hA rfl | exact .inl (inP hP rfl) | exact subP hP rfl
    | with_reducible exact rfl | exact .inr rfl
    | with_reducible first
      | intro _ | apply State.bump_kept | apply State.rwAgain_kept | apply State.rwOpDone_kept
      | apply State.setRwy_kept | apply Kept.ite | split | dsimp only
    | fail_if_no_progress with_reducible apply Kept.upd

theorem execRwResp_kept {s : State} (hk : Kept A P s0 s) {node : Fin 129} {msg : List Byte} {t : Nat}
    (hA : ∀ a ∈ ([.pend, .cnp, .rwy, .cvu, .ingress] : List Area), a ∈ A)
    (hP : ∀ p ∈ ([.now, .resp, .out, .pw, .rcd, .cnp, .fab, .cvu, .rwy] : List Part), p ∈ P) :
    KeptOut A P s0 (execRwResp node msg t s) := by
  unfold execRwResp
  repeat' first
    | with_reducible assumption | exact inA hA rfl | exact subA hA rfl | exact .inl (inP hP rfl) | exact subP hP rfl
    | with_reducible first
      | intro _ | apply KeptOut.next | apply State.begin_kept | apply State.rwResp_kept | dsimp only

theorem State.rwWack_kept {s : State} (hk : Kept A P s0 s) {node : Nat} {m : List Byte}
    (hA : ∀ a ∈ ([.pend, .rwy] : List Area), a ∈ A) (hP : ∀ p ∈ ([.resp, .out, .rwy] : List Part), p ∈ P) :
    Kept A P s0 (State.rwWack s node m) := by
  unfold State.rwWack
  repeat' first
    | with_reducible assumption | exact inA hA rfl | exact subA hA rfl | exact .inl (inP hP rfl) | exact subP hP rfl
    | with_reducible exact rfl | exact .inr rfl
    | with_reducible first
      | intro _ | apply State.rwPostDone_kept | apply Kept.ite | split | dsimp only
    | fail_if_no_progress with_reducible apply Kept.upd

theorem execRwWack_kept {s : State} (hk : Kept A P s0 s) {node : Fin 129} {msg : List Byte} {t : Nat}
    (hA : ∀ a ∈ ([.pend, .rwy] : List Area), a ∈ A) (hP : ∀ p ∈ ([.now, .resp, .out, .rwy] : List Part), p ∈ P) :
    KeptOut A P s0 (execRwWack node msg t s) := by
  unfold execRwWack
  repeat' first
    | with_reducible assumption | exact inA hA rfl | exact subA hA rfl | exact .inl (inP hP rfl) | exact subP hP rfl
    | with_reducible first
      | intro _ | apply KeptOut.next | apply State.begin_kept | apply State.rwWack_kept | dsimp only

theorem State.rwTimeout_kept {s : State} (hk : Kept A P s0 s) (hA : ∀ a ∈ ([.pend, .rwy] : List Area), a ∈ A)
    (hP : ∀ p ∈ ([.resp, .out, .cnp, .rwy] : List Part), p ∈ P) :
    Kept A P s0 (State.rwTimeout s) := by
  unfold State.rwTimeout
  repeat' first
    | with_reducible assumption | exact inA hA rfl | exact subA hA rfl | exact .inl (inP hP rfl) | exact subP hP rfl
    | with_reducible first
      | intro _ | apply State.rwOpDone_kept | apply State.rwPostDone_kept | apply State.rwUnsend_kept
      | apply Kept.foldl | dsimp only

theorem execRootwayTimeout_kept {s : State} (hk : Kept A P s0 s) {t : Nat}
    (hA : ∀ a ∈ ([.pend, .rwy] : List Area), a ∈ A)
    (hP : ∀ p ∈ ([.now, .resp, .out, .cnp, .rwy] : List Part), p ∈ P) :
    KeptOut A P s0 (execRootwayTimeout t s) := by
  unfold execRootwayTimeout
  repeat' first
    | with_reducible assumption | exact inA hA rfl | exact subA hA rfl | exact .inl (inP hP rfl) | exact subP hP rfl
    | with_reducible first
      | intro _ | apply KeptOut.next | apply State.begin_kept | apply State.rwTimeout_kept | dsimp only

theorem State.lockExpiry_kept {s : State} (hk : Kept A P s0 s) {a : Nat}
    (hA : ∀ a ∈ ([.pend, .ecc, .cpc, .cnp, .rwy, .cvu, .ingress] : List Area), a ∈ A)
    (hP : ∀ p ∈ ([.mem, .leMem, .out, .fresh, .pw, .rcd, .cop, .ecc, .cnp, .fab, .cvu, .rwy] : List Part), p ∈ P) :
    Kept A P s0 (State.lockExpiry s a) := by
  unfold State.lockExpiry
  repeat' first
    | with_reducible assumption | exact inA hA rfl | exact subA hA rfl | exact .inl (inP hP rfl) | exact subP hP rfl
    | with_reducible exact rfl | exact .inr rfl
    | with_reducible first
      | intro _ | apply State.bump_kept | apply State.raise_kept | apply State.rwAgain_kept
      | apply State.rwReleased_kept | apply State.wr_kept | apply Kept.ite | split | dsimp only
    | fail_if_no_progress with_reducible apply Kept.upd

theorem execLockExpiry_kept {s : State} (hk : Kept A P s0 s) {a : Fin 4} {t : Nat}
    (hA : ∀ a ∈ ([.pend, .ecc, .cpc, .cnp, .rwy, .cvu, .ingress] : List Area), a ∈ A)
    (hP : ∀ p ∈ ([.now, .mem, .leMem, .resp, .out, .fresh, .pw, .rcd, .cop, .ecc, .cnp, .fab, .cvu, .rwy] : List Part), p ∈ P) :
    KeptOut A P s0 (execLockExpiry a t s) := by
  unfold execLockExpiry
  repeat' first
    | with_reducible assumption | exact inA hA rfl | exact subA hA rfl | exact .inl (inP hP rfl) | exact subP hP rfl
    | with_reducible first
      | intro _ | apply KeptOut.next | apply State.begin_kept | apply State.lockExpiry_kept | dsimp only

theorem State.fenceRead_kept {s : State} (hk : Kept A P s0 s) {h w : Nat}
    (hP : ∀ p ∈ ([.resp, .out, .std, .rwy] : List Part), p ∈ P) :
    Kept A P s0 (State.fenceRead s h w) := by
  unfold State.fenceRead
  repeat' first
    | with_reducible assumption | exact .inl (inP hP rfl) | exact subP hP rfl | with_reducible exact rfl
    | exact .inr rfl
    | with_reducible first
      | intro _ | apply State.rwFenceAnswer_kept | apply State.setRwy_kept | apply State.slowCode_kept
      | apply Kept.ite | dsimp only
    | fail_if_no_progress with_reducible apply Kept.upd

theorem execFenceRead_kept {s : State} (hk : Kept A P s0 s) {hart : Fin 12} {w : Fin 16} {t : Nat}
    (hP : ∀ p ∈ ([.now, .resp, .out, .std, .rwy] : List Part), p ∈ P) :
    KeptOut A P s0 (execFenceRead hart w t s) := by
  unfold execFenceRead
  repeat' first
    | with_reducible assumption | exact .inl (inP hP rfl) | exact subP hP rfl
    | with_reducible first
      | intro _ | apply KeptOut.next | apply State.begin_kept | apply State.fenceRead_kept | apply Kept.ite
      | apply KeptOut.ite | dsimp only

theorem State.doorbellPoll_kept {s : State} (hk : Kept A P s0 s)
    (hA : ∀ a ∈ ([.pend, .cnp, .rwy, .cvu, .ingress] : List Area), a ∈ A)
    (hP : ∀ p ∈ ([.resp, .out, .pw, .rcd, .cnp, .fab, .cvu, .rwy] : List Part), p ∈ P) :
    Kept A P s0 (State.doorbellPoll s) := by
  unfold State.doorbellPoll
  repeat' first
    | with_reducible assumption | exact inA hA rfl | exact subA hA rfl | exact .inl (inP hP rfl) | exact subP hP rfl
    | with_reducible first
      | intro _ | apply State.rwIssue_kept | apply Kept.ite | apply Kept.foldl | dsimp only

theorem execDoorbellPoll_kept {s : State} (hk : Kept A P s0 s) {t : Nat}
    (hA : ∀ a ∈ ([.pend, .cnp, .rwy, .cvu, .ingress] : List Area), a ∈ A)
    (hP : ∀ p ∈ ([.now, .resp, .out, .pw, .rcd, .cnp, .fab, .cvu, .rwy] : List Part), p ∈ P) :
    KeptOut A P s0 (execDoorbellPoll t s) := by
  unfold execDoorbellPoll
  repeat' first
    | with_reducible assumption | exact inA hA rfl | exact subA hA rfl | exact .inl (inP hP rfl) | exact subP hP rfl
    | with_reducible first
      | intro _ | apply KeptOut.next | apply State.begin_kept | apply State.doorbellPoll_kept | dsimp only

theorem State.aperEnable_kept {s : State} (hk : Kept A P s0 s) {a v : Nat} (hA : ∀ a ∈ allAreas, a ∈ A) :
    Kept A P s0 (State.aperEnable s a v) := by
  unfold State.aperEnable
  repeat' first
    | with_reducible assumption | exact inA hA rfl | exact subA hA rfl
    | with_reducible first
      | intro _ | apply State.putWord_kept | apply State.wr_kept | apply Kept.ite | dsimp only

theorem execApertureEnable_kept {s : State} (hk : Kept A P s0 s) {a : Fin 4} {v : BitVec 32} {t : Nat}
    (hA : ∀ a ∈ allAreas, a ∈ A) (hP : ∀ p ∈ ([.now, .resp, .out] : List Part), p ∈ P) :
    KeptOut A P s0 (execApertureEnable a v t s) := by
  unfold execApertureEnable
  repeat' first
    | with_reducible assumption | exact inA hA rfl | exact subA hA rfl | exact .inl (inP hP rfl) | exact subP hP rfl
    | with_reducible first
      | intro _ | apply KeptOut.next | apply State.aperEnable_kept | apply State.begin_kept | apply Kept.ite
      | apply KeptOut.ite | dsimp only

theorem State.rootwayStop_kept {s : State} (hk : Kept A P s0 s)
    (hA : ∀ a ∈ ([.pend, .cnp, .rwy, .cvu, .ingress] : List Area), a ∈ A)
    (hP : ∀ p ∈ ([.resp, .out, .pw, .rcd, .cnp, .fab, .cvu, .rwy] : List Part), p ∈ P) :
    Kept A P s0 (State.rootwayStop s) := by
  unfold State.rootwayStop
  repeat' first
    | with_reducible assumption | exact inA hA rfl | exact subA hA rfl | exact .inl (inP hP rfl) | exact subP hP rfl
    | with_reducible exact rfl | exact .inr rfl
    | with_reducible first
      | intro _ | apply State.rwAnswer_kept | apply State.rwOpDone_kept | apply State.rwPostDone_kept
      | apply State.rwShow_kept | apply State.rwUnsend_kept | apply State.setRwy_kept | apply Kept.foldl | dsimp only
    | fail_if_no_progress with_reducible apply Kept.upd

theorem State.rootwayReset_kept {s : State} (hk : Kept A P s0 s)
    (hA : ∀ a ∈ ([.pend, .cnp, .rwy, .cvu, .ingress] : List Area), a ∈ A)
    (hP : ∀ p ∈ ([.resp, .out, .pw, .rcd, .cnp, .fab, .cvu, .rwy] : List Part), p ∈ P) :
    Kept A P s0 (State.rootwayReset s) := by
  unfold State.rootwayReset
  repeat' first
    | with_reducible assumption | exact inA hA rfl | exact subA hA rfl | exact .inl (inP hP rfl) | exact subP hP rfl
    | exact fun a h => mem_of_inArea hA h (hm := rfl) | exact fun a _ => hA _ (mem_allAreas _)
    | with_reducible first
      | intro _ | apply State.restore_kept | apply State.rootwayStop_kept | dsimp only

theorem execRootwayReset_kept {s : State} (hk : Kept A P s0 s) {t : Nat}
    (hA : ∀ a ∈ ([.pend, .cnp, .rwy, .cvu, .ingress] : List Area), a ∈ A)
    (hP : ∀ p ∈ ([.now, .resp, .out, .pw, .rcd, .cnp, .fab, .cvu, .rwy] : List Part), p ∈ P) :
    KeptOut A P s0 (execRootwayReset t s) := by
  unfold execRootwayReset
  repeat' first
    | with_reducible assumption | exact inA hA rfl | exact subA hA rfl | exact .inl (inP hP rfl) | exact subP hP rfl
    | with_reducible first
      | intro _ | apply KeptOut.next | apply State.begin_kept | apply State.rootwayReset_kept | apply Kept.ite
      | apply KeptOut.ite | dsimp only

theorem State.rootwayResetDone_kept {s : State} (hk : Kept A P s0 s)
    (hA : ∀ a ∈ ([.pend, .cnp, .rwy, .cvu, .ingress] : List Area), a ∈ A)
    (hP : ∀ p ∈ ([.out, .pw, .rcd, .cnp, .fab, .cvu, .rwy] : List Part), p ∈ P) :
    Kept A P s0 (State.rootwayResetDone s) := by
  unfold State.rootwayResetDone
  repeat' first
    | with_reducible assumption | exact inA hA rfl | exact subA hA rfl | exact .inl (inP hP rfl) | exact subP hP rfl
    | with_reducible exact rfl | exact .inr rfl
    | with_reducible first
      | intro _ | apply State.raise_kept | apply State.rwFlush_kept | apply State.rwResolve_kept
      | apply State.setRwy_kept | apply Kept.ite | apply Kept.foldl | dsimp only
    | fail_if_no_progress with_reducible apply Kept.upd

theorem execRootwayResetDone_kept {s : State} (hk : Kept A P s0 s) {t : Nat}
    (hA : ∀ a ∈ ([.pend, .cnp, .rwy, .cvu, .ingress] : List Area), a ∈ A)
    (hP : ∀ p ∈ ([.now, .resp, .out, .pw, .rcd, .cnp, .fab, .cvu, .rwy] : List Part), p ∈ P) :
    KeptOut A P s0 (execRootwayResetDone t s) := by
  unfold execRootwayResetDone
  repeat' first
    | with_reducible assumption | exact inA hA rfl | exact subA hA rfl | exact .inl (inP hP rfl) | exact subP hP rfl
    | with_reducible first
      | intro _ | apply KeptOut.next | apply State.begin_kept | apply State.rootwayResetDone_kept | dsimp only

/-! ### Machine/Understory.lean -/

theorem State.setUport_kept {s : State} (hk : Kept A P s0 s) {p : Nat} {x : UPort}
    (hP : ∀ p ∈ ([.ust] : List Part), p ∈ P) :
    Kept A P s0 (State.setUport s p x) := by
  unfold State.setUport
  repeat' first
    | with_reducible assumption | exact .inl (inP hP rfl) | exact subP hP rfl | with_reducible exact rfl
    | exact .inr rfl
    | with_reducible first
      | intro _ | dsimp only
    | fail_if_no_progress with_reducible apply Kept.upd

theorem State.setTunnel_kept {s : State} (hk : Kept A P s0 s) {t : Nat} {x : Tunnel}
    (hA : ∀ a ∈ ([.ust] : List Area), a ∈ A) (hP : ∀ p ∈ ([.ust] : List Part), p ∈ P) :
    Kept A P s0 (State.setTunnel s t x) := by
  unfold State.setTunnel
  repeat' first
    | with_reducible assumption | exact inA hA rfl | exact subA hA rfl | exact .inl (inP hP rfl) | exact subP hP rfl
    | with_reducible exact rfl | exact .inr rfl
    | with_reducible first
      | intro _ | apply State.wr_kept | dsimp only
    | fail_if_no_progress with_reducible apply Kept.upd

theorem State.ustEvent_kept {s : State} (hk : Kept A P s0 s) {p src : Nat}
    (hA : ∀ a ∈ ([.pend, .ust] : List Area), a ∈ A) :
    Kept A P s0 (State.ustEvent s p src) := by
  unfold State.ustEvent
  repeat' first
    | with_reducible assumption | exact inA hA rfl | exact subA hA rfl
    | with_reducible first
      | intro _ | apply State.raise_kept | apply State.wrBit_kept | dsimp only

theorem State.tunDrop_kept {s : State} (hk : Kept A P s0 s) {f : Fld} (hf : f.area ∈ A)
    (hA : ∀ a ∈ ([.pend] : List Area), a ∈ A) :
    Kept A P s0 (State.tunDrop s f) := by
  unfold State.tunDrop
  repeat' first
    | with_reducible assumption | exact inA hA rfl | exact subA hA rfl
    | with_reducible first
      | intro _ | apply State.bump_kept | apply State.raise_kept | dsimp only

theorem State.tunSend_kept {s : State} (hk : Kept A P s0 s) {t n : Nat}
    (hA : ∀ a ∈ ([.pend, .cnp, .ust, .cvu, .ingress] : List Area), a ∈ A)
    (hP : ∀ p ∈ ([.out, .pw, .rcd, .cnp, .fab, .cvu, .rwy, .ust] : List Part), p ∈ P) :
    Kept A P s0 (State.tunSend s t n) := by
  induction n generalizing s with
  | zero => exact hk
  | succ n ih =>
    unfold State.tunSend
    repeat' first
    | with_reducible assumption
    | exact inA hA rfl | exact subA hA rfl | exact .inl (inP hP rfl) | exact subP hP rfl | with_reducible exact rfl
    | exact .inr rfl
    | with_reducible intro _
    | with_reducible apply ih
    | with_reducible apply State.sendEt_kept
    | with_reducible apply State.setTunnel_kept
    | with_reducible apply Kept.foldl
    | with_reducible apply Kept.ite
    | with_reducible split
    | with_reducible dsimp only

theorem State.tunSendAll_kept {s : State} (hk : Kept A P s0 s)
    (hA : ∀ a ∈ ([.pend, .cnp, .ust, .cvu, .ingress] : List Area), a ∈ A)
    (hP : ∀ p ∈ ([.out, .pw, .rcd, .cnp, .fab, .cvu, .rwy, .ust] : List Part), p ∈ P) :
    Kept A P s0 (State.tunSendAll s) := by
  unfold State.tunSendAll
  repeat' first
    | with_reducible assumption | exact inA hA rfl | exact subA hA rfl | exact .inl (inP hP rfl) | exact subP hP rfl
    | with_reducible first
      | intro _ | apply State.tunSend_kept | apply Kept.foldl | dsimp only

theorem State.tunTake_kept {s : State} (hk : Kept A P s0 s) {t ptype : Nat} {body : List Byte}
    (hA : ∀ a ∈ ([.pend, .cnp, .ust, .cvu, .ingress] : List Area), a ∈ A)
    (hP : ∀ p ∈ ([.out, .pw, .rcd, .cnp, .fab, .cvu, .rwy, .ust] : List Part), p ∈ P) :
    Kept A P s0 (State.tunTake s t ptype body) := by
  unfold State.tunTake
  repeat' first
    | with_reducible assumption | exact inA hA rfl | exact subA hA rfl | exact .inl (inP hP rfl) | exact subP hP rfl
    | with_reducible exact rfl | exact .inr rfl
    | with_reducible first
      | intro _ | apply State.setTunnel_kept | apply State.tunDrop_kept | apply State.tunSend_kept | apply Kept.ite
      | dsimp only
    | fail_if_no_progress with_reducible apply Kept.upd

theorem State.ringPut_kept {s : State} (hk : Kept A P s0 s) {base size off : Nat} {bs : List Byte}
    (hA : ∀ a ∈ ([.pend, .ecc, .cpc, .cvu, .ingress] : List Area), a ∈ A)
    (hP : ∀ p ∈ ([.mem, .leMem, .pw, .rcd, .cop, .ecc, .cvu] : List Part), p ∈ P) :
    Kept A P s0 (State.ringPut s base size off bs).2 := by
  unfold State.ringPut
  repeat' first
    | with_reducible assumption | exact inA hA rfl | exact subA hA rfl | exact .inl (inP hP rfl) | exact subP hP rfl
    | with_reducible first
      | intro _ | apply State.mergeStore_kept | apply Kept.ite | refine Kept.snd ?_ (by assumption)
      | refine Kept.fst ?_ (by assumption) | split | dsimp only

theorem State.ringReceive_kept {s : State} (hk : Kept A P s0 s) {p ptype : Nat} {body : List Byte}
    (hA : ∀ a ∈ ([.pend, .ecc, .cpc, .ust, .cvu, .ingress] : List Area), a ∈ A)
    (hP : ∀ p ∈ ([.mem, .leMem, .pw, .rcd, .cop, .ecc, .cvu, .ust] : List Part), p ∈ P) :
    Kept A P s0 (State.ringReceive s p ptype body) := by
  unfold State.ringReceive
  repeat' first
    | with_reducible assumption | exact inA hA rfl | exact subA hA rfl | exact .inl (inP hP rfl) | exact subP hP rfl
    | with_reducible exact rfl | exact .inr rfl
    | with_reducible first
      | intro _ | apply State.bump_kept | apply State.ringPut_kept | apply State.setUport_kept
      | apply State.unitFrame_kept | apply State.ustEvent_kept | apply State.wr_kept | apply Kept.ite
      | refine Kept.snd ?_ (by assumption) | refine Kept.fst ?_ (by assumption) | split | dsimp only
    | fail_if_no_progress with_reducible apply Kept.upd

theorem State.mvbMaster_kept {s : State} (hk : Kept A P s0 s) {body : List Byte}
    (hP : ∀ p ∈ ([.out, .fresh] : List Part), p ∈ P) :
    Kept A P s0 (State.mvbMaster s body) := by
  unfold State.mvbMaster
  repeat' first
    | with_reducible assumption | exact .inl (inP hP rfl) | exact subP hP rfl | with_reducible exact rfl
    | exact .inr rfl
    | with_reducible first
      | intro _ | apply State.emit_kept | apply Kept.ite | split | dsimp only
    | fail_if_no_progress with_reducible apply Kept.upd

theorem State.portReceive_kept {s : State}
    (hk : Kept A P s0 s) {p : Nat} {msg : Bool} {body : List Byte} {fcs : Bool}
    (hA : ∀ a ∈ ([.pend, .ecc, .cpc, .cnp, .ust, .cvu, .ingress] : List Area), a ∈ A)
    (hP : ∀ p ∈ ([.mem, .leMem, .out, .fresh, .pw, .rcd, .cop, .ecc, .cnp, .fab, .cvu, .rwy, .ust] : List Part), p ∈ P) :
    Kept A P s0 (State.portReceive s p msg body fcs) := by
  unfold State.portReceive
  repeat' first
    | with_reducible assumption | exact inA hA rfl | exact subA hA rfl | exact .inl (inP hP rfl) | exact subP hP rfl
    | with_reducible exact rfl | exact .inr rfl
    | with_reducible first
      | intro _ | apply State.bump_kept | apply State.mvbMaster_kept | apply State.ringReceive_kept
      | apply State.tunTake_kept | apply Kept.ite | split | dsimp only
    | fail_if_no_progress with_reducible apply Kept.upd

theorem execPortFrameReceive_kept {s : State}
    (hk : Kept A P s0 s) {p : Fin 6} {msg : Bool} {body : List Byte} {fcs : Bool} {t : Nat}
    (hA : ∀ a ∈ ([.pend, .ecc, .cpc, .cnp, .ust, .cvu, .ingress] : List Area), a ∈ A)
    (hP : ∀ p ∈ ([.now, .mem, .leMem, .resp, .out, .fresh, .pw, .rcd, .cop, .ecc, .cnp, .fab, .cvu, .rwy, .ust] : List Part), p ∈ P) :
    KeptOut A P s0 (execPortFrameReceive p msg body fcs t s) := by
  unfold execPortFrameReceive
  repeat' first
    | with_reducible assumption | exact inA hA rfl | exact subA hA rfl | exact .inl (inP hP rfl) | exact subP hP rfl
    | with_reducible first
      | intro _ | apply KeptOut.next | apply State.begin_kept | apply State.portReceive_kept | dsimp only

theorem State.txAdvance_kept {s : State} (hk : Kept A P s0 s) {p n : Nat}
    (hA : ∀ a ∈ ([.pend, .ust] : List Area), a ∈ A) :
    Kept A P s0 (State.txAdvance s p n) := by
  unfold State.txAdvance
  repeat' first
    | with_reducible assumption | exact inA hA rfl | exact subA hA rfl
    | with_reducible first
      | intro _ | apply State.ustEvent_kept | apply State.wr_kept | apply Kept.ite | split | dsimp only

theorem State.tunOut_kept {s : State} (hk : Kept A P s0 s) {p t : Nat}
    (hA : ∀ a ∈ ([.pend, .ust] : List Area), a ∈ A) (hP : ∀ p ∈ ([.out, .ust] : List Part), p ∈ P) :
    Kept A P s0 (State.tunOut s p t) := by
  unfold State.tunOut
  repeat' first
    | with_reducible assumption | exact inA hA rfl | exact subA hA rfl | exact .inl (inP hP rfl) | exact subP hP rfl
    | with_reducible exact rfl | exact .inr rfl
    | with_reducible first
      | intro _ | apply State.bump_kept | apply State.emit_kept | apply State.setTunnel_kept
      | apply State.setUport_kept | apply State.tunDrop_kept | apply Kept.ite | split | dsimp only
    | fail_if_no_progress with_reducible apply Kept.upd

theorem State.ringReads_kept {s : State} (hk : Kept A P s0 s) {base size off n : Nat}
    (hA : ∀ a ∈ ([.pend, .ecc, .cpc, .ingress] : List Area), a ∈ A)
    (hP : ∀ p ∈ ([.mem, .leMem, .pw, .rcd, .cop, .ecc] : List Part), p ∈ P) :
    Kept A P s0 (State.ringReads s base size off n).2 := by
  unfold State.ringReads
  repeat' first
    | with_reducible assumption | exact inA hA rfl | exact subA hA rfl | exact .inl (inP hP rfl) | exact subP hP rfl
    | with_reducible first
      | intro _ | apply State.seeRows_kept | refine Kept.snd ?_ (by assumption) | refine Kept.fst ?_ (by assumption)
      | split | dsimp only

theorem State.ringOut_kept {s : State} (hk : Kept A P s0 s) {p : Nat}
    (hA : ∀ a ∈ ([.pend, .ecc, .cpc, .ust, .ingress] : List Area), a ∈ A)
    (hP : ∀ p ∈ ([.mem, .leMem, .out, .pw, .rcd, .cop, .ecc, .ust] : List Part), p ∈ P) :
    Kept A P s0 (State.ringOut s p) := by
  unfold State.ringOut
  repeat' first
    | with_reducible assumption | exact inA hA rfl | exact subA hA rfl | exact .inl (inP hP rfl) | exact subP hP rfl
    | with_reducible exact rfl | exact .inr rfl
    | with_reducible first
      | intro _ | apply State.bump_kept | apply State.emit_kept | apply State.ringReads_kept
      | apply State.setUport_kept | apply State.txAdvance_kept | apply Kept.ite | refine Kept.snd ?_ (by assumption)
      | refine Kept.fst ?_ (by assumption) | split | split | dsimp only
    | fail_if_no_progress with_reducible apply Kept.upd

theorem State.portKick_kept {s : State} (hk : Kept A P s0 s) {p n : Nat}
    (hA : ∀ a ∈ ([.pend, .ecc, .cpc, .ust, .ingress] : List Area), a ∈ A)
    (hP : ∀ p ∈ ([.mem, .leMem, .out, .fresh, .pw, .rcd, .cop, .ecc, .ust] : List Part), p ∈ P) :
    Kept A P s0 (State.portKick s p n) := by
  induction n generalizing s with
  | zero => exact hk
  | succ n ih =>
    unfold State.portKick
    repeat' first
    | with_reducible assumption
    | exact inA hA rfl | exact subA hA rfl | exact .inl (inP hP rfl) | exact subP hP rfl | with_reducible exact rfl
    | exact .inr rfl
    | with_reducible intro _
    | with_reducible apply ih
    | with_reducible apply State.ringOut_kept
    | with_reducible apply State.tunOut_kept
    | with_reducible apply Kept.ite
    | with_reducible apply State.free_kept
    | with_reducible refine Kept.snd ?_ (by assumption)
    | with_reducible split

theorem State.portStart_kept {s : State} (hk : Kept A P s0 s) {p : Nat}
    (hA : ∀ a ∈ ([.pend, .ecc, .cpc, .ust, .ingress] : List Area), a ∈ A)
    (hP : ∀ p ∈ ([.mem, .leMem, .out, .fresh, .pw, .rcd, .cop, .ecc, .ust] : List Part), p ∈ P) :
    Kept A P s0 (State.portStart s p) := by
  unfold State.portStart
  repeat' first
    | with_reducible assumption | exact inA hA rfl | exact subA hA rfl | exact .inl (inP hP rfl) | exact subP hP rfl
    | with_reducible first
      | intro _ | apply State.portKick_kept | dsimp only

theorem execTxRingWrite_kept {s : State} (hk : Kept A P s0 s) {p : Fin 6} {tail : BitVec 24} {t : Nat}
    (hA : ∀ a ∈ ([.pend, .ecc, .cpc, .ust, .ingress] : List Area), a ∈ A)
    (hP : ∀ p ∈ ([.now, .mem, .leMem, .resp, .out, .fresh, .pw, .rcd, .cop, .ecc, .ust] : List Part), p ∈ P) :
    KeptOut A P s0 (execTxRingWrite p tail t s) := by
  unfold execTxRingWrite
  repeat' first
    | with_reducible assumption | exact inA hA rfl | exact subA hA rfl | exact .inl (inP hP rfl) | exact subP hP rfl
    | with_reducible first
      | intro _ | apply KeptOut.next | apply State.begin_kept | apply State.portStart_kept | apply State.wr_kept
      | dsimp only

theorem State.portSent_kept {s : State} (hk : Kept A P s0 s) {p : Nat}
    (hA : ∀ a ∈ ([.pend, .ecc, .cpc, .ust, .ingress] : List Area), a ∈ A)
    (hP : ∀ p ∈ ([.mem, .leMem, .out, .fresh, .pw, .rcd, .cop, .ecc, .ust] : List Part), p ∈ P) :
    Kept A P s0 (State.portSent s p) := by
  unfold State.portSent
  repeat' first
    | with_reducible assumption | exact inA hA rfl | exact subA hA rfl | exact .inl (inP hP rfl) | exact subP hP rfl
    | with_reducible exact rfl | exact .inr rfl
    | with_reducible first
      | intro _ | apply State.portStart_kept | apply State.setUport_kept | apply State.txAdvance_kept | split
      | dsimp only
    | fail_if_no_progress with_reducible apply Kept.upd

theorem execPortFrameTransmitted_kept {s : State} (hk : Kept A P s0 s) {p : Fin 6} {t : Nat}
    (hA : ∀ a ∈ ([.pend, .ecc, .cpc, .ust, .ingress] : List Area), a ∈ A)
    (hP : ∀ p ∈ ([.now, .mem, .leMem, .resp, .out, .fresh, .pw, .rcd, .cop, .ecc, .ust] : List Part), p ∈ P) :
    KeptOut A P s0 (execPortFrameTransmitted p t s) := by
  unfold execPortFrameTransmitted
  repeat' first
    | with_reducible assumption | exact inA hA rfl | exact subA hA rfl | exact .inl (inP hP rfl) | exact subP hP rfl
    | with_reducible first
      | intro _ | apply KeptOut.next | apply State.begin_kept | apply State.portSent_kept | dsimp only

theorem State.tunQueue_kept {s : State} (hk : Kept A P s0 s) {t : Nat} {f : TunFrame}
    (hA : ∀ a ∈ ([.pend, .ecc, .cpc, .ust, .ingress] : List Area), a ∈ A)
    (hP : ∀ p ∈ ([.mem, .leMem, .out, .fresh, .pw, .rcd, .cop, .ecc, .ust] : List Part), p ∈ P) :
    Kept A P s0 (State.tunQueue s t f) := by
  unfold State.tunQueue
  repeat' first
    | with_reducible assumption | exact inA hA rfl | exact subA hA rfl | exact .inl (inP hP rfl) | exact subP hP rfl
    | with_reducible exact rfl | exact .inr rfl
    | with_reducible first
      | intro _ | apply State.portStart_kept | apply State.setTunnel_kept | apply State.tunDrop_kept | apply Kept.ite
      | dsimp only
    | fail_if_no_progress with_reducible apply Kept.upd

theorem State.tunLacks_kept {s : State} (hk : Kept A P s0 s) {t seq : Nat}
    (hA : ∀ a ∈ ([.pend, .ust] : List Area), a ∈ A) (hP : ∀ p ∈ ([.ust] : List Part), p ∈ P) :
    Kept A P s0 (State.tunLacks s t seq) := by
  unfold State.tunLacks
  repeat' first
    | with_reducible assumption | exact inA hA rfl | exact subA hA rfl | exact .inl (inP hP rfl) | exact subP hP rfl
    | with_reducible exact rfl | exact .inr rfl
    | with_reducible first
      | intro _ | apply State.setTunnel_kept | apply State.tunDrop_kept | apply Kept.ite | dsimp only
    | fail_if_no_progress with_reducible apply Kept.upd

theorem State.tunnelFrame_kept {s : State} (hk : Kept A P s0 s) {frame : List Byte}
    (hA : ∀ a ∈ ([.pend, .ecc, .cpc, .ust, .ingress] : List Area), a ∈ A)
    (hP : ∀ p ∈ ([.mem, .leMem, .out, .fresh, .pw, .rcd, .cop, .ecc, .ust] : List Part), p ∈ P) :
    Kept A P s0 (State.tunnelFrame s frame) := by
  unfold State.tunnelFrame
  repeat' first
    | with_reducible assumption | exact inA hA rfl | exact subA hA rfl | exact .inl (inP hP rfl) | exact subP hP rfl
    | with_reducible exact rfl | exact .inr rfl
    | with_reducible first
      | intro _ | apply State.setTunnel_kept | apply State.tunLacks_kept | apply State.tunQueue_kept | apply Kept.ite
      | split | dsimp only
    | fail_if_no_progress with_reducible apply Kept.upd

theorem execTunnelFrame_kept {s : State} (hk : Kept A P s0 s) {frame : List Byte} {t : Nat}
    (hA : ∀ a ∈ ([.pend, .ecc, .cpc, .ust, .ingress] : List Area), a ∈ A)
    (hP : ∀ p ∈ ([.now, .mem, .leMem, .resp, .out, .fresh, .pw, .rcd, .cop, .ecc, .ust] : List Part), p ∈ P) :
    KeptOut A P s0 (execTunnelFrame frame t s) := by
  unfold execTunnelFrame
  repeat' first
    | with_reducible assumption | exact inA hA rfl | exact subA hA rfl | exact .inl (inP hP rfl) | exact subP hP rfl
    | with_reducible first
      | intro _ | apply KeptOut.next | apply State.begin_kept | apply State.tunnelFrame_kept | dsimp only

theorem State.portUp_kept {s : State} (hk : Kept A P s0 s) {p : Nat} (hA : ∀ a ∈ ([.ust] : List Area), a ∈ A) :
    Kept A P s0 (State.portUp s p) := by
  unfold State.portUp
  repeat' first
    | with_reducible assumption | exact inA hA rfl | exact subA hA rfl
    | with_reducible first
      | intro _ | apply State.wr_kept | apply Kept.ite | dsimp only

theorem State.portEnable_kept {s : State} (hk : Kept A P s0 s) {p v : Nat} (hA : ∀ a ∈ allAreas, a ∈ A)
    (hP : ∀ p ∈ ([.mem, .leMem, .out, .fresh, .pw, .rcd, .cop, .ecc, .ust] : List Part), p ∈ P) :
    Kept A P s0 (State.portEnable s p v) := by
  unfold State.portEnable
  repeat' first
    | with_reducible assumption | exact inA hA rfl | exact subA hA rfl | exact .inl (inP hP rfl) | exact subP hP rfl
    | with_reducible first
      | intro _ | apply State.portStart_kept | apply State.portUp_kept | apply State.putWord_kept
      | apply State.wr_kept | apply Kept.ite | dsimp only

theorem execPortEnable_kept {s : State} (hk : Kept A P s0 s) {p : Fin 6} {v : BitVec 32} {t : Nat}
    (hA : ∀ a ∈ allAreas, a ∈ A)
    (hP : ∀ p ∈ ([.now, .mem, .leMem, .resp, .out, .fresh, .pw, .rcd, .cop, .ecc, .ust] : List Part), p ∈ P) :
    KeptOut A P s0 (execPortEnable p v t s) := by
  unfold execPortEnable
  repeat' first
    | with_reducible assumption | exact inA hA rfl | exact subA hA rfl | exact .inl (inP hP rfl) | exact subP hP rfl
    | with_reducible first
      | intro _ | apply KeptOut.next | apply State.begin_kept | apply State.portEnable_kept | apply Kept.ite
      | apply KeptOut.ite | dsimp only

theorem State.portDisable_kept {s : State} (hk : Kept A P s0 s) {p : Nat} (hA : ∀ a ∈ ([.ust] : List Area), a ∈ A) :
    Kept A P s0 (State.portDisable s p) := by
  unfold State.portDisable
  repeat' first
    | with_reducible assumption | exact inA hA rfl | exact subA hA rfl
    | with_reducible first
      | intro _ | apply State.wr_kept | apply Kept.ite | dsimp only

theorem execPortDisable_kept {s : State} (hk : Kept A P s0 s) {p : Fin 6} {t : Nat}
    (hA : ∀ a ∈ ([.ust] : List Area), a ∈ A) (hP : ∀ p ∈ ([.now, .resp, .out] : List Part), p ∈ P) :
    KeptOut A P s0 (execPortDisable p t s) := by
  unfold execPortDisable
  repeat' first
    | with_reducible assumption | exact inA hA rfl | exact subA hA rfl | exact .inl (inP hP rfl) | exact subP hP rfl
    | with_reducible first
      | intro _ | apply KeptOut.next | apply State.begin_kept | apply State.portDisable_kept | dsimp only

theorem State.portRestore_kept {s : State} (hk : Kept A P s0 s) {p : Nat} (hA : ∀ a ∈ ([.ust] : List Area), a ∈ A) :
    Kept A P s0 (State.portRestore s p) := by
  unfold State.portRestore
  repeat' first
    | with_reducible assumption | exact inA hA rfl | exact subA hA rfl
    | exact fun a h => mem_of_inArea hA h (hm := rfl) | exact fun a _ => hA _ (mem_allAreas _)
    | with_reducible first
      | intro _ | apply State.restore_kept | apply Kept.ite | apply Kept.foldl | dsimp only

theorem State.portStop_kept {s : State} (hk : Kept A P s0 s) {p : Nat}
    (hA : ∀ a ∈ ([.pend, .ust] : List Area), a ∈ A) (hP : ∀ p ∈ ([.cnp, .ust] : List Part), p ∈ P) :
    Kept A P s0 (State.portStop s p) := by
  unfold State.portStop
  repeat' first
    | with_reducible assumption | exact inA hA rfl | exact subA hA rfl | exact .inl (inP hP rfl) | exact subP hP rfl
    | with_reducible exact rfl | exact .inr rfl
    | with_reducible first
      | intro _ | apply State.setTunnel_kept | apply State.setUport_kept | apply State.tunResolve_kept
      | apply Kept.ite | apply Kept.foldl | dsimp only
    | fail_if_no_progress with_reducible apply Kept.upd

theorem State.portReset_kept {s : State} (hk : Kept A P s0 s) {p : Nat}
    (hA : ∀ a ∈ ([.pend, .ust] : List Area), a ∈ A) (hP : ∀ p ∈ ([.cnp, .ust] : List Part), p ∈ P) :
    Kept A P s0 (State.portReset s p) := by
  unfold State.portReset
  repeat' first
    | with_reducible assumption | exact inA hA rfl | exact subA hA rfl | exact .inl (inP hP rfl) | exact subP hP rfl
    | with_reducible first
      | intro _ | apply State.portRestore_kept | apply State.portStop_kept | dsimp only

theorem execPortReset_kept {s : State} (hk : Kept A P s0 s) {p : Fin 6} {t : Nat}
    (hA : ∀ a ∈ ([.pend, .ust] : List Area), a ∈ A)
    (hP : ∀ p ∈ ([.now, .resp, .out, .cnp, .ust] : List Part), p ∈ P) :
    KeptOut A P s0 (execPortReset p t s) := by
  unfold execPortReset
  repeat' first
    | with_reducible assumption | exact inA hA rfl | exact subA hA rfl | exact .inl (inP hP rfl) | exact subP hP rfl
    | with_reducible first
      | intro _ | apply KeptOut.next | apply State.begin_kept | apply State.portReset_kept | apply Kept.ite
      | apply KeptOut.ite | dsimp only

theorem State.portResetDone_kept {s : State} (hk : Kept A P s0 s) {p : Nat}
    (hA : ∀ a ∈ ([.pend, .ecc, .cpc, .ust, .ingress] : List Area), a ∈ A)
    (hP : ∀ p ∈ ([.mem, .leMem, .out, .fresh, .pw, .rcd, .cop, .ecc, .ust] : List Part), p ∈ P) :
    Kept A P s0 (State.portResetDone s p) := by
  unfold State.portResetDone
  repeat' first
    | with_reducible assumption | exact inA hA rfl | exact subA hA rfl | exact .inl (inP hP rfl) | exact subP hP rfl
    | with_reducible exact rfl | exact .inr rfl
    | with_reducible first
      | intro _ | apply State.portStart_kept | apply State.portUp_kept | apply State.setUport_kept | apply Kept.ite
      | dsimp only
    | fail_if_no_progress with_reducible apply Kept.upd

theorem execPortResetDone_kept {s : State} (hk : Kept A P s0 s) {p : Fin 6} {t : Nat}
    (hA : ∀ a ∈ ([.pend, .ecc, .cpc, .ust, .ingress] : List Area), a ∈ A)
    (hP : ∀ p ∈ ([.now, .mem, .leMem, .resp, .out, .fresh, .pw, .rcd, .cop, .ecc, .ust] : List Part), p ∈ P) :
    KeptOut A P s0 (execPortResetDone p t s) := by
  unfold execPortResetDone
  repeat' first
    | with_reducible assumption | exact inA hA rfl | exact subA hA rfl | exact .inl (inP hP rfl) | exact subP hP rfl
    | with_reducible first
      | intro _ | apply KeptOut.next | apply State.begin_kept | apply State.portResetDone_kept | dsimp only

theorem State.busoffRecovery_kept {s : State} (hk : Kept A P s0 s) {p : Nat}
    (hA : ∀ a ∈ ([.pend, .ecc, .cpc, .ust, .ingress] : List Area), a ∈ A)
    (hP : ∀ p ∈ ([.mem, .leMem, .out, .fresh, .pw, .rcd, .cop, .ecc, .ust] : List Part), p ∈ P) :
    Kept A P s0 (State.busoffRecovery s p) := by
  unfold State.busoffRecovery
  repeat' first
    | with_reducible assumption | exact inA hA rfl | exact subA hA rfl | exact .inl (inP hP rfl) | exact subP hP rfl
    | with_reducible first
      | intro _ | apply State.portStart_kept | apply State.portUp_kept | apply State.ustEvent_kept | apply Kept.ite
      | dsimp only

theorem execBusoffRecovery_kept {s : State} (hk : Kept A P s0 s) {p : Fin 2} {t : Nat}
    (hA : ∀ a ∈ ([.pend, .ecc, .cpc, .ust, .ingress] : List Area), a ∈ A)
    (hP : ∀ p ∈ ([.now, .mem, .leMem, .resp, .out, .fresh, .pw, .rcd, .cop, .ecc, .ust] : List Part), p ∈ P) :
    KeptOut A P s0 (execBusoffRecovery p t s) := by
  unfold execBusoffRecovery
  repeat' first
    | with_reducible assumption | exact inA hA rfl | exact subA hA rfl | exact .inl (inP hP rfl) | exact subP hP rfl
    | with_reducible first
      | intro _ | apply KeptOut.next | apply State.begin_kept | apply State.busoffRecovery_kept | dsimp only

theorem State.portState_kept {s : State}
    (hk : Kept A P s0 s) {p : Nat} {up passive busoff lineb fdx : Bool} {tec rec errors : Nat}
    (hA : ∀ a ∈ ([.pend, .ecc, .cpc, .ust, .ingress] : List Area), a ∈ A)
    (hP : ∀ p ∈ ([.mem, .leMem, .out, .fresh, .pw, .rcd, .cop, .ecc, .ust] : List Part), p ∈ P) :
    Kept A P s0 (State.portState s p up passive busoff lineb fdx tec rec errors) := by
  unfold State.portState
  repeat' first
    | with_reducible assumption | exact inA hA rfl | exact subA hA rfl | exact .inl (inP hP rfl) | exact subP hP rfl
    | with_reducible first
      | intro _ | apply State.bump_kept | apply State.portStart_kept | apply State.ustEvent_kept | apply State.wr_kept
      | apply State.wrB_kept | apply Kept.ite | dsimp only

theorem execPortStateChange_kept {s : State}
    (hk : Kept A P s0 s) {p : Fin 6} {up passive busoff lineb fdx : Bool} {tec rec errors : BitVec 8} {t : Nat}
    (hA : ∀ a ∈ ([.pend, .ecc, .cpc, .ust, .ingress] : List Area), a ∈ A)
    (hP : ∀ p ∈ ([.now, .mem, .leMem, .resp, .out, .fresh, .pw, .rcd, .cop, .ecc, .ust] : List Part), p ∈ P) :
    KeptOut A P s0 (execPortStateChange p up passive busoff lineb fdx tec rec errors t s) := by
  unfold execPortStateChange
  repeat' first
    | with_reducible assumption | exact inA hA rfl | exact subA hA rfl | exact .inl (inP hP rfl) | exact subP hP rfl
    | with_reducible first
      | intro _ | apply KeptOut.next | apply State.begin_kept | apply State.portState_kept | dsimp only

theorem State.eventWindowOpen_kept {s : State} (hk : Kept A P s0 s)
    (hA : ∀ a ∈ ([.pend, .cnp, .ust, .cvu, .ingress] : List Area), a ∈ A)
    (hP : ∀ p ∈ ([.out, .pw, .rcd, .cnp, .fab, .cvu, .rwy, .ust] : List Part), p ∈ P) :
    Kept A P s0 (State.eventWindowOpen s) := by
  unfold State.eventWindowOpen
  repeat' first
    | with_reducible assumption | exact inA hA rfl | exact subA hA rfl | exact .inl (inP hP rfl) | exact subP hP rfl
    | with_reducible first
      | intro _ | apply State.etKick_kept | apply State.rwFlush_kept | apply State.tunSendAll_kept | apply Kept.foldl
      | dsimp only

theorem execEventWindowOpen_kept {s : State} (hk : Kept A P s0 s) {t : Nat}
    (hA : ∀ a ∈ ([.pend, .cnp, .ust, .cvu, .ingress] : List Area), a ∈ A)
    (hP : ∀ p ∈ ([.now, .resp, .out, .pw, .rcd, .cnp, .fab, .cvu, .rwy, .ust] : List Part), p ∈ P) :
    KeptOut A P s0 (execEventWindowOpen t s) := by
  unfold execEventWindowOpen
  repeat' first
    | with_reducible assumption | exact inA hA rfl | exact subA hA rfl | exact .inl (inP hP rfl) | exact subP hP rfl
    | with_reducible first
      | intro _ | apply KeptOut.next | apply State.begin_kept | apply State.eventWindowOpen_kept | dsimp only

theorem State.etFrameSent_kept {s : State} (hk : Kept A P s0 s) {p : Nat}
    (hA : ∀ a ∈ ([.pend, .cnp, .ust, .cvu, .ingress] : List Area), a ∈ A)
    (hP : ∀ p ∈ ([.out, .pw, .rcd, .cnp, .fab, .cvu, .rwy, .ust] : List Part), p ∈ P) :
    Kept A P s0 (State.etFrameSent s p) := by
  unfold State.etFrameSent
  repeat' first
    | with_reducible assumption | exact inA hA rfl | exact subA hA rfl | exact .inl (inP hP rfl) | exact subP hP rfl
    | with_reducible exact rfl | exact .inr rfl
    | with_reducible first
      | intro _ | apply State.etKick_kept | apply State.rwFlush_kept | apply State.setEtPort_kept
      | apply State.tunSendAll_kept | dsimp only
    | fail_if_no_progress with_reducible apply Kept.upd

theorem execEtFrameSent_kept {s : State} (hk : Kept A P s0 s) {port : Fin 4} {t : Nat}
    (hA : ∀ a ∈ ([.pend, .cnp, .ust, .cvu, .ingress] : List Area), a ∈ A)
    (hP : ∀ p ∈ ([.now, .resp, .out, .pw, .rcd, .cnp, .fab, .cvu, .rwy, .ust] : List Part), p ∈ P) :
    KeptOut A P s0 (execEtFrameSent port t s) := by
  unfold execEtFrameSent
  repeat' first
    | with_reducible assumption | exact inA hA rfl | exact subA hA rfl | exact .inl (inP hP rfl) | exact subP hP rfl
    | with_reducible first
      | intro _ | apply KeptOut.next | apply State.begin_kept | apply State.etFrameSent_kept | dsimp only

end Sys2Proof.Machine
end

