-- ==== Sys2Proof/Laws/KeptPower.lean ====
section
/-!
SUPPORT. What each operation keeps (`Kept`), one lemma an operation: recorder, power, flush, self-tests, low power.
-/

namespace Sys2Proof.Machine

set_option linter.all false
-- one proof at a time: the package is compiled as one file, in bounded memory
set_option Elab.async false

variable {A : List Area} {P : List Part} {s0 : State}

/-! ### Machine/Recorder.lean -/

theorem State.startFlush_kept {s : State} (hk : Kept A P s0 s) {untilEmpty : Bool}
    (hA : ∀ a ∈ ([.ingress] : List Area), a ∈ A) (hP : ∀ p ∈ ([.rcd] : List Part), p ∈ P) :
    Kept A P s0 (State.startFlush s untilEmpty) := by
  unfold State.startFlush
  repeat' first
    | with_reducible assumption | exact inA hA rfl | exact subA hA rfl | exact .inl (inP hP rfl) | exact subP hP rfl
    | with_reducible exact rfl | exact .inr rfl
    | with_reducible first
      | intro _ | apply State.wr_kept | split | dsimp only
    | fail_if_no_progress with_reducible apply Kept.upd

theorem State.stagingStore_kept {s : State} (hk : Kept A P s0 s) {a : Nat} {bs : List Byte}
    (hA : ∀ a ∈ ([.pend, .ecc, .cvu, .ingress] : List Area), a ∈ A)
    (hP : ∀ p ∈ ([.mem, .pw, .rcd, .ecc, .cvu] : List Part), p ∈ P) :
    Kept A P s0 (State.stagingStore s a bs) := by
  unfold State.stagingStore
  repeat' first
    | with_reducible assumption | exact inA hA rfl | exact subA hA rfl | exact .inl (inP hP rfl) | exact subP hP rfl
    | with_reducible first
      | intro _ | apply State.putBytes_kept | apply State.rowWritten_kept | apply State.setErr_kept
      | apply State.unitWrite_kept | apply Kept.ite | apply Kept.foldl | dsimp only

theorem State.putRing_kept {s : State} (hk : Kept A P s0 s) {off : Nat} {bs : List Byte}
    (hA : ∀ a ∈ ([.pend, .ecc, .cvu, .ingress] : List Area), a ∈ A)
    (hP : ∀ p ∈ ([.mem, .pw, .rcd, .ecc, .cvu] : List Part), p ∈ P) :
    Kept A P s0 (State.putRing s off bs) := by
  unfold State.putRing
  repeat' first
    | with_reducible assumption | exact inA hA rfl | exact subA hA rfl | exact .inl (inP hP rfl) | exact subP hP rfl
    | with_reducible first
      | intro _ | apply State.stagingStore_kept | apply Kept.ite | dsimp only

theorem State.stage_kept {s : State}
    (hk : Kept A P s0 s) {cls : Nat} {flushes : Bool} {bytes : Nat → Bool → List Byte}
    (hA : ∀ a ∈ ([.pend, .ecc, .cvu, .recd, .ingress] : List Area), a ∈ A)
    (hP : ∀ p ∈ ([.mem, .pw, .rcd, .ecc, .cvu] : List Part), p ∈ P) :
    Kept A P s0 (State.stage s cls flushes bytes) := by
  unfold State.stage
  repeat' first
    | with_reducible assumption | exact inA hA rfl | exact subA hA rfl | exact .inl (inP hP rfl) | exact subP hP rfl
    | with_reducible exact rfl | exact .inr rfl
    | with_reducible first
      | intro _ | apply State.putRing_kept | apply State.startFlush_kept | apply State.wr_kept | apply Kept.ite
      | dsimp only
    | fail_if_no_progress with_reducible apply Kept.upd

theorem State.refuseOne_kept {s : State} (hk : Kept A P s0 s) (hP : ∀ p ∈ ([.pw] : List Part), p ∈ P) :
    Kept A P s0 (State.refuseOne s) := by
  unfold State.refuseOne
  repeat' first
    | with_reducible assumption | exact .inl (inP hP rfl) | exact subP hP rfl | with_reducible exact rfl
    | exact .inr rfl
    | with_reducible first
      | intro _ | apply Kept.ite | dsimp only
    | fail_if_no_progress with_reducible apply Kept.upd

theorem State.sysRecord_kept {s : State}
    (hk : Kept A P s0 s) {kind cls : Nat} {flushes : Bool} {payload : List Byte}
    (hA : ∀ a ∈ ([.pend, .ecc, .cvu, .recd, .ingress] : List Area), a ∈ A)
    (hP : ∀ p ∈ ([.mem, .pw, .rcd, .ecc, .cvu] : List Part), p ∈ P) :
    Kept A P s0 (State.sysRecord s kind cls flushes payload) := by
  unfold State.sysRecord
  repeat' first
    | with_reducible assumption | exact inA hA rfl | exact subA hA rfl | exact .inl (inP hP rfl) | exact subP hP rfl
    | with_reducible first
      | intro _ | apply State.dropRecord_kept | apply State.refuseOne_kept | apply State.stage_kept | apply Kept.ite
      | dsimp only

theorem State.leaveOverload_kept {s : State} (hk : Kept A P s0 s)
    (hA : ∀ a ∈ ([.pend, .ecc, .cvu, .recd, .ingress] : List Area), a ∈ A)
    (hP : ∀ p ∈ ([.mem, .pw, .rcd, .ecc, .cvu] : List Part), p ∈ P) :
    Kept A P s0 (State.leaveOverload s) := by
  unfold State.leaveOverload
  repeat' first
    | with_reducible assumption | exact inA hA rfl | exact subA hA rfl | exact .inl (inP hP rfl) | exact subP hP rfl
    | with_reducible exact rfl | exact .inr rfl
    | with_reducible first
      | intro _ | apply State.raise_kept | apply State.sysRecord_kept | apply State.wr_kept | apply Kept.ite | split
      | dsimp only
    | fail_if_no_progress with_reducible apply Kept.upd

theorem State.endSubmit_kept {s : State} (hk : Kept A P s0 s) {h : Nat} {f : Fld} (hf : f.area ∈ A)
    (hA : ∀ a ∈ ([.recd] : List Area), a ∈ A) :
    Kept A P s0 (State.endSubmit s h f) := by
  unfold State.endSubmit
  repeat' first
    | with_reducible assumption | exact inA hA rfl | exact subA hA rfl
    | with_reducible first
      | intro _ | apply State.wr_kept | dsimp only

theorem State.acceptDesc_kept {s : State} (hk : Kept A P s0 s) {d : Desc} {bad : Bool}
    (hA : ∀ a ∈ ([.pend, .ecc, .cpc, .cvu, .recd, .ingress] : List Area), a ∈ A)
    (hP : ∀ p ∈ ([.mem, .leMem, .pw, .rcd, .cop, .ecc, .cvu] : List Part), p ∈ P) :
    Kept A P s0 (State.acceptDesc s d bad) := by
  unfold State.acceptDesc
  repeat' first
    | with_reducible assumption | exact inA hA rfl | exact subA hA rfl | exact .inl (inP hP rfl) | exact subP hP rfl
    | with_reducible exact rfl | exact .inr rfl
    | with_reducible first
      | intro _ | apply State.dropRecord_kept | apply State.endSubmit_kept | apply State.seeRange_kept
      | apply State.stage_kept | apply State.wr_kept | apply Kept.ite | refine Kept.snd ?_ (by assumption)
      | refine Kept.fst ?_ (by assumption) | split | split | dsimp only
    | fail_if_no_progress with_reducible apply Kept.upd

theorem State.recordAccept_kept {s : State} (hk : Kept A P s0 s) {bad : Bool}
    (hA : ∀ a ∈ ([.pend, .ecc, .cpc, .cvu, .recd, .ingress] : List Area), a ∈ A)
    (hP : ∀ p ∈ ([.mem, .leMem, .pw, .rcd, .cop, .ecc, .cvu] : List Part), p ∈ P) :
    Kept A P s0 (State.recordAccept s bad) := by
  unfold State.recordAccept
  repeat' first
    | with_reducible assumption | exact inA hA rfl | exact subA hA rfl | exact .inl (inP hP rfl) | exact subP hP rfl
    | with_reducible exact rfl | exact .inr rfl
    | with_reducible first
      | intro _ | apply State.acceptDesc_kept | apply State.leaveOverload_kept | apply State.setQueue_kept
      | apply Kept.ite | split | dsimp only
    | fail_if_no_progress with_reducible apply Kept.upd

theorem execRecordAccept_kept {s : State} (hk : Kept A P s0 s) {bad : Bool} {t : Nat}
    (hA : ∀ a ∈ ([.pend, .ecc, .cpc, .cvu, .recd, .ingress] : List Area), a ∈ A)
    (hP : ∀ p ∈ ([.now, .mem, .leMem, .resp, .out, .pw, .rcd, .cop, .ecc, .cvu] : List Part), p ∈ P) :
    KeptOut A P s0 (execRecordAccept bad t s) := by
  unfold execRecordAccept
  repeat' first
    | with_reducible assumption | exact inA hA rfl | exact subA hA rfl | exact .inl (inP hP rfl) | exact subP hP rfl
    | with_reducible first
      | intro _ | apply KeptOut.next | apply State.begin_kept | apply State.recordAccept_kept | dsimp only

theorem State.submit_kept {s : State} (hk : Kept A P s0 s) {h : Nat}
    (hA : ∀ a ∈ ([.pend, .recd, .ingress] : List Area), a ∈ A) (hP : ∀ p ∈ ([.pw, .rcd] : List Part), p ∈ P) :
    Kept A P s0 (State.submit s h) := by
  unfold State.submit
  repeat' first
    | with_reducible assumption | exact inA hA rfl | exact subA hA rfl | exact .inl (inP hP rfl) | exact subP hP rfl
    | with_reducible first
      | intro _ | apply State.endSubmit_kept | apply State.offer_kept | apply State.wr_kept | apply Kept.ite
      | refine Kept.snd ?_ (by assumption) | refine Kept.fst ?_ (by assumption) | split | dsimp only

theorem execRecordSubmit_kept {s : State} (hk : Kept A P s0 s) {writer h : Fin 12} {t : Nat}
    (hA : ∀ a ∈ ([.pend, .recd, .ingress] : List Area), a ∈ A)
    (hP : ∀ p ∈ ([.now, .resp, .out, .pw, .rcd] : List Part), p ∈ P) :
    KeptOut A P s0 (execRecordSubmit writer h t s) := by
  unfold execRecordSubmit
  repeat' first
    | with_reducible assumption | exact inA hA rfl | exact subA hA rfl | exact .inl (inP hP rfl) | exact subP hP rfl
    | with_reducible first
      | intro _ | apply KeptOut.next | apply State.answer_kept | apply State.begin_kept | apply State.submit_kept
      | apply Kept.ite | apply KeptOut.ite | dsimp only

theorem State.flushTimer_kept {s : State} (hk : Kept A P s0 s) (hA : ∀ a ∈ ([.ingress] : List Area), a ∈ A)
    (hP : ∀ p ∈ ([.rcd] : List Part), p ∈ P) :
    Kept A P s0 (State.flushTimer s) := by
  unfold State.flushTimer
  repeat' first
    | with_reducible assumption | exact inA hA rfl | exact subA hA rfl | exact .inl (inP hP rfl) | exact subP hP rfl
    | with_reducible first
      | intro _ | apply State.startFlush_kept | apply Kept.ite | dsimp only

theorem execRecorderFlushTimer_kept {s : State} (hk : Kept A P s0 s) {t : Nat}
    (hA : ∀ a ∈ ([.ingress] : List Area), a ∈ A) (hP : ∀ p ∈ ([.now, .resp, .out, .rcd] : List Part), p ∈ P) :
    KeptOut A P s0 (execRecorderFlushTimer t s) := by
  unfold execRecorderFlushTimer
  repeat' first
    | with_reducible assumption | exact inA hA rfl | exact subA hA rfl | exact .inl (inP hP rfl) | exact subP hP rfl
    | with_reducible first
      | intro _ | apply KeptOut.next | apply State.begin_kept | apply State.flushTimer_kept | dsimp only

theorem State.ringsDrop_kept {s : State} (hk : Kept A P s0 s) {drop : Nat → Bool}
    (hP : ∀ p ∈ ([.rcd] : List Part), p ∈ P) :
    Kept A P s0 (State.ringsDrop s drop) := by
  unfold State.ringsDrop
  repeat' first
    | with_reducible assumption | exact .inl (inP hP rfl) | exact subP hP rfl | with_reducible exact rfl
    | exact .inr rfl
    | with_reducible first
      | intro _ | apply Kept.ite | dsimp only
    | fail_if_no_progress with_reducible apply Kept.upd

theorem State.eraseFor_kept {s : State} (hk : Kept A P s0 s) {page : Nat} (hP : ∀ p ∈ ([.rcd] : List Part), p ∈ P) :
    Kept A P s0 (State.eraseFor s page) := by
  unfold State.eraseFor
  repeat' first
    | with_reducible assumption | exact .inl (inP hP rfl) | exact subP hP rfl
    | with_reducible first
      | intro _ | apply State.ringsDrop_kept | apply Kept.ite | dsimp only

theorem State.ringsPage_kept {s : State} (hk : Kept A P s0 s) {n : Nat} {first : Option Nat}
    (hP : ∀ p ∈ ([.rcd] : List Part), p ∈ P) :
    Kept A P s0 (State.ringsPage s n first) := by
  unfold State.ringsPage
  repeat' first
    | with_reducible assumption | exact .inl (inP hP rfl) | exact subP hP rfl | with_reducible exact rfl
    | exact .inr rfl
    | with_reducible first
      | intro _ | dsimp only
    | fail_if_no_progress with_reducible apply Kept.upd

theorem State.heartAdd_kept {s : State} (hk : Kept A P s0 s) {seq : Nat} {bs : List Byte}
    (hP : ∀ p ∈ ([.rcd] : List Part), p ∈ P) :
    Kept A P s0 (State.heartAdd s seq bs) := by
  unfold State.heartAdd
  repeat' first
    | with_reducible assumption | exact .inl (inP hP rfl) | exact subP hP rfl | with_reducible exact rfl
    | exact .inr rfl
    | with_reducible first
      | intro _ | apply Kept.ite | dsimp only
    | fail_if_no_progress with_reducible apply Kept.upd

theorem State.closeHeart_kept {s : State} (hk : Kept A P s0 s)
    (hA : ∀ a ∈ ([.pend, .ecc, .cvu, .recd, .ingress] : List Area), a ∈ A)
    (hP : ∀ p ∈ ([.mem, .pw, .rcd, .ecc, .cvu] : List Part), p ∈ P) :
    Kept A P s0 (State.closeHeart s) := by
  unfold State.closeHeart
  repeat' first
    | with_reducible assumption | exact inA hA rfl | exact subA hA rfl | exact .inl (inP hP rfl) | exact subP hP rfl
    | with_reducible exact rfl | exact .inr rfl
    | with_reducible first
      | intro _ | apply State.raise_kept | apply State.sysRecord_kept | apply State.wr_kept | dsimp only
    | fail_if_no_progress with_reducible apply Kept.upd

theorem State.land_kept {s : State} (hk : Kept A P s0 s) {recs : List (Staged × Nat)}
    (hA : ∀ a ∈ ([.pend, .ecc, .cvu, .recd, .ingress] : List Area), a ∈ A)
    (hP : ∀ p ∈ ([.mem, .pw, .rcd, .ecc, .cvu] : List Part), p ∈ P) :
    Kept A P s0 (State.land s recs) := by
  unfold State.land
  repeat' first
    | with_reducible assumption | exact inA hA rfl | exact subA hA rfl | exact .inl (inP hP rfl) | exact subP hP rfl
    | with_reducible exact rfl | exact .inr rfl
    | with_reducible first
      | intro _ | apply State.closeHeart_kept | apply State.heartAdd_kept | apply State.wr_kept
      | apply State.wr64_kept | apply Kept.ite | apply Kept.foldl | split | dsimp only
    | fail_if_no_progress with_reducible apply Kept.upd

theorem State.endFlush_kept {s : State} (hk : Kept A P s0 s) {began : Nat}
    (hA : ∀ a ∈ ([.pend, .recd, .ingress] : List Area), a ∈ A) (hP : ∀ p ∈ ([.rcd] : List Part), p ∈ P) :
    Kept A P s0 (State.endFlush s began) := by
  unfold State.endFlush
  repeat' first
    | with_reducible assumption | exact inA hA rfl | exact subA hA rfl | exact .inl (inP hP rfl) | exact subP hP rfl
    | with_reducible exact rfl | exact .inr rfl
    | with_reducible first
      | intro _ | apply State.maxWr_kept | apply State.raise_kept | apply State.wr_kept | dsimp only
    | fail_if_no_progress with_reducible apply Kept.upd

theorem State.loseRow_kept {s : State} (hk : Kept A P s0 s) {row : Nat}
    (hA : ∀ a ∈ ([.pend, .ecc, .cvu, .recd, .ingress] : List Area), a ∈ A)
    (hP : ∀ p ∈ ([.mem, .pw, .rcd, .ecc, .cvu] : List Part), p ∈ P) :
    Kept A P s0 (State.loseRow s row) := by
  unfold State.loseRow
  repeat' first
    | with_reducible assumption | exact inA hA rfl | exact subA hA rfl | exact .inl (inP hP rfl) | exact subP hP rfl
    | with_reducible exact rfl | exact .inr rfl
    | with_reducible first
      | intro _ | apply State.raise_kept | apply State.sysRecord_kept | apply State.wr_kept | apply Kept.ite | split
      | dsimp only
    | fail_if_no_progress with_reducible apply Kept.upd

theorem State.programPage_kept {s : State} (hk : Kept A P s0 s)
    (hA : ∀ a ∈ ([.pend, .ecc, .cvu, .recd, .ingress] : List Area), a ∈ A)
    (hP : ∀ p ∈ ([.mem, .pw, .rcd, .ecc, .cvu] : List Part), p ∈ P) :
    Kept A P s0 (State.programPage s) := by
  unfold State.programPage
  repeat' first
    | with_reducible assumption | exact inA hA rfl | exact subA hA rfl | exact .inl (inP hP rfl) | exact subP hP rfl
    | with_reducible exact rfl | exact .inr rfl
    | with_reducible first
      | intro _ | apply State.endFlush_kept | apply State.eraseFor_kept | apply State.land_kept
      | apply State.leaveOverload_kept | apply State.ringsPage_kept | apply State.wr_kept | apply Kept.ite | split
      | dsimp only
    | fail_if_no_progress with_reducible apply Kept.upd

theorem State.flushReads_kept {s : State} (hk : Kept A P s0 s) {r : Nat}
    (hA : ∀ a ∈ ([.pend, .ecc, .cpc, .cvu, .recd, .ingress] : List Area), a ∈ A)
    (hP : ∀ p ∈ ([.mem, .leMem, .pw, .rcd, .cop, .ecc, .cvu] : List Part), p ∈ P) :
    Kept A P s0 (State.flushReads s r) := by
  unfold State.flushReads
  repeat' first
    | with_reducible assumption | exact inA hA rfl | exact subA hA rfl | exact .inl (inP hP rfl) | exact subP hP rfl
    | with_reducible first
      | intro _ | apply State.loseRow_kept | apply State.seeRows_kept | apply Kept.ite
      | refine Kept.snd ?_ (by assumption) | refine Kept.fst ?_ (by assumption) | split | dsimp only

theorem State.loseBad_kept {s : State} (hk : Kept A P s0 s) {n : Nat}
    (hA : ∀ a ∈ ([.pend, .ecc, .cpc, .cvu, .recd, .ingress] : List Area), a ∈ A)
    (hP : ∀ p ∈ ([.mem, .leMem, .pw, .rcd, .cop, .ecc, .cvu] : List Part), p ∈ P) : Kept A P s0 (State.loseBad s n) := by
  have h0 : ∀ u, Kept A P s0 u → Kept A P s0 (State.loseBad u 0) := fun u hu => by
    unfold State.loseBad
    exact Kept.foldl (fun v x hv => State.flushReads_kept hv (subA hA rfl) (subP hP rfl)) hu _
  induction n generalizing s with
  | zero => exact h0 s hk
  | succ n ih =>
    unfold State.loseBad
    split
    · exact ih (State.flushReads_kept hk (subA hA rfl) (subP hP rfl))
    · exact h0 s hk

theorem execPageProgrammed_kept {s : State} (hk : Kept A P s0 s) {lost : Option Nat} {t : Nat}
    (hA : ∀ a ∈ ([.pend, .ecc, .cpc, .cvu, .recd, .ingress] : List Area), a ∈ A)
    (hP : ∀ p ∈ ([.now, .mem, .leMem, .resp, .out, .pw, .rcd, .cop, .ecc, .cvu] : List Part), p ∈ P) :
    KeptOut A P s0 (execPageProgrammed lost t s) := by
  unfold execPageProgrammed
  repeat' first
    | with_reducible assumption | exact inA hA rfl | exact subA hA rfl | exact .inl (inP hP rfl) | exact subP hP rfl
    | with_reducible exact rfl | exact .inr rfl
    | with_reducible first
      | intro _ | apply KeptOut.next | apply State.begin_kept | apply State.loseBad_kept | apply State.loseRow_kept
      | apply State.programPage_kept | apply Kept.ite | apply KeptOut.ite | split | dsimp only
    | fail_if_no_progress with_reducible apply Kept.upd

theorem State.oldestRead_kept {s : State} (hk : Kept A P s0 s) (hA : ∀ a ∈ ([.recd] : List Area), a ∈ A)
    (hP : ∀ p ∈ ([.resp] : List Part), p ∈ P) :
    Kept A P s0 (State.oldestRead s) := by
  unfold State.oldestRead
  repeat' first
    | with_reducible assumption | exact inA hA rfl | exact subA hA rfl | exact .inl (inP hP rfl) | exact subP hP rfl
    | with_reducible first
      | intro _ | apply State.answer_kept | apply State.wr64_kept | dsimp only

theorem execOldestRead_kept {s : State} (hk : Kept A P s0 s) {t : Nat} (hA : ∀ a ∈ ([.recd] : List Area), a ∈ A)
    (hP : ∀ p ∈ ([.now, .resp, .out] : List Part), p ∈ P) :
    KeptOut A P s0 (execOldestRead t s) := by
  unfold execOldestRead
  repeat' first
    | with_reducible assumption | exact inA hA rfl | exact subA hA rfl | exact .inl (inP hP rfl) | exact subP hP rfl
    | with_reducible first
      | intro _ | apply KeptOut.next | apply State.begin_kept | apply State.oldestRead_kept | dsimp only

theorem State.nextRead_kept {s : State} (hk : Kept A P s0 s) (hA : ∀ a ∈ ([.recd] : List Area), a ∈ A)
    (hP : ∀ p ∈ ([.resp] : List Part), p ∈ P) :
    Kept A P s0 (State.nextRead s) := by
  unfold State.nextRead
  repeat' first
    | with_reducible assumption | exact inA hA rfl | exact subA hA rfl | exact .inl (inP hP rfl) | exact subP hP rfl
    | with_reducible first
      | intro _ | apply State.answer_kept | apply State.wr64_kept | dsimp only

theorem execNextRead_kept {s : State} (hk : Kept A P s0 s) {t : Nat} (hA : ∀ a ∈ ([.recd] : List Area), a ∈ A)
    (hP : ∀ p ∈ ([.now, .resp, .out] : List Part), p ∈ P) :
    KeptOut A P s0 (execNextRead t s) := by
  unfold execNextRead
  repeat' first
    | with_reducible assumption | exact inA hA rfl | exact subA hA rfl | exact .inl (inP hP rfl) | exact subP hP rfl
    | with_reducible first
      | intro _ | apply KeptOut.next | apply State.begin_kept | apply State.nextRead_kept | dsimp only

theorem State.readFail_kept {s : State} (hk : Kept A P s0 s) {e : Nat}
    (hA : ∀ a ∈ ([.pend, .recd] : List Area), a ∈ A) :
    Kept A P s0 (State.readFail s e) := by
  unfold State.readFail
  repeat' first
    | with_reducible assumption | exact inA hA rfl | exact subA hA rfl
    | with_reducible first
      | intro _ | apply State.raise_kept | apply State.wr_kept | dsimp only

theorem State.readStart_kept {s : State} (hk : Kept A P s0 s) {heart : Bool}
    (hA : ∀ a ∈ ([.pend, .recd] : List Area), a ∈ A) (hP : ∀ p ∈ ([.rcd] : List Part), p ∈ P) :
    Kept A P s0 (State.readStart s heart) := by
  unfold State.readStart
  repeat' first
    | with_reducible assumption | exact inA hA rfl | exact subA hA rfl | exact .inl (inP hP rfl) | exact subP hP rfl
    | with_reducible exact rfl | exact .inr rfl
    | with_reducible first
      | intro _ | apply State.readFail_kept | apply State.wr_kept | apply Kept.ite | dsimp only
    | fail_if_no_progress with_reducible apply Kept.upd

theorem execRecordReadStart_kept {s : State} (hk : Kept A P s0 s) {heart : Bool} {t : Nat}
    (hA : ∀ a ∈ ([.pend, .recd] : List Area), a ∈ A) (hP : ∀ p ∈ ([.now, .resp, .out, .rcd] : List Part), p ∈ P) :
    KeptOut A P s0 (execRecordReadStart heart t s) := by
  unfold execRecordReadStart
  repeat' first
    | with_reducible assumption | exact inA hA rfl | exact subA hA rfl | exact .inl (inP hP rfl) | exact subP hP rfl
    | with_reducible first
      | intro _ | apply KeptOut.next | apply State.answer_kept | apply State.begin_kept | apply State.readStart_kept
      | apply Kept.ite | apply KeptOut.ite | dsimp only

theorem State.copyRead_kept {s : State} (hk : Kept A P s0 s) {r : ReadRun} {n : Nat}
    (hA : ∀ a ∈ ([.pend, .ecc, .cvu, .recd, .ingress] : List Area), a ∈ A)
    (hP : ∀ p ∈ ([.mem, .pw, .rcd, .ecc, .cvu] : List Part), p ∈ P) :
    Kept A P s0 (State.copyRead s r n) := by
  unfold State.copyRead
  repeat' first
    | with_reducible assumption | exact inA hA rfl | exact subA hA rfl | exact .inl (inP hP rfl) | exact subP hP rfl
    | with_reducible exact rfl | exact .inr rfl
    | with_reducible first
      | intro _ | apply State.store_kept | apply State.wr_kept | apply State.wr64_kept | split | dsimp only
    | fail_if_no_progress with_reducible apply Kept.upd

theorem State.readDone_kept {s : State} (hk : Kept A P s0 s) {err n : Nat}
    (hA : ∀ a ∈ ([.pend, .ecc, .cvu, .recd, .ingress] : List Area), a ∈ A)
    (hP : ∀ p ∈ ([.mem, .pw, .rcd, .ecc, .cvu] : List Part), p ∈ P) :
    Kept A P s0 (State.readDone s err n) := by
  unfold State.readDone
  repeat' first
    | with_reducible assumption | exact inA hA rfl | exact subA hA rfl | exact .inl (inP hP rfl) | exact subP hP rfl
    | with_reducible exact rfl | exact .inr rfl
    | with_reducible first
      | intro _ | apply State.copyRead_kept | apply State.raise_kept | apply State.readFail_kept | apply State.wr_kept
      | apply Kept.ite | split | dsimp only
    | fail_if_no_progress with_reducible apply Kept.upd

theorem execRecordReadDone_kept {s : State} (hk : Kept A P s0 s) {err : Fin 8} {n t : Nat}
    (hA : ∀ a ∈ ([.pend, .ecc, .cvu, .recd, .ingress] : List Area), a ∈ A)
    (hP : ∀ p ∈ ([.now, .mem, .resp, .out, .pw, .rcd, .ecc, .cvu] : List Part), p ∈ P) :
    KeptOut A P s0 (execRecordReadDone err n t s) := by
  unfold execRecordReadDone
  repeat' first
    | with_reducible assumption | exact inA hA rfl | exact subA hA rfl | exact .inl (inP hP rfl) | exact subP hP rfl
    | with_reducible first
      | intro _ | apply KeptOut.next | apply State.begin_kept | apply State.readDone_kept | apply Kept.ite
      | apply KeptOut.ite | dsimp only

theorem State.readAbort_kept {s : State} (hk : Kept A P s0 s) {n : Nat}
    (hA : ∀ a ∈ ([.pend, .ecc, .cvu, .recd, .ingress] : List Area), a ∈ A)
    (hP : ∀ p ∈ ([.mem, .pw, .rcd, .ecc, .cvu] : List Part), p ∈ P) :
    Kept A P s0 (State.readAbort s n) := by
  unfold State.readAbort
  repeat' first
    | with_reducible assumption | exact inA hA rfl | exact subA hA rfl | exact .inl (inP hP rfl) | exact subP hP rfl
    | with_reducible exact rfl | exact .inr rfl
    | with_reducible first
      | intro _ | apply State.copyRead_kept | apply State.readFail_kept | split | dsimp only
    | fail_if_no_progress with_reducible apply Kept.upd

theorem execRecordReadAbort_kept {s : State} (hk : Kept A P s0 s) {n t : Nat}
    (hA : ∀ a ∈ ([.pend, .ecc, .cvu, .recd, .ingress] : List Area), a ∈ A)
    (hP : ∀ p ∈ ([.now, .mem, .resp, .out, .pw, .rcd, .ecc, .cvu] : List Part), p ∈ P) :
    KeptOut A P s0 (execRecordReadAbort n t s) := by
  unfold execRecordReadAbort
  repeat' first
    | with_reducible assumption | exact inA hA rfl | exact subA hA rfl | exact .inl (inP hP rfl) | exact subP hP rfl
    | with_reducible first
      | intro _ | apply KeptOut.next | apply State.answer_kept | apply State.begin_kept | apply State.readAbort_kept
      | dsimp only

theorem State.recorderReset_kept {s : State} (hk : Kept A P s0 s) {n : Nat}
    (hA : ∀ a ∈ ([.pend, .ecc, .cvu, .recd, .ingress] : List Area), a ∈ A)
    (hP : ∀ p ∈ ([.mem, .pw, .rcd, .ecc, .cvu] : List Part), p ∈ P) :
    Kept A P s0 (State.recorderReset s n) := by
  unfold State.recorderReset
  repeat' first
    | with_reducible assumption | exact inA hA rfl | exact subA hA rfl | exact .inl (inP hP rfl) | exact subP hP rfl
    | with_reducible exact rfl | exact .inr rfl | exact fun a h => mem_of_inArea hA h (hm := rfl)
    | exact fun a _ => hA _ (mem_allAreas _) | exact fun a h => mem_of_or hA (recBlock_area h) (hx := rfl) (hy := rfl)
    | with_reducible first
      | intro _ | apply State.readAbort_kept | apply State.restore_kept | split | dsimp only
    | fail_if_no_progress with_reducible apply Kept.upd

theorem execRecorderReset_kept {s : State} (hk : Kept A P s0 s) {n t : Nat}
    (hA : ∀ a ∈ ([.pend, .ecc, .cvu, .recd, .ingress] : List Area), a ∈ A)
    (hP : ∀ p ∈ ([.now, .mem, .resp, .out, .pw, .rcd, .ecc, .cvu] : List Part), p ∈ P) :
    KeptOut A P s0 (execRecorderReset n t s) := by
  unfold execRecorderReset
  repeat' first
    | with_reducible assumption | exact inA hA rfl | exact subA hA rfl | exact .inl (inP hP rfl) | exact subP hP rfl
    | with_reducible first
      | intro _ | apply KeptOut.next | apply State.answer_kept | apply State.begin_kept
      | apply State.recorderReset_kept | apply Kept.ite | apply KeptOut.ite | dsimp only

theorem execRecorderResetDone_kept {s : State} (hk : Kept A P s0 s) {t : Nat}
    (hP : ∀ p ∈ ([.now, .resp, .out, .rcd] : List Part), p ∈ P) :
    KeptOut A P s0 (execRecorderResetDone t s) := by
  unfold execRecorderResetDone
  repeat' first
    | with_reducible assumption | exact .inl (inP hP rfl) | exact subP hP rfl | with_reducible exact rfl
    | exact .inr rfl
    | with_reducible first
      | intro _ | apply KeptOut.next | apply State.begin_kept | dsimp only
    | fail_if_no_progress with_reducible apply Kept.upd

theorem State.heartAtStart_kept {s : State} (hk : Kept A P s0 s)
    (hA : ∀ a ∈ ([.pend, .ecc, .cvu, .recd, .ingress] : List Area), a ∈ A)
    (hP : ∀ p ∈ ([.mem, .pw, .rcd, .ecc, .cvu] : List Part), p ∈ P) :
    Kept A P s0 (State.heartAtStart s) := by
  unfold State.heartAtStart
  repeat' first
    | with_reducible assumption | exact inA hA rfl | exact subA hA rfl | exact .inl (inP hP rfl) | exact subP hP rfl
    | with_reducible exact rfl | exact .inr rfl
    | with_reducible first
      | intro _ | apply State.closeHeart_kept | apply State.wr_kept | apply State.wr64_kept | apply State.wrB_kept
      | apply Kept.ite | split | dsimp only
    | fail_if_no_progress with_reducible apply Kept.upd

theorem State.selfRecord_kept {s : State} (hk : Kept A P s0 s) {kind cls : Nat} {payload : List Byte}
    (hA : ∀ a ∈ ([.pend, .ecc, .cvu, .recd, .ingress] : List Area), a ∈ A)
    (hP : ∀ p ∈ ([.mem, .pw, .rcd, .ecc, .cvu] : List Part), p ∈ P) :
    Kept A P s0 (State.selfRecord s kind cls payload) := by
  unfold State.selfRecord
  repeat' first
    | with_reducible assumption | exact inA hA rfl | exact subA hA rfl | exact .inl (inP hP rfl) | exact subP hP rfl
    | with_reducible exact rfl | exact .inr rfl
    | with_reducible first
      | intro _ | apply State.sysRecord_kept | apply Kept.ite | dsimp only
    | fail_if_no_progress with_reducible apply Kept.upd

theorem State.stagingFill_kept {s : State} (hk : Kept A P s0 s)
    (hA : ∀ a ∈ ([.pend, .ecc, .ingress] : List Area), a ∈ A)
    (hP : ∀ p ∈ ([.mem, .pw, .rcd, .ecc] : List Part), p ∈ P) : Kept A P s0 (State.stagingFill s) := by
  unfold State.stagingFill
  refine State.rowsWritten_kept ?_ (subA hA rfl) (subP hP rfl)
  exact Kept.parts hk rfl rfl (fun q hq => by cases q <;> first | rfl | exact absurd (inP hP rfl) hq)
    fun c => ⟨c.1, tblWf_filter _ c.2, c.3, c.4, c.5⟩

theorem State.ownFollow_kept {s : State} (hk : Kept A P s0 s)
    (hA : ∀ a ∈ ([.pend, .ecc, .cvu, .recd, .ingress] : List Area), a ∈ A)
    (hP : ∀ p ∈ ([.mem, .pw, .rcd, .ecc, .cvu] : List Part), p ∈ P) :
    Kept A P s0 (State.ownFollow s) := by
  unfold State.ownFollow
  repeat' first
    | with_reducible assumption | exact inA hA rfl | exact subA hA rfl | exact .inl (inP hP rfl) | exact subP hP rfl
    | with_reducible exact rfl | exact .inr rfl
    | with_reducible first
      | intro _ | apply State.sysRecord_kept | apply Kept.foldl | dsimp only
    | fail_if_no_progress with_reducible apply Kept.upd

theorem State.startRecords_kept {s : State}
    (hk : Kept A P s0 s) {power : Bool} {found : Option Bool} {newest : Option NandRec}
    (hA : ∀ a ∈ ([.pend, .ecc, .cvu, .recd, .ingress] : List Area), a ∈ A)
    (hP : ∀ p ∈ ([.mem, .pw, .rcd, .ecc, .cvu] : List Part), p ∈ P) :
    Kept A P s0 (State.startRecords s power found newest) := by
  unfold State.startRecords
  repeat' first
    | with_reducible assumption | exact inA hA rfl | exact subA hA rfl | exact .inl (inP hP rfl) | exact subP hP rfl
    | with_reducible exact rfl | exact .inr rfl
    | with_reducible first
      | intro _ | apply State.sysRecord_kept | apply State.wr_kept | split | dsimp only
    | fail_if_no_progress with_reducible apply Kept.upd

theorem State.recorderStart_kept {s : State} (hk : Kept A P s0 s)
    (hA : ∀ a ∈ ([.pend, .ecc, .cvu, .recd, .ingress] : List Area), a ∈ A)
    (hP : ∀ p ∈ ([.mem, .pw, .rcd, .ecc, .cvu] : List Part), p ∈ P) :
    Kept A P s0 (State.recorderStart s) := by
  unfold State.recorderStart
  repeat' first
    | with_reducible assumption | exact inA hA rfl | exact subA hA rfl | exact .inl (inP hP rfl) | exact subP hP rfl
    | with_reducible exact rfl | exact .inr rfl
    | with_reducible first
      | intro _ | apply State.heartAtStart_kept | apply State.ownFollow_kept | apply State.stagingFill_kept
      | apply State.startRecords_kept | apply State.wr_kept | apply Kept.ite | dsimp only
    | fail_if_no_progress with_reducible apply Kept.upd

theorem execRecorderStart_kept {s : State} (hk : Kept A P s0 s) {t : Nat}
    (hA : ∀ a ∈ ([.pend, .ecc, .cvu, .recd, .ingress] : List Area), a ∈ A)
    (hP : ∀ p ∈ ([.now, .mem, .resp, .out, .pw, .rcd, .ecc, .cvu] : List Part), p ∈ P) :
    KeptOut A P s0 (execRecorderStart t s) := by
  unfold execRecorderStart
  repeat' first
    | with_reducible assumption | exact inA hA rfl | exact subA hA rfl | exact .inl (inP hP rfl) | exact subP hP rfl
    | with_reducible first
      | intro _ | apply KeptOut.next | apply State.begin_kept | apply State.recorderStart_kept | dsimp only

theorem State.rate24_kept {s : State} (hk : Kept A P s0 s) {kbs : Nat}
    (hA : ∀ a ∈ ([.pend, .recd, .ingress] : List Area), a ∈ A) (hP : ∀ p ∈ ([.pw, .rcd] : List Part), p ∈ P) :
    Kept A P s0 (State.rate24 s kbs) := by
  unfold State.rate24
  repeat' first
    | with_reducible assumption | exact inA hA rfl | exact subA hA rfl | exact .inl (inP hP rfl) | exact subP hP rfl
    | with_reducible exact rfl | exact .inr rfl
    | with_reducible first
      | intro _ | apply State.raise_kept | apply State.record_kept | apply State.wr_kept | apply Kept.ite | dsimp only
    | fail_if_no_progress with_reducible apply Kept.upd

theorem execRate24Update_kept {s : State} (hk : Kept A P s0 s) {part t : Nat}
    (hA : ∀ a ∈ ([.pend, .recd, .ingress] : List Area), a ∈ A)
    (hP : ∀ p ∈ ([.now, .resp, .out, .pw, .rcd] : List Part), p ∈ P) :
    KeptOut A P s0 (execRate24Update part t s) := by
  unfold execRate24Update
  repeat' first
    | with_reducible assumption | exact inA hA rfl | exact subA hA rfl | exact .inl (inP hP rfl) | exact subP hP rfl
    | with_reducible first
      | intro _ | apply KeptOut.next | apply State.begin_kept | apply State.rate24_kept | apply Kept.ite
      | apply KeptOut.ite | dsimp only

/-! ### Machine/Power.lean -/

theorem State.setFeed_kept {s : State} (hk : Kept A P s0 s) {n : Nat} {f : Feed}
    (hP : ∀ p ∈ ([.pw] : List Part), p ∈ P) :
    Kept A P s0 (State.setFeed s n f) := by
  unfold State.setFeed
  repeat' first
    | with_reducible assumption | exact .inl (inP hP rfl) | exact subP hP rfl | with_reducible exact rfl
    | exact .inr rfl
    | with_reducible first
      | intro _ | apply Kept.ite | dsimp only
    | fail_if_no_progress with_reducible apply Kept.upd

theorem State.dark_kept {s : State} (hk : Kept A P s0 s) {keep : Nat → Bool} (hA : ∀ a ∈ allAreas, a ∈ A)
    (hP : ∀ p ∈ allParts, p ∈ P) : Kept A P s0 (State.dark s keep) :=
  ⟨⟨fun f hf => absurd (hA _ (mem_allAreas _)) hf, fun p hp => absurd (hP _ (mem_allParts p)) hp⟩, hk.2,
    fun c => ⟨tblWf_filter _ (hk.3 c).1, tblWf_nil, tblWf_nil, (by intro e he; cases he), tblWf_nil⟩⟩

theorem State.confTorn_kept {s : State} (hk : Kept A P s0 s) (hP : ∀ p ∈ ([.mem, .fresh, .key] : List Part), p ∈ P) :
    Kept A P s0 (State.confTorn s) := by
  unfold State.confTorn
  repeat' first
    | with_reducible assumption | exact .inl (inP hP rfl) | exact subP hP rfl | with_reducible exact rfl
    | exact .inr rfl
    | with_reducible first
      | intro _ | split | dsimp only
    | fail_if_no_progress with_reducible apply Kept.upd

theorem State.lanesFall_kept {s : State} (hk : Kept A P s0 s) (hP : ∀ p ∈ ([.out] : List Part), p ∈ P) :
    Kept A P s0 (State.lanesFall s) := by
  unfold State.lanesFall
  repeat' first
    | with_reducible assumption | exact .inl (inP hP rfl) | exact subP hP rfl
    | with_reducible first
      | intro _ | apply State.emit_kept | apply Kept.ite | apply Kept.foldl | dsimp only

theorem State.permitsFall_kept {s : State} (hk : Kept A P s0 s) (hP : ∀ p ∈ ([.out] : List Part), p ∈ P) :
    Kept A P s0 (State.permitsFall s) := by
  unfold State.permitsFall
  repeat' first
    | with_reducible assumption | exact .inl (inP hP rfl) | exact subP hP rfl
    | with_reducible first
      | intro _ | apply State.emit_kept | apply Kept.ite | apply Kept.foldl | dsimp only

theorem State.parked_kept {s : State} (hk : Kept A P s0 s) (hA : ∀ a ∈ allAreas, a ∈ A) (hP : ∀ p ∈ allParts, p ∈ P) :
    Kept A P s0 (State.parked s) := by
  unfold State.parked
  repeat' first
    | with_reducible assumption | exact inA hA rfl | exact subA hA rfl | exact .inl (inP hP rfl) | exact subP hP rfl
    | with_reducible first
      | intro _ | apply State.confTorn_kept | apply State.dark_kept | apply State.lanesFall_kept
      | apply State.permitsFall_kept | apply State.wr_kept | apply Kept.ite | dsimp only

theorem State.islandOff_kept {s : State} (hk : Kept A P s0 s) (hA : ∀ a ∈ allAreas, a ∈ A)
    (hP : ∀ p ∈ allParts, p ∈ P) :
    Kept A P s0 (State.islandOff s) := by
  unfold State.islandOff
  repeat' first
    | with_reducible assumption | exact inA hA rfl | exact subA hA rfl | exact .inl (inP hP rfl) | exact subP hP rfl
    | with_reducible first
      | intro _ | apply State.confTorn_kept | apply State.dark_kept | apply State.lanesFall_kept
      | apply State.permitsFall_kept | dsimp only

theorem State.hibernated_kept {s : State} (hk : Kept A P s0 s) (hA : ∀ a ∈ allAreas, a ∈ A)
    (hP : ∀ p ∈ allParts, p ∈ P) :
    Kept A P s0 (State.hibernated s) := by
  unfold State.hibernated
  repeat' first
    | with_reducible assumption | exact inA hA rfl | exact subA hA rfl | exact .inl (inP hP rfl) | exact subP hP rfl
    | with_reducible exact rfl | exact .inr rfl
    | with_reducible first
      | intro _ | apply State.confTorn_kept | apply State.dark_kept | apply State.lanesFall_kept | dsimp only
    | fail_if_no_progress with_reducible apply Kept.upd

theorem State.feedRecord_kept {s : State} (hk : Kept A P s0 s) {n kind : Nat}
    (hA : ∀ a ∈ ([.pend, .ingress] : List Area), a ∈ A) (hP : ∀ p ∈ ([.pw, .rcd] : List Part), p ∈ P) :
    Kept A P s0 (State.feedRecord s n kind) := by
  unfold State.feedRecord
  repeat' first
    | with_reducible assumption | exact inA hA rfl | exact subA hA rfl | exact .inl (inP hP rfl) | exact subP hP rfl
    | with_reducible exact rfl | exact .inr rfl
    | with_reducible first
      | intro _ | apply State.record_kept | dsimp only
    | fail_if_no_progress with_reducible apply Kept.upd

theorem State.feedGood_kept {s : State} (hk : Kept A P s0 s) {n : Nat} (hA : ∀ a ∈ allAreas, a ∈ A)
    (hP : ∀ p ∈ allParts, p ∈ P) :
    Kept A P s0 (State.feedGood s n) := by
  unfold State.feedGood
  repeat' first
    | with_reducible assumption | exact inA hA rfl | exact subA hA rfl | exact .inl (inP hP rfl) | exact subP hP rfl
    | with_reducible exact rfl | exact .inr rfl
    | with_reducible first
      | intro _ | apply State.feedRecord_kept | apply State.islandOff_kept | apply State.setFeed_kept
      | apply State.wakeEdge_kept | apply State.wr_kept | apply State.wr64_kept | apply Kept.ite | dsimp only
    | fail_if_no_progress with_reducible apply Kept.upd

theorem execFeedGood_kept {s : State} (hk : Kept A P s0 s) {n : Fin 2} {t : Nat} (hA : ∀ a ∈ allAreas, a ∈ A)
    (hP : ∀ p ∈ allParts, p ∈ P) :
    KeptOut A P s0 (execFeedGood n t s) := by
  unfold execFeedGood
  repeat' first
    | with_reducible assumption | exact inA hA rfl | exact subA hA rfl | exact .inl (inP hP rfl) | exact subP hP rfl
    | with_reducible first
      | intro _ | apply KeptOut.next | apply State.begin_kept | apply State.feedGood_kept | dsimp only

theorem State.powerFail_kept {s : State} (hk : Kept A P s0 s) (hA : ∀ a ∈ allAreas, a ∈ A)
    (hP : ∀ p ∈ allParts, p ∈ P) :
    Kept A P s0 (State.powerFail s) := by
  unfold State.powerFail
  repeat' first
    | with_reducible assumption | exact inA hA rfl | exact subA hA rfl | exact .inl (inP hP rfl) | exact subP hP rfl
    | with_reducible exact rfl | exact .inr rfl
    | with_reducible first
      | intro _ | apply State.islandOff_kept | apply State.wr_kept | split | dsimp only
    | fail_if_no_progress with_reducible apply Kept.upd

theorem State.feedLost_kept {s : State} (hk : Kept A P s0 s) {n : Nat} (hA : ∀ a ∈ allAreas, a ∈ A)
    (hP : ∀ p ∈ allParts, p ∈ P) :
    Kept A P s0 (State.feedLost s n) := by
  unfold State.feedLost
  repeat' first
    | with_reducible assumption | exact inA hA rfl | exact subA hA rfl | exact .inl (inP hP rfl) | exact subP hP rfl
    | with_reducible exact rfl | exact .inr rfl
    | with_reducible first
      | intro _ | apply State.feedRecord_kept | apply State.powerFail_kept | apply State.raise_kept
      | apply State.setFeed_kept | apply State.wakeEdge_kept | apply State.wr_kept | apply State.wr64_kept
      | apply Kept.ite | dsimp only
    | fail_if_no_progress with_reducible apply Kept.upd

theorem execFeedLost_kept {s : State} (hk : Kept A P s0 s) {n : Fin 2} {t : Nat} (hA : ∀ a ∈ allAreas, a ∈ A)
    (hP : ∀ p ∈ allParts, p ∈ P) :
    KeptOut A P s0 (execFeedLost n t s) := by
  unfold execFeedLost
  repeat' first
    | with_reducible assumption | exact inA hA rfl | exact subA hA rfl | exact .inl (inP hP rfl) | exact subP hP rfl
    | with_reducible first
      | intro _ | apply KeptOut.next | apply State.begin_kept | apply State.feedLost_kept | dsimp only

theorem execFeedLowSet_kept {s : State} (hk : Kept A P s0 s) {n : Fin 2} {t : Nat}
    (hP : ∀ p ∈ ([.now, .resp, .out, .pw] : List Part), p ∈ P) :
    KeptOut A P s0 (execFeedLowSet n t s) := by
  unfold execFeedLowSet
  repeat' first
    | with_reducible assumption | exact .inl (inP hP rfl) | exact subP hP rfl | with_reducible exact rfl
    | exact .inr rfl
    | with_reducible first
      | intro _ | apply KeptOut.next | apply State.begin_kept | apply State.setFeed_kept | apply Kept.ite
      | apply KeptOut.ite | dsimp only
    | fail_if_no_progress with_reducible apply Kept.upd

theorem execFeedLowClear_kept {s : State} (hk : Kept A P s0 s) {n : Fin 2} {t : Nat}
    (hP : ∀ p ∈ ([.now, .resp, .out, .pw] : List Part), p ∈ P) :
    KeptOut A P s0 (execFeedLowClear n t s) := by
  unfold execFeedLowClear
  repeat' first
    | with_reducible assumption | exact .inl (inP hP rfl) | exact subP hP rfl | with_reducible exact rfl
    | exact .inr rfl
    | with_reducible first
      | intro _ | apply KeptOut.next | apply State.begin_kept | apply State.setFeed_kept | dsimp only
    | fail_if_no_progress with_reducible apply Kept.upd

theorem execFeedHighSet_kept {s : State} (hk : Kept A P s0 s) {n : Fin 2} {t : Nat}
    (hP : ∀ p ∈ ([.now, .resp, .out, .pw] : List Part), p ∈ P) :
    KeptOut A P s0 (execFeedHighSet n t s) := by
  unfold execFeedHighSet
  repeat' first
    | with_reducible assumption | exact .inl (inP hP rfl) | exact subP hP rfl | with_reducible exact rfl
    | exact .inr rfl
    | with_reducible first
      | intro _ | apply KeptOut.next | apply State.begin_kept | apply State.setFeed_kept | dsimp only
    | fail_if_no_progress with_reducible apply Kept.upd

theorem execFeedHighClear_kept {s : State} (hk : Kept A P s0 s) {n : Fin 2} {t : Nat}
    (hP : ∀ p ∈ ([.now, .resp, .out, .pw] : List Part), p ∈ P) :
    KeptOut A P s0 (execFeedHighClear n t s) := by
  unfold execFeedHighClear
  repeat' first
    | with_reducible assumption | exact .inl (inP hP rfl) | exact subP hP rfl | with_reducible exact rfl
    | exact .inr rfl
    | with_reducible first
      | intro _ | apply KeptOut.next | apply State.begin_kept | apply State.setFeed_kept | dsimp only
    | fail_if_no_progress with_reducible apply Kept.upd

theorem execReverseCurrentEvent_kept {s : State} (hk : Kept A P s0 s) {n : Fin 2} {t : Nat}
    (hA : ∀ a ∈ ([.feed, .pend] : List Area), a ∈ A) (hP : ∀ p ∈ ([.now, .resp, .out] : List Part), p ∈ P) :
    KeptOut A P s0 (execReverseCurrentEvent n t s) := by
  unfold execReverseCurrentEvent
  repeat' first
    | with_reducible assumption | exact inA hA rfl | exact subA hA rfl | exact .inl (inP hP rfl) | exact subP hP rfl
    | with_reducible first
      | intro _ | apply KeptOut.next | apply State.begin_kept | apply State.bump_kept | apply State.raise_kept
      | apply State.wr_kept | dsimp only

theorem State.reportFeed_kept {s : State} (hk : Kept A P s0 s) {n v i : Nat} {carry : Bool} {share : Nat}
    (hA : ∀ a ∈ ([.feed] : List Area), a ∈ A) :
    Kept A P s0 (State.reportFeed s n v i carry share) := by
  unfold State.reportFeed
  repeat' first
    | with_reducible assumption | exact inA hA rfl | exact subA hA rfl
    | with_reducible first
      | intro _ | apply State.wr_kept | apply State.wrB_kept | dsimp only

theorem State.feedReport_kept {s : State} (hk : Kept A P s0 s) {va ia vb ib vstore : Nat}
    (hA : ∀ a ∈ ([.feed] : List Area), a ∈ A) :
    Kept A P s0 (State.feedReport s va ia vb ib vstore) := by
  unfold State.feedReport
  repeat' first
    | with_reducible assumption | exact inA hA rfl | exact subA hA rfl
    | with_reducible first
      | intro _ | apply State.reportFeed_kept | apply State.tick_kept | apply State.wr_kept | dsimp only

theorem execFeedReportRefresh_kept {s : State} (hk : Kept A P s0 s) {va ia vb ib vstore t : Nat}
    (hA : ∀ a ∈ ([.feed] : List Area), a ∈ A) (hP : ∀ p ∈ ([.now, .resp, .out] : List Part), p ∈ P) :
    KeptOut A P s0 (execFeedReportRefresh va ia vb ib vstore t s) := by
  unfold execFeedReportRefresh
  repeat' first
    | with_reducible assumption | exact inA hA rfl | exact subA hA rfl | exact .inl (inP hP rfl) | exact subP hP rfl
    | with_reducible first
      | intro _ | apply KeptOut.next | apply State.begin_kept | apply State.feedReport_kept | dsimp only

theorem State.measureDue_kept {s : State} (hk : Kept A P s0 s) {vstore : Nat}
    (hA : ∀ a ∈ ([.feed, .pend, .cnp, .cvu, .ingress] : List Area), a ∈ A)
    (hP : ∀ p ∈ ([.out, .pw, .rcd, .cnp, .fab, .cvu, .rwy] : List Part), p ∈ P) :
    Kept A P s0 (State.measureDue s vstore) := by
  unfold State.measureDue
  repeat' first
    | with_reducible assumption | exact inA hA rfl | exact subA hA rfl | exact .inl (inP hP rfl) | exact subP hP rfl
    | with_reducible exact rfl | exact .inr rfl
    | with_reducible first
      | intro _ | apply State.measure_kept | apply State.record_kept | apply State.wr_kept | apply Kept.ite
      | dsimp only
    | fail_if_no_progress with_reducible apply Kept.upd

theorem State.holdupMeasured_kept {s : State} (hk : Kept A P s0 s) {cap : Nat}
    (hA : ∀ a ∈ ([.feed, .pend, .cnp, .cvu, .ingress] : List Area), a ∈ A)
    (hP : ∀ p ∈ ([.out, .pw, .rcd, .cnp, .fab, .cvu, .rwy] : List Part), p ∈ P) :
    Kept A P s0 (State.holdupMeasured s cap) := by
  unfold State.holdupMeasured
  repeat' first
    | with_reducible assumption | exact inA hA rfl | exact subA hA rfl | exact .inl (inP hP rfl) | exact subP hP rfl
    | with_reducible exact rfl | exact .inr rfl
    | with_reducible first
      | intro _ | apply State.measure_kept | apply State.raise_kept | apply State.record_kept | apply State.wr_kept
      | apply Kept.ite | dsimp only
    | fail_if_no_progress with_reducible apply Kept.upd

theorem execHoldupMeasured_kept {s : State} (hk : Kept A P s0 s) {cap t : Nat}
    (hA : ∀ a ∈ ([.feed, .pend, .cnp, .cvu, .ingress] : List Area), a ∈ A)
    (hP : ∀ p ∈ ([.now, .resp, .out, .pw, .rcd, .cnp, .fab, .cvu, .rwy] : List Part), p ∈ P) :
    KeptOut A P s0 (execHoldupMeasured cap t s) := by
  unfold execHoldupMeasured
  repeat' first
    | with_reducible assumption | exact inA hA rfl | exact subA hA rfl | exact .inl (inP hP rfl) | exact subP hP rfl
    | with_reducible first
      | intro _ | apply KeptOut.next | apply State.begin_kept | apply State.holdupMeasured_kept | dsimp only

theorem execReadySet_kept {s : State} (hk : Kept A P s0 s) {t : Nat} (hA : ∀ a ∈ ([.feed] : List Area), a ∈ A)
    (hP : ∀ p ∈ ([.now, .resp, .out, .pw] : List Part), p ∈ P) :
    KeptOut A P s0 (execReadySet t s) := by
  unfold execReadySet
  repeat' first
    | with_reducible assumption | exact inA hA rfl | exact subA hA rfl | exact .inl (inP hP rfl) | exact subP hP rfl
    | with_reducible exact rfl | exact .inr rfl
    | with_reducible first
      | intro _ | apply KeptOut.next | apply State.begin_kept | apply State.wr_kept | dsimp only
    | fail_if_no_progress with_reducible apply Kept.upd

theorem execReadyClear_kept {s : State} (hk : Kept A P s0 s) {t : Nat} (hA : ∀ a ∈ ([.feed] : List Area), a ∈ A)
    (hP : ∀ p ∈ ([.now, .resp, .out, .pw] : List Part), p ∈ P) :
    KeptOut A P s0 (execReadyClear t s) := by
  unfold execReadyClear
  repeat' first
    | with_reducible assumption | exact inA hA rfl | exact subA hA rfl | exact .inl (inP hP rfl) | exact subP hP rfl
    | with_reducible exact rfl | exact .inr rfl
    | with_reducible first
      | intro _ | apply KeptOut.next | apply State.begin_kept | apply State.wr_kept | dsimp only
    | fail_if_no_progress with_reducible apply Kept.upd

theorem execStoreExhausted_kept {s : State} (hk : Kept A P s0 s) {t : Nat} (hA : ∀ a ∈ allAreas, a ∈ A)
    (hP : ∀ p ∈ allParts, p ∈ P) :
    KeptOut A P s0 (execStoreExhausted t s) := by
  unfold execStoreExhausted
  repeat' first
    | with_reducible assumption | exact inA hA rfl | exact subA hA rfl | exact .inl (inP hP rfl) | exact subP hP rfl
    | with_reducible first
      | intro _ | apply KeptOut.next | apply State.begin_kept | apply State.islandOff_kept | apply Kept.ite
      | apply KeptOut.ite | dsimp only

/-! ### Machine/Flush.lean -/

theorem execFlushSequencerHandover_kept {s : State} (hk : Kept A P s0 s) {t : Nat}
    (hA : ∀ a ∈ ([.unit, .le] : List Area), a ∈ A) (hP : ∀ p ∈ ([.now, .resp, .out, .pw] : List Part), p ∈ P) :
    KeptOut A P s0 (execFlushSequencerHandover t s) := by
  unfold execFlushSequencerHandover
  repeat' first
    | with_reducible assumption | exact inA hA rfl | exact subA hA rfl | exact .inl (inP hP rfl) | exact subP hP rfl
    | with_reducible first
      | intro _ | apply KeptOut.next | apply State.begin_kept | apply State.sequencerNext_kept | dsimp only

theorem State.flushEngine_kept {s : State} (hk : Kept A P s0 s) {e : Nat}
    (hA : ∀ a ∈ ([.unit, .pend, .le] : List Area), a ∈ A) (hP : ∀ p ∈ ([.eng] : List Part), p ∈ P) :
    Kept A P s0 (State.flushEngine s e) := by
  unfold State.flushEngine
  repeat' first
    | with_reducible assumption | exact inA hA rfl | exact subA hA rfl | exact .inl (inP hP rfl) | exact subP hP rfl
    | with_reducible exact rfl | exact .inr rfl
    | with_reducible first
      | intro _ | apply State.setEngine_kept | apply State.swapUndone_kept | apply State.wr_kept | apply Kept.ite
      | dsimp only
    | fail_if_no_progress with_reducible apply Kept.upd

theorem State.sealPoint_kept {s : State} (hk : Kept A P s0 s)
    (hA : ∀ a ∈ ([.pend, .ecc, .cvu, .recd, .ingress] : List Area), a ∈ A)
    (hP : ∀ p ∈ ([.mem, .fresh, .pw, .rcd, .ecc, .cvu] : List Part), p ∈ P) :
    Kept A P s0 (State.sealPoint s) := by
  unfold State.sealPoint
  repeat' first
    | with_reducible assumption | exact inA hA rfl | exact subA hA rfl | exact .inl (inP hP rfl) | exact subP hP rfl
    | with_reducible exact rfl | exact .inr rfl
    | with_reducible first
      | intro _ | apply State.free_kept | apply State.readAbort_kept | apply State.setQueue_kept
      | apply State.startFlush_kept | refine Kept.snd ?_ (by assumption) | refine Kept.fst ?_ (by assumption) | split
      | split | dsimp only
    | fail_if_no_progress with_reducible apply Kept.upd

theorem State.flushPowersDown_kept {s : State} (hk : Kept A P s0 s)
    (hA : ∀ a ∈ ([.unit, .std, .cvu] : List Area), a ∈ A)
    (hP : ∀ p ∈ ([.std, .dbg, .cvu, .rwy, .ust, .pmg] : List Part), p ∈ P) :
    Kept A P s0 (State.flushPowersDown s) := by
  unfold State.flushPowersDown
  repeat' first
    | with_reducible assumption | exact inA hA rfl | exact subA hA rfl | exact .inl (inP hP rfl) | exact subP hP rfl
    | with_reducible exact rfl | exact .inr rfl | exact fun a h => mem_of_inArea hA h (hm := rfl)
    | exact fun a _ => hA _ (mem_allAreas _)
    | with_reducible first
      | intro _ | apply State.request_kept | apply State.restore_kept | apply State.setStand_kept
      | apply State.wr_kept | apply Kept.foldl | dsimp only
    | fail_if_no_progress with_reducible apply Kept.upd

theorem State.flushEnter_kept {s : State} (hk : Kept A P s0 s) {vstore : Nat}
    (hA : ∀ a ∈ ([.feed, .unit, .std, .pend, .le, .ecc, .iog, .chan, .cnp, .ust, .cvu, .recd, .ingress] : List Area), a ∈ A) (hP : ∀ p ∈ ([.mem, .leMem, .out, .fresh, .pw, .rcd, .std, .dbg, .cop, .ecc, .io, .eng, .rng, .cnp, .cvu, .rwy, .ust, .pmg] : List Part), p ∈ P) :
    Kept A P s0 (State.flushEnter s vstore) := by
  unfold State.flushEnter
  repeat' first
    | with_reducible assumption | exact inA hA rfl | exact subA hA rfl | exact .inl (inP hP rfl) | exact subP hP rfl
    | with_reducible exact rfl | exact .inr rfl
    | with_reducible first
      | intro _ | apply State.eccStop_kept | apply State.flushEngine_kept | apply State.flushPowersDown_kept
      | apply State.pulseEnd_kept | apply State.rangerPowerfail_kept | apply State.sealPoint_kept
      | apply State.setJoin_kept | apply State.settleAll_kept | apply State.wr_kept | apply Kept.foldl | dsimp only
    | fail_if_no_progress with_reducible apply Kept.upd

theorem execFlushEntry_kept {s : State} (hk : Kept A P s0 s) {vstore t : Nat}
    (hA : ∀ a ∈ ([.feed, .unit, .std, .pend, .le, .ecc, .iog, .chan, .cnp, .ust, .cvu, .recd, .ingress] : List Area), a ∈ A) (hP : ∀ p ∈ ([.now, .mem, .leMem, .resp, .out, .fresh, .pw, .rcd, .std, .dbg, .cop, .ecc, .io, .eng, .rng, .cnp, .cvu, .rwy, .ust, .pmg] : List Part), p ∈ P) :
    KeptOut A P s0 (execFlushEntry vstore t s) := by
  unfold execFlushEntry
  repeat' first
    | with_reducible assumption | exact inA hA rfl | exact subA hA rfl | exact .inl (inP hP rfl) | exact subP hP rfl
    | with_reducible first
      | intro _ | apply KeptOut.next | apply State.begin_kept | apply State.flushEnter_kept | apply Kept.ite
      | apply KeptOut.ite | dsimp only

theorem State.writeRetain_kept {s : State} (hk : Kept A P s0 s)
    (hA : ∀ a ∈ ([.pend, .ecc, .cpc, .ingress] : List Area), a ∈ A)
    (hP : ∀ p ∈ ([.mem, .leMem, .pw, .rcd, .cop, .ecc, .eng] : List Part), p ∈ P) :
    Kept A P s0 (State.writeRetain s) := by
  unfold State.writeRetain
  repeat' first
    | with_reducible assumption | exact inA hA rfl | exact subA hA rfl | exact .inl (inP hP rfl) | exact subP hP rfl
    | with_reducible exact rfl | exact .inr rfl
    | with_reducible first
      | intro _ | apply State.seeShadow_kept | apply State.setEngine_kept | apply Kept.ite | apply Kept.foldl
      | apply Kept.foldl2 | refine Kept.snd ?_ (by assumption) | refine Kept.fst ?_ (by assumption) | split
      | dsimp only
    | fail_if_no_progress with_reducible apply Kept.upd

theorem State.sealNow_kept {s : State} (hk : Kept A P s0 s) {t0 vstore seqr : Nat}
    (hA : ∀ a ∈ ([.pend, .ecc, .cpc, .ingress] : List Area), a ∈ A)
    (hP : ∀ p ∈ ([.mem, .leMem, .pw, .rcd, .cop, .ecc, .eng] : List Part), p ∈ P) :
    Kept A P s0 (State.sealNow s t0 vstore seqr) := by
  unfold State.sealNow
  repeat' first
    | with_reducible assumption | exact inA hA rfl | exact subA hA rfl | exact .inl (inP hP rfl) | exact subP hP rfl
    | with_reducible exact rfl | exact .inr rfl
    | with_reducible first
      | intro _ | apply State.eraseFor_kept | apply State.heartAdd_kept | apply State.ringsPage_kept
      | apply State.wr_kept | apply State.writeRetain_kept | apply Kept.ite | dsimp only
    | fail_if_no_progress with_reducible apply Kept.upd

theorem execFlushSeal_kept {s : State} (hk : Kept A P s0 s) {t : Nat} (hA : ∀ a ∈ allAreas, a ∈ A)
    (hP : ∀ p ∈ allParts, p ∈ P) :
    KeptOut A P s0 (execFlushSeal t s) := by
  unfold execFlushSeal
  repeat' first
    | with_reducible assumption | exact inA hA rfl | exact subA hA rfl | exact .inl (inP hP rfl) | exact subP hP rfl
    | with_reducible first
      | intro _ | apply KeptOut.next | apply State.begin_kept | apply State.parked_kept | apply State.sealNow_kept
      | apply Kept.ite | apply KeptOut.ite | dsimp only

/-! ### Machine/Selftest.lean -/

theorem State.bistFail_kept {s : State} (hk : Kept A P s0 s) {err : Nat} (hA : ∀ a ∈ ([.bist] : List Area), a ∈ A) :
    Kept A P s0 (State.bistFail s err) := by
  unfold State.bistFail
  repeat' first
    | with_reducible assumption | exact inA hA rfl | exact subA hA rfl
    | with_reducible first
      | intro _ | apply State.wr_kept | dsimp only

theorem State.bistStart_kept {s : State} (hk : Kept A P s0 s)
    (hA : ∀ a ∈ ([.std, .pend, .cpc, .bist] : List Area), a ∈ A) (hP : ∀ p ∈ ([.cop, .cnp] : List Part), p ∈ P) :
    Kept A P s0 (State.bistStart s) := by
  unfold State.bistStart
  repeat' first
    | with_reducible assumption | exact inA hA rfl | exact subA hA rfl | exact .inl (inP hP rfl) | exact subP hP rfl
    | with_reducible first
      | intro _ | apply State.bistFail_kept | apply State.runAsked_kept | apply State.wr_kept | apply Kept.ite
      | dsimp only

theorem execBistStart_kept {s : State} (hk : Kept A P s0 s) {t : Nat}
    (hA : ∀ a ∈ ([.std, .pend, .cpc, .bist] : List Area), a ∈ A)
    (hP : ∀ p ∈ ([.now, .resp, .out, .cop, .cnp] : List Part), p ∈ P) :
    KeptOut A P s0 (execBistStart t s) := by
  unfold execBistStart
  repeat' first
    | with_reducible assumption | exact inA hA rfl | exact subA hA rfl | exact .inl (inP hP rfl) | exact subP hP rfl
    | with_reducible first
      | intro _ | apply KeptOut.next | apply State.begin_kept | apply State.bistStart_kept | apply Kept.ite
      | apply KeptOut.ite | dsimp only

theorem State.bistDepot_kept {s : State} (hk : Kept A P s0 s) (hA : ∀ a ∈ ([.bist] : List Area), a ∈ A)
    (hP : ∀ p ∈ ([.cop] : List Part), p ∈ P) :
    Kept A P s0 (State.bistDepot s) := by
  unfold State.bistDepot
  repeat' first
    | with_reducible assumption | exact inA hA rfl | exact subA hA rfl | exact .inl (inP hP rfl) | exact subP hP rfl
    | with_reducible exact rfl | exact .inr rfl
    | with_reducible first
      | intro _ | apply State.bistFail_kept | apply State.wr_kept | apply Kept.ite | dsimp only
    | fail_if_no_progress with_reducible apply Kept.upd

theorem execBistDepot_kept {s : State} (hk : Kept A P s0 s) {t : Nat} (hA : ∀ a ∈ ([.bist] : List Area), a ∈ A)
    (hP : ∀ p ∈ ([.now, .resp, .out, .cop] : List Part), p ∈ P) :
    KeptOut A P s0 (execBistDepot t s) := by
  unfold execBistDepot
  repeat' first
    | with_reducible assumption | exact inA hA rfl | exact subA hA rfl | exact .inl (inP hP rfl) | exact subP hP rfl
    | with_reducible first
      | intro _ | apply KeptOut.next | apply State.begin_kept | apply State.bistDepot_kept | apply Kept.ite
      | apply KeptOut.ite | dsimp only

theorem State.planesAfter_kept {s : State} (hk : Kept A P s0 s) {r : BistRun}
    (hA : ∀ a ∈ ([.pend, .cnp, .ust, .ingress] : List Area), a ∈ A)
    (hP : ∀ p ∈ ([.pw, .rcd, .cnp, .ust] : List Part), p ∈ P) :
    Kept A P s0 (State.planesAfter s r) := by
  unfold State.planesAfter
  repeat' first
    | with_reducible assumption | exact inA hA rfl | exact subA hA rfl | exact .inl (inP hP rfl) | exact subP hP rfl
    | with_reducible exact rfl | exact .inr rfl
    | with_reducible first
      | intro _ | apply State.planeResetStart_kept | apply Kept.ite | apply Kept.foldl | dsimp only
    | fail_if_no_progress with_reducible apply Kept.upd

theorem State.unitsDestroyed_kept {s : State} (hk : Kept A P s0 s) {r : BistRun}
    (hA : ∀ a ∈ ([.cvu] : List Area), a ∈ A) (hP : ∀ p ∈ ([.fresh, .cvu] : List Part), p ∈ P) :
    Kept A P s0 (State.unitsDestroyed s r) := by
  unfold State.unitsDestroyed
  repeat' first
    | with_reducible assumption | exact inA hA rfl | exact subA hA rfl | exact .inl (inP hP rfl) | exact subP hP rfl
    | with_reducible exact rfl | exact .inr rfl
    | with_reducible first
      | intro _ | apply State.free_kept | apply State.wr_kept | apply Kept.ite | apply Kept.foldl | apply Kept.foldl2
      | refine Kept.snd ?_ (by assumption) | refine Kept.fst ?_ (by assumption) | split | split | dsimp only
    | fail_if_no_progress with_reducible apply Kept.upd

theorem State.logicLeft_kept {s : State} (hk : Kept A P s0 s) {r : BistRun}
    (hA : ∀ a ∈ ([.pend, .cnp, .ust, .cvu, .ingress] : List Area), a ∈ A)
    (hP : ∀ p ∈ ([.fresh, .pw, .rcd, .cop, .cnp, .cvu, .ust] : List Part), p ∈ P) :
    Kept A P s0 (State.logicLeft s r) := by
  unfold State.logicLeft
  repeat' first
    | with_reducible assumption | exact inA hA rfl | exact subA hA rfl | exact .inl (inP hP rfl) | exact subP hP rfl
    | with_reducible first
      | intro _ | apply State.bistUnmark_kept | apply State.planesAfter_kept | apply State.unitsDestroyed_kept
      | apply Kept.ite | dsimp only

theorem State.bistRelease_kept {s : State} (hk : Kept A P s0 s)
    (hA : ∀ a ∈ ([.std, .pend, .ecc, .cpc, .cnp, .ust, .cvu, .ingress, .bist] : List Area), a ∈ A)
    (hP : ∀ p ∈ ([.fresh, .pw, .rcd, .cop, .ecc, .cnp, .cvu, .ust] : List Part), p ∈ P) :
    Kept A P s0 (State.bistRelease s) := by
  unfold State.bistRelease
  repeat' first
    | with_reducible assumption | exact inA hA rfl | exact subA hA rfl | exact .inl (inP hP rfl) | exact subP hP rfl
    | with_reducible exact rfl | exact .inr rfl
    | with_reducible first
      | intro _ | apply State.logicLeft_kept | apply State.remapsDue_kept | apply State.syncCores_kept
      | apply State.wr_kept | split | dsimp only
    | fail_if_no_progress with_reducible apply Kept.upd

theorem State.bistDisarm_kept {s : State} (hk : Kept A P s0 s) (hA : ∀ a ∈ ([.bist] : List Area), a ∈ A)
    (hP : ∀ p ∈ ([.cop] : List Part), p ∈ P) :
    Kept A P s0 (State.bistDisarm s) := by
  unfold State.bistDisarm
  repeat' first
    | with_reducible assumption | exact inA hA rfl | exact subA hA rfl | exact .inl (inP hP rfl) | exact subP hP rfl
    | with_reducible exact rfl | exact .inr rfl
    | with_reducible first
      | intro _ | apply State.wr_kept | apply Kept.ite | dsimp only
    | fail_if_no_progress with_reducible apply Kept.upd

theorem State.bistAbort_kept {s : State} (hk : Kept A P s0 s)
    (hA : ∀ a ∈ ([.std, .pend, .ecc, .cpc, .cnp, .ust, .cvu, .ingress, .bist] : List Area), a ∈ A)
    (hP : ∀ p ∈ ([.fresh, .pw, .rcd, .cop, .ecc, .cnp, .cvu, .ust] : List Part), p ∈ P) :
    Kept A P s0 (State.bistAbort s) := by
  unfold State.bistAbort
  repeat' first
    | with_reducible assumption | exact inA hA rfl | exact subA hA rfl | exact .inl (inP hP rfl) | exact subP hP rfl
    | with_reducible exact rfl | exact .inr rfl
    | with_reducible first
      | intro _ | apply State.bistDisarm_kept | apply State.bistFail_kept | apply State.bistRelease_kept
      | apply State.raise_kept | apply State.runOver_kept | apply Kept.ite | split | dsimp only
    | fail_if_no_progress with_reducible apply Kept.upd

theorem execBistAbort_kept {s : State} (hk : Kept A P s0 s) {t : Nat}
    (hA : ∀ a ∈ ([.std, .pend, .ecc, .cpc, .cnp, .ust, .cvu, .ingress, .bist] : List Area), a ∈ A)
    (hP : ∀ p ∈ ([.now, .resp, .out, .fresh, .pw, .rcd, .cop, .ecc, .cnp, .cvu, .ust] : List Part), p ∈ P) :
    KeptOut A P s0 (execBistAbort t s) := by
  unfold execBistAbort
  repeat' first
    | with_reducible assumption | exact inA hA rfl | exact subA hA rfl | exact .inl (inP hP rfl) | exact subP hP rfl
    | with_reducible first
      | intro _ | apply KeptOut.next | apply State.begin_kept | apply State.bistAbort_kept | dsimp only

theorem State.coreFailed_kept {s : State} (hk : Kept A P s0 s) {c : Nat} {startup werr : Bool}
    (hA : ∀ a ∈ ([.std, .pend, .cpc, .ingress] : List Area), a ∈ A)
    (hP : ∀ p ∈ ([.pw, .rcd, .std, .cop] : List Part), p ∈ P) :
    Kept A P s0 (State.coreFailed s c startup werr) := by
  unfold State.coreFailed
  repeat' first
    | with_reducible assumption | exact inA hA rfl | exact subA hA rfl | exact .inl (inP hP rfl) | exact subP hP rfl
    | with_reducible exact rfl | exact .inr rfl | exact laneFld_area ▸ inA hA rfl
    | with_reducible first
      | intro _ | apply State.coreLost_kept | apply State.proveCore_kept | apply State.syncCores_kept
      | apply State.wr_kept | apply Kept.ite | split | dsimp only
    | fail_if_no_progress with_reducible apply Kept.upd

theorem State.proveOther_kept {s : State} (hk : Kept A P s0 s) {i : Nat} (hP : ∀ p ∈ ([.cop] : List Part), p ∈ P) :
    Kept A P s0 (State.proveOther s i) := by
  unfold State.proveOther
  repeat' first
    | with_reducible assumption | exact .inl (inP hP rfl) | exact subP hP rfl | with_reducible exact rfl
    | exact .inr rfl
    | with_reducible first
      | intro _ | dsimp only
    | fail_if_no_progress with_reducible apply Kept.upd

theorem State.lanePassed_kept {s : State} (hk : Kept A P s0 s) {e l : Nat} {werr : Bool}
    (hA : ∀ a ∈ ([.pend, .le, .cpc, .ingress] : List Area), a ∈ A)
    (hP : ∀ p ∈ ([.pw, .rcd, .cop] : List Part), p ∈ P) :
    Kept A P s0 (State.lanePassed s e l werr) := by
  unfold State.lanePassed
  repeat' first
    | with_reducible assumption | exact inA hA rfl | exact subA hA rfl | exact .inl (inP hP rfl) | exact subP hP rfl
    | with_reducible exact rfl | exact .inr rfl
    | with_reducible first
      | intro _ | apply State.proveOther_kept | apply State.retireLane_kept | apply State.wrBit_kept | apply Kept.ite
      | dsimp only
    | fail_if_no_progress with_reducible apply Kept.upd

theorem State.blockFailed_kept {s : State} (hk : Kept A P s0 s) {i : Nat} (hA : ∀ a ∈ ([.cvu] : List Area), a ∈ A)
    (hP : ∀ p ∈ ([.cop] : List Part), p ∈ P) :
    Kept A P s0 (State.blockFailed s i) := by
  unfold State.blockFailed
  repeat' first
    | with_reducible assumption | exact inA hA rfl | exact subA hA rfl | exact .inl (inP hP rfl) | exact subP hP rfl
    | with_reducible exact rfl | exact .inr rfl
    | with_reducible first
      | intro _ | apply State.wr_kept | apply Kept.ite | dsimp only
    | fail_if_no_progress with_reducible apply Kept.upd

theorem State.rowFailed_kept {s : State} (hk : Kept A P s0 s) {werr : Bool} {x : Nat × Nat}
    (hA : ∀ a ∈ ([.pend, .cpc, .ingress] : List Area), a ∈ A)
    (hP : ∀ p ∈ ([.pw, .rcd, .cop, .ecc] : List Part), p ∈ P) :
    Kept A P s0 (State.rowFailed s werr x).2 := by
  unfold State.rowFailed
  repeat' first
    | with_reducible assumption | exact inA hA rfl | exact subA hA rfl | exact .inl (inP hP rfl) | exact subP hP rfl
    | with_reducible exact rfl | exact .inr rfl
    | with_reducible first
      | intro _ | apply State.bump_kept | apply State.poolEmpty_kept | apply State.setErr_kept
      | apply State.takeSpare_kept | apply Kept.ite | refine Kept.snd ?_ (by assumption)
      | refine Kept.fst ?_ (by assumption) | split | split | dsimp only
    | fail_if_no_progress with_reducible apply Kept.upd

theorem State.groupMarched_kept {s : State}
    (hk : Kept A P s0 s) {g : Nat} {lost : Bool} {rows : List (Nat × Nat)} {werr : Bool}
    (hA : ∀ a ∈ ([.pend, .cpc, .ingress] : List Area), a ∈ A)
    (hP : ∀ p ∈ ([.mem, .leMem, .pw, .rcd, .cop, .ecc] : List Part), p ∈ P) :
    Kept A P s0 (State.groupMarched s g lost rows werr).2 := by
  unfold State.groupMarched
  repeat' first
    | with_reducible assumption | exact inA hA rfl | exact subA hA rfl | exact .inl (inP hP rfl) | exact subP hP rfl
    | with_reducible first
      | intro _ | apply State.proveOther_kept | apply State.rowFailed_kept | apply State.setErr_kept
      | apply State.settleRows_kept | apply Kept.ite | apply Kept.foldl | apply Kept.foldl2
      | refine Kept.snd ?_ (by assumption) | refine Kept.fst ?_ (by assumption) | split | split | dsimp only

theorem State.hardRepair_kept {s : State} (hk : Kept A P s0 s) {noRes : List Nat} {one werr : Bool}
    (hA : ∀ a ∈ ([.pend, .cpc, .ingress] : List Area), a ∈ A)
    (hP : ∀ p ∈ ([.fresh, .pw, .rcd, .cop] : List Part), p ∈ P) :
    Kept A P s0 (State.hardRepair s noRes one werr) := by
  unfold State.hardRepair
  repeat' first
    | with_reducible assumption | exact inA hA rfl | exact subA hA rfl | exact .inl (inP hP rfl) | exact subP hP rfl
    | with_reducible exact rfl | exact .inr rfl
    | with_reducible first
      | intro _ | apply State.free_kept | apply State.logRepair_kept | apply State.poolEmpty_kept
      | apply State.poolFall_kept | apply State.raise_kept | apply State.syncSpares_kept | apply State.wr_kept
      | apply Kept.ite | apply Kept.foldl | apply Kept.foldl2 | refine Kept.snd ?_ (by assumption)
      | refine Kept.fst ?_ (by assumption) | split | dsimp only
    | fail_if_no_progress with_reducible apply Kept.upd

theorem State.logicJudged_kept {s : State} (hk : Kept A P s0 s) {r : BistRun} {fail0 fail1 sig : Nat} {werr : Bool}
    (hA : ∀ a ∈ ([.std, .pend, .le, .cpc, .cnp, .ust, .cvu, .ingress] : List Area), a ∈ A)
    (hP : ∀ p ∈ ([.fresh, .pw, .rcd, .std, .cop, .cnp, .cvu, .ust] : List Part), p ∈ P) :
    Kept A P s0 (State.logicJudged s r fail0 fail1 sig werr).2 := by
  unfold State.logicJudged
  repeat' first
    | with_reducible assumption | exact inA hA rfl | exact subA hA rfl | exact .inl (inP hP rfl) | exact subP hP rfl
    | with_reducible exact rfl | exact .inr rfl
    | with_reducible first
      | intro _ | apply State.bistUnmark_kept | apply State.blockFailed_kept | apply State.coreFailed_kept
      | apply State.corePassed_kept | apply State.laneFailed_kept | apply State.lanePassed_kept
      | apply State.planesAfter_kept | apply State.proveOther_kept | apply State.unitsDestroyed_kept | apply Kept.ite
      | apply Kept.foldl | split | dsimp only
    | fail_if_no_progress with_reducible apply Kept.upd

theorem State.phaseJudged_kept {s : State}
    (hk : Kept A P s0 s) {r : BistRun} {fail0 fail1 sig : Nat} {rows : List (Nat × Nat)} {noRes : List Nat} {werr : Bool} (hA : ∀ a ∈ ([.std, .pend, .le, .cpc, .cnp, .ust, .cvu, .ingress] : List Area), a ∈ A) (hP : ∀ p ∈ ([.mem, .leMem, .fresh, .pw, .rcd, .std, .cop, .ecc, .cnp, .cvu, .ust] : List Part), p ∈ P) :
    Kept A P s0 (State.phaseJudged s r fail0 fail1 sig rows noRes werr).2 := by
  unfold State.phaseJudged
  repeat' first
    | with_reducible assumption | exact inA hA rfl | exact subA hA rfl | exact .inl (inP hP rfl) | exact subP hP rfl
    | with_reducible exact rfl | exact .inr rfl
    | with_reducible first
      | intro _ | apply State.groupMarched_kept | apply State.hardRepair_kept | apply State.logicJudged_kept
      | refine Kept.snd ?_ (by assumption) | refine Kept.fst ?_ (by assumption) | split | split | dsimp only
    | fail_if_no_progress with_reducible apply Kept.upd

theorem State.bistEnds_kept {s : State} (hk : Kept A P s0 s) {r : BistRun}
    (hA : ∀ a ∈ ([.std, .pend, .cpc, .bist] : List Area), a ∈ A)
    (hP : ∀ p ∈ ([.std, .cop, .cnp] : List Part), p ∈ P) :
    Kept A P s0 (State.bistEnds s r) := by
  unfold State.bistEnds
  repeat' first
    | with_reducible assumption | exact inA hA rfl | exact subA hA rfl | exact .inl (inP hP rfl) | exact subP hP rfl
    | with_reducible exact rfl | exact .inr rfl
    | with_reducible first
      | intro _ | apply State.bistFail_kept | apply State.raise_kept | apply State.runOver_kept
      | apply State.spareReady_kept | apply State.syncCores_kept | apply State.wr_kept | apply State.wr64_kept
      | apply Kept.ite | split | dsimp only
    | fail_if_no_progress with_reducible apply Kept.upd

set_option maxHeartbeats 1000000 in
theorem State.bistDone_kept {s : State}
    (hk : Kept A P s0 s) {fail0 fail1 sig len : Nat} {rows : List (Nat × Nat)} {noRes : List Nat} {werr : Bool}
    (hA : ∀ a ∈ ([.std, .pend, .le, .ecc, .cpc, .cnp, .ust, .cvu, .ingress, .bist] : List Area), a ∈ A)
    (hP : ∀ p ∈ ([.mem, .leMem, .fresh, .pw, .rcd, .std, .cop, .ecc, .cnp, .cvu, .ust] : List Part), p ∈ P) :
    Kept A P s0 (State.bistDone s fail0 fail1 sig len rows noRes werr) := by
  unfold State.bistDone
  repeat' first
    | with_reducible assumption | exact inA hA rfl | exact subA hA rfl | exact .inl (inP hP rfl) | exact subP hP rfl
    | with_reducible exact rfl | exact .inr rfl
    | with_reducible first
      | intro _ | apply State.bistEnds_kept | apply State.enterPhases_kept | apply State.phaseJudged_kept
      | apply State.remapsDue_kept | apply State.syncCores_kept | apply Kept.ite | refine Kept.snd ?_ (by assumption)
      | refine Kept.fst ?_ (by assumption) | split | split | dsimp only
    | fail_if_no_progress with_reducible apply Kept.upd

theorem State.applyRepairs_kept {s : State} (hk : Kept A P s0 s) (hA : ∀ a ∈ ([.le, .cpc] : List Area), a ∈ A)
    (hP : ∀ p ∈ ([.cop] : List Part), p ∈ P) :
    Kept A P s0 (State.applyRepairs s) := by
  unfold State.applyRepairs
  repeat' first
    | with_reducible assumption | exact inA hA rfl | exact subA hA rfl | exact .inl (inP hP rfl) | exact subP hP rfl
    | with_reducible exact rfl | exact .inr rfl
    | with_reducible first
      | intro _ | apply State.syncSpares_kept | apply State.wr_kept | apply State.wrB_kept | apply Kept.foldl
      | dsimp only
    | fail_if_no_progress with_reducible apply Kept.upd

theorem State.softRepair_kept {s : State} (hk : Kept A P s0 s) {noRes : List Nat}
    (hA : ∀ a ∈ ([.pend, .cpc] : List Area), a ∈ A) (hP : ∀ p ∈ ([.cop] : List Part), p ∈ P) :
    Kept A P s0 (State.softRepair s noRes) := by
  unfold State.softRepair
  repeat' first
    | with_reducible assumption | exact inA hA rfl | exact subA hA rfl | exact .inl (inP hP rfl) | exact subP hP rfl
    | with_reducible exact rfl | exact .inr rfl
    | with_reducible first
      | intro _ | apply State.raise_kept | apply State.syncSpares_kept | apply State.wr_kept | apply Kept.foldl
      | split | dsimp only
    | fail_if_no_progress with_reducible apply Kept.upd

theorem State.ringsShrink_kept {s : State} (hk : Kept A P s0 s) {block : Nat}
    (hA : ∀ a ∈ ([.pend, .recd] : List Area), a ∈ A) (hP : ∀ p ∈ ([.rcd] : List Part), p ∈ P) :
    Kept A P s0 (State.ringsShrink s block) := by
  unfold State.ringsShrink
  repeat' first
    | with_reducible assumption | exact inA hA rfl | exact subA hA rfl | exact .inl (inP hP rfl) | exact subP hP rfl
    | with_reducible exact rfl | exact .inr rfl
    | with_reducible first
      | intro _ | apply State.raise_kept | apply State.ringsDrop_kept | apply State.wr_kept | apply Kept.ite
      | dsimp only
    | fail_if_no_progress with_reducible apply Kept.upd

theorem State.slotShrinks_kept {s : State} (hk : Kept A P s0 s) {block : Nat} (hP : ∀ p ∈ ([.fwu] : List Part), p ∈ P) :
    Kept A P s0 (State.slotShrinks s block) := by
  unfold State.slotShrinks
  repeat' first
    | with_reducible assumption | exact .inl (inP hP rfl) | exact subP hP rfl | with_reducible exact rfl
    | exact .inr rfl
    | with_reducible first
      | intro _ | split | dsimp only
    | fail_if_no_progress with_reducible apply Kept.upd

theorem State.nandRetire_kept {s : State} (hk : Kept A P s0 s) {block : Nat} {werr : Bool}
    (hA : ∀ a ∈ ([.pend, .cpc, .recd, .ingress] : List Area), a ∈ A)
    (hP : ∀ p ∈ ([.pw, .rcd, .cop, .fwu] : List Part), p ∈ P) :
    Kept A P s0 (State.nandRetire s block werr) := by
  unfold State.nandRetire
  repeat' first
    | with_reducible assumption | exact inA hA rfl | exact subA hA rfl | exact .inl (inP hP rfl) | exact subP hP rfl
    | with_reducible exact rfl | exact .inr rfl
    | with_reducible first
      | intro _ | apply State.logRepair_kept | apply State.poolEmpty_kept | apply State.poolFall_kept
      | apply State.raise_kept | apply State.ringsShrink_kept | apply State.slotShrinks_kept | apply State.wr_kept
      | apply Kept.ite | dsimp only
    | fail_if_no_progress with_reducible apply Kept.upd

theorem execNandBlockRetire_kept {s : State} (hk : Kept A P s0 s) {block : Nat} {werr : Bool} {t : Nat}
    (hA : ∀ a ∈ ([.pend, .cpc, .recd, .ingress] : List Area), a ∈ A)
    (hP : ∀ p ∈ ([.now, .resp, .out, .pw, .rcd, .cop, .fwu] : List Part), p ∈ P) :
    KeptOut A P s0 (execNandBlockRetire block werr t s) := by
  unfold execNandBlockRetire
  repeat' first
    | with_reducible assumption | exact inA hA rfl | exact subA hA rfl | exact .inl (inP hP rfl) | exact subP hP rfl
    | with_reducible first
      | intro _ | apply KeptOut.next | apply State.begin_kept | apply State.nandRetire_kept | apply Kept.ite
      | apply KeptOut.ite | dsimp only

/-! ### Machine/FirmwareBase.lean -/

theorem State.showSlot_kept {s : State} (hk : Kept A P s0 s) {k : Nat} (hA : ∀ a ∈ ([.fwu] : List Area), a ∈ A) :
    Kept A P s0 (State.showSlot s k) := by
  unfold State.showSlot
  repeat' first
    | with_reducible assumption | exact inA hA rfl | exact subA hA rfl
    | with_reducible first
      | intro _ | apply State.wr_kept | apply State.wr64_kept | apply Kept.ite | dsimp only

theorem State.setSlot_kept {s : State} (hk : Kept A P s0 s) {k : Nat} {x : FwSlot}
    (hA : ∀ a ∈ ([.fwu] : List Area), a ∈ A) (hP : ∀ p ∈ ([.fwu] : List Part), p ∈ P) :
    Kept A P s0 (State.setSlot s k x) := by
  unfold State.setSlot
  repeat' first
    | with_reducible assumption | exact inA hA rfl | exact subA hA rfl | exact .inl (inP hP rfl) | exact subP hP rfl
    | with_reducible exact rfl | exact .inr rfl
    | with_reducible first
      | intro _ | apply State.showSlot_kept | dsimp only
    | fail_if_no_progress with_reducible apply Kept.upd

theorem State.slotTo_kept {s : State} (hk : Kept A P s0 s) {k st : Nat} (hA : ∀ a ∈ ([.fwu] : List Area), a ∈ A)
    (hP : ∀ p ∈ ([.fwu] : List Part), p ∈ P) :
    Kept A P s0 (State.slotTo s k st) := by
  unfold State.slotTo
  repeat' first
    | with_reducible assumption | exact inA hA rfl | exact subA hA rfl | exact .inl (inP hP rfl) | exact subP hP rfl
    | with_reducible exact rfl | exact .inr rfl
    | with_reducible first
      | intro _ | apply State.setSlot_kept | dsimp only
    | fail_if_no_progress with_reducible apply Kept.upd

theorem State.slotsAtStart_kept {s : State} (hk : Kept A P s0 s) (hA : ∀ a ∈ ([.fwu] : List Area), a ∈ A)
    (hP : ∀ p ∈ ([.fwu] : List Part), p ∈ P) :
    Kept A P s0 (State.slotsAtStart s) := by
  unfold State.slotsAtStart
  repeat' first
    | with_reducible assumption | exact inA hA rfl | exact subA hA rfl | exact .inl (inP hP rfl) | exact subP hP rfl
    | with_reducible first
      | intro _ | apply State.showSlot_kept | apply State.slotTo_kept | apply Kept.ite | apply Kept.foldl | dsimp only

theorem State.loadRegion_kept {s : State} (hk : Kept A P s0 s) {k : Nat} {p : List Byte}
    (hA : ∀ a ∈ ([.pend, .ecc, .cvu, .ingress] : List Area), a ∈ A)
    (hP : ∀ p ∈ ([.mem, .pw, .rcd, .ecc, .cvu] : List Part), p ∈ P) :
    Kept A P s0 (State.loadRegion s k p) := by
  unfold State.loadRegion
  repeat' first
    | with_reducible assumption | exact inA hA rfl | exact subA hA rfl | exact .inl (inP hP rfl) | exact subP hP rfl
    | with_reducible first
      | intro _ | apply State.putBytes_kept | apply State.rowsWritten_kept | apply State.unitWrite_kept | dsimp only

/-! ### Machine/LowPower.lean -/

theorem State.standRests_kept {s : State} (hk : Kept A P s0 s) {k code exit : Nat}
    (hA : ∀ a ∈ ([.pwr, .unit, .pend, .lko, .ecc, .cvu, .ingress] : List Area), a ∈ A)
    (hP : ∀ p ∈ ([.mem, .fresh, .pw, .rcd, .std, .ecc, .cvu] : List Part), p ∈ P) :
    Kept A P s0 (State.standRests s k code exit) := by
  unfold State.standRests
  repeat' first
    | with_reducible assumption | exact inA hA rfl | exact subA hA rfl | exact .inl (inP hP rfl) | exact subP hP rfl
    | with_reducible exact rfl | exact .inr rfl
    | with_reducible first
      | intro _ | apply State.bump_kept | apply State.checkpoint_kept | apply State.lookoutSuspend_kept
      | apply State.setStand_kept | apply State.wr_kept | apply Kept.ite | dsimp only
    | fail_if_no_progress with_reducible apply Kept.upd

theorem State.standWfi_kept {s : State} (hk : Kept A P s0 s) {k : Nat}
    (hA : ∀ a ∈ ([.pwr, .unit, .std, .pend, .lko, .ecc, .cvu, .ingress] : List Area), a ∈ A)
    (hP : ∀ p ∈ ([.mem, .fresh, .pw, .rcd, .std, .ecc, .cvu] : List Part), p ∈ P) :
    Kept A P s0 (State.standWfi s k) := by
  unfold State.standWfi
  repeat' first
    | with_reducible assumption | exact inA hA rfl | exact subA hA rfl | exact .inl (inP hP rfl) | exact subP hP rfl
    | with_reducible exact rfl | exact .inr rfl
    | with_reducible first
      | intro _ | apply State.request_kept | apply State.setStand_kept | apply State.standRests_kept | apply Kept.ite
      | dsimp only
    | fail_if_no_progress with_reducible apply Kept.upd

theorem execStandWfi_kept {s : State} (hk : Kept A P s0 s) {k : Fin 4} {t : Nat}
    (hA : ∀ a ∈ ([.pwr, .unit, .std, .pend, .lko, .ecc, .cvu, .ingress] : List Area), a ∈ A)
    (hP : ∀ p ∈ ([.now, .mem, .resp, .out, .fresh, .pw, .rcd, .std, .ecc, .cvu] : List Part), p ∈ P) :
    KeptOut A P s0 (execStandWfi k t s) := by
  unfold execStandWfi
  repeat' first
    | with_reducible assumption | exact inA hA rfl | exact subA hA rfl | exact .inl (inP hP rfl) | exact subP hP rfl
    | with_reducible first
      | intro _ | apply KeptOut.next | apply State.begin_kept | apply State.standWfi_kept | dsimp only

theorem State.standWakes_kept {s : State} (hk : Kept A P s0 s) {k : Nat}
    (hA : ∀ a ∈ ([.unit, .std, .lko] : List Area), a ∈ A) (hP : ∀ p ∈ ([.std, .lko] : List Part), p ∈ P) :
    Kept A P s0 (State.standWakes s k) := by
  unfold State.standWakes
  repeat' first
    | with_reducible assumption | exact inA hA rfl | exact subA hA rfl | exact .inl (inP hP rfl) | exact subP hP rfl
    | with_reducible exact rfl | exact .inr rfl
    | with_reducible first
      | intro _ | apply State.lookoutRestart_kept | apply State.setStand_kept | apply State.wr_kept | apply Kept.ite
      | split | dsimp only
    | fail_if_no_progress with_reducible apply Kept.upd

theorem State.unitWake_kept {s : State} (hk : Kept A P s0 s) {k : Nat}
    (hA : ∀ a ∈ ([.unit, .std, .lko] : List Area), a ∈ A) (hP : ∀ p ∈ ([.std, .lko] : List Part), p ∈ P) :
    Kept A P s0 (State.unitWake s k) := by
  unfold State.unitWake
  repeat' first
    | with_reducible assumption | exact inA hA rfl | exact subA hA rfl | exact .inl (inP hP rfl) | exact subP hP rfl
    | with_reducible exact rfl | exact .inr rfl
    | with_reducible first
      | intro _ | apply State.request_kept | apply State.standWakes_kept | apply Kept.ite | split | dsimp only
    | fail_if_no_progress with_reducible apply Kept.upd

theorem execUnitWake_kept {s : State} (hk : Kept A P s0 s) {k : Fin 4} {t : Nat}
    (hA : ∀ a ∈ ([.unit, .std, .lko] : List Area), a ∈ A)
    (hP : ∀ p ∈ ([.now, .resp, .out, .std, .lko] : List Part), p ∈ P) :
    KeptOut A P s0 (execUnitWake k t s) := by
  unfold execUnitWake
  repeat' first
    | with_reducible assumption | exact inA hA rfl | exact subA hA rfl | exact .inl (inP hP rfl) | exact subP hP rfl
    | with_reducible first
      | intro _ | apply KeptOut.next | apply State.begin_kept | apply State.unitWake_kept | dsimp only

theorem State.pwrOutcome_kept {s : State} (hk : Kept A P s0 s) {err : Nat}
    (hA : ∀ a ∈ ([.pwr, .pend] : List Area), a ∈ A) :
    Kept A P s0 (State.pwrOutcome s err) := by
  unfold State.pwrOutcome
  repeat' first
    | with_reducible assumption | exact inA hA rfl | exact subA hA rfl
    | with_reducible first
      | intro _ | apply State.raise_kept | apply State.wr_kept | dsimp only

theorem State.dropPrepare_kept {s : State} (hk : Kept A P s0 s) (hA : ∀ a ∈ ([.pend, .fwu] : List Area), a ∈ A)
    (hP : ∀ p ∈ ([.fresh, .fwu] : List Part), p ∈ P) :
    Kept A P s0 (State.dropPrepare s) := by
  unfold State.dropPrepare
  repeat' first
    | with_reducible assumption | exact inA hA rfl | exact subA hA rfl | exact .inl (inP hP rfl) | exact subP hP rfl
    | with_reducible exact rfl | exact .inr rfl
    | with_reducible first
      | intro _ | apply State.free_kept | apply State.raise_kept | apply State.wr_kept | apply Kept.ite
      | refine Kept.snd ?_ (by assumption) | refine Kept.fst ?_ (by assumption) | split | split | dsimp only
    | fail_if_no_progress with_reducible apply Kept.upd

theorem State.prepareEnds_kept {s : State} (hk : Kept A P s0 s) (hA : ∀ a ∈ ([.fwu] : List Area), a ∈ A)
    (hP : ∀ p ∈ ([.fwu] : List Part), p ∈ P) :
    Kept A P s0 (State.prepareEnds s) := by
  unfold State.prepareEnds
  repeat' first
    | with_reducible assumption | exact inA hA rfl | exact subA hA rfl | exact .inl (inP hP rfl) | exact subP hP rfl
    | with_reducible first
      | intro _ | apply State.slotTo_kept | apply Kept.ite | apply Kept.foldl | dsimp only

theorem State.lowEnter_kept {s : State} (hk : Kept A P s0 s) {hib : Bool}
    (hA : ∀ a ∈ ([.pwr, .pend, .fwu] : List Area), a ∈ A) (hP : ∀ p ∈ ([.fresh, .fwu, .pmg] : List Part), p ∈ P) :
    Kept A P s0 (State.lowEnter s hib) := by
  unfold State.lowEnter
  repeat' first
    | with_reducible assumption | exact inA hA rfl | exact subA hA rfl | exact .inl (inP hP rfl) | exact subP hP rfl
    | with_reducible exact rfl | exact .inr rfl
    | with_reducible first
      | intro _ | apply State.dropPrepare_kept | apply State.prepareEnds_kept | apply State.pwrOutcome_kept
      | apply State.wr_kept | apply Kept.ite | dsimp only
    | fail_if_no_progress with_reducible apply Kept.upd

theorem State.rest_kept {s : State} (hk : Kept A P s0 s) (hA : ∀ a ∈ ([.pwr, .pend, .fwu] : List Area), a ∈ A)
    (hP : ∀ p ∈ ([.fresh, .fwu, .pmg] : List Part), p ∈ P) :
    Kept A P s0 (State.rest s) := by
  unfold State.rest
  repeat' first
    | with_reducible assumption | exact inA hA rfl | exact subA hA rfl | exact .inl (inP hP rfl) | exact subP hP rfl
    | with_reducible first
      | intro _ | apply State.lowEnter_kept | apply State.pwrOutcome_kept | apply Kept.ite | dsimp only

theorem State.lowEnd_kept {s : State} (hk : Kept A P s0 s) (hA : ∀ a ∈ ([.pwr, .pend] : List Area), a ∈ A)
    (hP : ∀ p ∈ ([.pmg] : List Part), p ∈ P) :
    Kept A P s0 (State.lowEnd s) := by
  unfold State.lowEnd
  repeat' first
    | with_reducible assumption | exact inA hA rfl | exact subA hA rfl | exact .inl (inP hP rfl) | exact subP hP rfl
    | with_reducible exact rfl | exact .inr rfl
    | with_reducible first
      | intro _ | apply State.pwrOutcome_kept | apply State.wr_kept | dsimp only
    | fail_if_no_progress with_reducible apply Kept.upd

theorem State.lowStop_kept {s : State} (hk : Kept A P s0 s) {l : LowPower}
    (hA : ∀ a ∈ ([.pwr, .pend] : List Area), a ∈ A) (hP : ∀ p ∈ ([.pmg] : List Part), p ∈ P) :
    Kept A P s0 (State.lowStop s l) := by
  unfold State.lowStop
  repeat' first
    | with_reducible assumption | exact inA hA rfl | exact subA hA rfl | exact .inl (inP hP rfl) | exact subP hP rfl
    | with_reducible exact rfl | exact .inr rfl
    | with_reducible first
      | intro _ | apply State.lowEnd_kept | apply Kept.ite | dsimp only
    | fail_if_no_progress with_reducible apply Kept.upd

theorem State.wakeSource_kept {s : State} (hk : Kept A P s0 s) {i : Nat} (hA : ∀ a ∈ ([.pwr] : List Area), a ∈ A) :
    Kept A P s0 (State.wakeSource s i) := by
  unfold State.wakeSource
  repeat' first
    | with_reducible assumption | exact inA hA rfl | exact subA hA rfl
    | with_reducible first
      | intro _ | apply State.note_kept | apply State.wr_kept | dsimp only

theorem State.lowCancel_kept {s : State} (hk : Kept A P s0 s) (hA : ∀ a ∈ ([.pwr, .pend] : List Area), a ∈ A)
    (hP : ∀ p ∈ ([.pmg] : List Part), p ∈ P) :
    Kept A P s0 (State.lowCancel s) := by
  unfold State.lowCancel
  repeat' first
    | with_reducible assumption | exact inA hA rfl | exact subA hA rfl | exact .inl (inP hP rfl) | exact subP hP rfl
    | with_reducible exact rfl | exact .inr rfl
    | with_reducible first
      | intro _ | apply State.lowStop_kept | apply State.wr_kept | apply Kept.ite | split | dsimp only
    | fail_if_no_progress with_reducible apply Kept.upd

theorem State.pwrCommand_kept {s : State} (hk : Kept A P s0 s) {k : Nat} {f : State → State}
    (hf : ∀ u, Kept A P s0 u → Kept A P s0 (f u))
    (hP : ∀ p ∈ ([.resp] : List Part), p ∈ P) :
    Kept A P s0 (State.pwrCommand s k f) := by
  unfold State.pwrCommand
  repeat' first
    | with_reducible assumption
    | exact .inl (inP hP rfl) | exact subP hP rfl | with_reducible exact rfl | exact .inr rfl
    | with_reducible intro _
    | with_reducible apply State.answer_kept
    | with_reducible apply hf
    | with_reducible apply Kept.ite

theorem execPwrRest_kept {s : State} (hk : Kept A P s0 s) {k : Fin 4} {t : Nat}
    (hA : ∀ a ∈ ([.pwr, .pend, .fwu] : List Area), a ∈ A)
    (hP : ∀ p ∈ ([.now, .resp, .out, .fresh, .fwu, .pmg] : List Part), p ∈ P) :
    KeptOut A P s0 (execPwrRest k t s) := by
  unfold execPwrRest
  repeat' first
    | with_reducible assumption | exact inA hA rfl | exact subA hA rfl | exact .inl (inP hP rfl) | exact subP hP rfl
    | with_reducible first
      | intro _ | apply KeptOut.next | apply State.begin_kept | apply State.pwrCommand_kept | apply State.rest_kept
      | apply Kept.ite | apply KeptOut.ite | dsimp only

theorem execPwrSlumber_kept {s : State} (hk : Kept A P s0 s) {k : Fin 4} {t : Nat}
    (hA : ∀ a ∈ ([.pwr, .pend, .fwu] : List Area), a ∈ A)
    (hP : ∀ p ∈ ([.now, .resp, .out, .fresh, .fwu, .pmg] : List Part), p ∈ P) :
    KeptOut A P s0 (execPwrSlumber k t s) := by
  unfold execPwrSlumber
  repeat' first
    | with_reducible assumption | exact inA hA rfl | exact subA hA rfl | exact .inl (inP hP rfl) | exact subP hP rfl
    | with_reducible first
      | intro _ | apply KeptOut.next | apply State.begin_kept | apply State.lowEnter_kept
      | apply State.pwrCommand_kept | apply Kept.ite | apply KeptOut.ite | dsimp only

theorem execPwrHibernate_kept {s : State} (hk : Kept A P s0 s) {k : Fin 4} {t : Nat}
    (hA : ∀ a ∈ ([.pwr, .pend, .fwu] : List Area), a ∈ A)
    (hP : ∀ p ∈ ([.now, .resp, .out, .fresh, .fwu, .pmg] : List Part), p ∈ P) :
    KeptOut A P s0 (execPwrHibernate k t s) := by
  unfold execPwrHibernate
  repeat' first
    | with_reducible assumption | exact inA hA rfl | exact subA hA rfl | exact .inl (inP hP rfl) | exact subP hP rfl
    | with_reducible first
      | intro _ | apply KeptOut.next | apply State.begin_kept | apply State.lowEnter_kept
      | apply State.pwrCommand_kept | apply Kept.ite | apply KeptOut.ite | dsimp only

theorem execPwrCancel_kept {s : State} (hk : Kept A P s0 s) {k : Fin 4} {t : Nat}
    (hA : ∀ a ∈ ([.pwr, .pend] : List Area), a ∈ A) (hP : ∀ p ∈ ([.now, .resp, .out, .pmg] : List Part), p ∈ P) :
    KeptOut A P s0 (execPwrCancel k t s) := by
  unfold execPwrCancel
  repeat' first
    | with_reducible assumption | exact inA hA rfl | exact subA hA rfl | exact .inl (inP hP rfl) | exact subP hP rfl
    | with_reducible first
      | intro _ | apply KeptOut.next | apply State.begin_kept | apply State.lowCancel_kept
      | apply State.pwrCommand_kept | apply Kept.ite | apply KeptOut.ite | dsimp only

theorem State.standParks_kept {s : State} (hk : Kept A P s0 s) {k : Nat}
    (hA : ∀ a ∈ ([.pend, .ecc, .cvu, .ingress] : List Area), a ∈ A)
    (hP : ∀ p ∈ ([.mem, .fresh, .pw, .rcd, .ecc, .cvu] : List Part), p ∈ P) :
    Kept A P s0 (State.standParks s k) := by
  unfold State.standParks
  repeat' first
    | with_reducible assumption | exact inA hA rfl | exact subA hA rfl | exact .inl (inP hP rfl) | exact subP hP rfl
    | with_reducible first
      | intro _ | apply State.checkpoint_kept | apply Kept.ite | dsimp only

theorem State.portParks_kept {s : State} (hk : Kept A P s0 s) {p : Nat}
    (hA : ∀ a ∈ ([.pend, .ust] : List Area), a ∈ A) (hP : ∀ p ∈ ([.cnp, .ust] : List Part), p ∈ P) :
    Kept A P s0 (State.portParks s p) := by
  unfold State.portParks
  repeat' first
    | with_reducible assumption | exact inA hA rfl | exact subA hA rfl | exact .inl (inP hP rfl) | exact subP hP rfl
    | with_reducible first
      | intro _ | apply State.portStop_kept | apply State.wr_kept | dsimp only

theorem State.slumberReach_kept {s : State} (hk : Kept A P s0 s) {l : LowPower}
    (hA : ∀ a ∈ ([.pwr, .unit, .pend, .lko, .ecc, .cnp, .hbuf, .rwy, .ust, .cvu, .ingress] : List Area), a ∈ A)
    (hP : ∀ p ∈ ([.mem, .resp, .out, .fresh, .pw, .rcd, .ecc, .cnp, .fab, .cvu, .rwy, .ust, .pmg] : List Part), p ∈ P) :
    Kept A P s0 (State.slumberReach s l) := by
  unfold State.slumberReach
  repeat' first
    | with_reducible assumption | exact inA hA rfl | exact subA hA rfl | exact .inl (inP hP rfl) | exact subP hP rfl
    | with_reducible exact rfl | exact .inr rfl | exact fun a h => mem_of_inArea hA h (hm := rfl)
    | exact fun a _ => hA _ (mem_allAreas _)
    | with_reducible first
      | intro _ | apply State.bump_kept | apply State.ctxsLost_kept | apply State.cvuStop_kept
      | apply State.dramSleep_kept | apply State.lookoutSuspend_kept | apply State.portParks_kept
      | apply State.pwrOutcome_kept | apply State.restoreShown_kept | apply State.rootwayStop_kept
      | apply State.standParks_kept | apply State.wr_kept | apply Kept.foldl | dsimp only
    | fail_if_no_progress with_reducible apply Kept.upd

theorem State.depotRun_kept {s : State} (hk : Kept A P s0 s)
    (hA : ∀ a ∈ ([.std, .pend, .cpc, .bist] : List Area), a ∈ A) (hP : ∀ p ∈ ([.cop, .cnp] : List Part), p ∈ P) :
    Kept A P s0 (State.depotRun s) := by
  unfold State.depotRun
  repeat' first
    | with_reducible assumption | exact inA hA rfl | exact subA hA rfl | exact .inl (inP hP rfl) | exact subP hP rfl
    | with_reducible exact rfl | exact .inr rfl
    | with_reducible first
      | intro _ | apply State.bistBegin_kept | apply State.wr_kept | split | dsimp only
    | fail_if_no_progress with_reducible apply Kept.upd

theorem State.lowTests_kept {s : State} (hk : Kept A P s0 s) {l : LowPower}
    (hA : ∀ a ∈ ([.pwr, .unit, .std, .pend, .lko, .ecc, .cpc, .cnp, .hbuf, .rwy, .ust, .cvu, .ingress, .bist] : List Area), a ∈ A) (hP : ∀ p ∈ ([.mem, .resp, .out, .fresh, .pw, .rcd, .cop, .ecc, .cnp, .fab, .cvu, .rwy, .ust, .pmg] : List Part), p ∈ P) :
    Kept A P s0 (State.lowTests s l) := by
  unfold State.lowTests
  repeat' first
    | with_reducible assumption | exact inA hA rfl | exact subA hA rfl | exact .inl (inP hP rfl) | exact subP hP rfl
    | with_reducible first
      | intro _ | apply State.depotRun_kept | apply State.slumberReach_kept | apply Kept.ite | dsimp only

theorem State.lowMark_kept {s : State} (hk : Kept A P s0 s) {noRes : List Nat} (hA : ∀ a ∈ allAreas, a ∈ A)
    (hP : ∀ p ∈ allParts, p ∈ P) :
    Kept A P s0 (State.lowMark s noRes) := by
  unfold State.lowMark
  repeat' first
    | with_reducible assumption | exact inA hA rfl | exact subA hA rfl | exact .inl (inP hP rfl) | exact subP hP rfl
    | with_reducible exact rfl | exact .inr rfl
    | with_reducible first
      | intro _ | apply State.goSilent_kept | apply State.hibernated_kept | apply State.lowEnd_kept
      | apply State.lowTests_kept | apply State.pwrOutcome_kept | apply State.sealNow_kept
      | apply State.sealPoint_kept | apply State.softRepair_kept | apply State.startFlush_kept | apply Kept.ite
      | split | dsimp only
    | fail_if_no_progress with_reducible apply Kept.upd

theorem State.clearKey_kept {s : State} (hk : Kept A P s0 s) (hA : ∀ a ∈ allAreas, a ∈ A) :
    Kept A P s0 (State.clearKey s) :=
  ⟨⟨fun g hg => absurd (hA _ (mem_allAreas _)) hg, fun q hq => Same.trans (hk.1.2 q hq) (by cases q <;> rfl)⟩, hk.2,
    fun c => ⟨tblWf_filter _ (hk.3 c).1, (hk.3 c).2, (hk.3 c).3, (hk.3 c).4, (hk.3 c).5⟩⟩

theorem State.contactOpen_kept {s : State} (hk : Kept A P s0 s) {f : Fld} (hf : f.area ∈ A)
    (hA : ∀ a ∈ ([.pend, .ingress] : List Area), a ∈ A) (hP : ∀ p ∈ ([.pw, .rcd, .key] : List Part), p ∈ P) :
    Kept A P s0 (State.contactOpen s f) := by
  unfold State.contactOpen
  repeat' first
    | with_reducible assumption | exact inA hA rfl | exact subA hA rfl | exact .inl (inP hP rfl) | exact subP hP rfl
    | with_reducible exact rfl | exact .inr rfl
    | with_reducible first
      | intro _ | apply State.raise_kept | apply State.record_kept | apply State.wr_kept | dsimp only
    | fail_if_no_progress with_reducible apply Kept.upd

theorem State.showContacts_kept {s : State} (hk : Kept A P s0 s)
    (hA : ∀ a ∈ ([.pend, .ingress, .key] : List Area), a ∈ A) (hP : ∀ p ∈ ([.pw, .rcd, .key] : List Part), p ∈ P) :
    Kept A P s0 (State.showContacts s) := by
  unfold State.showContacts
  repeat' first
    | with_reducible assumption | exact inA hA rfl | exact subA hA rfl | exact .inl (inP hP rfl) | exact subP hP rfl
    | with_reducible first
      | intro _ | apply State.contactOpen_kept | apply State.wrB_kept | apply Kept.ite | dsimp only

theorem State.hibernateExit_kept {s : State} (hk : Kept A P s0 s) (hA : ∀ a ∈ allAreas, a ∈ A)
    (hP : ∀ p ∈ ([.out, .pw, .rcd, .key, .cnp, .fab, .cvu, .rwy] : List Part), p ∈ P) :
    Kept A P s0 (State.hibernateExit s) := by
  unfold State.hibernateExit
  repeat' first
    | with_reducible assumption | exact inA hA rfl | exact subA hA rfl | exact .inl (inP hP rfl) | exact subP hP rfl
    | with_reducible exact rfl | exact .inr rfl
    | with_reducible first
      | intro _ | apply State.clearKey_kept | apply State.measureDue_kept | apply State.showContacts_kept
      | apply State.wr_kept | apply Kept.foldl | dsimp only
    | fail_if_no_progress with_reducible apply Kept.upd

theorem State.wake_kept {s : State} (hk : Kept A P s0 s) {i : Nat} (hA : ∀ a ∈ allAreas, a ∈ A)
    (hP : ∀ p ∈ ([.out, .pw, .rcd, .key, .cnp, .fab, .cvu, .rwy, .pmg] : List Part), p ∈ P) :
    Kept A P s0 (State.wake s i) := by
  unfold State.wake
  repeat' first
    | with_reducible assumption | exact inA hA rfl | exact subA hA rfl | exact .inl (inP hP rfl) | exact subP hP rfl
    | with_reducible exact rfl | exact .inr rfl
    | with_reducible first
      | intro _ | apply State.hibernateExit_kept | apply State.lowStop_kept | apply State.wakeSource_kept
      | apply State.wr_kept | apply Kept.ite | split | dsimp only
    | fail_if_no_progress with_reducible apply Kept.upd

theorem execPwrWake_kept {s : State} (hk : Kept A P s0 s) {src : Fin 6} {t : Nat} (hA : ∀ a ∈ allAreas, a ∈ A)
    (hP : ∀ p ∈ ([.now, .resp, .out, .pw, .rcd, .key, .cnp, .fab, .cvu, .rwy, .pmg] : List Part), p ∈ P) :
    KeptOut A P s0 (execPwrWake src t s) := by
  unfold execPwrWake
  repeat' first
    | with_reducible assumption | exact inA hA rfl | exact subA hA rfl | exact .inl (inP hP rfl) | exact subP hP rfl
    | with_reducible first
      | intro _ | apply KeptOut.next | apply State.begin_kept | apply State.wake_kept | dsimp only

theorem State.slumberExit_kept {s : State} (hk : Kept A P s0 s)
    (hA : ∀ a ∈ ([.pwr, .unit, .pend, .lko, .ecc, .cpc, .cnp, .rwy, .ust, .cvu, .ingress] : List Area), a ∈ A)
    (hP : ∀ p ∈ ([.mem, .leMem, .out, .fresh, .pw, .rcd, .lko, .cop, .ecc, .cnp, .fab, .cvu, .rwy, .ust, .pmg] : List Part), p ∈ P) :
    Kept A P s0 (State.slumberExit s) := by
  unfold State.slumberExit
  repeat' first
    | with_reducible assumption | exact inA hA rfl | exact subA hA rfl | exact .inl (inP hP rfl) | exact subP hP rfl
    | with_reducible exact rfl | exact .inr rfl
    | with_reducible first
      | intro _ | apply State.dramWake_kept | apply State.lookoutRestart_kept | apply State.portResetDone_kept
      | apply State.raise_kept | apply State.rootwayResetDone_kept | apply State.wr_kept | apply Kept.ite
      | apply Kept.foldl | dsimp only
    | fail_if_no_progress with_reducible apply Kept.upd

theorem execSlumberExitDone_kept {s : State} (hk : Kept A P s0 s) {t : Nat}
    (hA : ∀ a ∈ ([.pwr, .unit, .pend, .lko, .ecc, .cpc, .cnp, .rwy, .ust, .cvu, .ingress] : List Area), a ∈ A)
    (hP : ∀ p ∈ ([.now, .mem, .leMem, .resp, .out, .fresh, .pw, .rcd, .lko, .cop, .ecc, .cnp, .fab, .cvu, .rwy, .ust, .pmg] : List Part), p ∈ P) :
    KeptOut A P s0 (execSlumberExitDone t s) := by
  unfold execSlumberExitDone
  repeat' first
    | with_reducible assumption | exact inA hA rfl | exact subA hA rfl | exact .inl (inP hP rfl) | exact subP hP rfl
    | with_reducible first
      | intro _ | apply KeptOut.next | apply State.begin_kept | apply State.slumberExit_kept | dsimp only

theorem execTimeRealign_kept {s : State} (hk : Kept A P s0 s) {t : Nat}
    (hP : ∀ p ∈ ([.now, .resp, .out, .pmg] : List Part), p ∈ P) :
    KeptOut A P s0 (execTimeRealign t s) := by
  unfold execTimeRealign
  repeat' first
    | with_reducible assumption | exact .inl (inP hP rfl) | exact subP hP rfl | with_reducible exact rfl
    | exact .inr rfl
    | with_reducible first
      | intro _ | apply KeptOut.next | apply State.begin_kept | apply Kept.ite | apply KeptOut.ite | dsimp only
    | fail_if_no_progress with_reducible apply Kept.upd

end Sys2Proof.Machine
end

