-- ==== Sys2Proof/Laws/KeptStart.lean ====
section
/-!
SUPPORT. What each operation keeps (`Kept`), one lemma an operation: resets, start, key, memory accesses.
-/

namespace Sys2Proof.Machine

set_option linter.all false
-- one proof at a time: the package is compiled as one file, in bounded memory
set_option Elab.async false

variable {A : List Area} {P : List Part} {s0 : State}

/-! ### Machine/Reset.lean -/

theorem State.countSpares_kept {s : State} (hk : Kept A P s0 s) (hA : ∀ a ∈ ([.sys] : List Area), a ∈ A)
    (hP : ∀ p ∈ ([.cop] : List Part), p ∈ P) :
    Kept A P s0 (State.countSpares s) := by
  unfold State.countSpares
  repeat' first
    | with_reducible assumption | exact inA hA rfl | exact subA hA rfl | exact .inl (inP hP rfl) | exact subP hP rfl
    | with_reducible exact rfl | exact .inr rfl
    | with_reducible first
      | intro _ | apply State.wr_kept | dsimp only
    | fail_if_no_progress with_reducible apply Kept.upd

theorem State.startCores_kept {s : State} (hk : Kept A P s0 s)
    (hA : ∀ a ∈ ([.sys, .std, .pend, .le, .cpc] : List Area), a ∈ A)
    (hP : ∀ p ∈ ([.pw, .std, .cop] : List Part), p ∈ P) :
    Kept A P s0 (State.startCores s) := by
  unfold State.startCores
  repeat' first
    | with_reducible assumption | exact inA hA rfl | exact subA hA rfl | exact .inl (inP hP rfl) | exact subP hP rfl
    | with_reducible exact rfl | exact .inr rfl
    | with_reducible first
      | intro _ | apply State.applyRepairs_kept | apply State.countSpares_kept | apply State.form_kept
      | apply State.setStand_kept | apply State.syncCores_kept | apply State.wr_kept | apply Kept.ite
      | apply Kept.foldl | dsimp only
    | fail_if_no_progress with_reducible apply Kept.upd

theorem State.beginLock_kept {s : State} (hk : Kept A P s0 s) {keyPhase : Bool} {vstore : Nat}
    (hA : ∀ a ∈ ([.pwr, .feed, .pend, .cnp, .cvu, .ingress, .key] : List Area), a ∈ A)
    (hP : ∀ p ∈ ([.out, .pw, .rcd, .key, .cnp, .fab, .cvu, .rwy] : List Part), p ∈ P) :
    Kept A P s0 (State.beginLock s keyPhase vstore) := by
  unfold State.beginLock
  repeat' first
    | with_reducible assumption | exact inA hA rfl | exact subA hA rfl | exact .inl (inP hP rfl) | exact subP hP rfl
    | with_reducible exact rfl | exact .inr rfl
    | with_reducible first
      | intro _ | apply State.measureDue_kept | apply State.showContacts_kept | apply State.wr_kept | dsimp only
    | fail_if_no_progress with_reducible apply Kept.upd

theorem State.powerOn_kept {s : State} (hk : Kept A P s0 s) {vstore : Nat}
    (hA : ∀ a ∈ ([.sys, .pwr, .feed, .pend, .cnp, .cvu, .ingress, .key] : List Area), a ∈ A)
    (hP : ∀ p ∈ ([.out, .pw, .rcd, .key, .cnp, .fab, .cvu, .rwy] : List Part), p ∈ P) :
    Kept A P s0 (State.powerOn s vstore) := by
  unfold State.powerOn
  repeat' first
    | with_reducible assumption | exact inA hA rfl | exact subA hA rfl | exact .inl (inP hP rfl) | exact subP hP rfl
    | with_reducible first
      | intro _ | apply State.beginLock_kept | apply State.wr_kept | apply Kept.ite | dsimp only

theorem execPowerOn_kept {s : State} (hk : Kept A P s0 s) {vstore t : Nat}
    (hA : ∀ a ∈ ([.sys, .pwr, .feed, .pend, .cnp, .cvu, .ingress, .key] : List Area), a ∈ A)
    (hP : ∀ p ∈ ([.now, .resp, .out, .pw, .rcd, .key, .cnp, .fab, .cvu, .rwy] : List Part), p ∈ P) :
    KeptOut A P s0 (execPowerOn vstore t s) := by
  unfold execPowerOn
  repeat' first
    | with_reducible assumption | exact inA hA rfl | exact subA hA rfl | exact .inl (inP hP rfl) | exact subP hP rfl
    | with_reducible first
      | intro _ | apply KeptOut.next | apply State.begin_kept | apply State.powerOn_kept | dsimp only

theorem State.pllLock_kept {s : State} (hk : Kept A P s0 s)
    (hA : ∀ a ∈ ([.sys, .std, .pend, .le, .cpc, .fwu] : List Area), a ∈ A)
    (hP : ∀ p ∈ ([.pw, .std, .cop, .fwu] : List Part), p ∈ P) :
    Kept A P s0 (State.pllLock s) := by
  unfold State.pllLock
  repeat' first
    | with_reducible assumption | exact inA hA rfl | exact subA hA rfl | exact .inl (inP hP rfl) | exact subP hP rfl
    | with_reducible exact rfl | exact .inr rfl
    | with_reducible first
      | intro _ | apply State.slotsAtStart_kept | apply State.startCores_kept | apply Kept.ite | dsimp only
    | fail_if_no_progress with_reducible apply Kept.upd

theorem execPllLock_kept {s : State} (hk : Kept A P s0 s) {t : Nat}
    (hA : ∀ a ∈ ([.sys, .std, .pend, .le, .cpc, .fwu] : List Area), a ∈ A)
    (hP : ∀ p ∈ ([.now, .resp, .out, .pw, .std, .cop, .fwu] : List Part), p ∈ P) :
    KeptOut A P s0 (execPllLock t s) := by
  unfold execPllLock
  repeat' first
    | with_reducible assumption | exact inA hA rfl | exact subA hA rfl | exact .inl (inP hP rfl) | exact subP hP rfl
    | with_reducible first
      | intro _ | apply KeptOut.next | apply State.begin_kept | apply State.pllLock_kept | dsimp only

theorem State.dieReset_kept {s : State} (hk : Kept A P s0 s)
    (hP : ∀ p ∈ ([.mem, .rcd, .std, .lko, .dbg, .cop, .io, .eng, .key, .cnp, .fab, .cvu, .rwy, .ust, .fwu, .pmg] : List Part), p ∈ P) :
    Kept A P s0 (State.dieReset s) := by
  unfold State.dieReset
  repeat' first
    | with_reducible assumption | exact .inl (inP hP rfl) | exact subP hP rfl | with_reducible exact rfl
    | exact .inr rfl
    | with_reducible first
      | intro _ | apply Kept.ite | apply Kept.foldl | dsimp only
    | fail_if_no_progress with_reducible apply Kept.upd

theorem State.resetDie_kept {s : State} (hk : Kept A P s0 s) (hA : ∀ a ∈ allAreas, a ∈ A)
    (hP : ∀ p ∈ ([.mem, .leMem, .out, .fresh, .pw, .rcd, .std, .lko, .dbg, .cop, .ecc, .io, .eng, .key, .cnp, .fab, .cvu, .rwy, .ust, .fwu, .pmg] : List Part), p ∈ P) :
    Kept A P s0 (State.resetDie s) := by
  unfold State.resetDie
  repeat' first
    | with_reducible assumption | exact inA hA rfl | exact subA hA rfl | exact .inl (inP hP rfl) | exact subP hP rfl
    | exact fun a h => mem_of_inArea hA h (hm := rfl) | exact fun a _ => hA _ (mem_allAreas _)
    | with_reducible first
      | intro _ | apply State.clearKey_kept | apply State.confTorn_kept | apply State.dieReset_kept
      | apply State.eccReset_kept | apply State.fillAborted_kept | apply State.lanesFall_kept
      | apply State.restore_kept | apply State.wr_kept | apply Kept.foldl | dsimp only

theorem State.moduleStart_kept {s : State} (hk : Kept A P s0 s)
    (hA : ∀ a ∈ ([.sys, .pwr, .feed, .std, .pend, .le, .cpc, .cnp, .cvu, .ingress, .fwu, .key] : List Area), a ∈ A)
    (hP : ∀ p ∈ ([.out, .pw, .rcd, .std, .cop, .key, .cnp, .fab, .cvu, .rwy, .fwu] : List Part), p ∈ P) :
    Kept A P s0 (State.moduleStart s) := by
  unfold State.moduleStart
  repeat' first
    | with_reducible assumption | exact inA hA rfl | exact subA hA rfl | exact .inl (inP hP rfl) | exact subP hP rfl
    | with_reducible exact rfl | exact .inr rfl
    | with_reducible first
      | intro _ | apply State.measureDue_kept | apply State.showContacts_kept | apply State.slotsAtStart_kept
      | apply State.startCores_kept | apply State.wr_kept | dsimp only
    | fail_if_no_progress with_reducible apply Kept.upd

theorem State.moduleReset_kept {s : State} (hk : Kept A P s0 s) {cause stand : Nat} (hA : ∀ a ∈ allAreas, a ∈ A)
    (hP : ∀ p ∈ ([.mem, .leMem, .out, .fresh, .pw, .rcd, .std, .lko, .dbg, .cop, .ecc, .io, .eng, .key, .cnp, .fab, .cvu, .rwy, .ust, .fwu, .pmg] : List Part), p ∈ P) :
    Kept A P s0 (State.moduleReset s cause stand) := by
  unfold State.moduleReset
  repeat' first
    | with_reducible assumption | exact inA hA rfl | exact subA hA rfl | exact .inl (inP hP rfl) | exact subP hP rfl
    | with_reducible exact rfl | exact .inr rfl | exact rstCounter_area (by assumption) ▸ inA hA rfl
    | with_reducible first
      | intro _ | apply State.bump_kept | apply State.moduleStart_kept | apply State.resetDie_kept
      | apply State.wr_kept | apply Kept.ite | split | dsimp only
    | fail_if_no_progress with_reducible apply Kept.upd

theorem State.afterFailure_kept {s : State} (hk : Kept A P s0 s) (hA : ∀ a ∈ allAreas, a ∈ A)
    (hP : ∀ p ∈ ([.mem, .leMem, .out, .fresh, .pw, .rcd, .std, .lko, .dbg, .cop, .ecc, .io, .eng, .key, .cnp, .fab, .cvu, .rwy, .ust, .fwu, .pmg] : List Part), p ∈ P) :
    Kept A P s0 (State.afterFailure s) := by
  unfold State.afterFailure
  repeat' first
    | with_reducible assumption | exact inA hA rfl | exact subA hA rfl | exact .inl (inP hP rfl) | exact subP hP rfl
    | with_reducible first
      | intro _ | apply State.moduleReset_kept | apply Kept.ite | dsimp only

theorem State.softwareReset_kept {s : State} (hk : Kept A P s0 s) {k : Nat} (hA : ∀ a ∈ allAreas, a ∈ A)
    (hP : ∀ p ∈ ([.mem, .leMem, .resp, .out, .fresh, .pw, .rcd, .std, .lko, .dbg, .cop, .ecc, .io, .eng, .key, .cnp, .fab, .cvu, .rwy, .ust, .fwu, .pmg] : List Part), p ∈ P) :
    Kept A P s0 (State.softwareReset s k) := by
  unfold State.softwareReset
  repeat' first
    | with_reducible assumption | exact inA hA rfl | exact subA hA rfl | exact .inl (inP hP rfl) | exact subP hP rfl
    | with_reducible first
      | intro _ | apply State.answer_kept | apply State.moduleReset_kept | apply Kept.ite | dsimp only

theorem execSoftwareReset_kept {s : State} (hk : Kept A P s0 s) {k : Fin 4} {t : Nat} (hA : ∀ a ∈ allAreas, a ∈ A)
    (hP : ∀ p ∈ ([.now, .mem, .leMem, .resp, .out, .fresh, .pw, .rcd, .std, .lko, .dbg, .cop, .ecc, .io, .eng, .key, .cnp, .fab, .cvu, .rwy, .ust, .fwu, .pmg] : List Part), p ∈ P) :
    KeptOut A P s0 (execSoftwareReset k t s) := by
  unfold execSoftwareReset
  repeat' first
    | with_reducible assumption | exact inA hA rfl | exact subA hA rfl | exact .inl (inP hP rfl) | exact subP hP rfl
    | with_reducible first
      | intro _ | apply KeptOut.next | apply State.begin_kept | apply State.softwareReset_kept | apply Kept.ite
      | apply KeptOut.ite | dsimp only

theorem State.deviates_kept {s : State} (hk : Kept A P s0 s) {d : Nat}
    (hA : ∀ a ∈ ([.pwr, .pend, .cnp, .ust, .cvu, .ingress] : List Area), a ∈ A)
    (hP : ∀ p ∈ ([.out, .pw, .rcd, .cnp, .fab, .cvu, .rwy, .ust] : List Part), p ∈ P) :
    Kept A P s0 (State.deviates s d) := by
  unfold State.deviates
  repeat' first
    | with_reducible assumption | exact inA hA rfl | exact subA hA rfl | exact .inl (inP hP rfl) | exact subP hP rfl
    | with_reducible first
      | intro _ | apply State.linkWentDown_kept | apply State.raise_kept | apply State.wrBit_kept | apply Kept.ite
      | dsimp only

theorem State.monitorWindow_kept {s : State} (hk : Kept A P s0 s) {dev : Nat} {khz : List Nat}
    (hA : ∀ a ∈ allAreas, a ∈ A)
    (hP : ∀ p ∈ ([.mem, .leMem, .out, .fresh, .pw, .rcd, .std, .lko, .dbg, .cop, .ecc, .io, .eng, .key, .cnp, .fab, .cvu, .rwy, .ust, .fwu, .pmg] : List Part), p ∈ P) :
    Kept A P s0 (State.monitorWindow s dev khz) := by
  unfold State.monitorWindow
  repeat' first
    | with_reducible assumption | exact inA hA rfl | exact subA hA rfl | exact .inl (inP hP rfl) | exact subP hP rfl
    | with_reducible first
      | intro _ | apply State.deviates_kept | apply State.moduleReset_kept | apply State.wr_kept | apply Kept.ite
      | apply Kept.foldl | dsimp only

theorem execClockMonitorWindow_kept {s : State} (hk : Kept A P s0 s) {dev : BitVec 13} {khz : List Nat} {t : Nat}
    (hA : ∀ a ∈ allAreas, a ∈ A)
    (hP : ∀ p ∈ ([.now, .mem, .leMem, .resp, .out, .fresh, .pw, .rcd, .std, .lko, .dbg, .cop, .ecc, .io, .eng, .key, .cnp, .fab, .cvu, .rwy, .ust, .fwu, .pmg] : List Part), p ∈ P) :
    KeptOut A P s0 (execClockMonitorWindow dev khz t s) := by
  unfold execClockMonitorWindow
  repeat' first
    | with_reducible assumption | exact inA hA rfl | exact subA hA rfl | exact .inl (inP hP rfl) | exact subP hP rfl
    | with_reducible first
      | intro _ | apply KeptOut.next | apply State.begin_kept | apply State.monitorWindow_kept | dsimp only

theorem State.referenceLoss_kept {s : State} (hk : Kept A P s0 s) (hA : ∀ a ∈ allAreas, a ∈ A)
    (hP : ∀ p ∈ ([.mem, .leMem, .out, .fresh, .pw, .rcd, .std, .lko, .dbg, .cop, .ecc, .io, .eng, .key, .cnp, .fab, .cvu, .rwy, .ust, .fwu, .pmg] : List Part), p ∈ P) :
    Kept A P s0 (State.referenceLoss s) := by
  unfold State.referenceLoss
  repeat' first
    | with_reducible assumption | exact inA hA rfl | exact subA hA rfl | exact .inl (inP hP rfl) | exact subP hP rfl
    | with_reducible exact rfl | exact .inr rfl
    | with_reducible first
      | intro _ | apply State.resetDie_kept | apply Kept.ite | dsimp only
    | fail_if_no_progress with_reducible apply Kept.upd

theorem execReferenceLoss_kept {s : State} (hk : Kept A P s0 s) {t : Nat} (hA : ∀ a ∈ allAreas, a ∈ A)
    (hP : ∀ p ∈ ([.now, .mem, .leMem, .resp, .out, .fresh, .pw, .rcd, .std, .lko, .dbg, .cop, .ecc, .io, .eng, .key, .cnp, .fab, .cvu, .rwy, .ust, .fwu, .pmg] : List Part), p ∈ P) :
    KeptOut A P s0 (execReferenceLoss t s) := by
  unfold execReferenceLoss
  repeat' first
    | with_reducible assumption | exact inA hA rfl | exact subA hA rfl | exact .inl (inP hP rfl) | exact subP hP rfl
    | with_reducible first
      | intro _ | apply KeptOut.next | apply State.begin_kept | apply State.referenceLoss_kept | dsimp only

theorem State.referenceReturn_kept {s : State} (hk : Kept A P s0 s)
    (hA : ∀ a ∈ ([.sys, .pwr, .feed, .pend, .cnp, .cvu, .ingress, .key] : List Area), a ∈ A)
    (hP : ∀ p ∈ ([.out, .pw, .rcd, .key, .cnp, .fab, .cvu, .rwy] : List Part), p ∈ P) :
    Kept A P s0 (State.referenceReturn s) := by
  unfold State.referenceReturn
  repeat' first
    | with_reducible assumption | exact inA hA rfl | exact subA hA rfl | exact .inl (inP hP rfl) | exact subP hP rfl
    | with_reducible first
      | intro _ | apply State.beginLock_kept | apply State.wr_kept | apply Kept.ite | dsimp only

theorem execReferenceReturn_kept {s : State} (hk : Kept A P s0 s) {t : Nat}
    (hA : ∀ a ∈ ([.sys, .pwr, .feed, .pend, .cnp, .cvu, .ingress, .key] : List Area), a ∈ A)
    (hP : ∀ p ∈ ([.now, .resp, .out, .pw, .rcd, .key, .cnp, .fab, .cvu, .rwy] : List Part), p ∈ P) :
    KeptOut A P s0 (execReferenceReturn t s) := by
  unfold execReferenceReturn
  repeat' first
    | with_reducible assumption | exact inA hA rfl | exact subA hA rfl | exact .inl (inP hP rfl) | exact subP hP rfl
    | with_reducible first
      | intro _ | apply KeptOut.next | apply State.begin_kept | apply State.referenceReturn_kept | dsimp only

/-! ### Machine/Start.lean -/

theorem State.applyLoad_kept {s : State} (hk : Kept A P s0 s) {d : List Byte} (hA : ∀ a ∈ allAreas, a ∈ A) :
    Kept A P s0 (State.applyLoad s d) := by
  unfold State.applyLoad
  repeat' first
    | with_reducible assumption | exact inA hA rfl | exact subA hA rfl
    | with_reducible first
      | intro _ | apply State.putWord_kept | apply Kept.foldl | dsimp only

theorem State.klDefaults_kept {s : State} (hk : Kept A P s0 s)
    (hA : ∀ a ∈ ([.pwr, .std, .lko, .iog, .chan, .recd] : List Area), a ∈ A) :
    Kept A P s0 (State.klDefaults s) := by
  unfold State.klDefaults
  repeat' first
    | with_reducible assumption | exact inA hA rfl | exact subA hA rfl
    | with_reducible first
      | intro _ | apply State.wr_kept | apply Kept.foldl | dsimp only

theorem State.applyIdentity_kept {s : State} (hk : Kept A P s0 s) {d : List Byte}
    (hA : ∀ a ∈ ([.key] : List Area), a ∈ A) :
    Kept A P s0 (State.applyIdentity s d) := by
  unfold State.applyIdentity
  repeat' first
    | with_reducible assumption | exact inA hA rfl | exact subA hA rfl
    | with_reducible first
      | intro _ | apply State.wr_kept | apply State.wrB_kept | dsimp only

theorem State.keyEnds_kept {s : State} (hk : Kept A P s0 s) {e : KeyEnd} (hA : ∀ a ∈ ([.key] : List Area), a ∈ A) :
    Kept A P s0 (State.keyEnds s e) := by
  unfold State.keyEnds
  repeat' first
    | with_reducible assumption | exact inA hA rfl | exact subA hA rfl
    | with_reducible first
      | intro _ | apply State.wr_kept | apply Kept.ite | dsimp only

theorem State.showJournals_kept {s : State} (hk : Kept A P s0 s) {comm hist : List (List Byte)}
    (hA : ∀ a ∈ ([.key] : List Area), a ∈ A) (hP : ∀ p ∈ ([.key] : List Part), p ∈ P) :
    Kept A P s0 (State.showJournals s comm hist) := by
  unfold State.showJournals
  repeat' first
    | with_reducible assumption | exact inA hA rfl | exact subA hA rfl | exact .inl (inP hP rfl) | exact subP hP rfl
    | with_reducible exact rfl | exact .inr rfl
    | with_reducible first
      | intro _ | apply State.wr_kept | apply State.wrB_kept | dsimp only
    | fail_if_no_progress with_reducible apply Kept.upd

theorem State.keyReadDone_kept {s : State} (hk : Kept A P s0 s) {fault : Nat}
    (hA : ∀ a ∈ ([.key] : List Area), a ∈ A) (hP : ∀ p ∈ ([.pw, .key] : List Part), p ∈ P) :
    Kept A P s0 (State.keyReadDone s fault) := by
  unfold State.keyReadDone
  repeat' first
    | with_reducible assumption | exact inA hA rfl | exact subA hA rfl | exact .inl (inP hP rfl) | exact subP hP rfl
    | with_reducible exact rfl | exact .inr rfl
    | with_reducible first
      | intro _ | apply State.keyEnds_kept | apply State.showJournals_kept | apply Kept.ite | split | dsimp only
    | fail_if_no_progress with_reducible apply Kept.upd

theorem execKeyReadDone_kept {s : State} (hk : Kept A P s0 s) {fault : Fin 3} {t : Nat}
    (hA : ∀ a ∈ ([.key] : List Area), a ∈ A) (hP : ∀ p ∈ ([.now, .resp, .out, .pw, .key] : List Part), p ∈ P) :
    KeptOut A P s0 (execKeyReadDone fault t s) := by
  unfold execKeyReadDone
  repeat' first
    | with_reducible assumption | exact inA hA rfl | exact subA hA rfl | exact .inl (inP hP rfl) | exact subP hP rfl
    | with_reducible first
      | intro _ | apply KeptOut.next | apply State.begin_kept | apply State.keyReadDone_kept | dsimp only

theorem State.applyProgram_kept {s : State}
    (hk : Kept A P s0 s) {e : Nat} {prog map : Option (List Byte)} {bad : Bool} (hA : ∀ a ∈ allAreas, a ∈ A)
    (hP : ∀ p ∈ ([.mem, .leMem, .out, .pw, .rcd, .cop, .ecc, .io, .eng, .cvu, .pmg] : List Part), p ∈ P) :
    Kept A P s0 (State.applyProgram s e prog map bad) := by
  unfold State.applyProgram
  repeat' first
    | with_reducible assumption | exact inA hA rfl | exact subA hA rfl | exact .inl (inP hP rfl) | exact subP hP rfl
    | with_reducible exact rfl | exact .inr rfl
    | with_reducible first
      | intro _ | apply State.admReport_kept | apply State.leRestart_kept | apply State.putBank_kept
      | apply State.putWord_kept | apply State.setEngine_kept | apply State.wr_kept | split | dsimp only
    | fail_if_no_progress with_reducible apply Kept.upd

theorem State.applySections_kept {s : State} (hk : Kept A P s0 s) {serial : Nat} {p : List Byte} {bad : Nat}
    (hA : ∀ a ∈ allAreas, a ∈ A)
    (hP : ∀ p ∈ ([.mem, .leMem, .out, .pw, .rcd, .cop, .ecc, .io, .eng, .cvu, .pmg] : List Part), p ∈ P) :
    Kept A P s0 (State.applySections s serial p bad) := by
  unfold State.applySections
  repeat' first
    | with_reducible assumption | exact inA hA rfl | exact subA hA rfl | exact .inl (inP hP rfl) | exact subP hP rfl
    | with_reducible first
      | intro _ | apply State.applyIdentity_kept | apply State.applyLoad_kept | apply State.applyProgram_kept
      | apply State.wr_kept | apply State.wr64_kept | apply Kept.foldl | dsimp only

theorem State.judgePolicy_kept {s : State} (hk : Kept A P s0 s)
    (hA : ∀ a ∈ ([.pwr, .pend, .ingress] : List Area), a ∈ A) (hP : ∀ p ∈ ([.pw, .rcd] : List Part), p ∈ P) :
    Kept A P s0 (State.judgePolicy s) := by
  unfold State.judgePolicy
  repeat' first
    | with_reducible assumption | exact inA hA rfl | exact subA hA rfl | exact .inl (inP hP rfl) | exact subP hP rfl
    | with_reducible exact rfl | exact .inr rfl
    | with_reducible first
      | intro _ | apply State.record_kept | apply State.wr_kept | apply Kept.ite | dsimp only
    | fail_if_no_progress with_reducible apply Kept.upd

theorem State.judgeLayout_kept {s : State} (hk : Kept A P s0 s)
    (hA : ∀ a ∈ ([.pend, .ecc, .cvu, .recd, .ingress] : List Area), a ∈ A)
    (hP : ∀ p ∈ ([.mem, .pw, .rcd, .ecc, .cvu] : List Part), p ∈ P) :
    Kept A P s0 (State.judgeLayout s) := by
  unfold State.judgeLayout
  repeat' first
    | with_reducible assumption | exact inA hA rfl | exact subA hA rfl | exact .inl (inP hP rfl) | exact subP hP rfl
    | with_reducible exact rfl | exact .inr rfl
    | with_reducible first
      | intro _ | apply State.raise_kept | apply State.selfRecord_kept | apply State.wr_kept | apply Kept.ite
      | dsimp only
    | fail_if_no_progress with_reducible apply Kept.upd

theorem State.startupRun_kept {s : State} (hk : Kept A P s0 s)
    (hA : ∀ a ∈ ([.std, .pend, .cpc, .bist] : List Area), a ∈ A) (hP : ∀ p ∈ ([.cop, .cnp] : List Part), p ∈ P) :
    Kept A P s0 (State.startupRun s) := by
  unfold State.startupRun
  repeat' first
    | with_reducible assumption | exact inA hA rfl | exact subA hA rfl | exact .inl (inP hP rfl) | exact subP hP rfl
    | with_reducible first
      | intro _ | apply State.runAsked_kept | apply Kept.ite | apply Kept.foldl | dsimp only

theorem State.applyEnd_kept {s : State} (hk : Kept A P s0 s)
    (hA : ∀ a ∈ ([.pwr, .std, .pend, .ecc, .cpc, .iog, .chan, .cvu, .recd, .ingress, .bist] : List Area), a ∈ A)
    (hP : ∀ p ∈ ([.mem, .out, .pw, .rcd, .cop, .ecc, .io, .cnp, .cvu] : List Part), p ∈ P) :
    Kept A P s0 (State.applyEnd s) := by
  unfold State.applyEnd
  repeat' first
    | with_reducible assumption | exact inA hA rfl | exact subA hA rfl | exact .inl (inP hP rfl) | exact subP hP rfl
    | with_reducible exact rfl | exact .inr rfl
    | with_reducible first
      | intro _ | apply State.fieldStart_kept | apply State.judgeLayout_kept | apply State.judgePolicy_kept
      | apply State.startupRun_kept | dsimp only
    | fail_if_no_progress with_reducible apply Kept.upd

theorem State.applyKeyless_kept {s : State} (hk : Kept A P s0 s) (hA : ∀ a ∈ allAreas, a ∈ A)
    (hP : ∀ p ∈ ([.mem, .leMem, .out, .pw, .rcd, .cop, .ecc, .io, .eng, .cnp, .cvu, .pmg] : List Part), p ∈ P) :
    Kept A P s0 (State.applyKeyless s) := by
  unfold State.applyKeyless
  repeat' first
    | with_reducible assumption | exact inA hA rfl | exact subA hA rfl | exact .inl (inP hP rfl) | exact subP hP rfl
    | with_reducible first
      | intro _ | apply State.applyEnd_kept | apply State.applyProgram_kept | apply State.klDefaults_kept
      | apply Kept.foldl | dsimp only

theorem State.keyApplyDone_kept {s : State} (hk : Kept A P s0 s) {bad : Nat} (hA : ∀ a ∈ allAreas, a ∈ A)
    (hP : ∀ p ∈ ([.mem, .leMem, .out, .pw, .rcd, .cop, .ecc, .io, .eng, .key, .cnp, .cvu, .pmg] : List Part), p ∈ P) :
    Kept A P s0 (State.keyApplyDone s bad) := by
  unfold State.keyApplyDone
  repeat' first
    | with_reducible assumption | exact inA hA rfl | exact subA hA rfl | exact .inl (inP hP rfl) | exact subP hP rfl
    | with_reducible exact rfl | exact .inr rfl
    | with_reducible first
      | intro _ | apply State.applyEnd_kept | apply State.applyKeyless_kept | apply State.applySections_kept
      | apply State.keyEnds_kept | apply State.klDefaults_kept | apply State.loadTable_kept | apply State.record_kept
      | apply Kept.ite | split | dsimp only
    | fail_if_no_progress with_reducible apply Kept.upd

theorem execKeyApplyDone_kept {s : State} (hk : Kept A P s0 s) {bad : BitVec 4} {t : Nat}
    (hA : ∀ a ∈ allAreas, a ∈ A)
    (hP : ∀ p ∈ ([.now, .mem, .leMem, .resp, .out, .pw, .rcd, .cop, .ecc, .io, .eng, .key, .cnp, .cvu, .pmg] : List Part), p ∈ P) :
    KeptOut A P s0 (execKeyApplyDone bad t s) := by
  unfold execKeyApplyDone
  repeat' first
    | with_reducible assumption | exact inA hA rfl | exact subA hA rfl | exact .inl (inP hP rfl) | exact subP hP rfl
    | with_reducible first
      | intro _ | apply KeptOut.next | apply State.begin_kept | apply State.keyApplyDone_kept | dsimp only

theorem State.trialFails_kept {s : State} (hk : Kept A P s0 s) (hA : ∀ a ∈ ([.pend, .fwu] : List Area), a ∈ A)
    (hP : ∀ p ∈ ([.fwu] : List Part), p ∈ P) :
    Kept A P s0 (State.trialFails s) := by
  unfold State.trialFails
  repeat' first
    | with_reducible assumption | exact inA hA rfl | exact subA hA rfl | exact .inl (inP hP rfl) | exact subP hP rfl
    | with_reducible exact rfl | exact .inr rfl
    | with_reducible first
      | intro _ | apply State.raise_kept | apply State.slotTo_kept | split | dsimp only
    | fail_if_no_progress with_reducible apply Kept.upd

theorem State.bootSlot_kept {s : State} (hk : Kept A P s0 s) {n : Nat} (hA : ∀ a ∈ ([.pend, .fwu] : List Area), a ∈ A)
    (hP : ∀ p ∈ ([.fwu] : List Part), p ∈ P) :
    Kept A P s0 (State.bootSlot s n).1 := by
  induction n generalizing s with
  | zero => exact hk
  | succ n ih =>
    unfold State.bootSlot
    repeat' first
    | with_reducible assumption
    | exact inA hA rfl | exact subA hA rfl | exact .inl (inP hP rfl) | exact subP hP rfl | with_reducible exact rfl
    | exact .inr rfl
    | with_reducible intro _
    | with_reducible apply ih
    | with_reducible apply State.trialFails_kept
    | with_reducible apply State.setSlot_kept
    | with_reducible apply State.slotTo_kept
    | with_reducible apply State.raise_kept
    | with_reducible apply Kept.ite
    | with_reducible split
    | with_reducible dsimp only

theorem State.bootFill_kept {s : State} (hk : Kept A P s0 s) (hA : ∀ a ∈ ([.pend, .ecc, .ingress] : List Area), a ∈ A)
    (hP : ∀ p ∈ ([.mem, .pw, .rcd, .ecc] : List Part), p ∈ P) : Kept A P s0 (State.bootFill s) := by
  unfold State.bootFill
  have hm : Kept A P s0 ({ s with mem := s.mem.filter fun x => !inRange sramBase (sramBase + 0x40000) x.1 } : State) :=
    Kept.parts hk rfl rfl (fun q hq => by cases q <;> first | rfl | exact absurd (inP hP rfl) hq)
      fun c => ⟨c.1, tblWf_filter _ c.2, c.3, c.4, c.5⟩
  have hw := State.rowsWritten_kept hm (memid := 2) (lo := 0) (n := 8192) (subA hA rfl) (subP hP rfl)
  dsimp only
  generalize State.rowsWritten _ 2 0 8192 = u at hw ⊢
  refine State.arrDrop_kept ?_ (subP hP rfl)
  exact Kept.parts hw rfl rfl (fun q hq => by cases q <;> first | rfl | exact absurd (inP hP rfl) hq)
    fun c => ⟨c.1, c.2, c.3, c.4, c.5⟩

theorem State.formStands_kept {s : State} (hk : Kept A P s0 s) {entry : Nat}
    (hA : ∀ a ∈ ([.sys, .std, .pend, .cpc, .iog, .chan, .ingress] : List Area), a ∈ A)
    (hP : ∀ p ∈ ([.out, .pw, .rcd, .std, .cop, .io] : List Part), p ∈ P) :
    Kept A P s0 (State.formStands s entry) := by
  unfold State.formStands
  repeat' first
    | with_reducible assumption | exact inA hA rfl | exact subA hA rfl | exact .inl (inP hP rfl) | exact subP hP rfl
    | with_reducible exact rfl | exact .inr rfl
    | with_reducible first
      | intro _ | apply State.countSpares_kept | apply State.form_kept | apply State.poolEmpty_kept
      | apply State.setStand_kept | apply State.settleStand_kept | apply State.syncCores_kept
      | apply State.syncSafe_kept | apply Kept.ite | apply Kept.foldl | dsimp only
    | fail_if_no_progress with_reducible apply Kept.upd

theorem State.enterSeedling_kept {s : State} (hk : Kept A P s0 s)
    (hA : ∀ a ∈ ([.sys, .std, .pend, .cpc, .iog, .chan, .ingress, .fwu] : List Area), a ∈ A)
    (hP : ∀ p ∈ ([.out, .pw, .rcd, .std, .cop, .io, .fwu] : List Part), p ∈ P) :
    Kept A P s0 (State.enterSeedling s) := by
  unfold State.enterSeedling
  repeat' first
    | with_reducible assumption | exact inA hA rfl | exact subA hA rfl | exact .inl (inP hP rfl) | exact subP hP rfl
    | with_reducible exact rfl | exact .inr rfl
    | with_reducible first
      | intro _ | apply State.formStands_kept | apply State.wr_kept | dsimp only
    | fail_if_no_progress with_reducible apply Kept.upd

theorem State.firmwareStarts_kept {s : State} (hk : Kept A P s0 s) {k : Nat} {p : List Byte}
    (hA : ∀ a ∈ ([.sys, .std, .pend, .ecc, .cpc, .iog, .chan, .cvu, .ingress, .fwu] : List Area), a ∈ A)
    (hP : ∀ p ∈ ([.mem, .out, .pw, .rcd, .std, .cop, .ecc, .io, .cvu, .fwu] : List Part), p ∈ P) :
    Kept A P s0 (State.firmwareStarts s k p) := by
  unfold State.firmwareStarts
  repeat' first
    | with_reducible assumption | exact inA hA rfl | exact subA hA rfl | exact .inl (inP hP rfl) | exact subP hP rfl
    | with_reducible exact rfl | exact .inr rfl
    | with_reducible first
      | intro _ | apply State.bootFill_kept | apply State.formStands_kept | apply State.loadRegion_kept
      | apply State.wr_kept | apply State.wr64_kept | apply State.wrB_kept | apply Kept.foldl | dsimp only
    | fail_if_no_progress with_reducible apply Kept.upd

theorem State.firmwareLoad_kept {s : State} (hk : Kept A P s0 s)
    (hA : ∀ a ∈ ([.sys, .std, .pend, .ecc, .cpc, .iog, .chan, .cvu, .ingress, .fwu] : List Area), a ∈ A)
    (hP : ∀ p ∈ ([.mem, .out, .pw, .rcd, .std, .cop, .ecc, .io, .cvu, .fwu] : List Part), p ∈ P) :
    Kept A P s0 (State.firmwareLoad s) := by
  unfold State.firmwareLoad
  repeat' first
    | with_reducible assumption | exact inA hA rfl | exact subA hA rfl | exact .inl (inP hP rfl) | exact subP hP rfl
    | with_reducible exact rfl | exact .inr rfl
    | with_reducible first
      | intro _ | apply State.bootSlot_kept | apply State.enterSeedling_kept | apply State.firmwareStarts_kept
      | apply Kept.ite | refine Kept.snd ?_ (by assumption) | refine Kept.fst ?_ (by assumption) | split | split
      | dsimp only
    | fail_if_no_progress with_reducible apply Kept.upd

theorem execFirmwareLoadDone_kept {s : State} (hk : Kept A P s0 s) {t : Nat}
    (hA : ∀ a ∈ ([.sys, .std, .pend, .ecc, .cpc, .iog, .chan, .cvu, .ingress, .fwu] : List Area), a ∈ A)
    (hP : ∀ p ∈ ([.now, .mem, .resp, .out, .pw, .rcd, .std, .cop, .ecc, .io, .cvu, .fwu] : List Part), p ∈ P) :
    KeptOut A P s0 (execFirmwareLoadDone t s) := by
  unfold execFirmwareLoadDone
  repeat' first
    | with_reducible assumption | exact inA hA rfl | exact subA hA rfl | exact .inl (inP hP rfl) | exact subP hP rfl
    | with_reducible first
      | intro _ | apply KeptOut.next | apply State.begin_kept | apply State.firmwareLoad_kept | dsimp only

theorem State.aloneTimeout_kept {s : State} (hk : Kept A P s0 s)
    (hA : ∀ a ∈ ([.pend, .cnp, .ust, .ingress] : List Area), a ∈ A)
    (hP : ∀ p ∈ ([.pw, .rcd, .cnp, .fab, .ust] : List Part), p ∈ P) :
    Kept A P s0 (State.aloneTimeout s) := by
  unfold State.aloneTimeout
  repeat' first
    | with_reducible assumption | exact inA hA rfl | exact subA hA rfl | exact .inl (inP hP rfl) | exact subP hP rfl
    | with_reducible exact rfl | exact .inr rfl
    | with_reducible first
      | intro _ | apply State.setSync_kept | apply Kept.ite | dsimp only
    | fail_if_no_progress with_reducible apply Kept.upd

theorem execAloneTimeout_kept {s : State} (hk : Kept A P s0 s) {t : Nat}
    (hA : ∀ a ∈ ([.pend, .cnp, .ust, .ingress] : List Area), a ∈ A)
    (hP : ∀ p ∈ ([.now, .resp, .out, .pw, .rcd, .cnp, .fab, .ust] : List Part), p ∈ P) :
    KeptOut A P s0 (execAloneTimeout t s) := by
  unfold execAloneTimeout
  repeat' first
    | with_reducible assumption | exact inA hA rfl | exact subA hA rfl | exact .inl (inP hP rfl) | exact subP hP rfl
    | with_reducible first
      | intro _ | apply KeptOut.next | apply State.aloneTimeout_kept | apply State.begin_kept | dsimp only

theorem State.contactClosed_kept {s : State} (hk : Kept A P s0 s)
    (hA : ∀ a ∈ ([.pend, .ingress] : List Area), a ∈ A) (hP : ∀ p ∈ ([.pw, .rcd] : List Part), p ∈ P) :
    Kept A P s0 (State.contactClosed s) := by
  unfold State.contactClosed
  repeat' first
    | with_reducible assumption | exact inA hA rfl | exact subA hA rfl | exact .inl (inP hP rfl) | exact subP hP rfl
    | with_reducible exact rfl | exact .inr rfl
    | with_reducible first
      | intro _ | apply State.record_kept | dsimp only
    | fail_if_no_progress with_reducible apply Kept.upd

theorem State.confFail_kept {s : State} (hk : Kept A P s0 s) {err : Nat}
    (hA : ∀ a ∈ ([.pend, .key] : List Area), a ∈ A) :
    Kept A P s0 (State.confFail s err) := by
  unfold State.confFail
  repeat' first
    | with_reducible assumption | exact inA hA rfl | exact subA hA rfl
    | with_reducible first
      | intro _ | apply State.raise_kept | apply State.wr_kept | dsimp only

theorem State.confBroken_kept {s : State} (hk : Kept A P s0 s) (hA : ∀ a ∈ ([.pend, .key] : List Area), a ∈ A)
    (hP : ∀ p ∈ ([.key] : List Part), p ∈ P) :
    Kept A P s0 (State.confBroken s) := by
  unfold State.confBroken
  repeat' first
    | with_reducible assumption | exact inA hA rfl | exact subA hA rfl | exact .inl (inP hP rfl) | exact subP hP rfl
    | with_reducible exact rfl | exact .inr rfl
    | with_reducible first
      | intro _ | apply State.confFail_kept | apply State.wr_kept | apply Kept.ite | dsimp only
    | fail_if_no_progress with_reducible apply Kept.upd

theorem State.keyPresent_kept {s : State} (hk : Kept A P s0 s) {m : Option KeyMem}
    (hA : ∀ a ∈ ([.pend, .ingress, .key] : List Area), a ∈ A)
    (hP : ∀ p ∈ ([.mem, .pw, .rcd, .key] : List Part), p ∈ P) :
    Kept A P s0 (State.keyPresent s m) := by
  unfold State.keyPresent
  repeat' first
    | with_reducible assumption | exact inA hA rfl | exact subA hA rfl | exact .inl (inP hP rfl) | exact subP hP rfl
    | with_reducible exact rfl | exact .inr rfl
    | with_reducible first
      | intro _ | apply State.confBroken_kept | apply State.contactClosed_kept | apply State.contactOpen_kept
      | apply State.wrB_kept | apply Kept.ite | dsimp only
    | fail_if_no_progress with_reducible apply Kept.upd

theorem execKeyPresentChange_kept {s : State} (hk : Kept A P s0 s) {m : Option KeyMem} {t : Nat}
    (hA : ∀ a ∈ ([.pend, .ingress, .key] : List Area), a ∈ A)
    (hP : ∀ p ∈ ([.now, .mem, .resp, .out, .pw, .rcd, .key] : List Part), p ∈ P) :
    KeptOut A P s0 (execKeyPresentChange m t s) := by
  unfold execKeyPresentChange
  repeat' first
    | with_reducible assumption | exact inA hA rfl | exact subA hA rfl | exact .inl (inP hP rfl) | exact subP hP rfl
    | with_reducible first
      | intro _ | apply KeptOut.next | apply State.begin_kept | apply State.keyPresent_kept | dsimp only

theorem State.keyLatch_kept {s : State} (hk : Kept A P s0 s) {closed : Bool}
    (hA : ∀ a ∈ ([.pend, .ingress, .key] : List Area), a ∈ A) (hP : ∀ p ∈ ([.pw, .rcd, .key] : List Part), p ∈ P) :
    Kept A P s0 (State.keyLatch s closed) := by
  unfold State.keyLatch
  repeat' first
    | with_reducible assumption | exact inA hA rfl | exact subA hA rfl | exact .inl (inP hP rfl) | exact subP hP rfl
    | with_reducible exact rfl | exact .inr rfl
    | with_reducible first
      | intro _ | apply State.contactClosed_kept | apply State.contactOpen_kept | apply State.wrB_kept
      | apply Kept.ite | dsimp only
    | fail_if_no_progress with_reducible apply Kept.upd

theorem execKeyLatchChange_kept {s : State} (hk : Kept A P s0 s) {closed : Bool} {t : Nat}
    (hA : ∀ a ∈ ([.pend, .ingress, .key] : List Area), a ∈ A)
    (hP : ∀ p ∈ ([.now, .resp, .out, .pw, .rcd, .key] : List Part), p ∈ P) :
    KeptOut A P s0 (execKeyLatchChange closed t s) := by
  unfold execKeyLatchChange
  repeat' first
    | with_reducible assumption | exact inA hA rfl | exact subA hA rfl | exact .inl (inP hP rfl) | exact subP hP rfl
    | with_reducible first
      | intro _ | apply KeptOut.next | apply State.begin_kept | apply State.keyLatch_kept | dsimp only

theorem State.confWrite_kept {s : State} (hk : Kept A P s0 s) (hA : ∀ a ∈ ([.pend, .key] : List Area), a ∈ A)
    (hP : ∀ p ∈ ([.key] : List Part), p ∈ P) :
    Kept A P s0 (State.confWrite s) := by
  unfold State.confWrite
  repeat' first
    | with_reducible assumption | exact inA hA rfl | exact subA hA rfl | exact .inl (inP hP rfl) | exact subP hP rfl
    | with_reducible exact rfl | exact .inr rfl
    | with_reducible first
      | intro _ | apply State.confFail_kept | apply State.wr_kept | apply Kept.ite | split | dsimp only
    | fail_if_no_progress with_reducible apply Kept.upd

theorem execConfirmationWrite_kept {s : State} (hk : Kept A P s0 s) {t : Nat}
    (hA : ∀ a ∈ ([.pend, .key] : List Area), a ∈ A) (hP : ∀ p ∈ ([.now, .resp, .out, .key] : List Part), p ∈ P) :
    KeptOut A P s0 (execConfirmationWrite t s) := by
  unfold execConfirmationWrite
  repeat' first
    | with_reducible assumption | exact inA hA rfl | exact subA hA rfl | exact .inl (inP hP rfl) | exact subP hP rfl
    | with_reducible first
      | intro _ | apply KeptOut.next | apply State.begin_kept | apply State.confWrite_kept | dsimp only

theorem State.confDone_kept {s : State} (hk : Kept A P s0 s) {back : List Byte}
    (hA : ∀ a ∈ ([.pend, .ingress, .key] : List Area), a ∈ A)
    (hP : ∀ p ∈ ([.mem, .pw, .rcd, .key] : List Part), p ∈ P) :
    Kept A P s0 (State.confDone s back) := by
  unfold State.confDone
  repeat' first
    | with_reducible assumption | exact inA hA rfl | exact subA hA rfl | exact .inl (inP hP rfl) | exact subP hP rfl
    | with_reducible exact rfl | exact .inr rfl
    | with_reducible first
      | intro _ | apply State.confFail_kept | apply State.raise_kept | apply State.record_kept
      | apply State.showJournals_kept | apply State.wr_kept | apply Kept.ite | split | dsimp only
    | fail_if_no_progress with_reducible apply Kept.upd

theorem execConfirmationDone_kept {s : State} (hk : Kept A P s0 s) {back : List Byte} {t : Nat}
    (hA : ∀ a ∈ ([.pend, .ingress, .key] : List Area), a ∈ A)
    (hP : ∀ p ∈ ([.now, .mem, .resp, .out, .pw, .rcd, .key] : List Part), p ∈ P) :
    KeptOut A P s0 (execConfirmationDone back t s) := by
  unfold execConfirmationDone
  repeat' first
    | with_reducible assumption | exact inA hA rfl | exact subA hA rfl | exact .inl (inP hP rfl) | exact subP hP rfl
    | with_reducible first
      | intro _ | apply KeptOut.next | apply State.begin_kept | apply State.confDone_kept | dsimp only

theorem State.historyWrite_kept {s : State} (hk : Kept A P s0 s) {back : Option (List Byte)}
    (hA : ∀ a ∈ ([.pend, .ecc, .cvu, .recd, .ingress, .key] : List Area), a ∈ A)
    (hP : ∀ p ∈ ([.mem, .pw, .rcd, .ecc, .key, .cvu] : List Part), p ∈ P) :
    Kept A P s0 (State.historyWrite s back) := by
  unfold State.historyWrite
  repeat' first
    | with_reducible assumption | exact inA hA rfl | exact subA hA rfl | exact .inl (inP hP rfl) | exact subP hP rfl
    | with_reducible exact rfl | exact .inr rfl
    | with_reducible first
      | intro _ | apply State.selfRecord_kept | apply State.showJournals_kept | apply Kept.ite | split | dsimp only
    | fail_if_no_progress with_reducible apply Kept.upd

theorem execHistoryRecordWrite_kept {s : State} (hk : Kept A P s0 s) {back : Option (List Byte)} {t : Nat}
    (hA : ∀ a ∈ ([.pend, .ecc, .cvu, .recd, .ingress, .key] : List Area), a ∈ A)
    (hP : ∀ p ∈ ([.now, .mem, .resp, .out, .pw, .rcd, .ecc, .key, .cvu] : List Part), p ∈ P) :
    KeptOut A P s0 (execHistoryRecordWrite back t s) := by
  unfold execHistoryRecordWrite
  repeat' first
    | with_reducible assumption | exact inA hA rfl | exact subA hA rfl | exact .inl (inP hP rfl) | exact subP hP rfl
    | with_reducible first
      | intro _ | apply KeptOut.next | apply State.begin_kept | apply State.historyWrite_kept | dsimp only

/-! ### Machine/MemoryCommands.lean -/

theorem State.readStopped_kept {s : State} (hk : Kept A P s0 s) {m : MemMaster}
    (hA : ∀ a ∈ ([.pend, .le, .iog, .chan, .ingress] : List Area), a ∈ A)
    (hP : ∀ p ∈ ([.resp, .out, .pw, .rcd, .io, .eng, .pmg] : List Part), p ∈ P) :
    Kept A P s0 (State.readStopped s m) := by
  unfold State.readStopped
  repeat' first
    | with_reducible assumption | exact inA hA rfl | exact subA hA rfl | exact .inl (inP hP rfl) | exact subP hP rfl
    | with_reducible exact rfl | exact .inr rfl
    | with_reducible first
      | intro _ | apply State.answer_kept | apply State.leFault_kept | apply Kept.ite | split | dsimp only
    | fail_if_no_progress with_reducible apply Kept.upd

theorem State.writeStopped_kept {s : State} (hk : Kept A P s0 s) {m : MemMaster}
    (hA : ∀ a ∈ ([.pend, .le, .iog, .chan, .ingress] : List Area), a ∈ A)
    (hP : ∀ p ∈ ([.resp, .out, .pw, .rcd, .io, .eng, .pmg] : List Part), p ∈ P) :
    Kept A P s0 (State.writeStopped s m) := by
  unfold State.writeStopped
  repeat' first
    | with_reducible assumption | exact inA hA rfl | exact subA hA rfl | exact .inl (inP hP rfl) | exact subP hP rfl
    | with_reducible exact rfl | exact .inr rfl
    | with_reducible first
      | intro _ | apply State.answer_kept | apply State.leFault_kept | apply Kept.ite | split | dsimp only
    | fail_if_no_progress with_reducible apply Kept.upd

theorem State.memoryRead_kept {s : State}
    (hk : Kept A P s0 s) {m : MemMaster} {memid row off n upset : Nat} {verify dirty werr : Bool}
    (hA : ∀ a ∈ ([.pend, .le, .ecc, .cpc, .iog, .chan, .ingress] : List Area), a ∈ A)
    (hP : ∀ p ∈ ([.mem, .leMem, .resp, .out, .pw, .rcd, .cop, .ecc, .io, .eng, .pmg] : List Part), p ∈ P) :
    Kept A P s0 (State.memoryRead s m memid row off n upset verify dirty werr) := by
  unfold State.memoryRead
  repeat' first
    | with_reducible assumption | exact inA hA rfl | exact subA hA rfl | exact .inl (inP hP rfl) | exact subP hP rfl
    | with_reducible first
      | intro _ | apply State.answer_kept | apply State.readRow_kept | apply State.readStopped_kept | apply Kept.ite
      | refine Kept.snd ?_ (by assumption) | refine Kept.fst ?_ (by assumption) | split | split | dsimp only

theorem execMemoryRead_kept {s : State}
    (hk : Kept A P s0 s) {m : MemMaster} {memid : Fin 8} {row : Nat} {off : Fin 32} {n : Fin 33} {upset : BitVec 352} {verify dirty werr : Bool} {t : Nat} (hA : ∀ a ∈ ([.pend, .le, .ecc, .cpc, .iog, .chan, .ingress] : List Area), a ∈ A) (hP : ∀ p ∈ ([.now, .mem, .leMem, .resp, .out, .pw, .rcd, .cop, .ecc, .io, .eng, .pmg] : List Part), p ∈ P) :
    KeptOut A P s0 (execMemoryRead m memid row off n upset verify dirty werr t s) := by
  unfold execMemoryRead
  repeat' first
    | with_reducible assumption | exact inA hA rfl | exact subA hA rfl | exact .inl (inP hP rfl) | exact subP hP rfl
    | with_reducible first
      | intro _ | apply KeptOut.next | apply State.begin_kept | apply State.memoryRead_kept | dsimp only

theorem State.evictPoison_kept {s : State} (hk : Kept A P s0 s) {memid row : Nat}
    (hP : ∀ p ∈ ([.ecc] : List Part), p ∈ P) :
    Kept A P s0 (State.evictPoison s memid row) := by
  unfold State.evictPoison
  repeat' first
    | with_reducible assumption | exact .inl (inP hP rfl) | exact subP hP rfl | with_reducible exact rfl
    | exact .inr rfl
    | with_reducible first
      | intro _ | apply State.setErr_kept | split | dsimp only
    | fail_if_no_progress with_reducible apply Kept.upd

theorem State.memoryWrite_kept {s : State}
    (hk : Kept A P s0 s) {m : MemMaster} {a : Nat} {bs : List Byte} {poison : Bool} {upset : Nat} {verify werr : Bool} (hA : ∀ a ∈ ([.pend, .le, .ecc, .cpc, .iog, .chan, .cvu, .ingress] : List Area), a ∈ A) (hP : ∀ p ∈ ([.mem, .leMem, .resp, .out, .pw, .rcd, .cop, .ecc, .io, .eng, .cvu, .pmg] : List Part), p ∈ P) :
    Kept A P s0 (State.memoryWrite s m a bs poison upset verify werr) := by
  unfold State.memoryWrite
  repeat' first
    | with_reducible assumption | exact inA hA rfl | exact subA hA rfl | exact .inl (inP hP rfl) | exact subP hP rfl
    | with_reducible exact rfl | exact .inr rfl
    | with_reducible first
      | intro _ | apply State.answer_kept | apply State.evictPoison_kept | apply State.readRow_kept
      | apply State.seeRows_kept | apply State.settleRows_kept | apply State.store_kept
      | apply State.writeStopped_kept | apply Kept.ite | refine Kept.snd ?_ (by assumption)
      | refine Kept.fst ?_ (by assumption) | split | split | dsimp only
    | fail_if_no_progress with_reducible apply Kept.upd

theorem execMemoryWrite_kept {s : State}
    (hk : Kept A P s0 s) {m : MemMaster} {addr : BitVec 36} {bs : List Byte} {poison : Bool} {upset : BitVec 352} {verify werr : Bool} {t : Nat} (hA : ∀ a ∈ ([.pend, .le, .ecc, .cpc, .iog, .chan, .cvu, .ingress] : List Area), a ∈ A) (hP : ∀ p ∈ ([.now, .mem, .leMem, .resp, .out, .pw, .rcd, .cop, .ecc, .io, .eng, .cvu, .pmg] : List Part), p ∈ P) :
    KeptOut A P s0 (execMemoryWrite m addr bs poison upset verify werr t s) := by
  unfold execMemoryWrite
  repeat' first
    | with_reducible assumption | exact inA hA rfl | exact subA hA rfl | exact .inl (inP hP rfl) | exact subP hP rfl
    | with_reducible first
      | intro _ | apply KeptOut.next | apply State.begin_kept | apply State.memoryWrite_kept | dsimp only

theorem State.laneJudged_kept {s : State} (hk : Kept A P s0 s) {fail0 : Nat} {werr : Bool}
    (hA : ∀ a ∈ ([.std, .pend, .le, .cpc, .ingress, .bist] : List Area), a ∈ A)
    (hP : ∀ p ∈ ([.pw, .rcd, .cop, .cnp] : List Part), p ∈ P) :
    Kept A P s0 (State.laneJudged s fail0 werr) := by
  unfold State.laneJudged
  repeat' first
    | with_reducible assumption | exact inA hA rfl | exact subA hA rfl | exact .inl (inP hP rfl) | exact subP hP rfl
    | with_reducible exact rfl | exact .inr rfl
    | with_reducible first
      | intro _ | apply State.coppiceEnds_kept | apply State.laneFailed_kept | apply State.lanePassed_kept
      | apply Kept.ite | apply Kept.foldl | dsimp only
    | fail_if_no_progress with_reducible apply Kept.upd

/-! ### Machine/Bist.lean -/

set_option maxHeartbeats 1000000 in
theorem State.lanesAfter_kept {s : State} (hk : Kept A P s0 s) {e : Nat}
    (hA : ∀ a ∈ ([.pend, .le, .iog, .chan, .ingress] : List Area), a ∈ A)
    (hP : ∀ p ∈ ([.out, .pw, .rcd, .io, .eng, .pmg] : List Part), p ∈ P) :
    Kept A P s0 (State.lanesAfter s e) := by
  unfold State.lanesAfter
  repeat' first
    | with_reducible assumption | exact inA hA rfl | exact subA hA rfl | exact .inl (inP hP rfl) | exact subP hP rfl
    | with_reducible exact rfl | exact .inr rfl
    | with_reducible first
      | intro _ | refine State.formLanes_kept ?_ (by assumption) ?_ ?_ | apply State.leIdle_kept
      | apply State.poolEmpty_kept | apply State.publishInvalid_kept | apply State.settleOwner_kept
      | apply State.wr_kept | apply Kept.ite | split | dsimp only
    | fail_if_no_progress with_reducible apply Kept.upd

theorem State.bistRunDone_kept {s : State}
    (hk : Kept A P s0 s) {fail0 fail1 sig len : Nat} {rows : List (Nat × Nat)} {noRes : List Nat} {werr : Bool}
    (hA : ∀ a ∈ ([.std, .pend, .le, .ecc, .cpc, .iog, .chan, .cnp, .ust, .cvu, .ingress, .bist] : List Area), a ∈ A) (hP : ∀ p ∈ ([.mem, .leMem, .out, .fresh, .pw, .rcd, .std, .cop, .ecc, .io, .eng, .cnp, .cvu, .ust, .pmg] : List Part), p ∈ P) :
    Kept A P s0 (State.bistRunDone s fail0 fail1 sig len rows noRes werr) := by
  unfold State.bistRunDone
  repeat' first
    | with_reducible assumption | exact inA hA rfl | exact subA hA rfl | exact .inl (inP hP rfl) | exact subP hP rfl
    | with_reducible exact rfl | exact .inr rfl
    | with_reducible first
      | intro _ | apply State.bistDone_kept | apply State.laneJudged_kept | apply State.lanesAfter_kept
      | apply Kept.ite | apply Kept.foldl | split | dsimp only
    | fail_if_no_progress with_reducible apply Kept.upd

theorem execBistRunDone_kept {s : State}
    (hk : Kept A P s0 s) {fail0 fail1 : BitVec 32} {sig : BitVec 64} {len : Nat} {rows : List (Nat × Nat)} {noRes : List Nat} {werr : Bool} {t : Nat} (hA : ∀ a ∈ ([.std, .pend, .le, .ecc, .cpc, .iog, .chan, .cnp, .ust, .cvu, .ingress, .bist] : List Area), a ∈ A) (hP : ∀ p ∈ ([.now, .mem, .leMem, .resp, .out, .fresh, .pw, .rcd, .std, .cop, .ecc, .io, .eng, .cnp, .cvu, .ust, .pmg] : List Part), p ∈ P) :
    KeptOut A P s0 (execBistRunDone fail0 fail1 sig len rows noRes werr t s) := by
  unfold execBistRunDone
  repeat' first
    | with_reducible assumption | exact inA hA rfl | exact subA hA rfl | exact .inl (inP hP rfl) | exact subP hP rfl
    | with_reducible first
      | intro _ | apply KeptOut.next | apply State.begin_kept | apply State.bistRunDone_kept | dsimp only

end Sys2Proof.Machine
end

