-- ==== Sys2Proof/Laws/KeptAccess.lean ====
section
/-!
SUPPORT. What each operation keeps (`Kept`), one lemma an operation: firmware update, stands, register and debug accesses.
-/

namespace Sys2Proof.Machine

set_option linter.all false
-- one proof at a time: the package is compiled as one file, in bounded memory
set_option Elab.async false

variable {A : List Area} {P : List Part} {s0 : State}

/-! ### Machine/Firmware.lean -/

theorem State.fwuFail_kept {s : State} (hk : Kept A P s0 s) {err : Nat}
    (hA : ∀ a ∈ ([.pend, .fwu] : List Area), a ∈ A) :
    Kept A P s0 (State.fwuFail s err) := by
  unfold State.fwuFail
  repeat' first
    | with_reducible assumption | exact inA hA rfl | exact subA hA rfl
    | with_reducible first
      | intro _ | apply State.bump_kept | apply State.raise_kept | apply State.wr_kept | apply Kept.ite | dsimp only

theorem State.fwuDone_kept {s : State} (hk : Kept A P s0 s) (hA : ∀ a ∈ ([.pend, .fwu] : List Area), a ∈ A) :
    Kept A P s0 (State.fwuDone s) := by
  unfold State.fwuDone
  repeat' first
    | with_reducible assumption | exact inA hA rfl | exact subA hA rfl
    | with_reducible first
      | intro _ | apply State.raise_kept | apply State.wr_kept | dsimp only

theorem State.fwuBegin_kept {s : State} (hk : Kept A P s0 s) {op : Nat} {data : List Byte}
    (hA : ∀ a ∈ ([.fwu] : List Area), a ∈ A) (hP : ∀ p ∈ ([.fwu] : List Part), p ∈ P) :
    Kept A P s0 (State.fwuBegin s op data) := by
  unfold State.fwuBegin
  repeat' first
    | with_reducible assumption | exact inA hA rfl | exact subA hA rfl | exact .inl (inP hP rfl) | exact subP hP rfl
    | with_reducible exact rfl | exact .inr rfl
    | with_reducible first
      | intro _ | apply State.wr_kept | dsimp only
    | fail_if_no_progress with_reducible apply Kept.upd

theorem State.fwuCommand_kept {s : State} (hk : Kept A P s0 s) {hart op : Nat} {f : State → State}
    (hf : ∀ u, Kept A P s0 u → Kept A P s0 (f u)) (hA : ∀ a ∈ ([.pend, .fwu] : List Area), a ∈ A)
    (hP : ∀ p ∈ ([.resp] : List Part), p ∈ P) :
    Kept A P s0 (State.fwuCommand s hart op f) := by
  unfold State.fwuCommand
  repeat' first
    | with_reducible assumption
    | exact inA hA rfl | exact subA hA rfl | exact .inl (inP hP rfl) | exact subP hP rfl | with_reducible exact rfl
    | exact .inr rfl
    | with_reducible intro _
    | with_reducible apply State.fwuFail_kept
    | with_reducible apply hf
    | with_reducible apply State.answer_kept
    | with_reducible apply State.wr_kept
    | with_reducible apply Kept.ite

theorem State.fwuIn_kept {s : State} (hk : Kept A P s0 s) {sts : List Nat} {f : State → State}
    (hf : ∀ u, Kept A P s0 u → Kept A P s0 (f u)) (hA : ∀ a ∈ ([.pend, .fwu] : List Area), a ∈ A) :
    Kept A P s0 (State.fwuIn s sts f) := by
  unfold State.fwuIn
  repeat' first
    | with_reducible assumption
    | exact inA hA rfl | exact subA hA rfl | with_reducible exact rfl | exact .inr rfl
    | with_reducible intro _
    | with_reducible apply State.fwuFail_kept
    | with_reducible apply hf
    | with_reducible apply Kept.ite

theorem State.fwuRange_kept {s : State} (hk : Kept A P s0 s) {n : Nat} {f : State → State}
    (hf : ∀ u, Kept A P s0 u → Kept A P s0 (f u)) (hA : ∀ a ∈ ([.pend, .fwu] : List Area), a ∈ A)
    (hP : ∀ p ∈ ([.fresh] : List Part), p ∈ P) : Kept A P s0 (State.fwuRange s n f) := by
  unfold State.fwuRange
  repeat' first
    | with_reducible assumption
    | exact inA hA rfl | exact subA hA rfl | exact .inl (inP hP rfl) | exact subP hP rfl | with_reducible exact rfl
    | exact .inr rfl
    | with_reducible intro _
    | with_reducible apply State.fwuFail_kept
    | with_reducible apply State.free_kept
    | with_reducible apply hf
    | with_reducible apply Kept.ite
    | with_reducible dsimp only

theorem State.fwuSource_kept {s : State} (hk : Kept A P s0 s) {n : Nat} {act : State → List Byte → State}
    (hf : ∀ u bs, Kept A P s0 u → Kept A P s0 (act u bs)) (hA : ∀ a ∈ ([.pend, .ecc, .cpc, .ingress, .fwu] : List Area), a ∈ A)
    (hP : ∀ p ∈ ([.mem, .leMem, .fresh, .pw, .rcd, .cop, .ecc] : List Part), p ∈ P) : Kept A P s0 (State.fwuSource s n act) := by
  unfold State.fwuSource
  refine State.fwuRange_kept hk (fun u hu => ?_) (subA hA rfl) (subP hP rfl)
  repeat' first
    | with_reducible assumption
    | exact inA hA rfl | exact subA hA rfl | exact .inl (inP hP rfl) | exact subP hP rfl | with_reducible exact rfl
    | exact .inr rfl
    | with_reducible intro _
    | with_reducible apply State.fwuFail_kept
    | with_reducible apply State.seeRange_kept
    | with_reducible apply hf
    | with_reducible apply Kept.ite
    | with_reducible dsimp only

theorem State.fwOpenBegin_kept {s : State} (hk : Kept A P s0 s) {h : List Byte}
    (hA : ∀ a ∈ ([.fwu] : List Area), a ∈ A) (hP : ∀ p ∈ ([.fwu] : List Part), p ∈ P) :
    Kept A P s0 (State.fwOpenBegin s h) := by
  unfold State.fwOpenBegin
  repeat' first
    | with_reducible assumption | exact inA hA rfl | exact subA hA rfl | exact .inl (inP hP rfl) | exact subP hP rfl
    | with_reducible first
      | intro _ | apply State.fwuBegin_kept | apply State.setSlot_kept | apply Kept.ite | dsimp only

theorem execFwOpen_kept {s : State} (hk : Kept A P s0 s) {hart : Fin 12} {t : Nat}
    (hA : ∀ a ∈ ([.pend, .ecc, .cpc, .ingress, .fwu] : List Area), a ∈ A)
    (hP : ∀ p ∈ ([.now, .mem, .leMem, .resp, .out, .fresh, .pw, .rcd, .cop, .ecc, .fwu] : List Part), p ∈ P) :
    KeptOut A P s0 (execFwOpen hart t s) := by
  unfold execFwOpen
  repeat' first
    | with_reducible assumption | exact inA hA rfl | exact subA hA rfl | exact .inl (inP hP rfl) | exact subP hP rfl
    | with_reducible first
      | intro _ | apply KeptOut.next | apply State.begin_kept | apply State.fwOpenBegin_kept
      | apply State.fwuCommand_kept | apply State.fwuFail_kept | apply State.fwuSource_kept | apply Kept.ite
      | apply KeptOut.ite | dsimp only

theorem execFwPiece_kept {s : State} (hk : Kept A P s0 s) {hart : Fin 12} {t : Nat}
    (hA : ∀ a ∈ ([.pend, .ecc, .cpc, .ingress, .fwu] : List Area), a ∈ A)
    (hP : ∀ p ∈ ([.now, .mem, .leMem, .resp, .out, .fresh, .pw, .rcd, .cop, .ecc, .fwu] : List Part), p ∈ P) :
    KeptOut A P s0 (execFwPiece hart t s) := by
  unfold execFwPiece
  repeat' first
    | with_reducible assumption | exact inA hA rfl | exact subA hA rfl | exact .inl (inP hP rfl) | exact subP hP rfl
    | with_reducible first
      | intro _ | apply KeptOut.next | apply State.begin_kept | apply State.fwuBegin_kept
      | apply State.fwuCommand_kept | apply State.fwuIn_kept | apply State.fwuSource_kept | dsimp only

theorem execFwAbandon_kept {s : State} (hk : Kept A P s0 s) {hart : Fin 12} {t : Nat}
    (hA : ∀ a ∈ ([.pend, .fwu] : List Area), a ∈ A) (hP : ∀ p ∈ ([.now, .resp, .out, .fwu] : List Part), p ∈ P) :
    KeptOut A P s0 (execFwAbandon hart t s) := by
  unfold execFwAbandon
  repeat' first
    | with_reducible assumption | exact inA hA rfl | exact subA hA rfl | exact .inl (inP hP rfl) | exact subP hP rfl
    | with_reducible first
      | intro _ | apply KeptOut.next | apply State.begin_kept | apply State.fwuBegin_kept
      | apply State.fwuCommand_kept | apply State.fwuIn_kept | dsimp only

theorem execFwPrepare_kept {s : State} (hk : Kept A P s0 s) {hart : Fin 12} {t : Nat}
    (hA : ∀ a ∈ ([.pend, .fwu] : List Area), a ∈ A) (hP : ∀ p ∈ ([.now, .resp, .out, .fwu] : List Part), p ∈ P) :
    KeptOut A P s0 (execFwPrepare hart t s) := by
  unfold execFwPrepare
  repeat' first
    | with_reducible assumption | exact inA hA rfl | exact subA hA rfl | exact .inl (inP hP rfl) | exact subP hP rfl
    | with_reducible first
      | intro _ | apply KeptOut.next | apply State.begin_kept | apply State.fwuBegin_kept
      | apply State.fwuCommand_kept | apply State.fwuIn_kept | dsimp only

theorem execFwConfirm_kept {s : State} (hk : Kept A P s0 s) {hart : Fin 12} {t : Nat}
    (hA : ∀ a ∈ ([.pend, .fwu] : List Area), a ∈ A) (hP : ∀ p ∈ ([.now, .resp, .out, .fwu] : List Part), p ∈ P) :
    KeptOut A P s0 (execFwConfirm hart t s) := by
  unfold execFwConfirm
  repeat' first
    | with_reducible assumption | exact inA hA rfl | exact subA hA rfl | exact .inl (inP hP rfl) | exact subP hP rfl
    | with_reducible first
      | intro _ | apply KeptOut.next | apply State.begin_kept | apply State.fwuBegin_kept
      | apply State.fwuCommand_kept | apply State.fwuFail_kept | apply Kept.ite | apply KeptOut.ite | dsimp only

theorem execFwBitmap_kept {s : State} (hk : Kept A P s0 s) {hart : Fin 12} {t : Nat}
    (hA : ∀ a ∈ ([.pend, .fwu] : List Area), a ∈ A)
    (hP : ∀ p ∈ ([.now, .resp, .out, .fresh, .fwu] : List Part), p ∈ P) :
    KeptOut A P s0 (execFwBitmap hart t s) := by
  unfold execFwBitmap
  repeat' first
    | with_reducible assumption | exact inA hA rfl | exact subA hA rfl | exact .inl (inP hP rfl) | exact subP hP rfl
    | with_reducible first
      | intro _ | apply KeptOut.next | apply State.begin_kept | apply State.fwuBegin_kept
      | apply State.fwuCommand_kept | apply State.fwuIn_kept | apply State.fwuRange_kept | dsimp only

theorem execFwSeedling_kept {s : State} (hk : Kept A P s0 s) {hart : Fin 12} {t : Nat} (hA : ∀ a ∈ allAreas, a ∈ A)
    (hP : ∀ p ∈ ([.now, .mem, .leMem, .resp, .out, .fresh, .pw, .rcd, .std, .lko, .dbg, .cop, .ecc, .io, .eng, .key, .cnp, .fab, .cvu, .rwy, .ust, .fwu, .pmg] : List Part), p ∈ P) :
    KeptOut A P s0 (execFwSeedling hart t s) := by
  unfold execFwSeedling
  repeat' first
    | with_reducible assumption | exact inA hA rfl | exact subA hA rfl | exact .inl (inP hP rfl) | exact subP hP rfl
    | with_reducible exact rfl | exact .inr rfl
    | with_reducible first
      | intro _ | apply KeptOut.next | apply State.begin_kept | apply State.fwuCommand_kept | apply State.fwuFail_kept
      | apply State.moduleReset_kept | apply Kept.ite | apply KeptOut.ite | dsimp only
    | fail_if_no_progress with_reducible apply Kept.upd

theorem execFwUnprepare_kept {s : State} (hk : Kept A P s0 s) {hart : Fin 12} {t : Nat}
    (hA : ∀ a ∈ ([.pend, .fwu] : List Area), a ∈ A) (hP : ∀ p ∈ ([.now, .resp, .out, .fwu] : List Part), p ∈ P) :
    KeptOut A P s0 (execFwUnprepare hart t s) := by
  unfold execFwUnprepare
  repeat' first
    | with_reducible assumption | exact inA hA rfl | exact subA hA rfl | exact .inl (inP hP rfl) | exact subP hP rfl
    | with_reducible first
      | intro _ | apply KeptOut.next | apply State.begin_kept | apply State.fwuBegin_kept
      | apply State.fwuCommand_kept | apply State.fwuIn_kept | dsimp only

theorem State.pauseBegins_kept {s : State} (hk : Kept A P s0 s)
    (hA : ∀ a ∈ ([.std, .lko, .iog, .chan] : List Area), a ∈ A)
    (hP : ∀ p ∈ ([.out, .pw, .std, .lko, .io, .fwu] : List Part), p ∈ P) :
    Kept A P s0 (State.pauseBegins s) := by
  unfold State.pauseBegins
  repeat' first
    | with_reducible assumption | exact inA hA rfl | exact subA hA rfl | exact .inl (inP hP rfl) | exact subP hP rfl
    | with_reducible exact rfl | exact .inr rfl
    | with_reducible first
      | intro _ | apply State.request_kept | apply State.setStand_kept | apply State.settleStand_kept
      | apply State.syncSafe_kept | apply State.wr_kept | apply Kept.foldl | dsimp only
    | fail_if_no_progress with_reducible apply Kept.upd

theorem State.reform_kept {s : State} (hk : Kept A P s0 s) {k : Nat}
    (hA : ∀ a ∈ ([.unit, .std, .pend, .iog, .chan] : List Area), a ∈ A)
    (hP : ∀ p ∈ ([.out, .std, .cop, .io] : List Part), p ∈ P) :
    Kept A P s0 (State.reform s k) := by
  unfold State.reform
  repeat' first
    | with_reducible assumption | exact inA hA rfl | exact subA hA rfl | exact .inl (inP hP rfl) | exact subP hP rfl
    | exact fun a h => mem_of_inArea hA h (hm := rfl) | exact fun a _ => hA _ (mem_allAreas _)
    | exact fun a h => mem_of_or hA (standAddr_area h) (hx := rfl) (hy := rfl)
    | with_reducible first
      | intro _ | apply State.form_kept | apply State.raise_kept | apply State.restore_kept
      | apply State.setStand_kept | apply State.settleStand_kept | apply State.syncSafe_kept | apply State.wr_kept
      | apply State.wr64_kept | apply Kept.ite | apply Kept.foldl | dsimp only

theorem State.activates_kept {s : State} (hk : Kept A P s0 s) {z : FwPause}
    (hA : ∀ a ∈ ([.unit, .std, .pend, .cpc, .iog, .chan, .ingress, .fwu] : List Area), a ∈ A)
    (hP : ∀ p ∈ ([.out, .pw, .rcd, .std, .cop, .io, .fwu] : List Part), p ∈ P) :
    Kept A P s0 (State.activates s z) := by
  unfold State.activates
  repeat' first
    | with_reducible assumption | exact inA hA rfl | exact subA hA rfl | exact .inl (inP hP rfl) | exact subP hP rfl
    | with_reducible exact rfl | exact .inr rfl
    | with_reducible first
      | intro _ | apply State.fwuDone_kept | apply State.record_kept | apply State.reform_kept
      | apply State.setSlot_kept | apply State.slotTo_kept | apply State.syncCores_kept | apply State.wr_kept
      | apply Kept.foldl | dsimp only
    | fail_if_no_progress with_reducible apply Kept.upd

theorem execFwActivate_kept {s : State} (hk : Kept A P s0 s) {hart : Fin 12} {t : Nat}
    (hA : ∀ a ∈ ([.std, .pend, .lko, .iog, .chan, .fwu] : List Area), a ∈ A)
    (hP : ∀ p ∈ ([.now, .resp, .out, .pw, .std, .lko, .io, .fwu] : List Part), p ∈ P) :
    KeptOut A P s0 (execFwActivate hart t s) := by
  unfold execFwActivate
  repeat' first
    | with_reducible assumption | exact inA hA rfl | exact subA hA rfl | exact .inl (inP hP rfl) | exact subP hP rfl
    | with_reducible first
      | intro _ | apply KeptOut.next | apply State.begin_kept | apply State.fwuBegin_kept
      | apply State.fwuCommand_kept | apply State.fwuFail_kept | apply State.pauseBegins_kept | apply Kept.ite
      | apply KeptOut.ite | dsimp only

theorem State.activateGoes_kept {s : State} (hk : Kept A P s0 s) {r : FwRun}
    (hA : ∀ a ∈ ([.unit, .std, .pend, .lko, .cpc, .iog, .chan, .ingress, .fwu] : List Area), a ∈ A)
    (hP : ∀ p ∈ ([.out, .pw, .rcd, .std, .lko, .cop, .io, .fwu] : List Part), p ∈ P) :
    Kept A P s0 (State.activateGoes s r) := by
  unfold State.activateGoes
  repeat' first
    | with_reducible assumption | exact inA hA rfl | exact subA hA rfl | exact .inl (inP hP rfl) | exact subP hP rfl
    | with_reducible exact rfl | exact .inr rfl
    | with_reducible first
      | intro _ | apply State.activates_kept | apply State.fwuFail_kept | apply State.pauseBegins_kept
      | apply State.wr_kept | apply Kept.ite | split | dsimp only
    | fail_if_no_progress with_reducible apply Kept.upd

theorem State.slotWhole_kept {s : State} (hk : Kept A P s0 s) {k : Nat}
    (hA : ∀ a ∈ ([.pend, .fwu] : List Area), a ∈ A) (hP : ∀ p ∈ ([.fwu] : List Part), p ∈ P) :
    Kept A P s0 (State.slotWhole s k) := by
  unfold State.slotWhole
  repeat' first
    | with_reducible assumption | exact inA hA rfl | exact subA hA rfl | exact .inl (inP hP rfl) | exact subP hP rfl
    | with_reducible first
      | intro _ | apply State.raise_kept | apply State.slotTo_kept | apply Kept.ite | dsimp only

theorem State.commitPiece_kept {s : State} (hk : Kept A P s0 s) {k : Nat} {r : List Byte} {nandBad : Bool}
    (hA : ∀ a ∈ ([.pend, .fwu] : List Area), a ∈ A) (hP : ∀ p ∈ ([.fwu] : List Part), p ∈ P) :
    Kept A P s0 (State.commitPiece s k r nandBad).2 := by
  unfold State.commitPiece
  repeat' first
    | with_reducible assumption | exact inA hA rfl | exact subA hA rfl | exact .inl (inP hP rfl) | exact subP hP rfl
    | with_reducible exact rfl | exact .inr rfl
    | with_reducible first
      | intro _ | apply State.setSlot_kept | apply State.slotWhole_kept | apply Kept.ite | split | dsimp only
    | fail_if_no_progress with_reducible apply Kept.upd

theorem State.prepared_kept {s : State} (hk : Kept A P s0 s) {k : Nat}
    (hA : ∀ a ∈ ([.pend, .ecc, .cvu, .ingress, .fwu] : List Area), a ∈ A)
    (hP : ∀ p ∈ ([.mem, .pw, .rcd, .ecc, .cvu, .fwu] : List Part), p ∈ P) :
    Kept A P s0 (State.prepared s k).2 := by
  unfold State.prepared
  repeat' first
    | with_reducible assumption | exact inA hA rfl | exact subA hA rfl | exact .inl (inP hP rfl) | exact subP hP rfl
    | with_reducible exact rfl | exact .inr rfl
    | with_reducible first
      | intro _ | apply State.loadRegion_kept | apply State.slotTo_kept | split | split | dsimp only
    | fail_if_no_progress with_reducible apply Kept.upd

theorem State.confirmed_kept {s : State} (hk : Kept A P s0 s) (hA : ∀ a ∈ ([.fwu] : List Area), a ∈ A)
    (hP : ∀ p ∈ ([.fwu] : List Part), p ∈ P) :
    Kept A P s0 (State.confirmed s) := by
  unfold State.confirmed
  repeat' first
    | with_reducible assumption | exact inA hA rfl | exact subA hA rfl | exact .inl (inP hP rfl) | exact subP hP rfl
    | with_reducible first
      | intro _ | apply State.slotTo_kept | apply State.wr_kept | apply Kept.ite | dsimp only

theorem State.fwuEnds_kept {s : State} (hk : Kept A P s0 s) {r : FwRun} {nandBad : Bool}
    (hA : ∀ a ∈ ([.pend, .ecc, .cpc, .cvu, .ingress, .fwu] : List Area), a ∈ A)
    (hP : ∀ p ∈ ([.mem, .leMem, .pw, .rcd, .cop, .ecc, .cvu, .fwu] : List Part), p ∈ P) :
    Kept A P s0 (State.fwuEnds s r nandBad).2 := by
  unfold State.fwuEnds
  repeat' first
    | with_reducible assumption | exact inA hA rfl | exact subA hA rfl | exact .inl (inP hP rfl) | exact subP hP rfl
    | with_reducible exact rfl | exact .inr rfl
    | with_reducible first
      | intro _ | apply State.commitPiece_kept | apply State.confirmed_kept | apply State.mergeStore_kept
      | apply State.prepared_kept | apply State.raise_kept | apply State.setSlot_kept | apply State.slotTo_kept
      | apply Kept.ite | refine Kept.snd ?_ (by assumption) | refine Kept.fst ?_ (by assumption) | split | split
      | dsimp only
    | fail_if_no_progress with_reducible apply Kept.upd

theorem State.fwuCommandDone_kept {s : State} (hk : Kept A P s0 s) {nandBad : Bool}
    (hA : ∀ a ∈ ([.unit, .std, .pend, .lko, .ecc, .cpc, .iog, .chan, .cvu, .ingress, .fwu] : List Area), a ∈ A)
    (hP : ∀ p ∈ ([.mem, .leMem, .out, .pw, .rcd, .std, .lko, .cop, .ecc, .io, .cvu, .fwu] : List Part), p ∈ P) :
    Kept A P s0 (State.fwuCommandDone s nandBad) := by
  unfold State.fwuCommandDone
  repeat' first
    | with_reducible assumption | exact inA hA rfl | exact subA hA rfl | exact .inl (inP hP rfl) | exact subP hP rfl
    | with_reducible exact rfl | exact .inr rfl
    | with_reducible first
      | intro _ | apply State.activateGoes_kept | apply State.fwuDone_kept | apply State.fwuEnds_kept
      | apply State.fwuFail_kept | apply State.wr_kept | apply Kept.ite | refine Kept.snd ?_ (by assumption)
      | refine Kept.fst ?_ (by assumption) | split | split | dsimp only
    | fail_if_no_progress with_reducible apply Kept.upd

theorem execFwuCommandDone_kept {s : State} (hk : Kept A P s0 s) {nandBad : Bool} {t : Nat}
    (hA : ∀ a ∈ ([.unit, .std, .pend, .lko, .ecc, .cpc, .iog, .chan, .cvu, .ingress, .fwu] : List Area), a ∈ A)
    (hP : ∀ p ∈ ([.now, .mem, .leMem, .resp, .out, .pw, .rcd, .std, .lko, .cop, .ecc, .io, .cvu, .fwu] : List Part), p ∈ P) :
    KeptOut A P s0 (execFwuCommandDone nandBad t s) := by
  unfold execFwuCommandDone
  repeat' first
    | with_reducible assumption | exact inA hA rfl | exact subA hA rfl | exact .inl (inP hP rfl) | exact subP hP rfl
    | with_reducible first
      | intro _ | apply KeptOut.next | apply State.begin_kept | apply State.fwuCommandDone_kept | dsimp only

theorem State.pauseEnds_kept {s : State} (hk : Kept A P s0 s) (hA : ∀ a ∈ ([.pend, .fwu] : List Area), a ∈ A)
    (hP : ∀ p ∈ ([.fwu] : List Part), p ∈ P) :
    Kept A P s0 (State.pauseEnds s) := by
  unfold State.pauseEnds
  repeat' first
    | with_reducible assumption | exact inA hA rfl | exact subA hA rfl | exact .inl (inP hP rfl) | exact subP hP rfl
    | with_reducible exact rfl | exact .inr rfl
    | with_reducible first
      | intro _ | apply State.maxWr_kept | apply State.raise_kept | apply State.wr_kept | split | dsimp only
    | fail_if_no_progress with_reducible apply Kept.upd

theorem State.fwSend_kept {s : State} (hk : Kept A P s0 s) {x3 : Bool} {dest : Nat} {payload : List Byte}
    (hA : ∀ a ∈ ([.pend, .cnp, .cvu, .ingress] : List Area), a ∈ A)
    (hP : ∀ p ∈ ([.out, .pw, .rcd, .cnp, .fab, .cvu, .rwy] : List Part), p ∈ P) :
    Kept A P s0 (State.fwSend s x3 dest payload) := by
  unfold State.fwSend
  repeat' first
    | with_reducible assumption | exact inA hA rfl | exact subA hA rfl | exact .inl (inP hP rfl) | exact subP hP rfl
    | with_reducible first
      | intro _ | apply State.emit_kept | apply State.sendEtBoth_kept | apply Kept.ite | dsimp only

theorem State.serveCount_kept {s : State} (hk : Kept A P s0 s) (hA : ∀ a ∈ ([.pend, .fwu] : List Area), a ∈ A)
    (hP : ∀ p ∈ ([.fwu] : List Part), p ∈ P) :
    Kept A P s0 (State.serveCount s) := by
  unfold State.serveCount
  repeat' first
    | with_reducible assumption | exact inA hA rfl | exact subA hA rfl | exact .inl (inP hP rfl) | exact subP hP rfl
    | with_reducible exact rfl | exact .inr rfl
    | with_reducible first
      | intro _ | apply State.bump_kept | apply State.raise_kept | apply Kept.ite | dsimp only
    | fail_if_no_progress with_reducible apply Kept.upd

theorem State.fwSendData_kept {s : State}
    (hk : Kept A P s0 s) {x3 : Bool} {dest serial index : Nat} {bytes : List Byte}
    (hA : ∀ a ∈ ([.pend, .cnp, .cvu, .ingress] : List Area), a ∈ A)
    (hP : ∀ p ∈ ([.out, .pw, .rcd, .cnp, .fab, .cvu, .rwy] : List Part), p ∈ P) :
    Kept A P s0 (State.fwSendData s x3 dest serial index bytes) := by
  unfold State.fwSendData
  repeat' first
    | with_reducible assumption | exact inA hA rfl | exact subA hA rfl | exact .inl (inP hP rfl) | exact subP hP rfl
    | with_reducible first
      | intro _ | apply State.fwSend_kept | apply Kept.foldl | dsimp only

theorem State.fwHello_kept {s : State} (hk : Kept A P s0 s) {x3 : Bool} {f : List Byte}
    (hA : ∀ a ∈ ([.pend, .cnp, .cvu, .ingress] : List Area), a ∈ A)
    (hP : ∀ p ∈ ([.out, .pw, .rcd, .cnp, .fab, .cvu, .rwy, .fwu] : List Part), p ∈ P) :
    Kept A P s0 (State.fwHello s x3 f) := by
  unfold State.fwHello
  repeat' first
    | with_reducible assumption | exact inA hA rfl | exact subA hA rfl | exact .inl (inP hP rfl) | exact subP hP rfl
    | with_reducible exact rfl | exact .inr rfl
    | with_reducible first
      | intro _ | apply State.fwSend_kept | apply Kept.ite | split | dsimp only
    | fail_if_no_progress with_reducible apply Kept.upd

theorem execFwHello_kept {s : State} (hk : Kept A P s0 s) {x3 : Bool} {frame : List Byte} {t : Nat}
    (hA : ∀ a ∈ ([.pend, .cnp, .cvu, .ingress] : List Area), a ∈ A)
    (hP : ∀ p ∈ ([.now, .resp, .out, .pw, .rcd, .cnp, .fab, .cvu, .rwy, .fwu] : List Part), p ∈ P) :
    KeptOut A P s0 (execFwHello x3 frame t s) := by
  unfold execFwHello
  repeat' first
    | with_reducible assumption | exact inA hA rfl | exact subA hA rfl | exact .inl (inP hP rfl) | exact subP hP rfl
    | with_reducible first
      | intro _ | apply KeptOut.next | apply State.begin_kept | apply State.fwHello_kept | dsimp only

theorem State.fwGet_kept {s : State} (hk : Kept A P s0 s) {x3 : Bool} {f : List Byte}
    (hA : ∀ a ∈ ([.pend, .cnp, .cvu, .ingress, .fwu] : List Area), a ∈ A)
    (hP : ∀ p ∈ ([.out, .pw, .rcd, .cnp, .fab, .cvu, .rwy, .fwu] : List Part), p ∈ P) :
    Kept A P s0 (State.fwGet s x3 f) := by
  unfold State.fwGet
  repeat' first
    | with_reducible assumption | exact inA hA rfl | exact subA hA rfl | exact .inl (inP hP rfl) | exact subP hP rfl
    | with_reducible exact rfl | exact .inr rfl
    | with_reducible first
      | intro _ | apply State.fwSend_kept | apply State.fwSendData_kept | apply State.serveCount_kept | apply Kept.ite
      | apply Kept.foldl | split | dsimp only
    | fail_if_no_progress with_reducible apply Kept.upd

theorem execFwGet_kept {s : State} (hk : Kept A P s0 s) {x3 : Bool} {frame : List Byte} {t : Nat}
    (hA : ∀ a ∈ ([.pend, .cnp, .cvu, .ingress, .fwu] : List Area), a ∈ A)
    (hP : ∀ p ∈ ([.now, .resp, .out, .pw, .rcd, .cnp, .fab, .cvu, .rwy, .fwu] : List Part), p ∈ P) :
    KeptOut A P s0 (execFwGet x3 frame t s) := by
  unfold execFwGet
  repeat' first
    | with_reducible assumption | exact inA hA rfl | exact subA hA rfl | exact .inl (inP hP rfl) | exact subP hP rfl
    | with_reducible first
      | intro _ | apply KeptOut.next | apply State.begin_kept | apply State.fwGet_kept | dsimp only

theorem State.setSeed_kept {s : State} (hk : Kept A P s0 s) {z : Seed} (hP : ∀ p ∈ ([.fwu] : List Part), p ∈ P) :
    Kept A P s0 (State.setSeed s z) := by
  unfold State.setSeed
  repeat' first
    | with_reducible assumption | exact .inl (inP hP rfl) | exact subP hP rfl | with_reducible exact rfl
    | exact .inr rfl
    | with_reducible first
      | intro _ | dsimp only
    | fail_if_no_progress with_reducible apply Kept.upd

theorem State.seedAnnounce_kept {s : State} (hk : Kept A P s0 s)
    (hA : ∀ a ∈ ([.pend, .cnp, .cvu, .ingress] : List Area), a ∈ A)
    (hP : ∀ p ∈ ([.out, .pw, .rcd, .cnp, .fab, .cvu, .rwy] : List Part), p ∈ P) :
    Kept A P s0 (State.seedAnnounce s) := by
  unfold State.seedAnnounce
  repeat' first
    | with_reducible assumption | exact inA hA rfl | exact subA hA rfl | exact .inl (inP hP rfl) | exact subP hP rfl
    | with_reducible first
      | intro _ | apply State.fwSend_kept | apply Kept.ite | dsimp only

theorem execSeedlingAnnounce_kept {s : State} (hk : Kept A P s0 s) {t : Nat}
    (hA : ∀ a ∈ ([.pend, .cnp, .cvu, .ingress] : List Area), a ∈ A)
    (hP : ∀ p ∈ ([.now, .resp, .out, .pw, .rcd, .cnp, .fab, .cvu, .rwy] : List Part), p ∈ P) :
    KeptOut A P s0 (execSeedlingAnnounce t s) := by
  unfold execSeedlingAnnounce
  repeat' first
    | with_reducible assumption | exact inA hA rfl | exact subA hA rfl | exact .inl (inP hP rfl) | exact subP hP rfl
    | with_reducible first
      | intro _ | apply KeptOut.next | apply State.begin_kept | apply State.seedAnnounce_kept | dsimp only

theorem State.seedGet_kept {s : State} (hk : Kept A P s0 s) {z : Seed} {first n : Nat}
    (hA : ∀ a ∈ ([.pend, .cnp, .cvu, .ingress] : List Area), a ∈ A)
    (hP : ∀ p ∈ ([.out, .pw, .rcd, .cnp, .fab, .cvu, .rwy, .fwu] : List Part), p ∈ P) :
    Kept A P s0 (State.seedGet s z first n) := by
  unfold State.seedGet
  repeat' first
    | with_reducible assumption | exact inA hA rfl | exact subA hA rfl | exact .inl (inP hP rfl) | exact subP hP rfl
    | with_reducible exact rfl | exact .inr rfl
    | with_reducible first
      | intro _ | apply State.fwSend_kept | apply State.setSeed_kept | apply Kept.ite | split | dsimp only
    | fail_if_no_progress with_reducible apply Kept.upd

theorem State.fwOffer_kept {s : State} (hk : Kept A P s0 s) {x3 : Bool} {f : List Byte}
    (hA : ∀ a ∈ ([.pend, .cnp, .cvu, .ingress] : List Area), a ∈ A)
    (hP : ∀ p ∈ ([.out, .pw, .rcd, .cnp, .fab, .cvu, .rwy, .fwu] : List Part), p ∈ P) :
    Kept A P s0 (State.fwOffer s x3 f) := by
  unfold State.fwOffer
  repeat' first
    | with_reducible assumption | exact inA hA rfl | exact subA hA rfl | exact .inl (inP hP rfl) | exact subP hP rfl
    | with_reducible exact rfl | exact .inr rfl
    | with_reducible first
      | intro _ | apply State.seedGet_kept | apply Kept.ite | split | dsimp only
    | fail_if_no_progress with_reducible apply Kept.upd

theorem execFwOffer_kept {s : State} (hk : Kept A P s0 s) {x3 : Bool} {frame : List Byte} {t : Nat}
    (hA : ∀ a ∈ ([.pend, .cnp, .cvu, .ingress] : List Area), a ∈ A)
    (hP : ∀ p ∈ ([.now, .resp, .out, .pw, .rcd, .cnp, .fab, .cvu, .rwy, .fwu] : List Part), p ∈ P) :
    KeptOut A P s0 (execFwOffer x3 frame t s) := by
  unfold execFwOffer
  repeat' first
    | with_reducible assumption | exact inA hA rfl | exact subA hA rfl | exact .inl (inP hP rfl) | exact subP hP rfl
    | with_reducible first
      | intro _ | apply KeptOut.next | apply State.begin_kept | apply State.fwOffer_kept | dsimp only

theorem State.seedAgain_kept {s : State} (hk : Kept A P s0 s) {z : Seed} (hP : ∀ p ∈ ([.fwu] : List Part), p ∈ P) :
    Kept A P s0 (State.seedAgain s z) := by
  unfold State.seedAgain
  repeat' first
    | with_reducible assumption | exact .inl (inP hP rfl) | exact subP hP rfl | with_reducible exact rfl
    | exact .inr rfl
    | with_reducible first
      | intro _ | apply State.setSeed_kept | dsimp only
    | fail_if_no_progress with_reducible apply Kept.upd

theorem State.seedWhole_kept {s : State} (hk : Kept A P s0 s) {z : Seed} (hA : ∀ a ∈ allAreas, a ∈ A)
    (hP : ∀ p ∈ ([.mem, .leMem, .out, .fresh, .pw, .rcd, .std, .lko, .dbg, .cop, .ecc, .io, .eng, .key, .cnp, .fab, .cvu, .rwy, .ust, .fwu, .pmg] : List Part), p ∈ P) :
    Kept A P s0 (State.seedWhole s z) := by
  unfold State.seedWhole
  repeat' first
    | with_reducible assumption | exact inA hA rfl | exact subA hA rfl | exact .inl (inP hP rfl) | exact subP hP rfl
    | with_reducible exact rfl | exact .inr rfl
    | with_reducible first
      | intro _ | apply State.moduleReset_kept | apply State.prepared_kept | apply State.seedAgain_kept
      | apply State.setSlot_kept | apply Kept.ite | refine Kept.snd ?_ (by assumption)
      | refine Kept.fst ?_ (by assumption) | split | split | dsimp only
    | fail_if_no_progress with_reducible apply Kept.upd

theorem State.seedNext_kept {s : State} (hk : Kept A P s0 s) {z : Seed} (hA : ∀ a ∈ allAreas, a ∈ A)
    (hP : ∀ p ∈ ([.mem, .leMem, .out, .fresh, .pw, .rcd, .std, .lko, .dbg, .cop, .ecc, .io, .eng, .key, .cnp, .fab, .cvu, .rwy, .ust, .fwu, .pmg] : List Part), p ∈ P) :
    Kept A P s0 (State.seedNext s z) := by
  unfold State.seedNext
  repeat' first
    | with_reducible assumption | exact inA hA rfl | exact subA hA rfl | exact .inl (inP hP rfl) | exact subP hP rfl
    | with_reducible exact rfl | exact .inr rfl
    | with_reducible first
      | intro _ | apply State.seedGet_kept | apply State.seedWhole_kept | split | dsimp only
    | fail_if_no_progress with_reducible apply Kept.upd

theorem State.seedHeader_kept {s : State} (hk : Kept A P s0 s) {z : Seed} {h : List Byte}
    (hA : ∀ a ∈ allAreas, a ∈ A)
    (hP : ∀ p ∈ ([.mem, .leMem, .out, .fresh, .pw, .rcd, .std, .lko, .dbg, .cop, .ecc, .io, .eng, .key, .cnp, .fab, .cvu, .rwy, .ust, .fwu, .pmg] : List Part), p ∈ P) :
    Kept A P s0 (State.seedHeader s z h) := by
  unfold State.seedHeader
  repeat' first
    | with_reducible assumption | exact inA hA rfl | exact subA hA rfl | exact .inl (inP hP rfl) | exact subP hP rfl
    | with_reducible exact rfl | exact .inr rfl
    | with_reducible first
      | intro _ | apply State.seedAgain_kept | apply State.seedNext_kept | apply State.setSlot_kept | apply Kept.ite
      | split | dsimp only
    | fail_if_no_progress with_reducible apply Kept.upd

theorem State.seedPiece_kept {s : State} (hk : Kept A P s0 s) {z : Seed} {i : Nat} {r : List Byte} {nandBad : Bool}
    (hA : ∀ a ∈ allAreas, a ∈ A)
    (hP : ∀ p ∈ ([.mem, .leMem, .out, .fresh, .pw, .rcd, .std, .lko, .dbg, .cop, .ecc, .io, .eng, .key, .cnp, .fab, .cvu, .rwy, .ust, .fwu, .pmg] : List Part), p ∈ P) :
    Kept A P s0 (State.seedPiece s z i r nandBad) := by
  unfold State.seedPiece
  repeat' first
    | with_reducible assumption | exact inA hA rfl | exact subA hA rfl | exact .inl (inP hP rfl) | exact subP hP rfl
    | with_reducible exact rfl | exact .inr rfl
    | with_reducible first
      | intro _ | apply State.commitPiece_kept | apply State.seedAgain_kept | apply State.seedNext_kept
      | apply State.setSeed_kept | apply Kept.ite | apply Kept.foldl | apply Kept.foldl2
      | refine Kept.snd ?_ (by assumption) | refine Kept.fst ?_ (by assumption) | split | split | dsimp only
    | fail_if_no_progress with_reducible apply Kept.upd

theorem State.fwData_kept {s : State} (hk : Kept A P s0 s) {x3 : Bool} {f : List Byte} {nandBad : Bool}
    (hA : ∀ a ∈ allAreas, a ∈ A)
    (hP : ∀ p ∈ ([.mem, .leMem, .out, .fresh, .pw, .rcd, .std, .lko, .dbg, .cop, .ecc, .io, .eng, .key, .cnp, .fab, .cvu, .rwy, .ust, .fwu, .pmg] : List Part), p ∈ P) :
    Kept A P s0 (State.fwData s x3 f nandBad) := by
  unfold State.fwData
  repeat' first
    | with_reducible assumption | exact inA hA rfl | exact subA hA rfl | exact .inl (inP hP rfl) | exact subP hP rfl
    | with_reducible exact rfl | exact .inr rfl
    | with_reducible first
      | intro _ | apply State.seedHeader_kept | apply State.seedPiece_kept | apply State.setSeed_kept | apply Kept.ite
      | split | dsimp only
    | fail_if_no_progress with_reducible apply Kept.upd

theorem execFwData_kept {s : State} (hk : Kept A P s0 s) {x3 : Bool} {frame : List Byte} {nandBad : Bool} {t : Nat}
    (hA : ∀ a ∈ allAreas, a ∈ A)
    (hP : ∀ p ∈ ([.now, .mem, .leMem, .resp, .out, .fresh, .pw, .rcd, .std, .lko, .dbg, .cop, .ecc, .io, .eng, .key, .cnp, .fab, .cvu, .rwy, .ust, .fwu, .pmg] : List Part), p ∈ P) :
    KeptOut A P s0 (execFwData x3 frame nandBad t s) := by
  unfold execFwData
  repeat' first
    | with_reducible assumption | exact inA hA rfl | exact subA hA rfl | exact .inl (inP hP rfl) | exact subP hP rfl
    | with_reducible first
      | intro _ | apply KeptOut.next | apply State.begin_kept | apply State.fwData_kept | dsimp only

theorem execFwNack_kept {s : State} (hk : Kept A P s0 s) {_x3 : Bool} {_frame : List Byte} {t : Nat}
    (hP : ∀ p ∈ ([.now, .resp, .out] : List Part), p ∈ P) :
    KeptOut A P s0 (execFwNack _x3 _frame t s) := by
  unfold execFwNack
  repeat' first
    | with_reducible assumption | exact .inl (inP hP rfl) | exact subP hP rfl
    | with_reducible first
      | intro _ | apply KeptOut.next | apply State.begin_kept | dsimp only

theorem State.getRetry_kept {s : State} (hk : Kept A P s0 s)
    (hA : ∀ a ∈ ([.pend, .cnp, .cvu, .ingress] : List Area), a ∈ A)
    (hP : ∀ p ∈ ([.out, .pw, .rcd, .cnp, .fab, .cvu, .rwy, .fwu] : List Part), p ∈ P) :
    Kept A P s0 (State.getRetry s) := by
  unfold State.getRetry
  repeat' first
    | with_reducible assumption | exact inA hA rfl | exact subA hA rfl | exact .inl (inP hP rfl) | exact subP hP rfl
    | with_reducible exact rfl | exact .inr rfl
    | with_reducible first
      | intro _ | apply State.seedGet_kept | apply Kept.ite | split | dsimp only
    | fail_if_no_progress with_reducible apply Kept.upd

theorem execGetRetryTimeout_kept {s : State} (hk : Kept A P s0 s) {t : Nat}
    (hA : ∀ a ∈ ([.pend, .cnp, .cvu, .ingress] : List Area), a ∈ A)
    (hP : ∀ p ∈ ([.now, .resp, .out, .pw, .rcd, .cnp, .fab, .cvu, .rwy, .fwu] : List Part), p ∈ P) :
    KeptOut A P s0 (execGetRetryTimeout t s) := by
  unfold execGetRetryTimeout
  repeat' first
    | with_reducible assumption | exact inA hA rfl | exact subA hA rfl | exact .inl (inP hP rfl) | exact subP hP rfl
    | with_reducible first
      | intro _ | apply KeptOut.next | apply State.begin_kept | apply State.getRetry_kept | dsimp only

/-! ### Machine/StandCommands.lean -/

theorem State.standSettled_kept {s : State} (hk : Kept A P s0 s) {k : Nat} (hA : ∀ a ∈ allAreas, a ∈ A)
    (hP : ∀ p ∈ ([.mem, .leMem, .out, .fresh, .pw, .rcd, .std, .lko, .dbg, .cop, .ecc, .io, .eng, .key, .cnp, .fab, .cvu, .rwy, .ust, .fwu, .pmg] : List Part), p ∈ P) :
    Kept A P s0 (State.standSettled s k) := by
  unfold State.standSettled
  repeat' first
    | with_reducible assumption | exact inA hA rfl | exact subA hA rfl | exact .inl (inP hP rfl) | exact subP hP rfl
    | with_reducible first
      | intro _ | apply State.afterFailure_kept | apply State.dropTransactions_kept | apply State.settleStand_kept
      | apply Kept.ite | dsimp only

theorem execVoterMismatch_kept {s : State} (hk : Kept A P s0 s) {k : Fin 4} {l : Fin 3} {item : Fin 3} {t : Nat}
    (hA : ∀ a ∈ allAreas, a ∈ A)
    (hP : ∀ p ∈ ([.now, .mem, .leMem, .resp, .out, .fresh, .pw, .rcd, .std, .lko, .dbg, .cop, .ecc, .io, .eng, .key, .cnp, .fab, .cvu, .rwy, .ust, .fwu, .pmg] : List Part), p ∈ P) :
    KeptOut A P s0 (execVoterMismatch k l item t s) := by
  unfold execVoterMismatch
  repeat' first
    | with_reducible assumption | exact inA hA rfl | exact subA hA rfl | exact .inl (inP hP rfl) | exact subP hP rfl
    | with_reducible first
      | intro _ | apply KeptOut.next | apply State.begin_kept | apply State.mismatch_kept
      | apply State.standSettled_kept | apply Kept.ite | apply KeptOut.ite | split | dsimp only

theorem State.voterXy_kept {s : State} (hk : Kept A P s0 s) {k : Nat} (hA : ∀ a ∈ allAreas, a ∈ A)
    (hP : ∀ p ∈ ([.mem, .leMem, .out, .fresh, .pw, .rcd, .std, .lko, .dbg, .cop, .ecc, .io, .eng, .key, .cnp, .fab, .cvu, .rwy, .ust, .fwu, .pmg] : List Part), p ∈ P) :
    Kept A P s0 (State.voterXy s k) := by
  unfold State.voterXy
  repeat' first
    | with_reducible assumption | exact inA hA rfl | exact subA hA rfl | exact .inl (inP hP rfl) | exact subP hP rfl
    | with_reducible first
      | intro _ | apply State.failSilent_kept | apply State.standSettled_kept | apply Kept.ite | dsimp only

theorem execVoterXyDisagree_kept {s : State} (hk : Kept A P s0 s) {k : Fin 4} {t : Nat}
    (hA : ∀ a ∈ allAreas, a ∈ A)
    (hP : ∀ p ∈ ([.now, .mem, .leMem, .resp, .out, .fresh, .pw, .rcd, .std, .lko, .dbg, .cop, .ecc, .io, .eng, .key, .cnp, .fab, .cvu, .rwy, .ust, .fwu, .pmg] : List Part), p ∈ P) :
    KeptOut A P s0 (execVoterXyDisagree k t s) := by
  unfold execVoterXyDisagree
  repeat' first
    | with_reducible assumption | exact inA hA rfl | exact subA hA rfl | exact .inl (inP hP rfl) | exact subP hP rfl
    | with_reducible first
      | intro _ | apply KeptOut.next | apply State.begin_kept | apply State.voterXy_kept | dsimp only

theorem State.agreementPoint_kept {s : State} (hk : Kept A P s0 s) {k : Nat} {da db dc halts ta tb tc lat : Nat}
    (hA : ∀ a ∈ allAreas, a ∈ A)
    (hP : ∀ p ∈ ([.mem, .leMem, .out, .fresh, .pw, .rcd, .std, .lko, .dbg, .cop, .ecc, .io, .eng, .key, .cnp, .fab, .cvu, .rwy, .ust, .fwu, .pmg] : List Part), p ∈ P) :
    Kept A P s0 (State.agreementPoint s k da db dc halts ta tb tc lat) := by
  unfold State.agreementPoint
  repeat' first
    | with_reducible assumption | exact inA hA rfl | exact subA hA rfl | exact .inl (inP hP rfl) | exact subP hP rfl
    | with_reducible exact rfl | exact .inr rfl
    | with_reducible first
      | intro _ | apply State.agreeHalted_kept | apply State.agreement_kept | apply State.standSettled_kept
      | apply Kept.ite | dsimp only
    | fail_if_no_progress with_reducible apply Kept.upd

theorem execAgreementPoint_kept {s : State}
    (hk : Kept A P s0 s) {k : Fin 4} {da db dc : BitVec 256} {halts : BitVec 3} {ta tb tc lat : Nat} {t : Nat}
    (hA : ∀ a ∈ allAreas, a ∈ A)
    (hP : ∀ p ∈ ([.now, .mem, .leMem, .resp, .out, .fresh, .pw, .rcd, .std, .lko, .dbg, .cop, .ecc, .io, .eng, .key, .cnp, .fab, .cvu, .rwy, .ust, .fwu, .pmg] : List Part), p ∈ P) :
    KeptOut A P s0 (execAgreementPoint k da db dc halts ta tb tc lat t s) := by
  unfold execAgreementPoint
  repeat' first
    | with_reducible assumption | exact inA hA rfl | exact subA hA rfl | exact .inl (inP hP rfl) | exact subP hP rfl
    | with_reducible first
      | intro _ | apply KeptOut.next | apply State.agreementPoint_kept | apply State.begin_kept | dsimp only

theorem State.coreBistDone_kept {s : State} (hk : Kept A P s0 s) {c : Nat} {fail werr : Bool}
    (hA : ∀ a ∈ ([.std, .pend, .cpc, .ingress, .bist] : List Area), a ∈ A)
    (hP : ∀ p ∈ ([.pw, .rcd, .std, .cop, .cnp] : List Part), p ∈ P) :
    Kept A P s0 (State.coreBistDone s c fail werr) := by
  unfold State.coreBistDone
  repeat' first
    | with_reducible assumption | exact inA hA rfl | exact subA hA rfl | exact .inl (inP hP rfl) | exact subP hP rfl
    | with_reducible exact rfl | exact .inr rfl
    | with_reducible first
      | intro _ | apply State.checkSpares_kept | apply State.coppiceEnds_kept | apply State.coreFailed_kept
      | apply State.corePassed_kept | apply State.spareReady_kept | apply State.syncCores_kept
      | apply State.testCore_kept | apply Kept.ite | dsimp only
    | fail_if_no_progress with_reducible apply Kept.upd

theorem execCoreBistDone_kept {s : State} (hk : Kept A P s0 s) {c : Fin 15} {fail werr : Bool} {t : Nat}
    (hA : ∀ a ∈ ([.std, .pend, .cpc, .ingress, .bist] : List Area), a ∈ A)
    (hP : ∀ p ∈ ([.now, .resp, .out, .pw, .rcd, .std, .cop, .cnp] : List Part), p ∈ P) :
    KeptOut A P s0 (execCoreBistDone c fail werr t s) := by
  unfold execCoreBistDone
  repeat' first
    | with_reducible assumption | exact inA hA rfl | exact subA hA rfl | exact .inl (inP hP rfl) | exact subP hP rfl
    | with_reducible first
      | intro _ | apply KeptOut.next | apply State.begin_kept | apply State.coreBistDone_kept | dsimp only

theorem State.modeReq_kept {s : State} (hk : Kept A P s0 s) {h k v : Nat} (hA : ∀ a ∈ ([.std] : List Area), a ∈ A)
    (hP : ∀ p ∈ ([.resp, .std] : List Part), p ∈ P) :
    Kept A P s0 (State.modeReq s h k v) := by
  unfold State.modeReq
  repeat' first
    | with_reducible assumption | exact inA hA rfl | exact subA hA rfl | exact .inl (inP hP rfl) | exact subP hP rfl
    | with_reducible first
      | intro _ | apply State.answer_kept | apply State.handoverRequest_kept | apply State.wr_kept | apply Kept.ite
      | dsimp only

theorem execHandoverRequest_kept {s : State}
    (hk : Kept A P s0 s) {hart : Fin 12} {k : Fin 4} {v : BitVec 32} {t : Nat}
    (hA : ∀ a ∈ ([.std] : List Area), a ∈ A) (hP : ∀ p ∈ ([.now, .resp, .out, .std] : List Part), p ∈ P) :
    KeptOut A P s0 (execHandoverRequest hart k v t s) := by
  unfold execHandoverRequest
  repeat' first
    | with_reducible assumption | exact inA hA rfl | exact subA hA rfl | exact .inl (inP hP rfl) | exact subP hP rfl
    | with_reducible first
      | intro _ | apply KeptOut.next | apply State.begin_kept | apply State.modeReq_kept | apply Kept.ite
      | apply KeptOut.ite | dsimp only

theorem State.handoverAccept_kept {s : State} (hk : Kept A P s0 s) {k : Nat}
    (hA : ∀ a ∈ ([.std, .pend, .ecc, .cvu, .ingress] : List Area), a ∈ A)
    (hP : ∀ p ∈ ([.mem, .fresh, .pw, .rcd, .std, .ecc, .cvu] : List Part), p ∈ P) :
    Kept A P s0 (State.handoverAccept s k) := by
  unfold State.handoverAccept
  repeat' first
    | with_reducible assumption | exact inA hA rfl | exact subA hA rfl | exact .inl (inP hP rfl) | exact subP hP rfl
    | with_reducible exact rfl | exact .inr rfl
    | with_reducible first
      | intro _ | apply State.checkpoint_kept | apply State.free_kept | apply State.request_kept
      | apply State.setStand_kept | apply State.syncSafe_kept | apply State.wr_kept | apply Kept.ite
      | refine Kept.snd ?_ (by assumption) | refine Kept.fst ?_ (by assumption) | split | split | dsimp only
    | fail_if_no_progress with_reducible apply Kept.upd

theorem execHandoverAccept_kept {s : State} (hk : Kept A P s0 s) {k : Fin 4} {t : Nat} (hA : ∀ a ∈ allAreas, a ∈ A)
    (hP : ∀ p ∈ ([.now, .mem, .leMem, .resp, .out, .fresh, .pw, .rcd, .std, .lko, .dbg, .cop, .ecc, .io, .eng, .key, .cnp, .fab, .cvu, .rwy, .ust, .fwu, .pmg] : List Part), p ∈ P) :
    KeptOut A P s0 (execHandoverAccept k t s) := by
  unfold execHandoverAccept
  repeat' first
    | with_reducible assumption | exact inA hA rfl | exact subA hA rfl | exact .inl (inP hP rfl) | exact subP hP rfl
    | with_reducible first
      | intro _ | apply KeptOut.next | apply State.begin_kept | apply State.handoverAccept_kept
      | apply State.standSettled_kept | apply Kept.ite | apply KeptOut.ite | dsimp only

theorem State.handoverEnds_kept {s : State} (hk : Kept A P s0 s) {k : Nat} {how : Reload}
    (hA : ∀ a ∈ allAreas, a ∈ A)
    (hP : ∀ p ∈ ([.mem, .leMem, .out, .fresh, .pw, .rcd, .std, .lko, .dbg, .cop, .ecc, .io, .eng, .key, .cnp, .fab, .cvu, .rwy, .ust, .fwu, .pmg] : List Part), p ∈ P) :
    Kept A P s0 (State.handoverEnds s k how) := by
  unfold State.handoverEnds
  repeat' first
    | with_reducible assumption | exact inA hA rfl | exact subA hA rfl | exact .inl (inP hP rfl) | exact subP hP rfl
    | with_reducible exact rfl | exact .inr rfl
    | with_reducible first
      | intro _ | apply State.handoverResume_kept | apply State.lookoutRestart_kept | apply State.standSettled_kept
      | apply Kept.ite | split | dsimp only
    | fail_if_no_progress with_reducible apply Kept.upd

theorem execHandoverResume_kept {s : State} (hk : Kept A P s0 s) {k : Fin 4} {how : Reload} {t : Nat}
    (hA : ∀ a ∈ allAreas, a ∈ A)
    (hP : ∀ p ∈ ([.now, .mem, .leMem, .resp, .out, .fresh, .pw, .rcd, .std, .lko, .dbg, .cop, .ecc, .io, .eng, .key, .cnp, .fab, .cvu, .rwy, .ust, .fwu, .pmg] : List Part), p ∈ P) :
    KeptOut A P s0 (execHandoverResume k how t s) := by
  unfold execHandoverResume
  repeat' first
    | with_reducible assumption | exact inA hA rfl | exact subA hA rfl | exact .inl (inP hP rfl) | exact subP hP rfl
    | with_reducible first
      | intro _ | apply KeptOut.next | apply State.begin_kept | apply State.handoverEnds_kept | dsimp only

theorem State.standRst_kept {s : State} (hk : Kept A P s0 s) {h k : Nat} (hA : ∀ a ∈ allAreas, a ∈ A)
    (hP : ∀ p ∈ ([.mem, .leMem, .resp, .out, .fresh, .pw, .rcd, .std, .lko, .dbg, .cop, .ecc, .io, .eng, .key, .cnp, .fab, .cvu, .rwy, .ust, .fwu, .pmg] : List Part), p ∈ P) :
    Kept A P s0 (State.standRst s h k) := by
  unfold State.standRst
  repeat' first
    | with_reducible assumption | exact inA hA rfl | exact subA hA rfl | exact .inl (inP hP rfl) | exact subP hP rfl
    | with_reducible first
      | intro _ | apply State.answer_kept | apply State.dropTransactions_kept | apply State.lookoutRestart_kept
      | apply State.standReset_kept | apply State.standSettled_kept | apply State.syncSafe_kept | apply State.wr_kept
      | apply Kept.ite | dsimp only

theorem execStandReset_kept {s : State} (hk : Kept A P s0 s) {hart : Fin 12} {k : Fin 4} {t : Nat}
    (hA : ∀ a ∈ allAreas, a ∈ A)
    (hP : ∀ p ∈ ([.now, .mem, .leMem, .resp, .out, .fresh, .pw, .rcd, .std, .lko, .dbg, .cop, .ecc, .io, .eng, .key, .cnp, .fab, .cvu, .rwy, .ust, .fwu, .pmg] : List Part), p ∈ P) :
    KeptOut A P s0 (execStandReset hart k t s) := by
  unfold execStandReset
  repeat' first
    | with_reducible assumption | exact inA hA rfl | exact subA hA rfl | exact .inl (inP hP rfl) | exact subP hP rfl
    | with_reducible first
      | intro _ | apply KeptOut.next | apply State.begin_kept | apply State.standRst_kept | apply Kept.ite
      | apply KeptOut.ite | dsimp only

theorem State.standRstDone_kept {s : State} (hk : Kept A P s0 s) {k failMask : Nat} (hA : ∀ a ∈ allAreas, a ∈ A)
    (hP : ∀ p ∈ ([.mem, .leMem, .out, .fresh, .pw, .rcd, .std, .lko, .dbg, .cop, .ecc, .io, .eng, .key, .cnp, .fab, .cvu, .rwy, .ust, .fwu, .pmg] : List Part), p ∈ P) :
    Kept A P s0 (State.standRstDone s k failMask) := by
  unfold State.standRstDone
  repeat' first
    | with_reducible assumption | exact inA hA rfl | exact subA hA rfl | exact .inl (inP hP rfl) | exact subP hP rfl
    | with_reducible exact rfl | exact .inr rfl
    | with_reducible first
      | intro _ | apply State.free_kept | apply State.moduleReset_kept | apply State.standResetDone_kept
      | apply State.standSettled_kept | apply Kept.ite | refine Kept.snd ?_ (by assumption)
      | refine Kept.fst ?_ (by assumption) | split | split | dsimp only
    | fail_if_no_progress with_reducible apply Kept.upd

theorem execStandResetDone_kept {s : State} (hk : Kept A P s0 s) {k : Fin 4} {failMask : BitVec 15} {t : Nat}
    (hA : ∀ a ∈ allAreas, a ∈ A)
    (hP : ∀ p ∈ ([.now, .mem, .leMem, .resp, .out, .fresh, .pw, .rcd, .std, .lko, .dbg, .cop, .ecc, .io, .eng, .key, .cnp, .fab, .cvu, .rwy, .ust, .fwu, .pmg] : List Part), p ∈ P) :
    KeptOut A P s0 (execStandResetDone k failMask t s) := by
  unfold execStandResetDone
  repeat' first
    | with_reducible assumption | exact inA hA rfl | exact subA hA rfl | exact .inl (inP hP rfl) | exact subP hP rfl
    | with_reducible first
      | intro _ | apply KeptOut.next | apply State.begin_kept | apply State.standRstDone_kept | dsimp only

theorem State.debugDetach_kept {s : State} (hk : Kept A P s0 s)
    (hA : ∀ a ∈ ([.std, .pend, .le] : List Area), a ∈ A) (hP : ∀ p ∈ ([.std, .dbg] : List Part), p ∈ P) :
    Kept A P s0 (State.debugDetach s) := by
  unfold State.debugDetach
  repeat' first
    | with_reducible assumption | exact inA hA rfl | exact subA hA rfl | exact .inl (inP hP rfl) | exact subP hP rfl
    | with_reducible exact rfl | exact .inr rfl
    | with_reducible first
      | intro _ | apply State.raise_kept | apply State.replayed_kept | apply State.wr_kept | split | dsimp only
    | fail_if_no_progress with_reducible apply Kept.upd

theorem State.attachEngine_kept {s : State} (hk : Kept A P s0 s) {e : Nat}
    (hA : ∀ a ∈ ([.unit, .pend, .le, .iog, .chan] : List Area), a ∈ A)
    (hP : ∀ p ∈ ([.resp, .out, .dbg, .io] : List Part), p ∈ P) :
    Kept A P s0 (State.attachEngine s e) := by
  unfold State.attachEngine
  repeat' first
    | with_reducible assumption | exact inA hA rfl | exact subA hA rfl | exact .inl (inP hP rfl) | exact subP hP rfl
    | with_reducible exact rfl | exact .inr rfl
    | with_reducible first
      | intro _ | apply State.answer_kept | apply State.raise_kept | apply State.settleOwner_kept
      | apply State.wr_kept | apply Kept.ite | dsimp only
    | fail_if_no_progress with_reducible apply Kept.upd

theorem State.attach_kept {s : State} (hk : Kept A P s0 s) {a : Attach}
    (hA : ∀ a ∈ ([.unit, .std, .pend, .lko, .le, .iog, .chan] : List Area), a ∈ A)
    (hP : ∀ p ∈ ([.resp, .out, .std, .lko, .dbg, .io] : List Part), p ∈ P) :
    Kept A P s0 (State.attach s a) := by
  unfold State.attach
  repeat' first
    | with_reducible assumption | exact inA hA rfl | exact subA hA rfl | exact .inl (inP hP rfl) | exact subP hP rfl
    | with_reducible exact rfl | exact .inr rfl
    | with_reducible first
      | intro _ | apply State.answer_kept | apply State.attachEngine_kept | apply State.attachStand_kept
      | apply State.debugDetach_kept | apply State.settleStand_kept | apply State.standWakes_kept | apply Kept.ite
      | split | dsimp only
    | fail_if_no_progress with_reducible apply Kept.upd

theorem State.debugAttach_kept {s : State} (hk : Kept A P s0 s) {a : Attach}
    (hA : ∀ a ∈ ([.unit, .std, .pend, .lko, .le, .iog, .chan] : List Area), a ∈ A)
    (hP : ∀ p ∈ ([.resp, .out, .std, .lko, .dbg, .io, .fwu] : List Part), p ∈ P) :
    Kept A P s0 (State.debugAttach s a) := by
  unfold State.debugAttach
  repeat' first
    | with_reducible assumption | exact inA hA rfl | exact subA hA rfl | exact .inl (inP hP rfl) | exact subP hP rfl
    | with_reducible exact rfl | exact .inr rfl
    | with_reducible first
      | intro _ | apply State.answer_kept | apply State.attach_kept | apply Kept.ite | split | dsimp only
    | fail_if_no_progress with_reducible apply Kept.upd

theorem execDebugAttach_kept {s : State} (hk : Kept A P s0 s) {engine : Bool} {n : Fin 4} {t : Nat}
    (hA : ∀ a ∈ ([.unit, .std, .pend, .lko, .le, .iog, .chan] : List Area), a ∈ A)
    (hP : ∀ p ∈ ([.now, .resp, .out, .std, .lko, .dbg, .io, .fwu] : List Part), p ∈ P) :
    KeptOut A P s0 (execDebugAttach engine n t s) := by
  unfold execDebugAttach
  repeat' first
    | with_reducible assumption | exact inA hA rfl | exact subA hA rfl | exact .inl (inP hP rfl) | exact subP hP rfl
    | with_reducible first
      | intro _ | apply KeptOut.next | apply State.begin_kept | apply State.debugAttach_kept | apply Kept.ite
      | apply KeptOut.ite | dsimp only

theorem execDebugDetach_kept {s : State} (hk : Kept A P s0 s) {t : Nat}
    (hA : ∀ a ∈ ([.std, .pend, .le] : List Area), a ∈ A)
    (hP : ∀ p ∈ ([.now, .resp, .out, .std, .dbg] : List Part), p ∈ P) :
    KeptOut A P s0 (execDebugDetach t s) := by
  unfold execDebugDetach
  repeat' first
    | with_reducible assumption | exact inA hA rfl | exact subA hA rfl | exact .inl (inP hP rfl) | exact subP hP rfl
    | with_reducible first
      | intro _ | apply KeptOut.next | apply State.begin_kept | apply State.debugDetach_kept | dsimp only

theorem State.attached_kept {s : State} (hk : Kept A P s0 s) {k : Nat} {f : State → State}
    (hf : ∀ u, Kept A P s0 u → Kept A P s0 (f u))
    (hP : ∀ p ∈ ([.resp] : List Part), p ∈ P) :
    Kept A P s0 (State.attached s k f) := by
  unfold State.attached
  repeat' first
    | with_reducible assumption
    | exact .inl (inP hP rfl) | exact subP hP rfl | with_reducible exact rfl | exact .inr rfl
    | with_reducible intro _
    | with_reducible apply State.answer_kept
    | with_reducible apply hf
    | with_reducible apply Kept.ite

theorem execDebugHaltStand_kept {s : State} (hk : Kept A P s0 s) {k : Fin 4} {t : Nat}
    (hA : ∀ a ∈ ([.unit, .std, .lko] : List Area), a ∈ A)
    (hP : ∀ p ∈ ([.now, .resp, .out, .std, .lko] : List Part), p ∈ P) :
    KeptOut A P s0 (execDebugHaltStand k t s) := by
  unfold execDebugHaltStand
  repeat' first
    | with_reducible assumption | exact inA hA rfl | exact subA hA rfl | exact .inl (inP hP rfl) | exact subP hP rfl
    | with_reducible first
      | intro _ | apply KeptOut.next | apply State.attached_kept | apply State.begin_kept | apply State.haltStand_kept
      | apply State.standWakes_kept | dsimp only

theorem State.stepStand_kept {s : State} (hk : Kept A P s0 s) {k : Nat}
    (hA : ∀ a ∈ ([.std, .lko] : List Area), a ∈ A) (hP : ∀ p ∈ ([.resp, .std] : List Part), p ∈ P) :
    Kept A P s0 (State.stepStand s k) := by
  unfold State.stepStand
  repeat' first
    | with_reducible assumption | exact inA hA rfl | exact subA hA rfl | exact .inl (inP hP rfl) | exact subP hP rfl
    | with_reducible first
      | intro _ | apply State.agreeNow_kept | apply State.answer_kept | apply State.executes_kept
      | apply State.replayed_kept | apply Kept.ite | dsimp only

theorem execDebugStepStand_kept {s : State} (hk : Kept A P s0 s) {k : Fin 4} {t : Nat}
    (hA : ∀ a ∈ ([.std, .lko] : List Area), a ∈ A) (hP : ∀ p ∈ ([.now, .resp, .out, .std] : List Part), p ∈ P) :
    KeptOut A P s0 (execDebugStepStand k t s) := by
  unfold execDebugStepStand
  repeat' first
    | with_reducible assumption | exact inA hA rfl | exact subA hA rfl | exact .inl (inP hP rfl) | exact subP hP rfl
    | with_reducible first
      | intro _ | apply KeptOut.next | apply State.attached_kept | apply State.begin_kept | apply State.stepStand_kept
      | dsimp only

theorem execDebugResumeStand_kept {s : State} (hk : Kept A P s0 s) {k : Fin 4} {t : Nat}
    (hA : ∀ a ∈ ([.std, .lko] : List Area), a ∈ A) (hP : ∀ p ∈ ([.now, .resp, .out, .std, .lko] : List Part), p ∈ P) :
    KeptOut A P s0 (execDebugResumeStand k t s) := by
  unfold execDebugResumeStand
  repeat' first
    | with_reducible assumption | exact inA hA rfl | exact subA hA rfl | exact .inl (inP hP rfl) | exact subP hP rfl
    | with_reducible first
      | intro _ | apply KeptOut.next | apply State.attached_kept | apply State.begin_kept
      | apply State.resumeStand_kept | dsimp only

theorem execClaimRead_kept {s : State} (hk : Kept A P s0 s) {hart : Fin 12} {k : Fin 4} {sup : Bool} {t : Nat}
    (hA : ∀ a ∈ ([.pend] : List Area), a ∈ A) (hP : ∀ p ∈ ([.now, .resp, .out] : List Part), p ∈ P) :
    KeptOut A P s0 (execClaimRead hart k sup t s) := by
  unfold execClaimRead
  repeat' first
    | with_reducible assumption | exact inA hA rfl | exact subA hA rfl | exact .inl (inP hP rfl) | exact subP hP rfl
    | with_reducible first
      | intro _ | apply KeptOut.next | apply State.begin_kept | apply State.claim_kept | apply Kept.ite
      | apply KeptOut.ite | dsimp only

theorem execSoftwareEvent_kept {s : State} (hk : Kept A P s0 s) {hart : Fin 12} {bits : BitVec 16} {t : Nat}
    (hA : ∀ a ∈ ([.pend] : List Area), a ∈ A) (hP : ∀ p ∈ ([.now, .resp, .out] : List Part), p ∈ P) :
    KeptOut A P s0 (execSoftwareEvent hart bits t s) := by
  unfold execSoftwareEvent
  repeat' first
    | with_reducible assumption | exact inA hA rfl | exact subA hA rfl | exact .inl (inP hP rfl) | exact subP hP rfl
    | with_reducible first
      | intro _ | apply KeptOut.next | apply State.answer_kept | apply State.begin_kept | apply State.softEvents_kept
      | apply Kept.ite | apply KeptOut.ite | dsimp only

theorem State.lookoutReset_kept {s : State} (hk : Kept A P s0 s) {why : Nat} (hA : ∀ a ∈ allAreas, a ∈ A)
    (hP : ∀ p ∈ ([.mem, .leMem, .out, .fresh, .pw, .rcd, .std, .lko, .dbg, .cop, .ecc, .io, .eng, .key, .cnp, .fab, .cvu, .rwy, .ust, .fwu, .pmg] : List Part), p ∈ P) :
    Kept A P s0 (State.lookoutReset s why) := by
  unfold State.lookoutReset
  repeat' first
    | with_reducible assumption | exact inA hA rfl | exact subA hA rfl | exact .inl (inP hP rfl) | exact subP hP rfl
    | with_reducible first
      | intro _ | apply State.moduleReset_kept | apply State.wr_kept | apply Kept.ite | dsimp only

theorem State.lookoutWrite_kept {s : State} (hk : Kept A P s0 s) {h : Nat} {f : State → State}
    (hf : ∀ u, Kept A P s0 u → Kept A P s0 (f u)) (hA : ∀ a ∈ allAreas, a ∈ A)
    (hP : ∀ p ∈ ([.mem, .leMem, .resp, .out, .fresh, .pw, .rcd, .std, .lko, .dbg, .cop, .ecc, .io, .eng, .key, .cnp, .fab, .cvu, .rwy, .ust, .fwu, .pmg] : List Part), p ∈ P) :
    Kept A P s0 (State.lookoutWrite s h f) := by
  unfold State.lookoutWrite
  repeat' first
    | with_reducible assumption
    | exact inA hA rfl | exact subA hA rfl | exact .inl (inP hP rfl) | exact subP hP rfl | with_reducible exact rfl
    | exact .inr rfl
    | with_reducible intro _
    | with_reducible apply State.lookoutReset_kept
    | with_reducible apply State.answer_kept
    | with_reducible apply hf
    | with_reducible apply Kept.ite

theorem State.serviceFirst_kept {s : State} (hk : Kept A P s0 s) (hP : ∀ p ∈ ([.lko] : List Part), p ∈ P) :
    Kept A P s0 (State.serviceFirst s) := by
  unfold State.serviceFirst
  repeat' first
    | with_reducible assumption | exact .inl (inP hP rfl) | exact subP hP rfl | with_reducible exact rfl
    | exact .inr rfl
    | with_reducible first
      | intro _ | dsimp only
    | fail_if_no_progress with_reducible apply Kept.upd

theorem State.serviced_kept {s : State} (hk : Kept A P s0 s)
    (hA : ∀ a ∈ ([.unit, .std, .pend, .lko, .le, .iog, .chan, .fwu] : List Area), a ∈ A)
    (hP : ∀ p ∈ ([.resp, .out, .pw, .std, .lko, .dbg, .io, .fwu] : List Part), p ∈ P) :
    Kept A P s0 (State.serviced s) := by
  unfold State.serviced
  repeat' first
    | with_reducible assumption | exact inA hA rfl | exact subA hA rfl | exact .inl (inP hP rfl) | exact subP hP rfl
    | with_reducible exact rfl | exact .inr rfl
    | with_reducible first
      | intro _ | apply State.attach_kept | apply State.lookoutServed_kept | apply State.pauseEnds_kept | split
      | dsimp only
    | fail_if_no_progress with_reducible apply Kept.upd

theorem State.serviceSecond_kept {s : State} (hk : Kept A P s0 s) {v : Nat} (hA : ∀ a ∈ allAreas, a ∈ A)
    (hP : ∀ p ∈ ([.mem, .leMem, .resp, .out, .fresh, .pw, .rcd, .std, .lko, .dbg, .cop, .ecc, .io, .eng, .key, .cnp, .fab, .cvu, .rwy, .ust, .fwu, .pmg] : List Part), p ∈ P) :
    Kept A P s0 (State.serviceSecond s v) := by
  unfold State.serviceSecond
  repeat' first
    | with_reducible assumption | exact inA hA rfl | exact subA hA rfl | exact .inl (inP hP rfl) | exact subP hP rfl
    | with_reducible exact rfl | exact .inr rfl
    | with_reducible first
      | intro _ | apply State.lookoutReset_kept | apply State.serviced_kept | apply Kept.ite | split | dsimp only
    | fail_if_no_progress with_reducible apply Kept.upd

theorem State.lkoSvc_kept {s : State} (hk : Kept A P s0 s) {v : Nat} (hA : ∀ a ∈ allAreas, a ∈ A)
    (hP : ∀ p ∈ ([.mem, .leMem, .resp, .out, .fresh, .pw, .rcd, .std, .lko, .dbg, .cop, .ecc, .io, .eng, .key, .cnp, .fab, .cvu, .rwy, .ust, .fwu, .pmg] : List Part), p ∈ P) :
    Kept A P s0 (State.lkoSvc s v) := by
  unfold State.lkoSvc
  repeat' first
    | with_reducible assumption | exact inA hA rfl | exact subA hA rfl | exact .inl (inP hP rfl) | exact subP hP rfl
    | with_reducible first
      | intro _ | apply State.serviceFirst_kept | apply State.serviceSecond_kept | apply Kept.ite | dsimp only

theorem execLookoutServiceFirst_kept {s : State} (hk : Kept A P s0 s) {hart : Fin 12} {t : Nat}
    (hA : ∀ a ∈ allAreas, a ∈ A)
    (hP : ∀ p ∈ ([.now, .mem, .leMem, .resp, .out, .fresh, .pw, .rcd, .std, .lko, .dbg, .cop, .ecc, .io, .eng, .key, .cnp, .fab, .cvu, .rwy, .ust, .fwu, .pmg] : List Part), p ∈ P) :
    KeptOut A P s0 (execLookoutServiceFirst hart t s) := by
  unfold execLookoutServiceFirst
  repeat' first
    | with_reducible assumption | exact inA hA rfl | exact subA hA rfl | exact .inl (inP hP rfl) | exact subP hP rfl
    | with_reducible first
      | intro _ | apply KeptOut.next | apply State.begin_kept | apply State.lkoSvc_kept
      | apply State.lookoutWrite_kept | apply Kept.ite | apply KeptOut.ite | dsimp only

theorem execLookoutServiceSecond_kept {s : State} (hk : Kept A P s0 s) {hart : Fin 12} {v : BitVec 32} {t : Nat}
    (hA : ∀ a ∈ allAreas, a ∈ A)
    (hP : ∀ p ∈ ([.now, .mem, .leMem, .resp, .out, .fresh, .pw, .rcd, .std, .lko, .dbg, .cop, .ecc, .io, .eng, .key, .cnp, .fab, .cvu, .rwy, .ust, .fwu, .pmg] : List Part), p ∈ P) :
    KeptOut A P s0 (execLookoutServiceSecond hart v t s) := by
  unfold execLookoutServiceSecond
  repeat' first
    | with_reducible assumption | exact inA hA rfl | exact subA hA rfl | exact .inl (inP hP rfl) | exact subP hP rfl
    | with_reducible first
      | intro _ | apply KeptOut.next | apply State.begin_kept | apply State.lkoSvc_kept
      | apply State.lookoutWrite_kept | apply Kept.ite | apply KeptOut.ite | dsimp only

theorem State.lookoutTimeout_kept {s : State} (hk : Kept A P s0 s) (hA : ∀ a ∈ allAreas, a ∈ A)
    (hP : ∀ p ∈ ([.mem, .leMem, .out, .fresh, .pw, .rcd, .std, .lko, .dbg, .cop, .ecc, .io, .eng, .key, .cnp, .fab, .cvu, .rwy, .ust, .fwu, .pmg] : List Part), p ∈ P) :
    Kept A P s0 (State.lookoutTimeout s) := by
  unfold State.lookoutTimeout
  repeat' first
    | with_reducible assumption | exact inA hA rfl | exact subA hA rfl | exact .inl (inP hP rfl) | exact subP hP rfl
    | with_reducible first
      | intro _ | apply State.lookoutReset_kept | apply Kept.ite | dsimp only

theorem execLookoutTimeout_kept {s : State} (hk : Kept A P s0 s) {t : Nat} (hA : ∀ a ∈ allAreas, a ∈ A)
    (hP : ∀ p ∈ ([.now, .mem, .leMem, .resp, .out, .fresh, .pw, .rcd, .std, .lko, .dbg, .cop, .ecc, .io, .eng, .key, .cnp, .fab, .cvu, .rwy, .ust, .fwu, .pmg] : List Part), p ∈ P) :
    KeptOut A P s0 (execLookoutTimeout t s) := by
  unfold execLookoutTimeout
  repeat' first
    | with_reducible assumption | exact inA hA rfl | exact subA hA rfl | exact .inl (inP hP rfl) | exact subP hP rfl
    | with_reducible first
      | intro _ | apply KeptOut.next | apply State.begin_kept | apply State.lookoutTimeout_kept | dsimp only

theorem State.lookoutSequence_kept {s : State} (hk : Kept A P s0 s) (hA : ∀ a ∈ allAreas, a ∈ A)
    (hP : ∀ p ∈ ([.mem, .leMem, .out, .fresh, .pw, .rcd, .std, .lko, .dbg, .cop, .ecc, .io, .eng, .key, .cnp, .fab, .cvu, .rwy, .ust, .fwu, .pmg] : List Part), p ∈ P) :
    Kept A P s0 (State.lookoutSequence s) := by
  unfold State.lookoutSequence
  repeat' first
    | with_reducible assumption | exact inA hA rfl | exact subA hA rfl | exact .inl (inP hP rfl) | exact subP hP rfl
    | with_reducible exact rfl | exact .inr rfl
    | with_reducible first
      | intro _ | apply State.lookoutReset_kept | apply Kept.ite | split | dsimp only
    | fail_if_no_progress with_reducible apply Kept.upd

theorem execLookoutSequenceTimeout_kept {s : State} (hk : Kept A P s0 s) {t : Nat} (hA : ∀ a ∈ allAreas, a ∈ A)
    (hP : ∀ p ∈ ([.now, .mem, .leMem, .resp, .out, .fresh, .pw, .rcd, .std, .lko, .dbg, .cop, .ecc, .io, .eng, .key, .cnp, .fab, .cvu, .rwy, .ust, .fwu, .pmg] : List Part), p ∈ P) :
    KeptOut A P s0 (execLookoutSequenceTimeout t s) := by
  unfold execLookoutSequenceTimeout
  repeat' first
    | with_reducible assumption | exact inA hA rfl | exact subA hA rfl | exact .inl (inP hP rfl) | exact subP hP rfl
    | with_reducible first
      | intro _ | apply KeptOut.next | apply State.begin_kept | apply State.lookoutSequence_kept | dsimp only

theorem State.lookoutStartLimit_kept {s : State} (hk : Kept A P s0 s) (hA : ∀ a ∈ allAreas, a ∈ A)
    (hP : ∀ p ∈ ([.mem, .leMem, .resp, .out, .fresh, .pw, .rcd, .std, .lko, .dbg, .cop, .ecc, .io, .eng, .key, .cnp, .fab, .cvu, .rwy, .ust, .fwu, .pmg] : List Part), p ∈ P) :
    Kept A P s0 (State.lookoutStartLimit s) := by
  unfold State.lookoutStartLimit
  repeat' first
    | with_reducible assumption | exact inA hA rfl | exact subA hA rfl | exact .inl (inP hP rfl) | exact subP hP rfl
    | with_reducible first
      | intro _ | apply State.lookoutReset_kept | apply State.serviced_kept | apply Kept.ite | dsimp only

theorem execLookoutStartLimit_kept {s : State} (hk : Kept A P s0 s) {t : Nat} (hA : ∀ a ∈ allAreas, a ∈ A)
    (hP : ∀ p ∈ ([.now, .mem, .leMem, .resp, .out, .fresh, .pw, .rcd, .std, .lko, .dbg, .cop, .ecc, .io, .eng, .key, .cnp, .fab, .cvu, .rwy, .ust, .fwu, .pmg] : List Part), p ∈ P) :
    KeptOut A P s0 (execLookoutStartLimit t s) := by
  unfold execLookoutStartLimit
  repeat' first
    | with_reducible assumption | exact inA hA rfl | exact subA hA rfl | exact .inl (inP hP rfl) | exact subP hP rfl
    | with_reducible first
      | intro _ | apply KeptOut.next | apply State.begin_kept | apply State.lookoutStartLimit_kept | dsimp only

theorem execLookoutWindowOpen_kept {s : State} (hk : Kept A P s0 s) {t : Nat}
    (hA : ∀ a ∈ ([.pend, .lko] : List Area), a ∈ A) (hP : ∀ p ∈ ([.now, .resp, .out] : List Part), p ∈ P) :
    KeptOut A P s0 (execLookoutWindowOpen t s) := by
  unfold execLookoutWindowOpen
  repeat' first
    | with_reducible assumption | exact inA hA rfl | exact subA hA rfl | exact .inl (inP hP rfl) | exact subP hP rfl
    | with_reducible first
      | intro _ | apply KeptOut.next | apply State.begin_kept | apply State.lookoutOpen_kept | dsimp only

/-! ### Machine/Marks.lean -/

theorem State.markTake_kept {s : State} (hk : Kept A P s0 s) {e : Nat}
    (hA : ∀ a ∈ ([.pend, .le, .ecc, .cpc, .iog, .chan, .ingress] : List Area), a ∈ A)
    (hP : ∀ p ∈ ([.mem, .leMem, .out, .pw, .rcd, .cop, .ecc, .io, .eng, .pmg] : List Part), p ∈ P) :
    Kept A P s0 (State.markTake s e) := by
  unfold State.markTake
  repeat' first
    | with_reducible assumption | exact inA hA rfl | exact subA hA rfl | exact .inl (inP hP rfl) | exact subP hP rfl
    | with_reducible first
      | intro _ | apply State.leTake_kept | apply Kept.ite | dsimp only

theorem State.cycleMark_kept {s : State} (hk : Kept A P s0 s) {noRes : List Nat} (hA : ∀ a ∈ allAreas, a ∈ A)
    (hP : ∀ p ∈ allParts, p ∈ P) :
    Kept A P s0 (State.cycleMark s noRes) := by
  unfold State.cycleMark
  repeat' first
    | with_reducible assumption | exact inA hA rfl | exact subA hA rfl | exact .inl (inP hP rfl) | exact subP hP rfl
    | with_reducible exact rfl | exact .inr rfl
    | with_reducible first
      | intro _ | apply State.applyMarked_kept | apply State.canopyMark_kept | apply State.inaMark_kept
      | apply State.lowMark_kept | apply State.markTake_kept | apply Kept.ite | apply Kept.foldl | dsimp only
    | fail_if_no_progress with_reducible apply Kept.upd

theorem execCycleMark_kept {s : State} (hk : Kept A P s0 s) {noRes : List Nat} {t : Nat}
    (hA : ∀ a ∈ allAreas, a ∈ A) (hP : ∀ p ∈ allParts, p ∈ P) :
    KeptOut A P s0 (execCycleMark noRes t s) := by
  unfold execCycleMark
  repeat' first
    | with_reducible assumption | exact inA hA rfl | exact subA hA rfl | exact .inl (inP hP rfl) | exact subP hP rfl
    | with_reducible first
      | intro _ | apply KeptOut.next | apply State.begin_kept | apply State.cycleMark_kept | dsimp only

/-! ### Machine/Registers.lean -/

theorem State.writeField_kept {s : State} (hk : Kept A P s0 s) {addr v : Nat} {f : RowField}
    (hA : ∀ a ∈ allAreas, a ∈ A) : Kept A P s0 (State.writeField s addr v f) := by
  unfold State.writeField
  repeat' with_reducible first
    | assumption
    | (refine State.wr_kept ?_ (hA _ (mem_allAreas _)))
    | split
    | apply Kept.ite
    | dsimp only

theorem State.plainWrite_kept {s : State} (hk : Kept A P s0 s) {addr v : Nat} (hA : ∀ a ∈ allAreas, a ∈ A) :
    Kept A P s0 (State.plainWrite s addr v) := by
  unfold State.plainWrite
  generalize regFields addr = o
  cases o with
  | none => exact hk
  | some fs => exact Kept.foldl (fun u f hu => State.writeField_kept hu hA) hk fs

theorem State.readClear_kept {s : State} (hk : Kept A P s0 s) {addr : Nat} (hA : ∀ a ∈ allAreas, a ∈ A) :
    Kept A P s0 (State.readClear s addr) := by
  unfold State.readClear
  generalize regFields addr = o
  cases o with
  | none => exact hk
  | some fs => exact Kept.foldl (fun u f hu => Kept.ite (State.wr_kept hu (hA _ (mem_allAreas _))) hu) hk fs

theorem State.viaHart_kept {s : State} (hk : Kept A P s0 s) {m : RegMaster} {f : Fin 12 → State}
    (hf : ∀ h, Kept A P s0 (f h))
    (hP : ∀ p ∈ ([.resp] : List Part), p ∈ P) :
    Kept A P s0 (State.viaHart s m f) := by
  unfold State.viaHart
  repeat' first
    | with_reducible assumption
    | exact .inl (inP hP rfl) | exact subP hP rfl | with_reducible exact rfl | exact .inr rfl
    | with_reducible intro _
    | with_reducible apply State.answer_kept
    | with_reducible apply hf
    | with_reducible split

theorem State.byStand_kept {s : State} (hk : Kept A P s0 s) {m : RegMaster} {f : Fin 12 → State}
    (hf : ∀ h, Kept A P s0 (f h)) : Kept A P s0 (State.byStand s m f) := by
  unfold State.byStand
  split
  · exact hf _
  · exact hk

theorem State.sysWrite_kept {s : State} (hk : Kept A P s0 s) {m : RegMaster} {o v : Nat}
    (hA : ∀ a ∈ allAreas, a ∈ A)
    (hP : ∀ p ∈ ([.mem, .leMem, .resp, .out, .fresh, .pw, .rcd, .std, .lko, .dbg, .cop, .ecc, .io, .eng, .key, .cnp, .fab, .cvu, .rwy, .ust, .fwu, .pmg] : List Part), p ∈ P) :
    Kept A P s0 (State.sysWrite s m o v) := by
  unfold State.sysWrite
  repeat' first
    | with_reducible assumption | exact inA hA rfl | exact subA hA rfl | exact .inl (inP hP rfl) | exact subP hP rfl
    | with_reducible exact rfl | exact .inr rfl
    | with_reducible first
      | intro _ | apply State.answer_kept | apply State.engineReset_kept | apply State.softwareReset_kept
      | apply State.viaHart_kept | apply Kept.ite | split | dsimp only
    | fail_if_no_progress with_reducible apply Kept.upd

theorem State.pwrWrite_kept {s : State} (hk : Kept A P s0 s) {m : RegMaster} {o v : Nat}
    (hA : ∀ a ∈ allAreas, a ∈ A) (hP : ∀ p ∈ ([.resp, .fresh, .fwu, .pmg] : List Part), p ∈ P) :
    Kept A P s0 (State.pwrWrite s m o v) := by
  unfold State.pwrWrite
  repeat' first
    | with_reducible assumption | exact inA hA rfl | exact subA hA rfl | exact .inl (inP hP rfl) | exact subP hP rfl
    | with_reducible exact rfl | exact .inr rfl
    | with_reducible first
      | intro _ | apply State.lowCancel_kept | apply State.lowEnter_kept | apply State.plainWrite_kept
      | apply State.pwrCommand_kept | apply State.rest_kept | apply State.viaHart_kept | apply Kept.ite | split
      | dsimp only
    | fail_if_no_progress with_reducible apply Kept.upd

theorem State.stdWrite_kept {s : State} (hk : Kept A P s0 s) {m : RegMaster} {o v : Nat}
    (hA : ∀ a ∈ allAreas, a ∈ A)
    (hP : ∀ p ∈ ([.mem, .leMem, .resp, .out, .fresh, .pw, .rcd, .std, .lko, .dbg, .cop, .ecc, .io, .eng, .key, .cnp, .fab, .cvu, .rwy, .ust, .fwu, .pmg] : List Part), p ∈ P) :
    Kept A P s0 (State.stdWrite s m o v) := by
  unfold State.stdWrite
  repeat' first
    | with_reducible assumption | exact inA hA rfl | exact subA hA rfl | exact .inl (inP hP rfl) | exact subP hP rfl
    | with_reducible first
      | intro _ | apply State.byStand_kept | apply State.lkoSvc_kept | apply State.lookoutWrite_kept
      | apply State.modeReq_kept | apply State.plainWrite_kept | apply State.softEvents_kept
      | apply State.standRst_kept | apply State.viaHart_kept | apply Kept.ite | dsimp only

theorem State.leCommand_kept {s : State} (hk : Kept A P s0 s) {e v : Nat} (hA : ∀ a ∈ allAreas, a ∈ A)
    (hP : ∀ p ∈ ([.mem, .leMem, .out, .pw, .rcd, .cop, .ecc, .io, .eng, .pmg] : List Part), p ∈ P) :
    Kept A P s0 (State.leCommand s e v) := by
  unfold State.leCommand
  repeat' first
    | with_reducible assumption | exact inA hA rfl | exact subA hA rfl | exact .inl (inP hP rfl) | exact subP hP rfl
    | with_reducible exact rfl | exact .inr rfl
    | with_reducible first
      | intro _ | apply State.leDiscard_kept | apply State.leLoadCmd_kept | apply State.leRestartCmd_kept
      | apply State.leStopCmd_kept | apply State.leSwapCmd_kept | split | dsimp only
    | fail_if_no_progress with_reducible apply Kept.upd

theorem State.leDebugCtl_kept {s : State} (hk : Kept A P s0 s) {e v x : Nat}
    (hA : ∀ a ∈ ([.pend, .le, .ecc, .cpc, .iog, .chan, .ingress] : List Area), a ∈ A)
    (hP : ∀ p ∈ ([.now, .mem, .leMem, .resp, .out, .pw, .rcd, .cop, .ecc, .io, .eng, .pmg] : List Part), p ∈ P) :
    Kept A P s0 (State.leDebugCtl s e v x) := by
  unfold State.leDebugCtl
  repeat' first
    | with_reducible assumption | exact inA hA rfl | exact subA hA rfl | exact .inl (inP hP rfl) | exact subP hP rfl
    | with_reducible exact rfl | exact .inr rfl
    | with_reducible first
      | intro _ | apply State.leHaltCmd_kept | apply State.leResumeCmd_kept | apply State.leStepCmd_kept
      | apply State.leStepcycCmd_kept | split | dsimp only
    | fail_if_no_progress with_reducible apply Kept.upd

theorem State.leWrite_kept {s : State} (hk : Kept A P s0 s) {m : RegMaster} {o v x : Nat}
    (hA : ∀ a ∈ allAreas, a ∈ A)
    (hP : ∀ p ∈ ([.now, .mem, .leMem, .resp, .out, .pw, .rcd, .cop, .ecc, .io, .eng, .pmg] : List Part), p ∈ P) :
    Kept A P s0 (State.leWrite s m o v x) := by
  unfold State.leWrite
  repeat' first
    | with_reducible assumption | exact inA hA rfl | exact subA hA rfl | exact .inl (inP hP rfl) | exact subP hP rfl
    | with_reducible first
      | intro _ | apply State.forceCommit_kept | apply State.leCommand_kept | apply State.leDebugCtl_kept
      | apply State.plainWrite_kept | apply Kept.ite | dsimp only

theorem State.eccWrite_kept {s : State} (hk : Kept A P s0 s) {o v x : Nat} (hA : ∀ a ∈ allAreas, a ∈ A)
    (hP : ∀ p ∈ ([.mem, .leMem, .pw, .rcd, .ecc, .cvu] : List Part), p ∈ P) :
    Kept A P s0 (State.eccWrite s o v x) := by
  unfold State.eccWrite
  repeat' first
    | with_reducible assumption | exact inA hA rfl | exact subA hA rfl | exact .inl (inP hP rfl) | exact subP hP rfl
    | with_reducible first
      | intro _ | apply State.fillAbort_kept | apply State.fillStart_kept | apply State.plainWrite_kept
      | apply State.setLap_kept | apply State.tstOp_kept | apply State.wr_kept | apply Kept.ite | dsimp only

theorem State.iogWrite_kept {s : State} (hk : Kept A P s0 s) {o v : Nat} (hA : ∀ a ∈ allAreas, a ∈ A)
    (hP : ∀ p ∈ ([.out, .pw, .rcd, .io] : List Part), p ∈ P) :
    Kept A P s0 (State.iogWrite s o v) := by
  unfold State.iogWrite
  repeat' first
    | with_reducible assumption | exact inA hA rfl | exact subA hA rfl | exact .inl (inP hP rfl) | exact subP hP rfl
    | with_reducible first
      | intro _ | apply State.channelAck_kept | apply State.groupReset_kept | apply State.plainWrite_kept
      | apply State.supplyAck_kept | apply State.syncChan_kept | apply Kept.ite | dsimp only

theorem State.hbufWrite_kept {s : State} (hk : Kept A P s0 s) {master o v : Nat}
    (hA : ∀ a ∈ ([.pend, .ecc, .cpc, .cvu, .ingress] : List Area), a ∈ A)
    (hP : ∀ p ∈ ([.mem, .leMem, .resp, .pw, .rcd, .cop, .ecc, .cvu] : List Part), p ∈ P) :
    Kept A P s0 (State.hbufWrite s master o v) := by
  unfold State.hbufWrite
  repeat' first
    | with_reducible assumption | exact inA hA rfl | exact subA hA rfl | exact .inl (inP hP rfl) | exact subP hP rfl
    | with_reducible first
      | intro _ | apply State.answer_kept | apply State.mergeStore_kept | apply Kept.ite
      | refine Kept.snd ?_ (by assumption) | refine Kept.fst ?_ (by assumption) | split | dsimp only

theorem State.cnpWrite_kept {s : State} (hk : Kept A P s0 s) {m : RegMaster} {o v : Nat}
    (hA : ∀ a ∈ allAreas, a ∈ A)
    (hP : ∀ p ∈ ([.mem, .leMem, .resp, .out, .pw, .rcd, .cop, .ecc, .cnp, .fab, .cvu, .rwy, .ust] : List Part), p ∈ P) :
    Kept A P s0 (State.cnpWrite s m o v) := by
  unfold State.cnpWrite
  repeat' first
    | with_reducible assumption | exact inA hA rfl | exact subA hA rfl | exact .inl (inP hP rfl) | exact subP hP rfl
    | with_reducible exact rfl | exact .inr rfl
    | with_reducible first
      | intro _ | apply State.claimRequest_kept | apply State.hbufCommit_kept | apply State.hbufWrite_kept
      | apply State.listenRequest_kept | apply State.plainWrite_kept | apply State.planeResetStart_kept
      | apply State.releaseRequest_kept | apply Kept.ite | split | dsimp only
    | fail_if_no_progress with_reducible apply Kept.upd

theorem State.rwyWrite_kept {s : State} (hk : Kept A P s0 s) {o v : Nat} (hA : ∀ a ∈ allAreas, a ∈ A)
    (hP : ∀ p ∈ ([.resp, .out, .pw, .rcd, .cnp, .fab, .cvu, .rwy] : List Part), p ∈ P) :
    Kept A P s0 (State.rwyWrite s o v) := by
  unfold State.rwyWrite
  repeat' first
    | with_reducible assumption | exact inA hA rfl | exact subA hA rfl | exact .inl (inP hP rfl) | exact subP hP rfl
    | with_reducible first
      | intro _ | apply State.aperEnable_kept | apply State.plainWrite_kept | apply State.rootwayReset_kept
      | apply State.rwResolve_kept | apply Kept.ite | dsimp only

theorem State.portWrite_kept {s : State} (hk : Kept A P s0 s) {p r v : Nat} (hA : ∀ a ∈ allAreas, a ∈ A)
    (hP : ∀ p ∈ ([.mem, .leMem, .out, .fresh, .pw, .rcd, .cop, .ecc, .cnp, .ust] : List Part), p ∈ P) :
    Kept A P s0 (State.portWrite s p r v) := by
  unfold State.portWrite
  repeat' first
    | with_reducible assumption | exact inA hA rfl | exact subA hA rfl | exact .inl (inP hP rfl) | exact subP hP rfl
    | with_reducible first
      | intro _ | apply State.plainWrite_kept | apply State.portDisable_kept | apply State.portEnable_kept
      | apply State.portReset_kept | apply State.portStart_kept | apply Kept.ite | dsimp only

theorem State.ustWrite_kept {s : State} (hk : Kept A P s0 s) {o v : Nat} (hA : ∀ a ∈ allAreas, a ∈ A)
    (hP : ∀ p ∈ ([.mem, .leMem, .out, .fresh, .pw, .rcd, .cop, .ecc, .cnp, .ust] : List Part), p ∈ P) :
    Kept A P s0 (State.ustWrite s o v) := by
  unfold State.ustWrite
  repeat' first
    | with_reducible assumption | exact inA hA rfl | exact subA hA rfl | exact .inl (inP hP rfl) | exact subP hP rfl
    | with_reducible first
      | intro _ | apply State.plainWrite_kept | apply State.portWrite_kept | apply State.tunResolve_kept
      | apply Kept.ite | dsimp only

theorem State.cvuUnitWrite_kept {s : State} (hk : Kept A P s0 s) {u r v : Nat} (hA : ∀ a ∈ allAreas, a ∈ A)
    (hP : ∀ p ∈ ([.cvu] : List Part), p ∈ P) :
    Kept A P s0 (State.cvuUnitWrite s u r v) := by
  unfold State.cvuUnitWrite
  repeat' first
    | with_reducible assumption | exact inA hA rfl | exact subA hA rfl | exact .inl (inP hP rfl) | exact subP hP rfl
    | with_reducible first
      | intro _ | apply State.plainWrite_kept | apply State.unitRestart_kept | apply State.wr_kept | apply Kept.ite
      | dsimp only

theorem State.ctxWritesLand_kept {s : State} (hk : Kept A P s0 s) (hA : ∀ a ∈ allAreas, a ∈ A) :
    Kept A P s0 (State.ctxWritesLand s) := by
  unfold State.ctxWritesLand
  repeat' first
    | with_reducible assumption | exact inA hA rfl | exact subA hA rfl | with_reducible exact rfl | exact .inr rfl
    | with_reducible first
      | intro _ | apply State.plainWrite_kept | apply Kept.ite | apply Kept.foldl | split | dsimp only
    | fail_if_no_progress with_reducible apply Kept.upd

theorem State.contextLock_kept {s : State} (hk : Kept A P s0 s) (hA : ∀ a ∈ allAreas, a ∈ A) :
    Kept A P s0 (State.contextLock s) := by
  unfold State.contextLock
  repeat' first
    | with_reducible assumption | exact inA hA rfl | exact subA hA rfl
    | with_reducible first
      | intro _ | apply State.ctxLock_kept | apply State.ctxWritesLand_kept | apply Kept.ite | dsimp only

theorem execContextLock_kept {s : State} (hk : Kept A P s0 s) {t : Nat} (hA : ∀ a ∈ allAreas, a ∈ A)
    (hP : ∀ p ∈ ([.now, .resp, .out] : List Part), p ∈ P) :
    KeptOut A P s0 (execContextLock t s) := by
  unfold execContextLock
  repeat' first
    | with_reducible assumption | exact inA hA rfl | exact subA hA rfl | exact .inl (inP hP rfl) | exact subP hP rfl
    | with_reducible first
      | intro _ | apply KeptOut.next | apply State.begin_kept | apply State.contextLock_kept | apply Kept.ite
      | apply KeptOut.ite | dsimp only

theorem State.cvuWrite_kept {s : State} (hk : Kept A P s0 s) {o v : Nat} (hA : ∀ a ∈ allAreas, a ∈ A)
    (hP : ∀ p ∈ ([.cnp, .cvu] : List Part), p ∈ P) :
    Kept A P s0 (State.cvuWrite s o v) := by
  unfold State.cvuWrite
  repeat' first
    | with_reducible assumption | exact inA hA rfl | exact subA hA rfl | exact .inl (inP hP rfl) | exact subP hP rfl
    | with_reducible first
      | intro _ | apply State.contextLock_kept | apply State.cvuReset_kept | apply State.cvuUnitWrite_kept
      | apply State.plainWrite_kept | apply State.syncCtx_kept | apply Kept.ite | dsimp only

theorem State.recWrite_kept {s : State} (hk : Kept A P s0 s) {m : RegMaster} {o v x : Nat}
    (hA : ∀ a ∈ allAreas, a ∈ A) (hP : ∀ p ∈ ([.mem, .resp, .pw, .rcd, .ecc, .cvu] : List Part), p ∈ P) :
    Kept A P s0 (State.recWrite s m o v x) := by
  unfold State.recWrite
  repeat' first
    | with_reducible assumption | exact inA hA rfl | exact subA hA rfl | exact .inl (inP hP rfl) | exact subP hP rfl
    | with_reducible exact rfl | exact .inr rfl
    | with_reducible first
      | intro _ | apply State.answer_kept | apply State.plainWrite_kept | apply State.readAbort_kept
      | apply State.readStart_kept | apply State.recorderReset_kept | apply State.submit_kept
      | apply State.viaHart_kept | apply Kept.ite | split | dsimp only
    | fail_if_no_progress with_reducible apply Kept.upd

theorem State.fwuWriteCmd_kept {s : State} (hk : Kept A P s0 s) {h : Fin 12} {v : Nat} (hA : ∀ a ∈ allAreas, a ∈ A)
    (hP : ∀ p ∈ ([.now, .mem, .leMem, .resp, .out, .fresh, .pw, .rcd, .std, .lko, .dbg, .cop, .ecc, .io, .eng, .key, .cnp, .fab, .cvu, .rwy, .ust, .fwu, .pmg] : List Part), p ∈ P) :
    Kept A P s0 (State.fwuWriteCmd s h v) := by
  unfold State.fwuWriteCmd
  repeat' first
    | with_reducible assumption | exact inA hA rfl | exact subA hA rfl | exact .inl (inP hP rfl) | exact subP hP rfl
    | with_reducible exact rfl | exact .inr rfl
    | with_reducible first
      | intro _ | apply execFwAbandon_kept | apply execFwActivate_kept | apply execFwBitmap_kept
      | apply execFwConfirm_kept | apply execFwOpen_kept | apply execFwPiece_kept | apply execFwPrepare_kept
      | apply execFwSeedling_kept | apply execFwUnprepare_kept | apply stateOf_kept | split | dsimp only
    | fail_if_no_progress with_reducible apply Kept.upd

theorem State.fwuWrite_kept {s : State} (hk : Kept A P s0 s) {m : RegMaster} {o v : Nat}
    (hA : ∀ a ∈ allAreas, a ∈ A)
    (hP : ∀ p ∈ ([.now, .mem, .leMem, .resp, .out, .fresh, .pw, .rcd, .std, .lko, .dbg, .cop, .ecc, .io, .eng, .key, .cnp, .fab, .cvu, .rwy, .ust, .fwu, .pmg] : List Part), p ∈ P) :
    Kept A P s0 (State.fwuWrite s m o v) := by
  unfold State.fwuWrite
  repeat' first
    | with_reducible assumption | exact inA hA rfl | exact subA hA rfl | exact .inl (inP hP rfl) | exact subP hP rfl
    | with_reducible first
      | intro _ | apply State.answer_kept | apply State.viaHart_kept | apply State.fwuWriteCmd_kept
      | apply State.plainWrite_kept | apply Kept.ite | dsimp only

theorem State.keyWrite_kept {s : State} (hk : Kept A P s0 s) {o v : Nat} (hA : ∀ a ∈ allAreas, a ∈ A)
    (hP : ∀ p ∈ ([.key] : List Part), p ∈ P) :
    Kept A P s0 (State.keyWrite s o v) := by
  unfold State.keyWrite
  repeat' first
    | with_reducible assumption | exact inA hA rfl | exact subA hA rfl | exact .inl (inP hP rfl) | exact subP hP rfl
    | with_reducible first
      | intro _ | apply State.confWrite_kept | apply State.plainWrite_kept | apply Kept.ite | dsimp only

theorem State.bistWrite_kept {s : State} (hk : Kept A P s0 s) {o v : Nat} (hA : ∀ a ∈ allAreas, a ∈ A)
    (hP : ∀ p ∈ ([.fresh, .pw, .rcd, .cop, .ecc, .cnp, .cvu, .ust] : List Part), p ∈ P) :
    Kept A P s0 (State.bistWrite s o v) := by
  unfold State.bistWrite
  repeat' first
    | with_reducible assumption | exact inA hA rfl | exact subA hA rfl | exact .inl (inP hP rfl) | exact subP hP rfl
    | with_reducible exact rfl | exact .inr rfl
    | with_reducible first
      | intro _ | apply State.bistAbort_kept | apply State.bistDepot_kept | apply State.bistStart_kept
      | apply State.plainWrite_kept | apply Kept.ite | split | dsimp only
    | fail_if_no_progress with_reducible apply Kept.upd

theorem State.blockWrite_kept {s : State} (hk : Kept A P s0 s) {m : RegMaster} {b o v x : Nat}
    (hA : ∀ a ∈ allAreas, a ∈ A)
    (hP : ∀ p ∈ ([.now, .mem, .leMem, .resp, .out, .fresh, .pw, .rcd, .std, .lko, .dbg, .cop, .ecc, .io, .eng, .key, .cnp, .fab, .cvu, .rwy, .ust, .fwu, .pmg] : List Part), p ∈ P) :
    Kept A P s0 (State.blockWrite s m b o v x) := by
  unfold State.blockWrite
  repeat' first
    | with_reducible assumption | exact inA hA rfl | exact subA hA rfl | exact .inl (inP hP rfl) | exact subP hP rfl
    | with_reducible exact rfl | exact .inr rfl
    | with_reducible first
      | intro _ | apply State.bistWrite_kept | apply State.cnpWrite_kept | apply State.cvuWrite_kept
      | apply State.eccWrite_kept | apply State.fwuWrite_kept | apply State.iogWrite_kept | apply State.keyWrite_kept
      | apply State.leWrite_kept | apply State.plainWrite_kept | apply State.pwrWrite_kept | apply State.recWrite_kept
      | apply State.rwyWrite_kept | apply State.stdWrite_kept | apply State.sysWrite_kept | apply State.ustWrite_kept
      | split | dsimp only
    | fail_if_no_progress with_reducible apply Kept.upd

theorem State.accessFault_kept {s : State} (hk : Kept A P s0 s) {m : RegMaster} {r : Resp}
    (hP : ∀ p ∈ ([.resp] : List Part), p ∈ P) :
    Kept A P s0 (State.accessFault s m r) := by
  unfold State.accessFault
  repeat' first
    | with_reducible assumption | exact .inl (inP hP rfl) | exact subP hP rfl | with_reducible exact rfl
    | exact .inr rfl
    | with_reducible first
      | intro _ | apply State.answer_kept | split | dsimp only
    | fail_if_no_progress with_reducible apply Kept.upd

theorem State.acknowledged_kept {s : State} (hk : Kept A P s0 s) {m : RegMaster}
    (hP : ∀ p ∈ ([.resp] : List Part), p ∈ P) :
    Kept A P s0 (State.acknowledged s m) := by
  unfold State.acknowledged
  repeat' first
    | with_reducible assumption | exact .inl (inP hP rfl) | exact subP hP rfl | with_reducible exact rfl
    | exact .inr rfl
    | with_reducible first
      | intro _ | apply State.answer_kept | split | dsimp only
    | fail_if_no_progress with_reducible apply Kept.upd

theorem State.regWrite_kept {s : State} (hk : Kept A P s0 s) {m : RegMaster} {addr size v x : Nat}
    (hA : ∀ a ∈ allAreas, a ∈ A)
    (hP : ∀ p ∈ ([.now, .mem, .leMem, .resp, .out, .fresh, .pw, .rcd, .std, .lko, .dbg, .cop, .ecc, .io, .eng, .key, .cnp, .fab, .cvu, .rwy, .ust, .fwu, .pmg] : List Part), p ∈ P) :
    Kept A P s0 (State.regWrite s m addr size v x) := by
  unfold State.regWrite
  repeat' first
    | with_reducible assumption | exact inA hA rfl | exact subA hA rfl | exact .inl (inP hP rfl) | exact subP hP rfl
    | with_reducible first
      | intro _ | apply State.accessFault_kept | apply State.acknowledged_kept | apply State.blockWrite_kept
      | apply Kept.ite | dsimp only

theorem State.registerWrite_kept {s : State} (hk : Kept A P s0 s) {m : RegMaster} {addr size v x : Nat}
    (hA : ∀ a ∈ allAreas, a ∈ A)
    (hP : ∀ p ∈ ([.now, .mem, .leMem, .resp, .out, .fresh, .pw, .rcd, .std, .lko, .dbg, .cop, .ecc, .io, .eng, .key, .cnp, .fab, .cvu, .rwy, .ust, .fwu, .pmg] : List Part), p ∈ P) :
    Kept A P s0 (State.registerWrite s m addr size v x) := by
  unfold State.registerWrite
  repeat' first
    | with_reducible assumption | exact inA hA rfl | exact subA hA rfl | exact .inl (inP hP rfl) | exact subP hP rfl
    | with_reducible exact rfl | exact .inr rfl
    | with_reducible first
      | intro _ | apply State.accessFault_kept | apply State.answer_kept | apply State.regWrite_kept | apply Kept.ite
      | split | dsimp only
    | fail_if_no_progress with_reducible apply Kept.upd

theorem execRegisterWrite_kept {s : State}
    (hk : Kept A P s0 s) {m : RegMaster} {addr : BitVec 36} {size : Fin 4} {v : BitVec 32} {x : Nat} {t : Nat}
    (hA : ∀ a ∈ allAreas, a ∈ A)
    (hP : ∀ p ∈ ([.now, .mem, .leMem, .resp, .out, .fresh, .pw, .rcd, .std, .lko, .dbg, .cop, .ecc, .io, .eng, .key, .cnp, .fab, .cvu, .rwy, .ust, .fwu, .pmg] : List Part), p ∈ P) :
    KeptOut A P s0 (execRegisterWrite m addr size v x t s) := by
  unfold execRegisterWrite
  repeat' first
    | with_reducible assumption | exact inA hA rfl | exact subA hA rfl | exact .inl (inP hP rfl) | exact subP hP rfl
    | with_reducible first
      | intro _ | apply KeptOut.next | apply State.begin_kept | apply State.registerWrite_kept | dsimp only

theorem State.readLatches_kept {s : State} (hk : Kept A P s0 s) {addr : Nat}
    (hA : ∀ a ∈ ([.cnp, .recd] : List Area), a ∈ A) (hP : ∀ p ∈ ([.resp] : List Part), p ∈ P) :
    Kept A P s0 (State.readLatches s addr) := by
  unfold State.readLatches
  repeat' first
    | with_reducible assumption | exact inA hA rfl | exact subA hA rfl | exact .inl (inP hP rfl) | exact subP hP rfl
    | with_reducible first
      | intro _ | apply State.nextRead_kept | apply State.oldestRead_kept | apply State.wr_kept | apply Kept.ite
      | dsimp only

theorem State.regReadAt_kept {s : State} (hk : Kept A P s0 s) {m : RegMaster} {addr : Nat}
    (hA : ∀ a ∈ allAreas, a ∈ A)
    (hP : ∀ p ∈ ([.mem, .leMem, .resp, .out, .fresh, .pw, .rcd, .std, .cop, .ecc, .rwy] : List Part), p ∈ P) :
    Kept A P s0 (State.regReadAt s m addr) := by
  unfold State.regReadAt
  repeat' first
    | with_reducible assumption | exact inA hA rfl | exact subA hA rfl | exact .inl (inP hP rfl) | exact subP hP rfl
    | with_reducible exact rfl | exact .inr rfl
    | with_reducible first
      | intro _ | apply State.accessFault_kept | apply State.answer_kept | apply State.claim_kept
      | apply State.fenceRead_kept | apply State.free_kept | apply State.readClear_kept | apply State.readLatches_kept
      | apply State.seeRange_kept | apply Kept.ite | refine Kept.snd ?_ (by assumption)
      | refine Kept.fst ?_ (by assumption) | split | split | dsimp only
    | fail_if_no_progress with_reducible apply Kept.upd

theorem State.regRead_kept {s : State} (hk : Kept A P s0 s) {m : RegMaster} {addr size : Nat}
    (hA : ∀ a ∈ allAreas, a ∈ A)
    (hP : ∀ p ∈ ([.mem, .leMem, .resp, .out, .fresh, .pw, .rcd, .std, .cop, .ecc, .rwy] : List Part), p ∈ P) :
    Kept A P s0 (State.regRead s m addr size) := by
  unfold State.regRead
  repeat' first
    | with_reducible assumption | exact inA hA rfl | exact subA hA rfl | exact .inl (inP hP rfl) | exact subP hP rfl
    | with_reducible first
      | intro _ | apply State.accessFault_kept | apply State.regReadAt_kept | apply Kept.ite | dsimp only

theorem State.registerRead_kept {s : State} (hk : Kept A P s0 s) {m : RegMaster} {addr size : Nat}
    (hA : ∀ a ∈ allAreas, a ∈ A)
    (hP : ∀ p ∈ ([.mem, .leMem, .resp, .out, .fresh, .pw, .rcd, .std, .cop, .ecc, .rwy] : List Part), p ∈ P) :
    Kept A P s0 (State.registerRead s m addr size) := by
  unfold State.registerRead
  repeat' first
    | with_reducible assumption | exact inA hA rfl | exact subA hA rfl | exact .inl (inP hP rfl) | exact subP hP rfl
    | with_reducible exact rfl | exact .inr rfl
    | with_reducible first
      | intro _ | apply State.accessFault_kept | apply State.answer_kept | apply State.regRead_kept | apply Kept.ite
      | split | dsimp only
    | fail_if_no_progress with_reducible apply Kept.upd

theorem execRegisterRead_kept {s : State}
    (hk : Kept A P s0 s) {m : RegMaster} {addr : BitVec 36} {size : Fin 4} {t : Nat} (hA : ∀ a ∈ allAreas, a ∈ A)
    (hP : ∀ p ∈ ([.now, .mem, .leMem, .resp, .out, .fresh, .pw, .rcd, .std, .cop, .ecc, .rwy] : List Part), p ∈ P) :
    KeptOut A P s0 (execRegisterRead m addr size t s) := by
  unfold execRegisterRead
  repeat' first
    | with_reducible assumption | exact inA hA rfl | exact subA hA rfl | exact .inl (inP hP rfl) | exact subP hP rfl
    | with_reducible first
      | intro _ | apply KeptOut.next | apply State.begin_kept | apply State.registerRead_kept | dsimp only

/-! ### Machine/DebugAccess.lean -/

theorem State.debugChecked_kept {s : State} (hk : Kept A P s0 s) (hP : ∀ p ∈ ([.resp] : List Part), p ∈ P) :
    Kept A P s0 (State.debugChecked s) := by
  unfold State.debugChecked
  repeat' first
    | with_reducible assumption | exact .inl (inP hP rfl) | exact subP hP rfl | with_reducible exact rfl
    | exact .inr rfl
    | with_reducible first
      | intro _ | apply State.answer_kept | split | dsimp only
    | fail_if_no_progress with_reducible apply Kept.upd

theorem State.debugRead_kept {s : State} (hk : Kept A P s0 s) {k : Nat} {target : DbgTarget} {n v : Nat}
    (hA : ∀ a ∈ allAreas, a ∈ A)
    (hP : ∀ p ∈ ([.mem, .leMem, .resp, .out, .fresh, .pw, .rcd, .std, .cop, .ecc, .cnp, .fab, .cvu, .rwy] : List Part), p ∈ P) :
    Kept A P s0 (State.debugRead s k target n v) := by
  unfold State.debugRead
  repeat' first
    | with_reducible assumption | exact inA hA rfl | exact subA hA rfl | exact .inl (inP hP rfl) | exact subP hP rfl
    | with_reducible exact rfl | exact .inr rfl
    | with_reducible first
      | intro _ | apply State.answer_kept | apply State.debugChecked_kept | apply State.leLoadAt_kept
      | apply State.regRead_kept | apply State.seeRange_kept | apply State.windowLoad_kept | apply Kept.ite
      | refine Kept.snd ?_ (by assumption) | refine Kept.fst ?_ (by assumption) | split | split | dsimp only
    | fail_if_no_progress with_reducible apply Kept.upd

theorem State.exhaustedRead_kept {s : State} (hk : Kept A P s0 s) {target : DbgTarget} {n : Nat}
    (hA : ∀ a ∈ allAreas, a ∈ A)
    (hP : ∀ p ∈ ([.mem, .leMem, .resp, .out, .fresh, .pw, .rcd, .std, .cop, .ecc, .rwy] : List Part), p ∈ P) :
    Kept A P s0 (State.exhaustedRead s target n) := by
  unfold State.exhaustedRead
  repeat' first
    | with_reducible assumption | exact inA hA rfl | exact subA hA rfl | exact .inl (inP hP rfl) | exact subP hP rfl
    | with_reducible exact rfl | exact .inr rfl
    | with_reducible first
      | intro _ | apply State.answer_kept | apply State.regRead_kept | apply Kept.ite | split | dsimp only
    | fail_if_no_progress with_reducible apply Kept.upd

theorem execDebugReadStand_kept {s : State}
    (hk : Kept A P s0 s) {k : Fin 4} {target : DbgTarget} {n : Nat} {v : BitVec 64} {t : Nat}
    (hA : ∀ a ∈ allAreas, a ∈ A)
    (hP : ∀ p ∈ ([.now, .mem, .leMem, .resp, .out, .fresh, .pw, .rcd, .std, .cop, .ecc, .cnp, .fab, .cvu, .rwy] : List Part), p ∈ P) :
    KeptOut A P s0 (execDebugReadStand k target n v t s) := by
  unfold execDebugReadStand
  repeat' first
    | with_reducible assumption | exact inA hA rfl | exact subA hA rfl | exact .inl (inP hP rfl) | exact subP hP rfl
    | with_reducible first
      | intro _ | apply KeptOut.next | apply State.attached_kept | apply State.begin_kept | apply State.debugRead_kept
      | apply State.exhaustedRead_kept | apply Kept.ite | apply KeptOut.ite | dsimp only

theorem State.debugApply_kept {s : State} (hk : Kept A P s0 s) {k : Nat} {target : DbgTarget} {bs : List Byte}
    (hA : ∀ a ∈ allAreas, a ∈ A)
    (hP : ∀ p ∈ ([.now, .mem, .leMem, .resp, .out, .fresh, .pw, .rcd, .std, .lko, .dbg, .cop, .ecc, .io, .eng, .key, .cnp, .fab, .cvu, .rwy, .ust, .fwu, .pmg] : List Part), p ∈ P) :
    Kept A P s0 (State.debugApply s k target bs) := by
  unfold State.debugApply
  repeat' first
    | with_reducible assumption | exact inA hA rfl | exact subA hA rfl | exact .inl (inP hP rfl) | exact subP hP rfl
    | with_reducible exact rfl | exact .inr rfl
    | with_reducible first
      | intro _ | apply State.answer_kept | apply State.debugChecked_kept | apply State.leStoreAt_kept
      | apply State.mergeStore_kept | apply State.regWrite_kept | apply State.setStand_kept
      | apply State.windowStore_kept | apply Kept.ite | refine Kept.snd ?_ (by assumption)
      | refine Kept.fst ?_ (by assumption) | split | split | dsimp only
    | fail_if_no_progress with_reducible apply Kept.upd

theorem State.queueReplay_kept {s : State} (hk : Kept A P s0 s) {k : Nat} {es : List Replay}
    (hA : ∀ a ∈ ([.std] : List Area), a ∈ A) (hP : ∀ p ∈ ([.std] : List Part), p ∈ P) :
    Kept A P s0 (State.queueReplay s k es) := by
  unfold State.queueReplay
  repeat' first
    | with_reducible assumption | exact inA hA rfl | exact subA hA rfl | exact .inl (inP hP rfl) | exact subP hP rfl
    | with_reducible exact rfl | exact .inr rfl
    | with_reducible first
      | intro _ | apply State.setStand_kept | apply State.wr_kept | dsimp only
    | fail_if_no_progress with_reducible apply Kept.upd

theorem State.debugWrite_kept {s : State} (hk : Kept A P s0 s) {k : Nat} {target : DbgTarget} {bs : List Byte}
    (hA : ∀ a ∈ allAreas, a ∈ A)
    (hP : ∀ p ∈ ([.now, .mem, .leMem, .resp, .out, .fresh, .pw, .rcd, .std, .lko, .dbg, .cop, .ecc, .io, .eng, .key, .cnp, .fab, .cvu, .rwy, .ust, .fwu, .pmg] : List Part), p ∈ P) :
    Kept A P s0 (State.debugWrite s k target bs) := by
  unfold State.debugWrite
  repeat' first
    | with_reducible assumption | exact inA hA rfl | exact subA hA rfl | exact .inl (inP hP rfl) | exact subP hP rfl
    | with_reducible first
      | intro _ | apply State.answer_kept | apply State.debugApply_kept | apply State.queueReplay_kept
      | apply Kept.ite | dsimp only

theorem execDebugWriteStand_kept {s : State}
    (hk : Kept A P s0 s) {k : Fin 4} {target : DbgTarget} {bs : List Byte} {t : Nat} (hA : ∀ a ∈ allAreas, a ∈ A)
    (hP : ∀ p ∈ ([.now, .mem, .leMem, .resp, .out, .fresh, .pw, .rcd, .std, .lko, .dbg, .cop, .ecc, .io, .eng, .key, .cnp, .fab, .cvu, .rwy, .ust, .fwu, .pmg] : List Part), p ∈ P) :
    KeptOut A P s0 (execDebugWriteStand k target bs t s) := by
  unfold execDebugWriteStand
  repeat' first
    | with_reducible assumption | exact inA hA rfl | exact subA hA rfl | exact .inl (inP hP rfl) | exact subP hP rfl
    | with_reducible first
      | intro _ | apply KeptOut.next | apply State.attached_kept | apply State.begin_kept
      | apply State.debugWrite_kept | dsimp only

end Sys2Proof.Machine
end

