-- ==== Sys2Proof/WellFormed.lean ====
section
/-!
DEFINITION. What a command must be to be one the module can be sent. The operands whose types are words, bit vectors and
bounded numbers are in range by type; what is left to check is the operands that are plain numbers or lists.
-/

namespace Sys2Proof

/-- A Canopy or service frame without its FCS: the addresses and the type at least, 1518 bytes with the FCS at most. -/
def frameOk (f : List Byte) : Bool := decide (14 ≤ f.length) && decide (f.length ≤ 1514)

/-- A journal in slots of 64 bytes, 16,384 of them at most (R74). -/
def journalOk (j : List (List Byte)) : Bool := decide (j.length ≤ 16384) && j.all fun r => r.length == 64

/-- An image area: its container of 0x2000 bytes and its payload lie within 30 MiB (R74). -/
def KeyArea.wf (a : KeyArea) : Bool := a.container.length == 0x2000 && decide (a.payload.length ≤ 0x1DFE000)

/-- The contents of a key: descriptor, journals and areas have their lengths. -/
def KeyMem.wf (m : KeyMem) : Bool :=
  decide (16 ≤ m.desc.length) && journalOk m.comm && journalOk m.hist && m.areaA.wf && m.areaB.wf

/-- A register of lane A by any number, or an address of the 36-bit memory map. -/
def DbgTarget.wf : DbgTarget → Bool
  | .reg _ => true
  | .mem a => decide (a < 2 ^ 36)

/-- Whether a command's plain operands lie in the ranges the spec gives them. -/
def Instr.wf : Instr → Bool
  | .statusLinkFrame _ volt currs _ _ _ => decide (volt < 65536) && currs.length == 16 && currs.all fun c => decide (c < 65536)
  | .clockMonitorWindow _ khz _ => khz.length == 14
  | .keyPresentChange m _ => match m with | some m => m.wf | none => true
  | .confirmationDone back _ => back.length == 64
  | .historyRecordWrite back _ => match back with | some r => r.length == 64 | none => true
  | .debugReadStand _ target n _ _ => target.wf && decide (1 ≤ n)
  | .debugWriteStand _ target bs _ => target.wf && !bs.isEmpty
  | .memoryRead _ _ row off n _ _ _ _ _ => decide (row < 2 ^ 28) && decide (off.val + n.val ≤ 32)
  | .memoryWrite _ addr bs _ _ _ _ _ => decide (addr.toNat % 32 + bs.length ≤ 32)
  | .scrubRead _ row _ _ _ _ _ _ => decide (row < 2 ^ 28)
  | .syncFrame _ f _ _ _ => frameOk f
  | .eventFrame _ f _ _ => frameOk f
  | .blazeFrame _ f _ _ => frameOk f
  | .claimFrame f _ => frameOk f
  | .rangerSafeCopy _ f _ => frameOk f
  | .tunnelFrame f _ => frameOk f
  | .fwHello _ f _ => frameOk f
  | .fwOffer _ f _ => frameOk f
  | .fwGet _ f _ => frameOk f
  | .fwData _ f _ _ => frameOk f
  | .fwNack _ f _ => frameOk f
  | _ => true

end Sys2Proof
end

