-- ==== Sys2Proof/Tests/Slice0.lean ====
section
/-!
SUPPORT. Tests on values that the spec states, each about one step on a small state, and a refused term for every check of
WellFormed. The expected results come from the spec's tables, worked examples and pseudocode, named with each test.
-/

namespace Sys2Proof.Machine.Tests

-- one proof at a time: the package is compiled as one file, in bounded memory
set_option Elab.async false

/-! ### Small states -/

/-- A running module. -/
def powered : State :=
  { State.reset with
    pw := { State.reset.pw with phase := .running, feedA := ⟨true, false, false⟩, feedB := ⟨true, false, false⟩ }
    now := 5000 }

/-- A running module whose stand S0 runs as a TRIAD on the cores 0 to 2. -/
def running : State :=
  ((((powered.wr (STD_Sk_STAT_MODE 0) modeTriad).wr (STD_Sk_STAT_STATE 0) stRunning).wr (laneFld 0 0) 0).wr (laneFld 0 1) 1).wr
    (laneFld 0 2) 2

/-- Engine LE1 runs instruction 600 of its main program, the instructions 512 to 711. -/
def engineRuns (x : Engine) : State :=
  (((running.wr (LE_Ee_STAT_STATE 1) leRunning).setEngine 1
    { x with executing := true, blk := 255, pc := 600, takeUs := 1000 }).putLeBytes (leBankBase 1 0 + 4 * 510)
      (leBytes 4 512 ++ leBytes 4 200))

/-- The state that a command leads to. -/
def after (c : Instr) (s : State) : State := match exec c s with | .next u => u | _ => s

/-- The state after an instruction word. -/
def word (w : Nat) (s : State) : State := s.leExecWord 1 w 0

/-! ### WellFormed refuses -/

theorem test_wf_status_volt : (Instr.statusLinkFrame 0 65536 (List.replicate 16 0) 0 0 0).wf = false := by decide
theorem test_wf_status_count : (Instr.statusLinkFrame 0 0 [1] 0 0 0).wf = false := by decide
theorem test_wf_status_current : (Instr.statusLinkFrame 0 0 (List.replicate 16 65536) 0 0 0).wf = false := by decide
theorem test_wf_clock_count : (Instr.clockMonitorWindow 0 [] 0).wf = false := by decide
theorem test_wf_key : (Instr.keyPresentChange (some ⟨[], [], [], ⟨[], []⟩, ⟨[], []⟩⟩) 0).wf = false := by decide
theorem test_wf_journal : journalOk [[0]] = false := by decide
theorem test_wf_area : KeyArea.wf ⟨[], []⟩ = false := by decide
theorem test_wf_confirmation : (Instr.confirmationDone [] 0).wf = false := by decide
theorem test_wf_history : (Instr.historyRecordWrite (some []) 0).wf = false := by decide
theorem test_wf_debug_read_length : (Instr.debugReadStand 0 (.mem 0) 0 0 0).wf = false := by decide
theorem test_wf_debug_read_address : (Instr.debugReadStand 0 (.mem (2 ^ 36)) 4 0 0).wf = false := by decide
theorem test_wf_debug_write : (Instr.debugWriteStand 0 (.mem 0) [] 0).wf = false := by decide
theorem test_wf_memory_read : (Instr.memoryRead .recorder 2 0 31 2 0 false false false 0).wf = false := by decide
theorem test_wf_memory_write : (Instr.memoryWrite .recorder 31 [0, 0] false 0 false false 0).wf = false := by decide
theorem test_wf_scrub_row : (Instr.scrubRead 0 (2 ^ 28) 0 false false false false 0).wf = false := by decide
theorem test_wf_frame_short : frameOk [0] = false := by decide
theorem test_wf_frame_long : frameOk (List.replicate 1515 0) = false := by decide +kernel
theorem test_wf_accepts : (Instr.registerWrite (.hart 0) 0x10500000 2 0 0 0).wf = true := by decide

/-! ### Check values (R382: the table's values over "123456789") -/

/-- The nine ASCII bytes. -/
def nine : List Byte := [0x31, 0x32, 0x33, 0x34, 0x35, 0x36, 0x37, 0x38, 0x39]

theorem test_crc32c : crc32c nine = 0xE3069283 := by decide +kernel
theorem test_crc32 : crc32Seed 0xFFFFFFFF nine = 0xCBF43926 := by decide +kernel
theorem test_crc16 : crc16Seed 0xFFFF nine = 0x906E := by decide +kernel
theorem test_crc64 : crc64Seed 0 nine = 0x6C40DF5F0B497347 := by decide +kernel

/-! ### The door rung (the worked example after R198: its words, and the effects it gives) -/

/-- BOPEN ANDN, CH038: BA is pushed with ANDN, and BA takes the input, 0 here. -/
theorem test_rung_bopen : ((word 0x3C100026 (engineRuns { engineInit with ba := true })).engine 1).bstack = [(true, 1)] := by
  decide +kernel
/-- BCLOSE: BA is the pushed BA and not BA. -/
theorem test_rung_bclose :
    ((word 0x40000000 (engineRuns { engineInit with ba := false, bstack := [(true, 1)] })).engine 1).ba = true := by
  decide +kernel
/-- ST CH040: bit address 0x1_0028, so bit 0 of byte 0x2005. -/
theorem test_rung_store :
    (word 0x24010028 (engineRuns { engineInit with ba := true })).leByte (leDataBase 1 + 0x2005) = 1 := by decide +kernel
/-- LDS CH037 with the input at 0. -/
theorem test_rung_lds : ((word 0x34000025 (engineRuns { engineInit with si := true })).engine 1).si = false := by
  decide +kernel
/-- CALLH EQV2, 0x4000 with one channel active (R191): the discrepancy runs from now, Q is 0. -/
theorem test_rung_eqv2 :
    let u := word 0xC0C00800 (engineRuns { engineInit with ba := true })
    (u.engine 1).ba = false ∧ u.leNum 1 0x4008 8 = 1000 ∧ u.leNum 1 0x4010 1 = 2 := by decide +kernel

/-! ### Logic engines -/

/-- R175: an all-zero word is illegal, fault 0x01. -/
theorem test_le_zero_word : (word 0 (engineRuns engineInit)).rd (LE_Ee_FAULT_CODE 1) = 1 := by decide +kernel
/-- R180: ADD wraps and sets OV. -/
theorem test_le_add_wraps :
    let u := after (.leAdd 1 2 0 1) (engineRuns { engineInit with wa := 0x7FFFFFFF#32 })
    (u.engine 1).wa = 0x80000000#32 ∧ (u.engine 1).ov = true := by decide +kernel
/-- R179, R180: an immediate of SUB is sign-extended. -/
theorem test_le_sub_sign : ((after (.leSub 1 2 0 0xFFFFF) (engineRuns engineInit)).engine 1).wa = 1#32 := by decide +kernel
/-- R180: SAR by 32 or more leaves the sign. -/
theorem test_le_sar_full :
    ((after (.leSar 1 2 0 32) (engineRuns { engineInit with wa := 0x80000000#32 })).engine 1).wa = 0xFFFFFFFF#32 := by
  decide +kernel
/-- R180: SHL by 32 leaves 0. -/
theorem test_le_shl_full : ((after (.leShl 1 2 0 32) (engineRuns { engineInit with wa := 5#32 })).engine 1).wa = 0#32 := by
  decide +kernel
/-- R188: CV holds at 0x7FFF_FFFF. -/
theorem test_le_ctu_saturates :
    (after (.leCtu 1 0 0x80) ((engineRuns { engineInit with ba := true }).putLeBytes (leDataBase 1 + 0x400)
      (leBytes 4 5 ++ leBytes 4 0x7FFFFFFF))).leNum 1 0x404 4 = 0x7FFFFFFF := by decide +kernel
/-- R195: a misaligned word operand out of range is fault 0x02, which comes before 0x03. -/
theorem test_le_fault_order : firstFault [(true, 3), (true, 2)] = some 2 := by decide
/-- R181, R182: a jump out of the body is fault 0x08. -/
theorem test_le_jump_out : (after (.leJmp 1 0 0 111) (engineRuns engineInit)).rd (LE_Ee_FAULT_CODE 1) = 8 := by
  decide +kernel

/-! ### Registers, memory, channels -/

/-- R13: a byte store to a register faults. -/
theorem test_reg_width : (after (.registerWrite (.hart 0) 0x10500000 0 1 0 7) running).resp = .storeFault := by decide +kernel
/-- R16: W1C clears the bits written as 1. -/
theorem test_reg_w1c :
    (after (.registerWrite (.hart 0) 0x10500000 2 2 0 7) (running.wr CPC_STAT_ROWEV 1)).rd CPC_STAT_ROWEV = 0 := by
  decide +kernel
/-- R16: RC returns the value and clears it. -/
theorem test_reg_rc :
    let u := after (.registerRead (.hart 0) 0x10100108 2 7) (running.wr (PWR_FEEDn_REVCNT_CNT 0) 5)
    u.resp = .ok 5 ∧ u.rd (PWR_FEEDn_REVCNT_CNT 0) = 0 := by decide +kernel
/-- R55: REVCNT holds at 0xFFFF. -/
theorem test_revcnt_saturates :
    (after (.reverseCurrentEvent 1 7) (running.wr (PWR_FEEDn_REVCNT_CNT 1) 0xFFFF)).rd (PWR_FEEDn_REVCNT_CNT 1) = 0xFFFF := by
  decide +kernel
/-- R147: a source of priority 0 sets nothing. -/
theorem test_event_priority_zero : (running.raise 236).pends 236 0 = false := by decide +kernel
/-- R147: a source sets the bit of the stands of its mask. -/
theorem test_event_mask :
    let u := ((running.wr (STD_EVTi_ROUTE_PRIO 236) 1).wr (STD_EVTi_ROUTE_STANDS 236) 4).raise 236
    u.pends 236 2 = true ∧ u.pends 236 0 = false := by decide +kernel

/-! ### The queue -/

theorem test_step_idle : step running = .next running := rfl
theorem test_step_front : (match step { running with pending := [.feedHighSet 0 9, .feedHighClear 0 9] } with
    | .next u => u.pending == [.feedHighClear 0 9] && (u.feed 0).high | _ => false) = true := by decide +kernel

end Sys2Proof.Machine.Tests
end

