-- ==== Sys2Proof/Tests/Witnesses.lean ====
section
/-!
SUPPORT. For every statement with hypotheses, states and operands that meet them: each line of a theorem gives the hypotheses
of one clause, or of clauses that stand together, for one state and choice of operands. Hypotheses that depend on a function
without a body (a signature check, a free value) are left out, and so is that key apply finds no section to refuse, which is
too long to evaluate.
-/

namespace Sys2Proof.Machine.Tests

-- one proof at a time: the package is compiled as one file, in bounded memory
set_option Elab.async false
set_option maxRecDepth 4000
set_option linter.all false

/-- A running module, and the same with its stands formed and running as TRIADs. -/
def rr : State := { State.reset with pw := { State.reset.pw with phase := .running, feedA := ⟨true, false, false⟩, feedB := ⟨true, false, false⟩ }, now := 5000 }
def r0 : State := [0, 1, 2, 3].foldl (fun s k => (((((s.wr (STD_Sk_STAT_MODE k) modeTriad).wr (STD_Sk_STAT_STATE k) stRunning).wr (laneFld k 0) (3 * k)).wr (laneFld k 1) (3 * k + 1)).wr (laneFld k 2) (3 * k + 2)).setStand k { standInit with formed := true }) rr

namespace W01

abbrev routed : State := r0
def r1 : State := { routed with pw := { routed.pw with feedB := ⟨false, false, false⟩}}
def r2 := { routed with pw := {routed.pw with start := {routed.pw.start with measure := true}, failing := true}}

theorem witness_FeedJudgements :
    (((State.feed routed 0).good = true)) := by
  decide +kernel

theorem witness_FeedLossAndReturn :
    (((State.feed routed 1).good = true) ∧ ((State.feed routed (1 - 1)).good = true)) ∧
    (((State.feed r1 0).good = true) ∧ ((State.feed r1 (1 - 0)).good = false) ∧ (r1.pw.phase = RunPhase.running)) ∧
    (((State.feed r1 1).good = false) ∧ (r1.pw.phase = RunPhase.running)) := by
  refine ⟨?_, ?_, ?_⟩ <;>
    decide +kernel

theorem witness_HoldupStore :
    ((r2.pw.start.measure = true) ∧ (1200 ≤ 1200)) ∧
    ((r2.pw.start.measure = true) ∧ (1199 < 1200)) ∧
    ((r2.pw.failing = true)) := by
  refine ⟨?_, ?_, ?_⟩ <;>
    decide +kernel

end W01

namespace W02

abbrev routed : State := r0
def off1 := { State.reset with pw := { State.reset.pw with phase := .off, feedA := ⟨true,false,false⟩}}
def kk := (routed.wr SYS_RSTCNT_SOFTWARE 0xFF).wr SYS_RSTCNT_CLOCK 4
def w2216140 : State := {routed with pw := {routed.pw with phase := .locking}}
def w8093634 : State := {kk with pw := {routed.pw with phase := .refLost}}

theorem witness_PowerOnAndLock :
    ((off1.pw.phase = RunPhase.off) ∧ (0 < 2) ∧ ((State.feed off1 0).good = true) ∧ (State.goodStamp off1 0 +
      20000000 ≤ 20000000)) ∧
    ((w2216140.pw.phase = RunPhase.locking)) := by
  refine ⟨?_, ?_⟩ <;>
    decide +kernel

theorem witness_ModuleResets :
    ((State.hartRuns kk 0 = true) ∧ (State.deviceOpen kk 0 268435456 = true) ∧ (State.permits kk 0 0 = true)) ∧
    ((State.hartRuns kk 1 = true) ∧ ((State.deviceOpen kk 1 268435456 && State.permits kk 1 0) = false)) ∧
    ((w8093634.pw.phase = RunPhase.refLost)) ∧
    ((kk.pw.phase = RunPhase.running) ∧ (BitVec.toNat (0 : BitVec 13) = 0)) ∧
    ((kk.pw.phase = RunPhase.running) ∧ (BitVec.toNat (512 : BitVec 13) = 2 ^ 9)) := by
  refine ⟨?_, ?_, ?_, ?_, ?_⟩ <;>
    decide +kernel

end W02

namespace W03

abbrev routed : State := r0
def z1 : State := { routed with pw := { routed.pw with start := { routed.pw.start with keyPhase := true} } }
def ka : KeyArea := ⟨[], []⟩
def km : KeyMem := ⟨[], [], [], ka, ka⟩
def z2 (m : KeyMem) : State := { z1 with key := { z1.key with mem := some m, latched := true }}
def z3 : State := { z1 with pw := { z1.pw with start := { z1.pw.start with keyRead := true} } }.wr KEY_STAT_STATE 2
def z4 : State := ((z2 km).wr KEY_STAT_STATE 1).wr CNP_SYNC_STAT_STATE 2
def z5 : State := {z4 with pw := { z4.pw with start := { z4.pw.start with joined := true}}}
def km3 := {km with hist := [sealRecord (leBytes 2 2 ++ leBytes 2 0 ++ leBytes 4 0 ++ leBytes 8 1 ++ leBytes 8 0)]}
def z6 : State := { ({z3 with fwu := {z3.fwu with slots := []}}.setSlot 0 ⟨0,0,[],[],0⟩ |>.setSlot 1 ⟨0,0,[],[],0⟩) with pw := { z3.pw with start := { z3.pw.start with applied := true} } }
def tbl0 : List Byte := leBytes 4 0x54504E43 ++ leBytes 2 0x100 ++ leBytes 2 0 ++ leBytes 4 (100*256) ++ leBytes 4 10 ++ (List.range 8).flatMap (fun _ => leBytes 4 250)
def idn : List Byte := [1,0,1,0,1,1,0,0] ++ List.replicate 24 0
def pay0 : List Byte := padTo 8 [] ++ leBytes 4 7 ++ leBytes 4 256 ++ padTo 5 [] ++ [2] ++ padTo 42 [] ++
  leBytes 2 1 ++ leBytes 2 0 ++ leBytes 4 96 ++ leBytes 4 32 ++ leBytes 4 0 ++ 
  leBytes 2 3 ++ leBytes 2 0 ++ leBytes 4 128 ++ leBytes 4 48 ++ leBytes 4 0 ++ idn ++ tbl0
def kz : State := {z3.wr KEY_STAT_STATE 0 with key := {z3.key with image := some ⟨[],pay0⟩, area := 1}}
def w2132923 : State := (z2 km)
def w3760299 : State := (z4.wr KEY_CONF_STAT_BUSY 1)
def w2752794 : State := (z4.wr KEY_STAT_STATE 0)
def w1578651 : State := {z4 with key := {z4.key with conf := some (0,[3])}}
def w5914082 : State := {z5 with key := {z5.key with mem := some km3, last := lastValid 2 km3.hist}}
def w2753114 : State := {z2 km with key := {(z2 km).key with conf := some (0,[3])}}
def w1966285 : State := (z6.setSlot 1 {z6.fwSlot 1 with state := slActive})

theorem witness_KeyReading :
    ((z1.pw.phase = RunPhase.running) ∧ (z1.pw.exhausted = false) ∧ (z1.pw.start.keyPhase = true) ∧
      (z1.pw.start.keyRead = false) ∧ (z1.key.mem = none)) ∧
    ((w2132923.pw.phase = RunPhase.running) ∧ (w2132923.pw.exhausted = false) ∧ (w2132923.pw.start.keyPhase = true)
      ∧ (w2132923.pw.start.keyRead = false) ∧ (w2132923.key.mem = some km) ∧ ((2 : Fin 3) ≠ (0 : Fin 3))) ∧
    ((w2132923.pw.phase = RunPhase.running) ∧ (w2132923.pw.exhausted = false) ∧ (w2132923.pw.start.keyPhase = true)
      ∧ (w2132923.pw.start.keyRead = false) ∧ (w2132923.key.mem = some km) ∧ ((0 : Fin 3) = (0 : Fin 3))) := by
  refine ⟨?_, ?_, ?_⟩ <;>
    decide +kernel

theorem witness_KeyApply :
    ((z3.pw.phase = RunPhase.running) ∧ (z3.pw.exhausted = false) ∧ (z3.pw.start.keyRead = true) ∧
      (z3.pw.start.applied = false) ∧ (State.rd z3 KEY_STAT_STATE ≠ 0)) ∧
    ((kz.pw.phase = RunPhase.running) ∧ (kz.pw.exhausted = false) ∧ (kz.pw.start.keyRead = true) ∧
      (kz.pw.start.applied = false) ∧ (kz.key.image = some { container := [], payload := pay0 }) ∧ (State.rd kz
      KEY_STAT_STATE = 0)) := by
  refine ⟨?_, ?_⟩ <;>
    decide +kernel

theorem witness_KeyContacts :
    ((State.keyShown w2132923 = true) ∧ (Option.isSome w2132923.key.mem = true) ∧ (w2132923.key.conf = none)) ∧
    ((State.keyShown w2753114 = true) ∧ (Option.isSome w2753114.key.mem = true) ∧ (Option.isSome w2753114.key.conf
      = true)) ∧
    ((State.keyShown routed = true) ∧ (routed.key.mem = none)) ∧
    ((State.keyShown w2132923 = true) ∧ (w2132923.key.latched = true)) ∧
    ((State.keyShown routed = true) ∧ (routed.key.latched = false)) := by
  refine ⟨?_, ?_, ?_, ?_, ?_⟩ <;>
    decide +kernel

theorem witness_KeyJournals :
    ((z4.pw.phase = RunPhase.running) ∧ (z4.key.mem = some km) ∧ (State.rd z4 KEY_CONF_STAT_BUSY = 0) ∧
      (State.loaded z4 = true) ∧ (z4.key.lost = false) ∧ (State.rd z4 KEY_CONF_CRC = z4.rng.pcrc) ∧ (State.tsync z4
      = true) ∧ (firstBlank z4.key.comm = some 0)) ∧
    ((w3760299.pw.phase = RunPhase.running) ∧ (w3760299.key.mem = some km) ∧ (State.rd w3760299 KEY_CONF_STAT_BUSY
      = 1)) ∧
    ((w2752794.pw.phase = RunPhase.running) ∧ (w2752794.key.mem = some km) ∧ (State.rd w2752794 KEY_CONF_STAT_BUSY
      = 0) ∧ (State.loaded w2752794 = false)) ∧
    ((w1578651.pw.phase = RunPhase.running) ∧ (w1578651.key.mem = some km) ∧ (w1578651.key.conf = some (0, [(3 :
      Byte)])) ∧ (State.historyDue w1578651 = false) ∧ ([] ≠ [(3 : Byte)])) ∧
    ((w5914082.pw.phase = RunPhase.running) ∧ (w5914082.key.mem = some km3) ∧ (State.historyDue w5914082 = true) ∧
      (Option.map (leAt 16 8) w5914082.key.last = some (State.rd64 w5914082 SYS_SERIAL_LO SYS_SERIAL_HI))) ∧
    ((z5.pw.phase = RunPhase.running) ∧ (z5.key.mem = some km) ∧ (State.historyDue z5 = true) ∧ (Option.map (leAt
      16 8) z5.key.last ≠ some (State.rd64 z5 SYS_SERIAL_LO SYS_SERIAL_HI)) ∧ (firstBlank z5.key.hist = some 0)) := by
  refine ⟨?_, ?_, ?_, ?_, ?_, ?_⟩ <;>
    decide +kernel

theorem witness_FirmwareLoad :
    ((z6.pw.phase = RunPhase.running) ∧ (z6.pw.start.applied = true) ∧ (z6.pw.start.firmware = false) ∧ (z6.cop.run
      = none) ∧ (State.slotIn z6 slTrial = none) ∧ (State.slotIn z6 slActive = none) ∧ (State.slotIn z6 slFallback
      = none)) ∧
    ((w1966285.pw.phase = RunPhase.running) ∧ (w1966285.pw.start.applied = true) ∧ (w1966285.pw.start.firmware =
      false) ∧ (w1966285.cop.run = none) ∧ (State.slotIn w1966285 slTrial = none) ∧ (w1966285.fwu.toSeed = false) ∧
      (State.slotIn w1966285 slActive = some 1)) ∧
    ((z6.pw.phase = RunPhase.running) ∧ (State.rd z6 CNP_PORTSTAT_LINKUP = 0) ∧ (z6.pw.start.at_ + 5000000000 ≤
      6000000000) ∧ (z6.fab.started = false) ∧ (State.syncState z6 = syncListen)) := by
  refine ⟨?_, ?_, ?_⟩ <;>
    decide +kernel

end W03

namespace W04

abbrev routed : State := r0
def km0 : KeyMem := ⟨[], [], [], ⟨[],[]⟩, ⟨[],[]⟩⟩
def blk0 : List Byte := leBytes 4 0x50474E52 ++ leBytes 2 0x100 ++ [1,0,0] ++ padTo 23 [] ++ List.replicate 192 0xFF ++ 
  ([6,0,0xFF,0xFF] ++ padTo 16 [] ++ leBytes 2 0x8001 ++ leBytes 2 0x8000 ++ leBytes 2 0x8000 ++ leBytes 2 0x8000 ++ [1,0,0,0] : List Byte)
def pq : List Byte := let h := leBytes 4 0x59454B44 ++ leBytes 2 0 ++ leBytes 2 64 ++ leBytes 4 7 ++ leBytes 4 272 ++ padTo 5 [] ++ [1] ++ padTo 38 [] 
  h ++ leBytes 4 (crc32c h) ++ leBytes 2 6 ++ leBytes 2 0 ++ leBytes 4 80 ++ leBytes 4 blk0.length ++ leBytes 4 (crc32c blk0) ++ blk0
def km1 : KeyMem := {km0 with areaB := ⟨[], pq⟩}
def conn1 : RConn := ⟨5, 6, 99, 10, 0, 1⟩
def pr : RParam := { rngParse blk0 with inputs := [(3,2)], conns := [conn1], pmap := [0] ++ List.replicate 191 0xFF }
def rg : Ranger := { routed.rng with state := rngRun, param := some pr, filters := [(1,false)], edges := [(3,(7,6,5))], pairs := [(2, rpairInit true false)], links := [rlinkInit], evals := [revalInit 0] , evcnt := 2^32-1, pcrc := 5}
def sr : State := {routed with rng := rg}
def m0 : List Byte := leBytes 4 5 ++ leBytes 4 6 ++ leBytes 4 100 ++ leBytes 2 3 ++ leBytes 2 4 ++ leBytes 8 1000 ++ [1,2,3,4]
def m1 := m0 ++ leBytes 4 (crc32cSeed 99 m0)
def frm (m : List Byte) : List Byte := padTo 22 [] ++ [0, 32] ++ padTo 6 [] ++ m
def lf : RLink := {rlinkInit with fresh := true, accepted := true, tmo := 65535}
def w3683939 : State := {routed with key := {routed.key with mem := some km1}}
def w5083132 : RPair := (rpairInit true false)
def w2428741 : List Byte := (frm m1)
def w4353990 : List Byte := (frm (m0++[1,2,3,4]))
def w6950980 : State := {sr with rng := {sr.rng with links := [lf]}}
def w834450 : State := {sr with io := {sr.io with permits := 9}}
def w6326984 : State := (sr.wr RNG_STAT_LINK 1)

theorem witness_RangerKeyPhase :
    ((routed.rng.state = rngKey) ∧ (routed.pw.phase = RunPhase.running) ∧ (routed.key.mem = none)) ∧
    ((w3683939.rng.state = rngKey) ∧ (w3683939.pw.phase = RunPhase.running) ∧ (w3683939.key.mem = some km1) ∧
      (keyRangerChoice km1 = some (1, blk0, 7))) := by
  refine ⟨?_, ?_⟩ <;>
    decide +kernel

theorem witness_RangerInputs :
    ((sr.rng.param = some pr) ∧ (rngEvaluates sr.rng.state = true) ∧ (pr.inputs[0]? = some (3, 2)) ∧
      (sr.rng.filters[0]? = some (1, false)) ∧ (1 ≤ 2) ∧ (sr.pw.phase ≠ RunPhase.off)) ∧
    ((sr.rng.param = some pr) ∧ (rngEvaluates sr.rng.state = true) ∧ (3 % 16 < 4) ∧ (tblFind 3 sr.rng.edges = some
      (7, 6, 5))) ∧
    ((sr.rng.param = some pr) ∧ (rngEvaluates sr.rng.state = true) ∧ (3 % 16 < 4) ∧ (tblFind (3 / 2 * 2)
      sr.rng.pairs = some w5083132) ∧ (w5083132.lastTick ≠ 100)) ∧
    ((tblFind 2 sr.rng.pairs = some w5083132) ∧ (w5083132.hold ≤ 100)) := by
  refine ⟨?_, ?_, ?_, ?_⟩ <;>
    decide +kernel

theorem witness_RangerSafeData :
    ((sr.rng.param = some pr) ∧ (rngEvaluates sr.rng.state = true) ∧ (List.length (slice 30 (beAt 22 2 w2428741)
      w2428741) = beAt 22 2 w2428741) ∧ (beAt 22 2 w2428741 = leAt 14 2 (slice 30 (beAt 22 2 w2428741) w2428741) +
      28) ∧ (List.findIdx? (fun (k : RConn) => k.src == leAt 0 4 (slice 30 (beAt 22 2 w2428741) w2428741) && k.dst
      == leAt 4 4 (slice 30 (beAt 22 2 w2428741) w2428741)) pr.conns = some 0) ∧ (pr.conns[0]? = some conn1) ∧
      (sr.rng.links[0]? = some rlinkInit) ∧ (leAt (24 + leAt 14 2 (slice 30 (beAt 22 2 w2428741) w2428741)) 4
      (slice 30 (beAt 22 2 w2428741) w2428741) = crc32cSeed conn1.seed (slice 0 (24 + leAt 14 2 (slice 30 (beAt 22
      2 w2428741) w2428741)) (slice 30 (beAt 22 2 w2428741) w2428741))) ∧ (rlinkInit.accepted = false) ∧
      (rlinkInit.alive = none)) ∧
    ((sr.rng.param = some pr) ∧ (rngEvaluates sr.rng.state = true) ∧ (List.length (slice 30 (beAt 22 2 w4353990)
      w4353990) = beAt 22 2 w4353990) ∧ (beAt 22 2 w4353990 = leAt 14 2 (slice 30 (beAt 22 2 w4353990) w4353990) +
      28) ∧ (List.findIdx? (fun (k : RConn) => k.src == leAt 0 4 (slice 30 (beAt 22 2 w4353990) w4353990) && k.dst
      == leAt 4 4 (slice 30 (beAt 22 2 w4353990) w4353990)) pr.conns = some 0) ∧ (pr.conns[0]? = some conn1) ∧
      (sr.rng.links[0]? = some rlinkInit) ∧ (leAt (24 + leAt 14 2 (slice 30 (beAt 22 2 w4353990) w4353990)) 4
      (slice 30 (beAt 22 2 w4353990) w4353990) ≠ crc32cSeed conn1.seed (slice 0 (24 + leAt 14 2 (slice 30 (beAt 22
      2 w4353990) w4353990)) (slice 30 (beAt 22 2 w4353990) w4353990)))) ∧
    ((w6950980.rng.param = some pr) ∧ (rngEvaluates w6950980.rng.state = true) ∧ (pr.conns[0]? = some conn1) ∧
      (w6950980.rng.links[0]? = some lf) ∧ (lf.fresh = true) ∧ (lf.accepted = true) ∧ (lf.flt = false) ∧ (lf.tick +
      conn1.timeout * 3800 ≤ 38000)) := by
  refine ⟨?_, ?_, ?_⟩ <;>
    decide +kernel

theorem witness_RangerEvaluations :
    ((sr.rng.param = some pr) ∧ (rngEvaluates sr.rng.state = true) ∧ (9200 ≤ 10000) ∧ (10000 ≤ 10800) ∧
      (sr.pw.phase ≠ RunPhase.off)) ∧
    ((sr.rng.param = some pr) ∧ (rngEvaluates sr.rng.state = true) ∧ (100000 < 9200 ∨ 10800 < 100000) ∧
      (sr.pw.phase ≠ RunPhase.off)) ∧
    ((sr.rng.param = some pr) ∧ (rngEvaluates sr.rng.state = true) ∧ (BitVec.toNat (6 : BitVec 32) ≠ sr.rng.pcrc)) ∧
    ((sr.rng.param = some pr) ∧ (rngEvaluates sr.rng.state = true) ∧ (BitVec.toNat (5 : BitVec 32) = sr.rng.pcrc)) := by
  refine ⟨?_, ?_, ?_, ?_⟩ <;>
    decide +kernel

theorem witness_RangerMirror :
    ((State.dieRuns w834450 = true)) ∧
    ((State.dieRuns w6326984 = true) ∧ (State.rd w6326984 RNG_STAT_LINK = 1) ∧ (Option.getD (List.head?
      w6326984.rng.images) 0 + 100000 ≤ 600000)) := by
  refine ⟨?_, ?_⟩ <;>
    decide +kernel

end W04

namespace W05

abbrev routed : State := r0
def outs : State := ((routed.wr (IOG_CHn_CFG_MODE 19) 1).wr (IOG_CHn_STAT_CMDLANE 19) 1).wr (IOG_CHn_STAT_SWON 19) 1
def rec1 : State := (((outs.wr (IOG_CHn_CFG_RETRY 19) 1).wr (IOG_Gg_CFG_RCOUNT 1) 3).setChan 19 {outs.chan 19 with latch := 32, want := true}).wr (flagFld 19 5) 1
def sup (x : Nat) : State := ((outs.wr (IOG_Gg_STAT_SUPPLY 1) x).wr (IOG_Gg_STAT_LINK 1) 1).setGroup 1 {outs.group 1 with aboveWarn := true, latch := true, seed := false, stale := false}
def cnt (m e : Nat): State := {((((sup 0).wr (IOG_CHn_CFG_MODE 18) m).wr (IOG_CHn_CFG_MODE 19) m).wr (IOG_CHn_CFG_EDGE 18) e) with io := {(sup 0).io with active := true}}
def pu (o : Bool): Pulse := ⟨19, false, o, 0, false, 0, []⟩
def pus (o : Bool) : State := {cnt 1 0 with io := {(cnt 1 0).io with pulse := some (pu o)}}
def len : State → State := fun s => s.wr (IOG_CHn_PULSE_LEN 19) 50
def lane : State := (((pus false).setGroup 1 {(outs.group 1) with cmd := 8, stale := false}).wr (IOG_Gg_CFG_OWNEN 1) 1).wr (LE_Ee_STAT_STATE 0) 2
def w1952982 : State := (sup 0)
def w1011520 : State := (sup 1)
def w962106 : State := (sup 2)
def w6573069 : State := (sup 3)
def w76740 : State := (sup 4)
def w9410040 : State := (cnt 3 0)
def w9470382 : State := ((cnt 3 1).wr (IOG_CHn_CFG_QUAD 18) 1)
def w4509644 : State := (cnt 4 1)
def w4541592 : State := ((cnt 4 1).setChan 18 {(cnt 4 1).chan 18 with gate := some ⟨7,1,9⟩})
def w567464 : State := (((cnt 1 0).setChan 18 {(cnt 4 1).chan 18 with c := 1}).wr (IOG_CHn_FILT_T 18) 2)
def w2584192 : State := (cnt 1 0)
def w2219224 : State := ((cnt 1 0).wr (IOG_Gg_CFG_OWNEN 1) 1)
def w2590199 : Pulse := (pu false)
def w6890817 : State := (len (pus true))
def w9296684 : Pulse := (pu true)
def w460384 : State := (rec1.setGroup 1 {rec1.group 1 with resetting := true})

theorem witness_ChannelTrips :
    ((State.isOutput outs 19 = true) ∧ ((State.chan outs 19).latch = 0) ∧ (State.rd outs (flagFld 19 flTrip) = 0)) ∧
    ((State.isOutput outs 19 = true) ∧ ((State.chan outs 19).latch = 0) ∧ (State.rd outs (flagFld 19 flTherm) = 0)) := by
  refine ⟨?_, ?_⟩ <;>
    decide +kernel

theorem witness_ChannelRecovery :
    ((State.rd rec1 (IOG_CHn_CFG_RETRY 19) = 1) ∧ ((State.chan rec1 19).latch = 2 ^ flTrip) ∧ (State.rd rec1
      (IOG_CHn_FAULT_RETRIES 19) < State.rd rec1 (IOG_Gg_CFG_RCOUNT (19 / 16))) ∧ (State.rd rec1
      (IOG_CHn_FAULT_RETRIES 19) < 15) ∧ ((State.chan rec1 19).tripAt + State.rd rec1 (IOG_Gg_CFG_RDELAY (19 / 16))
      * 100000000 ≤ 60000000000)) ∧
    (((State.chan rec1 19).want = true) ∧ ((State.chan rec1 19).since + 60000000000 ≤ 60000000000) ∧ ((State.chan
      rec1 19).tripAt ≤ (State.chan rec1 19).since)) ∧
    ((rec1.pw.phase = RunPhase.running)) := by
  refine ⟨?_, ?_, ?_⟩ <;>
    decide +kernel

theorem witness_SupplyStates :
    ((State.supply w1952982 1 = supNormal)) ∧
    ((State.supply w1952982 1 = supNormal ∨ State.supply w1952982 1 = supWarning)) ∧
    ((State.supply w76740 1 ≠ supStarting) ∧ (State.supply w76740 1 ≠ supUnpowered)) ∧
    ((State.rd w962106 (IOG_Gg_STAT_LINK 1) = 1) ∧ (State.supply w962106 1 = supUnder)) ∧
    ((State.rd w1011520 (IOG_Gg_STAT_LINK 1) = 1) ∧ (State.supply w1011520 1 = supWarning)) ∧
    ((State.rd w6573069 (IOG_Gg_STAT_LINK 1) = 1) ∧ (State.supply w6573069 1 = supUnpowered) ∧ (State.rd w6573069
      (IOG_Gg_CFG_AUTOREC 1) = 0)) ∧
    ((State.supply w76740 1 = supRecovered)) := by
  refine ⟨?_, ?_, ?_, ?_, ?_, ?_, ?_⟩ <;>
    decide +kernel

theorem witness_StatusLinks :
    ((State.dieRuns w1952982 = true)) ∧
    ((State.rd w1952982 (IOG_Gg_STAT_LINK 1) = 1) ∧ ((State.group w1952982 1).frame + 50000 ≤ 600000) ∧
      (State.supply w1952982 1 ≠ supStarting) ∧ (State.supply w1952982 1 ≠ supUnpowered)) := by
  refine ⟨?_, ?_⟩ <;>
    decide +kernel

theorem witness_CountersAndGates :
    ((w9410040.io.active = true) ∧ ((State.group w9410040 (18 / 16)).resetting = false) ∧ (State.supply w9410040
      (18 / 16) ≠ supUnpowered) ∧ (State.chMode w9410040 18 = modeCounter) ∧ (State.quadB w9410040 18 = false) ∧
      (State.rd w9410040 (IOG_CHn_CFG_QUAD 18) = 0)) ∧
    ((w9470382.io.active = true) ∧ ((State.group w9470382 (18 / 16)).resetting = false) ∧ (State.supply w9470382
      (18 / 16) ≠ supUnpowered) ∧ (State.chMode w9470382 18 = modeCounter) ∧ (State.quadB w9470382 18 = false) ∧
      (State.rd w9470382 (IOG_CHn_CFG_QUAD 18) = 1)) ∧
    ((w4509644.io.active = true) ∧ ((State.group w4509644 (18 / 16)).resetting = false) ∧ (State.supply w4509644
      (18 / 16) ≠ supUnpowered) ∧ (State.chMode w4509644 18 = modeFrequency) ∧ ((State.chan w4509644 18).gate =
      none)) ∧
    ((w4541592.io.active = true) ∧ ((State.group w4541592 (18 / 16)).resetting = false) ∧ (State.supply w4541592
      (18 / 16) ≠ supUnpowered) ∧ ((State.chan w4541592 18).gate = some { open_ := 7, k := 1, last := 9 }) ∧ (7 +
      100000000 ≤ 100000007)) := by
  refine ⟨?_, ?_, ?_, ?_⟩ <;>
    decide +kernel

theorem witness_ScannerSamples :
    ((w567464.io.active = true) ∧ (10000 % 10000 = 0) ∧ (w567464.io.pulse = none) ∧ ((State.group w567464
      1).resetting = false) ∧ ((State.group w567464 1).seed = false) ∧ ((State.chan w567464 (16 * 1 + 2)).frozen ≤
      10000)) ∧
    ((250001 % 10000 ≠ 0)) := by
  refine ⟨?_, ?_⟩ <;>
    decide +kernel

theorem witness_StaleOutputs :
    ((State.rd w2219224 (IOG_Gg_CFG_OWNEN 1) = 1) ∧ (State.rd w2219224 (IOG_Gg_CFG_MARKED 1) = 0) ∧ ((State.group
      w2219224 1).stale = false) ∧ (State.outLimit w2219224 (State.rd w2219224 (IOG_Gg_CFG_OWNER 1)) < min (2 ^ 32
      - 1) ((600000000 - (State.group w2219224 1).stamp) / 1000) * 1000)) := by
  decide +kernel

theorem witness_OffPulses :
    ((w2584192.io.active = true) ∧ (w2590199.ch < 192) ∧ (2000000 % 2000000 = 0) ∧ (w2584192.io.pulse = none) ∧
      (State.dueChans w2584192 ((2000000 / 2000000 : ℕ) % 12) = []) ∧ (State.dueChans (State.begin w2584192
      2000000) ((2000000 / 2000000 : ℕ) % 12) = [])) ∧
    ((lane.io.active = true) ∧ (w2590199.ch < 192) ∧ (lane.io.pulse = some w2590199) ∧ (w2590199.opened = false) ∧
      (w2590199.openAt + 100000 ≤ 2000000) ∧ (State.decideLane lane w2590199.ch = true) ∧ (State.chMode lane
      w2590199.ch = modeOutput)) ∧
    ((w6890817.io.active = true) ∧ (w9296684.ch < 192) ∧ (w6890817.io.pulse = some w9296684) ∧ (w9296684.opened =
      true) ∧ (w9296684.judged = false) ∧ (State.pulseJudgeAt w6890817 w9296684 ≤ 491000) ∧ (491000 <
      State.pulseJudgeAt w6890817 w9296684 + 10000) ∧ (State.rd w6890817 (IOG_CHn_STAT_RAW w9296684.ch) = 0) ∧
      (w9296684.before = 0)) ∧
    ((w6890817.io.active = true) ∧ (w9296684.ch < 192) ∧ (w6890817.io.pulse = some w9296684) ∧ (w9296684.opened =
      true) ∧ (State.pulseClosesAt w6890817 w9296684 ≤ 2000000)) := by
  refine ⟨?_, ?_, ?_, ?_⟩ <;>
    decide +kernel

theorem witness_GroupResets :
    ((w460384.pw.phase = RunPhase.running)) ∧
    (((State.group w460384 1).resetting = true)) := by
  refine ⟨?_, ?_⟩ <;>
    decide +kernel

end W05

namespace W06

abbrev routed : State := r0
def eng1 : Engine := { engineInit with executing := true, blk := 255, pc := 600, ba := true, wa := 0x7FFFFFFF#32, takeUs := 1000 }
def leS (x : Engine) : State := (((routed.wr (LE_Ee_STAT_STATE 1) 2).setEngine 1 x).putLeBytes (leBankBase 1 0 + 4*510) (leBytes 4 512 ++ leBytes 4 200))
def mem1 (s : State) : State := s.putLeBytes (leDataBase 1 + 0x400) ((List.range 64).map fun i => BitVec.ofNat 8 (i * 37 + 129))
def g1 := mem1 (leS eng1)
def g0 := mem1 (leS {eng1 with ba := false, si := true, xr := 8})
def blkS (x : Engine) : State := ((leS x).putLeBytes (leBankBase 1 0 + 8*18) (leBytes 4 712 ++ leBytes 4 5))
def fr1 : Frame := ⟨700,8,9,0,255⟩
def inst (bs : List Byte) (x : Engine) : State := (leS x).putLeBytes (leDataBase 1 + 0x400) bs
def tm (pt et st fl : Nat) := leBytes 4 pt ++ leBytes 4 et ++ leBytes 8 st ++ leBytes 8 fl
def cmpI (a b c : Nat) := inst (leBytes 4 a ++ leBytes 4 b ++ leBytes 8 c) {eng1 with wa := 100}
def mv (x : Engine) := (inst (leBytes 4 0x404 ++ leBytes 4 0x408 ++ leBytes 8 8 ++ leBytes 8 0x1122334455667788) {x with wa := 100})
def eq2 (dt st fl : Nat) (x : Engine) := inst (leBytes 4 dt ++ leBytes 4 9 ++ leBytes 8 st ++ leBytes 8 fl) x
def mvb (a b n : Nat) (x : Engine) : State := inst (leBytes 4 a ++ leBytes 4 b ++ leBytes 4 n ++ leBytes 4 7) x
def bade : Nat := 1+2*2^8+3*2^16+4*2^24+ 5*2^32+6*2^40+7*2^48
def w8634092 : State := (leS {eng1 with bstack := [(true,5)]})
def w2035378 : State := (leS {eng1 with bstack := List.replicate 16 (true,0)})
def w9109201 : State := (blkS eng1)
def w3602129 : State := (blkS {eng1 with cstack := [fr1], blk := 255})
def w8598151 : State := (blkS {eng1 with cstack := [fr1], ba := false})
def w509302 : State := (inst (tm 500 3 300 6) eng1)
def w9223793 : State := (inst (leBytes 4 5 ++ leBytes 4 4 ++ leBytes 8 0) eng1)
def w34899 : State := (inst (leBytes 8 0) {eng1 with si := true})
def w3447681 : State := (cmpI 100 20 0)
def w927381 : State := (cmpI 110 20 1)
def w9451149 : State := (cmpI 130 20 1)
def w2668094 : State := (cmpI 100 200 1)
def w1302125 : State := (cmpI 130 200 1)
def w8685557 : State := (cmpI 13 20 1)
def w4688932 : State := (mv eng1)
def w8705363 : State := (mv {eng1 with ba := false})
def w2330503 : State := (eq2 100 950 2 eng1)
def w2944561 : State := (eq2 100 850 0 eng1)
def w8910630 : State := (eq2 100 850 4 eng1)
def w5451171 : State := (eq2 100 850 10 eng1)
def w8452756 : State := (eq2 100 850 10 {eng1 with ba:= false, si := true})
def w6848462 : State := (blkS {eng1 with bstack := [], cstack := List.replicate 8 fr1})
def w1173290 : State := ((leS {eng1 with bstack := [], cstack := List.replicate 8 fr1}).putLeBytes (leBankBase 1 0) (leBytes 4 712 ++ leBytes 4 5))
def w4016550 : State := (mvb 0x500 0x7FFFC 8 eng1)
def w6229818 : State := (mvb 0x502 0x600 8 eng1)
def w3980126 : State := (mvb 0x500 0x600 6 eng1)
def w8079980 : State := (g1.setErr 5 16416 bade)
def w492677 : State := (g1.setErr 5 16416 5)

theorem witness_LeBitLogic :
    ((LeGoes g1 1) ∧ (4 < 5)) ∧
    ((LeGoes g0 1) ∧ (1 ≤ 4) ∧ (1 ≠ 2)) ∧
    ((LeGoes g1 1) ∧ ((0 : Fin 4) ≠ (2 : Fin 4)) ∧ (BitOk g1 1 0 8195) ∧ ((State.engine g1 1).ba = true)) ∧
    ((LeGoes g0 1) ∧ ((1 : Fin 4) ≠ (2 : Fin 4)) ∧ (BitOk g0 1 1 8195) ∧ ((State.engine g0 1).ba = false)) ∧
    ((LeGoes g0 1) ∧ (BitOk g0 1 2 1) ∧ (5 ≤ 5) ∧ (List.length (State.engine g0 1).bstack < 16)) ∧
    ((LeGoes w2035378 1) ∧ (BitOk w2035378 1 1 8195) ∧ (0 ≤ 5) ∧ (16 ≤ List.length (State.engine w2035378
      1).bstack)) ∧
    ((LeGoes g1 1) ∧ (5 < 6)) ∧
    ((LeGoes w8634092 1) ∧ ((State.engine w8634092 1).bstack = [(true, 5)]) ∧
      ((match (State.engine w8634092 1).cstack with | [] => 0 | f :: tail => f.depth) ≤ 0) ∧ (5 ≤ 5)) ∧
    ((LeGoes g1 1) ∧ (List.length (State.engine g1 1).bstack ≤
      match (State.engine g1 1).cstack with | [] => 0 | f :: tail => f.depth)) := by
  refine ⟨⟨?_, ?_⟩, ⟨?_, ?_, ?_⟩, ⟨?_, ?_, ?_, ?_⟩, ⟨?_, ?_, ?_, ?_⟩, ⟨?_, ?_, ?_, ?_⟩, ⟨?_, ?_, ?_, ?_⟩, ⟨?_, ?_⟩,
    ⟨?_, ?_, ?_, ?_⟩, ⟨?_, ?_⟩⟩ <;>
    first
      | decide +kernel
      | (simp only [LeGoes, BitOk, WordOk, InstOk, DataSound, FetchSound, EngineSound, RangeSound, Recording, NoSoft, not_and]; decide +kernel)

theorem witness_LeWordArithmetic :
    ((LeGoes g1 1) ∧ (WordOk g1 1 2 0 31)) := by
  refine ⟨?_, ?_⟩ <;>
    first
      | decide +kernel
      | (simp only [LeGoes, BitOk, WordOk, InstOk, DataSound, FetchSound, EngineSound, RangeSound, Recording, NoSoft, not_and]; decide +kernel)

theorem witness_LeCompares :
    ((LeGoes g1 1) ∧ (WordOk g1 1 0 3 1025)) := by
  refine ⟨?_, ?_⟩ <;>
    first
      | decide +kernel
      | (simp only [LeGoes, BitOk, WordOk, InstOk, DataSound, FetchSound, EngineSound, RangeSound, Recording, NoSoft, not_and]; decide +kernel)

theorem witness_LeWordStore :
    ((LeGoes g1 1) ∧ (WordOk g1 1 0 0 1028) ∧ ((0 : Fin 4) ≠ (2 : Fin 4))) := by
  refine ⟨?_, ?_, ?_⟩ <;>
    first
      | decide +kernel
      | (simp only [LeGoes, BitOk, WordOk, InstOk, DataSound, FetchSound, EngineSound, RangeSound, Recording, NoSoft, not_and]; decide +kernel)

theorem witness_LeRegisterInstructions :
    ((LeGoes g1 1)) := by
  first
      | decide +kernel
      | (simp only [LeGoes, BitOk, WordOk, InstOk, DataSound, FetchSound, EngineSound, RangeSound, Recording, NoSoft, not_and]; decide +kernel)

theorem witness_LeJumps :
    ((LeGoes g1 1) ∧ (State.leInBody g1 1 ((State.engine g1 1).pc + 1 + 110) = true) ∧ ((State.engine g1 1).ba =
      true)) ∧
    ((LeGoes g0 1) ∧ (State.leInBody g0 1 ((State.engine g0 1).pc + 1 + 5) = true) ∧ ((State.engine g0 1).ba =
      false)) ∧
    ((LeGoes g1 1) ∧ (State.leInBody g1 1 ((State.engine g1 1).pc + 1 + 111) = false)) := by
  refine ⟨⟨?_, ?_, ?_⟩, ⟨?_, ?_, ?_⟩, ⟨?_, ?_⟩⟩ <;>
    first
      | decide +kernel
      | (simp only [LeGoes, BitOk, WordOk, InstOk, DataSound, FetchSound, EngineSound, RangeSound, Recording, NoSoft, not_and]; decide +kernel)

theorem witness_LeCalls :
    ((LeGoes w9109201 1) ∧ ((0 : Fin 4) ≠ (2 : Fin 4)) ∧ (16 * (65539 / 65536) + 2 ≠ 255) ∧ (State.leLength
      w9109201 1 (16 * (65539 / 65536) + 2) ≠ 0) ∧ (ptrAddr (State.engine w9109201 1) 0 65539 % 8 = 0) ∧ (ptrAddr
      (State.engine w9109201 1) 0 65539 + State.blockSize w9109201 1 (16 * (65539 / 65536) + 2) ≤ leDataSize) ∧
      (ptrAddr (State.engine w9109201 1) 0 65539 < leDataSize) ∧ (List.length (State.engine w9109201 1).cstack <
      8)) ∧
    ((LeGoes w3602129 1) ∧ ((State.engine w3602129 1).cstack = [fr1]) ∧ (List.length (State.engine w3602129
      1).bstack = fr1.depth) ∧ ((State.engine w3602129 1).ba = true)) ∧
    ((LeGoes w8598151 1) ∧ ((State.engine w8598151 1).cstack = [fr1]) ∧ ((State.engine w8598151 1).ba = false)) ∧
    ((LeGoes w9109201 1) ∧ ((State.engine w9109201 1).cstack = [])) := by
  refine ⟨⟨?_, ?_, ?_, ?_, ?_, ?_, ?_, ?_⟩, ⟨?_, ?_, ?_, ?_⟩, ⟨?_, ?_, ?_⟩, ⟨?_, ?_⟩⟩ <;>
    first
      | decide +kernel
      | (simp only [LeGoes, BitOk, WordOk, InstOk, DataSound, FetchSound, EngineSound, RangeSound, Recording, NoSoft, not_and]; decide +kernel)

theorem witness_LeTimers :
    ((LeGoes w509302 1) ∧ (InstOk w509302 1 0 128 24)) := by
  refine ⟨?_, ?_⟩ <;>
    first
      | decide +kernel
      | (simp only [LeGoes, BitOk, WordOk, InstOk, DataSound, FetchSound, EngineSound, RangeSound, Recording, NoSoft, not_and]; decide +kernel)

theorem witness_LeCounters :
    ((LeGoes w9223793 1) ∧ (InstOk w9223793 1 0 128 16)) := by
  refine ⟨?_, ?_⟩ <;>
    first
      | decide +kernel
      | (simp only [LeGoes, BitOk, WordOk, InstOk, DataSound, FetchSound, EngineSound, RangeSound, Recording, NoSoft, not_and]; decide +kernel)

theorem witness_LeTriggersAndLatches :
    ((LeGoes w34899 1) ∧ (InstOk w34899 1 0 128 8)) := by
  refine ⟨?_, ?_⟩ <;>
    first
      | decide +kernel
      | (simp only [LeGoes, BitOk, WordOk, InstOk, DataSound, FetchSound, EngineSound, RangeSound, Recording, NoSoft, not_and]; decide +kernel)

theorem witness_LeCompareBlocks :
    ((LeGoes w3447681 1) ∧ (InstOk w3447681 1 0 128 16) ∧ (toSigned 32 (State.leNum w3447681 1 (ptrAddr
      (State.engine w3447681 1) 0 128) 4) ≤ BitVec.toInt (State.engine w3447681 1).wa)) ∧
    ((LeGoes w9451149 1) ∧ (InstOk w9451149 1 0 128 16) ∧ (BitVec.toInt (State.engine w9451149 1).wa < toSigned 32
      (State.leNum w9451149 1 (ptrAddr (State.engine w9451149 1) 0 128) 4) - (↑(State.leNum w9451149 1 (ptrAddr
      (State.engine w9451149 1) 0 128 + 4) 4) : ℤ))) ∧
    ((LeGoes w927381 1) ∧ (InstOk w927381 1 0 128 16) ∧ (BitVec.toInt (State.engine w927381 1).wa < toSigned 32
      (State.leNum w927381 1 (ptrAddr (State.engine w927381 1) 0 128) 4)) ∧ (toSigned 32 (State.leNum w927381 1
      (ptrAddr (State.engine w927381 1) 0 128) 4) - (↑(State.leNum w927381 1 (ptrAddr (State.engine w927381 1) 0
      128 + 4) 4) : ℤ) ≤ BitVec.toInt (State.engine w927381 1).wa)) ∧
    ((LeGoes w927381 1) ∧ (InstOk w927381 1 0 128 16) ∧ (toSigned 32 (State.leNum w927381 1 (ptrAddr (State.engine
      w927381 1) 0 128 + 4) 4) < toSigned 32 (State.leNum w927381 1 (ptrAddr (State.engine w927381 1) 0 128) 4))) ∧
    ((LeGoes w1302125 1) ∧ (InstOk w1302125 1 0 128 16) ∧ (toSigned 32 (State.leNum w1302125 1 (ptrAddr
      (State.engine w1302125 1) 0 128) 4) ≤ toSigned 32 (State.leNum w1302125 1 (ptrAddr (State.engine w1302125 1)
      0 128 + 4) 4)) ∧ (BitVec.toInt (State.engine w1302125 1).wa < toSigned 32 (State.leNum w1302125 1 (ptrAddr
      (State.engine w1302125 1) 0 128) 4))) ∧
    ((LeGoes w8685557 1) ∧ (InstOk w8685557 1 0 128 16) ∧ (toSigned 32 (State.leNum w8685557 1 (ptrAddr
      (State.engine w8685557 1) 0 128) 4) ≤ toSigned 32 (State.leNum w8685557 1 (ptrAddr (State.engine w8685557 1)
      0 128 + 4) 4)) ∧ (toSigned 32 (State.leNum w8685557 1 (ptrAddr (State.engine w8685557 1) 0 128 + 4) 4) <
      BitVec.toInt (State.engine w8685557 1).wa)) ∧
    ((LeGoes w2668094 1) ∧ (InstOk w2668094 1 0 128 16) ∧ (toSigned 32 (State.leNum w2668094 1 (ptrAddr
      (State.engine w2668094 1) 0 128) 4) ≤ BitVec.toInt (State.engine w2668094 1).wa) ∧ (BitVec.toInt
      (State.engine w2668094 1).wa ≤ toSigned 32 (State.leNum w2668094 1 (ptrAddr (State.engine w2668094 1) 0 128 +
      4) 4))) := by
  refine ⟨⟨?_, ?_, ?_⟩, ⟨?_, ?_, ?_⟩, ⟨?_, ?_, ?_, ?_⟩, ⟨?_, ?_, ?_⟩, ⟨?_, ?_, ?_, ?_⟩, ⟨?_, ?_, ?_, ?_⟩, ⟨?_, ?_,
    ?_, ?_⟩⟩ <;>
    first
      | decide +kernel
      | (simp only [LeGoes, BitOk, WordOk, InstOk, DataSound, FetchSound, EngineSound, RangeSound, Recording, NoSoft, not_and]; decide +kernel)

theorem witness_LeMove :
    ((LeGoes w4688932 1) ∧ (InstOk w4688932 1 0 128 16) ∧ (State.leNum w4688932 1 (ptrAddr (State.engine w4688932
      1) 0 128 + 8) 4 % 4 = 0) ∧ (4 ≤ State.leNum w4688932 1 (ptrAddr (State.engine w4688932 1) 0 128 + 8) 4) ∧
      (State.leNum w4688932 1 (ptrAddr (State.engine w4688932 1) 0 128 + 8) 4 ≤ 32) ∧ (State.leNum w4688932 1
      (ptrAddr (State.engine w4688932 1) 0 128) 4 % 4 = 0) ∧ (State.leNum w4688932 1 (ptrAddr (State.engine
      w4688932 1) 0 128 + 4) 4 % 4 = 0) ∧ (State.leNum w4688932 1 (ptrAddr (State.engine w4688932 1) 0 128) 4 +
      State.leNum w4688932 1 (ptrAddr (State.engine w4688932 1) 0 128 + 8) 4 ≤ leDataSize) ∧ (State.leNum w4688932
      1 (ptrAddr (State.engine w4688932 1) 0 128 + 4) 4 + State.leNum w4688932 1 (ptrAddr (State.engine w4688932 1)
      0 128 + 8) 4 ≤ leDataSize) ∧ (DataSound w4688932 1 (moveClip (State.leNum w4688932 1 (ptrAddr (State.engine
      w4688932 1) 0 128) 4) (State.leNum w4688932 1 (ptrAddr (State.engine w4688932 1) 0 128 + 8) 4)).1 (moveClip
      (State.leNum w4688932 1 (ptrAddr (State.engine w4688932 1) 0 128) 4) (State.leNum w4688932 1 (ptrAddr
      (State.engine w4688932 1) 0 128 + 8) 4)).2) ∧ (DataSound w4688932 1 (moveClip (State.leNum w4688932 1
      (ptrAddr (State.engine w4688932 1) 0 128 + 4) 4) (State.leNum w4688932 1 (ptrAddr (State.engine w4688932 1) 0
      128 + 8) 4)).1 (moveClip (State.leNum w4688932 1 (ptrAddr (State.engine w4688932 1) 0 128 + 4) 4)
      (State.leNum w4688932 1 (ptrAddr (State.engine w4688932 1) 0 128 + 8) 4)).2) ∧ ((State.engine w4688932 1).ba
      = true)) ∧
    ((LeGoes w8705363 1) ∧ (InstOk w8705363 1 0 128 16) ∧ (State.leNum w8705363 1 (ptrAddr (State.engine w8705363
      1) 0 128 + 8) 4 % 4 = 0) ∧ (4 ≤ State.leNum w8705363 1 (ptrAddr (State.engine w8705363 1) 0 128 + 8) 4) ∧
      (State.leNum w8705363 1 (ptrAddr (State.engine w8705363 1) 0 128 + 8) 4 ≤ 32) ∧ (State.leNum w8705363 1
      (ptrAddr (State.engine w8705363 1) 0 128) 4 % 4 = 0) ∧ (State.leNum w8705363 1 (ptrAddr (State.engine
      w8705363 1) 0 128 + 4) 4 % 4 = 0) ∧ (State.leNum w8705363 1 (ptrAddr (State.engine w8705363 1) 0 128) 4 +
      State.leNum w8705363 1 (ptrAddr (State.engine w8705363 1) 0 128 + 8) 4 ≤ leDataSize) ∧ (State.leNum w8705363
      1 (ptrAddr (State.engine w8705363 1) 0 128 + 4) 4 + State.leNum w8705363 1 (ptrAddr (State.engine w8705363 1)
      0 128 + 8) 4 ≤ leDataSize) ∧ ((State.engine w8705363 1).ba = false)) ∧
    ((LeGoes w4016550 1) ∧ (InstOk w4016550 1 0 128 16) ∧ (¬(State.leNum w4016550 1 (ptrAddr (State.engine w4016550
      1) 0 128) 4 + State.leNum w4016550 1 (ptrAddr (State.engine w4016550 1) 0 128 + 8) 4 ≤ leDataSize ∧
      State.leNum w4016550 1 (ptrAddr (State.engine w4016550 1) 0 128 + 4) 4 + State.leNum w4016550 1 (ptrAddr
      (State.engine w4016550 1) 0 128 + 8) 4 ≤ leDataSize)) ∧ ((State.engine w4016550 1).ba = false ∨ DataSound
      w4016550 1 (moveClip (State.leNum w4016550 1 (ptrAddr (State.engine w4016550 1) 0 128) 4) (State.leNum
      w4016550 1 (ptrAddr (State.engine w4016550 1) 0 128 + 8) 4)).1 (moveClip (State.leNum w4016550 1 (ptrAddr
      (State.engine w4016550 1) 0 128) 4) (State.leNum w4016550 1 (ptrAddr (State.engine w4016550 1) 0 128 + 8)
      4)).2 ∧ DataSound w4016550 1 (moveClip (State.leNum w4016550 1 (ptrAddr (State.engine w4016550 1) 0 128 + 4)
      4) (State.leNum w4016550 1 (ptrAddr (State.engine w4016550 1) 0 128 + 8) 4)).1 (moveClip (State.leNum
      w4016550 1 (ptrAddr (State.engine w4016550 1) 0 128 + 4) 4) (State.leNum w4016550 1 (ptrAddr (State.engine
      w4016550 1) 0 128 + 8) 4)).2)) ∧
    ((LeGoes w6229818 1) ∧ (InstOk w6229818 1 0 128 16) ∧ (State.leNum w6229818 1 (ptrAddr (State.engine w6229818
      1) 0 128) 4 + State.leNum w6229818 1 (ptrAddr (State.engine w6229818 1) 0 128 + 8) 4 ≤ leDataSize) ∧
      (State.leNum w6229818 1 (ptrAddr (State.engine w6229818 1) 0 128 + 4) 4 + State.leNum w6229818 1 (ptrAddr
      (State.engine w6229818 1) 0 128 + 8) 4 ≤ leDataSize) ∧ (¬(State.leNum w6229818 1 (ptrAddr (State.engine
      w6229818 1) 0 128) 4 % 4 = 0 ∧ State.leNum w6229818 1 (ptrAddr (State.engine w6229818 1) 0 128 + 4) 4 % 4 =
      0)) ∧ ((State.engine w6229818 1).ba = false ∨ DataSound w6229818 1 (moveClip (State.leNum w6229818 1 (ptrAddr
      (State.engine w6229818 1) 0 128) 4) (State.leNum w6229818 1 (ptrAddr (State.engine w6229818 1) 0 128 + 8)
      4)).1 (moveClip (State.leNum w6229818 1 (ptrAddr (State.engine w6229818 1) 0 128) 4) (State.leNum w6229818 1
      (ptrAddr (State.engine w6229818 1) 0 128 + 8) 4)).2 ∧ DataSound w6229818 1 (moveClip (State.leNum w6229818 1
      (ptrAddr (State.engine w6229818 1) 0 128 + 4) 4) (State.leNum w6229818 1 (ptrAddr (State.engine w6229818 1) 0
      128 + 8) 4)).1 (moveClip (State.leNum w6229818 1 (ptrAddr (State.engine w6229818 1) 0 128 + 4) 4)
      (State.leNum w6229818 1 (ptrAddr (State.engine w6229818 1) 0 128 + 8) 4)).2)) ∧
    ((LeGoes w3980126 1) ∧ (InstOk w3980126 1 0 128 16) ∧ (State.leNum w3980126 1 (ptrAddr (State.engine w3980126
      1) 0 128) 4 + State.leNum w3980126 1 (ptrAddr (State.engine w3980126 1) 0 128 + 8) 4 ≤ leDataSize) ∧
      (State.leNum w3980126 1 (ptrAddr (State.engine w3980126 1) 0 128 + 4) 4 + State.leNum w3980126 1 (ptrAddr
      (State.engine w3980126 1) 0 128 + 8) 4 ≤ leDataSize) ∧ (State.leNum w3980126 1 (ptrAddr (State.engine
      w3980126 1) 0 128) 4 % 4 = 0) ∧ (State.leNum w3980126 1 (ptrAddr (State.engine w3980126 1) 0 128 + 4) 4 % 4 =
      0) ∧ (¬(State.leNum w3980126 1 (ptrAddr (State.engine w3980126 1) 0 128 + 8) 4 % 4 = 0 ∧ 4 ≤ State.leNum
      w3980126 1 (ptrAddr (State.engine w3980126 1) 0 128 + 8) 4 ∧ State.leNum w3980126 1 (ptrAddr (State.engine
      w3980126 1) 0 128 + 8) 4 ≤ 32)) ∧ ((State.engine w3980126 1).ba = false ∨ DataSound w3980126 1 (moveClip
      (State.leNum w3980126 1 (ptrAddr (State.engine w3980126 1) 0 128) 4) (State.leNum w3980126 1 (ptrAddr
      (State.engine w3980126 1) 0 128 + 8) 4)).1 (moveClip (State.leNum w3980126 1 (ptrAddr (State.engine w3980126
      1) 0 128) 4) (State.leNum w3980126 1 (ptrAddr (State.engine w3980126 1) 0 128 + 8) 4)).2 ∧ DataSound w3980126
      1 (moveClip (State.leNum w3980126 1 (ptrAddr (State.engine w3980126 1) 0 128 + 4) 4) (State.leNum w3980126 1
      (ptrAddr (State.engine w3980126 1) 0 128 + 8) 4)).1 (moveClip (State.leNum w3980126 1 (ptrAddr (State.engine
      w3980126 1) 0 128 + 4) 4) (State.leNum w3980126 1 (ptrAddr (State.engine w3980126 1) 0 128 + 8) 4)).2)) := by
  refine ⟨⟨?_, ?_, ?_, ?_, ?_, ?_, ?_, ?_, ?_, ?_, ?_, ?_⟩, ⟨?_, ?_, ?_, ?_, ?_, ?_, ?_, ?_, ?_, ?_⟩, ⟨?_, ?_, ?_,
    ?_⟩, ⟨?_, ?_, ?_, ?_, ?_, ?_⟩, ⟨?_, ?_, ?_, ?_, ?_, ?_, ?_, ?_⟩⟩ <;>
    first
      | decide +kernel
      | (simp only [LeGoes, BitOk, WordOk, InstOk, DataSound, FetchSound, EngineSound, RangeSound, Recording, NoSoft, not_and]; decide +kernel)

theorem witness_LeEquivalence :
    ((LeGoes w8452756 1) ∧ (InstOk w8452756 1 0 128 24) ∧ ((State.engine w8452756 1).ba = false) ∧ (((State.engine
      w8452756 1).si ^^ bitAt (State.leNum w8452756 1 (ptrAddr (State.engine w8452756 1) 0 128 + 16) 1) 3) =
      false)) ∧
    ((LeGoes w5451171 1) ∧ (InstOk w5451171 1 0 128 24) ∧ ((State.engine w5451171 1).ba = true) ∧ (((State.engine
      w5451171 1).si ^^ bitAt (State.leNum w5451171 1 (ptrAddr (State.engine w5451171 1) 0 128 + 16) 1) 3) = true)) ∧
    ((LeGoes w8910630 1) ∧ (InstOk w8910630 1 0 128 24) ∧ ((State.engine w8910630 1).ba ≠ ((State.engine w8910630
      1).si ^^ bitAt (State.leNum w8910630 1 (ptrAddr (State.engine w8910630 1) 0 128 + 16) 1) 3)) ∧ (bitAt
      (State.leNum w8910630 1 (ptrAddr (State.engine w8910630 1) 0 128 + 16) 1) 2 = true)) ∧
    ((LeGoes w2944561 1) ∧ (InstOk w2944561 1 0 128 24) ∧ ((State.engine w2944561 1).ba ≠ ((State.engine w2944561
      1).si ^^ bitAt (State.leNum w2944561 1 (ptrAddr (State.engine w2944561 1) 0 128 + 16) 1) 3)) ∧ (bitAt
      (State.leNum w2944561 1 (ptrAddr (State.engine w2944561 1) 0 128 + 16) 1) 2 = false) ∧ (bitAt (State.leNum
      w2944561 1 (ptrAddr (State.engine w2944561 1) 0 128 + 16) 1) 1 = false)) ∧
    ((LeGoes w2330503 1) ∧ (InstOk w2330503 1 0 128 24) ∧ ((State.engine w2330503 1).ba ≠ ((State.engine w2330503
      1).si ^^ bitAt (State.leNum w2330503 1 (ptrAddr (State.engine w2330503 1) 0 128 + 16) 1) 3)) ∧ (bitAt
      (State.leNum w2330503 1 (ptrAddr (State.engine w2330503 1) 0 128 + 16) 1) 2 = false) ∧ (bitAt (State.leNum
      w2330503 1 (ptrAddr (State.engine w2330503 1) 0 128 + 16) 1) 1 = true)) := by
  refine ⟨⟨?_, ?_, ?_, ?_⟩, ⟨?_, ?_, ?_, ?_⟩, ⟨?_, ?_, ?_, ?_⟩, ⟨?_, ?_, ?_, ?_, ?_⟩, ⟨?_, ?_, ?_, ?_, ?_⟩⟩ <;>
    first
      | decide +kernel
      | (simp only [LeGoes, BitOk, WordOk, InstOk, DataSound, FetchSound, EngineSound, RangeSound, Recording, NoSoft, not_and]; decide +kernel)

theorem witness_LeFaults :
    ((LeGoes g1 1) ∧ ((1 : Fin 16) ≠ (0 : Fin 16))) ∧
    ((LeGoes w6848462 1) ∧ ((0 : Fin 4) ≠ (2 : Fin 4)) ∧ (524288 ≤ bitAddr (State.engine w6848462 1) 0 1048575)) ∧
    ((LeGoes w6848462 1) ∧ ((0 : Fin 4) ≠ (2 : Fin 4)) ∧ (leDataSize < byteAddr (State.engine w6848462 1) 0 1048575
      + 4)) ∧
    ((LeGoes g1 1) ∧ ((0 : Fin 4) ≠ (2 : Fin 4)) ∧ (byteAddr (State.engine g1 1) 0 1026 + 4 ≤ leDataSize) ∧
      (byteAddr (State.engine g1 1) 0 1026 % 4 ≠ 0) ∧ (DataSound g1 1 (byteAddr (State.engine g1 1) 0 1026) 4)) ∧
    ((LeGoes w2035378 1) ∧ (BitOk w2035378 1 0 1026) ∧ (16 ≤ List.length (State.engine w2035378 1).bstack)) ∧
    ((LeGoes g1 1) ∧ ((State.engine g1 1).bstack = [])) ∧
    ((LeGoes w1173290 1) ∧ ((0 : Fin 4) ≠ (2 : Fin 4)) ∧ (State.leLength w1173290 1 0 ≠ 0) ∧ (4 < 65536) ∧ (ptrAddr
      (State.engine w1173290 1) 0 4 % 8 = 0) ∧ (ptrAddr (State.engine w1173290 1) 0 4 + State.blockSize w1173290 1
      0 ≤ leDataSize) ∧ (ptrAddr (State.engine w1173290 1) 0 4 < leDataSize) ∧ (8 ≤ List.length (State.engine
      w1173290 1).cstack)) ∧
    ((LeGoes g1 1) ∧ ((0 : Fin 4) ≠ (2 : Fin 4)) ∧ (State.leLength g1 1 0 = 0) ∧ (1026 < 65536)) ∧
    ((LeGoes w8079980 1) ∧ ((0 : Fin 4) ≠ (2 : Fin 4)) ∧ (bitAddr (State.engine w8079980 1) 0 8195 < 524288) ∧
      (State.isTestRow w8079980 5 (1 * 2 ^ 14 + bitAddr (State.engine w8079980 1) 0 8195 / 256) = false) ∧
      (State.rowBad w8079980 5 (1 * 2 ^ 14 + bitAddr (State.engine w8079980 1) 0 8195 / 256) = true)) ∧
    ((LeGoes w492677 1) ∧ ((0 : Fin 4) ≠ (2 : Fin 4)) ∧ (bitAddr (State.engine w492677 1) 0 8195 < 524288) ∧
      (State.isTestRow w492677 5 (1 * 2 ^ 14 + bitAddr (State.engine w492677 1) 0 8195 / 256) = false) ∧
      (State.rowErr w492677 5 (1 * 2 ^ 14 + bitAddr (State.engine w492677 1) 0 8195 / 256) ≠ 0) ∧ (State.rowBad
      w492677 5 (1 * 2 ^ 14 + bitAddr (State.engine w492677 1) 0 8195 / 256) = false)) := by
  refine ⟨⟨?_, ?_⟩, ⟨?_, ?_, ?_⟩, ⟨?_, ?_, ?_⟩, ⟨?_, ?_, ?_, ?_, ?_⟩, ⟨?_, ?_, ?_⟩, ⟨?_, ?_⟩, ⟨?_, ?_, ?_, ?_, ?_,
    ?_, ?_, ?_⟩, ⟨?_, ?_, ?_, ?_⟩, ⟨?_, ?_, ?_, ?_, ?_⟩, ⟨?_, ?_, ?_, ?_, ?_, ?_⟩⟩ <;>
    first
      | decide +kernel
      | (simp only [LeGoes, BitOk, WordOk, InstOk, DataSound, FetchSound, EngineSound, RangeSound, Recording, NoSoft, not_and]; decide +kernel)

end W06

namespace W07

abbrev routed : State := r0
def prg : Prog := ⟨7, 8, false, [], [], [⟨0x4000, [1,2,3]⟩], some ⟨7, [(0x4001, 2)], 99⟩, 3, 4⟩
def eng1 : Engine := { engineInit with executing := true, blk := 255, pc := 600, ba := true, wa := 0x7FFFFFFF#32, takeUs := 1000, prog := some prg, takeAt := 100, cycle := 77, dl := some 6 }
def leS (x : Engine) : State := (((routed.wr (LE_Ee_STAT_STATE 1) 2).setEngine 1 x).putLeBytes (leBankBase 1 0 + 4*510) (leBytes 4 512 ++ leBytes 4 200))
def st (n : Nat) (s : State) := s.wr (LE_Ee_STAT_STATE 1) n
def sh (n : Nat) (s : State) := s.wr (LE_Ee_STAT_SHADOW 1) n
def mem1 (s : State) : State := s.putLeBytes (leDataBase 1 + 0x2004) ((List.range 64).map fun i => BitVec.ofNat 8 (i * 37 + 129))
def ret : Retain := ⟨1, 7, 99, 0,0,0, 5, 6, [8,9]⟩
def w0 : BitVec 32 := 0
def laned (n : Nat) (s : State) := ((s.wr (LE_Ee_LANES_LANEB 1) 1).wr (LE_Ee_LANES_LANEC 1) 2).wr (LE_Ee_LANES_PAIR 1) n
def joined (s : State) : State := {s with pw := {s.pw with start := {s.pw.start with joined := true, ready := true}}}
def win (s : State) : State := (s.wr (LE_Ee_HOSTWIN_BASE 1) 8).wr (LE_Ee_HOSTWIN_SIZE 1) 4
def att (s : State) : State := {s with dbg := .engine 1}
def bade : Nat := 1+2*2^8+3*2^16+4*2^24+ 5*2^32+6*2^40+7*2^48
def w6916480 : State := (leS eng1)
def w818618 : State := (sh 1 (leS eng1))
def w7222259 : State := ((sh 2 (leS {eng1 with load := some (0,100,none)})))
def w7279075 : State := (mem1 (leS eng1))
def w6389875 : RetainMap := (⟨7, [(0x4001, 2)], 99⟩)
def w5213929 : State := ((st 4 (leS {eng1 with retain := some ret})).wr (LE_Ee_FAULT_CODE 1) 0xC)
def w3769986 : State := ((st 1 (leS {eng1 with restart := some ⟨true,1⟩})))
def w6262359 : State := ((st 3 (leS {eng1 with restart := some ⟨true,1⟩})).wr PWR_POL_NAPENG 1)
def w2769948 : State := (mem1 (leS {eng1 with stop := true}))
def w9638086 : State := (sh 4 (mem1 (leS {eng1 with shadow := some {prg with bound := 9}})))
def w5159841 : Prog := {prg with bound := 9}
def w4061904 : State := (mem1 (leS {eng1 with bstack := [(true,1)]}))
def w3191323 : State := (laned 0 (leS eng1))
def w7578692 : State := (laned 1 (leS eng1))
def w1421325 : State := (st 1 (joined (leS {eng1 with await := true})))
def w4645533 : State := (win (mem1 (leS eng1)))
def w8766871 : State := ((win (mem1 (leS eng1))).wr (IOG_CHn_CFG_MODE 35) modeSafe)
def w7848445 : State := (att (mem1 (leS eng1)))
def w4000254 : State := (st 5 (att (mem1 ((leS {eng1 with replay := [.pc 5]}).putLeBytes (leBankBase 1 0 + 2400) (leBytes 4 0x38000000)))))
def w2100084 : LeWrite := (.branch 0 true 3)
def w7285975 : State := ((leS eng1 |>.wr (LE_Ee_BRKi_EN 1 0) 1).wr (LE_Ee_BRKi_INDEX 1 0) 600)
def w4245427 : State := (((mem1 (leS {eng1 with retain := some ret})).wr CPC_LELANE_RETIRED 0x50))
def w3060633 : State := ((mem1 (leS {eng1 with retain := some ret})).setErr 6 2050 bade)
def w2506172 : State := ((win (mem1 (leS eng1))).setErr 5 (16384+512) bade)

theorem witness_LeLoading :
    ((State.leState w6916480 1 = leRunning ∨ State.leState w6916480 1 = leStopped ∨ State.leState w6916480 1 =
      leFaulted) ∧ (State.rd w6916480 (LE_Ee_STAT_SHADOW 1) ∈ [0, 2, 3]) ∧ (w6916480.pw.phase = RunPhase.running)) ∧
    ((¬(State.leState w818618 1 = leRunning ∨ State.leState w818618 1 = leStopped ∨ State.leState w818618 1 =
      leFaulted) ∨ State.rd w818618 (LE_Ee_STAT_SHADOW 1) = 1 ∨ State.rd w818618 (LE_Ee_STAT_SHADOW 1) = 4) ∧
      (w818618.pw.phase = RunPhase.running)) ∧
    (((State.engine w7222259 1).load = some (0, 100, none))) ∧
    ((State.rd w818618 (LE_Ee_STAT_SHADOW 1) ≠ 4)) ∧
    ((State.leState w7222259 1 = leRunning) ∧ (State.rd w7222259 (LE_Ee_STAT_SHADOW 1) = 2)) := by
  refine ⟨?_, ?_, ?_, ?_, ?_⟩ <;>
    decide +kernel

theorem witness_LeStarts :
    ((State.Canon w3060633) ∧ (NoSoft w3060633) ∧ ((State.engine w3060633 1).prog = some prg) ∧ (State.rd w3060633
      (LE_Ee_STAT_SHADOW 1) ≠ 2) ∧ (State.rd w3060633 (LE_Ee_STAT_SHADOW 1) ≠ 4) ∧ (State.usableLanes w3060633 1 =
      [0, 1, 2, 3]) ∧ (∀ i ∈ prg.inits, i.off + List.length i.data ≤ leDataSize) ∧ (State.leState w3060633 1 =
      leRunning ∨ State.leState w3060633 1 = leStopped ∨ State.leState w3060633 1 = leFaulted) ∧ (¬(State.leState
      w3060633 1 = leFaulted ∧ State.rd w3060633 (LE_Ee_FAULT_CODE 1) = 12)) ∧ ((State.errRows w3060633 fun (memid
      row : ℕ) => memid == 6 && row / 2 ^ 11 == 1) = [(6, 2050)]) ∧ (State.rowBad w3060633 6 2050 = true) ∧
      (State.isTestRow w3060633 6 2050 = false) ∧ ((State.engine w3060633 1).retain = some ret)) ∧
    ((State.Canon w7279075) ∧ (NoSoft w7279075) ∧ ((State.engine w7279075 1).prog = some prg) ∧ (State.rd w7279075
      (LE_Ee_STAT_SHADOW 1) ≠ 2) ∧ (State.rd w7279075 (LE_Ee_STAT_SHADOW 1) ≠ 4) ∧ (State.usableLanes w7279075 1 =
      [0, 1, 2, 3]) ∧ (∀ i ∈ prg.inits, i.off + List.length i.data ≤ leDataSize) ∧ (State.leState w7279075 1 =
      leRunning ∨ State.leState w7279075 1 = leStopped ∨ State.leState w7279075 1 = leFaulted) ∧ (¬(State.leState
      w7279075 1 = leFaulted ∧ State.rd w7279075 (LE_Ee_FAULT_CODE 1) = 12)) ∧ ((State.errRows w7279075 fun (memid
      row : ℕ) => memid == 6 && row / 2 ^ 11 == 1) = []) ∧ (State.retainWhy w7279075 1 prg (State.engine w7279075
      1).retain false ≠ 0)) ∧
    ((State.Canon w4245427) ∧ (NoSoft w4245427) ∧ ((State.engine w4245427 1).prog = some prg) ∧ (State.rd w4245427
      (LE_Ee_STAT_SHADOW 1) ≠ 2) ∧ (State.rd w4245427 (LE_Ee_STAT_SHADOW 1) ≠ 4) ∧ (State.usableLanes w4245427 1 =
      [1, 3]) ∧ (∀ i ∈ prg.inits, i.off + List.length i.data ≤ leDataSize) ∧ (State.leState w4245427 1 = leRunning
      ∨ State.leState w4245427 1 = leStopped ∨ State.leState w4245427 1 = leFaulted) ∧ (¬(State.leState w4245427 1
      = leFaulted ∧ State.rd w4245427 (LE_Ee_FAULT_CODE 1) = 12)) ∧ ((State.errRows w4245427 fun (memid row : ℕ) =>
      memid == 6 && row / 2 ^ 11 == 1) = []) ∧ (State.retainWhy w4245427 1 prg (State.engine w4245427 1).retain
      false = 0) ∧ (prg.rmap = some w6389875) ∧ ((State.engine w4245427 1).retain = some ret) ∧ (∀ x ∈
      w6389875.ranges, x.1 + x.2 ≤ leDataSize)) := by
  refine ⟨⟨?_, ?_, ?_, ?_, ?_, ?_, ?_, ?_, ?_, ?_, ?_, ?_, ?_⟩, ⟨?_, ?_, ?_, ?_, ?_, ?_, ?_, ?_, ?_, ?_, ?_⟩, ⟨?_,
    ?_, ?_, ?_, ?_, ?_, ?_, ?_, ?_, ?_, ?_, ?_, ?_, ?_⟩⟩ <;>
    first
      | decide +kernel
      | (simp only [LeGoes, BitOk, WordOk, InstOk, DataSound, FetchSound, EngineSound, RangeSound, Recording, NoSoft, not_and]; decide +kernel)
      | (refine ⟨?_, ?_, ?_, ?_, ?_⟩ <;> decide +kernel)

theorem witness_LeStarts_2 :
    ((State.Canon w5213929) ∧ (NoSoft w5213929) ∧ ((State.engine w5213929 1).prog = some prg) ∧ (State.rd w5213929
      (LE_Ee_STAT_SHADOW 1) ≠ 2) ∧ (State.rd w5213929 (LE_Ee_STAT_SHADOW 1) ≠ 4) ∧ (State.usableLanes w5213929 1 =
      [0, 1, 2, 3]) ∧ (∀ i ∈ prg.inits, i.off + List.length i.data ≤ leDataSize) ∧ (State.leState w5213929 1 =
      leFaulted) ∧ (State.rd w5213929 (LE_Ee_FAULT_CODE 1) = 12)) ∧
    ((State.leState w7279075 1 = leRunning ∨ State.leState w7279075 1 = leHalted)) ∧
    ((State.leState w3769986 1 = leRestarting) ∧ (Option.isSome (State.engine w3769986 1).restart = true) ∧
      ((State.engine w3769986 1).await = false)) ∧
    ((State.flag w6262359 PWR_POL_NAPENG = true) ∧ (State.leState w6262359 1 = leUnloaded ∨ State.leState w6262359
      1 = leStopped ∨ State.leState w6262359 1 = leFaulted) ∧ (max (tblGet 0 1 w6262359.pmg.idleAt)
      w6262359.pw.start.at_ + 1000000 ≤ 9000000) ∧ (State.rd w6262359 (PWR_UNIT_UNIT (4 + 1)) = 0)) := by
  refine ⟨⟨?_, ?_, ?_, ?_, ?_, ?_, ?_, ?_, ?_⟩, ?_, ?_, ?_⟩ <;>
    first
      | decide +kernel
      | (simp only [LeGoes, BitOk, WordOk, InstOk, DataSound, FetchSound, EngineSound, RangeSound, Recording, NoSoft, not_and]; decide +kernel)
      | (refine ⟨?_, ?_, ?_, ?_, ?_⟩ <;> decide +kernel)

theorem witness_LeCycles :
    ((LeGoes w7279075 1) ∧ (NoSoft w7279075) ∧ (EngineSound w7279075 1) ∧ ((State.engine w7279075 1).cstack = []) ∧
      ((State.engine w7279075 1).bstack = []) ∧ (w7279075.pmg.low = none) ∧ ((State.engine w7279075 1).want =
      DebugStop.none) ∧ (State.cycBreak w7279075 1 = false) ∧ (State.rd w7279075 (LE_Ee_STAT_SHADOW 1) ≠ 4) ∧
      ((State.engine w7279075 1).stop = false)) ∧
    ((LeGoes w2769948 1) ∧ (NoSoft w2769948) ∧ (EngineSound w2769948 1) ∧ ((State.engine w2769948 1).cstack = []) ∧
      ((State.engine w2769948 1).bstack = []) ∧ (w2769948.pmg.low = none) ∧ ((State.engine w2769948 1).want =
      DebugStop.none) ∧ (State.cycBreak w2769948 1 = false) ∧ (State.rd w2769948 (LE_Ee_STAT_SHADOW 1) ≠ 4) ∧
      ((State.engine w2769948 1).stop = true)) ∧
    ((LeGoes w9638086 1) ∧ (NoSoft w9638086) ∧ (EngineSound w9638086 1) ∧ ((State.engine w9638086 1).cstack = []) ∧
      ((State.engine w9638086 1).bstack = []) ∧ (w9638086.pmg.low = none) ∧ ((State.engine w9638086 1).want =
      DebugStop.none) ∧ (State.cycBreak w9638086 1 = false) ∧ (State.rd w9638086 (LE_Ee_STAT_SHADOW 1) = 4) ∧
      ((State.engine w9638086 1).stop = false) ∧ ((State.engine w9638086 1).prog = some prg) ∧ ((State.engine
      w9638086 1).shadow = some w5159841)) ∧
    ((LeGoes w4061904 1) ∧ ((State.engine w4061904 1).cstack ≠ [] ∨ (State.engine w4061904 1).bstack ≠ [])) ∧
    ((State.leCan w7279075 1 = true) ∧ (FetchSound w7279075 1) ∧ (leLegal (insOf 255 0 (BitVec.toNat w0)).op (insOf
      255 0 (BitVec.toNat w0)).mod (insOf 255 0 (BitVec.toNat w0)).x (insOf 255 0 (BitVec.toNat w0)).opnd = false)) ∧
    ((LeGoes w4061904 1) ∧ (leLegal (insOf 255 0 (BitVec.toNat (3234856960 : BitVec 32))).op (insOf 255 0
      (BitVec.toNat (3234856960 : BitVec 32))).mod (insOf 255 0 (BitVec.toNat (3234856960 : BitVec 32))).x (insOf
      255 0 (BitVec.toNat (3234856960 : BitVec 32))).opnd = true) ∧ ((insOf 255 0 (BitVec.toNat (3234856960 :
      BitVec 32))).op = 48) ∧ (13 ≤ (insOf 255 0 (BitVec.toNat (3234856960 : BitVec 32))).x) ∧ (ptrAddr
      (State.engine w4061904 1) (insOf 255 0 (BitVec.toNat (3234856960 : BitVec 32))).mod (insOf 255 0
      (BitVec.toNat (3234856960 : BitVec 32))).opnd % 8 = 0) ∧ (ptrAddr (State.engine w4061904 1) (insOf 255 0
      (BitVec.toNat (3234856960 : BitVec 32))).mod (insOf 255 0 (BitVec.toNat (3234856960 : BitVec 32))).opnd <
      leDataSize)) := by
  refine ⟨⟨?_, ?_, ?_, ?_, ?_, ?_, ?_, ?_, ?_, ?_⟩, ⟨?_, ?_, ?_, ?_, ?_, ?_, ?_, ?_, ?_, ?_⟩, ⟨?_, ?_, ?_, ?_, ?_,
    ?_, ?_, ?_, ?_, ?_, ?_, ?_⟩, ⟨?_, ?_⟩, ⟨?_, ?_, ?_⟩, ⟨?_, ?_, ?_, ?_, ?_, ?_⟩⟩ <;>
    first
      | decide +kernel
      | (simp only [LeGoes, BitOk, WordOk, InstOk, DataSound, FetchSound, EngineSound, RangeSound, Recording, NoSoft, not_and]; decide +kernel)

theorem witness_LeCycles_2 :
    ((State.leState w7279075 1 = leRunning) ∧ (State.sequences w7279075 1 = false) ∧ (0 ∈ State.leLive w7279075 1)
      ∧ (List.length (State.leLive w7279075 1) = 3)) ∧
    ((State.leState w7578692 1 = leRunning) ∧ (State.sequences w7578692 1 = false) ∧ (1 ∈ State.leLive w7578692 1)
      ∧ (List.length (State.leLive w7578692 1) ≠ 3)) ∧
    ((State.leVotes w3191323 1 = true)) ∧
    ((w1421325.pw.phase = RunPhase.running) ∧ (1000000 % State.tcNs w1421325 = 0) ∧ (w1421325.pw.start.joined =
      true) ∧ (w1421325.pw.start.ready = true) ∧ (w1421325.pmg.low = none) ∧ (State.leState w1421325 1 =
      leRestarting) ∧ (EngineSound w1421325 1) ∧ ((State.engine w1421325 1).await = true)) ∧
    ((9000 % State.tcNs w7279075 ≠ 0)) := by
  refine ⟨?_, ?_, ?_, ⟨?_, ?_, ?_, ?_, ?_, ?_, ?_, ?_⟩, ?_⟩ <;>
    first
      | decide +kernel
      | (simp only [LeGoes, BitOk, WordOk, InstOk, DataSound, FetchSound, EngineSound, RangeSound, Recording, NoSoft, not_and]; decide +kernel)

theorem witness_LeAccess :
    ((536870912 + 4194304 * 1 ≤ BitVec.toNat (BitVec.ofNat 36 (543162368 + 16448 + 8))) ∧ (BitVec.toNat
      (BitVec.ofNat 36 (543162368 + 16448 + 8)) + 2 ^ 2 ≤ 539492352 + 4194304 * 1) ∧ (BitVec.toNat (BitVec.ofNat 36
      (543162368 + 16448 + 8)) % 2 ^ 2 = 0) ∧ (State.hartRuns w4645533 2 = true) ∧ (State.rowErr w4645533 (leRowOf
      1 (BitVec.toNat (BitVec.ofNat 36 (543162368 + 16448 + 8)) % 4194304)).1 (leRowOf 1 (BitVec.toNat
      (BitVec.ofNat 36 (543162368 + 16448 + 8)) % 4194304)).2 = 0)) ∧
    ((536870912 + 4194304 * 1 ≤ BitVec.toNat (BitVec.ofNat 36 (543162368 + 16384))) ∧ (BitVec.toNat (BitVec.ofNat
      36 (543162368 + 16384)) + 2 ^ 2 ≤ 539492352 + 4194304 * 1) ∧ (BitVec.toNat (BitVec.ofNat 36 (543162368 +
      16384)) % 2 ^ 2 = 0) ∧ (State.hartRuns w2506172 2 = true) ∧ (State.isTestRow w2506172 (leRowOf 1
      (BitVec.toNat (BitVec.ofNat 36 (543162368 + 16384)) % 4194304)).1 (leRowOf 1 (BitVec.toNat (BitVec.ofNat 36
      (543162368 + 16384)) % 4194304)).2 = false) ∧ (State.rowBad w2506172 (leRowOf 1 (BitVec.toNat (BitVec.ofNat
      36 (543162368 + 16384)) % 4194304)).1 (leRowOf 1 (BitVec.toNat (BitVec.ofNat 36 (543162368 + 16384)) %
      4194304)).2 = true)) ∧
    ((536870912 + 4194304 * 1 ≤ BitVec.toNat (BitVec.ofNat 36 (543162368 + 16448 + 8))) ∧ (BitVec.toNat
      (BitVec.ofNat 36 (543162368 + 16448 + 8)) + 2 ^ 2 ≤ 539492352 + 4194304 * 1) ∧ (BitVec.toNat (BitVec.ofNat 36
      (543162368 + 16448 + 8)) % 2 ^ 2 = 0) ∧ (State.hartRuns w4645533 2 = true) ∧ (State.hartSplit w4645533 2 =
      false) ∧ (538968064 + 4194304 * 1 + State.winBase w4645533 1 ≤ BitVec.toNat (BitVec.ofNat 36 (543162368 +
      16448 + 8))) ∧ (BitVec.toNat (BitVec.ofNat 36 (543162368 + 16448 + 8)) + 2 ^ 2 ≤ 538968064 + 4194304 * 1 +
      State.winBase w4645533 1 + State.winSize w4645533 1)) ∧
    ((536870912 + 4194304 * 1 ≤ BitVec.toNat (BitVec.ofNat 36 (543162368 + 16384))) ∧ (BitVec.toNat (BitVec.ofNat
      36 (543162368 + 16384)) + 2 ^ 2 ≤ 539492352 + 4194304 * 1) ∧ (BitVec.toNat (BitVec.ofNat 36 (543162368 +
      16384)) % 2 ^ 2 = 0) ∧ (State.hartRuns w2506172 2 = true) ∧ (BitVec.toNat (BitVec.ofNat 36 (543162368 +
      16384)) < 538968064 + 4194304 * 1 + State.winBase w2506172 1 ∨ 538968064 + 4194304 * 1 + State.winBase
      w2506172 1 + State.winSize w2506172 1 < BitVec.toNat (BitVec.ofNat 36 (543162368 + 16384)) + 2 ^ 2)) ∧
    ((bitAt (BitVec.toNat (BitVec.ofNat 32 (2 ^ 31 + 2 ^ 20 + 8196))) 31 = true) ∧ (bitAt (BitVec.toNat
      (BitVec.ofNat 32 (2 ^ 31 + 2 ^ 20 + 8196))) 20 = true → bitsAt (BitVec.toNat (BitVec.ofNat 32 (2 ^ 31 + 2 ^
      20 + 8196))) 0 14 % 4 = 0) ∧ (State.coversSafe w4645533 (bitsAt (BitVec.toNat (BitVec.ofNat 32 (2 ^ 31 + 2 ^
      20 + 8196))) 0 14) (if bitAt (BitVec.toNat (BitVec.ofNat 32 (2 ^ 31 + 2 ^ 20 + 8196))) 20 = true then 4 else
      1) (bitsAt (BitVec.toNat (BitVec.ofNat 32 (2 ^ 31 + 2 ^ 20 + 8196))) 16 3) = false) ∧ (w4645533.pw.phase =
      RunPhase.running)) ∧
    ((bitAt (BitVec.toNat (BitVec.ofNat 32 (2 ^ 31 + 2 ^ 20 + 8196))) 31 = true) ∧ (State.coversSafe w8766871
      (bitsAt (BitVec.toNat (BitVec.ofNat 32 (2 ^ 31 + 2 ^ 20 + 8196))) 0 14) (if bitAt (BitVec.toNat (BitVec.ofNat
      32 (2 ^ 31 + 2 ^ 20 + 8196))) 20 = true then 4 else 1) (bitsAt (BitVec.toNat (BitVec.ofNat 32 (2 ^ 31 + 2 ^
      20 + 8196))) 16 3) = true) ∧ (w8766871.pw.phase = RunPhase.running)) ∧
    ((w7848445.dbg = Attach.engine 1) ∧ (State.leState w7848445 1 = leRunning)) ∧
    ((w4000254.dbg = Attach.engine 1) ∧ (State.leState w4000254 1 = leHalted) ∧ ((State.engine w4000254
      1).executing = true) ∧ (FetchSound w4000254 1) ∧ (State.leInBody w4000254 1 (State.engine w4000254 1).pc =
      true) ∧ (State.leWordAt w4000254 1 (State.leBank w4000254 1) (State.engine w4000254 1).pc = 939524096)) ∧
    ((w4000254.dbg = Attach.engine 1) ∧ (State.leState w4000254 1 = leHalted) ∧ (List.length (State.engine w4000254
      1).replay < 32) ∧ (∀ (o : Fin 524288) (v : Byte), w2100084 ≠ LeWrite.data o v)) ∧
    ((w7848445.dbg = Attach.engine 1) ∧ (State.rowErr w7848445 5 (1 * 2 ^ 14 + 9 / 32) = 0)) ∧
    ((w4645533.dbg ≠ Attach.engine 1)) := by
  refine ⟨?_, ?_, ?_, ?_, ?_, ?_, ?_, ⟨?_, ?_, ?_, ?_, ?_, ?_⟩, ⟨?_, ?_, ?_, ?_⟩, ?_, ?_⟩ <;>
    first
      | decide +kernel
      | (simp only [LeGoes, BitOk, WordOk, InstOk, DataSound, FetchSound, EngineSound, RangeSound, Recording, NoSoft, not_and]; decide +kernel)
      | exact fun _ _ h => nomatch h

theorem witness_LeAccess_2 :
    ((State.leCan w7285975 1 = true) ∧ (State.flag w7285975 (LE_Ee_BRKi_EN 1 0) = true) ∧ (State.flag w7285975
      (LE_Ee_BRKi_CYC 1 0) = false) ∧ (State.rd w7285975 (LE_Ee_BRKi_INDEX 1 0) = (State.engine w7285975 1).pc)) := by
  decide +kernel

end W07

namespace W08

abbrev routed : State := r0
def prt (s : State) : State := {s with fab := {s.fab with links := (List.range 4).map fun p => (p, {portLinkInit with used := true})}, pw := {s.pw with start := {s.pw.start with ready := true}}}.wr CNP_PORTSTAT_LINKUP 15
def recOf (car : Nat) : List Byte := [0,0,0,0,0,7, BitVec.ofNat 8 car, 1] ++ beBytes 4 (100 + car) ++ [0,0,0,0] ++ List.replicate 12 0 ++ beBytes 4 (99+car) ++ beBytes 4 (99+car) ++ beBytes 4 (101+car)++ beBytes 4 (101+car) ++ beBytes 2 50 ++ beBytes 2 50 ++ beBytes 2 50 ++ beBytes 2 50 ++ beBytes 4 0 ++ [0,0,0,0]
def nd (car : Nat) : TNode := ⟨recOf car, car, true⟩
def trn : Train := ⟨[nd 1, nd 2, nd 3], [101,102,103], false, some 1, [⟨7, some 0, 0, []⟩], [(0,1)], 5⟩
def tr (s : State) : State := (({(prt s) with fab := {(prt s).fab with table := some trn}}.wr CNP_NODE_ID 2).wr KEY_VEH_ID0_CONSIST 7).wr CNP_NODE_MEMBER 4 |>.wr (CNP_SEGSTAT_SEG 0) 1 |>.wr (CNP_MSTk_STAT_NODE 0) 1 |>.wr CNP_INA_STAT_FACING 1 |>.wr KEY_STAT_STATE 1 |>.wr CNP_PLAN0_TTW 125
def ms (n sl : Nat) (s : State) := (s.wr CNP_SYNC_STAT_MASTER n).wr CNP_SYNC_STAT_SLOT sl
def sy (n : Nat) (s : State) := s.wr CNP_SYNC_STAT_STATE n
def fr (kind sender dest : Nat) (pay : List Byte) : List Byte := nodeMac dest ++ nodeMac sender ++ [0x88,0xB5, byteOf (1+16*kind), byteOf sender] ++ beBytes 2 3 ++ beBytes 2 4 ++ beBytes 2 0 ++ beBytes 2 pay.length ++ beBytes 2 7 ++ [byteOf dest,0,0,0] ++ pay
def sf3 := fr 1 3 255 (beBytes 8 1000000 ++ beBytes 4 16 ++ [1,2,0,0] ++ beBytes 4 125 ++ beBytes 4 0)
def dv (s : State) : State := {s with cnp := {s.cnp with sync := [(0, ⟨1000060, 1000000, 16⟩)], syncGood := true, missed := 2}}
def miss (n : Nat) (s : State) : State := {s with cnp := {s.cnp with missed := n, syncGood := true, syncedAtMark := true, admitted := true}}
def w1 := 100 + 4*2048 + 3*2^18
def tab (w2 w3 : Nat) (s : State) : State := ((({(tr s) with cnp := {(tr s).cnp with admitted := true}}.wr CNP_NBLAZE_N 1).wr (CNP_BLZb_Ww 0 0) (1000 + 3*2^24)).wr (CNP_BLZb_Ww 0 1) w1).wr (CNP_BLZb_Ww 0 2) w2 |>.wr (CNP_BLZb_Ww 0 3) w3 |>.wr CNP_JOIN_STAT_STATE 2 |> sy 2
def txt := tab (1 + 4 + 5*256) (10 + 100*2^20) routed
def hb (s : State) : State := (s.setHbuf 5 ⟨[some 1, some 2], 999000, true⟩).wr (CNP_HBUFh_STAT_VALID 5) 1 |>.wr (CNP_HBUFh_STAT_DIR 5) 1
def rxt := (tab (2 + 16*4 + 200*256+ 300*2^19) (10 + 3*2^12+1*2^20) routed) |>.wr (CNP_BLZb_Ww 0 1) (100 + 0*2048 + 3*2^18) 
def bf := fr 0 1 255 [1,2,3,4,5,6,7,8,9]
def spt := (tab 0 (10) routed) |>.wr (CNP_BLZb_Ww 0 0) (1000 + 3*2^24+3*2^26) |>.wr (CNP_BLZb_Ww 0 1) (100 + 0x7F*2048 + 3*2^18) |>.wr CNP_CLAIM_ARG_FRAMEID 3 |>.wr CNP_CLAIM_ARG_AREA 7 |>.wr SYS_SERIAL_LO 102
def cf := fr 2 1 255 ([1,0] ++ beBytes 2 3 ++ beBytes 2 12 ++ beBytes 2 7)
def cl : Claim := ⟨1, 0, 3, 2, 102, 7, 4, true⟩
def et (dest : Nat) := fr 4 1 dest [1,2,3]
def cvt := (spt.wr (CVU_CTXc_CFG_EN 4) 1).wr (CVU_CTXc_CFG_BLAZE 4) 0
def okc := (cvt.wr (CNP_BLZb_Ww 0 0) (1000 + 3*2^24+1*2^26)).wr (CNP_BLZb_Ww 0 2) 2 |>.wr (CVU_CTXc_SRCID 4) 2 |>.wr (CVU_CTXc_DSTID 4) 2 |>.wr (CVU_CTXc_TMO_TIMEOUT 4) 20 |>.wr (CVU_CTXc_CFG_MAXSTEP 4) 20
def rs (s : State) : State := {s with cvu := {s.cvu with results := [(3,4,true),(2,0x500000001,true)], running := [(2,⟨5,0,5⟩)]}}
def w3425621 : State := (ms 1 0 (tr routed))
def w2535164 : State := ((tr routed).wr (CNP_MSTk_STAT_NODE 1) 3)
def w2701232 : State := (sy 2 (dv (tr routed)))
def w2836901 : State := (sy 2 (tr routed))
def w2436341 : State := (sy 2 (miss 3 (tr routed))|>.wr CNP_JOIN_STAT_STATE 1)
def w3525863 : State := (sy 2 (miss 3 (tr routed))|>.wr CNP_JOIN_STAT_STATE 0)
def w8060215 : State := (hb txt)
def w8362876 : State := ((hb txt).setBlz 0 {blzInit with sent := some 999000, pay := [3,4]})
def w9576504 : Sink := ⟨none, 10,3,1⟩
def w8105113 : State := (rxt.wr (CNP_BLZb_STAT_RUN 0) 2 |>.wr (CNP_BLZb_STAT_VALID 0) 1)
def w3174954 : State := (spt.wr CNP_JOIN_STAT_STATE 1)
def w6204218 : State := (spt.wr CNP_CLAIM_ARG_FRAMEID 4)
def w3753450 : State := {spt with cnp := {spt.cnp with spares := [⟨0,3,102,3⟩]}}
def w6702298 : State := {spt with cnp := {spt.cnp with claims := [cl]}}
def w8328281 : List Byte := (et 0)
def w6030349 : State := (spt.setEtPort 1 ⟨[relayFrame [1]], true⟩)
def w2063790 : List Byte := (et 3)
def w4313504 : State := (spt.setEtPort 2 ⟨[relayFrame (et 3), ownFrame [1]], false⟩)
def w2425908 : EtFrame := (relayFrame (et 3))
def w6508809 : List EtFrame := [ownFrame [1]]
def w7997182 : State := (okc.wr (CVU_CTXc_STAT_FRESH 4) 1 |>.setCtx 4 ⟨some 3, some 4, 5, 6⟩ |>.wr CVU_CTXLOCK_LOCK 1)
def w4660100 : State := (rs spt)
def w6806439 : State := {spt with cvu := {spt.cvu with running := [(2,⟨5,900,6⟩)]}}

theorem witness_CanopyTime :
    ((State.rd w3425621 CNP_SYNC_STAT_MASTER = 1) ∧ (State.rd w3425621 KEY_STAT_STATE = 1) ∧ (w3425621.pw.phase =
      RunPhase.running) ∧ (State.rd w3425621 CNP_SYNC_STAT_SLOT = 0 ∨ State.syncState w3425621 = syncSynced) ∧
      (State.rd w3425621 CNP_JOIN_STAT_PLANERR = 0) ∧ (State.rd w3425621 CNP_JOIN_STAT_SEGNONE = 0)) ∧
    ((State.rd w2535164 CNP_SYNC_STAT_MASTER = 0 ∨ State.rd w2535164 CNP_JOIN_STAT_PLANERR = 1 ∨ State.rd w2535164
      CNP_JOIN_STAT_SEGNONE = 1)) ∧
    ((State.portUsed w2535164 1 = true) ∧ (w2535164.pw.phase = RunPhase.running) ∧ (frSender sf3 ≠ State.nodeId
      w2535164) ∧ (frSender sf3 ≠ 0) ∧ (beAt 12 1 (frPayload sf3) < 4) ∧ (State.rd w2535164 (CNP_MSTk_STAT_NODE
      (beAt 12 1 (frPayload sf3))) = frSender sf3) ∧ (State.leadNode w2535164 ≠ some (frSender sf3))) ∧
    ((State.syncState w2701232 = syncSynced) ∧ (State.rd w2701232 CNP_SYNC_STAT_MASTER = 0) ∧ (∀ i < 4,
      State.slotDev w2701232 i = if i = 0 then some (64 : ℤ) else none) ∧ (Int.natAbs (64 : ℤ) ≤ 16000)) ∧
    ((State.syncState w2836901 = syncSynced) ∧ (State.rd w2836901 CNP_SYNC_STAT_MASTER = 0) ∧ (∀ i < 4,
      State.slotDev w2836901 i = none)) ∧
    ((w2436341.pw.phase = RunPhase.running) ∧ (1000000 % State.tcNs w2436341 = 0) ∧ (w2436341.pmg.low = none) ∧
      (w2436341.fab.heldTrigger = none) ∧ (Option.isSome (State.ownSeg w2436341) = true) ∧ (State.joinState
      w2436341 = joinObserving) ∧ (State.syncState w2436341 = syncSynced) ∧ (w2436341.cnp.syncedAtMark = true) ∧
      (w2436341.cnp.syncGood = true) ∧ (w2436341.cnp.why = 0)) ∧
    ((w3525863.pw.phase = RunPhase.running) ∧ (1000000 % State.tcNs w3525863 = 0) ∧ (w3525863.pmg.low = none) ∧
      (w3525863.fab.heldTrigger = none) ∧ (Option.isSome (State.ownSeg w3525863) = true) ∧ (State.joinState
      w3525863 = joinSilent) ∧ (State.rd w3525863 CNP_JOIN_STAT_PLANERR = 0) ∧ (State.rd w3525863
      CNP_JOIN_STAT_SEGNONE = 0) ∧ (State.mayObserve w3525863 = true)) := by
  refine ⟨?_, ?_, ?_, ?_, ?_, ?_, ?_⟩ <;>
    decide +kernel

theorem witness_CanopyBlazes :
    ((0 < State.blazeCount w8060215) ∧ ((State.entry w8060215 0).kind = 0) ∧ ((State.entry w8060215 0).role =
      roleTx) ∧ ((State.entry w8060215 0).host = true) ∧ (State.joinState w8060215 = joinActive) ∧ (State.txImage
      (State.begin w8060215 1000003)
      { host := true, num := Entry.hbuf (State.entry w8060215 0), area := 0, paylen := (State.entry w8060215 0).paylen, limit := (State.entry w8060215 0).rsub * 10000 }
      = some 999000) ∧ ((State.blz w8060215 0).sent ≠ some 999000)) ∧
    ((0 < State.blazeCount w8362876) ∧ ((State.entry w8362876 0).kind = 0) ∧ ((State.entry w8362876 0).role =
      roleTx) ∧ ((State.entry w8362876 0).host = true) ∧ (State.joinState w8362876 = joinActive) ∧ (State.txImage
      (State.begin w8362876 1000003)
      { host := true, num := Entry.hbuf (State.entry w8362876 0), area := 0, paylen := (State.entry w8362876 0).paylen, limit := (State.entry w8362876 0).rsub * 10000 }
      = some 999000) ∧ ((State.blz w8362876 0).sent = some 999000)) ∧
    ((0 < State.blazeCount txt) ∧ ((State.entry txt 0).kind = 0) ∧ ((State.entry txt 0).role = roleTx) ∧
      ((State.entry txt 0).host = true) ∧ (State.joinState txt = joinActive) ∧ (State.txImage (State.begin txt
      1000003)
      { host := true, num := Entry.hbuf (State.entry txt 0), area := 0, paylen := (State.entry txt 0).paylen, limit := (State.entry txt 0).rsub * 10000 }
      = none)) ∧
    ((0 < State.blazeCount rxt) ∧ ((State.entry rxt 0).kind = 0) ∧ (State.sink rxt (State.entry rxt 0) = some
      w9576504) ∧ (w9576504.host = none) ∧ (Option.isSome (State.slot rxt (State.entry rxt 0)) = true) ∧
      (State.portUsed rxt 0 = true) ∧ (rxt.pw.phase = RunPhase.running) ∧ (State.entriesFor (State.begin rxt
      (1000000 + 8050)) bf = [0]) ∧ (frPwrfail bf = false) ∧ (State.accepts (State.begin rxt (1000000 + 8050))
      (State.entry rxt 0) (portPlane 0) bf = true) ∧ ((State.blzNow (State.begin rxt (1000000 + 8050)) 0).got = 0)
      ∧ (frRepeat bf = false)) ∧
    ((0 < State.blazeCount w8105113) ∧ ((State.entry w8105113 0).kind = 0) ∧ (State.sink w8105113 (State.entry
      w8105113 0) = some w9576504) ∧ (w9576504.host = none) ∧ (Option.isSome (State.slot w8105113 (State.entry
      w8105113 0)) = true) ∧ (State.portUsed w8105113 0 = true) ∧ (w8105113.pw.phase = RunPhase.running) ∧
      (State.entriesFor (State.begin w8105113 (1000000 + 18050)) bf = [0]) ∧ (frPwrfail bf = false) ∧
      (State.accepts (State.begin w8105113 (1000000 + 18050)) (State.entry w8105113 0) (portPlane 0) bf = false)) := by
  refine ⟨?_, ?_, ?_, ?_, ?_⟩ <;>
    decide +kernel

theorem witness_CanopyBlazes_2 :
    ((0 < State.blazeCount rxt) ∧ ((State.entry rxt 0).kind = 0) ∧ (State.sink rxt (State.entry rxt 0) = some
      w9576504) ∧ (w9576504.host = none) ∧ (Option.isSome (State.slot rxt (State.entry rxt 0)) = true) ∧ (1000000 +
      8050 < State.judgeAt (State.begin rxt (1000000 + 8050)) (State.entry rxt 0))) ∧
    ((0 < State.blazeCount w8105113) ∧ ((State.entry w8105113 0).kind = 0) ∧ (State.sink w8105113 (State.entry
      w8105113 0) = some w9576504) ∧ (w9576504.host = none) ∧ (Option.isSome (State.slot w8105113 (State.entry
      w8105113 0)) = true) ∧ ((State.blzNow (State.begin w8105113 (1000000 + 18050)) 0).got = 0) ∧ ((State.blzNow
      (State.begin w8105113 (1000000 + 18050)) 0).pwrfail = false) ∧ (State.judgeAt (State.begin w8105113 (1000000
      + 18050)) (State.entry w8105113 0) ≤ 1000000 + 18050) ∧ ((State.blz w8105113 0).judged ≠ (1000000 + 18050) /
      State.tcNs w8105113 + 1)) ∧
    ((State.rd w8060215 (CNP_HBUFh_STAT_DIR 5) = 1)) := by
  refine ⟨?_, ?_, ?_⟩ <;>
    decide +kernel

theorem witness_CanopyEvents :
    ((State.rd w3174954 CNP_CLAIM_STAT_BUSY = 0) ∧ (State.joinState w3174954 ≠ joinActive) ∧ (w3174954.pw.phase =
      RunPhase.running)) ∧
    ((State.rd w6204218 CNP_CLAIM_STAT_BUSY = 0) ∧ (State.joinState w6204218 = joinActive) ∧ (State.spareEntry
      w6204218 (State.rd w6204218 CNP_CLAIM_ARG_SEG) (State.rd w6204218 CNP_CLAIM_ARG_FRAMEID) = none) ∧
      (w6204218.pw.phase = RunPhase.running)) ∧
    ((State.rd w3753450 CNP_CLAIM_STAT_BUSY = 0) ∧ (State.joinState w3753450 = joinActive) ∧ (State.spareEntry
      w3753450 (State.rd w3753450 CNP_CLAIM_ARG_SEG) (State.rd w3753450 CNP_CLAIM_ARG_FRAMEID) = some 0) ∧ (40 + 34
      ≤ (State.entry w3753450 0).length) ∧ (State.claimHeld w3753450
      { op := 1, seg := State.rd w3753450 CNP_CLAIM_ARG_SEG, fid := State.rd w3753450 CNP_CLAIM_ARG_FRAMEID, node := State.nodeId w3753450, serial := State.rd w3753450 SYS_SERIAL_LO, consist := State.consist w3753450, cycle := 1000003 / State.tcNs w3753450, own := true }
      = true) ∧ (w3753450.pw.phase = RunPhase.running)) ∧
    ((State.rd spt CNP_CLAIM_STAT_BUSY = 0) ∧ (State.joinState spt = joinActive) ∧ (State.spareEntry spt (State.rd
      spt CNP_CLAIM_ARG_SEG) (State.rd spt CNP_CLAIM_ARG_FRAMEID) = some 0) ∧ (40 + 34 ≤ (State.entry spt
      0).length) ∧ (State.claimHeld spt
      { op := 1, seg := State.rd spt CNP_CLAIM_ARG_SEG, fid := State.rd spt CNP_CLAIM_ARG_FRAMEID, node := State.nodeId spt, serial := State.rd spt SYS_SERIAL_LO, consist := State.consist spt, cycle := 1000003 / State.tcNs spt, own := true }
      = false) ∧ (List.find? (Claim.same
      { op := 1, seg := State.rd spt CNP_CLAIM_ARG_SEG, fid := State.rd spt CNP_CLAIM_ARG_FRAMEID, node := State.nodeId spt, serial := State.rd spt SYS_SERIAL_LO, consist := State.consist spt, cycle := 1000003 / State.tcNs spt, own := true })
      spt.cnp.claims = none) ∧ (spt.cnp.asked = []) ∧ (spt.pw.phase = RunPhase.running)) ∧
    ((State.spareEntry w3753450 (State.rd w3753450 CNP_CLAIM_ARG_SEG) (State.rd w3753450 CNP_CLAIM_ARG_FRAMEID) =
      some 0) ∧ (40 + 34 ≤ (State.entry w3753450 0).length) ∧ ((List.any w3753450.cnp.spares fun (x : Spare) =>
      x.seg == State.rd w3753450 CNP_CLAIM_ARG_SEG && x.fid == State.rd w3753450 CNP_CLAIM_ARG_FRAMEID) = true) ∧
      (w3753450.pw.phase = RunPhase.running)) ∧
    ((List.find? (fun (x : Spare) => x.seg == State.rd spt CNP_CLAIM_ARG_SEG && x.fid == State.rd spt
      CNP_CLAIM_ARG_FRAMEID) spt.cnp.spares = none) ∧ (spt.pw.phase = RunPhase.running)) ∧
    ((Option.map (fun (x : Spare) => x.serial) (List.find? (fun (x : Spare) => x.seg == State.rd w3753450
      CNP_CLAIM_ARG_SEG && x.fid == State.rd w3753450 CNP_CLAIM_ARG_FRAMEID) w3753450.cnp.spares) = some (State.rd
      w3753450 SYS_SERIAL_LO)) ∧ (w3753450.cnp.asked = []) ∧ (w3753450.pw.phase = RunPhase.running)) ∧
    ((frKind cf = frClaim) ∧ (frSender cf ≠ 0) ∧ (frSender cf ≠ State.nodeId spt) ∧ (beAt 0 1 (frPayload cf) = 1) ∧
      (State.claimNames spt
      { op := 1, seg := beAt 1 1 (frPayload cf) % 8, fid := beAt 2 2 (frPayload cf) % 1024, node := frSender cf, serial := State.serialOf spt (frSender cf), consist := beAt 6 2 (frPayload cf), cycle := 1000003 / State.tcNs spt - (1000003 / State.tcNs spt + 8 + 65536 - beAt 4 2 (frPayload cf)) % 65536, own := false }
      = true) ∧ (State.claimHeld spt
      { op := 1, seg := beAt 1 1 (frPayload cf) % 8, fid := beAt 2 2 (frPayload cf) % 1024, node := frSender cf, serial := State.serialOf spt (frSender cf), consist := beAt 6 2 (frPayload cf), cycle := 1000003 / State.tcNs spt - (1000003 / State.tcNs spt + 8 + 65536 - beAt 4 2 (frPayload cf)) % 65536, own := false }
      = false) ∧ (List.find? (Claim.same
      { op := 1, seg := beAt 1 1 (frPayload cf) % 8, fid := beAt 2 2 (frPayload cf) % 1024, node := frSender cf, serial := State.serialOf spt (frSender cf), consist := beAt 6 2 (frPayload cf), cycle := 1000003 / State.tcNs spt - (1000003 / State.tcNs spt + 8 + 65536 - beAt 4 2 (frPayload cf)) % 65536, own := false })
      spt.cnp.claims = none)) ∧
    ((frKind cf = frClaim) ∧ (frSender cf ≠ 0) ∧ (frSender cf ≠ State.nodeId w3753450) ∧ (beAt 0 1 (frPayload cf) =
      1) ∧ (State.claimNames w3753450
      { op := 1, seg := beAt 1 1 (frPayload cf) % 8, fid := beAt 2 2 (frPayload cf) % 1024, node := frSender cf, serial := State.serialOf w3753450 (frSender cf), consist := beAt 6 2 (frPayload cf), cycle := 1000003 / State.tcNs w3753450 - (1000003 / State.tcNs w3753450 + 8 + 65536 - beAt 4 2 (frPayload cf)) % 65536, own := false }
      = false ∨ State.claimHeld w3753450
      { op := 1, seg := beAt 1 1 (frPayload cf) % 8, fid := beAt 2 2 (frPayload cf) % 1024, node := frSender cf, serial := State.serialOf w3753450 (frSender cf), consist := beAt 6 2 (frPayload cf), cycle := 1000003 / State.tcNs w3753450 - (1000003 / State.tcNs w3753450 + 8 + 65536 - beAt 4 2 (frPayload cf)) % 65536, own := false }
      = true)) := by
  refine ⟨?_, ?_, ?_, ?_, ?_, ?_, ?_, ?_, ?_⟩ <;>
    decide +kernel

theorem witness_CanopyEvents_2 :
    ((w6702298.cnp.claims = [cl]) ∧ (cl.op = 1) ∧ (cl.own = true) ∧ (cl.cycle + 8 ≤ 250000 * 13 / State.tcNs
      w6702298)) ∧
    ((State.portUsed spt 0 = true) ∧ (spt.pw.phase = RunPhase.running) ∧ (frKind w8328281 ≠ frIna) ∧ (frDest
      w8328281 = 0 ∨ State.nodeCount spt < frDest w8328281) ∧ (frDest w8328281 ≠ 255)) ∧
    ((State.portUsed w6030349 0 = true) ∧ (w6030349.pw.phase = RunPhase.running) ∧ (frKind w2063790 ≠ frIna) ∧ (0 <
      frDest w2063790) ∧ (frDest w2063790 ≤ State.nodeCount w6030349) ∧ (frDest w2063790 ≠ State.nodeId w6030349) ∧
      (frDest w2063790 ≠ 255) ∧ (2 * portPlane 0 + State.sideTowards w6030349 (frDest w2063790) ≠ 0) ∧
      (State.portUsed w6030349 (2 * portPlane 0 + State.sideTowards w6030349 (frDest w2063790)) = true) ∧
      (State.blocked w6030349 (2 * portPlane 0 + State.sideTowards w6030349 (frDest w2063790)) = false) ∧
      (List.length (State.etPort w6030349 (2 * portPlane 0 + State.sideTowards w6030349 (frDest w2063790))).queue <
      32) ∧ ((State.etPort w6030349 (2 * portPlane 0 + State.sideTowards w6030349 (frDest w2063790))).busy = true)) ∧
    ((State.portSends w4313504 2 = true) ∧ (w4313504.pw.phase = RunPhase.running) ∧ (w4313504.pw.start.ready =
      true) ∧ (w4313504.ust.tunnels = []) ∧ ((State.etPort w4313504 2).queue = w2425908 :: w6508809) ∧ (State.etMay
      w4313504 2 w2425908 = true) ∧ (State.etFits (State.begin w4313504 (1000003 + 130000)) w2425908.bytes = true)
      ∧ (w2425908.own = true → frKind (if w2425908.own = true then State.restamp (State.begin w4313504 (1000003 +
      130000)) w2425908.bytes else w2425908.bytes) ≠ frIna ∧ frKind (if w2425908.own = true then State.restamp
      (State.begin w4313504 (1000003 + 130000)) w2425908.bytes else w2425908.bytes) ≠ frClaim) ∧ (w4313504.rwy.out
      = []) ∧ (w4313504.cnp.asked = []) ∧ ((State.etPort w4313504 2).busy = false)) ∧
    ((spt.ust.tunnels = []) ∧ ((State.etPort spt 0).queue = [])) := by
  refine ⟨?_, ?_, ?_, ?_, ?_⟩ <;>
    decide +kernel

theorem witness_CheckValues :
    ((State.rd spt CVU_CTXLOCK_LOCK = 0) ∧ ((List.all (List.range 128) fun (i : ℕ) => State.ctxLockOk spt i) =
      true) ∧ (spt.pw.phase = RunPhase.running)) ∧
    ((State.rd cvt CVU_CTXLOCK_LOCK = 0) ∧ (List.find? (fun (i : ℕ) => !State.ctxLockOk cvt i) (List.range 128) =
      some 4) ∧ (cvt.pw.phase = RunPhase.running)) ∧
    ((State.rd w7997182 (CVU_CTXc_STAT_FRESH 4) = 1) ∧ ((State.ctx w7997182 4).at_ + State.rd w7997182
      (CVU_CTXc_TMO_TIMEOUT 4) * 100000 ≤ 90000000) ∧ (State.judgeAt (State.begin w7997182 90000000) (State.entry
      w7997182 (State.rd w7997182 (CVU_CTXc_CFG_BLAZE 4))) ≠ 90000000 ∨ (State.blz w7997182 (State.rd w7997182
      (CVU_CTXc_CFG_BLAZE 4))).judged = 90000000 / State.tcNs w7997182 + 1 ∨ (State.blzNow (State.begin w7997182
      90000000) (State.rd w7997182 (CVU_CTXc_CFG_BLAZE 4))).copies = [])) ∧
    ((900 < (State.ctx okc 4).at_ + State.rd okc (CVU_CTXc_TMO_TIMEOUT 4) * 100000)) ∧
    ((List.find? (fun (x : ℕ × ℕ × Bool) => x.1 == 2) w4660100.cvu.results = some (2, 21474836481, true))) ∧
    ((∀ (x : UnitRun), tblFind 2 spt.cvu.running = some x → x.at_ ≠ 900)) ∧
    ((tblFind 2 w6806439.cvu.running = some { v := 5, at_ := 900, same := 6 })) := by
  refine ⟨?_, ?_, ?_, ?_, ?_, ?_, ?_⟩ <;>
    decide +kernel

end W08

namespace W09

abbrev routed : State := r0
def up : State := routed
def st (k n : Nat) (s : State) := s.wr (STD_Sk_STAT_STATE k) n
def pr (k : Nat) (s : State) := (s.wr (STD_Sk_STAT_MODE k) 1).wr (STD_Sk_LANES_LANEC k) 15
def q0 : HoReq := ⟨1, false, 3⟩
def ru0 : HoRun := ⟨q0, 2, 8000, false⟩
def lk (s : State) : State := {((s.wr STD_LKO_CFG_MAX 10).wr STD_LKO_CFG_MIN 2).wr STD_LKO_STAT_ARMED 1 with lko := ⟨1000, some 1100, true⟩}
def lk0 (s : State) : State := {lk s with lko := ⟨1000, none, true⟩}
def hl : State := {up with dbg := .stand 0} |> st 0 5
def xr (s : State) : State := (List.range 16).foldl (fun s i => s.wrBit STD_XRST_PERMIT i true) s
def lk1 (s : State) : State := {lk s with lko := ⟨1000, some 8990, true⟩}
def w5355972 : State := (pr 0 up)
def w2902843 : State := (up.wr (STD_Sk_STAT_MODE 0) 3)
def w3710058 : State := {up with cop := {up.cop with testing := 2^14}}
def w8116616 : State := (up.setStand 0 {(up.stand 0) with request := some q0})
def w108132 : State := ((st 0 2 up).setStand 0 {(up.stand 0) with run := some ru0})
def w8500034 : State := ((st 0 4 up).setStand 0 {(up.stand 0) with resetting := some false} |>.wr CPC_CORE_RETIRED 0x7FF8)
def w5287090 : State := (up.wr (STD_Sk_LANES_FENCED 0) 1)
def w4886651 : State := {(up.wr STD_OPT_LKODBG 1) with dbg := .stand 0}
def w7295614 : State := (up.wr SYS_RSTCNT_LOOKOUT 255)
def w6222421 : State := (lk up)
def w5719983 : State := (lk0 up |>.wr STD_LKO_STAT_SUSP 1)
def w7139325 : State := (up.wr (STD_Sk_STAT_MODE 1) 3)
def w5619737 : State := ((lk up).wr STD_LKO_STAT_OPEN 1)
def w1978160 : State := (st 1 3 up)
def w7534613 : State := (st 0 3 (xr up))
def w4036139 : State := (pr 1 up)
def w8165070 : State := (lk1 up|>.wr STD_LKO_STAT_OPEN 1)

theorem witness_StandFailures :
    ((State.standClocked up 0 = true) ∧ (State.standState up 0 = stRunning) ∧ (1 ∈ State.liveLanes up 0) ∧
      (State.wholeTriad up 0 = true) ∧ (∀ i < 4, i ≠ 0 → State.standState up i ≠ stFailed)) ∧
    ((State.standClocked w5355972 0 = true) ∧ (State.standState w5355972 0 = stRunning) ∧ (State.mode w5355972 0 =
      modePair) ∧ (1 ∈ State.liveLanes w5355972 0) ∧ (∀ i < 4, i ≠ 0 → State.standState w5355972 i ≠ stFailed)) ∧
    ((State.standClocked up 0 = true) ∧ (State.standState up 0 = stRunning) ∧ (State.mode up 0 = modePair ∨
      State.mode up 0 = modeTriad) ∧ (∀ i < 4, i ≠ 0 → State.standState up i ≠ stFailed)) ∧
    ((State.standClocked w1978160 0 = true) ∧ (State.standState w1978160 0 = stRunning) ∧ (State.mode w1978160 0 =
      modePair ∨ State.mode w1978160 0 = modeTriad) ∧ (∃ i < 4, i ≠ 0 ∧ State.standState w1978160 i = stFailed)) ∧
    ((State.standClocked w2902843 0 = true) ∧ (State.standState w2902843 0 = stRunning) ∧ (State.mode w2902843 0 =
      modeSplit)) ∧
    ((State.standClocked up 0 = true) ∧ (State.standState up 0 = stRunning) ∧ (State.wholeTriad up 0 = true) ∧
      ((State.stand up 0).outvoted = []) ∧ (State.doubleFailed up = false)) ∧
    ((w3710058.pw.phase = RunPhase.running) ∧ (State.coreTesting w3710058 14 = true) ∧ (w3710058.cop.run = none) ∧
      (w3710058.cop.waiting = none) ∧ (∀ i < 4, (State.stand w3710058 i).resetting = none) ∧ (State.isSpare
      w3710058 14 = true) ∧ (bitAt w3710058.cop.fenced 14 = false)) ∧
    ((w3710058.pw.phase = RunPhase.running) ∧ (State.coreTesting w3710058 14 = true) ∧ (w3710058.cop.run = none) ∧
      (w3710058.cop.waiting = none) ∧ (∀ i < 4, (State.stand w3710058 i).resetting = none) ∧ (State.isSpare
      w3710058 14 = true) ∧ (List.length w3710058.cop.log < 4096)) := by
  refine ⟨?_, ?_, ?_, ⟨?_, ?_, ?_, ?_⟩, ?_, ?_, ?_, ?_⟩ <;>
    first
      | decide +kernel
      | exact ⟨0, by decide +kernel⟩
      | exact ⟨1, by decide +kernel⟩

theorem witness_StandModes :
    ((State.hartRuns up 0 = true) ∧ (State.deviceOpen up 0 270532608 = true) ∧ (up.fwu.pause = none) ∧ (bitsAt
      (BitVec.toNat (83886081 : BitVec 32)) 24 8 ≠ 165)) ∧
    ((State.hartRuns w8116616 0 = true) ∧ (State.deviceOpen w8116616 0 270532608 = true) ∧ (w8116616.fwu.pause =
      none) ∧ (bitsAt (BitVec.toNat (2768240642 : BitVec 32)) 24 8 = 165) ∧ (Option.isSome (State.stand w8116616
      0).request = true ∨ Option.isSome (State.stand w8116616 0).run = true)) ∧
    ((State.hartRuns up 0 = true) ∧ (State.deviceOpen up 0 270532608 = true) ∧ (up.fwu.pause = none) ∧ (bitsAt
      (BitVec.toNat (2768240640 : BitVec 32)) 24 8 = 165) ∧ ((State.stand up 0).request = none) ∧ ((State.stand up
      0).run = none) ∧ (0 = 0) ∧ (bitsAt (BitVec.toNat (2768240640 : BitVec 32)) 0 2 = modeSplit ∨ bitsAt
      (BitVec.toNat (2768240640 : BitVec 32)) 0 2 = modeOff)) ∧
    ((State.hartRuns up 1 = true) ∧ (State.deviceOpen up 1 270532608 = true) ∧ (up.fwu.pause = none) ∧ (bitsAt
      (BitVec.toNat (2768240641 : BitVec 32)) 24 8 = 165) ∧ ((State.stand up 0).request = none) ∧ ((State.stand up
      0).run = none) ∧ (bitsAt (BitVec.toNat (2768240641 : BitVec 32)) 0 2 = modePair) ∧ (State.permits up
      (hartStand 1) 0 = false)) ∧
    ((State.hartRuns w7534613 1 = true) ∧ (State.deviceOpen w7534613 1 270532608 = true) ∧ (w7534613.fwu.pause =
      none) ∧ (bitsAt (BitVec.toNat (2768240641 : BitVec 32)) 24 8 = 165) ∧ ((State.stand w7534613 0).request =
      none) ∧ ((State.stand w7534613 0).run = none) ∧ (bitsAt (BitVec.toNat (2768240641 : BitVec 32)) 0 2 =
      modePair) ∧ (State.permits w7534613 (hartStand 1) 0 = true) ∧ (State.standState w7534613 0 = stFailed)) ∧
    ((State.hartRuns w4036139 1 = true) ∧ (State.deviceOpen w4036139 1 270532608 = true) ∧ (w4036139.fwu.pause =
      none) ∧ (bitsAt (BitVec.toNat (2768240642 : BitVec 32)) 24 8 = 165) ∧ ((State.stand w4036139 1).request =
      none) ∧ ((State.stand w4036139 1).run = none) ∧ (bitsAt (BitVec.toNat (2768240642 : BitVec 32)) 0 2 =
      modeTriad) ∧ (State.mode w4036139 1 ≠ modeTriad) ∧ ((State.stand w4036139 1).reserve = []) ∧
      (State.provenSpares w4036139 = [])) := by
  refine ⟨?_, ?_, ?_, ?_, ?_, ?_⟩ <;>
    decide +kernel

theorem witness_StandModes_2 :
    ((State.hartRuns up 0 = true) ∧ (State.deviceOpen up 0 270532608 = true) ∧ (up.fwu.pause = none) ∧ (bitsAt
      (BitVec.toNat (2768240641 : BitVec 32)) 24 8 = 165) ∧ ((State.stand up 0).request = none) ∧ ((State.stand up
      0).run = none) ∧ (bitsAt (BitVec.toNat (2768240641 : BitVec 32)) 0 2 = modePair ∨ 0 ≠ 0 ∧ bitsAt
      (BitVec.toNat (2768240641 : BitVec 32)) 0 2 ≠ modeTriad) ∧ (State.permits up (hartStand 0) 0 = true) ∧
      (State.standState up 0 ≠ stFailed)) ∧
    ((State.standClocked w8116616 0 = true) ∧ (State.doubleFailed w8116616 = false) ∧ ((State.stand w8116616
      0).request = some q0) ∧ ((State.stand w8116616 0).run = none) ∧ ((State.stand w8116616 0).resetting = none) ∧
      (State.standState w8116616 0 = stRunning ∨ State.standState w8116616 0 = stOff) ∧ ((List.any w8116616.rwy.ops
      fun (o : RwOp) => Option.any (fun (h : ℕ) => List.contains (standHarts 0) h) o.hart) = false) ∧ ((List.any
      w8116616.rwy.held fun (h : RwHeld) => List.contains (standHarts 0) h.hart && decide (9000 < h.at_ + 100000))
      = false)) ∧
    ((State.standUp w108132 0 = true) ∧ (State.doubleFailed w108132 = false) ∧ ((State.stand w108132 0).run = some
      ru0) ∧ (ru0.nap = false) ∧ (ru0.req.mode < 4) ∧ (ru0.req.sub = false)) ∧
    ((State.standUp w108132 0 = true) ∧ (State.doubleFailed w108132 = false) ∧ ((State.stand w108132 0).run = some
      ru0) ∧ (ru0.nap = false) ∧ (∀ i < 4, State.standState w108132 i ≠ stFailed)) ∧
    ((State.hartRuns up 0 = true) ∧ (State.deviceOpen up 0 270532608 = true) ∧ (State.permits up (hartStand 0) 0 =
      true) ∧ (up.fwu.pause = none) ∧ ((State.stand up 0).resetting = none) ∧ (State.doubleFailed up = false) ∧
      (up.pw.phase = RunPhase.running)) ∧
    ((w8500034.pw.phase = RunPhase.running) ∧ ((State.stand w8500034 0).resetting = some false) ∧ (State.formCores
      w8500034 0 = [0, 1, 2]) ∧ (State.initMode w8500034 0 = modeTriad) ∧ (0 < 15) ∧ (1 < 15) ∧ (2 < 15) ∧
      (State.doubleFailed w8500034 = false)) := by
  refine ⟨?_, ?_, ?_, ?_, ?_, ?_⟩ <;>
    decide +kernel

theorem witness_DebugAndEvents :
    ((w5287090.pw.phase = RunPhase.running) ∧ (w5287090.fwu.pause = none) ∧ (w5287090.dbg = Attach.none) ∧
      (State.laneFenced w5287090 0 0 = true)) ∧
    ((up.pw.phase = RunPhase.running) ∧ (up.fwu.pause = none) ∧ (up.dbg = Attach.none) ∧ (State.laneFenced up 0 0 =
      false) ∧ (up.pw.exhausted = false) ∧ (State.rd up (PWR_UNIT_UNIT 0) = 0)) ∧
    ((up.pw.phase = RunPhase.running) ∧ (up.fwu.pause = none) ∧ (up.dbg = Attach.none) ∧ (State.bit up
      (LE_Ee_LANES_FENCED 0) (State.rd up (LE_Ee_LANES_LANEA 0)) = false)) ∧
    ((w4886651.dbg = Attach.stand 0) ∧ (w4886651.pw.phase = RunPhase.running) ∧ (State.standState w4886651 0 =
      stRunning) ∧ (State.rd w4886651 (PWR_UNIT_UNIT 0) = 0)) ∧
    ((hl.dbg = Attach.stand 0) ∧ (hl.pw.phase = RunPhase.running) ∧ (State.standState hl 0 = stHalted) ∧
      ((State.stand hl 0).haltReq = false)) ∧
    ((hl.dbg = Attach.stand 0) ∧ (hl.pw.phase = RunPhase.running) ∧ (hl.pw.exhausted = false)) ∧
    ((w4886651.dbg = Attach.stand 0) ∧ (w4886651.pw.phase = RunPhase.running) ∧ (w4886651.pw.exhausted = false) ∧
      (16777216 ≤ 16777472) ∧ (16777472 + 16 ≤ 33554432) ∧ (0 < 16) ∧ (RangeSound w4886651 16777472 16)) ∧
    ((hl.dbg = Attach.stand 0) ∧ (hl.pw.phase = RunPhase.running) ∧ (3072 ≤ 3073) ∧ (3073 < 4096)) ∧
    ((hl.dbg = Attach.stand 0) ∧ (hl.pw.phase = RunPhase.running) ∧ (837 < 3072 ∨ 4096 < 837) ∧ (State.mode hl 0 ≠
      modeSplit) ∧ (List.length (State.stand hl 0).replay < 256) ∧ (State.standState hl 0 = stHalted)) := by
  refine ⟨?_, ?_, ?_, ?_, ?_, ?_, ⟨?_, ?_, ?_, ?_, ?_, ?_, ?_⟩, ?_, ?_⟩ <;>
    first
      | decide +kernel
      | (simp only [LeGoes, BitOk, WordOk, InstOk, DataSound, FetchSound, EngineSound, RangeSound, Recording, NoSoft, not_and]; decide +kernel)

theorem witness_DebugAndEvents_2 :
    ((w4886651.dbg = Attach.stand 0) ∧ (w4886651.pw.phase = RunPhase.running) ∧ (16777472 < 3072 ∨ 4096 < 16777472)
      ∧ (State.mode w4886651 0 ≠ modeSplit) ∧ (List.length (State.stand w4886651 0).replay < 256) ∧
      (State.standState w4886651 0 ≠ stHalted)) ∧
    ((w4886651.dbg = Attach.stand 0) ∧ (w4886651.pw.phase = RunPhase.running) ∧ (State.mode w4886651 0 ≠ modeSplit)
      ∧ (List.length (State.stand w4886651 0).replay < 256) ∧ (16777216 ≤ 16777472) ∧ (16777472 + List.length [(1 :
      Byte), (2 : Byte), (3 : Byte)] ≤ 32505856) ∧ (0 < List.length [(1 : Byte), (2 : Byte), (3 : Byte)]) ∧
      (List.length [(1 : Byte), (2 : Byte), (3 : Byte)] ≤ 8) ∧ (RangeSound w4886651 ((16777472 / 64 : ℕ) * 64)
      128)) ∧
    ((up.dbg ≠ Attach.stand 0)) ∧
    ((State.hartRuns up 0 = true) ∧ (State.offered up 0 false (State.pendVec up 0) = none)) ∧
    ((State.hartRuns up 0 = true) ∧ (State.deviceOpen up 0 270532608 = true)) := by
  refine ⟨?_, ⟨?_, ?_, ?_, ?_, ?_, ?_, ?_, ?_, ?_⟩, ?_, ?_, ?_⟩ <;>
    first
      | decide +kernel
      | (simp only [LeGoes, BitOk, WordOk, InstOk, DataSound, FetchSound, EngineSound, RangeSound, Recording, NoSoft, not_and]; decide +kernel)

theorem witness_LookoutServices :
    ((w7295614.pw.phase = RunPhase.running) ∧ (w7295614.pw.exhausted = false) ∧ (State.hartRuns w7295614 0 = true)
      ∧ (State.deviceOpen w7295614 0 270532608 = true) ∧ (w7295614.fwu.seed = none) ∧ (w7295614.lko.first = none)) ∧
    ((w8165070.pw.phase = RunPhase.running) ∧ (w8165070.pw.exhausted = false) ∧ (State.hartRuns w8165070 0 = true)
      ∧ (State.deviceOpen w8165070 0 270532608 = true) ∧ (w8165070.fwu.seed = none) ∧ (w8165070.lko.first = some
      8990) ∧ ((23205 : BitVec 32) = (23205 : BitVec 32)) ∧ (9000 ≤ 8990 + 64000) ∧ (¬(State.rd w8165070
      STD_LKO_STAT_ARMED = 1 ∧ w8165070.lko.lower = true ∧ State.rd w8165070 STD_LKO_STAT_OPEN = 0 ∧ State.rd
      w8165070 STD_LKO_CFG_MAX * 1000000 * State.rd w8165070 STD_LKO_CFG_MIN / 4 ≠ 0 ∧ 9000 < w8165070.lko.from_ +
      State.rd w8165070 STD_LKO_CFG_MAX * 1000000 * State.rd w8165070 STD_LKO_CFG_MIN / 4 + State.rd w8165070
      STD_LKO_CFG_MAX * 1000000 * State.rd w8165070 STD_LKO_CFG_MIN / 4 / 100 + 61000)) ∧ (w8165070.fwu.pause =
      none)) ∧
    ((w6222421.pw.phase = RunPhase.running) ∧ (w6222421.pw.exhausted = false) ∧ (State.hartRuns w6222421 0 = true)
      ∧ (State.deviceOpen w6222421 0 270532608 = true) ∧ (w6222421.fwu.seed = none) ∧ (w6222421.lko.first = some
      1100) ∧ ((23205 : BitVec 32) = (23205 : BitVec 32)) ∧ (9000 ≤ 1100 + 64000) ∧ (State.rd w6222421
      STD_LKO_STAT_ARMED = 1) ∧ (w6222421.lko.lower = true) ∧ (State.rd w6222421 STD_LKO_STAT_OPEN = 0) ∧ (State.rd
      w6222421 STD_LKO_CFG_MAX * 1000000 * State.rd w6222421 STD_LKO_CFG_MIN / 4 ≠ 0) ∧ (9000 < w6222421.lko.from_
      + State.rd w6222421 STD_LKO_CFG_MAX * 1000000 * State.rd w6222421 STD_LKO_CFG_MIN / 4 + State.rd w6222421
      STD_LKO_CFG_MAX * 1000000 * State.rd w6222421 STD_LKO_CFG_MIN / 4 / 100 + 61000)) ∧
    ((w5619737.pw.phase = RunPhase.running) ∧ (w5619737.pw.exhausted = false) ∧ (State.hartRuns w5619737 0 = true)
      ∧ (State.deviceOpen w5619737 0 270532608 = true) ∧ (w5619737.fwu.seed = none) ∧ (w5619737.lko.first = some
      1100) ∧ ((23206 : BitVec 32) ≠ (23205 : BitVec 32) ∨ 1100 + 64000 < 9000)) ∧
    ((w6222421.pw.phase = RunPhase.running) ∧ (w6222421.pw.exhausted = false) ∧ (State.hartRuns w6222421 1 = true)
      ∧ (State.deviceOpen w6222421 1 270532608 = true) ∧ ((1 : Fin 12) ≠ (0 : Fin 12))) ∧
    ((w7139325.pw.phase = RunPhase.running) ∧ (w7139325.pw.exhausted = false) ∧ (State.hartRuns w7139325 6 = true)
      ∧ (State.deviceOpen w7139325 6 270532608 = false)) := by
  refine ⟨?_, ?_, ⟨?_, ?_, ?_, ?_, ?_, ?_, ?_, ?_, ?_, ?_, ?_, ?_, ?_⟩, ?_, ?_, ?_⟩ <;>
    decide +kernel

theorem witness_LookoutServices_2 :
    ((w6222421.pw.phase = RunPhase.running) ∧ (w6222421.pw.exhausted = false) ∧ (State.rd w6222421
      STD_LKO_STAT_ARMED = 1) ∧ (State.rd w6222421 STD_LKO_STAT_SUSP = 0) ∧ (w6222421.fwu.seed = none) ∧
      (w6222421.lko.from_ + State.rd w6222421 STD_LKO_CFG_MAX * 1000000 ≤ 900000000)) ∧
    ((w6222421.pw.phase = RunPhase.running) ∧ (w6222421.pw.exhausted = false) ∧ (State.rd w6222421
      STD_LKO_STAT_ARMED = 1) ∧ (State.rd w6222421 STD_LKO_STAT_SUSP = 0) ∧ (State.rd w6222421 STD_LKO_STAT_OPEN =
      0) ∧ (w6222421.lko.from_ + State.rd w6222421 STD_LKO_CFG_MAX * 1000000 * State.rd w6222421 STD_LKO_CFG_MIN /
      4 ≤ 900000000)) ∧
    ((w6222421.pw.phase = RunPhase.running) ∧ (w6222421.pw.exhausted = false) ∧ (w6222421.lko.first = some 1100) ∧
      (State.rd w6222421 STD_LKO_STAT_SUSP = 0) ∧ (1100 + 64000 < 900000000)) ∧
    ((w7295614.pw.phase = RunPhase.running) ∧ (w7295614.pw.exhausted = false) ∧ (w7295614.pw.start.serviced =
      false) ∧ (State.rd w7295614 STD_LKO_STAT_SUSP = 0) ∧ (w7295614.fwu.seed = none) ∧ (w7295614.fwu.pause = none)
      ∧ (w7295614.pw.start.at_ + 5000000000 ≤ 7000000000)) ∧
    ((w5719983.pw.phase = RunPhase.running) ∧ (w5719983.pw.exhausted = false) ∧ (w5719983.pw.start.serviced = true
      ∨ State.rd w5719983 STD_LKO_STAT_SUSP = 1)) := by
  refine ⟨?_, ?_, ?_, ?_, ?_⟩ <;>
    decide +kernel

end W09

namespace W10

abbrev routed : State := r0
def prt (n : Nat) (s : State) : State := {s with fab := {s.fab with ina := 70, top := 70, links := (List.range 4).map fun p => (p, {portLinkInit with used := true})}, pw := {s.pw with start := {s.pw.start with ready := true, applied := true, firmware := true}}}.wr CNP_PORTSTAT_LINKUP n |>.wr CNP_NODE_ID 2
def recOf (car : Nat) : List Byte := [0,0,0,0,0,7, BitVec.ofNat 8 car, 1] ++ beBytes 4 (100 + car) ++ [0,0,0,0] ++ List.replicate 12 0 ++ beBytes 4 (99+car) ++ beBytes 4 (99+car) ++ beBytes 4 (101+car)++ beBytes 4 (101+car) ++ beBytes 2 50 ++ beBytes 2 50 ++ beBytes 2 50 ++ beBytes 2 50 ++ beBytes 4 0 ++ [0,0,0,0]
def nd (car : Nat) : TNode := ⟨recOf car, car, true⟩
def trn : Train := ⟨[nd 1, nd 2, nd 3], [101,102,103], false, some 1, [⟨7, some 0, 0, []⟩], [(0,2)], 5⟩
def fr (kind sender dest : Nat) (pay : List Byte) : List Byte := nodeMac dest ++ nodeMac sender ++ [0x88,0xB5, byteOf (1+16*kind), byteOf sender] ++ beBytes 2 3 ++ beBytes 2 4 ++ beBytes 2 0 ++ beBytes 2 pay.length ++ beBytes 2 7 ++ [byteOf dest,0,0,0] ++ pay
def ina (dest op n : Nat) (b : List Byte) := fr 3 1 dest ([byteOf op, 0] ++ beBytes 2 n ++ beBytes 2 7 ++ [1,1] ++ beBytes 4 101 ++ b)
def g (n : Nat) := (prt n routed).wr SYS_SERIAL_LO 102
def stt (n : Nat) (s : State) := s.wr CNP_INA_STAT_STATE n
def bt (s : State) : State := {s with fab := {s.fab with built := some trn, effect := some 8}}
def pv : Train := {trn with nodes := trn.nodes.map fun n => {n with body := n.body.take 24 ++ beBytes 4 77 ++ n.body.drop 28}}
def w3521355 : State := (g 0)
def w4831378 : State := {(g 0) with pw := routed.pw}
def w653983 : State := {(g 1) with fab := {(g 0).fab with inTrain := 15, started := true}}
def w4108984 : State := (g 2)
def w66706 : List Byte := (ina 255 1 70 [])
def w1302223 : List Byte := (ina 255 1 71 [])
def w1813024 : List Byte := (ina 0 2 70 ([0x20,1,0,0,0,0,0,0]))
def w6804586 : State := ((g 2).setEtPort 1 ⟨[ownFrame [1]],true⟩)
def w4297870 : List Byte := (ina 0 3 70 (beBytes 8 5000))
def w427915 : State := ((g 2).setPortLink 1 {portLinkInit with t1 := some 5000, exch := 15, sum := 640})
def w2592633 : List Byte := (ina 0 4 70 (beBytes 8 5000 ++ beBytes 8 6000 ++ beBytes 8 7000))
def w5025990 : State := (stt 1 (g 2))
def w8973225 : List Byte := (ina 255 5 70 (List.replicate 48 3))
def w1202224 : List Byte := (ina 255 6 70 (List.replicate 48 3))
def w8810791 : List Byte := (ina 255 7 70 (List.replicate 48 3))
def w8689131 : State := (bt (stt 4 (g 2)))
def w6633854 : List Byte := (ina 255 8 70 (List.replicate 48 3))
def w5605493 : List Byte := (ina 255 8 70 (beBytes 4 5 ++ List.replicate 48 3))
def w8600762 : State := ({(stt 4 (g 2)) with fab := {(g 2).fab with built := some pv, prevCrc := 77}}|>.wr CNP_SYNC_STAT_STATE 2)
def w9049426 : State := ({(stt 1 (g 2)) with fab := {(g 2).fab with links := [(1, {portLinkInit with nbr := some ⟨101,0,0⟩, delay := some 50})]}})
def w5937797 : State := ((stt 2 (g 2)))
def w603619 : State := (bt (stt 5 (g 2))|>.wr CNP_SYNC_STAT_STATE 2)
def w8609550 : List Byte := (ina 255 1 69 [])

theorem witness_TrainFabric :
    ((State.linkUp w3521355 1 = false) ∧ (w3521355.pw.phase = RunPhase.running) ∧ (w3521355.fab.started = false) ∧
      (State.inaState w3521355 = inaIdle) ∧ (State.mayInaugurate w3521355 = true)) ∧
    ((State.linkUp w4831378 1 = false) ∧ (w4831378.pw.phase = RunPhase.running) ∧ (w4831378.fab.started = false) ∧
      (State.inaState w4831378 = inaIdle) ∧ (State.mayInaugurate w4831378 = false)) ∧
    ((State.linkUp w427915 1 = true) ∧ (State.inaState w427915 = inaIdle)) ∧
    ((State.sideInTrain w653983 1 = true) ∧ (State.linkUp w653983 1 = false) ∧ (State.linkUp w653983 (2 + 1) =
      false) ∧ ((State.portLink w653983 1).downAt + 20000000 ≤ 900000000) ∧ ((State.portLink w653983 (2 +
      1)).downAt + 20000000 ≤ 900000000) ∧ (State.mayInaugurate w653983 = true) ∧ (State.inaState w653983 =
      inaIdle) ∧ (State.allMeasured w653983 = false)) ∧
    ((State.portSends w4108984 1 = true) ∧ (frKind w66706 = frIna) ∧ (beAt 0 1 (frPayload w66706) = 1) ∧ (12 ≤
      List.length (frPayload w66706)) ∧ (beAt 2 2 (frPayload w66706) = w4108984.fab.ina) ∧ ((beAt 2 2 (frPayload
      w66706) + 65536 - w4108984.fab.top) % 65536 < 32768) ∧ (beAt 8 4 (frPayload w66706) ≠ State.rd w4108984
      SYS_SERIAL_LO) ∧ (State.loaded w4108984 = false ∨ beAt 7 1 (frPayload w66706) = 0 ∨ beAt 1 1 (frPayload
      w66706) = State.rd w4108984 KEY_VEH_ID0_DOMAIN) ∧ (State.linkUp w4108984 (otherPort 1) = false) ∧ (1 = 2 ∨ 1
      = 3 ∨ 1 = 4 → frDest w66706 = 0) ∧ (State.inaState w4108984 = inaIdle)) ∧
    ((State.portSends w4108984 1 = true) ∧ (frKind w1302223 = frIna) ∧ (beAt 0 1 (frPayload w1302223) = 1) ∧ (12 ≤
      List.length (frPayload w1302223)) ∧ (beAt 2 2 (frPayload w1302223) ≠ w4108984.fab.ina) ∧ ((beAt 2 2
      (frPayload w1302223) + 65536 - w4108984.fab.top) % 65536 < 32768) ∧ (beAt 8 4 (frPayload w1302223) ≠ State.rd
      w4108984 SYS_SERIAL_LO) ∧ (State.loaded w4108984 = false ∨ beAt 7 1 (frPayload w1302223) = 0 ∨ beAt 1 1
      (frPayload w1302223) = State.rd w4108984 KEY_VEH_ID0_DOMAIN) ∧ (State.mayInaugurate w4108984 = true) ∧
      (State.allMeasured w4108984 = false) ∧ (State.linkUp w4108984 (otherPort 1) = false) ∧ (frDest w1302223 =
      255)) := by
  refine ⟨?_, ?_, ?_, ?_, ?_, ?_⟩ <;>
    decide +kernel

theorem witness_TrainFabric_2 :
    ((State.portSends w4108984 1 = true) ∧ (frKind w8609550 = frIna) ∧ (beAt 0 1 (frPayload w8609550) = 1) ∧
      (¬(beAt 2 2 (frPayload w8609550) + 65536 - w4108984.fab.top) % 65536 < 32768 ∨ beAt 8 4 (frPayload w8609550)
      = State.rd w4108984 SYS_SERIAL_LO) ∧ (State.inaState w4108984 = inaIdle)) ∧
    ((State.portSends w4108984 1 = true) ∧ (frKind w1813024 = frIna) ∧ (beAt 0 1 (frPayload w1813024) = 2) ∧ (12 ≤
      List.length (frPayload w1813024)) ∧ (beAt 2 2 (frPayload w1813024) = w4108984.fab.ina) ∧ ((beAt 2 2
      (frPayload w1813024) + 65536 - w4108984.fab.top) % 65536 < 32768) ∧ (beAt 8 4 (frPayload w1813024) ≠ State.rd
      w4108984 SYS_SERIAL_LO) ∧ (State.loaded w4108984 = false ∨ beAt 7 1 (frPayload w1813024) = 0 ∨ beAt 1 1
      (frPayload w1813024) = State.rd w4108984 KEY_VEH_ID0_DOMAIN) ∧ (State.linkUp w4108984 (otherPort 1) = false)
      ∧ (2 = 2 ∨ 2 = 3 ∨ 2 = 4 → frDest w1813024 = 0) ∧ (State.inaState w4108984 = inaIdle) ∧ (State.sideInTrain
      w4108984 (portSide 1) = false) ∧ ((State.portLink w4108984 1).late = false)) ∧
    ((State.portSends w6804586 1 = true) ∧ (frKind w4297870 = frIna) ∧ (beAt 0 1 (frPayload w4297870) = 3) ∧ (12 ≤
      List.length (frPayload w4297870)) ∧ (beAt 2 2 (frPayload w4297870) = w6804586.fab.ina) ∧ ((beAt 2 2
      (frPayload w4297870) + 65536 - w6804586.fab.top) % 65536 < 32768) ∧ (beAt 8 4 (frPayload w4297870) ≠ State.rd
      w6804586 SYS_SERIAL_LO) ∧ (State.loaded w6804586 = false ∨ beAt 7 1 (frPayload w4297870) = 0 ∨ beAt 1 1
      (frPayload w4297870) = State.rd w6804586 KEY_VEH_ID0_DOMAIN) ∧ (State.linkUp w6804586 (otherPort 1) = false)
      ∧ (3 = 2 ∨ 3 = 3 ∨ 3 = 4 → frDest w4297870 = 0) ∧ (State.inaState w6804586 = inaIdle) ∧ (State.linkUp
      w6804586 1 = true) ∧ (List.length (State.etPort w6804586 1).queue < 32) ∧ ((State.etPort w6804586 1).busy =
      true)) := by
  refine ⟨?_, ⟨?_, ?_, ?_, ?_, ?_, ?_, ?_, ?_, ?_, ?_, ?_, ?_, ?_⟩, ⟨?_, ?_, ?_, ?_, ?_, ?_, ?_, ?_, ?_, ?_, ?_,
    ?_, ?_, ?_⟩⟩ <;>
    decide +kernel

theorem witness_TrainFabric_3 :
    ((State.portSends w427915 1 = true) ∧ (frKind w2592633 = frIna) ∧ (beAt 0 1 (frPayload w2592633) = 4) ∧ (12 ≤
      List.length (frPayload w2592633)) ∧ (beAt 2 2 (frPayload w2592633) = w427915.fab.ina) ∧ ((beAt 2 2 (frPayload
      w2592633) + 65536 - w427915.fab.top) % 65536 < 32768) ∧ (beAt 8 4 (frPayload w2592633) ≠ State.rd w427915
      SYS_SERIAL_LO) ∧ (State.loaded w427915 = false ∨ beAt 7 1 (frPayload w2592633) = 0 ∨ beAt 1 1 (frPayload
      w2592633) = State.rd w427915 KEY_VEH_ID0_DOMAIN) ∧ (State.linkUp w427915 (otherPort 1) = false) ∧ (4 = 2 ∨ 4
      = 3 ∨ 4 = 4 → frDest w2592633 = 0) ∧ (State.inaState w427915 = inaIdle) ∧ ((State.portLink w427915 1).t1 =
      some (beAt 12 8 (frPayload w2592633))) ∧ ((State.portLink w427915 1).delay = none) ∧ ((State.portLink w427915
      1).exch = 15)) ∧
    ((State.portSends w5025990 1 = true) ∧ (frKind w8973225 = frIna) ∧ (beAt 0 1 (frPayload w8973225) = 5) ∧ (12 ≤
      List.length (frPayload w8973225)) ∧ (beAt 2 2 (frPayload w8973225) = w5025990.fab.ina) ∧ ((beAt 2 2
      (frPayload w8973225) + 65536 - w5025990.fab.top) % 65536 < 32768) ∧ (beAt 8 4 (frPayload w8973225) ≠ State.rd
      w5025990 SYS_SERIAL_LO) ∧ (State.loaded w5025990 = false ∨ beAt 7 1 (frPayload w8973225) = 0 ∨ beAt 1 1
      (frPayload w8973225) = State.rd w5025990 KEY_VEH_ID0_DOMAIN) ∧ (State.linkUp w5025990 (otherPort 1) = false)
      ∧ (5 = 2 ∨ 5 = 3 ∨ 5 = 4 → frDest w8973225 = 0) ∧ (State.inaState w5025990 = inaNeighbour) ∧
      (State.allMeasured w5025990 = false) ∧ ((List.any w5025990.fab.records fun (q : List Byte) => recSerial q ==
      recSerial (padTo 60 (frPayload w8973225))) = false)) ∧
    ((State.portSends w5025990 1 = true) ∧ (frKind w1202224 = frIna) ∧ (beAt 0 1 (frPayload w1202224) = 6) ∧ (12 ≤
      List.length (frPayload w1202224)) ∧ (beAt 2 2 (frPayload w1202224) = w5025990.fab.ina) ∧ ((beAt 2 2
      (frPayload w1202224) + 65536 - w5025990.fab.top) % 65536 < 32768) ∧ (beAt 8 4 (frPayload w1202224) ≠ State.rd
      w5025990 SYS_SERIAL_LO) ∧ (State.loaded w5025990 = false ∨ beAt 7 1 (frPayload w1202224) = 0 ∨ beAt 1 1
      (frPayload w1202224) = State.rd w5025990 KEY_VEH_ID0_DOMAIN) ∧ (State.linkUp w5025990 (otherPort 1) = false)
      ∧ (6 = 2 ∨ 6 = 3 ∨ 6 = 4 → frDest w1202224 = 0) ∧ (State.inaState w5025990 = inaNeighbour) ∧
      (State.allMeasured w5025990 = false) ∧ ((List.any w5025990.fab.blazes fun (q : List Byte) => blzSerial q ==
      blzSerial (frPayload w1202224) && blzPart q == blzPart (frPayload w1202224)) = false)) := by
  refine ⟨⟨?_, ?_, ?_, ?_, ?_, ?_, ?_, ?_, ?_, ?_, ?_, ?_, ?_, ?_⟩, ⟨?_, ?_, ?_, ?_, ?_, ?_, ?_, ?_, ?_, ?_, ?_,
    ?_, ?_⟩, ⟨?_, ?_, ?_, ?_, ?_, ?_, ?_, ?_, ?_, ?_, ?_, ?_, ?_⟩⟩ <;>
    decide +kernel

theorem witness_TrainFabric_4 :
    ((State.portSends w5025990 1 = true) ∧ (frKind w8810791 = frIna) ∧ (beAt 0 1 (frPayload w8810791) = 7) ∧ (12 ≤
      List.length (frPayload w8810791)) ∧ (beAt 2 2 (frPayload w8810791) = w5025990.fab.ina) ∧ ((beAt 2 2
      (frPayload w8810791) + 65536 - w5025990.fab.top) % 65536 < 32768) ∧ (beAt 8 4 (frPayload w8810791) ≠ State.rd
      w5025990 SYS_SERIAL_LO) ∧ (State.loaded w5025990 = false ∨ beAt 7 1 (frPayload w8810791) = 0 ∨ beAt 1 1
      (frPayload w8810791) = State.rd w5025990 KEY_VEH_ID0_DOMAIN) ∧ (State.linkUp w5025990 (otherPort 1) = false)
      ∧ (7 = 2 ∨ 7 = 3 ∨ 7 = 4 → frDest w8810791 = 0) ∧ (State.inaState w5025990 = inaNeighbour) ∧
      (State.allMeasured w5025990 = false) ∧ (w5025990.fab.built = none) ∧ ((beAt 8 4 (frPayload w8810791), beAt 12
      4 (frPayload w8810791), beAt 16 1 (frPayload w8810791)) ∉ w5025990.fab.digests)) ∧
    ((State.portSends w8689131 1 = true) ∧ (frKind w8810791 = frIna) ∧ (beAt 0 1 (frPayload w8810791) = 7) ∧ (12 ≤
      List.length (frPayload w8810791)) ∧ (beAt 2 2 (frPayload w8810791) = w8689131.fab.ina) ∧ ((beAt 2 2
      (frPayload w8810791) + 65536 - w8689131.fab.top) % 65536 < 32768) ∧ (beAt 8 4 (frPayload w8810791) ≠ State.rd
      w8689131 SYS_SERIAL_LO) ∧ (State.loaded w8689131 = false ∨ beAt 7 1 (frPayload w8810791) = 0 ∨ beAt 1 1
      (frPayload w8810791) = State.rd w8689131 KEY_VEH_ID0_DOMAIN) ∧ (State.linkUp w8689131 (otherPort 1) = false)
      ∧ (7 = 2 ∨ 7 = 3 ∨ 7 = 4 → frDest w8810791 = 0) ∧ (w8689131.fab.built = some trn) ∧ (beAt 12 4 (frPayload
      w8810791) ≠ trn.crc)) ∧
    ((State.portSends w8689131 1 = true) ∧ (frKind w6633854 = frIna) ∧ (beAt 0 1 (frPayload w6633854) = 8) ∧ (12 ≤
      List.length (frPayload w6633854)) ∧ (beAt 2 2 (frPayload w6633854) = w8689131.fab.ina) ∧ ((beAt 2 2
      (frPayload w6633854) + 65536 - w8689131.fab.top) % 65536 < 32768) ∧ (beAt 8 4 (frPayload w6633854) ≠ State.rd
      w8689131 SYS_SERIAL_LO) ∧ (State.loaded w8689131 = false ∨ beAt 7 1 (frPayload w6633854) = 0 ∨ beAt 1 1
      (frPayload w6633854) = State.rd w8689131 KEY_VEH_ID0_DOMAIN) ∧ (State.linkUp w8689131 (otherPort 1) = false)
      ∧ (8 = 2 ∨ 8 = 3 ∨ 8 = 4 → frDest w6633854 = 0) ∧ (w8689131.fab.built = some trn) ∧ (beAt 12 4 (frPayload
      w6633854) ≠ trn.crc)) := by
  refine ⟨⟨?_, ?_, ?_, ?_, ?_, ?_, ?_, ?_, ?_, ?_, ?_, ?_, ?_, ?_⟩, ?_, ?_⟩ <;>
    decide +kernel

theorem witness_TrainFabric_5 :
    ((State.portSends w8600762 1 = true) ∧ (frKind w5605493 = frIna) ∧ (beAt 0 1 (frPayload w5605493) = 8) ∧ (12 ≤
      List.length (frPayload w5605493)) ∧ (beAt 2 2 (frPayload w5605493) = w8600762.fab.ina) ∧ ((beAt 2 2
      (frPayload w5605493) + 65536 - w8600762.fab.top) % 65536 < 32768) ∧ (beAt 8 4 (frPayload w5605493) ≠ State.rd
      w8600762 SYS_SERIAL_LO) ∧ (State.loaded w8600762 = false ∨ beAt 7 1 (frPayload w5605493) = 0 ∨ beAt 1 1
      (frPayload w5605493) = State.rd w8600762 KEY_VEH_ID0_DOMAIN) ∧ (State.linkUp w8600762 (otherPort 1) = false)
      ∧ (8 = 2 ∨ 8 = 3 ∨ 8 = 4 → frDest w5605493 = 0) ∧ (w8600762.fab.built = some pv) ∧ (beAt 12 4 (frPayload
      w5605493) = pv.crc) ∧ (State.inaState w8600762 = inaCommit)) ∧
    ((State.inaState w9049426 = inaNeighbour) ∧ (w9049426.fab.completing = false) ∧ (w9049426.fab.tS + 30000000 ≤
      90000000) ∧ (List.find? (fun (q : List Byte) => recSerial q == State.serial w9049426) w9049426.fab.records =
      none) ∧ (chainOf (w9049426.fab.records ++ [State.ownRecord (State.begin w9049426 90000000)]) (State.ownRecord
      (State.begin w9049426 90000000)) = none)) ∧
    ((State.inaState w8689131 ∈ [inaNeighbour, inaRecords, inaDigest, inaCommit]) ∧ (State.committer w8689131 =
      true) ∧ (w8689131.fab.tS + 155000000 ≤ 900000000)) ∧
    ((State.inaState w5937797 ∈ [inaNeighbour, inaRecords, inaDigest, inaCommit]) ∧ (State.committer w5937797 =
      false) ∧ (w5937797.fab.tS + 230000000 ≤ 900000000)) ∧
    ((State.inaState w603619 = inaEffect) ∧ (w603619.fab.effect = some 8) ∧ (w603619.fab.built = some trn) ∧ (8 ≤
      1000000) ∧ (1000000 % State.tcNs w603619 = 0) ∧ (w603619.fab.heldTrigger = none) ∧ (List.length trn.nodes <
      256)) := by
  refine ⟨⟨?_, ?_, ?_, ?_, ?_, ?_, ?_, ?_, ?_, ?_, ?_, ?_, ?_⟩, ?_, ?_, ?_, ?_⟩ <;>
    decide +kernel

end W10

namespace W11

abbrev routed : State := r0
def wnd (w : Nat) (res : Nat) (s : State) : State := ((((s.wr (RWY_Ww_CFG_EN w) 1).wr (RWY_Ww_STAT_RESOLVED w) res).wr (RWY_Ww_STAT_NODE w) (5*res)).wr (RWY_Ww_TGT_APER w) 2).wr (RWY_Ww_TGT_CAR w) 9
def rw (f : Rootway → Rootway) (s : State) : State := {s with rwy := f s.rwy}
def op (h : Option Nat) (k : Nat) : RwOp := ⟨h, 1, k, 3, 0, 0x100, 7, 2, none, 5, 44, 0, 4000, false⟩
def po : RwPost := ⟨1, 0x208, 2, 5, 45, 4000⟩
def msg (k size status off tag : Nat) (d : Option Nat) := rwMessage k size 0 1 status off tag d
def a0 : BitVec 36 := 0x44000108
def B := wnd 1 1 routed
def posts (n : Nat) : List RwPost := List.replicate n po
def recOf (car : Nat) : List Byte := [0,0,0,0,0,7, BitVec.ofNat 8 car, 1] ++ beBytes 4 (100 + car) ++ [0,0,0,0] ++ List.replicate 12 0 ++ beBytes 4 (99+car) ++ beBytes 4 (99+car) ++ beBytes 4 (101+car)++ beBytes 4 (101+car) ++ beBytes 2 50 ++ beBytes 2 50 ++ beBytes 2 50 ++ beBytes 2 50 ++ beBytes 4 0 ++ [0,0,0,0]
def nd (car : Nat) : TNode := ⟨recOf car, car, true⟩
def trn : Train := ⟨[nd 1, nd 2, nd 3], [101,102,103], false, some 1, [⟨7, some 0, 0, []⟩], [(0,1)], 5⟩
def ap (s : State) : State := (((((({s with fab := {s.fab with table := some trn}}.wr (RWY_Aa_BASE_BASE 1) 0x801000).wr (RWY_Aa_CFG_SIZE 1) 12).wr (RWY_Aa_CFG_EN 1) 1).wr (RWY_Aa_CFG_RD 1) 1).wr (RWY_Aa_CFG_WR 1) 1).wr (RWY_Aa_CFG_LK 1) 1).wr CNP_NODE_ID 2 |>.wr (RWY_Aa_DOOR 1) 0x7777 |>.putBytes 0x801000100 [9,8,7,6,5,4,3,2]
def rq (k : Nat) (off : Nat := 0x100) (fn : Nat := 0) := rwMessage k 3 fn 1 0 off 77 (some 0xF123456789ABCDEF)
def cfg : BitVec 32 := BitVec.ofNat 32 (1 + 2 + 8 + 16 + 12*64)
def L (f : Rootway → Rootway) := rw f (ap routed)
def lk (n : Nat) := L fun r => {r with locks := [(1,⟨n,8000⟩)], hold := true}
def w1459236 : RwOp := (op none 7)
def w1598763 : State := (wnd 1 0 routed)
def w4938095 : State := (rw (fun r => {r with posted := posts 128}) B)
def w4024411 : State := (rw (fun r => {r with ops := [op (some 3) 1]}) B)
def w473565 : List Byte := (msg 8 3 0 0 44 (some 0xAABBCCDDEE))
def w4041126 : RwOp := (op (some 3) 1)
def w8746398 : State := (rw (fun r => {r with ops := [op (some 3) 6], hold := true}) B)
def w928860 : RwOp := (op (some 3) 6)
def w2835423 : State := (rw (fun r => {r with ops := [op (some 3) 3], hold := true}) B)
def w5944620 : RwOp := (op (some 3) 3)
def w2153443 : State := (rw (fun r => {r with ops := [op (some 3) 4], held := [⟨3,1,5,2,0,4000⟩]}) B)
def w7257466 : RwOp := (op (some 3) 4)
def w172896 : List Byte := (msg 8 3 3 0 44 none)
def w7587997 : State := (rw (fun r => {r with ops := [op (some 3) 3], hold := true, locks := [(1,⟨7,3⟩)]}) B)
def w9108498 : List Byte := (msg 8 3 12 0 44 none)
def w4964379 : State := (rw (fun r => {r with ops := [op none 7]}) B)
def w2504482 : State := (rw (fun r => {r with posted := [po]}) B)
def w2679199 : List Byte := (msg 9 3 0 0 45 none)
def w3087333 : List Byte := (msg 9 3 3 0 45 none)
def w6351011 : State := (rw (fun r => {r with posted := [po], fences := [⟨3,1,[45]⟩], fails := [(1,4)]}) B)
def w1981127 : State := (rw (fun r => {r with fails := [(1,4)]}) B |>.wr (RWY_Ww_CFG_DBPOLL 1) 1)
def w7809602 : State := (rw (fun r => {r with resetting := true}) B)
def w4444707 : State := ((ap routed).wr (RWY_Aa_BASE_BASE 1) 0x7FFFFF)
def w4602139 : State := (ap routed |>.wr (RWY_Aa_CFG_RD 1) 0)
def w8435212 : List Byte := (rq 1)
def w2509940 : State := (ap routed)
def w9224840 : List Byte := (rq 2 0xFF9)
def w326902 : State := (ap routed |>.wr (RWY_Aa_CFG_EN 1) 0)
def w8949248 : List Byte := (rq 3)
def w4998329 : List Byte := (rq 4)
def w5509533 : List Byte := (rq 6)
def w637080 : List Byte := (rq 7)
def w3585800 : List Byte := (rq 2)
def w6736462 : State := (lk 3)
def w951877 : List Byte := (rq 6 0x100 0)
def w899831 : State := (lk 1)
def w2332628 : State := (rw (fun r => {r with stall := List.replicate 16 ⟨3,0,rq 1⟩}) (lk 1))
def w1081546 : State := (L fun r => {r with hold := true})
def w8429891 : List Byte := (rq 5)
def w2442160 : State := (B.wr (STD_Sk_STAT_STATE 3) 3)
def w7969530 : State := ({ap routed with pending := [.rwLockrd 1 2 (rq 3) 9000]})

theorem witness_RootwayRequests :
    ((State.hartRuns w2442160 3 = false)) ∧
    ((State.hartRuns B 3 = true) ∧ (¬(1073741824 ≤ BitVec.toNat (1140850947 : BitVec 36) ∧ BitVec.toNat (1140850947
      : BitVec 36) < 2147483648 ∧ BitVec.toNat (1140850947 : BitVec 36) % 2 ^ 3 = 0 ∧ State.rd B (RWY_Ww_CFG_EN
      (BitVec.toNat (1140850947 : BitVec 36) / 67108864 % 16)) = 1)) ∧ (State.rwWaits B 3 = false)) ∧
    ((State.hartRuns B 3 = true) ∧ (1073741824 ≤ BitVec.toNat a0) ∧ (BitVec.toNat a0 < 2147483648) ∧ (BitVec.toNat
      a0 % 2 ^ 1 = 0) ∧ (State.rd B (RWY_Ww_CFG_EN (BitVec.toNat a0 / 67108864 % 16)) = 1) ∧ (1 < 2)) ∧
    ((State.hartRuns B 3 = true) ∧ (1073741824 ≤ BitVec.toNat a0) ∧ (BitVec.toNat a0 < 2147483648) ∧ (BitVec.toNat
      a0 % 2 ^ 1 = 0) ∧ (State.rd B (RWY_Ww_CFG_EN (BitVec.toNat a0 / 67108864 % 16)) = 1) ∧ (State.rwWaits B 3 =
      false) ∧ (State.rwMaySend B = false) ∧ (State.rd B (RWY_Ww_STAT_RESOLVED (BitVec.toNat a0 / 67108864 % 16)) =
      1) ∧ (State.splitOpen B 3 (BitVec.toNat a0) (2 ^ 1) = true) ∧ (List.length B.rwy.posted < 128)) ∧
    ((State.hartRuns B 3 = true) ∧ (1073741824 ≤ BitVec.toNat a0) ∧ (BitVec.toNat a0 < 2147483648) ∧ (BitVec.toNat
      a0 % 2 ^ 3 = 0) ∧ (State.rd B (RWY_Ww_CFG_EN (BitVec.toNat a0 / 67108864 % 16)) = 1) ∧ (State.rwWaits B 3 =
      false) ∧ (State.rwMaySend B = false) ∧ (State.rd B (RWY_Ww_STAT_RESOLVED (BitVec.toNat a0 / 67108864 % 16)) =
      1) ∧ (2 ≤ 3) ∧ (List.find? (fun (x : RwHeld) => x.hart == 3) B.rwy.held = none)) ∧
    ((State.hartRuns B 3 = true) ∧ (1073741824 ≤ BitVec.toNat a0) ∧ (BitVec.toNat a0 < 2147483648) ∧ (BitVec.toNat
      a0 % 2 ^ 3 = 0) ∧ (State.rd B (RWY_Ww_CFG_EN (BitVec.toNat a0 / 67108864 % 16)) = 1) ∧ (State.rwWaits B 3 =
      false) ∧ (State.rwMaySend B = false) ∧ (State.rd B (RWY_Ww_STAT_RESOLVED (BitVec.toNat a0 / 67108864 % 16)) =
      1) ∧ (2 ≤ 3) ∧ (State.splitOpen B 3 (BitVec.toNat a0) (2 ^ 3) = true)) := by
  refine ⟨?_, ?_, ?_, ?_, ?_, ?_⟩ <;>
    decide +kernel

theorem witness_RootwayRequests_2 :
    ((State.hartRuns w1598763 3 = true) ∧ (1073741824 ≤ BitVec.toNat a0) ∧ (BitVec.toNat a0 < 2147483648) ∧
      (BitVec.toNat a0 % 2 ^ 3 = 0) ∧ (State.rd w1598763 (RWY_Ww_CFG_EN (BitVec.toNat a0 / 67108864 % 16)) = 1) ∧
      (State.rwWaits w1598763 3 = false) ∧ (State.splitOpen w1598763 3 (BitVec.toNat a0) (2 ^ 3) = true) ∧
      (State.rd w1598763 (RWY_PWEi_INFO_VALID 0) = 0) ∧ (∀ j < 0, State.rd w1598763 (RWY_PWEi_INFO_VALID j) = 1) ∧
      (State.rd w1598763 (RWY_Ww_STAT_RESOLVED (BitVec.toNat a0 / 67108864 % 16)) = 0)) ∧
    ((State.hartRuns w4938095 3 = true) ∧ (1073741824 ≤ BitVec.toNat a0) ∧ (BitVec.toNat a0 < 2147483648) ∧
      (BitVec.toNat a0 % 2 ^ 3 = 0) ∧ (State.rd w4938095 (RWY_Ww_CFG_EN (BitVec.toNat a0 / 67108864 % 16)) = 1) ∧
      (State.rwWaits w4938095 3 = false) ∧ (State.splitOpen w4938095 3 (BitVec.toNat a0) (2 ^ 3) = true) ∧
      (State.rd w4938095 (RWY_PWEi_INFO_VALID 0) = 0) ∧ (∀ j < 0, State.rd w4938095 (RWY_PWEi_INFO_VALID j) = 1) ∧
      (State.rd w4938095 (RWY_Ww_STAT_RESOLVED (BitVec.toNat a0 / 67108864 % 16)) = 1) ∧ (128 ≤ List.length
      w4938095.rwy.posted)) ∧
    ((List.find? (fun (o : RwOp) => o.tag == rmTag w473565 && o.node == 5) w8746398.rwy.ops = some w928860) ∧ (rmOp
      w473565 = 8) ∧ (w928860.window < 16) ∧ (w928860.hart = some 3) ∧ (w928860.op = 1 ∨ w928860.op = 6) ∧
      (rmStatus w473565 = 0)) ∧
    ((List.find? (fun (o : RwOp) => o.tag == rmTag w473565 && o.node == 5) w2835423.rwy.ops = some w5944620) ∧
      (rmOp w473565 = 8) ∧ (w5944620.window < 16) ∧ (w5944620.hart = some 3) ∧ (w5944620.op = 3) ∧ (rmStatus
      w473565 = 0)) ∧
    ((List.find? (fun (o : RwOp) => o.tag == rmTag w473565 && o.node == 5) w2153443.rwy.ops = some w7257466) ∧
      (rmOp w473565 = 8) ∧ (w7257466.window < 16) ∧ (w7257466.hart = some 3) ∧ (w7257466.op = 4) ∧ (rmStatus
      w473565 = 0 ∨ rmStatus w473565 = 9)) := by
  refine ⟨?_, ?_, ?_, ?_, ?_⟩ <;>
    decide +kernel

theorem witness_RootwayRequests_3 :
    ((List.find? (fun (o : RwOp) => o.tag == rmTag w172896 && o.node == 5) w4024411.rwy.ops = some w4041126) ∧
      (rmOp w172896 = 8) ∧ (w4041126.window < 16) ∧ (w4041126.hart = some 3) ∧ (w4041126.op = 1) ∧ (w4041126.off <
      2 ^ 26) ∧ (rmStatus w172896 ≠ 0) ∧ (rmStatus w172896 < 16)) ∧
    ((List.find? (fun (o : RwOp) => o.tag == rmTag w9108498 && o.node == 5) w7587997.rwy.ops = some w5944620) ∧
      (rmOp w9108498 = 8) ∧ (w5944620.window < 16) ∧ (w5944620.hart = some 3) ∧ (w5944620.op = 3 ∨ w5944620.op = 6)
      ∧ (rmStatus w9108498 = 12) ∧ (w7587997.rwy.locks ≠ [])) ∧
    ((List.find? (fun (o : RwOp) => o.tag == rmTag w473565 && o.node == 5) w4964379.rwy.ops = some w1459236) ∧
      (rmOp w473565 = 8) ∧ (w1459236.window < 16) ∧ (w1459236.hart = none) ∧ (rmStatus w473565 = 0)) ∧
    ((List.find? (fun (o : RwOp) => o.tag == rmTag w172896 && o.node == 5) w4964379.rwy.ops = some w1459236) ∧
      (rmOp w172896 = 8) ∧ (w1459236.window < 16) ∧ (w1459236.hart = none) ∧ (rmStatus w172896 ≠ 0) ∧ (w1459236.op
      = 7)) ∧
    ((List.find? (fun (p : RwPost) => p.tag == rmTag w2679199 && p.node == 5) w2504482.rwy.posted = some po) ∧
      (rmOp w2679199 = 9) ∧ (w2504482.rwy.fences = []) ∧ (rmStatus w2679199 = 0)) ∧
    ((List.find? (fun (p : RwPost) => p.tag == rmTag w3087333 && p.node == 5) w2504482.rwy.posted = some po) ∧
      (rmOp w3087333 = 9) ∧ (w2504482.rwy.fences = []) ∧ (rmStatus w3087333 ≠ 0) ∧ (rmStatus w3087333 < 16) ∧
      (po.window < 16) ∧ (po.off < 2 ^ 26) ∧ (po.size < 4) ∧ (State.rd w2504482 (RWY_PWEi_INFO_VALID 0) = 0) ∧ (∀ j
      < 0, State.rd w2504482 (RWY_PWEi_INFO_VALID j) = 1)) ∧
    ((List.find? (fun (p : RwPost) => p.tag == rmTag w2679199 && p.node == 5) w6351011.rwy.posted = some po) ∧
      (rmOp w2679199 = 9) ∧ (rmStatus w2679199 = 0) ∧ (State.hit (State.begin w6351011 9000) (RWY_Ww_FENCE_STATUS
      1) = 0) ∧ (w6351011.rwy.fences = [{ hart := 3, window := 1, tags := [po.tag] }])) := by
  refine ⟨?_, ?_, ?_, ?_, ?_, ?_, ?_⟩ <;>
    decide +kernel

theorem witness_RootwayRequests_4 :
    ((w4024411.rwy.ops = [w4041126]) ∧ (w4024411.rwy.posted = []) ∧ (w4041126.hart = some 3) ∧ (w4041126.op = 1) ∧
      (w4041126.window < 16) ∧ (w4041126.off < 2 ^ 26) ∧ (w4041126.at_ + 2000000 ≤ 2004000)) ∧
    ((w2504482.rwy.ops = []) ∧ (w2504482.rwy.posted = [po]) ∧ (w2504482.rwy.fences = []) ∧ (po.window < 16) ∧
      (po.off < 2 ^ 26) ∧ (po.size < 4) ∧ (State.rd w2504482 (RWY_PWEi_INFO_VALID 0) = 0) ∧ (∀ j < 0, State.rd
      w2504482 (RWY_PWEi_INFO_VALID j) = 1) ∧ (po.at_ + 2000000 ≤ 2004000)) ∧
    ((State.hartRuns B 3 = true) ∧ (State.rwWaits B 3 = false) ∧ (State.hit (State.begin B 9000)
      (RWY_Ww_FENCE_STATUS 1) = 0) ∧ (∀ q ∈ B.rwy.posted, q.window ≠ 1)) ∧
    ((State.hartRuns w4938095 3 = true) ∧ (State.rwWaits w4938095 3 = false) ∧ (po ∈ w4938095.rwy.posted) ∧
      (po.window = 1)) ∧
    ((State.rwMaySend w1981127 = false) ∧ (State.rd w1981127 (RWY_Ww_CFG_EN 1) = 1) ∧ (State.rd w1981127
      (RWY_Ww_CFG_DBPOLL 1) = 1) ∧ (State.rd w1981127 (RWY_Ww_STAT_RESOLVED 1) = 1) ∧ (∀ (j : Fin 16), j ≠ (1 : Fin
      16) → State.rd w1981127 (RWY_Ww_CFG_EN (↑j : ℕ)) = 0 ∨ State.rd w1981127 (RWY_Ww_CFG_DBPOLL (↑j : ℕ)) = 0)) ∧
    ((w4024411.rwy.ops = [w4041126]) ∧ (w4041126.hart = some 3) ∧ (w4041126.op = 1) ∧ (w4024411.rwy.posted = []) ∧
      (w4024411.rwy.stall = []) ∧ (w4024411.pw.phase = RunPhase.running)) ∧
    ((w7809602.rwy.resetting = true) ∧ (w7809602.rwy.out = [])) := by
  refine ⟨?_, ?_, ?_, ?_, ?_, ?_, ?_⟩ <;>
    decide +kernel

theorem witness_RootwayApertures :
    ((bitAt (BitVec.toNat cfg) 0 = true) ∧ (aperOk (State.aperBase w4444707 1) (bitsAt (BitVec.toNat cfg) 6 5) =
      false) ∧ (w4444707.pw.phase = RunPhase.running)) ∧
    ((bitAt (BitVec.toNat cfg) 0 = true) ∧ (aperOk (State.aperBase w326902 1) (bitsAt (BitVec.toNat cfg) 6 5) =
      true) ∧ (w326902.pw.phase = RunPhase.running)) ∧
    ((State.rwMaySend w4602139 = false) ∧ (State.aperJudge (State.begin w4602139 9000) 3 w8435212 ≠ 0) ∧ (∀ q ∈
      w4602139.rwy.ops, q.retry = false) ∧ (State.lockOf w4602139 (rmAper w8435212) = none → ∀ r ∈
      w4602139.rwy.stall, rmAper r.msg ≠ rmAper w8435212) ∧ (rmOp w8435212 = 1) ∧ (w4602139.rwy.resetting = false)
      ∧ (w4602139.pw.phase = RunPhase.running) ∧ (State.rd w4602139 PWR_STAT_STATE ≠ 2)) ∧
    ((State.rwMaySend w2509940 = false) ∧ (State.aperJudge (State.begin w2509940 9000) 3 w9224840 ≠ 0) ∧ (∀ q ∈
      w2509940.rwy.ops, q.retry = false) ∧ (State.lockOf w2509940 (rmAper w9224840) = none → ∀ r ∈
      w2509940.rwy.stall, rmAper r.msg ≠ rmAper w9224840) ∧ (rmOp w9224840 = 2) ∧ (w2509940.rwy.resetting = false)
      ∧ (w2509940.pw.phase = RunPhase.running) ∧ (State.rd w2509940 PWR_STAT_STATE ≠ 2)) ∧
    ((State.rwMaySend w326902 = false) ∧ (State.aperJudge (State.begin w326902 9000) 3 w8949248 ≠ 0) ∧ (∀ q ∈
      w326902.rwy.ops, q.retry = false) ∧ (State.lockOf w326902 (rmAper w8949248) = none → ∀ r ∈ w326902.rwy.stall,
      rmAper r.msg ≠ rmAper w8949248) ∧ (rmOp w8949248 = 3) ∧ (w326902.rwy.resetting = false) ∧ (w326902.pw.phase =
      RunPhase.running) ∧ (State.rd w326902 PWR_STAT_STATE ≠ 2)) ∧
    ((State.rwMaySend w326902 = false) ∧ (State.aperJudge (State.begin w326902 9000) 3 w4998329 ≠ 0) ∧ (∀ q ∈
      w326902.rwy.ops, q.retry = false) ∧ (State.lockOf w326902 (rmAper w4998329) = none → ∀ r ∈ w326902.rwy.stall,
      rmAper r.msg ≠ rmAper w4998329) ∧ (rmOp w4998329 = 4) ∧ (w326902.rwy.resetting = false) ∧ (w326902.pw.phase =
      RunPhase.running) ∧ (State.rd w326902 PWR_STAT_STATE ≠ 2)) := by
  refine ⟨?_, ?_, ?_, ?_, ?_, ?_⟩ <;>
    decide +kernel

theorem witness_RootwayApertures_2 :
    ((State.rwMaySend w326902 = false) ∧ (State.aperJudge (State.begin w326902 9000) 3 w5509533 ≠ 0) ∧ (∀ q ∈
      w326902.rwy.ops, q.retry = false) ∧ (State.lockOf w326902 (rmAper w5509533) = none → ∀ r ∈ w326902.rwy.stall,
      rmAper r.msg ≠ rmAper w5509533) ∧ (rmOp w5509533 = 6) ∧ (w326902.rwy.resetting = false) ∧ (w326902.pw.phase =
      RunPhase.running) ∧ (State.rd w326902 PWR_STAT_STATE ≠ 2)) ∧
    ((State.rwMaySend w326902 = false) ∧ (State.aperJudge (State.begin w326902 9000) 3 w637080 ≠ 0) ∧ (∀ q ∈
      w326902.rwy.ops, q.retry = false) ∧ (State.lockOf w326902 (rmAper w637080) = none → ∀ r ∈ w326902.rwy.stall,
      rmAper r.msg ≠ rmAper w637080) ∧ (rmOp w637080 = 7) ∧ (w326902.rwy.resetting = false) ∧ (w326902.pw.phase =
      RunPhase.running) ∧ (State.rd w326902 PWR_STAT_STATE ≠ 2)) ∧
    ((State.aperJudge (State.begin w2509940 9000) 3 w637080 = 0) ∧ (∀ q ∈ w2509940.rwy.ops, q.retry = false) ∧
      (State.lockOf w2509940 (rmAper w637080) = none → ∀ r ∈ w2509940.rwy.stall, rmAper r.msg ≠ rmAper w637080) ∧
      (rmOp w637080 = 7) ∧ (w2509940.rwy.resetting = false) ∧ (w2509940.pw.phase = RunPhase.running) ∧ (State.rd
      w2509940 PWR_STAT_STATE ≠ 2) ∧ (State.rwMaySend w2509940 = false)) ∧
    ((State.aperJudge (State.begin w2509940 9000) 3 w3585800 = 0) ∧ (∀ q ∈ w2509940.rwy.ops, q.retry = false) ∧
      (State.lockOf w2509940 (rmAper w3585800) = none → ∀ r ∈ w2509940.rwy.stall, rmAper r.msg ≠ rmAper w3585800) ∧
      (rmOp w3585800 = 2) ∧ (w2509940.rwy.resetting = false) ∧ (w2509940.pw.phase = RunPhase.running) ∧ (State.rd
      w2509940 PWR_STAT_STATE ≠ 2) ∧ (State.rwMaySend w2509940 = false) ∧ (NoSoft w2509940) ∧ (State.inRegion
      w2509940 (State.aperBase w2509940 (rmAper w3585800) + rmOff w3585800) (2 ^ rmSize w3585800) = false) ∧
      (RangeSound w2509940 ((State.aperBase w2509940 (rmAper w3585800) + rmOff w3585800) / 64 * 64) 128) ∧
      (inStaging (State.aperBase w2509940 (rmAper w3585800) + rmOff w3585800) (2 ^ rmSize w3585800) = false)) := by
  refine ⟨?_, ?_, ?_, ⟨?_, ?_, ?_, ?_, ?_, ?_, ?_, ?_, ?_, ?_, ?_, ?_⟩⟩ <;>
    first
      | decide +kernel
      | (simp only [LeGoes, BitOk, WordOk, InstOk, DataSound, FetchSound, EngineSound, RangeSound, Recording, NoSoft, not_and]; decide +kernel)

theorem witness_RootwayApertures_3 :
    ((State.aperJudge (State.begin w2509940 9000) 3 w8435212 = 0) ∧ (∀ q ∈ w2509940.rwy.ops, q.retry = false) ∧
      (State.lockOf w2509940 (rmAper w8435212) = none → ∀ r ∈ w2509940.rwy.stall, rmAper r.msg ≠ rmAper w8435212) ∧
      (State.lockOf w2509940 (rmAper w8435212) = none ∨ State.lockOf w2509940 (rmAper w8435212) = some
      { node := 3, at_ := 8000 }) ∧ (RangeSound w2509940 (State.aperBase w2509940 (rmAper w8435212) + rmOff
      w8435212) (2 ^ rmSize w8435212)) ∧ (rmOp w8435212 = 1) ∧ (w2509940.rwy.resetting = false) ∧
      (w2509940.pw.phase = RunPhase.running) ∧ (State.rd w2509940 PWR_STAT_STATE ≠ 2) ∧ (State.rwMaySend w2509940 =
      false)) ∧
    ((State.aperJudge (State.begin w2509940 9000) 3 w8949248 = 0) ∧ (∀ q ∈ w2509940.rwy.ops, q.retry = false) ∧
      (State.lockOf w2509940 (rmAper w8949248) = none → ∀ r ∈ w2509940.rwy.stall, rmAper r.msg ≠ rmAper w8949248) ∧
      (State.lockOf w2509940 (rmAper w8949248) = none ∨ State.lockOf w2509940 (rmAper w8949248) = some
      { node := 3, at_ := 8000 }) ∧ (RangeSound w2509940 (State.aperBase w2509940 (rmAper w8949248) + rmOff
      w8949248) (2 ^ rmSize w8949248)) ∧ (w2509940.rwy.hold = false ∨ 3 ≤ State.nodeId w2509940) ∧ (rmOp w8949248 =
      3) ∧ (w2509940.rwy.resetting = false) ∧ (w2509940.pw.phase = RunPhase.running) ∧ (State.rd w2509940
      PWR_STAT_STATE ≠ 2) ∧ (State.rwMaySend w2509940 = false) ∧ (State.lockOf w2509940 (rmAper w8949248) ≠ none ∨
      State.lowerComes (State.begin w2509940 9000) (rmAper w8949248) 3 = false)) ∧
    ((State.aperJudge (State.begin w2509940 9000) 3 w951877 = 0) ∧ (∀ q ∈ w2509940.rwy.ops, q.retry = false) ∧
      (State.lockOf w2509940 (rmAper w951877) = none → ∀ r ∈ w2509940.rwy.stall, rmAper r.msg ≠ rmAper w951877) ∧
      (State.lockOf w2509940 (rmAper w951877) = none ∨ State.lockOf w2509940 (rmAper w951877) = some
      { node := 3, at_ := 8000 }) ∧ (RangeSound w2509940 (State.aperBase w2509940 (rmAper w951877) + rmOff w951877)
      (2 ^ rmSize w951877)) ∧ (w2509940.rwy.hold = false ∨ 3 ≤ State.nodeId w2509940) ∧ (rmOp w951877 = 6) ∧
      (w2509940.rwy.resetting = false) ∧ (w2509940.pw.phase = RunPhase.running) ∧ (State.rd w2509940 PWR_STAT_STATE
      ≠ 2) ∧ (State.rwMaySend w2509940 = false) ∧ (leNat (State.bytes w2509940 (State.aperBase w2509940 (rmAper
      w951877) + rmOff w951877) (2 ^ rmSize w951877)) = 144964032628459529) ∧ (NoSoft w2509940) ∧ (State.inRegion
      w2509940 (State.aperBase w2509940 (rmAper w951877) + rmOff w951877) (2 ^ rmSize w951877) = false) ∧
      (RangeSound w2509940 ((State.aperBase w2509940 (rmAper w951877) + rmOff w951877) / 64 * 64) 128) ∧ (inStaging
      (State.aperBase w2509940 (rmAper w951877) + rmOff w951877) (2 ^ rmSize w951877) = false) ∧ (rmFn w951877 ∈
      [0, 1, 4, 8, 12, 16, 20, 24, 28])) := by
  refine ⟨⟨?_, ?_, ?_, ?_, ?_, ?_, ?_, ?_, ?_, ?_⟩, ⟨?_, ?_, ?_, ?_, ?_, ?_, ?_, ?_, ?_, ?_, ?_, ?_⟩, ⟨?_, ?_, ?_,
    ?_, ?_, ?_, ?_, ?_, ?_, ?_, ?_, ?_, ?_, ?_, ?_, ?_, ?_⟩⟩ <;>
    first
      | decide +kernel
      | (simp only [LeGoes, BitOk, WordOk, InstOk, DataSound, FetchSound, EngineSound, RangeSound, Recording, NoSoft, not_and]; decide +kernel)

theorem witness_RootwayApertures_4 :
    ((State.aperJudge (State.begin w899831 9000) 3 w8435212 = 0) ∧ (∀ q ∈ w899831.rwy.ops, q.retry = false) ∧
      (State.lockOf w899831 (rmAper w8435212) = none → ∀ r ∈ w899831.rwy.stall, rmAper r.msg ≠ rmAper w8435212) ∧
      (State.lockOf w899831 (rmAper w8435212) = some { node := 1, at_ := 8000 }) ∧ (1 ≠ 3) ∧ (rmOp w8435212 = 1) ∧
      (w899831.rwy.resetting = false) ∧ (w899831.pw.phase = RunPhase.running) ∧ (State.rd w899831 PWR_STAT_STATE ≠
      2) ∧ (State.rwMaySend w899831 = false) ∧ (List.length w899831.rwy.stall < 16)) ∧
    ((State.aperJudge (State.begin w7969530 9000) 3 w8949248 = 0) ∧ (∀ q ∈ w7969530.rwy.ops, q.retry = false) ∧
      (State.lockOf w7969530 (rmAper w8949248) = none → ∀ r ∈ w7969530.rwy.stall, rmAper r.msg ≠ rmAper w8949248) ∧
      (State.lockOf w7969530 (rmAper w8949248) = none) ∧ (State.lowerComes (State.begin w7969530 9000) (rmAper
      w8949248) 3 = true) ∧ (rmOp w8949248 = 3) ∧ (w7969530.rwy.resetting = false) ∧ (w7969530.pw.phase =
      RunPhase.running) ∧ (State.rd w7969530 PWR_STAT_STATE ≠ 2) ∧ (State.rwMaySend w7969530 = false) ∧
      (w7969530.rwy.stall = [])) ∧
    ((State.aperJudge (State.begin w2332628 9000) 3 w8949248 = 0) ∧ (∀ q ∈ w2332628.rwy.ops, q.retry = false) ∧
      (State.lockOf w2332628 (rmAper w8949248) = none → ∀ r ∈ w2332628.rwy.stall, rmAper r.msg ≠ rmAper w8949248) ∧
      (State.lockOf w2332628 (rmAper w8949248) = some { node := 1, at_ := 8000 }) ∧ (1 ≠ 3) ∧ (rmOp w8949248 = 3) ∧
      (w2332628.rwy.resetting = false) ∧ (w2332628.pw.phase = RunPhase.running) ∧ (State.rd w2332628 PWR_STAT_STATE
      ≠ 2) ∧ (State.rwMaySend w2332628 = false) ∧ (16 ≤ List.length w2332628.rwy.stall)) ∧
    ((State.aperJudge (State.begin w1081546 9000) 3 w5509533 = 0) ∧ (∀ q ∈ w1081546.rwy.ops, q.retry = false) ∧
      (State.lockOf w1081546 (rmAper w5509533) = none → ∀ r ∈ w1081546.rwy.stall, rmAper r.msg ≠ rmAper w5509533) ∧
      (State.lockOf w1081546 (rmAper w5509533) = none) ∧ (w1081546.rwy.hold = true) ∧ (State.nodeId w1081546 < 3) ∧
      (rmOp w5509533 = 6) ∧ (w1081546.rwy.resetting = false) ∧ (w1081546.pw.phase = RunPhase.running) ∧ (State.rd
      w1081546 PWR_STAT_STATE ≠ 2) ∧ (State.rwMaySend w1081546 = false)) := by
  refine ⟨?_, ?_, ?_, ?_⟩ <;>
    decide +kernel

theorem witness_RootwayApertures_5 :
    ((State.aperJudge (State.begin w6736462 9000) 3 w4998329 = 0) ∧ (∀ q ∈ w6736462.rwy.ops, q.retry = false) ∧
      (State.lockOf w6736462 (rmAper w4998329) = none → ∀ r ∈ w6736462.rwy.stall, rmAper r.msg ≠ rmAper w4998329) ∧
      (rmOp w4998329 = 4) ∧ (w6736462.rwy.resetting = false) ∧ (w6736462.pw.phase = RunPhase.running) ∧ (State.rd
      w6736462 PWR_STAT_STATE ≠ 2) ∧ (State.rwMaySend w6736462 = false) ∧ (State.lockOf w6736462 (rmAper w4998329)
      = some { node := 3, at_ := 8000 }) ∧ (w6736462.rwy.stall = []) ∧ (NoSoft w6736462) ∧ (State.inRegion w6736462
      (State.aperBase w6736462 (rmAper w4998329) + rmOff w4998329) (2 ^ rmSize w4998329) = false) ∧ (RangeSound
      w6736462 ((State.aperBase w6736462 (rmAper w4998329) + rmOff w4998329) / 64 * 64) 128) ∧ (inStaging
      (State.aperBase w6736462 (rmAper w4998329) + rmOff w4998329) (2 ^ rmSize w4998329) = false)) ∧
    ((State.aperJudge (State.begin w899831 9000) 3 w4998329 = 0) ∧ (∀ q ∈ w899831.rwy.ops, q.retry = false) ∧
      (State.lockOf w899831 (rmAper w4998329) = none → ∀ r ∈ w899831.rwy.stall, rmAper r.msg ≠ rmAper w4998329) ∧
      (rmOp w4998329 = 4) ∧ (w899831.rwy.resetting = false) ∧ (w899831.pw.phase = RunPhase.running) ∧ (State.rd
      w899831 PWR_STAT_STATE ≠ 2) ∧ (State.rwMaySend w899831 = false) ∧ (State.lockOf w899831 (rmAper w4998329) =
      none ∨ State.lockOf w899831 (rmAper w4998329) = some { node := 1, at_ := 8000 }) ∧ (1 ≠ 3)) ∧
    ((∀ q ∈ w6736462.rwy.ops, q.retry = false) ∧ (rmOp w8429891 = 5) ∧ (w6736462.rwy.resetting = false) ∧
      (w6736462.pw.phase = RunPhase.running) ∧ (State.rd w6736462 PWR_STAT_STATE ≠ 2) ∧ (State.rwMaySend w6736462 =
      false) ∧ (State.lockOf w6736462 (rmAper w8429891) = some { node := 3, at_ := 8000 }) ∧ (w6736462.rwy.stall =
      [])) ∧
    ((∀ q ∈ w6736462.rwy.ops, q.retry = false) ∧ (State.lockOf w6736462 1 = some { node := 3, at_ := 8000 }) ∧
      (8000 + 100000 ≤ 108000) ∧ (w6736462.rwy.stall = [])) := by
  refine ⟨⟨?_, ?_, ?_, ?_, ?_, ?_, ?_, ?_, ?_, ?_, ?_, ?_, ?_, ?_⟩, ?_, ?_, ?_⟩ <;>
    first
      | decide +kernel
      | (simp only [LeGoes, BitOk, WordOk, InstOk, DataSound, FetchSound, EngineSound, RangeSound, Recording, NoSoft, not_and]; decide +kernel)

end W11

namespace W12

abbrev routed : State := r0
def en (p : Nat) (s : State) : State := (((((s.wr (UST_Pp_CFG_EN p) 1).wr (UST_Pp_RXBASE_OFF p) 0x400).wr (UST_Pp_RXSIZE_SIZE p) 512).wr (UST_Pp_RXHEAD_OFF p) 5).wr (UST_Pp_RXTAIL_OFF p) 5)
def can : List Byte := [5,0,0,0,0,2,0,0,7,9]
def tx (p : Nat) (pt : Nat) (b : List Byte) (s : State) : State := (((s.wr (UST_Pp_TXBASE_OFF p) 0x800).wr (UST_Pp_TXSIZE_SIZE p) 512).wr (UST_Pp_TXHEAD_OFF p) 6).wr (UST_Pp_TXTAIL_OFF p) 6 |>.putBytes (sramBase + 0x4000 + 48) (padTo 40 (tunnelHeader 255 pt 0 b.length 0 0 ++ b))
def tn (k p : Nat) (s : State) : State := ((((s.wr (UST_TUNt_CFG_EN k) 1).wr (UST_TUNt_CFG_PORT k) p).wr (UST_TUNt_STAT_RESOLVED k) 1).wr (UST_TUNt_STAT_NODE k) 3).wr (UST_TUNt_PEER_TUNID k) 8
def fr (kind sender dest : Nat) (pay : List Byte) : List Byte := nodeMac dest ++ nodeMac sender ++ [0x88,0xB5, byteOf (1+16*kind), byteOf sender] ++ beBytes 2 3 ++ beBytes 2 4 ++ beBytes 2 0 ++ beBytes 2 pay.length ++ beBytes 2 7 ++ [byteOf dest,0,0,0] ++ pay
def tf (n : Nat) : List Byte := fr 5 3 2 (tunnelHeader 4 1 0 n 77 4000 ++ can)
def act (s : State) : State := (s.wr CNP_JOIN_STAT_STATE 2).wr CNP_INA_STAT_STATE 3
def w656989 : State := (en 1 routed)
def w1674860 : List Byte := (tf 10)
def w3146822 : State := (en 1 routed |>.wr (UST_Pp_RXSIZE_SIZE 1) 5)
def w2631368 : State := (tn 4 1 (act (en 1 routed)))
def w5188244 : State := (tn 4 1 ((en 1 routed)))
def w5655187 : List Byte := (tf 9)
def w7740567 : State := (tn 4 1 ((en 1 routed))|>.setTunnel 4 {tunnelInit with home := List.replicate 32 ⟨1,7,8,[]⟩})
def w4320445 : State := (tn 4 1 ((en 1 routed))|>.setUport 1 ⟨0,.other,[],false⟩)
def w6035051 : State := (tx 1 1 can (en 1 routed))
def w1319531 : State := (tx 1 1 can (en 1 routed)|>.wr (UST_Pp_TXTAIL_OFF 1) 10 |>.setUport 1 ⟨0,.ring,[],false⟩)
def w5487472 : State := (tx 2 2 [7,1,0,0,5,6] (en 2 routed))
def w6488847 : State := (tn 4 1 ((en 1 routed))|>.wr (UST_TUNt_CFG_PORT 4) 3|>.setUport 1 ⟨3,.other,[],true⟩)
def w7590397 : State := ((en 1 routed).wr (UST_Pp_STAT_BUSOFF 1) 1|>.wr (UST_Pp_CFG_BOAUTO 1) 1)
def w814762 : State := (tn 4 1 ((en 1 routed))|>.setTunnel 4 {tunnelInit with lacking := some 77})
def w7329149 : State := ((((en 2 routed).wr (UST_Pp_MVBPk_EN 4) 1|>.wr (UST_Pp_MVBPk_SRC 4) 1).wr (UST_Pp_MVBPk_ADDR 4) 0x107).wr (UST_Pp_MVBPk_SIZE 4) 1 |>.setUport 2 ⟨0,.idle,[(0x107,[9,8,7])],false⟩)

theorem witness_UnderstoryPorts :
    ((State.portRuns w656989 1 = true) ∧ (State.portTakes w656989 1 false can = true) ∧ (∀ (j : Fin 32), (decide
      (State.rd w656989 (UST_TUNt_CFG_EN (↑j : ℕ)) = 1) && decide (State.rd w656989 (UST_TUNt_CFG_PORT (↑j : ℕ)) =
      1) && (tunnelKey (State.ptype w656989 1 false) can ^^^ State.rd w656989 (UST_TUNt_FILT (↑j : ℕ))) &&&
      State.rd w656989 (UST_TUNt_MASK (↑j : ℕ)) == 0) = false) ∧ (4096 ≤ 8 * State.rd w656989 (UST_Pp_RXSIZE_SIZE
      1)) ∧ (8 * State.rd w656989 (UST_Pp_RXTAIL_OFF 1) < 8 * State.rd w656989 (UST_Pp_RXSIZE_SIZE 1)) ∧ (8 *
      State.rd w656989 (UST_Pp_RXHEAD_OFF 1) + List.length (padTo ((List.length (tunnelHeader 255 (State.ptype
      w656989 1 false) 0 (List.length can) (State.uport w656989 1).seq 9000 ++ can) + 7) / 8 * 8) (tunnelHeader 255
      (State.ptype w656989 1 false) 0 (List.length can) (State.uport w656989 1).seq 9000 ++ can)) ≤ 8 * State.rd
      w656989 (UST_Pp_RXSIZE_SIZE 1)) ∧ ((8 * State.rd w656989 (UST_Pp_RXHEAD_OFF 1) + 8 * State.rd w656989
      (UST_Pp_RXSIZE_SIZE 1) - 8 * State.rd w656989 (UST_Pp_RXTAIL_OFF 1)) % (8 * State.rd w656989
      (UST_Pp_RXSIZE_SIZE 1)) + List.length (padTo ((List.length (tunnelHeader 255 (State.ptype w656989 1 false) 0
      (List.length can) (State.uport w656989 1).seq 9000 ++ can) + 7) / 8 * 8) (tunnelHeader 255 (State.ptype
      w656989 1 false) 0 (List.length can) (State.uport w656989 1).seq 9000 ++ can)) < 8 * State.rd w656989
      (UST_Pp_RXSIZE_SIZE 1)) ∧ (8 * State.rd w656989 (UST_Pp_RXBASE_OFF 1) + 8 * State.rd w656989
      (UST_Pp_RXSIZE_SIZE 1) ≤ stagingOff) ∧ (RangeSound w656989 (sramBase + 8 * State.rd w656989
      (UST_Pp_RXBASE_OFF 1) + 8 * State.rd w656989 (UST_Pp_RXHEAD_OFF 1)) (List.length (padTo ((List.length
      (tunnelHeader 255 (State.ptype w656989 1 false) 0 (List.length can) (State.uport w656989 1).seq 9000 ++ can)
      + 7) / 8 * 8) (tunnelHeader 255 (State.ptype w656989 1 false) 0 (List.length can) (State.uport w656989 1).seq
      9000 ++ can))))) ∧
    ((State.portRuns w3146822 1 = true) ∧ (State.portTakes w3146822 1 false can = true) ∧ (∀ (j : Fin 32), (decide
      (State.rd w3146822 (UST_TUNt_CFG_EN (↑j : ℕ)) = 1) && decide (State.rd w3146822 (UST_TUNt_CFG_PORT (↑j : ℕ))
      = 1) && (tunnelKey (State.ptype w3146822 1 false) can ^^^ State.rd w3146822 (UST_TUNt_FILT (↑j : ℕ))) &&&
      State.rd w3146822 (UST_TUNt_MASK (↑j : ℕ)) == 0) = false) ∧ (8 * State.rd w3146822 (UST_Pp_RXSIZE_SIZE 1) <
      4096 ∨ 8 * State.rd w3146822 (UST_Pp_RXSIZE_SIZE 1) ≤ (8 * State.rd w3146822 (UST_Pp_RXHEAD_OFF 1) + 8 *
      State.rd w3146822 (UST_Pp_RXSIZE_SIZE 1) - 8 * State.rd w3146822 (UST_Pp_RXTAIL_OFF 1)) % (8 * State.rd
      w3146822 (UST_Pp_RXSIZE_SIZE 1)) + List.length (padTo ((List.length (tunnelHeader 255 (State.ptype w3146822 1
      false) 0 (List.length can) (State.uport w3146822 1).seq 9000 ++ can) + 7) / 8 * 8) (tunnelHeader 255
      (State.ptype w3146822 1 false) 0 (List.length can) (State.uport w3146822 1).seq 9000 ++ can))) ∧ (8 *
      State.rd w3146822 (UST_Pp_RXTAIL_OFF 1) < 8 * State.rd w3146822 (UST_Pp_RXSIZE_SIZE 1) ∨ 8 * State.rd
      w3146822 (UST_Pp_RXSIZE_SIZE 1) < 4096)) ∧
    ((State.portRuns w7329149 2 = true) ∧ (List.length [(7 : Byte), (1 : Byte), (1 : Byte), (0 : Byte)] = 4) ∧
      (State.rd w7329149 (UST_Pp_MVBPk_EN 4) = 1) ∧ (State.rd w7329149 (UST_Pp_MVBPk_SRC 4) = 1) ∧ (State.rd
      w7329149 (UST_Pp_MVBPk_ADDR 4) = leAt 0 2 [(7 : Byte), (1 : Byte), (1 : Byte), (0 : Byte)] % 4096) ∧
      (State.rd w7329149 (UST_Pp_MVBPk_SIZE 4) = leAt 2 1 [(7 : Byte), (1 : Byte), (1 : Byte), (0 : Byte)] % 16) ∧
      (leAt 2 1 [(7 : Byte), (1 : Byte), (1 : Byte), (0 : Byte)] % 16 ≤ 4) ∧ (tblFind (leAt 0 2 [(7 : Byte), (1 :
      Byte), (1 : Byte), (0 : Byte)] % 4096) (State.uport w7329149 2).values = some [(9 : Byte), (8 : Byte), (7 :
      Byte)])) ∧
    ((State.portRuns w2631368 1 = true) ∧ (State.portTakes w2631368 1 false can = true) ∧ ((decide (State.rd
      w2631368 (UST_TUNt_CFG_EN 4) = 1) && decide (State.rd w2631368 (UST_TUNt_CFG_PORT 4) = 1) && (tunnelKey
      (State.ptype w2631368 1 false) can ^^^ State.rd w2631368 (UST_TUNt_FILT 4)) &&& State.rd w2631368
      (UST_TUNt_MASK 4) == 0) = true) ∧ (∀ j < 4, (decide (State.rd w2631368 (UST_TUNt_CFG_EN j) = 1) && decide
      (State.rd w2631368 (UST_TUNt_CFG_PORT j) = 1) && (tunnelKey (State.ptype w2631368 1 false) can ^^^ State.rd
      w2631368 (UST_TUNt_FILT j)) &&& State.rd w2631368 (UST_TUNt_MASK j) == 0) = false) ∧ (State.rd w2631368
      (UST_TUNt_CFG_COPY 4) = 0) ∧ (State.joinState w2631368 = joinActive) ∧ (State.inaBusy w2631368 = true) ∧
      (State.rd w2631368 (UST_TUNt_STAT_RESOLVED 4) = 1) ∧ (List.length (State.tunnel w2631368 4).away < 32) ∧
      (List.length (State.tunnel w2631368 4).home ≤ 32)) ∧
    ((State.portRuns w814762 1 = true) ∧ (State.portTakes w814762 1 false can = true) ∧ ((decide (State.rd w814762
      (UST_TUNt_CFG_EN 4) = 1) && decide (State.rd w814762 (UST_TUNt_CFG_PORT 4) = 1) && (tunnelKey (State.ptype
      w814762 1 false) can ^^^ State.rd w814762 (UST_TUNt_FILT 4)) &&& State.rd w814762 (UST_TUNt_MASK 4) == 0) =
      true) ∧ (∀ j < 4, (decide (State.rd w814762 (UST_TUNt_CFG_EN j) = 1) && decide (State.rd w814762
      (UST_TUNt_CFG_PORT j) = 1) && (tunnelKey (State.ptype w814762 1 false) can ^^^ State.rd w814762
      (UST_TUNt_FILT j)) &&& State.rd w814762 (UST_TUNt_MASK j) == 0) = false) ∧ (State.rd w814762
      (UST_TUNt_CFG_COPY 4) = 0) ∧ (State.joinState w814762 ≠ joinActive ∨ State.rd w814762 (UST_TUNt_STAT_RESOLVED
      4) = 0 ∨ 32 ≤ List.length (State.tunnel w814762 4).away)) ∧
    ((State.portSendsNow (State.wr (State.begin w6035051 9000) (UST_Pp_TXTAIL_OFF 1) (BitVec.toNat (80 : BitVec 24)
      / 8)) 1 = true) ∧ (State.txRecord (State.wr (State.begin w6035051 9000) (UST_Pp_TXTAIL_OFF 1) (BitVec.toNat
      (80 : BitVec 24) / 8)) 1 = some (1, can, 32)) ∧ (0 < State.txUsed (State.wr (State.begin w6035051 9000)
      (UST_Pp_TXTAIL_OFF 1) (BitVec.toNat (80 : BitVec 24) / 8)) 1) ∧ (State.tunnelsFor (State.wr (State.begin
      w6035051 9000) (UST_Pp_TXTAIL_OFF 1) (BitVec.toNat (80 : BitVec 24) / 8)) 1 = []) ∧ (1 < 2 → State.canValid
      (State.wr (State.begin w6035051 9000) (UST_Pp_TXTAIL_OFF 1) (BitVec.toNat (80 : BitVec 24) / 8)) 1 can =
      true) ∧ (1 ≠ 2 ∨ 1 ≠ 2)) := by
  refine ⟨⟨?_, ?_, ?_, ?_, ?_, ?_, ?_, ?_, ?_⟩, ?_, ?_, ?_, ?_, ?_⟩ <;>
    first
      | decide +kernel
      | (simp only [LeGoes, BitOk, WordOk, InstOk, DataSound, FetchSound, EngineSound, RangeSound, Recording, NoSoft, not_and]; decide +kernel)

theorem witness_UnderstoryPorts_2 :
    ((State.portSendsNow (State.wr (State.begin w5487472 9000) (UST_Pp_TXTAIL_OFF 2) (BitVec.toNat (72 : BitVec 24)
      / 8)) 2 = true) ∧ (State.txRecord (State.wr (State.begin w5487472 9000) (UST_Pp_TXTAIL_OFF 2) (BitVec.toNat
      (72 : BitVec 24) / 8)) 2 = some (2, [(7 : Byte), (1 : Byte), (0 : Byte), (0 : Byte), (5 : Byte), (6 : Byte)],
      24)) ∧ (0 < State.txUsed (State.wr (State.begin w5487472 9000) (UST_Pp_TXTAIL_OFF 2) (BitVec.toNat (72 :
      BitVec 24) / 8)) 2) ∧ (State.tunnelsFor (State.wr (State.begin w5487472 9000) (UST_Pp_TXTAIL_OFF 2)
      (BitVec.toNat (72 : BitVec 24) / 8)) 2 = []) ∧ (2 < 2 → State.canValid (State.wr (State.begin w5487472 9000)
      (UST_Pp_TXTAIL_OFF 2) (BitVec.toNat (72 : BitVec 24) / 8)) 2 [(7 : Byte), (1 : Byte), (0 : Byte), (0 : Byte),
      (5 : Byte), (6 : Byte)] = true) ∧ (2 = 2) ∧ (24 = State.txUsed (State.wr (State.begin w5487472 9000)
      (UST_Pp_TXTAIL_OFF 2) (BitVec.toNat (72 : BitVec 24) / 8)) 2) ∧ (State.rd (State.wr (State.begin w5487472
      9000) (UST_Pp_TXTAIL_OFF 2) (BitVec.toNat (72 : BitVec 24) / 8)) (UST_Pp_TXTAIL_OFF 2) < State.rd (State.wr
      (State.begin w5487472 9000) (UST_Pp_TXTAIL_OFF 2) (BitVec.toNat (72 : BitVec 24) / 8)) (UST_Pp_TXSIZE_SIZE
      2)) ∧ (State.rd (State.wr (State.begin w5487472 9000) (UST_Pp_TXTAIL_OFF 2) (BitVec.toNat (72 : BitVec 24) /
      8)) (UST_Pp_TXHEAD_OFF 2) < State.rd (State.wr (State.begin w5487472 9000) (UST_Pp_TXTAIL_OFF 2)
      (BitVec.toNat (72 : BitVec 24) / 8)) (UST_Pp_TXSIZE_SIZE 2))) ∧
    ((State.portSendsNow routed 1 = false)) ∧
    ((State.uport w1319531 1 = { seq := 0, sending := Sending.ring, values := [], resetting := false }) ∧
      (Sending.ring = Sending.ring) ∧ (State.txRecord w1319531 1 = some (1, can, 32)) ∧ (32 = State.txUsed w1319531
      1) ∧ (State.tunnelsFor w1319531 1 = []) ∧ (State.rd w1319531 (UST_Pp_TXTAIL_OFF 1) < State.rd w1319531
      (UST_Pp_TXSIZE_SIZE 1)) ∧ (State.rd w1319531 (UST_Pp_TXHEAD_OFF 1) < State.rd w1319531 (UST_Pp_TXSIZE_SIZE
      1))) ∧
    ((State.uport w4320445 1 = { seq := 0, sending := Sending.other, values := [], resetting := false }) ∧
      (Sending.other = Sending.other) ∧ (State.txUsed w4320445 1 = 0) ∧ (State.tunnelsFor w4320445 1 = [])) ∧
    ((frKind w1674860 = frTunnel) ∧ (leAt 0 1 (frPayload w1674860) = 4) ∧ (State.ustPowered w4320445 = true) ∧
      (State.rd w4320445 (UST_TUNt_CFG_EN 4) = 1) ∧ (State.rd w4320445 (UST_TUNt_STAT_RESOLVED 4) = 1) ∧ (State.rd
      w4320445 (UST_TUNt_STAT_NODE 4) = frSender w1674860) ∧ (bitsAt (leAt 2 1 (frPayload w1674860)) 0 4 = 0) ∧
      ((State.tunnel w4320445 4).part = none) ∧ (leAt 4 2 (frPayload w1674860) = List.length (List.drop 16
      (frPayload w1674860))) ∧ (List.length (State.tunnel w4320445 4).home < 32) ∧ (List.length (State.tunnel
      w4320445 4).away ≤ 32) ∧ (State.portSendsNow w4320445 (State.rd w4320445 (UST_TUNt_CFG_PORT 4)) = false)) := by
  refine ⟨?_, ?_, ?_, ?_, ?_⟩ <;>
    decide +kernel

theorem witness_UnderstoryPorts_3 :
    ((frKind w1674860 = frTunnel) ∧ (leAt 0 1 (frPayload w1674860) = 4) ∧ (State.ustPowered w2631368 = true) ∧
      (State.rd w2631368 (UST_TUNt_CFG_EN 4) = 1) ∧ (State.rd w2631368 (UST_TUNt_STAT_RESOLVED 4) = 1) ∧ (State.rd
      w2631368 (UST_TUNt_STAT_NODE 4) = frSender w1674860) ∧ (bitsAt (leAt 2 1 (frPayload w1674860)) 0 4 = 0) ∧
      ((State.tunnel w2631368 4).part = none) ∧ (leAt 4 2 (frPayload w1674860) = List.length (List.drop 16
      (frPayload w1674860))) ∧ ((State.tunnel w2631368 4).home = []) ∧ (State.portSendsNow w2631368 (State.rd
      w2631368 (UST_TUNt_CFG_PORT 4)) = true) ∧ (State.txUsed w2631368 (State.rd w2631368 (UST_TUNt_CFG_PORT 4)) =
      0) ∧ (State.tunnelsFor w2631368 (State.rd w2631368 (UST_TUNt_CFG_PORT 4)) = []) ∧ (State.rd w2631368
      (UST_TUNt_CFG_MAXAGE 4) = 0 ∨ 9000 ≤ (leAt 8 8 (frPayload w1674860)) + State.rd w2631368 (UST_TUNt_CFG_MAXAGE
      4) * 1000000) ∧ ((State.tunnel w2631368 4).last = none)) ∧
    ((frKind w1674860 = frTunnel) ∧ (leAt 0 1 (frPayload w1674860) = 4) ∧ (State.ustPowered w7740567 = true) ∧
      (State.rd w7740567 (UST_TUNt_CFG_EN 4) = 1) ∧ (State.rd w7740567 (UST_TUNt_STAT_RESOLVED 4) = 1) ∧ (State.rd
      w7740567 (UST_TUNt_STAT_NODE 4) = frSender w1674860) ∧ (bitsAt (leAt 2 1 (frPayload w1674860)) 0 4 = 0) ∧
      ((State.tunnel w7740567 4).part = none) ∧ (leAt 4 2 (frPayload w1674860) = List.length (List.drop 16
      (frPayload w1674860))) ∧ (32 ≤ List.length (State.tunnel w7740567 4).home)) ∧
    ((frKind w5655187 = frTunnel) ∧ (leAt 0 1 (frPayload w5655187) = 4) ∧ (State.ustPowered w5188244 = true) ∧
      (State.rd w5188244 (UST_TUNt_CFG_EN 4) = 1) ∧ (State.rd w5188244 (UST_TUNt_STAT_RESOLVED 4) = 1) ∧ (State.rd
      w5188244 (UST_TUNt_STAT_NODE 4) = frSender w5655187) ∧ (bitsAt (leAt 2 1 (frPayload w5655187)) 0 4 = 0) ∧
      ((State.tunnel w5188244 4).part = none) ∧ (leAt 4 2 (frPayload w5655187) ≠ List.length (List.drop 16
      (frPayload w5655187))) ∧ ((State.tunnel w5188244 4).lacking ≠ some (leAt 6 2 (frPayload w5655187)))) ∧
    ((frKind w5655187 = frTunnel) ∧ (leAt 0 1 (frPayload w5655187) = 4) ∧ (State.ustPowered w814762 = true) ∧
      (State.rd w814762 (UST_TUNt_CFG_EN 4) = 1) ∧ (State.rd w814762 (UST_TUNt_STAT_RESOLVED 4) = 1) ∧ (State.rd
      w814762 (UST_TUNt_STAT_NODE 4) = frSender w5655187) ∧ (bitsAt (leAt 2 1 (frPayload w5655187)) 0 4 = 0) ∧
      ((State.tunnel w814762 4).part = none) ∧ (leAt 4 2 (frPayload w5655187) ≠ List.length (List.drop 16
      (frPayload w5655187))) ∧ ((State.tunnel w814762 4).lacking = some (leAt 6 2 (frPayload w5655187)))) := by
  refine ⟨⟨?_, ?_, ?_, ?_, ?_, ?_, ?_, ?_, ?_, ?_, ?_, ?_, ?_, ?_, ?_⟩, ?_, ?_, ?_⟩ <;>
    decide +kernel

theorem witness_UnderstoryPorts_4 :
    ((State.rd w656989 (UST_Pp_CFG_EN 1) = 1) ∧ (w656989.pw.phase = RunPhase.running)) ∧
    ((State.rd routed (UST_Pp_CFG_EN 1) = 0) ∧ (State.txUsed routed 1 = 0) ∧ (State.tunnelsFor routed 1 = []) ∧
      (routed.pw.phase = RunPhase.running)) ∧
    (((State.uport w6488847 1).resetting = true) ∧ (State.txUsed w6488847 1 = 0) ∧ (State.tunnelsFor w6488847 1 =
      [])) ∧
    ((1 = 1) ∧ (State.portRuns w7590397 1 = true) ∧ (State.rd w7590397 (UST_Pp_STAT_BUSOFF 1) = 1) ∧ (State.rd
      w7590397 (UST_Pp_CFG_BOAUTO 1) = 1) ∧ (State.txUsed w7590397 1 = 0) ∧ (State.tunnelsFor w7590397 1 = [])) := by
  refine ⟨?_, ?_, ?_, ?_⟩ <;>
    decide +kernel

end W12

namespace W13

abbrev routed : State := r0
def er (memid row e : Nat) (s : State) : State := s.setErr memid row e
def u2 : Nat := 0x55 * 2^(8*9)
def dat : List Byte := [1,2,3,4,5,6,7,8,9,10]
def D (s : State) : State := s.putBytes 0x1000140 dat
def ctm (s : State) : State := (((s.wr (ECC_CTi_LOC_ROW 2) 10).wr (ECC_CTi_LOC_MEMID 2) 2).wr (ECC_CTi_INFO_STATE 2) 1).wr (ECC_CTi_INFO_LAPCNT 2) 3
def bade : BitVec 352 := BitVec.ofNat _ (1+2*2^8+3*2^16+4*2^24+ 5*2^32+6*2^40+7*2^48)
def adr : BitVec 352 := BitVec.ofNat _ (3 * 2^(8*40))
def lpp (p : Nat) (s : State) : State := (s.setLap 1 (some ⟨1000,0,false,p⟩)).wr (ECC_SCRm_LIMIT_ROW 1) 20
def fl (n : Nat) (s : State) : State := (((s.wr ECC_FILL_ADDR_LO_ROW (0x1000140/32)).wr ECC_FILL_LEN_LEN n).wr ECC_FILL_PAT_LO 0x04030201).wr ECC_FILL_PAT_HI 0x08070605
def run (s : State) : State := {s with ecc := {s.ecc with fill := some ⟨0x1000140, 3, 0x0807060504030201⟩}}
def arm (s : State) : State := ((((D s).wr ECC_TST_ADDR_LO_ROW (0x1000140/32)).wr ECC_TST_ADDR_HI_ARM 1).wr (ECC_TST_DATAk 0) 0xFF112233).wr ECC_TST_CHK_LO 0x99
def armS (s : State) : State := (arm s).wr ECC_TST_ADDR_LO_ROW (0x1F00140/32)
def mk (a b : Nat) (s : State) := (s.wr BIST_MASK0 a).wr BIST_MASK1 b
def runc (a b : Nat) (s : State) : State := {s with cop := {s.cop with run := some {bistNew .command a b with todo := [1]}, testing := a % 2^15, laneTest := a / 2^16}}
abbrev r1 : BistRun := bistNew .command 0 32
def lf (x : Nat) (s : State) : State := {s with cop := {s.cop with laneFenced := x * 2^6}}
def bgl (t : Nat) (s : State) : State := {s with cop := {s.cop with laneTest := 2^6, laneFenced := t * 2^6}}.wr BIST_STAT_COPPICE 1
abbrev r2 : BistRun := {bistNew .depot 4 0x10000 with todo := [16,17,18], len := 5}
abbrev r3 : BistRun := {bistNew .depot 0 0 with todo := [3]}
abbrev r4 : BistRun := {bistNew .command 4 0 with todo := [1]}
def inrun (r : BistRun) (s : State) : State := {s with cop := {s.cop with run := some r}}
def w9852532 : State := (D routed)
def w426056 : MemMaster := (.stand 1)
def w8432590 : List Byte := (dat ++ dat ++ dat ++ [1,2])
def w140853 : State := (D routed |> er 2 10 0x5500)
def w3968440 : State := (ctm (D routed))
def w193644 : State := (lpp 10 (D routed))
def w2895664 : State := (lpp 19 (D routed))
def w7025693 : State := (lpp 19 (D routed)|>.wr (ECC_SCRm_LAPLIM_MS 1) 7)
def w8002167 : State := (fl 0 routed)
def w7938621 : FillRun := ⟨0x1000140, 3, 0x0807060504030201⟩
def w3961012 : State := (fl 0xF00000 routed)
def w9476506 : State := (fl 3 routed)
def w3459638 : State := (run (fl 3 routed))
def w7011829 : State := (arm routed)
def w1328378 : State := (armS routed)
def w4300022 : State := (mk 1 32 (routed.wr (laneFld 0 0) 0))
def w2009535 : State := (mk 0 0x9000 routed)
def w9295452 : State := ((mk 0 32 routed).wr BIST_STAT_COPPICE 1)
def w9787982 : State := (runc 0 32 (mk 0 32 routed))
def w3555888 : State := {(mk 0 32 routed) with cop := {routed.cop with depot := some r1}}
def w2702215 : State := (runc (2^13) 0 (mk 0 32 routed))
def w48322 : State := (runc (2^22) 0 (mk 0 32 routed))
def w3769740 : State := (lf 1 (runc (2^22) 0 (mk 0 32 routed)))
def w1787754 : State := {routed with cop := {routed.cop with nandSpare := 0}}
def w7015441 : State := (inrun r2 (mk 0 32 routed))
def w8439798 : State := (inrun r3 (mk 0 32 routed))
def w9200592 : State := (inrun r4 (mk 0 32 routed))
def w5307425 : State := (bgl 1 routed)

theorem decoded_0 :
    rsDecode (patSyms (State.rowErr w9852532 2 10 ^^^ BitVec.toNat (BitVec.ofNat 352 u2))) = some [(9, 85)] := by decide +kernel

theorem decoded_1 :
    rsDecode (patSyms (State.rowErr w3968440 2 10 ^^^ BitVec.toNat (BitVec.ofNat 352 u2))) = some [(9, 85)] := by decide +kernel

theorem witness_MemoryRows :
    ((State.masterUp w193644 w426056 = true) ∧ (State.memUp w193644 2 10 = true) ∧ (10 < rowCount 2) ∧ (rowAddr 2
      10 = some 16777536) ∧ (2 ≠ 7) ∧ (standBarred w426056 2 = false) ∧ (State.isTestRow w193644 2 10 = false) ∧
      (State.rowErr w193644 2 10 ^^^ BitVec.toNat (0 : BitVec 352) = 0)) ∧
    ((State.masterUp w9852532 w426056 = true) ∧ (State.memUp w9852532 2 10 = true) ∧ (10 < rowCount 2) ∧ (rowAddr 2
      10 = some 16777536) ∧ (2 ≠ 7) ∧ (standBarred w426056 2 = false) ∧ (State.isTestRow w9852532 2 10 = false) ∧
      (rsDecode (patSyms (State.rowErr w9852532 2 10 ^^^ BitVec.toNat (BitVec.ofNat 352 u2))) = some [(9, 85)]) ∧
      ([(9, 85)] ≠ []) ∧ (∀ x ∈ [(9, 85)], x.1 < 40) ∧ (State.rowErr w9852532 2 10 ^^^ BitVec.toNat (BitVec.ofNat
      352 u2) = patOf [(9, 85)]) ∧ (State.ctEntry w9852532 2 10 = none) ∧ (State.ctState w9852532 0 = 0) ∧ (∀ j <
      (0 : Fin 32), State.ctState w9852532 (↑j : ℕ) ≠ 0)) ∧
    ((State.masterUp w3968440 w426056 = true) ∧ (State.memUp w3968440 2 10 = true) ∧ (10 < rowCount 2) ∧ (rowAddr 2
      10 = some 16777536) ∧ (2 ≠ 7) ∧ (standBarred w426056 2 = false) ∧ (State.isTestRow w3968440 2 10 = false) ∧
      (rsDecode (patSyms (State.rowErr w3968440 2 10 ^^^ BitVec.toNat (BitVec.ofNat 352 u2))) = some [(9, 85)]) ∧
      ([(9, 85)] ≠ []) ∧ (∀ x ∈ [(9, 85)], x.1 < 40) ∧ (State.rowErr w3968440 2 10 ^^^ BitVec.toNat (BitVec.ofNat
      352 u2) = patOf [(9, 85)]) ∧ (State.marched w3968440 2 = false) ∧ (State.ctEntry w3968440 2 10 = some 2) ∧
      (State.ctState w3968440 2 = 1) ∧ (State.rd w3968440 (ECC_CTi_INFO_LAPCNT 2) = 3) ∧ (2 = 2) ∧ (tblGet 0
      (spareBank 2 10) w3968440.cop.rowsUsed < 8) ∧ (List.length w3968440.cop.log < 4096) ∧ (false = false)) := by
  refine ⟨?_, ⟨?_, ?_, ?_, ?_, ?_, ?_, ?_, ?_, ?_, ?_, ?_, ?_, ?_, ?_⟩, ⟨?_, ?_, ?_, ?_, ?_, ?_, ?_, ?_, ?_, ?_,
    ?_, ?_, ?_, ?_, ?_, ?_, ?_, ?_, ?_⟩⟩ <;>
    first
      | with_reducible exact decoded_1
      | with_reducible exact decoded_0
      | decide +kernel

theorem decoded_2 :
    rsDecode (patSyms (State.rowErr w9852532 2 10 ^^^ BitVec.toNat bade)) = none := by decide +kernel

theorem decoded_3 :
    eccResult (rsDecode (patSyms (State.rowErr w9852532 2 10 ^^^ BitVec.toNat adr))) = EccResult.addrFault := by decide +kernel

theorem witness_MemoryRows_2 :
    ((State.isTestRow w9852532 2 10 = false) ∧ (rsDecode (patSyms (State.rowErr w9852532 2 10 ^^^ BitVec.toNat
      bade)) = none) ∧ (State.masterUp w9852532 (MemMaster.stand (1 : Fin 4)) = true) ∧ (State.memUp w9852532 2 10
      = true) ∧ (10 < rowCount 2) ∧ (rowAddr 2 10 = some 16777536) ∧ (2 ≠ 7) ∧ (standBarred (MemMaster.stand (1 :
      Fin 4)) 2 = false)) ∧
    ((State.isTestRow w9852532 2 10 = false) ∧ (rsDecode (patSyms (State.rowErr w9852532 2 10 ^^^ BitVec.toNat
      bade)) = none) ∧ (State.masterUp w9852532 (MemMaster.standFetch (1 : Fin 4)) = true) ∧ (State.memUp w9852532
      2 10 = true) ∧ (10 < rowCount 2) ∧ (rowAddr 2 10 = some 16777536) ∧ (2 ≠ 7) ∧ (standBarred
      (MemMaster.standFetch (1 : Fin 4)) 2 = false)) ∧
    ((State.isTestRow w9852532 2 10 = false) ∧ (rsDecode (patSyms (State.rowErr w9852532 2 10 ^^^ BitVec.toNat
      bade)) = none) ∧ (State.masterUp w9852532 MemMaster.recorder = true) ∧ (State.memUp w9852532 2 10 = true) ∧
      (10 < rowCount 2) ∧ (rowAddr 2 10 = some 16777536) ∧ (2 ≠ 7) ∧ (standBarred MemMaster.recorder 2 = false)) ∧
    ((State.isTestRow w9852532 2 10 = false) ∧ (rsDecode (patSyms (State.rowErr w9852532 2 10 ^^^ BitVec.toNat
      bade)) = none) ∧ (State.masterUp w9852532 MemMaster.rootway = true) ∧ (State.memUp w9852532 2 10 = true) ∧
      (10 < rowCount 2) ∧ (rowAddr 2 10 = some 16777536) ∧ (2 ≠ 7) ∧ (standBarred MemMaster.rootway 2 = false)) ∧
    ((State.masterUp w9852532 (MemMaster.stand (1 : Fin 4)) = true) ∧ (6 = 6)) ∧
    ((State.masterUp w9852532 (MemMaster.standFetch (1 : Fin 4)) = true) ∧ (4 ≤ 6)) ∧
    ((State.masterUp w9852532 MemMaster.debug = true) ∧ (State.memUp w9852532 2 10 = true) ∧ (10 < rowCount 2) ∧
      (rowAddr 2 10 = some 16777536) ∧ (2 ≠ 7) ∧ (standBarred MemMaster.debug 2 = false) ∧ (State.isTestRow
      w9852532 2 10 = false) ∧ (eccResult (rsDecode (patSyms (State.rowErr w9852532 2 10 ^^^ BitVec.toNat adr))) =
      EccResult.addrFault)) := by
  refine ⟨⟨?_, ?_, ?_, ?_, ?_, ?_, ?_, ?_⟩, ⟨?_, ?_, ?_, ?_, ?_, ?_, ?_, ?_⟩, ⟨?_, ?_, ?_, ?_, ?_, ?_, ?_, ?_⟩,
    ⟨?_, ?_, ?_, ?_, ?_, ?_, ?_, ?_⟩, ?_, ?_, ⟨?_, ?_, ?_, ?_, ?_, ?_, ?_, ?_⟩⟩ <;>
    first
      | with_reducible exact decoded_3
      | with_reducible exact decoded_2
      | decide +kernel

theorem decoded_4 :
    eccResult (rsDecode (patSyms (State.rowErr w9852532 2 (BitVec.toNat (16777538 : BitVec 36) % 2 ^ 24 / 32) ^^^
      BitVec.toNat bade))) = EccResult.uncorr := by decide +kernel

theorem witness_MemoryRows_3 :
    ((State.masterUp w9852532 w426056 = true) ∧ (16777216 ≤ BitVec.toNat (16777536 : BitVec 36)) ∧ (BitVec.toNat
      (16777536 : BitVec 36) < 33554432) ∧ (State.mayWrite w9852532 w426056 (BitVec.toNat (16777536 : BitVec 36))
      (List.length w8432590) = true) ∧ (List.length w8432590 = 32) ∧ (BitVec.toNat (16777536 : BitVec 36) % 32 = 0)
      ∧ (State.ctEntry w9852532 2 (BitVec.toNat (16777536 : BitVec 36) % 2 ^ 24 / 32) = none)) ∧
    ((State.masterUp w193644 w426056 = true) ∧ (16777216 ≤ BitVec.toNat (16777538 : BitVec 36)) ∧ (BitVec.toNat
      (16777538 : BitVec 36) < 33554432) ∧ (State.mayWrite w193644 w426056 (BitVec.toNat (16777538 : BitVec 36))
      (List.length dat) = true) ∧ (dat ≠ []) ∧ (BitVec.toNat (16777538 : BitVec 36) % 32 + List.length dat < 32) ∧
      (State.isTestRow w193644 2 (BitVec.toNat (16777538 : BitVec 36) % 2 ^ 24 / 32) = false) ∧ (State.rowErr
      w193644 2 (BitVec.toNat (16777538 : BitVec 36) % 2 ^ 24 / 32) = BitVec.toNat (0 : BitVec 352)) ∧
      (State.ctEntry w193644 2 (BitVec.toNat (16777538 : BitVec 36) % 2 ^ 24 / 32) = none) ∧ (∀ x ∈ lineMate
      w426056 2 (BitVec.toNat (16777538 : BitVec 36) % 2 ^ 24 / 32), State.rowErr w193644 x.1 x.2 = 0)) ∧
    ((State.masterUp w9852532 w426056 = true) ∧ (16777216 ≤ BitVec.toNat (16777538 : BitVec 36)) ∧ (BitVec.toNat
      (16777538 : BitVec 36) < 33554432) ∧ (State.mayWrite w9852532 w426056 (BitVec.toNat (16777538 : BitVec 36))
      (List.length dat) = true) ∧ (dat ≠ []) ∧ (BitVec.toNat (16777538 : BitVec 36) % 32 + List.length dat < 32) ∧
      (State.isTestRow w9852532 2 (BitVec.toNat (16777538 : BitVec 36) % 2 ^ 24 / 32) = false) ∧ (eccResult
      (rsDecode (patSyms (State.rowErr w9852532 2 (BitVec.toNat (16777538 : BitVec 36) % 2 ^ 24 / 32) ^^^
      BitVec.toNat bade))) = EccResult.uncorr) ∧ (w426056 = MemMaster.stand (1 : Fin 4))) ∧
    ((w193644.pw.phase = RunPhase.running) ∧ (State.scrubTurn w193644 1 (State.lapPos w193644 1) 10 = true) ∧ ((1 :
      Fin 6) ≠ (0 : Fin 6) ∨ w193644.ecc.selfRefresh = none) ∧ (State.lap w193644 1 = some
      { from_ := 1000, paused := 0, alarmed := false, pos := 10 }) ∧ (State.isTestRow w193644 (1 + 1) 10 = false) ∧
      (State.rowErr w193644 (1 + 1) 10 = BitVec.toNat (0 : BitVec 352)) ∧ (¬if 1 = 2 then false = true else
      State.scrubNext w193644 1 (10 + 1) = none)) ∧
    ((w2895664.pw.phase = RunPhase.running) ∧ (State.scrubTurn w2895664 1 (State.lapPos w2895664 1) 19 = true) ∧
      ((1 : Fin 6) ≠ (0 : Fin 6) ∨ w2895664.ecc.selfRefresh = none) ∧ (State.lap w2895664 1 = some
      { from_ := 1000, paused := 0, alarmed := false, pos := 19 }) ∧ (State.isTestRow w2895664 (1 + 1) 19 = false)
      ∧ (State.rowErr w2895664 (1 + 1) 19 = BitVec.toNat (0 : BitVec 352)) ∧ (if 1 = 2 then false = true else
      State.scrubNext w2895664 1 (19 + 1) = none) ∧ (∀ j < 32, State.ctState w2895664 j = 0)) ∧
    ((w140853.pw.phase ≠ RunPhase.running ∨ State.scrubTurn w140853 1 (State.lapPos w140853 1) 10 = false ∨ (1 :
      Fin 6) = (0 : Fin 6) ∧ Option.isSome w140853.ecc.selfRefresh = true)) := by
  refine ⟨?_, ?_, ⟨?_, ?_, ?_, ?_, ?_, ?_, ?_, ?_, ?_⟩, ?_, ?_, ?_⟩ <;>
    first
      | with_reducible exact decoded_4
      | decide +kernel

theorem witness_MemoryRows_4 :
    ((State.lap w7025693 1 = some { from_ := 1000, paused := 0, alarmed := false, pos := 19 }) ∧ (false = false) ∧
      (State.rd w7025693 (ECC_SCRm_LAPLIM_MS 1) ≠ 0) ∧ (State.rd w7025693 (ECC_SCRm_LAPLIM_MS 1) * 1000000 +
      State.lapPause (State.begin w7025693 9009000) 1 < 9009000 - 1000 - 0)) := by
  decide +kernel

theorem witness_FillAndTestWindow :
    ((State.rd w8002167 ECC_FILL_LEN_LEN = 0) ∧ (w8002167.pw.phase = RunPhase.running)) ∧
    ((State.rd w3961012 ECC_FILL_LEN_LEN ≠ 0) ∧ (fillable (State.rd w3961012 ECC_FILL_ADDR_LO_ROW * 32 + State.rd
      w3961012 ECC_FILL_ADDR_HI_HI * 2 ^ 32) (State.rd w3961012 ECC_FILL_LEN_LEN) = false ∨ 268435456 < State.rd
      w3961012 ECC_FILL_LEN_LEN ∨ State.inRegion w3961012 (State.rd w3961012 ECC_FILL_ADDR_LO_ROW * 32 + State.rd
      w3961012 ECC_FILL_ADDR_HI_HI * 2 ^ 32) (32 * State.rd w3961012 ECC_FILL_LEN_LEN) = true) ∧ (w3961012.pw.phase
      = RunPhase.running)) ∧
    ((State.rd w3459638 ECC_FILL_LEN_LEN ≠ 0) ∧ (fillable (State.rd w3459638 ECC_FILL_ADDR_LO_ROW * 32 + State.rd
      w3459638 ECC_FILL_ADDR_HI_HI * 2 ^ 32) (State.rd w3459638 ECC_FILL_LEN_LEN) = true) ∧ (State.rd w3459638
      ECC_FILL_LEN_LEN ≤ 268435456) ∧ (State.inRegion w3459638 (State.rd w3459638 ECC_FILL_ADDR_LO_ROW * 32 +
      State.rd w3459638 ECC_FILL_ADDR_HI_HI * 2 ^ 32) (32 * State.rd w3459638 ECC_FILL_LEN_LEN) = false) ∧
      (Option.isSome w3459638.ecc.fill = true) ∧ (w3459638.pw.phase = RunPhase.running)) ∧
    ((State.rd w9476506 ECC_FILL_LEN_LEN ≠ 0) ∧ (fillable (State.rd w9476506 ECC_FILL_ADDR_LO_ROW * 32 + State.rd
      w9476506 ECC_FILL_ADDR_HI_HI * 2 ^ 32) (State.rd w9476506 ECC_FILL_LEN_LEN) = true) ∧ (State.rd w9476506
      ECC_FILL_LEN_LEN ≤ 268435456) ∧ (State.inRegion w9476506 (State.rd w9476506 ECC_FILL_ADDR_LO_ROW * 32 +
      State.rd w9476506 ECC_FILL_ADDR_HI_HI * 2 ^ 32) (32 * State.rd w9476506 ECC_FILL_LEN_LEN) = false) ∧
      (w9476506.ecc.fill = none) ∧ (w9476506.pw.phase = RunPhase.running)) ∧
    ((w3459638.ecc.fill = some w7938621) ∧ (fillable w7938621.addr w7938621.rows = true) ∧ (w7938621.addr % 32 = 0)
      ∧ (w7938621.rows ≤ 268435456) ∧ (NoSoft w3459638)) ∧
    ((State.rd w8002167 ECC_TST_ADDR_HI_ARM = 0 ∨ State.testRow w8002167 = none) ∧ (w8002167.pw.phase =
      RunPhase.running)) ∧
    ((State.rd w7011829 ECC_TST_ADDR_HI_ARM = 1) ∧ (State.testRow w7011829 = some (2, 10)) ∧ (rowAddr 2 10 = some
      16777536) ∧ (w7011829.pw.phase = RunPhase.running) ∧ (State.tstGuarded w7011829 2 10 = false)) ∧
    ((State.rd w1328378 ECC_TST_ADDR_HI_ARM = 1) ∧ (State.testRow w1328378 = some (2, 491530)) ∧ (rowAddr 2 491530
      = some 32506176) ∧ (w1328378.pw.phase = RunPhase.running) ∧ (State.tstGuarded w1328378 2 491530 = true)) ∧
    ((State.rd w7011829 ECC_TST_ADDR_HI_ARM = 1) ∧ (State.testRow w7011829 = some (2, 10)) ∧ (rowAddr 2 10 = some
      16777536) ∧ (w7011829.pw.phase = RunPhase.running) ∧ (State.rowErr w7011829 2 10 ^^^ BitVec.toNat (0 : BitVec
      320) = 0)) := by
  refine ⟨?_, ?_, ?_, ?_, ⟨?_, ?_, ?_, ?_, ?_⟩, ?_, ?_, ?_, ?_⟩ <;>
    first
      | decide +kernel
      | (simp only [LeGoes, BitOk, WordOk, InstOk, DataSound, FetchSound, EngineSound, RangeSound, Recording, NoSoft, not_and]; decide +kernel)

theorem witness_SelfTestAndRepair :
    ((¬(maskAll (State.rd w4300022 BIST_MASK0) (State.testable0 w4300022) = true ∧ maskAll (State.rd w4300022
      BIST_MASK1) (State.testable1 w4300022) = true)) ∧ (w4300022.pw.phase = RunPhase.running)) ∧
    ((maskAll (State.rd w48322 BIST_MASK0) (State.testable0 w48322) = true) ∧ (maskAll (State.rd w48322 BIST_MASK1)
      (State.testable1 w48322) = true) ∧ (Option.isSome w48322.cop.waiting = true ∨ ∃ (x : BistRun), w48322.cop.run
      = some x ∧ x.kind = RunKind.command) ∧ (w48322.pw.phase = RunPhase.running)) ∧
    ((maskAll (State.rd routed BIST_MASK0) (State.testable0 routed) = true) ∧ (maskAll (State.rd routed BIST_MASK1)
      (State.testable1 routed) = true) ∧ (¬(Option.isSome routed.cop.waiting = true ∨ ∃ (x : BistRun),
      routed.cop.run = some x ∧ x.kind = RunKind.command)) ∧ (¬(State.rd routed BIST_STAT_COPPICE = 1 ∨
      Option.isSome routed.cop.run = true)) ∧ (routed.pw.phase = RunPhase.running)) ∧
    ((maskAll (State.rd w9295452 BIST_MASK0) (State.testable0 w9295452) = true) ∧ (maskAll (State.rd w9295452
      BIST_MASK1) (State.testable1 w9295452) = true) ∧ (¬(Option.isSome w9295452.cop.waiting = true ∨ ∃ (x :
      BistRun), w9295452.cop.run = some x ∧ x.kind = RunKind.command)) ∧ (State.rd w9295452 BIST_STAT_COPPICE = 1 ∨
      Option.isSome w9295452.cop.run = true) ∧ (w9295452.pw.phase = RunPhase.running)) ∧
    ((bitAt (State.rd w2009535 BIST_MASK0) 15 = true ∨ State.rd w2009535 BIST_MASK1 &&& mask1Targets ≠ State.rd
      w2009535 BIST_MASK1) ∧ (w2009535.pw.phase = RunPhase.running)) ∧
    ((bitAt (State.rd w48322 BIST_MASK0) 15 = false) ∧ (State.rd w48322 BIST_MASK1 &&& mask1Targets = State.rd
      w48322 BIST_MASK1) ∧ (w48322.pw.phase = RunPhase.running)) ∧
    ((w3555888.cop.run = none) ∧ (State.startupAwaited w3555888 = false) ∧ (Option.isSome w3555888.cop.waiting =
      true ∨ Option.isSome w3555888.cop.depot = true)) ∧
    ((w9200592.cop.run = some r4) ∧ (r4.kind ≠ RunKind.startup) ∧ (w9200592.cop.waiting = none) ∧ (w9200592.cop.due
      = []) ∧ (List.head? r4.todo = some 1) ∧ (r4.mask1 % 4 = 0)) ∧
    ((w8439798.cop.run = some r3) ∧ (r3.kind ≠ RunKind.startup) ∧ (w8439798.cop.waiting = none) ∧ (w8439798.cop.due
      = []) ∧ (List.head? r3.todo = some 3)) ∧
    ((w7015441.cop.run = some r2) ∧ (w7015441.cop.waiting = none) ∧ (w7015441.cop.due = []) ∧ (r2.todo = [16 + 0,
      17 + 0, 18]) ∧ (w7015441.ecc.err = [])) ∧
    ((routed.cop.run = none) ∧ (routed.cop.laneTest = 0)) := by
  refine ⟨?_, ⟨?_, ?_, ?_, ?_⟩, ⟨?_, ?_, ?_, ?_, ?_⟩, ⟨?_, ?_, ?_, ?_, ?_⟩, ?_, ?_, ?_, ?_, ?_, ?_, ?_⟩ <;>
    first
      | decide +kernel
      | exact ⟨0, by decide +kernel⟩
      | exact ⟨1, by decide +kernel⟩

theorem witness_SelfTestAndRepair_2 :
    ((w9787982.cop.run = some
      { kind := (bistNew RunKind.command 0 (4 * 2 ^ 3)).kind, mask0 := (bistNew RunKind.command 0 (4 * 2 ^ 3)).mask0, mask1 := (bistNew RunKind.command 0 (4 * 2 ^ 3)).mask1, todo := [1], failed0 := (bistNew RunKind.command 0 (4 * 2 ^ 3)).failed0, failed1 := (bistNew RunKind.command 0 (4 * 2 ^ 3)).failed1, first := (bistNew RunKind.command 0 (4 * 2 ^ 3)).first, len := (bistNew RunKind.command 0 (4 * 2 ^ 3)).len, aborted := (bistNew RunKind.command 0 (4 * 2 ^ 3)).aborted })
      ∧ (w9787982.cop.waiting = none) ∧ (w9787982.cop.due = []) ∧ (bitAt (BitVec.toNat (0 : BitVec 32)) (2 + 3) =
      false)) ∧
    ((w9787982.cop.run = some
      { kind := (bistNew RunKind.command 0 (4 * 2 ^ 3)).kind, mask0 := (bistNew RunKind.command 0 (4 * 2 ^ 3)).mask0, mask1 := (bistNew RunKind.command 0 (4 * 2 ^ 3)).mask1, todo := [1], failed0 := (bistNew RunKind.command 0 (4 * 2 ^ 3)).failed0, failed1 := (bistNew RunKind.command 0 (4 * 2 ^ 3)).failed1, first := (bistNew RunKind.command 0 (4 * 2 ^ 3)).first, len := (bistNew RunKind.command 0 (4 * 2 ^ 3)).len, aborted := (bistNew RunKind.command 0 (4 * 2 ^ 3)).aborted })
      ∧ (w9787982.cop.waiting = none) ∧ (w9787982.cop.due = []) ∧ (bitAt (BitVec.toNat (32 : BitVec 32)) (2 + 3) =
      true)) ∧
    ((w2702215.cop.run = some
      { kind := (bistNew RunKind.command (2 ^ 13) 0).kind, mask0 := (bistNew RunKind.command (2 ^ 13) 0).mask0, mask1 := (bistNew RunKind.command (2 ^ 13) 0).mask1, todo := [1], failed0 := (bistNew RunKind.command (2 ^ 13) 0).failed0, failed1 := (bistNew RunKind.command (2 ^ 13) 0).failed1, first := (bistNew RunKind.command (2 ^ 13) 0).first, len := (bistNew RunKind.command (2 ^ 13) 0).len, aborted := (bistNew RunKind.command (2 ^ 13) 0).aborted })
      ∧ (w2702215.cop.waiting = none) ∧ (w2702215.cop.due = []) ∧ (State.isSpare w2702215 13 = true) ∧ (bitAt
      (BitVec.toNat (0 : BitVec 32)) 13 = false) ∧ (bitAt w2702215.cop.fenced 13 = false)) ∧
    ((w2702215.cop.run = some
      { kind := (bistNew RunKind.command (2 ^ 13) 0).kind, mask0 := (bistNew RunKind.command (2 ^ 13) 0).mask0, mask1 := (bistNew RunKind.command (2 ^ 13) 0).mask1, todo := [1], failed0 := (bistNew RunKind.command (2 ^ 13) 0).failed0, failed1 := (bistNew RunKind.command (2 ^ 13) 0).failed1, first := (bistNew RunKind.command (2 ^ 13) 0).first, len := (bistNew RunKind.command (2 ^ 13) 0).len, aborted := (bistNew RunKind.command (2 ^ 13) 0).aborted })
      ∧ (w2702215.cop.waiting = none) ∧ (w2702215.cop.due = []) ∧ (State.isSpare w2702215 13 = true) ∧ (bitAt
      (BitVec.toNat (8192 : BitVec 32)) 13 = true)) ∧
    ((w48322.cop.run = some
      { kind := (bistNew RunKind.command (2 ^ (16 + 4 * 1 + 2)) 0).kind, mask0 := (bistNew RunKind.command (2 ^ (16 + 4 * 1 + 2)) 0).mask0, mask1 := (bistNew RunKind.command (2 ^ (16 + 4 * 1 + 2)) 0).mask1, todo := [1], failed0 := (bistNew RunKind.command (2 ^ (16 + 4 * 1 + 2)) 0).failed0, failed1 := (bistNew RunKind.command (2 ^ (16 + 4 * 1 + 2)) 0).failed1, first := (bistNew RunKind.command (2 ^ (16 + 4 * 1 + 2)) 0).first, len := (bistNew RunKind.command (2 ^ (16 + 4 * 1 + 2)) 0).len, aborted := (bistNew RunKind.command (2 ^ (16 + 4 * 1 + 2)) 0).aborted })
      ∧ (w48322.cop.waiting = none) ∧ (w48322.cop.due = []) ∧ (State.leCan w48322 1 = false) ∧ (bitAt (BitVec.toNat
      (4194304 : BitVec 32)) (16 + 4 * 1 + 2) = true)) ∧
    ((w3769740.cop.run = some
      { kind := (bistNew RunKind.command (2 ^ (16 + 4 * 1 + 2)) 0).kind, mask0 := (bistNew RunKind.command (2 ^ (16 + 4 * 1 + 2)) 0).mask0, mask1 := (bistNew RunKind.command (2 ^ (16 + 4 * 1 + 2)) 0).mask1, todo := [1], failed0 := (bistNew RunKind.command (2 ^ (16 + 4 * 1 + 2)) 0).failed0, failed1 := (bistNew RunKind.command (2 ^ (16 + 4 * 1 + 2)) 0).failed1, first := (bistNew RunKind.command (2 ^ (16 + 4 * 1 + 2)) 0).first, len := (bistNew RunKind.command (2 ^ (16 + 4 * 1 + 2)) 0).len, aborted := (bistNew RunKind.command (2 ^ (16 + 4 * 1 + 2)) 0).aborted })
      ∧ (w3769740.cop.waiting = none) ∧ (w3769740.cop.due = []) ∧ (State.leCan w3769740 1 = false) ∧ (bitAt
      (BitVec.toNat (0 : BitVec 32)) (16 + 4 * 1 + 2) = false) ∧ (bitAt w3769740.cop.laneFenced (4 * 1 + 2) = true)
      ∧ (State.bit w3769740 CPC_LELANE_SUSPECT (4 * 1 + 2) = false)) ∧
    ((w5307425.cop.run = none) ∧ (w5307425.cop.testing = 0) ∧ (w5307425.cop.waiting = none) ∧
      (w5307425.cop.laneTest = 2 ^ (4 * 1 + 2)) ∧ (bitAt (BitVec.toNat (0 : BitVec 32)) (16 + 4 * 1 + 2) = false) ∧
      (bitAt w5307425.cop.laneFenced (4 * 1 + 2) = true)) ∧
    ((0 < w48322.cop.nandSpare) ∧ (State.dieRuns w48322 = true)) ∧
    ((w1787754.cop.nandSpare = 0) ∧ (State.dieRuns w1787754 = true)) := by
  refine ⟨?_, ?_, ?_, ?_, ?_, ?_, ?_, ?_, ?_⟩ <;>
    decide +kernel

end W13

namespace W14

abbrev routed : State := r0
def rdy (q : List Desc) (s : State) : State := {s with rcd := {s.rcd with queue := q, next := 5, head := 64}, pw := {s.pw with start := {s.pw.start with recStart := true, applied := true}}}.wr REC_STAT_STATE 1 |>.wr KEY_STAT_STATE 2 |>.wr REC_STG_BYTES 64
def hwd (c : Nat) : Desc := .hw c 5 33 0xFFFF 1 2 8000 true
def fwb : List Byte := [32,0,4,0,0,0x77] ++ List.replicate 26 3
def R (s : State) : State := s.putBytes (sramBase + 0x100) fwb |>.wr (REC_Hh_ADDR_OFF 3) 0x20
def x0 : Staged := ⟨4, 3, 32, List.replicate 64 1, false⟩
def fls (s : State) : State := {s with rcd := {s.rcd with flush := some ⟨true, 1000, 64⟩, staged := [x0], pages := 65}}
def nr (n : Nat) : NandRec := ⟨n, 3, List.replicate 40 9⟩
def rng (s : State) : State := {s with rcd := {s.rcd with rings := [nr 7, nr 8, nr 9]}} |>.wr REC_RD_SEQ_LO 8 |>.wr REC_RD_LEN_LEN 2
def rdr : ReadRun := ⟨8, false, 0, 64, []⟩
def rdg (s : State) : State := {s with rcd := {s.rcd with read := some rdr}}
def Rb (s : State) : State := s.putBytes (sramBase + 0x100) (List.replicate 8 0) |>.wr (REC_Hh_ADDR_OFF 3) 0x20
def brow (s : State) : State := s.setErr 2 0x78001 (1+2*2^8+3*2^16+4*2^24+ 5*2^32+6*2^40+7*2^48)
def hwc (s : State) : State := {s with rcd := {s.rcd with heart := [nr 1]}, pw := {s.pw with start := {s.pw.start with applied := true}}}.wr KEY_STAT_STATE 1 |>.wr REC_LAYOUT_HWN 1
def rdrg : ReadRun := ⟨5, false, 0, 64, [nr 5, nr 6]⟩
def w8329173 : State := (rdy [hwd 3] routed)
def w6660022 : State := (rdy [hwd 1] routed)
def w6028231 : State := (rdy [hwd 3] routed |>.wr REC_STG_BYTES 0xFC000)
def w5558738 : State := (R (rdy [.fw 3 0x100 32 4] routed))
def w2351363 : State := ((rdy [] routed))
def w469003 : State := (fls (rdy [] routed))
def w4442976 : State := (rng (rdy [] routed))
def w350527 : State := (rdg (rng (rdy [] routed)))
def w909273 : State := (routed.wr KEY_STAT_STATE 2)
def w3022047 : State := ((rdy [] routed).wr (STD_Sk_STAT_STATE 2) 0)
def w3564681 : State := (Rb (rdy [] routed))
def w3573043 : State := (brow (fls (rdy [] routed)))
def w2510553 : State := (hwc routed)
def w3491550 : State := ({rdy [] routed with rcd := {(rdy [] routed).rcd with wrote := [(0, 86400000*1600)]}})
def w7685240 : State := ({fls (rdy [] routed) with rcd := {(fls (rdy [] routed)).rcd with flush := some ⟨true, 1000, 40⟩}})
def w7248143 : State := ({rng (rdy [] routed) with rcd := {(rng (rdy [] routed)).rcd with read := some rdrg}})
def w7785046 : State := (R (rdy [.fw 3 0x100 32 4] routed)|>.setErr 2 8 (1+2*2^8+3*2^16+4*2^24+ 5*2^32+6*2^40+7*2^48))

theorem witness_RecorderWork :
    ((w8329173.rcd.queue = [Desc.hw 3 5 33 65535 1 2 8000 true]) ∧ (State.mayAccept w8329173 = true) ∧ (State.rd
      w8329173 REC_STAT_OVERLOAD = 0) ∧ (w8329173.rcd.drops = none) ∧ (NoSoft w8329173) ∧ (State.rd w8329173
      REC_STG_BYTES + 40 ≤ 1048576 - 16384) ∧ (State.rd w8329173 REC_STG_BYTES + 40 < 524288) ∧ (3 ≠ 1) ∧ (3 ≠ 2)) ∧
    ((w6660022.rcd.queue = [Desc.hw 1 5 33 65535 1 2 8000 true]) ∧ (State.mayAccept w6660022 = true) ∧ (State.rd
      w6660022 REC_STAT_OVERLOAD = 0) ∧ (w6660022.rcd.drops = none) ∧ (NoSoft w6660022) ∧ (State.rd w6660022
      REC_STG_BYTES + 40 ≤ 1048576 - 16384) ∧ (1 = 1 ∨ 1 = 2) ∧ (w6660022.rcd.flush = none)) ∧
    ((w6028231.rcd.queue = [Desc.hw 3 5 33 65535 1 2 8000 true]) ∧ (State.mayAccept w6028231 = true) ∧ (State.rd
      w6028231 REC_STAT_OVERLOAD = 0) ∧ (w6028231.rcd.drops = none) ∧ (reservedClass 3 = false) ∧ (1048576 - 16384
      < State.rd w6028231 REC_STG_BYTES + 40) ∧ (524288 ≤ State.rd w6028231 REC_STG_BYTES) ∧ (5 < 64) ∧ (3 < 16)) ∧
    ((w5558738.rcd.queue = [Desc.fw 3 256 32 4]) ∧ (State.mayAccept w5558738 = true) ∧ (State.rd w5558738
      REC_STAT_OVERLOAD = 0) ∧ (w5558738.rcd.drops = none) ∧ (NoSoft w5558738) ∧ (24 ≤ 32) ∧ (32 ≤ 4096) ∧ (true =
      true) ∧ (RangeSound w5558738 (sramBase + 256) 32)) ∧
    ((w7785046.rcd.queue = [Desc.fw 3 256 32 4]) ∧ (State.mayAccept w7785046 = true) ∧ (State.rd w7785046
      REC_STAT_OVERLOAD = 0) ∧ (w7785046.rcd.drops = none) ∧ (NoSoft w7785046) ∧ (24 ≤ 32) ∧ (32 ≤ 4096) ∧
      (State.rangeRows w7785046 (sramBase + 256) 32 = [(2, 8)]) ∧ (State.rowBad w7785046 2 8 = true) ∧
      (State.isTestRow w7785046 2 8 = false)) := by
  refine ⟨⟨?_, ?_, ?_, ?_, ?_, ?_, ?_, ?_, ?_⟩, ⟨?_, ?_, ?_, ?_, ?_, ?_, ?_, ?_⟩, ?_, ⟨?_, ?_, ?_, ?_, ?_, ?_, ?_,
    ?_, ?_⟩, ⟨?_, ?_, ?_, ?_, ?_, ?_, ?_, ?_, ?_, ?_⟩⟩ <;>
    first
      | decide +kernel
      | (simp only [LeGoes, BitOk, WordOk, InstOk, DataSound, FetchSound, EngineSound, RangeSound, Recording, NoSoft, not_and]; decide +kernel)

theorem witness_RecorderWork_2 :
    ((w5558738.rcd.queue = [Desc.fw 3 256 32 4]) ∧ (State.mayAccept w5558738 = true) ∧ (State.rd w5558738
      REC_STAT_OVERLOAD = 0) ∧ (w5558738.rcd.drops = none) ∧ (NoSoft w5558738) ∧ (24 ≤ 32) ∧ (32 ≤ 4096) ∧ (false =
      false) ∧ (RangeSound w5558738 (sramBase + 256) 32) ∧ (State.rd w5558738 REC_STG_BYTES + 32 < 524288) ∧ (4 ≠
      1) ∧ (4 ≠ 2)) ∧
    ((State.hartRuns w3022047 2 = false)) ∧
    ((State.hartRuns w469003 2 = true) ∧ ((2 : Fin 12) ≠ (3 : Fin 12))) ∧
    ((State.hartRuns w3564681 3 = true) ∧ (State.deviceOpen w3564681 3 281018368 = true) ∧ (State.submitErr
      w3564681 3 (8 * State.rd w3564681 (REC_Hh_ADDR_OFF 3)) ≠ 0)) ∧
    ((State.hartRuns w5558738 3 = true) ∧ (State.deviceOpen w5558738 3 281018368 = true) ∧ (State.submitErr
      w5558738 3 (8 * State.rd w5558738 (REC_Hh_ADDR_OFF 3)) = 0) ∧ (Recording w5558738 1)) ∧
    ((w2351363.rcd.flush = none) ∧ (0 < State.rd w2351363 REC_STG_BYTES) ∧ (w2351363.rcd.lastFlushEnd + 1000000000
      ≤ 1000009000)) ∧
    ((Option.isSome w350527.rcd.flush = true ∨ State.rd w350527 REC_STG_BYTES = 0 ∨ 9000 < w350527.rcd.lastFlushEnd
      + 1000000000)) ∧
    ((w469003.rcd.flush = some { untilEmpty := true, began := 1000, size := 64 }) ∧ (w469003.rcd.resetting = false)
      ∧ (w469003.rcd.staged = [x0]) ∧ (w469003.rcd.cut = 0) ∧ (List.length x0.bytes = State.rd w469003
      REC_STG_BYTES) ∧ (0 < State.rd w469003 REC_STG_BYTES) ∧ (State.rd w469003 REC_STG_BYTES ≤ 4096) ∧
      (w469003.rcd.drops = none) ∧ (64 ≤ State.rd w469003 REC_STG_BYTES) ∧ (0 < 64) ∧ (State.stagingErr w469003 =
      []) ∧ (x0.heart = false) ∧ (w469003.rcd.heart = []) ∧ (w469003.rcd.pages % 64 ≠ 0) ∧ (64 = State.rd w469003
      REC_STG_BYTES)) := by
  refine ⟨⟨?_, ?_, ?_, ?_, ?_, ?_, ?_, ?_, ?_, ?_, ?_, ?_⟩, ?_, ?_, ?_, ⟨?_, ?_, ?_, ?_⟩, ?_, ?_, ⟨?_, ?_, ?_, ?_,
    ?_, ?_, ?_, ?_, ?_, ?_, ?_, ?_, ?_, ?_, ?_⟩⟩ <;>
    first
      | decide +kernel
      | (simp only [LeGoes, BitOk, WordOk, InstOk, DataSound, FetchSound, EngineSound, RangeSound, Recording, NoSoft, not_and]; decide +kernel)

theorem witness_RecorderWork_3 :
    ((w7685240.rcd.flush = some { untilEmpty := true, began := 1000, size := 40 }) ∧ (w7685240.rcd.resetting =
      false) ∧ (w7685240.rcd.staged = [x0]) ∧ (w7685240.rcd.cut = 0) ∧ (List.length x0.bytes = State.rd w7685240
      REC_STG_BYTES) ∧ (0 < State.rd w7685240 REC_STG_BYTES) ∧ (State.rd w7685240 REC_STG_BYTES ≤ 4096) ∧
      (w7685240.rcd.drops = none) ∧ (40 ≤ State.rd w7685240 REC_STG_BYTES) ∧ (0 < 40) ∧ (State.stagingErr w7685240
      = []) ∧ (x0.heart = false) ∧ (w7685240.rcd.heart = []) ∧ (w7685240.rcd.pages % 64 ≠ 0) ∧ (40 < State.rd
      w7685240 REC_STG_BYTES) ∧ (true = true)) ∧
    ((w469003.rcd.flush = some { untilEmpty := true, began := 1000, size := 64 }) ∧ (w469003.rcd.resetting = false)
      ∧ (w469003.rcd.staged = [x0]) ∧ (w469003.rcd.cut = 0) ∧ (List.length x0.bytes = State.rd w469003
      REC_STG_BYTES) ∧ (0 < State.rd w469003 REC_STG_BYTES) ∧ (State.rd w469003 REC_STG_BYTES ≤ 4096) ∧
      (w469003.rcd.drops = none) ∧ (64 ≤ State.rd w469003 REC_STG_BYTES) ∧ (0 < 64) ∧ (inRow 1 x0 = true) ∧
      (w469003.pw.phase ≠ RunPhase.flush) ∧ (x0.seq < w469003.rcd.next)) ∧
    ((w3573043.rcd.flush = some { untilEmpty := true, began := 1000, size := 64 }) ∧ (w3573043.rcd.resetting =
      false) ∧ (w3573043.rcd.staged = [x0]) ∧ (w3573043.rcd.cut = 0) ∧ (List.length x0.bytes = State.rd w3573043
      REC_STG_BYTES) ∧ (0 < State.rd w3573043 REC_STG_BYTES) ∧ (State.rd w3573043 REC_STG_BYTES ≤ 4096) ∧
      (w3573043.rcd.drops = none) ∧ (64 ≤ State.rd w3573043 REC_STG_BYTES) ∧ (0 < 64) ∧ (inRow 1 x0 = true) ∧
      (w3573043.pw.phase ≠ RunPhase.flush) ∧ (x0.seq < w3573043.rcd.next) ∧ (1 ∈ State.stagingErr w3573043) ∧
      (State.rowBad w3573043 2 (stagingOff / 32 + 1) = true)) := by
  refine ⟨⟨?_, ?_, ?_, ?_, ?_, ?_, ?_, ?_, ?_, ?_, ?_, ?_, ?_, ?_, ?_, ?_⟩, ⟨?_, ?_, ?_, ?_, ?_, ?_, ?_, ?_, ?_,
    ?_, ?_, ?_, ?_⟩, ⟨?_, ?_, ?_, ?_, ?_, ?_, ?_, ?_, ?_, ?_, ?_, ?_, ?_, ?_, ?_⟩⟩ <;>
    decide +kernel

theorem witness_RecorderWork_4 :
    ((State.readErr w469003 false (State.rd64 w469003 REC_RD_SEQ_LO REC_RD_SEQ_HI) (32 * State.rd w469003
      REC_RD_DST_OFF) (32 * State.rd w469003 REC_RD_LEN_LEN) ≠ 0) ∧ (w469003.pw.phase = RunPhase.running)) ∧
    ((State.readErr w4442976 false (State.rd64 w4442976 REC_RD_SEQ_LO REC_RD_SEQ_HI) (32 * State.rd w4442976
      REC_RD_DST_OFF) (32 * State.rd w4442976 REC_RD_LEN_LEN) = 0) ∧ (w4442976.pw.phase = RunPhase.running)) ∧
    ((w350527.rcd.read = some rdr) ∧ (NoSoft w350527) ∧ (0 ≠ 3) ∧ (0 ≠ 4) ∧ (List.length rdr.gone ≤ 1)) ∧
    ((w7248143.rcd.read = some rdrg) ∧ (NoSoft w7248143) ∧ (0 ≠ 4) ∧ (1 < List.length rdrg.gone)) ∧
    ((w350527.rcd.read = some rdr) ∧ (NoSoft w350527) ∧ (4 = 4 ∨ 4 = 3 ∧ rdr.gone = [])) ∧
    ((w469003.rcd.read = none) ∧ (w469003.pw.phase = RunPhase.running)) ∧
    ((w909273.pw.start.recStart = false) ∧ (State.rd w909273 KEY_STAT_STATE ≠ 0) ∧ (w909273.rcd.early = 0) ∧
      (w909273.pw.phase = RunPhase.running) ∧ (w909273.pw.exhausted = false) ∧ (w909273.rcd.rings = []) ∧
      (w909273.rcd.own = []) ∧ (NoSoft w909273) ∧ (State.rd w909273 REC_STG_BYTES + 32 < 524288) ∧ (State.rd
      w909273 KEY_STAT_STATE ≠ 1 ∨ w909273.rcd.heartClosed = true ∨ List.length w909273.rcd.heart < State.hwn
      w909273)) ∧
    ((w2510553.pw.start.recStart = false) ∧ (State.rd w2510553 KEY_STAT_STATE ≠ 0) ∧ (w2510553.rcd.early = 0) ∧
      (w2510553.pw.phase = RunPhase.running) ∧ (w2510553.pw.exhausted = false) ∧ (w2510553.rcd.rings = []) ∧
      (w2510553.rcd.own = []) ∧ (NoSoft w2510553) ∧ (State.rd w2510553 REC_STG_BYTES + 64 < 524288) ∧ (State.rd
      w2510553 KEY_STAT_STATE = 1) ∧ (w2510553.rcd.heartClosed = false) ∧ (State.hwn w2510553 ≤ List.length
      w2510553.rcd.heart)) ∧
    (((List.sum (List.map (fun (x : ℕ × ℕ) => x.2) (List.filter (fun (y : ℕ × ℕ) => decide ((9000 / 60000000000 :
      ℕ) < y.1 + 1440)) w350527.rcd.wrote)) + if (9000 / 60000000000 : ℕ) < 1440 then 0 else min 32 (tblGet 0
      ((9000 / 60000000000 : ℕ) - 1440) w350527.rcd.wrote)) / 86400000 ≤ 1500) ∧ (w350527.pw.phase =
      RunPhase.running)) ∧
    ((1500 < (List.sum (List.map (fun (x : ℕ × ℕ) => x.2) (List.filter (fun (y : ℕ × ℕ) => decide ((9000 /
      60000000000 : ℕ) < y.1 + 1440)) w3491550.rcd.wrote)) + if (9000 / 60000000000 : ℕ) < 1440 then 0 else min 32
      (tblGet 0 ((9000 / 60000000000 : ℕ) - 1440) w3491550.rcd.wrote)) / 86400000) ∧ (State.rd w3491550
      REC_STAT_RATEHI = 0) ∧ (w3491550.pw.phase = RunPhase.running)) := by
  refine ⟨?_, ?_, ⟨?_, ?_, ?_, ?_, ?_⟩, ⟨?_, ?_, ?_, ?_⟩, ⟨?_, ?_, ?_⟩, ?_, ⟨?_, ?_, ?_, ?_, ?_, ?_, ?_, ?_, ?_,
    ?_⟩, ⟨?_, ?_, ?_, ?_, ?_, ?_, ?_, ?_, ?_, ?_, ?_, ?_⟩, ?_, ?_⟩ <;>
    first
      | decide +kernel
      | (simp only [LeGoes, BitOk, WordOk, InstOk, DataSound, FetchSound, EngineSound, RangeSound, Recording, NoSoft, not_and]; decide +kernel)

end W14

namespace W15

abbrev routed : State := r0
def eng (e n : Nat) (s : State) : State := (((s.wr (LE_Ee_STAT_STATE e) leRunning).wr (LE_Ee_LANES_LANEA e) 0).wr (LE_Ee_LANES_LANEB e) 1).wr (LE_Ee_LANES_LANEC e) n
def E (s : State) : State := {(eng 1 2 (eng 2 2 s)) with pw := {s.pw with failing := true, t0 := 4000, start := {s.pw.start with ready := true, wasReady := true, applied := true}}}
def F (q : Nat) (n : List Nat) (s : State) : State := {(E s) with pw := {(E s).pw with phase := .flush, seqr := q, seqNext := n}, rcd := {s.rcd with pages := 66, next := 9}}
def l0 : LowPower := ⟨false, 100, false, false, false, false⟩
def ld (s : State) : State := {s with pw := {s.pw with start := {s.pw.start with ready := true, wasReady := true, applied := true}}}.wr KEY_STAT_STATE 1 |>.wr PWR_WTIMER_LO 0xFFFFFFFF |>.wr PWR_WTIMER_HI 0xFFFFFFFF |> fun s => (List.range 4).foldl (fun s k => s.wr (STD_Sk_STAT_STATE k) stRunning) s
def P (u m : Nat) (s : State) : State := ((ld s).wr PWR_POL_MAXUNIT u).wr PWR_POL_MAXMOD m |>.wr PWR_POL_GUARD 10
def ed (s : State) : State := {s with pmg := {s.pmg with edges := [(0,4),(1,4),(2,4)]}}
def lw (l : LowPower) (s : State) : State := {s with pmg := {s.pmg with low := some l}}
def w277232 : State := (E routed)
def w9746202 : State := (F 1 [18] routed)
def w3300553 : State := (F 2 [] routed)
def w3173171 : State := (P 2 1 routed)
def w7024850 : State := (P 1 1 routed)
def w525586 : State := (P 1 0 routed)
def w6731084 : State := (P 1 2 routed)
def w2654624 : State := ((P 1 2 routed).wr (PWR_UNIT_UNIT 1) 1|>.setStand 1 {standInit with wakeAt := some 8000, wfi := true})
def w886616 : State := ((P 1 2 routed).wr (PWR_UNIT_UNIT 1) 2|>.setStand 1 {standInit with wakeAt := some 8000, wfi := true})
def w6619351 : State := (ed (lw l0 (P 1 2 routed) |>.wr PWR_WAKE_EN 4))
def w5174956 : State := (ed (lw ⟨false, 100,true,true,true,false⟩ (P 1 2 routed) |>.wr PWR_WAKE_EN 4|>.wr PWR_STAT_STATE 2))
def w6582356 : LowPower := ⟨false, 100,true,true,true,false⟩
def w2988317 : State := (ed {(P 1 2 routed) with pw := {routed.pw with phase := .hibernate}} |>.wr PWR_WAKE_EN 2|>.wr PWR_STAT_STATE 2)
def w2815106 : State := ({(P 1 2 routed) with pw := {routed.pw with phase := .running}} |>.wr PWR_WAKE_EN 2|>.wr PWR_STAT_STATE 3)
def w7156869 : State := (P 2 1 routed |>.wr (STD_Sk_MTIMECMPl_LO 1 0) 5|>.wr (STD_Sk_MTIMECMPl_HI 1 0) 0)
def w840768 : State := (ed (lw l0 (P 1 2 routed) |>.wr PWR_WAKE_EN 4|>.wr (LE_Ee_STAT_STATE 2) leRunning))
def w6827584 : State := (P 1 1 routed |>.wr PWR_STAT_POLERR 1)
def w120387 : State := (P 1 1 routed |>.wr BIST_STAT_BUSY 1)

theorem witness_FlushMode :
    ((w277232.pw.failing = true) ∧ (w277232.pw.phase = RunPhase.running) ∧ (w277232.pw.start.wasReady = true) ∧
      (w277232.pw.t0 + 10000000 ≤ 10004000 ∨ 4000 ≤ 3800)) ∧
    ((¬(w277232.pw.failing = true ∧ w277232.pw.phase = RunPhase.running ∧ w277232.pw.start.wasReady = true ∧
      (w277232.pw.t0 + 10000000 ≤ 10003999 ∨ 4000 ≤ 3800)))) ∧
    ((w9746202.pw.phase = RunPhase.flush) ∧ (w9746202.pw.seqr ≠ 255) ∧ (w9746202.pw.seqr % 16 < 4) ∧
      (w9746202.pw.seqNext = [18]) ∧ (18 % 16 < 4)) ∧
    ((w3300553.pw.phase = RunPhase.flush) ∧ (w3300553.pw.seqr ≠ 255) ∧ (w3300553.pw.seqr % 16 < 4) ∧
      (w3300553.pw.seqNext = [])) ∧
    ((w277232.pw.phase ≠ RunPhase.flush ∨ w277232.pw.seqr = 255)) ∧
    ((w9746202.pw.phase = RunPhase.flush) ∧ (State.rd w9746202 REC_STG_BYTES = 0) ∧ (w9746202.rcd.pages % 64 ≠ 0)) ∧
    ((w277232.pw.phase ≠ RunPhase.flush ∨ State.rd w277232 REC_STG_BYTES ≠ 0)) := by
  refine ⟨?_, ?_, ?_, ?_, ?_, ?_, ?_⟩ <;>
    decide +kernel

theorem witness_PowerStates :
    ((State.standUp w7156869 1 = true) ∧ (State.standState w7156869 1 = stRunning) ∧ (State.rd w7156869
      (PWR_UNIT_UNIT 1) = 0) ∧ ((State.stand w7156869 1).request = none) ∧ ((State.stand w7156869 1).run = none) ∧
      (1 ≠ 0) ∧ (State.standCalled (State.setStand (State.begin w7156869 9000) 1
      { formed := (State.stand w7156869 1).formed, reserve := (State.stand w7156869 1).reserve, request := (State.stand w7156869 1).request, run := (State.stand w7156869 1).run, wfi := true, agreed := (State.stand w7156869 1).agreed, outvoted := (State.stand w7156869 1).outvoted, mext := (State.stand w7156869 1).mext, sext := (State.stand w7156869 1).sext, mtimer := (State.stand w7156869 1).mtimer, mtimerB := (State.stand w7156869 1).mtimerB, mtimerC := (State.stand w7156869 1).mtimerC, haltReq := (State.stand w7156869 1).haltReq, replay := (State.stand w7156869 1).replay, resetting := (State.stand w7156869 1).resetting, wakeAt := (State.stand w7156869 1).wakeAt, entry := (State.stand w7156869 1).entry, splitEntry := (State.stand w7156869 1).splitEntry, asleep := (State.stand w7156869 1).asleep, slow := (State.stand w7156869 1).slow, arch := (State.stand w7156869 1).arch })
      1 = true ∨ State.justPended (State.begin w7156869 9000) 1 = true)) ∧
    ((State.standUp w3173171 1 = true) ∧ (State.standState w3173171 1 = stRunning) ∧ (State.rd w3173171
      (PWR_UNIT_UNIT 1) = 0) ∧ ((State.stand w3173171 1).request = none) ∧ ((State.stand w3173171 1).run = none) ∧
      (1 ≠ 0) ∧ (State.standCalled (State.setStand (State.begin w3173171 9000) 1
      { formed := (State.stand w3173171 1).formed, reserve := (State.stand w3173171 1).reserve, request := (State.stand w3173171 1).request, run := (State.stand w3173171 1).run, wfi := true, agreed := (State.stand w3173171 1).agreed, outvoted := (State.stand w3173171 1).outvoted, mext := (State.stand w3173171 1).mext, sext := (State.stand w3173171 1).sext, mtimer := (State.stand w3173171 1).mtimer, mtimerB := (State.stand w3173171 1).mtimerB, mtimerC := (State.stand w3173171 1).mtimerC, haltReq := (State.stand w3173171 1).haltReq, replay := (State.stand w3173171 1).replay, resetting := (State.stand w3173171 1).resetting, wakeAt := (State.stand w3173171 1).wakeAt, entry := (State.stand w3173171 1).entry, splitEntry := (State.stand w3173171 1).splitEntry, asleep := (State.stand w3173171 1).asleep, slow := (State.stand w3173171 1).slow, arch := (State.stand w3173171 1).arch })
      1 = false) ∧ (State.justPended (State.begin w3173171 9000) 1 = false) ∧ (State.rd w3173171 PWR_POL_MAXUNIT =
      2) ∧ (State.bit w3173171 STD_OPT_SAFEROLE 1 = false) ∧ (Option.all (fun (d : ℕ) => decide (9000 + State.rd
      w3173171 PWR_POL_GUARD * 1000 + 208000 ≤ d)) (State.standNext (State.setStand (State.begin w3173171 9000) 1
      { formed := (State.stand w3173171 1).formed, reserve := (State.stand w3173171 1).reserve, request := (State.stand w3173171 1).request, run := (State.stand w3173171 1).run, wfi := true, agreed := (State.stand w3173171 1).agreed, outvoted := (State.stand w3173171 1).outvoted, mext := (State.stand w3173171 1).mext, sext := (State.stand w3173171 1).sext, mtimer := (State.stand w3173171 1).mtimer, mtimerB := (State.stand w3173171 1).mtimerB, mtimerC := (State.stand w3173171 1).mtimerC, haltReq := (State.stand w3173171 1).haltReq, replay := (State.stand w3173171 1).replay, resetting := (State.stand w3173171 1).resetting, wakeAt := (State.stand w3173171 1).wakeAt, entry := (State.stand w3173171 1).entry, splitEntry := (State.stand w3173171 1).splitEntry, asleep := (State.stand w3173171 1).asleep, slow := (State.stand w3173171 1).slow, arch := (State.stand w3173171 1).arch })
      1) = true)) ∧
    ((State.standUp w7024850 1 = true) ∧ (State.standState w7024850 1 = stRunning) ∧ (State.rd w7024850
      (PWR_UNIT_UNIT 1) = 0) ∧ ((State.stand w7024850 1).request = none) ∧ ((State.stand w7024850 1).run = none) ∧
      (1 ≠ 0) ∧ (State.standCalled (State.setStand (State.begin w7024850 9000) 1
      { formed := (State.stand w7024850 1).formed, reserve := (State.stand w7024850 1).reserve, request := (State.stand w7024850 1).request, run := (State.stand w7024850 1).run, wfi := true, agreed := (State.stand w7024850 1).agreed, outvoted := (State.stand w7024850 1).outvoted, mext := (State.stand w7024850 1).mext, sext := (State.stand w7024850 1).sext, mtimer := (State.stand w7024850 1).mtimer, mtimerB := (State.stand w7024850 1).mtimerB, mtimerC := (State.stand w7024850 1).mtimerC, haltReq := (State.stand w7024850 1).haltReq, replay := (State.stand w7024850 1).replay, resetting := (State.stand w7024850 1).resetting, wakeAt := (State.stand w7024850 1).wakeAt, entry := (State.stand w7024850 1).entry, splitEntry := (State.stand w7024850 1).splitEntry, asleep := (State.stand w7024850 1).asleep, slow := (State.stand w7024850 1).slow, arch := (State.stand w7024850 1).arch })
      1 = false) ∧ (State.justPended (State.begin w7024850 9000) 1 = false) ∧ (State.rd w7024850 PWR_POL_MAXUNIT =
      1 ∨ State.rd w7024850 PWR_POL_MAXUNIT = 2 ∧ State.bit w7024850 STD_OPT_SAFEROLE 1 = true) ∧ (Option.all (fun
      (d : ℕ) => decide (9000 + State.rd w7024850 PWR_POL_GUARD * 1000 + 2100 ≤ d)) (State.standNext
      (State.setStand (State.begin w7024850 9000) 1
      { formed := (State.stand w7024850 1).formed, reserve := (State.stand w7024850 1).reserve, request := (State.stand w7024850 1).request, run := (State.stand w7024850 1).run, wfi := true, agreed := (State.stand w7024850 1).agreed, outvoted := (State.stand w7024850 1).outvoted, mext := (State.stand w7024850 1).mext, sext := (State.stand w7024850 1).sext, mtimer := (State.stand w7024850 1).mtimer, mtimerB := (State.stand w7024850 1).mtimerB, mtimerC := (State.stand w7024850 1).mtimerC, haltReq := (State.stand w7024850 1).haltReq, replay := (State.stand w7024850 1).replay, resetting := (State.stand w7024850 1).resetting, wakeAt := (State.stand w7024850 1).wakeAt, entry := (State.stand w7024850 1).entry, splitEntry := (State.stand w7024850 1).splitEntry, asleep := (State.stand w7024850 1).asleep, slow := (State.stand w7024850 1).slow, arch := (State.stand w7024850 1).arch })
      1) = true)) ∧
    ((State.standUp w886616 1 = false ∨ State.standState w886616 1 ≠ stRunning ∨ State.rd w886616 (PWR_UNIT_UNIT 1)
      ≠ 0)) ∧
    ((State.standUp w2654624 1 = true) ∧ ((State.stand w2654624 1).wakeAt = some 8000 ∧ 8000 ≤ 9000 ∨
      State.newlyPended w2654624 1 = true) ∧ (1 ≠ 0) ∧ (State.rd w2654624 (PWR_UNIT_UNIT 1) = 1)) ∧
    ((State.standUp w886616 1 = true) ∧ ((State.stand w886616 1).wakeAt = some 8000 ∧ 8000 ≤ 9000 ∨
      State.newlyPended w886616 1 = true) ∧ (1 ≠ 0) ∧ (State.rd w886616 (PWR_UNIT_UNIT 1) = 2) ∧ (State.standState
      w886616 1 ≠ stFailed) ∧ ((State.stand w886616 1).run = none)) ∧
    (((State.stand w525586 0).wakeAt = none) ∧ ((State.stand w525586 0).request = none) ∧ (State.standCalled
      (State.begin w525586 9000) 0 = false) ∧ (State.newlyPended w525586 0 = false)) ∧
    ((State.hartRuns w886616 1 = false)) := by
  refine ⟨?_, ?_, ?_, ?_, ?_, ?_, ?_, ?_⟩ <;>
    decide +kernel

theorem witness_PowerStates_2 :
    ((State.hartRuns w3173171 1 = true) ∧ (1 ≠ 0)) ∧
    ((0 = 0) ∧ (State.hartRuns w525586 0 = true) ∧ (w525586.fwu.run = none) ∧ ((if State.loaded w525586 = false ∨
      State.rd w525586 PWR_STAT_POLERR = 1 then 5 else if State.rd w525586 PWR_POL_MAXMOD < if false = true then 2
      else 1 then 1 else if State.lowBlocked w525586 = true ∨ Option.isSome w525586.pmg.low = true then 2 else if
      State.wakePending (State.begin w525586 9000) false = true then 4 else 0) ≠ 0)) ∧
    ((0 = 0) ∧ (State.hartRuns w525586 0 = true) ∧ (w525586.fwu.run = none) ∧ ((if State.loaded w525586 = false ∨
      State.rd w525586 PWR_STAT_POLERR = 1 then 5 else if State.rd w525586 PWR_POL_MAXMOD < if true = true then 2
      else 1 then 1 else if State.lowBlocked w525586 = true ∨ Option.isSome w525586.pmg.low = true then 2 else if
      State.wakePending (State.begin w525586 9000) true = true then 4 else 0) ≠ 0)) ∧
    ((0 = 0) ∧ (State.hartRuns w6827584 0 = true) ∧ (w6827584.fwu.run = none) ∧ ((if State.loaded w6827584 = false
      ∨ State.rd w6827584 PWR_STAT_POLERR = 1 then 5 else if State.rd w6827584 PWR_POL_MAXMOD < if false = true
      then 2 else 1 then 1 else if State.lowBlocked w6827584 = true ∨ Option.isSome w6827584.pmg.low = true then 2
      else if State.wakePending (State.begin w6827584 9000) false = true then 4 else 0) = 5)) ∧
    ((0 = 0) ∧ (State.hartRuns w6731084 0 = true) ∧ (w6731084.fwu.run = none) ∧ ((if State.loaded w6731084 = false
      ∨ State.rd w6731084 PWR_STAT_POLERR = 1 then 5 else if State.rd w6731084 PWR_POL_MAXMOD < if true = true then
      2 else 1 then 1 else if State.lowBlocked w6731084 = true ∨ Option.isSome w6731084.pmg.low = true then 2 else
      if State.wakePending (State.begin w6731084 9000) true = true then 4 else 0) = 0) ∧ (2 ≤ State.rd w6731084
      PWR_POL_MAXMOD) ∧ (Option.all (fun (d : ℕ) => decide (9000 + State.rd w6731084 PWR_POL_GUARD * 1000 +
      (120000000 + State.hibExitMax w6731084) ≤ d)) (State.moduleNext w6731084) = true) ∧ ((State.fwSlot w6731084
      0).state ≠ 3) ∧ ((State.fwSlot w6731084 1).state ≠ 3)) ∧
    ((0 = 0) ∧ (State.hartRuns w7024850 0 = true) ∧ (w7024850.fwu.run = none) ∧ ((if State.loaded w7024850 = false
      ∨ State.rd w7024850 PWR_STAT_POLERR = 1 then 5 else if State.rd w7024850 PWR_POL_MAXMOD < if false = true
      then 2 else 1 then 1 else if State.lowBlocked w7024850 = true ∨ Option.isSome w7024850.pmg.low = true then 2
      else if State.wakePending (State.begin w7024850 9000) false = true then 4 else 0) = 0) ∧ (¬(2 ≤ State.rd
      w7024850 PWR_POL_MAXMOD ∧ Option.all (fun (d : ℕ) => decide (9000 + State.rd w7024850 PWR_POL_GUARD * 1000 +
      (120000000 + State.hibExitMax w7024850) ≤ d)) (State.moduleNext w7024850) = true)) ∧ (1 ≤ State.rd w7024850
      PWR_POL_MAXMOD) ∧ (Option.all (fun (d : ℕ) => decide (9000 + State.rd w7024850 PWR_POL_GUARD * 1000 +
      (90000000 + State.depotNs w7024850) ≤ d)) (State.moduleNext w7024850) = true)) ∧
    ((0 = 0) ∧ (State.hartRuns w840768 0 = true) ∧ (w840768.fwu.run = none) ∧ ((if State.loaded w840768 = false ∨
      State.rd w840768 PWR_STAT_POLERR = 1 then 5 else if State.rd w840768 PWR_POL_MAXMOD < if false = true then 2
      else 1 then 1 else if State.lowBlocked w840768 = true ∨ Option.isSome w840768.pmg.low = true then 2 else if
      State.wakePending (State.begin w840768 9000) false = true then 4 else 0) ≠ 5) ∧ (2 ≤ State.rd w840768
      PWR_POL_MAXMOD) ∧ (Option.all (fun (d : ℕ) => decide (9000 + State.rd w840768 PWR_POL_GUARD * 1000 +
      (120000000 + State.hibExitMax w840768) ≤ d)) (State.moduleNext w840768) = true) ∧ ((if State.loaded w840768 =
      false ∨ State.rd w840768 PWR_STAT_POLERR = 1 then 5 else if State.rd w840768 PWR_POL_MAXMOD < if true = true
      then 2 else 1 then 1 else if State.lowBlocked w840768 = true ∨ Option.isSome w840768.pmg.low = true then 2
      else if State.wakePending (State.begin w840768 9000) true = true then 4 else 0) ≠ 0)) ∧
    ((0 = 0) ∧ (State.hartRuns w120387 0 = true) ∧ (w120387.fwu.run = none) ∧ ((if State.loaded w120387 = false ∨
      State.rd w120387 PWR_STAT_POLERR = 1 then 5 else if State.rd w120387 PWR_POL_MAXMOD < if false = true then 2
      else 1 then 1 else if State.lowBlocked w120387 = true ∨ Option.isSome w120387.pmg.low = true then 2 else if
      State.wakePending (State.begin w120387 9000) false = true then 4 else 0) ≠ 5) ∧ (¬(2 ≤ State.rd w120387
      PWR_POL_MAXMOD ∧ Option.all (fun (d : ℕ) => decide (9000 + State.rd w120387 PWR_POL_GUARD * 1000 + (120000000
      + State.hibExitMax w120387) ≤ d)) (State.moduleNext w120387) = true)) ∧ (1 ≤ State.rd w120387 PWR_POL_MAXMOD)
      ∧ (Option.all (fun (d : ℕ) => decide (9000 + State.rd w120387 PWR_POL_GUARD * 1000 + (90000000 +
      State.depotNs w120387) ≤ d)) (State.moduleNext w120387) = true) ∧ ((if State.loaded w120387 = false ∨
      State.rd w120387 PWR_STAT_POLERR = 1 then 5 else if State.rd w120387 PWR_POL_MAXMOD < if false = true then 2
      else 1 then 1 else if State.lowBlocked w120387 = true ∨ Option.isSome w120387.pmg.low = true then 2 else if
      State.wakePending (State.begin w120387 9000) false = true then 4 else 0) ≠ 0)) := by
  refine ⟨?_, ?_, ?_, ?_, ?_, ?_, ?_, ?_⟩ <;>
    decide +kernel

theorem witness_PowerStates_3 :
    ((0 = 0) ∧ (State.hartRuns w525586 0 = true) ∧ (w525586.fwu.run = none) ∧ ((if State.loaded w525586 = false ∨
      State.rd w525586 PWR_STAT_POLERR = 1 then 5 else if State.rd w525586 PWR_POL_MAXMOD < if false = true then 2
      else 1 then 1 else if State.lowBlocked w525586 = true ∨ Option.isSome w525586.pmg.low = true then 2 else if
      State.wakePending (State.begin w525586 9000) false = true then 4 else 0) ≠ 5) ∧ (¬(2 ≤ State.rd w525586
      PWR_POL_MAXMOD ∧ Option.all (fun (d : ℕ) => decide (9000 + State.rd w525586 PWR_POL_GUARD * 1000 + (120000000
      + State.hibExitMax w525586) ≤ d)) (State.moduleNext w525586) = true)) ∧ (¬(1 ≤ State.rd w525586
      PWR_POL_MAXMOD ∧ Option.all (fun (d : ℕ) => decide (9000 + State.rd w525586 PWR_POL_GUARD * 1000 + (90000000
      + State.depotNs w525586) ≤ d)) (State.moduleNext w525586) = true))) ∧
    ((0 = 0) ∧ (State.hartRuns w525586 0 = true) ∧ (w525586.pmg.low = none ∨ w525586.pmg.low = some l0 ∧
      (l0.reached = true ∨ l0.woken = true))) ∧
    ((w6619351.pmg.low = some l0) ∧ (l0.reached = false) ∧ (l0.woken = false) ∧ (w6619351.pw.phase =
      RunPhase.running) ∧ (State.lowStepDone (State.begin w6619351 9000) l0 = true) ∧ (0 = 0) ∧ (State.hartRuns
      w6619351 0 = true)) ∧
    ((w6619351.pmg.low = some l0) ∧ (l0.reached = false) ∧ (l0.woken = false) ∧ (w6619351.pw.phase =
      RunPhase.running) ∧ (State.lowStepDone (State.begin w6619351 9000) l0 = true) ∧ (State.wakeFires (State.begin
      w6619351 9000) 2 = true) ∧ (l0.hib = false ∨ 2 < 2)) ∧
    ((w840768.pmg.low = some l0) ∧ (l0.reached = false) ∧ (l0.woken = false) ∧ (w840768.pw.phase =
      RunPhase.running) ∧ (State.lowStepDone (State.begin w840768 9000) l0 = false) ∧ (State.wakeFires (State.begin
      w840768 9000) 2 = true) ∧ (l0.hib = false ∨ 2 < 2)) ∧
    ((State.wakeFires (State.begin w525586 9000) 2 = false)) ∧
    ((State.wakeFires (State.begin w5174956 9000) 2 = true) ∧ (w5174956.pw.phase = RunPhase.running) ∧
      (w5174956.pmg.low = some w6582356) ∧ (w6582356.reached = true) ∧ (w6582356.hib = false) ∧ (w6582356.woken =
      false) ∧ (State.rd w5174956 PWR_STAT_STATE = 2)) ∧
    ((State.wakeFires (State.begin w2988317 9000) 1 = true) ∧ (w2988317.pw.phase = RunPhase.hibernate) ∧ (1 < 2)) ∧
    ((State.rd w2815106 PWR_STAT_STATE = 3)) ∧
    ((State.rd w525586 PWR_STAT_STATE ≠ 3)) := by
  refine ⟨?_, ?_, ?_, ?_, ?_, ?_, ?_, ?_, ?_, ?_⟩ <;>
    decide +kernel

end W15

namespace W16

abbrev routed : State := r0
def up (s : State) : State := {s with pw := {s.pw with start := {s.pw.start with firmware := true, applied := true}}}.wr KEY_STAT_STATE 1 |> fun s => (List.range 4).foldl (fun s k => s.wr (STD_Sk_STAT_STATE k) stRunning) s
def sl (k st : Nat) (h : List Byte) (s : State) : State := s.setSlot k ⟨st, 0, h, [], 0⟩
def hd0 : List Byte := List.replicate 20 0 ++ leBytes 4 8000 ++ List.replicate 8168 0
def bt (b : Nat) (s : State) : State := {s with fwu := {s.fwu with booted := some b}}
def rn (op : Nat) (d : List Byte) (s : State) : State := ({s with fwu := {s.fwu with run := some ⟨op, 1, d, 0x1000000, 8000⟩}}.wr FWU_RES_OP op).wr FWU_STAT_BUSY 1
def R (op : Nat) (d : List Byte) : FwRun := ⟨op, 1, d, 0x1000000, 8000⟩
def fr (kind sender dest : Nat) (pay : List Byte) : List Byte := nodeMac dest ++ nodeMac sender ++ [0x88,0xB5, byteOf (1+16*kind), byteOf sender] ++ beBytes 2 3 ++ beBytes 2 4 ++ beBytes 2 0 ++ beBytes 2 pay.length ++ beBytes 2 7 ++ [byteOf dest,0,0,0] ++ pay
def fw (op frag n idx : Nat) (b : List Byte) := fr 6 3 255 (fwPayload op frag n 0 idx b)
def s0 : Seed := ⟨none, [], none, 0, none, []⟩
def sdd (z : Seed) (s : State) : State := {s with fwu := {s.fwu with seed := some z}}
def s1 : Seed := ⟨some 0, [], none, 0, some (5,2,1000), []⟩
abbrev zp : FwPause := ⟨7000, 1, .none⟩
def cnd (s : State) : State := {((((s.wr RNG_STAT_LINK 1).wr RNG_STAT_STATE 1).wr PWR_HOLDUP_STAT_READY 1)) with fwu := {s.fwu with condSince := some 0}}
def hd5 : List Byte := List.replicate 16 0 ++ [5,0,0,0] ++ List.replicate 8172 0
def late (r : FwRun) : FwRun := {r with at_ := 1000008000}
def rl (s : State) : State := {s with fwu := {s.fwu with run := some (late (R 5 []))}}
def ps (s : State) : State := {s with fwu := {s.fwu with pause := some zp}}
def srv (s : State) : State := s.wr FWU_SERVE_EN 1
def pc (i : Nat) : List Byte := leBytes 8 0 ++ leBytes 4 i ++ leBytes 4 4096 ++ List.replicate 4112 0
def pb (i : Nat) : List Byte := leBytes 8 1 ++ leBytes 4 i ++ leBytes 4 4096 ++ List.replicate 4112 0
def w6945052 : State := (up (routed.wr (STD_Sk_STAT_MODE 0) modeSplit))
def w9698293 : List Byte := (fw 1 0 0 0 [])
def w4677830 : State := (up (rn 3 [] routed))
def w6724243 : FwRun := (R 3 [])
def w7592550 : State := (bt 0 (sl 1 4 hd0 (up routed)))
def w971758 : State := (bt 0 (sl 0 4 hd0 (sl 1 1 hd0 (up routed))))
def w598451 : State := (bt 0 (sl 0 4 hd0 (sl 1 1 hd0 ((up routed).wr FWU_ADDR_OFF 0x78000))))
def w4918078 : State := (bt 0 (sl 0 4 hd0 (sl 1 2 hd0 (up routed))))
def w7763448 : State := (cnd (bt 0 (sl 0 5 hd0 (sl 1 3 hd0 (up routed)))))
def w474124 : State := (bt 0 (sl 1 1 hd0 (rn 1 hd0 (up routed))))
def w4763488 : FwRun := (R 1 hd0)
def w2659563 : State := (bt 0 (sl 1 1 hd0 (rn 2 hd0 (up routed))))
def w3131636 : FwRun := (R 2 hd0)
def w4395689 : State := (bt 0 (sl 1 2 hd0 (rn 4 hd0 (up routed))))
def w6413255 : FwRun := (R 4 hd0)
def w7502177 : State := (bt 0 (sl 1 6 hd0 (sl 0 4 hd5 (rn 6 [] (up routed)))))
def w9805112 : FwRun := (R 6 [])
def w8444019 : State := (bt 0 (sl 1 2 hd0 (rn 7 hd0 (up routed))))
def w1038461 : FwRun := (R 7 hd0)
def w1762244 : State := (bt 0 (sl 1 3 hd0 (rn 9 hd0 (up routed))))
def w4323521 : FwRun := (R 9 hd0)
def w5082300 : State := (bt 0 (sl 1 3 hd0 (rn 5 [] (up routed))))
def w1538306 : FwRun := (R 5 [])
def w4216912 : State := (rl (cnd (bt 0 (sl 0 5 hd0 (sl 1 3 hd0 (rn 5 [] (up routed)))))))
def w7075096 : FwRun := (late (R 5 []))
def w2832286 : State := (ps (bt 0 (sl 0 5 hd0 (sl 1 3 hd0 (rn 5 [] (up routed))))))
def w689523 : State := (srv (bt 0 (sl 0 5 hd0 (up routed))))
def w1357523 : List Byte := (fw 3 0 1 0xFFFFFFFF [])
def w1267278 : State := (srv (sl 0 0 [] (up routed)))
def w6956378 : State := {routed with pw := {routed.pw with start := {routed.pw.start with applied := true}}}
def w605485 : List Byte := (fw 1 0 1 0xFFFFFFFF [])
def w1495785 : State := (sdd s0 (sl 1 0 [] routed))
def w5745474 : List Byte := (fw 2 0 1 0xFFFFFFFF [])
def w4328794 : List Byte := (fw 4 0 1 0xFFFFFFFF [])
def w7559262 : State := (sdd s1 routed)
def w8285927 : List Byte := (fw 4 3 1 0xFFFFFFFF [1,2,3])
def w9305836 : State := (bt 0 (sl 1 1 hd0 (rn 2 (pc 0) (up routed))))
def w386365 : FwRun := (R 2 (pc 0))
def w641404 : State := (bt 0 (sl 1 1 hd0 (rn 2 (pb 0) (up routed))))
def w5252860 : FwRun := (R 2 (pb 0))

theorem witness_FirmwareUpdate :
    ((State.hartRuns w6945052 0 = true ∨ State.debugHart w6945052 0 = true) ∧ (w6945052.pw.start.firmware = true) ∧
      (w6945052.fwu.seed = none) ∧ (4 ≤ 0 ∨ State.mode w6945052 (hartStand 0) = modeSplit)) ∧
    ((State.hartRuns w474124 2 = true ∨ State.debugHart w474124 2 = true) ∧ (w474124.pw.start.firmware = true) ∧
      (w474124.fwu.seed = none) ∧ (2 < 4) ∧ (State.mode w474124 (hartStand 2) ≠ modeSplit) ∧ (Option.isSome
      w474124.fwu.run = true)) ∧
    ((State.hartRuns w7592550 2 = true ∨ State.debugHart w7592550 2 = true) ∧ (w7592550.pw.start.firmware = true) ∧
      (w7592550.fwu.seed = none) ∧ (2 < 4) ∧ (State.mode w7592550 (hartStand 2) ≠ modeSplit) ∧ (w7592550.fwu.run =
      none) ∧ ((State.fwSlot w7592550 (State.updateSlot w7592550)).state = 4)) ∧
    ((State.hartRuns w971758 0 = true ∨ State.debugHart w971758 0 = true) ∧ (w971758.pw.start.firmware = true) ∧
      (w971758.fwu.seed = none) ∧ (0 < 4) ∧ (State.mode w971758 (hartStand 0) ≠ modeSplit) ∧ (w971758.fwu.run =
      none) ∧ ((State.fwSlot w971758 (State.updateSlot w971758)).state ≠ 4) ∧ (32 * State.rd w971758 FWU_ADDR_OFF +
      8192 ≤ stagingOff) ∧ (RangeSound w971758 (sramBase + 32 * State.rd w971758 FWU_ADDR_OFF) 8192)) ∧
    ((State.hartRuns w598451 0 = true ∨ State.debugHart w598451 0 = true) ∧ (w598451.pw.start.firmware = true) ∧
      (w598451.fwu.seed = none) ∧ (0 < 4) ∧ (State.mode w598451 (hartStand 0) ≠ modeSplit) ∧ (w598451.fwu.run =
      none) ∧ ((State.fwSlot w598451 (State.updateSlot w598451)).state ≠ 4) ∧ (¬32 * State.rd w598451 FWU_ADDR_OFF
      + 8192 ≤ stagingOff)) ∧
    ((State.hartRuns w598451 0 = true ∨ State.debugHart w598451 0 = true) ∧ (w598451.pw.start.firmware = true) ∧
      (w598451.fwu.seed = none) ∧ (0 < 4) ∧ (State.mode w598451 (hartStand 0) ≠ modeSplit) ∧ (w598451.fwu.run =
      none) ∧ ((State.fwSlot w598451 (State.updateSlot w598451)).state = 1) ∧ (¬32 * State.rd w598451 FWU_ADDR_OFF
      + 4128 ≤ stagingOff)) := by
  refine ⟨?_, ?_, ?_, ⟨?_, ?_, ?_, ?_, ?_, ?_, ?_, ?_, ?_⟩, ?_, ?_⟩ <;>
    first
      | decide +kernel
      | (simp only [LeGoes, BitOk, WordOk, InstOk, DataSound, FetchSound, EngineSound, RangeSound, Recording, NoSoft, not_and]; decide +kernel)

theorem witness_FirmwareUpdate_2 :
    ((State.hartRuns w598451 0 = true ∨ State.debugHart w598451 0 = true) ∧ (w598451.pw.start.firmware = true) ∧
      (w598451.fwu.seed = none) ∧ (0 < 4) ∧ (State.mode w598451 (hartStand 0) ≠ modeSplit) ∧ (w598451.fwu.run =
      none) ∧ ((State.fwSlot w598451 (State.updateSlot w598451)).state ∈ [1, 2]) ∧ (¬32 * State.rd w598451
      FWU_ADDR_OFF + List.length (FwSlot.bitmap (State.fwSlot w598451 (State.updateSlot w598451))) ≤ stagingOff)) ∧
    ((State.hartRuns w971758 0 = true ∨ State.debugHart w971758 0 = true) ∧ (w971758.pw.start.firmware = true) ∧
      (w971758.fwu.seed = none) ∧ (0 < 4) ∧ (State.mode w971758 (hartStand 0) ≠ modeSplit) ∧ (w971758.fwu.run =
      none) ∧ ((State.fwSlot w971758 (State.updateSlot w971758)).state = 1) ∧ (32 * State.rd w971758 FWU_ADDR_OFF +
      4128 ≤ stagingOff) ∧ (RangeSound w971758 (sramBase + 32 * State.rd w971758 FWU_ADDR_OFF) 4128)) ∧
    ((State.hartRuns w971758 0 = true ∨ State.debugHart w971758 0 = true) ∧ (w971758.pw.start.firmware = true) ∧
      (w971758.fwu.seed = none) ∧ (0 < 4) ∧ (State.mode w971758 (hartStand 0) ≠ modeSplit) ∧ (w971758.fwu.run =
      none) ∧ ((State.fwSlot w971758 (State.updateSlot w971758)).state ∈ [1, 2, 3])) ∧
    ((State.hartRuns w4918078 0 = true ∨ State.debugHart w4918078 0 = true) ∧ (w4918078.pw.start.firmware = true) ∧
      (w4918078.fwu.seed = none) ∧ (0 < 4) ∧ (State.mode w4918078 (hartStand 0) ≠ modeSplit) ∧ (w4918078.fwu.run =
      none) ∧ ((State.fwSlot w4918078 (State.updateSlot w4918078)).state = 2)) ∧
    ((State.hartRuns w971758 0 = true ∨ State.debugHart w971758 0 = true) ∧ (w971758.pw.start.firmware = true) ∧
      (w971758.fwu.seed = none) ∧ (0 < 4) ∧ (State.mode w971758 (hartStand 0) ≠ modeSplit) ∧ (w971758.fwu.run =
      none) ∧ (w971758.fwu.booted = some 0) ∧ ((State.fwSlot w971758 0).state = 4)) := by
  refine ⟨?_, ⟨?_, ?_, ?_, ?_, ?_, ?_, ?_, ?_, ?_⟩, ?_, ?_, ?_⟩ <;>
    first
      | decide +kernel
      | (simp only [LeGoes, BitOk, WordOk, InstOk, DataSound, FetchSound, EngineSound, RangeSound, Recording, NoSoft, not_and]; decide +kernel)

theorem witness_FirmwareUpdate_3 :
    ((State.hartRuns w971758 0 = true ∨ State.debugHart w971758 0 = true) ∧ (w971758.pw.start.firmware = true) ∧
      (w971758.fwu.seed = none) ∧ (0 < 4) ∧ (State.mode w971758 (hartStand 0) ≠ modeSplit) ∧ (w971758.fwu.run =
      none) ∧ ((State.fwSlot w971758 (State.updateSlot w971758)).state ∈ [1, 2]) ∧ (32 * State.rd w971758
      FWU_ADDR_OFF + List.length (FwSlot.bitmap (State.fwSlot w971758 (State.updateSlot w971758))) ≤ stagingOff)) ∧
    ((State.hartRuns w7763448 0 = true ∨ State.debugHart w7763448 0 = true) ∧ (w7763448.pw.start.firmware = true) ∧
      (w7763448.fwu.seed = none) ∧ (0 < 4) ∧ (State.mode w7763448 (hartStand 0) ≠ modeSplit) ∧ (w7763448.fwu.run =
      none) ∧ ((State.fwSlot w7763448 (State.updateSlot w7763448)).state = 3)) ∧
    ((State.hartRuns w689523 2 = true ∨ State.debugHart w689523 2 = true) ∧ (w689523.pw.start.firmware = true) ∧
      (w689523.fwu.seed = none) ∧ (2 < 4) ∧ (State.mode w689523 (hartStand 2) ≠ modeSplit) ∧ (w689523.fwu.run =
      none) ∧ ((State.fwSlot w689523 (State.updateSlot w689523)).state ∉ [1, 2, 3])) ∧
    ((State.hartRuns w689523 2 = true ∨ State.debugHart w689523 2 = true) ∧ (w689523.pw.start.firmware = true) ∧
      (w689523.fwu.seed = none) ∧ (2 < 4) ∧ (State.mode w689523 (hartStand 2) ≠ modeSplit) ∧ (w689523.fwu.run =
      none) ∧ (2 ≠ 0)) ∧
    ((State.hartRuns w971758 0 = true ∨ State.debugHart w971758 0 = true) ∧ (w971758.pw.start.firmware = true) ∧
      (w971758.fwu.seed = none) ∧ (0 < 4) ∧ (State.mode w971758 (hartStand 0) ≠ modeSplit) ∧ (w971758.fwu.run =
      none) ∧ (0 = 0) ∧ (w971758.pw.phase = RunPhase.running)) ∧
    ((State.hartRuns w971758 0 = true ∨ State.debugHart w971758 0 = true) ∧ (w971758.pw.start.firmware = true) ∧
      (w971758.fwu.seed = none) ∧ (0 < 4) ∧ (State.mode w971758 (hartStand 0) ≠ modeSplit) ∧ (w971758.fwu.run =
      none) ∧ (0 = 0) ∧ (List.all (State.conds (State.begin w971758 9000)) id = false)) := by
  refine ⟨?_, ?_, ?_, ?_, ?_, ?_⟩ <;>
    decide +kernel

theorem witness_FirmwareUpdate_4 :
    ((State.hartRuns w7763448 0 = true ∨ State.debugHart w7763448 0 = true) ∧ (w7763448.pw.start.firmware = true) ∧
      (w7763448.fwu.seed = none) ∧ (0 < 4) ∧ (State.mode w7763448 (hartStand 0) ≠ modeSplit) ∧ (w7763448.fwu.run =
      none) ∧ (0 = 0) ∧ (List.all (State.conds (State.begin w7763448 1000009000)) id = true)) ∧
    ((w474124.fwu.run = some w4763488) ∧ (w4763488.op = 1) ∧ (w474124.pw.phase = RunPhase.running) ∧ (State.rd
      w474124 FWU_RES_OP = 1) ∧ (w4763488.slot < 2)) ∧
    ((w641404.fwu.run = some w5252860) ∧ (w5252860.op = 2) ∧ (w641404.pw.phase = RunPhase.running) ∧ (State.rd
      w641404 FWU_RES_OP = 2) ∧ (w5252860.slot < 2) ∧ (leAt 0 8 w5252860.data ≠ conImageid (State.fwSlot w641404
      w5252860.slot).header)) ∧
    ((w2659563.fwu.run = some w3131636) ∧ (w3131636.op = 2) ∧ (w2659563.pw.phase = RunPhase.running) ∧ (State.rd
      w2659563 FWU_RES_OP = 2) ∧ (w3131636.slot < 2) ∧ (leAt 0 8 w3131636.data = conImageid (State.fwSlot w2659563
      w3131636.slot).header) ∧ (pieceCount (State.fwSlot w2659563 w3131636.slot).header ≤ leAt 8 4 w3131636.data ∨
      leAt 12 4 w3131636.data ≠ pieceLen (State.fwSlot w2659563 w3131636.slot).header (leAt 8 4 w3131636.data))) ∧
    ((w9305836.fwu.run = some w386365) ∧ (w386365.op = 2) ∧ (w9305836.pw.phase = RunPhase.running) ∧ (State.rd
      w9305836 FWU_RES_OP = 2) ∧ (w386365.slot < 2) ∧ (leAt 0 8 w386365.data = conImageid (State.fwSlot w9305836
      w386365.slot).header) ∧ (tblFind (leAt 8 4 w386365.data) (State.fwSlot w9305836 w386365.slot).pieces = none)
      ∧ (false = false) ∧ (decide (1024 - (State.fwSlot w9305836 w386365.slot).retired < (pieceCount (State.fwSlot
      w9305836 w386365.slot).header + 65) / 64) = false)) ∧
    ((w4677830.fwu.run = some w6724243) ∧ (w6724243.op = 3) ∧ (w4677830.pw.phase = RunPhase.running) ∧ (State.rd
      w4677830 FWU_RES_OP = 3) ∧ (w6724243.slot < 2)) := by
  refine ⟨?_, ?_, ?_, ?_, ?_, ?_⟩ <;>
    decide +kernel

theorem witness_FirmwareUpdate_5 :
    ((w4395689.fwu.run = some w6413255) ∧ (w6413255.op = 4) ∧ (w4395689.pw.phase = RunPhase.running) ∧ (State.rd
      w4395689 FWU_RES_OP = 4) ∧ (w6413255.slot < 2) ∧ (NoSoft w4395689)) ∧
    ((w7502177.fwu.run = some w9805112) ∧ (w9805112.op = 6) ∧ (w7502177.pw.phase = RunPhase.running) ∧ (State.rd
      w7502177 FWU_RES_OP = 6) ∧ (w9805112.slot < 2) ∧ (w7502177.fwu.booted = some 0) ∧ (0 < 2)) ∧
    ((w8444019.fwu.run = some w1038461) ∧ (w1038461.op = 7) ∧ (w8444019.pw.phase = RunPhase.running) ∧ (State.rd
      w8444019 FWU_RES_OP = 7) ∧ (w1038461.slot < 2) ∧ (inStaging w1038461.addr (List.length (FwSlot.bitmap
      (State.fwSlot w8444019 w1038461.slot))) = false) ∧ (RangeSound w8444019 w1038461.addr (List.length
      (FwSlot.bitmap (State.fwSlot w8444019 w1038461.slot)))) ∧ (NoSoft w8444019)) ∧
    ((w1762244.fwu.run = some w4323521) ∧ (w4323521.op = 9) ∧ (w1762244.pw.phase = RunPhase.running) ∧ (State.rd
      w1762244 FWU_RES_OP = 9) ∧ (w4323521.slot < 2)) ∧
    ((w5082300.fwu.run = some w1538306) ∧ (w1538306.op = 5) ∧ (w5082300.pw.phase = RunPhase.running) ∧ (State.rd
      w5082300 FWU_RES_OP = 5) ∧ (w1538306.slot < 2) ∧ (w5082300.fwu.pause = none) ∧ (w1538306.at_ + 4000000 <
      9009000 ∨ w1538306.at_ + 4000000 = 9009000 ∧ List.all (State.conds (State.begin w5082300 9009000)) id =
      false)) ∧
    ((w5082300.fwu.run = some w1538306) ∧ (w1538306.op = 5) ∧ (w5082300.pw.phase = RunPhase.running) ∧ (State.rd
      w5082300 FWU_RES_OP = 5) ∧ (w1538306.slot < 2) ∧ (w5082300.fwu.pause = none) ∧ (9000 < w1538306.at_ +
      4000000) ∧ (List.all (State.conds (State.begin w5082300 9000)) id = false)) := by
  refine ⟨⟨?_, ?_, ?_, ?_, ?_, ?_⟩, ?_, ⟨?_, ?_, ?_, ?_, ?_, ?_, ?_, ?_⟩, ?_, ?_, ?_⟩ <;>
    first
      | decide +kernel
      | (simp only [LeGoes, BitOk, WordOk, InstOk, DataSound, FetchSound, EngineSound, RangeSound, Recording, NoSoft, not_and]; decide +kernel)

theorem witness_FirmwareUpdate_6 :
    ((w4216912.fwu.run = some w7075096) ∧ (w7075096.op = 5) ∧ (w4216912.pw.phase = RunPhase.running) ∧ (State.rd
      w4216912 FWU_RES_OP = 5) ∧ (w7075096.slot < 2) ∧ (w4216912.fwu.pause = none) ∧ (1000009000 ≤ w7075096.at_ +
      4000000) ∧ (List.all (State.conds (State.begin w4216912 1000009000)) id = true)) ∧
    ((w2832286.fwu.run = some w1538306) ∧ (w1538306.op = 5) ∧ (w2832286.pw.phase = RunPhase.running) ∧ (State.rd
      w2832286 FWU_RES_OP = 5) ∧ (w1538306.slot < 2) ∧ (w2832286.fwu.pause = some zp) ∧ (State.updateSlot w2832286
      < 2)) ∧
    ((w689523.pw.phase = RunPhase.running) ∧ (frKind w9698293 = 6) ∧ (leAt 0 1 (frPayload w9698293) = 1) ∧ (frDest
      w9698293 = 255) ∧ (State.rd w689523 FWU_SERVE_EN = 1) ∧ (State.servedSlot w689523 = some 0) ∧
      (w689523.pw.start.firmware = true)) ∧
    ((w6956378.pw.phase = RunPhase.running) ∧ (frKind w605485 = 6) ∧ (leAt 0 1 (frPayload w605485) = 1) ∧ (frDest
      w605485 = 255) ∧ (leAt 4 8 (frPayload w605485) = State.serial64 w6956378) ∧ (w6956378.pw.start.applied =
      true) ∧ (w6956378.pw.start.firmware = false) ∧ (State.startupAwaited w6956378 = false)) ∧
    ((w1267278.pw.phase = RunPhase.running) ∧ (frKind w1357523 = 6) ∧ (leAt 0 1 (frPayload w1357523) = 3) ∧ (frDest
      w1357523 = 255) ∧ (State.rd w1267278 FWU_SERVE_EN = 1) ∧ (State.servedSlot w1267278 = none)) ∧
    ((w689523.pw.phase = RunPhase.running) ∧ (frKind w1357523 = 6) ∧ (leAt 0 1 (frPayload w1357523) = 3) ∧ (frDest
      w1357523 = 255) ∧ (State.rd w689523 FWU_SERVE_EN = 1) ∧ (State.servedSlot w689523 = some 0) ∧ (leAt 12 4
      (frPayload w1357523) = 4294967295) ∧ (List.length (State.fwSlot w689523 0).header = 8192)) := by
  refine ⟨?_, ?_, ?_, ?_, ?_, ?_⟩ <;>
    decide +kernel

theorem witness_FirmwareUpdate_7 :
    ((w1495785.pw.phase = RunPhase.running) ∧ (frKind w5745474 = 6) ∧ (leAt 0 1 (frPayload w5745474) = 2) ∧ (frDest
      w5745474 = 255) ∧ (w1495785.fwu.seed = some s0) ∧ (leAt 4 8 (frPayload w5745474) = State.serial64 w1495785) ∧
      (s0.header = none) ∧ (s0.src = none) ∧ (State.seedSlots w1495785 ≠ [])) ∧
    ((w1495785.pw.phase = RunPhase.running) ∧ (frKind w4328794 = 6) ∧ (leAt 0 1 (frPayload w4328794) = 4) ∧ (frDest
      w4328794 = 255) ∧ (w1495785.fwu.seed = some s0) ∧ (leAt 4 8 (frPayload w4328794) = State.serial64 w1495785) ∧
      (s0.header = none) ∧ (s0.src ≠ some 0)) ∧
    ((w7559262.pw.phase = RunPhase.running) ∧ (frKind w8285927 = 6) ∧ (leAt 0 1 (frPayload w8285927) = 4) ∧ (frDest
      w8285927 = 255) ∧ (w7559262.fwu.seed = some s1) ∧ (leAt 4 8 (frPayload w8285927) = State.serial64 w7559262) ∧
      (s1.header = none) ∧ (s1.src = some 0) ∧ (s1.get = some (5, 2, 1000)) ∧ (s1.parts = []) ∧ (leAt 12 4
      (frPayload w8285927) = 4294967295) ∧ (leAt 1 1 (frPayload w8285927) < 8)) ∧
    ((w7559262.fwu.seed = some s1) ∧ (s1.src = some 0) ∧ (s1.get = some (5, 2, 1000)) ∧ (1000 + 100000000 ≤
      200000000) ∧ (w7559262.pw.phase = RunPhase.running)) := by
  refine ⟨?_, ?_, ?_, ?_⟩ <;>
    decide +kernel

end W16

namespace W17

abbrev routed : State := r0
abbrev hh : RegMaster := .hart 1
abbrev rf (lo w rst : Nat) (a : Acc) : RowField := ⟨lo, w, a, rst, lP⟩
def dbga (s : State) : State := {s with dbg := .stand 1}
def fs0 (a : Nat) : List RowField := (regFields a).getD []
def w734915 : State := (dbga routed)
def w3180551 : State := (routed.wr (STD_Sk_STAT_MODE 0) modeSplit)
def w5642076 : List RowField := (fs0 0x10500000)
def w1287992 : RowField := ((fs0 0x10500000).getD 0 (rf 0 0 0 .ro))
def w3867307 : List RowField := (fs0 0x10100108)
def w4780830 : RowField := ((fs0 0x10100108).getD 0 (rf 0 0 0 .ro))
def w5604415 : RegMaster := (.hart 4)

theorem witness_RegisterAccess :
    ((State.mayAccess routed hh = true) ∧ ((268435456 ≤ BitVec.toNat (273678340 : BitVec 36) ∧ BitVec.toNat
      (273678340 : BitVec 36) < 536870912) ∧ ¬(3 = 2 ∧ BitVec.toNat (273678340 : BitVec 36) % 4 = 0 ∧ BitVec.toNat
      (273678340 : BitVec 36) < 285212672) ∨ 65536 ≤ BitVec.toNat (273678340 : BitVec 36) ∧ BitVec.toNat (273678340
      : BitVec 36) < 16777216 ∨ 33554432 ≤ BitVec.toNat (273678340 : BitVec 36) ∧ BitVec.toNat (273678340 : BitVec
      36) < 268435456 ∨ 2147483648 ≤ BitVec.toNat (273678340 : BitVec 36) ∧ BitVec.toNat (273678340 : BitVec 36) <
      34359738368 ∨ 42949672960 ≤ BitVec.toNat (273678340 : BitVec 36)) ∧ (hh = RegMaster.hart (1 : Fin 12))) ∧
    ((State.mayAccess w734915 RegMaster.debugger = true) ∧ ((268435456 ≤ BitVec.toNat (273678342 : BitVec 36) ∧
      BitVec.toNat (273678342 : BitVec 36) < 536870912) ∧ ¬(2 = 2 ∧ BitVec.toNat (273678342 : BitVec 36) % 4 = 0 ∧
      BitVec.toNat (273678342 : BitVec 36) < 285212672) ∨ 65536 ≤ BitVec.toNat (273678342 : BitVec 36) ∧
      BitVec.toNat (273678342 : BitVec 36) < 16777216 ∨ 33554432 ≤ BitVec.toNat (273678342 : BitVec 36) ∧
      BitVec.toNat (273678342 : BitVec 36) < 268435456 ∨ 2147483648 ≤ BitVec.toNat (273678342 : BitVec 36) ∧
      BitVec.toNat (273678342 : BitVec 36) < 34359738368 ∨ 42949672960 ≤ BitVec.toNat (273678342 : BitVec 36)) ∧
      (RegMaster.debugger = RegMaster.debugger)) ∧
    ((State.mayAccess State.reset hh = false) ∧ (hh = RegMaster.hart (1 : Fin 12))) ∧
    ((State.mayAccess routed RegMaster.debugger = false) ∧ (RegMaster.debugger = RegMaster.debugger)) ∧
    ((State.mayAccess w3180551 w5604415 = true) ∧ (State.mayReach w3180551 w5604415 (BitVec.toNat (273678340 :
      BitVec 36)) = false) ∧ (268435456 ≤ BitVec.toNat (273678340 : BitVec 36)) ∧ (BitVec.toNat (273678340 : BitVec
      36) < 536870912) ∧ (2 = 2) ∧ (BitVec.toNat (273678340 : BitVec 36) % 4 = 0) ∧ (BitVec.toNat (273678340 :
      BitVec 36) < 285212672)) ∧
    ((State.mayAccess routed hh = true) ∧ (State.mayReach routed hh (BitVec.toNat (269484296 : BitVec 36)) = true)
      ∧ (2 = 2) ∧ (BitVec.toNat (269484296 : BitVec 36) % 4 = 0) ∧ (BitVec.toNat (269484296 : BitVec 36) <
      285212672) ∧ (BitVec.toNat (269484296 : BitVec 36) / 1048576 = 261 ∨ BitVec.toNat (269484296 : BitVec 36) /
      1048576 = 257 ∧ BitVec.toNat (269484296 : BitVec 36) % 1048576 ≠ 4 ∧ BitVec.toNat (269484296 : BitVec 36) %
      1048576 ≠ 64 ∧ BitVec.toNat (269484296 : BitVec 36) % 1048576 ≠ 68 ∨ BitVec.toNat (269484296 : BitVec 36) /
      1048576 = 270 ∧ BitVec.toNat (269484296 : BitVec 36) % 1048576 ≠ 100 ∨ BitVec.toNat (269484296 : BitVec 36) /
      1048576 = 271 ∧ BitVec.toNat (269484296 : BitVec 36) % 1048576 ≠ 4) ∧ (regFields (BitVec.toNat (269484296 :
      BitVec 36)) = some w3867307) ∧ (w4780830 ∈ w3867307) ∧ (∀ i ∈ w3867307, State.rd routed (Fld.at (BitVec.toNat
      (269484296 : BitVec 36)) i.lo i.w i.rst) < 2 ^ i.w)) ∧
    ((State.mayAccess routed hh = true) ∧ (State.mayReach routed hh (BitVec.toNat (274726656 : BitVec 36)) = true)
      ∧ (2 = 2) ∧ (BitVec.toNat (274726656 : BitVec 36) % 4 = 0) ∧ (BitVec.toNat (274726656 : BitVec 36) <
      285212672) ∧ (BitVec.toNat (274726656 : BitVec 36) / 1048576 = 261 ∨ BitVec.toNat (274726656 : BitVec 36) /
      1048576 = 257 ∧ BitVec.toNat (274726656 : BitVec 36) % 1048576 ≠ 4 ∧ BitVec.toNat (274726656 : BitVec 36) %
      1048576 ≠ 64 ∧ BitVec.toNat (274726656 : BitVec 36) % 1048576 ≠ 68 ∨ BitVec.toNat (274726656 : BitVec 36) /
      1048576 = 270 ∧ BitVec.toNat (274726656 : BitVec 36) % 1048576 ≠ 100 ∨ BitVec.toNat (274726656 : BitVec 36) /
      1048576 = 271 ∧ BitVec.toNat (274726656 : BitVec 36) % 1048576 ≠ 4) ∧ (regFields (BitVec.toNat (274726656 :
      BitVec 36)) = none)) ∧
    ((State.mayAccess routed hh = true) ∧ (State.mayReach routed hh (BitVec.toNat (275775488 : BitVec 36)) = true)
      ∧ (2 = 2) ∧ (BitVec.toNat (275775488 : BitVec 36) % 4 = 0) ∧ (BitVec.toNat (275775488 : BitVec 36) <
      285212672) ∧ (BitVec.toNat (275775488 : BitVec 36) / 1048576 = 263)) ∧
    ((State.mayAccess w3180551 (RegMaster.hart (4 : Fin 12)) = true) ∧ (4 ≤ 4 ∨ State.mode w3180551 (hartStand 4) =
      modeSplit)) ∧
    ((State.mayAccess routed (RegMaster.hart (1 : Fin 12)) = true) ∧ (1 < 4) ∧ (State.mode routed (hartStand 1) ≠
      modeSplit)) := by
  refine ⟨?_, ?_, ?_, ?_, ?_, ?_, ?_, ?_, ?_, ?_⟩ <;>
    decide +kernel

theorem witness_RegisterWidths :
    ((268435456 ≤ BitVec.toNat (273678336 : BitVec 36)) ∧ (BitVec.toNat (273678336 : BitVec 36) < 536870912) ∧
      (regFields (BitVec.toNat (273678336 : BitVec 36)) = some w5642076) ∧ (w1287992 ∈ w5642076)) ∧
    ((State.mayAccess routed (RegMaster.hart (1 : Fin 12)) = true) ∧ (268435456 ≤ BitVec.toNat (273678340 : BitVec
      36)) ∧ (BitVec.toNat (273678340 : BitVec 36) < 536870912) ∧ (3 ≠ 2 ∨ BitVec.toNat (273678340 : BitVec 36) % 4
      ≠ 0)) := by
  refine ⟨?_, ?_⟩ <;>
    decide +kernel

end W17

namespace W18

abbrev routed : State := r0
def fs0 (a : Nat) : List RowField := (regFields a).getD []
abbrev rf (lo w rst : Nat) (a : Acc) : RowField := ⟨lo, w, a, rst, lP⟩
def prg : Prog := ⟨7, 8, false, [], [], [⟨0x4000, [1,2,3]⟩], some ⟨7, [(0x4001, 2)], 99⟩, 3, 4⟩
def eng1 : Engine := { engineInit with executing := true, blk := 255, pc := 600, ba := true, wa := 0x7FFFFFFF#32, takeUs := 1000, prog := some prg, takeAt := 100, cycle := 77, dl := some 6 }
def leS (x : Engine) : State := (((routed.wr (LE_Ee_STAT_STATE 1) 2).setEngine 1 x).putLeBytes (leBankBase 1 0 + 4*510) (leBytes 4 512 ++ leBytes 4 200))
def st (n : Nat) (s : State) := s.wr (LE_Ee_STAT_STATE 1) n
def win (s : State) : State := (s.wr (LE_Ee_HOSTWIN_BASE 1) 8).wr (LE_Ee_HOSTWIN_SIZE 1) 4
def att (s : State) : State := {s with dbg := .engine 1}
def rw (f : Rootway → Rootway) (s : State) : State := {s with rwy := f s.rwy}
def recOf (car : Nat) : List Byte := [0,0,0,0,0,7, BitVec.ofNat 8 car, 1] ++ beBytes 4 (100 + car) ++ [0,0,0,0] ++ List.replicate 12 0 ++ beBytes 4 (99+car) ++ beBytes 4 (99+car) ++ beBytes 4 (101+car)++ beBytes 4 (101+car) ++ beBytes 2 50 ++ beBytes 2 50 ++ beBytes 2 50 ++ beBytes 2 50 ++ beBytes 4 0 ++ [0,0,0,0]
def nd (car : Nat) : TNode := ⟨recOf car, car, true⟩
def trn : Train := ⟨[nd 1, nd 2, nd 3], [101,102,103], false, some 1, [⟨7, some 0, 0, []⟩], [(0,1)], 5⟩
def ap (s : State) : State := (((((({s with fab := {s.fab with table := some trn}}.wr (RWY_Aa_BASE_BASE 1) 0x801000).wr (RWY_Aa_CFG_SIZE 1) 12).wr (RWY_Aa_CFG_EN 1) 1).wr (RWY_Aa_CFG_RD 1) 1).wr (RWY_Aa_CFG_WR 1) 1).wr (RWY_Aa_CFG_LK 1) 1).wr CNP_NODE_ID 2 |>.wr (RWY_Aa_DOOR 1) 0x7777 |>.putBytes 0x801000100 [9,8,7,6,5,4,3,2]
def rq (k : Nat) (off : Nat := 0x100) (fn : Nat := 0) := rwMessage k 3 fn 1 0 off 77 (some 0xF123456789ABCDEF)
def L (f : Rootway → Rootway) := rw f (ap routed)
def lk (n : Nat) := L fun r => {r with locks := [(1,⟨n,8000⟩)]}
def en (p : Nat) (s : State) : State := (((((s.wr (UST_Pp_CFG_EN p) 1).wr (UST_Pp_RXBASE_OFF p) 0x400).wr (UST_Pp_RXSIZE_SIZE p) 512).wr (UST_Pp_RXHEAD_OFF p) 5).wr (UST_Pp_RXTAIL_OFF p) 5)
def can : List Byte := [5,0,0,0,0,2,0,0,7,9]
def tx (p : Nat) (pt : Nat) (b : List Byte) (s : State) : State := (((s.wr (UST_Pp_TXBASE_OFF p) 0x800).wr (UST_Pp_TXSIZE_SIZE p) 512).wr (UST_Pp_TXHEAD_OFF p) 6).wr (UST_Pp_TXTAIL_OFF p) 6 |>.putBytes (sramBase + 0x4000 + 48) (padTo 40 (tunnelHeader 255 pt 0 b.length 0 0 ++ b))
def tn (k p : Nat) (s : State) : State := ((((s.wr (UST_TUNt_CFG_EN k) 1).wr (UST_TUNt_CFG_PORT k) p).wr (UST_TUNt_STAT_RESOLVED k) 1).wr (UST_TUNt_STAT_NODE k) 3).wr (UST_TUNt_PEER_TUNID k) 8
def fr (kind sender dest : Nat) (pay : List Byte) : List Byte := nodeMac dest ++ nodeMac sender ++ [0x88,0xB5, byteOf (1+16*kind), byteOf sender] ++ beBytes 2 3 ++ beBytes 2 4 ++ beBytes 2 0 ++ beBytes 2 pay.length ++ beBytes 2 7 ++ [byteOf dest,0,0,0] ++ pay
def tf (n : Nat) : List Byte := fr 5 3 2 (tunnelHeader 4 1 0 n 77 4000 ++ can)
abbrev cf : BitVec 32 := BitVec.ofNat 32 (1 + 2 + 8 + 16 + 12*64)
def l0 : LowPower := ⟨false, 100, false, false, false, false⟩
def ld (s : State) : State := {s with pw := {s.pw with start := {s.pw.start with ready := true, wasReady := true, applied := true}}}.wr KEY_STAT_STATE 1 |>.wr PWR_WTIMER_LO 0xFFFFFFFF |>.wr PWR_WTIMER_HI 0xFFFFFFFF |> fun s => (List.range 4).foldl (fun s k => s.wr (STD_Sk_STAT_STATE k) stRunning) s
def P (u m : Nat) (s : State) : State := ((ld s).wr PWR_POL_MAXUNIT u).wr PWR_POL_MAXMOD m |>.wr PWR_POL_GUARD 10
def lw (l : LowPower) (s : State) : State := {s with pmg := {s.pmg with low := some l}}
def w1304116 : List RowField := (fs0 0x10100030)
def w9203769 : RowField := ((fs0 0x10100030).getD 0 (rf 0 0 0 .ro))
def w4255014 : State := (win (leS eng1))
def w1838043 : State := (st 1 (leS {eng1 with restart := some ⟨true,1⟩}))
def w882799 : State := (st 3 (leS eng1)|>.wr PWR_POL_NAPENG 1)
def w6167884 : State := (att (leS eng1))
def w2100084 : LeWrite := (.branch 0 true 3)
def w7285975 : State := ((leS eng1 |>.wr (LE_Ee_BRKi_EN 1 0) 1).wr (LE_Ee_BRKi_INDEX 1 0) 600)
def w887620 : State := (st 5 (att (((leS {eng1 with replay := [.pc 5]}).putLeBytes (leBankBase 1 0 + 2400) (leBytes 4 0x38000000)))))
def w2509940 : State := (ap routed)
def w1674860 : List Byte := (tf 10)
def w637080 : List Byte := (rq 7)
def w8435212 : List Byte := (rq 1)
def w3585800 : List Byte := (rq 2)
def w6736462 : State := (lk 3)
def w8949248 : List Byte := (rq 3)
def w4998329 : List Byte := (rq 4)
def w8429891 : List Byte := (rq 5)
def w3622373 : List Byte := (rq 6 0x100 1)
def w656989 : State := (en 1 routed)
def w7789871 : State := (tn 4 1 (en 1 routed) |>.setUport 1 ⟨0,.other,[],true⟩)
def w2063779 : State := (tx 4 1 can (en 4 routed))
def w7590397 : State := ((en 1 routed).wr (UST_Pp_STAT_BUSOFF 1) 1|>.wr (UST_Pp_CFG_BOAUTO 1) 1)
def w7024850 : State := (P 1 1 routed)
def w6731084 : State := (P 1 2 routed)
def w2654624 : State := ((P 1 2 routed).wr (PWR_UNIT_UNIT 1) 1|>.setStand 1 {standInit with wakeAt := some 8000, wfi := true})
def w3561386 : State := (lw l0 (P 1 1 routed))
def w4737211 : State := (lw ⟨false, 100,true,true,true,false⟩ (P 1 2 routed) |>.wr PWR_WAKE_EN 1|>.wr PWR_STAT_STATE 2|>.wr PWR_WTIMER_LO 8000|>.wr PWR_WTIMER_HI 0)
def w6582356 : LowPower := ⟨false, 100,true,true,true,false⟩
def w2211619 : State := (lw ⟨false, 100,true,true,true,false⟩ (P 1 2 routed) |>.wr PWR_STAT_STATE 3)

theorem witness_RegisterAccessesComplete :
    ((State.hartRuns routed 1 = true) ∧ (State.deviceOpen routed 1 (BitVec.toNat (269484080 : BitVec 36)) = true) ∧
      (BitVec.toNat (269484080 : BitVec 36) % 4 = 0) ∧ (BitVec.toNat (269484080 : BitVec 36) / 1048576 = 261 ∨
      BitVec.toNat (269484080 : BitVec 36) / 1048576 = 257 ∧ BitVec.toNat (269484080 : BitVec 36) % 1048576 ≠ 4 ∧
      BitVec.toNat (269484080 : BitVec 36) % 1048576 ≠ 64 ∧ BitVec.toNat (269484080 : BitVec 36) % 1048576 ≠ 68) ∧
      (regFields (BitVec.toNat (269484080 : BitVec 36)) = some w1304116) ∧ (w9203769 ∈ w1304116) ∧ (w9203769.acc =
      Acc.rw)) := by
  decide +kernel

theorem witness_EngineCommandsComplete :
    ((State.leState w882799 1 = leRunning ∨ State.leState w882799 1 = leStopped ∨ State.leState w882799 1 =
      leFaulted) ∧ ((State.engine w882799 1).prog = some prg) ∧ (State.rd w882799 (LE_Ee_STAT_SHADOW 1) = 0) ∧
      (State.usableLanes w882799 1 = [0, 1, 2, 3])) ∧
    ((State.leState w4255014 1 = leRunning)) ∧
    ((State.leState w1838043 1 = leRestarting) ∧ (Option.isSome (State.engine w1838043 1).restart = true) ∧
      ((State.engine w1838043 1).await = false)) ∧
    ((State.flag w882799 PWR_POL_NAPENG = true) ∧ (State.leState w882799 1 = leStopped) ∧ (max (tblGet 0 1
      w882799.pmg.idleAt) w882799.pw.start.at_ + 1000000 ≤ 9000000) ∧ (State.rd w882799 (PWR_UNIT_UNIT (4 + 1)) =
      0)) ∧
    ((State.hartRuns w882799 2 = true) ∧ (536870912 + 4194304 * 1 ≤ BitVec.toNat (BitVec.ofNat 36 (543162368 +
      16448 + 8))) ∧ (BitVec.toNat (BitVec.ofNat 36 (543162368 + 16448 + 8)) + 2 ^ 2 ≤ 539492352 + 4194304 * 1) ∧
      (BitVec.toNat (BitVec.ofNat 36 (543162368 + 16448 + 8)) % 2 ^ 2 = 0) ∧ (State.rowErr w882799 (leRowOf 1
      (BitVec.toNat (BitVec.ofNat 36 (543162368 + 16448 + 8)) % 4194304)).1 (leRowOf 1 (BitVec.toNat (BitVec.ofNat
      36 (543162368 + 16448 + 8)) % 4194304)).2 = 0)) ∧
    ((State.hartRuns w4255014 2 = true) ∧ (State.hartSplit w4255014 2 = false) ∧ (BitVec.toNat (BitVec.ofNat 36
      (543162368 + 16448 + 8)) % 2 ^ 2 = 0) ∧ (538968064 + 4194304 * 1 + State.winBase w4255014 1 ≤ BitVec.toNat
      (BitVec.ofNat 36 (543162368 + 16448 + 8))) ∧ (BitVec.toNat (BitVec.ofNat 36 (543162368 + 16448 + 8)) + 2 ^ 2
      ≤ 538968064 + 4194304 * 1 + State.winBase w4255014 1 + State.winSize w4255014 1) ∧ (BitVec.toNat
      (BitVec.ofNat 36 (543162368 + 16448 + 8)) + 2 ^ 2 ≤ 539492352 + 4194304 * 1)) ∧
    ((w882799.pw.phase = RunPhase.running) ∧ (bitAt (BitVec.toNat (BitVec.ofNat 32 (2 ^ 31 + 2 ^ 20 + 8196))) 31 =
      true) ∧ (bitsAt (BitVec.toNat (BitVec.ofNat 32 (2 ^ 31 + 2 ^ 20 + 8196))) 0 14 % 4 = 0) ∧ (State.coversSafe
      w882799 (bitsAt (BitVec.toNat (BitVec.ofNat 32 (2 ^ 31 + 2 ^ 20 + 8196))) 0 14) (if bitAt (BitVec.toNat
      (BitVec.ofNat 32 (2 ^ 31 + 2 ^ 20 + 8196))) 20 = true then 4 else 1) (bitsAt (BitVec.toNat (BitVec.ofNat 32
      (2 ^ 31 + 2 ^ 20 + 8196))) 16 3) = false)) ∧
    ((w6167884.dbg = Attach.engine 1) ∧ (State.leState w6167884 1 = leRunning)) ∧
    ((State.leCan w7285975 1 = true) ∧ (State.flag w7285975 (LE_Ee_BRKi_EN 1 0) = true) ∧ (State.flag w7285975
      (LE_Ee_BRKi_CYC 1 0) = false) ∧ (State.rd w7285975 (LE_Ee_BRKi_INDEX 1 0) = (State.engine w7285975 1).pc)) ∧
    ((w887620.dbg = Attach.engine 1) ∧ (State.leState w887620 1 = leHalted) ∧ ((State.engine w887620 1).executing =
      true) ∧ (FetchSound w887620 1) ∧ (State.leInBody w887620 1 (State.engine w887620 1).pc = true) ∧
      (State.leWordAt w887620 1 (State.leBank w887620 1) (State.engine w887620 1).pc = 939524096)) ∧
    ((w887620.dbg = Attach.engine 1) ∧ (State.leState w887620 1 = leHalted) ∧ (List.length (State.engine w887620
      1).replay < 32) ∧ (∀ (o : Fin 524288) (q : Byte), w2100084 ≠ LeWrite.data o q)) ∧
    ((w6167884.dbg = Attach.engine 1) ∧ (debugGet (State.engine w6167884 1) LeReg.wa = some 2147483647)) := by
  refine ⟨?_, ?_, ?_, ?_, ?_, ?_, ?_, ?_, ?_, ⟨?_, ?_, ?_, ?_, ?_, ?_⟩, ⟨?_, ?_, ?_, ?_⟩, ?_⟩ <;>
    first
      | decide +kernel
      | (simp only [LeGoes, BitOk, WordOk, InstOk, DataSound, FetchSound, EngineSound, RangeSound, Recording, NoSoft, not_and]; decide +kernel)
      | exact fun _ _ h => nomatch h

theorem witness_UnitCommandsComplete :
    ((rmOp w637080 = 7) ∧ (State.aperJudge (State.begin w2509940 9000) 3 w637080 = 0) ∧ (w2509940.rwy.resetting =
      false) ∧ (w2509940.pw.phase = RunPhase.running) ∧ (State.rd w2509940 PWR_STAT_STATE ≠ 2) ∧ (State.rwMaySend
      w2509940 = false) ∧ (w2509940.rwy.ops = []) ∧ (w2509940.rwy.stall = [])) ∧
    ((rmOp w8435212 = 1) ∧ (State.aperJudge (State.begin w2509940 9000) 3 w8435212 = 0) ∧ (w2509940.rwy.resetting =
      false) ∧ (w2509940.pw.phase = RunPhase.running) ∧ (State.rd w2509940 PWR_STAT_STATE ≠ 2) ∧ (State.rwMaySend
      w2509940 = false) ∧ (w2509940.rwy.ops = []) ∧ (w2509940.rwy.stall = []) ∧ (State.lockOf w2509940 (rmAper
      w8435212) = none) ∧ (RangeSound w2509940 (State.aperBase w2509940 (rmAper w8435212) + rmOff w8435212) (2 ^
      rmSize w8435212))) ∧
    ((rmOp w3585800 = 2) ∧ (State.aperJudge (State.begin w2509940 9000) 3 w3585800 = 0) ∧ (w2509940.rwy.resetting =
      false) ∧ (w2509940.pw.phase = RunPhase.running) ∧ (State.rd w2509940 PWR_STAT_STATE ≠ 2) ∧ (State.rwMaySend
      w2509940 = false) ∧ (w2509940.rwy.ops = []) ∧ (w2509940.rwy.stall = []) ∧ (NoSoft w2509940) ∧ (State.inRegion
      w2509940 (State.aperBase w2509940 (rmAper w3585800) + rmOff w3585800) (2 ^ rmSize w3585800) = false) ∧
      (RangeSound w2509940 ((State.aperBase w2509940 (rmAper w3585800) + rmOff w3585800) / 64 * 64) 128) ∧
      (inStaging (State.aperBase w2509940 (rmAper w3585800) + rmOff w3585800) (2 ^ rmSize w3585800) = false)) ∧
    ((rmOp w8949248 = 3) ∧ (State.aperJudge (State.begin w6736462 9000) 3 w8949248 = 0) ∧ (w6736462.rwy.resetting =
      false) ∧ (w6736462.pw.phase = RunPhase.running) ∧ (State.rd w6736462 PWR_STAT_STATE ≠ 2) ∧ (State.rwMaySend
      w6736462 = false) ∧ (w6736462.rwy.ops = []) ∧ (w6736462.rwy.stall = []) ∧ (State.lockOf w6736462 (rmAper
      w8949248) = some { node := 3, at_ := 8000 }) ∧ (w6736462.rwy.hold = false) ∧ (RangeSound w6736462
      (State.aperBase w6736462 (rmAper w8949248) + rmOff w8949248) (2 ^ rmSize w8949248))) := by
  refine ⟨?_, ⟨?_, ?_, ?_, ?_, ?_, ?_, ?_, ?_, ?_, ?_⟩, ⟨?_, ?_, ?_, ?_, ?_, ?_, ?_, ?_, ?_, ?_, ?_, ?_⟩, ⟨?_, ?_,
    ?_, ?_, ?_, ?_, ?_, ?_, ?_, ?_, ?_⟩⟩ <;>
    first
      | decide +kernel
      | (simp only [LeGoes, BitOk, WordOk, InstOk, DataSound, FetchSound, EngineSound, RangeSound, Recording, NoSoft, not_and]; decide +kernel)

theorem witness_UnitCommandsComplete_2 :
    ((rmOp w4998329 = 4) ∧ (State.aperJudge (State.begin w6736462 9000) 3 w4998329 = 0) ∧ (w6736462.rwy.resetting =
      false) ∧ (w6736462.pw.phase = RunPhase.running) ∧ (State.rd w6736462 PWR_STAT_STATE ≠ 2) ∧ (State.rwMaySend
      w6736462 = false) ∧ (w6736462.rwy.ops = []) ∧ (w6736462.rwy.stall = []) ∧ (State.lockOf w6736462 (rmAper
      w4998329) = some { node := 3, at_ := 8000 }) ∧ (NoSoft w6736462) ∧ (State.inRegion w6736462 (State.aperBase
      w6736462 (rmAper w4998329) + rmOff w4998329) (2 ^ rmSize w4998329) = false) ∧ (RangeSound w6736462
      ((State.aperBase w6736462 (rmAper w4998329) + rmOff w4998329) / 64 * 64) 128) ∧ (inStaging (State.aperBase
      w6736462 (rmAper w4998329) + rmOff w4998329) (2 ^ rmSize w4998329) = false)) ∧
    ((rmOp w3622373 = 6) ∧ (State.aperJudge (State.begin w6736462 9000) 3 w3622373 = 0) ∧ (w6736462.rwy.resetting =
      false) ∧ (w6736462.pw.phase = RunPhase.running) ∧ (State.rd w6736462 PWR_STAT_STATE ≠ 2) ∧ (State.rwMaySend
      w6736462 = false) ∧ (w6736462.rwy.ops = []) ∧ (w6736462.rwy.stall = []) ∧ (rmFn w3622373 = 1) ∧ (State.lockOf
      w6736462 (rmAper w3622373) = some { node := 3, at_ := 8000 }) ∧ (w6736462.rwy.hold = false) ∧ (NoSoft
      w6736462) ∧ (State.inRegion w6736462 (State.aperBase w6736462 (rmAper w3622373) + rmOff w3622373) (2 ^ rmSize
      w3622373) = false) ∧ (RangeSound w6736462 ((State.aperBase w6736462 (rmAper w3622373) + rmOff w3622373) / 64
      * 64) 128) ∧ (inStaging (State.aperBase w6736462 (rmAper w3622373) + rmOff w3622373) (2 ^ rmSize w3622373) =
      false)) ∧
    ((rmOp w8429891 = 5) ∧ (State.aperJudge (State.begin w6736462 9000) 3 w8429891 = 0) ∧ (w6736462.rwy.resetting =
      false) ∧ (w6736462.pw.phase = RunPhase.running) ∧ (State.rd w6736462 PWR_STAT_STATE ≠ 2) ∧ (State.rwMaySend
      w6736462 = false) ∧ (w6736462.rwy.ops = []) ∧ (w6736462.rwy.stall = []) ∧ (State.lockOf w6736462 (rmAper
      w8429891) = some { node := 3, at_ := 8000 })) ∧
    ((w6736462.rwy.ops = []) ∧ (w6736462.rwy.stall = []) ∧ (State.lockOf w6736462 1 = some
      { node := 3, at_ := 8000 }) ∧ (8000 + 100000 ≤ 108000)) ∧
    ((w2509940.pw.phase = RunPhase.running) ∧ (bitAt (BitVec.toNat cf) 0 = true) ∧ (aperOk (State.aperBase w2509940
      1) (bitsAt (BitVec.toNat cf) 6 5) = true)) := by
  refine ⟨⟨?_, ?_, ?_, ?_, ?_, ?_, ?_, ?_, ?_, ?_, ?_, ?_, ?_⟩, ⟨?_, ?_, ?_, ?_, ?_, ?_, ?_, ?_, ?_, ?_, ?_, ?_,
    ?_, ?_, ?_⟩, ?_, ?_, ?_⟩ <;>
    first
      | decide +kernel
      | (simp only [LeGoes, BitOk, WordOk, InstOk, DataSound, FetchSound, EngineSound, RangeSound, Recording, NoSoft, not_and]; decide +kernel)

theorem witness_UnitCommandsComplete_3 :
    ((frKind w1674860 = frTunnel) ∧ (leAt 0 1 (frPayload w1674860) = 4) ∧ (State.ustPowered w7789871 = true) ∧
      (State.rd w7789871 (UST_TUNt_CFG_EN 4) = 1) ∧ (State.rd w7789871 (UST_TUNt_STAT_RESOLVED 4) = 1) ∧ (State.rd
      w7789871 (UST_TUNt_STAT_NODE 4) = frSender w1674860) ∧ (bitsAt (leAt 2 1 (frPayload w1674860)) 0 4 = 0) ∧
      (leAt 4 2 (frPayload w1674860) = List.length (List.drop 16 (frPayload w1674860))) ∧ ((State.tunnel w7789871
      4).part = none) ∧ ((State.tunnel w7789871 4).home = []) ∧ (State.portSendsNow w7789871 (State.rd w7789871
      (UST_TUNt_CFG_PORT 4)) = false)) ∧
    ((State.ustPowered w656989 = true) ∧ ((State.uport w656989 1).resetting = false) ∧ (State.rd w656989
      (UST_Pp_CFG_EN 1) = 1) ∧ (State.portTakes w656989 1 false can = true) ∧ (∀ (j : Fin 32), State.rd w656989
      (UST_TUNt_CFG_EN (↑j : ℕ)) = 0) ∧ (4096 ≤ 8 * State.rd w656989 (UST_Pp_RXSIZE_SIZE 1)) ∧ (8 * State.rd
      w656989 (UST_Pp_RXTAIL_OFF 1) < 8 * State.rd w656989 (UST_Pp_RXSIZE_SIZE 1)) ∧ (8 * State.rd w656989
      (UST_Pp_RXHEAD_OFF 1) + List.length (padTo ((List.length (tunnelHeader 255 (State.ptype w656989 1 false) 0
      (List.length can) (State.uport w656989 1).seq 9000 ++ can) + 7) / 8 * 8) (tunnelHeader 255 (State.ptype
      w656989 1 false) 0 (List.length can) (State.uport w656989 1).seq 9000 ++ can)) ≤ 8 * State.rd w656989
      (UST_Pp_RXSIZE_SIZE 1)) ∧ ((8 * State.rd w656989 (UST_Pp_RXHEAD_OFF 1) + 8 * State.rd w656989
      (UST_Pp_RXSIZE_SIZE 1) - 8 * State.rd w656989 (UST_Pp_RXTAIL_OFF 1)) % (8 * State.rd w656989
      (UST_Pp_RXSIZE_SIZE 1)) + List.length (padTo ((List.length (tunnelHeader 255 (State.ptype w656989 1 false) 0
      (List.length can) (State.uport w656989 1).seq 9000 ++ can) + 7) / 8 * 8) (tunnelHeader 255 (State.ptype
      w656989 1 false) 0 (List.length can) (State.uport w656989 1).seq 9000 ++ can)) < 8 * State.rd w656989
      (UST_Pp_RXSIZE_SIZE 1)) ∧ (8 * State.rd w656989 (UST_Pp_RXBASE_OFF 1) + 8 * State.rd w656989
      (UST_Pp_RXSIZE_SIZE 1) ≤ stagingOff) ∧ (RangeSound w656989 (sramBase + 8 * State.rd w656989
      (UST_Pp_RXBASE_OFF 1) + 8 * State.rd w656989 (UST_Pp_RXHEAD_OFF 1)) (List.length (padTo ((List.length
      (tunnelHeader 255 (State.ptype w656989 1 false) 0 (List.length can) (State.uport w656989 1).seq 9000 ++ can)
      + 7) / 8 * 8) (tunnelHeader 255 (State.ptype w656989 1 false) 0 (List.length can) (State.uport w656989 1).seq
      9000 ++ can))))) ∧
    ((State.portSendsNow (State.wr (State.begin w2063779 9000) (UST_Pp_TXTAIL_OFF 4) (BitVec.toNat (80 : BitVec 24)
      / 8)) 4 = true) ∧ (State.txRecord (State.wr (State.begin w2063779 9000) (UST_Pp_TXTAIL_OFF 4) (BitVec.toNat
      (80 : BitVec 24) / 8)) 4 = some (1, can, 32)) ∧ (0 < State.txUsed (State.wr (State.begin w2063779 9000)
      (UST_Pp_TXTAIL_OFF 4) (BitVec.toNat (80 : BitVec 24) / 8)) 4) ∧ (State.tunnelsFor (State.wr (State.begin
      w2063779 9000) (UST_Pp_TXTAIL_OFF 4) (BitVec.toNat (80 : BitVec 24) / 8)) 4 = []) ∧ (3 ≤ 4)) ∧
    (((State.uport w7789871 1).sending = Sending.other) ∧ (State.txUsed w7789871 1 = 0) ∧ (State.tunnelsFor
      w7789871 1 = [])) ∧
    ((w2509940.pw.phase = RunPhase.running) ∧ (State.rd w2509940 (UST_Pp_CFG_EN 1) = 0) ∧ (State.txUsed w2509940 1
      = 0) ∧ (State.tunnelsFor w2509940 1 = [])) ∧
    (((State.uport w7789871 1).resetting = true) ∧ (State.txUsed w7789871 1 = 0) ∧ (State.tunnelsFor w7789871 1 =
      [])) ∧
    ((1 = 1) ∧ (State.ustPowered w7590397 = true) ∧ ((State.uport w7590397 1).resetting = false) ∧ (State.rd
      w7590397 (UST_Pp_CFG_EN 1) = 1) ∧ (State.txUsed w7590397 1 = 0) ∧ (State.tunnelsFor w7590397 1 = []) ∧
      (State.rd w7590397 (UST_Pp_STAT_BUSOFF 1) = 1) ∧ (State.rd w7590397 (UST_Pp_CFG_BOAUTO 1) = 1)) := by
  refine ⟨?_, ⟨?_, ?_, ?_, ?_, ?_, ?_, ?_, ?_, ?_, ?_, ?_⟩, ?_, ?_, ?_, ?_, ?_⟩ <;>
    first
      | decide +kernel
      | (simp only [LeGoes, BitOk, WordOk, InstOk, DataSound, FetchSound, EngineSound, RangeSound, Recording, NoSoft, not_and]; decide +kernel)

theorem witness_UnitCommandsComplete_4 :
    ((1 < 2) ∧ (State.ustPowered w656989 = true) ∧ ((State.uport w656989 1).resetting = false) ∧ (State.rd w656989
      (UST_Pp_CFG_EN 1) = 1) ∧ (State.txUsed w656989 1 = 0) ∧ (State.tunnelsFor w656989 1 = [])) := by
  decide +kernel

theorem witness_PowerCommandsComplete :
    ((State.standUp w7024850 1 = true) ∧ (State.standState w7024850 1 = stRunning) ∧ (State.rd w7024850
      (PWR_UNIT_UNIT 1) = 0) ∧ ((State.stand w7024850 1).request = none) ∧ ((State.stand w7024850 1).run = none) ∧
      (State.standCalled (State.setStand (State.begin w7024850 9000) 1
      { formed := (State.stand w7024850 1).formed, reserve := (State.stand w7024850 1).reserve, request := (State.stand w7024850 1).request, run := (State.stand w7024850 1).run, wfi := true, agreed := (State.stand w7024850 1).agreed, outvoted := (State.stand w7024850 1).outvoted, mext := (State.stand w7024850 1).mext, sext := (State.stand w7024850 1).sext, mtimer := (State.stand w7024850 1).mtimer, mtimerB := (State.stand w7024850 1).mtimerB, mtimerC := (State.stand w7024850 1).mtimerC, haltReq := (State.stand w7024850 1).haltReq, replay := (State.stand w7024850 1).replay, resetting := (State.stand w7024850 1).resetting, wakeAt := (State.stand w7024850 1).wakeAt, entry := (State.stand w7024850 1).entry, splitEntry := (State.stand w7024850 1).splitEntry, asleep := (State.stand w7024850 1).asleep, slow := (State.stand w7024850 1).slow, arch := (State.stand w7024850 1).arch })
      1 = false) ∧ (State.justPended (State.begin w7024850 9000) 1 = false) ∧ (State.rd w7024850 PWR_POL_MAXUNIT =
      1) ∧ (Option.all (fun (d : ℕ) => decide (9000 + State.rd w7024850 PWR_POL_GUARD * 1000 + 2100 ≤ d))
      (State.standNext (State.setStand (State.begin w7024850 9000) 1
      { formed := (State.stand w7024850 1).formed, reserve := (State.stand w7024850 1).reserve, request := (State.stand w7024850 1).request, run := (State.stand w7024850 1).run, wfi := true, agreed := (State.stand w7024850 1).agreed, outvoted := (State.stand w7024850 1).outvoted, mext := (State.stand w7024850 1).mext, sext := (State.stand w7024850 1).sext, mtimer := (State.stand w7024850 1).mtimer, mtimerB := (State.stand w7024850 1).mtimerB, mtimerC := (State.stand w7024850 1).mtimerC, haltReq := (State.stand w7024850 1).haltReq, replay := (State.stand w7024850 1).replay, resetting := (State.stand w7024850 1).resetting, wakeAt := (State.stand w7024850 1).wakeAt, entry := (State.stand w7024850 1).entry, splitEntry := (State.stand w7024850 1).splitEntry, asleep := (State.stand w7024850 1).asleep, slow := (State.stand w7024850 1).slow, arch := (State.stand w7024850 1).arch })
      1) = true)) ∧
    ((State.standUp w2654624 1 = true) ∧ (State.rd w2654624 (PWR_UNIT_UNIT 1) = 1) ∧ ((State.stand w2654624
      1).wakeAt = some 8000) ∧ (8000 ≤ 9000)) ∧
    ((State.hartRuns w6731084 0 = true) ∧ (State.deviceOpen w6731084 0 269484032 = true) ∧ (w6731084.pw.phase =
      RunPhase.running) ∧ (State.loaded w6731084 = true) ∧ (State.rd w6731084 PWR_STAT_POLERR = 0) ∧ (State.rd
      w6731084 PWR_POL_MAXMOD = if true = true then 2 else 1) ∧ (State.lowBlocked w6731084 = false) ∧
      (w6731084.pmg.low = none) ∧ (State.wakePending (State.begin w6731084 9000) true = false)) ∧
    ((State.hartRuns w7024850 0 = true) ∧ (State.deviceOpen w7024850 0 269484032 = true) ∧ (w7024850.pw.phase =
      RunPhase.running) ∧ (State.loaded w7024850 = true) ∧ (State.rd w7024850 PWR_STAT_POLERR = 0) ∧ (State.rd
      w7024850 PWR_POL_MAXMOD = if false = true then 2 else 1) ∧ (State.lowBlocked w7024850 = false) ∧
      (w7024850.pmg.low = none) ∧ (State.wakePending (State.begin w7024850 9000) false = false) ∧ (Option.all (fun
      (d : ℕ) => decide (9000 + State.rd w7024850 PWR_POL_GUARD * 1000 + (90000000 + State.depotNs w7024850) ≤ d))
      (State.moduleNext w7024850) = true)) ∧
    ((State.hartRuns w3561386 0 = true) ∧ (State.deviceOpen w3561386 0 269484032 = true) ∧ (w3561386.pw.phase =
      RunPhase.running) ∧ (w3561386.pmg.low = some l0) ∧ (l0.reached = false) ∧ (l0.woken = false) ∧
      (State.lowStepDone (State.begin w3561386 9000) l0 = true)) := by
  refine ⟨?_, ?_, ?_, ?_, ?_⟩ <;>
    decide +kernel

theorem witness_PowerCommandsComplete_2 :
    ((State.rd w4737211 PWR_WAKE_EN % 2 = 1) ∧ (State.wakeTimer w4737211 = some 8000) ∧ (8000 ≤ 9000) ∧
      (w4737211.pw.phase = RunPhase.running) ∧ (w4737211.pmg.low = some w6582356) ∧ (w6582356.reached = true) ∧
      (w6582356.hib = false) ∧ (w6582356.woken = false) ∧ (State.rd w4737211 PWR_STAT_STATE = 2)) ∧
    ((State.rd w2211619 PWR_STAT_STATE = 3)) := by
  refine ⟨?_, ?_⟩ <;>
    decide +kernel

end W18

end Sys2Proof.Machine.Tests
end

/-! ## Widths and alignment of register accesses (R13) -/

namespace Sys2Proof.Machine

/-! ### The rows of the register table -/

/-- What R13 asks of a row: every element of it lies at a multiple of 4, and its fields lie in 32 bits. -/
abbrev RegRow.AlignedWord (r : RegRow) : Prop :=
  4 ∣ r.base ∧ (∀ d ∈ r.dims, 4 ∣ d.1) ∧ ∀ f ∈ r.fields, f.lo + f.w ≤ 32

/-- The table is literal data: each row of each populated block is looked at. -/
theorem rowsOfBlock_populated_alignedWord : ∀ b < 16, ∀ r ∈ rowsOfBlock b, r.AlignedWord := by
  decide +kernel

theorem rowsOfBlock_unpopulated {b : Nat} (hb : 16 ≤ b) : rowsOfBlock b = [] := by
  obtain ⟨k, rfl⟩ := Nat.exists_eq_add_of_le' hb
  rfl

theorem rowsOfBlock_alignedWord {b : Nat} {r : RegRow} (hr : r ∈ rowsOfBlock b) : r.AlignedWord := by
  rcases Nat.lt_or_ge b 16 with hb | hb
  · exact rowsOfBlock_populated_alignedWord b hb r hr
  · simp [rowsOfBlock_unpopulated hb] at hr

/-! ### The register at an address -/

/-- Strides that are multiples of 4 put every element of a row a multiple of 4 from its first. -/
theorem four_dvd_of_dimsHit {dims : List (Nat × Nat)} (hdims : ∀ d ∈ dims, 4 ∣ d.1) {d : Nat} (h : dimsHit d dims = true) :
    4 ∣ d := by
  induction dims generalizing d with
  | nil =>
    have hd : d = 0 := by simpa [dimsHit] using h
    exact hd ▸ Nat.dvd_zero 4
  | cons p rest ih =>
    obtain ⟨stride, count⟩ := p
    obtain ⟨hstride, hrest⟩ := List.forall_mem_cons.mp hdims
    have hmod : 4 ∣ d % stride := ih hrest (Bool.and_eq_true_iff.mp h).2
    exact (Nat.dvd_mod_iff hstride).mp hmod

theorem RegRow.AlignedWord.four_dvd_of_hit {r : RegRow} (hr : r.AlignedWord) {addr : Nat} (h : r.hit addr = true) :
    4 ∣ addr := by
  obtain ⟨hbase, hdims, -⟩ := hr
  obtain ⟨hle, hd⟩ : r.base ≤ addr ∧ dimsHit (addr - r.base) r.dims = true := by simpa [RegRow.hit] using h
  exact (Nat.dvd_sub_iff_left hle hbase).mp (four_dvd_of_dimsHit hdims hd)

/-- A register's fields are those of a row of the table that has an element at its address. -/
theorem exists_row_of_regFields {addr : Nat} {fs : List RowField} (h : regFields addr = some fs) :
    ∃ b, ∃ r ∈ rowsOfBlock b, r.hit addr = true ∧ r.fields = fs := by
  obtain ⟨r, hfind, hfs⟩ := Option.map_eq_some_iff.mp h
  exact ⟨_, r, List.mem_of_find?_eq_some hfind, by simpa using List.find?_some hfind, hfs⟩

theorem regFields_alignedWord {addr : Nat} {fs : List RowField} (h : regFields addr = some fs) :
    addr % 4 = 0 ∧ ∀ f ∈ fs, f.lo + f.w ≤ 32 := by
  obtain ⟨b, r, hmem, hhit, rfl⟩ := exists_row_of_regFields h
  have hr : r.AlignedWord := rowsOfBlock_alignedWord hmem
  have haddr : 4 ∣ addr := hr.four_dvd_of_hit hhit
  obtain ⟨-, -, hfields⟩ := hr
  exact ⟨Nat.mod_eq_zero_of_dvd haddr, hfields⟩

/-! ### Accesses of a hart -/

theorem exec_registerWrite (m : RegMaster) (addr : BitVec 36) (size : Fin 4) (v : BitVec 32) (x t : Nat) (s : State) :
    exec (.registerWrite m addr size v x t) s = .next ((s.begin t).registerWrite m addr.toNat size v.toNat x) := rfl

theorem exec_registerRead (m : RegMaster) (addr : BitVec 36) (size : Fin 4) (t : Nat) (s : State) :
    exec (.registerRead m addr size t) s = .next ((s.begin t).registerRead m addr.toNat size) := rfl

theorem isDevice_iff (a : Nat) : isDevice a = true ↔ 0x10000000 ≤ a ∧ a < 0x20000000 := by
  simp [isDevice, inRange]

theorem regOk_eq_false {a size : Nat} (h : size ≠ 2 ∨ a % 4 ≠ 0) : regOk a size = false := by
  rcases h with h | h <;> simp [regOk, h]

@[simp] theorem State.begin_mayAccess (s : State) (t : Nat) (m : RegMaster) :
    (s.begin t).mayAccess m = s.mayAccess m := by
  cases m <;> rfl

section
variable {s : State} {h : Fin 12} {a size : Nat}

theorem State.registerWrite_hart_of_not_regOk (v x : Nat) (hmay : s.mayAccess (.hart h) = true)
    (hdev : isDevice a = true) (hbad : regOk a size = false) :
    s.registerWrite (.hart h) a size v x = s.answer .storeFault := by
  simp [State.registerWrite, State.regWrite, State.accessFault, hmay, hdev, hbad]

theorem State.registerRead_hart_of_not_regOk (hmay : s.mayAccess (.hart h) = true)
    (hdev : isDevice a = true) (hbad : regOk a size = false) :
    s.registerRead (.hart h) a size = s.answer .loadFault := by
  simp [State.registerRead, State.regRead, State.accessFault, hmay, hdev, hbad]

end

/-- How "changes nothing" is shown: an access that faults is an answer on the state with the command's instant. -/
theorem does_of_exec_eq_answer {c : Instr} {s : State} {t : Nat} {r : Resp}
    (h : exec c s = .next ((s.begin t).answer r)) :
    Does c s fun u => u = { s with now := t, hits := u.hits, resp := r, out := [] } :=
  ⟨_, h, rfl⟩

/-- Settles O55: the rows of the register table are aligned words, and the width and alignment are looked at before an
access reaches a block. -/
theorem registerWidths : Obligations.RegisterWidths := by
  intro s h addr size v fs f x t a device stops
  refine ⟨fun _ hfs hf => ?_, fun hmay hdev hbad => ?_⟩
  · obtain ⟨haligned, hfields⟩ := regFields_alignedWord hfs
    exact ⟨haligned, hfields f hf⟩
  · have hmay' : (s.begin t).mayAccess (.hart h) = true := by simpa using hmay
    have hdev' : isDevice a = true := (isDevice_iff a).mpr hdev
    have hbad' : regOk a size.val = false := regOk_eq_false hbad
    constructor
    · apply does_of_exec_eq_answer
      rw [exec_registerWrite, State.registerWrite_hart_of_not_regOk _ _ hmay' hdev' hbad']
    · apply does_of_exec_eq_answer
      rw [exec_registerRead, State.registerRead_hart_of_not_regOk hmay' hdev' hbad']

end Sys2Proof.Machine

/-! ## How an instruction of a logic engine runs (R193 to R195, R441) -/

namespace Sys2Proof.Machine

/-! ### Sound rows -/

theorem State.rowBad_of_rowErr {s : State} {memid row : Nat} (h : s.rowErr memid row = 0) :
    s.rowBad memid row = false := by
  simp [State.rowBad, h]

theorem DataSound.leDataBad {s : State} {e off n : Nat} (h : DataSound s e off n) : s.leDataBad e off n = false :=
  List.any_eq_false.mpr fun r hr => Bool.eq_false_iff.mp (State.rowBad_of_rowErr (h r hr))

/-- Reading sound rows does nothing (R441). -/
theorem State.seeRows_of_sound {s : State} {l : List (Nat × Nat)} (h : ∀ x ∈ l, s.rowErr x.1 x.2 = 0)
    (master cause : Nat) : s.seeRows master cause l = (false, s) := by
  induction l with
  | nil => rfl
  | cons x l ih =>
    obtain ⟨hx, hl⟩ := List.forall_mem_cons.mp h
    rw [State.seeRows, if_pos hx, ih hl]

/-- The rows of data memory of engine e that `rs` names are without error. -/
def RowsSound (s : State) (e : Nat) (rs : List Nat) : Prop := ∀ r ∈ rs, s.rowErr 5 (e * 2 ^ 14 + r) = 0

@[simp] theorem rowsSound_nil (s : State) (e : Nat) : RowsSound s e [] := List.forall_mem_nil _

theorem State.seeRows_of_rowsSound {s : State} {e : Nat} {rs : List Nat} (h : RowsSound s e rs) (master cause : Nat) :
    s.seeRows master cause (rs.map fun r => (5, e * 2 ^ 14 + r)) = (false, s) := by
  refine State.seeRows_of_sound (fun x hx => ?_) master cause
  obtain ⟨r, hr, rfl⟩ := List.mem_map.mp hx
  exact h r hr

section
variable {s : State} {e : Nat} {legal : Bool} {fs : List (Bool × Nat)} {rs : LeRows} {reads writes : List Nat}
  {go : State → State}

theorem LeGoes.fresh0 (h : LeGoes s e) : LeGoes s.fresh0 e := by
  obtain ⟨hcan, hfetch, hbody⟩ := h
  exact ⟨hcan, hfetch, hbody⟩

theorem FetchSound.seeRows (h : FetchSound s e) (master cause : Nat) :
    s.seeRows master cause [(4, e * 2 ^ 16 + s.leBank e * 2 ^ 15 + (s.engine e).pc / 8)] = (false, s) := by
  unfold FetchSound at h
  rw [State.seeRows, if_pos h, State.seeRows]

/-- A fault that comes before the operands leaves their rows unread. -/
theorem State.leSeen_of_early_fault (h : FetchSound s e) {c : Nat} (hc : c ≠ flData) :
    s.leSeen e (some c) rs = s := by
  rw [State.leSeen, h.seeRows, if_neg (by simpa using hc)]

theorem State.leSeen_of_sound (h : FetchSound s e) (hr : RowsSound s e reads) (hw : RowsSound s e writes) :
    s.leSeen e none ⟨reads, writes⟩ = s := by
  rw [State.leSeen, h.seeRows, if_pos (.inl rfl), State.seeRows_of_rowsSound hr, if_neg (by simp),
    State.seeRows_of_rowsSound hw]

/-! ### Which fault is reported -/

theorem firstFault_eq_none {l : List (Bool × Nat)} (h : ∀ f ∈ l, f.1 = false) : firstFault l = none :=
  List.find?_eq_none.mpr fun c _ => by
    have hany : (l.any fun f => f.1 && f.2 == c) = false := List.any_eq_false.mpr fun f hf => by simp [h f hf]
    simp [hany]

/-- Where one code alone applies it is the one reported. -/
theorem firstFault_eq_some_of_only {l : List (Bool × Nat)} {c : Nat} (hc : c ∈ faultOrder) (hmem : (true, c) ∈ l)
    (honly : ∀ f ∈ l, f.1 = true → f.2 = c) : firstFault l = some c := by
  have happlies : (l.any fun f => f.1 && f.2 == c) = true := List.any_eq_true.mpr ⟨_, hmem, by simp⟩
  obtain ⟨d, hd⟩ := Option.isSome_iff_exists.mp
    (List.find?_isSome (p := fun c => l.any fun f => f.1 && f.2 == c).mpr ⟨c, hc, happlies⟩)
  obtain ⟨f, hf, hfd⟩ := List.any_eq_true.mp
    (List.find?_some (p := fun c => l.any fun f => f.1 && f.2 == c) hd)
  obtain ⟨hon, hcode⟩ : f.1 = true ∧ f.2 = d := by simpa using hfd
  rw [firstFault, hd, ← hcode, honly f hf hon]

/-- Only a lane failure and an uncorrectable fetch come before an undefined encoding (R195). -/
theorem firstFault_eq_illegal {l : List (Bool × Nat)} (hmem : (true, flIllegal) ∈ l)
    (hbefore : ∀ f ∈ l, f.1 = true → f.2 ≠ flLane ∧ f.2 ≠ flFetch) : firstFault l = some flIllegal := by
  have happlies : (l.any fun f => f.1 && f.2 == flIllegal) = true := List.any_eq_true.mpr ⟨_, hmem, by simp⟩
  have hlane : (l.any fun f => f.1 && f.2 == 0x0C) = false :=
    List.any_eq_false.mpr fun f hf => by simpa using fun hon => (hbefore f hf hon).1
  have hfetch : (l.any fun f => f.1 && f.2 == 0x0A) = false :=
    List.any_eq_false.mpr fun f hf => by simpa using fun hon => (hbefore f hf hon).2
  simp [firstFault, faultOrder, hlane, hfetch, happlies]

/-! ### One instruction -/

theorem LeGoes.leFetchBad (h : LeGoes s e) : s.leFetchBad e (s.engine e).pc = false :=
  State.rowBad_of_rowErr h.2.1

/-- An instruction that meets no fault has its effect and nothing else. -/
theorem State.leRun_of_no_fault (h : LeGoes s e) (hl : legal = true) (hf : ∀ f ∈ fs, f.1 = false)
    (hr : RowsSound s e reads) (hw : RowsSound s e writes) : s.leRun e legal fs ⟨reads, writes⟩ go = go s := by
  obtain ⟨hcan, hfetch, hbody⟩ := h
  have hnone : firstFault ((s.leFetchBad e (s.engine e).pc, flFetch) :: (!legal, flIllegal) ::
      (!s.leInBody e (s.engine e).pc, flStructure) :: fs) = none :=
    firstFault_eq_none (by simpa [LeGoes.leFetchBad ⟨hcan, hfetch, hbody⟩, hl, hbody] using hf)
  simp only [State.leRun, hcan, if_true, hnone, State.leSeen_of_sound hfetch hr hw]

/-- An instruction that meets one fault of its own reports it. -/
theorem State.leRun_of_only_fault (h : LeGoes s e) (hl : legal = true) {c : Nat} (hc : c ∈ faultOrder)
    (hdata : c ≠ flData) (hmem : (true, c) ∈ fs) (honly : ∀ f ∈ fs, f.1 = true → f.2 = c) :
    s.leRun e legal fs rs go = s.leFault e c := by
  obtain ⟨hcan, hfetch, hbody⟩ := h
  have hsome : firstFault ((s.leFetchBad e (s.engine e).pc, flFetch) :: (!legal, flIllegal) ::
      (!s.leInBody e (s.engine e).pc, flStructure) :: fs) = some c :=
    firstFault_eq_some_of_only hc (by simp [hmem])
      (by simpa [LeGoes.leFetchBad ⟨hcan, hfetch, hbody⟩, hl, hbody] using honly)
  simp only [State.leRun, hcan, if_true, hsome, State.leSeen_of_early_fault hfetch hdata]

/-- An undefined encoding is the fault reported, whatever its operands are. -/
theorem State.leRun_of_illegal (h : LeGoes s e) (hl : legal = false)
    (hfs : ∀ f ∈ fs, f.1 = true → f.2 ≠ flLane ∧ f.2 ≠ flFetch) :
    s.leRun e legal fs rs go = s.leFault e flIllegal := by
  obtain ⟨hcan, hfetch, hbody⟩ := h
  have hsome : firstFault ((s.leFetchBad e (s.engine e).pc, flFetch) :: (!legal, flIllegal) ::
      (!s.leInBody e (s.engine e).pc, flStructure) :: fs) = some flIllegal :=
    firstFault_eq_illegal (by simp [hl])
      (by simpa [LeGoes.leFetchBad ⟨hcan, hfetch, hbody⟩, hl, hbody] using hfs)
  simp only [State.leRun, hcan, if_true, hsome, State.leSeen_of_early_fault hfetch (c := flIllegal) (by decide)]

end

end Sys2Proof.Machine

/-! ## What a program fault of a logic engine leaves behind (R194) -/

namespace Sys2Proof.Machine

/-! ### The steps of a fault that reach no register of the engine -/

section
variable (s : State) (e : Nat)

/-- What follows the writes of a fault: the owned groups settle, source 16 + e and the fault record. -/
theorem State.faultTail_kept (n cls src kind obj : Nat) (w0 w1 : Option Nat) :
    Kept [.pend, .iog, .chan, .ingress] [.out, .pw, .rcd, .io] s
      (((s.settleOwner e).raise n).record cls src kind obj w0 w1) :=
  State.record_kept (State.raise_kept (State.settleOwner_kept (Kept.refl _ _ s) (by decide) (by decide)) (by decide))
    (by decide) (by decide)

/-- The free groups take the invalid image. -/
theorem State.applyFree_keeps : Kept [.pend, .iog, .chan, .ingress] [.out, .pw, .rcd, .io] s (s.applyFree e) :=
  State.applyFree_kept (Kept.refl _ _ s) (by decide) (by decide)

end

/-- The registers of an engine lie in no area of the frame of those steps, and its other state in none of the parts. -/
theorem Kept.engine_eq {s u : State} (h : Kept [.pend, .iog, .chan, .ingress] [.out, .pw, .rcd, .io] s u) (i : Nat) :
    u.engine i = s.engine i := by
  have heng : u.eng = s.eng := h.framed.parts .eng (by decide)
  simp [State.engine, heng]

theorem Kept.rd_le {s u : State} (h : Kept [.pend, .iog, .chan, .ingress] [.out, .pw, .rcd, .io] s u) {f : Fld}
    (hf : f.area = .le) : u.rd f = s.rd f :=
  h.framed.regs f (by rw [hf]; decide)

/-! ### The registers of a fault -/

/-- The register writes of a fault, before the image is published as invalid. -/
def State.faultWrites (s : State) (e code : Nat) : State :=
  let x := s.engine e
  let s := s.leIdle e
  let s := (s.wr (LE_Ee_FAULT_CODE e) code).wr (LE_Ee_FAULT_BANK e) (s.leBank e)
  let s := (s.wr (LE_Ee_FAULT_DEPTH e) x.cstack.length).wr (LE_Ee_FAULT_PC_PC e) x.pc
  let s := (s.wr (LE_Ee_STAT_FAULTEV e) 1).wr (LE_Ee_STAT_STATE e) leFaulted
  if s.rd (LE_Ee_STAT_SHADOW e) = 4 then s.wr (LE_Ee_STAT_SHADOW e) 2 else s

section
variable (s : State) (e code : Nat)

/-- A fault in two parts: its register writes, and what the module makes of them. -/
theorem State.leFault_eq : s.leFault e code =
    (((((s.faultWrites e code).setEngine e { s.engine e with
      executing := false, stop := false, want := .none, deadline := none, dl := none }).publishInvalid e).settleOwner
        e).raise (16 + e)).record 1 4 (16 + e) e (some (0x10301004 + 0x1000 * e)) (some (0x10301038 + 0x1000 * e)) :=
  rfl

@[simp] theorem State.faultWrites_engine (i : Nat) : (s.faultWrites e code).engine i = s.engine i := by
  unfold State.faultWrites
  dsimp only
  split <;> rfl

theorem State.rd_publishInvalid {f : Fld} (hf : f.area = .le) :
    (s.publishInvalid e).rd f = (s.wr (LE_Ee_STAT_VALID e) 0).rd f := by
  unfold State.publishInvalid
  rw [(State.applyFree_keeps ..).rd_le hf]
  rfl

theorem State.engine_publishInvalid_ne {i : Nat} (hi : i ≠ e) : (s.publishInvalid e).engine i = s.engine i := by
  unfold State.publishInvalid
  rw [(State.applyFree_keeps ..).engine_eq, State.wr_engine, State.engine_setEngine_ne _ hi]

theorem State.rd_leFault {f : Fld} (hf : f.area = .le) :
    (s.leFault e code).rd f = ((s.faultWrites e code).wr (LE_Ee_STAT_VALID e) 0).rd f := by
  rw [State.leFault_eq, (State.faultTail_kept ..).rd_le hf, State.rd_publishInvalid _ _ hf]
  rfl

theorem State.engine_leFault_ne {i : Nat} (hi : i ≠ e) : (s.leFault e code).engine i = s.engine i := by
  rw [State.leFault_eq, (State.faultTail_kept ..).engine_eq, State.engine_publishInvalid_ne _ _ hi,
    State.engine_setEngine_ne _ hi, State.faultWrites_engine]

/-- The fields that a fault writes lie at different places. -/
theorem State.rd_faultWrites :
    let u := (s.faultWrites e code).wr (LE_Ee_STAT_VALID e) 0
    u.rd (LE_Ee_STAT_STATE e) = leFaulted ∧ u.rd (LE_Ee_FAULT_CODE e) = code % 2 ^ 8 ∧ u.rd (LE_Ee_STAT_FAULTEV e) = 1 ∧
    u.rd (LE_Ee_FAULT_PC_PC e) = (s.engine e).pc % 2 ^ 18 ∧ u.rd (LE_Ee_FAULT_BANK e) = s.leBank e % 2 ∧
    u.rd (LE_Ee_FAULT_DEPTH e) = (s.engine e).cstack.length % 16 ∧ u.rd (LE_Ee_STAT_VALID e) = 0 := by
  unfold State.faultWrites
  dsimp only
  split <;> refine ⟨?_, ?_, ?_, ?_, ?_, ?_, ?_⟩ <;>
    simp (disch := simp only [Fld.key, LE_Ee_STAT_STATE, LE_Ee_STAT_SHADOW, LE_Ee_STAT_VALID, LE_Ee_STAT_FAULTEV,
      LE_Ee_FAULT_CODE, LE_Ee_FAULT_BANK, LE_Ee_FAULT_DEPTH, LE_Ee_FAULT_PC_PC]; omega) only
      [State.rd_wr_ne, State.rd_wr_same] <;> rfl

/-- A fault touches the memories in no way. -/
theorem State.leFault_keeps : Kept [.pend, .le, .iog, .chan, .ingress] [.out, .pw, .rcd, .io, .eng, .pmg] s
    (s.leFault e code) :=
  State.leFault_kept (Kept.refl _ _ s) (by decide) (by decide)

theorem State.leByte_leFault (a : Nat) : (s.leFault e code).leByte a = s.leByte a := by
  have hmem : (s.leFault e code).leMem = s.leMem := (s.leFault_keeps e code).framed.parts .leMem (by decide)
  rw [State.leByte, hmem, State.leByte]

theorem State.byte_leFault (a : Nat) : (s.leFault e code).byte a = s.byte a := by
  have hmem : (s.leFault e code).mem = s.mem := (s.leFault_keeps e code).framed.parts .mem (by decide)
  rw [State.byte, hmem, State.byte]

theorem State.engineFaults_leFault (hcode : code < 2 ^ 8) : EngineFaults e code s (s.fresh0.leFault e code) := by
  obtain ⟨hstate, hfcode, hev, hpc, hbank, hdepth, hvalid⟩ := s.fresh0.rd_faultWrites e code
  rw [← State.rd_leFault _ _ _ rfl] at hstate hfcode hev hpc hbank hdepth hvalid
  rw [Nat.mod_eq_of_lt hcode] at hfcode
  exact ⟨hstate, hfcode, hev, hpc, hbank, hdepth, hvalid, State.leByte_leFault _ e code, State.byte_leFault _ e code,
    fun i hi => State.engine_leFault_ne _ e code hi⟩

end

end Sys2Proof.Machine

/-! ## What an instruction of a logic engine changes: its registers and its data memory (R161, R438, R445) -/

namespace Sys2Proof.Machine

/-! ### Registers of the engine -/

section
variable {s u : State} {e : Nat} {x : Engine}

theorem EngineTo.fresh0 (s : State) (e : Nat) : EngineTo e (s.engine e) s s.fresh0 := ⟨rfl, rfl, fun _ _ => rfl⟩

theorem EngineTo.setEngine (h : EngineTo e x s u) (y : Engine) : EngineTo e y s (u.setEngine e y) := by
  obtain ⟨hu, -, hothers⟩ := h
  refine ⟨?_, State.engine_setEngine_same .., fun i hi => (State.engine_setEngine_ne _ hi _).trans (hothers i hi)⟩
  rw [hu]; rfl

theorem EngineTo.leNext (h : EngineTo e x s u) (f : Engine → Engine) :
    EngineTo e { f x with pc := x.pc + 1 } s (u.leNext e f) := by
  have hx : u.engine e = x := by obtain ⟨-, hx, -⟩ := h; exact hx
  simpa only [State.leNext, hx] using h.setEngine { f x with pc := x.pc + 1 }

end

/-! ### Bytes of data memory -/

section
variable (s : State)

theorem State.leByte_putLeBytes_of_outside {a i : Nat} {bs : List Byte} (h : i < a ∨ a + bs.length ≤ i) :
    (s.putLeBytes a bs).leByte i = s.leByte i := by
  induction bs generalizing s a with
  | nil => rfl
  | cons b r ih =>
    rw [List.length_cons] at h
    rw [State.putLeBytes, ih _ (by omega), State.leByte_putLeByte_ne _ (by omega)]

theorem State.leByte_putLeBytes_add {a j : Nat} {bs : List Byte} (h : j < bs.length) :
    (s.putLeBytes a bs).leByte (a + j) = bs[j] := by
  induction bs generalizing s a j with
  | nil => exact absurd h (Nat.not_lt_zero j)
  | cons b r ih =>
    cases j with
    | zero => rw [State.putLeBytes, State.leByte_putLeBytes_of_outside _ (by omega)]; simp
    | succ j =>
      rw [State.putLeBytes, show a + (j + 1) = a + 1 + j by omega]
      exact ih _ (by simpa using h)

/-- The rows of data memory that a write touches are encoded afresh (R438), which frees SOFT entries that name them. -/
def State.encodeRows (s : State) (e : Nat) (rows : List Nat) : State :=
  rows.foldl (fun s r => (s.setErr 5 (e * 2 ^ 14 + r) 0).rowWritten 5 (e * 2 ^ 14 + r)) s

theorem State.putLeData_eq (e off : Nat) (bs : List Byte) : s.putLeData e off bs =
    (s.putLeBytes (leDataBase e + off) bs).encodeRows e (rowsOfRange off bs.length) := rfl

theorem State.encodeRows_keeps (e : Nat) (rows : List Nat) :
    Kept [.pend, .ecc, .ingress] [.pw, .rcd, .ecc] s (s.encodeRows e rows) :=
  Kept.foldl (fun _ _ h => State.rowWritten_kept (State.setErr_kept h (by decide)) (by decide) (by decide))
    (Kept.refl _ _ s) rows

@[simp] theorem State.leByte_encodeRows (e : Nat) (rows : List Nat) (i : Nat) :
    (s.encodeRows e rows).leByte i = s.leByte i := by
  have hmem : (s.encodeRows e rows).leMem = s.leMem := (s.encodeRows_keeps e rows).framed.parts .leMem (by decide)
  rw [State.leByte, hmem, State.leByte]

theorem State.leByte_putLeData_of_outside {e off i : Nat} {bs : List Byte}
    (h : i < leDataBase e + off ∨ leDataBase e + off + bs.length ≤ i) :
    (s.putLeData e off bs).leByte i = s.leByte i := by
  rw [State.putLeData_eq, State.leByte_encodeRows, State.leByte_putLeBytes_of_outside _ h]

theorem State.leByte_putLeData_add {e off j : Nat} {bs : List Byte} (h : j < bs.length) :
    (s.putLeData e off bs).leByte (leDataBase e + off + j) = bs[j] := by
  rw [State.putLeData_eq, State.leByte_encodeRows, State.leByte_putLeBytes_add _ h]

end

/-! ### A write of data memory, and the correction table -/

/-- A row that no SOFT entry names frees none when it is written. -/
theorem State.rowWritten_of_noSoft {s : State} (h : NoSoft s) (memid row : Nat) : s.rowWritten memid row = s := by
  unfold State.rowWritten
  split
  · next i hi =>
    have hlt : i < 32 := List.mem_range.mp (List.mem_of_find?_eq_some hi)
    rw [if_neg (h i hlt)]
  · rfl

theorem NoSoft.of_regsIn {s u : State} (h : NoSoft s) (hu : RegsIn [] s u) : NoSoft u := fun i hi => by
  rw [State.ctState, hu _ List.not_mem_nil]
  exact h i hi

theorem State.encodeRows_of_noSoft {s : State} (h : NoSoft s) (e : Nat) (rows : List Nat) :
    RegsIn [] s (s.encodeRows e rows) ∧ (s.encodeRows e rows).pw = s.pw ∧ (s.encodeRows e rows).rcd = s.rcd := by
  induction rows generalizing s with
  | nil => exact ⟨fun _ _ => rfl, rfl, rfl⟩
  | cons r rows ih =>
    have hr : NoSoft (s.setErr 5 (e * 2 ^ 14 + r) 0) := h
    have hstep : s.encodeRows e (r :: rows) = (s.setErr 5 (e * 2 ^ 14 + r) 0).encodeRows e rows := by
      rw [State.encodeRows, List.foldl_cons, State.rowWritten_of_noSoft hr]; rfl
    obtain ⟨hregs, hpw, hrcd⟩ := ih hr
    rw [hstep]
    exact ⟨hregs, hpw, hrcd⟩

theorem State.putLeData_of_noSoft {s : State} (h : NoSoft s) (e off : Nat) (bs : List Byte) :
    RegsIn [] s (s.putLeData e off bs) ∧ (s.putLeData e off bs).pw = s.pw ∧ (s.putLeData e off bs).rcd = s.rcd := by
  have hbytes : Kept [] [.leMem] s (s.putLeBytes (leDataBase e + off) bs) :=
    State.putLeBytes_kept (Kept.refl _ _ s) (by decide)
  obtain ⟨hregs, hpw, hrcd⟩ :=
    State.encodeRows_of_noSoft (h.of_regsIn hbytes.framed.regs) e (rowsOfRange off bs.length)
  exact ⟨fun f hf => (hregs f hf).trans (hbytes.framed.regs f hf), hpw.trans (hbytes.framed.parts .pw (by decide)),
    hrcd.trans (hbytes.framed.parts .rcd (by decide))⟩

/-! ### Registers and data memory -/

theorem State.putLeData_keeps (s : State) (e off : Nat) (bs : List Byte) :
    Kept [.pend, .ecc, .ingress] [.leMem, .pw, .rcd, .ecc] s (s.putLeData e off bs) :=
  State.putLeData_kept (Kept.refl _ _ s) (by decide) (by decide)

/-- The frame of a write of data memory, as the state that it leaves. -/
theorem Kept.eq_of_putLeData {A : List Area} {s u : State} (h : Kept A [.leMem, .pw, .rcd, .ecc] s u) :
    u = { s with leMem := u.leMem, regs := u.regs, hits := u.hits, ecc := u.ecc, pw := u.pw, rcd := u.rcd } := by
  obtain ⟨⟨-, hp⟩, hq, -⟩ := h
  cases u
  simp only [State.mk.injEq, true_and]
  exact ⟨hq, hp .now (by decide), hp .mem (by decide), hp .resp (by decide), hp .out (by decide), hp .fresh (by decide),
    hp .std (by decide), hp .lko (by decide), hp .dbg (by decide), hp .cop (by decide), hp .io (by decide),
    hp .eng (by decide), hp .rng (by decide), hp .key (by decide), hp .cnp (by decide), hp .fab (by decide),
    hp .cvu (by decide), hp .rwy (by decide), hp .ust (by decide), hp .fwu (by decide), hp .pmg (by decide)⟩

@[simp] theorem State.engine_putLeData (s : State) (e off : Nat) (bs : List Byte) (i : Nat) :
    (s.putLeData e off bs).engine i = s.engine i := by
  have heng : (s.putLeData e off bs).eng = s.eng := (s.putLeData_keeps e off bs).framed.parts .eng (by decide)
  rw [State.engine, heng, State.engine]

section
variable {s u : State} {e off n : Nat} {x : Engine}

theorem EngineWrites.fresh0 (s : State) (e off n : Nat) : EngineWrites e (s.engine e) off n s s.fresh0 :=
  ⟨rfl, fun _ _ => rfl, fun _ => ⟨fun _ _ => rfl, rfl, rfl⟩, rfl, fun _ _ => rfl, fun _ _ => rfl⟩

theorem EngineWrites.setEngine (h : EngineWrites e x off n s u) (y : Engine) :
    EngineWrites e y off n s (u.setEngine e y) := by
  obtain ⟨hu, hregs, hsoft, -, hothers, hbytes⟩ := h
  refine ⟨?_, hregs, hsoft, State.engine_setEngine_same .., fun i hi => ?_, hbytes⟩
  · rw [hu]; rfl
  · exact (State.engine_setEngine_ne _ hi _).trans (hothers i hi)

theorem EngineWrites.leNext (h : EngineWrites e x off n s u) (f : Engine → Engine) :
    EngineWrites e { f x with pc := x.pc + 1 } off n s (u.leNext e f) := by
  have hx : u.engine e = x := by obtain ⟨-, -, -, hx, -⟩ := h; exact hx
  simpa only [State.leNext, hx] using h.setEngine { f x with pc := x.pc + 1 }

/-- A write within the bytes that may differ. -/
theorem EngineWrites.putLeData (h : EngineWrites e x off n s u) {a : Nat} {bs : List Byte} (hlo : off ≤ a)
    (hhi : a + bs.length ≤ off + n) : EngineWrites e x off n s (u.putLeData e a bs) := by
  obtain ⟨hu, hregs, hsoft, hx, hothers, hbytes⟩ := h
  have hkeeps := u.putLeData_keeps e a bs
  refine ⟨?_, fun f hf => (hkeeps.framed.regs f hf).trans (hregs f hf), fun hs => ?_, ?_, fun i hi => ?_,
    fun b hb => ?_⟩
  · rw [hkeeps.eq_of_putLeData, hu]
  · obtain ⟨hr, hpw, hrcd⟩ := hsoft hs
    obtain ⟨hr', hpw', hrcd'⟩ := State.putLeData_of_noSoft (hs.of_regsIn hr) e a bs
    exact ⟨fun f hf => (hr' f hf).trans (hr f hf), hpw'.trans hpw, hrcd'.trans hrcd⟩
  · rw [State.engine_putLeData, hx]
  · rw [State.engine_putLeData, hothers i hi]
  · rw [State.leByte_putLeData_of_outside _ (by omega), hbytes b hb]

end

end Sys2Proof.Machine

/-! ## Bit logic of the logic engines (R174 to R178) -/

namespace Sys2Proof.Machine

/-! ### A bit of a number -/

theorem setBit_true_of_not_testBit {v i : Nat} (h : v.testBit i = false) : setBit v i true = v + 2 ^ i := by
  rw [setBit, bitAt_eq_testBit, h, if_neg Bool.false_ne_true, if_pos rfl]

theorem setBit_false_of_testBit {v i : Nat} (h : v.testBit i = true) : setBit v i false = v - 2 ^ i := by
  rw [setBit, bitAt_eq_testBit, h, if_neg Bool.false_ne_true.symm, if_neg Bool.false_ne_true]

/-- Clearing a bit: what is left gives the number back when the bit is set again. -/
theorem testBit_setBit_false (v i j : Nat) : (setBit v i false).testBit j = (v.testBit j && decide (i ≠ j)) := by
  cases hbit : v.testBit i with
  | false =>
    rw [setBit, bitAt_eq_testBit, if_pos hbit]
    by_cases hij : i = j
    · subst hij; simp [hbit]
    · simp [hij]
  | true =>
    obtain ⟨w, rfl⟩ := Nat.exists_eq_add_of_le (Nat.ge_two_pow_of_testBit hbit)
    have hw : w.testBit i = false := by simpa [Nat.testBit_two_pow_add_eq] using hbit
    have hset := testBit_setBit_true w i j
    rw [setBit_true_of_not_testBit hw, Nat.add_comm] at hset
    rw [setBit_false_of_testBit hbit, Nat.add_sub_cancel_left, hset]
    by_cases hij : i = j
    · subst hij; simp [hw]
    · simp [hij]

/-- XORN, as the model has it. -/
theorem beq_eq_xor_not (a b : Bool) : (a == b) = (a ^^ !b) := by cases a <;> cases b <;> rfl

theorem testBit_setBit (v i j : Nat) (b : Bool) : (setBit v i b).testBit j = if j = i then b else v.testBit j := by
  cases b with
  | false => rw [testBit_setBit_false]; rcases eq_or_ne j i with rfl | hij <;> simp_all [Ne.symm]
  | true => rw [testBit_setBit_true]; rcases eq_or_ne j i with rfl | hij <;> simp_all [Ne.symm]

/-! ### Operands -/

section
variable {s : State} {e mod opnd : Nat}

theorem BitOk.fresh0 (h : BitOk s e mod opnd) : BitOk s.fresh0 e mod opnd := h

theorem BitOk.bitFaults (h : BitOk s e mod opnd) : ∀ f ∈ s.bitFaults e mod opnd, f.1 = false := by
  by_cases hmod : mod = 2
  · simpa [BitOk, State.bitFaults, hmod] using h
  · simp only [BitOk, if_neg hmod] at h
    obtain ⟨hrange, hsound⟩ := h
    simp [State.bitFaults, hmod, hrange, hsound.leDataBad]

/-- One byte lies in one row. -/
theorem rowsOfRange_one (off : Nat) : rowsOfRange off 1 = [off / 32] := by
  have hone : (off % 32 + 1 + 31) / 32 = 1 := by omega
  simp [rowsOfRange, hone]

theorem BitOk.bitRow (h : BitOk s e mod opnd) : RowsSound s e (s.bitRow e mod opnd) := by
  unfold State.bitRow
  split
  · simp
  · next hmod =>
    simp only [BitOk, if_neg hmod] at h
    obtain ⟨-, hsound⟩ := h
    rwa [DataSound, rowsOfRange_one, Nat.div_div_eq_div_mul] at hsound

/-- A bit that can be read can be stored to, but for the system bits other than OV (R176). -/
theorem BitOk.bitStoreFaults (h : BitOk s e mod opnd) (hov : mod = 2 → opnd = 2) :
    ∀ f ∈ s.bitStoreFaults e mod opnd, f.1 = false := by
  refine List.forall_mem_cons.mpr ⟨?_, h.bitFaults⟩
  by_cases hmod : mod = 2 <;> simp [hmod, hov]

theorem bitOk_system (h : opnd ≤ 4) : BitOk s e 2 opnd := by simpa [BitOk] using h

/-- The faults of a bit operand come after an undefined encoding (R195). -/
theorem State.bitFaults_codes (f : Bool × Nat) (hf : f ∈ s.bitFaults e mod opnd) : f.2 ≠ flLane ∧ f.2 ≠ flFetch := by
  unfold State.bitFaults at hf
  split at hf
  · rw [List.mem_singleton.mp hf]; simp
  · rcases List.mem_pair.mp hf with rfl | rfl <;> simp

end

/-! ### One instruction, from its row of the dispatch -/

section
variable {c : Instr} {s : State} {e op mod x opnd : Nat}

/-- An instruction that meets no fault and only changes registers of its engine. -/
theorem does_leRun_next {legal : Bool} {fs : List (Bool × Nat)} {reads writes : List Nat} {f : State → Engine → Engine}
    {y : Engine} (hexec : exec c s = .next (s.fresh0.leRun e legal fs ⟨reads, writes⟩ fun u => u.leNext e (f u)))
    (hgo : LeGoes s e) (hl : legal = true) (hf : ∀ f ∈ fs, f.1 = false) (hr : RowsSound s.fresh0 e reads)
    (hw : RowsSound s.fresh0 e writes)
    (hy : { f s.fresh0 (s.engine e) with pc := (s.engine e).pc + 1 } = y) : Does c s (EngineTo e y s) := by
  refine ⟨_, hexec, ?_⟩
  rw [State.leRun_of_no_fault hgo.fresh0 hl hf hr hw, ← hy]
  exact (EngineTo.fresh0 s e).leNext _

theorem faultOrder_lt : ∀ code ∈ faultOrder, code < 2 ^ 8 := by decide

/-- An instruction that meets one fault of its own reports it. -/
theorem does_engineFaults {legal : Bool} {fs : List (Bool × Nat)} {rs : LeRows} {go : State → State} {code : Nat}
    (hexec : exec c s = .next (s.fresh0.leRun e legal fs rs go)) (hgo : LeGoes s e) (hl : legal = true)
    (hc : code ∈ faultOrder) (hdata : code ≠ flData) (hmem : (true, code) ∈ fs)
    (honly : ∀ f ∈ fs, f.1 = true → f.2 = code) : Does c s (EngineFaults e code s) := by
  refine ⟨_, hexec, ?_⟩
  rw [State.leRun_of_only_fault hgo.fresh0 hl hc hdata hmem honly]
  exact State.engineFaults_leFault s e code (faultOrder_lt code hc)

/-! ### Loads and combinations -/

/-- A bit instruction on an operand that can be read changes BA alone. -/
theorem does_leBitOp {f : Bool → Bool → Bool} {b : Bool}
    (hexec : exec c s = .next (s.fresh0.leBitOp e op mod x opnd f)) (hgo : LeGoes s e) (hok : BitOk s e mod opnd)
    (hl : leLegal op mod x opnd = true) (hb : f (s.engine e).ba (s.bitVal e mod opnd) = b) :
    Does c s (EngineTo e { s.engine e with pc := (s.engine e).pc + 1, ba := b } s) := by
  subst hb
  exact does_leRun_next hexec hgo hl hok.fresh0.bitFaults hok.fresh0.bitRow (rowsSound_nil _ _) rfl

/-! ### Stores -/

theorem State.leBitStore_of_no_fault {v : Bool → Option Bool} (hgo : LeGoes s e) (hok : BitOk s e mod opnd)
    (hov : mod = 2 → opnd = 2) (hl : leLegal op mod x opnd = true) :
    s.fresh0.leBitStore e op mod x opnd v =
      ((v (s.engine e).ba).elim s.fresh0 (s.fresh0.storeBit e mod opnd)).leNext e id := by
  rw [State.leBitStore, State.leRun_of_no_fault hgo.fresh0 hl (hok.fresh0.bitStoreFaults hov) (rowsSound_nil _ _)
    hok.fresh0.bitRow]
  change State.leNext (match v (s.engine e).ba with | some b => _ | none => _) e id = _
  cases v (s.engine e).ba <;> rfl

/-- A store that the condition of S and R leaves out. -/
theorem does_leBitStore_none {v : Bool → Option Bool}
    (hexec : exec c s = .next (s.fresh0.leBitStore e op mod x opnd v)) (hgo : LeGoes s e) (hok : BitOk s e mod opnd)
    (hov : mod = 2 → opnd = 2) (hl : leLegal op mod x opnd = true) (hv : v (s.engine e).ba = none) :
    Does c s (EngineTo e { s.engine e with pc := (s.engine e).pc + 1 } s) := by
  refine ⟨_, hexec, ?_⟩
  rw [State.leBitStore_of_no_fault hgo hok hov hl, hv]
  exact (EngineTo.fresh0 s e).leNext id

/-- A store to OV. -/
theorem does_leBitStore_ov {v : Bool → Option Bool} {b : Bool}
    (hexec : exec c s = .next (s.fresh0.leBitStore e op 2 x 2 v)) (hgo : LeGoes s e)
    (hl : leLegal op 2 x 2 = true) (hv : (v (s.engine e).ba).getD (s.engine e).ov = b) :
    Does c s (EngineTo e { s.engine e with pc := (s.engine e).pc + 1, ov := b } s) := by
  refine ⟨_, hexec, ?_⟩
  rw [State.leBitStore_of_no_fault hgo (bitOk_system (by decide)) (fun _ => rfl) hl]
  subst hv
  cases v (s.engine e).ba with
  | none => exact (EngineTo.fresh0 s e).leNext id
  | some b => exact ((EngineTo.fresh0 s e).setEngine { s.engine e with ov := b }).leNext id

/-- What S leaves in a bit, and what R does. -/
theorem getD_setIf (b o : Bool) : (if b then some true else none).getD o = (o || b) := by cases b <;> simp

theorem getD_resetIf (b o : Bool) : (if b then some false else none).getD o = (o && !b) := by cases b <;> simp

theorem State.getLsbD_putLeBit (s : State) (e a : Nat) (b : Bool) {j : Nat} (hj : j < 8) :
    ((s.putLeBit e a b).leByte (leDataBase e + a / 8)).getLsbD j =
      if j = a % 8 then b else (s.leByte (leDataBase e + a / 8)).getLsbD j := by
  have hbyte : (s.putLeBit e a b).leByte (leDataBase e + a / 8) =
      BitVec.ofNat 8 (setBit (s.leByte (leDataBase e + a / 8)).toNat (a % 8) b) :=
    State.leByte_putLeData_add s (j := 0) (bs := [_]) Nat.zero_lt_one
  rw [hbyte, BitVec.getLsbD_ofNat, testBit_setBit, BitVec.testBit_toNat, decide_eq_true hj, Bool.true_and]

/-- A store to a bit of data memory changes that bit alone. -/
theorem does_leBitStore_memory {v : Bool → Option Bool} {b : Bool}
    (hexec : exec c s = .next (s.fresh0.leBitStore e op mod x opnd v)) (hgo : LeGoes s e) (hmod : mod ≠ 2)
    (hok : BitOk s e mod opnd) (hl : leLegal op mod x opnd = true) (hv : v (s.engine e).ba = some b) :
    let a := bitAddr (s.engine e) mod opnd
    Does c s fun u => EngineWrites e { s.engine e with pc := (s.engine e).pc + 1 } (a / 8) 1 s u ∧
      ∀ j, j < 8 → (u.leByte (leDataBase e + a / 8)).getLsbD j =
        if j = a % 8 then b else (s.leByte (leDataBase e + a / 8)).getLsbD j := by
  refine ⟨_, hexec, ?_⟩
  rw [State.leBitStore_of_no_fault hgo hok (absurd · hmod) hl, hv, Option.elim_some, State.storeBit, if_neg hmod]
  exact ⟨((EngineWrites.fresh0 s e _ 1).putLeData (Nat.le_refl _) (Nat.le_refl _)).leNext id,
    fun j hj => State.getLsbD_putLeBit s.fresh0 e _ b hj⟩

end

/-! ### The branch stack -/

/-- The pending operations in the order of their numbers (R177). -/
theorem pendingOp_eq_getD {op : Nat} (hop : op ≤ 5) (b v : Bool) : pendingOp op b v =
    [b && v, b && !v, b || v, b || !v, b ^^ v, b ^^ !v].getD op false := by
  interval_cases op <;> cases b <;> cases v <;> rfl

section
variable {s : State} {e mod : Fin 4} {x : Fin 16} {opnd : Fin 1048576}

/-- LDS loads SI from an operand that can be read. -/
theorem does_leLds {b : Bool} (hgo : LeGoes s e) (hok : BitOk s e mod opnd) (hl : leLegal 0x0D mod x opnd = true)
    (hb : (s.bitVal e mod opnd != (x.val % 2 == 1)) = b) :
    Does (.leLds e mod x opnd) s (EngineTo e { s.engine e with pc := (s.engine e).pc + 1, si := b } s) := by
  subst hb
  exact does_leRun_next rfl hgo hl hok.fresh0.bitFaults hok.fresh0.bitRow (rowsSound_nil _ _) rfl

theorem State.bopenFaults_of_bitOk (hok : BitOk s e mod opnd) (hroom : (s.engine e).bstack.length < 16) :
    ∀ f ∈ (decide (16 ≤ (s.engine e).bstack.length), flBranchOver) :: s.bitFaults e mod opnd, f.1 = false :=
  List.forall_mem_cons.mpr ⟨by simpa using hroom, hok.bitFaults⟩

theorem does_leBopen (hgo : LeGoes s e) (hok : BitOk s e mod opnd) (hx : x.val ≤ 5)
    (hroom : (s.engine e).bstack.length < 16) : Does (.leBopen e mod x opnd) s (EngineTo e { s.engine e with
      pc := (s.engine e).pc + 1, ba := s.bitVal e mod opnd
      bstack := ((s.engine e).ba, x.val) :: (s.engine e).bstack } s) :=
  does_leRun_next rfl hgo (decide_eq_true hx) (State.bopenFaults_of_bitOk hok hroom) hok.fresh0.bitRow
    (rowsSound_nil _ _) rfl

theorem does_leBopen_full (hgo : LeGoes s e) (hok : BitOk s e mod opnd) (hx : x.val ≤ 5)
    (hfull : 16 ≤ (s.engine e).bstack.length) : Does (.leBopen e mod x opnd) s (EngineFaults e flBranchOver s) := by
  refine does_engineFaults rfl hgo (decide_eq_true hx) (by decide) (by decide) ?_ ?_
  · exact List.mem_cons.mpr (.inl (by rw [decide_eq_true hfull]))
  · exact List.forall_mem_cons.mpr ⟨fun _ => rfl, fun f hf hon => absurd hon (by simp [hok.bitFaults f hf])⟩

theorem does_leBopen_undefined (hgo : LeGoes s e) (hx : 5 < x.val) :
    Does (.leBopen e mod x opnd) s (EngineFaults e flIllegal s) := by
  have hl : leLegal 0x0F mod x opnd = false := decide_eq_false (Nat.not_le.mpr hx)
  refine ⟨_, rfl, ?_⟩
  rw [State.leRun_of_illegal hgo.fresh0 hl]
  · exact State.engineFaults_leFault s e flIllegal (by decide)
  · exact List.forall_mem_cons.mpr ⟨fun _ => by simp, fun f hf _ => State.bitFaults_codes f hf⟩

theorem does_leBclose {b : Bool} {op : Nat} {rest : List (Bool × Nat)} (hgo : LeGoes s e)
    (hstack : (s.engine e).bstack = (b, op) :: rest) (hbase : frameBase (s.engine e) ≤ rest.length) :
    Does (.leBclose e 0 0 0) s (EngineTo e { s.engine e with
      pc := (s.engine e).pc + 1, ba := pendingOp op b (s.engine e).ba, bstack := rest } s) := by
  refine does_leRun_next rfl hgo rfl (List.forall_mem_singleton.mpr ?_) (rowsSound_nil _ _) (rowsSound_nil _ _) ?_
  · simp only [hstack, List.length_cons, decide_eq_false_iff_not]; omega
  · simp only [hstack]

theorem does_leBclose_empty (hgo : LeGoes s e) (hempty : (s.engine e).bstack.length ≤ frameBase (s.engine e)) :
    Does (.leBclose e 0 0 0) s (EngineFaults e flBranchUnder s) := by
  refine does_engineFaults rfl hgo rfl (by decide) (by decide) ?_ (List.forall_mem_singleton.mpr fun _ => rfl)
  rw [decide_eq_true hempty]
  exact List.mem_singleton_self _

/-! ### System bits -/

theorem does_leLd_system (hgo : LeGoes s e) (h : opnd.val ≤ 4) : Does (.leLd e 2 0 opnd) s
    (EngineTo e { s.engine e with pc := (s.engine e).pc + 1, ba := sysBit (s.engine e) opnd } s) :=
  does_leBitOp rfl hgo (bitOk_system h) rfl rfl

/-- The operand names no system bit (R176). -/
theorem bitStoreFaults_undefined (h : 4 < opnd.val) :
    s.bitStoreFaults e 2 opnd = [(false, flStore), (true, flIllegal)] := by
  simp [State.bitStoreFaults, State.bitFaults, h]

/-- The system bit is none that can be stored to (log entry 18). -/
theorem bitStoreFaults_readOnly (h : opnd.val ≤ 4) (hov : opnd.val ≠ 2) :
    s.bitStoreFaults e 2 opnd = [(true, flStore), (false, flIllegal)] := by
  simp [State.bitStoreFaults, State.bitFaults, h, hov]

theorem does_leLd_undefined (hgo : LeGoes s e) (h : 4 < opnd.val) :
    Does (.leLd e 2 0 opnd) s (EngineFaults e flIllegal s) := by
  have hfs : s.fresh0.bitFaults e 2 opnd = [(true, flIllegal)] := by simp [State.bitFaults, h]
  refine does_engineFaults (fs := s.fresh0.bitFaults e 2 opnd) rfl hgo rfl (by decide) (by decide) ?_ ?_ <;> simp [hfs]

section
variable {c : Instr} {op : Nat} {v : Bool → Option Bool}

theorem does_leBitStore_undefined (hexec : exec c s = .next (s.fresh0.leBitStore e op 2 0 opnd v))
    (hl : leLegal op 2 0 opnd = true) (hgo : LeGoes s e) (h : 4 < opnd.val) :
    Does c s (EngineFaults e flIllegal s) := by
  have hfs := bitStoreFaults_undefined (s := s.fresh0) (e := e) h
  refine does_engineFaults (fs := s.fresh0.bitStoreFaults e 2 opnd) hexec hgo hl (by decide) (by decide) ?_ ?_ <;>
    simp [hfs]

theorem does_leBitStore_readOnly (hexec : exec c s = .next (s.fresh0.leBitStore e op 2 0 opnd v))
    (hl : leLegal op 2 0 opnd = true) (hgo : LeGoes s e) (h : opnd.val ≤ 4) (hov : opnd.val ≠ 2) :
    Does c s (EngineFaults e flStore s) := by
  have hfs := bitStoreFaults_readOnly (s := s.fresh0) (e := e) h hov
  refine does_engineFaults (fs := s.fresh0.bitStoreFaults e 2 opnd) hexec hgo hl (by decide) (by decide) ?_ ?_ <;>
    simp [hfs]

end

end

/-! ### The obligation -/

/-- Settles O22: each instruction meets no fault or exactly the one named, and a bit of a byte is set alone. -/
theorem leBitLogic : Obligations.LeBitLogic := by
  intro s e mod x opnd b rest hgo r v a on after base stored
  have hsystem (k : Fin 1048576) (hk : k.val ≤ 4) : Does (.leLd e 2 0 k) s (after (sysBit r k)) :=
    does_leLd_system hgo hk
  refine ⟨fun hok => ?loads, ?not, hsystem 0 (by decide), hsystem 1 (by decide), hsystem 2 (by decide),
    hsystem 3 (by decide), hsystem 4 (by decide), fun h => ?undefined, fun h hov => ?readOnly,
    fun hmod hok => ?stores, ?stOv, ?stnOv, ?sOv, ?rOv,
    fun hok hx hroom => does_leBopen hgo hok hx hroom, fun hok hx hfull => does_leBopen_full hgo hok hx hfull,
    fun hx => does_leBopen_undefined hgo hx, fun hstack hbase hx => ?close,
    fun hempty => does_leBclose_empty hgo hempty⟩
  case loads =>
    exact ⟨does_leBitOp rfl hgo hok rfl rfl, does_leBitOp rfl hgo hok rfl rfl, does_leBitOp rfl hgo hok rfl rfl,
      does_leBitOp rfl hgo hok rfl rfl, does_leBitOp rfl hgo hok rfl rfl, does_leBitOp rfl hgo hok rfl rfl,
      does_leBitOp rfl hgo hok rfl (congrFun₂ Bool.bne_eq_xor _ _),
      does_leBitOp rfl hgo hok rfl (beq_eq_xor_not _ _),
      does_leLds hgo hok rfl (Bool.bne_false _), does_leLds hgo hok rfl (Bool.bne_true _)⟩
  case not =>
    exact does_leRun_next rfl hgo rfl (List.forall_mem_nil _) (rowsSound_nil _ _) (rowsSound_nil _ _) rfl
  case undefined => exact ⟨does_leLd_undefined hgo h, does_leBitStore_undefined rfl rfl hgo h⟩
  case readOnly =>
    exact ⟨does_leBitStore_readOnly rfl rfl hgo h hov, does_leBitStore_readOnly rfl rfl hgo h hov,
      does_leBitStore_readOnly rfl rfl hgo h hov, does_leBitStore_readOnly rfl rfl hgo h hov⟩
  case stores =>
    have hmem : mod.val ≠ 2 := fun h => hmod (Fin.ext h)
    have hno : mod.val = 2 → opnd.val = 2 := fun h => absurd h hmem
    exact ⟨does_leBitStore_memory rfl hgo hmem hok rfl rfl, does_leBitStore_memory rfl hgo hmem hok rfl rfl,
      fun hba => does_leBitStore_memory rfl hgo hmem hok rfl (if_pos hba),
      fun hba => does_leBitStore_memory rfl hgo hmem hok rfl (if_pos hba),
      fun hba => does_leBitStore_none rfl hgo hok hno rfl (if_neg (ne_true_of_eq_false hba)),
      fun hba => does_leBitStore_none rfl hgo hok hno rfl (if_neg (ne_true_of_eq_false hba))⟩
  case stOv => exact does_leBitStore_ov rfl hgo rfl rfl
  case stnOv => exact does_leBitStore_ov rfl hgo rfl rfl
  case sOv => exact does_leBitStore_ov rfl hgo rfl (getD_setIf _ _)
  case rOv => exact does_leBitStore_ov rfl hgo rfl (getD_resetIf _ _)
  case close =>
    rw [← pendingOp_eq_getD hx]
    exact does_leBclose hgo hstack hbase

end Sys2Proof.Machine

/-! ## Numbers in data memory, and the hardware blocks on their data (R185, R186) -/

namespace Sys2Proof.Machine

/-! ### Little-endian numbers -/

@[simp] theorem leBytes_length (n v : Nat) : (leBytes n v).length = n := by
  induction n generalizing v with
  | zero => rfl
  | succ n ih => rw [leBytes, List.length_cons, ih]

theorem leNat_leBytes (n v : Nat) : leNat (leBytes n v) = v % 256 ^ n := by
  induction n generalizing v with
  | zero => rw [Nat.pow_zero, Nat.mod_one]; rfl
  | succ n ih =>
    have hlow : (byteOf v).toNat = v % 256 := BitVec.toNat_ofNat v 8
    rw [leBytes, leNat, ih, hlow, Nat.pow_succ', Nat.mod_mul]

theorem leNat_lt (bs : List Byte) : leNat bs < 256 ^ bs.length := by
  induction bs with
  | nil => exact Nat.one_pos
  | cons b r ih =>
    have hb : b.toNat < 256 := b.isLt
    rw [leNat, List.length_cons, Nat.pow_succ']
    omega

/-! ### Reading data memory -/

section
variable (s : State) (e : Nat)

@[simp] theorem State.leData_length (off n : Nat) : (s.leData e off n).length = n := by
  simp [State.leData, State.leBytesAt]

theorem State.leNum_lt (off n : Nat) : s.leNum e off n < 256 ^ n := by
  simpa [State.leNum] using leNat_lt (s.leData e off n)

/-- Numbers are read from their bytes alone. -/
theorem State.leData_congr {s u : State} {e off n : Nat}
    (h : ∀ j, j < n → u.leByte (leDataBase e + off + j) = s.leByte (leDataBase e + off + j)) :
    u.leData e off n = s.leData e off n :=
  List.map_congr_left fun j hj => h j (List.mem_range.mp hj)

theorem State.leData_putLeData_same (off : Nat) (bs : List Byte) :
    (s.putLeData e off bs).leData e off bs.length = bs := by
  refine List.ext_getElem (by simp) fun j hj hj' => ?_
  simpa [State.leData, State.leBytesAt] using State.leByte_putLeData_add s hj'

theorem State.leNum_putLeData_same (off n v : Nat) :
    (s.putLeData e off (leBytes n v)).leNum e off n = v % 256 ^ n := by
  have hbytes := State.leData_putLeData_same s e off (leBytes n v)
  rw [leBytes_length] at hbytes
  rw [State.leNum, hbytes, leNat_leBytes]

theorem State.leNum_putLeData_of_outside {off a n : Nat} {bs : List Byte} (h : a + n ≤ off ∨ off + bs.length ≤ a) :
    (s.putLeData e off bs).leNum e a n = s.leNum e a n := by
  rw [State.leNum, State.leNum, State.leData_congr fun j hj => State.leByte_putLeData_of_outside s (by omega)]

@[simp] theorem State.leNum_leNext (f : Engine → Engine) (e' a n : Nat) :
    (s.leNext e f).leNum e' a n = s.leNum e' a n := rfl

/-- A number in a block's data is a number of data memory. -/
theorem State.leAt_leData {p n off k : Nat} (h : off + k ≤ n) :
    leAt off k (s.leData e p n) = s.leNum e (p + off) k := by
  have hslice : slice off k (s.leData e p n) = s.leData e (p + off) k := by
    refine List.ext_getElem (by simp [slice]; omega) fun j hj hj' => ?_
    simp [slice, State.leData, State.leBytesAt, Nat.add_assoc, Nat.add_left_comm]
  rw [leAt, hslice, State.leNum]

end

/-! ### A block on its data -/

section
variable {s : State} {e mod opnd n x : Nat}

theorem InstOk.callhFaults (h : InstOk s e mod opnd n) : ∀ f ∈ s.callhFaults e mod opnd n, f.1 = false := by
  obtain ⟨-, -, hrange, halign, hsound⟩ := h
  have hin : ¬ leDataSize < ptrAddr (s.engine e) mod opnd + n := Nat.not_lt.mpr hrange
  simp [State.callhFaults, hin, halign, hsound.leDataBad]

theorem InstOk.legal (h : InstOk s e mod opnd n) : leLegal 0x30 mod x opnd = true := by
  obtain ⟨hmod, hopnd, -⟩ := h
  simp [leLegal, hmod, hopnd]

theorem InstOk.fresh0 (h : InstOk s e mod opnd n) : InstOk s.fresh0 e mod opnd n := h

/-- The writes of a block on its data at p. -/
def State.putInst (s : State) (e p : Nat) (ws : List (Nat × List Byte)) : State :=
  ws.foldl (fun s w => s.putLeData e (p + w.1) w.2) s

theorem EngineWrites.putInst {u : State} {y : Engine} {off k p : Nat} {ws : List (Nat × List Byte)}
    (h : EngineWrites e y off k s u) (hws : ∀ w ∈ ws, off ≤ p + w.1 ∧ p + w.1 + w.2.length ≤ off + k) :
    EngineWrites e y off k s (u.putInst e p ws) := by
  induction ws generalizing u with
  | nil => exact h
  | cons w ws ih =>
    obtain ⟨⟨hlo, hhi⟩, hrest⟩ := List.forall_mem_cons.mp hws
    exact ih (h.putLeData hlo hhi) hrest

/-- A block that meets no fault makes its writes, sets BA and WA, and leaves the earlier deadline (R192). -/
theorem State.leBlockOp_of_instOk {f : Engine → List Byte → Nat → List (Nat × List Byte) × Engine × Option Nat}
    {ws : List (Nat × List Byte)} {r' : Engine} {dl : Option Nat} (hgo : LeGoes s e) (hi : InstOk s e mod opnd n)
    (hf : f (s.engine e) (s.leData e (ptrAddr (s.engine e) mod opnd) n) (s.engine e).takeUs = (ws, r', dl)) :
    s.fresh0.leBlockOp e x mod opnd n f = (s.fresh0.putInst e (ptrAddr (s.engine e) mod opnd) ws).leNext e fun r0 =>
      { r0 with ba := r'.ba, wa := r'.wa, dl := earlier (s.engine e).dl dl } := by
  obtain ⟨-, -, -, -, hsound⟩ := id hi
  refine (State.leRun_of_no_fault hgo.fresh0 hi.fresh0.legal hi.fresh0.callhFaults hsound (rowsSound_nil _ _)).trans ?_
  have hf' : f (s.fresh0.engine e) (s.fresh0.leData e (ptrAddr (s.fresh0.engine e) mod opnd) n)
    (s.fresh0.engine e).takeUs = (ws, r', dl) := hf
  dsimp only
  rw [hf', State.fresh0_engine]
  cases (s.engine e).dl <;> cases dl <;> rfl

/-- What a block leaves: its registers, and every byte outside its writes. -/
theorem EngineWrites.leBlockOp {f : Engine → List Byte → Nat → List (Nat × List Byte) × Engine × Option Nat}
    {ws : List (Nat × List Byte)} {r' : Engine} {dl : Option Nat} {off k : Nat} (hgo : LeGoes s e)
    (hi : InstOk s e mod opnd n)
    (hf : f (s.engine e) (s.leData e (ptrAddr (s.engine e) mod opnd) n) (s.engine e).takeUs = (ws, r', dl))
    (hws : ∀ w ∈ ws, off ≤ w.1 ∧ w.1 + w.2.length ≤ off + k) :
    EngineWrites e { s.engine e with
      ba := r'.ba, wa := r'.wa, pc := (s.engine e).pc + 1, dl := earlier (s.engine e).dl dl }
      (ptrAddr (s.engine e) mod opnd + off) k s (s.fresh0.leBlockOp e x mod opnd n f) := by
  rw [State.leBlockOp_of_instOk hgo hi hf]
  refine ((EngineWrites.fresh0 s e _ k).putInst fun w hw => ?_).leNext _
  have := hws w hw
  omega

theorem State.leNum_leBlockOp {f : Engine → List Byte → Nat → List (Nat × List Byte) × Engine × Option Nat}
    {ws : List (Nat × List Byte)} {r' : Engine} {dl : Option Nat} (hgo : LeGoes s e) (hi : InstOk s e mod opnd n)
    (hf : f (s.engine e) (s.leData e (ptrAddr (s.engine e) mod opnd) n) (s.engine e).takeUs = (ws, r', dl))
    (a k : Nat) : (s.fresh0.leBlockOp e x mod opnd n f).leNum e a k =
      (s.fresh0.putInst e (ptrAddr (s.engine e) mod opnd) ws).leNum e a k := by
  rw [State.leBlockOp_of_instOk hgo hi hf, State.leNum_leNext]

end

end Sys2Proof.Machine

/-! ## Timers (R186, R187, R192) -/

namespace Sys2Proof.Machine

/-! ### The data of a timer -/

/-- What the data of a timer at p hold. -/
def State.timerAt (s : State) (e p : Nat) : Timer :=
  let fl := s.leNum e (p + 16) 1
  ⟨s.leNum e (p + 4) 4, s.leNum e (p + 8) 8, bitAt fl 0, bitAt fl 1, bitAt fl 2⟩

/-- After a timer block the data at p hold `m`, BA its Q, and a running timer has reported its deadline. -/
def TimerShows (e p pt : Nat) (m : Timer) (s u : State) : Prop :=
  u.leNum e (p + 4) 4 = m.et ∧ u.leNum e (p + 8) 8 = m.start % 2 ^ 64 ∧
  u.leNum e (p + 16) 8 = b2n m.q + 2 * b2n m.prev + 4 * b2n m.run ∧
  EngineWrites e { s.engine e with
    ba := m.q, pc := (s.engine e).pc + 1
    dl := earlier (s.engine e).dl (if m.run then some (m.start + pt) else none) } (p + 4) 20 s u

/-- The three writes of a timer. -/
def timerWrites (m : Timer) : List (Nat × List Byte) :=
  [(4, leBytes 4 m.et), (8, leBytes 8 m.start), (16, leBytes 8 (b2n m.q + 2 * b2n m.prev + 4 * b2n m.run))]

theorem b2n_le_one (b : Bool) : b2n b ≤ 1 := by cases b <;> decide

section
variable (s : State) (e p : Nat) (m : Timer)

theorem State.leNum_timerWrites_et : (s.putInst e p (timerWrites m)).leNum e (p + 4) 4 = m.et % 2 ^ 32 := by
  simp only [timerWrites, State.putInst, List.foldl]
  rw [State.leNum_putLeData_of_outside _ _ (.inl (by omega)), State.leNum_putLeData_of_outside _ _ (.inl (by omega)),
    State.leNum_putLeData_same]
  rfl

theorem State.leNum_timerWrites_start : (s.putInst e p (timerWrites m)).leNum e (p + 8) 8 = m.start % 2 ^ 64 := by
  simp only [timerWrites, State.putInst, List.foldl]
  rw [State.leNum_putLeData_of_outside _ _ (.inl (by omega)), State.leNum_putLeData_same]
  rfl

theorem State.leNum_timerWrites_flags :
    (s.putInst e p (timerWrites m)).leNum e (p + 16) 8 = b2n m.q + 2 * b2n m.prev + 4 * b2n m.run := by
  have hq := b2n_le_one m.q
  have hprev := b2n_le_one m.prev
  have hrun := b2n_le_one m.run
  simp only [timerWrites, State.putInst, List.foldl]
  rw [State.leNum_putLeData_same, Nat.mod_eq_of_lt (by omega)]

end

/-- A timer block on data that a CALLH can run on. -/
theorem timerShows_leBlockOp {s : State} {e mod opnd x : Nat} {step : Nat → Nat → Bool → Timer → Timer} {m : Timer}
    (hgo : LeGoes s e) (hi : InstOk s e mod opnd 24)
    (hm : step (s.leNum e (ptrAddr (s.engine e) mod opnd) 4) (s.engine e).takeUs (s.engine e).ba
      (s.timerAt e (ptrAddr (s.engine e) mod opnd)) = m) (het : m.et < 2 ^ 32) :
    TimerShows e (ptrAddr (s.engine e) mod opnd) (s.leNum e (ptrAddr (s.engine e) mod opnd) 4) m s
      (s.fresh0.leBlockOp e x mod opnd 24 (timerBlock step)) := by
  have hblock : timerBlock step (s.engine e) (s.leData e (ptrAddr (s.engine e) mod opnd) 24) (s.engine e).takeUs =
      (timerWrites m, { s.engine e with ba := m.q },
        if m.run then some (m.start + s.leNum e (ptrAddr (s.engine e) mod opnd) 4) else none) := by
    subst hm
    simp only [timerBlock, State.leAt_leData s e (show 16 + 1 ≤ 24 by decide),
      State.leAt_leData s e (show 0 + 4 ≤ 24 by decide), State.leAt_leData s e (show 4 + 4 ≤ 24 by decide),
      State.leAt_leData s e (show 8 + 8 ≤ 24 by decide), Nat.add_zero]
    rfl
  refine ⟨?_, ?_, ?_, EngineWrites.leBlockOp hgo hi hblock (by simp [timerWrites])⟩
  · rw [State.leNum_leBlockOp hgo hi hblock, State.leNum_timerWrites_et, Nat.mod_eq_of_lt het]
  · rw [State.leNum_leBlockOp hgo hi hblock, State.leNum_timerWrites_start]
  · rw [State.leNum_leBlockOp hgo hi hblock, State.leNum_timerWrites_flags]

/-! ### The three timers -/

/-- ET while the time runs: the µs since the start, up to PT. -/
theorem min_elapsed (t now pt : Nat) :
    min (elapsed t now) pt = if t ≤ now then min (min (now - t) 0xFFFFFFFF) pt else 0 := by
  unfold elapsed
  split
  · rfl
  · exact Nat.zero_min pt

theorem ite_lt_of_lt {c : Prop} [Decidable c] {a b n : Nat} (ha : a < n) (hb : b < n) : (if c then a else b) < n := by
  split <;> assumption

theorem decide_le_eq_not_lt (a b : Nat) : decide (a ≤ b) = !decide (b < a) := by
  rw [← decide_not, decide_eq_decide, Nat.not_lt]

section
variable (pt now : Nat) (inp : Bool) (m : Timer)

theorem tonStep_eq : tonStep pt now inp m =
    let st := if inp && !m.prev then now else m.start
    let et := if inp then min (elapsed st now) pt else 0
    let q := inp && decide (pt ≤ et)
    ⟨et, st, q, inp, inp && (m.run || !m.prev) && !q⟩ := by
  cases inp with
  | false => rfl
  | true => cases hprev : m.prev <;> simp [tonStep, hprev]

theorem tofStep_eq : tofStep pt now inp m =
    let st := if !inp && m.prev then now else m.start
    let et := if inp then 0 else if m.run || m.prev then min (elapsed st now) pt else m.et
    let run := !inp && (m.run || m.prev) && decide (et < pt)
    ⟨et, st, inp || run, inp, run⟩ := by
  cases inp with
  | true => rfl
  | false => cases hprev : m.prev <;> cases hrun : m.run <;> simp [tofStep, hprev, hrun, decide_le_eq_not_lt]

theorem tpStep_eq : tpStep pt now inp m =
    let starts := !m.run && inp && !m.prev
    let st := if starts then now else m.start
    let et := if m.run || starts then min (elapsed st now) pt else if inp then m.et else 0
    let run := (m.run || starts) && decide (et < pt)
    ⟨et, st, run, inp, run⟩ := by
  cases hrun : m.run with
  | true => simp [tpStep, hrun, decide_le_eq_not_lt]
  | false => cases inp <;> cases hprev : m.prev <;> simp [tpStep, hrun, hprev, decide_le_eq_not_lt]

end

/-- Settles O27: each timer in closed form, on its data as a block reads and writes them. -/
theorem leTimers : Obligations.LeTimers := by
  intro s e mod opnd hgo hi r p now pt et st prev run since holds
  have hpt : pt < 2 ^ 32 := State.leNum_lt s e p 4
  have het : et < 2 ^ 32 := State.leNum_lt s e (p + 4) 4
  have hmin (t : Nat) : min (elapsed t now) pt < 2 ^ 32 := Nat.lt_of_le_of_lt (Nat.min_le_right _ _) hpt
  refine ⟨⟨_, rfl, ?_⟩, ⟨_, rfl, ?_⟩, ⟨_, rfl, ?_⟩⟩
  · have hton := timerShows_leBlockOp (x := 0) hgo hi (tonStep_eq ..) (ite_lt_of_lt (hmin _) (Nat.two_pow_pos 32))
    simp only [min_elapsed] at hton
    exact hton
  · have htof := timerShows_leBlockOp (x := 1) hgo hi (tofStep_eq ..)
      (ite_lt_of_lt (Nat.two_pow_pos 32) (ite_lt_of_lt (hmin _) het))
    simp only [min_elapsed] at htof
    exact htof
  · have htp := timerShows_leBlockOp (x := 2) hgo hi (tpStep_eq ..)
      (ite_lt_of_lt (hmin _) (ite_lt_of_lt het (Nat.two_pow_pos 32)))
    simp only [min_elapsed] at htp
    exact htp

end Sys2Proof.Machine

/-! ## Counters (R188) -/

namespace Sys2Proof.Machine

/-! ### Signed numbers of 32 bits -/

theorem toSigned_bounds (v : Nat) : -2147483648 ≤ toSigned 32 v ∧ toSigned 32 v ≤ 2147483647 := by
  unfold toSigned
  split <;> omega

/-- A number that fits in 32 bits is read back from its bytes. -/
theorem toSigned_ofSigned {v : Int} (hlo : -2147483648 ≤ v) (hhi : v ≤ 2147483647) :
    toSigned 32 (ofSigned 32 v % 2 ^ 32) = v := by
  unfold toSigned ofSigned
  split <;> omega

/-! ### The data of a counter -/

/-- After a counter block the data at p hold the count `cv`, Q and INPREV, and BA is Q. -/
def CounterShows (e p : Nat) (cv : Int) (q : Bool) (s u : State) : Prop :=
  toSigned 32 (u.leNum e (p + 4) 4) = cv ∧ u.leNum e (p + 8) 8 = b2n q + 2 * b2n (s.engine e).ba ∧
  EngineWrites e { s.engine e with ba := q, pc := (s.engine e).pc + 1 } (p + 4) 12 s u

/-- The two writes of a counter. -/
def counterWrites (cv : Int) (q prev : Bool) : List (Nat × List Byte) :=
  [(4, leBytes 4 (ofSigned 32 cv)), (8, leBytes 8 (b2n q + 2 * b2n prev))]

section
variable (s : State) (e p : Nat) (cv : Int) (q prev : Bool)

theorem State.leNum_counterWrites_count :
    (s.putInst e p (counterWrites cv q prev)).leNum e (p + 4) 4 = ofSigned 32 cv % 2 ^ 32 := by
  simp only [counterWrites, State.putInst, List.foldl]
  rw [State.leNum_putLeData_of_outside _ _ (.inl (by omega)), State.leNum_putLeData_same]
  rfl

theorem State.leNum_counterWrites_flags :
    (s.putInst e p (counterWrites cv q prev)).leNum e (p + 8) 8 = b2n q + 2 * b2n prev := by
  have hq := b2n_le_one q
  have hprev := b2n_le_one prev
  simp only [counterWrites, State.putInst, List.foldl]
  rw [State.leNum_putLeData_same, Nat.mod_eq_of_lt (by omega)]

end

/-- No deadline of its own leaves the earliest one. -/
@[simp] theorem earlier_none (d : Option Nat) : earlier d none = d := by cases d <;> rfl

/-- A counter block on data that a CALLH can run on, where the new count fits in 32 bits. -/
theorem counterShows_leBlockOp {s : State} {e mod opnd x : Nat} {f : Bool → Bool → Int → Int → Int}
    {q : Int → Int → Bool} {cv : Int} (hgo : LeGoes s e) (hi : InstOk s e mod opnd 16) :
    let r := s.engine e
    let p := ptrAddr r mod opnd
    let pv := toSigned 32 (s.leNum e p 4)
    f r.si (r.ba && !bitAt (s.leNum e (p + 8) 1) 1) (toSigned 32 (s.leNum e (p + 4) 4)) pv = cv →
    -2147483648 ≤ cv → cv ≤ 2147483647 →
    CounterShows e p cv (q cv pv) s (s.fresh0.leBlockOp e x mod opnd 16 (counterBlock f q)) := by
  intro r p pv hcv hlo hhi
  have hblock : counterBlock f q r (s.leData e p 16) r.takeUs =
      (counterWrites cv (q cv pv) r.ba, { r with ba := q cv pv }, none) := by
    rw [← hcv]
    simp only [counterBlock, State.leAt_leData s e (show 8 + 1 ≤ 16 by decide),
      State.leAt_leData s e (show 0 + 4 ≤ 16 by decide), State.leAt_leData s e (show 4 + 4 ≤ 16 by decide),
      Nat.add_zero]
    rfl
  have hwrites := EngineWrites.leBlockOp (x := x) hgo hi hblock (off := 4) (k := 12) (by simp [counterWrites])
  rw [earlier_none] at hwrites
  refine ⟨?_, ?_, hwrites⟩
  · rw [State.leNum_leBlockOp hgo hi hblock, State.leNum_counterWrites_count, toSigned_ofSigned hlo hhi]
  · rw [State.leNum_leBlockOp hgo hi hblock, State.leNum_counterWrites_flags]

/-- Counting up stops at the largest value, counting down at the least. -/
theorem countUp_bounds (si edge : Bool) {cv : Int} (hlo : -2147483648 ≤ cv) (hhi : cv ≤ 2147483647) :
    -2147483648 ≤ (if si then 0 else if edge && decide (cv < 2147483647) then cv + 1 else cv) ∧
    (if si then 0 else if edge && decide (cv < 2147483647) then cv + 1 else cv) ≤ 2147483647 := by
  split_ifs with hsi hup
  · decide
  · obtain ⟨-, hroom⟩ : edge = true ∧ cv < 2147483647 := by simpa using hup
    omega
  · exact ⟨hlo, hhi⟩

theorem countDown_bounds (si edge : Bool) {cv pv : Int} (hlo : -2147483648 ≤ cv) (hhi : cv ≤ 2147483647)
    (hplo : -2147483648 ≤ pv) (hphi : pv ≤ 2147483647) :
    -2147483648 ≤ (if si then pv else if edge && decide (-2147483648 < cv) then cv - 1 else cv) ∧
    (if si then pv else if edge && decide (-2147483648 < cv) then cv - 1 else cv) ≤ 2147483647 := by
  split_ifs with hsi hdown
  · exact ⟨hplo, hphi⟩
  · obtain ⟨-, hroom⟩ : edge = true ∧ -2147483648 < cv := by simpa using hdown
    omega
  · exact ⟨hlo, hhi⟩

/-- Settles O28: the count of either counter stays within 32 bits, so the block's data hold it. -/
theorem leCounters : Obligations.LeCounters := by
  intro s e mod opnd hgo hi r p pv cv edge holds
  obtain ⟨hcvlo, hcvhi⟩ : -2147483648 ≤ cv ∧ cv ≤ 2147483647 := toSigned_bounds _
  obtain ⟨hpvlo, hpvhi⟩ : -2147483648 ≤ pv ∧ pv ≤ 2147483647 := toSigned_bounds _
  refine ⟨⟨_, rfl, ?_⟩, ⟨_, rfl, ?_⟩⟩
  · obtain ⟨hlo, hhi⟩ := countUp_bounds r.si edge hcvlo hcvhi
    exact counterShows_leBlockOp hgo hi rfl hlo hhi
  · obtain ⟨hlo, hhi⟩ := countDown_bounds r.si edge hcvlo hcvhi hpvlo hpvhi
    exact counterShows_leBlockOp hgo hi rfl hlo hhi

end Sys2Proof.Machine

/-! ## MOVE into a row that a SOFT entry names (R190, R438, R445) -/

namespace Sys2Proof.Machine

/-! ### A state in which the destination's row is named -/

/-- A running engine in its main program, with BA set. -/
def moveEngine : Engine := { engineInit with executing := true, ba := true }

/-- Engine 0 runs a main program of one word; the block data at offset 0 of its data memory say SRC = 0x20, DST = 0x40
and LEN = 4; no row holds an error. Entry 0 of the correction table is SOFT and names row 2 of the data memories, which
is the row of DST: an upset there was corrected and written back. -/
def softMove : State :=
  let s : State := { State.reset with pw := { State.reset.pw with phase := .running } }
  let s := (s.wr (LE_Ee_STAT_STATE 0) leRunning).setEngine 0 moveEngine
  let s := s.putLeBytes (leBankBase 0 0 + 4 * 511) (leBytes 4 1)
  let s := s.putLeBytes (leDataBase 0) (leBytes 4 0x20 ++ leBytes 4 0x40 ++ leBytes 4 4)
  ((s.wr (ECC_CTi_INFO_STATE 0) ctSoft).wr (ECC_CTi_LOC_MEMID 0) 5).wr (ECC_CTi_LOC_ROW 0) 2

theorem softMove_goes : LeGoes softMove 0 := by
  unfold LeGoes FetchSound
  decide +kernel

theorem softMove_instOk : InstOk softMove 0 0 0 16 := by
  unfold InstOk DataSound
  decide +kernel

/-- P, and SRC, DST and LEN of the block data. -/
theorem softMove_operands : ptrAddr (softMove.engine 0) 0 0 = 0 ∧
    softMove.leNum 0 0 4 = 0x20 ∧ softMove.leNum 0 4 4 = 0x40 ∧ softMove.leNum 0 8 4 = 4 := by
  decide +kernel

/-- The rows of SRC and DST, of which the four bytes lie in one row each, are without error. -/
theorem softMove_sound : DataSound softMove 0 0x20 4 ∧ DataSound softMove 0 0x40 4 := by
  unfold DataSound
  decide +kernel

/-! ### What the MOVE reports -/

/-- The descriptors in the recorder's ingress queue after a command. -/
def queuedAfter : Host.Outcome State Fault Refusal → Nat
  | .next u => u.rcd.queue.length
  | _ => 0

/-- Writing DST frees the SOFT entry, and the entry's change is recorded (R444, R445). -/
theorem softMove_records : softMove.rcd.queue.length = 0 ∧ queuedAfter (exec (.leMove 0 0 0) softMove) = 1 := by
  decide +kernel

/-- Refutes O30: the clause of MOVE with BA = 1 has no premise on the correction table, yet says that the recorder and
its registers stay as they were; in `softMove` the write of DST frees a SOFT entry, which writes a record (R445). -/
theorem not_leFunctionBlocks : ¬ Obligations.LeFunctionBlocks := by
  rintro ⟨-, hmoves, -⟩
  obtain ⟨hcopies, -⟩ := hmoves softMove 0 0 0 softMove_goes softMove_instOk
  obtain ⟨hp, hsrc, hdst, hlen⟩ := softMove_operands
  simp only [Fin.val_zero, hp, Nat.zero_add, hsrc, hdst, hlen] at hcopies
  obtain ⟨u, hu, -, -, -, -, htouches⟩ :=
    hcopies (by decide) (by decide) (by decide) softMove_sound (by decide +kernel)
  have hrcd : u.rcd = softMove.rcd := htouches.parts .rcd (by decide)
  obtain ⟨hbefore, hafter⟩ := softMove_records
  rw [hu, queuedAfter, hrcd, hbefore] at hafter
  exact absurd hafter (by decide)

end Sys2Proof.Machine
/-! ## What every command keeps, and the step -/

namespace Sys2Proof.Machine

/-- Every command keeps to its row of the frame table: each is an operation of the module, of which `Kept` is known. -/
theorem exec_kept (c : Instr) (s : State) : KeptOut (frameAreas c) (frameParts c) s (exec c s) :=
  match c with
  | .registerWrite .. => execRegisterWrite_kept (Kept.refl _ _ s) (fun _ h => h) fun _ h => h
  | .powerOn .. => execPowerOn_kept (Kept.refl _ _ s) (fun _ h => h) fun _ h => h
  | .feedGood .. => execFeedGood_kept (Kept.refl _ _ s) (fun _ h => h) fun _ h => h
  | .feedLost .. => execFeedLost_kept (Kept.refl _ _ s) (fun _ h => h) fun _ h => h
  | .feedLowSet .. => execFeedLowSet_kept (Kept.refl _ _ s) fun _ h => h
  | .feedLowClear .. => execFeedLowClear_kept (Kept.refl _ _ s) fun _ h => h
  | .feedHighSet .. => execFeedHighSet_kept (Kept.refl _ _ s) fun _ h => h
  | .feedHighClear .. => execFeedHighClear_kept (Kept.refl _ _ s) fun _ h => h
  | .reverseCurrentEvent .. => execReverseCurrentEvent_kept (Kept.refl _ _ s) (fun _ h => h) fun _ h => h
  | .feedReportRefresh .. => execFeedReportRefresh_kept (Kept.refl _ _ s) (fun _ h => h) fun _ h => h
  | .holdupMeasured .. => execHoldupMeasured_kept (Kept.refl _ _ s) (fun _ h => h) fun _ h => h
  | .readySet .. => execReadySet_kept (Kept.refl _ _ s) (fun _ h => h) fun _ h => h
  | .readyClear .. => execReadyClear_kept (Kept.refl _ _ s) (fun _ h => h) fun _ h => h
  | .flushEntry .. => execFlushEntry_kept (Kept.refl _ _ s) (fun _ h => h) fun _ h => h
  | .flushSequencerHandover .. => execFlushSequencerHandover_kept (Kept.refl _ _ s) (fun _ h => h) fun _ h => h
  | .flushSeal .. => execFlushSeal_kept (Kept.refl _ _ s) (fun _ h => h) fun _ h => h
  | .storeExhausted .. => execStoreExhausted_kept (Kept.refl _ _ s) (fun _ h => h) fun _ h => h
  | .pllLock .. => execPllLock_kept (Kept.refl _ _ s) (fun _ h => h) fun _ h => h
  | .rangerKeyPhaseEnd .. => execRangerKeyPhaseEnd_kept (Kept.refl _ _ s) fun _ h => h
  | .keyReadDone .. => execKeyReadDone_kept (Kept.refl _ _ s) (fun _ h => h) fun _ h => h
  | .keyApplyDone .. => execKeyApplyDone_kept (Kept.refl _ _ s) (fun _ h => h) fun _ h => h
  | .firmwareLoadDone .. => execFirmwareLoadDone_kept (Kept.refl _ _ s) (fun _ h => h) fun _ h => h
  | .aloneTimeout .. => execAloneTimeout_kept (Kept.refl _ _ s) (fun _ h => h) fun _ h => h
  | .keyPresentChange .. => execKeyPresentChange_kept (Kept.refl _ _ s) (fun _ h => h) fun _ h => h
  | .keyLatchChange .. => execKeyLatchChange_kept (Kept.refl _ _ s) (fun _ h => h) fun _ h => h
  | .confirmationWrite .. => execConfirmationWrite_kept (Kept.refl _ _ s) (fun _ h => h) fun _ h => h
  | .confirmationDone .. => execConfirmationDone_kept (Kept.refl _ _ s) (fun _ h => h) fun _ h => h
  | .historyRecordWrite .. => execHistoryRecordWrite_kept (Kept.refl _ _ s) (fun _ h => h) fun _ h => h
  | .voterMismatch .. => execVoterMismatch_kept (Kept.refl _ _ s) (fun _ h => h) fun _ h => h
  | .voterXyDisagree .. => execVoterXyDisagree_kept (Kept.refl _ _ s) (fun _ h => h) fun _ h => h
  | .coreBistDone .. => execCoreBistDone_kept (Kept.refl _ _ s) (fun _ h => h) fun _ h => h
  | .agreementPoint .. => execAgreementPoint_kept (Kept.refl _ _ s) (fun _ h => h) fun _ h => h
  | .handoverRequest .. => execHandoverRequest_kept (Kept.refl _ _ s) (fun _ h => h) fun _ h => h
  | .handoverAccept .. => execHandoverAccept_kept (Kept.refl _ _ s) (fun _ h => h) fun _ h => h
  | .standReset .. => execStandReset_kept (Kept.refl _ _ s) (fun _ h => h) fun _ h => h
  | .debugAttach .. => execDebugAttach_kept (Kept.refl _ _ s) (fun _ h => h) fun _ h => h
  | .debugDetach .. => execDebugDetach_kept (Kept.refl _ _ s) (fun _ h => h) fun _ h => h
  | .debugHaltStand .. => execDebugHaltStand_kept (Kept.refl _ _ s) (fun _ h => h) fun _ h => h
  | .debugStepStand .. => execDebugStepStand_kept (Kept.refl _ _ s) (fun _ h => h) fun _ h => h
  | .debugResumeStand .. => execDebugResumeStand_kept (Kept.refl _ _ s) (fun _ h => h) fun _ h => h
  | .debugReadStand .. => execDebugReadStand_kept (Kept.refl _ _ s) (fun _ h => h) fun _ h => h
  | .debugWriteStand .. => execDebugWriteStand_kept (Kept.refl _ _ s) (fun _ h => h) fun _ h => h
  | .claimRead .. => execClaimRead_kept (Kept.refl _ _ s) (fun _ h => h) fun _ h => h
  | .softwareEvent .. => execSoftwareEvent_kept (Kept.refl _ _ s) (fun _ h => h) fun _ h => h
  | .lookoutServiceFirst .. => execLookoutServiceFirst_kept (Kept.refl _ _ s) (fun _ h => h) fun _ h => h
  | .lookoutServiceSecond .. => execLookoutServiceSecond_kept (Kept.refl _ _ s) (fun _ h => h) fun _ h => h
  | .lookoutTimeout .. => execLookoutTimeout_kept (Kept.refl _ _ s) (fun _ h => h) fun _ h => h
  | .lookoutSequenceTimeout .. => execLookoutSequenceTimeout_kept (Kept.refl _ _ s) (fun _ h => h) fun _ h => h
  | .lookoutStartLimit .. => execLookoutStartLimit_kept (Kept.refl _ _ s) (fun _ h => h) fun _ h => h
  | .standLeMemoryAccess .. => execStandLeMemoryAccess_kept (Kept.refl _ _ s) (fun _ h => h) fun _ h => h
  | .leLd .. => execLeLd_kept (Kept.refl _ _ s) (fun _ h => h) fun _ h => h
  | .leLdn .. => execLeLdn_kept (Kept.refl _ _ s) (fun _ h => h) fun _ h => h
  | .leAnd .. => execLeAnd_kept (Kept.refl _ _ s) (fun _ h => h) fun _ h => h
  | .leAndn .. => execLeAndn_kept (Kept.refl _ _ s) (fun _ h => h) fun _ h => h
  | .leOr .. => execLeOr_kept (Kept.refl _ _ s) (fun _ h => h) fun _ h => h
  | .leOrn .. => execLeOrn_kept (Kept.refl _ _ s) (fun _ h => h) fun _ h => h
  | .leXor .. => execLeXor_kept (Kept.refl _ _ s) (fun _ h => h) fun _ h => h
  | .leXorn .. => execLeXorn_kept (Kept.refl _ _ s) (fun _ h => h) fun _ h => h
  | .leSt .. => execLeSt_kept (Kept.refl _ _ s) (fun _ h => h) fun _ h => h
  | .leStn .. => execLeStn_kept (Kept.refl _ _ s) (fun _ h => h) fun _ h => h
  | .leS .. => execLeS_kept (Kept.refl _ _ s) (fun _ h => h) fun _ h => h
  | .leROp .. => execLeROp_kept (Kept.refl _ _ s) (fun _ h => h) fun _ h => h
  | .leLds .. => execLeLds_kept (Kept.refl _ _ s) (fun _ h => h) fun _ h => h
  | .leNot .. => execLeNot_kept (Kept.refl _ _ s) (fun _ h => h) fun _ h => h
  | .leBopen .. => execLeBopen_kept (Kept.refl _ _ s) (fun _ h => h) fun _ h => h
  | .leBclose .. => execLeBclose_kept (Kept.refl _ _ s) (fun _ h => h) fun _ h => h
  | .leLdw .. => execLeLdw_kept (Kept.refl _ _ s) (fun _ h => h) fun _ h => h
  | .leStw .. => execLeStw_kept (Kept.refl _ _ s) (fun _ h => h) fun _ h => h
  | .leAdd .. => execLeAdd_kept (Kept.refl _ _ s) (fun _ h => h) fun _ h => h
  | .leSub .. => execLeSub_kept (Kept.refl _ _ s) (fun _ h => h) fun _ h => h
  | .leMul .. => execLeMul_kept (Kept.refl _ _ s) (fun _ h => h) fun _ h => h
  | .leAndw .. => execLeAndw_kept (Kept.refl _ _ s) (fun _ h => h) fun _ h => h
  | .leOrw .. => execLeOrw_kept (Kept.refl _ _ s) (fun _ h => h) fun _ h => h
  | .leXorw .. => execLeXorw_kept (Kept.refl _ _ s) (fun _ h => h) fun _ h => h
  | .leShl .. => execLeShl_kept (Kept.refl _ _ s) (fun _ h => h) fun _ h => h
  | .leShr .. => execLeShr_kept (Kept.refl _ _ s) (fun _ h => h) fun _ h => h
  | .leSar .. => execLeSar_kept (Kept.refl _ _ s) (fun _ h => h) fun _ h => h
  | .leLdhi .. => execLeLdhi_kept (Kept.refl _ _ s) (fun _ h => h) fun _ h => h
  | .leLdx .. => execLeLdx_kept (Kept.refl _ _ s) (fun _ h => h) fun _ h => h
  | .leCeq .. => execLeCeq_kept (Kept.refl _ _ s) (fun _ h => h) fun _ h => h
  | .leCne .. => execLeCne_kept (Kept.refl _ _ s) (fun _ h => h) fun _ h => h
  | .leCgt .. => execLeCgt_kept (Kept.refl _ _ s) (fun _ h => h) fun _ h => h
  | .leCge .. => execLeCge_kept (Kept.refl _ _ s) (fun _ h => h) fun _ h => h
  | .leClt .. => execLeClt_kept (Kept.refl _ _ s) (fun _ h => h) fun _ h => h
  | .leCle .. => execLeCle_kept (Kept.refl _ _ s) (fun _ h => h) fun _ h => h
  | .leBtow .. => execLeBtow_kept (Kept.refl _ _ s) (fun _ h => h) fun _ h => h
  | .leWtob .. => execLeWtob_kept (Kept.refl _ _ s) (fun _ h => h) fun _ h => h
  | .leSig .. => execLeSig_kept (Kept.refl _ _ s) (fun _ h => h) fun _ h => h
  | .leJmp .. => execLeJmp_kept (Kept.refl _ _ s) (fun _ h => h) fun _ h => h
  | .leJc .. => execLeJc_kept (Kept.refl _ _ s) (fun _ h => h) fun _ h => h
  | .leJcn .. => execLeJcn_kept (Kept.refl _ _ s) (fun _ h => h) fun _ h => h
  | .leRet .. => execLeRet_kept (Kept.refl _ _ s) (fun _ h => h) fun _ h => h
  | .leRetc .. => execLeRetc_kept (Kept.refl _ _ s) (fun _ h => h) fun _ h => h
  | .leEnd .. => execLeEnd_kept (Kept.refl _ _ s) (fun _ h => h) fun _ h => h
  | .leCallu .. => execLeCallu_kept (Kept.refl _ _ s) (fun _ h => h) fun _ h => h
  | .leTon .. => execLeTon_kept (Kept.refl _ _ s) (fun _ h => h) fun _ h => h
  | .leTof .. => execLeTof_kept (Kept.refl _ _ s) (fun _ h => h) fun _ h => h
  | .leTp .. => execLeTp_kept (Kept.refl _ _ s) (fun _ h => h) fun _ h => h
  | .leCtu .. => execLeCtu_kept (Kept.refl _ _ s) (fun _ h => h) fun _ h => h
  | .leCtd .. => execLeCtd_kept (Kept.refl _ _ s) (fun _ h => h) fun _ h => h
  | .leRTrig .. => execLeRTrig_kept (Kept.refl _ _ s) (fun _ h => h) fun _ h => h
  | .leFTrig .. => execLeFTrig_kept (Kept.refl _ _ s) (fun _ h => h) fun _ h => h
  | .leSr .. => execLeSr_kept (Kept.refl _ _ s) (fun _ h => h) fun _ h => h
  | .leRs .. => execLeRs_kept (Kept.refl _ _ s) (fun _ h => h) fun _ h => h
  | .leCmp .. => execLeCmp_kept (Kept.refl _ _ s) (fun _ h => h) fun _ h => h
  | .leLimit .. => execLeLimit_kept (Kept.refl _ _ s) (fun _ h => h) fun _ h => h
  | .leMove .. => execLeMove_kept (Kept.refl _ _ s) (fun _ h => h) fun _ h => h
  | .leEqv2 .. => execLeEqv2_kept (Kept.refl _ _ s) (fun _ h => h) fun _ h => h
  | .illegalInstruction .. => execIllegalInstruction_kept (Kept.refl _ _ s) (fun _ h => h) fun _ h => h
  | .leLaneMismatch .. => execLeLaneMismatch_kept (Kept.refl _ _ s) (fun _ h => h) fun _ h => h
  | .leVoterXyDisagree .. => execLeVoterXyDisagree_kept (Kept.refl _ _ s) (fun _ h => h) fun _ h => h
  | .leLoad .. => execLeLoad_kept (Kept.refl _ _ s) (fun _ h => h) fun _ h => h
  | .admissionDone .. => execAdmissionDone_kept (Kept.refl _ _ s) (fun _ h => h) fun _ h => h
  | .leDiscard .. => execLeDiscard_kept (Kept.refl _ _ s) (fun _ h => h) fun _ h => h
  | .leSwap .. => execLeSwap_kept (Kept.refl _ _ s) (fun _ h => h) fun _ h => h
  | .leWarm .. => execLeWarm_kept (Kept.refl _ _ s) (fun _ h => h) fun _ h => h
  | .leCold .. => execLeCold_kept (Kept.refl _ _ s) (fun _ h => h) fun _ h => h
  | .leStop .. => execLeStop_kept (Kept.refl _ _ s) fun _ h => h
  | .restartComplete .. => execRestartComplete_kept (Kept.refl _ _ s) (fun _ h => h) fun _ h => h
  | .engineFunctionReset .. => execEngineFunctionReset_kept (Kept.refl _ _ s) (fun _ h => h) fun _ h => h
  | .hostWindowWrite .. => execHostWindowWrite_kept (Kept.refl _ _ s) (fun _ h => h) fun _ h => h
  | .forceCommit .. => execForceCommit_kept (Kept.refl _ _ s) (fun _ h => h) fun _ h => h
  | .leHalt .. => execLeHalt_kept (Kept.refl _ _ s) (fun _ h => h) fun _ h => h
  | .leResume .. => execLeResume_kept (Kept.refl _ _ s) (fun _ h => h) fun _ h => h
  | .leStep .. => execLeStep_kept (Kept.refl _ _ s) (fun _ h => h) fun _ h => h
  | .leStepcyc .. => execLeStepcyc_kept (Kept.refl _ _ s) (fun _ h => h) fun _ h => h
  | .leBreakpoint .. => execLeBreakpoint_kept (Kept.refl _ _ s) (fun _ h => h) fun _ h => h
  | .debugWriteEngine .. => execDebugWriteEngine_kept (Kept.refl _ _ s) (fun _ h => h) fun _ h => h
  | .debugReadEngine .. => execDebugReadEngine_kept (Kept.refl _ _ s) fun _ h => h
  | .leNapEntry .. => execLeNapEntry_kept (Kept.refl _ _ s) (fun _ h => h) fun _ h => h
  | .scannerSample .. => execScannerSample_kept (Kept.refl _ _ s) (fun _ h => h) fun _ h => h
  | .outputStale .. => execOutputStale_kept (Kept.refl _ _ s) (fun _ h => h) fun _ h => h
  | .counterEdge .. => execCounterEdge_kept (Kept.refl _ _ s) (fun _ h => h) fun _ h => h
  | .frequencyGateTimeout .. => execFrequencyGateTimeout_kept (Kept.refl _ _ s) fun _ h => h
  | .statusLinkFrame .. => execStatusLinkFrame_kept (Kept.refl _ _ s) (fun _ h => h) fun _ h => h
  | .statusLinkLost .. => execStatusLinkLost_kept (Kept.refl _ _ s) (fun _ h => h) fun _ h => h
  | .supplyFallingCross .. => execSupplyFallingCross_kept (Kept.refl _ _ s) (fun _ h => h) fun _ h => h
  | .supplyRisingCross .. => execSupplyRisingCross_kept (Kept.refl _ _ s) (fun _ h => h) fun _ h => h
  | .offPulseSlot .. => execOffPulseSlot_kept (Kept.refl _ _ s) (fun _ h => h) fun _ h => h
  | .outputTrip .. => execOutputTrip_kept (Kept.refl _ _ s) (fun _ h => h) fun _ h => h
  | .thermalShutdown .. => execThermalShutdown_kept (Kept.refl _ _ s) (fun _ h => h) fun _ h => h
  | .autoRetry .. => execAutoRetry_kept (Kept.refl _ _ s) (fun _ h => h) fun _ h => h
  | .retriesClear .. => execRetriesClear_kept (Kept.refl _ _ s) (fun _ h => h) fun _ h => h
  | .channelAck .. => execChannelAck_kept (Kept.refl _ _ s) (fun _ h => h) fun _ h => h
  | .supplyAck .. => execSupplyAck_kept (Kept.refl _ _ s) (fun _ h => h) fun _ h => h
  | .groupReset .. => execGroupReset_kept (Kept.refl _ _ s) (fun _ h => h) fun _ h => h
  | .groupResetDone .. => execGroupResetDone_kept (Kept.refl _ _ s) (fun _ h => h) fun _ h => h
  | .rangerLevelSample .. => execRangerLevelSample_kept (Kept.refl _ _ s) fun _ h => h
  | .rangerEvaluation .. => execRangerEvaluation_kept (Kept.refl _ _ s) (fun _ h => h) fun _ h => h
  | .rangerEdge .. => execRangerEdge_kept (Kept.refl _ _ s) fun _ h => h
  | .rangerSafeCopy .. => execRangerSafeCopy_kept (Kept.refl _ _ s) fun _ h => h
  | .rangerConnectionTimeout .. => execRangerConnectionTimeout_kept (Kept.refl _ _ s) fun _ h => h
  | .rangerQuadHoldEnd .. => execRangerQuadHoldEnd_kept (Kept.refl _ _ s) fun _ h => h
  | .rangerParamCrcCheck .. => execRangerParamCrcCheck_kept (Kept.refl _ _ s) (fun _ h => h) fun _ h => h
  | .rangerMirrorImage .. => execRangerMirrorImage_kept (Kept.refl _ _ s) (fun _ h => h) fun _ h => h
  | .rangerMirrorLost .. => execRangerMirrorLost_kept (Kept.refl _ _ s) (fun _ h => h) fun _ h => h
  | .cycleMark .. => execCycleMark_kept (Kept.refl _ _ s) (fun _ h => h) fun _ h => h
  | .syncSlot .. => execSyncSlot_kept (Kept.refl _ _ s) (fun _ h => h) fun _ h => h
  | .syncFrame .. => execSyncFrame_kept (Kept.refl _ _ s) (fun _ h => h) fun _ h => h
  | .syncCorrection .. => execSyncCorrection_kept (Kept.refl _ _ s) (fun _ h => h) fun _ h => h
  | .eventWindowOpen .. => execEventWindowOpen_kept (Kept.refl _ _ s) (fun _ h => h) fun _ h => h
  | .eventFrame .. => execEventFrame_kept (Kept.refl _ _ s) (fun _ h => h) fun _ h => h
  | .blazeDue .. => execBlazeDue_kept (Kept.refl _ _ s) (fun _ h => h) fun _ h => h
  | .blazeFrame .. => execBlazeFrame_kept (Kept.refl _ _ s) (fun _ h => h) fun _ h => h
  | .blazeJudgement .. => execBlazeJudgement_kept (Kept.refl _ _ s) (fun _ h => h) fun _ h => h
  | .hostBufferCommit .. => execHostBufferCommit_kept (Kept.refl _ _ s) (fun _ h => h) fun _ h => h
  | .timeRead .. => execTimeRead_kept (Kept.refl _ _ s) (fun _ h => h) fun _ h => h
  | .claimRequest .. => execClaimRequest_kept (Kept.refl _ _ s) (fun _ h => h) fun _ h => h
  | .releaseRequest .. => execReleaseRequest_kept (Kept.refl _ _ s) (fun _ h => h) fun _ h => h
  | .listenRequest .. => execListenRequest_kept (Kept.refl _ _ s) (fun _ h => h) fun _ h => h
  | .claimFrame .. => execClaimFrame_kept (Kept.refl _ _ s) (fun _ h => h) fun _ h => h
  | .claimEffect .. => execClaimEffect_kept (Kept.refl _ _ s) (fun _ h => h) fun _ h => h
  | .planeReset .. => execPlaneReset_kept (Kept.refl _ _ s) (fun _ h => h) fun _ h => h
  | .planeResetDone .. => execPlaneResetDone_kept (Kept.refl _ _ s) fun _ h => h
  | .linkUp .. => execLinkUp_kept (Kept.refl _ _ s) (fun _ h => h) fun _ h => h
  | .linkDown .. => execLinkDown_kept (Kept.refl _ _ s) (fun _ h => h) fun _ h => h
  | .sideLossTimeout .. => execSideLossTimeout_kept (Kept.refl _ _ s) (fun _ h => h) fun _ h => h
  | .trainStart .. => execTrainStart_kept (Kept.refl _ _ s) (fun _ h => h) fun _ h => h
  | .trainHello .. => execTrainHello_kept (Kept.refl _ _ s) (fun _ h => h) fun _ h => h
  | .trainDreq .. => execTrainDreq_kept (Kept.refl _ _ s) (fun _ h => h) fun _ h => h
  | .trainDresp .. => execTrainDresp_kept (Kept.refl _ _ s) (fun _ h => h) fun _ h => h
  | .trainRecord .. => execTrainRecord_kept (Kept.refl _ _ s) (fun _ h => h) fun _ h => h
  | .trainBlazes .. => execTrainBlazes_kept (Kept.refl _ _ s) (fun _ h => h) fun _ h => h
  | .trainDigest .. => execTrainDigest_kept (Kept.refl _ _ s) (fun _ h => h) fun _ h => h
  | .trainCommit .. => execTrainCommit_kept (Kept.refl _ _ s) (fun _ h => h) fun _ h => h
  | .neighbourTimeout .. => execNeighbourTimeout_kept (Kept.refl _ _ s) (fun _ h => h) fun _ h => h
  | .inaugurationDeadline .. => execInaugurationDeadline_kept (Kept.refl _ _ s) (fun _ h => h) fun _ h => h
  | .tableEffect .. => execTableEffect_kept (Kept.refl _ _ s) (fun _ h => h) fun _ h => h
  | .contextLock .. => execContextLock_kept (Kept.refl _ _ s) (fun _ h => h) fun _ h => h
  | .contextTimeout .. => execContextTimeout_kept (Kept.refl _ _ s) (fun _ h => h) fun _ h => h
  | .unitRestart .. => execUnitRestart_kept (Kept.refl _ _ s) (fun _ h => h) fun _ h => h
  | .unitFrameResult .. => execUnitFrameResult_kept (Kept.refl _ _ s) (fun _ h => h) fun _ h => h
  | .cvuReset .. => execCvuReset_kept (Kept.refl _ _ s) (fun _ h => h) fun _ h => h
  | .cvuResetDone .. => execCvuResetDone_kept (Kept.refl _ _ s) fun _ h => h
  | .windowLoad .. => execWindowLoad_kept (Kept.refl _ _ s) (fun _ h => h) fun _ h => h
  | .windowStore .. => execWindowStore_kept (Kept.refl _ _ s) (fun _ h => h) fun _ h => h
  | .windowLr .. => execWindowLr_kept (Kept.refl _ _ s) (fun _ h => h) fun _ h => h
  | .windowSc .. => execWindowSc_kept (Kept.refl _ _ s) (fun _ h => h) fun _ h => h
  | .windowAmo .. => execWindowAmo_kept (Kept.refl _ _ s) (fun _ h => h) fun _ h => h
  | .rwRead .. => execRwRead_kept (Kept.refl _ _ s) (fun _ h => h) fun _ h => h
  | .rwWrite .. => execRwWrite_kept (Kept.refl _ _ s) (fun _ h => h) fun _ h => h
  | .rwLockrd .. => execRwLockrd_kept (Kept.refl _ _ s) (fun _ h => h) fun _ h => h
  | .rwWrunlk .. => execRwWrunlk_kept (Kept.refl _ _ s) (fun _ h => h) fun _ h => h
  | .rwUnlock .. => execRwUnlock_kept (Kept.refl _ _ s) (fun _ h => h) fun _ h => h
  | .rwAmo .. => execRwAmo_kept (Kept.refl _ _ s) (fun _ h => h) fun _ h => h
  | .rwPoll .. => execRwPoll_kept (Kept.refl _ _ s) (fun _ h => h) fun _ h => h
  | .rwResp .. => execRwResp_kept (Kept.refl _ _ s) (fun _ h => h) fun _ h => h
  | .rwWack .. => execRwWack_kept (Kept.refl _ _ s) (fun _ h => h) fun _ h => h
  | .rootwayTimeout .. => execRootwayTimeout_kept (Kept.refl _ _ s) (fun _ h => h) fun _ h => h
  | .lockExpiry .. => execLockExpiry_kept (Kept.refl _ _ s) (fun _ h => h) fun _ h => h
  | .fenceRead .. => execFenceRead_kept (Kept.refl _ _ s) fun _ h => h
  | .doorbellPoll .. => execDoorbellPoll_kept (Kept.refl _ _ s) (fun _ h => h) fun _ h => h
  | .apertureEnable .. => execApertureEnable_kept (Kept.refl _ _ s) (fun _ h => h) fun _ h => h
  | .rootwayReset .. => execRootwayReset_kept (Kept.refl _ _ s) (fun _ h => h) fun _ h => h
  | .tunnelFrame .. => execTunnelFrame_kept (Kept.refl _ _ s) (fun _ h => h) fun _ h => h
  | .portFrameReceive .. => execPortFrameReceive_kept (Kept.refl _ _ s) (fun _ h => h) fun _ h => h
  | .txRingWrite .. => execTxRingWrite_kept (Kept.refl _ _ s) (fun _ h => h) fun _ h => h
  | .portEnable .. => execPortEnable_kept (Kept.refl _ _ s) (fun _ h => h) fun _ h => h
  | .portDisable .. => execPortDisable_kept (Kept.refl _ _ s) (fun _ h => h) fun _ h => h
  | .portReset .. => execPortReset_kept (Kept.refl _ _ s) (fun _ h => h) fun _ h => h
  | .busoffRecovery .. => execBusoffRecovery_kept (Kept.refl _ _ s) (fun _ h => h) fun _ h => h
  | .memoryRead .. => execMemoryRead_kept (Kept.refl _ _ s) (fun _ h => h) fun _ h => h
  | .memoryWrite .. => execMemoryWrite_kept (Kept.refl _ _ s) (fun _ h => h) fun _ h => h
  | .scrubRead .. => execScrubRead_kept (Kept.refl _ _ s) (fun _ h => h) fun _ h => h
  | .scrubLapLimit .. => execScrubLapLimit_kept (Kept.refl _ _ s) (fun _ h => h) fun _ h => h
  | .fillStart .. => execFillStart_kept (Kept.refl _ _ s) (fun _ h => h) fun _ h => h
  | .fillAbort .. => execFillAbort_kept (Kept.refl _ _ s) (fun _ h => h) fun _ h => h
  | .fillDone .. => execFillDone_kept (Kept.refl _ _ s) (fun _ h => h) fun _ h => h
  | .writeRaw .. => execWriteRaw_kept (Kept.refl _ _ s) (fun _ h => h) fun _ h => h
  | .readRaw .. => execReadRaw_kept (Kept.refl _ _ s) (fun _ h => h) fun _ h => h
  | .encodeRow .. => execEncodeRow_kept (Kept.refl _ _ s) (fun _ h => h) fun _ h => h
  | .checkRow .. => execCheckRow_kept (Kept.refl _ _ s) (fun _ h => h) fun _ h => h
  | .bistStart .. => execBistStart_kept (Kept.refl _ _ s) (fun _ h => h) fun _ h => h
  | .bistAbort .. => execBistAbort_kept (Kept.refl _ _ s) (fun _ h => h) fun _ h => h
  | .bistDepot .. => execBistDepot_kept (Kept.refl _ _ s) (fun _ h => h) fun _ h => h
  | .bistRunDone .. => execBistRunDone_kept (Kept.refl _ _ s) (fun _ h => h) fun _ h => h
  | .nandBlockRetire .. => execNandBlockRetire_kept (Kept.refl _ _ s) (fun _ h => h) fun _ h => h
  | .recordAccept .. => execRecordAccept_kept (Kept.refl _ _ s) (fun _ h => h) fun _ h => h
  | .recordSubmit .. => execRecordSubmit_kept (Kept.refl _ _ s) (fun _ h => h) fun _ h => h
  | .recorderFlushTimer .. => execRecorderFlushTimer_kept (Kept.refl _ _ s) (fun _ h => h) fun _ h => h
  | .pageProgrammed .. => execPageProgrammed_kept (Kept.refl _ _ s) (fun _ h => h) fun _ h => h
  | .oldestRead .. => execOldestRead_kept (Kept.refl _ _ s) (fun _ h => h) fun _ h => h
  | .nextRead .. => execNextRead_kept (Kept.refl _ _ s) (fun _ h => h) fun _ h => h
  | .recordReadStart .. => execRecordReadStart_kept (Kept.refl _ _ s) (fun _ h => h) fun _ h => h
  | .recordReadAbort .. => execRecordReadAbort_kept (Kept.refl _ _ s) (fun _ h => h) fun _ h => h
  | .recordReadDone .. => execRecordReadDone_kept (Kept.refl _ _ s) (fun _ h => h) fun _ h => h
  | .recorderReset .. => execRecorderReset_kept (Kept.refl _ _ s) (fun _ h => h) fun _ h => h
  | .recorderStart .. => execRecorderStart_kept (Kept.refl _ _ s) (fun _ h => h) fun _ h => h
  | .rate24Update .. => execRate24Update_kept (Kept.refl _ _ s) (fun _ h => h) fun _ h => h
  | .standWfi .. => execStandWfi_kept (Kept.refl _ _ s) (fun _ h => h) fun _ h => h
  | .unitWake .. => execUnitWake_kept (Kept.refl _ _ s) (fun _ h => h) fun _ h => h
  | .pwrRest .. => execPwrRest_kept (Kept.refl _ _ s) (fun _ h => h) fun _ h => h
  | .pwrSlumber .. => execPwrSlumber_kept (Kept.refl _ _ s) (fun _ h => h) fun _ h => h
  | .pwrHibernate .. => execPwrHibernate_kept (Kept.refl _ _ s) (fun _ h => h) fun _ h => h
  | .pwrCancel .. => execPwrCancel_kept (Kept.refl _ _ s) (fun _ h => h) fun _ h => h
  | .pwrWake .. => execPwrWake_kept (Kept.refl _ _ s) (fun _ h => h) fun _ h => h
  | .softwareReset .. => execSoftwareReset_kept (Kept.refl _ _ s) (fun _ h => h) fun _ h => h
  | .timeRealign .. => execTimeRealign_kept (Kept.refl _ _ s) fun _ h => h
  | .clockMonitorWindow .. => execClockMonitorWindow_kept (Kept.refl _ _ s) (fun _ h => h) fun _ h => h
  | .referenceLoss .. => execReferenceLoss_kept (Kept.refl _ _ s) (fun _ h => h) fun _ h => h
  | .fwOpen .. => execFwOpen_kept (Kept.refl _ _ s) (fun _ h => h) fun _ h => h
  | .fwPiece .. => execFwPiece_kept (Kept.refl _ _ s) (fun _ h => h) fun _ h => h
  | .fwAbandon .. => execFwAbandon_kept (Kept.refl _ _ s) (fun _ h => h) fun _ h => h
  | .fwPrepare .. => execFwPrepare_kept (Kept.refl _ _ s) (fun _ h => h) fun _ h => h
  | .fwActivate .. => execFwActivate_kept (Kept.refl _ _ s) (fun _ h => h) fun _ h => h
  | .fwConfirm .. => execFwConfirm_kept (Kept.refl _ _ s) (fun _ h => h) fun _ h => h
  | .fwBitmap .. => execFwBitmap_kept (Kept.refl _ _ s) (fun _ h => h) fun _ h => h
  | .fwSeedling .. => execFwSeedling_kept (Kept.refl _ _ s) (fun _ h => h) fun _ h => h
  | .fwUnprepare .. => execFwUnprepare_kept (Kept.refl _ _ s) (fun _ h => h) fun _ h => h
  | .fwuCommandDone .. => execFwuCommandDone_kept (Kept.refl _ _ s) (fun _ h => h) fun _ h => h
  | .seedlingAnnounce .. => execSeedlingAnnounce_kept (Kept.refl _ _ s) (fun _ h => h) fun _ h => h
  | .fwHello .. => execFwHello_kept (Kept.refl _ _ s) (fun _ h => h) fun _ h => h
  | .fwOffer .. => execFwOffer_kept (Kept.refl _ _ s) (fun _ h => h) fun _ h => h
  | .fwGet .. => execFwGet_kept (Kept.refl _ _ s) (fun _ h => h) fun _ h => h
  | .fwData .. => execFwData_kept (Kept.refl _ _ s) (fun _ h => h) fun _ h => h
  | .fwNack x f _ => execFwNack_kept (_x3 := x) (_frame := f) (Kept.refl _ _ s) fun _ h => h
  | .getRetryTimeout .. => execGetRetryTimeout_kept (Kept.refl _ _ s) (fun _ h => h) fun _ h => h
  | .registerRead .. => execRegisterRead_kept (Kept.refl _ _ s) (fun _ h => h) fun _ h => h
  | .referenceReturn .. => execReferenceReturn_kept (Kept.refl _ _ s) (fun _ h => h) fun _ h => h
  | .lookoutWindowOpen .. => execLookoutWindowOpen_kept (Kept.refl _ _ s) (fun _ h => h) fun _ h => h
  | .handoverResume .. => execHandoverResume_kept (Kept.refl _ _ s) (fun _ h => h) fun _ h => h
  | .standResetDone .. => execStandResetDone_kept (Kept.refl _ _ s) (fun _ h => h) fun _ h => h
  | .rootwayResetDone .. => execRootwayResetDone_kept (Kept.refl _ _ s) (fun _ h => h) fun _ h => h
  | .portResetDone .. => execPortResetDone_kept (Kept.refl _ _ s) (fun _ h => h) fun _ h => h
  | .recorderResetDone .. => execRecorderResetDone_kept (Kept.refl _ _ s) fun _ h => h
  | .portStateChange .. => execPortStateChange_kept (Kept.refl _ _ s) (fun _ h => h) fun _ h => h
  | .portFrameTransmitted .. => execPortFrameTransmitted_kept (Kept.refl _ _ s) (fun _ h => h) fun _ h => h
  | .etFrameSent .. => execEtFrameSent_kept (Kept.refl _ _ s) (fun _ h => h) fun _ h => h
  | .slumberExitDone .. => execSlumberExitDone_kept (Kept.refl _ _ s) (fun _ h => h) fun _ h => h

theorem KeptOut.exists_next {A : List Area} {P : List Part} {s : State} {o : Host.Outcome State Fault Refusal}
    (h : KeptOut A P s o) : ∃ u, o = .next u ∧ Kept A P s u := by
  cases o with
  | next u => exact ⟨u, rfl, h⟩
  | fault => exact h.elim
  | refused => exact h.elim

theorem exec_next_kept (c : Instr) (s : State) :
    ∃ u, exec c s = .next u ∧ Kept (frameAreas c) (frameParts c) s u :=
  (exec_kept c s).exists_next

theorem step_of_pending_nil {s : State} (h : s.pending = []) : step s = .next s := by
  rw [step, h]

theorem step_of_pending_cons {s : State} {c : Instr} {rest : List Instr} (h : s.pending = c :: rest) :
    step s = exec c { s with pending := rest } := by
  rw [step, h]

/-- The waiting commands are none of the tables. -/
theorem State.Canon.setPending {s : State} (h : s.Canon) (l : List Instr) : State.Canon { s with pending := l } := by
  obtain ⟨hregs, hmem, hle, hzero, hhits⟩ := h
  exact ⟨hregs, hmem, hle, hzero, hhits⟩

/-- Settles O1. -/
theorem stepRunsFront : Obligations.StepRunsFront :=
  fun _ _ _ => ⟨step_of_pending_cons, step_of_pending_nil⟩

/-- A power-on reset lists no register field, so every field reads its Reset value. -/
@[simp] theorem State.reset_rd (f : Fld) : State.reset.rd f = f.rst := rfl

/-- Settles O2: the tables of the reset state are empty. -/
theorem resetState : Obligations.ResetState :=
  ⟨State.reset_rd, fun _ _ _ _ _ => State.reset_rd _, rfl, ⟨rfl, rfl, rfl, List.forall_mem_nil _, rfl⟩, rfl, rfl,
    fun _ => rfl, fun _ _ => rfl, fun _ => ⟨rfl, rfl⟩⟩

/-- Settles O4: the frame of each command. -/
theorem commandFrames : Obligations.CommandFrames := by
  intro c s
  obtain ⟨u, hu, hkept⟩ := exec_next_kept c s
  exact ⟨u, hu, hkept.queue, hkept.framed⟩

/-- Settles O3: a command keeps the canonical form, and it runs on the state without itself in the queue. -/
theorem everyStepKeepsCanon : Obligations.EveryStepKeepsCanon := by
  intro s hcanon
  cases hq : s.pending with
  | nil => exact ⟨s, step_of_pending_nil hq, hcanon, hq⟩
  | cons c rest =>
    obtain ⟨u, hu, hkept⟩ := exec_next_kept c { s with pending := rest }
    exact ⟨u, (step_of_pending_cons hq).trans hu, hkept.canon (hcanon.setPending rest), hkept.queue⟩

end Sys2Proof.Machine

/-! ## Frames, events and records along a chain of operations -/

namespace Sys2Proof.Machine

/-! ### Frames -/

section
variable {fs : List Fld} {A : List Area} {P : List Part} {s u w : State}

/-- A frame stands over an operation that touches no part of the state outside `P` and no register. -/
theorem Touches.parts' (h : Touches fs A P s u) (hr : w.regs = u.regs) (hp : ∀ p, p ∉ P → Same u w p) :
    Touches fs A P s w :=
  ⟨fun f hf ha => by rw [← h.regs f hf ha, State.rd, State.rd, hr], fun p hn => Same.trans (h.parts p hn) (hp p hn)⟩

/-- A frame may name more fields. -/
theorem Touches.mono (h : Touches fs A P s u) {gs : List Fld} (hfs : fs ⊆ gs) : Touches gs A P s u :=
  ⟨fun f hf => h.regs f fun hmem => hf (List.map_subset _ hfs hmem), h.parts⟩

theorem Touches.setPw (h : Touches fs A P s u) (hP : .pw ∈ P) (p : Power) : Touches fs A P s { u with pw := p } :=
  h.parts' rfl fun q hq => by cases q <;> first | rfl | exact absurd hP hq

theorem Touches.begin (s : State) (t : Nat) (hP : ∀ p ∈ ([.now, .resp, .out] : List Part), p ∈ P) :
    Touches fs A P s (s.begin t) :=
  (Touches.refl fs A P s).kept (State.begin_kept (Kept.refl A P s) hP)

theorem Touches.fresh0 (s : State) (hP : ∀ p ∈ ([.resp, .out] : List Part), p ∈ P) : Touches fs A P s s.fresh0 :=
  (Touches.refl fs A P s).kept (State.fresh0_kept (Kept.refl A P s) hP)

theorem Touches.answer (h : Touches fs A P s u) (hP : .resp ∈ P) (r : Resp) : Touches fs A P s (u.answer r) :=
  h.kept (State.answer_kept (Kept.refl A P u) (List.forall_mem_singleton.mpr hP))

theorem Touches.emit (h : Touches fs A P s u) (hP : .out ∈ P) (e : Emission) : Touches fs A P s (u.emit e) :=
  h.kept (State.emit_kept (Kept.refl A P u) (List.forall_mem_singleton.mpr hP))

theorem Touches.wakeEdge (h : Touches fs A P s u) (hP : .pmg ∈ P) (i : Nat) : Touches fs A P s (u.wakeEdge i) :=
  h.kept (State.wakeEdge_kept (Kept.refl A P u) (List.forall_mem_singleton.mpr hP))

/-- A write of a field of one of the areas. -/
theorem Touches.wrIn (h : Touches fs A P s u) {f : Fld} (hf : f.area ∈ A) (v : Nat) : Touches fs A P s (u.wr f v) :=
  h.kept (State.wr_kept (Kept.refl A P u) hf)

/-- A write of one of the fields. -/
theorem Touches.wrOf (h : Touches fs A P s u) {f : Fld} (hf : f ∈ fs) (v : Nat) : Touches fs A P s (u.wr f v) :=
  h.wr (List.mem_map_of_mem hf) v

theorem Touches.wrB (h : Touches fs A P s u) {f : Fld} (hf : f ∈ fs) (b : Bool) : Touches fs A P s (u.wrB f b) :=
  h.wrOf hf _

theorem Touches.bump (h : Touches fs A P s u) {f : Fld} (hf : f ∈ fs) (n : Nat) : Touches fs A P s (u.bump f n) :=
  h.wrOf hf _

theorem Touches.tick (h : Touches fs A P s u) {f : Fld} (hf : f ∈ fs) : Touches fs A P s (u.tick f) :=
  h.wrOf hf _

theorem Touches.maxWr (h : Touches fs A P s u) {f : Fld} (hf : f ∈ fs) (v : Nat) : Touches fs A P s (u.maxWr f v) :=
  h.wrOf hf _

theorem Touches.note (h : Touches fs A P s u) (f : Fld) (m : Nat) : Touches fs A P s (u.note f m) :=
  h.parts' rfl fun p _ => by cases p <;> rfl

theorem Touches.wrBit (h : Touches fs A P s u) {f : Fld} (hf : f ∈ fs) (i : Nat) (b : Bool) :
    Touches fs A P s (u.wrBit f i b) :=
  (h.wrOf hf _).note _ _

theorem Touches.wr64 (h : Touches fs A P s u) {lo hi : Fld} (hlo : lo ∈ fs) (hhi : hi ∈ fs) (v : Nat) :
    Touches fs A P s (u.wr64 lo hi v) :=
  (h.wrOf hlo _).wrOf hhi _

theorem Touches.raise (h : Touches fs A P s u) (hA : .pend ∈ A) (n : Nat) : Touches fs A P s (u.raise n) :=
  h.kept (State.raise_kept (Kept.refl A P u) (List.forall_mem_singleton.mpr hA))

theorem Touches.record (h : Touches fs A P s u) (hA : ∀ a ∈ ([.pend, .ingress] : List Area), a ∈ A)
    (hP : ∀ p ∈ ([.pw, .rcd] : List Part), p ∈ P) (cls src kind obj : Nat) (w0 w1 : Option Nat) :
    Touches fs A P s (u.record cls src kind obj w0 w1) :=
  h.kept (State.record_kept (Kept.refl A P u) hA hP)

end

/-! ### Registers of other blocks -/

/-- The number of the pending bits' area, and that of the recorder's ingress area: a field whose area has another number
reads through events and records. -/
theorem State.rd_raise_code {s : State} {n : Nat} {f : Fld} (h : f.area.code ≠ 5) : (s.raise n).rd f = s.rd f :=
  State.rd_raise_area s n fun e => h (congrArg Area.code e)

theorem State.rd_record_code {s : State} {f : Fld} (h : f.area.code ≠ 5) (h' : f.area.code ≠ 19)
    {cls src kind obj : Nat} {w0 w1 : Option Nat} : (s.record cls src kind obj w0 w1).rd f = s.rd f :=
  State.rd_record_area s (fun e => h' (congrArg Area.code e)) (fun e => h (congrArg Area.code e)) ..

theorem State.wrB_eq (s : State) (f : Fld) (b : Bool) : s.wrB f b = s.wr f (b2n b) := rfl

theorem State.bump_eq (s : State) (f : Fld) (n : Nat) : s.bump f n = s.wr f (sat f.w (s.rd f + n)) := rfl

theorem State.tick_eq (s : State) (f : Fld) : s.tick f = s.wr f (s.rd f + 1) := rfl

theorem State.wr64_eq (s : State) (lo hi : Fld) (v : Nat) : s.wr64 lo hi v = (s.wr lo v).wr hi (v / 2 ^ 32) := rfl

theorem sat_lt (w v : Nat) : sat w v < 2 ^ w :=
  Nat.lt_of_le_of_lt (Nat.min_le_right _ _) (Nat.sub_one_lt (Nat.two_pow_pos w).ne')

/-- A saturated value fits its field. -/
@[simp] theorem sat_mod (w v : Nat) : sat w v % 2 ^ w = sat w v := Nat.mod_eq_of_lt (sat_lt w v)

/-- A counter that stops at all ones. -/
@[simp] theorem State.rd_bump_same (s : State) (f : Fld) (n : Nat) : (s.bump f n).rd f = sat f.w (s.rd f + n) := by
  rw [State.bump_eq, State.rd_wr_same, sat_mod]

/-- A value of 64 bits reads back from the two fields that hold it. -/
theorem State.rd64_wr64 (s : State) {lo hi : Fld} (hne : lo.key ≠ hi.key) (hlo : lo.w = 32) (hhi : hi.w = 32) (v : Nat) :
    (s.wr64 lo hi v).rd64 lo hi = v % 2 ^ 64 := by
  rw [State.rd64, State.wr64_eq, State.rd_wr_same, State.rd_wr_ne _ hne, State.rd_wr_same, hlo, hhi]
  omega

/-! ### The word of a register -/

/-- A stored word is made of the fields at its address. -/
theorem State.word_congr {s u : State} {a : Nat}
    (h : ∀ f : Fld, f.addr = a → f.lo ≤ 32 → f.area = areaAt a → u.rd f = s.rd f) : u.word a = s.word a := by
  unfold State.word
  split
  · rfl
  · next fs hfs =>
    refine List.foldl_ext _ _ 0 fun w f hf => ?_
    obtain ⟨-, hlo⟩ := regFields_alignedWord hfs
    exact congrArg (w + 2 ^ f.lo * ·) (h (Fld.at a f.lo f.w f.rst) rfl (by have := hlo f hf; simp only [Fld.at]; omega) rfl)

theorem State.word_kept {A : List Area} {P : List Part} {s u : State} (k : Kept A P s u) {a : Nat} (h : areaAt a ∉ A) :
    u.word a = s.word a :=
  State.word_congr fun f _ _ hf => k.framed.regs f (hf ▸ h)

/-- A write of a field of another register. -/
theorem State.word_wr_ne (s : State) {f : Fld} {a : Nat} (hf : f.lo < 32) (h : f.addr < a ∨ a + 1 < f.addr) (v : Nat) :
    (s.wr f v).word a = s.word a := by
  refine State.word_congr fun g hg hlo _ => State.rd_wr_ne s (fun hkey => ?_) v
  have hcf := f.area.code_lt
  have hcg := g.area.code_lt
  unfold Fld.key at hkey
  omega

theorem State.hwRecord_congr {s u : State} {w0 w1 : Option Nat} (h0 : ∀ a ∈ w0, u.word a = s.word a)
    (h1 : ∀ a ∈ w1, u.word a = s.word a) (hnow : u.now = s.now)
    (hsync : u.rd CNP_SYNC_STAT_STATE = s.rd CNP_SYNC_STAT_STATE) (cls src kind obj : Nat) :
    u.hwRecord cls src kind obj w0 w1 = s.hwRecord cls src kind obj w0 w1 := by
  have hw (w : Option Nat) (h : ∀ a ∈ w, u.word a = s.word a) : w.map u.word = w.map s.word := by
    cases w with
    | none => rfl
    | some a => exact congrArg some (h a rfl)
  rw [State.hwRecord, State.hwRecord, hw w0 h0, hw w1 h1, hnow, State.tsync, State.tsync, hsync]

/-! ### Events raised -/

/-- The sources `ns` have been raised since s, and the routes are as they were. -/
structure Raises (ns : List Nat) (s u : State) : Prop where
  raised : Raised ns s u
  prio : ∀ n, u.rd (STD_EVTi_ROUTE_PRIO n) = s.rd (STD_EVTi_ROUTE_PRIO n)
  stands : ∀ n, u.rd (STD_EVTi_ROUTE_STANDS n) = s.rd (STD_EVTi_ROUTE_STANDS n)

/-! ### What a command that is evaluated shows -/

/-- A number read off the state that a command answers. -/
def shown (f : State → Nat) : Host.Outcome State Fault Refusal → Nat
  | .next u => f u
  | _ => 0

theorem Does.imp {c : Instr} {s : State} {p q : State → Prop} (h : Does c s p) (hpq : ∀ u, p u → q u) : Does c s q := by
  obtain ⟨u, hu, hp⟩ := h
  exact ⟨u, hu, hpq u hp⟩

/-- A claim about a command holds of a state in which a number is as evaluation shows it. -/
theorem Does.exists_shown {c : Instr} {s : State} {p : State → Prop} (h : Does c s p) {f : State → Nat} {n : Nat}
    (hn : shown f (exec c s) = n) : ∃ u, p u ∧ f u = n := by
  obtain ⟨u, hu, hp⟩ := h
  rw [hu] at hn
  exact ⟨u, hp, hn⟩

section
variable {ns : List Nat} {ds : List Desc} {s u w : State}

theorem Raises.refl (s : State) : Raises [] s s := ⟨Raised.refl s, fun _ => rfl, fun _ => rfl⟩

/-- Pending bits and routes that read as before. -/
theorem Raises.of_rd_eq (h : Raises ns s u) (hw : ∀ f : Fld, f.area = .pend ∨ f.area = .std → w.rd f = u.rd f) :
    Raises ns s w := by
  refine ⟨fun n k hn hk => ?_, fun n => (hw _ (.inr rfl)).trans (h.prio n), fun n => (hw _ (.inr rfl)).trans (h.stands n)⟩
  rw [← h.raised n k hn hk, State.pends, State.pends, State.bit, State.bit, hw _ (.inl rfl)]

theorem Raises.kept (h : Raises ns s u) {A : List Area} {P : List Part} (k : Kept A P u w) (hp : .pend ∉ A)
    (hs : .std ∉ A) : Raises ns s w :=
  h.of_rd_eq fun f hf => k.framed.regs f (by rcases hf with hf | hf <;> rwa [hf])

theorem Raises.of_regs_eq (h : Raises ns s u) (hw : w.regs = u.regs) : Raises ns s w :=
  h.of_rd_eq fun f _ => by rw [State.rd, hw, State.rd]

theorem Raises.begin (s : State) (t : Nat) : Raises [] s (s.begin t) := (Raises.refl s).of_regs_eq rfl

theorem Raises.fresh0 (s : State) : Raises [] s s.fresh0 := (Raises.refl s).of_regs_eq rfl

theorem Raises.wr (h : Raises ns s u) {f : Fld} (hp : f.area.code ≠ 5) (hs : f.area.code ≠ 4) (v : Nat) :
    Raises ns s (u.wr f v) :=
  h.of_rd_eq fun g hg => State.rd_wr_area u (fun e => by
    rcases hg with hg | hg
    · exact hp (by rw [← e, hg]; rfl)
    · exact hs (by rw [← e, hg]; rfl)) v

theorem Raises.wrB (h : Raises ns s u) {f : Fld} (hp : f.area.code ≠ 5) (hs : f.area.code ≠ 4) (b : Bool) :
    Raises ns s (u.wrB f b) :=
  h.wr hp hs _

theorem Raises.bump (h : Raises ns s u) {f : Fld} (hp : f.area.code ≠ 5) (hs : f.area.code ≠ 4) (n : Nat) :
    Raises ns s (u.bump f n) :=
  h.wr hp hs _

theorem Raises.tick (h : Raises ns s u) {f : Fld} (hp : f.area.code ≠ 5) (hs : f.area.code ≠ 4) :
    Raises ns s (u.tick f) :=
  h.wr hp hs _

theorem Raises.wr64 (h : Raises ns s u) {lo hi : Fld} (hlo : lo.area.code ≠ 5) (hlo' : lo.area.code ≠ 4)
    (hhi : hi.area.code ≠ 5) (hhi' : hi.area.code ≠ 4) (v : Nat) : Raises ns s (u.wr64 lo hi v) :=
  (h.wr hlo hlo' _).wr hhi hhi' _

theorem Raises.wrBit (h : Raises ns s u) {f : Fld} (hp : f.area.code ≠ 5) (hs : f.area.code ≠ 4) (i : Nat) (b : Bool) :
    Raises ns s (u.wrBit f i b) :=
  (h.wr hp hs _).of_regs_eq rfl

/-- A write of a field of a stand's that is no route. -/
theorem Raises.wrStd (h : Raises ns s u) {f : Fld} (hp : f.area ≠ .pend)
    (hf : ∀ n, (STD_EVTi_ROUTE_PRIO n).key ≠ f.key ∧ (STD_EVTi_ROUTE_STANDS n).key ≠ f.key) (v : Nat) :
    Raises ns s (u.wr f v) :=
  ⟨h.raised.wr hp v, fun n => (State.rd_wr_ne u (hf n).1 v).trans (h.prio n),
    fun n => (State.rd_wr_ne u (hf n).2 v).trans (h.stands n)⟩

theorem Raises.raise (h : Raises ns s u) {m : Nat} (hm : m < 256) : Raises (ns ++ [m]) s (u.raise m) :=
  ⟨h.raised.raise hm h.prio h.stands,
    fun n => (State.rd_raise_code (f := STD_EVTi_ROUTE_PRIO n) (by simp [STD_EVTi_ROUTE_PRIO, Area.code])).trans (h.prio n),
    fun n => (State.rd_raise_code (f := STD_EVTi_ROUTE_STANDS n) (by simp [STD_EVTi_ROUTE_STANDS, Area.code])).trans
      (h.stands n)⟩

/-- The order in which sources are raised shows nowhere. -/
theorem Raises.of_mem_iff (h : Raises ns s u) {ms : List Nat} (hm : ∀ n, n ∈ ms ↔ n ∈ ns) : Raises ms s u :=
  ⟨fun n k hn hk => by rw [h.raised n k hn hk, decide_eq_decide.mpr (hm n)], h.prio, h.stands⟩

/-- As `Raises.raise`, with the latest source in front. -/
theorem Raises.raiseCons (h : Raises ns s u) {m : Nat} (hm : m < 256) : Raises (m :: ns) s (u.raise m) :=
  (h.raise hm).of_mem_iff fun n => by simp [or_comm]

/-! ### Records that join the queue -/

/-- The sources `ns` have been raised since s, the descriptors `ds` have joined the ingress queue, and the recorder goes
on taking descriptors as it did. -/
structure Reported (ns : List Nat) (ds : List Desc) (s u : State) : Prop extends Raises ns s u where
  queued : u.rcd = { s.rcd with queue := s.rcd.queue ++ ds }
  phase : u.pw.phase = s.pw.phase
  overload : u.rd REC_STAT_OVERLOAD = s.rd REC_STAT_OVERLOAD

theorem Reported.refl (s : State) : Reported [] [] s s := ⟨Raises.refl s, by simp, rfl, rfl⟩

theorem Reported.kept (h : Reported ns ds s u) {A : List Area} {P : List Part} (k : Kept A P u w) (hp : .pend ∉ A)
    (hs : .std ∉ A) (hi : .ingress ∉ A) (hr : .rcd ∉ P) (hph : w.pw.phase = u.pw.phase) : Reported ns ds s w :=
  ⟨h.toRaises.kept k hp hs, Eq.trans (k.framed.parts .rcd hr) h.queued, hph.trans h.phase,
    (k.framed.regs _ hi).trans h.overload⟩

/-- An update of parts of the state beside the recorder. -/
theorem Reported.of_parts (h : Reported ns ds s u) (hregs : w.regs = u.regs) (hrcd : w.rcd = u.rcd)
    (hph : w.pw.phase = u.pw.phase) : Reported ns ds s w :=
  ⟨h.toRaises.of_regs_eq hregs, hrcd.trans h.queued, hph.trans h.phase, by
    rw [← h.overload, State.rd, hregs, State.rd]⟩

theorem Reported.setPw (h : Reported ns ds s u) {p : Power} (hp : p.phase = u.pw.phase) :
    Reported ns ds s { u with pw := p } :=
  h.of_parts rfl rfl hp

theorem Reported.begin (s : State) (t : Nat) : Reported [] [] s (s.begin t) := (Reported.refl s).of_parts rfl rfl rfl

theorem Reported.fresh0 (s : State) : Reported [] [] s s.fresh0 := (Reported.refl s).of_parts rfl rfl rfl

theorem Reported.wr (h : Reported ns ds s u) {f : Fld} (hp : f.area.code ≠ 5) (hs : f.area.code ≠ 4)
    (hi : f.area.code ≠ 19) (v : Nat) : Reported ns ds s (u.wr f v) :=
  ⟨h.toRaises.wr hp hs v, h.queued, h.phase,
    (State.rd_wr_area u (g := REC_STAT_OVERLOAD) (fun e => hi (by rw [← e]; rfl)) v).trans h.overload⟩

theorem Reported.bump (h : Reported ns ds s u) {f : Fld} (hp : f.area.code ≠ 5) (hs : f.area.code ≠ 4)
    (hi : f.area.code ≠ 19) (n : Nat) : Reported ns ds s (u.bump f n) :=
  h.wr hp hs hi _

theorem Reported.wrB (h : Reported ns ds s u) {f : Fld} (hp : f.area.code ≠ 5) (hs : f.area.code ≠ 4)
    (hi : f.area.code ≠ 19) (b : Bool) : Reported ns ds s (u.wrB f b) :=
  h.wr hp hs hi _

theorem Reported.wr64 (h : Reported ns ds s u) {lo hi : Fld} (hlo : lo.area.code ≠ 5) (hlo' : lo.area.code ≠ 4)
    (hlo'' : lo.area.code ≠ 19) (hhi : hi.area.code ≠ 5) (hhi' : hi.area.code ≠ 4) (hhi'' : hi.area.code ≠ 19) (v : Nat) :
    Reported ns ds s (u.wr64 lo hi v) :=
  (h.wr hlo hlo' hlo'' _).wr hhi hhi' hhi'' _

theorem Reported.raise (h : Reported ns ds s u) {m : Nat} (hm : m < 256) : Reported (m :: ns) ds s (u.raise m) :=
  ⟨h.toRaises.raiseCons hm, by rw [State.raise_rcd, h.queued], by rw [State.raise_pw, h.phase],
    (State.rd_raise_area u m (f := REC_STAT_OVERLOAD) (by decide)).trans h.overload⟩

/-- The recorder that took descriptors goes on taking them while there is room. -/
theorem Reported.recording (h : Reported ns ds s u) {n : Nat} (hr : Recording s (ds.length + n)) : Recording u n := by
  obtain ⟨h1, h2, h3, h4, h5⟩ := hr
  refine ⟨h.phase ▸ h1, h.phase ▸ h2, h.phase ▸ h3, h.overload ▸ h4, ?_⟩
  rw [h.queued, List.length_append]
  omega

theorem Reported.record (h : Reported ns ds s u) (hr : Recording s (ds.length + 1)) (cls src kind obj : Nat)
    (w0 w1 : Option Nat) :
    Reported ns (ds ++ [u.hwRecord cls src kind obj w0 w1]) s (u.record cls src kind obj w0 w1) := by
  have hq : Kept [.ingress] [.rcd] u (u.setQueue (u.rcd.queue ++ [u.hwRecord cls src kind obj w0 w1])) :=
    State.setQueue_kept (Kept.refl _ _ u) (by decide) (by decide)
  have hrcd (q) : (u.setQueue q).rcd = { u.rcd with queue := q } := rfl
  have hover (q) : (u.setQueue q).rd REC_STAT_OVERLOAD = u.rd REC_STAT_OVERLOAD := State.rd_wr_ne _ (by decide) _
  rw [State.record_eq (h.recording hr)]
  refine ⟨h.toRaises.kept hq (by decide) (by decide), ?_, h.phase, (hover _).trans h.overload⟩
  rw [hrcd, h.queued, List.append_assoc]

/-- A record shows its two registers as they read afterwards. -/
theorem State.hwRecord_record (s : State) {w0 w1 : Option Nat}
    (h0 : ∀ a ∈ w0, areaAt a ∉ [Area.pend, Area.ingress]) (h1 : ∀ a ∈ w1, areaAt a ∉ [Area.pend, Area.ingress])
    (cls src kind obj : Nat) :
    (s.record cls src kind obj w0 w1).hwRecord cls src kind obj w0 w1 = s.hwRecord cls src kind obj w0 w1 := by
  have hk : Kept [.pend, .ingress] [.pw, .rcd] s (s.record cls src kind obj w0 w1) :=
    State.record_kept (Kept.refl _ _ s) (by decide) (by decide)
  exact State.hwRecord_congr (fun a ha => State.word_kept hk (h0 a ha)) (fun a ha => State.word_kept hk (h1 a ha))
    (hk.framed.parts .now (by decide)) (hk.framed.regs CNP_SYNC_STAT_STATE (by decide)) cls src kind obj

theorem Reported.recordSelf (h : Reported ns ds s u) (hr : Recording s (ds.length + 1)) {w0 w1 : Option Nat}
    (h0 : ∀ a ∈ w0, areaAt a ∉ [Area.pend, Area.ingress]) (h1 : ∀ a ∈ w1, areaAt a ∉ [Area.pend, Area.ingress])
    (cls src kind obj : Nat) :
    Reported ns (ds ++ [(u.record cls src kind obj w0 w1).hwRecord cls src kind obj w0 w1]) s
      (u.record cls src kind obj w0 w1) := by
  rw [State.hwRecord_record u h0 h1]
  exact h.record hr ..

/-- The order in which sources are raised shows nowhere. -/
theorem Reported.of_mem_iff (h : Reported ns ds s u) {ms : List Nat} (hm : ∀ n, n ∈ ms ↔ n ∈ ns) : Reported ms ds s u :=
  ⟨h.toRaises.of_mem_iff hm, h.queued, h.phase, h.overload⟩

theorem Recording.mono {n m : Nat} (h : Recording s n) (hm : m ≤ n) : Recording s m := by
  obtain ⟨h1, h2, h3, h4, h5⟩ := h
  exact ⟨h1, h2, h3, h4, by omega⟩

theorem reports_of_reported (h : Recording s ds.length → Reported ns ds s u) : Reports ns ds s u :=
  fun hr => ⟨(h hr).raised, (h hr).queued⟩

/-- Hardware records are noted by their class, source, KIND and OBJ. -/
theorem notes_of_reported {ks : List (Nat × Nat × Nat × Nat)} (hks : ds.map Desc.what = ks.map some)
    (h : Recording s ds.length → Reported ns ds s u) : Notes ns ks s u := by
  intro hr
  have hlen : ds.length = ks.length := by simpa using congrArg List.length hks
  have hu := h (hlen ▸ hr)
  refine ⟨hu.raised, ?_⟩
  rw [hu.queued, List.map_append, hks]

end

end Sys2Proof.Machine

/-! ## What ends a start or a power period, with a confirmation record in progress (R83) -/

namespace Sys2Proof.Machine

-- An evaluation waits for the kernel, which has all that stands before it to check: one at a time.
set_option Elab.async false

/-! ### A confirmation record cut off -/

/-- A key with empty journals. -/
def blankKey : KeyMem := ⟨[], [], [], ⟨[], []⟩, ⟨[], []⟩⟩

/-- The page program of a confirmation record is in progress on a blank key, while a power-fail runs. -/
def confirming : State :=
  { State.reset with
    pw := { powerInit with failing := true }
    key := { keyInit with mem := some blankKey, conf := some (0, []) } }

/-- The slots of the commissioning journal that have been written. -/
def commSlots (u : State) : Nat := (u.key.mem.map fun m => m.comm.length).getD 0

/-- The record that the loss of power interrupts takes its slot (R83). -/
theorem commSlots_storeExhausted : shown commSlots (exec (.storeExhausted 0) confirming) = 1 := by
  decide +kernel

/-- Refutes O6: the clause of an exhausted store says that the contents of the key stay, but the loss of power tears a
confirmation record whose page program is in progress (R83), which takes a slot of the commissioning journal. -/
theorem not_feedReportAndStore : ¬ Obligations.FeedReportAndStore := by
  rintro ⟨-, hstore⟩
  obtain ⟨-, -, -, -, hexhausted⟩ := hstore confirming 0 0
  obtain ⟨u, ⟨-, -, -, -, -, -, -, hkey, -⟩, hslots⟩ := (hexhausted rfl).exists_shown commSlots_storeExhausted
  rw [commSlots, hkey] at hslots
  exact absurd hslots (by decide)

/-- As `confirming`, in a running module whose stand 0 runs as a triad. -/
def confirmingRuns : State :=
  let s : State := { confirming with pw := { powerInit with phase := .running } }
  (((((s.wr (STD_Sk_STAT_MODE 0) modeTriad).wr (STD_Sk_STAT_STATE 0) stRunning).wr (laneFld 0 0) 0).wr (laneFld 0 1) 1).wr
    (laneFld 0 2) 2).setStand 0 { standInit with formed := true }

theorem confirmingRuns_mayReset : confirmingRuns.hartRuns 0 = true ∧ confirmingRuns.deviceOpen 0 0x10000000 = true ∧
    confirmingRuns.permits 0 0 = true := by
  decide +kernel

theorem commSlots_softwareReset : shown commSlots (exec (.softwareReset 0 0) confirmingRuns) = 1 := by
  decide +kernel

/-- Refutes O8: the clause of a software reset says that the contents of the key stay, but the reset tears a confirmation
record whose page program is in progress (R83). -/
theorem not_moduleResets : ¬ Obligations.ModuleResets := by
  intro h
  obtain ⟨hsoftware, -⟩ := h confirmingRuns 0 0 [] 0
  obtain ⟨hruns, hopen, hpermits⟩ := confirmingRuns_mayReset
  obtain ⟨u, ⟨-, -, -, -, -, -, -, -, -, -, hkey, -⟩, hslots⟩ :=
    (hsoftware hruns hopen hpermits).exists_shown commSlots_softwareReset
  rw [commSlots, hkey] at hslots
  exact absurd hslots (by decide)

/-! ### The exit from Hibernate -/

/-- A module off with feed 0 good since the origin of time, of which the last power-on was an exit from Hibernate. -/
def wokenOnce : State :=
  { State.reset with pw := { powerInit with feedA := ⟨true, false, false⟩ } }.wr PWR_STAT_HIBEXIT 1

theorem hibexit_powerOn : shown (·.rd PWR_STAT_HIBEXIT) (exec (.powerOn 0 20000000) wokenOnce) = 0 := by
  decide +kernel

/-- Refutes O7: the frame of a power-on leaves out PWR_STAT.HIBEXIT, which the start clears. -/
theorem not_powerOnAndLock : ¬ Obligations.PowerOnAndLock := by
  intro h
  obtain ⟨hon, -⟩ := h wokenOnce 0 20000000 0
  obtain ⟨u, ⟨-, -, -, -, -, -, -, -, -, -, -, -, -, -, -, -, -, -, htouches⟩, hzero⟩ :=
    (hon rfl (by decide) rfl (by decide +kernel)).exists_shown hibexit_powerOn
  have hframe : u.rd PWR_STAT_HIBEXIT = wokenOnce.rd PWR_STAT_HIBEXIT :=
    htouches.regs PWR_STAT_HIBEXIT (by decide +kernel) (by decide)
  rw [hframe] at hzero
  exact absurd hzero (by decide)

end Sys2Proof.Machine

/-! ## Battery feeds (R49, R51, R55, R59, R60) -/

namespace Sys2Proof.Machine

/-! ### The judgements of a feed -/

section
variable (s : State) (n : Fin 2)

@[simp] theorem State.setFeed_regs (f : Feed) (i : Nat) : (s.setFeed i f).regs = s.regs := by
  unfold State.setFeed
  split <;> rfl

@[simp] theorem State.setFeed_rcd (f : Feed) (i : Nat) : (s.setFeed i f).rcd = s.rcd := by
  unfold State.setFeed
  split <;> rfl

@[simp] theorem State.setFeed_pmg (f : Feed) (i : Nat) : (s.setFeed i f).pmg = s.pmg := by
  unfold State.setFeed
  split <;> rfl

@[simp] theorem State.setFeed_now (f : Feed) (i : Nat) : (s.setFeed i f).now = s.now := by
  unfold State.setFeed
  split <;> rfl

@[simp] theorem State.setFeed_rd (f : Feed) (i : Nat) (g : Fld) : (s.setFeed i f).rd g = s.rd g := by
  rw [State.rd, State.setFeed_regs, State.rd]

/-- A feed is judged on the always-on island alone. -/
theorem State.feed_congr {s u : State} (hA : u.pw.feedA = s.pw.feedA) (hB : u.pw.feedB = s.pw.feedB) (i : Nat) :
    u.feed i = s.feed i := by
  rw [State.feed, State.feed, hA, hB]

@[simp] theorem State.feed_setFeed_same (f : Feed) (i : Nat) : (s.setFeed i f).feed i = f := by
  unfold State.feed State.setFeed
  split <;> rfl

@[simp] theorem State.feed_setFeed_other (f : Feed) : (s.setFeed n f).feed (1 - n) = s.feed (1 - n) := by
  fin_cases n <;> rfl

@[simp] theorem State.setFeed_phase (f : Feed) (i : Nat) : (s.setFeed i f).pw.phase = s.pw.phase := by
  unfold State.setFeed
  split <;> rfl

@[simp] theorem State.setFeed_failing (f : Feed) (i : Nat) : (s.setFeed i f).pw.failing = s.pw.failing := by
  unfold State.setFeed
  split <;> rfl

/-- No feed is left where neither this one nor the other is good. -/
theorem State.noFeed_eq : (!s.pw.feedA.good && !s.pw.feedB.good) = (!(s.feed n).good && !(s.feed (1 - n)).good) := by
  fin_cases n
  · rfl
  · exact Bool.and_comm _ _

theorem Touches.setFeed {fs : List Fld} {A : List Area} {P : List Part} {s u : State} (h : Touches fs A P s u)
    (hP : .pw ∈ P) (i : Nat) (f : Feed) : Touches fs A P s (u.setFeed i f) :=
  h.kept (State.setFeed_kept (Kept.refl A P u) (List.forall_mem_singleton.mpr hP))

theorem does_setFeed {c : Instr} {f : Feed} {t : Nat} (hexec : exec c s = .next ((s.begin t).setFeed n f)) :
    Does c s fun u => u.feed n = f ∧ u.feed (1 - n) = s.feed (1 - n) ∧ Touches [] [] [.now, .resp, .out, .pw] s u :=
  ⟨_, hexec, State.feed_setFeed_same _ f n, State.feed_setFeed_other _ n f,
    (Touches.begin s t (by decide)).setFeed (by decide) n f⟩

theorem does_feedLowSet (t : Nat) (hgood : (s.feed n).good = true) : Does (.feedLowSet n t) s fun u =>
    u.feed n = { s.feed n with low := true } ∧ u.feed (1 - n) = s.feed (1 - n) ∧
      Touches [] [] [.now, .resp, .out, .pw] s u :=
  does_setFeed s n (congrArg Host.Outcome.next (if_pos (c := ((s.begin t).feed n).good = true) hgood))

theorem does_reverseCurrentEvent (t : Nat) : Does (.reverseCurrentEvent n t) s fun u =>
    u.rd (PWR_FEEDn_STAT_REV n) = 1 ∧
    u.rd (PWR_FEEDn_REVCNT_CNT n) = min (s.rd (PWR_FEEDn_REVCNT_CNT n) + 1) 0xFFFF ∧ Raised [236] s u ∧
    Touches [PWR_FEEDn_STAT_REV n, PWR_FEEDn_REVCNT_CNT n] [.pend] [.now, .resp, .out] s u := by
  refine ⟨_, rfl, ?rev, ?count, Raises.raised ?raised, ?frame⟩
  case rev =>
    simp (disch := first | (simp only [Fld.key, Area.code, PWR_FEEDn_STAT_REV, PWR_FEEDn_REVCNT_CNT] <;> omega) | fail)
      only [State.rd_raise_code, State.rd_wr_ne, State.rd_wr_same, State.bump_eq]
    rfl
  case count =>
    simp (disch := first | (simp only [Fld.key, Area.code, PWR_FEEDn_STAT_REV, PWR_FEEDn_REVCNT_CNT] <;> omega) | fail)
      only [State.rd_raise_code, State.rd_wr_ne, State.rd_bump_same]
    rfl
  case raised =>
    apply_rules [Raises.raiseCons, Raises.bump, Raises.wr, Raises.begin] <;>
      simp [PWR_FEEDn_STAT_REV, PWR_FEEDn_REVCNT_CNT, Area.code]
  case frame => apply_rules [Touches.raise, Touches.bump, Touches.wrOf, Touches.begin] <;> simp

/-! ### Loss and return -/

/-- The address of a feed's status register is no other block's. -/
theorem areaAt_feedStat : areaAt (0x10100104 + 0x20 * n) = .feed := by fin_cases n <;> decide

/-- A feed lost, before the module looks whether it was the last. -/
def State.feedGone (s : State) (n : Nat) : State :=
  let u := (s.wakeEdge 1).setFeed n { s.feed n with good := false, low := false }
  (((u.wr64 (PWR_FEEDn_LOST_LO n) (PWR_FEEDn_LOST_HI n) u.now).wr (PWR_FEEDn_STAT_LOSTEV n) 1).raise 236).feedRecord n 236

/-- A feed that has returned, before a power-fail that it ends. -/
def State.feedBack (s : State) (n : Nat) : State :=
  let u := (s.wakeEdge 1).setFeed n { s.feed n with good := true }
  (u.wr64 (PWR_FEEDn_GOOD_LO n) (PWR_FEEDn_GOOD_HI n) u.now).feedRecord n 0xFF

theorem State.feedLost_eq (hgood : (s.feed n).good = true) : s.feedLost n =
    if (!(s.feedGone n).pw.feedA.good && !(s.feedGone n).pw.feedB.good) = true then (s.feedGone n).powerFail
    else s.feedGone n := by
  rw [State.feedLost, if_pos hgood]
  rfl

theorem State.feedGood_eq (hgood : (s.feed n).good = false) (hrun : s.pw.phase = .running) : s.feedGood n =
    if ((s.feedBack n).pw.failing && (s.feedBack n).pw.phase != .flush) = true then
      { s.feedBack n with pw := { (s.feedBack n).pw with failing := false } }.wr PWR_HOLDUP_STAT_PHASE 0
    else s.feedBack n := by
  rw [State.feedGood, if_neg (by simp [hgood])]
  simp only [hrun, show (RunPhase.running == RunPhase.off) = false from rfl, Bool.false_and]
  rfl

@[simp] theorem State.feed_feedRecord (i k j : Nat) : (s.feedRecord i k).feed j = s.feed j :=
  State.feed_congr (by simp [State.feedRecord]) (by simp [State.feedRecord]) j

@[simp] theorem State.feed_wr (f : Fld) (v i : Nat) : (s.wr f v).feed i = s.feed i := rfl

@[simp] theorem State.feed_raise (m i : Nat) : (s.raise m).feed i = s.feed i :=
  State.feed_congr (by simp) (by simp) i

theorem State.feed_feedGone : (s.feedGone n).feed n = { s.feed n with good := false, low := false } := by
  simp [State.feedGone, State.wr64_eq]

theorem State.feed_feedGone_other : (s.feedGone n).feed (1 - n) = s.feed (1 - n) := by
  simp only [State.feedGone, State.wr64_eq, State.feed_feedRecord, State.feed_raise, State.feed_wr,
    State.feed_setFeed_other]
  rfl

theorem State.feed_feedBack : (s.feedBack n).feed n = { s.feed n with good := true } := by
  simp [State.feedBack, State.wr64_eq]

theorem State.feed_feedBack_other : (s.feedBack n).feed (1 - n) = s.feed (1 - n) := by
  simp only [State.feedBack, State.wr64_eq, State.feed_feedRecord, State.feed_wr, State.feed_setFeed_other]
  rfl

/-- The fields and the frame of a feed's loss. -/
abbrev feedGoneFlds (n : Nat) : List Fld := [PWR_FEEDn_LOST_LO n, PWR_FEEDn_LOST_HI n, PWR_FEEDn_STAT_LOSTEV n]

theorem Touches.feedGone (t : Nat) :
    Touches (feedGoneFlds n) [.pend, .ingress] [.now, .resp, .out, .pw, .rcd, .pmg] s ((s.begin t).feedGone n) := by
  unfold State.feedGone State.feedRecord
  apply_rules [Touches.record, Touches.raise, Touches.wrOf, Touches.wr64, Touches.setFeed, Touches.wakeEdge,
    Touches.begin] <;>
    simp

theorem Touches.feedBack (t : Nat) :
    Touches [PWR_FEEDn_GOOD_LO n, PWR_FEEDn_GOOD_HI n] [.pend, .ingress] [.now, .resp, .out, .pw, .rcd, .pmg] s ((s.begin t).feedBack n) := by
  unfold State.feedBack State.feedRecord
  apply_rules [Touches.record, Touches.wr64, Touches.setFeed, Touches.wakeEdge, Touches.begin] <;>
    simp

theorem State.rd64_feedGone (t : Nat) :
    ((s.begin t).feedGone n).rd64 (PWR_FEEDn_LOST_LO n) (PWR_FEEDn_LOST_HI n) = t % 2 ^ 64 := by
  have hne : (PWR_FEEDn_LOST_LO n).key ≠ (PWR_FEEDn_LOST_HI n).key := by
    simp only [Fld.key, PWR_FEEDn_LOST_LO, PWR_FEEDn_LOST_HI]; omega
  rw [← State.rd64_wr64 s hne rfl rfl t]
  simp (disch := first | (simp only [Fld.key, Area.code, PWR_FEEDn_LOST_LO, PWR_FEEDn_LOST_HI, PWR_FEEDn_STAT_LOSTEV] <;> omega) | fail) only [State.feedGone, State.feedRecord, State.rd64, State.wr64_eq, State.rd_record_code,
    State.rd_raise_code, State.rd_wr_ne, State.rd_wr_same, State.setFeed_now, State.wakeEdge_now, State.begin_now]

theorem State.rd64_feedBack (t : Nat) :
    ((s.begin t).feedBack n).rd64 (PWR_FEEDn_GOOD_LO n) (PWR_FEEDn_GOOD_HI n) = t % 2 ^ 64 := by
  have hne : (PWR_FEEDn_GOOD_LO n).key ≠ (PWR_FEEDn_GOOD_HI n).key := by
    simp only [Fld.key, PWR_FEEDn_GOOD_LO, PWR_FEEDn_GOOD_HI]; omega
  rw [← State.rd64_wr64 s hne rfl rfl t]
  simp (disch := first | (simp only [Fld.key, Area.code, PWR_FEEDn_GOOD_LO, PWR_FEEDn_GOOD_HI] <;> omega) | fail) only
    [State.feedBack, State.feedRecord, State.rd64, State.wr64_eq, State.rd_record_code, State.rd_wr_ne,
      State.rd_wr_same, State.setFeed_now, State.wakeEdge_now, State.begin_now]

theorem State.rd_lostev_feedGone (t : Nat) : ((s.begin t).feedGone n).rd (PWR_FEEDn_STAT_LOSTEV n) = 1 := by
  simp (disch := first | (simp only [Area.code, PWR_FEEDn_STAT_LOSTEV] <;> omega) | fail) only
    [State.feedGone, State.feedRecord, State.rd_record_code, State.rd_raise_code, State.rd_wr_same]
  rfl

/-- A feed record shows the feed's status register as it reads afterwards. -/
theorem Reported.feedRecord {ns : List Nat} {u : State} (h : Reported ns [] s u) (hr : Recording s 1) (k : Nat) :
    Reported ns [(u.feedRecord n k).hwRecord 5 1 k n (some (0x10100104 + 0x20 * n)) none] s (u.feedRecord n k) := by
  refine h.recordSelf hr (fun a ha => ?_) (fun a ha => absurd ha (by simp)) 5 1 k n
  obtain rfl := Option.mem_some.mp ha
  rw [areaAt_feedStat]
  decide

theorem Reported.feedGone (t : Nat) (hr : Recording s 1) :
    Reported [236] [((s.begin t).feedGone n).hwRecord 5 1 236 n (some (0x10100104 + 0x20 * n)) none] s
      ((s.begin t).feedGone n) := by
  refine Reported.feedRecord s n (Reported.raise (Reported.wr (Reported.wr64 (Reported.of_parts (Reported.begin s t)
    ?_ ?_ ?_) ?_ ?_ ?_ ?_ ?_ ?_ _) ?_ ?_ ?_ _) ?_) hr 236 <;>
    simp [PWR_FEEDn_LOST_LO, PWR_FEEDn_LOST_HI, PWR_FEEDn_STAT_LOSTEV, Area.code]

theorem Reported.feedBack (t : Nat) (hr : Recording s 1) :
    Reported [] [((s.begin t).feedBack n).hwRecord 5 1 0xFF n (some (0x10100104 + 0x20 * n)) none] s
      ((s.begin t).feedBack n) := by
  refine Reported.feedRecord s n (Reported.wr64 (Reported.of_parts (Reported.begin s t) ?_ ?_ ?_) ?_ ?_ ?_ ?_ ?_ ?_ _)
    hr 0xFF <;>
    simp [PWR_FEEDn_GOOD_LO, PWR_FEEDn_GOOD_HI, Area.code]

/-- PWR_HOLDUP_STAT is not the status register of a feed. -/
theorem hwRecord_wr_phase {u : State} (hregs : u.regs = s.regs) (hnow : u.now = s.now) (v cls src kind obj : Nat) :
    (u.wr PWR_HOLDUP_STAT_PHASE v).hwRecord cls src kind obj (some (0x10100104 + 0x20 * n)) none =
      s.hwRecord cls src kind obj (some (0x10100104 + 0x20 * n)) none := by
  have hrd (f : Fld) : u.rd f = s.rd f := by rw [State.rd, hregs, State.rd]
  refine State.hwRecord_congr (u := u.wr PWR_HOLDUP_STAT_PHASE v) (fun a ha => ?_) (fun a ha => by cases ha) hnow
    ((State.rd_wr_ne u (by decide) v).trans (hrd _)) ..
  obtain rfl := Option.mem_some.mp ha
  exact (State.word_wr_ne u (by decide) (by simp only [PWR_HOLDUP_STAT_PHASE]; omega) v).trans
    (State.word_congr fun f _ _ _ => hrd f)

@[simp] theorem State.feed_begin (t i : Nat) : (s.begin t).feed i = s.feed i := rfl

/-! ### The commands -/

theorem does_feedLost (t : Nat) (hgood : (s.feed n).good = true) (hother : (s.feed (1 - n)).good = true) :
    Does (.feedLost n t) s fun u => u = (s.begin t).feedGone n := by
  refine ⟨_, rfl, ?_⟩
  rw [State.feedLost_eq (s.begin t) n hgood, State.noFeed_eq _ n, State.feed_feedGone_other]
  exact if_neg (by simpa using fun _ => hother)

theorem does_feedLost_last (t : Nat) (hgood : (s.feed n).good = true) (hother : (s.feed (1 - n)).good = false)
    (hrun : s.pw.phase = .running) : Does (.feedLost n t) s fun u =>
      ∃ w, w = (s.begin t).feedGone n ∧ u = { w with pw := { w.pw with failing := true, t0 := t } }.wr PWR_HOLDUP_STAT_PHASE 1 := by
  refine ⟨_, rfl, _, rfl, ?_⟩
  have hphase : ((s.begin t).feedGone n).pw.phase = .running := by
    simp [State.feedGone, State.feedRecord, State.wr64_eq, hrun]
  have hnow : ((s.begin t).feedGone n).now = t := by simp [State.feedGone, State.feedRecord, State.wr64_eq]
  rw [State.feedLost_eq (s.begin t) n hgood, State.noFeed_eq _ n, State.feed_feedGone_other, State.feed_feedGone, if_pos]
  · simp only [State.powerFail, hphase, hnow]
  · simpa using hother

theorem does_feedGood (t : Nat) (hgood : (s.feed n).good = false) (hrun : s.pw.phase = .running) :
    Does (.feedGood n t) s fun u =>
      ∃ w, w = (s.begin t).feedBack n ∧ u = if s.pw.failing = true then { w with pw := { w.pw with failing := false } }.wr PWR_HOLDUP_STAT_PHASE 0 else w := by
  refine ⟨_, rfl, _, rfl, ?_⟩
  have hphase : ((s.begin t).feedBack n).pw.phase = .running := by
    simp [State.feedBack, State.feedRecord, State.wr64_eq, hrun]
  have hfailing : ((s.begin t).feedBack n).pw.failing = s.pw.failing := by
    simp [State.feedBack, State.feedRecord, State.wr64_eq]
  rw [State.feedGood_eq (s.begin t) n hgood hrun, hphase, hfailing, show (RunPhase.running != RunPhase.flush) = true from rfl,
    Bool.and_true]

end

/-- Settles O5: each judgement is stored, and a loss and a return are followed by what the other feed makes of them. -/
theorem feedJudgementsAndLosses : Obligations.FeedJudgementsAndLosses := by
  refine ⟨fun s n t => ⟨does_feedLowSet s n t, does_setFeed s n rfl, does_setFeed s n rfl, does_setFeed s n rfl,
    does_reverseCurrentEvent s n t⟩, fun s n t => ⟨fun hgood hother => ?lost, fun hgood hother hrun => ?last,
    fun hgood hrun => ?back⟩⟩
  case lost =>
    refine (does_feedLost s n t hgood hother).imp fun u hu => ?_
    subst hu
    exact ⟨State.feed_feedGone _ n, State.feed_feedGone_other _ n, State.rd64_feedGone s n t,
      State.rd_lostev_feedGone s n t, reports_of_reported (Reported.feedGone s n t),
      by simp [State.feedGone, State.feedRecord, State.wr64_eq, State.wakeEdge], Touches.feedGone s n t⟩
  case last =>
    refine (does_feedLost_last s n t hgood hother hrun).imp ?_
    rintro u ⟨w, hw, rfl⟩
    refine ⟨?_, ?_, rfl, rfl, State.rd_wr_same .., ?_, reports_of_reported fun hr => ?_, ?_⟩
    · rw [hw]
      exact congrArg Feed.good (State.feed_feedGone (s.begin t) n)
    · rw [hw]
      exact (State.rd_wr_ne _ (by simp only [Fld.key, PWR_FEEDn_STAT_LOSTEV, PWR_HOLDUP_STAT_PHASE]; omega) _).trans
        (State.rd_lostev_feedGone s n t)
    · simp [hw, State.feedGone, State.feedRecord, State.wr64_eq, hrun]
    · rw [hwRecord_wr_phase _ n rfl rfl]
      have hrep := Reported.feedGone s n t hr
      rw [← hw] at hrep
      exact (hrep.setPw (by rfl)).wr (by decide) (by decide) (by decide) 1
    · have hframe := Touches.feedGone s n t
      rw [← hw] at hframe
      exact ((hframe.mono (by simp)).setPw (by decide) _).wrOf (by simp) 1
  case back =>
    have hphase (v : Nat) (w : State) : (w.wr PWR_HOLDUP_STAT_PHASE v).rd64 (PWR_FEEDn_GOOD_LO n) (PWR_FEEDn_GOOD_HI n) =
        w.rd64 (PWR_FEEDn_GOOD_LO n) (PWR_FEEDn_GOOD_HI n) := by
      rw [State.rd64, State.rd64, State.rd_wr_ne, State.rd_wr_ne] <;>
        simp only [Fld.key, PWR_FEEDn_GOOD_LO, PWR_FEEDn_GOOD_HI, PWR_HOLDUP_STAT_PHASE] <;> omega
    refine (does_feedGood s n t hgood hrun).imp ?_
    rintro u ⟨w, hw, hu⟩
    have hfeed : w.feed n = { s.feed n with good := true } := hw ▸ State.feed_feedBack (s.begin t) n
    have hother : w.feed (1 - n) = s.feed (1 - n) := hw ▸ State.feed_feedBack_other (s.begin t) n
    have hstamp : w.rd64 (PWR_FEEDn_GOOD_LO n) (PWR_FEEDn_GOOD_HI n) = t % 2 ^ 64 := hw ▸ State.rd64_feedBack s n t
    have hrep := Reported.feedBack s n t
    have hframe := Touches.feedBack s n t
    rw [← hw] at hrep hframe
    cases hfail : s.pw.failing with
    | true =>
      obtain rfl := hu.trans (if_pos hfail)
      refine ⟨hfeed, hother, (hphase 0 _).trans hstamp, rfl, State.rd_wr_same .., reports_of_reported fun hr => ?_, ?_⟩
      · rw [hwRecord_wr_phase _ n rfl rfl]
        exact ((hrep hr).setPw (by rfl)).wr (by decide) (by decide) (by decide) 0
      · exact ((hframe.mono (by simp)).setPw (by decide) _).wrOf (by simp) 0
    | false =>
      obtain rfl := hu.trans (if_neg (by simp [hfail]))
      refine ⟨hfeed, hother, hstamp, ?_, ?_, reports_of_reported hrep, hframe.mono (by simp)⟩
      · simp [hw, State.feedBack, State.feedRecord, State.wr64_eq, hfail]
      · refine hframe.regs _ ?_ (by decide)
        simp only [List.map, List.mem_cons, List.not_mem_nil, or_false, Fld.key, PWR_FEEDn_GOOD_LO, PWR_FEEDn_GOOD_HI,
          PWR_HOLDUP_STAT_PHASE]
        omega

end Sys2Proof.Machine

/-! ## Word instructions of the logic engines (R174, R179, R180) -/

namespace Sys2Proof.Machine

/-! ### Operands -/

section
variable {s : State} {e mod size opnd : Nat}

theorem WordOk.wordFaults (h : WordOk s e mod size opnd) {x : Nat} (hx : sizeBytes x = sizeBytes size) :
    ∀ f ∈ s.wordFaults e mod x opnd, f.1 = false := by
  by_cases hmod : mod = 2
  · simp [State.wordFaults, hmod]
  · rw [WordOk, if_neg hmod] at h
    obtain ⟨hrange, halign, hsound⟩ := h
    simp [State.wordFaults, hmod, hx, hrange, halign, hsound.leDataBad]

theorem WordOk.wordRows (h : WordOk s e mod size opnd) {x : Nat} (hx : sizeBytes x = sizeBytes size) :
    RowsSound s e (s.wordRows e mod x opnd) := by
  unfold State.wordRows
  split
  · simp
  · next hmod =>
    rw [WordOk, if_neg hmod] at h
    obtain ⟨-, -, hsound⟩ := h
    rwa [hx]

theorem WordOk.fresh0 (h : WordOk s e mod size opnd) : WordOk s.fresh0 e mod size opnd := h

/-- An immediate has size 0. -/
theorem WordOk.legalWord (h : WordOk s e mod size opnd) (hmod : mod < 4) (hsize : size < 4) (allow : Nat) :
    legalWord mod size allow = true := by
  have hzero : mod = 2 → size = 0 := fun hm => by rwa [WordOk, if_pos hm] at h
  have hdiv : size / 4 = 0 := Nat.div_eq_of_lt hsize
  rw [Sys2Proof.Machine.legalWord, hdiv]
  rcases eq_or_ne mod 2 with rfl | hm
  · simp [hzero rfl]
  · simp [hm, hmod]

/-- X[3] makes a compare unsigned, which the opcodes from 0x20 on allow. -/
theorem WordOk.legalCompare (h : WordOk s e mod size opnd) (hmod : mod < 4) (hsize : size < 4) (un : Bool) :
    Sys2Proof.Machine.legalWord mod (size + 8 * un.toNat) 2 = true := by
  have hzero : mod = 2 → size = 0 := fun hm => by rwa [WordOk, if_pos hm] at h
  interval_cases size <;> cases un <;> interval_cases mod <;> simp_all [Sys2Proof.Machine.legalWord]

end

/-! ### One instruction -/

section
variable {c : Instr} {s : State} {e op mod x size opnd : Nat} {sx : Bool}

/-- A word instruction on an operand that can be read changes the engine's registers as it says. -/
theorem does_leWordOp {f : Engine → Word → Engine} {y : Engine}
    (hexec : exec c s = .next (s.fresh0.leWordOp e op mod x opnd sx f)) (hgo : LeGoes s e)
    (hok : WordOk s e mod size opnd) (hx : sizeBytes x = sizeBytes size) (hl : leLegal op mod x opnd = true)
    (hy : { f (s.engine e) (s.wordVal e mod x opnd sx) with pc := (s.engine e).pc + 1 } = y) :
    Does c s (EngineTo e y s) :=
  does_leRun_next hexec hgo hl (hok.fresh0.wordFaults hx) (hok.fresh0.wordRows hx) (rowsSound_nil _ _) hy

/-- An instruction between registers. -/
theorem does_leRegOp {f : Engine → Engine} {y : Engine}
    (hexec : exec c s = .next (s.fresh0.leRegOp e op mod x opnd f)) (hgo : LeGoes s e)
    (hl : leLegal op mod x opnd = true) (hy : { f (s.engine e) with pc := (s.engine e).pc + 1 } = y) :
    Does c s (EngineTo e y s) :=
  does_leRun_next hexec hgo hl (List.forall_mem_nil _) (rowsSound_nil _ _) (rowsSound_nil _ _) hy

end

/-! ### Arithmetic -/

/-- The model's arithmetic, where the value is taken from the operation on words and the overflow from its bounds. -/
theorem arith_eq {r : Engine} {v : Int} {a : Word} {o : Bool} (ha : BitVec.ofInt 32 v = a)
    (ho : (decide (v < -2147483648) || decide (2147483647 < v)) = o) : arith r v = { r with wa := a, ov := r.ov || o } := by
  rw [arith, ha, ← ho, Bool.or_assoc]

theorem arith_add (r : Engine) (v : Word) :
    arith r (r.wa.toInt + v.toInt) = { r with wa := r.wa + v, ov := r.ov || r.wa.saddOverflow v } := by
  refine arith_eq (by rw [BitVec.ofInt_add, BitVec.ofInt_toInt, BitVec.ofInt_toInt]) ?_
  rw [BitVec.saddOverflow, Bool.or_comm]
  rfl

theorem arith_sub (r : Engine) (v : Word) :
    arith r (r.wa.toInt - v.toInt) = { r with wa := r.wa - v, ov := r.ov || r.wa.ssubOverflow v } := by
  refine arith_eq (by rw [← BitVec.toInt_inj, BitVec.toInt_ofInt, BitVec.toInt_sub]) ?_
  rw [BitVec.ssubOverflow, Bool.or_comm]
  rfl

theorem arith_mul (r : Engine) (v : Word) :
    arith r (r.wa.toInt * v.toInt) = { r with wa := r.wa * v, ov := r.ov || r.wa.smulOverflow v } := by
  refine arith_eq (by rw [BitVec.ofInt_mul, BitVec.ofInt_toInt, BitVec.ofInt_toInt]) ?_
  rw [BitVec.smulOverflow, Bool.or_comm]
  rfl

/-- Settles O23: each operand can be read, and each operation on integers is the one on words. -/
theorem leWordArithmetic : Obligations.LeWordArithmetic := by
  intro s e mod size opnd hgo hok r x v w after
  have hword : legalWord mod x 0 = true := hok.legalWord mod.isLt size.isLt 0
  have hop (op : Nat) (h : op ∈ [0x11, 0x13, 0x14, 0x15, 0x16, 0x17, 0x18, 0x19, 0x1A, 0x1B]) :
      leLegal op mod x opnd = true := by
    rw [← hword]
    fin_cases h <;> rfl
  refine ⟨does_leWordOp rfl hgo hok rfl (hop _ (by decide)) rfl, does_leWordOp rfl hgo hok rfl (hop _ (by decide)) ?add,
    does_leWordOp rfl hgo hok rfl (hop _ (by decide)) ?sub, does_leWordOp rfl hgo hok rfl (hop _ (by decide)) ?mul,
    does_leWordOp rfl hgo hok rfl (hop _ (by decide)) rfl, does_leWordOp rfl hgo hok rfl (hop _ (by decide)) rfl,
    does_leWordOp rfl hgo hok rfl (hop _ (by decide)) rfl, does_leWordOp rfl hgo hok rfl (hop _ (by decide)) ?shl,
    does_leWordOp rfl hgo hok rfl (hop _ (by decide)) rfl, does_leWordOp rfl hgo hok rfl (hop _ (by decide)) rfl⟩
  case add => rw [arith_add]
  case sub => rw [arith_sub]
  case mul => rw [arith_mul]
  case shl =>
    have hshl : (if 32 ≤ w.toNat then 0 else r.wa <<< w.toNat) = r.wa <<< w.toNat := by
      split
      · next h => rw [BitVec.shiftLeft_eq_zero h]; rfl
      · rfl
    exact congrArg (fun a => { r with wa := a, pc := r.pc + 1 }) hshl

/-! ### Compares -/

/-- An ordered compare is signed, or with X[3] unsigned. -/
theorem eight_le_size_add (size : Fin 4) (un : Bool) : (8 ≤ size.val + 8 * un.toNat) = (un = true) := by
  cases un <;> simp
  omega

theorem sizeBytes_add_eight (size : Fin 4) (un : Bool) : sizeBytes (size.val + 8 * un.toNat) = sizeBytes size := by
  have hmod : (size.val + 8 * un.toNat) % 4 = size.val % 4 := by omega
  rw [sizeBytes, hmod, sizeBytes]

/-- X[3] does not show in the operand's value. -/
theorem State.wordVal_add_eight (s : State) (e mod opnd : Nat) (size : Fin 4) (un sx : Bool) :
    s.wordVal e mod (size.val + 8 * un.toNat) opnd sx = s.wordVal e mod size opnd sx := by
  have hmod : (size.val + 8 * un.toNat) % 4 = size.val % 4 := by omega
  rw [State.wordVal, State.wordVal, sizeBytes_add_eight, hmod]

/-- The order in which an ordered compare is made. -/
def below (un : Bool) (a b : Word) : Bool := if un then a.ult b else a.slt b

theorem below_total (un : Bool) (a b : Word) :
    (!below un a b && !(a == b)) = below un b a ∧ (below un a b || (a == b)) = !below un b a := by
  have hult : (BitVec.ult a b = decide (a.toNat < b.toNat)) ∧ (BitVec.ult b a = decide (b.toNat < a.toNat)) := ⟨rfl, rfl⟩
  have hslt : (BitVec.slt a b = decide (a.toInt < b.toInt)) ∧ (BitVec.slt b a = decide (b.toInt < a.toInt)) := ⟨rfl, rfl⟩
  have hnat : (a == b) = decide (a.toNat = b.toNat) := by
    rw [Bool.beq_eq_decide_eq, decide_eq_decide, BitVec.toNat_inj]
  have hint : (a == b) = decide (a.toInt = b.toInt) := by
    rw [Bool.beq_eq_decide_eq, decide_eq_decide, BitVec.toInt_inj]
  cases un with
  | true =>
    simp only [below, if_true, hult, hnat]
    constructor <;> (rw [Bool.eq_iff_iff]; simp; omega)
  | false =>
    simp only [below, Bool.false_eq_true, if_false, hslt, hint]
    constructor <;> (rw [Bool.eq_iff_iff]; simp; omega)

section
variable {c : Instr} {s : State} {e mod size : Fin 4} {opnd : Fin 1048576} {un : Bool}

theorem does_leCompare {op : Nat} {f : Bool → Bool → Bool} {b : Bool}
    (hexec : exec c s = .next (s.fresh0.leCompare e op mod (size.val + 8 * un.toNat) opnd f))
    (hop : op ∈ [0x20, 0x21, 0x22, 0x23]) (hgo : LeGoes s e) (hok : WordOk s e mod size opnd)
    (hb : f (below un (s.engine e).wa (s.wordVal e mod size opnd true))
      ((s.engine e).wa == s.wordVal e mod size opnd true) = b) :
    Does c s (EngineTo e { s.engine e with ba := b, pc := (s.engine e).pc + 1 } s) := by
  have hl : leLegal op mod (size.val + 8 * un.toNat) opnd = true := by
    rw [← hok.legalCompare mod.isLt size.isLt un]
    fin_cases hop <;> rfl
  refine does_leWordOp hexec hgo hok (sizeBytes_add_eight size un) hl ?_
  rw [State.wordVal_add_eight, ← hb]
  simp only [eight_le_size_add, below]

end

/-- Settles O24: an ordered compare is one of two orders, and the four are made of `<` and `=`. -/
theorem leCompares : Obligations.LeCompares := by
  intro s e mod size un opnd hgo hok r x xu v lt after
  have hword : legalWord mod x 0 = true := hok.legalWord mod.isLt size.isLt 0
  obtain ⟨hgt, hle⟩ := below_total un r.wa v
  refine ⟨does_leWordOp rfl hgo hok rfl hword ?eq, does_leWordOp rfl hgo hok rfl hword ?ne,
    does_leCompare rfl (by decide) hgo hok hgt, does_leCompare rfl (by decide) hgo hok rfl,
    does_leCompare rfl (by decide) hgo hok rfl, does_leCompare rfl (by decide) hgo hok hle⟩
  case eq => rw [Bool.beq_eq_decide_eq]
  case ne => rw [bne, Bool.beq_eq_decide_eq, ← decide_not]

end Sys2Proof.Machine

/-! ## Register instructions, SIG and STW (R174, R179, R198) -/

namespace Sys2Proof.Machine

/-! ### The bytes of a store -/

theorem getElem_leBytes {n v i : Nat} (h : i < (leBytes n v).length) : (leBytes n v)[i] = byteOf (v / 256 ^ i) := by
  induction n generalizing v i with
  | zero => exact absurd h (Nat.not_lt_zero i)
  | succ n ih =>
    cases i with
    | zero => rw [Nat.pow_zero, Nat.div_one]; rfl
    | succ i =>
      rw [Nat.pow_succ', ← Nat.div_div_eq_div_mul]
      exact ih _

/-- Byte i of a word. -/
theorem byteOf_div (a : Word) (i : Nat) : byteOf (a.toNat / 256 ^ i) = (a >>> (8 * i)).setWidth 8 := by
  apply BitVec.eq_of_toNat_eq
  rw [byteOf, BitVec.toNat_ofNat, BitVec.toNat_setWidth, BitVec.toNat_ushiftRight, Nat.shiftRight_eq_div_pow, Nat.pow_mul]

/-- An instruction that meets no fault does what its row says. -/
theorem does_leRun {c : Instr} {s : State} {e : Nat} {legal : Bool} {fs : List (Bool × Nat)} {reads writes : List Nat}
    {go : State → State} {p : State → Prop}
    (hexec : exec c s = .next (s.fresh0.leRun e legal fs ⟨reads, writes⟩ go)) (hgo : LeGoes s e) (hl : legal = true)
    (hf : ∀ f ∈ fs, f.1 = false) (hr : RowsSound s.fresh0 e reads) (hw : RowsSound s.fresh0 e writes)
    (hp : p (go s.fresh0)) : Does c s p :=
  ⟨_, hexec, by rwa [State.leRun_of_no_fault hgo.fresh0 hl hf hr hw]⟩

section
variable {s : State} {e mod size : Fin 4} {opnd : Fin 1048576}

theorem does_leStw {x : Fin 16} (hx : x.val = size.val) (hgo : LeGoes s e) (hok : WordOk s e mod size opnd)
    (hmod : mod ≠ 2) :
    let r := s.engine e
    let a := byteAddr r mod opnd
    Does (.leStw e mod x opnd) s fun u =>
      EngineWrites e { r with pc := r.pc + 1 } a (sizeBytes size) s u ∧
      ∀ i, i < sizeBytes size → u.leByte (leDataBase e + a + i) = (r.wa >>> (8 * i)).setWidth 8 := by
  have hl : leLegal 0x12 mod x opnd = true := by
    have hne : mod.val ≠ 2 := fun h => hmod (Fin.ext h)
    change (mod.val != 2 && legalWord mod x 0) = true
    rw [hx, hok.legalWord mod.isLt size.isLt 0, bne_iff_ne.mpr hne, Bool.and_true]
  have hsize : sizeBytes x = sizeBytes size := congrArg sizeBytes hx
  refine does_leRun rfl hgo hl (hok.fresh0.wordFaults hsize) (rowsSound_nil _ _) (hok.fresh0.wordRows hsize) ?_
  dsimp only
  rw [hsize]
  refine ⟨((EngineWrites.fresh0 s e _ _).putLeData (Nat.le_refl _) (by rw [leBytes_length])).leNext id, fun i hi => ?_⟩
  refine (State.leByte_putLeData_add s.fresh0 (by rwa [leBytes_length])).trans ?_
  rw [getElem_leBytes, byteOf_div]
  rfl

/-- An engine that goes on leaves what has been raised. -/
theorem raises_leNext {u : State} {ns : List Nat} (hu : u.eng = s.eng) (hr : Raised ns s u)
    (ht : Touches [] [.pend] [.resp, .out, .eng] s u) :
    (u.leNext e id).engine e = { s.engine e with pc := (s.engine e).pc + 1 } ∧
    (∀ i, i ≠ e.val → (u.leNext e id).engine i = s.engine i) ∧ Raised ns s (u.leNext e id) ∧
    Touches [] [.pend] [.resp, .out, .eng] s (u.leNext e id) := by
  have hengine (i : Nat) : u.engine i = s.engine i := by rw [State.engine, hu, State.engine]
  refine ⟨?_, fun i hi => ?_, hr, ht.kept (State.setEngine_kept (Kept.refl _ _ u) (by decide))⟩
  · rw [State.leNext, State.engine_setEngine_same, hengine]; rfl
  · rw [State.leNext, State.engine_setEngine_ne _ hi, hengine]

/-- SIG raises the program event of its engine where BA is 1. -/
theorem does_leSig (hgo : LeGoes s e) :
    let r := s.engine e
    Does (.leSig e 0 0 0) s fun u =>
      u.engine e = { r with pc := r.pc + 1 } ∧ (∀ i, i ≠ e.val → u.engine i = s.engine i) ∧
      Raised (if r.ba then [24 + e.val] else []) s u ∧ Touches [] [.pend] [.resp, .out, .eng] s u := by
  have hfresh : Touches [] [.pend] [.resp, .out, .eng] s s.fresh0 := Touches.fresh0 s (by decide)
  refine does_leRun rfl hgo rfl (List.forall_mem_nil _) (rowsSound_nil _ _) (rowsSound_nil _ _) ?_
  rw [State.fresh0_engine]
  refine raises_leNext ?_ ?_ ?_ <;> cases (s.engine e).ba
  · rfl
  · exact State.raise_eng ..
  · exact (Raises.fresh0 s).raised
  · exact ((Raises.fresh0 s).raiseCons (m := 24 + e) (by omega)).raised
  · exact hfresh
  · exact hfresh.raise (by decide) _

end

/-- Settles O25: the bytes of a store are those of WA, and a register instruction has no operand that could fault. -/
theorem leRegistersAndStore : Obligations.LeRegistersAndStore := by
  refine ⟨fun s e opnd hgo => ⟨does_leRegOp rfl hgo rfl ?hi, does_leRegOp rfl hgo rfl rfl,
    does_leRegOp rfl hgo rfl ?btow, does_leRegOp rfl hgo rfl ?wtob, does_leSig hgo⟩,
    fun s e mod size opnd hgo hok hmod => does_leStw rfl hgo hok hmod⟩
  case hi =>
    have hshift : BitVec.ofNat 32 (opnd.val * 0x1000) = BitVec.ofNat 32 opnd.val <<< 12 := by
      apply BitVec.eq_of_toNat_eq
      simp [BitVec.toNat_shiftLeft, Nat.shiftLeft_eq]
    exact congrArg (fun a => { s.engine e with wa := a, pc := (s.engine e).pc + 1 }) hshift
  case btow => cases (s.engine e).ba <;> rfl
  case wtob =>
    have hne : ((s.engine e).wa != 0) = decide ((s.engine e).wa ≠ 0) := by
      rw [bne, Bool.beq_eq_decide_eq, ← decide_not]
    exact congrArg (fun b => { s.engine e with ba := b, pc := (s.engine e).pc + 1 }) hne

end Sys2Proof.Machine

/-! ## Jumps, calls and returns (R181 to R184) -/

namespace Sys2Proof.Machine

section
variable {c : Instr} {s : State} {e op mod x opnd : Nat}

/-- An instruction that meets no fault and sets its engine's registers. -/
theorem does_leRun_setEngine {legal : Bool} {fs : List (Bool × Nat)} {go : State → State} {y : Engine}
    (hexec : exec c s = .next (s.fresh0.leRun e legal fs ⟨[], []⟩ go)) (hgo : LeGoes s e) (hl : legal = true)
    (hf : ∀ f ∈ fs, f.1 = false) (hy : go s.fresh0 = s.fresh0.setEngine e y) : Does c s (EngineTo e y s) := by
  refine ⟨_, hexec, ?_⟩
  rw [State.leRun_of_no_fault hgo.fresh0 hl hf (rowsSound_nil _ _) (rowsSound_nil _ _), hy]
  exact (EngineTo.fresh0 s e).setEngine y

/-- A jump that is taken, to a target inside the body. -/
theorem does_leJump {takes : Bool → Bool} (hexec : exec c s = .next (s.fresh0.leJump e op mod x opnd takes))
    (hgo : LeGoes s e) (hl : leLegal op mod x opnd = true) (htakes : takes (s.engine e).ba = true)
    (hbody : s.leInBody e ((s.engine e).pc + 1 + opnd) = true) :
    Does c s (EngineTo e { s.engine e with pc := (s.engine e).pc + 1 + opnd } s) := by
  unfold State.leJump at hexec
  refine does_leRun_setEngine hexec hgo hl (List.forall_mem_singleton.mpr ?_) (if_pos htakes)
  exact Bool.and_eq_false_imp.mpr fun _ => congrArg (!·) hbody

/-- A jump that is not taken goes on. -/
theorem does_leJump_on {takes : Bool → Bool} (hexec : exec c s = .next (s.fresh0.leJump e op mod x opnd takes))
    (hgo : LeGoes s e) (hl : leLegal op mod x opnd = true) (htakes : takes (s.engine e).ba = false) :
    Does c s (EngineTo e { s.engine e with pc := (s.engine e).pc + 1 } s) := by
  unfold State.leJump at hexec
  refine does_leRun_setEngine hexec hgo hl (List.forall_mem_singleton.mpr ?_) (if_neg (ne_true_of_eq_false htakes))
  exact Bool.and_eq_false_imp.mpr fun h => absurd (htakes.symm.trans h) Bool.false_ne_true

/-- A jump that is taken out of the body is a structure fault. -/
theorem does_leJump_outside {takes : Bool → Bool} (hexec : exec c s = .next (s.fresh0.leJump e op mod x opnd takes))
    (hgo : LeGoes s e) (hl : leLegal op mod x opnd = true) (htakes : takes (s.engine e).ba = true)
    (hbody : s.leInBody e ((s.engine e).pc + 1 + opnd) = false) : Does c s (EngineFaults e flStructure s) := by
  unfold State.leJump at hexec
  refine does_engineFaults hexec hgo hl (by decide) (by decide) ?_ (List.forall_mem_singleton.mpr fun _ => rfl)
  rw [State.fresh0_engine, htakes, Bool.true_and, List.mem_singleton, eq_comm, Prod.mk.injEq]
  exact ⟨congrArg (!·) hbody, rfl⟩

/-- A return in the main program is a structure fault. -/
theorem does_leReturn_main {takes : Bool → Bool} (hexec : exec c s = .next (s.fresh0.leReturn e op mod x opnd takes))
    (hgo : LeGoes s e) (hl : leLegal op mod x opnd = true) (hempty : (s.engine e).cstack = []) :
    Does c s (EngineFaults e flStructure s) := by
  unfold State.leReturn at hexec
  refine does_engineFaults hexec hgo hl (by decide) (by decide) ?_ (by simp)
  rw [State.fresh0_engine, hempty]
  exact List.mem_cons_self

/-- A return that is taken pops the frame. -/
theorem does_leReturn {takes : Bool → Bool} {f : Frame} {rest : List Frame}
    (hexec : exec c s = .next (s.fresh0.leReturn e op mod x opnd takes)) (hgo : LeGoes s e)
    (hl : leLegal op mod x opnd = true) (htakes : takes (s.engine e).ba = true)
    (hstack : (s.engine e).cstack = f :: rest) (hdepth : (s.engine e).bstack.length = f.depth) :
    Does c s (EngineTo e { s.engine e with pc := f.pc, ip := f.ip, xr := f.xr, blk := f.blk, cstack := rest } s) := by
  unfold State.leReturn at hexec
  refine does_leRun_setEngine hexec hgo hl ?_ ((if_pos htakes).trans ?_)
  · simp [hstack, frameBase, hdepth]
  · rw [State.fresh0_engine, hstack]

/-- RETC that is not taken goes on in its block. -/
theorem does_leReturn_on {takes : Bool → Bool} {f : Frame} {rest : List Frame}
    (hexec : exec c s = .next (s.fresh0.leReturn e op mod x opnd takes)) (hgo : LeGoes s e)
    (hl : leLegal op mod x opnd = true) (htakes : takes (s.engine e).ba = false)
    (hstack : (s.engine e).cstack = f :: rest) :
    Does c s (EngineTo e { s.engine e with pc := (s.engine e).pc + 1 } s) := by
  unfold State.leReturn at hexec
  refine does_leRun_setEngine hexec hgo hl ?_ (if_neg (ne_true_of_eq_false htakes))
  simp [hstack, htakes]

end

section
variable {s : State} {e mod : Fin 4} {x : Fin 16} {opnd : Fin 1048576}

theorem does_leCallu (hgo : LeGoes s e) :
    let r := s.engine e
    let b := callBlock x opnd
    let p := ptrAddr r mod opnd
    mod ≠ 2 → b ≠ 255 → s.leLength e b ≠ 0 → p % 8 = 0 → p + s.blockSize e b ≤ leDataSize → p < leDataSize →
    r.cstack.length < 8 → Does (.leCallu e mod x opnd) s (EngineTo e { r with
      cstack := ⟨r.pc + 1, r.ip, r.xr, r.bstack.length, r.blk⟩ :: r.cstack, ip := p, pc := s.leStart e b, blk := b } s) := by
  intro r b p hmod hmain hlength halign hrange hin hroom
  refine does_leRun_setEngine rfl hgo (bne_iff_ne.mpr fun h => hmod (Fin.ext h)) ?_ rfl
  have hmissing : (callBlock x opnd == 255 || s.leLength e (callBlock x opnd) == 0) = false := by
    simpa using ⟨hmain, hlength⟩
  simp only [List.forall_mem_cons, List.not_mem_nil, false_implies, implies_true, and_true]
  refine ⟨hmissing, ?_, ?_, ?_⟩
  · simpa [hmissing] using halign
  · simpa [hmissing] using ⟨hrange, hin⟩
  · simpa using hroom

end

/-- Settles O26: a jump that is taken stays inside the body, a call has room and a block to go to, and a return finds the
branch stack as its call left it. -/
theorem leJumpsAndCalls : Obligations.LeJumpsAndCalls := by
  refine ⟨fun s e opnd hgo => ?jumps, fun s e mod x opnd f rest hgo => ?calls⟩
  case jumps =>
    refine ⟨fun hbody => ⟨does_leJump rfl hgo rfl rfl hbody, fun hba => does_leJump rfl hgo rfl hba hbody,
      fun hba => does_leJump rfl hgo rfl (congrArg (!·) hba) hbody⟩, fun hba => does_leJump_on rfl hgo rfl hba,
      fun hba => does_leJump_on rfl hgo rfl (congrArg (!·) hba), does_leJump_outside rfl hgo rfl rfl⟩
  case calls =>
    refine ⟨does_leCallu hgo, fun hstack hdepth => ⟨does_leReturn rfl hgo rfl rfl hstack hdepth,
      fun hba => does_leReturn rfl hgo rfl hba hstack hdepth⟩, fun hstack hba => does_leReturn_on rfl hgo rfl hba hstack,
      does_leReturn_main rfl hgo rfl⟩

end Sys2Proof.Machine

/-! ## Edge triggers and latches (R189) -/

namespace Sys2Proof.Machine

section
variable {s : State} {e mod opnd x : Nat}

/-- A block of Q and INPREV writes both and answers Q in BA. -/
theorem flagShows_leBlockOp {f : Bool → Bool → Bool → Bool → Bool × Bool} {q prev : Bool} (hgo : LeGoes s e)
    (hi : InstOk s e mod opnd 8) :
    let r := s.engine e
    let p := ptrAddr r mod opnd
    f r.ba r.si (bitAt (s.leNum e p 1) 0) (bitAt (s.leNum e p 1) 1) = (q, prev) →
    (s.fresh0.leBlockOp e x mod opnd 8 (flagBlock f)).leNum e p 8 = b2n q + 2 * b2n prev ∧
    EngineWrites e { r with ba := q, pc := r.pc + 1 } p 8 s (s.fresh0.leBlockOp e x mod opnd 8 (flagBlock f)) := by
  intro r p hq
  have hblock : flagBlock f r (s.leData e p 8) r.takeUs =
      ([(0, leBytes 8 (b2n q + 2 * b2n prev))], { r with ba := q }, none) := by
    simp only [flagBlock, State.leAt_leData s e (show 0 + 1 ≤ 8 by decide), Nat.add_zero, hq]
  have hwrites := EngineWrites.leBlockOp (x := x) hgo hi hblock (off := 0) (k := 8) (by simp)
  rw [earlier_none] at hwrites
  refine ⟨?_, hwrites⟩
  have hb := b2n_le_one q
  have hb' := b2n_le_one prev
  rw [State.leNum_leBlockOp hgo hi hblock, State.putInst, List.foldl_cons, List.foldl_nil]
  exact (State.leNum_putLeData_same ..).trans (Nat.mod_eq_of_lt (by omega))

end

/-- Settles O29: the four blocks differ in what they make of BA, SI, Q and INPREV alone. -/
theorem leTriggersAndLatches : Obligations.LeTriggersAndLatches := by
  intro s e mod opnd hgo hi r p q prev holds
  exact ⟨⟨_, rfl, flagShows_leBlockOp hgo hi rfl⟩,
    ⟨_, rfl, flagShows_leBlockOp hgo hi (congrArg (·, r.ba) (Bool.and_comm _ _))⟩,
    ⟨_, rfl, flagShows_leBlockOp hgo hi rfl⟩, ⟨_, rfl, flagShows_leBlockOp hgo hi rfl⟩⟩

end Sys2Proof.Machine

/-! ## A row whose errors make another codeword (R431, R434, R441) -/

namespace Sys2Proof.Machine

-- An evaluation waits for the kernel, which has all that stands before it to check: one at a time.
set_option Elab.async false

/-- The error pattern that changes bit 0 of the first data byte of a row and the check bytes to match: what is stored is
another codeword. -/
def otherCodeword : Nat := leNat ((rsCheck (1 :: List.replicate 31 0) (List.replicate 4 0)).map byteOf) + 2 ^ 64

/-- A decoder that sees a codeword finds nothing to correct. -/
theorem rsDecode_otherCodeword : rsDecode (patSyms otherCodeword) = some [] := by decide +kernel

/-- As `softMove`, where the errors in row 0 of the engine's data memory have made another codeword of it; bit 0 of the
row was written as 0. -/
def aliasLoad : State := softMove.setErr 5 0 otherCodeword

theorem aliasLoad_goes : LeGoes aliasLoad 0 := by
  unfold LeGoes FetchSound
  decide +kernel

theorem aliasLoad_row : bitAddr (aliasLoad.engine 0) 0 0 < 0x80000 ∧ aliasLoad.isTestRow 5 0 = false ∧
    aliasLoad.rowErr 5 0 ≠ 0 ∧ aliasLoad.rowBad 5 0 = false ∧ aliasLoad.bitVal 0 0 0 = false := by
  decide +kernel

/-- BA of engine 0. -/
def baOf (u : State) : Nat := b2n (u.engine 0).ba

/-- The load delivers the bit of the other codeword. -/
theorem ba_aliasLoad : shown baOf (exec (.leLd 0 0 0 0) aliasLoad) = 1 := by decide +kernel

/-- Refutes O31: the clause of a correctable row says that LD delivers the bit as it was written; but a row whose errors
make another codeword decodes CLEAN, and LD delivers that codeword's bit. -/
theorem not_leFaults : ¬ Obligations.LeFaults := by
  intro h
  obtain ⟨-, -, -, -, -, -, -, -, -, -, -, hload⟩ := h aliasLoad 0 0 0 0 aliasLoad_goes
  obtain ⟨haddr, htest, herr, hbad, hval⟩ := aliasLoad_row
  obtain ⟨u, ⟨hengine, -⟩, hba⟩ := (hload (by decide) haddr htest herr hbad).exists_shown ba_aliasLoad
  have hzero : (u.engine 0).ba = false := (congrArg Engine.ba hengine).trans hval
  rw [baOf, hzero] at hba
  exact absurd hba (by decide)

end Sys2Proof.Machine

/-! ## A function reset inside the gap of a swap (R227, R236) -/

namespace Sys2Proof.Machine

-- An evaluation waits for the kernel, which has all that stands before it to check: one at a time.
set_option Elab.async false

/-- A program without blocks. -/
def bareProg (progid : Nat) : Prog := ⟨progid, 0, false, [], [], [], none, 0, 0⟩

/-- Engine 0 has swapped program 1 in for program 2, and the gap of the swap lasts to 1 ns. -/
def inSwapGap : State :=
  State.reset.setEngine 0 { engineInit with prog := some (bareProg 1), swapped := some (1, bareProg 2) }

theorem inSwapGap_canon : inSwapGap.Canon := by constructor <;> decide +kernel

theorem inSwapGap_noSoft : NoSoft inSwapGap := by
  unfold NoSoft
  decide +kernel

theorem inSwapGap_lanes : inSwapGap.usableLanes 0 = [0, 1, 2, 3] := by decide +kernel

theorem inSwapGap_shadow : inSwapGap.rd (LE_Ee_STAT_SHADOW 0) = 0 := by decide +kernel

/-- PROGID of the program of engine 0. -/
def progidOf (u : State) : Nat := ((u.engine 0).prog.map (·.progid)).getD 0

/-- The reset abandons the swap: the program before it is active again. -/
theorem progidOf_functionReset : shown progidOf (exec (.engineFunctionReset 0 0) inSwapGap) = 2 := by decide +kernel

/-- Refutes O33: the clause of the function reset says that the engine restarts with its program, but in the gap of a
swap it restarts with the program before the swap (R236). -/
theorem not_leStarts : ¬ Obligations.LeStarts := by
  intro h
  obtain ⟨hstarts, -⟩ := h inSwapGap 0 (bareProg 1) 0 1 [2, 3] ⟨0, [], 0⟩ ⟨0, 0, 0, 0, 0, 0, 0, 0, []⟩ 0 0
  obtain ⟨-, hreset, -⟩ := hstarts inSwapGap_canon inSwapGap_noSoft rfl (by decide +kernel) (by decide +kernel)
    inSwapGap_lanes (by decide)
  obtain ⟨u, ⟨⟨-, -, -, -, -, -, -, hprog, -⟩, -⟩, hid⟩ := hreset.exists_shown progidOf_functionReset
  have hone : progidOf u = 1 := congrArg (fun p => (p.map Prog.progid).getD 0) hprog
  exact absurd (hone.symm.trans hid) (by decide)

/-- Refutes O58: the clause of the function reset says that the engine restarts with its program, but in the gap of a
swap it restarts with the program before the swap (R236). -/
theorem not_engineCommandsComplete : ¬ Obligations.EngineCommandsComplete := by
  intro h
  obtain ⟨-, -, hreset, -⟩ := h inSwapGap 0 0 0 0 0 0 0 .pc (.pc 0) 0 (bareProg 1) 0 1 [2, 3] 0 0
  obtain ⟨u, ⟨-, -, hprog, -⟩, hid⟩ := (hreset rfl inSwapGap_shadow inSwapGap_lanes).exists_shown progidOf_functionReset
  have hone : progidOf u = 1 := congrArg (fun p => (p.map Prog.progid).getD 0) hprog
  exact absurd (hone.symm.trans hid) (by decide)

end Sys2Proof.Machine

/-! ## States that a clause leaves out: before READY, under test, with a command of the same clock, suspended, halted -/

namespace Sys2Proof.Machine

-- An evaluation waits for the kernel, which has all that stands before it to check: one at a time.
set_option Elab.async false

/-! ### A sync frame before READY (R58, R308) -/

/-- A running module that is not ready, with both links of plane A in use; master 0 is node 5. -/
def notReady : State :=
  let s : State := { State.reset with pw := { powerInit with phase := .running } }
  let s := (s.setPortLink 0 { portLinkInit with used := true }).setPortLink 1 { portLinkInit with used := true }
  (s.wr CNP_PORTSTAT_LINKUP 3).wr (CNP_MSTk_STAT_NODE 0) 5

/-- A sync frame of node 5 in slot 0. -/
def syncOf5 : List Byte := List.replicate 15 0 ++ [5] ++ List.replicate 40 0

theorem notReady_links : notReady.portUsed 0 = true ∧ notReady.portUsed 1 = true ∧ notReady.blocked 0 = false ∧
    notReady.blocked 1 = false := by
  decide +kernel

theorem notReady_master : frSender syncOf5 ≠ notReady.nodeId ∧ beAt 12 1 (frPayload syncOf5) = 0 ∧
    notReady.rd (CNP_MSTk_STAT_NODE 0) = frSender syncOf5 ∧ notReady.leadNode ≠ some (frSender syncOf5) := by
  decide +kernel

theorem emissions_syncFrame : shown (·.out.length) (exec (.syncFrame 0 syncOf5 true 0 0) notReady) = 0 := by decide +kernel

/-- Refutes O36: the clause of a sync frame says that it goes on out of the other port where the links carry it, but
nothing leaves before READY. -/
theorem not_canopyTime : ¬ Obligations.CanopyTime := by
  intro h
  obtain ⟨-, -, -, hframe, -⟩ := h notReady 0 syncOf5 0 0 0 0
  obtain ⟨hfore, haft, hblockedFore, hblockedAft⟩ := notReady_links
  obtain ⟨hsender, hslot, hnode, hlead⟩ := notReady_master
  obtain ⟨hkept, -⟩ := hframe hfore rfl
  obtain ⟨u, ⟨-, -, hforwarded, -⟩, hout⟩ :=
    (hkept hsender (by decide +kernel) (hslot ▸ by decide) (hslot.symm ▸ hnode) hlead).exists_shown emissions_syncFrame
  have hmem := hforwarded.mpr ⟨haft, hblockedFore, hblockedAft⟩
  rw [List.eq_nil_of_length_eq_zero hout] at hmem
  exact absurd hmem (List.not_mem_nil)

/-! ### The end of a plane reset during a test of its switch (R461) -/

/-- A command run tests the switch of plane A. -/
def planeUnderTest : State :=
  { State.reset with cop := { coppiceInit with run := some { bistNew .command 0 1 with todo := [1] } } }

theorem planeReset_resetDone : shown (·.cnp.planeReset) (exec (.planeResetDone 0 0) planeUnderTest) = 1 := by
  decide +kernel

/-- Refutes O38: the clause of the end of a plane reset says that the plane leaves its reset unless its switch failed its
test, but a plane whose switch is under test stays in reset. -/
theorem not_canopyEvents : ¬ Obligations.CanopyEvents := by
  intro h
  obtain ⟨-, -, -, -, -, -, -, -, -, -, -, hdone⟩ := h planeUnderTest 0 0 0 [] ⟨false, none, [], [], false⟩ [] 0
    ⟨0, 0, 0, 0, 0, 0, 0, false⟩ 0
  obtain ⟨u, ⟨hplane, -⟩, hreset⟩ := hdone.exists_shown planeReset_resetDone
  rw [hreset] at hplane
  exact absurd hplane (by decide)

/-! ### A lock of the contexts beside a write of their configuration (R395) -/

/-- A write of the debug transport that enables context 0 waits, of the clock at 0 ns; no context is enabled. -/
def lockRaced : State :=
  { State.reset with
    pw := { powerInit with phase := .running }
    dbg := .engine 0
    pending := [.registerWrite .debugger 0x10B01000 2 1 0 0] }

theorem lockRaced_passes : (List.range 128).all (fun i => lockRaced.ctxLockOk i) = true := by decide +kernel

theorem lock_contextLock : shown (·.rd CVU_CTXLOCK_LOCK) (exec (.contextLock 0) lockRaced) = 0 := by decide +kernel

/-- Refutes O39: the clause of the lock judges the contexts as they stand, but a write of their configuration in the same
clock lands before the lock check. -/
theorem not_checkValues : ¬ Obligations.CheckValues := by
  intro h
  obtain ⟨hlock, -⟩ := h lockRaced 0 0 (0, 0, false) 0 0 0
  obtain ⟨hpasses, -⟩ := hlock (by decide +kernel)
  obtain ⟨u, ⟨hone, -⟩, hzero⟩ := (hpasses lockRaced_passes rfl).exists_shown lock_contextLock
  exact absurd (hone.symm.trans hzero) (by decide)

/-! ### Stand 0 fails while Lookout is suspended (R145) -/

/-- Stand 0 runs as a triad, with Lookout suspended. -/
def suspended : State :=
  let s : State := { State.reset with pw := { powerInit with phase := .running } }
  ((s.wr (STD_Sk_STAT_MODE 0) modeTriad).wr (STD_Sk_STAT_STATE 0) stRunning).wr STD_LKO_STAT_SUSP 1

theorem suspended_runs : suspended.standClocked 0 = true ∧ suspended.standState 0 = stRunning ∧
    suspended.mode 0 = modeTriad ∧ ∀ i, i < 4 → i ≠ 0 → suspended.standState i ≠ stFailed := by
  decide +kernel

theorem susp_voterXyDisagree : shown (·.rd STD_LKO_STAT_SUSP) (exec (.voterXyDisagree 0 0) suspended) = 0 := by
  decide +kernel

/-- Refutes O40: the frame of a stand that fails silent leaves out Lookout, which starts a new window where it was
suspended. -/
theorem not_standFailures : ¬ Obligations.StandFailures := by
  intro h
  obtain ⟨hclocked, hrunning, hmode, halone⟩ := suspended_runs
  obtain ⟨hfails, -⟩ := h suspended 0 0 0 0 0 0 0 0 0 0 0 0 0
  obtain ⟨-, -, hvoters, -⟩ := hfails hclocked hrunning
  obtain ⟨u, ⟨-, -, -, -, -, -, -, -, -, htouches⟩, hsusp⟩ :=
    (hvoters (.inr hmode) halone).exists_shown susp_voterXyDisagree
  have hkept : u.rd STD_LKO_STAT_SUSP = suspended.rd STD_LKO_STAT_SUSP :=
    htouches.regs STD_LKO_STAT_SUSP (by decide +kernel) (by decide)
  rw [hsusp] at hkept
  exact absurd hkept (by decide +kernel)

/-! ### A hand-over that ends with a halt asked for (R141) -/

/-- The hand-over of S1 from PAIR to PAIR, on the cores 4 and 5, in its gap; the debugger has asked for a halt. -/
def haltedGap : State :=
  let s : State := { State.reset with pw := { powerInit with phase := .running } }
  let s := ((s.wr (STD_Sk_STAT_STATE 1) stHandover).wr (laneFld 1 0) 4).wr (laneFld 1 1) 5
  s.setStand 1 { standInit with run := some ⟨⟨modePair, false, 0⟩, modePair, 0, false⟩, haltReq := true }

theorem haltedGap_up : haltedGap.standUp 1 = true ∧ haltedGap.doubleFailed = false ∧
    (haltedGap.laneSet 1 modePair ⟨modePair, false, 0⟩).mode = modePair := by
  decide +kernel

theorem standState_handoverResume : shown (·.standState 1) (exec (.handoverResume 1 .ok 0) haltedGap) = stHalted := by
  decide +kernel

/-- Refutes O41: the clause of a hand-over that resumes says that the stand runs, but where a halt has been asked for it
is HALTED at its first agreement point. -/
theorem not_standModes : ¬ Obligations.StandModes := by
  intro h
  obtain ⟨hup, hdouble, hmode⟩ := haltedGap_up
  obtain ⟨-, -, hresume, -⟩ := h haltedGap 0 1 0 ⟨modePair, false, 0⟩ ⟨⟨modePair, false, 0⟩, modePair, 0, false⟩ 0 0 0 0
  obtain ⟨hok, -⟩ := hresume hup hdouble rfl rfl
  obtain ⟨u, ⟨-, hrunning, -⟩, hhalted⟩ := (hok (by decide) rfl).exists_shown standState_handoverResume
  have hruns : u.standState 1 = stRunning := hrunning.trans (if_neg fun hoff => absurd (hmode.symm.trans hoff) (by decide))
  exact absurd (hhalted.symm.trans hruns) (by decide)

/-! ### A claim in the clock of its event (R17) -/

/-- Stand 0 runs as a triad on the cores 0 to 2; source 3 is routed to it and has been raised in this clock. -/
def raisedNow : State :=
  let s : State := { State.reset with pw := { powerInit with phase := .running } }
  let s := (s.wr (STD_Sk_STAT_MODE 0) modeTriad).wr (STD_Sk_STAT_STATE 0) stRunning
  let s := (((s.wr (laneFld 0 0) 0).wr (laneFld 0 1) 1).wr (laneFld 0 2) 2).setStand 0 { standInit with formed := true }
  ((s.wr (STD_EVTi_ROUTE_PRIO 3) 1).wr (STD_EVTi_ROUTE_STANDS 3) 1).raise 3

theorem raisedNow_offers : raisedNow.hartRuns 0 = true ∧ raisedNow.offered 0 false (raisedNow.pendVec 0) = some 3 := by
  decide +kernel

theorem pends_claimRead : shown (fun u => b2n (u.pends 3 0)) (exec (.claimRead 0 0 false 0) raisedNow) = 1 := by
  decide +kernel

/-- Refutes O42: the clause of a claim says that the pending bit clears, but an event of the same clock wins. -/
theorem not_debugAndEvents : ¬ Obligations.DebugAndEvents := by
  intro h
  obtain ⟨hruns, hoffered⟩ := raisedNow_offers
  obtain ⟨-, -, -, hevents⟩ := h raisedNow 0 0 0 0 false 0 0 [] 0
  obtain ⟨hclaim, -⟩ := hevents hruns
  obtain ⟨u, ⟨-, hpends, -⟩, hone⟩ := (hclaim 3 hoffered).exists_shown pends_claimRead
  have hzero : u.pends 3 0 = false := hpends 3 0 (by decide) (by decide)
  rw [hzero] at hone
  exact absurd hone (by decide)

end Sys2Proof.Machine

/-! ## A filtered input that changes and wakes the module (R508) -/

namespace Sys2Proof.Machine

-- An evaluation waits for the kernel, which has all that stands before it to check: one at a time.
set_option Elab.async false

/-- The group is in its function reset. -/
def groupInReset : Group := { groupInit with resetting := true }

/-- The scanner runs, with every group but group 0 in its function reset; the filter of channel 0 is at its lower end
with its output still high, and a change of the channel wakes the module. -/
def wakeChannel : State :=
  let s := (List.range 12).foldl (fun s g => if g = 0 then s else s.setGroup g groupInReset) State.reset
  let s := (s.setGroup 0 { groupInit with seed := false }).setChan 0 { chanInit with c := 0, y := true }
  (({ s with io := { s.io with active := true, pulse := none } } : State).wr (PWR_WAKECHj 0) 1).wr (IOG_CHn_FILT_T 0) 1

theorem wakeChannel_scans : wakeChannel.io.active = true ∧ wakeChannel.io.pulse = none ∧
    (wakeChannel.group 0).resetting = false ∧ (wakeChannel.group 0).seed = false ∧ (wakeChannel.chan 0).frozen ≤ 0 := by
  decide +kernel

/-- The edge of wake source 2 is kept with its instant. -/
theorem wakeEdge_scannerSample : shown (fun u => tblGet 0 2 u.pmg.edges) (exec (.scannerSample 0 0) wakeChannel) = 1 := by
  decide +kernel

/-- Refutes O20: the frame of a scanner sample leaves out what wakes the module, but the change of a filtered input that
PWR_WAKECHj names is kept there. -/
theorem not_scannerSamples : ¬ Obligations.ScannerSamples := by
  intro h
  obtain ⟨hsample, -⟩ := h wakeChannel 0 0 0 0
  obtain ⟨hactive, hpulse, hreset, hseed, hfrozen⟩ := wakeChannel_scans
  obtain ⟨u, ⟨-, -, -, -, -, -, -, -, htouches⟩, hedge⟩ :=
    (hsample hactive rfl hpulse hreset hseed hfrozen).exists_shown wakeEdge_scannerSample
  have hkept : u.pmg = wakeChannel.pmg := htouches.parts .pmg (by decide)
  rw [hkept] at hedge
  exact absurd hedge (by decide +kernel)

end Sys2Proof.Machine

/-! ## A RECORD that passes the transmit stream of a check-value unit (R391) -/

namespace Sys2Proof.Machine

-- An evaluation waits for the kernel, which has all that stands before it to check: one at a time.
set_option Elab.async false

/-- NEIGHBOUR of an inauguration, 30 ms old: the link of port 0 is measured, to a node whose RECORD is missing; check-value
unit 0 runs over the transmit stream. -/
def recordDue : State :=
  let s : State := { State.reset with pw := { powerInit with phase := .running } }
  let s : State := { s with pw := { s.pw with start := { s.pw.start with ready := true } } }
  let s := s.setPortLink 0 { portLinkInit with nbr := some ⟨5, 0, 0⟩, delay := some 10 }
  (((s.wr CNP_PORTSTAT_LINKUP 1).wr CNP_INA_STAT_STATE inaNeighbour).wr (CVU_Uu_CFG_EN 0) 1).wr (CVU_Uu_CFG_SRC 0) 2

theorem recordDue_chain : let own := (recordDue.begin 30000000).ownRecord
    chainOf (recordDue.fab.records ++ [own]) own = none := by
  decide +kernel

/-- The RECORD leaves at once, and the unit computes over it. -/
theorem busy_neighbourTimeout :
    shown (·.rd (CVU_Uu_STAT_BUSY 0)) (exec (.neighbourTimeout 30000000) recordDue) = 1 := by
  decide +kernel

/-- Refutes O44: the frame of the end of NEIGHBOUR leaves out the check-value units, but the RECORD passes the transmit
stream. -/
theorem not_trainFabric : ¬ Obligations.TrainFabric := by
  intro h
  obtain ⟨-, -, -, -, -, -, -, -, -, -, -, -, -, htimeout, -⟩ := h recordDue 0 0 [] ⟨[], [], false, none, [], [], 0⟩ 0 30000000
  obtain ⟨u, ⟨-, -, -, -, hregs⟩, hbusy⟩ :=
    (htimeout (by decide +kernel) rfl (by decide) rfl recordDue_chain).exists_shown busy_neighbourTimeout
  have hkept : u.rd (CVU_Uu_STAT_BUSY 0) = recordDue.rd (CVU_Uu_STAT_BUSY 0) := hregs _ (by decide)
  rw [hbusy] at hkept
  exact absurd hkept (by decide +kernel)

end Sys2Proof.Machine

/-! ## The cycle of a doorbell (R416) -/

namespace Sys2Proof.Machine

-- An evaluation waits for the kernel, which has all that stands before it to check: one at a time.
set_option Elab.async false

/-- A doorbell poll of window 0 waits for its answer. -/
def pollOut : RwOp := ⟨none, 0, 7, 2, 0, 0, 0, 0, none, 0, 0, 0, 0, false⟩

/-- The poll is outstanding at 0 ns. -/
def polling : State := { State.reset with rwy := { rootwayInit with ops := [pollOut] } }

/-- The answer that comes a basic cycle later. -/
theorem doorcyc_rwResp : shown (·.rd (RWY_Ww_DOORCYC 0)) (exec (.rwResp 0 [8] 250000) polling) = 1 := by decide +kernel

/-- Refutes O45: the clause of the answer to a poll says that DOORCYC is the cycle number of the instant before the
answer, but it is that of the answer. -/
theorem not_rootwayRequests : ¬ Obligations.RootwayRequests := by
  intro h
  obtain ⟨-, -, -, -, -, -, -, -, hpoll, -⟩ := h polling 0 0 0 0 0 0 [8] pollOut ⟨0, 0, 0, 0, 0, 0⟩ 0 0 250000
  obtain ⟨hanswered, -⟩ := hpoll (by decide +kernel) rfl
  obtain ⟨u, ⟨-, hcycle, -⟩, hone⟩ := (hanswered (by decide +kernel)).exists_shown doorcyc_rwResp
  exact absurd (hcycle.symm.trans hone) (by decide +kernel)

end Sys2Proof.Machine

/-! ## A CAN port in bus-off whose line reports none (R428) -/

namespace Sys2Proof.Machine

-- An evaluation waits for the kernel, which has all that stands before it to check: one at a time.
set_option Elab.async false

/-- CAN port 0 runs and is in bus-off. -/
def inBusoff : State :=
  let s : State := { State.reset with pw := { powerInit with phase := .running } }
  (s.wr (UST_Pp_CFG_EN 0) 1).wr (UST_Pp_STAT_BUSOFF 0) 1

theorem inBusoff_runs : inBusoff.portRuns 0 = true ∧ inBusoff.ustPowered = true ∧ (inBusoff.uport 0).resetting = false ∧
    inBusoff.rd (UST_Pp_CFG_EN 0) = 1 := by
  decide +kernel

theorem inBusoff_quiet : inBusoff.txUsed 0 = 0 ∧ inBusoff.tunnelsFor 0 = [] := by decide +kernel

/-- A report without bus-off leaves the port in bus-off, and so down. -/
theorem up_portStateChange :
    shown (·.rd (UST_Pp_STAT_UP 0)) (exec (.portStateChange 0 true false false false false 0 0 0 0) inBusoff) = 0 := by
  decide +kernel

/-- Refutes O47: the clause of a line's report says that a CAN port is up where the report says no bus-off, but a port in
bus-off leaves it by its recovery or a new start alone. -/
theorem not_understoryPorts : ¬ Obligations.UnderstoryPorts := by
  intro h
  obtain ⟨hruns, -⟩ := inBusoff_runs
  obtain ⟨-, -, -, -, -, -, -, -, -, -, -, -, -, -, hreport⟩ :=
    h inBusoff 0 0 0 false [] [] 0 0 (inBusoff.uport 0) true false false false false 0 0 0 0 0 0
  obtain ⟨u, ⟨hcan, -⟩, hzero⟩ := (hreport hruns inBusoff_quiet).exists_shown up_portStateChange
  exact absurd ((hcan (by decide)).1.symm.trans hzero) (by decide)

/-- Refutes O59: the clause of a line's report says that a CAN port is up where the report says no bus-off, but a port in
bus-off leaves it by its recovery or a new start alone. -/
theorem not_unitCommandsComplete : ¬ Obligations.UnitCommandsComplete := by
  intro h
  obtain ⟨-, hruns⟩ := inBusoff_runs
  obtain ⟨-, -, -, -, -, -, -, -, -, -, -, -, -, -, -, -, -, -, hreport⟩ :=
    h inBusoff 0 0 0 0 false [] [] [] 0 0 false false 0 0 0 0 0 0 ⟨0, 0⟩ 0
  obtain ⟨u, ⟨hup, -⟩, hzero⟩ := (hreport (by decide) hruns inBusoff_quiet).exists_shown up_portStateChange
  exact absurd (hup.symm.trans hzero) (by decide)

end Sys2Proof.Machine

/-! ## A power command of a stand 0 in SPLIT (R110, R504) -/

namespace Sys2Proof.Machine

-- An evaluation waits for the kernel, which has all that stands before it to check: one at a time.
set_option Elab.async false

/-- Stand 0 runs in SPLIT, without leave for the power registers. -/
def zeroSplit : State :=
  let s : State := { State.reset with pw := { powerInit with phase := .running } }
  (s.wr (STD_Sk_STAT_MODE 0) modeSplit).wr (STD_Sk_STAT_STATE 0) stRunning

/-- Whether a command was answered with a store access fault. -/
def storeFaulted (u : State) : Nat := b2n (u.resp == .storeFault)

theorem storeFaulted_pwrCancel : shown storeFaulted (exec (.pwrCancel 0 0) zeroSplit) = 1 := by decide +kernel

/-- Refutes O53: the clause of a CANCEL without an entry says that it is done, but lane A of stand 0 in SPLIT needs leave
for the block. -/
theorem not_powerStates : ¬ Obligations.PowerStates := by
  intro h
  obtain ⟨-, -, -, -, -, -, -, hcancel, -⟩ := h zeroSplit 0 0 ⟨false, 0, false, false, false, false⟩ 0 0
  obtain ⟨u, ⟨hdone, -⟩, hfault⟩ := (hcancel ⟨rfl, by decide +kernel⟩ (.inl rfl)).exists_shown storeFaulted_pwrCancel
  rw [storeFaulted, hdone] at hfault
  exact absurd hfault (by decide)

end Sys2Proof.Machine

/-! ## A tunnel frame that waits at a port of Canopy as flush mode begins (R337, R421) -/

namespace Sys2Proof.Machine

-- An evaluation waits for the kernel, which has all that stands before it to check: one at a time.
set_option Elab.async false

/-! ### Flush entry, cut at the change of the join state -/

/-- Flush entry up to the loss of power (R60, R61). -/
def State.flushPowerless (s : State) (vstore : Nat) : State :=
  let s : State := { s with pw := { s.pw with
    phase := .flush, failing := false, seqr := s.sequencers.head?.getD 0xFF, seqNext := s.sequencers.drop 1
    vFlush := sat 16 vstore, refused := 0, stgLost := 0, sealed := false } }
  let s := (s.wr PWR_HOLDUP_STAT_PHASE 2).sealPoint
  let s := [0, 1, 2, 3].foldl State.flushEngine s
  ((s.pulseEnd.settleAll).rangerPowerfail).flushPowersDown

/-- The module's own part of Canopy and of Coppice as it falls silent. -/
def State.silenced (s : State) (active : Bool) : State :=
  let s : State := { s with cnp := { s.cnp with flushSends := active } }
  { s with cop := { s.cop with
    run := none, waiting := none, due := [], testing := 0, laneTest := 0, fenced := 0, laneFenced := 0 } }

theorem State.flushEnter_eq (s : State) (vstore : Nat) :
    s.flushEnter vstore =
      (((s.flushPowerless vstore).silenced (s.joinState == joinActive)).setJoin joinFlush).eccStop := rfl

theorem State.flushPowerless_kept {A : List Area} {P : List Part} {s0 s : State} (hk : Kept A P s0 s) {vstore : Nat}
    (hA : ∀ a ∈ ([.feed, .unit, .std, .pend, .le, .ecc, .iog, .chan, .cvu, .recd, .ingress] : List Area), a ∈ A)
    (hP : ∀ p ∈ ([.mem, .out, .fresh, .pw, .rcd, .std, .dbg, .ecc, .io, .eng, .rng, .cvu, .rwy, .ust, .pmg] : List Part),
      p ∈ P) :
    Kept A P s0 (s.flushPowerless vstore) := by
  unfold State.flushPowerless
  repeat' first
    | with_reducible assumption | exact inA hA rfl | exact subA hA rfl | exact .inl (inP hP rfl) | exact subP hP rfl
    | with_reducible exact rfl | exact .inr rfl
    | with_reducible first
      | intro _ | apply State.flushEngine_kept | apply State.flushPowersDown_kept | apply State.pulseEnd_kept
      | apply State.rangerPowerfail_kept | apply State.sealPoint_kept | apply State.settleAll_kept
      | apply State.wr_kept | apply Kept.foldl | dsimp only
    | fail_if_no_progress with_reducible apply Kept.upd

/-- The areas and the parts of the state that flush entry changes before the join state does. -/
def poweringAreas : List Area := [.feed, .unit, .std, .pend, .le, .ecc, .iog, .chan, .cvu, .recd, .ingress]
def poweringParts : List Part :=
  [.mem, .out, .fresh, .pw, .rcd, .std, .dbg, .ecc, .io, .eng, .rng, .cvu, .rwy, .ust, .pmg]

theorem State.flushPowerless_framed (s : State) (vstore : Nat) :
    Framed poweringAreas poweringParts s (s.flushPowerless vstore) :=
  (State.flushPowerless_kept (Kept.refl _ _ s) (fun _ h => h) (fun _ h => h)).framed

theorem State.ust_flushPowersDown (s : State) : s.flushPowersDown.ust = understoryInit := rfl

theorem State.ust_flushPowerless (s : State) (vstore : Nat) : (s.flushPowerless vstore).ust = understoryInit :=
  State.ust_flushPowersDown _

/-! ### The tunnels stop -/

theorem tunPurge_touches (s : State) (t : Nat) :
    Touches [UST_TUNt_STAT_QUEUED t, UST_TUNt_CNT_QDROP t] [.pend] [.cnp, .ust] s (s.tunPurge t) := by
  have hstart : Touches [UST_TUNt_STAT_QUEUED t, UST_TUNt_CNT_QDROP t] [.pend] [.cnp, .ust] s s := Touches.refl _ _ _ s
  unfold State.tunPurge
  dsimp only
  split
  · exact hstart
  have hqueues := hstart.kept (State.mapQueues_kept (Kept.refl _ _ s)
    (f := fun f => if f.tun == some t then none else some f) (by simp))
  generalize s.mapQueues _ = q at hqueues ⊢
  have haway (y : Understory) :
      Touches [UST_TUNt_STAT_QUEUED t, UST_TUNt_CNT_QDROP t] [.pend] [.cnp, .ust] s { q with ust := y } :=
    hqueues.parts' rfl fun p hp => by cases p <;> first | rfl | exact absurd hp (by simp)
  refine Touches.raise (List.foldlRecOn _ _ (Touches.wrOf (haway _) (by simp) _) fun u hu n _ => hu.bump (by simp) 1)
    (by simp) 194

/-- The other tunnels leave a tunnel's count of drops as it is. -/
theorem qdrop_tunPurge_ne (s : State) {t : Nat} (ht : t ≠ 0) :
    (s.tunPurge t).rd (UST_TUNt_CNT_QDROP 0) = s.rd (UST_TUNt_CNT_QDROP 0) := by
  refine (tunPurge_touches s t).regs _ ?_ ?_
  · simp [Fld.key, Area.code, UST_TUNt_CNT_QDROP, UST_TUNt_STAT_QUEUED]; omega
  · simp [UST_TUNt_CNT_QDROP]

/-- How many parts of a tunnel's frames a stop of the tunnel drops. -/
def State.tunHeld (s : State) (t : Nat) : Nat :=
  (tblGet tunnelInit t s.ust.tunnels).away.length +
    ((s.queued.filter fun f => f.tun == some t).map fun f => leAt 36 2 f.bytes).eraseDups.length

/-- A stop that drops one frame counts it. -/
theorem qdrop_tunPurge (s : State) {t : Nat} (h : s.tunHeld t = 1) :
    (s.tunPurge t).rd (UST_TUNt_CNT_QDROP t) = sat 8 (s.rd (UST_TUNt_CNT_QDROP t) + 1) := by
  have hqueues := (State.mapQueues_kept (Kept.refl [] [.cnp] s)
    (f := fun f => if f.tun == some t then none else some f) (by simp)).framed.regs (UST_TUNt_CNT_QDROP t) (by simp)
  unfold State.tunHeld at h
  unfold State.tunPurge
  simp only [h, one_ne_zero, if_false, List.range_one, List.foldl_cons, List.foldl_nil]
  generalize s.mapQueues _ = q at hqueues ⊢
  have hne : (UST_TUNt_CNT_QDROP t).key ≠ (UST_TUNt_STAT_QUEUED t).key := by
    simp [Fld.key, Area.code, UST_TUNt_CNT_QDROP, UST_TUNt_STAT_QUEUED]
    omega
  rw [State.rd_raise_code (by simp [Area.code, UST_TUNt_CNT_QDROP]), State.rd_bump_same, State.rd_wr_ne _ hne, ← hqueues]
  rfl

/-- Frames that wait as a module leaves ACTIVE are counted. -/
theorem qdrop_setJoin_flush (s : State) (hj : s.joinState = joinActive) (h : s.tunHeld 0 = 1)
    (h0 : s.rd (UST_TUNt_CNT_QDROP 0) = 0) : (s.setJoin joinFlush).rd (UST_TUNt_CNT_QDROP 0) = 1 := by
  have hrange : List.range 32 = 0 :: (List.range 31).map (· + 1) := by decide
  generalize List.range 31 = others at hrange
  unfold State.setJoin
  rw [hj]
  simp only [show joinFlush ≠ joinActive by decide, if_true, if_false, hrange, List.foldl_cons, List.foldl_map]
  rw [State.rd_record_code (by simp [Area.code, UST_TUNt_CNT_QDROP]) (by simp [Area.code, UST_TUNt_CNT_QDROP]),
    State.rd_raise_code (by simp [Area.code, UST_TUNt_CNT_QDROP])]
  have hfirst : ((((s.wr CNP_JOIN_STAT_STATE joinFlush).wr CNP_JOIN_STAT_LEAVEEV 1).tunPurge 0).rd
      (UST_TUNt_CNT_QDROP 0)) = 1 := by
    rw [qdrop_tunPurge ((s.wr CNP_JOIN_STAT_STATE joinFlush).wr CNP_JOIN_STAT_LEAVEEV 1) h,
      State.rd_wr_ne _ (by decide), State.rd_wr_ne _ (by decide), h0]
    rfl
  exact List.foldlRecOn (motive := fun u => u.rd (UST_TUNt_CNT_QDROP 0) = 1) _ _ hfirst fun u hu n _ => (qdrop_tunPurge_ne u (Nat.succ_ne_zero n)).trans hu

/-! ### The counterexample -/

/-- An active module in a power-fail; a frame of tunnel 0 waits at port 0 of Canopy. -/
def failingActive : State :=
  let start : Start := { startInit with wasReady := true }
  let s : State := { State.reset with pw := { powerInit with phase := .running, failing := true, start := start } }
  (s.setEtPort 0 ⟨[⟨true, some 0, [], [], false⟩], false⟩).wr CNP_JOIN_STAT_STATE joinActive

theorem failingActive_shows : failingActive.joinState = joinActive ∧ failingActive.rd (UST_TUNt_CNT_QDROP 0) = 0 ∧
    ({ failingActive with ust := understoryInit } : State).tunHeld 0 = 1 := by
  decide +kernel

/-- The frame is dropped and counted as the module leaves ACTIVE. -/
theorem qdrop_flushEnter (s : State) (hs : s.joinState = joinActive ∧ s.rd (UST_TUNt_CNT_QDROP 0) = 0 ∧
    ({ s with ust := understoryInit } : State).tunHeld 0 = 1) (vstore : Nat) :
    (s.flushEnter vstore).rd (UST_TUNt_CNT_QDROP 0) = 1 := by
  obtain ⟨hjoin, hzero, hheld⟩ := hs
  have hframed := s.flushPowerless_framed vstore
  have hcnp : (s.flushPowerless vstore).cnp = s.cnp := hframed.parts .cnp (by decide)
  have hust := s.ust_flushPowerless vstore
  have hj : (s.flushPowerless vstore).joinState = joinActive := (hframed.regs CNP_JOIN_STAT_STATE (by decide)).trans hjoin
  have hz : (s.flushPowerless vstore).rd (UST_TUNt_CNT_QDROP 0) = 0 := (hframed.regs _ (by decide)).trans hzero
  rw [State.flushEnter_eq]
  generalize s.flushPowerless vstore = q at hcnp hust hj hz ⊢
  have hq : (q.silenced (s.joinState == joinActive)).tunHeld 0 = 1 := by
    rw [← hheld]
    simp only [State.tunHeld, State.queued, State.etPort, State.silenced, hust, hcnp]
  exact ((State.eccStop_kept (Kept.refl [.pend, .ecc, .cvu, .ingress] [.mem, .leMem, .fresh, .pw, .rcd, .ecc, .cvu] _)
    (fun _ h => h) (fun _ h => h)).framed.regs _ (by decide)).trans (qdrop_setJoin_flush _ hj hq hz)

theorem qdrop_flushEntry : shown (·.rd (UST_TUNt_CNT_QDROP 0)) (exec (.flushEntry 0 0) failingActive) = 1 :=
  qdrop_flushEnter (failingActive.begin 0) failingActive_shows 0

/-- Refutes O52: the frame of flush entry leaves out the registers of the tunnels, but a frame that waits at a port of
Canopy is dropped and counted there. -/
theorem not_flushMode : ¬ Obligations.FlushMode := by
  intro h
  obtain ⟨hentry, -⟩ := h failingActive [] 0 0 0 0 0
  obtain ⟨u, ⟨-, -, -, -, -, -, -, -, -, -, -, -, -, -, -, -, -, -, hframed⟩, hone⟩ :=
    (hentry ⟨rfl, rfl, rfl, .inr (by decide)⟩).exists_shown qdrop_flushEntry
  obtain ⟨-, hzero, -⟩ := failingActive_shows
  have hkept : u.rd (UST_TUNt_CNT_QDROP 0) = failingActive.rd (UST_TUNt_CNT_QDROP 0) := hframed.regs _ (by decide)
  exact absurd (hone.symm.trans (hkept.trans hzero)) (by decide)

end Sys2Proof.Machine

/-! ## A Rootway frame that waits as Seedling announces itself (R404, R409, R544) -/

namespace Sys2Proof.Machine

-- An evaluation waits for the kernel, which has all that stands before it to check: one at a time.
set_option Elab.async false

/-- A posted write that waits for its frame to leave. -/
def waitingPost : RwPost := ⟨0, 0, 0, 0, 0, 5⟩

/-- A running module in Seedling; at port 0 of Canopy waits a frame that carries a posted write. -/
def seeding : State :=
  let start : Start := { startInit with ready := true }
  let port : EtPort := ⟨[⟨true, none, [⟨none, 0, 0, [2], 0⟩], [], false⟩], false⟩
  let s : State := { State.reset with
    pw := { powerInit with phase := .running, start := start }
    rwy := { rootwayInit with posted := [waitingPost] }
    fwu := { State.reset.fwu with seed := some ⟨none, [], none, 0, none, []⟩ } }
  ((s.setEtPort 0 port).setPortLink 0 { portLinkInit with used := true }).wr CNP_PORTSTAT_LINKUP 1

/-- The instant from which the time-out of the oldest posted write counts. -/
def oldestPost (u : State) : Nat := (u.rwy.posted.head?.map (·.at_)).getD 0

theorem oldestPost_seedlingAnnounce : shown oldestPost (exec (.seedlingAnnounce 100000) seeding) = 100000 := by
  decide +kernel

/-- Refutes O54: the frame of Seedling's announcement leaves out Rootway, but a port that takes the announcement sends
the oldest frame that waits there, and the posted write in it counts its time-out from then. -/
theorem not_firmwareUpdate : ¬ Obligations.FirmwareUpdate := by
  intro h
  obtain ⟨-, -, -, -, -, -, -, -, -, -, -, -, -, -, -, -, hannounce, -⟩ :=
    h seeding 0 false false ⟨0, 0, [], 0, 0⟩ ⟨0, 0, .none⟩ ⟨none, [], none, 0, none, []⟩ 0 0 0 0 [] 100000
  obtain ⟨u, ⟨-, -, hframed⟩, hat⟩ := (hannounce rfl rfl).exists_shown oldestPost_seedlingAnnounce
  have hkept : u.rwy = seeding.rwy := hframed.parts .rwy (by decide)
  rw [oldestPost, hkept] at hat
  exact absurd hat (by decide)

end Sys2Proof.Machine

/-! ## The register of the gated clocks (R514) -/

namespace Sys2Proof.Machine

-- An evaluation waits for the kernel, which has all that stands before it to check: one at a time.
set_option Elab.async false

/-- Hart 0 runs in a module no port of which is up. -/
def gatedClocks : State :=
  let s : State := { State.reset with pw := { powerInit with phase := .running } }
  (s.wr (STD_Sk_STAT_STATE 0) stRunning).wr (STD_Sk_STAT_MODE 0) modeTriad

/-- The number that a read answers. -/
def readValue (u : State) : Nat := match u.resp with | .ok v => v | _ => 0

/-- CLK_GATE shows the clock domains of the ports as gated. -/
theorem readValue_clkGate : shown readValue (exec (.registerRead (.hart 0) 0x10100808 2 0) gatedClocks) = 480 := by
  decide +kernel

/-- The one field of CLK_GATE. -/
def gateField : RowField := ⟨0, 14, .ro, 0, lPM⟩

theorem regFields_clkGate : regFields 0x10100808 = some [gateField] := by decide +kernel

theorem plainRead_clkGate : gatedClocks.plainRead 0x10100808 = 0 := by decide +kernel

theorem gatedClocks_runs : gatedClocks.hartRuns 0 = true ∧ gatedClocks.deviceOpen 0 0x10100808 = true := by decide +kernel

/-- Refutes O56: the clause of a read says that it shows the register's fields as they are stored, but those of the gated
clocks follow from the state of the module. -/
theorem not_registerAccess : ¬ Obligations.RegisterAccess := by
  intro h
  obtain ⟨hruns, hopen⟩ := gatedClocks_runs
  obtain ⟨-, -, -, hplain, -⟩ := h gatedClocks (.hart 0) 0 0 0x10100808 2 0 [gateField] gateField 0 0
  obtain ⟨hfields, -⟩ := hplain hruns hopen ⟨rfl, by decide, by decide⟩ (.inr (.inl (by decide)))
  obtain ⟨-, hread⟩ := hfields regFields_clkGate (List.mem_singleton_self _) (by decide +kernel)
  obtain ⟨u, ⟨-, -, hok, -⟩, hvalue⟩ := hread.exists_shown readValue_clkGate
  rw [readValue, hok] at hvalue
  exact absurd (plainRead_clkGate.symm.trans hvalue) (by decide)

/-- Refutes O57: the clause of a read says that it shows the register's fields as they are stored, but those of the gated
clocks follow from the state of the module. -/
theorem not_registerAccessesComplete : ¬ Obligations.RegisterAccessesComplete := by
  intro h
  obtain ⟨hruns, hopen⟩ := gatedClocks_runs
  obtain ⟨-, hread⟩ := h gatedClocks 0 0x10100808 0 [gateField] gateField 0 0
  obtain ⟨u, hok, hvalue⟩ :=
    (hread hruns hopen (by decide) (.inr (by decide)) regFields_clkGate).exists_shown readValue_clkGate
  rw [readValue, hok] at hvalue
  exact absurd (plainRead_clkGate.symm.trans hvalue) (by decide)

end Sys2Proof.Machine

/-! ## The end of Ranger's key phase (R85, R280, R284) -/

namespace Sys2Proof.Machine

/-- In the key phase of a running module Ranger takes its next state from the key. -/
theorem does_rangerKeyPhaseEnd {s : State} (hs : s.rng.state = rngKey) (hp : s.pw.phase = .running) (busErr : Bool)
    (tick t : Nat) : Does (.rangerKeyPhaseEnd busErr tick t) s fun u =>
      u.rng = rangerKeyEnd s.rng s.key.mem busErr tick ∧ u.pw.start.keyPhase = true ∧
      Touches [] [] [.now, .resp, .out, .pw, .rng] s u :=
  ⟨_, congrArg Host.Outcome.next (if_pos ⟨hs, hp⟩), rfl, rfl,
    (Touches.begin s t (by decide)).parts' rfl fun q hq => by cases q <;> first | rfl | exact absurd hq (by decide)⟩

/-- The block that Ranger chooses decides its next state. -/
theorem rangerKeyEnd_choice (r : Ranger) {m : KeyMem} {a gen : Nat} {b : List Byte}
    (h : keyRangerChoice m = some (a, b, gen)) (tick : Nat) :
    rangerKeyEnd r (some m) false tick =
      let r : Ranger := { r with area := a, pcrc := crc32c b, gen := gen, conf := keyConfirms m (crc32c b) }
      match rngCheck b with
      | some (code, inst) => { r with state := rngParamerr, code := code, inst := inst }
      | none =>
        rangerEnter (if keyConfirms m (crc32c b) then { r with state := rngRun, code := 0 }
          else { r with state := rngUnconfirmed, code := 0x0D }) (rngParse b) tick := by
  simp only [rangerKeyEnd, Option.bind_some, h, Option.map_some, Option.getD_some]
  rfl

/-- Settles O13. -/
theorem rangerKeyPhase : Obligations.RangerKeyPhase := by
  intro s m a gen b tick t hs hp
  refine ⟨(does_rangerKeyPhaseEnd hs hp true tick t).imp fun u hu => hu, fun hnone => ?_, fun hkey hchoice => ?_⟩
  · refine (does_rangerKeyPhaseEnd hs hp false tick t).imp fun u ⟨hrng, hrest⟩ => ⟨?_, hrest⟩
    rw [hrng, hnone]
    rfl
  · refine (does_rangerKeyPhaseEnd hs hp false tick t).imp fun u ⟨hrng, hphase, htouches⟩ => ?_
    rw [hkey, rangerKeyEnd_choice s.rng hchoice] at hrng
    rw [hrng]
    cases hcheck : rngCheck b with
    | some e => simpa [hphase] using htouches
    | none =>
      cases hconf : keyConfirms m (crc32c b) with
      | true => simpa [hphase, rangerEnter] using htouches
      | false => simpa [hphase, rangerEnter] using htouches

end Sys2Proof.Machine

/-! ## Ranger's inputs and safe messages (R253, R278, R290, R295, R296) -/

namespace Sys2Proof.Machine

/-- A command without a time that replaces Ranger touches nothing else. -/
theorem touches_fresh0_setRng (s : State) (r : Ranger) : Touches [] [] [.resp, .out, .rng] s (s.fresh0.setRng r) :=
  (Touches.fresh0 s (by decide)).parts' rfl fun q hq => by cases q <;> first | rfl | exact absurd hq (by decide)

/-! ### Level samples -/

/-- The readback of a channel changes its last low sample and its failure alone. -/
theorem rngReadback_eq (permits tick : Nat) (r : Ranger) (n : Nat) :
    ∃ low fails, rngReadback permits tick r n = { r with lastLow := low, pfail := fails } := by
  unfold rngReadback
  dsimp only
  repeat' split
  all_goals exact ⟨_, _, rfl⟩

theorem foldl_rngReadback_eq (permits tick : Nat) (ns : List Nat) (r : Ranger) :
    ∃ low fails, ns.foldl (rngReadback permits tick) r = { r with lastLow := low, pfail := fails } := by
  induction ns generalizing r with
  | nil => exact ⟨_, _, rfl⟩
  | cons n ns ih =>
    obtain ⟨low, fails, hstep⟩ := rngReadback_eq permits tick r n
    obtain ⟨low', fails', hrest⟩ := ih (rngReadback permits tick r n)
    exact ⟨low', fails', by rw [List.foldl_cons, hrest, hstep]⟩

/-- A level sample of a module that evaluates: every filter takes a step. -/
theorem rangerSample_eq {r : Ranger} {q : RParam} (hq : r.param = some q) (he : rngEvaluates r.state = true)
    (permits levels tick : Nat) : ∃ low fails, rangerSample r permits levels tick =
      { r with raw := levels, lastLow := low, pfail := fails
               filters := (q.inputs.zip r.filters).map fun e => rngFilter e.1.2 e.2 (bitAt levels e.1.1) } := by
  unfold rangerSample
  simp only [hq, he, if_true]
  exact foldl_rngReadback_eq ..

/-! ### Edges -/

/-- The lane of CHA of a pair. -/
theorem pairLane_eq (n : Nat) : (if n % 2 = 0 then n else n - 1) = n / 2 * 2 := by split <;> omega

/-- A rising edge on a zero-speed channel is stamped, whatever a quadrature pair of the lane does with it. -/
theorem edges_rangerEdge {r : Ranger} {q : RParam} (hq : r.param = some q) (he : rngEvaluates r.state = true) {n : Nat}
    {x : Nat × Nat × Nat} (hx : tblFind n r.edges = some x) (tick : Nat) :
    tblFind n (rangerEdge r n true tick).edges = some (tick, x.1, x.2.1) := by
  unfold rangerEdge
  simp only [hq, he, hx, Bool.not_true, Bool.false_eq_true, if_false, if_true]
  split
  · exact tblFind_put_same ..
  · exact tblFind_put_same ..

/-- An edge on a lane of a quadrature pair, where none has come in this tick. -/
theorem rangerEdge_pair {r : Ranger} {q : RParam} (hq : r.param = some q) (he : rngEvaluates r.state = true) {n : Nat}
    {p : RPair} (hp : tblFind (n / 2 * 2) r.pairs = some p) {tick : Nat} (ht : p.lastTick ≠ tick) (level : Bool) :
    (rangerEdge r n level tick).pairs = tblPut (n / 2 * 2) (rngPairEdge p (n != n / 2 * 2) level tick).1 r.pairs ∧
      (rangerEdge r n level tick).evals = r.evals := by
  have herr : (rngPairEdge p (n != n / 2 * 2) level tick).2 = false := by
    rw [rngPairEdge, if_neg fun h => ht h.1]
  unfold rangerEdge
  cases hx : tblFind n r.edges with
  | none => simp [hq, he, pairLane_eq, hp, herr]
  | some x => cases level <;> simp [hq, he, pairLane_eq, hp, herr]

/-- The position of a pair moves by one with an edge. -/
theorem rngPairEdge_moves {p : RPair} {tick : Nat} (ht : p.lastTick ≠ tick) (onB level : Bool) :
    let p' := (rngPairEdge p onB level tick).1
    p'.pos = p.pos + (if (if onB then p.la == level else level != p.lb) then 1 else -1) ∧
      p'.la = (if onB then p.la else level) ∧ p'.lb = (if onB then level else p.lb) ∧ p'.held = p.held := by
  rw [rngPairEdge, if_neg fun h => ht h.1]
  exact ⟨rfl, rfl, rfl, rfl⟩

/-! ### Safe messages -/

/-- A message of whole length from a peer is judged against the connection of its identities. -/
theorem rangerCopy_eq {r : Ranger} {q : RParam} (hq : r.param = some q) (he : rngEvaluates r.state = true)
    {frame m : List Byte} (hm : m = slice 30 (beAt 22 2 frame) frame) (hlen : m.length = beAt 22 2 frame)
    (hulen : beAt 22 2 frame = leAt 14 2 m + 28) {c : Nat}
    (hc : q.conns.findIdx? (fun k => k.src == leAt 0 4 m && k.dst == leAt 4 4 m) = some c) {k : RConn} {l : RLink}
    (hk : q.conns[c]? = some k) (hl : r.links[c]? = some l) (plane tick : Nat) :
    rangerCopy r plane tick frame = { r with links := r.links.set c (rngJudge k l plane tick m) } := by
  have hshort : ¬ (m.length < 28 ∨ m.length ≠ beAt 22 2 frame ∨ beAt 22 2 frame ≠ leAt 14 2 m + 28) := by omega
  unfold rangerCopy
  simp only [hq, he, Bool.not_true, Bool.false_eq_true, if_false, ← hm, hshort, hc, Option.some_or, hk, hl]

/-- The destination of a connection that a message's identities name. -/
theorem dst_of_findIdx? {q : RParam} {src dst c : Nat} {k : RConn}
    (hc : q.conns.findIdx? (fun k => k.src == src && k.dst == dst) = some c) (hk : q.conns[c]? = some k) : k.dst = dst := by
  obtain ⟨hlt, hprop, -⟩ := List.findIdx?_eq_some_iff_getElem.mp hc
  rw [List.getElem?_eq_getElem hlt, Option.some_inj] at hk
  simp only [hk, Bool.and_eq_true, beq_iff_eq] at hprop
  exact hprop.2

/-- The first message of a connection, where its check value is right. -/
theorem rngJudge_first {k : RConn} {l : RLink} {m : List Byte} (hdst : k.dst = leAt 4 4 m)
    (hcrc : leAt (24 + leAt 14 2 m) 4 m = crc32cSeed k.seed (slice 0 (24 + leAt 14 2 m) m)) (hl : l.accepted = false)
    (ha : l.alive = none) (plane tick : Nat) :
    rngJudge k l plane tick m =
      let user := slice 24 (leAt 14 2 m) m
      { l with
        accepted := true, seq := leAt 8 4 m, time := leAt 16 8 m, user := user, plane := plane, tick := tick
        alive := some (leAt 12 2 m), fresh := !l.flt, sig := sigWord k.sigbyte user } := by
  unfold rngJudge
  simp only [hdst, hcrc, ne_eq, not_true_eq_false, if_false, hl, ha, Bool.false_and, Bool.false_eq_true]

/-- A message with a wrong check value. -/
theorem rngJudge_wrongCrc {k : RConn} {l : RLink} {m : List Byte} (hdst : k.dst = leAt 4 4 m)
    (hcrc : leAt (24 + leAt 14 2 m) 4 m ≠ crc32cSeed k.seed (slice 0 (24 + leAt 14 2 m) m)) (plane tick : Nat) :
    rngJudge k l plane tick m = { l with lastRej := 1, rej := min (l.rej + 1) 0xFFFF } := by
  unfold rngJudge
  simp only [hdst, hcrc, ne_eq, not_true_eq_false, not_false_eq_true, if_false, if_true]
  rfl

/-- A fresh connection whose time is up. -/
theorem rngLinkNow_late {k : RConn} {l : RLink} {tick : Nat} (hf : l.fresh = true) (ht : l.tick + k.timeout * 3800 ≤ tick) :
    rngLinkNow k l tick = { l with fresh := false, tmo := min (l.tmo + 1) 0xFFFF } := by
  have hin : rngInTime k l tick = false := decide_eq_false (Nat.not_lt.mpr ht)
  simp only [rngLinkNow, hin, Bool.and_false, Bool.false_eq_true, if_false, rngStale, hf, if_true]
  rfl

/-- Settles O14. -/
theorem rangerInputsAndMessages : Obligations.RangerInputsAndMessages := by
  refine ⟨fun s q levels n level k ch tr c y p x1 x2 x3 tick => ⟨fun hq he hin hf _ hp => ?_, fun hq he hn hx => ?_,
    fun hq he hn hpair ht => ?_, fun hpair hhold => ?_⟩, fun s q plane frame c cc k l tick hq he => ⟨?_, ?_, ?_⟩⟩
  · obtain ⟨low, fails, hr⟩ := rangerSample_eq hq he s.io.permits levels.toNat tick
    refine ⟨_, congrArg Host.Outcome.next (if_pos (bne_iff_ne.mpr hp)), ?_⟩
    refine ⟨?_, ?_, ?_, ?_, touches_fresh0_setRng s _⟩
    all_goals simp only [State.setRng, State.fresh0, hr]
    rw [List.getElem?_map, (List.getElem?_zip_eq_some (z := ((ch, tr), (c, y)))).mpr ⟨hin, hf⟩]
    rfl
  · exact ⟨_, congrArg Host.Outcome.next (if_pos hn), edges_rangerEdge hq he hx tick, touches_fresh0_setRng s _⟩
  · obtain ⟨hpairs, hevals⟩ := rangerEdge_pair hq he hpair ht level
    have hb : (n.val != n.val / 2 * 2) = decide (n.val % 2 = 1) := by
      rw [Bool.eq_iff_iff, bne_iff_ne, decide_eq_true_iff]
      omega
    rw [hb] at hpairs
    obtain ⟨hpos, hla, hlb, hheld⟩ := rngPairEdge_moves ht (decide (n.val % 2 = 1)) level
    simp only [decide_eq_true_eq] at hpos hla hlb
    refine ⟨_, congrArg Host.Outcome.next (if_pos hn), ⟨_, ?_, hpos, hla, hlb, hheld⟩, hevals, touches_fresh0_setRng s _⟩
    exact (congrArg (tblFind _) hpairs).trans (tblFind_put_same ..)
  · refine ⟨s.fresh0.setRng { s.rng with pairs := tblPut n { p with held := false } s.rng.pairs }, ?_,
      tblFind_put_same .., rfl, touches_fresh0_setRng s _⟩
    show Host.Outcome.next (match tblFind n.val s.rng.pairs with | none => _ | some p => _) = _
    rw [hpair]
    exact congrArg Host.Outcome.next (if_pos hhold)
  · intro hlen hulen hc hk hl hcrc hacc halive
    refine ⟨_, rfl, ?_, touches_fresh0_setRng s _⟩
    exact (rangerCopy_eq hq he rfl hlen hulen hc hk hl _ _).trans (by
      rw [rngJudge_first (dst_of_findIdx? hc hk) hcrc hacc halive])
  · intro hlen hulen hc hk hl hcrc
    refine ⟨_, rfl, ?_, touches_fresh0_setRng s _⟩
    exact (rangerCopy_eq hq he rfl hlen hulen hc hk hl _ _).trans (by rw [rngJudge_wrongCrc (dst_of_findIdx? hc hk) hcrc])
  · intro hk hl hfresh _ _ ht
    refine ⟨s.fresh0.setRng { s.rng with links := s.rng.links.set cc.val (rngLinkNow k l tick) }, ?_,
      by rw [rngLinkNow_late hfresh ht]; rfl, touches_fresh0_setRng s _⟩
    show execRangerConnectionTimeout cc tick s = _
    unfold execRangerConnectionTimeout
    simp only [State.fresh0, hq, hk, hl, he, if_true]

end Sys2Proof.Machine

/-! ## Ranger's evaluations and faults (R279, R285, R294, R298, R302) -/

namespace Sys2Proof.Machine

/-! ### Permit lanes -/

theorem bitAt_setBit (v i j : Nat) (b : Bool) : bitAt (setBit v i b) j = if j = i then b else bitAt v j := by
  simp only [bitAt_eq_testBit, testBit_setBit]

/-- The permit lanes stand at `v`. -/
def State.PermitsAre (v : Nat) (s : State) : Prop := s.io.permits = v

section
variable {v : Nat} {s : State}

theorem State.PermitsAre.ite {c : Prop} [Decidable c] {u : State} (hs : s.PermitsAre v) (hu : u.PermitsAre v) :
    (if c then s else u).PermitsAre v := by split <;> assumption

theorem State.PermitsAre.wr (h : s.PermitsAre v) (f : Fld) (x : Nat) : (s.wr f x).PermitsAre v := h

theorem State.PermitsAre.wrB (h : s.PermitsAre v) (f : Fld) (b : Bool) : (s.wrB f b).PermitsAre v := h

theorem State.PermitsAre.emit (h : s.PermitsAre v) (e : Emission) : (s.emit e).PermitsAre v := h

theorem State.PermitsAre.setChan (h : s.PermitsAre v) (n : Nat) (c : Chan) : (s.setChan n c).PermitsAre v := h

theorem State.PermitsAre.wrBit (h : s.PermitsAre v) (f : Fld) (i : Nat) (b : Bool) : (s.wrBit f i b).PermitsAre v := h

theorem State.PermitsAre.syncChan (h : s.PermitsAre v) (n : Nat) : (s.syncChan n).PermitsAre v := by
  unfold State.syncChan
  exact ((((((h.wrB _ _).wrB _ _).wrB _ _).wrB _ _).wrB _ _).wrBit _ _ _).wrBit _ _ _

theorem State.PermitsAre.endPulse (h : s.PermitsAre v) : State.PermitsAre v { s with io := { s.io with pulse := none } } := h

theorem State.PermitsAre.pulseEnd (h : s.PermitsAre v) : s.pulseEnd.PermitsAre v := by
  unfold State.pulseEnd
  repeat' first
    | with_reducible assumption
    | with_reducible first
      | apply State.PermitsAre.ite | apply State.PermitsAre.wr | apply State.PermitsAre.wrB | apply State.PermitsAre.setChan
      | apply State.PermitsAre.endPulse | split

theorem State.PermitsAre.settleChan (h : s.PermitsAre v) (n : Nat) : (s.settleChan n).PermitsAre v := by
  unfold State.settleChan
  repeat' first
    | with_reducible assumption
    | with_reducible first
      | apply State.PermitsAre.ite | apply State.PermitsAre.wrB | apply State.PermitsAre.setChan | apply State.PermitsAre.emit
      | apply State.PermitsAre.syncChan | apply State.PermitsAre.pulseEnd | split

end

theorem State.permits_settleChan (s : State) (n : Nat) : (s.settleChan n).io.permits = s.io.permits :=
  State.PermitsAre.settleChan rfl n

/-- A permit lane takes the value that it is driven to, and the others stand. -/
theorem State.bitAt_drivePermit (s : State) (tick n : Nat) (on : Bool) (m : Nat) :
    bitAt (s.drivePermit tick n on).io.permits m = if m = n then on else bitAt s.io.permits m := by
  unfold State.drivePermit
  split
  case isTrue h =>
    split
    · next hm => rw [hm, h]
    · rfl
  case isFalse h =>
    dsimp only
    rw [State.permits_settleChan]
    exact bitAt_setBit ..

/-- Lanes driven one after another. -/
theorem State.bitAt_foldl_drivePermit (tick : Nat) (on : Nat → Bool) (ns : List Nat) (s : State) (m : Nat) :
    bitAt (ns.foldl (fun s n => s.drivePermit tick n (on n)) s).io.permits m =
      if m ∈ ns then on m else bitAt s.io.permits m := by
  induction ns generalizing s with
  | nil => simp
  | cons n ns ih =>
    rw [List.foldl_cons, ih, State.bitAt_drivePermit]
    by_cases hm : m ∈ ns
    · simp [hm]
    · by_cases hn : m = n
      · simp [hn]
      · simp [hm, hn]

/-- Driving a permit lane changes the readback of Ranger alone. -/
theorem State.rng_drivePermit (s : State) (tick n : Nat) (on : Bool) : ∃ low last fails,
    (s.drivePermit tick n on).rng = { s.rng with lowAt := low, lastLow := last, pfail := fails } := by
  have hsettle (u : State) : (u.settleChan n).rng = u.rng :=
    (State.settleChan_kept (A := [.iog, .chan]) (P := [.out, .io]) (Kept.refl _ _ u) (fun _ h => h)
      (fun _ h => h)).framed.parts .rng (by decide)
  unfold State.drivePermit
  split
  · exact ⟨_, _, _, rfl⟩
  · dsimp only
    rw [hsettle]
    cases on
    · exact ⟨_, _, _, rfl⟩
    · exact ⟨_, _, _, rfl⟩

theorem State.rng_foldl_drivePermit (tick : Nat) (on : Nat → Bool) (ns : List Nat) (s : State) : ∃ low last fails,
    (ns.foldl (fun s n => s.drivePermit tick n (on n)) s).rng = { s.rng with lowAt := low, lastLow := last, pfail := fails } := by
  induction ns generalizing s with
  | nil => exact ⟨_, _, _, rfl⟩
  | cons n ns ih =>
    obtain ⟨low, last, fails, hstep⟩ := s.rng_drivePermit tick n (on n)
    obtain ⟨low', last', fails', hrest⟩ := ih (s.drivePermit tick n (on n))
    exact ⟨low', last', fails', by rw [List.foldl_cons, hrest, hstep]⟩

/-- In a fault every permit lane is low. -/
theorem State.rangerFault_shows {s : State} (he : rngEvaluates s.rng.state = true) (tick code : Nat) :
    (s.rangerFault tick code).rng.state = rngFault ∧ (s.rangerFault tick code).rng.code = code ∧
      ∀ n, n < 192 → bitAt (s.rangerFault tick code).io.permits n = false := by
  rw [State.rangerFault, if_pos he, State.permitsLow]
  obtain ⟨low, last, fails, hrng⟩ := State.rng_foldl_drivePermit tick (fun _ => false) (List.range 192)
    (s.setRng { s.rng with state := rngFault, code := code, inst := none })
  refine ⟨by rw [hrng]; rfl, by rw [hrng]; rfl, fun n hn => ?_⟩
  rw [State.bitAt_foldl_drivePermit tick (fun _ => false), if_pos (List.mem_range.mpr hn)]

/-! ### The evaluation of the instances -/

/-- A function is evaluated with the outputs of those below it. -/
theorem getElem?_evalAll (g : Ranger) (q : RParam) (now : Nat) {rs : List RInst} {es : List REval} {qs : List Bool} {i : Nat}
    {r : RInst} {e : REval} (hr : rs[i]? = some r) (he : es[i]? = some e) :
    (evalAll g q now rs es qs)[i]? =
      some (evalInst g q now (qs ++ ((evalAll g q now rs es qs).take i).map REval.q) r e) := by
  induction rs generalizing es qs i with
  | nil => exact absurd hr (by simp)
  | cons r0 rs ih =>
    cases es with
    | nil => exact absurd he (by simp)
    | cons e0 es =>
      cases i with
      | zero =>
        simp only [List.getElem?_cons_zero, Option.some_inj] at hr he
        simp [evalAll, hr, he]
      | succ i =>
        rw [List.getElem?_cons_succ] at hr he
        rw [evalAll, List.getElem?_cons_succ, ih hr he, List.take_succ_cons, List.map_cons, List.append_assoc,
          List.singleton_append]

theorem length_evalAll (g : Ranger) (q : RParam) (now : Nat) {rs : List RInst} {es : List REval} {qs : List Bool}
    (h : es.length = rs.length) : (evalAll g q now rs es qs).length = rs.length := by
  induction rs generalizing es qs with
  | nil => cases es <;> rfl
  | cons r rs ih =>
    cases es with
    | nil => exact absurd h (by simp)
    | cons e es => exact congrArg (· + 1) (ih (by simpa using h))

/-- An operand of a function reads functions below it alone. -/
theorem opValue_take {links : List RLink} {qs : List Bool} {nconn i code : Nat} (h : operandOk nconn i code = true) :
    opValue links (qs.take i) code = opValue links qs code := by
  have hget (j : Nat) (hj : j < i) : (qs.take i).getD j false = qs.getD j false := by
    rw [List.getD_eq_getElem?_getD, List.getD_eq_getElem?_getD, List.getElem?_take, if_pos hj]
  unfold operandOk at h
  unfold opValue
  split at h
  · next hlow => rw [if_pos hlow, if_pos hlow, hget _ (of_decide_eq_true h)]
  · next hlow =>
    rw [if_neg hlow, if_neg hlow]
    split at h
    · next hmid => rw [if_pos hmid, if_pos hmid, hget _ (of_decide_eq_true h)]
    · next hmid => rw [if_neg hmid, if_neg hmid]

/-- A REL function takes the value that FORM makes of its operands. -/
theorem q_evalAll_rel {g : Ranger} {q : RParam} {now i : Nat} {es : List REval} (hlen : es.length = q.insts.length)
    {r : RInst} (hr : q.insts[i]? = some r) (htype : r.type = 6) (hops : r.ops.length = 4) {nconn : Nat}
    (hok : r.ops.all (operandOk nconn i) = true) :
    let qs := (evalAll g q now q.insts es []).map REval.q
    let v := fun j => opValue g.links qs (r.ops.getD j 0x8000)
    ((evalAll g q now q.insts es [])[i]?).map REval.q = some (formValue r.form (v 0) (v 1) (v 2) (v 3)) := by
  obtain ⟨hi, -⟩ := List.getElem?_eq_some_iff.mp hr
  have he : es[i]? = some es[i] := List.getElem?_eq_getElem (hlen ▸ hi)
  have hop (j : Nat) (hj : j < 4) (qs : List Bool) :
      opValue g.links (qs.take i) (r.ops.getD j 0x8000) = opValue g.links qs (r.ops.getD j 0x8000) := by
    have hj' : j < r.ops.length := hops ▸ hj
    refine opValue_take (List.all_eq_true.mp hok _ ?_)
    rw [List.getD_eq_getElem?_getD, List.getElem?_eq_getElem hj']
    exact List.getElem_mem hj'
  simp only [getElem?_evalAll g q now hr he, List.nil_append, Option.map_some, evalInst, htype, evalRel, List.map_take,
    hop 0 (by decide), hop 1 (by decide), hop 2 (by decide), hop 3 (by decide)]

/-! ### The commands -/

/-- Ranger with one evaluation more counted. -/
def Ranger.counted (r : Ranger) : Ranger := { r with evcnt := (r.evcnt + 1) % 2 ^ 32 }

/-- An evaluation in a state that evaluates. -/
theorem State.rangerEvaluation_of_param {s : State} {q : RParam} (hq : s.rng.param = some q)
    (he : rngEvaluates s.rng.state = true) (chanDiff : Bool) (ratio tick : Nat) :
    s.rangerEvaluation chanDiff ratio tick =
      if chanDiff then (s.setRng s.rng.counted).rangerFault tick 0x10
      else if !within 9200 10800 ratio then (s.setRng s.rng.counted).rangerFault tick 0x11
      else (pmapChans q).foldl (fun u n => u.drivePermit tick n (permitWanted (rangerEvaluate s.rng.counted q tick) q n))
        (s.setRng (rangerEvaluate s.rng.counted q tick)) := by
  have hparam : (s.setRng s.rng.counted).rng.param = some q := hq
  have hstate : rngEvaluates (s.setRng s.rng.counted).rng.state = true := he
  unfold State.rangerEvaluation
  rw [show ({ s.rng with evcnt := (s.rng.evcnt + 1) % 2 ^ 32 } : Ranger) = s.rng.counted from rfl]
  simp only [hparam, hstate, Bool.not_true, Bool.false_eq_true, if_false]
  rfl

/-- A sound evaluation: Ranger's functions, then the permit lanes. -/
theorem State.rangerEvaluation_eq {s : State} {q : RParam} (hq : s.rng.param = some q)
    (he : rngEvaluates s.rng.state = true) {ratio : Nat} (hlo : 9200 ≤ ratio) (hhi : ratio ≤ 10800) (tick : Nat) :
    s.rangerEvaluation false ratio tick =
      (pmapChans q).foldl (fun u n => u.drivePermit tick n (permitWanted (rangerEvaluate s.rng.counted q tick) q n))
        (s.setRng (rangerEvaluate s.rng.counted q tick)) := by
  have hin : within 9200 10800 ratio = true := by simp [within, hlo, hhi]
  rw [State.rangerEvaluation_of_param hq he, if_neg Bool.false_ne_true, hin, if_neg (by decide)]

/-- Ranger after a sound evaluation, and its permit lanes. -/
theorem State.rangerEvaluation_shows {s : State} {q : RParam} (hq : s.rng.param = some q)
    (he : rngEvaluates s.rng.state = true) {ratio : Nat} (hlo : 9200 ≤ ratio) (hhi : ratio ≤ 10800) (tick : Nat) :
    (∃ low last fails, (s.rangerEvaluation false ratio tick).rng =
      { rangerEvaluate s.rng.counted q tick with lowAt := low, lastLow := last, pfail := fails }) ∧
    ∀ n, n < 192 → bitAt (s.rangerEvaluation false ratio tick).io.permits n =
      if q.pmap.getD n 0xFF = 0xFF then bitAt s.io.permits n
      else permitWanted (rangerEvaluate s.rng.counted q tick) q n := by
  rw [State.rangerEvaluation_eq hq he hlo hhi]
  generalize rangerEvaluate s.rng.counted q tick = g
  refine ⟨State.rng_foldl_drivePermit tick (permitWanted g q) (pmapChans q) (s.setRng g), fun n hn => ?_⟩
  have hmem : n ∈ pmapChans q ↔ ¬ q.pmap.getD n 0xFF = 0xFF := by
    simp only [pmapChans, List.mem_filter, List.mem_range, hn, true_and, bne_iff_ne, ne_eq]
  rw [State.bitAt_foldl_drivePermit tick (permitWanted g q)]
  by_cases hunbound : q.pmap.getD n 0xFF = 0xFF
  · rw [if_pos hunbound, if_neg fun h => hmem.mp h hunbound]
    rfl
  · rw [if_neg hunbound, if_pos (hmem.mpr hunbound)]

/-- An evaluation that finds a fault. -/
theorem State.rangerEvaluation_fault {s : State} {q : RParam} (hq : s.rng.param = some q)
    (he : rngEvaluates s.rng.state = true) {chanDiff : Bool} {ratio : Nat}
    (h : chanDiff = true ∨ ratio < 9200 ∨ 10800 < ratio) (tick : Nat) :
    s.rangerEvaluation chanDiff ratio tick =
      (s.setRng s.rng.counted).rangerFault tick (if chanDiff then 0x10 else 0x11) := by
  rw [State.rangerEvaluation_of_param hq he]
  cases chanDiff with
  | true => rfl
  | false =>
    have hout : within 9200 10800 ratio = false := by
      rcases h with h | h | h
      · exact absurd h Bool.false_ne_true
      · simp [within]; omega
      · simp [within]; omega
    rw [hout]
    rfl

/-- The frame of an evaluation. -/
theorem State.rangerEvaluation_touches (s : State) (chanDiff : Bool) (ratio tick t : Nat) :
    Touches [] [.iog, .chan] [.now, .resp, .out, .io, .rng] s ((s.begin t).rangerEvaluation chanDiff ratio tick) :=
  (Touches.begin s t (by decide)).kept (State.rangerEvaluation_kept (Kept.refl _ _ _) (by decide) (by decide))

/-- Settles O15. -/
theorem rangerEvaluations : Obligations.RangerEvaluations := by
  intro s q ratio crc tick t hq he
  have hevaluation (chanDiff : Bool) (hp : s.pw.phase ≠ .off) : exec (.rangerEvaluation chanDiff ratio tick t) s =
      .next ((s.begin t).rangerEvaluation chanDiff ratio tick) := congrArg Host.Outcome.next (if_pos (bne_iff_ne.mpr hp))
  refine ⟨fun hlo hhi hp => ⟨_, hevaluation false hp, ?_⟩, fun hp => ⟨_, hevaluation true hp, ?_⟩,
    fun hratio hp => ⟨_, hevaluation false hp, ?_⟩, fun hcrc => ⟨_, congrArg Host.Outcome.next (if_neg hcrc), ?_⟩,
    fun hcrc => ⟨_, congrArg Host.Outcome.next (if_pos hcrc), Touches.begin s t (by decide)⟩⟩
  · obtain ⟨⟨low, last, fails, hrng⟩, hpermits⟩ := State.rangerEvaluation_shows (s := s.begin t) hq he hlo hhi tick
    refine ⟨by rw [hrng]; rfl, by rw [hrng]; rfl, fun n hn => ?_, fun hlen i hi r hr htype hops hok => ?_,
      s.rangerEvaluation_touches false ratio tick t⟩
    · rw [hpermits n hn, hrng]
      rfl
    · rw [hrng]
      exact q_evalAll_rel hlen hr htype hops hok
  · have htouches := s.rangerEvaluation_touches true ratio tick t
    rw [State.rangerEvaluation_fault (s := s.begin t) hq he (.inl rfl) tick] at htouches ⊢
    obtain ⟨hstate, hcode, hlow⟩ := State.rangerFault_shows (s := (s.begin t).setRng s.rng.counted) he tick 0x10
    exact ⟨hstate, hcode, hlow, htouches⟩
  · have htouches := s.rangerEvaluation_touches false ratio tick t
    rw [State.rangerEvaluation_fault (s := s.begin t) hq he (.inr hratio) tick] at htouches ⊢
    obtain ⟨hstate, hcode, hlow⟩ := State.rangerFault_shows (s := (s.begin t).setRng s.rng.counted) he tick 0x11
    exact ⟨hstate, hcode, hlow, htouches⟩
  · obtain ⟨hstate, hcode, hlow⟩ := State.rangerFault_shows (s := s.begin t) he tick 0x12
    exact ⟨hstate, hcode, hlow, (Touches.begin s t (by decide)).kept
      (State.rangerFault_kept (Kept.refl _ _ _) (by decide) (by decide))⟩

end Sys2Proof.Machine

/-! ## The mirror of Ranger -/

namespace Sys2Proof.Machine

/-! ### What an image writes, from the head of the RNG_ registers upwards -/

/-- From s to u only registers of the mirror at address a and above have been written, beside records. -/
structure WritesFrom (a : Nat) (s u : State) : Prop where
  below : ∀ f : Fld, f.area = .rng → f.lo < 32 → f.addr < a → u.rd f = s.rd f
  rng : u.rng = s.rng
  io : u.io = s.io

variable {a : Nat} {s u : State}

theorem WritesFrom.refl (a : Nat) (s : State) : WritesFrom a s s := ⟨fun _ _ _ _ => rfl, rfl, rfl⟩

/-- A field of the mirror at an address below that of another is another field. -/
theorem Fld.key_ne_of_addr_lt {f g : Fld} (hlo : f.lo < 32) (h : f.addr < g.addr) : f.key ≠ g.key := by
  have hf := f.area.code_lt
  unfold Fld.key
  omega

theorem WritesFrom.wr (h : WritesFrom a s u) {g : Fld} (hg : a ≤ g.addr) (v : Nat) : WritesFrom a s (u.wr g v) :=
  ⟨fun f hf hlo hlt => (State.rd_wr_ne u (Fld.key_ne_of_addr_lt hlo (hlt.trans_le hg)) v).trans (h.below f hf hlo hlt),
    h.rng, h.io⟩

theorem WritesFrom.wrBit (h : WritesFrom a s u) {g : Fld} (hg : a ≤ g.addr) (i : Nat) (b : Bool) :
    WritesFrom a s (u.wrBit g i b) := by
  obtain ⟨hbelow, hrng, hio⟩ := h.wr hg (setBit (u.rd g) i b)
  exact ⟨hbelow, hrng, hio⟩

theorem WritesFrom.rngRecord (h : WritesFrom a s u) (obj w0 : Nat) (w1 : Option Nat) :
    WritesFrom a s (u.rngRecord obj w0 w1) := by
  have hk : Kept [.pend, .ingress] [.pw, .rcd] u (u.rngRecord obj w0 w1) :=
    State.rngRecord_kept (Kept.refl _ _ _) (by decide) (by decide)
  have hrng : (u.rngRecord obj w0 w1).rng = u.rng := hk.framed.2 .rng (by decide)
  have hio : (u.rngRecord obj w0 w1).io = u.io := hk.framed.2 .io (by decide)
  refine ⟨fun f hf hlo hlt => ?_, hrng.trans h.rng, hio.trans h.io⟩
  exact (hk.framed.1 f (by rw [hf]; decide)).trans (h.below f hf hlo hlt)

theorem WritesFrom.ite {c : Prop} [Decidable c] {w : State} (hu : WritesFrom a s u) (hw : WritesFrom a s w) :
    WritesFrom a s (if c then u else w) := by
  split <;> assumption

theorem WritesFrom.foldl (h : WritesFrom a s u) {l : List Nat} {f : State → Nat → State}
    (hf : ∀ w, WritesFrom a s w → ∀ n, WritesFrom a s (f w n)) : WritesFrom a s (l.foldl f u) :=
  List.foldlRecOn l f h fun w hw n _ => hf w hw n

theorem WritesFrom.mirrorLink (h : WritesFrom a s u) (ha : a ≤ 0x10700020) (c : Nat) (l : RLink) :
    WritesFrom a s (u.mirrorLink c l) := by
  have hreg (off : Nat) (hoff : 0x10700020 ≤ off) : a ≤ off + 0x4 * c := ha.trans (hoff.trans (Nat.le_add_right _ _))
  have hwritten := (((((((h.wrBit (g := RNG_CONN_FRESH) ha c (l.fresh && !l.flt)).wrBit (g := RNG_CONN_FLT) ha c
    l.flt).wr (g := RNG_CONNc_STAT_SIG c) (hreg _ (by decide)) (if l.fresh && !l.flt then l.sig else 0)).wr
    (g := RNG_CONNc_STAT_FRESH c) (hreg _ (by decide)) (b2n (l.fresh && !l.flt))).wr (g := RNG_CONNc_STAT_FLT c)
    (hreg _ (by decide)) (b2n l.flt)).wr (g := RNG_CONNc_STAT_LASTREJ c) (hreg _ (by decide)) l.lastRej).wr
    (g := RNG_CONNc_CNT_REJ c) (hreg _ (by decide)) l.rej).wr (g := RNG_CONNc_CNT_TMO c) (hreg _ (by decide)) l.tmo
  exact WritesFrom.ite (hwritten.rngRecord _ _ _) hwritten

theorem WritesFrom.mirrorInst (h : WritesFrom a s u) (ha : a ≤ 0x10700018) (i : Nat) (r : RInst) (e : REval) :
    WritesFrom a s (u.mirrorInst i r e) := by
  have hreg (off : Nat) (hoff : 0x10700018 ≤ off) : a ≤ off + 0x4 * i := ha.trans (hoff.trans (Nat.le_add_right _ _))
  have hwritten := (((((h.wrBit (g := RNG_QOUT) ha i e.q).wrBit (g := RNG_IFLT) (ha.trans (by decide)) i
    (e.flt != 0)).wr (g := RNG_INSTi_STAT_TYPE i) (hreg _ (by decide)) r.type).wr (g := RNG_INSTi_STAT_Q i)
    (hreg _ (by decide)) (b2n e.q)).wr (g := RNG_INSTi_STAT_FLT i) (hreg _ (by decide)) e.flt).wr
    (g := RNG_INSTi_VAL_VALUE i) (hreg _ (by decide)) e.val
  exact WritesFrom.ite (hwritten.rngRecord _ _ _) hwritten

theorem WritesFrom.mirrorPfail (h : WritesFrom a s u) (ha : a ≤ 0x107001A0) (n : Nat) :
    WritesFrom a s (u.mirrorPfail n) :=
  WritesFrom.ite h ((h.wrBit (g := RNG_PFAILj (n / 32)) (ha.trans (Nat.le_add_right _ _)) _ _).rngRecord _ _ _)

/-! ### The parts of an image -/

/-- Ranger's head registers, and the mirror as live. -/
def State.mirrorLive (s : State) : State := s.mirrorHead.wr RNG_STAT_LINK 1

/-- The permit registers, from the permit lanes. -/
def State.mirrorPermits (s : State) : State :=
  (List.range 6).foldl (fun s j => s.wr (RNG_PERMITj j) (s.io.permits / 2 ^ (32 * j))) s

/-- Ranger with an image more sent. -/
def State.imageSent (s : State) : State := s.setRng { s.rng with images := (s.now :: s.rng.images).take 257 }

/-- The permit registers take their words, whatever order they are written in. -/
theorem State.mirrorPermits_shows (s : State) :
    WritesFrom 0x10700180 s s.mirrorPermits ∧
      ∀ j, j < 6 → s.mirrorPermits.rd (RNG_PERMITj j) = s.io.permits / 2 ^ (32 * j) % 2 ^ 32 := by
  refine ⟨WritesFrom.foldl (WritesFrom.refl _ _) fun w hw j => hw.wr (Nat.le_add_right _ _) _, fun j hj => ?_⟩
  have hfold (l : List Nat) (u : State) (hio : u.io = s.io) (hj : j ∈ l ∨ u.rd (RNG_PERMITj j) =
      s.io.permits / 2 ^ (32 * j) % 2 ^ 32) :
      (l.foldl (fun s j => s.wr (RNG_PERMITj j) (s.io.permits / 2 ^ (32 * j))) u).rd (RNG_PERMITj j) =
        s.io.permits / 2 ^ (32 * j) % 2 ^ 32 := by
    induction l generalizing u with
    | nil => exact hj.resolve_left (List.not_mem_nil)
    | cons i l ih =>
      refine ih _ hio ?_
      by_cases hij : i = j
      · subst hij
        exact .inr (by rw [State.rd_wr_same, hio]; rfl)
      · refine hj.imp (fun hmem => (List.mem_cons.mp hmem).resolve_left (Ne.symm hij)) fun hrd => ?_
        rw [State.rd_wr_ne _ (by simp only [Fld.key, RNG_PERMITj]; omega), hrd]
  exact hfold _ s rfl (.inl (List.mem_range.mpr hj))

/-- What the head registers show of Ranger. -/
theorem State.mirrorLive_shows (s : State) :
    s.mirrorLive.rd RNG_STAT_LINK = 1 ∧ s.mirrorLive.rd RNG_STAT_STATE = s.rng.state % 2 ^ 4 ∧
      s.mirrorLive.rd RNG_STAT_AREA = s.rng.area % 2 ^ 2 ∧ s.mirrorLive.rd RNG_REASON_CODE = s.rng.code % 2 ^ 8 ∧
      s.mirrorLive.rd RNG_PCRC = s.rng.pcrc % 2 ^ 32 ∧ s.mirrorLive.rd RNG_EVCNT = s.rng.evcnt % 2 ^ 32 := by
  unfold State.mirrorLive State.mirrorHead
  dsimp only
  generalize s.rng.param = q
  cases q <;> simp (disch := decide) only [State.wrB_eq, State.rd_wr_ne, State.rd_wr_same] <;>
    exact ⟨rfl, rfl, rfl, rfl, rfl, rfl⟩

theorem State.mirrorLive_parts (s : State) : s.mirrorLive.rng = s.rng ∧ s.mirrorLive.io = s.io := by
  unfold State.mirrorLive State.mirrorHead
  dsimp only
  generalize s.rng.param = q
  cases q <;> simp

/-- The end of an image: the permit registers, then the readback bits. -/
theorem State.mirrorTail_shows (l : List Nat) {s m : State} (hm : WritesFrom 0x10700014 s m) :
    WritesFrom 0x10700014 s (l.foldl State.mirrorPfail m.mirrorPermits) ∧
      ∀ j, j < 6 → (l.foldl State.mirrorPfail m.mirrorPermits).rd (RNG_PERMITj j) =
        s.io.permits / 2 ^ (32 * j) % 2 ^ 32 := by
  obtain ⟨hpermits, hwords⟩ := m.mirrorPermits_shows
  have hpfail : WritesFrom 0x107001A0 m.mirrorPermits (l.foldl State.mirrorPfail m.mirrorPermits) :=
    WritesFrom.foldl (WritesFrom.refl _ _) fun w hw n => hw.mirrorPfail (by decide) n
  refine ⟨⟨fun f hf hlo hlt => ?_, ?_, ?_⟩, fun j hj => ?_⟩
  · rw [hpfail.below f hf hlo (hlt.trans (by decide)), hpermits.below f hf hlo (hlt.trans (by decide)),
      hm.below f hf hlo hlt]
  · rw [hpfail.rng, hpermits.rng, hm.rng]
  · rw [hpfail.io, hpermits.io, hm.io]
  · rw [hpfail.below (RNG_PERMITj j) rfl (Nat.zero_lt_succ 31) (by simp only [RNG_PERMITj]; omega), hwords j hj, hm.io]

/-- What an image leaves in the mirror and in Ranger. -/
theorem State.mirrorImage_shows (s : State) :
    WritesFrom 0x10700014 s.imageSent.mirrorLive s.mirrorImage ∧
      ∀ j, j < 6 → s.mirrorImage.rd (RNG_PERMITj j) = s.imageSent.mirrorLive.io.permits / 2 ^ (32 * j) % 2 ^ 32 := by
  have hper : WritesFrom 0x10700014 s.imageSent.mirrorLive
      (s.imageSent.mirrorLive.wr RNG_EVPER (meanPeriod s.imageSent.rng.images)) :=
    (WritesFrom.refl _ _).wr (by decide) _
  unfold State.mirrorImage
  generalize List.range 192 = l
  refine State.mirrorTail_shows l
    (WritesFrom.foldl (WritesFrom.foldl (WritesFrom.ite hper (hper.rngRecord _ _ _)) fun w hw c => ?_) fun w hw i => ?_)
  · dsimp only
    split
    · exact hw.mirrorLink (by decide) _ _
    · exact hw
  · dsimp only
    split
    · exact hw.mirrorInst (by decide) _ _ _
    · exact hw

/-! ### The commands -/

/-- A mirror without LINK is in no condition for an activation. -/
theorem State.condStep_fwu_of_link {s : State} (h : s.rd RNG_STAT_LINK = 0) :
    s.condStep.fwu = { s.fwu with condSince := none } := by
  have hconds : s.mirrorConds.all id = false := by
    simp [State.mirrorConds, State.flag, h]
  unfold State.condStep
  rw [hconds]
  rfl

/-- The mirror after its loss is found: no LINK, and an alarm record. -/
def State.mirrorDown (s : State) : State :=
  (s.wr RNG_STAT_LINK 0).record 2 8 0xFF 0xFFFF (some 0x10700000) (some 0x10700004)

theorem State.mirrorDown_shows (s : State) :
    s.mirrorDown.rd RNG_STAT_LINK = 0 ∧ s.mirrorDown.fwu = s.fwu ∧ Notes [] [(2, 8, 0xFF, 0xFFFF)] s s.mirrorDown := by
  refine ⟨?_, ?_, ?_⟩
  · exact (State.rd_record_code (f := RNG_STAT_LINK) (by decide) (by decide) ..).trans (State.rd_wr_same ..)
  · exact (State.record_kept (A := [.pend, .ingress]) (P := [.pw, .rcd]) (Kept.refl _ _ _) (by decide)
      (by decide)).framed.2 .fwu (by decide)
  · have hcleared : Reported [] [] s (s.wr RNG_STAT_LINK 0) :=
      (Reported.refl s).wr (f := RNG_STAT_LINK) (by decide) (by decide) (by decide) 0
    exact notes_of_reported (ds := [s.mirrorDown.hwRecord 2 8 0xFF 0xFFFF (some 0x10700000) (some 0x10700004)]) rfl
      fun hr => hcleared.recordSelf hr (by decide) (by decide) _ _ _ _

/-- Settles O16. -/
theorem rangerMirror : Obligations.RangerMirror := by
  intro s t hdie
  constructor
  · refine ⟨_, congrArg Host.Outcome.next (if_pos hdie), ?_⟩
    obtain ⟨hwritten, hpermits⟩ := (s.begin t).mirrorImage_shows
    obtain ⟨hlink, hstate, harea, hcode, hpcrc, hevcnt⟩ := (s.begin t).imageSent.mirrorLive_shows
    have hhead (f : Fld) (hf : f.area = .rng) (hlo : f.lo < 32) (hlt : f.addr < 0x10700014) :
        (s.begin t).mirrorImage.condStep.rd f = (s.begin t).imageSent.mirrorLive.rd f := hwritten.below f hf hlo hlt
    refine ⟨(hhead _ rfl (by decide) (by decide)).trans hlink, (hhead _ rfl (by decide) (by decide)).trans hstate,
      (hhead _ rfl (by decide) (by decide)).trans harea, (hhead _ rfl (by decide) (by decide)).trans hcode,
      (hhead _ rfl (by decide) (by decide)).trans hpcrc, (hhead _ rfl (by decide) (by decide)).trans hevcnt,
      fun j hj => (hpermits j hj).trans ?_, hwritten.rng.trans (s.begin t).imageSent.mirrorLive_parts.1, ?_⟩
    · rw [(s.begin t).imageSent.mirrorLive_parts.2]
      rfl
    · exact (Touches.begin s t (by decide)).kept
        (State.condStep_kept (State.mirrorImage_kept (Kept.refl _ _ _) (by decide) (by decide)) (by decide))
  · intro hlink himages
    have hlost : ((s.begin t).flag RNG_STAT_LINK && (s.begin t).dieRuns &&
        decide (((s.begin t).rng.images.head?.getD 0) + 100000 ≤ t)) = true := by
      have hflag : (s.begin t).flag RNG_STAT_LINK = true := beq_iff_eq.mpr hlink
      rw [hflag]
      exact (Bool.and_eq_true _ _).mpr ⟨hdie, decide_eq_true himages⟩
    obtain ⟨hrd, hfwu, hnotes⟩ := (s.begin t).mirrorDown_shows
    refine ⟨_, congrArg Host.Outcome.next (if_pos hlost), hrd, hnotes, ?_, ?_⟩
    · exact (State.condStep_fwu_of_link hrd).trans (by rw [hfwu]; rfl)
    · exact (((Touches.begin s t (by decide)).wrOf List.mem_cons_self 0).record (by decide) (by decide)
        _ _ _ _ _ _).kept (State.condStep_kept (Kept.refl _ _ _) (by decide))

end Sys2Proof.Machine

/-! ## Channels that follow their terms (R257, R258, R263) -/

namespace Sys2Proof.Machine

/-! ### What settling leaves as it was -/

/-- A channel whose switches have followed their terms: only what says how they move differs. -/
def Chan.Resettled (c d : Chan) : Prop :=
  d = { c with want := d.want, since := d.since, moved := d.moved, miss := d.miss, frozen := d.frozen }

theorem Chan.Resettled.refl (c : Chan) : c.Resettled c := rfl

theorem Chan.Resettled.trans {c d e : Chan} (h : c.Resettled d) (h' : d.Resettled e) : c.Resettled e := by
  unfold Chan.Resettled at *
  rw [h', h]

theorem Chan.Resettled.latch {c d : Chan} (h : c.Resettled d) : d.latch = c.latch := by
  unfold Chan.Resettled at h
  rw [h]

theorem Chan.Resettled.tripAt {c d : Chan} (h : c.Resettled d) : d.tripAt = c.tripAt := by
  unfold Chan.Resettled at h
  rw [h]

/-- The addresses of the registers that change where the channels in C follow their terms: PLSSLOT, the sums and PLSLAST
of the groups, STAT of the channels. -/
def settleAddr (C : Nat → Prop) (a : Nat) : Prop :=
  a = 0x10600004 ∨ (0x10600100 ≤ a ∧ a < 0x10600400 ∧ 0x18 ≤ a % 0x40) ∨ ∃ n, C n ∧ a = 0x10601008 + 0x20 * n

/-- From s to u only channels in C have followed their terms. -/
structure Settling (C : Nat → Prop) (s u : State) : Prop where
  regs : ∀ f : Fld, f.lo < 32 → ¬ settleAddr C f.addr → u.rd f = s.rd f
  hits : ∀ f : Fld, f.lo < 32 → ¬ settleAddr C f.addr → u.hit f = s.hit f
  own : ∀ m, (s.chan m).Resettled (u.chan m)
  others : ∀ m, ¬ C m → u.chan m = s.chan m
  groups : u.io.groups = s.io.groups
  permits : u.io.permits = s.io.permits
  now : u.now = s.now

/-- Registers at different addresses hold different fields. -/
theorem Fld.key_ne_of_addr_ne {f g : Fld} (hf : f.lo < 32) (hg : g.lo < 32) (h : f.addr ≠ g.addr) : f.key ≠ g.key := by
  have hcf := f.area.code_lt
  have hcg := g.area.code_lt
  unfold Fld.key
  omega

theorem State.hit_wr_ne (s : State) {f g : Fld} (h : g.key ≠ f.key) (v : Nat) : (s.wr f v).hit g = s.hit g :=
  tblGet_set_ne h _ _ _ _

theorem State.hit_note_ne (s : State) {f g : Fld} (h : g.key ≠ f.key) (m : Nat) : (s.note f m).hit g = s.hit g :=
  tblGet_set_ne h _ _ _ _

variable {C : Nat → Prop} {s u w : State} {n : Nat}

theorem Settling.refl (C : Nat → Prop) (s : State) : Settling C s s :=
  ⟨fun _ _ _ => rfl, fun _ _ _ => rfl, fun _ => rfl, fun _ _ => rfl, rfl, rfl, rfl⟩

theorem Settling.trans (h : Settling C s u) (h' : Settling C u w) : Settling C s w :=
  ⟨fun f hlo hf => (h'.regs f hlo hf).trans (h.regs f hlo hf), fun f hlo hf => (h'.hits f hlo hf).trans (h.hits f hlo hf),
    fun m => (h.own m).trans (h'.own m), fun m hm => (h'.others m hm).trans (h.others m hm), h'.groups.trans h.groups,
    h'.permits.trans h.permits, h'.now.trans h.now⟩

theorem settleAddr.mono {D : Nat → Prop} (hCD : ∀ n, C n → D n) {a : Nat} (h : settleAddr C a) : settleAddr D a :=
  h.imp_right fun h => h.imp_right fun ⟨n, hn, ha⟩ => ⟨n, hCD n hn, ha⟩

theorem Settling.mono {D : Nat → Prop} (h : Settling C s u) (hCD : ∀ n, C n → D n) : Settling D s u :=
  ⟨fun f hlo hf => h.regs f hlo fun ha => hf (ha.mono hCD), fun f hlo hf => h.hits f hlo fun ha => hf (ha.mono hCD),
    h.own, fun m hm => h.others m fun hc => hm (hCD m hc), h.groups, h.permits, h.now⟩

theorem Settling.ite {c : Prop} [Decidable c] (hu : Settling C s u) (hw : Settling C s w) :
    Settling C s (if c then u else w) := by split <;> assumption

theorem Settling.foldl {l : List Nat} {f : State → Nat → State} (h : Settling C s u)
    (hf : ∀ w, Settling C s w → ∀ n ∈ l, Settling C s (f w n)) : Settling C s (l.foldl f u) :=
  List.foldlRecOn l f h fun w hw n hn => hf w hw n hn

theorem Settling.wr (h : Settling C s u) {g : Fld} (hlo : g.lo < 32) (ha : settleAddr C g.addr) (v : Nat) :
    Settling C s (u.wr g v) := by
  have hkey (f : Fld) (hf : f.lo < 32) (hn : ¬ settleAddr C f.addr) : f.key ≠ g.key :=
    Fld.key_ne_of_addr_ne hf hlo fun e => hn (e ▸ ha)
  exact ⟨fun f hf hn => (State.rd_wr_ne u (hkey f hf hn) v).trans (h.regs f hf hn),
    fun f hf hn => (State.hit_wr_ne u (hkey f hf hn) v).trans (h.hits f hf hn), h.own, h.others, h.groups, h.permits, h.now⟩

theorem Settling.wrB (h : Settling C s u) {g : Fld} (hlo : g.lo < 32) (ha : settleAddr C g.addr) (b : Bool) :
    Settling C s (u.wrB g b) := h.wr hlo ha _

theorem Settling.wrBit (h : Settling C s u) {g : Fld} (hlo : g.lo < 32) (ha : settleAddr C g.addr) (i : Nat) (b : Bool) :
    Settling C s (u.wrBit g i b) := by
  have hwr := h.wr hlo ha (setBit (u.rd g) i b)
  exact ⟨hwr.regs, fun f hf hn => (State.hit_note_ne _ (Fld.key_ne_of_addr_ne hf hlo fun e => hn (e ▸ ha)) _).trans
    (hwr.hits f hf hn), hwr.own, hwr.others, hwr.groups, hwr.permits, hwr.now⟩

theorem Settling.emit (h : Settling C s u) (e : Emission) : Settling C s (u.emit e) :=
  ⟨h.regs, h.hits, h.own, h.others, h.groups, h.permits, h.now⟩

theorem Settling.setChan (h : Settling C s u) (hn : C n) {c : Chan} (hc : (u.chan n).Resettled c) :
    Settling C s (u.setChan n c) := by
  refine ⟨h.regs, h.hits, fun m => ?_, fun m hm => ?_, h.groups, h.permits, h.now⟩
  · by_cases hmn : m = n
    · subst hmn
      rw [State.chan_setChan_same]
      exact (h.own m).trans hc
    · rw [State.chan_setChan_ne _ hmn]
      exact h.own m
  · rw [State.chan_setChan_ne _ fun (e : m = n) => hm (e ▸ hn)]
    exact h.others m hm

theorem Settling.setPulse (h : Settling C s u) (p : Option Pulse) :
    Settling C s { u with io := { u.io with pulse := p } } :=
  ⟨h.regs, h.hits, h.own, h.others, h.groups, h.permits, h.now⟩

/-! ### The addresses of what settling writes -/

theorem settleAddr_slot (C : Nat → Prop) : settleAddr C 0x10600004 := .inl rfl

theorem settleAddr_stat (hn : C n) : settleAddr C (0x10601008 + 0x20 * n) := .inr (.inr ⟨n, hn, rfl⟩)

theorem settleAddr_group (C : Nat → Prop) (hn : n < 192) {off : Nat} (hlo : 0x10600118 ≤ off) (hhi : off < 0x10600140) :
    settleAddr C (off + 0x40 * (n / 16)) := by
  refine .inr (.inl ⟨by omega, by omega, by omega⟩)

theorem not_settleAddr_groupStat {g : Nat} (hg : g < 12) {off : Nat} (hlo : 0x10600100 ≤ off) (hhi : off < 0x10600118) :
    ¬ settleAddr C (off + 0x40 * g) := by
  rintro (h | ⟨-, -, h⟩ | ⟨n, -, h⟩) <;> omega

theorem not_settleAddr_chan {n : Nat} {off : Nat} (hlo : 0x10601000 ≤ off) (hhi : off < 0x10601020) (h8 : off ≠ 0x10601008) :
    ¬ settleAddr C (off + 0x20 * n) := by
  rintro (h | ⟨-, h, -⟩ | ⟨m, -, h⟩) <;> omega

theorem not_settleAddr_stat (hn : ¬ C n) : ¬ settleAddr C (0x10601008 + 0x20 * n) := by
  rintro (h | ⟨-, h, -⟩ | ⟨m, hm, h⟩)
  · omega
  · omega
  · exact hn (by rwa [show n = m by omega])

/-! ### The stages of settling one channel -/

theorem Settling.syncChan (h : Settling C s u) (hc : C n) (hn : n < 192) : Settling C s (u.syncChan n) := by
  have hlo {k : Nat} (hk : Nat.ble (k + 1) 32 = true) : k < 32 := Nat.le_of_ble_eq_true hk
  have hstat := settleAddr_stat hc
  have hflt : settleAddr C (0x10600118 + 0x40 * (n / 16)) := settleAddr_group C hn (by decide) (by decide)
  have hlat : settleAddr C (0x1060011C + 0x40 * (n / 16)) := settleAddr_group C hn (by decide) (by decide)
  exact ((((((h.wrB (g := IOG_CHn_STAT_INVALID n) (hlo rfl) hstat _).wrB
    (g := IOG_CHn_STAT_SUSPECT n) (hlo rfl) hstat _).wrB (g := IOG_CHn_STAT_FAULT n) (hlo rfl) hstat _).wrB
    (g := IOG_CHn_STAT_LATCHED n) (hlo rfl) hstat _).wrB (g := IOG_CHn_STAT_PERMIT n) (hlo rfl) hstat _).wrBit
    (g := IOG_Gg_FLTSUM_FAULT (n / 16)) (hlo rfl) hflt _ _).wrBit (g := IOG_Gg_LATSUM_LATCHED (n / 16)) (hlo rfl) hlat _ _

theorem Settling.pulseEnd (h : Settling C s u) (hp : ∀ p ∈ u.io.pulse, C p.ch ∧ p.ch < 192) :
    Settling C s u.pulseEnd := by
  have hlo {k : Nat} (hk : Nat.ble (k + 1) 32 = true) : k < 32 := Nat.le_of_ble_eq_true hk
  unfold State.pulseEnd
  split
  · exact h
  case h_2 p hpulse =>
    obtain ⟨hc, hch⟩ := hp p hpulse
    have hlast : settleAddr C (0x10600120 + 0x40 * (p.ch / 16)) := settleAddr_group C hch (by decide) (by decide)
    have hslot := ((h.setPulse none).wr (g := IOG_PLSSLOT_CHAN) (hlo rfl) (settleAddr_slot C) 0xFF).wr
      (g := IOG_CHn_STAT_PULSING p.ch) (hlo rfl) (settleAddr_stat hc) 0
    have hunjudged := (((hslot.wr (g := IOG_Gg_PLSLAST_CHAN (p.ch / 16)) (hlo rfl) hlast (p.ch % 16)).wrB
      (g := IOG_Gg_PLSLAST_SW (p.ch / 16)) (hlo rfl) hlast p.permit).wr (g := IOG_Gg_PLSLAST_PASS (p.ch / 16)) (hlo rfl)
      hlast 0).wr (g := IOG_Gg_PLSLAST_JUDGED (p.ch / 16)) (hlo rfl) hlast 0
    exact Settling.ite ((Settling.ite hslot hunjudged).setChan hc rfl) (Settling.ite hslot hunjudged)

/-- The command lane follows its terms, and a change leaves the module. -/
def State.settleLane (s : State) (n : Nat) : State :=
  if s.decideLane n = s.flag (IOG_CHn_STAT_CMDLANE n) then s
  else (s.wrB (IOG_CHn_STAT_CMDLANE n) (s.decideLane n)).emit (.command n (s.decideLane n))

/-- Whether command and permit call for current. -/
def State.wantsCurrent (s : State) (n : Nat) : Bool :=
  s.decideLane n && ((s.settleLane n).chMode n == modeOutput || bitAt (s.settleLane n).io.permits n)

/-- An off-pulse of a channel that is to carry no current ends. -/
def State.dropPulse (s : State) (n : Nat) (want : Bool) : State :=
  match s.io.pulse with
  | some p => if p.ch = n ∧ want = false then s.pulseEnd else s
  | none => s

/-- Whether an off-pulse holds a switch of the channel open. -/
def State.pulseOpens (s : State) (n : Nat) : Bool :=
  match s.io.pulse with
  | some p => p.ch == n && p.opened
  | none => false

/-- The channel with what command and permit call for. -/
def State.wantedChan (s : State) (n : Nat) (want : Bool) : Chan :=
  if want && !(s.chan n).want then { s.chan n with want := true, since := s.now } else { s.chan n with want := want }

/-- The switches follow. -/
def State.settleSwitch (s : State) (n : Nat) (want : Bool) : State :=
  if (want && !s.pulseOpens n) = s.flag (IOG_CHn_STAT_SWON n) then s.setChan n (s.wantedChan n want)
  else (s.setChan n { s.wantedChan n want with moved := s.now, miss := 0 }).wrB (IOG_CHn_STAT_SWON n)
    (want && !s.pulseOpens n)

theorem State.settleChan_eq (s : State) (n : Nat) : s.settleChan n =
    ((((s.settleLane n).dropPulse n (s.wantsCurrent n)).settleSwitch n (s.wantsCurrent n)).syncChan n) := rfl

theorem Settling.settleLane (h : Settling C s u) (hc : C n) : Settling C s (u.settleLane n) :=
  Settling.ite h ((h.wrB (g := IOG_CHn_STAT_CMDLANE n) (Nat.le_of_ble_eq_true rfl) (settleAddr_stat hc) _).emit _)

theorem Settling.dropPulse (h : Settling C s u) (hc : C n) (hn : n < 192) (want : Bool) :
    Settling C s (u.dropPulse n want) := by
  unfold State.dropPulse
  split
  case h_1 p hp =>
    split
    case isTrue hdrop =>
      obtain ⟨hch, -⟩ := hdrop
      refine h.pulseEnd fun q hq => ?_
      obtain rfl : p = q := Option.some_inj.mp (hp.symm.trans hq)
      rw [hch]
      exact ⟨hc, hn⟩
    · exact h
  · exact h

theorem State.wantedChan_resettled (s : State) (n : Nat) (want : Bool) : (s.chan n).Resettled (s.wantedChan n want) := by
  unfold State.wantedChan
  split <;> rfl

theorem Settling.settleSwitch (h : Settling C s u) (hc : C n) (want : Bool) : Settling C s (u.settleSwitch n want) := by
  refine Settling.ite (h.setChan hc (u.wantedChan_resettled n want)) (Settling.wrB (h.setChan hc ?_)
    (g := IOG_CHn_STAT_SWON n) (Nat.le_of_ble_eq_true rfl) (settleAddr_stat hc) _)
  exact (u.wantedChan_resettled n want).trans rfl

theorem Settling.settleChan (h : Settling C s u) (hc : C n) (hn : n < 192) : Settling C s (u.settleChan n) := by
  rw [State.settleChan_eq]
  exact (((h.settleLane hc).dropPulse hc hn _).settleSwitch hc _).syncChan hc hn

theorem Settling.settleGroup (h : Settling C s u) {g : Nat} (hg : g < 12) (hc : ∀ n, n / 16 = g → C n) :
    Settling C s (u.settleGroup g) := by
  refine h.foldl fun w hw n hn => ?_
  obtain ⟨k, hk, rfl⟩ := List.mem_map.mp hn
  rw [List.mem_range] at hk
  exact hw.settleChan (hc _ (by omega)) (by omega)

/-! ### What settling shows -/

theorem State.flag_wrB_same (s : State) {f : Fld} (h : 0 < f.w) (b : Bool) : (s.wrB f b).flag f = b := by
  unfold State.flag
  rw [State.rd_wrB_same s f b h]
  cases b <;> rfl

theorem State.flag_congr {f : Fld} (h : u.rd f = s.rd f) : u.flag f = s.flag f := by
  unfold State.flag
  rw [h]

/-- The fields that the end of an off-pulse of channel n writes. -/
def pulseEndFlds (n : Nat) : List Fld :=
  [IOG_PLSSLOT_CHAN, IOG_CHn_STAT_PULSING n, IOG_Gg_PLSLAST_CHAN (n / 16), IOG_Gg_PLSLAST_SW (n / 16),
    IOG_Gg_PLSLAST_PASS (n / 16), IOG_Gg_PLSLAST_JUDGED (n / 16)]

theorem State.pulseEnd_touches {p : Pulse} (hp : s.io.pulse = some p) :
    Touches (pulseEndFlds p.ch) [] [.io] s s.pulseEnd := by
  unfold State.pulseEnd
  rw [hp]
  have hio (u : State) (x : FieldIo) (h : Touches (pulseEndFlds p.ch) [] [.io] s u) :
      Touches (pulseEndFlds p.ch) [] [.io] s { u with io := x } :=
    h.parts' rfl fun q hq => by cases q <;> first | rfl | exact absurd hq (by decide)
  have hslot := ((hio s { s.io with pulse := none } (Touches.refl _ _ _ s)).wrOf (f := IOG_PLSSLOT_CHAN)
    (by simp [pulseEndFlds]) 0xFF).wrOf (f := IOG_CHn_STAT_PULSING p.ch) (by simp [pulseEndFlds]) 0
  have hunjudged := (((hslot.wrOf (f := IOG_Gg_PLSLAST_CHAN (p.ch / 16)) (by simp [pulseEndFlds]) (p.ch % 16)).wrB
    (f := IOG_Gg_PLSLAST_SW (p.ch / 16)) (by simp [pulseEndFlds]) p.permit).wrOf (f := IOG_Gg_PLSLAST_PASS (p.ch / 16))
    (by simp [pulseEndFlds]) 0).wrOf (f := IOG_Gg_PLSLAST_JUDGED (p.ch / 16)) (by simp [pulseEndFlds]) 0
  dsimp only
  split <;> split
  · exact hio _ _ hslot
  · exact hio _ _ hunjudged
  · exact hslot
  · exact hunjudged

theorem State.pulse_pulseEnd (s : State) : s.pulseEnd.io.pulse = none := by
  unfold State.pulseEnd
  split
  · assumption
  · dsimp only
    split <;> split <;> rfl

theorem State.rd_pulseEnd {p : Pulse} (hp : s.io.pulse = some p) {f : Fld}
    (hf : ∀ g ∈ pulseEndFlds p.ch, f.key ≠ g.key) : s.pulseEnd.rd f = s.rd f := by
  refine (State.pulseEnd_touches hp).regs f (fun hmem => ?_) List.not_mem_nil
  obtain ⟨g, hg, hkey⟩ := List.mem_map.mp hmem
  exact hf g hg hkey.symm

/-- The lowest nine bits of STAT of a channel stand while its off-pulse ends. -/
theorem State.rd_dropPulse {lo w rst : Nat} (hlo : lo < 9) (hn : n < 192) (want : Bool) :
    (s.dropPulse n want).rd ⟨0x10601008 + 0x20 * n, lo, w, rst, .chan⟩ =
      s.rd ⟨0x10601008 + 0x20 * n, lo, w, rst, .chan⟩ := by
  unfold State.dropPulse
  split
  case h_1 p hp =>
    split
    case isTrue hdrop =>
      obtain ⟨rfl, -⟩ := hdrop
      refine State.rd_pulseEnd hp fun g hg => ?_
      simp only [pulseEndFlds, List.mem_cons, List.not_mem_nil, or_false] at hg
      rcases hg with rfl | rfl | rfl | rfl | rfl | rfl <;>
        simp only [Fld.key, Area.code, IOG_PLSSLOT_CHAN, IOG_CHn_STAT_PULSING, IOG_Gg_PLSLAST_CHAN, IOG_Gg_PLSLAST_SW,
          IOG_Gg_PLSLAST_PASS, IOG_Gg_PLSLAST_JUDGED] <;> omega
    · rfl
  · rfl

/-- The fields that the status of channel n writes. -/
def syncFlds (n : Nat) : List Fld :=
  [IOG_CHn_STAT_INVALID n, IOG_CHn_STAT_SUSPECT n, IOG_CHn_STAT_FAULT n, IOG_CHn_STAT_LATCHED n, IOG_CHn_STAT_PERMIT n,
    IOG_Gg_FLTSUM_FAULT (n / 16), IOG_Gg_LATSUM_LATCHED (n / 16)]

theorem State.syncChan_touches (s : State) (n : Nat) : Touches (syncFlds n) [] [] s (s.syncChan n) := by
  unfold State.syncChan
  exact (((((((Touches.refl _ _ _ s).wrB (by simp [syncFlds]) _).wrB (by simp [syncFlds]) _).wrB (by simp [syncFlds])
    _).wrB (by simp [syncFlds]) _).wrB (by simp [syncFlds]) _).wrBit (by simp [syncFlds]) _ _).wrBit (by simp [syncFlds]) _ _

/-- The two lanes of a channel stand where its status follows. -/
theorem State.rd_syncChan {f : Fld} (hf : ∀ g ∈ syncFlds n, f.key ≠ g.key) : (s.syncChan n).rd f = s.rd f := by
  refine (s.syncChan_touches n).regs f (fun hmem => ?_) List.not_mem_nil
  obtain ⟨g, hg, hkey⟩ := List.mem_map.mp hmem
  exact hf g hg hkey.symm

theorem State.io_syncChan (s : State) (n : Nat) : (s.syncChan n).io = s.io :=
  (s.syncChan_touches n).parts .io List.not_mem_nil

theorem State.chan_syncChan (s : State) (n m : Nat) : (s.syncChan n).chan m = s.chan m := by
  unfold State.chan
  rw [State.io_syncChan]

theorem key_ne_syncFlds {lo w rst : Nat} (hlo : lo < 5) (h3 : lo ≠ 3) :
    ∀ g ∈ syncFlds n, (⟨0x10601008 + 0x20 * n, lo, w, rst, .chan⟩ : Fld).key ≠ g.key := by
  intro g hg
  simp only [syncFlds, List.mem_cons, List.not_mem_nil, or_false] at hg
  rcases hg with rfl | rfl | rfl | rfl | rfl | rfl | rfl <;>
    simp only [Fld.key, Area.code, IOG_CHn_STAT_INVALID, IOG_CHn_STAT_SUSPECT, IOG_CHn_STAT_FAULT, IOG_CHn_STAT_LATCHED,
      IOG_CHn_STAT_PERMIT, IOG_Gg_FLTSUM_FAULT, IOG_Gg_LATSUM_LATCHED] <;> omega

/-- What decides LATCHED and FAULT of a channel. -/
theorem State.chLatched_congr (hc : (u.chan n).latch = (s.chan n).latch) (hg : u.io.groups = s.io.groups)
    (hm : u.rd (IOG_CHn_CFG_MODE n) = s.rd (IOG_CHn_CFG_MODE n)) : u.chLatched n = s.chLatched n := by
  unfold State.chLatched State.isOutput State.chMode State.group
  rw [hc, hg, hm]

theorem State.chFault_eq (s : State) (n : Nat) : s.chFault n = (List.range 8).any fun i => s.flag (flagFld n i) := by
  simp only [State.chFault, Bool.or_assoc, List.range, List.range.loop, List.any_cons, List.any_nil, Bool.or_false]
  rfl

theorem State.chFault_congr (h : ∀ i, i < 8 → u.rd (flagFld n i) = s.rd (flagFld n i)) : u.chFault n = s.chFault n := by
  rw [State.chFault_eq, State.chFault_eq]
  rw [Bool.eq_iff_iff, List.any_eq_true, List.any_eq_true]
  refine exists_congr fun i => and_congr_right fun hi => ?_
  rw [State.flag_congr (h i (List.mem_range.mp hi))]

/-- A channel with one of its eight flags set is at fault. -/
theorem State.chFault_of_flag {i : Nat} (hi : i < 8) (h : s.rd (flagFld n i) = 1) : s.chFault n = true := by
  rw [State.chFault_eq, List.any_eq_true]
  exact ⟨i, List.mem_range.mpr hi, beq_iff_eq.mpr h⟩

theorem State.chLatched_of_latch (h : (s.chan n).latch ≠ 0) : s.chLatched n = true := by
  simp [State.chLatched, h]

theorem State.decideLane_of_latch (h : (s.chan n).latch ≠ 0) : s.decideLane n = false := by
  simp [State.decideLane, State.chLatched_of_latch h]

/-- STAT of a channel holds none of its flags and settings. -/
theorem State.rd_chan_wrStat (s : State) {off lo w rst : Nat} (h8 : off ≠ 0x10601008) (hlo : lo < 32) {g : Fld}
    (hg : g.lo < 32) (ha : g.addr = 0x10601008 + 0x20 * n) (v : Nat) :
    (s.wr g v).rd ⟨off + 0x20 * n, lo, w, rst, .chan⟩ = s.rd ⟨off + 0x20 * n, lo, w, rst, .chan⟩ :=
  State.rd_wr_ne s (Fld.key_ne_of_addr_ne hlo hg (by simp only [ha]; omega)) v

theorem State.syncChan_shows (s : State) (n : Nat) :
    (s.syncChan n).flag (IOG_CHn_STAT_FAULT n) = s.chFault n ∧
      (s.syncChan n).flag (IOG_CHn_STAT_LATCHED n) = s.chLatched n := by
  have hle {k : Nat} (hk : Nat.ble (k + 1) 32 = true) : k < 32 := Nat.le_of_ble_eq_true hk
  let u := (s.wrB (IOG_CHn_STAT_INVALID n) (s.chInvalid n)).wrB (IOG_CHn_STAT_SUSPECT n) (s.chSuspect n)
  have hfault : u.chFault n = s.chFault n := State.chFault_congr fun i hi =>
    (State.rd_chan_wrStat _ (by decide) (by omega) (hle rfl) rfl _).trans
      (State.rd_chan_wrStat _ (by decide) (by omega) (hle rfl) rfl _)
  have hlatched : u.chLatched n = s.chLatched n := State.chLatched_congr rfl rfl
    ((State.rd_chan_wrStat _ (by decide) (by omega) (hle rfl) rfl _).trans
      (State.rd_chan_wrStat _ (by decide) (by omega) (hle rfl) rfl _))
  have hbit (b : Bool) : (b2n b % 2 ^ 1 == 1) = b := by cases b <;> rfl
  have hrd : (s.syncChan n).rd (IOG_CHn_STAT_FAULT n) = b2n (u.chFault n) % 2 ^ 1 ∧
      (s.syncChan n).rd (IOG_CHn_STAT_LATCHED n) = b2n (u.chLatched n) % 2 ^ 1 := by
    unfold State.syncChan
    simp (disch := first | (simp only [Fld.key, Area.code, IOG_CHn_STAT_FAULT, IOG_CHn_STAT_LATCHED, IOG_CHn_STAT_PERMIT, IOG_Gg_FLTSUM_FAULT, IOG_Gg_LATSUM_LATCHED] <;> omega) | fail) only [State.wrBit, State.note_rd, State.wrB_eq, State.rd_wr_ne, State.rd_wr_same]
    exact ⟨rfl, rfl⟩
  simp only [State.flag, hrd.1, hrd.2, hfault, hlatched, hbit, and_self]

theorem State.flag_settleLane (s : State) (n : Nat) :
    (s.settleLane n).flag (IOG_CHn_STAT_CMDLANE n) = s.decideLane n := by
  unfold State.settleLane
  split
  · exact Eq.symm ‹_›
  · exact State.flag_wrB_same s (f := IOG_CHn_STAT_CMDLANE n) Nat.one_pos _

theorem State.wantedChan_want (s : State) (n : Nat) (want : Bool) : (s.wantedChan n want).want = want := by
  unfold State.wantedChan
  split
  · exact ((Bool.and_eq_true _ _).mp ‹_›).1.symm
  · rfl

theorem State.settleSwitch_shows (s : State) (n : Nat) (want : Bool) :
    (s.settleSwitch n want).rd (IOG_CHn_STAT_CMDLANE n) = s.rd (IOG_CHn_STAT_CMDLANE n) ∧
      (s.settleSwitch n want).flag (IOG_CHn_STAT_SWON n) = (want && !s.pulseOpens n) ∧
      ((s.settleSwitch n want).chan n).want = want ∧ (s.settleSwitch n want).io.pulse = s.io.pulse := by
  unfold State.settleSwitch
  split
  case isTrue h => exact ⟨rfl, h.symm, (congrArg Chan.want (State.chan_setChan_same ..)).trans (s.wantedChan_want n want), rfl⟩
  case isFalse h =>
    refine ⟨State.rd_wr_ne _ ?_ _, State.flag_wrB_same _ (f := IOG_CHn_STAT_SWON n) Nat.one_pos _,
      (congrArg Chan.want (State.chan_setChan_same ..)).trans (s.wantedChan_want n want), rfl⟩
    simp only [Fld.key, IOG_CHn_STAT_CMDLANE, IOG_CHn_STAT_SWON]
    omega

/-- The lane, the switch and the sums of a settled channel. -/
theorem State.settleChan_shows (s : State) (hn : n < 192) :
    (s.settleChan n).flag (IOG_CHn_STAT_CMDLANE n) = s.decideLane n ∧
    (s.settleChan n).flag (IOG_CHn_STAT_SWON n) =
      (s.wantsCurrent n && !((s.settleLane n).dropPulse n (s.wantsCurrent n)).pulseOpens n) ∧
    ((s.settleChan n).chan n).want = s.wantsCurrent n ∧
    (s.settleChan n).io.pulse = ((s.settleLane n).dropPulse n (s.wantsCurrent n)).io.pulse := by
  rw [State.settleChan_eq]
  obtain ⟨hlane, hswitch, hwant, hpulse⟩ :=
    ((s.settleLane n).dropPulse n (s.wantsCurrent n)).settleSwitch_shows n (s.wantsCurrent n)
  refine ⟨?_, ?_, by rw [State.chan_syncChan, hwant], by rw [State.io_syncChan, hpulse]⟩
  · rw [← s.flag_settleLane n]
    exact State.flag_congr ((State.rd_syncChan (key_ne_syncFlds (by decide) (by decide))).trans
      (hlane.trans (State.rd_dropPulse (by decide) hn _)))
  · exact (State.flag_congr (State.rd_syncChan (key_ne_syncFlds (by decide) (by decide)))).trans hswitch

/-- FAULT and LATCHED of a settled channel. -/
theorem State.settleChan_sums (s : State) (hn : n < 192) :
    (s.settleChan n).flag (IOG_CHn_STAT_FAULT n) = s.chFault n ∧
      (s.settleChan n).flag (IOG_CHn_STAT_LATCHED n) = s.chLatched n := by
  have hrun : Settling (fun m => m = n) s (((s.settleLane n).dropPulse n (s.wantsCurrent n)).settleSwitch n (s.wantsCurrent n)) :=
    (((Settling.refl (fun m => m = n) s).settleLane rfl).dropPulse rfl hn _).settleSwitch rfl _
  rw [State.settleChan_eq]
  obtain ⟨hfault, hlatched⟩ := State.syncChan_shows
    (((s.settleLane n).dropPulse n (s.wantsCurrent n)).settleSwitch n (s.wantsCurrent n)) n
  rw [hfault, hlatched]
  exact ⟨State.chFault_congr fun i hi => hrun.regs _ (by simp only [flagFld]; omega)
      (not_settleAddr_chan (by decide) (by decide) (by decide)),
    State.chLatched_congr ((hrun.own n).latch) hrun.groups
      (hrun.regs _ (Nat.zero_lt_succ 31) (not_settleAddr_chan (by decide) (by decide) (by decide)))⟩

/-- A channel whose lane is low carries no current. -/
theorem State.settleChan_low (s : State) (hn : n < 192) (h : s.decideLane n = false) :
    (s.settleChan n).flag (IOG_CHn_STAT_CMDLANE n) = false ∧ (s.settleChan n).flag (IOG_CHn_STAT_SWON n) = false := by
  obtain ⟨hlane, hswitch, -, -⟩ := s.settleChan_shows hn
  have hwant : s.wantsCurrent n = false := by simp [State.wantsCurrent, h]
  exact ⟨hlane.trans h, by rw [hswitch, hwant]; rfl⟩

end Sys2Proof.Machine

/-! ## Counters, gates and the function reset of a group (R252 to R254, R272) -/

namespace Sys2Proof.Machine

variable {fs : List Fld} {A : List Area} {P : List Part} {s u : State}

theorem Touches.setChan (h : Touches fs A P s u) (hP : .io ∈ P) (n : Nat) (c : Chan) : Touches fs A P s (u.setChan n c) :=
  h.parts' rfl fun q hq => by cases q <;> first | rfl | exact absurd hP hq

/-- One channel set, and the others as they were. -/
theorem State.setChan_only (s : State) (n : Nat) (c : Chan) :
    (s.setChan n c).chan n = c ∧ ∀ m, m ≠ n → (s.setChan n c).chan m = s.chan m :=
  ⟨State.chan_setChan_same .., fun _ hm => State.chan_setChan_ne s hm c⟩

/-! ### Counter edges -/

section
variable {n : Nat} (hactive : s.io.active = true) (hreset : (s.group (n / 16)).resetting = false)
  (hsup : s.supply (n / 16) ≠ supUnpowered)
include hactive hreset hsup

/-- An edge of a plain counter, by EDGE. -/
theorem State.counterEdge_single (hmode : s.chMode n = modeCounter) (hb : s.quadB n = false)
    (hquad : s.rd (IOG_CHn_CFG_QUAD n) = 0) (level both : Bool) :
    s.counterEdge n level both = s.setChan n { s.chan n with
      level := level
      count := if (if s.rd (IOG_CHn_CFG_EDGE n) = 0 then level else if s.rd (IOG_CHn_CFG_EDGE n) = 1 then !level else true)
        then ((s.chan n).count + 1) % 2 ^ 32 else (s.chan n).count } := by
  have hflag : s.flag (IOG_CHn_CFG_QUAD n) = false := beq_eq_false_iff_ne.mpr (by rw [hquad]; decide)
  unfold State.counterEdge
  simp only [hactive, hreset, beq_eq_false_iff_ne.mpr hsup, Bool.not_true, Bool.false_eq_true, if_false, Bool.or_self,
    hmode, if_true, hb, hflag]
  generalize s.rd (IOG_CHn_CFG_EDGE n) = edge
  match edge with
  | 0 => rfl
  | 1 => rfl
  | _ + 2 => rfl

/-- An edge of channel A of a quadrature pair. -/
theorem State.counterEdge_quad (hmode : s.chMode n = modeCounter) (hb : s.quadB n = false)
    (hquad : s.rd (IOG_CHn_CFG_QUAD n) = 1) (level both : Bool) :
    s.counterEdge n level both = s.quadEdge n false level both := by
  have hflag : s.flag (IOG_CHn_CFG_QUAD n) = true := beq_iff_eq.mpr hquad
  unfold State.counterEdge
  simp only [hactive, hreset, beq_eq_false_iff_ne.mpr hsup, Bool.not_true, Bool.false_eq_true, if_false, Bool.or_self,
    hmode, if_true, hb, hflag]

/-- A rising edge of a frequency channel without a gate opens one. -/
theorem State.counterEdge_gate (hmode : s.chMode n = modeFrequency) (hgate : (s.chan n).gate = none) (both : Bool) :
    ∃ c, s.counterEdge n true both = (s.setChan n c).setChan n
      { s.chan n with level := true, gate := some ⟨s.now / 10 * 10, 0, s.now / 10 * 10⟩ } := by
  refine ⟨{ s.chan n with level := true }, ?_⟩
  unfold State.counterEdge
  simp only [hactive, hreset, beq_eq_false_iff_ne.mpr hsup, Bool.not_true, Bool.false_eq_true, if_false, Bool.or_self,
    hmode, if_true, State.gateEdge, State.chan_setChan_same, hgate]
  rfl

end

/-- What an edge of channel A leaves in the pair. -/
theorem State.quadEdge_shows (s : State) (a : Nat) (level : Bool) :
    let up := level != (s.chan (a + 1)).level
    let u := s.quadEdge a false level false
    u.chan a = { s.chan a with level := level, count := ((s.chan a).count + (if up then 1 else 2 ^ 32 - 1)) % 2 ^ 32 } ∧
    u.chan (a + 1) = { s.chan (a + 1) with down := !up } ∧ (∀ m, m ≠ a → m ≠ a + 1 → u.chan m = s.chan m) ∧
    Touches [] [] [.io] s u := by
  refine ⟨?_, ?_, fun m hm hm' => ?_, ?_⟩
  · exact (State.chan_setChan_ne _ (Nat.lt_succ_self a).ne _).trans (State.chan_setChan_same ..)
  · exact State.chan_setChan_same ..
  · exact (State.chan_setChan_ne _ hm' _).trans (State.chan_setChan_ne _ hm _)
  · exact ((Touches.refl _ _ _ s).setChan (by decide) _ _).setChan (by decide) _ _

/-- A gate that times out. -/
theorem State.gateTimeout_eq {n op k last : Nat} (hgate : (s.chan n).gate = some ⟨op, k, last⟩)
    (ht : op + 100000000 ≤ s.now) :
    s.gateTimeout n = s.setChan n { s.chan n with
      count := if k = 0 then 0 else k * 1000000000000 / (last - op), gate := none, gated := true } := by
  unfold State.gateTimeout
  simp only [hgate, ht, if_true]

/-! ### The function reset of a group -/

/-- Fault flags and the supply state of a group have no letter F. -/
theorem flags_without_f : ∀ n, n < 192 → ∀ i, i < 8 → ((rowFieldOfKey (flagFld n i).key).any fun f => f.on.f) = false := by
  decide +kernel

theorem supply_without_f :
    ∀ g, g < 12 → ((rowFieldOfKey (IOG_Gg_STAT_SUPPLY g).key).any fun f => f.on.f) = false := by
  decide +kernel

/-- The channels of a group. -/
def InGroup (g n : Nat) : Prop := n / 16 = g

theorem Settling.pulseEndIn {g : Nat} (hg : g < 12) (s : State) : Settling (InGroup g) s (s.pulseEndIn g) := by
  unfold State.pulseEndIn
  split
  case h_1 p hp =>
    split
    case isTrue hch =>
      refine (Settling.refl _ s).pulseEnd fun q hq => ?_
      obtain rfl : p = q := Option.some_inj.mp (hp.symm.trans hq)
      exact ⟨hch, by omega⟩
    · exact Settling.refl _ s
  · exact Settling.refl _ s

/-- A channel that counts nothing. -/
def Chan.AtZero (c : Chan) : Prop := c.count = 0 ∧ c.qerr = 0 ∧ c.gate = none

theorem Chan.Resettled.atZero {c d : Chan} (h : c.Resettled d) (hc : c.AtZero) : d.AtZero := by
  unfold Chan.Resettled at h
  rw [h]
  exact hc

/-- A channel in the function reset of its group: the lanes are live, and counters and gates are cleared. -/
def State.resetChan (s : State) (n : Nat) (lanes : Bool × Bool) : State :=
  ((s.wrB (IOG_CHn_STAT_CMDLANE n) lanes.1).wrB (IOG_CHn_STAT_SWON n) lanes.2).setChan n
    { s.chan n with count := 0, qerr := 0, down := false, gate := none, gated := false, miss := 0 }

/-- What the function reset of the channels of group g leaves as it was. -/
structure CountersCleared (g : Nat) (s u : State) : Prop where
  regs : ∀ f : Fld, f.lo < 32 → ¬ settleAddr (InGroup g) f.addr → u.rd f = s.rd f
  latch : ∀ m, (u.chan m).latch = (s.chan m).latch
  groups : u.io.groups = s.io.groups

theorem CountersCleared.resetChan {g n : Nat} (h : CountersCleared g s u) (hn : InGroup g n) (lanes : Bool × Bool) :
    CountersCleared g s (u.resetChan n lanes) := by
  have hregs := ((Settling.refl (InGroup g) u).wrB (g := IOG_CHn_STAT_CMDLANE n) (Nat.le_of_ble_eq_true rfl)
    (settleAddr_stat hn) lanes.1).wrB (g := IOG_CHn_STAT_SWON n) (Nat.le_of_ble_eq_true rfl) (settleAddr_stat hn) lanes.2
  refine ⟨fun f hlo hf => (hregs.regs f hlo hf).trans (h.regs f hlo hf), fun m => ?_, h.groups⟩
  by_cases hm : m = n
  · subst hm
    exact (congrArg Chan.latch (State.chan_setChan_same ..)).trans (h.latch m)
  · exact (congrArg Chan.latch (State.chan_setChan_ne _ hm _)).trans (h.latch m)

/-- Cleared channels stay cleared. -/
theorem State.resetChan_atZero {n m : Nat} (h : m = n ∨ (u.chan m).AtZero) (lanes : Bool × Bool) :
    ((u.resetChan n lanes).chan m).AtZero := by
  unfold State.resetChan
  by_cases hm : m = n
  · subst hm
    rw [State.chan_setChan_same]
    exact ⟨rfl, rfl, rfl⟩
  · rw [State.chan_setChan_ne _ hm]
    exact h.resolve_left hm

theorem State.foldl_resetChan {g : Nat} (lanes : Nat → Bool × Bool) (l : List Nat) (hl : ∀ k ∈ l, k < 16)
    (h : CountersCleared g s u) :
    CountersCleared g s (l.foldl (fun s k => s.resetChan (16 * g + k) (lanes k)) u) ∧
      ∀ m, (m ∈ l.map (16 * g + ·) ∨ (u.chan m).AtZero) →
        ((l.foldl (fun s k => s.resetChan (16 * g + k) (lanes k)) u).chan m).AtZero := by
  induction l generalizing u with
  | nil => exact ⟨h, fun m hm => hm.resolve_left List.not_mem_nil⟩
  | cons k l ih =>
    have hk : k < 16 := hl k List.mem_cons_self
    have hin : InGroup g (16 * g + k) := by unfold InGroup; omega
    obtain ⟨hcleared, hzero⟩ := ih (fun k hk => hl k (List.mem_cons_of_mem _ hk)) (h.resetChan hin (lanes k))
    refine ⟨hcleared, fun m hm => hzero m ?_⟩
    rw [List.map_cons, List.mem_cons] at hm
    rcases hm with (rfl | hm) | hm
    · exact .inr (State.resetChan_atZero (.inl rfl) _)
    · exact .inl hm
    · exact .inr (State.resetChan_atZero (.inr hm) _)

/-- The lanes of channel k of a group as they stand. -/
def State.groupLanes (s : State) (g k : Nat) : Bool × Bool :=
  ((groupChans g).map fun n => (s.flag (IOG_CHn_STAT_CMDLANE n), s.flag (IOG_CHn_STAT_SWON n))).getD k (false, false)

/-- A group in its function reset, its channels cleared. -/
def State.groupCleared (s : State) (g : Nat) : State :=
  (List.range 16).foldl (fun u k => u.resetChan (16 * g + k) ((s.pulseEndIn g).groupLanes g k))
    ((s.pulseEndIn g).restore (·.f) (groupAddr g))

/-- The group itself in its function reset. -/
def Group.reset (x : Group) (now : Nat) : Group :=
  { x with
    resetting := true, seed := true, image := { x.image with valid := false, stamp := now }
    mark := { x.mark with valid := false } }

theorem State.groupReset_eq (s : State) (g : Nat) : s.groupReset g =
    ((s.groupCleared g).setGroup g (((s.groupCleared g).group g).reset (s.groupCleared g).now)).settleGroup g := by
  unfold State.groupReset State.groupCleared
  rfl

/-- Clearing the channels of a group keeps the groups, the latches, the flags and the supply state. -/
theorem State.groupCleared_shows (s : State) {g : Nat} (hg : g < 12) :
    (s.groupCleared g).io.groups = s.io.groups ∧ (s.groupCleared g).supply g = s.supply g ∧
      ∀ n, InGroup g n → ((s.groupCleared g).chan n).AtZero ∧ ((s.groupCleared g).chan n).latch = (s.chan n).latch ∧
        ∀ i, i < 8 → (s.groupCleared g).rd (flagFld n i) = s.rd (flagFld n i) := by
  have hpulse := Settling.pulseEndIn hg s
  obtain ⟨⟨hregs, hlatch, hgroups⟩, hzero⟩ := State.foldl_resetChan (g := g) ((s.pulseEndIn g).groupLanes g) (List.range 16)
    (fun k hk => List.mem_range.mp hk) (s := (s.pulseEndIn g).restore (·.f) (groupAddr g)) ⟨fun _ _ _ => rfl, fun _ => rfl, rfl⟩
  have hrd (f : Fld) (hlo : f.lo < 32) (hf : ¬ settleAddr (InGroup g) f.addr)
      (hletter : ((rowFieldOfKey f.key).any fun r => r.on.f) = false) : (s.groupCleared g).rd f = s.rd f := by
    refine (hregs f hlo hf).trans (Eq.trans ?_ (hpulse.regs f hlo hf))
    rw [State.rd_restore, hletter, Bool.and_false, if_neg Bool.false_ne_true]
  refine ⟨hgroups.trans hpulse.groups, ?_, fun n hn => ⟨hzero n (.inl ?_), ?_, fun i hi => ?_⟩⟩
  · exact hrd _ (Nat.zero_lt_succ 31) (not_settleAddr_groupStat hg (by decide) (by decide)) (supply_without_f g hg)
  · unfold InGroup at hn
    exact List.mem_map.mpr ⟨n % 16, List.mem_range.mpr (by omega), by omega⟩
  · exact (hlatch n).trans (hpulse.own n).latch
  · unfold InGroup at hn
    exact hrd _ (by simp only [flagFld]; omega) (not_settleAddr_chan (by decide) (by decide) (by decide))
      (flags_without_f n (by omega) i hi)

/-- What the function reset of a group leaves. -/
theorem State.groupReset_shows (s : State) {g : Nat} (hg : g < 12) :
    ((s.groupReset g).group g).resetting = true ∧ ((s.groupReset g).group g).image.valid = false ∧
      ((s.groupReset g).group g).mark.valid = false ∧ ((s.groupReset g).group g).latch = (s.group g).latch ∧
      (s.groupReset g).supply g = s.supply g ∧
      ∀ n, InGroup g n → ((s.groupReset g).chan n).AtZero ∧ ((s.groupReset g).chan n).latch = (s.chan n).latch ∧
        ∀ i, i < 8 → (s.groupReset g).rd (flagFld n i) = s.rd (flagFld n i) := by
  obtain ⟨hgroups, hsup, hchans⟩ := s.groupCleared_shows hg
  rw [State.groupReset_eq]
  generalize s.groupCleared g = v at *
  have hgroup : v.group g = s.group g := congrArg (tblGet groupInit g) hgroups
  have hsettle : Settling (InGroup g) (v.setGroup g ((v.group g).reset v.now))
      ((v.setGroup g ((v.group g).reset v.now)).settleGroup g) := (Settling.refl _ _).settleGroup hg fun n hn => hn
  have hafter : ((v.setGroup g ((v.group g).reset v.now)).settleGroup g).group g = (v.group g).reset v.now :=
    (congrArg (tblGet groupInit g) hsettle.groups).trans (State.group_setGroup_same ..)
  refine ⟨by rw [hafter]; rfl, by rw [hafter]; rfl, by rw [hafter]; rfl, by rw [hafter, hgroup]; rfl, ?_, fun n hn => ?_⟩
  · exact (hsettle.regs _ (Nat.zero_lt_succ 31) (not_settleAddr_groupStat hg (by decide) (by decide))).trans hsup
  · obtain ⟨hzero, hlatch, hflags⟩ := hchans n hn
    exact ⟨(hsettle.own n).atZero hzero, (hsettle.own n).latch.trans hlatch, fun i hi =>
      (hsettle.regs _ (by simp only [flagFld]; omega) (not_settleAddr_chan (by decide) (by decide) (by decide))).trans
        (hflags i hi)⟩

/-- Settles O19. -/
theorem countersAndGroupResets : Obligations.CountersAndGroupResets := by
  refine ⟨fun s n level op k last t hactive hreset hsup => ⟨fun hmode hb hquad => ?_, fun hmode hb hquad => ?_,
    fun hmode hgate => ?_, fun hgate ht => ?_⟩, fun s g t => ⟨fun hrun => ?_, fun hres => ?_⟩⟩
  · have heq := State.counterEdge_single (s := s.begin t) hactive hreset hsup hmode hb hquad level false
    obtain ⟨hsame, hothers⟩ := (s.begin t).setChan_only n _
    exact ⟨_, congrArg Host.Outcome.next heq, hsame, hothers, (Touches.begin s t (by decide)).setChan (by decide) _ _⟩
  · have heq := State.counterEdge_quad (s := s.begin t) hactive hreset hsup hmode hb hquad level false
    obtain ⟨ha, hb', hothers, -⟩ := (s.begin t).quadEdge_shows n level
    exact ⟨_, congrArg Host.Outcome.next heq, ha, hb', hothers,
      ((Touches.begin s t (by decide)).setChan (by decide) _ _).setChan (by decide) _ _⟩
  · obtain ⟨c, heq⟩ := State.counterEdge_gate (s := s.begin t) hactive hreset hsup hmode hgate false
    refine ⟨_, congrArg Host.Outcome.next heq, State.chan_setChan_same .., fun m hm => ?_,
      ((Touches.begin s t (by decide)).setChan (by decide) _ _).setChan (by decide) _ _⟩
    exact (State.chan_setChan_ne _ hm _).trans (State.chan_setChan_ne _ hm _)
  · have heq := State.gateTimeout_eq (s := s.begin t) hgate ht
    obtain ⟨hsame, hothers⟩ := (s.begin t).setChan_only n _
    exact ⟨_, congrArg Host.Outcome.next heq, hsame, hothers, (Touches.begin s t (by decide)).setChan (by decide) _ _⟩
  · obtain ⟨hres, himage, hmark, hlatch, hsup, hchans⟩ := (s.begin t).groupReset_shows g.isLt
    refine ⟨_, congrArg Host.Outcome.next (if_pos (beq_iff_eq.mpr hrun)), hres, himage, hmark, hlatch, hsup,
      fun k hk => ?_, (Touches.begin s t (by decide)).kept
        (State.groupReset_kept (Kept.refl _ _ _) (by decide) (by decide))⟩
    obtain ⟨⟨hcount, hqerr, hgate⟩, hchan, hflags⟩ := hchans (16 * g.val + k) (by unfold InGroup; omega)
    exact ⟨hcount, hqerr, hgate, hchan, hflags⟩
  · have heq : (s.begin t).groupResetDone g = (((s.begin t).setGroup g { s.group g with resetting := false }).wr
        (IOG_Gg_STAT_RSTDONE g) 1).settleGroup g := if_pos hres
    have hsettle := (Settling.refl (InGroup g) (((s.begin t).setGroup g { s.group g with resetting := false }).wr
        (IOG_Gg_STAT_RSTDONE g) 1)).settleGroup g.isLt fun n hn => hn
    refine ⟨_, congrArg Host.Outcome.next heq, ?_, ?_, ?_⟩
    · exact (congrArg (tblGet groupInit g) hsettle.groups).trans (State.group_setGroup_same ..)
    · exact (hsettle.regs (IOG_Gg_STAT_RSTDONE g) (Nat.le_of_ble_eq_true rfl)
        (not_settleAddr_groupStat g.isLt (by decide) (by decide))).trans (State.rd_wr_same ..)
    · rw [← heq]
      exact (Touches.begin s t (by decide)).kept (State.groupResetDone_kept (Kept.refl _ _ _) (by decide) (by decide))

end Sys2Proof.Machine

/-! ## Stale outputs and off-pulses (R214, R262 to R264) -/

namespace Sys2Proof.Machine

variable {s u : State}

/-- Frames compose where the second lies within the first. -/
theorem Touches.trans {fs gs : List Fld} {A B : List Area} {P Q : List Part} {w : State} (h : Touches fs A P s u)
    (h' : Touches gs B Q u w) (hf : gs ⊆ fs) (hA : ∀ a ∈ B, a ∈ A) (hP : ∀ p ∈ Q, p ∈ P) : Touches fs A P s w :=
  ⟨fun f hkey harea => (h'.regs f (fun hmem => hkey (List.map_subset _ hf hmem)) fun ha => harea (hA _ ha)).trans
    (h.regs f hkey harea), fun p hp => (h.parts p hp).trans (h'.parts p fun hq => hp (hP p hq))⟩

/-! ### Stale outputs -/

/-- The command lane of a stale group's channel without a fallback is low. -/
theorem State.decideLane_of_stale {n : Nat} (hstale : (s.group (n / 16)).stale = true)
    (h : s.chMode n ≠ modeOutput ∨ s.rd (IOG_CHn_CFG_FALLBACK n) = 0) : s.decideLane n = false := by
  have hfallback : (s.chMode n == modeOutput && s.flag (IOG_CHn_CFG_FALLBACK n)) = false := by
    rcases h with h | h
    · rw [beq_eq_false_iff_ne.mpr h]
      rfl
    · simp [State.flag, h]
  simp [State.decideLane, hstale, hfallback]

/-- Whether the lane of channel n falls back to low in its stale group. -/
def State.FallsLow (s : State) (n : Nat) : Prop :=
  (s.group (n / 16)).stale = true ∧ (s.chMode n ≠ modeOutput ∨ s.rd (IOG_CHn_CFG_FALLBACK n) = 0)

theorem State.FallsLow.settling {n : Nat} {C : Nat → Prop} (h : s.FallsLow n) (hrun : Settling C s u) : u.FallsLow n := by
  have hcfg {lo w rst : Nat} (hlo : lo < 32) :
      u.rd ⟨0x10601000 + 0x20 * n, lo, w, rst, .chan⟩ = s.rd ⟨0x10601000 + 0x20 * n, lo, w, rst, .chan⟩ :=
    hrun.regs _ hlo (not_settleAddr_chan (by decide) (by decide) (by decide))
  have hgroup : u.group (n / 16) = s.group (n / 16) := congrArg (tblGet groupInit _) hrun.groups
  have hmode : u.chMode n = s.chMode n := hcfg (by decide)
  have hfallback : u.rd (IOG_CHn_CFG_FALLBACK n) = s.rd (IOG_CHn_CFG_FALLBACK n) := hcfg (by decide)
  unfold State.FallsLow
  rwa [hgroup, hmode, hfallback]

/-- Channels settled one after another leave the lane of one that falls back low. -/
theorem State.foldl_settleChan_lane {n : Nat} (l : List Nat) (hl : ∀ m ∈ l, m < 192) (h : s.FallsLow n)
    (hn : n ∈ l ∨ s.flag (IOG_CHn_STAT_CMDLANE n) = false) :
    (l.foldl State.settleChan s).flag (IOG_CHn_STAT_CMDLANE n) = false := by
  induction l generalizing s with
  | nil => exact hn.resolve_left List.not_mem_nil
  | cons m l ih =>
    have hm : m < 192 := hl m List.mem_cons_self
    have hrun : Settling (fun k => k = m) s (s.settleChan m) := (Settling.refl _ s).settleChan rfl hm
    refine ih (fun k hk => hl k (List.mem_cons_of_mem _ hk)) (h.settling hrun) ?_
    by_cases hnm : n = m
    · subst hnm
      exact .inr (s.settleChan_low hm (State.decideLane_of_stale h.1 h.2)).1
    · refine hn.imp (fun hmem => (List.mem_cons.mp hmem).resolve_left hnm) fun hlow => ?_
      exact (State.flag_congr (hrun.regs (IOG_CHn_STAT_CMDLANE n) (Nat.le_of_ble_eq_true rfl)
        (not_settleAddr_stat hnm))).trans hlow

/-- A group in which the image applied last has become stale. -/
def Group.gone (x : Group) : Group := { x with stale := true }

/-- A Free group whose image is beyond its limit. -/
theorem State.judgeFree_stale {g : Nat} (howned : s.rd (IOG_Gg_CFG_OWNEN g) = 1) (hfree : s.rd (IOG_Gg_CFG_MARKED g) = 0)
    (hstale : (s.group g).stale = false)
    (hage : s.outLimit (s.rd (IOG_Gg_CFG_OWNER g)) < min (2 ^ 32 - 1) ((s.now - (s.group g).stamp) / 1000) * 1000) :
    s.judgeFree g = (s.setGroup g (s.group g).gone).settleGroup g := by
  have howned' : s.flag (IOG_Gg_CFG_OWNEN g) = true := beq_iff_eq.mpr howned
  have hfree' : s.flag (IOG_Gg_CFG_MARKED g) = false := beq_eq_false_iff_ne.mpr (by rw [hfree]; decide)
  have hbeyond : s.beyond (s.group g).stamp (s.outLimit (s.rd (IOG_Gg_CFG_OWNER g))) = true := decide_eq_true hage
  unfold State.judgeFree
  exact if_pos (by rw [howned', hfree', hstale, hbeyond]; rfl)

/-- What a group with a stale image shows. -/
theorem State.staleGroup_shows (s : State) {g : Nat} (hg : g < 12) :
    let u := (s.setGroup g (s.group g).gone).settleGroup g
    u.group g = (s.group g).gone ∧
      (∀ n, InGroup g n → (s.chMode n ≠ modeOutput ∨ s.rd (IOG_CHn_CFG_FALLBACK n) = 0) →
        u.flag (IOG_CHn_STAT_CMDLANE n) = false) ∧
      ∀ m, ¬ InGroup g m → u.chan m = s.chan m := by
  have hset : (s.setGroup g (s.group g).gone).group g = (s.group g).gone := State.group_setGroup_same ..
  have hmode (n : Nat) : (s.setGroup g (s.group g).gone).chMode n = s.chMode n := rfl
  have hfallback (n : Nat) : (s.setGroup g (s.group g).gone).rd (IOG_CHn_CFG_FALLBACK n) =
    s.rd (IOG_CHn_CFG_FALLBACK n) := rfl
  have hchan (m : Nat) : (s.setGroup g (s.group g).gone).chan m = s.chan m := rfl
  generalize s.setGroup g (s.group g).gone = v at *
  have hsettle : Settling (InGroup g) v (v.settleGroup g) := (Settling.refl _ v).settleGroup hg fun n hn => hn
  refine ⟨(congrArg (tblGet groupInit g) hsettle.groups).trans hset, fun n hn h => ?_,
    fun m hm => (hsettle.others m hm).trans (hchan m)⟩
  unfold InGroup at hn
  refine State.foldl_settleChan_lane _ (fun m hm => ?_) ⟨?_, ?_⟩ (.inl ?_)
  · obtain ⟨j, hj, rfl⟩ := List.mem_map.mp hm
    rw [List.mem_range] at hj
    omega
  · rw [hn, hset]
    rfl
  · rwa [hmode, hfallback]
  · exact List.mem_map.mpr ⟨n % 16, List.mem_range.mpr (by omega), by omega⟩

/-! ### Slots -/

/-- Which channels are due, where none of them has changed. -/
theorem State.dueChans_congr (h : Settling (fun _ => False) s u) (g : Nat) : u.dueChans g = s.dueChans g := by
  have hcfg {off lo w rst : Nat} (n : Nat) (hlo : lo < 32) (hoff : 0x10601000 ≤ off) (hoff' : off < 0x10601020)
      (h8 : off ≠ 0x10601008) :
      u.rd ⟨off + 0x20 * n, lo, w, rst, .chan⟩ = s.rd ⟨off + 0x20 * n, lo, w, rst, .chan⟩ :=
    h.regs _ hlo (not_settleAddr_chan hoff hoff' h8)
  refine List.filter_congr fun n _ => ?_
  have hmode : u.rd (IOG_CHn_CFG_MODE n) = s.rd (IOG_CHn_CFG_MODE n) := hcfg n (by decide) (by decide) (by decide) (by decide)
  have hpulse : u.rd (IOG_CHn_CFG_PULSE n) = s.rd (IOG_CHn_CFG_PULSE n) := hcfg n (by decide) (by decide) (by decide) (by decide)
  have hperiod : u.rd (IOG_CHn_PULSE_PERIOD n) = s.rd (IOG_CHn_PULSE_PERIOD n) :=
    hcfg n (by decide) (by decide) (by decide) (by decide)
  unfold State.isOutput State.chMode State.flag State.pulseDue
  rw [hmode, hpulse, hperiod, h.others n id, h.now]

/-- A slot of a group in which no channel is due. -/
theorem State.slotBegin_idle (hp : s.io.pulse = none) (hdue : s.dueChans (s.now / 2000000 % 12) = []) :
    s.slotBegin = (s.wr IOG_PLSSLOT_GROUP (s.now / 2000000 % 12)).wr IOG_PLSSLOT_CHAN 0xFF := by
  have hend : s.pulseEnd = s := by
    unfold State.pulseEnd
    rw [hp]
  have hrun : Settling (fun _ => False) s
      ((s.wr IOG_PLSSLOT_GROUP (s.now / 2000000 % 12)).wr IOG_PLSSLOT_CHAN 0xFF) :=
    ((Settling.refl _ s).wr (g := IOG_PLSSLOT_GROUP) (by decide) (settleAddr_slot _) _).wr (g := IOG_PLSSLOT_CHAN)
      (by decide) (settleAddr_slot _) _
  have hnone := (State.dueChans_congr hrun (s.now / 2000000 % 12)).trans hdue
  unfold State.slotBegin
  simp only [hend, hnone, List.find?_nil, ite_self]

/-! ### The opening of a switch -/

/-- What decides the lane of channel n. -/
theorem State.decideLane_congr {n : Nat} (hrd : ∀ f : Fld, f.area ≠ .chan → u.rd f = s.rd f)
    (hcfg : ∀ lo w rst, lo < 32 → u.rd ⟨0x10601000 + 0x20 * n, lo, w, rst, .chan⟩ =
      s.rd ⟨0x10601000 + 0x20 * n, lo, w, rst, .chan⟩)
    (hlatch : (u.chan n).latch = (s.chan n).latch) (hgroups : u.io.groups = s.io.groups)
    (hactive : u.io.active = s.io.active) (hpw : u.pw = s.pw) : u.decideLane n = s.decideLane n := by
  have hgroup : u.group (n / 16) = s.group (n / 16) := congrArg (tblGet groupInit _) hgroups
  have hmode : u.rd (IOG_CHn_CFG_MODE n) = s.rd (IOG_CHn_CFG_MODE n) := hcfg _ _ _ (by decide)
  have hfallback : u.rd (IOG_CHn_CFG_FALLBACK n) = s.rd (IOG_CHn_CFG_FALLBACK n) := hcfg _ _ _ (by decide)
  have hpperm : u.rd (IOG_CHn_CFG_PPERM n) = s.rd (IOG_CHn_CFG_PPERM n) := hcfg _ _ _ (by decide)
  have howner : u.rd (IOG_Gg_CFG_OWNER (n / 16)) = s.rd (IOG_Gg_CFG_OWNER (n / 16)) := hrd _ nofun
  have howned : u.rd (IOG_Gg_CFG_OWNEN (n / 16)) = s.rd (IOG_Gg_CFG_OWNEN (n / 16)) := hrd _ nofun
  have hsup : u.rd (IOG_Gg_STAT_SUPPLY (n / 16)) = s.rd (IOG_Gg_STAT_SUPPLY (n / 16)) := hrd _ nofun
  have hstate (e : Nat) : u.rd (LE_Ee_STAT_STATE e) = s.rd (LE_Ee_STAT_STATE e) := hrd _ nofun
  have hnotsafe (e : Nat) : u.rd (LE_Ee_STAT_NOTSAFE e) = s.rd (LE_Ee_STAT_NOTSAFE e) := hrd _ nofun
  have hok (k : Nat) : u.rd (STD_Sk_STAT_SAFEOK k) = s.rd (STD_Sk_STAT_SAFEOK k) := hrd _ nofun
  unfold State.decideLane State.chLatched State.isOutput State.chMode State.flag State.leState State.supply
  dsimp only
  rw [hgroup, hmode, hfallback, hpperm, howner, howned, hsup, hstate, hnotsafe, hok, hlatch, hactive, hpw]

/-- Settling a channel whose off-pulse, if one runs, goes on. -/
theorem State.rd_settleChan {n : Nat} {f : Fld} (hdrop : (s.settleLane n).dropPulse n (s.wantsCurrent n) = s.settleLane n)
    (hf : ∀ g ∈ IOG_CHn_STAT_CMDLANE n :: IOG_CHn_STAT_SWON n :: syncFlds n, f.key ≠ g.key) :
    (s.settleChan n).rd f = s.rd f := by
  have hlane : (s.settleLane n).rd f = s.rd f := by
    unfold State.settleLane
    split
    · rfl
    · exact State.rd_wr_ne s (hf _ List.mem_cons_self) _
  have hswitch (u : State) (want : Bool) : (u.settleSwitch n want).rd f = u.rd f := by
    unfold State.settleSwitch
    split
    · rfl
    · exact State.rd_wr_ne _ (hf _ (List.mem_cons_of_mem _ List.mem_cons_self)) _
  rw [State.settleChan_eq, hdrop, State.rd_syncChan fun g hg => hf g (List.mem_cons_of_mem _ (List.mem_cons_of_mem _ hg)),
    hswitch, hlane]

/-- The state with the switch of the off-pulse open, and what its before sample holds. -/
def State.pulseOpened (s : State) (p : Pulse) (before : Nat) (currs : List Nat) : State :=
  (({ s with io := { s.io with pulse := some ⟨p.ch, p.permit, true, s.now, false, before, currs⟩ } } : State).setChan p.ch
    { s.chan p.ch with pulsed := s.now }).wr (IOG_CHn_STAT_PULSING p.ch) 1

theorem State.pulseOpen_eq {p : Pulse} (hp : s.io.pulse = some p) (hopened : p.opened = false)
    (ht : p.openAt + 100000 ≤ s.now) : ∃ before currs, s.pulseOpen = (s.pulseOpened p before currs).settleChan p.ch := by
  refine ⟨s.rawLevels, (List.range 192).map fun m => (s.chan m).curr, ?_⟩
  have hlate : decide (s.now < p.openAt + 100000) = false := decide_eq_false (Nat.not_lt.mpr ht)
  unfold State.pulseOpen
  simp only [hp, hopened, hlate, Bool.or_self, Bool.false_eq_true, if_false]
  rfl

/-- PULSING is no field that settling writes while the off-pulse goes on. -/
theorem key_pulsing_ne (n : Nat) : ∀ g ∈ IOG_CHn_STAT_CMDLANE n :: IOG_CHn_STAT_SWON n :: syncFlds n,
    (IOG_CHn_STAT_PULSING n).key ≠ g.key := by
  intro g hg
  simp only [syncFlds, List.mem_cons, List.not_mem_nil, or_false] at hg
  rcases hg with rfl | rfl | rfl | rfl | rfl | rfl | rfl | rfl | rfl <;>
    simp only [Fld.key, Area.code, IOG_CHn_STAT_PULSING, IOG_CHn_STAT_CMDLANE, IOG_CHn_STAT_SWON, IOG_CHn_STAT_INVALID,
      IOG_CHn_STAT_SUSPECT, IOG_CHn_STAT_FAULT, IOG_CHn_STAT_LATCHED, IOG_CHn_STAT_PERMIT, IOG_Gg_FLTSUM_FAULT,
      IOG_Gg_LATSUM_LATCHED] <;> omega

theorem State.settleLane_io (s : State) (n : Nat) : (s.settleLane n).io = s.io := by
  unfold State.settleLane
  split <;> rfl

/-- The lane of a channel is written in STAT alone. -/
theorem State.chMode_settleLane (s : State) (n : Nat) : (s.settleLane n).chMode n = s.chMode n := by
  have hrun : Settling (fun m => m = n) s (s.settleLane n) := (Settling.refl _ s).settleLane rfl
  exact hrun.regs (IOG_CHn_CFG_MODE n) (Nat.le_of_ble_eq_true rfl) (not_settleAddr_chan (by decide) (by decide) (by decide))

theorem State.dropPulse_wanted (s : State) (n : Nat) : s.dropPulse n true = s := by
  unfold State.dropPulse
  split
  · exact if_neg fun h => absurd h.2 (by decide)
  · rfl

theorem State.dropPulse_none {n : Nat} (h : s.io.pulse = none) (want : Bool) : s.dropPulse n want = s := by
  unfold State.dropPulse
  rw [h]

/-- The lane of the channel of the off-pulse stands while its switch opens. -/
theorem State.pulseOpened_wants {p : Pulse} (hlane : s.decideLane p.ch = true) (hmode : s.chMode p.ch = modeOutput)
    (before : Nat) (currs : List Nat) : (s.pulseOpened p before currs).wantsCurrent p.ch = true := by
  have hset : (s.pulseOpened p before currs).chan p.ch = { s.chan p.ch with pulsed := s.now } :=
    State.chan_setChan_same ..
  have hlatch : ((s.pulseOpened p before currs).chan p.ch).latch = (s.chan p.ch).latch := by rw [hset]
  have hother (f : Fld) (hf : f.area ≠ .chan) : (s.pulseOpened p before currs).rd f = s.rd f :=
    State.rd_wr_area _ hf _
  have hcfg (lo w rst : Nat) (hlo : lo < 32) :
      (s.pulseOpened p before currs).rd ⟨0x10601000 + 0x20 * p.ch, lo, w, rst, .chan⟩ =
        s.rd ⟨0x10601000 + 0x20 * p.ch, lo, w, rst, .chan⟩ :=
    State.rd_chan_wrStat (n := p.ch) _ (by decide) hlo (g := IOG_CHn_STAT_PULSING p.ch) (Nat.le_of_ble_eq_true rfl) rfl _
  have hmode' : (s.pulseOpened p before currs).chMode p.ch = modeOutput := (hcfg _ _ _ (by decide)).trans hmode
  have hdecide := State.decideLane_congr hother hcfg hlatch rfl rfl rfl
  unfold State.wantsCurrent
  rw [hdecide, hlane, State.chMode_settleLane, hmode']
  rfl

/-- The opened switch of a channel whose lane is high. -/
theorem State.pulseOpened_shows {p : Pulse} (hch : p.ch < 192) (hlane : s.decideLane p.ch = true)
    (hmode : s.chMode p.ch = modeOutput) (before : Nat) (currs : List Nat) :
    let u := (s.pulseOpened p before currs).settleChan p.ch
    u.rd (IOG_CHn_STAT_PULSING p.ch) = 1 ∧ u.flag (IOG_CHn_STAT_SWON p.ch) = false ∧
      u.io.pulse = some ⟨p.ch, p.permit, true, s.now, false, before, currs⟩ ∧ (u.chan p.ch).pulsed = s.now := by
  have hpulsing : (s.pulseOpened p before currs).rd (IOG_CHn_STAT_PULSING p.ch) = 1 := State.rd_wr_same ..
  have hpulsed : ((s.pulseOpened p before currs).chan p.ch).pulsed = s.now :=
    congrArg Chan.pulsed (State.chan_setChan_same ..)
  have hio : (s.pulseOpened p before currs).io.pulse = some ⟨p.ch, p.permit, true, s.now, false, before, currs⟩ := rfl
  have hwant := State.pulseOpened_wants hlane hmode before currs
  generalize s.pulseOpened p before currs = v at *
  obtain ⟨-, hswitch, -, hpulse⟩ := v.settleChan_shows hch
  rw [hwant, State.dropPulse_wanted] at hswitch hpulse
  have hown := ((Settling.refl (fun m => m = p.ch) v).settleChan rfl hch).own p.ch
  refine ⟨?_, ?_, hpulse.trans (by rw [State.settleLane_io, hio]), ?_⟩
  · rw [State.rd_settleChan (by rw [hwant, State.dropPulse_wanted]) (key_pulsing_ne p.ch), hpulsing]
  · rw [hswitch]
    unfold State.pulseOpens
    rw [State.settleLane_io, hio]
    simp
  · unfold Chan.Resettled at hown
    rw [hown]
    exact hpulsed

/-! ### The judgement -/

/-- The registers of a judged off-pulse, whose channel has gone low. -/
def State.pulseJudged (s : State) (p : Pulse) : State :=
  (((({ s with io := { s.io with pulse := some { p with judged := true } } } : State).wr
    (IOG_Gg_PLSLAST_CHAN (p.ch / 16)) (p.ch % 16)).wrB (IOG_Gg_PLSLAST_SW (p.ch / 16)) p.permit).wrB
    (IOG_Gg_PLSLAST_PASS (p.ch / 16)) true).wr (IOG_Gg_PLSLAST_JUDGED (p.ch / 16)) 1

/-- A channel that goes low where no other was high before passes. -/
theorem State.pulseJudge_eq {p : Pulse} (hp : s.io.pulse = some p) (hopened : p.opened = true) (hjudged : p.judged = false)
    (hfrom : s.pulseJudgeAt p ≤ s.now) (hto : s.now < s.pulseJudgeAt p + 10000) (hraw : s.rd (IOG_CHn_STAT_RAW p.ch) = 0)
    (hbefore : p.before = 0) : s.pulseJudge = s.pulseJudged p := by
  have hheld : s.flag (IOG_CHn_STAT_RAW p.ch) = false := beq_eq_false_iff_ne.mpr (by rw [hraw]; decide)
  have hin : inRange (s.pulseJudgeAt p) (s.pulseJudgeAt p + 10000) s.now = true := by simp [inRange, hfrom, hto]
  have hbit (m : Nat) : bitAt 0 m = false := by simp [bitAt]
  obtain ⟨ch, permit, opened, openAt, judged, before, currs⟩ := p
  subst hopened hjudged hbefore
  unfold State.pulseJudge
  simp only [hp, hin, hheld, hbit, Bool.not_true, Bool.not_false, Bool.or_self,
    Bool.false_eq_true, if_false, if_true, Bool.and_false, Bool.false_and, List.filter_false, List.foldl_nil]
  rfl

theorem State.pulseJudged_shows (s : State) (p : Pulse) :
    (s.pulseJudged p).rd (IOG_Gg_PLSLAST_CHAN (p.ch / 16)) = p.ch % 16 ∧
      (s.pulseJudged p).rd (IOG_Gg_PLSLAST_PASS (p.ch / 16)) = 1 ∧
      (s.pulseJudged p).rd (IOG_Gg_PLSLAST_JUDGED (p.ch / 16)) = 1 ∧ Touches [] [.iog] [.io] s (s.pulseJudged p) := by
  unfold State.pulseJudged
  refine ⟨?_, ?_, ?_, ?_⟩
  · simp (disch := first | (simp only [Fld.key, Area.code, IOG_Gg_PLSLAST_CHAN, IOG_Gg_PLSLAST_SW, IOG_Gg_PLSLAST_PASS, IOG_Gg_PLSLAST_JUDGED] <;> omega) | fail) only [State.wrB_eq, State.rd_wr_ne, State.rd_wr_same]
    exact Nat.mod_mod ..
  · simp (disch := first | (simp only [Fld.key, Area.code, IOG_Gg_PLSLAST_CHAN, IOG_Gg_PLSLAST_SW, IOG_Gg_PLSLAST_PASS, IOG_Gg_PLSLAST_JUDGED] <;> omega) | fail) only [State.wrB_eq, State.rd_wr_ne, State.rd_wr_same]
    rfl
  · exact State.rd_wr_same ..
  · have hpulse : Touches [] [.iog] [.io] s { s with io := { s.io with pulse := some { p with judged := true } } } :=
      (Touches.refl _ _ _ s).parts' rfl fun q hq => by cases q <;> first | rfl | exact absurd hq (by decide)
    exact (((hpulse.wrIn (f := IOG_Gg_PLSLAST_CHAN (p.ch / 16)) List.mem_cons_self _).wrIn
      (f := IOG_Gg_PLSLAST_SW (p.ch / 16)) List.mem_cons_self _).wrIn (f := IOG_Gg_PLSLAST_PASS (p.ch / 16))
      List.mem_cons_self _).wrIn (f := IOG_Gg_PLSLAST_JUDGED (p.ch / 16)) List.mem_cons_self _

/-! ### The end -/

/-- What the end of an off-pulse shows. -/
theorem State.pulseEnd_shows {p : Pulse} (hp : s.io.pulse = some p) :
    s.pulseEnd.rd IOG_PLSSLOT_CHAN = 0xFF ∧ s.pulseEnd.rd (IOG_CHn_STAT_PULSING p.ch) = 0 := by
  have hset (u : State) (n : Nat) (c : Chan) (f : Fld) : (u.setChan n c).rd f = u.rd f := rfl
  unfold State.pulseEnd
  rw [hp]
  dsimp only
  split <;> split <;>
    (simp (disch := first | (simp only [Fld.key, Area.code, IOG_PLSSLOT_CHAN, IOG_CHn_STAT_PULSING, IOG_Gg_PLSLAST_CHAN, IOG_Gg_PLSLAST_SW, IOG_Gg_PLSLAST_PASS, IOG_Gg_PLSLAST_JUDGED] <;> omega) | fail) only [hset, State.wrB_eq, State.rd_wr_ne, State.rd_wr_same]
     exact ⟨rfl, rfl⟩)

/-- PLSSLOT is no field that settling writes while no off-pulse runs. -/
theorem key_slot_ne (n : Nat) : ∀ g ∈ IOG_CHn_STAT_CMDLANE n :: IOG_CHn_STAT_SWON n :: syncFlds n,
    IOG_PLSSLOT_CHAN.key ≠ g.key := by
  intro g hg
  simp only [syncFlds, List.mem_cons, List.not_mem_nil, or_false] at hg
  rcases hg with rfl | rfl | rfl | rfl | rfl | rfl | rfl | rfl | rfl <;>
    simp only [Fld.key, Area.code, IOG_PLSSLOT_CHAN, IOG_CHn_STAT_CMDLANE, IOG_CHn_STAT_SWON, IOG_CHn_STAT_INVALID,
      IOG_CHn_STAT_SUSPECT, IOG_CHn_STAT_FAULT, IOG_CHn_STAT_LATCHED, IOG_CHn_STAT_PERMIT, IOG_Gg_FLTSUM_FAULT,
      IOG_Gg_LATSUM_LATCHED] <;> omega

/-- The channel of an off-pulse that has ended follows its terms. -/
theorem State.pulseClosed_shows {p : Pulse} (hp : s.io.pulse = some p) (hch : p.ch < 192) :
    let u := s.pulseEnd.settleChan p.ch
    u.io.pulse = none ∧ u.rd IOG_PLSSLOT_CHAN = 0xFF ∧ u.rd (IOG_CHn_STAT_PULSING p.ch) = 0 ∧
      u.flag (IOG_CHn_STAT_SWON p.ch) = (u.chan p.ch).want := by
  obtain ⟨hslot, hpulsing⟩ := State.pulseEnd_shows hp
  have hnone := s.pulse_pulseEnd
  generalize s.pulseEnd = v at *
  have hdrop (want : Bool) : (v.settleLane p.ch).dropPulse p.ch want = v.settleLane p.ch :=
    State.dropPulse_none (by rw [State.settleLane_io, hnone]) want
  obtain ⟨-, hswitch, hwant, hpulse⟩ := v.settleChan_shows hch
  rw [hdrop, State.settleLane_io, hnone] at hpulse
  have hopens : (v.settleLane p.ch).pulseOpens p.ch = false := by
    unfold State.pulseOpens
    rw [State.settleLane_io, hnone]
  refine ⟨hpulse, ?_, ?_, ?_⟩
  · rw [State.rd_settleChan (hdrop _) (key_slot_ne _), hslot]
  · rw [State.rd_settleChan (hdrop _) (key_pulsing_ne _), hpulsing]
  · rw [hswitch, hwant, hdrop, hopens, Bool.not_false, Bool.and_true]

/-- Settles O21. -/
theorem staleOutputsAndPulses : Obligations.StaleOutputsAndPulses := by
  refine ⟨fun s g t howned hfree hstale hage => ?_, fun s p t hactive hch => ⟨fun ht hp hdue hdue' => ?_,
    fun hp hopened ht hlane hmode => ?_, fun hp hopened hjudged hfrom hto hraw hbefore => ?_, fun hp hopened ht => ?_⟩⟩
  · have heq := State.judgeFree_stale (s := s.begin t) howned hfree hstale hage
    have htouches : Touches [] [.iog, .chan] [.now, .resp, .out, .io] s ((s.begin t).judgeFree g) :=
      (Touches.begin s t (by decide)).kept (State.judgeFree_kept (Kept.refl _ _ _) (by decide) (by decide))
    rw [heq] at htouches
    obtain ⟨hgroup, hlanes, hothers⟩ := (s.begin t).staleGroup_shows g.isLt
    exact ⟨_, congrArg Host.Outcome.next heq, hgroup, fun k hk h => hlanes _ (by unfold InGroup; omega) h,
      fun m _ hm => hothers m hm, htouches⟩
  · have heq := State.slotBegin_idle (s := s.begin t) hp hdue'
    have hslot : (if !(s.begin t).io.active then s.begin t else if t % 2000000 = 0 then (s.begin t).slotBegin else s.begin t) =
        (s.begin t).slotBegin := by rw [show (s.begin t).io.active = true from hactive, if_pos ht]; rfl
    refine ⟨_, congrArg Host.Outcome.next (hslot.trans heq), ?_, State.rd_wr_same .., hp,
      ((Touches.begin s t (by decide)).wrOf (by decide) _).wrOf (by decide) _⟩
    rw [State.rd_wr_ne _ (by decide), State.rd_wr_same]
    exact Nat.mod_eq_of_lt (by simp only [IOG_PLSSLOT_GROUP]; omega)
  · obtain ⟨before, currs, heq⟩ := State.pulseOpen_eq (s := s.begin t) hp hopened ht
    obtain ⟨hpulsing, hswitch, hpulse, hpulsed⟩ := State.pulseOpened_shows (s := s.begin t) hch hlane hmode before currs
    have htouches : Touches [] [.iog, .chan] [.now, .resp, .out, .io] s (s.begin t).pulseOpen :=
      (Touches.begin s t (by decide)).kept (State.pulseOpen_kept (Kept.refl _ _ _) (by decide) (by decide))
    rw [heq] at htouches
    refine ⟨_, ?_, hpulsing, hswitch, by rw [hpulse]; rfl, hpulsed, htouches⟩
    rw [← heq]
    exact congrArg Host.Outcome.next (if_neg (by rw [show (s.begin t).io.active = true from hactive]; decide))
  · have heq := State.pulseJudge_eq (s := s.begin t) hp hopened hjudged hfrom hto hraw hbefore
    obtain ⟨hlast, hpass, hjudged', htouches⟩ := (s.begin t).pulseJudged_shows p
    refine ⟨_, ?_, rfl, hlast, hpass, hjudged', ?_⟩
    · rw [← heq]
      exact congrArg Host.Outcome.next (if_neg (by rw [show (s.begin t).io.active = true from hactive]; decide))
    · exact (Touches.begin s t (by decide)).trans htouches (List.nil_subset _) (by decide) (by decide)
  · have heq : (s.begin t).pulseClose = (s.begin t).pulseEnd.settleChan p.ch := by
      unfold State.pulseClose
      rw [show (s.begin t).io.pulse = some p from hp]
      exact if_pos (by rw [hopened, Bool.true_and, decide_eq_true_eq]; exact ht)
    have htouches : Touches [] [.iog, .chan] [.now, .resp, .out, .io] s (s.begin t).pulseClose :=
      (Touches.begin s t (by decide)).kept (State.pulseClose_kept (Kept.refl _ _ _) (by decide) (by decide))
    obtain ⟨hpulse, hslot, hpulsing, hswitch⟩ := State.pulseClosed_shows (s := s.begin t) hp hch
    rw [heq] at htouches
    refine ⟨_, ?_, hpulse, hslot, hpulsing, hswitch, htouches⟩
    rw [← heq]
    exact congrArg Host.Outcome.next (if_neg (by rw [show (s.begin t).io.active = true from hactive]; decide))

end Sys2Proof.Machine

/-! ## Trips, retries and acknowledges of output channels (R265 to R268, R273) -/

namespace Sys2Proof.Machine

variable {s u : State} {n : Nat}

theorem Kept.io_eq {A : List Area} {P : List Part} (hk : Kept A P s u) (h : .io ∉ P) : u.io = s.io :=
  hk.framed.parts .io h

/-! ### A flag that latches -/

/-- A flag of a channel is set and latches it, before the channel follows. -/
def State.flagged (s : State) (n i : Nat) : State :=
  ((s.wr (flagFld n i) 1).wr (IOG_Gg_STAT_FLTEV (n / 16)) 1).setChan n { s.chan n with latch := 2 ^ i }

/-- The reports of a flag and of a latch. -/
def State.flagReports (s : State) (n : Nat) : State :=
  ((((s.raise (48 + n / 16)).chRecord n (48 + n / 16)).wr (IOG_Gg_STAT_LATEV (n / 16)) 1).raise (72 + n / 16)).chRecord n
    (72 + n / 16)

theorem setBit_zero (i : Nat) : setBit 0 i true = 2 ^ i := by
  simp [setBit, bitAt]

/-- A new flag that latches a channel. -/
theorem State.setFlag_latching {i : Nat} (hnew : s.rd (flagFld n i) = 0) (hlatches : flagLatches (s.chMode n) i = true)
    (hlatch : (s.chan n).latch = 0) : s.setFlag n i = ((s.flagged n i).settleChan n).flagReports n := by
  have hflag : s.flag (flagFld n i) = false := beq_eq_false_iff_ne.mpr (by rw [hnew]; decide)
  unfold State.setFlag
  simp only [hflag, hlatches, hlatch, setBit_zero, Bool.not_false, if_true, Bool.true_and, beq_self_eq_true]
  rfl

/-- Reports change neither channels nor registers of their blocks but LATEV. -/
theorem State.flagReports_shows (s : State) (n : Nat) :
    (s.flagReports n).rd (IOG_Gg_STAT_LATEV (n / 16)) = 1 ∧ (s.flagReports n).io = s.io ∧
      ∀ f : Fld, f.area.code ≠ 5 → f.area.code ≠ 19 → f.key ≠ (IOG_Gg_STAT_LATEV (n / 16)).key →
        (s.flagReports n).rd f = s.rd f := by
  unfold State.flagReports State.chRecord
  refine ⟨?_, ?_, fun f h5 h19 hf => ?_⟩
  · rw [State.rd_record_code (f := IOG_Gg_STAT_LATEV (n / 16)) (Nat.ne_of_beq_eq_false rfl) (Nat.ne_of_beq_eq_false rfl),
      State.rd_raise_code (Nat.ne_of_beq_eq_false rfl), State.rd_wr_same]
    rfl
  · have hlat : (IOG_Gg_STAT_LATEV (n / 16)).area ∈ ([.pend, .ingress, .iog] : List Area) := .tail _ (.tail _ (.head _))
    exact Kept.io_eq (A := [.pend, .ingress, .iog]) (P := [.pw, .rcd]) (State.record_kept (State.raise_kept
      (State.wr_kept (State.record_kept (State.raise_kept (Kept.refl _ _ s) (by decide)) (by decide) (by decide))
        hlat) (by decide)) (by decide) (by decide)) (by decide)
  · rw [State.rd_record_code h5 h19, State.rd_raise_code h5, State.rd_wr_ne _ hf, State.rd_record_code h5 h19,
      State.rd_raise_code h5]

/-- What the latching of a channel by a new flag shows. -/
structure Latched (s u : State) (n i : Nat) : Prop where
  flag : u.rd (flagFld n i) = 1
  latch : (u.chan n).latch = 2 ^ i
  tripAt : (u.chan n).tripAt = (s.chan n).tripAt
  latched : u.rd (IOG_CHn_STAT_LATCHED n) = 1
  fault : u.rd (IOG_CHn_STAT_FAULT n) = 1
  lane : u.flag (IOG_CHn_STAT_CMDLANE n) = false
  switch : u.flag (IOG_CHn_STAT_SWON n) = false
  fltev : u.rd (IOG_Gg_STAT_FLTEV (n / 16)) = 1
  latev : u.rd (IOG_Gg_STAT_LATEV (n / 16)) = 1
  others : ∀ m, m ≠ n → u.chan m = s.chan m

theorem State.setFlag_latched {i : Nat} (hn : n < 192) (hi : i < 8) (hnew : s.rd (flagFld n i) = 0)
    (hlatches : flagLatches (s.chMode n) i = true) (hlatch : (s.chan n).latch = 0) : Latched s (s.setFlag n i) n i := by
  rw [State.setFlag_latching hnew hlatches hlatch]
  have hset : (s.flagged n i).chan n = { s.chan n with latch := 2 ^ i } := State.chan_setChan_same ..
  have hothers (m : Nat) (hm : m ≠ n) : (s.flagged n i).chan m = s.chan m := State.chan_setChan_ne _ hm _
  have hregs (f : Fld) :
    (s.flagged n i).rd f = ((s.wr (flagFld n i) 1).wr (IOG_Gg_STAT_FLTEV (n / 16)) 1).rd f := rfl
  have hflag : (s.flagged n i).rd (flagFld n i) = 1 := by
    rw [hregs, State.rd_wr_ne _ (Fld.key_ne_of_addr_ne (by simp only [flagFld]; omega) (Nat.le_of_ble_eq_true rfl)
      (by simp only [flagFld, IOG_Gg_STAT_FLTEV]; omega)), State.rd_wr_same]
    rfl
  have hfltev : (s.flagged n i).rd (IOG_Gg_STAT_FLTEV (n / 16)) = 1 := by
    rw [hregs, State.rd_wr_same]
    rfl
  generalize s.flagged n i = v at *
  have hon : (v.chan n).latch ≠ 0 := by rw [hset]; exact (Nat.two_pow_pos i).ne'
  have hrun : Settling (fun m => m = n) v (v.settleChan n) := (Settling.refl _ v).settleChan rfl hn
  obtain ⟨hlane, hswitch⟩ := v.settleChan_low hn (State.decideLane_of_latch hon)
  obtain ⟨hfault, hlatched⟩ := v.settleChan_sums hn
  rw [State.chFault_of_flag hi hflag] at hfault
  rw [State.chLatched_of_latch hon] at hlatched
  obtain ⟨hlatev, hio, hrd⟩ := (v.settleChan n).flagReports_shows n
  have hchan (m : Nat) : (((v.settleChan n).flagReports n).chan m) = (v.settleChan n).chan m :=
    congrArg (fun x : FieldIo => tblGet chanInit m x.chans) hio
  have hstat (lo w rst : Nat) (hlo : lo < 32) : ((v.settleChan n).flagReports n).rd ⟨0x10601008 + 0x20 * n, lo, w, rst, .chan⟩ =
      (v.settleChan n).rd ⟨0x10601008 + 0x20 * n, lo, w, rst, .chan⟩ :=
    hrd _ (Nat.ne_of_beq_eq_false rfl) (Nat.ne_of_beq_eq_false rfl) (Fld.key_ne_of_addr_ne hlo (Nat.le_of_ble_eq_true rfl)
      (by simp only [IOG_Gg_STAT_LATEV]; omega))
  have hown : ((v.settleChan n).chan n).latch = 2 ^ i := (hrun.own n).latch.trans (by rw [hset])
  exact
    { flag := (hrd _ (Nat.ne_of_beq_eq_false rfl) (Nat.ne_of_beq_eq_false rfl) (Fld.key_ne_of_addr_ne
        (by simp only [flagFld]; omega) (Nat.le_of_ble_eq_true rfl) (by simp only [flagFld, IOG_Gg_STAT_LATEV]; omega))).trans
        ((hrun.regs _ (by simp only [flagFld]; omega) (not_settleAddr_chan (by decide) (by decide) (by decide))).trans hflag)
      latch := by rw [hchan, hown]
      tripAt := by rw [hchan, (hrun.own n).tripAt, hset]
      latched := (hstat _ _ _ (by decide)).trans (beq_iff_eq.mp hlatched)
      fault := (hstat _ _ _ (by decide)).trans (beq_iff_eq.mp hfault)
      lane := (State.flag_congr (hstat _ _ _ (by decide))).trans hlane
      switch := (State.flag_congr (hstat _ _ _ (by decide))).trans hswitch
      fltev := (hrd _ (Nat.ne_of_beq_eq_false rfl) (Nat.ne_of_beq_eq_false rfl)
        (by simp only [Fld.key, Area.code, IOG_Gg_STAT_FLTEV, IOG_Gg_STAT_LATEV]; omega)).trans
        ((hrun.regs _ (Nat.le_of_ble_eq_true rfl)
          (not_settleAddr_groupStat (by omega) (by decide) (by decide))).trans hfltev)
      latev := hlatev
      others := fun m hm => by rw [hchan, hrun.others m hm, hothers m hm] }

/-- The reports of a flag that latches. -/
theorem State.setFlag_notes {s0 : State} (h0 : Reported [] [] s0 s) {i : Nat} (hn : n < 192) (hnew : s.rd (flagFld n i) = 0)
    (hlatches : flagLatches (s.chMode n) i = true) (hlatch : (s.chan n).latch = 0) :
    Notes [48 + n / 16, 72 + n / 16] [(1, 7, 48 + n / 16, n), (1, 7, 72 + n / 16, n)] s0 (s.setFlag n i) := by
  rw [State.setFlag_latching hnew hlatches hlatch]
  have hset : Reported [] [] s0 (s.flagged n i) :=
    ((h0.wr (f := flagFld n i) (Nat.ne_of_beq_eq_false rfl) (Nat.ne_of_beq_eq_false rfl)
      (Nat.ne_of_beq_eq_false rfl) 1).wr (f := IOG_Gg_STAT_FLTEV (n / 16)) (Nat.ne_of_beq_eq_false rfl)
      (Nat.ne_of_beq_eq_false rfl) (Nat.ne_of_beq_eq_false rfl) 1).of_parts rfl rfl rfl
  generalize s.flagged n i = v at *
  have hkept : Kept [.iog, .chan] [.out, .io] v (v.settleChan n) :=
    State.settleChan_kept (Kept.refl _ _ v) (by decide) (by decide)
  have hphase : (v.settleChan n).pw = v.pw := hkept.framed.parts .pw (by decide)
  have hsettled : Reported [] [] s0 (v.settleChan n) :=
    hset.kept hkept (by decide) (by decide) (by decide) (by decide) (by rw [hphase])
  generalize v.settleChan n = w at *
  unfold State.flagReports State.chRecord
  have hflt (hr : Recording s0 2) := (hsettled.raise (m := 48 + n / 16) (by omega)).record (hr.mono (by decide)) 1 7
    (48 + n / 16) n (some (0x10601008 + 0x20 * n)) (some (0x10601014 + 0x20 * n))
  have hlat (hr : Recording s0 2) := ((((hflt hr).wr (f := IOG_Gg_STAT_LATEV (n / 16)) (Nat.ne_of_beq_eq_false rfl)
    (Nat.ne_of_beq_eq_false rfl) (Nat.ne_of_beq_eq_false rfl) 1).raise (m := 72 + n / 16) (by omega)).record hr 1 7
    (72 + n / 16) n (some (0x10601008 + 0x20 * n)) (some (0x10601014 + 0x20 * n))).of_mem_iff
    (ms := [48 + n / 16, 72 + n / 16]) fun m => by simp only [List.mem_cons, List.not_mem_nil, or_false]; exact or_comm
  exact fun hr => notes_of_reported (by rfl) (fun _ => hlat hr) hr

/-- The state with the instant of a trip kept. -/
def State.tripped (s : State) (n t : Nat) : State := (s.begin t).setChan n { s.chan n with tripAt := t }

/-- What an overload trip or a thermal shutdown shows. -/
theorem does_latching {c : Instr} {i t : Nat} (hn : n < 192) (hi : i = flTrip ∨ i = flTherm)
    (hexec : exec c s = .next ((s.tripped n t).setFlag n i))
    (hlatch : (s.chan n).latch = 0) (hnew : s.rd (flagFld n i) = 0) :
    Does c s fun u =>
      u.rd (flagFld n i) = 1 ∧ (u.chan n).latch = 2 ^ i ∧ (u.chan n).tripAt = t ∧ u.rd (IOG_CHn_STAT_LATCHED n) = 1 ∧
      u.rd (IOG_CHn_STAT_FAULT n) = 1 ∧ u.flag (IOG_CHn_STAT_CMDLANE n) = false ∧ u.flag (IOG_CHn_STAT_SWON n) = false ∧
      u.rd (IOG_Gg_STAT_FLTEV (n / 16)) = 1 ∧ u.rd (IOG_Gg_STAT_LATEV (n / 16)) = 1 ∧
      Notes [48 + n / 16, 72 + n / 16] [(1, 7, 48 + n / 16, n), (1, 7, 72 + n / 16, n)] s u ∧
      (∀ m, m ≠ n → u.chan m = s.chan m) ∧
      Touches [] [.pend, .iog, .chan, .ingress] [.now, .resp, .out, .pw, .rcd, .io] s u := by
  have hset : (s.tripped n t).chan n = { s.chan n with tripAt := t } := State.chan_setChan_same ..
  have hchan (m : Nat) (hm : m ≠ n) : (s.tripped n t).chan m = s.chan m := State.chan_setChan_ne _ hm _
  have hreport : Reported [] [] s (s.tripped n t) := (Reported.begin s t).of_parts rfl rfl rfl
  have htouches : Touches [] [.pend, .iog, .chan, .ingress] [.now, .resp, .out, .pw, .rcd, .io] s (s.tripped n t) :=
    (Touches.begin s t (by decide)).setChan (by decide) n _
  have hflag : (s.tripped n t).rd (flagFld n i) = 0 := hnew
  generalize s.tripped n t = v at *
  have hlatches : flagLatches (v.chMode n) i = true := by rcases hi with rfl | rfl <;> simp [flagLatches]
  have hclear : (v.chan n).latch = 0 := by rw [hset]; exact hlatch
  obtain ⟨hset1, hset2, hset3, hset4, hset5, hset6, hset7, hset8, hset9, hothers⟩ :=
    State.setFlag_latched hn (by rcases hi with rfl | rfl <;> decide) hflag hlatches hclear
  exact ⟨_, hexec, hset1, hset2, hset3.trans (by rw [hset]), hset4, hset5, hset6, hset7, hset8, hset9,
    State.setFlag_notes hreport hn hflag hlatches hclear, fun m hm => (hothers m hm).trans (hchan m hm),
    htouches.kept (State.setFlag_kept (Kept.refl _ _ _) (by decide) (by decide))⟩

/-! ### Retries -/

theorem State.autoRetry_eq (hretry : s.rd (IOG_CHn_CFG_RETRY n) = 1) (hlatch : (s.chan n).latch = 2 ^ flTrip)
    (hcount : s.rd (IOG_CHn_FAULT_RETRIES n) < s.rd (IOG_Gg_CFG_RCOUNT (n / 16)))
    (hdelay : (s.chan n).tripAt + s.rd (IOG_Gg_CFG_RDELAY (n / 16)) * 100000000 ≤ s.now) :
    s.autoRetry n = ((((s.setChan n { s.chan n with latch := 0 }).wr (IOG_CHn_FAULT_TRIP n) 0).wr
      (IOG_CHn_FAULT_THERM n) 0).bump (IOG_CHn_FAULT_RETRIES n)).settleChan n := by
  have hflag : s.flag (IOG_CHn_CFG_RETRY n) = true := beq_iff_eq.mpr hretry
  unfold State.autoRetry
  exact if_pos (by rw [hflag, hlatch, decide_eq_true hcount, decide_eq_true hdelay]; decide)

/-- A channel released for another try, before it follows. -/
def State.released (s : State) (n : Nat) : State :=
  (((s.setChan n { s.chan n with latch := 0 }).wr (IOG_CHn_FAULT_TRIP n) 0).wr (IOG_CHn_FAULT_THERM n) 0).bump
    (IOG_CHn_FAULT_RETRIES n)

theorem State.released_shows (s : State) (n : Nat) (hmax : s.rd (IOG_CHn_FAULT_RETRIES n) < 15) :
    (s.released n).rd (IOG_CHn_FAULT_TRIP n) = 0 ∧ (s.released n).rd (IOG_CHn_FAULT_THERM n) = 0 ∧
      (s.released n).rd (IOG_CHn_FAULT_RETRIES n) = s.rd (IOG_CHn_FAULT_RETRIES n) + 1 ∧
      ((s.released n).chan n).latch = 0 ∧ ∀ m, m ≠ n → (s.released n).chan m = s.chan m := by
  have hset (u : State) (c : Chan) (f : Fld) : (u.setChan n c).rd f = u.rd f := rfl
  refine ⟨?_, ?_, ?_, congrArg Chan.latch (State.chan_setChan_same _ n { s.chan n with latch := 0 }),
    fun m hm => State.chan_setChan_ne _ hm _⟩ <;> unfold State.released <;>
    simp (disch := first | (simp only [Fld.key, Area.code, IOG_CHn_FAULT_TRIP, IOG_CHn_FAULT_THERM, IOG_CHn_FAULT_RETRIES] <;> omega) | fail) only [hset, State.bump_eq, State.rd_wr_ne, State.rd_wr_same, sat_mod]
  · rfl
  · rfl
  · exact Nat.min_eq_left (show s.rd (IOG_CHn_FAULT_RETRIES n) + 1 ≤ 15 by omega)

/-! ### Acknowledges -/

theorem State.hit_wr_zero (s : State) (f g : Fld) : (s.wr f 0).hit g = s.hit g := by
  have hrisen : risen f.w (s.rd f) (0 % 2 ^ f.w) = 0 := by simp [risen]
  by_cases hg : g.key = f.key
  · unfold State.hit
    rw [hg]
    exact (tblGet_set_same _ _ _ _).trans (by rw [hrisen, Nat.or_zero]; rfl)
  · exact State.hit_wr_ne s hg 0

theorem bitAt_foldl_setBit (p : Nat → Bool) (l : List Nat) (v j : Nat) :
    bitAt (l.foldl (fun m i => setBit m i (p i)) v) j = if j ∈ l then p j else bitAt v j := by
  induction l generalizing v with
  | nil => simp
  | cons i l ih =>
    rw [List.foldl_cons, ih, bitAt_setBit]
    by_cases hj : j ∈ l
    · simp [hj]
    · by_cases hji : j = i
      · simp [hji]
      · simp [hj, hji]

/-- The latches that an acknowledge leaves are those whose flags are new. -/
theorem State.bitAt_newLatch (s : State) (n : Nat) {i : Nat} (hi : i < 8) :
    bitAt (s.newLatch n) i = (bitAt (s.chan n).latch i && s.hit (flagFld n i) != 0) := by
  unfold State.newLatch
  rw [bitAt_foldl_setBit, if_pos (List.mem_range.mpr hi)]

theorem State.newLatch_zero (h : ∀ i, i < 8 → s.hit (flagFld n i) = 0) : s.newLatch n = 0 := by
  have hzero (l : List Nat) (hl : ∀ i ∈ l, i < 8) :
      l.foldl (fun m i => setBit m i (bitAt (s.chan n).latch i && s.hit (flagFld n i) != 0)) 0 = 0 := by
    induction l with
    | nil => rfl
    | cons i l ih =>
      have hset : setBit 0 i false = 0 := by simp [setBit, bitAt]
      rw [List.foldl_cons, h i (hl i List.mem_cons_self), bne_self_eq_false, Bool.and_false, hset]
      exact ih fun j hj => hl j (List.mem_cons_of_mem _ hj)
  exact hzero _ fun i hi => List.mem_range.mp hi

/-- What an acknowledge of other channels leaves of channel m. -/
structure AckSame (m : Nat) (s u : State) : Prop where
  chan : u.chan m = s.chan m
  retries : u.rd (IOG_CHn_FAULT_RETRIES m) = s.rd (IOG_CHn_FAULT_RETRIES m)
  flags : ∀ i, i < 8 → u.rd (flagFld m i) = s.rd (flagFld m i)
  hits : ∀ i, i < 8 → u.hit (flagFld m i) = s.hit (flagFld m i)

/-- The flags that an acknowledge clears. -/
abbrev ackFlags : List Nat := [flStuck, flHeld, flCross, flTrip, flTherm]

/-- An acknowledged channel. -/
structure AckDone (m : Nat) (s u : State) : Prop where
  latch : (u.chan m).latch = s.newLatch m
  retries : u.rd (IOG_CHn_FAULT_RETRIES m) = 0
  flags : ∀ i ∈ ackFlags, u.rd (flagFld m i) = if s.hit (flagFld m i) = 0 then 0 else s.rd (flagFld m i)

theorem AckSame.refl (m : Nat) (s : State) : AckSame m s s := ⟨rfl, rfl, fun _ _ => rfl, fun _ _ => rfl⟩

theorem AckSame.trans {m : Nat} {w : State} (h : AckSame m s u) (h' : AckSame m u w) : AckSame m s w :=
  ⟨h'.chan.trans h.chan, h'.retries.trans h.retries, fun i hi => (h'.flags i hi).trans (h.flags i hi),
    fun i hi => (h'.hits i hi).trans (h.hits i hi)⟩

theorem ackFlags_lt {i : Nat} (hi : i ∈ ackFlags) : i < 8 := (by decide : ∀ i ∈ ackFlags, i < 8) i hi

theorem AckDone.same {m : Nat} {w : State} (h : AckDone m s u) (h' : AckSame m u w) : AckDone m s w :=
  ⟨by rw [h'.chan, h.latch], h'.retries.trans h.retries, fun i hi => (h'.flags i (ackFlags_lt hi)).trans (h.flags i hi)⟩

theorem State.newLatch_congr {m : Nat} (h : AckSame m s u) : u.newLatch m = s.newLatch m := by
  have hfold (l : List Nat) (hl : ∀ i ∈ l, i < 8) (v : Nat) :
      l.foldl (fun v i => setBit v i (bitAt (u.chan m).latch i && u.hit (flagFld m i) != 0)) v =
        l.foldl (fun v i => setBit v i (bitAt (s.chan m).latch i && s.hit (flagFld m i) != 0)) v :=
    List.foldl_ext _ _ v fun v i hi => by rw [h.chan, h.hits i (hl i hi)]
  exact hfold _ (fun i hi => List.mem_range.mp hi) 0

theorem AckSame.done {m : Nat} {w : State} (h : AckSame m s u) (h' : AckDone m u w) : AckDone m s w :=
  ⟨h'.latch.trans (State.newLatch_congr h), h'.retries, fun i hi => by
    rw [h'.flags i hi, h.hits i (ackFlags_lt hi), h.flags i (ackFlags_lt hi)]⟩

/-- A flag cleared, unless it is new. -/
def State.clearFlag (s : State) (n i : Nat) : State := if s.hit (flagFld n i) != 0 then s else s.wr (flagFld n i) 0

/-- The flags of a channel cleared, but for new ones. -/
def State.clearFlags (s : State) (n : Nat) (l : List Nat) : State := l.foldl (fun s i => s.clearFlag n i) s

/-- An acknowledged channel, before it follows. -/
def State.acked (s : State) (n : Nat) : State :=
  ((s.clearFlags n ackFlags).wr (IOG_CHn_FAULT_RETRIES n) 0).setChan n
    { ((s.clearFlags n ackFlags).wr (IOG_CHn_FAULT_RETRIES n) 0).chan n with latch := s.newLatch n }

theorem State.ackChan_eq (s : State) (n : Nat) : s.ackChan n = (s.acked n).settleChan n := by
  unfold State.ackChan State.acked State.clearFlags State.clearFlag
  rfl

theorem flagFld_key_ne {m i j : Nat} (hi : i < 8) (hj : j < 8) (h : m ≠ n ∨ i ≠ j) :
    (flagFld m i).key ≠ (flagFld n j).key := by
  simp only [Fld.key, Area.code, flagFld]
  omega

theorem State.clearFlag_shows (s : State) (n i : Nat) :
    (s.clearFlag n i).io = s.io ∧ (∀ f, (s.clearFlag n i).hit f = s.hit f) ∧
      (∀ f : Fld, f.key ≠ (flagFld n i).key → (s.clearFlag n i).rd f = s.rd f) ∧
      (s.clearFlag n i).rd (flagFld n i) = if s.hit (flagFld n i) = 0 then 0 else s.rd (flagFld n i) := by
  unfold State.clearFlag
  split
  case isTrue h =>
    rw [bne_iff_ne] at h
    exact ⟨rfl, fun _ => rfl, fun _ _ => rfl, (if_neg h).symm⟩
  case isFalse h =>
    have hzero : s.hit (flagFld n i) = 0 := by simpa using h
    exact ⟨rfl, fun f => State.hit_wr_zero s _ f, fun f hf => State.rd_wr_ne s hf 0,
      (State.rd_wr_same ..).trans (by rw [if_pos hzero]; rfl)⟩

theorem State.clearFlags_shows (s : State) (n : Nat) (l : List Nat) (hl : ∀ i ∈ l, i < 8) :
    (s.clearFlags n l).io = s.io ∧ (∀ f, (s.clearFlags n l).hit f = s.hit f) ∧
      (∀ f : Fld, (∀ i ∈ l, f.key ≠ (flagFld n i).key) → (s.clearFlags n l).rd f = s.rd f) ∧
      ∀ i ∈ l, (s.clearFlags n l).rd (flagFld n i) = if s.hit (flagFld n i) = 0 then 0 else s.rd (flagFld n i) := by
  induction l generalizing s with
  | nil => exact ⟨rfl, fun _ => rfl, fun _ _ => rfl, fun i hi => absurd hi List.not_mem_nil⟩
  | cons j l ih =>
    have hj : j < 8 := hl j List.mem_cons_self
    have hl' : ∀ i ∈ l, i < 8 := fun i hi => hl i (List.mem_cons_of_mem _ hi)
    obtain ⟨hio, hhit, hrd, hflags⟩ := ih (s.clearFlag n j) hl'
    obtain ⟨hio1, hhit1, hrd1, hflag1⟩ := s.clearFlag_shows n j
    refine ⟨hio.trans hio1, fun f => (hhit f).trans (hhit1 f), fun f hf => ?_, fun i hi => ?_⟩
    · exact (hrd f fun i hi => hf i (List.mem_cons_of_mem _ hi)).trans (hrd1 f (hf j List.mem_cons_self))
    · by_cases hmem : i ∈ l
      · refine (hflags i hmem).trans ?_
        rw [hhit1]
        by_cases hij : i = j
        · subst hij
          rw [hflag1]
          split <;> rfl
        · rw [hrd1 _ (flagFld_key_ne (hl' i hmem) hj (.inr hij))]
      · obtain rfl : i = j := (List.mem_cons.mp hi).resolve_right hmem
        refine (hrd _ fun k hk => flagFld_key_ne hj (hl' k hk) (.inr ?_)).trans hflag1
        rintro rfl
        exact hmem hk

theorem key_ne_retries {m i : Nat} (hi : i < 8) : (flagFld m i).key ≠ (IOG_CHn_FAULT_RETRIES n).key := by
  simp only [Fld.key, Area.code, flagFld, IOG_CHn_FAULT_RETRIES]
  omega

/-- An acknowledged channel before it follows. -/
theorem State.acked_shows (s : State) (n : Nat) :
    AckDone n s (s.acked n) ∧ (∀ m, m ≠ n → AckSame m s (s.acked n)) := by
  obtain ⟨hio, hhit, hrd, hflags⟩ := s.clearFlags_shows n ackFlags (by decide)
  have hchan (m : Nat) : (s.clearFlags n ackFlags).chan m = s.chan m := congrArg (fun x : FieldIo => tblGet chanInit m x.chans) hio
  unfold State.acked
  generalize s.clearFlags n ackFlags = v at *
  have hset (c : Chan) : ((v.wr (IOG_CHn_FAULT_RETRIES n) 0).setChan n c).chan n = c := State.chan_setChan_same ..
  have hregs (c : Chan) (f : Fld) : ((v.wr (IOG_CHn_FAULT_RETRIES n) 0).setChan n c).rd f =
    (v.wr (IOG_CHn_FAULT_RETRIES n) 0).rd f := rfl
  have hhits (c : Chan) (f : Fld) : ((v.wr (IOG_CHn_FAULT_RETRIES n) 0).setChan n c).hit f = s.hit f :=
    (State.hit_wr_zero v _ f).trans (hhit f)
  refine ⟨⟨by rw [hset], by rw [hregs, State.rd_wr_same]; rfl, fun i hi => ?_⟩,
    fun m hm => ⟨(State.chan_setChan_ne _ hm _).trans (hchan m), ?_, fun i hi => ?_, fun i hi => hhits _ _⟩⟩
  · rw [hregs, State.rd_wr_ne _ (key_ne_retries (ackFlags_lt hi)), hflags i hi]
  · rw [hregs, State.rd_wr_ne _ (by simp only [Fld.key, Area.code, IOG_CHn_FAULT_RETRIES]; omega),
      hrd _ fun i hi => (key_ne_retries (ackFlags_lt hi)).symm]
  · rw [hregs, State.rd_wr_ne _ (key_ne_retries hi), hrd _ fun j hj => flagFld_key_ne hi (ackFlags_lt hj) (.inl hm)]

/-- Settling leaves flags and RETRIES of every channel as they were. -/
theorem Settling.fault {C : Nat → Prop} (h : Settling C s u) (m : Nat) :
    u.rd (IOG_CHn_FAULT_RETRIES m) = s.rd (IOG_CHn_FAULT_RETRIES m) ∧
      (∀ i, i < 8 → u.rd (flagFld m i) = s.rd (flagFld m i)) ∧ ∀ i, i < 8 → u.hit (flagFld m i) = s.hit (flagFld m i) :=
  ⟨h.regs _ (Nat.le_of_ble_eq_true rfl) (not_settleAddr_chan (by decide) (by decide) (by decide)),
    fun i hi => h.regs _ (by simp only [flagFld]; omega) (not_settleAddr_chan (by decide) (by decide) (by decide)),
    fun i hi => h.hits _ (by simp only [flagFld]; omega) (not_settleAddr_chan (by decide) (by decide) (by decide))⟩

/-- What an acknowledge of channel n does to it and to the others. -/
theorem State.ackChan_shows (s : State) (hn : n < 192) :
    AckDone n s (s.ackChan n) ∧ ∀ m, m ≠ n → AckSame m s (s.ackChan n) := by
  obtain ⟨hdone, hsame⟩ := s.acked_shows n
  rw [State.ackChan_eq]
  have hrun : Settling (fun k => k = n) (s.acked n) ((s.acked n).settleChan n) := (Settling.refl _ _).settleChan rfl hn
  refine ⟨?_, fun m hm => ?_⟩
  · obtain ⟨hretries, hflags, -⟩ := hrun.fault n
    exact ⟨(hrun.own n).latch.trans hdone.latch, hretries.trans hdone.retries,
      fun i hi => (hflags i (ackFlags_lt hi)).trans (hdone.flags i hi)⟩
  · obtain ⟨hretries, hflags, hhits⟩ := hrun.fault m
    exact (hsame m hm).trans ⟨hrun.others m hm, hretries, hflags, hhits⟩

/-- Channel m is one of those that the bits k in l of the mask name. -/
def Acknowledges (g mask m : Nat) (l : List Nat) : Prop := ∃ k ∈ l, bitAt mask k = true ∧ m = 16 * g + k

/-- An acknowledge reaches the channels of its mask once, and no other. -/
theorem State.foldl_ackChan_shows {g mask : Nat} (hg : g < 12) (m : Nat) (l : List Nat) (hl : ∀ k ∈ l, k < 16)
    (hnodup : l.Nodup) (s : State) :
    (Acknowledges g mask m l →
      AckDone m s (l.foldl (fun s k => if bitAt mask k then s.ackChan (16 * g + k) else s) s)) ∧
    (¬ Acknowledges g mask m l →
      AckSame m s (l.foldl (fun s k => if bitAt mask k then s.ackChan (16 * g + k) else s) s)) := by
  induction l generalizing s with
  | nil => exact ⟨fun ⟨k, hk, _⟩ => absurd hk List.not_mem_nil, fun _ => AckSame.refl m s⟩
  | cons k l ih =>
    have hk : k < 16 := hl k List.mem_cons_self
    obtain ⟨hfresh, hnodup'⟩ := List.nodup_cons.mp hnodup
    obtain ⟨htail, htail'⟩ := ih (fun j hj => hl j (List.mem_cons_of_mem _ hj)) hnodup'
      (if bitAt mask k then s.ackChan (16 * g + k) else s)
    obtain ⟨hdone, hsame⟩ := s.ackChan_shows (n := 16 * g + k) (by omega)
    rw [List.foldl_cons]
    by_cases hhead : bitAt mask k = true ∧ m = 16 * g + k
    · obtain ⟨hbit, rfl⟩ := hhead
      have hrest : ¬ Acknowledges g mask (16 * g + k) l := by
        rintro ⟨j, hj, -, hm⟩
        obtain rfl : k = j := by omega
        exact hfresh hj
      rw [if_pos hbit] at htail htail' ⊢
      exact ⟨fun _ => hdone.same (htail' hrest), fun h => absurd ⟨k, List.mem_cons_self, hbit, rfl⟩ h⟩
    · have hstep : AckSame m s (if bitAt mask k then s.ackChan (16 * g + k) else s) := by
        split
        case isTrue hbit => exact hsame m fun hm => hhead ⟨hbit, hm⟩
        · exact AckSame.refl m s
      refine ⟨fun ⟨j, hj, hbit, hm⟩ => hstep.done (htail ⟨j, ?_, hbit, hm⟩), fun h => hstep.trans (htail' fun ⟨j, hj, h'⟩ =>
        h ⟨j, List.mem_cons_of_mem _ hj, h'⟩)⟩
      refine (List.mem_cons.mp hj).resolve_left ?_
      rintro rfl
      exact hhead ⟨hbit, hm⟩

/-- Flags are new in the running fabric clock alone. -/
theorem State.hit_begin (s : State) (t : Nat) (f : Fld) : (s.begin t).hit f = if t = s.now then s.hit f else 0 := by
  unfold State.hit State.begin
  split <;> rfl

/-- Settles O17. -/
theorem channelTripsAndRecovery : Obligations.ChannelTripsAndRecovery := by
  refine ⟨fun s n t hout hlatch => ⟨fun hflag => ?_, fun hflag => ?_⟩, fun s n g mask t => ⟨?_, ?_, ?_⟩⟩
  · exact does_latching n.isLt (.inl rfl) (congrArg Host.Outcome.next (if_pos hout)) hlatch hflag
  · exact does_latching n.isLt (.inr rfl) (congrArg Host.Outcome.next (if_pos hout)) hlatch hflag
  · intro hretry hlatch hcount hmax hdelay
    have heq := State.autoRetry_eq (s := s.begin t) (n := n) hretry hlatch hcount hdelay
    have htouches : Touches [] [.iog, .chan] [.now, .resp, .out, .io] s ((s.begin t).autoRetry n) :=
      (Touches.begin s t (by decide)).kept (State.autoRetry_kept (Kept.refl _ _ _) (by decide) (by decide))
    rw [heq] at htouches
    obtain ⟨htrip, htherm, hretries, hfree, hothers⟩ := (s.begin t).released_shows n hmax
    have hrun : Settling (fun m => m = n.val) ((s.begin t).released n) (((s.begin t).released n).settleChan n) :=
      (Settling.refl _ _).settleChan rfl n.isLt
    have hfault {lo w rst : Nat} (hlo : lo < 32) :
        (((s.begin t).released n).settleChan n).rd ⟨0x10601014 + 0x20 * n, lo, w, rst, .chan⟩ =
          ((s.begin t).released n).rd ⟨0x10601014 + 0x20 * n, lo, w, rst, .chan⟩ :=
      hrun.regs _ hlo (not_settleAddr_chan (by decide) (by decide) (by decide))
    exact ⟨_, congrArg Host.Outcome.next heq, (hrun.own n).latch.trans hfree, (hfault (by decide)).trans htrip,
      (hfault (by decide)).trans htherm, (hfault (by decide)).trans hretries,
      fun m hm => (hrun.others m hm).trans (hothers m hm), htouches⟩
  · intro hwant hsince htrip
    refine ⟨_, congrArg Host.Outcome.next (if_pos ?_), ?_, (Touches.begin s t (by decide)).wrOf List.mem_cons_self 0⟩
    · exact (Bool.and_eq_true _ _).mpr ⟨(Bool.and_eq_true _ _).mpr ⟨hwant, decide_eq_true hsince⟩, decide_eq_true htrip⟩
    · exact State.rd_wr_same ..
  · intro hrun
    have hack (m : Nat) := State.foldl_ackChan_shows (mask := mask.toNat) g.isLt m (List.range 16)
      (fun k hk => List.mem_range.mp hk) List.nodup_range (s.begin t)
    refine ⟨(s.begin t).channelAck g mask.toNat, congrArg Host.Outcome.next (if_pos (beq_iff_eq.mpr hrun)),
      fun k hk hbit => ?_, fun k hk hbit => ?_, fun m _ hm => ?_,
      (Touches.begin s t (by decide)).kept (State.channelAck_kept (Kept.refl _ _ _) (by decide) (by decide))⟩
    · obtain ⟨hlatch, hretries, hflags⟩ := (hack (16 * g.val + k)).1 ⟨k, List.mem_range.mpr hk, hbit, rfl⟩
      refine ⟨hretries, fun hnow => hlatch.trans (State.newLatch_zero fun i hi => ?_), fun i hi => ⟨fun h => ?_,
        fun hnow hhit => ⟨?_, ?_⟩⟩⟩
      · rw [State.hit_begin, if_neg hnow]
      · refine (hflags i hi).trans (if_pos ?_)
        rw [State.hit_begin]
        split
        case isTrue hnow => exact h.resolve_left fun hne => hne hnow
        · rfl
      · refine (hflags i hi).trans (if_neg ?_)
        rwa [State.hit_begin, if_pos hnow]
      · refine (congrArg (bitAt · i) hlatch).trans ?_
        rw [State.bitAt_newLatch _ _ (ackFlags_lt hi), State.hit_begin, if_pos hnow, bne_iff_ne.mpr hhit, Bool.and_true]
        rfl
    · obtain ⟨hchan, hretries, hflags, -⟩ := (hack (16 * g.val + k)).2 (by
        rintro ⟨j, -, hj, hm⟩
        obtain rfl : k = j := by omega
        exact Bool.false_ne_true (hbit.symm.trans hj))
      exact ⟨congrArg Chan.latch hchan, hretries, hflags⟩
    · refine ((hack m).2 ?_).chan
      rintro ⟨j, hj, -, rfl⟩
      rw [List.mem_range] at hj
      omega

end Sys2Proof.Machine

/-! ## Where the power commands complete (R500 to R508, R516, R524) -/

namespace Sys2Proof.Machine

variable {s u : State} {l : LowPower}

/-- A state fits before an event that comes late enough, or before none. -/
theorem State.fits_of_all {next : Option Nat} {cost : Nat}
    (h : next.all (fun d => decide (s.now + s.rd PWR_POL_GUARD * 1000 + cost ≤ d)) = true) : s.fits next cost = true := by
  cases next with
  | none => rfl
  | some d => exact h

/-! ### Doze of a stand -/

/-- The stand in WFI. -/
def State.waiting (s : State) (k : Nat) : State := s.setStand k { s.stand k with wfi := true }

/-- A stand comes to rest: it still waits, and its unit shows the state. -/
theorem State.standRests_doze (s : State) (k : Nat) (exit : Nat) :
    ((s.standRests k 1 exit).stand k).wfi = (s.stand k).wfi ∧ (s.standRests k 1 exit).rd (PWR_UNIT_UNIT k) = 1 := by
  have hsuspend (v : State) : (v.lookoutSuspend.stand k) = v.stand k ∧
      v.lookoutSuspend.rd (PWR_UNIT_UNIT k) = v.rd (PWR_UNIT_UNIT k) := by
    refine ⟨rfl, ?_⟩
    exact (State.lookoutSuspend_kept (A := [.lko]) (P := []) (Kept.refl _ _ v) (by decide)).framed.regs _
      (List.not_mem_cons_of_ne_of_not_mem nofun List.not_mem_nil)
  have hrest (at_ : Option Nat) (asleep : Nat) :
      (((s.setStand k { s.stand k with wakeAt := at_, asleep := asleep }).wr (PWR_UNIT_UNIT k) 1).stand k).wfi =
        (s.stand k).wfi := by rw [State.wr_stand, State.stand_setStand_same]
  unfold State.standRests
  simp only [show ¬ (1 : Nat) = 2 by decide, if_false]
  split
  · rw [(hsuspend _).1, (hsuspend _).2, hrest, State.rd_wr_same]
    exact ⟨rfl, rfl⟩
  · rw [hrest, State.rd_wr_same]
    exact ⟨rfl, rfl⟩

/-- An idle stand that nothing calls goes to Doze where that fits. -/
theorem State.standWfi_doze {k : Nat} (hup : s.standUp k = true) (hstate : s.standState k = stRunning)
    (hunit : s.rd (PWR_UNIT_UNIT k) = 0) (hreq : (s.stand k).request = none) (hrun : (s.stand k).run = none)
    (hcalled : (s.waiting k).standCalled k = false) (hpended : s.justPended k = false) (hpol : s.rd PWR_POL_MAXUNIT = 1)
    (hfits : (s.waiting k).fits ((s.waiting k).standNext k) (dozeEntry + dozeExit) = true) :
    s.standWfi k = (s.waiting k).standRests k 1 dozeExit := by
  have hstand : (s.waiting k).stand k = { s.stand k with wfi := true } := State.stand_setStand_same ..
  have hpended' : (s.waiting k).justPended k = false := hpended
  have hpol' : (s.waiting k).rd PWR_POL_MAXUNIT = 1 := hpol
  unfold State.standWfi
  rw [if_neg (by simp [hup, hstate, hunit])]
  rw [show s.setStand k { s.stand k with wfi := true } = s.waiting k from rfl]
  simp only [hcalled, hpended', hpol', hfits]
  rw [if_neg (by simp [hstand, hreq, hrun])]
  rfl

/-- A stand in Doze whose instant has come wakes. -/
theorem State.unitWake_doze {k w : Nat} (hup : s.standUp k = true) (hunit : s.rd (PWR_UNIT_UNIT k) = 1)
    (hat : (s.stand k).wakeAt = some w) (hw : w ≤ s.now) :
    (s.unitWake k).rd (PWR_UNIT_UNIT k) = 0 ∧ ((s.unitWake k).stand k).wakeAt = none := by
  have heq : s.unitWake k = s.standWakes k := by
    unfold State.unitWake
    simp only [hat, hup, decide_eq_true hw, Bool.true_or, Bool.and_true, if_true]
  have hrestart (v : State) : (v.lookoutRestart false).stand k = v.stand k ∧
      (v.lookoutRestart false).rd (PWR_UNIT_UNIT k) = v.rd (PWR_UNIT_UNIT k) := by
    have hk : Kept [.lko] [.lko] v (v.lookoutRestart false) :=
      State.lookoutRestart_kept (Kept.refl _ _ v) (by decide) (by decide)
    have hstd : (v.lookoutRestart false).std = v.std := hk.framed.parts .std (by decide)
    exact ⟨by unfold State.stand; rw [hstd], hk.framed.regs _ (List.not_mem_cons_of_ne_of_not_mem nofun List.not_mem_nil)⟩
  have hset : ((s.setStand k { s.stand k with wakeAt := none }).wr (PWR_UNIT_UNIT k) 0).stand k =
      { s.stand k with wakeAt := none } := State.stand_setStand_same ..
  have hrd : ((s.setStand k { s.stand k with wakeAt := none }).wr (PWR_UNIT_UNIT k) 0).rd (PWR_UNIT_UNIT k) = 0 :=
    State.rd_wr_same ..
  rw [heq]
  unfold State.standWakes
  simp only [hunit]
  split
  · rw [(hrestart _).1, (hrestart _).2, hset, hrd]
    exact ⟨rfl, rfl⟩
  · rw [hset, hrd]
    exact ⟨rfl, rfl⟩

/-! ### PWR_CMD -/

/-- A command of the module's stand runs while the module does. -/
theorem State.pwrCommand_zero (hopen : s.deviceOpen 0 0x10100000 = true) (hphase : s.pw.phase = .running)
    (f : State → State) : s.pwrCommand 0 f = (f s).answer .done := by
  unfold State.pwrCommand
  rw [hopen, hphase]
  rfl

/-- An entry that nothing refuses. -/
theorem State.lowErr_zero {hib : Bool} (hloaded : s.loaded = true) (hpol : s.rd PWR_STAT_POLERR = 0)
    (hmax : s.rd PWR_POL_MAXMOD = if hib then 2 else 1) (hblocked : s.lowBlocked = false) (hlow : s.pmg.low = none)
    (hwake : s.wakePending hib = false) : s.lowErr hib = 0 := by
  have hflag : s.flag PWR_STAT_POLERR = false := beq_eq_false_iff_ne.mpr (by rw [hpol]; decide)
  unfold State.lowErr
  simp [hloaded, hflag, hmax, hblocked, hlow, hwake]

/-- REST goes to Slumber where the policy and the slack allow no more. -/
theorem State.rest_slumber (herr : s.lowErr false = 0) (hmax : s.rd PWR_POL_MAXMOD = 1)
    (hfits : s.fits s.moduleNext (slumberEntry + s.depotNs + Machine.slumberExit) = true) : s.rest = s.lowEnter false := by
  unfold State.rest
  simp [herr, hmax, hfits]

/-- The entry to Slumber or Hibernate as it begins. -/
def State.entering (s : State) (hib : Bool) : State :=
  (({ s with pmg := { s.pmg with low := some ⟨hib, s.now, false, false, false, false⟩, edges := [] } } : State).wr
    PWR_STAT_ERR 0).wr PWR_STAT_STATE (if hib then 4 else 1)

/-- An entry that nothing refuses begins. -/
theorem State.lowEnter_begins {hib : Bool} (herr : s.lowErr hib = 0) :
    (s.lowEnter hib).pmg.low = some ⟨hib, s.now, false, false, false, false⟩ ∧
      (s.lowEnter hib).rd PWR_STAT_STATE = if hib then 4 else 1 := by
  have heq : s.lowEnter hib = if hib then (s.entering hib).dropPrepare.prepareEnds else (s.entering hib).dropPrepare :=
    if_neg (by rw [herr]; decide)
  have hkept : Kept [.pend, .fwu] [.fresh, .fwu] (s.entering hib) (s.lowEnter hib) := by
    rw [heq]
    exact Kept.ite (State.prepareEnds_kept (State.dropPrepare_kept (Kept.refl _ _ _) (by decide) (by decide)) (by decide)
      (by decide)) (State.dropPrepare_kept (Kept.refl _ _ _) (by decide) (by decide))
  have hpmg : (s.lowEnter hib).pmg = (s.entering hib).pmg := hkept.framed.parts .pmg (by decide)
  refine ⟨by rw [hpmg]; rfl, (hkept.framed.regs PWR_STAT_STATE (by decide)).trans ((State.rd_wr_same ..).trans ?_)⟩
  cases hib <;> rfl

/-- An entry ends where it stands. -/
theorem State.lowEnd_shows (s : State) :
    s.lowEnd.pmg.low = none ∧ s.lowEnd.rd PWR_STAT_STATE = 0 ∧ s.lowEnd.rd PWR_STAT_ERR = 6 := by
  unfold State.lowEnd State.pwrOutcome
  simp (disch := decide) only [State.raise_pmg, State.wr_pmg, State.rd_raise_code, State.rd_wr_ne, State.rd_wr_same]
  exact ⟨trivial, rfl, rfl⟩

/-- CANCEL stops an entry whose step is done at once. -/
theorem State.lowCancel_done (hlow : s.pmg.low = some l) (hreached : l.reached = false) (hwoken : l.woken = false)
    (hdone : s.lowStepDone l = true) : ∃ v, s.lowCancel = State.lowEnd v := by
  have hstate (e : Nat) : (s.wr PWR_WAKESRC_SRC 0).leState e = s.leState e :=
    State.rd_wr_area s (f := PWR_WAKESRC_SRC) (g := LE_Ee_STAT_STATE e) nofun 0
  have hfill : (s.wr PWR_WAKESRC_SRC 0).fill = s.fill :=
    State.rd_wr_area s (f := PWR_WAKESRC_SRC) (g := REC_STG_BYTES) nofun 0
  let v : State := { s.wr PWR_WAKESRC_SRC 0 with pmg := { s.pmg with low := some { l with woken := true } } }
  have hdone' : v.lowStepDone l = true := by
    rw [← hdone]
    unfold State.lowStepDone
    rw [← hfill]
    simp only [← hstate]
    rfl
  refine ⟨v, ?_⟩
  unfold State.lowCancel
  rw [hlow]
  simp only [hreached, hwoken, Bool.or_self, Bool.false_eq_true, if_false]
  exact if_pos hdone'

/-! ### The end of Slumber -/

/-- A wake by the timer ends Slumber. -/
theorem State.wake_timer {w : Nat} (hen : s.rd PWR_WAKE_EN % 2 = 1) (htimer : s.wakeTimer = some w) (hw : w ≤ s.now)
    (hphase : s.pw.phase = .running) (hlow : s.pmg.low = some l) (hreached : l.reached = true) (hhib : l.hib = false)
    (hwoken : l.woken = false) (hstate : s.rd PWR_STAT_STATE = 2) :
    s.wake 0 = (s.wakeSource 0).wr PWR_STAT_STATE 3 := by
  have hfires : s.wakeFires 0 = true := by
    have hbit : s.bit PWR_WAKE_EN 0 = true := by simp [State.bit, bitAt, hen]
    unfold State.wakeFires
    simp only [hbit, htimer, decide_eq_true hw, Bool.and_self]
  unfold State.wake
  simp [hfires, hphase, hlow, hreached, hhib, hwoken, hstate]

/-- Units that all show Run. -/
def State.unitsRun (s : State) : State := (List.range 8).foldl (fun s u => s.wr (PWR_UNIT_UNIT u) 0) s

theorem State.rd_unitsRun (s : State) {k : Nat} (hk : k < 8) : s.unitsRun.rd (PWR_UNIT_UNIT k) = 0 := by
  have hfold (l : List Nat) (s : State) (h : k ∈ l ∨ s.rd (PWR_UNIT_UNIT k) = 0) :
      (l.foldl (fun s u => s.wr (PWR_UNIT_UNIT u) 0) s).rd (PWR_UNIT_UNIT k) = 0 := by
    induction l generalizing s with
    | nil => exact h.resolve_left List.not_mem_nil
    | cons u l ih =>
      refine ih _ ?_
      by_cases hu : k = u
      · subst hu
        exact .inr (State.rd_wr_same ..)
      · refine h.imp (fun hmem => (List.mem_cons.mp hmem).resolve_left hu) fun hz => ?_
        rw [State.rd_wr_ne _ (by simp only [Fld.key, PWR_UNIT_UNIT]; omega), hz]
  exact hfold _ s (.inl (List.mem_range.mpr hk))

theorem State.unitsRun_kept {A : List Area} {P : List Part} {s0 : State} (hk : Kept A P s0 s) (hA : .unit ∈ A) :
    Kept A P s0 s.unitsRun :=
  Kept.foldl (f := fun s u => s.wr (PWR_UNIT_UNIT u) 0) (fun _ _ hv => State.wr_kept hv hA) hk _

/-- The state in which a module that leaves Slumber shows Run. -/
def State.leftSlumber (s : State) : State :=
  (({ s with pmg := { s.pmg with low := none }, cvu := { s.cvu with resetting := false } } : State).wr PWR_STAT_STATE 0)

/-- Lookout goes on after Slumber, unless a debug halt of S0 has paused it. -/
def State.lookoutGoesOn (s : State) : State :=
  if s.standState 0 = stHalted ∧ s.flag STD_OPT_LKODBG then s else s.lookoutRestart false

/-- What restarts as after its function reset. -/
def State.unitsBack (s : State) : State := (List.range 6).foldl State.portResetDone s.rootwayResetDone

theorem State.slumberExit_eq (hstate : s.rd PWR_STAT_STATE = 3) :
    s.slumberExit = (s.leftSlumber.dramWake.lookoutGoesOn.unitsRun.unitsBack.wr PWR_STAT_WAKEEV 1).raise 233 :=
  if_pos hstate

theorem State.slumberExit_shows (hstate : s.rd PWR_STAT_STATE = 3) {k : Nat} (hk : k < 8) :
    s.slumberExit.rd PWR_STAT_STATE = 0 ∧ s.slumberExit.pmg.low = none ∧ s.slumberExit.rd (PWR_UNIT_UNIT k) = 0 := by
  have hback (v : State) : Kept [.pend, .cnp, .rwy, .cvu, .ingress, .ecc, .cpc, .ust]
      [.mem, .leMem, .out, .fresh, .pw, .rcd, .cnp, .fab, .cvu, .rwy, .cop, .ecc, .ust] v v.unitsBack := by
    unfold State.unitsBack
    refine Kept.foldl (fun w p hw => ?_) ?_ _
    · exact State.portResetDone_kept hw (by decide) (by decide)
    · exact State.rootwayResetDone_kept (Kept.refl _ _ v) (by decide) (by decide)
  have hrun (v : State) : Kept [.lko, .unit] [.ecc, .lko] v v.dramWake.lookoutGoesOn.unitsRun := by
    have hwake : Kept [.lko, .unit] [.ecc, .lko] v v.dramWake := State.dramWake_kept (Kept.refl _ _ v) (by decide)
    exact State.unitsRun_kept (Kept.ite hwake (State.lookoutRestart_kept hwake (by decide) (by decide))) (by decide)
  have hstate' : s.leftSlumber.rd PWR_STAT_STATE = 0 := State.rd_wr_same ..
  have hlow : s.leftSlumber.pmg.low = none := rfl
  have hunits := s.leftSlumber.dramWake.lookoutGoesOn.rd_unitsRun hk
  have hbefore := hrun s.leftSlumber
  rw [State.slumberExit_eq hstate]
  generalize s.leftSlumber.dramWake.lookoutGoesOn.unitsRun = v at *
  have hafter := hback v
  generalize v.unitsBack = w at *
  have hpmg : w.pmg = s.leftSlumber.pmg := (hbefore.framed.parts .pmg (by decide)).trans (hafter.framed.parts .pmg (by decide))
  refine ⟨?_, ?_, ?_⟩
  · rw [State.rd_raise_code (by decide), State.rd_wr_ne _ (by decide), hafter.framed.regs _ (by decide),
      hbefore.framed.regs _ (by decide), hstate']
  · rw [State.raise_pmg, State.wr_pmg, hpmg, hlow]
  · rw [State.rd_raise_code (Nat.ne_of_beq_eq_false rfl), State.rd_wr_area _ (f := PWR_STAT_WAKEEV) (g := PWR_UNIT_UNIT k) nofun,
      hafter.framed.regs _ (show Area.unit ∉ _ by decide), hunits]

/-- Settles O60. -/
theorem powerCommandsComplete : Obligations.PowerCommandsComplete := by
  intro s k l w t v fits zero free enters
  have hrunning (hz : zero) (f : State → State) : (if v.hartRuns 0 then v.pwrCommand 0 f else v) = (f v).answer .done :=
    (if_pos hz.1).trans (State.pwrCommand_zero (s := v) hz.2.1 hz.2.2 f)
  have henter {hib : Bool} (hf : free hib) : enters hib ((v.lowEnter hib).answer .done) := by
    obtain ⟨hloaded, hpol, hmax, hblocked, hlow, hwake⟩ := hf
    obtain ⟨hlow', hstate⟩ := State.lowEnter_begins (State.lowErr_zero (s := v) hloaded hpol hmax hblocked hlow hwake)
    exact ⟨hlow', hstate, rfl⟩
  refine ⟨fun hup hstate hunit hreq hrun hcalled hpended hpol hfits => ?_, fun hup hunit hat hw => ?_,
    fun hz hf => ⟨_, congrArg Host.Outcome.next (hrunning hz _), henter hf⟩,
    fun hz hf => ⟨_, congrArg Host.Outcome.next (hrunning hz _), henter hf⟩,
    fun hz hf hfits => ⟨_, congrArg Host.Outcome.next (hrunning hz _), ?_⟩,
    fun hz hlow hreached hwoken hdone => ⟨_, congrArg Host.Outcome.next (hrunning hz _), ?_⟩,
    fun hen htimer hw hphase hlow hreached hhib hwoken hstate => ⟨v.wake 0, rfl, ?_⟩, fun hstate => ⟨_, rfl, ?_⟩,
    fun hphase => ⟨_, congrArg Host.Outcome.next (if_pos (beq_iff_eq.mpr hphase)), rfl⟩⟩
  · have heq := State.standWfi_doze (s := v) hup hstate hunit hreq hrun hcalled hpended hpol (State.fits_of_all (s := v.waiting k) hfits)
    obtain ⟨hwfi, hrd⟩ := (v.waiting k).standRests_doze k dozeExit
    refine ⟨_, congrArg Host.Outcome.next heq, hwfi.trans ?_, hrd⟩
    rw [State.waiting, State.stand_setStand_same]
  · obtain ⟨hrd, hwake⟩ := State.unitWake_doze (s := v) hup hunit hat hw
    exact ⟨_, rfl, hrd, hwake⟩
  · have hbegins := henter hf
    obtain ⟨hloaded, hpol, hmax, hblocked, hlow, hwake⟩ := hf
    have hcost : slumberEntry + s.depotNs + slumberExit = 90000000 + s.depotNs := by
      simp only [slumberEntry, slumberExit]
      omega
    rw [State.rest_slumber (s := v) (State.lowErr_zero hloaded hpol hmax hblocked hlow hwake) hmax
      (State.fits_of_all (by rw [show v.depotNs = s.depotNs from rfl, hcost]; exact hfits))]
    exact hbegins
  · obtain ⟨x, heq⟩ := State.lowCancel_done (s := v) hlow hreached hwoken hdone
    obtain ⟨h1, h2, h3⟩ := x.lowEnd_shows
    rw [heq]
    exact ⟨h1, h2, h3⟩
  · have heq := State.wake_timer (s := v) hen htimer hw hphase hlow hreached hhib hwoken hstate
    rw [heq]
    have hsource : (v.wakeSource 0).rd PWR_WAKESRC_SRC = 1 := by
      rw [State.wakeSource, State.note_rd, State.rd_wr_same]
      rfl
    exact ⟨State.rd_wr_same .., (State.rd_wr_ne _ (by decide) _).trans hsource⟩
  · exact State.slumberExit_shows (s := v) hstate (by omega)

end Sys2Proof.Machine

/-! ## Bytes of memory, and rows that have addresses -/

namespace Sys2Proof.Machine

section
variable {s u w : State} {a : Nat} {bs cs : List Byte}

theorem State.byte_putBytes_of_outside (s : State) {a i : Nat} {bs : List Byte} (h : i < a ∨ a + bs.length ≤ i) :
    (s.putBytes a bs).byte i = s.byte i := by
  induction bs generalizing s a with
  | nil => rfl
  | cons b r ih =>
    rw [List.length_cons] at h
    rw [State.putBytes, ih _ (by omega), State.byte_putByte_ne _ (by omega)]

theorem State.byte_putBytes_add (s : State) {a j : Nat} {bs : List Byte} (h : j < bs.length) :
    (s.putBytes a bs).byte (a + j) = bs.getD j 0 := by
  induction bs generalizing s a j with
  | nil => exact absurd h (Nat.not_lt_zero j)
  | cons b r ih =>
    cases j with
    | zero => rw [State.putBytes, State.byte_putBytes_of_outside _ (by omega)]; simp
    | succ j =>
      rw [State.putBytes, show a + (j + 1) = a + 1 + j by omega]
      exact ih _ (by simpa using h)

/-- Memory reads the same where its table is the same. -/
theorem State.byte_congr (h : u.mem = s.mem) (i : Nat) : u.byte i = s.byte i := by rw [State.byte, h, State.byte]

theorem State.bytes_congr (h : u.mem = s.mem) (a n : Nat) : u.bytes a n = s.bytes a n :=
  List.map_congr_left fun _ _ => State.byte_congr h _

theorem State.leByte_congr (h : u.leMem = s.leMem) (i : Nat) : u.leByte i = s.leByte i := by
  rw [State.leByte, h, State.leByte]

@[simp] theorem State.bytes_length (s : State) (a n : Nat) : (s.bytes a n).length = n := by simp [State.bytes]

theorem SameMemory.of_kept {A : List Area} {P : List Part} (k : Kept A P s u) (hm : .mem ∉ P) (hl : .leMem ∉ P) :
    SameMemory s u :=
  ⟨State.byte_congr (k.framed.parts .mem hm), State.leByte_congr (k.framed.parts .leMem hl)⟩

theorem Stored.nil (s : State) (a : Nat) : Stored a [] s s :=
  ⟨fun _ h => absurd h (Nat.not_lt_zero _), fun _ _ => rfl⟩

theorem Stored.putBytes (s : State) (a : Nat) (bs : List Byte) : Stored a bs s (s.putBytes a bs) :=
  ⟨fun _ h => State.byte_putBytes_add s h, fun _ h => State.byte_putBytes_of_outside s h⟩

theorem Stored.of_mem_eq (h : Stored a bs s u) (hw : w.mem = u.mem) : Stored a bs s w :=
  ⟨fun i hi => (State.byte_congr hw _).trans (h.1 i hi), fun b hb => (State.byte_congr hw _).trans (h.2 b hb)⟩

theorem Stored.of_source (h : Stored a bs s u) (hw : s.mem = w.mem) : Stored a bs w u :=
  ⟨h.1, fun b hb => (h.2 b hb).trans (State.byte_congr hw _)⟩

/-- Bytes that follow others. -/
theorem Stored.append (h : Stored a bs s u) (h' : Stored (a + bs.length) cs u w) : Stored a (bs ++ cs) s w := by
  obtain ⟨hin, hout⟩ := h
  obtain ⟨hin', hout'⟩ := h'
  refine ⟨fun i hi => ?_, fun b hb => ?_⟩
  · rw [List.length_append] at hi
    by_cases hlt : i < bs.length
    · rw [hout' _ (by omega), hin i hlt, List.getD_append _ _ _ _ hlt]
    · obtain ⟨j, rfl⟩ := Nat.exists_eq_add_of_le (Nat.le_of_not_lt hlt)
      rw [← Nat.add_assoc, hin' j (by omega), List.getD_append_right _ _ _ _ (by omega), Nat.add_sub_cancel_left]
  · rw [List.length_append] at hb
    rw [hout' _ (by omega), hout _ (by omega)]

end

/-! ### Rows -/

section
variable {s : State} {memid row a : Nat}

/-- A row of DRAM, shared SRAM or a host buffer. -/
def Mapped (memid row a : Nat) : Prop := rowAddr memid row = some a ∧ ¬ (memid = 4 ∨ memid = 5)

theorem Mapped.rowData (h : Mapped memid row a) (s : State) : s.rowData memid row = s.bytes a 32 := by
  unfold State.rowData
  rw [h.1]
  exact if_neg h.2

theorem Mapped.putRow (h : Mapped memid row a) (s : State) (bs : List Byte) : s.putRow memid row 0 bs = s.putBytes a bs := by
  unfold State.putRow
  rw [h.1]
  exact if_neg h.2

/-- An address that names a row is in that row. -/
theorem mapped_of_rowOf {x : Nat} (hx : x % 32 = 0) (h : rowOf x = some (memid, row)) : Mapped memid row x := by
  unfold rowOf inRange at h
  simp only [Bool.and_eq_true, decide_eq_true_eq] at h
  split at h
  case isTrue hr =>
    cases h
    exact ⟨congrArg some (by omega), by decide⟩
  case isFalse =>
    split at h
    case isTrue hr =>
      cases h
      exact ⟨congrArg some (by simp only [sramBase]; omega), by decide⟩
    case isFalse =>
      split at h
      case isTrue hr =>
        cases h
        exact ⟨congrArg some (by omega), by decide⟩
      case isFalse => cases h

/-- Rows within DRAM, shared SRAM or the host buffers have a place. -/
theorem exists_rowOf_of_fillable {x n i : Nat} (h : fillable x n = true) (hi : i < n) :
    ∃ memid row, rowOf (x + 32 * i) = some (memid, row) := by
  simp only [fillable, Bool.or_eq_true, Bool.and_eq_true, decide_eq_true_eq] at h
  simp only [sramBase, stagingOff] at h
  unfold rowOf inRange
  simp only [Bool.and_eq_true, decide_eq_true_eq]
  split
  · exact ⟨_, _, rfl⟩
  · split
    · exact ⟨_, _, rfl⟩
    · rw [if_pos (by omega)]
      exact ⟨_, _, rfl⟩

@[simp] theorem State.rowErr_setErr_same (s : State) (memid row e : Nat) : (s.setErr memid row e).rowErr memid row = e :=
  tblGet_set_same _ _ _ _

/-- A whole-row write of a row that no SOFT entry names. -/
theorem Mapped.writeRow (h : Mapped memid row a) (hs : NoSoft s) (bs : List Byte) (poison : Bool) :
    s.writeRow memid row bs poison = (s.putBytes a bs).setErr memid row (if poison then poisonPat else 0) := by
  have hkept : Kept [] [.mem] s (s.putBytes a bs) := State.putBytes_kept (Kept.refl _ _ s) (by decide)
  unfold State.writeRow
  rw [h.putRow]
  exact State.rowWritten_of_noSoft (NoSoft.of_regsIn (u := (s.putBytes a bs).setErr memid row _) hs hkept.framed.regs) ..

end

end Sys2Proof.Machine

/-! ## The fill engine (R440) -/

namespace Sys2Proof.Machine

section
variable {s : State} {f : FillRun}

/-- What the first n rows of a fill hold. -/
def fillPattern (pat n : Nat) : List Byte := (List.range (32 * n)).map fun i => (leBytes 8 pat).getD (i % 8) 0

@[simp] theorem fillPattern_length (pat n : Nat) : (fillPattern pat n).length = 32 * n := by simp [fillPattern]

/-- The bytes that a row of a fill takes: the pattern, four times. -/
def fillRow (pat : Nat) : List Byte := leBytes 8 pat ++ leBytes 8 pat ++ leBytes 8 pat ++ leBytes 8 pat

theorem fillPattern_succ (pat n : Nat) : fillPattern pat (n + 1) = fillPattern pat n ++ fillRow pat := by
  have hrow : ((List.range 32).map fun i => (leBytes 8 pat).getD (i % 8) 0) = fillRow pat := rfl
  rw [← hrow]
  unfold fillPattern
  rw [Nat.mul_succ, List.range_add, List.map_append, List.map_map]
  refine congrArg _ (List.map_congr_left fun i _ => ?_)
  rw [Function.comp_apply, show (32 * n + i) % 8 = i % 8 by omega]

theorem State.fillRows_succ {n memid row : Nat} (h : rowOf (f.addr + 32 * n) = some (memid, row)) :
    s.fillRows f (n + 1) = ((s.fillRows f n).writeRow memid row (fillRow f.pat) false).unitWrite
      (((List.range 32).map (f.addr + 32 * n + ·)).zip (fillRow f.pat)) := by
  rw [State.fillRows, h]
  rfl

theorem State.setErr_mem (s : State) (memid row e : Nat) : (s.setErr memid row e).mem = s.mem := rfl

theorem State.unitWrite_mem (s : State) (bs : List (Nat × Byte)) : (s.unitWrite bs).mem = s.mem :=
  (State.unitWrite_kept (A := [.cvu]) (P := [.cvu]) (Kept.refl _ _ s) (by decide) (by decide)).framed.parts .mem (by decide)

/-- The first rows of a fill hold the pattern, and nothing else of memory or registers has changed but what a unit in
window mode sees of the writes. -/
theorem State.fillRows_shows (hs : NoSoft s) (hf : fillable f.addr f.rows = true) (ha : f.addr % 32 = 0) {n : Nat}
    (hn : n ≤ f.rows) :
    Stored f.addr (fillPattern f.pat n) s (s.fillRows f n) ∧ Kept [.cvu] [.mem, .ecc, .cvu] s (s.fillRows f n) := by
  induction n with
  | zero => exact ⟨Stored.nil s f.addr, Kept.refl _ _ s⟩
  | succ n ih =>
    obtain ⟨hstored, hkept⟩ := ih (by omega)
    obtain ⟨memid, row, hrow⟩ := exists_rowOf_of_fillable hf (i := n) (by omega)
    have hmapped : Mapped memid row (f.addr + 32 * n) := mapped_of_rowOf (by omega) hrow
    have hsoft : NoSoft (s.fillRows f n) := fun i hi => by
      rw [State.ctState, hkept.framed.regs _ (show Area.ecc ∉ [Area.cvu] by decide)]
      exact hs i hi
    rw [State.fillRows_succ hrow, hmapped.writeRow hsoft, if_neg Bool.false_ne_true]
    refine ⟨?_, State.unitWrite_kept (State.setErr_kept (State.putBytes_kept hkept (by decide)) (by decide)) (by decide)
      (by decide)⟩
    have hput := Stored.putBytes (s.fillRows f n) (f.addr + 32 * n) (fillRow f.pat)
    rw [fillPattern_succ]
    refine hstored.append ?_
    rw [fillPattern_length]
    exact hput.of_mem_eq ((State.unitWrite_mem ..).trans (State.setErr_mem ..))

/-- No fill runs. -/
def State.fillStopped (s : State) : State := { s with ecc := { s.ecc with fill := none } }

theorem State.fillStopped_kept {A : List Area} {P : List Part} {s0 : State} (hk : Kept A P s0 s) (hP : .ecc ∈ P) :
    Kept A P s0 s.fillStopped :=
  Kept.parts hk rfl rfl (fun p hp => by cases p <;> first | rfl | exact absurd hP hp)
    fun c => ⟨c.1, c.2, c.3, c.4, c.5⟩

/-- A fill has ended after n rows. -/
def State.fillEnded (s : State) (f : FillRun) (n : Nat) : State :=
  ((s.fillRows f n).fillStopped.wr ECC_FILL_STAT_BUSY 0).wr ECC_FILL_PROG n

theorem State.fillEnded_shows (hs : NoSoft s) (hf : fillable f.addr f.rows = true) (ha : f.addr % 32 = 0)
    (hrows : f.rows ≤ 0x10000000) {n : Nat} (hn : n ≤ f.rows) :
    Stored f.addr (fillPattern f.pat n) s (s.fillEnded f n) ∧ (s.fillEnded f n).ecc.fill = none ∧
      (s.fillEnded f n).rd ECC_FILL_STAT_BUSY = 0 ∧ (s.fillEnded f n).rd ECC_FILL_PROG = n ∧
      Kept [.ecc, .cvu] [.mem, .ecc, .cvu] s (s.fillEnded f n) := by
  obtain ⟨hstored, hkept⟩ := State.fillRows_shows hs hf ha hn
  refine ⟨hstored.of_mem_eq rfl, rfl, (State.rd_wr_ne _ (by decide) _).trans (State.rd_wr_same ..),
    (State.rd_wr_same ..).trans (Nat.mod_eq_of_lt (by simp only [ECC_FILL_PROG]; omega)), ?_⟩
  have hrows : Kept [.ecc, .cvu] [.mem, .ecc, .cvu] s (s.fillRows f n) :=
    ⟨⟨fun g hg => hkept.framed.regs g fun h => hg (List.mem_cons_of_mem _ h), hkept.framed.parts⟩, hkept.queue, hkept.canon⟩
  exact State.wr_kept (State.wr_kept (State.fillStopped_kept hrows (by decide)) (by decide)) (by decide)

end

end Sys2Proof.Machine

/-! ## The checker test window (R451), and O49 -/

namespace Sys2Proof.Machine

/-! ### Bytes and check bytes -/

theorem leBytes_leNat (bs : List Byte) : leBytes bs.length (leNat bs) = bs := by
  induction bs with
  | nil => rfl
  | cons b r ih =>
    have hb : b.toNat < 256 := b.isLt
    rw [List.length_cons, leBytes, leNat, show (b.toNat + 256 * leNat r) / 256 = leNat r by omega, ih]
    refine congrArg (· :: r) (BitVec.eq_of_toNat_eq ?_)
    rw [byteOf, BitVec.toNat_ofNat]
    omega

/-- Four bytes at an offset come back from the word that holds them. -/
theorem leBytes_leAt {off : Nat} {bs : List Byte} (h : off + 4 ≤ bs.length) :
    leBytes 4 (leAt off 4 bs % 2 ^ 32) = slice off 4 bs := by
  have hlen : (slice off 4 bs).length = 4 := by rw [slice, List.length_take, List.length_drop]; omega
  have hlt : leAt off 4 bs < 2 ^ 32 := by simpa [leAt, hlen] using leNat_lt (slice off 4 bs)
  rw [Nat.mod_eq_of_lt hlt]
  rw [leAt]
  simpa only [hlen] using leBytes_leNat (slice off 4 bs)

/-- Slices of four bytes, one after the other. -/
theorem flatten_slices (bs : List Byte) (n : Nat) :
    ((List.range n).map fun k => slice (4 * k) 4 bs).flatten = bs.take (4 * n) := by
  induction n with
  | zero => rfl
  | succ n ih =>
    rw [List.range_succ, List.map_append, List.flatten_append, ih, Nat.mul_succ, List.take_add, List.map_singleton,
      List.flatten_singleton, slice]

theorem xorBytes_zeros {bs : List Byte} {n : Nat} (h : bs.length ≤ n) : xorBytes bs (List.replicate n 0) = bs := by
  induction bs generalizing n with
  | nil => rfl
  | cons b r ih =>
    cases n with
    | zero => exact absurd h (Nat.not_succ_le_zero _)
    | succ n =>
      have hb : b ^^^ (0 : Byte) = b := BitVec.xor_zero
      rw [List.replicate_succ, xorBytes, List.zipWith_cons_cons, hb]
      exact congrArg (b :: ·) (ih (Nat.le_of_succ_le_succ h))

theorem length_le_gfAdd (p q : List Nat) : p.length ≤ (gfAdd p q).length := by
  induction p generalizing q with
  | nil => exact Nat.zero_le _
  | cons a p ih =>
    cases q with
    | nil => exact Nat.le_refl _
    | cons b q => exact Nat.succ_le_succ (ih q)

theorem rsShift_length {r : List Nat} (h : r.length = 8) (d : Nat) : (rsShift r d).length = 8 := by
  have hlen := length_le_gfAdd (d :: r.take 7) (gfScale (r.getD 7 0) rsGen)
  rw [List.length_cons, List.length_take, h] at hlen
  rw [rsShift, List.length_take]
  omega

theorem rsRemainder_length (hi : List Nat) : (rsRemainder hi).length = 8 := by
  have hfold (r : List Nat) (h : r.length = 8) : (hi.foldl rsShift r).length = 8 := by
    induction hi generalizing r with
    | nil => exact h
    | cons d hi ih => exact ih _ (rsShift_length h d)
  exact hfold _ List.length_replicate

@[simp] theorem checkBytes_length (memid row : Nat) (bs : List Byte) : (checkBytes memid row bs).length = 8 := by
  rw [checkBytes, List.length_map]
  exact rsRemainder_length _

/-- A row without error: no symbol differs, and no check byte. -/
theorem patSyms_zero_data : (((patSyms 0).map byteOf).drop 8).take 32 = List.replicate 32 0 := by decide
theorem patSyms_zero_check : ((patSyms 0).map byteOf).take 8 = List.replicate 8 0 := by decide
theorem rsCheck_zero : (rsCheck (List.replicate 32 0) ((patSyms 0).drop 40)).map byteOf = List.replicate 8 0 := by
  decide +kernel
theorem rsDecode_zero : rsDecode (patSyms 0) = some [] := by decide +kernel

/-! ### The registers of the window -/

section
variable {s v : State} {memid row : Nat} {bs : List Byte}

/-- A field reads through writes of other fields. -/
theorem State.rd_foldl_wr_ne (s : State) {f : Fld} {g : Nat → Fld} (x : Nat → Nat) {l : List Nat}
    (h : ∀ k ∈ l, f.key ≠ (g k).key) : (l.foldl (fun s k => s.wr (g k) (x k)) s).rd f = s.rd f := by
  induction l generalizing s with
  | nil => rfl
  | cons k l ih =>
    rw [List.foldl_cons, ih _ fun j hj => h j (List.mem_cons_of_mem _ hj), State.rd_wr_ne _ (h k List.mem_cons_self)]

theorem State.rd_setTstData_ne (s : State) (bs : List Byte) {f : Fld} (h : ∀ k, k < 8 → f.key ≠ (ECC_TST_DATAk k).key) :
    (s.setTstData bs).rd f = s.rd f :=
  State.rd_foldl_wr_ne s _ fun k hk => h k (List.mem_range.mp hk)

theorem State.rd_setTstData_same (s : State) (bs : List Byte) {k : Nat} (hk : k < 8) :
    (s.setTstData bs).rd (ECC_TST_DATAk k) = leAt (4 * k) 4 bs % 2 ^ 32 := by
  simp only [State.setTstData, List.range, List.range.loop, List.foldl_cons, List.foldl_nil]
  interval_cases k <;> simp (disch := decide) only [State.rd_wr_ne, State.rd_wr_same] <;> rfl

/-- The window's data reads the same where its registers do. -/
theorem State.tstData_congr (h : ∀ k, k < 8 → v.rd (ECC_TST_DATAk k) = s.rd (ECC_TST_DATAk k)) : v.tstData = s.tstData := by
  rw [State.tstData, State.tstData, List.map_congr_left fun k hk => by rw [h k (List.mem_range.mp hk)]]

theorem State.tstChk_congr (hlo : v.rd ECC_TST_CHK_LO = s.rd ECC_TST_CHK_LO)
    (hhi : v.rd ECC_TST_CHK_HI = s.rd ECC_TST_CHK_HI) : v.tstChk = s.tstChk := by
  rw [State.tstChk, hlo, hhi, State.tstChk]

/-- What the window is set to show. -/
theorem State.tstData_setTstData (s : State) (h : bs.length = 32) : (s.setTstData bs).tstData = bs := by
  have hwords : (List.range 8).map (fun k => leBytes 4 ((s.setTstData bs).rd (ECC_TST_DATAk k))) =
      (List.range 8).map fun k => slice (4 * k) 4 bs :=
    List.map_congr_left fun k hk => by
      have hk' := List.mem_range.mp hk
      rw [State.rd_setTstData_same s bs hk', leBytes_leAt (by omega)]
  rw [State.tstData, hwords, flatten_slices, List.take_of_length_le (Nat.le_of_eq h)]

theorem State.tstChk_setTstChk (s : State) (h : bs.length = 8) : (s.setTstChk bs).tstChk = bs := by
  rw [State.tstChk, State.setTstChk, State.rd_wr_ne _ (by decide), State.rd_wr_same, State.rd_wr_same]
  simp only [ECC_TST_CHK_LO, ECC_TST_CHK_HI]
  rw [leBytes_leAt (by omega), leBytes_leAt (by omega), slice, slice, List.drop_zero, ← List.take_add,
    List.take_of_length_le (Nat.le_of_eq h)]

theorem State.tstData_length (s : State) : s.tstData.length = 32 := by
  simp [State.tstData, List.range, List.range.loop]

end

end Sys2Proof.Machine

/-! ## Operations of the test window and commands of the fill engine; O49 -/

namespace Sys2Proof.Machine

/-- A command that acts while the module runs. -/
theorem does_running {c : Instr} {s x y : State} {p : State → Prop}
    (he : exec c s = .next (if s.pw.phase == .running then x else y)) (hp : s.pw.phase = .running) (h : p x) :
    Does c s p :=
  ⟨x, by rw [he, hp]; rfl, h⟩

/-! ### The test window -/

section
variable {s v : State} {memid row a up : Nat}

/-- An operation of the test window begins. -/
def State.tstBegun (s : State) : State := (s.wr ECC_TST_RES_ERR 0).wr ECC_TST_RES_DONE 1

theorem State.tstBegun_kept (s : State) : Kept [.ecc] [] s s.tstBegun :=
  State.wr_kept (State.wr_kept (Kept.refl _ _ s) (by decide)) (by decide)

theorem State.tstBegun_shows (s : State) : s.tstBegun.rd ECC_TST_RES_DONE = 1 ∧ s.tstBegun.rd ECC_TST_RES_ERR = 0 :=
  ⟨State.rd_wr_same .., (State.rd_wr_ne _ (by decide) _).trans (State.rd_wr_same ..)⟩

theorem State.tstBegun_tstData (s : State) : s.tstBegun.tstData = s.tstData :=
  State.tstData_congr fun k hk => by
    unfold State.tstBegun
    rw [State.rd_wr_ne, State.rd_wr_ne] <;> simp only [Fld.key, ECC_TST_DATAk, ECC_TST_RES_ERR, ECC_TST_RES_DONE] <;> omega

theorem State.tstBegun_tstChk (s : State) : s.tstBegun.tstChk = s.tstChk :=
  State.tstChk_congr ((State.rd_wr_ne _ (by decide) _).trans (State.rd_wr_ne _ (by decide) _))
    ((State.rd_wr_ne _ (by decide) _).trans (State.rd_wr_ne _ (by decide) _))

/-- The test row by the address that it is named with. The definition's own matcher stands here: the kernel compares it
with another one by evaluating `rowOf` at an open address, which does not end. -/
theorem State.testRow_fun : State.testRow = fun s => State.testRow.match_1 (fun _ => Option (Nat × Nat))
    (rowOf (s.rd ECC_TST_ADDR_LO_ROW * 32 + s.rd ECC_TST_ADDR_HI_HI * 2 ^ 32)) (fun _ => none) fun r => r := rfl

theorem State.rowOf_of_testRow (h : s.testRow = some (memid, row)) :
    rowOf (s.rd ECC_TST_ADDR_LO_ROW * 32 + s.rd ECC_TST_ADDR_HI_HI * 2 ^ 32) = some (memid, row) := by
  have h' := (congrFun State.testRow_fun s).symm.trans h
  revert h'
  generalize rowOf (s.rd ECC_TST_ADDR_LO_ROW * 32 + s.rd ECC_TST_ADDR_HI_HI * 2 ^ 32) = r
  intro h'
  rcases r with _ | ⟨m, k⟩
  · exact h'
  · by_cases hm : m = 7
    · subst hm
      cases h'
    · rcases m with _ | _ | _ | _ | _ | _ | _ | _ | m <;> first | exact absurd rfl hm | exact h'

/-- The test row has an address. -/
theorem mapped_of_testRow (h : s.testRow = some (memid, row)) (ha : rowAddr memid row = some a) : Mapped memid row a := by
  have hx := State.rowOf_of_testRow h
  have hmod (p q : Nat) : (p * 32 + q * 2 ^ 32) % 32 = 0 := by omega
  exact ⟨ha, (mapped_of_rowOf (hmod _ _) hx).2⟩

/-- What the window reports at the end of an operation. -/
theorem State.tst_done (hk : Kept [.ecc] [.now, .mem, .resp, .out, .ecc] s v) (hdone : v.rd ECC_TST_RES_DONE = 1)
    (herr : v.rd ECC_TST_RES_ERR = 0) :
    (v.raise 38).rd ECC_TST_RES_DONE = 1 ∧ (v.raise 38).rd ECC_TST_RES_ERR = 0 ∧ Raised [38] s (v.raise 38) ∧
      Framed [.pend, .ecc] [.now, .mem, .resp, .out, .ecc] s (v.raise 38) := by
  refine ⟨(State.rd_raise_code (by decide)).trans hdone, (State.rd_raise_code (by decide)).trans herr,
    ((Raises.refl s).kept hk (by decide) (by decide)).raised.raise (by decide) ?_ ?_, ?_⟩
  · exact fun n => hk.framed.regs _ (show Area.std ∉ [Area.ecc] by decide)
  · exact fun n => hk.framed.regs _ (show Area.std ∉ [Area.ecc] by decide)
  · have hwide : Kept [.pend, .ecc] [.now, .mem, .resp, .out, .ecc] s v :=
      ⟨⟨fun f hf => hk.framed.regs f fun h => hf (List.mem_cons_of_mem _ h), hk.framed.parts⟩, hk.queue, hk.canon⟩
    exact (State.raise_kept hwide (by decide)).framed

/-! The four operations, with the window armed. -/

section
variable (harm : s.flag ECC_TST_ADDR_HI_ARM = true) (hrow : s.testRow = some (memid, row))
include harm hrow

theorem State.tstOp_write_guarded (hg : s.tstGuarded memid row = true) : s.tstOp 1 up = s.tstBegun.raise 38 := by
  have hg' : s.tstBegun.tstGuarded memid row = true := hg
  unfold State.tstOp
  rw [harm, hrow]
  exact congrArg (State.raise · 38) (if_pos hg')

theorem State.tstOp_write (hg : s.tstGuarded memid row = false) :
    s.tstOp 1 up = ((s.tstBegun.putRow memid row 0 s.tstData).setErr memid row
      (leNat (xorBytes s.tstChk (checkBytes memid row s.tstData)))).raise 38 := by
  have hg' : ¬ s.tstBegun.tstGuarded memid row = true := ne_true_of_eq_false hg
  unfold State.tstOp
  rw [harm, hrow, ← s.tstBegun_tstData, ← s.tstBegun_tstChk]
  exact congrArg (State.raise · 38) (if_neg hg')

theorem State.tstOp_encode :
    s.tstOp 3 up = (s.tstBegun.setTstChk (checkBytes memid row s.tstData)).raise 38 := by
  unfold State.tstOp
  rw [harm, hrow, ← s.tstBegun_tstData]
  rfl

theorem State.tstOp_read (he : s.rowErr memid row ^^^ up = 0) (hlen : (s.rowData memid row).length ≤ 32) :
    s.tstOp 2 up = (((s.tstBegun.setTstData (s.rowData memid row)).setTstChk
      (checkBytes memid row (s.rowData memid row))).setErr memid row 0).raise 38 := by
  have he' : s.tstBegun.rowErr memid row ^^^ up = 0 := he
  have hdata : s.tstBegun.rowData memid row = s.rowData memid row := rfl
  have hcheck := checkBytes_length memid row (s.rowData memid row)
  unfold State.tstOp
  rw [harm, hrow]
  simp only [show (s.wr ECC_TST_RES_ERR 0).wr ECC_TST_RES_DONE 1 = s.tstBegun from rfl]
  rw [he', hdata, patSyms_zero_data, patSyms_zero_check, rsCheck_zero, xorBytes_zeros hlen,
    xorBytes_zeros (hcheck.le), xorBytes_zeros (hcheck.le)]

/-- What CHECK_ROW finds; in a sound row, nothing. -/
theorem State.tstOp_check (hlen : (s.rowData memid row).length ≤ 32) : ∃ es d,
    s.tstOp 4 up = (((s.tstBegun.setErr memid row (s.rowErr memid row ^^^ up)).tstReport
      (eccResult (rsDecode (patSyms (s.rowErr memid row ^^^ up)))) es).setTstData d).raise 38 ∧
    (s.rowErr memid row ^^^ up = 0 → es = [] ∧ d = s.rowData memid row) := by
  refine ⟨_, _, by unfold State.tstOp; rw [harm, hrow]; rfl, fun h0 => ?_⟩
  have he' : ((s.wr ECC_TST_RES_ERR 0).wr ECC_TST_RES_DONE 1).rowErr memid row ^^^ up = 0 := h0
  have hdata : ((s.wr ECC_TST_RES_ERR 0).wr ECC_TST_RES_DONE 1).rowData memid row = s.rowData memid row := rfl
  rw [he', hdata, rsDecode_zero, patSyms_zero_data, xorBytes_zeros hlen]
  have hnone : (if (eccResult (some [])).bad = true then [] else (some ([] : List (Nat × Nat))).getD []) = [] := rfl
  rw [hnone, show patOf [] = 0 from rfl, patSyms_zero_data, xorBytes_zeros hlen]
  exact ⟨rfl, rfl⟩

end

theorem State.tstOp_idle (op : Nat) (h : s.rd ECC_TST_ADDR_HI_ARM = 0 ∨ s.testRow = none) :
    s.tstOp op up = s.wr ECC_TST_RES_ERR 1 := by
  unfold State.tstOp
  split
  case h_2 => rfl
  case h_1 memid row harm hrow =>
    rcases h with h | h
    · rw [State.flag, h] at harm
      cases harm
    · rw [h] at hrow
      cases hrow

end

end Sys2Proof.Machine

/-! ## The fill engine and the test window (R440, R451): O49 -/

namespace Sys2Proof.Machine

section
variable {s v : State} {f : FillRun} {memid row a up n : Nat}

/-! ### The end of a fill -/

/-- A fill that has ended after n rows leaves BUSY, PROG and memory as the obligation says, whatever it reports. -/
theorem fill_reports (hk : Kept [.ecc] [] (s.fillEnded f n) v)
    (hbusy : v.rd ECC_FILL_STAT_BUSY = (s.fillEnded f n).rd ECC_FILL_STAT_BUSY)
    (hprog : v.rd ECC_FILL_PROG = (s.fillEnded f n).rd ECC_FILL_PROG) (hs : NoSoft s)
    (hf : fillable f.addr f.rows = true) (ha : f.addr % 32 = 0) (hrows : f.rows ≤ 0x10000000) (hn : n ≤ f.rows) :
    Stored f.addr (fillPattern f.pat n) s (v.raise 37) ∧ (v.raise 37).ecc.fill = none ∧
      (v.raise 37).rd ECC_FILL_STAT_BUSY = 0 ∧ (v.raise 37).rd ECC_FILL_PROG = n ∧ Raised [37] s (v.raise 37) ∧
      Kept [.pend, .ecc, .cvu] [.mem, .ecc, .cvu] s (v.raise 37) := by
  obtain ⟨hstored, hnone, hbusy0, hprogn, hkept⟩ := State.fillEnded_shows hs hf ha hrows hn
  have hmem : (v.raise 37).mem = (s.fillEnded f n).mem :=
    Eq.trans ((State.raise_kept (A := [.pend]) (P := []) (Kept.refl _ _ v) (by decide)).framed.parts .mem (by decide))
      (hk.framed.parts .mem (by decide))
  have hecc : (v.raise 37).ecc = (s.fillEnded f n).ecc :=
    Eq.trans ((State.raise_kept (A := [.pend]) (P := []) (Kept.refl _ _ v) (by decide)).framed.parts .ecc (by decide))
      (hk.framed.parts .ecc (by decide))
  have hwide : Kept [.pend, .ecc, .cvu] [.mem, .ecc, .cvu] s v :=
    ⟨⟨fun g hg => (hk.framed.regs g fun h => hg (by rw [List.mem_singleton.mp h]; decide)).trans
        (hkept.framed.regs g fun h => hg (List.mem_cons_of_mem _ h)),
      fun p hp => Same.trans (hkept.framed.parts p hp) (hk.framed.parts p (List.not_mem_nil))⟩,
      hk.queue.trans hkept.queue, fun c => hk.canon (hkept.canon c)⟩
  refine ⟨hstored.of_mem_eq hmem, by rw [hecc, hnone], (State.rd_raise_code (by decide)).trans (hbusy.trans hbusy0),
    (State.rd_raise_code (by decide)).trans (hprog.trans hprogn), ?_, State.raise_kept hwide (by decide)⟩
  exact ((((Raises.refl s).kept hkept (by decide) (by decide)).kept hk (by decide) (by decide)).raise (by decide)).raised

theorem State.fillDone_eq (h : s.ecc.fill = some f) :
    s.fillDone = ((s.fillEnded f f.rows).wr ECC_FILL_STAT_DONE 1).raise 37 := by
  unfold State.fillDone
  rw [h]
  rfl

theorem State.fillAbort_eq (h : s.ecc.fill = some f) : s.fillAbort n =
    (((s.fillEnded f (min n f.rows)).wr ECC_FILL_STAT_FAIL 1).wr ECC_FILL_STAT_ERR 4).raise 37 := by
  unfold State.fillAbort
  rw [h]
  rfl

/-- The time at which a command is given shows in no register and in no byte of memory. -/
theorem framed_of_begin {A : List Area} {P : List Part} {t : Nat} (h : Kept A P (s.begin t) v) :
    Framed A (.now :: .resp :: .out :: P) s v := by
  refine ⟨fun g hg => h.framed.regs g hg, fun p hp => ?_⟩
  have hp' : p ∉ P := fun hmem => hp (List.mem_cons_of_mem _ (List.mem_cons_of_mem _ (List.mem_cons_of_mem _ hmem)))
  refine Same.trans ?_ (h.framed.parts p hp')
  cases p <;> first | rfl | exact absurd (by simp) hp

theorem Framed.mono {A : List Area} {P Q : List Part} (h : Framed A P s v) (hPQ : P ⊆ Q) : Framed A Q s v :=
  ⟨h.regs, fun p hp => h.parts p fun hmem => hp (hPQ hmem)⟩

/-! ### The start of a fill -/

theorem State.fillFail_shows (s : State) {err : Nat} (herr : err < 16) :
    (s.fillFail err).rd ECC_FILL_STAT_ERR = err ∧ (s.fillFail err).rd ECC_FILL_STAT_FAIL = 1 ∧
      Raises [37] s (s.fillFail err) ∧ Touches [ECC_FILL_STAT_FAIL, ECC_FILL_STAT_ERR] [.pend] [] s (s.fillFail err) := by
  refine ⟨(State.rd_raise_code (by decide)).trans ((State.rd_wr_same ..).trans (Nat.mod_eq_of_lt herr)),
    (State.rd_raise_code (by decide)).trans ((State.rd_wr_ne _ (by decide) _).trans (State.rd_wr_same ..)),
    (((Raises.refl s).wr (by decide) (by decide) _).wr (by decide) (by decide) _).raise (by decide), ?_⟩
  exact (((Touches.refl _ _ _ s).wrOf (by decide) _).wrOf (by decide) _).raise (by decide) _

/-- A fill that starts. -/
def State.fillBegun (s : State) (r : FillRun) : State :=
  (({ s with ecc := { s.ecc with fill := some r } }.wr ECC_FILL_STAT_BUSY 1).wr ECC_FILL_STAT_ERR 0).wr ECC_FILL_PROG 0

theorem State.fillBegun_shows (s : State) (r : FillRun) :
    (s.fillBegun r).ecc = { s.ecc with fill := some r } ∧ (s.fillBegun r).rd ECC_FILL_STAT_BUSY = 1 ∧
      (s.fillBegun r).rd ECC_FILL_STAT_ERR = 0 ∧ (s.fillBegun r).rd ECC_FILL_PROG = 0 ∧
      Touches [ECC_FILL_STAT_BUSY, ECC_FILL_STAT_ERR, ECC_FILL_PROG] [] [.ecc] s (s.fillBegun r) := by
  refine ⟨rfl, ?_, (State.rd_wr_ne _ (by decide) _).trans (State.rd_wr_same ..), State.rd_wr_same .., ?_⟩
  · exact (State.rd_wr_ne _ (by decide) _).trans ((State.rd_wr_ne _ (by decide) _).trans (State.rd_wr_same ..))
  · have hset : Touches [ECC_FILL_STAT_BUSY, ECC_FILL_STAT_ERR, ECC_FILL_PROG] [] [.ecc] s
        { s with ecc := { s.ecc with fill := some r } } :=
      (Touches.refl _ _ _ s).parts' rfl fun p hp => by cases p <;> first | rfl | exact absurd (by decide) hp
    exact ((hset.wrOf (by decide) _).wrOf (by decide) _).wrOf (by decide) _

/-- The range that the registers name. -/
def State.fillFrom (s : State) : Nat := s.rd ECC_FILL_ADDR_LO_ROW * 32 + s.rd ECC_FILL_ADDR_HI_HI * 2 ^ 32

theorem State.fillStart_eq (s : State) : s.fillStart =
    if s.rd ECC_FILL_LEN_LEN = 0 then s.fillFail 2
    else if fillable s.fillFrom (s.rd ECC_FILL_LEN_LEN) = false ∨ 0x10000000 < s.rd ECC_FILL_LEN_LEN ∨
      s.inRegion s.fillFrom (32 * s.rd ECC_FILL_LEN_LEN) = true then s.fillFail 1
    else if s.ecc.fill.isSome = true then s.fillFail 3
    else s.fillBegun ⟨s.fillFrom, s.rd ECC_FILL_LEN_LEN, s.rd64 ECC_FILL_PAT_LO ECC_FILL_PAT_HI⟩ := by
  unfold State.fillStart
  simp only [Bool.or_eq_true, Bool.not_eq_true', decide_eq_true_eq, or_assoc]
  rfl

end

end Sys2Proof.Machine

/-! ## O49: the commands of the fill engine and of the test window -/

namespace Sys2Proof.Machine

section
variable {s v : State} {memid row a up t : Nat}

theorem touches_of_begin {fs : List Fld} {A : List Area} {P : List Part} (h : Touches fs A P (s.begin t) v) :
    Touches fs A (.now :: .resp :: .out :: P) s v := by
  refine ⟨fun g hg ha => h.regs g hg ha, fun p hp => ?_⟩
  have hp' : p ∉ P := fun hmem => hp (List.mem_cons_of_mem _ (List.mem_cons_of_mem _ (List.mem_cons_of_mem _ hmem)))
  refine Same.trans ?_ (h.parts p hp')
  cases p <;> first | rfl | exact absurd (by simp) hp

theorem State.begin_tstData (s : State) (t : Nat) : (s.begin t).tstData = s.tstData := rfl
theorem State.begin_tstChk (s : State) (t : Nat) : (s.begin t).tstChk = s.tstChk := rfl

/-- What an operation of the test window that stores nothing outside its registers leaves, before its event. -/
theorem State.tstBegun_begin_kept (s : State) (t : Nat) :
    Kept [.ecc] [.now, .mem, .resp, .out, .ecc] s (s.begin t).tstBegun :=
  State.wr_kept (State.wr_kept (State.begin_kept (Kept.refl _ _ s) (by decide)) (by decide)) (by decide)

theorem sameMemory_raise (h : SameMemory s v) (n : Nat) : SameMemory s (v.raise n) := by
  have hk : Kept [.pend] [] v (v.raise n) := State.raise_kept (Kept.refl _ _ v) (by decide)
  exact ⟨fun i => (State.byte_congr (hk.framed.parts .mem List.not_mem_nil) i).trans (h.1 i),
    fun i => (State.leByte_congr (hk.framed.parts .leMem List.not_mem_nil) i).trans (h.2 i)⟩

theorem stored_raise {bs : List Byte} (h : Stored a bs s v) (n : Nat) : Stored a bs s (v.raise n) := by
  have hk : Kept [.pend] [] v (v.raise n) := State.raise_kept (Kept.refl _ _ v) (by decide)
  exact h.of_mem_eq (hk.framed.parts .mem List.not_mem_nil)

theorem rowErr_raise (v : State) (n memid row : Nat) : (v.raise n).rowErr memid row = v.rowErr memid row := by
  have hk : Kept [.pend] [] v (v.raise n) := State.raise_kept (Kept.refl _ _ v) (by decide)
  have hecc : (v.raise n).ecc = v.ecc := hk.framed.parts .ecc List.not_mem_nil
  rw [State.rowErr, hecc, State.rowErr]

theorem tstData_raise (v : State) (n : Nat) : (v.raise n).tstData = v.tstData :=
  State.tstData_congr fun _ _ => State.rd_raise_code (Nat.ne_of_beq_eq_false rfl)

theorem tstChk_raise (v : State) (n : Nat) : (v.raise n).tstChk = v.tstChk :=
  State.tstChk_congr (State.rd_raise_code (by decide)) (State.rd_raise_code (by decide))

/-- ARM and the test row, as the obligation has them. -/
structure Armed (s : State) (memid row a : Nat) : Prop where
  arm : s.flag ECC_TST_ADDR_HI_ARM = true
  row_ : s.testRow = some (memid, row)
  mapped : Mapped memid row a

theorem Armed.of_rd (harm : s.rd ECC_TST_ADDR_HI_ARM = 1) (hrow : s.testRow = some (memid, row))
    (ha : rowAddr memid row = some a) : Armed s memid row a :=
  ⟨beq_iff_eq.mpr harm, hrow, mapped_of_testRow hrow ha⟩

theorem State.testRow_congr (hlo : v.rd ECC_TST_ADDR_LO_ROW = s.rd ECC_TST_ADDR_LO_ROW)
    (hhi : v.rd ECC_TST_ADDR_HI_HI = s.rd ECC_TST_ADDR_HI_HI) : v.testRow = s.testRow := by
  rw [State.testRow_fun]
  beta_reduce
  rw [hlo, hhi]

theorem Armed.begin (h : Armed s memid row a) (t : Nat) : Armed (s.begin t) memid row a := by
  refine ⟨h.arm, ?_, h.mapped⟩
  have hrow := h.row_
  rw [← hrow]
  exact State.testRow_congr (State.begin_rd ..) (State.begin_rd ..)

theorem Armed.rowData_begin (h : Armed s memid row a) (t : Nat) : (s.begin t).rowData memid row = s.rowData memid row := by
  rw [h.mapped.rowData, h.mapped.rowData]
  rfl

/-- What the test window reports of an operation that has ended in `v`. -/
def TstDone (s u : State) : Prop := u.rd ECC_TST_RES_DONE = 1 ∧ u.rd ECC_TST_RES_ERR = 0 ∧ Raised [38] s u ∧
  Framed [.pend, .ecc] [.now, .mem, .resp, .out, .ecc] s u

/-- The window's data and check bytes, as they are set, and the results that stand beside them. -/
theorem State.setTst_shows (v : State) {d c : List Byte} (hd : d.length = 32) (hc : c.length = 8) :
    ((v.setTstData d).setTstChk c).tstData = d ∧ ((v.setTstData d).setTstChk c).tstChk = c ∧
      ∀ f : Fld, f.addr = 0x10400838 → f.lo < 32 → ((v.setTstData d).setTstChk c).rd f = v.rd f := by
  refine ⟨(State.tstData_congr fun k hk => ?_).trans (State.tstData_setTstData v hd), State.tstChk_setTstChk _ hc,
    fun f hf hlo => ?_⟩
  · refine (State.rd_wr_ne _ ?_ _).trans (State.rd_wr_ne _ ?_ _) <;>
      simp only [Fld.key, ECC_TST_DATAk, ECC_TST_CHK_LO, ECC_TST_CHK_HI] <;> omega
  · refine (State.rd_wr_ne _ (Fld.key_ne_of_addr_ne hlo (by decide) ?_) _).trans
      ((State.rd_wr_ne _ (Fld.key_ne_of_addr_ne hlo (by decide) ?_) _).trans
        (State.rd_setTstData_ne _ _ fun k hk => Fld.key_ne_of_addr_ne hlo (Nat.le_of_ble_eq_true rfl) ?_)) <;>
      simp only [hf, ECC_TST_DATAk, ECC_TST_CHK_LO, ECC_TST_CHK_HI] <;> omega

section
variable (h : Armed s memid row a) (hp : s.pw.phase = .running)
include h hp

theorem does_writeRaw (hg : s.tstGuarded memid row = false) : Does (.writeRaw t) s fun u => Stored a s.tstData s u ∧
    u.rowErr memid row = leNat (xorBytes s.tstChk (checkBytes memid row s.tstData)) ∧ TstDone s u := by
  have heq := State.tstOp_write (up := 0) (h.begin t).arm (h.begin t).row_ hg
  rw [h.mapped.putRow, State.begin_tstData, State.begin_tstChk] at heq
  refine does_running rfl hp ?_
  rw [heq]
  generalize s.tstData = d, leNat _ = e
  obtain ⟨hdone, herr⟩ := (s.begin t).tstBegun_shows
  have hk : Kept [.ecc] [.now, .mem, .resp, .out, .ecc] s (((s.begin t).tstBegun.putBytes a d).setErr memid row e) :=
    State.setErr_kept (State.putBytes_kept (s.tstBegun_begin_kept t) (by decide)) (by decide)
  have hput : Kept [] [.mem] (s.begin t).tstBegun ((s.begin t).tstBegun.putBytes a d) :=
    State.putBytes_kept (Kept.refl _ _ _) (by decide)
  have hstored : Stored a d s (((s.begin t).tstBegun.putBytes a d).setErr memid row e) :=
    ((Stored.putBytes (s.begin t).tstBegun a d).of_source rfl).of_mem_eq (State.setErr_mem ..)
  have hd := (hput.framed.regs ECC_TST_RES_DONE List.not_mem_nil).trans hdone
  have he := (hput.framed.regs ECC_TST_RES_ERR List.not_mem_nil).trans herr
  exact ⟨stored_raise hstored 38, by rw [rowErr_raise, State.rowErr_setErr_same], State.tst_done hk hd he⟩

theorem does_writeRaw_guarded (hg : s.tstGuarded memid row = true) : Does (.writeRaw t) s fun u => SameMemory s u ∧
    u.rowErr memid row = s.rowErr memid row ∧ TstDone s u := by
  refine does_running rfl hp ?_
  rw [State.tstOp_write_guarded (up := 0) (h.begin t).arm (h.begin t).row_ hg]
  obtain ⟨hdone, herr⟩ := (s.begin t).tstBegun_shows
  exact ⟨sameMemory_raise ⟨fun _ => rfl, fun _ => rfl⟩ 38, rowErr_raise .., State.tst_done (s.tstBegun_begin_kept t) hdone herr⟩

theorem does_encodeRow : Does (.encodeRow t) s fun u => u.tstChk = checkBytes memid row s.tstData ∧ SameMemory s u ∧
    Touches [ECC_TST_CHK_LO, ECC_TST_CHK_HI, ECC_TST_RES_DONE, ECC_TST_RES_ERR] [.pend] [.now, .resp, .out] s u ∧
    TstDone s u := by
  have hlen := checkBytes_length memid row s.tstData
  refine does_running rfl hp ?_
  rw [State.tstOp_encode (up := 0) (h.begin t).arm (h.begin t).row_, State.begin_tstData]
  generalize checkBytes memid row s.tstData = bs at hlen ⊢
  obtain ⟨hdone, herr⟩ := (s.begin t).tstBegun_shows
  have hd : ((s.begin t).tstBegun.setTstChk bs).rd ECC_TST_RES_DONE = 1 :=
    (State.rd_wr_ne _ (by decide) _).trans ((State.rd_wr_ne _ (by decide) _).trans hdone)
  have he : ((s.begin t).tstBegun.setTstChk bs).rd ECC_TST_RES_ERR = 0 :=
    (State.rd_wr_ne _ (by decide) _).trans ((State.rd_wr_ne _ (by decide) _).trans herr)
  refine ⟨by rw [tstChk_raise, State.tstChk_setTstChk _ hlen], sameMemory_raise ⟨fun _ => rfl, fun _ => rfl⟩ 38, ?_,
    State.tst_done (State.setTstChk_kept (s.tstBegun_begin_kept t) (by decide)) hd he⟩
  exact (((((Touches.begin s t (by decide)).wrOf (by decide) _).wrOf (by decide) _).wrOf (by decide) _).wrOf (by decide)
    _).raise (by decide) _

theorem does_readRaw {up : BitVec 320} (he : s.rowErr memid row ^^^ up.toNat = 0) : Does (.readRaw up t) s fun u =>
    u.tstData = s.rowData memid row ∧ u.tstChk = checkBytes memid row (s.rowData memid row) ∧ SameMemory s u ∧
      TstDone s u := by
  have hlen : (s.rowData memid row).length = 32 := by rw [h.mapped.rowData, State.bytes_length]
  have hchk := checkBytes_length memid row (s.rowData memid row)
  refine does_running rfl hp ?_
  rw [State.tstOp_read (h.begin t).arm (h.begin t).row_ he (by rw [h.rowData_begin, hlen]), h.rowData_begin]
  generalize s.rowData memid row = d, checkBytes _ _ _ = c at hlen hchk ⊢
  obtain ⟨hdone, herr⟩ := (s.begin t).tstBegun_shows
  obtain ⟨hd, hc, hrd⟩ := (s.begin t).tstBegun.setTst_shows hlen hchk
  have hk : Kept [.ecc] [.now, .mem, .resp, .out, .ecc] s (((s.begin t).tstBegun.setTstData d).setTstChk c) :=
    State.setTstChk_kept (State.setTstData_kept (s.tstBegun_begin_kept t) (by decide)) (by decide)
  have hsame : SameMemory s (((s.begin t).tstBegun.setTstData d).setTstChk c) := ⟨fun _ => rfl, fun _ => rfl⟩
  generalize ((s.begin t).tstBegun.setTstData d).setTstChk c = w at hd hc hrd hk hsame ⊢
  have hsame : SameMemory s (w.setErr memid row 0) := hsame
  exact ⟨(tstData_raise ..).trans hd, (tstChk_raise ..).trans hc, sameMemory_raise hsame 38,
    State.tst_done (State.setErr_kept hk (by decide)) ((hrd _ rfl (by decide)).trans hdone)
      ((hrd _ rfl (by decide)).trans herr)⟩

/-- CHECK_ROW; what it shows of a sound row comes last. -/
theorem does_checkRow {up : BitVec 320} : Does (.checkRow up t) s fun u =>
    u.rd ECC_TST_RES_RESULT = (eccResult (rsDecode (patSyms (s.rowErr memid row ^^^ up.toNat)))).code ∧
    u.rowErr memid row = s.rowErr memid row ^^^ up.toNat ∧ SameMemory s u ∧ TstDone s u ∧
    (s.rowErr memid row ^^^ up.toNat = 0 → u.tstData = s.rowData memid row ∧ u.rd ECC_TST_RES_NSYM = 0) := by
  have hlen : (s.rowData memid row).length = 32 := by rw [h.mapped.rowData, State.bytes_length]
  obtain ⟨es, d, heq, hsound⟩ := State.tstOp_check (up := up.toNat) (h.begin t).arm (h.begin t).row_ (by rw [h.rowData_begin, hlen])
  have herow : (s.begin t).rowErr memid row = s.rowErr memid row := rfl
  rw [herow] at heq hsound
  rw [h.rowData_begin] at hsound
  refine does_running rfl hp ?_
  rw [heq]
  obtain ⟨hdone, herr⟩ := (s.begin t).tstBegun_shows
  generalize hr : eccResult (rsDecode (patSyms (s.rowErr memid row ^^^ up.toNat))) = r
  generalize s.rowErr memid row ^^^ up.toNat = e at hsound ⊢
  have hcode : r.code % 2 ^ 3 = r.code := by cases r <;> rfl
  have hrd (v : State) (f : Fld) (hf : f.addr = 0x10400838) (hlo : f.lo < 32) : (v.setTstData d).rd f = v.rd f :=
    State.rd_setTstData_ne _ _ fun k hk => Fld.key_ne_of_addr_ne hlo (Nat.le_of_ble_eq_true rfl)
      (by simp only [hf, ECC_TST_DATAk]; omega)
  have hreport (v : State) : (v.tstReport r es).rd ECC_TST_RES_RESULT = r.code ∧
      (v.tstReport r es).rd ECC_TST_RES_NSYM = es.length % 2 ^ 3 ∧
      (v.tstReport r es).rd ECC_TST_RES_DONE = v.rd ECC_TST_RES_DONE ∧
      (v.tstReport r es).rd ECC_TST_RES_ERR = v.rd ECC_TST_RES_ERR := by
    unfold State.tstReport
    dsimp only
    simp (disch := decide) only [State.rd_wr_ne, State.rd_wr_same]
    exact ⟨hcode, rfl, trivial, trivial⟩
  have hk : Kept [.ecc] [.now, .mem, .resp, .out, .ecc] s
      ((((s.begin t).tstBegun.setErr memid row e).tstReport r es).setTstData d) :=
    State.setTstData_kept (State.tstReport_kept (State.setErr_kept (s.tstBegun_begin_kept t) (by decide)) (by decide))
      (by decide)
  obtain ⟨hresult, hnsym, hdone', herr'⟩ := hreport ((s.begin t).tstBegun.setErr memid row e)
  refine ⟨(State.rd_raise_code (by decide)).trans ((hrd _ _ rfl (by decide)).trans hresult), ?_,
    sameMemory_raise ⟨fun _ => rfl, fun _ => rfl⟩ 38,
    State.tst_done hk ((hrd _ _ rfl (by decide)).trans (hdone'.trans hdone))
      ((hrd _ _ rfl (by decide)).trans (herr'.trans herr)), fun he => ?_⟩
  · have hshow : Kept [.ecc] [] ((s.begin t).tstBegun.setErr memid row e)
        ((((s.begin t).tstBegun.setErr memid row e).tstReport r es).setTstData d) :=
      State.setTstData_kept (State.tstReport_kept (Kept.refl _ _ _) (by decide)) (by decide)
    rw [rowErr_raise, State.rowErr, show State.ecc _ = _ from hshow.framed.parts .ecc List.not_mem_nil]
    exact State.rowErr_setErr_same ((s.begin t).tstBegun) memid row e
  · obtain ⟨rfl, rfl⟩ := hsound he
    exact ⟨(tstData_raise ..).trans (State.tstData_setTstData _ hlen),
      (State.rd_raise_code (by decide)).trans ((hrd _ _ rfl (by decide)).trans hnsym)⟩

end

end

section
variable {s u : State} {f : FillRun} {t n : Nat}

/-- What a fill reports, seen from before the command. -/
theorem filled_of_reports (h : Stored f.addr (fillPattern f.pat n) (s.begin t) u ∧ u.ecc.fill = none ∧
      u.rd ECC_FILL_STAT_BUSY = 0 ∧ u.rd ECC_FILL_PROG = n ∧ Raised [37] (s.begin t) u ∧
      Kept [.pend, .ecc, .cvu] [.mem, .ecc, .cvu] (s.begin t) u) :
    Stored f.addr (fillPattern f.pat n) s u ∧ u.ecc.fill = none ∧ u.rd ECC_FILL_STAT_BUSY = 0 ∧
      u.rd ECC_FILL_PROG = n ∧ Raised [37] s u ∧
      Framed [.pend, .ecc, .cvu] [.now, .mem, .resp, .out, .ecc, .cvu] s u := by
  obtain ⟨hstored, hnone, hbusy, hprog, hraised, hkept⟩ := h
  exact ⟨hstored.of_source rfl, hnone, hbusy, hprog, hraised, (framed_of_begin hkept).mono (by decide)⟩

/-- Without ARM or a test row an operation of the window only sets ERR. -/
theorem does_idle {c : Instr} {op up : Nat}
    (he : exec c s = .next (if (s.begin t).pw.phase == .running then (s.begin t).tstOp op up else s.begin t))
    (h : s.rd ECC_TST_ADDR_HI_ARM = 0 ∨ s.testRow = none) (hp : s.pw.phase = .running) :
    Does c s fun u => u.rd ECC_TST_RES_ERR = 1 ∧ Touches [ECC_TST_RES_ERR] [] [.now, .resp, .out] s u := by
  have h' : (s.begin t).rd ECC_TST_ADDR_HI_ARM = 0 ∨ (s.begin t).testRow = none :=
    h.imp id (State.testRow_congr (State.begin_rd ..) (State.begin_rd ..)).trans
  refine does_running he hp ?_
  rw [State.tstOp_idle op h']
  exact ⟨State.rd_wr_same .., (Touches.begin s t (by decide)).wrOf (by decide) _⟩

theorem State.fillStart_empty (h : s.rd ECC_FILL_LEN_LEN = 0) : s.fillStart = s.fillFail 2 := by
  rw [State.fillStart_eq, if_pos h]

theorem State.fillStart_barred (hlen : s.rd ECC_FILL_LEN_LEN ≠ 0)
    (h : fillable s.fillFrom (s.rd ECC_FILL_LEN_LEN) = false ∨ 0x10000000 < s.rd ECC_FILL_LEN_LEN ∨
      s.inRegion s.fillFrom (32 * s.rd ECC_FILL_LEN_LEN) = true) : s.fillStart = s.fillFail 1 := by
  rw [State.fillStart_eq, if_neg hlen, if_pos h]

/-- A fill that the range admits starts unless another one runs. -/
theorem State.fillStart_admitted (hlen : s.rd ECC_FILL_LEN_LEN ≠ 0)
    (hfit : fillable s.fillFrom (s.rd ECC_FILL_LEN_LEN) = true) (hmax : s.rd ECC_FILL_LEN_LEN ≤ 0x10000000)
    (hfree : s.inRegion s.fillFrom (32 * s.rd ECC_FILL_LEN_LEN) = false) :
    s.fillStart = if s.ecc.fill.isSome = true then s.fillFail 3
      else s.fillBegun ⟨s.fillFrom, s.rd ECC_FILL_LEN_LEN, s.rd64 ECC_FILL_PAT_LO ECC_FILL_PAT_HI⟩ := by
  rw [State.fillStart_eq, if_neg hlen, if_neg]
  simp only [hfit, hfree, Bool.true_eq_false, Bool.false_eq_true, or_false, false_or]
  omega

end

/-- Settles O49: a fill writes row after row, each the pattern four times, and the units see the writes; an operation of
the test window reads or writes the symbols of the row as they stand, and its event is the last thing it does. -/
theorem fillAndTestWindow : Obligations.FillAndTestWindow := by
  unfold Obligations.FillAndTestWindow
  intro s f rows memid row a up t
  dsimp only
  have hfail (err : Nat) (herr : err < 16) (heq : (s.begin t).fillStart = (s.begin t).fillFail err)
      (hp : s.pw.phase = .running) : Does (.fillStart t) s fun u =>
        u.rd ECC_FILL_STAT_ERR = err ∧ u.rd ECC_FILL_STAT_FAIL = 1 ∧ Raised [37] s u ∧
          Touches [ECC_FILL_STAT_FAIL, ECC_FILL_STAT_ERR] [.pend] [.now, .resp, .out] s u := by
    refine does_running rfl hp ?_
    rw [heq]
    obtain ⟨herr', hfail, hraised, htouches⟩ := (s.begin t).fillFail_shows herr
    exact ⟨herr', hfail, hraised.raised, touches_of_begin htouches⟩
  refine ⟨fun hlen => hfail 2 (by decide) ?_, fun hlen hbad => hfail 1 (by decide) ?_,
    fun hlen hfit hmax hfree => ⟨fun hbusy => hfail 3 (by decide) ?_, fun hidle hp => ?_⟩,
    fun ⟨hf, hfit, halign, hrows, hsoft⟩ => ⟨?_, ?_⟩, fun hidle hp => ⟨?_, ?_, ?_, ?_⟩,
    fun ⟨harm, hrow, ha⟩ hp => ?_⟩
  · exact State.fillStart_empty (s := s.begin t) hlen
  · exact State.fillStart_barred (s := s.begin t) hlen hbad
  · exact (State.fillStart_admitted (s := s.begin t) hlen hfit hmax hfree).trans (if_pos hbusy)
  · have hstart := (State.fillStart_admitted (s := s.begin t) hlen hfit hmax hfree).trans
      (if_neg (by rw [State.begin_ecc, hidle]; decide))
    refine does_running rfl hp ?_
    rw [hstart]
    obtain ⟨hecc, hbusy, herr, hprog, htouches⟩ := (s.begin t).fillBegun_shows
      ⟨s.fillFrom, s.rd ECC_FILL_LEN_LEN, s.rd64 ECC_FILL_PAT_LO ECC_FILL_PAT_HI⟩
    exact ⟨hecc, hbusy, herr, hprog, touches_of_begin htouches⟩
  · have hnone := State.fillDone_eq (s := s.begin t) hf
    refine ⟨_, congrArg Host.Outcome.next hnone, ?_⟩
    have hreport := fill_reports (s := s.begin t) (v := ((s.begin t).fillEnded f f.rows).wr ECC_FILL_STAT_DONE 1)
      (State.wr_kept (Kept.refl _ _ _) (by decide)) (State.rd_wr_ne _ (by decide) _) (State.rd_wr_ne _ (by decide) _)
      hsoft hfit halign hrows (Nat.le_refl _)
    have hdone : ((((s.begin t).fillEnded f f.rows).wr ECC_FILL_STAT_DONE 1).raise 37).rd ECC_FILL_STAT_DONE = 1 :=
      (State.rd_raise_code (by decide)).trans (State.rd_wr_same ..)
    generalize (((s.begin t).fillEnded f f.rows).wr ECC_FILL_STAT_DONE 1).raise 37 = u at hreport hdone ⊢
    exact ⟨filled_of_reports hreport, hdone⟩
  · have hnone := State.fillAbort_eq (s := s.begin t) (n := rows) hf
    refine ⟨_, congrArg Host.Outcome.next hnone, ?_⟩
    have hreport := fill_reports (s := s.begin t)
      (v := (((s.begin t).fillEnded f (min rows f.rows)).wr ECC_FILL_STAT_FAIL 1).wr ECC_FILL_STAT_ERR 4)
      (State.wr_kept (State.wr_kept (Kept.refl _ _ _) (by decide)) (by decide))
      ((State.rd_wr_ne _ (by decide) _).trans (State.rd_wr_ne _ (by decide) _))
      ((State.rd_wr_ne _ (by decide) _).trans (State.rd_wr_ne _ (by decide) _))
      hsoft hfit halign hrows (Nat.min_le_right _ _)
    have hfail : (((((s.begin t).fillEnded f (min rows f.rows)).wr ECC_FILL_STAT_FAIL 1).wr ECC_FILL_STAT_ERR 4).raise
        37).rd ECC_FILL_STAT_FAIL = 1 :=
      (State.rd_raise_code (by decide)).trans ((State.rd_wr_ne _ (by decide) _).trans (State.rd_wr_same ..))
    have herr : (((((s.begin t).fillEnded f (min rows f.rows)).wr ECC_FILL_STAT_FAIL 1).wr ECC_FILL_STAT_ERR 4).raise
        37).rd ECC_FILL_STAT_ERR = 4 :=
      (State.rd_raise_code (by decide)).trans (State.rd_wr_same ..)
    generalize ((((s.begin t).fillEnded f (min rows f.rows)).wr ECC_FILL_STAT_FAIL 1).wr ECC_FILL_STAT_ERR 4).raise
      37 = u at hreport hfail herr ⊢
    exact ⟨filled_of_reports hreport, hfail, herr⟩
  · exact does_idle rfl hidle hp
  · exact does_idle rfl hidle hp
  · exact does_idle rfl hidle hp
  · exact does_idle rfl hidle hp
  · have harmed : Armed s memid row a := .of_rd harm hrow ha
    refine ⟨does_writeRaw harmed hp, does_writeRaw_guarded harmed hp, does_encodeRow harmed hp, fun he => ⟨does_readRaw harmed hp he, ?_⟩, ?_⟩
    · refine (does_checkRow harmed hp).imp fun u ⟨hres, _, hsame, hdone, hsound⟩ => ?_
      obtain ⟨hdata, hnsym⟩ := hsound he
      rw [he, rsDecode_zero] at hres
      exact ⟨hdata, hres, hnsym, hsame, hdone⟩
    · exact (does_checkRow harmed hp).imp fun u ⟨hres, herow, _, hdone, _⟩ => ⟨hres, herow, hdone⟩

end Sys2Proof.Machine

/-! ## The reading of a key (R84, R86, R87): O9 -/

namespace Sys2Proof.Machine

section
variable {s v : State} {m : KeyMem} {e : KeyEnd} {t : Nat}

theorem Touches.setKey {fs : List Fld} {A : List Area} {P : List Part} (h : Touches fs A P s v) (hP : .key ∈ P)
    (k : KeyBlk) : Touches fs A P s { v with key := k } :=
  h.parts' rfl fun p hp => by cases p <;> first | rfl | exact absurd hP hp

/-- How the reading of a key ends shows in KEY_STAT and KEY_FAULT. -/
theorem State.keyEnds_shows (s : State) (e : KeyEnd) (h : e.state ≠ 1) :
    (s.keyEnds e).rd KEY_STAT_STATE = e.state % 2 ^ 4 ∧ (s.keyEnds e).rd KEY_FAULT_DETAIL = e.detail % 2 ^ 16 ∧
      (s.keyEnds e).rd KEY_FAULT_SECTION = e.sect % 2 ^ 8 ∧ (s.keyEnds e).key = s.key ∧ (s.keyEnds e).pw = s.pw ∧
      (s.keyEnds e).rcd = s.rcd ∧
      Touches [KEY_STAT_STATE, KEY_FAULT_DETAIL, KEY_FAULT_SECTION, KEY_FAULT_FAREA] [] [] s (s.keyEnds e) := by
  unfold State.keyEnds
  rw [if_neg h]
  refine ⟨?_, ?_, ?_, rfl, rfl, rfl, ?_⟩
  · simp (disch := decide) only [State.rd_wr_ne, State.rd_wr_same]; rfl
  · simp (disch := decide) only [State.rd_wr_ne, State.rd_wr_same]; rfl
  · simp (disch := decide) only [State.rd_wr_ne, State.rd_wr_same]; rfl
  · exact ((((Touches.refl _ _ _ s).wrOf (by decide) _).wrOf (by decide) _).wrOf (by decide) _).wrOf (by decide) _

theorem State.keyEnds_farea (s : State) (h : e.state ≠ 1) (hd : e.detail = 0) :
    (s.keyEnds e).rd KEY_FAULT_FAREA = 0 := by
  unfold State.keyEnds
  rw [if_neg h, if_pos hd]
  exact State.rd_wr_same ..

/-- The key has been read in this start. -/
def State.keyRead (s : State) : State := { s with pw := { s.pw with start := { s.pw.start with keyRead := true } } }

/-- The judgement of an area is about that area, and never says that it is applied. -/
theorem State.judgeArea_area (s : State) (a : Nat) (p : List Byte) :
    (s.judgeArea a p).area = a ∧ (s.judgeArea a p).state ≠ 1 := by
  unfold State.judgeArea
  repeat' split
  all_goals exact ⟨rfl, Nat.ne_of_beq_eq_false rfl⟩

/-- The state with the key judged, before the judgement shows. -/
def State.keyJudged (s : State) (m : KeyMem) : State :=
  let s := s.showJournals m.comm m.hist
  let e := s.judgeKey m
  { s with key := { s.key with
    serial := keySerial m, last := lastValid 2 m.hist, area := e.area
    image := if e.state = 0 then some (keyArea m e.area) else none } }

theorem State.keyReadDone_eq {fault : Nat} (hp : s.pw.phase = .running) (hx : s.pw.exhausted = false)
    (hk : s.pw.start.keyPhase = true) (hr : s.pw.start.keyRead = false) : s.keyReadDone fault =
      match s.key.mem with
      | none => s.keyRead.keyEnds ⟨2, 0, 0, 0⟩
      | some m =>
        if fault = 1 then s.keyRead.keyEnds ⟨8, 0x10, 0, 0⟩
        else if fault = 2 then s.keyRead.keyEnds ⟨8, 0x11, 0, 0⟩
        else if (s.judgeKey m).state = 0 then s.keyRead.keyJudged m else (s.keyRead.keyJudged m).keyEnds (s.judgeKey m) := by
  unfold State.keyReadDone
  dsimp only
  rw [if_neg (by simp [hp, hx, hk, hr])]
  rfl

/-- What the journals and the judgement leave of a key that was read. -/
theorem State.keyJudged_shows (s : State) (m : KeyMem) :
    (s.keyJudged m).pw = s.pw ∧ (s.keyJudged m).key.mem = s.key.mem ∧ (s.keyJudged m).key.serial = keySerial m ∧
      (s.keyJudged m).key.last = lastValid 2 m.hist ∧
      (s.keyJudged m).key.area = (s.judgeKey m).area ∧
      (s.keyJudged m).key.image = (if (s.judgeKey m).state = 0 then some (keyArea m (s.judgeKey m).area) else none) ∧
      (s.keyJudged m).rd KEY_JRN_CNT_CONF = slotsUsed m.comm % 2 ^ 15 ∧
      (s.keyJudged m).rd KEY_JRN_CNT_HIST = slotsUsed m.hist % 2 ^ 15 ∧
      (s.keyJudged m).rd KEY_STAT_CJFULL = b2n (firstBlank m.comm).isNone ∧
      (s.keyJudged m).rd KEY_STAT_STATE = s.rd KEY_STAT_STATE ∧
      Touches [KEY_STAT_CJFULL, KEY_STAT_HJFULL, KEY_JRN_CNT_CONF, KEY_JRN_CNT_HIST] [] [.key] s (s.keyJudged m) := by
  have hbit (b : Bool) : b2n b % 2 = b2n b := by cases b <;> rfl
  refine ⟨rfl, rfl, rfl, rfl, rfl, rfl, ?_, ?_, ?_, ?_, ?_⟩
  · exact (State.rd_wr_ne _ (by decide) _).trans (State.rd_wr_same ..)
  · exact State.rd_wr_same ..
  · refine (State.rd_wr_ne _ (by decide) _).trans ((State.rd_wr_ne _ (by decide) _).trans
      ((State.rd_wr_ne _ (by decide) _).trans ((State.rd_wr_same ..).trans (hbit _))))
  · exact (State.rd_wr_ne _ (by decide) _).trans ((State.rd_wr_ne _ (by decide) _).trans
      ((State.rd_wr_ne _ (by decide) _).trans (State.rd_wr_ne _ (by decide) _)))
  · have hshown : Touches [KEY_STAT_CJFULL, KEY_STAT_HJFULL, KEY_JRN_CNT_CONF, KEY_JRN_CNT_HIST] [] [.key] s
        (s.showJournals m.comm m.hist) :=
      ((((((Touches.refl _ _ _ s).setKey (by decide) _).wrB (by decide) _).wrB (by decide) _).wrOf (by decide) _).wrOf
        (by decide) _)
    exact hshown.setKey (by decide) _

/-- The state with a key read and judged, and the judgement shown. -/
def State.keyShownJudged (s : State) (m : KeyMem) : State :=
  if (s.judgeKey m).state = 0 then s.keyJudged m else (s.keyJudged m).keyEnds (s.judgeKey m)

theorem State.judgeKey_state_ne (s : State) (m : KeyMem) : (s.judgeKey m).state ≠ 1 := by
  unfold State.judgeKey
  repeat' split
  all_goals first | exact (s.judgeArea_area _ _).2 | exact Nat.ne_of_beq_eq_false rfl

/-- The journals and the identity of the key show whatever the judgement is; the judgement shows where it is a fault. -/
theorem State.keyShownJudged_shows (s : State) (m : KeyMem) :
    (s.keyShownJudged m).pw = s.pw ∧ (s.keyShownJudged m).key = (s.keyJudged m).key ∧
      (∀ f ∈ [KEY_JRN_CNT_CONF, KEY_JRN_CNT_HIST, KEY_STAT_CJFULL], (s.keyShownJudged m).rd f = (s.keyJudged m).rd f) ∧
      ((s.judgeKey m).state = 0 → (s.keyShownJudged m).rd KEY_STAT_STATE = s.rd KEY_STAT_STATE) ∧
      ((s.judgeKey m).state ≠ 0 → (s.keyShownJudged m).rd KEY_STAT_STATE = (s.judgeKey m).state % 2 ^ 4 ∧
        (s.keyShownJudged m).rd KEY_FAULT_DETAIL = (s.judgeKey m).detail % 2 ^ 16 ∧
        (s.keyShownJudged m).rd KEY_FAULT_SECTION = (s.judgeKey m).sect % 2 ^ 8) ∧
      Touches [KEY_STAT_STATE, KEY_FAULT_DETAIL, KEY_FAULT_SECTION, KEY_FAULT_FAREA, KEY_STAT_CJFULL, KEY_STAT_HJFULL,
        KEY_JRN_CNT_CONF, KEY_JRN_CNT_HIST] [] [.key] s (s.keyShownJudged m) := by
  obtain ⟨hpw, -, -, -, -, -, -, -, -, hstate, htouch⟩ := s.keyJudged_shows m
  have hwide := htouch.mono (gs := [KEY_STAT_STATE, KEY_FAULT_DETAIL, KEY_FAULT_SECTION, KEY_FAULT_FAREA,
    KEY_STAT_CJFULL, KEY_STAT_HJFULL, KEY_JRN_CNT_CONF, KEY_JRN_CNT_HIST]) (by decide)
  unfold State.keyShownJudged
  split
  · next h => exact ⟨hpw, rfl, fun _ _ => rfl, fun _ => hstate, fun hne => absurd h hne, hwide⟩
  · next h =>
    obtain ⟨hstate', hdetail, hsect, hkey, hpw', -, htouch'⟩ :=
      (s.keyJudged m).keyEnds_shows (s.judgeKey m) (s.judgeKey_state_ne m)
    refine ⟨hpw'.trans hpw, hkey, fun f hf => htouch'.regs f ?_ (List.not_mem_nil), fun h' => absurd h' h,
      fun _ => ⟨hstate', hdetail, hsect⟩, hwide.trans htouch' (by decide) (by decide) (by decide)⟩
    rcases List.mem_cons.mp hf with rfl | hf
    · decide
    · rcases List.mem_cons.mp hf with rfl | hf
      · decide
      · rw [List.mem_singleton.mp hf]; decide

theorem State.judgeKey_of_magic (h : leAt 0 4 m.desc ≠ 0x444B5844) : s.judgeKey m = ⟨3, 0, 0, 0⟩ := by
  unfold State.judgeKey keyMagicOk
  rw [beq_false_of_ne h]
  rfl

theorem State.judgeKey_of_desc (h : leAt 0 4 m.desc = 0x444B5844) (h' : leAt 12 4 m.desc ≠ crc32c (slice 0 12 m.desc)) :
    s.judgeKey m = ⟨4, 1, 0, 0⟩ := by
  unfold State.judgeKey keyMagicOk keyDescOk
  rw [beq_iff_eq.mpr h, beq_false_of_ne h']
  rfl

/-- A sound descriptor: the area that the choice takes is judged, or the failing check is reported. -/
theorem State.judgeKey_sound (h : leAt 0 4 m.desc = 0x444B5844) (h' : leAt 12 4 m.desc = crc32c (slice 0 12 m.desc)) :
    (keyChoice hwIssue m = none → s.judgeKey m =
      ⟨4, (keyWorst hwIssue m).1.detail, (keyWorst hwIssue m).1.sect, (keyWorst hwIssue m).2⟩) ∧
    ∀ a, keyChoice hwIssue m = some a → s.judgeKey m = s.judgeArea a (keyArea m a).payload := by
  unfold State.judgeKey keyMagicOk keyDescOk
  rw [beq_iff_eq.mpr h, beq_iff_eq.mpr h']
  exact ⟨fun hc => by rw [hc]; rfl, fun a hc => by rw [hc]; rfl⟩

/-- A reading that fails on the bus or at the key's supply. -/
theorem does_keyReadDone_fault {fault : Fin 3} {d : Nat} (hd : d < 2 ^ 16)
    (hf : (s.begin t).keyReadDone fault = (s.begin t).keyRead.keyEnds ⟨8, d, 0, 0⟩) :
    Does (.keyReadDone fault t) s fun u => u.pw.start.keyRead = true ∧ u.rd KEY_STAT_STATE = 8 ∧
      u.rd KEY_FAULT_DETAIL = d ∧ u.key = s.key ∧ u.rcd = s.rcd ∧
      Touches [KEY_STAT_STATE, KEY_FAULT_DETAIL, KEY_FAULT_SECTION, KEY_FAULT_FAREA] [] [.now, .resp, .out, .pw] s u := by
  refine ⟨_, congrArg Host.Outcome.next hf, ?_⟩
  have hread : Touches [KEY_STAT_STATE, KEY_FAULT_DETAIL, KEY_FAULT_SECTION, KEY_FAULT_FAREA] []
      [.now, .resp, .out, .pw] s (s.begin t).keyRead := (Touches.begin s t (by decide)).setPw (by decide) _
  obtain ⟨hstate, hdetail, -, hkey, hpw, hrcd, htouch⟩ :=
    (s.begin t).keyRead.keyEnds_shows ⟨8, d, 0, 0⟩ (Nat.ne_of_beq_eq_false rfl)
  exact ⟨by rw [hpw]; rfl, hstate, hdetail.trans (Nat.mod_eq_of_lt hd), hkey, hrcd,
    hread.trans htouch (by decide) (by decide) (by decide)⟩

/-- Settles O9: the judgement of R84 to R87 is made on what was read, and a reading that fails shows why. -/
theorem keyReading : Obligations.KeyReading := by
  unfold Obligations.KeyReading
  intro s m fault t hp hx hk hr
  have heq (n : Nat) := State.keyReadDone_eq (s := s.begin t) (fault := n) hp hx hk hr
  refine ⟨fun hmem => ⟨_, congrArg Host.Outcome.next (heq fault), ?_⟩, fun hmem hf => ?_,
    fun hmem hf => ⟨(s.begin t).keyRead.keyShownJudged m, congrArg Host.Outcome.next ((heq fault).trans ?_), ?_⟩⟩
  · have hread : Touches [KEY_STAT_STATE, KEY_FAULT_DETAIL, KEY_FAULT_SECTION, KEY_FAULT_FAREA] []
        [.now, .resp, .out, .pw] s (s.begin t).keyRead := (Touches.begin s t (by decide)).setPw (by decide) _
    obtain ⟨hstate, hdetail, hsect, -, hpw, -, htouch⟩ := (s.begin t).keyRead.keyEnds_shows ⟨2, 0, 0, 0⟩ (by decide)
    have hfarea := (s.begin t).keyRead.keyEnds_farea (e := ⟨2, 0, 0, 0⟩) (by decide) rfl
    rw [State.begin_key, hmem]
    generalize (s.begin t).keyRead.keyEnds ⟨2, 0, 0, 0⟩ = u at *
    exact ⟨by rw [hpw]; rfl, hstate, hdetail, hsect, hfarea, hread.trans htouch (by decide) (by decide) (by decide)⟩
  · have hcases : fault = 1 ∨ fault = 2 := by omega
    rcases hcases with rfl | rfl
    · exact does_keyReadDone_fault (by decide) (by rw [heq, State.begin_key, hmem]; rfl)
    · exact does_keyReadDone_fault (by decide) (by rw [heq, State.begin_key, hmem]; rfl)
  · subst hf
    rw [State.begin_key, hmem]
    rfl
  · have hread : Touches [KEY_STAT_STATE, KEY_FAULT_DETAIL, KEY_FAULT_SECTION, KEY_FAULT_FAREA, KEY_STAT_CJFULL,
        KEY_STAT_HJFULL, KEY_JRN_CNT_CONF, KEY_JRN_CNT_HIST] [] [.now, .resp, .out, .pw, .key] s (s.begin t).keyRead :=
      (Touches.begin s t (by decide)).setPw (by decide) _
    have hjudge : (s.begin t).keyRead.judgeKey m = s.judgeKey m := rfl
    have hstate0 : (s.begin t).keyRead.rd KEY_STAT_STATE = s.rd KEY_STAT_STATE := rfl
    have hmem0 : (s.begin t).keyRead.key.mem = s.key.mem := rfl
    have hread0 : (s.begin t).keyRead.pw.start.keyRead = true := rfl
    obtain ⟨hpw, hkey, hrd, hsound, hfault, htouch⟩ := (s.begin t).keyRead.keyShownJudged_shows m
    obtain ⟨-, hkmem, hserial, hlast, harea, himage, hconf, hhist, hfull, -, -⟩ := (s.begin t).keyRead.keyJudged_shows m
    rw [← hkey] at hkmem hserial hlast harea himage
    rw [← hrd _ (by decide)] at hconf hhist hfull
    rw [hjudge] at harea himage hsound hfault
    rw [hstate0] at hsound
    rw [hmem0, hmem] at hkmem
    rw [← hpw] at hread0
    have hall := hread.trans htouch (by decide) (by decide) (by decide)
    generalize (s.begin t).keyRead.keyShownJudged m = u at *
    refine ⟨hread0, hkmem.trans hmem.symm, hserial, hlast, hconf, hhist, hfull, fun h => ?_, fun h h' => ?_,
      fun h h' => ⟨fun hc => ?_, fun a hc => ?_⟩, hall⟩
    · rw [State.judgeKey_of_magic h] at himage hfault
      exact ⟨(hfault (by decide)).1, himage⟩
    · rw [State.judgeKey_of_desc h h'] at himage hfault
      obtain ⟨hstate, hdetail, -⟩ := hfault (by decide)
      exact ⟨hstate, hdetail, himage⟩
    · rw [(State.judgeKey_sound h h').1 hc] at himage hfault
      obtain ⟨hstate, hdetail, -⟩ := hfault (Nat.ne_of_beq_eq_false rfl)
      exact ⟨hstate, hdetail, himage⟩
    · rw [(State.judgeKey_sound h h').2 a hc] at harea himage hsound hfault
      rw [(s.judgeArea_area a _).1] at harea himage
      refine ⟨harea, fun he => ⟨himage.trans (if_pos he), hsound he⟩, fun he => ?_⟩
      obtain ⟨hstate, hdetail, hsect⟩ := hfault he
      exact ⟨himage.trans (if_neg he), hstate, hdetail, hsect⟩

end

end Sys2Proof.Machine

/-! ## What key apply writes (R79, R80, R88, R89) -/

namespace Sys2Proof.Machine

section
variable {s u w : State} {f : Fld}

/-! ### Power, through records -/

/-- Nothing of the power block differs but the count of records refused. -/
def Refusing (s u : State) : Prop := ∃ n, u.pw = { s.pw with refused := n }

theorem Refusing.of_eq (h : u.pw = s.pw) : Refusing s u := ⟨s.pw.refused, h⟩

theorem Refusing.refl (s : State) : Refusing s s := .of_eq rfl

theorem Refusing.trans (h : Refusing s u) (h' : Refusing u w) : Refusing s w := by
  obtain ⟨n, hn⟩ := h
  obtain ⟨m, hm⟩ := h'
  exact ⟨m, by rw [hm, hn]⟩

theorem Refusing.to_eq (h : Refusing s u) (hw : w.pw = u.pw) : Refusing s w := h.trans (.of_eq hw)

theorem Refusing.kept (h : Refusing s u) {A : List Area} {P : List Part} (k : Kept A P u w) (hP : .pw ∉ P) : Refusing s w :=
  h.to_eq (k.framed.parts .pw hP)

theorem Refusing.foldl {α : Type} {f : State → α → State} (hf : ∀ v x, Refusing v (f v x)) (s : State) (l : List α) :
    Refusing s (l.foldl f s) := by
  induction l generalizing s with
  | nil => exact .refl s
  | cons x l ih => exact (hf s x).trans (ih _)

theorem Refusing.ite {c : Prop} [Decidable c] (hu : Refusing s u) (hw : Refusing s w) : Refusing s (if c then u else w) := by
  split <;> assumption

theorem Refusing.start (h : Refusing s u) : u.pw.start = s.pw.start := by
  obtain ⟨n, hn⟩ := h
  rw [hn]

theorem Refusing.phase (h : Refusing s u) : u.pw.phase = s.pw.phase := by
  obtain ⟨n, hn⟩ := h
  rw [hn]

theorem Refusing.wr (h : Refusing s u) (f : Fld) (v : Nat) : Refusing s (u.wr f v) := h.to_eq rfl

theorem Refusing.setRcd (h : Refusing s u) (r : Recorder) : Refusing s { u with rcd := r } := h.to_eq rfl

theorem Refusing.wr64 (h : Refusing s u) (lo hi : Fld) (v : Nat) : Refusing s (u.wr64 lo hi v) := h.to_eq rfl

theorem Refusing.raise (h : Refusing s u) (n : Nat) : Refusing s (u.raise n) := h.to_eq (State.raise_pw u n)

theorem Refusing.record (h : Refusing s u) (cls src kind obj : Nat) (w0 w1 : Option Nat) :
    Refusing s (u.record cls src kind obj w0 w1) :=
  h.trans (State.record_pw u cls src kind obj w0 w1)

theorem Refusing.ctMove (h : Refusing s u) (i st : Nat) : Refusing s (u.ctMove i st) := by
  refine Refusing.ite h (Refusing.record (Refusing.raise ?_ 32) ..)
  exact h.to_eq rfl

theorem Refusing.ctRelease (h : Refusing s u) (i : Nat) : Refusing s (u.ctRelease i) := by
  unfold State.ctRelease
  dsimp only
  exact (((((((h.ctMove i ctFree).wr _ _).wr _ _).wr _ _).wr _ _).wr _ _).wr _ _).wr64 _ _ _

theorem Refusing.rowWritten (h : Refusing s u) (memid row : Nat) : Refusing s (u.rowWritten memid row) := by
  unfold State.rowWritten
  split
  · exact Refusing.ite (h.ctRelease _) h
  · exact h

theorem Refusing.stagingStore (h : Refusing s u) (a : Nat) (bs : List Byte) : Refusing s (u.stagingStore a bs) := by
  have hput : Kept [] [.mem] u (u.putBytes a bs) := State.putBytes_kept (Kept.refl _ _ u) (by decide)
  have hrow (v : State) (r : Nat × Nat) : Refusing v
      (if v.rowBad r.1 r.2 && !coversRow a bs.length r.2 then v else (v.setErr r.1 r.2 0).rowWritten r.1 r.2) :=
    Refusing.ite (.refl v) (Refusing.rowWritten (.of_eq rfl) r.1 r.2)
  have hunit (v : State) (x : List (Nat × Byte)) : Refusing v (v.unitWrite x) :=
    Refusing.kept (.refl v) (State.unitWrite_kept (A := [.cvu]) (P := [.cvu]) (Kept.refl _ _ v) (by decide) (by decide))
      (by decide)
  unfold State.stagingStore
  dsimp only
  exact ((h.kept hput (by decide)).trans (Refusing.foldl hrow _ _)).trans (hunit _ _)

theorem Refusing.putRing (h : Refusing s u) (off : Nat) (bs : List Byte) : Refusing s (u.putRing off bs) := by
  unfold State.putRing
  dsimp only
  exact Refusing.ite (h.stagingStore _ _) ((h.stagingStore _ _).stagingStore _ _)

theorem Refusing.startFlush (h : Refusing s u) (b : Bool) : Refusing s (u.startFlush b) :=
  h.kept (State.startFlush_kept (A := [.ingress]) (P := [.rcd]) (Kept.refl _ _ u) (by decide) (by decide)) (by decide)

theorem Refusing.stage (h : Refusing s u) (cls : Nat) (flushes : Bool) (bytes : Nat → Bool → List Byte) :
    Refusing s (u.stage cls flushes bytes) := by
  unfold State.stage
  dsimp only
  generalize u.heartTakes _ = heart
  have hstaged (v : State) (hv : Refusing s v) : Refusing s
      (if flushes then (if 0x80000 ≤ v.fill then v.startFlush false else v).startFlush true
        else if 0x80000 ≤ v.fill then v.startFlush false else v) :=
    Refusing.ite ((Refusing.ite (hv.startFlush _) hv).startFlush _) (Refusing.ite (hv.startFlush _) hv)
  refine hstaged _ ?_
  exact (h.putRing _ _).to_eq rfl

theorem Refusing.sysRecord (h : Refusing s u) (kind cls : Nat) (flushes : Bool) (payload : List Byte) :
    Refusing s (u.sysRecord kind cls flushes payload) := by
  unfold State.sysRecord
  dsimp only
  refine Refusing.ite ?_ (Refusing.ite (h.stage ..) (h.kept (State.dropRecord_kept (A := [.pend, .ingress]) (P := [.rcd])
    (Kept.refl _ _ u) (by decide) (by decide)) (by decide)))
  exact Refusing.ite h (h.trans ⟨_, rfl⟩)

theorem Refusing.selfRecord (h : Refusing s u) (kind cls : Nat) (payload : List Byte) :
    Refusing s (u.selfRecord kind cls payload) :=
  Refusing.ite (h.sysRecord ..) (h.to_eq rfl)

/-! ### Records of the recorder's own -/

/-- A record that enters staging shows in the fill of staging and in the recorder's status alone. -/
theorem State.stage_touches (s : State) (cls : Nat) (flushes : Bool) (bytes : Nat → Bool → List Byte) :
    Touches [REC_STG_BYTES] [.pend, .ecc, .cvu, .ingress] [.mem, .pw, .rcd, .ecc, .cvu] s (s.stage cls flushes bytes) := by
  unfold State.stage
  dsimp only
  generalize s.heartTakes _ = heart
  have hput (off : Nat) (bs : List Byte) :
      Touches [REC_STG_BYTES] [.pend, .ecc, .cvu, .ingress] [.mem, .pw, .rcd, .ecc, .cvu] s (s.putRing off bs) :=
    (Touches.refl _ _ _ s).kept (State.putRing_kept (Kept.refl _ _ s) (fun _ h => h) fun _ h => h)
  have hrcd (v : State) (r : Recorder)
      (h : Touches [REC_STG_BYTES] [.pend, .ecc, .cvu, .ingress] [.mem, .pw, .rcd, .ecc, .cvu] s v) :
      Touches [REC_STG_BYTES] [.pend, .ecc, .cvu, .ingress] [.mem, .pw, .rcd, .ecc, .cvu] s { v with rcd := r } :=
    h.parts' rfl fun p hp => by cases p <;> first | rfl | exact absurd (by decide) hp
  have hflush (v : State) (b : Bool) : Kept [.pend, .ecc, .cvu, .ingress] [.mem, .pw, .rcd, .ecc, .cvu] v (v.startFlush b) :=
    State.startFlush_kept (Kept.refl _ _ v) (by decide) (by decide)
  have hite (v : State) (c : Prop) [Decidable c] (b : Bool)
      (h : Touches [REC_STG_BYTES] [.pend, .ecc, .cvu, .ingress] [.mem, .pw, .rcd, .ecc, .cvu] s v) :
      Touches [REC_STG_BYTES] [.pend, .ecc, .cvu, .ingress] [.mem, .pw, .rcd, .ecc, .cvu] s
        (if c then v.startFlush b else v) := by
    split
    · exact h.kept (hflush v b)
    · exact h
  exact hite _ _ _ (hite _ _ _ ((hrcd _ _ (hput _ _)).wrOf (by decide) _))

theorem State.sysRecord_touches (s : State) (kind cls : Nat) (flushes : Bool) (payload : List Byte) :
    Touches [REC_STG_BYTES] [.pend, .ecc, .cvu, .ingress] [.mem, .pw, .rcd, .ecc, .cvu] s
      (s.sysRecord kind cls flushes payload) := by
  unfold State.sysRecord
  dsimp only
  split
  · exact (Touches.refl _ _ _ s).kept (State.refuseOne_kept (Kept.refl _ _ s) (by decide))
  · split
    · exact s.stage_touches ..
    · exact (Touches.refl _ _ _ s).kept (State.dropRecord_kept (Kept.refl _ _ s) (by decide) (by decide))

theorem State.selfRecord_touches (s : State) (kind cls : Nat) (payload : List Byte) :
    Touches [REC_STG_BYTES] [.pend, .ecc, .cvu, .ingress] [.mem, .pw, .rcd, .ecc, .cvu] s (s.selfRecord kind cls payload) := by
  unfold State.selfRecord
  split
  · exact s.sysRecord_touches ..
  · exact (Touches.refl _ _ _ s).parts' rfl fun p hp => by cases p <;> first | rfl | exact absurd (by decide) hp

/-! ### The end of key apply -/

/-- The policy's guard, the layout and the stands' modes stand as the key or the defaults set them. -/
theorem State.rd_guard_judgePolicy (s : State) : s.judgePolicy.rd PWR_POL_GUARD = s.rd PWR_POL_GUARD := by
  unfold State.judgePolicy
  split
  · simp (disch := decide) only [State.rd_record_code, State.rd_wr_ne]
  · simp (disch := decide) only [State.rd_wr_ne]

theorem State.rd_hwn_judgeLayout (s : State) (h : s.rd REC_LAYOUT_HWN ≤ 0x2000000) :
    s.judgeLayout.rd REC_LAYOUT_HWN = s.rd REC_LAYOUT_HWN := by
  have hshut (v : State) (p : List Byte) : ((v.wr REC_HW_CNT_CLOSED 1).selfRecord 0x08 8 p).rd REC_LAYOUT_HWN =
      v.rd REC_LAYOUT_HWN :=
    ((State.selfRecord_touches ..).regs REC_LAYOUT_HWN (by decide) (by decide)).trans (State.rd_wr_ne v (by decide) _)
  have hlay : (s.wr REC_STAT_LAYERR 0).rd REC_LAYOUT_HWN = s.rd REC_LAYOUT_HWN := State.rd_wr_ne s (by decide) _
  unfold State.judgeLayout
  dsimp only
  rw [if_neg (Nat.not_lt_of_le h)]
  split
  · rw [State.rd_raise_code (by decide), hshut]
    exact hlay
  · exact hlay

/-- What Coppice shows of the cores beside STD_OPT. -/
theorem State.rd_syncCores (s : State) (hf : f.addr = 0x10200004) (hlo : f.lo < 32) (ha : f.area.code ≠ 5) :
    s.syncCores.rd f = s.rd f := by
  have hfall (v : State) (b a i : Nat) : (v.poolFall b a i).rd f = v.rd f := by
    unfold State.poolFall
    split
    · rw [State.rd_raise_code ha, State.rd_wr_ne _ (Fld.key_ne_of_addr_ne hlo (by decide) (by rw [hf]; decide))]
    · rfl
  have hmap (v : State) (x : Nat → Nat) : (cores.foldl (fun v c => v.wr (STD_COREMAP_CORE c) (x c)) v).rd f = v.rd f := by
    refine State.rd_foldl_wr_ne v x fun c hc => Fld.key_ne_of_addr_ne hlo ?_ ?_
    · simp only [STD_COREMAP_CORE]; omega
    · simp only [STD_COREMAP_CORE, hf]; omega
  unfold State.syncCores
  dsimp only
  rw [State.rd_wr_ne _ (Fld.key_ne_of_addr_ne hlo (by decide) (by rw [hf]; decide)),
    State.rd_wr_ne _ (Fld.key_ne_of_addr_ne hlo (by decide) (by rw [hf]; decide)), hfall,
    State.rd_wr_ne _ (Fld.key_ne_of_addr_ne hlo (by decide) (by rw [hf]; decide)), hmap]

theorem State.rd_initMode_startupRun (s : State) : s.startupRun.rd STD_OPT_INITMODE1 = s.rd STD_OPT_INITMODE1 := by
  have hasked (r : BistRun) : (s.runAsked r).rd STD_OPT_INITMODE1 = s.rd STD_OPT_INITMODE1 := by
    unfold State.runAsked
    split
    · rfl
    · unfold State.bistBegin State.enterPhases
      dsimp only
      rw [State.rd_syncCores _ rfl (by decide) (by decide)]
      exact State.rd_wr_ne _ (by decide) _
  unfold State.startupRun
  dsimp only
  split
  · exact hasked _
  · rfl

/-- Settling leaves the scanner running. -/
theorem State.pulseEnd_active (s : State) : s.pulseEnd.io.active = s.io.active := by
  unfold State.pulseEnd
  split
  · rfl
  · dsimp only
    split <;> split <;> rfl

theorem State.settleChan_active (s : State) (n : Nat) : (s.settleChan n).io.active = s.io.active := by
  have hlane : (s.settleLane n).io.active = s.io.active := by
    unfold State.settleLane
    split <;> rfl
  have hdrop (v : State) (want : Bool) : (v.dropPulse n want).io.active = v.io.active := by
    unfold State.dropPulse
    split
    · split
      · exact v.pulseEnd_active
      · rfl
    · rfl
  have hswitch (v : State) (want : Bool) : (v.settleSwitch n want).io.active = v.io.active := by
    unfold State.settleSwitch
    split <;> rfl
  have hsync (v : State) : (v.syncChan n).io.active = v.io.active := rfl
  rw [State.settleChan_eq]
  exact (hsync _).trans ((hswitch _ _).trans ((hdrop _ _).trans hlane))

theorem State.foldl_active {f : State → Nat → State} (hf : ∀ v n, (f v n).io.active = v.io.active) (s : State)
    (l : List Nat) : (l.foldl f s).io.active = s.io.active := by
  induction l generalizing s with
  | nil => rfl
  | cons n l ih => rw [List.foldl_cons, ih, hf]

theorem State.settleAll_active (s : State) : s.settleAll.io.active = s.io.active := by
  have hgroup (v : State) (g : Nat) : (v.settleGroup g).io.active = v.io.active := by
    unfold State.settleGroup
    exact State.foldl_active State.settleChan_active v _
  unfold State.settleAll
  exact State.foldl_active hgroup s _

/-- The scanner runs. -/
theorem State.fieldStart_active (s : State) : s.fieldStart.io.active = true := by
  unfold State.fieldStart
  rw [State.settleAll_active]
  exact (State.foldl_active (fun _ _ => by rfl) _ _).trans rfl

/-- A start-up run marks planes alone. -/
theorem State.startupRun_admitted (s : State) : s.startupRun.cnp.admitted = s.cnp.admitted := by
  have hasked (r : BistRun) : (s.runAsked r).cnp.admitted = s.cnp.admitted := by
    unfold State.runAsked
    split
    · rfl
    · unfold State.bistBegin
      dsimp only
      have hsync (v : State) : v.syncCores.cnp = v.cnp :=
        (State.syncCores_kept (A := [.std, .pend, .cpc]) (P := []) (Kept.refl _ _ v) (by decide)).framed.parts .cnp
          List.not_mem_nil
      rw [hsync]
      rfl
  unfold State.startupRun
  dsimp only
  split
  · exact hasked _
  · rfl

theorem Refusing.judgePolicy (h : Refusing s u) : Refusing s u.judgePolicy := by
  unfold State.judgePolicy
  exact Refusing.ite ((((((h.wr _ _).wr _ _).wr _ _).wr _ _).wr _ _).record _ _ _ _ _ _) (h.wr _ _)

theorem Refusing.judgeLayout (h : Refusing s u) : Refusing s u.judgeLayout := by
  have hshut (v : State) (hv : Refusing s v) (p : List Byte) :
      Refusing s (((v.wr REC_HW_CNT_CLOSED 1).selfRecord 0x08 8 p).raise 211) :=
    (Refusing.selfRecord (hv.wr _ _) _ _ _).raise 211
  have hlay : Refusing s (if 0x2000000 < u.rd REC_LAYOUT_HWN then
      ((u.wr REC_LAYOUT_HWN 0x100000).wr REC_STAT_LAYERR 1).selfRecord 0x06 2 (leBytes 4 (u.rd REC_LAYOUT_HWN) ++ leBytes 4 0)
      else u.wr REC_STAT_LAYERR 0) := by
    split
    · exact Refusing.selfRecord ((h.wr _ _).wr _ _) _ _ _
    · exact h.wr _ _
  unfold State.judgeLayout
  extract_lets n v
  change Refusing s v at hlay
  clear_value v
  split
  · exact hshut _ (hlay.setRcd _) _
  · exact hlay

/-! ### The end of key apply -/

/-- Key apply is over in this start. -/
def State.keyApplied (s : State) : State := { s with pw := { s.pw with start := { s.pw.start with applied := true } } }

/-- The policy and the layout have been judged. -/
def State.applyJudged (s : State) : State := s.keyApplied.judgePolicy.judgeLayout

theorem State.applyEnd_eq (s : State) : s.applyEnd = s.applyJudged.fieldStart.startupRun := rfl

/-- What key apply ends with, whatever was applied. -/
theorem State.applyEnd_shows (s : State) :
    s.applyEnd.pw.start.applied = true ∧ s.applyEnd.io.active = true ∧ s.applyEnd.eng = s.eng ∧
      s.applyEnd.cnp.admitted = s.cnp.admitted ∧
      s.applyEnd.rd STD_OPT_INITMODE1 = s.rd STD_OPT_INITMODE1 ∧ s.applyEnd.rd STD_LKO_CFG_MAX = s.rd STD_LKO_CFG_MAX ∧
      s.applyEnd.rd PWR_POL_GUARD = s.rd PWR_POL_GUARD ∧
      (s.rd REC_LAYOUT_HWN ≤ 0x2000000 → s.applyEnd.rd REC_LAYOUT_HWN = s.rd REC_LAYOUT_HWN) ∧
      ∀ f : Fld, f.area = .key → s.applyEnd.rd f = s.rd f := by
  have hkept : Kept [.pwr, .std, .pend, .ecc, .cpc, .iog, .chan, .cvu, .recd, .ingress, .bist]
      [.mem, .out, .pw, .rcd, .cop, .ecc, .io, .cnp, .cvu] s s.applyEnd :=
    State.applyEnd_kept (Kept.refl _ _ s) (fun _ h => h) fun _ h => h
  have heng : s.applyEnd.eng = s.eng := hkept.framed.parts .eng (by decide)
  have hkey (f : Fld) (hf : f.area = .key) : s.applyEnd.rd f = s.rd f := hkept.framed.regs f (by rw [hf]; decide)
  have hlko : s.applyEnd.rd STD_LKO_CFG_MAX = s.rd STD_LKO_CFG_MAX := hkept.framed.regs _ (by decide)
  have hpolicy (v : State) : Kept [.pwr, .pend, .ingress] [.pw, .rcd] v v.judgePolicy :=
    State.judgePolicy_kept (Kept.refl _ _ v) (by decide) (by decide)
  have hlayout (v : State) : Kept [.pend, .ecc, .cvu, .recd, .ingress] [.mem, .pw, .rcd, .ecc, .cvu] v v.judgeLayout :=
    State.judgeLayout_kept (Kept.refl _ _ v) (by decide) (by decide)
  have hfield (v : State) : Kept [.iog, .chan] [.out, .io] v v.fieldStart :=
    State.fieldStart_kept (Kept.refl _ _ v) (by decide) (by decide)
  have hrun (v : State) : Kept [.std, .pend, .cpc, .bist] [.cop, .cnp] v v.startupRun :=
    State.startupRun_kept (Kept.refl _ _ v) (by decide) (by decide)
  refine ⟨?_, ?_, heng, ?_, ?_, hlko, ?_, fun hle => ?_, hkey⟩
  · have hjudged : Refusing s.keyApplied s.applyJudged := (Refusing.refl s.keyApplied).judgePolicy.judgeLayout
    have hend : Refusing s.keyApplied s.applyEnd := by
      rw [State.applyEnd_eq]
      exact (hjudged.kept (hfield _) (by decide)).kept (hrun _) (by decide)
    rw [hend.start]
    rfl
  · have hio : s.applyEnd.io = s.applyJudged.fieldStart.io := (hrun _).framed.parts .io (by decide)
    rw [hio, State.fieldStart_active]
  · have hcnp : s.applyEnd.cnp.admitted = s.applyJudged.fieldStart.cnp.admitted := by
      rw [State.applyEnd_eq, State.startupRun_admitted]
    have hcnp' : s.applyJudged.fieldStart.cnp = s.applyJudged.cnp := (hfield _).framed.parts .cnp (by decide)
    have hcnp'' : s.applyJudged.cnp = s.cnp :=
      Eq.trans ((hlayout _).framed.parts .cnp (by decide)) ((hpolicy _).framed.parts .cnp (by decide))
    rw [hcnp, hcnp', hcnp'']
  · rw [State.applyEnd_eq]
    exact (State.rd_initMode_startupRun _).trans (((hfield _).framed.regs _ (by decide)).trans
      (((hlayout _).framed.regs _ (by decide)).trans ((hpolicy _).framed.regs _ (by decide))))
  · exact ((hrun _).framed.regs _ (by decide)).trans (((hfield _).framed.regs _ (by decide)).trans
      (((hlayout _).framed.regs _ (by decide)).trans (State.rd_guard_judgePolicy _)))
  · have hhwn (v : State) : v.judgePolicy.rd REC_LAYOUT_HWN = v.rd REC_LAYOUT_HWN := (hpolicy v).framed.regs _ (by decide)
    refine ((hrun _).framed.regs _ (by decide)).trans (((hfield _).framed.regs _ (by decide)).trans
      ((State.rd_hwn_judgeLayout _ ?_).trans (hhwn _)))
    rw [hhwn]
    exact hle

end

end Sys2Proof.Machine

/-! ## Key apply: the defaults, the sections and the programs; O10 -/

namespace Sys2Proof.Machine

section
variable {s u w : State}

/-! ### The defaults -/

theorem State.klDefaults_shows (s : State) :
    s.klDefaults.rd STD_OPT_INITMODE1 = 2 ∧ s.klDefaults.rd STD_LKO_CFG_MAX = 100 ∧
      s.klDefaults.rd REC_LAYOUT_HWN = 0x100000 ∧ s.klDefaults.rd PWR_POL_GUARD = 20 := by
  have hgroups (v : State) : Kept [.iog, .chan] [] v ((List.range 12).foldl (fun s g =>
      (s.wr (IOG_Gg_CFG_RDELAY g) 10).wr (IOG_Gg_CFG_RCOUNT g) 3) v) := by
    have hmem : Area.iog ∈ [Area.iog, Area.chan] := by decide
    exact Kept.foldl (fun _ _ h => State.wr_kept (State.wr_kept h hmem) hmem) (Kept.refl _ _ v) _
  have hchans (v : State) : Kept [.iog, .chan] [] v ((List.range 192).foldl (fun s n =>
      let s := (s.wr (IOG_CHn_FILT_T n) 100).wr (IOG_CHn_FILT_SETTLE n) 10
      let s := (s.wr (IOG_CHn_PULSE_LEN n) 40).wr (IOG_CHn_PULSE_PERIOD n) 100
      s.wr (IOG_CHn_SUBST_BITSUB n) 1) v) := by
    have hmem : Area.chan ∈ [Area.iog, Area.chan] := by decide
    exact Kept.foldl (fun _ _ h => State.wr_kept (State.wr_kept (State.wr_kept (State.wr_kept (State.wr_kept h hmem) hmem)
      hmem) hmem) hmem) (Kept.refl _ _ v) _
  have hread (f : Fld) (hf : f.area ∉ [Area.iog, Area.chan]) : s.klDefaults.rd f =
      (((((((s.wr STD_OPT_INITMODE1 2).wr STD_OPT_INITMODE2 2).wr STD_OPT_INITMODE3 2).wr STD_LKO_CFG_MAX 100).wr
        REC_LAYOUT_HWN 0x100000).wr PWR_POL_GUARD 20).wr PWR_WAKE_WAKEPRIO 7).rd f := by
    unfold State.klDefaults
    extract_lets modes lay wake groups
    exact ((hchans groups).framed.regs f hf).trans ((hgroups wake).framed.regs f hf)
  rw [hread _ (by decide), hread _ (by decide), hread _ (by decide), hread _ (by decide)]
  simp (disch := decide) only [State.rd_wr_ne, State.rd_wr_same]
  exact ⟨rfl, rfl, rfl, rfl⟩

/-! ### The programs -/

theorem State.engine_prog_putBank (s : State) (e b : Nat) (words : List Nat) (i : Nat) :
    ((s.putBank e b words).engine i).prog = (s.engine i).prog := by
  have hunit (v : State) (x : List (Nat × Byte)) : (v.unitWrite x).engine i = v.engine i := by
    have heng : (v.unitWrite x).eng = v.eng :=
      (State.unitWrite_kept (A := [.cvu]) (P := [.cvu]) (Kept.refl _ _ v) (by decide) (by decide)).framed.parts .eng
        (by decide)
    rw [State.engine, heng, State.engine]
  have hrows (v : State) (m lo n : Nat) : (v.rowsWritten m lo n).eng = v.eng :=
    (State.rowsWritten_kept (A := [.pend, .ecc, .ingress]) (P := [.pw, .rcd, .ecc]) (Kept.refl _ _ v) (by decide)
      (by decide)).framed.parts .eng (by decide)
  have hset (v : State) (hv : v.eng = s.eng) (x y : Nat) : ((v.setEngine e
      (if b = 0 then { v.engine e with image0 := x } else { v.engine e with image1 := y })).engine i).prog =
        (s.engine i).prog := by
    have hs (j : Nat) : v.engine j = s.engine j := by rw [State.engine, hv, State.engine]
    by_cases hi : i = e
    · subst hi
      rw [State.engine_setEngine_same, hs]
      split <;> rfl
    · rw [State.engine_setEngine_ne _ hi, hs]
  unfold State.putBank
  extract_lets bs v x y
  have hv : v.eng = s.eng := hrows ..
  exact (congrArg Engine.prog (hunit y _)).trans (hset v hv _ _)

theorem State.putBank_keeps (s : State) (e b : Nat) (words : List Nat) :
    Kept [.pend, .ecc, .cvu, .ingress] [.leMem, .pw, .rcd, .ecc, .eng, .cvu] s (s.putBank e b words) :=
  State.putBank_kept (Kept.refl _ _ s) (fun _ h => h) fun _ h => h

/-- An engine for which the key has no program has both banks cleared. -/
theorem State.applyProgram_none (s : State) (e : Nat) (map : Option (List Byte)) (bad : Bool) :
    s.applyProgram e none map bad = (s.putBank e 0 []).putBank e 1 [] := rfl

theorem State.keyless_programs (s : State) :
    let u := [0, 1, 2, 3].foldl (fun s e => s.applyProgram e none none false) s
    (∀ i, (u.engine i).prog = (s.engine i).prog) ∧
      Kept [.pend, .ecc, .cvu, .ingress] [.leMem, .pw, .rcd, .ecc, .eng, .cvu] s u := by
  have hstep (v : State) (e : Nat) : (∀ i, ((v.applyProgram e none none false).engine i).prog = (v.engine i).prog) ∧
      Kept [.pend, .ecc, .cvu, .ingress] [.leMem, .pw, .rcd, .ecc, .eng, .cvu] v (v.applyProgram e none none false) := by
    rw [State.applyProgram_none]
    exact ⟨fun i => by rw [State.engine_prog_putBank, State.engine_prog_putBank],
      State.putBank_kept (v.putBank_keeps e 0 []) (fun _ h => h) fun _ h => h⟩
  have hfold (l : List Nat) (v : State) :
      (∀ i, ((l.foldl (fun s e => s.applyProgram e none none false) v).engine i).prog = (v.engine i).prog) ∧
        Kept [.pend, .ecc, .cvu, .ingress] [.leMem, .pw, .rcd, .ecc, .eng, .cvu] v
          (l.foldl (fun s e => s.applyProgram e none none false) v) := by
    induction l generalizing v with
    | nil => exact ⟨fun _ => rfl, Kept.refl _ _ v⟩
    | cons e l ih =>
      obtain ⟨hprog, hkept⟩ := hstep v e
      obtain ⟨hprog', hkept'⟩ := ih (v.applyProgram e none none false)
      rw [List.foldl_cons]
      exact ⟨fun i => (hprog' i).trans (hprog i),
        ⟨⟨fun f hf => (hkept'.framed.regs f hf).trans (hkept.framed.regs f hf),
          fun p hp => Same.trans (hkept.framed.parts p hp) (hkept'.framed.parts p hp)⟩, hkept'.queue.trans hkept.queue,
          fun c => hkept'.canon (hkept.canon c)⟩⟩
  exact hfold [0, 1, 2, 3] s

end

end Sys2Proof.Machine

/-! ## Key apply leaves the key's own registers (R80); O10 -/

namespace Sys2Proof.Machine

section
variable {s u w : State}

/-! ### The key's registers -/

/-- The key's registers read as before. -/
def KeyRegs (s u : State) : Prop := ∀ f : Fld, f.area = .key → u.rd f = s.rd f

theorem KeyRegs.refl (s : State) : KeyRegs s s := fun _ _ => rfl

theorem KeyRegs.trans (h : KeyRegs s u) (h' : KeyRegs u w) : KeyRegs s w := fun f hf => (h' f hf).trans (h f hf)

theorem KeyRegs.kept (h : KeyRegs s u) {A : List Area} {P : List Part} (k : Kept A P u w) (hA : .key ∉ A) : KeyRegs s w :=
  h.trans fun f hf => k.framed.regs f (hf ▸ hA)

theorem KeyRegs.wr (h : KeyRegs s u) {f : Fld} (hf : f.area ≠ .key) (v : Nat) : KeyRegs s (u.wr f v) :=
  h.trans fun g hg => State.rd_wr_area u (by rw [hg]; exact hf.symm) v

theorem KeyRegs.ite {c : Prop} [Decidable c] (hu : KeyRegs s u) (hw : KeyRegs s w) : KeyRegs s (if c then u else w) := by
  split <;> assumption

theorem KeyRegs.foldl {α : Type} {f : State → α → State} {l : List α} (hf : ∀ v, ∀ x ∈ l, KeyRegs v (f v x)) (s : State) :
    KeyRegs s (l.foldl f s) := by
  induction l generalizing s with
  | nil => exact .refl s
  | cons x l ih =>
    exact (hf s x List.mem_cons_self).trans (ih (fun v y hy => hf v y (List.mem_cons_of_mem _ hy)) _)

/-! ### Register loads -/

/-- The key's registers lie in one block of 1 MiB. -/
theorem areaAt_ne_key {a : Nat} (h : a / 0x100000 % 0x10 ≠ 14) : areaAt a ≠ .key := by
  unfold areaAt
  generalize a / 0x100000 % 0x10 = n at h
  split
  · exact nofun
  · split
    all_goals first | exact absurd rfl h | repeat' split
    all_goals exact Area.noConfusion

theorem KeyRegs.putWord (h : KeyRegs s u) {a : Nat} (ha : areaAt a ≠ .key) (v : Nat) : KeyRegs s (u.putWord a v) := by
  unfold State.putWord
  split
  · exact h
  · exact h.trans (KeyRegs.foldl (fun x f _ => (KeyRegs.refl x).wr ha _) u)

/-- A register-load section that keeps R80 reaches no register of the key's. -/
theorem KeyRegs.applyLoad (h : KeyRegs s u) {type : Nat} {d : List Byte} (hok : loadOk type d = true) :
    KeyRegs s (u.applyLoad d) := by
  refine h.trans (KeyRegs.foldl (fun v x hx => (KeyRegs.refl v).putWord (areaAt_ne_key ?_) _) u)
  have hdest : destOk type x.1 = true := by
    simp only [loadOk, Bool.and_eq_true, List.all_eq_true] at hok
    exact (hok.2 x hx).1
  simp only [destOk, Bool.and_eq_true, List.contains_iff_mem] at hdest
  obtain ⟨-, hblock⟩ := hdest
  unfold destBlocks at hblock
  split at hblock <;> simp only [List.mem_cons, List.not_mem_nil, or_false] at hblock <;> omega

/-! ### Programs -/

theorem KeyRegs.restartFrom (h : KeyRegs s u) (e : Nat) (p : Prog) (warm nand : Bool) (cause why : Nat) :
    KeyRegs s (u.restartFrom e p warm nand cause why) := by
  have htable (v : State) (d : Tbl Byte) : Kept [] [.leMem] v (v.setLeTable e d) :=
    State.setLeTable_kept (Kept.refl _ _ v) (by decide)
  have hrows (v : State) (m lo n : Nat) : Kept [.pend, .ecc, .ingress] [.pw, .rcd, .ecc] v (v.rowsWritten m lo n) :=
    State.rowsWritten_kept (Kept.refl _ _ v) (by decide) (by decide)
  have hrestore (v : State) (l : Letters → Bool) : Kept [.le] [] v (v.restore l (engineAddr e)) :=
    State.restore_kept (Kept.refl _ _ v) fun a ha => by rw [(engineAddr_area ha).elim id id]; decide
  have hset (v : State) (x : Engine) : Kept [] [.eng] v (v.setEngine e x) :=
    State.setEngine_kept (Kept.refl _ _ v) (by decide)
  have hinvalid (v : State) : Kept [.le, .iog, .chan] [.out, .io, .eng] v (v.publishInvalid e) :=
    State.publishInvalid_kept (Kept.refl _ _ v) (by decide) (by decide)
  have howner (v : State) : Kept [.iog, .chan] [.out, .io] v (v.settleOwner e) :=
    State.settleOwner_kept (Kept.refl _ _ v) (by decide) (by decide)
  have hle (v : State) (hv : KeyRegs s v) (f : Fld) (hf : f.area = .le) (x : Nat) : KeyRegs s (v.wr f x) :=
    hv.wr (by rw [hf]; decide) x
  unfold State.restartFrom
  extract_lets x d0 d deg rows cleared v old eng kind src halted
  have hrowsK : KeyRegs s rows := (h.kept (htable _ _) (by decide)).kept (hrows _ _ _ _) (by decide)
  have hcleared : KeyRegs s cleared := hrowsK.kept (hrestore _ _) (by decide)
  have hv : KeyRegs s v := KeyRegs.ite (hle _ hcleared _ rfl _) hcleared
  have heng : KeyRegs s eng := hv.kept (hset _ _) (by decide)
  have hkind : KeyRegs s kind := hle _ (hle _ heng _ rfl _) _ rfl _
  have hsrc : KeyRegs s src := hle _ (hle _ hkind _ rfl _) _ rfl _
  have hhalted : KeyRegs s halted := hle _ (hle _ hsrc _ rfl _) _ rfl _
  exact ((hle _ hhalted _ rfl _).kept (hinvalid _) (by decide)).kept (howner _) (by decide)

theorem KeyRegs.leRestart (h : KeyRegs s u) (e : Nat) (warm : Bool) (cause : Nat) (bad : Bool) :
    KeyRegs s (u.leRestart e warm cause bad) := by
  have hshadow (v : State) (m c : Nat) : Kept [.pend, .ecc, .cpc, .ingress] [.mem, .leMem, .pw, .rcd, .cop, .ecc] v
      (v.seeShadow e m c).2 := State.seeShadow_kept (Kept.refl _ _ v) (fun _ h => h) fun _ h => h
  unfold State.leRestart
  extract_lets fail v x nand
  have hv : KeyRegs s v := by
    refine KeyRegs.wr ?_ (by show Area.unit ≠ Area.key; decide) 0
    exact h.kept (State.restartLoad_kept (A := [.pend, .le]) (P := [.eng]) (Kept.refl _ _ u) (by decide) (by decide))
      (by decide)
  clear_value v
  split
  · exact hv
  · extract_lets first q w why
    have hw : KeyRegs s w := by
      show KeyRegs s (if _ then _ else _ : Bool × State).2
      split
      · exact hv.kept (hshadow v _ _) (by decide)
      · exact hv
    clear_value w
    split
    · have hstate : KeyRegs s (w.wr (LE_Ee_STAT_STATE e) (if cause = 0 then leUnloaded else leStopped)) :=
        hw.wr (by show Area.le ≠ Area.key; decide) _
      have hidle : KeyRegs s ((w.wr (LE_Ee_STAT_STATE e) (if cause = 0 then leUnloaded else leStopped)).leIdle e) :=
        hstate.kept (State.leIdle_kept (A := []) (P := [.pmg]) (Kept.refl _ _ _) (by decide)) (by decide)
      generalize (w.wr (LE_Ee_STAT_STATE e) _).leIdle e = y at hidle ⊢
      have hinvalid : Kept [.le, .iog, .chan] [.out, .io, .eng] y (y.publishInvalid e) :=
        State.publishInvalid_kept (Kept.refl _ _ y) (by decide) (by decide)
      have howner (v : State) : Kept [.iog, .chan] [.out, .io] v (v.settleOwner e) :=
        State.settleOwner_kept (Kept.refl _ _ v) (by decide) (by decide)
      have hempty (v : State) : Kept [.pend, .ingress] [.pw, .rcd] v v.poolEmpty :=
        State.poolEmpty_kept (Kept.refl _ _ v) (by decide) (by decide)
      exact ((hidle.kept hinvalid (by decide)).kept (howner _) (by decide)).kept (hempty _) (by decide)
    · next y hy => 
      have hf : Kept [.pend, .le, .ingress] [.pw, .rcd] w y := formed_kept (Kept.refl _ _ w) hy (by decide) (by decide)
      exact (hw.kept hf (by decide)).restartFrom _ _ _ _ _ _

end

end Sys2Proof.Machine

/-! ## Key apply of a key that agrees, and without one: O10 -/

namespace Sys2Proof.Machine

section
variable {s u w : State}

theorem KeyRegs.putBank (h : KeyRegs s u) (e b : Nat) (words : List Nat) : KeyRegs s (u.putBank e b words) :=
  h.kept (u.putBank_keeps e b words) (by decide)

theorem KeyRegs.applyProgram (h : KeyRegs s u) {e : Nat} (he : e < 4) (prog map : Option (List Byte)) (bad : Bool) :
    KeyRegs s (u.applyProgram e prog map bad) := by
  have hle (v : State) (hv : KeyRegs s v) (f : Fld) (hf : f.area = .le) (x : Nat) : KeyRegs s (v.wr f x) :=
    hv.wr (by rw [hf]; decide) x
  unfold State.applyProgram
  extract_lets blank
  have hblank : KeyRegs s blank := (h.putBank e 0 []).putBank e 1 []
  clear_value blank
  split
  · exact hblank
  · next d =>
    extract_lets loaded a image admitted
    have hloaded : KeyRegs s loaded := KeyRegs.putWord (hle _ hblank _ rfl _) (areaAt_ne_key (by omega)) _
    clear_value loaded
    have himage : KeyRegs s image := hle _ (hle _ (hloaded.putBank e 0 _) _ rfl _) _ rfl _
    clear_value image
    have hreport (v : State) (r i : Nat) : Kept [.pend, .le, .ingress] [.pw, .rcd] v (v.admReport e r i) :=
      State.admReport_kept (Kept.refl _ _ v) (by decide) (by decide)
    have hadmitted : KeyRegs s admitted := himage.kept (hreport _ _ _) (by decide)
    clear_value admitted
    split
    · exact hadmitted
    · next p hp =>
      have hset (v : State) (x : Engine) : Kept [] [.eng] v (v.setEngine e x) :=
        State.setEngine_kept (Kept.refl _ _ v) (by decide)
      extract_lets eng bank ids
      have heng : KeyRegs s eng := hadmitted.kept (hset _ _) (by decide)
      have hbank : KeyRegs s bank := hle _ (hle _ heng _ rfl _) _ rfl _
      have hids : KeyRegs s ids := hle _ (hle _ (hle _ hbank _ rfl _) _ rfl _) _ rfl _
      exact hids.leRestart _ _ _ _

/-- What the KEY_ registers show of the sections, before the register loads and the programs. -/
def State.identified (s : State) (serial : Nat) (p : List Byte) : State :=
  let s := ((s.wr KEY_GEN (keyGen p)).wr KEY_PAYLEN (keyPaylen p)).wr64 KEY_SERIAL_LO KEY_SERIAL_HI serial
  let s := (s.wr KEY_SECT_TYPES (typesMask p)).wr KEY_SECT_PROG (engineMask p 4)
  (s.wr KEY_SECT_RMAP (engineMask p 5)).applyIdentity (sectionData p 1)

theorem State.identified_shows (s : State) (serial : Nat) (p : List Byte) :
    (s.identified serial p).rd KEY_GEN = keyGen p % 2 ^ 32 ∧ (s.identified serial p).rd KEY_PAYLEN = keyPaylen p % 2 ^ 32 ∧
      (s.identified serial p).rd KEY_VEH_ID0_DOMAIN = leAt 0 1 (sectionData p 1) % 2 ^ 8 := by
  unfold State.identified State.applyIdentity
  simp (disch := decide) only [State.wr64_eq, State.wrB_eq, State.rd_wr_ne, State.rd_wr_same]
  exact ⟨rfl, rfl, rfl⟩

theorem State.applySections_eq (s : State) (serial : Nat) (p : List Byte) (bad : Nat) : s.applySections serial p bad =
    [0, 1, 2, 3].foldl (fun s e => s.applyProgram e (engineSection p 4 e) (engineSection p 5 e) (bitAt bad e))
      ((loadSections p).foldl (fun s x => s.applyLoad (x.data p)) (s.identified serial p)) := rfl

/-- The loads and the programs of an image that is applied leave the key's registers. -/
theorem State.applySections_shows (s : State) (serial : Nat) (p : List Byte) (bad : Nat)
    (hok : (s.applySections serial p bad).applyFail p = none) :
    KeyRegs (s.identified serial p) (s.applySections serial p bad) ∧ (s.applySections serial p bad).key = s.key := by
  have hkept : Kept allAreas [.mem, .leMem, .out, .pw, .rcd, .cop, .ecc, .io, .eng, .cvu, .pmg] s
      (s.applySections serial p bad) := State.applySections_kept (Kept.refl _ _ s) (fun _ h => h) fun _ h => h
  refine ⟨?_, hkept.framed.parts .key (by decide)⟩
  have hloads : ∀ x ∈ loadSections p, loadOk x.type (x.data p) = true := by
    unfold State.applyFail at hok
    split at hok
    · cases hok
    · next hnone =>
      intro x hx
      simpa using List.find?_eq_none.mp hnone x hx
  rw [State.applySections_eq]
  refine (KeyRegs.foldl (fun v x hx => (KeyRegs.refl v).applyLoad (hloads x hx)) _).trans
    (KeyRegs.foldl (fun v e he => (KeyRegs.refl v).applyProgram ?_ _ _ _) _)
  simp only [List.mem_cons, List.not_mem_nil, or_false] at he
  omega

/-- What the table says of a blaze, besides its words. -/
def State.loadBlaze (s : State) (b : Nat) : State :=
  let e := s.entry b
  let s := s.wrB (CNP_BLZb_STAT_RESOLVED b) (!e.foreign)
  let s := if e.host && e.role != 0 then s.wrB (CNP_HBUFh_STAT_DIR e.hbuf) (e.role == roleTx) else s
  if e.role = roleRx ∧ e.rsub % 4 = 2 then s.setBlz b { blzInit with data := List.replicate e.paylen 0xFF } else s

theorem State.loadBlaze_shows (s : State) (b : Nat) :
    KeyRegs s (s.loadBlaze b) ∧ (s.loadBlaze b).cnp.admitted = s.cnp.admitted := by
  unfold State.loadBlaze
  extract_lets e v w
  have hv : KeyRegs s v := (KeyRegs.refl s).wr (by show Area.cnp ≠ Area.key; decide) _
  have hw : KeyRegs s w := KeyRegs.ite (hv.wr (by show Area.hbuf ≠ Area.key; decide) _) hv
  have hadm : w.cnp.admitted = s.cnp.admitted := by
    show (if _ then _ else _ : State).cnp.admitted = _
    split <;> rfl
  clear_value w
  split
  · exact ⟨hw.kept (State.setBlz_kept (A := []) (P := [.cnp]) (Kept.refl _ _ w) (by decide)) (by decide), hadm⟩
  · exact ⟨hw, hadm⟩

/-- The table as it stands in the registers, before the blazes are looked at one by one. -/
theorem State.loadTable_eq (s : State) (d : List Byte) : ∃ v, s.loadTable d = (List.range (leAt 6 2 d)).foldl State.loadBlaze v ∧
    KeyRegs s v ∧ v.cnp.admitted = true := by
  have hcnp (v : State) (hv : KeyRegs s v) (f : Fld) (hf : f.area = .cnp) (x : Nat) : KeyRegs s (v.wr f x) :=
    hv.wr (by rw [hf]; decide) x
  unfold State.loadTable
  extract_lets n plan segs count words crc old v
  have hplan : KeyRegs s plan :=
    ((KeyRegs.refl s).putWord (areaAt_ne_key (by decide)) _).putWord (areaAt_ne_key (by decide)) _
  have hsegs : KeyRegs s segs :=
    hplan.trans (KeyRegs.foldl (fun x i _ => (KeyRegs.refl x).wr (by show Area.cnp ≠ Area.key; decide) _) plan)
  have hcount : KeyRegs s count := hcnp _ hsegs _ rfl _
  have hwords : KeyRegs s words := hcount.trans (KeyRegs.foldl (fun x b _ =>
    KeyRegs.foldl (fun y i _ => (KeyRegs.refl y).wr (by show Area.cnp ≠ Area.key; decide) _) x) count)
  have hcrc : KeyRegs s crc := hcnp _ hwords _ rfl _
  exact ⟨v, rfl, hcrc, rfl⟩

theorem State.loadTable_shows (s : State) (d : List Byte) :
    KeyRegs s (s.loadTable d) ∧ (s.loadTable d).cnp.admitted = true ∧ (s.loadTable d).key = s.key := by
  obtain ⟨v, heq, hv, hadm⟩ := s.loadTable_eq d
  have hkept : Kept allAreas [.cnp] s (s.loadTable d) :=
    State.loadTable_kept (Kept.refl _ _ s) (fun _ h => h) fun _ h => h
  have hadmitted (l : List Nat) (x : State) : (l.foldl State.loadBlaze x).cnp.admitted = x.cnp.admitted := by
    induction l generalizing x with
    | nil => rfl
    | cons b l ih => rw [List.foldl_cons, ih, (x.loadBlaze_shows b).2]
  refine ⟨?_, ?_, hkept.framed.parts .key (by decide)⟩
  · rw [heq]
    exact hv.trans (KeyRegs.foldl (fun x b _ => (x.loadBlaze_shows b).1) v)
  · rw [heq, hadmitted, hadm]

/-! ### The two outcomes -/

theorem State.keyApplyDone_keyless {bad : Nat} (hp : s.pw.phase = .running) (hx : s.pw.exhausted = false)
    (hr : s.pw.start.keyRead = true) (ha : s.pw.start.applied = false) (hstate : s.rd KEY_STAT_STATE ≠ 0) :
    s.keyApplyDone bad = s.applyKeyless := by
  unfold State.keyApplyDone
  extract_lets z
  rw [if_neg (by simp [z, hp, hx, hr, ha])]
  split
  · next h => exact absurd h hstate
  · rfl

theorem State.keyApplyDone_agrees {a : KeyArea} {bad : Nat} (hp : s.pw.phase = .running) (hx : s.pw.exhausted = false)
    (hr : s.pw.start.keyRead = true) (ha : s.pw.start.applied = false) (himage : s.key.image = some a)
    (hstate : s.rd KEY_STAT_STATE = 0)
    (hok : (s.klDefaults.applySections s.key.serial a.payload bad).applyFail a.payload = none) : s.keyApplyDone bad =
      (((s.klDefaults.applySections s.key.serial a.payload bad).loadTable (sectionData a.payload 3)).keyEnds
        ⟨1, 0, 0, (s.klDefaults.applySections s.key.serial a.payload bad).key.area⟩).applyEnd := by
  unfold State.keyApplyDone
  extract_lets z
  rw [if_neg (by simp [z, hp, hx, hr, ha])]
  split
  · next b hb _ =>
    obtain rfl : b = a := Option.some_inj.mp (hb.symm.trans himage)
    extract_lets p k
    have hok' : k.applyFail p = none := hok
    rw [hok']
  · next hne => exact absurd hstate (hne a himage)

/-- The end of the reading as an image that is applied shows it. -/
theorem State.keyEnds_applied (s : State) (a : Nat) :
    (s.keyEnds ⟨1, 0, 0, a⟩).rd KEY_STAT_STATE = 1 ∧ (s.keyEnds ⟨1, 0, 0, a⟩).rd KEY_STAT_AREA = a % 2 ∧
      (s.keyEnds ⟨1, 0, 0, a⟩).rd KEY_GEN = s.rd KEY_GEN ∧ (s.keyEnds ⟨1, 0, 0, a⟩).rd KEY_PAYLEN = s.rd KEY_PAYLEN ∧
      (s.keyEnds ⟨1, 0, 0, a⟩).rd KEY_VEH_ID0_DOMAIN = s.rd KEY_VEH_ID0_DOMAIN ∧
      (s.keyEnds ⟨1, 0, 0, a⟩).cnp = s.cnp := by
  unfold State.keyEnds
  rw [if_pos rfl, if_pos rfl]
  simp (disch := decide) only [State.rd_wr_ne, State.rd_wr_same]
  exact ⟨rfl, rfl, trivial, trivial, trivial, rfl⟩

theorem State.applyKeyless_shows (s : State) :
    s.applyKeyless.pw.start.applied = true ∧ s.applyKeyless.io.active = true ∧
      s.applyKeyless.rd STD_OPT_INITMODE1 = 2 ∧ s.applyKeyless.rd STD_LKO_CFG_MAX = 100 ∧
      s.applyKeyless.rd REC_LAYOUT_HWN = 0x100000 ∧ s.applyKeyless.rd PWR_POL_GUARD = 20 ∧
      s.applyKeyless.rd KEY_STAT_STATE = s.rd KEY_STAT_STATE ∧
      ∀ e, (s.applyKeyless.engine e).prog = (s.engine e).prog := by
  have hdefaults : Kept [.pwr, .std, .lko, .iog, .chan, .recd] [] s s.klDefaults :=
    State.klDefaults_kept (Kept.refl _ _ s) fun _ h => h
  obtain ⟨hmode, hlko, hhwn, hguard⟩ := s.klDefaults_shows
  obtain ⟨hprog, hkept⟩ := s.klDefaults.keyless_programs
  unfold State.applyKeyless
  generalize [0, 1, 2, 3].foldl (fun (s : State) e => s.applyProgram e none none false) s.klDefaults = v at hprog hkept ⊢
  obtain ⟨happlied, hactive, heng, -, hmode', hlko', hguard', hhwn', hkey'⟩ := v.applyEnd_shows
  have hread (f : Fld) (hf : f.area ∉ [Area.pend, .ecc, .cvu, .ingress]) : v.rd f = s.klDefaults.rd f :=
    hkept.framed.regs f hf
  have hv : v.rd REC_LAYOUT_HWN = 0x100000 := (hread _ (by decide)).trans hhwn
  refine ⟨happlied, hactive, hmode'.trans ((hread _ (by decide)).trans hmode),
    hlko'.trans ((hread _ (by decide)).trans hlko), (hhwn' (by rw [hv]; decide)).trans hv,
    hguard'.trans ((hread _ (by decide)).trans hguard),
    (hkey' _ rfl).trans ((hread _ (by decide)).trans (hdefaults.framed.regs _ (by decide))), fun e => ?_⟩
  have heng0 : s.klDefaults.eng = s.eng := hdefaults.framed.parts .eng List.not_mem_nil
  rw [State.engine, heng, ← State.engine, hprog, State.engine, heng0, State.engine]

end

/-- Settles O10: the defaults are written first; the loads and the programs of a key reach none of its own registers, and
what ends key apply changes neither those nor the defaults. -/
theorem keyApply : Obligations.KeyApply := by
  unfold Obligations.KeyApply
  intro s a bad t hp hx hr ha
  refine ⟨fun hstate => ⟨(s.begin t).applyKeyless, ?_, ?_⟩, fun himage hstate hok => ?_⟩
  · exact congrArg Host.Outcome.next (State.keyApplyDone_keyless (s := s.begin t) hp hx hr ha hstate)
  · obtain ⟨happlied, hactive, hmode, hlko, hhwn, hguard, hkey, hprog⟩ := (s.begin t).applyKeyless_shows
    exact ⟨happlied, hactive, hmode, hlko, hhwn, hguard, hkey, fun e _ => hprog e⟩
  · refine ⟨_, congrArg Host.Outcome.next
      (State.keyApplyDone_agrees (s := s.begin t) hp hx hr ha himage hstate hok), ?_⟩
    obtain ⟨hregs, hkey⟩ := (s.begin t).klDefaults.applySections_shows s.key.serial a.payload bad.toNat hok
    obtain ⟨hgen, hlen, hdomain⟩ := (s.begin t).klDefaults.identified_shows s.key.serial a.payload
    have hkey0 : (s.begin t).klDefaults.key = s.key :=
      (State.klDefaults_kept (P := []) (Kept.refl _ _ (s.begin t)) fun _ h => h).framed.parts .key List.not_mem_nil
    have harea : ((s.begin t).klDefaults.applySections s.key.serial a.payload bad.toNat).key.area = s.key.area := by
      rw [hkey, hkey0]
    rw [State.begin_key, harea]
    generalize (s.begin t).klDefaults.applySections s.key.serial a.payload bad.toNat = k at hregs
    obtain ⟨htable, hadm, -⟩ := k.loadTable_shows (sectionData a.payload 3)
    generalize k.loadTable (sectionData a.payload 3) = l at htable hadm ⊢
    obtain ⟨hstate1, harea1, hgen1, hlen1, hdomain1, hcnp⟩ := l.keyEnds_applied s.key.area
    generalize l.keyEnds ⟨1, 0, 0, s.key.area⟩ = v at hstate1 harea1 hgen1 hlen1 hdomain1 hcnp ⊢
    obtain ⟨happlied, hactive, -, hadmitted, -, -, -, -, hend⟩ := v.applyEnd_shows
    have hread (f : Fld) (hf : f.area = .key) := (htable f hf).trans (hregs f hf)
    refine ⟨happlied, hactive, (hend _ rfl).trans hstate1, (hend _ rfl).trans harea1, ?_, ?_, ?_,
      hadmitted.trans (by rw [hcnp, hadm])⟩
    · exact (hend _ rfl).trans (hgen1.trans ((hread _ rfl).trans hgen))
    · exact (hend _ rfl).trans (hlen1.trans ((hread _ rfl).trans hlen))
    · exact (hend _ rfl).trans (hdomain1.trans ((hread _ rfl).trans hdomain))

end Sys2Proof.Machine

/-! ## Stand firmware awaits a start-up run that waits itself (R458, R459) -/

namespace Sys2Proof.Machine

-- An evaluation waits for the kernel, which has all that stands before it to check: one at a time.
set_option Elab.async false

/-- After key apply, with no firmware in any slot, a start-up run waits for a test of Coppice's own. -/
def startupWaits : State :=
  { State.reset with
    fwu := { State.reset.fwu with slots := [] }
    pw := { powerInit with phase := .running, start := { startInit with applied := true } }
    cop := { State.reset.cop with waiting := some (bistNew .startup 0 0x1F0000) } }

/-- Whether the load of stand firmware is over, as a number. -/
def firmwareOver (u : State) : Nat := b2n u.pw.start.firmware

theorem firmwareOver_firmwareLoadDone : shown firmwareOver (exec (.firmwareLoadDone 0) startupWaits) = 0 := by
  decide +kernel

/-- Refutes O12: its clauses ask that no run is in progress, but a start-up run that waits for Coppice holds S0 back as
well, and the load ends only after it. -/
theorem not_firmwareLoad : ¬ Obligations.FirmwareLoad := by
  intro h
  obtain ⟨hseed, -⟩ := h startupWaits 0 0 rfl
  obtain ⟨u, ⟨hover, -⟩, hzero⟩ :=
    (hseed rfl rfl rfl (by decide +kernel) (by decide +kernel) (by decide +kernel)).exists_shown firmwareOver_firmwareLoadDone
  rw [firmwareOver, hover] at hzero
  exact absurd hzero (by decide)

end Sys2Proof.Machine

/-! ## A window of Lookout whose flag is not of one bit (R150, R151) -/

namespace Sys2Proof.Machine

-- An evaluation waits for the kernel, which has all that stands before it to check: one at a time.
set_option Elab.async false

/-- Stand 0 runs and owes the second write of a service, early in an armed window of 100 ms; the field of OPEN, of one
bit, holds 2. -/
def openHoldsTwo : State :=
  let s : State := ((raisedNow.wr STD_LKO_STAT_ARMED 1).wr STD_LKO_CFG_MAX 100).wr STD_LKO_CFG_MIN 2
  { s with lko := ⟨0, some 0, true⟩, regs := tblSet 0 STD_LKO_STAT_OPEN.key 2 s.regs }

theorem openHoldsTwo_serves : openHoldsTwo.pw.phase = .running ∧ openHoldsTwo.pw.exhausted = false ∧
    openHoldsTwo.hartRuns 0 = true ∧ openHoldsTwo.deviceOpen 0 0x10200000 = true ∧ openHoldsTwo.fwu.seed = none ∧
    openHoldsTwo.fwu.pause = none ∧ openHoldsTwo.rd STD_LKO_STAT_OPEN = 2 := by
  decide +kernel

/-- Whether Lookout's lower bound applies, as a number. -/
def lowerBound (u : State) : Nat := b2n u.lko.lower

/-- The service resets the module: OPEN is not 1, so the window is not open. -/
theorem lowerBound_lookoutServiceSecond :
    shown lowerBound (exec (.lookoutServiceSecond 0 0x5AA5 0) openHoldsTwo) = 0 := by
  decide +kernel

/-- Refutes O43: the statement calls a service early where OPEN is 0 and lets any other value of the field stand for an
open window, but the model calls the window open where OPEN is 1; in a state whose field holds 2 the service resets the
module. -/
theorem not_lookoutServices : ¬ Obligations.LookoutServices := by
  intro h
  obtain ⟨hphase, hcores, hruns, hopen, hseed, hpause, htwo⟩ := openHoldsTwo_serves
  obtain ⟨hserve, -⟩ := h openHoldsTwo 0 0x5AA5 0 0 hphase hcores
  obtain ⟨-, hsecond⟩ := hserve hruns hopen hseed
  obtain ⟨-, hdone, -⟩ := hsecond rfl
  have hlate : ¬ openHoldsTwo.rd STD_LKO_STAT_OPEN = 0 := by rw [htwo]; decide
  obtain ⟨u, ⟨-, hlko, -⟩, hzero⟩ :=
    (hdone rfl (by decide) (fun hearly => hlate hearly.2.2.1) hpause).exists_shown lowerBound_lookoutServiceSecond
  rw [lowerBound, hlko] at hzero
  exact absurd hzero (by decide)

end Sys2Proof.Machine

/-! ## Frames that leave, and copies that are accepted (R308, R322, R332): O37 -/

namespace Sys2Proof.Machine

section
variable {s u w : State}

/-- What leaves the module and the check-value units aside, the state is as it was: the acceptance of a copy is too. -/
theorem State.accepts_kept (k : Kept [.cvu] [.out, .cvu] s u) (e : Entry) (plane : Nat) (frame : List Byte) :
    u.accepts e plane frame = s.accepts e plane frame := by
  have hrd (f : Fld) (hf : f.area ≠ .cvu) : u.rd f = s.rd f := k.framed.regs f (by simpa using hf)
  have hfab : u.fab = s.fab := k.framed.parts .fab (by decide)
  have hcnp : u.cnp = s.cnp := k.framed.parts .cnp (by decide)
  have hnow : u.now = s.now := k.framed.parts .now (by decide)
  have hseg (h h' : Nat) : u.segShift h h' = s.segShift h h' := by
    rw [State.segShift, State.segShift, hrd (CNP_SEGSTARTs_TICK h) nofun, hrd (CNP_SEGSTARTs_TICK h') nofun]
  have hstat (i : Nat) : u.rd (CNP_SEGSTAT_SEG i) = s.rd (CNP_SEGSTAT_SEG i) := hrd _ nofun
  have hown : u.ownSeg = s.ownSeg := by simp only [State.ownSeg, hstat]
  have hcons : u.consist = s.consist := hrd _ nofun
  have hbound : u.bound e = s.bound e := by simp only [State.bound, State.candidates, hfab, hcons]
  have hslot : u.slot e = s.slot e := by
    simp only [State.slot, hbound, hseg, hown, hcons, hrd CNP_PLAN1_HOMESEG nofun]
  have hspare (g f n : Nat) : u.spareSender g f n = s.spareSender g f n := by
    simp only [State.spareSender, State.tableNode, hfab, hcnp]
  have hnode (c m : Nat) : u.nodeOf c m = s.nodeOf c m := by simp only [State.nodeOf, hfab]
  have htc : u.tcNs = s.tcNs := by rw [State.tcNs, State.tcNs, hrd CNP_PLAN0_TC nofun]
  have hpath (i p : Nat) : u.pathDelay i p = s.pathDelay i p := by simp only [State.pathDelay, State.pathTo, hfab]
  have hexp : u.expected e frame = s.expected e frame := by
    simp only [State.expected, State.entrySeg, hslot, hbound, hown, hspare, hnode]
  have hmeets (x : Expected) : u.meets x plane frame = s.meets x plane frame := by
    unfold State.meets State.markNs State.cycleNo
    rw [hnow, htc]
    simp only [hpath]
  simp only [State.accepts, hexp, hmeets]

/-! ### What a frame of this module depends on -/

/-- The fields that a frame of this module, and the ports by which it leaves, depend on. -/
def speechFlds : List Fld :=
  [CNP_NODE_ID, CNP_PLAN0_TC, KEY_VEH_ID0_CONSIST, CNP_PORTSTAT_LINKUP, CNP_INA_STAT_RING, CNP_INA_STAT_FACING,
    KEY_VEH_ID0_DOMAIN, KEY_STAT_STATE]

/-- The module speaks as it did: the same frames leave by the same ports. -/
structure Speaks (s u : State) : Prop where
  regs : ∀ f ∈ speechFlds, u.rd f = s.rd f
  fab : u.fab = s.fab
  pw : u.pw = s.pw
  now : u.now = s.now
  planeReset : u.cnp.planeReset = s.cnp.planeReset

theorem Speaks.refl (s : State) : Speaks s s := ⟨fun _ _ => rfl, rfl, rfl, rfl, rfl⟩

theorem speechFlds_key_ne (b : Fin 1024) : ∀ f ∈ speechFlds, f.key ≠ (CNP_BLZb_STAT_VALID b).key := by
  have hb := b.isLt
  intro f hf
  simp only [speechFlds, List.mem_cons, List.not_mem_nil, or_false] at hf
  rcases hf with rfl | rfl | rfl | rfl | rfl | rfl | rfl | rfl
  all_goals
    refine Fld.key_ne_of_addr_ne (Nat.le_of_ble_eq_true rfl) (Nat.le_of_ble_eq_true rfl) ?_
    show (_ : Nat) ≠ 0x10820000 + 0x8 * b.val
    simp only [CNP_NODE_ID, CNP_PLAN0_TC, KEY_VEH_ID0_CONSIST, CNP_PORTSTAT_LINKUP, CNP_INA_STAT_RING,
      CNP_INA_STAT_FACING, KEY_VEH_ID0_DOMAIN, KEY_STAT_STATE]
    omega

theorem Speaks.wrValid (h : Speaks s u) (b : Fin 1024) (v : Nat) : Speaks s (u.wr (CNP_BLZb_STAT_VALID b) v) :=
  ⟨fun f hf => (State.rd_wr_ne u (speechFlds_key_ne b f hf) v).trans (h.regs f hf), h.fab, h.pw, h.now, h.planeReset⟩

theorem Speaks.setBlz (h : Speaks s u) (b : Nat) (x : Blz) : Speaks s (u.setBlz b x) := ⟨h.regs, h.fab, h.pw, h.now, h.planeReset⟩

theorem Speaks.frame (h : Speaks s u) (kind dest blaze flags : Nat) (payload : List Byte) :
    u.frame kind dest blaze flags payload = s.frame kind dest blaze flags payload := by
  have hid : u.nodeId = s.nodeId := h.regs _ (by decide)
  have hcons : u.consist = s.consist := h.regs _ (by decide)
  have hcyc : u.cycleNo = s.cycleNo := by
    rw [State.cycleNo, State.cycleNo, State.tcNs, State.tcNs, h.now, h.regs CNP_PLAN0_TC (by decide)]
  simp only [State.frame, State.frameVia, hid, hcons, hcyc]

theorem Speaks.portUsed (h : Speaks s u) (p : Nat) : u.portUsed p = s.portUsed p := by
  have hid : u.nodeId = s.nodeId := h.regs _ (by decide)
  have hside : u.ownLeadSide = s.ownLeadSide := by
    rw [State.ownLeadSide, State.ownLeadSide, State.flag_congr (h.regs CNP_INA_STAT_FACING (by decide))]
  have hup : u.linkUp p = s.linkUp p := by
    rw [State.linkUp, State.linkUp, State.bit, State.bit, h.regs CNP_PORTSTAT_LINKUP (by decide)]
  have hident : u.ident KEY_VEH_ID0_DOMAIN = s.ident KEY_VEH_ID0_DOMAIN := by
    rw [State.ident, State.ident, State.loaded, State.loaded, h.regs KEY_STAT_STATE (by decide),
      h.regs KEY_VEH_ID0_DOMAIN (by decide)]
  simp only [State.portUsed, State.portSends, State.portForeign, State.canopyRuns, State.portLink, hup, hid, hside, hident,
    h.fab, h.pw, h.planeReset]

theorem Speaks.blocked (h : Speaks s u) (p : Nat) : u.blocked p = s.blocked p := by
  have hid : u.nodeId = s.nodeId := h.regs _ (by decide)
  have hside : u.ownLeadSide = s.ownLeadSide := by
    rw [State.ownLeadSide, State.ownLeadSide, State.flag_congr (h.regs CNP_INA_STAT_FACING (by decide))]
  simp only [State.blocked, State.nodeCount, State.flag_congr (h.regs CNP_INA_STAT_RING (by decide)), hid, hside, h.fab]

/-! ### Sending -/

/-- The ports by which a frame for a set of planes leaves. -/
def State.outPorts (s : State) (planes p : Nat) : Bool :=
  bitAt planes (portPlane p) && s.portUsed p && s.pw.start.ready && !s.blocked p

theorem State.sendOn_out (s : State) (planes : Nat) (f : List Byte) :
    (s.sendOn planes f).out = s.out ++ ([0, 1, 2, 3].filter (s.outPorts planes)).map (.canopy · f) := by
  have hfold (l : List Nat) (v : State) (hv : ∀ p, v.outPorts planes p = s.outPorts planes p) :
      (l.foldl (fun v p => if v.outPorts planes p then v.emit (.canopy p f) else v) v).out =
        v.out ++ (l.filter (s.outPorts planes)).map (.canopy · f) := by
    induction l generalizing v with
    | nil => simp
    | cons p l ih =>
      rw [List.foldl_cons, hv p, List.filter_cons]
      split
      · have hemit : ∀ q, (v.emit (.canopy p f)).outPorts planes q = s.outPorts planes q := hv
        rw [ih _ hemit, State.emit]
        simp
      · exact ih _ hv
  exact hfold [0, 1, 2, 3] s fun _ => rfl

/-- The frame of a blaze leaves by the ports of its planes, and by no other (R308). -/
theorem State.txSend_out (s : State) (e : Entry) (flags : Nat) (pay : List Byte) (seed : Option Nat) (p : Nat) (hp : p < 4)
    (hs : s.out = []) :
    Emission.canopy p (s.frame frBlaze 0xFF (e.fid + 1024 * (s.entrySeg e).getD 0) flags pay) ∈
        (s.txSend e flags pay seed).out ↔ s.outPorts e.planes p = true := by
  have hunit (v : State) (fid : Option Nat) : (v.unitFrame 2 0 fid seed pay).out = v.out :=
    (State.unitFrame_kept (A := [.cvu]) (P := [.cvu]) (Kept.refl _ _ v) (by decide) (by decide)).framed.parts .out (by decide)
  have hmem : p ∈ [0, 1, 2, 3] := by
    simp only [List.mem_cons, List.not_mem_nil, or_false]
    omega
  unfold State.txSend
  dsimp only
  rw [hunit, State.sendOn_out, hs, List.nil_append, List.mem_map]
  constructor
  · rintro ⟨q, hq, heq⟩
    obtain ⟨rfl, -⟩ := Emission.canopy.inj heq
    exact (List.mem_filter.mp hq).2
  · intro hout
    exact ⟨p, List.mem_filter.mpr ⟨hmem, hout⟩, rfl⟩

end

end Sys2Proof.Machine

/-! ## Blazes sent, and host buffers committed (R329 to R331): O37 -/

namespace Sys2Proof.Machine

section
variable {s u w v : State} {b : Fin 1024} {e : Entry} {k : TxSource} {stamp t flags : Nat} {pay : List Byte}

/-- NOTSAFE of the stands, in the place it has in a frame's flags. -/
abbrev standFlags (s : State) : Nat := 4 * b2n ([0, 1, 2, 3].any fun i => s.flag (STD_Sk_STAT_NOTSAFE i))

/-- The image that a host buffer gives a blaze. -/
abbrev hostSource (e : Entry) : TxSource := ⟨true, e.hbuf, 0, e.paylen, e.rsub * 10000⟩

theorem State.txData_plain (hk : e.kind = 0) (hh : k.host = true) : v.txData b e k stamp =
    if (v.blz b).sent = some stamp then
      (v.wr (CNP_BLZb_STAT_VALID b) 1).txSend e (standFlags v + 1) (v.blz b).pay none
    else
      ((v.wr (CNP_BLZb_STAT_VALID b) 1).setBlz b
        { v.blz b with sent := some stamp, pay := (v.wr (CNP_BLZb_STAT_VALID b) 1).txBytes k 0 k.paylen }).txSend e
          (standFlags v) ((v.wr (CNP_BLZb_STAT_VALID b) 1).txBytes k 0 k.paylen) none := by
  unfold State.txData
  simp [hk, hh, State.txNotsafe, State.ctxSends, standFlags]

/-- An entry that sends a host buffer's blaze, in a module that is ACTIVE. -/
theorem State.blazeDue_plain (hb : ¬ v.blazeCount ≤ b) (he : (v.entry b).kind = 0) (hrole : (v.entry b).role = roleTx)
    (hhost : (v.entry b).host = true) (hjoin : v.joinState = joinActive) :
    v.blazeDue b =
      match v.txImage (hostSource (v.entry b)) with
      | none => v.txEmpty b false
      | some stamp => v.txData b (v.entry b) (hostSource (v.entry b)) stamp := by
  unfold State.blazeDue State.txSource
  simp [hb, he, hrole, hhost, hjoin] <;> rfl

theorem State.txBytes_host (hh : k.host = true) : v.txBytes k 0 k.paylen = v.hbufFront k.num k.paylen := by
  simp [State.txBytes, hh]

/-- A blaze is sent with its flags and payload, and shows VALID. -/
def BlazeSent (s : State) (t : Nat) (b : Fin 1024) (e : Entry) (flags : Nat) (pay : List Byte) (u : State) : Prop :=
  (∀ p, p < 4 → (Emission.canopy p ((s.begin t).frame frBlaze 0xFF (e.fid + 1024 * (s.entrySeg e).getD 0) flags pay) ∈ u.out ↔
    bitAt e.planes (portPlane p) = true ∧ s.portUsed p = true ∧ s.pw.start.ready = true ∧ s.blocked p = false)) ∧
  u.rd (CNP_BLZb_STAT_VALID b) = 1 ∧ (∀ i, i ≠ b.val → u.blz i = s.blz i) ∧
  Touches [CNP_BLZb_STAT_VALID b] [.cvu] [.now, .resp, .out, .cnp, .cvu] s u

/-- What a segment's number depends on reads as before a write of VALID. -/
theorem State.entrySeg_wrValid (s : State) (b : Fin 1024) (n : Nat) (e : Entry) :
    (s.wr (CNP_BLZb_STAT_VALID b) n).entrySeg e = s.entrySeg e := by
  have hrd (f : Fld) (hf : f.addr < 0x10820000) (hlo : f.lo < 32) : (s.wr (CNP_BLZb_STAT_VALID b) n).rd f = s.rd f :=
    State.rd_wr_ne s (Fld.key_ne_of_addr_lt hlo (Nat.lt_of_lt_of_le hf (Nat.le_add_right _ _))) n
  have hcons : (s.wr (CNP_BLZb_STAT_VALID b) n).consist = s.consist :=
    State.rd_wr_area s (by show Area.key ≠ Area.cnp; decide) n
  have hown : (s.wr (CNP_BLZb_STAT_VALID b) n).ownSeg = s.ownSeg := by
    refine congrArg (fun q => (List.range 8).find? q) (funext fun i => ?_)
    rw [State.rd_wr_ne]
    show (CNP_SEGSTAT_SEG i).key ≠ _
    simp only [Fld.key, CNP_SEGSTAT_SEG, CNP_BLZb_STAT_VALID]
    omega
  simp only [State.entrySeg, State.bound, State.candidates, hcons, hown]
  rfl

/-- A blaze whose frame leaves from a state that speaks as the command's. -/
theorem blazeSent_txSend (hw : Speaks (s.begin t) w) (hout : w.out = []) (hseg : w.entrySeg e = s.entrySeg e)
    (hvalid : w.rd (CNP_BLZb_STAT_VALID b) = 1) (hblz : ∀ i, i ≠ b.val → w.blz i = s.blz i)
    (htouch : Touches [CNP_BLZb_STAT_VALID b] [.cvu] [.now, .resp, .out, .cnp, .cvu] s w) :
    BlazeSent s t b e flags pay (w.txSend e flags pay none) ∧ (w.txSend e flags pay none).blz b = w.blz b := by
  have hk : Kept [.cvu] [.out, .cvu] w (w.txSend e flags pay none) :=
    State.txSend_kept (Kept.refl _ _ w) (by decide) (by decide)
  have hcnp : (w.txSend e flags pay none).cnp = w.cnp := hk.framed.parts .cnp (by decide)
  have hsame (i : Nat) : (w.txSend e flags pay none).blz i = w.blz i := by rw [State.blz, State.blz, hcnp]
  refine ⟨⟨fun p hp => ?_, ?_, fun i hi => (hsame i).trans (hblz i hi), htouch.kept
    (State.txSend_kept (Kept.refl _ _ w) (by decide) (by decide))⟩, hsame b⟩
  · have hmem := State.txSend_out w e flags pay none p hp hout
    rw [hw.frame, hseg] at hmem
    rw [hmem, State.outPorts, hw.portUsed, hw.blocked, hw.pw]
    simp only [Bool.and_eq_true, Bool.not_eq_true', State.begin_pw]
    exact ⟨fun ⟨⟨⟨h1, h2⟩, h3⟩, h4⟩ => ⟨h1, h2, h3, h4⟩, fun ⟨h1, h2, h3, h4⟩ => ⟨⟨⟨h1, h2⟩, h3⟩, h4⟩⟩
  · rw [hk.framed.regs _ (by show Area.cnp ∉ [Area.cvu]; decide), hvalid]

/-! ### A blaze that comes due -/

/-- An entry of this module that sends a host buffer's blaze of no special kind, while the module is ACTIVE. -/
structure SendsHost (s : State) (b : Fin 1024) : Prop where
  listed : b.val < s.blazeCount
  kind : (s.entry b).kind = 0
  role : (s.entry b).role = roleTx
  host : (s.entry b).host = true
  active : s.joinState = joinActive

theorem SendsHost.due (h : SendsHost s b) : exec (.blazeDue b t) s =
    .next (match (s.begin t).txImage (hostSource (s.entry b)) with
      | none => (s.begin t).txEmpty b false
      | some stamp => (s.begin t).txData b (s.entry b) (hostSource (s.entry b)) stamp) :=
  congrArg Host.Outcome.next (State.blazeDue_plain (v := s.begin t) (Nat.not_le.mpr h.listed) h.kind h.role h.host h.active)

theorem SendsHost.valid_speaks (s : State) (b : Fin 1024) (t : Nat) :
    Speaks (s.begin t) ((s.begin t).wr (CNP_BLZb_STAT_VALID b) 1) ∧
      Touches [CNP_BLZb_STAT_VALID b] [.cvu] [.now, .resp, .out, .cnp, .cvu] s ((s.begin t).wr (CNP_BLZb_STAT_VALID b) 1) :=
  ⟨(Speaks.refl _).wrValid b 1, (Touches.begin s t (by decide)).wrOf (List.mem_singleton.mpr rfl) 1⟩

/-- A fresh image of the source leaves, and is kept as the one sent. -/
theorem SendsHost.fresh (h : SendsHost s b) (himage : (s.begin t).txImage (hostSource (s.entry b)) = some stamp)
    (hsent : (s.blz b).sent ≠ some stamp) : Does (.blazeDue b t) s fun u =>
      BlazeSent s t b (s.entry b) (standFlags s) (s.hbufFront (s.entry b).hbuf (s.entry b).paylen) u ∧
      u.blz b = { s.blz b with sent := some stamp, pay := s.hbufFront (s.entry b).hbuf (s.entry b).paylen } := by
  have hdue := h.due (t := t)
  rw [himage] at hdue
  dsimp only at hdue
  have hnot : ¬ ((s.begin t).blz b).sent = some stamp := hsent
  rw [State.txData_plain h.kind rfl, if_neg hnot, State.txBytes_host rfl] at hdue
  refine ⟨_, hdue, ?_⟩
  obtain ⟨hspeaks, htouch⟩ := SendsHost.valid_speaks s b t
  have hset : Kept [] [.cnp] ((s.begin t).wr (CNP_BLZb_STAT_VALID b) 1) _ :=
    State.setBlz_kept (b := b.val) (x := { s.blz b with sent := some stamp, pay := s.hbufFront (s.entry b).hbuf (s.entry b).paylen })
      (Kept.refl _ _ _) (by decide)
  obtain ⟨hsends, hblz⟩ := blazeSent_txSend (e := s.entry b) (flags := standFlags s)
    (pay := s.hbufFront (s.entry b).hbuf (s.entry b).paylen) (hspeaks.setBlz b _) rfl (State.entrySeg_wrValid (s.begin t) b 1 _)
    ((hset.framed.regs _ List.not_mem_nil).trans (State.rd_wr_same ..)) (fun i hi => State.blz_setBlz_ne _ hi _)
    (htouch.kept (State.setBlz_kept (Kept.refl _ _ _) (by decide)))
  exact ⟨hsends, hblz.trans (State.blz_setBlz_same ..)⟩

/-- An image that has been sent goes once more, with REPEAT. -/
theorem SendsHost.again (h : SendsHost s b) (himage : (s.begin t).txImage (hostSource (s.entry b)) = some stamp)
    (hsent : (s.blz b).sent = some stamp) : Does (.blazeDue b t) s fun u =>
      BlazeSent s t b (s.entry b) (standFlags s + 1) (s.blz b).pay u ∧ u.blz b = s.blz b := by
  have hdue := h.due (t := t)
  rw [himage] at hdue
  dsimp only at hdue
  have hyes : ((s.begin t).blz b).sent = some stamp := hsent
  rw [State.txData_plain h.kind rfl, if_pos hyes] at hdue
  refine ⟨_, hdue, ?_⟩
  obtain ⟨hspeaks, htouch⟩ := SendsHost.valid_speaks s b t
  exact blazeSent_txSend hspeaks rfl (State.entrySeg_wrValid (s.begin t) b 1 _) (State.rd_wr_same ..) (fun _ _ => rfl) htouch

/-- A counter of a blaze rises, and that it has is noted for the next mark. -/
theorem State.blazeCounted_shows (s : State) (f : Fld) :
    (s.blazeCounted f).rd f = sat f.w (s.rd f + 1) ∧ (s.blazeCounted f).cnp = { s.cnp with rose := (s.blazeCounted f).cnp.rose } ∧
      (s.rd f < 2 ^ f.w - 1 → (s.blazeCounted f).cnp.rose = true) := by
  have hrd : (s.bump f).rd f = sat f.w (s.rd f + 1) := State.rd_bump_same s f 1
  refine ⟨hrd, rfl, fun hlt => ?_⟩
  show (s.cnp.rose || (s.bump f).rd f != s.rd f) = true
  rw [hrd, sat, Nat.min_eq_left (by omega)]
  simp

/-- Without an image the blaze is left empty, which counts. -/
theorem SendsHost.empty (h : SendsHost s b) (himage : (s.begin t).txImage (hostSource (s.entry b)) = none) :
    Does (.blazeDue b t) s fun u =>
      u.rd (CNP_BLZb_CNT_EMPTY b) = sat 16 (s.rd (CNP_BLZb_CNT_EMPTY b) + 1) ∧ u.rd (CNP_BLZb_STAT_VALID b) = 0 ∧
      u.out = [] ∧ u.cnp = { s.cnp with rose := u.cnp.rose } ∧
      (s.rd (CNP_BLZb_CNT_EMPTY b) < 0xFFFF → u.cnp.rose = true) ∧
      Touches [CNP_BLZb_CNT_EMPTY b, CNP_BLZb_STAT_VALID b] [] [.now, .resp, .out, .cnp] s u := by
  have hdue := h.due (t := t)
  rw [himage] at hdue
  refine ⟨_, hdue, ?_⟩
  obtain ⟨hcnt, hcnp, hrose⟩ := State.blazeCounted_shows (s.begin t) (CNP_BLZb_CNT_EMPTY b)
  have hbump : Touches [CNP_BLZb_CNT_EMPTY b, CNP_BLZb_STAT_VALID b] [] [.now, .resp, .out, .cnp] s
      ((s.begin t).bump (CNP_BLZb_CNT_EMPTY b)) := (Touches.begin s t (by decide)).bump List.mem_cons_self 1
  have htouch : Touches [CNP_BLZb_CNT_EMPTY b, CNP_BLZb_STAT_VALID b] [] [.now, .resp, .out, .cnp] s
      ((s.begin t).blazeCounted (CNP_BLZb_CNT_EMPTY b)) :=
    hbump.parts' rfl fun p hp => by cases p <;> first | rfl | exact absurd (by decide) hp
  have hne : (CNP_BLZb_CNT_EMPTY b).key ≠ (CNP_BLZb_STAT_VALID b).key := by
    simp only [Fld.key, CNP_BLZb_CNT_EMPTY, CNP_BLZb_STAT_VALID]
    omega
  dsimp only [State.txEmpty, State.wrB_eq]
  exact ⟨(State.rd_wr_ne _ hne _).trans hcnt, State.rd_wr_same .., rfl, hcnp, hrose,
    htouch.wrOf (List.mem_cons_of_mem _ List.mem_cons_self) _⟩

/-! ### A host buffer that is committed -/

theorem tblFind_swapBytes (a n j : Nat) (bs : List (Option Byte)) (m : Tbl Byte) :
    tblFind j (swapBytes a n bs m) = if a ≤ j ∧ j < a + n then (bs[j - a]?).join else tblFind j m := by
  induction n with
  | zero =>
    rw [if_neg (by omega)]
    rfl
  | succ n ih =>
    have hstep : swapBytes a (n + 1) bs m = match (bs[n]?).join with
        | some b => tblPut (a + n) b (swapBytes a n bs m)
        | none => tblDel (a + n) (swapBytes a n bs m) := by
      rw [swapBytes, List.range_succ, List.foldl_append]
      rfl
    rw [hstep]
    by_cases hj : j = a + n
    · subst hj
      rw [if_pos (by omega), Nat.add_sub_cancel_left]
      split
      · next b hb => rw [tblFind_put_same, hb]
      · next hb => rw [tblFind_del_same, hb]
    · have hrest : tblFind j (match (bs[n]?).join with
          | some b => tblPut (a + n) b (swapBytes a n bs m)
          | none => tblDel (a + n) (swapBytes a n bs m)) = tblFind j (swapBytes a n bs m) := by
        split
        · exact tblFind_put_ne hj _ _
        · exact tblFind_del_ne hj _
      rw [hrest, ih]
      simp only [show (a ≤ j ∧ j < a + (n + 1)) ↔ (a ≤ j ∧ j < a + n) by omega]

/-- The state with other memory and another front half of a host buffer, which shows VALID and counts SEQ. -/
def State.hbufPut (s : State) (h : Nat) (m : Tbl Byte) (x : HBuf) : State :=
  ((({ s with mem := m } : State).setHbuf h x).wr (CNP_HBUFh_STAT_VALID h) 1).tick (CNP_HBUFh_STAT_SEQ h)

theorem State.hbuf_hbufPut (s : State) (h : Nat) (m : Tbl Byte) (x : HBuf) : (s.hbufPut h m x).hbuf h = x :=
  State.hbuf_setHbuf_same { s with mem := m } h x

theorem State.hbufCommit_eq (s : State) (h : Nat) : s.hbufCommit h =
    s.hbufPut h (swapBytes (hbufAddr h) 0x800 (s.hbuf h).front s.mem)
      ⟨(List.range 0x800).map fun i => tblFind (hbufAddr h + i) s.mem, s.now, true⟩ := rfl

/-- The halves of a transmit buffer are exchanged. -/
theorem State.hbufCommit_shows (s : State) (h : Nat) :
    ((s.hbufCommit h).hbuf h).stamp = s.now ∧ (s.hbufCommit h).hbufFront h 0x800 = s.bytes (hbufAddr h) 0x800 ∧
      (s.hbufCommit h).bytes (hbufAddr h) 0x800 = s.hbufFront h 0x800 ∧
      ∀ a, a < hbufAddr h ∨ hbufAddr h + 0x800 ≤ a → (s.hbufCommit h).byte a = s.byte a := by
  have hswap := fun j => tblFind_swapBytes (hbufAddr h) 0x800 j (s.hbuf h).front s.mem
  have hfront (i : Nat) (hi : i < 0x800) :
      ((List.range 0x800).map fun i => tblFind (hbufAddr h + i) s.mem)[i]? = some (tblFind (hbufAddr h + i) s.mem) := by
    rw [List.getElem?_map, List.getElem?_range hi]
    rfl
  rw [State.hbufCommit_eq]
  generalize swapBytes (hbufAddr h) 0x800 (s.hbuf h).front s.mem = m at hswap ⊢
  generalize (List.range 0x800).map (fun i => tblFind (hbufAddr h + i) s.mem) = front at hfront ⊢
  have hbyte (a : Nat) : (s.hbufPut h m ⟨front, s.now, true⟩).byte a = (tblFind a m).getD (Config.unwritten a) := rfl
  refine ⟨by rw [State.hbuf_hbufPut], ?_, ?_, fun a ha => ?_⟩
  · simp only [State.hbufFront, State.hbuf_hbufPut, State.bytes]
    refine List.map_congr_left fun i hi => ?_
    rw [hfront i (List.mem_range.mp hi)]
    rfl
  · simp only [State.hbufFront, State.bytes]
    refine List.map_congr_left fun i hi => ?_
    have hi : i < 0x800 := List.mem_range.mp hi
    rw [hbyte, hswap, if_pos (by omega), Nat.add_sub_cancel_left]
  · rw [hbyte, hswap, if_neg (by omega)]
    rfl

/-- The commit of a transmit buffer (R331). -/
theorem hostBufferCommit_does (s : State) (h : Fin 64) (t : Nat) (hdir : s.rd (CNP_HBUFh_STAT_DIR h) = 1) :
    Does (.hostBufferCommit h t) s fun u =>
      u.rd (CNP_HBUFh_STAT_VALID h) = 1 ∧ u.rd (CNP_HBUFh_STAT_SEQ h) = (s.rd (CNP_HBUFh_STAT_SEQ h) + 1) % 256 ∧
      (u.hbuf h).stamp = t ∧ u.hbufFront h 0x800 = s.bytes (hbufAddr h) 0x800 ∧
      u.bytes (hbufAddr h) 0x800 = s.hbufFront h 0x800 ∧
      (∀ a, a < hbufAddr h ∨ hbufAddr h + 0x800 ≤ a → u.byte a = s.byte a) ∧
      Touches [CNP_HBUFh_STAT_VALID h, CNP_HBUFh_STAT_SEQ h] [] [.now, .mem, .resp, .out, .cnp] s u := by
  have hflag : (s.begin t).flag (CNP_HBUFh_STAT_DIR h) = true := by
    rw [State.begin_flag, State.flag, hdir]
    rfl
  have hexec : exec (.hostBufferCommit h t) s = .next ((s.begin t).hbufCommit h) := by
    show Host.Outcome.next (if (s.begin t).flag (CNP_HBUFh_STAT_DIR h) then _ else _) = _
    rw [if_pos hflag]
  obtain ⟨hstamp, hfront, hback, helse⟩ := State.hbufCommit_shows (s.begin t) h
  have hne : (CNP_HBUFh_STAT_VALID h).key ≠ (CNP_HBUFh_STAT_SEQ h).key := by
    simp only [Fld.key, CNP_HBUFh_STAT_VALID, CNP_HBUFh_STAT_SEQ]
    omega
  refine ⟨_, hexec, ?_, ?_, hstamp, hfront, hback, helse, ?_⟩
  · unfold State.hbufCommit
    rw [State.tick_eq, State.rd_wr_ne _ hne, State.rd_wr_same]
    rfl
  · unfold State.hbufCommit
    rw [State.tick_eq, State.rd_wr_same, State.rd_wr_ne _ hne.symm]
    rfl
  · have hparts : Kept [.hbuf] [.mem, .cnp] (s.begin t) ((s.begin t).hbufCommit h) :=
      State.hbufCommit_kept (Kept.refl _ _ _) (by decide) (by decide)
    refine ⟨fun f hf _ => ?_, fun p hp => Same.trans ((Touches.begin (fs := []) (A := []) s t (by decide)).parts p hp)
      (hparts.framed.parts p fun hmem => hp ?_)⟩
    · simp only [List.map_cons, List.map_nil, List.mem_cons, List.not_mem_nil, or_false, not_or] at hf
      unfold State.hbufCommit
      rw [State.tick_eq, State.rd_wr_ne _ hf.2, State.rd_wr_ne _ hf.1]
      rfl
    · clear hp
      revert hmem
      cases p <;> decide

end

end Sys2Proof.Machine

/-! ## Blazes heard and judged (R332, R334, R368 to R371): O37 -/

namespace Sys2Proof.Machine

section
variable {s u w v : State} {b : Fin 1024} {e : Entry} {k : Sink} {port : Fin 4} {frame : List Byte} {t : Nat}

/-! ### A frame reaches the entry it belongs to -/

theorem State.forwardTt_cases (s : State) (p : Nat) (f : List Byte) :
    s.forwardTt p f = s ∨ s.forwardTt p f = s.emit (.canopy (otherPort p) f) := by
  unfold State.forwardTt
  dsimp only
  split
  · exact .inr rfl
  · exact .inl rfl

/-- A frame with a good FCS and without PWRFAIL, of one entry's blaze, is judged for that entry. -/
theorem blazeFrame_heardFor (hp : v.portUsed port = true) (hph : v.pw.phase = .running) (hb : v.entriesFor frame = [b.val])
    (hpf : frPwrfail frame = false) :
    ∃ w, Kept [.cvu] [.out, .cvu] v w ∧ v.blazeFrame port frame true = w.heardFor (portPlane port) frame b := by
  simp only [State.portUsed, Bool.and_eq_true, Bool.not_eq_true'] at hp
  obtain ⟨⟨hsends, hused⟩, hforeign⟩ := hp
  have hheard (x : State) (hx : x.portForeign port = false ∧ (x.portLink port).used = true ∧ x.entriesFor frame = [b.val])
      (hk : Kept [.cvu] [.out, .cvu] v x) : ∃ w, Kept [.cvu] [.out, .cvu] v w ∧
        (if !x.portForeign port && ((x.portLink port).used || !x.cnp.admitted) then x.heard (portPlane port) frame else x) =
          w.heardFor (portPlane port) frame b := by
    obtain ⟨h1, h2, h3⟩ := hx
    rw [h1, h2, if_pos (by simp)]
    unfold State.heard
    dsimp only
    rw [hpf, Bool.and_false, h3]
    have hcopy (c : Bool) : Kept [.cvu] [.out, .cvu] v (if c then x.emit (.safeCopy (portPlane port) frame) else x) :=
      Kept.ite (State.emit_kept hk (by decide)) hk
    exact ⟨_, State.unitFrame_kept (hcopy _) (by decide) (by decide), rfl⟩
  unfold State.blazeFrame
  rw [hsends, if_neg (by rw [hph]; decide)]
  have hfwd := State.forwardTt_kept (p := port) (f := frame) (Kept.refl [.cvu] [.out, .cvu] v) (by decide)
  rcases State.forwardTt_cases v port frame with hf | hf <;> rw [hf] at hfwd ⊢
  · exact hheard v ⟨hforeign, hused, hb⟩ hfwd
  · exact hheard (v.emit _) ⟨hforeign, hused, hb⟩ hfwd

/-! ### Copies that are discarded or delivered -/

theorem State.cycleBad_shows (s : State) {why : Nat} (hw : why ≠ 0) :
    (s.cycleBad why).cnp.why ≠ 0 ∧ (s.cycleBad why).cnp.blz = s.cnp.blz ∧ (s.cycleBad why).regs = s.regs := by
  unfold State.cycleBad
  split
  · exact ⟨hw, rfl, rfl⟩
  · next h => exact ⟨h, rfl, rfl⟩

/-- A copy that is not accepted counts as late, and the cycle is not a good one. -/
theorem State.lateCopy_shows (s : State) (b : Nat) :
    ((s.blazeCounted (CNP_BLZb_CNT_LATE b)).cycleBad 3).rd (CNP_BLZb_CNT_LATE b) = sat 8 (s.rd (CNP_BLZb_CNT_LATE b) + 1) ∧
      (∀ i, ((s.blazeCounted (CNP_BLZb_CNT_LATE b)).cycleBad 3).blz i = s.blz i) ∧
      ((s.blazeCounted (CNP_BLZb_CNT_LATE b)).cycleBad 3).cnp.why ≠ 0 ∧
      Touches [CNP_BLZb_CNT_LATE b] [] [.cnp] s ((s.blazeCounted (CNP_BLZb_CNT_LATE b)).cycleBad 3) := by
  obtain ⟨hwhy, hblz, hregs⟩ := State.cycleBad_shows (s.blazeCounted (CNP_BLZb_CNT_LATE b)) (why := 3) (by decide)
  have hcnt := (State.blazeCounted_shows s (CNP_BLZb_CNT_LATE b)).1
  refine ⟨?_, fun i => ?_, hwhy, ?_⟩
  · rw [State.rd, hregs]
    exact hcnt
  · rw [State.blz, hblz]
    rfl
  · have hbump : Touches [CNP_BLZb_CNT_LATE b] [] [.cnp] s (s.bump (CNP_BLZb_CNT_LATE b)) :=
      (Touches.refl _ _ _ s).bump (List.mem_singleton.mpr rfl) 1
    have hcounted : Touches [CNP_BLZb_CNT_LATE b] [] [.cnp] s (s.blazeCounted (CNP_BLZb_CNT_LATE b)) :=
      hbump.parts' rfl fun p hp => by cases p <;> first | rfl | exact absurd (by decide) hp
    exact hcounted.kept (State.cycleBad_kept (Kept.refl _ _ _) (by decide))

/-- An entry of no special kind that listens has one sink, whatever the state. -/
theorem State.sink_plain (hk : e.kind = 0) (hs : s.sink e = some k) (w : State) : w.sink e = some k := by
  unfold State.sink State.spareUse at hs ⊢
  split at hs
  · next hrole => rw [if_pos hrole, ← hs]
  · rw [if_neg (by rw [hk]; decide)] at hs
    exact absurd hs (by simp)

theorem blzKeys (b : Nat) : (CNP_BLZb_STAT_VALID b).key ≠ (CNP_BLZb_STAT_RUN b).key ∧
    (CNP_BLZb_STAT_VALID b).key ≠ (CNP_BLZb_STAT_NODE b).key ∧ (CNP_BLZb_STAT_RUN b).key ≠ (CNP_BLZb_STAT_NODE b).key ∧
    (CNP_BLZb_CNT_EMPTY b).key ≠ (CNP_BLZb_STAT_VALID b).key ∧ (CNP_BLZb_CNT_EMPTY b).key ≠ (CNP_BLZb_STAT_RUN b).key := by
  simp only [Fld.key, CNP_BLZb_STAT_VALID, CNP_BLZb_STAT_RUN, CNP_BLZb_STAT_NODE, CNP_BLZb_CNT_EMPTY]
  omega

/-- What a copy that is delivered to engines leaves (R334, R368, R369). -/
theorem State.blazeDeliver_shows (s : State) (b : Nat) (hhost : k.host = none) (pay : List Byte) (notsafe : Bool) (node : Nat) :
    let u := s.blazeDeliver b k pay false notsafe node
    (u.blz b).data = padTo k.paylen pay ∧ (u.blz b).first = s.cycleNo ∧ (u.blz b).lost = false ∧
      u.rd (CNP_BLZb_STAT_VALID b) = 1 ∧ u.rd (CNP_BLZb_STAT_RUN b) = 0 ∧ u.rd (CNP_BLZb_STAT_NODE b) = node % 256 ∧
      (∀ i, i ≠ b → u.blz i = s.blz i) ∧ Raises (if (s.blz b).lost then [132] else []) s u ∧
      Touches [CNP_BLZb_STAT_VALID b, CNP_BLZb_STAT_RUN b, CNP_BLZb_STAT_NODE b] [.pend] [.cnp] s u := by
  obtain ⟨hvr, hvn, hrn, -, -⟩ := blzKeys b
  intro u
  have hu : ∃ x : Blz, x.data = padTo k.paylen pay ∧ x.first = s.cycleNo ∧ x.lost = false ∧
      u = if (s.blz b).lost then ((((s.setBlz b x).wr (CNP_BLZb_STAT_RUN b) 0).wr (CNP_BLZb_STAT_VALID b) 1).wr
          (CNP_BLZb_STAT_NODE b) node).raise 132
        else (((s.setBlz b x).wr (CNP_BLZb_STAT_RUN b) 0).wr (CNP_BLZb_STAT_VALID b) 1).wr (CNP_BLZb_STAT_NODE b) node := by
    refine ⟨{ s.blz b with
      data := padTo k.paylen pay, status := statusWord true false false notsafe false false 0 node 0
      first := s.cycleNo, lost := false }, rfl, rfl, rfl, ?_⟩
    show State.blazeDeliver .. = _
    unfold State.blazeDeliver
    simp only [Bool.false_eq_true, if_false, hhost]
  clear_value u
  obtain ⟨x, hdata, hfirst, hlost, rfl⟩ := hu
  have hset : Kept [] [.cnp] s (s.setBlz b x) := State.setBlz_kept (Kept.refl _ _ s) (by decide)
  have htouch : Touches [CNP_BLZb_STAT_VALID b, CNP_BLZb_STAT_RUN b, CNP_BLZb_STAT_NODE b] [.pend] [.cnp] s
      ((((s.setBlz b x).wr (CNP_BLZb_STAT_RUN b) 0).wr (CNP_BLZb_STAT_VALID b) 1).wr (CNP_BLZb_STAT_NODE b) node) :=
    ((((Touches.refl _ _ _ s).kept (State.setBlz_kept (Kept.refl _ _ s) (by decide))).wrOf (by simp) 0).wrOf (by simp) 1).wrOf
      (by simp) node
  have hraises : Raises [] s ((((s.setBlz b x).wr (CNP_BLZb_STAT_RUN b) 0).wr (CNP_BLZb_STAT_VALID b) 1).wr
      (CNP_BLZb_STAT_NODE b) node) :=
    ((((Raises.refl s).kept hset (by decide) (by decide)).wr (Nat.ne_of_beq_eq_false rfl) (Nat.ne_of_beq_eq_false rfl) 0).wr
      (Nat.ne_of_beq_eq_false rfl) (Nat.ne_of_beq_eq_false rfl) 1).wr (Nat.ne_of_beq_eq_false rfl)
      (Nat.ne_of_beq_eq_false rfl) node
  have hvalid : ((((s.setBlz b x).wr (CNP_BLZb_STAT_RUN b) 0).wr (CNP_BLZb_STAT_VALID b) 1).wr (CNP_BLZb_STAT_NODE b)
      node).rd (CNP_BLZb_STAT_VALID b) = 1 := (State.rd_wr_ne _ hvn _).trans (State.rd_wr_same ..)
  have hrun : ((((s.setBlz b x).wr (CNP_BLZb_STAT_RUN b) 0).wr (CNP_BLZb_STAT_VALID b) 1).wr (CNP_BLZb_STAT_NODE b)
      node).rd (CNP_BLZb_STAT_RUN b) = 0 :=
    (State.rd_wr_ne _ hrn _).trans ((State.rd_wr_ne _ hvr.symm _).trans (State.rd_wr_same ..))
  have hnode : ((((s.setBlz b x).wr (CNP_BLZb_STAT_RUN b) 0).wr (CNP_BLZb_STAT_VALID b) 1).wr (CNP_BLZb_STAT_NODE b)
      node).rd (CNP_BLZb_STAT_NODE b) = node % 256 := State.rd_wr_same ..
  have hblz (i : Nat) : ((((s.setBlz b x).wr (CNP_BLZb_STAT_RUN b) 0).wr (CNP_BLZb_STAT_VALID b) 1).wr
      (CNP_BLZb_STAT_NODE b) node).blz i = (s.setBlz b x).blz i := rfl
  generalize (((s.setBlz b x).wr (CNP_BLZb_STAT_RUN b) 0).wr (CNP_BLZb_STAT_VALID b) 1).wr (CNP_BLZb_STAT_NODE b) node = y
    at htouch hraises hvalid hrun hnode hblz
  have hown : y.blz b = x := (hblz b).trans (State.blz_setBlz_same ..)
  have helse (i : Nat) (hi : i ≠ b) : y.blz i = s.blz i := (hblz i).trans (State.blz_setBlz_ne _ hi _)
  split
  · have hcnp (i : Nat) : (y.raise 132).blz i = y.blz i := by rw [State.blz, State.raise_cnp, State.blz]
    have hrd (f : Fld) (hf : f.area.code ≠ 5) : (y.raise 132).rd f = y.rd f := State.rd_raise_code hf
    rw [hcnp, hown, hrd _ (Nat.ne_of_beq_eq_false rfl), hrd _ (Nat.ne_of_beq_eq_false rfl),
      hrd _ (Nat.ne_of_beq_eq_false rfl)]
    exact ⟨hdata, hfirst, hlost, hvalid, hrun, hnode, fun i hi => (hcnp i).trans (helse i hi), hraises.raise (by decide),
      htouch.raise List.mem_cons_self 132⟩
  · rw [hown]
    exact ⟨hdata, hfirst, hlost, hvalid, hrun, hnode, helse, hraises, htouch⟩

end

end Sys2Proof.Machine

/-! ## Copies accepted, blazes judged (R332, R334, R368 to R371): O37 -/

namespace Sys2Proof.Machine

section
variable {s u w v : State} {b : Fin 1024} {e : Entry} {k : Sink} {port : Fin 4} {frame : List Byte} {t : Nat}

/-- A frame drawn finely, followed by one of a smaller extent. -/
theorem Touches.across {fs : List Fld} {A B : List Area} {P Q : List Part} (h : Touches fs A P s u) (k : Kept B Q u w)
    (hA : ∀ a ∈ B, a ∈ A) (hP : ∀ p ∈ Q, p ∈ P) : Touches fs A P s w :=
  ⟨fun f hf ha => (k.framed.regs f fun h => ha (hA _ h)).trans (h.regs f hf ha),
    fun p hp => (h.parts p hp).trans (k.framed.parts p fun h => hp (hP p h))⟩

/-- Sources that are raised after a stretch in which none is. -/
theorem Raises.after {ns : List Nat} (h : Raises ns u w) (h' : Raises [] s u) : Raises ns s w := by
  refine ⟨fun n i hn hi => ?_, fun n => (h.prio n).trans (h'.prio n), fun n => (h.stands n).trans (h'.stands n)⟩
  have hbit : u.bit (STD_EVTi_ROUTE_STANDS n) i = s.bit (STD_EVTi_ROUTE_STANDS n) i := by
    rw [State.bit, State.bit, h'.stands n]
  rw [h.raised n i hn hi, h'.raised n i hn hi, h'.prio n, hbit]
  simp

/-! ### The first accepted copy of a cycle -/

/-- What an accepted copy does first touches no image of a blaze. -/
theorem State.heardWakes_shows (s : State) (b : Nat) (frame : List Byte) :
    ((s.heardOther frame).blazeWakes b frame).cnp.blz = s.cnp.blz ∧
      Kept [] [.cnp, .pmg] s ((s.heardOther frame).blazeWakes b frame) := by
  refine ⟨?_, State.blazeWakes_kept (State.heardOther_kept (Kept.refl _ _ s) (by decide)) (by decide)⟩
  have hwakes (x : State) : (x.blazeWakes b frame).cnp = x.cnp :=
    (State.blazeWakes_kept (A := []) (P := [.pmg]) (Kept.refl _ _ x) (by decide)).framed.parts .cnp (by decide)
  rw [hwakes, State.heardOther]
  split <;> rfl

/-- The running cycle, and the receive images in it, depend on time, TC and the images alone. -/
theorem State.blzNow_congr (hnow : u.now = s.now) (htc : u.rd CNP_PLAN0_TC = s.rd CNP_PLAN0_TC) (hblz : u.cnp.blz = s.cnp.blz) (b : Nat) :
    u.cycleNo = s.cycleNo ∧ u.blz b = s.blz b ∧ u.blzNow b = s.blzNow b := by
  have hcyc : u.cycleNo = s.cycleNo := by rw [State.cycleNo, State.cycleNo, State.tcNs, State.tcNs, hnow, htc]
  have hb : u.blz b = s.blz b := by rw [State.blz, State.blz, hblz]
  exact ⟨hcyc, hb, by rw [State.blzNow, State.blzNow, hb, hcyc]⟩

theorem State.blzNow_lost (s : State) (b : Nat) : (s.blzNow b).lost = (s.blz b).lost ∧ (s.blzNow b).data = (s.blz b).data := by
  rw [State.blzNow]
  split <;> exact ⟨rfl, rfl⟩

/-- The first accepted copy of a blaze of no special kind is delivered (R332, R334). -/
theorem State.heardFor_first (s : State) {plane : Nat} (ha : s.accepts (s.entry b) plane frame = true)
    (hpf : frPwrfail frame = false) (hrep : frRepeat frame = false) (hkind : (s.entry b).kind = 0)
    (hsink : s.sink (s.entry b) = some k) (hgot : (s.blzNow b).got = 0) :
    ∃ x : Blz, x.lost = (s.blz b).lost ∧ s.heardFor plane frame b =
      (((s.heardOther frame).blazeWakes b frame).setBlz b x).blazeDeliver b k (frPayload frame) false (frNotsafe frame)
        (frSender frame) := by
  obtain ⟨hblz, hkept⟩ := s.heardWakes_shows b frame
  obtain ⟨-, -, hbn⟩ := State.blzNow_congr (hkept.framed.parts .now (by decide)) (hkept.framed.regs _ (by decide)) hblz b
  have hfirst (x : State) : x.firstCopy b (s.entry b) frame =
      x.blazeDeliver b k (frPayload frame) false (frNotsafe frame) (frSender frame) := by
    rw [State.firstCopy, if_neg (by rw [hkind]; decide), if_neg (by rw [hkind]; decide), State.sink_plain hkind hsink]
    dsimp only
    rw [hrep]
  refine ⟨{ s.blzNow b with
    got := setBit (s.blzNow b).got plane true, copies := (s.blzNow b).copies ++ [(plane, frPayload frame)]
    rep := frRepeat frame, notsafe := frNotsafe frame, node := frSender frame }, (s.blzNow_lost b).1, ?_⟩
  rw [State.heardFor, if_pos ha, State.heardCopy]
  simp only [hpf, Bool.false_eq_true, if_false]
  rw [if_neg (by rw [hkind]; exact fun h => absurd h.1 (by decide)), hbn, hgot]
  exact hfirst _

/-- A frame that an entry of no special kind accepts, as the first of the cycle (R332, R334). -/
theorem blazeFrame_first (hp : s.portUsed port = true) (hph : s.pw.phase = .running)
    (hb : (s.begin t).entriesFor frame = [b.val]) (hpf : frPwrfail frame = false) (hkind : (s.entry b).kind = 0)
    (hsink : s.sink (s.entry b) = some k) (hhost : k.host = none)
    (ha : (s.begin t).accepts (s.entry b) (portPlane port) frame = true) (hgot : ((s.begin t).blzNow b).got = 0)
    (hrep : frRepeat frame = false) : Does (.blazeFrame port frame true t) s fun u =>
      (u.blz b).data = padTo k.paylen (frPayload frame) ∧ (u.blz b).first = t / s.tcNs ∧ (u.blz b).lost = false ∧
      u.rd (CNP_BLZb_STAT_VALID b) = 1 ∧ u.rd (CNP_BLZb_STAT_RUN b) = 0 ∧
      u.rd (CNP_BLZb_STAT_NODE b) = frSender frame % 256 ∧ (∀ i, i ≠ b.val → u.blz i = s.blz i) ∧
      Raised (if (s.blz b).lost then [132] else []) s u ∧
      Touches [CNP_BLZb_STAT_VALID b, CNP_BLZb_STAT_RUN b, CNP_BLZb_STAT_NODE b] [.pend, .cvu]
        [.now, .resp, .out, .cnp, .cvu, .pmg] s u := by
  obtain ⟨w, hw, hexec⟩ := blazeFrame_heardFor (v := s.begin t) hp hph hb hpf
  have hcnp : w.cnp = s.cnp := hw.framed.parts .cnp (by decide)
  have hnow : w.now = (s.begin t).now := hw.framed.parts .now (by decide)
  have htc : w.rd CNP_PLAN0_TC = s.rd CNP_PLAN0_TC := hw.framed.regs _ (by decide)
  have hent : w.entry b = s.entry b := by
    have hword (i : Nat) : w.rd (CNP_BLZb_Ww b i) = s.rd (CNP_BLZb_Ww b i) := hw.framed.regs _ (by show Area.cnp ∉ [Area.cvu]; decide)
    simp only [State.entry, hword]
  obtain ⟨-, hwb, hwn⟩ := State.blzNow_congr (u := w) (s := s.begin t) hnow htc (congrArg Canopy.blz hcnp) b
  obtain ⟨x, hlost, hfor⟩ := w.heardFor_first (b := b) (k := k) (frame := frame) (plane := portPlane port)
    (by rw [hent, State.accepts_kept hw]; exact ha) hpf hrep (by rw [hent]; exact hkind)
    (by rw [hent]; exact State.sink_plain hkind hsink w) (by rw [hwn]; exact hgot)
  obtain ⟨hblz, hkept⟩ := w.heardWakes_shows b frame
  have hset : Kept [] [.cnp, .pmg] w (((w.heardOther frame).blazeWakes b frame).setBlz b x) :=
    State.setBlz_kept hkept (by decide)
  have hcyc : (((w.heardOther frame).blazeWakes b frame).setBlz b x).cycleNo = t / s.tcNs := by
    rw [State.cycleNo, State.tcNs, hset.framed.parts .now (by decide), hset.framed.regs CNP_PLAN0_TC (by decide), htc, hnow]
    rfl
  have hown : (((w.heardOther frame).blazeWakes b frame).setBlz b x).blz b = x := State.blz_setBlz_same ..
  have helse (i : Nat) (hi : i ≠ b.val) : (((w.heardOther frame).blazeWakes b frame).setBlz b x).blz i = s.blz i := by
    rw [State.blz_setBlz_ne _ hi, State.blz, hblz, hcnp]
    rfl
  have hraises : Raises [] s (((w.heardOther frame).blazeWakes b frame).setBlz b x) :=
    ((Raises.begin s t).kept hw (by decide) (by decide)).kept hset (by decide) (by decide)
  have htouch : Touches [CNP_BLZb_STAT_VALID b, CNP_BLZb_STAT_RUN b, CNP_BLZb_STAT_NODE b] [.pend, .cvu]
      [.now, .resp, .out, .cnp, .cvu, .pmg] s (((w.heardOther frame).blazeWakes b frame).setBlz b x) :=
    ((Touches.begin s t (by decide)).across hw (by decide) (by decide)).across hset (by decide) (by decide)
  refine ⟨_, congrArg Host.Outcome.next (hexec.trans hfor), ?_⟩
  generalize ((w.heardOther frame).blazeWakes b frame).setBlz b x = y at hcyc hown helse hraises htouch ⊢
  obtain ⟨hdata, hfirst, hl, hvalid, hrun, hnode, hrest, hrs, hts⟩ :=
    y.blazeDeliver_shows b hhost (frPayload frame) (frNotsafe frame) (frSender frame)
  rw [hown, hlost, hwb] at hrs
  exact ⟨hdata, hfirst.trans hcyc, hl, hvalid, hrun, hnode, fun i hi => (hrest i hi).trans (helse i hi),
    (hrs.after hraises).raised,
    htouch.trans hts (fun _ h => h) (by decide) (by decide)⟩

/-! ### Judgement -/

/-- What a blaze whose data become invalid leaves (R370): no host buffer is one of its sinks. -/
theorem State.blazeLost_shows (s : State) (b : Nat) (hhost : k.host = none) :
    (s.blazeLost b k false false).rd (CNP_BLZb_STAT_VALID b) = 0 ∧ ((s.blazeLost b k false false).blz b).lost = true ∧
      Raises (if (s.blz b).lost then [] else [131]) s (s.blazeLost b k false false) ∧
      ((s.blazeLost b k false false).blz b).data = (if k.subst = 1 then List.replicate k.paylen 0 else if k.subst = 2 then
        List.replicate k.paylen 0xFF else (s.blz b).data) ∧
      (∀ i, i ≠ b → (s.blazeLost b k false false).blz i = s.blz i) ∧
      Touches [CNP_BLZb_STAT_VALID b] [.pend] [.cnp] s (s.blazeLost b k false false) := by
  have hu : ∃ x : Blz, x.data = (if k.subst = 1 then List.replicate k.paylen 0 else if k.subst = 2 then
      List.replicate k.paylen 0xFF else (s.blz b).data) ∧ x.lost = true ∧
      s.blazeLost b k false false = if (s.blz b).lost then (s.setBlz b x).wr (CNP_BLZb_STAT_VALID b) 0
        else ((s.setBlz b x).wr (CNP_BLZb_STAT_VALID b) 0).raise 131 := by
    unfold State.blazeLost
    simp only [hhost]
    exact ⟨_, rfl, rfl, rfl⟩
  obtain ⟨x, hdata, hlost, hu⟩ := hu
  rw [hu]
  have hset : Kept [] [.cnp] s (s.setBlz b x) := State.setBlz_kept (Kept.refl _ _ s) (by decide)
  have hvalid : ((s.setBlz b x).wr (CNP_BLZb_STAT_VALID b) 0).rd (CNP_BLZb_STAT_VALID b) = 0 := State.rd_wr_same ..
  have hown : ((s.setBlz b x).wr (CNP_BLZb_STAT_VALID b) 0).blz b = x := State.blz_setBlz_same ..
  have helse (i : Nat) (hi : i ≠ b) : ((s.setBlz b x).wr (CNP_BLZb_STAT_VALID b) 0).blz i = s.blz i :=
    State.blz_setBlz_ne s hi x
  have hraises : Raises [] s ((s.setBlz b x).wr (CNP_BLZb_STAT_VALID b) 0) :=
    ((Raises.refl s).kept hset (by decide) (by decide)).wr (Nat.ne_of_beq_eq_false rfl) (Nat.ne_of_beq_eq_false rfl) 0
  have htouch : Touches [CNP_BLZb_STAT_VALID b] [.pend] [.cnp] s ((s.setBlz b x).wr (CNP_BLZb_STAT_VALID b) 0) :=
    ((Touches.refl _ _ _ s).kept (State.setBlz_kept (Kept.refl _ _ s) (by decide))).wrOf (List.mem_singleton.mpr rfl) 0
  generalize (s.setBlz b x).wr (CNP_BLZb_STAT_VALID b) 0 = y at *
  split
  · rw [hown]
    exact ⟨hvalid, hlost, hraises, hdata, helse, htouch⟩
  · have hblz (i : Nat) : (y.raise 131).blz i = y.blz i := by rw [State.blz, State.raise_cnp, State.blz]
    rw [hblz, hown]
    exact ⟨(State.rd_raise_code (Nat.ne_of_beq_eq_false rfl)).trans hvalid, hlost, hraises.raise (by decide), hdata,
      fun i hi => (hblz i).trans (helse i hi), htouch.raise (List.mem_singleton.mpr rfl) 131⟩

/-- A status word that is renewed changes no data and no flag. -/
theorem State.refreshStatus_shows (s : State) (b : Nat) (unres : Bool) :
    ((s.refreshStatus b unres).blz b).data = (s.blz b).data ∧
      (∀ i, i ≠ b → (s.refreshStatus b unres).blz i = s.blz i) ∧ Kept [] [.cnp] s (s.refreshStatus b unres) := by
  refine ⟨?_, fun i hi => State.blz_setBlz_ne s hi _, State.refreshStatus_kept (Kept.refl _ _ s) (by decide)⟩
  rw [State.refreshStatus, State.blz_setBlz_same]

/-- The counts of an empty blaze. -/
theorem State.emptyCounted_shows (s : State) (b : Nat) :
    let y := (s.blazeCounted (CNP_BLZb_CNT_EMPTY b)).bump (CNP_BLZb_STAT_RUN b)
    y.rd (CNP_BLZb_CNT_EMPTY b) = sat 16 (s.rd (CNP_BLZb_CNT_EMPTY b) + 1) ∧
      y.rd (CNP_BLZb_STAT_RUN b) = sat 8 (s.rd (CNP_BLZb_STAT_RUN b) + 1) ∧
      y.rd (CNP_BLZb_STAT_VALID b) = s.rd (CNP_BLZb_STAT_VALID b) ∧ (∀ i, y.blz i = s.blz i) ∧ Raises [] s y ∧
      Touches [CNP_BLZb_CNT_EMPTY b, CNP_BLZb_STAT_RUN b, CNP_BLZb_STAT_VALID b] [.pend] [.cnp] s y := by
  obtain ⟨hvr, -, -, hev, her⟩ := blzKeys b
  have hcounted (f : Fld) : (s.blazeCounted (CNP_BLZb_CNT_EMPTY b)).rd f = (s.bump (CNP_BLZb_CNT_EMPTY b)).rd f := rfl
  have hbump : Touches [CNP_BLZb_CNT_EMPTY b, CNP_BLZb_STAT_RUN b, CNP_BLZb_STAT_VALID b] [.pend] [.cnp] s
      (s.bump (CNP_BLZb_CNT_EMPTY b)) := (Touches.refl _ _ _ s).bump List.mem_cons_self 1
  have hpart : Touches [CNP_BLZb_CNT_EMPTY b, CNP_BLZb_STAT_RUN b, CNP_BLZb_STAT_VALID b] [.pend] [.cnp] s
      (s.blazeCounted (CNP_BLZb_CNT_EMPTY b)) :=
    hbump.parts' rfl fun p hp => by cases p <;> first | rfl | exact absurd (by decide) hp
  refine ⟨?_, ?_, ?_, fun i => rfl, ?_, hpart.bump (List.mem_cons_of_mem _ List.mem_cons_self) 1⟩
  · rw [bump_eq, State.rd_wr_ne _ her]
    exact State.rd_bump_same ..
  · rw [State.rd_bump_same, hcounted, bump_eq, State.rd_wr_ne _ her.symm]
    rfl
  · rw [bump_eq, State.rd_wr_ne _ hvr, hcounted, bump_eq, State.rd_wr_ne _ hev.symm]
  · have hcount : Raises [] s (s.blazeCounted (CNP_BLZb_CNT_EMPTY b)) :=
      ((Raises.refl s).bump (f := CNP_BLZb_CNT_EMPTY b) (Nat.ne_of_beq_eq_false rfl) (Nat.ne_of_beq_eq_false rfl)
        1).of_regs_eq rfl
    exact hcount.bump (f := CNP_BLZb_STAT_RUN b) (Nat.ne_of_beq_eq_false rfl) (Nat.ne_of_beq_eq_false rfl) 1

/-- What an empty blaze leaves (R368, R370). -/
theorem State.blazeEmpty_shows (s : State) (b : Nat) (hhost : k.host = none) :
    let u := s.blazeEmpty b k false
    let run := sat 8 (s.rd (CNP_BLZb_STAT_RUN b) + 1)
    u.rd (CNP_BLZb_CNT_EMPTY b) = sat 16 (s.rd (CNP_BLZb_CNT_EMPTY b) + 1) ∧ u.rd (CNP_BLZb_STAT_RUN b) = run ∧
      (∀ i, i ≠ b → u.blz i = s.blz i) ∧
      (k.lossn ≤ run → (s.blz b).lost = false → u.rd (CNP_BLZb_STAT_VALID b) = 0 ∧ (u.blz b).lost = true ∧
        Raises [131] s u ∧ (u.blz b).data = (if k.subst = 1 then List.replicate k.paylen 0 else if k.subst = 2 then
          List.replicate k.paylen 0xFF else (s.blz b).data)) ∧
      (run < k.lossn → u.rd (CNP_BLZb_STAT_VALID b) = s.rd (CNP_BLZb_STAT_VALID b) ∧ (u.blz b).data = (s.blz b).data ∧
        Raises [] s u) ∧
      Touches [CNP_BLZb_CNT_EMPTY b, CNP_BLZb_STAT_RUN b, CNP_BLZb_STAT_VALID b] [.pend] [.cnp] s u := by
  obtain ⟨hvr, -, -, hev, -⟩ := blzKeys b
  obtain ⟨hempty, hrun, hvalid, hblz, hraises, htouch⟩ := s.emptyCounted_shows b
  intro u run
  have hu : u = if (decide (k.lossn ≤ run) && (!(s.blz b).lost ||
        ((s.blazeCounted (CNP_BLZb_CNT_EMPTY b)).bump (CNP_BLZb_STAT_RUN b)).flag (CNP_BLZb_STAT_VALID b))) = true
      then ((s.blazeCounted (CNP_BLZb_CNT_EMPTY b)).bump (CNP_BLZb_STAT_RUN b)).blazeLost b k false false
      else ((s.blazeCounted (CNP_BLZb_CNT_EMPTY b)).bump (CNP_BLZb_STAT_RUN b)).refreshStatus b false := by
    show State.blazeEmpty .. = _
    rw [State.blazeEmpty, hrun, Bool.false_or]
    rfl
  clear_value u
  generalize (s.blazeCounted (CNP_BLZb_CNT_EMPTY b)).bump (CNP_BLZb_STAT_RUN b) = y at *
  split at hu
  · next hcond =>
    obtain ⟨hreached, -⟩ := Bool.and_eq_true_iff.mp hcond
    have hreached : k.lossn ≤ run := of_decide_eq_true hreached
    obtain ⟨hv, hl, hr, hd, he, ht⟩ := y.blazeLost_shows b hhost
    rw [← hu, hblz] at hr hd
    rw [← hu] at hv hl he ht
    have hkeep (f : Fld) (hf : f.key ≠ (CNP_BLZb_STAT_VALID b).key) (ha : f.area ≠ .pend) : u.rd f = y.rd f :=
      ht.regs f (by simpa using hf) (by simpa using ha)
    refine ⟨(hkeep _ hev (by show Area.cnp ≠ Area.pend; decide)).trans hempty,
      (hkeep _ hvr.symm (by show Area.cnp ≠ Area.pend; decide)).trans hrun, fun i hi => (he i hi).trans (hblz i),
      fun _ hnot => ⟨hv, hl, ?_, hd⟩, fun hlt => absurd hreached (Nat.not_le.mpr hlt),
      htouch.trans ht (by simp) (by decide) (by decide)⟩
    rw [hnot] at hr
    exact hr.after hraises
  · next hcond =>
    obtain ⟨hd, he, hk⟩ := y.refreshStatus_shows b false
    rw [← hu] at hd he hk
    have hkeep (f : Fld) : u.rd f = y.rd f := hk.framed.regs f List.not_mem_nil
    refine ⟨(hkeep _).trans hempty, (hkeep _).trans hrun, fun i hi => (he i hi).trans (hblz i), fun hle hnot => ?_,
      fun _ => ⟨(hkeep _).trans hvalid, hd.trans (congrArg Blz.data (hblz b)), hraises.kept hk (by decide) (by decide)⟩,
      htouch.across hk (by decide) (by decide)⟩
    exact absurd (by simp [hnot, hle]) hcond

/-- The judgement of a blaze of which nothing came (R368, R370). -/
theorem blazeJudgement_empty (hlisted : b.val < s.blazeCount) (hkind : (s.entry b).kind = 0)
    (hsink : s.sink (s.entry b) = some k) (hslot : (s.slot (s.entry b)).isSome = true)
    (hgot : ((s.begin t).blzNow b).got = 0) (hpf : ((s.begin t).blzNow b).pwrfail = false)
    (hdue : (s.begin t).judgeAt (s.entry b) ≤ t) (honce : (s.blz b).judged ≠ t / s.tcNs + 1) :
    ∃ x : Blz, x.lost = (s.blz b).lost ∧ x.data = (s.blz b).data ∧
      exec (.blazeJudgement b t) s = .next (((s.begin t).setBlz b x).blazeEmpty b k false) := by
  have hown := (s.begin t).blzNow_lost b
  refine ⟨{ (s.begin t).blzNow b with judged := (s.begin t).cycleNo + 1 }, hown.1, hown.2, ?_⟩
  show Host.Outcome.next ((s.begin t).blazeJudge b) = _
  have hgo : ¬ ((s.begin t).blazeCount ≤ b.val ∨ (s.begin t).now < (s.begin t).judgeAt ((s.begin t).entry b) ∨
      ((s.begin t).blz b).judged = (s.begin t).cycleNo + 1) :=
    not_or.mpr ⟨Nat.not_le.mpr hlisted, not_or.mpr ⟨Nat.not_lt.mpr hdue, honce⟩⟩
  have hsink' : (s.begin t).sink ((s.begin t).entry b) = some k := State.sink_plain hkind hsink _
  have hbound : ((((s.begin t).setBlz b { (s.begin t).blzNow b with judged := (s.begin t).cycleNo + 1 }).slot
      ((s.begin t).entry b)).isNone) = false := by
    show (s.slot (s.entry b)).isNone = false
    simpa using hslot
  have hplain : ¬ ((s.begin t).entry b).kind = kindSafe := by
    show ¬ (s.entry b).kind = kindSafe
    rw [hkind]
    decide
  unfold State.blazeJudge
  dsimp only
  rw [if_neg hgo, hsink']
  dsimp only
  rw [hbound, hgot, hpf, if_neg hplain]
  simp

/-- A blaze of no special kind that an entry of this module listens to, on the bus of a consist that is there. -/
theorem blazeJudgement_does (hlisted : b.val < s.blazeCount) (hkind : (s.entry b).kind = 0)
    (hsink : s.sink (s.entry b) = some k) (hhost : k.host = none) (hslot : (s.slot (s.entry b)).isSome = true)
    (hgot : ((s.begin t).blzNow b).got = 0) (hpf : ((s.begin t).blzNow b).pwrfail = false)
    (hdue : (s.begin t).judgeAt (s.entry b) ≤ t) (honce : (s.blz b).judged ≠ t / s.tcNs + 1) :
    Does (.blazeJudgement b t) s fun u =>
      u.rd (CNP_BLZb_CNT_EMPTY b) = sat 16 (s.rd (CNP_BLZb_CNT_EMPTY b) + 1) ∧
      u.rd (CNP_BLZb_STAT_RUN b) = sat 8 (s.rd (CNP_BLZb_STAT_RUN b) + 1) ∧
      (∀ i, i ≠ b.val → u.blz i = s.blz i) ∧
      (k.lossn ≤ sat 8 (s.rd (CNP_BLZb_STAT_RUN b) + 1) → (s.blz b).lost = false →
        u.rd (CNP_BLZb_STAT_VALID b) = 0 ∧ (u.blz b).lost = true ∧ Raised [131] s u ∧
        (u.blz b).data = if k.subst = 1 then List.replicate k.paylen 0 else if k.subst = 2 then
          List.replicate k.paylen 0xFF else (s.blz b).data) ∧
      (sat 8 (s.rd (CNP_BLZb_STAT_RUN b) + 1) < k.lossn → u.rd (CNP_BLZb_STAT_VALID b) = s.rd (CNP_BLZb_STAT_VALID b) ∧
        (u.blz b).data = (s.blz b).data ∧ Quiet s u) ∧
      Touches [CNP_BLZb_CNT_EMPTY b, CNP_BLZb_STAT_RUN b, CNP_BLZb_STAT_VALID b] [.pend] [.now, .resp, .out, .cnp] s u := by
  obtain ⟨x, hlost, hdata, hexec⟩ := blazeJudgement_empty hlisted hkind hsink hslot hgot hpf hdue honce
  have hset : Kept [] [.cnp] (s.begin t) ((s.begin t).setBlz b x) := State.setBlz_kept (Kept.refl _ _ _) (by decide)
  have hraises : Raises [] s ((s.begin t).setBlz b x) := (Raises.begin s t).kept hset (by decide) (by decide)
  have htouch : Touches [CNP_BLZb_CNT_EMPTY b, CNP_BLZb_STAT_RUN b, CNP_BLZb_STAT_VALID b] [.pend]
      [.now, .resp, .out, .cnp] s ((s.begin t).setBlz b x) :=
    (Touches.begin s t (by decide)).across hset (by decide) (by decide)
  have hrd (f : Fld) : ((s.begin t).setBlz b x).rd f = s.rd f := rfl
  have hown : ((s.begin t).setBlz b x).blz b = x := State.blz_setBlz_same ..
  have helse (i : Nat) (hi : i ≠ b.val) : ((s.begin t).setBlz b x).blz i = s.blz i := State.blz_setBlz_ne _ hi x
  refine ⟨_, hexec, ?_⟩
  generalize (s.begin t).setBlz b x = y at *
  obtain ⟨hempty, hrun, hrest, hreached, hbelow, ht⟩ := y.blazeEmpty_shows b hhost
  rw [hrd, hown, hlost, hdata] at hreached
  rw [hrd, hrd, hown, hdata] at hbelow
  refine ⟨by rw [hempty, hrd], by rw [hrun, hrd], fun i hi => (hrest i hi).trans (helse i hi), fun hle hnot => ?_,
    fun hlt => ?_, htouch.trans ht (fun _ h => h) (by decide) (by decide)⟩
  · obtain ⟨hv, hl, hr, hd⟩ := hreached hle hnot
    exact ⟨hv, hl, (hr.after hraises).raised, hd⟩
  · obtain ⟨hv, hd, hr⟩ := hbelow hlt
    exact ⟨hv, hd, (hr.after hraises).raised⟩

/-- Before its instant a blaze is not judged. -/
theorem blazeJudgement_early (hlt : t < (s.begin t).judgeAt (s.entry b)) : Does (.blazeJudgement b t) s fun u =>
    Touches [] [] [.now, .resp, .out] s u := by
  refine ⟨s.begin t, ?_, Touches.begin s t (by decide)⟩
  show Host.Outcome.next ((s.begin t).blazeJudge b) = _
  unfold State.blazeJudge
  exact congrArg Host.Outcome.next (if_pos (.inr (.inl hlt)))

/-- A copy that is not accepted (R332). -/
theorem blazeFrame_late (hp : s.portUsed port = true) (hph : s.pw.phase = .running)
    (hb : (s.begin t).entriesFor frame = [b.val]) (hpf : frPwrfail frame = false)
    (ha : (s.begin t).accepts (s.entry b) (portPlane port) frame = false) : Does (.blazeFrame port frame true t) s fun u =>
      u.rd (CNP_BLZb_CNT_LATE b) = sat 8 (s.rd (CNP_BLZb_CNT_LATE b) + 1) ∧ (∀ i, u.blz i = s.blz i) ∧
      u.cnp.why ≠ 0 ∧ Touches [CNP_BLZb_CNT_LATE b] [.cvu] [.now, .resp, .out, .cnp, .cvu] s u := by
  obtain ⟨w, hw, hexec⟩ := blazeFrame_heardFor (v := s.begin t) hp hph hb hpf
  have hrd (f : Fld) (hf : f.area ≠ .cvu) : w.rd f = s.rd f := hw.framed.regs f (by simpa using hf)
  have hcnp : w.cnp = s.cnp := hw.framed.parts .cnp (by decide)
  have hent : w.entry b = s.entry b := by
    have hword (i : Nat) : w.rd (CNP_BLZb_Ww b i) = s.rd (CNP_BLZb_Ww b i) := hrd _ (by show Area.cnp ≠ Area.cvu; decide)
    simp only [State.entry, hword]
  have hnot : ¬ w.accepts (w.entry b) (portPlane port) frame = true := by
    rw [hent, State.accepts_kept hw]
    exact Bool.not_eq_true _ ▸ ha
  obtain ⟨hlate, hblz, hwhy, htouch⟩ := w.lateCopy_shows b
  refine ⟨_, congrArg Host.Outcome.next (hexec.trans (if_neg hnot)), ?_, fun i => (hblz i).trans ?_, hwhy, ?_⟩
  · rw [hlate, hrd _ (by show Area.cnp ≠ Area.cvu; decide)]
  · rw [State.blz, hcnp]
    rfl
  · exact ((Touches.begin s t (by decide)).across hw (by decide) (by decide)).trans htouch (fun _ h => h) (by decide)
      (by decide)

end

/-- Settles O37: a blaze goes with the image of its source, the first accepted copy of a cycle brings its content in
whole, and the judgement of a blaze of which nothing came counts it and ends its validity at LOSSN. -/
theorem canopyBlazes : Obligations.CanopyBlazes := by
  intro s b h port frame k stamp t
  refine ⟨fun hlisted hkind => ⟨fun hrole hhost hjoin => ?_, fun hsink hhost hslot => ⟨fun hp hph hb hpf => ?_,
    blazeJudgement_early, fun hgot hpf hdue honce =>
      blazeJudgement_does hlisted hkind hsink hhost hslot hgot hpf hdue honce⟩⟩, hostBufferCommit_does s h t⟩
  · have hsends : SendsHost s b := ⟨hlisted, hkind, hrole, hhost, hjoin⟩
    exact ⟨hsends.fresh, hsends.again, hsends.empty⟩
  · exact ⟨fun ha hgot hrep => blazeFrame_first hp hph hb hpf hkind hsink hhost ha hgot hrep, blazeFrame_late hp hph hb hpf⟩

end Sys2Proof.Machine

/-! ## A longest lap that is longer than its field (R446, R447) -/

namespace Sys2Proof.Machine

-- An evaluation waits for the kernel, which has all that stands before it to check: one at a time.
set_option Elab.async false

/-- Row 0 of the L2 is the scrubber's next one, in a lap that has begun; the field of LAPMAX, of 24 bits, holds 2^24. -/
def longestLapTooWide : State :=
  { raisedNow with
    ecc := { raisedNow.ecc with laps := tblPut 2 ⟨0, 0, false, 0⟩ raisedNow.ecc.laps }
    regs := tblSet 0 (ECC_SCRm_LAPMAX_MS 2).key (2 ^ 24) raisedNow.regs }

theorem longestLapTooWide_turns : longestLapTooWide.pw.phase = .running ∧
    longestLapTooWide.scrubTurn 2 (longestLapTooWide.lapPos 2) 0 = true ∧
    longestLapTooWide.lap 2 = some ⟨0, 0, false, 0⟩ ∧ longestLapTooWide.isTestRow 3 0 = false ∧
    longestLapTooWide.rowErr 3 0 = 0 ∧ (∀ j, j < 32 → longestLapTooWide.ctState j = 0) ∧
    longestLapTooWide.rd (ECC_SCRm_LAPMAX_MS 2) = 2 ^ 24 := by
  decide +kernel

/-- The write of the longest lap cuts it to the field's width. -/
theorem lapMax_scrubRead : shown (fun u => u.rd (ECC_SCRm_LAPMAX_MS 2))
    (exec (.scrubRead 2 0 0 false false true false 0) longestLapTooWide) = 0 := by
  decide +kernel

/-- Refutes O48: at the end of a lap the statement has LAPMAX keep the greater of its value and the lap's, but the model
writes the greater of the two through the field, of 24 bits; where the field reads 2^24, it then reads 0. -/
theorem not_memoryRows : ¬ Obligations.MemoryRows := by
  intro h
  obtain ⟨hphase, hturn, hlap, htest, herr, hfree, hmax⟩ := longestLapTooWide_turns
  obtain ⟨-, -, -, -, -, -, -, -, hscrub, -⟩ := h longestLapTooWide .debug 0 0 0 0 0 0 0 false false true false false [] 0 2
    ⟨0, 0, false, 0⟩ 0 [] 0
  obtain ⟨u, ⟨-, -, -, hlapmax, -⟩, hzero⟩ :=
    ((hscrub hphase hturn (.inl (by decide)) hlap htest (herr.trans BitVec.toNat_zero.symm)).2 rfl hfree).exists_shown lapMax_scrubRead
  have hkept : longestLapTooWide.rd (ECC_SCRm_LAPMAX_MS 2) ≤ u.rd (ECC_SCRm_LAPMAX_MS 2) :=
    le_of_le_of_eq (Nat.le_max_left _ _) hlapmax.symm
  rw [hmax, show u.rd (ECC_SCRm_LAPMAX_MS 2) = 0 from hzero] at hkept
  exact absurd hkept (by decide)

end Sys2Proof.Machine

/-! ## A mask of self-test targets that is wider than its field (R456, R460) -/

namespace Sys2Proof.Machine

-- An evaluation waits for the kernel, which has all that stands before it to check: one at a time.
set_option Elab.async false

/-- The module runs and no self-test is in progress; BIST_MASK1, of 32 bits, holds 2^32, which names no target. -/
def maskTooWide : State := { raisedNow with regs := tblSet 0 BIST_MASK1.key (2 ^ 32) raisedNow.regs }

theorem maskTooWide_idle : maskTooWide.pw.phase = .running ∧ maskAll (maskTooWide.rd BIST_MASK0) maskTooWide.testable0 = true ∧
    maskAll (maskTooWide.rd BIST_MASK1) maskTooWide.testable1 = true ∧ maskTooWide.cop.waiting = none ∧
    maskTooWide.cop.run = none ∧ maskTooWide.rd BIST_STAT_COPPICE = 0 ∧ maskTooWide.rd BIST_MASK1 = 2 ^ 32 := by
  decide +kernel

/-- The run has no phase to begin with. -/
theorem phase_bistStart : shown (fun u => u.rd BIST_STAT_PHASE) (exec (.bistStart 0) maskTooWide) = 0 := by
  decide +kernel

/-- Refutes O50: the statement has a command run begin in phase 1 unless both masks are 0, but the model lets a run
enter phase 1 for the bits 0 to 15 of MASK1 alone; where BIST_MASK1 reads 2^32 the run has no phase. -/
theorem not_selfTestAndRepair : ¬ Obligations.SelfTestAndRepair := by
  intro h
  obtain ⟨hphase, hcores, hunits, hwait, hrun, hcoppice, hmask⟩ := maskTooWide_idle
  obtain ⟨-, -, hbegins, -⟩ := h maskTooWide (bistNew .command 0 0) [] 0 0 0 0 0 0 0 0 0 0 0
  have hnone : ¬ (maskTooWide.cop.waiting.isSome = true ∨ ∃ x, maskTooWide.cop.run = some x ∧ x.kind = .command) := by
    rw [hwait, hrun]
    simp
  have hfree : ¬ (maskTooWide.rd BIST_STAT_COPPICE = 1 ∨ maskTooWide.cop.run.isSome = true) := by
    rw [hcoppice, hrun]
    simp
  obtain ⟨u, ⟨-, -, -, hone, -⟩, hzero⟩ := (hbegins ⟨hcores, hunits⟩ hnone hfree hphase).exists_shown phase_bistStart
  have hnamed : ¬ (maskTooWide.rd BIST_MASK0 = 0 ∧ maskTooWide.rd BIST_MASK1 = 0) := by
    rw [hmask]
    exact fun hboth => absurd hboth.2 (by decide)
  rw [if_neg hnamed, show u.rd BIST_STAT_PHASE = 0 from hzero] at hone
  exact absurd hone (by decide)

end Sys2Proof.Machine

/-! ## An active bank whose number is not of one bit (R162, R181, R208) -/

namespace Sys2Proof.Machine

-- An evaluation waits for the kernel, which has all that stands before it to check: one at a time.
set_option Elab.async false

/-- Engine 0 runs in its main program, of length 1 from index 1 on; the field of its active bank, of one bit, holds 2,
which puts the bank where data memory lies. -/
def bankIsTwo : State :=
  let s : State := raisedNow.setEngine 0 { engineInit with executing := true, pc := 1 }
  let s := (s.wr (LE_Ee_STAT_STATE 0) leRunning).putLeBytes (leBankBase 0 2 + 0x7F8) [1, 0, 0, 0, 1, 0, 0, 0]
  { s with regs := tblSet 0 (LE_Ee_STAT_BANK 0).key 2 s.regs }

theorem bankIsTwo_runs : bankIsTwo.leCan 0 = true ∧ bankIsTwo.leInBody 0 (bankIsTwo.engine 0).pc = true ∧
    (bankIsTwo.engine 0).cstack = [] ∧ (bankIsTwo.engine 0).bstack = [] ∧ bankIsTwo.pmg.low = none ∧
    (bankIsTwo.engine 0).want = .none ∧ bankIsTwo.cycBreak 0 = false ∧ bankIsTwo.rd (LE_Ee_STAT_SHADOW 0) ≠ 4 ∧
    (bankIsTwo.engine 0).stop = false ∧ bankIsTwo.leStart 0 255 = 1 := by
  decide +kernel

theorem bankIsTwo_sound : (∀ i, i < 32 → bankIsTwo.ctState i ≠ ctSoft) ∧ bankIsTwo.ecc.err = [] := by
  decide +kernel

/-- The take replaces the input image, and with it what the field names as the bank: the next cycle starts at 0. -/
theorem pc_leEnd : shown (fun u => (u.engine 0).pc) (exec (.leEnd 0 0 0 0 0 0) bankIsTwo) = 0 := by
  decide +kernel

/-- Refutes O34: the statement has the next cycle begin at START of the main program as it stands before the take, but the
model reads START after it; where the field of the active bank reads 2, the bank lies in data memory, and the take of
the input image changes it. -/
theorem not_leCycles : ¬ Obligations.LeCycles := by
  intro h
  obtain ⟨hcan, hbody, hcalls, hbranches, hlow, hwant, hbreak, hshadow, hstop, hstart⟩ := bankIsTwo_runs
  obtain ⟨hsoft, herr⟩ := bankIsTwo_sound
  have hrows (p : Nat → Nat → Bool) : bankIsTwo.errRows p = [] := by rw [State.errRows, herr]; rfl
  have hgoes : LeGoes bankIsTwo 0 := ⟨hcan, by rw [FetchSound, State.rowErr, herr]; rfl, hbody⟩
  obtain ⟨hend, -⟩ := h bankIsTwo 0 0 0 (bareProg 0) (bareProg 0) 0 0
  obtain ⟨hnext, -⟩ := hend hgoes hsoft (hrows _) hcalls hbranches hlow hwant hbreak
  obtain ⟨u, ⟨-, hpc, -⟩, hzero⟩ := (hnext hshadow hstop).exists_shown pc_leEnd
  have hone : (u.engine 0).pc = 1 := hpc.trans hstart
  rw [show (u.engine 0).pc = 0 from hzero] at hone
  exact absurd hone (by decide)

end Sys2Proof.Machine

/-! ## Reading and writing memory in sound rows (R437, R438, R441) -/

namespace Sys2Proof.Machine

/-! ### Rows of a range -/

section
variable {s u w : State} {a n : Nat} {bs : List Byte}

/-- A row that holds an error is listed among the rows that meet a test. -/
theorem State.rowErr_of_errRows_nil {p : Nat → Nat → Bool} (h : s.errRows p = []) {memid row : Nat} (hrow : row < 2 ^ 28)
    (hp : p memid row = true) : s.rowErr memid row = 0 := by
  by_contra hne
  obtain ⟨v, hv⟩ : ∃ v, tblFind (rowKey memid row) s.ecc.err = some v := by
    cases hf : tblFind (rowKey memid row) s.ecc.err with
    | none => exact absurd (by rw [State.rowErr, tblGet, hf]; rfl) hne
    | some v => exact ⟨v, rfl⟩
  have hmem (m : Tbl Nat) (hm : tblFind (rowKey memid row) m = some v) : (rowKey memid row, v) ∈ m := by
    induction m with
    | nil => cases hm
    | cons x m ih =>
      obtain ⟨j, y⟩ := x
      rw [tblFind] at hm
      split at hm
      · next hj => rw [← hj, Option.some.inj hm]; exact List.mem_cons_self
      · exact List.mem_cons_of_mem _ (ih hm)
  have hkey : ((rowKey memid row) / 2 ^ 28, (rowKey memid row) % 2 ^ 28) = (memid, row) := by
    rw [rowKey]
    exact Prod.ext (by show (_ : Nat) = memid; omega) (by show (_ : Nat) = row; omega)
  have hin : (memid, row) ∈ s.errRows p :=
    List.mem_filter.mpr ⟨List.mem_map.mpr ⟨_, hmem _ hv, hkey⟩, hp⟩
  rw [h] at hin
  cases hin

/-- The row of an address holds it. -/
theorem rowAddr_of_rowOf {x memid row : Nat} (h : rowOf x = some (memid, row)) :
    ∃ b, rowAddr memid row = some b ∧ b ≤ x ∧ x < b + 32 ∧ row < 2 ^ 28 := by
  unfold rowOf inRange at h
  simp only [Bool.and_eq_true, decide_eq_true_eq] at h
  split at h
  · cases h
    exact ⟨_, rfl, by omega, by omega, by omega⟩
  · split at h
    · cases h
      exact ⟨_, rfl, by simp only [sramBase]; omega, by simp only [sramBase]; omega, by omega⟩
    · split at h
      · cases h
        exact ⟨_, rfl, by omega, by omega, by omega⟩
      · cases h

/-- The rows that meet a sound range are without error. -/
theorem RangeSound.rowErr (h : RangeSound s a n) {b memid row : Nat} (haddr : rowAddr memid row = some b)
    (hrow : row < 2 ^ 28) (hlo : a < b + 32) (hhi : b < a + n) : s.rowErr memid row = 0 :=
  State.rowErr_of_errRows_nil h hrow (by simp [haddr, hlo, hhi])

/-- What a block of the module reads of a sound range: the bytes as they stand, and nothing else happens (R441). -/
theorem RangeSound.seeRange (h : RangeSound s a n) (master cause : Nat) : s.seeRange master cause a n = (false, s) := by
  unfold RangeSound at h
  rw [State.seeRange, h]
  rfl

theorem RangeSound.seen (h : RangeSound s a n) : s.seen a n = s.bytes a n := by
  unfold State.seen State.bytes
  refine List.map_congr_left fun i hi => ?_
  have hi : i < n := List.mem_range.mp hi
  split
  · next r hr =>
    obtain ⟨b, haddr, hle, hlt, hrow⟩ := rowAddr_of_rowOf (memid := r.1) (row := r.2) hr
    rw [if_pos (h.rowErr haddr hrow (by omega) (by omega))]
  · rfl

/-! ### Bytes stored -/

/-- A write that check-value units see changes no register: a result waits to be delivered. -/
theorem State.unitWrite_regs (s : State) (l : List (Nat × Byte)) : (s.unitWrite l).regs = s.regs := by
  unfold State.unitWrite
  refine List.foldlRecOn (motive := fun v : State => v.regs = s.regs) _ _ rfl fun v hv i _ => ?_
  dsimp only
  split
  · split
    · exact hv
    · exact hv
  · exact hv

/-- Rows are encoded afresh; without a SOFT entry in the correction table nothing more happens. -/
theorem State.rowsEncoded_of_noSoft (hs : NoSoft s) (l : List (Nat × Nat)) :
    ∃ x, l.foldl (fun s r => (s.setErr r.1 r.2 0).rowWritten r.1 r.2) s = { s with ecc := x } := by
  induction l generalizing s with
  | nil => exact ⟨s.ecc, rfl⟩
  | cons r l ih =>
    have hr : NoSoft (s.setErr r.1 r.2 0) := hs
    rw [List.foldl_cons, State.rowWritten_of_noSoft hr]
    obtain ⟨x, hx⟩ := ih hr
    exact ⟨x, hx⟩

theorem State.putBytes_regs (s : State) (a : Nat) (bs : List Byte) : (s.putBytes a bs).regs = s.regs := by
  induction bs generalizing s a with
  | nil => rfl
  | cons b r ih => exact ih _ _

/-- Memory takes bytes, the correction block keeps `x` of its rows, and check-value units see the write: no register
changes. -/
theorem State.putSeen_shows (s : State) (a : Nat) (bs : List Byte) (x : Ecc) :
    let u := State.unitWrite { s.putBytes a bs with ecc := x }
      ((List.range bs.length).zip bs |>.map fun e => (a + e.1, e.2))
    Stored a bs s u ∧ u.regs = s.regs ∧ Touches [] [] [.mem, .ecc, .cvu] s u := by
  have hbytes : Kept [] [.mem] s (s.putBytes a bs) := State.putBytes_kept (Kept.refl _ _ s) (by decide)
  have hregs : (State.unitWrite { s.putBytes a bs with ecc := x }
      ((List.range bs.length).zip bs |>.map fun e => (a + e.1, e.2))).regs = s.regs :=
    (State.unitWrite_regs ..).trans (State.putBytes_regs s a bs)
  refine ⟨(Stored.putBytes s a bs).of_mem_eq (State.unitWrite_mem ..), hregs, fun f _ _ => ?_, fun p hp => ?_⟩
  · rw [State.rd, hregs, State.rd]
  · have hunit := State.unitWrite_kept (A := [.cvu]) (P := [.cvu]) (Kept.refl _ _ ({ s.putBytes a bs with ecc := x } : State))
      (bytes := (List.range bs.length).zip bs |>.map fun e => (a + e.1, e.2)) (by decide) (by decide)
    refine Same.trans (Same.trans (hbytes.framed.parts p fun h => hp ?_) ?_) (hunit.framed.parts p fun h => hp ?_)
    · rw [List.mem_singleton.mp h]
      decide
    · cases p <;> first | rfl | exact absurd (by decide) hp
    · rw [List.mem_singleton.mp h]
      decide

/-- A store of bytes, without a SOFT entry in the correction table: memory takes them, their rows are sound, and no
register changes. -/
theorem State.store_shows (hs : NoSoft s) (a : Nat) (bs : List Byte) :
    Stored a bs s (s.store a bs) ∧ (s.store a bs).regs = s.regs ∧ Touches [] [] [.mem, .ecc, .cvu] s (s.store a bs) := by
  have hbytes : Kept [] [.mem] s (s.putBytes a bs) := State.putBytes_kept (Kept.refl _ _ s) (by decide)
  obtain ⟨x, hx⟩ := State.rowsEncoded_of_noSoft (hs.of_regsIn hbytes.framed.regs) (rowsAt a bs.length)
  have hstore : s.store a bs = State.unitWrite { s.putBytes a bs with ecc := x }
      ((List.range bs.length).zip bs |>.map fun e => (a + e.1, e.2)) := by
    unfold State.store
    rw [hx]
  rw [hstore]
  exact s.putSeen_shows a bs x

/-- A write of bytes into sound rows (R438). -/
theorem State.mergeStore_of_sound {master : Nat} (hstg : inStaging a bs.length = false)
    (hrows : ∀ r ∈ partRows a bs.length, s.rowErr r.1 r.2 = 0) : s.mergeStore master a bs = (true, s.store a bs) := by
  have hsettle : s.settleRows (partRows a bs.length) = s := by
    have hfold (l : List (Nat × Nat)) (hl : ∀ r ∈ l, s.rowErr r.1 r.2 = 0) : s.settleRows l = s := by
      induction l with
      | nil => rfl
      | cons r l ih =>
        obtain ⟨hr, hl⟩ := List.forall_mem_cons.mp hl
        rw [State.settleRows, List.foldl_cons, if_pos hr]
        exact ih hl
    exact hfold _ hrows
  unfold State.mergeStore
  simp only [hstg, State.seeRows_of_sound hrows, hsettle, Bool.false_eq_true, if_false]

/-! ### Logic-engine memory written in whole rows -/

/-- Whole rows that are written are sound; without a SOFT entry nothing more happens. -/
theorem State.rowsWritten_of_noSoft (hs : NoSoft s) (memid lo n : Nat) : ∃ x, s.rowsWritten memid lo n = { s with ecc := x } := by
  unfold State.rowsWritten
  extract_lets hit v y x
  have hx : NoSoft x := hs
  have hfold (l : List Nat) (hl : ∀ i ∈ l, i < 32) :
      l.foldl (fun s i => if s.ctState i == ctSoft && hit (s.ctKey i) then s.ctRelease i else s) x = x := by
    induction l with
    | nil => rfl
    | cons i l ih =>
      obtain ⟨hi, hl⟩ := List.forall_mem_cons.mp hl
      have hnot : (x.ctState i == ctSoft) = false := by simpa using hx i hi
      rw [List.foldl_cons, hnot, Bool.false_and, if_neg Bool.false_ne_true]
      exact ih hl
  rw [hfold _ fun i hi => List.mem_range.mp hi]
  exact ⟨_, rfl⟩

/-- A region of a logic-engine memory that is replaced leaves the rest. -/
theorem State.leByte_setLeRegion_of_outside (s : State) {base n p : Nat} {d : Tbl Byte} (hd : ∀ x ∈ d, x.1 < n)
    (hp : p < base ∨ base + n ≤ p) : (s.setLeRegion base n d).leByte p = s.leByte p := by
  have hkeep : tblGet 0 p (tblKeep (fun k => !inRange base (base + n) k) s.leMem) = tblGet 0 p s.leMem := by
    have hout : (!inRange base (base + n) p) = true := by
      rw [inRange]
      simp only [Bool.not_eq_true', Bool.and_eq_false_iff, decide_eq_false_iff_not]
      omega
    rw [tblGet, tblFind_keep, if_pos hout, tblGet]
  have hfold (l : Tbl Byte) (m : Tbl Byte) (hl : ∀ x ∈ l, x.1 < n) :
      tblGet 0 p (l.foldl (fun m x => tblSet 0 (base + x.1) x.2 m) m) = tblGet 0 p m := by
    induction l generalizing m with
    | nil => rfl
    | cons x l ih =>
      obtain ⟨hx, hl⟩ := List.forall_mem_cons.mp hl
      rw [List.foldl_cons, ih _ hl, tblGet_set_ne (by omega)]
  rw [State.leByte, State.setLeRegion, State.leByte, hfold _ _ hd, hkeep]

end

end Sys2Proof.Machine

/-! ## Loading, discarding and swapping a program (R207, R224 to R226): O32 -/

namespace Sys2Proof.Machine

section
variable {s u w s0 : State} {e : Nat} {t : Nat} {fs : List Fld} {A : List Area} {P : List Part}

/-! ### The report of an admission -/

/-- The fields that report an admission. -/
abbrev admFlds (e : Nat) : List Fld := [LE_Ee_STAT_ADMEV e, LE_Ee_ADM_STAT_REASON e, LE_Ee_ADM_STAT_INDEX e]

/-- The report before its record. -/
def State.admShown (s : State) (e reason index : Nat) : State :=
  (((s.wr (LE_Ee_ADM_STAT_REASON e) reason).wr (LE_Ee_ADM_STAT_INDEX e) index).wr (LE_Ee_STAT_ADMEV e) 1).raise (28 + e)

theorem State.admReport_eq (s : State) (e reason index : Nat) : s.admReport e reason index =
    if reason = 0 then s.admShown e reason index
    else (s.admShown e reason index).record 2 4 (28 + e) e (some (0x10301004 + 0x1000 * e)) (some (0x1030102C + 0x1000 * e)) :=
  rfl

theorem State.rd_admReport {f : Fld} (hp : f.area.code ≠ 5) (hi : f.area.code ≠ 19) (reason index : Nat) :
    (s.admReport e reason index).rd f = (((s.wr (LE_Ee_ADM_STAT_REASON e) reason).wr (LE_Ee_ADM_STAT_INDEX e) index).wr
      (LE_Ee_STAT_ADMEV e) 1).rd f := by
  rw [State.admReport_eq]
  split
  · exact State.rd_raise_code hp
  · exact (State.rd_record_code hp hi).trans (State.rd_raise_code hp)

/-- What an admission's report shows. -/
theorem State.admReport_shows (s : State) (e reason index : Nat) :
    (s.admReport e reason index).rd (LE_Ee_ADM_STAT_REASON e) = reason % 256 ∧
      (s.admReport e reason index).rd (LE_Ee_ADM_STAT_INDEX e) = index % 2 ^ 18 ∧
      (s.admReport e reason index).rd (LE_Ee_STAT_ADMEV e) = 1 := by
  have hne : (LE_Ee_ADM_STAT_REASON e).key ≠ (LE_Ee_ADM_STAT_INDEX e).key ∧
      (LE_Ee_ADM_STAT_REASON e).key ≠ (LE_Ee_STAT_ADMEV e).key ∧
      (LE_Ee_ADM_STAT_INDEX e).key ≠ (LE_Ee_STAT_ADMEV e).key := by
    simp only [Fld.key, LE_Ee_ADM_STAT_REASON, LE_Ee_ADM_STAT_INDEX, LE_Ee_STAT_ADMEV]
    omega
  obtain ⟨hri, hra, hia⟩ := hne
  refine ⟨?_, ?_, ?_⟩ <;> rw [State.rd_admReport (Nat.ne_of_beq_eq_false rfl) (Nat.ne_of_beq_eq_false rfl)]
  · rw [State.rd_wr_ne _ hra, State.rd_wr_ne _ hri, State.rd_wr_same]
    rfl
  · rw [State.rd_wr_ne _ hia, State.rd_wr_same]
    rfl
  · rw [State.rd_wr_same]
    rfl

theorem Touches.admReport (h : Touches fs A P s0 s) (hf : admFlds e ⊆ fs) (hA : ∀ a ∈ ([.pend, .ingress] : List Area), a ∈ A)
    (hP : ∀ p ∈ ([.pw, .rcd] : List Part), p ∈ P) (reason index : Nat) : Touches fs A P s0 (s.admReport e reason index) := by
  have hshown : Touches fs A P s0 (s.admShown e reason index) :=
    (((h.wrOf (hf (by simp)) _).wrOf (hf (by simp)) _).wrOf (hf (by simp)) _).raise (hA _ (by simp)) _
  rw [State.admReport_eq]
  split
  · exact hshown
  · exact hshown.record hA hP ..

/-- An admission raises the engine's status event. -/
theorem Raises.admReport (h : Raises [] s0 s) (he : e < 4) (index : Nat) : Raises [28 + e] s0 (s.admReport e 0 index) :=
  (((h.wr (f := LE_Ee_ADM_STAT_REASON e) (Nat.ne_of_beq_eq_false rfl) (Nat.ne_of_beq_eq_false rfl) 0).wr
    (f := LE_Ee_ADM_STAT_INDEX e) (Nat.ne_of_beq_eq_false rfl) (Nat.ne_of_beq_eq_false rfl) index).wr
    (f := LE_Ee_STAT_ADMEV e) (Nat.ne_of_beq_eq_false rfl) (Nat.ne_of_beq_eq_false rfl) 1).raise (by omega)

/-- A refused image is recorded (R35). -/
theorem Reported.admReport (h : Reported [] [] s0 s) (he : e < 4) {reason : Nat} (hne : reason ≠ 0) (index : Nat) :
    Notes [28 + e] [(2, 4, 28 + e, e)] s0 (s.admReport e reason index) := by
  refine notes_of_reported (ds := [(s.admShown e reason index).hwRecord 2 4 (28 + e) e (some (0x10301004 + 0x1000 * e))
    (some (0x1030102C + 0x1000 * e))]) rfl fun hr => ?_
  rw [State.admReport_eq, if_neg hne]
  have hshown : Reported [28 + e] [] s0 (s.admShown e reason index) :=
    (((h.wr (f := LE_Ee_ADM_STAT_REASON e) (Nat.ne_of_beq_eq_false rfl) (Nat.ne_of_beq_eq_false rfl)
      (Nat.ne_of_beq_eq_false rfl) reason).wr (f := LE_Ee_ADM_STAT_INDEX e) (Nat.ne_of_beq_eq_false rfl)
      (Nat.ne_of_beq_eq_false rfl) (Nat.ne_of_beq_eq_false rfl) index).wr (f := LE_Ee_STAT_ADMEV e)
      (Nat.ne_of_beq_eq_false rfl) (Nat.ne_of_beq_eq_false rfl) (Nat.ne_of_beq_eq_false rfl) 1).raise (by omega)
  exact hshown.record hr ..

theorem State.engine_admReport (s : State) (e reason index i : Nat) :
    (s.admReport e reason index).engine i = s.engine i ∧ (s.admReport e reason index).leMem = s.leMem := by
  have hk : Kept [.pend, .le, .ingress] [.pw, .rcd] s (s.admReport e reason index) :=
    State.admReport_kept (Kept.refl _ _ s) (by decide) (by decide)
  have heng : (s.admReport e reason index).eng = s.eng := hk.framed.parts .eng (by decide)
  exact ⟨by rw [State.engine, heng, State.engine], hk.framed.parts .leMem (by decide)⟩

/-! ### Commands for the shadow -/

theorem shadowKeys (e : Nat) : (LE_Ee_STAT_SHADOW e).area ≠ (PWR_UNIT_UNIT (4 + e)).area := by
  show Area.le ≠ Area.unit
  decide

/-- The shadow of an engine takes another state, and the engine leaves Nap. -/
theorem shadowSet_shows (t : Nat) (x : Engine) {n : Nat} (hn : n < 8) :
    let u := (((s.begin t).setEngine e x).wr (LE_Ee_STAT_SHADOW e) n).wr (PWR_UNIT_UNIT (4 + e)) 0
    u.rd (LE_Ee_STAT_SHADOW e) = n ∧ u.engine e = x ∧ (∀ i, i ≠ e → u.engine i = s.engine i) ∧
      u.rd (PWR_UNIT_UNIT (4 + e)) = 0 ∧
      Touches [LE_Ee_STAT_SHADOW e, PWR_UNIT_UNIT (4 + e)] [] [.now, .resp, .out, .eng] s u := by
  intro u
  have heng : Kept [] [.eng] (s.begin t) ((s.begin t).setEngine e x) := State.setEngine_kept (Kept.refl _ _ _) (by decide)
  refine ⟨?_, State.engine_setEngine_same _ _ _, fun i hi => State.engine_setEngine_ne _ hi _, State.rd_wr_same .., ?_⟩
  · rw [State.rd_wr_area _ (shadowKeys e), State.rd_wr_same]
    exact Nat.mod_eq_of_lt hn
  · exact ((((Touches.begin s t (by decide)).across heng (by decide) (by decide)).wrOf (by simp) _).wrOf (by simp) _)

theorem leLoad_does {e : Fin 4} (hlive : s.leState e = leRunning ∨ s.leState e = leStopped ∨ s.leState e = leFaulted)
    (hsh : s.rd (LE_Ee_STAT_SHADOW e) ∈ [0, 2, 3]) (hph : s.pw.phase = .running) : Does (.leLoad e t) s fun u =>
      u.rd (LE_Ee_STAT_SHADOW e) = 1 ∧
      u.engine e = { s.engine e with shadow := none, load := some (8 * s.rd (LE_Ee_LD_ADDR_OFF e), s.rd (LE_Ee_LD_LEN_LEN e),
        if s.leState e = leRunning then some (s.rd (LE_Ee_ADM_BOUND e)) else none) } ∧
      (∀ i, i ≠ e.val → u.engine i = s.engine i) ∧
      Touches [LE_Ee_STAT_SHADOW e, PWR_UNIT_UNIT (4 + e)] [] [.now, .resp, .out, .eng] s u := by
  have htakes : ((s.begin t).leTakesCmd e && ((s.begin t).rd (LE_Ee_STAT_SHADOW e) == 0 ||
      (s.begin t).rd (LE_Ee_STAT_SHADOW e) == 2 || (s.begin t).rd (LE_Ee_STAT_SHADOW e) == 3)) = true := by
    have hcmd : (s.begin t).leTakesCmd e = true := by
      show (s.leState e == leRunning || s.leState e == leStopped || s.leState e == leFaulted) = true
      simpa [or_assoc] using hlive
    have hfree : (s.rd (LE_Ee_STAT_SHADOW e) == 0 || s.rd (LE_Ee_STAT_SHADOW e) == 2 || s.rd (LE_Ee_STAT_SHADOW e) == 3) = true := by
      simpa [or_assoc] using hsh
    exact Bool.and_eq_true_iff.mpr ⟨hcmd, hfree⟩
  refine does_running (x := (s.begin t).leLoadCmd e) rfl hph ?_
  rw [State.leLoadCmd, if_pos htakes]
  obtain ⟨hshadow, heng, hothers, -, htouch⟩ := shadowSet_shows (s := s) (e := e.val) t { s.engine e with
    shadow := none, load := some (8 * s.rd (LE_Ee_LD_ADDR_OFF e), s.rd (LE_Ee_LD_LEN_LEN e),
      if s.leState e = leRunning then some (s.rd (LE_Ee_ADM_BOUND e)) else none) } (n := 1) (by decide)
  exact ⟨hshadow, heng, hothers, htouch⟩

theorem leLoad_refused {e : Fin 4} (hnot : ¬ (s.leState e = leRunning ∨ s.leState e = leStopped ∨ s.leState e = leFaulted) ∨
    s.rd (LE_Ee_STAT_SHADOW e) = 1 ∨ s.rd (LE_Ee_STAT_SHADOW e) = 4) (hph : s.pw.phase = .running) :
    Does (.leLoad e t) s fun u =>
      u.rd (LE_Ee_ADM_STAT_REASON e) = 0x13 ∧ u.rd (LE_Ee_STAT_ADMEV e) = 1 ∧
      Notes [28 + e] [(2, 4, 28 + e, e)] s u ∧ Touches (admFlds e) [.pend, .ingress] [.now, .resp, .out, .pw, .rcd] s u := by
  have htakes : ¬ ((s.begin t).leTakesCmd e && ((s.begin t).rd (LE_Ee_STAT_SHADOW e) == 0 ||
      (s.begin t).rd (LE_Ee_STAT_SHADOW e) == 2 || (s.begin t).rd (LE_Ee_STAT_SHADOW e) == 3)) = true := by
    intro h
    obtain ⟨hcmd, hfree⟩ := Bool.and_eq_true_iff.mp h
    have hcmd : (s.leState e == leRunning || s.leState e == leStopped || s.leState e == leFaulted) = true := hcmd
    have hfree : (s.rd (LE_Ee_STAT_SHADOW e) == 0 || s.rd (LE_Ee_STAT_SHADOW e) == 2 || s.rd (LE_Ee_STAT_SHADOW e) == 3) = true :=
      hfree
    simp only [Bool.or_eq_true, beq_iff_eq] at hcmd hfree
    omega
  refine does_running (x := (s.begin t).leLoadCmd e) rfl hph ?_
  rw [State.leLoadCmd, if_neg htakes]
  obtain ⟨hreason, -, hadm⟩ := State.admReport_shows (s.begin t) e 0x13 0
  exact ⟨hreason, hadm, (Reported.begin s t).admReport e.isLt (by decide) 0,
    (Touches.begin s t (by decide)).admReport (fun _ h => h) (by decide) (by decide) 0x13 0⟩

theorem leDiscard_does {e : Fin 4} (hsh : s.rd (LE_Ee_STAT_SHADOW e) ≠ 4) : Does (.leDiscard e t) s fun u =>
      u.rd (LE_Ee_STAT_SHADOW e) = 0 ∧ u.engine e = { s.engine e with shadow := none, load := none } ∧
      (∀ i, i ≠ e.val → u.engine i = s.engine i) ∧ u.rd (PWR_UNIT_UNIT (4 + e)) = 0 ∧
      Touches [LE_Ee_STAT_SHADOW e, PWR_UNIT_UNIT (4 + e)] [] [.now, .resp, .out, .eng] s u :=
  ⟨_, congrArg Host.Outcome.next (if_neg hsh),
    shadowSet_shows (s := s) (e := e.val) t { s.engine e with shadow := none, load := none } (n := 0) (by decide)⟩

theorem leSwap_does {e : Fin 4} (hst : s.leState e = leRunning) (hsh : s.rd (LE_Ee_STAT_SHADOW e) = 2) :
    Does (.leSwap e t) s fun u =>
      u.rd (LE_Ee_STAT_SHADOW e) = 4 ∧ Touches [LE_Ee_STAT_SHADOW e] [] [.now, .resp, .out] s u :=
  ⟨_, congrArg Host.Outcome.next (if_pos ⟨hst, hsh⟩), State.rd_wr_same ..,
    (Touches.begin s t (by decide)).wrOf (List.mem_singleton.mpr rfl) 4⟩

/-! ### The end of an admission -/

/-- A bank takes an image: engines beside it keep their state, and so does memory outside the bank. -/
theorem State.putBank_shows (s : State) (e b : Nat) (words : List Nat) :
    (∀ i, i ≠ e → (s.putBank e b words).engine i = s.engine i) ∧
      (words.length ≤ 0x40000 → ∀ p, p < leBankBase e b ∨ leBankBase e b + 0x100000 ≤ p →
        (s.putBank e b words).leByte p = s.leByte p) ∧
      (NoSoft s → Touches [] [] [.leMem, .ecc, .eng, .cvu] s (s.putBank e b words) ∧ (s.putBank e b words).regs = s.regs) := by
  unfold State.putBank
  extract_lets bs v x w
  have hunit : Kept [.cvu] [.cvu] w (w.unitWrite ((List.range 0x100000).zip (padTo 0x100000 bs) |>.map fun i =>
      (leBankBase e b + i.1, i.2))) := State.unitWrite_kept (Kept.refl _ _ w) (by decide) (by decide)
  have hregs := State.unitWrite_regs w ((List.range 0x100000).zip (padTo 0x100000 bs) |>.map fun i =>
    (leBankBase e b + i.1, i.2))
  generalize w.unitWrite ((List.range 0x100000).zip (padTo 0x100000 bs) |>.map fun i => (leBankBase e b + i.1, i.2)) = u
    at hunit hregs
  have heng : u.eng = w.eng := hunit.framed.parts .eng (by decide)
  have hmem : u.leMem = w.leMem := hunit.framed.parts .leMem (by decide)
  have hregion : Kept [] [.leMem] s (s.setLeRegion (leBankBase e b) 0x100000 (withOffsets 0 bs)) :=
    State.setLeRegion_kept (Kept.refl _ _ s) (by decide)
  have hrows : Kept [.pend, .ecc, .ingress] [.pw, .rcd, .ecc] (s.setLeRegion (leBankBase e b) 0x100000 (withOffsets 0 bs)) v :=
    State.rowsWritten_kept (Kept.refl _ _ _) (by decide) (by decide)
  have hsoft (hs : NoSoft s) : ∃ y, v = { s.setLeRegion (leBankBase e b) 0x100000 (withOffsets 0 bs) with ecc := y } :=
    State.rowsWritten_of_noSoft (hs.of_regsIn hregion.framed.regs) 4 (e * 2 ^ 16 + b * 2 ^ 15) (2 ^ 15)
  obtain ⟨y, hw⟩ : ∃ y, w = v.setEngine e y := ⟨_, rfl⟩
  clear_value w x v
  subst hw
  refine ⟨fun i hi => ?_, fun hlen p hp => ?_, fun hs => ?_⟩
  · have hv : v.eng = s.eng :=
      Eq.trans (hrows.framed.parts .eng (by decide)) (hregion.framed.parts .eng (by decide))
    rw [State.engine, heng]
    exact (State.engine_setEngine_ne v hi _).trans (by rw [State.engine, hv, State.engine])
  · have hbs : bs.length ≤ 0x100000 := by
      have hflat : bs.length = (words.map fun _ => 4).sum := by
        simp only [bs, List.length_flatten, List.map_map]
        exact congrArg List.sum (List.map_congr_left fun _ _ => leBytes_length _ _)
      rw [hflat, List.map_const', List.sum_replicate]
      simp only [smul_eq_mul]
      omega
    have hd : ∀ y ∈ withOffsets 0 bs, y.1 < 0x100000 := fun y hy => by
      obtain ⟨i, hi, hy⟩ := List.mem_map.mp (List.of_mem_zip hy).1
      rw [List.mem_range] at hi
      omega
    have hv : v.leMem = (s.setLeRegion (leBankBase e b) 0x100000 (withOffsets 0 bs)).leMem := hrows.framed.parts .leMem (by decide)
    have hw : (v.setEngine e y).leMem = v.leMem := rfl
    have hout := s.leByte_setLeRegion_of_outside hd hp
    rw [State.leByte] at hout
    rw [State.leByte, hmem, hw, hv]
    exact hout
  · obtain ⟨z, hz⟩ := hsoft hs
    have hwregs : v.regs = s.regs := by
      rw [hz]
      rfl
    have hall : u.regs = s.regs := hregs.trans hwregs
    refine ⟨⟨fun f _ _ => by rw [State.rd, hall, State.rd], fun p hp => ?_⟩, hall⟩
    have hvp : Same s v p := by
      rw [hz]
      refine Same.trans (hregion.framed.parts p fun h => hp ?_) ?_
      · rw [List.mem_singleton.mp h]
        decide
      · cases p <;> first | rfl | exact absurd (by decide) hp
    have hwp : Same v (v.setEngine e y) p := by cases p <;> first | rfl | exact absurd (by decide) hp
    refine Same.trans (Same.trans hvp hwp) (hunit.framed.parts p fun h => hp ?_)
    rw [List.mem_singleton.mp h]
    decide

/-- The bank beside the active one takes an image, where there is one. -/
def State.putImage (s : State) (e : Nat) (words : List Nat) : State :=
  if words = [] then s else s.putBank e (1 - s.leBank e) words

theorem State.putImage_shows (s : State) (e : Nat) (words : List Nat) :
    ((s.putImage e words).engine e).prog = (s.engine e).prog ∧ (∀ i, i ≠ e → (s.putImage e words).engine i = s.engine i) ∧
      (words.length ≤ 0x40000 → ∀ p, p < leBankBase e (1 - s.leBank e) ∨ leBankBase e (1 - s.leBank e) + 0x100000 ≤ p →
        (s.putImage e words).leByte p = s.leByte p) ∧
      (NoSoft s → Touches [] [] [.leMem, .ecc, .eng, .cvu] s (s.putImage e words) ∧ (s.putImage e words).regs = s.regs) := by
  unfold State.putImage
  split
  · exact ⟨rfl, fun _ _ => rfl, fun _ _ _ => rfl, fun _ => ⟨Touches.refl _ _ _ s, rfl⟩⟩
  · exact ⟨s.engine_prog_putBank e _ words e, s.putBank_shows e _ words⟩

/-- The state after an admission, before its report. -/
def State.admitted (s : State) (e : Nat) (a : Admission) : State :=
  let s := s.putImage e a.words
  let s := s.setEngine e { s.engine e with load := none, shadow := a.prog }
  let s := (s.wr (LE_Ee_SH_CLK e) a.clk).wr (LE_Ee_SH_BOUND e) a.bound
  s.wr (LE_Ee_STAT_SHADOW e) (if a.reason = 0 then 2 else 3)

/-- The fields of a shadow's state and its bounds. -/
abbrev shadowFlds (e : Nat) : List Fld := [LE_Ee_STAT_SHADOW e, LE_Ee_SH_CLK e, LE_Ee_SH_BOUND e]

theorem State.admitted_shows (s : State) (e : Nat) (a : Admission) :
    (s.admitted e a).rd (LE_Ee_STAT_SHADOW e) = (if a.reason = 0 then 2 else 3) ∧
      (s.admitted e a).rd (LE_Ee_SH_BOUND e) = a.bound % 2 ^ 32 ∧ ((s.admitted e a).engine e).load = none ∧
      ((s.admitted e a).engine e).shadow = a.prog ∧ ((s.admitted e a).engine e).prog = (s.engine e).prog ∧
      (∀ i, i ≠ e → (s.admitted e a).engine i = s.engine i) ∧
      (a.words.length ≤ 0x40000 → ∀ p, p < leBankBase e (1 - s.leBank e) ∨ leBankBase e (1 - s.leBank e) + 0x100000 ≤ p →
        (s.admitted e a).leByte p = s.leByte p) := by
  obtain ⟨hprog, hothers, hbytes, -⟩ := s.putImage_shows e a.words
  have hne : (LE_Ee_SH_BOUND e).key ≠ (LE_Ee_STAT_SHADOW e).key := by
    simp only [Fld.key, LE_Ee_SH_BOUND, LE_Ee_STAT_SHADOW]
    omega
  unfold State.admitted
  generalize s.putImage e a.words = x at hprog hothers hbytes
  have hown := State.engine_setEngine_same x e { x.engine e with load := none, shadow := a.prog }
  refine ⟨?_, ?_, congrArg Engine.load hown, congrArg Engine.shadow hown, (congrArg Engine.prog hown).trans hprog,
    fun i hi => (State.engine_setEngine_ne x hi _).trans (hothers i hi), hbytes⟩
  · dsimp only
    rw [State.rd_wr_same]
    split <;> rfl
  · dsimp only
    rw [State.rd_wr_ne _ hne, State.rd_wr_same]
    rfl

/-- Without a SOFT entry in the correction table an admission reports nothing but itself. -/
theorem State.admitted_of_noSoft (hs : NoSoft s) (e : Nat) (a : Admission) :
    Touches (shadowFlds e) [] [.leMem, .ecc, .eng, .cvu] s (s.admitted e a) ∧
      (Reported [] [] s0 s → Reported [] [] s0 (s.admitted e a)) := by
  obtain ⟨-, -, -, hsoft⟩ := s.putImage_shows e a.words
  obtain ⟨htouch, hregs⟩ := hsoft hs
  unfold State.admitted
  generalize s.putImage e a.words = x at htouch hregs
  have heng : Kept [] [.eng] x (x.setEngine e { x.engine e with load := none, shadow := a.prog }) :=
    State.setEngine_kept (Kept.refl _ _ x) (by decide)
  have hengine : Touches (shadowFlds e) [] [.leMem, .ecc, .eng, .cvu] s (x.setEngine e { x.engine e with load := none, shadow := a.prog }) :=
    (htouch.mono (List.nil_subset _)).across heng (by decide) (by decide)
  refine ⟨((hengine.wrOf (by simp) _).wrOf (by simp) _).wrOf (by simp) _, fun hrep => ?_⟩
  have hx : Reported [] [] s0 x :=
    hrep.of_parts hregs (htouch.parts .rcd (by decide)) (congrArg Power.phase (htouch.parts .pw (by decide)))
  have hset : Reported [] [] s0 (x.setEngine e { x.engine e with load := none, shadow := a.prog }) := hx.of_parts rfl rfl rfl
  exact ((hset.wr (f := LE_Ee_SH_CLK e) (Nat.ne_of_beq_eq_false rfl) (Nat.ne_of_beq_eq_false rfl)
    (Nat.ne_of_beq_eq_false rfl) _).wr (f := LE_Ee_SH_BOUND e) (Nat.ne_of_beq_eq_false rfl)
    (Nat.ne_of_beq_eq_false rfl) (Nat.ne_of_beq_eq_false rfl) _).wr (f := LE_Ee_STAT_SHADOW e)
    (Nat.ne_of_beq_eq_false rfl) (Nat.ne_of_beq_eq_false rfl) (Nat.ne_of_beq_eq_false rfl) _

/-- Where the image lies in sound rows the loader changes nothing, and has it as it stands (R448). -/
theorem State.loaderImage_of_sound {off len : Nat} (h : RangeSound s (sramBase + off) len) :
    (s.loaderImage off len).2 = s ∧
      (off + len ≤ 0x1000000 → (s.loaderImage off len).1 = some (s.seen (sramBase + off) len)) := by
  unfold State.loaderImage
  rw [h.seeRange]
  split
  · exact ⟨rfl, fun _ => rfl⟩
  · next hnot => exact ⟨rfl, fun hin => absurd hin hnot⟩

theorem leWordArea (e : Fin 4) : areaAt (0x10301050 + 0x1000 * e) ∉ ([.pend, .ecc, .cpc, .ingress] : List Area) := by
  revert e
  decide

/-- What an admission that ends is. -/
theorem exec_admissionDone {e : Fin 4} {off len : Nat} {old : Option Nat} (hload : (s.engine e).load = some (off, len, old)) :
    let image := ((s.begin t).loaderImage off len).1
    let a := admitImage image (s.rd (LE_Ee_CYC_BUDGET e)) (s.word (0x10301050 + 0x1000 * e)) old none
    exec (.admissionDone e t) s = .next ((((s.begin t).loaderImage off len).2.admitted e a).admReport e a.reason a.index) := by
  intro image a
  have hk : Kept [.pend, .ecc, .cpc, .ingress] [.mem, .leMem, .pw, .rcd, .cop, .ecc] (s.begin t)
      ((s.begin t).loaderImage off len).2 := State.loaderImage_kept (Kept.refl _ _ _) (by decide) (by decide)
  have hbudget : ((s.begin t).loaderImage off len).2.rd (LE_Ee_CYC_BUDGET e) = s.rd (LE_Ee_CYC_BUDGET e) :=
    hk.framed.regs _ (by show Area.le ∉ _; decide)
  have hword : ((s.begin t).loaderImage off len).2.word (0x10301050 + 0x1000 * e) = s.word (0x10301050 + 0x1000 * e) :=
    State.word_kept hk (leWordArea e)
  have hloads : ((s.begin t).engine e).load = some (off, len, old) := hload
  show Host.Outcome.next ((s.begin t).admissionDone e) = _
  rw [State.admissionDone, hloads]
  dsimp only
  rw [hbudget, hword]
  rfl

/-- The end of an admission, whatever rows it has read. -/
theorem admissionDone_shows {e : Fin 4} {off len : Nat} {old : Option Nat} (hload : (s.engine e).load = some (off, len, old)) :
    let image := ((s.begin t).loaderImage off len).1
    let a := admitImage image (s.rd (LE_Ee_CYC_BUDGET e)) (s.word (0x10301050 + 0x1000 * e)) old none
    let report := [LE_Ee_STAT_ADMEV e, LE_Ee_ADM_STAT_REASON e, LE_Ee_ADM_STAT_INDEX e]
    Does (.admissionDone e t) s fun u =>
      u.rd (LE_Ee_ADM_STAT_REASON e) = a.reason % 256 ∧ u.rd (LE_Ee_ADM_STAT_INDEX e) = a.index % 2 ^ 18 ∧
      u.rd (LE_Ee_STAT_ADMEV e) = 1 ∧ u.rd (LE_Ee_STAT_SHADOW e) = (if a.reason = 0 then 2 else 3) ∧
      u.rd (LE_Ee_SH_BOUND e) = a.bound % 2 ^ 32 ∧ (u.engine e).load = none ∧ (u.engine e).shadow = a.prog ∧
      (u.engine e).prog = (s.engine e).prog ∧ (∀ i, i ≠ e.val → u.engine i = s.engine i) ∧
      (RangeSound s (sramBase + off) len → off + len ≤ 0x1000000 → image = some (s.seen (sramBase + off) len)) ∧
      (RangeSound s (sramBase + off) len → NoSoft s →
        (∀ p, p < leBankBase e (1 - s.leBank e) ∨ leBankBase e (1 - s.leBank e) + 0x100000 ≤ p →
          a.words.length ≤ 0x40000 → u.leByte p = s.leByte p) ∧
        (a.reason = 0 → Raised [28 + e] s u) ∧ (a.reason ≠ 0 → Notes [28 + e] [(2, 4, 28 + e, e)] s u) ∧
        Touches (report ++ [LE_Ee_STAT_SHADOW e, LE_Ee_SH_CLK e, LE_Ee_SH_BOUND e]) [.pend, .ecc, .ingress, .cvu]
          [.now, .leMem, .resp, .out, .pw, .rcd, .ecc, .cvu, .eng] s u) := by
  intro image a report
  have hexec : exec (.admissionDone e t) s =
      .next ((((s.begin t).loaderImage off len).2.admitted e a).admReport e a.reason a.index) := exec_admissionDone hload
  refine ⟨_, hexec, ?_⟩
  have hk : Kept [.pend, .ecc, .cpc, .ingress] [.mem, .leMem, .pw, .rcd, .cop, .ecc] (s.begin t)
      ((s.begin t).loaderImage off len).2 := State.loaderImage_kept (Kept.refl _ _ _) (by decide) (by decide)
  have heng : ((s.begin t).loaderImage off len).2.eng = s.eng := hk.framed.parts .eng (by decide)
  have hengine (i : Nat) : ((s.begin t).loaderImage off len).2.engine i = s.engine i := by
    rw [State.engine, heng, State.engine]
  have hbank : ((s.begin t).loaderImage off len).2.leBank e = s.leBank e := hk.framed.regs _ (by show Area.le ∉ _; decide)
  have hsame (h : RangeSound s (sramBase + off) len) : ((s.begin t).loaderImage off len).2 = s.begin t :=
    (State.loaderImage_of_sound (s := s.begin t) h).1
  have himage (h : RangeSound s (sramBase + off) len) (hin : off + len ≤ 0x1000000) :
      image = some (s.seen (sramBase + off) len) := by
    rw [show image = _ from (State.loaderImage_of_sound (s := s.begin t) h).2 hin, RangeSound.seen h]
    exact congrArg some (RangeSound.seen (s := s.begin t) h)
  clear_value a image
  clear hexec
  generalize ((s.begin t).loaderImage off len).2 = v at hengine hbank hsame
  obtain ⟨hreason, hindex, hadm⟩ := State.admReport_shows (v.admitted e a) e a.reason a.index
  obtain ⟨hshadow, hbound, hload', hprog, hold, hothers, hbytes⟩ := v.admitted_shows e a
  have hrd (f : Fld) (hf : f = LE_Ee_STAT_SHADOW e ∨ f = LE_Ee_SH_BOUND e) :
      ((v.admitted e a).admReport e a.reason a.index).rd f = (v.admitted e a).rd f := by
    have hkeys : f.key ≠ (LE_Ee_ADM_STAT_REASON e).key ∧ f.key ≠ (LE_Ee_ADM_STAT_INDEX e).key ∧ f.key ≠ (LE_Ee_STAT_ADMEV e).key := by
      rcases hf with rfl | rfl <;> simp only [Fld.key, LE_Ee_ADM_STAT_REASON, LE_Ee_ADM_STAT_INDEX, LE_Ee_STAT_ADMEV,
        LE_Ee_STAT_SHADOW, LE_Ee_SH_BOUND] <;> omega
    obtain ⟨h1, h2, h3⟩ := hkeys
    have hcode : f.area.code ≠ 5 ∧ f.area.code ≠ 19 := by
      rcases hf with rfl | rfl <;> exact ⟨Nat.ne_of_beq_eq_false rfl, Nat.ne_of_beq_eq_false rfl⟩
    rw [State.rd_admReport hcode.1 hcode.2, State.rd_wr_ne _ h3, State.rd_wr_ne _ h2, State.rd_wr_ne _ h1]
  have hreng (i : Nat) : ((v.admitted e a).admReport e a.reason a.index).engine i = (v.admitted e a).engine i :=
    (State.engine_admReport ..).1
  dsimp only
  rw [hrd _ (.inl rfl), hrd _ (.inr rfl), hreng]
  refine ⟨hreason, hindex, hadm, hshadow, hbound, hload', hprog, hold.trans (congrArg Engine.prog (hengine e)),
    fun i hi => (hreng i).trans ((hothers i hi).trans (hengine i)), himage, fun hs hsoft => ?_⟩
  obtain rfl := hsame hs
  obtain ⟨htouch, hrep⟩ := State.admitted_of_noSoft (s := s.begin t) (s0 := s) hsoft e a
  have hrep := hrep (Reported.begin s t)
  refine ⟨fun p hp hlen => ?_, fun hzero => ?_, fun hne => hrep.admReport e.isLt hne a.index, ?_⟩
  · have hleMem : ((((s.begin t).admitted e a).admReport e a.reason a.index)).leMem = ((s.begin t).admitted e a).leMem :=
      (State.engine_admReport _ e _ _ 0).2
    rw [State.leByte, hleMem]
    exact hbytes hlen p (hbank ▸ hp)
  · rw [hzero]
    exact (hrep.toRaises.admReport e.isLt a.index).raised
  · have hbegin : Touches (report ++ [LE_Ee_STAT_SHADOW e, LE_Ee_SH_CLK e, LE_Ee_SH_BOUND e]) [.pend, .ecc, .ingress, .cvu]
        [.now, .leMem, .resp, .out, .pw, .rcd, .ecc, .cvu, .eng] s (s.begin t) := Touches.begin s t (by decide)
    exact (hbegin.trans htouch (List.subset_append_right _ _) (by decide) (by decide)).admReport
      (List.subset_append_left _ _) (by decide) (by decide) _ _

end

/-- Settles O32: a load waits for its admission, whose report, shadow and bank follow from what the checker finds; without
errors in the image's rows and SOFT entries nothing else happens. -/
theorem leLoading : Obligations.LeLoading := by
  intro s e off len old t
  exact ⟨leLoad_does, leLoad_refused, admissionDone_shows, leDiscard_does, leSwap_does⟩

end Sys2Proof.Machine

/-! ## What stands do to an engine's memories (R163, R164, R210): loads, stores, forces -/

namespace Sys2Proof.Machine

section
variable {s u w s0 : State} {e : Fin 4} {hart : Fin 12} {addr : BitVec 36} {size : Fin 4} {v : BitVec 64} {t : Nat}

/-! ### Where an access goes -/

/-- An aligned access inside the range of an engine. -/
def AtEngine (e a n : Nat) : Prop :=
  0x20000000 + 0x400000 * e ≤ a ∧ a + n ≤ 0x20280000 + 0x400000 * e ∧ a % n = 0

theorem AtEngine.leWhere {a n : Nat} (h : AtEngine e a n) :
    leWhere a n = some (e.val, a % 0x400000) ∧ a % 0x400000 = a - (0x20000000 + 0x400000 * e) := by
  obtain ⟨hlo, hhi, hal⟩ := h
  have he := e.isLt
  have hquot : a / 0x400000 % 4 = e.val := by omega
  have hoff : a % 0x400000 = a - (0x20000000 + 0x400000 * e) := by omega
  refine ⟨?_, hoff⟩
  unfold Machine.leWhere
  dsimp only
  rw [hquot, if_neg]
  simp only [inRange, Bool.not_eq_true', Bool.and_eq_false_iff, decide_eq_false_iff_not]
  omega

/-! ### Loads -/

/-- A load from a row without error answers its bytes. -/
theorem leLoadAt_of_sound {a n off : Nat} (hw : leWhere a n = some (e.val, off))
    (hrow : s.rowErr (leRowOf e off).1 (leRowOf e off).2 = 0) (master cause : Nat) :
    s.leLoadAt master cause a n = s.answer (.ok (leNat (s.leBytesAt a n))) := by
  have hsee : s.seeRows master cause [leRowOf e off] = (false, s) :=
    State.seeRows_of_sound (List.forall_mem_singleton.mpr hrow) master cause
  rw [State.leLoadAt, hw]
  dsimp only
  rw [hsee]
  rfl

/-- A reader that meets an uncorrectable row stops there, and the error log names the row (R451). -/
theorem State.seeRows_of_bad {memid row : Nat} (hm : memid ≠ 3) (ht : s.isTestRow memid row = false)
    (hb : s.rowBad memid row = true) (master cause : Nat) :
    ∃ r, r.bad = true ∧ s.seeRows master cause [(memid, row)] =
      (true, (s.setErr memid row (s.rowErr memid row)).uncorrectable memid row r master cause) := by
  obtain ⟨hne, hbad⟩ : s.rowErr memid row ≠ 0 ∧ (eccResult (rsDecode (patSyms (s.rowErr memid row)))).bad = true := by
    rw [State.rowBad] at hb
    simpa using hb
  generalize hr : eccResult (rsDecode (patSyms (s.rowErr memid row))) = r at hbad
  have hread : s.readRow memid row 0 (s.clears memid row) false master cause false =
      (r, (s.setErr memid row (s.rowErr memid row)).uncorrectable memid row r master cause) := by
    unfold State.readRow
    dsimp only
    rw [Nat.xor_zero, hr, ht, if_neg Bool.false_ne_true, if_neg hm]
    cases r <;> first | rfl | exact absurd hbad (by decide)
  refine ⟨r, hbad, ?_⟩
  rw [State.seeRows, if_neg hne, hread]
  dsimp only
  rw [if_pos hbad]

theorem State.uncorrectable_shows (s : State) {memid row : Nat} (hm : memid < 16) (hrow : row < 2 ^ 28) (r : EccResult)
    (master cause : Nat) :
    let u := s.uncorrectable memid row r master cause
    u.rd ECC_UE_LOC_MEMID = memid ∧ u.rd ECC_UE_LOC_ROW = row ∧ u.rd ECC_STAT_UEEV = 1 := by
  unfold State.uncorrectable
  extract_lets v1 v2 v3 v4 v5
  have hlog (f : Fld) (hp : f.area.code ≠ 5) (hi : f.area.code ≠ 19)
      (haf : f.key ≠ ECC_UE_CNT_AF.key ∧ f.key ≠ ECC_STAT_AFEV.key)
      (hinfo : f.key ≠ ECC_UE_INFO_RESULT.key ∧ f.key ≠ ECC_UE_INFO_MASTER.key ∧ f.key ≠ ECC_UE_INFO_CAUSE.key ∧
        f.key ≠ ECC_UE_TIME_LO.key ∧ f.key ≠ ECC_UE_TIME_HI.key) :
      (v5.record 1 5 (if r = .addrFault then 34 else 33) 0xFFFF (some 0x10400000) (some 0x10400014)).rd f = v2.rd f := by
    obtain ⟨hcnt, hev⟩ := haf
    obtain ⟨hres, hmaster, hcause, hlo, hhi⟩ := hinfo
    have h4 : v4.rd f = v2.rd f := by
      rw [show v4 = ((v3.wr ECC_UE_TIME_LO _).wr ECC_UE_TIME_HI _).raise 33 from rfl, State.rd_raise_code hp,
        State.rd_wr_ne _ hhi, State.rd_wr_ne _ hlo, State.rd_wr_ne _ hcause, State.rd_wr_ne _ hmaster, State.rd_wr_ne _ hres]
    rw [State.rd_record_code hp hi, ← h4]
    show (if r = .addrFault then ((v4.bump ECC_UE_CNT_AF).wr ECC_STAT_AFEV 1).raise 34 else v4).rd f = _
    split
    · rw [State.rd_raise_code hp, State.rd_wr_ne _ hev, State.bump_eq, State.rd_wr_ne _ hcnt]
    · rfl
  refine ⟨?_, ?_, ?_⟩
  · rw [hlog _ (by decide) (by decide) (by decide) (by decide), State.rd_wr_same]
    exact Nat.mod_eq_of_lt hm
  · rw [hlog _ (by decide) (by decide) (by decide) (by decide), State.rd_wr_ne _ (by decide), State.rd_wr_same]
    exact Nat.mod_eq_of_lt hrow
  · rw [hlog _ (by decide) (by decide) (by decide) (by decide), State.rd_wr_ne _ (by decide), State.rd_wr_ne _ (by decide),
      State.rd_wr_same]
    rfl

theorem leRowOf_lt {e off : Nat} (he : e < 4) : (leRowOf e off).1 ∈ [4, 5] ∧ (leRowOf e off).2 < 2 ^ 28 := by
  unfold leRowOf
  split
  · exact ⟨List.mem_cons_self, by dsimp only; omega⟩
  · exact ⟨List.mem_cons_of_mem _ List.mem_cons_self, by dsimp only; omega⟩

/-- A load from an uncorrectable row faults, and the error log names the row. -/
theorem leLoadAt_of_bad {a n off : Nat} (hw : leWhere a n = some (e.val, off))
    (ht : s.isTestRow (leRowOf e off).1 (leRowOf e off).2 = false)
    (hb : s.rowBad (leRowOf e off).1 (leRowOf e off).2 = true) (master cause : Nat) :
    let u := s.leLoadAt master cause a n
    u.resp = .loadFault ∧ u.rd ECC_UE_LOC_MEMID = (leRowOf e off).1 ∧ u.rd ECC_UE_LOC_ROW = (leRowOf e off).2 ∧
      u.rd ECC_STAT_UEEV = 1 := by
  intro u
  obtain ⟨hmem, hlt⟩ := leRowOf_lt (off := off) e.isLt
  have hu : u = if (s.seeRows master cause [leRowOf e off]).1 then (s.seeRows master cause [leRowOf e off]).2.answer .loadFault
      else (s.seeRows master cause [leRowOf e off]).2.answer
        (.ok (leNat ((s.seeRows master cause [leRowOf e off]).2.leBytesAt a n))) := by
    show s.leLoadAt master cause a n = _
    rw [State.leLoadAt, hw]
  generalize leRowOf e off = row at *
  obtain ⟨memid, row⟩ := row
  have hmemid : memid ≠ 3 ∧ memid < 16 := by
    simp only [List.mem_cons, List.not_mem_nil, or_false] at hmem
    omega
  obtain ⟨r, -, hsee⟩ := State.seeRows_of_bad hmemid.1 ht hb master cause
  rw [hsee, if_pos rfl] at hu
  rw [hu]
  exact ⟨rfl, State.uncorrectable_shows _ hmemid.2 hlt r master cause⟩

theorem State.begin_isTestRow (s : State) (t memid row : Nat) : (s.begin t).isTestRow memid row = s.isTestRow memid row := by
  have htest : (s.begin t).testRow = s.testRow := State.testRow_congr (State.begin_rd ..) (State.begin_rd ..)
  have harm : (s.begin t).flag ECC_TST_ADDR_HI_ARM = s.flag ECC_TST_ADDR_HI_ARM := rfl
  rw [State.isTestRow, htest, harm, State.isTestRow]

theorem standLoad_does {off : Nat} (hw : leWhere addr.toNat (2 ^ size.val) = some (e.val, off)) (hrun : s.hartRuns hart = true) :
    (s.rowErr (leRowOf e off).1 (leRowOf e off).2 = 0 → Does (.standLeMemoryAccess hart addr size none t) s fun u =>
        u.resp = .ok (leNat (s.leBytesAt addr.toNat (2 ^ size.val))) ∧ Touches [] [] [.now, .resp, .out] s u) ∧
      (s.isTestRow (leRowOf e off).1 (leRowOf e off).2 = false → s.rowBad (leRowOf e off).1 (leRowOf e off).2 = true →
        Does (.standLeMemoryAccess hart addr size none t) s fun u =>
        u.resp = .loadFault ∧ u.rd ECC_UE_LOC_MEMID = (leRowOf e off).1 ∧ u.rd ECC_UE_LOC_ROW = (leRowOf e off).2 ∧
          u.rd ECC_STAT_UEEV = 1) := by
  have hexec : exec (.standLeMemoryAccess hart addr size none t) s =
      .next ((s.begin t).leLoadAt (hartStand hart) 0 addr.toNat (2 ^ size.val)) := by
    have hrun : (s.begin t).hartRuns hart = true := hrun
    show Host.Outcome.next (if !(s.begin t).hartRuns hart then _ else _) = _
    rw [hrun]
    rfl
  have hsound := leLoadAt_of_sound (s := s.begin t) hw
  have hbad := leLoadAt_of_bad (s := s.begin t) hw
  generalize leRowOf e off = row at hsound hbad ⊢
  refine ⟨fun hrow => ⟨_, hexec.trans (congrArg Host.Outcome.next (hsound hrow _ _)), rfl, ?_⟩,
    fun ht hb => ⟨_, hexec, hbad ((State.begin_isTestRow ..).trans ht) hb _ _⟩⟩
  exact (Touches.begin s t (by decide)).answer (by decide) _

/-! ### Stores into the staging copy of the host window -/

/-- A stretch of a list that another replaces. -/
theorem getD_splice {α : Type} {d : α} {l bs : List α} {k j : Nat} (hk : k + bs.length ≤ l.length) :
    (l.take k ++ bs ++ l.drop (k + bs.length)).getD j d =
      if inRange k (k + bs.length) j then bs.getD (j - k) d else l.getD j d := by
  have htake : (l.take k).length = k := by rw [List.length_take]; omega
  simp only [List.getD_eq_getElem?_getD, List.append_assoc, inRange, Bool.and_eq_true, decide_eq_true_eq]
  rcases Nat.lt_or_ge j k with hj | hj
  · rw [if_neg (by omega), List.getElem?_append_left (by omega), List.getElem?_take_of_lt hj]
  · rw [List.getElem?_append_right (by omega), htake]
    rcases Nat.lt_or_ge (j - k) bs.length with hb | hb
    · rw [if_pos (by omega), List.getElem?_append_left hb]
    · rw [if_neg (by omega), List.getElem?_append_right hb, List.getElem?_drop,
        show k + bs.length + (j - k - bs.length) = j by omega]

theorem getD_leBytes {n v i : Nat} (h : i < n) : (leBytes n v).getD i 0 = byteOf (v / 256 ^ i) := by
  have hlen : i < (leBytes n v).length := by rwa [leBytes_length]
  rw [List.getD_eq_getElem?_getD, List.getElem?_eq_getElem hlen, getElem_leBytes hlen]
  rfl

theorem padTo_length (n : Nat) (bs : List Byte) : (padTo n bs).length = n := by
  rw [padTo, List.length_append, List.length_take, List.length_replicate]
  omega

/-- The staging copy of an engine after a store of n bytes at an offset of its window. -/
def State.stagedAt (s : State) (e k : Nat) (bs : List Byte) : List Byte :=
  let st := padTo (s.winSize e) (s.engine e).staging
  st.take k ++ bs ++ st.drop (k + bs.length)

/-- Where the host window of an engine begins in the module's map. -/
abbrev hostWin (s : State) (e : Nat) : Nat := 0x20200000 + 0x400000 * e + s.winBase e

theorem State.leStoreAt_inside {a : Nat} {bs : List Byte} (ha : AtEngine e a bs.length) (hlo : hostWin s e ≤ a)
    (hhi : a + bs.length ≤ hostWin s e + s.winSize e) :
    s.leStoreAt a bs = ((s.setEngine e { s.engine e with staging := s.stagedAt e (a - hostWin s e) bs }).unitWrite
      (((List.range bs.length).map (a + ·)).zip bs)).answer .done := by
  obtain ⟨hw, hoff⟩ := ha.leWhere
  obtain ⟨hle, -⟩ := ha
  have hwin : hostWin s e = 0x20200000 + 0x400000 * e + s.winBase e := rfl
  have hk : a % 0x400000 - (0x200000 + s.winBase e) = a - hostWin s e := by omega
  rw [State.leStoreAt, hw]
  dsimp only
  rw [hk, if_pos (by omega)]
  rfl

theorem State.leStoreAt_outside {a : Nat} {bs : List Byte} (ha : AtEngine e a bs.length)
    (hout : a < hostWin s e ∨ hostWin s e + s.winSize e < a + bs.length) : s.leStoreAt a bs = s.answer .storeFault := by
  obtain ⟨hw, hoff⟩ := ha.leWhere
  obtain ⟨hle, -⟩ := ha
  have hwin : hostWin s e = 0x20200000 + 0x400000 * e + s.winBase e := rfl
  rw [State.leStoreAt, hw]
  exact if_neg (by omega)

/-- What a store in the host window shows. -/
def StagedInto (e a n v : Nat) (s u : State) : Prop :=
  u.resp = .done ∧ (∀ k, k < s.winSize e → (u.engine e).staging.getD k 0 =
      if inRange (a - hostWin s e) (a - hostWin s e + n) k then BitVec.ofNat 8 (v / 256 ^ (k - (a - hostWin s e)))
      else (padTo (s.winSize e) (s.engine e).staging).getD k 0) ∧
    u.engine e = { s.engine e with staging := (u.engine e).staging } ∧ (∀ i, i ≠ e → u.engine i = s.engine i) ∧
    Touches [] [.cvu] [.now, .resp, .out, .eng, .cvu] s u

theorem staged_leStoreAt {a n v : Nat} (ha : AtEngine e a n) (hlo : hostWin s e ≤ a)
    (hhi : a + n ≤ hostWin s e + s.winSize e) : StagedInto e a n v s ((s.begin t).leStoreAt a (leBytes n v)) := by
  have hlen := leBytes_length n v
  rw [State.leStoreAt_inside (s := s.begin t) (hlen.symm ▸ ha) hlo (by rw [hlen]; exact hhi)]
  have hset : Kept [] [.eng] (s.begin t) ((s.begin t).setEngine e
      { s.engine e with staging := s.stagedAt e (a - hostWin s e) (leBytes n v) }) := State.setEngine_kept (Kept.refl _ _ _) (by decide)
  have hown : ((s.begin t).setEngine e { s.engine e with staging := s.stagedAt e (a - hostWin s e) (leBytes n v) }).engine e =
      { s.engine e with staging := s.stagedAt e (a - hostWin s e) (leBytes n v) } := State.engine_setEngine_same _ _ _
  have hothers (i : Nat) (hi : i ≠ e.val) : ((s.begin t).setEngine e
      { s.engine e with staging := s.stagedAt e (a - hostWin s e) (leBytes n v) }).engine i = s.engine i :=
    State.engine_setEngine_ne _ hi _
  have hst (k : Nat) : (s.stagedAt e (a - hostWin s e) (leBytes n v)).getD k 0 =
      if inRange (a - hostWin s e) (a - hostWin s e + n) k then BitVec.ofNat 8 (v / 256 ^ (k - (a - hostWin s e)))
      else (padTo (s.winSize e) (s.engine e).staging).getD k 0 := by
    have hpad : a - hostWin s e + (leBytes n v).length ≤ (padTo (s.winSize e) (s.engine e).staging).length := by
      rw [hlen, padTo_length]
      omega
    unfold State.stagedAt
    dsimp only
    rw [getD_splice hpad, hlen]
    split
    · next hin =>
      rw [inRange, Bool.and_eq_true, decide_eq_true_eq, decide_eq_true_eq] at hin
      exact getD_leBytes (by omega)
    · rfl
  have hunit : Kept [.cvu] [.cvu] ((s.begin t).setEngine e { s.engine e with
      staging := s.stagedAt e (a - hostWin s e) (leBytes n v) }) (((s.begin t).setEngine e { s.engine e with
        staging := s.stagedAt e (a - hostWin s e) (leBytes n v) }).unitWrite
          (((List.range (leBytes n v).length).map (a + ·)).zip (leBytes n v))) :=
    State.unitWrite_kept (Kept.refl _ _ _) (by decide) (by decide)
  have htouch : Touches [] [.cvu] [.now, .resp, .out, .eng, .cvu] s ((s.begin t).setEngine e
      { s.engine e with staging := s.stagedAt e (a - hostWin s e) (leBytes n v) }) :=
    (Touches.begin s t (by decide)).across hset (by decide) (by decide)
  show StagedInto e a n v s (State.answer (State.unitWrite ((s.begin t).setEngine e
    { s.engine e with staging := s.stagedAt e (a - hostWin s e) (leBytes n v) }) _) .done)
  generalize (s.begin t).setEngine e { s.engine e with staging := s.stagedAt e (a - hostWin s e) (leBytes n v) } = x at *
  generalize x.unitWrite (((List.range (leBytes n v).length).map (a + ·)).zip (leBytes n v)) = y at *
  have heng (i : Nat) : (y.answer .done).engine i = x.engine i := by
    have h : (y.answer .done).eng = x.eng := hunit.framed.parts .eng (by decide)
    rw [State.engine, h, State.engine]
  refine ⟨rfl, fun k _ => ?_, ?_, fun i hi => (heng i).trans (hothers i hi),
    (htouch.across hunit (by decide) (by decide)).answer (by decide) _⟩
  · rw [heng, hown]
    exact hst k
  · rw [heng, hown]

theorem standStore_does (ha : AtEngine e addr.toNat (2 ^ size.val)) (hrun : s.hartRuns hart = true)
    (hsplit : s.hartSplit hart = false) (hlo : hostWin s e ≤ addr.toNat)
    (hhi : addr.toNat + 2 ^ size.val ≤ hostWin s e + s.winSize e) :
    Does (.standLeMemoryAccess hart addr size (some v) t) s (StagedInto e addr.toNat (2 ^ size.val) v.toNat s) ∧
      Does (.hostWindowWrite hart addr size v t) s (StagedInto e addr.toNat (2 ^ size.val) v.toNat s) := by
  have hrun : (s.begin t).hartRuns hart = true := hrun
  have hopen : (s.begin t).splitOpen hart addr.toNat (2 ^ size.val) = true := by
    have hsplit : (s.begin t).hartSplit hart = false := hsplit
    rw [State.splitOpen, hsplit]
    rfl
  have hstore : (s.begin t).hartLeStore hart addr.toNat size v.toNat =
      (s.begin t).leStoreAt addr.toNat (leBytes (2 ^ size.val) v.toNat) := by
    rw [State.hartLeStore, if_pos hopen]
  refine ⟨⟨_, ?_, staged_leStoreAt (t := t) ha hlo hhi⟩, ⟨_, ?_, staged_leStoreAt (t := t) ha hlo hhi⟩⟩
  · rw [← hstore]
    show Host.Outcome.next (if !(s.begin t).hartRuns hart then _ else _) = _
    rw [hrun]
    rfl
  · rw [← hstore]
    exact congrArg Host.Outcome.next (if_pos hrun)

theorem hostWindowWrite_outside (ha : AtEngine e addr.toNat (2 ^ size.val)) (hrun : s.hartRuns hart = true)
    (hout : addr.toNat < hostWin s e ∨ hostWin s e + s.winSize e < addr.toNat + 2 ^ size.val) :
    Does (.hostWindowWrite hart addr size v t) s fun u => u.resp = .storeFault ∧ Touches [] [] [.now, .resp, .out] s u := by
  have hrun : (s.begin t).hartRuns hart = true := hrun
  have hlen := leBytes_length (2 ^ size.val) v.toNat
  have hfault : (s.begin t).hartLeStore hart addr.toNat size v.toNat = (s.begin t).answer .storeFault := by
    rw [State.hartLeStore]
    split
    · exact State.leStoreAt_outside (s := s.begin t) (hlen.symm ▸ ha) (by rw [hlen]; exact hout)
    · rfl
  refine ⟨(s.begin t).answer .storeFault, ?_, rfl, (Touches.begin s t (by decide)).answer (by decide) _⟩
  exact (congrArg Host.Outcome.next (if_pos hrun)).trans (congrArg Host.Outcome.next hfault)

end

end Sys2Proof.Machine

/-! ## Forces and the debug transport at a logic engine (R229 to R235): O35 -/

namespace Sys2Proof.Machine

section
variable {s u w x : State} {e : Fin 4} {t : Nat}

/-! ### Forces (R229 to R231) -/

/-- The orphans found afresh change neither an engine nor the entries' own registers. -/
theorem State.syncForces_shows (s : State) (e : Nat) :
    (∀ i, (s.syncForces e).engine i = s.engine i) ∧
      ∀ f : Fld, f.area = .le → f.lo < 32 → 0x10301800 + 0x1000 * e ≤ f.addr → (s.syncForces e).rd f = s.rd f := by
  have hk : Kept [.pend, .le] [] s (s.syncForces e) := State.syncForces_kept (Kept.refl _ _ s) (by decide)
  have heng : (s.syncForces e).eng = s.eng := hk.framed.parts .eng (by decide)
  refine ⟨fun i => by rw [State.engine, heng, State.engine], fun f ha hlo hf => ?_⟩
  have hcode : f.area.code ≠ 5 := by
    rw [ha]
    decide
  have hne {g : Fld} (hg : g.lo < 32) (h : g.addr < 0x10301800 + 0x1000 * e) : f.key ≠ g.key :=
    (Fld.key_ne_of_addr_lt hg (by omega)).symm
  unfold State.syncForces
  extract_lets r old on orphans v1 v2
  have h1 : v1.rd f = s.rd f := by
    refine List.foldlRecOn (motive := fun v : State => v.rd f = s.rd f) _ _ rfl fun v hv j hj => ?_
    refine (State.rd_wr_ne v (hne (g := LE_Ee_ORPHANj e j) (Nat.le_of_ble_eq_true rfl) ?_) _).trans hv
    have hj : j < 8 := List.mem_range.mp hj
    rw [LE_Ee_ORPHANj]
    dsimp only
    omega
  have hstat : (LE_Ee_FRC_STAT_ORPHANS e).addr < 0x10301800 + 0x1000 * e := by
    rw [LE_Ee_FRC_STAT_ORPHANS]
    dsimp only
    omega
  have h2 : v2.rd f = s.rd f := by
    rw [← h1]
    exact (State.rd_wr_ne _ (hne (g := LE_Ee_FRC_STAT_ORPHANS e) (Nat.le_of_ble_eq_true rfl) hstat) _).trans
      (State.rd_wr_ne _ (hne (g := LE_Ee_FRC_STAT_ACTIVE e) (Nat.le_of_ble_eq_true rfl) hstat) _)
  split
  · rw [State.rd_raise_code hcode, State.rd_wr_ne _ (hne (g := LE_Ee_STAT_ORPHEV e) (Nat.le_of_ble_eq_true rfl) (by
      rw [LE_Ee_STAT_ORPHEV]
      dsimp only
      omega)), h2]
  · exact h2

/-- The fields of a force entry. -/
abbrev forceFlds (e j : Nat) : List Fld :=
  [LE_Ee_FRCi_ADDR_ADDR e j, LE_Ee_FRCi_ADDR_BIT e j, LE_Ee_FRCi_ADDR_WORD e j, LE_Ee_FRCi_ADDR_EN e j]

/-- An entry is what its fields and its committed value say. -/
theorem State.force_congr {e j : Nat} (hf : ∀ f ∈ forceFlds e j, u.rd f = s.rd f)
    (hval : tblGet 0 j (u.engine e).fval = tblGet 0 j (s.engine e).fval) : u.force e j = s.force e j := by
  simp only [List.forall_mem_cons] at hf
  obtain ⟨haddr, hbit, hword, hen, -⟩ := hf
  unfold State.force
  rw [State.flag_congr hen, State.flag_congr hword, haddr, hbit, hval]

/-- The writes of an entry that is committed. -/
def State.forceSet (s : State) (e i addr bit : Nat) (word : Bool) : State :=
  (((s.wr (LE_Ee_FRCi_ADDR_ADDR e i) addr).wr (LE_Ee_FRCi_ADDR_BIT e i) bit).wrB (LE_Ee_FRCi_ADDR_WORD e i) word).wrB
    (LE_Ee_FRCi_ADDR_EN e i) true

theorem State.forceSet_shows (s : State) (e i addr bit : Nat) (word : Bool) :
    let u := s.forceSet e i addr bit word
    u.rd (LE_Ee_FRCi_ADDR_ADDR e i) = addr % 2 ^ 14 ∧ u.rd (LE_Ee_FRCi_ADDR_BIT e i) = bit % 2 ^ 3 ∧
      u.flag (LE_Ee_FRCi_ADDR_WORD e i) = word ∧ u.flag (LE_Ee_FRCi_ADDR_EN e i) = true ∧
      ∀ f : Fld, f.lo < 32 → f.addr ≠ 0x10301800 + 0x1000 * e + 0x8 * i → u.rd f = s.rd f := by
  have hkeys : (LE_Ee_FRCi_ADDR_ADDR e i).key ≠ (LE_Ee_FRCi_ADDR_BIT e i).key ∧
      (LE_Ee_FRCi_ADDR_ADDR e i).key ≠ (LE_Ee_FRCi_ADDR_WORD e i).key ∧
      (LE_Ee_FRCi_ADDR_ADDR e i).key ≠ (LE_Ee_FRCi_ADDR_EN e i).key ∧
      (LE_Ee_FRCi_ADDR_BIT e i).key ≠ (LE_Ee_FRCi_ADDR_WORD e i).key ∧
      (LE_Ee_FRCi_ADDR_BIT e i).key ≠ (LE_Ee_FRCi_ADDR_EN e i).key ∧
      (LE_Ee_FRCi_ADDR_WORD e i).key ≠ (LE_Ee_FRCi_ADDR_EN e i).key := by
    simp only [Fld.key, LE_Ee_FRCi_ADDR_ADDR, LE_Ee_FRCi_ADDR_BIT, LE_Ee_FRCi_ADDR_WORD, LE_Ee_FRCi_ADDR_EN]
    omega
  obtain ⟨hab, haw, hae, hbw, hbe, hwe⟩ := hkeys
  unfold State.forceSet
  refine ⟨?_, ?_, ?_, ?_, fun f hlo hf => ?_⟩
  · simp (disch := assumption) only [State.wrB_eq, State.rd_wr_ne, State.rd_wr_same]
    rfl
  · simp (disch := assumption) only [State.wrB_eq, State.rd_wr_ne, State.rd_wr_same]
    rfl
  · exact (State.flag_congr (State.rd_wr_ne _ hwe _)).trans (State.flag_wrB_same (f := LE_Ee_FRCi_ADDR_WORD e i) _ Nat.one_pos _)
  · exact State.flag_wrB_same _ Nat.one_pos _
  · have hne {g : Fld} (hg : g.lo < 32) (h : g.addr = 0x10301800 + 0x1000 * e + 0x8 * i) : f.key ≠ g.key :=
      Fld.key_ne_of_addr_ne hlo hg (h ▸ hf)
    rw [State.wrB_eq, State.wrB_eq, State.rd_wr_ne _ (hne (Nat.le_of_ble_eq_true rfl) rfl),
      State.rd_wr_ne _ (hne (Nat.le_of_ble_eq_true rfl) rfl), State.rd_wr_ne _ (hne (Nat.le_of_ble_eq_true rfl) rfl),
      State.rd_wr_ne _ (hne (Nat.le_of_ble_eq_true rfl) rfl)]

/-- A force is committed, with its value (R229). -/
theorem forceCommit_does {i : Fin 256} {w : BitVec 32} (hen : bitAt w.toNat 31 = true)
    (hal : bitAt w.toNat 20 = true → bitsAt w.toNat 0 14 % 4 = 0)
    (hsafe : s.coversSafe (bitsAt w.toNat 0 14) (if bitAt w.toNat 20 then 4 else 1) (bitsAt w.toNat 16 3) = false)
    (hph : s.pw.phase = .running) : Does (.forceCommit e i w t) s fun u =>
      u.force e i = some ⟨bitsAt w.toNat 0 14, if bitAt w.toNat 20 then 4 else 1, bitsAt w.toNat 16 3,
        s.rd (LE_Ee_FRCi_VAL_VALUE e i)⟩ ∧
      (∀ j, j ≠ i.val → j < 256 → u.force e j = s.force e j) ∧ (∀ j, j ≠ e.val → u.engine j = s.engine j) ∧
      u.engine e = { s.engine e with fval := (u.engine e).fval } ∧ RegsIn [.pend, .le] s u := by
  refine does_running (x := (s.begin t).forceCommit e i w.toNat) rfl hph ?_
  have hk : Kept [.pend, .le] [.eng] (s.begin t) ((s.begin t).forceCommit e i w.toNat) :=
    State.forceCommit_kept (Kept.refl _ _ _) (by decide) (by decide)
  generalize hword : bitAt w.toNat 20 = word at hal hsafe ⊢
  generalize hfa : bitsAt w.toNat 0 14 = fa at hal hsafe ⊢
  generalize hbit : bitsAt w.toNat 16 3 = bit at hsafe ⊢
  have hfalt : fa < 2 ^ 14 := hfa ▸ Nat.mod_lt _ (by decide)
  have hbitlt : bit < 2 ^ 3 := hbit ▸ Nat.mod_lt _ (by decide)
  have hgood : ¬ (bitAt w.toNat 31 && ((word && fa % 4 != 0) || (s.begin t).coversSafe fa (if word then 4 else 1) bit)) = true := by
    have hsafe : (s.begin t).coversSafe fa (if word then 4 else 1) bit = false := hsafe
    rw [hsafe, hen]
    cases word
    · simp
    · simp [hal rfl]
  obtain ⟨haddr, hbits, hwd, hon, hrest⟩ := State.forceSet_shows (s.begin t) e i fa bit word
  obtain ⟨y, hy⟩ : ∃ y, y = (s.begin t).forceSet e i fa bit word := ⟨_, rfl⟩
  have heq : (s.begin t).forceCommit e i w.toNat = (y.setEngine e { y.engine e with
      fval := tblSet 0 i (y.rd (LE_Ee_FRCi_VAL_VALUE e i)) (y.engine e).fval }).syncForces e := by
    unfold State.forceCommit
    rw [hy]
    dsimp only
    rw [hword, hfa, hbit, if_neg hgood, hen]
    rfl
  have hyeng (j : Nat) : y.engine j = s.engine j := by rw [hy]; rfl
  rw [← hy] at haddr hbits hwd hon hrest
  have hval : y.rd (LE_Ee_FRCi_VAL_VALUE e i) = s.rd (LE_Ee_FRCi_VAL_VALUE e i) :=
    hrest _ (Nat.le_of_ble_eq_true rfl) (by
      show 0x10301804 + 0x1000 * e.val + 0x8 * i.val ≠ 0x10301800 + 0x1000 * e.val + 0x8 * i.val
      omega)
  rw [hval, hyeng] at heq
  rw [heq] at hk ⊢
  have hown : (y.setEngine e { s.engine e with fval := tblSet 0 i (s.rd (LE_Ee_FRCi_VAL_VALUE e i)) (s.engine e).fval }).engine e =
      { s.engine e with fval := tblSet 0 i (s.rd (LE_Ee_FRCi_VAL_VALUE e i)) (s.engine e).fval } :=
    State.engine_setEngine_same _ _ _
  have hothers (j : Nat) (hj : j ≠ e.val) : (y.setEngine e
      { s.engine e with fval := tblSet 0 i (s.rd (LE_Ee_FRCi_VAL_VALUE e i)) (s.engine e).fval }).engine j = s.engine j :=
    (State.engine_setEngine_ne y hj _).trans (hyeng j)
  have hzrd (f : Fld) : (y.setEngine e
      { s.engine e with fval := tblSet 0 i (s.rd (LE_Ee_FRCi_VAL_VALUE e i)) (s.engine e).fval }).rd f = y.rd f := rfl
  generalize y.setEngine e { s.engine e with fval := tblSet 0 i (s.rd (LE_Ee_FRCi_VAL_VALUE e i)) (s.engine e).fval } = z at *
  obtain ⟨heng, hsync⟩ := z.syncForces_shows e
  have hfld (j : Nat) : ∀ f ∈ forceFlds e j, (z.syncForces e).rd f = y.rd f := by
    simp only [List.forall_mem_cons]
    have hle : 0x10301800 + 0x1000 * e.val ≤ 0x10301800 + 0x1000 * e.val + 0x8 * j := Nat.le_add_right ..
    exact ⟨(hsync _ rfl (Nat.le_of_ble_eq_true rfl) hle).trans (hzrd _), (hsync _ rfl (Nat.le_of_ble_eq_true rfl) hle).trans (hzrd _),
      (hsync _ rfl (Nat.le_of_ble_eq_true rfl) hle).trans (hzrd _), (hsync _ rfl (Nat.le_of_ble_eq_true rfl) hle).trans (hzrd _), List.forall_mem_nil _⟩
  refine ⟨?_, fun j hj hlt => ?_, fun j hj => (heng j).trans (hothers j hj), ?_, fun f hf => hk.framed.regs f hf⟩
  · obtain ⟨h1, h2, h3, h4⟩ : (z.syncForces e).rd (LE_Ee_FRCi_ADDR_ADDR e i) = y.rd (LE_Ee_FRCi_ADDR_ADDR e i) ∧
        (z.syncForces e).rd (LE_Ee_FRCi_ADDR_BIT e i) = y.rd (LE_Ee_FRCi_ADDR_BIT e i) ∧
        (z.syncForces e).rd (LE_Ee_FRCi_ADDR_WORD e i) = y.rd (LE_Ee_FRCi_ADDR_WORD e i) ∧
        (z.syncForces e).rd (LE_Ee_FRCi_ADDR_EN e i) = y.rd (LE_Ee_FRCi_ADDR_EN e i) :=
      ⟨hfld i _ (by simp), hfld i _ (by simp), hfld i _ (by simp), hfld i _ (by simp)⟩
    unfold State.force
    rw [State.flag_congr h4, hon, if_pos rfl, h1, haddr, Nat.mod_eq_of_lt hfalt, State.flag_congr h3, hwd, h2, hbits,
      Nat.mod_eq_of_lt hbitlt, heng, hown]
    dsimp only
    rw [tblGet_set_same]
  · refine State.force_congr (fun f hf => ((hfld j f hf).trans (hrest f ?_ ?_))) ?_
    · simp only [List.mem_cons, List.not_mem_nil, or_false] at hf
      rcases hf with rfl | rfl | rfl | rfl <;> exact Nat.le_of_ble_eq_true rfl
    · have hne : 0x10301800 + 0x1000 * e.val + 0x8 * j ≠ 0x10301800 + 0x1000 * e.val + 0x8 * i.val := by omega
      simp only [List.mem_cons, List.not_mem_nil, or_false] at hf
      rcases hf with rfl | rfl | rfl | rfl <;> exact hne
    · rw [heng, hown]
      exact tblGet_set_ne hj _ _ _ _
  · rw [heng, hown]

/-- A force at the command bit of a safe output is turned away (R231). -/
theorem forceCommit_refused {i : Fin 256} {w : BitVec 32} (hen : bitAt w.toNat 31 = true)
    (hsafe : s.coversSafe (bitsAt w.toNat 0 14) (if bitAt w.toNat 20 then 4 else 1) (bitsAt w.toNat 16 3) = true)
    (hph : s.pw.phase = .running) : Does (.forceCommit e i w t) s fun u =>
      u.rd (LE_Ee_STAT_FRCERR e) = 1 ∧ Touches [LE_Ee_STAT_FRCERR e] [] [.now, .resp, .out] s u := by
  refine does_running (x := (s.begin t).forceCommit e i w.toNat) rfl hph ?_
  have hbad : (bitAt w.toNat 31 && ((bitAt w.toNat 20 && bitsAt w.toNat 0 14 % 4 != 0) ||
      (s.begin t).coversSafe (bitsAt w.toNat 0 14) (if bitAt w.toNat 20 then 4 else 1) (bitsAt w.toNat 16 3))) = true := by
    have hsafe : (s.begin t).coversSafe (bitsAt w.toNat 0 14) (if bitAt w.toNat 20 then 4 else 1) (bitsAt w.toNat 16 3) = true := hsafe
    rw [hsafe, hen, Bool.or_true]
    rfl
  have heq : (s.begin t).forceCommit e i w.toNat = (s.begin t).wr (LE_Ee_STAT_FRCERR e) 1 := if_pos hbad
  rw [heq]
  exact ⟨State.rd_wr_same .., (Touches.begin s t (by decide)).wrOf (List.mem_singleton.mpr rfl) 1⟩

/-! ### A debug halt (R234) -/

/-- What a debug halt shows, of an engine whose registers are `y`. -/
def HaltsAs (e why : Nat) (y : Engine) (s u : State) : Prop :=
  u.leState e = leHalted ∧ u.rd (LE_Ee_DBG_STAT_HALTED e) = 1 ∧ u.rd (LE_Ee_DBG_STAT_WHY e) = why ∧
    u.engine e = { y with want := .none, measured := false } ∧ (∀ i, i ≠ e → u.engine i = s.engine i) ∧ Raised [28 + e] s u ∧
    u.leMem = s.leMem ∧ u.mem = s.mem ∧ RegsIn [.pend, .le, .iog, .chan] s u

/-- What a halt finds: nothing raised, no memory changed, no other engine. -/
structure BeforeHalt (e : Nat) (y : Engine) (s x : State) : Prop where
  engine : x.engine e = y
  others : ∀ i, i ≠ e → x.engine i = s.engine i
  raises : Raises [] s x
  leMem : x.leMem = s.leMem
  mem : x.mem = s.mem
  regs : RegsIn [.pend, .le, .iog, .chan] s x

theorem BeforeHalt.begin (e t : Nat) : BeforeHalt e (s.engine e) s (s.begin t) :=
  ⟨rfl, fun _ _ => rfl, Raises.begin s t, rfl, rfl, fun _ _ => rfl⟩

theorem BeforeHalt.setEngine {y : Engine} (h : BeforeHalt e y s x) (z : Engine) : BeforeHalt e z s (x.setEngine e z) :=
  ⟨State.engine_setEngine_same _ _ _, fun i hi => (State.engine_setEngine_ne x hi _).trans (h.others i hi),
    h.raises.of_regs_eq rfl, h.leMem, h.mem, h.regs⟩

/-- A write of the engine's own registers. -/
theorem BeforeHalt.wr {y : Engine} (h : BeforeHalt e y s x) {f : Fld} (hf : f.area = .le) (v : Nat) :
    BeforeHalt e y s (x.wr f v) :=
  ⟨h.engine, h.others, h.raises.wr (by rw [hf]; decide) (by rw [hf]; decide) v, h.leMem, h.mem, fun g hg =>
    (State.rd_wr_area x (fun hgf => hg (by rw [hgf, hf]; decide)) v).trans (h.regs g hg)⟩

theorem BeforeHalt.settleOwner {y : Engine} (h : BeforeHalt e y s x) : BeforeHalt e y s (x.settleOwner e) := by
  have hk : Kept [.iog, .chan] [.out, .io] x (x.settleOwner e) := State.settleOwner_kept (Kept.refl _ _ x) (by decide) (by decide)
  have heng (i : Nat) : (x.settleOwner e).engine i = x.engine i := by
    have heng : (x.settleOwner e).eng = x.eng := hk.framed.parts .eng (by decide)
    rw [State.engine, heng, State.engine]
  have hleMem : (x.settleOwner e).leMem = x.leMem := hk.framed.parts .leMem (by decide)
  have hmem : (x.settleOwner e).mem = x.mem := hk.framed.parts .mem (by decide)
  exact ⟨(heng e).trans h.engine, fun i hi => (heng i).trans (h.others i hi), h.raises.kept hk (by decide) (by decide),
    hleMem.trans h.leMem, hmem.trans h.mem, fun f hf =>
      (hk.framed.regs f fun hin => hf (List.mem_cons_of_mem _ (List.mem_cons_of_mem _ hin))).trans (h.regs f hf)⟩

theorem State.rd_settleOwner_le (x : State) (i : Nat) {f : Fld} (hf : f.area = .le) : (x.settleOwner i).rd f = x.rd f := by
  have hk : Kept [.iog, .chan] [.out, .io] x (x.settleOwner i) := State.settleOwner_kept (Kept.refl _ _ x) (by decide) (by decide)
  exact hk.framed.regs f (by rw [hf]; decide)

theorem BeforeHalt.haltsAs {y : Engine} (h : BeforeHalt e y s x) {why : Nat} (hwhy : why < 4) :
    HaltsAs e why y s (x.leHaltNow e why) := by
  have hset : BeforeHalt e { y with want := .none, measured := false } s (x.setEngine e { x.engine e with want := .none, measured := false }) := by
    rw [h.engine]
    exact h.setEngine _
  unfold State.leHaltNow
  dsimp only
  generalize x.setEngine e { x.engine e with want := .none, measured := false } = v at hset
  have hv := (((hset.wr (f := LE_Ee_STAT_STATE e) rfl leHalted).wr (f := LE_Ee_DBG_STAT_HALTED e) rfl 1).wr
    (f := LE_Ee_DBG_STAT_WHY e) rfl why).settleOwner
  have hkeys : (LE_Ee_STAT_STATE e).key ≠ (LE_Ee_DBG_STAT_HALTED e).key ∧ (LE_Ee_STAT_STATE e).key ≠ (LE_Ee_DBG_STAT_WHY e).key ∧
      (LE_Ee_DBG_STAT_HALTED e).key ≠ (LE_Ee_DBG_STAT_WHY e).key := by
    simp only [Fld.key, LE_Ee_STAT_STATE, LE_Ee_DBG_STAT_HALTED, LE_Ee_DBG_STAT_WHY]
    omega
  obtain ⟨hsh, hsw, hhw⟩ := hkeys
  have hrd (f : Fld) (hf : f.area = .le) : (((((v.wr (LE_Ee_STAT_STATE e) leHalted).wr (LE_Ee_DBG_STAT_HALTED e) 1).wr
      (LE_Ee_DBG_STAT_WHY e) why).settleOwner e).raise (28 + e)).rd f = (((v.wr (LE_Ee_STAT_STATE e) leHalted).wr
        (LE_Ee_DBG_STAT_HALTED e) 1).wr (LE_Ee_DBG_STAT_WHY e) why).rd f :=
    (State.rd_raise_code (by rw [hf]; decide)).trans (State.rd_settleOwner_le _ _ hf)
  have hstate := hrd (LE_Ee_STAT_STATE e) rfl
  have hhalted := hrd (LE_Ee_DBG_STAT_HALTED e) rfl
  have hcause := hrd (LE_Ee_DBG_STAT_WHY e) rfl
  rw [State.rd_wr_ne _ hsw, State.rd_wr_ne _ hsh, State.rd_wr_same] at hstate
  rw [State.rd_wr_ne _ hhw, State.rd_wr_same] at hhalted
  rw [State.rd_wr_same] at hcause
  clear hrd
  generalize (((v.wr (LE_Ee_STAT_STATE e) leHalted).wr (LE_Ee_DBG_STAT_HALTED e) 1).wr (LE_Ee_DBG_STAT_WHY e) why).settleOwner e = z at *
  have hz : Kept [.pend] [] z (z.raise (28 + e)) := State.raise_kept (Kept.refl _ _ z) (by decide)
  have heng (i : Nat) : (z.raise (28 + e)).engine i = z.engine i := by
    have h : (z.raise (28 + e)).eng = z.eng := hz.framed.parts .eng (by decide)
    rw [State.engine, h, State.engine]
  have hleMem : (z.raise (28 + e)).leMem = z.leMem := hz.framed.parts .leMem (by decide)
  have hmem : (z.raise (28 + e)).mem = z.mem := hz.framed.parts .mem (by decide)
  exact ⟨hstate, hhalted, hcause.trans (Nat.mod_eq_of_lt hwhy), (heng e).trans hv.engine,
    fun i hi => (heng i).trans (hv.others i hi), (hv.raises.raise (by omega)).raised, hleMem.trans hv.leMem, hmem.trans hv.mem,
    fun f hf => (hz.framed.regs f fun hin => hf (List.mem_cons.mpr (.inl (List.mem_singleton.mp hin)))).trans (hv.regs f hf)⟩

theorem leHalt_does (hatt : s.dbg = .engine e) (hst : s.leState e = leRunning) :
    Does (.leHalt e t) s (HaltsAs e 0 (s.engine e) s) := by
  have hcond : ((s.begin t).attachedLe e && (s.begin t).leState e == leRunning) = true := by
    have hatt : (s.begin t).dbg = .engine e := hatt
    have hst : (s.begin t).leState e = leRunning := hst
    rw [State.attachedLe, hatt, hst]
    simp
  exact ⟨_, congrArg Host.Outcome.next (if_pos hcond), (BeforeHalt.begin e t).haltsAs (by decide)⟩

theorem leBreakpoint_does (hcan : s.leCan e = true) (hen : s.flag (LE_Ee_BRKi_EN e 0) = true)
    (hcyc : s.flag (LE_Ee_BRKi_CYC e 0) = false) (hix : s.rd (LE_Ee_BRKi_INDEX e 0) = (s.engine e).pc) :
    Does (.leBreakpoint e t) s (HaltsAs e 1 (s.engine e) s) := by
  have hcond : ((s.begin t).leCan e && [0, 1, 2, 3].any fun i => (s.begin t).flag (LE_Ee_BRKi_EN e i) &&
      !(s.begin t).flag (LE_Ee_BRKi_CYC e i) && (s.begin t).rd (LE_Ee_BRKi_INDEX e i) == ((s.begin t).engine e).pc) = true := by
    have hcan : (s.begin t).leCan e = true := hcan
    rw [hcan, Bool.true_and]
    refine List.any_eq_true.mpr ⟨0, List.mem_cons_self, ?_⟩
    have hen : (s.begin t).flag (LE_Ee_BRKi_EN e 0) = true := hen
    have hcyc : (s.begin t).flag (LE_Ee_BRKi_CYC e 0) = false := hcyc
    have hix : (s.begin t).rd (LE_Ee_BRKi_INDEX e 0) = ((s.begin t).engine e).pc := hix
    rw [hen, hcyc, hix]
    simp
  exact ⟨_, congrArg Host.Outcome.next (if_pos hcond), (BeforeHalt.begin e t).haltsAs (by decide)⟩

end

end Sys2Proof.Machine

/-! ## Stepping, resuming and the registers of a debugged engine (R233 to R235): O35 -/

namespace Sys2Proof.Machine

section
variable {s u w x : State} {e : Fin 4} {gap t : Nat}

/-! ### A halted engine runs again -/

/-- What an engine that runs on from a halt finds. -/
structure RunsOn (e : Nat) (s x : State) : Prop where
  before : BeforeHalt e { s.engine e with replay := [] } s x
  state : x.leState e = leRunning
  halted : x.rd (LE_Ee_DBG_STAT_HALTED e) = 0
  qfill : x.rd (LE_Ee_DBG_STAT_QFILL e) = 0
  bank : x.leBank e = s.leBank e
  ecc : x.ecc = s.ecc
  regs : RegsIn [.le, .iog, .chan] s x

theorem runsOn_leRunOn (hexec : (s.engine e).executing = true) : RunsOn e s ((s.begin t).leRunOn e gap) := by
  have hbefore : BeforeHalt e { s.engine e with replay := [] } s ((s.begin t).setEngine e { s.engine e with replay := [] }) :=
    (BeforeHalt.begin e t).setEngine _
  have hset : Kept [] [.eng] (s.begin t) ((s.begin t).setEngine e { s.engine e with replay := [] }) :=
    State.setEngine_kept (Kept.refl _ _ _) (by decide)
  have hecc : ((s.begin t).setEngine e { s.engine e with replay := [] }).ecc = s.ecc := hset.framed.parts .ecc (by decide)
  have hrd (f : Fld) : ((s.begin t).setEngine e { s.engine e with replay := [] }).rd f = s.rd f := rfl
  unfold State.leRunOn
  dsimp only
  have hown : (s.begin t).engine e = s.engine e := rfl
  rw [hown]
  generalize (s.begin t).setEngine e { s.engine e with replay := [] } = v at hbefore hecc hrd
  have hv := (((hbefore.wr (f := LE_Ee_DBG_STAT_QFILL e) rfl 0).wr (f := LE_Ee_DBG_STAT_HALTED e) rfl 0).wr
    (f := LE_Ee_STAT_STATE e) rfl leRunning).settleOwner
  obtain ⟨z, hz⟩ : ∃ z, z = ((v.wr (LE_Ee_DBG_STAT_QFILL e) 0).wr (LE_Ee_DBG_STAT_HALTED e) 0).wr (LE_Ee_STAT_STATE e) leRunning :=
    ⟨_, rfl⟩
  have hkeys : (LE_Ee_STAT_STATE e).key ≠ (LE_Ee_DBG_STAT_HALTED e).key ∧ (LE_Ee_STAT_STATE e).key ≠ (LE_Ee_DBG_STAT_QFILL e).key ∧
      (LE_Ee_DBG_STAT_HALTED e).key ≠ (LE_Ee_DBG_STAT_QFILL e).key ∧ (LE_Ee_STAT_BANK e).key ≠ (LE_Ee_STAT_STATE e).key ∧
      (LE_Ee_STAT_BANK e).key ≠ (LE_Ee_DBG_STAT_HALTED e).key ∧ (LE_Ee_STAT_BANK e).key ≠ (LE_Ee_DBG_STAT_QFILL e).key := by
    simp only [Fld.key, LE_Ee_STAT_STATE, LE_Ee_DBG_STAT_HALTED, LE_Ee_DBG_STAT_QFILL, LE_Ee_STAT_BANK]
    omega
  obtain ⟨hsh, hsq, hhq, hbs, hbh, hbq⟩ := hkeys
  have hzecc : z.ecc = s.ecc := by rw [hz]; exact hecc
  have hzregs : RegsIn [.le] s z := fun f hf => by
    have hne {g : Fld} (hg : g.area = .le) : f.area ≠ g.area := fun h => hf (List.mem_singleton.mpr (h.trans hg))
    rw [hz, State.rd_wr_area _ (hne rfl), State.rd_wr_area _ (hne rfl), State.rd_wr_area _ (hne rfl)]
    exact hrd f
  have hstate : z.rd (LE_Ee_STAT_STATE e) = leRunning := by rw [hz, State.rd_wr_same]; rfl
  have hhalted : z.rd (LE_Ee_DBG_STAT_HALTED e) = 0 := by rw [hz, State.rd_wr_ne _ hsh.symm, State.rd_wr_same]; rfl
  have hqfill : z.rd (LE_Ee_DBG_STAT_QFILL e) = 0 := by
    rw [hz, State.rd_wr_ne _ hsq.symm, State.rd_wr_ne _ hhq.symm, State.rd_wr_same]
    rfl
  have hbank : z.rd (LE_Ee_STAT_BANK e) = s.rd (LE_Ee_STAT_BANK e) := by
    rw [hz, State.rd_wr_ne _ hbs, State.rd_wr_ne _ hbh, State.rd_wr_ne _ hbq]
    exact hrd _
  rw [← hz] at hv ⊢
  have hrun : ((z.settleOwner e).engine e).executing = true := by rw [hv.engine]; exact hexec
  rw [if_pos hrun]
  have hk : Kept [.iog, .chan] [.out, .io] z (z.settleOwner e) := State.settleOwner_kept (Kept.refl _ _ z) (by decide) (by decide)
  have hle (f : Fld) (hf : f.area = .le) : (z.settleOwner e).rd f = z.rd f := State.rd_settleOwner_le z e hf
  have hkecc : (z.settleOwner e).ecc = z.ecc := hk.framed.parts .ecc (by decide)
  exact ⟨hv, (hle _ rfl).trans hstate, (hle _ rfl).trans hhalted, (hle _ rfl).trans hqfill, (hle _ rfl).trans hbank,
    hkecc.trans hzecc, fun f hf => (hk.framed.regs f fun h => hf (List.mem_cons_of_mem _ h)).trans
      (hzregs f fun h => hf (List.mem_cons.mpr (.inl (List.mem_singleton.mp h))))⟩

theorem attachedHalted (hatt : s.dbg = .engine e) (hst : s.leState e = leHalted) :
    ((s.begin t).attachedLe e && (s.begin t).leState e == leHalted) = true := by
  have hatt : (s.begin t).dbg = .engine e := hatt
  have hst : (s.begin t).leState e = leHalted := hst
  rw [State.attachedLe, hatt, hst]
  simp

theorem leResume_does (hatt : s.dbg = .engine e) (hst : s.leState e = leHalted) (hexec : (s.engine e).executing = true) :
    Does (.leResume e gap t) s fun u =>
      u.leState e = leRunning ∧ u.rd (LE_Ee_DBG_STAT_HALTED e) = 0 ∧ u.rd (LE_Ee_DBG_STAT_QFILL e) = 0 ∧
      u.engine e = { s.engine e with replay := [] } ∧ (∀ i, i ≠ e.val → u.engine i = s.engine i) ∧
      RegsIn [.le, .iog, .chan] s u ∧ u.leMem = s.leMem := by
  have hx : RunsOn e s ((s.begin t).leRunOn e gap) := runsOn_leRunOn hexec
  exact ⟨_, congrArg Host.Outcome.next (if_pos (attachedHalted hatt hst)), hx.state, hx.halted, hx.qfill, hx.before.engine,
    hx.before.others, hx.regs, hx.before.leMem⟩

/-- STEPCYC of a running engine. -/
theorem leStepcyc_does (hatt : s.dbg = .engine e) (hst : s.leState e = leRunning) : Does (.leStepcyc e gap t) s fun u =>
      u.engine e = { s.engine e with want := .cycle } ∧ (∀ i, i ≠ e.val → u.engine i = s.engine i) ∧
      Touches [] [] [.now, .resp, .out, .eng] s u := by
  have hatt : (s.begin t).dbg = .engine e := hatt
  have hst : (s.begin t).leState e = leRunning := hst
  have hset : Kept [] [.eng] (s.begin t) ((s.begin t).setEngine e { s.engine e with want := .cycle }) :=
    State.setEngine_kept (Kept.refl _ _ _) (by decide)
  have hcmd : (s.begin t).leStepcycCmd e gap = (s.begin t).setEngine e { s.engine e with want := .cycle } := by
    unfold State.leStepcycCmd
    rw [State.attachedLe, hatt, hst, if_pos (by simp), if_neg (show leRunning ≠ leHalted by decide)]
    exact if_pos hst
  exact ⟨_, congrArg Host.Outcome.next hcmd, State.engine_setEngine_same _ _ _,
    fun i hi => State.engine_setEngine_ne (s.begin t) hi _, (Touches.begin s t (by decide)).across hset (by decide) (by decide)⟩

/-! ### One instruction of a halted engine -/

/-- The word of NOT. -/
theorem leExecWord_not (h : LeGoes x e) : x.leExecWord e 0x38000000 gap = x.fresh0.leNext e fun r => { r with ba := !r.ba } := by
  have hword : leWordOut x e 0x38000000 = some (execLeNot e 0 0 0 x) := rfl
  have hnot : execLeNot e 0 0 0 x = .next (x.fresh0.leNext e fun r => { r with ba := !r.ba }) :=
    congrArg Host.Outcome.next
      (State.leRun_of_no_fault h.fresh0 rfl (List.forall_mem_nil _) (rowsSound_nil _ _) (rowsSound_nil _ _))
  rw [State.leExecWord, hword, hnot]
  rfl

/-- Whether an engine can execute its next instruction depends on its registers, bank, memory and rows. -/
theorem LeGoes.of_run (hfetch : FetchSound s e) (hbody : s.leInBody e (s.engine e).pc = true) (hstate : x.leState e = leRunning)
    (hexec : (x.engine e).executing = true) (hpc : (x.engine e).pc = (s.engine e).pc) (hblk : (x.engine e).blk = (s.engine e).blk)
    (hbank : x.leBank e = s.leBank e) (hmem : x.leMem = s.leMem) (hecc : x.ecc = s.ecc) : LeGoes x e := by
  have hword (i : Nat) : x.leWordAt e (s.leBank e) i = s.leWordAt e (s.leBank e) i := by
    rw [State.leWordAt, State.leWordAt]
    exact congrArg leNat (List.map_congr_left fun j _ => by rw [State.leByte, hmem, State.leByte])
  refine ⟨?_, ?_, ?_⟩
  · rw [State.leCan, hstate, hexec]
    rfl
  · unfold FetchSound at hfetch ⊢
    rw [hbank, hpc, State.rowErr, hecc]
    exact hfetch
  · unfold State.leInBody State.leStart State.leLength at hbody ⊢
    rw [hbank, hblk, hpc]
    dsimp only
    rw [hword, hword]
    exact hbody

theorem leStep_does (hatt : s.dbg = .engine e) (hst : s.leState e = leHalted) (hexec : (s.engine e).executing = true)
    (hfetch : FetchSound s e) (hbody : s.leInBody e (s.engine e).pc = true)
    (hword : s.leWordAt e (s.leBank e) (s.engine e).pc = 0x38000000) :
    Does (.leStep e gap t) s (HaltsAs e 3 { s.engine e with
      ba := !(s.engine e).ba, pc := (s.engine e).pc + 1, replay := [] } s) := by
  have hx : RunsOn e s ((s.begin t).leRunOn e gap) := runsOn_leRunOn hexec
  refine ⟨_, congrArg Host.Outcome.next (if_pos (attachedHalted hatt hst)), ?_⟩
  dsimp only
  generalize (s.begin t).leRunOn e gap = x at hx
  rw [if_pos hx.state, hx.before.engine]
  have hy := hx.before.setEngine { s.engine e with replay := [], want := .step }
  have hrd (f : Fld) : (x.setEngine e { s.engine e with replay := [], want := .step }).rd f = x.rd f := rfl
  have hset : Kept [] [.eng] x (x.setEngine e { s.engine e with replay := [], want := .step }) :=
    State.setEngine_kept (Kept.refl _ _ _) (by decide)
  have hecc : (x.setEngine e { s.engine e with replay := [], want := .step }).ecc = x.ecc := hset.framed.parts .ecc (by decide)
  generalize x.setEngine e { s.engine e with replay := [], want := .step } = y at hy hrd hecc
  have hbank : y.leBank e = s.leBank e := (hrd _).trans hx.bank
  have hstate : y.leState e = leRunning := (hrd _).trans hx.state
  have hgoes : LeGoes y e := LeGoes.of_run hfetch hbody hstate (by rw [hy.engine]; exact hexec) (by rw [hy.engine])
    (by rw [hy.engine]) hbank hy.leMem (hecc.trans hx.ecc)
  have hfound : y.leWordAt e (y.leBank e) (y.engine e).pc = 0x38000000 := by
    rw [hbank, hy.engine, ← hword, State.leWordAt, State.leWordAt]
    exact congrArg leNat (List.map_congr_left fun j _ => by rw [State.leByte, hy.leMem, State.leByte])
  rw [hfound, leExecWord_not hgoes]
  have hz : BeforeHalt e { s.engine e with replay := [], want := .step, ba := !(s.engine e).ba, pc := (s.engine e).pc + 1 } s
      (y.fresh0.leNext e fun r => { r with ba := !r.ba }) := by
    have hown : y.fresh0.engine e = { s.engine e with replay := [], want := .step } := hy.engine
    have hfresh : BeforeHalt e { s.engine e with replay := [], want := .step } s y.fresh0 :=
      ⟨hy.engine, hy.others, hy.raises.of_regs_eq rfl, hy.leMem, hy.mem, hy.regs⟩
    rw [State.leNext, hown]
    exact hfresh.setEngine _
  have hzstate : (y.fresh0.leNext e fun r => { r with ba := !r.ba }).leState e = leRunning := hstate
  rw [if_pos hzstate]
  exact hz.haltsAs (by decide)

/-! ### Reads and writes of the debugger (R235) -/

theorem attachedLe_eq (hatt : s.dbg = .engine e) : (s.begin t).attachedLe e = true := by
  have hatt : (s.begin t).dbg = .engine e := hatt
  rw [State.attachedLe, hatt]
  simp

theorem debugWriteEngine_reg {y : LeWrite} (hatt : s.dbg = .engine e) (hst : s.leState e = leHalted)
    (hlen : (s.engine e).replay.length < 32) (hy : ∀ o v, y ≠ .data o v) : Does (.debugWriteEngine e y t) s fun u =>
      u.resp = .done ∧ u.engine e = { debugSet (s.engine e) y with replay := (s.engine e).replay ++ [y] } ∧
      (∀ i, i ≠ e.val → u.engine i = s.engine i) ∧ u.rd (LE_Ee_DBG_STAT_QFILL e) = (s.engine e).replay.length + 1 ∧
      Touches [LE_Ee_DBG_STAT_QFILL e] [] [.now, .resp, .out, .eng] s u := by
  have hst : (s.begin t).leState e = leHalted := hst
  have hset : Kept [] [.eng] (s.begin t) ((s.begin t).setEngine e
      { debugSet (s.engine e) y with replay := (s.engine e).replay ++ [y] }) := State.setEngine_kept (Kept.refl _ _ _) (by decide)
  have hcond : ¬ ((s.begin t).leState e ≠ leHalted ∨ 32 ≤ ((s.begin t).engine e).replay.length) := by
    rw [hst]
    rintro (h | h)
    · exact h rfl
    · exact absurd h (Nat.not_le.mpr hlen)
  have hcmd : (s.begin t).leDebugWrite e y = (((s.begin t).setEngine e
      { debugSet (s.engine e) y with replay := (s.engine e).replay ++ [y] }).wr (LE_Ee_DBG_STAT_QFILL e)
        ((s.engine e).replay ++ [y]).length).answer .done := by
    unfold State.leDebugWrite
    rw [attachedLe_eq hatt]
    dsimp only
    rw [if_neg (by decide)]
    cases y with
    | data o v => exact absurd rfl (hy o v)
    | _ => exact if_neg hcond
  refine ⟨_, congrArg Host.Outcome.next hcmd, rfl, State.engine_setEngine_same (s.begin t) _ _,
    fun i hi => State.engine_setEngine_ne (s.begin t) hi _, ?_, ?_⟩
  · refine (State.rd_wr_same ..).trans ?_
    rw [List.length_append, List.length_singleton]
    exact Nat.mod_eq_of_lt (by
      show _ < 2 ^ 6
      omega)
  · exact ((((Touches.begin s t (by decide)).across hset (by decide) (by decide)).wrOf (List.mem_singleton.mpr rfl) _).answer
      (by decide) _)

/-- A write of data memory without SOFT entries of the correction table changes its rows alone. -/
theorem Touches.putLeData_of_noSoft (hs : NoSoft s) (e off : Nat) (bs : List Byte) :
    Touches [] [] [.leMem, .ecc] s (s.putLeData e off bs) := by
  obtain ⟨hregs, hpw, hrcd⟩ := State.putLeData_of_noSoft hs e off bs
  have hk := s.putLeData_keeps e off bs
  refine ⟨fun f _ _ => hregs f List.not_mem_nil, fun p hp => ?_⟩
  by_cases hpw' : p = .pw
  · rw [hpw']; exact hpw
  by_cases hrcd' : p = .rcd
  · rw [hrcd']; exact hrcd
  refine hk.framed.parts p fun h => ?_
  simp only [List.mem_cons, List.not_mem_nil, or_false, not_or] at h hp
  rcases h with h | h | h | h
  · exact hp.1 h
  · exact hpw' h
  · exact hrcd' h
  · exact hp.2 h

theorem debugWriteEngine_data {off : Fin 524288} {val : Byte} (hatt : s.dbg = .engine e)
    (hrow : s.rowErr 5 (e * 2 ^ 14 + off / 32) = 0) : Does (.debugWriteEngine e (.data off val) t) s fun u =>
      u.resp = .done ∧ u.leByte (leDataBase e + off) = val ∧
      (∀ q, q ≠ leDataBase e + off → u.leByte q = s.leByte q) ∧
      (NoSoft s → Touches [] [.cvu] [.now, .leMem, .resp, .out, .ecc, .cvu] s u) := by
  have hsee : (s.begin t).seeRows 0x27 2 [(5, e * 2 ^ 14 + off.val / 32)] = (false, s.begin t) := by
    refine State.seeRows_of_sound (s := s.begin t) (fun x hx => ?_) _ _
    rw [List.mem_singleton.mp hx]
    exact hrow
  have hcmd : (s.begin t).leDebugWrite e (.data off val) =
      (((s.begin t).putLeData e off [val]).unitWrite [(leDataBase e + off.val, val)]).answer .done := by
    unfold State.leDebugWrite
    rw [attachedLe_eq hatt]
    dsimp only
    rw [if_neg (by decide), hsee]
    rfl
  have hin : ((s.begin t).putLeData e off [val]).leByte (leDataBase e + off) = val := by
    have hput := State.leByte_putLeData_add (s.begin t) (e := e) (off := off) (j := 0) (bs := [val]) Nat.one_pos
    rwa [Nat.add_zero] at hput
  have hout (q : Nat) (hq : q ≠ leDataBase e + off) : ((s.begin t).putLeData e off [val]).leByte q = s.leByte q := by
    refine State.leByte_putLeData_of_outside (s.begin t) ?_
    rw [List.length_singleton]
    exact Nat.lt_or_gt_of_ne hq
  have hdata (hs : NoSoft s) : Touches [] [] [.leMem, .ecc] (s.begin t) ((s.begin t).putLeData e off [val]) :=
    Touches.putLeData_of_noSoft (s := s.begin t) hs e off [val]
  refine ⟨_, congrArg Host.Outcome.next hcmd, ?_⟩
  generalize (s.begin t).putLeData e off [val] = p at hin hout hdata ⊢
  have hunit : Kept [.cvu] [.cvu] p (p.unitWrite [(leDataBase e + off.val, val)]) :=
    State.unitWrite_kept (Kept.refl _ _ _) (by decide) (by decide)
  generalize p.unitWrite [(leDataBase e + off.val, val)] = z at hunit ⊢
  have hbyte (q : Nat) : (z.answer .done).leByte q = p.leByte q := by
    have hmem : (z.answer .done).leMem = p.leMem := hunit.framed.parts .leMem (by decide)
    rw [State.leByte, hmem, State.leByte]
  refine ⟨rfl, (hbyte _).trans hin, fun q hq => (hbyte q).trans (hout q hq), fun hs => ?_⟩
  have hbegin : Touches [] [.cvu] [.now, .leMem, .resp, .out, .ecc, .cvu] s (s.begin t) := Touches.begin s t (by decide)
  exact ((hbegin.trans (hdata hs) (fun _ h => h) (by decide) (by decide)).across hunit (by decide) (by decide)).answer
    (by decide) _

theorem debugReadEngine_does {y : LeReg} {k : Nat} (hatt : s.dbg = .engine e) (hk : debugGet (s.engine e) y = some k) :
    Does (.debugReadEngine e y t) s fun u => u.resp = .ok k ∧ Touches [] [] [.now, .resp, .out] s u := by
  have hcmd : (s.begin t).leDebugRead e y = (s.begin t).answer (.ok k) := by
    have hk : debugGet ((s.begin t).engine e) y = some k := hk
    rw [State.leDebugRead, attachedLe_eq hatt, hk]
    rfl
  exact ⟨_, congrArg Host.Outcome.next hcmd, rfl, (Touches.begin s t (by decide)).answer (by decide) _⟩

theorem debugReadEngine_refused {y : LeReg} (hatt : s.dbg ≠ .engine e) :
    Does (.debugReadEngine e y t) s fun u => u.resp = .debugError ∧ Touches [] [] [.now, .resp, .out] s u := by
  have hnot : (s.begin t).attachedLe e = false := beq_eq_false_iff_ne.mpr hatt
  have hcmd : (s.begin t).leDebugRead e y = (s.begin t).answer .debugError := by
    rw [State.leDebugRead, hnot]
    rfl
  exact ⟨_, congrArg Host.Outcome.next hcmd, rfl, (Touches.begin s t (by decide)).answer (by decide) _⟩

end

/-- Settles O35: loads and stores by the row or window they meet, forces by what they cover, and each command of the
debug transport from the state that it needs. -/
theorem leAccess : Obligations.LeAccess := by
  intro s e hart addr size v i w x y off val gap t
  refine ⟨fun hlo hhi hal hrun => ?_, forceCommit_does, forceCommit_refused, fun hatt => ?_, debugReadEngine_refused,
    leBreakpoint_does⟩
  · have ha : AtEngine e addr.toNat (2 ^ size.val) := ⟨hlo, hhi, hal⟩
    obtain ⟨hsound, hbad⟩ := standLoad_does ha.leWhere.1 hrun
    exact ⟨hsound, hbad, fun hsplit hlo hhi => standStore_does ha hrun hsplit hlo hhi, hostWindowWrite_outside ha hrun⟩
  · exact ⟨leHalt_does hatt, leStepcyc_does hatt, leResume_does hatt, leStep_does hatt, debugWriteEngine_reg hatt,
      debugWriteEngine_data hatt, fun k => debugReadEngine_does hatt⟩

end Sys2Proof.Machine

/-! ## Requests at an aperture (R400, R401, R404, R413 to R415): what each of their steps does -/

namespace Sys2Proof.Machine

section
variable {s u w x y : State} {t : Nat} {r : RwIn}

/-! ### Partial writes of sound rows -/

/-- A write of a word into a sound range meets no row with an error. -/
theorem RangeSound.partRows {a n : Nat} (h : RangeSound s (a / 64 * 64) 128) (hn : n ≤ 8) :
    ∀ r ∈ partRows a n, s.rowErr r.1 r.2 = 0 := by
  intro r hr
  obtain ⟨hmem, -⟩ := List.mem_filter.mp hr
  obtain ⟨i, hi, hrow⟩ := List.mem_filterMap.mp hmem
  rw [List.mem_range] at hi
  obtain ⟨b, hb, hlo, hhi, hlt⟩ := rowAddr_of_rowOf (memid := r.1) (row := r.2) hrow
  exact h.rowErr hb hlt (by omega) (by omega)

/-! ### Messages wait while the module may not send (R404) -/

theorem State.rwPush_of_silent (h : s.rwMaySend = false) (m : RwMsg) :
    s.rwPush m = s.setRwy { s.rwy with out := s.rwy.out ++ [m] } := by
  have hsilent : (s.setRwy { s.rwy with out := s.rwy.out ++ [m] }).rwMaySend = false := h
  rw [State.rwPush, State.rwFlush, if_neg (by rw [hsilent]; decide)]

/-- The answer of an aperture to a request. -/
def State.rwReply (s : State) (r : RwIn) (status : Nat) (data : Option Nat) : RwMsg :=
  ⟨if s.flag (RWY_Aa_CFG_RSPROUTE (rmAper r.msg)) then some (s.rd (RWY_Aa_CFG_RSPBLZ (rmAper r.msg))) else none, r.node, r.plane,
    rwMessage (if rmOp r.msg = opWrite then opWack else opResp) (rmSize r.msg) 0 (rmAper r.msg) status (rmOff r.msg)
      (rmTag r.msg) data, s.now⟩

theorem State.rwAnswer_of_silent (h : s.rwMaySend = false) (r : RwIn) (status : Nat) (data : Option Nat) :
    s.rwAnswer r status data = s.setRwy { s.rwy with out := s.rwy.out ++ [s.rwReply r status data] } :=
  State.rwPush_of_silent h _

/-! ### The registers that show locks and the stall queue -/

/-- What the registers of an aperture show. -/
def State.rwShowAper (s : State) (a : Nat) : State :=
  let s := match s.lockOf a with
    | some l => (s.wr (RWY_Aa_STAT_LOCKED a) 1).wr (RWY_Aa_STAT_HOLDER a) l.node
    | none => (s.wr (RWY_Aa_STAT_LOCKED a) 0).wr (RWY_Aa_STAT_HOLDER a) 0
  s.wr (RWY_Aa_STAT_STALLED a) ((s.rwy.stall.filter fun r => rmAper r.msg == a).length)

theorem State.rwShow_eq (s : State) : s.rwShow = [0, 1, 2, 3].foldl State.rwShowAper (s.wr RWY_STAT_STALL s.rwy.stall.length) := rfl

/-- The fields of the lock of an aperture, as they are shown. -/
def lockFields (l : Option RwLock) : Nat × Nat := match l with | some l => (1, l.node % 2 ^ 8) | none => (0, 0)

theorem State.rwShowAper_shows (s : State) (a : Nat) :
    (s.rwShowAper a).rwy = s.rwy ∧
      (∀ b, ((s.rwShowAper a).rd (RWY_Aa_STAT_LOCKED b), (s.rwShowAper a).rd (RWY_Aa_STAT_HOLDER b)) =
        if b = a then lockFields (s.lockOf a) else (s.rd (RWY_Aa_STAT_LOCKED b), s.rd (RWY_Aa_STAT_HOLDER b))) ∧
      ∀ f : Fld, f.lo < 32 → f.addr ≠ 0x10902010 + 0x20 * a → (s.rwShowAper a).rd f = s.rd f := by
  have hkeys (b : Nat) : (RWY_Aa_STAT_LOCKED b).key ≠ (RWY_Aa_STAT_HOLDER a).key ∧ (RWY_Aa_STAT_LOCKED b).key ≠ (RWY_Aa_STAT_STALLED a).key ∧
      (RWY_Aa_STAT_HOLDER b).key ≠ (RWY_Aa_STAT_LOCKED a).key ∧ (RWY_Aa_STAT_HOLDER b).key ≠ (RWY_Aa_STAT_STALLED a).key ∧
      (b ≠ a → (RWY_Aa_STAT_LOCKED b).key ≠ (RWY_Aa_STAT_LOCKED a).key ∧ (RWY_Aa_STAT_HOLDER b).key ≠ (RWY_Aa_STAT_HOLDER a).key) := by
    simp only [Fld.key, RWY_Aa_STAT_LOCKED, RWY_Aa_STAT_HOLDER, RWY_Aa_STAT_STALLED]
    omega
  have hother (v : State) (l h st : Nat) (f : Fld) (hlo : f.lo < 32) (hf : f.addr ≠ 0x10902010 + 0x20 * a) :
      (((v.wr (RWY_Aa_STAT_LOCKED a) l).wr (RWY_Aa_STAT_HOLDER a) h).wr (RWY_Aa_STAT_STALLED a) st).rd f = v.rd f := by
    have hne {g : Fld} (hg : g.lo < 32) (h : g.addr = 0x10902010 + 0x20 * a) : f.key ≠ g.key := Fld.key_ne_of_addr_ne hlo hg (h ▸ hf)
    rw [State.rd_wr_ne _ (hne (g := RWY_Aa_STAT_STALLED a) (Nat.le_of_ble_eq_true rfl) rfl),
      State.rd_wr_ne _ (hne (g := RWY_Aa_STAT_HOLDER a) (Nat.le_of_ble_eq_true rfl) rfl),
      State.rd_wr_ne _ (hne (g := RWY_Aa_STAT_LOCKED a) (Nat.le_of_ble_eq_true rfl) rfl)]
  have hlock (v : State) (l h st b : Nat) : ((((v.wr (RWY_Aa_STAT_LOCKED a) l).wr (RWY_Aa_STAT_HOLDER a) h).wr
      (RWY_Aa_STAT_STALLED a) st).rd (RWY_Aa_STAT_LOCKED b), (((v.wr (RWY_Aa_STAT_LOCKED a) l).wr (RWY_Aa_STAT_HOLDER a) h).wr
      (RWY_Aa_STAT_STALLED a) st).rd (RWY_Aa_STAT_HOLDER b)) =
      if b = a then (l % 2, h % 2 ^ 8) else (v.rd (RWY_Aa_STAT_LOCKED b), v.rd (RWY_Aa_STAT_HOLDER b)) := by
    obtain ⟨hlh, hls, hhl, hhs, hne⟩ := hkeys b
    rw [State.rd_wr_ne _ hls, State.rd_wr_ne _ hlh, State.rd_wr_ne _ hhs]
    split
    · next hb =>
      rw [hb, State.rd_wr_same, State.rd_wr_same]
      rfl
    · next hb =>
      obtain ⟨hll, hhh⟩ := hne hb
      rw [State.rd_wr_ne _ hll, State.rd_wr_ne _ hhh, State.rd_wr_ne _ hhl]
  unfold State.rwShowAper
  split
  · next l hl =>
    refine ⟨rfl, fun b => ?_, fun f => hother _ _ _ _ f⟩
    rw [hl]
    exact hlock s 1 l.node _ b
  · next hl =>
    refine ⟨rfl, fun b => ?_, fun f => hother _ _ _ _ f⟩
    rw [hl]
    exact hlock s 0 0 _ b

theorem State.foldl_rwShowAper (l : List Nat) (s : State) :
    (l.foldl State.rwShowAper s).rwy = s.rwy ∧
      (∀ b, ((l.foldl State.rwShowAper s).rd (RWY_Aa_STAT_LOCKED b), (l.foldl State.rwShowAper s).rd (RWY_Aa_STAT_HOLDER b)) =
        if b ∈ l then lockFields (s.lockOf b) else (s.rd (RWY_Aa_STAT_LOCKED b), s.rd (RWY_Aa_STAT_HOLDER b))) ∧
      ∀ f : Fld, f.lo < 32 → (∀ a ∈ l, f.addr ≠ 0x10902010 + 0x20 * a) → (l.foldl State.rwShowAper s).rd f = s.rd f := by
  induction l generalizing s with
  | nil => exact ⟨rfl, fun _ => rfl, fun _ _ _ => rfl⟩
  | cons a l ih =>
    obtain ⟨hrwy, hlock, hother⟩ := s.rwShowAper_shows a
    obtain ⟨ihrwy, ihlock, ihother⟩ := ih (s.rwShowAper a)
    have hof (b : Nat) : (s.rwShowAper a).lockOf b = s.lockOf b := by rw [State.lockOf, hrwy, State.lockOf]
    rw [List.foldl_cons]
    refine ⟨ihrwy.trans hrwy, fun b => (ihlock b).trans ?_, fun f hlo hf => ?_⟩
    · rw [hlock b, hof]
      by_cases hb : b ∈ l
      · rw [if_pos hb, if_pos (List.mem_cons_of_mem _ hb)]
      · rw [if_neg hb]
        by_cases hba : b = a
        · rw [if_pos hba, if_pos (List.mem_cons.mpr (.inl hba)), hba]
        · rw [if_neg hba, if_neg (fun h => (List.mem_cons.mp h).elim hba hb)]
    · obtain ⟨ha, hl⟩ := List.forall_mem_cons.mp hf
      exact (ihother f hlo hl).trans (hother f hlo ha)

/-- What is shown of the locks and the stall queue; nothing else is written. -/
theorem State.rwShow_shows (s : State) :
    s.rwShow.rwy = s.rwy ∧ s.rwShow.rd RWY_STAT_STALL = s.rwy.stall.length % 2 ^ 8 ∧
      (∀ b, b < 4 → s.rwShow.rd (RWY_Aa_STAT_LOCKED b) = (lockFields (s.lockOf b)).1 ∧
        s.rwShow.rd (RWY_Aa_STAT_HOLDER b) = (lockFields (s.lockOf b)).2) ∧
      (∀ f : Fld, f.lo < 32 → f.key ≠ RWY_STAT_STALL.key → (∀ a ∈ [0, 1, 2, 3], f.addr ≠ 0x10902010 + 0x20 * a) →
        s.rwShow.rd f = s.rd f) ∧ Kept [.rwy] [] s s.rwShow := by
  have hk : Kept [.rwy] [] s s.rwShow := State.rwShow_kept (Kept.refl _ _ s) (by decide)
  rw [State.rwShow_eq] at hk ⊢
  obtain ⟨hrwy, hlock, hother⟩ := State.foldl_rwShowAper [0, 1, 2, 3] (s.wr RWY_STAT_STALL s.rwy.stall.length)
  refine ⟨hrwy, ?_, fun b hb => ?_, fun f hlo hf ha => (hother f hlo ha).trans (State.rd_wr_ne _ hf _), hk⟩
  · rw [hother _ (by decide) (by decide), State.rd_wr_same]
    rfl
  · have hmem : b ∈ [0, 1, 2, 3] := by
      simp only [List.mem_cons, List.not_mem_nil, or_false]
      omega
    have hb := hlock b
    rw [if_pos hmem] at hb
    exact ⟨congrArg Prod.fst hb, congrArg Prod.snd hb⟩

/-! ### The steps of a request -/

/-- No own request waits to be sent again. -/
def NoRetry (s : State) : Prop := ∀ q ∈ s.rwy.ops, q.retry = false

theorem NoRetry.rwAgain (h : NoRetry s) : s.rwAgain = s := by
  have hnone : s.rwy.ops.filter (·.retry) = [] := List.filter_eq_nil_iff.mpr fun q hq => by rw [h q hq]; decide
  unfold State.rwAgain
  split
  · rfl
  · dsimp only
    rw [hnone, if_pos rfl]

/-- Whether a node holds an aperture, and whether another one does. -/
def State.heldBy (s : State) (a node : Nat) : Bool := match s.lockOf a with | some l => l.node == node | none => false
def State.heldElse (s : State) (a node : Nat) : Bool := match s.lockOf a with | some l => l.node != node | none => false

/-- A request is judged, and refused, served or held. -/
def State.rwJudged (s : State) (r : RwIn) : State :=
  let m := r.msg
  let a := rmAper m
  let mine := s.heldBy a r.node
  let st := s.aperJudge r.node m
  if rmOp m = opUnlock then (if mine then s.rwReleased a else s)
  else if st ≠ 0 then s.rwRefuse r st
  else if rmOp m = opPoll then s.rwServed r 0 (some (s.rd (RWY_Aa_DOOR a)))
  else if rmOp m = opWrite then
    let (st, s) := s.rwPut m (rmData m)
    s.rwServed r st none
  else if rmOp m = opWrunlk then
    if !mine then s.rwServed r 9 none
    else
      let (st, s) := s.rwPut m (rmData m)
      (s.rwServed r st (some 0)).rwReleased a
  else s.rwLocked r

theorem State.rwInbound_eq (s : State) (r : RwIn) : s.rwInbound r =
    (State.rwShow (if ((s.rwJudged r).lockOf (rmAper r.msg)).isNone && (s.rwJudged r).rwy.stall.any (fun x => rmAper x.msg == rmAper r.msg)
      then (s.rwJudged r).rwReleased (rmAper r.msg) else s.rwJudged r)).rwAgain := rfl

/-- Where nobody waits for the aperture and nothing is to be sent again, a request ends with what is shown. -/
theorem State.rwInbound_of_calm (hy : s.rwJudged r = y) (hretry : NoRetry y)
    (hstall : y.lockOf (rmAper r.msg) = none → ∀ q ∈ y.rwy.stall, rmAper q.msg ≠ rmAper r.msg) : s.rwInbound r = y.rwShow := by
  have hcalm : ¬ ((y.lockOf (rmAper r.msg)).isNone && y.rwy.stall.any (fun x => rmAper x.msg == rmAper r.msg)) = true := by
    intro h
    obtain ⟨hnone, hany⟩ := Bool.and_eq_true_iff.mp h
    obtain ⟨q, hq, hqa⟩ := List.any_eq_true.mp hany
    exact hstall (Option.isNone_iff_eq_none.mp hnone) q hq (beq_iff_eq.mp hqa)
  have hshow : NoRetry y.rwShow := by
    obtain ⟨hrwy, -⟩ := y.rwShow_shows
    intro q hq
    rw [hrwy] at hq
    exact hretry q hq
  rw [State.rwInbound_eq, hy, if_neg hcalm, hshow.rwAgain]

/-- A message that arrives where Rootway runs. -/
theorem State.rwArrives_of_runs {op plane node : Nat} {m : List Byte} (hop : rmOp m = op) (hreset : s.rwy.resetting = false)
    (hph : s.pw.phase = .running) (hst : s.rd PWR_STAT_STATE ≠ 2) : s.rwArrives op plane node m = s.rwInbound ⟨node, plane, m⟩ :=
  if_neg (by simp [hop, hreset, hph, hst])

/-- A state at the instant t that differs from s in what is stored, and in its locks. -/
structure Poised (t : Nat) (s x : State) : Prop where
  regs : x.regs = s.regs
  now : x.now = t
  silent : x.rwMaySend = false
  out : x.rwy.out = s.rwy.out
  ops : x.rwy.ops = s.rwy.ops
  posted : x.rwy.posted = s.rwy.posted

theorem Poised.begin (h : s.rwMaySend = false) (t : Nat) : Poised t s (s.begin t) := ⟨rfl, rfl, h, rfl, rfl, rfl⟩

/-- The answer to a request, as the registers of s and the instant t make it. -/
def replyAt (t : Nat) (s : State) (r : RwIn) (status : Nat) (data : Option Nat) : RwMsg := (s.begin t).rwReply r status data

theorem Poised.rwReply (h : Poised t s x) (hy : y.regs = x.regs ∨ ∃ f v, (f = RWY_Aa_CNT_SERVED (rmAper r.msg) ∨
    f = RWY_Aa_CNT_REFUSED (rmAper r.msg)) ∧ y = x.wr f v) (hnow : y.now = x.now) (status : Nat) (data : Option Nat) :
    y.rwReply r status data = replyAt t s r status data := by
  have hrd (g : Fld) (hg : g.addr = 0x10902004 + 0x20 * rmAper r.msg) (hlo : g.lo < 32) : y.rd g = (s.begin t).rd g := by
    have hs : x.rd g = (s.begin t).rd g := by
      rw [State.rd, h.regs]
      rfl
    rcases hy with hy | ⟨f, v, hf, rfl⟩
    · rw [← hs, State.rd, hy, State.rd]
    · refine Eq.trans (State.rd_wr_ne x (Fld.key_ne_of_addr_lt hlo ?_) v) hs
      rcases hf with rfl | rfl <;> rw [hg] <;> exact Nat.add_lt_add_right (by decide) _
  have hflag : y.flag (RWY_Aa_CFG_RSPROUTE (rmAper r.msg)) = (s.begin t).flag (RWY_Aa_CFG_RSPROUTE (rmAper r.msg)) :=
    State.flag_congr (hrd _ rfl (Nat.le_of_ble_eq_true rfl))
  have hnow : y.now = (s.begin t).now := hnow.trans h.now
  rw [replyAt, State.rwReply, hflag, hrd (RWY_Aa_CFG_RSPBLZ _) rfl (Nat.le_of_ble_eq_true rfl), hnow, State.rwReply]

/-- What a served request leaves, before the locks are shown. -/
theorem Poised.rwServed (h : Poised t s x) {status : Nat} (h3 : status ≠ 3) (data : Option Nat) :
    x.rwServed r status data = (x.bump (RWY_Aa_CNT_SERVED (rmAper r.msg))).setRwy { x.rwy with
      out := s.rwy.out ++ [replyAt t s r status (if status = 0 then data else none)] } := by
  have hsilent : (x.bump (RWY_Aa_CNT_SERVED (rmAper r.msg))).rwMaySend = false := by
    have hk : Kept [.rwy] [] x (x.bump (RWY_Aa_CNT_SERVED (rmAper r.msg))) := State.bump_kept (Kept.refl _ _ x) (by simp [RWY_Aa_CNT_SERVED])
    have hjoin : (x.bump (RWY_Aa_CNT_SERVED (rmAper r.msg))).joinState = x.joinState := hk.framed.regs _ (by decide)
    have hina : (x.bump (RWY_Aa_CNT_SERVED (rmAper r.msg))).inaBusy = x.inaBusy := by
      have hrd : (x.bump (RWY_Aa_CNT_SERVED (rmAper r.msg))).rd CNP_INA_STAT_STATE = x.rd CNP_INA_STAT_STATE := hk.framed.regs _ (by decide)
      rw [State.inaBusy, hrd]
      rfl
    have hsil := h.silent
    rw [State.rwMaySend] at hsil ⊢
    rw [hjoin, hina]
    exact hsil
  have hreply := h.rwReply (y := x.bump (RWY_Aa_CNT_SERVED (rmAper r.msg))) (r := r) (.inr ⟨_, _, .inl rfl, rfl⟩) rfl status
    (if status = 0 then data else none)
  have hrwy : (x.bump (RWY_Aa_CNT_SERVED (rmAper r.msg))).rwy = x.rwy := rfl
  rw [State.rwServed, if_neg h3, State.rwAnswer_of_silent hsilent, hreply, hrwy, h.out]

end

end Sys2Proof.Machine

/-! ## Requests at an aperture: served, refused, held (R400, R401, R412 to R415) -/

namespace Sys2Proof.Machine

section
variable {s u w x y : State} {t : Nat} {r : RwIn} {m : List Byte}

/-! ### What a request reads and writes -/

theorem State.rwFetch_of_sound (h : RangeSound s (s.rmAddr m) (2 ^ rmSize m)) :
    s.rwFetch m = (some (leNat (s.bytes (s.rmAddr m) (2 ^ rmSize m))), s) := by
  unfold State.rwFetch
  dsimp only
  rw [h.seeRange]
  dsimp only
  rw [h.seen, if_neg (by decide)]

/-- Nothing turns a write of a request away or makes more of it than a store. -/
structure Writable (s : State) (m : List Byte) : Prop where
  noSoft : NoSoft s
  region : s.inRegion (s.rmAddr m) (2 ^ rmSize m) = false
  sound : RangeSound s (s.rmAddr m / 64 * 64) 128
  staging : inStaging (s.rmAddr m) (2 ^ rmSize m) = false

theorem two_pow_rmSize_le (m : List Byte) : 2 ^ rmSize m ≤ 8 :=
  Nat.pow_le_pow_right (n := 2) (by decide) (Nat.le_of_lt_succ (Nat.mod_lt _ (by decide) : rmSize m < 4))

theorem Writable.rwPut (h : Writable s m) (v : Nat) : s.rwPut m v = (0, s.store (s.rmAddr m) (leBytes (2 ^ rmSize m) v)) := by
  have hmerge : s.mergeStore 0x22 (s.rmAddr m) (leBytes (2 ^ rmSize m) v) =
      (true, s.store (s.rmAddr m) (leBytes (2 ^ rmSize m) v)) := by
    refine State.mergeStore_of_sound ?_ ?_
    · rw [leBytes_length]
      exact h.staging
    · rw [leBytes_length]
      exact h.sound.partRows (two_pow_rmSize_le m)
  unfold State.rwPut
  dsimp only
  rw [h.region, if_neg (by decide), hmerge]
  dsimp only
  rw [if_pos rfl]

/-! ### States that a request passes through -/

theorem State.rwMaySend_congr (hregs : ∀ f ∈ [CNP_JOIN_STAT_STATE, CNP_INA_STAT_STATE], u.rd f = s.rd f) (hfab : u.fab = s.fab)
    (hpw : u.pw = s.pw) (hreset : u.rwy.resetting = s.rwy.resetting) : u.rwMaySend = s.rwMaySend := by
  have hjoin : u.joinState = s.joinState := hregs _ (by simp)
  have hina : u.inaBusy = s.inaBusy := by rw [State.inaBusy, hregs CNP_INA_STAT_STATE (by simp), hfab, State.inaBusy]
  rw [State.rwMaySend, hjoin, hina, hpw, hreset, State.rwMaySend]

/-- A store leaves a state poised. -/
theorem Poised.store (h : Poised t s x) (hs : NoSoft s) (a : Nat) (bs : List Byte) :
    Poised t s (x.store a bs) ∧ (x.store a bs).rwy = x.rwy ∧ Stored a bs x (x.store a bs) ∧
      Touches [] [] [.mem, .ecc, .cvu] x (x.store a bs) := by
  have hsoft : NoSoft x := hs.of_regsIn fun f _ => by rw [State.rd, h.regs, State.rd]
  obtain ⟨hstored, hregs, htouch⟩ := State.store_shows hsoft a bs
  generalize x.store a bs = z at hstored hregs htouch
  have hrwy : z.rwy = x.rwy := htouch.parts .rwy (by decide)
  have hnow : z.now = x.now := htouch.parts .now (by decide)
  have hsend : z.rwMaySend = x.rwMaySend := State.rwMaySend_congr (fun f _ => by rw [State.rd, hregs, State.rd])
    (htouch.parts .fab (by decide)) (htouch.parts .pw (by decide)) (congrArg Rootway.resetting hrwy)
  exact ⟨⟨hregs.trans h.regs, hnow.trans h.now, hsend.trans h.silent, (congrArg Rootway.out hrwy).trans h.out,
    (congrArg Rootway.ops hrwy).trans h.ops, (congrArg Rootway.posted hrwy).trans h.posted⟩, hrwy, hstored, htouch⟩

/-- A change of the locks, the stall queue and the hold. -/
theorem Poised.setRwy (h : Poised t s x) {z : Rootway} (hout : z.out = x.rwy.out) (hops : z.ops = x.rwy.ops)
    (hposted : z.posted = x.rwy.posted) (hreset : z.resetting = x.rwy.resetting) : Poised t s (x.setRwy z) := by
  have hsend : (x.setRwy z).rwMaySend = x.rwMaySend := State.rwMaySend_congr (fun _ _ => rfl) rfl rfl hreset
  exact ⟨h.regs, h.now, hsend.trans h.silent, hout.trans h.out, hops.trans h.ops, hposted.trans h.posted⟩

theorem Poised.rd (h : Poised t s x) (f : Fld) : x.rd f = s.rd f := by rw [State.rd, h.regs, State.rd]

theorem Poised.noRetry (h : Poised t s x) (hs : NoRetry s) : NoRetry x := fun q hq => hs q (h.ops ▸ hq)

/-! ### The ends of a request -/

/-- The addresses of the answer's route lie before those of an aperture's counters. -/
theorem routeKey {a : Nat} {f g : Fld} (hf : f ∈ [RWY_Aa_CFG_RSPROUTE a, RWY_Aa_CFG_RSPBLZ a])
    (hg : g ∈ [RWY_STAT_REFEV, RWY_Aa_CNT_REFUSED a]) : f.key ≠ g.key := by
  simp only [List.mem_cons, List.not_mem_nil, or_false] at hf hg
  rcases hf with rfl | rfl <;> rcases hg with rfl | rfl <;>
    simp only [Fld.key, RWY_Aa_CFG_RSPROUTE, RWY_Aa_CFG_RSPBLZ, RWY_STAT_REFEV, RWY_Aa_CNT_REFUSED] <;> omega

/-- What an aperture's counters show is not among what shows its locks. -/
theorem State.rd_rwShow_aper (s : State) {f : Fld} (hlo : f.lo < 32) (hne : f.key ≠ RWY_STAT_STALL.key)
    (hf : ∀ a ∈ [0, 1, 2, 3], f.addr ≠ 0x10902010 + 0x20 * a) : s.rwShow.rd f = s.rd f := by
  obtain ⟨-, -, -, hother, -⟩ := s.rwShow_shows
  exact hother f hlo hne hf

theorem State.rd_rwShow_served (s : State) (b : Nat) :
    s.rwShow.rd (RWY_Aa_CNT_SERVED b) = s.rd (RWY_Aa_CNT_SERVED b) ∧
      s.rwShow.rd (RWY_Aa_CNT_REFUSED b) = s.rd (RWY_Aa_CNT_REFUSED b) := by
  have haddr : ∀ a ∈ [0, 1, 2, 3], 0x10902014 + 0x20 * b ≠ 0x10902010 + 0x20 * a := by
    intro a _
    omega
  have hkeys : (RWY_Aa_CNT_SERVED b).key ≠ RWY_STAT_STALL.key ∧ (RWY_Aa_CNT_REFUSED b).key ≠ RWY_STAT_STALL.key := by
    simp only [Fld.key, RWY_Aa_CNT_SERVED, RWY_Aa_CNT_REFUSED, RWY_STAT_STALL]
    omega
  exact ⟨s.rd_rwShow_aper (Nat.le_of_ble_eq_true rfl) hkeys.1 haddr, s.rd_rwShow_aper (Nat.le_of_ble_eq_true rfl) hkeys.2 haddr⟩

theorem rmAper_lt (m : List Byte) : rmAper m < 4 := Nat.mod_lt _ (by decide)

/-- What a served request leaves. -/
theorem Poised.served (h : Poised t s x) {status : Nat} (h3 : status ≠ 3) (data : Option Nat) :
    let y := x.rwServed r status data
    y.rwy = { x.rwy with out := s.rwy.out ++ [replyAt t s r status (if status = 0 then data else none)] } ∧
      y.rd (RWY_Aa_CNT_SERVED (rmAper r.msg)) = sat 16 (s.rd (RWY_Aa_CNT_SERVED (rmAper r.msg)) + 1) ∧
      (Raises [] s x → Raises [] s y) ∧ Touches [] [.rwy] [.rwy] x y := by
  have hbump : Touches [] [.rwy] [.rwy] x (x.bump (RWY_Aa_CNT_SERVED (rmAper r.msg))) :=
    (Touches.refl [] [.rwy] [.rwy] x).wrIn (f := RWY_Aa_CNT_SERVED (rmAper r.msg)) (List.mem_singleton.mpr rfl) _
  rw [h.rwServed h3]
  refine ⟨rfl, ?_, fun hx => ?_, ?_⟩
  · exact (State.rd_bump_same x (RWY_Aa_CNT_SERVED (rmAper r.msg)) 1).trans (by rw [h.rd]; rfl)
  · exact (hx.bump (f := RWY_Aa_CNT_SERVED (rmAper r.msg)) (Nat.ne_of_beq_eq_false rfl) (Nat.ne_of_beq_eq_false rfl) 1).of_regs_eq rfl
  · exact hbump.across (State.setRwy_kept (Kept.refl [] [.rwy] _) (by decide)) (by decide) (by decide)

/-- What a refused request leaves. -/
theorem Poised.refused (h : Poised t s x) (r : RwIn) (status : Nat) :
    let y := x.rwRefuse r status
    y.rwy = { x.rwy with out := s.rwy.out ++ [replyAt t s r status none] } ∧
      y.rd (RWY_Aa_CNT_REFUSED (rmAper r.msg)) = sat 16 (s.rd (RWY_Aa_CNT_REFUSED (rmAper r.msg)) + 1) ∧
      (status = 3 ∨ status = 6 → y.rd RWY_STAT_REFEV = 1 ∧ (Raises [] s x → Raises [164] s y)) ∧
      (¬ (status = 3 ∨ status = 6) → Raises [] s x → Raises [] s y ∧ y.rd RWY_STAT_REFEV = s.rd RWY_STAT_REFEV) ∧
      Touches [] [.rwy, .pend] [.rwy] x y := by
  intro y
  obtain ⟨z, hz⟩ : ∃ z, z = x.bump (RWY_Aa_CNT_REFUSED (rmAper r.msg)) := ⟨_, rfl⟩
  have hzrwy : z.rwy = x.rwy := by rw [hz]; rfl
  have hkey : RWY_STAT_REFEV.key ≠ (RWY_Aa_CNT_REFUSED (rmAper r.msg)).key := by
    simp only [Fld.key, RWY_STAT_REFEV, RWY_Aa_CNT_REFUSED]
    omega
  have hzcnt : z.rd (RWY_Aa_CNT_REFUSED (rmAper r.msg)) = sat 16 (s.rd (RWY_Aa_CNT_REFUSED (rmAper r.msg)) + 1) := by
    rw [hz, State.rd_bump_same, h.rd]
    rfl
  have hzrd (f : Fld) (hf : f.key ≠ (RWY_Aa_CNT_REFUSED (rmAper r.msg)).key) : z.rd f = s.rd f := by
    rw [hz, State.bump_eq, State.rd_wr_ne _ hf, h.rd]
  have hztouch : Touches [] [.rwy, .pend] [.rwy] x z := by
    rw [hz]
    exact (Touches.refl _ _ _ x).wrIn (f := RWY_Aa_CNT_REFUSED (rmAper r.msg)) List.mem_cons_self _
  have hzraise (hx : Raises [] s x) : Raises [] s z := by
    rw [hz]
    exact hx.bump (f := RWY_Aa_CNT_REFUSED (rmAper r.msg)) (Nat.ne_of_beq_eq_false rfl) (Nat.ne_of_beq_eq_false rfl) 1
  have hznow : z.now = t := by rw [hz]; exact h.now
  obtain ⟨v, hv⟩ : ∃ v, v = if status = 3 ∨ status = 6 then (z.wr RWY_STAT_REFEV 1).raise 164 else z := ⟨_, rfl⟩
  have hy : y = v.rwAnswer r status none := by rw [hv, hz]; rfl
  clear_value y
  clear hz
  have hvrd (f : Fld) (hf : f.key ≠ RWY_STAT_REFEV.key) (hp : f.area.code ≠ 5) : v.rd f = z.rd f := by
    rw [hv]
    split
    · rw [State.rd_raise_code hp, State.rd_wr_ne _ hf]
    · rfl
  have hvtouch : Touches [] [.rwy, .pend] [.rwy] x v := by
    rw [hv]
    split
    · exact (hztouch.wrIn (f := RWY_STAT_REFEV) (by decide) 1).raise (by decide) 164
    · exact hztouch
  have hvk : Kept [.rwy, .pend] [] z v := by
    rw [hv]
    exact Kept.ite (State.raise_kept (State.wr_kept (Kept.refl _ _ z) (by decide)) (by decide)) (Kept.refl _ _ z)
  have hvrwy : v.rwy = z.rwy := hvk.framed.parts .rwy (by decide)
  have hsilent : v.rwMaySend = false := by
    refine (State.rwMaySend_congr (s := x) (fun f hf => hvtouch.regs f List.not_mem_nil ?_) (hvtouch.parts .fab (by decide))
      (hvtouch.parts .pw (by decide)) (congrArg Rootway.resetting (hvrwy.trans hzrwy))).trans h.silent
    simp only [List.mem_cons, List.not_mem_nil, or_false] at hf
    rcases hf with rfl | rfl <;> decide
  have hreply : v.rwReply r status none = replyAt t s r status none := by
    have hroute (f : Fld) (hf : f ∈ [RWY_Aa_CFG_RSPROUTE (rmAper r.msg), RWY_Aa_CFG_RSPBLZ (rmAper r.msg)]) :
        v.rd f = (s.begin t).rd f := by
      have hp : f.area.code ≠ 5 := by
        simp only [List.mem_cons, List.not_mem_nil, or_false] at hf
        rcases hf with rfl | rfl <;> exact Nat.ne_of_beq_eq_false rfl
      exact (hvrd f (routeKey hf (by simp)) hp).trans (hzrd f (routeKey hf (by simp)))
    have hnow : v.now = (s.begin t).now := Eq.trans (hvk.framed.parts .now (by decide)) hznow
    rw [replyAt, State.rwReply, State.flag_congr (hroute (RWY_Aa_CFG_RSPROUTE _) (by simp)), hroute (RWY_Aa_CFG_RSPBLZ _) (by simp),
      hnow, State.rwReply]
  have hans : y = v.setRwy { x.rwy with out := s.rwy.out ++ [replyAt t s r status none] } := by
    rw [hy, State.rwAnswer_of_silent hsilent, hreply, hvrwy, hzrwy, h.out]
  rw [hans]
  have hset : Kept [] [.rwy] v (v.setRwy { x.rwy with out := s.rwy.out ++ [replyAt t s r status none] }) :=
    State.setRwy_kept (Kept.refl _ _ v) (by decide)
  refine ⟨rfl, ?_, fun hs => ⟨?_, fun hx => ?_⟩, fun hs hx => ⟨?_, ?_⟩, hvtouch.across hset (by decide) (by decide)⟩
  · exact (hvrd (RWY_Aa_CNT_REFUSED (rmAper r.msg)) hkey.symm (Nat.ne_of_beq_eq_false rfl)).trans hzcnt
  · show v.rd RWY_STAT_REFEV = 1
    rw [hv, if_pos hs, State.rd_raise_code (by decide), State.rd_wr_same]
    rfl
  · refine Raises.of_regs_eq (u := v) ?_ rfl
    rw [hv, if_pos hs]
    exact ((hzraise hx).wr (f := RWY_STAT_REFEV) (by decide) (by decide) 1).raise (by decide)
  · refine Raises.of_regs_eq (u := v) ?_ rfl
    rw [hv, if_neg hs]
    exact hzraise hx
  · show v.rd RWY_STAT_REFEV = _
    rw [hv, if_neg hs]
    exact hzrd _ hkey

/-! ### A request that arrives -/

/-- A message arrives where Rootway runs, and answers wait. -/
structure Arrives (s : State) (m : List Byte) (op : Nat) : Prop where
  op : rmOp m = op
  reset : s.rwy.resetting = false
  phase : s.pw.phase = .running
  state : s.rd PWR_STAT_STATE ≠ 2
  silent : s.rwMaySend = false

theorem Arrives.rwArrives {op plane node : Nat} (h : Arrives s m op) :
    (s.begin t).rwArrives op plane node m = (s.begin t).rwInbound ⟨node, plane, m⟩ :=
  State.rwArrives_of_runs (s := s.begin t) h.op h.reset h.phase h.state

/-- How an aperture has answered a request: with op 9 a write, with op 8 any other. -/
def Answers (t node plane : Nat) (m : List Byte) (op status : Nat) (d : Option Nat) (s u : State) : Prop :=
  u.rwy.out = s.rwy.out ++ [⟨if s.rd (RWY_Aa_CFG_RSPROUTE (rmAper m)) = 1 then some (s.rd (RWY_Aa_CFG_RSPBLZ (rmAper m))) else none,
    node, plane, rwMessage op (rmSize m) 0 (rmAper m) status (rmOff m) (rmTag m) d, t⟩]

theorem replyAt_eq {t node plane op status : Nat} {d : Option Nat} (hop : (if rmOp m = 2 then 9 else 8) = op) :
    replyAt t s ⟨node, plane, m⟩ status d =
      ⟨if s.rd (RWY_Aa_CFG_RSPROUTE (rmAper m)) = 1 then some (s.rd (RWY_Aa_CFG_RSPBLZ (rmAper m))) else none,
        node, plane, rwMessage op (rmSize m) 0 (rmAper m) status (rmOff m) (rmTag m) d, t⟩ := by
  rw [replyAt, State.rwReply, ← hop]
  congr 1
  simp only [State.flag, beq_iff_eq, State.begin_rd]

/-- What a served request shows. -/
def ServedAt (m : List Byte) (s u : State) : Prop :=
  u.rd (RWY_Aa_CNT_SERVED (rmAper m)) = sat 16 (s.rd (RWY_Aa_CNT_SERVED (rmAper m)) + 1) ∧ Quiet s u

/-- Nothing but Rootway's own differs, and not what it has sent out and waits for. -/
def KeepsRwy (s u : State) : Prop :=
  Framed [.rwy] [.now, .resp, .out, .rwy] s u ∧ u.rwy.ops = s.rwy.ops ∧ u.rwy.posted = s.rwy.posted

/-- As `KeepsRwy`, beside a write of memory. -/
def StoresRwy (s u : State) : Prop :=
  Framed [.rwy, .ecc, .cvu] [.now, .mem, .resp, .out, .ecc, .cvu, .rwy] s u ∧ u.rwy.ops = s.rwy.ops ∧ u.rwy.posted = s.rwy.posted

/-- Nobody waits for the aperture of a request where it is free, and nothing is to be sent again. -/
structure CalmAt (m : List Byte) (s : State) : Prop where
  noRetry : NoRetry s
  stall : s.lockOf (rmAper m) = none → ∀ q ∈ s.rwy.stall, rmAper q.msg ≠ rmAper m

/-- What a request that is served from a poised state shows in the end. -/
structure EndsServed (t : Nat) (r : RwIn) (status : Nat) (data : Option Nat) (s x u : State) : Prop where
  out : u.rwy.out = s.rwy.out ++ [replyAt t s r status data]
  served : ServedAt r.msg s u
  ops : u.rwy.ops = s.rwy.ops
  posted : u.rwy.posted = s.rwy.posted
  locks : u.rwy.locks = x.rwy.locks
  shown : u.rd (RWY_Aa_STAT_LOCKED (rmAper r.msg)) = (lockFields (x.lockOf (rmAper r.msg))).1 ∧
    u.rd (RWY_Aa_STAT_HOLDER (rmAper r.msg)) = (lockFields (x.lockOf (rmAper r.msg))).2
  touches : Touches [] [.rwy] [.rwy] x u

theorem Poised.ends (h : Poised t s x) (hx : Raises [] s x) {status : Nat} {data : Option Nat}
    (hj : (s.begin t).rwJudged r = x.rwServed r status data) (h3 : status ≠ 3) (hretry : NoRetry s)
    (hstall : x.lockOf (rmAper r.msg) = none → ∀ q ∈ x.rwy.stall, rmAper q.msg ≠ rmAper r.msg) :
    EndsServed t r status (if status = 0 then data else none) s x ((s.begin t).rwInbound r) := by
  obtain ⟨hrwy, hcnt, hraises, htouch⟩ := h.served (r := r) h3 data
  generalize hy : x.rwServed r status data = y at hj hrwy hcnt hraises htouch
  have hlock (b : Nat) : y.lockOf b = x.lockOf b := by rw [State.lockOf, hrwy, State.lockOf]
  have hyretry : NoRetry y := fun q hq => hretry q (by
    rw [hrwy] at hq
    rw [← h.ops]
    exact hq)
  rw [State.rwInbound_of_calm hj hyretry (by rw [hlock, hrwy]; exact hstall)]
  obtain ⟨hsrwy, -, hshown, -, hk⟩ := y.rwShow_shows
  have hlocks := hshown _ (rmAper_lt r.msg)
  rw [hlock] at hlocks
  have hout : y.rwShow.rwy.out = s.rwy.out ++ [replyAt t s r status (if status = 0 then data else none)] := by rw [hsrwy, hrwy]
  have hops : y.rwShow.rwy.ops = s.rwy.ops := by rw [hsrwy, hrwy]; exact h.ops
  have hposted : y.rwShow.rwy.posted = s.rwy.posted := by rw [hsrwy, hrwy]; exact h.posted
  exact ⟨hout, ⟨(y.rd_rwShow_served _).1.trans hcnt, ((hraises hx).kept hk (by decide) (by decide)).raised⟩, hops, hposted,
    by rw [hsrwy, hrwy], hlocks, htouch.across hk (by decide) (by decide)⟩

/-- A request that is served without a write of memory. -/
theorem EndsServed.keeps {status : Nat} {d : Option Nat} (h : EndsServed t r status d s x u)
    (hx : Touches [] [] [.now, .resp, .out, .rwy] s x) : KeepsRwy s u := by
  have htouch : Touches [] [.rwy] [.now, .resp, .out, .rwy] s u :=
    Touches.trans (Touches.mono ⟨fun f hf _ => hx.regs f hf List.not_mem_nil, hx.parts⟩ (fun _ h => h)) h.touches (fun _ h => h)
      (by decide) (by decide)
  exact ⟨⟨fun f hf => htouch.regs f List.not_mem_nil hf, htouch.parts⟩, h.ops, h.posted⟩

/-- A request that is served with a write of memory. -/
theorem EndsServed.stores {status : Nat} {d : Option Nat} (h : EndsServed t r status d s x u)
    (hx : Touches [] [] [.now, .mem, .resp, .out, .ecc, .cvu, .rwy] s x) : StoresRwy s u := by
  have htouch : Touches [] [.rwy, .ecc, .cvu] [.now, .mem, .resp, .out, .ecc, .cvu, .rwy] s u :=
    Touches.trans ⟨fun f hf _ => hx.regs f hf List.not_mem_nil, hx.parts⟩ h.touches (fun _ h => h) (by decide) (by decide)
  exact ⟨⟨fun f hf => htouch.regs f List.not_mem_nil hf, htouch.parts⟩, h.ops, h.posted⟩

end

end Sys2Proof.Machine

/-! ## Requests at an aperture: the judgement, the locks and the AMO functions (R401, R412 to R417): O46 -/

namespace Sys2Proof.Machine

section
variable {s u w x y : State} {t : Nat} {r : RwIn} {m : List Byte} {plane : Fin 2} {node : Fin 129} {l : RwLock}

/-! ### A request that is refused -/

theorem State.aperJudge_le (s : State) (node : Nat) (m : List Byte) : s.aperJudge node m ≤ 3 := by
  unfold State.aperJudge
  dsimp only
  split
  · decide
  · split
    · decide
    · split
      · decide
      · split <;> decide

/-- What a request that the judgement refuses shows. -/
def Refuses (t node plane status : Nat) (m : List Byte) (s u : State) : Prop :=
  Answers t node plane m (if rmOp m = 2 then 9 else 8) status none s u ∧
    u.rd (RWY_Aa_CNT_REFUSED (rmAper m)) = sat 16 (s.rd (RWY_Aa_CNT_REFUSED (rmAper m)) + 1) ∧
    (status = 3 → u.rd RWY_STAT_REFEV = 1 ∧ Raised [164] s u) ∧ (status ≠ 3 → Quiet s u) ∧
    Framed [.rwy, .pend] [.now, .resp, .out, .rwy] s u

/-- What follows a refusal: nobody waits, and the locks are shown. -/
theorem refused_ends (hsilent : s.rwMaySend = false) (hcalm : CalmAt m s) {status : Nat}
    (hj : (s.begin t).rwJudged ⟨node, plane, m⟩ = (s.begin t).rwRefuse ⟨node, plane, m⟩ status) :
    let u := (s.begin t).rwInbound ⟨node, plane, m⟩
    u = ((s.begin t).rwRefuse ⟨node, plane, m⟩ status).rwShow ∧
      Answers t node plane m (if rmOp m = 2 then 9 else 8) status none s u ∧
      u.rd (RWY_Aa_CNT_REFUSED (rmAper m)) = sat 16 (s.rd (RWY_Aa_CNT_REFUSED (rmAper m)) + 1) ∧
      (status = 3 ∨ status = 6 → u.rd RWY_STAT_REFEV = 1 ∧ Raised [164] s u) ∧ (¬ (status = 3 ∨ status = 6) → Quiet s u) ∧
      u.rwy.stall = s.rwy.stall ∧ Framed [.rwy, .pend] [.now, .resp, .out, .rwy] s u := by
  intro u
  have h : Poised t s (s.begin t) := Poised.begin hsilent t
  obtain ⟨hrwy, hcnt, hev, hquiet, htouch⟩ := h.refused ⟨node, plane, m⟩ status
  have hu : u = ((s.begin t).rwRefuse ⟨node, plane, m⟩ status).rwShow := by
    refine State.rwInbound_of_calm hj ?_ ?_
    · intro q hq
      rw [hrwy] at hq
      exact hcalm.noRetry q hq
    · rw [State.lockOf, hrwy]
      exact hcalm.stall
  refine ⟨hu, ?_⟩
  rw [hu]
  generalize (s.begin t).rwRefuse ⟨node, plane, m⟩ status = y at hrwy hcnt hev hquiet htouch
  obtain ⟨hsrwy, -, -, -, hk⟩ := y.rwShow_shows
  have hshown : y.rwShow.rd RWY_STAT_REFEV = y.rd RWY_STAT_REFEV := y.rd_rwShow_aper (by decide) (by decide) (by decide)
  have hall : Touches [] [.rwy, .pend] [.now, .resp, .out, .rwy] s y.rwShow :=
    ((Touches.begin s t (by decide)).trans htouch (fun _ h => h) (by decide) (by decide)).across hk (by decide) (by decide)
  refine ⟨?_, (y.rd_rwShow_served _).2.trans hcnt, fun hs => ⟨hshown.trans (hev hs).1, ?_⟩, fun hs => ?_, ?_,
    ⟨fun f hf => hall.regs f List.not_mem_nil hf, hall.parts⟩⟩
  · rw [Answers, hsrwy, hrwy]
    exact congrArg (s.rwy.out ++ [·]) (replyAt_eq rfl)
  · exact (((hev hs).2 (Raises.begin s t)).kept hk (by decide) (by decide)).raised
  · exact (((hquiet hs (Raises.begin s t)).1).kept hk (by decide) (by decide)).raised
  · rw [hsrwy, hrwy]
    rfl

theorem request_refused (h : rmOp m ≠ opUnlock) (hsilent : s.rwMaySend = false) (hcalm : CalmAt m s)
    (hj : (s.begin t).aperJudge node m ≠ 0) :
    Refuses t node plane ((s.begin t).aperJudge node m) m s ((s.begin t).rwInbound ⟨node, plane, m⟩) := by
  have hle := (s.begin t).aperJudge_le node m
  have hjudged : (s.begin t).rwJudged ⟨node, plane, m⟩ =
      (s.begin t).rwRefuse ⟨node, plane, m⟩ ((s.begin t).aperJudge node m) := by
    unfold State.rwJudged
    dsimp only
    rw [if_neg h, if_pos hj]
  obtain ⟨-, hans, hcnt, hev, hquiet, -, hframed⟩ := refused_ends hsilent hcalm hjudged
  exact ⟨hans, hcnt, fun h3 => hev (.inl h3), fun h3 => hquiet (by omega), hframed⟩

/-! ### Requests that are served -/

theorem EndsServed.answers {status op : Nat} {d : Option Nat} (h : EndsServed t ⟨node, plane, m⟩ status d s x u)
    (hop : (if rmOp m = 2 then 9 else 8) = op) : Answers t node plane m op status d s u := by
  rw [Answers, h.out]
  exact congrArg (s.rwy.out ++ [·]) (replyAt_eq hop)

theorem judged_poll (h : Arrives s m 7) (hj : (s.begin t).aperJudge node m = 0) :
    (s.begin t).rwJudged ⟨node, plane, m⟩ =
      (s.begin t).rwServed ⟨node, plane, m⟩ 0 (some (s.rd (RWY_Aa_DOOR (rmAper m)))) := by
  have hop := h.op
  unfold State.rwJudged
  dsimp only
  rw [hj, hop, if_neg (by decide), if_neg (by decide), if_pos rfl]
  rfl

theorem poll_served (h : Arrives s m 7) (hj : (s.begin t).aperJudge node m = 0) (hcalm : CalmAt m s) :
    Does (.rwPoll plane node m t) s fun u => Answers t node plane m 8 0 (some (s.rd (RWY_Aa_DOOR (rmAper m)))) s u ∧ ServedAt m s u ∧
      KeepsRwy s u ∧ u.rwy.locks = s.rwy.locks := by
  have hends := (Poised.begin h.silent t).ends (Raises.begin s t) (judged_poll (plane := plane) h hj) (by decide) hcalm.noRetry hcalm.stall
  have hop : (if rmOp m = 2 then 9 else 8) = 8 := by rw [h.op]; rfl
  exact ⟨_, congrArg Host.Outcome.next h.rwArrives, hends.answers hop, hends.served, hends.keeps (Touches.begin s t (by decide)), hends.locks⟩

theorem Writable.begin (h : Writable s m) (t : Nat) : Writable (s.begin t) m := ⟨h.noSoft, h.region, h.sound, h.staging⟩

theorem write_served (h : Arrives s m 2) (hj : (s.begin t).aperJudge node m = 0) (hcalm : CalmAt m s) (hw : Writable s m) :
    Does (.rwWrite plane node m t) s fun u => Stored (s.rmAddr m) (leBytes (2 ^ rmSize m) (rmData m)) s u ∧
      Answers t node plane m 9 0 none s u ∧ ServedAt m s u ∧ StoresRwy s u ∧ u.rwy.locks = s.rwy.locks := by
  obtain ⟨hp, hrwy, hstored, htouch⟩ := (Poised.begin h.silent t).store hw.noSoft (s.rmAddr m) (leBytes (2 ^ rmSize m) (rmData m))
  have hjudged : (s.begin t).rwJudged ⟨node, plane, m⟩ =
      ((s.begin t).store (s.rmAddr m) (leBytes (2 ^ rmSize m) (rmData m))).rwServed ⟨node, plane, m⟩ 0 none := by
    have hop := h.op
    have hput : (s.begin t).rwPut m (rmData m) = (0, (s.begin t).store (s.rmAddr m) (leBytes (2 ^ rmSize m) (rmData m))) :=
      (hw.begin t).rwPut _
    unfold State.rwJudged
    dsimp only
    rw [hj, hop, if_neg (by decide), if_neg (by decide), if_neg (by decide), if_pos rfl, hput]
  have hregs := hp.regs
  have hbegin : Touches [] [] [.now, .mem, .resp, .out, .ecc, .cvu, .rwy] s (s.begin t) := Touches.begin s t (by decide)
  have hx : Touches [] [] [.now, .mem, .resp, .out, .ecc, .cvu, .rwy] s
      ((s.begin t).store (s.rmAddr m) (leBytes (2 ^ rmSize m) (rmData m))) :=
    hbegin.trans htouch (fun _ h => h) (by decide) (by decide)
  generalize (s.begin t).store (s.rmAddr m) (leBytes (2 ^ rmSize m) (rmData m)) = x at hp hrwy hstored htouch hjudged hregs hx
  have hends := hp.ends ((Raises.refl s).of_regs_eq hregs) hjudged (by decide) hcalm.noRetry (by
    rw [State.lockOf, hrwy]
    exact hcalm.stall)
  have hop : (if rmOp m = 2 then 9 else 8) = 9 := by rw [h.op]; rfl
  exact ⟨_, congrArg Host.Outcome.next h.rwArrives, (hstored.of_source rfl).of_mem_eq (hends.touches.parts .mem (by decide)),
    hends.answers hop, hends.served, hends.stores hx, hends.locks.trans (congrArg Rootway.locks hrwy)⟩

/-! ### READ, LOCKRD and AMO (R412 to R417) -/

/-- No other initiator holds the aperture of a request. -/
def MayLock (s : State) (m : List Byte) (node : Nat) : Prop := ∀ l, s.lockOf (rmAper m) = some l → l.node = node

theorem MayLock.heldElse {n : Nat} (h : MayLock s m n) : s.heldElse (rmAper m) n = false := by
  unfold State.heldElse
  cases hl : s.lockOf (rmAper m) with
  | none => rfl
  | some l => simp [h l hl]

theorem judged_locked {op : Nat} (h : Arrives s m op) (hop : op ∈ [1, 3, 6]) (hj : (s.begin t).aperJudge node m = 0) :
    (s.begin t).rwJudged ⟨node, plane, m⟩ = (s.begin t).rwLocked ⟨node, plane, m⟩ := by
  have hm := h.op
  have hne : op ≠ opUnlock ∧ op ≠ opPoll ∧ op ≠ opWrite ∧ op ≠ opWrunlk := by
    simp only [List.mem_cons, List.not_mem_nil, or_false] at hop
    rcases hop with rfl | rfl | rfl <;> decide
  obtain ⟨hunlock, hpoll, hwrite, hwrunlk⟩ := hne
  unfold State.rwJudged
  dsimp only
  rw [hj, hm, if_neg hunlock, if_neg (by decide), if_neg hpoll, if_neg hwrite, if_neg hwrunlk]

/-- A READ ends with what its rows answer. -/
def State.rwReadOn (s : State) (r : RwIn) : State :=
  match s.rwFetch r.msg with
  | (some v, s) => s.rwServed r 0 (some v)
  | (none, s) => s.rwServed r 5 none

/-- A locked request to a free aperture ends the hold of the own side. -/
def State.holdEnded (s : State) (m : List Byte) : State :=
  if (s.lockOf (rmAper m)).isNone then s.setRwy { s.rwy with hold := false } else s

/-- A LOCKRD or an AMO that nothing holds back. -/
def State.rwLockedOn (s : State) (r : RwIn) : State :=
  match s.rwFetch r.msg with
  | (none, s) => s.rwServed r 5 none
  | (some v, s) =>
    if rmOp r.msg = opLockrd then (s.setLock (rmAper r.msg) (some ⟨r.node, s.now⟩)).rwServed r 0 (some v)
    else
      let (x, s) := s.amoResult (rmFn r.msg) (8 * 2 ^ rmSize r.msg) v (rmData r.msg)
      let (st, s) := s.rwPut r.msg x
      s.rwServed r st (some v)

/-- READ, LOCKRD and AMO in their cases: held in the stall queue, served, refused with RETRY, served. -/
theorem State.rwLocked_eq (s : State) (r : RwIn) : s.rwLocked r =
    if s.heldElse (rmAper r.msg) r.node || ((s.lockOf (rmAper r.msg)).isNone && rmOp r.msg == opLockrd &&
        s.lowerComes (rmAper r.msg) r.node) then
      (if 16 ≤ s.rwy.stall.length then s.rwRefuse r 6 else s.setRwy { s.rwy with stall := s.rwy.stall ++ [r] })
    else if rmOp r.msg = opRead then s.rwReadOn r
    else if (s.lockOf (rmAper r.msg)).isNone && s.rwy.hold && decide (s.nodeId < r.node) then s.rwAnswer r 0xC none
    else (s.holdEnded r.msg).rwLockedOn r := rfl

/-- A READ is served where no other initiator holds the aperture. -/
theorem State.rwLocked_read (hop : rmOp m = opRead) {n p : Nat} (hmay : MayLock s m n) (hs : RangeSound s (s.rmAddr m) (2 ^ rmSize m)) :
    s.rwLocked ⟨n, p, m⟩ = s.rwServed ⟨n, p, m⟩ 0 (some (leNat (s.bytes (s.rmAddr m) (2 ^ rmSize m)))) := by
  rw [State.rwLocked_eq]
  dsimp only
  rw [hmay.heldElse, hop, if_neg (by simp), if_pos rfl, State.rwReadOn]
  dsimp only
  rw [State.rwFetch_of_sound hs]

/-- A LOCKRD or an AMO goes on where it is not held back. -/
theorem State.rwLocked_on (hop : rmOp m ≠ opRead) {n p : Nat} (hmay : MayLock s m n)
    (hbehind : rmOp m = opLockrd → s.lockOf (rmAper m) ≠ none ∨ s.lowerComes (rmAper m) n = false)
    (hhold : s.rwy.hold = false ∨ n ≤ s.nodeId) : s.rwLocked ⟨n, p, m⟩ = (s.holdEnded m).rwLockedOn ⟨n, p, m⟩ := by
  have hlower : (false || ((s.lockOf (rmAper m)).isNone && rmOp m == opLockrd && s.lowerComes (rmAper m) n)) = false := by
    by_cases hlock : rmOp m = opLockrd
    · rcases hbehind hlock with h | h
      · simp [Option.isNone_eq_false_iff.mpr (Option.isSome_iff_ne_none.mpr h)]
      · simp [h]
    · simp [hlock]
  have hretry : ¬ ((s.lockOf (rmAper m)).isNone && s.rwy.hold && decide (s.nodeId < n)) = true := by
    rcases hhold with h | h
    · simp [h]
    · simp [Nat.not_lt.mpr h]
  rw [State.rwLocked_eq]
  dsimp only
  rw [hmay.heldElse, hlower, if_neg (by decide), if_neg hop, if_neg hretry]

theorem State.rwLockedOn_lockrd (hop : rmOp m = opLockrd) {n p : Nat} (hs : RangeSound s (s.rmAddr m) (2 ^ rmSize m)) :
    s.rwLockedOn ⟨n, p, m⟩ = (s.setLock (rmAper m) (some ⟨n, s.now⟩)).rwServed ⟨n, p, m⟩ 0
      (some (leNat (s.bytes (s.rmAddr m) (2 ^ rmSize m)))) := by
  unfold State.rwLockedOn
  dsimp only
  rw [State.rwFetch_of_sound hs]
  dsimp only
  rw [if_pos hop]

/-- What an AMO function makes of the old value and the operand. -/
def amoValue (f w old data : Nat) : Nat :=
  if f = 0x00 then (old + data) % 2 ^ w else if f = 0x01 then data else if f = 0x04 then old ^^^ data
  else if f = 0x08 then old ||| data else if f = 0x0C then old &&& data
  else if f = 0x10 then (if toSigned w old ≤ toSigned w data then old else data)
  else if f = 0x14 then (if toSigned w old ≤ toSigned w data then data else old)
  else if f = 0x18 then min old data else max old data

theorem State.amoResult_eq {f : Nat} (hf : f ∈ [0x00, 0x01, 0x04, 0x08, 0x0C, 0x10, 0x14, 0x18, 0x1C]) (w old data : Nat) :
    s.amoResult f w old data = (amoValue f w old data, s) := by
  simp only [List.mem_cons, List.not_mem_nil, or_false] at hf
  rcases hf with rfl | rfl | rfl | rfl | rfl | rfl | rfl | rfl | rfl <;> rfl

theorem State.rwLockedOn_amo (hop : rmOp m ≠ opLockrd) {n p : Nat} (hs : RangeSound s (s.rmAddr m) (2 ^ rmSize m))
    (hf : rmFn m ∈ [0x00, 0x01, 0x04, 0x08, 0x0C, 0x10, 0x14, 0x18, 0x1C]) (hw : Writable s m) :
    s.rwLockedOn ⟨n, p, m⟩ = (s.store (s.rmAddr m) (leBytes (2 ^ rmSize m) (amoValue (rmFn m) (8 * 2 ^ rmSize m)
      (leNat (s.bytes (s.rmAddr m) (2 ^ rmSize m))) (rmData m)))).rwServed ⟨n, p, m⟩ 0
        (some (leNat (s.bytes (s.rmAddr m) (2 ^ rmSize m)))) := by
  unfold State.rwLockedOn
  dsimp only
  rw [State.rwFetch_of_sound hs]
  dsimp only
  rw [if_neg hop, State.amoResult_eq hf]
  dsimp only
  rw [hw.rwPut]

/-- What the end of a hold leaves. -/
theorem Poised.holdEnded (h : Poised t s x) (m : List Byte) :
    Poised t s (x.holdEnded m) ∧ (x.holdEnded m).rwy.locks = x.rwy.locks ∧ (x.holdEnded m).rwy.stall = x.rwy.stall ∧
      Touches [] [] [.rwy] x (x.holdEnded m) ∧ (x.holdEnded m).mem = x.mem ∧ (x.holdEnded m).ecc = x.ecc := by
  unfold State.holdEnded
  split
  · exact ⟨h.setRwy rfl rfl rfl rfl, rfl, rfl, (State.setRwy_kept (Kept.refl [] [.rwy] x) (by decide)).touches, rfl, rfl⟩
  · exact ⟨h, rfl, rfl, Touches.refl _ _ _ x, rfl, rfl⟩

end

end Sys2Proof.Machine

/-! ## Requests at an aperture: what locks, the stall queue and the hold make of them (R412 to R417): O46 -/

namespace Sys2Proof.Machine

section
variable {s u w x y : State} {t : Nat} {m : List Byte} {plane : Fin 2} {node : Fin 129} {l : RwLock}

theorem mayLock_of (h : s.lockOf (rmAper m) = none ∨ s.lockOf (rmAper m) = some ⟨node, l.at_⟩) : MayLock s m node := by
  intro k hk
  rcases h with h | h
  · rw [h] at hk
    cases hk
  · rw [h] at hk
    cases hk
    rfl

theorem read_served (h : Arrives s m 1) (hj : (s.begin t).aperJudge node m = 0) (hcalm : CalmAt m s) (hmay : MayLock s m node)
    (hs : RangeSound s (s.rmAddr m) (2 ^ rmSize m)) : Does (.rwRead plane node m t) s fun u =>
      Answers t node plane m 8 0 (some (leNat (s.bytes (s.rmAddr m) (2 ^ rmSize m)))) s u ∧ ServedAt m s u ∧ KeepsRwy s u ∧
      u.rwy.locks = s.rwy.locks := by
  have hjudged : (s.begin t).rwJudged ⟨node, plane, m⟩ = (s.begin t).rwServed ⟨node, plane, m⟩ 0
      (some (leNat (s.bytes (s.rmAddr m) (2 ^ rmSize m)))) :=
    (judged_locked h (by decide) hj).trans (State.rwLocked_read (s := s.begin t) h.op hmay hs)
  have hends := (Poised.begin h.silent t).ends (Raises.begin s t) hjudged (by decide) hcalm.noRetry hcalm.stall
  have hop : (if rmOp m = 2 then 9 else 8) = 8 := by rw [h.op]; rfl
  exact ⟨_, congrArg Host.Outcome.next h.rwArrives, hends.answers hop, hends.served, hends.keeps (Touches.begin s t (by decide)), hends.locks⟩

/-- The bytes that a state with the same memory shows, and its sound rows. -/
theorem RangeSound.of_ecc {a n : Nat} (h : RangeSound s a n) (he : u.ecc = s.ecc) : RangeSound u a n := by
  unfold RangeSound State.rangeRows State.errRows at h ⊢
  rw [he]
  exact h

theorem Poised.rmAddr (h : Poised t s x) (m : List Byte) : x.rmAddr m = s.rmAddr m := by
  rw [State.rmAddr, State.aperBase, h.rd, State.rmAddr, State.aperBase]

theorem lockrd_served (h : Arrives s m 3) (hj : (s.begin t).aperJudge node m = 0) (hcalm : CalmAt m s) (hmay : MayLock s m node)
    (hs : RangeSound s (s.rmAddr m) (2 ^ rmSize m)) (hhold : s.rwy.hold = false ∨ node.val ≤ s.nodeId)
    (hbehind : s.lockOf (rmAper m) ≠ none ∨ (s.begin t).lowerComes (rmAper m) node = false) :
    Does (.rwLockrd plane node m t) s fun u =>
      Answers t node plane m 8 0 (some (leNat (s.bytes (s.rmAddr m) (2 ^ rmSize m)))) s u ∧ ServedAt m s u ∧ KeepsRwy s u ∧
      u.lockOf (rmAper m) = some ⟨node, t⟩ ∧ u.rd (RWY_Aa_STAT_LOCKED (rmAper m)) = 1 ∧ u.rd (RWY_Aa_STAT_HOLDER (rmAper m)) = node := by
  obtain ⟨hp, -, -, htouch, hmem, hecc⟩ := (Poised.begin h.silent t).holdEnded m
  have hlocked : (s.begin t).rwJudged ⟨node, plane, m⟩ = ((s.begin t).holdEnded m).rwLockedOn ⟨node, plane, m⟩ :=
    (judged_locked h (by decide) hj).trans (State.rwLocked_on (s := s.begin t) (by rw [h.op]; decide) hmay (fun _ => hbehind) hhold)
  have hwhole : Touches [] [] [.now, .resp, .out, .rwy] s ((s.begin t).holdEnded m) :=
    (Touches.begin s t (by decide)).trans htouch (fun _ h => h) (by decide) (by decide)
  generalize (s.begin t).holdEnded m = z at hp htouch hmem hecc hlocked hwhole
  have haddr := hp.rmAddr m
  have hbytes : z.bytes (z.rmAddr m) (2 ^ rmSize m) = s.bytes (s.rmAddr m) (2 ^ rmSize m) := by
    rw [haddr]
    exact State.bytes_congr hmem _ _
  have hsz : RangeSound z (z.rmAddr m) (2 ^ rmSize m) := by
    rw [haddr]
    exact hs.of_ecc hecc
  rw [State.rwLockedOn_lockrd h.op hsz, hbytes, hp.now] at hlocked
  have hq : Poised t s (z.setLock (rmAper m) (some ⟨node, t⟩)) := hp.setRwy rfl rfl rfl rfl
  have hown : (z.setLock (rmAper m) (some ⟨node, t⟩)).lockOf (rmAper m) = some ⟨node, t⟩ := tblFind_put_same _ _ _
  have hset : Touches [] [] [.now, .resp, .out, .rwy] s (z.setLock (rmAper m) (some ⟨node, t⟩)) :=
    hwhole.across (State.setLock_kept (Kept.refl [] [.rwy] z) (by decide)) (by decide) (by decide)
  have hends := hq.ends ((Raises.refl s).of_regs_eq hq.regs) hlocked (by decide) hcalm.noRetry (by
    intro hnone
    rw [hown] at hnone
    cases hnone)
  have hop : (if rmOp m = 2 then 9 else 8) = 8 := by rw [h.op]; rfl
  obtain ⟨hlock, hholder⟩ := hends.shown
  rw [hown] at hlock hholder
  refine ⟨_, congrArg Host.Outcome.next h.rwArrives, hends.answers hop, hends.served, hends.keeps hset, ?_, hlock, hholder.trans ?_⟩
  · rw [State.lockOf, hends.locks]
    exact hown
  · exact Nat.mod_eq_of_lt (Nat.lt_of_lt_of_le node.isLt (by decide))

theorem amo_served (h : Arrives s m 6) (hj : (s.begin t).aperJudge node m = 0) (hcalm : CalmAt m s) (hmay : MayLock s m node)
    (hs : RangeSound s (s.rmAddr m) (2 ^ rmSize m)) (hhold : s.rwy.hold = false ∨ node.val ≤ s.nodeId) {old : Nat}
    (hold : leNat (s.bytes (s.rmAddr m) (2 ^ rmSize m)) = old) (hw : Writable s m)
    (hf : rmFn m ∈ [0x00, 0x01, 0x04, 0x08, 0x0C, 0x10, 0x14, 0x18, 0x1C]) : Does (.rwAmo plane node m t) s fun u =>
      Stored (s.rmAddr m) (leBytes (2 ^ rmSize m) (amoValue (rmFn m) (8 * 2 ^ rmSize m) old (rmData m))) s u ∧
      Answers t node plane m 8 0 (some old) s u ∧ ServedAt m s u ∧ StoresRwy s u ∧ u.rwy.locks = s.rwy.locks := by
  obtain ⟨hp, hlocks, hstall, htouch, hmem, hecc⟩ := (Poised.begin h.silent t).holdEnded m
  have hlocked : (s.begin t).rwJudged ⟨node, plane, m⟩ = ((s.begin t).holdEnded m).rwLockedOn ⟨node, plane, m⟩ :=
    (judged_locked h (by decide) hj).trans (State.rwLocked_on (s := s.begin t) (by rw [h.op]; decide) hmay
      (fun h3 => absurd (h.op.symm.trans h3) (by decide)) hhold)
  have hbegin : Touches [] [] [.now, .mem, .resp, .out, .ecc, .cvu, .rwy] s (s.begin t) := Touches.begin s t (by decide)
  have hwhole : Touches [] [] [.now, .mem, .resp, .out, .ecc, .cvu, .rwy] s ((s.begin t).holdEnded m) :=
    hbegin.trans htouch (fun _ h => h) (by decide) (by decide)
  have hregion : ((s.begin t).holdEnded m).inRegion (s.rmAddr m) (2 ^ rmSize m) = s.inRegion (s.rmAddr m) (2 ^ rmSize m) := by
    unfold State.holdEnded
    split <;> rfl
  generalize (s.begin t).holdEnded m = z at hp htouch hmem hecc hlocked hwhole hlocks hstall hregion
  have haddr := hp.rmAddr m
  have hbytes : z.bytes (s.rmAddr m) (2 ^ rmSize m) = s.bytes (s.rmAddr m) (2 ^ rmSize m) := State.bytes_congr hmem _ _
  have hwz : Writable z m := by
    refine ⟨hw.noSoft.of_regsIn fun f _ => hp.rd f, ?_, ?_, ?_⟩
    · rw [haddr, hregion]
      exact hw.region
    · rw [haddr]
      exact hw.sound.of_ecc hecc
    · rw [haddr]
      exact hw.staging
  rw [State.rwLockedOn_amo (by rw [h.op]; decide) (by rw [haddr]; exact hs.of_ecc hecc) hf hwz, haddr, hbytes, hold] at hlocked
  obtain ⟨hq, hrwy, hstored, htz⟩ := hp.store hw.noSoft (s.rmAddr m) (leBytes (2 ^ rmSize m) (amoValue (rmFn m) (8 * 2 ^ rmSize m) old (rmData m)))
  have hall := hwhole.trans htz (fun _ h => h) (by decide) (by decide)
  generalize z.store (s.rmAddr m) (leBytes (2 ^ rmSize m) (amoValue (rmFn m) (8 * 2 ^ rmSize m) old (rmData m))) = v at *
  have hends := hq.ends ((Raises.refl s).of_regs_eq hq.regs) hlocked (by decide) hcalm.noRetry (by
    rw [State.lockOf, hrwy, hlocks, hstall]
    exact hcalm.stall)
  have hop : (if rmOp m = 2 then 9 else 8) = 8 := by rw [h.op]; rfl
  exact ⟨_, congrArg Host.Outcome.next h.rwArrives, (hstored.of_source hmem).of_mem_eq (hends.touches.parts .mem (by decide)),
    hends.answers hop, hends.served, hends.stores hall, hends.locks.trans ((congrArg Rootway.locks hrwy).trans hlocks)⟩

/-! ### Held back -/

theorem heldElse_of (hl : s.lockOf (rmAper m) = some l) {n : Nat} (hn : l.node ≠ n) : s.heldElse (rmAper m) n = true := by
  unfold State.heldElse
  rw [hl]
  exact bne_iff_ne.mpr hn

theorem lockOf_ne_none (hl : s.lockOf (rmAper m) = some l) : s.lockOf (rmAper m) = none → False := fun h => by
  rw [hl] at h
  cases h

/-- What a request that only changes the stall queue leaves. -/
theorem stalled_shows (q : List RwIn) (hy : y = (s.begin t).setRwy { s.rwy with stall := q }) :
    Quiet s y.rwShow ∧ KeepsRwy s y.rwShow ∧ y.rwShow.rwy = { s.rwy with stall := q } ∧
      y.rwShow.rd RWY_STAT_STALL = q.length % 2 ^ 8 := by
  obtain ⟨hrwy, hstall, -, -, hk⟩ := y.rwShow_shows
  have hyrwy : y.rwy = { s.rwy with stall := q } := by rw [hy]; rfl
  have hraises : Raises [] s y := by
    rw [hy]
    exact (Raises.refl s).of_regs_eq rfl
  have htouch : Touches [] [.rwy] [.now, .resp, .out, .rwy] s y := by
    rw [hy]
    exact (Touches.begin s t (by decide)).across (State.setRwy_kept (Kept.refl [] [.rwy] _) (by decide)) (by decide) (by decide)
  have hall : Touches [] [.rwy] [.now, .resp, .out, .rwy] s y.rwShow := htouch.across hk (by decide) (by decide)
  rw [hyrwy] at hrwy hstall
  exact ⟨(hraises.kept hk (by decide) (by decide)).raised, ⟨⟨fun f hf => hall.regs f List.not_mem_nil hf, hall.parts⟩,
    by rw [hrwy], by rw [hrwy]⟩, hrwy, hstall⟩

theorem read_stalled (h : Arrives s m 1) (hj : (s.begin t).aperJudge node m = 0) (hcalm : CalmAt m s)
    (hl : s.lockOf (rmAper m) = some l) (hn : l.node ≠ node.val) (hroom : s.rwy.stall.length < 16) :
    Does (.rwRead plane node m t) s fun u => u.rwy.stall = s.rwy.stall ++ [⟨node, plane, m⟩] ∧ u.rwy.out = s.rwy.out ∧ Quiet s u ∧
      KeepsRwy s u ∧ u.rd RWY_STAT_STALL = s.rwy.stall.length + 1 := by
  have hheld : (s.begin t).heldElse (rmAper m) node = true := heldElse_of (s := s.begin t) hl hn
  have hroom' : ¬ 16 ≤ (s.begin t).rwy.stall.length := Nat.not_le.mpr hroom
  have hjudged : (s.begin t).rwJudged ⟨node, plane, m⟩ =
      (s.begin t).setRwy { s.rwy with stall := s.rwy.stall ++ [⟨node, plane, m⟩] } := by
    rw [judged_locked h (by decide) hj, State.rwLocked_eq]
    dsimp only
    rw [hheld, Bool.true_or, if_pos rfl, if_neg hroom']
    rfl
  have hu := State.rwInbound_of_calm hjudged hcalm.noRetry (fun hnone => (lockOf_ne_none hl hnone).elim)
  obtain ⟨hquiet, hkeeps, hrwy, hstall⟩ := stalled_shows (s := s) (t := t) (s.rwy.stall ++ [⟨node, plane, m⟩]) rfl
  refine ⟨_, congrArg Host.Outcome.next (h.rwArrives.trans hu), by rw [hrwy], by rw [hrwy], hquiet, hkeeps, hstall.trans ?_⟩
  rw [List.length_append, List.length_singleton]
  exact Nat.mod_eq_of_lt (by
    show _ < 256
    omega)

theorem lockrd_full (h : Arrives s m 3) (hj : (s.begin t).aperJudge node m = 0) (hcalm : CalmAt m s)
    (hl : s.lockOf (rmAper m) = some l) (hn : l.node ≠ node.val) (hfull : 16 ≤ s.rwy.stall.length) :
    Does (.rwLockrd plane node m t) s fun u => Answers t node plane m 8 6 none s u ∧ u.rd RWY_STAT_REFEV = 1 ∧ Raised [164] s u ∧
      u.rwy.stall = s.rwy.stall := by
  have hheld : (s.begin t).heldElse (rmAper m) node = true := heldElse_of (s := s.begin t) hl hn
  have hfull' : 16 ≤ (s.begin t).rwy.stall.length := hfull
  have hjudged : (s.begin t).rwJudged ⟨node, plane, m⟩ = (s.begin t).rwRefuse ⟨node, plane, m⟩ 6 := by
    rw [judged_locked h (by decide) hj, State.rwLocked_eq]
    dsimp only
    rw [hheld, Bool.true_or, if_pos rfl, if_pos hfull']
  obtain ⟨-, hans, -, hev, -, hstall, -⟩ := refused_ends h.silent hcalm hjudged
  have hop : (if rmOp m = 2 then 9 else 8) = 8 := by rw [h.op]; rfl
  rw [hop] at hans
  exact ⟨_, congrArg Host.Outcome.next h.rwArrives, hans, (hev (.inr rfl)).1, (hev (.inr rfl)).2, hstall⟩

theorem amo_retry (h : Arrives s m 6) (hj : (s.begin t).aperJudge node m = 0) (hcalm : CalmAt m s)
    (hl : s.lockOf (rmAper m) = none) (hhold : s.rwy.hold = true) (hlow : s.nodeId < node.val) :
    Does (.rwAmo plane node m t) s fun u => Answers t node plane m 8 0xC none s u ∧ KeepsRwy s u ∧ u.rwy.locks = s.rwy.locks ∧
      Quiet s u := by
  have hmay : (s.begin t).heldElse (rmAper m) node = false := MayLock.heldElse (s := s.begin t) fun k hk => by
    have hl : (s.begin t).lockOf (rmAper m) = none := hl
    rw [hl] at hk
    cases hk
  have hsilent : (s.begin t).rwMaySend = false := h.silent
  have hjudged : (s.begin t).rwJudged ⟨node, plane, m⟩ =
      (s.begin t).setRwy { s.rwy with out := s.rwy.out ++ [replyAt t s ⟨node, plane, m⟩ 0xC none] } := by
    have hretry : (((s.begin t).lockOf (rmAper m)).isNone && (s.begin t).rwy.hold && decide ((s.begin t).nodeId < node.val)) = true := by
      have hl : (s.begin t).lockOf (rmAper m) = none := hl
      have hhold : (s.begin t).rwy.hold = true := hhold
      have hlow : (s.begin t).nodeId < node.val := hlow
      rw [hl, hhold]
      simp [hlow]
    rw [judged_locked h (by decide) hj, State.rwLocked_eq]
    dsimp only
    rw [hmay, h.op, if_neg (by simp), if_neg (by decide), if_pos hretry, State.rwAnswer_of_silent hsilent]
    rfl
  have hu := State.rwInbound_of_calm hjudged hcalm.noRetry hcalm.stall
  have hop : (if rmOp m = 2 then 9 else 8) = 8 := by rw [h.op]; rfl
  have htouch : Touches [] [.rwy] [.now, .resp, .out, .rwy] s
      ((s.begin t).setRwy { s.rwy with out := s.rwy.out ++ [replyAt t s ⟨node, plane, m⟩ 0xC none] }) :=
    (Touches.begin s t (by decide)).across (State.setRwy_kept (Kept.refl [] [.rwy] _) (by decide)) (by decide) (by decide)
  have hraises : Raises [] s ((s.begin t).setRwy { s.rwy with out := s.rwy.out ++ [replyAt t s ⟨node, plane, m⟩ 0xC none] }) :=
    (Raises.refl s).of_regs_eq rfl
  refine ⟨_, congrArg Host.Outcome.next (h.rwArrives.trans hu), ?_⟩
  have hyrwy : ((s.begin t).setRwy { s.rwy with out := s.rwy.out ++ [replyAt t s ⟨node, plane, m⟩ 0xC none] }).rwy =
      { s.rwy with out := s.rwy.out ++ [replyAt t s ⟨node, plane, m⟩ 0xC none] } := rfl
  generalize (s.begin t).setRwy { s.rwy with out := s.rwy.out ++ [replyAt t s ⟨node, plane, m⟩ 0xC none] } = y at *
  obtain ⟨hrwy, -, -, -, hk⟩ := y.rwShow_shows
  rw [hyrwy] at hrwy
  have hall := htouch.across hk (by decide) (by decide)
  refine ⟨?_, ⟨⟨fun f hf => hall.regs f List.not_mem_nil hf, hall.parts⟩, by rw [hrwy], by rw [hrwy]⟩, by rw [hrwy],
    (hraises.kept hk (by decide) (by decide)).raised⟩
  rw [Answers, hrwy]
  exact congrArg (s.rwy.out ++ [·]) (replyAt_eq hop)

end

end Sys2Proof.Machine

/-! ## Requests at an aperture: the end of a lock, a lower node's LOCKRD, the aperture's enabling (R400, R413 to R417): O46 -/

namespace Sys2Proof.Machine

section
variable {s u w x y : State} {t : Nat} {m : List Byte} {plane : Fin 2} {node : Fin 129} {l : RwLock}

/-! ### A lock ends while nobody waits -/

/-- An aperture is free, and nobody waits. -/
def State.lockFreed (s : State) (a : Nat) : State := s.setRwy { s.rwy with locks := tblDel a s.rwy.locks, stall := [] }

theorem State.rwReleased_of_empty (h : s.rwy.stall = []) (a : Nat) : s.rwReleased a = (s.lockFreed a).rwShow := by
  have hq : (s.setLock a none).rwy.stall = [] := h
  unfold State.rwReleased
  dsimp only
  rw [hq]
  rfl

theorem State.lockFreed_shows (s : State) (a : Nat) :
    (s.lockFreed a).lockOf a = none ∧ (s.lockFreed a).rwy.out = s.rwy.out ∧ (s.lockFreed a).rwy.ops = s.rwy.ops ∧
      (s.lockFreed a).rwy.posted = s.rwy.posted ∧ (s.lockFreed a).rwy.stall = [] ∧ (s.lockFreed a).regs = s.regs ∧
      Kept [] [.rwy] s (s.lockFreed a) :=
  ⟨tblFind_del_same _ _, rfl, rfl, rfl, rfl, rfl, State.setRwy_kept (Kept.refl _ _ s) (by decide)⟩

/-- What the locks' registers show does not change when it is shown again. -/
theorem State.rwShow_twice (s : State) :
    s.rwShow.rwShow.rwy = s.rwy ∧ (∀ b, b < 4 → s.rwShow.rwShow.rd (RWY_Aa_STAT_LOCKED b) = (lockFields (s.lockOf b)).1 ∧
        s.rwShow.rwShow.rd (RWY_Aa_STAT_HOLDER b) = (lockFields (s.lockOf b)).2) ∧
      (∀ b, s.rwShow.rwShow.rd (RWY_Aa_CNT_SERVED b) = s.rd (RWY_Aa_CNT_SERVED b)) ∧ Kept [.rwy] [] s s.rwShow.rwShow := by
  obtain ⟨hrwy, -, -, -, hk⟩ := s.rwShow_shows
  obtain ⟨hrwy', -, hshown, -, -⟩ := s.rwShow.rwShow_shows
  have hlock (b : Nat) : s.rwShow.lockOf b = s.lockOf b := by rw [State.lockOf, hrwy, State.lockOf]
  refine ⟨hrwy'.trans hrwy, fun b hb => ?_, fun b => (s.rwShow.rd_rwShow_served b).1.trans (s.rd_rwShow_served b).1,
    State.rwShow_kept hk (by decide)⟩
  have hb := hshown b hb
  rwa [hlock] at hb

/-- What a request whose lock ends shows of the lock. -/
def Unlocked (a : Nat) (u : State) : Prop :=
  u.lockOf a = none ∧ u.rd (RWY_Aa_STAT_LOCKED a) = 0 ∧ u.rd (RWY_Aa_STAT_HOLDER a) = 0

theorem unlocked_twice {a : Nat} (ha : a < 4) (x : State) : Unlocked a (x.lockFreed a).rwShow.rwShow := by
  obtain ⟨hrwy, hshown, -, -⟩ := (x.lockFreed a).rwShow_twice
  obtain ⟨hfree, -⟩ := x.lockFreed_shows a
  obtain ⟨hlock, hholder⟩ := hshown a ha
  rw [hfree] at hlock hholder
  refine ⟨?_, hlock, hholder⟩
  rw [State.lockOf, hrwy]
  exact hfree

theorem heldBy_of (hl : s.lockOf (rmAper m) = some ⟨node, l.at_⟩) : s.heldBy (rmAper m) node = true := by
  unfold State.heldBy
  rw [hl]
  exact beq_self_eq_true _

/-- A request that ends the lock and leaves an empty stall queue. -/
theorem released_ends (hx : x.rwy.stall = []) (hj : s.rwJudged ⟨node, plane, m⟩ = x.rwReleased (rmAper m)) (hretry : NoRetry x) :
    s.rwInbound ⟨node, plane, m⟩ = (x.lockFreed (rmAper m)).rwShow.rwShow := by
  rw [State.rwReleased_of_empty hx] at hj
  obtain ⟨-, -, hops, -, hstall, -⟩ := x.lockFreed_shows (rmAper m)
  obtain ⟨hrwy, -⟩ := (x.lockFreed (rmAper m)).rwShow_shows
  refine State.rwInbound_of_calm hj (fun q hq => ?_) (fun _ q hq => ?_)
  · rw [hrwy, hops] at hq
    exact hretry q hq
  · rw [hrwy, hstall] at hq
    cases hq

theorem unlock_does (h : Arrives s m 5) (hretry : NoRetry s) (hl : s.lockOf (rmAper m) = some ⟨node, l.at_⟩) (hq : s.rwy.stall = []) :
    Does (.rwUnlock plane node m t) s fun u => Unlocked (rmAper m) u ∧ u.rwy.out = s.rwy.out ∧ Quiet s u ∧ KeepsRwy s u := by
  have hmine : (s.begin t).heldBy (rmAper m) node = true := heldBy_of (s := s.begin t) hl
  have hjudged : (s.begin t).rwJudged ⟨node, plane, m⟩ = (s.begin t).rwReleased (rmAper m) := by
    have hop := h.op
    unfold State.rwJudged
    dsimp only
    rw [hop, if_pos rfl, hmine, if_pos rfl]
  have hu := released_ends (x := s.begin t) hq hjudged hretry
  obtain ⟨-, hout, hops, hposted, -, hregs, hfree⟩ := (s.begin t).lockFreed_shows (rmAper m)
  have hunlocked := unlocked_twice (rmAper_lt m) (s.begin t)
  have htouch : Touches [] [.rwy] [.now, .resp, .out, .rwy] s ((s.begin t).lockFreed (rmAper m)) :=
    (Touches.begin s t (by decide)).across hfree (by decide) (by decide)
  have hraises : Raises [] s ((s.begin t).lockFreed (rmAper m)) := (Raises.refl s).of_regs_eq hregs
  refine ⟨_, congrArg Host.Outcome.next (h.rwArrives.trans hu), hunlocked, ?_⟩
  generalize (s.begin t).lockFreed (rmAper m) = f at hout hops hposted htouch hraises
  obtain ⟨hrwy, -, -, hk⟩ := f.rwShow_twice
  have hall := htouch.across hk (by decide) (by decide)
  exact ⟨by rw [hrwy]; exact hout, (hraises.kept hk (by decide) (by decide)).raised,
    ⟨fun f hf => hall.regs f List.not_mem_nil hf, hall.parts⟩, by rw [hrwy]; exact hops, by rw [hrwy]; exact hposted⟩

/-! ### WRUNLK -/

theorem wrunlk_served (h : Arrives s m 4) (hj : (s.begin t).aperJudge node m = 0) (hretry : NoRetry s)
    (hl : s.lockOf (rmAper m) = some ⟨node, l.at_⟩) (hq : s.rwy.stall = []) (hw : Writable s m) :
    Does (.rwWrunlk plane node m t) s fun u => Stored (s.rmAddr m) (leBytes (2 ^ rmSize m) (rmData m)) s u ∧
      Answers t node plane m 8 0 (some 0) s u ∧ ServedAt m s u ∧ StoresRwy s u ∧ Unlocked (rmAper m) u := by
  obtain ⟨hp, hrwy, hstored, htouch⟩ := (Poised.begin h.silent t).store hw.noSoft (s.rmAddr m) (leBytes (2 ^ rmSize m) (rmData m))
  have hjudged : (s.begin t).rwJudged ⟨node, plane, m⟩ = (((s.begin t).store (s.rmAddr m)
      (leBytes (2 ^ rmSize m) (rmData m))).rwServed ⟨node, plane, m⟩ 0 (some 0)).rwReleased (rmAper m) := by
    have hop := h.op
    have hput : (s.begin t).rwPut m (rmData m) = (0, (s.begin t).store (s.rmAddr m) (leBytes (2 ^ rmSize m) (rmData m))) :=
      (hw.begin t).rwPut _
    have hmine : (s.begin t).heldBy (rmAper m) node = true := heldBy_of (s := s.begin t) hl
    unfold State.rwJudged
    dsimp only
    rw [hj, hop, hmine, if_neg (by decide), if_neg (by decide), if_neg (by decide), if_neg (by decide), if_pos rfl, if_neg (by decide), hput]
  have hbegin : Touches [] [.rwy, .ecc, .cvu] [.now, .mem, .resp, .out, .ecc, .cvu, .rwy] s (s.begin t) := Touches.begin s t (by decide)
  have hx : Touches [] [.rwy, .ecc, .cvu] [.now, .mem, .resp, .out, .ecc, .cvu, .rwy] s
      ((s.begin t).store (s.rmAddr m) (leBytes (2 ^ rmSize m) (rmData m))) :=
    hbegin.trans htouch (fun _ h => h) (by decide) (by decide)
  generalize (s.begin t).store (s.rmAddr m) (leBytes (2 ^ rmSize m) (rmData m)) = x at hp hrwy hstored htouch hjudged hx
  obtain ⟨hyrwy, hcnt, hraises, hytouch⟩ := hp.served (r := ⟨node, plane, m⟩) (status := 0) (by decide) (some 0)
  have hraises := hraises ((Raises.refl s).of_regs_eq hp.regs)
  have hall := hx.trans hytouch (fun _ h => h) (by decide) (by decide)
  generalize x.rwServed ⟨node, plane, m⟩ 0 (some 0) = y at hjudged hyrwy hcnt hraises hytouch hall
  have hystall : y.rwy.stall = [] := by rw [hyrwy, hrwy]; exact hq
  have hyretry : NoRetry y := fun q hq => hretry q (by
    rw [hyrwy, hrwy] at hq
    exact hq)
  have hu := released_ends hystall hjudged hyretry
  have hunlocked := unlocked_twice (rmAper_lt m) y
  obtain ⟨-, hout, hops, hposted, -, hregs, hfree⟩ := y.lockFreed_shows (rmAper m)
  refine ⟨_, congrArg Host.Outcome.next (h.rwArrives.trans hu), ?_⟩
  have hfall := hall.across hfree (by decide) (by decide)
  have hfraises := hraises.of_regs_eq hregs
  have hfcnt : (y.lockFreed (rmAper m)).rd (RWY_Aa_CNT_SERVED (rmAper m)) = y.rd (RWY_Aa_CNT_SERVED (rmAper m)) := by
    rw [State.rd, hregs, State.rd]
  have hfmem : (y.lockFreed (rmAper m)).mem = x.mem := Eq.trans (hfree.framed.parts .mem (by decide)) (hytouch.parts .mem (by decide))
  generalize y.lockFreed (rmAper m) = f at hunlocked hout hops hposted hfall hfraises hfcnt hfmem
  obtain ⟨hsrwy, -, hserved, hk⟩ := f.rwShow_twice
  have huall := hfall.across hk (by decide) (by decide)
  have hop : (if rmOp m = 2 then 9 else 8) = 8 := by rw [h.op]; rfl
  refine ⟨(hstored.of_source rfl).of_mem_eq (Eq.trans (hk.framed.parts .mem (by decide)) hfmem), ?_,
    ⟨(hserved _).trans (hfcnt.trans hcnt), (hfraises.kept hk (by decide) (by decide)).raised⟩,
    ⟨⟨fun f hf => huall.regs f List.not_mem_nil hf, huall.parts⟩, ?_, ?_⟩, hunlocked⟩
  · rw [Answers, hsrwy, hout, hyrwy]
    exact congrArg (s.rwy.out ++ [·]) (replyAt_eq hop)
  · rw [hsrwy, hops, hyrwy]
    exact hp.ops
  · rw [hsrwy, hposted, hyrwy]
    exact hp.posted

theorem wrunlk_unheld (h : Arrives s m 4) (hj : (s.begin t).aperJudge node m = 0) (hcalm : CalmAt m s)
    (hl : s.lockOf (rmAper m) = none ∨ s.lockOf (rmAper m) = some l) (hn : l.node ≠ node.val) :
    Does (.rwWrunlk plane node m t) s fun u => Answers t node plane m 8 9 none s u ∧ ServedAt m s u ∧ KeepsRwy s u ∧
      u.rwy.locks = s.rwy.locks := by
  have hmine : (s.begin t).heldBy (rmAper m) node = false := by
    have hof : (s.begin t).lockOf (rmAper m) = s.lockOf (rmAper m) := rfl
    unfold State.heldBy
    rw [hof]
    rcases hl with hl | hl
    · rw [hl]
    · rw [hl]
      exact beq_eq_false_iff_ne.mpr hn
  have hjudged : (s.begin t).rwJudged ⟨node, plane, m⟩ = (s.begin t).rwServed ⟨node, plane, m⟩ 9 none := by
    have hop := h.op
    unfold State.rwJudged
    dsimp only
    rw [hj, hop, hmine, if_neg (by decide), if_neg (by decide), if_neg (by decide), if_neg (by decide), if_pos rfl,
      if_pos (show (!false) = true from rfl)]
  have hends := (Poised.begin h.silent t).ends (Raises.begin s t) hjudged (by decide) hcalm.noRetry hcalm.stall
  have hop : (if rmOp m = 2 then 9 else 8) = 8 := by rw [h.op]; rfl
  exact ⟨_, congrArg Host.Outcome.next h.rwArrives, hends.answers hop, hends.served, hends.keeps (Touches.begin s t (by decide)), hends.locks⟩

/-! ### The expiry of a lock (R414) -/

theorem lockExpiry_does {a : Fin 4} (hretry : NoRetry s) (hl : s.lockOf a = some l) (hlate : l.at_ + 100000 ≤ t) (hq : s.rwy.stall = []) :
    Does (.lockExpiry a t) s fun u =>
      u.lockOf a = none ∧ u.rd (RWY_Aa_STAT_LOCKED a) = 0 ∧ u.rd RWY_CNT_LKEXP = sat 16 (s.rd RWY_CNT_LKEXP + 1) ∧
      u.rd RWY_STAT_LKTMOEV = 1 ∧ Raised [163] s u ∧ Framed [.rwy, .pend] [.now, .resp, .out, .rwy] s u := by
  obtain ⟨x, hx⟩ : ∃ x, x = (((s.begin t).bump RWY_CNT_LKEXP).wr RWY_STAT_LKTMOEV 1).raise 163 := ⟨_, rfl⟩
  have hk : Kept [.pend] [] (((s.begin t).bump RWY_CNT_LKEXP).wr RWY_STAT_LKTMOEV 1)
      ((((s.begin t).bump RWY_CNT_LKEXP).wr RWY_STAT_LKTMOEV 1).raise 163) := State.raise_kept (Kept.refl _ _ _) (by decide)
  have hxrwy : x.rwy = s.rwy := by
    rw [hx]
    exact hk.framed.parts .rwy (by decide)
  have hcnt : x.rd RWY_CNT_LKEXP = sat 16 (s.rd RWY_CNT_LKEXP + 1) := by
    rw [hx, State.rd_raise_code (by decide), State.rd_wr_ne _ (by decide), State.rd_bump_same]
    rfl
  have hev : x.rd RWY_STAT_LKTMOEV = 1 := by
    rw [hx, State.rd_raise_code (by decide), State.rd_wr_same]
    rfl
  have hraises : Raises [163] s x := by
    rw [hx]
    exact (((Raises.begin s t).bump (f := RWY_CNT_LKEXP) (by decide) (by decide) 1).wr (f := RWY_STAT_LKTMOEV) (by decide)
      (by decide) 1).raise (by decide)
  have htouch : Touches [] [.rwy, .pend] [.now, .resp, .out, .rwy] s x := by
    rw [hx]
    exact (((Touches.begin s t (by decide)).wrIn (f := RWY_CNT_LKEXP) (by decide) _).wrIn (f := RWY_STAT_LKTMOEV) (by decide) 1).raise
      (by decide) 163
  have hxstall : x.rwy.stall = [] := by rw [hxrwy]; exact hq
  obtain ⟨hfree, -, hops, -, -, hregs, hfk⟩ := x.lockFreed_shows a
  have hagain : (x.lockFreed a).rwShow.rwAgain = (x.lockFreed a).rwShow := by
    obtain ⟨hrwy, -⟩ := (x.lockFreed a).rwShow_shows
    refine NoRetry.rwAgain fun q hq => hretry q ?_
    rw [hrwy, hops, hxrwy] at hq
    exact hq
  have hexpiry : (s.begin t).lockExpiry a = (x.lockFreed a).rwShow := by
    have hlock : (s.begin t).lockOf a = some l := hl
    have hnot : ¬ (s.begin t).now < l.at_ + 100000 := Nat.not_lt.mpr hlate
    unfold State.lockExpiry
    rw [hlock]
    dsimp only
    rw [if_neg hnot, ← hx, State.rwReleased_of_empty hxstall, hagain]
  refine ⟨_, congrArg Host.Outcome.next hexpiry, ?_⟩
  have hfcnt (f : Fld) : (x.lockFreed a).rd f = x.rd f := by rw [State.rd, hregs, State.rd]
  have hftouch := htouch.across hfk (by decide) (by decide)
  have hfraises := hraises.of_regs_eq hregs
  generalize x.lockFreed a = f at hfree hfcnt hftouch hfraises
  obtain ⟨hrwy, -, hshown, -, hsk⟩ := f.rwShow_shows
  obtain ⟨hlocked, -⟩ := hshown a a.isLt
  rw [hfree] at hlocked
  have huall := hftouch.across hsk (by decide) (by decide)
  refine ⟨?_, hlocked, ?_, ?_, (hfraises.kept hsk (by decide) (by decide)).raised, fun f hf => huall.regs f List.not_mem_nil hf, huall.parts⟩
  · rw [State.lockOf, hrwy]
    exact hfree
  · rw [f.rd_rwShow_aper (by decide) (by decide) (by decide), hfcnt, hcnt]
  · rw [f.rd_rwShow_aper (by decide) (by decide) (by decide), hfcnt, hev]

/-! ### A LOCKRD of a lower node comes behind (R417) -/

theorem State.aperReach_of_judged (h : s.aperJudge node m = 0) (hop : rmOp m ≠ opPoll) : s.aperReach m = true := by
  unfold State.aperJudge at h
  dsimp only at h
  split at h
  · cases h
  · split at h
    · cases h
    · split at h
      · cases h
      · next hsize =>
        split at h
        · cases h
        · next hok =>
          have hok : aperOk (s.aperBase (rmAper m)) (s.rd (RWY_Aa_CFG_SIZE (rmAper m))) = true := by
            simpa [hop] using hok
          rw [State.aperReach, hok, Bool.and_true]
          exact decide_eq_true (Nat.not_lt.mp hsize)

theorem lockrd_behind (h : Arrives s m 3) (hj : (s.begin t).aperJudge node m = 0) (hretry : NoRetry s)
    (hl : s.lockOf (rmAper m) = none) (hbehind : (s.begin t).lowerComes (rmAper m) node = true) (hq : s.rwy.stall = []) :
    Does (.rwLockrd plane node m t) s fun u => u.rwy.stall = [⟨node, plane, m⟩] ∧ u.rwy.out = s.rwy.out ∧ Quiet s u ∧ KeepsRwy s u ∧
      u.lockOf (rmAper m) = none := by
  obtain ⟨r, hr⟩ : ∃ r : RwIn, r = ⟨node, plane, m⟩ := ⟨_, rfl⟩
  have hmsg : r.msg = m ∧ r.node = node := by rw [hr]; exact ⟨rfl, rfl⟩
  obtain ⟨hm, hnode⟩ := hmsg
  have hheld (x : State) (hx : x.lockOf (rmAper m) = none) : x.heldElse (rmAper m) node = false := by
    unfold State.heldElse
    rw [hx]
  have hlocked (x : State) (hx : x.lockOf (rmAper m) = none) (hlow : x.lowerComes (rmAper m) node = true) (hempty : x.rwy.stall = []) :
      x.rwLocked r = x.setRwy { x.rwy with stall := [r] } := by
    rw [State.rwLocked_eq, hm, hnode, hheld x hx, hx, h.op, hlow, hempty]
    rfl
  have hjudged : (s.begin t).rwJudged r = (s.begin t).setRwy { s.rwy with stall := [r] } := by
    have hstep := hlocked (s.begin t) hl hbehind hq
    rw [hr] at hstep ⊢
    exact (judged_locked h (by decide) hj).trans hstep
  obtain ⟨z, hz⟩ : ∃ z, z = (s.begin t).setRwy { s.rwy with locks := tblDel (rmAper m) s.rwy.locks, stall := [] } := ⟨_, rfl⟩
  have hzrwy : z.rwy = { s.rwy with locks := tblDel (rmAper m) s.rwy.locks, stall := [] } := by rw [hz]; rfl
  have hzlock : z.lockOf (rmAper m) = none := by
    rw [State.lockOf, hzrwy]
    exact tblFind_del_same _ _
  have hzlow : z.lowerComes (rmAper m) node = true := by
    rw [hz]
    exact hbehind
  have hzreach : z.aperReach m = true := by
    rw [hz]
    exact State.aperReach_of_judged hj (by rw [h.op]; decide)
  have hreleased : ((s.begin t).setRwy { s.rwy with stall := [r] }).rwReleased (rmAper m) = (z.setRwy { z.rwy with stall := [r] }).rwShow := by
    have hstep : (if z.aperReach r.msg then z.rwLocked r else z.rwRefuse r 2) = z.setRwy { z.rwy with stall := [r] } := by
      rw [hm, hzreach, if_pos rfl, hlocked z hzlock hzlow (by rw [hzrwy])]
    rw [← hstep, hz]
    rfl
  have hcond : ((((s.begin t).setRwy { s.rwy with stall := [r] }).lockOf (rmAper m)).isNone &&
      ((s.begin t).setRwy { s.rwy with stall := [r] }).rwy.stall.any (fun x => rmAper x.msg == rmAper m)) = true := by
    have hnone : ((s.begin t).setRwy { s.rwy with stall := [r] }).lockOf (rmAper m) = none := hl
    have hstall : ((s.begin t).setRwy { s.rwy with stall := [r] }).rwy.stall = [r] := rfl
    rw [hnone, hstall]
    simp [hm]
  have hyrwy : (z.setRwy { z.rwy with stall := [r] }).rwy = { s.rwy with locks := tblDel (rmAper m) s.rwy.locks, stall := [r] } := by
    rw [hzrwy]
    rfl
  have htouch : Touches [] [.rwy] [.now, .resp, .out, .rwy] s (z.setRwy { z.rwy with stall := [r] }) := by
    rw [hz]
    exact ((Touches.begin s t (by decide)).across (State.setRwy_kept (Kept.refl [] [.rwy] _) (by decide)) (by decide) (by decide)).across
      (State.setRwy_kept (Kept.refl [] [.rwy] _) (by decide)) (by decide) (by decide)
  have hraises : Raises [] s (z.setRwy { z.rwy with stall := [r] }) := by
    rw [hz]
    exact (Raises.refl s).of_regs_eq rfl
  have hin : (s.begin t).rwInbound r = (z.setRwy { z.rwy with stall := [r] }).rwShow.rwShow.rwAgain := by
    rw [State.rwInbound_eq, hjudged, hm, if_pos hcond, hreleased]
  generalize z.setRwy { z.rwy with stall := [r] } = y at hin hyrwy htouch hraises
  obtain ⟨hrwy, -, -, hk⟩ := y.rwShow_twice
  rw [hyrwy] at hrwy
  have hagain : y.rwShow.rwShow.rwAgain = y.rwShow.rwShow := NoRetry.rwAgain fun q hq => hretry q (by
    rw [hrwy] at hq
    exact hq)
  have hall := htouch.across hk (by decide) (by decide)
  rw [hagain] at hin
  have harr : (s.begin t).rwArrives 3 plane node m = y.rwShow.rwShow := by
    rw [h.rwArrives, ← hr, hin]
  refine ⟨_, congrArg Host.Outcome.next harr, by rw [hrwy, ← hr], by rw [hrwy], (hraises.kept hk (by decide) (by decide)).raised,
    ⟨⟨fun f hf => hall.regs f List.not_mem_nil hf, hall.parts⟩, by rw [hrwy], by rw [hrwy]⟩, ?_⟩
  rw [State.lockOf, hrwy]
  exact tblFind_del_same _ _

end

end Sys2Proof.Machine

/-! ## The enabling of an aperture (R400): O46 -/

namespace Sys2Proof.Machine

section
variable {s u : State} {t : Nat}

/-- The fields of an aperture's configuration word. -/
abbrev aperFlds (a : Nat) : List Fld :=
  [RWY_Aa_CFG_EN a, RWY_Aa_CFG_RD a, RWY_Aa_CFG_WR a, RWY_Aa_CFG_LK a, RWY_Aa_CFG_SCOPE a, RWY_Aa_CFG_SIZE a,
    RWY_Aa_CFG_RSPROUTE a, RWY_Aa_CFG_RSPBLZ a, RWY_Aa_CFG_CFGERR a]

theorem regFields_aper : ∀ a : Fin 4, (regFields (0x10902004 + 0x20 * a)).map
    (List.map fun f => Fld.at (0x10902004 + 0x20 * a) f.lo f.w f.rst) = some (aperFlds a) := by
  decide +kernel

theorem putWord_eq {addr : Nat} {fs : List Fld}
    (h : (regFields addr).map (List.map fun f => Fld.at addr f.lo f.w f.rst) = some fs) (s : State) (v : Nat) :
    s.putWord addr v = fs.foldl (fun s f => s.wr f (bitsAt v f.lo f.w)) s := by
  unfold State.putWord
  cases hr : regFields addr with
  | none =>
    rw [hr] at h
    cases h
  | some rs =>
    rw [hr] at h
    rw [← Option.some.inj h, List.foldl_map]
    rfl

/-- What writes of distinct fields leave in each. -/
theorem rd_foldl_wr {g : Fld → Nat} {fs : List Fld} (hnd : (fs.map Fld.key).Nodup) {f : Fld} (hf : f ∈ fs) (s : State) :
    (fs.foldl (fun s f => s.wr f (g f)) s).rd f = g f % 2 ^ f.w := by
  induction fs generalizing s with
  | nil => cases hf
  | cons h l ih =>
    rw [List.map_cons, List.nodup_cons] at hnd
    obtain ⟨hne, hnd⟩ := hnd
    rw [List.foldl_cons]
    by_cases hmem : f ∈ l
    · exact ih hnd hmem _
    · have hfh : f = h := (List.mem_cons.mp hf).resolve_right hmem
      subst hfh
      refine (List.foldlRecOn (motive := fun v : State => v.rd f = (s.wr f (g f)).rd f) _ _ rfl fun v hv x hx => ?_).trans
        (State.rd_wr_same ..)
      exact (State.rd_wr_ne v (fun heq => hne (List.mem_map.mpr ⟨x, hx, heq.symm⟩)) _).trans hv

theorem Touches.foldl_wr {A : List Area} {P : List Part} {gs fs : List Fld} (h : Touches gs A P s u) (g : Fld → Nat)
    (hfs : fs ⊆ gs) : Touches gs A P s (fs.foldl (fun s f => s.wr f (g f)) u) :=
  List.foldlRecOn (motive := fun v : State => Touches gs A P s v) _ _ h fun _ hv _ hf => hv.wrOf (hfs hf) _

theorem aperFlds_nodup : ∀ a : Fin 4, ((aperFlds a).map Fld.key).Nodup := by decide

/-- The low 22 bits of the word are those of the fields that take it. -/
theorem bitsAt_mod {v lo w n : Nat} (h : lo + w ≤ n) : bitsAt (v % 2 ^ n) lo w = bitsAt v lo w := by
  unfold bitsAt
  rw [show n = lo + (n - lo) by omega, Nat.pow_add, Nat.mod_mul_right_div_self,
    Nat.mod_mod_of_dvd _ (Nat.pow_dvd_pow 2 (by omega))]

theorem bitsAt_lt (v lo w : Nat) : bitsAt v lo w < 2 ^ w := Nat.mod_lt _ (Nat.two_pow_pos w)

/-- The word of an aperture's configuration, with EN taken back. -/
def State.aperSet (s : State) (a v : Nat) : State := (s.putWord (0x10902004 + 0x20 * a) (v % 2 ^ 22)).wr (RWY_Aa_CFG_EN a) 0

theorem State.aperSet_shows {a : Fin 4} (hs : Touches (aperFlds a) [] [.now, .resp, .out] s u) (v : Nat) :
    (u.aperSet a v).rd (RWY_Aa_CFG_EN a) = 0 ∧
      (∀ f ∈ [RWY_Aa_CFG_RD a.val, RWY_Aa_CFG_WR a, RWY_Aa_CFG_LK a, RWY_Aa_CFG_SCOPE a, RWY_Aa_CFG_SIZE a,
        RWY_Aa_CFG_RSPROUTE a, RWY_Aa_CFG_RSPBLZ a], (u.aperSet a v).rd f = bitsAt v f.lo f.w) ∧
      Touches (aperFlds a) [] [.now, .resp, .out] s (u.aperSet a v) := by
  unfold State.aperSet
  rw [putWord_eq (regFields_aper a)]
  refine ⟨State.rd_wr_same .., fun f hf => ?_, ?_⟩
  · have hmem : f ∈ aperFlds a := List.mem_cons_of_mem _ (List.mem_append_left [RWY_Aa_CFG_CFGERR a.val] hf)
    have hkey : f.key ≠ (RWY_Aa_CFG_EN a).key ∧ f.lo + f.w ≤ 22 := by
      simp only [List.mem_cons, List.not_mem_nil, or_false] at hf
      rcases hf with rfl | rfl | rfl | rfl | rfl | rfl | rfl <;> refine ⟨?_, Nat.le_of_ble_eq_true rfl⟩ <;>
        simp only [Fld.key, RWY_Aa_CFG_EN, RWY_Aa_CFG_RD, RWY_Aa_CFG_WR, RWY_Aa_CFG_LK, RWY_Aa_CFG_SCOPE, RWY_Aa_CFG_SIZE,
          RWY_Aa_CFG_RSPROUTE, RWY_Aa_CFG_RSPBLZ] <;> omega
    rw [State.rd_wr_ne _ hkey.1, rd_foldl_wr (aperFlds_nodup a) hmem u, bitsAt_mod hkey.2]
    exact Nat.mod_eq_of_lt (bitsAt_lt ..)
  · exact (hs.foldl_wr _ (fun _ h => h)).wrOf List.mem_cons_self 0

theorem aperEnable_eq {a : Fin 4} {v : Nat} (hen : bitAt v 0 = true) (hs : Touches (aperFlds a) [] [.now, .resp, .out] s u) :
    u.aperEnable a v = if aperOk (s.aperBase a) (bitsAt v 6 5) then ((u.aperSet a v).wr (RWY_Aa_CFG_EN a) 1).wr (RWY_Aa_CFG_CFGERR a) 0
      else (u.aperSet a v).wr (RWY_Aa_CFG_CFGERR a) 1 := by
  obtain ⟨-, -, htouch⟩ := State.aperSet_shows hs v
  have hbase : (u.aperSet a v).aperBase a = s.aperBase a := by
    rw [State.aperBase, State.aperBase]
    refine congrArg (· * 4096) (htouch.regs _ ?_ List.not_mem_nil)
    simp only [aperFlds, List.map_cons, List.map_nil, List.mem_cons, List.not_mem_nil, or_false, Fld.key, RWY_Aa_BASE_BASE,
      RWY_Aa_CFG_EN, RWY_Aa_CFG_RD, RWY_Aa_CFG_WR, RWY_Aa_CFG_LK, RWY_Aa_CFG_SCOPE, RWY_Aa_CFG_SIZE, RWY_Aa_CFG_RSPROUTE,
      RWY_Aa_CFG_RSPBLZ, RWY_Aa_CFG_CFGERR]
    omega
  unfold State.aperEnable
  dsimp only
  rw [hen, if_neg (by decide), ← hbase]
  rfl

theorem aperKeys (a : Nat) : (RWY_Aa_CFG_EN a).key ≠ (RWY_Aa_CFG_CFGERR a).key := by
  simp only [Fld.key, RWY_Aa_CFG_EN, RWY_Aa_CFG_CFGERR]
  omega

theorem apertureEnable_refused {a : Fin 4} {cfg : BitVec 32} (hen : bitAt cfg.toNat 0 = true)
    (hbad : aperOk (s.aperBase a) (bitsAt cfg.toNat 6 5) = false) (hph : s.pw.phase = .running) :
    Does (.apertureEnable a cfg t) s fun u => u.rd (RWY_Aa_CFG_EN a) = 0 ∧ u.rd (RWY_Aa_CFG_CFGERR a) = 1 := by
  refine does_running (x := (s.begin t).aperEnable a cfg.toNat) rfl hph ?_
  have hs : Touches (aperFlds a) [] [.now, .resp, .out] s (s.begin t) := Touches.begin s t (by decide)
  obtain ⟨hoff, -, -⟩ := State.aperSet_shows hs cfg.toNat
  rw [aperEnable_eq hen hs, hbad, if_neg (by decide)]
  exact ⟨(State.rd_wr_ne _ (aperKeys a) _).trans hoff, State.rd_wr_same ..⟩

theorem apertureEnable_does {a : Fin 4} {cfg : BitVec 32} (hen : bitAt cfg.toNat 0 = true)
    (hok : aperOk (s.aperBase a) (bitsAt cfg.toNat 6 5) = true) (hph : s.pw.phase = .running) :
    Does (.apertureEnable a cfg t) s fun u => u.rd (RWY_Aa_CFG_EN a) = 1 ∧ u.rd (RWY_Aa_CFG_CFGERR a) = 0 ∧
      (∀ f : Fld, f ∈ [RWY_Aa_CFG_RD a.val, RWY_Aa_CFG_WR a, RWY_Aa_CFG_LK a, RWY_Aa_CFG_SCOPE a, RWY_Aa_CFG_SIZE a,
        RWY_Aa_CFG_RSPROUTE a, RWY_Aa_CFG_RSPBLZ a] → u.rd f = bitsAt cfg.toNat f.lo f.w) ∧
      Touches (aperFlds a) [] [.now, .resp, .out] s u := by
  refine does_running (x := (s.begin t).aperEnable a cfg.toNat) rfl hph ?_
  have hs : Touches (aperFlds a) [] [.now, .resp, .out] s (s.begin t) := Touches.begin s t (by decide)
  obtain ⟨-, hfields, htouch⟩ := State.aperSet_shows hs cfg.toNat
  rw [aperEnable_eq hen hs, hok, if_pos rfl]
  refine ⟨(State.rd_wr_ne _ (aperKeys a) _).trans (State.rd_wr_same ..), State.rd_wr_same .., fun f hf => ?_,
    (htouch.wrOf List.mem_cons_self 1).wrOf (by simp) 0⟩
  have hnd := aperFlds_nodup a
  rw [State.rd_wr_ne, State.rd_wr_ne]
  · exact hfields f hf
  all_goals
    simp only [List.mem_cons, List.not_mem_nil, or_false] at hf
    rcases hf with rfl | rfl | rfl | rfl | rfl | rfl | rfl <;>
      simp only [Fld.key, RWY_Aa_CFG_EN, RWY_Aa_CFG_RD, RWY_Aa_CFG_WR, RWY_Aa_CFG_LK, RWY_Aa_CFG_SCOPE, RWY_Aa_CFG_SIZE,
        RWY_Aa_CFG_RSPROUTE, RWY_Aa_CFG_RSPBLZ, RWY_Aa_CFG_CFGERR] <;> omega

end

/-- Settles O46: a request is refused by the judgement, served at once, or held back by another's lock, a lower node's
LOCKRD or the own side's hold; a lock ends by WRUNLK, by UNLOCK and by its expiry. -/
theorem rootwayApertures : Obligations.RootwayApertures := by
  intro s a cfg plane node m l old t
  refine ⟨⟨apertureEnable_refused, apertureEnable_does⟩, fun hsilent hne => ?_, fun hok hcalm => ?_, ?_, ?_⟩
  · intro refused hcalm
    have hrefused {op : Nat} (hop : op ≠ opUnlock) (h : Arrives s m op) :
        Refuses t node plane ((s.begin t).aperJudge node m) m s ((s.begin t).rwArrives op plane node m) := by
      rw [h.rwArrives]
      exact request_refused (by rw [h.op]; exact hop) hsilent ⟨hcalm.1, hcalm.2⟩ hne
    exact ⟨fun ⟨h1, h2, h3, h4, h5⟩ => ⟨_, rfl, hrefused (op := 1) (by decide) ⟨h1, h2, h3, h4, h5⟩⟩,
      fun ⟨h1, h2, h3, h4, h5⟩ => ⟨_, rfl, hrefused (op := 2) (by decide) ⟨h1, h2, h3, h4, h5⟩⟩,
      fun ⟨h1, h2, h3, h4, h5⟩ => ⟨_, rfl, hrefused (op := 3) (by decide) ⟨h1, h2, h3, h4, h5⟩⟩,
      fun ⟨h1, h2, h3, h4, h5⟩ => ⟨_, rfl, hrefused (op := 4) (by decide) ⟨h1, h2, h3, h4, h5⟩⟩,
      fun ⟨h1, h2, h3, h4, h5⟩ => ⟨_, rfl, hrefused (op := 6) (by decide) ⟨h1, h2, h3, h4, h5⟩⟩,
      fun ⟨h1, h2, h3, h4, h5⟩ => ⟨_, rfl, hrefused (op := 7) (by decide) ⟨h1, h2, h3, h4, h5⟩⟩⟩
  · have hcalm : CalmAt m s := ⟨hcalm.1, hcalm.2⟩
    refine ⟨fun ⟨h1, h2, h3, h4, h5⟩ => poll_served ⟨h1, h2, h3, h4, h5⟩ hok hcalm,
      fun ⟨h1, h2, h3, h4, h5⟩ ⟨c1, c2, c3, c4⟩ => write_served ⟨h1, h2, h3, h4, h5⟩ hok hcalm ⟨c1, c2, c3, c4⟩,
      fun hmay hs => ⟨fun ⟨h1, h2, h3, h4, h5⟩ => read_served ⟨h1, h2, h3, h4, h5⟩ hok hcalm (mayLock_of hmay) hs, fun hhold =>
        ⟨fun ⟨h1, h2, h3, h4, h5⟩ hbehind => lockrd_served ⟨h1, h2, h3, h4, h5⟩ hok hcalm (mayLock_of hmay) hs hhold hbehind,
          fun ⟨h1, h2, h3, h4, h5⟩ hold ⟨c1, c2, c3, c4⟩ hf =>
            amo_served ⟨h1, h2, h3, h4, h5⟩ hok hcalm (mayLock_of hmay) hs hhold hold ⟨c1, c2, c3, c4⟩ hf⟩⟩,
      fun hl hn ⟨h1, h2, h3, h4, h5⟩ => read_stalled ⟨h1, h2, h3, h4, h5⟩ hok hcalm hl hn,
      fun hl hbehind ⟨h1, h2, h3, h4, h5⟩ => lockrd_behind ⟨h1, h2, h3, h4, h5⟩ hok hcalm.noRetry hl hbehind,
      fun hl hn ⟨h1, h2, h3, h4, h5⟩ => lockrd_full ⟨h1, h2, h3, h4, h5⟩ hok hcalm hl hn,
      fun hl hhold hlow ⟨h1, h2, h3, h4, h5⟩ => amo_retry ⟨h1, h2, h3, h4, h5⟩ hok hcalm hl hhold hlow,
      fun ⟨h1, h2, h3, h4, h5⟩ hl hq ⟨c1, c2, c3, c4⟩ =>
        wrunlk_served ⟨h1, h2, h3, h4, h5⟩ hok hcalm.noRetry hl hq ⟨c1, c2, c3, c4⟩,
      fun ⟨h1, h2, h3, h4, h5⟩ hl hn => wrunlk_unheld ⟨h1, h2, h3, h4, h5⟩ hok hcalm hl hn⟩
  · exact fun hretry ⟨h1, h2, h3, h4, h5⟩ hl hq => unlock_does ⟨h1, h2, h3, h4, h5⟩ hretry hl hq
  · exact fun hretry hl hlate hq => lockExpiry_does hretry hl hlate hq

end Sys2Proof.Machine

/-! ## Acceptance of descriptors into staging (R473 to R481, R487) -/

namespace Sys2Proof.Machine

section
variable {s u v w : State} {cls : Nat} {bs : List Byte} {heart : Bool} {t : Nat}

/-! ### What the recorder keeps beside its registers -/

theorem Touches.setRcd {fs : List Fld} {A : List Area} {P : List Part} (h : Touches fs A P s u) (hP : .rcd ∈ P)
    (r : Recorder) : Touches fs A P s { u with rcd := r } :=
  h.parts' rfl fun p hp => by cases p <;> first | rfl | exact absurd hP hp

theorem Kept.setRcd {A : List Area} {P : List Part} (h : Kept A P s u) (hP : .rcd ∈ P) (r : Recorder) :
    Kept A P s { u with rcd := r } :=
  h.parts rfl rfl (fun p hp => by cases p <;> first | rfl | exact absurd hP hp) fun c => ⟨c.1, c.2, c.3, c.4, c.5⟩

theorem Raises.setRcd {ns : List Nat} (h : Raises ns s u) (r : Recorder) : Raises ns s { u with rcd := r } :=
  h.of_regs_eq rfl

/-! ### Bytes in the staging ring -/

/-- A frame drawn wider. -/
theorem Touches.weaken {fs gs : List Fld} {A B : List Area} {P Q : List Part} (h : Touches gs B Q s u) (hf : gs ⊆ fs)
    (hA : ∀ a ∈ B, a ∈ A) (hP : ∀ p ∈ Q, p ∈ P) : Touches fs A P s u :=
  (Touches.refl fs A P s).trans h hf hA hP

theorem NoSoft.of_regs_eq (h : NoSoft s) (hu : u.regs = s.regs) : NoSoft u :=
  h.of_regsIn fun f _ => by rw [State.rd, hu, State.rd]

/-- Rows that the recorder writes: one that stays uncorrectable is passed over, the others are encoded afresh. -/
theorem State.stagedRows_of_noSoft (hs : NoSoft s) (a n : Nat) (l : List (Nat × Nat)) :
    ∃ x, l.foldl (fun s r => if s.rowBad r.1 r.2 && !coversRow a n r.2 then s
      else (s.setErr r.1 r.2 0).rowWritten r.1 r.2) s = { s with ecc := x } := by
  induction l generalizing s with
  | nil => exact ⟨s.ecc, rfl⟩
  | cons r l ih =>
    rw [List.foldl_cons]
    split
    · exact ih hs
    · have hr : NoSoft (s.setErr r.1 r.2 0) := hs
      rw [State.rowWritten_of_noSoft hr]
      obtain ⟨x, hx⟩ := ih hr
      exact ⟨x, hx⟩

theorem State.stagingStore_shows (hs : NoSoft s) (a : Nat) (bs : List Byte) :
    Stored a bs s (s.stagingStore a bs) ∧ (s.stagingStore a bs).regs = s.regs ∧
      Touches [] [] [.mem, .ecc, .cvu] s (s.stagingStore a bs) := by
  obtain ⟨x, hx⟩ := State.stagedRows_of_noSoft (hs.of_regs_eq (State.putBytes_regs s a bs)) a bs.length
    (rowsAt a bs.length)
  have hstore : s.stagingStore a bs = State.unitWrite { s.putBytes a bs with ecc := x }
      ((List.range bs.length).zip bs |>.map fun e => (a + e.1, e.2)) := by
    unfold State.stagingStore
    rw [hx]
  rw [hstore]
  exact s.putSeen_shows a bs x

/-- A record is laid into the ring from its head on; one that ends before the ring does lies in one piece. -/
theorem State.putRing_shows (hs : NoSoft s) (off : Nat) (bs : List Byte) :
    (s.putRing off bs).regs = s.regs ∧ Touches [] [] [.mem, .ecc, .cvu] s (s.putRing off bs) ∧
      (0 < bs.length → off + bs.length ≤ 0x100000 → Stored (sramBase + stagingOff + off) bs s (s.putRing off bs)) := by
  unfold State.putRing
  extract_lets o n x
  obtain ⟨hstored, hregs, htouch⟩ := State.stagingStore_shows hs (sramBase + stagingOff + o) (bs.take n)
  obtain ⟨-, hregs', htouch'⟩ := State.stagingStore_shows (hs.of_regs_eq hregs) (sramBase + stagingOff) (bs.drop n)
  split
  · refine ⟨hregs, htouch, fun hpos hend => ?_⟩
    have ho : o = off := Nat.mod_eq_of_lt (by omega)
    rwa [← ho, ← List.take_of_length_le (show bs.length ≤ n by omega)]
  · exact ⟨hregs'.trans hregs, htouch.trans htouch' (List.Subset.refl _) (fun _ h => h) fun _ h => h,
      fun hpos hend => absurd hend (by have ho : o = off := Nat.mod_eq_of_lt (by omega)
                                       omega)⟩

/-! ### A record enters staging -/

/-- The record of the next SEQ enters staging: its bytes lie at the head of the ring. -/
def State.stagePut (s : State) (cls : Nat) (bs : List Byte) (heart full : Bool) : State :=
  let v := s.putRing s.rcd.head bs
  let v : State := { v with rcd := { v.rcd with
    next := s.rcd.next + 1
    heartFull := full
    staged := v.rcd.staged ++ [(⟨s.rcd.next, cls, v.rcd.head, bs, heart⟩ : Staged)]
    head := (v.rcd.head + bs.length) % 0x100000 } }
  v.wr REC_STG_BYTES (v.fill + bs.length)

theorem State.stage_eq (s : State) (cls : Nat) (flushes : Bool) (bytes : Nat → Bool → List Byte) :
    s.stage cls flushes bytes =
      let heart := s.heartTakes (bytes s.rcd.next true).length
      let v := s.stagePut cls (bytes s.rcd.next heart) heart (s.rcd.heartFull || (s.heartLive && !heart))
      let w := if 0x80000 ≤ v.fill then v.startFlush false else v
      if flushes then w.startFlush true else w := rfl

/-- A record has entered staging and is accepted (R478). -/
structure Staging (cls : Nat) (bs : List Byte) (heart : Bool) (s u : State) : Prop extends Raises [] s u where
  rcd : u.rcd = { s.rcd with
    next := s.rcd.next + 1
    heartFull := u.rcd.heartFull
    staged := s.rcd.staged ++ [(⟨s.rcd.next, cls, s.rcd.head, bs, heart⟩ : Staged)]
    head := (s.rcd.head + bs.length) % 0x100000 }
  fill : u.rd REC_STG_BYTES = s.rd REC_STG_BYTES + bs.length
  stored : s.rcd.head + bs.length ≤ 0x100000 → Stored (sramBase + stagingOff + s.rcd.head) bs s u
  touches : Touches [REC_STG_BYTES] [] [.mem, .rcd, .ecc, .cvu] s u

theorem Staging.of_laid {x : State} {r : Recorder} {n : Nat} (hregs : x.regs = s.regs)
    (htouch : Touches [] [] [.mem, .ecc, .cvu] s x) (hrcd : r = { s.rcd with
      next := s.rcd.next + 1
      heartFull := r.heartFull
      staged := s.rcd.staged ++ [(⟨s.rcd.next, cls, s.rcd.head, bs, heart⟩ : Staged)]
      head := (s.rcd.head + bs.length) % 0x100000 })
    (hn : n = s.rd REC_STG_BYTES + bs.length) (hfill : n < 2 ^ 21)
    (hstored : s.rcd.head + bs.length ≤ 0x100000 → Stored (sramBase + stagingOff + s.rcd.head) bs s x) :
    Staging cls bs heart s (State.wr { x with rcd := r } REC_STG_BYTES n) where
  toRaises := Raises.wr (u := { x with rcd := r }) (((Raises.refl s).of_regs_eq hregs).of_regs_eq rfl) (by decide)
    (by decide) n
  rcd := hrcd
  fill := by rw [State.rd_wr_same, ← hn]; exact Nat.mod_eq_of_lt hfill
  stored := fun h => (hstored h).of_mem_eq rfl
  touches := by
    have hx : Touches [REC_STG_BYTES] [] [.mem, .rcd, .ecc, .cvu] s x :=
      htouch.weaken (List.nil_subset _) (by decide) (by decide)
    exact (hx.setRcd (by decide) r).wrOf List.mem_cons_self _

theorem State.stagePut_shows (hs : NoSoft s) (hbs : 0 < bs.length) (hfill : s.rd REC_STG_BYTES + bs.length < 2 ^ 21)
    (cls : Nat) (heart full : Bool) : Staging cls bs heart s (s.stagePut cls bs heart full) := by
  unfold State.stagePut
  obtain ⟨hregs, htouch, hstored⟩ := State.putRing_shows hs s.rcd.head bs
  have hrcd : (s.putRing s.rcd.head bs).rcd = s.rcd := htouch.parts .rcd (by decide)
  generalize s.putRing s.rcd.head bs = x at hregs htouch hstored hrcd
  have hn : x.rd REC_STG_BYTES + bs.length = s.rd REC_STG_BYTES + bs.length := by rw [State.rd, hregs, State.rd]
  dsimp only
  rw [hrcd]
  exact Staging.of_laid hregs htouch rfl hn (hn ▸ hfill) (hstored hbs)

theorem State.startFlush_of_none (h : u.rcd.flush = none) (b : Bool) : u.startFlush b =
    State.wr { u with rcd := { u.rcd with flush := some ⟨b, u.now, min 4096 u.fill⟩ } } REC_STAT_FLUSHING 1 := by
  rw [State.startFlush, h]

/-- A flush until staging is empty has begun, with what is staged now. -/
def State.flushBegun (u : State) : State :=
  State.wr { u with rcd := { u.rcd with flush := some ⟨true, u.now, min 4096 u.fill⟩ } } REC_STAT_FLUSHING 1

/-- A record that leaves the fill below 512 KiB and is of no class that flushes. -/
theorem State.stage_low (hs : NoSoft s) {bytes : Nat → Bool → List Byte}
    (hheart : s.heartTakes (bytes s.rcd.next true).length = heart) (hbytes : bytes s.rcd.next heart = bs)
    (hbs : 0 < bs.length) (hfill : s.rd REC_STG_BYTES + bs.length < 0x80000) :
    Staging cls bs heart s (s.stage cls false bytes) := by
  rw [State.stage_eq]
  dsimp only
  rw [hheart, hbytes]
  have hput := State.stagePut_shows hs hbs (show s.rd REC_STG_BYTES + bs.length < 2 ^ 21 by omega) cls heart
    (s.rcd.heartFull || (s.heartLive && !heart))
  have hlow : ¬ 0x80000 ≤ (s.stagePut cls bs heart (s.rcd.heartFull || (s.heartLive && !heart))).fill := by
    rw [State.fill, hput.fill]
    omega
  rw [if_neg hlow]
  exact hput

/-- A record of a class that flushes, where no flush runs. -/
theorem State.stage_flushing (hs : NoSoft s) {bytes : Nat → Bool → List Byte}
    (hheart : s.heartTakes (bytes s.rcd.next true).length = heart) (hbytes : bytes s.rcd.next heart = bs)
    (hbs : 0 < bs.length) (hfill : s.rd REC_STG_BYTES + bs.length < 2 ^ 21) (hflush : s.rcd.flush = none) :
    ∃ v, Staging cls bs heart s v ∧ s.stage cls true bytes = v.flushBegun := by
  have hput := State.stagePut_shows hs hbs hfill cls heart (s.rcd.heartFull || (s.heartLive && !heart))
  refine ⟨_, hput, ?_⟩
  rw [State.stage_eq]
  dsimp only
  rw [hheart, hbytes, if_pos rfl]
  generalize s.stagePut cls bs heart (s.rcd.heartFull || (s.heartLive && !heart)) = v at hput
  have hnone : v.rcd.flush = none := by rw [hput.rcd]; exact hflush
  split
  · rw [State.startFlush_of_none hnone, State.startFlush]
    rfl
  · exact State.startFlush_of_none hnone true

/-! ### The descriptor that the recorder takes -/

/-- The ingress queue without its first descriptor. -/
def State.tookDesc (s : State) (q : List Desc) (t : Nat) : State :=
  let v := (s.begin t).setQueue q
  { v with rcd := { v.rcd with early := v.rcd.early - 1 } }

theorem State.exec_recordAccept {d : Desc} {q : List Desc} (hq : s.rcd.queue = d :: q) (ha : s.mayAccept = true)
    (bad : Bool) (t : Nat) :
    exec (.recordAccept bad t) s = .next ((s.tookDesc q t).acceptDesc d bad).leaveOverload := by
  show Host.Outcome.next ((s.begin t).recordAccept bad) = _
  have ha : (s.begin t).mayAccept = true := ha
  unfold State.recordAccept
  rw [show (s.begin t).rcd.queue = d :: q from hq]
  dsimp only
  rw [if_pos ha]
  rfl

theorem State.leaveOverload_of_none (h : u.rcd.drops = none) : u.leaveOverload = u := by
  rw [State.leaveOverload, h]

section
variable {q : List Desc}

theorem State.tookDesc_rd {f : Fld} (h : f.key ≠ REC_QFILL_N.key) : (s.tookDesc q t).rd f = s.rd f :=
  State.rd_wr_ne _ h _

theorem State.tookDesc_qfill : (s.tookDesc q t).rd REC_QFILL_N = q.length % 2 ^ 12 := State.rd_wr_same ..

theorem State.tookDesc_raises : Raises [] s (s.tookDesc q t) :=
  (((Raises.begin s t).of_regs_eq rfl).wr (f := REC_QFILL_N) (by decide) (by decide) q.length).of_regs_eq rfl

theorem State.tookDesc_touches : Touches [REC_QFILL_N] [] [.now, .resp, .out, .rcd] s (s.tookDesc q t) :=
  ⟨fun f hf _ => State.tookDesc_rd fun h => hf (h ▸ List.mem_cons_self), fun p hp => by
    cases p <;> first | rfl | exact absurd (by decide) hp⟩

theorem State.tookDesc_heartTakes (n : Nat) : (s.tookDesc q t).heartTakes n = s.heartTakes n := by
  have hkey : (s.tookDesc q t).rd KEY_STAT_STATE = s.rd KEY_STAT_STATE := State.tookDesc_rd (by decide)
  have hhwn : (s.tookDesc q t).rd REC_LAYOUT_HWN = s.rd REC_LAYOUT_HWN := State.tookDesc_rd (by decide)
  unfold State.heartTakes State.heartLive State.hwn
  rw [hkey, hhwn]
  rfl

theorem State.tookDesc_tsync : (s.tookDesc q t).tsync = s.tsync := by
  rw [State.tsync, State.tookDesc_rd (by decide), State.tsync]

theorem NoSoft.tookDesc (h : NoSoft s) : NoSoft (s.tookDesc q t) := fun i hi => by
  rw [State.ctState, State.tookDesc_rd (Fld.key_ne_of_addr_ne (Nat.le_of_ble_eq_true rfl) (Nat.le_of_ble_eq_true rfl)
    (by simp only [ECC_CTi_INFO_STATE, REC_QFILL_N]; omega))]
  exact h i hi

end

theorem hwBytes_length (cls src kind obj w0 w1 time : Nat) (ts : Bool) (seq : Nat) (heart : Bool) :
    (hwBytes cls src kind obj w0 w1 time ts seq heart).length = 40 := by
  simp [hwBytes, recHeader]

/-- What the acceptance of a hardware record does where staging has room and no OVERLOAD stands. -/
theorem State.acceptDesc_hw (h : u.rd REC_STAT_OVERLOAD = 0) (hroom : u.rd REC_STG_BYTES + 40 ≤ 0x100000 - 0x4000)
    (cls src kind obj w0 w1 time : Nat) (ts bad : Bool) : u.acceptDesc (.hw cls src kind obj w0 w1 time ts) bad =
      u.stage cls (flushClass cls) (hwBytes cls src kind obj w0 w1 time ts) := by
  have hover : u.flag REC_STAT_OVERLOAD = false := by rw [State.flag, h]; rfl
  have hstg : u.stagingRoom cls 40 = true := by
    rw [State.stagingRoom, State.fill]
    split <;> exact decide_eq_true (by omega)
  show (if (u.flag REC_STAT_OVERLOAD && !reservedClass cls) || !u.stagingRoom cls 40 then _ else _) = _
  rw [hover, hstg]
  rfl

/-- The frame and the records of a descriptor that enters staging, as the state before the command sees them. -/
theorem Staging.of_took {q : List Desc} (h : Staging cls bs heart (s.tookDesc q t) u) :
    u.rcd.staged = s.rcd.staged ++ [⟨s.rcd.next, cls, s.rcd.head, bs, heart⟩] ∧ u.rcd.next = s.rcd.next + 1 ∧
      u.rcd.head = (s.rcd.head + bs.length) % 0x100000 ∧ u.rd REC_STG_BYTES = s.rd REC_STG_BYTES + bs.length ∧
      (s.rcd.head + bs.length ≤ 0x100000 → Stored (sramBase + stagingOff + s.rcd.head) bs s u) := by
  refine ⟨by rw [h.rcd]; rfl, by rw [h.rcd]; rfl, by rw [h.rcd]; rfl, ?_, fun hend => (h.stored hend).of_source rfl⟩
  rw [h.fill, State.tookDesc_rd (by decide)]

end

end Sys2Proof.Machine

/-! ## What the acceptance of a descriptor does (R478, R480, R487) -/

namespace Sys2Proof.Machine

section
variable {s u v w : State} {cls src : Nat} {bs : List Byte} {heart bad : Bool} {h : Fin 12} {off len t : Nat} {q : List Desc}

/-- A record of the next SEQ lies in staging. -/
def EntersStaging (cls : Nat) (bs : List Byte) (heart : Bool) (s u : State) : Prop :=
  u.rcd.staged = s.rcd.staged ++ [⟨s.rcd.next, cls, s.rcd.head, bs, heart⟩] ∧ u.rcd.next = s.rcd.next + 1 ∧
    u.rcd.head = (s.rcd.head + bs.length) % 0x100000 ∧ u.rd REC_STG_BYTES = s.rd REC_STG_BYTES + bs.length ∧
    (s.rcd.head + bs.length ≤ 0x100000 → Stored (sramBase + stagingOff + s.rcd.head) bs s u)

theorem EntersStaging.of_eq (h : EntersStaging cls bs heart s u) (hrcd : w.rcd.staged = u.rcd.staged ∧
    w.rcd.next = u.rcd.next ∧ w.rcd.head = u.rcd.head) (hfill : w.rd REC_STG_BYTES = u.rd REC_STG_BYTES)
    (hmem : w.mem = u.mem) : EntersStaging cls bs heart s w := by
  obtain ⟨hstaged, hnext, hhead, hbytes, hstored⟩ := h
  obtain ⟨h1, h2, h3⟩ := hrcd
  exact ⟨h1.trans hstaged, h2.trans hnext, h3.trans hhead, hfill.trans hbytes, fun hend => (hstored hend).of_mem_eq hmem⟩

/-! ### Hardware records -/

/-- A hardware record that finds room. -/
theorem hwAccepted {kind obj w0 w1 time : Nat} {ts : Bool} (hq : s.rcd.queue = .hw cls src kind obj w0 w1 time ts :: q)
    (ha : s.mayAccept = true) (hover : s.rd REC_STAT_OVERLOAD = 0) (hdrops : s.rcd.drops = none) (hs : NoSoft s)
    (hroom : s.rd REC_STG_BYTES + 40 ≤ 0x100000 - 0x4000) (bad : Bool) (t : Nat) :
    let bs := hwBytes cls src kind obj w0 w1 time ts s.rcd.next (s.heartTakes 40)
    (s.rd REC_STG_BYTES + 40 < 0x80000 → cls ≠ 1 → cls ≠ 2 → Does (.recordAccept bad t) s fun u =>
      EntersStaging cls bs (s.heartTakes 40) s u ∧ u.rcd.queue = q ∧ u.rcd.flush = s.rcd.flush ∧
      u.rd REC_QFILL_N = q.length % 2 ^ 12 ∧ Quiet s u ∧
      Touches [REC_STG_BYTES, REC_QFILL_N] [] [.now, .mem, .resp, .out, .pw, .rcd, .ecc, .cvu] s u) ∧
    (cls = 1 ∨ cls = 2 → s.rcd.flush = none → Does (.recordAccept bad t) s fun u =>
      EntersStaging cls bs (s.heartTakes 40) s u ∧ u.rcd.queue = q ∧
      u.rcd.flush = some ⟨true, t, min 4096 (s.rd REC_STG_BYTES + 40)⟩ ∧ u.rd REC_STAT_FLUSHING = 1 ∧ Quiet s u) := by
  intro bs
  have hlen : bs.length = 40 := hwBytes_length ..
  have hbytes : hwBytes cls src kind obj w0 w1 time ts (s.tookDesc q t).rcd.next (s.heartTakes 40) = bs := rfl
  have hheart : (s.tookDesc q t).heartTakes
      (hwBytes cls src kind obj w0 w1 time ts (s.tookDesc q t).rcd.next true).length = s.heartTakes 40 := by
    rw [hwBytes_length, State.tookDesc_heartTakes]
  have hfill : (s.tookDesc q t).rd REC_STG_BYTES = s.rd REC_STG_BYTES := State.tookDesc_rd (by decide)
  have hexec := State.exec_recordAccept hq ha bad t
  rw [State.acceptDesc_hw ((State.tookDesc_rd (by decide)).trans hover) (by rw [hfill]; exact hroom)] at hexec
  refine ⟨fun hlow h1 h2 => ?_, fun hcls hflush => ?_⟩
  · have hclass : flushClass cls = false := by simp [flushClass, h1, h2]
    have hput := State.stage_low (hs.tookDesc (q := q) (t := t)) (cls := cls) hheart hbytes (by omega) (by omega)
    rw [hclass] at hexec
    generalize (s.tookDesc q t).stage cls false _ = u at hexec hput
    rw [State.leaveOverload_of_none (by rw [hput.rcd]; exact hdrops)] at hexec
    refine ⟨u, hexec, hput.of_took, by rw [hput.rcd]; rfl, by rw [hput.rcd]; rfl, ?_,
      (hput.toRaises.after State.tookDesc_raises).raised, ?_⟩
    · exact (hput.touches.regs _ (by decide) List.not_mem_nil).trans State.tookDesc_qfill
    · exact (State.tookDesc_touches.weaken (by decide) (by decide) (by decide)).trans hput.touches (by decide) (by decide)
        (by decide)
  · have hclass : flushClass cls = true := by rcases hcls with rfl | rfl <;> rfl
    obtain ⟨v, hput, hstage⟩ := State.stage_flushing (hs.tookDesc (q := q) (t := t)) (cls := cls) hheart hbytes (by omega)
      (by omega) hflush
    rw [hclass, hstage, State.leaveOverload_of_none (by
      show v.rcd.drops = none
      rw [hput.rcd]
      exact hdrops)] at hexec
    have hnow : v.now = t := hput.touches.parts .now (by decide)
    have hvfill : v.fill = s.rd REC_STG_BYTES + 40 := by rw [State.fill, hput.fill, hfill, hlen]
    refine ⟨v.flushBegun, hexec, EntersStaging.of_eq hput.of_took ⟨rfl, rfl, rfl⟩ (State.rd_wr_ne _ (by decide) _) rfl,
      by show v.rcd.queue = q; rw [hput.rcd]; rfl, by
        show some (Flush.mk true v.now (min 4096 v.fill)) = _
        rw [hnow, hvfill], State.rd_wr_same .., ?_⟩
    exact ((hput.toRaises.after State.tookDesc_raises).of_regs_eq rfl |>.wr (f := REC_STAT_FLUSHING) (by decide)
      (by decide) 1).raised

/-- A record that is dropped is counted, by its source and its class, and the first begins OVERLOAD (R487). -/
theorem State.dropRecord_shows (hover : u.rd REC_STAT_OVERLOAD = 0) (hdrops : u.rcd.drops = none) (hsrc : src < 64)
    (hcls : cls < 16) (time : Nat) :
    let w := u.dropRecord cls src time
    w.rcd = { u.rcd with drops := some ⟨u.rcd.next - 1, time, time, 1, [(src, 1)], [(cls, 1)]⟩ } ∧
      w.rd REC_STAT_OVERLOAD = 1 ∧ w.rd REC_STAT_DROPEV = 1 ∧ w.rd REC_DROP_TOT = sat 32 (u.rd REC_DROP_TOT + 1) ∧
      w.rd (REC_DROPSRCi src) = sat 32 (u.rd (REC_DROPSRCi src) + 1) ∧
      w.rd (REC_DROPCLSc cls) = sat 32 (u.rd (REC_DROPCLSc cls) + 1) ∧ w.rd REC_STG_BYTES = u.rd REC_STG_BYTES ∧
      Raises [209] u w := by
  have hflag : u.flag REC_STAT_OVERLOAD = false := by rw [State.flag, hover]; rfl
  let x : State := { u with rcd := { u.rcd with drops := some ⟨u.rcd.next - 1, time, time, 1, [(src, 1)], [(cls, 1)]⟩ } }
  have hdrop : u.dropRecord cls src time = (((((x.bump REC_DROP_TOT).bump (REC_DROPSRCi src)).bump (REC_DROPCLSc cls)).wr
      REC_STAT_DROPEV 1).wr REC_STAT_OVERLOAD 1).raise 209 := by
    unfold State.dropRecord
    rw [hdrops, hflag]
    rfl
  have htot : ∀ g : Fld, g.lo < 32 → g.addr < 0x10C00400 → g.key ≠ (REC_DROPSRCi src).key ∧ g.key ≠ (REC_DROPCLSc cls).key :=
    fun g hlo hlt => ⟨Fld.key_ne_of_addr_lt hlo (by simp only [REC_DROPSRCi]; omega),
      Fld.key_ne_of_addr_lt hlo (by simp only [REC_DROPCLSc]; omega)⟩
  have hsc : (REC_DROPSRCi src).key ≠ (REC_DROPCLSc cls).key :=
    Fld.key_ne_of_addr_lt (Nat.le_of_ble_eq_true rfl) (by simp only [REC_DROPSRCi, REC_DROPCLSc]; omega)
  have hhigh : ∀ g : Fld, g.lo < 32 → g.addr < 0x10C00400 → (REC_DROPSRCi src).key ≠ g.key ∧ (REC_DROPCLSc cls).key ≠ g.key :=
    fun g hlo hlt => ⟨(htot g hlo hlt).1.symm, (htot g hlo hlt).2.symm⟩
  have hlow {f : Fld} (hlo : f.lo < 32) (hlt : f.addr < 0x10C00400) (hf : f.area.code ≠ 5) (h1 : f.key ≠ REC_STAT_OVERLOAD.key)
      (h2 : f.key ≠ REC_STAT_DROPEV.key) : (u.dropRecord cls src time).rd f = (x.bump REC_DROP_TOT).rd f := by
    rw [hdrop, State.rd_raise_code hf, State.rd_wr_ne _ h1, State.rd_wr_ne _ h2, State.bump_eq,
      State.rd_wr_ne _ (htot f hlo hlt).2, State.bump_eq, State.rd_wr_ne _ (htot f hlo hlt).1]
  have hlo : ∀ n, (REC_DROPSRCi n).lo < 32 ∧ (REC_DROPCLSc n).lo < 32 :=
    fun _ => ⟨Nat.le_of_ble_eq_true rfl, Nat.le_of_ble_eq_true rfl⟩
  intro w
  refine ⟨?_, ?_, ?_, ?_, ?_, ?_, ?_, ?_⟩
  · show (u.dropRecord cls src time).rcd = _
    rw [hdrop, State.raise_rcd]
    rfl
  · show (u.dropRecord cls src time).rd _ = _
    rw [hdrop, State.rd_raise_code (by decide), State.rd_wr_same]
    rfl
  · show (u.dropRecord cls src time).rd _ = _
    rw [hdrop, State.rd_raise_code (by decide), State.rd_wr_ne _ (by decide), State.rd_wr_same]
    rfl
  · exact (hlow (by decide) (by decide) (by decide) (by decide) (by decide)).trans (State.rd_bump_same x _ 1)
  · show (u.dropRecord cls src time).rd _ = _
    rw [hdrop, State.rd_raise_code (f := REC_DROPSRCi src) (Nat.ne_of_beq_eq_false rfl),
      State.rd_wr_ne _ (hhigh REC_STAT_OVERLOAD (by decide) (by decide)).1,
      State.rd_wr_ne _ (hhigh REC_STAT_DROPEV (by decide) (by decide)).1, State.bump_eq, State.rd_wr_ne _ hsc,
      State.rd_bump_same, State.bump_eq, State.rd_wr_ne _ (hhigh REC_DROP_TOT (by decide) (by decide)).1]
    rfl
  · show (u.dropRecord cls src time).rd _ = _
    rw [hdrop, State.rd_raise_code (f := REC_DROPCLSc cls) (Nat.ne_of_beq_eq_false rfl),
      State.rd_wr_ne _ (hhigh REC_STAT_OVERLOAD (by decide) (by decide)).2,
      State.rd_wr_ne _ (hhigh REC_STAT_DROPEV (by decide) (by decide)).2,
      State.rd_bump_same, State.bump_eq, State.rd_wr_ne _ hsc.symm, State.bump_eq,
      State.rd_wr_ne _ (hhigh REC_DROP_TOT (by decide) (by decide)).2]
    rfl
  · exact (hlow (by decide) (by decide) (by decide) (by decide) (by decide)).trans (State.rd_wr_ne x (by decide) _)
  · show Raises _ u (u.dropRecord cls src time)
    rw [hdrop]
    exact ((((((Raises.refl u).of_regs_eq (w := x) rfl).bump (by decide) (by decide) 1).bump
      (f := REC_DROPSRCi src) (Nat.ne_of_beq_eq_false rfl) (Nat.ne_of_beq_eq_false rfl) 1).bump
      (f := REC_DROPCLSc cls) (Nat.ne_of_beq_eq_false rfl) (Nat.ne_of_beq_eq_false rfl) 1).wr (by decide) (by decide) 1).wr
      (by decide) (by decide) 1 |>.raiseCons (by decide)

/-- OVERLOAD stands while much is staged, and while many descriptors wait. -/
theorem State.leaveOverload_of_fill (h : 0x80000 ≤ u.rd REC_STG_BYTES) : u.leaveOverload = u := by
  unfold State.leaveOverload
  split
  · rfl
  · rw [State.fill, show decide (u.rd REC_STG_BYTES < 0x80000) = false from decide_eq_false (by omega)]
    simp

theorem State.leaveOverload_of_queue (h : 1024 ≤ u.rcd.queue.length) : u.leaveOverload = u := by
  unfold State.leaveOverload
  split
  · rfl
  · rw [show decide (u.rcd.queue.length < 1024) = false from decide_eq_false (by omega)]
    simp

/-- A hardware record that finds no room (R487). -/
theorem hwDropped {kind obj w0 w1 time : Nat} {ts : Bool} (hq : s.rcd.queue = .hw cls src kind obj w0 w1 time ts :: q)
    (ha : s.mayAccept = true) (hover : s.rd REC_STAT_OVERLOAD = 0) (hdrops : s.rcd.drops = none)
    (hres : reservedClass cls = false) (hroom : 0x100000 - 0x4000 < s.rd REC_STG_BYTES + 40)
    (hfill : 0x80000 ≤ s.rd REC_STG_BYTES) (hsrc : src < 64) (hcls : cls < 16) (bad : Bool) (t : Nat) :
    Does (.recordAccept bad t) s fun u => u.rcd.queue = q ∧ u.rcd.staged = s.rcd.staged ∧
      u.rcd.next = s.rcd.next ∧ u.rd REC_STAT_OVERLOAD = 1 ∧ u.rd REC_STAT_DROPEV = 1 ∧
      u.rd REC_DROP_TOT = sat 32 (s.rd REC_DROP_TOT + 1) ∧
      u.rd (REC_DROPSRCi src) = sat 32 (s.rd (REC_DROPSRCi src) + 1) ∧
      u.rd (REC_DROPCLSc cls) = sat 32 (s.rd (REC_DROPCLSc cls) + 1) ∧
      u.rcd.drops = some ⟨s.rcd.next - 1, t, t, 1, [(src, 1)], [(cls, 1)]⟩ ∧ Raised [209] s u ∧ SameMemory s u := by
  have hrd {f : Fld} (hf : f.key ≠ REC_QFILL_N.key) : (s.tookDesc q t).rd f = s.rd f := State.tookDesc_rd hf
  have hstg : (s.tookDesc q t).stagingRoom cls 40 = false := by
    rw [State.stagingRoom, State.fill, hrd (by decide), hres, if_neg Bool.false_ne_true]
    exact decide_eq_false (by omega)
  have hexec := State.exec_recordAccept hq ha bad t
  have hdrop : (s.tookDesc q t).acceptDesc (.hw cls src kind obj w0 w1 time ts) bad =
      (s.tookDesc q t).dropRecord cls src t := by
    show (if (_ && _) || !(s.tookDesc q t).stagingRoom cls 40 then _ else _) = _
    rw [hstg, Bool.not_false, Bool.or_true, if_pos rfl]
    rfl
  have hkept : Kept [.pend, .ingress] [.rcd] (s.tookDesc q t) ((s.tookDesc q t).dropRecord cls src t) :=
    State.dropRecord_kept (Kept.refl _ _ _) (by decide) (by decide)
  obtain ⟨hrcd, hov, hev, htot, hbysrc, hbycls, hbytes, hraise⟩ := State.dropRecord_shows ((hrd (by decide)).trans hover)
    (show (s.tookDesc q t).rcd.drops = none from hdrops) hsrc hcls t
  rw [hdrop, State.leaveOverload_of_fill (by rw [hbytes, hrd (by decide)]; exact hfill)] at hexec
  have hne (f : Fld) (hlo : f.lo < 32) (h : 0x10C00038 < f.addr) : f.key ≠ REC_QFILL_N.key :=
    (Fld.key_ne_of_addr_lt (Nat.le_of_ble_eq_true rfl) (by simp only [REC_QFILL_N]; omega)).symm
  have hsame := SameMemory.of_kept hkept (by decide) (by decide)
  rw [hrd (by decide)] at htot
  rw [hrd (hne _ (Nat.le_of_ble_eq_true rfl) (by simp only [REC_DROPSRCi]; omega))] at hbysrc
  rw [hrd (hne _ (Nat.le_of_ble_eq_true rfl) (by simp only [REC_DROPCLSc]; omega))] at hbycls
  generalize (s.tookDesc q t).dropRecord cls src t = u at *
  refine ⟨u, hexec, ?_, ?_, ?_, hov, hev, htot, hbysrc, hbycls, ?_, (hraise.after State.tookDesc_raises).raised, ?_⟩
  · rw [hrcd]; rfl
  · rw [hrcd]; rfl
  · rw [hrcd]; rfl
  · rw [hrcd]; rfl
  · exact ⟨fun a => (hsame.1 a).trans (State.byte_congr rfl a), fun a => (hsame.2 a).trans (State.leByte_congr rfl a)⟩

/-! ### Records of firmware -/

/-- A submission has failed with ERR 6. -/
def FailedSource (h : Nat) (u : State) : Prop :=
  u.rd (REC_Hh_STAT_BUSY h) = 0 ∧ u.rd (REC_Hh_STAT_FAIL h) = 1 ∧ u.rd (REC_Hh_STAT_ERR h) = 6

/-- The end of a submission whose source cannot be read. -/
def State.failSource (u : State) (h : Nat) : State := (u.endSubmit h (REC_Hh_STAT_FAIL h)).wr (REC_Hh_STAT_ERR h) 6

theorem State.failSource_shows (u : State) (h : Fin 12) :
    FailedSource h (u.failSource h) ∧
      Touches [REC_Hh_STAT_BUSY h, REC_Hh_STAT_FAIL h, REC_Hh_STAT_ERR h] [] [] u (u.failSource h) := by
  have hbf : (REC_Hh_STAT_BUSY h).key ≠ (REC_Hh_STAT_FAIL h).key := by revert h; decide
  have hbe : (REC_Hh_STAT_BUSY h).key ≠ (REC_Hh_STAT_ERR h).key := by revert h; decide
  have hfe : (REC_Hh_STAT_FAIL h).key ≠ (REC_Hh_STAT_ERR h).key := by revert h; decide
  unfold State.failSource State.endSubmit
  refine ⟨⟨?_, ?_, ?_⟩, ?_⟩
  · rw [State.rd_wr_ne _ hbe, State.rd_wr_ne _ hbf, State.rd_wr_same]
    rfl
  · rw [State.rd_wr_ne _ hfe, State.rd_wr_same]
    rfl
  · rw [State.rd_wr_same]
    rfl
  · exact (((Touches.refl _ _ _ u).wrOf (by simp) _).wrOf (by simp) _).wrOf (by simp) _

theorem State.acceptDesc_fw_failed (hbad : bad = true ∨ (u.seeRange 0x20 3 (sramBase + off) len).1 = true) (cls : Nat) :
    u.acceptDesc (.fw h off len cls) bad = (u.seeRange 0x20 3 (sramBase + off) len).2.failSource h := by
  have hor : (bad || (u.seeRange 0x20 3 (sramBase + off) len).1) = true := by
    rcases hbad with hb | hb
    · rw [hb, Bool.true_or]
    · rw [hb, Bool.or_true]
  unfold State.acceptDesc
  dsimp only
  rw [if_pos hor]
  rfl

theorem fwFailed (hq : s.rcd.queue = .fw h off len cls :: q) (ha : s.mayAccept = true) (hdrops : s.rcd.drops = none)
    (hs : RangeSound s (sramBase + off) len) (t : Nat) : Does (.recordAccept true t) s fun u =>
      u.rcd.queue = q ∧ u.rcd.next = s.rcd.next ∧ FailedSource h u ∧
      Touches [REC_Hh_STAT_BUSY h, REC_Hh_STAT_FAIL h, REC_Hh_STAT_ERR h, REC_QFILL_N] [] [.now, .resp, .out, .rcd] s u := by
  have hsound : RangeSound (s.tookDesc q t) (sramBase + off) len := hs.of_ecc rfl
  have hexec := State.exec_recordAccept hq ha true t
  rw [State.acceptDesc_fw_failed (.inl rfl), hsound.seeRange,
    State.leaveOverload_of_none (u := (s.tookDesc q t).failSource h) hdrops] at hexec
  obtain ⟨hfail, htouch⟩ := (s.tookDesc q t).failSource_shows h
  exact ⟨_, hexec, rfl, rfl, hfail, (State.tookDesc_touches.weaken (by simp) (by decide) (by decide)).trans htouch
    (by simp) (by decide) (by decide)⟩

/-- What an uncorrectable row leaves in the error log. -/
theorem State.uncorrectable_log (s : State) (memid row : Nat) (r : EccResult) (cause : Nat) :
    let u := s.uncorrectable memid row r 0x20 cause
    u.rd ECC_UE_LOC_ROW = row % 2 ^ 28 ∧ u.rd ECC_UE_INFO_MASTER = 0x20 := by
  unfold State.uncorrectable
  extract_lets v1 v2 v3 v4 v5
  have hlog (f : Fld) (hp : f.area.code ≠ 5) (hi : f.area.code ≠ 19)
      (haf : f.key ≠ ECC_UE_CNT_AF.key ∧ f.key ≠ ECC_STAT_AFEV.key)
      (htime : f.key ≠ ECC_UE_TIME_LO.key ∧ f.key ≠ ECC_UE_TIME_HI.key) :
      (v5.record 1 5 (if r = .addrFault then 34 else 33) 0xFFFF (some 0x10400000) (some 0x10400014)).rd f = v3.rd f := by
    obtain ⟨hcnt, hev⟩ := haf
    obtain ⟨hlo, hhi⟩ := htime
    have h4 : v4.rd f = v3.rd f := by
      rw [show v4 = ((v3.wr ECC_UE_TIME_LO _).wr ECC_UE_TIME_HI _).raise 33 from rfl, State.rd_raise_code hp,
        State.rd_wr_ne _ hhi, State.rd_wr_ne _ hlo]
    rw [State.rd_record_code hp hi, ← h4]
    show (if r = .addrFault then ((v4.bump ECC_UE_CNT_AF).wr ECC_STAT_AFEV 1).raise 34 else v4).rd f = _
    split
    · rw [State.rd_raise_code hp, State.rd_wr_ne _ hev, State.bump_eq, State.rd_wr_ne _ hcnt]
    · rfl
  refine ⟨?_, ?_⟩
  · rw [hlog _ (by decide) (by decide) (by decide) (by decide), State.rd_wr_ne _ (by decide), State.rd_wr_ne _ (by decide),
      State.rd_wr_ne _ (by decide), State.rd_wr_ne _ (by decide), State.rd_wr_same]
    rfl
  · rw [hlog _ (by decide) (by decide) (by decide) (by decide), State.rd_wr_ne _ (by decide), State.rd_wr_same]
    rfl

/-- An alarm that the recorder's own reading raises joins the queue, or finds it full. -/
theorem State.record_alarm_rcd (hphase : u.pw.phase = .running) (hdrops : u.rcd.drops = none) (src kind obj : Nat)
    (w0 w1 : Option Nat) :
    let w := u.record 1 src kind obj w0 w1
    w.rcd.next = u.rcd.next ∧ (w.rcd.drops = none ∨ 1024 ≤ w.rcd.queue.length) := by
  unfold State.record State.offer
  rw [hphase]
  simp only [reservedClass, beq_self_eq_true, Bool.true_or, Bool.not_true, Bool.and_false, Bool.false_eq_true, if_false,
    if_true, reduceCtorEq, or_self]
  split
  · next hfull =>
    have hrcd (v : State) (cls src time : Nat) : (v.dropRecord cls src time).rcd.next = v.rcd.next ∧
        (v.dropRecord cls src time).rcd.queue = v.rcd.queue := by
      unfold State.dropRecord
      dsimp only
      split
      · exact ⟨rfl, rfl⟩
      · rw [State.raise_rcd]
        exact ⟨rfl, rfl⟩
    refine ⟨(hrcd ..).1, .inr ?_⟩
    rw [(hrcd ..).2]
    omega
  · exact ⟨rfl, .inl hdrops⟩

theorem State.uncorrectable_rcd (hphase : u.pw.phase = .running) (hdrops : u.rcd.drops = none) (memid row : Nat)
    (r : EccResult) (master cause : Nat) :
    let w := u.uncorrectable memid row r master cause
    w.rcd.next = u.rcd.next ∧ (w.rcd.drops = none ∨ 1024 ≤ w.rcd.queue.length) := by
  unfold State.uncorrectable
  extract_lets v1 v2 v3 v4 v5
  have h3 : v3.rcd = u.rcd ∧ v3.pw = u.pw := ⟨rfl, rfl⟩
  clear_value v3
  have h4 : v4.rcd = u.rcd ∧ v4.pw = u.pw := by
    rw [← h3.1, ← h3.2]
    exact ⟨State.raise_rcd (v3.wr64 _ _ _) 33, State.raise_pw (v3.wr64 _ _ _) 33⟩
  clear_value v4
  have h5 : v5.rcd = u.rcd ∧ v5.pw = u.pw := by
    rw [← h4.1, ← h4.2]
    show (if r = .addrFault then ((v4.bump ECC_UE_CNT_AF).wr ECC_STAT_AFEV 1).raise 34 else v4).rcd = _ ∧
      (if r = .addrFault then ((v4.bump ECC_UE_CNT_AF).wr ECC_STAT_AFEV 1).raise 34 else v4).pw = _
    split
    · exact ⟨State.raise_rcd .., State.raise_pw ..⟩
    · exact ⟨rfl, rfl⟩
  clear_value v5
  obtain ⟨hrcd, hpw⟩ := h5
  have hrec := State.record_alarm_rcd (u := v5) (by rw [hpw]; exact hphase) (by rw [hrcd]; exact hdrops) 5 (if r = .addrFault then 34 else 33) 0xFFFF
    (some 0x10400000) (some 0x10400014)
  rwa [hrcd] at hrec

theorem State.mayAccept_running (h : s.mayAccept = true) : s.pw.phase = .running := by
  unfold State.mayAccept at h
  simp only [Bool.and_eq_true, beq_iff_eq] at h
  exact h.1.2

theorem ueLog_key_ne : ∀ h : Fin 12, ∀ f ∈ ([REC_Hh_STAT_BUSY h, REC_Hh_STAT_FAIL h, REC_Hh_STAT_ERR h] : List Fld),
    ECC_UE_LOC_ROW.key ≠ f.key ∧ ECC_UE_INFO_MASTER.key ≠ f.key := by decide

/-- A source row that cannot be read ends the submission, and the error log names the row. -/
theorem fwUncorrectable {row : Nat} (hq : s.rcd.queue = .fw h off len cls :: q) (ha : s.mayAccept = true)
    (hdrops : s.rcd.drops = none) (hrows : s.rangeRows (sramBase + off) len = [(2, row)]) (hbad : s.rowBad 2 row = true)
    (htest : s.isTestRow 2 row = false) (bad : Bool) (t : Nat) : Does (.recordAccept bad t) s fun u =>
      u.rcd.next = s.rcd.next ∧ FailedSource h u ∧ u.rd ECC_UE_LOC_ROW = row % 2 ^ 28 ∧
      u.rd ECC_UE_INFO_MASTER = 0x20 := by
  have htest' : (s.tookDesc q t).isTestRow 2 row = false := by
    have hrow : (s.tookDesc q t).testRow = s.testRow :=
      State.testRow_congr (State.tookDesc_rd (by decide)) (State.tookDesc_rd (by decide))
    have harm : (s.tookDesc q t).flag ECC_TST_ADDR_HI_ARM = s.flag ECC_TST_ADDR_HI_ARM :=
      State.flag_congr (State.tookDesc_rd (by decide))
    rw [State.isTestRow, hrow, harm]
    exact htest
  obtain ⟨r, -, hsee⟩ := State.seeRows_of_bad (s := s.tookDesc q t) (by decide) htest' hbad 0x20 3
  let x := (s.tookDesc q t).setErr 2 row ((s.tookDesc q t).rowErr 2 row)
  have hrange : (s.tookDesc q t).seeRange 0x20 3 (sramBase + off) len = (true, x.uncorrectable 2 row r 0x20 3) := by
    rw [State.seeRange, show (s.tookDesc q t).rangeRows (sramBase + off) len = [(2, row)] from hrows]
    exact hsee
  have hexec := State.exec_recordAccept hq ha bad t
  rw [State.acceptDesc_fw_failed (.inr (by rw [hrange])), hrange] at hexec
  have hlog := State.uncorrectable_log x 2 row r 3
  have hrcd := State.uncorrectable_rcd (u := x) (show x.pw.phase = .running from State.mayAccept_running (s := s) ha)
    (show x.rcd.drops = none from hdrops) 2 row r 0x20 3
  have hx : x.rcd.next = s.rcd.next := rfl
  dsimp only at hexec
  change _ = Host.Outcome.next ((x.uncorrectable 2 row r 0x20 3).failSource h).leaveOverload at hexec
  rw [hx] at hrcd
  generalize x.uncorrectable 2 row r 0x20 3 = u at hexec hlog hrcd
  obtain ⟨hrow, hmaster⟩ := hlog
  obtain ⟨hnext, hleave⟩ := hrcd
  have hstay : (u.failSource h).leaveOverload = u.failSource h := by
    rcases hleave with hnone | hfull
    · exact State.leaveOverload_of_none hnone
    · exact State.leaveOverload_of_queue hfull
  rw [hstay] at hexec
  obtain ⟨hfail, htouch⟩ := u.failSource_shows h
  have hne := ueLog_key_ne h
  exact ⟨_, hexec, hnext, hfail, (htouch.regs _ (fun hm => by
      obtain ⟨f, hf, he⟩ := List.mem_map.mp hm
      exact (hne f hf).1 he.symm) List.not_mem_nil).trans hrow, (htouch.regs _ (fun hm => by
      obtain ⟨f, hf, he⟩ := List.mem_map.mp hm
      exact (hne f hf).2 he.symm) List.not_mem_nil).trans hmaster⟩

/-- The record that firmware's source makes. -/
def fwRecord (s : State) (h : Nat) (off len cls t : Nat) : List Byte :=
  recHeader len cls (0x20 + h) (recFlags false (s.heartTakes len) s.tsync)
    (((s.bytes (sramBase + off) len).getD 5 0).toNat) s.rcd.next t ++ (s.bytes (sramBase + off) len).drop 24

theorem submitDone_key_ne : ∀ h : Fin 12, (REC_Hh_STAT_BUSY h).key ≠ (REC_Hh_STAT_DONE h).key ∧
    (REC_Hh_STAT_BUSY h).key ≠ (REC_Hh_STAT_SEQ h).key ∧ (REC_Hh_STAT_DONE h).key ≠ (REC_Hh_STAT_SEQ h).key ∧
    REC_STG_BYTES.key ≠ (REC_Hh_STAT_BUSY h).key ∧ REC_STG_BYTES.key ≠ (REC_Hh_STAT_DONE h).key ∧
    REC_STG_BYTES.key ≠ (REC_Hh_STAT_SEQ h).key := by decide

/-- A firmware record that finds room. -/
theorem fwAccepted (hq : s.rcd.queue = .fw h off len cls :: q) (ha : s.mayAccept = true)
    (hover : s.rd REC_STAT_OVERLOAD = 0) (hdrops : s.rcd.drops = none) (hs : NoSoft s) (hlen : 24 ≤ len)
    (hsound : RangeSound s (sramBase + off) len) (hfill : s.rd REC_STG_BYTES + len < 0x80000) (h1 : cls ≠ 1) (h2 : cls ≠ 2)
    (t : Nat) : Does (.recordAccept false t) s fun u =>
      EntersStaging cls (fwRecord s h off len cls t) (s.heartTakes len) s u ∧
      u.rcd.queue = q ∧ u.rd (REC_Hh_STAT_BUSY h) = 0 ∧ u.rd (REC_Hh_STAT_DONE h) = 1 ∧
      u.rd (REC_Hh_STAT_SEQ h) = s.rcd.next % 2 ^ 24 ∧ Quiet s u := by
  have hrd {f : Fld} (hf : f.key ≠ REC_QFILL_N.key) : (s.tookDesc q t).rd f = s.rd f := State.tookDesc_rd hf
  have hsound' : RangeSound (s.tookDesc q t) (sramBase + off) len := hsound.of_ecc rfl
  have hclass : flushClass cls = false := by simp [flushClass, h1, h2]
  have hnover : (s.tookDesc q t).flag REC_STAT_OVERLOAD = false := by rw [State.flag, hrd (by decide), hover]; rfl
  have hstg : (s.tookDesc q t).stagingRoom cls len = true := by
    rw [State.stagingRoom, State.fill, hrd (by decide)]
    split <;> exact decide_eq_true (by omega)
  let src := s.bytes (sramBase + off) len
  let bytes : Nat → Bool → List Byte := fun seq heart =>
    recHeader len cls (0x20 + h) (recFlags false heart s.tsync) ((src.getD 5 0).toNat) seq t ++ src.drop 24
  have hbytes (seq : Nat) (heart : Bool) : (bytes seq heart).length = len := by
    simp [bytes, src, recHeader, State.bytes]
    omega
  have hput : Staging cls (fwRecord s h off len cls t) (s.heartTakes len) (s.tookDesc q t)
      ((s.tookDesc q t).stage cls false bytes) :=
    State.stage_low hs.tookDesc (by rw [hbytes, State.tookDesc_heartTakes]) rfl
      (by rw [show fwRecord s h off len cls t = bytes s.rcd.next (s.heartTakes len) from rfl, hbytes]; omega)
      (by rw [show fwRecord s h off len cls t = bytes s.rcd.next (s.heartTakes len) from rfl, hbytes, hrd (by decide)]; omega)
  have hexec := State.exec_recordAccept hq ha false t
  have haccept : (s.tookDesc q t).acceptDesc (.fw h off len cls) false =
      (((s.tookDesc q t).stage cls false bytes).endSubmit h (REC_Hh_STAT_DONE h)).wr (REC_Hh_STAT_SEQ h) s.rcd.next := by
    unfold State.acceptDesc
    dsimp only
    rw [hsound'.seeRange]
    dsimp only
    rw [if_neg (by decide), hnover, hstg, hsound'.seen, State.tookDesc_tsync, hclass]
    rfl
  rw [haccept] at hexec
  generalize (s.tookDesc q t).stage cls false bytes = v at hexec hput
  obtain ⟨hbd, hbs, hds, hfb, hfd, hfs⟩ := submitDone_key_ne h
  rw [State.leaveOverload_of_none (by show v.rcd.drops = none; rw [hput.rcd]; exact hdrops)] at hexec
  refine ⟨_, hexec, EntersStaging.of_eq hput.of_took ⟨rfl, rfl, rfl⟩ ?_ rfl, ?_, ?_, ?_, State.rd_wr_same .., ?_⟩
  · rw [State.rd_wr_ne _ hfs, State.endSubmit, State.rd_wr_ne _ hfd, State.rd_wr_ne _ hfb]
  · show v.rcd.queue = q
    rw [hput.rcd]
    rfl
  · rw [State.rd_wr_ne _ hbs, State.endSubmit, State.rd_wr_ne _ hbd, State.rd_wr_same]
    rfl
  · rw [State.rd_wr_ne _ hds, State.endSubmit, State.rd_wr_same]
    rfl
  · exact ((((hput.toRaises.after State.tookDesc_raises).wr (f := REC_Hh_STAT_BUSY h) (Nat.ne_of_beq_eq_false rfl)
      (Nat.ne_of_beq_eq_false rfl) 0).wr (f := REC_Hh_STAT_DONE h) (Nat.ne_of_beq_eq_false rfl)
      (Nat.ne_of_beq_eq_false rfl) 1).wr (f := REC_Hh_STAT_SEQ h) (Nat.ne_of_beq_eq_false rfl)
      (Nat.ne_of_beq_eq_false rfl) _).raised

end

end Sys2Proof.Machine

/-! ## Submissions, reads and resets of the recorder (R480, R481, R489, R490, R496, R498) -/

namespace Sys2Proof.Machine

section
variable {s u v w : State} {h : Fin 12} {t n : Nat} {r : ReadRun}

/-! ### Submissions -/

theorem State.submitErr_lt (s : State) (h off : Nat) : s.submitErr h off < 16 := by
  unfold State.submitErr
  dsimp only
  split_ifs <;> decide

theorem submitErr_touches {e : Nat} (he : e < 16) (u : State) (h : Fin 12) :
    let w := ((u.wr (REC_Hh_STAT_FAIL h) 1).wr (REC_Hh_STAT_ERR h) e).answer .done
    w.rd (REC_Hh_STAT_FAIL h) = 1 ∧ w.rd (REC_Hh_STAT_ERR h) = e ∧ w.resp = .done ∧
      Touches [REC_Hh_STAT_FAIL h, REC_Hh_STAT_ERR h] [] [.resp] u w := by
  have hfe : (REC_Hh_STAT_FAIL h).key ≠ (REC_Hh_STAT_ERR h).key := by revert h; decide
  refine ⟨(State.rd_wr_ne _ hfe _).trans (State.rd_wr_same ..), (State.rd_wr_same ..).trans (Nat.mod_eq_of_lt he), rfl, ?_⟩
  exact (((Touches.refl _ _ _ u).wrOf (by simp) _).wrOf (by simp) _).answer (by decide) _

/-- A descriptor that the ingress queue has room for joins it. -/
theorem State.offer_of_recording (hr : Recording u 1) (d : Desc) (cls src time : Nat) :
    u.offer d cls src time = (true, u.setQueue (u.rcd.queue ++ [d])) := by
  obtain ⟨h1, h2, h3, h4, h5⟩ := hr
  have hflag : u.flag REC_STAT_OVERLOAD = false := by rw [State.flag, h4]; rfl
  unfold State.offer
  rw [if_neg h1, if_neg (by simp [h2, h3]), hflag, Bool.false_and, if_neg Bool.false_ne_true, if_neg]
  split <;> omega

theorem submitBusy_key_ne : ∀ h : Fin 12, REC_STAT_OVERLOAD.key ≠ (REC_Hh_STAT_BUSY h).key ∧
    (REC_Hh_STAT_BUSY h).key ≠ REC_QFILL_N.key := by decide

/-- RECORD_SUBMIT by the hart whose registers they are. -/
theorem recordSubmit_own (hrun : s.hartRuns h = true) (hopen : s.deviceOpen h 0x10C00000 = true) (t : Nat) :
    let off := 8 * s.rd (REC_Hh_ADDR_OFF h)
    let e := s.submitErr h off
    (e ≠ 0 → Does (.recordSubmit h h t) s fun u => u.rd (REC_Hh_STAT_FAIL h) = 1 ∧ u.rd (REC_Hh_STAT_ERR h) = e ∧
      u.resp = .done ∧ Touches [REC_Hh_STAT_FAIL h, REC_Hh_STAT_ERR h] [] [.now, .resp, .out] s u) ∧
    (e = 0 → Recording s 1 → Does (.recordSubmit h h t) s fun u =>
      u.rcd = { s.rcd with queue := s.rcd.queue ++
        [.fw h off (leNat (s.bytes (sramBase + off) 2)) (s.byte (sramBase + off + 2)).toNat] } ∧
      u.rd (REC_Hh_STAT_BUSY h) = 1 ∧ u.resp = .done ∧
      Touches [REC_Hh_STAT_BUSY h, REC_QFILL_N] [] [.now, .resp, .out, .rcd] s u) := by
  intro off e
  have hexec : exec (.recordSubmit h h t) s = .next (((s.begin t).submit h).answer .done) := by
    have hrun : (s.begin t).hartRuns h = true := hrun
    have hopen : (s.begin t).deviceOpen h 0x10C00000 = true := hopen
    show Host.Outcome.next (if !(s.begin t).hartRuns h then _ else if decide (h = h) && _ then _ else _) = _
    rw [hrun, hopen, decide_eq_true rfl]
    rfl
  have hbegin : Touches [] [] [.now, .resp, .out] s (s.begin t) := Touches.begin s t (by decide)
  have hsubmit : (s.begin t).submit h = if e ≠ 0 then ((s.begin t).wr (REC_Hh_STAT_FAIL h) 1).wr (REC_Hh_STAT_ERR h) e
      else
        let r := ((s.begin t).wr (REC_Hh_STAT_BUSY h) 1).offer (.fw h off (leNat (s.bytes (sramBase + off) 2))
          (s.byte (sramBase + off + 2)).toNat) (s.byte (sramBase + off + 2)).toNat (0x20 + h) t
        if r.1 then r.2 else r.2.endSubmit h (REC_Hh_STAT_DROP h) := rfl
  refine ⟨fun he => ?_, fun he hr => ?_⟩
  · rw [hsubmit, if_pos he] at hexec
    obtain ⟨hfail, herr, hresp, htouch⟩ := submitErr_touches (s.submitErr_lt h off) (s.begin t) h
    exact ⟨_, hexec, hfail, herr, hresp, (hbegin.weaken (List.nil_subset _) (by decide) (by decide)).trans htouch
      (List.Subset.refl _) (by decide) (by decide)⟩
  · obtain ⟨hover, hq⟩ := submitBusy_key_ne h
    obtain ⟨h1, h2, h3, h4, h5⟩ := hr
    have hr' : Recording ((s.begin t).wr (REC_Hh_STAT_BUSY h) 1) 1 :=
      ⟨h1, h2, h3, (State.rd_wr_ne _ hover _).trans h4, h5⟩
    rw [hsubmit, if_neg (not_not.mpr he), State.offer_of_recording hr'] at hexec
    refine ⟨_, hexec, rfl, (State.rd_wr_ne _ hq _).trans
      (show ((s.begin t).wr (REC_Hh_STAT_BUSY h) 1).rd (REC_Hh_STAT_BUSY h) = 1 from State.rd_wr_same ..), rfl, ?_⟩
    refine Touches.answer (Touches.wrOf (Touches.setRcd (Touches.wrOf ?_ (by simp) 1) (by decide) _) (by simp) _) (by decide) _
    exact hbegin.weaken (List.nil_subset _) (by decide) (by decide)

/-! ### The flush timer -/

theorem flushTimer_fires (hflush : s.rcd.flush = none) (hfill : 0 < s.rd REC_STG_BYTES)
    (hlast : s.rcd.lastFlushEnd + 1000000000 ≤ t) : Does (.recorderFlushTimer t) s fun u =>
      u.rcd = { s.rcd with flush := some ⟨true, t, min 4096 (s.rd REC_STG_BYTES)⟩ } ∧ u.rd REC_STAT_FLUSHING = 1 ∧
      Touches [REC_STAT_FLUSHING] [] [.now, .resp, .out, .rcd] s u := by
  have hflush' : (s.begin t).rcd.flush = none := hflush
  have hcond : ((s.begin t).rcd.flush.isNone && decide (0 < (s.begin t).fill) &&
      decide ((s.begin t).rcd.lastFlushEnd + 1000000000 ≤ (s.begin t).now)) = true := by
    rw [hflush']
    simp [State.fill, hfill, hlast]
  have hexec : exec (.recorderFlushTimer t) s = .next (s.begin t).flushBegun := by
    show Host.Outcome.next (s.begin t).flushTimer = _
    rw [State.flushTimer, if_pos hcond, State.startFlush_of_none hflush']
    rfl
  refine ⟨_, hexec, rfl, State.rd_wr_same .., ?_⟩
  exact Touches.wrOf (Touches.setRcd (Touches.begin s t (by decide)) (by decide) _) (by decide) _

theorem flushTimer_idle (h : s.rcd.flush.isSome = true ∨ s.rd REC_STG_BYTES = 0 ∨ t < s.rcd.lastFlushEnd + 1000000000) :
    Does (.recorderFlushTimer t) s (Touches [] [] [.now, .resp, .out] s) := by
  have hcond : ¬ ((s.begin t).rcd.flush.isNone && decide (0 < (s.begin t).fill) &&
      decide ((s.begin t).rcd.lastFlushEnd + 1000000000 ≤ (s.begin t).now)) = true := by
    show ¬ (s.rcd.flush.isNone && decide (0 < s.rd REC_STG_BYTES) && decide (s.rcd.lastFlushEnd + 1000000000 ≤ t)) = true
    rcases h with hsome | hzero | hlate
    · rw [Option.isSome_iff_exists] at hsome
      obtain ⟨f, hf⟩ := hsome
      rw [hf]
      simp
    · rw [hzero]
      simp
    · rw [decide_eq_false (p := s.rcd.lastFlushEnd + 1000000000 ≤ t) (by omega)]
      simp
  have hexec : exec (.recorderFlushTimer t) s = .next (s.begin t) := by
    show Host.Outcome.next (s.begin t).flushTimer = _
    rw [State.flushTimer, if_neg hcond]
  exact ⟨_, hexec, Touches.begin s t (by decide)⟩

/-! ### Registers that latch -/

theorem oldestRead_does (s : State) (t : Nat) : Does (.oldestRead t) s fun u =>
    u.rd64 REC_OLDEST_LO REC_OLDEST_HI = s.oldest % 2 ^ 64 ∧ u.rd64 REC_NEWEST_LO REC_NEWEST_HI = s.newest % 2 ^ 64 ∧
      u.resp = .ok (s.oldest % 2 ^ 32) ∧
      Touches [REC_OLDEST_LO, REC_OLDEST_HI, REC_NEWEST_LO, REC_NEWEST_HI] [] [.now, .resp, .out] s u := by
  have hexec : exec (.oldestRead t) s = .next ((((s.begin t).wr64 REC_OLDEST_LO REC_OLDEST_HI s.oldest).wr64 REC_NEWEST_LO
      REC_NEWEST_HI s.newest).answer (.ok ((((s.begin t).wr64 REC_OLDEST_LO REC_OLDEST_HI s.oldest).wr64 REC_NEWEST_LO
      REC_NEWEST_HI s.newest).rd REC_OLDEST_LO))) := rfl
  have hold : ∀ f ∈ [REC_OLDEST_LO, REC_OLDEST_HI], (((s.begin t).wr64 REC_OLDEST_LO REC_OLDEST_HI s.oldest).wr64 REC_NEWEST_LO
      REC_NEWEST_HI s.newest).rd f = ((s.begin t).wr64 REC_OLDEST_LO REC_OLDEST_HI s.oldest).rd f := by
    intro f hf
    have hne : ∀ f ∈ [REC_OLDEST_LO, REC_OLDEST_HI], f.key ≠ REC_NEWEST_LO.key ∧ f.key ≠ REC_NEWEST_HI.key := by decide
    rw [State.wr64_eq _ REC_NEWEST_LO, State.rd_wr_ne _ (hne f hf).2, State.rd_wr_ne _ (hne f hf).1]
  refine ⟨_, hexec, ?_, State.rd64_wr64 _ (by decide) rfl rfl _, ?_, ?_⟩
  · show State.rd64 (((s.begin t).wr64 REC_OLDEST_LO REC_OLDEST_HI s.oldest).wr64 REC_NEWEST_LO REC_NEWEST_HI s.newest) _ _ = _
    rw [State.rd64, hold _ (by decide), hold _ (by decide)]
    exact State.rd64_wr64 _ (by decide) rfl rfl _
  · show Resp.ok _ = _
    rw [hold _ (by decide), State.wr64_eq, State.rd_wr_ne _ (by decide), State.rd_wr_same]
    rfl
  · exact (((Touches.begin s t (by decide)).wr64 (by decide) (by decide) _).wr64 (by decide) (by decide) _).answer
      (by decide) _

theorem nextRead_does (s : State) (t : Nat) : Does (.nextRead t) s fun u =>
    u.rd64 REC_NEXT_LO REC_NEXT_HI = s.rcd.next % 2 ^ 64 ∧ u.resp = .ok (s.rcd.next % 2 ^ 32) ∧
      Touches [REC_NEXT_LO, REC_NEXT_HI] [] [.now, .resp, .out] s u := by
  have hexec : exec (.nextRead t) s = .next (((s.begin t).wr64 REC_NEXT_LO REC_NEXT_HI s.rcd.next).answer
      (.ok (((s.begin t).wr64 REC_NEXT_LO REC_NEXT_HI s.rcd.next).rd REC_NEXT_LO))) := rfl
  refine ⟨_, hexec, State.rd64_wr64 _ (by decide) rfl rfl _, ?_, ?_⟩
  · show Resp.ok _ = _
    rw [State.wr64_eq, State.rd_wr_ne _ (by decide), State.rd_wr_same]
    rfl
  · exact ((Touches.begin s t (by decide)).wr64 (by decide) (by decide) _).answer (by decide) _

/-! ### Reads of records -/

theorem State.readErr_lt (s : State) (heart : Bool) (seq dst len : Nat) : s.readErr heart seq dst len < 8 := by
  unfold State.readErr
  dsimp only
  split
  · decide
  · split
    · split_ifs <;> decide
    · split_ifs <;> decide

/-- A read fails: FAIL, ERR, source 213. -/
theorem State.readFail_shows {e : Nat} (he : e < 8) (u : State) :
    (u.readFail e).rd REC_RD_STAT_FAIL = 1 ∧ (u.readFail e).rd REC_RD_STAT_ERR = e ∧ Raises [213] u (u.readFail e) ∧
      Touches [REC_RD_STAT_FAIL, REC_RD_STAT_ERR] [.pend] [] u (u.readFail e) := by
  unfold State.readFail
  refine ⟨?_, ?_, ?_, ?_⟩
  · rw [State.rd_raise_code (by decide), State.rd_wr_ne _ (by decide), State.rd_wr_same]
    rfl
  · rw [State.rd_raise_code (by decide), State.rd_wr_same]
    exact Nat.mod_eq_of_lt he
  · exact (((Raises.refl u).wr (by decide) (by decide) _).wr (by decide) (by decide) _).raiseCons (by decide)
  · exact (((Touches.refl _ _ _ u).wrOf (by decide) _).wrOf (by decide) _).raise (by decide) _

theorem readStart_does (hph : s.pw.phase = .running) (heart : Bool) (t : Nat) :
    let seq := s.rd64 REC_RD_SEQ_LO REC_RD_SEQ_HI
    let e := s.readErr heart seq (32 * s.rd REC_RD_DST_OFF) (32 * s.rd REC_RD_LEN_LEN)
    (e ≠ 0 → Does (.recordReadStart heart t) s fun u => u.rd REC_RD_STAT_FAIL = 1 ∧ u.rd REC_RD_STAT_ERR = e ∧
      Raised [213] s u ∧ Touches [REC_RD_STAT_FAIL, REC_RD_STAT_ERR] [.pend] [.now, .resp, .out] s u) ∧
    (e = 0 → Does (.recordReadStart heart t) s fun u =>
      u.rcd = { s.rcd with read := some ⟨seq, heart, 32 * s.rd REC_RD_DST_OFF, 32 * s.rd REC_RD_LEN_LEN, []⟩ } ∧
      u.rd REC_RD_STAT_BUSY = 1 ∧ u.rd REC_RD_STAT_RECS = 0 ∧ u.rd REC_RD_STAT_ERR = 0 ∧ u.resp = .done ∧
      Touches [REC_RD_STAT_BUSY, REC_RD_STAT_RECS, REC_RD_STAT_ERR] [] [.now, .resp, .out, .rcd] s u) := by
  intro seq e
  have hread : (s.begin t).readStart heart = if e ≠ 0 then (s.begin t).readFail e else
      ((State.wr { s.begin t with rcd := { s.rcd with
        read := some ⟨seq, heart, 32 * s.rd REC_RD_DST_OFF, 32 * s.rd REC_RD_LEN_LEN, []⟩ } } REC_RD_STAT_BUSY 1).wr
        REC_RD_STAT_RECS 0).wr REC_RD_STAT_ERR 0 := rfl
  refine ⟨fun he => does_running rfl hph ?_, fun he => does_running rfl hph ?_⟩
  · rw [hread, if_pos he]
    obtain ⟨hfail, herr, hraise, htouch⟩ := State.readFail_shows (s.readErr_lt heart seq _ _) (s.begin t)
    exact ⟨hfail, herr, (hraise.after (Raises.begin s t)).raised, (((Touches.begin s t (by decide)).trans htouch
      (List.Subset.refl _) (by decide) (by decide)).answer (by decide) _)⟩
  · rw [hread, if_neg (not_not.mpr he)]
    refine ⟨rfl, ?_, ?_, ?_, rfl, ?_⟩
    · rw [State.answer_rd, State.rd_wr_ne _ (by decide), State.rd_wr_ne _ (by decide), State.rd_wr_same]
      rfl
    · rw [State.answer_rd, State.rd_wr_ne _ (by decide), State.rd_wr_same]
      rfl
    · rw [State.answer_rd, State.rd_wr_same]
      rfl
    · exact Touches.answer (Touches.wrOf (Touches.wrOf (Touches.wrOf (Touches.setRcd (Touches.begin s t (by decide)) (by decide)
        _) (by decide) _) (by decide) _) (by decide) _) (by decide) _

/-- Fuel beyond the number of records adds nothing to a read. -/
theorem fitRecs_of_length_le {n m room : Nat} {l : List NandRec} (hn : l.length ≤ n) (hm : l.length ≤ m) :
    fitRecs n room l = fitRecs m room l := by
  induction l generalizing n m room with
  | nil =>
    cases n <;> cases m <;> rfl
  | cons r l ih =>
    rw [List.length_cons] at hn hm
    obtain ⟨n, rfl⟩ := Nat.exists_eq_add_of_le' (Nat.one_le_of_lt hn)
    obtain ⟨m, rfl⟩ := Nat.exists_eq_add_of_le' (Nat.one_le_of_lt hm)
    simp only [fitRecs]
    rw [ih (Nat.le_of_succ_le_succ hn) (Nat.le_of_succ_le_succ hm)]

/-- The bytes that a read copies. -/
def readBytes (recs : List NandRec) : List Byte :=
  let bs := (recs.map (·.bytes)).flatten
  bs ++ List.replicate ((32 - bs.length % 32) % 32) 0

/-- The records that a read copies at most `n` of. -/
def State.readRecs (s : State) (r : ReadRun) (n : Nat) : List NandRec := fitRecs n r.len (s.readRange r)

/-- What a read leaves that has copied at most `n` records. -/
structure Copied (r : ReadRun) (n : Nat) (s u : State) : Prop extends Raises [] s u where
  stored : Stored (sramBase + r.dst) (readBytes (s.readRecs r n)) s u
  recs : u.rd REC_RD_STAT_RECS = sat 24 (s.readRecs r n).length
  rcd : u.rcd = { s.rcd with read := none }
  busy : u.rd REC_RD_STAT_BUSY = 0
  touches : Touches [REC_RD_STAT_BUSY, REC_RD_STAT_RECS, REC_RD_LAST_LO, REC_RD_LAST_HI] [] [.mem, .rcd, .ecc, .cvu] s u

theorem State.copyRead_shows (hs : NoSoft s) (r : ReadRun) (n : Nat) : Copied r n s (s.copyRead r n) := by
  obtain ⟨hstored, hregs, htouch⟩ := State.store_shows hs (sramBase + r.dst) (readBytes (s.readRecs r n))
  have hcopy : s.copyRead r n =
      let v := (s.store (sramBase + r.dst) (readBytes (s.readRecs r n))).wr REC_RD_STAT_RECS
        (sat 24 (s.readRecs r n).length)
      let v := match (s.readRecs r n).getLast? with | none => v | some x => v.wr64 REC_RD_LAST_LO REC_RD_LAST_HI x.seq
      State.wr { v with rcd := { v.rcd with read := none } } REC_RD_STAT_BUSY 0 := by
    unfold State.copyRead State.readRecs
    rfl
  have hrcd : (s.store (sramBase + r.dst) (readBytes (s.readRecs r n))).rcd = s.rcd := htouch.parts .rcd (by decide)
  rw [hcopy]
  generalize s.store (sramBase + r.dst) (readBytes (s.readRecs r n)) = x at hstored hregs htouch hrcd
  have hx : Raises [] s x := (Raises.refl s).of_regs_eq hregs
  extract_lets v y
  have hv : Raises [] s v := hx.wr (by decide) (by decide) _
  have hvt : Touches [REC_RD_STAT_BUSY, REC_RD_STAT_RECS, REC_RD_LAST_LO, REC_RD_LAST_HI] [] [.mem, .rcd, .ecc, .cvu] s v :=
    (htouch.weaken (List.nil_subset _) (by decide) (by decide)).wrOf (by decide) _
  have hy : Raises [] s y ∧ y.mem = x.mem ∧ y.rcd = x.rcd ∧ y.rd REC_RD_STAT_RECS = v.rd REC_RD_STAT_RECS ∧
      Touches [REC_RD_STAT_BUSY, REC_RD_STAT_RECS, REC_RD_LAST_LO, REC_RD_LAST_HI] [] [.mem, .rcd, .ecc, .cvu] s y := by
    show Raises [] s (match (s.readRecs r n).getLast? with | none => v | some x => v.wr64 REC_RD_LAST_LO REC_RD_LAST_HI x.seq) ∧ _
    cases hl : (s.readRecs r n).getLast? with
    | none =>
      have hyv : y = v := by show (match (s.readRecs r n).getLast? with | none => v | some x => _) = v; rw [hl]
      rw [hyv]
      exact ⟨hv, rfl, rfl, rfl, hvt⟩
    | some z =>
      have hyv : y = v.wr64 REC_RD_LAST_LO REC_RD_LAST_HI z.seq := by
        show (match (s.readRecs r n).getLast? with | none => v | some x => v.wr64 REC_RD_LAST_LO REC_RD_LAST_HI x.seq) = _
        rw [hl]
      rw [hyv]
      refine ⟨hv.wr64 (by decide) (by decide) (by decide) (by decide) _, rfl, rfl, ?_, hvt.wr64 (by decide) (by decide) _⟩
      rw [State.wr64_eq, State.rd_wr_ne _ (by decide), State.rd_wr_ne _ (by decide)]
  obtain ⟨hyr, hymem, hyrcd, hyrecs, hyt⟩ := hy
  clear_value y
  exact {
    toRaises := (hyr.setRcd { y.rcd with read := none }).wr (f := REC_RD_STAT_BUSY) (by decide) (by decide) 0
    stored := hstored.of_mem_eq hymem
    recs := (State.rd_wr_ne _ (by decide) _).trans (hyrecs.trans ((State.rd_wr_same ..).trans (sat_mod 24 _)))
    rcd := show { y.rcd with read := none } = _ by rw [hyrcd, hrcd]
    busy := State.rd_wr_same ..
    touches := (hyt.setRcd (by decide) { y.rcd with read := none }).wrOf (f := REC_RD_STAT_BUSY) (by decide) 0 }

/-- A read has ended: its records lie in shared SRAM, and source 213 is raised. -/
def CopiedOut (r : ReadRun) (n : Nat) (s u : State) : Prop :=
  Stored (sramBase + r.dst) (readBytes (s.readRecs r n)) s u ∧
    u.rd REC_RD_STAT_RECS = sat 24 (s.readRecs r n).length ∧ u.rcd = { s.rcd with read := none } ∧
    u.rd REC_RD_STAT_BUSY = 0 ∧ Raised [213] s u ∧
    Touches [REC_RD_STAT_BUSY, REC_RD_STAT_DONE, REC_RD_STAT_FAIL, REC_RD_STAT_ERR, REC_RD_STAT_RECS, REC_RD_LAST_LO,
      REC_RD_LAST_HI] [.pend] [.now, .mem, .resp, .out, .rcd, .ecc, .cvu] s u

/-- What is left of a read once its records are copied shows in DONE, FAIL and ERR alone. -/
theorem Copied.ends (h : Copied r n (s.begin t) u) (hraise : Raises [213] u w) (hmem : w.mem = u.mem) (hrcd : w.rcd = u.rcd)
    (htouch : Touches [REC_RD_STAT_DONE, REC_RD_STAT_FAIL, REC_RD_STAT_ERR] [.pend] [.resp] u w) : CopiedOut r n s w := by
  refine ⟨(h.stored.of_source rfl).of_mem_eq hmem, ?_, hrcd.trans h.rcd, ?_,
    (hraise.after (h.toRaises.after (Raises.begin s t))).raised, ?_⟩
  · exact (htouch.regs _ (by decide) (by decide)).trans h.recs
  · exact (htouch.regs _ (by decide) (by decide)).trans h.busy
  · exact ((Touches.begin s t (by decide)).trans h.touches (by decide) (by decide) (by decide)).trans htouch (by decide)
      (by decide) (by decide)

theorem Copied.fails (h : Copied r n (s.begin t) u) {e : Nat} (he : e < 8) :
    CopiedOut r n s (u.readFail e) ∧ (u.readFail e).rd REC_RD_STAT_FAIL = 1 ∧ (u.readFail e).rd REC_RD_STAT_ERR = e := by
  obtain ⟨hfail, herr, hraise, htouch⟩ := State.readFail_shows he u
  exact ⟨h.ends hraise (State.raise_mem ..) (State.raise_rcd ..) (htouch.weaken (by decide) (by decide) (by decide)), hfail, herr⟩

/-- RECORD_READ_DONE, RECORD_READ_ABORT: how a read ends. -/
theorem readDone_does (hr : s.rcd.read = some r) (hs : NoSoft s) (err : Fin 8) (n t : Nat) :
    (err.val ≠ 3 → err.val ≠ 4 → r.gone.length ≤ n → Does (.recordReadDone err n t) s fun u =>
      CopiedOut r (r.gone.length + (s.area r.heart).length) s u ∧ u.rd REC_RD_STAT_DONE = 1) ∧
    (err.val ≠ 4 → n < r.gone.length → Does (.recordReadDone err n t) s fun u =>
      CopiedOut r n s u ∧ u.rd REC_RD_STAT_FAIL = 1 ∧ u.rd REC_RD_STAT_ERR = 3) ∧
    (err.val = 4 ∨ (err.val = 3 ∧ r.gone = []) → Does (.recordReadDone err n t) s fun u =>
      CopiedOut r n s u ∧ u.rd REC_RD_STAT_FAIL = 1 ∧ u.rd REC_RD_STAT_ERR = err) ∧
    Does (.recordReadAbort n t) s (fun u => CopiedOut r n s u ∧ u.rd REC_RD_STAT_FAIL = 1 ∧ u.rd REC_RD_STAT_ERR = 6 ∧
      u.resp = .done) := by
  have hs' : NoSoft (s.begin t) := hs
  have hr' : (s.begin t).rcd.read = some r := hr
  have hdone {e m e' : Nat} (he : (if e = 0 ∧ m < r.gone.length then 3 else e) = e') : (s.begin t).readDone e m =
      if e' = 0 then (((s.begin t).copyRead r (s.readRange r).length).wr REC_RD_STAT_DONE 1).raise 213
      else ((s.begin t).copyRead r (if e' = 3 ∧ r.gone ≠ [] then min m r.gone.length else m)).readFail e' := by
    subst he
    unfold State.readDone
    rw [hr']
    rfl
  have hexec : exec (.recordReadDone err n t) s =
      .next ((s.begin t).readDone (if err.val = 3 ∨ err.val = 4 then err.val else 0) n) := rfl
  refine ⟨fun h3 h4 hn => ?_, fun h4 hn => ?_, fun h => ?_, ?_⟩
  · rw [if_neg (by omega), hdone (if_neg (by omega)), if_pos rfl] at hexec
    have hc := State.copyRead_shows hs' r (s.readRange r).length
    have hrecs : s.readRecs r (r.gone.length + (s.area r.heart).length) = s.readRecs r (s.readRange r).length := by
      refine fitRecs_of_length_le ?_ (Nat.le_refl _)
      rw [State.readRange, List.length_append]
      exact Nat.add_le_add_left (List.length_filter_le _ _) _
    generalize (s.begin t).copyRead r (s.readRange r).length = c at hexec hc
    refine ⟨_, hexec, ?_, ?_⟩
    · have hout := hc.ends (((Raises.refl c).wr (f := REC_RD_STAT_DONE) (by decide) (by decide) 1).raiseCons (m := 213)
        (by decide)) (State.raise_mem ..) (State.raise_rcd ..) ((((Touches.refl _ _ _ c).wrOf (by decide) 1).raise
        (by decide) 213))
      unfold CopiedOut at hout ⊢
      rwa [hrecs]
    · rw [State.rd_raise_code (by decide), State.rd_wr_same]
      rfl
  · have hgone : r.gone ≠ [] := fun h => by rw [h] at hn; exact absurd hn (Nat.not_lt_zero _)
    have herr : (if (if err.val = 3 ∨ err.val = 4 then err.val else 0) = 0 ∧ n < r.gone.length then 3 else
        if err.val = 3 ∨ err.val = 4 then err.val else 0) = 3 := by
      by_cases h3 : err.val = 3
      · rw [h3]
        rfl
      · rw [if_neg (show ¬ (err.val = 3 ∨ err.val = 4) by omega), if_pos ⟨rfl, hn⟩]
    rw [hdone herr, if_neg (by decide), if_pos ⟨rfl, hgone⟩, Nat.min_eq_left (by omega)] at hexec
    exact ⟨_, hexec, (State.copyRead_shows hs' r n).fails (by decide)⟩
  · have hraw : err.val = 3 ∨ err.val = 4 := by omega
    have herr : (if err.val = 0 ∧ n < r.gone.length then 3 else err.val) = err.val := if_neg (by omega)
    have hnot : ¬ (err.val = 3 ∧ r.gone ≠ []) := by
      rintro ⟨h3, hne⟩
      rcases h with h4 | ⟨-, hnil⟩
      · omega
      · exact hne hnil
    rw [if_pos hraw, hdone herr, if_neg (by omega), if_neg hnot] at hexec
    exact ⟨_, hexec, (State.copyRead_shows hs' r n).fails err.isLt⟩
  · have habort : exec (.recordReadAbort n t) s = .next (((s.begin t).copyRead r n).readFail 6 |>.answer .done) := by
      show Host.Outcome.next (((s.begin t).readAbort n).answer .done) = _
      rw [State.readAbort, hr']
    have hc := State.copyRead_shows hs' r n
    generalize (s.begin t).copyRead r n = c at habort hc
    obtain ⟨hfail, herr, hraise, htouch⟩ := State.readFail_shows (e := 6) (by decide) c
    exact ⟨_, habort, hc.ends (hraise.of_regs_eq rfl) (State.raise_mem ..) (State.raise_rcd ..)
      ((htouch.weaken (by decide) (by decide) (by decide)).answer (by decide) _), hfail, herr, rfl⟩

/-! ### The function reset (R496) -/

theorem recorder_without_f : ∀ f ∈ [REC_STAT_OVERLOAD, REC_STG_BYTES, REC_LAYOUT_HWN],
    ((rowFieldOfKey f.key).any fun r => r.on.f) = false := by
  decide +kernel

theorem recorderReset_does (hr : s.rcd.read = none) (hph : s.pw.phase = .running) (n t : Nat) :
    Does (.recorderReset n t) s fun u => u.rcd = { s.rcd with resetting := true } ∧ u.resp = .done ∧
      u.rd REC_STAT_OVERLOAD = s.rd REC_STAT_OVERLOAD ∧ u.rd REC_STG_BYTES = s.rd REC_STG_BYTES ∧
      u.rd REC_LAYOUT_HWN = s.rd REC_LAYOUT_HWN ∧ SameMemory s u ∧ Quiet s u ∧
      Framed [.recd, .ingress] [.now, .resp, .out, .rcd] s u := by
  have hreset : (s.begin t).recorderReset n =
      { (s.begin t).restore (·.f) recBlock with rcd := { s.rcd with resetting := true } } := by
    have hr' : (s.begin t).rcd.read = none := hr
    unfold State.recorderReset
    rw [hr']
    rfl
  have hrd {f : Fld} (hf : f ∈ [REC_STAT_OVERLOAD, REC_STG_BYTES, REC_LAYOUT_HWN]) :
      (((s.begin t).recorderReset n).answer .done).rd f = s.rd f := by
    rw [hreset]
    show ((s.begin t).restore (·.f) recBlock).rd f = _
    rw [State.rd_restore, recorder_without_f f hf, Bool.and_false, if_neg Bool.false_ne_true]
    rfl
  have hkept : Kept [.recd, .ingress] [.now, .resp, .out, .rcd] s (((s.begin t).recorderReset n).answer .done) := by
    have hrestore : Kept [.recd, .ingress] [.now, .resp, .out, .rcd] s ((s.begin t).restore (·.f) recBlock) :=
      State.restore_kept (State.begin_kept (Kept.refl _ _ s) (by decide)) fun a ha => by
        rcases recBlock_area ha with h | h <;> rw [h] <;> decide
    rw [hreset]
    exact State.answer_kept (hrestore.setRcd (by decide) _) (by decide)
  refine does_running rfl hph ⟨by rw [hreset]; rfl, rfl, hrd (by decide), hrd (by decide), hrd (by decide),
    SameMemory.of_kept hkept (by decide) (by decide), ((Raises.refl s).kept hkept (by decide) (by decide)).raised,
    hkept.framed⟩

theorem recorderResetDone_does (s : State) (t : Nat) : Does (.recorderResetDone t) s fun u =>
    u = { s with now := t, hits := u.hits, resp := .none, out := [], rcd := { s.rcd with resetting := false } } :=
  ⟨_, rfl, rfl⟩

end

end Sys2Proof.Machine

/-! ## A page that is programmed (R481 to R483) -/

namespace Sys2Proof.Machine

section
variable {s u v w : State} {f : Flush} {x : Staged} {t n : Nat}

/-- A flush runs with one record staged, in no more than a page. -/
structure Flushing (f : Flush) (x : Staged) (s : State) : Prop where
  flush : s.rcd.flush = some f
  resetting : s.rcd.resetting = false
  staged : s.rcd.staged = [x]
  cut : s.rcd.cut = 0
  length : x.bytes.length = s.rd REC_STG_BYTES
  pos : 0 < s.rd REC_STG_BYTES
  le : s.rd REC_STG_BYTES ≤ 4096
  drops : s.rcd.drops = none
  size_le : f.size ≤ s.rd REC_STG_BYTES
  size_pos : 0 < f.size

theorem Flushing.begin (h : Flushing f x s) (t : Nat) : Flushing f x (s.begin t) :=
  ⟨h.flush, h.resetting, h.staged, h.cut, h.length, h.pos, h.le, h.drops, h.size_le, h.size_pos⟩

/-- The step of a flush: a staging row that the command names is lost, then those that its reads find. -/
theorem exec_pageProgrammed (h : Flushing f x s) (lost : Option Nat) (t : Nat) :
    exec (.pageProgrammed lost t) s = .next
      (let v := match lost with | none => s.begin t | some row => (s.begin t).loseRow row
       (v.loseBad v.ecc.err.length).programPage) := by
  have hgo : ((s.begin t).rcd.resetting || (s.begin t).rcd.flush.isNone) = false := by
    rw [h.begin t |>.resetting, h.begin t |>.flush]
    rfl
  show Host.Outcome.next (if (s.begin t).rcd.resetting || (s.begin t).rcd.flush.isNone then _ else _) = _
  rw [hgo]
  rfl

/-- Without an error pattern in the staging rows a flush finds nothing to lose. -/
theorem State.loseBad_of_nil (h : s.stagingErr = []) : ∀ n, s.loseBad n = s
  | 0 => by rw [State.loseBad, h]; rfl
  | n + 1 => by
    rw [State.loseBad, h]
    exact State.loseBad_of_nil h 0

/-! ### What a page takes -/

theorem takePage_whole {page cutPage : Nat} (h : x.bytes.length = n) :
    takePage page n 0 cutPage [x] = ([(x, page)], [], 0, page) := by
  simp [takePage, h]

theorem takePage_part {page cutPage : Nat} (h : n < x.bytes.length) :
    takePage page n 0 cutPage [x] = ([], [x], n, page) := by
  simp [takePage, h]

/-- The limit and the end of a flush after a page of it. -/
def State.pageDone (s : State) (f : Flush) : State :=
  let s : State := { s with rcd := { s.rcd with flush := s.rcd.flush.map fun (g : Flush) =>
    { g with began := f.began, size := min 4096 s.fill } } }
  let unt := match s.rcd.flush with | some g => g.untilEmpty | none => f.untilEmpty
  if (unt && s.fill == 0) || (!unt && decide (s.fill < 4096)) then s.endFlush f.began else s

/-- The record that a page's spare area names as the first that begins in it. -/
def firstOf (page : Nat) (recs : List (Staged × Nat)) (left : List Staged) (cut cutPage : Nat) : Option Nat :=
  ((recs.find? fun x => x.2 == page).map (·.1.seq)).or
    (if cut ≠ 0 ∧ cutPage = page then left.head?.map (·.seq) else none)

theorem State.programPage_eq {recs : List (Staged × Nat)} {left : List Staged} {cut cutPage : Nat}
    (hflush : s.rcd.flush = some f) (herase : s.rcd.pages % 64 ≠ 0)
    (hn : min (if f.size = 0 then 4096 else f.size) s.fill = n) (hpos : n ≠ 0)
    (hq : takePage s.rcd.pages n s.rcd.cut s.rcd.cutPage s.rcd.staged = (recs, left, cut, cutPage)) :
    s.programPage =
      let v : State := { s with rcd := { s.rcd with staged := left, cut := cut, cutPage := cutPage } }
      let v := v.ringsPage n (firstOf s.rcd.pages recs left cut cutPage)
      (((v.wr REC_STG_BYTES (v.fill - n)).land recs).leaveOverload).pageDone f := by
  have herase' : s.eraseFor s.rcd.pages = s := by
    unfold State.eraseFor
    exact if_neg fun h => herase h.1
  unfold State.programPage
  rw [hflush]
  dsimp only
  rw [herase', hn, hq]
  dsimp only
  rw [if_neg hpos]
  rfl

/-- Records that go to Rings alone, where Heartwood holds nothing. -/
theorem State.land_rings {recs : List (Staged × Nat)} (hrecs : recs.filter (·.1.heart) = []) (hheart : s.rcd.heart = []) :
    s.land recs = { s with rcd := { s.rcd with
      rings := s.rcd.rings ++ recs.map fun (r : Staged × Nat) => (⟨r.1.seq, r.2, r.1.bytes⟩ : NandRec) } } := by
  unfold State.land
  rw [hrecs]
  dsimp only [List.foldl_nil]
  rw [hheart]

/-- The registers that the end of a flush writes. -/
abbrev flushEndFlds : List Fld := [REC_STAT_FLUSHING, REC_STAT_FLUSHEV, REC_FLUSH_LAST, REC_FLUSH_MAX]

/-- The end of a flush: its length is reported, and source 208 raised. -/
theorem State.endFlush_shows (s : State) (began : Nat) :
    let u := s.endFlush began
    u.rcd = { s.rcd with flush := none, lastFlushEnd := s.now } ∧ u.rd REC_STAT_FLUSHING = 0 ∧ u.rd REC_STAT_FLUSHEV = 1 ∧
      u.rd REC_FLUSH_LAST = sat 32 ((s.now - began) / 1000) ∧ Raises [208] s u ∧
      Touches flushEndFlds [.pend] [.rcd] s u := by
  obtain ⟨v, hv⟩ : ∃ v : State, v = { s with rcd := { s.rcd with flush := none, lastFlushEnd := s.now } } := ⟨_, rfl⟩
  obtain ⟨us, hus⟩ : ∃ us, us = (s.now - began) / 1000 := ⟨_, rfl⟩
  have hend : s.endFlush began = ((((v.wr REC_STAT_FLUSHING 0).wr REC_STAT_FLUSHEV 1).wr REC_FLUSH_LAST (sat 32 us)).maxWr
      REC_FLUSH_MAX us).raise 208 := by rw [hv, hus]; rfl
  have hr : Raises [] s v := by rw [hv]; exact (Raises.refl s).setRcd _
  have ht : Touches flushEndFlds [.pend] [.rcd] s v := by rw [hv]; exact (Touches.refl _ _ _ s).setRcd (by decide) _
  have hrcd : v.rcd = { s.rcd with flush := none, lastFlushEnd := s.now } := by rw [hv]
  have hmax : ∀ f ∈ [REC_STAT_FLUSHING, REC_STAT_FLUSHEV, REC_FLUSH_LAST], ∀ y : State,
      ((y.maxWr REC_FLUSH_MAX us).raise 208).rd f = y.rd f := by
    intro f hf y
    have hne : ∀ f ∈ [REC_STAT_FLUSHING, REC_STAT_FLUSHEV, REC_FLUSH_LAST],
        f.area.code ≠ 5 ∧ f.key ≠ REC_FLUSH_MAX.key := by decide
    rw [State.rd_raise_code (hne f hf).1, State.maxWr, State.rd_wr_ne _ (hne f hf).2]
  rw [hend, ← hus]
  clear hend hv hus
  refine ⟨(State.raise_rcd ..).trans hrcd, ?_, ?_, ?_, ?_, ?_⟩
  · rw [hmax _ (by decide), State.rd_wr_ne _ (by decide), State.rd_wr_ne _ (by decide), State.rd_wr_same]
    rfl
  · rw [hmax _ (by decide), State.rd_wr_ne _ (by decide), State.rd_wr_same]
    rfl
  · rw [hmax _ (by decide), State.rd_wr_same]
    exact sat_mod 32 _
  · have h1 := hr.wr (f := REC_STAT_FLUSHING) (by decide) (by decide) 0
    have h2 := h1.wr (f := REC_STAT_FLUSHEV) (by decide) (by decide) 1
    have h3 := h2.wr (f := REC_FLUSH_LAST) (by decide) (by decide) (sat 32 us)
    exact (h3.wr (f := REC_FLUSH_MAX) (by decide) (by decide) _).raiseCons (by decide)
  · exact ((((ht.wrOf (f := REC_STAT_FLUSHING) (by decide) 0).wrOf (f := REC_STAT_FLUSHEV) (by decide) 1).wrOf
      (f := REC_FLUSH_LAST) (by decide) _).maxWr (by decide) _).raise (by decide) 208

/-! ### The two ways a page of one record ends -/

/-- The spare area of a page that begins with the record `x`. -/
def State.pageSpareOf (s : State) (x : Staged) (k : Nat) : PageSpare :=
  ⟨false, s.rcd.pages, some x.seq, s.lapOf s.rcd.pages, spareCrc false (some x.seq) (s.lapOf s.rcd.pages), 4096 - k⟩

/-- The bytes of a minute that count for R486, a page more. -/
def State.wroteMore (s : State) : Tbl Nat :=
  tblSet 0 (s.now / 60000000000) (tblGet 0 (s.now / 60000000000) s.rcd.wrote + 4096)
    (tblKeep (fun k => decide (s.now / 60000000000 ≤ k + 1440)) s.rcd.wrote)

/-- The recorder after a page of `n` bytes, which leaves `left` of what is staged. -/
def State.pageRcd (s : State) (x : Staged) (n : Nat) (recs : List (Staged × Nat)) (left : List Staged) (cut : Nat) :
    Recorder :=
  { s.rcd with
    staged := left, cut := cut, cutPage := s.rcd.pages, pages := s.rcd.pages + 1
    rings := s.rcd.rings ++ recs.map fun (r : Staged × Nat) => (⟨r.1.seq, r.2, r.1.bytes⟩ : NandRec)
    spares := s.rcd.spares ++ [s.pageSpareOf x n], wrote := s.wroteMore }

theorem Flushing.programPage_eq (h : Flushing f x s) {recs : List (Staged × Nat)} {left : List Staged} {cut : Nat}
    (hq : takePage s.rcd.pages f.size 0 s.rcd.cutPage [x] = (recs, left, cut, s.rcd.pages))
    (hfirst : firstOf s.rcd.pages recs left cut s.rcd.pages = some x.seq)
    (hrecs : recs.filter (·.1.heart) = []) (hheart : s.rcd.heart = []) (hpages : s.rcd.pages % 64 ≠ 0) :
    s.programPage = (State.wr { s with rcd := s.pageRcd x f.size recs left cut } REC_STG_BYTES
      (s.rd REC_STG_BYTES - f.size)).pageDone f := by
  have hsize := h.size_pos
  have hn : min (if f.size = 0 then 4096 else f.size) s.fill = f.size := by
    rw [if_neg (by omega), State.fill, Nat.min_eq_left h.size_le]
  rw [← h.cut, ← h.staged] at hq
  rw [State.programPage_eq h.flush hpages hn (by omega) hq, hfirst]
  dsimp only
  rw [State.land_rings hrecs (by exact hheart), State.leaveOverload_of_none (by exact h.drops)]
  rfl

theorem State.pageDone_eq (hflush : u.rcd.flush = some f) : u.pageDone f =
    let v : State := { u with rcd := { u.rcd with flush := some { f with size := min 4096 u.fill } } }
    if (f.untilEmpty && u.fill == 0) || (!f.untilEmpty && decide (u.fill < 4096)) then v.endFlush f.began else v := by
  unfold State.pageDone
  rw [hflush]
  rfl

/-- A page that takes all that is staged ends the flush. -/
theorem programPage_whole (h : Flushing f x s) (hall : f.size = s.rd REC_STG_BYTES) (hx : x.heart = false)
    (hheart : s.rcd.heart = []) (hpages : s.rcd.pages % 64 ≠ 0) :
    let u := s.programPage
    u.rcd = { s.pageRcd x (s.rd REC_STG_BYTES) [(x, s.rcd.pages)] [] 0 with flush := none, lastFlushEnd := s.now } ∧
      u.rd REC_STG_BYTES = 0 ∧ u.rd REC_STAT_FLUSHING = 0 ∧ u.rd REC_STAT_FLUSHEV = 1 ∧
      u.rd REC_FLUSH_LAST = sat 32 ((s.now - f.began) / 1000) ∧ Raises [208] s u ∧
      Touches (REC_STG_BYTES :: flushEndFlds) [.pend] [.rcd] s u := by
  have hpage := h.programPage_eq (takePage_whole (page := s.rcd.pages) (h.length.trans hall.symm)) (by simp [firstOf])
    (by simp [hx]) hheart hpages
  rw [hall, Nat.sub_self] at hpage
  obtain ⟨v, hv⟩ : ∃ v, v = State.wr { s with rcd := s.pageRcd x (s.rd REC_STG_BYTES) [(x, s.rcd.pages)] [] 0 } REC_STG_BYTES 0 :=
    ⟨_, rfl⟩
  rw [← hv] at hpage
  have hfill : v.fill = 0 := by rw [hv]; exact State.rd_wr_same ..
  have hnow : v.now = s.now := by rw [hv]; rfl
  have hrcd : v.rcd = s.pageRcd x (s.rd REC_STG_BYTES) [(x, s.rcd.pages)] [] 0 := by rw [hv]; rfl
  have hr : Raises [] s v := by rw [hv]; exact ((Raises.refl s).setRcd _).wr (by decide) (by decide) 0
  have ht : Touches (REC_STG_BYTES :: flushEndFlds) [.pend] [.rcd] s v := by
    rw [hv]; exact ((Touches.refl _ _ _ s).setRcd (by decide) _).wrOf (by decide) 0
  have hend : ((f.untilEmpty && v.fill == 0) || (!f.untilEmpty && decide (v.fill < 4096))) = true := by
    rw [hfill]
    cases f.untilEmpty <;> rfl
  rw [State.pageDone_eq (by rw [hrcd]; exact h.flush)] at hpage
  dsimp only at hpage
  rw [if_pos hend] at hpage
  obtain ⟨y, hy⟩ : ∃ y : State, y = { v with rcd := { v.rcd with flush := some { f with size := min 4096 v.fill } } } := ⟨_, rfl⟩
  rw [← hy] at hpage
  have hynow : y.now = s.now := by rw [hy]; exact hnow
  have hyrcd : y.rcd = { v.rcd with flush := some { f with size := min 4096 v.fill } } := by rw [hy]
  have hyr : Raises [] s y := by rw [hy]; exact hr.setRcd _
  have hyt : Touches (REC_STG_BYTES :: flushEndFlds) [.pend] [.rcd] s y := by rw [hy]; exact ht.setRcd (by decide) _
  have hyfill : y.rd REC_STG_BYTES = 0 := by rw [hy]; exact hfill
  clear hy hv
  obtain ⟨hurcd, hflushing, hev, hlast, huraise, hutouch⟩ := y.endFlush_shows f.began
  intro u
  have hu : u = y.endFlush f.began := hpage
  rw [hu]
  refine ⟨?_, (hutouch.regs _ (by decide) (by decide)).trans hyfill, hflushing, hev, ?_, huraise.after hyr, ?_⟩
  · rw [hurcd, hyrcd, hrcd, hynow]
  · rw [hlast, hynow]
  · exact hyt.trans hutouch (by decide) (by decide) (by decide)

/-- A page that leaves bytes of the record keeps the flush, where it runs until staging is empty. -/
theorem programPage_part (h : Flushing f x s) (hpart : f.size < s.rd REC_STG_BYTES) (hempty : f.untilEmpty = true)
    (hheart : s.rcd.heart = []) (hpages : s.rcd.pages % 64 ≠ 0) :
    let u := s.programPage
    u.rcd = { s.pageRcd x f.size [] [x] f.size with flush := some { f with size := s.rd REC_STG_BYTES - f.size } } ∧
      u.rd REC_STG_BYTES = s.rd REC_STG_BYTES - f.size ∧ Raises [] s u ∧ Touches [REC_STG_BYTES] [] [.rcd] s u := by
  have hsize := h.size_pos
  have hle := h.le
  have hpage := h.programPage_eq (takePage_part (page := s.rcd.pages) (cutPage := s.rcd.cutPage)
    (show f.size < x.bytes.length by rw [h.length]; exact hpart)) (by simp [firstOf]; omega) rfl hheart hpages
  obtain ⟨v, hv⟩ : ∃ v, v = State.wr { s with rcd := s.pageRcd x f.size [] [x] f.size } REC_STG_BYTES
    (s.rd REC_STG_BYTES - f.size) := ⟨_, rfl⟩
  rw [← hv] at hpage
  have hfill : v.fill = s.rd REC_STG_BYTES - f.size := by
    rw [hv]
    exact (State.rd_wr_same ..).trans (Nat.mod_eq_of_lt (show _ < 2 ^ 21 by omega))
  have hrcd : v.rcd = s.pageRcd x f.size [] [x] f.size := by rw [hv]; rfl
  have hr : Raises [] s v := by rw [hv]; exact ((Raises.refl s).setRcd _).wr (by decide) (by decide) _
  have ht : Touches [REC_STG_BYTES] [] [.rcd] s v := by
    rw [hv]; exact ((Touches.refl _ _ _ s).setRcd (by decide) _).wrOf (by decide) _
  have hgoes : ((f.untilEmpty && v.fill == 0) || (!f.untilEmpty && decide (v.fill < 4096))) = false := by
    rw [hfill, hempty, show (s.rd REC_STG_BYTES - f.size == 0) = false from beq_false_of_ne (by omega)]
    rfl
  clear hv
  rw [State.pageDone_eq (by rw [hrcd]; exact h.flush)] at hpage
  dsimp only at hpage
  rw [hgoes, if_neg Bool.false_ne_true, hfill, Nat.min_eq_right (by omega), hrcd] at hpage
  intro u
  have hu : u = _ := hpage
  rw [hu]
  exact ⟨rfl, hfill, hr.setRcd _, ht.setRcd (by decide) _⟩

end

end Sys2Proof.Machine

/-! ## Work of the recorder that takes no event back (R437, R479, R481, R494) -/

namespace Sys2Proof.Machine

section
variable {s u v w : State} {f : Fld}

/-! ### Registers that go on, events that stay -/

/-- The areas and parts that the recorder's work shows in. -/
abbrev workAreas : List Area := [.pend, .ecc, .recd, .ingress]
abbrev workParts : List Part := [.now, .mem, .resp, .out, .pw, .rcd, .ecc, .cvu]

/-- The recorder has worked: it stays within its frame, takes no pending event back, and LOSSEV stays. -/
structure Goes (s u : State) : Prop where
  framed : Framed workAreas workParts s u
  pw : u.pw = s.pw
  pends : ∀ n k, n < 256 → k < 4 → s.pends n k = true → u.pends n k = true
  loss : s.rd REC_STAT_LOSSEV = 1 → u.rd REC_STAT_LOSSEV = 1

theorem Goes.refl (s : State) : Goes s s := ⟨(Kept.refl _ _ s).framed, rfl, fun _ _ _ _ h => h, id⟩

theorem Goes.trans (h : Goes s u) (h' : Goes u w) : Goes s w :=
  ⟨⟨fun f hf => (h'.framed.regs f hf).trans (h.framed.regs f hf), fun p hp => (h.framed.parts p hp).trans (h'.framed.parts p hp)⟩,
    h'.pw.trans h.pw, fun n k hn hk hp => h'.pends n k hn hk (h.pends n k hn hk hp), fun hl => h'.loss (h.loss hl)⟩

/-- No register differs. -/
theorem Goes.of_regs_eq (h : Goes s u) (hregs : w.regs = u.regs) (hpw : w.pw = u.pw) (hp : ∀ p, p ∉ workParts → Same u w p) :
    Goes s w := by
  have hrd (f : Fld) : w.rd f = u.rd f := by rw [State.rd, hregs, State.rd]
  refine h.trans ⟨⟨fun f _ => hrd f, hp⟩, hpw, fun n k _ _ hn => ?_, fun hl => (hrd _).trans hl⟩
  rw [State.pends, State.bit, hrd, ← State.bit, ← State.pends]
  exact hn

theorem Goes.setRcd (h : Goes s u) (r : Recorder) : Goes s { u with rcd := r } :=
  h.of_regs_eq rfl rfl fun p hp => by cases p <;> first | rfl | exact absurd (by decide) hp

theorem Goes.setEcc (h : Goes s u) (x : Ecc) : Goes s { u with ecc := x } :=
  h.of_regs_eq rfl rfl fun p hp => by cases p <;> first | rfl | exact absurd (by decide) hp

theorem Goes.wr (h : Goes s u) (ha : f.area ∈ workAreas) (hp : f.area.code ≠ 5) (hl : REC_STAT_LOSSEV.key ≠ f.key) (v : Nat) :
    Goes s (u.wr f v) := by
  refine h.trans ⟨⟨fun g hg => State.rd_wr_area u (fun e : g.area = f.area => hg (e ▸ ha)) v, fun p _ => by cases p <;> rfl⟩, rfl,
    fun n k _ _ hn => ?_, fun hv => (State.rd_wr_ne u hl v).trans hv⟩
  rw [State.pends, State.bit, State.rd_wr_area u (fun e => hp (by rw [← e]; rfl)) v, ← State.bit, ← State.pends]
  exact hn

/-- A register of the correction table or of the error log. -/
theorem Goes.wrEcc (h : Goes s u) (ha : f.area = .ecc) (v : Nat) : Goes s (u.wr f v) :=
  h.wr (by rw [ha]; decide) (by rw [ha]; decide) (Fld.key_ne_of_area (by rw [ha]; decide)) v

theorem Goes.raise (h : Goes s u) {n : Nat} (hn : n < 256) : Goes s (u.raise n) := by
  have hk : Kept [.pend] [] u (u.raise n) := State.raise_kept (Kept.refl _ _ u) (by decide)
  refine h.trans ⟨⟨fun f hf => hk.framed.regs f fun ha => hf (by rw [List.mem_singleton.mp ha]; decide),
    fun p _ => hk.framed.parts p List.not_mem_nil⟩, State.raise_pw .., fun m k hm hk hp => ?_,
    fun hl => (State.rd_raise_code (by decide)).trans hl⟩
  rw [((Raises.refl u).raise hn).raised m k hm hk, hp, Bool.true_or]

theorem Goes.ite {c : Prop} [Decidable c] (hu : Goes s u) (hw : Goes s w) : Goes s (if c then u else w) := by
  split <;> assumption

/-- What a write of bytes does beside registers. -/
theorem Goes.putBytes (h : Goes s u) (a : Nat) (bs : List Byte) : Goes s (u.putBytes a bs) := by
  have hk : Kept [] [.mem] u (u.putBytes a bs) := State.putBytes_kept (Kept.refl _ _ u) (by decide)
  exact h.of_regs_eq (State.putBytes_regs ..) (hk.framed.parts .pw (by decide)) fun p hp => hk.framed.parts p fun hm => hp (by
    rw [List.mem_singleton.mp hm]; decide)

theorem Goes.unitWrite (h : Goes s u) (l : List (Nat × Byte)) : Goes s (u.unitWrite l) := by
  have hk : Kept [.cvu] [.cvu] u (u.unitWrite l) := State.unitWrite_kept (Kept.refl _ _ u) (by decide) (by decide)
  exact h.of_regs_eq (State.unitWrite_regs ..) (hk.framed.parts .pw (by decide)) fun p hp => hk.framed.parts p fun hm => hp (by
    rw [List.mem_singleton.mp hm]; decide)

/-! ### Descriptors that are offered -/

/-- The recorder's queue and its account of drops alone differ of what it keeps. -/
structure Accounts (s u : State) : Prop extends Goes s u where
  rcd : u.rcd = { s.rcd with queue := u.rcd.queue, drops := u.rcd.drops }

theorem Accounts.refl (s : State) : Accounts s s := ⟨Goes.refl s, rfl⟩

theorem Accounts.trans (h : Accounts s u) (h' : Accounts u w) : Accounts s w :=
  ⟨h.toGoes.trans h'.toGoes, by rw [h'.rcd, h.rcd]⟩

/-- What leaves the recorder's own part of the state. -/
theorem Accounts.of_goes (h : Accounts s u) (hg : Goes u w) (hr : w.rcd = u.rcd) : Accounts s w :=
  h.trans ⟨hg, by rw [hr]⟩

theorem Accounts.ite {c : Prop} [Decidable c] (hu : Accounts s u) (hw : Accounts s w) : Accounts s (if c then u else w) := by
  split <;> assumption

theorem Accounts.wrEcc (h : Accounts s u) (ha : f.area = .ecc) (v : Nat) : Accounts s (u.wr f v) :=
  h.of_goes ((Goes.refl u).wrEcc ha v) rfl

theorem Accounts.raise (h : Accounts s u) {n : Nat} (hn : n < 256) : Accounts s (u.raise n) :=
  h.of_goes ((Goes.refl u).raise hn) (State.raise_rcd ..)

theorem lossEv_key_ne_drops (n : Nat) : REC_STAT_LOSSEV.key ≠ (REC_DROPSRCi n).key ∧ REC_STAT_LOSSEV.key ≠ (REC_DROPCLSc n).key :=
  ⟨Fld.key_ne_of_addr_lt (by decide) (by simp only [REC_STAT_LOSSEV, REC_DROPSRCi]; omega),
    Fld.key_ne_of_addr_lt (by decide) (by simp only [REC_STAT_LOSSEV, REC_DROPCLSc]; omega)⟩

theorem Accounts.dropRecord (h : Accounts s u) (cls src time : Nat) : Accounts s (u.dropRecord cls src time) := by
  obtain ⟨d, hdrop⟩ : ∃ d, u.dropRecord cls src time =
      let v : State := { u with rcd := { u.rcd with drops := some d } }
      let y := ((((v.bump REC_DROP_TOT).bump (REC_DROPSRCi src)).bump (REC_DROPCLSc cls)).wr REC_STAT_DROPEV 1).wr
        REC_STAT_OVERLOAD 1
      if u.flag REC_STAT_OVERLOAD then y else y.raise 209 := ⟨_, rfl⟩
  rw [hdrop]
  obtain ⟨v, hv⟩ : ∃ v : State, v = { u with rcd := { u.rcd with drops := some d } } := ⟨_, rfl⟩
  have hvs : Accounts s v := h.trans ⟨by rw [hv]; exact (Goes.refl u).setRcd _, by rw [hv]⟩
  rw [← hv]
  clear hv hdrop
  have hx : Goes v (((v.bump REC_DROP_TOT).bump (REC_DROPSRCi src)).bump (REC_DROPCLSc cls)) :=
    (((Goes.refl v).wr (f := REC_DROP_TOT) (by decide) (by decide) (by decide) _).wr (f := REC_DROPSRCi src)
      (by show Area.ingress ∈ _; decide) (Nat.ne_of_beq_eq_false rfl) (lossEv_key_ne_drops src).1 _).wr (f := REC_DROPCLSc cls)
      (by show Area.ingress ∈ _; decide) (Nat.ne_of_beq_eq_false rfl) (lossEv_key_ne_drops cls).2 _
  have hy := hvs.of_goes ((hx.wr (f := REC_STAT_DROPEV) (by decide) (by decide) (by decide) 1).wr (f := REC_STAT_OVERLOAD)
    (by decide) (by decide) (by decide) 1) rfl
  exact Accounts.ite hy (hy.raise (by decide))

theorem Accounts.setQueue (h : Accounts s u) (q : List Desc) : Accounts s (u.setQueue q) :=
  h.trans ⟨((Goes.refl u).setRcd _).wr (by decide) (by decide) (by decide) _, rfl⟩

/-- A record that is offered outside flush mode joins the queue, is dropped and counted, or meets a module that is off. -/
theorem Accounts.record (h : Accounts s u) (hph : s.pw.phase ≠ .flush) (cls src kind obj : Nat) (w0 w1 : Option Nat) :
    Accounts s (u.record cls src kind obj w0 w1) := by
  have hph : u.pw.phase ≠ .flush := by rw [h.pw]; exact hph
  unfold State.record State.offer
  rw [if_neg hph]
  split
  · exact h
  · split
    · exact h.dropRecord ..
    · rw [apply_ite Prod.snd]
      exact Accounts.ite (h.dropRecord ..) (h.setQueue _)

/-! ### Rows that are written -/

theorem Accounts.ctMove (h : Accounts s u) (hph : s.pw.phase ≠ .flush) (i st : Nat) : Accounts s (u.ctMove i st) :=
  Accounts.ite h ((((h.wrEcc (f := ECC_CTi_INFO_STATE i) rfl st).wrEcc (f := ECC_STAT_CTEV) rfl 1).raise (by decide)).record
    hph ..)

theorem Accounts.ctRelease (h : Accounts s u) (hph : s.pw.phase ≠ .flush) (i : Nat) : Accounts s (u.ctRelease i) := by
  have hm := h.ctMove hph i ctFree
  unfold State.ctRelease
  exact (((((((hm.wrEcc (f := ECC_CTi_LOC_ROW i) rfl 0).wrEcc (f := ECC_CTi_LOC_MEMID i) rfl 0).wrEcc
    (f := ECC_CTi_INFO_LAPCNT i) rfl 0).wrEcc (f := ECC_CTi_INFO_COUNT i) rfl 0).wrEcc (f := ECC_CTi_INFO_POS i) rfl 0).wrEcc
    (f := ECC_CTi_INFO_NSYM i) rfl 0).wrEcc (f := ECC_CTi_TIME_LO i) rfl 0).wrEcc (f := ECC_CTi_TIME_HI i) rfl _

theorem Accounts.rowWritten (h : Accounts s u) (hph : s.pw.phase ≠ .flush) (memid row : Nat) :
    Accounts s (u.rowWritten memid row) := by
  unfold State.rowWritten
  split
  · exact Accounts.ite (h.ctRelease hph _) h
  · exact h

theorem Accounts.setErr (h : Accounts s u) (memid row e : Nat) : Accounts s (u.setErr memid row e) :=
  h.of_goes ((Goes.refl u).setEcc _) rfl

/-- A row that the recorder writes: one that is uncorrectable and not covered stays as it is. -/
def State.stagedRow (a n : Nat) (s : State) (r : Nat × Nat) : State :=
  if s.rowBad r.1 r.2 && !coversRow a n r.2 then s else (s.setErr r.1 r.2 0).rowWritten r.1 r.2

theorem State.stagingStore_eq (s : State) (a : Nat) (bs : List Byte) : s.stagingStore a bs =
    ((rowsAt a bs.length).foldl (State.stagedRow a bs.length) (s.putBytes a bs)).unitWrite
      ((List.range bs.length).zip bs |>.map fun e => (a + e.1, e.2)) := rfl

theorem Accounts.stagedRow (h : Accounts s u) (hph : s.pw.phase ≠ .flush) (a n : Nat) (r : Nat × Nat) :
    Accounts s (u.stagedRow a n r) :=
  Accounts.ite h ((h.setErr ..).rowWritten hph ..)

theorem Accounts.stagingStore (h : Accounts s u) (hph : s.pw.phase ≠ .flush) (a : Nat) (bs : List Byte) :
    Accounts s (u.stagingStore a bs) := by
  have hput : Accounts s (u.putBytes a bs) := h.of_goes ((Goes.refl u).putBytes a bs)
    ((State.putBytes_kept (A := []) (P := [.mem]) (Kept.refl _ _ u) (by decide)).framed.parts .rcd (by decide))
  have hrows : Accounts s ((rowsAt a bs.length).foldl (State.stagedRow a bs.length) (u.putBytes a bs)) :=
    List.foldlRecOn (motive := fun v : State => Accounts s v) _ _ hput fun v hv r _ => hv.stagedRow hph a _ r
  rw [State.stagingStore_eq]
  generalize List.foldl _ _ _ = v at hrows
  exact hrows.of_goes ((Goes.refl v).unitWrite _)
    ((State.unitWrite_kept (A := [.cvu]) (P := [.cvu]) (Kept.refl _ _ v) (by decide) (by decide)).framed.parts .rcd (by decide))

theorem Accounts.putRing (h : Accounts s u) (hph : s.pw.phase ≠ .flush) (off : Nat) (bs : List Byte) :
    Accounts s (u.putRing off bs) :=
  Accounts.ite (h.stagingStore hph _ _) ((h.stagingStore hph _ _).stagingStore hph _ _)

/-! ### Rows that are sound or cannot be read -/

/-- A row is sound, or uncorrectable: a read of it corrects nothing. -/
def State.RowKnown (s : State) (r : Nat × Nat) : Prop := s.rowErr r.1 r.2 = 0 ∨ s.rowBad r.1 r.2 = true

/-- No error pattern differs but those that have gone. -/
def ErrsGo (s u : State) : Prop := ∀ m r, u.rowErr m r = s.rowErr m r ∨ u.rowErr m r = 0

theorem ErrsGo.of_ecc (h : u.ecc = s.ecc) : ErrsGo s u := fun m r => .inl (by rw [State.rowErr, h, State.rowErr])

theorem ErrsGo.trans (h : ErrsGo s u) (h' : ErrsGo u w) : ErrsGo s w := fun m r => by
  rcases h' m r with heq | hz
  · rw [heq]; exact h m r
  · exact .inr hz

theorem ErrsGo.known (h : ErrsGo s u) {r : Nat × Nat} (hk : s.RowKnown r) : u.RowKnown r := by
  rcases h r.1 r.2 with heq | hz
  · unfold State.RowKnown State.rowBad at hk ⊢
    rwa [heq]
  · exact .inl hz

theorem ErrsGo.setErr (s : State) (r : Nat × Nat) : ErrsGo s (s.setErr r.1 r.2 0) := fun m k => by
  by_cases hkey : rowKey m k = rowKey r.1 r.2
  · exact .inr ((congrArg (tblGet 0 · _) hkey).trans (State.rowErr_setErr_same s r.1 r.2 0))
  · refine .inl ?_
    show tblGet 0 (rowKey m k) (tblSet 0 (rowKey r.1 r.2) 0 s.ecc.err) = tblGet 0 (rowKey m k) s.ecc.err
    exact tblGet_set_ne hkey 0 0 _ _

theorem State.rowWritten_ecc (s : State) (memid row : Nat) : (s.rowWritten memid row).ecc = s.ecc :=
  (State.rowWritten_kept (A := [.pend, .ecc, .ingress]) (P := [.pw, .rcd]) (Kept.refl _ _ s) (by decide)
    (by decide)).framed.parts .ecc (by decide)

theorem State.stagedRow_errs (s : State) (a n : Nat) (r : Nat × Nat) :
    ErrsGo s (s.stagedRow a n r) ∧ (s.stagedRow a n r).RowKnown r := by
  unfold State.stagedRow
  split
  · next hbad =>
    exact ⟨.of_ecc rfl, .inr (by simp only [Bool.and_eq_true] at hbad; exact hbad.1)⟩
  · have hecc := State.rowWritten_ecc (s.setErr r.1 r.2 0) r.1 r.2
    refine ⟨(ErrsGo.setErr s r).trans (.of_ecc hecc), .inl ?_⟩
    rw [State.rowErr, hecc]
    exact State.rowErr_setErr_same s r.1 r.2 0

theorem State.stagedRows_errs (s : State) (a n : Nat) (l : List (Nat × Nat)) :
    ErrsGo s (l.foldl (State.stagedRow a n) s) ∧ ∀ r ∈ l, (l.foldl (State.stagedRow a n) s).RowKnown r := by
  induction l generalizing s with
  | nil => exact ⟨.of_ecc rfl, fun r hr => absurd hr List.not_mem_nil⟩
  | cons x l ih =>
    obtain ⟨hx, hknown⟩ := s.stagedRow_errs a n x
    obtain ⟨hl, hrest⟩ := ih (s.stagedRow a n x)
    rw [List.foldl_cons]
    refine ⟨hx.trans hl, fun r hr => ?_⟩
    rcases List.mem_cons.mp hr with rfl | hr
    · exact hl.known hknown
    · exact hrest r hr

theorem State.stagingStore_errs (s : State) (a : Nat) (bs : List Byte) :
    ErrsGo s (s.stagingStore a bs) ∧ ∀ r ∈ rowsAt a bs.length, (s.stagingStore a bs).RowKnown r := by
  have hput : (s.putBytes a bs).ecc = s.ecc :=
    (State.putBytes_kept (A := []) (P := [.mem]) (Kept.refl _ _ s) (by decide)).framed.parts .ecc (by decide)
  obtain ⟨hrows, hknown⟩ := (s.putBytes a bs).stagedRows_errs a bs.length (rowsAt a bs.length)
  rw [State.stagingStore_eq]
  generalize List.foldl _ _ _ = v at hrows hknown
  have hunit : (v.unitWrite ((List.range bs.length).zip bs |>.map fun e => (a + e.1, e.2))).ecc = v.ecc :=
    (State.unitWrite_kept (A := [.cvu]) (P := [.cvu]) (Kept.refl _ _ v) (by decide) (by decide)).framed.parts .ecc (by decide)
  exact ⟨((ErrsGo.of_ecc hput).trans hrows).trans (.of_ecc hunit), fun r hr => (ErrsGo.of_ecc hunit).known (hknown r hr)⟩

/-- The row of a byte of shared SRAM. -/
theorem rowOf_sram {a : Nat} (h : 0x1000000 ≤ a) (h' : a < 0x2000000) : rowOf a = some (2, a % 0x1000000 / 32) := by
  have h1 : inRange 0x800000000 0xA00000000 a = false := by
    simp only [inRange, Bool.and_eq_false_iff, decide_eq_false_iff_not]
    omega
  have h2 : inRange 0x1000000 0x2000000 a = true := by
    simp only [inRange, Bool.and_eq_true, decide_eq_true_eq]
    omega
  rw [rowOf, h1, h2]
  rfl

/-- The row of a byte that is written is among those that the write meets. -/
theorem mem_rowsAt {a n i : Nat} (hi : i < n) (h : 0x1000000 ≤ a) (h' : a + i < 0x2000000) :
    (2, (a + i) % 0x1000000 / 32) ∈ rowsAt a n := by
  refine List.mem_filterMap.mpr ⟨(a % 32 + i) / 32, List.mem_range.mpr (by omega), ?_⟩
  rw [rowOf_sram (by omega) (by omega)]
  exact congrArg (fun r => some (2, r)) (by omega)

/-- The rows of a record that has been laid into the ring. -/
theorem State.putRing_errs (s : State) (off : Nat) (bs : List Byte) :
    ErrsGo s (s.putRing off bs) ∧ (bs.length ≤ 0x100000 → ∀ i, i < bs.length →
      (s.putRing off bs).RowKnown (2, stagingOff / 32 + (off + i) % 0x100000 / 32)) := by
  unfold State.putRing
  extract_lets o n x
  obtain ⟨hgo, hknown⟩ := s.stagingStore_errs (sramBase + stagingOff + o) (bs.take n)
  obtain ⟨hgo', hknown'⟩ := x.stagingStore_errs (sramBase + stagingOff) (bs.drop n)
  have ho : o = off % 0x100000 := rfl
  have hn : n = 0x100000 - o := rfl
  have hfirst (i : Nat) (hi : i < n) (hlen : i < bs.length) :
      x.RowKnown (2, stagingOff / 32 + (off + i) % 0x100000 / 32) := by
    have hrow : (sramBase + stagingOff + o + i) % 0x1000000 / 32 = stagingOff / 32 + (off + i) % 0x100000 / 32 := by
      simp only [sramBase, stagingOff]
      omega
    rw [← hrow]
    refine hknown _ (mem_rowsAt (by rw [List.length_take]; omega) ?_ ?_) <;> simp only [sramBase, stagingOff] <;> omega
  split
  · exact ⟨hgo, fun _ i hi => hfirst i (by omega) hi⟩
  · refine ⟨hgo.trans hgo', fun hmax i hi => ?_⟩
    by_cases hin : i < n
    · exact hgo'.known (hfirst i hin hi)
    · have hrow : (sramBase + stagingOff + (i - n)) % 0x1000000 / 32 = stagingOff / 32 + (off + i) % 0x100000 / 32 := by
        simp only [sramBase, stagingOff]
        omega
      rw [← hrow]
      refine hknown' _ (mem_rowsAt (by rw [List.length_drop]; omega) ?_ ?_) <;> simp only [sramBase, stagingOff] <;> omega

end

end Sys2Proof.Machine

/-! ## Staging rows that cost records (R494) -/

namespace Sys2Proof.Machine

section
variable {s u v w : State} {fl : Flush} {x : Staged} {f : Fld} {t n : Nat}

/-! ### SEQ grows -/

/-- The recorder has worked on: SEQ only grows, and what is staged was staged before or has a SEQ from then on. -/
structure GoesOn (s u : State) : Prop extends Goes s u where
  next : s.rcd.next ≤ u.rcd.next
  staged : ∀ y ∈ u.rcd.staged, y ∈ s.rcd.staged ∨ s.rcd.next ≤ y.seq

theorem GoesOn.refl (s : State) : GoesOn s s := ⟨Goes.refl s, Nat.le_refl _, fun _ hy => .inl hy⟩

theorem GoesOn.trans (h : GoesOn s u) (h' : GoesOn u w) : GoesOn s w := by
  refine ⟨h.toGoes.trans h'.toGoes, Nat.le_trans h.next h'.next, fun y hy => ?_⟩
  rcases h'.staged y hy with hu | hge
  · exact h.staged y hu
  · exact .inr (Nat.le_trans h.next hge)

theorem GoesOn.of_goes (h : GoesOn s u) (hg : Goes u w) (hr : w.rcd = u.rcd) : GoesOn s w :=
  h.trans ⟨hg, by rw [hr], fun y hy => .inl (by rwa [hr] at hy)⟩

theorem GoesOn.accounts (h : GoesOn s u) (ha : Accounts u w) : GoesOn s w :=
  h.trans ⟨ha.toGoes, by rw [ha.rcd], fun y hy => .inl (by rwa [ha.rcd] at hy)⟩

theorem GoesOn.wr (h : GoesOn s u) (ha : f.area ∈ workAreas) (hp : f.area.code ≠ 5) (hl : REC_STAT_LOSSEV.key ≠ f.key)
    (v : Nat) : GoesOn s (u.wr f v) :=
  h.of_goes ((Goes.refl u).wr ha hp hl v) rfl

theorem GoesOn.raise (h : GoesOn s u) {n : Nat} (hn : n < 256) : GoesOn s (u.raise n) :=
  h.of_goes ((Goes.refl u).raise hn) (State.raise_rcd ..)

theorem GoesOn.setRcd (h : GoesOn s u) {r : Recorder} (hnext : r.next = u.rcd.next := by rfl)
    (hstaged : r.staged ⊆ u.rcd.staged := by exact fun _ h => h) : GoesOn s { u with rcd := r } :=
  h.trans ⟨(Goes.refl u).setRcd r, by rw [← hnext], fun _ hy => .inl (hstaged hy)⟩

theorem GoesOn.ite {c : Prop} [Decidable c] (hu : GoesOn s u) (hw : GoesOn s w) : GoesOn s (if c then u else w) := by
  split <;> assumption

/-! ### Records that enter staging -/

theorem State.startFlush_work (u : State) (b : Bool) : GoesOn u (u.startFlush b) ∧
    (u.startFlush b).rcd.next = u.rcd.next ∧ (u.startFlush b).rcd.staged = u.rcd.staged ∧ (u.startFlush b).ecc = u.ecc := by
  unfold State.startFlush
  split
  · exact ⟨(GoesOn.refl u).setRcd, rfl, rfl, rfl⟩
  · exact ⟨((GoesOn.refl u).setRcd).wr (f := REC_STAT_FLUSHING) (by decide) (by decide) (by decide) 1, rfl, rfl, rfl⟩

/-- What a record leaves that has entered staging, whatever its rows hold. -/
structure Entered (cls : Nat) (bs : List Byte) (heart : Bool) (s u : State) : Prop extends GoesOn s u where
  nextSeq : u.rcd.next = s.rcd.next + 1
  put : u.rcd.staged = s.rcd.staged ++ [⟨s.rcd.next, cls, s.rcd.head, bs, heart⟩]
  errs : u.ecc = (s.putRing s.rcd.head bs).ecc

theorem Entered.startFlush {cls : Nat} {bs : List Byte} {heart : Bool} (h : Entered cls bs heart s u) (b : Bool) :
    Entered cls bs heart s (u.startFlush b) := by
  obtain ⟨hgo, hnext, hstaged, hecc⟩ := u.startFlush_work b
  exact ⟨h.toGoesOn.trans hgo, hnext.trans h.nextSeq, hstaged.trans h.put, hecc.trans h.errs⟩

theorem State.stagePut_work (hph : s.pw.phase ≠ .flush) (cls : Nat) (bs : List Byte) (heart full : Bool) :
    Entered cls bs heart s (s.stagePut cls bs heart full) := by
  have hput := (Accounts.refl s).putRing hph s.rcd.head bs
  obtain ⟨v, hv⟩ : ∃ v, v = s.putRing s.rcd.head bs := ⟨_, rfl⟩
  obtain ⟨r, hr⟩ : ∃ r : Recorder, r = { v.rcd with
      next := s.rcd.next + 1, heartFull := full
      staged := v.rcd.staged ++ [(⟨s.rcd.next, cls, v.rcd.head, bs, heart⟩ : Staged)]
      head := (v.rcd.head + bs.length) % 0x100000 } := ⟨_, rfl⟩
  have hstage : s.stagePut cls bs heart full =
      State.wr { v with rcd := r } REC_STG_BYTES (State.fill { v with rcd := r } + bs.length) := by rw [hr, hv]; rfl
  rw [← hv] at hput
  have hrcd := hput.rcd
  have hnext : r.next = s.rcd.next + 1 := by rw [hr]
  have hstaged : r.staged = s.rcd.staged ++ [⟨s.rcd.next, cls, s.rcd.head, bs, heart⟩] := by rw [hr, hrcd]
  rw [hstage]
  refine ⟨⟨(hput.toGoes.setRcd r).wr (by decide) (by decide) (by decide) _, ?_, fun y hy => ?_⟩, hnext, hstaged,
    show v.ecc = _ by rw [hv]⟩
  · show s.rcd.next ≤ r.next
    omega
  · have hy : y ∈ r.staged := hy
    rw [hstaged] at hy
    rcases List.mem_append.mp hy with hold | hnew
    · exact .inl hold
    · exact .inr (by rw [List.mem_singleton.mp hnew])

theorem State.stage_work (hph : s.pw.phase ≠ .flush) (cls : Nat) (flushes : Bool) (bytes : Nat → Bool → List Byte) :
    ∃ heart, Entered cls (bytes s.rcd.next heart) heart s (s.stage cls flushes bytes) := by
  refine ⟨s.heartTakes (bytes s.rcd.next true).length, ?_⟩
  rw [State.stage_eq]
  dsimp only
  have hput := State.stagePut_work hph cls (bytes s.rcd.next (s.heartTakes (bytes s.rcd.next true).length))
    (s.heartTakes (bytes s.rcd.next true).length)
    (s.rcd.heartFull || (s.heartLive && !s.heartTakes (bytes s.rcd.next true).length))
  generalize s.stagePut cls _ _ _ = v at hput
  have hfull : Entered cls (bytes s.rcd.next (s.heartTakes (bytes s.rcd.next true).length))
      (s.heartTakes (bytes s.rcd.next true).length) s (if 0x80000 ≤ v.fill then v.startFlush false else v) := by
    split
    · exact hput.startFlush false
    · exact hput
  split
  · exact hfull.startFlush true
  · exact hfull

/-- The body of a record of the recorder's own, padded to a multiple of eight bytes, and the record. -/
def sysBody (payload : List Byte) : List Byte := payload ++ List.replicate ((8 - payload.length % 8) % 8) 0

def sysBytes (s : State) (kind cls : Nat) (payload : List Byte) (seq : Nat) (heart : Bool) : List Byte :=
  recHeader (24 + (sysBody payload).length) cls 0 (recFlags true heart s.tsync) kind seq s.now ++ sysBody payload

theorem sysBytes_length (s : State) (kind cls : Nat) (payload : List Byte) (seq : Nat) (heart : Bool) :
    (sysBytes s kind cls payload seq heart).length = 24 + (sysBody payload).length := by
  simp [sysBytes, recHeader]
  omega

theorem State.sysRecord_eq (hph : s.pw.phase ≠ .flush) (kind cls : Nat) (flushes : Bool) (payload : List Byte) :
    s.sysRecord kind cls flushes payload =
      if s.stagingRoom cls (24 + (sysBody payload).length) then s.stage cls flushes (sysBytes s kind cls payload)
      else s.dropRecord cls 0 s.now :=
  if_neg hph

theorem GoesOn.sysRecord (h : GoesOn s u) (hph : s.pw.phase ≠ .flush) (kind cls : Nat) (flushes : Bool)
    (payload : List Byte) : GoesOn s (u.sysRecord kind cls flushes payload) := by
  have hph : u.pw.phase ≠ .flush := by rw [h.pw]; exact hph
  rw [State.sysRecord_eq hph]
  split
  · obtain ⟨heart, hin⟩ := State.stage_work hph cls flushes (sysBytes u kind cls payload)
    exact h.trans hin.toGoesOn
  · exact h.accounts ((Accounts.refl u).dropRecord ..)

/-! ### Records that land, flushes that end -/

theorem GoesOn.leaveOverload (h : GoesOn s u) (hph : s.pw.phase ≠ .flush) : GoesOn s u.leaveOverload := by
  unfold State.leaveOverload
  split
  · exact h
  · refine GoesOn.ite ?_ h
    have hgap := h.sysRecord hph 0x04 8 true
    exact ((((hgap _).setRcd.wr (f := REC_STAT_OVERLOAD) (by decide) (by decide) (by decide) 0).wr
      (f := REC_STAT_GAPEV) (by decide) (by decide) (by decide) 1).raise (by decide))

theorem GoesOn.closeHeart (h : GoesOn s u) (hph : s.pw.phase ≠ .flush) : GoesOn s u.closeHeart :=
  ((((h.setRcd).wr (f := REC_HW_CNT_CLOSED) (by decide) (by decide)
    (by decide) 1).sysRecord hph ..).raise (n := 211) (by decide))

theorem GoesOn.land (h : GoesOn s u) (hph : s.pw.phase ≠ .flush) (recs : List (Staged × Nat)) : GoesOn s (u.land recs) := by
  obtain ⟨v, hv⟩ : ∃ v : State, v = (recs.filter (·.1.heart)).foldl (fun s r => s.heartAdd r.1.seq r.1.bytes)
    { u with rcd := { u.rcd with
      rings := u.rcd.rings ++ recs.map fun (r : Staged × Nat) => (⟨r.1.seq, r.2, r.1.bytes⟩ : NandRec) } } := ⟨_, rfl⟩
  have hland : u.land recs = match v.rcd.heart with
      | [] => v
      | r :: _ =>
        let w := (v.wr64 REC_HW_FIRST_LO REC_HW_FIRST_HI r.seq).wr REC_HW_CNT_CNT v.rcd.heart.length
        if w.rcd.heartClosed || ((!w.pw.start.applied || decide (w.rcd.heart.length < w.hwn)) &&
          !(w.rcd.heartFull && !(w.rcd.staged.any (·.heart)))) then w else w.closeHeart := by
    rw [hv]
    rfl
  have hgo : GoesOn s v := by
    rw [hv]
    exact List.foldlRecOn (motive := fun v : State => GoesOn s v) _ _ h.setRcd fun v hv r _ => hv.setRcd
  rw [hland]
  split
  · exact hgo
  · have hshow (n m : Nat) : GoesOn s ((v.wr64 REC_HW_FIRST_LO REC_HW_FIRST_HI n).wr REC_HW_CNT_CNT m) :=
      ((hgo.wr (f := REC_HW_FIRST_LO) (by decide) (by decide) (by decide) _).wr (f := REC_HW_FIRST_HI) (by decide) (by decide)
        (by decide) _).wr (f := REC_HW_CNT_CNT) (by decide) (by decide) (by decide) _
    exact GoesOn.ite (hshow _ _) ((hshow _ _).closeHeart hph)

theorem GoesOn.endFlush (h : GoesOn s u) (began : Nat) : GoesOn s (u.endFlush began) := by
  have hr : GoesOn s { u with rcd := { u.rcd with flush := none, lastFlushEnd := u.now } } := h.setRcd
  exact ((((hr.wr (f := REC_STAT_FLUSHING) (by decide) (by decide) (by decide) 0).wr (f := REC_STAT_FLUSHEV) (by decide)
    (by decide) (by decide) 1).wr (f := REC_FLUSH_LAST) (by decide) (by decide) (by decide) _).wr (f := REC_FLUSH_MAX)
    (by decide) (by decide) (by decide) _).raise (by decide)

theorem GoesOn.pageDone (h : GoesOn s u) (fl : Flush) : GoesOn s (u.pageDone fl) := by
  unfold State.pageDone
  exact GoesOn.ite (GoesOn.endFlush (h.setRcd) _) (h.setRcd)

theorem GoesOn.eraseFor (h : GoesOn s u) (page : Nat) : GoesOn s (u.eraseFor page) := by
  unfold State.eraseFor
  exact GoesOn.ite (h.setRcd) h

/-- A page takes records that are staged, and leaves records that are. -/
theorem takePage_subset (page : Nat) : ∀ (room cut cutPage : Nat) (l : List Staged),
    (∀ z ∈ (takePage page room cut cutPage l).1, z.1 ∈ l) ∧ (takePage page room cut cutPage l).2.1 ⊆ l
  | _, _, _, [] => ⟨fun _ hz => absurd hz List.not_mem_nil, fun _ hz => hz⟩
  | room, cut, cutPage, r :: l => by
    rw [takePage]
    obtain ⟨htaken, hleft⟩ := takePage_subset page (room - (r.bytes.length - cut)) 0 page l
    split
    · refine ⟨fun z hz => ?_, fun z hz => List.mem_cons_of_mem _ (hleft hz)⟩
      rcases List.mem_cons.mp hz with rfl | hz
      · exact List.mem_cons_self
      · exact List.mem_cons_of_mem _ (htaken z hz)
    · exact ⟨fun _ hz => absurd hz List.not_mem_nil, fun _ hz => hz⟩

theorem GoesOn.programPage (h : GoesOn s u) (hph : s.pw.phase ≠ .flush) : GoesOn s u.programPage := by
  cases hflush : u.rcd.flush with
  | none =>
    rw [State.programPage, hflush]
    exact h
  | some fl =>
    have hform : u.programPage =
        let x := u.eraseFor u.rcd.pages
        let n := min (if fl.size = 0 then 4096 else fl.size) x.fill
        let q := takePage u.rcd.pages n x.rcd.cut x.rcd.cutPage x.rcd.staged
        let v : State := { x with rcd := { x.rcd with staged := q.2.1, cut := q.2.2.1, cutPage := q.2.2.2 } }
        let v := if n = 0 then v else v.ringsPage n (firstOf u.rcd.pages q.1 q.2.1 q.2.2.1 q.2.2.2)
        (((v.wr REC_STG_BYTES (v.fill - n)).land q.1).leaveOverload).pageDone fl := by
      rw [State.programPage, hflush]
      rfl
    rw [hform]
    have hx := h.eraseFor u.rcd.pages
    generalize u.eraseFor u.rcd.pages = x at hx
    dsimp only
    generalize min (if fl.size = 0 then 4096 else fl.size) x.fill = n
    obtain ⟨-, hsub⟩ := takePage_subset u.rcd.pages n x.rcd.cut x.rcd.cutPage x.rcd.staged
    generalize takePage u.rcd.pages n x.rcd.cut x.rcd.cutPage x.rcd.staged = q at hsub ⊢
    have hv : GoesOn s { x with rcd := { x.rcd with staged := q.2.1, cut := q.2.2.1, cutPage := q.2.2.2 } } :=
      hx.setRcd rfl hsub
    generalize ({ x with rcd := { x.rcd with staged := q.2.1, cut := q.2.2.1, cutPage := q.2.2.2 } } : State) = v at hv ⊢
    have hpage : GoesOn s (if n = 0 then v else v.ringsPage n (firstOf u.rcd.pages q.1 q.2.1 q.2.2.1 q.2.2.2)) :=
      GoesOn.ite hv hv.setRcd
    exact (((hpage.wr (f := REC_STG_BYTES) (by decide) (by decide) (by decide) _).land hph _).leaveOverload hph).pageDone fl

/-! ### What a flush reads -/

/-- The rows of the records that are staged are sound or uncorrectable: a flush that reads them corrects nothing. -/
def State.RowsKnown (s : State) : Prop :=
  ∀ y ∈ s.rcd.staged, ∀ r, inRow r y = true → s.RowKnown (2, stagingOff / 32 + r)

theorem State.RowsKnown.mono (h : s.RowsKnown) (he : ErrsGo s u) (hs : u.rcd.staged ⊆ s.rcd.staged) : u.RowsKnown :=
  fun y hy r hr => he.known (h y (hs hy) r hr)

theorem ErrsGo.same (s : State) (memid row : Nat) : ErrsGo s (s.setErr memid row (s.rowErr memid row)) := fun m k => by
  refine .inl ?_
  by_cases hkey : rowKey m k = rowKey memid row
  · exact (congrArg (tblGet 0 · _) hkey).trans ((State.rowErr_setErr_same s memid row _).trans
      (congrArg (tblGet 0 · _) hkey).symm)
  · show tblGet 0 (rowKey m k) (tblSet 0 (rowKey memid row) _ s.ecc.err) = tblGet 0 (rowKey m k) s.ecc.err
    exact tblGet_set_ne hkey 0 0 _ _

theorem Accounts.uncorrectable (h : Accounts s u) (hph : s.pw.phase ≠ .flush) (memid row : Nat) (r : EccResult)
    (master cause : Nat) : Accounts s (u.uncorrectable memid row r master cause) := by
  unfold State.uncorrectable
  extract_lets v1 v2 v3 v4 v5
  have h3 : Accounts s v3 := ((((((h.wrEcc (f := ECC_UE_CNT_UE) rfl _).wrEcc (f := ECC_STAT_UEEV) rfl 1).wrEcc
    (f := ECC_UE_LOC_ROW) rfl row).wrEcc (f := ECC_UE_LOC_MEMID) rfl memid).wrEcc (f := ECC_UE_INFO_RESULT) rfl r.code).wrEcc
    (f := ECC_UE_INFO_MASTER) rfl master).wrEcc (f := ECC_UE_INFO_CAUSE) rfl cause
  clear_value v3
  have h4 : Accounts s v4 := ((h3.wrEcc (f := ECC_UE_TIME_LO) rfl _).wrEcc (f := ECC_UE_TIME_HI) rfl _).raise (by decide)
  clear_value v4
  have h5 : Accounts s v5 := Accounts.ite (((h4.wrEcc (f := ECC_UE_CNT_AF) rfl _).wrEcc (f := ECC_STAT_AFEV) rfl 1).raise
    (by decide)) h4
  exact h5.record hph ..

/-- A read of an uncorrectable row stops its reader, and no error pattern differs. -/
theorem State.seeRows_uncorrectable (hph : s.pw.phase ≠ .flush) {row : Nat} (hbad : s.rowBad 2 row = true) :
    ∃ v, s.seeRows 0x20 3 [(2, row)] = (true, v) ∧ Accounts s v ∧ ErrsGo s v ∧
      v.rd REC_STG_BYTES = s.rd REC_STG_BYTES := by
  have hset : Accounts s (s.setErr 2 row (s.rowErr 2 row)) := (Accounts.refl s).setErr ..
  cases htest : s.isTestRow 2 row with
  | false =>
    obtain ⟨r, -, hsee⟩ := State.seeRows_of_bad (by decide) htest hbad 0x20 3
    have hk : Kept [.pend, .ecc, .ingress] [.pw, .rcd] (s.setErr 2 row (s.rowErr 2 row))
        ((s.setErr 2 row (s.rowErr 2 row)).uncorrectable 2 row r 0x20 3) :=
      State.uncorrectable_kept (Kept.refl _ _ _) (by decide) (by decide)
    exact ⟨_, hsee, hset.uncorrectable hph 2 row r 0x20 3, (ErrsGo.same s 2 row).trans (.of_ecc (hk.framed.parts .ecc (by decide))),
      hk.framed.regs _ (by decide)⟩
  | true =>
    obtain ⟨hne, hr⟩ : s.rowErr 2 row ≠ 0 ∧ (eccResult (rsDecode (patSyms (s.rowErr 2 row)))).bad = true := by
      rw [State.rowBad] at hbad
      simpa using hbad
    generalize hres : eccResult (rsDecode (patSyms (s.rowErr 2 row))) = r at hr
    have hread : s.readRow 2 row 0 (s.clears 2 row) false 0x20 3 false =
        (r, (s.setErr 2 row (s.rowErr 2 row)).tstReport r []) := by
      unfold State.readRow
      dsimp only
      rw [Nat.xor_zero, hres, htest, if_pos rfl, if_pos hr]
    have hsee : s.seeRows 0x20 3 [(2, row)] = (true, (s.setErr 2 row (s.rowErr 2 row)).tstReport r []) := by
      rw [State.seeRows, if_neg hne, hread]
      dsimp only
      rw [if_pos hr]
    have hk : Kept [.ecc] [] (s.setErr 2 row (s.rowErr 2 row)) ((s.setErr 2 row (s.rowErr 2 row)).tstReport r []) :=
      State.tstReport_kept (Kept.refl _ _ _) (by decide)
    refine ⟨_, hsee, ?_, (ErrsGo.same s 2 row).trans (.of_ecc (hk.framed.parts .ecc (by decide))), hk.framed.regs _ (by decide)⟩
    unfold State.tstReport
    exact (((hset.wrEcc (f := ECC_TST_RES_RESULT) rfl _).wrEcc (f := ECC_TST_RES_NSYM) rfl _).wrEcc (f := ECC_TST_SYM_LO) rfl
      _).wrEcc (f := ECC_TST_SYM_HI_POS) rfl _

/-- A read of a row of which that is known: it is delivered, or its reader stops. -/
theorem State.seeRows_known (hph : s.pw.phase ≠ .flush) {row : Nat} (h : s.RowKnown (2, row)) :
    s.seeRows 0x20 3 [(2, row)] = (false, s) ∨ ∃ v, s.seeRows 0x20 3 [(2, row)] = (true, v) ∧ Accounts s v ∧ ErrsGo s v ∧
      v.rd REC_STG_BYTES = s.rd REC_STG_BYTES := by
  rcases h with hz | hbad
  · exact .inl (State.seeRows_of_sound (List.forall_mem_singleton.mpr hz) 0x20 3)
  · exact .inr (State.seeRows_uncorrectable hph hbad)

end

end Sys2Proof.Machine

/-! ## Records that are lost (R494) -/

namespace Sys2Proof.Machine

section
variable {s u v w : State} {fl : Flush} {x : Staged} {row t n : Nat}

/-! ### The STGLOSS record -/

/-- A record of the recorder's own lies in rows that are known. -/
theorem State.sysRecord_known (hph : s.pw.phase ≠ .flush) (hk : s.RowsKnown) (kind cls : Nat) (flushes : Bool)
    {payload : List Byte} (hlen : payload.length ≤ 1024) : (s.sysRecord kind cls flushes payload).RowsKnown := by
  have hbody : (sysBody payload).length ≤ 1032 := by
    rw [sysBody, List.length_append, List.length_replicate]
    omega
  rw [State.sysRecord_eq hph]
  split
  · obtain ⟨heart, hin⟩ := State.stage_work hph cls flushes (sysBytes s kind cls payload)
    have hbytes := sysBytes_length s kind cls payload s.rcd.next heart
    generalize sysBytes s kind cls payload s.rcd.next heart = bs at hin hbytes
    obtain ⟨herrs, hrows⟩ := s.putRing_errs s.rcd.head bs
    have hgo : ErrsGo (s.putRing s.rcd.head bs) (s.stage cls flushes (sysBytes s kind cls payload)) := .of_ecc hin.errs
    intro y hy r hr
    rw [hin.put] at hy
    rcases List.mem_append.mp hy with hold | hnew
    · exact (herrs.trans hgo).known (hk y hold r hr)
    · rw [List.mem_singleton.mp hnew, inRow, List.any_eq_true] at hr
      obtain ⟨i, hi, hrow⟩ := hr
      rw [← beq_iff_eq.mp hrow]
      exact hgo.known (hrows (by omega) i (List.mem_range.mp hi))
  · have hdrop : Kept [.pend, .ingress] [.rcd] s (s.dropRecord cls 0 s.now) :=
      State.dropRecord_kept (Kept.refl _ _ s) (by decide) (by decide)
    exact hk.mono (.of_ecc (hdrop.framed.parts .ecc (by decide))) (by
      rw [((Accounts.refl s).dropRecord cls 0 s.now).rcd]
      exact fun _ h => h)

/-- LOSSEV is set. -/
theorem GoesOn.wrLoss (h : GoesOn s u) : GoesOn s (u.wr REC_STAT_LOSSEV 1) := by
  refine h.of_goes ⟨⟨fun g hg => State.rd_wr_area u (fun e : g.area = REC_STAT_LOSSEV.area => hg (by rw [e]; decide)) 1,
    fun p _ => by cases p <;> rfl⟩, rfl, fun n k _ _ hn => ?_, fun _ => State.rd_wr_same ..⟩ rfl
  have hpend : (u.wr REC_STAT_LOSSEV 1).rd (STD_Sk_PENDj k (n / 32)) = u.rd (STD_Sk_PENDj k (n / 32)) :=
    State.rd_wr_area u (f := REC_STAT_LOSSEV) (fun e => nomatch (show Area.pend = Area.ingress from e)) 1
  rw [State.pends, State.bit, hpend, ← State.bit, ← State.pends]
  exact hn

/-- The records that a row costs leave staging. -/
def State.rowGone (s : State) (row : Nat) : State :=
  let cutLost := match s.rcd.staged with | [] => false | r :: _ => inRow row r
  { s with rcd := { s.rcd with
    staged := s.rcd.staged.filter (fun r => !inRow row r)
    cut := if cutLost then 0 else s.rcd.cut } }

/-- The bytes that go with them. -/
def State.bytesGone (s : State) (row : Nat) : Nat :=
  let cutLost := match s.rcd.staged with | [] => false | r :: _ => inRow row r
  ((s.rcd.staged.filter (inRow row)).map (·.bytes.length)).sum - (if cutLost then s.rcd.cut else 0)

theorem State.loseRow_of_nil (h : s.rcd.staged.filter (inRow row) = []) : s.loseRow row = s := by
  rw [State.loseRow, h]

theorem State.loseRow_eq (hph : s.pw.phase ≠ .flush) {y : Staged} {l : List Staged}
    (h : s.rcd.staged.filter (inRow row) = y :: l) : ∃ payload : List Byte, payload.length = 24 ∧
      s.loseRow row = ((((s.rowGone row).wr REC_STG_BYTES ((s.rowGone row).fill - s.bytesGone row)).wr REC_STAT_LOSSEV
        1).sysRecord 0x05 1 true payload).raise 215 := by
  refine ⟨leBytes 8 y.seq ++ leBytes 8 (((y :: l).getLast?.getD y).seq) ++ leBytes 4 (y :: l).length ++ leBytes 4 0,
    by simp only [List.length_append, leBytes_length], ?_⟩
  unfold State.loseRow State.bytesGone
  rw [h]
  exact if_neg hph

/-- What an uncorrectable staging row leaves. -/
theorem State.loseRow_work (hph : s.pw.phase ≠ .flush) (hk : s.RowsKnown) (row : Nat) :
    GoesOn s (s.loseRow row) ∧ (s.loseRow row).RowsKnown := by
  cases h : s.rcd.staged.filter (inRow row) with
  | nil =>
    rw [State.loseRow_of_nil h]
    exact ⟨GoesOn.refl s, hk⟩
  | cons y l =>
    obtain ⟨payload, hlen, hlose⟩ := State.loseRow_eq hph h
    have hgone : GoesOn s (s.rowGone row) := (GoesOn.refl s).setRcd rfl fun y hy => (List.mem_filter.mp hy).1
    have hbytes := (hgone.wr (f := REC_STG_BYTES) (by decide) (by decide) (by decide)
      ((s.rowGone row).fill - s.bytesGone row)).wrLoss
    have hknown : (((s.rowGone row).wr REC_STG_BYTES ((s.rowGone row).fill - s.bytesGone row)).wr REC_STAT_LOSSEV 1).RowsKnown :=
      hk.mono (.of_ecc rfl) fun y hy => (List.mem_filter.mp hy).1
    rw [hlose]
    generalize ((s.rowGone row).wr REC_STG_BYTES ((s.rowGone row).fill - s.bytesGone row)).wr REC_STAT_LOSSEV 1 = v at hbytes hknown
    have hv : v.pw.phase ≠ .flush := by rw [hbytes.pw]; exact hph
    refine ⟨(hbytes.sysRecord hph 0x05 1 true payload).raise (by decide), ?_⟩
    have hrec := State.sysRecord_known hv hknown 0x05 1 true (payload := payload) (by omega)
    generalize v.sysRecord 0x05 1 true payload = w at hrec
    have hraise : Kept [.pend] [] w (w.raise 215) := State.raise_kept (Kept.refl _ _ w) (by decide)
    exact hrec.mono (.of_ecc (hraise.framed.parts .ecc List.not_mem_nil)) (by rw [State.raise_rcd]; exact fun _ h => h)

/-! ### The reads of a flush -/

theorem State.pageRecords_subset (s : State) : s.pageRecords ⊆ s.rcd.staged := by
  unfold State.pageRecords
  extract_lets n q
  obtain ⟨htaken, hleft⟩ := takePage_subset s.rcd.pages (min n s.fill) s.rcd.cut s.rcd.cutPage s.rcd.staged
  intro y hy
  rcases List.mem_append.mp hy with h | h
  · obtain ⟨z, hz, rfl⟩ := List.mem_map.mp h
    exact htaken z hz
  · exact hleft (List.mem_of_mem_take h)

theorem State.flushReads_work (hph : s.pw.phase ≠ .flush) (hk : s.RowsKnown) (r : Nat) :
    GoesOn s (s.flushReads r) ∧ (s.flushReads r).RowsKnown := by
  unfold State.flushReads
  split
  · next hany =>
    obtain ⟨y, hy, hr⟩ := List.any_eq_true.mp hany
    rcases State.seeRows_known hph (hk y (s.pageRecords_subset hy) r hr) with hsee | ⟨v, hsee, hacc, herrs, -⟩
    · rw [hsee]
      exact ⟨GoesOn.refl s, hk⟩
    · have hv : v.pw.phase ≠ .flush := by rw [hacc.pw]; exact hph
      have hvk : v.RowsKnown := hk.mono herrs (by rw [hacc.rcd]; exact fun _ h => h)
      obtain ⟨hgo, hknown⟩ := State.loseRow_work hv hvk r
      rw [hsee]
      exact ⟨((GoesOn.refl s).accounts hacc).trans hgo, hknown⟩
  · exact ⟨GoesOn.refl s, hk⟩

theorem State.loseBad_zero_work (hph : s.pw.phase ≠ .flush) (hk : s.RowsKnown) : GoesOn s (s.loseBad 0) := by
  have hfold : GoesOn s (s.stagingErr.foldl State.flushReads s) ∧ (s.stagingErr.foldl State.flushReads s).RowsKnown :=
    List.foldlRecOn (motive := fun v : State => GoesOn s v ∧ v.RowsKnown) _ _ ⟨GoesOn.refl s, hk⟩ fun v hv r _ => by
      obtain ⟨hgo, hknown⟩ := State.flushReads_work (s := v) (by rw [hv.1.pw]; exact hph) hv.2 r
      exact ⟨hv.1.trans hgo, hknown⟩
  rw [State.loseBad]
  exact hfold.1

theorem State.loseBad_work (hph : s.pw.phase ≠ .flush) (hk : s.RowsKnown) (n : Nat) : GoesOn s (s.loseBad n) := by
  induction n generalizing s with
  | zero => exact State.loseBad_zero_work hph hk
  | succ n ih =>
    rw [State.loseBad]
    split
    · next r _ =>
      obtain ⟨hgo, hknown⟩ := State.flushReads_work hph hk r
      have hph' : (s.flushReads r).pw.phase ≠ .flush := by rw [hgo.pw]; exact hph
      exact hgo.trans (ih hph' hknown)
    · exact State.loseBad_zero_work hph hk

/-! ### The only record that is staged goes -/

/-- The one record that is staged has been lost to a row: LOSSEV and source 215 report it, and what is staged now has
later SEQs. -/
structure LostAll (s u : State) : Prop extends Goes s u where
  lossev : u.rd REC_STAT_LOSSEV = 1
  next : s.rcd.next < u.rcd.next
  later : ∀ y ∈ u.rcd.staged, s.rcd.next ≤ y.seq
  raised : ∀ i, i < 4 → s.rd (STD_EVTi_ROUTE_PRIO 215) ≠ 0 → s.bit (STD_EVTi_ROUTE_STANDS 215) i = true →
    u.pends 215 i = true
  known : u.RowsKnown

theorem State.loseRow_all (hph : s.pw.phase ≠ .flush) (hstaged : s.rcd.staged = [x]) (hcut : s.rcd.cut = 0)
    (hlen : x.bytes.length = s.rd REC_STG_BYTES) (hrow : inRow row x = true) : LostAll s (s.loseRow row) := by
  obtain ⟨payload, hpay, hlose⟩ := State.loseRow_eq hph (show s.rcd.staged.filter (inRow row) = x :: [] by
    rw [hstaged, List.filter_cons_of_pos hrow, List.filter_nil])
  have hgone : GoesOn s (s.rowGone row) := (GoesOn.refl s).setRcd rfl fun y hy => (List.mem_filter.mp hy).1
  have hnone : (s.rowGone row).rcd.staged = [] := by
    show s.rcd.staged.filter (fun r => !inRow row r) = []
    rw [hstaged]
    simp [hrow]
  have hzero : (s.rowGone row).fill - s.bytesGone row = 0 := by
    have hbytes : s.bytesGone row = x.bytes.length := by
      unfold State.bytesGone
      rw [hstaged, List.filter_cons_of_pos hrow, hcut]
      simp
    rw [hbytes, hlen]
    exact Nat.sub_self _
  rw [hzero] at hlose
  obtain ⟨v, hv⟩ : ∃ v, v = ((s.rowGone row).wr REC_STG_BYTES 0).wr REC_STAT_LOSSEV 1 := ⟨_, rfl⟩
  have hgo : GoesOn s v := by
    rw [hv]
    exact (hgone.wr (f := REC_STG_BYTES) (by decide) (by decide) (by decide) 0).wrLoss
  have hloss : v.rd REC_STAT_LOSSEV = 1 := by rw [hv]; exact State.rd_wr_same ..
  have hfill : v.rd REC_STG_BYTES = 0 := by
    rw [hv, State.rd_wr_ne _ (by decide)]
    exact State.rd_wr_same ..
  have hvnone : v.rcd.staged = [] := by rw [hv]; exact hnone
  have hvnext : v.rcd.next = s.rcd.next := by rw [hv]; rfl
  rw [← hv] at hlose
  clear hv
  have hvph : v.pw.phase ≠ .flush := by rw [hgo.pw]; exact hph
  have hroom : v.stagingRoom 1 (24 + (sysBody payload).length) = true := by
    have hbody : (sysBody payload).length = 24 := by
      rw [sysBody, List.length_append, List.length_replicate, hpay]
    rw [State.stagingRoom, State.fill, hfill, hbody]
    rfl
  have hk : v.RowsKnown := fun y hy => absurd (hvnone ▸ hy) List.not_mem_nil
  have hrk := State.sysRecord_known hvph hk 0x05 1 true (payload := payload) (by omega)
  rw [State.sysRecord_eq hvph, if_pos hroom] at hlose hrk
  obtain ⟨heart, hin⟩ := State.stage_work hvph 1 true (sysBytes v 0x05 1 payload)
  generalize v.stage 1 true (sysBytes v 0x05 1 payload) = w at hlose hrk hin
  have hall : GoesOn s w := hgo.trans hin.toGoesOn
  have hraise : Kept [.pend] [] w (w.raise 215) := State.raise_kept (Kept.refl _ _ w) (by decide)
  have hrcd : (w.raise 215).rcd = w.rcd := State.raise_rcd ..
  rw [hlose]
  refine ⟨(hall.raise (by decide)).toGoes, (State.rd_raise_code (by decide)).trans (hin.loss hloss), ?_, fun y hy => ?_,
    fun i hi hprio hstand => ?_, hrk.mono (.of_ecc (hraise.framed.parts .ecc List.not_mem_nil)) (by
      rw [hrcd]; exact fun _ h => h)⟩
  · rw [hrcd, hin.nextSeq, hvnext]
    exact Nat.lt_succ_self _
  · rw [hrcd, hin.put, hvnone, List.nil_append] at hy
    rw [List.mem_singleton.mp hy]
    exact Nat.le_of_eq hvnext.symm
  · have hroute (f : Fld) (hf : f.area ∉ workAreas) : w.rd f = s.rd f := hall.framed.regs f hf
    have hp : w.rd (STD_EVTi_ROUTE_PRIO 215) ≠ 0 := by rw [hroute _ (by decide)]; exact hprio
    have hb : w.bit (STD_EVTi_ROUTE_STANDS 215) i = true := by rw [State.bit, hroute _ (by decide)]; exact hstand
    rw [((Raises.refl w).raise (m := 215) (by decide)).raised 215 i (by decide) hi]
    simp [hp, hb]

theorem LostAll.of_accounts (h : LostAll u w) (ha : Accounts s u) : LostAll s w := by
  have hroute (f : Fld) (hf : f.area ∉ workAreas) : u.rd f = s.rd f := ha.framed.regs f hf
  have hnext : u.rcd.next = s.rcd.next := by rw [ha.rcd]
  refine ⟨ha.toGoes.trans h.toGoes, h.lossev, hnext ▸ h.next, fun y hy => hnext ▸ h.later y hy, fun i hi hprio hstand => ?_,
    h.known⟩
  refine h.raised i hi ?_ ?_
  · rw [hroute _ (by decide)]
    exact hprio
  · rw [State.bit, hroute _ (by decide)]
    exact hstand

/-- What stays of a loss while the flush goes on. -/
theorem LostAll.after (h : LostAll s u) (hu : GoesOn u w) (hx : x.seq < s.rcd.next) :
    s.rcd.next < w.rcd.next ∧ x ∉ w.rcd.staged ∧ w.rd REC_STAT_LOSSEV = 1 ∧
      (∀ i, i < 4 → s.rd (STD_EVTi_ROUTE_PRIO 215) ≠ 0 → s.bit (STD_EVTi_ROUTE_STANDS 215) i = true →
        w.pends 215 i = true) ∧ Framed workAreas workParts s w := by
  have hlt := h.next
  have hle := hu.next
  refine ⟨by omega, fun hmem => ?_, hu.loss h.lossev, fun i hi hp hb => hu.pends 215 i (by decide) hi (h.raised i hi hp hb),
    (h.toGoes.trans hu.toGoes).framed⟩
  rcases hu.staged x hmem with hold | hlate
  · have := h.later x hold
    omega
  · omega

theorem Goes.begin (s : State) (t : Nat) : Goes s (s.begin t) :=
  (Goes.refl s).of_regs_eq rfl rfl fun p hp => by cases p <;> first | rfl | exact absurd (by decide) hp

/-- The claim that a record is lost. -/
def Lost (x : Staged) (s u : State) : Prop :=
  s.rcd.next < u.rcd.next ∧ x ∉ u.rcd.staged ∧ u.rd REC_STAT_LOSSEV = 1 ∧
    (∀ i, i < 4 → s.rd (STD_EVTi_ROUTE_PRIO 215) ≠ 0 → s.bit (STD_EVTi_ROUTE_STANDS 215) i = true → u.pends 215 i = true) ∧
    Framed [.pend, .ecc, .recd, .ingress] [.now, .mem, .resp, .out, .pw, .rcd, .ecc, .cvu] s u

/-- A claim about the state that the step begins with is one about the state before. -/
theorem Lost.of_begin (h : Lost x (s.begin t) u) : Lost x s u := by
  obtain ⟨hnext, hx, hloss, hpend, hframed⟩ := h
  have hb := (Goes.begin s t).framed
  exact ⟨hnext, hx, hloss, hpend, ⟨fun f hf => (hframed.regs f hf).trans (hb.regs f hf),
    fun p hp => (hb.parts p hp).trans (hframed.parts p hp)⟩⟩

/-- The command names the row. -/
theorem pageProgrammed_named (h : Flushing fl x s) (hrow : inRow row x = true) (hph : s.pw.phase ≠ .flush)
    (hx : x.seq < s.rcd.next) (t : Nat) : Does (.pageProgrammed (some row) t) s (Lost x s) := by
  have hb := h.begin t
  have hlost := State.loseRow_all (s := s.begin t) hph hb.staged hb.cut hb.length hrow
  have hexec := exec_pageProgrammed h (some row) t
  dsimp only at hexec
  generalize (s.begin t).loseRow row = v at hlost hexec
  have hv : v.pw.phase ≠ .flush := by rw [hlost.pw]; exact hph
  have hbad := State.loseBad_work hv hlost.known v.ecc.err.length
  generalize v.loseBad v.ecc.err.length = w at hbad hexec
  have hpage := (GoesOn.refl w).programPage (by rw [hbad.pw]; exact hv)
  exact ⟨_, hexec, (show Lost x (s.begin t) _ from hlost.after (hbad.trans hpage) hx).of_begin⟩

/-- The flush finds the row. -/
theorem pageProgrammed_found (h : Flushing fl x s) (hrow : inRow row x = true) (hph : s.pw.phase ≠ .flush)
    (hx : x.seq < s.rcd.next) (herr : row ∈ s.stagingErr) (hbad : s.rowBad 2 (stagingOff / 32 + row) = true) (t : Nat) :
    Does (.pageProgrammed none t) s (Lost x s) := by
  have hb := h.begin t
  have hrecords : (s.begin t).pageRecords = [x] := by
    have hsize := hb.size_pos
    unfold State.pageRecords
    rw [hb.flush, hb.staged, hb.cut]
    dsimp only
    rw [if_neg (by omega)]
    by_cases hall : x.bytes.length ≤ 0 + min fl.size (s.begin t).fill
    · rw [takePage, if_pos hall]
      rfl
    · rw [takePage, if_neg hall]
      rfl
  have hfind : ∃ r, (s.begin t).stagingErr.find? (fun r => (s.begin t).rowBad 2 (stagingOff / 32 + r) &&
      (s.begin t).pageRecords.any (inRow r)) = some r := by
    rw [← Option.isSome_iff_exists, List.find?_isSome]
    refine ⟨row, herr, ?_⟩
    rw [hrecords]
    have hbad' : (s.begin t).rowBad 2 (stagingOff / 32 + row) = true := hbad
    simp [hrow, hbad']
  obtain ⟨r, hfind⟩ := hfind
  obtain ⟨hrbad, hrx⟩ : (s.begin t).rowBad 2 (stagingOff / 32 + r) = true ∧ inRow r x = true := by
    have := List.find?_some hfind
    rw [hrecords] at this
    simpa using this
  have hlen : ∃ n, (s.begin t).ecc.err.length = n + 1 := by
    refine Nat.exists_eq_add_one_of_ne_zero fun hz => ?_
    have hnil : s.ecc.err = [] := List.length_eq_zero_iff.mp hz
    unfold State.stagingErr State.errRows at herr
    rw [hnil] at herr
    exact absurd herr List.not_mem_nil
  obtain ⟨n, hn⟩ := hlen
  have hexec := exec_pageProgrammed h none t
  dsimp only at hexec
  have hfirst : (s.begin t).loseBad (n + 1) = ((s.begin t).flushReads r).loseBad n := by
    rw [State.loseBad, hfind]
  rw [hn, hfirst] at hexec
  have hlost : LostAll (s.begin t) ((s.begin t).flushReads r) := by
    have hany : (s.begin t).pageRecords.any (inRow r) = true := by
      rw [hrecords]
      simpa using hrx
    rw [State.flushReads, if_pos hany]
    obtain ⟨v, hsee, hacc, -, hfill⟩ := State.seeRows_uncorrectable (s := s.begin t) hph hrbad
    have hrcd := hacc.rcd
    rw [hsee]
    exact (State.loseRow_all (by rw [hacc.pw]; exact hph) (by rw [hrcd]; exact hb.staged) (by rw [hrcd]; exact hb.cut)
      (by rw [hfill]; exact hb.length) hrx).of_accounts hacc
  generalize (s.begin t).flushReads r = v at hlost hexec
  have hv : v.pw.phase ≠ .flush := by rw [hlost.pw]; exact hph
  have hgo := State.loseBad_work hv hlost.known n
  generalize v.loseBad n = w at hgo hexec
  have hpage := (GoesOn.refl w).programPage (by rw [hgo.pw]; exact hv)
  exact ⟨_, hexec, (show Lost x (s.begin t) _ from hlost.after (hgo.trans hpage) hx).of_begin⟩

end

end Sys2Proof.Machine

/-! ## The start of the recorder (R479, R484, R491, R493) -/

namespace Sys2Proof.Machine

section
variable {s u v w : State} {t : Nat}

/-! ### Frames by area -/

/-- A frame that names areas for its fields. -/
theorem Touches.areas {fs : List Fld} {A B : List Area} {P : List Part} (h : Touches fs B P s u)
    (hfs : ∀ g ∈ fs, g.area ∈ A) (hB : ∀ a ∈ B, a ∈ A) : Touches [] A P s u := by
  refine ⟨fun f _ ha => h.regs f (fun hmem => ha ?_) fun hb => ha (hB _ hb), h.parts⟩
  obtain ⟨g, hg, hkey⟩ := List.mem_map.mp hmem
  have harea : f.area = g.area := Area.code_inj (by rw [← Fld.keyGroup_key, ← Fld.keyGroup_key, hkey])
  rw [harea]
  exact hfs g hg

theorem Touches.framed {A : List Area} {P : List Part} (h : Touches [] A P s u) : Framed A P s u :=
  ⟨fun f hf => h.regs f List.not_mem_nil hf, h.parts⟩

/-- The parts that the start shows in. -/
abbrev startParts : List Part := [.now, .mem, .resp, .out, .pw, .rcd, .ecc, .cvu]

/-! ### A record of the recorder's own -/

/-- A record of the recorder's own that leaves the fill below 512 KiB. -/
theorem State.sysRecord_low (hph : s.pw.phase ≠ .flush) (hs : NoSoft s) {payload : List Byte}
    (hfill : s.rd REC_STG_BYTES + (24 + (sysBody payload).length) < 0x80000) (kind cls : Nat) :
    ∃ heart, heart = s.heartTakes (24 + (sysBody payload).length) ∧
      Staging cls (sysBytes s kind cls payload s.rcd.next heart) heart s (s.sysRecord kind cls false payload) := by
  have hroom : s.stagingRoom cls (24 + (sysBody payload).length) = true := by
    rw [State.stagingRoom, State.fill]
    split <;> exact decide_eq_true (by omega)
  refine ⟨_, rfl, ?_⟩
  rw [State.sysRecord_eq hph, if_pos hroom]
  exact State.stage_low hs (by rw [sysBytes_length]) rfl (by rw [sysBytes_length]; omega) (by rw [sysBytes_length]; exact hfill)

/-! ### Before START -/

/-- The staging ring made ready after a power-on, Heartwood opened at a LOADED start. -/
def State.startReady (s : State) : State :=
  let s := if s.rd SYS_RSTCAUSE_LETTER == 0 then s.stagingFill else s
  if s.rd KEY_STAT_STATE == 1 then ({ s with rcd := { s.rcd with heartOpen := true } } : State) else s

/-- What is done before START shows in memory and in Heartwood's opening alone. -/
structure Readied (s u : State) : Prop where
  regs : u.regs = s.regs
  rcd : u.rcd = { s.rcd with heartOpen := s.rcd.heartOpen || s.rd KEY_STAT_STATE == 1 }
  mem : s.rd SYS_RSTCAUSE_LETTER ≠ 0 → u.mem = s.mem
  parts : ∀ p, p ∉ startParts → Same s u p
  pw : u.pw = s.pw
  now : u.now = s.now

theorem State.startReady_shows (hs : NoSoft s) : Readied s s.startReady := by
  have hfill : ∃ m x, (if s.rd SYS_RSTCAUSE_LETTER == 0 then s.stagingFill else s) = { s with mem := m, ecc := x } ∧
      (s.rd SYS_RSTCAUSE_LETTER ≠ 0 → m = s.mem) := by
    cases hl : s.rd SYS_RSTCAUSE_LETTER == 0 with
    | true =>
      obtain ⟨m, hm⟩ : ∃ m, m = s.mem.filter fun x => !inRange (sramBase + stagingOff) (sramBase + 0x1000000) x.1 := ⟨_, rfl⟩
      obtain ⟨x, hx⟩ := State.rowsWritten_of_noSoft (s := { s with mem := m }) hs 2 (stagingOff / 32) 0x8000
      exact ⟨m, x, by rw [if_pos rfl, State.stagingFill, ← hm, hx], fun h => absurd (beq_iff_eq.mp hl) h⟩
    | false => exact ⟨s.mem, s.ecc, by rw [if_neg Bool.false_ne_true], fun _ => rfl⟩
  obtain ⟨m, x, hfill, hmem⟩ := hfill
  have hready : s.startReady = { s with mem := m, ecc := x
                                        rcd := { s.rcd with heartOpen := s.rcd.heartOpen || s.rd KEY_STAT_STATE == 1 } } := by
    have hkey : ({ s with mem := m, ecc := x } : State).rd KEY_STAT_STATE = s.rd KEY_STAT_STATE := rfl
    unfold State.startReady
    rw [hfill]
    dsimp only
    rw [hkey]
    cases hk : s.rd KEY_STAT_STATE == 1 with
    | true => rw [if_pos rfl, Bool.or_true]
    | false => rw [if_neg Bool.false_ne_true, Bool.or_false]
  rw [hready]
  exact ⟨rfl, rfl, hmem, fun p hp => by cases p <;> first | rfl | exact absurd (by decide) hp, rfl, rfl⟩

/-! ### After START -/

/-- START's payload on a recorder whose NAND holds no record. -/
def State.startPayload (s : State) : List Byte :=
  [byteOf (s.rd SYS_RSTCAUSE_LETTER + 16 * s.rd SYS_RSTCAUSE_CAUSE), byteOf (s.rd KEY_STAT_STATE), 0xFF] ++ leBytes 5 0

/-- The first record of Heartwood and their count, as they are shown. -/
def State.heartCounted (s : State) : State :=
  match s.rcd.heart with
  | [] => s
  | r :: _ => (s.wr64 REC_HW_FIRST_LO REC_HW_FIRST_HI r.seq).wr REC_HW_CNT_CNT s.rcd.heart.length

/-- What Heartwood holds is shown. -/
def State.heartShown (s : State) : State := s.heartCounted.wrB REC_HW_CNT_CLOSED s.heartCounted.rcd.heartClosed

/-- The start's mark, once the records that waited for START have followed it. -/
def State.markStart (s : State) (power : Bool) : State :=
  let s := if power then s.wr REC_STAT_UNSEALED 0 else s
  { s with pw := { s.pw with start := { s.pw.start with recStart := true } }, rcd := { s.rcd with own := [] } }

/-- The last registers that a start shows. -/
def State.startShown (s : State) : State :=
  ((s.wr REC_RINGCAP_BLOCKS s.rcd.ringCap).wr REC_WEAR_LAPS (s.lapOf s.rcd.pages)).wr REC_STAT_STATE 1

/-- What makes a recorder start on an empty NAND. -/
structure Startable (s : State) : Prop where
  recStart : s.pw.start.recStart = false
  key : s.rd KEY_STAT_STATE ≠ 0
  early : s.rcd.early = 0
  phase : s.pw.phase = .running
  exhausted : s.pw.exhausted = false
  rings : s.rcd.rings = []
  own : s.rcd.own = []
  soft : NoSoft s

theorem Startable.begin (h : Startable s) (t : Nat) : Startable (s.begin t) :=
  ⟨h.recStart, h.key, h.early, h.phase, h.exhausted, h.rings, h.own, h.soft⟩

/-- No record waits for START. -/
theorem State.ownFollow_of_nil (h : v.rcd.own = []) : v.ownFollow = { v with rcd := { v.rcd with own := [] } } := by
  rw [State.ownFollow, h]
  rfl

theorem State.recorderStart_eq (h : Startable s)
    (hown : (s.startReady.sysRecord 0x01 8 false s.startReady.startPayload).rcd.own = []) : s.recorderStart =
    let x := s.startReady
    let y := ((x.sysRecord 0x01 8 false x.startPayload).markStart (s.rd SYS_RSTCAUSE_LETTER == 0)).heartShown
    (if y.rcd.heartOpen && !y.rcd.heartClosed && y.rd KEY_STAT_STATE == 1 && decide (y.hwn ≤ y.rcd.heart.length) then y.closeHeart
      else y).startShown := by
  have hgo : (s.pw.start.recStart || s.rd KEY_STAT_STATE == 0 || decide (0 < s.rcd.early) || s.pw.phase != .running ||
      s.pw.exhausted) = false := by
    rw [h.recStart, h.early, h.phase, h.exhausted, beq_false_of_ne h.key]
    rfl
  have hfound : s.foundSeal = none := by rw [State.foundSeal, h.rings]; rfl
  have hnewest : s.rcd.rings.getLast? = none := by rw [h.rings]; rfl
  obtain ⟨x, hx⟩ : ∃ x, x = s.startReady := ⟨_, rfl⟩
  obtain ⟨y, hy⟩ : ∃ y, y = x.sysRecord 0x01 8 false x.startPayload := ⟨_, rfl⟩
  have hstart : s.recorderStart = State.startShown
      (State.heartAtStart (State.ownFollow (let v := x.startRecords (s.rd SYS_RSTCAUSE_LETTER == 0) none none
        { v with pw := { v.pw with start := { v.pw.start with recStart := true } } }))) := by
    unfold State.recorderStart
    rw [hgo, if_neg Bool.false_ne_true, hfound, hnewest, hx]
    rfl
  have hrecords : x.startRecords (s.rd SYS_RSTCAUSE_LETTER == 0) none none =
      if s.rd SYS_RSTCAUSE_LETTER == 0 then y.wr REC_STAT_UNSEALED 0 else y := by
    rw [hy]
    cases s.rd SYS_RSTCAUSE_LETTER == 0 <;> rfl
  rw [← hx, ← hy] at hown
  rw [hstart, hrecords, ← hx]
  dsimp only
  rw [← hy]
  clear hy hx hstart hrecords
  cases s.rd SYS_RSTCAUSE_LETTER == 0 with
  | true =>
    rw [if_pos rfl, State.ownFollow_of_nil (by exact hown)]
    rfl
  | false =>
    rw [if_neg Bool.false_ne_true, State.ownFollow_of_nil (by exact hown)]
    rfl

/-- The registers of Heartwood that a start shows. -/
abbrev heartFlds : List Fld := [REC_HW_FIRST_LO, REC_HW_FIRST_HI, REC_HW_CNT_CNT, REC_HW_CNT_CLOSED]

theorem State.heartCounted_shows (s : State) :
    s.heartCounted.rcd = s.rcd ∧ s.heartCounted.pw = s.pw ∧ s.heartCounted.mem = s.mem ∧
      (s.rcd.heart ≠ [] → s.heartCounted.rd REC_HW_CNT_CNT = s.rcd.heart.length % 2 ^ 26) ∧ Raises [] s s.heartCounted ∧
      Touches heartFlds [] [] s s.heartCounted := by
  cases hh : s.rcd.heart with
  | nil =>
    have hcount : s.heartCounted = s := by rw [State.heartCounted, hh]
    rw [hcount]
    exact ⟨rfl, rfl, rfl, fun h => absurd rfl h, Raises.refl s, Touches.refl _ _ _ s⟩
  | cons r l =>
    have hcount : s.heartCounted = (s.wr64 REC_HW_FIRST_LO REC_HW_FIRST_HI r.seq).wr REC_HW_CNT_CNT (r :: l).length := by
      rw [State.heartCounted, hh]
    rw [hcount]
    exact ⟨rfl, rfl, rfl, fun _ => State.rd_wr_same .., ((Raises.refl s).wr64 (by decide) (by decide) (by decide) (by decide)
      r.seq).wr (by decide) (by decide) _, ((Touches.refl _ _ _ s).wr64 (by decide) (by decide) _).wrOf (by decide) _⟩

theorem State.heartShown_shows (s : State) :
    s.heartShown.rcd = s.rcd ∧ s.heartShown.pw = s.pw ∧ s.heartShown.mem = s.mem ∧
      s.heartShown.rd REC_HW_CNT_CLOSED = b2n s.rcd.heartClosed ∧
      (s.rcd.heart ≠ [] → s.heartShown.rd REC_HW_CNT_CNT = s.rcd.heart.length % 2 ^ 26) ∧ Raises [] s s.heartShown ∧
      Touches heartFlds [] [] s s.heartShown := by
  obtain ⟨hrcd, hpw, hmem, hcount, hraise, htouch⟩ := s.heartCounted_shows
  unfold State.heartShown
  generalize s.heartCounted = v at *
  exact ⟨hrcd, hpw, hmem, by rw [← hrcd]; exact State.rd_wrB_same v _ _ (by decide),
    fun h => (State.rd_wr_ne _ (by decide) _).trans (hcount h), hraise.wrB (by decide) (by decide) _,
    htouch.wrB (by decide) _⟩

/-- START as it lies in staging, where it does not go to Heartwood. -/
def startRecord (s : State) : List Byte :=
  leBytes 2 32 ++ [byteOf 8, byteOf 0, byteOf (b2n true + 2 * b2n false + 4 * b2n s.tsync), byteOf 1, 0, 0] ++
    leBytes 8 s.rcd.next ++ leBytes 8 s.now ++
    [byteOf (s.rd SYS_RSTCAUSE_LETTER + 16 * s.rd SYS_RSTCAUSE_CAUSE), byteOf (s.rd KEY_STAT_STATE), 0xFF, 0, 0, 0, 0, 0]

theorem State.startBody (s : State) : sysBody s.startPayload =
    [byteOf (s.rd SYS_RSTCAUSE_LETTER + 16 * s.rd SYS_RSTCAUSE_CAUSE), byteOf (s.rd KEY_STAT_STATE), 0xFF, 0, 0, 0, 0, 0] := by
  have hzero : leBytes 5 0 = [0, 0, 0, 0, 0] := by decide
  rw [State.startPayload, hzero]
  simp [sysBody]

theorem State.sysBytes_start (s : State) : sysBytes s 0x01 8 s.startPayload s.rcd.next false = startRecord s := by
  unfold sysBytes
  rw [s.startBody]
  rfl

/-- What stands when START is written and Heartwood is shown. -/
structure Started (s y : State) : Prop extends Raises [] s y where
  rcd : y.rcd = { s.rcd with
    next := s.rcd.next + 1, heartFull := y.rcd.heartFull, staged := y.rcd.staged, head := y.rcd.head, own := []
    heartOpen := s.rcd.heartOpen || s.rd KEY_STAT_STATE == 1 }
  pw : y.pw = { s.pw with start := { s.pw.start with recStart := true } }
  fill : y.rd REC_STG_BYTES = s.rd REC_STG_BYTES + 32
  closed : y.rd REC_HW_CNT_CLOSED = b2n s.rcd.heartClosed
  count : s.rcd.heart ≠ [] → y.rd REC_HW_CNT_CNT = s.rcd.heart.length % 2 ^ 26
  hwn : y.hwn = s.hwn
  touches : Touches [] [.recd, .ingress] startParts s y
  bytes : s.rd KEY_STAT_STATE ≠ 1 → s.rcd.head + 32 ≤ 0x100000 →
    (∀ i, i < 32 → y.byte (sramBase + stagingOff + s.rcd.head + i) = (startRecord s).getD i 0) ∧
    (s.rd SYS_RSTCAUSE_LETTER ≠ 0 → Stored (sramBase + stagingOff + s.rcd.head) (startRecord s) s y)

/-- The state that START leaves. -/
def State.startWritten (s : State) : State :=
  ((s.startReady.sysRecord 0x01 8 false s.startReady.startPayload).markStart (s.rd SYS_RSTCAUSE_LETTER == 0)).heartShown

theorem Startable.started (h : Startable s) (hfill : s.rd REC_STG_BYTES + 32 < 0x80000) :
    (s.startReady.sysRecord 0x01 8 false s.startReady.startPayload).rcd.own = [] ∧ Started s s.startWritten := by
  unfold State.startWritten
  have hready := State.startReady_shows h.soft
  generalize s.startReady = x at hready ⊢
  have hrd (f : Fld) : x.rd f = s.rd f := by rw [State.rd, hready.regs, State.rd]
  have hxs : NoSoft x := h.soft.of_regs_eq hready.regs
  have hxph : x.pw.phase ≠ .flush := by rw [hready.pw, h.phase]; decide
  have hbody : (sysBody x.startPayload).length = 8 := by rw [x.startBody]; rfl
  obtain ⟨heart, hheart, hput⟩ := State.sysRecord_low hxph hxs (payload := x.startPayload)
    (by rw [hrd, hbody]; exact hfill) 0x01 8
  have hbs : (sysBytes x 0x01 8 x.startPayload x.rcd.next heart).length = 32 := by rw [sysBytes_length, hbody]
  have hrecord (hkey : s.rd KEY_STAT_STATE ≠ 1) : sysBytes x 0x01 8 x.startPayload x.rcd.next heart = startRecord s := by
    have hno : heart = false := by
      rw [hheart, State.heartTakes, State.heartLive, hrd, beq_false_of_ne hkey]
      simp
    rw [hno, x.sysBytes_start]
    have hnext : x.rcd.next = s.rcd.next := by rw [hready.rcd]
    unfold startRecord
    rw [hrd, hrd, hrd, hnext, hready.now, State.tsync, hrd, State.tsync]
  generalize x.sysRecord 0x01 8 false x.startPayload = z at hput ⊢
  generalize sysBytes x 0x01 8 x.startPayload x.rcd.next heart = bs at hput hbs hrecord
  refine ⟨by rw [hput.rcd, hready.rcd]; exact h.own, ?_⟩
  obtain ⟨m, hm⟩ : ∃ m, m = z.markStart (s.rd SYS_RSTCAUSE_LETTER == 0) := ⟨_, rfl⟩
  have hmark : m.rcd = { z.rcd with own := [] } ∧ m.pw = { z.pw with start := { z.pw.start with recStart := true } } ∧
      m.mem = z.mem ∧ Raises [] z m ∧ Touches [REC_STAT_UNSEALED] [] [.pw, .rcd] z m := by
    have hset (v : State) (hv : v.rcd = z.rcd ∧ v.pw = z.pw ∧ v.mem = z.mem) (hr : Raises [] z v)
        (ht : Touches [REC_STAT_UNSEALED] [] [.pw, .rcd] z v) (p : Power) :
        Raises [] z { v with pw := p, rcd := { v.rcd with own := [] } } ∧
          Touches [REC_STAT_UNSEALED] [] [.pw, .rcd] z { v with pw := p, rcd := { v.rcd with own := [] } } :=
      ⟨hr.of_regs_eq rfl, ht.parts' rfl fun p hp => by cases p <;> first | rfl | exact absurd (by decide) hp⟩
    rw [hm]
    unfold State.markStart
    cases s.rd SYS_RSTCAUSE_LETTER == 0 with
    | true =>
      rw [if_pos rfl]
      exact ⟨rfl, rfl, rfl, hset (z.wr REC_STAT_UNSEALED 0) ⟨rfl, rfl, rfl⟩ ((Raises.refl z).wr (by decide) (by decide) 0)
        ((Touches.refl _ _ _ z).wrOf (by decide) 0) _⟩
    | false =>
      rw [if_neg Bool.false_ne_true]
      exact ⟨rfl, rfl, rfl, hset z ⟨rfl, rfl, rfl⟩ (Raises.refl z) (Touches.refl _ _ _ z) _⟩
  rw [← hm]
  clear hm
  obtain ⟨hmrcd, hmpw, hmmem, hmraise, hmtouch⟩ := hmark
  obtain ⟨hyrcd, hypw, hymem, hyclosed, hycount, hyraise, hytouch⟩ := m.heartShown_shows
  generalize m.heartShown = y at hyrcd hypw hymem hyclosed hycount hyraise hytouch ⊢
  have hzpw : z.pw = s.pw := Eq.trans (hput.touches.parts .pw (by decide)) hready.pw
  have hheartEq : m.rcd.heart = s.rcd.heart ∧ m.rcd.heartClosed = s.rcd.heartClosed := by
    rw [hmrcd, hput.rcd, hready.rcd]
    exact ⟨rfl, rfl⟩
  rw [hheartEq.1] at hycount
  rw [hheartEq.2] at hyclosed
  have hxtouch : Touches [] [.recd, .ingress] startParts s x :=
    ⟨fun f _ _ => hrd f, hready.parts⟩
  have htouch : Touches [] [.recd, .ingress] startParts s y :=
    ((hxtouch.trans (hput.touches.areas (A := [.recd, .ingress]) (by decide) (by decide)) (by decide) (by decide)
      (by decide)).trans (hmtouch.areas (A := [.recd, .ingress]) (by decide) (by decide)) (by decide) (by decide)
      (by decide)).trans (hytouch.areas (A := [.recd, .ingress]) (by decide) (by decide)) (by decide) (by decide) (by decide)
  have hkeep {f : Fld} (h1 : f.key ∉ heartFlds.map Fld.key) (h2 : f.key ∉ [REC_STAT_UNSEALED].map Fld.key) : y.rd f = z.rd f :=
    (hytouch.regs f h1 List.not_mem_nil).trans (hmtouch.regs f h2 List.not_mem_nil)
  have hmem : y.mem = z.mem := hymem.trans hmmem
  have hhead : x.rcd.head = s.rcd.head := by rw [hready.rcd]
  have hstored := hput.stored
  rw [hhead, hbs] at hstored
  refine {
    toRaises := hyraise.after (hmraise.after (hput.toRaises.after ((Raises.refl s).of_regs_eq hready.regs)))
    rcd := ?_
    pw := by rw [hypw, hmpw, hzpw]
    fill := by rw [hkeep (by decide) (by decide), hput.fill, hrd, hbs]
    closed := hyclosed
    count := hycount
    hwn := ?_
    touches := htouch
    bytes := fun hkey hend => ?_ }
  · rw [hyrcd, hmrcd, hput.rcd, hready.rcd]
  · have hw : y.rd REC_LAYOUT_HWN = s.rd REC_LAYOUT_HWN :=
      (hkeep (by decide) (by decide)).trans ((hput.touches.regs _ (by decide) List.not_mem_nil).trans (hrd _))
    rw [State.hwn, State.hwn, hw, hypw, hmpw, hzpw]
  · have hst := hstored hend
    rw [hrecord hkey] at hst
    refine ⟨fun i hi => (State.byte_congr hmem _).trans (hst.1 i (by rw [← hrecord hkey, hbs]; exact hi)),
      fun hl => (hst.of_source (hready.mem hl)).of_mem_eq hmem⟩

end

end Sys2Proof.Machine

/-! ## What a start of the recorder does, and the rate of R486 -/

namespace Sys2Proof.Machine

section
variable {s u v w y : State} {t : Nat}

/-! ### The end of a start -/

/-- The registers that a start shows last. -/
abbrev startFlds : List Fld := [REC_RINGCAP_BLOCKS, REC_WEAR_LAPS, REC_STAT_STATE]

theorem State.startShown_shows (y : State) : y.startShown.rd REC_STAT_STATE = 1 ∧ Raises [] y y.startShown ∧
    Touches startFlds [] [] y y.startShown :=
  ⟨State.rd_wr_same .., (((Raises.refl y).wr (f := REC_RINGCAP_BLOCKS) (by decide) (by decide) _).wr (f := REC_WEAR_LAPS)
    (by decide) (by decide) _).wr (f := REC_STAT_STATE) (by decide) (by decide) 1,
    (((Touches.refl _ _ _ y).wrOf (f := REC_RINGCAP_BLOCKS) (by decide) _).wrOf (f := REC_WEAR_LAPS) (by decide) _).wrOf
      (f := REC_STAT_STATE) (by decide) 1⟩

theorem State.rd_startShown {f : Fld} (h : f.key ∉ startFlds.map Fld.key) (y : State) : y.startShown.rd f = y.rd f :=
  y.startShown_shows.2.2.regs f h List.not_mem_nil

/-- Whether Heartwood closes at a start that finds `y`. -/
def State.closesAtStart (y : State) : Bool :=
  y.rcd.heartOpen && !y.rcd.heartClosed && y.rd KEY_STAT_STATE == 1 && decide (y.hwn ≤ y.rcd.heart.length)

theorem Startable.recorderStart_eq (h : Startable s) (hfill : s.rd REC_STG_BYTES + 32 < 0x80000) : s.recorderStart =
    (if s.startWritten.closesAtStart then s.startWritten.closeHeart else s.startWritten).startShown :=
  State.recorderStart_eq h (h.started hfill).1

theorem Started.closesAtStart (h : Started s y) (hkey : y.rd KEY_STAT_STATE = s.rd KEY_STAT_STATE) : y.closesAtStart =
    (s.rd KEY_STAT_STATE == 1 && !s.rcd.heartClosed && decide (s.hwn ≤ s.rcd.heart.length)) := by
  rw [State.closesAtStart, h.hwn, hkey, h.rcd]
  cases s.rcd.heartOpen <;> cases s.rcd.heartClosed <;> cases s.rd KEY_STAT_STATE == 1 <;> rfl

theorem Started.key (h : Started s y) : y.rd KEY_STAT_STATE = s.rd KEY_STAT_STATE :=
  h.touches.regs _ List.not_mem_nil (by decide)

/-- A start that leaves Heartwood as it is. -/
theorem recorderStart_goesOn (h : Startable s) (hfill : s.rd REC_STG_BYTES + 32 < 0x80000)
    (hopen : s.rd KEY_STAT_STATE ≠ 1 ∨ s.rcd.heartClosed = true ∨ s.rcd.heart.length < s.hwn) (t : Nat) :
    Does (.recorderStart t) s fun u =>
      u.rcd.next = s.rcd.next + 1 ∧ u.rd REC_STAT_STATE = 1 ∧ u.pw.start.recStart = true ∧
      u.rd REC_STG_BYTES = s.rd REC_STG_BYTES + 32 ∧ (s.rd KEY_STAT_STATE = 1 → u.rcd.heartOpen = true) ∧
      u.rd REC_HW_CNT_CLOSED = b2n s.rcd.heartClosed ∧
      (s.rd KEY_STAT_STATE ≠ 1 → s.rcd.head + 32 ≤ 0x100000 →
        (∀ i, i < 32 → u.byte (sramBase + stagingOff + s.rcd.head + i) = (startRecord (s.begin t)).getD i 0) ∧
        (s.rd SYS_RSTCAUSE_LETTER ≠ 0 →
          Stored (sramBase + stagingOff + s.rcd.head) (startRecord (s.begin t)) s u)) ∧
      Quiet s u ∧ Framed [.pend, .recd, .ingress] startParts s u := by
  have hb := h.begin t
  have hstart := hb.recorderStart_eq hfill
  obtain ⟨-, hy⟩ := hb.started hfill
  have hcloses := hy.closesAtStart hy.key
  have hno : ((s.begin t).rd KEY_STAT_STATE == 1 && !(s.begin t).rcd.heartClosed &&
      decide ((s.begin t).hwn ≤ (s.begin t).rcd.heart.length)) = false := by
    show (s.rd KEY_STAT_STATE == 1 && !s.rcd.heartClosed && decide (s.hwn ≤ s.rcd.heart.length)) = false
    rcases hopen with hk | hc | hlen
    · rw [beq_false_of_ne hk]
      rfl
    · rw [hc, Bool.not_true, Bool.and_false]
      rfl
    · rw [decide_eq_false (by omega), Bool.and_false]
  rw [hcloses, hno, if_neg Bool.false_ne_true] at hstart
  generalize (s.begin t).startWritten = y at hy hstart
  obtain ⟨hstate, hraise, htouch⟩ := y.startShown_shows
  have hexec : exec (.recorderStart t) s = .next y.startShown := congrArg Host.Outcome.next hstart
  have hrcd : y.startShown.rcd = y.rcd := rfl
  have hpw : y.startShown.pw = y.pw := rfl
  have hmem : y.startShown.mem = y.mem := rfl
  have hstg : y.startShown.rd REC_STG_BYTES = y.rd REC_STG_BYTES := State.rd_startShown (by decide) y
  have hclosed : y.startShown.rd REC_HW_CNT_CLOSED = y.rd REC_HW_CNT_CLOSED := State.rd_startShown (by decide) y
  generalize y.startShown = u at *
  refine ⟨u, hexec, by rw [hrcd, hy.rcd]; rfl, hstate, by rw [hpw, hy.pw], hstg.trans hy.fill, fun hk => ?_,
    hclosed.trans hy.closed, fun hk hend => ?_, ?_, ?_⟩
  · rw [hrcd, hy.rcd]
    show (s.rcd.heartOpen || s.rd KEY_STAT_STATE == 1) = true
    rw [hk]
    exact Bool.or_true _
  · obtain ⟨hbytes, hstored⟩ := hy.bytes hk hend
    exact ⟨fun i hi => (State.byte_congr hmem _).trans (hbytes i hi),
      fun hl => ((hstored hl).of_source rfl).of_mem_eq hmem⟩
  · exact (hraise.after (hy.toRaises.after (Raises.begin s t))).raised
  · exact ((((Touches.begin s t (by decide)).trans hy.touches (List.Subset.refl _) (B := [.recd, .ingress])
      (A := [.pend, .recd, .ingress]) (by decide) (by decide)).trans (htouch.areas (A := [.pend, .recd, .ingress])
      (by decide) (by decide)) (List.Subset.refl _) (by decide) (by decide))).framed

/-- Heartwood closes: its record lies in staging, and source 211 is raised. -/
theorem State.closeHeart_shows (hph : y.pw.phase ≠ .flush) (hs : NoSoft y) (hfill : y.rd REC_STG_BYTES + 32 < 0x80000) :
    let u := y.closeHeart
    u.rcd.next = y.rcd.next + 1 ∧ u.rd REC_STG_BYTES = y.rd REC_STG_BYTES + 32 ∧ u.rcd.heartClosed = true ∧
      u.rd REC_HW_CNT_CLOSED = 1 ∧ u.rd REC_HW_CNT_CNT = y.rd REC_HW_CNT_CNT ∧ Raises [211] y u := by
  obtain ⟨x, hx⟩ : ∃ x, x = State.wr { y with rcd := { y.rcd with heartClosed := true } } REC_HW_CNT_CLOSED 1 := ⟨_, rfl⟩
  have hclose : y.closeHeart = (x.sysRecord 0x08 8 false (leBytes 4 x.rcd.heart.length ++ leBytes 4 0)).raise 211 := by
    rw [hx]
    rfl
  have hrcd : x.rcd = { y.rcd with heartClosed := true } := by rw [hx]; rfl
  have hpw : x.pw = y.pw := by rw [hx]; rfl
  have hrd {f : Fld} (hf : f.key ≠ REC_HW_CNT_CLOSED.key) : x.rd f = y.rd f := by
    rw [hx]
    exact State.rd_wr_ne _ hf 1
  have hone : x.rd REC_HW_CNT_CLOSED = 1 := by rw [hx]; exact State.rd_wr_same ..
  have hraise : Raises [] y x := by
    rw [hx]
    exact ((Raises.refl y).setRcd _).wr (by decide) (by decide) 1
  have hsoft : NoSoft x := fun i hi => by
    rw [State.ctState, hrd (Fld.key_ne_of_addr_ne (Nat.le_of_ble_eq_true rfl) (Nat.le_of_ble_eq_true rfl)
      (by simp only [ECC_CTi_INFO_STATE, REC_HW_CNT_CLOSED]; omega))]
    exact hs i hi
  clear hx
  have hbody : (sysBody (leBytes 4 x.rcd.heart.length ++ leBytes 4 0)).length = 8 := by
    simp [sysBody, leBytes_length]
  have hstg : x.rd REC_STG_BYTES = y.rd REC_STG_BYTES := hrd (by decide)
  obtain ⟨heart, -, hput⟩ := State.sysRecord_low (by rw [hpw]; exact hph) hsoft
    (payload := leBytes 4 x.rcd.heart.length ++ leBytes 4 0) (by rw [hstg, hbody]; exact hfill) 0x08 8
  have hlen : (sysBytes x 0x08 8 (leBytes 4 x.rcd.heart.length ++ leBytes 4 0) x.rcd.next heart).length = 32 := by
    rw [sysBytes_length, hbody]
  rw [hclose]
  generalize sysBytes x 0x08 8 (leBytes 4 x.rcd.heart.length ++ leBytes 4 0) x.rcd.next heart = bs at hput hlen
  generalize x.sysRecord 0x08 8 false (leBytes 4 x.rcd.heart.length ++ leBytes 4 0) = z at hput
  have hz {f : Fld} (hf : f.key ∉ [REC_STG_BYTES].map Fld.key) (hp : f.area.code ≠ 5) : (z.raise 211).rd f = x.rd f :=
    (State.rd_raise_code hp).trans (hput.touches.regs f hf List.not_mem_nil)
  refine ⟨?_, ?_, ?_, (hz (by decide) (by decide)).trans hone, (hz (by decide) (by decide)).trans (hrd (by decide)), ?_⟩
  · rw [State.raise_rcd, hput.rcd, hrcd]
  · rw [State.rd_raise_code (by decide), hput.fill, hstg, hlen]
  · rw [State.raise_rcd, hput.rcd, hrcd]
  · exact (hput.toRaises.after hraise).raiseCons (by decide)

/-- A start that finds Heartwood with all the records it may hold. -/
theorem recorderStart_closes (h : Startable s) (hfill : s.rd REC_STG_BYTES + 64 < 0x80000) (hkey : s.rd KEY_STAT_STATE = 1)
    (hclosed : s.rcd.heartClosed = false) (hfull : s.hwn ≤ s.rcd.heart.length) (t : Nat) :
    Does (.recorderStart t) s fun u =>
      u.rcd.next = s.rcd.next + 2 ∧ u.rd REC_STAT_STATE = 1 ∧ u.rd REC_STG_BYTES = s.rd REC_STG_BYTES + 64 ∧
      u.rcd.heartClosed = true ∧ u.rd REC_HW_CNT_CLOSED = 1 ∧
      (s.rcd.heart ≠ [] → u.rd REC_HW_CNT_CNT = s.rcd.heart.length % 2 ^ 26) ∧ Raised [211] s u := by
  have hb := h.begin t
  have hlow : (s.begin t).rd REC_STG_BYTES + 32 < 0x80000 := show s.rd REC_STG_BYTES + 32 < 0x80000 by omega
  have hstart := hb.recorderStart_eq hlow
  obtain ⟨-, hy⟩ := hb.started hlow
  have hcloses := hy.closesAtStart hy.key
  have hyes : ((s.begin t).rd KEY_STAT_STATE == 1 && !(s.begin t).rcd.heartClosed &&
      decide ((s.begin t).hwn ≤ (s.begin t).rcd.heart.length)) = true := by
    show (s.rd KEY_STAT_STATE == 1 && !s.rcd.heartClosed && decide (s.hwn ≤ s.rcd.heart.length)) = true
    rw [hkey, hclosed, decide_eq_true hfull]
    rfl
  rw [hcloses, hyes, if_pos rfl] at hstart
  generalize (s.begin t).startWritten = y at hy hstart
  have hph : y.pw.phase ≠ .flush := by
    rw [hy.pw]
    show s.pw.phase ≠ .flush
    rw [h.phase]
    decide
  have hsoft : NoSoft y := fun i hi => by
    rw [State.ctState, hy.touches.regs _ List.not_mem_nil (by show Area.ecc ∉ [Area.recd, Area.ingress]; decide)]
    exact h.soft i hi
  have hstg : y.rd REC_STG_BYTES = s.rd REC_STG_BYTES + 32 := hy.fill
  obtain ⟨hnext, hfill', hheart, hone, hcnt, hraise⟩ := State.closeHeart_shows hph hsoft (by omega)
  generalize y.closeHeart = z at hstart hnext hfill' hheart hone hcnt hraise
  obtain ⟨hstate, hshown, -⟩ := z.startShown_shows
  have hz {f : Fld} (hf : f.key ∉ startFlds.map Fld.key) : z.startShown.rd f = z.rd f := State.rd_startShown hf z
  refine ⟨z.startShown, congrArg Host.Outcome.next hstart, ?_, hstate, ?_, hheart, (hz (by decide)).trans hone,
    fun hne => ?_, ?_⟩
  · show z.rcd.next = _
    rw [hnext, hy.rcd]
    rfl
  · rw [hz (by decide), hfill', hstg]
  · rw [hz (by decide), hcnt]
    exact hy.count hne
  · have hyr : Raises [] s y := hy.toRaises.after (Raises.begin s t)
    exact ((hraise.after hyr).of_rd_eq fun f hf => hz (by
      intro hmem
      obtain ⟨g, hg, hkey⟩ := List.mem_map.mp hmem
      have harea : g.area = f.area := Area.code_inj (by rw [← Fld.keyGroup_key, ← Fld.keyGroup_key, hkey])
      have : ∀ g ∈ startFlds, g.area ≠ .pend ∧ g.area ≠ .std := by decide
      rcases hf with hf | hf <;> rw [← harea] at hf
      · exact (this g hg).1 hf
      · exact (this g hg).2 hf)).raised

/-! ### The 24-hour average (R486) -/

/-- A record that is offered outside flush mode leaves RATEHI as it is. -/
theorem State.rateHi_record (hph : s.pw.phase ≠ .flush) (cls src kind obj : Nat) (w0 w1 : Option Nat) :
    (s.record cls src kind obj w0 w1).rd REC_STAT_RATEHI = s.rd REC_STAT_RATEHI := by
  have hdrop (v : State) (c e n : Nat) : (v.dropRecord c e n).rd REC_STAT_RATEHI = v.rd REC_STAT_RATEHI := by
    have hsrc : REC_STAT_RATEHI.key ≠ (REC_DROPSRCi e).key :=
      Fld.key_ne_of_addr_lt (by decide) (by simp only [REC_STAT_RATEHI, REC_DROPSRCi]; omega)
    have hcls : REC_STAT_RATEHI.key ≠ (REC_DROPCLSc c).key :=
      Fld.key_ne_of_addr_lt (by decide) (by simp only [REC_STAT_RATEHI, REC_DROPCLSc]; omega)
    obtain ⟨d, hd⟩ : ∃ d, v.dropRecord c e n =
        let x : State := { v with rcd := { v.rcd with drops := some d } }
        let z := ((((x.bump REC_DROP_TOT).bump (REC_DROPSRCi e)).bump (REC_DROPCLSc c)).wr REC_STAT_DROPEV 1).wr
          REC_STAT_OVERLOAD 1
        if v.flag REC_STAT_OVERLOAD then z else z.raise 209 := ⟨_, rfl⟩
    rw [hd]
    dsimp only
    rw [apply_ite (State.rd · REC_STAT_RATEHI), State.rd_raise_code (by decide), ite_self, State.rd_wr_ne _ (by decide),
      State.rd_wr_ne _ (by decide), State.bump_eq, State.rd_wr_ne _ hcls, State.bump_eq, State.rd_wr_ne _ hsrc, State.bump_eq,
      State.rd_wr_ne _ (by decide)]
    rfl
  unfold State.record State.offer
  rw [if_neg hph]
  split
  · rfl
  · split
    · exact hdrop ..
    · rw [apply_ite Prod.snd, apply_ite (State.rd · REC_STAT_RATEHI), hdrop]
      exact (congrArg _ (State.rd_wr_ne _ (by decide) _)).trans (ite_self _)

/-- The registers of the average. -/
abbrev rateFlds : List Fld := [REC_RATE24_KBS, REC_STAT_RATEHI]

theorem rate24_does (hph : s.pw.phase = .running) (part t : Nat) :
    let kbs := (s.begin t).wroteKbs part
    (kbs ≤ 1500 → Does (.rate24Update part t) s fun u => u.rd REC_RATE24_KBS = kbs ∧ u.rd REC_STAT_RATEHI = 0 ∧
      Touches rateFlds [] [.now, .resp, .out] s u) ∧
    (1500 < kbs → s.rd REC_STAT_RATEHI = 0 → Does (.rate24Update part t) s fun u => u.rd REC_RATE24_KBS = sat 24 kbs ∧
      u.rd REC_STAT_RATEHI = 1 ∧ Notes [212] [(2, 0, 212, 0xFFFF)] s u ∧
      Touches rateFlds [.pend, .ingress] [.now, .resp, .out, .pw, .rcd] s u) := by
  intro kbs
  refine ⟨fun hle => does_running rfl hph ?_, fun hgt hwas => does_running rfl hph ?_⟩
  · have hrate : (s.begin t).rate24 kbs = ((s.begin t).wr REC_RATE24_KBS (sat 24 kbs)).wr REC_STAT_RATEHI 0 :=
      if_neg (by omega)
    rw [hrate]
    refine ⟨?_, State.rd_wr_same .., ((Touches.begin s t (by decide)).wrOf (by decide) _).wrOf (by decide) _⟩
    rw [State.rd_wr_ne _ (by decide), State.rd_wr_same]
    have hsat : sat 24 kbs = kbs := Nat.min_eq_left (by omega)
    rw [hsat]
    exact Nat.mod_eq_of_lt (show kbs < 2 ^ 24 by omega)
  · obtain ⟨x, hx⟩ : ∃ x, x = ((s.begin t).wr REC_RATE24_KBS (sat 24 kbs)).wr REC_STAT_RATEHI 1 := ⟨_, rfl⟩
    have hflag : (s.begin t).flag REC_STAT_RATEHI = false := by
      show (s.rd REC_STAT_RATEHI == 1) = false
      rw [hwas]
      rfl
    have hrate : (s.begin t).rate24 kbs = (x.raise 212).record 2 0 212 0xFFFF (some 0x10C00000) (some 0x10C00044) := by
      rw [hx]
      unfold State.rate24
      rw [hflag]
      exact if_pos hgt
    have hkbs : x.rd REC_RATE24_KBS = sat 24 kbs := by
      rw [hx, State.rd_wr_ne _ (by decide), State.rd_wr_same]
      exact sat_mod 24 _
    have hhi : x.rd REC_STAT_RATEHI = 1 := by rw [hx]; exact State.rd_wr_same ..
    have hreported : Reported [] [] s x := by
      rw [hx]
      have hr := (Reported.begin s t).wr (f := REC_RATE24_KBS) (by decide) (by decide) (by decide) (sat 24 kbs)
      exact ⟨hr.toRaises.wr (by decide) (by decide) 1, hr.queued, hr.phase,
        (State.rd_wr_ne (f := REC_STAT_RATEHI) _ (by decide) 1).trans hr.overload⟩
    have htouch : Touches rateFlds [.pend, .ingress] [.now, .resp, .out, .pw, .rcd] s x := by
      rw [hx]
      exact ((Touches.begin s t (by decide)).wrOf (by decide) _).wrOf (by decide) 1
    have hxph : (x.raise 212).pw.phase ≠ .flush := by
      rw [State.raise_pw, hreported.phase, hph]
      decide
    rw [hrate]
    refine ⟨?_, ?_, ?_, (htouch.raise (by decide) 212).record (by decide) (by decide) ..⟩
    · rw [State.rd_record_area _ (by decide) (by decide), State.rd_raise_code (by decide)]
      exact hkbs
    · rw [State.rateHi_record hxph, State.rd_raise_code (by decide)]
      exact hhi
    · exact notes_of_reported (ds := [(x.raise 212).hwRecord 2 0 212 0xFFFF (some 0x10C00000) (some 0x10C00044)]) rfl
        fun hr => (hreported.raise (by decide)).record hr ..

end

end Sys2Proof.Machine

/-! ## The recorder (O51) -/

namespace Sys2Proof.Machine

section
variable {s : State} {f : Flush} {x : Staged} {t : Nat}

/-! ### A page of one record, command by command -/

/-- The bytes of the minute grow by a page. -/
theorem State.wroteMore_minute (s : State) : tblGet 0 (s.now / 60000000000) s.wroteMore =
    tblGet 0 (s.now / 60000000000) s.rcd.wrote + 4096 :=
  tblGet_set_same ..

/-- A flush that reads no row with an error pattern programs its page. -/
theorem exec_pageProgrammed_sound (h : Flushing f x s) (herr : s.stagingErr = []) (t : Nat) :
    exec (.pageProgrammed none t) s = .next (s.begin t).programPage := by
  have hexec := exec_pageProgrammed h none t
  dsimp only at hexec
  rwa [State.loseBad_of_nil (s := s.begin t) herr] at hexec

theorem pageProgrammed_whole (h : Flushing f x s) (herr : s.stagingErr = []) (hx : x.heart = false)
    (hheart : s.rcd.heart = []) (hpages : s.rcd.pages % 64 ≠ 0) (hall : f.size = s.rd REC_STG_BYTES) (t : Nat) :
    Does (.pageProgrammed none t) s fun u =>
      u.rcd = { s.rcd with
        staged := [], cut := 0, cutPage := s.rcd.pages, pages := s.rcd.pages + 1, flush := none
        rings := s.rcd.rings ++ [⟨x.seq, s.rcd.pages, x.bytes⟩], lastFlushEnd := t
        spares := s.rcd.spares ++ [s.pageSpareOf x (s.rd REC_STG_BYTES)], wrote := u.rcd.wrote } ∧
      tblGet 0 (t / 60000000000) u.rcd.wrote = tblGet 0 (t / 60000000000) s.rcd.wrote + 4096 ∧
      u.rd REC_STG_BYTES = 0 ∧ u.rd REC_STAT_FLUSHING = 0 ∧ u.rd REC_STAT_FLUSHEV = 1 ∧
      u.rd REC_FLUSH_LAST = sat 32 ((t - f.began) / 1000) ∧ Raised [208] s u ∧
      Touches [REC_STG_BYTES, REC_STAT_FLUSHING, REC_STAT_FLUSHEV, REC_FLUSH_LAST, REC_FLUSH_MAX] [.pend]
        [.now, .resp, .out, .rcd] s u := by
  have hexec := exec_pageProgrammed_sound h herr t
  obtain ⟨hrcd, hstg, hflushing, hev, hlast, hraise, htouch⟩ := programPage_whole (h.begin t) hall hx hheart hpages
  have hwrote := (s.begin t).wroteMore_minute
  generalize (s.begin t).programPage = u at *
  refine ⟨u, hexec, by rw [hrcd]; rfl, by rw [hrcd]; exact hwrote, hstg, hflushing, hev, hlast,
    (hraise.after (Raises.begin s t)).raised, ?_⟩
  exact (Touches.begin s t (by decide)).trans htouch (List.Subset.refl _) (by decide) (by decide)

theorem pageProgrammed_part (h : Flushing f x s) (herr : s.stagingErr = []) (hheart : s.rcd.heart = [])
    (hpages : s.rcd.pages % 64 ≠ 0) (hpart : f.size < s.rd REC_STG_BYTES) (hempty : f.untilEmpty = true) (t : Nat) :
    Does (.pageProgrammed none t) s fun u =>
      u.rcd = { s.rcd with
        cut := f.size, cutPage := s.rcd.pages, pages := s.rcd.pages + 1
        flush := some { f with size := s.rd REC_STG_BYTES - f.size }
        spares := s.rcd.spares ++ [s.pageSpareOf x f.size], wrote := u.rcd.wrote } ∧
      tblGet 0 (t / 60000000000) u.rcd.wrote = tblGet 0 (t / 60000000000) s.rcd.wrote + 4096 ∧
      u.rd REC_STG_BYTES = s.rd REC_STG_BYTES - f.size ∧ Quiet s u ∧
      Touches [REC_STG_BYTES] [] [.now, .resp, .out, .rcd] s u := by
  have hexec := exec_pageProgrammed_sound h herr t
  obtain ⟨hrcd, hstg, hraise, htouch⟩ := programPage_part (h.begin t) hpart hempty hheart hpages
  have hwrote := (s.begin t).wroteMore_minute
  generalize (s.begin t).programPage = u at *
  refine ⟨u, hexec, ?_, by rw [hrcd]; exact hwrote, hstg, (hraise.after (Raises.begin s t)).raised,
    (Touches.begin s t (by decide)).trans htouch (List.Subset.refl _) (by decide) (by decide)⟩
  rw [hrcd, State.pageRcd, List.map_nil, List.append_nil, ← h.staged]
  rfl

/-! ### Submissions that are not the hart's own -/

theorem recordSubmit_idle {writer : Fin 12} (hrun : s.hartRuns writer = false) (h : Fin 12) (t : Nat) :
    Does (.recordSubmit writer h t) s (Touches [] [] [.now, .resp, .out] s) := by
  have hrun : (s.begin t).hartRuns writer = false := hrun
  have hexec : exec (.recordSubmit writer h t) s = .next (s.begin t) := by
    show Host.Outcome.next (if !(s.begin t).hartRuns writer then _ else _) = _
    rw [hrun]
    rfl
  exact ⟨_, hexec, Touches.begin s t (by decide)⟩

theorem recordSubmit_foreign {writer h : Fin 12} (hrun : s.hartRuns writer = true) (hne : writer ≠ h) (t : Nat) :
    Does (.recordSubmit writer h t) s fun u => u = { s with now := t, hits := u.hits, resp := .storeFault, out := [] } := by
  have hrun : (s.begin t).hartRuns writer = true := hrun
  have hexec : exec (.recordSubmit writer h t) s = .next ((s.begin t).answer .storeFault) := by
    show Host.Outcome.next (if !(s.begin t).hartRuns writer then _ else if decide (writer = h) && _ then _ else _) = _
    rw [hrun, decide_eq_false hne]
    rfl
  exact ⟨_, hexec, rfl⟩

end

/-- Settles O51: acceptance lays a record at the head of the staging ring and nothing else, so that its bytes and
registers are read back; a page takes the one record that is staged; what a row costs is followed through every later
step by the relation `GoesOn`, which no record that the recorder writes itself can undo. -/
theorem recorderWork : Obligations.RecorderWork := by
  unfold Obligations.RecorderWork
  intro s q cls src kind obj w0 w1 time ts bad heart writer h off len f x r err row n t P fill taken hdr staged plain
    accepting calm hw bs40 source failed6 foff flen fcls e seq re copied flushing lap spare wrote min_ kbs start lost
  have hflush (hf : flushing) : Flushing f x s := by
    obtain ⟨h1, h2, h3, h4, h5, h6, h7, h8, h9, h10⟩ := hf
    exact ⟨h1, h2, h3, h4, h5, h6, h7, h8, h9, h10⟩
  refine ⟨fun hq ha hcalm hs hroom => ?_, fun hq ha hcalm hres hroom hfill hsrc hcls => ?_,
    fun hq ha hcalm hs hlen _ => ⟨fun hb hsound => ?_, fun hrows hbad htest => ?_, fun hb hsound hplain => ?_⟩,
    fun hrun => recordSubmit_idle hrun h t, fun hrun hne => recordSubmit_foreign hrun hne t,
    fun hrun hopen => recordSubmit_own hrun hopen t, fun hnone hpos hlast => flushTimer_fires hnone hpos hlast,
    fun hidle => flushTimer_idle hidle, fun hf herr hx hheart hpages => ⟨fun hall => ?_, fun hpart hempty => ?_⟩,
    fun hf hrow hph hx => ⟨?_, fun herr hbad => ?_⟩, oldestRead_does s t, nextRead_does s t,
    fun he hph => (readStart_does hph heart t).1 he, fun he hph => (readStart_does hph heart t).2 he,
    fun hr hs => readDone_does hr hs err n t, fun hr hph => recorderReset_does hr hph n t, recorderResetDone_does s t,
    fun h1 h2 h3 h4 h5 h6 h7 h8 => ?_, fun hle hph => (rate24_does hph len t).1 hle,
    fun hgt hwas hph => (rate24_does hph len t).2 hgt hwas⟩
  · exact hwAccepted hq ha hcalm.1 hcalm.2 hs hroom bad t
  · exact hwDropped hq ha hcalm.1 hcalm.2 hres hroom hfill hsrc hcls bad t
  · subst hb
    exact fwFailed hq ha hcalm.2 hsound t
  · exact fwUncorrectable hq ha hcalm.2 hrows hbad htest bad t
  · subst hb
    obtain ⟨hfill, hne1, hne2⟩ := hplain
    exact fwAccepted hq ha hcalm.1 hcalm.2 hs hlen hsound hfill hne1 hne2 t
  · exact pageProgrammed_whole (hflush hf) herr hx hheart hpages hall t
  · exact pageProgrammed_part (hflush hf) herr hheart hpages hpart hempty t
  · exact pageProgrammed_named (hflush hf) hrow hph hx t
  · exact pageProgrammed_found (hflush hf) hrow hph hx herr hbad t
  · have hstart : Startable s := ⟨h1, h2, h3, h4, h5, h6, h7, h8⟩
    exact ⟨fun hlow hopen => recorderStart_goesOn hstart hlow hopen t,
      fun hlow hkey hclosed hfull => recorderStart_closes hstart hlow hkey hclosed hfull t⟩

end Sys2Proof.Machine
